-- ==== Sys2Proof/Word.lean ====
section
/-! DEFINITION. The plain types of the Millith MX model: words, bytes and the names of the harts that issue strand
instructions (00 R3, R4; 03 R90). -/

namespace Sys2Proof

/-- A 64-bit register word (03 R90). -/
abbrev Word := BitVec 64

/-- A byte (00 R4). -/
abbrev Byte := BitVec 8

end Sys2Proof
end

