-- ==== Sys2Proof/Syntax.lean ====
section
/-! DEFINITION. The commands of the Millith MX block: one constructor per row of the table of operations and events, and
the fields of the strand instructions (03 R90, R99, R100). -/

namespace Sys2Proof

/-- Who issues a strand instruction: strand `n` of the physical core with index 68 d + cc, or the thread of control core
`k` (03 R90, R128; 00 R20). -/
inductive Hart where
  | strand (core : Fin 272) (n : Fin 64)
  | ctrl (k : Fin 20)
deriving DecidableEq, Repr

/-- A general register g0-g31 (03 R90). -/
abbrev Reg := Fin 32

/-- A predicate p0-p7 (03 R90). -/
abbrev PredReg := Fin 8

/-- A guard: PNEG and PRED (03 R95, R99). -/
structure Guard where
  neg : Bool
  pred : PredReg
deriving DecidableEq, Repr

/-- The second operand of form C: RS2, or IMM32 where IMMSEL is 1 (03 R100, R101). -/
inductive Operand where
  | reg (rs2 : Reg)
  | imm (v : BitVec 32)
deriving DecidableEq, Repr

/-- What one read of a channel meets: the byte errors of its codewords, each a byte, numbered on from one codeword's 72 to the next's, and the mask its
wrong bits make, and how many errors the on-die code reports (12 R461, R462). -/
structure ReadErrors where
  bytes : List (Nat × Nat)
  inner : Nat
deriving DecidableEq, Repr

/-- What a retrained channel reports: whether every refresh was issued in time, and the lanes that fail (12 R465, R474). -/
structure RetrainReport where
  kept : Bool
  failing : Nat
deriving DecidableEq, Repr

/-- A write-combining entry as it is written back: its unit, and what the read of a partial one meets (12 R454, R466). -/
structure UnitRead where
  unit : Nat
  err : ReadErrors
deriving DecidableEq, Repr

/-- What a channel test found: the offsets of the units that failed, and those of the units corrected with the bytes corrected (12 R466, R475). -/
structure TestReport where
  failing : List Nat
  corrected : List (Nat × Nat)
deriving DecidableEq, Repr

/-- What the FEC reports of a cell: whether it lies in a codeword reported uncorrectable, and how many such codewords are reported with this cell first,
since one codeword reaches over several cells (13 R488, R527). -/
structure FecReport where
  bad : Bool
  fresh : Nat
deriving DecidableEq, Repr

/-- What a unit reports of its bring-up: the state it reaches, what fails in it, and the offsets of a channel's units that failed its tests (16 R630; 12
R475). -/
structure UnitReport where
  state : Nat
  failing : Nat
  units : List Nat
deriving DecidableEq, Repr

/-- The commands of the block. -/
inductive Instr where
  /-- At T+0 of each tick the tick sequencer sends the launch token: RELEASE gates open, re-runs and due work are placed, and the Prime phase begins. (R49) -/
  | tickStart
  /-- Once the tick sequencer is READY and the time unit is LOCKED or FREE, ticks start at the first tick a full period later, with an empty sealed plan written by the tick sequencer itself. (R67) -/
  | firstTickStart
  /-- At T+2 µs Prime ends and Run begins. (R49) -/
  | runBegin
  /-- At the settle point no further task starts, vetoes are sent, heartbeats are sent and undropped releases are dropped. (R51) -/
  | settlePoint
  /-- At the apply point running tasks are cut off LATE, snapshots are taken, the NEXT plan is checked and the commit stage starts. (R57) -/
  | applyPoint (temps : List (Nat × Nat)) (reach : Nat)
  /-- Once every commit-stage item has completed or been deferred, the MIGRATE items run in plan order. (R59) -/
  | copyStage (reach : Nat)
  /-- At 4 µs before the end of the tick, the commit-stage and copy-stage items that have not completed are deferred whole. (R60) -/
  | bulkCutOff
  /-- Released descriptors that were not read by T+0, or that found a full list, are entered after T+0 as room frees. (R389) -/
  | releaseLateEntry
  /-- A received PLAN summary confirms the matching common items and reports broken barriers. (R514) -/
  | summaryPlanRx (src tag : Nat) (body : List Byte)
  /-- A received veto makes the device skip the vetoed items and raise COMMON_VETOED. (R63) -/
  | summaryVetoRx (src tag : Nat) (body : List Byte)
  /-- The destination of a cross-device move receives an OFFER, allocates space and answers with an ACCEPT. (R514) -/
  | summaryOfferRx (src tag : Nat) (body : List Byte)
  /-- The source receives an ACCEPT with relocation bases for its MIGRATE items. (R514) -/
  | summaryAcceptRx (src tag : Nat) (body : List Byte)
  /-- A received PTP message (Sync, Follow_Up, Announce or a Pdelay message) is timestamped and processed by the boundary clock. (R73) -/
  | ptpMessageRx (port : Nat) (body : List Byte)
  /-- A Sync and Follow_Up pair is sent at each sync interval. (R73) -/
  | ptpSyncTx (port : Nat)
  /-- A Pdelay_Req is sent at each peer-delay interval. (R73) -/
  | ptpPdelayReqTx (port : Nat)
  /-- An Announce is sent at each announce interval. (R73) -/
  | ptpAnnounceTx (port : Nat)
  /-- The announce receipt timeout expires, and the BMCA chooses again. (R73) -/
  | announceReceiptTimeout (port : Nat)
  /-- No valid measurement arrives for 3 sync intervals, and the time unit enters HOLDOVER. (R69) -/
  | syncLoss
  /-- The holdover error estimate exceeds HOLD_LIMIT_NS, and the next source is tried, or the unit goes FREE or ADRIFT. (R69) -/
  | holdoverLimit
  /-- A PTM request is issued every 10 ms while PTM is the source. (R75) -/
  | ptmRequest
  /-- A completed PTM dialogue gives one time measurement. (R75) -/
  | ptmResponse (t1 t2 t3 t4 : Nat)
  /-- A Manchester word carrying the next tick number is received on TICK_IN. (R76) -/
  | tickInWord (word : Nat)
  /-- A TICK_IN edge arrives, and is taken as one measurement or as a missed one. (R77) -/
  | tickInEdge
  /-- 1 µs after the edge, TICK_OUT sends the 72-bit word announcing the next tick. (R76) -/
  | tickOutWord
  /-- An idle strand takes the chosen startable task, stolen if need be, and is set up as R91 lays down. (R393) -/
  | taskDispatch (lcore : Nat)
  /-- The condition that a WAIT strand awaits (load data, queue room, list room, fetch, command) holds, and the strand becomes READY. (R96) -/
  | strandWaitEnd (h : Hart)
  /-- A strand in SPIN sees its release at an issue turn and becomes READY. (R96) -/
  | strandReleaseSeen (h : Hart)
  /-- A strand's wait deadline passes, and the task ends with cause STRAND_TIMEOUT. (R96) -/
  | strandTimeout (h : Hart)
  /-- An undefined or malformed instruction ends the task with cause ILLEGAL. (R102) -/
  | illegal (h : Hart) (g : Guard)
  /-- Integer add modulo 2^64. (R102) -/
  | add (h : Hart) (g : Guard) (rd rs1 rs2 : Reg)
  /-- Integer subtract modulo 2^64. (R102) -/
  | sub (h : Hart) (g : Guard) (rd rs1 rs2 : Reg)
  /-- Low 64 bits of the product. (R102) -/
  | mul (h : Hart) (g : Guard) (rd rs1 rs2 : Reg)
  /-- High 64 bits of the unsigned product. (R102) -/
  | mulhu (h : Hart) (g : Guard) (rd rs1 rs2 : Reg)
  /-- High 64 bits of the signed product. (R102) -/
  | mulhs (h : Hart) (g : Guard) (rd rs1 rs2 : Reg)
  /-- Unsigned quotient, with the defined result for division by zero. (R103) -/
  | divu (h : Hart) (g : Guard) (rd rs1 rs2 : Reg)
  /-- Signed quotient rounded toward zero, with the defined overflow and zero results. (R103) -/
  | divs (h : Hart) (g : Guard) (rd rs1 rs2 : Reg)
  /-- Unsigned remainder. (R103) -/
  | remu (h : Hart) (g : Guard) (rd rs1 rs2 : Reg)
  /-- Signed remainder with the sign of x. (R103) -/
  | rems (h : Hart) (g : Guard) (rd rs1 rs2 : Reg)
  /-- Bitwise AND. (R102) -/
  | and (h : Hart) (g : Guard) (rd rs1 rs2 : Reg)
  /-- Bitwise OR. (R102) -/
  | or (h : Hart) (g : Guard) (rd rs1 rs2 : Reg)
  /-- Bitwise XOR. (R102) -/
  | xor (h : Hart) (g : Guard) (rd rs1 rs2 : Reg)
  /-- x AND NOT y. (R102) -/
  | andn (h : Hart) (g : Guard) (rd rs1 rs2 : Reg)
  /-- Shift left by y[5:0]. (R102) -/
  | shl (h : Hart) (g : Guard) (rd rs1 rs2 : Reg)
  /-- Logical shift right by y[5:0]. (R102) -/
  | shru (h : Hart) (g : Guard) (rd rs1 rs2 : Reg)
  /-- Arithmetic shift right by y[5:0]. (R102) -/
  | shrs (h : Hart) (g : Guard) (rd rs1 rs2 : Reg)
  /-- Signed minimum. (R102) -/
  | mins (h : Hart) (g : Guard) (rd rs1 rs2 : Reg)
  /-- Signed maximum. (R102) -/
  | maxs (h : Hart) (g : Guard) (rd rs1 rs2 : Reg)
  /-- Unsigned minimum. (R102) -/
  | minu (h : Hart) (g : Guard) (rd rs1 rs2 : Reg)
  /-- Unsigned maximum. (R102) -/
  | maxu (h : Hart) (g : Guard) (rd rs1 rs2 : Reg)
  /-- Select x or y by predicate PS. (R102) -/
  | sel (h : Hart) (g : Guard) (rd rs1 rs2 : Reg) (ps : PredReg)
  /-- x × y + z modulo 2^64. (R102) -/
  | madd (h : Hart) (g : Guard) (rd rs1 rs2 rs3 : Reg)
  /-- Count of ones. (R102) -/
  | popc (h : Hart) (g : Guard) (rd rs1 : Reg)
  /-- Count of leading zeros. (R102) -/
  | clz (h : Hart) (g : Guard) (rd rs1 : Reg)
  /-- Count of trailing zeros. (R102) -/
  | ctz (h : Hart) (g : Guard) (rd rs1 : Reg)
  /-- Add a sign-extended immediate. (R102) -/
  | addi (h : Hart) (g : Guard) (rd rs1 : Reg) (imm : BitVec 32)
  /-- Multiply by a sign-extended immediate. (R102) -/
  | muli (h : Hart) (g : Guard) (rd rs1 : Reg) (imm : BitVec 32)
  /-- AND with a zero-extended immediate. (R101) -/
  | andi (h : Hart) (g : Guard) (rd rs1 : Reg) (imm : BitVec 32)
  /-- OR with a zero-extended immediate. (R101) -/
  | ori (h : Hart) (g : Guard) (rd rs1 : Reg) (imm : BitVec 32)
  /-- XOR with a zero-extended immediate. (R101) -/
  | xori (h : Hart) (g : Guard) (rd rs1 : Reg) (imm : BitVec 32)
  /-- Shift left by an immediate. (R102) -/
  | shli (h : Hart) (g : Guard) (rd rs1 : Reg) (imm : BitVec 32)
  /-- Logical shift right by an immediate. (R102) -/
  | shrui (h : Hart) (g : Guard) (rd rs1 : Reg) (imm : BitVec 32)
  /-- Arithmetic shift right by an immediate. (R102) -/
  | shrsi (h : Hart) (g : Guard) (rd rs1 : Reg) (imm : BitVec 32)
  /-- FP32 add, setting FFLAGS. (R104) -/
  | fadd (h : Hart) (g : Guard) (rd rs1 rs2 : Reg)
  /-- FP32 subtract. (R104) -/
  | fsub (h : Hart) (g : Guard) (rd rs1 rs2 : Reg)
  /-- FP32 multiply. (R104) -/
  | fmul (h : Hart) (g : Guard) (rd rs1 rs2 : Reg)
  /-- FP32 fused multiply-add with one rounding. (R104) -/
  | ffma (h : Hart) (g : Guard) (rd rs1 rs2 rs3 : Reg)
  /-- FP32 minimum. (R104) -/
  | fmin (h : Hart) (g : Guard) (rd rs1 rs2 : Reg)
  /-- FP32 maximum. (R104) -/
  | fmax (h : Hart) (g : Guard) (rd rs1 rs2 : Reg)
  /-- Convert a signed 64-bit integer to FP32. (R102) -/
  | fcvtsi (h : Hart) (g : Guard) (rd rs1 : Reg)
  /-- Convert FP32 to a signed 64-bit integer, saturating, with the flags of R274. (R102) -/
  | fcvtis (h : Hart) (g : Guard) (rd rs1 : Reg)
  /-- Predicate set if equal. (R102) -/
  | cmpeq (h : Hart) (g : Guard) (pd : PredReg) (rs1 : Reg) (y : Operand)
  /-- Predicate set if not equal. (R102) -/
  | cmpne (h : Hart) (g : Guard) (pd : PredReg) (rs1 : Reg) (y : Operand)
  /-- Predicate set if less, signed. (R102) -/
  | cmplts (h : Hart) (g : Guard) (pd : PredReg) (rs1 : Reg) (y : Operand)
  /-- Predicate set if less or equal, signed. (R102) -/
  | cmples (h : Hart) (g : Guard) (pd : PredReg) (rs1 : Reg) (y : Operand)
  /-- Predicate set if less, unsigned. (R102) -/
  | cmpltu (h : Hart) (g : Guard) (pd : PredReg) (rs1 : Reg) (y : Operand)
  /-- Predicate set if less or equal, unsigned. (R102) -/
  | cmpleu (h : Hart) (g : Guard) (pd : PredReg) (rs1 : Reg) (y : Operand)
  /-- FP32 compare equal. (R102) -/
  | fcmpeq (h : Hart) (g : Guard) (pd : PredReg) (rs1 : Reg) (y : Operand)
  /-- FP32 compare less. (R102) -/
  | fcmplt (h : Hart) (g : Guard) (pd : PredReg) (rs1 : Reg) (y : Operand)
  /-- FP32 compare less or equal. (R102) -/
  | fcmple (h : Hart) (g : Guard) (pd : PredReg) (rs1 : Reg) (y : Operand)
  /-- FP32 compare unordered. (R102) -/
  | fcmpun (h : Hart) (g : Guard) (pd : PredReg) (rs1 : Reg) (y : Operand)
  /-- Predicate AND. (R102) -/
  | pand (h : Hart) (g : Guard) (pd pa pb : PredReg)
  /-- Predicate OR. (R102) -/
  | por (h : Hart) (g : Guard) (pd pa pb : PredReg)
  /-- Predicate XOR. (R102) -/
  | pxor (h : Hart) (g : Guard) (pd pa pb : PredReg)
  /-- Predicate AND NOT. (R102) -/
  | pandn (h : Hart) (g : Guard) (pd pa pb : PredReg)
  /-- Zero-extended 1-byte load. (R116) -/
  | ld8u (h : Hart) (g : Guard) (rd rs1 : Reg) (space : Bool) (imm : BitVec 32)
  /-- Zero-extended 2-byte load. (R116) -/
  | ld16u (h : Hart) (g : Guard) (rd rs1 : Reg) (space : Bool) (imm : BitVec 32)
  /-- Zero-extended 4-byte load. (R116) -/
  | ld32u (h : Hart) (g : Guard) (rd rs1 : Reg) (space : Bool) (imm : BitVec 32)
  /-- 8-byte load. (R116) -/
  | ld64 (h : Hart) (g : Guard) (rd rs1 : Reg) (space : Bool) (imm : BitVec 32)
  /-- Sign-extended 1-byte load. (R116) -/
  | ld8s (h : Hart) (g : Guard) (rd rs1 : Reg) (space : Bool) (imm : BitVec 32)
  /-- Sign-extended 2-byte load. (R116) -/
  | ld16s (h : Hart) (g : Guard) (rd rs1 : Reg) (space : Bool) (imm : BitVec 32)
  /-- Sign-extended 4-byte load. (R116) -/
  | ld32s (h : Hart) (g : Guard) (rd rs1 : Reg) (space : Bool) (imm : BitVec 32)
  /-- 1-byte store, faulting on a protected page. (R117) -/
  | st8 (h : Hart) (g : Guard) (rd rs1 : Reg) (space : Bool) (imm : BitVec 32)
  /-- 2-byte store. (R117) -/
  | st16 (h : Hart) (g : Guard) (rd rs1 : Reg) (space : Bool) (imm : BitVec 32)
  /-- 4-byte store. (R117) -/
  | st32 (h : Hart) (g : Guard) (rd rs1 : Reg) (space : Bool) (imm : BitVec 32)
  /-- 8-byte store. (R117) -/
  | st64 (h : Hart) (g : Guard) (rd rs1 : Reg) (space : Bool) (imm : BitVec 32)
  /-- Atomic 32-bit add, returning the old value. (R102) -/
  | aadd32 (h : Hart) (g : Guard) (rd rs1 rs2 : Reg)
  /-- Atomic 64-bit add. (R102) -/
  | aadd64 (h : Hart) (g : Guard) (rd rs1 rs2 : Reg)
  /-- Atomic unsigned minimum. (R102) -/
  | aminu64 (h : Hart) (g : Guard) (rd rs1 rs2 : Reg)
  /-- Atomic unsigned maximum. (R102) -/
  | amaxu64 (h : Hart) (g : Guard) (rd rs1 rs2 : Reg)
  /-- Atomic OR. (R102) -/
  | aor64 (h : Hart) (g : Guard) (rd rs1 rs2 : Reg)
  /-- Atomic AND. (R102) -/
  | aand64 (h : Hart) (g : Guard) (rd rs1 rs2 : Reg)
  /-- Atomic swap. (R102) -/
  | aswap64 (h : Hart) (g : Guard) (rd rs1 rs2 : Reg)
  /-- Atomic compare-and-swap. (R102) -/
  | acas64 (h : Hart) (g : Guard) (rd rs1 rs2 rs3 : Reg)
  /-- Atomic FP32 add. (R102) -/
  | afadd32 (h : Hart) (g : Guard) (rd rs1 rs2 : Reg)
  /-- PC-relative branch. (R102) -/
  | br (h : Hart) (g : Guard) (imm : BitVec 32)
  /-- Indirect branch, faulting MISALIGN on an unaligned target. (R102) -/
  | bri (h : Hart) (g : Guard) (rs1 : Reg)
  /-- PC-relative call that writes the return address. (R102) -/
  | call (h : Hart) (g : Guard) (rd : Reg) (imm : BitVec 32)
  /-- Indirect call. (R102) -/
  | calli (h : Hart) (g : Guard) (rd rs1 : Reg)
  /-- Load a zero-extended 40-bit immediate. (R102) -/
  | li (h : Hart) (g : Guard) (rd : Reg) (imm : BitVec 40)
  /-- Load the high 24 bits of a register. (R102) -/
  | lih (h : Hart) (g : Guard) (rd : Reg) (imm : BitVec 24)
  /-- Copy a gather descriptor into the command queue and return its command id. (R106) -/
  | qgather (h : Hart) (g : Guard) (rd rs1 rs2 : Reg)
  /-- Issue a lookup descriptor. (R106) -/
  | qlookup (h : Hart) (g : Guard) (rd rs1 rs2 : Reg)
  /-- Issue a chain descriptor to the vector engine. (R106) -/
  | qchain (h : Hart) (g : Guard) (rd rs1 rs2 : Reg)
  /-- Issue a matrix descriptor. (R106) -/
  | qmat (h : Hart) (g : Guard) (rd rs1 rs2 : Reg)
  /-- Issue a send descriptor to the gather engine. (R112) -/
  | qsend (h : Hart) (g : Guard) (rd rs1 rs2 : Reg)
  /-- Wait for a command id and return its status, or STALE_ID. (R108) -/
  | qwait (h : Hart) (g : Guard) (rd rs1 : Reg)
  /-- Return whether a command id has completed. (R108) -/
  | qpoll (h : Hart) (g : Guard) (rd rs1 : Reg)
  /-- Wait for all of the task's commands and return the first non-zero status. (R102) -/
  | qdrainall (h : Hart) (g : Guard) (rd : Reg)
  /-- Arrive at a hitch round, completing it or taking a ticket. (R422) -/
  | harrive (h : Hart) (g : Guard) (rd rs1 rs2 : Reg)
  /-- Take a credit or enqueue and spin (TAKE), or spin on the latched ticket (HELD). (R422) -/
  | hwait (h : Hart) (g : Guard) (rd rs1 rs2 : Reg)
  /-- Release the lowest-ticket waiter, or bank a credit. (R422) -/
  | hrelone (h : Hart) (g : Guard) (rd rs1 rs2 : Reg)
  /-- Release every queued waiter. (R422) -/
  | hrelall (h : Hart) (g : Guard) (rd rs1 rs2 : Reg)
  /-- Add a signed value to COUNT, refusing overflow. (R422) -/
  | hadd (h : Hart) (g : Guard) (rd rs1 rs2 : Reg)
  /-- Compare COUNT with the operand. (R422) -/
  | htest (h : Hart) (g : Guard) (rd rs1 rs2 : Reg)
  /-- Arrive at a knot-tree barrier, possibly early, or be refused with RETRY. (R434) -/
  | karrive (h : Hart) (g : Guard) (rd rs1 rs2 : Reg)
  /-- Wait for the latched barrier round to be released. (R435) -/
  | kwait (h : Hart) (g : Guard) (rd rs1 rs2 : Reg)
  /-- No operation. (R102) -/
  | nop (h : Hart) (g : Guard)
  /-- Read a special register. (R114) -/
  | mfs (h : Hart) (g : Guard) (rd : Reg) (idx : BitVec 12)
  /-- Write a special register. (R114) -/
  | mts (h : Hart) (g : Guard) (rs1 : Reg) (idx : BitVec 12)
  /-- Complete every earlier access of the strand before any later one issues. (R118) -/
  | mfence (h : Hart) (g : Guard)
  /-- Submit a task descriptor from the scratchpad to the scheduler. (R105) -/
  | spawn (h : Hart) (g : Guard) (rd rs1 : Reg)
  /-- End the task, wait for its commands and request commit with the result word. (R96) -/
  | tend (h : Hart) (g : Guard) (rs1 : Reg)
  /-- An ending task's commands complete, and its OK outcome is presented to the commit arbiter. (R397) -/
  | taskCommitRequest (h : Hart)
  /-- The commit arbiter grants the first of a final outcome or an abort, and the final record is written or the re-run is scheduled. (R398) -/
  | commitArbiterGrant (die : Nat)
  /-- After the final record is visible, COMP_HITCH receives an HADD of +1. (R402) -/
  | compHitchSignal
  /-- A control core writes a task id to its SCH_ABORT window and starts an abort. (R415) -/
  | schAbort (k : Nat) (task : Nat)
  /-- An abort reaches the commit arbiter and wins, or returns ALREADY_DONE. (R398) -/
  | abortArrival (task : Nat)
  /-- A delay-list entry reaches its due instant and moves to its ready list, or waits for the next tick. (R391) -/
  | delayEntryDue (task : Nat)
  /-- A due entry that waited for a full ready list moves once room frees. (R391) -/
  | delayEntryRoom (task : Nat)
  /-- A remote TASK message is submitted to the scheduler. (R386) -/
  | taskMessageRx (src tag : Nat) (body : List Byte)
  /-- The gather engine submits fragment tasks, resuming as target lists free room. (R173) -/
  | fragmentTaskSubmit (core id : Nat)
  /-- The gather engine checks a gather descriptor and starts walking its inputs. (R154) -/
  | gatherStart (core : Nat)
  /-- A gather command completes with its status words and command status. (R157) -/
  | gatherComplete (core id : Nat)
  /-- The gather engine checks a lookup descriptor and starts fetching or staging rows. (R308) -/
  | lookupStart (core : Nat)
  /-- A lookup completes with its status words. (R310) -/
  | lookupComplete (core id : Nat)
  /-- The gather engine checks a send descriptor, builds the message and hands it over, applies it or submits it. (R113) -/
  | sendStart (core : Nat)
  /-- Run-ahead data unconsumed for 16 µs is discarded. (R169) -/
  | runaheadDiscard (core : Nat)
  /-- A remote request's timeout expires, and its unanswered items take the GREY outcome. (R510) -/
  | remoteGatherTimeout (tag : Nat)
  /-- The vector engine checks a chain descriptor and runs its sweeps. (R197) -/
  | chainStart (core : Nat)
  /-- A chain completes, writing its report and ORing its flags into FFLAGS. (R218) -/
  | chainComplete (core : Nat)
  /-- The matrix engine checks a descriptor, checks ownership and partial capacity, and makes the products. (R236) -/
  | matrixStart (core : Nat)
  /-- The last output row is written, the shadow set is cleared and the draining command completes. (R241) -/
  | drainComplete (core : Nat)
  /-- A matrix command completes, writing its report. (R254) -/
  | matrixComplete (core id : Nat)
  /-- A channel controller serves a read on the narrow or wide path, decodes it and counts load. (R452) -/
  | hbmRead (addr len : Nat) (wide : Bool) (err : ReadErrors) (task : Nat)
  /-- A channel controller accepts a write, merging it into the write-combining buffer or writing whole units. (R453) -/
  | hbmWrite (addr : Nat) (data : List Byte) (task : Nat)
  /-- A write-combining entry reaches 2 µs of age and is written back. (R454) -/
  | wcbAgeWriteback (chan : Nat) (unit : UnitRead)
  /-- A corrected codeword is written back in the BACKGROUND class. (R463) -/
  | correctedWriteback (chan off : Nat)
  /-- A request unanswered for 50 µs times out, and 8 timeouts in a tick put the channel GREY. (R460) -/
  | memRequestTimeout (chan off task : Nat)
  /-- The patrol scrub reads a unit and acts on the result. (R473) -/
  | patrolScrubRead (chan : Nat) (err : ReadErrors)
  /-- Before ticks start, the stack temperature is read every 1 ms and acted on at once. (R470) -/
  | thermalReadingBringup (stack temp : Nat)
  /-- A retrained channel keeps its contents and runs READ_VERIFY, or is marked LOST. (R474) -/
  | channelRetrainDone (chan : Nat) (kept : RetrainReport)
  /-- MEM_CH_CTL.START starts a READ_VERIFY or DESTRUCTIVE test. (R482) -/
  | start (chan value : Nat)
  /-- MEM_CH_CTL.ABORT stops the running test. (R482) -/
  | abort (chan : Nat)
  /-- MEM_CH_CTL.CLEAR_LOST zero-fills a lost channel, held until its record is acknowledged. (R474) -/
  | clearLost (chan : Nat)
  /-- A channel test ends with its result, remaps and fences. (R483) -/
  | memTestComplete (chan : Nat) (failing : TestReport)
  /-- A slot frame begins, its marker is sent and its cell positions are filled by grants, control, replays and spill. (R490) -/
  | slotFrameStart
  /-- A frame marker is received, carrying ACK, NAK and credits, and checking CFG and PEER. (R492) -/
  | markerRx (port : Nat) (body : List Byte)
  /-- A frame's marker window closes without a valid marker, and 4 missing frames take the link down. (R493) -/
  | markerWindowClose (port : Nat)
  /-- A cell is received, checked, ordered by SEQ and reassembled or forwarded. (R488) -/
  | cellRx (port : Nat) (raw : List Byte) (corr : Nat) (fec : FecReport)
  /-- PMD training and PCS alignment complete, and the port enters TESTING. (R519) -/
  | portTrained (port : Nat)
  /-- A port not trained within 1 s trains again. (R519) -/
  | trainingTimeout (port : Nat)
  /-- An owner receives a remote gather request and walks lists or fetches rows, forwarding if needed. (R507) -/
  | gatherReq (src tag : Nat) (body : List Byte)
  /-- A requester receives a response message and joins its parts into outputs. (R508) -/
  | gatherRsp (src tag : Nat) (body : List Byte)
  /-- A destination applies or refuses a scatter-add message and signals its hitch. (R511) -/
  | scatterAdd (src tag : Nat) (body : List Byte)
  /-- A remote hitch operation is applied and answered with HITCH_RSP. (R516) -/
  | hitchOp (src tag : Nat) (body : List Byte)
  /-- A remote hitch response completes the issuing strand's instruction. (R516) -/
  | hitchRsp (src tag : Nat) (body : List Byte)
  /-- A remote hitch response not received in time gives the issuer status GREY. (R516) -/
  | hitchRspTimeout (tag : Nat)
  /-- A device root receives an arrival from a child device. (R517) -/
  | knotArrive (src tag : Nat) (body : List Byte)
  /-- A device root receives a release from its parent and passes it down. (R517) -/
  | knotRelease (src tag : Nat) (body : List Byte)
  /-- A break notice is received and passed on once over the other tree links. (R517) -/
  | knotBreak (src tag : Nat) (body : List Byte)
  /-- An arrival reaches a knot-tree node above the core level and is counted or forwarded, or releases at the root. (R433) -/
  | knotNodeArrival (barrier node : Nat)
  /-- A release reaches a core node, which clears its counts, flips CUR and raises ROUND. (R434) -/
  | knotReleaseArrival (barrier node : Nat)
  /-- A relocation broadcast part is received and checked for gaps. (R515) -/
  | relocBcast (src tag : Nat) (body : List Byte)
  /-- A source receives a gap query and resends the broadcast or answers EXPIRED. (R515) -/
  | relocQuery (src tag : Nat) (body : List Byte)
  /-- A destination writes streamed migration rows and acknowledges each message. (R518) -/
  | rowStream (src tag : Nat) (body : List Byte)
  /-- A source receives a ROW_STREAM acknowledgement and counts its rows as copied. (R518) -/
  | rowStreamAck (src tag : Nat) (body : List Byte)
  /-- A release returned by a departed waiter is applied again as a fresh HRELONE. (R424) -/
  | returnedRelease (hitch : Nat)
  /-- A departing waiter's ticket is withdrawn from the hitch root. (R424) -/
  | ticketWithdraw
  /-- A control core clears a hitch, releasing its waiters with BROKEN. (R428) -/
  | hitClear (k hitch : Nat)
  /-- A control core writes a barrier definition, which takes effect at the next switch stage. (R431) -/
  | barrierDefine (k barrier : Nat) (entry : List Byte)
  /-- At T+0 after a step ends, each Rugon die pushes its gradient half to the owner and signals PUSH_HITCH. (R542) -/
  | layerPush
  /-- At T+0 each Rugon die drains the previous tick's ring half to the row homes. (R546) -/
  | ringDrain
  /-- The owner sums a LAYER gradient message into its step accumulator. (R544) -/
  | gradientLayer (src tag : Nat) (body : List Byte)
  /-- The home sums a ROWS gradient message into its row accumulator. (R547) -/
  | gradientRows (src tag : Nat) (body : List Byte)
  /-- A DONE message is received, and the step or tick closes once every device has sent DONE. (R544) -/
  | gradientDone (src tag : Nat) (body : List Byte)
  /-- At the settle point of the last tick of step s+1, the owner closes step s. (R544) -/
  | layerStepTimeout (layer : Nat)
  /-- At the settle point of tick n+1, the home closes tick n for the table. (R547) -/
  | rowTickTimeout (table : Nat)
  /-- A row held at the Rugon die is staged when its FIFO has room or the apply window ends. (R316) -/
  | stagingRetry
  /-- Once NEXT is EMPTY after a step, the owner converts and scatters the new version. (R554) -/
  | sliceScatter (layer : Nat)
  /-- A background root refresh ends, and its roots or a fallback are chosen. (R553) -/
  | rootRefreshDone (layer : Nat)
  /-- A receiving Rugon die writes SLICE data into its next buffer. (R557) -/
  | sliceData (src tag : Nat) (body : List Byte)
  /-- An END message completes the next buffer when every element has arrived. (R557) -/
  | sliceEnd (src tag : Nat) (body : List Byte)
  /-- A new owner receives a slice in a PULL message and builds the master. (R558) -/
  | slicePull (src tag : Nat) (body : List Byte)
  /-- A core check failure fences the core at once. (R576) -/
  | coreCheck (core check : Nat)
  /-- HB_TICKS consecutive missed heartbeats fence the core. (R577) -/
  | coreHeartbeat (core : Nat)
  /-- A control core fault stops the core, and repeated faults fence it. (R584) -/
  | ctrlCoreFault (k cause : Nat)
  /-- DIE_TICKS missing die tokens put a compute die or the Rugon die into GREY. (R585) -/
  | dieTimeout (die : Nat)
  /-- A grey die is reset, trained and tested alone. (R588) -/
  | dieRestart (die : Nat)
  /-- HOLD_TICKS reaches STALL_TICKS, and all control cores restart. (R590) -/
  | controlStall
  /-- HOLD_TICKS reaches DEV_TICKS, and the device goes GREY. (R591) -/
  | deviceWatchdog
  /-- The keeper fails to refresh its watchdog in 2 s, and the management plane restarts. (R593) -/
  | keeperWatchdog
  /-- A report reaches the fault aggregator and is filed, coalesced or overflowed. (R600) -/
  | faultReport (kind cls action subject reporter : Nat) (ack : Bool) (detail : Nat)
  /-- A unit's recovery completes, and it sets RECOVERED. (R571) -/
  | unitRecoveryDone (unit : Nat)
  /-- The host acknowledges a pending ACK_REQ record, releasing its awaiting action. (R603) -/
  | fltAck (seq : Nat)
  /-- Management forces a readiness entry into GREY. (R635) -/
  | grey (source unit : Nat)
  /-- Management withdraws its force (RDY_CMD RELEASE), and the unit runs its recovery. (R635) -/
  | releaseForce (source unit : Nat)
  /-- The keeper confirms a recovered unit's exit from grey. (R635) -/
  | confirm (source unit : Nat)
  /-- A request whose needed unit has not settled within WAIT_MS completes NOT_READY. (R637) -/
  | requestNotReady (req : Nat)
  /-- A unit reports its bring-up state. (R630) -/
  | unitBringupReport (unit : Nat) (state : UnitReport)
  /-- Once all cores of a die have settled, the die assigns its logical numbers. (R631) -/
  | coreMapAssign (die : Nat)
  /-- A rising PWRGOOD starts a cold start, samples GPIO0-3 and starts the ROM. (R615) -/
  | pwrgoodRise (gpio : Nat)
  /-- A falling PWRGOOD resets the whole module and clears retained SRAM. (R615) -/
  | pwrgoodFall
  /-- A PERST_N assertion, hot reset, link-down or FLR resets the host interface alone. (R704) -/
  | perstNAssert (cause : Nat)
  /-- PERST_N deasserts, and the endpoint loads its configuration space. (R616) -/
  | perstNDeassert
  /-- The endpoint's configuration space is loaded, and it stops answering with Request Retry Status. (R616) -/
  | configSpaceLoaded
  /-- A valid host write restarts the whole device, keeping retained SRAM. (R648) -/
  | bootRestart (value : Nat)
  /-- The keeper image passes, and the stage moves to KEEPER. (R628) -/
  | keeperImagePass (slot : Nat) (object : List Byte)
  /-- The configuration image passes, its values are loaded and the stage moves to CONFIG. (R628) -/
  | configImagePass (slot : Nat) (object : List Byte)
  /-- The control and service objects pass and run, and bring-up starts. (R628) -/
  | firmwarePass (control service : List Byte)
  /-- The keeper finds a fault in its slot's objects and hands back to the ROM, which tries the other slot or halts. (R621) -/
  | imageRejected (slot kind : Nat)
  /-- Control firmware sets READY, enabling the tick sequencer to report READY. (R646) -/
  | bootFwReady (k : Nat)
  /-- The keeper finishes copying, checking and measuring a staged object. (R658) -/
  | stagedImageVerified (comp : Nat) (pass : Bool)
  /-- The management plane restarts and the ROM starts a staged or in-force keeper. (R662) -/
  | keeperRestart (staged : Bool)
  /-- An outstanding nonce expires after 10 minutes. (R671) -/
  | nonceExpiry
  /-- A debug unlock reaches MINUTES and relocks. (R673) -/
  | unlockExpiry
  /-- SERCLK stops for 1 µs, ports go down and time enters HOLDOVER. (R746) -/
  | serclkLoss
  /-- SERCLK is not back within 100 ms, and the device enters GREY. (R746) -/
  | clockLoss
  /-- SERCLK is stable for 10 ms, the ports retrain and RECOVERED is set. (R746) -/
  | serclkReturn
  /-- A die junction reaches 110 °C and the die or device goes GREY. (R751) -/
  | dieOvertemp (die temp : Nat)
  /-- An overheated die's junction falls below 100 °C, and its restart or recovery begins. (R751) -/
  | dieCooled (die temp : Nat)
  /-- A junction at 120 °C drives THERMTRIP_N low and turns off every rail. (R752) -/
  | thermtrip
  /-- The host interface fetches a request entry and starts its operation. (R687) -/
  | requestFetch (queue : Nat)
  /-- A doorbell write sets the request-queue tail. (R686) -/
  | rqTail (queue : Nat) (value : Nat)
  /-- A doorbell write frees completion entries. (R687) -/
  | cqHead (queue : Nat) (value : Nat)
  /-- A table registration is checked and a REGISTER VERSION item is planned. (R297) -/
  | tblRegister (req : Nat)
  /-- The next slot is opened and filled with zero rows or a copy. (R297) -/
  | tblOpen (req : Nat)
  /-- The fill of TBL_OPEN completes. (R298) -/
  | tblOpenDone (req : Nat)
  /-- Row records are written into the next slot. (R300) -/
  | tblWrite (req : Nat)
  /-- The next slot is sealed with a version. (R304) -/
  | tblSeal (req : Nat)
  /-- The next slot returns to EMPTY. (R302) -/
  | tblAbandon (req : Nat)
  /-- A RETIRE VERSION item is planned. (R297) -/
  | tblRetire (req : Nat)
  /-- A FREEZE or THAW VERSION item is planned. (R297) -/
  | tblFreeze (req : Nat)
  /-- Lost rows are staged as restores and committed. (R326) -/
  | tblReload (req : Nat)
  /-- Rows are pinned and moved with REASON PIN. (R370) -/
  | plcPin (req : Nat)
  /-- PIN entries are removed. (R370) -/
  | plcUnpin (req : Nat)
  /-- A hub root is registered with placement. (R370) -/
  | plcHubAdd (req : Nat)
  /-- A hub root's fragments are moved home and the root is unregistered. (R370) -/
  | plcHubDrop (req : Nat)
  /-- A layer registration plans a REGISTER layer VERSION item. (R540) -/
  | lyrRegister (req : Nat)
  /-- The owner sets a layer master from host data and scatters the version. (R540) -/
  | lyrLoad (req : Nat)
  /-- A FREEZE or THAW layer item is planned. (R540) -/
  | lyrFreeze (req : Nat)
  /-- A RETIRE layer item is planned. (R540) -/
  | lyrRetire (req : Nat)
  /-- A new rule block applies from the next closed step. (R540) -/
  | lyrParams (req : Nat)
  /-- A trainable table's rule is set and its rings are reserved. (R540) -/
  | tblRule (req : Nat)
  /-- A pipeline is registered at the next switch stage. (R692) -/
  | pipeRegister (req : Nat)
  /-- A pipeline is unregistered once none of its requests is outstanding. (R693) -/
  | pipeUnregister (req : Nat)
  /-- A root task is made from the template and submitted with the request id. (R694) -/
  | instantiate (req : Nat)
  /-- A host ABORT names a request and arbitrates against its completion. (R699) -/
  | hostAbort (req : Nat)
  /-- The first final record reaches a request's record slot, and the result DMA starts. (R695) -/
  | finalRecordArrival (req : Nat)
  /-- The result bytes have been written, and the completion asks for commit. (R695) -/
  | resultDmaDone (req : Nat)
  /-- The host interface arbiter grants a completion or abort, and the completion entry is written. (R698) -/
  | completionGrant (req : Nat)
  /-- A request without a final record by its deadline is aborted. (R697) -/
  | deadline (req : Nat)
  /-- The oldest unsignalled entry reaches COAL_US, and the vector is signalled. (R689) -/
  | coalesceTimer (queue : Nat)
  /-- A host memory read times out twice, ending the request or suspending the queue. (R703) -/
  | hostTimeout (queue req : Nat)
  /-- A queue pair is enabled. (R711) -/
  | enable (queue : Nat)
  /-- A queue pair stops fetching and becomes DISABLED when it has drained. (R711) -/
  | disable (queue : Nat)
  /-- A SUSPENDED queue resumes fetching. (R703) -/
  | resume (queue : Nat)
  /-- A host read through BAR2 returns device memory or an error completion. (R682) -/
  | bar2Read (off len : Nat)
  /-- A host write through BAR2 is written to device memory or dropped. (R682) -/
  | bar2Write (off : Nat) (data : List Byte)
  /-- A write to a register without a row of its own acts by its access codes. (R7) -/
  | registerWrite (source addr len value : Nat)
  /-- An IDE integrity check fails, and the stream enters Insecure. (R668) -/
  | ideIntegrityFail
  /-- IDE_KM QUERY is answered. (R668) -/
  | query (body : List Byte)
  /-- IDE_KM KEY_PROG programs a key set. (R668) -/
  | keyProg (body : List Byte)
  /-- IDE_KM K_SET_GO switches key sets. (R668) -/
  | kSetGo (body : List Byte)
  /-- IDE_KM K_SET_STOP stops a key set. (R668) -/
  | kSetStop (body : List Byte)
  /-- SPDM GET_VERSION is answered with version 1.3. (R663) -/
  | getVersion (body : List Byte)
  /-- SPDM capabilities are returned. (R664) -/
  | getCapabilities (body : List Byte)
  /-- SPDM algorithms are negotiated as the extended ML-DSA-87 and SHAKE256. (R665) -/
  | negotiateAlgorithms (body : List Byte)
  /-- The slot 0 digest is returned. (R663) -/
  | getDigests (body : List Byte)
  /-- The slot 0 certificate chain is returned. (R666) -/
  | getCertificate (body : List Byte)
  /-- CHALLENGE_AUTH is signed with the alias key. (R663) -/
  | challenge (body : List Byte)
  /-- Measurement blocks are returned, signed when requested. (R667) -/
  | getMeasurements (body : List Byte)
  /-- An unsupported SPDM request gets ERROR UnsupportedRequest. (R663) -/
  | spdmUnsupported (body : List Byte)
  /-- An I3C private transfer 0xD1 reads BAR0 of the allowed blocks. (R720) -/
  | directRead (off len : Nat)
  /-- An I3C private transfer 0xD0 writes RDY_CMD as management. (R720) -/
  | directRdyCmd (body : List Byte)
  /-- A dynamic address is assigned by ENTDAA, SETDASA or SETAASA, and the target enters I3C mode. (R716) -/
  | entdaa (addr : Nat)
  /-- RSTDAA returns the target to SMBus mode. (R717) -/
  | rstdaa
  /-- MCTP Set Endpoint ID assigns the EID. (R718) -/
  | setEndpointId (body : List Byte)
  /-- MCTP Get Endpoint ID is answered. (R718) -/
  | getEndpointId (body : List Byte)
  /-- MCTP Get Endpoint UUID is answered. (R718) -/
  | getEndpointUuid (body : List Byte)
  /-- MCTP Get MCTP Version Support is answered. (R718) -/
  | getMctpVersionSupport (body : List Byte)
  /-- MCTP Get Message Type Support is answered. (R718) -/
  | getMessageTypeSupport (body : List Byte)
  /-- A Birosh READ message returns bytes of the allowed blocks. (R722) -/
  | read (body : List Byte)
  /-- A Birosh FORCE message writes GREY or RELEASE to a readiness entry. (R721) -/
  | force (body : List Byte)
  /-- A Birosh ALERT_MASK message writes FLT_ALERT_MASK. (R721) -/
  | alertMask (body : List Byte)
  /-- The keeper issues a new nonce. (R671) -/
  | nonce (body : List Byte)
  /-- The keeper checks a token and acts by its scope. (R672) -/
  | token (body : List Byte)
  /-- A debug unlock is relocked. (R673) -/
  | relock (body : List Byte)
  /-- PLDM GetTID is answered. (R726) -/
  | gettid (body : List Byte)
  /-- PLDM GetPLDMVersion is answered. (R726) -/
  | getpldmversion (body : List Byte)
  /-- PLDM GetPLDMTypes is answered. (R726) -/
  | getpldmtypes (body : List Byte)
  /-- PLDM GetPLDMCommands is answered. (R726) -/
  | getpldmcommands (body : List Byte)
  /-- PLDM GetPDRRepositoryInfo is answered. (R726) -/
  | getpdrrepositoryinfo (body : List Byte)
  /-- A PDR is returned. (R727) -/
  | getpdr (body : List Byte)
  /-- A numeric sensor reading sampled at the last apply point is returned. (R727) -/
  | getsensorreading (body : List Byte)
  /-- State sensor readings are returned. (R727) -/
  | getstatesensorreadings (body : List Byte)
  /-- A firmware update session opens, or ALREADY_IN_UPDATE_MODE is returned. (R731) -/
  | requestupdate (body : List Byte)
  /-- A component transfer begins to keeper staging or a flash slot. (R728) -/
  | updatecomponent (body : List Byte)
  /-- Verification of an object or slot is reported. (R729) -/
  | verifycomplete (body : List Byte)
  /-- A keeper restart is started, or the flash directory is rewritten for a slot. (R730) -/
  | activatefirmware (body : List Byte)
  /-- The component transfer is cancelled. (R728) -/
  | cancelupdatecomponent (body : List Byte)
  /-- The update session ends, leaving staged objects as they stand. (R731) -/
  | cancelupdate (body : List Byte)
  /-- A host configuration write changes the power state between D0 and D3hot, Bus Master Enable or the Resizable BAR size, stopping or resuming fetches, DMA and interrupts and writing due completion entries on the return to D0. (R680) -/
  | configSpaceWrite (field value : Nat)
  /-- The copy of a failed controller row into its spare completes, the remap entry is activated and the held requests to the row are served from the spare. (R466) -/
  | remapCopyDone (chan row : Nat)
  /-- The rows of a TBL_WRITE have been fetched from host memory and written into the next slot, and the request completes. (R298) -/
  | tblWriteDone (req : Nat)
  /-- The owner has set the layer master from the host buffer, zeroed the state and set RESET_VER, and the LYR_LOAD request completes and the version is scattered. (R540) -/
  | lyrLoadDone (req : Nat)
  /-- A piece of firmware component data, 32 to 4,096 bytes, arrives in a PLDM transfer and is written to keeper staging or the flash slot, ending the component transfer when the last piece arrives. (R728) -/
  | componentDataTransfer (body : List Byte)
  /-- A DOE discovery request in the PCIe DOE mailbox is answered with the supported data object types. (R663) -/
  | doeDiscovery (body : List Byte)
deriving DecidableEq, Repr

end Sys2Proof
end

