-- ==== Sys2Proof/Decode.lean ====
section
/-! DEFINITION. The command that a word of the table spells, and the 64-bit words of the strand instructions. The table of
operations and events gives its rows no bits: a command reaches the block through its interfaces and not as a word. A
strand instruction has an encoding all the same, in the code that strands fetch: it is read and written here (03 R99-R102).
Fields are read from the word as a number, bit 0 the least. -/

namespace Sys2Proof

/-- No word of the table spells a command: its rows have no bits. -/
def decodeTableWord (_nbits _w : Nat) : Option Instr := none

/-! ### Fields (R99, R100) -/

/-- A register field of five bits from bit `lo`. -/
def regAt (w lo : Nat) : Reg := ⟨w / 2 ^ lo % 32, Nat.mod_lt _ (by decide)⟩

/-- A predicate field of three bits from bit `lo`. -/
def predAt (w lo : Nat) : PredReg := ⟨w / 2 ^ lo % 8, Nat.mod_lt _ (by decide)⟩

/-- One bit. -/
def bitAt (w lo : Nat) : Bool := w / 2 ^ lo % 2 == 1

/-- PNEG at [53] and PRED at [52:50]. -/
def guardAt (w : Nat) : Guard := ⟨bitAt w 53, predAt w 50⟩

/-- The second operand of form C: IMM32 where IMMSEL at [39] is 1, otherwise RS2 at [38:34]. -/
def operandAt (w : Nat) : Operand := if bitAt w 39 then .imm (BitVec.ofNat 32 w) else .reg (regAt w 34)

/-! ### Reserved fields of the forms (R99-R102): a form holds when each of its reserved fields is 0

A named field that an operation does not use, such as RS3 of ADD, is no reserved field: the table marks those with a dash
(DEDUCED, log 3). -/

/-- Form R: [26:0]. -/
def formR (w : Nat) : Bool := w % 2 ^ 27 == 0
/-- Form I, and form B: [39:32]. -/
def formI (w : Nat) : Bool := w / 2 ^ 32 % 256 == 0
/-- Form C: [49:48] beside the destination predicate, [33:32], and the operand that IMMSEL does not select (R101). -/
def formC (w : Nat) : Bool :=
  w / 2 ^ 48 % 4 == 0 && w / 2 ^ 32 % 4 == 0 && (if bitAt w 39 then w / 2 ^ 34 % 32 == 0 else w % 2 ^ 32 == 0)
/-- Form C of PAND, POR, PXOR and PANDN: IMMSEL, RS1[4:3], RS2[4:3] and IMM32 too. -/
def formP (w : Nat) : Bool :=
  formC w && w / 2 ^ 39 % 2 == 0 && w / 2 ^ 43 % 4 == 0 && w / 2 ^ 37 % 4 == 0 && w % 2 ^ 32 == 0
/-- Form M: [38:32]. -/
def formM (w : Nat) : Bool := w / 2 ^ 32 % 128 == 0
/-- Form A: [29:0]. -/
def formA (w : Nat) : Bool := w % 2 ^ 30 == 0
/-- Form B: [39:32]. -/
def formB (w : Nat) : Bool := formI w
/-- Form B of BRI and CALLI: IMM32 too. -/
def formB0 (w : Nat) : Bool := w % 2 ^ 40 == 0
/-- Form L: RS1. -/
def formL (w : Nat) : Bool := w / 2 ^ 40 % 32 == 0
/-- Form L of LIH: IMM40[39:24] too. -/
def formL24 (w : Nat) : Bool := formL w && w / 2 ^ 24 % 2 ^ 16 == 0
/-- Forms Q and S: [34:0]. -/
def formQ (w : Nat) : Bool := w % 2 ^ 35 == 0
/-- Form Y: [39:12]. -/
def formY (w : Nat) : Bool := w / 2 ^ 12 % 2 ^ 28 == 0

/-- The instruction where the form holds, otherwise ILLEGAL (R102). -/
def legal (form : Nat → Bool) (h : Hart) (w : Nat) (i : Instr) : Instr := if form w then i else .illegal h (guardAt w)

/-! ### The classes (R102) -/

/-- Class 0x0: integer operations, form R. -/
def class0 (h : Hart) (op w : Nat) : Instr :=
  match op with
  | 0 => legal formR h w (.add h (guardAt w) (regAt w 45) (regAt w 40) (regAt w 35))
  | 1 => legal formR h w (.sub h (guardAt w) (regAt w 45) (regAt w 40) (regAt w 35))
  | 2 => legal formR h w (.mul h (guardAt w) (regAt w 45) (regAt w 40) (regAt w 35))
  | 3 => legal formR h w (.mulhu h (guardAt w) (regAt w 45) (regAt w 40) (regAt w 35))
  | 4 => legal formR h w (.mulhs h (guardAt w) (regAt w 45) (regAt w 40) (regAt w 35))
  | 5 => legal formR h w (.divu h (guardAt w) (regAt w 45) (regAt w 40) (regAt w 35))
  | 6 => legal formR h w (.divs h (guardAt w) (regAt w 45) (regAt w 40) (regAt w 35))
  | 7 => legal formR h w (.remu h (guardAt w) (regAt w 45) (regAt w 40) (regAt w 35))
  | 8 => legal formR h w (.rems h (guardAt w) (regAt w 45) (regAt w 40) (regAt w 35))
  | 9 => legal formR h w (.and h (guardAt w) (regAt w 45) (regAt w 40) (regAt w 35))
  | 10 => legal formR h w (.or h (guardAt w) (regAt w 45) (regAt w 40) (regAt w 35))
  | 11 => legal formR h w (.xor h (guardAt w) (regAt w 45) (regAt w 40) (regAt w 35))
  | 12 => legal formR h w (.andn h (guardAt w) (regAt w 45) (regAt w 40) (regAt w 35))
  | 13 => legal formR h w (.shl h (guardAt w) (regAt w 45) (regAt w 40) (regAt w 35))
  | 14 => legal formR h w (.shru h (guardAt w) (regAt w 45) (regAt w 40) (regAt w 35))
  | 15 => legal formR h w (.shrs h (guardAt w) (regAt w 45) (regAt w 40) (regAt w 35))
  | 16 => legal formR h w (.mins h (guardAt w) (regAt w 45) (regAt w 40) (regAt w 35))
  | 17 => legal formR h w (.maxs h (guardAt w) (regAt w 45) (regAt w 40) (regAt w 35))
  | 18 => legal formR h w (.minu h (guardAt w) (regAt w 45) (regAt w 40) (regAt w 35))
  | 19 => legal formR h w (.maxu h (guardAt w) (regAt w 45) (regAt w 40) (regAt w 35))
  | 20 => legal formR h w (.sel h (guardAt w) (regAt w 45) (regAt w 40) (regAt w 35) (predAt w 27))
  | 21 => legal formR h w (.madd h (guardAt w) (regAt w 45) (regAt w 40) (regAt w 35) (regAt w 30))
  | 22 => legal formR h w (.popc h (guardAt w) (regAt w 45) (regAt w 40))
  | 23 => legal formR h w (.clz h (guardAt w) (regAt w 45) (regAt w 40))
  | 24 => legal formR h w (.ctz h (guardAt w) (regAt w 45) (regAt w 40))
  | _ => .illegal h (guardAt w)

/-- Class 0x1: integer operations with an immediate, form I. -/
def class1 (h : Hart) (op w : Nat) : Instr :=
  match op with
  | 0 => legal formI h w (.addi h (guardAt w) (regAt w 45) (regAt w 40) (BitVec.ofNat 32 w))
  | 2 => legal formI h w (.muli h (guardAt w) (regAt w 45) (regAt w 40) (BitVec.ofNat 32 w))
  | 9 => legal formI h w (.andi h (guardAt w) (regAt w 45) (regAt w 40) (BitVec.ofNat 32 w))
  | 10 => legal formI h w (.ori h (guardAt w) (regAt w 45) (regAt w 40) (BitVec.ofNat 32 w))
  | 11 => legal formI h w (.xori h (guardAt w) (regAt w 45) (regAt w 40) (BitVec.ofNat 32 w))
  | 13 => legal formI h w (.shli h (guardAt w) (regAt w 45) (regAt w 40) (BitVec.ofNat 32 w))
  | 14 => legal formI h w (.shrui h (guardAt w) (regAt w 45) (regAt w 40) (BitVec.ofNat 32 w))
  | 15 => legal formI h w (.shrsi h (guardAt w) (regAt w 45) (regAt w 40) (BitVec.ofNat 32 w))
  | _ => .illegal h (guardAt w)

/-- Class 0x2: FP32 operations, form R. -/
def class2 (h : Hart) (op w : Nat) : Instr :=
  match op with
  | 0 => legal formR h w (.fadd h (guardAt w) (regAt w 45) (regAt w 40) (regAt w 35))
  | 1 => legal formR h w (.fsub h (guardAt w) (regAt w 45) (regAt w 40) (regAt w 35))
  | 2 => legal formR h w (.fmul h (guardAt w) (regAt w 45) (regAt w 40) (regAt w 35))
  | 3 => legal formR h w (.ffma h (guardAt w) (regAt w 45) (regAt w 40) (regAt w 35) (regAt w 30))
  | 4 => legal formR h w (.fmin h (guardAt w) (regAt w 45) (regAt w 40) (regAt w 35))
  | 5 => legal formR h w (.fmax h (guardAt w) (regAt w 45) (regAt w 40) (regAt w 35))
  | 6 => legal formR h w (.fcvtsi h (guardAt w) (regAt w 45) (regAt w 40))
  | 7 => legal formR h w (.fcvtis h (guardAt w) (regAt w 45) (regAt w 40))
  | _ => .illegal h (guardAt w)

/-- Class 0x3: compares and predicates, form C. -/
def class3 (h : Hart) (op w : Nat) : Instr :=
  match op with
  | 0 => legal formC h w (.cmpeq h (guardAt w) (predAt w 45) (regAt w 40) (operandAt w))
  | 1 => legal formC h w (.cmpne h (guardAt w) (predAt w 45) (regAt w 40) (operandAt w))
  | 2 => legal formC h w (.cmplts h (guardAt w) (predAt w 45) (regAt w 40) (operandAt w))
  | 3 => legal formC h w (.cmples h (guardAt w) (predAt w 45) (regAt w 40) (operandAt w))
  | 4 => legal formC h w (.cmpltu h (guardAt w) (predAt w 45) (regAt w 40) (operandAt w))
  | 5 => legal formC h w (.cmpleu h (guardAt w) (predAt w 45) (regAt w 40) (operandAt w))
  | 8 => legal formC h w (.fcmpeq h (guardAt w) (predAt w 45) (regAt w 40) (operandAt w))
  | 9 => legal formC h w (.fcmplt h (guardAt w) (predAt w 45) (regAt w 40) (operandAt w))
  | 10 => legal formC h w (.fcmple h (guardAt w) (predAt w 45) (regAt w 40) (operandAt w))
  | 11 => legal formC h w (.fcmpun h (guardAt w) (predAt w 45) (regAt w 40) (operandAt w))
  | 16 => legal formP h w (.pand h (guardAt w) (predAt w 45) (predAt w 40) (predAt w 34))
  | 17 => legal formP h w (.por h (guardAt w) (predAt w 45) (predAt w 40) (predAt w 34))
  | 18 => legal formP h w (.pxor h (guardAt w) (predAt w 45) (predAt w 40) (predAt w 34))
  | 19 => legal formP h w (.pandn h (guardAt w) (predAt w 45) (predAt w 40) (predAt w 34))
  | _ => .illegal h (guardAt w)

/-- Class 0x4: loads and stores, form M. -/
def class4 (h : Hart) (op w : Nat) : Instr :=
  match op with
  | 0 => legal formM h w (.ld8u h (guardAt w) (regAt w 45) (regAt w 40) (bitAt w 39) (BitVec.ofNat 32 w))
  | 1 => legal formM h w (.ld16u h (guardAt w) (regAt w 45) (regAt w 40) (bitAt w 39) (BitVec.ofNat 32 w))
  | 2 => legal formM h w (.ld32u h (guardAt w) (regAt w 45) (regAt w 40) (bitAt w 39) (BitVec.ofNat 32 w))
  | 3 => legal formM h w (.ld64 h (guardAt w) (regAt w 45) (regAt w 40) (bitAt w 39) (BitVec.ofNat 32 w))
  | 4 => legal formM h w (.ld8s h (guardAt w) (regAt w 45) (regAt w 40) (bitAt w 39) (BitVec.ofNat 32 w))
  | 5 => legal formM h w (.ld16s h (guardAt w) (regAt w 45) (regAt w 40) (bitAt w 39) (BitVec.ofNat 32 w))
  | 6 => legal formM h w (.ld32s h (guardAt w) (regAt w 45) (regAt w 40) (bitAt w 39) (BitVec.ofNat 32 w))
  | 8 => legal formM h w (.st8 h (guardAt w) (regAt w 45) (regAt w 40) (bitAt w 39) (BitVec.ofNat 32 w))
  | 9 => legal formM h w (.st16 h (guardAt w) (regAt w 45) (regAt w 40) (bitAt w 39) (BitVec.ofNat 32 w))
  | 10 => legal formM h w (.st32 h (guardAt w) (regAt w 45) (regAt w 40) (bitAt w 39) (BitVec.ofNat 32 w))
  | 11 => legal formM h w (.st64 h (guardAt w) (regAt w 45) (regAt w 40) (bitAt w 39) (BitVec.ofNat 32 w))
  | _ => .illegal h (guardAt w)

/-- Class 0x5: atomics, form A. -/
def class5 (h : Hart) (op w : Nat) : Instr :=
  match op with
  | 0 => legal formA h w (.aadd32 h (guardAt w) (regAt w 45) (regAt w 40) (regAt w 35))
  | 1 => legal formA h w (.aadd64 h (guardAt w) (regAt w 45) (regAt w 40) (regAt w 35))
  | 2 => legal formA h w (.aminu64 h (guardAt w) (regAt w 45) (regAt w 40) (regAt w 35))
  | 3 => legal formA h w (.amaxu64 h (guardAt w) (regAt w 45) (regAt w 40) (regAt w 35))
  | 4 => legal formA h w (.aor64 h (guardAt w) (regAt w 45) (regAt w 40) (regAt w 35))
  | 5 => legal formA h w (.aand64 h (guardAt w) (regAt w 45) (regAt w 40) (regAt w 35))
  | 6 => legal formA h w (.aswap64 h (guardAt w) (regAt w 45) (regAt w 40) (regAt w 35))
  | 7 => legal formA h w (.acas64 h (guardAt w) (regAt w 45) (regAt w 40) (regAt w 35) (regAt w 30))
  | 8 => legal formA h w (.afadd32 h (guardAt w) (regAt w 45) (regAt w 40) (regAt w 35))
  | _ => .illegal h (guardAt w)

/-- Class 0x6: branches and calls, form B. -/
def class6 (h : Hart) (op w : Nat) : Instr :=
  match op with
  | 0 => legal formB h w (.br h (guardAt w) (BitVec.ofNat 32 w))
  | 1 => legal formB0 h w (.bri h (guardAt w) (regAt w 40))
  | 2 => legal formB h w (.call h (guardAt w) (regAt w 45) (BitVec.ofNat 32 w))
  | 3 => legal formB0 h w (.calli h (guardAt w) (regAt w 45) (regAt w 40))
  | _ => .illegal h (guardAt w)

/-- Class 0x7: constants, form L. -/
def class7 (h : Hart) (op w : Nat) : Instr :=
  match op with
  | 0 => legal formL h w (.li h (guardAt w) (regAt w 45) (BitVec.ofNat 40 w))
  | 1 => legal formL24 h w (.lih h (guardAt w) (regAt w 45) (BitVec.ofNat 24 w))
  | _ => .illegal h (guardAt w)

/-- Class 0x8: commands to the engines, form Q. -/
def class8 (h : Hart) (op w : Nat) : Instr :=
  match op with
  | 0 => legal formQ h w (.qgather h (guardAt w) (regAt w 45) (regAt w 40) (regAt w 35))
  | 1 => legal formQ h w (.qlookup h (guardAt w) (regAt w 45) (regAt w 40) (regAt w 35))
  | 2 => legal formQ h w (.qchain h (guardAt w) (regAt w 45) (regAt w 40) (regAt w 35))
  | 3 => legal formQ h w (.qmat h (guardAt w) (regAt w 45) (regAt w 40) (regAt w 35))
  | 4 => legal formQ h w (.qsend h (guardAt w) (regAt w 45) (regAt w 40) (regAt w 35))
  | 8 => legal formQ h w (.qwait h (guardAt w) (regAt w 45) (regAt w 40))
  | 9 => legal formQ h w (.qpoll h (guardAt w) (regAt w 45) (regAt w 40))
  | 10 => legal formQ h w (.qdrainall h (guardAt w) (regAt w 45))
  | _ => .illegal h (guardAt w)

/-- Class 0x9: hitches and barriers, form S. -/
def class9 (h : Hart) (op w : Nat) : Instr :=
  match op with
  | 0 => legal formQ h w (.harrive h (guardAt w) (regAt w 45) (regAt w 40) (regAt w 35))
  | 1 => legal formQ h w (.hwait h (guardAt w) (regAt w 45) (regAt w 40) (regAt w 35))
  | 2 => legal formQ h w (.hrelone h (guardAt w) (regAt w 45) (regAt w 40) (regAt w 35))
  | 3 => legal formQ h w (.hrelall h (guardAt w) (regAt w 45) (regAt w 40) (regAt w 35))
  | 4 => legal formQ h w (.hadd h (guardAt w) (regAt w 45) (regAt w 40) (regAt w 35))
  | 5 => legal formQ h w (.htest h (guardAt w) (regAt w 45) (regAt w 40) (regAt w 35))
  | 8 => legal formQ h w (.karrive h (guardAt w) (regAt w 45) (regAt w 40) (regAt w 35))
  | 9 => legal formQ h w (.kwait h (guardAt w) (regAt w 45) (regAt w 40) (regAt w 35))
  | _ => .illegal h (guardAt w)

/-- Class 0xA: the rest, form Y. -/
def classA (h : Hart) (op w : Nat) : Instr :=
  match op with
  | 0 => legal formY h w (.nop h (guardAt w))
  | 1 => legal formY h w (.mfs h (guardAt w) (regAt w 45) (BitVec.ofNat 12 w))
  | 2 => legal formY h w (.mts h (guardAt w) (regAt w 40) (BitVec.ofNat 12 w))
  | 3 => legal formY h w (.mfence h (guardAt w))
  | 4 => legal formY h w (.spawn h (guardAt w) (regAt w 45) (regAt w 40))
  | 5 => legal formY h w (.tend h (guardAt w) (regAt w 40))
  | _ => .illegal h (guardAt w)

/-- The instruction that a 64-bit word stands for when a hart fetches it: CLASS at [63:60] and OP at [59:54]; classes 0xB to
0xF raise ILLEGAL (R99, R102). -/
def decodeStrand (h : Hart) (w : Nat) : Instr :=
  let op := w / 2 ^ 54 % 64
  match w / 2 ^ 60 % 16 with
  | 0 => class0 h op w
  | 1 => class1 h op w
  | 2 => class2 h op w
  | 3 => class3 h op w
  | 4 => class4 h op w
  | 5 => class5 h op w
  | 6 => class6 h op w
  | 7 => class7 h op w
  | 8 => class8 h op w
  | 9 => class9 h op w
  | 10 => classA h op w
  | _ => .illegal h (guardAt w)

/-! ### Encoding (R99-R102) -/

/-- A Bool as a bit. -/
def bitOf (b : Bool) : Nat := if b then 1 else 0

/-- Bits [63:50]: CLASS, OP, PNEG and PRED. -/
def headBits (cls op : Nat) (g : Guard) : Nat := cls * 2 ^ 60 + op * 2 ^ 54 + bitOf g.neg * 2 ^ 53 + g.pred.val * 2 ^ 50

/-- IMMSEL, RS2 and IMM32 of form C. -/
def operandBits (y : Operand) : Nat :=
  match y with
  | .reg r => r.val * 2 ^ 34
  | .imm v => 2 ^ 39 + v.toNat

/-- A word of forms R, A, Q and S: RD, RS1, RS2, RS3 and PS. -/
def wordR (cls op : Nat) (g : Guard) (rd rs1 rs2 rs3 : Reg) (ps : PredReg) : Nat :=
  headBits cls op g + (rd.val * 2 ^ 45 + rs1.val * 2 ^ 40 + rs2.val * 2 ^ 35 + rs3.val * 2 ^ 30 + ps.val * 2 ^ 27)

/-- A word of forms I and B: RD, RS1 and IMM32. -/
def wordI (cls op : Nat) (g : Guard) (rd rs1 : Reg) (imm : BitVec 32) : Nat :=
  headBits cls op g + (rd.val * 2 ^ 45 + rs1.val * 2 ^ 40 + imm.toNat)

/-- A word of form C: PD, RS1 and the second operand. -/
def wordC (cls op : Nat) (g : Guard) (pd : PredReg) (rs1 : Reg) (y : Operand) : Nat :=
  headBits cls op g + (pd.val * 2 ^ 45 + rs1.val * 2 ^ 40 + operandBits y)

/-- A word of form C for PAND, POR, PXOR and PANDN. -/
def wordP (cls op : Nat) (g : Guard) (pd pa pb : PredReg) : Nat :=
  headBits cls op g + (pd.val * 2 ^ 45 + pa.val * 2 ^ 40 + pb.val * 2 ^ 34)

/-- A word of form M: RD, RS1, SPACE and IMM32. -/
def wordM (cls op : Nat) (g : Guard) (rd rs1 : Reg) (space : Bool) (imm : BitVec 32) : Nat :=
  headBits cls op g + (rd.val * 2 ^ 45 + rs1.val * 2 ^ 40 + bitOf space * 2 ^ 39 + imm.toNat)

/-- A word of form L: RD and IMM40. -/
def wordL (cls op : Nat) (g : Guard) (rd : Reg) (imm : Nat) : Nat := headBits cls op g + (rd.val * 2 ^ 45 + imm)

/-- A word of form Y: RD, RS1 and IMM12. -/
def wordY (cls op : Nat) (g : Guard) (rd rs1 : Reg) (imm : BitVec 12) : Nat :=
  headBits cls op g + (rd.val * 2 ^ 45 + rs1.val * 2 ^ 40 + imm.toNat)

/-- The word of a strand instruction, with the hart that issues it; none for the other commands, and for ILLEGAL, which is
no one word's. -/
def encodeStrand (i : Instr) : Option (Hart × Nat) :=
  match i with
  | .add h g rd rs1 rs2 => some (h, wordR 0 0 g rd rs1 rs2 0 0)
  | .sub h g rd rs1 rs2 => some (h, wordR 0 1 g rd rs1 rs2 0 0)
  | .mul h g rd rs1 rs2 => some (h, wordR 0 2 g rd rs1 rs2 0 0)
  | .mulhu h g rd rs1 rs2 => some (h, wordR 0 3 g rd rs1 rs2 0 0)
  | .mulhs h g rd rs1 rs2 => some (h, wordR 0 4 g rd rs1 rs2 0 0)
  | .divu h g rd rs1 rs2 => some (h, wordR 0 5 g rd rs1 rs2 0 0)
  | .divs h g rd rs1 rs2 => some (h, wordR 0 6 g rd rs1 rs2 0 0)
  | .remu h g rd rs1 rs2 => some (h, wordR 0 7 g rd rs1 rs2 0 0)
  | .rems h g rd rs1 rs2 => some (h, wordR 0 8 g rd rs1 rs2 0 0)
  | .and h g rd rs1 rs2 => some (h, wordR 0 9 g rd rs1 rs2 0 0)
  | .or h g rd rs1 rs2 => some (h, wordR 0 10 g rd rs1 rs2 0 0)
  | .xor h g rd rs1 rs2 => some (h, wordR 0 11 g rd rs1 rs2 0 0)
  | .andn h g rd rs1 rs2 => some (h, wordR 0 12 g rd rs1 rs2 0 0)
  | .shl h g rd rs1 rs2 => some (h, wordR 0 13 g rd rs1 rs2 0 0)
  | .shru h g rd rs1 rs2 => some (h, wordR 0 14 g rd rs1 rs2 0 0)
  | .shrs h g rd rs1 rs2 => some (h, wordR 0 15 g rd rs1 rs2 0 0)
  | .mins h g rd rs1 rs2 => some (h, wordR 0 16 g rd rs1 rs2 0 0)
  | .maxs h g rd rs1 rs2 => some (h, wordR 0 17 g rd rs1 rs2 0 0)
  | .minu h g rd rs1 rs2 => some (h, wordR 0 18 g rd rs1 rs2 0 0)
  | .maxu h g rd rs1 rs2 => some (h, wordR 0 19 g rd rs1 rs2 0 0)
  | .sel h g rd rs1 rs2 ps => some (h, wordR 0 20 g rd rs1 rs2 0 ps)
  | .madd h g rd rs1 rs2 rs3 => some (h, wordR 0 21 g rd rs1 rs2 rs3 0)
  | .popc h g rd rs1 => some (h, wordR 0 22 g rd rs1 0 0 0)
  | .clz h g rd rs1 => some (h, wordR 0 23 g rd rs1 0 0 0)
  | .ctz h g rd rs1 => some (h, wordR 0 24 g rd rs1 0 0 0)
  | .addi h g rd rs1 imm => some (h, wordI 1 0 g rd rs1 imm)
  | .muli h g rd rs1 imm => some (h, wordI 1 2 g rd rs1 imm)
  | .andi h g rd rs1 imm => some (h, wordI 1 9 g rd rs1 imm)
  | .ori h g rd rs1 imm => some (h, wordI 1 10 g rd rs1 imm)
  | .xori h g rd rs1 imm => some (h, wordI 1 11 g rd rs1 imm)
  | .shli h g rd rs1 imm => some (h, wordI 1 13 g rd rs1 imm)
  | .shrui h g rd rs1 imm => some (h, wordI 1 14 g rd rs1 imm)
  | .shrsi h g rd rs1 imm => some (h, wordI 1 15 g rd rs1 imm)
  | .fadd h g rd rs1 rs2 => some (h, wordR 2 0 g rd rs1 rs2 0 0)
  | .fsub h g rd rs1 rs2 => some (h, wordR 2 1 g rd rs1 rs2 0 0)
  | .fmul h g rd rs1 rs2 => some (h, wordR 2 2 g rd rs1 rs2 0 0)
  | .ffma h g rd rs1 rs2 rs3 => some (h, wordR 2 3 g rd rs1 rs2 rs3 0)
  | .fmin h g rd rs1 rs2 => some (h, wordR 2 4 g rd rs1 rs2 0 0)
  | .fmax h g rd rs1 rs2 => some (h, wordR 2 5 g rd rs1 rs2 0 0)
  | .fcvtsi h g rd rs1 => some (h, wordR 2 6 g rd rs1 0 0 0)
  | .fcvtis h g rd rs1 => some (h, wordR 2 7 g rd rs1 0 0 0)
  | .cmpeq h g pd rs1 y => some (h, wordC 3 0 g pd rs1 y)
  | .cmpne h g pd rs1 y => some (h, wordC 3 1 g pd rs1 y)
  | .cmplts h g pd rs1 y => some (h, wordC 3 2 g pd rs1 y)
  | .cmples h g pd rs1 y => some (h, wordC 3 3 g pd rs1 y)
  | .cmpltu h g pd rs1 y => some (h, wordC 3 4 g pd rs1 y)
  | .cmpleu h g pd rs1 y => some (h, wordC 3 5 g pd rs1 y)
  | .fcmpeq h g pd rs1 y => some (h, wordC 3 8 g pd rs1 y)
  | .fcmplt h g pd rs1 y => some (h, wordC 3 9 g pd rs1 y)
  | .fcmple h g pd rs1 y => some (h, wordC 3 10 g pd rs1 y)
  | .fcmpun h g pd rs1 y => some (h, wordC 3 11 g pd rs1 y)
  | .pand h g pd pa pb => some (h, wordP 3 16 g pd pa pb)
  | .por h g pd pa pb => some (h, wordP 3 17 g pd pa pb)
  | .pxor h g pd pa pb => some (h, wordP 3 18 g pd pa pb)
  | .pandn h g pd pa pb => some (h, wordP 3 19 g pd pa pb)
  | .ld8u h g rd rs1 space imm => some (h, wordM 4 0 g rd rs1 space imm)
  | .ld16u h g rd rs1 space imm => some (h, wordM 4 1 g rd rs1 space imm)
  | .ld32u h g rd rs1 space imm => some (h, wordM 4 2 g rd rs1 space imm)
  | .ld64 h g rd rs1 space imm => some (h, wordM 4 3 g rd rs1 space imm)
  | .ld8s h g rd rs1 space imm => some (h, wordM 4 4 g rd rs1 space imm)
  | .ld16s h g rd rs1 space imm => some (h, wordM 4 5 g rd rs1 space imm)
  | .ld32s h g rd rs1 space imm => some (h, wordM 4 6 g rd rs1 space imm)
  | .st8 h g rd rs1 space imm => some (h, wordM 4 8 g rd rs1 space imm)
  | .st16 h g rd rs1 space imm => some (h, wordM 4 9 g rd rs1 space imm)
  | .st32 h g rd rs1 space imm => some (h, wordM 4 10 g rd rs1 space imm)
  | .st64 h g rd rs1 space imm => some (h, wordM 4 11 g rd rs1 space imm)
  | .aadd32 h g rd rs1 rs2 => some (h, wordR 5 0 g rd rs1 rs2 0 0)
  | .aadd64 h g rd rs1 rs2 => some (h, wordR 5 1 g rd rs1 rs2 0 0)
  | .aminu64 h g rd rs1 rs2 => some (h, wordR 5 2 g rd rs1 rs2 0 0)
  | .amaxu64 h g rd rs1 rs2 => some (h, wordR 5 3 g rd rs1 rs2 0 0)
  | .aor64 h g rd rs1 rs2 => some (h, wordR 5 4 g rd rs1 rs2 0 0)
  | .aand64 h g rd rs1 rs2 => some (h, wordR 5 5 g rd rs1 rs2 0 0)
  | .aswap64 h g rd rs1 rs2 => some (h, wordR 5 6 g rd rs1 rs2 0 0)
  | .acas64 h g rd rs1 rs2 rs3 => some (h, wordR 5 7 g rd rs1 rs2 rs3 0)
  | .afadd32 h g rd rs1 rs2 => some (h, wordR 5 8 g rd rs1 rs2 0 0)
  | .br h g imm => some (h, wordI 6 0 g 0 0 imm)
  | .bri h g rs1 => some (h, wordI 6 1 g 0 rs1 0)
  | .call h g rd imm => some (h, wordI 6 2 g rd 0 imm)
  | .calli h g rd rs1 => some (h, wordI 6 3 g rd rs1 0)
  | .li h g rd imm => some (h, wordL 7 0 g rd imm.toNat)
  | .lih h g rd imm => some (h, wordL 7 1 g rd imm.toNat)
  | .qgather h g rd rs1 rs2 => some (h, wordR 8 0 g rd rs1 rs2 0 0)
  | .qlookup h g rd rs1 rs2 => some (h, wordR 8 1 g rd rs1 rs2 0 0)
  | .qchain h g rd rs1 rs2 => some (h, wordR 8 2 g rd rs1 rs2 0 0)
  | .qmat h g rd rs1 rs2 => some (h, wordR 8 3 g rd rs1 rs2 0 0)
  | .qsend h g rd rs1 rs2 => some (h, wordR 8 4 g rd rs1 rs2 0 0)
  | .qwait h g rd rs1 => some (h, wordR 8 8 g rd rs1 0 0 0)
  | .qpoll h g rd rs1 => some (h, wordR 8 9 g rd rs1 0 0 0)
  | .qdrainall h g rd => some (h, wordR 8 10 g rd 0 0 0 0)
  | .harrive h g rd rs1 rs2 => some (h, wordR 9 0 g rd rs1 rs2 0 0)
  | .hwait h g rd rs1 rs2 => some (h, wordR 9 1 g rd rs1 rs2 0 0)
  | .hrelone h g rd rs1 rs2 => some (h, wordR 9 2 g rd rs1 rs2 0 0)
  | .hrelall h g rd rs1 rs2 => some (h, wordR 9 3 g rd rs1 rs2 0 0)
  | .hadd h g rd rs1 rs2 => some (h, wordR 9 4 g rd rs1 rs2 0 0)
  | .htest h g rd rs1 rs2 => some (h, wordR 9 5 g rd rs1 rs2 0 0)
  | .karrive h g rd rs1 rs2 => some (h, wordR 9 8 g rd rs1 rs2 0 0)
  | .kwait h g rd rs1 rs2 => some (h, wordR 9 9 g rd rs1 rs2 0 0)
  | .nop h g => some (h, wordY 10 0 g 0 0 0)
  | .mfs h g rd idx => some (h, wordY 10 1 g rd 0 idx)
  | .mts h g rs1 idx => some (h, wordY 10 2 g 0 rs1 idx)
  | .mfence h g => some (h, wordY 10 3 g 0 0 0)
  | .spawn h g rd rs1 => some (h, wordY 10 4 g rd rs1 0)
  | .tend h g rs1 => some (h, wordY 10 5 g 0 rs1 0)
  | .tickStart => none
  | .firstTickStart => none
  | .runBegin => none
  | .settlePoint => none
  | .applyPoint _ _ => none
  | .copyStage _ => none
  | .bulkCutOff => none
  | .releaseLateEntry => none
  | .summaryPlanRx _ _ _ => none
  | .summaryVetoRx _ _ _ => none
  | .summaryOfferRx _ _ _ => none
  | .summaryAcceptRx _ _ _ => none
  | .ptpMessageRx _ _ => none
  | .ptpSyncTx _ => none
  | .ptpPdelayReqTx _ => none
  | .ptpAnnounceTx _ => none
  | .announceReceiptTimeout _ => none
  | .syncLoss => none
  | .holdoverLimit => none
  | .ptmRequest => none
  | .ptmResponse _ _ _ _ => none
  | .tickInWord _ => none
  | .tickInEdge => none
  | .tickOutWord => none
  | .taskDispatch _ => none
  | .strandWaitEnd _ => none
  | .strandReleaseSeen _ => none
  | .strandTimeout _ => none
  | .illegal _ _ => none
  | .taskCommitRequest _ => none
  | .commitArbiterGrant _ => none
  | .compHitchSignal => none
  | .schAbort _ _ => none
  | .abortArrival _ => none
  | .delayEntryDue _ => none
  | .delayEntryRoom _ => none
  | .taskMessageRx _ _ _ => none
  | .fragmentTaskSubmit _ _ => none
  | .gatherStart _ => none
  | .gatherComplete _ _ => none
  | .lookupStart _ => none
  | .lookupComplete _ _ => none
  | .sendStart _ => none
  | .runaheadDiscard _ => none
  | .remoteGatherTimeout _ => none
  | .chainStart _ => none
  | .chainComplete _ => none
  | .matrixStart _ => none
  | .drainComplete _ => none
  | .matrixComplete _ _ => none
  | .hbmRead _ _ _ _ _ => none
  | .hbmWrite _ _ _ => none
  | .wcbAgeWriteback _ _ => none
  | .correctedWriteback _ _ => none
  | .memRequestTimeout _ _ _ => none
  | .patrolScrubRead _ _ => none
  | .thermalReadingBringup _ _ => none
  | .channelRetrainDone _ _ => none
  | .start _ _ => none
  | .abort _ => none
  | .clearLost _ => none
  | .memTestComplete _ _ => none
  | .slotFrameStart => none
  | .markerRx _ _ => none
  | .markerWindowClose _ => none
  | .cellRx _ _ _ _ => none
  | .portTrained _ => none
  | .trainingTimeout _ => none
  | .gatherReq _ _ _ => none
  | .gatherRsp _ _ _ => none
  | .scatterAdd _ _ _ => none
  | .hitchOp _ _ _ => none
  | .hitchRsp _ _ _ => none
  | .hitchRspTimeout _ => none
  | .knotArrive _ _ _ => none
  | .knotRelease _ _ _ => none
  | .knotBreak _ _ _ => none
  | .knotNodeArrival _ _ => none
  | .knotReleaseArrival _ _ => none
  | .relocBcast _ _ _ => none
  | .relocQuery _ _ _ => none
  | .rowStream _ _ _ => none
  | .rowStreamAck _ _ _ => none
  | .returnedRelease _ => none
  | .ticketWithdraw => none
  | .hitClear _ _ => none
  | .barrierDefine _ _ _ => none
  | .layerPush => none
  | .ringDrain => none
  | .gradientLayer _ _ _ => none
  | .gradientRows _ _ _ => none
  | .gradientDone _ _ _ => none
  | .layerStepTimeout _ => none
  | .rowTickTimeout _ => none
  | .stagingRetry => none
  | .sliceScatter _ => none
  | .rootRefreshDone _ => none
  | .sliceData _ _ _ => none
  | .sliceEnd _ _ _ => none
  | .slicePull _ _ _ => none
  | .coreCheck _ _ => none
  | .coreHeartbeat _ => none
  | .ctrlCoreFault _ _ => none
  | .dieTimeout _ => none
  | .dieRestart _ => none
  | .controlStall => none
  | .deviceWatchdog => none
  | .keeperWatchdog => none
  | .faultReport _ _ _ _ _ _ _ => none
  | .unitRecoveryDone _ => none
  | .fltAck _ => none
  | .grey _ _ => none
  | .releaseForce _ _ => none
  | .confirm _ _ => none
  | .requestNotReady _ => none
  | .unitBringupReport _ _ => none
  | .coreMapAssign _ => none
  | .pwrgoodRise _ => none
  | .pwrgoodFall => none
  | .perstNAssert _ => none
  | .perstNDeassert => none
  | .configSpaceLoaded => none
  | .bootRestart _ => none
  | .keeperImagePass _ _ => none
  | .configImagePass _ _ => none
  | .firmwarePass _ _ => none
  | .imageRejected _ _ => none
  | .bootFwReady _ => none
  | .stagedImageVerified _ _ => none
  | .keeperRestart _ => none
  | .nonceExpiry => none
  | .unlockExpiry => none
  | .serclkLoss => none
  | .clockLoss => none
  | .serclkReturn => none
  | .dieOvertemp _ _ => none
  | .dieCooled _ _ => none
  | .thermtrip => none
  | .requestFetch _ => none
  | .rqTail _ _ => none
  | .cqHead _ _ => none
  | .tblRegister _ => none
  | .tblOpen _ => none
  | .tblOpenDone _ => none
  | .tblWrite _ => none
  | .tblSeal _ => none
  | .tblAbandon _ => none
  | .tblRetire _ => none
  | .tblFreeze _ => none
  | .tblReload _ => none
  | .plcPin _ => none
  | .plcUnpin _ => none
  | .plcHubAdd _ => none
  | .plcHubDrop _ => none
  | .lyrRegister _ => none
  | .lyrLoad _ => none
  | .lyrFreeze _ => none
  | .lyrRetire _ => none
  | .lyrParams _ => none
  | .tblRule _ => none
  | .pipeRegister _ => none
  | .pipeUnregister _ => none
  | .instantiate _ => none
  | .hostAbort _ => none
  | .finalRecordArrival _ => none
  | .resultDmaDone _ => none
  | .completionGrant _ => none
  | .deadline _ => none
  | .coalesceTimer _ => none
  | .hostTimeout _ _ => none
  | .enable _ => none
  | .disable _ => none
  | .resume _ => none
  | .bar2Read _ _ => none
  | .bar2Write _ _ => none
  | .registerWrite _ _ _ _ => none
  | .ideIntegrityFail => none
  | .query _ => none
  | .keyProg _ => none
  | .kSetGo _ => none
  | .kSetStop _ => none
  | .getVersion _ => none
  | .getCapabilities _ => none
  | .negotiateAlgorithms _ => none
  | .getDigests _ => none
  | .getCertificate _ => none
  | .challenge _ => none
  | .getMeasurements _ => none
  | .spdmUnsupported _ => none
  | .directRead _ _ => none
  | .directRdyCmd _ => none
  | .entdaa _ => none
  | .rstdaa => none
  | .setEndpointId _ => none
  | .getEndpointId _ => none
  | .getEndpointUuid _ => none
  | .getMctpVersionSupport _ => none
  | .getMessageTypeSupport _ => none
  | .read _ => none
  | .force _ => none
  | .alertMask _ => none
  | .nonce _ => none
  | .token _ => none
  | .relock _ => none
  | .gettid _ => none
  | .getpldmversion _ => none
  | .getpldmtypes _ => none
  | .getpldmcommands _ => none
  | .getpdrrepositoryinfo _ => none
  | .getpdr _ => none
  | .getsensorreading _ => none
  | .getstatesensorreadings _ => none
  | .requestupdate _ => none
  | .updatecomponent _ => none
  | .verifycomplete _ => none
  | .activatefirmware _ => none
  | .cancelupdatecomponent _ => none
  | .cancelupdate _ => none
  | .configSpaceWrite _ _ => none
  | .remapCopyDone _ _ => none
  | .tblWriteDone _ => none
  | .lyrLoadDone _ => none
  | .componentDataTransfer _ => none
  | .doeDiscovery _ => none

end Sys2Proof
end

