-- ==== Sys2Proof/Config.lean ====
section
/-! DEFINITION. The values the spec leaves open. Each is a constant without a body: no proof can see what it is, so a
claim holds whatever it is. -/

namespace Sys2Proof

/-- Which of the results within its stated error a special function gives: for each operation a monotonic function between FP32 patterns in the
order of their values, which the error then bounds (05 R196). -/
opaque Config.sfShape : Nat → (Nat →o Nat)

/-- Which of the sums within the stated bound a column tree gives, by the products of the pass as (significand, exponent)
(06 R231, R253). -/
opaque Config.treePick : List (Int × Int) → Nat

/-- The order in which the Rugon die adds the terms of a sum, and which products it fuses with their addition: the spec leaves both open. The
terms are (significand, exponent); the choices are read off the number (07 R269, R286; 14 R535, R551). -/
opaque Config.sumPick : List (Int × Int) → Nat

/-- Whether a 4-byte unit of a cancelled command holds the new value, by the number of the draw (03 R111, R119). -/
opaque Config.cancelPick : Nat → Bool

/-- A byte of a random string the keeper draws: the number of the draw, the position (17 R666, R671). -/
opaque Config.randomByte : Nat → Nat → Byte

/-- A byte of the unique device secret in the fuses, by its position (17 R651). -/
opaque Config.uds : Nat → Byte

/-- The ML-DSA-87 public key that KeyGen of FIPS 204 gives for a seed (17 R655). -/
opaque Config.keyGen : List Byte → List Byte

/-- A byte of the hedged ML-DSA-87 signature of a message: the seed of its key, the random string, the message, the position
(17 R666). -/
opaque Config.sign : List Byte → List Byte → List Byte → Nat → Byte

/-- Whether a signature of a message verifies under an ML-DSA-87 public key: key, message, signature (16 R622; 17 R672). -/
opaque Config.verify : List Byte → List Byte → List Byte → Bool

/-- Whether a row of a channel's remap table is fused by post-package repair at a restart: channel, row (12 R469). -/
opaque Config.rowFused : Nat → Nat → Bool

/-- The Birosh root certificate of the flash's certificate area (17 R656). -/
opaque Config.rootCert : List Byte

/-- The device identity certificate of the flash's certificate area (17 R656). -/
opaque Config.idCert : List Byte

/-- Whether a certificate carries a public key (17 R656). -/
opaque Config.certCarries : List Byte → List Byte → Bool

/-- The alias certificate: the seed of the identity key that signs it, the alias public key (17 R655). -/
opaque Config.aliasCert : List Byte → List Byte → List Byte

/-- Birosh's MIPI manufacturer ID, which the spec names without its number (19 R716). -/
opaque Config.mipiManufacturer : Nat

/-- The PLDM terminus identifier, which the spec does not give (19 R726). -/
opaque Config.tid : Byte

/-- The module's identity: the bytes of its UUID (19 R718). -/
opaque Config.uuid : Nat → Byte

/-- The number a unit reads as from an uncorrectable or cleared source the spec gives no value for. -/
opaque Config.freeByte : Nat → Byte

/-- The servo's rate correction for a measurement, by the number of the draw (02 R69). -/
opaque Config.servoRate : Nat → Int

/-- The state from which a lane's PRBS31 generator starts: seeded by the channel index, how the spec does not say (12 R476). -/
opaque Config.prbsSeed : Nat → Nat → Nat

/-- The plain number a measurement or a sensor reads where the spec does not fix it, by the number of the draw. -/
opaque Config.freeNat : Nat → Nat

/-- The element number under which a merge draws the random bits of an output value, by segment and value (05 R191,
R215). -/
opaque Config.mergeDraw : Nat → Nat → Nat

/-- The clock's identity, accuracy and variance as the BMCA compares them (02 R73). -/
opaque Config.clockQuality : Nat × Nat × Nat

end Sys2Proof
end

