-- ==== Sys2Proof/Machine/Bits.lean ====
section
/-! DEFINITION. Bit fields, byte order, sign extension, CRC-32 and the sparse maps every indexed piece of state is
held in (00 R3, R4). -/

namespace Sys2Proof.Machine

/-- Bits [hi:lo] of a number (00 R3). -/
def bits (n hi lo : Nat) : Nat := n / 2 ^ lo % 2 ^ (hi + 1 - lo)

/-- One bit of a number. -/
def bit (n i : Nat) : Bool := n / 2 ^ i % 2 == 1

/-- `n` with bits [hi:lo] replaced by the low bits of `v`. -/
def setBits (n hi lo v : Nat) : Nat :=
  n / 2 ^ (hi + 1) * 2 ^ (hi + 1) + (v % 2 ^ (hi + 1 - lo)) * 2 ^ lo + n % 2 ^ lo

/-- `n` with bit `i` set. -/
def orBit (n i : Nat) : Nat := if bit n i then n else n + 2 ^ i

/-- 1 for true, 0 for false. -/
def b2n (b : Bool) : Nat := if b then 1 else 0

/-- The value of a little-endian byte list (00 R4). -/
def leNat : List Byte → Nat
  | [] => 0
  | b :: r => b.toNat + 256 * leNat r

/-- The `k` little-endian bytes of a number (00 R4). -/
def natLe : Nat → Nat → List Byte
  | 0, _ => []
  | k + 1, n => BitVec.ofNat 8 n :: natLe k (n / 256)

/-- The little-endian field of `k` bytes at byte offset `o` of a descriptor (00 R4). -/
def fld (d : List Byte) (o k : Nat) : Nat := leNat ((d.drop o).take k)

/-- Whether `k` bytes at offset `o` are all 0: the test of a reserved field. -/
def zeroAt (d : List Byte) (o k : Nat) : Bool := fld d o k == 0

/-- The signed value of the low `w` bits of `n`. -/
def sint (w n : Nat) : Int :=
  let m := n % 2 ^ w
  if m < 2 ^ (w - 1) then m else (m : Int) - 2 ^ w

/-- The `w`-bit pattern of an integer, wrapped. -/
def uint (w : Nat) (i : Int) : Nat := (i % (2 ^ w : Int)).toNat

/-- One bit step of the reflected IEEE 802.3 polynomial. -/
def crcBit (c : Nat) : Nat := if c % 2 = 1 then Nat.xor (c / 2) 0xEDB88320 else c / 2

/-- One byte of CRC-32. -/
def crcByte (c : Nat) (b : Byte) : Nat :=
  crcBit (crcBit (crcBit (crcBit (crcBit (crcBit (crcBit (crcBit (Nat.xor c b.toNat))))))))

/-- CRC-32 with the IEEE 802.3 polynomial, as Ethernet computes it (02 R56, 16 R620). -/
def crc32 (l : List Byte) : Nat := Nat.xor (l.foldl crcByte 0xFFFFFFFF) 0xFFFFFFFF

section maps
variable {α : Type}

/-- The value at key `k` of a sparse map whose unlisted keys read `d k`. -/
def mget (d : Nat → α) : List (Nat × α) → Nat → α
  | [], k => d k
  | (j, v) :: r, k => if k = j then v else mget d r k

/-- Set key `k`, keeping keys strictly rising and no entry equal to its default. -/
def mset [DecidableEq α] (d : Nat → α) : List (Nat × α) → Nat → α → List (Nat × α)
  | [], k, v => if v = d k then [] else [(k, v)]
  | (j, w) :: r, k, v =>
    if k < j then (if v = d k then (j, w) :: r else (k, v) :: (j, w) :: r)
    else if k = j then (if v = d k then r else (k, v) :: r)
    else (j, w) :: mset d r k v

/-- The canonical form of a sparse map: keys strictly rising from `lo` on, no entry equal to its default. -/
def mwfFrom [DecidableEq α] (d : Nat → α) : Nat → List (Nat × α) → Bool
  | _, [] => true
  | lo, (k, v) :: r => decide (lo ≤ k) && decide (v ≠ d k) && mwfFrom d (k + 1) r

/-- The canonical form of a sparse map. -/
def mwf [DecidableEq α] (d : Nat → α) (m : List (Nat × α)) : Bool := mwfFrom d 0 m

/-- The entry at key `k` of a partial map. -/
def pfind : List (Nat × α) → Nat → Option α
  | [], _ => none
  | (j, v) :: r, k => if k = j then some v else pfind r k

/-- Put an entry into a partial map, keys strictly rising. -/
def pput : List (Nat × α) → Nat → α → List (Nat × α)
  | [], k, v => [(k, v)]
  | (j, w) :: r, k, v =>
    if k < j then (k, v) :: (j, w) :: r
    else if k = j then (k, v) :: r
    else (j, w) :: pput r k v

/-- Remove an entry of a partial map. -/
def pdel : List (Nat × α) → Nat → List (Nat × α)
  | [], _ => []
  | (j, w) :: r, k => if k = j then r else (j, w) :: pdel r k

/-- Change an entry of a partial map where there is one. -/
def pmod (m : List (Nat × α)) (k : Nat) (f : α → α) : List (Nat × α) :=
  m.map fun e => if e.1 = k then (e.1, f e.2) else e

/-- Remove the first element that satisfies `p`. -/
def dropFirst (p : α → Bool) : List α → List α
  | [] => []
  | a :: r => if p a then r else a :: dropFirst p r

/-- The element with the least key, the earliest on ties. -/
def minBy (f : α → Nat) : List α → Option α
  | [] => none
  | a :: r =>
    match minBy f r with
    | none => some a
    | some b => if f a ≤ f b then some a else some b

/-- Insert into a list ordered by `f`, after equal keys. -/
def insBy (f : α → Nat) (a : α) : List α → List α
  | [] => [a]
  | b :: r => if f a < f b then a :: b :: r else b :: insBy f a r

/-- Stable sort by a key. -/
def sortBy (f : α → Nat) (l : List α) : List α := l.foldl (fun acc a => insBy f a acc) []

end maps

end Sys2Proof.Machine
end

