-- ==== Sys2Proof/Machine/Flags.lean ====
section
/-! DEFINITION. Number formats, exact floating-point values, rounding and every exception-flag computation (07; 05 R195,
R196; 06 R228), and Philox4x32-10 (04 R160). A flags value is FFLAGS[4:0]: 16 invalid, 8 divide-by-zero, 4 overflow,
2 underflow, 1 inexact (07 R278). -/

namespace Sys2Proof.Machine

/-- Flags ORed together. -/
def orf (a b : Nat) : Nat := Nat.lor a b

/-! ### Formats (07 R264) -/

/-- How a format treats its top exponent and its overflow (07 R264, R270). -/
inductive FmtKind where
  | ieee | e4m3 | e5m2 | plain
deriving DecidableEq, Repr

/-- A floating-point format: exponent bits, mantissa bits, bias, special values. -/
structure Fmt where
  eb : Nat
  mb : Nat
  bias : Nat
  kind : FmtKind
deriving DecidableEq, Repr

/-- FP32. -/
def fmtFp32 : Fmt := ⟨8, 23, 127, .ieee⟩
/-- BF16. -/
def fmtBf16 : Fmt := ⟨8, 7, 127, .ieee⟩
/-- FP16. -/
def fmtFp16 : Fmt := ⟨5, 10, 15, .ieee⟩
/-- E4M3. -/
def fmtE4m3 : Fmt := ⟨4, 3, 7, .e4m3⟩
/-- E5M2. -/
def fmtE5m2 : Fmt := ⟨5, 2, 15, .e5m2⟩
/-- E3M2. -/
def fmtE3m2 : Fmt := ⟨3, 2, 3, .plain⟩
/-- E2M3. -/
def fmtE2m3 : Fmt := ⟨2, 3, 1, .plain⟩
/-- E2M1. -/
def fmtE2m1 : Fmt := ⟨2, 1, 1, .plain⟩

/-- A floating-point value: a NaN, an infinity, or (−1)^neg × m × 2^e exactly. -/
inductive Fp where
  | nan
  | inf (neg : Bool)
  | fin (neg : Bool) (m : Nat) (e : Int)
deriving DecidableEq, Repr

/-- The value a pattern stands for (07 R264). -/
def unpack (f : Fmt) (n : Nat) : Fp :=
  let s := bit n (f.eb + f.mb)
  let ef := n / 2 ^ f.mb % 2 ^ f.eb
  let mf := n % 2 ^ f.mb
  let top := 2 ^ f.eb - 1
  let special := match f.kind with
    | .ieee | .e5m2 => ef == top
    | .e4m3 => ef == top && mf == 2 ^ f.mb - 1
    | .plain => false
  if special then (if f.kind != .e4m3 && mf == 0 then .inf s else .nan)
  else if ef = 0 then .fin s mf (1 - (f.bias : Int) - f.mb)
  else .fin s (mf + 2 ^ f.mb) ((ef : Int) - f.bias - f.mb)

/-- The canonical NaN of a format (07 R275). -/
def canonNan (f : Fmt) : Nat :=
  match f.kind with
  | .e4m3 => 0x7F
  | .e5m2 => 0x7E
  | _ => (2 ^ f.eb - 1) * 2 ^ f.mb + 2 ^ (f.mb - 1)

/-- The sign bit of a format in place. -/
def signBit (f : Fmt) (neg : Bool) : Nat := if neg then 2 ^ (f.eb + f.mb) else 0

/-- Number of bits of a number. -/
def bitLen (n : Nat) : Nat := if n = 0 then 0 else Nat.log2 n + 1

/-- m × 2^k for an integer k, rounded down. -/
def shiftInt (m : Nat) (k : Int) : Nat := if 0 ≤ k then m * 2 ^ k.toNat else m / 2 ^ (-k).toNat

/-- Round m × 2^e to a multiple of 2^q: the multiple, and whether it changed the value (07 R271). With no draw the
rounding is to nearest even; with one it is stochastic. -/
def roundAt (u : Option Nat) (m : Nat) (e q : Int) : Nat × Bool :=
  if q ≤ e then (m * 2 ^ (e - q).toNat, false)
  else
    let d := 2 ^ (q - e).toNat
    let lo := m / d
    let r := m % d
    if r = 0 then (lo, false)
    else
      let up := match u with
        | none => decide (d < 2 * r) || (decide (2 * r = d) && lo % 2 == 1)
        | some w => decide (w * d < r * 2 ^ 32)
      (if up then lo + 1 else lo, true)

/-- Exponent of a format's smallest subnormal. -/
def Fmt.emin (f : Fmt) : Int := 1 - (f.bias : Int) - f.mb

/-- Significand and exponent of a format's largest finite value (07 R264). -/
def Fmt.largest (f : Fmt) : Nat × Int :=
  match f.kind with
  | .e4m3 => (14, 5)
  | .plain => (2 ^ (f.mb + 1) - 1, (2 ^ f.eb - 1 : Int) - f.bias - f.mb)
  | _ => (2 ^ (f.mb + 1) - 1, (2 ^ f.eb - 2 : Int) - f.bias - f.mb)

/-- Whether a × 2^p lies above b × 2^q. -/
def gtScaled (a : Nat) (p : Int) (b : Nat) (q : Int) : Bool :=
  let l := min p q
  decide (b * 2 ^ (q - l).toNat < a * 2 ^ (p - l).toNat)

/-- The pattern of a non-zero magnitude that is a multiple of 2^q and fits the format. -/
def packFin (f : Fmt) (neg : Bool) (sig : Nat) (q : Int) : Nat :=
  let (sig, q) := if sig = 2 ^ (f.mb + 1) then (2 ^ f.mb, q + 1) else (sig, q)
  signBit f neg + (if sig < 2 ^ f.mb then sig else ((q - f.emin).toNat + 1) * 2 ^ f.mb + (sig - 2 ^ f.mb))

/-- Round an exact value to a format: the pattern and the flags (07 R269-R271, R278, R757). -/
def roundTo (f : Fmt) (u : Option Nat) (x : Fp) : Nat × Nat :=
  match x with
  | .nan => (canonNan f, 0)
  | .inf s => if f.kind == .e4m3 then (canonNan f, 16) else (signBit f s + (2 ^ f.eb - 1) * 2 ^ f.mb, 0)
  | .fin s m e =>
    if m = 0 then (signBit f s, 0)
    else
      let q0 : Int := e + bitLen m - 1 - f.mb
      let q := max q0 f.emin
      let (sig, inexact) := roundAt u m e q
      let (bigS, bigQ) := f.largest
      if gtScaled sig q bigS bigQ then
        (match f.kind with
         | .ieee => (signBit f s + (2 ^ f.eb - 1) * 2 ^ f.mb, 5)
         | _ => (packFin f s bigS bigQ, 5))
      else
        let (sig0, _) := roundAt u m e q0
        let tiny := decide (q0 + bitLen sig0 - 1 < f.emin + f.mb)
        ((if sig = 0 then signBit f s else packFin f s sig q),
         (if inexact then 1 else 0) + (if tiny && inexact then 2 else 0))

/-- Round to FP32, to nearest even. -/
def roundF (x : Fp) : Nat × Nat := roundTo fmtFp32 none x

/-- The value of an FP32 pattern. -/
def unF (n : Nat) : Fp := unpack fmtFp32 (n % 2 ^ 32)

/-- Canonical FP32 NaN (07 R275). -/
def nanF : Nat := 0x7FC00000

/-! ### Exact operations (07 R274, R276) -/

/-- A signed magnitude as an integer. -/
def sgn (neg : Bool) (m : Nat) : Int := if neg then -(m : Int) else m

/-- Negation. -/
def Fp.negate : Fp → Fp
  | .nan => .nan
  | .inf s => .inf (!s)
  | .fin s m e => .fin (!s) m e

/-- Whether a value is ±0. -/
def Fp.isZero : Fp → Bool
  | .fin _ m _ => m == 0
  | _ => false

/-- Whether a value is a NaN. -/
def Fp.isNan : Fp → Bool
  | .nan => true
  | _ => false

/-- Exact sum with the invalid flag (07 R274, R276). -/
def exAdd (a b : Fp) : Fp × Nat :=
  match a, b with
  | .nan, _ => (.nan, 0)
  | _, .nan => (.nan, 0)
  | .inf s, .inf t => if s = t then (.inf s, 0) else (.nan, 16)
  | .inf s, .fin _ _ _ => (.inf s, 0)
  | .fin _ _ _, .inf t => (.inf t, 0)
  | .fin s m e, .fin t n d =>
    if m = 0 ∧ n = 0 then (.fin (s && t) 0 0, 0)
    else if m = 0 then (.fin t n d, 0)
    else if n = 0 then (.fin s m e, 0)
    else
      let l := min e d
      let i := sgn s (m * 2 ^ (e - l).toNat) + sgn t (n * 2 ^ (d - l).toNat)
      (.fin (decide (i < 0)) i.natAbs l, 0)

/-- Exact product with the invalid flag (07 R274, R276). -/
def exMul (a b : Fp) : Fp × Nat :=
  match a, b with
  | .nan, _ => (.nan, 0)
  | _, .nan => (.nan, 0)
  | .inf s, .inf t => (.inf (s != t), 0)
  | .inf s, .fin t n _ => if n = 0 then (.nan, 16) else (.inf (s != t), 0)
  | .fin s m _, .inf t => if m = 0 then (.nan, 16) else (.inf (s != t), 0)
  | .fin s m e, .fin t n d => (.fin (s != t) (m * n) (if m * n = 0 then 0 else e + d), 0)

/-- Quotient with enough bits and a sticky bit, and its flags (07 R274, R276). -/
def exDiv (a b : Fp) : Fp × Nat :=
  match a, b with
  | .nan, _ => (.nan, 0)
  | _, .nan => (.nan, 0)
  | .inf _, .inf _ => (.nan, 16)
  | .inf s, .fin t _ _ => (.inf (s != t), 0)
  | .fin s _ _, .inf t => (.fin (s != t) 0 0, 0)
  | .fin s m e, .fin t n d =>
    if n = 0 then (if m = 0 then (.nan, 16) else (.inf (s != t), 8))
    else if m = 0 then (.fin (s != t) 0 0, 0)
    else
      let k := 64 + bitLen n
      let x := m * 2 ^ k
      (.fin (s != t) (2 * (x / n) + (if x % n = 0 then 0 else 1)) (e - d - k - 1), 0)

/-- Integer square root, bit by bit from bit `k`. -/
def isqrtFrom : Nat → Nat → Nat → Nat
  | 0, n, r => if (r + 1) * (r + 1) ≤ n then r + 1 else r
  | k + 1, n, r => let t := r + 2 ^ (k + 1); isqrtFrom k n (if t * t ≤ n then t else r)

/-- Integer square root. -/
def isqrt (n : Nat) : Nat := isqrtFrom (bitLen n / 2 + 1) n 0

/-- Square root with enough bits and a sticky bit; of a negative number a NaN with invalid. -/
def exSqrt (a : Fp) : Fp × Nat :=
  match a with
  | .nan => (.nan, 0)
  | .inf s => if s then (.nan, 16) else (.inf false, 0)
  | .fin s m e =>
    if m = 0 then (.fin s 0 0, 0)
    else if s then (.nan, 16)
    else
      let (m, e) := if e % 2 = 0 then (m, e) else (m * 2, e - 1)
      let x := m * 2 ^ 128
      let r := isqrt x
      (.fin false (2 * r + (if r * r = x then 0 else 1)) (e / 2 - 64 - 1), 0)

/-! ### FP32 operations (03 R104; 05 R195; 07 R269) -/

/-- Round an exact result, joining its flags. -/
def finishF (r : Fp × Nat) : Nat × Nat :=
  let (p, f) := roundF r.1
  (p, orf f r.2)

/-- FP32 sum. -/
def addF (a b : Nat) : Nat × Nat := finishF (exAdd (unF a) (unF b))
/-- FP32 difference. -/
def subF (a b : Nat) : Nat × Nat := finishF (exAdd (unF a) (unF b).negate)
/-- FP32 product. -/
def mulF (a b : Nat) : Nat × Nat := finishF (exMul (unF a) (unF b))
/-- FP32 quotient. -/
def divF (a b : Nat) : Nat × Nat := finishF (exDiv (unF a) (unF b))
/-- FP32 square root. -/
def sqrtF (a : Nat) : Nat × Nat := finishF (exSqrt (unF a))

/-- FP32 fused multiply-add with one rounding. -/
def fmaF (a b c : Nat) : Nat × Nat :=
  let x := exMul (unF a) (unF b)
  if (unF c).isNan then (nanF, 0)
  else
    let y := exAdd x.1 (unF c)
    finishF (y.1, orf x.2 y.2)

/-- Whether a finite or infinite value lies below another; a NaN is below nothing. -/
def Fp.lt : Fp → Fp → Bool
  | .nan, _ => false
  | _, .nan => false
  | .inf s, .inf t => s && !t
  | .inf s, .fin _ _ _ => s
  | .fin _ _ _, .inf t => !t
  | .fin s m e, .fin t n d =>
    let l := min e d
    decide (sgn s (m * 2 ^ (e - l).toNat) < sgn t (n * 2 ^ (d - l).toNat))

/-- Equality by value; a NaN equals nothing. -/
def Fp.eqv (a b : Fp) : Bool := !a.isNan && !b.isNan && !a.lt b && !b.lt a

/-- Whether a comes before b where −0 comes before +0 (05 R195). -/
def ltZ (a b : Nat) : Bool :=
  (unF a).lt (unF b) || ((unF a).eqv (unF b) && bit a 31 && !bit b 31)

/-- FP32 minimum: the canonical NaN for a NaN operand, −0 below +0 (05 R195). -/
def minF (a b : Nat) : Nat :=
  if (unF a).isNan || (unF b).isNan then nanF else if ltZ b a then b % 2 ^ 32 else a % 2 ^ 32

/-- FP32 maximum. -/
def maxF (a b : Nat) : Nat :=
  if (unF a).isNan || (unF b).isNan then nanF else if ltZ a b then b % 2 ^ 32 else a % 2 ^ 32

/-- An integer as an exact value. -/
def ofInt (i : Int) : Fp := .fin (decide (i < 0)) i.natAbs 0

/-- Convert to a signed `w`-bit integer, to nearest even: saturation and NaN raise invalid alone, a change in range
inexact alone (03 R102; 05 R191; 07 R274). -/
def toInt (w : Nat) (x : Fp) : Int × Nat :=
  let hi : Int := 2 ^ (w - 1) - 1
  let lo : Int := -(2 ^ (w - 1))
  match x with
  | .nan => (0, 16)
  | .inf s => (if s then lo else hi, 16)
  | .fin s m e =>
    let (r, c) := roundAt none m e 0
    let i := sgn s r
    if i < lo then (lo, 16) else if hi < i then (hi, 16) else (i, if c then 1 else 0)

/-! ### Special functions within their error (05 R196)

A result is any FP32 value within the stated error of the exact one that a free monotonic function picks: the nearest of the allowed values to what
that function gives. The allowed values rise with the exact result, so the result is monotonic too. Values are compared by their order: 2^31 for
±0, above it the magnitudes of positive patterns, below it those of negative ones. -/

/-- 2^(2^-k) × 2^80 rounded down, from that of 2^(2^-(k-1)): the fractions of EXP2's argument. -/
def rootsOf : Nat → Nat → List Nat
  | 0, _ => []
  | k + 1, c => let r := isqrt (c * 2 ^ 80); r :: rootsOf k r

/-- 2^f × 2^80 for the fraction f = n / 2^k given by its bits from the top, with a relative error below 2^-70. -/
def pow2Frac : List Nat → Nat → Nat → Nat → Nat
  | [], _, _, acc => acc
  | c :: r, k, n, acc => pow2Frac r (k - 1) n (if bit n (k - 1) then acc * c / 2 ^ 80 else acc)

/-- Base-2 logarithm bits of x / 2^80 in [1, 2): `k` bits by repeated squaring. -/
def log2Bits : Nat → Nat → Nat → Nat
  | 0, _, acc => acc
  | k + 1, x, acc =>
    let y := x * x / 2 ^ 80
    if 2 ^ 81 ≤ y then log2Bits k (y / 2) (2 * acc + 1) else log2Bits k y (2 * acc)

/-- The largest FP32 magnitude at or below m × 2^e, at most the largest finite one. -/
def floorMag (m : Nat) (e : Int) : Nat :=
  let q := max (e + bitLen m - 24) (-149)
  if 128 ≤ e + bitLen m - 1 then 0x7F7FFFFF else packFin fmtFp32 false (shiftInt m (e - q)) q

/-- The smallest FP32 magnitude at or above m × 2^e, at most the largest finite one. -/
def ceilMag (m : Nat) (e : Int) : Nat :=
  let q := max (e + bitLen m - 24) (-149)
  if 128 ≤ e + bitLen m - 1 then 0x7F7FFFFF
  else
    let sig := shiftInt m (e - q)
    if sig = 0 ∧ m = 0 ∨ (if e ≤ q then sig * 2 ^ (q - e).toNat = m else true) then packFin fmtFp32 false sig q
    else min 0x7F7FFFFF (packFin fmtFp32 false sig q + 1)

/-- The order of an FP32 pattern that is no NaN. -/
def ordOf (p : Nat) : Nat := if bit p 31 then 2 ^ 31 - p % 2 ^ 31 else 2 ^ 31 + p % 2 ^ 31

/-- The pattern of an order; +0 for zero. -/
def ofOrd (c : Nat) : Nat := if 2 ^ 31 ≤ c then c - 2 ^ 31 else 2 ^ 31 + (2 ^ 31 - c)

/-- Order of the largest FP32 value at or below i × 2^e. -/
def floorOrd (i : Int) (e : Int) : Nat := if 0 ≤ i then 2 ^ 31 + floorMag i.toNat e else 2 ^ 31 - ceilMag i.natAbs e

/-- Order of the smallest FP32 value at or above i × 2^e. -/
def ceilOrd (i : Int) (e : Int) : Nat := if 0 ≤ i then 2 ^ 31 + ceilMag i.toNat e else 2 ^ 31 - floorMag i.natAbs e

/-- The order between `lo` and `hi` that the free function of an operation picks for an operand's order. -/
def pickOrd (op x lo hi : Nat) : Nat := max lo (min hi (Config.sfShape op x))

/-- 2^k for an integer k, rounded up. -/
def pow2Up (k : Int) : Nat := if 0 ≤ k then 2 ^ k.toNat else 1

/-- Flags of a special function's result: inexact unless the exact value is representable and is what is given, underflow where the exact value
is tiny or the result is ±0 (07 R278, R757). -/
def sfFlags (exact tiny : Bool) (p : Nat) : Nat := if exact then 0 else if tiny || p % 2 ^ 31 == 0 then 3 else 1

/-- The error that EXP2 may make in the binade of 2^n, in units of 2^(n0 - 80): 2 units in the last place, or where `half` holds half a unit for a
subnormal result. -/
def exp2Err (half : Bool) (n n0 : Int) : Nat :=
  if half ∧ n < -126 then pow2Up (-149 - (n0 - 80)) / 2 else 2 * pow2Up (max (n - 23) (-149) - (n0 - 80))

/-- EXP2 with the error of `exp2Err`; 2^±0 is 1. The lower bound never falls as the operand rises into a binade, whose error is twice that of the one
below, so that the result is monotonic (05 R196, R210). -/
def exp2With (half : Bool) (a : Nat) : Nat × Nat :=
  match unF a with
  | .nan => (nanF, 0)
  | .inf s => (if s then 0 else 0x7F800000, 0)
  | .fin s m e =>
    if m = 0 then (0x3F800000, 0)
    else if gtScaled m e 1 9 ∧ !s then (0x7F800000, 5)
    else
      -- the argument as a multiple of 2^-60, rounded down; of one below -512, -512
      let x : Int := if gtScaled m e 1 9 then -(2 ^ 69)
        else if 0 ≤ e + 60 then sgn s (m * 2 ^ (e + 60).toNat) else (sgn s m) / (2 ^ (-(e + 60)).toNat : Int)
      let n := x / 2 ^ 60
      let f := (x % 2 ^ 60).toNat
      -- the result in units of 2^(n - 80), and the error allowed
      let v := pow2Frac (rootsOf 60 (2 ^ 81)) 60 f (2 ^ 80)
      let up := decide ((2 ^ 25 - 1) * 2 ^ 56 ≤ v)
      let g := exp2Err half n n
      let low := max ((v : Int) - 64 - g) (2 ^ 80 - 64 - exp2Err half (n - 1) n)
      if 128 ≤ n ∨ (n = 127 ∧ up) then (0x7F800000, 5)
      else
        let lo := max (ceilOrd low (n - 80)) (if s then 2 ^ 31 else 2 ^ 31 + 0x3F800000)
        let hi := min (floorOrd ((v : Int) + v / 2 ^ 59 + 64 + g) (n - 80)) (if s then 2 ^ 31 + 0x3F800000 else 2 ^ 32)
        let p := ofOrd (pickOrd 1 (ordOf a) lo hi)
        let whole := decide (f = 0 ∧ 0 ≤ e + 60 ∧ -149 ≤ n) && p == floorMag 1 n
        (p, sfFlags whole (decide (n < -126) && !(decide (n = -127) && up)) p)

/-- EXP2: 2 units in the last place (05 R196). -/
def exp2F (a : Nat) : Nat × Nat := exp2With false a

/-- LOG2: 2 units in the last place, or 2^-22 absolute in [0.5, 2]; of 1 it is +0 (05 R196; 04 R163). -/
def log2F (a : Nat) : Nat × Nat :=
  match unF a with
  | .nan => (nanF, 0)
  | .inf s => if s then (nanF, 16) else (0x7F800000, 0)
  | .fin s m e =>
    if m = 0 then (0xFF800000, 8)
    else if s then (nanF, 16)
    else
      let n : Int := e + bitLen m - 1
      let x := shiftInt m (80 - (bitLen m - 1 : Int))
      let power := x == 2 ^ 80
      if power ∧ n = 0 then (0, 0)
      else
        -- log2 in units of 2^-56, between t and t + 1
        let t : Int := n * 2 ^ 56 + log2Bits 56 x 0
        let near := decide (n = 0 ∨ n = -1) || (power && n == 1)
        let g : Nat := if near then 2 ^ 34 else 2 ^ (bitLen t.natAbs - 23)
        let w : Int := if power then 0 else 1
        -- the bound on the side of 0 never turns back where the magnitude passes from one binade, with its error, into the next
        let k := bitLen t.natAbs
        let edge : Int := 2 ^ (k - 1) - 2 ^ (max (k - 1) 57 - 23)
        let low := if near ∨ n < 0 then t - w - g else max (t - w - g) (edge - w)
        let high := if near ∨ 0 ≤ n then t + 2 * w + g else min (t + 2 * w + g) (2 * w - edge)
        let lo := max (ceilOrd low (-56)) (if 0 ≤ n then 2 ^ 31 else 0)
        let hi := min (floorOrd high (-56)) (if 0 ≤ n then 2 ^ 32 else 2 ^ 31)
        let p := ofOrd (pickOrd 2 (ordOf a) lo hi)
        (p, sfFlags (power && p == (roundF (ofInt n)).1) false p)

/-- A decreasing function of a positive operand: the result is v × 2^e, or lies between it and (v + 1) × 2^e, and errs by 1 unit in the last
place at most; `mag` is the operand's magnitude. -/
def fallingF (op mag : Nat) (whole : Bool) (v : Nat) (e : Int) : Nat × Nat :=
  let q := e + bitLen v - 1
  let up := decide ((2 ^ 25 - 1) * 2 ^ (bitLen v - 25) ≤ v)
  if 128 ≤ q ∨ (q = 127 ∧ up) then (0x7F800000, 5)
  else
    let g := pow2Up (max (q - 23) (-149) - e)
    let h := v + (if whole then 0 else 1) + g
    -- the lower bound never falls where the result rises into a binade, whose error is twice that of the one below
    let low := max (v - g) (2 ^ (bitLen v - 1) - pow2Up (max (q - 24) (-149) - e))
    let p := pickOrd op (2 ^ 31 - mag) (ceilMag low e) (floorMag h e)
    (p, sfFlags (whole && shiftInt (shiftInt v (e - max (q - 23) (-149))) (max (q - 23) (-149) - e) == v && p == floorMag v e)
      (decide (q < -126) && !(decide (q = -127) && up)) p)

/-- RCP: 1 unit in the last place (05 R196). -/
def rcpF (a : Nat) : Nat × Nat :=
  match unF a with
  | .nan => (nanF, 0)
  | .inf s => (signBit fmtFp32 s, 0)
  | .fin s m e =>
    if m = 0 then (signBit fmtFp32 s + 0x7F800000, 8)
    else
      let k := bitLen m + 95
      let (p, f) := fallingF (if s then 5 else 3) (a % 2 ^ 31) (2 ^ k % m == 0) (2 ^ k / m) (-e - k)
      (signBit fmtFp32 s + p, f)

/-- RSQRT: 1 unit in the last place (05 R196). -/
def rsqrtF (a : Nat) : Nat × Nat :=
  match unF a with
  | .nan => (nanF, 0)
  | .inf s => if s then (nanF, 16) else (0, 0)
  | .fin s m e =>
    if m = 0 then (signBit fmtFp32 s + 0x7F800000, 8)
    else if s then (nanF, 16)
    else
      let (m, e) := if e % 2 = 0 then (m, e) else (m * 2, e - 1)
      let k := 2 * (bitLen m / 2 + 48)
      let r := isqrt (2 ^ k * 2 ^ k / m)
      fallingF 4 (a % 2 ^ 31) (r * r * m == 2 ^ k * 2 ^ k) r (-(e / 2) - k)

/-! ### Widening and narrowing (07 R268, R270, R271) -/

/-- Widen a pattern of a format to FP32. -/
def widen (f : Fmt) (n : Nat) : Nat := (roundF (unpack f n)).1

/-- Narrow an FP32 pattern to a format, to nearest even or with a stochastic draw. -/
def narrow (f : Fmt) (u : Option Nat) (n : Nat) : Nat × Nat := roundTo f u (unF n)

/-! ### Philox4x32-10 (04 R160) -/

/-- One round. -/
def philoxRound (c : Nat × Nat × Nat × Nat) (k0 k1 : Nat) : Nat × Nat × Nat × Nat :=
  let (c0, c1, c2, c3) := c
  let p := 0xD2511F53 * c0
  let q := 0xCD9E8D57 * c2
  (Nat.xor (Nat.xor (q / 2 ^ 32) c1) k0, q % 2 ^ 32, Nat.xor (Nat.xor (p / 2 ^ 32) c3) k1, p % 2 ^ 32)

/-- `n` rounds, the key rising by the round constants between them. -/
def philoxRounds : Nat → (Nat × Nat × Nat × Nat) → Nat → Nat → Nat × Nat × Nat × Nat
  | 0, c, _, _ => c
  | n + 1, c, k0, k1 =>
    philoxRounds n (philoxRound c k0 k1) ((k0 + 0x9E3779B9) % 2 ^ 32) ((k1 + 0xBB67AE85) % 2 ^ 32)

/-- A draw: the words u0-u3 for a counter and a key. -/
def philox (c0 c1 c2 c3 k0 k1 : Nat) : Nat × Nat × Nat × Nat :=
  philoxRounds 10 (c0 % 2 ^ 32, c1 % 2 ^ 32, c2 % 2 ^ 32, c3 % 2 ^ 32) (k0 % 2 ^ 32) (k1 % 2 ^ 32)

end Sys2Proof.Machine
end

