-- ==== Sys2Proof/Machine/Regs.lean ====
section
/-! DEFINITION. The registers of BAR0: where each lies, how wide it is, what its access codes let a write do and what it
holds after reset, as the register tables of the chapters give them (00 R5-R10; 18 R681). -/

namespace Sys2Proof.Machine

/-- One register of a block window: its offset, its width, its reset value and the masks of its RW, W1C and W1S fields;
`sat` says that its top bit is the SAT bit of a statistics counter (00 R7, R21, R22). -/
structure RegDesc where
  off : Nat
  wide : Bool
  reset : Nat
  rw : Nat
  w1c : Nat
  w1s : Nat
  sat : Bool
deriving DecidableEq, Repr

/-- A run of register windows of one layout: base in BAR0, distance between windows, how many (00 R20). -/
structure RegWindow where
  base : Nat
  stride : Nat
  count : Nat
  regs : List RegDesc
deriving DecidableEq, Repr

/-- PCI_LINK (R705). -/
def regPciLink : Nat := 0x0
/-- PCI_BAR2_MAP (R706). -/
def regPciBar2Map : Nat := 0x8
/-- PCI_REQ_ID (R707). -/
def regPciReqId : Nat := 0x10
/-- PCI_POOL (R708). -/
def regPciPool : Nat := 0x18
/-- PCI_REQUESTS (R713). -/
def regPciRequests : Nat := 0x20
/-- PCI_REJECTED (R714). -/
def regPciRejected : Nat := 0x28
/-- PCI_NOT_READY (R714). -/
def regPciNotReady : Nat := 0x2C
/-- PCI_ABORT_WON (R714). -/
def regPciAbortWon : Nat := 0x30
/-- PCI_ABORT_LOST (R714). -/
def regPciAbortLost : Nat := 0x34
/-- PCI_DEADLINE (R714). -/
def regPciDeadline : Nat := 0x38
/-- PCI_HOST_TIMEOUT (R714). -/
def regPciHostTimeout : Nat := 0x3C
/-- PCI_BAR2_DROP (R714). -/
def regPciBar2Drop : Nat := 0x40
/-- PCI_EXTRA_FINAL (R714). -/
def regPciExtraFinal : Nat := 0x44
/-- PCI_EVENTS (R715). -/
def regPciEvents : Nat := 0x48

/-- The registers of a PCI window. -/
def pciRegs : List RegDesc :=
  [⟨0x0, false, 0x0, 0x0, 0x0, 0x0, false⟩,
   ⟨0x8, true, 0x0, 0xFFFFC0000000, 0x0, 0x0, false⟩,
   ⟨0x10, true, 0x1, 0x0, 0x0, 0x0, false⟩,
   ⟨0x18, false, 0x100, 0x0, 0x0, 0x0, false⟩,
   ⟨0x20, true, 0x0, 0x0, 0x8000000000000000, 0x0, true⟩,
   ⟨0x28, false, 0x0, 0x0, 0x80000000, 0x0, true⟩,
   ⟨0x2C, false, 0x0, 0x0, 0x80000000, 0x0, true⟩,
   ⟨0x30, false, 0x0, 0x0, 0x80000000, 0x0, true⟩,
   ⟨0x34, false, 0x0, 0x0, 0x80000000, 0x0, true⟩,
   ⟨0x38, false, 0x0, 0x0, 0x80000000, 0x0, true⟩,
   ⟨0x3C, false, 0x0, 0x0, 0x80000000, 0x0, true⟩,
   ⟨0x40, false, 0x0, 0x0, 0x80000000, 0x0, true⟩,
   ⟨0x44, false, 0x0, 0x0, 0x80000000, 0x0, true⟩,
   ⟨0x48, false, 0x0, 0x0, 0x1F, 0x0, false⟩]

/-- PCI_Q_RQBASE (R709). -/
def regPciQRqbase (i : Nat) : Nat := 0x10000 + 0x20 * i
/-- PCI_Q_CQBASE (R709). -/
def regPciQCqbase (i : Nat) : Nat := 0x10008 + 0x20 * i
/-- PCI_Q_CFG (R710). -/
def regPciQCfg (i : Nat) : Nat := 0x10010 + 0x20 * i
/-- PCI_Q_CTL (R711). -/
def regPciQCtl (i : Nat) : Nat := 0x10014 + 0x20 * i
/-- PCI_Q_STATE (R712). -/
def regPciQState (i : Nat) : Nat := 0x10018 + 0x20 * i

/-- The registers of a PCI queue window. -/
def pciQRegs : List RegDesc :=
  [⟨0x0, true, 0x0, 0xFFFFFFFFFFFFF000, 0x0, 0x0, false⟩,
   ⟨0x8, true, 0x0, 0xFFFFFFFFFFFFF000, 0x0, 0x0, false⟩,
   ⟨0x10, false, 0x20000000, 0xFFFFFFFF, 0x0, 0x0, false⟩,
   ⟨0x14, false, 0x0, 0x0, 0x0, 0x0, false⟩,
   ⟨0x18, true, 0x0, 0x0, 0x4, 0x0, false⟩]

/-- TSQ_TICK (R78). -/
def regTsqTick : Nat := 0x100000
/-- TSQ_CFG (R79). -/
def regTsqCfg : Nat := 0x100008
/-- TSQ_STATUS (R80). -/
def regTsqStatus : Nat := 0x100010
/-- TSQ_EVENTS (R81). -/
def regTsqEvents : Nat := 0x100018
/-- TSQ_PLAN_MISS_CNT (R82). -/
def regTsqPlanMissCnt : Nat := 0x100020
/-- TSQ_DEFER_CNT (R83). -/
def regTsqDeferCnt : Nat := 0x100024
/-- TSQ_APPLY_LAST (R84). -/
def regTsqApplyLast : Nat := 0x100028

/-- The registers of a TSQ window. -/
def tsqRegs : List RegDesc :=
  [⟨0x0, true, 0x0, 0x0, 0x0, 0x0, false⟩,
   ⟨0x8, true, 0x0, 0x0, 0x0, 0x0, false⟩,
   ⟨0x10, false, 0x0, 0x0, 0x0, 0x0, false⟩,
   ⟨0x18, false, 0x0, 0x0, 0x3F, 0x0, false⟩,
   ⟨0x20, false, 0x0, 0x0, 0x80000000, 0x0, true⟩,
   ⟨0x24, false, 0x0, 0x0, 0x80000000, 0x0, true⟩,
   ⟨0x28, false, 0x0, 0x0, 0x0, 0x0, false⟩]

/-- TIM_NOW (R85). -/
def regTimNow : Nat := 0x108000
/-- TIM_CFG (R86). -/
def regTimCfg : Nat := 0x108008
/-- TIM_STATUS (R87). -/
def regTimStatus : Nat := 0x10800C
/-- TIM_STEER (R88). -/
def regTimSteer : Nat := 0x108010
/-- TIM_EVENTS (R89). -/
def regTimEvents : Nat := 0x108018

/-- The registers of a TIM window. -/
def timRegs : List RegDesc :=
  [⟨0x0, true, 0x0, 0x0, 0x0, 0x0, false⟩,
   ⟨0x8, false, 0x0, 0x0, 0x0, 0x0, false⟩,
   ⟨0xC, false, 0xFF00, 0x0, 0x0, 0x0, false⟩,
   ⟨0x10, true, 0x0, 0x0, 0x0, 0x0, false⟩,
   ⟨0x18, false, 0x0, 0x0, 0x3F, 0x0, false⟩]

/-- RDY_CMD (R638). -/
def regRdyCmd : Nat := 0x200000
/-- RDY_CMD_RES (R639). -/
def regRdyCmdRes : Nat := 0x200004
/-- RDY_COUNT (R640). -/
def regRdyCount : Nat := 0x200008
/-- RDY_WAIT (R641). -/
def regRdyWait : Nat := 0x20000C
/-- RDY_EVENTS (R642). -/
def regRdyEvents : Nat := 0x200010

/-- The registers of a RDY window. -/
def rdyRegs : List RegDesc :=
  [⟨0x0, false, 0x0, 0x0, 0x0, 0x0, false⟩,
   ⟨0x4, false, 0x0, 0x0, 0x0, 0x0, false⟩,
   ⟨0x8, false, 0x0, 0x0, 0x0, 0x0, false⟩,
   ⟨0xC, false, 0x0, 0x0, 0x0, 0x0, false⟩,
   ⟨0x10, false, 0x0, 0x0, 0xF, 0x0, false⟩]

/-- FLT_HEAD (R604). -/
def regFltHead : Nat := 0x300000
/-- FLT_TIMEOUTS (R605). -/
def regFltTimeouts : Nat := 0x300008
/-- FLT_STATE (R606). -/
def regFltState : Nat := 0x30000C
/-- FLT_SPARES (R607). -/
def regFltSpares : Nat := 0x300010
/-- FLT_OPEN (R608). -/
def regFltOpen : Nat := 0x300014
/-- FLT_PENDING (R609). -/
def regFltPending : Nat := 0x300018
/-- FLT_IRQ_MASK (R610). -/
def regFltIrqMask : Nat := 0x30001C
/-- FLT_ALERT_MASK (R610). -/
def regFltAlertMask : Nat := 0x300020
/-- FLT_ACK (R611). -/
def regFltAck : Nat := 0x300028
/-- FLT_ACK_PEND (R612). -/
def regFltAckPend : Nat := 0x300030
/-- FLT_REPORTS (R613). -/
def regFltReports : Nat := 0x300038
/-- FLT_FENCED (R614). -/
def regFltFenced : Nat := 0x300040
/-- FLT_OVERFLOW (R614). -/
def regFltOverflow : Nat := 0x300044
/-- FLT_CTRL_RESTART (R614). -/
def regFltCtrlRestart : Nat := 0x300048
/-- FLT_DIE_RESTART (R614). -/
def regFltDieRestart : Nat := 0x30004C
/-- FLT_KEEPER_RESTART (R614). -/
def regFltKeeperRestart : Nat := 0x300050

/-- The registers of a FLT window. -/
def fltRegs : List RegDesc :=
  [⟨0x0, true, 0x1, 0x0, 0x0, 0x0, false⟩,
   ⟨0x8, false, 0x0, 0x0, 0x0, 0x0, false⟩,
   ⟨0xC, false, 0x0, 0x0, 0x0, 0x0, false⟩,
   ⟨0x10, false, 0x0, 0x0, 0x0, 0x0, false⟩,
   ⟨0x14, false, 0x0, 0x0, 0x0, 0x0, false⟩,
   ⟨0x18, false, 0x0, 0x0, 0x1FFF, 0x0, false⟩,
   ⟨0x1C, false, 0x1FFC, 0x1FFF, 0x0, 0x0, false⟩,
   ⟨0x20, false, 0x1FFC, 0x1FFF, 0x0, 0x0, false⟩,
   ⟨0x28, true, 0x0, 0x0, 0x0, 0x0, false⟩,
   ⟨0x30, false, 0x0, 0x0, 0x0, 0x0, false⟩,
   ⟨0x38, true, 0x0, 0x0, 0x8000000000000000, 0x0, true⟩,
   ⟨0x40, false, 0x0, 0x0, 0x80000000, 0x0, true⟩,
   ⟨0x44, false, 0x0, 0x0, 0x80000000, 0x0, true⟩,
   ⟨0x48, false, 0x0, 0x0, 0x80000000, 0x0, true⟩,
   ⟨0x4C, false, 0x0, 0x0, 0x80000000, 0x0, true⟩,
   ⟨0x50, false, 0x0, 0x0, 0x80000000, 0x0, true⟩]

/-- SCH_CFG (R409). -/
def regSchCfg : Nat := 0x400000
/-- SCH_TASK_ID (R410). -/
def regSchTaskId : Nat := 0x400008
/-- SCH_DELAY_Q0 (R411). -/
def regSchDelayQ0 : Nat := 0x400010
/-- SCH_DELAY_Q1 (R411). -/
def regSchDelayQ1 : Nat := 0x400014
/-- SCH_DELAY_Q2 (R411). -/
def regSchDelayQ2 : Nat := 0x400018
/-- SCH_DELAY_Q3 (R411). -/
def regSchDelayQ3 : Nat := 0x40001C
/-- SCH_ACCEPTED (R412). -/
def regSchAccepted : Nat := 0x400020
/-- SCH_DISPATCHED (R412). -/
def regSchDispatched : Nat := 0x400028
/-- SCH_LATE (R413). -/
def regSchLate : Nat := 0x400030
/-- SCH_RERUN (R413). -/
def regSchRerun : Nat := 0x400034
/-- SCH_ABORT_WON (R413). -/
def regSchAbortWon : Nat := 0x400038
/-- SCH_ABORT_LOST (R413). -/
def regSchAbortLost : Nat := 0x40003C
/-- SCH_BAD_TASK (R413). -/
def regSchBadTask : Nat := 0x400040
/-- SCH_PREF_LOST (R413). -/
def regSchPrefLost : Nat := 0x400044
/-- SCH_LATE_RELEASE (R413). -/
def regSchLateRelease : Nat := 0x400048
/-- SCH_RELEASE_DROP (R413). -/
def regSchReleaseDrop : Nat := 0x40004C
/-- SCH_HITCH_OVF (R413). -/
def regSchHitchOvf : Nat := 0x400050
/-- SCH_EVENTS (R414). -/
def regSchEvents : Nat := 0x400058

/-- The registers of a SCH window. -/
def schRegs : List RegDesc :=
  [⟨0x0, false, 0x0, 0x0, 0x0, 0x0, false⟩,
   ⟨0x8, true, 0x1, 0x0, 0x0, 0x0, false⟩,
   ⟨0x10, false, 0x0, 0x0, 0x0, 0x0, false⟩,
   ⟨0x14, false, 0x0, 0x0, 0x0, 0x0, false⟩,
   ⟨0x18, false, 0x0, 0x0, 0x0, 0x0, false⟩,
   ⟨0x1C, false, 0x0, 0x0, 0x0, 0x0, false⟩,
   ⟨0x20, true, 0x0, 0x0, 0x8000000000000000, 0x0, true⟩,
   ⟨0x28, true, 0x0, 0x0, 0x8000000000000000, 0x0, true⟩,
   ⟨0x30, false, 0x0, 0x0, 0x80000000, 0x0, true⟩,
   ⟨0x34, false, 0x0, 0x0, 0x80000000, 0x0, true⟩,
   ⟨0x38, false, 0x0, 0x0, 0x80000000, 0x0, true⟩,
   ⟨0x3C, false, 0x0, 0x0, 0x80000000, 0x0, true⟩,
   ⟨0x40, false, 0x0, 0x0, 0x80000000, 0x0, true⟩,
   ⟨0x44, false, 0x0, 0x0, 0x80000000, 0x0, true⟩,
   ⟨0x48, false, 0x0, 0x0, 0x80000000, 0x0, true⟩,
   ⟨0x4C, false, 0x0, 0x0, 0x80000000, 0x0, true⟩,
   ⟨0x50, false, 0x0, 0x0, 0x80000000, 0x0, true⟩,
   ⟨0x58, false, 0x0, 0x0, 0x3F, 0x0, false⟩]

/-- SCH_ABORT_k (R415). -/
def regSchAbort (i : Nat) : Nat := 0x400100 + 0x10 * i
/-- SCH_ABORT_RES_k (R416). -/
def regSchAbortRes (i : Nat) : Nat := 0x400108 + 0x10 * i

/-- The registers of a SCH abort window. -/
def schAbortRegs : List RegDesc :=
  [⟨0x0, true, 0x0, 0x0, 0x0, 0x0, false⟩,
   ⟨0x8, false, 0x0, 0x0, 0x0, 0x0, false⟩]

/-- HIT_OPS (R443). -/
def regHitOps : Nat := 0x800000
/-- HIT_OVF (R444). -/
def regHitOvf : Nat := 0x800008
/-- HIT_REFUSED (R444). -/
def regHitRefused : Nat := 0x80000C
/-- HIT_RETRY (R444). -/
def regHitRetry : Nat := 0x800010
/-- HIT_BROKEN (R444). -/
def regHitBroken : Nat := 0x800014
/-- HIT_RETURNED (R444). -/
def regHitReturned : Nat := 0x800018
/-- HIT_ABANDONED (R444). -/
def regHitAbandoned : Nat := 0x80001C
/-- HIT_WAITERS (R445). -/
def regHitWaiters : Nat := 0x800020
/-- HIT_EVENTS (R446). -/
def regHitEvents : Nat := 0x800028
/-- HIT_CLEAR (R447). -/
def regHitClear : Nat := 0x800030

/-- The registers of a HIT window. -/
def hitRegs : List RegDesc :=
  [⟨0x0, true, 0x0, 0x0, 0x8000000000000000, 0x0, true⟩,
   ⟨0x8, false, 0x0, 0x0, 0x80000000, 0x0, true⟩,
   ⟨0xC, false, 0x0, 0x0, 0x80000000, 0x0, true⟩,
   ⟨0x10, false, 0x0, 0x0, 0x80000000, 0x0, true⟩,
   ⟨0x14, false, 0x0, 0x0, 0x80000000, 0x0, true⟩,
   ⟨0x18, false, 0x0, 0x0, 0x80000000, 0x0, true⟩,
   ⟨0x1C, false, 0x0, 0x0, 0x80000000, 0x0, true⟩,
   ⟨0x20, false, 0x0, 0x0, 0x0, 0x0, false⟩,
   ⟨0x28, false, 0x0, 0x0, 0xF, 0x0, false⟩,
   ⟨0x30, false, 0x0, 0x0, 0x0, 0x0, false⟩]

/-- EMB_CFG (R328). -/
def regEmbCfg : Nat := 0xC00000
/-- EMB_STATUS (R329). -/
def regEmbStatus : Nat := 0xC00008
/-- EMB_LOOKUP_ROWS (R330). -/
def regEmbLookupRows : Nat := 0xC00010
/-- EMB_COMMIT_ROWS (R331). -/
def regEmbCommitRows : Nat := 0xC00018
/-- EMB_BUDGET_CUT (R332). -/
def regEmbBudgetCut : Nat := 0xC00020
/-- EMB_DISCARD (R333). -/
def regEmbDiscard : Nat := 0xC00024
/-- EMB_CARRY (R334). -/
def regEmbCarry : Nat := 0xC00028
/-- EMB_STAGE_FULL (R335). -/
def regEmbStageFull : Nat := 0xC0002C
/-- EMB_LOST_CNT (R336). -/
def regEmbLostCnt : Nat := 0xC00030
/-- EMB_RESTORE_CNT (R337). -/
def regEmbRestoreCnt : Nat := 0xC00034
/-- EMB_EVENTS (R338). -/
def regEmbEvents : Nat := 0xC00038

/-- The registers of a EMB window. -/
def embRegs : List RegDesc :=
  [⟨0x0, true, 0x0, 0x0, 0x0, 0x0, false⟩,
   ⟨0x8, false, 0x0, 0x0, 0x0, 0x0, false⟩,
   ⟨0x10, true, 0x0, 0x0, 0x8000000000000000, 0x0, true⟩,
   ⟨0x18, true, 0x0, 0x0, 0x8000000000000000, 0x0, true⟩,
   ⟨0x20, false, 0x0, 0x0, 0x80000000, 0x0, true⟩,
   ⟨0x24, false, 0x0, 0x0, 0x80000000, 0x0, true⟩,
   ⟨0x28, false, 0x0, 0x0, 0x80000000, 0x0, true⟩,
   ⟨0x2C, false, 0x0, 0x0, 0x80000000, 0x0, true⟩,
   ⟨0x30, false, 0x0, 0x0, 0x80000000, 0x0, true⟩,
   ⟨0x34, false, 0x0, 0x0, 0x80000000, 0x0, true⟩,
   ⟨0x38, false, 0x0, 0x0, 0x3F, 0x0, false⟩]

/-- PLC_CFG (R372). -/
def regPlcCfg : Nat := 0x1000000
/-- PLC_POOL (R373). -/
def regPlcPool : Nat := 0x1000008
/-- PLC_SNAP (R374). -/
def regPlcSnap : Nat := 0x1000010
/-- PLC_USED (R375). -/
def regPlcUsed : Nat := 0x1000018
/-- PLC_MIG_BYTES (R376). -/
def regPlcMigBytes : Nat := 0x1000020
/-- PLC_MIG_ROWS (R377). -/
def regPlcMigRows : Nat := 0x1000028
/-- PLC_BUDGET_CUT (R378). -/
def regPlcBudgetCut : Nat := 0x1000030
/-- PLC_CONFLICT (R379). -/
def regPlcConflict : Nat := 0x1000034
/-- PLC_FORWARDED (R380). -/
def regPlcForwarded : Nat := 0x1000038
/-- PLC_FWD_MISS (R380). -/
def regPlcFwdMiss : Nat := 0x100003C
/-- PLC_EVENTS (R381). -/
def regPlcEvents : Nat := 0x1000040

/-- The registers of a PLC window. -/
def plcRegs : List RegDesc :=
  [⟨0x0, true, 0x0, 0x0, 0x0, 0x0, false⟩,
   ⟨0x8, true, 0x0, 0x0, 0x0, 0x0, false⟩,
   ⟨0x10, true, 0x0, 0x0, 0x0, 0x0, false⟩,
   ⟨0x18, true, 0x0, 0x0, 0x0, 0x0, false⟩,
   ⟨0x20, true, 0x0, 0x0, 0x8000000000000000, 0x0, true⟩,
   ⟨0x28, true, 0x0, 0x0, 0x8000000000000000, 0x0, true⟩,
   ⟨0x30, false, 0x0, 0x0, 0x80000000, 0x0, true⟩,
   ⟨0x34, false, 0x0, 0x0, 0x80000000, 0x0, true⟩,
   ⟨0x38, false, 0x0, 0x0, 0x80000000, 0x0, true⟩,
   ⟨0x3C, false, 0x0, 0x0, 0x80000000, 0x0, true⟩,
   ⟨0x40, false, 0x0, 0x0, 0x3F, 0x0, false⟩]

/-- MEM_CH_STATE (R478). -/
def regMemChState (i : Nat) : Nat := 0x1400000 + 0x1000 * i
/-- MEM_CH_LAST_ERR (R479). -/
def regMemChLastErr (i : Nat) : Nat := 0x1400008 + 0x1000 * i
/-- MEM_CH_REMAP (R480). -/
def regMemChRemap (i : Nat) : Nat := 0x1400010 + 0x1000 * i
/-- MEM_CH_CORR (R481). -/
def regMemChCorr (i : Nat) : Nat := 0x1400020 + 0x1000 * i
/-- MEM_CH_UNCORR (R481). -/
def regMemChUncorr (i : Nat) : Nat := 0x1400024 + 0x1000 * i
/-- MEM_CH_INNER (R481). -/
def regMemChInner (i : Nat) : Nat := 0x1400028 + 0x1000 * i
/-- MEM_CH_TIMEOUT (R481). -/
def regMemChTimeout (i : Nat) : Nat := 0x140002C + 0x1000 * i
/-- MEM_CH_DROPPED (R481). -/
def regMemChDropped (i : Nat) : Nat := 0x1400030 + 0x1000 * i
/-- MEM_CH_RMW (R481). -/
def regMemChRmw (i : Nat) : Nat := 0x1400034 + 0x1000 * i
/-- MEM_CH_SCRUB (R481). -/
def regMemChScrub (i : Nat) : Nat := 0x1400038 + 0x1000 * i
/-- MEM_CH_CTL (R482). -/
def regMemChCtl (i : Nat) : Nat := 0x1400040 + 0x1000 * i
/-- MEM_CH_TEST (R483). -/
def regMemChTest (i : Nat) : Nat := 0x1400048 + 0x1000 * i
/-- MEM_CH_EVENTS (R484). -/
def regMemChEvents (i : Nat) : Nat := 0x1400050 + 0x1000 * i

/-- The registers of a MEM channel window. -/
def memChRegs : List RegDesc :=
  [⟨0x0, false, 0x0, 0x0, 0x0, 0x0, false⟩,
   ⟨0x8, true, 0x0, 0x0, 0x0, 0x0, false⟩,
   ⟨0x10, false, 0x200000, 0x0, 0x0, 0x0, false⟩,
   ⟨0x20, false, 0x0, 0x0, 0x80000000, 0x0, true⟩,
   ⟨0x24, false, 0x0, 0x0, 0x80000000, 0x0, true⟩,
   ⟨0x28, false, 0x0, 0x0, 0x80000000, 0x0, true⟩,
   ⟨0x2C, false, 0x0, 0x0, 0x80000000, 0x0, true⟩,
   ⟨0x30, false, 0x0, 0x0, 0x80000000, 0x0, true⟩,
   ⟨0x34, false, 0x0, 0x0, 0x80000000, 0x0, true⟩,
   ⟨0x38, false, 0x0, 0x0, 0x80000000, 0x0, true⟩,
   ⟨0x40, false, 0x0, 0xFC, 0x0, 0x0, false⟩,
   ⟨0x48, true, 0x0, 0x0, 0x0, 0x0, false⟩,
   ⟨0x50, false, 0x0, 0x0, 0x3F, 0x0, false⟩]

/-- MEM_CFG (R477). -/
def regMemCfg : Nat := 0x1600000

/-- The registers of a MEM common window. -/
def memCommonRegs : List RegDesc :=
  [⟨0x0, true, 0x0, 0x0, 0x0, 0x0, false⟩]

/-- HWS_PORT_STATE (R522). -/
def regHwsPortState (i : Nat) : Nat := 0x1800000 + 0x10000 * i
/-- HWS_PORT_CFG (R523). -/
def regHwsPortCfg (i : Nat) : Nat := 0x1800004 + 0x10000 * i
/-- HWS_PDELAY (R524). -/
def regHwsPdelay (i : Nat) : Nat := 0x1800008 + 0x10000 * i
/-- HWS_LINK (R525). -/
def regHwsLink (i : Nat) : Nat := 0x180000C + 0x10000 * i
/-- HWS_TX_GRANTED (R526). -/
def regHwsTxGranted (i : Nat) : Nat := 0x1800010 + 0x10000 * i
/-- HWS_TX_SPILL (R526). -/
def regHwsTxSpill (i : Nat) : Nat := 0x1800018 + 0x10000 * i
/-- HWS_TX_CONTROL (R526). -/
def regHwsTxControl (i : Nat) : Nat := 0x1800020 + 0x10000 * i
/-- HWS_RX_CELLS (R526). -/
def regHwsRxCells (i : Nat) : Nat := 0x1800028 + 0x10000 * i
/-- HWS_FEC_CORR (R526). -/
def regHwsFecCorr (i : Nat) : Nat := 0x1800030 + 0x10000 * i
/-- HWS_FEC_UNCORR (R527). -/
def regHwsFecUncorr (i : Nat) : Nat := 0x1800040 + 0x10000 * i
/-- HWS_CRC_ERR (R527). -/
def regHwsCrcErr (i : Nat) : Nat := 0x1800044 + 0x10000 * i
/-- HWS_REPLAY (R527). -/
def regHwsReplay (i : Nat) : Nat := 0x1800048 + 0x10000 * i
/-- HWS_MISSED (R527). -/
def regHwsMissed (i : Nat) : Nat := 0x180004C + 0x10000 * i
/-- HWS_DOWN (R527). -/
def regHwsDown (i : Nat) : Nat := 0x1800050 + 0x10000 * i
/-- HWS_DEMAND_SNAP (R528). -/
def regHwsDemandSnap (i : Nat) : Nat := 0x1800060 + 0x10000 * i
/-- HWS_PORT_EVENTS (R529). -/
def regHwsPortEvents (i : Nat) : Nat := 0x1800068 + 0x10000 * i

/-- The registers of a HWS port window. -/
def hwsPortRegs : List RegDesc :=
  [⟨0x0, false, 0x0, 0x0, 0x0, 0x0, false⟩,
   ⟨0x4, false, 0x0, 0x0, 0x0, 0x0, false⟩,
   ⟨0x8, false, 0x0, 0x0, 0x0, 0x0, false⟩,
   ⟨0xC, false, 0x0, 0x0, 0x0, 0x0, false⟩,
   ⟨0x10, true, 0x0, 0x0, 0x8000000000000000, 0x0, true⟩,
   ⟨0x18, true, 0x0, 0x0, 0x8000000000000000, 0x0, true⟩,
   ⟨0x20, true, 0x0, 0x0, 0x8000000000000000, 0x0, true⟩,
   ⟨0x28, true, 0x0, 0x0, 0x8000000000000000, 0x0, true⟩,
   ⟨0x30, true, 0x0, 0x0, 0x8000000000000000, 0x0, true⟩,
   ⟨0x40, false, 0x0, 0x0, 0x80000000, 0x0, true⟩,
   ⟨0x44, false, 0x0, 0x0, 0x80000000, 0x0, true⟩,
   ⟨0x48, false, 0x0, 0x0, 0x80000000, 0x0, true⟩,
   ⟨0x4C, false, 0x0, 0x0, 0x80000000, 0x0, true⟩,
   ⟨0x50, false, 0x0, 0x0, 0x80000000, 0x0, true⟩,
   ⟨0x60, true, 0x0, 0x0, 0x0, 0x0, false⟩,
   ⟨0x68, false, 0x0, 0x0, 0x1F, 0x0, false⟩]

/-- HWS_CFG (R530). -/
def regHwsCfg : Nat := 0x1900000
/-- HWS_FRAME (R531). -/
def regHwsFrame : Nat := 0x1900008
/-- HWS_GRANT_TICK (R532). -/
def regHwsGrantTick : Nat := 0x1900010
/-- HWS_RMT_TIMEOUT (R533). -/
def regHwsRmtTimeout : Nat := 0x1900018
/-- HWS_LATE_RSP (R533). -/
def regHwsLateRsp : Nat := 0x190001C
/-- HWS_HOP_DROP (R533). -/
def regHwsHopDrop : Nat := 0x1900020
/-- HWS_NO_ROUTE (R533). -/
def regHwsNoRoute : Nat := 0x1900024
/-- HWS_DUP_DROP (R533). -/
def regHwsDupDrop : Nat := 0x1900028
/-- HWS_GRANT_BAD (R533). -/
def regHwsGrantBad : Nat := 0x190002C
/-- HWS_SA_REFUSED (R533). -/
def regHwsSaRefused : Nat := 0x1900030
/-- HWS_EVENTS (R534). -/
def regHwsEvents : Nat := 0x1900038

/-- The registers of a HWS common window. -/
def hwsRegs : List RegDesc :=
  [⟨0x0, false, 0x0, 0x0, 0x0, 0x0, false⟩,
   ⟨0x8, false, 0x0, 0x0, 0x0, 0x0, false⟩,
   ⟨0x10, true, 0x0, 0x0, 0x0, 0x0, false⟩,
   ⟨0x18, false, 0x0, 0x0, 0x80000000, 0x0, true⟩,
   ⟨0x1C, false, 0x0, 0x0, 0x80000000, 0x0, true⟩,
   ⟨0x20, false, 0x0, 0x0, 0x80000000, 0x0, true⟩,
   ⟨0x24, false, 0x0, 0x0, 0x80000000, 0x0, true⟩,
   ⟨0x28, false, 0x0, 0x0, 0x80000000, 0x0, true⟩,
   ⟨0x2C, false, 0x0, 0x0, 0x80000000, 0x0, true⟩,
   ⟨0x30, false, 0x0, 0x0, 0x80000000, 0x0, true⟩,
   ⟨0x38, false, 0x0, 0x0, 0x1F, 0x0, false⟩]

/-- COR_ID (R132). -/
def regCorId (i : Nat) : Nat := 0x2000000 + 0x10000 * i
/-- COR_STATE (R133). -/
def regCorState (i : Nat) : Nat := 0x2000004 + 0x10000 * i
/-- COR_STRANDS (R134). -/
def regCorStrands (i : Nat) : Nat := 0x2000008 + 0x10000 * i
/-- COR_INFLIGHT (R135). -/
def regCorInflight (i : Nat) : Nat := 0x200000C + 0x10000 * i
/-- COR_CMDQ (R136). -/
def regCorCmdq (i : Nat) : Nat := 0x2000010 + 0x10000 * i
/-- COR_ISSUE_CNT (R137). -/
def regCorIssueCnt (i : Nat) : Nat := 0x2000018 + 0x10000 * i
/-- COR_TASK_CNT (R138). -/
def regCorTaskCnt (i : Nat) : Nat := 0x2000020 + 0x10000 * i
/-- COR_FAULT_CNT (R139). -/
def regCorFaultCnt (i : Nat) : Nat := 0x2000028 + 0x10000 * i
/-- COR_LAST_FAULT (R140). -/
def regCorLastFault (i : Nat) : Nat := 0x2000030 + 0x10000 * i
/-- COR_EVENTS (R141). -/
def regCorEvents (i : Nat) : Nat := 0x2000038 + 0x10000 * i
/-- COR_GAT_CFG (R176). -/
def regCorGatCfg (i : Nat) : Nat := 0x2000100 + 0x10000 * i
/-- COR_GAT_LISTS (R177). -/
def regCorGatLists (i : Nat) : Nat := 0x2000108 + 0x10000 * i
/-- COR_GAT_EDGES (R178). -/
def regCorGatEdges (i : Nat) : Nat := 0x2000110 + 0x10000 * i
/-- COR_GAT_REFETCH (R179). -/
def regCorGatRefetch (i : Nat) : Nat := 0x2000118 + 0x10000 * i
/-- COR_GAT_STALE (R180). -/
def regCorGatStale (i : Nat) : Nat := 0x200011C + 0x10000 * i
/-- COR_GAT_HUB (R181). -/
def regCorGatHub (i : Nat) : Nat := 0x2000120 + 0x10000 * i
/-- COR_GAT_UNSPLIT (R182). -/
def regCorGatUnsplit (i : Nat) : Nat := 0x2000124 + 0x10000 * i
/-- COR_GAT_FORMAT (R183). -/
def regCorGatFormat (i : Nat) : Nat := 0x2000128 + 0x10000 * i
/-- COR_VEC_CHAINS (R220). -/
def regCorVecChains (i : Nat) : Nat := 0x2000200 + 0x10000 * i
/-- COR_VEC_TILES (R221). -/
def regCorVecTiles (i : Nat) : Nat := 0x2000208 + 0x10000 * i
/-- COR_VEC_RANGE (R222). -/
def regCorVecRange (i : Nat) : Nat := 0x2000210 + 0x10000 * i
/-- COR_VEC_FLAGS (R223). -/
def regCorVecFlags (i : Nat) : Nat := 0x2000214 + 0x10000 * i
/-- COR_VEC_ROWS (R224). -/
def regCorVecRows (i : Nat) : Nat := 0x2000218 + 0x10000 * i
/-- COR_VEC_BADDESC (R225). -/
def regCorVecBaddesc (i : Nat) : Nat := 0x200021C + 0x10000 * i
/-- COR_MAT_CMDS (R256). -/
def regCorMatCmds (i : Nat) : Nat := 0x2000300 + 0x10000 * i
/-- COR_MAT_PASSES (R257). -/
def regCorMatPasses (i : Nat) : Nat := 0x2000308 + 0x10000 * i
/-- COR_MAT_SPLITS (R258). -/
def regCorMatSplits (i : Nat) : Nat := 0x2000310 + 0x10000 * i
/-- COR_MAT_BUSY (R259). -/
def regCorMatBusy (i : Nat) : Nat := 0x2000314 + 0x10000 * i
/-- COR_MAT_BADDESC (R260). -/
def regCorMatBaddesc (i : Nat) : Nat := 0x2000318 + 0x10000 * i
/-- COR_MAT_PARTFULL (R261). -/
def regCorMatPartfull (i : Nat) : Nat := 0x200031C + 0x10000 * i
/-- COR_MAT_FLAGS (R262). -/
def regCorMatFlags (i : Nat) : Nat := 0x2000320 + 0x10000 * i
/-- COR_MAT_STATE (R263). -/
def regCorMatState (i : Nat) : Nat := 0x2000324 + 0x10000 * i

/-- The registers of a COR window. -/
def corRegs : List RegDesc :=
  [⟨0x0, false, 0x0, 0x0, 0x0, 0x0, false⟩,
   ⟨0x4, false, 0x0, 0x0, 0x0, 0x0, false⟩,
   ⟨0x8, false, 0x0, 0x0, 0x0, 0x0, false⟩,
   ⟨0xC, false, 0x0, 0x0, 0x0, 0x0, false⟩,
   ⟨0x10, false, 0x0, 0x0, 0x0, 0x0, false⟩,
   ⟨0x18, true, 0x0, 0x0, 0x8000000000000000, 0x0, true⟩,
   ⟨0x20, true, 0x0, 0x0, 0x8000000000000000, 0x0, true⟩,
   ⟨0x28, false, 0x0, 0x0, 0x80000000, 0x0, true⟩,
   ⟨0x30, true, 0x0, 0x0, 0x0, 0x0, false⟩,
   ⟨0x38, false, 0x0, 0x0, 0x7, 0x0, false⟩,
   ⟨0x100, false, 0x0, 0x0, 0x0, 0x0, false⟩,
   ⟨0x108, true, 0x0, 0x0, 0x8000000000000000, 0x0, true⟩,
   ⟨0x110, true, 0x0, 0x0, 0x8000000000000000, 0x0, true⟩,
   ⟨0x118, false, 0x0, 0x0, 0x80000000, 0x0, true⟩,
   ⟨0x11C, false, 0x0, 0x0, 0x80000000, 0x0, true⟩,
   ⟨0x120, false, 0x0, 0x0, 0x80000000, 0x0, true⟩,
   ⟨0x124, false, 0x0, 0x0, 0x80000000, 0x0, true⟩,
   ⟨0x128, false, 0x0, 0x0, 0x80000000, 0x0, true⟩,
   ⟨0x200, true, 0x0, 0x0, 0x8000000000000000, 0x0, true⟩,
   ⟨0x208, true, 0x0, 0x0, 0x8000000000000000, 0x0, true⟩,
   ⟨0x210, false, 0x0, 0x0, 0x80000000, 0x0, true⟩,
   ⟨0x214, false, 0x0, 0x0, 0x1F, 0x0, false⟩,
   ⟨0x218, false, 0x0, 0x0, 0x80000000, 0x0, true⟩,
   ⟨0x21C, false, 0x0, 0x0, 0x80000000, 0x0, true⟩,
   ⟨0x300, true, 0x0, 0x0, 0x8000000000000000, 0x0, true⟩,
   ⟨0x308, true, 0x0, 0x0, 0x8000000000000000, 0x0, true⟩,
   ⟨0x310, false, 0x0, 0x0, 0x80000000, 0x0, true⟩,
   ⟨0x314, false, 0x0, 0x0, 0x80000000, 0x0, true⟩,
   ⟨0x318, false, 0x0, 0x0, 0x80000000, 0x0, true⟩,
   ⟨0x31C, false, 0x0, 0x0, 0x80000000, 0x0, true⟩,
   ⟨0x320, false, 0x0, 0x0, 0x17, 0x0, false⟩,
   ⟨0x324, false, 0x0, 0x0, 0x0, 0x0, false⟩]

/-- UPD_STATUS (R563). -/
def regUpdStatus : Nat := 0x3400000
/-- UPD_LAYER_STEPS (R564). -/
def regUpdLayerSteps : Nat := 0x3400008
/-- UPD_ROWS_APPLIED (R564). -/
def regUpdRowsApplied : Nat := 0x3400010
/-- UPD_LATE_GRAD (R565). -/
def regUpdLateGrad : Nat := 0x3400020
/-- UPD_FROZEN_DISCARD (R565). -/
def regUpdFrozenDiscard : Nat := 0x3400024
/-- UPD_NONFINITE (R565). -/
def regUpdNonfinite : Nat := 0x3400028
/-- UPD_PRECOND_FALLBACK (R565). -/
def regUpdPrecondFallback : Nat := 0x340002C
/-- UPD_ROW_INVALID (R565). -/
def regUpdRowInvalid : Nat := 0x3400030
/-- UPD_ACC_FULL (R565). -/
def regUpdAccFull : Nat := 0x3400034
/-- UPD_RING_SKIP (R565). -/
def regUpdRingSkip : Nat := 0x3400038
/-- UPD_BAD_GRAD (R565). -/
def regUpdBadGrad : Nat := 0x340003C
/-- UPD_SLICE_DROP (R565). -/
def regUpdSliceDrop : Nat := 0x3400040
/-- UPD_EVENTS (R566). -/
def regUpdEvents : Nat := 0x3400048

/-- The registers of a UPD window. -/
def updRegs : List RegDesc :=
  [⟨0x0, false, 0x0, 0x0, 0x0, 0x0, false⟩,
   ⟨0x8, true, 0x0, 0x0, 0x8000000000000000, 0x0, true⟩,
   ⟨0x10, true, 0x0, 0x0, 0x8000000000000000, 0x0, true⟩,
   ⟨0x20, false, 0x0, 0x0, 0x80000000, 0x0, true⟩,
   ⟨0x24, false, 0x0, 0x0, 0x80000000, 0x0, true⟩,
   ⟨0x28, false, 0x0, 0x0, 0x80000000, 0x0, true⟩,
   ⟨0x2C, false, 0x0, 0x0, 0x80000000, 0x0, true⟩,
   ⟨0x30, false, 0x0, 0x0, 0x80000000, 0x0, true⟩,
   ⟨0x34, false, 0x0, 0x0, 0x80000000, 0x0, true⟩,
   ⟨0x38, false, 0x0, 0x0, 0x80000000, 0x0, true⟩,
   ⟨0x3C, false, 0x0, 0x0, 0x80000000, 0x0, true⟩,
   ⟨0x40, false, 0x0, 0x0, 0x80000000, 0x0, true⟩,
   ⟨0x48, false, 0x0, 0x0, 0xFF, 0x0, false⟩]

/-- KEEP_STATE (R674). -/
def regKeepState : Nat := 0x3800000
/-- KEEP_DEVICE_ID (R675). -/
def regKeepDeviceId : Nat := 0x3800008
/-- KEEP_SVN_FLOOR (R676). -/
def regKeepSvnFloor : Nat := 0x3800010
/-- KEEP_DEBUG_POLICY (R677). -/
def regKeepDebugPolicy : Nat := 0x3800018
/-- KEEP_EVENTS (R678). -/
def regKeepEvents : Nat := 0x3800020

/-- The registers of a KEEP window. -/
def keepRegs : List RegDesc :=
  [⟨0x0, false, 0x0, 0x0, 0x0, 0x0, false⟩,
   ⟨0x8, true, 0x0, 0x0, 0x0, 0x0, false⟩,
   ⟨0x10, false, 0x0, 0x0, 0x0, 0x0, false⟩,
   ⟨0x18, true, 0x0, 0x0, 0x0, 0x0, false⟩,
   ⟨0x20, false, 0x0, 0x0, 0x0, 0x0, false⟩]

/-- BOOT_STATUS (R643). -/
def regBootStatus : Nat := 0x3A00000
/-- BOOT_BUILD (R644). -/
def regBootBuild : Nat := 0x3A00008
/-- BOOT_PART_ID (R645). -/
def regBootPartId : Nat := 0x3A00010
/-- BOOT_FW_READY (R646). -/
def regBootFwReady : Nat := 0x3A00018
/-- BOOT_TICK0 (R647). -/
def regBootTick0 : Nat := 0x3A00020
/-- BOOT_RESTART (R648). -/
def regBootRestart : Nat := 0x3A00028

/-- The registers of a BOOT window. -/
def bootRegs : List RegDesc :=
  [⟨0x0, false, 0x0, 0x0, 0x0, 0x0, false⟩,
   ⟨0x8, true, 0x0, 0x0, 0x0, 0x0, false⟩,
   ⟨0x10, true, 0x0, 0x0, 0x0, 0x0, false⟩,
   ⟨0x18, false, 0x0, 0x0, 0x0, 0x1, false⟩,
   ⟨0x20, true, 0x0, 0x0, 0x0, 0x0, false⟩,
   ⟨0x28, false, 0x0, 0x0, 0x0, 0x0, false⟩]

/-- TEL_TICK (R732). -/
def regTelTick : Nat := 0x3C00000

/-- The registers of a TEL window. -/
def telRegs : List RegDesc :=
  [⟨0x0, true, 0x0, 0x0, 0x0, 0x0, false⟩]

/-- Every register window of BAR0 (18 R681). -/
def regWindows : List RegWindow :=
  [⟨0x0, 0x10000, 1, pciRegs⟩,
   ⟨0x10000, 0x20, 1024, pciQRegs⟩,
   ⟨0x100000, 0x8000, 1, tsqRegs⟩,
   ⟨0x108000, 0x8000, 1, timRegs⟩,
   ⟨0x200000, 0x10000, 1, rdyRegs⟩,
   ⟨0x300000, 0x40000, 1, fltRegs⟩,
   ⟨0x400000, 0x100, 1, schRegs⟩,
   ⟨0x400100, 0x10, 20, schAbortRegs⟩,
   ⟨0x800000, 0x100000, 1, hitRegs⟩,
   ⟨0xC00000, 0x100000, 1, embRegs⟩,
   ⟨0x1000000, 0x200000, 1, plcRegs⟩,
   ⟨0x1400000, 0x1000, 192, memChRegs⟩,
   ⟨0x1600000, 0x80000, 1, memCommonRegs⟩,
   ⟨0x1800000, 0x10000, 16, hwsPortRegs⟩,
   ⟨0x1900000, 0x10000, 1, hwsRegs⟩,
   ⟨0x2000000, 0x10000, 272, corRegs⟩,
   ⟨0x3400000, 0x100000, 1, updRegs⟩,
   ⟨0x3800000, 0x200000, 1, keepRegs⟩,
   ⟨0x3A00000, 0x10000, 1, bootRegs⟩,
   ⟨0x3C00000, 0x100000, 1, telRegs⟩]

/-- The register of a window list at offset `o`: itself, or the high half of a 64-bit one (00 R6). -/
def findDesc : List RegDesc → Nat → Option (RegDesc × Bool)
  | [], _ => none
  | r :: rs, o =>
    if o = r.off then some (r, false)
    else if r.wide && o = r.off + 4 then some (r, true)
    else findDesc rs o

/-- The register at a BAR0 address, with its own address and whether the high half is meant; none where no register
is defined (00 R9). -/
def findReg : List RegWindow → Nat → Option (RegDesc × Nat × Bool)
  | [], _ => none
  | w :: ws, a =>
    if w.base ≤ a ∧ a < w.base + w.stride * w.count then
      let o := (a - w.base) % w.stride
      match findDesc w.regs o with
      | some (r, hi) => some (r, a - (o - r.off), hi)
      | none => none
    else findReg ws a

/-- What a register holds after the reset of its unit (00 R10). -/
def csrDefault (a : Nat) : Word :=
  match findReg regWindows a with
  | some (r, _, false) => BitVec.ofNat 64 r.reset
  | _ => 0

end Sys2Proof.Machine
end

