-- ==== Sys2Proof/Machine/State.lean ====
section
/-! DEFINITION. The state of the Millith MX as plain data: every register, buffer, queue, counter, mode and pin the
spec gives it, the queue of waiting commands, and the reasons a step can stop. -/

namespace Sys2Proof.Machine

/-- The states of a readiness entry, by the code of 03 R133. -/
inductive UnitState where
  | absent | training | testing | ready | fenced | grey
deriving DecidableEq, Repr

/-- A readiness entry (16 R634). `recAt` is the device time RECOVERED was set at, `confirmed` a CONFIRM awaiting the
switch stage (R635), `ownFault` grey for a fault of the unit's own and `released` a withdrawn force whose recovery
runs (15 R570). -/
structure RdyEntry where
  state : UnitState
  forced : Bool
  recovered : Bool
  reason : Nat
  tick : Nat
  recAt : Nat
  confirmed : Bool
  ownFault : Bool
  released : Bool
deriving DecidableEq, Repr

/-- A fault record of the ring (15 R596); DETAIL is its 20 bytes as one little-endian number. -/
structure FaultRec where
  seq : Nat
  tick : Nat
  offNs : Nat
  kind : Nat
  cls : Nat
  action : Nat
  subject : Nat
  reporter : Nat
  witness : Nat
  final : Bool
  ackReq : Bool
  overflow : Bool
  sat : Bool
  detail : Nat
deriving DecidableEq, Repr

/-- The fault aggregator (15 R595-R603): the ring by slot, the open pairs (subject, kind, seq) and overflow records
(class, seq) of the tick, the records awaiting acknowledgement, those beyond 64 whose actions wait too, the classes
that have had a record in this tick, the records the keeper holds before the aggregator is READY (16 R629), and the records whose tick ended before a switch
stage had set FINAL in them (R600). -/
structure FltUnit where
  ring : List (Nat × FaultRec)
  opens : List (Nat × Nat × Nat)
  ovfOpens : List (Nat × Nat)
  pendAck : List Nat
  overAck : List Nat
  seenClass : Nat
  held : List FaultRec
  unfinal : List Nat
deriving DecidableEq, Repr

/-- The states of a strand (03 R96). -/
inductive StrandState where
  | idle | ready | wait | spin
deriving DecidableEq, Repr

/-- What a strand in WAIT or SPIN awaits (03 R96; 11 R422, R427, R435): room in the command queue, room in a ready or
delay list for the descriptor at a scratchpad offset, a command id, every command of its task, a hitch response (its tag), its own commands after TEND, a hitch
ticket or a barrier round; the register that receives the result where there is one. -/
inductive WaitFor where
  | nothing
  | queueRoom
  | listRoom (off : Nat)
  | command (id : Nat)
  | drain
  | remote (tag : Nat) (rd : Reg)
  | ending
  | hitch (rd : Reg)
  | barrier (rd : Reg)
deriving DecidableEq, Repr

/-- What has become of a latched hitch ticket, as the core's copy of the release notices shows it (11 R440). -/
inductive LatchState where
  | queued | relOne | relAll | broken | taken
deriving DecidableEq, Repr

/-- A hitch latch: hitch id, ticket and what has become of it (11 R422). -/
structure HLatch where
  hitch : Nat
  ticket : Nat
  st : LatchState
deriving DecidableEq, Repr

/-- The architectural state of a strand or of a control core's thread (03 R90, R91, R114); the place of g0 stays 0 and is not read. `drain` lists the ids
issued since the last QDRAINALL with the statuses of those that have completed (R102). -/
structure HartSt where
  st : StrandState
  task : Nat
  pc : BitVec 48
  regs : Vector Word 32
  preds : BitVec 8
  fflags : BitVec 5
  hLatch : Option HLatch
  kLatch : Option (Nat × Nat)
  wait : WaitFor
  deadline : Nat
  startAt : Nat
  drain : List (Nat × Option Nat)
deriving DecidableEq, Repr

/-- A control core beside its thread: its local memory (03 R131), the ticks of its faults (15 R584), a restart due at
T+0 (0 none, 1 from the image in force, 2 from the previous image, 3 a control switch's; R584, R590, R591; 17 R660) and the measurement of the image it
runs, empty before its first. -/
structure CtrlSt where
  localMem : List Host.Cell
  faultTicks : List Nat
  restart : Nat
  image : List Byte
deriving DecidableEq, Repr

/-- A task descriptor (10 R382). -/
structure TaskDesc where
  entry : Nat
  pref : Nat
  flow : Nat
  prio : Nat
  rerun : Bool
  delayTicks : Nat
  dueOff : Nat
  runLimit : Nat
  compHitch : Nat
  compAddr : Nat
  regions : List Nat
  args : List Nat
deriving DecidableEq, Repr

/-- The states of a task (10 R397); `ended` is an attempt whose outcome waits at the commit arbiter. -/
inductive TaskState where
  | delayed | ready | running | ending | ended | rerun
deriving DecidableEq, Repr

/-- A task held by the scheduler (10 R385-R407): where it is, its arrival stamp and order of entry, its due instant,
the strand it runs or last ran on, the outcome of the attempt that ended, and for a gated task the RELEASE item that named its core (01 R40). -/
structure Task where
  req : Nat
  desc : TaskDesc
  state : TaskState
  attempt : Nat
  stamp : Nat
  seq : Nat
  lcore : Nat
  pcore : Nat
  strand : Nat
  started : Bool
  inRerun : Bool
  gated : Bool
  dueTick : Nat
  die : Nat
  waitFrom : Nat
  startAt : Nat
  endAt : Nat
  status : Nat
  cause : Nat
  result : Nat
  mismatches : Nat
  preferLost : Bool
  item : Option Nat
deriving DecidableEq, Repr

/-- Who asks for an abort: a control core, or a host request (10 R403). -/
inductive Aborter where
  | ctrl (k : Nat)
  | request (req : Nat)
deriving DecidableEq, Repr

/-- A request waiting at a die's commit arbiter (10 R398). -/
inductive ArbReq where
  | final (task : Nat)
  | abort (task : Nat) (by_ : Aborter)
deriving DecidableEq, Repr

/-- The counters of one logical core for the tick's telemetry record (10 R408); the depth and busy sums grow as device
time passes. -/
structure TelCore where
  depthSum : Nat
  depthMax : Nat
  fenced : Bool
  levelMax : List (Nat × Nat)
  dispatched : Nat
  waitSum : Nat
  busyNs : Nat
  ended : Nat
  late : Nat
  rerun : Nat
  stolen : Nat
  spawnWaits : Nat
deriving DecidableEq, Repr

/-- A released descriptor not yet entered: its bytes' address, request id and core override, and the plan
item that overrides the core (10 R388, R389; 01 R40). -/
structure Release where
  addr : Nat
  req : Nat
  core : Option Nat
  item : Option Nat
deriving DecidableEq, Repr

/-- The scheduler units of the four dies (10): the tasks by id, the order of entry, the requests at the commit arbiters
in order of arrival, the completion signals due, each flow's last core, the releases still to be entered, the tick's
per-core counters, the dies whose shadow holders take over (15 R586), and the core map as the tick began (10 R408). -/
structure SchUnit where
  tasks : List (Nat × Task)
  entrySeq : Nat
  arb : List ArbReq
  comp : List Nat
  flowLast : List (Nat × Nat)
  releases : List Release
  tel : List (Nat × TelCore)
  takeover : List Nat
  served : List (Nat × Nat)
deriving DecidableEq, Repr

/-- One hitch (11 R417): the queue holds (slot, ticket) in ticket order; a slot is a hart number. -/
structure Hitch where
  count : Nat
  sense : Bool
  credits : Nat
  nextTicket : Nat
  queue : List (Nat × Nat)
deriving DecidableEq, Repr

/-- A ticket on its way to be withdrawn by a departing waiter (11 R424). -/
structure Withdrawal where
  hitch : Nat
  ticket : Nat
  slot : Nat
  st : LatchState
deriving DecidableEq, Repr

/-- A barrier definition (11 R430). -/
structure BarrierDef where
  defined : Bool
  strands : Nat
  cross : Bool
  ctrl : Nat
  rootDev : Nat
  parentPort : Nat
  childPorts : Nat
  coreMask : Nat
deriving DecidableEq, Repr

/-- A knot-tree node of one barrier (11 R429, R434): two counters, the current sense, and at a core node (or a control
core) the round and the two arrival masks. -/
structure KnotNode where
  count0 : Nat
  count1 : Nat
  cur : Bool
  round : Nat
  arr0 : Nat
  arr1 : Nat
deriving DecidableEq, Repr

/-- A barrier (11 R430-R439): the definition in force, a written one awaiting the switch stage, the physical cores it
maps to, its nodes, whether and since which tick it is broken, and the tick of its last reset. -/
structure Barrier where
  def_ : BarrierDef
  pendingDef : Option BarrierDef
  pcores : List Nat
  nodes : List (Nat × KnotNode)
  broken : Bool
  brokenTick : Nat
  resetTick : Nat
deriving DecidableEq, Repr

/-- The hitch root and the knot tree (11): hitches, tickets being withdrawn, releases being returned, barriers, and the
arrivals and releases on their way between nodes as (barrier, node, sense). -/
structure HitUnit where
  hitches : List (Nat × Hitch)
  withdrawals : List Withdrawal
  returned : List Nat
  barriers : List (Nat × Barrier)
  arrivals : List (Nat × Nat × Bool)
  releases : List (Nat × Nat × Bool)
deriving DecidableEq, Repr

/-- The phases of a tick (02 R49). -/
inductive Phase where
  | prime | run | settle | apply
deriving DecidableEq, Repr

/-- The NEXT buffer as TSQ_STATUS.PLAN shows it (02 R80). -/
inductive PlanState where
  | empty | building | sealed | held
deriving DecidableEq, Repr

/-- A FENCE item the tick sequencer adds to the plan of the next apply window (15 R578). -/
structure FenceItem where
  action : Nat
  lcore : Nat
  fenced : Nat
  spare : Nat
deriving DecidableEq, Repr

/-- A summary received in the tick: kind, sender, its tick and its body (13 R513, R514). -/
structure SummaryRx where
  dev : Nat
  tick : Nat
  items : List (List Byte)
deriving DecidableEq, Repr

/-- The tick sequencer (02 R47-R67). `running` is ticks started, `holdTick` a tick run under a hold plan, `take` the
NEXT buffer as it stood when it passed the checks of the apply point, `todo` the commit-stage items still to run and
`copies` the copy-stage ones, as (item index, bytes);
`skip` the indices of the common items skipped; `vetoed` those vetoed here, `vetoSent` the vetoes sent as (device,
TAG), `vetoAcked` the TAGs of those of which a copy has been acknowledged, `deferredItems` the items carried into the next window; `rebase` the tick that a REBASE steps to; `stage` how far the
apply window has come (0 none, 1 commit, 2 copy, 3 closed); `heldFrom` when the run of held ticks began (R65). -/
structure TsqUnit where
  running : Bool
  readyAt : Option Nat
  tick : Nat
  tickStart : Nat
  phase : Phase
  holdTicks : Nat
  plan : PlanState
  holdTick : Bool
  planActive : List Host.Cell
  planNext : List Host.Cell
  take : Option (List Host.Cell)
  stage : Nat
  todo : List (Nat × List Byte)
  copies : List (Nat × List Byte)
  skip : List Nat
  deferredItems : List (List Byte)
  vetoSent : List (Nat × Nat)
  vetoed : List Nat
  summaries : List SummaryRx
  fences : List FenceItem
  rebase : Option Nat
  vetoAcked : List Nat
  heldFrom : Nat
deriving DecidableEq, Repr

/-- The states of the time unit (02 R68). -/
inductive TimState where
  | unset | acquiring | locked | holdover | free | adrift | ahead
deriving DecidableEq, Repr

/-- An Announce data set: the fields the BMCA compares, in order; `sender` is the clock it came from (02 R73). -/
structure Announce where
  priority1 : Nat
  clockClass : Nat
  accuracy : Nat
  variance : Nat
  priority2 : Nat
  identity : Nat
  steps : Nat
  sender : Nat
deriving DecidableEq, Repr

/-- One PTP port (02 R73): the best Announce of a qualified foreign master and when it was last heard, the clocks that have sent an Announce with the
time of the last, the peer delay, and the timestamps of the exchanges in progress. Delays and timestamps are in quarters of a ns; `syncAt` holds a
Sync's sequenceId, arrival and correction, `respAt` t2 as corrected and t4, `reqCorr` the correction of the request
it answers. -/
structure PtpPort where
  announce : Option Announce
  heardAt : Nat
  foreign : List (Nat × Nat)
  peerDelay : Option Int
  reqCorr : Int
  reqSeq : Nat
  reqAt : Option Nat
  respAt : Option (Int × Nat)
  syncAt : Option (Nat × Nat × Int)
  txSeq : Nat
deriving DecidableEq, Repr

/-- The time unit (02 R46-R77): state and source, the servo's rate and last offset, the runs of good and bad
measurements, the last valid measurement (source time, device time), the error estimate, the PTP ports, PTM and the
TICK pins, and when each source gave its last measurement. -/
structure TimUnit where
  state : TimState
  source : Nat
  ptpPort : Nat
  errEst : Nat
  rate : Int
  offset : Int
  good : Nat
  bad : Nat
  lastMeas : Option (Nat × Nat)
  lastMeasAt : Nat
  grandmaster : Bool
  ports : List (Nat × PtpPort)
  ptmPending : Bool
  tickInWord : Option Nat
  tickOutEdges : Nat
  tickOutWord : Option Nat
  missedEdges : Nat
  usableAt : Nat
  heard : List (Nat × Nat)
deriving DecidableEq, Repr

/-- A write-combining entry (12 R453): the unit (channel-local offset ÷ 64), the mask of the bytes it holds and the
device time it was made. The bytes themselves stand in `mem`, since every write is visible at acceptance; `held` are those that stood there before,
which the unit keeps if the write is dropped (R455). -/
structure WcbEntry where
  unit : Nat
  mask : Nat
  at_ : Nat
  held : List Host.Cell
deriving DecidableEq, Repr

/-- A remap entry (12 R466, R485). -/
structure RemapEntry where
  uses : Nat
  spare : Nat
  raw : Nat
  row : Nat
  active : Bool
deriving DecidableEq, Repr

/-- A running test of a channel (12 R475, R482): its mode and pattern, and whether it is a clear of a lost channel or
the recovery of a grey one. -/
structure ChanTest where
  mode : Nat
  pattern : Nat
  clear : Bool
  recovery : Bool
deriving DecidableEq, Repr

/-- One HBM channel's controller (12). `bad` lists the units that read detected-uncorrectable, `corrTick` the
corrections of this tick (R465), `rowCorr` those of each row in this scrub pass (R466), `failures` the failures of each
row, `fenced` the fenced row groups and `excluded` those recorded out of the pools, `late` a stack reading's action due
at T+0 (R470). -/
structure Chan where
  wcb : List WcbEntry
  remap : List RemapEntry
  sparesUsed : Nat
  rowCorr : List (Nat × Nat)
  bad : List Nat
  fenced : List Nat
  excluded : List Nat
  timeouts : Nat
  corrTick : Nat
  scrubPos : Nat
  temp : Nat
  cap : Nat
  nextCap : Nat
  nextGrey : Bool
  lost : Bool
  refresh2x : Bool
  refreshKept : Bool
  lanes : Nat
  clearHeld : Bool
  lostSeq : Nat
  thermal : Bool
  worn : Bool
  silent : Bool
  testRun : Option ChanTest
  result : Nat
  fails : Nat
  position : Nat
deriving DecidableEq, Repr

/-- A row staged in a table's FIFO (08 R314): whether it restores a marked row, and whether it holds an update. -/
structure StageEntry where
  row : Nat
  ver : Nat
  data : List Byte
  restore : Bool
  update : Bool
deriving DecidableEq, Repr

/-- A registry entry with this device's part of the table (08 R291-R306): `slot` is the current one of its two slots,
`base` the offset of each slot in every channel's local window, `fifo` the staging FIFO, `wantTick` the SWITCH_TICK asked
for, `retiring` a next slot marked for retirement, `fill` a fill in progress (mode, request) and `writing` a TBL_WRITE in
progress. -/
structure Table where
  state : Nat
  next : Nat
  retiring : Bool
  taskStage : Bool
  frozen : Bool
  carry : Bool
  mirror : Bool
  train : Bool
  replicated : Bool
  cls : Nat
  code : Nat
  width : Nat
  stride : Nat
  rows : Nat
  curVer : Nat
  nextVer : Nat
  stageRows : Nat
  slotBytes : Nat
  switchTick : Nat
  wantTick : Nat
  slot : Nat
  base0 : Nat
  base1 : Nat
  fifo : List StageEntry
  fill : Option Nat
deriving DecidableEq, Repr

/-- A table class of the configuration image (08 R293). -/
structure TableClass where
  maxWidth : Nat
  maxRows : Nat
  flags : Nat
  stageRows : Nat
deriving DecidableEq, Repr

/-- The embedding registry (08): tables, classes, marked rows as (table, row, LOST), the table actions control firmware
is to plan, whether EMB_STAGE_FULL has risen in this tick, the local-window space reserved as (table, offset, bytes), and the tables and layers
that are GREY here, as (table or 4096 + layer, tick of entering, device time RECOVERED was set at or 0) (R327; 02 R64; 15 R569, R571). -/
structure EmbUnit where
  tables : List (Nat × Table)
  classes : List (Nat × TableClass)
  marks : List (Nat × Nat × Bool)
  planned : List (List Byte)
  stageFullTick : Bool
  ranges : List (Nat × Nat × Nat)
  greys : List (Nat × Nat × Nat)
deriving DecidableEq, Repr

/-- A directory entry (09 R342, R343); `copies` are the twelve addresses of a replica record (R362), `norepl` belongs to
a PIN. -/
structure DirEntry where
  table : Nat
  row : Nat
  kind : Nat
  addr : Nat
  dev : Nat
  ttl : Nat
  copies : List Nat
  norepl : Bool
deriving DecidableEq, Repr

/-- A channel's counts of one tick (09 R347, R350); OCC is held as waiting NoC cycles. -/
structure ChanCount where
  reads : Nat
  writes : Nat
  sectors : Nat
  occ : Nat
  sat : Bool
deriving DecidableEq, Repr

/-- A table's counts of one tick (09 R350). -/
structure TableCount where
  reads : Nat
  writes : Nat
  remoteOut : Nat
  sat : Bool
deriving DecidableEq, Repr

/-- A load snapshot (09 R349, R350): the counts, candidate lists as (table, row, estimate), and channel flags. -/
structure Snapshot where
  tick : Nat
  cap : Nat
  chans : List (Nat × ChanCount)
  cands : List (Nat × List (Nat × Nat × Nat))
  tables : List (Nat × TableCount)
  flags : List (Nat × Nat)
deriving DecidableEq, Repr

/-- A row or fragment copied in this window by the MIGRATE item of index `item` (09 R355, R361). -/
structure Copied where
  item : Nat
  target : Nat
  table : Nat
  row : Nat
  root : Nat
  addr : Nat
  dev : Nat
  copies : List Nat
  home : Bool
  old : Nat
  size : Nat
  reason : Nat
  acked : Bool
  msgSeq : Nat
deriving DecidableEq, Repr

/-- Space this device gave to an accepted offer (13 R514): source, tick, table, first row, count, base and item; the rows received (`fresh`: some
in this window) and those switched; whether a grey destination or the budget has stopped it, and the window it closed in while its broadcast is
still to come (09 R355, R358; 01 R40). -/
structure Accepted where
  src : Nat
  tick : Nat
  table : Nat
  row : Nat
  count : Nat
  base : Nat
  stride : Nat
  item : List Byte
  got : List Nat
  taken : List Nat
  fresh : Bool
  refused : Bool
  cut : Bool
  closed : Option Nat
deriving DecidableEq, Repr

/-- A relocation broadcast sent or received (09 R359; 13 R515): SEQ, tick, parts in all, the parts held and their
entries as (table, row, addr, dev). -/
structure Bcast where
  src : Nat
  seq : Nat
  tick : Nat
  parts : Nat
  got : List Nat
  entries : List (Nat × Nat × Nat × Nat)
  rxTick : Nat
deriving DecidableEq, Repr

/-- The placement engine (09): directory, counts and sketches of the tick, the two snapshots, pool space in use as
(address, bytes), the reads it has served from replicas for other devices, hub roots (registered, with their protected pages; to
register; to drop), the home addresses of moved fragments by 2^32 × root + fragment, the flow-affinity map, the pin operations accepted and the
ranges pinned as (table, first, count, NOREPL), the slots the copies of the directory in HBM fill, the
copies of this window, accepted offers, broadcasts sent and received with each source's last SEQ, and the bytes of the
migration budget spent in this window. -/
structure PlcUnit where
  dir : List DirEntry
  chanCounts : List (Nat × ChanCount)
  tableCounts : List (Nat × TableCount)
  sketch : List (Nat × Nat)
  cands : List (Nat × List (Nat × Nat × Nat))
  snapA : Snapshot
  snapB : Snapshot
  pool : List (Nat × Nat)
  remoteN : Nat
  hubs : List (Nat × List Nat)
  hubAdd : List Nat
  hubDrop : List Nat
  fragHome : List (Nat × Nat)
  affinity : List (Nat × Nat)
  pinReqs : List (Nat × Nat × Nat × Nat × Nat × Bool)
  pins : List (Nat × Nat × Nat × Bool)
  dirLen : Nat
  copied : List Copied
  claimed : List (Nat × Nat)
  accepted : List Accepted
  bcastSeq : Nat
  sent : List Bcast
  rx : List Bcast
  lastSeq : List (Nat × Nat)
  gaps : List (Nat × Nat)
  budget : Nat
deriving DecidableEq, Repr

/-- A cell (13 R487) without its CRC, with the virtual channel it travels in (R503) and the port it came by, if it is in
transit. -/
structure Cell where
  kind : Nat
  first : Bool
  last : Bool
  hops : Nat
  alt : Bool
  replay : Bool
  cls : Nat
  src : Nat
  dst : Nat
  tag : Nat
  seq : Nat
  payload : List Byte
  vc : Nat
  via : Option Nat
deriving DecidableEq, Repr

/-- A cell sent and kept until acknowledged: its SEQ, the slot frames it has been kept for, and how often it was replayed
(13 R488). -/
structure SentCell where
  cell : Cell
  frame : Nat
  replays : Nat
  wantReplay : Bool
  acked : Bool
deriving DecidableEq, Repr

/-- Demand counted for a destination in the tick (13 R500). -/
structure Demand where
  granted : Nat
  spill : Nat
  backlog : Nat
  sat : Bool
deriving DecidableEq, Repr

/-- One hawser port (13): sequence numbers, cells received ahead of order, queued and unacknowledged cells, credits held
and credits to return by pool 3v + h, the run of missing frames and of valid markers, the frame whose marker has come,
whether granted and spill cells may go (R519), the demand counts and their two snapshots, the cells of the frame now
running, and a mismatch of TSQ_CFG seen from a sender (R54). -/
structure Port where
  txSeq : Nat
  rxNext : Nat
  held : List Cell
  queue : List Cell
  unacked : List SentCell
  credits : List (Nat × Nat)
  toReturn : List (Nat × Nat)
  missRun : Nat
  goodRun : Nat
  seen : List (Nat × Nat)
  windows : List (Nat × Nat)
  mismatch : Bool
  dataOk : Bool
  demand : List (Nat × Demand)
  snapA : List (Nat × Demand)
  snapB : List (Nat × Demand)
  frame : List (Nat × Cell)
  trainAt : Nat
deriving DecidableEq, Repr

/-- A message being put together at its destination, and one that is complete (13 R489); `owed` are the withheld credits
of its cells as (port, pool). -/
structure Reasm where
  src : Nat
  tag : Nat
  kind : Nat
  alt : Bool
  bytes : List Byte
  owed : List (Nat × Nat)
deriving DecidableEq, Repr

/-- A remote request of this device that awaits its answer: TAG, owner, the deadline of R510, and whose it is: a
gather or lookup command (core, id, the item positions asked for) or a hitch instruction (hart, rd). -/
structure Remote where
  tag : Nat
  dev : Nat
  deadline : Nat
  core : Nat
  cmd : Nat
  hart : Option Nat
  rd : Reg
  items : List Nat
  parts : List (Nat × List Byte)
  lastPart : Option Nat
  mirror : Bool
deriving DecidableEq, Repr

/-- A remote LIST request whose walk awaits fragments that lie on other devices (04 R167): its number, the core whose gather engine walks, the
request's bytes and the answers got so far. -/
structure Serve where
  id : Nat
  core : Nat
  body : List Byte
  got : List (Nat × List Byte)
deriving DecidableEq, Repr

/-- The exchange engine (13): ports, the next TAG, reassembly, messages delivered to the message layer and not yet acted
on, the (SRC, TAG, frame) delivered of late, the grant and routing tables in force, outstanding remote requests, the
running frame, the senders whose TSQ_CFG differs (R54) in this tick, the requests that wait for T+0, the virtual channel of each message in transit,
the messages in transit that are discarded until their last cell (R506), and the remote requests being walked. -/
structure HwsUnit where
  ports : List (Nat × Port)
  tagNext : Nat
  reasm : List Reasm
  inbox : List Reasm
  delivered : List (Nat × Nat × Nat)
  frameCount : Nat
  frameNo : Nat
  frameActive : Bool
  grants : List (Nat × Nat)
  routes : List (Nat × Nat)
  remotes : List Remote
  mismatched : List Nat
  deferredReqs : List Reasm
  vcs : List (Nat × Nat)
  dropped : List Nat
  serves : List Serve
deriving DecidableEq, Repr

/-- The engines' command kinds (03 R106, R109). -/
inductive CmdKind where
  | gather | lookup | chain | mat | send
deriving DecidableEq, Repr

/-- A command in a core's queue (03 R106-R110, R756). A started one carries what it is to write (byte writes in order),
its status, its flags, the counts its completion adds, the fragment tasks it has still to submit, the
answers of other devices it has got, by place, whether its accumulators are draining (06 R243), and for a chain the bytes of
its inputs as it started (05 R211). -/
structure Cmd where
  id : Nat
  kind : CmdKind
  desc : List Byte
  dep : Nat
  task : Nat
  hart : Nat
  running : Bool
  startAt : Nat
  writes : List Host.Cell
  status : Nat
  flags : Nat
  counts : List (Nat × Nat)
  frags : List (List Byte)
  got : List (Nat × List Byte)
  draining : Bool
  old : List Host.Cell
deriving DecidableEq, Repr

/-- Run-ahead data held by a gather engine: the command they are for, when they came, and for each datum its address and the pages it
was read from with their generations (04 R168-R171). -/
structure RunAhead where
  task : Nat
  cmd : Nat
  at_ : Nat
  data : List (Nat × List (Nat × Nat))
deriving DecidableEq, Repr

/-- A core's matrix engine (06 R238-R252): the accumulator sets as maps from place 64 r + c to FP32 patterns, the
state of the open chain and its owner, the draining command with its descriptor, and the partial slots. -/
structure MatSt where
  active : List (Nat × Nat)
  shadow : List (Nat × Nat)
  open_ : Bool
  owner : Nat
  draining : Option Nat
  terms : Nat
  passes : Nat
  splits : Nat
  partOff : Nat
  partSlots : Nat
  openM : Nat
  openN : Nat
  drainDesc : List Byte
  drainOff : Nat
  drainSlots : Nat
  drainSplits : Nat
  drainM : Nat
  drainN : Nat
  drainFlags : Nat
  spoilt : Bool
deriving DecidableEq, Repr

/-- A physical core (03; 04; 05; 06): its command queue, completed places, engines, the strand issued last, heartbeat
state (15 R577), COR_ISSUE_CNT as the tick began, the most requests in flight of the tick before (R135), and the single-bit scratchpad errors corrected
(15 R576). -/
structure CoreSt where
  nextId : Nat
  cmds : List Cmd
  places : List (Nat × Nat × Nat)
  lastStrand : Nat
  mat : MatSt
  ahead : List RunAhead
  hbMissed : Nat
  hbIssue : Nat
  hbSent : Bool
  hbFirst : Bool
  replN : Nat
  issued0 : Nat
  peak : Nat
  corrections : Nat
deriving DecidableEq, Repr

/-- A rule block (14 R549) as its bytes in force. -/
abbrev RuleBlock := List Byte

/-- A block of a layer under the layer rule (14 R551-R553): its two factors, its two roots once it has them, and the diagonal
roots it keeps until then, as matrices of FP32 patterns, row by row. -/
structure BlockSt where
  left : List Nat
  right : List Nat
  roots : Option (List Nat × List Nat)
  diag : Option (List Nat × List Nat)
deriving DecidableEq, Repr

/-- A layer of the layer registry (14 R537-R562). `base` is the address of slice buffer 0, buffer 1 and the gradient halves
following it, `got` the (OFFSET, COUNT) of the SLICE messages taken into the next buffer and `total` its END. At the owner:
the master and the states of the elementwise rule as FP32 patterns, the blocks of the layer rule, the copy a root refresh
works on, the new roots that await the next step (none for a failed factor pair), and the version whose scatter is held. `nextStep` is the oldest
step not closed and `early` the later ones that closed before it. -/
structure Layer where
  state : Nat
  next : Nat
  frozen : Bool
  fallback : Bool
  slicing : Nat
  fmt : Nat
  gfmt : Nat
  rows : Nat
  cols : Nat
  stepTicks : Nat
  pushHitch : Nat
  owner : Nat
  curVer : Nat
  nextVer : Nat
  resetVer : Nat
  startTick : Nat
  steps : Nat
  rule : RuleBlock
  nextRule : Option RuleBlock
  bufSel : Bool
  base : Nat
  got : List (Nat × Nat)
  total : Option Nat
  pushed : Nat
  nextStep : Nat
  early : List Nat
  frozenOnce : Bool
  master : List Nat
  st1 : List Nat
  st2 : List Nat
  blocks : List BlockSt
  refresh : Option (List BlockSt)
  fresh : List (Option (List Nat × List Nat))
  heldScatter : Option Nat
deriving DecidableEq, Repr

/-- A layer step open at its owner (14 R544): the step, its accumulator and the devices whose DONE has come. -/
structure StepAcc where
  layer : Nat
  step : Nat
  acc : List (Nat × Nat)
  done : List Nat
deriving DecidableEq, Repr

/-- The contributions of one tick to one row at its home, with their number (14 R547, R548). -/
structure RowAcc where
  table : Nat
  tick : Nat
  row : Nat
  ver : Nat
  count : Nat
  acc : List (Nat × Nat)
deriving DecidableEq, Repr

/-- A row's master record in the slow tier (14 R559, 08 R320): version, step count, values and state as FP32 patterns. -/
structure RowMaster where
  ver : Nat
  steps : Nat
  values : List Nat
  st1 : List Nat
  st2 : List Nat
deriving DecidableEq, Repr

/-- A row waiting at the Rugon die to be staged (08 R316). -/
structure HeldRow where
  table : Nat
  row : Nat
  ver : Nat
  data : List Byte
deriving DecidableEq, Repr

/-- A trainable table's update state (14 R545-R549): the rule in force and one that waits for the switch stage, the address of
ring half 0 (half 1 follows it), the ticks below which the ring is drained. -/
structure TblRule where
  rule : RuleBlock
  nextRule : Option RuleBlock
  ring : Nat
  drained : Nat
  frozenOnce : Bool
deriving DecidableEq, Repr

/-- The Rugon die (14). `masters` are keyed by table × 2^40 + row; `rowDone` holds (table, tick, device) and
`rowClosed` each table's first tick not closed; `ranges` is the memory the device has reserved here, as (key, address, bytes)
with key t for table t's slow-tier space, 8192 + l and 16384 + l for layer l's slow-tier space and its buffers, 24576 + l for the space that a later
rule block added to layer l's, and 65536 + t for table t's rings. `slowBad` lists the 64-byte units of the slow tier, as addresses over 64, that read
detected-uncorrectable: which they are is the packages' own, and no row of the table changes it (log 39). -/
structure UpdUnit where
  layers : List (Nat × Layer)
  tblRules : List (Nat × TblRule)
  stepAccs : List StepAcc
  rowAccs : List RowAcc
  rowDone : List (Nat × Nat × Nat)
  rowClosed : List (Nat × Nat)
  masters : List (Nat × RowMaster)
  heldRows : List HeldRow
  ranges : List (Nat × Nat × Nat)
  slowBad : List Nat
deriving DecidableEq, Repr

/-- A directory copy, as its bytes in the flash (16 R620); one that the device has not written holds no valid copy. -/
abbrev DirCopy := List Byte

/-- The boot chain and the platform's resets (16): inputs; the flash's directory copies, core map record and objects by
4 × slot + area (0 keeper, 1 control, 2 service, 3 configuration); the slots tried, as 8 × slot + the reason they failed for; the
configuration image's topology, the SETTLED event's first time, each source's RDY_CMD result (0 host, 1 management,
2 keeper, 3 + k control core k), and the core map. The stage stands in BOOT_STATUS. -/
structure BootUnit where
  pwrgood : Bool
  perst : Bool
  configLoaded : Bool
  dir0 : DirCopy
  dir1 : DirCopy
  flash : List (Nat × List Byte)
  tried : List Nat
  coreRecord : List Byte
  coreRecordDirty : Bool
  dev : Nat
  devs : Nat
  settledOnce : Bool
  rdyRes : List (Nat × Nat)
  coreMap : List (Nat × Nat)
  gpio : Nat
deriving DecidableEq, Repr

/-- A staged or stored firmware object (17 R658-R662): its build, its measurement as 64 bytes, its SVN and bytes. -/
structure FwImage where
  build : Nat
  meas : List Byte
  svn : Nat
  bytes : List Byte
deriving DecidableEq, Repr

/-- The IDE stream (17 R668): the key and initial vector of each key set and sub-stream by 8 × set + 2 × sub-stream + direction
(sub-streams 0 PR, 1 NPR, 2 CPL; directions 0 received, 1 sent), of each key set the sub-streams that run under it as a mask
of bits 2 × sub-stream + direction, and Insecure. -/
structure IdeState where
  keys : List (Nat × List Byte)
  run0 : Nat
  run1 : Nat
  insecure : Bool
deriving DecidableEq, Repr

/-- The keeper (17): the fuses, the measurement registers MR0-MR4 and the measurements in force (keeper, configuration,
control, service), the images in force, previous and staged, whether a staged one is checked, named by a sealed plan,
the nonce, the debug unlock, the SPDM connection (1 after GET_VERSION, 2 after GET_CAPABILITIES, 3 after NEGOTIATE_ALGORITHMS,
with its transcripts), whether the identity certificate carries the identity key, the IDE stream, the seed of the alias key, a management-plane
restart in progress with its cause (15 R599), and a restart of the service cores (1 due at the next T+0, 2 under way). -/
structure KeepUnit where
  udsErased : Bool
  rootHash : List (Nat × List Byte)
  revoked : Nat
  svnFloor : List (Nat × Nat)
  lifecycle : Nat
  mrs : List (Nat × List Byte)
  inForce : List (Nat × List Byte)
  images : List (Nat × FwImage)
  previous : Option FwImage
  staged : List (Nat × FwImage)
  named : List Nat
  nonce : Option (Nat × Nat)
  unlockScope : Nat
  unlockUntil : Nat
  spdmStage : Nat
  spdmSize : Nat
  spdmVca : List Byte
  spdmCert : List Byte
  spdmMeas : List Byte
  certOk : Bool
  ide : IdeState
  restarting : Bool
  restartCause : Nat
  serviceRestart : Nat
  lastResponse : List Byte
  aliasSeed : List Byte
  aliasCert : List Byte
deriving DecidableEq, Repr

/-- A pipeline (18 R692): its registration may still await the switch stage, and so may its removal. -/
structure Pipeline where
  code : Nat
  pages : Nat
  template : Nat
  resultBytes : Nat
  deadline : Nat
  rootFinal : Bool
  active : Bool
  unregistering : Bool
  regReq : Nat
  unregReq : Nat
deriving DecidableEq, Repr

/-- A queue pair (18 R685-R689). STATE: 0 DISABLED, 1 ENABLED, 2 SUSPENDED, 3 DRAINING;
`last` is the CID and request id last fetched at each ring index. -/
structure QueuePair where
  state : Nat
  head : Nat
  tail : Nat
  outstanding : Nat
  cqTail : Nat
  cqHead : Nat
  phase : Bool
  unsignalled : Nat
  firstAt : Nat
  last : List (Nat × Nat × Nat)
deriving DecidableEq, Repr

/-- The stages of a host request (18 R688-R698): waiting for units, waiting its turn behind a FENCE, running, its result
DMA, its outcome at the host interface's arbiter, committed. -/
inductive ReqStage where
  | waitUnits | waitFence | running | dma | arbiter | due
deriving DecidableEq, Repr

/-- A host request (18 R690-R702): entry, queue and ring index, when fetched, its slots, its outcome, an abort that
has reached the arbiter first, and whether its root task has found its list full (10 R396). -/
structure Request where
  queue : Nat
  index : Nat
  entry : List Byte
  stage : ReqStage
  fetchAt : Nat
  fetchTick : Nat
  commitTick : Nat
  pipe : Nat
  recSlot : Option Nat
  resSlot : Option Nat
  status : Nat
  cause : Nat
  taskStatus : Nat
  taskCause : Nat
  result : Nat
  length : Nat
  rows : List (Nat × List Byte)
  aborted : Bool
  silent : Bool
  final : Option (List Byte)
  rootWaits : Bool
deriving DecidableEq, Repr

/-- The host interface (18): queue pairs, requests by id, pipelines, MSI-X vectors signalled, power state and Bus Master
Enable, BAR2 size as a power of two, result-pool space in use as (offset, bytes), the completion entries written to host
memory, and the last answer to a host read with its status (0 data, 1 Completer Abort, 2 Unsupported Request). -/
structure PciUnit where
  queues : List (Nat × QueuePair)
  requests : List (Nat × Request)
  pipes : List (Nat × Pipeline)
  signals : List Nat
  d3hot : Bool
  bme : Bool
  bar2Log2 : Nat
  linkUp : Bool
  pool : List (Nat × Nat)
  recSlots : List Nat
  readData : List Byte
  readStatus : Nat
  linkMode : Nat
deriving DecidableEq, Repr

/-- A PLDM component transfer (19 R728): component, size in bytes, bytes taken so far. -/
structure Transfer where
  comp : Nat
  size : Nat
  bytes : List Byte
deriving DecidableEq, Repr

/-- The management interface (19): the I3C target and MCTP endpoint, the direct-access offset, the rings' records by
slot, the sensors as sampled, the update session, verified slots, the last answer given, and the counts of the
tick for its device block, with the counters' values at the last one (R725). -/
structure MgmtUnit where
  i3cMode : Bool
  dynAddr : Nat
  eid : Nat
  ibis : Nat
  offset : Nat
  coreRing : List (Nat × List Byte)
  devRing : List (Nat × List Byte)
  sensors : List (Nat × Nat)
  session : Bool
  transfer : Option Transfer
  verified : List Nat
  answer : List Byte
  completion : Nat
  tickDeferred : Nat
  tickMig : List (Nat × Nat)
  tickMigBytes : Nat
  tickReplAdd : Nat
  tickReplDrop : Nat
  tickCommits : Nat
  tickCuts : Nat
  tickDiscards : Nat
  tickBase : List (Nat × Nat)
  tickRecords : Nat
deriving DecidableEq, Repr

/-- The pins and the platform's sensors (20): SERCLK, THERMTRIP_N, GPIO4, the junction temperatures of the six dies as far as they
have been reported, and the dies held GREY by theirs. -/
structure ElecUnit where
  serclk : Bool
  serclkAt : Nat
  thermtrip : Bool
  gpio4 : Bool
  dieTemp : List (Nat × Nat)
  overtemp : List Nat
deriving DecidableEq, Repr

/-- A refusal of a command. -/
inductive Refusal where
  /-- The command has no meaning yet. Raised by no meaning; safe, since nothing is claimed of it. -/
  | notModelled (mnemonic : String)
deriving DecidableEq, Repr

/-- The block never stops with a fault: every condition the spec calls a fault is recorded in its own state (15 R594),
so this type has no constructor. -/
inductive Fault where
deriving DecidableEq, Repr

/-- The state of the device: what each field holds stands beside it. -/
structure State where
  /-- commands waiting, first in, first out -/
  pending : List Instr
  /-- how many free values have been drawn (the model's own field) -/
  freeCtr : Nat
  /-- device time in ns: TIM_NOW (02 R46, R85) -/
  now : Nat
  /-- the registers by BAR0 address; an unlisted one holds its reset value -/
  csr : List (Nat × Word)
  /-- device memory by device address (00 R13); an unlisted byte reads 0 -/
  mem : List Host.Cell
  /-- page write generations, 16 bits (04 R170) -/
  gens : List (Nat × Nat)
  /-- host memory the device has written or been given, by bus address -/
  hostMem : List Host.Cell
  /-- the readiness map (16 R633); an unlisted entry is ABSENT -/
  rdy : List (Nat × RdyEntry)
  /-- the fault aggregator -/
  flt : FltUnit
  /-- the tick sequencer -/
  tsq : TsqUnit
  /-- the time unit -/
  tim : TimUnit
  /-- strands at 64 × physical core + strand, then control core k at 17,408 + k -/
  harts : List (Nat × HartSt)
  /-- the control cores beside their threads -/
  ctrls : List (Nat × CtrlSt)
  /-- the physical cores by index 68 d + cc -/
  cores : List (Nat × CoreSt)
  /-- the scheduler -/
  sch : SchUnit
  /-- hitches and the knot tree -/
  hit : HitUnit
  /-- the HBM channels by index 16 n + m -/
  chans : List (Nat × Chan)
  /-- the embedding registry -/
  emb : EmbUnit
  /-- the placement engine -/
  plc : PlcUnit
  /-- the exchange engine -/
  hws : HwsUnit
  /-- the Rugon die -/
  upd : UpdUnit
  /-- the boot chain -/
  boot : BootUnit
  /-- the keeper -/
  keep : KeepUnit
  /-- the host interface -/
  pci : PciUnit
  /-- the management interface -/
  mgmt : MgmtUnit
  /-- pins and platform sensors -/
  elec : ElecUnit
deriving DecidableEq, Repr

/-- The device before power is good: every register at its reset value, every list empty (00 R10; 16 R615). -/
def State.reset : State :=
  { pending := [],
    freeCtr := 0,
    now := 0,
    csr := [],
    mem := [],
    gens := [],
    hostMem := [],
    rdy := [],
    flt := ⟨[], [], [], [], [], 0, [], []⟩,
    tsq := ⟨false, none, 0, 0, .prime, 0, .empty, false, [], [], none, 0, [], [], [], [], [], [], [], [], none, [], 0⟩,
    tim := ⟨.unset, 0, 0, 255, 0, 0, 0, 0, none, 0, false, [], false, none, 0, none, 0, 0, []⟩,
    harts := [],
    ctrls := [],
    cores := [],
    sch := ⟨[], 0, [], [], [], [], [], [], []⟩,
    hit := ⟨[], [], [], [], [], []⟩,
    chans := [],
    emb := ⟨[], [], [], [], false, [], []⟩,
    plc := ⟨[], [], [], [], [], ⟨0, 0, [], [], [], []⟩, ⟨0, 0, [], [], [], []⟩, [], 0, [], [], [], [], [], [], [], 0, [], [], [], 0, [], [], [], [], 0⟩,
    hws := ⟨[], 0, [], [], [], 0, 0, false, [], [], [], [], [], [], [], []⟩,
    upd := ⟨[], [], [], [], [], [], [], [], [], []⟩,
    boot := ⟨false, false, false, [], [], [], [], [], false, 0, 1, false, [], [], 0⟩,
    keep := ⟨false, [], 0, [], 0, [], [], [], none, [], [], none, 0, 0, 0, 0, [], [], [], false, ⟨[], 0, 0, false⟩, false, 0, 0, [], [], []⟩,
    pci := ⟨[], [], [], [], false, false, 39, false, [], [], [], 0, 0⟩,
    mgmt := ⟨false, 0, 0, 0, 0, [], [], [], false, none, [], [], 0, 0, [], 0, 0, 0, 0, 0, 0, [], 0⟩,
    elec := ⟨true, 0, false, false, [], []⟩ }

end Sys2Proof.Machine
end

