-- ==== Sys2Proof/Machine/Ops.lean ====
section
/-! DEFINITION. The shared operations on registers, time, readiness, unit codes, fault reports and memory (00; 12; 15;
16). -/

namespace Sys2Proof.Machine

/-- The outcome of a command that has an effect: its next state. -/
abbrev Out := Host.Outcome State Fault Refusal

/-! ### Registers (00 R5-R12, R21, R22) -/

/-- The value of the register at a BAR0 address. -/
def rget (s : State) (a : Nat) : Nat := (mget csrDefault s.csr a).toNat

/-- Set the register at a BAR0 address. -/
def rset (s : State) (a v : Nat) : State := { s with csr := mset csrDefault s.csr a (BitVec.ofNat 64 v) }

/-- Field [hi:lo] of a register. -/
def fget (s : State) (a hi lo : Nat) : Nat := bits (rget s a) hi lo

/-- Set field [hi:lo] of a register. -/
def fset (s : State) (a hi lo v : Nat) : State := rset s a (setBits (rget s a) hi lo v)

/-- Set bit `b` of an event register. -/
def event (s : State) (a b : Nat) : State := rset s a (orBit (rget s a) b)

/-- Whether a register is 64 bits wide. -/
def regWide (a : Nat) : Bool :=
  match findReg regWindows a with
  | some (r, _, _) => r.wide
  | none => false

/-- The COR window a register lies in (03 R132). -/
def corWindow (a : Nat) : Option Nat :=
  if 0x2000000 ≤ a ∧ a < 0x2000000 + 0x10000 * 272 then some ((a - 0x2000000) / 0x10000) else none

/-- Add `n` to a statistics counter: it saturates, and the increment that reaches the largest value sets SAT and raises one
event, which for a core's window is COR_EVENTS.SAT (00 R21; 03 R141). -/
def bump (s : State) (a n : Nat) : State :=
  let top := if regWide a then 63 else 31
  let v := rget s a
  if n = 0 ∨ bit v top then s
  else if v + n < 2 ^ top - 1 then rset s a (v + n)
  else
    let s := rset s a (2 ^ top + (2 ^ top - 1))
    match corWindow a with
    | some i => event s (regCorEvents i) 2
    | none => s

/-- Add 1 to a statistics counter. -/
def bump1 (s : State) (a : Nat) : State := bump s a 1

/-- The registers at BAR0 addresses from `lo` up to `hi` go back to their reset values, but for those `keep` names: the reset of a unit that restarts
alone (00 R10). -/
def resetRegs (s : State) (lo hi : Nat) (keep : Nat → Bool) : State :=
  { s with csr := s.csr.filter fun e => !(decide (lo ≤ e.1) && decide (e.1 < hi)) || keep e.1 }

/-! ### Free values -/

/-- The number of the next free value, and the state that has drawn it. -/
def draw (s : State) : Nat × State := (s.freeCtr, { s with freeCtr := s.freeCtr + 1 })

/-- `k` free values at once: the number of the first, and the state that has drawn them. -/
def drawN (s : State) (k : Nat) : Nat × State := (s.freeCtr, { s with freeCtr := s.freeCtr + k })

/-! ### Time (02 R47, R49, R50) -/

/-- PERIOD_US in ns. -/
def period (s : State) : Nat := fget s regTsqCfg 13 0 * 1000
/-- APPLY_US in ns. -/
def applyLen (s : State) : Nat := fget s regTsqCfg 25 14 * 1000
/-- SETTLE_US in ns. -/
def settleLen (s : State) : Nat := fget s regTsqCfg 37 26 * 1000
/-- PHASE_NS. -/
def phaseNs (s : State) : Nat := fget s regTsqCfg 61 38
/-- t(n), the start of tick n (02 R47). -/
def tickAt (s : State) (n : Nat) : Nat := phaseNs s + n * period s
/-- The apply point of the running tick (02 R49). -/
def applyAt (s : State) : Nat := s.tsq.tickStart + period s - applyLen s
/-- The settle point of the running tick (02 R49). -/
def settleAt (s : State) : Nat := s.tsq.tickStart + period s - applyLen s - settleLen s
/-- The bulk cut-off of the running tick (02 R59). -/
def cutAt (s : State) : Nat := s.tsq.tickStart + period s - 4000

/-- Whether tasks may start now: ticks run and the settle point has not come (02 R51). -/
def mayStart (s : State) : Bool := s.tsq.running && (s.tsq.phase == .prime || s.tsq.phase == .run)

/-- Whether the tick is in its apply window. -/
def inApply (s : State) : Bool := s.tsq.running && s.tsq.phase == .apply

/-! ### Readiness (16 R633-R635; 15 R569) -/

/-- An entry of a unit that has reported nothing. -/
def rdyAbsent : RdyEntry := ⟨.absent, false, false, 0, 0, 0, false, false, false⟩

/-- The readiness entry at a map index. -/
def rdyGet (s : State) (i : Nat) : RdyEntry := mget (fun _ => rdyAbsent) s.rdy i

/-- Put a readiness entry. -/
def rdyPut (s : State) (i : Nat) (e : RdyEntry) : State := { s with rdy := mset (fun _ => rdyAbsent) s.rdy i e }

/-- The readiness state at a map index. -/
def rdyState (s : State) (i : Nat) : UnitState := (rdyGet s i).state

/-- The code of a unit state (03 R133). -/
def UnitState.code : UnitState → Nat
  | .absent => 0
  | .training => 1
  | .testing => 2
  | .ready => 3
  | .fenced => 4
  | .grey => 5

/-- Map indices (16 R633). -/
def idxDie (d : Nat) : Nat := 1 + d
/-- Control core k. -/
def idxCtrl (k : Nat) : Nat := 0x10 + k
/-- Channel c. -/
def idxChan (c : Nat) : Nat := 0x100 + c
/-- Hawser port p. -/
def idxPort (p : Nat) : Nat := 0x1C0 + p
/-- Physical core p. -/
def idxCore (p : Nat) : Nat := 0x200 + p

/-- Whether a map index names a unit (16 R633). -/
def idxValid (i : Nat) : Bool :=
  decide (i ≤ 6) || (decide (0x10 ≤ i) && decide (i ≤ 0x23)) || (decide (0x30 ≤ i) && decide (i ≤ 0x3B)) ||
  (decide (0x40 ≤ i) && decide (i ≤ 0x42)) || i == 0x48 || i == 0x49 ||
  (decide (0x100 ≤ i) && decide (i ≤ 0x1CF)) || (decide (0x200 ≤ i) && decide (i ≤ 0x30F))

/-- The quadrant of a physical core. -/
def coreDie (p : Nat) : Nat := p / 68
/-- The quadrant of a channel: stack n belongs to Q(n div 3) (00 R19, R20). -/
def chanDie (c : Nat) : Nat := c / 48

/-- The units a unit lies inside, by map index: a core, a channel, a scheduler unit or a control core of a compute die
lies in its die, a port and the I/O die's units in the I/O die, the slow tier in the Rugon die, and all of them in the
device (15 R569; 01 R28, R31, R32). DESIGN CHOICE: the keeper and the service cores, 0x40-0x42, are left out although they stand on the I/O die:
a record that names one of them clears no RECOVERED flag of the I/O die or the device, and they stay usable in a GREY I/O die (R41 needs the
keeper to confirm the exit). -/
def enclosing (i : Nat) : List Nat :=
  if i = 0 then []
  else if i ≤ 6 then [0]
  else if 0x10 ≤ i ∧ i < 0x20 then [idxDie ((i - 0x10) / 4), 0]
  else if 0x20 ≤ i ∧ i ≤ 0x23 then [idxDie 4, 0]
  else if 0x32 ≤ i ∧ i ≤ 0x35 then [idxDie (i - 0x32), 0]
  else if i = 0x3B then [idxDie 5, 0]
  else if 0x30 ≤ i ∧ i ≤ 0x3A then [idxDie 4, 0]
  else if 0x100 ≤ i ∧ i ≤ 0x1BF then [idxDie (chanDie (i - 0x100)), 0]
  else if 0x1C0 ≤ i ∧ i ≤ 0x1CF then [idxDie 4, 0]
  else if 0x200 ≤ i ∧ i ≤ 0x30F then [idxDie (coreDie (i - 0x200)), 0]
  else []

/-- What a command from outside does: nothing while PWRGOOD is low, when every unit is held in reset (16 R615). -/
def powered (s : State) (o : Out) : Out := if s.boot.pwrgood then o else .next s

/-- Whether a unit is GREY or lies inside a GREY unit (15 R569), or inside a die whose restart has failed, which the remaining dies carry (R589). -/
def greyAt (s : State) (i : Nat) : Bool :=
  rdyState s i == .grey || (enclosing i).any fun j => rdyState s j == .grey || rdyState s j == .fenced

/-- Whether the device itself is GREY. -/
def devGrey (s : State) : Bool := rdyState s 0 == .grey

/-- Whether a unit is settled (16 R636). -/
def settled (st : UnitState) : Bool := st == .ready || st == .fenced || st == .grey

/-- FAIL_N is low while PWRGOOD is low, while the boot chain is HALTED, or while the device or a die is GREY (15 R568; 16
R615, R628). -/
def failN (s : State) : Bool :=
  !(!s.boot.pwrgood || fget s regBootStatus 15 12 == 15 || (List.range 7).any fun i => rdyState s i == .grey)

/-- ALERT_N is low while an enabled bit of FLT_PENDING is set (15 R568). -/
def alertN (s : State) : Bool := Nat.land (rget s regFltPending) (rget s regFltAlertMask) == 0

/-! ### Unit codes and fault records (15 R595-R603) -/

/-- A unit code of this device (15 R597). -/
def unitCode (s : State) (ty idx : Nat) : Nat := ty * 2 ^ 60 + s.boot.dev % 1024 * 2 ^ 50 + idx % 2 ^ 32

/-- The unit code of another device. -/
def devCode (dev : Nat) : Nat := dev % 1024 * 2 ^ 50

/-- The unit code of a readiness entry (15 R597). -/
def rdyCode (s : State) (i : Nat) : Nat :=
  if i = 0 then unitCode s 0 0
  else if i ≤ 6 then unitCode s 1 (i - 1)
  else if 0x10 ≤ i ∧ i ≤ 0x23 then unitCode s 3 (i - 0x10)
  else if i = 0x30 then unitCode s 10 0
  else if i = 0x31 then unitCode s 10 1
  else if 0x40 ≤ i ∧ i ≤ 0x42 then unitCode s 11 (i - 0x40)
  else if 0x100 ≤ i ∧ i ≤ 0x1BF then unitCode s 4 (i - 0x100)
  else if 0x1C0 ≤ i ∧ i ≤ 0x1CF then unitCode s 6 (i - 0x1C0)
  else if 0x200 ≤ i ∧ i ≤ 0x30F then unitCode s 2 (i - 0x200)
  else unitCode s 13 i

/-- The readiness entry a unit code of this device names, where it names one. -/
def codeRdy (s : State) (c : Nat) : Option Nat :=
  let ty := bits c 63 60
  let i := bits c 31 0
  if bits c 59 50 ≠ s.boot.dev then none
  else if ty = 0 then some 0
  else if ty = 1 then some (1 + i)
  else if ty = 2 then some (0x200 + i)
  else if ty = 3 then some (0x10 + i)
  else if ty = 4 then some (0x100 + i)
  else if ty = 5 then some (0x100 + i / 2048)
  else if ty = 6 then some (0x1C0 + i)
  else if ty = 10 then some (0x30 + i)
  else if ty = 11 then some (0x40 + i)
  else if ty = 13 then some i
  else none

/-- The class of a fault kind (15 R599; 20 R747); none for an undefined kind. -/
def kindClass (k : Nat) : Option Nat :=
  if 0x0101 ≤ k ∧ k ≤ 0x010D then some 2
  else match k with
  | 0x10 => some 3 | 0x11 => some 3 | 0x12 => some 3 | 0x13 => some 3 | 0x14 => some 8 | 0x15 => some 3
  | 0x20 => some 4 | 0x21 => some 2
  | 0x30 => some 8 | 0x31 => some 8 | 0x32 => some 4 | 0x33 => some 8 | 0x34 => some 8 | 0x35 => some 4 | 0x36 => some 8
  | 0x40 => some 7 | 0x41 => some 7 | 0x42 => some 7 | 0x43 => some 7
  | 0x50 => some 1 | 0x51 => some 2 | 0x52 => some 2 | 0x53 => some 2 | 0x54 => some 1 | 0x55 => some 3 | 0x56 => some 4
  | 0x57 => some 4 | 0x58 => some 9
  | 0x60 => some 6 | 0x61 => some 6 | 0x62 => some 4 | 0x63 => some 2 | 0x64 => some 2 | 0x65 => some 2
  | 0x70 => some 4 | 0x71 => some 2 | 0x72 => some 10 | 0x73 => some 10 | 0x74 => some 10
  | 0x80 => some 11 | 0x90 => some 0 | 0x91 => some 4 | 0x92 => some 5 | 0xA0 => some 0 | 0xB0 => some 12
  | 0xC0 => some 4 | 0xC1 => some 9
  | _ => none

/-- An interrupt vector goes out to the host, unless the function is in D3hot or Bus Master Enable is 0 (18 R680, R683). -/
def signal (s : State) (v : Nat) : State :=
  if s.pci.d3hot || !s.pci.bme then s else { s with pci := { s.pci with signals := s.pci.signals ++ [v] } }

/-- Set a bit of RDY_EVENTS and signal its vector, 2,045 (16 R642; 18 R683). -/
def rdyEvent (s : State) (b : Nat) : State := signal (event s regRdyEvents b) 2045

/-- The first record of a class in a tick sets its bit in FLT_PENDING and raises one interrupt where FLT_IRQ_MASK
enables it (15 R602). -/
def classSeen (s : State) (c : Nat) : State :=
  if bit s.flt.seenClass c then s
  else
    let s := event { s with flt := { s.flt with seenClass := orBit s.flt.seenClass c } } regFltPending c
    if bit (rget s regFltIrqMask) c then signal s (2032 + c) else s

/-- Entries whose recovery is only the next apply point after the release: the I/O die, the control cores and the units of 0x30-0x3B (15 R570). -/
def recoversByItself (i : Nat) : Bool := i == 5 || (decide (0x10 ≤ i) && decide (i ≤ 0x3B))

/-- A fault that names a unit waiting for confirmation, or a unit inside it, clears its RECOVERED flag, and the recovery starts again (15 R572). -/
def unrecover (s : State) (i : Nat) : State :=
  (i :: enclosing i).foldl (fun s j =>
    let e := rdyGet s j
    if e.recovered && e.state == .grey then
      rdyPut s j { e with recovered := false, confirmed := false, recAt := 0, released := e.released || recoversByItself j }
    else s) s

/-- A table or layer goes GREY on this device (08 R327; 02 R64). -/
def viewGrey (s : State) (key : Nat) : State :=
  { s with emb := { s.emb with greys := (s.emb.greys.filter fun g => g.1 ≠ key) ++ [(key, s.tsq.tick, 0)] } }

/-- The switch that recovers a GREY table or layer sets RECOVERED, which stands for a whole tick before its exit (15 R569, R571, R572). -/
def viewRecovered (s : State) (key : Nat) : State :=
  { s with emb := { s.emb with greys := s.emb.greys.map fun g => if g.1 = key then (g.1, g.2.1, s.now) else g } }

/-- A fault that names a table or layer of this device clears its RECOVERED: it waits for its next switch (15 R572). -/
def unrecoverView (s : State) (subject : Nat) : State :=
  let key := if subject / 2 ^ 60 = 7 then some (subject % 2 ^ 32) else if subject / 2 ^ 60 = 8 then some (4096 + subject % 2 ^ 32) else none
  match key with
  | some k =>
    if subject / 2 ^ 50 % 1024 ≠ s.boot.dev % 1024 then s
    else { s with emb := { s.emb with greys := s.emb.greys.map fun g => if g.1 = k then (g.1, g.2.1, 0) else g } }
  | none => s

/-- Write a new record into the ring under the next SEQ (15 R595). -/
def addRecord (s : State) (r : FaultRec) : Nat × State :=
  let n := rget s regFltHead
  let s := rset s regFltHead (n + 1)
  let r := { r with seq := n }
  let s := { s with
    flt := { s.flt with ring := pput s.flt.ring (n % 4096) r }
    mgmt := { s.mgmt with tickRecords := s.mgmt.tickRecords + 1 } }
  let s := classSeen s r.cls
  if r.ackReq then
    if s.flt.pendAck.length < 64 then (n, { s with flt := { s.flt with pendAck := s.flt.pendAck ++ [n] } })
    else (n, { s with flt := { s.flt with overAck := s.flt.overAck ++ [n] } })
  else (n, s)

/-- Raise the witness count of the record with a SEQ, while the ring still holds it (15 R600). -/
def witness (s : State) (n : Nat) : State :=
  match pfind s.flt.ring (n % 4096) with
  | some r =>
    if r.seq = n then
      let r := if r.witness < 0xFFFF then { r with witness := r.witness + 1, sat := r.sat || r.witness + 1 == 0xFFFF }
        else r
      { s with flt := { s.flt with ring := pput s.flt.ring (n % 4096) r } }
    else s
  | none => s

/-- Join a report to the overflow record of its class (15 R599, R601). DEDUCED: FLT_OVERFLOW counts the reports beyond 1,024 open pairs (R601, which
R614 names), not those of an undefined kind (R599). -/
def joinOverflow (s : State) (c : Nat) (r : FaultRec) (counted : Bool) : Nat × State :=
  let s := if counted then bump1 s regFltOverflow else s
  match s.flt.ovfOpens.find? (fun e => e.1 == c) with
  | some (_, n) => (n, witness s n)
  | none =>
    let r := { r with kind := 0xFF, cls := c, subject := unitCode s 0 0, overflow := true, ackReq := false, action := 0,
                      detail := c, witness := 1 }
    let (n, s) := addRecord s r
    (n, { s with flt := { s.flt with ovfOpens := s.flt.ovfOpens ++ [(c, n)] } })

/-- File a report at the fault aggregator: it coalesces with the tick's open record of its pair, opens a record, or joins
its class's overflow record (15 R599-R603). The answer holds the SEQ of the record. Before the aggregator is READY the
keeper holds the report (16 R629); one that is GREY in service goes on writing (DEDUCED, log 41). -/
def file (s : State) (r : FaultRec) : Nat × State :=
  if rdyState s 0x39 ≠ .ready ∧ rdyState s 0x39 ≠ .grey then (0, { s with flt := { s.flt with held := s.flt.held ++ [{ r with tick := 0, offNs := 0 }] } })
  else
    let s := bump1 s regFltReports
    let s := match codeRdy s r.subject with
      | some i => unrecover s i
      | none => unrecoverView s r.subject
    match kindClass r.kind with
    | none => joinOverflow s (if r.cls ≤ 12 then r.cls else 0) r false
    | some c =>
      match s.flt.opens.find? (fun e => e.1 == r.subject && e.2.1 == r.kind) with
      | some (_, _, n) => (n, witness s n)
      | none =>
        if s.flt.opens.length ≥ 1024 then joinOverflow s c r true
        else
          let (n, s) := addRecord s { r with cls := c, witness := 1 }
          (n, { s with flt := { s.flt with opens := s.flt.opens ++ [(r.subject, r.kind, n)] } })

/-- Report a fault of a kind on a subject (15 R596): action, reporter, whether it asks for acknowledgement, DETAIL. -/
def reportFull (s : State) (kind cls action subject reporter : Nat) (ack : Bool) (detail : Nat) : Nat × State :=
  file s ⟨0, if s.tsq.running then s.tsq.tick else 0, if s.tsq.running then (s.now - s.tsq.tickStart) % 2 ^ 32 else 0,
    kind, cls, action, subject, reporter, 1, false, ack, false, false, detail % 2 ^ 160⟩

/-- Report a fault whose reporter is its subject. -/
def report (s : State) (kind action subject detail : Nat) : State :=
  (reportFull s kind 0 action subject subject false detail).2

/-- Whether a record's acknowledgement is still awaited (15 R603). -/
def ackPending (s : State) (n : Nat) : Bool := s.flt.pendAck.contains n || s.flt.overAck.contains n

/-! ### Changing a readiness state (16 R634; 15 R571) -/

/-- The entries whose settling the SETTLED event awaits: all but the staged images, and those the image leaves out. -/
def settleList : List Nat :=
  (List.range 7) ++ (List.range 20).map (0x10 + ·) ++ (List.range 12).map (0x30 + ·) ++ (List.range 3).map (0x40 + ·) ++
  (List.range 192).map (0x100 + ·) ++ (List.range 16).map (0x1C0 + ·) ++ (List.range 272).map (0x200 + ·)

/-- Whether every enabled entry has settled (16 R642). -/
def allSettled (s : State) : Bool :=
  settleList.all fun i =>
    settled (rdyState s i) ||
      (decide (0x1C0 ≤ i) && decide (i ≤ 0x1CF) && fget s (regHwsPortCfg (i - 0x1C0)) 0 0 == 0)

/-- Give a unit a state, with the reason of its last fall into GREY or FENCED and the tick of the change; the first time
every enabled entry is settled raises SETTLED, an entry into GREY raises GREY (16 R634, R642). -/
def setUnit (s : State) (i : Nat) (st : UnitState) (reason : Nat) : State :=
  let e := rdyGet s i
  if e.state = st then rdyPut s i { e with reason := if reason = 0 then e.reason else reason }
  else
    let keep := if st == .grey || st == .fenced then reason else 0
    let s := rdyPut s i { e with state := st, reason := keep, tick := (if s.tsq.running then s.tsq.tick else 0),
                                 recovered := false, confirmed := false, recAt := 0 }
    let s := if st == .grey then rdyEvent s 1 else s
    if !s.boot.settledOnce && settled st && decide (4 ≤ fget s regBootStatus 15 12) && allSettled s then
      rdyEvent { s with boot := { s.boot with settledOnce := true } } 0
    else s

/-- A unit's recovery completes: RECOVERED is set and held (15 R571; 01 R41). -/
def setRecovered (s : State) (i : Nat) : State :=
  let e := rdyGet s i
  if e.state == .grey && !e.recovered && !e.forced then
    rdyPut s i { e with recovered := true, recAt := s.now, released := false, ownFault := false }
  else s

/-! ### Memory (00 R13-R15; 12 R448-R455) -/

/-- What a device address names (00 R13, R14). -/
inductive Space where
  | hbm | slow | scratch (core : Nat) | hole
deriving DecidableEq, Repr

/-- The size of a channel's local window in bytes (12 R448). -/
def localBytes (s : State) : Nat := fget s regMemCfg 63 52 * 2 ^ 20

/-- I, the size of the interleaved region (12 R448). -/
def interleaved (s : State) : Nat := 192 * (2 ^ 31 - localBytes s)

/-- The range a device address lies in (00 R13, R14). -/
def space (a : Nat) : Space :=
  if a < 0x6000000000 then .hbm
  else if 0x8000000000 ≤ a ∧ a < 0x10000000000 then .slow
  else if 0x10000000000 ≤ a ∧ a < 0x10000000000 + 272 * 0x800000 then
    if (a - 0x10000000000) % 0x800000 < 0x400000 then .scratch ((a - 0x10000000000) / 0x800000) else .hole
  else .hole

/-- The base of a physical core's scratchpad window (00 R14). -/
def spBase (core : Nat) : Nat := 0x10000000000 + core * 0x800000

/-- Channel and channel-local offset of an HBM address (12 R448, R449). -/
def chanOf (s : State) (a : Nat) : Nat × Nat :=
  let i := interleaved s
  if a < i then
    let x := a / 256
    let k := x % 192
    let u := x / 192
    (64 * (k / 64) + Nat.xor (k % 64) (u % 64), u * 256 + a % 256)
  else
    let w := localBytes s
    ((a - i) / w, 2 ^ 31 - w + (a - i) % w)

/-- The HBM address of a channel-local offset, the inverse of `chanOf`. -/
def addrOf (s : State) (c o : Nat) : Nat :=
  let w := localBytes s
  if o < 2 ^ 31 - w then
    let u := o / 256
    let k := 64 * (c / 64) + Nat.xor (c % 64) (u % 64)
    (u * 192 + k) * 256 + o % 256
  else interleaved s + c * w + (o - (2 ^ 31 - w))

/-- Whether an HBM address lies in its channel's spare group, the top 1 MiB of a local window (12 R450). -/
def inSpare (s : State) (a : Nat) : Bool :=
  decide (interleaved s ≤ a) && decide (a < 0x6000000000) && decide (0 < localBytes s) &&
    decide (localBytes s - 2 ^ 20 ≤ (a - interleaved s) % localBytes s)

/-- Whether a demand access may reach an address: usable HBM outside the spare groups, the slow tier, or the backed half
of a scratchpad window (00 R13, R15; 12 R450). -/
def reachable (s : State) (a : Nat) : Bool :=
  match space a with
  | .hbm => !inSpare s a
  | .slow => true
  | .scratch _ => true
  | .hole => false

/-- One byte of device memory: an unlisted one reads 0. -/
def byteAt (s : State) (a : Nat) : Byte := mget (fun _ => (0 : Byte)) s.mem a

/-- `n` bytes of device memory from an address. -/
def readBytes (s : State) (a : Nat) : Nat → List Byte
  | 0 => []
  | n + 1 => byteAt s a :: readBytes s (a + 1) n

/-- The little-endian number in `n` bytes at an address. -/
def readNat (s : State) (a n : Nat) : Nat := leNat (readBytes s a n)

/-- Bytes put into memory one by one, and nothing else. -/
def putBytes (s : State) (a : Nat) : List Byte → State
  | [] => s
  | b :: r => putBytes { s with mem := mset (fun _ => (0 : Byte)) s.mem a b } (a + 1) r

/-- Memory's canonical form: addresses strictly rising, no byte listed that reads 0 anyway. -/
def Memory.wf (m : List Host.Cell) : Bool := mwf (fun _ => (0 : Byte)) m

/-- A channel that has done nothing yet. -/
def chanReset : Chan :=
  ⟨[], [], 0, [], [], [], [], 0, 0, 0, 0, 0, 0, false, false, false, true, 0, false, 0, false, false, false, none, 0, 0, 0⟩

/-- A channel's controller. -/
def chanGet (s : State) (c : Nat) : Chan := mget (fun _ => chanReset) s.chans c

/-- Put a channel's controller. -/
def chanPut (s : State) (c : Nat) (ch : Chan) : State := { s with chans := mset (fun _ => chanReset) s.chans c ch }

/-- Note an error in a channel's LAST_ERR (12 R479). -/
def chanErr (s : State) (c kind nbytes off : Nat) : State :=
  rset s (regMemChLastErr c) (kind % 16 * 2 ^ 60 + nbytes % 16 * 2 ^ 56 + off % 2 ^ 31)

/-- Whether some unit under `n` bytes at an HBM address reads detected-uncorrectable (12 R464). -/
def unitBad (s : State) (a n : Nat) : Bool :=
  match space a with
  | .hbm =>
    (List.range (n / 64 + 2)).any fun k =>
      let b := a / 64 * 64 + 64 * k
      decide (b < a + n) &&
        (let (c, o) := chanOf s b
         (chanGet s c).bad.contains (o / 64))
  | _ => false

/-- The bits of a unit's byte mask for `n` bytes at offset `o`. -/
def maskOf (o n : Nat) : Nat := (2 ^ n - 1) * 2 ^ o

/-- A full byte mask. -/
def fullMask : Nat := 2 ^ 64 - 1

/-- A whole-unit write clears an uncorrectable unit and its RAW mark (12 R466). -/
def cureUnit (ch : Chan) (u : Nat) : Chan :=
  { ch with bad := ch.bad.filter (· ≠ u)
            remap := ch.remap.map fun e =>
              if e.row = u / 16 ∧ bit e.raw (u % 16) then { e with raw := e.raw - 2 ^ (u % 16) } else e }

/-- A write-combining entry leaves its buffer. -/
def takeEntry (s : State) (c u : Nat) : State :=
  let ch := chanGet s c
  chanPut s c { ch with wcb := ch.wcb.filter (fun x => x.unit ≠ u) }

/-- A partial write-back finds its unit uncorrectable: the write is dropped, counted and recorded (12 R455). -/
def dropWrite (s : State) (c u : Nat) : State :=
  let s := bump1 s (regMemChDropped c)
  let s := chanErr s c 4 0 (u * 64)
  report s 0x53 1 (unitCode s 4 c) (u * 64)

/-- Write a write-combining entry back: a partial one reads its unit first, and is dropped where that unit is
uncorrectable (12 R454, R455). -/
def writeBack (s : State) (c : Nat) (e : WcbEntry) : State :=
  let s := takeEntry s c e.unit
  let ch := chanGet s c
  if e.mask = fullMask then chanPut s c (cureUnit ch e.unit)
  else
    let s := bump1 s (regMemChRmw c)
    if ch.bad.contains e.unit then dropWrite (event (bump1 s (regMemChUncorr c)) (regMemChEvents c) 0) c e.unit else s

/-- Take a write of the bytes `mask` of a unit into the write-combining buffer, with the bytes `held` that wait there (12 R453, R454). -/
def combine (s : State) (c u mask : Nat) (held : List Host.Cell) : State :=
  let ch := chanGet s c
  if mask = fullMask then
    chanPut s c (cureUnit { ch with wcb := ch.wcb.filter (fun x => x.unit ≠ u) } u)
  else match ch.wcb.find? (fun x => x.unit == u) with
  | some e =>
    let m := Nat.lor e.mask mask
    if m = fullMask then chanPut s c (cureUnit { ch with wcb := ch.wcb.filter (fun x => x.unit ≠ u) } u)
    else chanPut s c { ch with wcb := ch.wcb.map fun x => if x.unit = u then { x with mask := m, held := x.held ++ held } else x }
  | none =>
    let s := if ch.wcb.length < 64 then s else match ch.wcb with
      | e :: _ => writeBack s c e
      | [] => s
    let ch := chanGet s c
    chanPut s c { ch with wcb := ch.wcb ++ [⟨u, mask, s.now, held⟩] }

/-- The write-combining entry of a unit. -/
def wcbOf (s : State) (c u : Nat) : Option WcbEntry := (chanGet s c).wcb.find? fun x => x.unit == u

/-- Bytes put into memory, each at its own address. -/
def putCells (s : State) (cs : List Host.Cell) : State := cs.foldl (fun s b => putBytes s b.1 [b.2]) s

/-- A write to one unit, or to a part of it. A unit that reads uncorrectable keeps its raw bytes until it is written whole: what comes for a part of it
waits in its write-combining entry (12 R453-R455). -/
def writePart (s : State) (a : Nat) (l : List Byte) : State :=
  let p := chanOf s a
  let mask := maskOf (p.2 % 64) l.length
  if !unitBad s a 1 then putBytes (combine s p.1 (p.2 / 64) mask []) a l
  else
    let old := wcbOf s p.1 (p.2 / 64)
    let had := (old.map (·.held)).getD []
    let whole := Nat.lor ((old.map (·.mask)).getD 0) mask == fullMask
    let s := combine s p.1 (p.2 / 64) mask (l.zipIdx.map fun b => (a + b.2, b.1))
    if whole then putBytes (putCells s (had.filter fun b => b.1 / 64 == a / 64)) a l else s

/-- Cut `n` bytes at an address into the parts that lie in one 64-byte unit each. -/
def unitParts : Nat → Nat → Nat → List (Nat × Nat)
  | 0, _, _ => []
  | fuel + 1, a, n =>
    if n = 0 then [] else
      let k := min n (64 - a % 64)
      (a, k) :: unitParts fuel (a + k) (n - k)

/-- The write generation of a page rises by 1, modulo 2^16, at the acceptance of a write (04 R170). -/
def raiseGen (s : State) (page : Nat) : State :=
  { s with gens := mset (fun _ => 0) s.gens page ((mget (fun _ => 0) s.gens page + 1) % 65536) }

/-- The pages under `n` bytes at an address. -/
def pagesOf (a n : Nat) : List Nat := (List.range ((a % 4096 + n + 4095) / 4096)).map (a / 4096 + ·)

/-- A write the memory accepts: the bytes are visible at once, an HBM unit goes through its controller's write-combining
buffer, and the pages' generations rise (12 R453; 04 R170). -/
def memWrite (s : State) (a : Nat) (l : List Byte) : State :=
  match space a with
  | .hbm =>
    let s := (unitParts (l.length + 1) a l.length).foldl (fun s p => writePart s p.1 ((l.drop (p.1 - a)).take p.2)) s
    if l.isEmpty then s else (pagesOf a l.length).foldl raiseGen s
  | .slow =>
    let s := putBytes s a l
    if l.isEmpty then s else (pagesOf a l.length).foldl raiseGen s
  | _ => putBytes s a l

/-- Whether a write of a task to an HBM address is dropped because its channel has lost its contents (12 R472, R474). -/
def chanLost (s : State) (a : Nat) : Bool :=
  match space a with
  | .hbm => (chanGet s (chanOf s a).1).lost
  | _ => false

/-- A task's write: the parts that lie in a LOST channel are dropped and counted, the others accepted (12 R472, R474). -/
def taskWrite (s : State) (a : Nat) (l : List Byte) : State :=
  let parts := unitParts (l.length + 1) a l.length
  if parts.any fun p => chanLost s p.1 then
    parts.foldl (fun s p =>
      if chanLost s p.1 then
        let (c, o) := chanOf s p.1
        chanErr (bump1 s (regMemChDropped c)) c 4 0 (o / 64 * 64)
      else memWrite s p.1 ((l.drop (p.1 - a)).take p.2)) s
  else memWrite s a l

/-- A number of bytes rounded up to whole pages. -/
def pageUp (n : Nat) : Nat := (n + 4095) / 4096 * 4096

/-- Space of a channel's local window that a table's slot takes: 192 segments of equal length, one per channel, rounded up
to whole pages (09 R341; the pages are the model's, since R117 protects whole pages). -/
def segBytes (t : Table) : Nat := pageUp (t.slotBytes / 192)

/-- Space of a channel's local window that a table's staging FIFO takes (08 R296). -/
def fifoBytes (t : Table) : Nat := pageUp (((t.stageRows + 1024) * (t.stride + 8) + 191) / 192)

/-- Offset of an HBM address in its channel's local window, where it lies in one. -/
def localOff (s : State) (a : Nat) : Option (Nat × Nat) :=
  if interleaved s ≤ a ∧ a < 0x6000000000 ∧ 0 < localBytes s then
    some ((a - interleaved s) / localBytes s, (a - interleaved s) % localBytes s)
  else none

/-- The device address of an offset in a channel's local window (12 R448). -/
def localAddr (s : State) (c o : Nat) : Nat := interleaved s + c * localBytes s + o

/-- Bytes of an element of a layer format (14 R537). -/
def layerSize (fmt : Nat) : Nat := if fmt = 0 then 4 else if fmt ≤ 2 then 2 else 1

/-- Bytes between the rows of a slice with `n` columns (14 R539). -/
def sliceStride (fmt n : Nat) : Nat := (n * layerSize fmt + 31) / 32 * 32

/-- The largest slice of a layer as (rows, columns), for which its buffers are reserved. -/
def sliceMax (l : Layer) (devs : Nat) : Nat × Nat :=
  if l.slicing = 1 then ((l.rows + devs - 1) / devs, l.cols) else if l.slicing = 2 then (l.rows, (l.cols + devs - 1) / devs) else (l.rows, l.cols)

/-- Bytes of a slice buffer, in whole pages. -/
def sliceBytes (l : Layer) (devs : Nat) : Nat := let (r, c) := sliceMax l devs; pageUp (64 + r * sliceStride l.fmt c)

/-- The address of a slice buffer: buffer 0, then buffer 1. -/
def sliceBuf (l : Layer) (devs : Nat) (next : Bool) : Nat := l.base + (if l.bufSel != next then sliceBytes l devs else 0)

/-- Whether a page lies in a layer's current slice buffer, or in its next one from the first SLICE of a version on (14 R539). -/
def layerProtected (l : Layer) (devs page : Nat) : Bool :=
  let inBuf := fun (a : Nat) => decide (a / 4096 ≤ page ∧ page * 4096 < a + sliceBytes l devs)
  decide (0 < l.base) && ((l.state != 0 && l.state != 1 && inBuf (sliceBuf l devs false)) || (l.next != 0 && inBuf (sliceBuf l devs true)))

/-- The record slots, the result pool and the keeper store lie at the top of the interleaved region: 2 MiB, 256 MiB and 64 MiB (18
R696; 17 R658). -/
def recordBase (s : State) : Nat := interleaved s - 2 * 2 ^ 20
/-- The result pool. -/
def poolBase (s : State) : Nat := interleaved s - 258 * 2 ^ 20
/-- The keeper store. -/
def keepStore (s : State) : Nat := interleaved s - 322 * 2 ^ 20

/-- First address of the slow tier, and the one beyond it (01 R32). -/
def slowBase : Nat := 0x8000000000
/-- The end of the slow tier. -/
def slowEnd : Nat := 0x10000000000

/-- The first address of the row accumulator, which takes the top 8 GiB of the slow tier, 2 KiB for each of its 4,194,304 rows. DESIGN CHOICE (log 38):
14 R536 and R548 give its place and its size nowhere. -/
def accBase : Nat := slowEnd - 8 * 2 ^ 30

/-- Whether a page is protected: it holds part of the current slot or the staging FIFO of a registered table, the code of a
registered pipeline, a registered hub root and its local fragments, slow-tier space the Rugon die reserves, the row accumulator among it, a layer's
slices, or the keeper store (03 R117; 08 R296; 09 R365; 14 R536, R539; 17 R658). -/
def pageProtected (s : State) (page : Nat) : Bool :=
  let a := page * 4096
  (match localOff s a with
   | some (_, o) => s.emb.tables.any fun e =>
       let t := e.2
       let b := if t.slot = 0 then t.base0 else t.base1
       ((t.state == 2 || t.state == 3) && decide (b ≤ o) && decide (o < b + segBytes t)) ||
         (t.state != 0 && decide (t.base0 + 2 * segBytes t ≤ o) && decide (o < t.base0 + 2 * segBytes t + fifoBytes t))
   | none => false) ||
  (s.pci.pipes.any fun e => e.2.active && decide (e.2.code ≤ a) && decide (a < e.2.code + e.2.pages * 4096)) ||
  (s.plc.hubs.any fun h => h.2.contains page) || decide (keepStore s ≤ a ∧ a < keepStore s + 64 * 2 ^ 20) ||
  (s.upd.ranges.any fun r => decide (0x8000000000 ≤ r.2.1 ∧ r.2.1 / 4096 ≤ page ∧ page * 4096 < r.2.1 + r.2.2)) ||
  decide (accBase ≤ a ∧ a < slowEnd) || (s.upd.layers.any fun l => layerProtected l.2 (max 1 s.boot.devs) page)

/-- Whether any page under `n` bytes is protected. -/
def protectedAt (s : State) (a n : Nat) : Bool := (pagesOf a n).any (pageProtected s)

/-- The partition's device number of this device and its size (16 R624). -/
def ownDev (s : State) : Nat := s.boot.dev

/-! ### Time passing -/

/-- The counters of a logical core in a tick that has just begun. -/
def telReset : TelCore := ⟨0, 0, false, [], 0, 0, 0, 0, 0, 0, 0, 0⟩

/-- A logical core's counters of the tick. -/
def telGet (s : State) (l : Nat) : TelCore := mget (fun _ => telReset) s.sch.tel l

/-- Put a logical core's counters. -/
def telPut (s : State) (l : Nat) (t : TelCore) : State :=
  { s with sch := { s.sch with tel := mset (fun _ => telReset) s.sch.tel l t } }

/-- The entries of a logical core's ready lists and re-run area (10 R392). -/
def depthOf (s : State) (l : Nat) : Nat :=
  (s.sch.tasks.filter fun e => e.2.state == .ready && e.2.lcore == l).length

/-- The physical core that holds a logical number (01 R29). -/
def physOf (s : State) (l : Nat) : Option Nat := pfind s.boot.coreMap l

/-- The logical number a physical core holds. -/
def logicalOf (s : State) (p : Nat) : Option Nat := (s.boot.coreMap.find? fun e => e.2 == p).map (·.1)

/-- The sampling instants T + k µs of 10 R408 that lie after `t0` and up to `t1`, not past the apply point. -/
def samplesIn (s : State) (t0 t1 : Nat) : Nat :=
  let hi := min t1 (applyAt s)
  if hi ≤ t0 then 0 else (hi - s.tsq.tickStart) / 1000 - (t0 - s.tsq.tickStart) / 1000

/-- Whether the time unit's counter runs: it does from its first READY on (02 R46). -/
def timeRuns (s : State) : Bool := !(rdyState s 0x30 == .absent || rdyState s 0x30 == .training || rdyState s 0x30 == .testing)

/-- Device time at an instant `t` that has come: never before the present, and 0 until the time unit is up (02 R46, R48). -/
def laterOf (s : State) (t : Nat) : Nat := if timeRuns s then max s.now t else s.now

/-- Device time moves on to `t`, if it lies ahead and the counter runs: the tick's depth samples and busy time grow with it (02 R46, R48; 10
R408). -/
def advance (s : State) (t : Nat) : State :=
  if t ≤ s.now ∨ !timeRuns s then s
  else
    let n := if s.tsq.running then samplesIn s s.now t else 0
    let ls := (s.sch.tasks.map (·.2.lcore)).eraseDups
    let s := if n = 0 && !s.tsq.running then s else ls.foldl (fun s l =>
      let c := telGet s l
      let busy := s.sch.tasks.any fun e => (e.2.state == .running || e.2.state == .ending) && e.2.lcore == l
      telPut s l { c with depthSum := c.depthSum + n * depthOf s l
                          busyNs := c.busyNs + (if busy then t - s.now else 0) }) s
    { s with now := t }

/-- Note the depths of a logical core's lists as they stand, for the tick's maxima (10 R408). -/
def noteDepth (s : State) (l : Nat) : State :=
  let c := telGet s l
  let lv := fun p => (s.sch.tasks.filter fun e => e.2.state == .ready && e.2.lcore == l && !e.2.inRerun && e.2.desc.prio == p).length
  telPut s l { c with depthMax := max c.depthMax (depthOf s l)
                      levelMax := (List.range 8).foldl (fun m p =>
                        mset (fun _ => 0) m p (max (mget (fun _ => 0) m p) (lv p))) c.levelMax }

end Sys2Proof.Machine
end

