-- ==== Sys2Proof/Machine/Operands.lean ====
section
/-! DEFINITION. The architectural state of a strand or control core as instructions read and write it: registers,
predicates, guards, every operand form, the program counter and the flags (03 R90, R95, R100, R101, R115). -/

namespace Sys2Proof.Machine

/-- The number of a hart's state: strands at 64 × core + strand, then the control cores (03 R90, R128). -/
def hartNo : Hart → Nat
  | .strand c n => 64 * c.val + n.val
  | .ctrl k => 17408 + k.val

/-- An IDLE hart. -/
def hartReset : HartSt := ⟨.idle, 0, 0, Vector.replicate 32 0, 0, 0, none, none, .nothing, 0, 0, []⟩

/-- A hart's state by its number. -/
def hartAt (s : State) (n : Nat) : HartSt := mget (fun _ => hartReset) s.harts n

/-- Put a hart's state by its number. -/
def hartSet (s : State) (n : Nat) (t : HartSt) : State := { s with harts := mset (fun _ => hartReset) s.harts n t }

/-- A hart's state. -/
def hart (s : State) (h : Hart) : HartSt := hartAt s (hartNo h)

/-- Put a hart's state. -/
def putHart (s : State) (h : Hart) (t : HartSt) : State := hartSet s (hartNo h) t

/-- The value of a general register; g0 reads as 0 (03 R90). -/
def reg (s : State) (h : Hart) (r : Reg) : Word :=
  if r.val = 0 then 0 else (hart s h).regs[r]

/-- Write a general register of a hart's state; g0 ignores writes (03 R90). -/
def HartSt.setReg (t : HartSt) (r : Reg) (v : Word) : HartSt :=
  if r.val = 0 then t else { t with regs := t.regs.set r v }

/-- Write a general register. -/
def setReg (s : State) (h : Hart) (r : Reg) (v : Word) : State := putHart s h ((hart s h).setReg r v)

/-- The value of a predicate; p0 reads as 1 (03 R90). -/
def pred (s : State) (h : Hart) (p : PredReg) : Bool := p.val == 0 || (hart s h).preds.getLsbD p.val

/-- Write a predicate; p0 ignores writes (03 R90). -/
def setPred (s : State) (h : Hart) (p : PredReg) (v : Bool) : State :=
  if p.val = 0 then s
  else
    let t := hart s h
    let m := (1 : BitVec 8) <<< p.val
    putHart s h { t with preds := if v then t.preds ||| m else t.preds &&& ~~~m }

/-- Whether a guard lets its instruction act (03 R95). -/
def guardOn (s : State) (h : Hart) (g : Guard) : Bool := pred s h g.pred != g.neg

/-- The program counter moves past the instruction. -/
def nextPc (s : State) (h : Hart) : State :=
  let t := hart s h
  putHart s h { t with pc := t.pc + 8 }

/-- The program counter goes to an address. -/
def setPc (s : State) (h : Hart) (a : BitVec 48) : State :=
  let t := hart s h
  putHart s h { t with pc := a }

/-- Flags ORed into FFLAGS (03 R104, R114). -/
def orFflags (s : State) (h : Hart) (f : Nat) : State :=
  let t := hart s h
  putHart s h { t with fflags := t.fflags ||| BitVec.ofNat 5 f }

/-- A sign-extended IMM32 (03 R101). -/
def simm (i : BitVec 32) : Word := i.signExtend 64

/-- A zero-extended IMM32: ANDI, ORI and XORI (03 R101). -/
def zimm (i : BitVec 32) : Word := i.zeroExtend 64

/-- The second operand of an integer compare: RS2, or IMM32 sign-extended (03 R100, R101). -/
def operand (s : State) (h : Hart) : Operand → Word
  | .reg r => reg s h r
  | .imm v => simm v

/-- The second operand of an FP32 compare: RS2, or IMM32 as a pattern (03 R101). -/
def operandF (s : State) (h : Hart) : Operand → Nat
  | .reg r => (reg s h r).toNat % 2 ^ 32
  | .imm v => v.toNat

/-- The shift count of a shift: the low 6 bits (03 R101). -/
def shiftOf (w : Word) : Nat := w.toNat % 64

/-- The core a hart belongs to; a control core belongs to none. -/
def coreOf : Hart → Option Nat
  | .strand c _ => some c.val
  | .ctrl _ => none

/-- A device address from a register value: bits [63:48] 0, or the device's own global address (03 R115; 00 R16). -/
def deviceAddr (s : State) (w : Nat) : Option Nat :=
  if w < 2 ^ 48 then some w
  else if bits w 63 54 = s.boot.dev ∧ bits w 53 48 = 0 then some (w % 2 ^ 48)
  else none

end Sys2Proof.Machine
end

