-- ==== Sys2Proof/Machine/Fabric.lean ====
section
/-! DEFINITION. Sending over the hawser fabric: routing, segmentation of a message into cells, the queues of the ports
(13 R487, R489, R496, R503, R505, R506). -/

namespace Sys2Proof.Machine

/-- A port that has done nothing yet. -/
def portReset : Port := ⟨0, 0, [], [], [], [], [], 0, 0, [], [], false, false, [], [], [], [], 0⟩

/-- A hawser port. -/
def portGet (s : State) (p : Nat) : Port := mget (fun _ => portReset) s.hws.ports p

/-- Put a hawser port. -/
def portPut (s : State) (p : Nat) (t : Port) : State :=
  { s with hws := { s.hws with ports := mset (fun _ => portReset) s.hws.ports p t } }

/-- Spill credits a port holds for pool 3v + h: 512 after training (R503). -/
def creditOf (t : Port) (pool : Nat) : Nat := mget (fun _ => 512) t.credits pool

/-- Set the credits of a pool. -/
def setCredit (t : Port) (pool n : Nat) : Port := { t with credits := mset (fun _ => 512) t.credits pool n }

/-- Whether a port has credits for `n` more own cells of a virtual channel beside those it has queued (R503; 03 R113). -/
def creditRoom (s : State) (p vc n : Nat) : Bool :=
  let t := portGet s p
  decide ((t.queue.filter fun c => c.vc == vc && c.hops == 0).length + n ≤ creditOf t (3 * vc))

/-- Whether the peer of a port sends grey idle frames (R521). -/
def greyRx (s : State) (p : Nat) : Bool := fget s (regHwsPortState p) 5 5 == 1

/-- Whether a port carries messages of others than PTP: READY, not inside a GREY unit, its peer not grey (R506, R519,
R521). -/
def portUp (s : State) (p : Nat) : Bool :=
  rdyState s (idxPort p) == .ready && !greyAt s (idxPort p) && !greyRx s p

/-- The routing entry in force for a device; 0 where there is none (R505). -/
def routeEntry (s : State) (dst : Nat) : Nat := mget (fun _ => 0) s.hws.routes dst

/-- The port a cell for a device leaves by, and whether it then goes by alternates (R506); none where the entry is not
VALID or neither port is READY. -/
def routePort (s : State) (dst : Nat) (alt : Bool) : Option (Nat × Bool) :=
  let e := routeEntry s dst
  if !bit e 63 then none
  else
    let p := bits e 55 52
    let q := bits e 51 48
    if alt then (if portUp s q then some (q, true) else if portUp s p then some (p, true) else none)
    else (if portUp s p then some (p, false) else if portUp s q then some (q, true) else none)

/-- The virtual channel of a message: 0 REQ, 1 RSP, 2 TASK, 3 BULK; from 4 on the control class in the order of its channel:
PTP, vetoes, knots and hitches, plan summaries, relocation broadcasts (R495, R496, R503). -/
def vcOf (kind : Nat) (payload : List Byte) : Nat :=
  match kind with
  | 0x01 => 0
  | 0x02 => 1
  | 0x08 => match fld payload 0 1 with
    | 3 => 0
    | 4 => 1
    | 2 => 5
    | _ => 7
  | 0x0A => 0
  | 0x0B => 2
  | 0x07 => 4
  | 0x09 => 8
  | 0x0C => if bit (fld payload 0x15 1) 0 then 1 else 3
  | 0x03 | 0x0D | 0x0E => 3
  | _ => 6

/-- Cut message bytes into the payloads of its cells, 184 bytes each and one at least (R487, R489). -/
def cellParts : Nat → List Byte → List (List Byte)
  | 0, l => [l]
  | n + 1, l => if l.length ≤ 184 then [l] else l.take 184 :: cellParts n (l.drop 184)

/-- The cells of a message of this device (R489). -/
def cellsOf (s : State) (kind dst tag : Nat) (alt : Bool) (body : List Byte) : List Cell :=
  let vc := vcOf kind body
  let parts := cellParts body.length body
  parts.zipIdx.map fun (p, i) =>
    ⟨kind, i == 0, i + 1 == parts.length, 0, alt, false, if 4 ≤ vc then 0 else 2, s.boot.dev, dst, tag, 0, p, vc, none⟩

/-- Queue cells at a port. -/
def queueCells (s : State) (p : Nat) (cs : List Cell) : State :=
  let t := portGet s p
  portPut s p { t with queue := t.queue ++ cs }

/-- A cell that leaves, or goes no further, returns the credit of the pool it came in by (R503). -/
def returnCredit (s : State) (p pool : Nat) : State :=
  let t := portGet s p
  portPut s p { t with toReturn := mset (fun _ => 0) t.toReturn pool (mget (fun _ => 0) t.toReturn pool + 1) }

/-- The credit of a queued cell that came by another port goes back (R503). -/
def returnVia (s : State) (c : Cell) : State :=
  match c.via with
  | some q => returnCredit s q (3 * c.vc + (c.hops - 1))
  | none => s

/-- The key of a message. -/
def msgKey (src tag : Nat) : Nat := src * 2 ^ 24 + tag

/-- The rest of a message is discarded with it: its cells queued at any port, and those still to come (R506). -/
def dropMessage (s : State) (src tag : Nat) (more : Bool) : State :=
  let own := fun (c : Cell) => c.src == src && c.tag == tag
  let s := (List.range 16).foldl (fun s p =>
    let t := portGet s p
    if t.queue.any own then (t.queue.filter own).foldl returnVia (portPut s p { t with queue := t.queue.filter fun c => !own c }) else s) s
  if more && !s.hws.dropped.contains (msgKey src tag) then { s with hws := { s.hws with dropped := s.hws.dropped ++ [msgKey src tag] } } else s

/-- A message that finds no route is discarded and counted (R506). -/
def noRoute (s : State) : State := event (bump1 s regHwsNoRoute) regHwsEvents 2

/-- Take the next TAG (R489). -/
def newTag (s : State) : Nat × State :=
  (s.hws.tagNext, { s with hws := { s.hws with tagNext := (s.hws.tagNext + 1) % 2 ^ 24 } })

/-- Send the cells of a message under a TAG by one of its routes; the answer says whether a port took them. -/
def sendTagged (s : State) (kind dst tag : Nat) (alt : Bool) (body : List Byte) : Bool × State :=
  match routePort s dst alt with
  | some (p, a) => (true, queueCells s p (cellsOf s kind dst tag a body))
  | none => (false, noRoute s)

/-- Send a message by its primary route. -/
def sendMsg (s : State) (kind dst : Nat) (body : List Byte) : Bool × Nat × State :=
  let (tag, s) := newTag s
  let (ok, s) := sendTagged s kind dst tag false body
  (ok, tag, s)

/-- Send a message where nothing waits for it. -/
def post (s : State) (kind dst : Nat) (body : List Byte) : State := (sendMsg s kind dst body).2.2

/-- Send a message twice, over the two routes that share no link (R506). -/
def postBoth (s : State) (kind dst : Nat) (body : List Byte) : State :=
  let (tag, s) := newTag s
  let (_, s) := sendTagged s kind dst tag false body
  (sendTagged s kind dst tag true body).2

/-- Send a message to the neighbour at the far end of a port, by that port alone: PTP and the knot tree (R512, R517). -/
def postPort (s : State) (kind p : Nat) (body : List Byte) : State :=
  let (tag, s) := newTag s
  queueCells s p (cellsOf s kind (fget s (regHwsPortState p) 17 8) tag false body)

/-- Take a delivered message out of the message layer, giving back the credits its cells withheld (R503). -/
def takeMsg (s : State) (src tag kind : Nat) : State :=
  match s.hws.inbox.find? (fun m => m.src == src && m.tag == tag && m.kind == kind) with
  | none => s
  | some m =>
    let s := { s with hws := { s.hws with
      inbox := dropFirst (fun m => m.src == src && m.tag == tag && m.kind == kind) s.hws.inbox } }
    m.owed.foldl (fun s o => returnCredit s o.1 o.2) s

/-- RMT_TIMEOUT_US in ns (R510, R530). -/
def rmtTimeout (s : State) : Nat := fget s regHwsCfg 6 0 * 1000

end Sys2Proof.Machine
end

