-- ==== Sys2Proof/Machine/Hitch.lean ====
section
/-! DEFINITION. The hitch root and the knot tree: what every hitch and barrier operation does once it is applied (11). -/

namespace Sys2Proof.Machine

/-! ### Hitches (11 R417-R428) -/

/-- A hitch at reset (R417). -/
def hitchReset : Hitch := ⟨0, false, 0, 0, []⟩

/-- A hitch. -/
def hitchGet (s : State) (h : Nat) : Hitch := mget (fun _ => hitchReset) s.hit.hitches h

/-- Put a hitch. -/
def hitchPut (s : State) (h : Nat) (x : Hitch) : State :=
  { s with hit := { s.hit with hitches := mset (fun _ => hitchReset) s.hit.hitches h x } }

/-- The result word of a hitch instruction (R420). -/
def hitchWord (x : Hitch) (status : Nat) : Word :=
  BitVec.ofNat 64 (x.count % 2 ^ 32 * 2 ^ 32 + b2n x.sense * 2 ^ 16 + status % 256)

/-- A ticket has been taken out of a hitch's queue by a release, a release of all or a clear: its waiter's latch shows it,
or its withdrawal on the way (R424, R440). -/
def markTicket (s : State) (h : Nat) (w : Nat × Nat) (st : LatchState) : State :=
  let (slot, t) := w
  if s.hit.withdrawals.any (fun x => x.hitch == h && x.ticket == t && x.slot == slot && x.st == .queued) then
    { s with hit := { s.hit with withdrawals := s.hit.withdrawals.map fun x =>
        if x.hitch == h && x.ticket == t && x.slot == slot && x.st == .queued then { x with st := st } else x } }
  else
    let k := hartAt s slot
    match k.hLatch with
    | some l => if l.hitch = h ∧ l.ticket = t ∧ l.st = .queued then hartSet s slot { k with hLatch := some { l with st := st } }
                else s
    | none => s

/-- An operation the hitch root applies counts in HIT_OPS (R443). -/
def hitOp (s : State) : State := bump1 s regHitOps

/-- An operation refused with OVERFLOW (R426). -/
def hitOverflow (s : State) : State := event (bump1 s regHitOvf) regHitEvents 0

/-- HRELONE applied: the waiter with the lowest ticket, or a credit (R422, R426). -/
def opRelOne (s : State) (h : Nat) : Nat × State :=
  let x := hitchGet s h
  match x.queue with
  | w :: r => (0, hitOp (markTicket (hitchPut s h { x with queue := r }) h w .relOne))
  | [] => if 65535 ≤ x.credits then (3, hitOverflow s) else (9, hitOp (hitchPut s h { x with credits := x.credits + 1 }))

/-- HRELALL applied: every waiter queued (R422, R425). -/
def opRelAll (s : State) (h : Nat) : Nat × State :=
  let x := hitchGet s h
  (0, hitOp (x.queue.foldl (fun s w => markTicket s h w .relAll) (hitchPut s h { x with queue := [] })))

/-- HADD applied with a signed 32-bit operand (R422, R426; 00 R25). -/
def opAdd (s : State) (h y : Nat) : Nat × State :=
  let x := hitchGet s h
  let r := (x.count : Int) + sint 32 y
  if r < 0 ∨ 2 ^ 32 ≤ r then (3, hitOverflow s) else (0, hitOp (hitchPut s h { x with count := r.toNat }))

/-- HTEST applied (R422). -/
def opTest (s : State) (h y : Nat) : Nat × State :=
  (if y % 2 ^ 32 ≤ (hitchGet s h).count then 0 else 2, hitOp s)

/-- Whether a hart spins on its latched ticket. -/
def spinsOnHitch (k : HartSt) : Bool :=
  match k.wait with
  | .hitch _ => true
  | _ => false

/-- The ticket that a departing waiter has to give back: one still queued, one that an HRELONE released and that nobody took, or any that it spins on
(R424). -/
def ticketOwed (slot : Nat) (k : HartSt) : Option Withdrawal :=
  match k.hLatch with
  | some l => if l.st == .queued || l.st == .relOne || (l.st != .taken && spinsOnHitch k) then some ⟨l.hitch, l.ticket, slot, l.st⟩ else none
  | none => none

/-- A departing waiter's ticket starts on its way to be withdrawn, and its latch no longer names it (R424). -/
def departLatch (s : State) (slot : Nat) : State :=
  let k := hartAt s slot
  let s := if k.hLatch.isSome then hartSet s slot { k with hLatch := none } else s
  match ticketOwed slot k with
  | some w => { s with hit := { s.hit with withdrawals := s.hit.withdrawals ++ [w] } }
  | none => s

/-- A withdrawn ticket reaches the hitch root: still queued, it is removed; already released, the release is returned (R424). -/
def withdraw (s : State) (w : Withdrawal) : State :=
  let x := hitchGet s w.hitch
  if w.st = .queued then
    bump1 (hitchPut s w.hitch { x with queue := x.queue.filter (fun e => e.2 ≠ w.ticket) }) regHitAbandoned
  else
    let s := event (bump1 s regHitReturned) regHitEvents 3
    if w.st = .relOne then { s with hit := { s.hit with returned := s.hit.returned ++ [w.hitch] } } else s

/-- The operation that would give a hart a second ticket first withdraws the earlier one, which the hitch root removes before it gives the new one
(R758). -/
def giveUpTicket (s : State) (slot : Nat) : State :=
  match ticketOwed slot (hartAt s slot) with
  | some w => withdraw s w
  | none => s

/-- The caller takes the next ticket of a hitch into its latch and is enqueued, having given up an earlier one (R422, R758). -/
def takeTicket (s : State) (h slot : Nat) : State :=
  let s := giveUpTicket s slot
  let x := hitchGet s h
  let s := hitchPut s h { x with nextTicket := (x.nextTicket + 1) % 2 ^ 32, queue := x.queue ++ [(slot, x.nextTicket)] }
  let k := hartAt s slot
  hartSet s slot { k with hLatch := some ⟨h, x.nextTicket, .queued⟩ }

/-- HARRIVE applied (R422). -/
def opArrive (s : State) (h slot y : Nat) : Nat × State :=
  let x := hitchGet s h
  let n := max 1 (y % 2 ^ 32)
  if n ≤ x.count + 1 then
    let s := hitchPut s h { x with count := 0, sense := !x.sense, queue := [] }
    (1, hitOp (x.queue.foldl (fun s w => markTicket s h w .relAll) s))
  else (0, hitOp (takeTicket (hitchPut s h { x with count := x.count + 1 }) h slot))

/-- A completion signal: an HADD of +1 from the scheduler or the fabric, refused under 00 R25 (10 R402; 13 R511). -/
def signalHitch (s : State) (h : Nat) : Nat × State := opAdd s h 1

/-- The first ticket on its way back reaches the hitch root. -/
def withdrawFirst (s : State) : State :=
  match s.hit.withdrawals with
  | [] => s
  | w :: r => withdraw { s with hit := { s.hit with withdrawals := r } } w

/-- TICKET_WITHDRAW: the first ticket on its way back reaches the hitch root (11 R424). -/
def execTicketWithdraw (s : State) : Out := .next (withdrawFirst s)

/-- RETURNED_RELEASE: a returned release is applied as a fresh HRELONE (11 R424). -/
def execReturnedRelease (hitch : Nat) (s : State) : Out :=
  if s.hit.returned.contains hitch then
    .next (opRelOne { s with hit := { s.hit with returned := s.hit.returned.erase hitch } } hitch).2
  else .next s

/-- A release that has reached a waiter's latch before its hitch was cleared stays its own, but is returned no more (R428). -/
def keepRelease (s : State) (h : Nat) : State :=
  s.harts.foldl (fun s e =>
    let k := hartAt s e.1
    match k.hLatch with
    | some l => if l.hitch = h ∧ l.st = .relOne then hartSet s e.1 { k with hLatch := some { l with st := .relAll } } else s
    | none => s) s

/-- HIT_CLEAR: a control core clears a hitch; releases that are still being returned to it, or come to be later, are dropped (11 R428, R447). -/
def execHitClear (k hitch : Nat) (s : State) : Out :=
  let h := hitch % 65536
  if h = 0 ∨ 20 ≤ k then .next s
  else
    let x := hitchGet s h
    let s := x.queue.foldl (fun s w => markTicket s h w .broken) (hitchPut s h hitchReset)
    let s := keepRelease s h
    .next { s with hit := { s.hit with
      returned := s.hit.returned.filter (· ≠ h)
      withdrawals := s.hit.withdrawals.map fun w => if w.hitch = h then { w with st := .broken } else w } }

/-! ### The knot tree (11 R429-R439) -/

/-- An undefined barrier definition. -/
def defReset : BarrierDef := ⟨false, 0, false, 0, 0, 0, 0, 0⟩

/-- A barrier never defined. -/
def barrierReset : Barrier := ⟨defReset, none, [], [], false, 0, 0⟩

/-- A barrier. -/
def barGet (s : State) (b : Nat) : Barrier := mget (fun _ => barrierReset) s.hit.barriers b

/-- Put a barrier. -/
def barPut (s : State) (b : Nat) (x : Barrier) : State :=
  { s with hit := { s.hit with barriers := mset (fun _ => barrierReset) s.hit.barriers b x } }

/-- A node at reset (R439). -/
def nodeReset : KnotNode := ⟨0, 0, false, 0, 0, 0⟩

/-- A node of a barrier: core p at p, column c of die d at 300 + 4 d + c, die d at 400 + d, the device root at 500,
control core k at 600 + k (R429). -/
def Barrier.node (x : Barrier) (n : Nat) : KnotNode := mget (fun _ => nodeReset) x.nodes n

/-- Put a node of a barrier. -/
def Barrier.putNode (x : Barrier) (n : Nat) (k : KnotNode) : Barrier :=
  { x with nodes := mset (fun _ => nodeReset) x.nodes n k }

/-- The parent of a node (R429). -/
def knotParent (n : Nat) : Nat :=
  if n < 272 then 300 + 4 * (n / 68) + n % 68 / 17
  else if n < 400 then 400 + (n - 300) / 4
  else if n < 500 then 500
  else if n < 616 then 400 + (n - 600) / 4
  else 500

/-- Participating cores of a column. -/
def columnCount (x : Barrier) (n : Nat) : Nat := (x.pcores.filter fun p => knotParent p == n).length

/-- Participating control cores among a list. -/
def ctrlCount (x : Barrier) (ks : List Nat) : Nat := (ks.filter fun k => bit x.def_.ctrl k).length

/-- The target of a die node (R429). -/
def dieCount (x : Barrier) (d : Nat) : Nat :=
  ((List.range 4).filter fun c => decide (0 < columnCount x (300 + 4 * d + c))).length +
    ctrlCount x [4 * d, 4 * d + 1, 4 * d + 2, 4 * d + 3]

/-- The target of a node (R429). -/
def knotTarget (x : Barrier) (n : Nat) : Nat :=
  if n < 272 then (if x.pcores.contains n then x.def_.strands else 0)
  else if n < 400 then columnCount x n
  else if n < 500 then dieCount x (n - 400)
  else if n = 500 then
    ((List.range 4).filter fun d => decide (0 < dieCount x d)).length + ctrlCount x [16, 17, 18, 19] +
      (if x.def_.cross then ((List.range 16).filter fun p => bit x.def_.childPorts p).length else 0)
  else b2n (bit x.def_.ctrl (n - 600))

/-- Whether a barrier is defined: an entry in force, and a participant; those of a cross-device barrier may all be on other devices (R429, R430). -/
def Barrier.live (x : Barrier) : Bool := x.def_.defined && (x.def_.cross || decide (0 < knotTarget x 500))

/-- A counter of a node, by sense. -/
def KnotNode.count (k : KnotNode) (s : Bool) : Nat := if s then k.count1 else k.count0

/-- Set a counter of a node. -/
def KnotNode.setCount (k : KnotNode) (s : Bool) (v : Nat) : KnotNode :=
  if s then { k with count1 := v } else { k with count0 := v }

/-- An arrival mask of a node, by sense. -/
def KnotNode.arr (k : KnotNode) (s : Bool) : Nat := if s then k.arr1 else k.arr0

/-- Set an arrival mask. -/
def KnotNode.setArr (k : KnotNode) (s : Bool) (v : Nat) : KnotNode :=
  if s then { k with arr1 := v } else { k with arr0 := v }

/-- An arrival of a sense sets off from a node toward its parent. -/
def sendArrival (s : State) (b n : Nat) (sense : Bool) : State :=
  { s with hit := { s.hit with arrivals := s.hit.arrivals ++ [(b, knotParent n, sense)] } }

/-- The bytes of a KNOT message (13 R517). -/
def knotBytes (b ty : Nat) (sense : Bool) (tick : Nat) : List Byte :=
  natLe 2 b ++ natLe 1 ty ++ natLe 1 (b2n sense) ++ natLe 4 0 ++ natLe 8 tick

/-- Whether this device holds the partition root of a barrier (R429, R430). -/
def isRoot (s : State) (d : BarrierDef) : Bool := !d.cross || d.rootDev == s.boot.dev

/-- The ports of a barrier's tree (R430). -/
def treePorts (s : State) (d : BarrierDef) : List Nat :=
  if !d.cross then []
  else (if isRoot s d then [] else [d.parentPort]) ++ (List.range 16).filter (fun p => bit d.childPorts p)

/-- A release of a sense goes down from the device root: every node above the cores is cleared and flipped, releases set
off for the core and control-core nodes, and over every child link (R433, R434, R436). -/
def releaseRoot (s : State) (b : Nat) (sense : Bool) : State :=
  let x := barGet s b
  let upper := [500] ++ (List.range 4).map (400 + ·) ++ (List.range 16).map (300 + ·)
  let x := upper.foldl (fun x n =>
    if knotTarget x n = 0 then x else x.putNode n { (x.node n).setCount sense 0 with cur := !sense }) x
  let leaves := x.pcores ++ ((List.range 20).filter fun k => bit x.def_.ctrl k).map (600 + ·)
  let s := barPut s b x
  let s := { s with hit := { s.hit with releases := s.hit.releases ++ leaves.map fun n => (b, n, sense) } }
  if x.def_.cross then
    ((List.range 16).filter fun p => bit x.def_.childPorts p).foldl
      (fun s p => postPort s 0x06 p (knotBytes b 2 sense s.tsq.tick)) s
  else s

/-- An arrival reaches a node above the core level (R433, R436). -/
def nodeArrival (s : State) (b n : Nat) (sense : Bool) : State :=
  let x := barGet s b
  if x.broken || !x.def_.defined then s
  else
    let k := x.node n
    let c := k.count sense + 1
    let s := barPut s b (x.putNode n (k.setCount sense c))
    if c ≠ knotTarget x n then s
    else if n ≠ 500 then sendArrival s b n sense
    else if isRoot s x.def_ then releaseRoot s b sense
    else postPort s 0x06 x.def_.parentPort (knotBytes b 1 sense s.tsq.tick)

/-- KNOT_NODE_ARRIVAL: the first arrival on its way to a node of a barrier reaches it (11 R433). -/
def execKnotNodeArrival (barrier node : Nat) (s : State) : Out :=
  match s.hit.arrivals.find? (fun a => a.1 == barrier && a.2.1 == node) with
  | none => .next s
  | some (_, _, sense) =>
    .next (nodeArrival { s with hit := { s.hit with
      arrivals := dropFirst (fun a => a.1 == barrier && a.2.1 == node) s.hit.arrivals } } barrier node sense)

/-- KNOT_RELEASE_ARRIVAL: a release reaches a core or control-core node (11 R434). -/
def execKnotReleaseArrival (barrier node : Nat) (s : State) : Out :=
  match s.hit.releases.find? (fun a => a.1 == barrier && a.2.1 == node) with
  | none => .next s
  | some _ =>
    let s := { s with hit := { s.hit with
      releases := dropFirst (fun a => a.1 == barrier && a.2.1 == node) s.hit.releases } }
    let x := barGet s barrier
    if x.broken then .next s
    else
      let k := x.node node
      .next (barPut s barrier (x.putNode node
        { (k.setCount k.cur 0).setArr k.cur 0 with cur := !k.cur, round := (k.round + 1) % 4 }))

/-- A barrier breaks: every node is marked, arrivals and releases on their way are lost, a record names the unit, and a
break notice goes over every tree link but the one it came by (R438). -/
def breakBarrier (s : State) (b unit tick : Nat) (fromPort : Option Nat) : State :=
  let x := barGet s b
  if x.broken || !x.def_.defined then s
  else
    let s := barPut s b { x with broken := true, brokenTick := tick }
    let s := { s with hit := { s.hit with
      arrivals := s.hit.arrivals.filter (fun a => a.1 ≠ b)
      releases := s.hit.releases.filter (fun a => a.1 ≠ b) } }
    let s := event (bump1 s regHitBroken) regHitEvents 2
    let s := report s 0xA0 0 (unitCode s 12 b) unit
    (treePorts s x.def_).foldl (fun s p =>
      if fromPort = some p then s else postPort s 0x06 p (knotBytes b 3 false tick)) s

/-- Break every barrier that satisfies a test. -/
def breakWhere (s : State) (p : Barrier → Bool) (unit : Nat) : State :=
  (s.hit.barriers.filter fun e => e.2.def_.defined && p e.2).foldl (fun s e => breakBarrier s e.1 unit s.tsq.tick none) s

/-- Reset a barrier: every counter, mask and mark, and the control cores' latches that name it (R439). -/
def resetBarrier (s : State) (b : Nat) : State :=
  let x := barGet s b
  let s := barPut s b { x with nodes := [], broken := false, resetTick := s.tsq.tick }
  let s := { s with hit := { s.hit with
    arrivals := s.hit.arrivals.filter (fun a => a.1 ≠ b)
    releases := s.hit.releases.filter (fun a => a.1 ≠ b) } }
  (List.range 20).foldl (fun s k =>
    let t := hartAt s (17408 + k)
    match t.kLatch with
    | some (c, _) => if c = b then hartSet s (17408 + k) { t with kLatch := none } else s
    | none => s) s

/-- Map a core mask to the physical cores that hold its logical numbers (R431). -/
def mapCores (s : State) (mask : Nat) : List Nat :=
  (List.range 256).filterMap fun l => if bit mask l then physOf s l else none

/-- Recompute every defined barrier's cores and targets after a renumbering (R431). -/
def remapBarriers (s : State) : State :=
  s.hit.barriers.foldl (fun s e =>
    let x := barGet s e.1
    if x.def_.defined then barPut s e.1 { x with pcores := mapCores s x.def_.coreMask } else s) s

/-- The switch stage's resets: redefinitions take effect, and barriers broken in this tick, or in the one before when they
span devices, are reset (R431, R439). -/
def barrierSwitch (s : State) : State :=
  s.hit.barriers.foldl (fun s e =>
    let x := barGet s e.1
    match x.pendingDef with
    | some d => resetBarrier (barPut s e.1 { x with def_ := d, pendingDef := none, pcores := mapCores s d.coreMask }) e.1
    | none =>
      if x.broken && (!x.def_.cross || decide (x.brokenTick + 1 ≤ s.tsq.tick)) then resetBarrier s e.1 else s) s

/-- Read a barrier definition entry (R430). CHILD_PORTS is kept as written, and counts only where CROSS is set. -/
def readDef (d : List Byte) : BarrierDef :=
  ⟨fld d 0 1 == 1, fld d 1 1, bit (fld d 2 2) 0, fld d 4 4 % 2 ^ 20, fld d 8 2, fld d 0xA 2 % 16, fld d 0xC 2, fld d 0x20 32⟩

/-- BARRIER_DEFINE: a control core writes a 64-byte definition entry, which takes effect at the next switch stage
(11 R430, R431). -/
def execBarrierDefine (k barrier : Nat) (entry : List Byte) (s : State) : Out :=
  powered s <|
  if 20 ≤ k ∨ 1024 ≤ barrier ∨ entry.length ≠ 64 then .next s
  else .next (barPut s barrier { barGet s barrier with pendingDef := some (readDef entry) })

/-- Whether a barrier takes KNOT messages here: DEFINED with CROSS (13 R517). -/
def knotOpen (s : State) (b : Nat) : Bool := (barGet s b).def_.defined && (barGet s b).def_.cross

/-- KNOT_ARRIVE: a child device's arrival reaches the device root (13 R517; 11 R436). -/
def execKnotArrive (src tag : Nat) (body : List Byte) (s : State) : Out :=
  let s := takeMsg s src tag 0x06
  let b := fld body 0 2 % 1024
  if knotOpen s b then .next (nodeArrival s b 500 (bit (fld body 3 1) 0)) else .next s

/-- KNOT_RELEASE: a release from the parent device goes down this device's tree (13 R517; 11 R436). -/
def execKnotRelease (src tag : Nat) (body : List Byte) (s : State) : Out :=
  let s := takeMsg s src tag 0x06
  let b := fld body 0 2 % 1024
  if knotOpen s b && !(barGet s b).broken then .next (releaseRoot s b (bit (fld body 3 1) 0)) else .next s

/-- The port of a barrier's tree whose neighbour is a device. -/
def portToward (s : State) (d : BarrierDef) (dev : Nat) : Option Nat :=
  (treePorts s d).find? fun p => fget s (regHwsPortState p) 17 8 == dev

/-- KNOT_BREAK: a break notice breaks the barrier here and goes on once over the other tree links (13 R517; 11 R438). -/
def execKnotBreak (src tag : Nat) (body : List Byte) (s : State) : Out :=
  let s := takeMsg s src tag 0x06
  let b := fld body 0 2 % 1024
  if knotOpen s b then .next (breakBarrier s b (devCode src) (fld body 8 8) (portToward s (barGet s b).def_ src)) else .next s

end Sys2Proof.Machine
end

