-- ==== Sys2Proof/Machine/Codeword.lean ====
section
/-! DEFINITION. The outer code of a channel, RS(72,64) over GF(2^8), the place of a controller row in the stack, and the test patterns (12 R451,
R461, R462, R476). -/

namespace Sys2Proof.Machine

/-! ### The field GF(2^8) with x^8 + x^4 + x^3 + x^2 + 1 (R461) -/

/-- An element times α = 0x02. -/
def gfTwice (a : Nat) : Nat := if 128 ≤ a then Nat.xor (2 * a) 0x11D else 2 * a

/-- The product of two elements, over the bits of the first from the highest down. -/
def gfMul (a b : Nat) : Nat := ((List.range 8).reverse).foldl (fun acc i => if bit a i then Nat.xor (gfTwice acc) b else gfTwice acc) 0

/-- α to a power. -/
def gfExp (n : Nat) : Nat := (List.range n).foldl (fun a _ => gfTwice a) 1

/-- The inverse of an element other than 0, its power 254. -/
def gfInv (a : Nat) : Nat := ((List.range 6).foldl (fun (p : Nat × Nat) _ => let q := gfMul p.1 p.1; (q, gfMul p.2 q)) (gfMul a a, gfMul a a)).2

/-- The value of a polynomial, its coefficients from the highest down. -/
def gfEval (p : List Nat) (x : Nat) : Nat := p.foldl (fun acc c => Nat.xor (gfMul acc x) c) 0

/-! ### Encoding (R461) -/

/-- The generator polynomial (x − α^0) … (x − α^7) below its leading 1, from x^7 down. -/
def rsGen : List Nat :=
  let times := fun (g : List Nat) (r : Nat) => List.zipWith Nat.xor (g ++ [0]) (0 :: g.map (gfMul r))
  ((List.range 8).foldl (fun g i => times g (gfExp i)) [1]).drop 1

/-- The 8 check bytes of a unit: the remainder of its polynomial times x^8 by the generator. -/
def rsCheck (data : List Nat) : List Nat :=
  data.foldl (fun r d => let f := Nat.xor d (r.headD 0); List.zipWith (fun a g => Nat.xor a (gfMul f g)) (r.drop 1 ++ [0]) rsGen) (List.replicate 8 0)

/-! ### Decoding (R462) -/

/-- The eight syndromes of a codeword as read: its values at α^0 … α^7. -/
def rsSyndromes (w : List Nat) : List Nat := (List.range 8).map fun i => gfEval w (gfExp i)

/-- The shortest recurrence that gives the syndromes, from its constant term up, and its length. -/
def rsLocator (syn : List Nat) : List Nat × Nat :=
  let start : List Nat × List Nat × Nat × Nat := ([1], [0, 1], 0, 1)
  let r := (List.range 8).foldl (fun (c, b, l, last) n =>
    let d := (List.range (l + 1)).foldl (fun acc i => Nat.xor acc (gfMul (c.getD i 0) (syn.getD (n - i) 0))) 0
    if d = 0 then (c, 0 :: b, l, last)
    else
      let f := gfMul d (gfInv last)
      let next := (List.range (max c.length b.length)).map fun i => Nat.xor (c.getD i 0) (gfMul f (b.getD i 0))
      if 2 * l ≤ n then (next, 0 :: c, n + 1 - l, d) else (next, 0 :: b, l, last)) start
  (r.1, r.2.2.1)

/-- A codeword with the errors that a locator places taken out of it; byte j stands at x^(71 − j). -/
def rsRepair (w syn loc : List Nat) : List Nat × Nat :=
  let omega := (List.range 8).map fun k => (List.range (k + 1)).foldl (fun acc i => Nat.xor acc (gfMul (loc.getD i 0) (syn.getD (k - i) 0))) 0
  let fixed := w.zipIdx.map fun (b, j) =>
    let x := gfExp (71 - j)
    let y := gfInv x
    if gfEval loc.reverse y ≠ 0 then (b, 0)
    else
      let slope := (List.range 4).foldl (fun acc k => if k % 2 = 0 then Nat.xor acc (gfMul (loc.getD (k + 1) 0) ((List.range k).foldl (fun p _ => gfMul p y) 1)) else acc) 0
      (Nat.xor b (gfMul x (gfMul (gfEval omega.reverse y) (gfInv slope))), 1)
  (fixed.map (·.1), (fixed.map (·.2)).foldl (· + ·) 0)

/-- What the decoder answers of a codeword as read: the unit and the bytes corrected, or nothing where it reports the unit uncorrectable. A codeword
within 4 bytes of what was read is taken for it, whether or not it is the one written (R462). -/
def rsDecode (w : List Nat) : Option (List Nat × Nat) :=
  let syn := rsSyndromes w
  if syn.all (· == 0) then some (w.take 64, 0)
  else
    let (loc, n) := rsLocator syn
    if 4 < n then none
    else
      let (v, k) := rsRepair w syn loc
      if k == n && (rsSyndromes v).all (· == 0) then some (v.take 64, n) else none

/-- Put byte errors into a codeword: byte index and the bits that differ. -/
def addErrors (w : List Nat) (err : List (Nat × Nat)) : List Nat := w.zipIdx.map fun (b, j) => err.foldl (fun b e => if e.1 = j then Nat.xor b (e.2 % 256) else b) b

/-! ### Places and patterns (R451, R476) -/

/-- Where the controller places a row of a channel: pseudo-channel, bank group, bank, stack id, DRAM row (R451). -/
def rowPlace (r : Nat) : Nat × Nat × Nat × Nat × Nat :=
  (Nat.xor (Nat.xor (r % 2) (r / 2 ^ 7 % 2)) (r / 2 ^ 14 % 2), Nat.xor (bits r 2 1) (bits r 9 8), Nat.xor (bits r 4 3) (bits r 11 10), r / 32 % 3, r / 32 / 3)

/-- The next state of a PRBS31 generator, x^31 + x^28 + 1 (PRESUMED, log 62). -/
def prbsNext (x : Nat) : Nat := x * 2 % 2 ^ 31 + b2n (Bool.xor (bit x 30) (bit x 27))

/-- The bit a lane carries in a channel's 8-byte word n, from the lane's seed (R476). -/
def prbsBit (seed n : Nat) : Nat := (List.range n).foldl (fun x _ => prbsNext x) seed / 2 ^ 30 % 2

/-- The 8-byte word of a test pattern at a channel-local offset (R476). -/
def patternWord (c pattern o : Nat) : Nat :=
  match pattern with
  | 0 => (List.range 64).foldl (fun w lane => w + prbsBit (Config.prbsSeed c lane) (o / 8) * 2 ^ lane) 0
  | 1 => o
  | 2 => if (rowPlace (o / 1024)).2.2.2.2 % 2 = 0 then 0x5555555555555555 else 0xAAAAAAAAAAAAAAAA
  | _ => 2 ^ (o / 8 % 64)

/-- The 64 bytes of a unit under a test pattern. -/
def patternUnit (c pattern u : Nat) : List Byte := (List.range 8).flatMap fun k => natLe 8 (patternWord c pattern (64 * u + 8 * k))

end Sys2Proof.Machine
end

