-- ==== Sys2Proof/Machine/Repair.lean ====
section
/-! DEFINITION. What a channel's controller does as it decodes: row failures and spares, fenced groups, corrected and uncorrectable reads, and
the cause a task's read ends with (12 R461-R467, R472). -/

namespace Sys2Proof.Machine

/-- A unit enters grey for a fault of its own (15 R569, R570). -/
def greyUnit (s : State) (i kind : Nat) : State :=
  let s := setUnit s i .grey kind
  rdyPut s i { rdyGet s i with ownFault := true }

/-- A channel goes GREY for a reason of 15 R599: 1 thermal, 2 timeouts, 3 corrections. One that is GREY already takes the reason as one more of its
own: `thermal` waits for a cooler reading, `worn` for retraining, and `silent` answers no reads (R472, R474). -/
def greyChan (s : State) (c why : Nat) : State :=
  let st := rdyState s (idxChan c)
  if st == .fenced then s
  else
    let ch := chanGet s c
    let s := if why = 1 ∧ !ch.thermal then event s (regMemChEvents c) 4 else s
    let s := if st == .grey then rdyPut s (idxChan c) { rdyGet s (idxChan c) with ownFault := true } else greyUnit s (idxChan c) 0x56
    let s := chanPut s c { ch with thermal := ch.thermal || why == 1, worn := ch.worn || why != 1, silent := ch.silent || why == 2 }
    if st == .grey then s else report s 0x56 3 (unitCode s 4 c) why

/-! ### Row failures (R466, R467) -/

/-- Base of the 192 MiB span of device addresses that a row group of the interleaved region holds a part of (R467). -/
def groupSpan (g : Nat) : Nat := g * (192 * 2 ^ 20)

/-- Fence a row group (R467). -/
def fenceGroup (s : State) (c g : Nat) : State :=
  let ch := chanGet s c
  if ch.fenced.contains g then s
  else
    let s := chanPut s c { ch with fenced := ch.fenced ++ [g] }
    let s := event s (regMemChEvents c) 3
    let inter := decide (g * 2 ^ 20 < 2 ^ 31 - localBytes s)
    (reportFull s 0x55 3 6 (unitCode s 5 (c * 2048 + g)) (unitCode s 4 c) inter (if inter then groupSpan g else 0)).2

/-- Units of a controller row that read detected-uncorrectable, as a RAW field (R466). -/
def rawOf (ch : Chan) (r : Nat) : Nat := ch.bad.foldl (fun m u => if u / 16 = r then orBit m (u % 16) else m) 0

/-- Copy a failed row into a spare: its entry is made, to be activated when the copy is done (R466). -/
def useSpare (s : State) (c r uses : Nat) : State :=
  let ch := chanGet s c
  let e : RemapEntry := ⟨uses, ch.sparesUsed, rawOf ch r, r, false⟩
  let remap := if ch.remap.any (fun x => x.row == r) then ch.remap.map (fun x => if x.row = r then e else x)
    else ch.remap ++ [e]
  chanPut s c { ch with remap := remap, sparesUsed := ch.sparesUsed + 1 }

/-- A controller row fails (R466, R467). -/
def rowFailed (s : State) (c r : Nat) : State :=
  let ch := chanGet s c
  let uses := match ch.remap.find? (fun e => e.row == r) with
    | some e => e.uses
    | none => 0
  let free := decide (ch.sparesUsed < 1024) && (decide (0 < uses) || decide (ch.remap.length < 1024))
  let g := r / 1024
  if !free then fenceGroup s c g
  else if uses < 2 && !ch.fenced.contains g then
    let s := event (useSpare s c r (uses + 1)) (regMemChEvents c) 2
    report s 0x54 0 (unitCode s 4 c) (r + 2 ^ 32 * ch.sparesUsed)
  else useSpare (fenceGroup s c g) c r 3

/-! ### Decoding (R461-R465) -/

/-- A unit is read with 1 to 4 byte errors and corrected. Its row fails when its corrections reach CE_LIMIT, once in a scrub pass, at whose end its count
restarts (R463, R465, R466). -/
def corrected (s : State) (c u n : Nat) : State :=
  let s := chanErr (bump1 s (regMemChCorr c)) c 1 n (u * 64)
  let s := report s 0x50 0 (unitCode s 4 c) (rget s (regMemChLastErr c))
  let ch := chanGet s c
  let r := u / 16
  let k := mget (fun _ => 0) ch.rowCorr r + 1
  let lim := fget s regMemCfg 31 24
  let fails := decide (3 ≤ n) || k == lim
  let s := chanPut s c { ch with corrTick := ch.corrTick + 1, rowCorr := mset (fun _ => 0) ch.rowCorr r k }
  let s := if fails then rowFailed s c r else s
  if 1024 < ch.corrTick + 1 then greyChan s c 3 else s

/-- Whether a unit's row marks it as copied raw (R466). -/
def rawMarked (ch : Chan) (u : Nat) : Bool := ch.remap.any fun e => e.row == u / 16 && bit e.raw (u % 16)

/-- A unit is read detected-uncorrectable: it is counted and recorded, and its row fails unless the unit is marked RAW
(R464, R466). -/
def uncorrected (s : State) (c u : Nat) (rec : Bool) : State :=
  let s := event (chanErr (bump1 s (regMemChUncorr c)) c 2 0 (u * 64)) (regMemChEvents c) 0
  let s := if rec then report s 0x51 1 (unitCode s 4 c) (u * 64) else s
  let ch := chanGet s c
  if rawMarked ch u then s
  else rowFailed (chanPut s c { ch with bad := if ch.bad.contains u then ch.bad else ch.bad ++ [u] }) c (u / 16)

/-- The units a controller reads of a channel, decoded from the bytes held under a pattern of byte errors: whether the unit is uncorrectable, and
the bytes as delivered and written back, less those a write-combining entry masks (R453, R461-R463). A unit that already reads uncorrectable does so
again. -/
def decodeUnit (s : State) (c u : Nat) (err : List (Nat × Nat)) (rec : Bool) : Bool × State :=
  let ch := chanGet s c
  if ch.bad.contains u then (true, uncorrected s c u rec)
  else
    let a := addrOf s c (64 * u)
    let data := (readBytes s a 64).map (·.toNat)
    match rsDecode (addErrors (data ++ rsCheck data) err) with
    | none => (true, uncorrected s c u rec)
    | some (d, n) =>
      let mask := match ch.wcb.find? (fun e => e.unit == u) with
        | some e => e.mask
        | none => 0
      let now := d.zipIdx.map fun (b, j) => if bit mask j then data.getD j 0 else b
      let s := if now = data then s else putBytes s a (now.map (BitVec.ofNat 8))
      (false, if n = 0 then s else corrected s c u n)

/-- Error reports of the on-die code are counted (R461). -/
def innerReports (s : State) (c n : Nat) : State := bump s (regMemChInner c) n

/-- The cause a demand read of a task ends with, where the channels under it allow none: a channel in GREY serves no task read, whatever its units hold
(R464, R472, R474). DESIGN CHOICE: a read of the slow tier
while the Rugon die or its entry 0x3B is GREY or TRAINING is served; the spec names no cause for it (01 R32; 14; 15 R587). -/
def readCause (s : State) (a n : Nat) : Option Nat :=
  match space a with
  | .hbm =>
    let cs := ((List.range ((a % 256 + n + 255) / 256)).map fun k => (chanOf s (a / 256 * 256 + 256 * k)).1).eraseDups
    if cs.any (fun c => (chanGet s c).lost) then some 5
    else if cs.any (fun c => greyAt s (idxChan c)) then some 0xD
    else if unitBad s a n then some 5
    else none
  | _ => none

/-- The units under `n` bytes at an HBM address that read detected-uncorrectable, as (channel, unit). -/
def badUnits (s : State) (a n : Nat) : List (Nat × Nat) :=
  match space a with
  | .hbm => ((List.range (n / 64 + 2)).filter fun k => decide (a / 64 * 64 + 64 * k < a + n)).filterMap fun k =>
      let (c, o) := chanOf s (a / 64 * 64 + 64 * k)
      if (chanGet s c).bad.contains (o / 64) then some (c, o / 64) else none
  | _ => []

/-- A read of `n` bytes meets uncorrectable units: each is counted and recorded (12 R464). -/
def badRead (s : State) (a n : Nat) : State := (badUnits s a n).foldl (fun s u => uncorrected s u.1 u.2 true) s

/-- A demand read that starts at an address and ends at the first uncorrectable unit it meets (12 R464). -/
def badFirst (s : State) (a : Nat) : State := ((badUnits s a 65536).take 1).foldl (fun s u => uncorrected s u.1 u.2 true) s

end Sys2Proof.Machine
end

