-- ==== Sys2Proof/Machine/Barrel.lean ====
section
/-! DEFINITION. A core's command queue and its strands: completing and cancelling commands, ending a task's attempt,
faults, waits, and the issue of one instruction (03 R92-R97, R106-R111, R126, R127; 15 R584). -/

namespace Sys2Proof.Machine

/-! ### Cores and their command queues -/

/-- A matrix engine with both sets empty (06 R238). -/
def matReset : MatSt := ⟨[], [], false, 0, none, 0, 0, 0, 0, 0, 0, 0, [], 0, 0, 0, 0, 0, 0, false⟩

/-- A core that has done nothing yet. -/
def coreReset : CoreSt := ⟨1, [], [], 63, matReset, [], 0, 0, false, true, 0, 0, 0, 0⟩

/-- A physical core. -/
def coreGet (s : State) (p : Nat) : CoreSt := mget (fun _ => coreReset) s.cores p

/-- Put a physical core. -/
def corePut (s : State) (p : Nat) (c : CoreSt) : State := { s with cores := mset (fun _ => coreReset) s.cores p c }

/-- A command of a core by its id. -/
def cmdGet (s : State) (p id : Nat) : Option Cmd := (coreGet s p).cmds.find? fun c => c.id == id

/-- Change a command of a core. -/
def cmdMod (s : State) (p id : Nat) (f : Cmd → Cmd) : State :=
  let c := coreGet s p
  corePut s p { c with cmds := c.cmds.map fun x => if x.id = id then f x else x }

/-- Whether an id is outstanding on a core (R108). -/
def outstanding (s : State) (p id : Nat) : Bool := (coreGet s p).cmds.any fun c => c.id == id

/-- Whether a command is one of the gather engine's (R109). -/
def isGather (k : CmdKind) : Bool := k == .gather || k == .lookup || k == .send

/-- Whether a command's dependency is satisfied (R107). -/
def depMet (s : State) (p : Nat) (c : Cmd) : Bool := c.dep == 0 || !outstanding s p c.dep

/-- The command an engine would start next: the first of its queue that has not started, where its dependency is
satisfied (R109, R756). -/
def nextCmd (s : State) (p : Nat) (mine : CmdKind → Bool) : Option Cmd :=
  match (coreGet s p).cmds.find? (fun c => mine c.kind && !c.running) with
  | some c => if depMet s p c then some c else none
  | none => none

/-- Commands of an engine that are running. -/
def runningOf (s : State) (p : Nat) (mine : CmdKind → Bool) : List Cmd :=
  (coreGet s p).cmds.filter fun c => mine c.kind && c.running

/-- Byte writes of a command into device memory, in order. -/
def landWrites (s : State) (w : List Host.Cell) : State := w.foldl (fun s b => memWrite s b.1 [b.2]) s

/-- Bytes at an address as writes. -/
def writesAt (a : Nat) (l : List Byte) : List Host.Cell := l.zipIdx.map fun (b, i) => (a + i, b)

/-- Counts of a command added to their registers. -/
def addCounts (s : State) (cs : List (Nat × Nat)) : State := cs.foldl (fun s c => bump s c.1 c.2) s

/-- A command is complete: it leaves the queue, its place holds its id and status, its strand's drain list its status
(R102, R108, R110). -/
def complete (s : State) (p : Nat) (c : Cmd) (status : Nat) : State :=
  let k := coreGet s p
  let s := corePut s p { k with
    cmds := k.cmds.filter (fun x => x.id ≠ c.id)
    places := pput k.places (c.id % 4096) (c.id, status) }
  let n := 64 * p + c.hart
  let t := hartAt s n
  if t.task = c.task then
    hartSet s n { t with drain := t.drain.map fun d => if d.1 = c.id ∧ d.2 = none then (d.1, some status) else d }
  else s

/-- Flags of a completed command ORed into FFLAGS of its strand, while the strand's task still runs (05 R219; 06 R255). -/
def orStrandFlags (s : State) (p : Nat) (c : Cmd) (f : Nat) : State :=
  let n := 64 * p + c.hart
  let t := hartAt s n
  if t.task = c.task ∧ t.task ≠ 0 then hartSet s n { t with fflags := t.fflags ||| BitVec.ofNat 5 f } else s

/-- Cancelled writes: each aligned 4-byte unit holds its old value or the one written, whole, by a free value (R111). -/
def cancelWrites (s : State) (w : List Host.Cell) : State :=
  ((w.map fun b => b.1 / 4).eraseDups).foldl (fun s u =>
    let (n, s) := draw s
    if Config.cancelPick n then landWrites s (w.filter fun b => b.1 / 4 = u) else s) s

/-- Where a command writes its elapsed cycles: the report's last word of a chain, or of a matrix command that has a report (05 R218; 06
R254). -/
def cyclesAt (p : Nat) (c : Cmd) : Option Nat :=
  match c.kind with
  | .chain => some (spBase p + fld c.desc 0x34 4 + 12)
  | .mat => if fld c.desc 0x38 4 = 0xFFFFFFFF then none else some (spBase p + fld c.desc 0x38 4 + 12)
  | _ => none

/-- The counts of a command that may be added although it is cancelled: a matrix command adds none, a chain neither itself nor its out-of-range
lanes (05 R219, R220, R222; 06 R255). -/
def partCounts (p : Nat) (c : Cmd) : List (Nat × Nat) :=
  match c.kind with
  | .mat => []
  | .chain => c.counts.filter fun k => k.1 != regCorVecChains p && k.1 != regCorVecRange p
  | _ => c.counts

/-- What a cancelled command leaves in its core's scratchpad and counters: each unit old or new, its elapsed cycles old or a free value, and of
the counts of its work a free part, since the rules do not say how far it had come (R111; DESIGN CHOICE, log 8). -/
def cancelOne (s : State) (p : Nat) (c : Cmd) : State :=
  let s := cancelWrites s c.writes
  let s := if !c.running || c.status != 0 then s else match cyclesAt p c with
    | some a => let (n, s) := draw s; cancelWrites s (writesAt a (natLe 4 (Config.freeNat n % 2 ^ 32)))
    | none => s
  (partCounts p c).foldl (fun s k => let (n, s) := draw s; bump s k.1 (Config.freeNat n % (k.2 + 1))) s

/-- Cancel every outstanding command of a task on a core; late answers to their remote requests will find no request
(R111; 13 R510). -/
def cancelCmds (s : State) (p task : Nat) : State :=
  let k := coreGet s p
  let gone := k.cmds.filter fun c => c.task == task
  let s := corePut s p { k with
    cmds := k.cmds.filter (fun c => c.task ≠ task)
    ahead := k.ahead.filter (fun a => a.task ≠ task) }
  let s := { s with hws := { s.hws with
    remotes := s.hws.remotes.filter fun r => !(r.hart.isNone && r.core == p && gone.any fun c => c.id == r.cmd) } }
  gone.foldl (fun s c => cancelOne s p c) s

/-- The matrix engine at the end of a task on a strand: its open accumulation is dropped, and its drain stops unless the
task ended by TEND (06 R240). -/
def matEnd (s : State) (p strand : Nat) (gone : List Nat) (tend : Bool) : State :=
  let k := coreGet s p
  let m := k.mat
  let m := if m.open_ ∧ m.owner = strand then
      { m with active := [], open_ := false, owner := 0, terms := 0, passes := 0, splits := 0, partSlots := 0, spoilt := false }
    else m
  let m := match m.draining with
    | some id => if !tend && gone.contains id then { m with draining := none, shadow := [], drainSlots := 0 } else m
    | none => m
  corePut s p { k with mat := m }

/-! ### Ending an attempt (10 R397; 03 R126) -/

/-- A task held by the scheduler. -/
def taskGet (s : State) (id : Nat) : Option Task := pfind s.sch.tasks id

/-- Put a task. -/
def taskPut (s : State) (id : Nat) (t : Task) : State := { s with sch := { s.sch with tasks := pput s.sch.tasks id t } }

/-- Whether a cause is one COR_FAULT_CNT counts: those of R126, R325 and R472, not R401's (R126). -/
def countedCause (c : Nat) : Bool := decide (1 ≤ c ∧ c ≤ 9) || c == 0xD

/-- The three steps of a fault, as far as its cause takes them: the counters of the core, and the record (R126, R401). -/
def faultSteps (s : State) (p strand task status cause addr : Nat) : State :=
  let s := if status = 3 ∧ countedCause cause then
      let s := bump1 s (regCorFaultCnt p)
      let s := rset s (regCorLastFault p) (cause % 256 * 2 ^ 56 + strand % 64 * 2 ^ 50 + addr % 2 ^ 48)
      let s := event s (regCorEvents p) 0
      if cause = 7 then event s (regCorEvents p) 1 else s
    else s
  if cause = 0 then s else report s (0x100 + cause) 1 (unitCode s 2 p) task

/-- An attempt in flight ends: its commands are cancelled unless it ended by TEND, its waiter departs, the strand is IDLE,
the counters rise and the outcome goes to the commit arbiter (10 R397, R398; R126). DESIGN CHOICE: COR_TASK_CNT counts every attempt that ends, one
that is to run again too (R138 says tasks ended; log 12). -/
def endTask (s : State) (id status cause result addr : Nat) : State :=
  match taskGet s id with
  | none => s
  | some t =>
    if t.state ≠ .running ∧ t.state ≠ .ending then s
    else
      let n := 64 * t.pcore + t.strand
      let gone := ((coreGet s t.pcore).cmds.filter fun c => c.task == id).map (·.id)
      let tend := status == 0
      let s := cancelCmds s t.pcore id
      let s := matEnd s t.pcore t.strand gone tend
      let s := departLatch s n
      let s := hartSet s n hartReset
      let s := taskPut s id { t with state := .ended, endAt := s.now, status := status, cause := cause, result := result }
      let s := bump1 s (regCorTaskCnt t.pcore)
      let c := telGet s t.lcore
      let s := telPut s t.lcore { c with ended := c.ended + 1, late := c.late + b2n (status == 2) }
      let s := if status = 2 then bump1 s regSchLate else s
      let s := faultSteps s t.pcore t.strand id status cause addr
      { s with sch := { s.sch with arb := s.sch.arb ++ [.final id] } }

/-- Whether device time stands at the apply point of the tick while its commands are still to come (R97). -/
def atApply (s : State) : Bool := s.tsq.running && decide (applyAt s ≤ s.now) && !inApply s

/-- An end that arises from the task itself: a fault, a wait deadline or TEND. One that falls at the apply point loses to the cut-off, and the
task ends LATE (R97). A fence or a GREY in that same cycle is the outer level: its command comes before APPLY_POINT (DESIGN CHOICE, log 41). -/
def endOwn (s : State) (id status cause result addr : Nat) : State :=
  if atApply s then endTask s id 2 0 0 0 else endTask s id status cause result addr

/-- The program counter of a task's strand (R140). -/
def taskPc (s : State) (id : Nat) : Nat :=
  match taskGet s id with
  | some t => (hartAt s (64 * t.pcore + t.strand)).pc.toNat
  | none => 0

/-- A control core that has run nothing yet. -/
def ctrlReset : CtrlSt := ⟨[], [], 0, []⟩

/-- A control core's state beside its thread. -/
def ctrlGet (s : State) (k : Nat) : CtrlSt := mget (fun _ => ctrlReset) s.ctrls k

/-- Put a control core. -/
def ctrlPut (s : State) (k : Nat) (c : CtrlSt) : State := { s with ctrls := mset (fun _ => ctrlReset) s.ctrls k c }

/-- A control core faults: it stops, the fault is recorded, and it restarts at the next T+0, or is FENCED at the third
fault within 1,000 ticks (15 R584). -/
def ctrlFault (s : State) (k cause : Nat) : State :=
  let n := 17408 + k
  let pc := (hartAt s n).pc.toNat
  let s := departLatch s n
  let s := hartSet s n hartReset
  let s := report s 0x14 4 (unitCode s 3 k) (cause % 256 + 256 * pc)
  let c := ctrlGet s k
  let ft := c.faultTicks.filter (fun t => decide (s.tsq.tick < t + 1000)) ++ [s.tsq.tick]
  if ft.length < 3 then ctrlPut s k { c with faultTicks := ft, restart := 1 }
  else
    let s := ctrlPut s k { c with faultTicks := ft, restart := 0 }
    let s := bump1 (setUnit s (idxCtrl k) .fenced 0x15) regFltFenced
    let s := report s 0x15 2 (unitCode s 3 k) 0
    breakWhere s (fun x => bit x.def_.ctrl k) (unitCode s 3 k)

/-- A demand fault of an instruction: a strand's task ends ABORTED with the cause, a control core faults (R96, R126; 15
R584). -/
def demandFault (s : State) (h : Hart) (cause addr : Nat) : State :=
  match h with
  | .strand _ _ => endOwn s (hart s h).task 3 cause 0 addr
  | .ctrl k => ctrlFault s k.val cause

/-- The fault of an undefined or malformed instruction; its address is the program counter (R102, R140). -/
def illegal (s : State) (h : Hart) : State := demandFault s h 1 (hart s h).pc.toNat

/-! ### Waits (R96) -/

/-- A strand's wait deadline: 100 µs from now, or the apply point if that is earlier. -/
def waitDeadline (s : State) : Nat := if s.tsq.running then min (s.now + 100000) (applyAt s) else s.now + 100000

/-- The strand enters WAIT or SPIN; the instruction is issued again when the wait has ended. -/
def enterWait (s : State) (h : Hart) (st : StrandState) (w : WaitFor) : State :=
  let t := hart s h
  putHart s h { t with st := st, wait := w, deadline := waitDeadline s }

/-- The strand is READY again. -/
def ready (s : State) (h : Hart) : State :=
  let t := hart s h
  putHart s h { t with st := .ready, wait := .nothing, deadline := 0 }

/-! ### Issue (R92, R94, R95) -/

/-- The turns that SPIN strands of a core have had since the strand issued last, when the turn comes to strand `n`: a SPIN strand is chosen as
a READY one is, so each that the round-robin passes between the two has issued its check again (R92, R98). -/
def spinTurns (s : State) (core n : Nat) : Nat :=
  let last := (coreGet s core).lastStrand
  ((List.range ((n + 63 - last) % 64)).filter fun k => (hartAt s (64 * core + (last + 1 + k) % 64)).st == .spin).length

/-- Strand `n` of a core takes a turn: it is the strand issued last, and COR_ISSUE_CNT counts its instruction and the reissues of the SPIN
strands passed on the way to it (R92, R98, R137). A READY strand passed on the way is one whose previous instruction has not left the
pipeline: the model has no pipeline, and the sender of the command names the strand whose turn it is (DESIGN CHOICE, log 3, 57). -/
def takeTurn (s : State) (core n : Nat) : State :=
  let k := coreGet s core
  bump (corePut s core { k with lastStrand := n }) (regCorIssueCnt core) (1 + spinTurns s core n)

/-- The command of an instruction takes place only where the word at a strand's program counter spells it: the 8 bytes that the strand fetches are
decoded by 03 R99-R102, and a word of no instruction spells ILLEGAL. A fetch that fails is `issue`'s. A control core's instructions lie in no memory of
the model, and each takes place as the command gives it (DESIGN CHOICE, log 3). -/
def spelled (c : Instr) (h : Hart) (s : State) (o : Out) : Out :=
  match h with
  | .ctrl _ => o
  | .strand _ _ =>
    let a := (hart s h).pc.toNat
    if reachable s a && (readCause s a 8).isNone && decide (decodeStrand h (readNat s a 8) ≠ c) then .next s else o

/-- An instruction of a hart takes its turn: nothing happens unless the hart is READY, or while a control core is GREY (15 R569); the issue is counted; a fetch from
an address no memory backs faults ADDR, one from an uncorrectable unit MEM_UNCORR and one from a GREY channel CHANNEL_GREY; a guarded-off instruction only
moves the program counter on (R94, R95, R126, R137). -/
def issue (s : State) (h : Hart) (g : Guard) (f : State → State) : Out :=
  if (hart s h).st ≠ .ready then .next s
  else match h with
    | .ctrl k => if rdyState s (idxCtrl k) == .grey then .next s else .next (if guardOn s h g then f s else nextPc s h)
    | .strand c n =>
      let a := (hart s h).pc.toNat
      let s := takeTurn s c.val n.val
      if !reachable s a then .next (demandFault s h 3 a)
      else match readCause s a 8 with
        | some k => .next (demandFault (badRead s a 8) h k a)
        | none => .next (if guardOn s h g then f s else nextPc s h)

/-- A result goes to rd and the program counter moves on. -/
def retire (s : State) (h : Hart) (rd : Reg) (v : Word) : State := nextPc (setReg s h rd v) h

/-- The shape of an instruction that only computes a register from the state. -/
def compute (s : State) (h : Hart) (g : Guard) (rd : Reg) (f : State → Word) : Out :=
  issue s h g fun s => retire s h rd (f s)

/-- ILLEGAL: an undefined or malformed instruction ends the task with cause ILLEGAL (03 R102, R126). -/
def execIllegal (h : Hart) (g : Guard) (s : State) : Out :=
  spelled (.illegal h g) h s <| issue s h g fun s => illegal s h

/-- Whether a control core may not run an instruction: class 0x8, SPAWN and TEND raise ILLEGAL there (R129). -/
def strandOnly (s : State) (h : Hart) (f : Nat → State → State) : State :=
  match h with
  | .strand c _ => f c.val s
  | .ctrl _ => illegal s h

end Sys2Proof.Machine
end

