-- ==== Sys2Proof/Machine/Alu.lean ====
section
/-! DEFINITION. Integer arithmetic, comparisons, predicates and constants: classes 0x0, 0x1, 0x3 and 0x7 (03 R101-R103). -/

namespace Sys2Proof.Machine

/-- Shape of a two-operand integer instruction: rd ← f x y. -/
def alu2 (h : Hart) (g : Guard) (rd rs1 rs2 : Reg) (s : State) (f : Word → Word → Word) : Out :=
  compute s h g rd fun s => f (reg s h rs1) (reg s h rs2)

/-- Shape of an integer instruction with an immediate: rd ← f x i. -/
def alu1i (h : Hart) (g : Guard) (rd rs1 : Reg) (i : Word) (s : State) (f : Word → Word → Word) : Out :=
  compute s h g rd fun s => f (reg s h rs1) i

/-- Shape of a compare: pd ← f x y. -/
def compare (h : Hart) (g : Guard) (pd : PredReg) (rs1 : Reg) (y : Operand) (s : State) (f : Word → Word → Bool) : Out :=
  issue s h g fun s => nextPc (setPred s h pd (f (reg s h rs1) (operand s h y))) h

/-- Shape of a combination of predicates: pd ← f a b. -/
def combinePreds (h : Hart) (g : Guard) (pd pa pb : PredReg) (s : State) (f : Bool → Bool → Bool) : Out :=
  issue s h g fun s => nextPc (setPred s h pd (f (pred s h pa) (pred s h pb))) h

/-- High 64 bits of the unsigned product. -/
def mulHighU (x y : Word) : Word := BitVec.ofNat 64 (x.toNat * y.toNat / 2 ^ 64)

/-- High 64 bits of the signed product. -/
def mulHighS (x y : Word) : Word := BitVec.ofInt 64 (x.toInt * y.toInt / 2 ^ 64)

/-- Unsigned quotient; all ones for a zero divisor (R103). -/
def divU (x y : Word) : Word := if y = 0 then -1 else x / y

/-- Unsigned remainder; x for a zero divisor (R103). -/
def remU (x y : Word) : Word := if y = 0 then x else x % y

/-- Signed quotient rounded toward zero; −1 for a zero divisor, −2⁶³ for the one overflow (R103). -/
def divS (x y : Word) : Word := if y = 0 then -1 else BitVec.ofInt 64 (x.toInt.tdiv y.toInt)

/-- Signed remainder with the sign of x; x for a zero divisor, 0 for the one overflow (R103). -/
def remS (x y : Word) : Word := if y = 0 then x else BitVec.ofInt 64 (x.toInt.tmod y.toInt)

/-- Count of ones among the low `n` bits. -/
def popcount : Nat → Nat → Nat
  | 0, _ => 0
  | n + 1, v => v % 2 + popcount n (v / 2)

/-- Count of trailing zeros; 64 for 0 (R102). -/
def trailing : Nat → Nat → Nat
  | 0, _ => 0
  | n + 1, v => if v % 2 = 1 then 0 else 1 + trailing n (v / 2)

/-- Count of leading zeros; 64 for 0 (R102). -/
def leading (v : Nat) : Nat := 64 - bitLen v

/-- ADD: integer add modulo 2^64 (03 R102). -/
def execAdd (h : Hart) (g : Guard) (rd rs1 rs2 : Reg) (s : State) : Out :=
  spelled (.add h g rd rs1 rs2) h s <| alu2 h g rd rs1 rs2 s (fun x y => x + y)

/-- SUB: integer subtract modulo 2^64 (03 R102). -/
def execSub (h : Hart) (g : Guard) (rd rs1 rs2 : Reg) (s : State) : Out :=
  spelled (.sub h g rd rs1 rs2) h s <| alu2 h g rd rs1 rs2 s (fun x y => x - y)

/-- MUL: low 64 bits of the product (03 R102). -/
def execMul (h : Hart) (g : Guard) (rd rs1 rs2 : Reg) (s : State) : Out :=
  spelled (.mul h g rd rs1 rs2) h s <| alu2 h g rd rs1 rs2 s (fun x y => x * y)

/-- MULHU: high 64 bits of the unsigned product (03 R102). -/
def execMulhu (h : Hart) (g : Guard) (rd rs1 rs2 : Reg) (s : State) : Out :=
  spelled (.mulhu h g rd rs1 rs2) h s <| alu2 h g rd rs1 rs2 s mulHighU

/-- MULHS: high 64 bits of the signed product (03 R102). -/
def execMulhs (h : Hart) (g : Guard) (rd rs1 rs2 : Reg) (s : State) : Out :=
  spelled (.mulhs h g rd rs1 rs2) h s <| alu2 h g rd rs1 rs2 s mulHighS

/-- DIVU: unsigned quotient, with the defined result for division by zero (03 R103). -/
def execDivu (h : Hart) (g : Guard) (rd rs1 rs2 : Reg) (s : State) : Out :=
  spelled (.divu h g rd rs1 rs2) h s <| alu2 h g rd rs1 rs2 s divU

/-- DIVS: signed quotient rounded toward zero, with the defined overflow and zero results (03 R103). -/
def execDivs (h : Hart) (g : Guard) (rd rs1 rs2 : Reg) (s : State) : Out :=
  spelled (.divs h g rd rs1 rs2) h s <| alu2 h g rd rs1 rs2 s divS

/-- REMU: unsigned remainder (03 R103). -/
def execRemu (h : Hart) (g : Guard) (rd rs1 rs2 : Reg) (s : State) : Out :=
  spelled (.remu h g rd rs1 rs2) h s <| alu2 h g rd rs1 rs2 s remU

/-- REMS: signed remainder with the sign of x (03 R103). -/
def execRems (h : Hart) (g : Guard) (rd rs1 rs2 : Reg) (s : State) : Out :=
  spelled (.rems h g rd rs1 rs2) h s <| alu2 h g rd rs1 rs2 s remS

/-- AND: bitwise AND (03 R102). -/
def execAnd (h : Hart) (g : Guard) (rd rs1 rs2 : Reg) (s : State) : Out :=
  spelled (.and h g rd rs1 rs2) h s <| alu2 h g rd rs1 rs2 s (fun x y => x &&& y)

/-- OR: bitwise OR (03 R102). -/
def execOr (h : Hart) (g : Guard) (rd rs1 rs2 : Reg) (s : State) : Out :=
  spelled (.or h g rd rs1 rs2) h s <| alu2 h g rd rs1 rs2 s (fun x y => x ||| y)

/-- XOR: bitwise XOR (03 R102). -/
def execXor (h : Hart) (g : Guard) (rd rs1 rs2 : Reg) (s : State) : Out :=
  spelled (.xor h g rd rs1 rs2) h s <| alu2 h g rd rs1 rs2 s (fun x y => x ^^^ y)

/-- ANDN: x AND NOT y (03 R102). -/
def execAndn (h : Hart) (g : Guard) (rd rs1 rs2 : Reg) (s : State) : Out :=
  spelled (.andn h g rd rs1 rs2) h s <| alu2 h g rd rs1 rs2 s (fun x y => x &&& ~~~y)

/-- SHL: shift left by y[5:0] (03 R102). -/
def execShl (h : Hart) (g : Guard) (rd rs1 rs2 : Reg) (s : State) : Out :=
  spelled (.shl h g rd rs1 rs2) h s <| alu2 h g rd rs1 rs2 s (fun x y => x <<< shiftOf y)

/-- SHRU: logical shift right by y[5:0] (03 R102). -/
def execShru (h : Hart) (g : Guard) (rd rs1 rs2 : Reg) (s : State) : Out :=
  spelled (.shru h g rd rs1 rs2) h s <| alu2 h g rd rs1 rs2 s (fun x y => x >>> shiftOf y)

/-- SHRS: arithmetic shift right by y[5:0] (03 R102). -/
def execShrs (h : Hart) (g : Guard) (rd rs1 rs2 : Reg) (s : State) : Out :=
  spelled (.shrs h g rd rs1 rs2) h s <| alu2 h g rd rs1 rs2 s (fun x y => x.sshiftRight (shiftOf y))

/-- MINS: signed minimum (03 R102). -/
def execMins (h : Hart) (g : Guard) (rd rs1 rs2 : Reg) (s : State) : Out :=
  spelled (.mins h g rd rs1 rs2) h s <| alu2 h g rd rs1 rs2 s (fun x y => if x.slt y then x else y)

/-- MAXS: signed maximum (03 R102). -/
def execMaxs (h : Hart) (g : Guard) (rd rs1 rs2 : Reg) (s : State) : Out :=
  spelled (.maxs h g rd rs1 rs2) h s <| alu2 h g rd rs1 rs2 s (fun x y => if x.slt y then y else x)

/-- MINU: unsigned minimum (03 R102). -/
def execMinu (h : Hart) (g : Guard) (rd rs1 rs2 : Reg) (s : State) : Out :=
  spelled (.minu h g rd rs1 rs2) h s <| alu2 h g rd rs1 rs2 s (fun x y => if x.ult y then x else y)

/-- MAXU: unsigned maximum (03 R102). -/
def execMaxu (h : Hart) (g : Guard) (rd rs1 rs2 : Reg) (s : State) : Out :=
  spelled (.maxu h g rd rs1 rs2) h s <| alu2 h g rd rs1 rs2 s (fun x y => if x.ult y then y else x)

/-- SEL: select x or y by predicate PS (03 R102). -/
def execSel (h : Hart) (g : Guard) (rd rs1 rs2 : Reg) (ps : PredReg) (s : State) : Out :=
  spelled (.sel h g rd rs1 rs2 ps) h s <| compute s h g rd fun s => if pred s h ps then reg s h rs1 else reg s h rs2

/-- MADD: x × y + z modulo 2^64 (03 R102). -/
def execMadd (h : Hart) (g : Guard) (rd rs1 rs2 rs3 : Reg) (s : State) : Out :=
  spelled (.madd h g rd rs1 rs2 rs3) h s <| compute s h g rd fun s => reg s h rs1 * reg s h rs2 + reg s h rs3

/-- POPC: count of ones (03 R102). -/
def execPopc (h : Hart) (g : Guard) (rd rs1 : Reg) (s : State) : Out :=
  spelled (.popc h g rd rs1) h s <| compute s h g rd fun s => BitVec.ofNat 64 (popcount 64 (reg s h rs1).toNat)

/-- CLZ: count of leading zeros (03 R102). -/
def execClz (h : Hart) (g : Guard) (rd rs1 : Reg) (s : State) : Out :=
  spelled (.clz h g rd rs1) h s <| compute s h g rd fun s => BitVec.ofNat 64 (leading (reg s h rs1).toNat)

/-- CTZ: count of trailing zeros (03 R102). -/
def execCtz (h : Hart) (g : Guard) (rd rs1 : Reg) (s : State) : Out :=
  spelled (.ctz h g rd rs1) h s <| compute s h g rd fun s => BitVec.ofNat 64 (trailing 64 (reg s h rs1).toNat)

/-- ADDI: add a sign-extended immediate (03 R102). -/
def execAddi (h : Hart) (g : Guard) (rd rs1 : Reg) (imm : BitVec 32) (s : State) : Out :=
  spelled (.addi h g rd rs1 imm) h s <| alu1i h g rd rs1 (simm imm) s (fun x y => x + y)

/-- MULI: multiply by a sign-extended immediate (03 R102). -/
def execMuli (h : Hart) (g : Guard) (rd rs1 : Reg) (imm : BitVec 32) (s : State) : Out :=
  spelled (.muli h g rd rs1 imm) h s <| alu1i h g rd rs1 (simm imm) s (fun x y => x * y)

/-- ANDI: aND with a zero-extended immediate (03 R101). -/
def execAndi (h : Hart) (g : Guard) (rd rs1 : Reg) (imm : BitVec 32) (s : State) : Out :=
  spelled (.andi h g rd rs1 imm) h s <| alu1i h g rd rs1 (zimm imm) s (fun x y => x &&& y)

/-- ORI: oR with a zero-extended immediate (03 R101). -/
def execOri (h : Hart) (g : Guard) (rd rs1 : Reg) (imm : BitVec 32) (s : State) : Out :=
  spelled (.ori h g rd rs1 imm) h s <| alu1i h g rd rs1 (zimm imm) s (fun x y => x ||| y)

/-- XORI: xOR with a zero-extended immediate (03 R101). -/
def execXori (h : Hart) (g : Guard) (rd rs1 : Reg) (imm : BitVec 32) (s : State) : Out :=
  spelled (.xori h g rd rs1 imm) h s <| alu1i h g rd rs1 (zimm imm) s (fun x y => x ^^^ y)

/-- SHLI: shift left by an immediate (03 R102). -/
def execShli (h : Hart) (g : Guard) (rd rs1 : Reg) (imm : BitVec 32) (s : State) : Out :=
  spelled (.shli h g rd rs1 imm) h s <| alu1i h g rd rs1 (simm imm) s (fun x y => x <<< shiftOf y)

/-- SHRUI: logical shift right by an immediate (03 R102). -/
def execShrui (h : Hart) (g : Guard) (rd rs1 : Reg) (imm : BitVec 32) (s : State) : Out :=
  spelled (.shrui h g rd rs1 imm) h s <| alu1i h g rd rs1 (simm imm) s (fun x y => x >>> shiftOf y)

/-- SHRSI: arithmetic shift right by an immediate (03 R102). -/
def execShrsi (h : Hart) (g : Guard) (rd rs1 : Reg) (imm : BitVec 32) (s : State) : Out :=
  spelled (.shrsi h g rd rs1 imm) h s <| alu1i h g rd rs1 (simm imm) s (fun x y => x.sshiftRight (shiftOf y))

/-- CMPEQ: predicate set if equal (03 R102). -/
def execCmpeq (h : Hart) (g : Guard) (pd : PredReg) (rs1 : Reg) (y : Operand) (s : State) : Out :=
  spelled (.cmpeq h g pd rs1 y) h s <| compare h g pd rs1 y s (fun x y => x == y)

/-- CMPNE: predicate set if not equal (03 R102). -/
def execCmpne (h : Hart) (g : Guard) (pd : PredReg) (rs1 : Reg) (y : Operand) (s : State) : Out :=
  spelled (.cmpne h g pd rs1 y) h s <| compare h g pd rs1 y s (fun x y => x != y)

/-- CMPLTS: predicate set if less, signed (03 R102). -/
def execCmplts (h : Hart) (g : Guard) (pd : PredReg) (rs1 : Reg) (y : Operand) (s : State) : Out :=
  spelled (.cmplts h g pd rs1 y) h s <| compare h g pd rs1 y s (fun x y => x.slt y)

/-- CMPLES: predicate set if less or equal, signed (03 R102). -/
def execCmples (h : Hart) (g : Guard) (pd : PredReg) (rs1 : Reg) (y : Operand) (s : State) : Out :=
  spelled (.cmples h g pd rs1 y) h s <| compare h g pd rs1 y s (fun x y => x.sle y)

/-- CMPLTU: predicate set if less, unsigned (03 R102). -/
def execCmpltu (h : Hart) (g : Guard) (pd : PredReg) (rs1 : Reg) (y : Operand) (s : State) : Out :=
  spelled (.cmpltu h g pd rs1 y) h s <| compare h g pd rs1 y s (fun x y => x.ult y)

/-- CMPLEU: predicate set if less or equal, unsigned (03 R102). -/
def execCmpleu (h : Hart) (g : Guard) (pd : PredReg) (rs1 : Reg) (y : Operand) (s : State) : Out :=
  spelled (.cmpleu h g pd rs1 y) h s <| compare h g pd rs1 y s (fun x y => x.ule y)

/-- PAND: predicate AND (03 R102). -/
def execPand (h : Hart) (g : Guard) (pd pa pb : PredReg) (s : State) : Out :=
  spelled (.pand h g pd pa pb) h s <| combinePreds h g pd pa pb s (fun a b => a && b)

/-- POR: predicate OR (03 R102). -/
def execPor (h : Hart) (g : Guard) (pd pa pb : PredReg) (s : State) : Out :=
  spelled (.por h g pd pa pb) h s <| combinePreds h g pd pa pb s (fun a b => a || b)

/-- PXOR: predicate XOR (03 R102). -/
def execPxor (h : Hart) (g : Guard) (pd pa pb : PredReg) (s : State) : Out :=
  spelled (.pxor h g pd pa pb) h s <| combinePreds h g pd pa pb s (fun a b => a != b)

/-- PANDN: predicate AND NOT (03 R102). -/
def execPandn (h : Hart) (g : Guard) (pd pa pb : PredReg) (s : State) : Out :=
  spelled (.pandn h g pd pa pb) h s <| combinePreds h g pd pa pb s (fun a b => a && !b)

/-- LI: load a zero-extended 40-bit immediate (03 R102). -/
def execLi (h : Hart) (g : Guard) (rd : Reg) (imm : BitVec 40) (s : State) : Out :=
  spelled (.li h g rd imm) h s <| compute s h g rd fun _ => imm.zeroExtend 64

/-- LIH: load the high 24 bits of a register (03 R102). -/
def execLih (h : Hart) (g : Guard) (rd : Reg) (imm : BitVec 24) (s : State) : Out :=
  spelled (.lih h g rd imm) h s <| compute s h g rd fun s => imm ++ (reg s h rd).extractLsb' 0 40

end Sys2Proof.Machine
end

