-- ==== Sys2Proof/Machine/Hash.lean ====
section
/-! DEFINITION. SHAKE256 with 64 bytes of output, the device's one hash (17 R653-R657, R665): the sponge of FIPS 202 over
Keccak-f[1600] with a rate of 136 bytes. PRESUMED: the spec names the function and leaves its steps to FIPS 202. -/

namespace Sys2Proof.Machine

/-- A 64-bit lane turned left. -/
def rotl64 (v n : Nat) : Nat := v * 2 ^ (n % 64) % 2 ^ 64 + v / 2 ^ (64 - n % 64)

/-- Lane (x, y) of the state. -/
def lane (a : List Nat) (x y : Nat) : Nat := a.getD (x % 5 + 5 * (y % 5)) 0

/-- The rotation of lane x + 5 y. -/
def keccakRot : List Nat := [0, 1, 62, 28, 27, 36, 44, 6, 55, 20, 3, 10, 43, 25, 39, 41, 45, 15, 21, 8, 18, 2, 61, 56, 14]

/-- The round constants. -/
def keccakRc : List Nat :=
  [0x1, 0x8082, 0x800000000000808A, 0x8000000080008000, 0x808B, 0x80000001, 0x8000000080008081, 0x8000000000008009, 0x8A, 0x88, 0x80008009, 0x8000000A,
   0x8000808B, 0x800000000000008B, 0x8000000000008089, 0x8000000000008003, 0x8000000000008002, 0x8000000000000080, 0x800A, 0x800000008000000A,
   0x8000000080008081, 0x8000000000008080, 0x80000001, 0x8000000080008008]

/-- The parity of column x. -/
def keccakCol (a : List Nat) (x : Nat) : Nat := (List.range 5).foldl (fun acc y => Nat.xor acc (lane a x y)) 0

/-- One round. -/
def keccakRound (a : List Nat) (rc : Nat) : List Nat :=
  let c := (List.range 5).map (keccakCol a)
  let d := (List.range 5).map fun x => Nat.xor (c.getD ((x + 4) % 5) 0) (rotl64 (c.getD ((x + 1) % 5) 0) 1)
  let t := (List.range 25).map fun i => rotl64 (Nat.xor (a.getD i 0) (d.getD (i % 5) 0)) (keccakRot.getD i 0)
  let b := (List.range 25).map fun i => lane t (i % 5 + 3 * (i / 5)) (i % 5)
  let e := (List.range 25).map fun i =>
    let x := i % 5
    let y := i / 5
    Nat.xor (lane b x y) (Nat.land (2 ^ 64 - 1 - lane b (x + 1) y) (lane b (x + 2) y))
  e.zipIdx.map fun p => if p.2 = 0 then Nat.xor p.1 rc else p.1

/-- Absorb a message, a block of 136 bytes at a time; the fuel is its number of blocks. -/
def keccakAbsorb : Nat → List Nat → List Byte → List Nat
  | 0, a, _ => a
  | fuel + 1, a, m =>
    let b := (List.range 25).map fun i => if i < 17 then Nat.xor (a.getD i 0) (fld m (8 * i) 8) else a.getD i 0
    keccakAbsorb fuel (keccakRc.foldl keccakRound b) (m.drop 136)

/-- The padding: 0x1F, zeros, and 0x80 in the last byte of the block. -/
def shakePad (m : List Byte) : List Byte :=
  let r := 136 - m.length % 136
  m ++ (if r = 1 then [0x9F] else 0x1F :: List.replicate (r - 2) 0 ++ [0x80])

/-- SHAKE256 of a message, 64 bytes. -/
def shake256 (m : List Byte) : List Byte :=
  let a := keccakAbsorb (m.length / 136 + 1) (List.replicate 25 0) (shakePad m)
  (List.range 8).flatMap fun i => natLe 8 (a.getD i 0)

end Sys2Proof.Machine
end

