-- ==== Sys2Proof/Machine/Rows.lean ====
section
/-! DEFINITION. Table rows: the shard hash, where a row lies, its codes, the marks of lost rows, staging and restores
(08 R288-R327; 09 R339-R350, R363; 14 R555, R560). -/

namespace Sys2Proof.Machine

/-- A FREE registry entry. -/
def tableReset : Table :=
  ⟨0, 0, false, false, false, false, false, false, false, 0, 0, 0, 0, 0, 0, 0, 0, 0, 0, 0, 0, 0, 0, [], none⟩

/-- A registry entry. -/
def tableGet (s : State) (t : Nat) : Table := mget (fun _ => tableReset) s.emb.tables t

/-- Put a registry entry. -/
def tablePut (s : State) (t : Nat) (x : Table) : State :=
  { s with emb := { s.emb with tables := mset (fun _ => tableReset) s.emb.tables t x } }

/-! ### The shard hash (09 R339-R341) -/

/-- fmix32 (R339). -/
def fmix32 (v : Nat) : Nat :=
  let v := v % 2 ^ 32
  let v := Nat.xor v (v / 2 ^ 16) * 0x85EBCA6B % 2 ^ 32
  let v := Nat.xor v (v / 2 ^ 13) * 0xC2B2AE35 % 2 ^ 32
  Nat.xor v (v / 2 ^ 16)

/-- ⌈log₂ n⌉. -/
def ceilLog2 (n : Nat) : Nat := if n ≤ 1 then 0 else Nat.log2 (n - 1) + 1

/-- b of R339: half the bits of an index, at least 1. -/
def hashBits (n : Nat) : Nat := max 1 ((ceilLog2 n + 1) / 2)

/-- The round function of R339. -/
def hashRound (t b k r : Nat) : Nat :=
  fmix32 (Nat.xor (Nat.xor r (t * 2 ^ 20)) (k * 0x9E3779B9 % 2 ^ 32)) % 2 ^ b

/-- One pass of the four rounds. -/
def hashPass (t b x : Nat) : Nat :=
  let step := fun (p : Nat × Nat) k => (p.2, Nat.xor p.1 (hashRound t b k p.2))
  let p := [0, 1, 2, 3].foldl step (x / 2 ^ b, x % 2 ^ b)
  p.1 * 2 ^ b + p.2

/-- One pass backward. -/
def hashUnpass (t b x : Nat) : Nat :=
  let step := fun (p : Nat × Nat) k => (Nat.xor p.2 (hashRound t b k p.1), p.1)
  let p := [3, 2, 1, 0].foldl step (x / 2 ^ b, x % 2 ^ b)
  p.1 * 2 ^ b + p.2

/-- Repeat a pass until the index lies below `n`. -/
def walkBelow (f : Nat → Nat) (n : Nat) : Nat → Nat → Nat
  | 0, x => x
  | fuel + 1, x => let y := f x; if y < n then y else walkBelow f n fuel y

/-- perm(t, x) over [0, n) (R339); a walk meets every index of the pass's range at most once. -/
def permRow (t n x : Nat) : Nat := walkBelow (hashPass t (hashBits n)) n (2 ^ (2 * hashBits n)) x

/-- The row whose permuted index is `p`. -/
def unpermRow (t n p : Nat) : Nat := walkBelow (hashUnpass t (hashBits n)) n (2 ^ (2 * hashBits n)) p

/-- The number of devices a table's rows are spread over (R340). -/
def spread (s : State) (t : Table) : Nat := if t.replicated then 1 else max 1 s.boot.devs

/-- Segment length in rows (R340). -/
def segRows (s : State) (t : Table) : Nat := (t.rows + 192 * spread s t - 1) / (192 * spread s t)

/-- Home device, channel and index of a row (R340). -/
def hashHome (s : State) (t : Table) (id x : Nat) : Nat × Nat × Nat :=
  let d := spread s t
  let p := permRow id t.rows x
  (if t.replicated then s.boot.dev else p % d, p / d % 192, p / (192 * d))

/-- The device that holds the mirror of a device's rows (R340). -/
def mirrorDev (s : State) (home : Nat) : Nat :=
  let d := max 1 s.boot.devs
  (home + (d + 1) / 2) % d

/-- Offset of a slot of a table in each local window. -/
def Table.base (t : Table) (slot : Nat) : Nat := if slot = 0 then t.base0 else t.base1

/-- Device address of an index of a channel's segment of a slot, own part or mirror part (R341). -/
def segAddr (s : State) (t : Table) (slot c idx : Nat) (mirror : Bool) : Nat :=
  localAddr s c (t.base slot + (idx + (if mirror then segRows s t else 0)) * t.stride)

/-- This device's place for a row in a slot by the shard hash: its own part, or the mirror part (R300, R341). -/
def slotPlace (s : State) (t : Table) (id slot x : Nat) : Option Nat :=
  let (dev, c, idx) := hashHome s t id x
  if dev = s.boot.dev then some (segAddr s t slot c idx false)
  else if t.mirror ∧ mirrorDev s dev = s.boot.dev then some (segAddr s t slot c idx true)
  else none

/-! ### The directory (09 R342-R345, R363) -/

/-- A directory entry of a row of a kind. -/
def dirFind (s : State) (t x kind : Nat) : Option DirEntry :=
  s.plc.dir.find? fun e => e.table == t && e.row == x && e.kind == kind

/-- Change the directory. -/
def dirMap (s : State) (f : List DirEntry → List DirEntry) : State := { s with plc := { s.plc with dir := f s.plc.dir } }

/-- Put a directory entry in place of any of its kind for its row. -/
def dirPut (s : State) (e : DirEntry) : State :=
  dirMap s fun d => d.filter (fun x => !(x.table == e.table && x.row == e.row && x.kind == e.kind)) ++ [e]

/-- Remove a directory entry. -/
def dirDrop (s : State) (t x kind : Nat) : State :=
  dirMap s fun d => d.filter fun e => !(e.table == t && e.row == x && e.kind == kind)

/-- A directory entry as it stands in HBM: TTL lies above the device number of a FORWARD (R343). -/
def dirBytes (e : DirEntry) : List Byte :=
  natLe 5 e.row ++ natLe 1 (e.kind % 16) ++ natLe 2 (e.table % 4096) ++ natLe 6 e.addr ++
    natLe 2 ((if e.kind = 3 then e.ttl % 4 * 2 ^ 14 else 0) + e.dev % 1024)

/-- The directory area lies in the 16 channels of the first stack of each quadrant, 1 MiB in each, below the spare group (R344; DESIGN CHOICE,
log 30). -/
def dirChan (c : Nat) : Bool := c / 16 % 3 == 0

/-- The channel and address of slot `i` of quadrant d's copy of the directory. -/
def dirSlot (s : State) (d i : Nat) : Nat × Nat :=
  let c := 48 * d + i / 65536 % 16
  (c, localAddr s c (localBytes s - 2 * 2 ^ 20 + 16 * (i % 65536)))

/-- Write the slots of the four copies that have changed (R343, R344, R346). -/
def storeDir (s : State) : State :=
  let es := s.plc.dir.map dirBytes
  let n := max es.length s.plc.dirLen
  let s := (List.range n).foldl (fun s i =>
    let b := es.getD i (List.replicate 16 0)
    (List.range 4).foldl (fun s d =>
      let a := (dirSlot s d i).2
      if readBytes s a 16 = b then s else memWrite s a b) s) s
  { s with plc := { s.plc with dirLen := es.length } }

/-- Where the primary copy of a row lies: its RELOC entry, else its hash home, as device and device address there (R345). -/
def rowPrimary (s : State) (id x : Nat) : Nat × Nat :=
  let t := tableGet s id
  match dirFind s id x 1 with
  | some e => (e.dev, e.addr)
  | none =>
    let (dev, c, idx) := hashHome s t id x
    (dev, segAddr s t t.slot c idx false)

/-- The address of this device's copy of a row, the mirror copy included, where it holds one. -/
def rowHere (s : State) (id x : Nat) : Option Nat :=
  let (dev, a) := rowPrimary s id x
  if dev = s.boot.dev then some a
  else
    let t := tableGet s id
    let (home, c, idx) := hashHome s t id x
    if t.mirror ∧ mirrorDev s home = s.boot.dev then some (segAddr s t t.slot c idx true) else none

/-- The copy to read of a replicated row: from stack `n` on, the first on a READY channel, else the primary (R363). -/
def pickCopy (s : State) (copies : List Nat) (n primary : Nat) : Nat :=
  let order := (List.range 12).map fun i => copies.getD ((n + i) % 12) primary
  match order.find? (fun a => decide (a ≠ 0) && rdyState s (idxChan (chanOf s a).1) == .ready) with
  | some a => a
  | none => primary

/-- A core's read of a replicated row (R363): the copy in the three stacks of its quadrant, in turn. -/
def pickForCore (s : State) (core : Nat) (copies : List Nat) (primary : Nat) : Nat × State :=
  let k := coreGet s core
  let d := coreDie core
  let i := k.replN % 3
  let order := (List.range 3).map fun j => copies.getD (3 * d + (i + j) % 3) primary
  let a := match order.find? (fun a => decide (a ≠ 0) && rdyState s (idxChan (chanOf s a).1) == .ready) with
    | some a => a
    | none => pickCopy s copies (3 * d + i) primary
  (a, corePut s core { k with replN := k.replN + 1 })

/-- resolve(t, x) for a core's read, as device and address (R345). -/
def resolveRow (s : State) (core id x : Nat) : (Nat × Nat) × State :=
  let (dev, a) := rowPrimary s id x
  match dirFind s id x 2 with
  | some e => let (a, s) := pickForCore s core e.copies a; ((s.boot.dev, a), s)
  | none => ((dev, a), s)

/-- The address a remote request for a row is served from: replicas in rotation over all twelve stacks (R363). -/
def serveAddr (s : State) (id x a : Nat) : Nat × State :=
  match dirFind s id x 2 with
  | some e => (pickCopy s e.copies s.plc.remoteN a, { s with plc := { s.plc with remoteN := s.plc.remoteN + 1 } })
  | none => (a, s)

/-! ### Load counts (09 R347, R348) -/

/-- A channel that has counted nothing. -/
def countReset : ChanCount := ⟨0, 0, 0, 0, false⟩

/-- A table that has counted nothing. -/
def tableCountReset : TableCount := ⟨0, 0, 0, false⟩

/-- Add within 32 bits, saturating (R350). -/
def satAdd (a n : Nat) : Nat := min (a + n) (2 ^ 32 - 1)

/-- Whether the controllers count now: from T+0 to the apply point (R347). -/
def counting (s : State) : Bool := s.tsq.running && s.tsq.phase != .apply

/-- The sketch index of row j of a key (R347). -/
def sketchIdx (t x j : Nat) : Nat :=
  fmix32 (Nat.xor (x % 2 ^ 32) (fmix32 ((t * 2 ^ 8 + x / 2 ^ 32 + j * 0x9E3779B9) % 2 ^ 32))) % 4096

/-- The place of a sketch counter: channel, row, index. -/
def sketchKey (c j i : Nat) : Nat := c * 16384 + j * 4096 + i

/-- Put a row into a candidate list (R348). -/
def candidate (l : List (Nat × Nat × Nat)) (t x est : Nat) : List (Nat × Nat × Nat) :=
  if l.any (fun c => c.1 == t && c.2.1 == x) then l.map fun c => if c.1 = t ∧ c.2.1 = x then (t, x, est) else c
  else if l.length < 64 then l ++ [(t, x, est)]
  else match minBy (fun c : Nat × Nat × Nat => c.2.2) l with
    | some m => if m.2.2 < est then l.map fun c => if c = m then (t, x, est) else c else l
    | none => l

/-- Count `n` narrow-path sectors of a channel. -/
def countSectors (s : State) (c n : Nat) : State :=
  if !counting s then s
  else
    let k := mget (fun _ => countReset) s.plc.chanCounts c
    let k := { k with sectors := satAdd k.sectors n, sat := k.sat || decide (2 ^ 32 ≤ k.sectors + n + 1) }
    { s with plc := { s.plc with chanCounts := mset (fun _ => countReset) s.plc.chanCounts c k } }

/-- A gather engine's read of its quadrant's copy of the directory. The presence filter lets every row that has an entry pass; a row without one may
pass as well while the directory holds any, which costs one read of a slot: both are free values, since the filter's hash is not stated (R344, R347;
DESIGN CHOICE, log 30). -/
def readDir (s : State) (die id x : Nat) : State :=
  match s.plc.dir.findIdx? (fun e => e.table == id && e.row == x) with
  | some i => countSectors s (dirSlot s die i).1 1
  | none =>
    if s.plc.dir.isEmpty then s
    else
      let (p, s) := draw s
      let (i, s) := draw s
      if Config.freeNat p % 2 = 1 then countSectors s (dirSlot s die (Config.freeNat i % s.plc.dir.length)).1 1 else s

/-- Count one read of a table row that starts at an address: the channel's and the table's counts, the sketch and the candidates (R347, R348). -/
def countRow (s : State) (a id x : Nat) (remote : Bool) : State :=
  if !counting s then s
  else
    let c := (chanOf s a).1
    let k := mget (fun _ => countReset) s.plc.chanCounts c
    let t := mget (fun _ => tableCountReset) s.plc.tableCounts id
    let keys := (List.range 4).map fun j => sketchKey c j (sketchIdx id x j)
    let sk := keys.foldl (fun m i => mset (fun _ => 0) m i (satAdd (mget (fun _ => 0) m i) 1)) s.plc.sketch
    let est := (keys.map (mget (fun _ => 0) sk)).foldl min (2 ^ 32)
    let cl := candidate (mget (fun _ => []) s.plc.cands c) id x est
    { s with plc := { s.plc with
        chanCounts := mset (fun _ => countReset) s.plc.chanCounts c
          { k with reads := satAdd k.reads 1, sat := k.sat || decide (2 ^ 32 - 1 ≤ k.reads + 1) }
        tableCounts := mset (fun _ => tableCountReset) s.plc.tableCounts id
          { t with reads := satAdd t.reads 1, remoteOut := satAdd t.remoteOut (b2n remote),
                   sat := t.sat || decide (2 ^ 32 - 1 ≤ t.reads + 1) || decide (2 ^ 32 - 1 ≤ t.remoteOut + b2n remote) }
        sketch := sk
        cands := mset (fun _ => []) s.plc.cands c cl } }

/-- Count a read of a whole table row at an address: its sectors and the row (R347, R348). -/
def countRowRead (s : State) (a id x : Nat) (remote : Bool) : State :=
  countRow (countSectors s (chanOf s a).1 ((tableGet s id).stride / 32)) a id x remote

/-- Count a write of a table row at an address (R347). Commits, restores and copies write in apply windows alone, after the counts of the tick have
been taken: they stand in the snapshot of the next tick (R349; DESIGN CHOICE, log 33). -/
def countRowWrite (s : State) (a id : Nat) : State :=
  if !s.tsq.running then s
  else
    let c := (chanOf s a).1
    let k := mget (fun _ => countReset) s.plc.chanCounts c
    let t := mget (fun _ => tableCountReset) s.plc.tableCounts id
    { s with plc := { s.plc with
        chanCounts := mset (fun _ => countReset) s.plc.chanCounts c { k with writes := satAdd k.writes 1, sat := k.sat || decide (2 ^ 32 - 1 ≤ k.writes + 1) }
        tableCounts := mset (fun _ => tableCountReset) s.plc.tableCounts id { t with writes := satAdd t.writes 1, sat := t.sat || decide (2 ^ 32 - 1 ≤ t.writes + 1) } } }

/-! ### Row codes (08 R288, R289; 07 R267, R273; 14 R555, R560) -/

/-- STRIDE of a width and code (R289). -/
def strideOf (width code : Nat) : Nat :=
  let n := if code = 0 then width else width / 2
  32 * ((4 + n + 31) / 32)

/-- The code of element j of a stored row (R288). -/
def rowCode (code : Nat) (row : List Byte) (j : Nat) : Nat :=
  if code = 0 then fld row (4 + j) 1
  else
    let b := fld row (4 + j / 2) 1
    if j % 2 = 0 then b % 16 else b / 16

/-- The value of element j of a stored row in FP32, with its flags (07 R267). -/
def rowElem (code : Nat) (row : List Byte) (j : Nat) : Nat × Nat :=
  fmaF (widen fmtBf16 (fld row 0 2)) (roundF (ofInt (rowCode code row j))).1 (widen fmtBf16 (fld row 2 2))

/-- The dequantised row of a table: its values and flags (07 R267). -/
def dequant (t : Table) (row : List Byte) : List Nat × Nat :=
  let l := (List.range t.width).map (rowElem t.code row)
  (l.map (·.1), l.foldl (fun f e => orf f e.2) 0)

/-- The code bytes of a row from its codes (R288). -/
def packCodes (code : Nat) : List Nat → List Byte
  | [] => []
  | [a] => [BitVec.ofNat 8 a]
  | a :: b :: r => if code = 0 then BitVec.ofNat 8 a :: packCodes code (b :: r)
                   else BitVec.ofNat 8 (a % 16 + 16 * (b % 16)) :: packCodes code r

/-- An exact value rounded toward −∞ to a BF16 pattern (R560). -/
def downBf16 (n : Nat) : Nat :=
  let h := n / 2 ^ 16
  if bit n 31 && decide (n % 2 ^ 16 ≠ 0) then h + 1 else h

/-- A value that is not negative rounded toward +∞ to a BF16 pattern (R560). -/
def upBf16 (x : Fp) : Nat :=
  match x with
  | .nan => canonNan fmtBf16
  | .inf _ => 0x7F80
  | .fin _ m e =>
    if m = 0 then 0
    else
      let q : Int := max (e + bitLen m - 1 - 7) fmtBf16.emin
      let sig := if q ≤ e then m * 2 ^ (e - q).toNat
        else (m + 2 ^ (q - e).toNat - 1) / 2 ^ (q - e).toNat
      let (bigS, bigQ) := fmtBf16.largest
      if gtScaled sig q bigS bigQ then 0x7F80 else packFin fmtBf16 false sig q

/-- The row header for values: scale and offset as BF16 patterns (R560). -/
def rowHeader (code : Nat) (values : List Nat) : Nat × Nat :=
  let fin := values.filter fun v => bits v 30 23 ≠ 255
  match fin with
  | [] => (0, 0)
  | a :: r =>
    let lo := r.foldl (fun m v => if (unF v).lt (unF m) then v else m) a
    let hi := r.foldl (fun m v => if (unF m).lt (unF v) then v else m) a
    let off := downBf16 lo
    let q := if code = 0 then 255 else 15
    if (unF hi).eqv (unF lo) then (0, off)
    else (upBf16 (exDiv (exAdd (unF hi) (unpack fmtBf16 off).negate).1 (ofInt q)).1, off)

/-- The code of an element: (x − offset) ÷ scale, rounded stochastically with the draw `u`, clamped (07 R273). -/
def encodeElem (code scale offset u x : Nat) : Nat × Nat :=
  let top : Int := if code = 0 then 255 else 15
  if (unF x).isNan then (0, 16)
  else if scale % 2 ^ 15 = 0 then (0, 0)
  else
    let (d, f1) := subF x (widen fmtBf16 offset)
    let (q, f2) := divF d (widen fmtBf16 scale)
    let f := orf f1 f2
    match unF q with
    | .nan => (0, orf f 16)
    | .inf s => (if s then 0 else top.toNat, orf f 5)
    | .fin s m e =>
      let (r, c) := roundAt (some u) m e 0
      let i := sgn s r
      if i < 0 then (0, orf f 5) else if top < i then (top.toNat, orf f 5) else (i.toNat, orf f (b2n c))

/-- The stored row for values: header, codes and zero padding (R288, R289; 14 R555, R560), with the draws of a row of a
table at a version and step count. -/
def encodeRow (t : Table) (id x seed ver steps : Nat) (values : List Nat) : List Byte × Nat :=
  let (scale, off) := rowHeader t.code values
  let l := values.zipIdx.map fun (v, j) =>
    let (u, _, _, _) := philox j (x % 2 ^ 32) (x / 2 ^ 32) steps seed (ver % 2 ^ 16 * 2 ^ 16 + 2 ^ 15 + id)
    encodeElem t.code scale off u v
  let b := natLe 2 scale ++ natLe 2 off ++ packCodes t.code (l.map (·.1))
  (b ++ List.replicate (t.stride - b.length) 0, l.foldl (fun f e => orf f e.2) 0)

/-! ### Marks (08 R324-R327) -/

/-- The mark of a row: none, RESTORING (some false) or LOST (some true). -/
def rowMark (s : State) (t x : Nat) : Option Bool :=
  (s.emb.marks.find? fun m => m.1 == t && m.2.1 == x).map (·.2.2)

/-- Set or clear a row's mark. -/
def setMark (s : State) (t x : Nat) (v : Option Bool) : State :=
  let r := s.emb.marks.filter fun m => !(m.1 == t && m.2.1 == x)
  { s with emb := { s.emb with marks := match v with
    | some l => r ++ [(t, x, l)]
    | none => r } }

/-- A row no source holds (R324). -/
def rowLost (s : State) (t x : Nat) : State :=
  let s := event (bump1 (setMark s t x (some true)) regEmbLostCnt) regEmbEvents 4
  (reportFull s 0x71 0 1 (unitCode s 7 t) (unitCode s 7 t) true x).2

/-! ### Staging (08 R314-R316) -/

/-- A row that finds its staging FIFO full (R316). -/
def stageFull (s : State) : State :=
  let s := event s regEmbEvents 3
  if s.emb.stageFullTick then s
  else bump1 { s with emb := { s.emb with stageFullTick := true } } regEmbStageFull

/-- Whether a FIFO has an entry for a row. -/
def staged (t : Table) (x : Nat) : Bool := t.fifo.any fun e => e.row == x

/-- Entries of a FIFO besides restores; one that does both stands in the room of restores (R292, R316; DESIGN CHOICE, log 34). -/
def stagedUpdates (t : Table) : Nat := (t.fifo.filter fun e => !e.restore).length

/-- Stage an update: it replaces the row of the entry in place, or joins the FIFO while there is room (R314, R315). -/
def stageRow (s : State) (id x ver : Nat) (data : List Byte) : Bool × State :=
  let t := tableGet s id
  if staged t x then
    (true, tablePut s id { t with fifo := t.fifo.map fun e => if e.row = x then { e with ver := ver, data := data, update := true } else e })
  else if stagedUpdates t < t.stageRows then (true, tablePut s id { t with fifo := t.fifo ++ [⟨x, ver, data, false, true⟩] })
  else (false, s)

/-- A restored row enters the FIFO ahead of every other entry, while one of the 1,024 entries for restores is free (R316, R324, R326). A row has
at most one entry: one that holds an update is taken to the front and keeps the update, except under a reload, whose row is the newer
(R315; DESIGN CHOICE, log 34). For a table without TRAIN the device plans a COMMIT item. -/
def stageRestore (s : State) (id x : Nat) (data : List Byte) (reload : Bool) : State :=
  let t := tableGet s id
  let old := t.fifo.find? fun e => e.row == x
  let had := old.any (·.restore)
  if had && !reload || !had && decide (1024 ≤ (t.fifo.filter fun e => e.restore).length) then s
  else
    let e : StageEntry := match old with
      | some o => if o.update && !reload then { o with restore := true } else ⟨x, t.curVer, data, true, false⟩
      | none => ⟨x, t.curVer, data, true, false⟩
    let s := tablePut s id { t with fifo := e :: t.fifo.filter fun e => e.row ≠ x }
    if t.train || had then s
    else { s with emb := { s.emb with planned := s.emb.planned ++
      [natLe 2 3 ++ natLe 2 id ++ natLe 4 1 ++ natLe 24 0] } }

/-- The key of a row's master. -/
def masterKey (t x : Nat) : Nat := t * 2 ^ 40 + x

/-- The rule block in force of a table; empty where there is none. -/
def tblRule (s : State) (t : Nat) : RuleBlock :=
  match pfind s.upd.tblRules t with
  | some r => r.rule
  | none => []

/-- SR_SEED of a rule block (14 R549). -/
def srSeed (r : RuleBlock) : Nat := fld r 0x2C 4

/-- The bytes of a ROWS request for one row (13 R507). -/
def rowRequest (s : State) (id x tag : Nat) : List Byte :=
  natLe 1 2 ++ natLe 1 0 ++ natLe 2 1 ++ natLe 2 id ++ natLe 2 1 ++ natLe 8 0 ++ natLe 4 0 ++ natLe 2 0 ++
  natLe 2 s.boot.dev ++ natLe 4 tag ++ natLe 4 0 ++ natLe 5 x ++ natLe 11 0

/-- The core number that stands for the embedding registry in a remote request. -/
def embOwner : Nat := 9999

/-- The next peer that holds a row, after `after`: the other of the primary copy's device and the mirror, or the next device of a replicated table
(R324). -/
def nextPeer (s : State) (id x after : Nat) : Option Nat :=
  let t := tableGet s id
  let d := max 1 s.boot.devs
  if t.replicated then (if (after + 1) % d = s.boot.dev then none else some ((after + 1) % d))
  else if t.mirror && after == s.boot.dev then
    let main := (rowPrimary s id x).1
    let peer := if main = s.boot.dev then mirrorDev s (hashHome s t id x).1 else main
    if peer = s.boot.dev then none else some peer
  else none

/-- Ask a peer for its copy of a row to restore; one that no route leads to is passed over for the next (R324). -/
def askPeer : Nat → State → Nat → Nat → Nat → State
  | 0, s, id, x, _ => rowLost s id x
  | more + 1, s, id, x, dev =>
    let (tag, s) := newTag s
    let (ok, s) := sendTagged s 0x01 dev tag false (rowRequest s id x tag)
    if ok then { s with hws := { s.hws with remotes := s.hws.remotes ++
        [⟨tag, dev, s.now + rmtTimeout s, embOwner, 0, none, 0, [id, x], [], none, false⟩] } }
    else match nextPeer s id x dev with
      | some d => askPeer more s id x d
      | none => rowLost s id x

/-- A unit-good copy of a row among its replicas. -/
def goodReplica (s : State) (t : Table) (copies : List Nat) (primary : Nat) : Option Nat :=
  copies.find? fun a => decide (a ≠ 0 ∧ a ≠ primary) && !unitBad s a t.stride && !chanLost s a

/-- The mirror copy of a row whose primary copy has come to this device from another, where this device is the mirror too (R324; 09 R340). -/
def mirrorHere (s : State) (id x : Nat) : Option Nat :=
  let t := tableGet s id
  let (home, c, idx) := hashHome s t id x
  let a := segAddr s t t.slot c idx true
  if t.mirror ∧ !t.replicated ∧ (rowPrimary s id x).1 = s.boot.dev ∧ mirrorDev s home = s.boot.dev ∧ !unitBad s a t.stride ∧ !chanLost s a then
    some a
  else none

/-- Restore a marked row from the first source that holds it: its master at the current version, a replica on this device, a peer copy, which
lies here for a row of a MIRROR table that has moved to the device of its mirror (R324). -/
def restoreRow (s : State) (id x : Nat) : State :=
  let t := tableGet s id
  let (_, a) := rowPrimary s id x
  let master := if t.train then (pfind s.upd.masters (masterKey id x)).filter (fun m => m.ver == t.curVer) else none
  match master with
  | some m => stageRestore s id x (encodeRow t id x (srSeed (tblRule s id)) m.ver m.steps m.values).1 false
  | none =>
    match (dirFind s id x 2).bind fun e => goodReplica s t e.copies a with
    | some b => stageRestore s id x (readBytes s b t.stride) false
    | none =>
      match mirrorHere s id x with
      | some b => stageRestore s id x (readBytes s b t.stride) false
      | none => match nextPeer s id x s.boot.dev with
        | some d => askPeer s.boot.devs s id x d
        | none => rowLost s id x

/-- The device marks a row RESTORING and starts its restore; where no mark is free its table goes GREY here (R324,
R327). -/
def markRow (s : State) (id x : Nat) : State :=
  if (rowMark s id x).isSome then s
  else if 65536 ≤ s.emb.marks.length then
    let t := tableGet s id
    if t.state = 3 then s
    else
      let s := viewGrey (event (tablePut s id { t with state := 3 }) regEmbEvents 5) id
      report s 0x70 3 (unitCode s 7 id) s.emb.marks.length
  else restoreRow (setMark s id x (some false)) id x

/-- Restores that still have no entry and no request under way are tried again. -/
def retryRestores (s : State) : State :=
  (s.emb.marks.filter fun m => !m.2.2).foldl (fun s m =>
    let t := tableGet s m.1
    if (t.fifo.any fun e => e.row == m.2.1 && e.restore) || s.hws.remotes.any (fun r => r.core == embOwner && r.items == [m.1, m.2.1]) then s
    else restoreRow s m.1 m.2.1) s

/-! ### Rows that lie in a unit (12 R455, R473) -/

/-- The rows of current versions whose copy here lies in `n` bytes at an address, as (table, row). -/
def rowsAt (s : State) (a n : Nat) : List (Nat × Nat) :=
  let moved := (s.plc.dir.filter fun e =>
      (e.kind == 1 && e.dev == s.boot.dev && decide (e.addr < a + n) && decide (a < e.addr + (tableGet s e.table).stride)) ||
      (e.kind == 2 && e.copies.any fun b => decide (b ≠ 0 ∧ b < a + n ∧ a < b + (tableGet s e.table).stride))).map
    fun e => (e.table, e.row)
  let homed := match localOff s a with
    | none => []
    | some (c, o) =>
      s.emb.tables.flatMap fun (id, t) =>
        if t.state ≠ 2 ∧ t.state ≠ 3 then []
        else
          let b := t.base t.slot
          let d := spread s t
          let seg := segRows s t
          (List.range (n / max 1 t.stride + 2)).filterMap fun k =>
            let i := (o - b) / max 1 t.stride + k
            let at_ := b + i * t.stride
            if o + n ≤ b ∨ o + n ≤ at_ ∨ at_ + t.stride ≤ o then none
            else
              let home := if t.replicated then s.boot.dev else if i < seg then s.boot.dev
                else (s.boot.dev + d - (d + 1) / 2) % d
              let j := if i < seg then i else i - seg
              let p := if t.replicated then j * 192 + c else j * (192 * d) + c * d + home
              if t.rows ≤ p ∨ 2 * seg ≤ i ∨ (seg ≤ i ∧ !t.mirror) then none
              else
                let x := unpermRow id t.rows p
                if (rowHere s id x) == some (segAddr s t t.slot c j (decide (seg ≤ i))) then some (id, x) else none
  (homed ++ moved).eraseDups

/-- A write of a commit or restore: a unit it covers in part that reads uncorrectable is written whole, its other bytes 0,
and the other rows that share it are marked (12 R455). -/
def commitWrite (s : State) (a : Nat) (l : List Byte) (id x : Nat) : State :=
  let parts := unitParts (l.length + 1) a l.length
  let s := parts.foldl (fun s p =>
    let u := p.1 / 64 * 64
    if decide (p.2 < 64) && unitBad s u 1 then
      let others := (rowsAt s u 64).filter (· ≠ (id, x))
      let s := memWrite s u (List.replicate 64 0)
      others.foldl (fun s r => markRow s r.1 r.2) s
    else s) s
  memWrite s a l

/-- The contents of a channel are lost: every current row that lies there is marked and its restore begins (12 R474; R324). -/
def restoreChan (s : State) (c : Nat) : State :=
  (rowsAt s (localAddr s c 0) (localBytes s)).foldl (fun s r => markRow s r.1 r.2) s

end Sys2Proof.Machine
end

