-- ==== Sys2Proof/Machine/Dram.lean ====
section
/-! DEFINITION. The HBM channels: decoding, row failures and spares, fenced groups, timeouts, thermal limits, the patrol
scrub, retraining, lost channels and tests (12). -/

namespace Sys2Proof.Machine

/-- The units under `n` bytes at an address are read, each with the part of the byte errors that is its own; the rows that lie in a unit that cannot be
corrected are marked (R452, R461-R464; 08 R324). -/
def readUnits (s : State) (a n : Nat) (err : List (Nat × Nat)) : State :=
  (unitParts (n + 1) a n).zipIdx.foldl (fun s p =>
    let u := p.1.1 / 64 * 64
    let at_ := chanOf s u
    let r := decodeUnit s at_.1 (at_.2 / 64) ((err.filter fun e => e.1 / 72 == p.2).map fun e => (e.1 % 72, e.2)) true
    if r.1 then (rowsAt r.2 u 64).foldl (fun s x => markRow s x.1 x.2) r.2 else r.2) s

/-- Whether any of `n` bytes of HBM lies in a spare group (R450). -/
def spareAt (s : State) (a n : Nat) : Bool := inSpare s a || inSpare s (a + n - 1)

/-- Whether `n` bytes at an address are what a narrow read may ask for: 1 to 4 sectors within a 128-byte span (R452). -/
def narrowSpan (a n : Nat) : Bool := a % 32 == 0 && n % 32 == 0 && a / 128 == (a + n - 1) / 128

/-- HBM_READ: a controller reads the units under a span for a task, or for another consumer under task 0, with the byte errors `err`, which also says how
many errors the on-die code reports. A narrow read counts its sectors, and a row's, where it starts a row. A demand access to a spare group faults
ADDR, a run-ahead fetch there is dropped (R347, R450, R452, R460-R466, R472). -/
def execHbmRead (addr len : Nat) (wide : Bool) (err : ReadErrors) (task : Nat) (s : State) : Out :=
  if space addr ≠ .hbm ∨ len = 0 ∨ !(wide || narrowSpan addr len) then .next s
  else if spareAt s addr len then .next (if task = 0 then s else endOwn s task 3 3 0 addr)
  else
    let c := (chanOf s addr).1
    let s := if wide then s
      else
        let s := countSectors s c (len / 32)
        match (rowsAt s addr len).find? (fun r => rowHere s r.1 r.2 == some addr) with
        | some r => countRow s addr r.1 r.2 false
        | none => s
    let s := readUnits (innerReports s c err.inner) addr len err.bytes
    if task = 0 then .next s
    else match readCause s addr len with
      | some k => .next (endOwn s task 3 k 0 addr)
      | none => .next s

/-- HBM_WRITE: the controllers, which are in reset while PWRGOOD is low (16 R615), accept a write; a task's write to a LOST channel is dropped, and one to a spare group faults ADDR (R450, R453, R472,
R474). -/
def execHbmWrite (addr : Nat) (data : List Byte) (task : Nat) (s : State) : Out :=
  if !s.boot.pwrgood ∨ space addr ≠ .hbm ∨ data.isEmpty then .next s
  else if spareAt s addr data.length then .next (if task = 0 then s else endOwn s task 3 3 0 addr)
  else .next (if task = 0 then memWrite s addr data else taskWrite s addr data)

/-- WCB_AGE_WRITEBACK: an entry reaches 2 µs of age and is written back. A partial one reads its unit first, and what the read meets is handled as for any
other: a correction counts toward the row, an uncorrectable unit drops the write (R454, R455, R463-R466). -/
def execWcbAgeWriteback (chan : Nat) (unit : UnitRead) (s : State) : Out :=
  match wcbOf s chan unit.unit with
  | some e =>
    let s := advance s (e.at_ + 2000)
    if e.mask = fullMask ∨ (chanGet s chan).bad.contains e.unit then .next (writeBack s chan e)
    else
      let (bad, s) := decodeUnit (innerReports s chan unit.err.inner) chan e.unit unit.err.bytes false
      .next (if bad then dropWrite (bump1 (takeEntry s chan e.unit) (regMemChRmw chan)) chan e.unit else writeBack s chan e)
  | none => .next s

/-- Write every entry of a channel back: the apply point (R454). -/
def flushWcb (s : State) (c : Nat) : State := (chanGet s c).wcb.foldl (fun s e => writeBack s c e) s

/-- CORRECTED_WRITEBACK: the corrected codeword goes back into the unit; no byte and no generation changes, and the check
bytes are no state of the model (R463). -/
def execCorrectedWriteback (_chan _off : Nat) (s : State) : Out := .next s

/-- MEM_REQUEST_TIMEOUT: a request unanswered for 50 µs; a read ends its task with the program counter of its strand as the fault's
address, a write (task 0) stays queued, and eight in a tick put the channel GREY (R460; 03 R140). At the apply point the task ends LATE, and the expiry is neither
counted nor reported (15 R575). -/
def execMemRequestTimeout (chan off task : Nat) (s : State) : Out :=
  powered s <|
  if 192 ≤ chan then .next s
  else if (taskGet s task).isSome ∧ atApply s then .next (endOwn s task 3 6 0 (taskPc s task))
  else
    let s := event (chanErr (bump1 s (regMemChTimeout chan)) chan 3 0 (off / 64 * 64)) (regMemChEvents chan) 1
    let s := report s 0x52 1 (unitCode s 4 chan) (off / 64 * 64)
    let ch := chanGet s chan
    let s := chanPut s chan { ch with timeouts := ch.timeouts + 1 }
    let s := if 8 ≤ ch.timeouts + 1 then greyChan s chan 2 else s
    .next (if task = 0 then s else endOwn s task 3 6 0 (taskPc s task))

/-- PATROL_SCRUB_READ: the scrub reads the next unit; an uncorrectable one starts the restore of each current row in it, or
gives a record; a completed pass is counted and restarts the correction counts (R466, R473). -/
def execPatrolScrubRead (chan : Nat) (err : ReadErrors) (s : State) : Out :=
  powered s <|
  if 192 ≤ chan then .next s
  else
    let ch := chanGet s chan
    let u := ch.scrubPos / 64
    let a := addrOf s chan ch.scrubPos
    let next := (ch.scrubPos + 64) % 2 ^ 31
    let s := innerReports (chanPut s chan { ch with scrubPos := next }) chan err.inner
    let rows := rowsAt s a 64
    let (bad, s) := decodeUnit s chan u err.bytes rows.isEmpty
    let s := if bad then rows.foldl (fun s r => markRow s r.1 r.2) s else s
    if next ≠ 0 then .next s
    else
      let ch := chanGet s chan
      .next (bump1 (chanPut s chan { ch with rowCorr := [] }) (regMemChScrub chan))

/-! ### Temperature (R470, R471) -/

/-- The cap a reading leaves, given the one in force: lifted 3 °C below its threshold (R471). -/
def capOf (cap temp : Nat) : Nat :=
  if 95 ≤ temp ∨ (cap = 2 ∧ 92 < temp) then 2
  else if 88 ≤ temp ∨ (1 ≤ cap ∧ 85 < temp) then 1
  else 0

/-- Start a READ_VERIFY pass as the recovery of a grey channel (R472, R474). -/
def verifyPass (s : State) (c : Nat) : State :=
  let ch := chanGet s c
  chanPut s c { ch with testRun := some ⟨1, 0, false, true⟩ }

/-- A reading of a stack's temperature is taken; the cap and the thermal grey it calls for wait for `actThermal`. A reading beyond the 8 bits of
TEMP_C is one that failed, and counts as 103 °C (R470). -/
def readThermal (s : State) (stack temp : Nat) : State :=
  let temp := if temp < 256 then temp else 103
  (List.range 16).foldl (fun s m =>
    let c := 16 * stack + m
    let ch := chanGet s c
    chanPut s c { ch with temp := temp, refresh2x := decide (85 < temp), nextCap := capOf ch.cap temp
                          nextGrey := decide (103 ≤ temp) }) s

/-- The action of the last reading of a stack takes effect: caps, thermal grey, and the recovery of a channel that has
cooled below 92 °C (R471, R472). -/
def actThermal (s : State) (stack : Nat) : State :=
  let c0 := chanGet s (16 * stack)
  let s := if c0.nextCap = c0.cap then s
    else report s 0x58 0 (unitCode s 4 (16 * stack)) (c0.temp + 256 * c0.nextCap)
  (List.range 16).foldl (fun s m =>
    let c := 16 * stack + m
    let ch := chanGet s c
    let s := if ch.nextCap = ch.cap then s else event s (regMemChEvents c) 4
    let s := chanPut s c { ch with cap := ch.nextCap, nextGrey := false }
    if ch.nextGrey then greyChan s c 1
    else if ch.thermal && rdyState s (idxChan c) == .grey && decide (ch.temp < 92) && !(rdyGet s (idxChan c)).recovered &&
        ch.testRun.isNone && !ch.worn then verifyPass s c
    else s) s

/-- THERMAL_READING_BRINGUP: before the first tick a reading acts at once (R470). -/
def execThermalReadingBringup (stack temp : Nat) (s : State) : Out :=
  powered s <|
  if 12 ≤ stack ∨ s.tsq.running then .next s else .next (actThermal (readThermal s stack temp) stack)

/-! ### Retraining, lost channels and tests (R474, R475, R482, R483) -/

/-- What training leaves of a channel's lanes, `failing` having bit 32 p + 8 g + i set for failing lane i of group g of pseudo-channel p: the LANES
field, one bit for each group with one failing lane, and whether a group has more (R465, R478). -/
def laneRepair (failing : Nat) : Nat × Bool :=
  let n := fun k => ((List.range 8).filter fun i => bit failing (8 * k + i)).length
  ((List.range 8).foldl (fun m k => if n k = 1 then m + 2 ^ k else m) 0, (List.range 8).any fun k => decide (2 ≤ n k))

/-- CHANNEL_RETRAIN_DONE: a channel left GREY by timeouts or corrections has been retrained, with lane repair; its contents are kept where every refresh
was issued in time, and are LOST otherwise, when the rows that lie there are restored. One with a group past repair is FENCED, and one that is hot as well verifies once it has cooled (R465,
R472, R474). -/
def execChannelRetrainDone (chan : Nat) (kept : RetrainReport) (s : State) : Out :=
  let ch := chanGet s chan
  if 192 ≤ chan ∨ rdyState s (idxChan chan) ≠ .grey ∨ (ch.thermal ∧ !ch.worn) ∨ ch.lost then .next s
  else
    let (lanes, past) := laneRepair kept.failing
    let s := chanPut s chan { ch with silent := false, worn := false, lanes := lanes }
    if past then .next (setUnit s (idxChan chan) .fenced 0)
    else if kept.kept then .next (if ch.thermal ∧ 92 ≤ ch.temp then s else verifyPass s chan)
    else
      let s := event s (regMemChEvents chan) 5
      let (n, s) := reportFull s 0x57 4 3 (unitCode s 4 chan) (unitCode s 4 chan) true 0
      .next (restoreChan (chanPut s chan { chanGet s chan with lost := true, lostSeq := n, refreshKept := false }) chan)

/-- Whether a mode may run in the channel's present state (R475). -/
def modeAllowed (s : State) (c mode : Nat) : Bool :=
  let st := rdyState s (idxChan c)
  match mode with
  | 1 => st != .absent
  | 2 => st == .training || st == .testing || (chanGet s c).lost
  | _ => false

/-- START: MEM_CH_CTL takes PATTERN and MODE, and a test of MODE starts where the channel's state allows it. DESIGN CHOICE: a running
test goes on, and DESTRUCTIVE under a reserved PATTERN does not start (R475, R476, R482; log 62). -/
def execStart (chan value : Nat) (s : State) : Out :=
  if 192 ≤ chan then .next s
  else
    let s := fset s (regMemChCtl chan) 7 2 (bits value 7 2)
    let mode := bits value 3 2
    let ch := chanGet s chan
    if !modeAllowed s chan mode || ch.testRun.isSome || (mode == 2 && decide (4 ≤ bits value 7 4)) then .next s
    else .next (chanPut s chan { ch with testRun := some ⟨mode, bits value 7 4, false, false⟩ })

/-- The zero fill of a lost channel begins: DESTRUCTIVE with patterns 0 to 3, then every unit 0 (R474). -/
def startClear (s : State) (c : Nat) : State :=
  let ch := chanGet s c
  chanPut s c { ch with clearHeld := false, testRun := some ⟨2, 0, true, false⟩ }

/-- Whether a channel's zero fill is running. -/
def clearing (ch : Chan) : Bool :=
  match ch.testRun with
  | some t => t.clear
  | none => false

/-- CLEAR_LOST: no effect unless the channel is LOST; held while its CH_LOST record is pending (R474). -/
def execClearLost (chan : Nat) (s : State) : Out :=
  let ch := chanGet s chan
  if 192 ≤ chan ∨ !ch.lost ∨ clearing ch then .next s
  else if ackPending s ch.lostSeq then .next (chanPut s chan { ch with clearHeld := true })
  else .next (startClear s chan)

/-- Every unit of a channel is written 0; the generation of each page whose bytes that changes rises (04 R170). -/
def zeroChan (s : State) (c : Nat) : State :=
  let ch := chanGet s c
  let mine := fun b : Host.Cell => space b.1 == .hbm && (chanOf s b.1).1 == c
  let pages := ((s.mem.filter mine).map fun b => b.1 / 4096).eraseDups
  let s := pages.foldl raiseGen { s with mem := s.mem.filter fun b => !mine b }
  chanPut s c { ch with wcb := [], bad := [], remap := ch.remap.map fun e => { e with raw := 0 } }

/-- Units of a channel. -/
def chanUnits : Nat := 2 ^ 25

/-- A test pattern in the first `n` units of a channel, spare group included, each written whole: every page that this changes rises in generation (R475,
R476; 04 R170). -/
def fillPattern (s : State) (c pattern n : Nat) : State :=
  let unit := fun (s : State) (u : Nat) =>
    let a := addrOf s c (64 * u)
    let s := if readBytes s a 64 = patternUnit c pattern u then s else raiseGen s (a / 4096)
    let s := chanPut s c (cureUnit { chanGet s c with wcb := (chanGet s c).wcb.filter fun x => x.unit ≠ u } u)
    putBytes s a (patternUnit c pattern u)
  (List.range n).foldl unit s

/-- ABORT: the running test stops at the offset it has reached, a free value. DESTRUCTIVE writes its pattern to every unit before it reads any back: it
stops with the pattern in a free number of them. What failed before the stop counts in FAILS, a free value too, and no row is known to have failed
(R475, R482, R483; DESIGN CHOICE, log 62). -/
def execAbort (chan : Nat) (s : State) : Out :=
  match (chanGet s chan).testRun with
  | none => .next s
  | some t =>
    if 192 ≤ chan then .next s
    else
      let (d, s) := drawN s 4
      let n := Config.freeNat d % (chanUnits + 1)
      let at_ := if t.mode = 2 ∧ n < chanUnits then n else Config.freeNat (d + 1) % chanUnits
      let s := if t.mode = 2 then fillPattern s chan (if t.clear then Config.freeNat (d + 2) % 4 else t.pattern) n else s
      .next (chanPut s chan { chanGet s chan with
        testRun := none, result := 4, position := 64 * at_, fails := Config.freeNat (d + 3) % (at_ + 1) })

/-- What a test found is acted on: each unit that failed is a row failure, and each unit that READ_VERIFY corrected counts toward its row's (R466,
R475). -/
def testFindings (s : State) (c mode : Nat) (r : TestReport) : State :=
  let s := if mode = 1 then r.corrected.foldl (fun s e => corrected s c (e.1 / 64) e.2) s else s
  r.failing.foldl (fun s o => if mode = 1 then uncorrected s c (o / 64) true else rowFailed s c (o / 1024)) s

/-- A channel's test is over, with its result (R483). -/
def testOver (s : State) (c fails : Nat) : State :=
  let res := if rdyState s (idxChan c) == .fenced then 3 else if fails = 0 then 1 else 2
  chanPut s c { chanGet s c with testRun := none, result := res, fails := fails, position := 2 ^ 31 - 64 }

/-- MEM_TEST_COMPLETE: the running test of a channel ends with what it found. A clear zero-fills the channel and ends its loss, DESTRUCTIVE leaves its
pattern in every unit, and a recovery's pass sets RECOVERED if it has passed: with a failure that was not known before, it runs again (R474, R475, R483;
15 R572). -/
def execMemTestComplete (chan : Nat) (failing : TestReport) (s : State) : Out :=
  match (chanGet s chan).testRun with
  | none => .next s
  | some t =>
    let known := failing.failing.all fun o => rawMarked (chanGet s chan) (o / 64)
    let s := testOver (testFindings s chan t.mode failing) chan failing.failing.length
    if t.clear then
      let s := zeroChan s chan
      .next (setRecovered (chanPut s chan { chanGet s chan with lost := false }) (idxChan chan))
    else if t.recovery then
      .next (if known then setRecovered (chanPut s chan { chanGet s chan with thermal := false }) (idxChan chan) else verifyPass s chan)
    else if t.mode = 2 then .next (fillPattern s chan t.pattern chanUnits)
    else .next s

/-- REMAP_COPY_DONE: the copy into the spare is complete and its entry active; requests held to the row are served from
the spare (R466). -/
def execRemapCopyDone (chan row : Nat) (s : State) : Out :=
  let ch := chanGet s chan
  if 192 ≤ chan then .next s
  else .next (chanPut s chan { ch with remap := ch.remap.map fun e => if e.row = row then { e with active := true } else e })

end Sys2Proof.Machine
end

