-- ==== Sys2Proof/Machine/Sched.lean ====
section
/-! DEFINITION. Tasks, flows and the hardware scheduler: acceptance, targets, lists, dispatch, the commit point, aborts,
re-runs and releases (10; 03 R91, R96, R97). -/

namespace Sys2Proof.Machine

/-! ### Descriptors (R382-R384) -/

/-- A task descriptor from its 128 bytes (R382). -/
def readDesc (b : List Byte) : TaskDesc :=
  ⟨fld b 0 6, fld b 6 2, fld b 8 3, bits (fld b 0xB 1) 2 0, bit (fld b 0xB 1) 3, fld b 0xC 4, fld b 0x10 3 % 2 ^ 17, fld b 0x13 1,
    fld b 0x14 2, fld b 0x18 6, (List.range 4).map fun i => fld b (0x20 + 8 * i) 8,
    (List.range 8).map fun i => fld b (0x40 + 8 * i) 8⟩

/-- Whether an address lies in the code pages of a registered pipeline. -/
def inCode (s : State) (a : Nat) : Bool :=
  s.pci.pipes.any fun e => e.2.active && decide (e.2.code ≤ a) && decide (a < e.2.code + e.2.pages * 4096)

/-- Whether an address may take a 32-byte completion record (R384). -/
def compOk (s : State) (a : Nat) : Bool :=
  a == 0 || (a % 32 == 0 && (match space a with | .hbm => true | .scratch _ => true | _ => false) && reachable s a &&
    !pageProtected s (a / 4096))

/-- Base and limit of a region word (R383). -/
def regionBounds (w : Nat) : Nat × Nat := (bits w 63 28 * 4096, bits w 63 28 * 4096 + w % 2 ^ 28 * 4096)

/-- Whether the scheduler refuses a descriptor; `inner` where it comes from a strand or the gather engine, by whatever
road (R384). -/
def badDesc (s : State) (b : List Byte) (inner : Bool) : Bool :=
  let d := readDesc b
  b.length != 128 || decide (fld b 0xB 1 ≥ 16) || decide (fld b 0x10 3 ≥ 2 ^ 17) || !zeroAt b 0x16 2 || !zeroAt b 0x1E 2 ||
    d.entry % 8 != 0 || !inCode s d.entry || (decide (255 < d.pref) && d.pref != 0xFFFF) ||
    decide (period s ≤ d.dueOff * 100) || !compOk s d.compAddr ||
    (inner && decide (1 ≤ d.compHitch ∧ d.compHitch < 0x1000)) ||
    d.regions.any fun w => decide (2 ^ 48 < (regionBounds w).2)

/-! ### Targets and lists (R387, R392) -/

/-- The logical core of a bucket of the flow-affinity map (R366); before placement writes the map bucket b names core
b mod 256. -/
def bucketCore (s : State) (b : Nat) : Nat := mget (fun b => b % 256) s.plc.affinity (b % 4096)

/-- Whether a logical core is in service: a core holds its number, outside a GREY die (R387; 15 R586). -/
def coreServes (s : State) (l : Nat) : Bool :=
  match physOf s l with
  | some p => rdyState s (idxDie (coreDie p)) != .grey
  | none => false

/-- The target core of a task, and whether its PREF_CORE is held by no core (R387). -/
def target (s : State) (d : TaskDesc) (id : Nat) (ovr : Option Nat) (ignorePref : Bool) : Nat × Bool :=
  let byMap := if d.flow ≠ 0 then bucketCore s d.flow else bucketCore s id
  match ovr with
  | some l => (l, false)
  | none =>
    if ignorePref || d.pref == 0xFFFF then (byMap, false)
    else if coreServes s d.pref then (d.pref, false)
    else (byMap, (physOf s d.pref).isNone)

/-- The die that serves a logical core. -/
def dieOf (s : State) (l : Nat) : Nat :=
  match physOf s l with
  | some p => coreDie p
  | none => l / 64 % 4

/-- Entries of a ready list of a logical core and level, the re-run area apart (R392). -/
def listLen (s : State) (l prio : Nat) : Nat :=
  (s.sch.tasks.filter fun e =>
    e.2.state == .ready && e.2.lcore == l && !e.2.inRerun && e.2.desc.prio == prio).length

/-- Entries of a die's delay list (R390). -/
def delayLen (s : State) (d : Nat) : Nat := (s.sch.tasks.filter fun e => e.2.state == .delayed && e.2.die == d).length

/-- Count a PREF_CORE that no core holds (R387). -/
def prefLost (s : State) (lost : Bool) : State := if lost then event (bump1 s regSchPrefLost) regSchEvents 3 else s

/-- A task enters the ready list of a core (R392). -/
def enterList (s : State) (id : Nat) (t : Task) (l : Nat) (gated : Bool) : State :=
  let s := { s with sch := { s.sch with entrySeq := s.sch.entrySeq + 1 } }
  let t := { t with state := .ready, lcore := l, die := dieOf s l, stamp := s.now, seq := s.sch.entrySeq, gated := gated
                    waitFrom := if mayStart s then s.now else max s.now (s.tsq.tickStart + period s) }
  noteDepth (taskPut s id t) l

/-- A task just accepted. -/
def newTask (d : TaskDesc) (req : Nat) : Task :=
  ⟨req, d, .ready, 1, 0, 0, 0, 0, 0, false, false, false, 0, 0, 0, 0, 0, 0, 0, 0, 0, false, none⟩

/-- The due instant of a task accepted in a tick (R390). -/
def dueAt (s : State) (tick off : Nat) : Nat := tickAt s tick + off * 100

/-- How the scheduler answers a source: 0 accepted, 1 refused, 2 its ready list is full, 3 its delay list is full (R384,
R390, R396). -/
def submit (s : State) (b : List Byte) (req : Nat) (inner : Bool) : Nat × State :=
  if badDesc s b inner then (1, event (bump1 s regSchBadTask) regSchEvents 2)
  else
    let d := readDesc b
    let id := rget s regSchTaskId
    let (l, lost) := target s d id none false
    let accept := fun (s : State) => bump1 (rset s regSchTaskId (id + 1)) regSchAccepted
    let due := dueAt s (s.tsq.tick + d.delayTicks) d.dueOff
    if s.now < due ∧ (0 < d.delayTicks ∨ 0 < d.dueOff) then
      let die := dieOf s l
      if 65536 ≤ delayLen s die then (3, event s regSchEvents 1)
      else
        let s := accept { s with sch := { s.sch with entrySeq := s.sch.entrySeq + 1 } }
        (0, taskPut s id { newTask d req with state := .delayed, die := die, seq := s.sch.entrySeq, stamp := s.now
                                              dueTick := s.tsq.tick + d.delayTicks })
    else if 1024 ≤ listLen s l d.prio then (2, event s regSchEvents 0)
    else (0, enterList (prefLost (accept s) lost) id { newTask d req with preferLost := lost } l false)

/-! ### Dispatch (R393-R395; R91) -/

/-- Whether a task keeps its flow in service (R395, R406). -/
def inService (t : Task) : Bool :=
  t.state == .running || t.state == .ending || t.state == .ended || t.state == .rerun ||
    (t.state == .ready && decide (1 < t.attempt))

/-- Whether an entry may start (R395). -/
def startable (s : State) (id : Nat) (t : Task) : Bool :=
  t.state == .ready && !t.gated &&
    (t.desc.flow == 0 || decide (1 < t.attempt) ||
      !(s.sch.tasks.any fun e => e.1 != id && e.2.desc.flow == t.desc.flow &&
          (inService e.2 || (e.2.state == .ready && decide (e.2.seq < t.seq)))))

/-- Whether a task's flow last ran on a core. -/
def flowHere (s : State) (t : Task) (l : Nat) : Bool := t.desc.flow != 0 && pfind s.sch.flowLast t.desc.flow == some l

/-- The earliest arrival stamp among entries, order of entry deciding a tie. -/
def earliest (l : List (Nat × Task)) : Option (Nat × Task) := minBy (fun e => e.2.stamp * 2 ^ 64 + e.2.seq) l

/-- The tick a device time lies in. -/
def tickOf (s : State) (t : Nat) : Nat := (t - phaseNs s) / max 1 (period s)

/-- The entry of its own lists that a core's dispatcher chooses (R393, R394). -/
def chooseOwn (s : State) (l : Nat) : Option (Nat × Task) :=
  let es := s.sch.tasks.filter fun e => e.2.lcore == l && startable s e.1 e.2
  let rr := es.filter fun e => e.2.inRerun
  if !rr.isEmpty then earliest rr
  else
    match minBy (fun e : Nat × Task => 7 - e.2.desc.prio) es with
    | none => none
    | some top =>
      let lv := es.filter fun e => e.2.desc.prio == top.2.desc.prio
      if top.2.desc.prio ≠ 0 then earliest lv
      else match earliest lv with
        | none => none
        | some o =>
          let lv := lv.filter fun e => tickOf s e.2.stamp == tickOf s o.2.stamp
          let own := lv.filter fun e => flowHere s e.2 l
          if own.isEmpty then earliest lv else earliest own

/-- The level-0 entry of another core of its die that a core may take: one with no PREF_CORE, or one whose PREF_CORE no core held (R387, R394). -/
def chooseSteal (s : State) (l : Nat) : Option (Nat × Task) :=
  if fget s regSchCfg 0 0 = 0 then none
  else
    let es := s.sch.tasks.filter fun e => e.2.lcore != l && dieOf s e.2.lcore == dieOf s l && e.2.desc.prio == 0 &&
      !e.2.inRerun && (e.2.desc.pref == 0xFFFF || e.2.preferLost) && startable s e.1 e.2
    let own := es.filter fun e => flowHere s e.2 l
    if own.isEmpty then earliest es else earliest own

/-- The lowest-numbered IDLE strand of a core. -/
def idleStrand (s : State) (p : Nat) : Option Nat := (List.range 64).find? fun n => (hartAt s (64 * p + n)).st == .idle

/-- Start a task on a strand (R91). -/
def startTask (s : State) (id : Nat) (t : Task) (l p n : Nat) : State :=
  let s := if t.lcore = l then s
    else let c := telGet s l; telPut s l { c with stolen := c.stolen + 1 }
  let c := telGet s l
  let s := telPut s l { c with dispatched := c.dispatched + 1, waitSum := c.waitSum + (s.now - t.waitFrom) }
  let s := bump1 s regSchDispatched
  let s := taskPut s id { t with state := .running, lcore := l, pcore := p, die := coreDie p, strand := n, started := true
                                 inRerun := false, startAt := s.now, mismatches := 0, result := 0 }
  let s := if t.desc.flow = 0 then s
    else { s with sch := { s.sch with flowLast := pput s.sch.flowLast t.desc.flow l } }
  let args := Vector.ofFn fun i : Reg => if i.val = 0 ∨ 8 < i.val then 0 else BitVec.ofNat 64 (t.desc.args.getD (i.val - 1) 0)
  hartSet s (64 * p + n) { hartReset with st := .ready, task := id, pc := BitVec.ofNat 48 t.desc.entry, regs := args, startAt := s.now }

/-- TASK_DISPATCH: an IDLE strand of a logical core takes the chosen task, from a neighbour where it has none (R51, R393,
R394). -/
def execTaskDispatch (lcore : Nat) (s : State) : Out :=
  match physOf s lcore with
  | none => .next s
  | some p =>
    if !mayStart s || rdyState s (idxCore p) != .ready || greyAt s (idxCore p) then .next s
    else match idleStrand s p with
      | none => .next s
      | some n =>
        match chooseOwn s lcore with
        | some (id, t) => .next (startTask s id t lcore p n)
        | none =>
          match chooseSteal s lcore with
          | some (id, t) => .next (startTask s id t lcore p n)
          | none => .next s

/-! ### Delay lists (R390, R391) -/

/-- The first tick in which a delayed task may start: its due tick, or the next where it falls due at or after the settle point (R391). -/
def startTick (s : State) (t : Task) : Nat :=
  if dueAt s t.dueTick t.desc.dueOff < tickAt s t.dueTick + period s - applyLen s - settleLen s then t.dueTick else t.dueTick + 1

/-- A delayed entry moves to its ready list where it has room (R387, R391). Its waiting time runs from its acceptance, or from T+0 of the first tick
in which it may start where that is later, so that it takes in time on the delay list (R408; DEDUCED, log 61). -/
def moveDelayed (s : State) (id : Nat) (t : Task) : State :=
  let (l, lost) := target s t.desc id none false
  if 1024 ≤ listLen s l t.desc.prio then event s regSchEvents 0
  else
    let s := enterList (prefLost s lost) id { t with preferLost := lost } l false
    match taskGet s id with
    | some e => taskPut s id { e with waitFrom := max t.stamp (tickAt s (startTick s t)) }
    | none => s

/-- The place of a delayed entry in the order of the list (R390). -/
def delayKey (t : Task) : Nat := (t.dueTick * 2 ^ 17 + t.desc.dueOff) * 2 ^ 64 + t.seq

/-- Whether a delayed entry may leave the list now: its due instant has passed, and not within the run of held ticks this one belongs to (R391;
02 R65). -/
def dueNow (s : State) (t : Task) : Bool :=
  let due := dueAt s t.dueTick t.desc.dueOff
  t.state == .delayed && decide (due ≤ s.now) && !(s.tsq.holdTick && decide (s.tsq.heldFrom ≤ due))

/-- Whether an entry is the first in key order of those due entries of its die whose ready lists have room (R391). -/
def firstDue (s : State) (id : Nat) (t : Task) : Bool :=
  !(s.sch.tasks.any fun e => e.1 != id && dueNow s e.2 && e.2.die == t.die && decide (delayKey e.2 < delayKey t) &&
      decide (listLen s (target s e.2.desc e.1 none false).1 e.2.desc.prio < 1024))

/-- DELAY_ENTRY_DUE: an entry reaches its due instant and moves, unless the settle point has come, the tick runs under a hold plan, or an entry
before it may move first (R65, R391). -/
def execDelayEntryDue (task : Nat) (s : State) : Out :=
  match taskGet s task with
  | none => .next s
  | some t =>
    if t.state ≠ .delayed then .next s
    else
      let s := advance s (dueAt s t.dueTick t.desc.dueOff)
      .next (if mayStart s && dueNow s t && firstDue s task t then moveDelayed s task t else s)

/-- DELAY_ENTRY_ROOM: an entry past its due instant moves once its ready list has room, in key order (R391). -/
def execDelayEntryRoom (task : Nat) (s : State) : Out :=
  match taskGet s task with
  | none => .next s
  | some t => .next (if mayStart s && dueNow s t && firstDue s task t then moveDelayed s task t else s)

/-- The entries that fell due and could not move do so at T+0, in key order (R51, R391). -/
def delayedAtStart (s : State) : State :=
  (sortBy (fun e : Nat × Task => delayKey e.2) (s.sch.tasks.filter fun e => dueNow s e.2)).foldl (fun s e => moveDelayed s e.1 e.2) s

/-! ### The commit point (R398-R404) -/

/-- The final record (R399). -/
def finalRecord (id : Nat) (t : Task) (status cause result : Nat) : List Byte :=
  let cyc := if t.started then (t.endAt - t.startAt) * 3 / 5 else 0
  natLe 8 id ++ natLe 8 t.req ++ natLe 4 (if status = 0 then result else 0) ++ natLe 1 status ++ natLe 1 cause ++
    natLe 1 t.attempt ++ natLe 1 0 ++ natLe 4 cyc ++ natLe 2 (if t.started then t.lcore else 0xFFFF) ++
    natLe 1 (if t.started then t.strand else 0xFF) ++ natLe 1 0

/-- The final record of a task is written, its completion signal falls due and the task is done (R399, R402). -/
def finishTask (s : State) (id : Nat) (t : Task) (status cause result : Nat) : State :=
  let s := if t.desc.compAddr = 0 then s else memWrite s t.desc.compAddr (finalRecord id t status cause result)
  { s with sch := { s.sch with
    tasks := pdel s.sch.tasks id
    comp := if t.desc.compHitch = 0 then s.sch.comp else s.sch.comp ++ [t.desc.compHitch] } }

/-- Whether a status and cause are marked for re-run (R126, R325, R401, R404, R472). -/
def rerunCause (status cause : Nat) : Bool :=
  status == 1 || status == 2 || status == 4 || (status == 3 && [5, 6, 7, 8, 0xA, 0xC, 0xD].contains cause)

/-- The attempts a task may have (R382, R409). -/
def runLimit (s : State) (d : TaskDesc) : Nat := if d.runLimit = 0 then fget s regSchCfg 15 8 else d.runLimit

/-- Whether an ended attempt is re-run (R404). -/
def willRerun (s : State) (t : Task) : Bool :=
  rerunCause t.status t.cause && t.desc.rerun && decide (t.attempt < runLimit s t.desc)

/-- The arbiter grants the outcome of an ended attempt: a re-run, or the final record (R398, R399, R404). -/
def grantFinal (s : State) (id : Nat) : State :=
  match taskGet s id with
  | none => s
  | some t =>
    if t.state ≠ .ended then s
    else if willRerun s t then
      let c := telGet s t.lcore
      bump1 (telPut (taskPut s id { t with state := .rerun }) t.lcore { c with rerun := c.rerun + 1 }) regSchRerun
    else finishTask s id t t.status t.cause t.result

/-- The result of an abort goes to its source (R416). -/
def abortResult (s : State) (b : Aborter) (res : Nat) : State :=
  match b with
  | .ctrl k => rset s (regSchAbortRes k) res
  | .request _ => s

/-- Take a strand away from a task that an abort ends: its commands are cancelled (R111, R397). -/
def stopStrand (s : State) (id : Nat) (t : Task) : State :=
  let n := 64 * t.pcore + t.strand
  let gone := ((coreGet s t.pcore).cmds.filter fun c => c.task == id).map (·.id)
  let s := matEnd (cancelCmds s t.pcore id) t.pcore t.strand gone false
  let s := hartSet (departLatch s n) n hartReset
  let c := telGet s t.lcore
  bump1 (telPut s t.lcore { c with ended := c.ended + 1 }) (regCorTaskCnt t.pcore)

/-- An abort is decided: it wins while nothing of the task has been granted, an outcome that reached the arbiter after it included, and otherwise
returns ALREADY_DONE (R397, R398, R401, R403). -/
def decideAbort (s : State) (id : Nat) (b : Aborter) : State :=
  match taskGet s id with
  | none => abortResult (bump1 s regSchAbortLost) b 2
  | some t =>
    let live := t.state == .running || t.state == .ending
    let s := if live then stopStrand s id t else s
    let t := if live then { t with endAt := s.now } else t
    let s := report s 0x10B 1 (unitCode s 2 t.pcore) id
    abortResult (bump1 (finishTask s id t 3 0xB 0) regSchAbortWon) b 1

/-- Whether an arbiter request concerns a die. -/
def arbDie (s : State) (die : Nat) (r : ArbReq) : Bool :=
  let id := match r with
    | .final t => t
    | .abort t _ => t
  match taskGet s id with
  | some t => t.die == die
  | none => die == 0

/-- One arbiter request is decided. -/
def decide1 (s : State) (r : ArbReq) : State :=
  match r with
  | .final t => grantFinal s t
  | .abort t b => decideAbort s t b

/-- COMMIT_ARBITER_GRANT: the first request to reach a die's commit arbiter is decided (R398). -/
def execCommitArbiterGrant (die : Nat) (s : State) : Out :=
  match s.sch.arb.find? (arbDie s die) with
  | none => .next s
  | some r => .next (decide1 { s with sch := { s.sch with arb := s.sch.arb.erase r } } r)

/-- Every outcome waiting at the arbiters is decided: the cut-off writes its records before the switch stage (R399). -/
def grantAll (s : State) : State :=
  let rs := s.sch.arb
  rs.foldl decide1 { s with sch := { s.sch with arb := [] } }

/-- COMP_HITCH_SIGNAL: a completion signal reaches its hitch (R402). -/
def execCompHitchSignal (s : State) : Out :=
  match s.sch.comp with
  | [] => .next s
  | h :: r =>
    let (st, s) := signalHitch { s with sch := { s.sch with comp := r } } h
    .next (if st = 3 then event (bump1 s regSchHitchOvf) regSchEvents 4 else s)

/-- SCH_ABORT: a control core names a task; an id never given out is rejected at once, and a write while BUSY ignored
(R415, R416). -/
def execSchAbort (k task : Nat) (s : State) : Out :=
  powered s <|
  if 20 ≤ k ∨ bit (rget s (regSchAbortRes k)) 31 then .next s
  else if rget s regSchTaskId ≤ task then .next (rset s (regSchAbortRes k) 3)
  else .next { rset s (regSchAbortRes k) (2 ^ 31 + rget s (regSchAbortRes k) % 4) with sch := { s.sch with arb := s.sch.arb ++ [.abort task (.ctrl k)] } }

/-- Whether an arbiter request is an abort of a task. -/
def isAbortOf (task : Nat) (r : ArbReq) : Bool :=
  match r with
  | .abort t _ => t == task
  | .final _ => false

/-- ABORT_ARRIVAL: the first abort of a task is decided; an outcome of the task that reached the arbiter before it is
granted first (R398). -/
def execAbortArrival (task : Nat) (s : State) : Out :=
  match s.sch.arb.find? (isAbortOf task) with
  | none => .next s
  | some r =>
    let before := s.sch.arb.takeWhile fun x => !isAbortOf task x
    let s := if before.contains (.final task) then
        grantFinal { s with sch := { s.sch with arb := s.sch.arb.erase (.final task) } } task
      else s
    .next (decide1 { s with sch := { s.sch with arb := s.sch.arb.erase r } } r)

/-- Ask the arbiters to abort every task of a request that is not yet committed (R403). -/
def abortTasks (s : State) (req : Nat) : State :=
  let ids := (s.sch.tasks.filter fun e => e.2.req == req).map (·.1)
  { s with sch := { s.sch with arb := s.sch.arb ++ ids.map fun t => .abort t (.request req) } }

/-- TASK_COMMIT_REQUEST: a task that has ended by TEND presents OK once its commands are complete (R396, R397). -/
def execTaskCommitRequest (h : Hart) (s : State) : Out :=
  match h with
  | .ctrl _ => .next s
  | .strand c _ =>
    let t := hart s h
    if t.wait ≠ .ending ∨ (coreGet s c.val).cmds.any (fun x => x.task == t.task) then .next s
    else match taskGet s t.task with
      | some k => .next (endOwn s t.task 0 0 k.result 0)
      | none => .next s

/-! ### Waits of strands (R96, R97) -/

/-- Whether a strand's wait is over, where the strand itself can tell. -/
def waitOver (s : State) (h : Hart) : Bool :=
  let t := hart s h
  match h with
  | .ctrl _ => (match t.wait with | .remote _ _ => false | .hitch _ => false | .barrier _ => false | _ => true)
  | .strand c _ =>
    match t.wait with
    | .nothing => true
    | .queueRoom => decide ((coreGet s c.val).cmds.length < 256)
    | .listRoom x => let a := (submit s (readBytes s (spBase c.val + x) 128) 0 true).1; a != 2 && a != 3
    | .command id => !outstanding s c.val id
    | .drain => t.drain.all fun d => d.2.isSome
    | _ => false

/-- STRAND_WAIT_END: the condition a strand in WAIT awaits holds, and it is READY; its instruction is issued again. A wait
for room keeps its deadline until the instruction is accepted (R96). -/
def execStrandWaitEnd (h : Hart) (s : State) : Out :=
  let t := hart s h
  if t.st ≠ .wait ∨ !waitOver s h then .next s
  else .next (putHart s h { t with st := .ready, wait := .nothing
                                   deadline := match t.wait with
                                     | .listRoom _ => t.deadline
                                     | .queueRoom => t.deadline
                                     | _ => 0 })

/-- STRAND_TIMEOUT: a wait deadline passes; at the apply point the cut-off wins (R96, R97, R575). -/
def execStrandTimeout (h : Hart) (s : State) : Out :=
  let t := hart s h
  if (t.st ≠ .wait ∧ t.st ≠ .spin) ∨ t.deadline = 0 then .next s
  else
    let s := advance s t.deadline
    if s.tsq.running ∧ applyAt s ≤ t.deadline then .next s
    else match h with
      | .strand _ _ => .next (endTask s t.task 3 7 0 t.pc.toNat)
      | .ctrl k => .next (ctrlFault s k.val 7)

/-! ### Releases (R388, R389) and re-runs (R405) -/

/-- Read and enter a released descriptor where its list has room: answers whether it was taken. Its DELAY_TICKS and DUE_OFF are checked and not
used: it enters its ready list (R389; DEDUCED, log 61). -/
def enterRelease (s : State) (r : Release) (gated : Bool) : Bool × State :=
  let b := readBytes s r.addr 128
  if badDesc s b false then (true, event (bump1 s regSchBadTask) regSchEvents 2)
  else
    let d := readDesc b
    let id := rget s regSchTaskId
    let (l, lost) := target s d id r.core false
    if 1024 ≤ listLen s l d.prio then (false, event s regSchEvents 0)
    else
      let s := bump1 (rset s regSchTaskId (id + 1)) regSchAccepted
      let s := if gated then s else bump1 s regSchLateRelease
      (true, enterList (prefLost s lost) id { newTask d r.req with item := r.item, preferLost := lost } l gated)

/-- Enter released descriptors in plan order; those whose lists are full stay, in that order (R389). -/
def enterReleases (gated : Bool) : List Release → State → List Release × State
  | [], s => ([], s)
  | r :: rest, s =>
    let (ok, s) := enterRelease s r gated
    let (left, s) := enterReleases gated rest s
    (if ok then left else r :: left, s)

/-- The first released descriptor in plan order whose list has room is entered (R389). -/
def enterLate : List Release → State → List Release × State
  | [], s => ([], s)
  | r :: rest, s =>
    let (ok, s) := enterRelease s r false
    if ok then (rest, s)
    else
      let (left, s) := enterLate rest s
      (r :: left, s)

/-- Keep the released descriptors still to be entered. -/
def keepReleases (p : List Release × State) : State := { p.2 with sch := { p.2.sch with releases := p.1 } }

/-- RELEASE_LATE_ENTRY: a released descriptor not entered by T+0 is entered as room frees, up to the settle point (R389). -/
def execReleaseLateEntry (s : State) : Out := .next (if mayStart s then keepReleases (enterLate s.sch.releases s) else s)

/-- The descriptors that the RELEASE item of an index names (R388). -/
def releasesOf (index : Nat) (item : List Byte) : List Release :=
  let ovr := bit (fld item 1 1) 0
  (List.range (fld item 4 4)).map fun i =>
    ⟨fld item 8 8 % 2 ^ 48 + 128 * i, fld item 0x10 8, if ovr then some (fld item 2 2) else none, if ovr then some index else none⟩

/-- Open the gates of the released tasks at T+0 (R389). -/
def openGates (s : State) : State :=
  { s with sch := { s.sch with tasks := s.sch.tasks.map fun e => (e.1, { e.2 with gated := false }) } }

/-- Released descriptors not entered at the settle point are dropped (R389). -/
def dropReleases (s : State) : State :=
  let n := s.sch.releases.length
  if n = 0 then s
  else event (bump { s with sch := { s.sch with releases := [] } } regSchReleaseDrop n) regSchEvents 5

/-- The re-runs of the tick are placed at T+0: in the re-run area of the core they last ran on, or at the head of its
ready list (R405). -/
def placeReruns (s : State) : State :=
  (s.sch.tasks.filter fun e => e.2.state == .rerun).foldl (fun s e =>
    let (id, t) := e
    let l := if coreServes s t.lcore then t.lcore else (target s t.desc id none true).1
    let area := (s.sch.tasks.filter fun e => e.2.state == .ready && e.2.lcore == l && e.2.inRerun).length
    noteDepth (taskPut s id { t with state := .ready, attempt := t.attempt + 1, lcore := l, die := dieOf s l
                                     inRerun := decide (area < 64), waitFrom := s.now, started := false }) l) s

/-! ### Cores, dies and the device going away (R407; 15 R586, R591) -/

/-- An attempt that has ended LATE of itself at the apply point, with its outcome still to be granted, ends GREY where its unit enters FENCED or GREY in
that same cycle: it counts as LATE no more (03 R97; 15 R575). -/
def outerEnd (s : State) (id : Nat) (t : Task) (cause : Nat) : State :=
  let c := telGet s t.lcore
  let s := telPut (taskPut s id { t with status := 1, cause := cause }) t.lcore { c with late := c.late - 1 }
  let s := rset s regSchLate (rget s regSchLate - 1)
  report s (0x100 + cause) 1 (unitCode s 2 t.pcore) id

/-- The tasks in flight that satisfy a test end GREY with a cause. -/
def endGrey (s : State) (p : Task → Bool) (cause : Nat) : State :=
  let s := (s.sch.tasks.filter fun e => e.2.state == .ended && e.2.status == 2 && e.2.endAt == s.now && atApply s && p e.2).foldl
    (fun s e => outerEnd s e.1 e.2 cause) s
  (s.sch.tasks.filter fun e => (e.2.state == .running || e.2.state == .ending) && p e.2).foldl
    (fun s e => endTask s e.1 1 cause 0 0) s

/-- The entries of numbers that no core holds move to the cores the affinity map names, keeping their stamps; a PREF_CORE that no core holds counts
once, when its number has gone (R387, R407). -/
def rehome (s : State) : State :=
  (s.sch.tasks.filter fun e => (e.2.state == .ready || e.2.state == .rerun) && (physOf s e.2.lcore).isNone).foldl
    (fun s e =>
      let (l, _) := target s e.2.desc e.1 none true
      let lost := e.2.desc.pref == e.2.lcore && !e.2.preferLost
      noteDepth (taskPut (prefLost s lost) e.1 { e.2 with lcore := l, die := dieOf s l, preferLost := e.2.preferLost || lost }) l) s

/-- TASK_MESSAGE_RX: a remote submission; one that finds its list full waits in the message layer, and the port withholds
its credits; a refused one writes a record naming the sender, of kind SA_REFUSED for want of one of its own (R386, R396; 13
R503; 03 R113). -/
def execTaskMessageRx (src tag : Nat) (body : List Byte) (s : State) : Out :=
  powered s <|
  let (st, s) := submit s (body.take 128) (fld body 128 8) true
  if st = 2 ∨ st = 3 then .next s
  else
    let s := if st = 1 then report s 0x65 1 (devCode src) 0 else s
    .next (takeMsg s src tag 0x0B)

end Sys2Proof.Machine
end

