-- ==== Sys2Proof/Machine/Plait.lean ====
section
/-! DEFINITION. Plait neighbour lists: reading, checking and sampling one list or hub (04 R142-R152, R159-R164). -/

namespace Sys2Proof.Machine

/-- What stops a walk: a demand read fails with a cause at an address, the list is malformed, or a fragment was answered grey. -/
inductive Stop where
  | cause (k addr : Nat)
  | format
  | grey
deriving DecidableEq, Repr

/-- Why a walk ends without its edges: it stops, after so many lists and fragments were walked and so many edges decoded, once that is known; the
list lacks a section; or something of a fragment of another device must be fetched first, by its address and kind. -/
inductive WErr where
  | stop (w : Stop) (work : Option (Nat × Nat))
  | noSection
  | need (addr kind : Nat)
deriving DecidableEq, Repr

/-- A walk stops with the work done so far still to be added. -/
def halt {α : Type} (w : Stop) : Except WErr α := .error (.stop w none)

/-- FORMAT unless a check holds (R150). -/
def check (b : Bool) : Except WErr Unit := if b then .ok () else halt .format

/-- A demand read of a gather engine (03 R126; 12 R464, R472). -/
def readW (s : State) (a n : Nat) : Except WErr (List Byte) :=
  if n = 0 then .ok []
  else if !reachable s a || !reachable s (a + n - 1) then halt (.cause 3 a)
  else match readCause s a n with
    | some k => halt (.cause k a)
    | none => .ok (readBytes s a n)

/-- A list as its header describes it (R143); `offs` are the offsets of the weight, time and alias sections. -/
structure PList where
  addr : Nat
  degree : Nat
  hub : Bool
  hasA : Bool
  hasT : Bool
  hasW : Bool
  plain : Bool
  wfmt : Nat
  blocks : Nat
  wscale : Nat
  tsBase : Nat
  offs : List Nat
deriving DecidableEq, Repr

/-- Read and check a list header (R143-R145, R150, R151). -/
def readHeader (s : State) (a : Nat) : Except WErr PList := do
  let h ← readW s a 32
  let enc := fld h 5 1
  let l : PList := ⟨a, fld h 0 5, bit enc 5, bit enc 4, bit enc 3, bit enc 2, enc % 4 == 1, fld h 6 1, fld h 8 4, fld h 0xC 2,
    fld h 0x10 4, [fld h 0x14 4, fld h 0x18 4, fld h 0x1C 4]⟩
  check (decide (enc < 64) && zeroAt h 7 1 && zeroAt h 0xE 2 && decide (enc % 4 < 2) && decide (l.wfmt ≤ 2) &&
    (l.hasW || l.wfmt == 0) &&
    (if l.hub then decide (2 ≤ l.blocks)
     else decide (l.degree ≤ 65536) && l.blocks == (l.degree + 63) / 64))
  pure l

/-- A section's offset, entries `size` bytes long, checked as it is first read (R150). -/
def sideAt (l : PList) (k size : Nat) : Except WErr Nat := do
  let off := l.offs.getD k 0
  let stop := off + size * l.degree
  let others := [(0, l.hasW, 1), (1, l.hasT, 2), (2, l.hasA, 4)].filter fun e => e.1 != k && e.2.1
  check (decide (0x20 + 4 * l.blocks ≤ off) &&
    others.all fun e => let o := l.offs.getD e.1 0
                        decide (o + e.2.2 * l.degree ≤ off) || decide (stop ≤ o))
  pure (l.addr + off)

/-- The end of the block region: the lowest offset that is not 0 (R150). -/
def regionEnd (l : PList) : Option Nat := (l.offs.filter (· ≠ 0)).min?

/-- Decode the deltas of a DELTA_GV payload: `left` ids are still to come, `room` of them from the tag in hand (R147). -/
def decodeGv : Nat → Nat → Nat → Nat → List Byte → Nat → List Nat → Except WErr (List Nat)
  | _, 0, _, _, bytes, _, acc => if bytes.isEmpty then .ok acc.reverse else halt .format
  | 0, _ + 1, _, _, _, _, _ => halt .format
  | fuel + 1, left + 1, 0, _, bytes, prev, acc =>
    match bytes with
    | [] => halt .format
    | t :: r => decodeGv fuel (left + 1) 4 t.toNat r prev acc
  | fuel + 1, left + 1, room + 1, tag, bytes, prev, acc =>
    let n := match tag % 4 with
      | 0 => 1
      | 1 => 2
      | 2 => 3
      | _ => 5
    let id := prev + leNat (bytes.take n)
    if bytes.length < n ∨ 2 ^ 40 ≤ id then halt .format
    else decodeGv fuel left room (tag / 4) (bytes.drop n) id (id :: acc)

/-- The ids of a PLAIN40 payload (R148). -/
def plainIds : Nat → List Byte → List Nat
  | 0, _ => []
  | n + 1, b => leNat (b.take 5) :: plainIds n (b.drop 5)

/-- A block decoded in a walk: its part and number, its ids, its TS_BLOCK, and where its bytes lie. -/
structure Blk where
  part : Nat
  idx : Nat
  ids : List Nat
  tsb : Nat
  at_ : Nat
  len : Nat
deriving DecidableEq, Repr

/-- Decode block `b` of a list, part `f` of the walk (R145-R148, R150). -/
def readBlock (s : State) (l : PList) (f b : Nat) : Except WErr Blk := do
  let ob ← readW s (l.addr + 0x20 + 4 * b) 4
  let off := leNat ob
  let start := (0x20 + 4 * l.blocks + 15) / 16 * 16
  check (decide (start ≤ off))
  let h ← readW s (l.addr + off) 16
  let count := fld h 5 1
  let len := fld h 6 2
  check (count == (if b + 1 < l.blocks then 64 else l.degree - 64 * b) && fld h 8 4 == 64 * b)
  let size := 16 + (len + 15) / 16 * 16
  check (match regionEnd l with
    | some e => decide (off + size ≤ e)
    | none => true)
  let pay ← readW s (l.addr + off + 16) len
  let first := fld h 0 5
  if l.plain then
    check (len == 5 * count && fld pay 0 5 == first)
    pure ⟨f, b, plainIds count pay, fld h 0xC 4, l.addr + off, size⟩
  else
    let r ← decodeGv (2 * count + 2) (count - 1) 0 0 pay first []
    pure ⟨f, b, first :: r, fld h 0xC 4, l.addr + off, size⟩

/-- The format of weight codes beside INT8 (R143). -/
def weightFmt (n : Nat) : Fmt := if n = 1 then fmtE4m3 else fmtE5m2

/-- A weight from its code: WSCALE × code (R149). -/
def weightOf (l : PList) (code : Nat) : Nat :=
  let c := if l.wfmt = 0 then (roundF (ofInt (sint 8 code))).1 else widen (weightFmt l.wfmt) code
  (mulF (widen fmtBf16 l.wscale) c).1

/-- An entry of a hub root's fragment table (R151). -/
structure FragEntry where
  addr : Nat
  base : Nat
  core : Nat
  cumW : Nat
deriving DecidableEq, Repr

/-- Read and check the fragment table of a hub root (R150, R151). DESIGN CHOICE: an ADDR with a bit of [53:48] set, or one that is no multiple of 32, is
FORMAT, as R150 has it for an index entry (log 59). -/
def readFrags (s : State) (l : PList) : Except WErr (List FragEntry) := do
  let t ← readW s (l.addr + 0x20) (32 * l.blocks)
  let es := (List.range l.blocks).map fun f => (t.drop (32 * f)).take 32
  check (es.all fun e => zeroAt e 0xD 1 && zeroAt e 0x14 12 && (fld e 0xE 2 == 0xFFFF || decide (fld e 0xE 2 ≤ 255)) &&
    bits (fld e 0 8) 53 48 == 0 && fld e 0 8 % 32 == 0)
  pure (es.map fun e => ⟨fld e 0 8, fld e 8 5, fld e 0xE 2, fld e 0x10 4⟩)

/-- What is asked of a fragment of another device: its edges with weights and times, the draws that a vertex's ALIAS makes within it, and whether it has
weights, times and aliases (R151, R164; 13 R508 gives NO_SECTION where a sampler's section is absent). -/
def askWhole : Nat := 0
/-- The draws of ALIAS. -/
def askDraws : Nat := 1
/-- A TOPK_WEIGHT of one edge. -/
def askW : Nat := 2
/-- A TOPK_RECENT of one edge. -/
def askT : Nat := 3
/-- An ALIAS of one edge. -/
def askA : Nat := 4

/-- The place of a remote fragment's answer of a kind among those a command has got; draws belong to a vertex. -/
def fragKey (addr kind vid : Nat) : Nat := 2 ^ 80 + addr + 2 ^ 84 * kind + if kind = askDraws then 2 ^ 90 * vid else 0

/-- Edges as (id, weight, time) from an answer to a LIST item asked for `slots` edges with weights and times (13 R508). An edge beyond the 65,535
that SLOTS can ask for is a free value: no request brings it (DESIGN CHOICE, log 59). -/
def answerEdges (s : State) (b : List Byte) (slots : Nat) : List (Nat × Nat × Nat) :=
  let c := fld b 0 4 % 2 ^ 28
  let n := min c slots
  (List.range n).map (fun j => (fld b (4 + 8 * j) 8, fld b (4 + 8 * n + 8 * j) 4, fld b (4 + 8 * n + 8 * j + 4) 4)) ++
    (List.range (min c 65536 - n)).map fun j => (Config.freeNat (s.freeCtr + 3 * j) % 2 ^ 40,
      Config.freeNat (s.freeCtr + 3 * j + 1) % 2 ^ 32, Config.freeNat (s.freeCtr + 3 * j + 2) % 2 ^ 32)

/-- One part of a walked list: a list of this device, or the edges of one of another device, with its first global edge
index. -/
structure Part where
  base : Nat
  degree : Nat
  list : Option PList
  edges : List (Nat × Nat × Nat)
deriving DecidableEq, Repr

/-- What a walk works on: the root, its fragments, the answers got from other devices, and whether those answers hold fragments whole or, under
ALIAS, the draws of a vertex within them. -/
structure View where
  root : PList
  frags : List FragEntry
  got : List (Nat × List Byte)
  whole : Bool
  vid : Nat
deriving DecidableEq, Repr

/-- The answer of a kind for a fragment of another device: its VSTAT and bytes; it is asked for where it has not come. -/
def fragAnswer (v : View) (addr kind : Nat) : Except WErr (Nat × List Byte) :=
  match v.got.find? (fun g => g.1 == fragKey addr kind v.vid) with
  | none => .error (.need addr kind)
  | some (_, b) => if bits (fld b 0 4) 31 28 = 8 then halt .grey else .ok (bits (fld b 0 4) 31 28, b)

/-- Whether a fragment of another device has the section that an answer's sampler needs; a malformed one is FORMAT. -/
def fragHas (v : View) (addr kind : Nat) : Except WErr Bool := do
  let a ← fragAnswer v addr kind
  check (a.1 != 7)
  pure (a.1 != 6)

/-- A fragment of another device: its bits, as three samplers' answers tell them, are the root's; whether it has aliases shows only beside weights
(R150, R151; 13 R508; DESIGN CHOICE, log 59). -/
def remotePart (s : State) (v : View) (e : FragEntry) : Except WErr Part := do
  let w ← fragHas v e.addr askW
  let t ← fragHas v e.addr askT
  check (w == v.root.hasW && t == v.root.hasT)
  let a ← if w then fragHas v e.addr askA else pure v.root.hasA
  check (a == v.root.hasA)
  let r ← fragAnswer v e.addr (if v.whole then askWhole else askDraws)
  check (r.1 == 0 || r.1 == 2)
  let es := answerEdges s r.2 (if v.whole then 65535 else fld r.2 0 4 % 2 ^ 28)
  pure ⟨e.base, es.length, none, es⟩

/-- Part f of a view: the list itself, or fragment f with its bits checked against the root's (R150, R151). -/
def part (s : State) (v : View) (f : Nat) : Except WErr Part :=
  if !v.root.hub then .ok ⟨0, v.root.degree, some v.root, []⟩
  else match v.frags[f]? with
    | none => halt .format
    | some e =>
      if bits e.addr 63 54 ≠ s.boot.dev then remotePart s v e
      else do
        let l ← readHeader s (e.addr % 2 ^ 48)
        check (!l.hub && l.hasW == v.root.hasW && l.hasT == v.root.hasT && l.hasA == v.root.hasA)
        pure ⟨e.base, l.degree, some l, []⟩

/-- The number of parts of a view. -/
def View.parts (v : View) : Nat := if v.root.hub then v.frags.length else 1

/-- The part a global edge index lies in (R161, R164). -/
def partOf (v : View) (g : Nat) : Nat :=
  if !v.root.hub then 0
  else (v.frags.zipIdx.foldl (fun f e => if e.1.base ≤ g then e.2 else f) 0)

/-- The weights of a part, in edge order. -/
def partWeights (s : State) (p : Part) : Except WErr (List Nat) :=
  match p.list with
  | none => .ok (p.edges.map (·.2.1))
  | some l => do
    let a ← sideAt l 0 1
    let b ← readW s a l.degree
    pure (b.map fun c => weightOf l c.toNat)

/-- One edge's time (R149, R150). -/
def timeOf (s : State) (l : PList) (tsb e : Nat) : Except WErr Nat := do
  let a ← sideAt l 1 2
  let d ← readW s (a + 2 * e) 2
  let t := l.tsBase + tsb + leNat d
  check (decide (t < 2 ^ 32))
  pure t

/-- The blocks decoded so far in a walk. -/
abbrev Blocks := List Blk

/-- A walk that stops has walked the root, the fragments it has read and those it decoded blocks of, and decoded the edges of those blocks (R177,
R178). -/
def withWork {α : Type} (hub : Bool) (seen : List Nat) (c : Blocks) (r : Except WErr α) : Except WErr α :=
  match r with
  | .error (.stop w none) =>
    .error (.stop w (some (1 + if hub then ((seen ++ c.map (·.part)).eraseDups).length else 0, c.foldl (fun n b => n + b.ids.length) 0)))
  | .error e => .error e
  | .ok a => .ok a

/-- A block by way of the cache. -/
def blockOf (s : State) (l : PList) (f b : Nat) (c : Blocks) : Except WErr (Blk × Blocks) :=
  match c.find? (fun e => e.part == f && e.idx == b) with
  | some x => .ok (x, c)
  | none => do
    let x ← readBlock s l f b
    pure (x, x :: c)

/-- The times of a part, in edge order. -/
def partTimes (s : State) (hub : Bool) (f : Nat) (p : Part) (c : Blocks) : Except WErr (List Nat × Blocks) :=
  match p.list with
  | none => .ok (p.edges.map (·.2.2), c)
  | some l => do
    let seen := List.range (f + 1)
    let (ts, c) ← (List.range l.degree).foldlM (fun (a : List Nat × Blocks) e => do
      let (x, c) ← withWork hub seen a.2 (blockOf s l f (e / 64) a.2)
      let t ← withWork hub seen c (timeOf s l x.tsb e)
      pure (t :: a.1, c)) ([], c)
    pure (ts.reverse, c)

/-! ### Sampling (R159-R164) -/

/-- What a sampler is asked for: sampler, slots, seed, task key, vertex, outputs. -/
structure Sample where
  sampler : Nat
  slots : Nat
  seed : Nat
  key : Nat
  vid : Nat
  outW : Bool
  outT : Bool
  hubSplit : Bool
deriving DecidableEq, Repr

/-- Draw number d (R160). -/
def drawOf (q : Sample) (d : Nat) : Nat × Nat × Nat × Nat :=
  philox (d % 2 ^ 32) (q.vid % 2 ^ 32) (q.sampler % 256 * 2 ^ 16 + d / 2 ^ 32 % 256 * 2 ^ 8 + q.vid / 2 ^ 32 % 256) q.key
    (q.seed % 2 ^ 32) (q.seed / 2 ^ 32)

/-- Floyd's method for k of n (R161). -/
def floyd (q : Sample) (n k : Nat) : List Nat :=
  let chosen := (List.range k).foldl (fun (acc : List Nat) d =>
    let j := n - k + d
    let (u0, u1, _, _) := drawOf q d
    let t := (u1 * 2 ^ 32 + u0) * (j + 1) / 2 ^ 64
    if acc.contains t then j :: acc else t :: acc) []
  sortBy id chosen

/-- An FP32 pattern that is no NaN as an integer in the order of its value. -/
def ordF (n : Nat) : Int := if bit n 31 then -((n % 2 ^ 31 : Nat) : Int) else ((n % 2 ^ 31 : Nat) : Int)

/-- The (u + 0.5) × 2⁻³² of R163, rounded once to FP32. -/
def unitOf (u : Nat) : Nat := (roundF (.fin false (2 * u + 1) (-33))).1

/-- The RESERVOIR rank of edge g of weight w: none where it is never chosen (R163). -/
def reservoirKey (q : Sample) (g w : Nat) : Option Int :=
  match unF w with
  | .nan => none
  | .inf s => if s then none else some (2 ^ 33)
  | .fin s m _ =>
    if s || m == 0 then none
    else
      let (u0, _, _, _) := drawOf q g
      some (ordF (divF (log2F (unitOf u0)).1 w).1)

/-- Keep the k entries of largest rank, ties by ascending index: entries come in ascending index. -/
def insertTop (k : Nat) (l : List (Int × Nat)) (e : Int × Nat) : List (Int × Nat) :=
  let (a, b) := l.span fun x => decide (e.1 ≤ x.1)
  (a ++ e :: b).take k

/-- The global indices of the best k of ranked entries. -/
def topK (k : Nat) (es : List (Int × Nat)) : List Nat := (es.foldl (insertTop k) []).map (·.2)

/-- Rank every edge of a view by weight. -/
def rankWeights (s : State) (v : View) (f : Nat → Nat → Option Int) : Except WErr (List (Int × Nat)) := do
  let r ← (List.range v.parts).foldlM (fun (acc : List (Int × Nat)) i => do
    let p ← withWork v.root.hub (List.range i) [] (part s v i)
    let ws ← withWork v.root.hub (List.range (i + 1)) [] (partWeights s p)
    pure ((ws.zipIdx.filterMap fun (w, e) => (f (p.base + e) w).map fun k => (k, p.base + e)).reverse ++ acc)) []
  pure r.reverse

/-- What a sampler picks: an edge by its global index, or one that another device drew. -/
inductive Pick where
  | at_ (g : Nat)
  | drawn (e : Nat × Nat × Nat)
deriving DecidableEq, Repr

/-- The part that ALIAS draw d falls in (R164). DESIGN CHOICE: (u2 + 0.5) × 2⁻³² is rounded to FP32, as R163 has it for u0, and its product with CUM_W is
rounded again (log 20). -/
def aliasPart (q : Sample) (v : View) (d : Nat) : Nat :=
  if !v.root.hub then 0
  else
    let (_, _, u2, _) := drawOf q d
    let last := match v.frags.getLast? with
      | some e => e.cumW
      | none => 0
    let x := (mulF (unitOf u2) last).1
    match v.frags.zipIdx.find? (fun e => (unF x).lt (unF e.1.cumW)) with
    | some (_, i) => i
    | none => v.frags.length - 1

/-- The edge whose alias entry draw d reads, in a list of n edges (R162). -/
def aliasSlot (q : Sample) (n d : Nat) : Nat := (drawOf q d).1 * n / 2 ^ 32

/-- ALIAS draw d (R162, R164). A fragment of another device makes the draws with its own alias section: its answer holds draw d at place d. -/
def aliasDraw (s : State) (q : Sample) (v : View) (d : Nat) : Except WErr Pick := do
  let (_, u1, _, _) := drawOf q d
  let p ← part s v (aliasPart q v d)
  match p.list with
  | none => pure (.drawn (p.edges.getD d (0, 0, 0)))
  | some l =>
    let i := aliasSlot q l.degree d
    let a ← sideAt l 2 4
    let b ← readW s (a + 4 * i) 4
    let w := leNat b
    check (decide (w / 65536 < l.degree))
    let th := if w % 65536 = 0xFFFF then 65536 else w % 65536
    pure (.at_ (p.base + (if u1 % 65536 < th then i else w / 65536)))

/-- What a sampler chooses, in output order (R159). -/
def choose (s : State) (q : Sample) (v : View) (c : Blocks) : Except WErr (List Pick × Blocks) :=
  let n := v.root.degree
  let at_ := fun (l : List Nat) => l.map Pick.at_
  match q.sampler with
  | 0 => .ok (at_ (List.range (min q.slots n)), c)
  | 1 => .ok (at_ (if n ≤ q.slots then List.range n else floyd q n q.slots), c)
  | 2 => do
    let seen := fun d => if v.root.hub then (List.range d).map (aliasPart q v) else []
    let l ← (List.range q.slots).mapM fun d => withWork v.root.hub (seen d) [] (aliasDraw s q v d)
    pure (l, c)
  | 3 => do
    let es ← rankWeights s v (reservoirKey q)
    pure (at_ (topK q.slots es), c)
  | 4 => do
    let es ← rankWeights s v fun _ w => if (unF w).isNan then none else some (ordF w)
    pure (at_ (topK q.slots es), c)
  | _ => do
    let (es, c) ← (List.range v.parts).foldlM (fun (a : List (Int × Nat) × Blocks) i => do
      let p ← withWork v.root.hub (List.range i) a.2 (part s v i)
      let (ts, c) ← partTimes s v.root.hub i p a.2
      pure (a.1 ++ ts.zipIdx.map fun (t, e) => ((t : Int), p.base + e), c)) ([], c)
    pure (at_ (topK q.slots es), c)

/-- An edge as far as it is output (R155). -/
def edgeOut (q : Sample) (x : Nat × Nat × Nat) : Nat × Nat × Nat := (x.1, if q.outW then x.2.1 else 0, if q.outT then x.2.2 else 0)

/-- One picked edge: id, weight and time as far as they are output (R155). DESIGN CHOICE: an index beyond its fragment's DEGREE, which only a broken chain
of EDGE_BASE gives, is FORMAT (R151; log 59). -/
def edgeAt (s : State) (q : Sample) (v : View) (seen : List Nat) (k : Pick) (c : Blocks) : Except WErr ((Nat × Nat × Nat) × Blocks) :=
  match k with
  | .drawn x => .ok (edgeOut q x, c)
  | .at_ g => do
    let f := partOf v g
    let p ← withWork v.root.hub seen c (part s v f)
    let e := g - p.base
    withWork v.root.hub seen c (check (decide (e < p.degree)))
    match p.list with
    | none => pure (edgeOut q (p.edges.getD e (0, 0, 0)), c)
    | some l =>
      let (x, c) ← withWork v.root.hub seen c (blockOf s l f (e / 64) c)
      let w ← withWork v.root.hub seen c (if q.outW && l.hasW then (do
          let a ← sideAt l 0 1
          let b ← readW s (a + e) 1
          pure (weightOf l (leNat b)))
        else pure 0)
      let t ← withWork v.root.hub seen c (if q.outT && l.hasT then timeOf s l x.tsb e else pure 0)
      pure ((x.ids.getD (e % 64) 0, w, t), c)

/-- The part of a pick. -/
def partPicked (q : Sample) (v : View) (k : Pick × Nat) : Nat :=
  if q.sampler = 2 then aliasPart q v k.2 else match k.1 with
    | .at_ g => partOf v g
    | .drawn _ => 0

/-- The spans of device memory that a walk of this device's lists reads: headers and fragment tables, offset table entries and blocks, and the
side entries that it outputs or samples by (R150; 09 R347). -/
def walkReads (s : State) (q : Sample) (v : View) (ks : List Pick) (c : Blocks) : List (Nat × Nat) :=
  let side := fun (f : Nat) (es : List Nat) => match part s v f with
    | .ok ⟨_, n, some l, _⟩ =>
      let off := fun k => l.addr + l.offs.getD k 0
      (l.addr, 32) ::
      (if q.sampler = 3 ∨ q.sampler = 4 then [(off 0, n)] else if q.outW && l.hasW then es.map (fun e => (off 0 + e, 1)) else []) ++
      (if q.sampler = 5 then [(off 1, 2 * n)] else if q.outT && l.hasT then es.map (fun e => (off 1 + 2 * e, 2)) else []) ++
      ((c.filter fun b => b.part = f).flatMap fun b => [(l.addr + 0x20 + 4 * b.idx, 4), (b.at_, b.len)])
    | _ => []
  let draws := if q.sampler ≠ 2 then [] else (List.range q.slots).flatMap fun d =>
    match part s v (aliasPart q v d) with
    | .ok ⟨_, n, some l, _⟩ => [(l.addr + l.offs.getD 2 0 + 4 * aliasSlot q n d, 4)]
    | _ => []
  let picked := ks.zipIdx.map fun k => (partPicked q v k, k.1)
  (if v.root.hub then [(v.root.addr, 32), (v.root.addr + 0x20, 32 * v.root.blocks)] else []) ++ draws ++
    (List.range v.parts).flatMap fun f =>
      let mine := (picked.filter fun k => k.1 = f).filterMap fun k => match k.2 with
        | .at_ g => some (g - (v.frags.getD f ⟨0, 0, 0, 0⟩).base)
        | .drawn _ => none
      if mine.isEmpty ∧ q.sampler < 3 then [] else side f mine

/-- What a walk delivers: VSTAT and COUNT, edges as (id, weight, time), lists and edges counted, whether the list lies
whole above the split threshold, the fragments handed out as tasks, and the spans read (R155, R156, R173, R177, R178, R182). -/
structure Walked where
  vstat : Nat
  count : Nat
  edges : List (Nat × Nat × Nat)
  lists : Nat
  decoded : Nat
  unsplit : Bool
  frags : List FragEntry
  reads : List (Nat × Nat)
deriving DecidableEq, Repr

/-- Walk the list at a device address of this device (R149-R152, R156, R159, R164, R173). A sampler that scans or ranks every edge walks every
fragment; another walks those of the edges it picks (R177). DESIGN CHOICE: a sampler that ranks by weight decodes the blocks of the edges it chooses
alone (R178; log 20), and a fragment of a hub is no list that R182 counts, however large, though it is one where another device asks for it (log 20). -/
def walkList (s : State) (threshold addr : Nat) (q : Sample) (got : List (Nat × List Byte)) : Except WErr Walked := do
  let d ← readW s addr 5
  if leNat d = 0 then pure ⟨1, 0, [], 1, 0, false, [], [(addr, 32)]⟩
  else
    let l ← readHeader s addr
    let needW := q.sampler == 2 || q.sampler == 3 || q.sampler == 4
    if (needW && !l.hasW) || (q.sampler == 2 && !l.hasA) || (q.sampler == 5 && !l.hasT) then .error .noSection
    else
      let fs ← if l.hub then readFrags s l else pure []
      let v : View := ⟨l, fs, got, q.sampler != 2, q.vid⟩
      if l.hub && q.sampler == 0 && q.hubSplit then pure ⟨3, fs.length, [], 1, 0, false, fs, [(addr, 32), (addr + 0x20, 32 * l.blocks)]⟩
      else
        let (ks, c) ← choose s q v []
        let seen := if 3 ≤ q.sampler then List.range v.parts else if q.sampler = 2 then ks.zipIdx.map (partPicked q v) else []
        let (es, c) ← ks.foldlM (fun (a : List (Nat × Nat × Nat) × Blocks) k => do
          let (x, c) ← edgeAt s q v seen k a.2
          pure (x :: a.1, c)) ([], c)
        let full := q.sampler == 0 && decide (q.slots < l.degree)
        let walked := if !l.hub then 1
          else if 3 ≤ q.sampler then v.parts + 1
          else ((ks.zipIdx.map (partPicked q v)).eraseDups).length + 1
        pure ⟨if full then 2 else 0, if full then l.degree else es.length, es.reverse, walked,
          c.foldl (fun n b => n + b.ids.length) 0, !l.hub && decide (threshold < l.degree), [], walkReads s q v ks c⟩

end Sys2Proof.Machine
end

