-- ==== Sys2Proof/Machine/Queue.lean ====
section
/-! DEFINITION. Class 0x8: issuing commands to the engines of a core and waiting for them (03 R102, R106-R108). -/

namespace Sys2Proof.Machine

/-- Size of a scratchpad (00 R14). -/
def spSize : Nat := 0x400000

/-- The id after a command id: 1 to 65,535, skipping 0 (R106). -/
def idAfter (n : Nat) : Nat := if n = 65535 then 1 else n + 1

/-- The instruction has been accepted: a deadline kept over its waits for room ends (R96). -/
def accepted (s : State) (h : Hart) : State :=
  let t := hart s h
  putHart s h { t with deadline := 0 }

/-- Wait for room, keeping the deadline of the wait's first instant (R96, R106, R396). -/
def waitRoom (s : State) (h : Hart) (w : WaitFor) : State :=
  let t := hart s h
  putHart s h { t with st := .wait, wait := w, deadline := if t.deadline = 0 then waitDeadline s else t.deadline }

/-- Issue a descriptor of `size` bytes at scratchpad offset x to an engine, with the dependency y: one that is not outstanding as the command
issues is satisfied at once (R106, R107). Each of the 256 entries is held until its command completes, also while the command runs: the rule
does not say when an entry frees (DESIGN CHOICE, log 12). The fault address of a bad offset is the offset itself, the address of the descriptor in the
scratchpad window (R140 says only the faulting data address; DESIGN CHOICE, log 12). -/
def issueCmd (s : State) (h : Hart) (k : CmdKind) (size : Nat) (rd rs1 rs2 : Reg) : State :=
  strandOnly s h fun p s =>
    let x := (reg s h rs1).toNat
    if x % size ≠ 0 then demandFault s h 2 x
    else if spSize ≤ x then demandFault s h 3 x
    else if 256 ≤ (coreGet s p).cmds.length then waitRoom s h .queueRoom
    else
      let c := coreGet s p
      let id := c.nextId
      let t := hart s h
      let dep := (reg s h rs2).toNat
      let cmd : Cmd := ⟨id, k, readBytes s (spBase p + x) size, if outstanding s p dep then dep else 0, t.task, hartNo h % 64, false, 0, [], 0, 0,
        [], [], [], false, []⟩
      let s := corePut s p { c with nextId := idAfter id, cmds := c.cmds ++ [cmd] }
      let s := putHart s h { t with drain := t.drain ++ [(id, none)] }
      retire (accepted s h) h rd (BitVec.ofNat 64 id)

/-- QGATHER (R102). -/
def execQgather (h : Hart) (g : Guard) (rd rs1 rs2 : Reg) (s : State) : Out :=
  spelled (.qgather h g rd rs1 rs2) h s <| issue s h g fun s => issueCmd s h .gather 64 rd rs1 rs2
/-- QLOOKUP (R102). -/
def execQlookup (h : Hart) (g : Guard) (rd rs1 rs2 : Reg) (s : State) : Out :=
  spelled (.qlookup h g rd rs1 rs2) h s <| issue s h g fun s => issueCmd s h .lookup 64 rd rs1 rs2
/-- QCHAIN (R102). -/
def execQchain (h : Hart) (g : Guard) (rd rs1 rs2 : Reg) (s : State) : Out :=
  spelled (.qchain h g rd rs1 rs2) h s <| issue s h g fun s => issueCmd s h .chain 256 rd rs1 rs2
/-- QMAT (R102). -/
def execQmat (h : Hart) (g : Guard) (rd rs1 rs2 : Reg) (s : State) : Out :=
  spelled (.qmat h g rd rs1 rs2) h s <| issue s h g fun s => issueCmd s h .mat 64 rd rs1 rs2
/-- QSEND (R102). -/
def execQsend (h : Hart) (g : Guard) (rd rs1 rs2 : Reg) (s : State) : Out :=
  spelled (.qsend h g rd rs1 rs2) h s <| issue s h g fun s => issueCmd s h .send 64 rd rs1 rs2

/-- Whether a register names an outstanding command (R108). -/
def namesOutstanding (s : State) (p x : Nat) : Bool := decide (1 ≤ x ∧ x < 65536) && outstanding s p x

/-- The status QWAIT gives for an id that is not outstanding: the recorded one, or STALE_ID (R108). -/
def placeStatus (s : State) (p x : Nat) : Nat :=
  match pfind (coreGet s p).places (x % 4096) with
  | some (id, st) => if x ≠ 0 ∧ id = x then st else 0xFF
  | none => 0xFF

/-- QWAIT (R102, R108). -/
def execQwait (h : Hart) (g : Guard) (rd rs1 : Reg) (s : State) : Out :=
  spelled (.qwait h g rd rs1) h s <| issue s h g fun s => strandOnly s h fun p s =>
    let x := (reg s h rs1).toNat
    if namesOutstanding s p x then enterWait s h .wait (.command x)
    else retire s h rd (BitVec.ofNat 64 (placeStatus s p x))

/-- QPOLL (R102, R108). -/
def execQpoll (h : Hart) (g : Guard) (rd rs1 : Reg) (s : State) : Out :=
  spelled (.qpoll h g rd rs1) h s <| issue s h g fun s => strandOnly s h fun p s =>
    retire s h rd (if namesOutstanding s p (reg s h rs1).toNat then 0 else 1)

/-- The first status that is not 0 among commands in issue order (R102). -/
def firstStatus : List (Nat × Option Nat) → Nat
  | [] => 0
  | (_, some 0) :: r => firstStatus r
  | (_, some st) :: _ => st
  | (_, none) :: r => firstStatus r

/-- QDRAINALL (R102). -/
def execQdrainall (h : Hart) (g : Guard) (rd : Reg) (s : State) : Out :=
  spelled (.qdrainall h g rd) h s <| issue s h g fun s => strandOnly s h fun _ s =>
    let t := hart s h
    if t.drain.any fun d => d.2.isNone then enterWait s h .wait .drain
    else retire (putHart s h { t with drain := [] }) h rd (BitVec.ofNat 64 (firstStatus t.drain))

end Sys2Proof.Machine
end

