-- ==== Sys2Proof/Machine/Sync.lean ====
section
/-! DEFINITION. Class 0x9 and its remote side: hitch and knot-tree instructions, their waits, HITCH_OP and HITCH_RSP (11
R418-R428, R434, R435; 13 R516). -/

namespace Sys2Proof.Machine

/-! ### Targets and results (R419, R420) -/

/-- Whether a target register breaks R419. -/
def badTarget (x : Nat) : Bool := decide (bits x 63 27 ≠ 0) || (!bit x 26 && decide (bits x 25 16 ≠ 0))

/-- The device a target names, where it is another one. -/
def targetDev (s : State) (x : Nat) : Option Nat :=
  if bit x 26 ∧ bits x 25 16 ≠ s.boot.dev then some (bits x 25 16) else none

/-- Whether a caller may operate on a hitch (R418). -/
def mayUse (h : Hart) (x : Nat) : Bool :=
  decide (x % 65536 ≠ 0) && (match h with
    | .ctrl _ => true
    | .strand _ _ => decide (0x1000 ≤ x % 65536))

/-- The result word of a hitch of this device for a status (R420). -/
def wordFor (s : State) (x status : Nat) : Word := hitchWord (hitchGet s (x % 65536)) status

/-- Answer REFUSED: counted, nothing changed (R419, R421, R444). -/
def refuse (s : State) (h : Hart) (rd : Reg) (x : Nat) : State :=
  retire (bump1 s regHitRefused) h rd (wordFor s x 4)

/-- The HITCH_OP message of an operation (13 R516). -/
def hitchOpBytes (h : Hart) (op x y : Nat) : List Byte :=
  natLe 1 op ++ natLe 1 (match h with | .ctrl _ => 1 | .strand _ _ => 0) ++ natLe 2 x ++ natLe 4 y ++ natLe 8 0

/-- Send an operation to another device and wait for the answer as for a load (R427). -/
def remoteOp (s : State) (h : Hart) (op dev x y : Nat) (rd : Reg) : State :=
  let (_, tag, s) := sendMsg s 0x04 dev (hitchOpBytes h op (x % 65536) y)
  let s := { s with hws := { s.hws with remotes := s.hws.remotes ++
    [⟨tag, dev, s.now + rmtTimeout s, 0, 0, some (hartNo h), rd, [], [], none, false⟩] } }
  enterWait s h .wait (.remote tag rd)

/-- The shape of an operation that may act remotely: `ok` says whether y keeps its rule, `apply` is the local effect with
its status (R422, R427). -/
def hitchOpIns (s : State) (h : Hart) (g : Guard) (op : Nat) (rd rs1 rs2 : Reg) (ok : Nat → Bool)
    (apply : State → Nat → Nat → Nat × State) : Out :=
  issue s h g fun s =>
    let x := (reg s h rs1).toNat
    let y := (reg s h rs2).toNat
    if badTarget x || !mayUse h x || !ok y then refuse s h rd x
    else match targetDev s x with
      | some d => remoteOp s h op d x y rd
      | none =>
        let (st, s) := apply s (x % 65536) y
        retire s h rd (wordFor s x st)

/-- HRELONE (R422). -/
def execHrelone (h : Hart) (g : Guard) (rd rs1 rs2 : Reg) (s : State) : Out :=
  spelled (.hrelone h g rd rs1 rs2) h s <| hitchOpIns s h g 2 rd rs1 rs2 (· == 0) fun s x _ => opRelOne s x
/-- HRELALL (R422). -/
def execHrelall (h : Hart) (g : Guard) (rd rs1 rs2 : Reg) (s : State) : Out :=
  spelled (.hrelall h g rd rs1 rs2) h s <| hitchOpIns s h g 3 rd rs1 rs2 (· == 0) fun s x _ => opRelAll s x
/-- HADD (R422). -/
def execHadd (h : Hart) (g : Guard) (rd rs1 rs2 : Reg) (s : State) : Out :=
  spelled (.hadd h g rd rs1 rs2) h s <| hitchOpIns s h g 4 rd rs1 rs2 (fun _ => true) opAdd
/-- HTEST (R422). -/
def execHtest (h : Hart) (g : Guard) (rd rs1 rs2 : Reg) (s : State) : Out :=
  spelled (.htest h g rd rs1 rs2) h s <| hitchOpIns s h g 5 rd rs1 rs2 (fun _ => true) opTest

/-- HARRIVE (R422); with REMOTE naming another device REFUSED (R427). -/
def execHarrive (h : Hart) (g : Guard) (rd rs1 rs2 : Reg) (s : State) : Out :=
  spelled (.harrive h g rd rs1 rs2) h s <| issue s h g fun s =>
    let x := (reg s h rs1).toNat
    if badTarget x || !mayUse h x || (targetDev s x).isSome then refuse s h rd x
    else
      let (st, s) := opArrive s (x % 65536) (hartNo h) (reg s h rs2).toNat
      retire s h rd (wordFor s x st)

/-- HWAIT (R422): TAKE consumes a credit or takes a ticket and spins; HELD looks at the latched ticket. -/
def execHwait (h : Hart) (g : Guard) (rd rs1 rs2 : Reg) (s : State) : Out :=
  spelled (.hwait h g rd rs1 rs2) h s <| issue s h g fun s =>
    let x := (reg s h rs1).toNat
    let y := (reg s h rs2).toNat
    let id := x % 65536
    if badTarget x || !mayUse h x || (targetDev s x).isSome || decide (1 < y) then refuse s h rd x
    else if y = 0 then
      let k := hitchGet s id
      if 0 < k.credits then
        let s := hitOp (hitchPut s id { k with credits := k.credits - 1 })
        retire s h rd (wordFor s x 0)
      else enterWait (hitOp (takeTicket s id (hartNo h))) h .spin (.hitch rd)
    else match (hart s h).hLatch with
      | some l =>
        if l.hitch ≠ id then retire s h rd (wordFor s x 6)
        else (match l.st with
          | .queued => enterWait s h .spin (.hitch rd)
          | .broken => retire s h rd (wordFor s x 8)
          | _ =>
            let t := hart s h
            retire (putHart s h { t with hLatch := some { l with st := .taken } }) h rd (wordFor s x 0))
      | none => retire s h rd (wordFor s x 6)

/-! ### The knot tree (R434, R435) -/

/-- The node a caller arrives at, and its place in the node's masks. -/
def arriveAt : Hart → Nat × Nat
  | .strand c n => (c.val, n.val)
  | .ctrl k => (600 + k.val, 0)

/-- The result word of a knot-tree instruction (R420). -/
def knotWord (round status : Nat) : Word := BitVec.ofNat 64 (round % 4 * 2 ^ 16 + status)

/-- The round a caller has latched for a barrier; 0 where it latches none. -/
def latchedRound (s : State) (h : Hart) (b : Nat) : Nat :=
  match (hart s h).kLatch with
  | some (c, r) => if c = b then r else 0
  | none => 0

/-- Whether a caller participates in a defined barrier (R435). -/
def participates (s : State) (h : Hart) (b : Nat) : Bool :=
  (barGet s b).def_.defined && decide (0 < knotTarget (barGet s b) (arriveAt h).1)

/-- Whether a hart is a strand of a compute core. -/
def isStrand (h : Hart) : Bool :=
  match h with
  | .strand _ _ => true
  | .ctrl _ => false

/-- The status KARRIVE and KWAIT answer before they act, where there is one: barriers 0-63 are for control firmware (R430, R435, R438). -/
def knotCheck (s : State) (h : Hart) (x y : Nat) : Option Nat :=
  if 1024 ≤ x ∨ y ≠ 0 ∨ (isStrand h ∧ x < 64) then some 4
  else if !participates s h x then some 7
  else if (barGet s x).broken then some 8
  else none

/-- Answer a knot-tree instruction that did not act; a REFUSED one is counted. -/
def knotAnswer (s : State) (h : Hart) (rd : Reg) (b st : Nat) : State :=
  let s := if st = 4 then bump1 s regHitRefused else s
  retire s h rd (knotWord (if st = 4 then 0 else latchedRound s h b) st)

/-- One arrival at a core or control-core node for a sense, forwarded when the node is complete (R434). -/
def arriveNode (s : State) (b n i : Nat) (sense : Bool) : State :=
  let x := barGet s b
  let k := x.node n
  let c := k.count sense + 1
  let s := barPut s b (x.putNode n ((k.setArr sense (orBit (k.arr sense) i)).setCount sense c))
  if c = knotTarget x n then sendArrival s b n sense else s

/-- KARRIVE (R434). -/
def execKarrive (h : Hart) (g : Guard) (rd rs1 rs2 : Reg) (s : State) : Out :=
  spelled (.karrive h g rd rs1 rs2) h s <| issue s h g fun s =>
    let b := (reg s h rs1).toNat
    match knotCheck s h b (reg s h rs2).toNat with
    | some st => knotAnswer s h rd b st
    | none =>
      let (n, i) := arriveAt h
      let k := (barGet s b).node n
      let arrive := fun (sense : Bool) (round : Nat) =>
        let s := arriveNode s b n i sense
        let t := hart s h
        retire (putHart s h { t with kLatch := some (b, round % 4) }) h rd (knotWord round 0)
      if !bit (k.arr k.cur) i then arrive k.cur k.round
      else if !bit (k.arr !k.cur) i then arrive (!k.cur) (k.round + 1)
      else
        let s := event (bump1 s regHitRetry) regHitEvents 1
        retire s h rd (knotWord (latchedRound s h b) 5)

/-- Whether the round a caller latched has been released (R435). -/
def roundOver (s : State) (h : Hart) (b : Nat) : Bool :=
  (((barGet s b).node (arriveAt h).1).round + 4 - latchedRound s h b) % 4 == 1

/-- KWAIT (R435). -/
def execKwait (h : Hart) (g : Guard) (rd rs1 rs2 : Reg) (s : State) : Out :=
  spelled (.kwait h g rd rs1 rs2) h s <| issue s h g fun s =>
    let b := (reg s h rs1).toNat
    match knotCheck s h b (reg s h rs2).toNat with
    | some st => knotAnswer s h rd b st
    | none =>
      match (hart s h).kLatch with
      | some (c, r) =>
        if c ≠ b then knotAnswer s h rd b 6
        else if roundOver s h b then retire s h rd (knotWord r 0)
        else enterWait s h .spin (.barrier rd)
      | none => knotAnswer s h rd b 6

/-- The waiting instruction of a hart is answered: rd written, the program counter moved on, the hart READY. -/
def answer (s : State) (h : Hart) (rd : Reg) (v : Word) : State :=
  let t := hart s h
  putHart s h { t.setReg rd v with st := .ready, wait := .nothing, deadline := 0, pc := t.pc + 8 }

/-- A hart in SPIN takes its turn (R98); a control core counts no turns. -/
def spinTurn (s : State) (h : Hart) : State :=
  match h with
  | .strand c n => takeTurn s c.val n.val
  | .ctrl _ => s

/-- STRAND_RELEASE_SEEN: a caller in SPIN sees its release, or the break, at a turn of its own (R96, R98, R137, R435, R438, R440). -/
def execStrandReleaseSeen (h : Hart) (s : State) : Out :=
  let t := hart s h
  if t.st ≠ .spin then .next s
  else
    let s := spinTurn s h
    match t.wait with
    | .hitch rd =>
      (match t.hLatch with
       | some l =>
         let s' := putHart s h { t with hLatch := some { l with st := .taken } }
         (match l.st with
          | .relOne | .relAll => .next (answer s' h rd (wordFor s l.hitch 0))
          | .broken => .next (answer s h rd (wordFor s l.hitch 8))
          | _ => .next s)
       | none => .next s)
    | .barrier rd =>
      (match t.kLatch with
       | some (b, r) =>
         if (barGet s b).broken then .next (answer s h rd (knotWord r 8))
         else if roundOver s h b then .next (answer s h rd (knotWord r 0))
         else .next s
       | none => .next (answer s h rd (knotWord 0 6)))
    | _ => .next s

/-! ### Remote operations (13 R516) -/

/-- The hart of a number. -/
def hartOf (n : Nat) : Hart :=
  if h : n < 17408 then .strand ⟨n / 64, by omega⟩ ⟨n % 64, by omega⟩ else .ctrl ⟨(n - 17408) % 20, by omega⟩

/-- Apply a remote operation and give the answer's status: GREY where the hitch root is, or lies inside a GREY unit (13 R516; 11 R427; 15 R567, R569). -/
def applyRemote (s : State) (op flags hitch y : Nat) : Nat × State :=
  if greyAt s 0x36 then (0xA, s)
  else if hitch = 0 ∨ (hitch < 0x1000 ∧ !bit flags 0) ∨ ((op = 2 ∨ op = 3) ∧ y ≠ 0) then (4, s)
  else match op with
    | 2 => opRelOne s hitch
    | 3 => opRelAll s hitch
    | 4 => opAdd s hitch y
    | 5 => opTest s hitch y
    | _ => (4, s)

/-- HITCH_OP: an operation of another device is applied and answered (13 R516). -/
def execHitchOp (src tag : Nat) (body : List Byte) (s : State) : Out :=
  powered s <|
  let s := takeMsg s src tag 0x04
  let h := fld body 2 2
  let (st, s) := applyRemote s (fld body 0 1) (fld body 1 1) h (fld body 4 4)
  let x := hitchGet s h
  .next (post s 0x05 src (natLe 4 tag ++ natLe 1 st ++ natLe 1 (b2n x.sense) ++ natLe 2 0 ++ natLe 4 x.count ++ natLe 4 0))

/-- A late or unasked response is discarded (13 R510). -/
def lateRsp (s : State) : State := event (bump1 s regHwsLateRsp) regHwsEvents 1

/-- Whether a hart still waits for the answer under a TAG. -/
def awaits (s : State) (n tag : Nat) : Bool :=
  match (hartAt s n).wait with
  | .remote t _ => t == tag
  | _ => false

/-- Remove a remote request. -/
def dropRemote (s : State) (tag : Nat) : State :=
  { s with hws := { s.hws with remotes := s.hws.remotes.filter fun r => r.tag ≠ tag } }

/-- HITCH_RSP: the answer of a remote hitch instruction reaches its caller, or is late (13 R516). -/
def execHitchRsp (src tag : Nat) (body : List Byte) (s : State) : Out :=
  powered s <|
  let s := takeMsg s src tag 0x05
  let o := fld body 0 3
  match s.hws.remotes.find? (fun r => r.tag == o && r.hart.isSome) with
  | none => .next (lateRsp s)
  | some r =>
    let n := r.hart.getD 0
    let s := dropRemote s o
    if !awaits s n o then .next (lateRsp s)
    else
      let st := fld body 4 1
      let s := if st = 4 then bump1 s regHitRefused else s
      .next (answer s (hartOf n) r.rd
        (BitVec.ofNat 64 (fld body 8 4 * 2 ^ 32 + fld body 5 1 % 2 * 2 ^ 16 + st)))

/-- A remote request has timed out: counted and recorded (13 R510; 15 R599). -/
def remoteTimedOut (s : State) (r : Remote) (reporter : Nat) : State :=
  let s := event (bump1 s regHwsRmtTimeout) regHwsEvents 0
  (reportFull s 0x63 2 1 (devCode r.dev) reporter false r.tag).2

/-- The unit code of a hart's core. -/
def hartUnit (s : State) (n : Nat) : Nat := if n < 17408 then unitCode s 2 (n / 64) else unitCode s 3 (n - 17408)

/-- HITCH_RSP_TIMEOUT: no answer in time gives the caller GREY; at the apply point a strand's task ends LATE instead, and the expiry is not
reported (13 R516; 15 R575). -/
def execHitchRspTimeout (tag : Nat) (s : State) : Out :=
  match s.hws.remotes.find? (fun r => r.tag == tag && r.hart.isSome) with
  | none => .next s
  | some r =>
    let n := r.hart.getD 0
    let s := dropRemote (advance s r.deadline) tag
    if !awaits s n tag ∨ (n < 17408 ∧ atApply s) then .next s
    else .next (answer (remoteTimedOut s r (hartUnit s n)) (hartOf n) r.rd 0xA)

end Sys2Proof.Machine
end

