-- ==== Sys2Proof/Machine/Gather.lean ====
section
/-! DEFINITION. The gather engine: gather commands, fragment tasks, run-ahead, and remote gathers on both sides (04; 13
R507-R510). -/

namespace Sys2Proof.Machine

/-! ### Fetching a row (R165-R167; 08 R310-R312, R324-R327) -/

/-- Something a command needs from another device: its place among the answers, the device, and either a list (vertex) or
a row (table, row). -/
structure Need where
  key : Nat
  dev : Nat
  list : Bool
  at_ : Nat
  vid : Nat
  table : Nat
  mirror : Bool
deriving DecidableEq, Repr

/-- How the fetch of a row ends. -/
inductive RowRes where
  | row (a : Nat) (bytes : List Byte)
  | remoteRow (bytes : List Byte)
  | grey
  | badId
  | cause (k a : Nat) (mark : Bool)
  | need (n : Need)
deriving DecidableEq, Repr

/-- The place of row slot j among the answers. -/
def rowKey (j : Nat) : Nat := 2 ^ 40 + j

/-- A row at an address of this device: its marks, its channel and its bytes (R166; 08 R324, R325; 12 R472). -/
def rowAt (s : State) (t : Table) (id x a : Nat) : RowRes :=
  match rowMark s id x with
  | some false => .cause 8 a false
  | some true => .cause 9 a false
  | none =>
    match readCause s a t.stride with
    | some 5 => .cause 5 a true
    | some k => .cause k a false
    | none => .row a (readBytes s a t.stride)

/-- What the answer to a ROWS item gives (13 R508). DESIGN CHOICE: a row that the other device calls RESTORING or LOST faults with address 0, since the
answer carries no address (03 R140; log 12). -/
def answerRow (t : Table) (b : List Byte) : RowRes :=
  match bits (fld b 0 4) 31 28 with
  | 0 => .remoteRow ((b.drop 4).take t.stride)
  | 2 => .cause 8 0 false
  | 3 => .cause 9 0 false
  | 4 => .badId
  | _ => .grey

/-- Fetch a row for a core that has made `n` replica reads so far in this command (R165, R312, R345, R363). -/
def fetchRow (s : State) (core n id x key : Nat) (got : List (Nat × List Byte)) : RowRes :=
  let t := tableGet s id
  match got.find? (fun g => g.1 == key) with
  | some (_, b) => answerRow t b
  | none =>
    let (dev, a) := rowPrimary s id x
    let (home, _, _) := hashHome s t id x
    if dev ≠ s.boot.dev then .need ⟨key, dev, false, x, 0, id, false⟩
    else if t.state = 3 then
      if t.mirror ∧ mirrorDev s home ≠ s.boot.dev then .need ⟨key, mirrorDev s home, false, x, 0, id, true⟩ else .grey
    else match dirFind s id x 2 with
      | some e =>
        let k := coreGet s core
        rowAt s t id x (pickForCore (corePut s core { k with replN := k.replN + n }) core e.copies a).1
      | none => rowAt s t id x a

/-! ### Gather descriptors (R153, R154) -/

/-- Whether a table may be read: SERVING or GREY (08 R306, R308). -/
def readable (s : State) (id : Nat) : Bool := (tableGet s id).state == 2 || (tableGet s id).state == 3

/-- Size in bytes of an output element (R153). -/
def outSize (fmt : Nat) : Nat := if fmt = 0 then 4 else 2

/-- Whether an area lies within a scratchpad. -/
def inSp (off n : Nat) : Bool := decide (off + n ≤ spSize)

/-- Whether the engine refuses a gather descriptor (R154). -/
def badGather (s : State) (p : Nat) (d : List Byte) : Bool :=
  let mode := fld d 0 1
  let sampler := fld d 1 1
  let flags := fld d 2 1
  let rows := mode == 2 || mode == 3
  let lists := mode == 1 || mode == 3
  let slots := fld d 4 2
  let count := fld d 8 4
  let n := if mode = 2 then count else slots * count
  let t := fld d 6 2
  let stride := fld d 0x24 2
  let tmpl := fld d 0x20 4
  let aux := lists && decide (flags % 4 ≠ 0)
  let split := lists && bit flags 2
  !(rows || lists) || decide (5 < sampler) || (mode == 2 && sampler != 0) || (rows && decide (2 < fld d 3 1)) ||
    decide (16 ≤ flags) || !zeroAt d 0x26 2 || !zeroAt d 0x33 1 ||
    !(decide (1 ≤ count ∧ count ≤ 65536)) ||
    !(decide (1 ≤ slots ∧ slots ≤ (if mode = 2 then 1 else if sampler = 0 then 65535 else 4096))) ||
    !inSp (fld d 0xC 4) (8 * count) || !inSp (fld d 0x18 4) (4 * count) ||
    (lists && !inSp (fld d 0x10 4) (8 * n)) || (rows && !inSp (fld d 0x14 4) (stride * n)) ||
    (aux && !inSp (fld d 0x1C 4) (8 * n)) || (split && !inSp tmpl 128) ||
    fld d 0xC 4 % 8 != 0 || fld d 0x18 4 % 4 != 0 || (lists && fld d 0x10 4 % 8 != 0) || (aux && fld d 0x1C 4 % 8 != 0) ||
    (rows && (fld d 0x14 4 % 32 != 0 || stride % 32 != 0)) || (split && tmpl % 128 != 0) ||
    (rows && readable s t && decide (stride < (tableGet s t).width * outSize (fld d 3 1))) ||
    (split && badDesc s (readBytes s (spBase p + tmpl) 128) true)

/-! ### Evaluating a gather command -/

/-- What the evaluation of a command gives: its writes, its status words in order, what it still needs, the cause that
ends its task, rows to mark, rows read as (address, table, row), replica reads, counts, fragment tasks with the inputs they split, and
the spans its list walks read. -/
structure GOut where
  writes : List Host.Cell
  stats : List Nat
  needs : List Need
  cause : Option (Nat × Nat)
  marks : List (Nat × Nat)
  reads : List (Nat × Nat × Nat)
  repl : Nat
  counts : List (Nat × Nat)
  frags : List (List Byte)
  splits : List (Nat × Nat)
  spans : List (Nat × Nat)
deriving DecidableEq, Repr

/-- Nothing done yet. -/
def gOutNil : GOut := ⟨[], [], [], none, [], [], 0, [], [], [], []⟩

/-- The output format of a row (R153). -/
def outFmt (n : Nat) : Fmt := if n = 0 then fmtFp32 else if n = 1 then fmtBf16 else fmtFp16

/-- Values converted to OUTFMT, to nearest even (R165). -/
def outBytes (fmt : Nat) (vs : List Nat) : List Byte :=
  vs.flatMap fun v => natLe (outSize fmt) (if fmt = 0 then v else (narrow (outFmt fmt) none v).1)

/-- A status word (R156). -/
def statWord (vstat count : Nat) : Nat := vstat * 2 ^ 28 + min count (2 ^ 28 - 1)

/-- Add a status word for input i. -/
def GOut.stat (o : GOut) (base off i w : Nat) : GOut :=
  { o with writes := o.writes ++ writesAt (base + off + 4 * i) (natLe 4 w), stats := o.stats ++ [w] }

/-- A task-ending cause: the first one stands (08 R325). -/
def GOut.fail (o : GOut) (k a : Nat) : GOut := { o with cause := o.cause.orElse fun _ => some (k, a) }

/-- A row delivered at an address. -/
def GOut.deliver (o : GOut) (s : State) (t : Table) (id x a dst fmt : Nat) (here : Bool) (b : List Byte) : GOut :=
  { o with
    writes := o.writes ++ writesAt dst (outBytes fmt (dequant t b).1)
    reads := if here then o.reads ++ [(a, id, x)] else o.reads
    repl := if here && (dirFind s id x 2).isSome then o.repl + 1 else o.repl
    counts := o.counts ++ [(regEmbLookupRows, 1)] }

/-- One input of ROWS mode (R155, R156). -/
def evalRowInput (s : State) (p : Nat) (c : Cmd) (o : GOut) (iw : Nat × Nat) : GOut :=
  let (w, i) := iw
  let d := c.desc
  let id := fld d 6 2
  let t := tableGet s id
  let base := spBase p
  let so := fld d 0x18 4
  if 2 ^ 40 ≤ w ∨ t.rows ≤ w then o.stat base so i (statWord 4 0)
  else match fetchRow s p o.repl id w (rowKey i) c.got with
    | .row a b => (o.deliver s t id w a (base + fld d 0x14 4 + fld d 0x24 2 * i) (fld d 3 1) true b).stat base so i (statWord 0 1)
    | .remoteRow b => (o.deliver s t id w 0 (base + fld d 0x14 4 + fld d 0x24 2 * i) (fld d 3 1) false b).stat base so i (statWord 0 1)
    | .grey => o.stat base so i (statWord 8 0)
    | .badId => o.stat base so i (statWord 4 0)
    | .cause k a m => { o.fail k a with marks := if m then o.marks ++ [(id, w)] else o.marks }
    | .need n => { o with needs := o.needs ++ [n] }

/-- The sampling request of a gather command for a vertex. -/
def sampleOf (d : List Byte) (vid : Nat) : Sample :=
  ⟨fld d 1 1, fld d 4 2, fld d 0x38 8, fld d 0x34 4, vid, bit (fld d 2 1) 0, bit (fld d 2 1) 1, bit (fld d 2 1) 2⟩

/-- Deliver the neighbours' rows of input i: whether one was grey, and whether one has no row (R155, R156, R167). -/
def evalNbrRows (s : State) (p : Nat) (c : Cmd) (i : Nat) (ids : List Nat) (o : GOut) : GOut × Bool × Bool :=
  let d := c.desc
  let id := fld d 6 2
  let t := tableGet s id
  ids.zipIdx.foldl (fun (acc : GOut × Bool × Bool) xj =>
    let (o, grey, none_) := acc
    let (x, j) := xj
    let slot := fld d 4 2 * i + j
    let dst := spBase p + fld d 0x14 4 + fld d 0x24 2 * slot
    if t.rows ≤ x then (o, grey, true)
    else match fetchRow s p o.repl id x (rowKey slot) c.got with
      | .row a b => (o.deliver s t id x a dst (fld d 3 1) true b, grey, none_)
      | .remoteRow b => (o.deliver s t id x 0 dst (fld d 3 1) false b, grey, none_)
      | .grey => (o, true, none_)
      | .badId => (o, grey, true)
      | .cause k a m => ({ o.fail k a with marks := if m then o.marks ++ [(id, x)] else o.marks }, grey, none_)
      | .need n => ({ o with needs := o.needs ++ [n] }, grey, none_)) (o, false, false)

/-- Write the edges of input i and its status word (R155, R156). -/
def evalEdges (s : State) (p : Nat) (c : Cmd) (i vstat count : Nat) (es : List (Nat × Nat × Nat)) (o : GOut) : GOut :=
  let d := c.desc
  let base := spBase p
  let slots := fld d 4 2
  let aux := decide (fld d 2 1 % 4 ≠ 0)
  let ids := es.flatMap fun e => natLe 8 e.1
  let ax := if aux then es.flatMap fun e => natLe 4 e.2.1 ++ natLe 4 e.2.2 else []
  let ws := writesAt (base + fld d 0x10 4 + 8 * slots * i) ids ++ writesAt (base + fld d 0x1C 4 + 8 * slots * i) ax
  let o := { o with writes := o.writes ++ ws }
  if fld d 0 1 = 3 ∧ (vstat = 0 ∨ vstat = 2) then
    let (o, grey, none_) := evalNbrRows s p c i (es.map (·.1)) o
    let w := if grey then statWord 8 es.length else if none_ then statWord 5 es.length else statWord vstat count
    o.stat base (fld d 0x18 4) i w
  else o.stat base (fld d 0x18 4) i (statWord vstat count)

/-- The fragment tasks of a split hub (R173). -/
def fragTasks (tmpl : List Byte) (vid i : Nat) (fs : List FragEntry) : List (List Byte) :=
  fs.zipIdx.map fun (e, f) =>
    let pref := if e.core = 0xFFFF then (tmpl.drop 6).take 2 else natLe 2 e.core
    tmpl.take 6 ++ pref ++ (tmpl.drop 8).take 0x38 ++ natLe 8 e.addr ++ natLe 8 vid ++
      natLe 8 (fs.length * 2 ^ 32 + f) ++ natLe 8 (i * 2 ^ 32 + e.base % 2 ^ 32) ++ tmpl.drop 0x60

/-- The place among a command's answers that holds the fragment count of input i, once its fragments have been handed out. -/
def splitKey (i : Nat) : Nat := 2 ^ 200 + i

/-- What a walk for vertex `vid` needs of a fragment of another device; the table number of a need for a fragment is 1 more than its kind. -/
def fragNeed (vid a kind : Nat) : Need := ⟨fragKey a kind vid, bits a 63 54, true, a % 2 ^ 48, vid, kind + 1, false⟩

/-- One input of LIST or LIST_ROWS mode (R142, R155, R156, R167). An input whose hub has been split keeps the outcome of that read (R173). -/
def evalListInput (s : State) (p : Nat) (c : Cmd) (o : GOut) (iw : Nat × Nat) : GOut :=
  let (w, i) := iw
  let d := c.desc
  let base := spBase p
  let so := fld d 0x18 4
  let done := fun (o : GOut) v => o.stat base so i (statWord v 0)
  let bad := fun (o : GOut) => { o with counts := o.counts ++ [(regCorGatFormat p, 1)] }
  let threshold := fget s (regCorGatCfg p) 26 16 * 64
  let entry := fld d 0x28 6 + 8 * w
  if 2 ^ 40 ≤ w ∨ fld d 0x2E 5 ≤ w then done o 4
  else match c.got.find? (fun g => g.1 == splitKey i) with
  | some (_, b) => o.stat base so i (statWord 3 (leNat b))
  | none => match readW s entry 8 with
    | .error (.stop (.cause k a) _) => o.fail k a
    | .error _ => o
    | .ok eb =>
      let o := { o with spans := o.spans ++ [(entry, 8)] }
      let e := leNat eb
      let q := sampleOf d w
      if e = 0 then done o 1
      else if bits e 53 48 ≠ 0 ∨ e % 32 ≠ 0 then done (bad o) 7
      else if bits e 63 54 ≠ s.boot.dev then
        match c.got.find? (fun g => g.1 == i) with
        | none => { o with needs := o.needs ++ [⟨i, bits e 63 54, true, e % 2 ^ 48, w, 0, false⟩] }
        | some (_, b) =>
          let v := bits (fld b 0 4) 31 28
          let n := fld b 0 4 % 2 ^ 28
          if v = 0 ∨ v = 2 then
            let k := min n q.slots
            let aux := q.outW || q.outT
            let es := (List.range k).map fun j =>
              (fld b (4 + 8 * j) 8, if aux then fld b (4 + 8 * k + 8 * j) 4 else 0,
                if aux then fld b (4 + 8 * k + 8 * j + 4) 4 else 0)
            evalEdges s p c i v n es o
          else (if v = 7 then bad o else o).stat base so i (statWord v n)
      else match walkList s threshold (e % 2 ^ 48) q c.got with
        | .error (.need a k) => { o with needs := o.needs ++ [fragNeed w a k] }
        | .error .noSection => done { o with counts := o.counts ++ [(regCorGatLists p, 1)] } 6
        | .error (.stop r work) =>
          let n := work.getD (1, 0)
          let o := { o with counts := o.counts ++ [(regCorGatLists p, n.1), (regCorGatEdges p, n.2)] }
          match r with
          | .cause k a => o.fail k a
          | .grey => done o 8
          | .format => done (bad o) 7
        | .ok r =>
          let o := { o with spans := o.spans ++ r.reads }
          if r.vstat = 3 then
            let tmpl := readBytes s (base + fld d 0x20 4) 128
            { o with frags := o.frags ++ fragTasks tmpl w i r.frags, splits := o.splits ++ [(i, r.count)] }.stat base so i (statWord 3 r.count)
          else
            let o := { o with counts := o.counts ++ [(regCorGatLists p, r.lists), (regCorGatEdges p, r.decoded),
              (regCorGatUnsplit p, b2n r.unsplit)] }
            evalEdges s p c i r.vstat r.count r.edges o

/-- The hubs that an evaluation splits are handed out: their fragment tasks wait to be submitted, their outcome stays, and the roots are
counted (R173, R177, R181). -/
def keepSplits (s : State) (p : Nat) (c : Cmd) (o : GOut) : State :=
  let s := cmdMod s p c.id fun c => { c with frags := c.frags ++ o.frags, got := c.got ++ o.splits.map fun e => (splitKey e.1, natLe 8 e.2) }
  bump (bump s (regCorGatLists p) o.splits.length) (regCorGatHub p) o.splits.length

/-- The HBM sectors of a command's list reads are counted, each sector once (09 R347). -/
def countSpans (s : State) (spans : List (Nat × Nat)) : State :=
  ((spans.flatMap fun e => (List.range ((e.1 + e.2 + 31) / 32 - e.1 / 32)).map fun k => e.1 / 32 + k).eraseDups).foldl (fun s u =>
    if space (32 * u) = .hbm then countSectors s (chanOf s (32 * u)).1 1 else s) s

/-- The input words of a gather or lookup command. -/
def inputWords (s : State) (p off n : Nat) : List Nat :=
  (List.range n).map fun i => readNat s (spBase p + off + 8 * i) 8

/-- Evaluate a gather command on the present memory and the answers it has got. -/
def evalGather (s : State) (p : Nat) (c : Cmd) : GOut :=
  let ws := (inputWords s p (fld c.desc 0xC 4) (fld c.desc 8 4)).zipIdx
  if fld c.desc 0 1 = 2 then ws.foldl (evalRowInput s p c) gOutNil else ws.foldl (evalListInput s p c) gOutNil

/-! ### Remote requests (13 R507, R510) -/

/-- The SAMPLER and SLOTS of a need: a fragment is asked for whole; under ALIAS for its own draws, which are those that R162 makes within it; and for
one edge of three samplers, which tell its section bits (R151, R164, R167; DESIGN CHOICE, log 59). -/
def needSampler (q : Sample) (n : Need) : Nat × Nat :=
  if n.table = askWhole + 1 then (0, 65535)
  else if n.table = askW + 1 then (4, 1)
  else if n.table = askT + 1 then (5, 1)
  else if n.table = askA + 1 then (2, 1)
  else (q.sampler, q.slots)

/-- The GATHER_REQ of a need: one item; a fragment is asked for with weights and times (R167). -/
def needBytes (s : State) (q : Sample) (n : Need) (tag : Nat) : List Byte :=
  if n.list then
    let frag := n.table != 0
    let r := needSampler q n
    natLe 1 1 ++ natLe 1 r.1 ++ natLe 2 r.2 ++ natLe 2 0 ++
      natLe 2 1 ++ natLe 8 q.seed ++ natLe 4 q.key ++ natLe 1 (if frag then 3 else b2n q.outW + 2 * b2n q.outT) ++
      natLe 1 0 ++ natLe 2 s.boot.dev ++ natLe 4 tag ++ natLe 4 0 ++ natLe 8 n.at_ ++ natLe 5 n.vid ++ natLe 3 0
  else rowRequest s n.table n.at_ tag

/-- Send the requests that an owner needs and has not sent yet: a command of a core, or a walk for another device. -/
def sendNeeds (s : State) (p id : Nat) (q : Nat → Sample) (needs : List Need) : State :=
  needs.foldl (fun s n =>
    if s.hws.remotes.any fun r => r.hart.isNone && r.core == p && r.cmd == id && r.items.head? == some n.key then s
    else
      let (tag, s) := newTag s
      let (_, s) := sendTagged s 0x01 n.dev tag false (needBytes s (q n.vid) n tag)
      { s with hws := { s.hws with remotes := s.hws.remotes ++
        [⟨tag, n.dev, s.now + rmtTimeout s, p, id, none, 0, if n.list then [n.key] else [n.key, n.table, n.at_], [], none,
          n.mirror⟩] } }) s

/-- Whether a command still awaits an answer of another device. -/
def awaiting (s : State) (p id : Nat) : Bool := s.hws.remotes.any fun r => r.hart.isNone && r.core == p && r.cmd == id

/-- The failure of a row or list read ends the task; a row read uncorrectable is marked. What the command would have written and counted is
left as a cancelled command leaves it (R111, R166; 08 R324, R325). -/
def failCmd (s : State) (p : Nat) (c : Cmd) (o : GOut) (k a : Nat) : State :=
  let s := cmdMod s p c.id fun c => { c with writes := o.writes, counts := o.counts }
  endOwn (o.marks.foldl (fun s m => markRow s m.1 m.2) (if k = 5 then badFirst s a else s)) c.task 3 k 0 a

/-! ### Run-ahead (R168-R171; 03 R122) -/

/-- Whether `n` bytes lie inside one region of a task (03 R122). -/
def inRegion (s : State) (task a n : Nat) : Bool :=
  match taskGet s task with
  | some t => t.desc.regions.any fun w => let b := regionBounds w; decide (b.1 ≤ a ∧ a + n ≤ b.2)
  | none => false

/-- A datum read ahead: its address and the pages of its bytes with their generations; none where it leaves its region (R168, R170; 03 R122). -/
def aheadDatum (s : State) (task a n : Nat) : List (Nat × List (Nat × Nat)) :=
  if inRegion s task a n then [(a, (pagesOf a n).map fun g => (g, mget (fun _ => 0) s.gens g))] else []

/-- The list of input word w that lies on this device, and its header. -/
def inputList (s : State) (d : List Byte) (w : Nat) : Option PList :=
  if 2 ^ 40 ≤ w ∨ fld d 0x2E 5 ≤ w then none
  else
    let e := readNat s (fld d 0x28 6 + 8 * w) 8
    if e = 0 ∨ bits e 53 48 ≠ 0 ∨ e % 32 ≠ 0 ∨ bits e 63 54 ≠ s.boot.dev then none
    else match readHeader s (e % 2 ^ 48) with
      | .ok l => some l
      | .error _ => none

/-- The list whose blocks a walk decodes first: the input's own, or its hub's first fragment where that lies here. -/
def firstList (s : State) (l : PList) : Option PList :=
  if !l.hub then some l
  else match readFrags s l with
    | .ok (e :: _) =>
      if bits e.addr 63 54 ≠ s.boot.dev then none
      else match readHeader s (e.addr % 2 ^ 48) with
        | .ok l => some l
        | .error _ => none
    | _ => none

/-- What run-ahead holds as a gather starts: the index entries and list headers of the four inputs after the first, and up to
COR_GAT_CFG.RUNAHEAD blocks after the first block of the first input's list (R168). What the engine fetches ahead later it consumes in the same
event as it fetches it, so no generation can have changed; rows read ahead never mismatch (R172). The reserve of the tracker is timing (03 R124;
DESIGN CHOICE, log 20). -/
def aheadData (s : State) (p : Nat) (c : Cmd) : List (Nat × List (Nat × Nat)) :=
  let d := c.desc
  if bit (fld d 2 1) 3 ∨ fld d 0 1 = 2 then []
  else
    let ws := inputWords s p (fld d 0xC 4) (fld d 8 4)
    let blocks := match (ws.head?.bind (inputList s d)).bind (firstList s) with
      | some l => (List.range (min (fget s (regCorGatCfg p) 7 0) (l.blocks - 1))).flatMap fun k =>
        match readBlock s l 0 (k + 1) with
        | .ok b => aheadDatum s c.task b.at_ b.len
        | .error _ => []
      | none => []
    blocks ++ ((ws.drop 1).take 4).flatMap fun w =>
      if fld d 0x2E 5 ≤ w then []
      else aheadDatum s c.task (fld d 0x28 6 + 8 * w) 8 ++ (match inputList s d w with
        | some l => aheadDatum s c.task l.addr 32
        | none => [])

/-- The run-ahead data of a command that its walk consumes and that meet a generation that has changed (R171). -/
def aheadStale (s : State) (p id : Nat) (used : List (Nat × Nat)) : Nat :=
  ((coreGet s p).ahead.map fun a => if a.cmd = id then
    (a.data.filter fun d => (used.any fun u => u.1 == d.1) && d.2.any fun g => mget (fun _ => 0) s.gens g.1 != g.2).length else 0).foldl (· + ·) 0

/-- Drop a command's run-ahead data. -/
def dropAhead (s : State) (p id : Nat) : State :=
  let k := coreGet s p
  corePut s p { k with ahead := k.ahead.filter fun a => a.cmd ≠ id }

/-- RUNAHEAD_DISCARD: run-ahead data that has been held for 16 µs is discarded without trace, and the demand access of its
command reads memory again (R169). -/
def execRunaheadDiscard (core : Nat) (s : State) : Out :=
  match minBy (fun a : RunAhead => a.at_) (coreGet s core).ahead with
  | none => .next s
  | some a =>
    let s := advance s (a.at_ + 16000)
    let k := coreGet s core
    .next (corePut s core { k with ahead := k.ahead.filter fun x => decide (s.now < x.at_ + 16000) })

/-! ### Starting and completing (03 R109, R110, R756) -/

/-- The gather-engine command that may start now, of a kind (03 R109, R756). -/
def startable? (s : State) (p : Nat) (k : CmdKind) : Option Cmd :=
  if 8 ≤ (runningOf s p isGather).length then none
  else match nextCmd s p isGather with
    | some c => if c.kind = k then some c else none
    | none => none

/-- A command starts with a status decided at once: it will write nothing. -/
def startRefused (s : State) (p : Nat) (c : Cmd) (status : Nat) : State :=
  cmdMod s p c.id fun c => { c with running := true, startAt := s.now, status := status }

/-- GATHER_START: the gather engine starts its next command, checks its descriptor, reads what lies here, hands out the hubs it splits and
asks other devices for the rest (R154-R168, R173). -/
def execGatherStart (core : Nat) (s : State) : Out :=
  match startable? s core .gather with
  | none => .next s
  | some c =>
    let mode := fld c.desc 0 1
    if badGather s core c.desc then .next (startRefused s core c 2)
    else if mode ≠ 1 ∧ !readable s (fld c.desc 6 2) then .next (startRefused s core c 3)
    else
      let o := evalGather s core c
      match o.cause with
      | some (k, a) => .next (failCmd s core c o k a)
      | none =>
        let s := cmdMod s core c.id fun c => { c with running := true, startAt := s.now, writes := o.writes, counts := o.counts }
        let s := keepSplits s core c o
        let g := aheadData s core c
        let k := coreGet s core
        let s := if g.isEmpty then s else corePut s core { k with ahead := k.ahead ++ [⟨c.task, c.id, s.now, g⟩] }
        .next (sendNeeds s core c.id (sampleOf c.desc) o.needs)

/-- The status of a command whose status words are known (R157). -/
def partialStatus (good : Nat → Bool) (stats : List Nat) : Nat :=
  if stats.all fun w => good (w / 2 ^ 28) then 0 else 1

/-- A command's evaluation lands: writes, counts, row and list loads, replica reads and completion (R110, R157). -/
def landOut (s : State) (p : Nat) (c : Cmd) (o : GOut) (status : Nat) : State :=
  let s := addCounts (landWrites s o.writes) o.counts
  let s := countSpans (o.reads.foldl (fun s r => readDir (countRowRead s r.1 r.2.1 r.2.2 false) (coreDie p) r.2.1 r.2.2) s) o.spans
  let k := coreGet s p
  complete (dropAhead (corePut s p { k with replN := k.replN + o.repl }) p c.id) p c status

/-- GATHER_COMPLETE: a running gather with nothing left to await writes its outputs and completes. Each datum read ahead that the walk consumes
and whose page has changed is a mismatch: the task's first is fetched again, its second makes the task STALE (R156, R157, R171). -/
def execGatherComplete (core id : Nat) (s : State) : Out :=
  match cmdGet s core id with
  | none => .next s
  | some c =>
    if c.kind ≠ .gather ∨ !c.running ∨ awaiting s core id ∨ !c.frags.isEmpty then .next s
    else if c.status ≠ 0 then .next (complete s core c c.status)
    else
      let t := taskGet s c.task
      let before := match t with
        | some t => t.mismatches
        | none => 0
      let o := evalGather s core c
      if o.cause.isNone && !o.needs.isEmpty then .next (sendNeeds s core c.id (sampleOf c.desc) o.needs)
      else if o.cause.isNone && !o.splits.isEmpty then .next (keepSplits s core c o)
      else
      let m := aheadStale s core id o.spans
      let s := if before = 0 ∧ m ≠ 0 then bump1 s (regCorGatRefetch core) else s
      let s := match t with
        | some t => if m = 0 then s else taskPut s c.task { t with mismatches := before + m }
        | none => s
      if m ≠ 0 ∧ 2 ≤ before + m then .next (endOwn (if atApply s then s else bump1 s (regCorGatStale core)) c.task 4 0 0 0)
      else
        match o.cause with
        | some (k, a) => .next (failCmd (dropAhead s core id) core c o k a)
        | none => .next (landOut s core c o (partialStatus (fun v => v == 0 || v == 1 || v == 3) o.stats))

/-- Submit fragment tasks in order until one finds its list full (R173). -/
def submitFrags (req : Nat) : List (List Byte) → State → List (List Byte) × State
  | [], s => ([], s)
  | b :: r, s =>
    let (st, s) := submit s b req true
    if st = 2 ∨ st = 3 then (b :: r, s) else submitFrags req r s

/-- FRAGMENT_TASK_SUBMIT: a gather command submits its fragment tasks, as far as the lists have room (R173). -/
def execFragmentTaskSubmit (core id : Nat) (s : State) : Out :=
  match cmdGet s core id with
  | none => .next s
  | some c =>
    if !c.running then .next s
    else
      let req := match taskGet s c.task with
        | some t => t.req
        | none => 0
      let (rest, s) := submitFrags req c.frags s
      .next (cmdMod s core id fun c => { c with frags := rest })

/-! ### Serving remote requests (13 R508, R509; 09 R346, R360) -/

/-- The messages of a response stream (13 R508). -/
def rspParts : Nat → Nat → Nat → Nat → List Byte → List (List Byte)
  | 0, _, _, _, _ => []
  | fuel + 1, tag, count, n, b =>
    let last := decide (b.length ≤ 65520)
    (natLe 4 tag ++ natLe 2 count ++ natLe 1 0 ++ natLe 1 (b2n last) ++ natLe 2 n ++ natLe 6 0 ++ b.take 65520) ::
      (if last then [] else rspParts fuel tag count (n + 1) (b.drop 65520))

/-- Answer a request GREY as a whole (13 R508). -/
def answerGrey (s : State) (orig tag count : Nat) : State :=
  post s 0x02 orig (natLe 4 tag ++ natLe 2 count ++ natLe 1 1 ++ natLe 1 1 ++ natLe 2 0 ++ natLe 6 0)

/-- What a walk for another device gives: its answer bytes, its counts and the spans it read; or the address of a fragment that must be fetched
first. -/
structure ListAnswer where
  bytes : List Byte
  counts : List (Nat × Nat)
  spans : List (Nat × Nat)
  need : Option Need
deriving DecidableEq, Repr

/-- The answer to a LIST item, walked by the gather engine of a core (13 R508; 04 R152, R167, R177, R178, R182). A malformed list is FORMAT for the
requester's input, and counted there (R183). -/
def serveList (s : State) (core : Nat) (q : Sample) (addr : Nat) (got : List (Nat × List Byte)) : ListAnswer :=
  let threshold := fget s (regCorGatCfg core) 26 16 * 64
  let word := fun v cs => (⟨natLe 4 (statWord v 0), cs, [], none⟩ : ListAnswer)
  if addr % 32 ≠ 0 ∨ 2 ^ 48 ≤ addr then word 7 []
  else match walkList s threshold addr q got with
    | .error .noSection => word 6 [(regCorGatLists core, 1)]
    | .error (.need a k) => ⟨[], [], [], some (fragNeed q.vid a k)⟩
    | .error (.stop r work) =>
      let n := work.getD (1, 0)
      word (if r = .format then 7 else 8) [(regCorGatLists core, n.1), (regCorGatEdges core, n.2)]
    | .ok r =>
      let aux := if q.outW || q.outT then r.edges.flatMap fun e => natLe 4 e.2.1 ++ natLe 4 e.2.2 else []
      ⟨natLe 4 (statWord r.vstat r.count) ++ r.edges.flatMap (fun e => natLe 8 e.1) ++ aux,
        [(regCorGatLists core, r.lists), (regCorGatEdges core, r.decoded), (regCorGatUnsplit core, b2n r.unsplit)], r.reads, none⟩

/-- The core number that stands for a walk for another device in a remote request. -/
def serveOwner : Nat := 9998

/-- The sampling request of a LIST request for a vertex (13 R507). -/
def sampleReq (b : List Byte) (vid : Nat) : Sample :=
  ⟨fld b 1 1, fld b 2 2, fld b 8 8, fld b 0x10 4, vid, bit (fld b 0x14 1) 0, bit (fld b 0x14 1) 1, false⟩

/-- Answer a request with a response stream (13 R508). -/
def answerStream (s : State) (orig tag count : Nat) (stream : List Byte) : State :=
  (rspParts (stream.length + 1) tag count 0 stream).foldl (fun s m => post s 0x02 orig m) s

/-- Go on with a LIST request: its answer is sent, or the fragments of other devices that it needs are asked for and the walk waits (R167). -/
def continueServe (s : State) (v : Serve) : State :=
  let b := v.body
  let rs := (List.range (fld b 6 2)).map fun i =>
    let it := (b.drop (0x20 + 16 * i)).take 16
    serveList s v.core (sampleReq b (fld it 8 5)) (fld it 0 8) v.got
  let needs := rs.filterMap (·.need)
  let others := s.hws.serves.filter fun x => x.id ≠ v.id
  if needs.isEmpty then
    let s := { s with hws := { s.hws with serves := others } }
    let s := addCounts s (rs.flatMap (·.counts))
    answerStream (countSpans s (rs.flatMap (·.spans))) (fld b 0x16 2 % 1024) (fld b 0x18 4 % 2 ^ 24) (fld b 6 2) (rs.flatMap (·.bytes))
  else
    let s := { s with hws := { s.hws with serves := others ++ [v] } }
    sendNeeds s serveOwner v.id (sampleReq b) needs

/-- A LIST request begins. Which core's gather engine serves it, the rule does not say: it is a free choice among the logical cores (R167; DESIGN
CHOICE, log 59). -/
def beginServe (s : State) (b : List Byte) : State :=
  let (n, s) := draw s
  let core := ((physOf s (Config.freeNat n % 256)).getD 0)
  continueServe s ⟨fld b 0x16 2 % 1024 * 2 ^ 24 + fld b 0x18 4 % 2 ^ 24, core, b, []⟩

/-- The answer to a ROWS item, with its effects on counts and marks: the owner resolves the row through its own directory, whose copy the quadrant of
the engine that serves it holds; which engine that is is a free value (13 R507, R508; 09 R344, R347, R363; 08 R324, R327; DESIGN CHOICE, log 30). -/
def serveRow (s : State) (id x : Nat) : List Byte × State :=
  let t := tableGet s id
  let rs := fun n => natLe 4 (n * 2 ^ 28)
  if t.rows ≤ x then (rs 4, s)
  else if t.state = 3 then (rs 1, s)
  else
    let (q, s) := draw s
    let s := readDir s (Config.freeNat q % 4) id x
    match rowHere s id x with
    | none => (rs 1, s)
    | some a =>
      let (a, s) := serveAddr s id x a
      match rowAt s t id x a with
      | .row a b => (rs 0 ++ b, countRowRead s a id x true)
      | .cause 8 _ _ => (rs 2, s)
      | .cause 9 _ _ => (rs 3, s)
      | .cause 5 _ _ => (rs 2, markRow (badRead s a t.stride) id x)
      | _ => (rs 1, s)

/-- The device a FORWARD entry of a row names (09 R360). -/
def forwardOf (s : State) (id x : Nat) : Option Nat := (dirFind s id x 3).map (·.dev)

/-- Whether a requester's own request names a row that has moved away and whose FORWARD entry has gone: a requester asks this device only for a row it
has known here, so a row that is not here has moved (09 R360). The other rows of a request that was forwarded whole never lay here, so that the new
owner counts none of them (DEDUCED, log 26). -/
def fwdMissed (s : State) (id : Nat) (xs : List Nat) : Bool :=
  (tableGet s id).state != 3 && xs.any fun x =>
    decide (x < (tableGet s id).rows) && (forwardOf s id x).isNone && (rowHere s id x).isNone

/-- Serve a request (13 R507-R509). A ROWS request for a row that has a FORWARD entry is sent on, whole, to the device of the first such entry, which
answers for every item; one that has been forwarded already is answered GREY for such a row (09 R360; 13 R509; DEDUCED, log 26). -/
def serveRequest (s : State) (b : List Byte) : State :=
  let op := fld b 0 1
  let id := fld b 4 2 % 4096
  let count := fld b 6 2
  let fwd := bit (fld b 0x14 1) 2
  let orig := fld b 0x16 2 % 1024
  let tag := fld b 0x18 4 % 2 ^ 24
  let xs := (List.range count).map fun i => fld b (0x20 + 16 * i) 5
  if devGrey s ∨ (op ≠ 1 ∧ op ≠ 2) ∨ (op = 2 ∧ !readable s id) then answerGrey s orig tag count
  else if op = 1 then beginServe s b
  else
    let s := if !fwd && fwdMissed s id xs then event (bump1 s regPlcFwdMiss) regPlcEvents 5 else s
    match (if fwd then none else xs.findSome? (forwardOf s id)) with
    | some d => post (bump1 s regPlcForwarded) 0x01 d (b.take 0x14 ++ natLe 1 (Nat.lor (fld b 0x14 1) 4) ++ b.drop 0x15)
    | none =>
      let (stream, s) := xs.foldl (fun (acc : List Byte × State) x =>
        if (forwardOf acc.2 id x).isSome then (acc.1 ++ natLe 4 (2 ^ 28), acc.2)
        else let (r, s) := serveRow acc.2 id x; (acc.1 ++ r, s)) ([], s)
      answerStream s orig tag count stream

/-- GATHER_REQ: a request is served; one that arrives in an apply window is served from T+0 (13 R508; 09 R346). -/
def execGatherReq (src tag : Nat) (body : List Byte) (s : State) : Out :=
  powered s <|
  let s := takeMsg s src tag 0x01
  if inApply s then
    .next { s with hws := { s.hws with deferredReqs := s.hws.deferredReqs ++ [⟨src, tag, 0x01, false, body, []⟩] } }
  else .next (serveRequest s body)

/-- The requests that waited for T+0 are served (09 R346). -/
def serveDeferred (s : State) : State :=
  s.hws.deferredReqs.foldl (fun s m => serveRequest s m.bytes) { s with hws := { s.hws with deferredReqs := [] } }

end Sys2Proof.Machine
end

