-- ==== Sys2Proof/Machine/Lookup.lean ====
section
/-! DEFINITION. Look-up commands ROWS, BAG and STAGE (08 R307-R313), send commands with the scatter-add they make (03 R112,
R113; 13 R511), and the answers to remote requests (13 R508, R510). -/

namespace Sys2Proof.Machine

/-! ### Lookup descriptors (R307, R308) -/

/-- The bag bounds of a BAG look-up. -/
def bagBounds (s : State) (p : Nat) (d : List Byte) : List Nat :=
  (List.range (fld d 0xC 4 + 1)).map fun b => readNat s (spBase p + fld d 0x14 4 + 4 * b) 4

/-- Whether bag bounds rise in steps of at most 4,096 (R308). -/
def boundsRise : List Nat → Bool
  | a :: b :: r => decide (a ≤ b ∧ b ≤ a + 4096) && boundsRise (b :: r)
  | _ => true

/-- Whether the bag bounds of a descriptor break R308. -/
def badBounds (s : State) (p : Nat) (d : List Byte) : Bool :=
  let bs := bagBounds s p d
  bs.headD 0 != 0 || bs.getLastD 0 != fld d 8 4 || !boundsRise bs

/-- Whether the engine refuses a lookup descriptor (R308, R313). -/
def badLookup (s : State) (p : Nat) (d : List Byte) : Bool :=
  let op := fld d 0 1
  let pool := fld d 1 1
  let bag := op == 2
  let stage := op == 3
  let ids := fld d 8 4
  let bags := fld d 0xC 4
  let outs := if bag then bags else ids
  let t := fld d 4 2
  let stride := fld d 0x20 2
  let tab := tableGet s t
  !(decide (1 ≤ op ∧ op ≤ 3)) || (if bag then !(decide (1 ≤ pool ∧ pool ≤ 3)) else pool != 0) ||
    decide (4 ≤ fld d 2 1) || (!stage && decide (2 < fld d 3 1)) || !zeroAt d 0x22 2 || !zeroAt d 0x28 24 ||
    !(decide (1 ≤ ids ∧ ids ≤ 65536)) || (if bag then !(decide (1 ≤ bags ∧ bags ≤ 65536)) else bags != 0) ||
    (!bag && !zeroAt d 0x14 4) || (!(bag && pool == 3) && !zeroAt d 0x18 4) ||
    (stage && (!zeroAt d 2 1 || !zeroAt d 3 1 || !zeroAt d 6 2)) ||
    fld d 0x10 4 % 8 != 0 || fld d 0x14 4 % 4 != 0 || fld d 0x18 4 % 4 != 0 || fld d 0x24 4 % 4 != 0 ||
    fld d 0x1C 4 % 32 != 0 || stride % 32 != 0 ||
    !inSp (fld d 0x10 4) (8 * ids) || (bag && !inSp (fld d 0x14 4) (4 * (bags + 1))) ||
    (bag && pool == 3 && !inSp (fld d 0x18 4) (4 * ids)) || !inSp (fld d 0x1C 4) (stride * outs) ||
    !inSp (fld d 0x24 4) (4 * outs) ||
    (readable s t && (if stage then stride != tab.stride else decide (stride < tab.width * outSize (fld d 3 1)))) ||
    (bag && badBounds s p d)

/-- Whether a look-up completes BAD_TABLE (R308, R313). -/
def badTable (s : State) (d : List Byte) : Bool :=
  let t := fld d 4 2
  if fld d 0 1 = 3 then !(tableGet s t).taskStage || (tableGet s t).state != 2 else !readable s t

/-! ### Evaluation (R309-R312) -/

/-- What became of an id of a look-up: a row's values, or the VSTAT of a failure. -/
inductive IdRes where
  | vals (vs : List Nat)
  | fail (vstat : Nat)
deriving DecidableEq, Repr

/-- Fetch the row of the id at a position, noting what the fetch needs, counts or ends (R309, R312). -/
def fetchId (s : State) (p : Nat) (c : Cmd) (o : GOut) (w j : Nat) : GOut × Option IdRes :=
  let id := fld c.desc 4 2
  let t := tableGet s id
  if 2 ^ 40 ≤ w ∨ t.rows ≤ w then (o, some (.fail 4))
  else match fetchRow s p o.repl id w (rowKey j) c.got with
    | .row a b =>
      let repl := if (dirFind s id w 2).isSome then o.repl + 1 else o.repl
      ({ o with reads := o.reads ++ [(a, id, w)], repl := repl }, some (.vals (dequant t b).1))
    | .remoteRow b => (o, some (.vals (dequant t b).1))
    | .grey => (o, some (.fail 8))
    | .badId => (o, some (.fail 4))
    | .cause k a m =>
      let marks := if m then o.marks ++ [(id, w)] else o.marks
      ({ o.fail k a with marks := marks }, none)
    | .need n => ({ o with needs := o.needs ++ [n] }, none)

/-- Write an output row of a look-up and its status word; the table rows that go into it are delivered (R330). -/
def lookupOut (p : Nat) (d : List Byte) (o : GOut) (i : Nat) (vs : List Nat) (w rows : Nat) : GOut :=
  let ws := writesAt (spBase p + fld d 0x1C 4 + fld d 0x20 2 * i) (outBytes (fld d 3 1) vs)
  ({ o with writes := o.writes ++ ws, counts := o.counts ++ [(regEmbLookupRows, rows)] } : GOut).stat (spBase p) (fld d 0x24 4) i w

/-- Output i of a ROWS look-up (R309, R310). -/
def evalLookupRow (s : State) (p : Nat) (c : Cmd) (o : GOut) (wi : Nat × Nat) : GOut :=
  let (w, i) := wi
  match fetchId s p c o w i with
  | (o, some (.vals vs)) => lookupOut p c.desc o i vs (statWord 0 1) 1
  | (o, some (.fail v)) => o.stat (spBase p) (fld c.desc 0x24 4) i (statWord v 0)
  | (o, none) => o

/-- The pooled values of a bag's rows with their weights, accumulated in FP32 in bag order (R309; 07 R285). -/
def poolRows (pool : Nat) (width : Nat) (rows : List (List Nat × Nat)) : List Nat :=
  let terms := rows.map fun (vs, w) => if pool = 3 then vs.map fun v => (mulF v w).1 else vs
  match terms with
  | [] => List.replicate width 0
  | a :: r =>
    let sum := r.foldl (fun acc vs => (acc.zip vs).map fun x => (addF x.1 x.2).1) a
    if pool = 2 then sum.map fun v => (divF v (roundF (ofInt rows.length)).1).1 else sum

/-- Output b of a BAG look-up over the ids at positions `lo` to `hi` − 1 (R309, R310). -/
def evalBag (s : State) (p : Nat) (c : Cmd) (o : GOut) (b lo hi : Nat) : GOut :=
  let d := c.desc
  let so := fld d 0x24 4
  if hi ≤ lo then lookupOut p d o b (List.replicate (tableGet s (fld d 4 2)).width 0) (statWord 1 0) 0
  else
    let (o, rs, open_) := (List.range (hi - lo)).foldl (fun (acc : GOut × List (List Nat × Nat) × Option Nat × Bool) k =>
        let (o, rows, bad, hold) := acc
        let j := lo + k
        let w := readNat s (spBase p + fld d 0x10 4 + 8 * j) 8
        let wt := if fld d 1 1 = 3 then readNat s (spBase p + fld d 0x18 4 + 4 * j) 4 else 0
        match fetchId s p c o w j with
        | (o, some (.vals vs)) => (o, rows ++ [(vs, wt)], bad, hold)
        | (o, some (.fail v)) => (o, rows, bad.orElse fun _ => some v, hold)
        | (o, none) => (o, rows, bad, true)) (o, [], none, false)
    let (bad, hold) := open_
    if hold then o
    else match bad with
      | some v => o.stat (spBase p) so b (statWord v 0)
      | none => lookupOut p d o b (poolRows (fld d 1 1) (tableGet s (fld d 4 2)).width rs) (statWord 0 (hi - lo)) (hi - lo)

/-- Evaluate a ROWS or BAG look-up on the present memory and the answers it has got; under VERSION every status word says
so (R309, R310). -/
def evalLookup (s : State) (p : Nat) (c : Cmd) : GOut :=
  let d := c.desc
  let bag := fld d 0 1 == 2
  let outs := if bag then fld d 0xC 4 else fld d 8 4
  if bit (fld d 2 1) 1 && (tableGet s (fld d 4 2)).curVer != fld d 6 2 then
    (List.range outs).foldl (fun o i => o.stat (spBase p) (fld d 0x24 4) i (statWord 9 0)) gOutNil
  else if bag then
    let bs := bagBounds s p d
    (List.range outs).foldl (fun o b => evalBag s p c o b (bs.getD b 0) (bs.getD (b + 1) 0)) gOutNil
  else (inputWords s p (fld d 0x10 4) (fld d 8 4)).zipIdx.foldl (evalLookupRow s p c) gOutNil

/-! ### STAGE (R313) -/

/-- Stage the row of an id: its status word. -/
def stageId (s : State) (p : Nat) (d : List Byte) (w i : Nat) : Nat × State :=
  let id := fld d 4 2
  let t := tableGet s id
  if 2 ^ 40 ≤ w ∨ t.rows ≤ w then (statWord 4 0, s)
  else
    let (dev, _, _) := hashHome s t id w
    if dev ≠ s.boot.dev then (statWord 10 0, s)
    else
      let (ok, s) := stageRow s id w t.curVer (readBytes s (spBase p + fld d 0x1C 4 + fld d 0x20 2 * i) t.stride)
      if ok then (statWord 0 1, s) else (statWord 11 0, stageFull s)

/-- Stage the rows of a command in order: its status words, and the state with the rows staged. -/
def stageIds (s : State) (p : Nat) (d : List Byte) : List Nat × State :=
  (inputWords s p (fld d 0x10 4) (fld d 8 4)).zipIdx.foldl (fun acc wi =>
    let (w, s) := stageId acc.2 p d wi.1 wi.2
    (acc.1 ++ [w], s)) ([], s)

/-- Whether a look-up's VSTAT lets its command complete OK (R310). -/
def lookupGood (v : Nat) : Bool := v == 0 || v == 1

/-! ### The commands -/

/-- LOOKUP_START: the gather engine starts a look-up, checks its descriptor and table, and asks other devices for their
rows (R307-R312). -/
def execLookupStart (core : Nat) (s : State) : Out :=
  match startable? s core .lookup with
  | none => .next s
  | some c =>
    let d := c.desc
    if badLookup s core d then .next (startRefused s core c 2)
    else if badTable s d then .next (startRefused s core c 3)
    else if fld d 0 1 = 3 then .next (startRefused s core c 0)
    else
      let o := evalLookup s core c
      match o.cause with
      | some (k, a) => .next (failCmd s core c o k a)
      | none =>
        let s := cmdMod s core c.id fun c => { c with running := true, startAt := s.now, writes := o.writes, counts := o.counts }
        .next (sendNeeds s core c.id (sampleOf c.desc) o.needs)

/-- LOOKUP_COMPLETE: a running look-up with nothing left to await writes its outputs, or stages its rows, and completes (R110,
R309, R310, R313). -/
def execLookupComplete (core id : Nat) (s : State) : Out :=
  match cmdGet s core id with
  | none => .next s
  | some c =>
    if c.kind ≠ .lookup ∨ !c.running ∨ awaiting s core id then .next s
    else if c.status ≠ 0 then .next (complete s core c c.status)
    else if fld c.desc 0 1 = 3 then
      let (ws, s) := stageIds s core c.desc
      let so := spBase core + fld c.desc 0x24 4
      let s := landWrites s (writesAt so (ws.flatMap (natLe 4)))
      .next (complete s core c (partialStatus lookupGood ws))
    else
      let o := evalLookup s core c
      match o.cause with
      | some (k, a) => .next (failCmd s core c o k a)
      | none =>
        if !o.needs.isEmpty then .next (sendNeeds s core c.id (sampleOf c.desc) o.needs)
        else .next (landOut s core c o (partialStatus lookupGood o.stats))

/-! ### Scatter-add (13 R511) -/

/-- Whether a device address may be a target of a scatter-add word: usable HBM or a backed scratchpad (13 R511). -/
def saWord (s : State) (a : Nat) : Bool :=
  (match space a with
   | .hbm => true
   | .scratch _ => true
   | _ => false) && reachable s a

/-- Whether a SCATTER_ADD is refused whole (13 R511). -/
def saBad (s : State) (addr count hitch : Nat) (body : List Byte) : Bool :=
  addr % 4 != 0 || !(decide (1 ≤ count ∧ count ≤ 16376)) || decide (0 < hitch ∧ hitch < 0x1000) || !zeroAt body 0xA 6 ||
    decide (body.length < 16 + 4 * count) || !saWord s addr || !saWord s (addr + 4 * count - 1) ||
    protectedAt s addr (4 * count) || ((List.range count).any fun i => !saWord s (addr + 4 * i))

/-- Apply a SCATTER_ADD message of a device (13 R511). -/
def scatterAdd (s : State) (src : Nat) (body : List Byte) : State :=
  let addr := fld body 0 6
  let count := fld body 6 2
  let hitch := fld body 8 2
  if saBad s addr count hitch body then
    let s := event (bump1 s regHwsSaRefused) regHwsEvents 4
    report s 0x65 1 (devCode src) addr
  else
    let s := (List.range count).foldl (fun s i =>
      let a := addr + 4 * i
      taskWrite s a (natLe 4 (addF (readNat s a 4) (fld body (16 + 4 * i) 4)).1)) s
    if hitch = 0 then s else (signalHitch s hitch).2

/-- SCATTER_ADD: a scatter-add message arrives (13 R511). -/
def execScatterAdd (src tag : Nat) (body : List Byte) (s : State) : Out :=
  powered s <|
  .next (scatterAdd (takeMsg s src tag 0x03) src body)

/-! ### Send commands (03 R112, R113) -/

/-- Whether the engine refuses a send descriptor (03 R113). -/
def badSend (d : List Byte) : Bool :=
  let kind := fld d 0 1
  let count := fld d 4 2
  let hitch := fld d 6 2
  let src := fld d 0x10 4
  !(kind == 1 || kind == 2) || !zeroAt d 1 1 || decide (1024 ≤ fld d 2 2) || !zeroAt d 0x14 44 ||
    (if kind = 1 then !(decide (1 ≤ count ∧ count ≤ 16376)) || decide (0 < hitch ∧ hitch < 0x1000) ||
        decide (2 ^ 48 ≤ fld d 8 8) || fld d 8 8 % 4 != 0 || src % 4 != 0 || !inSp src (4 * count)
      else count != 1 || hitch != 0 || !zeroAt d 8 8 || src % 128 != 0 || !inSp src 128)

/-- The message a send descriptor makes: its kind and bytes (03 R113; 13 R496, R511). -/
def sendBody (s : State) (p : Nat) (c : Cmd) : Nat × List Byte :=
  let d := c.desc
  let src := spBase p + fld d 0x10 4
  if fld d 0 1 = 1 then
    (0x03, natLe 6 (fld d 8 8) ++ natLe 2 (fld d 4 2) ++ natLe 2 (fld d 6 2) ++ natLe 6 0 ++ readBytes s src (4 * fld d 4 2))
  else
    let req := match taskGet s c.task with
      | some t => t.req
      | none => 0
    (0x0B, readBytes s src 128 ++ natLe 8 req)

/-- SEND_START: the next send command is checked and its message handed over whole, applied or submitted here; it waits for
spill credits, or for room in a list (03 R112, R113; R756). A send that completes NO_ROUTE is counted in HWS_NO_ROUTE and raises its event as
a cell without a route is (13 R506), though no cell was made; a SCATTER_ADD to the own device that R511 refuses still completes OK, since its
message was applied locally as far as R511 goes (DESIGN CHOICE, log 26). -/
def execSendStart (core : Nat) (s : State) : Out :=
  match startable? s core .send with
  | none => .next s
  | some c =>
    let d := c.desc
    let dst := fld d 2 2
    if badSend d then .next (complete s core c 2)
    else
      let (kind, body) := sendBody s core c
      if dst = s.boot.dev then
        if kind = 0x03 then .next (complete (scatterAdd s dst body) core c 0)
        else
          let (st, s) := submit s (body.take 128) (fld body 128 8) true
          if st = 0 then .next (complete s core c 0)
          else if st = 1 then .next (complete s core c 7)
          else .next s
      else match routePort s dst false with
        | none => .next (complete (noRoute s) core c 6)
        | some (p, _) =>
          let vc := vcOf kind body
          if creditRoom s p vc (cellParts body.length body).length then .next (complete (post s kind dst body) core c 0)
          else .next s

/-! ### Answers (13 R508, R510; 08 R312, R324) -/

/-- Whether an item's answer is grey: RSTAT GREY, or VSTAT REMOTE of a list. -/
def greyItem (r : Remote) (b : List Byte) : Bool :=
  bits (fld b 0 4) 31 28 == (if r.items.length = 1 then 8 else 1)

/-- The answer to a request whose items have not come: grey. -/
def greyBytes (r : Remote) : List Byte := natLe 4 (if r.items.length = 1 then 8 * 2 ^ 28 else 2 ^ 28)

/-- What a gather or look-up command would write, as far as the answers it has got tell: a cancelled command leaves it old or new (03 R111). -/
def foresee (s : State) (p id : Nat) : State :=
  match cmdGet s p id with
  | none => s
  | some c =>
    let o := if c.kind = .gather then evalGather s p c else if c.kind = .lookup ∧ fld c.desc 0 1 ≠ 3 then evalLookup s p c else gOutNil
    cmdMod s p id fun c => { c with writes := o.writes, counts := o.counts }

/-- The answer to a command's item has come: it is kept, after one retry at the mirror where it is grey (08 R312). -/
def giveItem (s : State) (r : Remote) (b : List Byte) : State :=
  let id := r.items.getD 1 0
  let x := r.items.getD 2 0
  let t := tableGet s id
  let keep := fun (s : State) (b : List Byte) =>
    foresee (cmdMod s r.core r.cmd fun c => { c with got := c.got ++ [(r.items.getD 0 0, b)] }) r.core r.cmd
  if greyItem r b ∧ r.items.length = 3 ∧ t.mirror ∧ !r.mirror then
    let (home, _, _) := hashHome s t id x
    let m := mirrorDev s home
    if m = s.boot.dev then let (a, s) := serveRow s id x; keep s a
    else match cmdGet s r.core r.cmd with
      | some c => sendNeeds s r.core c.id (sampleOf c.desc) [⟨r.items.getD 0 0, m, false, x, 0, id, true⟩]
      | none => s
  else keep s b

/-- A peer's answer for a row to restore (08 R324). -/
def giveRestore (s : State) (r : Remote) (b : List Byte) : State :=
  let id := r.items.getD 0 0
  let x := r.items.getD 1 0
  let t := tableGet s id
  if rowMark s id x ≠ some false then s
  else if bits (fld b 0 4) 31 28 = 0 ∧ 4 + t.stride ≤ b.length then stageRestore s id x ((b.drop 4).take t.stride) false
  else match nextPeer s id x r.dev with
    | some d => if d = r.dev then rowLost s id x else askPeer s.boot.devs s id x d
    | none => rowLost s id x

/-- The answer to a fragment that a walk for another device awaits: the walk goes on once nothing it asked for is outstanding (04 R167). -/
def giveServe (s : State) (r : Remote) (b : List Byte) : State :=
  match s.hws.serves.find? (fun v => v.id == r.cmd) with
  | none => s
  | some v =>
    let v := { v with got := v.got ++ [(r.items.getD 0 0, b)] }
    let s := { s with hws := { s.hws with serves := s.hws.serves.map fun x => if x.id = v.id then v else x } }
    if awaiting s serveOwner v.id then s else continueServe s v

/-- The answer of a request goes to its owner. -/
def deliverAnswer (s : State) (r : Remote) (b : List Byte) : State :=
  let s := dropRemote s r.tag
  if r.core = embOwner then giveRestore s r b else if r.core = serveOwner then giveServe s r b else giveItem s r b

/-- The unit that made a remote request: the core whose engine asked, or the device for the embedding registry (15 R597). -/
def askerUnit (s : State) (r : Remote) : Nat :=
  if r.core = embOwner then unitCode s 0 0
  else if r.core = serveOwner then (match s.hws.serves.find? (fun v => v.id == r.cmd) with
    | some v => unitCode s 2 v.core
    | none => unitCode s 0 0)
  else unitCode s 2 r.core

/-- GATHER_RSP: a part of a response stream arrives; the whole stream, or a GREY answer, goes to the command that asked
(13 R508, R510). -/
def execGatherRsp (src tag : Nat) (body : List Byte) (s : State) : Out :=
  powered s <|
  let s := takeMsg s src tag 0x02
  let o := fld body 0 3
  match s.hws.remotes.find? (fun r => r.tag == o && r.hart.isNone) with
  | none => .next (lateRsp s)
  | some r =>
    if fld body 6 1 = 1 then
      let s := (reportFull s 0x64 2 1 (devCode src) (askerUnit s r) false r.tag).2
      .next (deliverAnswer s r (greyBytes r))
    else
      let n := fld body 8 2
      let r' := { r with parts := pput r.parts n (body.drop 16)
                         lastPart := if bit (fld body 7 1) 0 then some n else r.lastPart }
      if r'.lastPart = some (r'.parts.length - 1) then .next (deliverAnswer s r' (r'.parts.flatMap (·.2)))
      else .next { s with hws := { s.hws with remotes := s.hws.remotes.map fun x => if x.tag = o then r' else x } }

/-- REMOTE_GATHER_TIMEOUT: no whole answer within RMT_TIMEOUT_US: the item takes the GREY outcome (13 R510). At the apply point a core's task ends LATE
instead, and the expiry is not reported (15 R575). -/
def execRemoteGatherTimeout (tag : Nat) (s : State) : Out :=
  match s.hws.remotes.find? (fun r => r.tag == tag && r.hart.isNone) with
  | none => .next s
  | some r =>
    let s := advance s r.deadline
    if r.core < 272 ∧ atApply s then .next (dropRemote s tag)
    else .next (deliverAnswer (remoteTimedOut s r (askerUnit s r)) r (greyBytes r))

end Sys2Proof.Machine
end

