-- ==== Sys2Proof/Machine/Vector.lean ====
section
/-! DEFINITION. The vector engine: chain descriptors, stages, masks, reductions, soft max, permutations and segmented merges
(05). -/

namespace Sys2Proof.Machine

/-! ### Streams and selectors (R184-R192) -/

/-- OFF of a stream field. -/
def strOff (w : Nat) : Nat := w % 2 ^ 22
/-- FMT of a stream field. -/
def strFmt (w : Nat) : Nat := bits w 24 22
/-- BMODE of an input stream field. -/
def strMode (w : Nat) : Nat := bits w 26 25

/-- Bits of an element of a format (R189). -/
def fmtBits (f : Nat) : Nat :=
  match f with
  | 0 => 32
  | 1 => 16
  | 2 => 16
  | 3 => 32
  | 4 => 16
  | _ => 1

/-- Bytes that `n` elements of a format take. -/
def fmtBytes (f n : Nat) : Nat := (fmtBits f * n + 7) / 8

/-- Input stream field i of a chain descriptor, 0 to 3. -/
def inWord (d : List Byte) (i : Nat) : Nat := fld d (0x10 + 4 * i) 4

/-- Output stream field n. -/
def outWord (d : List Byte) (n : Nat) : Nat := fld d (0x20 + 4 * n) 4

/-- COUNT of a chain descriptor. -/
def vCount (d : List Byte) : Nat := fld d 8 4
/-- ROW_LEN. -/
def vRowLen (d : List Byte) : Nat := fld d 0xC 4
/-- NSTAGES. -/
def vStages (d : List Byte) : Nat := fld d 1 1
/-- A byte of stage word k. -/
def stByte (d : List Byte) (k o : Nat) : Nat := fld d (0x40 + 16 * k + o) 1

/-- Whether a selector names an input stream. -/
def selIn (x : Nat) : Bool := decide (1 ≤ x ∧ x ≤ 4)

/-- Elements a stream holds (R190). -/
def strLen (d : List Byte) (w : Nat) : Nat :=
  match strMode w with
  | 0 => vCount d
  | 1 => (vCount d + vRowLen d - 1) / max 1 (vRowLen d)
  | _ => vRowLen d

/-- The element of a stream that feeds element e (R190). -/
def strIdx (d : List Byte) (w e : Nat) : Nat :=
  match strMode w with
  | 0 => e
  | 1 => e / max 1 (vRowLen d)
  | _ => e % max 1 (vRowLen d)

/-- Whether a used selector of a chain names stream i (1 to 4), whatever the MODE (R188). -/
def strUsed (d : List Byte) (i : Nat) : Bool :=
  if fld d 0 1 = 1 then i == 1 || fld d 6 1 == i || fld d 7 1 == i
  else fld d 5 1 == i || fld d 6 1 == i || fld d 7 1 == i || fld d 0x28 1 == i || fld d 0x29 1 == i ||
    (List.range (vStages d)).any fun k => stByte d k 1 == i || stByte d k 2 == i || stByte d k 3 == i

/-- Operands of a stage operation, and whether it is an SF one; none for an undefined OP (R194). -/
def opInfo (op : Nat) : Option (Nat × Bool) :=
  match op with
  | 0x01 => some (1, false)
  | 0x02 => some (2, false) | 0x03 => some (2, false) | 0x04 => some (2, false)
  | 0x05 => some (3, false)
  | 0x06 => some (2, false) | 0x07 => some (2, false) | 0x08 => some (2, false) | 0x09 => some (2, false)
  | 0x0A => some (2, false) | 0x0B => some (2, false)
  | 0x0C => some (3, false)
  | 0x10 => some (1, true) | 0x11 => some (1, true) | 0x12 => some (1, true) | 0x13 => some (1, true)
  | 0x18 => some (2, false)
  | 0x20 => some (1, true)
  | _ => none

/-- Whether a selector may be an operand of stage k (R192). -/
def selOperand (k x : Nat) : Bool :=
  decide (x ≤ 4) || x == 8 || x == 9 || x == 0xA || (decide (0x10 ≤ x) && decide (x < 0x10 + k))

/-- Whether a selector may stand in the header; INDEX and POS only where allowed (R192). -/
def selHeader (d : List Byte) (x : Nat) (idx : Bool) : Bool :=
  decide (x ≤ 4) || (idx && (x == 9 || x == 0xA)) || (decide (0x10 ≤ x) && decide (x < 0x10 + vStages d))

/-- Whether a stream field is ELEM and holds integers. -/
def intStream (w : Nat) : Bool := strMode w == 0 && (strFmt w == 3 || strFmt w == 4)

/-- Whether stage k breaks R192-R194 or R212. -/
def badStage (d : List Byte) (k : Nat) : Bool :=
  let op := stByte d k 0
  let a := stByte d k 1
  let b := stByte d k 2
  let c := stByte d k 3
  match opInfo op with
  | none => true
  | some (n, _) =>
    decide (8 ≤ stByte d k 4) || !zeroAt d (0x45 + 16 * k) 3 || !zeroAt d (0x4C + 16 * k) 4 ||
      !selOperand k a || (if n ≤ 1 then b != 0 else !selOperand k b) || (if n ≤ 2 then c != 0 else !selOperand k c) ||
      (op == 0x18 && !(selIn a && selIn b && strMode (inWord d (a - 1)) == 0 && intStream (inWord d (b - 1))))

/-- The stages that are SF operations. -/
def sfStages (d : List Byte) : List Nat :=
  (List.range (vStages d)).filter fun k => match opInfo (stByte d k 0) with
    | some (_, sf) => sf
    | none => false

/-- The SOFTMAX stage of a chain. -/
def softStage (d : List Byte) : Option Nat := (List.range (vStages d)).find? fun k => stByte d k 0 == 0x20

/-! ### Areas (R197) -/

/-- A scratchpad area: offset, bytes, alignment, and for a stream its element's bits. -/
structure Area where
  off : Nat
  len : Nat
  align : Nat
  elem : Option Nat
deriving DecidableEq, Repr

/-- Whether two areas share a byte. -/
def Area.meets (a b : Area) : Bool := decide (a.off < b.off + b.len) && decide (b.off < a.off + a.len)

/-- Whether MERGE_OP has FINAL. -/
def vFinal (d : List Byte) : Bool := bit (fld d 0x2A 1) 7

/-- The most rows or segments a descriptor can give: one a record or element where segment ids decide. -/
def maxRows (d : List Byte) : Nat :=
  if fld d 0 1 = 1 then (if fld d 7 1 = 0 then 1 else vCount d)
  else
    let tw := if fld d 2 1 = 0 then 16 else 32
    match fld d 3 1 with
    | 0 => 0
    | 1 => 1
    | 2 => (vCount d + tw - 1) / tw
    | 3 => (vCount d + vRowLen d - 1) / max 1 (vRowLen d)
    | _ => vCount d

/-- Bytes of a merge record. -/
def recBytes (d : List Byte) : Nat := 8 + 4 * fld d 0x38 2

/-- The used output areas. -/
def outAreas (d : List Byte) : List Area :=
  let merge := fld d 0 1 == 1
  let ms := fld d 0x3A 2
  let r := maxRows d
  let outs := if merge then
      (let w := outWord d 0
       let f := if vFinal d then strFmt w else 0
       [⟨strOff w, ms * (r - 1) + (if vFinal d then fmtBytes f (fld d 0x38 2) else recBytes d), 32, some (fmtBits f)⟩])
    else [0, 1].filterMap fun n =>
      if fld d (0x28 + n) 1 = 0 then none
      else some ⟨strOff (outWord d n), fmtBytes (strFmt (outWord d n)) (vCount d), 32, some (fmtBits (strFmt (outWord d n)))⟩
  let red := if !merge && fld d 4 1 != 0 then [⟨fld d 0x2C 4, r * (if fld d 4 1 = 4 then 8 else 4), 8, none⟩] else []
  let stat := if fld d 0x30 4 ≠ 0xFFFFFFFF ∧ (merge ∨ fld d 3 1 ≠ 0) then [⟨fld d 0x30 4, 4 * r, 4, none⟩] else []
  outs ++ red ++ stat ++ [⟨fld d 0x34 4, 16, 16, none⟩]

/-- The used input areas, by stream number 1 to 4. -/
def inAreas (d : List Byte) : List (Nat × Area) :=
  ([1, 2, 3, 4].filter (strUsed d)).map fun i =>
    let w := inWord d (i - 1)
    if fld d 0 1 = 1 ∧ i = 1 then (i, ⟨strOff w, fld d 0x3A 2 * (vCount d - 1) + recBytes d, 32, some 32⟩)
    else (i, ⟨strOff w, fmtBytes (strFmt w) (strLen d w), 32, if strMode w = 0 then some (fmtBits (strFmt w)) else none⟩)

/-- Whether a stream is the data source of a PERM. -/
def permSource (d : List Byte) (i : Nat) : Bool :=
  fld d 0 1 == 0 && (List.range (vStages d)).any fun k => stByte d k 0 == 0x18 && stByte d k 1 == i

/-- Whether an output area may lie where an input area does: an exact coincidence with an ELEM input of the same element
size that no PERM reads (R197). -/
def inPlace (d : List Byte) (o : Area) (i : Nat × Area) : Bool :=
  o.elem.isSome && o.elem == i.2.elem && o.off == i.2.off && o.len == i.2.len && !permSource d i.1

/-- Whether the areas of a descriptor break R197. -/
def badAreas (d : List Byte) : Bool :=
  let os := outAreas d
  let is := inAreas d
  (os ++ is.map (·.2)).any (fun a => a.off % a.align != 0 || !inSp a.off a.len) ||
    os.zipIdx.any (fun (a, n) => os.zipIdx.any fun (b, m) => decide (n < m) && a.meets b) ||
    os.any fun a => is.any fun b => a.meets b.2 && !inPlace d a b

/-- Whether stream fields of a descriptor hold a reserved value (R188, R191). -/
def badStreams (d : List Byte) : Bool :=
  ([1, 2, 3, 4].filter (strUsed d)).any (fun i =>
      let w := inWord d (i - 1)
      decide (2 ^ 27 ≤ w) || strMode w == 3 || decide (5 < strFmt w) ||
        ((strMode w != 0) && (decide (65536 < vRowLen d) || vRowLen d == 0))) ||
    [0, 1].any fun n =>
      (if fld d 0 1 = 1 then n == 0 else fld d (0x28 + n) 1 != 0) &&
        (decide (2 ^ 27 ≤ outWord d n) || strFmt (outWord d n) == 4 || decide (5 < strFmt (outWord d n)))

/-- Whether the vector engine refuses a descriptor in CHAIN mode (R187-R197). -/
def badChain (d : List Byte) : Bool :=
  let rop := fld d 4 1
  let red := fld d 5 1
  let seg := fld d 7 1
  let scope := fld d 3 1
  !(decide (1 ≤ vStages d ∧ vStages d ≤ 12)) || decide (1 < fld d 2 1) || decide (4 < scope) || decide (4 < rop) ||
    !zeroAt d 0x2A 2 || !zeroAt d 0x38 4 || !(decide (1 ≤ vCount d ∧ vCount d ≤ 65536)) ||
    (List.range (vStages d)).any (badStage d) || decide (1 < (sfStages d).length) ||
    ((softStage d).isSome != (rop == 4)) || (rop != 0 && scope == 0) ||
    ((rop == 0 || rop == 4) && red != 0) || !selHeader d red true || !selHeader d (fld d 6 1) false ||
    !selHeader d (fld d 0x28 1) false || !selHeader d (fld d 0x29 1) false ||
    (scope == 3 && !(decide (1 ≤ vRowLen d ∧ vRowLen d ≤ 65536))) || (scope == 4 && seg == 0) ||
    (seg != 0 && !(selIn seg && intStream (inWord d (seg - 1)))) || badStreams d || badAreas d

/-- Whether the vector engine refuses a descriptor in MERGE mode (R197, R213-R215). -/
def badMerge (d : List Byte) : Bool :=
  let seg := fld d 7 1
  let mask := fld d 6 1
  let mw := fld d 0x38 2
  let ms := fld d 0x3A 2
  let op := fld d 0x2A 1
  !zeroAt d 1 5 || !zeroAt d 0xC 4 || !zeroAt d 0x24 4 || !zeroAt d 0x29 1 || !zeroAt d 0x2B 5 ||
    !(decide (1 ≤ vCount d ∧ vCount d ≤ 65536)) || !(decide (1 ≤ mw ∧ mw ≤ 4096)) ||
    ms % 32 != 0 || decide (ms < recBytes d) || bits op 6 3 != 0 || !(decide (1 ≤ op % 8 ∧ op % 8 ≤ 4)) ||
    (seg != 0 && !(selIn seg && intStream (inWord d (seg - 1)))) ||
    (mask != 0 && !(selIn mask && strMode (inWord d (mask - 1)) == 0)) ||
    strMode (inWord d 0) != 0 || strFmt (inWord d 0) != 0 ||
    [2, 3, 4].any (fun i => !strUsed d i && inWord d (i - 1) != 0) || badStreams d || badAreas d

/-- Whether the vector engine refuses a descriptor (R197). -/
def badVec (d : List Byte) : Bool :=
  if fld d 0 1 = 0 then badChain d else if fld d 0 1 = 1 then badMerge d else true

/-! ### Elements (R189, R195, R196) -/

/-- Canonical form of an FP32 pattern: every NaN is the canonical one (07 R275). -/
def canonF (n : Nat) : Nat := if (unF n).isNan then nanF else n % 2 ^ 32

/-- The raw element j of a stream. -/
def rawElem (s : State) (base w j : Nat) : Nat :=
  let f := strFmt w
  if f = 5 then b2n (bit (byteAt s (base + strOff w + j / 8)).toNat (j % 8))
  else readNat s (base + strOff w + fmtBits f / 8 * j) (fmtBits f / 8)

/-- A raw element converted to FP32, with its flags (R189). -/
def elemF (f n : Nat) : Nat × Nat :=
  match f with
  | 0 => (n, 0)
  | 1 => (widen fmtBf16 n, 0)
  | 2 => (widen fmtFp16 n, 0)
  | 3 => roundF (ofInt (sint 32 n))
  | 4 => roundF (ofInt n)
  | _ => (if n = 0 then 0 else 0x3F800000, 0)

/-- Whether an FP32 pattern is ±0. -/
def isZeroF (n : Nat) : Bool := n % 2 ^ 31 == 0

/-- 1.0 or 0.0. -/
def boolF (b : Bool) : Nat := if b then 0x3F800000 else 0

/-- The result of a stage operation other than PERM and SOFTMAX, with its flags (R194, R195). -/
def stageOp (op a b c : Nat) : Nat × Nat :=
  match op with
  | 0x01 => (canonF a, 0)
  | 0x02 => addF a b
  | 0x03 => subF a b
  | 0x04 => mulF a b
  | 0x05 => fmaF a b c
  | 0x06 => (minF a b, 0)
  | 0x07 => (maxF a b, 0)
  | 0x08 => (boolF ((unF a).eqv (unF b)), 0)
  | 0x09 => (boolF (!(unF a).eqv (unF b)), 0)
  | 0x0A => (boolF ((unF a).lt (unF b)), 0)
  | 0x0B => (boolF ((unF a).lt (unF b) || (unF a).eqv (unF b)), 0)
  | 0x0C => (canonF (if isZeroF c then b else a), 0)
  | 0x10 => exp2F a
  | 0x11 => log2F a
  | 0x12 => rcpF a
  | _ => rsqrtF a

/-- a with ABS_A and then NEG_A applied (R193). -/
def signMod (sflags a : Nat) : Nat :=
  let a := if bit sflags 1 then a % 2 ^ 31 else a
  if bit sflags 0 then Nat.xor a (2 ^ 31) else a

/-- exp(x) as EXP2(x × log₂ e) (R208). A subnormal result is within half a unit, so that the outputs of SOFTMAX keep the bound of 07 R283. -/
def expF (x : Nat) : Nat × Nat :=
  let (m, f) := mulF x 0x3FB8AA3B
  let (e, g) := exp2With true m
  (e, orf f g)

/-! ### Rows (R203, R205) -/

/-- Rows of `k` elements over `n` from element `at_` on. -/
def chunkRows (k : Nat) : Nat → Nat → Nat → List (Nat × Nat)
  | 0, _, _ => []
  | fuel + 1, at_, n => if n ≤ at_ then [] else (at_, min k (n - at_)) :: chunkRows k fuel (at_ + k) n

/-- Rows of equal neighbouring ids, from element `at_` on. -/
def segChunks (at_ : Nat) : List Nat → List (Nat × Nat)
  | [] => []
  | a :: r =>
    match segChunks (at_ + 1) r with
    | [] => [(at_, 1)]
    | (b, k) :: rest => if r.head? = some a then (at_, k + 1) :: rest else (at_, 1) :: (b, k) :: rest

/-- The segment ids of a descriptor's elements or records. -/
def segIds (s : State) (base : Nat) (d : List Byte) : List Nat :=
  let w := inWord d (fld d 7 1 - 1)
  (List.range (vCount d)).map fun e => rawElem s base w e

/-- Width of a tile row (R185). -/
def tileRow (d : List Byte) : Nat := if fld d 2 1 = 0 then 16 else 32

/-- The reduction rows of a chain, as (first element, length) (R203). -/
def vRows (s : State) (base : Nat) (d : List Byte) : List (Nat × Nat) :=
  let n := vCount d
  match fld d 3 1 with
  | 0 => []
  | 1 => [(0, n)]
  | 2 => chunkRows (tileRow d) n 0 n
  | 3 => chunkRows (vRowLen d) n 0 n
  | _ => segChunks 0 (segIds s base d)

/-- Position of an element in its row; its number where there are no rows (R192). -/
def posIn (rows : List (Nat × Nat)) (e : Nat) : Nat :=
  match rows.find? (fun r => decide (r.1 ≤ e ∧ e < r.1 + r.2)) with
  | some r => e - r.1
  | none => e

/-! ### Lanes (R199-R202, R212) -/

/-- A lane as its stages have run: latches, whether it is on, flags and out-of-range indices. -/
structure Lane where
  latches : List Nat
  on : Bool
  flags : Nat
  range : Nat
deriving DecidableEq, Repr

/-- An operand of a stage (R192). -/
def operandV (s : State) (base : Nat) (d : List Byte) (k e pos : Nat) (lat : List Nat) (x : Nat) : Nat × Nat :=
  if selIn x then
    let w := inWord d (x - 1)
    elemF (strFmt w) (rawElem s base w (strIdx d w e))
  else if x = 8 then (fld d (0x48 + 16 * k) 4, 0)
  else if x = 9 then roundF (ofInt e)
  else if x = 0xA then roundF (ofInt pos)
  else if 0x10 ≤ x then (lat.getD (x - 0x10) 0, 0)
  else (0, 0)

/-- The result of PERM for a lane that is on: the value, with ABS_A and NEG_A applied, its flags and whether the index was out of range (R193,
R212). -/
def permV (s : State) (base : Nat) (d : List Byte) (sflags a b e : Nat) : Nat × Nat × Nat :=
  let wa := inWord d (a - 1)
  let wb := inWord d (b - 1)
  let raw := rawElem s base wb e
  let i : Int := if strFmt wb = 3 then sint 32 raw else raw
  if 0 ≤ i ∧ i < vCount d then
    let (v, f) := elemF (strFmt wa) (rawElem s base wa i.toNat)
    (canonF (signMod sflags v), f, 0)
  else (0, 0, 1)

/-- Run one stage on a lane; `soft` is what SOFTMAX yields here (R193-R195, R201, R212). -/
def runStage (s : State) (base : Nat) (d : List Byte) (e pos soft : Nat) (l : Lane) (k : Nat) : Lane :=
  let op := stByte d k 0
  let get := operandV s base d k e pos l.latches
  let (a, fa) := get (stByte d k 1)
  let (b, fb) := get (stByte d k 2)
  let (c, fc) := get (stByte d k 3)
  let (v, f, r) :=
    if op = 0x20 then (soft, fa, 0)
    else if op = 0x18 then (if l.on then permV s base d (stByte d k 4) (stByte d k 1) (stByte d k 2) e else (0, 0, 0))
    else
      let (v, f) := stageOp op (signMod (stByte d k 4) a) b c
      (v, orf f (orf fa (orf fb fc)), 0)
  let m := fld d 6 1
  { latches := l.latches ++ [v]
    on := if m = 0x10 + k then l.on && !isZeroF v else l.on
    flags := if l.on then orf l.flags f else l.flags
    range := l.range + r }

/-- A lane before its stages: on unless a stream mask turns it off, with the flags of the mask's conversion to FP32 (R185, R200). -/
def laneStart (s : State) (base : Nat) (d : List Byte) (e : Nat) : Lane :=
  let m := fld d 6 1
  if selIn m then
    let w := inWord d (m - 1)
    let (x, f) := elemF (strFmt w) (rawElem s base w (strIdx d w e))
    ⟨[], !isZeroF x, f, 0⟩
  else ⟨[], true, 0, 0⟩

/-- Run the first `n` stages on element e. -/
def runLane (s : State) (base : Nat) (d : List Byte) (rows : List (Nat × Nat)) (soft : Nat → Nat) (n e : Nat) : Lane :=
  (List.range n).foldl (runStage s base d e (posIn rows e) (soft e)) (laneStart s base d e)

/-! ### Reductions (R204, R206) -/

/-- One level of the pairwise tree; a lane that takes no part leaves its partner as it is. -/
def treeLevel : List (Option Nat) → List (Option Nat) × Nat
  | a :: b :: r =>
    let (t, f) := treeLevel r
    match a, b with
    | some x, some y => let (z, g) := addF x y; (some z :: t, orf f g)
    | some x, none => (some x :: t, f)
    | none, y => (y :: t, f)
  | l => (l, 0)

/-- The pairwise sum of a tile row's lanes (R206). -/
def treeSum : Nat → List (Option Nat) → Option Nat × Nat
  | 0, l => (l.headD none, 0)
  | n + 1, l =>
    let (t, f) := treeLevel l
    let (v, g) := treeSum n t
    (v, orf f g)

/-- Values by element as the lanes of tile rows: for each tile row the row touches, its lanes. -/
def tileLanes (tw : Nat) (vals : List (Nat × Nat)) : List (List (Option Nat)) :=
  ((vals.map fun v => v.1 / tw).eraseDups).map fun t =>
    (List.range tw).map fun l => (vals.find? fun v => v.1 == t * tw + l).map (·.2)

/-- The sum of the values of a row, given as (element, value) (R206). -/
def rowSum (tw : Nat) (vals : List (Nat × Nat)) : Option Nat × Nat :=
  (tileLanes tw vals).foldl (fun (acc : Option Nat × Nat) lanes =>
    let (t, f) := treeSum 5 lanes
    match acc.1, t with
    | some x, some y => let (z, g) := addF x y; (some z, orf acc.2 (orf f g))
    | none, y => (y, orf acc.2 f)
    | x, none => (x, orf acc.2 f)) (none, 0)

/-- Reduce the unmasked values of a row: result, flags, INVALID (R204). -/
def reduceRow (rop tw : Nat) (vals : List (Nat × Nat)) : Nat × Nat × Bool :=
  let vs := vals.map (·.2)
  match vs with
  | [] => (if rop = 2 then 0xFF800000 else if rop = 3 then 0x7F800000 else 0, 0, false)
  | a :: r =>
    if vs.any fun v => (unF v).isNan then (nanF, 16, true)
    else if rop = 2 then (r.foldl maxF a, 0, false)
    else if rop = 3 then (r.foldl minF a, 0, false)
    else
      let (v, f) := rowSum tw vals
      let v := v.getD 0
      (v, f, (unF v).isNan)

/-- A status word of a chain (R207). -/
def vStat (unmasked : Nat) (posinf invalid empty_ : Bool) : Nat :=
  unmasked * 2 ^ 14 + b2n posinf * 4 + b2n invalid * 2 + b2n empty_

/-! ### Soft max (R208-R210) -/

/-- What the soft max of a row comes to: NaN, `k` entries of +∞, nothing, or a finite maximum and sum (R209). -/
inductive SoftRow where
  | nan
  | posinf (k : Nat)
  | empty
  | finite (m sum : Nat)
deriving DecidableEq, Repr

/-- +∞ in FP32. -/
def infF : Nat := 0x7F800000
/-- −∞ in FP32. -/
def ninfF : Nat := 0xFF800000

/-- The running maximum and sum over the finite entries of a row, a tile row at a time (R208). -/
def softSum (tw : Nat) (vals : List (Nat × Nat)) : Nat × Nat × Nat :=
  (tileLanes tw vals).foldl (fun (acc : Nat × Nat × Nat) lanes =>
    let (m, sum, f) := acc
    let here := lanes.filterMap id
    let mt := here.foldl maxF ninfF
    let m' := maxF m mt
    let (sum, f) := if m = ninfF ∨ m' = m then (sum, f)
      else
        let (dl, f1) := subF m m'
        let (w, f2) := expF dl
        let (p, f3) := mulF sum w
        (p, orf f (orf f1 (orf f2 f3)))
    let es := lanes.map fun l => l.map fun a => let (dl, f1) := subF a m'; let (w, f2) := expF dl; (w, orf f1 f2)
    let (t, g) := treeSum 5 (es.map fun x => x.map (·.1))
    let f := orf f (orf g ((es.filterMap id).foldl (fun x e => orf x e.2) 0))
    match t with
    | none => (m', sum, f)
    | some t => if m = ninfF then (m', t, f) else let (z, h) := addF sum t; (m', z, orf f h)) (ninfF, 0, 0)

/-- Soft max of a row's unmasked entries, with flags (R209). -/
def softRow (tw : Nat) (vals : List (Nat × Nat)) : SoftRow × Nat :=
  let vs := vals.map (·.2)
  if vs.any fun v => (unF v).isNan then (.nan, 16)
  else
    let k := (vs.filter (· == infF)).length
    if 0 < k then (.posinf k, 0)
    else
      let fin := vals.filter fun v => v.2 != ninfF
      if fin.isEmpty then (.empty, 0)
      else
        let (m, sum, f) := softSum tw fin
        (.finite m sum, f)

/-- The pair a row writes (R209). -/
def SoftRow.pair : SoftRow → Nat × Nat
  | .nan => (nanF, nanF)
  | .posinf k => (infF, (roundF (ofInt k)).1)
  | .empty => (ninfF, 0)
  | .finite m sum => (m, sum)

/-- What SOFTMAX yields at a position with entry `a`, masked or not, with flags (R209). -/
def softOut (r : SoftRow) (norm on : Bool) (a : Nat) : Nat × Nat :=
  match r with
  | .nan => (nanF, 0)
  | .empty => (0, 0)
  | .posinf k =>
    if on && a == infF then (if norm then (divF 0x3F800000 (roundF (ofInt k)).1).1 else 0x3F800000, 0) else (0, 0)
  | .finite m sum =>
    if !on || a == ninfF then (0, 0)
    else
      let (dl, f1) := subF a m
      let (w, f2) := expF dl
      if norm then let (q, f3) := divF w sum; (q, orf f1 (orf f2 f3)) else (w, orf f1 f2)

/-! ### Outputs (R191, R202) -/

/-- An FP32 value converted to an output format, with flags; `u` the draw where STOCH is 1 (R191). -/
def convOut (f : Nat) (u : Option Nat) (v : Nat) : Nat × Nat :=
  match f with
  | 0 => (canonF v, 0)
  | 1 => narrow fmtBf16 u v
  | 2 => narrow fmtFp16 u v
  | 3 => let (i, g) := toInt 32 (unF v); (uint 32 i, g)
  | _ => (b2n (!isZeroF v), 0)

/-- The draw for an element of an output (R191). -/
def outDraw (d : List Byte) (e n : Nat) : Nat := (philox e n 0 0 (fld d 0x3C 4) 0).1

/-- The writes of an output array: element by element, and bit by bit under BIT; a lane without a value is left (R191). -/
def packOut (s : State) (a f : Nat) (vals : List (Option Nat)) : List Host.Cell :=
  if f = 5 then
    (List.range ((vals.length + 7) / 8)).flatMap fun k =>
      let b0 := (byteAt s (a + k)).toNat
      let b := (List.range 8).foldl (fun b i => match vals.getD (8 * k + i) none with
        | some v => setBits b i i v
        | none => b) b0
      [(a + k, BitVec.ofNat 8 b)]
  else
    let n := fmtBits f / 8
    vals.zipIdx.flatMap fun (v, e) => match v with
      | some v => writesAt (a + n * e) (natLe n v)
      | none => []

/-! ### A chain (R199-R219) -/

/-- What a chain comes to: its writes, flags, out-of-range lanes, rows written, rows ROW_EMPTY or INVALID, tiles. -/
structure VOut where
  writes : List Host.Cell
  flags : Nat
  range : Nat
  rows : Nat
  badRows : Nat
  tiles : Nat
deriving DecidableEq, Repr

/-- Join the flags of a list. -/
def joinFlags (l : List Nat) : Nat := l.foldl orf 0

/-- The operand a of the SOFTMAX stage on a lane whose earlier stages have run, with the flags of its conversion. -/
def softOperand (s : State) (base : Nat) (d : List Byte) (rows : List (Nat × Nat)) (k e : Nat) (l : Lane) : Nat × Nat :=
  let (a, f) := operandV s base d k e (posIn rows e) l.latches (stByte d k 1)
  (signMod (stByte d k 4) a, if l.on then f else 0)

/-- The value an output's selector names on a lane, with the flags of its conversion to FP32. -/
def outSource (s : State) (base : Nat) (d : List Byte) (x e : Nat) (l : Lane) : Nat × Nat := operandV s base d 0 e e l.latches x

/-- One output of a chain: its writes and flags (R191, R202). -/
def chainOut (s : State) (base : Nat) (d : List Byte) (lanes : List Lane) (n : Nat) : List Host.Cell × Nat :=
  let x := fld d (0x28 + n) 1
  if x = 0 then ([], 0)
  else
    let w := outWord d n
    let f := strFmt w
    let soft := match softStage d with
      | some k => x == 0x10 + k
      | none => false
    let l := lanes.zipIdx.map fun (l, e) =>
      if l.on || soft then
        let (v, g) := outSource s base d x e l
        let u := if bit w 26 ∧ (f = 1 ∨ f = 2) then some (outDraw d e n) else none
        let (p, h) := convOut f u v
        (some p, if l.on then orf g h else 0)
      else (if bit w 25 then some 0 else none, 0)
    (packOut s (base + strOff w) f (l.map (·.1)), joinFlags (l.map (·.2)))

/-- A row's result: the bytes of RED, the status word, flags. -/
structure RowOut where
  red : List Byte
  stat : Nat
  flags : Nat
deriving DecidableEq, Repr

/-- Reduce a row of a chain without soft max. -/
def plainRow (s : State) (base : Nat) (d : List Byte) (rows : List (Nat × Nat)) (lanes : List Lane) (r : Nat × Nat) : RowOut :=
  let rop := fld d 4 1
  let es := (List.range r.2).map fun i => (r.1 + i, lanes.getD (r.1 + i) ⟨[], false, 0, 0⟩)
  let on := es.filter fun x => x.2.on
  let vals := on.map fun x => (x.1, operandV s base d 0 x.1 (posIn rows x.1) x.2.latches (fld d 5 1))
  let (v, f, inv) := if rop = 0 then (0, 0, false) else reduceRow rop (tileRow d) (vals.map fun x => (x.1, x.2.1))
  let g := if rop = 0 then 0 else joinFlags (vals.map fun x => x.2.2)
  ⟨if rop = 0 then [] else natLe 4 v, vStat on.length false inv on.isEmpty, orf f g⟩

/-- The status word and pair of a soft-max row. -/
def softRowOut (unmasked : Nat) (q : SoftRow × Nat) : RowOut :=
  let (m, sum) := q.1.pair
  ⟨natLe 4 m ++ natLe 4 sum,
    vStat unmasked (match q.1 with | .posinf _ => true | _ => false) (q.1 == .nan) (q.1 == .empty), q.2⟩

/-- What the sweeps of a chain give: lanes, rows, and flags that stand in neither. -/
structure Sweeps where
  lanes : List Lane
  rows : List RowOut
  flags : Nat
deriving DecidableEq, Repr

/-- The one sweep of a chain without soft max. -/
def plainSweep (s : State) (base : Nat) (d : List Byte) (rows : List (Nat × Nat)) : Sweeps :=
  let lanes := (List.range (vCount d)).map (runLane s base d rows (fun _ => 0) (vStages d))
  ⟨lanes, rows.map (plainRow s base d rows lanes), 0⟩

/-- An entry of a soft max: element, whether it is on, its value. -/
abbrev SoftEntry := Nat × Bool × Nat

/-- A row of entries, with how many are on and what its soft max comes to. -/
def softRowOf (tw : Nat) (es : List SoftEntry) (r : Nat × Nat) : (Nat × Nat) × Nat × SoftRow × Nat :=
  let on := ((es.drop r.1).take r.2).filter fun a => a.2.1
  (r, on.length, softRow tw (on.map fun a => (a.1, a.2.2)))

/-- What SOFTMAX yields for an entry among its rows (R209). -/
def softAt (norm : Bool) (rs : List ((Nat × Nat) × Nat × SoftRow × Nat)) (a : SoftEntry) : Nat × Nat :=
  match rs.find? (fun r => decide (r.1.1 ≤ a.1 ∧ a.1 < r.1.1 + r.1.2)) with
  | some r => softOut r.2.2.1 norm a.2.1 a.2.2
  | none => (0, 0)

/-- The pair of a row that sweep 1 did not write, as its place in the RED area holds it. -/
def pairAt (s : State) (a : Nat) : SoftRow :=
  let m := readNat s a 4
  if (unF m).isNan then .nan else if m = ninfF then .empty else if m = infF then .posinf 1 else .finite m (readNat s (a + 4) 4)

/-- The rows of sweep 2 with the pairs that it reads back: those of sweep 1 by number; a row that only sweep 2 has finds what the RED area held
(R208, R211). -/
def pairedRows (s : State) (base : Nat) (d : List Byte) (rows : List (Nat × Nat)) (rs : List ((Nat × Nat) × Nat × SoftRow × Nat)) :
    List ((Nat × Nat) × Nat × SoftRow × Nat) :=
  rows.zipIdx.map fun (r, i) => match rs[i]? with
    | some x => (r, x.2)
    | none => (r, 0, pairAt s (base + fld d 0x2C 4 + 8 * i), 0)

/-- The two sweeps of a chain whose stage k is SOFTMAX (R208, R211); each sweep reads the inputs as it finds them, SEG_SRC among them. -/
def softSweeps (s1 s : State) (base : Nat) (d : List Byte) (k : Nat) : Sweeps :=
  let es := List.range (vCount d)
  let rows1 := vRows s1 base d
  let rows2 := vRows s base d
  let operands := fun (s : State) (rows : List (Nat × Nat)) (ls : List Lane) => ls.zipIdx.map fun (l, e) => (e, l.on, softOperand s base d rows k e l)
  let entries := fun (xs : List (Nat × Bool × Nat × Nat)) => xs.map fun x => ((x.1, x.2.1, x.2.2.1) : SoftEntry)
  let first := es.map (runLane s1 base d rows1 (fun _ => 0) k)
  let ops := operands s1 rows1 first
  let rs := rows1.map (softRowOf (tileRow d) (entries ops))
  let again := es.map (runLane s base d rows2 (fun _ => 0) k)
  let outs := (entries (operands s rows2 again)).map (softAt (bit (stByte d k 4) 2) (pairedRows s base d rows2 rs))
  ⟨es.map (runLane s base d rows2 (fun e => (outs.getD e (0, 0)).1) (vStages d)), rs.map fun r => softRowOut r.2.1 r.2.2,
    joinFlags (first.map (·.flags) ++ ops.map (·.2.2.2) ++ outs.map (·.2))⟩

/-- Evaluate a chain; its first sweep, where it has two, reads memory as `s1` holds it (R199-R212). -/
def evalChain (s1 s : State) (base : Nat) (d : List Byte) : VOut :=
  let rows := vRows s1 base d
  let per := if fld d 2 1 = 0 then 256 else 512
  let sweeps := if (softStage d).isSome then 2 else 1
  let sw := match softStage d with
    | none => plainSweep s base d rows
    | some k => softSweeps s1 s base d k
  let lanes := sw.lanes
  let rowOuts := sw.rows
  let (w0, g0) := chainOut s base d lanes 0
  let (w1, g1) := chainOut s base d lanes 1
  let redW := if fld d 4 1 = 0 then [] else
    let k := if fld d 4 1 = 4 then 8 else 4
    rowOuts.zipIdx.flatMap fun (r, i) => writesAt (base + fld d 0x2C 4 + k * i) r.red
  let statW := if fld d 0x30 4 = 0xFFFFFFFF then [] else
    rowOuts.zipIdx.flatMap fun (r, i) => writesAt (base + fld d 0x30 4 + 4 * i) (natLe 4 r.stat)
  { writes := w0 ++ w1 ++ redW ++ statW
    flags := joinFlags ([sw.flags, g0, g1] ++ lanes.map (·.flags) ++ rowOuts.map (·.flags))
    range := (lanes.map (·.range)).foldl (· + ·) 0
    rows := rowOuts.length
    badRows := (rowOuts.filter fun r => r.stat % 4 != 0).length
    tiles := (vCount d + per - 1) / per * sweeps }

/-! ### Merges (R213-R217) -/

/-- A merge record: its head and values. -/
structure MRec where
  h0 : Nat
  h1 : Nat
  vs : List Nat
deriving DecidableEq, Repr

/-- Record i of a merge. -/
def mergeRec (s : State) (base : Nat) (d : List Byte) (i : Nat) : MRec :=
  let a := base + strOff (inWord d 0) + fld d 0x3A 2 * i
  ⟨readNat s a 4, readNat s (a + 4) 4, (List.range (fld d 0x38 2)).map fun j => readNat s (a + 8 + 4 * j) 4⟩

/-- Element-wise sum of value lists in order, with flags. -/
def sumLists : List (List Nat) → List Nat × Nat
  | [] => ([], 0)
  | a :: r => r.foldl (fun acc v =>
      let l := (acc.1.zip v).map fun x => addF x.1 x.2
      (l.map (·.1), orf acc.2 (joinFlags (l.map (·.2))))) (a, 0)

/-- A list of values times a weight, with flags. -/
def scaleList (w : Nat) (v : List Nat) : List Nat × Nat :=
  let l := v.map fun x => mulF x w
  (l.map (·.1), joinFlags (l.map (·.2)))

/-- What a segment's records merge to, with flags, status bits POSINF, INVALID and ROW_EMPTY, before FINAL (R215, R216). -/
structure MOut where
  rec_ : MRec
  flags : Nat
  posinf : Bool
  invalid : Bool
  empty : Bool
deriving DecidableEq, Repr

/-- Whether a record holds a NaN that its operation reads. -/
def recNan (op : Nat) (r : MRec) : Bool :=
  (op == 2 || op == 4) && (unF r.h0).isNan || op == 4 && (unF r.h1).isNan || r.vs.any fun v => (unF v).isNan

/-- Merge the unmasked records of a segment (R215-R217). -/
def mergeRecs (op w : Nat) (rs : List MRec) : MOut :=
  let zero := List.replicate w 0
  let nan := rs.any (recNan op)
  let nf := if nan then 16 else 0
  let hasNan := fun (l : List Nat) => l.any fun v => (unF v).isNan
  match op with
  | 1 =>
    let (v, f) := sumLists (rs.map (·.vs))
    if rs.isEmpty then ⟨⟨0, 0, zero⟩, 0, false, false, true⟩ else ⟨⟨0, 0, v⟩, orf f nf, false, nan || hasNan v, false⟩
  | 2 =>
    let (v, f) := sumLists (rs.map (·.vs))
    let (h, g) := sumLists (rs.map fun r => [r.h0])
    if rs.isEmpty then ⟨⟨0, 0, zero⟩, 0, false, false, true⟩
    else ⟨⟨h.headD 0, 0, v⟩, orf (orf f g) nf, false, nan || hasNan v || hasNan h, false⟩
  | 3 =>
    match rs with
    | [] => ⟨⟨0, 0, List.replicate w ninfF⟩, 0, false, false, true⟩
    | a :: r =>
      ⟨⟨0, 0, r.foldl (fun acc x => (acc.zip x.vs).map fun p => maxF p.1 p.2) (a.vs.map canonF)⟩, nf, false, nan, false⟩
  | _ =>
    if nan then ⟨⟨nanF, nanF, List.replicate w nanF⟩, 16, false, true, false⟩
    else
      let inf := rs.filter fun r => r.h0 == infF
      if !inf.isEmpty then
        let (v, f) := sumLists (inf.map (·.vs))
        let (h, g) := sumLists (inf.map fun r => [r.h1])
        ⟨⟨infF, h.headD 0, v⟩, orf f g, true, hasNan v || hasNan h, false⟩
      else
        let fin := rs.filter fun r => r.h0 != ninfF
        match fin with
        | [] => ⟨⟨ninfF, 0, zero⟩, 0, false, false, true⟩
        | a :: r =>
          let m := r.foldl (fun x y => maxF x y.h0) a.h0
          let l := fin.map fun x =>
            let (dl, f1) := subF x.h0 m
            let (e, f2) := expF dl
            let (sc, f3) := mulF x.h1 e
            let (v, f4) := scaleList e x.vs
            (sc, v, orf (orf f1 f2) (orf f3 f4))
          let (v, f) := sumLists (l.map fun x => x.2.1)
          let (h, g) := sumLists (l.map fun x => [x.1])
          ⟨⟨m, h.headD 0, v⟩, orf (orf f g) (joinFlags (l.map fun x => x.2.2)), false, hasNan v || hasNan h, false⟩

/-- The values FINAL gives, with flags and whether the divisor was 0 (R215). -/
def finalVals (op : Nat) (r : MRec) : List Nat × Nat × Bool :=
  let by_ := if op = 2 then some r.h0 else if op = 4 then some r.h1 else none
  match by_ with
  | none => (r.vs, 0, false)
  | some q =>
    if isZeroF q then (r.vs.map fun _ => 0, 0, true)
    else
      let l := r.vs.map fun v => divF v q
      (l.map (·.1), joinFlags (l.map (·.2)), false)

/-- The merge of one segment: its writes, flags and status word (R207, R213-R215; 07 R275). UNMASKED holds the records of the segment. ZERO_MASKED of
OUT0 finds no masked lane to act on: R215 states the result of a segment whose records are all masked (DEDUCED, log 25). -/
def mergeSeg (s : State) (base : Nat) (d : List Byte) (g : Nat × Nat) (r : Nat) : List Host.Cell × Nat × Nat :=
  let op := fld d 0x2A 1 % 8
  let ow := outWord d 0
  let recs := ((List.range g.2).map (g.1 + ·)).filter fun i => (laneStart s base d i).on
  let m := mergeRecs op (fld d 0x38 2) (recs.map (mergeRec s base d))
  let mask := joinFlags (recs.map fun i => (laneStart s base d i).flags)
  let a := base + strOff ow + fld d 0x3A 2 * r
  if vFinal d then
    let (vs, f, z) := finalVals op m.rec_
    let fm := strFmt ow
    let l : List (Nat × Nat) := vs.zipIdx.map fun (v, j) =>
      convOut fm (if bit ow 26 ∧ (fm = 1 ∨ fm = 2) then some (outDraw d (Config.mergeDraw r j) 0) else none) v
    (packOut s a fm (l.map fun x => some x.1), orf (orf mask m.flags) (orf f (joinFlags (l.map (·.2)))),
      vStat g.2 m.posinf (m.invalid || vs.any fun v => (unF v).isNan) (m.empty || z))
  else
    (writesAt a (natLe 4 (canonF m.rec_.h0) ++ natLe 4 (canonF m.rec_.h1) ++ m.rec_.vs.flatMap fun v => natLe 4 (canonF v)), orf mask m.flags,
      vStat g.2 m.posinf m.invalid m.empty)

/-- Evaluate a merge on the present memory (R213-R217). DESIGN CHOICE: a MERGE counts no tiles, since it streams records and R185 makes tiles of elements
(R221; log 25). -/
def evalMerge (s : State) (base : Nat) (d : List Byte) : VOut :=
  let segs := if fld d 7 1 = 0 then [(0, vCount d)] else segChunks 0 (segIds s base d)
  let outs := segs.zipIdx.map fun (g, r) => mergeSeg s base d g r
  let statW := if fld d 0x30 4 = 0xFFFFFFFF then [] else
    outs.zipIdx.flatMap fun (o, i) => writesAt (base + fld d 0x30 4 + 4 * i) (natLe 4 o.2.2)
  { writes := outs.flatMap (·.1) ++ statW
    flags := joinFlags (outs.map fun o => o.2.1)
    range := 0
    rows := outs.length
    badRows := (outs.filter fun o => o.2.2 % 4 != 0).length
    tiles := 0 }

/-- Evaluate a chain command. -/
def evalVec (s1 s : State) (base : Nat) (d : List Byte) : VOut := if fld d 0 1 = 1 then evalMerge s base d else evalChain s1 s base d

/-! ### The commands (R186, R197, R198, R218, R219) -/

/-- Whether a command is one of the vector engine. -/
def isChain (k : CmdKind) : Bool := k == .chain

/-- A chain command with what an evaluation of it writes, raises and counts (R218-R224). -/
def chainWork (core : Nat) (o : VOut) (c : Cmd) : Cmd :=
  let report := natLe 4 o.flags ++ natLe 4 (min o.range (2 ^ 32 - 1)) ++ natLe 4 o.rows
  { c with
    writes := o.writes ++ writesAt (spBase core + fld c.desc 0x34 4) report
    flags := o.flags
    counts := [(regCorVecChains core, 1), (regCorVecTiles core, o.tiles), (regCorVecRange core, o.range), (regCorVecRows core, o.badRows)] }

/-- The bytes of a chain's input areas. -/
def inputCells (s : State) (base : Nat) (d : List Byte) : List Host.Cell :=
  (inAreas d).flatMap fun a => writesAt (base + a.2.off) (readBytes s (base + a.2.off) a.2.len)

/-- The aligned 4-byte units of a chain's inputs that have been stored to since it started. -/
def storedUnits (s : State) (c : Cmd) : List Nat := ((c.old.filter fun b => byteAt s b.1 != b.2).map fun b => b.1 / 4).eraseDups

/-- Memory as a sweep of a chain takes it: each unit stored to since the start old or new, freely and for each sweep by itself; what a PERM reads,
as it stood before (R211, R212; 03 R119). -/
def sweepView (s : State) (base : Nat) (c : Cmd) (units : List Nat) (sweep : Nat) : State :=
  let perm := fun u => (inAreas c.desc).any fun a => permSource c.desc a.1 && decide ((base + a.2.off) / 4 ≤ u ∧ 4 * u < base + a.2.off + a.2.len)
  units.zipIdx.foldl (fun v e =>
    if perm e.1 || !Config.cancelPick (s.freeCtr + 2 * e.2 + sweep) then
      { v with mem := (c.old.filter fun b => b.1 / 4 = e.1).foldl (fun m b => mset (fun _ => (0 : Byte)) m b.1 b.2) v.mem }
    else v) s

/-- CHAIN_START: the vector engine, with no chain running, starts the next one: it checks the descriptor and computes what
the chain is to write (R186, R197). -/
def execChainStart (core : Nat) (s : State) : Out :=
  if !(runningOf s core isChain).isEmpty then .next s
  else match nextCmd s core isChain with
  | none => .next s
  | some c =>
    if badVec c.desc then .next (startRefused s core c 2)
    else
      let o := evalVec s s (spBase core) c.desc
      .next (cmdMod s core c.id fun c => chainWork core o { c with
        running := true
        startAt := s.now
        old := inputCells s (spBase core) c.desc })

/-- Core cycles from an instant to now, saturating at 32 bits (R218; 01 R34: 600 MHz). -/
def cyclesSince (s : State) (t : Nat) : Nat := min ((s.now - t) * 3 / 5) (2 ^ 32 - 1)

/-- CHAIN_COMPLETE: a running chain whose inputs were stored to takes each such unit old or new; its writes and report land, its flags go to the strand's FFLAGS and COR_VEC_FLAGS, its
counts to the engine's registers (R110, R211, R218-R225). -/
def execChainComplete (core : Nat) (s : State) : Out :=
  match (runningOf s core isChain).head? with
  | none => .next s
  | some c =>
    if c.status ≠ 0 then .next (complete (bump1 s (regCorVecBaddesc core)) core c c.status)
    else
      let units := storedUnits s c
      let c := if units.isEmpty then c
        else chainWork core (evalVec (sweepView s (spBase core) c units 0) (sweepView s (spBase core) c units 1) (spBase core) c.desc) c
      let s := if units.isEmpty then s else { s with freeCtr := s.freeCtr + 2 * units.length }
      let cyc := writesAt (spBase core + fld c.desc 0x34 4 + 12) (natLe 4 (cyclesSince s c.startAt))
      let s := addCounts (landWrites s (c.writes ++ cyc)) c.counts
      let s := rset s (regCorVecFlags core) (orf (rget s (regCorVecFlags core)) c.flags)
      .next (complete (orStrandFlags s core c c.flags) core c 0)

end Sys2Proof.Machine
end

