-- ==== Sys2Proof/Machine/Matrix.lean ====
section
/-! DEFINITION. The matrix engine: descriptors, exact products and tree passes, accumulator sets, splits, drains and the output
path (06). -/

namespace Sys2Proof.Machine

/-! ### Operand formats (R228-R230, R235) -/

/-- Bits of an operand element (R228). -/
def matBits (f : Nat) : Nat :=
  match f with
  | 0 => 16
  | 1 => 16
  | 7 => 6
  | 8 => 6
  | 9 => 4
  | _ => 8

/-- Whether a format has block scales (R228). -/
def isMx (f : Nat) : Bool := decide (5 ≤ f)

/-- Format of an operand field (R235). -/
def opFmt (w : Nat) : Nat := bits w 25 22

/-- Offset of an operand field. -/
def opOff (w : Nat) : Nat := w % 2 ^ 22

/-- Bytes of a row of `k` elements. -/
def matBytes (f k : Nat) : Nat := (matBits f * k + 7) / 8

/-- The value of an operand pattern without its scale (R228; 07 R264, R266). -/
def matValue (f n : Nat) : Fp :=
  match f with
  | 0 => unpack fmtBf16 n
  | 1 => unpack fmtFp16 n
  | 2 => unpack fmtE4m3 n
  | 3 => unpack fmtE5m2 n
  | 4 => ofInt (sint 8 n)
  | 5 => unpack fmtE4m3 n
  | 6 => unpack fmtE5m2 n
  | 7 => unpack fmtE3m2 n
  | 8 => unpack fmtE2m3 n
  | _ => unpack fmtE2m1 n

/-- A value times 2^(c − 127) exactly; code 0xFF stands for NaN (07 R265). -/
def scaleBy (c : Nat) (x : Fp) : Fp :=
  if c = 255 then .nan
  else match x with
    | .fin s m e => .fin s m (e + c - 127)
    | y => y

/-- The pattern of element j of a row at an address (R227, R230). -/
def matRaw (s : State) (f row j : Nat) : Nat :=
  if f = 7 ∨ f = 8 then bits (readNat s (row + 3 * (j / 4)) 3) (6 * (j % 4) + 5) (6 * (j % 4))
  else if f = 9 then bits (byteAt s (row + j / 2)).toNat (4 * (j % 2) + 3) (4 * (j % 2))
  else readNat s (row + matBits f / 8 * j) (matBits f / 8)

/-- M of a matrix descriptor. -/
def mM (d : List Byte) : Nat := fld d 2 1
/-- N. -/
def mN (d : List Byte) : Nat := fld d 3 1
/-- K. -/
def mK (d : List Byte) : Nat := fld d 4 4
/-- FLAGS. -/
def mFlags (d : List Byte) : Nat := fld d 1 1
/-- Whether the command makes products. -/
def mMma (d : List Byte) : Bool := fld d 0 1 == 1
/-- Whether the command drains (R233, R234). -/
def mDrains (d : List Byte) : Bool := fld d 0 1 == 2 || bit (mFlags d) 1
/-- START, on a command that makes products. -/
def mStart (d : List Byte) : Bool := mMma d && bit (mFlags d) 0
/-- EW_OP. -/
def mEw (d : List Byte) : Nat := bits (mFlags d) 4 3

/-- Operand A[m][k] (R227, R230). -/
def elemA (s : State) (base : Nat) (d : List Byte) (m k : Nat) : Fp :=
  let w := fld d 8 4
  let f := opFmt w
  let v := matValue f (matRaw s f (base + opOff w + m * fld d 0xC 4) k)
  if isMx f then scaleBy (byteAt s (base + fld d 0x18 4 + m * ((mK d + 31) / 32) + k / 32)).toNat v else v

/-- Operand B(n, k) (R227, R230). -/
def elemB (s : State) (base : Nat) (d : List Byte) (n k : Nat) : Fp :=
  let w := fld d 0x10 4
  let f := opFmt w
  let a := base + opOff w
  if bit (mFlags d) 2 then matValue f (matRaw s f (a + k * fld d 0x14 4) n)
  else
    let v := matValue f (matRaw s f (a + n * fld d 0x14 4) k)
    if isMx f then scaleBy (byteAt s (base + fld d 0x1C 4 + n * ((mK d + 31) / 32) + k / 32)).toNat v else v

/-! ### Checks (R236) -/

/-- Bytes of an element of OUT, E or BIAS (R235). -/
def outElem (f : Nat) : Nat := if f = 0 then 4 else if f ≤ 2 then 2 else 1

/-- The span of `r` rows of `n` bytes. -/
def rowSpan (off stride r n : Nat) : Nat × Nat := (off, (r - 1) * stride + n)

/-- Bytes of a partial slot (R249). -/
def slotBytes (m n : Nat) : Nat := 32 * ((4 * m * n + 31) / 32)

/-- The span of OUT. -/
def outSpan (d : List Byte) : Nat × Nat :=
  rowSpan (opOff (fld d 0x20 4)) (fld d 0x24 2) (mM d) (mN d * outElem (opFmt (fld d 0x20 4)))

/-- The span of E. -/
def eSpan (d : List Byte) : Nat × Nat :=
  rowSpan (opOff (fld d 0x28 4)) (fld d 0x26 2) (mM d) (mN d * outElem (opFmt (fld d 0x28 4)))

/-- The spans a command reads, E apart (R236, R244). -/
def baseSpans (d : List Byte) : List (Nat × Nat) :=
  let fa := opFmt (fld d 8 4)
  let fb := opFmt (fld d 0x10 4)
  let nblk := (mK d + 31) / 32
  let bt := bit (mFlags d) 2
  (if mMma d then
    [rowSpan (opOff (fld d 8 4)) (fld d 0xC 4) (mM d) (matBytes fa (mK d)),
     if bt then rowSpan (opOff (fld d 0x10 4)) (fld d 0x14 4) (mK d) (matBytes fb (mN d))
     else rowSpan (opOff (fld d 0x10 4)) (fld d 0x14 4) (mN d) (matBytes fb (mK d))] ++
    (if isMx fa then [(fld d 0x18 4, mM d * nblk)] else []) ++ (if isMx fb then [(fld d 0x1C 4, mN d * nblk)] else [])
   else []) ++
  (if mDrains d ∧ bit (mFlags d) 5 then [(opOff (fld d 0x2C 4), mN d * outElem (opFmt (fld d 0x2C 4)))] else [])

/-- The spans a command reads (R236, R244). -/
def readSpans (d : List Byte) : List (Nat × Nat) := baseSpans d ++ (if mDrains d ∧ mEw d ≠ 0 then [eSpan d] else [])

/-- The spans a command writes (R236). -/
def writeSpans (d : List Byte) (opening : Bool) : List (Nat × Nat) :=
  (if mDrains d then [outSpan d] else []) ++
  (if fld d 0x38 4 ≠ 0xFFFFFFFF then [(fld d 0x38 4, 16)] else []) ++
  (if opening ∧ fld d 0x3C 1 ≠ 0 then [(fld d 0x34 4, fld d 0x3C 1 * slotBytes (mM d) (mN d))] else [])

/-- Whether two spans share a byte. -/
def spansMeet (a b : Nat × Nat) : Bool := decide (a.1 < b.1 + b.2) && decide (b.1 < a.1 + a.2)

/-- Whether an operand field of OUT, E or BIAS is out of order. -/
def badField (w top : Nat) : Bool := decide (2 ^ 26 ≤ w) || decide (top < opFmt w) || opOff w % 32 != 0

/-- Whether a stride is out of order for rows of `n` bytes. -/
def badStride (st n : Nat) : Bool := st % 32 != 0 || decide (st < n)

/-- Whether a scale field is out of order. -/
def badScale (f w : Nat) : Bool := if isMx f then w % 32 != 0 else w != 0

/-- Whether OUT coincides exactly with E (R236). -/
def residual (d : List Byte) : Bool :=
  mEw d != 0 && opOff (fld d 0x28 4) == opOff (fld d 0x20 4) && fld d 0x26 2 == fld d 0x24 2 &&
    outElem (opFmt (fld d 0x28 4)) == outElem (opFmt (fld d 0x20 4))

/-- Whether one of the areas meets a partial buffer that begins at `off` with slots for `m` × `n` elements. -/
def meetsParts (areas : List (Nat × Nat)) (off slots m n : Nat) : Bool :=
  slots != 0 && areas.any fun a => spansMeet a (off, slots * slotBytes m n)

/-- Whether one of the areas meets a partial buffer the engine holds: that of the open accumulation, or that of the one whose drain is not
complete. The owner's command with START is held to it like any other (R236, R251; DEDUCED, log 60). -/
def meetsHeld (k : MatSt) (areas : List (Nat × Nat)) : Bool :=
  (k.open_ && meetsParts areas k.partOff k.partSlots k.openM k.openN) ||
    (k.draining.isSome && meetsParts areas k.drainOff k.drainSlots k.drainM k.drainN)

/-- Whether an area written meets an area read. Only OUT may coincide, and only with E: A, B, the scales and BIAS never may (R236). -/
def writesMeetReads (d : List Byte) (rd wr : List (Nat × Nat)) : Bool :=
  (wr.filter fun a => !(mDrains d && a == outSpan d)).any (fun a => rd.any fun b => spansMeet a b) ||
    (mDrains d &&
      ((baseSpans d).any (fun b => spansMeet (outSpan d) b) || (mEw d != 0 && spansMeet (outSpan d) (eSpan d) && !residual d)))

/-- Whether the engine refuses a descriptor, on its present state (R236, R249, R251). -/
def badMat (k : MatSt) (strand : Nat) (d : List Byte) : Bool :=
  let opening := mMma d && (!k.open_ || (k.owner == strand && mStart d))
  let fa := opFmt (fld d 8 4)
  let fb := opFmt (fld d 0x10 4)
  let bt := bit (mFlags d) 2
  let rd := readSpans d
  let wr := writeSpans d opening
  !(fld d 0 1 == 1 || fld d 0 1 == 2) || bit (mFlags d) 7 || !zeroAt d 0x3D 1 ||
    !(decide (1 ≤ mM d ∧ mM d ≤ 64)) || !(decide (1 ≤ mN d ∧ mN d ≤ 64)) ||
    (mMma d && (!(decide (1 ≤ mK d ∧ mK d ≤ 2 ^ 24)) || badField (fld d 8 4) 9 || badField (fld d 0x10 4) 9 ||
      ((fa == 4) != (fb == 4)) || (bt && decide (4 < fb)) || badScale fa (fld d 0x18 4) || badScale fb (fld d 0x1C 4) ||
      badStride (fld d 0xC 4) (matBytes fa (mK d)) ||
      badStride (fld d 0x14 4) (if bt then matBytes fb (mN d) else matBytes fb (mK d)))) ||
    (opening && (decide (64 < fld d 0x3C 1) || fld d 0x34 4 % 32 != 0)) ||
    (mDrains d && (mEw d == 3 || badField (fld d 0x20 4) 4 ||
      badStride (fld d 0x24 2) (mN d * outElem (opFmt (fld d 0x20 4))) ||
      (bit (mFlags d) 5 && badField (fld d 0x2C 4) 2) ||
      (mEw d != 0 && (badField (fld d 0x28 4) 2 || badStride (fld d 0x26 2) (mN d * outElem (opFmt (fld d 0x28 4))))))) ||
    (fld d 0x38 4 != 0xFFFFFFFF && fld d 0x38 4 % 16 != 0) ||
    (rd ++ wr).any (fun a => !inSp a.1 a.2) ||
    wr.zipIdx.any (fun (a, i) => wr.zipIdx.any fun (b, j) => decide (i < j) && spansMeet a b) ||
    writesMeetReads d rd wr || meetsHeld k (rd ++ wr) ||
    (k.open_ && !opening && k.owner == strand && (decide (k.openM < mM d) || decide (k.openN < mN d)))

/-! ### Passes and splits (R231, R248, R250) -/

/-- The passes a command makes, in order: the length of each, and whether the chain is split before it (R231, R248). -/
def passPlan : Nat → Nat → Nat → Nat → Nat → List (Bool × Nat × Nat)
  | 0, _, _, _, _ => []
  | fuel + 1, n, k, terms, passes =>
    if n ≤ k then []
    else
      let full := terms == 2 ^ 20 || passes == 16384
      let terms := if full then 0 else terms
      let passes := if full then 0 else passes
      let len := min (min (64 - k % 64) (n - k)) (2 ^ 20 - terms)
      (full, k, len) :: passPlan fuel n (k + len) (terms + len) (passes + 1)

/-- The plan of a command's passes from the chain counts. -/
def planOf (d : List Byte) (terms passes : Nat) : List (Bool × Nat × Nat) :=
  if mMma d then passPlan (mK d / 64 + mK d / 2 ^ 20 + 4) (mK d) 0 terms passes else []

/-- Splits of a plan (R250). -/
def splitsOf (plan : List (Bool × Nat × Nat)) : Nat := (plan.filter (·.1)).length

/-- The exact sum, in units of 2^l, of products all finite, with the free rounding of a tree whose products do not fit its 34
bits, and the inexact flag where that rounding changed the sum (R231, R232, R253). -/
def treeFinite (ps : List (Bool × Nat × Int)) : Fp × Nat :=
  let nz := ps.filter fun p => p.2.1 != 0
  match nz with
  | [] => (.fin (ps.all fun p => p.1) 0 0, 0)
  | a :: r =>
    let l := r.foldl (fun l p => min l p.2.2) a.2.2
    let ints : List Int := nz.map fun p => sgn p.1 (p.2.1 * 2 ^ (p.2.2 - l).toNat)
    let sum : Int := ints.foldl (fun a b => a + b) 0
    let mag : Nat := ints.foldl (fun (m : Nat) (i : Int) => m + i.natAbs) 0
    let o : Nat := ints.foldl (fun (m : Nat) (i : Int) => Nat.lor m i.natAbs) 0
    let g := o - Nat.land o (o - 1)
    if mag < 2 ^ 34 * g then (.fin (decide (sum < 0)) sum.natAbs l, 0)
    else
      let b := mag / 2 ^ 30
      let pick := Config.treePick (ps.map fun p => (sgn p.1 p.2.1, p.2.2))
      let t : Int := sum - b + (pick % (2 * b + 1) : Nat)
      (.fin (decide (t < 0)) t.natAbs l, b2n (t != sum))

/-- One tree pass over the products of a pass: its sum, and invalid where it is NaN or inexact where the tree rounded (R231, R232; 07
R274). -/
def treePass (prods : List (Fp × Nat)) : Fp × Nat :=
  if prods.any fun p => p.1.isNan then (.nan, 16)
  else
    let pos := prods.any fun p => p.1 == .inf false
    let neg := prods.any fun p => p.1 == .inf true
    if pos && neg then (.nan, 16)
    else if pos then (.inf false, 0)
    else if neg then (.inf true, 0)
    else treeFinite (prods.map fun p => match p.1 with
      | .fin s m e => (s, m, e)
      | _ => (false, 0, 0))

/-- An exact value added into an FP32 accumulator with one rounding; a subnormal result is flushed to zero of its sign (R231,
R232). -/
def accAdd (acc : Nat) (x : Fp) : Nat × Nat :=
  let (p, f) := finishF (exAdd (unF acc) x)
  if bits p 30 23 = 0 ∧ bits p 22 0 ≠ 0 then (p / 2 ^ 31 * 2 ^ 31, orf f 3) else (p, f)

/-- The products that enter the tree of element (m, n) in a pass. -/
def passProds (s : State) (base : Nat) (d : List Byte) (m n k len : Nat) : List (Fp × Nat) :=
  (List.range len).map fun i => exMul (elemA s base d m (k + i)) (elemB s base d n (k + i))

/-- What the products of a command do: the accumulators, the spills, flags, passes of each element, splits made. -/
structure MatRun where
  acc : List (Nat × Nat)
  terms : Nat
  passes : Nat
  splits : Nat
  spills : List Host.Cell
  flags : Nat
  made : Nat
  cut : Nat
deriving DecidableEq, Repr

/-- Elements (m, n) of a command. -/
def elems (d : List Byte) : List (Nat × Nat) := (List.range (mM d)).flatMap fun m => (List.range (mN d)).map fun n => (m, n)

/-- Spill the active set's M × N values into the next partial slot and clear it (R248, R249). -/
def spill (base : Nat) (d : List Byte) (partOff om on : Nat) (r : MatRun) : MatRun :=
  let at_ := base + partOff + r.splits * slotBytes om on
  let ws := (elems d).flatMap fun e =>
    writesAt (at_ + 4 * (on * e.1 + e.2)) (natLe 4 (mget (fun _ => 0) r.acc (64 * e.1 + e.2)))
  { r with acc := [], terms := 0, passes := 0, splits := r.splits + 1, spills := r.spills ++ ws, cut := r.cut + 1 }

/-- Make one pass of the plan (R231, R232, R248). -/
def runPass (s : State) (base : Nat) (d : List Byte) (partOff om on : Nat) (r : MatRun) (p : Bool × Nat × Nat) : MatRun :=
  let r := if p.1 then spill base d partOff om on r else r
  let (acc, f) := (elems d).foldl (fun (a : List (Nat × Nat) × Nat) e =>
    let i := 64 * e.1 + e.2
    let (t, f1) := treePass (passProds s base d e.1 e.2 p.2.1 p.2.2)
    let (v, f2) := accAdd (mget (fun _ => 0) a.1 i) t
    (mset (fun _ => 0) a.1 i v, orf a.2 (orf f1 f2))) (r.acc, r.flags)
  { r with acc := acc, flags := f, terms := r.terms + p.2.2, passes := r.passes + 1, made := r.made + 1 }

/-! ### The output path (R245-R247, R252) -/

/-- One level of the pairwise combination (R252). -/
def combineLevel : List Nat → List Nat × Nat
  | a :: b :: r =>
    let (t, f) := combineLevel r
    let (v, g) := accAdd a (unF b)
    (v :: t, orf f g)
  | l => (l, 0)

/-- The pairwise combination of an element's partials and final value (R252). -/
def combineAll : Nat → List Nat → Nat × Nat
  | 0, l => (l.headD 0, 0)
  | n + 1, l =>
    if l.length ≤ 1 then (l.headD 0, 0)
    else
      let (t, f) := combineLevel l
      let (v, g) := combineAll n t
      (v, orf f g)

/-- An element of E or BIAS widened to FP32 (R245). -/
def widenOut (s : State) (f a : Nat) : Nat :=
  match f with
  | 0 => readNat s a 4
  | 1 => widen fmtBf16 (readNat s a 2)
  | _ => widen fmtFp16 (readNat s a 2)

/-- An FP32 value converted to OUT's format (R245, R246). -/
def outConv (f : Nat) (u : Option Nat) (v : Nat) : Nat × Nat :=
  match f with
  | 0 => (canonF v, 0)
  | 1 => narrow fmtBf16 u v
  | 2 => narrow fmtFp16 u v
  | 3 => narrow fmtE4m3 u v
  | _ => narrow fmtE5m2 u v

/-- The output of element (m, n) from its combined accumulator value: pattern and flags (R245, R246). -/
def outElement (s : State) (base : Nat) (d : List Byte) (m n v : Nat) : Nat × Nat :=
  let (v, f1) := mulF v (fld d 0x30 4)
  let (v, f2) := if bit (mFlags d) 5 then
      (let w := fld d 0x2C 4
       let fb := opFmt w
       addF v (widenOut s fb (base + opOff w + outElem fb * n)))
    else (v, 0)
  let we := fld d 0x28 4
  let e := widenOut s (opFmt we) (base + opOff we + m * fld d 0x26 2 + outElem (opFmt we) * n)
  let (v, f3) := if mEw d = 1 then addF v e else if mEw d = 2 then mulF v e else (v, 0)
  let fo := opFmt (fld d 0x20 4)
  let u := if bit (mFlags d) 6 ∧ fo ≠ 0 then some (philox (64 * m + n) (opOff (fld d 0x20 4)) 0 0 (fld d 0x3E 2) 0).1 else none
  let (p, f4) := outConv fo u v
  (p, orf (orf f1 f2) (orf f3 f4))

/-- The combined value of an element of the set that drains and its flags (R252). After a strand store into the partial buffer it is undefined,
a free value (R251). -/
def drainValue (s : State) (base : Nat) (m : MatSt) (i j : Nat) : Nat × Nat :=
  if m.spoilt then (Config.freeNat (s.freeCtr + (64 * i + j)) % 2 ^ 32, 0)
  else
    let part := fun k => readNat s (base + m.drainOff + k * slotBytes m.drainM m.drainN + 4 * (m.drainN * i + j)) 4
    combineAll 8 ((List.range m.drainSplits).map part ++ [mget (fun _ => 0) m.shadow (64 * i + j)])

/-- The writes and flags of the drain of the shadow set with its partials (R245-R247, R252). -/
def drainOut (s : State) (base : Nat) (m : MatSt) : List Host.Cell × Nat :=
  let d := m.drainDesc
  let w := fld d 0x20 4
  let sz := outElem (opFmt w)
  (elems d).foldl (fun (acc : List Host.Cell × Nat) e =>
    let (v, f) := drainValue s base m e.1 e.2
    let (p, g) := outElement s base d e.1 e.2 v
    (acc.1 ++ writesAt (base + opOff w + e.1 * fld d 0x24 2 + sz * e.2) (natLe sz p), orf acc.2 (orf f g))) ([], 0)

/-! ### The commands (R237-R255) -/

/-- Whether a command is one of the matrix engine. -/
def isMat (k : CmdKind) : Bool := k == .mat

/-- Put a core's matrix engine. -/
def matPut (s : State) (p : Nat) (m : MatSt) : State := corePut s p { coreGet s p with mat := m }

/-- The running command whose products are made and whose swap waits for the drain in progress. -/
def swapWaiting (s : State) (p : Nat) : Option Cmd :=
  (runningOf s p isMat).find? fun c => mDrains c.desc && !c.draining && c.status == 0

/-- Report bytes but for CYCLES (R254). -/
def matReport (flags splits : Nat) (drained open_ : Bool) : List Byte :=
  natLe 4 (flags % 32) ++ natLe 4 splits ++ natLe 4 (b2n drained * 2 + b2n open_)

/-- The writes of a report, where the command asks for one. -/
def reportWrites (base : Nat) (d : List Byte) (b : List Byte) : List Host.Cell :=
  if fld d 0x38 4 = 0xFFFFFFFF then [] else writesAt (base + fld d 0x38 4) b

/-- Set what the draining command of an engine writes and raises, from the shadow set: the drain's own flags join those of its passes (R247,
R254). -/
def fillDrain (s : State) (p : Nat) (m : MatSt) (id : Nat) : State :=
  let (ws, f) := drainOut s (spBase p) m
  let fl := orf m.drainFlags f
  let rep := reportWrites (spBase p) m.drainDesc (matReport fl m.drainSplits true false)
  cmdMod s p id fun c => { c with draining := true, flags := fl, writes := ws ++ rep }

/-- The sets swap for a command: the filled set goes to the output path, the other becomes active and EMPTY (R241, R242). -/
def swapSets (s : State) (p : Nat) (c : Cmd) : State :=
  let m := (coreGet s p).mat
  let m := { m with
    active := []
    shadow := m.active
    open_ := false
    owner := 0
    draining := some c.id
    terms := 0
    passes := 0
    splits := 0
    partSlots := 0
    spoilt := false
    drainDesc := c.desc
    drainOff := m.partOff
    drainSlots := m.partSlots
    drainSplits := m.splits
    drainM := m.openM
    drainN := m.openN
    drainFlags := c.flags }
  let spoilt := (coreGet s p).mat.spoilt
  let s := fillDrain s p { m with spoilt := spoilt } c.id
  let s := if spoilt then { s with freeCtr := s.freeCtr + 4096 } else s
  matPut s p m

/-- A strand store reaches bytes of a core's scratchpad: where they lie in a partial buffer the engine holds, what its accumulation drains is
undefined from then on (R251). -/
def spoilParts (s : State) (a n : Nat) : State :=
  match space a with
  | .scratch p =>
    let m := (coreGet s p).mat
    let area := [(a - spBase p, n)]
    let s := if m.open_ ∧ meetsParts area m.partOff m.partSlots m.openM m.openN then matPut s p { m with spoilt := true } else s
    match m.draining with
    | none => s
    | some id =>
      if meetsParts area m.drainOff m.drainSlots m.drainM m.drainN then
        { fillDrain s p { m with spoilt := true } id with freeCtr := s.freeCtr + 4096 }
      else s
  | _ => s

/-- Where no drain is in progress, a command that waits to swap does. -/
def settleSwap (s : State) (p : Nat) : State :=
  if (coreGet s p).mat.draining.isSome then s
  else match swapWaiting s p with
    | some c => swapSets s p c
    | none => s

/-- Whether a command waits before it reads an operand: an area it reads meets the output of the drain in progress (R244), or
it would spill while one is (R248). -/
def matHeld (m : MatSt) (d : List Byte) (splits : Nat) : Bool :=
  m.draining.isSome && (decide (0 < splits) || (readSpans d).any fun a => spansMeet a (outSpan m.drainDesc))

/-- Make the products of an accepted command and note what it leaves (R241, R248). -/
def makeProducts (s : State) (p : Nat) (c : Cmd) (opening : Bool) (plan : List (Bool × Nat × Nat)) : State :=
  let d := c.desc
  let base := spBase p
  let m := (coreGet s p).mat
  let m := if opening then { m with
      active := [], open_ := true, owner := c.hart, terms := 0, passes := 0, splits := 0, spoilt := false, partOff := fld d 0x34 4
      partSlots := fld d 0x3C 1, openM := mM d, openN := mN d } else m
  let r := plan.foldl (runPass s base d m.partOff m.openM m.openN) ⟨m.active, m.terms, m.passes, m.splits, [], 0, 0, 0⟩
  let s := matPut s p { m with active := r.acc, terms := r.terms, passes := r.passes, splits := r.splits }
  let s := landWrites s r.spills
  cmdMod s p c.id fun c => { c with
    running := true
    startAt := s.now
    flags := r.flags
    counts := [(regCorMatCmds p, 1), (regCorMatPasses p, r.made * mM d), (regCorMatSplits p, r.cut)]
    writes := if mDrains d then [] else reportWrites base d (matReport r.flags r.splits false m.open_) }

/-- MATRIX_START: the next matrix command starts once the one before has made its products and swapped: it is checked, waits
for a drain it depends on, makes its products and swaps where it drains (R236-R250). -/
def execMatrixStart (core : Nat) (s : State) : Out :=
  let s := settleSwap s core
  if (swapWaiting s core).isSome then .next s
  else match nextCmd s core isMat with
  | none => .next s
  | some c =>
    let d := c.desc
    let m := (coreGet s core).mat
    if badMat m c.hart d then .next (startRefused s core c 2)
    else if m.open_ ∧ m.owner ≠ c.hart then .next (startRefused s core c 4)
    else
      let opening := mMma d && (!m.open_ || mStart d)
      let plan := planOf d (if opening then 0 else m.terms) (if opening then 0 else m.passes)
      let n := splitsOf plan
      let slots := if opening then fld d 0x3C 1 else m.partSlots
      if slots < (if opening then 0 else m.splits) + n then .next (startRefused s core c 5)
      else if matHeld m d n then .next s
      else .next (settleSwap (makeProducts s core c opening plan) core)

/-- A matrix command completes OK: its writes land, its flags and counts go to their registers (R110, R254, R255). -/
def matDone (s : State) (p : Nat) (c : Cmd) : State :=
  let cyc := if fld c.desc 0x38 4 = 0xFFFFFFFF then []
    else writesAt (spBase p + fld c.desc 0x38 4 + 12) (natLe 4 (cyclesSince s c.startAt))
  let s := addCounts (landWrites s (c.writes ++ cyc)) c.counts
  let s := rset s (regCorMatFlags p) (orf (rget s (regCorMatFlags p)) (Nat.land c.flags 0x17))
  complete (orStrandFlags s p c c.flags) p c 0

/-- The register that counts a refused matrix command (R259-R261). -/
def regMatRefused (p status : Nat) : Nat :=
  if status = 4 then regCorMatBusy p else if status = 5 then regCorMatPartfull p else regCorMatBaddesc p

/-- MATRIX_COMPLETE: a command that does not drain has made its products, or a refused one answers (R237, R243, R254). -/
def execMatrixComplete (core id : Nat) (s : State) : Out :=
  match cmdGet s core id with
  | none => .next s
  | some c =>
    if c.kind ≠ .mat ∨ !c.running then .next s
    else if c.status ≠ 0 then .next (complete (bump1 s (regMatRefused core c.status)) core c c.status)
    else if mDrains c.desc then .next s
    else .next (matDone s core c)

/-- DRAIN_COMPLETE: the last output row is written: the draining command completes, the shadow set is cleared, and a command
that waits to swap does (R238, R241, R243). -/
def execDrainComplete (core : Nat) (s : State) : Out :=
  let m := (coreGet s core).mat
  match m.draining with
  | none => .next (settleSwap s core)
  | some id =>
    let s := match cmdGet s core id with
      | some c => matDone s core c
      | none => s
    let m := (coreGet s core).mat
    .next (settleSwap (matPut s core { m with shadow := [], draining := none, drainSlots := 0 }) core)

end Sys2Proof.Machine
end

