-- ==== Sys2Proof/Machine/Items.lean ====
section
/-! DEFINITION. Plan buffers, plan items and their checks, common items and the PLAN summaries that list them (02 R56-R63; 13
R513, R514; each item's layout in its own chapter). -/

namespace Sys2Proof.Machine

/-! ### Plan buffers (02 R56, R57) -/

/-- Bytes of a plan buffer; an unwritten byte reads 0. -/
def planBytes (b : List Host.Cell) (o : Nat) : Nat → List Byte
  | 0 => []
  | n + 1 => mget (fun _ => (0 : Byte)) b o :: planBytes b (o + 1) n

/-- A little-endian field of a plan buffer. -/
def planNat (b : List Host.Cell) (o n : Nat) : Nat := leNat (planBytes b o n)

/-- TICK of a plan. -/
def planTick (b : List Host.Cell) : Nat := planNat b 0 8
/-- ITEM_COUNT of a plan. -/
def planCount (b : List Host.Cell) : Nat := planNat b 8 4

/-- Item i of a plan. -/
def planItem (b : List Host.Cell) (i : Nat) : List Byte := planBytes b (0x40 + 32 * i) 32

/-- The items of a plan with their indices. -/
def planItems (b : List Host.Cell) : List (Nat × List Byte) := (List.range (planCount b)).map fun i => (i, planItem b i)

/-- Whether a plan is sealed: SEAL equals TICK and ITEM_CRC matches the items (02 R57). DESIGN CHOICE: a buffer all of zeros holds no plan. -/
def planSealed (b : List Host.Cell) : Bool :=
  planNat b 0x38 8 == planTick b && planNat b 0xC 4 == crc32 (planBytes b 0x40 (32 * planCount b)) && !b.isEmpty

/-- Whether a sealed plan's header passes the checks for the tick after tick n (02 R62). -/
def headerOk (s : State) (b : List Host.Cell) (n : Nat) : Bool :=
  planNat b 0x10 8 == rget s regTsqCfg && planNat b 0x18 8 == planTick s.tsq.planActive && planTick b == n + 1 &&
    decide (planCount b ≤ 131070)

/-- The bytes of a plan without items, sealed, for a tick that follows another (02 R67). -/
def emptyPlan (s : State) (n prev : Nat) : List Host.Cell :=
  let bytes := natLe 8 n ++ natLe 4 0 ++ natLe 4 (crc32 []) ++ natLe 8 (rget s regTsqCfg) ++ natLe 8 prev ++ natLe 24 0 ++ natLe 8 n
  bytes.zipIdx.foldl (fun m b => mset (fun _ => (0 : Byte)) m b.2 b.1) []

/-! ### Items (02 R58, R62) -/

/-- KIND of an item. -/
def itemKind (i : List Byte) : Nat := fld i 0 1

/-- Whether `n` bytes at a device address lie in usable HBM. -/
def hbmRange (s : State) (a n : Nat) : Bool := space a == .hbm && space (a + n - 1) == .hbm && !inSpare s a && !inSpare s (a + n - 1)

/-- The offer that this device accepted for an item, where there is one (09 R358; 13 R514). -/
def acceptedFor (s : State) (item : List Byte) : Option Accepted := s.plc.accepted.find? fun a => a.item == item

/-- Whether a MIGRATE moves rows from one device to another, seen from either (09 R354, R358). -/
def crossMigrate (s : State) (item : List Byte) : Bool :=
  itemKind item == 5 && fld item 1 1 == 0 && (fld item 6 2 != s.boot.dev || (acceptedFor s item).isSome)

/-- Whether an item's reserved fields are 0 and its fields in the ranges of its layout (02 R62). -/
def itemOk (s : State) (i : List Byte) : Bool :=
  let t := fld i 1 1
  match itemKind i with
  | 1 => decide (t < 2) && decide (1 ≤ fld i 4 4 ∧ fld i 4 4 ≤ 65536) && fld i 8 8 % 128 == 0 && decide (fld i 8 8 < 2 ^ 48) &&
      (t == 0 || decide (fld i 2 2 < 256)) && zeroAt i 0x18 8
  | 2 => decide (t < 2) && zeroAt i 2 6 && fld i 8 8 % 4096 == 0 && hbmRange s (fld i 8 8) 32768 &&
      (if t = 1 then hbmRange s (fld i 0x10 8) 8192 else zeroAt i 0x10 8) && zeroAt i 0x18 8
  | 3 => zeroAt i 1 1 && decide (fld i 2 2 < 4096) && decide (1 ≤ fld i 4 4 ∧ fld i 4 4 ≤ 4194303) && zeroAt i 8 24
  | 4 => zeroAt i 1 1 && decide (fld i 2 2 < 4096) && zeroAt i 4 4 && zeroAt i 0xD 19
  | 5 => decide (t ≤ 2) && decide (fld i 2 2 < 4096) && (t != 1 || zeroAt i 2 2) && decide (fld i 6 2 < 1024) &&
      (if t = 0 then decide (1 ≤ fld i 4 2 ∧ fld i 4 2 ≤ 4096) else fld i 4 2 == 1 && fld i 6 2 == s.boot.dev) &&
      (t == 2 || decide (fld i 0xD 1 < 192)) && decide (fld i 0xE 1 ≤ 3) && zeroAt i 0xF 1 &&
      (if t = 0 then (if crossMigrate s i then zeroAt i 0x16 10 else zeroAt i 0x10 16)
       else zeroAt i 0x1C 4 && (t != 2 || (List.range 12).all fun k => decide (fld i (0x10 + k) 1 < 16) || fld i (0x10 + k) 1 == 255))
  | 6 => decide (t ≤ 5) && decide (fld i 2 2 < 4096) && zeroAt i 0xD 1 &&
      (if t = 4 then decide (1 ≤ fld i 0xE 2 ∧ fld i 0xE 2 ≤ 8) && decide (fld i 8 5 < 4096) else zeroAt i 0xE 2) &&
      (if t = 0 ∨ t = 1 ∨ t = 2 then zeroAt i 8 5 else zeroAt i 4 4) && (t == 3 || t == 4 || zeroAt i 8 5) &&
      (if t = 0 ∨ t = 2 ∨ t = 3 then true else zeroAt i 2 2) &&
      (if t ≤ 3 then zeroAt i 0x10 16 else t != 5 || zeroAt i 0x1E 2)
  | 7 =>
      if t = 0 then decide (fld i 2 2 < 4096) && decide (fld i 4 1 ≤ 4) && zeroAt i 5 1 && (fld i 4 1 == 0 || zeroAt i 6 2) &&
        zeroAt i 0x10 16
      else t == 1 && decide (fld i 2 2 < 1024) && decide (fld i 4 1 ≤ 5) && zeroAt i 5 1 && (fld i 4 1 == 0 || zeroAt i 6 2) &&
        fld i 8 8 % 2 ^ 25 == 0 && decide (fld i 0x14 2 < 1024)
  | 8 => decide (t ≤ 2) && (if t = 2 then fld i 2 2 == 0xFFFF else decide (fld i 2 2 < 256)) && decide (fld i 4 2 < 272) &&
      (if t = 0 then decide (fld i 6 2 < 272) else fld i 6 2 == 0xFFFF) && zeroAt i 8 24
  | 9 => (t == 2 || t == 3) && zeroAt i 2 6
  | 10 => zeroAt i 1 31
  | _ => false

/-- An item that fails its checks, or that a grey unit stops, is skipped alone: a record names its kind and index (02 R62; 01
R40). -/
def skipItem (s : State) (k : Nat × List Byte) : State :=
  event (report s 0x36 7 (unitCode s 10 1) (itemKind k.2 + 256 * k.1)) regTsqEvents 5

/-- An item that names a grey unit as its destination (01 R40). -/
def skipGrey (s : State) (k : Nat × List Byte) (unit : Nat) : State := report s 0x33 7 unit (itemKind k.2 + 256 * k.1)

/-! ### Common items (02 R58, R63; 13 R514) -/

/-- The other devices that a plan's item names; none for a local item. -/
def partners (s : State) (items : List (Nat × List Byte)) (i : List Byte) : List Nat :=
  let own := s.boot.dev
  let ofMigrate := fun (m : List Byte) =>
    if !crossMigrate s m then []
    else match acceptedFor s m with
      | some a => if fld m 6 2 = own then [a.src] else [fld m 6 2]
      | none => [fld m 6 2]
  match itemKind i with
  | 5 => ofMigrate i
  | 6 => if fld i 1 1 ≠ 0 then [] else match items.find? (fun m => m.1 == fld i 4 4) with
    | some (_, m) => ofMigrate m
    | none => []
  | 7 => (List.range s.boot.devs).filter (· ≠ own)
  | _ => []

/-- The common items of a plan, in order, with their partners. -/
def commonItems (s : State) (b : List Host.Cell) : List (Nat × List Byte × List Nat) :=
  let items := planItems b
  (items.map fun k => (k.1, k.2, partners s items k.2)).filter fun k => !k.2.2.isEmpty

/-- The summary entries of the common items that name a device: items byte for byte, the REF of a DIR_SWITCH naming the
position of its MIGRATE among them (13 R513). -/
def summaryEntries (s : State) (b : List Host.Cell) (dev : Nat) : List (Nat × List Byte) :=
  let own := (commonItems s b).filter fun k => k.2.2.contains dev
  own.map fun k =>
    if itemKind k.2.1 = 6 then
      let r := (own.findIdx? fun m => m.1 == fld k.2.1 4 4).getD 0
      (k.1, k.2.1.take 4 ++ natLe 4 r ++ k.2.1.drop 8)
    else (k.1, k.2.1)

/-- Entries that fit a SUMMARY message beside its header and list of breaks (13 R489, R513). -/
def maxEntries : Nat := 1980

/-- A summary whose TSQ_CFG differs is noted once a tick for each sender (R54). -/
def noteCfg (s : State) (src cfg : Nat) : State :=
  if cfg = rget s regTsqCfg ∨ s.hws.mismatched.contains src then s
  else
    let s := event { s with hws := { s.hws with mismatched := s.hws.mismatched ++ [src] } } regTsqEvents 4
    report s 0x43 0 (devCode src) cfg

/-- Cut entries into the messages of a summary. -/
def entryParts : Nat → List (List Byte) → List (List (List Byte))
  | 0, l => [l]
  | n + 1, l => if l.length ≤ maxEntries then [l] else l.take maxEntries :: entryParts n (l.drop maxEntries)

/-- A SUMMARY message (13 R513). -/
def summaryBytes (s : State) (sub tick : Nat) (entries : List (List Byte)) (breaks : List Nat) : List Byte :=
  let b := breaks.flatMap (natLe 2)
  natLe 1 sub ++ natLe 1 0 ++ natLe 2 entries.length ++ natLe 2 breaks.length ++ natLe 2 0 ++ natLe 8 tick ++
    natLe 8 (rget s regTsqCfg) ++ natLe 8 0 ++ entries.flatMap id ++ b ++ List.replicate ((8 - b.length % 8) % 8) 0

/-- The barriers that broke here in the tick before (11 R438; 13 R514). -/
def brokenBefore (s : State) : List Nat :=
  (s.hit.barriers.filter fun e => e.2.broken && e.2.def_.cross && e.2.brokenTick + 1 == s.tsq.tick).map (·.1)

/-- SUMMARY_PLAN_TX: in the first slot frame of a tick a PLAN summary goes to every device that one of its common items names; a tick run under a
hold plan has none (02 R65; 13 R514). -/
def sendSummaries (s : State) : State :=
  let b := if s.tsq.holdTick then [] else s.tsq.planActive
  let devs := ((commonItems s b).flatMap fun k => k.2.2).eraseDups
  devs.foldl (fun s d =>
    let es := (summaryEntries s b d).map (·.2)
    (entryParts es.length es).zipIdx.foldl (fun s p =>
      post s 0x08 d (summaryBytes s 1 s.tsq.tick p.1 (if p.2 = 0 then brokenBefore s else []))) s) s

end Sys2Proof.Machine
end

