-- ==== Sys2Proof/Machine/Time.lean ====
section
/-! DEFINITION. The time unit: sources, measurements and states, PTP on the hawser ports, PCIe PTM and the TICK pins (02
R46-R48, R68-R77). -/

namespace Sys2Proof.Machine

/-! ### States (R68, R69) -/

/-- Change the time unit. -/
def timMap (s : State) (f : TimUnit → TimUnit) : State := { s with tim := f s.tim }

/-- The codes of the states (R68). -/
def TimState.code : TimState → Nat
  | .unset => 0
  | .acquiring => 1
  | .locked => 2
  | .holdover => 3
  | .free => 4
  | .adrift => 5
  | .ahead => 6

/-- SRC_ORDER, first choice first; an entry 0 names none (R86). -/
def srcOrder (s : State) : List Nat :=
  ([0, 1, 2].map fun i => fget s regTimCfg (2 * i + 1) (2 * i)).filter (· ≠ 0)

/-- Place of a source in SRC_ORDER; 3 where it has none. -/
def srcRank (s : State) (src : Nat) : Nat := ((srcOrder s).findIdx? (· == src)).getD 3

/-- Whether running free is allowed. -/
def freeOk (s : State) : Bool := fget s regTimCfg 6 6 == 1

/-- HOLD_LIMIT_NS. -/
def holdLimit (s : State) : Nat := fget s regTimCfg 15 8

/-- Whether the partition has more than one device. -/
def partitioned (s : State) : Bool := decide (1 < s.boot.devs)

/-- The rate the servo puts in force for a measurement: within ±100 ppm, a free value (R69). -/
def servo (s : State) : Int × State :=
  let (n, s) := draw s
  let r := Config.servoRate n
  (if r < -100000 then -100000 else if 100000 < r then 100000 else r, s)

/-- The error estimate the time unit comes to, a free value that saturates at 255 (R87). -/
def estimate (s : State) : State :=
  let (n, s) := draw s
  timMap s fun t => { t with errEst := min 255 (Config.freeNat n) }

/-- The source in use changes; a clock whose source is not PTP is no grandmaster (R68, R73, R89). -/
def setSource (s : State) (src : Nat) : State :=
  if s.tim.source = src then s
  else event (timMap s fun t => { t with
    source := src, good := 0, bad := 0, lastMeas := none, grandmaster := t.grandmaster && src == 1 }) regTimEvents 1

/-- The time unit takes up a source that offers time `off` ns ahead of device time (R69). -/
def takeUp (s : State) (src : Nat) (off : Int) : State :=
  let s := setSource s src
  if off < -1000000 then event (timMap s fun t => { t with state := .ahead, rate := -100000 }) regTimEvents 4
  else
    let s := if s.tsq.running ∨ off ≤ 0 then s else { s with now := s.now + off.toNat }
    let (r, s) := servo s
    timMap s fun t => { t with state := .acquiring, rate := r, good := 0, bad := 0 }

/-- A measurement of the source in use; `off` is its offset in quarters of a ns (R69, R73). -/
def measured (s : State) (off : Int) : State :=
  let (r, s) := servo s
  let s := estimate s
  let near := decide (off.natAbs ≤ 40)
  match s.tim.state with
  | .acquiring =>
    if near && decide (16 ≤ s.tim.good + 1) then timMap s fun t => { t with state := .locked, rate := r, good := 0, bad := 0, usableAt := s.now }
    else timMap s fun t => { t with rate := r, good := if near then t.good + 1 else 0 }
  | .locked =>
    if off.natAbs ≤ 100 then timMap s fun t => { t with rate := r, bad := 0 }
    else if s.tim.bad + 1 < 4 then timMap s fun t => { t with rate := r, bad := t.bad + 1 }
    else
      let s := event (timMap s fun t => { t with state := .acquiring, rate := r, good := 0, bad := 0 }) regTimEvents 0
      report s 0x41 0 (unitCode s 10 0) (uint 32 (off.tdiv 4))
  | .holdover => timMap s fun t => { t with state := .acquiring, rate := r, good := 0, bad := 0 }
  | .ahead =>
    if off.natAbs ≤ 4000000 then timMap s fun t => { t with state := .acquiring, rate := r, good := 0, bad := 0 } else s
  | _ => s

/-- A source's time `src_` was seen at device time `at_`, both in quarters of a ns (R68, R69, R73). A source ahead of the one in use in SRC_ORDER takes
its place. OFFSET_NS holds the whole ns; where device time steps, the measurement stands at the time it has stepped to. -/
def measure (s : State) (src : Nat) (src_ at_ : Int) : State :=
  if srcRank s src = 3 then s
  else
    let s := timMap s fun t => { t with heard := pput t.heard src s.now }
    let off := (src_ - at_).tdiv 4
    let off32 : Int := if off < -(2 ^ 31 - 1) then -(2 ^ 31 - 1) else if 2 ^ 31 - 1 < off then 2 ^ 31 - 1 else off
    let note := fun (s' : State) => timMap s' fun t => { t with
      offset := off32, lastMeas := some ((src_ / 4).toNat, (at_ / 4).toNat + (s'.now - s.now)), lastMeasAt := s'.now }
    match s.tim.state with
    | .unset => note (takeUp s src off)
    | .free => note (takeUp s src off)
    | .adrift => note (takeUp s src off)
    | _ =>
      if s.tim.source = src then note (measured s (src_ - at_))
      else if srcRank s src < srcRank s s.tim.source then note (takeUp s src off)
      else s

/-- Sync intervals in ns by source (R69). -/
def syncInterval (s : State) : Nat :=
  match s.tim.source with
  | 1 => 7812500
  | 2 => 10000000
  | _ => period s

/-- SYNC_LOSS: no valid measurement for three sync intervals: the last rate holds (R69). The grandmaster awaits none. -/
def execSyncLoss (s : State) : Out :=
  if (s.tim.state ≠ .locked ∧ s.tim.state ≠ .acquiring) ∨ s.tim.grandmaster then .next s
  else
    let s := advance s (s.tim.lastMeasAt + 3 * syncInterval s)
    .next (estimate (event (timMap s fun t => { t with state := .holdover, good := 0, bad := 0 }) regTimEvents 2))

/-- Whether a source gave a measurement in the last three of its sync intervals (R69). -/
def heardLately (s : State) (src interval : Nat) : Bool := (pfind s.tim.heard src).any fun t => decide (s.now ≤ t + 3 * interval)

/-- Whether a source answers now: PTP while a port hears an Announce, PTM while the host link is up and dialogues are answered, TICK_IN while words
and edges come (DEDUCED, log 52). -/
def answers (s : State) (src : Nat) : Bool :=
  match src with
  | 1 => s.tim.ports.any fun p => p.2.announce.isSome
  | 2 => s.pci.linkUp && heardLately s 2 10000000
  | 3 => s.tim.tickInWord.isSome || heardLately s 3 (period s)
  | _ => false

/-- HOLDOVER_LIMIT: the error estimate passes HOLD_LIMIT_NS: the next source that answers, else FREE or ADRIFT (R69, R72). DESIGN CHOICE: at that
instant ERR_EST_NS reads HOLD_LIMIT_NS + 1, or what it read before if that is larger; the spec says only that it exceeds the limit (R87). -/
def execHoldoverLimit (s : State) : Out :=
  if s.tim.state ≠ .holdover then .next s
  else
    let s := timMap s fun t => { t with errEst := max t.errEst (min 255 (holdLimit s + 1)) }
    match (srcOrder s).find? (fun x => x != s.tim.source && answers s x) with
    | some x => .next (timMap (setSource s x) fun t => { t with state := .acquiring, good := 0, bad := 0 })
    | none =>
      if freeOk s then .next (timMap (setSource s 0) fun t => { t with state := .free, usableAt := s.now })
      else
        let s := event (timMap (setSource s 0) fun t => { t with state := .adrift }) regTimEvents 3
        .next (report s 0x40 0 (unitCode s 10 0) s.tim.errEst)

/-! ### PTP messages (R73; 13 R512) -/

/-- A big-endian field, as IEEE 1588 lays its messages out. -/
def beFld (b : List Byte) (o k : Nat) : Nat := leNat ((b.drop o).take k).reverse

/-- Big-endian bytes. -/
def natBe (k n : Nat) : List Byte := (natLe k n).reverse

/-- A timestamp field in quarters of a ns. -/
def ptpStamp (b : List Byte) (o : Nat) : Nat := 4 * (beFld b o 6 * 1000000000 + beFld b (o + 6) 4)

/-- A timestamp field of a time in quarters of a ns: its whole ns. -/
def stampBytes (t : Nat) : List Byte := natBe 6 (t / 4000000000) ++ natBe 4 (t / 4 % 1000000000)

/-- The quarters of a ns that a timestamp field leaves to the correctionField, in its unit of 2⁻¹⁶ ns. -/
def stampRest (t : Nat) : Int := t % 4 * 16384

/-- correctionField in quarters of a ns. -/
def ptpCorrection (b : List Byte) : Int := sint 64 (beFld b 8 8) / 16384

/-- A hardware timestamp taken now: device time in quarters of a ns, of which the counter of whole ns leaves the last two bits free (R73). -/
def stampNow (s : State) : Nat × State :=
  let (d, s) := draw s
  (4 * s.now + Config.freeNat d % 4, s)

/-- messageType of a PTP message. -/
def ptpType (b : List Byte) : Nat := fld b 0 1 % 16

/-- This clock's identity. -/
def clockId : Nat := Config.clockQuality.1

/-- A PTP message of this clock: type, port, sequenceId, flags, logInterval, correctionField and body. -/
def ptpMessage (type port seq flags log : Nat) (corr : Int) (body : List Byte) : List Byte :=
  natBe 1 type ++ natBe 1 2 ++ natBe 2 (34 + body.length) ++ natBe 1 0 ++ natBe 1 0 ++ natBe 2 flags ++ natBe 8 (uint 64 corr) ++ natBe 4 0 ++
    natBe 8 clockId ++ natBe 2 (port + 1) ++ natBe 2 seq ++ natBe 1 5 ++ natBe 1 log ++ body

/-- A PTP port that has heard nothing. -/
def ptpReset : PtpPort := ⟨none, 0, [], none, 0, 0, none, none, none, 0⟩

/-- A PTP port. -/
def ptpGet (s : State) (p : Nat) : PtpPort := mget (fun _ => ptpReset) s.tim.ports p

/-- Put a PTP port. -/
def ptpPut (s : State) (p : Nat) (t : PtpPort) : State := timMap s fun u => { u with ports := mset (fun _ => ptpReset) u.ports p t }

/-- The data set of this clock as grandmaster. -/
def ownAnnounce (s : State) : Announce :=
  ⟨fget s regTimCfg 23 16, 248, Config.clockQuality.2.1, Config.clockQuality.2.2, 128, clockId, 0, clockId⟩

/-- The order in which the default BMCA prefers data sets: the smaller is the better (R73). -/
def Announce.rank (a : Announce) : Nat :=
  ((((((a.priority1 * 256 + a.clockClass) * 256 + a.accuracy) * 65536 + a.variance) * 256 + a.priority2) * 2 ^ 64 + a.identity) *
    65536 + a.steps) * 2 ^ 64 + a.sender

/-- The best Announce heard, with its port. -/
def bestAnnounce (s : State) : Option (Nat × Announce) :=
  minBy (fun e => e.2.rank) (s.tim.ports.filterMap fun e => e.2.announce.map fun a => (e.1, a))

/-- The BMCA: this clock is grandmaster where no Announce is better and PTP is the first usable source in SRC_ORDER; the grandmaster is LOCKED with
offset 0 and goes on from its own device time (R68, R73). DESIGN CHOICE: a grandmaster's ERR_EST_NS reads 0, and its PTP_PORT, which leads to none,
keeps the port last set (R87; the spec gives neither). Its RATE_PPB stays the rate last in force, as it does in FREE and ADRIFT (R88, which names no
rate for them). -/
def bmca (s : State) : State :=
  let master := match bestAnnounce s with
    | none => true
    | some (_, a) => decide ((ownAnnounce s).rank < a.rank)
  let live := (List.range 16).any fun p => rdyState s (idxPort p) == .ready
  let use := decide (srcRank s 1 < 3) && live && !((srcOrder s).take (srcRank s 1)).any (answers s)
  if master then
    if use then
      timMap (setSource s 1) fun t => { t with
        grandmaster := true, state := .locked, offset := 0, errEst := 0, good := 0, bad := 0
        usableAt := if t.state == .locked then t.usableAt else s.now }
    else timMap s fun t => { t with grandmaster := false }
  else match bestAnnounce s with
    | some (p, _) => timMap s fun t => { t with grandmaster := false, ptpPort := p, lastMeasAt := if t.grandmaster then s.now else t.lastMeasAt }
    | none => s

/-- Whether the BMCA leaves a port PASSIVE: it hears the grandmaster that another port hears better by topology alone (R73). -/
def ptpPassive (s : State) (p : Nat) : Bool :=
  match bestAnnounce s, (ptpGet s p).announce with
  | some (q, e), some a => q != p && a.identity == e.identity && (a.steps == e.steps || (a.steps == e.steps + 1 && decide (a.sender < clockId)))
  | _, _ => false

/-- An Announce of a foreign master: it counts from its second within four announce intervals on, and the better of it and the port's best so far
stands; the answer is the port (R73). -/
def heard (s : State) (t : PtpPort) (a : Announce) : PtpPort :=
  let known := match pfind t.foreign a.sender with
    | some at_ => decide (s.now ≤ at_ + 4000000000)
    | none => false
  let t := { t with foreign := pput t.foreign a.sender s.now }
  if !known ∨ 255 ≤ a.steps then t
  else
    let better := match t.announce with
      | some b => b.sender == a.sender || decide (a.rank < b.rank)
      | none => true
    if better then { t with announce := some a, heardAt := s.now } else t

/-- A hawser port carries PTP no longer: the BMCA chooses again (13 R520). -/
def ptpPortDown (s : State) (p : Nat) : State := bmca (timMap s fun u => { u with ports := u.ports.filter fun e => e.1 != p })

/-- Send a PTP message by a port to the neighbour (13 R512). -/
def ptpSend (s : State) (p : Nat) (b : List Byte) : State := postPort s 0x07 p b

/-- PTP_MESSAGE_RX: a PTP message arrives at a port now: Sync and Follow_Up measure the source, the peer-delay messages are
answered and measured, an Announce goes to the BMCA; other types and domains are ignored (R69, R73; 13 R512). -/
def execPtpMessageRx (port : Nat) (body : List Byte) (s : State) : Out :=
  powered s <|
  if 16 ≤ port ∨ beFld body 4 1 ≠ 0 then .next s
  else
    let t := ptpGet s port
    let seq := beFld body 30 2
    match ptpType body with
    | 0 =>
      let (now, s) := stampNow s
      .next (ptpPut s port { t with syncAt := some (seq, now, ptpCorrection body) })
    | 8 =>
      (match t.syncAt, t.peerDelay with
       | some (q, at_, corr), some d =>
         if q = seq ∧ s.tim.ptpPort = port ∧ !s.tim.grandmaster ∧ (bestAnnounce s).isSome then
           .next (measure (ptpPut s port { t with syncAt := none }) 1 (ptpStamp body 34 + corr + ptpCorrection body + d) at_)
         else .next s
       | _, _ => .next s)
    | 2 =>
      let who := (body.drop 20).take 10
      let (t2, s) := stampNow s
      let s := ptpPut s port { t with reqCorr := sint 64 (beFld body 8 8) }
      .next (ptpSend s port (ptpMessage 3 port seq 0x200 0x7F (-stampRest t2) (stampBytes t2 ++ who)))
    | 3 =>
      if t.reqAt.isSome ∧ seq = t.reqSeq then
        let (t4, s) := stampNow s
        .next (ptpPut s port { t with respAt := some (ptpStamp body 34 - ptpCorrection body, t4) })
      else .next s
    | 0xA =>
      (match t.reqAt, t.respAt with
       | some t1, some (t2, t4) =>
         if seq = t.reqSeq then
           let d : Int := (((t4 : Int) - t1) - (ptpStamp body 34 + ptpCorrection body - t2)) / 2
           .next (rset (ptpPut s port { t with peerDelay := some d, reqAt := none, respAt := none }) (regHwsPdelay port) (uint 32 d))
         else .next s
       | _, _ => .next s)
    | 0xB =>
      let a : Announce := ⟨beFld body 47 1, beFld body 48 1, beFld body 49 1, beFld body 50 2, beFld body 52 1, beFld body 53 8, beFld body 61 2 + 1,
        beFld body 20 8⟩
      if a.identity = clockId then .next s
      else .next (bmca (ptpPut s port (heard s t a)))
    | _ => .next s

/-- Whether a port sends Sync and Announce: it is neither the port toward the grandmaster nor a PASSIVE one (R73). -/
def ptpMaster (s : State) (p : Nat) : Bool :=
  rdyState s (idxPort p) == .ready && (s.tim.grandmaster || (s.tim.source == 1 && s.tim.ptpPort != p && !ptpPassive s p))

/-- A PTP event message has left a port, its cell as cell `pos` of the frame that began at `at_`: that is the transmit timestamp, which a Follow_Up
carries for a Sync and a Pdelay_Resp, and which stands for the Pdelay_Req itself (R73; 13 R512). -/
def ptpSent (s : State) (p at_ pos : Nat) (b : List Byte) : State :=
  let t := ptpGet s p
  let seq := beFld b 30 2
  let (d, s) := draw s
  let tx := 4 * (at_ + pos) + Config.freeNat d % 4
  match ptpType b with
  | 0 => ptpSend s p (ptpMessage 8 p seq 0 0xF9 (stampRest tx) (stampBytes tx))
  | 2 => if seq = t.reqSeq then ptpPut s p { t with reqAt := some tx } else s
  | 3 => ptpSend s p (ptpMessage 0xA p seq 0 0x7F (t.reqCorr + stampRest tx) (stampBytes tx ++ (b.drop 44).take 10))
  | _ => s

/-- PTP_SYNC_TX: a port sends a two-step Sync; its Follow_Up comes when the Sync has left (R73). -/
def execPtpSyncTx (port : Nat) (s : State) : Out :=
  if 16 ≤ port ∨ !ptpMaster s port then .next s
  else
    let t := ptpGet s port
    let s := ptpPut s port { t with txSeq := (t.txSeq + 1) % 65536 }
    .next (ptpSend s port (ptpMessage 0 port t.txSeq 0x200 0xF9 0 (stampBytes 0)))

/-- PTP_PDELAY_REQ_TX: a port sends a Pdelay_Req (R73). -/
def execPtpPdelayReqTx (port : Nat) (s : State) : Out :=
  if 16 ≤ port ∨ !(rdyState s (idxPort port) == .ready || rdyState s (idxPort port) == .testing || rdyState s (idxPort port) == .grey)
  then .next s
  else
    let t := ptpGet s port
    let q := (t.reqSeq + 1) % 65536
    let s := ptpPut s port { t with reqSeq := q, reqAt := none, respAt := none }
    .next (ptpSend s port (ptpMessage 2 port q 0 0x7F 0 (stampBytes 0 ++ natBe 10 0)))

/-- PTP_ANNOUNCE_TX: a port sends an Announce of the grandmaster's data set (R73). -/
def execPtpAnnounceTx (port : Nat) (s : State) : Out :=
  if 16 ≤ port ∨ !ptpMaster s port then .next s
  else
    let a := if s.tim.grandmaster then ownAnnounce s else match bestAnnounce s with
      | some (_, a) => a
      | none => ownAnnounce s
    let t := ptpGet s port
    let s := ptpPut s port { t with txSeq := (t.txSeq + 1) % 65536 }
    .next (ptpSend s port (ptpMessage 0xB port t.txSeq 0 0 0 (stampBytes 0 ++ natBe 3 0 ++ natBe 1 a.priority1 ++ natBe 1 a.clockClass ++
      natBe 1 a.accuracy ++ natBe 2 a.variance ++ natBe 1 a.priority2 ++ natBe 8 a.identity ++ natBe 2 a.steps ++ natBe 1 0)))

/-- ANNOUNCE_RECEIPT_TIMEOUT: a port has heard no Announce for three announce intervals: the BMCA chooses again (R73). -/
def execAnnounceReceiptTimeout (port : Nat) (s : State) : Out :=
  if 16 ≤ port then .next s
  else
    let t := ptpGet s port
    let s := advance s (t.heardAt + 3000000000)
    .next (bmca (ptpPut s port { t with announce := none, foreign := [] }))

/-! ### PTM (R75) -/

/-- PTM_REQUEST: a PTM request goes out while PTM is the source, or may take over from a source that SRC_ORDER puts after it (R68, R75). -/
def execPtmRequest (s : State) : Out :=
  if srcRank s 2 = 3 ∨ !s.pci.linkUp ∨ srcRank s s.tim.source < srcRank s 2 then .next s
  else .next (timMap s fun t => { t with ptmPending := true })

/-- PTM_RESPONSE: a PTM dialogue completes: request sent and response received in device time, received and sent in master time
(R69, R75). -/
def execPtmResponse (t1 t2 t3 t4 : Nat) (s : State) : Out :=
  if !s.tim.ptmPending then .next s
  else
    let s := timMap s fun t => { t with ptmPending := false }
    let off : Int := (((t2 : Int) - t1) + ((t3 : Int) - t4)) / 2
    .next (measure s 2 (4 * (t4 + off)) (4 * t4))

/-! ### The TICK pins (R76, R77) -/

/-- TICK_IN_WORD: the word after an edge names the tick that the next edge starts (R76). -/
def execTickInWord (word : Nat) (s : State) : Out :=
  powered s <| .next (timMap s fun t => { t with tickInWord := some (word % 2 ^ 64) })

/-- TICK_IN_EDGE: an edge is one measurement of the tick its word named; an edge without a word is a missed one (R77). -/
def execTickInEdge (s : State) : Out :=
  powered s <|
  match s.tim.tickInWord with
  | none => .next (timMap s fun t => { t with missedEdges := t.missedEdges + 1 })
  | some n => .next (measure (timMap s fun t => { t with tickInWord := none, missedEdges := 0 }) 3 (4 * tickAt s n) (4 * s.now))

/-- Whether TICK_OUT is driven. -/
def tickOutEn (s : State) : Bool := fget s regTimCfg 7 7 == 1

/-- TICK_OUT_EDGE: TICK_OUT rises at a tick start (R76). -/
def tickOutEdge (s : State) : State :=
  if tickOutEn s then timMap s fun t => { t with tickOutEdges := t.tickOutEdges + 1, tickOutWord := none } else s

/-- TICK_OUT_WORD: 1 µs after its edge TICK_OUT carries the number of the next tick (R76). -/
def execTickOutWord (s : State) : Out :=
  if !tickOutEn s ∨ !s.tsq.running then .next s
  else
    let s := advance s (s.tsq.tickStart + 1000)
    .next (timMap s fun t => { t with tickOutWord := some ((s.tsq.tick + 1) % 2 ^ 64) })

end Sys2Proof.Machine
end

