-- ==== Sys2Proof/Machine/Link.lean ====
section
/-! DEFINITION. The hawser links: cells and markers, slot frames, spill and credits, replays, reassembly and transit, link
states (13 R487-R506, R519-R521). -/

namespace Sys2Proof.Machine

/-! ### Cells as bytes (R487) -/

/-- A cell's 200 bytes. -/
def cellBytes (c : Cell) : List Byte :=
  let flags := b2n c.first * 128 + b2n c.last * 64 + c.hops % 4 * 16 + b2n c.alt * 8 + b2n c.replay * 4 + c.cls % 4
  let b := natLe 1 c.kind ++ natLe 1 flags ++ natLe 6 (c.src % 1024 * 2 ^ 38 + c.dst % 1024 * 2 ^ 28 + c.tag % 2 ^ 24) ++
    natLe 2 c.seq ++ natLe 1 c.payload.length ++ natLe 1 0 ++ c.payload ++ List.replicate (184 - c.payload.length) 0
  b ++ natLe 4 (crc32 b)

/-- Whether 200 bytes are a cell whose CRC holds (R487, R488). -/
def cellGood (b : List Byte) : Bool := b.length == 200 && fld b 0xC4 4 == crc32 (b.take 0xC4)

/-- The cell that 200 bytes hold. DESIGN CHOICE: a LEN above 184 takes the whole payload (R487). -/
def parseCell (b : List Byte) : Cell :=
  let f := fld b 1 1
  let r := fld b 2 6
  ⟨fld b 0 1, bit f 7, bit f 6, bits f 5 4, bit f 3, bit f 2, f % 4, bits r 47 38, bits r 37 28, r % 2 ^ 24, fld b 8 2,
    (b.drop 0xC).take (min 184 (fld b 0xA 1)), 0, none⟩

/-! ### The cells of a frame (R491, R494, R495, R499, R504) -/

/-- What a port may send in a frame: no message at all (TESTING with a peer that differs, R519), PTP alone (TESTING, or grey, R521), granted and spill
cells (R519, R72), the destinations that get idle cells (R54), and whether grants hold and the copy stage runs (R494). -/
structure FrameMode where
  mute : Bool
  ptpOnly : Bool
  data : Bool
  spill : Bool
  slots : Bool
  idle : List Nat
  grants : Bool
  copy : Bool
deriving DecidableEq, Repr

/-- A frame being filled: the port, and the cells sent as (position, cell). -/
abbrev Filling := Port × List (Nat × Cell)

/-- The pool a cell spends a credit of: 3v + h (R503). -/
def poolOf (c : Cell) : Nat := 3 * c.vc + c.hops

/-- Send a queued cell in a position with a class: it takes the next SEQ, a granted or spill cell spends a credit, and the
cell is kept (R488, R503). -/
def putCell (f : Filling) (fc pos cls : Nat) (c : Cell) : Filling :=
  let t := f.1
  let d := { c with cls := cls, seq := t.txSeq }
  let t := { t with txSeq := (t.txSeq + 1) % 65536, queue := t.queue.erase c,
                    unacked := t.unacked ++ [⟨{ d with via := none }, fc, 0, false, false⟩] }
  (if cls = 0 then t else setCredit t (poolOf c) (creditOf t (poolOf c) - 1), f.2 ++ [(pos, d)])

/-- Send a cell again, unchanged apart from REPLAY (R488). -/
def putReplay (f : Filling) (pos : Nat) (u : SentCell) : Filling :=
  let c := { u.cell with replay := true }
  let us := f.1.unacked.map fun x => if x.cell.seq = u.cell.seq ∧ !x.acked then
    { x with cell := c, replays := x.replays + 1, wantReplay := false } else x
  ({ f.1 with unacked := us }, f.2 ++ [(pos, c)])

/-- The next control cell, in the order of R495. -/
def controlPick (m : FrameMode) (t : Port) : Option Cell :=
  minBy (fun c => c.vc) (t.queue.filter fun c => decide (4 ≤ c.vc) && !m.mute && (!m.ptpOnly || c.kind == 7))

/-- Whether a granted or spill cell may be sent: its pool has a credit and its destination does not get idle cells. -/
def mayGo (m : FrameMode) (t : Port) (c : Cell) : Bool :=
  decide (c.vc < 4) && decide (0 < creditOf t (poolOf c)) && !m.idle.contains c.dst

/-- The first cell of a class with the highest HOPS, then the oldest (R504). -/
def oldest (t : Port) (p : Cell → Bool) : Option Cell :=
  ([2, 1, 0].findSome? fun h => t.queue.find? fun c => c.hops == h && p c)

/-- The next spill cell (R504). -/
def spillPick (m : FrameMode) (t : Port) : Option Cell :=
  let rows := if m.copy then oldest t fun c => c.kind == 0x0C && mayGo m t c else none
  match rows with
  | some c => some c
  | none => [1, 0, 2, 3].findSome? fun v => oldest t fun c => c.vc == v && mayGo m t c

/-- Whether a cell that is asked for again may go: PTP alone where no other message does (R504, R521). -/
def mayReplay (m : FrameMode) (u : SentCell) : Bool := u.wantReplay && !m.mute && (!m.ptpOnly || u.cell.kind == 7)

/-- Fill a position open to spill: a replay, else a spill cell (R504). -/
def fillSpill (m : FrameMode) (fc pos : Nat) (f : Filling) (spill : Bool) : Filling :=
  match f.1.unacked.find? (mayReplay m) with
  | some u => putReplay f pos u
  | none =>
    if !spill then f else match spillPick m f.1 with
    | some c => putCell f fc pos 2 c
    | none => f

/-- The kinds that grants carry (R496). -/
def grantKind (k : Nat) : Bool := [1, 2, 3, 0xD, 0xE].contains k

/-- Fill one position. `grant` is the destination its unit is granted to. -/
def fillPos (m : FrameMode) (fc pos : Nat) (grant : Option Nat) (f : Filling) : Filling :=
  if pos < 64 then
    match controlPick m f.1 with
    | some c => putCell f fc pos 0 c
    | none => fillSpill m fc pos f (m.data && m.spill)
  else if m.ptpOnly || !m.slots then f
  else match grant with
  | some d =>
    if m.idle.contains d then f
    else match (if m.data then f.1.queue.find? fun c => decide (c.vc < 4) && grantKind c.kind && c.dst == d else none) with
    | some c => if mayGo m f.1 c then putCell f fc pos 1 c else fillSpill m fc pos f (m.data && m.spill)
    | none => fillSpill m fc pos f (m.data && m.spill)
  | none => fillSpill m fc pos f (m.data && m.spill)

/-- Whether a port has nothing to send. -/
def nothingToSend (t : Port) : Bool := t.queue.isEmpty && !t.unacked.any fun u => u.wantReplay

/-- Fill the positions from `pos` on, `n` of them (R491). -/
def fillFrame (m : FrameMode) (fc : Nat) (grant : Nat → Option Nat) : Nat → Nat → Filling → Filling
  | 0, _, f => f
  | n + 1, pos, f =>
    if nothingToSend f.1 then f
    else fillFrame m fc grant n (pos + 1)
      (fillPos m fc pos (if m.grants ∧ 64 ≤ pos ∧ pos < 1984 then grant ((pos - 64) / 64) else none) f)

/-- The marker's payload (R492). -/
def markerBytes (s : State) (p tick frame : Nat) : List Byte :=
  let t := portGet s p
  let ahead := (t.held.map fun c => (c.seq + 65536 - t.rxNext) % 65536).foldl max 0
  let naks := (((List.range ahead).filter fun i => !t.held.any fun c => c.seq == (t.rxNext + i) % 65536).map
    fun i => (t.rxNext + i) % 65536).take 8
  let grey := greyAt s (idxPort p)
  natLe 8 tick ++ natLe 2 frame ++ natLe 1 (2 * b2n (s.tim.state == .locked) + b2n grey) ++ natLe 1 naks.length ++
    natLe 2 ((t.rxNext + 65535) % 65536) ++ naks.flatMap (natLe 2) ++ List.replicate (16 - 2 * naks.length) 0 ++
    (List.range 12).flatMap (fun i => natLe 2 (mget (fun _ => 0) t.toReturn i)) ++ natLe 8 (rget s regTsqCfg) ++
    natLe 2 (p % 16 * 1024 + s.boot.dev % 1024) ++ List.replicate 120 0

/-- A marker cell. -/
def markerCell (s : State) (p tick frame : Nat) : Cell :=
  ⟨0x0F, true, true, 0, false, false, 0, s.boot.dev, fget s (regHwsPortState p) 17 8, 0, 0, markerBytes s p tick frame, 0, none⟩

/-! ### Lost links (R506, R520) -/

/-- A message's cells leave by another route with ALT set; a message without a route is discarded (R506, R520). -/
def moveCells (s : State) (cs : List Cell) : State :=
  match cs with
  | [] => s
  | c :: _ =>
    match routePort s c.dst true with
    | some (q, a) => queueCells s q (cs.map fun c => { c with alt := a, replay := false, seq := 0 })
    | none => dropMessage (cs.foldl returnVia (noRoute s)) c.src c.tag (c.src != s.boot.dev && !cs.any fun c => c.last)

/-- The messages of a list of cells, in order of their first cells. -/
def cellMessages (cs : List Cell) : List (Nat × Nat) := (cs.map fun c => (c.src, c.tag)).eraseDups

/-- Cells queued at a port that carries messages no longer leave by the other port of their route (R506, R520). -/
def rerouteQueue (s : State) (p : Nat) : State :=
  let t := portGet s p
  let go := t.queue.filter fun c => c.kind ≠ 7
  if go.isEmpty then s
  else
    let s := portPut s p { t with queue := t.queue.filter fun c => c.kind == 7 }
    (cellMessages go).foldl (fun s m => moveCells s (go.filter fun c => c.src == m.1 && c.tag == m.2)) s

/-- What a port's peer and port number are, as the PEER field of a marker has them. -/
def peerField (s : State) (p : Nat) : Nat :=
  fget s (regHwsPortState p) 17 8 + 1024 * fget s (regHwsPortState p) 21 18

/-- A link goes down: the port trains again, its grants lapse, unacknowledged messages are sent again whole and queued cells
leave by the other port, the barriers of the link break, and the BMCA chooses again (R519, R520). -/
def linkDown (s : State) (p : Nat) : State :=
  let t := portGet s p
  let s := event (bump1 s (regHwsDown p)) (regHwsPortEvents p) 1
  let s := report s 0x60 0 (unitCode s 6 p) (peerField s p)
  let s := setUnit s (idxPort p) .training 0
  let s := fset s (regHwsPortState p) 22 0 0
  let s := portPut s p { portReset with demand := t.demand, snapA := t.snapA, snapB := t.snapB, trainAt := s.now, toReturn := [] }
  let s := { s with hws := { s.hws with grants := s.hws.grants.filter fun g => g.1 / 960 ≠ p } }
  let kept := (t.unacked.map fun u => u.cell).filter fun c => c.kind ≠ 7
  let queue := t.queue.filter fun c => c.kind ≠ 7
  let lost := cellMessages ((t.unacked.filter fun u => !u.acked && u.cell.kind != 7).map fun u => u.cell)
  let s := (cellMessages (kept ++ queue)).foldl (fun s m =>
    let own := fun (c : Cell) => c.src == m.1 && c.tag == m.2
    if lost.contains m then moveCells s (kept.filter own ++ queue.filter own) else moveCells s (queue.filter own)) s
  let s := breakWhere s (fun b => b.def_.cross && (treePorts s b.def_).contains p) (unitCode s 6 p)
  ptpPortDown s p

/-! ### Sending frames -/

/-- A demand count that saturates at its field (R500). -/
def demandAdd (d : Demand) (g sp b : Nat) : Demand :=
  let cap := 2 ^ 32 - 1
  ⟨min cap (d.granted + g), min cap (d.spill + sp), min cap (d.backlog + b),
    d.sat || decide (cap ≤ d.granted + g) || decide (cap ≤ d.spill + sp) || decide (cap ≤ d.backlog + b)⟩

/-- A port's demand count for a destination. -/
def demandOf (t : Port) (d : Nat) : Demand := mget (fun _ => ⟨0, 0, 0, false⟩) t.demand d

/-- Add to a port's demand count for a destination. -/
def addDemand (t : Port) (d g sp b : Nat) : Port :=
  { t with demand := mset (fun _ => ⟨0, 0, 0, false⟩) t.demand d (demandAdd (demandOf t d) g sp b) }

/-- Cells kept: an unacknowledged one for 4 frames at most, an acknowledged one while its message is not acknowledged whole
(R488, R520). -/
def keepCells (t : Port) (fc : Nat) : List SentCell :=
  let us := t.unacked.filter fun u => u.acked || decide (fc ≤ u.frame + 4)
  us.filter fun u =>
    let own := fun (c : Cell) => c.src == u.cell.src && c.tag == u.cell.tag
    !(u.acked && (us.all fun x => !own x.cell || x.acked) && (us.any fun x => own x.cell && x.cell.last) && !t.queue.any own)

/-- One port sends frame k, which begins at `at_` and holds `n` cells; the window for the peer's marker of that frame opens, and a PTP cell is
timestamped as it leaves (R490-R499, R512). -/
def sendFrame (k at_ n : Nat) (s : State) (p : Nat) : State :=
  let st := rdyState s (idxPort p)
  let s := if st == .training || st == .absent || st == .fenced || portUp s p then s else rerouteQueue s p
  let t := portGet s p
  if st == .training || st == .absent || st == .fenced then portPut s p { t with frame := [], queue := [] }
  else
    let fc := s.hws.frameCount
    let locked := s.tim.state == .locked || !partitioned s
    let m : FrameMode := ⟨st == .testing && t.mismatch, !portUp s p, t.dataOk, locked, locked, s.hws.mismatched, decide (at_ < applyAt s),
      decide (applyAt s ≤ at_) && decide (at_ < cutAt s)⟩
    let mark := markerCell s p s.tsq.tick k
    let grants := s.hws.grants.filter fun g => g.1 / 30 = 32 * p + k % 32
    let t := { t with toReturn := [], unacked := keepCells t fc, windows := t.windows ++ [(s.tsq.tick, k)] }
    let f := fillFrame m fc (fun i => pfind grants (960 * p + 30 * (k % 32) + i)) (n - 1) 1 (t, [(0, mark)])
    let sent := f.2.drop 1
    let t := { f.1 with frame := f.2 }
    let t := sent.foldl (fun t c =>
      if applyAt s ≤ at_ + c.1 ∨ (c.2.cls = 0 ∧ !c.2.replay) then t
      else if c.2.cls = 1 ∧ !c.2.replay then addDemand t c.2.dst 1 0 0 else addDemand t c.2.dst 0 1 0) t
    let s := portPut s p t
    let count := fun (q : Cell → Bool) => (sent.filter fun c => q c.2).length
    let s := bump s (regHwsTxGranted p) (count fun c => c.cls == 1 && !c.replay)
    let s := bump s (regHwsTxSpill p) (count fun c => c.cls == 2 || c.replay)
    let s := bump s (regHwsTxControl p) (count fun c => c.cls == 0 && !c.replay)
    let s := bump s (regHwsReplay p) (count fun c => c.replay)
    let s := sent.foldl (fun s c => if c.2.replay then s else returnVia s c.2) s
    sent.foldl (fun s c => if c.2.kind = 7 ∧ !c.2.replay then ptpSent s p at_ c.1 c.2.payload else s) s

/-- SLOT_FRAME_START: the next slot frame of the tick that has not begun begins on every port; in the first one of a tick the
PLAN summaries go out (R490, R514). A frame's cells are settled at its start. -/
def execSlotFrameStart (s : State) : Out :=
  if !s.tsq.running then .next s
  else
    let first := s.tsq.tickStart + 2000
    let due := if s.now ≤ first then 0 else (s.now - first + 1999) / 2000
    let k := if s.hws.frameActive then max due (s.hws.frameNo + 1) else due
    let at_ := first + 2000 * k
    let end_ := s.tsq.tickStart + period s
    if end_ ≤ at_ then .next s
    else
      let s := advance s at_
      let s := if s.hws.frameActive then s else sendSummaries s
      let s := { s with hws := { s.hws with
        frameActive := true, frameNo := k, frameCount := s.hws.frameCount + 1
        delivered := s.hws.delivered.filter fun d => decide (s.hws.frameCount + 1 ≤ d.2.2 + 16) } }
      .next ((List.range 16).foldl (sendFrame k at_ (min 2000 (end_ - at_))) s)

/-! ### Receiving markers (R488, R492, R493, R519, R521) -/

/-- Whether SEQ `q` is covered by an ACK `a`. -/
def seqCovered (a q : Nat) : Bool := decide ((a + 65536 - q) % 65536 < 32768)

/-- Take ACK, NAK and CREDITS of a marker; the answer says whether a SEQ is missing after 3 replays, or is asked for when its cell is kept no more, so
that no replay can come (R488, R503; DESIGN CHOICE, log 27). -/
def takeAcks (t : Port) (b : List Byte) : Bool × Port :=
  let ack := fld b 0xC 2
  let naks := (List.range (min 8 (fld b 0xB 1))).map fun i => fld b (0xE + 2 * i) 2
  let us := t.unacked.map fun u => if seqCovered ack u.cell.seq then { u with acked := true, wantReplay := false } else u
  let gone := naks.any fun q => seqCovered ((t.txSeq + 65535) % 65536) q && !seqCovered ack q && !us.any fun u => u.cell.seq == q
  let bad := gone || us.any fun u => !u.acked && naks.contains u.cell.seq && decide (3 ≤ u.replays)
  let us := us.map fun u => if !u.acked && naks.contains u.cell.seq then { u with wantReplay := true } else u
  let t := (List.range 12).foldl (fun t i => setCredit t i (creditOf t i + fld b (0x1E + 2 * i) 2)) { t with unacked := us }
  (bad, t)

/-- The link delay that a port measures as it becomes READY: what the peer-delay messages have found since it trained, else a free value (R519; DESIGN
CHOICE, log 27). -/
def measureDelay (s : State) (p : Nat) : State :=
  let t := ptpGet s p
  if t.peerDelay.isSome then s
  else
    let (d, s) := draw s
    let v : Nat := Config.freeNat d % 2 ^ 31
    rset (ptpPut s p { t with peerDelay := some (Int.ofNat v) }) (regHwsPdelay p) v

/-- The marker check of TESTING: whether a marker's CFG and PEER differ from what the port expects (R519). -/
def markerDiffers (s : State) (p : Nat) (b : List Byte) : Bool :=
  fld b 0x36 8 != rget s regTsqCfg || (fget s (regHwsPortCfg p) 5 5 == 1 && fld b 0x3E 2 % 1024 != fget s (regHwsPortCfg p) 15 6)

/-- A port in the marker check passes it after 64 good markers in a row; `done` is what follows. One that differs carries no messages (R519). -/
def checkMarker (s : State) (p : Nat) (b : List Byte) (done : State → State) : State :=
  let t := portGet s p
  if markerDiffers s p b then
    let s := portPut s p { t with goodRun := 0, mismatch := true }
    report (event s (regHwsPortEvents p) 4) 0x61 0 (unitCode s 6 p) (fld b 0x36 8 + fld b 0x3E 2 * 2 ^ 64)
  else if t.goodRun + 1 < 64 then portPut s p { t with goodRun := t.goodRun + 1, mismatch := false }
  else done (portPut s p { t with goodRun := 0, mismatch := false })

/-- A port becomes READY: LINK_UP rises, and the BMCA chooses again (R519, R520, R529). -/
def portReady (s : State) (p : Nat) : State :=
  let s := portPut s p { portGet s p with missRun := 0, dataOk := false }
  bmca (event (setUnit s (idxPort p) .ready 0) (regHwsPortEvents p) 0)

/-- A port in TESTING becomes READY once it has passed the marker check and measured its link delay (R519). -/
def testMarker (s : State) (p : Nat) (b : List Byte) : State := checkMarker s p b fun s => portReady (measureDelay s p) p

/-- When the marker of a frame is due at a port: the frame's start plus the link delay (R493). -/
def markerDue (s : State) (p tick frame : Nat) : Nat := tickAt s tick + 2000 + 2000 * frame + rget s (regHwsPdelay p) / 4

/-- Whether a marker of a frame arrives now within that frame's window: from 1 µs before to 1 µs after it is due (R493). -/
def inWindow (s : State) (p tick frame : Nat) : Bool :=
  decide (markerDue s p tick frame ≤ s.now + 1000) && decide (s.now ≤ markerDue s p tick frame + 1000)

/-- A valid marker arrives at a port. A neighbour that has entered GREY breaks the barriers whose tree it stands in (11 R438; 15 R569). The last cell of
a VETO that it acknowledges, and with it the copy, is noted (02 R64). -/
def receiveMarker (s : State) (p : Nat) (b : List Byte) : State :=
  let st := rdyState s (idxPort p)
  if 16 ≤ p ∨ !(st == .testing || st == .ready || st == .grey) then s
  else
    let peer := fld b 0x3E 2
    let grey := bit (fld b 0xA 1) 0
    let was := greyRx s p
    let v := setBits (setBits (setBits (setBits (setBits (rget s (regHwsPortState p)) 22 22 1) 21 18 (peer / 1024)) 17 8 peer)
      5 5 (b2n grey)) 4 4 (b2n (bit (fld b 0xA 1) 1))
    let s := rset s (regHwsPortState p) v
    let s := if grey && !was then
        breakWhere (rerouteQueue (event s (regHwsPortEvents p) 3) p) (fun x => x.def_.cross && (treePorts s x.def_).contains p) (devCode peer)
      else s
    let done := ((portGet s p).unacked.filter fun u =>
      !u.acked && seqCovered (fld b 0xC 2) u.cell.seq && u.cell.last && u.cell.kind == 8 && u.cell.src == s.boot.dev).map (·.cell.tag)
    let s := { s with tsq := { s.tsq with vetoAcked := s.tsq.vetoAcked ++ done } }
    let (bad, t) := takeAcks (portGet s p) b
    let of_ := (fld b 0 8, fld b 8 2)
    let s := portPut s p (if inWindow s p of_.1 of_.2 && !t.seen.contains of_ then { t with seen := t.seen ++ [of_] } else t)
    let e := rdyGet s (idxPort p)
    if st == .testing then testMarker s p b
    else if st == .grey && e.released && !e.recovered then checkMarker s p b fun s => setRecovered s (idxPort p)
    else if st == .ready && bad then linkDown (event s (regHwsPortEvents p) 2) p
    else s

/-- Whether a port takes in what its link brings: it is trained (R519). -/
def portTakes (s : State) (p : Nat) : Bool :=
  let st := rdyState s (idxPort p)
  decide (p < 16) && (st == .testing || st == .ready || st == .grey)

/-- MARKER_RX: a marker cell whose CRC holds arrives (R492, R526). -/
def execMarkerRx (port : Nat) (body : List Byte) (s : State) : Out :=
  .next (if portTakes s port then receiveMarker (bump1 s (regHwsRxCells port)) port body else s)

/-- MARKER_WINDOW_CLOSE: the oldest window of a port closes, 1 µs after the start of its frame plus the link delay: that may be when later frames have
begun, or the next tick. The frame is missing where no valid marker of it has come (R493, R519). -/
def execMarkerWindowClose (port : Nat) (s : State) : Out :=
  match (portGet s port).windows with
  | [] => .next s
  | (n, k) :: later =>
    if !portTakes s port then .next s
    else
      let s := advance s (markerDue s port n k + 1000)
      let t := portGet s port
      let t' := { t with windows := later, seen := t.seen.filter fun f => decide (n < f.1 ∨ (f.1 = n ∧ k < f.2)) }
      if t.seen.contains (n, k) then .next (portPut s port { t' with missRun := 0 })
      else
        let s := portPut (bump1 s (regHwsMissed port)) port { t' with missRun := min 4 (t.missRun + 1), goodRun := 0 }
        .next (if rdyState s (idxPort port) == .ready && decide (4 ≤ t.missRun + 1) then linkDown s port else s)

/-! ### Receiving cells (R488, R489, R503, R506) -/

/-- Return the credit of a received cell that goes no further. -/
def freeCell (s : State) (p : Nat) (c : Cell) (vc : Nat) : State :=
  if vc < 4 then returnCredit s p (3 * vc + c.hops) else s

/-- The virtual channel of a cell: a first cell shows it, the others follow their message. -/
def cellVc (s : State) (c : Cell) : Nat × State :=
  let key := msgKey c.src c.tag
  if c.first then
    let v := vcOf c.kind c.payload
    (v, { s with hws := { s.hws with vcs := if c.last then pdel s.hws.vcs key else pput s.hws.vcs key v } })
  else
    let v := (pfind s.hws.vcs key).getD (vcOf c.kind c.payload)
    (v, if c.last then { s with hws := { s.hws with vcs := pdel s.hws.vcs key } } else s)

/-- Whether a cell belongs to a message that has been discarded here: its later cells go the same way, up to the last (R506). -/
def ofDropped (s : State) (c : Cell) : Bool := !c.first && s.hws.dropped.contains (msgKey c.src c.tag)

/-- A message that has been discarded is over with its last cell, or when its TAG begins another (R506). -/
def endDropped (s : State) (c : Cell) : State :=
  if c.first || c.last then { s with hws := { s.hws with dropped := s.hws.dropped.filter (· ≠ msgKey c.src c.tag) } } else s

/-- A cell for another device goes on: after 3 links, or without a route, it is discarded with its message, which counts once whichever of its cells
stops first (R506, R533). -/
def transit (s : State) (p : Nat) (c : Cell) : State :=
  let (vc, s) := cellVc s c
  if ofDropped s c then freeCell (endDropped s c) p c vc
  else
    let s := endDropped s c
    if 3 ≤ c.hops + 1 then freeCell (dropMessage (event (bump1 s regHwsHopDrop) regHwsEvents 2) c.src c.tag (!c.last)) p c vc
    else match routePort s c.dst c.alt with
    | some (q, a) => queueCells s q [{ c with hops := c.hops + 1, alt := a, replay := false, seq := 0, vc := vc, via := if vc < 4 then some p else none }]
    | none => freeCell (dropMessage (noRoute s) c.src c.tag (!c.last)) p c vc

/-- Give back every credit a message withheld. -/
def freeOwed (s : State) (owed : List (Nat × Nat)) : State := owed.foldl (fun s o => returnCredit s o.1 o.2) s

/-- A message is complete: dropped where its (SRC, TAG) was delivered in the last 16 slot frames, else handed to the message
layer (R489). -/
def completeMsg (s : State) (m : Reasm) : State :=
  if s.hws.delivered.any fun d => d.1 == m.src && d.2.1 == m.tag then freeOwed (bump1 s regHwsDupDrop) m.owed
  else
    { s with hws := { s.hws with
      delivered := s.hws.delivered ++ [(m.src, m.tag, s.hws.frameCount)]
      inbox := s.hws.inbox ++ [m] } }

/-- A cell for this device joins its message (R489). A PTP message is one cell, and PTP_MESSAGE_RX acts on it. -/
def assemble (s : State) (p : Nat) (c : Cell) : State :=
  if c.kind = 7 then s
  else
    let (vc, s) := cellVc s c
    let own := fun (a : Bool) (m : Reasm) => m.src == c.src && m.tag == c.tag && m.alt == a
    let alt := if s.hws.reasm.any (own c.alt) then c.alt else !c.alt
    let owed := if vc < 4 then [(p, 3 * vc + c.hops)] else []
    let found := if c.first then none else s.hws.reasm.find? (own alt)
    let drop := fun (s : State) (a : Bool) => { s with hws := { s.hws with reasm := s.hws.reasm.filter fun m => !own a m } }
    match found, c.first with
    | none, false => freeOwed s owed
    | none, true =>
      let old := s.hws.reasm.filter (own c.alt)
      let s := freeOwed (drop s c.alt) (old.flatMap fun m => m.owed)
      let m : Reasm := ⟨c.src, c.tag, c.kind, c.alt, c.payload, owed⟩
      if c.last then completeMsg s m else { s with hws := { s.hws with reasm := s.hws.reasm ++ [m] } }
    | some m, _ =>
      let m := { m with bytes := m.bytes ++ c.payload, owed := m.owed ++ owed }
      let s := drop s alt
      if c.last then completeMsg s m else { s with hws := { s.hws with reasm := s.hws.reasm ++ [m] } }

/-- Whether a kind is defined (R496). -/
def kindDefined (k : Nat) : Bool := decide (k ≤ 0x0F)

/-- A cell in its turn: for this device, or in transit. PTP is for the neighbour alone (R512). One of an undefined kind is discarded (R496), and so is any
that comes while the peer differs, when the port carries no messages (R519). -/
def deliverCell (p : Nat) (s : State) (c : Cell) : State :=
  if !kindDefined c.kind ∨ (rdyState s (idxPort p) = .testing ∧ (portGet s p).mismatch) then s
  else if c.dst = s.boot.dev ∨ c.kind = 7 then assemble s p c else transit s p c

/-- Deliver the cells held that follow in order (R488). -/
def drainHeld (p : Nat) : Nat → State → State
  | 0, s => s
  | n + 1, s =>
    let t := portGet s p
    match t.held.find? fun c => c.seq == t.rxNext with
    | none => s
    | some c =>
      drainHeld p n (deliverCell p (portPut s p { t with held := t.held.erase c, rxNext := (t.rxNext + 1) % 65536 }) c)

/-- A numbered cell takes its place in the sequence: it is delivered in its turn, held while one before it is missing, or one that came already (R488). -/
def takeNumbered (s : State) (p : Nat) (c : Cell) : State :=
  let t := portGet s p
  let d := (c.seq + 65536 - t.rxNext) % 65536
  if d = 0 then drainHeld p t.held.length (deliverCell p (portPut s p { t with rxNext := (t.rxNext + 1) % 65536 }) c)
  else if 32768 ≤ d ∨ (t.held.any fun x => x.seq == c.seq) then s
  else portPut s p { t with held := t.held ++ [c] }

/-- CELL_RX: a cell arrives at a port; `corr` symbols of it were corrected by the FEC, and `fec` says what the FEC could not correct. A cell of an
undefined kind has passed its CRC and takes its SEQ, but is discarded and counted (R488, R496, R526, R527). -/
def execCellRx (port : Nat) (raw : List Byte) (corr : Nat) (fec : FecReport) (s : State) : Out :=
  if !portTakes s port then .next s
  else
    let s := bump (bump s (regHwsFecCorr port) corr) (regHwsFecUncorr port) fec.fresh
    if fec.bad || !cellGood raw then .next (bump1 s (regHwsCrcErr port))
    else
      let c := parseCell raw
      let s := bump1 s (regHwsRxCells port)
      let s := if kindDefined c.kind then s else bump1 s (regHwsCrcErr port)
      if c.kind = 0 ∨ c.cls = 3 then .next s
      else if c.kind = 0x0F then .next (receiveMarker s port c.payload)
      else .next (takeNumbered s port c)

/-! ### Training (R519) -/

/-- PORT_TRAINED: the port sends markers, its credits stand at 512 in each pool, and both sequences start at 0 (R519); no port trains
without SERCLK (20 R746). -/
def execPortTrained (port : Nat) (s : State) : Out :=
  if 16 ≤ port ∨ rdyState s (idxPort port) ≠ .training ∨ !s.elec.serclk then .next s
  else
    let t := portGet s port
    let s := portPut s port { portReset with demand := t.demand, snapA := t.snapA, snapB := t.snapB, trainAt := t.trainAt }
    .next (setUnit s (idxPort port) .testing 0)

/-- TRAINING_TIMEOUT: a port not trained within 1 s trains again (R519). -/
def execTrainingTimeout (port : Nat) (s : State) : Out :=
  if 16 ≤ port ∨ rdyState s (idxPort port) ≠ .training then .next s
  else
    let s := advance s ((portGet s port).trainAt + 1000000000)
    .next (portPut s port { portGet s port with trainAt := s.now })

end Sys2Proof.Machine
end

