-- ==== Sys2Proof/Machine/Place.lean ====
section
/-! DEFINITION. Placement: the pools, MIGRATE and DIR_SWITCH items, row streams, relocation broadcasts, offers, hub roots and
the load snapshots (09; 13 R514, R515, R518). -/

namespace Sys2Proof.Machine

/-- Change the placement engine. -/
def plcMap (s : State) (f : PlcUnit → PlcUnit) : State := { s with plc := f s.plc }

/-- Change the tick's telemetry counts. -/
def mgmtMap (s : State) (f : MgmtUnit → MgmtUnit) : State := { s with mgmt := f s.mgmt }

/-! ### Pools (R344; 12 R467)

A channel's local window holds, from its top: the spare group, its part of the directory area where it has one, the replica pool, the relocation
pool; the tables lie below. The relocation pool takes more in the channels that hold no directory, so that the pools and the 64 MiB of directory
take the same from every channel (DESIGN CHOICE, log 30). -/

/-- A pool's part of one channel, in whole pages. -/
def poolPart (mib : Nat) : Nat := mib * 2 ^ 20 / 192 / 4096 * 4096
/-- Bytes of the replica pool in each channel. -/
def replLen (s : State) : Nat := poolPart (fget s regPlcPool 47 32)
/-- Offset of the replica pool in a channel's local window. -/
def replBase (s : State) (c : Nat) : Nat := localBytes s - (if dirChan c then 2 else 1) * 2 ^ 20 - replLen s
/-- Offset of the relocation pool in a local window: below it the tables lose the 64 MiB of the directory and both pool sizes, spread over the
channels alike (R344). -/
def relocBase (s : State) : Nat :=
  localBytes s - 2 ^ 20 - max (pageUp ((fget s regPlcPool 47 32 + fget s regPlcPool 63 48 + 64) * 2 ^ 20 / 192)) (replLen s + 2 ^ 20)
/-- Bytes of the relocation pool in a channel. -/
def relocLen (s : State) (c : Nat) : Nat := replBase s c - relocBase s

/-- Bytes rounded up to 32. -/
def up32 (n : Nat) : Nat := (n + 31) / 32 * 32

/-- Whether `n` bytes at an offset of a channel's local window lie outside its fenced groups (12 R467). -/
def unfenced (s : State) (c o n : Nat) : Bool :=
  let a := 2 ^ 31 - localBytes s + o
  (chanGet s c).fenced.all fun g => decide (a + n ≤ g * 2 ^ 20) || decide ((g + 1) * 2 ^ 20 ≤ a)

/-- The first place of `n` bytes in [lo, lo + len) of a channel's local window that is free, not fenced and aligned to `al` bytes. -/
def poolFit (s : State) (c lo len n al : Nat) : Option Nat :=
  let w := localAddr s c 0
  let used := (s.plc.pool.filter fun p => decide (w ≤ p.1) && decide (p.1 < w + localBytes s)).map fun p => (p.1 - w, p.2)
  let starts := lo :: (used.map fun p => p.1 + up32 p.2) ++
    ((chanGet s c).fenced.map fun g => (g + 1) * 2 ^ 20 - (2 ^ 31 - localBytes s))
  let ok := fun o => decide (lo ≤ o) && decide (o + n ≤ lo + len) && unfenced s c o n &&
    used.all fun p => decide (o + n ≤ p.1) || decide (p.1 + up32 p.2 ≤ o)
  ((sortBy (fun o => o) (starts.map fun o => (o + al - 1) / al * al)).find? ok).map (localAddr s c)

/-- A place of `n` bytes of a pool in a channel. -/
def poolPlace (s : State) (c : Nat) (repl : Bool) (n al : Nat) : Option Nat :=
  if repl then poolFit s c (replBase s c) (replLen s) n al else poolFit s c (relocBase s) (relocLen s c) n al

/-- Pool space is in use. -/
def poolPut (s : State) (a n : Nat) : State := plcMap s fun p => { p with pool := pput p.pool a n }

/-- Take `n` bytes of a pool in a channel (R355). -/
def poolTake (s : State) (c : Nat) (repl : Bool) (n al : Nat) : Option (Nat × State) :=
  (poolPlace s c repl n al).map fun a => (a, poolPut s a n)

/-- Give pool space back. -/
def poolFree (s : State) (a : Nat) : State := plcMap s fun p => { p with pool := pdel p.pool a }

/-! ### Counts -/

/-- The events of a counter: the event is set where the count has risen, which a saturated one does not (R381). -/
def eventIfRose (was s : State) (reg ev : Nat) : State :=
  if rget was reg % 2 ^ 31 = rget s reg % 2 ^ 31 then s else event s regPlcEvents ev

/-- A row claimed by an earlier item, or one that is replicated (R356). -/
def conflict (s : State) : State := eventIfRose s (bump1 s regPlcConflict) regPlcConflict 2

/-- The migration budget in bytes (R355). -/
def migBudget (s : State) : Nat := fget s regPlcCfg 31 20 * 2 ^ 20

/-- The budget stops a MIGRATE (R355). -/
def budgetCut (s : State) : State := eventIfRose s (bump1 s regPlcBudgetCut) regPlcBudgetCut 1

/-- Bytes that a MIGRATE has written or sent. -/
def spend (s : State) (n : Nat) : State :=
  mgmtMap (plcMap (bump s regPlcMigBytes n) fun p => { p with budget := p.budget + n }) fun m => { m with tickMigBytes := m.tickMigBytes + n }

/-- The limit of a directory (R342). -/
def dirRoom (s : State) : Bool := decide (s.plc.dir.length < 1048576)

/-- The directory limit stops a move (R381). -/
def dirFull (s : State) : State := event s regPlcEvents 3

/-! ### The items of an apply window -/

/-- The index of the first item carried over from the window before. -/
def carriedFrom : Nat := 131072

/-- The items of the window that closes the tick: those carried over, and the plan's (02 R58, R60). -/
def windowItems (s : State) : List (Nat × List Byte) :=
  (s.tsq.deferredItems.zipIdx.map fun d => (carriedFrom + d.2, d.1)) ++ planItems s.tsq.planActive

/-- The item of an index. -/
def windowItem (s : State) (i : Nat) : Option (List Byte) := pfind (windowItems s) i

/-- The DIR_SWITCH items of a window that name a MIGRATE. -/
def switchesOf (s : State) (i : Nat) : List (Nat × List Byte) :=
  (windowItems s).filter fun k => itemKind k.2 == 6 && fld k.2 4 4 == i && (fld k.2 1 1 == 0 || fld k.2 1 1 == 1 || fld k.2 1 1 == 2)

/-! ### The copy stage (R353-R357) -/

/-- Whether the channel of an address answers no reads: it went GREY by timeouts and has not been retrained since (12 R460, R474; DEDUCED, log 33). -/
def chanSilent (s : State) (a : Nat) : Bool :=
  match space a with
  | .hbm => (chanGet s (chanOf s a).1).silent
  | _ => false

/-- Whether a copy read fails: uncorrectable, of lost contents, or of a channel that no longer answers (R357). -/
def copyBad (s : State) (a n : Nat) : Bool := unitBad s a n || chanLost s a || chanSilent s a

/-- Whether the copy read of a row fails. In a LOST channel the copy stage is served, so that a row that has been restored there can be evacuated: its
mark has gone, unless the marks were exhausted and its table went GREY (12 R472, R474; 08 R324, R327). -/
def rowCopyBad (s : State) (id x a n : Nat) : Bool :=
  unitBad s a n || chanSilent s a || (chanLost s a && ((rowMark s id x).isSome || (tableGet s id).state == 3))

/-- Whether a row may not leave its device: one of a table with TRAIN or TASK_STAGE, or of a replicated table (R353). -/
def staysHere (s : State) (id : Nat) : Bool := let t := tableGet s id; t.train || t.taskStage || t.replicated

/-- Whether a row is pinned here: a load move never touches it (R370). -/
def pinnedLoad (s : State) (i : List Byte) (id x : Nat) : Bool := fld i 0xE 1 == 0 && (dirFind s id x 4).isSome

/-- What came of one row or fragment: nothing to do, copied, or the budget spent. -/
inductive Moved where
  | nothing | copied | cut
deriving DecidableEq, Repr

/-- Note a copy made in this window. -/
def noteCopy (s : State) (c : Copied) : State := plcMap s fun p => { p with copied := p.copied ++ [c], claimed := p.claimed ++ [(c.table, c.row)] }

/-- Where a row of a MIGRATE within the device goes: its hash home for HOME, where that is here, else space in the destination channel; none where
it is there already or nothing is free (R354, R355). -/
def localPlace (s : State) (i : List Byte) (id x old : Nat) : Option (Nat × State) :=
  let t := tableGet s id
  if fld i 0xE 1 = 3 then
    let (dev, c, idx) := hashHome s t id x
    let a := segAddr s t t.slot c idx false
    if dev ≠ s.boot.dev ∨ a = old then none else some (a, s)
  else if (chanOf s old).1 = fld i 0xD 1 then none
  else poolTake s (fld i 0xD 1) false t.stride 32

/-- Copy one row of a MIGRATE within the device (R355-R357). -/
def copyRow (k : Nat × List Byte) (s : State) (x : Nat) : Moved × State :=
  let i := k.2
  let id := fld i 2 2
  let t := tableGet s id
  let (dev, old) := rowPrimary s id x
  if t.rows ≤ x ∨ !readable s id ∨ dev ≠ s.boot.dev then (.nothing, s)
  else if s.plc.claimed.contains (id, x) ∨ (dirFind s id x 2).isSome then (.nothing, conflict s)
  else if pinnedLoad s i id x then (.nothing, s)
  else if migBudget s < s.plc.budget + t.stride then (.cut, s)
  else match localPlace s i id x old with
    | none => (.nothing, s)
    | some (a, s') =>
      if rowCopyBad s id x old t.stride then (.nothing, markRow (badRead s old t.stride) id x)
      else
        let s := countRowWrite (memWrite s' a (readBytes s old t.stride)) a id
        (.copied, noteCopy (spend s t.stride)
          ⟨k.1, 0, id, x, 0, a, s.boot.dev, [], fld i 0xE 1 == 3, old, t.stride, fld i 0xE 1, true, 0⟩)

/-- Read one row of a MIGRATE to another device for its row stream (R353, R355, R358; 13 R518). -/
def streamRow (k : Nat × List Byte) (s : State) (x : Nat) : Moved × State :=
  let i := k.2
  let id := fld i 2 2
  let t := tableGet s id
  let (dev, old) := rowPrimary s id x
  if t.rows ≤ x ∨ !readable s id ∨ dev ≠ s.boot.dev then (.nothing, s)
  else if s.plc.claimed.contains (id, x) ∨ (dirFind s id x 2).isSome then (.nothing, conflict s)
  else if staysHere s id ∨ pinnedLoad s i id x then (.nothing, s)
  else if migBudget s < s.plc.budget + t.stride then (.cut, s)
  else if rowCopyBad s id x old t.stride then (.nothing, markRow (badRead s old t.stride) id x)
  else
    let per := (65536 - 32) / (8 + max 1 t.stride)
    let n := (s.plc.copied.filter fun c => c.item == k.1).length
    let (_, c, idx) := hashHome s t id x
    let a := if fld i 0xE 1 = 3 then segAddr s t t.slot c idx false else fld i 0x10 6 + (x - fld i 8 5) * t.stride
    (.copied, noteCopy (spend s t.stride)
      ⟨k.1, 0, id, x, 0, a, fld i 6 2, [], fld i 0xE 1 == 3, old, t.stride, fld i 0xE 1, false, n / max 1 per⟩)

/-- End of a list in bytes: its blocks and its side sections (04 R143-R149). -/
def listEnd (s : State) (l : PList) : Nat :=
  let blocks := (List.range l.blocks).map fun b =>
    let o := readNat s (l.addr + 0x20 + 4 * b) 4
    o + 16 + (readNat s (l.addr + o + 6) 2 + 15) / 16 * 16
  let side := fun (k : Nat) (has : Bool) (n : Nat) => if has then l.offs.getD k 0 + n * l.degree else 0
  if l.hub then 0x20 + 32 * l.blocks
  else blocks.foldl max (max (max (0x20 + 4 * l.blocks) (side 0 l.hasW 1)) (max (side 1 l.hasT 2) (side 2 l.hasA 4)))

/-- The list at a device address and its bytes, where it reads. -/
def listAt (s : State) (a : Nat) : Option (PList × Nat) :=
  match readHeader s a with
  | .ok l => some (l, listEnd s l)
  | .error _ => none

/-- The device address of a global address of this device (00 R16). -/
def ownAddr (s : State) (g : Nat) : Option Nat := if bits g 63 54 = s.boot.dev then some (g % 2 ^ 48) else none

/-- The entry of a fragment in a registered hub root: its place there, and the fragment's address here (R365). -/
def fragEntry (s : State) (root f : Nat) : Option (Nat × Nat) :=
  match ownAddr s root with
  | none => none
  | some a =>
    if !(s.plc.hubs.any fun h => h.1 == a) then none
    else match listAt s a with
      | some (l, _) =>
        if !l.hub || decide (l.blocks ≤ f) then none
        else (ownAddr s (readNat s (a + 0x20 + 32 * f) 8)).map fun e => (a + 0x20 + 32 * f, e)
      | none => none

/-- The key of a moved fragment's home. -/
def fragKeyHome (root f : Nat) : Nat := root * 2 ^ 32 + f

/-- Copy a fragment, to pages of its own (R355, R365). HOME sends it back to where it lay before placement moved it. -/
def copyFragment (k : Nat × List Byte) (s : State) : Moved × State :=
  let i := k.2
  let root := fld i 0x10 8
  let f := fld i 0x18 4
  match fragEntry s root f with
  | none => (.nothing, s)
  | some (_, old) =>
    match listAt s old with
    | none => (.nothing, s)
    | some (_, n) =>
      if s.plc.copied.any fun c => c.target == 1 && c.root == root && c.row == f then (.nothing, conflict s)
      else if migBudget s < s.plc.budget + n then (.cut, s)
      else if copyBad s old n then (.nothing, badRead s old n)
      else
        let home := pfind s.plc.fragHome (fragKeyHome root f)
        let place := if fld i 0xE 1 = 3 then home.map fun a => (a, s)
          else if (chanOf s old).1 = fld i 0xD 1 then none else poolTake s (fld i 0xD 1) false (pageUp n) 4096
        match place with
        | none => (.nothing, s)
        | some (a, s) =>
          let s := memWrite s a (readBytes s old n)
          (.copied, plcMap (spend s n) fun p => { p with
            copied := p.copied ++ [⟨k.1, 1, 0, f, root, a, s.boot.dev, [], fld i 0xE 1 == 3, old, n, fld i 0xE 1, true, 0⟩] })

/-- Take a replica of a row on each named channel; none where one finds no space (R355, R362). -/
def takeReplicas (i : List Byte) (n primary : Nat) : List Nat → State → Option (List Nat × State)
  | [], s => some ([], s)
  | st :: r, s =>
    let ch := fld i (0x10 + st) 1
    if ch = 255 then (takeReplicas i n primary r s).map fun x => (primary :: x.1, x.2)
    else match poolTake s (16 * st + ch) true n 32 with
      | none => none
      | some (a, s) => (takeReplicas i n primary r s).map fun x => (a :: x.1, x.2)

/-- The replicated rows of this device. -/
def replRows (s : State) : Nat := (s.plc.dir.filter fun e => e.kind == 2).length

/-- The replica record of a row: the addresses of its copies in stack order (R362). -/
def replRecord (copies : List Nat) : List Byte := copies.flatMap (natLe 8) ++ natLe 32 0

/-- Make the eleven replicas of a row, and take the place of its replica record in the replica pool of the primary's channel (R355, R362; DESIGN
CHOICE, log 30). -/
def copyReplicas (k : Nat × List Byte) (s : State) : Moved × State :=
  let i := k.2
  let id := fld i 2 2
  let x := fld i 8 5
  let t := tableGet s id
  let (dev, old) := rowPrimary s id x
  let stack := (chanOf s old).1 / 16
  let named := (List.range 12).all fun st => (fld i (0x10 + st) 1 == 255) == (st == stack)
  let made := (s.plc.copied.filter fun c => c.target == 2).length
  let pinned : Bool := match dirFind s id x 4 with
    | some e => e.norepl
    | none => false
  if t.rows ≤ x ∨ !readable s id ∨ dev ≠ s.boot.dev then (.nothing, s)
  else if s.plc.claimed.contains (id, x) ∨ (dirFind s id x 2).isSome then (.nothing, conflict s)
  else if !named ∨ pinned then (.nothing, s)
  else if fget s regPlcCfg 16 0 ≤ replRows s + made then (.nothing, s)
  else if migBudget s < s.plc.budget + 11 * t.stride then (.cut, s)
  else match (takeReplicas i t.stride old (List.range 12) s).bind fun r =>
      (poolTake r.2 (chanOf s old).1 true 128 128).map fun q => (r.1, q.1, q.2) with
    | none => (.nothing, s)
    | some (copies, rec, s') =>
      if rowCopyBad s id x old t.stride then (.nothing, markRow (badRead s old t.stride) id x)
      else
        let b := readBytes s old t.stride
        let s := copies.foldl (fun s a => if a = old then s else countRowWrite (memWrite s a b) a id) s'
        (.copied, noteCopy (spend s (11 * t.stride)) ⟨k.1, 2, id, x, 0, rec, s.boot.dev, copies, false, old, t.stride, fld i 0xE 1, true, 0⟩)

/-- The destination units a MIGRATE names: the channels, or the device itself (01 R40). -/
def migTargets (s : State) (i : List Byte) : List Nat :=
  if fld i 1 1 = 2 then ((List.range 12).filter fun st => fld i (0x10 + st) 1 ≠ 255).map fun st => idxChan (16 * st + fld i (0x10 + st) 1)
  else if fld i 6 2 ≠ s.boot.dev then []
  else [idxChan (fld i 0xD 1)]

/-- The rows of a MIGRATE in turn: the rest of the copy stage's reach, and whether the item has ended (R355). -/
def copyRows (one : State → Nat → Moved × State) : List Nat → Nat → State → Nat × Bool × State
  | [], reach, s => (reach, true, s)
  | _ :: _, 0, s => (0, false, s)
  | x :: r, reach + 1, s =>
    match one s x with
    | (.nothing, s) => copyRows one r (reach + 1) s
    | (.copied, s) => copyRows one r reach s
    | (.cut, s) => (reach + 1, true, budgetCut s)

/-- Send the rows that a MIGRATE to another device has read, in messages as large as they may be (13 R518). -/
def streamItem (s : State) (k : Nat × List Byte) : State :=
  let cs := s.plc.copied.filter fun c => c.item == k.1 && !c.acked
  let ms := (cs.map fun c => c.msgSeq).eraseDups
  ms.foldl (fun s m =>
    let rows := cs.filter fun c => c.msgSeq == m
    let head := natLe 8 s.tsq.tick ++ natLe 4 k.1 ++ natLe 2 (fld k.2 2 2) ++ natLe 2 rows.length ++ natLe 5 (fld k.2 8 5) ++ natLe 1 0 ++
      natLe 2 0 ++ natLe 4 m ++ natLe 4 0
    post s 0x0C (fld k.2 6 2) (head ++ rows.flatMap fun c => natLe 8 c.row ++ readBytes s c.old c.size)) s

/-- Note a MIGRATE carried out, by its REASON (19 R725); one with REASON EVACUATE begins an evacuation (R368, R381). -/
def noteMig (s : State) (i : List Byte) : State :=
  let r := fld i 0xE 1
  mgmtMap (if r = 1 then event s regPlcEvents 0 else s) fun m => { m with tickMig := mset (fun _ => 0) m.tickMig r (mget (fun _ => 0) m.tickMig r + 1) }

/-- Carry out a MIGRATE item in the copy stage (R355): the rest of the stage's reach, and whether it has ended. One that brings rows here from
another device ends with their arrival, which the bulk cut-off looks at (R358). -/
def migrateItem (k : Nat × List Byte) (reach : Nat) (s : State) : Nat × Bool × State :=
  let i := k.2
  if !itemOk s i then (reach, true, skipItem s k)
  else if s.tsq.skip.contains k.1 then (reach, true, s)
  else match (migTargets s i).find? (greyAt s) with
    | some u =>
      let s := plcMap s fun p => { p with accepted := p.accepted.map fun a => if a.item = i then { a with refused := true } else a }
      (reach, true, skipGrey s k (rdyCode s u))
    | none =>
      let rows := (List.range (fld i 4 2)).map (fld i 8 5 + ·)
      let s := noteMig s i
      if fld i 1 1 = 0 then
        if fld i 6 2 ≠ s.boot.dev then
          let (n, e, s) := copyRows (streamRow k) rows reach s
          (n, e, streamItem s k)
        else if (acceptedFor s i).isSome then (reach, false, s)
        else copyRows (copyRow k) rows reach s
      else
        let r := if fld i 1 1 = 1 then copyFragment k s else copyReplicas k s
        if reach = 0 then (0, false, s)
        else match r with
          | (.cut, s) => (reach, true, budgetCut s)
          | (.nothing, s) => (reach, true, s)
          | (.copied, s) => (reach - 1, true, s)

/-! ### DIR_SWITCH (R360, R361, R365, R366) -/

/-- A row's entry: none at its hash home, else RELOC (R342, R354); the answer says whether the directory had room. -/
def relocPut (s : State) (id x dev a : Nat) : Bool × State :=
  let t := tableGet s id
  let (hd, hc, hi) := hashHome s t id x
  if dev = hd ∧ a = segAddr s t t.slot hc hi false then (true, dirDrop s id x 1)
  else if (dirFind s id x 1).isNone && !dirRoom s then (false, s)
  else (true, dirPut s ⟨id, x, 1, a, dev, 0, [], false⟩)

/-- Switch one copied row (R361): its entry, a FORWARD entry in place of a PIN at the old owner, its old pool space. -/
def switchRow (s : State) (c : Copied) : State :=
  let (ok, s) := relocPut s c.table c.row c.dev c.addr
  if !ok then (if c.dev = s.boot.dev ∧ !c.home then poolFree (dirFull s) c.addr else dirFull s)
  else
    let s := if c.dev ≠ s.boot.dev then
        (let s := dirDrop s c.table c.row 4
         if dirRoom s then dirPut s ⟨c.table, c.row, 3, 0, c.dev, 2, [], false⟩ else s) else s
    bump1 (poolFree s c.old) regPlcMigRows

/-- The pages of a hub root and its local fragments (R365). -/
def hubPages (s : State) (a : Nat) : List Nat :=
  match listAt s a with
  | none => [a / 4096]
  | some (l, n) =>
    let frags := (List.range l.blocks).filterMap fun f => ownAddr s (readNat s (a + 0x20 + 32 * f) 8)
    (pagesOf a n ++ frags.flatMap fun e => match listAt s e with
      | some (_, m) => pagesOf e m
      | none => [e / 4096]).eraseDups

/-- Register the protected pages of a hub root anew. -/
def hubRefresh (s : State) (a : Nat) : State :=
  let pages := hubPages s a
  plcMap s fun p => { p with hubs := p.hubs.map fun h => if h.1 = a then (a, pages) else h }

/-- Switch a copied fragment: the root's ADDR is rewritten; EDGE_BASE never changes (R365). -/
def switchFragment (s : State) (c : Copied) : State :=
  match fragEntry s c.root c.row with
  | none => poolFree s c.addr
  | some (e, old) =>
    let s := memWrite s e (natLe 8 (c.root / 2 ^ 48 * 2 ^ 48 + c.addr))
    let key := fragKeyHome c.root c.row
    let s := plcMap s fun p => { p with fragHome := if c.home then pdel p.fragHome key
      else if (pfind p.fragHome key).isSome then p.fragHome else pput p.fragHome key old }
    bump1 (hubRefresh (poolFree s old) (c.root % 2 ^ 48)) regPlcMigRows

/-- Install a replica set: its record is written, and the REPLICA entry points to it (R342, R362). -/
def switchReplicas (s : State) (c : Copied) : State :=
  if !dirRoom s then (c.addr :: c.copies.filter (· ≠ c.old)).foldl poolFree (dirFull s)
  else
    let s := memWrite (dirPut s ⟨c.table, c.row, 2, c.addr, s.boot.dev, 0, c.copies, false⟩) c.addr (replRecord c.copies)
    mgmtMap (bump1 s regPlcMigRows) fun m => { m with tickReplAdd := m.tickReplAdd + 1 }

/-- Drop a replica set, which claims the row for the window (R356, R361). -/
def dropReplicas (s : State) (id x : Nat) : State :=
  match dirFind s id x 2 with
  | none => s
  | some e =>
    let (_, a) := rowPrimary s id x
    let s := plcMap (dirDrop s id x 2) fun p => { p with claimed := p.claimed ++ [(id, x)] }
    mgmtMap ((e.addr :: e.copies.filter (· ≠ a)).foldl poolFree s) fun m => { m with tickReplDrop := m.tickReplDrop + 1 }

/-- Take a copy out of the window's list. -/
def doneCopy (s : State) (c : Copied) : State := plcMap s fun p => { p with copied := p.copied.erase c }

/-! #### Rows from other devices (R358; 13 R514, R518) -/

/-- Whether all parts of a broadcast have come. -/
def bcastWhole (b : Bcast) : Bool := (List.range b.parts).all b.got.contains

/-- Where a row of an accepted MIGRATE lies on this device: its hash home for HOME, else its place from the base (13 R518). -/
def acceptedAt (s : State) (a : Accepted) (x : Nat) : Nat :=
  if fld a.item 0xE 1 = 3 then
    let t := tableGet s a.table
    let (_, c, idx) := hashHome s t a.table x
    segAddr s t t.slot c idx false
  else a.base + (x - a.row) * a.stride

/-- Change an accepted MIGRATE. -/
def acceptedMod (s : State) (a : Accepted) (f : Accepted → Accepted) : State :=
  plcMap s fun p => { p with accepted := p.accepted.map fun x => if x.item = a.item then f x else x }

/-- NOREPL of the pinned range a row lies in, where it lies in one. -/
def pinOf (s : State) (id x : Nat) : Option Bool :=
  (s.plc.pins.find? fun p => p.1 == id && decide (p.2.1 ≤ x ∧ x < p.2.1 + p.2.2.1)).map (·.2.2.2)

/-- A row held here gets the PIN entry of its range (R342, R370). -/
def pinPut (s : State) (id x : Nat) : State :=
  match pinOf s id x with
  | none => s
  | some norepl =>
    if (dirFind s id x 4).isNone && !dirRoom s then s else dirPut s ⟨id, x, 4, 0, s.boot.dev, 0, [], norepl⟩

/-- The destination switches the rows that the source's broadcast lists, and no others (R358, R377). -/
def switchAccepted (s : State) (a : Accepted) (b : Bcast) : State :=
  let rows := (b.entries.filter fun e => e.1 == a.table && decide (a.row ≤ e.2.1 ∧ e.2.1 < a.row + a.count) && e.2.2.2 == s.boot.dev &&
    !a.taken.contains e.2.1).map (·.2.1)
  let s := rows.foldl (fun s x =>
    let r := relocPut s a.table x s.boot.dev (acceptedAt s a x)
    if r.1 then pinPut (bump1 (dirDrop r.2 a.table x 3) regPlcMigRows) a.table x else dirFull r.2) s
  acceptedMod s a fun x => { x with taken := x.taken ++ rows }

/-- The space given to rows of an accepted MIGRATE that were not switched is free again. -/
def freeAccepted (s : State) (a : Accepted) : State :=
  let s := if fld a.item 0xE 1 = 3 then s
    else ((List.range a.count).filter fun j => !a.taken.contains (a.row + j)).foldl (fun s j => poolFree s (a.base + j * a.stride)) s
  plcMap s fun p => { p with accepted := p.accepted.filter fun x => x.item ≠ a.item }

/-- The broadcast of a source for the window of this tick, where the whole of it has come. -/
def bcastNow (s : State) (src : Nat) : Option Bcast := s.plc.rx.find? fun b => b.src == src && b.tick == s.tsq.tick && bcastWhole b

/-- An accepted MIGRATE as it stands now. -/
def acceptedNow (s : State) (a : Accepted) : Accepted := (acceptedFor s a.item).getD a

/-- At the bulk cut-off a MIGRATE from another device has ended once all its rows have been received, or once a later window than its first has
brought none; else its remainder is deferred here as it is at the source (R358; DESIGN CHOICE, log 33). -/
def arrivalsDone (s : State) (i : List Byte) : Bool :=
  match acceptedFor s i with
  | none => false
  | some a => a.refused || a.cut || decide (a.count ≤ a.got.length) || (!a.fresh && decide (a.tick < s.tsq.tick))

/-- After the switch stage the accepted MIGRATEs of this window that go on in no later one close: the space of the rows not switched is freed, with
the source's broadcast if that is still to come (R358, R359; 13 R518). -/
def closeAccepted (s : State) (next : List (List Byte)) : State :=
  let s := (s.plc.accepted.filter fun a => decide (a.tick ≤ s.tsq.tick) && !next.contains a.item && a.closed.isNone).foldl (fun s a =>
    if (bcastNow s a.src).isSome then freeAccepted s (acceptedNow s a) else acceptedMod s a fun x => { x with closed := some s.tsq.tick }) s
  plcMap s fun p => { p with accepted := p.accepted.map fun a => { a with fresh := false } }

/-- The units a DIR_SWITCH names as destinations: those of its MIGRATE, or the cores (01 R40; R361). -/
def switchTargets (s : State) (i : List Byte) : List Nat :=
  let cores := fun (ls : List Nat) => (ls.filterMap (physOf s)).map idxCore
  match fld i 1 1 with
  | 3 => []
  | 4 => cores ((List.range (fld i 0xE 2)).map fun j => fld i (0x10 + 2 * j) 2)
  | 5 => cores [fld i 0x1C 2]
  | _ => match windowItem s (fld i 4 4) with
    | some m => migTargets s m
    | none => []

/-- Carry out a DIR_SWITCH item (R361). One whose destination has gone GREY since its MIGRATE is skipped, one that
takes in rows from another device too (01 R40; 02 R66). -/
def dirSwitchItem (s : State) (k : Nat × List Byte) : State :=
  let i := k.2
  if !itemOk s i then skipItem s k
  else if s.tsq.skip.contains k.1 then s
  else match (switchTargets s i).find? (greyAt s) with
  | some u => skipGrey s k (rdyCode s u)
  | none =>
    let cs := s.plc.copied.filter fun c => c.item == fld i 4 4 && c.target == fld i 1 1 && c.acked
    match fld i 1 1 with
    | 0 =>
      (match (windowItem s (fld i 4 4)).bind (acceptedFor s) with
       | some a => (match bcastNow s a.src with
         | some b => switchAccepted s a b
         | none => s)
       | none => cs.foldl (fun s c => switchRow (doneCopy s c) c) s)
    | 1 => cs.foldl (fun s c => switchFragment (doneCopy s c) c) s
    | 2 => cs.foldl (fun s c => switchReplicas (doneCopy s c) c) s
    | 3 =>
      if s.plc.claimed.contains (fld i 2 2, fld i 8 5) then conflict s else dropReplicas s (fld i 2 2) (fld i 8 5)
    | 4 =>
      plcMap s fun p => { p with affinity := (List.range (fld i 0xE 2)).foldl (fun m j =>
        mset (fun b => b % 256) m ((fld i 8 5 + j) % 4096) (fld i (0x10 + 2 * j) 2 % 256)) p.affinity }
    | _ =>
      match fragEntry s (fld i 0x10 8) (fld i 0x18 4) with
      | some (e, _) => memWrite s (e + 0xE) (natLe 2 (fld i 0x1C 2))
      | none => s

/-- FORWARD entries lose a tick of life; at 0 they go (R360). -/
def decayForwards (s : State) : State :=
  dirMap s fun d => (d.map fun e => if e.kind = 3 then { e with ttl := e.ttl - 1 } else e).filter fun e => e.kind ≠ 3 || decide (0 < e.ttl)

/-- Copies that no DIR_SWITCH took: their space is free again, the replica record's with it, and the window's claims end. -/
def dropCopies (s : State) : State :=
  let s := s.plc.copied.foldl (fun s c =>
    if c.dev ≠ s.boot.dev ∨ c.home then s
    else if c.target = 2 then (c.addr :: c.copies.filter (· ≠ c.old)).foldl poolFree s else poolFree s c.addr) s
  plcMap s fun p => { p with copied := [], claimed := [], budget := 0 }

/-! ### Relocation broadcasts (R358, R359; 13 R515) -/

/-- A RELOC_BCAST message of a part. -/
def bcastBytes (b : Bcast) (part : Nat) (entries : List (Nat × Nat × Nat × Nat)) (expired : Bool) : List Byte :=
  natLe 4 b.seq ++ natLe 2 part ++ natLe 2 b.parts ++ natLe 8 b.tick ++ natLe 4 entries.length ++ natLe 1 (b2n expired) ++ natLe 11 0 ++
    entries.flatMap fun (t, x, a, d) => natLe 5 x ++ natLe 1 1 ++ natLe 2 t ++ natLe 6 a ++ natLe 2 d

/-- Cut a broadcast's entries into parts of 4,094. -/
def bcastParts : Nat → List (Nat × Nat × Nat × Nat) → List (List (Nat × Nat × Nat × Nat))
  | 0, l => [l]
  | n + 1, l => if l.length ≤ 4094 then [l] else l.take 4094 :: bcastParts n (l.drop 4094)

/-- Send a broadcast to a device, over one route or both. -/
def sendBcast (s : State) (b : Bcast) (dev : Nat) (both : Bool) : State :=
  (bcastParts b.entries.length b.entries).zipIdx.foldl (fun s p =>
    let m := bcastBytes b p.2 p.1 false
    if both then postBoth s 0x09 dev m else post s 0x09 dev m) s

/-- The broadcast that ends a copy stage: the rows copied to other devices, to every device, over two routes (R358, R359). -/
def broadcast (s : State) : State :=
  if s.boot.devs < 2 then s
  else
    let rows := (s.plc.copied.filter fun c => c.dev ≠ s.boot.dev && c.acked).map fun c => (c.table, c.row, c.addr, c.dev)
    let b : Bcast := ⟨s.boot.dev, s.plc.bcastSeq, s.tsq.tick, (bcastParts rows.length rows).length, [], rows, 0⟩
    let s := plcMap s fun p => { p with bcastSeq := (p.bcastSeq + 1) % 2 ^ 32, sent := (p.sent ++ [b]).drop (p.sent.length + 1 - 16) }
    ((List.range s.boot.devs).filter (· ≠ s.boot.dev)).foldl (fun s d => sendBcast s b d true) s

/-- Whether a table has switched its version in the window of a tick or since: its switch undoes what that window moved (08 R305). -/
def switchedSince (s : State) (id tick : Nat) : Bool :=
  let t := tableGet s id
  t.state == 0 || (decide (tick ≤ t.switchTick) && t.switchTick != 0)

/-- The MIGRATEs that closed here without the source's broadcast take the rows it lists, unless their table has switched since; the space of the rest
is free again (R358; 08 R305). -/
def settleAccepted (s : State) (b : Bcast) : State :=
  (s.plc.accepted.filter fun a => a.src == b.src && a.closed == some b.tick).foldl (fun s a =>
    let s := if switchedSince s a.table b.tick || a.refused then s else switchAccepted s a b
    freeAccepted s (acceptedNow s a)) s

/-- Install a whole broadcast (R359). Its entries belong to the versions that were current in its window: those of a table switched since are
dropped (08 R305). -/
def installBcast (s : State) (b : Bcast) : State :=
  b.entries.foldl (fun s e =>
    if e.2.2.2 = s.boot.dev ∨ switchedSince s e.1 b.tick then s
    else (relocPut s e.1 e.2.1 e.2.2.2 e.2.2.1).2) (settleAccepted s b)

/-- At a switch stage the broadcasts received before this window are installed (R359). -/
def installBcasts (s : State) : State :=
  let due := s.plc.rx.filter fun b => bcastWhole b && decide (b.rxTick < s.tsq.tick)
  let s := due.foldl installBcast s
  plcMap s fun p => { p with rx := p.rx.filter fun b => !(bcastWhole b && decide (b.rxTick < s.tsq.tick)) }

/-- SEQ numbers missing between the last and a new one (R359). -/
def missingSeqs (last new : Nat) : List Nat :=
  let d := (new + 2 ^ 32 - last) % 2 ^ 32
  if d < 2 ∨ 2 ^ 31 ≤ d then [] else (List.range (min (d - 1) 16)).map fun i => (new + 2 ^ 32 - 1 - i) % 2 ^ 32

/-- RELOC_BCAST: a part of a broadcast arrives (13 R515). The source sends it at its bulk cut-off, so that it may reach the destination after its own:
the switch stage of the window goes on to the next T+0 and takes it (R358). -/
def execRelocBcast (src tag : Nat) (body : List Byte) (s : State) : Out :=
  powered s <|
  let s := takeMsg s src tag 0x09
  let seq := fld body 0 4
  let part := fld body 4 2
  let repair := s.plc.gaps.contains (src, seq)
  if bit (fld body 0x14 1) 0 then
    if repair then .next (event (plcMap s fun p => { p with gaps := p.gaps.filter (· ≠ (src, seq)) }) regPlcEvents 4) else .next s
  else
    let es := (List.range (fld body 0x10 4)).map fun i =>
      let o := 32 + 16 * i
      (fld body (o + 6) 2 % 4096, fld body o 5, fld body (o + 8) 6, fld body (o + 14) 2 % 1024)
    let now := if inApply s then s.tsq.tick else s.tsq.tick - 1
    let last := pfind s.plc.lastSeq src
    let newer := match last with
      | some l => decide (0 < (seq + 2 ^ 32 - l) % 2 ^ 32 ∧ (seq + 2 ^ 32 - l) % 2 ^ 32 < 2 ^ 31)
      | none => true
    let gaps := match last with
      | some l => (missingSeqs l seq).map fun q => (src, q)
      | none => []
    let open_ := s.plc.rx.any fun b => b.src == src && b.seq == seq
    if !newer && !repair && !open_ then .next s
    else
      let s := plcMap s fun p => { p with
        lastSeq := if newer then pput p.lastSeq src seq else p.lastSeq
        gaps := p.gaps ++ gaps.filter fun g => !p.gaps.contains g
        rx := if open_ then p.rx.map fun b => if b.src = src ∧ b.seq = seq ∧ !b.got.contains part then
                  { b with got := b.got ++ [part], entries := b.entries ++ es } else b
              else p.rx ++ [⟨src, seq, fld body 8 8, fld body 6 2, [part], es, now⟩] }
      match s.plc.rx.find? (fun b => b.src == src && b.seq == seq) with
      | none => .next s
      | some b =>
        if !bcastWhole b then .next s
        else
          let s := if repair then event (plcMap s fun p => { p with gaps := p.gaps.filter (· ≠ (src, seq)) }) regPlcEvents 4 else s
          .next (if inApply s && b.tick == s.tsq.tick then settleAccepted s b else s)

/-- At T+0 a receiver asks the sources for the broadcasts it misses, those with a missing part among them (R359). -/
def askGaps (s : State) : State :=
  let parts := (s.plc.rx.filter fun b => !bcastWhole b && decide (b.rxTick < s.tsq.tick)).map fun b => (b.src, b.seq)
  let s := plcMap s fun p => { p with gaps := p.gaps ++ parts.filter fun g => !p.gaps.contains g }
  s.plc.gaps.foldl (fun s g => post s 0x0A g.1 (natLe 4 g.2 ++ natLe 4 0)) s

/-- RELOC_QUERY: the source sends a broadcast again, to the asker alone, or one that says it has expired (13 R515). -/
def execRelocQuery (src tag : Nat) (body : List Byte) (s : State) : Out :=
  powered s <|
  let s := takeMsg s src tag 0x0A
  match s.plc.sent.find? (fun b => b.seq == fld body 0 4) with
  | some b => .next (sendBcast s b src false)
  | none => .next (post s 0x09 src (bcastBytes ⟨s.boot.dev, fld body 0 4, s.tsq.tick, 1, [], [], 0⟩ 0 [] true))

/-! ### Row streams (13 R518) -/

/-- The rows of a stream message are written in order until the budget stops them; what is written counts against this device's budget, and the
stop counts once for the item (R355, R376, R378). -/
def takeRows (s : State) (a : Accepted) (recs : List (List Byte)) : Nat × State :=
  let room := (migBudget s - s.plc.budget) / max 1 a.stride
  let done := if a.cut then [] else recs.take room
  let s := done.foldl (fun s r =>
    let at_ := acceptedAt s a (fld r 0 5)
    countRowWrite (memWrite (spend s a.stride) at_ (r.drop 8)) at_ a.table) s
  let s := if !a.cut && decide (done.length < recs.length) then budgetCut (acceptedMod s a fun x => { x with cut := true }) else s
  let xs := done.map fun r => fld r 0 5
  (done.length, acceptedMod s a fun x => { x with got := x.got ++ xs.filter fun y => !x.got.contains y, fresh := x.fresh || !xs.isEmpty })

/-- ROW_STREAM: the destination writes the rows of an accepted MIGRATE, as its budget allows, and acknowledges the message. A channel that has gone
GREY takes none: the item is skipped here and reported (13 R518; R355, R358; 01 R40). -/
def execRowStream (src tag : Nat) (body : List Byte) (s : State) : Out :=
  let s := takeMsg s src tag 0x0C
  let id := fld body 0xC 2
  match s.plc.accepted.find? (fun a => a.src == src && a.table == id && a.row == fld body 0x10 5 && decide (a.tick ≤ s.tsq.tick)) with
  | none => .next s
  | some a =>
    let k := (windowItems s).find? fun k => k.2 == a.item
    if !inApply s || fld body 0 8 != s.tsq.tick || k.any (fun k => s.tsq.skip.contains k.1) then .next s
    else
      let recs := (List.range (fld body 0xE 2)).map fun i => (body.drop (32 + (8 + a.stride) * i)).take (8 + a.stride)
      let recs := recs.filter fun r => decide (a.row ≤ fld r 0 5 ∧ fld r 0 5 < a.row + a.count) && !a.taken.contains (fld r 0 5)
      let u := idxChan (fld a.item 0xD 1)
      let (n, s) := if a.refused then (0, s)
        else if greyAt s u then (0, skipGrey (acceptedMod s a fun x => { x with refused := true }) (k.getD (0, a.item)) (rdyCode s u))
        else takeRows s a recs
      .next (post s 0x0C src (body.take 0xE ++ natLe 2 0 ++ natLe 5 a.row ++ natLe 1 1 ++ natLe 2 0 ++ natLe 4 (fld body 0x18 4) ++ natLe 4 n))

/-- ROW_STREAM_ACK: the rows of an acknowledged message count as copied, if the acknowledgement comes by the bulk cut-off
(13 R518). -/
def execRowStreamAck (src tag : Nat) (body : List Byte) (s : State) : Out :=
  let s := takeMsg s src tag 0x0C
  if !inApply s || s.tsq.stage == 3 || fld body 0 8 != s.tsq.tick then .next s
  else
    let hit := (s.plc.copied.filter fun c => c.item == fld body 8 4 && c.msgSeq == fld body 0x18 4 && c.dev == src).take (fld body 0x1C 4)
    .next (plcMap s fun p => { p with copied := p.copied.map fun c => if hit.contains c then { c with acked := true } else c })

/-! ### Offers (R358; 13 R514) -/

/-- The destination accepts an offered MIGRATE if its pool and its budget for that tick allow: the item with its base (R353, R358; 13 R514). -/
def acceptOne (s : State) (src tick : Nat) (i : List Byte) : Option (List Byte × State) :=
  let id := fld i 2 2
  let t := tableGet s id
  let n := fld i 4 2 * t.stride
  let given := (s.plc.accepted.filter fun a => a.tick == tick).foldl (fun n a => n + a.count * a.stride) 0
  if itemKind i ≠ 5 ∨ fld i 1 1 ≠ 0 ∨ fld i 6 2 ≠ s.boot.dev ∨ !readable s id ∨ n = 0 ∨ 192 ≤ fld i 0xD 1 ∨ staysHere s id ∨ migBudget s < given + n ∨
      t.rows < fld i 8 5 + fld i 4 2 ∨ greyAt s (idxChan (fld i 0xD 1)) then none
  else
    let place := if fld i 0xE 1 = 3 then some (0, s)
      else (poolPlace s (fld i 0xD 1) false n 32).map fun a =>
        (a, (List.range (fld i 4 2)).foldl (fun s j => poolPut s (a + j * t.stride) t.stride) s)
    match place with
    | none => none
    | some (a, s) =>
      let item := i.take 0x10 ++ natLe 6 a ++ natLe 10 0
      let acc : Accepted := ⟨src, tick, id, fld i 8 5, fld i 4 2, a, t.stride, item, [], [], false, false, false, none⟩
      some (item, plcMap s fun p => { p with accepted := p.accepted ++ [acc] })

/-- The entries of a SUMMARY message. -/
def summaryItems (body : List Byte) : List (List Byte) := (List.range (fld body 2 2)).map fun i => (body.drop (32 + 32 * i)).take 32

/-- Accept the entries of an offer in order: those accepted, with their positions in the offer. -/
def acceptAll (src tick : Nat) : List (List Byte × Nat) → List (Nat × List Byte) → State → List (Nat × List Byte) × State
  | [], acc, s => (acc, s)
  | (i, pos) :: r, acc, s =>
    if itemKind i = 6 then
      match acc.findIdx? (fun a => a.1 == fld i 4 4) with
      | some q => if fld i 1 1 = 0 then acceptAll src tick r (acc ++ [(pos, i.take 4 ++ natLe 4 q ++ i.drop 8)]) s else acceptAll src tick r acc s
      | none => acceptAll src tick r acc s
    else match acceptOne s src tick i with
      | some (item, s) => acceptAll src tick r (acc ++ [(pos, item)]) s
      | none => acceptAll src tick r acc s

/-- Items that control firmware is to put into a plan. -/
def planLater (s : State) (items : List (List Byte)) : State := { s with emb := { s.emb with planned := s.emb.planned ++ items } }

/-- SUMMARY_OFFER_RX (13 R514). -/
def execSummaryOfferRx (src tag : Nat) (body : List Byte) (s : State) : Out :=
  powered s <|
  let s := noteCfg (takeMsg s src tag 0x08) src (fld body 0x10 8)
  let tick := fld body 8 8
  let (acc, s) := acceptAll src tick (summaryItems body).zipIdx [] s
  let es := acc.map (·.2)
  .next (planLater (post s 0x08 src (summaryBytes s 4 tick es [])) es)

/-- SUMMARY_ACCEPT_RX: what the destination accepted is for control firmware to plan (R358; 13 R514). -/
def execSummaryAcceptRx (src tag : Nat) (body : List Byte) (s : State) : Out :=
  powered s <|
  .next (planLater (noteCfg (takeMsg s src tag 0x08) src (fld body 0x10 8)) (summaryItems body))

/-- At the apply point of the tick an offer was for, space that no sealed plan names is freed (13 R514). -/
def freeOffers (s : State) : State :=
  let items := windowItems s
  (s.plc.accepted.filter fun a => decide (a.tick ≤ s.tsq.tick) && a.closed.isNone && !items.any fun k => k.2 == a.item).foldl freeAccepted s

/-! ### Hub roots and pins at a switch stage (R365, R370) -/

/-- A MIGRATE of rows (R354). -/
def rowsMigrate (id count dev first ch reason : Nat) : List Byte :=
  natLe 1 5 ++ natLe 1 0 ++ natLe 2 id ++ natLe 2 count ++ natLe 2 dev ++ natLe 5 first ++ natLe 1 ch ++ natLe 1 reason ++ natLe 17 0

/-- A MIGRATE of a hub's fragment back home (R354). -/
def fragMigrate (dev root f ch : Nat) : List Byte :=
  natLe 1 5 ++ natLe 1 1 ++ natLe 2 0 ++ natLe 2 1 ++ natLe 2 dev ++ natLe 5 0 ++ natLe 1 ch ++ natLe 1 3 ++ natLe 1 0 ++ natLe 8 root ++
    natLe 4 f ++ natLe 4 0

/-- The DIR_SWITCH that goes with a MIGRATE; its REF is the MIGRATE's place among the items planned together (R361). -/
def switchFor (target id : Nat) : List Byte := natLe 1 6 ++ natLe 1 target ++ natLe 2 id ++ natLe 28 0

/-- Rows in order, each with the device and channel it goes to, cut into runs of consecutive rows with one destination, of at most 4,096. -/
def moveRuns : List (Nat × Nat × Nat) → List (Nat × Nat × Nat × Nat)
  | [] => []
  | (x, dev, ch) :: r => match moveRuns r with
    | (y, n, d, c) :: t => if y = x + 1 ∧ d = dev ∧ c = ch ∧ n < 4096 then (x, n + 1, d, c) :: t else (x, 1, dev, ch) :: (y, n, d, c) :: t
    | [] => [(x, 1, dev, ch)]

/-- Where a pin sends a row held here, where it does not stand there yet: the device named or that of the hash home, and the channel named, any
being the row's own within this device and the hash home's on another (R370; DESIGN CHOICE, log 33). -/
def pinMove (s : State) (id dev ch x : Nat) : Option (Nat × Nat × Nat) :=
  let (here, a) := rowPrimary s id x
  let (hd, hc, _) := hashHome s (tableGet s id) id x
  let d := if dev = 0xFFFF then hd else dev
  if here ≠ s.boot.dev ∨ x ≥ (tableGet s id).rows then none
  else if d = s.boot.dev ∧ (ch = 0xFF ∨ (chanOf s a).1 = ch) then none
  else some (x, d, if ch = 0xFF then hc else ch)

/-- The moves with REASON PIN that a pin asks for are control firmware's to plan (R370). -/
def planPin (s : State) (id first count dev ch : Nat) : State :=
  let moves := moveRuns ((List.range count).filterMap fun j => pinMove s id dev ch (first + j))
  planLater s (moves.flatMap fun m => [rowsMigrate id m.2.1 m.2.2.1 m.1 m.2.2.2 2, switchFor 0 id])

/-- The fragments of a hub root that placement has moved go home with REASON HOME before the root is unregistered (R370). -/
def planHome (s : State) (a : Nat) : State :=
  let away := s.plc.fragHome.filter fun f => f.1 / 2 ^ 32 % 2 ^ 48 == a
  planLater s (away.flatMap fun f => [fragMigrate s.boot.dev (f.1 / 2 ^ 32) (f.1 % 2 ^ 32) (chanOf s f.2).1, switchFor 1 0])

/-- A range of rows taken out of the pinned ranges. -/
def unpinRange (ps : List (Nat × Nat × Nat × Bool)) (id first count : Nat) : List (Nat × Nat × Nat × Bool) :=
  ps.flatMap fun p =>
    let stop := p.2.1 + p.2.2.1
    if p.1 ≠ id ∨ stop ≤ first ∨ first + count ≤ p.2.1 then [p]
    else (if p.2.1 < first then [(id, p.2.1, first - p.2.1, p.2.2.2)] else []) ++
      (if first + count < stop then [(id, first + count, stop - (first + count), p.2.2.2)] else [])

/-- The device number that marks an unpinning among the pin requests. -/
def unpinDev : Nat := 65536

/-- One pin or unpin operation takes effect: its rows held here get or lose their PIN entries, and a pin's moves are planned; a row that comes here
later gets its entry then (R370). -/
def pinSwitch (s : State) (r : Nat × Nat × Nat × Nat × Nat × Bool) : State :=
  let (id, first, count, dev, ch, norepl) := r
  let ps := unpinRange s.plc.pins id first count
  if dev = unpinDev then
    (List.range count).foldl (fun s j => dirDrop s id (first + j) 4) (plcMap s fun p => { p with pins := ps })
  else
    let s := plcMap s fun p => { p with pins := ps ++ [(id, first, count, norepl)] }
    let s := (List.range count).foldl (fun s j => if (rowPrimary s id (first + j)).1 = s.boot.dev then pinPut s id (first + j) else s) s
    planPin s id first count dev ch

/-- Hub roots are registered, or unregistered once their fragments are home; pins take effect (R365, R370). -/
def placementSwitch (s : State) : State :=
  let s := s.plc.hubAdd.foldl (fun s a => plcMap s fun p => { p with hubs := p.hubs ++ [(a, hubPages s a)] }) s
  let away := fun (s : State) (a : Nat) => s.plc.fragHome.any fun f => f.1 / 2 ^ 32 % 2 ^ 48 == a
  let gone := s.plc.hubDrop.filter fun a => !away s a
  let s := plcMap s fun p => { p with
    hubAdd := [], hubDrop := p.hubDrop.filter fun a => !gone.contains a, hubs := p.hubs.filter fun h => !gone.contains h.1 }
  let pins := s.plc.pinReqs
  pins.foldl pinSwitch (plcMap s fun p => { p with pinReqs := [] })

/-! ### Snapshots (R347-R351) -/

/-- OCC of a channel for the tick: a free value of at most 10,000 (R347). -/
def occupancy (s : State) : Nat × State :=
  let (n, s) := draw s
  (Config.freeNat n % 10001, s)

/-- At the apply point the counts go into the other snapshot buffer and start again (R349, R350). -/
def snapshot (s : State) : State :=
  let busy := s.plc.chanCounts.filter fun c => decide (0 < c.2.sectors)
  let (cs, s) := busy.foldl (fun (acc : List (Nat × ChanCount) × State) c =>
    let (o, s) := occupancy acc.2
    (mset (fun _ => countReset) acc.1 c.1 { c.2 with occ := o }, s)) (s.plc.chanCounts, s)
  let flags := (List.range 192).foldl (fun m c =>
    let f := (if greyAt s (idxChan c) then 2 else 0) + (if (chanGet s c).fenced.isEmpty then 0 else 4)
    mset (fun _ => 0) m c f) []
  let cap := 1168 * ((period s - applyLen s) / 1000)
  let snap : Snapshot := ⟨s.tsq.tick, cap, cs, s.plc.cands, s.plc.tableCounts, flags⟩
  let buf := 1 - fget s regPlcSnap 63 63
  let s := plcMap s fun p => { p with
    snapA := if buf = 0 then snap else p.snapA, snapB := if buf = 1 then snap else p.snapB
    chanCounts := [], tableCounts := [], sketch := [], cands := [] }
  rset s regPlcSnap (buf * 2 ^ 63 + s.tsq.tick % 2 ^ 63)

/-- At the apply point each port's demand counts go into its other snapshot buffer (13 R500). -/
def demandSnapshots (s : State) : State :=
  (List.range 16).foldl (fun s p =>
    let t := portGet s p
    let buf := 1 - fget s (regHwsDemandSnap p) 63 63
    let s := portPut s p { t with snapA := if buf = 0 then t.demand else t.snapA, snapB := if buf = 1 then t.demand else t.snapB, demand := [] }
    rset s (regHwsDemandSnap p) (buf * 2 ^ 63 + s.tsq.tick % 2 ^ 63)) s

/-- BACKLOG: at the settle point each port counts the cells queued for each destination (13 R500). -/
def countBacklog (s : State) : State :=
  (List.range 16).foldl (fun s p =>
    let t := portGet s p
    portPut s p (t.queue.foldl (fun t c => if c.vc < 4 then addDemand t c.dst 0 0 1 else t) t)) s

end Sys2Proof.Machine
end

