-- ==== Sys2Proof/Machine/Rules.lean ====
section
/-! DEFINITION. The arithmetic of the Rugon die: the elementwise, layer and row rules, the preconditioning roots, and the
conversion of slices (14 R549-R555, R559; 07 R269, R272, R286). -/

namespace Sys2Proof.Machine

/-! ### FP32 sums and powers (07 R269, R286) -/

/-- A value rounded to FP32. -/
def rndF (x : Fp) : Fp := unF (roundF x).1

/-- Additions of FP32 down to one value, two entries at a time. Which two, and whether a product that enters is rounded first or fused with its
addition, are read off the free number (07 R269, R286). -/
def sumFold : Nat → Nat → List Fp → Fp
  | k + 1, pick, a :: b :: r =>
    let l := a :: b :: r
    let n := l.length
    let x := l.getD (pick % n) a
    let l := l.eraseIdx (pick % n)
    let j := pick / n % (n - 1)
    let y := l.getD j b
    let pick := pick / (n * (n - 1))
    let x := if pick % 2 = 0 then x else rndF x
    sumFold k (pick / 2) (rndF (exAdd x (rndF y)).1 :: l.eraseIdx j)
  | _, _, l => match l with
    | [] => .fin false 0 0
    | x :: _ => rndF x

/-- A term as the free choice of an order sees it: significand and exponent. -/
def termOf : Fp → Int × Int
  | .fin s m e => (sgn s m, e)
  | .inf s => (sgn s 1, 2 ^ 16)
  | .nan => (0, 2 ^ 16)

/-- A sum of FP32 values and products in FP32: every operation is rounded to nearest even, a fused one once; the order of the additions is left
open (07 R269, R286; log 23). -/
def sumTerms (ts : List Fp) : Nat := (roundF (sumFold ts.length (Config.sumPick (ts.map termOf)) ts)).1

/-- Sum, difference, product and quotient as patterns. -/
def fAdd (a b : Nat) : Nat := (addF a b).1
/-- Difference. -/
def fSub (a b : Nat) : Nat := (subF a b).1
/-- Product. -/
def fMul (a b : Nat) : Nat := (mulF a b).1
/-- Quotient. -/
def fDiv (a b : Nat) : Nat := (divF a b).1
/-- Square root. -/
def fSqrt (a : Nat) : Nat := (sqrtF a).1
/-- 1.0. -/
def oneF : Nat := 0x3F800000
/-- An integer in FP32. -/
def fInt (i : Int) : Nat := (roundF (ofInt i)).1

/-- a^t, rounded once (07 R269). -/
def fPow (a t : Nat) : Nat :=
  match unF a with
  | .nan => nanF
  | .inf s => if t = 0 then oneF else (roundF (.inf (s && t % 2 == 1))).1
  | .fin s m e => (roundF (.fin (s && t % 2 == 1) (m ^ t) (e * t))).1

/-- a^(1/4) of a value that is not negative, rounded once; NaN for a negative one. -/
def fRoot4 (a : Nat) : Nat :=
  match unF a with
  | .nan => nanF
  | .inf s => if s then nanF else a
  | .fin s m e =>
    if m = 0 then 0
    else if s then nanF
    else
      let k := (e % 4).toNat
      let x := m * 2 ^ k * 2 ^ 256
      let r := isqrt (isqrt x)
      (roundF (.fin false (2 * r + (if r * r * r * r = x then 0 else 1)) ((e - k) / 4 - 64 - 1))).1

/-- a^(−1/4) of a positive value, rounded once; 0 for a value that is not above 0, and a NaN for a NaN (R553). -/
def fInvRoot4 (a : Nat) : Nat :=
  match unF a with
  | .fin false m e =>
    if m = 0 then 0
    else
      let k := (e % 4).toNat
      let n := m * 2 ^ k
      let x := 2 ^ 512 / n
      let r := isqrt (isqrt x)
      (roundF (.fin false (2 * r + (if r * r * r * r * n = 2 ^ 512 then 0 else 1)) (-((e - k) / 4) - 128 - 1))).1
  | .nan => nanF
  | _ => 0

/-- Whether a pattern is finite. -/
def finF (a : Nat) : Bool := bits a 30 23 ≠ 255

/-! ### Elementwise rules (R550) -/

/-- The fields of a rule block (R549). -/
def rbRule (r : RuleBlock) : Nat := fld r 0 1
/-- GRAFT. -/
def rbGraft (r : RuleBlock) : Nat := fld r 1 1
/-- LR. -/
def rbLr (r : RuleBlock) : Nat := fld r 4 4
/-- WD. -/
def rbWd (r : RuleBlock) : Nat := fld r 8 4
/-- B1. -/
def rbB1 (r : RuleBlock) : Nat := fld r 0xC 4
/-- B2. -/
def rbB2 (r : RuleBlock) : Nat := fld r 0x10 4
/-- EPS. -/
def rbEps (r : RuleBlock) : Nat := fld r 0x14 4
/-- BETA. -/
def rbBeta (r : RuleBlock) : Nat := fld r 0x18 4
/-- DAMP. -/
def rbDamp (r : RuleBlock) : Nat := fld r 0x1C 4
/-- ROOT_EVERY. -/
def rbEvery (r : RuleBlock) : Nat := fld r 0x20 4
/-- ROOT_ITERS. -/
def rbIters (r : RuleBlock) : Nat := fld r 0x24 2
/-- ROOT_TOL. -/
def rbTol (r : RuleBlock) : Nat := fld r 0x28 4
/-- RING_RECS. -/
def rbRecs (r : RuleBlock) : Nat := fld r 0x30 4
/-- RING_HITCH. -/
def rbHitch (r : RuleBlock) : Nat := fld r 0x3A 2

/-- The rule an elementwise state belongs to: the rule itself, or its GRAFT under LAYER (R551). -/
def elemRule (r : RuleBlock) : Nat := if rbRule r = 4 then rbGraft r else rbRule r

/-- w − step − lr·wd·w. -/
def decayed (r : RuleBlock) (w step : Nat) : Nat := fSub (fSub w step) (fMul (fMul (rbLr r) (rbWd r)) w)

/-- The states of an element after a gradient: momentum or accumulator, and second moment (R550). -/
def elemState (r : RuleBlock) (g a b : Nat) : Nat × Nat :=
  match elemRule r with
  | 1 => (fAdd (fMul (rbB1 r) a) g, 0)
  | 2 => (fAdd a (fMul g g), 0)
  | _ => (fAdd (fMul (rbB1 r) a) (fMul (fSub oneF (rbB1 r)) g), fAdd (fMul (rbB2 r) b) (fMul (fMul (fSub oneF (rbB2 r)) g) g))

/-- The direction of a rule, from the new states (R550, R551). -/
def elemDir (r : RuleBlock) (t g a b : Nat) : Nat :=
  match elemRule r with
  | 1 => a
  | 2 => fDiv g (fAdd (fSqrt a) (rbEps r))
  | _ => fDiv (fDiv a (fSub oneF (fPow (rbB1 r) t))) (fAdd (fSqrt (fDiv b (fSub oneF (fPow (rbB2 r) t)))) (rbEps r))

/-- An elementwise rule on one element: master and states (R550). -/
def elemStep (r : RuleBlock) (t w g a b : Nat) : Nat × Nat × Nat :=
  let (a, b) := elemState r g a b
  let step := if elemRule r = 2 then fDiv (fMul (rbLr r) g) (fAdd (fSqrt a) (rbEps r)) else fMul (rbLr r) (elemDir r t g a b)
  (decayed r w step, a, b)

/-- Four lists walked together, missing entries 0. -/
def zip4 : List Nat → List Nat → List Nat → List Nat → List (Nat × Nat × Nat × Nat)
  | [], _, _, _ => []
  | w :: ws, gs, as, bs => (w, gs.headD 0, as.headD 0, bs.headD 0) :: zip4 ws gs.tail as.tail bs.tail

/-! ### Matrices (R551-R553) -/

/-- Cut a list into rows of `n`. -/
def rowsOf : Nat → Nat → List Nat → List (List Nat)
  | 0, _, _ => []
  | k + 1, n, l => l.take n :: rowsOf k n (l.drop n)

/-- The transpose of rows of `n` columns. -/
def transpose (n : Nat) (m : List (List Nat)) : List (List Nat) := (List.range n).map fun j => m.map fun r => r.getD j 0

/-- The dot product of two rows. -/
def dotF (a b : List Nat) : Nat := sumTerms ((a.zip b).map fun p => (exMul (unF p.1) (unF p.2)).1)

/-- a × transpose(b). -/
def mulT (a b : List (List Nat)) : List (List Nat) := a.map fun r => b.map (dotF r)

/-- a × b, b with `n` columns. -/
def matMul (a b : List (List Nat)) (n : Nat) : List (List Nat) := mulT a (transpose n b)

/-- Combine two matrices element by element. -/
def matZip (f : Nat → Nat → Nat) (a b : List (List Nat)) : List (List Nat) := (a.zip b).map fun p => (p.1.zip p.2).map fun x => f x.1 x.2

/-- Map the elements, told whether they lie on the diagonal. -/
def matMapD (f : Bool → Nat → Nat) (a : List (List Nat)) : List (List Nat) :=
  a.zipIdx.map fun r => r.1.zipIdx.map fun x => f (r.2 == x.2) x.1

/-- trace. -/
def traceF (a : List (List Nat)) : Nat := sumTerms (a.zipIdx.map fun r => unF (r.1.getD r.2 0))

/-- The Frobenius norm. -/
def frobF (a : List (List Nat)) : Nat := fSqrt (sumTerms (a.flatMap fun r => r.map fun x => (exMul (unF x) (unF x)).1))

/-- x > 0. -/
def posF (x : Nat) : Bool := (unF 0).lt (unF x)

/-- A factor with the damping δ = DAMP × trace ÷ m on its diagonal (R552). -/
def damped (r : RuleBlock) (m : Nat) (a : List (List Nat)) : List (List Nat) :=
  let d := fDiv (fMul (rbDamp r) (traceF a)) (fInt m)
  matMapD (fun diag x => if diag then fAdd x d else x) a

/-- One iteration and the test of the coupled Newton iteration; none where it has not converged in `k` more (R552). -/
def newton (n tol : Nat) : Nat → List (List Nat) → List (List Nat) → Option (List (List Nat))
  | 0, _, _ => none
  | k + 1, x, z =>
    let four := fInt 4
    let t := matMapD (fun diag v => fDiv (fSub (if diag then fInt 5 else 0) v) four) z
    let x := matMul x t n
    let t2 := matMul t t n
    let z := matMul (matMul t2 t2 n) z n
    let good := (matMapD (fun diag v => fSub v (if diag then oneF else 0)) z).all fun r => r.all fun v =>
      let m := v % 2 ^ 31
      !(unF m).isNan && !(unF tol).isNan && !((unF tol).lt (unF m))
    if good then some x else newton n tol k x z

/-- inv_root4 of a matrix of n rows (R552). -/
def invRoot4 (r : RuleBlock) (n : Nat) (a : List (List Nat)) : Option (List (List Nat)) :=
  if !posF (traceF a) then none
  else
    let c := fRoot4 (fDiv (fMul (fInt 2) (frobF a)) (fInt 5))
    let x := (List.range n).map fun i => (List.range n).map fun j => if i = j then fDiv oneF c else 0
    newton n (rbTol r) (rbIters r) x (a.map fun row => row.map fun v => fDiv v (fPow c 4))

/-- The diagonal roots of a factor (R553). -/
def diagRoot (r : RuleBlock) (n : Nat) (a : List (List Nat)) : List (List Nat) :=
  matMapD (fun diag v => if diag then fInvRoot4 v else 0) (damped r n a)

/-- A refresh of the roots of a block from the copy of its factors (R552, R553). -/
def blockRoots (r : RuleBlock) (m n : Nat) (b : BlockSt) : Option (List Nat × List Nat) :=
  match invRoot4 r m (damped r m (rowsOf m m b.left)), invRoot4 r n (damped r n (rowsOf n n b.right)) with
  | some p, some q => some (p.flatMap id, q.flatMap id)
  | _, _ => none

/-- The blocks of a layer as (first row, rows, first column, columns), row by row (R551). -/
def blockShapes (rows cols : Nat) : List (Nat × Nat × Nat × Nat) :=
  (List.range ((rows + 8191) / 8192)).flatMap fun i => (List.range ((cols + 8191) / 8192)).map fun j =>
    (8192 * i, min 8192 (rows - 8192 * i), 8192 * j, min 8192 (cols - 8192 * j))

/-- A part of a matrix. -/
def subMat (m : List (List Nat)) (b : Nat × Nat × Nat × Nat) : List (List Nat) :=
  ((m.drop b.1).take b.2.1).map fun r => (r.drop b.2.2.1).take b.2.2.2

/-- The layer rule on one block: its new state and the preconditioned direction. A block without roots takes the diagonal ones from its factors as they
stand at its first step, and keeps them until a refresh succeeds (R551, R553; log 23). -/
def blockStep (r : RuleBlock) (m n : Nat) (b : BlockSt) (g d : List (List Nat)) : BlockSt × List (List Nat) :=
  let gt := transpose n g
  let mix := fun (old new : List (List Nat)) => matZip (fun o x => fAdd (fMul (rbBeta r) o) x) old new
  let part := fun (a : List (List Nat)) => a.map fun row => row.map (fMul (fSub oneF (rbBeta r)))
  let l := mix (rowsOf m m b.left) (mulT (part g) g)
  let q := mix (rowsOf n n b.right) (mulT (part gt) gt)
  let diag := b.diag.getD ((diagRoot r m l).flatMap id, (diagRoot r n q).flatMap id)
  let (ql, qr) := (fun x : List Nat × List Nat => (rowsOf m m x.1, rowsOf n n x.2)) (b.roots.getD diag)
  let p := matMul (matMul ql g n) qr n
  let fp := frobF p
  let p := if posF fp && finF fp then
      let fd := frobF d
      p.map fun row => row.map fun v => fDiv (fMul v fd) fp
    else d
  (⟨l.flatMap id, q.flatMap id, b.roots, if b.roots.isSome then none else some diag⟩, p)

/-- Put a block back into a matrix. -/
def putBlock (w : List (List Nat)) (b : Nat × Nat × Nat × Nat) (v : List (List Nat)) : List (List Nat) :=
  w.zipIdx.map fun r =>
    if b.1 ≤ r.2 ∧ r.2 < b.1 + b.2.1 then
      r.1.take b.2.2.1 ++ v.getD (r.2 - b.1) [] ++ r.1.drop (b.2.2.1 + b.2.2.2)
    else r.1

/-- A layer's rule on its whole matrix: the master, states and blocks after a step (R550, R551). -/
def layerStep (l : Layer) (t : Nat) (g : List Nat) : Layer :=
  let r := l.rule
  if rbRule r ≠ 4 then
    let out := (zip4 l.master g l.st1 l.st2).map fun e => elemStep r t e.1 e.2.1 e.2.2.1 e.2.2.2
    { l with master := out.map fun e => e.1, st1 := out.map fun e => e.2.1, st2 := out.map fun e => e.2.2 }
  else
    let st := (zip4 l.master g l.st1 l.st2).map fun e => elemState r e.2.1 e.2.2.1 e.2.2.2
    let d := (zip4 g g (st.map fun e => e.1) (st.map fun e => e.2)).map fun e => elemDir r t e.1 e.2.2.1 e.2.2.2
    let gm := rowsOf l.rows l.cols g
    let dm := rowsOf l.rows l.cols d
    let shapes := blockShapes l.rows l.cols
    let out := (shapes.zip l.blocks).map fun b => blockStep r b.1.2.1 b.1.2.2.2 b.2 (subMat gm b.1) (subMat dm b.1)
    let p := ((shapes.zip out).foldl (fun w b => putBlock w b.1 b.2.2) dm).flatMap id
    { l with
      master := (l.master.zip p).map fun e => decayed r e.1 (fMul (rbLr r) e.2)
      st1 := st.map fun e => e.1, st2 := st.map fun e => e.2, blocks := out.map fun b => b.1 }

/-- The blocks of a layer at step 0: factors 0, no roots. -/
def freshBlocks (l : Layer) : List BlockSt :=
  if rbRule l.rule ≠ 4 then []
  else (blockShapes l.rows l.cols).map fun b => ⟨List.replicate (b.2.1 * b.2.1) 0, List.replicate (b.2.2.2 * b.2.2.2) 0, none, none⟩

/-! ### Row rules (R559) -/

/-- mean(g × g) of a row. -/
def meanSq (g : List Nat) : Nat := fDiv (sumTerms (g.map fun x => (exMul (unF x) (unF x)).1)) (fInt g.length)

/-- A row rule on a master of a row, whose step count has risen (R559). -/
def rowStep (r : RuleBlock) (m : RowMaster) (g : List Nat) : RowMaster :=
  let a := m.st1.headD 0
  if rbRule r = 5 then
    let a := fAdd a (meanSq g)
    let den := fAdd (fSqrt a) (rbEps r)
    { m with st1 := [a], values := (m.values.zip g).map fun e => decayed r e.1 (fDiv (fMul (rbLr r) e.2) den) }
  else
    let v := fAdd (fMul (rbB2 r) a) (fMul (fSub oneF (rbB2 r)) (meanSq g))
    let ms := (zip4 m.values g m.st2 []).map fun e => fAdd (fMul (rbB1 r) e.2.2.1) (fMul (fSub oneF (rbB1 r)) e.2.1)
    let c1 := fSub oneF (fPow (rbB1 r) m.steps)
    let den := fAdd (fSqrt (fDiv v (fSub oneF (fPow (rbB2 r) m.steps)))) (rbEps r)
    { m with st1 := [v], st2 := ms, values := (m.values.zip ms).map fun e => decayed r e.1 (fDiv (fMul (rbLr r) (fDiv e.2 c1)) den) }

/-! ### Slices (R554, R555) -/

/-- The format of a layer's FMT (R537). -/
def layerFmt (fmt : Nat) : Fmt :=
  match fmt with
  | 0 => fmtFp32
  | 1 => fmtBf16
  | 2 => fmtFp16
  | 3 => fmtE4m3
  | _ => fmtE5m2

/-- ⌈log₂ x⌉ of a positive value. -/
def ceilLogF (x : Fp) : Int :=
  match x with
  | .fin _ m e => if m = 2 ^ (bitLen m - 1) then e + bitLen m - 1 else e + bitLen m
  | _ => 0

/-- e of SCALE = 2^e: the least with max|w| ≤ 2^e × the largest finite value; 0 under FP32 and BF16, or where every w is 0
(R554). -/
def scaleExp (fmt : Nat) (ws : List Nat) : Int :=
  if fmt ≤ 1 then 0
  else
    let top := (ws.filter finF).foldl (fun m w => max m (w % 2 ^ 31)) 0
    if top = 0 then 0
    else
      let (m, q) := (layerFmt fmt).largest
      ceilLogF (exDiv (unF top) (.fin false m q)).1

/-- SCALE as an FP32 pattern. -/
def scaleF (e : Int) : Nat := (roundF (.fin false 1 e)).1

/-- A value divided by 2^e. -/
def unscale (e : Int) (x : Fp) : Fp :=
  match x with
  | .fin s m q => .fin s m (q - e)
  | _ => x

/-- An element of a layer divided by its scale, in FP32 as every operation of the die, and converted stochastically to its format: row-major index i,
version v (R554, R555; 07 R269). -/
def sliceElem (l : Layer) (id : Nat) (e : Int) (v i w : Nat) : List Byte :=
  let (u, _, _, _) := philox i 0 0 l.steps (srSeed l.rule) (v % 2 ^ 16 * 2 ^ 16 + id)
  natLe (layerSize l.fmt) (roundTo (layerFmt l.fmt) (some u) (unF (roundF (unscale e (unF w))).1)).1

end Sys2Proof.Machine
end

