-- ==== Sys2Proof/Machine/Update.lean ====
section
/-! DEFINITION. The Rugon die: layers and their slices, gradients of layers and rows, the update of rows and their staging (14;
08 R314-R323). -/

namespace Sys2Proof.Machine

/-- Change the Rugon die. -/
def updMap (s : State) (f : UpdUnit → UpdUnit) : State := { s with upd := f s.upd }

/-- A FREE layer. -/
def layerReset : Layer :=
  ⟨0, 0, false, false, 0, 0, 0, 0, 0, 0, 0, 0, 0, 0, 0, 0, 0, [], none, false, 0, [], none, 0, 0, [], false, [], [], [], [], none, [], none⟩

/-- A layer. -/
def layerGet (s : State) (l : Nat) : Layer := mget (fun _ => layerReset) s.upd.layers l

/-- Put a layer. -/
def layerPut (s : State) (l : Nat) (x : Layer) : State := updMap s fun u => { u with layers := mset (fun _ => layerReset) u.layers l x }

/-- Whether the Rugon die works: it is READY and not inside a grey device (15 R587). -/
def rugonUp (s : State) : Bool := rdyState s (idxDie 5) == .ready && !greyAt s (idxDie 5)

/-- The number of devices of the partition. -/
def devCount (s : State) : Nat := max 1 s.boot.devs

/-- Whether version a is after version b (00 R24). -/
def verAfter (a b : Nat) : Bool := let d := (a + 65536 - b % 65536) % 65536; decide (0 < d ∧ d < 32768)

/-- A device of the partition that is not this one. -/
def otherDevs (s : State) : List Nat := (List.range (devCount s)).filter (· ≠ s.boot.dev)

/-- UPD_FROZEN is raised (R561). -/
def raiseFrozen (s : State) (unit detail : Nat) : State := report (event s regUpdEvents 0) 0x72 0 unit detail

/-- A skipped step or row (R562). -/
def nonFinite (s : State) (unit detail : Nat) : State := report (event (bump1 s regUpdNonfinite) regUpdEvents 3) 0x74 0 unit detail

/-- A GRADIENT message is refused (R543). -/
def badGrad (s : State) : State := event (bump1 s regUpdBadGrad) regUpdEvents 6

/-- A contribution joins a later step (R544, R547). -/
def lateGrad (s : State) : State := event (bump1 s regUpdLateGrad) regUpdEvents 2

/-! ### Slices (R538, R539) -/

/-- The slice of the device at a position, as (first row, rows, first column, columns) (R538). -/
def sliceOf (l : Layer) (devs k : Nat) : Nat × Nat × Nat × Nat :=
  let cut := fun (n : Nat) => (k * n / devs, (k + 1) * n / devs - k * n / devs)
  if l.slicing = 1 then let (a, n) := cut l.rows; (a, n, 0, l.cols)
  else if l.slicing = 2 then let (a, n) := cut l.cols; (0, l.rows, a, n)
  else (0, l.rows, 0, l.cols)

/-- Elements of a slice. -/
def sliceCount (l : Layer) (devs k : Nat) : Nat := let (_, r, _, c) := sliceOf l devs k; r * c

/-- The runs of consecutive row-major indices of a slice, as (first index, elements). -/
def sliceRuns (l : Layer) (devs k : Nat) : List (Nat × Nat) :=
  let (r0, nr, c0, nc) := sliceOf l devs k
  if nr = 0 ∨ nc = 0 then []
  else if nc = l.cols then [(r0 * l.cols, nr * nc)]
  else (List.range nr).map fun r => ((r0 + r) * l.cols + c0, nc)

/-- Cut a run into pieces of at most `n` elements. -/
def cutRun (n : Nat) : Nat → Nat × Nat → List (Nat × Nat)
  | 0, r => [r]
  | k + 1, r => if r.2 ≤ n then [r] else (r.1, n) :: cutRun n k (r.1 + n, r.2 - n)

/-- Whether the elements [off, off + n) of a layer lie in a device's slice. -/
def inSlice (l : Layer) (devs k off n : Nat) : Bool :=
  (sliceRuns l devs k).any fun r => decide (r.1 ≤ off ∧ off + n ≤ r.1 + r.2)

/-- The address of gradient half h: the halves follow the two slice buffers (R541). -/
def gradAddr (s : State) (l : Layer) (h : Nat) : Nat :=
  l.base + 2 * sliceBytes l (devCount s) + h * (4 * sliceCount l (devCount s) s.boot.dev)

/-- The place of a row-major element in a slice buffer. -/
def elemAddr (s : State) (l : Layer) (buf i : Nat) : Nat :=
  let (r0, _, c0, nc) := sliceOf l (devCount s) s.boot.dev
  buf + 64 + (i / l.cols - r0) * sliceStride l.fmt nc + (i % l.cols - c0) * layerSize l.fmt

/-- The header of a slice buffer (R539). -/
def sliceHeader (s : State) (l : Layer) (id ver scale : Nat) : List Byte :=
  let (r0, nr, c0, nc) := sliceOf l (devCount s) s.boot.dev
  natLe 2 id ++ natLe 2 ver ++ natLe 1 l.fmt ++ natLe 3 0 ++ natLe 4 scale ++ natLe 4 r0 ++ natLe 4 nr ++ natLe 4 c0 ++ natLe 4 nc ++
    natLe 4 (sliceStride l.fmt nc) ++ List.replicate 32 0

/-- Write consecutive elements into a buffer, one row's part at a time. -/
def putElems (s : State) (l : Layer) (buf : Nat) : Nat → Nat → List Byte → State
  | 0, _, _ => s
  | k + 1, i, b =>
    if b.isEmpty then s
    else
      let (_, _, c0, nc) := sliceOf l (devCount s) s.boot.dev
      let n := (c0 + nc - i % l.cols) * layerSize l.fmt
      putElems (memWrite s (elemAddr s l buf i) (b.take n)) l buf k (i + (c0 + nc - i % l.cols)) (b.drop n)

/-! ### Scattering and receiving slices (R554-R557) -/

/-- The bytes of a SLICE message (R556). -/
def sliceBytesOf (form fmt id ver count off scale : Nat) (data : List Byte) : List Byte :=
  natLe 1 form ++ natLe 1 fmt ++ natLe 2 id ++ natLe 2 ver ++ natLe 2 count ++ natLe 8 off ++ natLe 4 scale ++ natLe 12 0 ++ data

/-- The most elements of a SLICE message of a format (R556). -/
def sliceLimit (fmt : Nat) : Nat := if fmt = 0 then 16376 else if fmt ≤ 2 then 32752 else 65504

/-- Restart the next buffer for a version (R557). -/
def restartNext (s : State) (id ver scale : Nat) : State :=
  let l := layerGet s id
  let s := layerPut s id { l with next := 1, nextVer := ver, got := [], total := none }
  memWrite s (sliceBuf l (devCount s) true) (sliceHeader s l id ver scale)

/-- Whether a version starts the next buffer anew (R557). -/
def startsNext (l : Layer) (ver : Nat) : Bool := l.next == 0 || ((l.next == 1 || l.next == 2) && verAfter ver l.nextVer)

/-- A filling buffer with its END and every element is COMPLETE (R557). -/
def completeNext (s : State) (id : Nat) : State :=
  let l := layerGet s id
  let have_ := l.got.foldl (fun n g => n + g.2) 0
  if l.next = 1 ∧ l.total.isSome ∧ sliceCount l (devCount s) s.boot.dev ≤ have_ then layerPut s id { l with next := 2 } else s

/-- SLICE data for this device (R556, R557). -/
def takeSlice (s : State) (id ver off count scale : Nat) (data : List Byte) : State :=
  let l := layerGet s id
  if l.next = 3 ∨ !(startsNext l ver || ver == l.nextVer) then bump1 s regUpdSliceDrop
  else
    let s := if startsNext l ver then restartNext s id ver scale else s
    let l := layerGet s id
    let s := putElems s l (sliceBuf l (devCount s) true) (count + 1) off data
    let s := layerPut s id { l with got := if l.got.any fun g => g.1 == off then l.got else l.got ++ [(off, count)] }
    completeNext s id

/-- A SLICE END for this device (R557). -/
def takeEnd (s : State) (id ver total scale : Nat) : State :=
  let l := layerGet s id
  if l.next = 3 ∨ !(startsNext l ver || ver == l.nextVer) then s
  else
    let s := if startsNext l ver then restartNext s id ver scale else s
    completeNext (layerPut s id { layerGet s id with total := some total }) id

/-- Bytes of a run of a master, converted for a version. -/
def convertRun (l : Layer) (id : Nat) (e : Int) (ver : Nat) (r : Nat × Nat) : List Byte :=
  (((l.master.drop r.1).take r.2).zipIdx).flatMap fun w => sliceElem l id e ver (r.1 + w.2) w.1

/-- The pieces of a device's slice, as they are sent. -/
def slicePieces (l : Layer) (devs k : Nat) : List (Nat × Nat) :=
  (sliceRuns l devs k).flatMap fun r => cutRun (sliceLimit l.fmt) (r.2 + 1) r

/-- The owner scatters its master as a version: DATA and END for every device, its own part over the module link (R554). -/
def scatter (s : State) (id ver : Nat) : State :=
  let l := layerGet s id
  let e := scaleExp l.fmt l.master
  let d := devCount s
  let s := (otherDevs s).foldl (fun s k =>
    let s := (slicePieces l d k).foldl (fun s r => post s 0x0E k (sliceBytesOf 1 l.fmt id ver r.2 r.1 (scaleF e) (convertRun l id e ver r))) s
    post s 0x0E k (sliceBytesOf 2 l.fmt id ver 0 (sliceCount l d k) (scaleF e) [])) s
  let s := (slicePieces l d s.boot.dev).foldl (fun s r => takeSlice s id ver r.1 r.2 (scaleF e) (convertRun l id e ver r)) s
  let s := takeEnd s id ver (sliceCount l d s.boot.dev) (scaleF e)
  layerPut s id { layerGet s id with heldScatter := none }

/-- SLICE_SCATTER: once NEXT is EMPTY, the owner scatters the version that waits (R554). -/
def execSliceScatter (layer : Nat) (s : State) : Out :=
  let l := layerGet s layer
  match l.heldScatter with
  | some v => if l.owner = s.boot.dev ∧ l.next = 0 ∧ l.state ≠ 0 ∧ rugonUp s then .next (scatter s layer v) else .next s
  | none => .next s

/-- The layer a SLICE message names, where its header is good (R556). -/
def sliceLayer (s : State) (body : List Byte) (form : Nat) : Option (Nat × Layer) :=
  let id := fld body 2 2
  let l := layerGet s id
  let n := fld body 6 2
  if id < 1024 ∧ l.state ≠ 0 ∧ fld body 0 1 = form ∧ fld body 1 1 = l.fmt ∧ zeroAt body 0x14 12 ∧ n ≤ sliceLimit l.fmt ∧
    (form = 2 || body.length == 32 + n * layerSize l.fmt) then some (id, l) else none

/-- SLICE_DATA (R557). -/
def execSliceData (src tag : Nat) (body : List Byte) (s : State) : Out :=
  let s := takeMsg s src tag 0x0E
  match sliceLayer s body 1 with
  | some (id, l) =>
    let off := fld body 8 8
    let n := fld body 6 2
    if src = l.owner ∧ inSlice l (devCount s) s.boot.dev off n then
      .next (takeSlice s id (fld body 4 2) off n (fld body 0x10 4) (body.drop 32))
    else .next s
  | none => .next s

/-- SLICE_END (R557). -/
def execSliceEnd (src tag : Nat) (body : List Byte) (s : State) : Out :=
  let s := takeMsg s src tag 0x0E
  match sliceLayer s body 2 with
  | some (id, l) => if src = l.owner then .next (takeEnd s id (fld body 4 2) (fld body 8 8) (fld body 0x10 4)) else .next s
  | none => .next s

/-- Put consecutive elements into a master (R558). -/
def putMaster (l : Layer) (off : Nat) (ws : List Nat) : Layer :=
  { l with master := l.master.take off ++ ws ++ l.master.drop (off + ws.length) }

/-- Elements of a slice's bytes as FP32 values: SCALE times the stored value (R539). -/
def sliceValues (l : Layer) (scale : Nat) : Nat → List Byte → List Nat
  | 0, _ => []
  | n + 1, b => fMul scale (widen (layerFmt l.fmt) (leNat (b.take (layerSize l.fmt)))) :: sliceValues l scale n (b.drop (layerSize l.fmt))

/-- SLICE_PULL: a new owner takes a part of a device's current slice into the master (R558). -/
def execSlicePull (src tag : Nat) (body : List Byte) (s : State) : Out :=
  let s := takeMsg s src tag 0x0E
  match sliceLayer s body 3 with
  | some (id, l) =>
    let off := fld body 8 8
    let n := fld body 6 2
    if l.owner = s.boot.dev ∧ inSlice l (devCount s) src off n then
      .next (layerPut s id (putMaster l off (sliceValues l (fld body 0x10 4) n (body.drop 32))))
    else .next s
  | none => .next s

/-- The current slice's bytes of consecutive elements, read a row's part at a time. -/
def getElems (s : State) (l : Layer) (buf : Nat) : Nat → Nat → Nat → List Byte
  | 0, _, _ => []
  | k + 1, i, n =>
    if n = 0 then []
    else
      let (_, _, c0, nc) := sliceOf l (devCount s) s.boot.dev
      let m := min n (c0 + nc - i % l.cols)
      readBytes s (elemAddr s l buf i) (m * layerSize l.fmt) ++ getElems s l buf k (i + m) (n - m)

/-- The step of a layer that a tick belongs to, where it has begun (R541). -/
def stepAt (l : Layer) (tick : Nat) : Option Nat :=
  if l.stepTicks = 0 ∨ tick < l.startTick then none else some ((tick - l.startTick) / l.stepTicks)

/-- The 64-byte units of the slow tier that a layer's master and state take. -/
def layerUnit (s : State) (id u : Nat) : Bool :=
  s.upd.ranges.any fun r => (r.1 == 8192 + id || r.1 == 24576 + id) && decide (r.2.1 ≤ 64 * u ∧ 64 * u < r.2.1 + r.2.2)

/-- OWNER: the layer has a new owner; each device sends it its current slice, and it builds the master from them, states,
factors, roots and STEPS at 0 (R558). The first step it closes is the one its devices push next: a step of a tick before the switch was pushed to the
old owner (R542, R544). -/
def changeOwner (s : State) (id owner : Nat) : State :=
  let l := layerGet s id
  let n := l.rows * l.cols
  let mine := owner = s.boot.dev
  let l := { l with owner := owner, resetVer := l.curVer, steps := 0, heldScatter := none, refresh := none, fresh := []
                    nextStep := (stepAt l s.tsq.tick).getD 0, early := []
                    master := if mine then List.replicate n 0 else [], st1 := if mine then List.replicate n 0 else []
                    st2 := if mine then List.replicate n 0 else [], blocks := if mine then freshBlocks l else [] }
  let s := updMap (layerPut s id l) fun u => { u with
    stepAccs := u.stepAccs.filter fun a => a.layer ≠ id
    slowBad := u.slowBad.filter fun b => !layerUnit s id b }
  if l.state ≠ 2 ∧ l.state ≠ 3 then s
  else
    let buf := sliceBuf l (devCount s) false
    let scale := readNat s (buf + 8) 4
    (slicePieces l (devCount s) s.boot.dev).foldl (fun s r =>
      let b := getElems s l buf (r.2 + 1) r.1 r.2
      if mine then layerPut s id (putMaster (layerGet s id) r.1 (sliceValues l scale r.2 b))
      else post s 0x0E owner (sliceBytesOf 3 l.fmt id l.curVer r.2 r.1 scale b)) s

/-! ### Steps of a layer (R541-R544, R550-R553, R562) -/

/-- Whether a step's devices have all sent DONE. -/
def allDone (s : State) (done : List Nat) : Bool := (List.range (devCount s)).all done.contains

/-- A step's accumulator. -/
def stepAcc (s : State) (id step : Nat) : StepAcc :=
  (s.upd.stepAccs.find? fun a => a.layer == id && a.step == step).getD ⟨id, step, [], []⟩

/-- Put a step's accumulator. -/
def putStepAcc (s : State) (a : StepAcc) : State :=
  updMap s fun u => { u with stepAccs := u.stepAccs.filter (fun b => !(b.layer == a.layer && b.step == a.step)) ++ [a] }

/-- A refresh of the roots starts after a step whose count asks for it, unless one runs (R552). -/
def startRefresh (l : Layer) : Layer :=
  if rbRule l.rule = 4 ∧ l.refresh.isNone ∧ (l.steps = 1 ∨ l.steps % max 1 (rbEvery l.rule) = 0) then { l with refresh := some l.blocks } else l

/-- The new roots of a refresh that has ended take their place (R552, R553). -/
def takeRoots (l : Layer) : Layer :=
  { l with fresh := [], blocks := if l.fresh.isEmpty then l.blocks else
      (l.blocks.zip l.fresh).map fun b => match b.2 with
        | some r => { b.1 with roots := some r }
        | none => b.1 }

/-- ROOT_REFRESH_DONE: a background refresh ends: its roots await the next step; a factor that fails keeps the block's roots
and is counted (R552, R553). -/
def execRootRefreshDone (layer : Nat) (s : State) : Out :=
  let l := layerGet s layer
  match l.refresh with
  | none => .next s
  | some bs =>
    let shapes := blockShapes l.rows l.cols
    let rs := (shapes.zip bs).map fun b => blockRoots l.rule b.1.2.1 b.1.2.2.2 b.2
    let nj := (l.cols + 8191) / 8192
    let failed := rs.zipIdx.filter fun r => r.1.isNone
    let s := layerPut s layer { l with refresh := none, fresh := rs, fallback := !failed.isEmpty }
    .next (failed.foldl (fun s r =>
      report (event (bump1 s regUpdPrecondFallback) regUpdEvents 1) 0x73 0 (unitCode s 8 layer)
        (r.2 / max 1 nj + 2 ^ 32 * (r.2 % max 1 nj))) s)

/-- Whether a step of a layer is closed. -/
def stepClosed (l : Layer) (step : Nat) : Bool := decide (step < l.nextStep) || l.early.contains step

/-- A step of a layer closes: the oldest open step is the first one that has not closed (R544). -/
def markClosed (l : Layer) (step : Nat) : Layer :=
  if step ≠ l.nextStep then { l with early := l.early ++ [step] }
  else
    let n := (((List.range l.early.length).map fun k => l.nextStep + 1 + k).find? fun k => !l.early.contains k).getD
      (l.nextStep + 1 + l.early.length)
    { l with nextStep := n, early := l.early.filter fun k => decide (n < k) }

/-- The rule block that waits takes its place; a layer that comes under the layer rule starts with its blocks' factors 0 and no roots (R540, R551). -/
def useRule (l : Layer) : Layer :=
  match l.nextRule with
  | none => l
  | some r => let l := { l with rule := r, nextRule := none }; if l.blocks.isEmpty then { l with blocks := freshBlocks l } else l

/-- A VERSION item of a layer (R558). -/
def layerItem (id action : Nat) (l : Layer) : List Byte :=
  natLe 1 7 ++ natLe 1 1 ++ natLe 2 id ++ natLe 1 action ++ natLe 1 0 ++ natLe 2 0 ++
    natLe 8 ((l.rows - 1) * 2 ^ 48 + (l.cols - 1) * 2 ^ 32 + l.fmt * 2 ^ 28 + l.slicing * 2 ^ 26 + l.gfmt * 2 ^ 25) ++
    natLe 4 l.stepTicks ++ natLe 2 l.owner ++ natLe 2 l.pushHitch ++ natLe 8 l.startTick

/-- An open step closes: the rule runs once on its sum, and the version that carries it waits to be scattered (R544,
R550-R554, R561, R562). Where the layer's master or state reads detected-uncorrectable, no rule runs: the owner rebuilds the layer on itself, by an
OWNER item that names it (R558). -/
def closeAt (s : State) (id step : Nat) : State :=
  let l := layerGet s id
  let a := stepAcc s id step
  let bad := s.upd.slowBad.any (layerUnit s id)
  let s := updMap s fun u => { u with stepAccs := u.stepAccs.filter fun b => !(b.layer == id && b.step == step) }
  let next := useRule { markClosed l step with frozenOnce := false }
  if l.frozen then layerPut s id next
  else if bad then planLater (layerPut s id next) [layerItem id 5 l]
  else if (a.acc.any fun e => !finF e.2) then nonFinite (layerPut s id next) (unitCode s 8 id) a.step
  else
    let t := min (2 ^ 32 - 1) (l.steps + 1)
    let g := (List.range (l.rows * l.cols)).map (mget (fun _ => 0) a.acc)
    let l := startRefresh { layerStep (takeRoots next) t g with steps := t }
    bump1 (layerPut s id { l with heldScatter := some (t % 65536) }) regUpdLayerSteps

/-- The oldest open step of a layer closes. -/
def closeStep (s : State) (id : Nat) : State := closeAt s id (layerGet s id).nextStep

/-- Close the oldest steps of a layer that have DONE from every device. -/
def closeReady : Nat → Nat → State → State
  | 0, _, s => s
  | k + 1, id, s =>
    if rugonUp s && allDone s (stepAcc s id (layerGet s id).nextStep).done then closeReady k id (closeStep s id) else s

/-- A contribution to a layer's step at its owner (R543, R544, R561). -/
def contribLayer (s : State) (id step off : Nat) (vals : List Nat) : State :=
  let l := layerGet s id
  if l.frozen then
    let s := bump1 s regUpdFrozenDiscard
    if l.frozenOnce then s else raiseFrozen (layerPut s id { l with frozenOnce := true }) (unitCode s 8 id) step
  else
    let s := if stepClosed l step then lateGrad s else s
    let a := stepAcc s id (if stepClosed l step then l.nextStep else step)
    putStepAcc s { a with acc := vals.zipIdx.foldl (fun m v =>
      mset (fun _ => 0) m (off + v.2) (fAdd (mget (fun _ => 0) m (off + v.2)) v.1)) a.acc }

/-- DONE of a device for a layer's step, which closes once every device has sent one (R544). -/
def doneLayer (s : State) (id step dev : Nat) : State :=
  if stepClosed (layerGet s id) step then s
  else
    let a := stepAcc s id step
    let a := { a with done := if a.done.contains dev then a.done else a.done ++ [dev] }
    let s := putStepAcc s a
    if rugonUp s && allDone s a.done then closeAt s id step else s

/-- The header of a GRADIENT message (R543). -/
def gradHeader (form gfmt id ver count step off : Nat) : List Byte :=
  natLe 1 form ++ natLe 1 gfmt ++ natLe 2 id ++ natLe 2 ver ++ natLe 2 count ++ natLe 8 step ++ natLe 8 off ++ natLe 8 0

/-- The most elements of a LAYER message (R543). -/
def gradLimit (gfmt : Nat) : Nat := if gfmt = 0 then 16376 else 32752

/-- The values of a GRADIENT payload in FP32. -/
def gradValues (gfmt : Nat) : Nat → List Byte → List Nat
  | 0, _ => []
  | n + 1, b =>
    if gfmt = 0 then leNat (b.take 4) :: gradValues gfmt n (b.drop 4)
    else widen fmtBf16 (leNat (b.take 2)) :: gradValues gfmt n (b.drop 2)

/-- A value as GFMT carries it (R542). -/
def gradElem (gfmt v : Nat) : List Byte := if gfmt = 0 then natLe 4 v else natLe 2 (narrow fmtBf16 none v).1

/-- The blocks of 1,024 elements of a half that hold a value other than ±0, as positions (R542). -/
def nonzeroBlocks (n : Nat) (v : Nat → Nat) : List (Nat × Nat) :=
  (List.range ((n + 1023) / 1024)).filterMap fun b =>
    let k := min 1024 (n - 1024 * b)
    if (List.range k).any fun i => v (1024 * b + i) % 2 ^ 31 ≠ 0 then some (1024 * b, k) else none

/-- Join runs that follow one another. -/
def joinRuns : List (Nat × Nat) → List (Nat × Nat)
  | [] => []
  | r :: rs => match joinRuns rs with
    | [] => [r]
    | q :: qs => if r.1 + r.2 = q.1 then (r.1, r.2 + q.2) :: qs else r :: q :: qs

/-- The runs of row-major indices that positions [p, p + n) of a device's half stand for, with their positions. -/
def halfRuns (l : Layer) (devs k p n : Nat) : List (Nat × Nat × Nat) :=
  let (r0, _, c0, nc) := sliceOf l devs k
  if nc = l.cols then [(r0 * l.cols + p, p, n)]
  else if nc = 0 then []
  else (List.range ((p + n - 1) / nc - p / nc + 1)).map fun j =>
    let row := p / nc + j
    let a := max p (row * nc)
    let b := min (p + n) ((row + 1) * nc)
    ((r0 + row) * l.cols + c0 + a % nc, a, b - a)

/-- One device's push of a step of a layer (R542). -/
def pushLayer (s : State) (id step : Nat) : State :=
  let l := layerGet s id
  let d := devCount s
  let n := sliceCount l d s.boot.dev
  let half := gradAddr s l (step % 2)
  let v := fun i => readNat s (half + 4 * i) 4
  let runs := (joinRuns (nonzeroBlocks n v)).flatMap fun r => halfRuns l d s.boot.dev r.1 r.2
  let parts := runs.flatMap fun r => (cutRun (gradLimit l.gfmt) (r.2.2 + 1) (r.1, r.2.2)).map fun c => (c.1, r.2.1 + (c.1 - r.1), c.2)
  let parts : List (Nat × List Byte) := parts.map fun p => (p.1, (List.range p.2.2).flatMap fun i => gradElem l.gfmt (v (p.2.1 + i)))
  let s := if n = 0 then s else memWrite s half (List.replicate (4 * n) 0)
  let size := if l.gfmt = 0 then 4 else 2
  let s := layerPut s id { l with pushed := step + 1 }
  let s := parts.foldl (fun s p =>
    let c := p.2.length / size
    if l.owner = s.boot.dev then contribLayer s id step p.1 (gradValues l.gfmt c p.2)
    else post s 0x0D l.owner (gradHeader 1 l.gfmt id l.curVer c step p.1 ++ p.2)) s
  let s := if l.owner = s.boot.dev then doneLayer s id step s.boot.dev
    else post s 0x0D l.owner (gradHeader 3 l.gfmt id l.curVer 0 step 0)
  if l.pushHitch < 0x1000 then s else (signalHitch s l.pushHitch).2

/-- LAYER_PUSH: the layers whose step has ended push their halves (R542). -/
def execLayerPush (s : State) : Out :=
  if !s.tsq.running ∨ !rugonUp s then .next s
  else .next (s.upd.layers.foldl (fun s e =>
    let l := layerGet s e.1
    match stepAt l s.tsq.tick with
    | some (k + 1) => if l.state ≠ 0 ∧ l.pushed ≤ k then pushLayer s e.1 k else s
    | _ => s) s)

/-- GRADIENT_LAYER (R543, R544). -/
def execGradientLayer (src tag : Nat) (body : List Byte) (s : State) : Out :=
  powered s <|
  let s := takeMsg s src tag 0x0D
  let id := fld body 2 2
  let l := layerGet s id
  let ver := fld body 4 2
  let n := fld body 6 2
  let g := fld body 1 1
  let off := fld body 0x10 8
  let size := if g = 0 then 4 else 2
  if 1024 ≤ id ∨ l.state = 0 ∨ l.owner ≠ s.boot.dev ∨ fld body 0 1 ≠ 1 ∨ g ≠ l.gfmt ∨ n = 0 ∨ gradLimit g < n ∨ !zeroAt body 0x18 8 ∨
      body.length ≠ 32 + size * n ∨ !inSlice l (devCount s) src off n ∨ verAfter ver l.curVer ∨ verAfter l.resetVer ver then .next (badGrad s)
  else .next (contribLayer s id (fld body 8 8) off (gradValues g n (body.drop 32)))

/-- LAYER_STEP_TIMEOUT: at the settle point of the last tick of step s + 1 the owner closes step s (R544). -/
def execLayerStepTimeout (layer : Nat) (s : State) : Out :=
  let l := layerGet s layer
  if !s.tsq.running ∨ l.state = 0 ∨ l.owner ≠ s.boot.dev ∨ !rugonUp s then .next s
  else
    let tick := l.startTick + (l.nextStep + 2) * l.stepTicks - 1
    if s.tsq.tick < tick then .next s
    else
      let s := advance s (tickAt s tick + period s - applyLen s - settleLen s)
      .next (closeReady 8 layer (closeStep s layer))

/-! ### Row gradients (R545-R548, R559-R562; 08 R314-R316, R320, R322) -/

/-- A table's update state. -/
def tblRuleGet (s : State) (t : Nat) : TblRule := (pfind s.upd.tblRules t).getD ⟨[], none, 0, 0, false⟩

/-- Put a table's update state. -/
def tblRulePut (s : State) (t : Nat) (r : TblRule) : State := updMap s fun u => { u with tblRules := pput u.tblRules t r }

/-- Whether a table takes no updates (R561). -/
def tableFrozen (s : State) (t : Nat) : Bool := !(tableGet s t).train || (tableGet s t).frozen || (tblRuleGet s t).rule.isEmpty

/-- Hold a row at the Rugon die, in place of one held for it before (08 R316). -/
def holdRow (s : State) (h : HeldRow) : State :=
  let same := fun (x : HeldRow) => x.table == h.table && x.row == h.row
  let rows := s.upd.heldRows
  let rows := if rows.any same then rows.map fun x => if same x then h else x else rows ++ [h]
  updMap s fun u => { u with heldRows := rows }

/-- Stage a row, or hold it while an apply window runs or its FIFO is full (08 R316). -/
def stageOrHold (s : State) (h : HeldRow) : State :=
  if inApply s || !rugonUp s || s.upd.heldRows.any (fun x => x.table == h.table && x.row == h.row) then holdRow s h
  else match stageRow s h.table h.row h.ver h.data with
    | (true, s) => s
    | (false, s) => holdRow (stageFull s) h

/-- STAGING_RETRY: rows held at the Rugon die are staged where there is room (08 R316). -/
def execStagingRetry (s : State) : Out :=
  if inApply s || !rugonUp s then .next s
  else
    let held := s.upd.heldRows
    .next (held.foldl (fun s h =>
      match stageRow s h.table h.row h.ver h.data with
      | (true, s) => s
      | (false, s) => holdRow (stageFull s) h) (updMap s fun u => { u with heldRows := [] }))

/-- The master of a row, set anew from the current row where its version is before CUR_VER (08 R320). -/
def rowMaster (s : State) (id x a : Nat) : RowMaster :=
  let t := tableGet s id
  let fresh : RowMaster := ⟨t.curVer, 0, (dequant t (readBytes s a t.stride)).1, [0], List.replicate t.width 0⟩
  match pfind s.upd.masters (masterKey id x) with
  | some m => if verAfter t.curVer m.ver then fresh else m
  | none => fresh

/-- Bytes of a row's largest master record in the slow tier (14 R559). -/
def masterBytes (width : Nat) : Nat := up32 (16 + 8 * width)

/-- The bytes of a row's master record (R559): head, values, and the second state under ROW_ADAM. -/
def masterRecord (r : RuleBlock) (m : RowMaster) : List Byte :=
  natLe 2 m.ver ++ natLe 2 0 ++ natLe 4 m.steps ++ natLe 4 (m.st1.headD 0) ++ natLe 4 0 ++ m.values.flatMap (natLe 4) ++
    if rbRule r = 6 then m.st2.flatMap (natLe 4) else []

/-- Set a row's master, with its record in the slow-tier space of its table. Records stand in the order of the rows' places in a slot (08 R296; DESIGN
CHOICE, log 38). -/
def putMasterRow (s : State) (id x : Nat) (m : RowMaster) : State :=
  let s := updMap s fun u => { u with masters := pput u.masters (masterKey id x) m }
  let t := tableGet s id
  let (_, c, i) := hashHome s t id x
  match s.upd.ranges.find? fun r => r.1 == id with
  | some r => memWrite s (r.2.1 + (192 * i + c) * masterBytes t.width) (masterRecord (tblRuleGet s id).rule m)
  | none => s

/-- `n` records for the rows of a table that takes no updates are discarded: each counts, and UPD_FROZEN is raised once per table per tick, those that
had been summed before the table was frozen among them (R561; 08 R323). -/
def discardRows (s : State) (id tick n : Nat) : State :=
  if n = 0 then s
  else
    let s := bump s regUpdFrozenDiscard n
    let r := tblRuleGet s id
    if r.frozenOnce then s else raiseFrozen (tblRulePut s id { r with frozenOnce := true }) (unitCode s 7 id) tick

/-- Whether a row's next update sets its master anew from the current row (08 R320). -/
def masterStale (s : State) (id x : Nat) : Bool :=
  match pfind s.upd.masters (masterKey id x) with
  | some m => verAfter (tableGet s id).curVer m.ver
  | none => true

/-- The row rule on one touched row, and its new codes staged (R547, R559, R560, R562). Its HBM copy is read only to set the master anew (08 R320). -/
def applyRow (s : State) (id x : Nat) (g : List Nat) : State :=
  let t := tableGet s id
  let r := (tblRuleGet s id).rule
  match rowHere s id x with
  | none => s
  | some a =>
    if (g.any fun v => !finF v) then nonFinite s (unitCode s 7 id) x
    else if masterStale s id x && rowCopyBad s id x a t.stride then markRow (badRead s a t.stride) id x
    else
      let m := rowMaster s id x a
      let m := rowStep r { m with steps := min (2 ^ 32 - 1) (m.steps + 1) } g
      let s := putMasterRow (bump1 s regUpdRowsApplied) id x m
      let s := if (m.values.any fun v => (unF v).isNan) then event (bump1 s regUpdRowInvalid) regUpdEvents 7 else s
      stageOrHold s ⟨id, x, t.curVer, (encodeRow t id x (srSeed r) t.curVer m.steps m.values).1⟩

/-- The first tick of a table that is not closed. -/
def openTick (s : State) (id : Nat) : Nat := (pfind s.upd.rowClosed id).getD 0

/-- A table's tick closes: the row rule runs once for each touched row (R547). -/
def closeRows (s : State) (id tick : Nat) : State :=
  let accs := s.upd.rowAccs.filter fun a => a.table == id && decide (a.tick ≤ tick)
  let s := updMap s fun u => { u with
    rowAccs := u.rowAccs.filter fun a => !(a.table == id && decide (a.tick ≤ tick))
    rowDone := u.rowDone.filter fun d => !(d.1 == id && decide (d.2.1 ≤ tick))
    rowClosed := pput u.rowClosed id (max (openTick s id) (tick + 1)) }
  if tableFrozen s id then discardRows s id tick (accs.foldl (fun n a => n + a.count) 0)
  else accs.foldl (fun s a => applyRow s id a.row ((List.range (tableGet s id).width).map (mget (fun _ => 0) a.acc))) s

/-- A contribution of a tick to a row at its home (R547, R548, R561; 08 R322, R323). -/
def contribRow (s : State) (id tick ver x : Nat) (g : List Nat) : State :=
  let t := tableGet s id
  if tableFrozen s id then discardRows s id tick 1
  else if verAfter t.curVer ver && !t.carry then
    mgmtMap (event (bump1 s regEmbDiscard) regEmbEvents 2) fun m => { m with tickDiscards := m.tickDiscards + 1 }
  else
    let s := if tick < openTick s id then lateGrad s else s
    let tick := max tick (openTick s id)
    let add := fun (m : List (Nat × Nat)) => g.zipIdx.foldl (fun m v => mset (fun _ => 0) m v.2 (fAdd (mget (fun _ => 0) m v.2) v.1)) m
    if (s.upd.rowAccs.any fun a => a.table == id && a.row == x && a.tick == tick) then
      updMap s fun u => { u with rowAccs := u.rowAccs.map fun a => if a.table = id ∧ a.row = x ∧ a.tick = tick then { a with count := a.count + 1, acc := add a.acc } else a }
    else if !(s.upd.rowAccs.any fun a => a.table == id && a.row == x) &&
        decide (4194304 ≤ ((s.upd.rowAccs.map fun a => (a.table, a.row)).eraseDups).length) then
      event (bump1 s regUpdAccFull) regUpdEvents 4
    else updMap s fun u => { u with rowAccs := u.rowAccs ++ [⟨id, tick, x, ver, 1, add []⟩] }

/-- DONE of a device for a table's tick (R547). -/
def doneRows (s : State) (id tick dev : Nat) : State :=
  if tick < openTick s id then s
  else
    let s := updMap s fun u => { u with rowDone := if u.rowDone.contains (id, tick, dev) then u.rowDone else u.rowDone ++ [(id, tick, dev)] }
    if rugonUp s && allDone s ((s.upd.rowDone.filter fun d => d.1 == id && d.2.1 == tick).map fun d => d.2.2) then closeRows s id tick else s

/-- Bytes of a ring record (R545). -/
def ringRec (t : Table) : Nat := 32 * ((16 + 4 * t.width + 31) / 32)

/-- Drain one ring half of a table (R546). -/
def drainRing (s : State) (id tick : Nat) : State :=
  let t := tableGet s id
  let r := tblRuleGet s id
  let recs := rbRecs r.rule
  let half := r.ring + tick % 2 * (32 + recs * ringRec t)
  let head := readNat s half 8
  let at_ := fun i => half + 32 + i * ringRec t
  let (good, bad) := (List.range (min head recs)).partition fun i =>
    readNat s (at_ i + 8) 4 == 2 ^ 32 - 1 - readNat s (at_ i) 4
  let rows : List (Nat × Nat × List Nat) := good.map fun i =>
    (readNat s (at_ i) 5, readNat s (at_ i + 6) 2, (List.range t.width).map fun j => readNat s (at_ i + 16 + 4 * j) 4)
  let s := good.foldl (fun s i => memWrite s (at_ i + 8) (natLe 4 0)) s
  let skipped := bad.length + (head - recs)
  let s := if skipped = 0 then s else event (bump s regUpdRingSkip skipped) regUpdEvents 5
  let s := tblRulePut s id { r with drained := tick + 1 }
  let per := (65536 - 32) / (8 + 4 * max 1 t.width)
  let groups := (rows.map fun x => ((hashHome s t id x.1).1, x.2.1)).eraseDups
  let s := groups.foldl (fun s g =>
    let mine := rows.filter fun x => (hashHome s t id x.1).1 == g.1 && x.2.1 == g.2
    if g.1 = s.boot.dev then mine.foldl (fun s x => contribRow s id tick g.2 x.1 x.2.2) s
    else
      (List.range ((mine.length + per - 1) / max 1 per)).foldl (fun s k =>
        let part := (mine.drop (k * per)).take per
        post s 0x0D g.1 (gradHeader 2 0 id g.2 part.length tick 0 ++ part.flatMap fun x => natLe 8 x.1 ++ x.2.2.flatMap (natLe 4))) s) s
  let s := (otherDevs s).foldl (fun s d => post s 0x0D d (gradHeader 3 0 id t.curVer 0 tick 0)) s
  let s := doneRows s id tick s.boot.dev
  let s := memWrite s half (natLe 8 0)
  if rbHitch r.rule < 0x1000 then s else (signalHitch s (rbHitch r.rule)).2

/-- RING_DRAIN: at T+0 of tick n + 1 the rings of tick n are drained (R546). -/
def execRingDrain (s : State) : Out :=
  if !s.tsq.running ∨ s.tsq.tick = 0 ∨ !rugonUp s then .next s
  else .next (s.upd.tblRules.foldl (fun s e =>
    let r := tblRuleGet s e.1
    if r.rule.isEmpty ∨ s.tsq.tick ≤ r.drained then s else drainRing s e.1 (s.tsq.tick - 1)) s)

/-- GRADIENT_ROWS (R543, R547). -/
def execGradientRows (src tag : Nat) (body : List Byte) (s : State) : Out :=
  powered s <|
  let s := takeMsg s src tag 0x0D
  let id := fld body 2 2
  let t := tableGet s id
  let n := fld body 6 2
  let ver := fld body 4 2
  let size := 8 + 4 * t.width
  let recs := (List.range n).map fun i => (body.drop (32 + i * size)).take size
  let bad := recs.any fun r => fld r 5 3 ≠ 0 || decide (t.rows ≤ fld r 0 5) || (hashHome s t id (fld r 0 5)).1 ≠ s.boot.dev
  if 4096 ≤ id ∨ t.state = 0 ∨ fld body 0 1 ≠ 2 ∨ fld body 1 1 ≠ 0 ∨ !zeroAt body 0x10 16 ∨ body.length ≠ 32 + n * size ∨
      verAfter ver t.curVer ∨ bad then .next (badGrad s)
  else .next (recs.foldl (fun s r => contribRow s id (fld body 8 8) ver (fld r 0 5) (gradValues 0 t.width (r.drop 8))) s)

/-- GRADIENT_DONE: a DONE closes its layer step or its table tick once every device has sent one (R544, R547). The header does
not say which of the two a DONE is for. DESIGN CHOICE (log 38): it is taken for a layer of this device that still awaits the sender's DONE for that
step, else for a table of that id, but where a layer has the id too only for one of the last two ticks; a DONE of a closed step changes nothing. -/
def execGradientDone (src tag : Nat) (body : List Byte) (s : State) : Out :=
  powered s <|
  let s := takeMsg s src tag 0x0D
  let id := fld body 2 2
  let step := fld body 8 8
  let l := layerGet s id
  let ver := fld body 4 2
  let known := decide (id < 1024) && l.state != 0 && l.owner == s.boot.dev
  let badLayer := !known || verAfter ver l.curVer || verAfter l.resetVer ver
  let forLayer := known && !stepClosed l step && !(stepAcc s id step).done.contains src && (match stepAt l s.tsq.tick with
      | some k => decide (step ≤ k)
      | none => false)
  let table := decide (id < 4096) && (tableGet s id).state != 0
  let badTable := !table || verAfter ver (tableGet s id).curVer
  let forTable := table && (!known || decide (s.tsq.tick ≤ step + 2 ∧ step < s.tsq.tick))
  if fld body 0 1 ≠ 3 ∨ 1 < fld body 1 1 ∨ !zeroAt body 6 2 ∨ !zeroAt body 0x10 16 then .next (badGrad s)
  else if forLayer then if badLayer then .next (badGrad s) else .next (doneLayer s id step src)
  else if forTable then if badTable then .next (badGrad s) else .next (doneRows s id step src)
  else if badLayer && badTable then .next (badGrad s)
  else .next s

/-- ROW_TICK_TIMEOUT: at the settle point of tick n + 1 the home closes tick n for a table (R547). -/
def execRowTickTimeout (table : Nat) (s : State) : Out :=
  if !s.tsq.running ∨ s.tsq.tick = 0 ∨ (tableGet s table).state = 0 ∨ s.tsq.tick ≤ openTick s table ∨ !rugonUp s then .next s
  else .next (closeRows (advance s (settleAt s)) table (s.tsq.tick - 1))

/-! ### The layer form of VERSION (R557, R558) -/

/-- Free the memory reserved under a key. -/
def rangeFree (s : State) (key : Nat) : State := updMap s fun u => { u with ranges := u.ranges.filter fun r => r.1 ≠ key }

/-- Carry out a layer VERSION item (R558). A layer registered after its START_TICK pushes and closes no step that ended before its registration
(DESIGN CHOICE, log 38: R544 does not say). -/
def layerVersion (s : State) (i : List Byte) : State :=
  let id := fld i 2 2
  let l := layerGet s id
  match fld i 4 1 with
  | 0 =>
    if (l.next = 3 ∨ l.next = 2) ∧ l.nextVer = fld i 6 2 then
      layerPut (viewRecovered s (4096 + id)) id { l with state := if l.state = 3 then 3 else 2, curVer := l.nextVer, next := 0, bufSel := !l.bufSel, got := [], total := none }
    else s
  | 1 =>
    let s := rangeFree (rangeFree (rangeFree s (8192 + id)) (24576 + id)) (16384 + id)
    let s := { s with emb := { s.emb with greys := s.emb.greys.filter fun g => g.1 ≠ 4096 + id } }
    updMap (layerPut s id layerReset) fun u => { u with stepAccs := u.stepAccs.filter fun a => a.layer ≠ id }
  | 2 =>
    let sh := fld i 8 8
    let n := (bits sh 63 48 + 1) * (bits sh 47 32 + 1)
    let mine := fld i 0x14 2 % 1024 = s.boot.dev
    let l := { l with
      state := 1, next := 0, frozen := false, fallback := false, rows := bits sh 63 48 + 1, cols := bits sh 47 32 + 1
      fmt := bits sh 31 28, slicing := bits sh 27 26, gfmt := bits sh 25 25, stepTicks := fld i 0x10 4
      owner := fld i 0x14 2 % 1024, pushHitch := fld i 0x16 2, startTick := fld i 0x18 8
      rule := l.nextRule.getD l.rule, nextRule := none, early := [], steps := 0
      master := if mine then List.replicate n 0 else [], st1 := if mine then List.replicate n 0 else []
      st2 := if mine then List.replicate n 0 else [] }
    let step := (stepAt l s.tsq.tick).getD 0
    layerPut s id { l with pushed := step, nextStep := step, blocks := if mine then freshBlocks l else [] }
  | 3 => layerPut s id { l with frozen := true }
  | 4 => layerPut s id { l with frozen := false }
  | _ => changeOwner s id (fld i 0x14 2 % 1024)

end Sys2Proof.Machine
end

