-- ==== Sys2Proof/Machine/Keeper.lean ====
section
/-! DEFINITION. The keeper: measurements, signed objects, debug scopes, and the switch of a firmware image (17; 16 R622, R623). -/

namespace Sys2Proof.Machine

/-- Change the keeper. -/
def keepMap (s : State) (f : KeepUnit → KeepUnit) : State := { s with keep := f s.keep }

/-- Change the boot chain. -/
def bootMap (s : State) (f : BootUnit → BootUnit) : State := { s with boot := f s.boot }

/-- STAGE of the boot chain (16 R628, R643). -/
def stage (s : State) : Nat := fget s regBootStatus 15 12

/-! ### Measurements (17 R652, R657) -/

/-- A measurement register: 64 zero bytes until it is extended. -/
def mrGet (s : State) (n : Nat) : List Byte := (pfind s.keep.mrs n).getD (List.replicate 64 0)

/-- Extend MRn with a value (R657). -/
def mrExtend (s : State) (n : Nat) (v : List Byte) : State :=
  keepMap s fun k => { k with mrs := pput k.mrs n (shake256 (mrGet s n ++ v)) }

/-- The bytes of an ASCII string. -/
def ascii (x : String) : List Byte := x.toList.map fun c => BitVec.ofNat 8 c.toNat

/-- The unique device secret; once it has been erased every fuse of it is blown (17 R651, R669). -/
def udsBytes (s : State) : List Byte := (List.range 64).map fun i => if s.keep.udsErased then 0xFF else Config.uds i

/-- The seed of the identity key (R655). -/
def identitySeed (s : State) : List Byte := (shake256 (ascii "BMX-IDENTITY" ++ udsBytes s)).take 32

/-- The seed of the alias key for a keeper measurement (R655). -/
def aliasSeed (s : State) (meas : List Byte) : List Byte := (shake256 (ascii "BMX-ALIAS" ++ udsBytes s ++ meas)).take 32

/-- DEVICE_ID; it can no longer be derived in RMA (R655, R669, R675). -/
def deviceId (s : State) : Nat := if s.keep.udsErased then 0 else fld (shake256 (Config.keyGen (identitySeed s))) 0 8

/-- The state record that MR4 is extended with (R657). -/
def stateRecord (s : State) (scope ev : Nat) : List Byte :=
  natLe 1 s.keep.lifecycle ++ natLe 1 scope ++ natLe 1 ev ++ natLe 5 0 ++ natLe 8 (deviceId s)

/-- A debug event: 0 start, 1 unlock, 2 relock, 3 revoke (R657). -/
def debugEvent (s : State) (scope ev : Nat) : State := mrExtend s 4 (stateRecord s scope ev)

/-- An OBSERVE or BOUNDARY unlock relocks (R673). -/
def relock (s : State) : State :=
  if s.keep.unlockScope = 1 ∨ s.keep.unlockScope = 2 then
    debugEvent (keepMap s fun k => { k with unlockScope := 0, unlockUntil := 0 }) 0 2
  else s

/-- The measurement of an object (R657). -/
def measure64 (o : List Byte) : List Byte := shake256 (o.take (fld o 0x24 4))

/-- An object as the keeper keeps it. -/
def imageOf (o : List Byte) : FwImage := ⟨fld o 0x10 8, measure64 o, fld o 0xC 4, o⟩

/-- An object comes into force: the keeper keeps it and its measurement; kinds 1 KEEPER, 2 CONTROL, 3 SERVICE, 4 CONFIG, in the
keeper view's order keeper, configuration, control, service (16 R622; 17 R657). -/
def putInForce (s : State) (kind : Nat) (f : FwImage) : State :=
  let n := if kind = 1 then 0 else if kind = 4 then 1 else kind
  keepMap s fun k => { k with images := pput k.images kind f, inForce := pput k.inForce n f.meas }

/-- A keeper starts: the ROM derives its alias key, the identity key signs the alias certificate, and the keeper checks the identity certificate, which
carries no key that can be derived once the device secret has been erased (R655, R656, R669). -/
def keeperStart (s : State) : State :=
  let seed := aliasSeed s ((pfind s.keep.inForce 0).getD [])
  keepMap s fun k => { k with
    aliasSeed := seed, aliasCert := Config.aliasCert (identitySeed s) (Config.keyGen seed)
    certOk := !s.keep.udsErased && Config.certCarries Config.idCert (Config.keyGen (identitySeed s)) }

/-- Whether JTAG is open: in every life cycle but PRODUCTION, and there under an unlock. OBSERVE opens IDCODE, BYPASS, SAMPLE/PRELOAD and read-only
access, BOUNDARY opens EXTEST and the AC tests (R669, R673). -/
def jtagOpen (s : State) : Bool := s.keep.lifecycle != 1 || s.keep.unlockScope != 0

/-! ### Signed objects (16 R622, R623; 17 R653, R654) -/

/-- The SVN floor of a kind (R654). -/
def svnFloor (s : State) (kind : Nat) : Nat := mget (fun _ => 0) s.keep.svnFloor kind

/-- Whether two byte ranges are apart. -/
def apart (a n b m : Nat) : Bool := decide (a + n ≤ b) || decide (b + m ≤ a)

/-- Whether an object's header, layout and SVN pass (16 R623; 17 R654): all of R623 but its digest, key and signature. -/
def objectForm (s : State) (kind : Nat) (o : List Byte) : Bool :=
  let len := fld o 8 4
  let body := fld o 0x18 4
  let n := fld o 0x1C 4
  let key := fld o 0x20 4
  let sig := fld o 0x24 4
  let area := if kind = 1 then 2 ^ 20 else if kind = 2 then 15 * 2 ^ 20 else if kind = 3 then 16 * 2 ^ 20 else 64 * 2 ^ 20
  let most := if kind = 1 then 2 ^ 18 else if kind = 2 ∨ kind = 3 then 12 * 2 ^ 20 else 64 * 2 ^ 20 - 128 - 2592 - 4627
  fld o 0 4 == 0x4643584D && fld o 4 2 == 1 && fld o 6 1 == kind && zeroAt o 7 1 && zeroAt o 0x70 16 && decide (len ≤ area) &&
    len == o.length && body % 4096 == 0 && sig + 4627 == len && decide (128 ≤ body ∧ body + n ≤ len) && decide (128 ≤ key ∧ key + 2592 ≤ len) &&
    apart body n key 2592 && apart body n sig 4627 && apart key 2592 sig 4627 && decide (n ≤ most) && decide (svnFloor s kind ≤ fld o 0xC 4) &&
    (kind == 4 || zeroAt o 0x28 8)

/-- Whether a public key is one of the programmed root keys that is not revoked (17 R653): its slot. -/
def rootSlot (s : State) (key : List Byte) : Option Nat :=
  (List.range 4).find? fun i => !bit s.keep.revoked i && match pfind s.keep.rootHash i with
    | some h => h == shake256 key
    | none => false

/-! ### Firmware switches (R659-R661) -/

/-- The readiness entry of a staged image: 0x048 control, 0x049 service (16 R633). -/
def stagedIdx (kind : Nat) : Nat := 0x46 + kind

/-- Carry out a FW_SWITCH item (R659-R661). -/
def fwSwitch (s : State) (i : List Byte) : State :=
  let kind := fld i 1 1
  match pfind s.keep.staged kind with
  | some f =>
    if rdyState s (stagedIdx kind) == .ready && f.build == fld i 8 8 && f.meas.take 16 == (i.drop 0x10).take 16 then
      let old := pfind s.keep.images kind
      let s := putInForce s kind f
      let s := keepMap s fun k => { k with
        staged := pdel k.staged kind, named := k.named.filter (· ≠ kind), previous := if kind = 2 then old else k.previous }
      let s := mrExtend s kind f.meas
      let s := setUnit s (stagedIdx kind) .absent 0
      if kind = 2 then { s with ctrls := (List.range 20).foldl (fun m c =>
          if rdyState s (idxCtrl c) == .fenced then m
          else mset (fun _ => ctrlReset) m c { mget (fun _ => ctrlReset) m c with
            restart := if (mget (fun _ => ctrlReset) m c).restart = 0 then 3 else (mget (fun _ => ctrlReset) m c).restart }) s.ctrls }
      else keepMap s fun k => { k with serviceRestart := 1 }
    else event s regKeepEvents 1
  | none => event s regKeepEvents 1

/-- A keeper restart, or an object that fails, discards a staged object that is not READY (01 R43; 17 R662). -/
def discardStaged (s : State) : State :=
  [2, 3].foldl (fun s k =>
    if rdyState s (stagedIdx k) == .ready then s
    else setUnit (keepMap s fun x => { x with staged := pdel x.staged k, named := x.named.filter (· ≠ k) }) (stagedIdx k) .absent 0) s

end Sys2Proof.Machine
end

