-- ==== Sys2Proof/Machine/Requests.lean ====
section
/-! DEFINITION. Host requests and queue pairs: slots, the commit of a completion, and aborts (18 R685-R704). -/

namespace Sys2Proof.Machine

/-- Change the host interface. -/
def pciMap (s : State) (f : PciUnit → PciUnit) : State := { s with pci := f s.pci }

/-! ### Queue pairs (R685, R709-R712) -/

/-- A queue pair at reset. -/
def queueReset : QueuePair := ⟨0, 0, 0, 0, 0, 0, true, 0, 0, []⟩

/-- A queue pair. -/
def queueGet (s : State) (q : Nat) : QueuePair := mget (fun _ => queueReset) s.pci.queues q

/-- Put a queue pair. -/
def queuePut (s : State) (q : Nat) (x : QueuePair) : State :=
  pciMap s fun p => { p with queues := mset (fun _ => queueReset) p.queues q x }

/-- SIZE of a pair's rings. -/
def queueSize (s : State) (q : Nat) : Nat := 2 ^ fget s (regPciQCfg q) 31 27

/-- Entries of a completion queue that the host has not passed with CQ_HEAD. -/
def cqUnread (s : State) (q : Nat) : Nat :=
  let x := queueGet s q
  (x.cqTail + queueSize s q - x.cqHead) % max 1 (queueSize s q)

/-! ### Host memory -/

/-- Bytes of host memory; one nothing has written reads 0. -/
def hostBytes (s : State) (a : Nat) : Nat → List Byte
  | 0 => []
  | n + 1 => mget (fun _ => (0 : Byte)) s.hostMem a :: hostBytes s (a + 1) n

/-- The device writes host memory. -/
def hostWrite (s : State) (a : Nat) : List Byte → State
  | [] => s
  | b :: r => hostWrite { s with hostMem := mset (fun _ => (0 : Byte)) s.hostMem a b } (a + 1) r

/-- Whether the host interface may fetch, move data and signal (R680). -/
def dmaOn (s : State) : Bool := !s.pci.d3hot && s.pci.bme

/-! ### Requests (R690-R702) -/

/-- A request outstanding. -/
def reqGet (s : State) (id : Nat) : Option Request := pfind s.pci.requests id

/-- Put a request. -/
def reqPut (s : State) (id : Nat) (r : Request) : State := pciMap s fun p => { p with requests := pput p.requests id r }

/-- OP of a request. -/
def reqOp (r : Request) : Nat := fld r.entry 0 1
/-- ID of a request. -/
def reqId (r : Request) : Nat := fld r.entry 4 2
/-- A parameter word of a request, from 0. -/
def reqParam (r : Request) (i : Nat) : Nat := fld r.entry (8 + 8 * i) 8

/-- The device address of a record slot (R696). -/
def recAddr (s : State) (r : Request) : Nat := recordBase s + 32 * r.recSlot.getD 0
/-- The device address of a request's result slot, or 0 (R694, R696). -/
def resAddr (s : State) (r : Request) : Nat := match r.resSlot with
  | some o => poolBase s + o
  | none => 0

/-- Signal a completion queue's vector (R689). -/
def signalQueue (s : State) (q : Nat) : State :=
  let x := queueGet s q
  signal (queuePut s q { x with unsignalled := 0, firstAt := 0 }) (fget s (regPciQCfg q) 26 16)

/-- Write a completion entry, and signal its vector unless NO_IRQ or coalescing holds it back (R689, R700). -/
def writeEntry (s : State) (id : Nat) (r : Request) : State :=
  let q := r.queue
  let x := queueGet s q
  let ok := decide (r.status = 0)
  let e := natLe 8 id ++ natLe 2 (fld r.entry 2 2) ++ natLe 2 x.head ++ natLe 1 r.status ++ natLe 1 r.cause ++ natLe 1 r.taskStatus ++
    natLe 1 r.taskCause ++ natLe 4 (if ok then r.result else 0) ++ natLe 4 r.length ++ natLe 6 r.commitTick ++
    natLe 2 (if x.phase then 32768 else 0)
  let s := hostWrite s (rget s (regPciQCqbase q) + 32 * x.cqTail) e
  let last := decide (x.cqTail + 1 = queueSize s q)
  let noIrq := bit (fld r.entry 1 1) 1
  let n := if noIrq then x.unsignalled else x.unsignalled + 1
  let s := queuePut s q { x with
    cqTail := if last then 0 else x.cqTail + 1, phase := if last then !x.phase else x.phase, unsignalled := n
    firstAt := if x.unsignalled = 0 && !noIrq then s.now else x.firstAt }
  let cnt := fget s (regPciQCfg q) 7 0
  let us := fget s (regPciQCfg q) 15 8
  if noIrq then s
  else if (cnt = 0 ∧ us = 0) ∨ (cnt ≠ 0 ∧ cnt ≤ n) then signalQueue s q
  else s

/-- A request has committed: its slots are freed, it is outstanding no longer, and a DRAINING queue with nothing outstanding is DISABLED (R696, R711,
R712). -/
def freeReq (s : State) (r : Request) : State :=
  let s := pciMap s fun p => { p with
    recSlots := match r.recSlot with
      | some n => p.recSlots.filter (· ≠ n)
      | none => p.recSlots
    pool := match r.resSlot with
      | some o => pdel p.pool o
      | none => p.pool }
  let x := queueGet s r.queue
  queuePut s r.queue { x with outstanding := x.outstanding - 1, state := if x.state = 3 ∧ x.outstanding ≤ 1 then 0 else x.state }

/-- A request leaves. -/
def dropReq (s : State) (id : Nat) : State := pciMap s fun p => { p with requests := pdel p.requests id }

/-- The commit of a request with its status: its entry is written, or waits for D0 and Bus Master Enable (R680, R698). -/
def commitReq (s : State) (id : Nat) (r : Request) : State :=
  let s := if r.status = 5 then bump1 s regPciRejected else s
  let s := if r.status = 6 then rdyEvent (bump1 s regPciNotReady) 3 else s
  let s := freeReq s r
  let r := { r with stage := .due, commitTick := s.tsq.tick % 2 ^ 48, recSlot := none, resSlot := none }
  if r.silent then dropReq s id
  else if dmaOn s then writeEntry (dropReq s id) id r
  else reqPut s id r

/-- Complete a request at once. -/
def completeReq (s : State) (id : Nat) (r : Request) (status cause : Nat) : State := commitReq s id { r with status := status, cause := cause }

/-- The completion entries that are due are written, in order of request (R680). -/
def writeDue (s : State) : State :=
  if !dmaOn s then s
  else (s.pci.requests.filter fun e => e.2.stage == .due).foldl (fun s e => writeEntry (dropReq s e.1) e.1 e.2) s

/-- `n` bytes as the device copies them: free where they read detected-uncorrectable, which counts as any such read (12 R464). -/
def copyBytes (s : State) (a n : Nat) : List Byte × State :=
  if unitBad s a n then
    let (d, s) := drawN (badRead s a n) n
    ((List.range n).map fun j => Config.freeByte (d + j), s)
  else (readBytes s a n, s)

/-- Rows a device holds of a table in each channel's segment of a slot. -/
def slotRows (s : State) (t : Table) : Nat := segRows s t * (if t.mirror then 2 else 1)

/-- Where a COPY reads the row of a place of a channel's segment: its current location, where a RELOC entry puts it on this device, else the place
itself. For a row that has moved to another device that is the copy left at its hash home (08 R301; DESIGN CHOICE, log 33). -/
def copySource (s : State) (id c i : Nat) : Nat :=
  let t := tableGet s id
  let home := localAddr s c (t.base t.slot + i * t.stride)
  let p := if t.replicated then i * 192 + c else i * (192 * spread s t) + c * spread s t + s.boot.dev
  if segRows s t ≤ i ∨ t.rows ≤ p then home
  else match dirFind s id (unpermRow id t.rows p) 1 with
    | some e => if e.dev = s.boot.dev then e.addr else home
    | none => home

/-- The fill of a next slot: zero rows (mode 0) or the current slot's (mode 1); of a fill that stops early, the rows that the
draws from `pick` on choose (08 R297, R298, R301). -/
def fillSlot (s : State) (id mode : Nat) (pick : Option Nat) : State :=
  let t := tableGet s id
  (List.range 192).foldl (fun s c => (List.range (slotRows s t)).foldl (fun s i =>
    let on : Bool := match pick with
      | some d => Config.cancelPick (d + 192 * i + c)
      | none => true
    if !on then s
    else
      let (b, s) := if mode = 0 then (List.replicate t.stride 0, s) else copyBytes s (copySource s id c i) t.stride
      memWrite s (localAddr s c (t.base (1 - t.slot) + i * t.stride)) b) s) s

/-- The work of a request that is stopped before its completion: rows already written stay, and a pipeline's registration or
removal is withdrawn (08 R298; R698, R704). -/
def stopWork (s : State) (id : Nat) (r : Request) : State :=
  if r.stage != .running && r.stage != .dma then s
  else match reqOp r with
  | 2 =>
    let t := tableGet s (reqId r)
    if t.fill ≠ some id then s
    else
      let (d, s) := drawN s (192 * slotRows s t)
      let s := fillSlot s (reqId r) (reqParam r 0) (some d)
      tablePut s (reqId r) { tableGet s (reqId r) with fill := none }
  | 3 =>
    r.rows.foldl (fun s w =>
      let (d, s) := draw s
      if Config.cancelPick d then memWrite s w.1 w.2 else s) s
  | 0x30 => pciMap s fun p => { p with pipes := p.pipes.filter fun e => !(!e.2.active && e.2.regReq == id) }
  | 0x31 => pciMap s fun p => { p with pipes := p.pipes.map fun e => if e.2.unregReq = id then (e.1, { e.2 with unregistering := false, unregReq := 0 }) else e }
  | 0x32 => abortTasks s id
  | _ => s

/-- The DMA of a result stops where it stands: the bytes of the host's buffer are undefined then, and how many were written is free (R695, R698). -/
def stopDma (s : State) (r : Request) : Nat × State :=
  if r.stage != .dma then (0, s)
  else
    let n := reqParam r 1
    let (d, s) := drawN s (n + 1)
    (Config.freeNat (d + n) % (n + 1), hostWrite s (reqParam r 0) ((List.range n).map fun i => Config.freeByte (d + i)))

/-- An abort reaches the arbiter of a request that has neither committed nor asked to: it wins, its work stops, its tasks are
aborted, and its completion is due to be granted (R697, R698). -/
def abortReq (s : State) (id : Nat) (r : Request) (cause : Nat) : State :=
  let s := bump1 s regPciAbortWon
  let s := if cause = 3 ∨ cause = 4 then event (bump1 s regPciDeadline) regPciEvents 1 else s
  let (len, s) := stopDma s r
  reqPut (stopWork s id r) id { r with aborted := true, stage := .arbiter, status := 3, cause := cause, rows := [], length := len }

/-- Whether an abort can still win against a request (R698). -/
def abortable (r : Request) : Bool := !r.aborted && r.stage != .arbiter && r.stage != .due

end Sys2Proof.Machine
end

