-- ==== Sys2Proof/Machine/Faults.lean ====
section
/-! DEFINITION. Grey state, fencing, restarts and recoveries, and the readiness map's commands (15; 16 R633-R635). -/

namespace Sys2Proof.Machine

/-! ### Entering grey (R569, R586, R591; 10 R407; 11 R438) -/

/-- The unit at a map index went GREY in an apply window: each RELEASE item of the next tick's plan that names a core of it, and was not skipped
before, is skipped: the tasks it has entered behind the gate and the descriptors it still holds go, and a record is filed (01 R40; 02 R66). -/
def skipNamed (s : State) (i : Nat) : State :=
  match s.tsq.take with
  | none => s
  | some p => ((planItems p).filter fun k => itemKind k.2 == 1 && bit (fld k.2 1 1) 0).foldl (fun s k =>
      match physOf s (fld k.2 2 2) with
      | none => s
      | some q =>
        let above := [0, idxDie (coreDie q), idxCore q]
        if !above.contains i || (above.filter (· != i)).any (fun u => rdyState s u == .grey) then s
        else if !itemOk s k.2 then s
        else
          skipGrey { s with sch := { s.sch with
            tasks := s.sch.tasks.filter fun t => !(t.2.gated && t.2.state == .ready && t.2.item == some k.1)
            releases := s.sch.releases.filter fun r => r.item != some k.1 } } k (unitCode s 2 q)) s

/-- What follows when the unit at a map index has entered GREY: the tasks on it end, the barriers it takes part in break, a
compute die's scheduler entries are taken over at the next T+0, and a port's own grey is recorded. -/
def greyEffects (s : State) (i : Nat) : State :=
  let u := rdyCode s i
  let s := skipNamed s i
  if i = 0 then breakWhere (endGrey s (fun _ => true) 0xC) (fun _ => true) u
  else if i ≤ 4 then
    let d := i - 1
    let s := endGrey s (fun t => coreDie t.pcore == d) 0xC
    let s := breakWhere s (fun x => (x.pcores.any fun p => coreDie p == d) ||
      (List.range 4).any fun j => bit x.def_.ctrl (4 * d + j)) u
    { s with sch := { s.sch with takeover := if s.sch.takeover.contains d then s.sch.takeover else s.sch.takeover ++ [d] } }
  else if i = 5 then breakWhere s (fun x => (List.range 4).any fun j => bit x.def_.ctrl (16 + j)) u
  else if 0x10 ≤ i ∧ i ≤ 0x23 then breakWhere s (fun x => bit x.def_.ctrl (i - 0x10)) u
  else if 0x1C0 ≤ i ∧ i ≤ 0x1CF then report s 0x62 3 u 0
  else if 0x200 ≤ i ∧ i ≤ 0x30F then
    breakWhere (endGrey s (fun t => t.pcore == i - 0x200) 0xC) (fun x => x.pcores.contains (i - 0x200)) u
  else s

/-- A unit enters GREY, for a fault of its own or by force; a FENCED unit stays FENCED, and a forced one takes its own fault's reason, whose recovery it
will run (R569, R570, R583). -/
def toGrey (s : State) (i kind : Nat) (own : Bool) : State :=
  let st := rdyState s i
  if st == .fenced then s
  else
    let s := if st == .grey then s else greyEffects (setUnit s i .grey kind) i
    let e := rdyGet s i
    if own then rdyPut s i { e with
      reason := if e.ownFault then e.reason else kind, ownFault := true, recovered := false, confirmed := false, recAt := 0 }
    else s

/-! ### Cores (R576-R583) -/

/-- A core is fenced: its strands stop, its tasks end, its barriers break, and where it holds a logical number a FENCE item
joins the next apply window (R578, R582). -/
def fenceCore (s : State) (p kind : Nat) : State :=
  if rdyState s (idxCore p) == .fenced then s
  else
    let s := bump1 (setUnit s (idxCore p) .fenced kind) regFltFenced
    let s := breakWhere (endGrey s (fun t => t.pcore == p) 0xA) (fun x => x.pcores.contains p) (unitCode s 2 p)
    match logicalOf s p with
    | some l => telPut s l { telGet s l with fenced := true }
    | none => s

/-- The FENCE item of a core fenced by the device itself; SPARE is chosen when the item is carried out (R578, R580). -/
def queueFence (s : State) (p : Nat) : State :=
  match logicalOf s p with
  | some l => { s with tsq := { s.tsq with fences := s.tsq.fences ++ [⟨0, l, p, 0xFFFF⟩] } }
  | none => s

/-- The READY core without a logical number that comes first on a die (R580). -/
def spareOf (s : State) (die : Nat) : Option Nat :=
  ((List.range 68).map (68 * die + ·)).find? fun p => rdyState s (idxCore p) == .ready && (logicalOf s p).isNone

/-- The logical cores of a die that a READY core holds and that no other such core's load is below (09 R368). -/
def leastLoaded (s : State) (die : Nat) : List Nat :=
  let ls := ((List.range 64).map (64 * die + ·)).filter fun l =>
    match physOf s l with
    | some p => rdyState s (idxCore p) == .ready
    | none => false
  ls.filter fun l => ls.all fun m => decide (depthOf s l ≤ depthOf s m)

/-- A number that no core of its die holds any more: the affinity buckets and the fragments that name it are rewritten to the
least-loaded cores of its die (09 R368). -/
def rewriteCores (s : State) (l : Nat) : State :=
  let ls := leastLoaded s (l / 64)
  if ls.isEmpty then s
  else
    let pick := fun (j : Nat) => ls.getD (j % ls.length) l
    let aff := (List.range 4096).foldl (fun m b => if mget (fun b => b % 256) m b = l then mset (fun b => b % 256) m b (pick b) else m) s.plc.affinity
    let s := plcMap s fun p => { p with affinity := aff }
    s.plc.hubs.foldl (fun s h => match listAt s h.1 with
      | some (x, _) => (List.range x.blocks).foldl (fun s f =>
          let e := h.1 + 0x20 + 32 * f
          if readNat s (e + 0xE) 2 = l then memWrite s (e + 0xE) (natLe 2 (pick f)) else s) s
      | none => s) s

/-- The logical number moves to the spare, or is held by no core (R580). -/
def renumber (s : State) (l p : Nat) (spare : Option Nat) : State :=
  match spare with
  | some q =>
    let s := { s with boot := { s.boot with coreMap := pput s.boot.coreMap l q, coreRecordDirty := true } }
    report (remapBarriers s) 0x12 2 (unitCode s 2 p) (l + 65536 * q)
  | none =>
    let s := { s with boot := { s.boot with coreMap := pdel s.boot.coreMap l, coreRecordDirty := true } }
    rehome (rewriteCores (report (remapBarriers s) 0x13 6 (unitCode s 1 (coreDie p)) l) l)

/-- Carry out a FENCE item that the tick sequencer added (R578, R580). -/
def runFence (s : State) (f : FenceItem) : State :=
  if logicalOf s f.fenced ≠ some f.lcore then s else renumber s f.lcore f.fenced (spareOf s (coreDie f.fenced))

/-- Carry out a FENCE item of a plan: the core is fenced now, and its number moves (R579-R582). A spare that is GREY stops the
item (01 R40); one that cannot take the number leaves the number unheld. FENCE_ONLY fences a spare; an item whose LCORE its core does not hold, and a
FENCE_ONLY of a core that holds a number, is skipped (DEDUCED, log 41). -/
def fenceItem (s : State) (k : Nat × List Byte) : State :=
  let i := k.2
  if !itemOk s i then skipItem s k
  else
    let l := fld i 2 2
    let p := fld i 4 2
    let q := fld i 6 2
    if fld i 1 1 = 2 then (if (logicalOf s p).isSome then skipItem s k else fenceCore s p 0x12)
    else if logicalOf s p ≠ some l then skipItem s k
    else if fld i 1 1 = 0 ∧ greyAt s (idxCore q) then skipGrey s k (unitCode s 2 q)
    else
      let s := fenceCore s p 0x12
      let ok := fld i 1 1 == 0 && coreDie q == coreDie p && rdyState s (idxCore q) == .ready && (logicalOf s q).isNone
      renumber s l p (if ok then some q else none)

/-- CORE_CHECK: a core's self-check fails and fences it at once: 1 scratchpad, 2 parity, 3 engine. 0 stands for a single-bit scratchpad error, which is
corrected and counted only (R576, R578; DESIGN CHOICE, log 41: no other row brings one). -/
def execCoreCheck (core check : Nat) (s : State) : Out :=
  let st := rdyState s (idxCore core)
  if 272 ≤ core ∨ st == .absent ∨ st == .fenced then .next s
  else if check = 0 then let c := coreGet s core; .next (corePut s core { c with corrections := c.corrections + 1 })
  else
    let s := report s 0x10 2 (unitCode s 2 core) check
    .next (queueFence (fenceCore s core 0x10) core)

/-- HB_TICKS (R605). -/
def hbTicks (s : State) : Nat := fget s regFltTimeouts 7 4
/-- DIE_TICKS. -/
def dieTicks (s : State) : Nat := fget s regFltTimeouts 11 8
/-- STALL_TICKS. -/
def stallTicks (s : State) : Nat := fget s regFltTimeouts 17 12
/-- DEV_TICKS. -/
def devTicks (s : State) : Nat := fget s regFltTimeouts 23 18

/-- Whether a core has missed HB_TICKS heartbeats in a row (R577). -/
def heartbeatLost (s : State) (core : Nat) : Bool := decide (0 < hbTicks s ∧ hbTicks s ≤ (coreGet s core).hbMissed)

/-- A core whose heartbeats are lost is fenced by the health unit of its die (R577, R578). -/
def heartbeatFence (s : State) (core : Nat) : State :=
  let r := reportFull s 0x11 0 2 (unitCode s 2 core) (unitCode s 1 (coreDie core)) false (coreGet s core).hbMissed
  queueFence (fenceCore r.2 core 0x11) core

/-- CORE_HEARTBEAT: the last of HB_TICKS heartbeats in a row is missed, and the core is fenced (R577). The apply point itself does so as it counts; the
command is for a core whose count has come this far otherwise, for one when the image's HB_TICKS was loaded. -/
def execCoreHeartbeat (core : Nat) (s : State) : Out :=
  if 272 ≤ core ∨ !s.tsq.running ∨ rdyState s (idxCore core) ≠ .ready ∨ greyAt s (idxCore core) ∨ !heartbeatLost s core then .next s
  else .next (heartbeatFence s core)

/-- At the settle point every READY core outside a grey die sends its token, unless its count stands still under a READY
strand (R577). -/
def sendHeartbeats (s : State) : State :=
  (List.range 272).foldl (fun s p =>
    if rdyState s (idxCore p) ≠ .ready ∨ greyAt s (idxCore p) then s
    else
      let c := coreGet s p
      let n := rget s (regCorIssueCnt p)
      let busy := (List.range 64).any fun j => (hartAt s (64 * p + j)).st == .ready
      corePut s p { c with hbSent := c.hbFirst || n != c.hbIssue || !busy, hbIssue := n, hbFirst := false }) s

/-- At the apply point the health units count the tokens that did not come, and fence a core that has missed HB_TICKS of them in a row (R577). -/
def countHeartbeats (s : State) : State :=
  (List.range 272).foldl (fun s p =>
    if rdyState s (idxCore p) ≠ .ready ∨ greyAt s (idxCore p) then s
    else
      let c := coreGet s p
      let s := corePut s p { c with hbMissed := if c.hbSent then 0 else c.hbMissed + 1, hbSent := false }
      if heartbeatLost s p then heartbeatFence s p else s) s

/-! ### Control cores (R584, R590, R591) -/

/-- CTRL_CORE_FAULT: a control core faults (R584). -/
def execCtrlCoreFault (k cause : Nat) (s : State) : Out :=
  let st := rdyState s (idxCtrl k)
  if 20 ≤ k ∨ st == .absent ∨ st == .fenced then .next s else .next (ctrlFault s k cause)

/-- The measurement of the control image in force, and that of the previous one where the keeper has one (R591; 17 R657). -/
def imageInForce (s : State) : List Byte := ((pfind s.keep.images 2).map (·.meas)).getD []

/-- The previous verified control image, or the one in force where there is none (R591). -/
def imageBefore (s : State) : List Byte := (s.keep.previous.map (·.meas)).getD (imageInForce s)

/-- Control cores restart at T+0, with their local memory cleared, from the image in force or the previous one (R573, R584, R590, R591; 17 R660): 1 and 2 count as restarts of a fault, a stall or the
watchdog, 3 is that of a control switch (R614). -/
def restartCtrls (s : State) : State :=
  (List.range 20).foldl (fun s k =>
    let c := ctrlGet s k
    if c.restart = 0 ∨ rdyState s (idxCtrl k) == .fenced then s
    else
      let n := 17408 + k
      let s := hartSet (departLatch s n) n { hartReset with st := .ready }
      let s := ctrlPut s k { c with localMem := [], restart := 0, image := if c.restart = 2 then imageBefore s else imageInForce s }
      if c.restart = 3 then s else bump1 s regFltCtrlRestart) s

/-- Every control core that is not FENCED restarts at the next T+0: 1 from the image in force, 2 from the previous one. -/
def restartAll (s : State) (how : Nat) : State :=
  (List.range 20).foldl (fun s k => if rdyState s (idxCtrl k) == .fenced then s else ctrlPut s k { ctrlGet s k with restart := how }) s

/-- CONTROL_STALL: HOLD_TICKS has reached STALL_TICKS (R590). -/
def execControlStall (s : State) : Out :=
  if !inApply s ∨ s.tsq.holdTicks ≠ stallTicks s then .next s
  else .next (restartAll (report s 0x31 4 (unitCode s 10 1) s.tsq.holdTicks) 1)

/-- DEVICE_WATCHDOG: HOLD_TICKS has reached DEV_TICKS, and the device goes GREY (R591). -/
def execDeviceWatchdog (s : State) : Out :=
  if !inApply s ∨ s.tsq.holdTicks < devTicks s ∨ (devGrey s ∧ (rdyGet s 0).ownFault) then .next s
  else
    let s := report s 0x32 3 (unitCode s 0 0) s.tsq.holdTicks
    .next (restartAll (toGrey s 0 0x32 true) 2)

/-! ### Dies (R585-R589) -/

/-- DIE_TIMEOUT: DIE_TICKS tokens of a compute die or the Rugon die are missing (R585). -/
def execDieTimeout (die : Nat) (s : State) : Out :=
  if 6 ≤ die ∨ die = 4 ∨ rdyState s (idxDie die) ≠ .ready then .next s
  else
    let s := report s 0x20 3 (unitCode s 1 die) (dieTicks s)
    .next (toGrey s (idxDie die) 0x20 true)

/-- The map indices of the units whose reports a die's restart awaits (R588): the cores and channels of a compute die, the slow
tier for the Rugon die. -/
def dieUnits (die : Nat) : List Nat :=
  if die < 4 then (List.range 68).map (fun c => idxCore (68 * die + c)) ++ (List.range 48).map fun c => idxChan (48 * die + c)
  else [0x3B]

/-- The registers of a die's own units go back to their reset values: the COR windows but for the image's COR_GAT_CFG, and the MEM_CH windows of a compute
die; the UPD block of the Rugon die (00 R10; R588). What a channel's other registers show is reset too: its test, its temperature, its cap
and its lanes (12 R478, R483). -/
def resetDieRegs (s : State) (die : Nat) : State :=
  if die = 5 then resetRegs s 0x3400000 0x3500000 fun _ => false
  else
    let s := resetRegs s (0x2000000 + 0x10000 * 68 * die) (0x2000000 + 0x10000 * 68 * (die + 1)) fun a => a % 0x10000 == 0x100
    let s := resetRegs s (0x1400000 + 0x1000 * 48 * die) (0x1400000 + 0x1000 * 48 * (die + 1)) fun _ => false
    (List.range 48).foldl (fun s c => let ch := chanGet s (48 * die + c); chanPut s (48 * die + c) { ch with
      testRun := none, result := 0, fails := 0, position := 0, temp := 0, cap := 0, nextCap := 0, lanes := 0, refresh2x := false }) s

/-- A grey die is reset alone: its units' registers are reset, its cores train and test, its control cores test and load their firmware again (DEDUCED,
log 41), its channels are retrained as grey ones, those that were GREY before among them, its fenced cores stay fenced (00 R10; R583, R588). -/
def restartDie (die : Nat) (s : State) : State :=
  let s := resetDieRegs (bump1 (rdyPut s (idxDie die) { rdyGet s (idxDie die) with released := true }) regFltDieRestart) die
  if die = 5 then setUnit s 0x3B .training 0
  else
    let s := (List.range 68).foldl (fun s c =>
      let p := 68 * die + c
      let st := rdyState s (idxCore p)
      if st == .absent ∨ st == .fenced ∨ (st == .grey ∧ (rdyGet s (idxCore p)).forced) then s
      else corePut (setUnit s (idxCore p) .training 0) p coreReset) s
    let s := (List.range 4).foldl (fun s j =>
      let k := 4 * die + j
      let st := rdyState s (idxCtrl k)
      if st == .absent ∨ st == .fenced ∨ st == .grey then s
      else ctrlPut (hartSet (departLatch (setUnit s (idxCtrl k) .testing 0) (17408 + k)) (17408 + k) hartReset) k ctrlReset) s
    (List.range 48).foldl (fun s c =>
      let i := idxChan (48 * die + c)
      let st := rdyState s i
      let ch := chanGet s (48 * die + c)
      if st == .absent ∨ st == .fenced ∨ ch.lost then s
      else if st == .grey then
        chanPut (rdyPut s i { rdyGet s i with ownFault := true, recovered := false, confirmed := false, recAt := 0 }) (48 * die + c) { ch with worn := true }
      else greyUnit s i 0x20) s

/-- DIE_RESTART: a grey die restarts, unless a command or its temperature holds it GREY (R588; 20 R751). -/
def execDieRestart (die : Nat) (s : State) : Out :=
  let e := rdyGet s (idxDie die)
  if 6 ≤ die ∨ die = 4 ∨ e.state ≠ .grey ∨ e.forced ∨ e.released ∨ e.recovered ∨ s.elec.overtemp.contains die then .next s
  else .next (restartDie die s)

/-- Dies whose restart is under way set RECOVERED once all that it awaits is READY or FENCED (R588). -/
def diesRecover (s : State) : State :=
  [0, 1, 2, 3, 5].foldl (fun s d =>
    let e := rdyGet s (idxDie d)
    if e.state == .grey && e.released && (dieUnits d).all fun i => rdyState s i == .ready || rdyState s i == .fenced then
      setRecovered s (idxDie d)
    else s) s

/-- The shadow of a die's scheduler unit: the entries of its ready lists, its re-run area and its delay list, which stand in usable HBM of quadrant
Q(d xor 2) at all times. The spec gives the area neither an address nor a layout: it is held as the entries themselves, which outlive the die
(R586; DESIGN CHOICE, log 41). -/
def shadow (s : State) (d : Nat) : List (Nat × Task) :=
  s.sch.tasks.filter fun e => e.2.die == d && (e.2.state == .ready || e.2.state == .rerun || e.2.state == .delayed)

/-- At T+0 the scheduler units take over the shadows of the dies that have gone GREY: what has not started enters the lists
that R387 names, in order, and where both dies of a pair are GREY the entries are lost (R586). -/
def takeOver (s : State) : State :=
  let ds := s.sch.takeover
  let s := { s with sch := { s.sch with takeover := [] } }
  ds.foldl (fun s d =>
    let mine := shadow s d
    if mine.isEmpty then s
    else if rdyState s (idxDie (Nat.xor d 2)) == .grey then
      let s := { s with sch := { s.sch with tasks := s.sch.tasks.filter fun e => !mine.any fun m => m.1 == e.1 } }
      let s := report s 0x21 1 (unitCode s 1 d) mine.length
      ((mine.map (·.2.req)).eraseDups).foldl (fun s q => match reqGet s q with
        | some r => if abortable r then abortReq s q r 4 else s
        | none => s) s
    else mine.foldl (fun s e =>
      let (id, t) := e
      let (l, lost) := target s t.desc id none false
      match t.state with
      | .delayed => taskPut s id { t with die := Nat.xor d 2 }
      | .rerun => s
      | _ => noteDepth (taskPut (prefLost s lost) id { t with lcore := l, die := dieOf s l, inRerun := false, preferLost := lost }) l) s) s

/-! ### Reports, acknowledgement and recovery (R571, R600-R603) -/

/-- FAULT_REPORT: a report reaches the aggregator, which is in reset while PWRGOOD is low (R600, R601; 16 R615). -/
def execFaultReport (kind cls action subject reporter : Nat) (ack : Bool) (detail : Nat) (s : State) : Out :=
  if !s.boot.pwrgood then .next s
  else .next (reportFull s (kind % 2 ^ 16) (cls % 256) (action % 256) (subject % 2 ^ 64) (reporter % 2 ^ 64) ack detail).2

/-- UNIT_RECOVERY_DONE: the recovery of a GREY core or port completes: its self-test, or its retraining and marker check. The device's completes at a
hand-over, a channel's with its pass or its clearing, a restarted die's with its units, and a forced entry of any other kind needs none (R570, R571,
R588, R591; 12 R472, R474). -/
def execUnitRecoveryDone (unit : Nat) (s : State) : Out :=
  if !idxValid unit ∨ unit < 0x1C0 then .next s else .next (setRecovered s unit)

/-- FLT_ACK: the host acknowledges a pending record; the action that awaits it goes on, and a further record becomes pending
(R603; 12 R474). -/
def execFltAck (seq : Nat) (s : State) : Out :=
  if !s.flt.pendAck.contains seq then .next s
  else
    let s := { s with flt := { s.flt with
      pendAck := s.flt.pendAck.filter (· ≠ seq) ++ s.flt.overAck.take 1, overAck := s.flt.overAck.drop 1 } }
    .next ((s.chans.filter fun c => c.2.clearHeld && c.2.lost && c.2.lostSeq == seq).foldl (fun s c => startClear s c.1) s)

/-! ### RDY_CMD (16 R635) -/

/-- The result of a command goes into its source's view of RDY_CMD_RES: 1 DONE, 2 REFUSED (16 R635, R639). -/
def rdyResult (s : State) (source : Nat) (ok : Bool) : State :=
  { s with boot := { s.boot with rdyRes := pput s.boot.rdyRes source (if ok then 1 else 2) } }

/-- Whether a readiness entry may be forced GREY: the device to the slow tier, a channel, a port or a core (16 R635). -/
def forcible (i : Nat) : Bool :=
  idxValid i && (decide (i ≤ 0x3B) || decide (0x100 ≤ i))

/-- GREY: management forces a unit into GREY, but not while it restarts (01 R39, R42; R570; 16 R635). -/
def execGrey (source unit : Nat) (s : State) : Out :=
  powered s <|
  if source ≠ 1 ∨ s.keep.restarting ∨ !forcible unit ∨ rdyState s unit == .absent then .next (rdyResult s source false)
  else
    let s := report s 0x91 3 (rdyCode s unit) 1
    let s := rdyPut s unit { rdyGet s unit with forced := true, recovered := false, confirmed := false, recAt := 0 }
    .next (rdyResult (toGrey s unit 0x91 false) 1 true)

/-- The recovery of a forced unit begins once the force is withdrawn; a fault of its own has a recovery of its own (R570). -/
def beginRecovery (s : State) (i : Nat) : State :=
  let e := rdyGet s i
  if e.state ≠ .grey ∨ e.ownFault then s
  else if 0x100 ≤ i ∧ i < 0x1C0 then verifyPass s (i - 0x100)
  else if (1 ≤ i ∧ i ≤ 4) ∨ i = 6 then s
  else rdyPut s i { e with released := true }

/-- RELEASE_FORCE: management withdraws its force, but not while it restarts (01 R42; R570; 16 R635). -/
def execReleaseForce (source unit : Nat) (s : State) : Out :=
  powered s <|
  if source ≠ 1 ∨ s.keep.restarting ∨ !idxValid unit ∨ !(rdyGet s unit).forced then .next (rdyResult s source false)
  else
    let s := report s 0x91 0 (rdyCode s unit) 0
    let s := if unit = 0 ∧ s.keep.unlockScope = 2 then relock s else s
    let s := rdyPut s unit { rdyGet s unit with forced := false }
    .next (rdyResult (beginRecovery s unit) 1 true)

/-- Whether the firmware a unit runs has the measurement of an image that the keeper has verified for it, in force or before; a unit other than a
control core runs none (R572). -/
def measuredFirmware (s : State) (unit : Nat) : Bool :=
  !(decide (0x10 ≤ unit ∧ unit ≤ 0x23)) ||
    let m := (ctrlGet s (unit - 0x10)).image
    m == imageInForce s || m == imageBefore s

/-- CONFIRM: the keeper confirms the exit of a unit that has been RECOVERED for a whole tick, and whose firmware is the one verified for it. A record that
named it since has cleared RECOVERED, which a recovery sets only when its self-tests have passed (R572; 16 R635). -/
def execConfirm (source unit : Nat) (s : State) : Out :=
  powered s <|
  let e := rdyGet s unit
  if source ≠ 2 ∨ !idxValid unit ∨ s.keep.restarting ∨ (unit = 0 ∧ s.keep.lifecycle = 3) ∨ !e.recovered ∨ e.forced ∨ e.state ≠ .grey ∨
      s.now < e.recAt + period s ∨ !measuredFirmware s unit then
    .next (rdyResult s source false)
  else .next (rdyResult (rdyPut s unit { e with confirmed := true }) 2 true)

/-- At an apply point the units whose force was withdrawn and that need no recovery set RECOVERED (R570). -/
def releasedRecover (s : State) : State :=
  (s.rdy.filter fun e => e.2.released && e.2.state == .grey && e.1 ≠ 0 && decide (e.1 < 0x100) && !(decide (1 ≤ e.1) && decide (e.1 ≤ 4)) && e.1 ≠ 6).foldl
    (fun s e => setRecovered s e.1) s

/-- In the switch stage each confirmed unit becomes READY, a port as one that its markers make READY does (R571; 13 R519, R529). -/
def greyExit (s : State) : State :=
  (s.rdy.filter fun e => e.2.confirmed && e.2.recovered && e.2.state == .grey).foldl (fun s e =>
    let s := rdyEvent (if 0x1C0 ≤ e.1 ∧ e.1 ≤ 0x1CF then portReady s (e.1 - 0x1C0) else setUnit s e.1 .ready 0) 2
    let s := rdyPut s e.1 { rdyGet s e.1 with ownFault := false, released := false }
    let s := if 0x200 ≤ e.1 then corePut s (e.1 - 0x200) { coreGet s (e.1 - 0x200) with hbMissed := 0, hbFirst := true } else s
    report s 0x92 5 (rdyCode s e.1) (s.tsq.tick - e.2.tick)) s

/-- FINAL is set in every open record, and the tick's pairs close (R600). -/
def finalRecords (s : State) : State :=
  let mark := fun (ring : List (Nat × FaultRec)) (n : Nat) => match pfind ring (n % 4096) with
    | some r => if r.seq = n then pput ring (n % 4096) { r with final := true } else ring
    | none => ring
  let ns := s.flt.unfinal ++ s.flt.opens.map (·.2.2) ++ s.flt.ovfOpens.map (·.2)
  { s with flt := { s.flt with ring := ns.foldl mark s.flt.ring, opens := [], ovfOpens := [], unfinal := [] } }

/-! ### Veto grey (02 R64; R592) -/

/-- A vetoed item whose veto is not confirmed: its table version or layer goes GREY until its next switch, and a cross-device
MIGRATE's destination channel here until a later plan reconciles it (02 R64; R592). -/
def vetoGrey (s : State) (i : List Byte) : State :=
  let note := fun (s : State) (u : Nat) => report s 0x35 3 u (itemKind i)
  let table := fun (s : State) (t : Nat) =>
    let x := tableGet s t
    if x.state = 0 then s else note (viewGrey (tablePut s t { x with state := 3 }) t) (unitCode s 7 t)
  match itemKind i with
  | 7 =>
    if fld i 1 1 = 0 then table s (fld i 2 2)
    else
      let l := layerGet s (fld i 2 2)
      if l.state = 0 then s else note (viewGrey (layerPut s (fld i 2 2) { l with state := 3 }) (4096 + fld i 2 2)) (unitCode s 8 (fld i 2 2))
  | 5 =>
    let s := table s (fld i 2 2)
    if fld i 6 2 = s.boot.dev ∧ rdyState s (idxChan (fld i 0xD 1)) == .ready then
      note (greyUnit s (idxChan (fld i 0xD 1)) 0x35) (unitCode s 4 (fld i 0xD 1))
    else s
  | 6 => table s (fld i 2 2)
  | _ => s

/-- Units that a veto put into GREY set RECOVERED at the switch stage of a later sealed plan that reconciles them: the one whose switch recovers the
table that the same veto put into GREY, as a table of the same tick, or one after it; one with no such table, at the next sealed plan (R592; DESIGN
CHOICE, log 41: R592 does not say which switch reconciles a channel). -/
def vetoRecover (s : State) : State :=
  (s.rdy.filter fun e => e.2.state == .grey && e.2.ownFault && e.2.reason == 0x35 && decide (e.2.tick < s.tsq.tick) &&
      s.emb.greys.all fun g => g.2.1 != e.2.tick || g.2.2 != 0).foldl
    (fun s e => setRecovered s e.1) s

end Sys2Proof.Machine
end

