-- ==== Sys2Proof/Machine/Commit.lean ====
section
/-! DEFINITION. The commit stage, a table's VERSION item, the GRANT item, and the space that tables and layers reserve (08
R289-R306, R317-R321; 09 R364; 13 R498; 14 R536, R559). -/

namespace Sys2Proof.Machine

/-! ### Committing rows (08 R317-R319; 09 R364) -/

/-- Rows the window's budget still allows (08 R317, R328). -/
def commitLeft (s : State) : Nat := fget s regEmbCfg 41 20 - s.mgmt.tickCommits

/-- The window's budget stops a COMMIT or COMMIT_REPL item (08 R318; 09 R364). -/
def commitCut (s : State) : State := mgmtMap (event (bump1 s regEmbBudgetCut) regEmbEvents 1) fun m => { m with tickCuts := m.tickCuts + 1 }

/-- Commit one staged entry: the row's current location and every within-device replica are written as one step, and the entry is freed; that of
a restore clears the row's mark, any other leaves it (08 R317, R319, R324, R326). -/
def commitEntry (s : State) (id : Nat) (e : StageEntry) : State :=
  let t := tableGet s id
  let s := tablePut s id { t with fifo := t.fifo.filter fun x => x.row ≠ e.row }
  match rowHere s id e.row with
  | none => s
  | some a =>
    let copies := match dirFind s id e.row 2 with
      | some d => d.copies.filter (· ≠ 0)
      | none => []
    let s := ((a :: copies).eraseDups).foldl (fun s b => countRowWrite (commitWrite s b e.data id e.row) b id) s
    let s := bump1 s regEmbCommitRows
    let s := if e.restore then bump1 (setMark s id e.row none) regEmbRestoreCnt else s
    mgmtMap s fun m => { m with tickCommits := m.tickCommits + 1 }

/-- Entries from the head of a table's FIFO: the stage's reach and the item's ROWS left, and whether the item has ended
(08 R317). -/
def commitRows (id : Nat) : Nat → Nat → State → Nat × Nat × Bool × State
  | 0, reach, s => (reach, 0, true, s)
  | n + 1, reach, s =>
    match (tableGet s id).fifo with
    | [] => (reach, n + 1, true, s)
    | e :: _ =>
      if commitLeft s = 0 then (reach, n + 1, true, commitCut s)
      else if reach = 0 then (0, n + 1, false, s)
      else commitRows id n (reach - 1) (commitEntry s id e)

/-- Carry out a commit-stage item: the stage's reach left, and the item as it is to be deferred, where the reach ends in it
(02 R60; 08 R317, R318; 09 R364). -/
def commitItem (s : State) (reach : Nat) (k : Nat × List Byte) : Nat × Option (List Byte) × State :=
  let i := k.2
  if !itemOk s i then (reach, none, skipItem s k)
  else
    let id := fld i 2 2
    if itemKind i = 3 then
      let (reach, left, ended, s) := commitRows id (fld i 4 4) reach s
      (reach, if ended then none else some (i.take 4 ++ natLe 4 left ++ i.drop 8), s)
    else match (tableGet s id).fifo.find? (fun e => e.row == fld i 8 5) with
      | none => (reach, none, s)
      | some e =>
        if commitLeft s = 0 then (reach, none, commitCut s)
        else if reach = 0 then (0, some i, s)
        else (reach - 1, none, commitEntry s id e)

/-- The commit stage: its items in order within its reach; the answer is the state and the items to be deferred with their
indices (02 R59, R60). -/
def commitStage (reach : Nat) : List (Nat × List Byte) → State → State × List (Nat × List Byte)
  | [], s => (s, [])
  | k :: r, s =>
    let (reach, left, s) := commitItem s reach k
    let (s, ds) := commitStage reach r s
    (s, match left with
      | some i => (k.1, i) :: ds
      | none => ds)

/-! ### Reservations (08 R296; 09 R340; 14 R536, R537, R559) -/

/-- The bytes of each channel's local window that tables may take. -/
def tableSpace (s : State) : Nat := relocBase s

/-- The first offset at or above `lo` where `n` bytes fit before `hi`, among ranges taken. -/
def firstFit (taken : List (Nat × Nat)) (lo hi n : Nat) : Option Nat :=
  let free := fun (o : Nat) => decide (o + n ≤ hi) && taken.all fun r => decide (o + n ≤ r.1) || decide (r.1 + r.2 ≤ o)
  minBy id (((taken.map fun r => r.1 + r.2).filter (fun o => decide (lo ≤ o)) ++ [lo]).filter free)

/-- The fenced groups of local windows, as ranges of the window: a table's reservation lies at one offset of every channel, so that it keeps clear
of a group that any channel has fenced (12 R467). -/
def fencedRanges (s : State) : List (Nat × Nat) :=
  let low := 2 ^ 31 - localBytes s
  s.chans.flatMap fun c => (c.2.fenced.filter fun g => decide (low ≤ g * 2 ^ 20)).map fun g => (g * 2 ^ 20 - low, 2 ^ 20)

/-- Reserve a table's two slots and its FIFO in the local window of every channel, outside fenced groups (08 R296; 12 R467). -/
def reserveTable (s : State) (id : Nat) (t : Table) : Option (Nat × State) :=
  let n := 2 * segBytes t + fifoBytes t
  (firstFit (s.emb.ranges.map (·.2) ++ fencedRanges s) 0 (tableSpace s) n).map fun o =>
    (o, { s with emb := { s.emb with ranges := s.emb.ranges ++ [(id, o, n)] } })

/-- Free a table's reservation. -/
def releaseTable (s : State) (id : Nat) : State := { s with emb := { s.emb with ranges := s.emb.ranges.filter fun r => r.1 ≠ id } }

/-- Reserve bytes of the slow tier or of usable interleaved HBM under a key (14 R536, R540). -/
def rangeTake (s : State) (key lo hi n : Nat) : Option (Nat × State) :=
  if n = 0 then some (lo, s)
  else (firstFit (s.upd.ranges.map (·.2)) lo hi (pageUp n)).map fun a =>
    (a, updMap s fun u => { u with ranges := u.ranges ++ [(key, a, pageUp n)] })

/-- Where the slow tier's space for tables ends and its space for layers begins (14 R536). -/
def slowSplit (s : State) : Nat := min accBase (slowBase + fget s regEmbCfg 9 0 * 2 ^ 30)

/-- Reserve slow-tier bytes for layers, under a key: between the tables' space and the row accumulator (14 R536). -/
def layerTake (s : State) (key n : Nat) : Option (Nat × State) := rangeTake s key (slowSplit s) accBase n

/-- Bytes of the slow tier reserved for the masters and states of trainable tables (08 R296). -/
def slowTables (s : State) : Nat := ((s.upd.ranges.filter fun r => decide (r.1 < 4096)).map fun r => r.2.2).foldl (· + ·) 0

/-- The shape of a table from its SHAPE field, class and device count (08 R289, R292, R294, R303). -/
def shapeTable (s : State) (shape stageRows : Nat) : Table :=
  let train := bit shape 0
  let task := bit shape 3
  let width := bits shape 23 12 + 1
  let code := bits shape 7 4
  let rows := bits shape 63 24
  let stride := strideOf width code
  let repl := !train && !task && decide (rows * stride ≤ fget s regEmbCfg 63 48 * 2 ^ 20)
  let t : Table := { tableReset with
    state := 1, taskStage := task, carry := bit shape 2, mirror := bit shape 1, train := train, replicated := repl
    cls := bits shape 11 8, code := code, width := width, stride := stride, rows := rows, stageRows := stageRows }
  { t with slotBytes := 192 * (segRows s t * stride * (if t.mirror then 2 else 1)) }

/-- STAGE_ROWS of a class where the table gives none; 0 where rows are never staged (08 R292, R293). -/
def classStage (s : State) (cls : Nat) : Nat :=
  match pfind s.emb.classes cls with
  | some c => c.stageRows
  | none => 0

/-! ### The table VERSION item (08 R303-R306, R321) -/

/-- The relocation entries, replicas, forwarding entries and pins of a table go, with their pool space (08 R305; 09 R371). -/
def dropTableDir (s : State) (id : Nat) : State :=
  let gone := s.plc.dir.filter fun e => e.table == id
  let s := gone.foldl (fun s e =>
    if e.kind = 1 ∧ e.dev = s.boot.dev then poolFree s e.addr
    else if e.kind = 2 then (e.addr :: e.copies).foldl poolFree s else s) s
  dirMap (plcMap s fun p => { p with pins := p.pins.filter fun x => x.1 ≠ id }) fun d => d.filter fun e => !gone.contains e

/-- Entries discarded at or after a switch or a retirement are counted (08 R333). -/
def discard (s : State) (n : Nat) : State :=
  if n = 0 then s else mgmtMap (event (bump s regEmbDiscard n) regEmbEvents 2) fun m => { m with tickDiscards := m.tickDiscards + n }

/-- The pending updates of a table at a SWITCH: discarded, or kept under the new version with their masters (08 R321). Rows still
held at the Rugon die fare like staged ones. -/
def settleFifo (s : State) (id ver : Nat) : State :=
  let t := tableGet s id
  let ups := t.fifo.filter fun e => e.update
  let held := s.upd.heldRows.filter fun h => h.table == id
  let n := ups.length + held.length
  if t.carry then
    let rows := ups.map (·.row) ++ held.map (·.row)
    let s := bump (tablePut s id { t with fifo := ups.map fun e => { e with ver := ver, restore := false } }) regEmbCarry n
    let s := updMap s fun u => { u with heldRows := u.heldRows.map fun h => if h.table = id then { h with ver := ver } else h }
    rows.eraseDups.foldl (fun s x => match pfind s.upd.masters (masterKey id x) with
      | some m => putMasterRow s id x { m with ver := ver }
      | none => s) s
  else
    discard (updMap (tablePut s id { t with fifo := [] }) fun u => { u with heldRows := u.heldRows.filter fun h => h.table ≠ id }) n

/-- The marks of a table are cleared. -/
def clearMarks (s : State) (id : Nat) : State := { s with emb := { s.emb with marks := s.emb.marks.filter fun m => m.1 ≠ id } }

/-- SWITCH (08 R305). A table that is GREY here has recovered with it, and leaves GREY once the keeper confirms (08 R327; 15 R569, R571). -/
def switchTable (s : State) (id ver : Nat) : State :=
  let s := viewRecovered (clearMarks (dropTableDir (settleFifo s id ver) id) id) id
  let t := tableGet s id
  tablePut s id { t with
    state := if t.state = 3 then 3 else 2, slot := 1 - t.slot, curVer := ver, switchTick := s.tsq.tick, next := 0, nextVer := 0, wantTick := 0, fill := none }

/-- RETIRE: staged entries, rows held at the Rugon die and contributions not yet applied are discarded and counted (08 R306, R333). -/
def retireTable (s : State) (id : Nat) : State :=
  let t := tableGet s id
  let held := s.upd.heldRows.filter fun h => h.table == id
  let adds := (s.upd.rowAccs.filter fun a => a.table == id).foldl (fun n a => n + a.count) 0
  let s := discard s (t.fifo.length + held.length + adds)
  let s := { s with emb := { s.emb with greys := s.emb.greys.filter fun g => g.1 ≠ id } }
  let s := releaseTable (clearMarks (dropTableDir s id) id) id
  let s := rangeFree (rangeFree (rangeFree s id) (32768 + id)) (65536 + id)
  updMap (tablePut s id tableReset) fun u => { u with
    masters := u.masters.filter fun m => m.1 / 2 ^ 40 ≠ id
    heldRows := u.heldRows.filter fun h => h.table ≠ id
    rowAccs := u.rowAccs.filter fun a => a.table ≠ id
    rowDone := u.rowDone.filter fun d => d.1 ≠ id
    rowClosed := pdel u.rowClosed id
    tblRules := pdel u.tblRules id }

/-- A table's entry with its slots at an offset of every channel's local window (09 R341). -/
def placeTable (s : State) (id : Nat) (t : Table) (o : Nat) : State := tablePut s id { t with base0 := o, base1 := o + segBytes t }

/-- A table's entry with its slots in space reserved now, where there is room (08 R296). -/
def reserveNew (s : State) (id : Nat) (t : Table) : State :=
  match reserveTable s id t with
  | some (o, s) => placeTable s id t o
  | none => s

/-- REGISTER: the entry is written, in the space reserved when the registration was accepted here (08 R296, R306). -/
def registerTable (s : State) (id shape : Nat) : State :=
  let old := tableGet s id
  let t := shapeTable s shape (if old.stageRows = 0 then classStage s (bits shape 11 8) else old.stageRows)
  let t := if t.train || t.taskStage then t else { t with stageRows := 0 }
  match s.emb.ranges.find? (fun r => r.1 == id) with
  | some r => placeTable s id t r.2.1
  | none => reserveNew s id t

/-- Whether a table's next slot is ready for a SWITCH to a version (08 R302, R304). -/
def slotReady (t : Table) (ver : Nat) : Bool := (t.next == 2 || t.next == 3) && !t.retiring && t.nextVer == ver

/-- Carry out a table VERSION item, which sets EMB_EVENTS.SWITCH (08 R303-R306, R338). -/
def tableVersion (s : State) (i : List Byte) : State :=
  let id := fld i 2 2
  let t := tableGet s id
  let ok := match fld i 4 1 with
    | 0 => t.state != 0 && slotReady t (fld i 6 2)
    | 2 => t.state == 0
    | _ => t.state != 0
  if !ok then s
  else
    let s := event s regEmbEvents 0
    match fld i 4 1 with
    | 0 => switchTable s id (fld i 6 2)
    | 1 => retireTable s id
    | 2 => registerTable s id (fld i 8 8)
    | 3 => tablePut s id { t with frozen := true }
    | _ => tablePut s id { t with frozen := false }

/-- Carry out a VERSION item, unless it is skipped (02 R62, R63). -/
def versionItem (s : State) (k : Nat × List Byte) : State :=
  if !itemOk s k.2 then skipItem s k
  else if s.tsq.skip.contains k.1 then s
  else if fld k.2 1 1 = 0 then tableVersion s k.2 else layerVersion s k.2

/-- The next slot a VERSION item of a sealed plan will switch or retire: SWITCHING from the seal on, SEALED or COMPLETE again where
the item is skipped (08 R302; 14 R557). -/
def markSwitching (s : State) (i : List Byte) (on : Bool) : State :=
  let id := fld i 2 2
  if itemKind i ≠ 7 then s
  else if fld i 1 1 = 0 then
    let t := tableGet s id
    let named := if fld i 4 1 = 0 then !t.retiring && t.nextVer == fld i 6 2 else fld i 4 1 == 1 && t.retiring
    if on && t.next == 2 && named then tablePut s id { t with next := 3 }
    else if !on && t.next == 3 && named then tablePut s id { t with next := 2 } else s
  else
    let l := layerGet s id
    if fld i 4 1 = 0 then
      if on && l.next == 2 && l.nextVer == fld i 6 2 then layerPut s id { l with next := 3 }
      else if !on && l.next == 3 then layerPut s id { l with next := 2 } else s
    else s

/-- In the switch stage a table or layer that has been RECOVERED for a whole tick leaves GREY, with its record. It has no readiness entry that a
CONFIRM could name, so the keeper's confirmation stands once the conditions of R572 hold and the keeper runs (08 R327; 15 R571, R572; DESIGN
CHOICE, log 41). -/
def viewExit (s : State) : State :=
  (s.emb.greys.filter fun g => decide (g.2.2 ≠ 0) && decide (g.2.2 + period s ≤ s.now) && !s.keep.restarting).foldl (fun s g =>
    let s := { s with emb := { s.emb with greys := s.emb.greys.filter fun x => x.1 ≠ g.1 } }
    if g.1 < 4096 then
      report (tablePut s g.1 { tableGet s g.1 with state := 2 }) 0x92 5 (unitCode s 7 g.1) (s.tsq.tick - g.2.1)
    else
      report (layerPut s (g.1 - 4096) { layerGet s (g.1 - 4096) with state := 2 }) 0x92 5 (unitCode s 8 (g.1 - 4096)) (s.tsq.tick - g.2.1)) s

/-- New rules of tables take effect at a switch stage, with the rings reserved for them (14 R540, R545). -/
def ruleSwitch (s : State) : State :=
  s.upd.tblRules.foldl (fun s e =>
    let r := tblRuleGet s e.1
    match r.nextRule with
    | some b =>
      let s := rangeFree s (32768 + e.1)
      let s := updMap s fun u => { u with ranges := u.ranges.map fun x => if x.1 = 65536 + e.1 then (32768 + e.1, x.2) else x }
      tblRulePut s e.1 { r with
        rule := b, nextRule := none, ring := fld b 0x34 6, drained := if r.rule.isEmpty then s.tsq.tick + 1 else r.drained }
    | none => s) s

/-! ### GRANT (13 R498, R505) -/

/-- Install the routing table of a GRANT item. -/
def installRoutes (s : State) (a : Nat) : State :=
  { s with hws := { s.hws with routes := (List.range 1024).foldl (fun m d => mset (fun _ => 0) m d (readNat s (a + 8 * d) 8)) [] } }

/-- Carry out a GRANT item of the plan for tick n: entries that name the device itself or a destination not sent through their
port are bad, and a port that is not READY gets none (13 R498). -/
def installGrants (s : State) (n : Nat) (k : Nat × List Byte) : State :=
  let i := k.2
  if !itemOk s i then skipItem s k
  else
    let s := if fld i 1 1 = 1 then installRoutes s (fld i 0x10 8) else s
    let table := fld i 8 8
    let places : List (Nat × Nat × Nat) := (List.range 16).flatMap fun p => (List.range 32).flatMap fun r => (List.range 30).map fun c =>
      (p, 960 * p + 30 * r + c, readNat s (table + 2048 * p + 60 * r + 2 * c) 2)
    let valid := places.filter fun e => bit e.2.2 15
    let through := fun (p d : Nat) =>
      let e := routeEntry s d
      bit e 63 && (bits e 55 52 == p || bits e 51 48 == p)
    let bad := fun (e : Nat × Nat × Nat) => e.2.2 % 1024 == s.boot.dev || !through e.1 (e.2.2 % 1024)
    let nbad := (valid.filter bad).length
    let good := valid.filter fun e => !bad e && rdyState s (idxPort e.1) == .ready && !greyAt s (idxPort e.1)
    let s := if nbad = 0 then s else event (bump s regHwsGrantBad nbad) regHwsEvents 3
    let s := { s with hws := { s.hws with grants := good.map fun e => (e.2.1, e.2.2 % 1024) } }
    rset s regHwsGrantTick n

end Sys2Proof.Machine
end

