-- ==== Sys2Proof/Machine/HostIf.lean ====
section
/-! DEFINITION. The PCIe host interface: doorbells, fetching, the operations of the table, placement, update and pipeline
services, their completion, aborts, the BAR2 window and the reset (08 R297-R304, R326; 09 R370, R371; 14 R540; 18 R679-R704). -/

namespace Sys2Proof.Machine

/-! ### Queues (R685-R689, R711) -/

/-- RQ_TAIL (R686). -/
def execRqTail (queue value : Nat) (s : State) : Out :=
  powered s <|
  if 1024 ≤ queue then .next s
  else if queueSize s queue ≤ value % 2 ^ 32 then .next (event (event s (regPciQState queue) 2) regPciEvents 0)
  else .next (queuePut s queue { queueGet s queue with tail := value % 2 ^ 32 })

/-- CQ_HEAD (R687). -/
def execCqHead (queue value : Nat) (s : State) : Out :=
  powered s <|
  if 1024 ≤ queue ∨ queueSize s queue ≤ value % 2 ^ 32 then .next s
  else .next (queuePut s queue { queueGet s queue with cqHead := value % 2 ^ 32 })

/-- ENABLE: a DISABLED pair whose SIZE_LOG2 and VECTOR are in range starts anew (R711). -/
def execEnable (queue : Nat) (s : State) : Out :=
  powered s <|
  let lg := fget s (regPciQCfg queue) 31 27
  if 1024 ≤ queue ∨ (queueGet s queue).state ≠ 0 ∨ lg < 4 ∨ 16 < lg ∨ 2031 < fget s (regPciQCfg queue) 26 16 then .next s
  else .next (queuePut s queue { queueReset with state := 1 })

/-- DISABLE: fetching stops; the pair is DISABLED once no request is outstanding (R711). -/
def execDisable (queue : Nat) (s : State) : Out :=
  let x := queueGet s queue
  if 1024 ≤ queue ∨ (x.state ≠ 1 ∧ x.state ≠ 2) then .next s
  else .next (queuePut s queue { x with state := if x.outstanding = 0 then 0 else 3 })

/-- RESUME: a SUSPENDED pair is ENABLED again (R703, R711). -/
def execResume (queue : Nat) (s : State) : Out :=
  let x := queueGet s queue
  if 1024 ≤ queue ∨ x.state ≠ 2 then .next s else .next (queuePut s queue { x with state := 1 })

/-- COALESCE_TIMER: the oldest unsignalled entry is COAL_US old (R689). -/
def execCoalesceTimer (queue : Nat) (s : State) : Out :=
  let us := fget s (regPciQCfg queue) 15 8
  let x := queueGet s queue
  if 1024 ≤ queue ∨ us = 0 ∨ x.unsignalled = 0 then .next s
  else .next (signalQueue (advance s (x.firstAt + us * 1000)) queue)

/-- A pipeline under an id. -/
def pipeGet (s : State) (p : Nat) : Option Pipeline := pfind s.pci.pipes p

/-- Room in the result pool for `n` bytes: an offset (R696). -/
def poolRoom (s : State) (n : Nat) : Option Nat := firstFit s.pci.pool 0 (256 * 2 ^ 20) n

/-- The operations there are (R691). -/
def knownOp (o : Nat) : Bool :=
  decide (1 ≤ o ∧ o ≤ 8) || decide (0x10 ≤ o ∧ o ≤ 0x13) || decide (0x20 ≤ o ∧ o ≤ 0x25) || decide (0x30 ≤ o ∧ o ≤ 0x33)

/-- Take the entry at the head of a queue, with its slots (R687, R700). -/
def fetchEntry (s : State) (q : Nat) (entry : List Byte) (rec res : Option Nat) (len : Nat) : State :=
  let x := queueGet s q
  let id := rget s regPciReqId
  let s := bump1 (rset s regPciReqId (id + 1)) regPciRequests
  let s := queuePut s q { x with
    head := (x.head + 1) % max 1 (queueSize s q), outstanding := x.outstanding + 1, last := pput x.last x.head (fld entry 2 2, id) }
  let s := pciMap s fun p => { p with
    recSlots := match rec with
      | some n => p.recSlots ++ [n]
      | none => p.recSlots
    pool := match res with
      | some o => pput p.pool o len
      | none => p.pool }
  let r : Request := ⟨q, x.head, entry, .waitUnits, s.now, s.tsq.tick, 0, fld entry 4 2, rec, res, 0, 0, 0, 0, 0, 0, [], false, false, none, false⟩
  if knownOp (fld entry 0 1) then reqPut s id r else completeReq s id r 5 7

/-- Whether a queue is held back: a request of it waits for room in the ready list of its root task (10 R396). A request that ends in another way
holds it back no longer. -/
def queueBlocked (s : State) (q : Nat) : Bool := s.pci.requests.any fun e => e.2.queue == q && e.2.rootWaits && e.2.stage == .waitUnits

/-- REQUEST_FETCH: the next entry of an ENABLED queue is fetched when the rings, the slots and the lists have room (R687, R691,
R696). -/
def execRequestFetch (queue : Nat) (s : State) : Out :=
  let x := queueGet s queue
  if 1024 ≤ queue ∨ x.state ≠ 1 ∨ x.head = x.tail ∨ queueSize s queue - 1 ≤ x.outstanding + cqUnread s queue ∨ queueBlocked s queue ∨ !dmaOn s then
    .next s
  else
    let entry := hostBytes s (rget s (regPciQRqbase queue) + 64 * x.head) 64
    if fld entry 0 1 ≠ 0x32 then .next (fetchEntry s queue entry none none 0)
    else
      let n := match pipeGet s (fld entry 4 2) with
        | some p => p.resultBytes
        | none => 0
      match (List.range 65536).find? fun k => !s.pci.recSlots.contains k with
      | none => .next s
      | some k =>
        if n = 0 then .next (fetchEntry s queue entry (some k) none 0)
        else match poolRoom s n with
          | some o => .next (fetchEntry s queue entry (some k) (some o) n)
          | none => .next s

/-! ### Starting a request (R636, R637, R688, R691) -/

/-- The units a request needs (16 R636). -/
def unitsFor (op : Nat) : List Nat :=
  if op ≤ 8 then [0x37, 0x38]
  else if op ≤ 0x13 then [0x38, 0x37]
  else if op ≤ 0x25 then [6, 0x3B, 0x37]
  else [0x31, 0x32, 0x33, 0x34, 0x35, 0x36]

/-- Whether ticks run and all units a request needs have settled (16 R636). -/
def unitsSettled (s : State) (op : Nat) : Bool := s.tsq.running && (unitsFor op).all fun i => settled (rdyState s i)

/-- Whether a request may start now: earlier ones of its queue have started, and have completed under FENCE (R688). -/
def mayBegin (s : State) (id : Nat) (r : Request) : Bool :=
  r.stage == .waitUnits && s.pci.requests.all fun e =>
    e.2.queue != r.queue || decide (id ≤ e.1) || e.2.stage == .due || (!bit (fld r.entry 1 1) 0 && e.2.stage != .waitUnits)

/-- The operations that read a buffer of the host as they start. -/
def readsAtStart (op : Nat) : Bool := op == 3 || op == 8 || op == 0x20 || op == 0x24 || op == 0x25

/-- Start an operation of a request: not before its turn and its units, nor without DMA where it needs that; GREY where a unit has settled so, BAD_ENTRY
where the entry breaks the table (R680, R688, R691). -/
def runOp (s : State) (id op : Nat) (good : Request → Bool) (f : Request → State) : Out :=
  match reqGet s id with
  | none => .next s
  | some r =>
    if reqOp r ≠ op ∨ !mayBegin s id r ∨ !unitsSettled s op ∨ (readsAtStart op ∧ !dmaOn s) then .next s
    else if (unitsFor op).any fun i => greyAt s i || rdyState s i == .fenced then .next (completeReq s id r 1 0)
    else if decide (4 ≤ fld r.entry 1 1) || !zeroAt r.entry 6 2 || !good r then .next (completeReq s id r 5 7)
    else .next (f r)

/-- Whether a request's parameter words from word `n` on are 0. -/
def restZero (r : Request) (n : Nat) : Bool := (List.range (7 - n)).all fun i => reqParam r (n + i) == 0

/-- A request that breaks a state condition or a range (R691). -/
def refuseReq (s : State) (id : Nat) (r : Request) : State := completeReq s id r 5 8

/-- A request accepted at once (R698). -/
def acceptReq (s : State) (id : Nat) (r : Request) : State := completeReq s id r 0 0

/-- A request that has asked the arbiter for its completion. -/
def askGrant (s : State) (id : Nat) (r : Request) : State := reqPut s id { r with stage := .arbiter, rows := [] }

/-! ### The table service (08 R297-R304, R326) -/

/-- The SHAPE field of a table (08 R303). -/
def shapeOf (t : Table) : Nat :=
  t.rows * 2 ^ 24 + (t.width - 1) * 2 ^ 12 + t.cls * 2 ^ 8 + t.code * 2 ^ 4 + b2n t.taskStage * 8 + b2n t.carry * 4 + b2n t.mirror * 2 + b2n t.train

/-- A table VERSION item (08 R303). -/
def tableItem (id action ver shape : Nat) : List Byte :=
  natLe 1 7 ++ natLe 1 0 ++ natLe 2 id ++ natLe 1 action ++ natLe 1 0 ++ natLe 2 ver ++ natLe 8 shape ++ natLe 16 0

/-- Whether a registration is within its ranges and its class (08 R289, R290, R293, R295, R313; 09 R340). -/
def classAllows (s : State) (cls code width rows stageRows : Nat) (train mirror task : Bool) : Bool :=
  match pfind s.emb.classes cls with
  | none => false
  | some c =>
    decide (code ≤ 1) && decide (8 ≤ width ∧ width ≤ c.maxWidth) && width % 8 == 0 && decide (1 ≤ rows ∧ rows ≤ c.maxRows) &&
      decide (stageRows ≤ 16777216) && (!train || bit c.flags 0) && (!mirror || (bit c.flags 1 && !train && decide (1 < s.boot.devs))) && (!task || (bit c.flags 2 && !train))

/-- The rest of accepting a REGISTER: the masters' space in the slow tier, and the VERSION item planned (08 R296, R297; 14 R559). -/
def acceptRest (s : State) (id : Nat) (t : Table) : Option State :=
  let n := if t.train then 192 * segRows s t * masterBytes t.width else 0
  if fget s regEmbCfg 9 0 * 2 ^ 30 < slowTables s + pageUp n then none
  else match rangeTake s id slowBase (slowSplit s) n with
    | none => none
    | some (_, s) => some (planLater (tablePut s id { tableGet s id with stageRows := t.stageRows }) [tableItem id 2 0 (shapeOf t)])

/-- The REGISTER of a table is accepted: its space is reserved on this device, and its VERSION item planned (08 R296, R297). -/
def acceptTable (s : State) (id : Nat) (t : Table) : Option State :=
  match reserveTable s id t with
  | none => none
  | some (_, s) => acceptRest s id t

/-- TBL_REGISTER (08 R297). -/
def execTblRegister (req : Nat) (s : State) : Out :=
  runOp s req 1 (fun r => decide (reqParam r 1 < 2 ^ 28) && restZero r 3) fun r =>
    let id := reqId r
    let rows := reqParam r 0
    let w := reqParam r 1
    let cls := bits w 19 16
    let train := bit w 24
    let task := bit w 27
    let stageRows := if !train && !task then 0 else if reqParam r 2 = 0 then classStage s cls else reqParam r 2
    if 4096 ≤ id ∨ (tableGet s id).state ≠ 0 ∨ (s.emb.ranges.any fun e => e.1 == id) ∨
        !classAllows s cls (bits w 23 20) (bits w 15 0) rows (reqParam r 2) train (bit w 25) task then refuseReq s req r
    else
      let shape := rows * 2 ^ 24 + (bits w 15 0 - 1) * 2 ^ 12 + cls * 2 ^ 8 + bits w 23 20 * 2 ^ 4 + b2n task * 8 + b2n (bit w 26) * 4 +
        b2n (bit w 25) * 2 + b2n train
      match acceptTable s id (shapeTable s shape stageRows) with
      | some s => acceptReq s req r
      | none => refuseReq s req r

/-- TBL_OPEN: the next slot is WRITING and its fill begins (08 R297). -/
def execTblOpen (req : Nat) (s : State) : Out :=
  runOp s req 2 (fun r => restZero r 1) fun r =>
    let id := reqId r
    let t := tableGet s id
    let mode := reqParam r 0
    if 4096 ≤ id ∨ t.state = 0 ∨ t.next ≠ 0 ∨ 1 < mode ∨ (mode = 1 ∧ t.state ≠ 2) then refuseReq s req r
    else reqPut (tablePut s id { t with next := 1, fill := some req, nextVer := 0, retiring := false }) req { r with stage := .running }

/-- TBL_OPEN_DONE: the fill is done, a COPY's reads during Run (08 R298, R301). -/
def execTblOpenDone (req : Nat) (s : State) : Out :=
  match reqGet s req with
  | none => .next s
  | some r =>
    let t := tableGet s (reqId r)
    if reqOp r ≠ 2 ∨ r.stage ≠ .running ∨ (reqParam r 0 = 1 ∧ s.tsq.phase ≠ .run) then .next s
    else
      let s := if t.fill = some req then fillSlot s (reqId r) (reqParam r 0) none else s
      let s := if t.fill = some req then tablePut s (reqId r) { tableGet s (reqId r) with fill := none } else s
      .next (askGrant s req r)

/-- The records of a host buffer: 8 bytes of row id and the row (08 R300). -/
def hostRecords (s : State) (a stride : Nat) : Nat → List (Nat × List Byte)
  | 0 => []
  | n + 1 => (leNat (hostBytes s a 8), hostBytes s (a + 8) stride) :: hostRecords s (a + 8 + stride) stride n

/-- TBL_WRITE: every record must belong to this device's part of the next slot (08 R300). -/
def execTblWrite (req : Nat) (s : State) : Out :=
  runOp s req 3 (fun r => restZero r 2) fun r =>
    let id := reqId r
    let t := tableGet s id
    if 4096 ≤ id ∨ t.state = 0 ∨ t.next ≠ 1 then refuseReq s req r
    else
      let recs := hostRecords s (reqParam r 0) t.stride (reqParam r 1)
      let places := recs.map fun e => if e.1 < t.rows then slotPlace s t id (1 - t.slot) e.1 else none
      if places.contains none then refuseReq s req r
      else reqPut s req { r with stage := .running, rows := (places.zip recs).filterMap fun e => e.1.map fun a => (a, e.2.2) }

/-- TBL_WRITE_DONE: the rows are written (08 R298, R300). -/
def execTblWriteDone (req : Nat) (s : State) : Out :=
  match reqGet s req with
  | none => .next s
  | some r =>
    if reqOp r ≠ 3 ∨ r.stage ≠ .running ∨ !dmaOn s then .next s
    else .next (askGrant (r.rows.foldl (fun s w => memWrite s w.1 w.2) s) req r)

/-- TBL_SEAL (08 R302, R304). -/
def execTblSeal (req : Nat) (s : State) : Out :=
  runOp s req 4 (fun r => restZero r 2) fun r =>
    let id := reqId r
    let t := tableGet s id
    let v := reqParam r 0
    if 4096 ≤ id ∨ t.state = 0 ∨ t.next ≠ 1 ∨ 65536 ≤ v ∨ (t.state ≠ 1 ∧ !verAfter v t.curVer) then refuseReq s req r
    else
      let s := tablePut s id { t with next := 2, nextVer := v, wantTick := reqParam r 1 }
      acceptReq (planLater s [tableItem id 0 v (shapeOf t)]) req r

/-- Planned VERSION items of a table and an action are withdrawn. -/
def unplan (s : State) (id action : Nat) : State :=
  { s with emb := { s.emb with planned := s.emb.planned.filter fun i => !(itemKind i == 7 && fld i 1 1 == 0 && fld i 2 2 == id && fld i 4 1 == action) } }

/-- TBL_ABANDON: not on a SWITCHING slot or a planned retirement (08 R297, R299). -/
def execTblAbandon (req : Nat) (s : State) : Out :=
  runOp s req 5 (fun r => restZero r 0) fun r =>
    let id := reqId r
    let t := tableGet s id
    if 4096 ≤ id ∨ t.state = 0 ∨ t.retiring ∨ (t.next ≠ 1 ∧ t.next ≠ 2) then refuseReq s req r
    else acceptReq (unplan (tablePut s id { t with next := 0, nextVer := 0, wantTick := 0 }) id 0) req r

/-- TBL_RETIRE (08 R297, R302). -/
def execTblRetire (req : Nat) (s : State) : Out :=
  runOp s req 6 (fun r => restZero r 1) fun r =>
    let id := reqId r
    let t := tableGet s id
    if 4096 ≤ id ∨ (t.state ≠ 1 ∧ t.state ≠ 2) ∨ t.next ≠ 0 then refuseReq s req r
    else
      let s := tablePut s id { t with next := 2, retiring := true, wantTick := reqParam r 0 }
      acceptReq (planLater s [tableItem id 1 0 (shapeOf t)]) req r

/-- TBL_FREEZE (08 R297). -/
def execTblFreeze (req : Nat) (s : State) : Out :=
  runOp s req 7 (fun r => restZero r 1) fun r =>
    let id := reqId r
    let t := tableGet s id
    if 4096 ≤ id ∨ t.state = 0 ∨ !t.train ∨ 1 < reqParam r 0 then refuseReq s req r
    else acceptReq (planLater s [tableItem id (if reqParam r 0 = 1 then 3 else 4) 0 (shapeOf t)]) req r

/-- Stage the rows of a TBL_RELOAD that are still LOST, as the restore entries have room; `again` leaves alone those that have one (08 R316, R326). -/
def stageReload (s : State) (id : Nat) (rows : List (Nat × List Byte)) (again : Bool) : State :=
  rows.foldl (fun s w =>
    if rowMark s id w.1 == some true && !(again && (tableGet s id).fifo.any fun e => e.row == w.1 && e.restore) then stageRestore s id w.1 w.2 true
    else s) s

/-- TBL_RELOAD: rows that are LOST here are staged as restores; a trainable one's master is dropped (08 R326). -/
def execTblReload (req : Nat) (s : State) : Out :=
  runOp s req 8 (fun r => restZero r 2) fun r =>
    let id := reqId r
    let t := tableGet s id
    if 4096 ≤ id ∨ t.state = 0 then refuseReq s req r
    else
      let recs := hostRecords s (reqParam r 0) t.stride (reqParam r 1)
      if recs.any fun e => rowMark s id e.1 != some true then refuseReq s req r
      else
        let s := updMap s fun u => { u with masters := u.masters.filter fun m => !recs.any fun e => m.1 == masterKey id e.1 }
        reqPut (stageReload s id recs false) req { r with stage := .running, rows := recs }

/-- After a commit stage the rows of a TBL_RELOAD that still wait are staged, and one whose rows are all committed asks for its
completion (08 R298, R326). -/
def reloadsOn (s : State) : State :=
  (s.pci.requests.filter fun e => reqOp e.2 == 8 && e.2.stage == .running).foldl (fun s e =>
    let id := reqId e.2
    let left := e.2.rows.filter fun w => rowMark s id w.1 == some true
    if left.isEmpty then askGrant s e.1 e.2 else reqPut (stageReload s id left true) e.1 { e.2 with rows := left }) s

/-! ### The placement service (09 R370, R371) -/

/-- Whether a pin would move a row to a device it may not go to (09 R353, R371). -/
def pinMoves (s : State) (id : Nat) (t : Table) (first count dev : Nat) : Bool :=
  dev != 0xFFFF && (if t.replicated then dev != s.boot.dev
    else (t.train || t.taskStage) && (List.range count).any fun j => (hashHome s t id (first + j)).1 != dev)

/-- The pinned ranges once a pin or unpin that waits has taken effect (09 R370). -/
def pinStep (ps : List (Nat × Nat × Nat × Bool)) (r : Nat × Nat × Nat × Nat × Nat × Bool) : List (Nat × Nat × Nat × Bool) :=
  let left := unpinRange ps r.1 r.2.1 r.2.2.1
  if r.2.2.2.1 = unpinDev then left else left ++ [(r.1, r.2.1, r.2.2.1, r.2.2.2.2.2)]

/-- The directory's entries once the pins that wait and one more of a range have taken effect: each row held here of a pinned range has one PIN entry,
however many pins name it (09 R342, R371). -/
def pinEntries (s : State) (id first count : Nat) : Nat :=
  let ps := pinStep (s.plc.pinReqs.foldl pinStep s.plc.pins) (id, first, count, 0, 0, false)
  (s.plc.dir.filter fun e => e.kind != 4).length +
    ps.foldl (fun n p => n + ((List.range p.2.2.1).filter fun j => (rowPrimary s p.1 (p.2.1 + j)).1 == s.boot.dev).length) 0

/-- PLC_PIN (09 R370, R371). -/
def execPlcPin (req : Nat) (s : State) : Out :=
  runOp s req 0x10 (fun r => decide (reqParam r 2 < 2 ^ 25) && restZero r 3) fun r =>
    let id := reqId r
    let t := tableGet s id
    let first := reqParam r 0
    let count := reqParam r 1
    let dev := bits (reqParam r 2) 15 0
    let ch := bits (reqParam r 2) 23 16
    if 4096 ≤ id ∨ t.state ≠ 2 ∨ count = 0 ∨ 65536 < count ∨ t.rows < first + count ∨ (dev ≠ 0xFFFF ∧ max 1 s.boot.devs ≤ dev) ∨
        (ch ≠ 0xFF ∧ 192 ≤ ch) ∨ pinMoves s id t first count dev ∨ 1048576 < pinEntries s id first count then refuseReq s req r
    else acceptReq (plcMap s fun p => { p with pinReqs := p.pinReqs ++ [(id, first, count, dev, ch, bit (reqParam r 2) 24)] }) req r

/-- PLC_UNPIN (09 R370, R371). -/
def execPlcUnpin (req : Nat) (s : State) : Out :=
  runOp s req 0x11 (fun r => restZero r 2) fun r =>
    let id := reqId r
    let t := tableGet s id
    if 4096 ≤ id ∨ t.state ≠ 2 ∨ reqParam r 1 = 0 ∨ 65536 < reqParam r 1 ∨ t.rows < reqParam r 0 + reqParam r 1 then refuseReq s req r
    else acceptReq (plcMap s fun p => { p with pinReqs := p.pinReqs ++ [(id, reqParam r 0, reqParam r 1, unpinDev, 0, false)] }) req r

/-- Whether a fragment table fits its root: EDGE_BASE rises from 0 by each fragment's DEGREE to the root's, each between 1 and the threshold; a local
fragment has just that degree and the root's section bits; CUM_W is 0 without weights (04 R151, R152). -/
def fragsOk (s : State) (l : PList) (fs : List FragEntry) : Bool :=
  let threshold := fget s (regCorGatCfg 0) 26 16 * 64
  let ends := (fs.drop 1).map (·.base) ++ [l.degree]
  (fs.headD ⟨0, 1, 0, 0⟩).base == 0 && (fs.zip ends).all fun e =>
    decide (e.1.base < e.2 ∧ e.2 - e.1.base ≤ threshold) && (l.hasW || e.1.cumW == 0) &&
    (match ownAddr s e.1.addr with
     | none => true
     | some a => match listAt s a with
       | some (m, _) => !m.hub && m.hasA == l.hasA && m.hasT == l.hasT && m.hasW == l.hasW && m.degree == e.2 - e.1.base
       | none => false)

/-- Whether an address holds a valid hub root whose root and local fragments each begin on a page of their own, which they share with no root that is
registered or waits to be (04 R151; 09 R365). Its own offsets, WSCALE and TS_BASE are 0. What CUM_W sums is not looked at (DESIGN CHOICE, log 33). -/
def hubOk (s : State) (a : Nat) : Bool :=
  match listAt s a with
  | none => false
  | some (l, n) => match readFrags s l with
    | .error _ => false
    | .ok fs =>
      let frags := fs.filterMap fun e => ownAddr s e.addr
      let areas := (a, n) :: frags.filterMap fun e => (listAt s e).map fun m => (e, m.2)
      let pages := areas.flatMap fun x => pagesOf x.1 x.2
      l.hub && l.offs.all (· == 0) && l.wscale == 0 && l.tsBase == 0 && fragsOk s l fs &&
        areas.length == frags.length + 1 && (areas.all fun x => x.1 % 4096 == 0) && pages.eraseDups.length == pages.length &&
        !(s.plc.hubs.any fun h => h.2.any pages.contains) && !(s.plc.hubAdd.any fun h => (hubPages s h).any pages.contains)

/-- PLC_HUB_ADD (09 R365, R370, R371). -/
def execPlcHubAdd (req : Nat) (s : State) : Out :=
  runOp s req 0x12 (fun r => reqId r == 0 && restZero r 1) fun r =>
    match ownAddr s (reqParam r 0) with
    | none => refuseReq s req r
    | some a =>
      if (s.plc.hubs.any fun h => h.1 == a) ∨ s.plc.hubAdd.contains a ∨ 65536 ≤ s.plc.hubs.length + s.plc.hubAdd.length ∨ !hubOk s a then
        refuseReq s req r
      else acceptReq (plcMap s fun p => { p with hubAdd := p.hubAdd ++ [a] }) req r

/-- PLC_HUB_DROP (09 R370). -/
def execPlcHubDrop (req : Nat) (s : State) : Out :=
  runOp s req 0x13 (fun r => reqId r == 0 && restZero r 1) fun r =>
    match ownAddr s (reqParam r 0) with
    | none => refuseReq s req r
    | some a =>
      if !(s.plc.hubs.any fun h => h.1 == a) ∨ s.plc.hubDrop.contains a then refuseReq s req r
      else acceptReq (planHome (plcMap s fun p => { p with hubDrop := p.hubDrop ++ [a] }) a) req r

/-! ### The update service (14 R537-R549) -/

/-- Whether a rule block is good for a layer, or for a table (14 R549). -/
def ruleOk (table : Bool) (b : List Byte) : Bool :=
  zeroAt b 2 2 && zeroAt b 0x26 2 && zeroAt b 0x3C 4 && zeroAt b 0x34 6 &&
    (if table then decide (5 ≤ rbRule b ∧ rbRule b ≤ 6) && rbGraft b == 0 && decide (1 ≤ rbRecs b ∧ rbRecs b ≤ 1048576) && decide (0x1000 ≤ rbHitch b)
     else decide (1 ≤ rbRule b ∧ rbRule b ≤ 4) && rbRecs b == 0 &&
      (if rbRule b = 4 then (rbGraft b == 2 || rbGraft b == 3) && decide (1 ≤ rbEvery b) && decide (1 ≤ rbIters b ∧ rbIters b ≤ 255)
       else rbGraft b == 0))

/-- Slow-tier bytes of a layer under a rule: master, accumulator and state per element, and under the layer rule each block's
factors and roots (14 R550-R552). -/
def layerSlow (rows cols : Nat) (b : List Byte) : Nat :=
  let elem := match elemRule b with
    | 3 => 8
    | _ => 4
  rows * cols * (8 + elem) + (if rbRule b = 4 then
    ((blockShapes rows cols).map fun x => 8 * (x.2.1 * x.2.1 + x.2.2.2 * x.2.2.2)).foldl (· + ·) 0 else 0)

/-- HBM bytes of a layer: two slice buffers, then two gradient halves (14 R539, R541). -/
def layerBuffers (l : Layer) (devs : Nat) : Nat := let (r, c) := sliceMax l devs; 2 * sliceBytes l devs + 8 * r * c

/-- Reserve bytes of the interleaved region for the device, below the keeper store and from the top down (14 R540). -/
def rangeHigh (s : State) (key n : Nat) : Option (Nat × State) :=
  let m := pageUp n
  let hi := keepStore s
  let taken := (s.upd.ranges.map (·.2)).filter fun r => decide (r.1 < slowBase)
  let ok := fun (o : Nat) => decide (o + m ≤ hi) && taken.all fun r => decide (o + m ≤ r.1) || decide (r.1 + r.2 ≤ o)
  (((hi :: taken.map (·.1)).filter fun e => decide (m ≤ e)).map (· - m) |>.filter ok).max?.map fun a =>
    (a, updMap s fun u => { u with ranges := u.ranges ++ [(key, a, m)] })

/-- The owner of a new layer among the devices not known to be GREY (09 R367). -/
def newOwner (s : State) (id : Nat) : Nat :=
  let grey := fun (d : Nat) => if d = s.boot.dev then devGrey s else
    (List.range 16).any fun p => fget s (regHwsPortCfg p) 0 0 == 1 && peerField s p % 1024 == d && greyRx s p
  let ds := (List.range (devCount s)).filter fun d => !grey d
  ds.getD (id % max 1 ds.length) 0

/-- LYR_REGISTER (14 R537, R540). -/
def execLyrRegister (req : Nat) (s : State) : Out :=
  runOp s req 0x20 (fun r => decide (reqParam r 1 < 2 ^ 48) && zeroAt r.entry 0x11 1 && bit (reqParam r 1) 7 == false && restZero r 4) fun r =>
    let id := reqId r
    let w := reqParam r 1
    let b := hostBytes s (reqParam r 3) 64
    let l : Layer := { layerReset with
      rows := bits (reqParam r 0) 31 0, cols := bits (reqParam r 0) 63 32, fmt := bits w 3 0, slicing := bits w 5 4, gfmt := bits w 6 6
      stepTicks := bits w 31 16, pushHitch := bits w 47 32, startTick := reqParam r 2, owner := newOwner s id }
    if 1024 ≤ id ∨ (layerGet s id).state ≠ 0 ∨ (s.upd.ranges.any fun e => e.1 == 16384 + id) ∨ l.rows = 0 ∨ 65536 < l.rows ∨ l.cols = 0 ∨
        65536 < l.cols ∨ 2 ^ 26 < l.rows * l.cols ∨ 4 < l.fmt ∨ 2 < l.slicing ∨ l.stepTicks = 0 ∨ l.pushHitch < 0x1000 ∨ !ruleOk false b then
      refuseReq s req r
    else match layerTake s (8192 + id) (layerSlow l.rows l.cols b) with
      | none => refuseReq s req r
      | some (_, s) => match rangeHigh s (16384 + id) (layerBuffers l (devCount s)) with
        | none => refuseReq (rangeFree s (8192 + id)) req r
        | some (a, s) =>
          acceptReq (planLater (layerPut s id { layerReset with base := a, nextRule := some b }) [layerItem id 2 l]) req r

/-- LYR_LOAD: the owner fetches the master; other devices complete at once (14 R540). -/
def execLyrLoad (req : Nat) (s : State) : Out :=
  runOp s req 0x21 (fun r => restZero r 2) fun r =>
    let l := layerGet s (reqId r)
    if 1024 ≤ reqId r ∨ l.state = 0 ∨ 65536 ≤ reqParam r 0 then refuseReq s req r
    else if l.owner ≠ s.boot.dev then askGrant s req r
    else reqPut s req { r with stage := .running }

/-- LYR_LOAD_DONE: the master is set, the state and STEPS are 0, RESET_VER is the version, which waits to be scattered (14 R540). -/
def execLyrLoadDone (req : Nat) (s : State) : Out :=
  match reqGet s req with
  | none => .next s
  | some r =>
    let id := reqId r
    let l := layerGet s id
    if reqOp r ≠ 0x21 ∨ r.stage ≠ .running ∨ !dmaOn s ∨ !rugonUp s ∨ l.state = 0 then .next s
    else
      let n := l.rows * l.cols
      let l := { l with
        master := (List.range n).map fun i => leNat (hostBytes s (reqParam r 1 + 4 * i) 4)
        st1 := List.replicate n 0, st2 := List.replicate n 0, blocks := freshBlocks l, refresh := none, fresh := [], steps := 0
        resetVer := reqParam r 0, heldScatter := some (reqParam r 0) }
      .next (askGrant (layerPut s id l) req r)

/-- LYR_FREEZE (14 R540). -/
def execLyrFreeze (req : Nat) (s : State) : Out :=
  runOp s req 0x22 (fun r => restZero r 1) fun r =>
    let l := layerGet s (reqId r)
    if 1024 ≤ reqId r ∨ l.state = 0 ∨ 1 < reqParam r 0 then refuseReq s req r
    else acceptReq (planLater s [layerItem (reqId r) (if reqParam r 0 = 1 then 3 else 4) l]) req r

/-- LYR_RETIRE (14 R540). -/
def execLyrRetire (req : Nat) (s : State) : Out :=
  runOp s req 0x23 (fun r => restZero r 0) fun r =>
    let l := layerGet s (reqId r)
    if 1024 ≤ reqId r ∨ l.state = 0 then refuseReq s req r else acceptReq (planLater s [layerItem (reqId r) 1 l]) req r

/-- Slow-tier bytes a layer holds. -/
def layerHeld (s : State) (id : Nat) : Nat :=
  ((s.upd.ranges.filter fun r => r.1 == 8192 + id || r.1 == 24576 + id).map fun r => r.2.2).foldl (· + ·) 0

/-- The slow-tier space a layer needs under a rule block beyond what it holds is reserved; none where it does not fit (14 R536, R540, R551). -/
def growLayer (s : State) (id : Nat) (l : Layer) (b : List Byte) : Option State :=
  (layerTake s (24576 + id) (layerSlow l.rows l.cols b - layerHeld s id)).map (·.2)

/-- LYR_PARAMS: the block serves from the first step closed after its acceptance; the state it adds is reserved (14 R540). -/
def execLyrParams (req : Nat) (s : State) : Out :=
  runOp s req 0x24 (fun r => restZero r 1) fun r =>
    let l := layerGet s (reqId r)
    let b := hostBytes s (reqParam r 0) 64
    if 1024 ≤ reqId r ∨ l.state = 0 ∨ !ruleOk false b then refuseReq s req r
    else match growLayer s (reqId r) l b with
      | none => refuseReq s req r
      | some s => acceptReq (layerPut s (reqId r) { l with nextRule := some b }) req r

/-- Bytes of a table's two ring halves (14 R545). -/
def ringBytes (t : Table) (recs : Nat) : Nat := 2 * (32 + recs * ringRec t)

/-- TBL_RULE: the rule and its rings wait for the switch stage; RING_ADDR is the device's (14 R540, R545, R549). -/
def execTblRule (req : Nat) (s : State) : Out :=
  runOp s req 0x25 (fun r => restZero r 1) fun r =>
    let id := reqId r
    let t := tableGet s id
    let b := hostBytes s (reqParam r 0) 64
    if 4096 ≤ id ∨ t.state = 0 ∨ !t.train ∨ !ruleOk true b then refuseReq s req r
    else
      let old := tblRuleGet s id
      let s0 := rangeFree s (65536 + id)
      match rangeHigh s0 (65536 + id) (ringBytes t (rbRecs b)) with
      | none => refuseReq s req r
      | some (a, s) => acceptReq (tblRulePut s id { old with nextRule := some (b.take 0x34 ++ natLe 6 a ++ b.drop 0x3A) }) req r

/-! ### Pipelines and instantiation (R692-R697) -/

/-- Whether a byte range touches a page of a table's current slot. -/
def inCurrentSlot (s : State) (a n : Nat) : Bool :=
  (pagesOf a n).any fun p => match localOff s (p * 4096) with
    | some (_, o) => s.emb.tables.any fun e =>
        let b := if e.2.slot = 0 then e.2.base0 else e.2.base1
        (e.2.state == 2 || e.2.state == 3) && decide (b ≤ o ∧ o < b + segBytes e.2)
    | none => false

/-- PIPE_REGISTER: the registration takes effect, and completes, at the next switch stage (R692, R693). -/
def execPipeRegister (req : Nat) (s : State) : Out :=
  runOp s req 0x30 (fun r => decide (reqParam r 3 < 2 ^ 17) && restZero r 4) fun r =>
    let id := reqId r
    let p : Pipeline := ⟨reqParam r 0, bits (reqParam r 1) 31 0, reqParam r 2, bits (reqParam r 1) 63 32, bits (reqParam r 3) 15 0,
      bit (reqParam r 3) 16, false, false, req, 0⟩
    let n := p.pages * 4096
    let tried := pciMap s fun u => { u with pipes := u.pipes ++ [(id, { p with active := true })] }
    if id = 0 ∨ 4096 ≤ id ∨ (pipeGet s id).isSome ∨ p.code % 4096 ≠ 0 ∨ p.pages = 0 ∨ 65536 < p.pages ∨ !hbmRange s p.code n ∨
        p.template % 128 ≠ 0 ∨ p.template < p.code ∨ p.code + n < p.template + 128 ∨ 2 ^ 20 < p.resultBytes ∨ p.resultBytes % 64 ≠ 0 ∨
        p.deadline = 0 ∨ (s.pci.pipes.any fun e => !apart p.code n e.2.code (e.2.pages * 4096)) ∨ inCurrentSlot s p.code n ∨
        badDesc tried (readBytes s p.template 128) false then refuseReq s req r
    else reqPut (pciMap s fun u => { u with pipes := pput u.pipes id p }) req { r with stage := .running }

/-- PIPE_UNREGISTER: every INSTANTIATE is refused from now on (R693). -/
def execPipeUnregister (req : Nat) (s : State) : Out :=
  runOp s req 0x31 (fun r => restZero r 0) fun r =>
    match pipeGet s (reqId r) with
    | some p =>
      if !p.active ∨ p.unregistering then refuseReq s req r
      else reqPut (pciMap s fun u => { u with pipes := pput u.pipes (reqId r) { p with unregistering := true, unregReq := req } }) req
        { r with stage := .running }
    | none => refuseReq s req r

/-- In the switch stage, pending registrations take effect, and removals of pipelines with no request outstanding (R693). -/
def pipelineSwitch (s : State) : State :=
  s.pci.pipes.foldl (fun s e =>
    let done := fun (s : State) (id : Nat) => match reqGet s id with
      | some r => askGrant s id r
      | none => s
    if !e.2.active then done (pciMap s fun u => { u with pipes := pput u.pipes e.1 { e.2 with active := true } }) e.2.regReq
    else if e.2.unregistering && !(s.pci.requests.any fun r => reqOp r.2 == 0x32 && reqId r.2 == e.1 && r.2.stage != .due) then
      done (pciMap s fun u => { u with pipes := pdel u.pipes e.1 }) e.2.unregReq
    else s) s

/-- The root descriptor of an instantiation: the template with its arguments (R694). -/
def rootDesc (s : State) (req : Nat) (r : Request) (p : Pipeline) : List Byte :=
  let t := readBytes s p.template 128
  t.take 0x18 ++ (if p.rootFinal then natLe 6 (recAddr s r) else (t.drop 0x18).take 6) ++ (t.drop 0x1E).take 0x22 ++
    (List.range 5).flatMap (fun i => natLe 8 (reqParam r (2 + i))) ++ natLe 8 req ++ natLe 8 (recAddr s r) ++ natLe 8 (resAddr s r)

/-- INSTANTIATE: the root task is submitted; where its list is full the queue stops and the request waits (R694; 10 R396). -/
def execInstantiate (req : Nat) (s : State) : Out :=
  runOp s req 0x32 (fun r => decide (reqParam r 1 < 2 ^ 32)) fun r =>
    match pipeGet s (reqId r) with
    | none => refuseReq s req r
    | some p =>
      if !p.active ∨ p.unregistering ∨ p.resultBytes < reqParam r 1 then refuseReq s req r
      else
        let (a, s) := submit s (rootDesc s req r p) req false
        let r := { r with rootWaits := decide (2 ≤ a) }
        if a = 0 then reqPut s req { r with stage := .running }
        else if a = 1 then refuseReq s req r
        else reqPut s req r

/-- FINAL_RECORD_ARRIVAL: the first final record in the record slot ends the request, or gives an aborted one its task status;
later ones are counted (R695, R701). -/
def execFinalRecordArrival (req : Nat) (s : State) : Out :=
  match reqGet s req with
  | none => .next s
  | some r =>
    let b := readBytes s (recAddr s r) 32
    if r.recSlot.isNone ∨ fld b 8 8 ≠ req ∨ (r.stage ≠ .running ∧ r.stage ≠ .dma ∧ r.stage ≠ .arbiter) then .next s
    else if r.final.isSome then .next (bump1 s regPciExtraFinal)
    else
      let st := fld b 0x14 1
      let r := { r with final := some b, taskStatus := st, taskCause := fld b 0x15 1, result := fld b 0x10 4 }
      if r.aborted then .next (reqPut s req r)
      else if st = 0 ∧ 0 < reqParam r 1 then .next (reqPut s req { r with stage := .dma })
      else if st = 0 then .next (reqPut s req { r with stage := .arbiter })
      else .next (reqPut s req { r with stage := .arbiter, status := if st ≤ 2 then st else 3, cause := 1 })

/-- RESULT_DMA_DONE: the result bytes are written to the host; an uncorrectable result slot ends the request (R695). -/
def execResultDmaDone (req : Nat) (s : State) : Out :=
  match reqGet s req with
  | none => .next s
  | some r =>
    let n := reqParam r 1
    if r.stage ≠ .dma ∨ !dmaOn s then .next s
    else if unitBad s (resAddr s r) n then
      let (len, s) := stopDma (badRead s (resAddr s r) n) r
      .next (reqPut s req { r with stage := .arbiter, status := 3, cause := 6, length := len })
    else .next (reqPut (hostWrite s (reqParam r 0) (readBytes s (resAddr s r) n)) req { r with stage := .arbiter, length := n })

/-- Whether a task of an aborted request has still to write the record slot (R698). -/
def recordDue (s : State) (req : Nat) (r : Request) : Bool :=
  r.aborted && r.final.isNone && s.sch.tasks.any fun e => e.2.req == req && e.2.desc.compAddr == recAddr s r && r.recSlot.isSome

/-- COMPLETION_GRANT: the arbiter grants a completion or an abort, and the entry is written (R698). -/
def execCompletionGrant (req : Nat) (s : State) : Out :=
  match reqGet s req with
  | none => .next s
  | some r => if r.stage ≠ .arbiter ∨ recordDue s req r then .next s else .next (commitReq s req r)

/-- DEADLINE: no final record has come by the apply point of the tick DEADLINE_TICKS after the fetch (R697). -/
def execDeadline (req : Nat) (s : State) : Out :=
  match reqGet s req with
  | none => .next s
  | some r => match pipeGet s (reqId r) with
    | none => .next s
    | some p =>
      let t := r.fetchTick + p.deadline
      if reqOp r ≠ 0x32 ∨ r.final.isSome ∨ !abortable r ∨ !s.tsq.running ∨ s.tsq.tick < t then .next s
      else .next (abortReq (if s.tsq.tick = t then advance s (applyAt s) else s) req r 3)

/-- HOST_ABORT: an ABORT entry is applied when it is fetched (R699). -/
def execHostAbort (req : Nat) (s : State) : Out :=
  match reqGet s req with
  | none => .next s
  | some r =>
    if reqOp r ≠ 0x33 ∨ r.stage ≠ .waitUnits then .next s
    else if decide (2 ≤ fld r.entry 1 1 ∧ fld r.entry 1 1 ≠ 2) || !zeroAt r.entry 6 2 || decide (2 ^ 32 ≤ reqParam r 0) || !restZero r 1 || bit (fld r.entry 1 1) 0 then
      .next (completeReq s req r 5 7)
    else
      let x := queueGet s (reqId r)
      match (if reqId r < 1024 ∧ (x.state = 1 ∨ x.state = 2) then pfind x.last (bits (reqParam r 0) 15 0) else none) with
      | none => .next (refuseReq s req r)
      | some (cid, id) =>
        if cid ≠ bits (reqParam r 0) 31 16 then .next (refuseReq s req r)
        else match reqGet s id with
          | some t =>
            if id ≠ req ∧ abortable t then .next (acceptReq (abortReq s id t 2) req r)
            else .next (completeReq (bump1 s regPciAbortLost) req r 4 0)
          | none => .next (completeReq (bump1 s regPciAbortLost) req r 4 0)

/-- REQUEST_NOT_READY: the wait for units is over (16 R637). -/
def execRequestNotReady (req : Nat) (s : State) : Out :=
  match reqGet s req with
  | none => .next s
  | some r =>
    if r.stage ≠ .waitUnits ∨ reqOp r = 0x33 ∨ unitsSettled s (reqOp r) then .next s
    else .next (completeReq (advance s (r.fetchAt + fget s regRdyWait 15 0 * 1000000)) req r 6 0)

/-- The operations that read host memory. -/
def readsHost (op : Nat) : Bool := readsAtStart op || op == 0x21

/-- HOST_TIMEOUT: a read of host memory has timed out twice: for a request, or (request 0) while the entries of a queue were
fetched (15 R574; R703). -/
def execHostTimeout (queue req : Nat) (s : State) : Out :=
  if req = 0 then
    let x := queueGet s queue
    if 1024 ≤ queue ∨ x.state ≠ 1 then .next s
    else
      let s := event (bump1 (queuePut s queue { x with state := 2 }) regPciHostTimeout) regPciEvents 3
      .next (report s 0x80 1 (unitCode s 9 queue) 0)
  else match reqGet s req with
  | none => .next s
  | some r =>
    if !abortable r ∨ !readsHost (reqOp r) then .next s
    else
      let s := report (bump1 (stopWork s req r) regPciHostTimeout) 0x80 1 (unitCode s 9 r.queue) req
      .next (reqPut s req { r with stage := .arbiter, status := 3, cause := 5, rows := [] })

/-! ### BAR2 (R682) -/

/-- The start of the BAR2 window (R682, R706). -/
def bar2Base (s : State) : Nat := rget s regPciBar2Map / 2 ^ s.pci.bar2Log2 * 2 ^ s.pci.bar2Log2

/-- Whether every byte of a range can be reached. -/
def allReach (s : State) (a n : Nat) : Bool := (List.range n).all fun i => reachable s (a + i)

/-- BAR2_READ: data, Completer Abort for an uncorrectable unit, Unsupported Request for an address that is not backed; an endpoint in reset answers
nothing (16 R615, R616; R682). -/
def execBar2Read (off len : Nat) (s : State) : Out :=
  let a := bar2Base s + off
  if !s.boot.pwrgood ∨ !s.pci.linkUp then .next s
  else if 2 ^ s.pci.bar2Log2 < off + len ∨ !allReach s a len then .next (pciMap s fun p => { p with readData := [], readStatus := 2 })
  else if unitBad s a len then
    .next (pciMap (badRead s a len) fun p => { p with readData := [], readStatus := 1 })
  else .next (pciMap s fun p => { p with readData := readBytes s a len, readStatus := 0 })

/-- Cut a write into the parts that lie in one page each. -/
def pageParts : Nat → Nat → List Byte → List (Nat × List Byte)
  | 0, _, _ => []
  | fuel + 1, a, l =>
    if l.isEmpty then [] else
      let k := 4096 - a % 4096
      (a, l.take k) :: pageParts fuel (a + k) (l.drop k)

/-- BAR2_WRITE: nothing comes through an endpoint that is in reset (16 R615, R616); a write to an address that is not backed or to a protected page is dropped and counted (R682). -/
def execBar2Write (off : Nat) (data : List Byte) (s : State) : Out :=
  if !s.boot.pwrgood ∨ !s.pci.linkUp then .next s
  else .next ((pageParts (data.length + 1) (bar2Base s + off) data).foldl (fun s w =>
    if 2 ^ s.pci.bar2Log2 < w.1 - bar2Base s + w.2.length ∨ !allReach s w.1 w.2.length ∨ protectedAt s w.1 w.2.length then
      event (bump1 s regPciBar2Drop) regPciEvents 2
    else memWrite s w.1 w.2) s)

/-! ### The reset of the host interface (R704) -/

/-- The registers of the PCI block that return to reset: the queues' and PCI_BAR2_MAP (R704). -/
def pciCsrReset (s : State) : State := { s with csr := s.csr.filter fun r => !(r.1 == regPciBar2Map || (decide (0x10000 ≤ r.1) && decide (r.1 < 0x18000))) }

/-- Reset the host interface alone: the queues go, every request is aborted without an entry (R704). -/
def hostReset (s : State) : State :=
  let s := s.pci.requests.foldl (fun s e => match reqGet s e.1 with
    | some r => if abortable r then abortReq s e.1 { r with silent := true } 2 else s
    | none => s) s
  let s := pciCsrReset (pciMap s fun p => { p with queues := [], requests := [], recSlots := [], pool := [], d3hot := false, bme := false, bar2Log2 := 39 })
  event s regPciEvents 4

/-- CONFIG_SPACE_WRITE: the power state (field 0: 1 for D3hot), Bus Master Enable (1) and the BAR2 size as its power of two (2); the
entries that are due are written once they may be (R680, R682). Until the configuration space is loaded the answer is Request Retry Status, and nothing
is written (16 R615, R616). -/
def execConfigSpaceWrite (field value : Nat) (s : State) : Out :=
  if !s.boot.pwrgood ∨ !s.pci.linkUp then .next s
  else match field with
  | 0 => .next (writeDue (pciMap s fun p => { p with d3hot := value % 4 == 3 || value == 1 }))
  | 1 => .next (writeDue (pciMap s fun p => { p with bme := value % 2 == 1 }))
  | 2 => if 30 ≤ value ∧ value ≤ 39 then .next (pciMap s fun p => { p with bar2Log2 := value }) else .next s
  | _ => .next s

end Sys2Proof.Machine
end

