-- ==== Sys2Proof/Machine/Boot.lean ====
section
/-! DEFINITION. Power, the boot chain, the configuration image, bring-up and the core map (01 R29, R42, R43; 15 R593; 16 R615-R632;
17 R652, R657, R658, R662). -/

namespace Sys2Proof.Machine

/-! ### Power and reset (16 R615-R617) -/

/-- The device with every unit in reset: the flash, the fuses, the pins and host memory stay, and the remap table where its retained
SRAM keeps it, less the rows that post-package repair fuses (16 R615, R617; 12 R469). -/
def offState (s : State) (remap : Bool) : State :=
  { State.reset with
    pending := s.pending
    freeCtr := s.freeCtr
    hostMem := s.hostMem
    boot := { State.reset.boot with
      pwrgood := s.boot.pwrgood, perst := s.boot.perst, gpio := s.boot.gpio, dir0 := s.boot.dir0, dir1 := s.boot.dir1
      flash := s.boot.flash, coreRecord := s.boot.coreRecord }
    keep := { State.reset.keep with
      udsErased := s.keep.udsErased, rootHash := s.keep.rootHash, revoked := s.keep.revoked, svnFloor := s.keep.svnFloor
      lifecycle := s.keep.lifecycle }
    elec := { s.elec with overtemp := [] }
    chans := if remap then
        (s.chans.map fun c => (c.1, { chanReset with
          remap := c.2.remap.filter fun e => !Config.rowFused c.1 e.row, sparesUsed := c.2.sparesUsed })).filter fun c => decide (c.2 ≠ chanReset)
      else [] }

/-- Whether a directory copy is valid: its MAGIC and its CRC match (16 R620). -/
def dirValid (c : DirCopy) : Bool := c.length == 20 && fld c 0 4 == 0x5249444D && fld c 0x10 4 == crc32 (c.take 16)

/-- The SEQ of a directory copy (16 R620). -/
def dirSeq (c : DirCopy) : Nat := fld c 4 4

/-- The bytes of a directory copy (16 R620). -/
def dirCopyBytes (seq active : Nat) : DirCopy :=
  let b := natLe 4 0x5249444D ++ natLe 4 seq ++ natLe 1 active ++ natLe 7 0
  b ++ natLe 4 (crc32 b)

/-- The slot that is ACTIVE: the valid copy with the greater SEQ names it, and slot A is taken where neither copy is valid (16 R620). -/
def activeSlot (s : State) : Nat :=
  let a := s.boot.dir0
  let b := s.boot.dir1
  if dirValid a && (!dirValid b || decide (dirSeq b < dirSeq a)) then fld a 8 1 % 2 else if dirValid b then fld b 8 1 % 2 else 0

/-- The slot the ROM tries next: the ACTIVE one, then the other (16 R621). -/
def bootSlot (s : State) : Nat := if s.boot.tried.isEmpty then activeSlot s else 1 - activeSlot s

/-- Set STAGE. -/
def setStage (s : State) (n : Nat) : State := fset s regBootStatus 15 12 n

/-- PWRGOOD_RISE: a cold start samples GPIO0-3 and starts the ROM, unless a die reads above 100 °C (16 R615; 19 R716; 20 R752). -/
def execPwrgoodRise (gpio : Nat) (s : State) : Out :=
  if s.boot.pwrgood ∨ s.elec.thermtrip ∨ s.elec.dieTemp.any (fun d => decide (100 < d.2)) then .next s
  else .next (bootMap (offState s false) fun b => { b with pwrgood := true, gpio := gpio % 16 })

/-- PWRGOOD_FALL: the module resets, the retained SRAM is cleared, and THERMTRIP_N is released (16 R615; 20 R752). -/
def execPwrgoodFall (s : State) : Out :=
  let s := bootMap (offState s false) fun b => { b with pwrgood := false }
  .next { s with elec := { s.elec with thermtrip := false } }

/-- BOOT_RESTART: a write with KEY and GO restarts the device and keeps the retained SRAM (16 R617, R648). -/
def execBootRestart (value : Nat) (s : State) : Out :=
  if bits value 31 16 ≠ 0xB007 ∨ !bit value 0 ∨ !s.boot.pwrgood then .next s else .next (offState s true)

/-- PERST_N_ASSERT: PERST_N (cause 0), a hot reset (1), a link-down (2) or a Function Level Reset (3) resets the host interface alone
(16 R616; 18 R704). -/
def execPerstNAssert (cause : Nat) (s : State) : Out :=
  if !s.boot.pwrgood then .next (if cause = 0 then bootMap s fun b => { b with perst := false } else s)
  else
    let s := hostReset s
    let s := if cause = 0 ∨ cause = 2 then pciMap s fun p => { p with linkUp := false, linkMode := 0 } else s
    if cause ≠ 0 then .next s
    else
      let s := bootMap s fun b => { b with perst := false }
      .next (if rdyState s 0x3A == .ready then setUnit s 0x3A .training 0 else s)

/-- PERST_N_DEASSERT: the endpoint starts to load its configuration space (16 R616). -/
def execPerstNDeassert (s : State) : Out := .next (bootMap s fun b => { b with perst := true })

/-- CONFIG_SPACE_LOADED: the endpoint answers configuration requests; the link runs at the speed and width it has negotiated (16
R616; 18 R679, R705). -/
def execConfigSpaceLoaded (s : State) : Out :=
  if !s.boot.pwrgood ∨ !s.boot.perst then .next s
  else
    let (n, s) := drawN s 3
    let speed := 1 + Config.freeNat n % 7
    let width := 2 ^ [0, 2, 3, 4].getD (Config.freeNat (n + 1) % 4) 0
    let flit := if 6 ≤ speed then 1 else Config.freeNat (n + 2) % 2
    let s := pciMap s fun p => { p with linkUp := true, linkMode := speed + 8 * width + 256 * flit }
    .next (if rdyState s 0x3A == .grey ∨ rdyState s 0x3A == .fenced then s else setUnit s 0x3A .ready 0)

/-! ### The configuration image (16 R624-R626) -/

/-- The body of an object. -/
def objectBody (o : List Byte) : List Byte := (o.drop (fld o 0x18 4)).take (fld o 0x1C 4)

/-- The section of a type: offset and length, where it appears exactly once. -/
def findSection (b : List Byte) (ty : Nat) : Option (Nat × Nat) :=
  match (List.range (fld b 0 2)).filter fun i => fld b (16 + 16 * i) 2 == ty with
  | [i] => some (fld b (20 + 16 * i) 4, fld b (24 + 16 * i) 4)
  | _ => none

/-- The length of a section. -/
def sectionLen (ty : Nat) : Nat := [80, 8, 8, 24, 16, 24, 8, 256, 8].getD (ty - 1) 0

/-- The section table is whole: nine types, each once, of its length, within the body and apart (16 R624, R625). -/
def sectionsOk (b : List Byte) : Bool :=
  let secs := (List.range 9).filterMap fun i => findSection b (i + 1)
  fld b 0 2 == 9 && zeroAt b 2 14 && secs.length == 9 &&
    ((List.range 9).all fun i => zeroAt b (18 + 16 * i) 2 && zeroAt b (28 + 16 * i) 4) &&
    (secs.zipIdx.all fun e => e.1.2 == sectionLen (e.2 + 1) && decide (160 ≤ e.1.1 ∧ e.1.1 + e.1.2 ≤ b.length)) &&
    (secs.zipIdx.all fun e => secs.zipIdx.all fun f => e.2 == f.2 || apart e.1.1 e.1.2 f.1.1 f.1.2)

/-- The bytes of a section. -/
def sectionOf (b : List Byte) (ty : Nat) : List Byte :=
  match findSection b ty with
  | some (o, n) => (b.drop o).take n
  | none => []

/-- Register k of a section. -/
def secReg (b : List Byte) (ty k : Nat) : Nat := fld (sectionOf b ty) (8 * k) 8

/-- A field of a register value lies within bounds. -/
def within (v hi lo a b : Nat) : Bool := decide (a ≤ bits v hi lo ∧ bits v hi lo ≤ b)

/-- Whether the tick lengths are within their ranges (02 R50). -/
def ticksOk (v : Nat) : Bool :=
  let p := bits v 13 0
  within v 13 0 100 10000 && within v 25 14 20 (max 20 (p / 4)) && within v 37 26 10 (max 10 (p / 4)) && decide (bits v 61 38 < p * 1000) &&
    bits v 63 62 == 0

/-- Whether the timeouts are within their ranges and order (15 R573, R605). -/
def timeoutsOk (v : Nat) : Bool :=
  within v 23 18 4 63 && within v 17 12 2 62 && within v 11 8 2 15 && within v 7 4 2 14 && bits v 63 24 == 0 && bits v 3 0 == 0 &&
    decide (bits v 7 4 < bits v 11 8) && decide (bits v 17 12 < bits v 23 18)

/-- Whether the memory and registry settings are within their ranges (08 R328; 12 R477). -/
def memoryOk (m e : Nat) : Bool :=
  within m 63 52 64 2048 && bits m 63 52 % 64 == 0 && bits m 51 40 == 0 && within m 39 32 1 255 && within m 31 24 1 255 && bits m 23 0 == 0 &&
    bits e 47 42 == 0 && within e 41 20 1 4194303 && bits e 19 10 == 0

/-- Whether the placement and gather settings are within their ranges (04 R176; 09 R372, R373). -/
def placementOk (c p g : Nat) : Bool :=
  within c 63 57 1 100 && within c 56 50 1 100 && within c 49 43 1 100 && bits c 42 32 == 0 && within c 31 20 1 4095 && bits c 19 17 == 0 &&
    decide (bits c 16 0 ≤ 65536) && bits p 31 20 == 0 && within g 26 16 16 1024 && bits g 63 27 == 0 && bits g 15 8 == 0 && within g 7 0 0 32

/-- Whether a class record is within its ranges (08 R293). -/
def classOk (r : List Byte) : Bool :=
  let w := fld r 0 2
  (w == 0 || (decide (8 ≤ w ∧ w ≤ 4096) && w % 8 == 0)) && decide (fld r 2 5 < 2 ^ 40) && decide (fld r 7 1 < 8) && decide (fld r 8 4 ≤ 16777216) &&
    zeroAt r 12 4

/-- Whether the topology holds: device below D, D 1 with no port, legal port settings (13 R523; 16 R624, R625). -/
def topologyOk (t : List Byte) : Bool :=
  let port := fun (p : Nat) => fld t (16 + 4 * p) 4
  decide (1 ≤ fld t 2 2 ∧ fld t 2 2 ≤ 1024) && decide (fld t 0 2 < fld t 2 2) && zeroAt t 4 4 &&
    ((List.range 16).all fun p => bits (port p) 31 16 == 0 && bits (port p) 4 3 != 3 && bits (port p) 2 1 == 0) &&
    (fld t 2 2 == 1 || (List.range 16).any fun p => bit (port p) 0)

/-- Whether the content of a configuration image passes (16 R625). -/
def configOk (b : List Byte) : Bool :=
  let tim := secReg b 3 0
  let hws := secReg b 4 1
  let pol := secReg b 9 0
  sectionsOk b && topologyOk (sectionOf b 1) && ticksOk (secReg b 2 0) && bits tim 63 24 == 0 && timeoutsOk (secReg b 4 0) &&
    bits hws 63 24 == 0 && within hws 23 16 0 50 && bits hws 15 7 == 0 && within hws 6 0 20 90 && within (secReg b 4 2) 63 0 1 60000 &&
    memoryOk (secReg b 5 0) (secReg b 5 1) && placementOk (secReg b 6 0) (secReg b 6 1) (secReg b 6 2) &&
    within (secReg b 7 0) 15 8 1 255 && bits (secReg b 7 0) 63 16 == 0 && bits (secReg b 7 0) 7 1 == 0 &&
    ((List.range 16).all fun c => classOk (((sectionOf b 8).drop (16 * c)).take 16)) &&
    within pol 15 8 1 255 && bits pol 63 16 == 0 && bits pol 7 4 == 0

/-- The values of a configuration image are loaded into their registers (16 R624). -/
def loadConfig (s : State) (o : List Byte) : State :=
  let b := objectBody o
  let t := sectionOf b 1
  let put := fun (s : State) (x : Nat × Nat) => rset s x.1 x.2
  let s := [(regTsqCfg, secReg b 2 0), (regTimCfg, secReg b 3 0), (regFltTimeouts, secReg b 4 0), (regHwsCfg, secReg b 4 1),
    (regRdyWait, secReg b 4 2), (regMemCfg, secReg b 5 0), (regEmbCfg, secReg b 5 1), (regPlcCfg, secReg b 6 0), (regPlcPool, secReg b 6 1),
    (regSchCfg, secReg b 7 0), (regKeepDebugPolicy, secReg b 9 0), (regBootBuild, fld o 0x10 8), (regBootPartId, fld t 8 8)].foldl put s
  let s := (List.range 16).foldl (fun s p => rset s (regHwsPortCfg p) (fld t (16 + 4 * p) 4)) s
  let s := (List.range 272).foldl (fun s c => rset s (regCorGatCfg c) (secReg b 6 2)) s
  let classes := (List.range 16).map fun c =>
    let r := ((sectionOf b 8).drop (16 * c)).take 16
    (c, (⟨fld r 0 2, fld r 2 5, fld r 7 1, fld r 8 4⟩ : TableClass))
  bootMap { s with emb := { s.emb with classes := classes } } fun x => { x with configLoaded := true, dev := fld t 0 2, devs := fld t 2 2 }

/-! ### The boot chain (16 R621, R628, R629) -/

/-- Keep a flash object under its slot and area. -/
def putFlash (s : State) (slot area : Nat) (o : List Byte) : State := bootMap s fun b => { b with flash := pput b.flash (4 * slot + area) o }

/-- Whether an object passes R623 but for its signature, whose verdict the command carries: its form, its BODY_DIGEST and its key (16 R623; 17 R653). -/
def objectAccepted (s : State) (kind : Nat) (o : List Byte) : Bool :=
  objectForm s kind o && (o.drop 0x30).take 64 == shake256 (objectBody o) && (rootSlot s ((o.drop (fld o 0x20 4)).take 2592)).isSome

/-- Whether an object is what the flash holds in an area of a slot. What stands in an area that the device has not written since the model's reset is
the flash's own, and the command says what the ROM or the keeper reads there (16 R619, R621; DESIGN CHOICE, log 45). -/
def inFlash (s : State) (slot area : Nat) (o : List Byte) : Bool :=
  match pfind s.boot.flash (4 * slot + area) with
  | some x => x == o
  | none => true

/-- KEEPER_IMAGE_PASS: the keeper image of the slot the ROM tries passes and runs (16 R621, R628; 17 R657, R662). -/
def execKeeperImagePass (slot : Nat) (object : List Byte) (s : State) : Out :=
  if !s.boot.pwrgood ∨ stage s ≠ 0 ∨ slot ≠ bootSlot s ∨ !inFlash s slot 0 object ∨ !objectAccepted s 1 object then .next s
  else
    let f := imageOf object
    let s := keeperStart (mrExtend (putInForce (putFlash s slot 0 object) 1 f) 0 f.meas)
    let s := fset (fset s regBootStatus 10 10 slot) regBootStatus 9 9 (b2n (slot != activeSlot s))
    .next (setStage (setUnit s 0x40 .ready 0) 1)

/-- CONFIG_IMAGE_PASS: the configuration image, which the keeper reads once it has brought up the fault aggregator, passes and its values are loaded (16
R625, R628, R629; 17 R657). -/
def execConfigImagePass (slot : Nat) (object : List Byte) (s : State) : Out :=
  if stage s ≠ 1 ∨ !s.boot.pwrgood ∨ !settled (rdyState s 0x39) ∨ slot ≠ bootSlot s ∨ !inFlash s slot 3 object ∨ !objectAccepted s 4 object ∨ !configOk (objectBody object) then .next s
  else
    let f := imageOf object
    let s := mrExtend (putInForce (putFlash s slot 3 object) 4 f) 1 f.meas
    .next (setStage (loadConfig (debugEvent s 0 0) object) 2)

/-- FIRMWARE_PASS: the control and service objects pass, are measured and run, and every unit starts its bring-up (16 R628-R630; 17
R657). -/
def execFirmwarePass (control service : List Byte) (s : State) : Out :=
  if stage s ≠ 2 ∨ !inFlash s (bootSlot s) 1 control ∨ !inFlash s (bootSlot s) 2 service ∨ !objectAccepted s 2 control ∨ !objectAccepted s 3 service then .next s
  else
    let slot := bootSlot s
    let fc := imageOf control
    let fs := imageOf service
    let s := mrExtend (putInForce (putFlash s slot 1 control) 2 fc) 2 fc.meas
    let s := mrExtend (putInForce (putFlash s slot 2 service) 3 fs) 3 fs.meas
    let s := setStage s 4
    let s := [0x41, 0x42].foldl (fun s i => setUnit s i .ready 0) s
    let training := [6, 0x3B] ++ (List.range 192).map idxChan ++ (List.range 272).map idxCore
    let testing := (List.range 20).map idxCtrl ++ (List.range 9).map (0x30 + ·)
    let begin_ := fun (st : UnitState) (s : State) (i : Nat) => if rdyState s i == .absent then setUnit s i st 0 else s
    let s := testing.foldl (begin_ .testing) (training.foldl (begin_ .training) s)
    .next ((List.range 16).foldl (fun s p =>
      if fget s (regHwsPortCfg p) 0 0 = 0 then s
      else setUnit (portPut s p { portGet s p with trainAt := s.now }) (idxPort p) .training 0) s)

/-- An IMAGE_REJECTED record: the image's kind and its slot, 2 for a staged one (15 R599; 17 R658). -/
def rejectImage (s : State) (kind slot : Nat) : State := report s 0xB0 0 (unitCode s 11 0) (kind + 256 * slot)

/-- IMAGE_REJECTED: an object of the slot fails: the keeper records it and hands back to the ROM, which tries the other slot or halts;
kind 0 is a flash without a valid SFDP signature (16 R618, R621, R628). -/
def execImageRejected (slot kind : Nat) (s : State) : Out :=
  let st := stage s
  let fits := (kind = 0 ∧ st = 0) ∨ (kind = 1 ∧ st = 0) ∨ (kind = 4 ∧ st = 1) ∨ ((kind = 2 ∨ kind = 3) ∧ st = 2)
  if !s.boot.pwrgood ∨ !decide fits ∨ slot ≠ bootSlot s then .next s
  else if kind = 0 then .next (fset (setStage s 15) regBootStatus 7 0 4)
  else
    let reason := if kind = 1 then 1 else if kind = 4 then 2 else 3
    let s := if kind = 1 then s else rejectImage s kind slot
    let s := bootMap s fun b => { b with tried := b.tried ++ [8 * slot + reason] }
    if s.boot.tried.length < 2 then .next (setStage s 0)
    else .next (fset (setStage s 15) regBootStatus 7 0 ((s.boot.tried.map (· % 8)).foldl max 0))

/-- BOOT_FW_READY: a control core says that its firmware is ready (16 R646). -/
def execBootFwReady (k : Nat) (s : State) : Out :=
  if 20 ≤ k ∨ rdyState s (idxCtrl k) ≠ .ready then .next s else .next (event s regBootFwReady 0)

/-! ### Bring-up (16 R629-R632) -/

/-- The records the keeper has held are written once the aggregator is READY (16 R629). -/
def flushHeld (s : State) : State :=
  let rs := s.flt.held
  rs.foldl (fun s r => (file s r).2) { s with flt := { s.flt with held := [] } }

/-- The time unit reports READY: with no source that answers, it runs free where that is allowed (02 R68). -/
def timeReady (s : State) : State :=
  if s.tim.state == .unset && freeOk s && !((srcOrder s).any fun x => answers s x) then
    timMap s fun t => { t with state := .free, usableAt := s.now }
  else s

/-- What a unit's READY brings with it at bring-up (16 R629-R632). -/
def nowReady (s : State) (i : Nat) : State :=
  if i = 0x39 then flushHeld s
  else if i = 0x30 then timeReady s
  else if i = 0x31 then { s with tsq := { s.tsq with readyAt := some s.now } }
  else if 0x10 ≤ i ∧ i ≤ 0x23 then
    let n := 17408 + (i - 0x10)
    ctrlPut (hartSet s n { hartReset with st := .ready }) (i - 0x10) { ctrlReset with image := imageInForce s }
  else s

/-- A unit cannot pass: it is FENCED, and a core, whose self-test has failed in `check`, is recorded and gives up the number it holds (16 R630; 15 R576,
R578, R588). -/
def bringupFenced (s : State) (i check : Nat) : State :=
  if 0x200 ≤ i then
    let s := fenceCore (report s 0x10 2 (unitCode s 2 (i - 0x200)) check) (i - 0x200) 0x10
    if s.tsq.running then queueFence s (i - 0x200) else s
  else if 0x10 ≤ i ∧ i ≤ 0x23 then bump1 (setUnit s i .fenced 0) regFltFenced
  else setUnit s i .fenced 0

/-- The channel a map index stands for. -/
def channelOf (i : Nat) : Option Nat := if 0x100 ≤ i ∧ i < 0x1C0 then some (i - 0x100) else none

/-- UNIT_BRINGUP_REPORT: a unit reports TRAINING (1), TESTING (2), READY (3) or FENCED (4). A port becomes READY by its marker check,
the tick sequencer only with BOOT_FW_READY, the PCIe endpoint with its configuration space. A channel that has trained reports its failing lanes, a
core that fails the check in the same field. A channel that reports READY has run DESTRUCTIVE, with a row failure for each unit that failed, and has
written every unit to 0. A unit that is READY brings itself up no more; a
GREY die reports only the failure of its restart (16 R629, R630, R632; 12 R465, R475; 13 R519; 15 R589). -/
def execUnitBringupReport (unit : Nat) (state : UnitReport) (s : State) : Out :=
  let st := rdyState s unit
  let early := unit = 0x39 ∧ 1 ≤ stage s
  let port := 0x1C0 ≤ unit ∧ unit ≤ 0x1CF
  let dead := idxDie 0 ≤ unit ∧ unit ≤ idxDie 5 ∧ state.state = 4 ∧ (rdyGet s unit).released
  if !s.boot.pwrgood ∨ !idxValid unit ∨ unit = 0x48 ∨ unit = 0x49 ∨ unit = 0x3A ∨ stage s = 15 ∨ (stage s < 4 ∧ ¬ early) ∨ (st = .grey ∧ ¬ dead) ∨
      st = .fenced ∨ st = .ready ∨ (port ∧ (state.state = 2 ∨ state.state = 3 ∨ st = .absent)) ∨ (unit = 0x31 ∧ state.state = 3 ∧ fget s regBootFwReady 0 0 = 0) then .next s
  else match state.state with
    | 1 => .next (setUnit s unit .training 0)
    | 2 => match channelOf unit with
      | none => .next (setUnit s unit .testing 0)
      | some c =>
        let (lanes, past) := laneRepair state.failing
        let s := chanPut s c { chanGet s c with lanes := lanes }
        .next (if past then diesRecover (bringupFenced s unit 0) else setUnit s unit .testing 0)
    | 3 =>
      let s := match channelOf unit with
        | some c => zeroChan (testOver (testFindings s c 2 ⟨state.units, []⟩) c state.units.length) c
        | none => s
      .next (diesRecover (nowReady (setUnit s unit .ready 0) unit))
    | 4 => .next (diesRecover (bringupFenced s unit state.failing))
    | _ => .next s

/-- The READY cores of a die that hold no number, lowest first. -/
def freeCores (s : State) (die : Nat) : List Nat :=
  ((List.range 68).map (68 * die + ·)).filter fun p => rdyState s (idxCore p) == .ready && (logicalOf s p).isNone

/-- Give a number its core. -/
def holdNumber (s : State) (l p : Nat) : State := bootMap s fun b => { b with coreMap := pput b.coreMap l p }

/-- The core map record: the core that holds each number, or held it last, and a CRC-32 (16 R631). -/
def coreRecordBytes (s : State) : List Byte :=
  let b := (List.range 256).flatMap fun l => natLe 2 ((pfind s.boot.coreMap l).getD 0xFFFF)
  b ++ natLe 4 (crc32 b)

/-- The cores that a valid core map record names, by number; none where its CRC does not match (16 R631). -/
def recordedCores (s : State) : Option (List Nat) :=
  let b := s.boot.coreRecord
  if b.length = 516 ∧ fld b 512 4 = crc32 (b.take 512) then some ((List.range 256).map fun l => fld b (2 * l) 2) else none

/-- CORE_MAP_ASSIGN: a die whose cores have all settled assigns its logical numbers, after the core map record or in ascending order
(01 R29; 16 R631). -/
def execCoreMapAssign (die : Nat) (s : State) : Out :=
  let ls := (List.range 64).map (64 * die + ·)
  if 4 ≤ die ∨ stage s < 4 ∨ stage s = 15 ∨ !((List.range 68).all fun c => settled (rdyState s (idxCore (68 * die + c)))) ∨
      s.boot.coreMap.any (fun e => e.1 / 64 == die) then .next s
  else
    let dirty := fun (s : State) => bootMap s fun b => { b with coreRecordDirty := b.coreRecordDirty ||
      (match recordedCores s with
       | some r => ls.any fun l => pfind b.coreMap l != some (r.getD l 0xFFFF)
       | none => true) }
    match recordedCores s with
    | none => .next (dirty ((ls.zip (freeCores s die)).foldl (fun s e => holdNumber s e.1 e.2) s))
    | some r =>
      let s := ls.foldl (fun s l =>
        let p := r.getD l 0xFFFF
        if p / 68 = die ∧ rdyState s (idxCore p) = .ready ∧ (logicalOf s p).isNone then holdNumber s l p else s) s
      .next (dirty (ls.foldl (fun s l =>
        if (physOf s l).isSome then s
        else match freeCores s die with
          | p :: _ => holdNumber s l p
          | [] => report s 0x13 6 (unitCode s 1 die) l) s))

/-! ### The management plane's restart (01 R42, R43; 15 R593; 17 R658, R662) -/

/-- KEEPER_WATCHDOG: the keeper has not refreshed its watchdog for 2 s (15 R593). -/
def execKeeperWatchdog (s : State) : Out :=
  if !s.boot.pwrgood ∨ stage s < 3 ∨ stage s = 15 ∨ s.keep.restarting then .next s
  else .next (bump1 (keepMap s fun k => { k with restarting := true, restartCause := 1 }) regFltKeeperRestart)

/-- What a keeper restart ends: the unlock, the nonce, the SPDM connection, the update session, and objects staged but not READY (01
R43; 17 R671, R673; 19 R731). -/
def keeperEnds (s : State) : State :=
  let s := discardStaged (relock s)
  let s := keepMap s fun k => { k with
    nonce := none, spdmStage := 0, spdmSize := 0, spdmVca := [], spdmCert := [], spdmMeas := [], restarting := false, restartCause := 0 }
  { s with mgmt := { s.mgmt with session := false, transfer := none, verified := [] } }

/-- KEEPER_RESTART: the ROM starts the staged keeper where that is asked for and it passes, the keeper in force otherwise, and the keeper
records the restart (15 R593; 17 R657, R662). -/
def execKeeperRestart (staged : Bool) (s : State) : Out :=
  if !s.keep.restarting then .next s
  else
    let cause := s.keep.restartCause
    let object := (pfind s.keep.staged 1).map (·.bytes)
    let new : Option FwImage := match object with
      | some o => if staged && cause == 2 && objectAccepted s 1 o then some (imageOf o) else none
      | none => none
    let s := match new with
      | some f => putInForce s 1 f
      | none => if cause = 2 then event (rejectImage s 1 2) regKeepEvents 0 else s
    let s := match pfind s.keep.images 1 with
      | some f => mrExtend s 0 f.meas
      | none => s
    let s := keepMap (keeperStart s) fun k => { k with staged := pdel k.staged 1 }
    .next (report (keeperEnds s) 0x90 0 (unitCode s 11 0) cause)

/-- STAGED_IMAGE_VERIFIED: the keeper has copied, checked and measured a staged control (kind 2) or service (3) object (17 R658). -/
def execStagedImageVerified (comp : Nat) (pass : Bool) (s : State) : Out :=
  if (comp ≠ 2 ∧ comp ≠ 3) ∨ rdyState s (stagedIdx comp) ≠ .testing ∨ s.keep.restarting then .next s
  else match pfind s.keep.staged comp with
    | none => .next s
    | some f =>
      if pass && objectAccepted s comp f.bytes then .next (setUnit s (stagedIdx comp) .ready 0)
      else
        let s := keepMap s fun k => { k with staged := pdel k.staged comp }
        .next (rejectImage (event (setUnit s (stagedIdx comp) .absent 0) regKeepEvents 0) comp 2)

end Sys2Proof.Machine
end

