-- ==== Sys2Proof/Machine/RegRead.lean ====
section
/-! DEFINITION. Reading BAR0: the registers, those the device computes as they are read, and the read views of the blocks (00
R5-R12; the register chapters). -/

namespace Sys2Proof.Machine

/-! ### Computed registers -/

/-- Units whose readiness entry satisfies a test. -/
def countUnits (s : State) (p : UnitState → Bool) : Nat := (s.rdy.filter fun e => p e.2.state).length

/-- Whether a unit is in TRAINING or TESTING. -/
def unsettled (st : UnitState) : Bool := st == .training || st == .testing

/-- A 32-bit two's complement field. -/
def int32 (i : Int) : Nat := uint 32 i

/-- The code of the NEXT buffer's state (02 R80). -/
def PlanState.code : PlanState → Nat
  | .empty => 0
  | .building => 1
  | .sealed => 2
  | .held => 3

/-- The code of a phase (02 R80). -/
def Phase.code : Phase → Nat
  | .prime => 0
  | .run => 1
  | .settle => 2
  | .apply => 3

/-- FLT_STATE (15 R606). -/
def fltState (s : State) : Nat :=
  let g := fun (i : Nat) => b2n (rdyState s i == .grey)
  b2n (!failN s) * 2 ^ 15 + g 0 * 2 ^ 14 + g 5 * 2 ^ 13 + g 6 * 2 ^ 12 + g 4 * 2 ^ 11 + g 3 * 2 ^ 10 + g 2 * 2 ^ 9 + g 1 * 2 ^ 8

/-- FLT_SPARES (15 R607). -/
def fltSpares (s : State) : Nat := ((List.range 4).map fun d => min 4 (freeCores s d).length * 8 ^ d).foldl (· + ·) 0

/-- KEEP_STATE (17 R674). -/
def keepState (s : State) : Nat :=
  let valid := ((List.range 4).map fun i => if (pfind s.keep.rootHash i).isSome then 2 ^ i else 0).foldl (· + ·) 0
  s.keep.revoked % 16 * 2 ^ 8 + valid * 2 ^ 4 + (if s.keep.lifecycle = 3 then 3 else s.keep.unlockScope % 4) * 4 + s.keep.lifecycle % 4

/-- PCI_Q_STATE (18 R712). -/
def queueState (s : State) (q : Nat) : Nat :=
  let x := queueGet s q
  x.head % 65536 * 2 ^ 48 + x.tail % 65536 * 2 ^ 32 + x.outstanding % 65536 * 2 ^ 16 + fget s (regPciQState q) 2 2 * 4 + x.state % 4

/-- MEM_CH_STATE (12 R478). -/
def chanState (s : State) (c : Nat) : Nat :=
  let ch := chanGet s c
  ch.temp % 256 * 2 ^ 24 + ch.cap % 4 * 2 ^ 22 + b2n ch.lost * 2 ^ 21 + b2n ch.refresh2x * 2 ^ 20 + ch.lanes % 256 * 2 ^ 12 + b2n ch.clearHeld * 8 +
    (rdyState s (idxChan c)).code

/-- MEM_CH_TEST. While a test runs, the offset it has reached and the units that have failed so far are free values (12 R483; DESIGN CHOICE, log 62). -/
def chanTestReg (s : State) (c : Nat) : Nat :=
  let ch := chanGet s c
  let at_ := Config.freeNat s.freeCtr % 2 ^ 25
  let fails := if ch.testRun.isSome then Config.freeNat (s.freeCtr + 1) % (at_ + 1) else ch.fails
  let pos := if ch.testRun.isSome then 64 * at_ else ch.position
  b2n ch.testRun.isSome * 2 ^ 63 + ch.result % 8 * 2 ^ 60 + fails % 2 ^ 28 * 2 ^ 32 + pos % 2 ^ 31

/-- COR_CMDQ (03 R136). -/
def coreCmdq (s : State) (p : Nat) : Nat :=
  let n := fun (f : CmdKind → Bool) => ((coreGet s p).cmds.filter fun c => f c.kind).length
  n (· == .mat) * 2 ^ 18 + n (· == .chain) * 2 ^ 9 + n isGather

/-- COR_MAT_STATE (06 R263). -/
def coreMatState (s : State) (p : Nat) : Nat :=
  let m := (coreGet s p).mat
  b2n m.open_ * 2 ^ 31 + b2n m.draining.isSome * 2 ^ 30 + (if m.open_ then m.owner % 64 else 0) * 2 ^ 24 + (if m.open_ then m.splits % 128 else 0)

/-- COR_INFLIGHT. A core on which no strand holds a task and no command is outstanding has no request in flight; otherwise NOW is
a free value of at most the 512 entries of the tracker: when a request is answered is timing, and the model answers each where it is made. MAX stands
for the tick (03 R124, R135; log 57). -/
def coreInflight (s : State) (p : Nat) : Nat :=
  let idle := (coreGet s p).cmds.isEmpty && (List.range 64).all fun n => (hartAt s (64 * p + n)).task == 0
  let now := if idle then 0 else Config.freeNat s.freeCtr % 513
  (coreGet s p).peak * 2 ^ 16 + now

/-- COR_ID (03 R132). -/
def coreId (s : State) (p : Nat) : Nat :=
  (match logicalOf s p with
   | some l => 2 ^ 31 + l * 2 ^ 16
   | none => 0) + coreDie p * 2 ^ 8 + p % 68

/-- Whether the Rugon die has work: an open sum, a held row, a scatter or a refresh. -/
def rugonWorks (s : State) : Bool :=
  !s.upd.stepAccs.isEmpty || !s.upd.rowAccs.isEmpty || !s.upd.heldRows.isEmpty ||
    s.upd.layers.any fun l => l.2.refresh.isSome || l.2.heldScatter.isSome

/-- UPD_STATUS. While the die has work, how many update cores are busy is a free value; STATE is the die's code, or its link's where the die is READY
and its link is not (14 R563; 16 R633). -/
def updStatus (s : State) : Nat :=
  let live := s.upd.layers.filter fun l => l.2.state != 0
  (live.filter fun l => l.2.owner == s.boot.dev).length * 2 ^ 16 + (if rugonWorks s then Config.freeNat s.freeCtr % 5 else 0) * 2 ^ 8 +
    b2n (live.any fun l => l.2.refresh.isSome) * 2 ^ 7 +
    (if rdyState s (idxDie 5) = .ready then rdyState s 0x3B else rdyState s (idxDie 5)).code

/-- The index of a window register at an address: block base, distance, number of windows, offset in the window. -/
def windowIdx (a base step n off : Nat) : Option Nat :=
  if base ≤ a ∧ a < base + step * n ∧ (a - base) % step = off then some ((a - base) / step) else none

/-- The registers of the tick sequencer, the time unit, the readiness map and the fault aggregator that are computed. -/
def computedPlanes (s : State) (src a : Nat) : Option Nat :=
  if a = regTsqTick then some s.tsq.tick
  else if a = regTsqStatus then some (min 65535 s.tsq.holdTicks * 2 ^ 16 + b2n s.tsq.running * 16 + s.tsq.plan.code * 4 + s.tsq.phase.code)
  else if a = regTimNow then some (s.now % 2 ^ 64)
  else if a = regTimStatus then some (s.tim.ptpPort % 16 * 2 ^ 16 + s.tim.errEst % 256 * 2 ^ 8 + s.tim.state.code * 4 + s.tim.source % 4)
  else if a = regTimSteer then some (int32 s.tim.rate * 2 ^ 32 + int32 s.tim.offset)
  else if a = regRdyCmdRes then some ((pfind s.boot.rdyRes src).getD 0)
  else if a = regRdyCount then some (countUnits s unsettled * 2 ^ 20 + countUnits s (· == .grey) * 2 ^ 10 + countUnits s (· == .fenced))
  else if a = regFltState then some (fltState s)
  else if a = regFltSpares then some (fltSpares s)
  else if a = regFltOpen then some s.flt.opens.length
  else if a = regFltAckPend then some s.flt.pendAck.length
  else if a = regKeepState then some (keepState s)
  else if a = regKeepDeviceId then some (deviceId s)
  else if a = regKeepSvnFloor then some (svnFloor s 4 % 128 * 2 ^ 24 + svnFloor s 3 % 128 * 2 ^ 16 + svnFloor s 2 % 128 * 2 ^ 8 + svnFloor s 1 % 128)
  else none

/-- The computed registers of the host interface, the scheduler, the hitches, the tables, placement and the Rugon die. -/
def computedUnits (s : State) (a : Nat) : Option Nat :=
  if a = regPciLink then some s.pci.linkMode
  else if a = regPciPool then
    let used := (s.pci.pool.map (·.2)).foldl (· + ·) 0
    some ((s.pci.requests.filter fun r => reqOp r.2 == 0x32 && r.2.stage != .due).length * 2 ^ 15 + (256 * 2 ^ 20 - used) / 2 ^ 20)
  else if regSchDelayQ0 ≤ a ∧ a ≤ regSchDelayQ3 ∧ a % 4 = 0 then some (delayLen s ((a - regSchDelayQ0) / 4))
  else if a = regHitWaiters then some ((s.hit.hitches.map fun h => h.2.queue.length).foldl (· + ·) 0)
  else if a = regEmbStatus then some (s.emb.marks.length * 2 ^ 15 + (s.emb.tables.filter fun t => t.2.state != 0).length)
  else if a = regPlcUsed then some (s.plc.dir.length * 2 ^ 32 + replRows s)
  else if a = regUpdStatus then some (updStatus s)
  else if a = regHwsFrame then some (b2n s.hws.frameActive * 2 ^ 31 + s.hws.frameNo % 65536)
  else none

/-- The computed registers of the windows: queues, channels, ports and cores. -/
def computedWindows (s : State) (a : Nat) : Option Nat :=
  match windowIdx a 0x10000 0x20 1024 0x18 with
  | some q => some (queueState s q)
  | none =>
  match windowIdx a 0x1400000 0x1000 192 0 with
  | some c => some (chanState s c)
  | none =>
  match windowIdx a 0x1400000 0x1000 192 0x10 with
  | some c => let ch := chanGet s c; some (min 1023 ch.fenced.length * 2 ^ 22 + (1024 - ch.sparesUsed) * 2 ^ 11 + ch.remap.length)
  | none =>
  match windowIdx a 0x1400000 0x1000 192 0x48 with
  | some c => some (chanTestReg s c)
  | none =>
  match windowIdx a 0x1800000 0x10000 16 0 with
  | some p => some (rget s a / 8 * 8 + (rdyState s (idxPort p)).code)
  | none =>
  match windowIdx a 0x1800000 0x10000 16 0xC with
  | some p => let t := portGet s p; some (min 65535 (t.unacked.filter fun u => !u.acked).length * 2 ^ 16 + t.missRun % 8)
  | none =>
  match windowIdx a 0x2000000 0x10000 272 0 with
  | some p => some (coreId s p)
  | none =>
  match windowIdx a 0x2000000 0x10000 272 4 with
  | some p => some (rdyState s (idxCore p)).code
  | none =>
  match windowIdx a 0x2000000 0x10000 272 0xC with
  | some p => some (coreInflight s p)
  | none =>
  match windowIdx a 0x2000000 0x10000 272 0x10 with
  | some p => some (coreCmdq s p)
  | none =>
  match windowIdx a 0x2000000 0x10000 272 0x324 with
  | some p => some (coreMatState s p)
  | none => none

/-- The value of a register as a source reads it: 0 the host, 1 management, 2 the keeper, 3 a control core (00 R7). -/
def regValue (s : State) (src a : Nat) : Nat :=
  match computedPlanes s src a with
  | some v => v
  | none => match computedUnits s a with
    | some v => v
    | none => match computedWindows s a with
      | some v => v
      | none => rget s a

/-! ### Views -/

/-- A readiness entry (16 R634). -/
def rdyBytes (s : State) (i : Nat) : List Byte :=
  let e := rdyGet s i
  natLe 1 e.state.code ++ natLe 1 (b2n e.forced * 2 + b2n e.recovered) ++ natLe 2 e.reason ++ natLe 4 0 ++ natLe 8 e.tick

/-- A fault record (15 R596). -/
def recordBytes (r : FaultRec) : List Byte :=
  natLe 8 r.seq ++ natLe 8 r.tick ++ natLe 4 r.offNs ++ natLe 2 r.kind ++ natLe 1 r.cls ++ natLe 1 r.action ++ natLe 8 r.subject ++
    natLe 8 r.reporter ++ natLe 2 r.witness ++ natLe 2 (b2n r.final * 8 + b2n r.ackReq * 4 + b2n r.overflow * 2 + b2n r.sat) ++ natLe 20 r.detail

/-- A pipeline view entry (18 R705). -/
def pipeBytes (s : State) (p : Nat) : List Byte :=
  match pipeGet s p with
  | some x =>
    if x.active then natLe 8 x.code ++ natLe 4 x.pages ++ natLe 4 x.resultBytes ++ natLe 8 x.template ++ natLe 2 x.deadline ++
      natLe 2 (b2n x.unregistering * 2 + b2n x.rootFinal) ++ natLe 4 0
    else natLe 32 0
  | none => natLe 32 0

/-- A hitch state view entry (11 R441). -/
def hitchBytes (s : State) (h : Nat) : List Byte :=
  let x := hitchGet s h
  natLe 4 x.count ++ natLe 4 x.nextTicket ++ natLe 2 x.credits ++ natLe 2 x.queue.length ++ natLe 1 (b2n x.sense) ++ natLe 3 0

/-- A barrier definition entry, as last written (11 R430, R431). -/
def defBytes (s : State) (b : Nat) : List Byte :=
  let x := barGet s b
  let d := x.pendingDef.getD x.def_
  natLe 1 (b2n d.defined) ++ natLe 1 d.strands ++ natLe 2 (b2n d.cross) ++ natLe 4 d.ctrl ++ natLe 2 d.rootDev ++ natLe 2 d.parentPort ++
    natLe 2 d.childPorts ++ natLe 18 0 ++ natLe 32 d.coreMask

/-- A barrier state view entry (11 R442): the device root, and the round of the device's core nodes. -/
def barrierBytes (s : State) (b : Nat) : List Byte :=
  let x := barGet s b
  let root := x.node 500
  let round := match x.pcores with
    | p :: _ => (x.node p).round % 4
    | [] => match (List.range 20).find? fun k => bit x.def_.ctrl k with
      | some k => (x.node (600 + k)).round % 4
      | none => 0
  natLe 1 (b2n x.broken * 128 + b2n root.cur * 2 + b2n x.live) ++ natLe 1 round ++ natLe 2 0 ++ natLe 2 root.count0 ++ natLe 2 root.count1 ++
    natLe 8 x.resetTick

/-- A registry entry (08 R292). -/
def tableBytes (s : State) (t : Nat) : List Byte :=
  let x := tableGet s t
  natLe 1 x.state ++ natLe 1 x.next ++
    natLe 1 (b2n x.taskStage * 32 + b2n x.frozen * 16 + b2n x.carry * 8 + b2n x.mirror * 4 + b2n x.train * 2 + b2n x.replicated) ++
    natLe 1 (x.cls * 16 + x.code) ++ natLe 2 x.width ++ natLe 2 x.stride ++ natLe 5 x.rows ++ natLe 1 0 ++ natLe 2 x.curVer ++ natLe 2 x.nextVer ++
    natLe 2 0 ++ natLe 4 (if x.state = 0 then 0 else x.stageRows) ++ natLe 8 x.slotBytes ++ natLe 4 x.fifo.length ++
    natLe 4 (s.emb.marks.filter fun m => m.1 == t).length ++ natLe 8 x.switchTick ++ natLe 16 0

/-- A load snapshot's header and channel records, candidates and table records (09 R350). -/
def snapHeader (x : Snapshot) : List Byte := natLe 8 x.tick ++ natLe 4 x.cap ++ natLe 52 0
/-- A channel record. -/
def snapChan (x : Snapshot) (c : Nat) : List Byte :=
  let k := mget (fun _ => countReset) x.chans c
  natLe 4 k.reads ++ natLe 4 k.writes ++ natLe 4 k.sectors ++ natLe 2 k.occ ++ natLe 2 (b2n k.sat + mget (fun _ => 0) x.flags c)
/-- A candidate record: channel c, place i. -/
def snapCand (x : Snapshot) (c i : Nat) : List Byte :=
  match ((pfind x.cands c).getD []).drop i with
  | (t, r, est) :: _ => natLe 5 r ++ natLe 1 0 ++ natLe 2 (32768 + t) ++ natLe 4 est ++ natLe 4 0
  | [] => natLe 16 0
/-- A table record. -/
def snapTable (x : Snapshot) (t : Nat) : List Byte :=
  let k := mget (fun _ => tableCountReset) x.tables t
  natLe 4 k.reads ++ natLe 4 k.writes ++ natLe 4 k.remoteOut ++ natLe 4 (b2n k.sat)

/-- A remap view entry (12 R485). -/
def remapBytes (s : State) (k : Nat) : List Byte :=
  match ((chanGet s (k / 1024)).remap.drop (k % 1024)) with
  | e :: _ => natLe 8 (2 ^ 63 + e.uses % 4 * 2 ^ 61 + e.spare % 1024 * 2 ^ 42 + e.raw % 65536 * 2 ^ 21 + e.row % 2 ^ 21)
  | [] => natLe 8 0

/-- A demand snapshot entry (13 R500). -/
def demandBytes (m : List (Nat × Demand)) (d : Nat) : List Byte :=
  let x := mget (fun _ => ⟨0, 0, 0, false⟩) m d
  natLe 4 x.granted ++ natLe 4 x.spill ++ natLe 4 x.backlog ++ natLe 4 (b2n x.sat)

/-- A grant table row of two slots at a time: an entry of the table in force, by its place in 16-bit words (13 R498). -/
def grantBytes (s : State) (k : Nat) : List Byte :=
  let p := k / 1024
  let w := k % 1024
  natLe 2 (if 960 ≤ w then 0 else match pfind s.hws.grants (960 * p + w) with
    | some d => 32768 + d
    | none => 0)

/-- A layer registry entry (14 R537). -/
def layerBytes (s : State) (i : Nat) : List Byte :=
  let l := layerGet s i
  let d := devCount s
  let own := l.owner == s.boot.dev
  if l.state = 0 then natLe 64 0
  else
    natLe 1 l.state ++ natLe 1 l.next ++
      natLe 1 (b2n ((l.blocks.any fun b => b.roots.isSome) || l.fresh.any (·.isSome)) * 8 + b2n l.fallback * 4 + b2n own * 2 + b2n l.frozen) ++
      natLe 1 (l.slicing * 64 + l.gfmt * 32 + l.fmt) ++ natLe 4 l.rows ++ natLe 4 l.cols ++ natLe 2 l.owner ++ natLe 2 l.curVer ++ natLe 2 l.nextVer ++
      natLe 2 l.pushHitch ++ natLe 4 l.stepTicks ++ natLe 8 l.startTick ++ natLe 8 (sliceBuf l d false) ++ natLe 8 (sliceBuf l d true) ++
      natLe 8 (gradAddr s l 0) ++ natLe 4 (if own then min (2 ^ 32 - 1) l.steps else 0) ++ natLe 2 l.resetVer ++ natLe 2 0

/-- A rule block as 64 bytes. -/
def ruleBytes (r : RuleBlock) : List Byte := r.take 64 ++ List.replicate (64 - min 64 r.length) 0

/-- The bytes of a view entry: the first view whose range holds the address gives the entry's bytes from there on. -/
def viewAt (a : Nat) : List (Nat × Nat × Nat × (Nat → List Byte)) → List Byte
  | [] => []
  | (base, size, n, f) :: r =>
    if base ≤ a ∧ a < base + size * n then (f ((a - base) / size)).drop ((a - base) % size) else viewAt a r

/-- The read views of BAR0: base, entry size, entries, and an entry's bytes. -/
def views (s : State) : List (Nat × Nat × Nat × (Nat → List Byte)) :=
  let snap := fun (base : Nat) (x : Snapshot) =>
    [(base, 64, 1, fun _ => snapHeader x), (base + 0x40, 16, 192, snapChan x), (base + 0x1000, 16, 12288, fun k => snapCand x (k / 64) (k % 64)),
     (base + 0x31000, 16, 4096, snapTable x)]
  [(0x80000, 32, 4096, pipeBytes s), (0x210000, 16, 1024, rdyBytes s),
   (0x340000, 64, 4096, fun k => match pfind s.flt.ring k with
     | some r => recordBytes r
     | none => natLe 64 0),
   (0x900000, 16, 65536, hitchBytes s), (0xA00000, 64, 1024, defBytes s), (0xA10000, 16, 1024, barrierBytes s),
   (0xD00000, 64, 4096, tableBytes s)] ++ snap 0x1200000 s.plc.snapA ++ snap 0x1280000 s.plc.snapB ++
  [(0x1680000, 8, 196608, remapBytes s)] ++
  (List.range 16).flatMap (fun p => [(0x1808000 + 0x10000 * p, 16, 1024, demandBytes (portGet s p).snapA),
    (0x180C000 + 0x10000 * p, 16, 1024, demandBytes (portGet s p).snapB)]) ++
  [(0x1910000, 8, 1024, fun d => natLe 8 (routeEntry s d)), (0x1920000, 2, 16384, grantBytes s),
   (0x3500000, 64, 1024, layerBytes s), (0x3510000, 64, 1024, fun l => ruleBytes (layerGet s l).rule),
   (0x3520000, 64, 4096, fun t => ruleBytes (tblRuleGet s t).rule),
   (0x3801000, 64, 5, mrGet s), (0x3801200, 64, 4, fun n => (pfind s.keep.inForce n).getD (natLe 64 0)),
   (0x3D00000, 64, 16384, fun k => (pfind s.mgmt.coreRing k).getD (natLe 64 0)),
   (0x3E00000, 4096, 64, fun k => (pfind s.mgmt.devRing k).getD (natLe 4096 0))]

/-- Whether an address lies in what BAR0 gives the host while the boot chain is HALTED: the RDY block and the BOOT registers (16 R628). -/
def haltedBlock (a : Nat) : Bool := (decide (0x200000 ≤ a) && decide (a < 0x300000)) || (decide (0x3A00000 ≤ a) && decide (a < 0x3C00000))

/-- Whether BAR0 shows the host nothing at an address: the boot chain is HALTED, and the address lies outside what is kept answering. -/
def haltedOff (s : State) (src a : Nat) : Bool := src == 0 && stage s == 15 && !haltedBlock a

/-- A 32-bit word of BAR0: a register, a view, or 0 (00 R6, R9). -/
def barWord (s : State) (src w : Nat) : Nat :=
  if haltedOff s src w then 0
  else match findReg regWindows w with
  | some (_, own, hi) => regValue s src own / (if hi then 2 ^ 32 else 1) % 2 ^ 32
  | none =>
    let v := viewAt w (views s)
    if 2 ≤ v.length ∧ v.length < 4 then fld v 0 2 + 65536 * fld (viewAt (w + 2) (views s)) 0 2 else fld v 0 4

/-- `n` bytes of BAR0 at an address, as a source reads them. -/
def barRead (s : State) (src a : Nat) : Nat → List Byte
  | 0 => []
  | n + 1 => BitVec.ofNat 8 (barWord s src (a / 4 * 4) / 256 ^ (a % 4)) :: barRead s src (a + 1) n

end Sys2Proof.Machine
end

