-- ==== Sys2Proof/Machine/Attest.lean ====
section
/-! DEFINITION. The keeper as a responder: IDE_KM, SPDM, DOE discovery, nonces and debug tokens (17 R663-R673). The byte layouts of
SPDM, IDE_KM and DOE are PRESUMED from their own standards; what each field holds is the spec's. -/

namespace Sys2Proof.Machine

/-- The keeper answers over DOE or through the service cores. -/
def respond (s : State) (b : List Byte) : Out := .next (keepMap s fun k => { k with lastResponse := b })

/-- A string of random bytes of the number of a draw. -/
def randomBytes (n k : Nat) : List Byte := (List.range k).map (Config.randomByte n)

/-! ### PCIe IDE (R668) -/

/-- The key an IDE_KM message names by its KeySubStream byte: key set in bit 0, direction in bit 1, sub-stream in bits [7:4]. -/
def ideKey (b : List Byte) : Nat × Nat := (fld b 6 1 % 2, bits (fld b 6 1) 7 4 * 2 + bits (fld b 6 1) 1 1)

/-- Change the IDE stream. -/
def ideMap (s : State) (f : IdeState → IdeState) : State := keepMap s fun k => { k with ide := f k.ide }

/-- Whether an IDE_KM message about a key has the form of its kind: Stream ID, sub-stream and port as the one stream has them. -/
def ideForm (b : List Byte) (len : Nat) : Nat :=
  if b.length ≠ len then 1 else if fld b 7 1 ≠ 0 then 2 else if 3 ≤ bits (fld b 6 1) 7 4 ∨ bits (fld b 6 1) 3 2 ≠ 0 then 3 else 0

/-- Whether a keeper runs and answers: one has passed, and the management plane is not restarting (16 R628; 17 R663). -/
def keeperUp (s : State) : Bool := rdyState s 0x40 == .ready && !s.keep.restarting

/-- QUERY: the answer names the port and one selective stream (R668). -/
def execQuery (body : List Byte) (s : State) : Out :=
  if !keeperUp s then .next s
  else
    let (n, s) := drawN s 4
    let place := (List.range 4).map fun i => BitVec.ofNat 8 (Config.freeNat (n + i))
    respond s ([0, 1, 0] ++ natLe 1 (fld body 3 1) ++ place.take 3 ++ natLe 1 0 ++ natLe 4 0x2 ++ natLe 4 0)

/-- KEY_PROG: a key and its initial vector are programmed into a key set of a sub-stream (R668). -/
def execKeyProg (body : List Byte) (s : State) : Out :=
  if !keeperUp s then .next s
  else
    let st := ideForm body 48
    let (set, sub) := ideKey body
    let s := if st ≠ 0 then s else ideMap s fun i => { i with keys := pput i.keys (8 * set + sub) (body.drop 8), insecure := false }
    respond s ([0, 3, 0, 0] ++ natLe 1 (fld body 4 1) ++ natLe 1 st ++ natLe 1 (fld body 6 1) ++ natLe 1 (fld body 7 1))

/-- The answer to K_SET_GO and K_SET_STOP. -/
def goStop (s : State) (b : List Byte) : Out :=
  respond s ([0, 6, 0, 0] ++ natLe 1 (fld b 4 1) ++ [0] ++ natLe 1 (fld b 6 1) ++ natLe 1 (fld b 7 1))

/-- K_SET_GO: a sub-stream goes over to a key set that holds its key, without a pause (R668). -/
def execKSetGo (body : List Byte) (s : State) : Out :=
  if !keeperUp s then .next s
  else
    let (set, sub) := ideKey body
    let go := ideForm body 8 = 0 ∧ (pfind s.keep.ide.keys (8 * set + sub)).isSome
    let on := fun (m : Nat) => orBit m sub
    let off := fun (m : Nat) => if bit m sub then m - 2 ^ sub else m
    goStop (if !decide go then s else ideMap s fun i =>
      if set = 0 then { i with run0 := on i.run0, run1 := off i.run1 } else { i with run0 := off i.run0, run1 := on i.run1 }) body

/-- K_SET_STOP: a sub-stream no longer runs under a key set, and its key goes (R668). -/
def execKSetStop (body : List Byte) (s : State) : Out :=
  if !keeperUp s then .next s
  else
    let (set, sub) := ideKey body
    let off := fun (m : Nat) => if bit m sub then m - 2 ^ sub else m
    goStop (if ideForm body 8 ≠ 0 then s else ideMap s fun i =>
      let i := { i with keys := pdel i.keys (8 * set + sub) }
      if set = 0 then { i with run0 := off i.run0 } else { i with run1 := off i.run1 }) body

/-- IDE_INTEGRITY_FAIL: the stream enters Insecure and stays there until keys are programmed again (R668, R678). -/
def execIdeIntegrityFail (s : State) : Out :=
  powered s <|
  .next (event (ideMap s fun i => { i with insecure := true, run0 := 0, run1 := 0, keys := [] }) regKeepEvents 4)

/-! ### SPDM (R663-R667) -/

/-- An SPDM ERROR response. -/
def spdmError (code data : Nat) : List Byte := [0x13, 0x7F] ++ natLe 1 code ++ natLe 1 data

/-- A response goes out, or ResponseTooLarge where the requester cannot take it (R664). -/
def spdmFit (s : State) (b : List Byte) : List Byte := if s.keep.spdmSize ≠ 0 ∧ s.keep.spdmSize < b.length then spdmError 0x0D 0 else b

/-- Answer an SPDM request: Busy during a keeper restart, nothing before a keeper has passed (16 R628; R663). -/
def spdmAnswer (s : State) (f : State → Out) : Out :=
  if rdyState s 0x40 ≠ .ready then .next s else if s.keep.restarting then respond s (spdmError 3 0) else f s

/-- Serve a request: a stage of the connection that has not been reached is UnexpectedRequest (R663). -/
def serveSpdm (s : State) (stage : Nat) (body : List Byte) (f : State → Out) : Out :=
  spdmAnswer s fun s =>
    if fld body 0 1 ≠ 0x13 then respond s (spdmError 0x41 0)
    else if s.keep.spdmStage < stage then respond s (spdmError 4 0)
    else f s

/-- GET_VERSION: one entry, 1.3; a connection starts afresh (R663). -/
def execGetVersion (body : List Byte) (s : State) : Out :=
  spdmAnswer s fun s =>
    let r : List Byte := [0x10, 0x04, 0, 0, 0, 1, 0x00, 0x13]
    respond (keepMap s fun k => { k with spdmStage := 1, spdmSize := 0, spdmVca := body ++ r, spdmCert := [], spdmMeas := [] }) r

/-- GET_CAPABILITIES (R664). -/
def execGetCapabilities (body : List Byte) (s : State) : Out :=
  serveSpdm s 1 body fun s =>
    if body.length < 20 then respond s (spdmError 1 0)
    else
      let r := [0x13, 0x61, 0, 0, 0, 17, 0, 0] ++ natLe 4 0x36 ++ natLe 4 8192 ++ natLe 4 8192
      respond (keepMap s fun k => { k with spdmStage := max 2 k.spdmStage, spdmSize := fld body 12 4, spdmVca := k.spdmVca ++ body ++ r }) r

/-- The structure of ML-DSA-87 (R665). -/
def extAsym : List Byte := [0x04, 0x00, 0xB1, 0x87]
/-- The structure of SHAKE256. -/
def extHash : List Byte := [0x04, 0x00, 0xB2, 0x87]

/-- The algorithm structures a NEGOTIATE_ALGORITHMS lists: asymmetric, hash (R665). -/
def extLists (b : List Byte) : List (List Byte) × List (List Byte) :=
  let at_ := fun (k : Nat) => (b.drop (32 + 4 * k)).take 4
  let na := fld b 28 1
  ((List.range na).map at_, (List.range (fld b 29 1)).map fun k => at_ (na + k))

/-- NEGOTIATE_ALGORITHMS (R665). -/
def execNegotiateAlgorithms (body : List Byte) (s : State) : Out :=
  serveSpdm s 2 body fun s =>
    let (as_, hs) := extLists body
    if !as_.contains extAsym ∨ !hs.contains extHash then respond s (spdmError 1 0)
    else
      let r := [0x13, 0x63, 0, 0] ++ natLe 2 44 ++ [1, 0] ++ natLe 4 1 ++ natLe 4 0 ++ natLe 4 0 ++ natLe 12 0 ++ [1, 1, 0, 0] ++ extAsym ++ extHash
      respond (keepMap s fun k => { k with spdmStage := 3, spdmVca := k.spdmVca ++ body ++ r }) (spdmFit s r)

/-- The certificate chain of slot 0 (R656, R666). -/
def certChain (s : State) : List Byte :=
  let c := Config.rootCert ++ Config.idCert ++ s.keep.aliasCert
  natLe 2 (68 + c.length) ++ natLe 2 0 ++ shake256 Config.rootCert ++ c

/-- GET_DIGESTS: slot 0 only (R663). -/
def execGetDigests (body : List Byte) (s : State) : Out :=
  serveSpdm s 3 body fun s =>
    let r := [0x13, 0x01, 1, 1] ++ shake256 (certChain s)
    respond (keepMap s fun k => { k with spdmCert := k.spdmCert ++ body ++ r }) (spdmFit s r)

/-- GET_CERTIFICATE: a portion of slot 0's chain (R656, R666). -/
def execGetCertificate (body : List Byte) (s : State) : Out :=
  serveSpdm s 3 body fun s =>
    let c := certChain s
    let off := fld body 4 2
    let n := min (fld body 6 2) (c.length - off)
    if !s.keep.certOk then respond s (spdmError 5 0)
    else if fld body 2 1 % 16 ≠ 0 ∨ c.length ≤ off then respond s (spdmError 1 0)
    else
      let r := [0x13, 0x02, 0, 0] ++ natLe 2 n ++ natLe 2 (c.length - off - n) ++ (c.drop off).take n
      respond (keepMap s fun k => { k with spdmCert := k.spdmCert ++ body ++ r }) (spdmFit s r)

/-- The signature of a transcript under the alias key (R666). -/
def spdmSign (s : State) (context : String) (transcript : List Byte) : List Byte × State :=
  let (n, s) := draw s
  let prefix64 := (List.replicate 4 (ascii "dmtf-spdm-v1.3.*")).flatten
  let c := ascii context
  let msg := prefix64 ++ List.replicate (36 - c.length) 0 ++ c ++ shake256 transcript
  ((List.range 4627).map (Config.sign s.keep.aliasSeed (randomBytes n 32) msg), s)

/-- The value of a measurement block with its type (R667). -/
def measValue (s : State) (i : Nat) : Nat × List Byte :=
  let inForce := fun (n : Nat) => (pfind s.keep.inForce n).getD (natLe 64 0)
  match i with
  | 1 => (0, inForce 0)
  | 2 => (2, inForce 1)
  | 3 => (1, inForce 2)
  | 4 => (1, inForce 3)
  | 5 => (3, natLe 1 s.keep.lifecycle ++ natLe 1 s.keep.unlockScope ++ natLe 8 (deviceId s))
  | _ => (4, mrGet s (i - 6))

/-- A measurement block: index, DMTF, size, type with the raw bit, size, value (R667). -/
def measBlock (s : State) (i : Nat) : List Byte :=
  let (ty, v) := measValue s i
  natLe 1 i ++ [1] ++ natLe 2 (3 + v.length) ++ natLe 1 (128 + ty) ++ natLe 2 v.length ++ v

/-- The blocks an index asks for (R667). -/
def measBlocks (i : Nat) : List Nat := if i = 0xFF then (List.range 10).map (· + 1) else if 1 ≤ i ∧ i ≤ 10 then [i] else []

/-- CHALLENGE: CHALLENGE_AUTH signed under the alias key; Unspecified where the identity certificate does not fit, and in RMA (R656,
R663, R669). -/
def execChallenge (body : List Byte) (s : State) : Out :=
  serveSpdm s 3 body fun s =>
    let sum := fld body 3 1
    if !s.keep.certOk ∨ s.keep.lifecycle = 3 then respond s (spdmError 5 0)
    else if body.length ≠ 44 ∨ fld body 2 1 % 16 ≠ 0 ∨ !(sum == 0 || sum == 1 || sum == 0xFF) then respond s (spdmError 1 0)
    else
      let (n, s) := draw s
      let summary := if sum = 0 then [] else shake256 ((measBlocks sum).flatMap (measBlock s))
      let r := [0x13, 0x03, 0, 1] ++ shake256 (certChain s) ++ randomBytes n 32 ++ summary ++ natLe 2 0 ++ (body.drop 36).take 8
      let (sig, s) := spdmSign s "responder-challenge_auth signing" (s.keep.spdmVca ++ s.keep.spdmCert ++ body ++ r)
      respond (keepMap s fun k => { k with spdmCert := [], spdmMeas := [] }) (spdmFit s (r ++ sig))

/-- GET_MEASUREMENTS: the count of blocks, or the blocks asked for, signed where that is asked (R667). -/
def execGetMeasurements (body : List Byte) (s : State) : Out :=
  serveSpdm s 3 body fun s =>
    let signed := bit (fld body 2 1) 0
    let op := fld body 3 1
    let is := measBlocks op
    if body.length ≠ (if signed then 45 else 12) ∨ (signed ∧ fld body 36 1 % 16 ≠ 0) ∨ (op ≠ 0 ∧ is.isEmpty) then respond s (spdmError 1 0)
    else
      let (n, s) := draw s
      let rec_ := is.flatMap (measBlock s)
      let ctx := if signed then (body.drop 37).take 8 else (body.drop 4).take 8
      let r := [0x13, 0x60] ++ natLe 1 (if op = 0 then 10 else 0) ++ [0] ++ natLe 1 is.length ++ natLe 3 rec_.length ++ rec_ ++ randomBytes n 32 ++
        natLe 2 0 ++ ctx
      let log := s.keep.spdmMeas ++ body ++ r
      if !signed then respond (keepMap s fun k => { k with spdmMeas := log }) (spdmFit s r)
      else
        let (sig, s) := spdmSign s "responder-measurements signing" (s.keep.spdmVca ++ log)
        respond (keepMap s fun k => { k with spdmMeas := [] }) (spdmFit s (r ++ sig))

/-- Any other SPDM request (R663). -/
def execSpdmUnsupported (body : List Byte) (s : State) : Out :=
  spdmAnswer s fun s => respond s (spdmError 7 (fld body 1 1))

/-- DOE discovery: discovery itself and CMA-SPDM (R663). -/
def execDoeDiscovery (body : List Byte) (s : State) : Out :=
  if rdyState s 0x40 ≠ .ready then .next s
  else match fld body 0 1 with
  | 0 => respond s [0x01, 0x00, 0x00, 0x01]
  | 1 => respond s [0x01, 0x00, 0x01, 0x00]
  | _ => respond s [0xFF, 0xFF, 0x00, 0x00]

/-! ### Nonces and tokens (R671-R673) -/

/-- Ten minutes in ns. -/
def nonceLife : Nat := 600000000000

/-- A completion of a management message: its code and its data (19 R721, R726). -/
def mgmtAnswer (s : State) (code : Nat) (b : List Byte) : Out := .next { s with mgmt := { s.mgmt with completion := code, answer := b } }

/-- NONCE_EXPIRY: ten minutes of device time are over (R671). -/
def execNonceExpiry (s : State) : Out :=
  match s.keep.nonce with
  | some (_, t) => .next (keepMap (advance s (t + nonceLife)) fun k => { k with nonce := none })
  | none => .next s

/-- UNLOCK_EXPIRY: an unlock reaches its MINUTES and relocks (R673). -/
def execUnlockExpiry (s : State) : Out :=
  if s.keep.unlockScope = 1 ∨ s.keep.unlockScope = 2 then .next (relock (advance s s.keep.unlockUntil)) else .next s

/-- Whether MCTP is served: by the service cores, not while they or the management plane restart, by the watchdog or for an image; in HALTED only what
`halted` says, and never without power (16 R615; 19 R719; 01 R42; 17 R661, R662). -/
def mctpUp (s : State) (halted : Bool) : Bool :=
  if !s.boot.pwrgood then false
  else if stage s = 15 then halted
  else decide (4 ≤ stage s) && s.keep.serviceRestart != 2 && !s.keep.restarting

/-- A keeper command over MCTP: one that arrives during a keeper restart completes BUSY, where every other MCTP write is NACKed (19 R719, R721; DEDUCED,
log 49). -/
def keeperCommand (s : State) (f : State → Out) : Out :=
  if s.keep.restarting ∧ 4 ≤ stage s ∧ stage s ≠ 15 then mgmtAnswer s 2 [] else if !mctpUp s false then .next s else f s

/-- NONCE: a new nonce, which ends the one before it (R671). -/
def execNonce (_body : List Byte) (s : State) : Out :=
  keeperCommand s fun s =>
    let (n, s) := draw s
    mgmtAnswer (keepMap s fun k => { k with nonce := some (n, s.now) }) 0 (randomBytes n 32)

/-- RELOCK (R673). -/
def execRelock (_body : List Byte) (s : State) : Out := keeperCommand s fun s => mgmtAnswer (relock s) 0 []

/-- Whether the device entry reads GREY with FORCED set (R673). -/
def forcedGrey (s : State) : Bool := (rdyGet s 0).state == .grey && (rdyGet s 0).forced

/-- Whether a token's scope is allowed by the policy, by LIFECYCLE and by the device's state, and its length fits (R670-R673). -/
def scopeOk (s : State) (scope minutes : Nat) : Bool :=
  let p := rget s regKeepDebugPolicy
  let live := s.keep.lifecycle != 3
  match scope with
  | 1 => bit p 0 && live && decide (1 ≤ minutes ∧ minutes ≤ bits p 15 8)
  | 2 => bit p 1 && live && decide (1 ≤ minutes ∧ minutes ≤ bits p 15 8) && forcedGrey s
  | 3 => bit p 2 && live && minutes == 0 && forcedGrey s
  | _ => decide (4 ≤ scope ∧ scope ≤ 7) && bit p 3 && minutes == 0

/-- Whether a token is accepted (R672). -/
def tokenOk (s : State) (b : List Byte) : Bool :=
  let scope := fld b 6 1
  let key := (b.drop 0x40).take 2592
  b.length == 7283 && fld b 0 4 == 0x544B4C4A && fld b 4 2 == 1 && zeroAt b 7 1 && fld b 8 8 == deviceId s && zeroAt b 0x32 14 &&
    (match s.keep.nonce with
     | some (n, t) => (b.drop 0x10).take 32 == randomBytes n 32 && decide (s.now < t + nonceLife)
     | none => false) &&
    scopeOk s scope (fld b 0x30 2) &&
    (match rootSlot s key with
     | some r => decide (scope < 4) || (r != scope - 4 &&
         (List.range 4).any fun i => i != scope - 4 && (pfind s.keep.rootHash i).isSome && !bit s.keep.revoked i)
     | none => false) &&
    Config.verify key (b.take 0xA60) (b.drop 0xA60)

/-- What an accepted token does (R673). -/
def tokenActs (s : State) (scope minutes : Nat) : State :=
  if scope = 3 then
    event (debugEvent (keepMap s fun k => { k with lifecycle := 3, udsErased := true, unlockScope := 3, unlockUntil := 0 }) 3 1) regKeepEvents 2
  else if 4 ≤ scope then debugEvent (keepMap s fun k => { k with revoked := orBit k.revoked (scope - 4) }) s.keep.unlockScope 3
  else
    event (debugEvent (keepMap s fun k => { k with unlockScope := scope, unlockUntil := s.now + minutes * 60000000000 }) scope 1) regKeepEvents 2

/-- TOKEN: the keeper checks a token and acts by its scope (R672, R673; 19 R721). -/
def execToken (body : List Byte) (s : State) : Out :=
  keeperCommand s fun s =>
    if !tokenOk s body then mgmtAnswer (event s regKeepEvents 3) 1 []
    else mgmtAnswer (tokenActs (keepMap s fun k => { k with nonce := none }) (fld body 6 1) (fld body 0x30 2)) 0 []

end Sys2Proof.Machine
end

