-- ==== Sys2Proof/Machine/Branch.lean ====
section
/-! DEFINITION. Branches and calls: class 0x6 (03 R102). -/

namespace Sys2Proof.Machine

/-- PC + 8 × IMM32, where PC is the address of the branch itself (R102). -/
def relTarget (pc : BitVec 48) (imm : BitVec 32) : BitVec 48 := pc + (imm.signExtend 48) * 8

/-- Go to a register's address: one that is not a multiple of 8 faults MISALIGN and leaves the PC; one beyond 48 bits that
is not the device's own global address faults ADDR (R102, R115, R126). The link is written only when the jump is taken. -/
def jumpReg (s : State) (h : Hart) (x : Word) (link : State → State) : State :=
  if x.toNat % 8 ≠ 0 then demandFault s h 2 x.toNat
  else match deviceAddr s x.toNat with
    | some a => setPc (link s) h (BitVec.ofNat 48 a)
    | none => demandFault s h 3 x.toNat

/-- The address of the instruction after a call (R102). -/
def linkOf (s : State) (h : Hart) : Word := ((hart s h).pc + 8).zeroExtend 64

/-- BR: PC-relative branch; an offset of 0 branches to itself (03 R102). -/
def execBr (h : Hart) (g : Guard) (imm : BitVec 32) (s : State) : Out :=
  spelled (.br h g imm) h s <| issue s h g fun s => setPc s h (relTarget (hart s h).pc imm)

/-- BRI: indirect branch (03 R102). -/
def execBri (h : Hart) (g : Guard) (rs1 : Reg) (s : State) : Out :=
  spelled (.bri h g rs1) h s <| issue s h g fun s => jumpReg s h (reg s h rs1) id

/-- CALL: PC-relative call that writes the return address (03 R102). -/
def execCall (h : Hart) (g : Guard) (rd : Reg) (imm : BitVec 32) (s : State) : Out :=
  spelled (.call h g rd imm) h s <| issue s h g fun s => setPc (setReg s h rd (linkOf s h)) h (relTarget (hart s h).pc imm)

/-- CALLI: indirect call; one that faults MISALIGN does not write rd (03 R102). -/
def execCalli (h : Hart) (g : Guard) (rd rs1 : Reg) (s : State) : Out :=
  spelled (.calli h g rd rs1) h s <| issue s h g fun s => jumpReg s h (reg s h rs1) fun s => setReg s h rd (linkOf s h)

end Sys2Proof.Machine
end

