-- ==== Sys2Proof/Machine/Elec.lean ====
section
/-! DEFINITION. The reference clock and the junction temperatures (20). -/

namespace Sys2Proof.Machine

/-- Change the pins and the platform's sensors. -/
def elecMap (s : State) (f : ElecUnit → ElecUnit) : State := { s with elec := f s.elec }

/-- A port that carries or tests a link goes down, to train again; one in GREY stays there, and carries PTP no longer (R746; 13 R519, R520). -/
def portDown (s : State) (p : Nat) : State :=
  if rdyState s (idxPort p) == .ready then linkDown s p
  else if rdyState s (idxPort p) == .testing then
    portPut (fset (setUnit s (idxPort p) .training 0) (regHwsPortState p) 22 0 0) p { portReset with trainAt := s.now }
  else if rdyState s (idxPort p) == .grey then ptpPortDown s p
  else s

/-- SERCLK_LOSS: SERCLK stops for 1 µs: every port goes down and the time unit holds its last rate (R746; 02 R69). -/
def execSerclkLoss (s : State) : Out :=
  if !s.elec.serclk ∨ !s.boot.pwrgood then .next s
  else
    let s := elecMap s fun e => { e with serclk := false, serclkAt := s.now }
    let s := (List.range 16).foldl portDown s
    if s.tim.state = .unset ∨ s.tim.state = .holdover then .next s
    else .next (estimate (event (timMap s fun t => { t with state := .holdover, good := 0, bad := 0 }) regTimEvents 2))

/-- CLOCK_LOSS: SERCLK has not returned within 100 ms: the device enters GREY (R746, R747). -/
def execClockLoss (s : State) : Out :=
  if s.elec.serclk ∨ !s.boot.pwrgood then .next s
  else
    let s := advance s (s.elec.serclkAt + 100000000)
    .next (toGrey (report s 0xC0 3 (unitCode s 0 0) 1) 0 0xC0 true)

/-- SERCLK_RETURN: SERCLK has been stable for 10 ms: the ports train again, and a device that is GREY for its clock sets RECOVERED
(R746). -/
def execSerclkReturn (s : State) : Out :=
  if s.elec.serclk ∨ !s.boot.pwrgood then .next s
  else
    let s := elecMap s fun e => { e with serclk := true }
    let s := (List.range 16).foldl (fun s p =>
      if rdyState s (idxPort p) == .training then portPut s p { portGet s p with trainAt := s.now } else s) s
    .next (if (rdyGet s 0).reason = 0xC0 then setRecovered s 0 else s)

/-- DIE_OVERTEMP: a junction reaches 110 °C: a compute die or the Rugon die enters GREY, and for the I/O die the device does (R747,
R751). -/
def execDieOvertemp (die temp : Nat) (s : State) : Out :=
  if 6 ≤ die ∨ temp < 110 ∨ !s.boot.pwrgood then .next s
  else
    let s := elecMap s fun e => { e with
      dieTemp := pput e.dieTemp die temp, overtemp := if e.overtemp.contains die then e.overtemp else e.overtemp ++ [die] }
    let s := report s 0xC1 3 (unitCode s 1 die) temp
    .next (toGrey s (if die = 4 then 0 else idxDie die) 0xC1 true)

/-- DIE_COOLED: the junction of a die that was too hot is below 100 °C: its restart begins, and for the I/O die the device sets
RECOVERED (R751). -/
def execDieCooled (die temp : Nat) (s : State) : Out :=
  if 6 ≤ die ∨ 100 ≤ temp then .next s
  else
    let hot := s.elec.overtemp.contains die
    let s := elecMap s fun e => { e with dieTemp := pput e.dieTemp die temp, overtemp := e.overtemp.filter (· ≠ die) }
    if !hot then .next s
    else if die = 4 then .next (setRecovered s 0)
    else
      let e := rdyGet s (idxDie die)
      .next (if e.state == .grey && !e.forced && !e.released && !e.recovered then restartDie die s else s)

/-- An output pin GPIO4 to GPIO7: GPIO4 toggles at each tick start, GPIO5 is high while ticks run, the others are low (R750). -/
def gpioOut (s : State) (i : Nat) : Bool := if i = 4 then s.elec.gpio4 else i == 5 && stage s == 5

/-- THERMTRIP: a junction of a module that is on reaches 120 °C: THERMTRIP_N goes low and every rail goes off (R752). -/
def execThermtrip (s : State) : Out :=
  if !s.boot.pwrgood then .next s
  else
  let s := bootMap (offState s false) fun b => { b with pwrgood := false }
  .next (elecMap s fun e => { e with thermtrip := true })

end Sys2Proof.Machine
end

