-- ==== Sys2Proof/Machine/Fpu.lean ====
section
/-! DEFINITION. FP32 instructions and compares: classes 0x2 and 0x3 (03 R102, R104; 05 R195; 07). -/

namespace Sys2Proof.Machine

/-- An FP32 operand: bits [31:0] of a register. -/
def fp (w : Word) : Nat := w.toNat % 2 ^ 32

/-- Shape of an FP32 instruction: the result in [31:0] with [63:32] 0, the flags ORed into FFLAGS (R102, R104). -/
def fpu (h : Hart) (g : Guard) (rd : Reg) (s : State) (f : State → Nat × Nat) : Out :=
  issue s h g fun s => let r := f s; retire (orFflags s h r.2) h rd (BitVec.ofNat 64 (r.1 % 2 ^ 32))

/-- Shape of an FP32 compare: pd ← the comparison; compares raise no flag (05 R195). -/
def fcompare (h : Hart) (g : Guard) (pd : PredReg) (rs1 : Reg) (y : Operand) (s : State) (f : Fp → Fp → Bool) : Out :=
  issue s h g fun s => nextPc (setPred s h pd (f (unF (fp (reg s h rs1))) (unF (operandF s h y)))) h

/-- FADD: fP32 add, setting FFLAGS (03 R104). -/
def execFadd (h : Hart) (g : Guard) (rd rs1 rs2 : Reg) (s : State) : Out :=
  spelled (.fadd h g rd rs1 rs2) h s <| fpu h g rd s fun s => addF (fp (reg s h rs1)) (fp (reg s h rs2))

/-- FSUB: fP32 subtract (03 R104). -/
def execFsub (h : Hart) (g : Guard) (rd rs1 rs2 : Reg) (s : State) : Out :=
  spelled (.fsub h g rd rs1 rs2) h s <| fpu h g rd s fun s => subF (fp (reg s h rs1)) (fp (reg s h rs2))

/-- FMUL: fP32 multiply (03 R104). -/
def execFmul (h : Hart) (g : Guard) (rd rs1 rs2 : Reg) (s : State) : Out :=
  spelled (.fmul h g rd rs1 rs2) h s <| fpu h g rd s fun s => mulF (fp (reg s h rs1)) (fp (reg s h rs2))

/-- FFMA: fP32 fused multiply-add with one rounding (03 R104). -/
def execFfma (h : Hart) (g : Guard) (rd rs1 rs2 rs3 : Reg) (s : State) : Out :=
  spelled (.ffma h g rd rs1 rs2 rs3) h s <| fpu h g rd s fun s => fmaF (fp (reg s h rs1)) (fp (reg s h rs2)) (fp (reg s h rs3))

/-- FMIN: fP32 minimum (03 R104). -/
def execFmin (h : Hart) (g : Guard) (rd rs1 rs2 : Reg) (s : State) : Out :=
  spelled (.fmin h g rd rs1 rs2) h s <| fpu h g rd s fun s => (minF (fp (reg s h rs1)) (fp (reg s h rs2)), 0)

/-- FMAX: fP32 maximum (03 R104). -/
def execFmax (h : Hart) (g : Guard) (rd rs1 rs2 : Reg) (s : State) : Out :=
  spelled (.fmax h g rd rs1 rs2) h s <| fpu h g rd s fun s => (maxF (fp (reg s h rs1)) (fp (reg s h rs2)), 0)

/-- FCVTSI: convert a signed 64-bit integer to FP32 (03 R102). -/
def execFcvtsi (h : Hart) (g : Guard) (rd rs1 : Reg) (s : State) : Out :=
  spelled (.fcvtsi h g rd rs1) h s <| fpu h g rd s fun s => roundF (ofInt (reg s h rs1).toInt)

/-- FCVTIS: convert FP32 to a signed 64-bit integer, saturating, with the flags of R274 (03 R102). -/
def execFcvtis (h : Hart) (g : Guard) (rd rs1 : Reg) (s : State) : Out :=
  spelled (.fcvtis h g rd rs1) h s <| issue s h g fun s =>
    let r := toInt 64 (unF (fp (reg s h rs1)))
    retire (orFflags s h r.2) h rd (BitVec.ofInt 64 r.1)

/-- FCMPEQ: fP32 compare equal (03 R102). -/
def execFcmpeq (h : Hart) (g : Guard) (pd : PredReg) (rs1 : Reg) (y : Operand) (s : State) : Out :=
  spelled (.fcmpeq h g pd rs1 y) h s <| fcompare h g pd rs1 y s (fun a b => a.eqv b)

/-- FCMPLT: fP32 compare less (03 R102). -/
def execFcmplt (h : Hart) (g : Guard) (pd : PredReg) (rs1 : Reg) (y : Operand) (s : State) : Out :=
  spelled (.fcmplt h g pd rs1 y) h s <| fcompare h g pd rs1 y s (fun a b => a.lt b)

/-- FCMPLE: fP32 compare less or equal (03 R102). -/
def execFcmple (h : Hart) (g : Guard) (pd : PredReg) (rs1 : Reg) (y : Operand) (s : State) : Out :=
  spelled (.fcmple h g pd rs1 y) h s <| fcompare h g pd rs1 y s (fun a b => a.lt b || a.eqv b)

/-- FCMPUN: fP32 compare unordered (03 R102). -/
def execFcmpun (h : Hart) (g : Guard) (pd : PredReg) (rs1 : Reg) (y : Operand) (s : State) : Out :=
  spelled (.fcmpun h g pd rs1 y) h s <| fcompare h g pd rs1 y s (fun a b => a.isNan || b.isNan)

end Sys2Proof.Machine
end

