-- ==== Sys2Proof/Machine/RegWrite.lean ====
section
/-! DEFINITION. Writing BAR0: what the access codes let a write do, who may write, and what a write triggers (00 R5-R9, R22; the
register chapters). -/

namespace Sys2Proof.Machine

/-- The state a command leaves; the state before it where it has no effect. -/
def after (o : Out) (s : State) : State :=
  match o with
  | .next t => t
  | _ => s

/-- The least source number of a control core: 0 is the host, 1 management, 2 the keeper and 3 + k control core k. -/
def srcCtrl : Nat := 3

/-- The value that the access codes of a register leave: RW bits are set to the value, W1C bits cleared and W1S bits set by ones; a 1 in the
SAT bit clears a statistics counter whole (00 R7, R8, R22). `m` is the mask of the bits written. -/
def coded (r : RegDesc) (old v m : Nat) : Nat :=
  let o := BitVec.ofNat 64 old
  let x := BitVec.ofNat 64 v &&& BitVec.ofNat 64 m
  let rw := BitVec.ofNat 64 r.rw &&& BitVec.ofNat 64 m
  if r.sat then (if x &&& BitVec.ofNat 64 r.w1c = 0 then old else 0)
  else ((((o &&& ~~~rw) ||| (x &&& rw)) &&& ~~~(x &&& BitVec.ofNat 64 r.w1c)) ||| (x &&& BitVec.ofNat 64 r.w1s)).toNat

/-- Whether a source may write a register at all: management and the keeper reach RDY_CMD and management FLT_ALERT_MASK, and nothing else of the other
planes (01 R37-R39; 15 R610; 16 R635; 19 R722); the MEM block takes writes from control cores only, FLT_IRQ_MASK from the host,
FLT_ALERT_MASK from management, BOOT_FW_READY from control cores, and a queue's ring bases and configuration change only while it is DISABLED
(12; 15 R610; 16 R646; 18 R709, R710). -/
def mayWrite (s : State) (src a : Nat) : Bool :=
  if src = 1 ∨ src = 2 then a == regRdyCmd || (a == regFltAlertMask && src == 1)
  else if 0x1400000 ≤ a ∧ a < 0x1800000 then decide (srcCtrl ≤ src)
  else if a = regFltIrqMask then src == 0
  else if a = regFltAlertMask then false
  else if a = regBootFwReady then decide (srcCtrl ≤ src)
  else if 0x10000 ≤ a ∧ a < 0x18000 ∧ a % 0x20 < 0x14 then (queueGet s ((a - 0x10000) / 0x20)).state == 0
  else true

/-- What a write to RDY_CMD does (16 R635, R638). -/
def writeRdyCmd (s : State) (src v : Nat) : State :=
  match bits v 31 28 with
  | 1 => after (execGrey src (bits v 9 0) s) s
  | 2 => after (execReleaseForce src (bits v 9 0) s) s
  | 3 => after (execConfirm src (bits v 9 0) s) s
  | _ => rdyResult s src false

/-- What a write to MEM_CH_CTL does beside its RW fields (12 R474, R482). -/
def writeChCtl (s : State) (c v : Nat) : State :=
  let s := if bit v 1 then after (execAbort c s) s else s
  let s := if bit v 31 then after (execClearLost c s) s else s
  if bit v 0 then after (execStart c v s) s else s

/-- What a write to PCI_Q_CTL does (18 R711). -/
def writeQCtl (s : State) (q v : Nat) : State :=
  let s := if bit v 0 then after (execEnable q s) s else s
  let s := if bit v 1 then after (execDisable q s) s else s
  if bit v 2 then after (execResume q s) s else s

/-- The action of a write to a register of the blocks outside the windows. -/
def triggerPlanes (s : State) (src a v : Nat) : Option State :=
  if a = regRdyCmd then some (writeRdyCmd s src v)
  else if a = regFltAck then some (if src = 0 then after (execFltAck v s) s else s)
  else if a = regHitClear then some (if srcCtrl ≤ src then after (execHitClear (src - srcCtrl) (bits v 15 0) s) s else s)
  else if a = regBootFwReady then some (if srcCtrl ≤ src ∧ bit v 0 then after (execBootFwReady (src - srcCtrl) s) s else s)
  else if a = regBootRestart then some (if src = 0 then after (execBootRestart v s) s else s)
  else none

/-- The action of a write to a register, where it has one of its own: WO fields and the windows of the aborts, queues and channels (10 R415; 11
R447; 12 R482; 15 R611; 16 R638, R646, R648; 18 R711). -/
def trigger (s : State) (src a v : Nat) : Option State :=
  match triggerPlanes s src a v with
  | some t => some t
  | none =>
  match windowIdx a 0x400100 0x10 20 0 with
  | some k => some (if src = srcCtrl + k then after (execSchAbort k v s) s else s)
  | none =>
  match windowIdx a 0x10000 0x20 1024 0x14 with
  | some q => some (writeQCtl s q v)
  | none =>
  match windowIdx a 0x1400000 0x1000 192 0x40 with
  | some c => some (if srcCtrl ≤ src then writeChCtl s c v else s)
  | none => none

/-- Write bits `m` of a register: its codes, then its action. -/
def writeReg (s : State) (src : Nat) (r : RegDesc) (a v m : Nat) : State :=
  let s := if mayWrite s src a ∧ a ≠ regBootFwReady then rset s a (coded r (rget s a) v m) else s
  if (src = 1 ∨ src = 2) ∧ a ≠ regRdyCmd then s
  else match trigger s src a (Nat.land v m) with
  | some t => t
  | none => s

/-- A write of up to 4 bytes that lie in one 32-bit word: to a register, to half of a 64-bit one, or nowhere (00 R6, R9). -/
def writeWord (s : State) (src w v m : Nat) : State :=
  match findReg regWindows w with
  | some (r, own, hi) => let k := if hi then 2 ^ 32 else 1; writeReg s src r own (v * k) (m * k)
  | none => s

/-- A write into the definition window of the barriers, by control cores only (11 R430, R431). -/
def writeDefs (s : State) (src a n v : Nat) : State :=
  if src < srcCtrl then s
  else
    let b := (a - 0xA00000) / 64
    let o := (a - 0xA00000) % 64
    let e := defBytes s b
    after (execBarrierDefine (src - srcCtrl) b (e.take o ++ natLe n v ++ e.drop (o + n)) s) s

/-- A naturally aligned write of 1, 2, 4 or 8 bytes to BAR0 from a source (00 R6-R9; 16 R628). -/
def regWrite (s : State) (src a n v : Nat) : State :=
  if haltedOff s src a then s
  else if 0xA00000 ≤ a ∧ a < 0xA10000 then writeDefs s src a n v
  else if n < 8 then writeWord s src (a / 4 * 4) (v % 256 ^ n * 256 ^ (a % 4)) ((256 ^ n - 1) * 256 ^ (a % 4))
  else match findReg regWindows a with
    | some (r, own, hi) =>
      if r.wide && !hi then writeReg s src r own (v % 2 ^ 64) (2 ^ 64 - 1)
      else writeWord (writeWord s src a (v % 2 ^ 32) (2 ^ 32 - 1)) src (a + 4) (v / 2 ^ 32 % 2 ^ 32) (2 ^ 32 - 1)
    | none => writeWord s src (a + 4) (v / 2 ^ 32 % 2 ^ 32) (2 ^ 32 - 1)

/-- Whether an access has a size of 1, 2, 4 or 8 bytes and is naturally aligned (00 R6; 03 R116). -/
def aligned (a n : Nat) : Bool := (n == 1 || n == 2 || n == 4 || n == 8) && a % n == 0

/-- REGISTER_WRITE: a write to BAR0 from a source: 0 the host, 1 management, 2 the keeper, 3 + k control core k; `len` in bytes (R7). A module
without power takes none. -/
def execRegisterWrite (source addr len value : Nat) (s : State) : Out :=
  .next (if s.boot.pwrgood ∧ source < 23 ∧ aligned addr len ∧ addr < 2 ^ 26 then regWrite s source addr len value else s)

end Sys2Proof.Machine
end

