-- ==== Sys2Proof/Machine/LoadStore.lean ====
section
/-! DEFINITION. Loads, stores and atomics: classes 0x4 and 0x5, of strands on device addresses and of control cores on control space as well
(03 R102, R104, R115-R119, R126, R127, R129, R131). -/

namespace Sys2Proof.Machine

/-- What an access does beside reading. -/
inductive Access where
  | load | store | atomic
deriving DecidableEq, Repr

/-- The effective address of form M (03 R100, R102). -/
def effAddr (s : State) (h : Hart) (rs1 : Reg) (imm : BitVec 32) : Word := reg s h rs1 + simm imm

/-- Whether an access may reach a device address: atomics reach HBM and scratchpads only (03 R116). -/
def mayReach (s : State) (a : Nat) (k : Access) : Bool := reachable s a && !(k == .atomic && space a == .slow)

/-- The cause an access of `n` bytes at an address value ends with, where it ends with one: the lowest that holds (03 R115-R117, R126, R127; 12
R464, R472). -/
def accessCause (s : State) (w n : Nat) (k : Access) : Option Nat :=
  if w % n ≠ 0 then some 2
  else match deviceAddr s w with
    | none => some 3
    | some a =>
      if !mayReach s a k then some 3
      else if k ≠ .load ∧ protectedAt s a n then some 4
      else if k = .store then none
      else readCause s a n

/-- The device address an access reaches. -/
def reached (s : State) (w : Nat) : Nat := (deviceAddr s w).getD 0

/-- An access ends with a cause; a read that meets an uncorrectable unit is counted at its channel (03 R126; 12 R464). -/
def failAccess (s : State) (h : Hart) (w n k : Nat) : State := demandFault (if k = 5 then badRead s (reached s w) n else s) h k w

/-! ### Control space (03 R131) -/

/-- The ranges of control space. -/
inductive Ctl where
  | regs (a : Nat) | active (o : Nat) | next (o : Nat) | mine (o : Nat) | nowhere
deriving DecidableEq, Repr

/-- What an address of control space names. -/
def ctlRange (w : Nat) : Ctl :=
  if w < 0x4000000 then .regs w
  else if 0x10000000 ≤ w ∧ w < 0x10400000 then .active (w - 0x10000000)
  else if 0x10400000 ≤ w ∧ w < 0x10800000 then .next (w - 0x10400000)
  else if 0x20000000 ≤ w ∧ w < 0x20100000 then .mine (w - 0x20000000)
  else .nowhere

/-- A load from control space. -/
def ctlRead (s : State) (k w n : Nat) : Option (Nat × State) :=
  match ctlRange w with
  | .regs a => some (leNat (barRead s (srcCtrl + k) a n), { s with freeCtr := s.freeCtr + 2 })
  | .active o => some (planNat s.tsq.planActive o n, s)
  | .next o => some (planNat s.tsq.planNext o n, s)
  | .mine o => some (planNat (ctrlGet s k).localMem o n, s)
  | .nowhere => none

/-- Bytes put into a buffer. -/
def bufPut (b : List Host.Cell) (o : Nat) : List Byte → List Host.Cell
  | [] => b
  | x :: r => bufPut (mset (fun _ => (0 : Byte)) b o x) (o + 1) r

/-- The kinds of object that a plan's FW_SWITCH items name (17 R659). -/
def switchKinds (b : List Host.Cell) : List Nat := ((planItems b).filter fun k => itemKind k.2 == 9).map fun k => fld k.2 1 1

/-- A store into NEXT: the buffer is BUILDING, and SEALED once its seal and CRC match. From the seal on the next slots that its VERSION items
name are SWITCHING and the objects that its FW_SWITCH items name are held (02 R57, R80; 08 R302; 14 R557; 17 R658). A store after the plan of the next
tick was taken marks nothing: it has no effect on that tick (R57). -/
def storeNext (s : State) (o : Nat) (l : List Byte) : State :=
  let was := s.tsq.planNext
  let now := bufPut was o l
  let put := fun (s : State) (st : PlanState) => { s with tsq := { s.tsq with planNext := now, plan := st } }
  let mark := fun (b : List Host.Cell) (on : Bool) (s : State) => (planItems b).foldl (fun s k => markSwitching s k.2 on) s
  if s.tsq.take.isSome then put s (if planSealed now then .sealed else .building)
  else
  let s := if s.tsq.plan = .sealed then keepMap (mark was false s) fun k => { k with named := [] } else s
  if planSealed now then put (keepMap (mark now true s) fun k => { k with named := switchKinds now }) .sealed
  else put s .building

/-- A store to control space: none where it faults, with the cause. -/
def ctlWrite (s : State) (k w n v : Nat) : Except Nat State :=
  match ctlRange w with
  | .regs a => .ok (regWrite s (srcCtrl + k) a n v)
  | .active _ => .error 4
  | .next o => .ok (storeNext s o (natLe n v))
  | .mine o =>
    let c := ctrlGet s k
    .ok (ctrlPut s k { c with localMem := bufPut c.localMem o (natLe n v) })
  | .nowhere => .error 3

/-! ### Loads -/

/-- A load of `n` bytes from device memory; `ext` extends the value read. -/
def loadDevice (h : Hart) (rd : Reg) (w n : Nat) (ext : Nat → Word) (s : State) : State :=
  match accessCause s w n .load with
  | some k => failAccess s h w n k
  | none => retire s h rd (ext (readNat s (reached s w) n))

/-- A load of `n` bytes from control space, which only a control core has (03 R129). -/
def loadControl (h : Hart) (rd : Reg) (w n : Nat) (ext : Nat → Word) (s : State) : State :=
  match h with
  | .strand _ _ => illegal s h
  | .ctrl k =>
    if w % n ≠ 0 then demandFault s h 2 w
    else match ctlRead s k.val w n with
      | some (v, s) => retire s h rd (ext v)
      | none => demandFault s h 3 w

/-- Shape of a load. -/
def load (h : Hart) (g : Guard) (rd rs1 : Reg) (space : Bool) (imm : BitVec 32) (s : State) (n : Nat) (ext : Nat → Word) : Out :=
  issue s h g fun s =>
    let w := (effAddr s h rs1 imm).toNat
    if space then loadControl h rd w n ext s else loadDevice h rd w n ext s

/-- A value of `n` bytes, zero-extended. -/
def zext (v : Nat) : Word := BitVec.ofNat 64 v

/-- A value of `b` bits, sign-extended. -/
def sext (b v : Nat) : Word := BitVec.ofInt 64 (sint b v)

/-- LD8U (R102, R116). -/
def execLd8u (h : Hart) (g : Guard) (rd rs1 : Reg) (space : Bool) (imm : BitVec 32) (s : State) : Out :=
  spelled (.ld8u h g rd rs1 space imm) h s <| load h g rd rs1 space imm s 1 zext
/-- LD16U (R102, R116). -/
def execLd16u (h : Hart) (g : Guard) (rd rs1 : Reg) (space : Bool) (imm : BitVec 32) (s : State) : Out :=
  spelled (.ld16u h g rd rs1 space imm) h s <| load h g rd rs1 space imm s 2 zext
/-- LD32U (R102, R116). -/
def execLd32u (h : Hart) (g : Guard) (rd rs1 : Reg) (space : Bool) (imm : BitVec 32) (s : State) : Out :=
  spelled (.ld32u h g rd rs1 space imm) h s <| load h g rd rs1 space imm s 4 zext
/-- LD64 (R102, R116). -/
def execLd64 (h : Hart) (g : Guard) (rd rs1 : Reg) (space : Bool) (imm : BitVec 32) (s : State) : Out :=
  spelled (.ld64 h g rd rs1 space imm) h s <| load h g rd rs1 space imm s 8 zext
/-- LD8S (R102, R116). -/
def execLd8s (h : Hart) (g : Guard) (rd rs1 : Reg) (space : Bool) (imm : BitVec 32) (s : State) : Out :=
  spelled (.ld8s h g rd rs1 space imm) h s <| load h g rd rs1 space imm s 1 (sext 8)
/-- LD16S (R102, R116). -/
def execLd16s (h : Hart) (g : Guard) (rd rs1 : Reg) (space : Bool) (imm : BitVec 32) (s : State) : Out :=
  spelled (.ld16s h g rd rs1 space imm) h s <| load h g rd rs1 space imm s 2 (sext 16)
/-- LD32S (R102, R116). -/
def execLd32s (h : Hart) (g : Guard) (rd rs1 : Reg) (space : Bool) (imm : BitVec 32) (s : State) : Out :=
  spelled (.ld32s h g rd rs1 space imm) h s <| load h g rd rs1 space imm s 4 (sext 32)

/-! ### Stores -/

/-- The bytes of a store or an atomic reach memory; those that fall in a partial buffer of a matrix engine spoil its drain (R117; 06 R251). -/
def strandWrite (s : State) (a : Nat) (l : List Byte) : State := taskWrite (spoilParts s a l.length) a l

/-- A store of the low `n` bytes of a value to device memory; what falls to a LOST channel is dropped (R116, R117; 12 R474). -/
def storeDevice (h : Hart) (w n : Nat) (v : Word) (s : State) : State :=
  match accessCause s w n .store with
  | some k => failAccess s h w n k
  | none => nextPc (strandWrite s (reached s w) (natLe n v.toNat)) h

/-- A store to control space, which only a control core has (03 R129, R131). -/
def storeControl (h : Hart) (w n : Nat) (v : Word) (s : State) : State :=
  match h with
  | .strand _ _ => illegal s h
  | .ctrl k =>
    if w % n ≠ 0 then demandFault s h 2 w
    else match ctlWrite s k.val w n v.toNat with
      | .ok s => nextPc s h
      | .error c => demandFault s h c w

/-- Shape of a store: RD names the source of the data. Two stores of one core that reach the same scratchpad bytes in one core cycle are
issued by two turns, and the higher-numbered strand's command comes last: the cycle is timing, and the order of commands is the order in which
accesses reach their memory (R119; DESIGN CHOICE, log 57). -/
def store (h : Hart) (g : Guard) (rd rs1 : Reg) (space : Bool) (imm : BitVec 32) (s : State) (n : Nat) : Out :=
  issue s h g fun s =>
    let w := (effAddr s h rs1 imm).toNat
    if space then storeControl h w n (reg s h rd) s else storeDevice h w n (reg s h rd) s

/-- ST8 (R102, R117). -/
def execSt8 (h : Hart) (g : Guard) (rd rs1 : Reg) (space : Bool) (imm : BitVec 32) (s : State) : Out :=
  spelled (.st8 h g rd rs1 space imm) h s <| store h g rd rs1 space imm s 1
/-- ST16 (R102, R117). -/
def execSt16 (h : Hart) (g : Guard) (rd rs1 : Reg) (space : Bool) (imm : BitVec 32) (s : State) : Out :=
  spelled (.st16 h g rd rs1 space imm) h s <| store h g rd rs1 space imm s 2
/-- ST32 (R102, R117). -/
def execSt32 (h : Hart) (g : Guard) (rd rs1 : Reg) (space : Bool) (imm : BitVec 32) (s : State) : Out :=
  spelled (.st32 h g rd rs1 space imm) h s <| store h g rd rs1 space imm s 4
/-- ST64 (R102, R117). -/
def execSt64 (h : Hart) (g : Guard) (rd rs1 : Reg) (space : Bool) (imm : BitVec 32) (s : State) : Out :=
  spelled (.st64 h g rd rs1 space imm) h s <| store h g rd rs1 space imm s 8

/-! ### Atomics -/

/-- What an atomic makes of the old value: the new value, where it writes one, and flags. -/
abbrev AtomicFn := Nat → Option Nat × Nat

/-- An atomic of `n` bytes at an address: the old value goes to rd, and the new one is written (R102, R116, R117). -/
def atomicAt (h : Hart) (rd : Reg) (w n : Nat) (f : AtomicFn) (s : State) : State :=
  match accessCause s w n .atomic with
  | some k => failAccess s h w n k
  | none =>
    let old := readNat s (reached s w) n
    let r := f old
    let s := match r.1 with
      | some v => strandWrite s (reached s w) (natLe n v)
      | none => s
    retire (orFflags s h r.2) h rd (zext old)

/-- Shape of an atomic. -/
def atomic (h : Hart) (g : Guard) (rd rs1 : Reg) (s : State) (n : Nat) (f : State → AtomicFn) : Out :=
  issue s h g fun s => atomicAt h rd (reg s h rs1).toNat n (f s) s

/-- The value of an operand register as a number. -/
def regNat (s : State) (h : Hart) (r : Reg) : Nat := (reg s h r).toNat

/-- AADD32 (R102). -/
def execAadd32 (h : Hart) (g : Guard) (rd rs1 rs2 : Reg) (s : State) : Out :=
  spelled (.aadd32 h g rd rs1 rs2) h s <| atomic h g rd rs1 s 4 fun s o => (some ((o + regNat s h rs2) % 2 ^ 32), 0)
/-- AADD64 (R102). -/
def execAadd64 (h : Hart) (g : Guard) (rd rs1 rs2 : Reg) (s : State) : Out :=
  spelled (.aadd64 h g rd rs1 rs2) h s <| atomic h g rd rs1 s 8 fun s o => (some ((o + regNat s h rs2) % 2 ^ 64), 0)
/-- AMINU64 (R102). -/
def execAminu64 (h : Hart) (g : Guard) (rd rs1 rs2 : Reg) (s : State) : Out :=
  spelled (.aminu64 h g rd rs1 rs2) h s <| atomic h g rd rs1 s 8 fun s o => (some (min o (regNat s h rs2)), 0)
/-- AMAXU64 (R102). -/
def execAmaxu64 (h : Hart) (g : Guard) (rd rs1 rs2 : Reg) (s : State) : Out :=
  spelled (.amaxu64 h g rd rs1 rs2) h s <| atomic h g rd rs1 s 8 fun s o => (some (max o (regNat s h rs2)), 0)
/-- AOR64 (R102). -/
def execAor64 (h : Hart) (g : Guard) (rd rs1 rs2 : Reg) (s : State) : Out :=
  spelled (.aor64 h g rd rs1 rs2) h s <| atomic h g rd rs1 s 8 fun s o => (some (Nat.lor o (regNat s h rs2)), 0)
/-- AAND64 (R102). -/
def execAand64 (h : Hart) (g : Guard) (rd rs1 rs2 : Reg) (s : State) : Out :=
  spelled (.aand64 h g rd rs1 rs2) h s <| atomic h g rd rs1 s 8 fun s o => (some (Nat.land o (regNat s h rs2)), 0)
/-- ASWAP64 (R102). -/
def execAswap64 (h : Hart) (g : Guard) (rd rs1 rs2 : Reg) (s : State) : Out :=
  spelled (.aswap64 h g rd rs1 rs2) h s <| atomic h g rd rs1 s 8 fun s _ => (some (regNat s h rs2), 0)
/-- ACAS64: the new value is written where the old one equals y (R102). -/
def execAcas64 (h : Hart) (g : Guard) (rd rs1 rs2 rs3 : Reg) (s : State) : Out :=
  spelled (.acas64 h g rd rs1 rs2 rs3) h s <| atomic h g rd rs1 s 8 fun s o => (if o = regNat s h rs2 then some (regNat s h rs3) else none, 0)
/-- AFADD32: FP32 add, rounded to nearest even, setting FFLAGS (R102, R104). -/
def execAfadd32 (h : Hart) (g : Guard) (rd rs1 rs2 : Reg) (s : State) : Out :=
  spelled (.afadd32 h g rd rs1 rs2) h s <| atomic h g rd rs1 s 4 fun s o => let r := addF o (regNat s h rs2 % 2 ^ 32); (some r.1, r.2)

end Sys2Proof.Machine
end

