-- ==== Sys2Proof/Machine/Mgmt.lean ====
section
/-! DEFINITION. The management interface: the I3C target, MCTP control, Birosh messages and direct access, PLDM monitoring and PLDM
firmware update (19). The byte layouts of MCTP and PLDM are PRESUMED from their own standards; what each field holds is the
spec's. A body is a command's data without the headers of its transport. -/

namespace Sys2Proof.Machine

/-! ### The I3C target (R716, R717) -/

/-- The address the target answers at: its dynamic one, or the static one that GPIO0-3 gave it (R716, R717). -/
def targetAddr (s : State) : Nat := if s.mgmt.i3cMode then s.mgmt.dynAddr else 0x50 + s.boot.gpio

/-- What the target sends as it takes part in ENTDAA: the Provisional ID (its layout PRESUMED from the MIPI standard, log 36), BCR and DCR (R716). -/
def provisionalId (s : State) : List Byte :=
  (natLe 6 (Config.mipiManufacturer % 2 ^ 15 * 2 ^ 33 + 0x4812 * 2 ^ 16 + s.boot.gpio % 16 * 2 ^ 12)).reverse ++ [0x06, 0x00]

/-- ENTDAA: a dynamic address, which SETDASA and SETAASA give as well; the target works in I3C mode from now on (R716, R717). -/
def execEntdaa (addr : Nat) (s : State) : Out :=
  if !s.boot.pwrgood then .next s
  else .next (mgmtMap s fun m => { m with i3cMode := true, dynAddr := addr % 128, answer := provisionalId s })

/-- RSTDAA: back to SMBus mode at the static address (R717). -/
def execRstdaa (s : State) : Out := .next (mgmtMap s fun m => { m with i3cMode := false, dynAddr := 0 })

/-! ### MCTP control (R718, R719) -/

/-- A control command is answered while MCTP is served; in HALTED too (R719). -/
def mctpControl (s : State) (f : State → Out) : Out := if mctpUp s true then f s else .next s

/-- SET_ENDPOINT_ID: operation, EID (R718). -/
def execSetEndpointId (body : List Byte) (s : State) : Out :=
  mctpControl s fun s =>
    let eid := fld body 1 1
    if 2 ≤ fld body 0 1 % 4 ∨ eid = 0 ∨ eid = 0xFF then mgmtAnswer s 2 []
    else mgmtAnswer (mgmtMap s fun m => { m with eid := eid }) 0 ([0] ++ natLe 1 eid ++ [0])

/-- GET_ENDPOINT_ID: the EID, a simple endpoint with a dynamic EID. -/
def execGetEndpointId (_body : List Byte) (s : State) : Out := mctpControl s fun s => mgmtAnswer s 0 (natLe 1 s.mgmt.eid ++ [0, 0])

/-- GET_ENDPOINT_UUID. -/
def execGetEndpointUuid (_body : List Byte) (s : State) : Out := mctpControl s fun s => mgmtAnswer s 0 ((List.range 16).map Config.uuid)

/-- The message types of the endpoint (R718). -/
def msgTypes : List Nat := [0, 1, 5, 0x7E]

/-- Bytes that the spec gives no value. -/
def freeBytes (s : State) (k : Nat) : List Byte × State :=
  let (n, s) := drawN s k
  ((List.range k).map fun i => Config.freeByte (n + i), s)

/-- GET_MCTP_VERSION_SUPPORT: one version of a type, 1.3 for the base and the control type; the spec gives none for the others (R718). -/
def execGetMctpVersionSupport (body : List Byte) (s : State) : Out :=
  mctpControl s fun s =>
    let ty := fld body 0 1
    if ty = 0xFF ∨ ty = 0 then mgmtAnswer s 0 [1, 0xF1, 0xF3, 0xFF, 0x00]
    else if msgTypes.contains ty then
      let (b, s) := freeBytes s 4
      mgmtAnswer s 0 (1 :: b)
    else mgmtAnswer s 0x80 []

/-- GET_MESSAGE_TYPE_SUPPORT. -/
def execGetMessageTypeSupport (_body : List Byte) (s : State) : Out :=
  mctpControl s fun s => mgmtAnswer s 0 (natLe 1 msgTypes.length ++ msgTypes.flatMap (natLe 1))

/-! ### Reads, forces and the alert mask (R720-R722) -/

/-- Whether management reaches an address: the TSQ/TIM, RDY, FLT, KEEP/BOOT and TEL blocks (R722). -/
def mgmtReach (a : Nat) : Bool := (decide (0x100000 ≤ a) && decide (a < 0x400000)) || (decide (0x3800000 ≤ a) && decide (a < 0x4000000))

/-- `n` bytes as management reads them: zeros outside its blocks, and no register changes (R722). -/
def mgmtBytes (s : State) (a n : Nat) : List Byte := (List.range n).flatMap fun i => if mgmtReach (a + i) then barRead s 1 (a + i) 1 else [0]

/-- DIRECT_READ: 0xD1 with an offset, and private reads of 4 bytes after it (R720). -/
def execDirectRead (off len : Nat) (s : State) : Out :=
  if !s.boot.pwrgood then .next s
  else
    let n := 4 * (len / 4)
    let o := off % 2 ^ 32
    mgmtAnswer (mgmtMap (drawN s 2).2 fun m => { m with offset := (o + n) % 2 ^ 32 }) 0 (mgmtBytes s o n)

/-- RDY_CMD as management (16 R635, R638, R639). -/
def mgmtRdy (s : State) (cmd unit : Nat) : State :=
  let r := match cmd with
    | 1 => execGrey 1 unit s
    | 2 => execReleaseForce 1 unit s
    | _ => .next (rdyResult s 1 false)
  match r with
  | .next t => t
  | _ => s

/-- Management's view of RDY_CMD_RES. -/
def mgmtResult (s : State) : Nat := (pfind s.boot.rdyRes 1).getD 0

/-- DIRECT_RDY_CMD: 0xD0 with a command and a map index (R720). -/
def execDirectRdyCmd (body : List Byte) (s : State) : Out :=
  if !s.boot.pwrgood then .next s
  else
    let s := mgmtRdy s (fld body 0 1) (fld body 1 2)
    mgmtAnswer s 0 (natLe 1 (mgmtResult s))

/-- READ: offset and length, 4 to 48 bytes in multiples of 4 (R721, R722). -/
def execRead (body : List Byte) (s : State) : Out :=
  if !mctpUp s false then .next s
  else
    let a := fld body 0 4
    let n := fld body 4 1
    if n < 4 ∨ 48 < n ∨ n % 4 ≠ 0 then mgmtAnswer s 1 []
    else
      let out := (List.range n).any fun i => !mgmtReach (a + i)
      mgmtAnswer (drawN s 2).2 (b2n out) (mgmtBytes s a n)

/-- FORCE: GREY or RELEASE for a readiness entry (R721). -/
def execForce (body : List Byte) (s : State) : Out :=
  if !mctpUp s false then .next s
  else
    let s := mgmtRdy s (fld body 0 1) (fld body 1 2)
    mgmtAnswer s (if mgmtResult s = 1 then 0 else 1) (natLe 1 (mgmtResult s))

/-- ALERT_MASK: FLT_ALERT_MASK is written (R721; 15 R609). -/
def execAlertMask (body : List Byte) (s : State) : Out :=
  if !mctpUp s false then .next s else mgmtAnswer (fset s regFltAlertMask 12 0 (fld body 0 2)) 0 []

/-! ### PLDM monitoring (R726, R727) -/

/-- A numeric sensor: its unit and unit modifier, its bytes, its upper warning, critical and fatal thresholds and its lower critical
one, in units of the device block (R725, R727). -/
structure Sensor where
  unit : Nat
  modifier : Nat
  size : Nat
  warn : Option Nat
  crit : Option Nat
  fatal : Option Nat
  low : Option Nat
deriving DecidableEq, Repr

/-- The numeric sensors (R727). -/
def sensorOf (i : Nat) : Option Sensor :=
  if i = 1 then some ⟨5, 0xFE, 2, none, some 6000, none, some 4000⟩
  else if i = 2 then some ⟨6, 0xFE, 2, none, none, none, none⟩
  else if i = 3 then some ⟨7, 0, 2, some 1800, some 2400, none, none⟩
  else if 4 ≤ i ∧ i ≤ 9 then some ⟨2, 0, 1, some 95, some 105, some 110, none⟩
  else if 10 ≤ i ∧ i ≤ 21 then some ⟨2, 0, 1, some 88, some 95, some 103, none⟩
  else if i = 22 then some ⟨2, 0, 1, some 75, some 80, none, none⟩
  else if i = 23 then some ⟨21, 0xF7, 4, some 10, some 25, none, none⟩
  else none

/-- The state sensors: the device, the dies, and the time unit (R727). -/
def stateValue (s : State) (i : Nat) : Nat :=
  if i = 107 then s.tim.state.code + 1 else (rdyState s (i - 100)).code + 1

/-- What the sensors read: stack temperatures and the time error from the device's own state, a die's junction temperature as it was
last reported, and free values for what the platform's sensors measure (R726). -/
def sampleSensors (s : State) : State :=
  let (n, s) := drawN s 10
  let free := fun (k top : Nat) => Config.freeNat (n + k) % top
  let dies := (List.range 6).map fun d => (4 + d, (pfind s.elec.dieTemp d).getD (free (4 + d) 256))
  let stk := (List.range 12).map fun k => (10 + k, (chanGet s (16 * k)).temp)
  let all := [(1, free 0 65536), (2, free 1 65536), (3, free 2 65536)] ++ dies ++ stk ++ [(22, free 3 256), (23, s.tim.offset.natAbs)] ++
    (List.range 8).map fun k => (100 + k, stateValue s (100 + k))
  mgmtMap s fun m => { m with sensors := all }

/-- The sensors as sampled at the last apply point, or in the last millisecond before ticks run (R726). -/
def sensorsNow (s : State) : State := if s.tsq.running then s else sampleSensors s

/-- A PLDM command is answered by the service cores (R719). -/
def pldm (s : State) (f : State → Out) : Out := if mctpUp s false then f s else .next s

/-- GETTID. -/
def execGettid (_body : List Byte) (s : State) : Out := pldm s fun s => mgmtAnswer s 0 [Config.tid]

/-- The version of a PLDM type: DSP0240 1.1, DSP0248 1.2, DSP0267 1.1 (R726, R728). -/
def pldmVersion (ty : Nat) : Option (List Byte) :=
  match ty with
  | 0 => some [0x00, 0xF0, 0xF1, 0xF1]
  | 2 => some [0x00, 0xF0, 0xF2, 0xF1]
  | 5 => some [0x00, 0xF0, 0xF1, 0xF1]
  | _ => none

/-- GETPLDMVERSION. -/
def execGetpldmversion (body : List Byte) (s : State) : Out :=
  pldm s fun s => match pldmVersion (fld body 5 1) with
    | some v => mgmtAnswer s 0 (natLe 4 0 ++ [5] ++ v ++ natLe 4 (crc32 v))
    | none => mgmtAnswer s 0x83 []

/-- GETPLDMTYPES: base, monitoring and firmware update. -/
def execGetpldmtypes (_body : List Byte) (s : State) : Out := pldm s fun s => mgmtAnswer s 0 (natLe 8 0x25)

/-- The command codes of a PLDM type (R726, R728). -/
def pldmCommands (ty : Nat) : Option (List Nat) :=
  match ty with
  | 0 => some [2, 3, 4, 5]
  | 2 => some [0x11, 0x21, 0x50, 0x51]
  | 5 => some [0x01, 0x02, 0x10, 0x13, 0x14, 0x15, 0x16, 0x17, 0x18, 0x1A, 0x1B, 0x1C, 0x1D]
  | _ => none

/-- GETPLDMCOMMANDS: the commands of a type as 256 bits. -/
def execGetpldmcommands (body : List Byte) (s : State) : Out :=
  pldm s fun s => match pldmCommands (fld body 0 1) with
    | some cs => mgmtAnswer s 0 (natLe 32 ((cs.map (2 ^ ·)).foldl (· + ·) 0))
    | none => mgmtAnswer s 0x83 []

/-- The sensors of the repository in order, record handles 1 to 31. -/
def pdrSensors : List Nat := (List.range 23).map (· + 1) ++ (List.range 8).map (100 + ·)

/-- A value of a sensor in its bytes. -/
def optLe (k : Nat) (v : Option Nat) : List Byte := natLe k (v.getD 0)

/-- The body of a numeric sensor's PDR; what the spec does not give is free (R727). -/
def numericPdr (s : State) (i : Nat) (x : Sensor) : List Byte × State :=
  let (f, s) := freeBytes s (6 + 4 + x.size + 1 + 8 + 2 * x.size + 3 * x.size)
  let part := fun (o n : Nat) => (f.drop o).take n
  let code := if x.size = 1 then 0 else if x.size = 2 then 2 else 4
  let thr := b2n x.warn.isSome + 2 * b2n x.crit.isSome + 4 * b2n x.fatal.isSome + 16 * b2n x.low.isSome
  let range := 8 * b2n x.crit.isSome + 16 * b2n x.low.isSome + 32 * b2n x.fatal.isSome
  let k := x.size
  (natLe 2 0 ++ natLe 2 i ++ part 0 6 ++ [0, 0] ++ natLe 1 x.unit ++ natLe 1 x.modifier ++ natLe 7 0 ++ [1] ++ natLe 1 code ++ natLe 4 0x3F800000 ++
    natLe 4 0 ++ part 6 4 ++ part 10 k ++ natLe 1 thr ++ part (10 + k) 1 ++ part (11 + k) 8 ++ part (19 + k) (2 * k) ++ natLe 1 code ++ natLe 1 range ++
    part (19 + 3 * k) (3 * k) ++ optLe k x.warn ++ natLe k 0 ++ optLe k x.crit ++ optLe k x.low ++ optLe k x.fatal ++ natLe k 0, s)

/-- The body of a state sensor's PDR: OEM state sets 0x8000 and 0x8001 (R727). -/
def statePdr (s : State) (i : Nat) : List Byte × State :=
  let (f, s) := freeBytes s 6
  (natLe 2 0 ++ natLe 2 i ++ f ++ [0, 0, 1] ++ natLe 2 (if i = 107 then 0x8001 else 0x8000) ++ [1] ++ natLe 1 (if i = 107 then 0xFE else 0x7E), s)

/-- A PDR with its header. -/
def pdrOf (s : State) (h : Nat) : List Byte × State :=
  let i := pdrSensors.getD (h - 1) 0
  let (b, ty, s) := match sensorOf i with
    | some x => let (b, s) := numericPdr s i x; (b, 2, s)
    | none => let (b, s) := statePdr s i; (b, 4, s)
  (natLe 4 h ++ [1] ++ natLe 1 ty ++ natLe 2 0 ++ natLe 2 b.length ++ b, s)

/-- GETPDRREPOSITORYINFO: available, 31 records. -/
def execGetpdrrepositoryinfo (_body : List Byte) (s : State) : Out :=
  pldm s fun s =>
    let (f, s) := freeBytes s 27
    let sizes := (List.range 31).map fun h => (pdrOf s (h + 1)).1.length
    mgmtAnswer s 0 ([0] ++ f.take 26 ++ natLe 4 31 ++ natLe 4 (sizes.foldl (· + ·) 0) ++ natLe 4 (sizes.foldl max 0) ++ f.drop 26)

/-- GETPDR: a record, or a part of it (R727). -/
def execGetpdr (body : List Byte) (s : State) : Out :=
  pldm s fun s =>
    let h := if fld body 0 4 = 0 then 1 else fld body 0 4
    if 31 < h then mgmtAnswer s 0x82 []
    else
      let (r, s) := pdrOf s h
      let off := if fld body 8 1 = 0 then fld body 4 4 else 0
      let n := min (fld body 9 2) (r.length - off)
      let last := off + n = r.length
      let flag := if off = 0 ∧ last then 5 else if off = 0 then 0 else if last then 4 else 1
      mgmtAnswer s 0 (natLe 4 (if h = 31 then 0 else h + 1) ++ natLe 4 (if last then 0 else off + n) ++ natLe 1 flag ++ natLe 2 n ++ (r.drop off).take n)

/-- The state of a reading against its thresholds: 1 normal, 6 lower critical, 8 to 10 upper warning, critical, fatal (R727). -/
def readingState (x : Sensor) (v : Nat) : Nat :=
  let ovr := fun (t : Option Nat) => match t with
    | some k => decide (k ≤ v)
    | none => false
  let under : Bool := match x.low with
    | some k => decide (v ≤ k)
    | none => false
  if ovr x.fatal then 10 else if ovr x.crit then 9 else if ovr x.warn then 8 else if under then 6 else 1

/-- The state of sensor i at a reading. A stack and a die reach their thresholds (12 R471; 20 R751), the lid is critical above 80 °C on sensor 22. This is
all that the lid's temperature does: no other definition reads that sensor (20 R753). -/
def sensorState (i : Nat) (x : Sensor) (v : Nat) : Nat := readingState x (if i = 22 then v - 1 else v)

/-- GETSENSORREADING (R726, R727; 20 R753). -/
def execGetsensorreading (body : List Byte) (s : State) : Out :=
  pldm s fun s =>
    let i := fld body 0 2
    match sensorOf i with
    | none => mgmtAnswer s 0x80 []
    | some x =>
      let s := sensorsNow s
      let v := (pfind s.mgmt.sensors i).getD 0
      let (f, s) := freeBytes s 1
      mgmtAnswer s 0 ([if x.size = 1 then 0 else if x.size = 2 then 2 else 4, 0, 0] ++ natLe 1 (sensorState i x v) ++ f ++ natLe 1 (sensorState i x v) ++ natLe x.size v)

/-- GETSTATESENSORREADINGS (R726, R727). -/
def execGetstatesensorreadings (body : List Byte) (s : State) : Out :=
  pldm s fun s =>
    let i := fld body 0 2
    if i < 100 ∨ 107 < i then mgmtAnswer s 0x80 []
    else
      let s := sensorsNow s
      let v := (pfind s.mgmt.sensors i).getD 0
      let (f, s) := freeBytes s 1
      mgmtAnswer s 0 ([1, 0] ++ natLe 1 v ++ f ++ natLe 1 v)

/-! ### PLDM firmware update (R728-R731) -/

/-- The kind of object a component holds, and its limit; none for a flash slot or an unknown component (R728). -/
def compKind (c : Nat) : Option Nat := match c with
  | 1 => some 2
  | 2 => some 3
  | 3 => some 1
  | _ => none

/-- The flash slot a component is. -/
def compSlot (c : Nat) : Option Nat := if c = 0x10 then some 0 else if c = 0x11 then some 1 else none

/-- The limit of a component (R728). -/
def compLimit (c : Nat) : Nat := match c with
  | 1 => 15 * 2 ^ 20
  | 2 => 16 * 2 ^ 20
  | 3 => 2 ^ 20
  | _ => 96 * 2 ^ 20

/-- A firmware update command is answered while MCTP is served; in HALTED for the slot components alone (R719). -/
def pldmFw (s : State) (f : State → Out) : Out := if mctpUp s true then f s else .next s

/-- REQUESTUPDATE: a session opens, for transfers of 32 to 4,096 bytes (R728, R731). -/
def execRequestupdate (body : List Byte) (s : State) : Out :=
  pldmFw s fun s =>
    if s.mgmt.session then mgmtAnswer s 0x81 []
    else if fld body 0 4 < 32 then mgmtAnswer s 0x83 []
    else mgmtAnswer (mgmtMap s fun m => { m with session := true, transfer := none, verified := [] }) 0 [0, 0, 0]

/-- UPDATECOMPONENT: a component transfer begins. Refused for the slot in use and for what exceeds its limit; not ready while the
staged object is named by a sealed plan (R728, R730, R731). -/
def execUpdatecomponent (body : List Byte) (s : State) : Out :=
  pldmFw s fun s =>
    let c := fld body 2 2
    let size := fld body 9 4
    let refuse := fun (s : State) => mgmtAnswer s 0 ([1, 0x06] ++ natLe 4 0 ++ natLe 2 0)
    if !s.mgmt.session then mgmtAnswer s 0x80 []
    else if ((compKind c).isNone ∧ (compSlot c).isNone) ∨ fld body 0 2 ≠ 0x000A ∨ size = 0 ∨ compLimit c < size ∨ (stage s = 15 ∧ (compSlot c).isNone) ∨
        compSlot c = some (fget s regBootStatus 10 10) then refuse s
    else if s.keep.named.contains ((compKind c).getD 0) then mgmtAnswer s 4 []
    else
      let s := match compSlot c with
        | some k => (List.range 4).foldl (fun s a => putFlash s k a []) s
        | none => s
      mgmtAnswer (mgmtMap s fun m => { m with transfer := some ⟨c, size, []⟩, verified := m.verified.filter (· ≠ c) }) 0 ([0, 0] ++ natLe 4 0 ++ natLe 2 0)

/-- The objects of a slot image, by area (16 R619): keeper, control, service, configuration. -/
def slotAreas : List (Nat × Nat) := [(0, 0x100000), (0x100000, 0xF00000), (0x1000000, 0x1000000), (0x2000000, 0x4000000)]

/-- An object of a slot image, cut to its LENGTH. -/
def slotObject (image : List Byte) (area : Nat) : List Byte :=
  let (o, n) := slotAreas.getD area (0, 0)
  let a := (image.drop o).take n
  a.take (fld a 8 4)

/-- A whole component has come: it is staged for the keeper, held for the ROM, or written to its slot (R728; 17 R658). -/
def componentDone (s : State) (t : Transfer) : State :=
  match compSlot t.comp with
  | some k => (List.range 4).foldl (fun s a => putFlash s k a (slotObject t.bytes a)) s
  | none =>
    let kind := (compKind t.comp).getD 0
    if s.keep.named.contains kind then s
    else
      let s := keepMap s fun k => { k with staged := pput k.staged kind (imageOf t.bytes) }
      if kind = 1 then s else setUnit (setUnit s (stagedIdx kind) .absent 0) (stagedIdx kind) .testing 0

/-- COMPONENT_DATA_TRANSFER: a piece of the component; the last one ends the transfer (R728). -/
def execComponentDataTransfer (body : List Byte) (s : State) : Out :=
  pldmFw s fun s => match s.mgmt.transfer with
    | none => mgmtAnswer s 0x80 []
    | some t =>
      let left := t.size - t.bytes.length
      if left = 0 then mgmtAnswer s 0x80 []
      else if 4096 < body.length ∨ (body.length < 32 ∧ body.length < left) ∨ left + 31 < body.length then mgmtAnswer s 0x83 []
      else
        let t := { t with bytes := t.bytes ++ body.take left }
        let s := mgmtMap s fun m => { m with transfer := some t }
        mgmtAnswer (if t.bytes.length = t.size then componentDone s t else s) 0 []

/-- Whether an object passes R623 whole (16 R623; 17 R653). -/
def objectPasses (s : State) (kind : Nat) (o : List Byte) : Bool :=
  objectAccepted s kind o &&
    Config.verify ((o.drop (fld o 0x20 4)).take 2592) (o.take (fld o 0x24 4)) (o.drop (fld o 0x24 4)) && (kind != 4 || configOk (objectBody o))

/-- Whether the four objects of a slot, read back, all pass (R729). -/
def slotPasses (s : State) (k : Nat) : Bool :=
  (List.range 4).all fun a => match pfind s.boot.flash (4 * k + a) with
    | some o => objectPasses s ([1, 2, 3, 4].getD a 0) o
    | none => false

/-- Whether verification of the last component succeeds (R729). -/
def verifies (s : State) (t : Transfer) : Bool :=
  t.bytes.length == t.size &&
    match compSlot t.comp with
    | some k => slotPasses s k
    | none =>
      let kind := (compKind t.comp).getD 0
      if kind = 1 then objectPasses s 1 t.bytes else rdyState s (stagedIdx kind) == .ready

/-- VERIFYCOMPLETE: the result of the component's verification, 0 success (R729). -/
def execVerifycomplete (_body : List Byte) (s : State) : Out :=
  pldmFw s fun s => match s.mgmt.transfer with
    | none => mgmtAnswer s 0x80 []
    | some t =>
      if verifies s t then mgmtAnswer (mgmtMap s fun m => { m with verified := m.verified ++ [t.comp], transfer := none }) 0 [0]
      else mgmtAnswer s 0 [1]

/-- The directory names a verified slot ACTIVE: the copy with the lower SEQ is rewritten with SEQ one above the higher valid one (R730;
16 R620). -/
def activateSlot (s : State) (k : Nat) : State :=
  let seqOf := fun (c : DirCopy) => if dirValid c then dirSeq c else 0
  let a := s.boot.dir0
  let b := s.boot.dir1
  let new := dirCopyBytes (max (seqOf a) (seqOf b) + 1) k
  if dirValid a ∧ (!dirValid b ∨ dirSeq b < dirSeq a) then bootMap s fun x => { x with dir1 := new } else bootMap s fun x => { x with dir0 := new }

/-- ACTIVATEFIRMWARE: a verified slot becomes ACTIVE at the next start; a keeper object starts the restart of the management plane (R728,
R730; 17 R662). -/
def execActivatefirmware (_body : List Byte) (s : State) : Out :=
  pldmFw s fun s =>
    if !s.mgmt.session then mgmtAnswer s 0x80 []
    else
      let v := s.mgmt.verified
      let s := v.foldl (fun s c => match compSlot c with
        | some k => activateSlot s k
        | none => s) s
      let s := mgmtMap s fun m => { m with session := false, transfer := none, verified := [] }
      let s := if v.contains 3 then keepMap s fun k => { k with restarting := true, restartCause := 2 } else s
      let (f, s) := freeBytes s 2
      mgmtAnswer s 0 f

/-- CANCELUPDATECOMPONENT: the transfer ends (R728). -/
def execCancelupdatecomponent (_body : List Byte) (s : State) : Out :=
  pldmFw s fun s =>
    if !s.mgmt.session then mgmtAnswer s 0x80 [] else mgmtAnswer (mgmtMap s fun m => { m with transfer := none }) 0 []

/-- CANCELUPDATE: the session ends; what has been staged stays (R731). -/
def execCancelupdate (_body : List Byte) (s : State) : Out :=
  pldmFw s fun s =>
    if !s.mgmt.session then mgmtAnswer s 0x80 []
    else mgmtAnswer (mgmtMap s fun m => { m with session := false, transfer := none, verified := [] }) 0 (natLe 9 0)

end Sys2Proof.Machine
end

