-- ==== Sys2Proof/Machine/Telemetry.lean ====
section
/-! DEFINITION. The telemetry ring (10 R408; 19 R723-R725). -/

namespace Sys2Proof.Machine

/-- A count in a field of `k` bytes, where it saturates. -/
def satLe (k n : Nat) : List Byte := natLe k (min n (256 ^ k - 1))

/-- The µs instants of a tick up to its apply point. -/
def tickSamples (s : State) : Nat := (period s - applyLen s) / 1000

/-- The counters of a core record with the sizes of their fields, from DISPATCHED on (10 R408). -/
def telFields (c : TelCore) : List (Nat × Nat) :=
  [(4, c.dispatched), (8, c.waitSum), (4, c.busyNs * 3 / 5), (4, c.ended), (2, c.late), (2, c.rerun), (2, c.stolen), (2, c.spawnWaits)]

/-- The 64-byte record of a logical core (10 R408). -/
def coreRecord (s : State) (l p : Nat) : List Byte :=
  let c := telGet s l
  let mean := c.depthSum * 256 / max 1 (tickSamples s)
  let sat := (telFields c).any (fun f => decide (256 ^ f.1 - 1 ≤ f.2)) || decide (2 ^ 32 - 1 ≤ mean) || decide (65535 ≤ c.depthMax)
  natLe 8 s.tsq.tick ++ natLe 2 l ++ natLe 2 p ++ satLe 4 mean ++ satLe 2 c.depthMax ++
    natLe 2 (b2n s.tsq.holdTick * 4 + b2n c.fenced * 2 + b2n sat) ++ ((List.range 8).flatMap fun i => satLe 2 (mget (fun _ => 0) c.levelMax i)) ++
    (telFields c).flatMap fun f => satLe f.1 f.2

/-- The records of the logical cores that were in service during the tick go into the core ring, each with the core that holds its number at the end,
or held it last (10 R408; 19 R723). -/
def writeCoreRing (s : State) : State :=
  s.sch.served.foldl (fun s e =>
    let r := coreRecord s e.1 ((physOf s e.1).getD e.2)
    mgmtMap s fun m => { m with coreRing := pput m.coreRing (256 * (s.tsq.tick % 64) + e.1) r }) s

/-- A register's count since the last device block. -/
def since (s : State) (a : Nat) : Nat := rget s a - mget (fun _ => 0) s.mgmt.tickBase a

/-- The counters of the ports whose counts of the tick the device block gives. -/
def portCounters (p : Nat) : List Nat := [regHwsMissed p, regHwsFecCorr p, regHwsFecUncorr p, regHwsCrcErr p, regHwsReplay p]

/-- A port's part of the device block. -/
def portBlock (s : State) (p : Nat) : List Byte :=
  let t := portGet s p
  let snap := if fget s (regHwsDemandSnap p) 63 63 = 0 then t.snapA else t.snapB
  let sum := fun (f : Demand → Nat) => (snap.map fun d => f d.2).foldl (· + ·) 0
  natLe 1 (rdyState s (idxPort p)).code ++ natLe 1 (fget s (regHwsPortState p) 5 5 * 2 + fget s (regHwsPortState p) 4 4) ++
    satLe 2 (since s (regHwsMissed p)) ++ satLe 4 (since s (regHwsFecCorr p)) ++ satLe 2 (since s (regHwsFecUncorr p)) ++
    satLe 2 (since s (regHwsCrcErr p)) ++ satLe 2 (since s (regHwsReplay p)) ++ natLe 2 0 ++ natLe 4 (rget s (regHwsPdelay p)) ++
    satLe 4 (sum fun d => d.granted) ++ satLe 4 (sum fun d => d.spill) ++ natLe 4 0

/-- A channel's part of the device block. -/
def chanBlock (s : State) (c : Nat) : List Byte :=
  let ch := chanGet s c
  let snap := if fget s regPlcSnap 63 63 = 0 then s.plc.snapA else s.plc.snapB
  natLe 4 ((rdyState s (idxChan c)).code % 8 * 2 ^ 29 + ch.cap % 4 * 2 ^ 27 + min 2047 ch.corrTick * 2 ^ 16 + (mget (fun _ => countReset) snap.chans c).occ % 2 ^ 14)

/-- The device block of a tick (R725). -/
def deviceBlock (s : State) : List Byte :=
  let v := fun (i : Nat) => (pfind s.mgmt.sensors i).getD 0
  let m := s.mgmt
  let mig := fun (r : Nat) => satLe 2 (mget (fun _ => 0) m.tickMig r)
  natLe 8 s.tsq.tick ++
    (natLe 4 (int32 s.tim.offset) ++ natLe 1 s.tim.errEst ++ natLe 1 s.tim.state.code ++ natLe 1 s.tim.source ++ natLe 1 0) ++
    (natLe 2 (v 1) ++ natLe 2 (v 2) ++ natLe 2 (v 3) ++ natLe 2 0) ++
    (((List.range 6).flatMap fun d => natLe 1 (v (4 + d))) ++ natLe 1 (v 22) ++ natLe 1 0) ++
    (((List.range 12).flatMap fun k => natLe 1 (v (10 + k))) ++ natLe 4 0) ++
    (satLe 2 s.tsq.holdTicks ++ satLe 2 m.tickDeferred ++ natLe 4 (rget s regTsqApplyLast) ++ natLe 8 0) ++
    (mig 0 ++ mig 1 ++ mig 2 ++ mig 3 ++ satLe 4 m.tickMigBytes ++ satLe 2 m.tickReplAdd ++ satLe 2 m.tickReplDrop ++ satLe 4 s.plc.dir.length ++ natLe 12 0) ++
    (satLe 4 m.tickCommits ++ satLe 2 m.tickCuts ++ satLe 2 m.tickDiscards ++ natLe 24 0) ++
    (satLe 2 (countUnits s (· == .grey)) ++ satLe 2 (countUnits s (· == .fenced)) ++ satLe 2 (countUnits s unsettled) ++ satLe 2 m.tickRecords ++ natLe 8 0) ++
    natLe 112 0 ++ ((List.range 16).flatMap (portBlock s)) ++ ((List.range 192).flatMap (chanBlock s)) ++ natLe 2560 0

/-- The device block goes into its ring, and TEL_TICK names it (R723, R732). -/
def writeDevRing (s : State) : State :=
  let b := deviceBlock s
  let base := (List.range 16).foldl (fun m p => (portCounters p).foldl (fun m a => mset (fun _ => 0) m a (rget s a)) m) []
  rset (mgmtMap s fun m => { m with devRing := pput m.devRing (s.tsq.tick % 64) b, tickBase := base }) regTelTick s.tsq.tick

end Sys2Proof.Machine
end

