-- ==== Sys2Proof/Machine/Summary.lean ====
section
/-! DEFINITION. Confirming common items, and vetoes (02 R54, R63, R64, R72; 08 R304; 13 R514). -/

namespace Sys2Proof.Machine

/-- Change the tick sequencer. -/
def tsqMap (s : State) (f : TsqUnit → TsqUnit) : State := { s with tsq := f s.tsq }

/-- The common items of the plan in force that go into the window that closes the tick; none under a hold plan (R65). -/
def ownCommon (s : State) : List (Nat × List Byte × List Nat) := if s.tsq.holdTick then [] else commonItems s s.tsq.planActive

/-- Whether a partner has confirmed an item: a PLAN summary of it for this tick holds an entry equal to the device's own (R63; 13 R514). -/
def confirmed (s : State) (dev idx : Nat) : Bool :=
  match pfind (summaryEntries s s.tsq.planActive dev) idx with
  | some e => s.tsq.summaries.any fun x => x.dev == dev && x.tick == s.tsq.tick && x.items.contains e
  | none => false

/-- Whether a SWITCH item names a next slot or buffer of this device that is not ready for it (08 R304; 14 R557). -/
def unready (s : State) (i : List Byte) : Bool :=
  if itemKind i ≠ 7 ∨ fld i 4 1 ≠ 0 then false
  else if fld i 1 1 = 0 then !slotReady (tableGet s (fld i 2 2)) (fld i 6 2)
  else
    let l := layerGet s (fld i 2 2)
    !((l.next == 2 || l.next == 3) && l.nextVer == fld i 6 2)

/-- The devices for which this device vetoes an item: those that have not confirmed it or whose TSQ_CFG differs, or this device
itself where its own slot or its time is not ready (R54, R63, R72; 08 R304). -/
def vetoFor (s : State) (k : Nat × List Byte × List Nat) : List Nat :=
  (k.2.2.filter fun d => s.hws.mismatched.contains d || !confirmed s d k.1) ++
    (if s.tim.state ≠ .locked ∨ unready s k.2.1 then [s.boot.dev] else [])

/-- A common item is skipped: its next slot goes back to where it was, the event is set and a record names who has not confirmed (R63; 08
R302). -/
def skipCommon (s : State) (k : Nat × List Byte) (dev : Nat) : State :=
  if s.tsq.skip.contains k.1 then s
  else
    let s := markSwitching (tsqMap s fun t => { t with skip := t.skip ++ [k.1] }) k.2 false
    report (event s regTsqEvents 2) 0x34 7 (devCode dev) (itemKind k.2)

/-- Items as the entries of one message: the REF of a DIR_SWITCH names the place of its MIGRATE among them (13 R513). -/
def relist (ks : List (Nat × List Byte)) : List (List Byte) :=
  ks.map fun k =>
    if itemKind k.2 = 6 then k.2.take 4 ++ natLe 4 ((ks.findIdx? fun m => m.1 == fld k.2 4 4).getD 0) ++ k.2.drop 8 else k.2

/-- Send a VETO to a device over both routes, in as many messages as its entries need, and note their TAGs (R63; 13 R513, R514). -/
def sendVeto (s : State) (dev : Nat) (entries : List (List Byte)) : State :=
  (entryParts entries.length entries).foldl (fun s part =>
    let body := summaryBytes s 2 s.tsq.tick part []
    let (tag, s) := newTag s
    let (_, s) := sendTagged s 0x08 dev tag false body
    let (_, s) := sendTagged s 0x08 dev tag true body
    tsqMap s fun t => { t with vetoSent := t.vetoSent ++ [(dev, tag)] }) s

/-- At the settle point the unconfirmed common items are vetoed (R63). -/
def sendVetoes (s : State) : State :=
  let vs := (ownCommon s).filterMap fun k => match vetoFor s k with
    | d :: _ => some (k, d)
    | [] => none
  let s := vs.foldl (fun s v => skipCommon (tsqMap s fun t => { t with vetoed := t.vetoed ++ [v.1.1] }) (v.1.1, v.1.2.1) v.2) s
  let devs := (vs.flatMap fun v => v.1.2.2).eraseDups
  devs.foldl (fun s d => sendVeto s d (relist ((vs.filter fun v => v.1.2.2.contains d).map fun v => (v.1.1, v.1.2.1)))) s

/-- Whether a veto message has reached a device: a copy of it has been acknowledged whole. -/
def vetoReached (s : State) (v : Nat × Nat) : Bool := s.tsq.vetoAcked.contains v.2

/-- At the apply point the units of a vetoed item go GREY where its veto cannot be confirmed to have reached every participant (R64). -/
def greyVetoes (s : State) : State :=
  let lost := (s.tsq.vetoSent.filter fun v => !vetoReached s v).map (·.1)
  let bad := (ownCommon s).filter fun k => s.tsq.vetoed.contains k.1 && k.2.2.any lost.contains
  if bad.isEmpty then s else event (bad.foldl (fun s k => vetoGrey s k.2.1) s) regTsqEvents 3

/-- SUMMARY_PLAN_RX: a PLAN summary confirms the items it lists and names the barriers that broke in the tick before (R54, R63; 11 R438; 13
R514). -/
def execSummaryPlanRx (src tag : Nat) (body : List Byte) (s : State) : Out :=
  powered s <|
  let s := noteCfg (takeMsg s src tag 0x08) src (fld body 0x10 8)
  let items := summaryItems body
  let n := fld body 2 2
  let s := tsqMap s fun t => { t with summaries := t.summaries ++ [⟨src, fld body 8 8, items⟩] }
  .next ((List.range (fld body 4 2)).foldl (fun s i =>
    let b := fld body (32 + 32 * n + 2 * i) 2
    if knotOpen s b then breakBarrier s b (devCode src) (fld body 8 8 - 1) none else s) s)

/-- Whether an entry of a VETO is an item: REF of a DIR_SWITCH apart, which numbers the message's entries (13 R513). -/
def sameItem (i e : List Byte) : Bool := if itemKind i = 6 then i.take 4 == e.take 4 && i.drop 8 == e.drop 8 else i == e

/-- SUMMARY_VETO_RX: a received veto skips the items it lists (R63). -/
def execSummaryVetoRx (src tag : Nat) (body : List Byte) (s : State) : Out :=
  powered s <|
  let s := noteCfg (takeMsg s src tag 0x08) src (fld body 0x10 8)
  let es := summaryItems body
  if fld body 8 8 ≠ s.tsq.tick then .next s
  else .next (((ownCommon s).filter fun k => k.2.2.contains src && es.any (sameItem k.2.1)).foldl (fun s k => skipCommon s (k.1, k.2.1) src) s)

end Sys2Proof.Machine
end

