-- ==== Sys2Proof/Machine/System.lean ====
section
/-! DEFINITION. Class 0xA: special registers, fences, spawning and ending a task (03 R102, R105, R114, R118; 10 R396,
R397). -/

namespace Sys2Proof.Machine

/-- NOP (R102). -/
def execNop (h : Hart) (g : Guard) (s : State) : Out :=
  spelled (.nop h g) h s <| issue s h g fun s => nextPc s h

/-- MFENCE: every access of the model completes before the next instruction of its hart, so the fence only moves the
program counter on (R118). -/
def execMfence (h : Hart) (g : Guard) (s : State) : Out :=
  spelled (.mfence h g) h s <| issue s h g fun s => nextPc s h

/-- The value of a special register; none where the index is not listed. On a control core the entries that describe a
task, a strand or a compute core read 0 (R114). -/
def special (s : State) (h : Hart) (idx : Nat) : Option Word :=
  let t := hart s h
  let w := fun n : Nat => some (BitVec.ofNat 64 n)
  let mine := fun n : Nat => match h with
    | .ctrl _ => some 0
    | .strand _ _ => some (BitVec.ofNat 64 n)
  let k := taskGet s t.task
  let d := fun (f : TaskDesc → Nat) => match k with
    | some k => mine (f k.desc)
    | none => mine 0
  let p := match coreOf h with
    | some p => p
    | none => 0
  match idx with
  | 0x000 => mine t.task
  | 0x001 => d (·.flow)
  | 0x002 => d (·.prio)
  | 0x003 => mine (hartNo h % 64)
  | 0x004 => (match k with | some k => mine k.lcore | none => mine 0)
  | 0x005 => mine p
  | 0x006 => w s.boot.dev
  | 0x007 => w s.tsq.tick
  | 0x008 => w s.now
  | 0x009 => mine ((s.now - t.startAt) * 3 / 5)
  | 0x00A => w (applyAt s)
  | 0x00B => mine (spBase p)
  | 0x020 => some (t.fflags.zeroExtend 64)
  | _ =>
    if 0x010 ≤ idx ∧ idx ≤ 0x017 then
      d fun d =>
        let b := regionBounds (d.regions.getD ((idx - 0x10) / 2) 0)
        if idx % 2 = 0 then b.1 else b.2
    else none

/-- MFS (R102, R114). -/
def execMfs (h : Hart) (g : Guard) (rd : Reg) (idx : BitVec 12) (s : State) : Out :=
  spelled (.mfs h g rd idx) h s <| issue s h g fun s =>
    match special s h idx.toNat with
    | some v => retire s h rd v
    | none => illegal s h

/-- MTS: FFLAGS alone may be written; any other index raises ILLEGAL (R102, R114). -/
def execMts (h : Hart) (g : Guard) (rs1 : Reg) (idx : BitVec 12) (s : State) : Out :=
  spelled (.mts h g rs1 idx) h s <| issue s h g fun s =>
    if idx.toNat = 0x020 then
      let v := (reg s h rs1).truncate 5
      let t := hart s h
      nextPc (putHart s h { t with fflags := v }) h
    else illegal s h

/-- SPAWN: submit the descriptor at scratchpad offset x for the spawning task's request; a full list holds the strand
(R102, R105; 10 R386, R396). -/
def execSpawn (h : Hart) (g : Guard) (rd rs1 : Reg) (s : State) : Out :=
  spelled (.spawn h g rd rs1) h s <| issue s h g fun s => strandOnly s h fun p s =>
    let x := (reg s h rs1).toNat
    if x % 128 ≠ 0 then demandFault s h 2 x
    else if spSize ≤ x then demandFault s h 3 x
    else
      let req := match taskGet s (hart s h).task with
        | some k => k.req
        | none => 0
      let (st, s) := submit s (readBytes s (spBase p + x) 128) req true
      if st = 2 ∨ st = 3 then
        let s := if (hart s h).deadline ≠ 0 then s
          else match taskGet s (hart s h).task with
            | some k => let c := telGet s k.lcore; telPut s k.lcore { c with spawnWaits := c.spawnWaits + 1 }
            | none => s
        waitRoom s h (.listRoom x)
      else retire (accepted s h) h rd (BitVec.ofNat 64 st)

/-- TEND: the task's result word is x[31:0], and the strand waits for its commands (R96, R102; 10 R397). While it waits it stands in WAIT, and
is counted there by COR_STRANDS, with no wait deadline: the table of R96 names no state for it and R397 takes a timeout only from RUNNING
(DESIGN CHOICE, log 12). -/
def execTend (h : Hart) (g : Guard) (rs1 : Reg) (s : State) : Out :=
  spelled (.tend h g rs1) h s <| issue s h g fun s => strandOnly s h fun _ s =>
    let id := (hart s h).task
    match taskGet s id with
    | none => s
    | some t =>
      let s := taskPut s id { t with state := .ending, result := (reg s h rs1).toNat % 2 ^ 32 }
      let t := hart s h
      putHart s h { t with st := .wait, wait := .ending, deadline := 0 }

end Sys2Proof.Machine
end

