-- ==== Sys2Proof/Machine/Tick.lean ====
section
/-! DEFINITION. The phases of a tick and its apply window (02 R49-R71): what happens at each instant of a tick, in order. -/

namespace Sys2Proof.Machine

/-! ### T+0 (R49, R53, R70) -/

/-- The requests in flight of a core in the tick that closes: none in a tick in which it issued nothing, otherwise a free value of at most the 512
entries of the tracker, which COR_INFLIGHT shows all the next tick (03 R124, R135; log 57). -/
def notePeak (s : State) (p : Nat) : State :=
  let (n, s) := draw s
  let c := coreGet s p
  let i := rget s (regCorIssueCnt p)
  corePut s p { c with issued0 := i, peak := if i = c.issued0 then 0 else Config.freeNat n % 513 }

/-- The SEQ of each record of the tick that is open. -/
def openSeqs (s : State) : List Nat := s.flt.opens.map (·.2.2) ++ s.flt.ovfOpens.map (·.2)

/-- The counts that cover one tick start again, and the pairs of the tick before are closed (15 R600, R608). DESIGN CHOICE: a sender whose TSQ_CFG
differed is held to differ until the tick ends; its summary of the next tick says it again (02 R54, which gives the mismatch no end; log 51). -/
def clearTick (s : State) : State :=
  let s := { s with
    flt := { s.flt with
      seenClass := 0, opens := [], ovfOpens := [], unfinal := s.flt.unfinal ++ openSeqs s }
    emb := { s.emb with stageFullTick := false }
    sch := { s.sch with tel := [], served := s.boot.coreMap }
    hws := { s.hws with frameActive := false, frameNo := 0, mismatched := [] }
    chans := (s.chans.map fun (c : Nat × Chan) => (c.1, { c.2 with timeouts := 0, corrTick := 0 })).filter fun c => decide (c.2 ≠ chanReset) }
  let s := ((s.sch.tasks.map (·.2.lcore)).eraseDups).foldl noteDepth s
  let s := ((List.range 272).filter fun p => rget s (regCorIssueCnt p) != (coreGet s p).issued0 || (coreGet s p).peak != 0).foldl notePeak s
  let s := updMap s fun u => { u with tblRules := u.tblRules.map fun e => (e.1, { e.2 with frozenOnce := false }) }
  mgmtMap s fun m => { m with
    tickDeferred := 0, tickMig := [], tickMigBytes := 0, tickReplAdd := 0, tickReplDrop := 0, tickCommits := 0, tickCuts := 0, tickDiscards := 0
    tickRecords := 0 }

/-- The restart of the service cores that is due begins; one under way is over (17 R661; 19 R728). -/
def serviceTick (s : State) : State :=
  match s.keep.serviceRestart with
  | 0 => s
  | 1 => mgmtMap (keepMap s fun k => { k with serviceRestart := 2 }) fun m => { m with session := false, transfer := none, verified := [] }
  | _ => keepMap s fun k => { k with serviceRestart := 0 }

/-- GPIO4 toggles, TICK_OUT rises, and one IBI goes out while ALERT_N is low (R76; 19 R716; 20 R750). -/
def tickPins (s : State) : State :=
  let s := elecMap (tickOutEdge s) fun e => { e with gpio4 := !e.gpio4 }
  if s.mgmt.i3cMode && !alertN s then mgmtMap s fun m => { m with ibis := m.ibis + 1 } else s

/-- Tick n begins: the tick's counts start again, actions due at T+0 are taken, gates open, re-runs and due entries are placed (R49, R53; 08
R316; 09 R346, R359; 10 R389, R391, R405; 12 R470; 15 R584, R586, R590). -/
def beginTick (n : Nat) (s : State) : State :=
  let s := advance s (tickAt s n)
  let s := tsqMap (clearTick s) fun t => { t with
    tick := n, tickStart := tickAt s n, phase := .prime, stage := 0, holdTick := t.take.isNone
    heldFrom := if t.holdTick && t.take.isNone then t.heldFrom else tickAt s n, take := none, todo := [], copies := [], skip := []
    vetoSent := [], vetoAcked := [], vetoed := [], summaries := t.summaries.filter fun x => decide (n ≤ x.tick), rebase := none }
  let s := tickPins (serviceTick (restartCtrls s))
  let s := (List.range 12).foldl actThermal s
  let s := openGates (placeReruns (takeOver s))
  let s := delayedAtStart s
  askGaps (serveDeferred s)

/-- Device time jumps from the end of the tick to t(m): the last measurement moves with it (R71). -/
def jumpTo (s : State) (m : Nat) : State :=
  let j := tickAt s m - tickAt s (s.tsq.tick + 1)
  timMap s fun t => { t with lastMeas := t.lastMeas.map fun x => (x.1, x.2 + j), lastMeasAt := t.lastMeasAt + j }

/-- TICK_START: the tick that follows begins, or the one a REBASE steps to (R47, R49, R71). -/
def execTickStart (s : State) : Out :=
  if !inApply s ∨ s.tsq.stage ≠ 3 then .next s
  else match s.tsq.rebase with
    | some m => .next (beginTick m (jumpTo s m))
    | none => .next (beginTick (s.tsq.tick + 1) s)

/-! ### The first tick (R67; 16 R628; 17 R654) -/

/-- The SVN of a kind in a slot whose four objects have been read and pass R623, but for the signature, whose verdict the boot's commands carried (17 R654). -/
def slotSvn (s : State) (slot area : Nat) : Option Nat :=
  let ok := (List.range 4).all fun a => match pfind s.boot.flash (4 * slot + a) with
    | some o => objectAccepted s ([1, 2, 3, 4].getD a 0) o
    | none => false
  if ok then (pfind s.boot.flash (4 * slot + area)).map fun o => fld o 0xC 4 else none

/-- At the first STAGE RUNNING each floor rises to the smaller SVN of the two slots (17 R654). -/
def raiseFloors (s : State) : State :=
  (List.range 4).foldl (fun s area =>
    let kind := area + 1
    let low := match slotSvn s 0 area, slotSvn s 1 area with
      | some a, some b => min a b
      | some a, none => a
      | none, some b => b
      | none, none => 0
    keepMap s fun k => { k with svnFloor := mset (fun _ => 0) k.svnFloor kind (max (svnFloor s kind) (min 127 low)) }) s

/-- The first tick that may start: its start lies a full period after the tick sequencer's READY and the time unit's LOCKED or FREE (R67). -/
def firstTick (s : State) : Option Nat :=
  match s.tsq.readyAt with
  | none => none
  | some r =>
    if s.tsq.running ∨ stage s ≠ 4 ∨ rdyState s 0x31 ≠ .ready ∨ period s = 0 ∨ !(s.tim.state == .locked || (s.tim.state == .free && freeOk s)) then none
    else some ((max r s.tim.usableAt + period s - phaseNs s + period s - 1) / period s)

/-- FIRST_TICK_START: ticks start, under an empty sealed plan that the tick sequencer writes itself (R67; 16 R628, R647). DESIGN CHOICE: PLAN reads EMPTY
then, whatever NEXT holds already; the bytes of NEXT stay (R80). -/
def execFirstTickStart (s : State) : Out :=
  match firstTick s with
  | none => .next s
  | some n =>
    let plan := emptyPlan s n (n - 1)
    let s := raiseFloors (setStage (rset s regBootTick0 n) 5)
    let s := tsqMap s fun t => { t with running := true, planActive := plan, take := some plan, plan := .empty }
    .next (beginTick n s)

/-- RUN_BEGIN: Prime ends 2 µs after T+0 (R49). -/
def execRunBegin (s : State) : Out :=
  if !s.tsq.running ∨ s.tsq.phase ≠ .prime then .next s
  else .next (tsqMap (advance s (s.tsq.tickStart + 2000)) fun t => { t with phase := .run })

/-! ### The settle point (R51, R63) -/

/-- COR_STRANDS is sampled (03 R134). -/
def sampleStrands (s : State) : State :=
  (List.range 272).foldl (fun s p =>
    let hs := (List.range 64).map fun j => (hartAt s (64 * p + j)).st
    let n := fun (f : StrandState → Bool) => (hs.filter f).length
    rset s (regCorStrands p) (n (· != .idle) * 2 ^ 16 + n (· == .spin) * 2 ^ 8 + n (· == .wait))) s

/-- SETTLE_POINT: no task starts from here on; releases not entered are dropped, vetoes and heartbeats go out, queued cells are counted
(R51, R63; 03 R134; 10 R389; 13 R500; 15 R577). -/
def execSettlePoint (s : State) : Out :=
  if !s.tsq.running ∨ s.tsq.phase ≠ .run then .next s
  else
    let s := tsqMap (advance s (settleAt s)) fun t => { t with phase := .settle }
    .next (sampleStrands (countBacklog (sendHeartbeats (sendVetoes (dropReleases s)))))

/-! ### The apply point (R52, R57, R62, R65) -/

/-- Tasks still running are cut off LATE, and every outcome is decided (R52; 10 R399). -/
def cutOff (s : State) : State :=
  grantAll ((s.sch.tasks.filter fun e => e.2.state == .running || e.2.state == .ending).foldl (fun s e => endTask s e.1 2 0 0 0) s)

/-- NEXT is checked: it passes, or the next tick runs under a hold plan (R57, R62, R65; 08 R302). -/
def checkPlan (s : State) : State :=
  let p := s.tsq.planNext
  if planSealed p && headerOk s p s.tsq.tick then tsqMap s fun t => { t with take := some p }
  else
    let s := if planSealed p then event s regTsqEvents 5 else s
    let s := bump1 (event s regTsqEvents 0) regTsqPlanMissCnt
    let s := if planSealed p then (planItems p).foldl (fun s k => markSwitching s k.2 false) s else s
    let s := tsqMap s fun t => { t with take := none, plan := .held, holdTicks := min 65535 (t.holdTicks + 1) }
    report (keepMap s fun k => { k with named := [] }) 0x30 0 (unitCode s 10 1) s.tsq.holdTicks

/-- The RELEASE items of the plan for the next tick are read; a descriptor released to a core that is GREY is skipped (01 R40; 10 R388,
R389). -/
def readReleases (s : State) : State :=
  match s.tsq.take with
  | none => s
  | some p =>
    let s := ((planItems p).filter fun k => itemKind k.2 == 1).foldl (fun s k =>
      let grey : Option Nat := if bit (fld k.2 1 1) 0 then (physOf s (fld k.2 2 2)).bind fun q => if greyAt s (idxCore q) then some q else none else none
      if !itemOk s k.2 then skipItem s k
      else match grey with
        | some q => skipGrey s k (unitCode s 2 q)
        | none => { s with sch := { s.sch with releases := s.sch.releases ++ releasesOf k.1 k.2 } }) s
    keepReleases (enterReleases true s.sch.releases s)

/-- The items of the window of a kind, in order; none under a hold plan (R59, R65). -/
def stageItems (s : State) (p : Nat → Bool) : List (Nat × List Byte) :=
  if s.tsq.holdTick then [] else (windowItems s).filter fun k => p (itemKind k.2)

/-- The temperatures of the stacks are read; a reading that fails counts as 103 °C (12 R470). -/
def readStacks (temps : List (Nat × Nat)) (s : State) : State :=
  (List.range 12).foldl (fun s k => readThermal s k ((pfind temps k).getD 103)) s

/-- APPLY_POINT: the heartbeats, whose fence is the outer level (15 R575), the cut-off, the check of NEXT, the commit stage as far as it reaches, the reading of the releases, and what is sampled at
the apply point. `temps` are the stacks' temperatures, `reach` the rows that the commit stage completes by the bulk cut-off. -/
def execApplyPoint (temps : List (Nat × Nat)) (reach : Nat) (s : State) : Out :=
  if !s.tsq.running ∨ s.tsq.phase ≠ .settle then .next s
  else
    let s := tsqMap (advance s (applyAt s)) fun t => { t with phase := .apply, stage := 1 }
    let s := greyVetoes (checkPlan (cutOff (countHeartbeats s)))
    let s := demandSnapshots (snapshot (readStacks temps (freeOffers ((List.range 192).foldl flushWcb s))))
    let (s, left) := commitStage reach (stageItems s fun k => k == 3 || k == 4) s
    let s := tsqMap s fun t => { t with todo := left, copies := stageItems s (· == 5) }
    let s := readReleases (reloadsOn s)
    let s := retryRestores (sampleSensors s)
    .next (diesRecover (releasedRecover s))

/-! ### The copy stage (R59) -/

/-- The MIGRATE items in order: those that have not completed. -/
def copyStage : List (Nat × List Byte) → Nat → State → State × List (Nat × List Byte)
  | [], _, s => (s, [])
  | k :: r, reach, s =>
    let (reach, ended, s) := migrateItem k reach s
    let (s, left) := copyStage r reach s
    (s, if ended then left else k :: left)

/-- COPY_STAGE: the MIGRATE items run once every commit-stage item has completed or been deferred. `reach` is the rows that the stage
completes by the bulk cut-off. -/
def execCopyStage (reach : Nat) (s : State) : Out :=
  if !inApply s ∨ s.tsq.stage ≠ 1 then .next s
  else
    let (s, left) := copyStage s.tsq.copies reach s
    .next (tsqMap s fun t => { t with stage := 2, copies := left })

/-! ### The bulk cut-off and the switch stage (R59-R61, R65) -/

/-- The items deferred into the next window: the rest of the commit stage, then each MIGRATE with its DIR_SWITCH items, whose REF names the
MIGRATE's new place (R60). -/
def deferral (s : State) : List (List Byte) :=
  let first := s.tsq.todo.map (·.2)
  s.tsq.copies.foldl (fun acc k =>
    let at_ := carriedFrom + acc.length
    acc ++ [k.2] ++ (switchesOf s k.1).map fun d => d.2.take 4 ++ natLe 4 at_ ++ d.2.drop 8) first

/-- The items of the bulk stages that have not completed are deferred whole; the time that the stages took is free, up to the length of the two (R59, R60,
R83, R84). -/
def countDeferred (s : State) : State :=
  let n := if s.tsq.holdTick then 0 else s.tsq.todo.length + s.tsq.copies.length
  let s := if n = 0 then s else event (bump s regTsqDeferCnt n) regTsqEvents 1
  let s := mgmtMap s fun m => { m with tickDeferred := m.tickDeferred + n }
  let (d, s) := draw s
  rset s regTsqApplyLast (Config.freeNat d % (min (2 ^ 32) (cutAt s - applyAt s + 1)))

/-- The source time that a device time stands for, from the last valid measurement and the rate in force: device time runs by 1 + rate × 10⁻⁹ (R71). -/
def sourceAt (s : State) (src dev t : Nat) : Nat := src + (((t - dev : Nat) : Int) * 1000000000 / (1000000000 + s.tim.rate)).toNat

/-- REBASE: the time unit estimates the source's time at the end of the tick and steps to the tick that starts nearest to it, where that lies
at least 1 ms on (R70, R71). DESIGN CHOICE: of two ticks equally near it is the later; the spec does not say. -/
def rebaseItem (s : State) : State :=
  match s.tim.lastMeas with
  | none => s
  | some (src, dev) =>
    let end_ := tickAt s (s.tsq.tick + 1)
    let est := sourceAt s src dev end_
    let m := (est - phaseNs s + period s / 2) / max 1 (period s)
    if tickAt s m < end_ + 1000000 then s
    else
      let s := event (tsqMap s fun t => { t with rebase := some m }) regTimEvents 5
      report s 0x42 0 (unitCode s 10 0) (m - (s.tsq.tick + 1))

/-- Carry out one switch-stage item. -/
def switchItem (s : State) (k : Nat × List Byte) : State :=
  match itemKind k.2 with
  | 6 => dirSwitchItem s k
  | 7 => versionItem s k
  | 8 => fenceItem s k
  | 9 => if itemOk s k.2 then fwSwitch s k.2 else skipItem s k
  | 10 => if itemOk s k.2 then rebaseItem s else skipItem s k
  | _ => skipItem s k

/-- The switch-stage items in the order of R59: DIR_SWITCH, VERSION, FENCE, FW_SWITCH and REBASE, then those of an unknown kind, which are
skipped (R62). The FENCE items that the tick sequencer adds run under a hold plan too (R65; 15 R578). -/
def switchItems (s : State) : State :=
  let items := windowItems s
  let run := fun (p : Nat → Bool) (s : State) => if s.tsq.holdTick then s else (items.filter fun k => p (itemKind k.2)).foldl switchItem s
  let s := run (· == 7) (run (· == 6) s)
  let fs := s.tsq.fences
  let s := fs.foldl runFence (run (· == 8) (tsqMap s fun t => { t with fences := [] }))
  run (fun k => k == 0 || decide (10 < k)) (run (· == 10) (run (· == 9) s))

/-- The GRANT item of the next plan, and the hand-over of NEXT to ACTIVE; the window of a held tick carries out no GRANT (R57, R59, R65; 15 R591; 17
R662). DESIGN CHOICE: NEXT holds zeros after the hand-over, and what was written into it after the apply point is lost; the spec says nothing of it. -/
def handOver (s : State) : State :=
  match s.tsq.take with
  | none => s
  | some p =>
    let s := if s.tsq.holdTick then s else ((planItems p).filter fun k => itemKind k.2 == 2).foldl (installGrants · (s.tsq.tick + 1)) s
    let e := rdyGet s 0
    let s := if e.reason = 0x32 ∨ e.released then setRecovered s 0 else s
    let named := ((planItems p).filter fun k => itemKind k.2 == 9).map fun k => fld k.2 1 1
    let s := keepMap s fun k => { k with named := named }
    tsqMap s fun t => { t with planActive := p, planNext := [], plan := .empty, holdTicks := 0 }

/-- Groups of local windows fenced since the last switch stage are recorded out of every pool, and their evacuation begins; data of the interleaved
region cannot be moved (09 R368, R381; 12 R467). -/
def excludeGroups (s : State) : State :=
  s.chans.foldl (fun s c =>
    let ch := chanGet s c.1
    let groups := ch.fenced.filter fun g => decide (2 ^ 31 - localBytes s ≤ g * 2 ^ 20)
    if groups.all ch.excluded.contains then s else event (chanPut s c.1 { ch with excluded := groups }) regPlcEvents 0) s

/-- READY ports carry granted and spill cells from this switch stage on (13 R519). -/
def openPorts (s : State) : State :=
  (List.range 16).foldl (fun s p => if rdyState s (idxPort p) == .ready then portPut s p { portGet s p with dataOk := true } else s) s

/-- The keeper rewrites the core map record after a switch stage that has changed the map (16 R631). DESIGN CHOICE: while the keeper restarts it writes
none, and the first switch stage after the restart writes the map of that time; a reset in between finds the old record (01 R42 does not say). -/
def writeCoreMap (s : State) : State :=
  if s.boot.coreRecordDirty && !s.keep.restarting then
    bootMap s fun b => { b with coreRecord := coreRecordBytes s, coreRecordDirty := false }
  else s

/-- The switch stage (R59, R61, R65): the items, what takes effect with them, the hand-over, and the records of the tick. -/
def switchStage (s : State) : State :=
  let s := switchItems (decayForwards s)
  let s := pipelineSwitch (ruleSwitch (placementSwitch (installBcasts s)))
  let s := storeDir (dropCopies (rehome s))
  let hold := s.tsq.holdTick
  let s := viewExit (greyExit (barrierSwitch (handOver s)))
  let s := if hold then s else vetoRecover s
  let s := writeCoreMap (openPorts (excludeGroups s))
  finalRecords (writeDevRing (writeCoreRing s))

/-- BULK_CUT_OFF: 4 µs before the end of the tick the bulk stages end, what has not completed is deferred, and the switch stage runs
(R59-R61). -/
def execBulkCutOff (s : State) : Out :=
  if !inApply s ∨ s.tsq.stage = 3 then .next s
  else
    let s := tsqMap (advance s (cutAt s)) fun t => { t with stage := 3, copies := t.copies.filter fun k => !arrivalsDone s k.2 }
    let s := countDeferred s
    let next := if s.tsq.holdTick then s.tsq.deferredItems else deferral s
    .next (closeAccepted (tsqMap (switchStage (broadcast s)) fun t => { t with deferredItems := next, todo := [], copies := [] }) next)

end Sys2Proof.Machine
end

