-- ==== Sys2Proof/Machine/Dispatch.lean ====
section
/-! DEFINITION. The meaning of each command: one arm per constructor, each a direct call of the command's meaning. -/

namespace Sys2Proof.Machine

/-- The effect of a command on everything but the queue. -/
def exec (i : Instr) (s : State) : Host.Outcome State Fault Refusal :=
  match i with
  | .tickStart => Sys2Proof.Machine.execTickStart s
  | .firstTickStart => Sys2Proof.Machine.execFirstTickStart s
  | .runBegin => Sys2Proof.Machine.execRunBegin s
  | .settlePoint => Sys2Proof.Machine.execSettlePoint s
  | .applyPoint temps reach => Sys2Proof.Machine.execApplyPoint temps reach s
  | .copyStage reach => Sys2Proof.Machine.execCopyStage reach s
  | .bulkCutOff => Sys2Proof.Machine.execBulkCutOff s
  | .releaseLateEntry => Sys2Proof.Machine.execReleaseLateEntry s
  | .summaryPlanRx src tag body => Sys2Proof.Machine.execSummaryPlanRx src tag body s
  | .summaryVetoRx src tag body => Sys2Proof.Machine.execSummaryVetoRx src tag body s
  | .summaryOfferRx src tag body => Sys2Proof.Machine.execSummaryOfferRx src tag body s
  | .summaryAcceptRx src tag body => Sys2Proof.Machine.execSummaryAcceptRx src tag body s
  | .ptpMessageRx port body => Sys2Proof.Machine.execPtpMessageRx port body s
  | .ptpSyncTx port => Sys2Proof.Machine.execPtpSyncTx port s
  | .ptpPdelayReqTx port => Sys2Proof.Machine.execPtpPdelayReqTx port s
  | .ptpAnnounceTx port => Sys2Proof.Machine.execPtpAnnounceTx port s
  | .announceReceiptTimeout port => Sys2Proof.Machine.execAnnounceReceiptTimeout port s
  | .syncLoss => Sys2Proof.Machine.execSyncLoss s
  | .holdoverLimit => Sys2Proof.Machine.execHoldoverLimit s
  | .ptmRequest => Sys2Proof.Machine.execPtmRequest s
  | .ptmResponse t1 t2 t3 t4 => Sys2Proof.Machine.execPtmResponse t1 t2 t3 t4 s
  | .tickInWord word => Sys2Proof.Machine.execTickInWord word s
  | .tickInEdge => Sys2Proof.Machine.execTickInEdge s
  | .tickOutWord => Sys2Proof.Machine.execTickOutWord s
  | .taskDispatch lcore => Sys2Proof.Machine.execTaskDispatch lcore s
  | .strandWaitEnd h => Sys2Proof.Machine.execStrandWaitEnd h s
  | .strandReleaseSeen h => Sys2Proof.Machine.execStrandReleaseSeen h s
  | .strandTimeout h => Sys2Proof.Machine.execStrandTimeout h s
  | .illegal h g => Sys2Proof.Machine.execIllegal h g s
  | .add h g rd rs1 rs2 => Sys2Proof.Machine.execAdd h g rd rs1 rs2 s
  | .sub h g rd rs1 rs2 => Sys2Proof.Machine.execSub h g rd rs1 rs2 s
  | .mul h g rd rs1 rs2 => Sys2Proof.Machine.execMul h g rd rs1 rs2 s
  | .mulhu h g rd rs1 rs2 => Sys2Proof.Machine.execMulhu h g rd rs1 rs2 s
  | .mulhs h g rd rs1 rs2 => Sys2Proof.Machine.execMulhs h g rd rs1 rs2 s
  | .divu h g rd rs1 rs2 => Sys2Proof.Machine.execDivu h g rd rs1 rs2 s
  | .divs h g rd rs1 rs2 => Sys2Proof.Machine.execDivs h g rd rs1 rs2 s
  | .remu h g rd rs1 rs2 => Sys2Proof.Machine.execRemu h g rd rs1 rs2 s
  | .rems h g rd rs1 rs2 => Sys2Proof.Machine.execRems h g rd rs1 rs2 s
  | .and h g rd rs1 rs2 => Sys2Proof.Machine.execAnd h g rd rs1 rs2 s
  | .or h g rd rs1 rs2 => Sys2Proof.Machine.execOr h g rd rs1 rs2 s
  | .xor h g rd rs1 rs2 => Sys2Proof.Machine.execXor h g rd rs1 rs2 s
  | .andn h g rd rs1 rs2 => Sys2Proof.Machine.execAndn h g rd rs1 rs2 s
  | .shl h g rd rs1 rs2 => Sys2Proof.Machine.execShl h g rd rs1 rs2 s
  | .shru h g rd rs1 rs2 => Sys2Proof.Machine.execShru h g rd rs1 rs2 s
  | .shrs h g rd rs1 rs2 => Sys2Proof.Machine.execShrs h g rd rs1 rs2 s
  | .mins h g rd rs1 rs2 => Sys2Proof.Machine.execMins h g rd rs1 rs2 s
  | .maxs h g rd rs1 rs2 => Sys2Proof.Machine.execMaxs h g rd rs1 rs2 s
  | .minu h g rd rs1 rs2 => Sys2Proof.Machine.execMinu h g rd rs1 rs2 s
  | .maxu h g rd rs1 rs2 => Sys2Proof.Machine.execMaxu h g rd rs1 rs2 s
  | .sel h g rd rs1 rs2 ps => Sys2Proof.Machine.execSel h g rd rs1 rs2 ps s
  | .madd h g rd rs1 rs2 rs3 => Sys2Proof.Machine.execMadd h g rd rs1 rs2 rs3 s
  | .popc h g rd rs1 => Sys2Proof.Machine.execPopc h g rd rs1 s
  | .clz h g rd rs1 => Sys2Proof.Machine.execClz h g rd rs1 s
  | .ctz h g rd rs1 => Sys2Proof.Machine.execCtz h g rd rs1 s
  | .addi h g rd rs1 imm => Sys2Proof.Machine.execAddi h g rd rs1 imm s
  | .muli h g rd rs1 imm => Sys2Proof.Machine.execMuli h g rd rs1 imm s
  | .andi h g rd rs1 imm => Sys2Proof.Machine.execAndi h g rd rs1 imm s
  | .ori h g rd rs1 imm => Sys2Proof.Machine.execOri h g rd rs1 imm s
  | .xori h g rd rs1 imm => Sys2Proof.Machine.execXori h g rd rs1 imm s
  | .shli h g rd rs1 imm => Sys2Proof.Machine.execShli h g rd rs1 imm s
  | .shrui h g rd rs1 imm => Sys2Proof.Machine.execShrui h g rd rs1 imm s
  | .shrsi h g rd rs1 imm => Sys2Proof.Machine.execShrsi h g rd rs1 imm s
  | .fadd h g rd rs1 rs2 => Sys2Proof.Machine.execFadd h g rd rs1 rs2 s
  | .fsub h g rd rs1 rs2 => Sys2Proof.Machine.execFsub h g rd rs1 rs2 s
  | .fmul h g rd rs1 rs2 => Sys2Proof.Machine.execFmul h g rd rs1 rs2 s
  | .ffma h g rd rs1 rs2 rs3 => Sys2Proof.Machine.execFfma h g rd rs1 rs2 rs3 s
  | .fmin h g rd rs1 rs2 => Sys2Proof.Machine.execFmin h g rd rs1 rs2 s
  | .fmax h g rd rs1 rs2 => Sys2Proof.Machine.execFmax h g rd rs1 rs2 s
  | .fcvtsi h g rd rs1 => Sys2Proof.Machine.execFcvtsi h g rd rs1 s
  | .fcvtis h g rd rs1 => Sys2Proof.Machine.execFcvtis h g rd rs1 s
  | .cmpeq h g pd rs1 y => Sys2Proof.Machine.execCmpeq h g pd rs1 y s
  | .cmpne h g pd rs1 y => Sys2Proof.Machine.execCmpne h g pd rs1 y s
  | .cmplts h g pd rs1 y => Sys2Proof.Machine.execCmplts h g pd rs1 y s
  | .cmples h g pd rs1 y => Sys2Proof.Machine.execCmples h g pd rs1 y s
  | .cmpltu h g pd rs1 y => Sys2Proof.Machine.execCmpltu h g pd rs1 y s
  | .cmpleu h g pd rs1 y => Sys2Proof.Machine.execCmpleu h g pd rs1 y s
  | .fcmpeq h g pd rs1 y => Sys2Proof.Machine.execFcmpeq h g pd rs1 y s
  | .fcmplt h g pd rs1 y => Sys2Proof.Machine.execFcmplt h g pd rs1 y s
  | .fcmple h g pd rs1 y => Sys2Proof.Machine.execFcmple h g pd rs1 y s
  | .fcmpun h g pd rs1 y => Sys2Proof.Machine.execFcmpun h g pd rs1 y s
  | .pand h g pd pa pb => Sys2Proof.Machine.execPand h g pd pa pb s
  | .por h g pd pa pb => Sys2Proof.Machine.execPor h g pd pa pb s
  | .pxor h g pd pa pb => Sys2Proof.Machine.execPxor h g pd pa pb s
  | .pandn h g pd pa pb => Sys2Proof.Machine.execPandn h g pd pa pb s
  | .ld8u h g rd rs1 space imm => Sys2Proof.Machine.execLd8u h g rd rs1 space imm s
  | .ld16u h g rd rs1 space imm => Sys2Proof.Machine.execLd16u h g rd rs1 space imm s
  | .ld32u h g rd rs1 space imm => Sys2Proof.Machine.execLd32u h g rd rs1 space imm s
  | .ld64 h g rd rs1 space imm => Sys2Proof.Machine.execLd64 h g rd rs1 space imm s
  | .ld8s h g rd rs1 space imm => Sys2Proof.Machine.execLd8s h g rd rs1 space imm s
  | .ld16s h g rd rs1 space imm => Sys2Proof.Machine.execLd16s h g rd rs1 space imm s
  | .ld32s h g rd rs1 space imm => Sys2Proof.Machine.execLd32s h g rd rs1 space imm s
  | .st8 h g rd rs1 space imm => Sys2Proof.Machine.execSt8 h g rd rs1 space imm s
  | .st16 h g rd rs1 space imm => Sys2Proof.Machine.execSt16 h g rd rs1 space imm s
  | .st32 h g rd rs1 space imm => Sys2Proof.Machine.execSt32 h g rd rs1 space imm s
  | .st64 h g rd rs1 space imm => Sys2Proof.Machine.execSt64 h g rd rs1 space imm s
  | .aadd32 h g rd rs1 rs2 => Sys2Proof.Machine.execAadd32 h g rd rs1 rs2 s
  | .aadd64 h g rd rs1 rs2 => Sys2Proof.Machine.execAadd64 h g rd rs1 rs2 s
  | .aminu64 h g rd rs1 rs2 => Sys2Proof.Machine.execAminu64 h g rd rs1 rs2 s
  | .amaxu64 h g rd rs1 rs2 => Sys2Proof.Machine.execAmaxu64 h g rd rs1 rs2 s
  | .aor64 h g rd rs1 rs2 => Sys2Proof.Machine.execAor64 h g rd rs1 rs2 s
  | .aand64 h g rd rs1 rs2 => Sys2Proof.Machine.execAand64 h g rd rs1 rs2 s
  | .aswap64 h g rd rs1 rs2 => Sys2Proof.Machine.execAswap64 h g rd rs1 rs2 s
  | .acas64 h g rd rs1 rs2 rs3 => Sys2Proof.Machine.execAcas64 h g rd rs1 rs2 rs3 s
  | .afadd32 h g rd rs1 rs2 => Sys2Proof.Machine.execAfadd32 h g rd rs1 rs2 s
  | .br h g imm => Sys2Proof.Machine.execBr h g imm s
  | .bri h g rs1 => Sys2Proof.Machine.execBri h g rs1 s
  | .call h g rd imm => Sys2Proof.Machine.execCall h g rd imm s
  | .calli h g rd rs1 => Sys2Proof.Machine.execCalli h g rd rs1 s
  | .li h g rd imm => Sys2Proof.Machine.execLi h g rd imm s
  | .lih h g rd imm => Sys2Proof.Machine.execLih h g rd imm s
  | .qgather h g rd rs1 rs2 => Sys2Proof.Machine.execQgather h g rd rs1 rs2 s
  | .qlookup h g rd rs1 rs2 => Sys2Proof.Machine.execQlookup h g rd rs1 rs2 s
  | .qchain h g rd rs1 rs2 => Sys2Proof.Machine.execQchain h g rd rs1 rs2 s
  | .qmat h g rd rs1 rs2 => Sys2Proof.Machine.execQmat h g rd rs1 rs2 s
  | .qsend h g rd rs1 rs2 => Sys2Proof.Machine.execQsend h g rd rs1 rs2 s
  | .qwait h g rd rs1 => Sys2Proof.Machine.execQwait h g rd rs1 s
  | .qpoll h g rd rs1 => Sys2Proof.Machine.execQpoll h g rd rs1 s
  | .qdrainall h g rd => Sys2Proof.Machine.execQdrainall h g rd s
  | .harrive h g rd rs1 rs2 => Sys2Proof.Machine.execHarrive h g rd rs1 rs2 s
  | .hwait h g rd rs1 rs2 => Sys2Proof.Machine.execHwait h g rd rs1 rs2 s
  | .hrelone h g rd rs1 rs2 => Sys2Proof.Machine.execHrelone h g rd rs1 rs2 s
  | .hrelall h g rd rs1 rs2 => Sys2Proof.Machine.execHrelall h g rd rs1 rs2 s
  | .hadd h g rd rs1 rs2 => Sys2Proof.Machine.execHadd h g rd rs1 rs2 s
  | .htest h g rd rs1 rs2 => Sys2Proof.Machine.execHtest h g rd rs1 rs2 s
  | .karrive h g rd rs1 rs2 => Sys2Proof.Machine.execKarrive h g rd rs1 rs2 s
  | .kwait h g rd rs1 rs2 => Sys2Proof.Machine.execKwait h g rd rs1 rs2 s
  | .nop h g => Sys2Proof.Machine.execNop h g s
  | .mfs h g rd idx => Sys2Proof.Machine.execMfs h g rd idx s
  | .mts h g rs1 idx => Sys2Proof.Machine.execMts h g rs1 idx s
  | .mfence h g => Sys2Proof.Machine.execMfence h g s
  | .spawn h g rd rs1 => Sys2Proof.Machine.execSpawn h g rd rs1 s
  | .tend h g rs1 => Sys2Proof.Machine.execTend h g rs1 s
  | .taskCommitRequest h => Sys2Proof.Machine.execTaskCommitRequest h s
  | .commitArbiterGrant die => Sys2Proof.Machine.execCommitArbiterGrant die s
  | .compHitchSignal => Sys2Proof.Machine.execCompHitchSignal s
  | .schAbort k task => Sys2Proof.Machine.execSchAbort k task s
  | .abortArrival task => Sys2Proof.Machine.execAbortArrival task s
  | .delayEntryDue task => Sys2Proof.Machine.execDelayEntryDue task s
  | .delayEntryRoom task => Sys2Proof.Machine.execDelayEntryRoom task s
  | .taskMessageRx src tag body => Sys2Proof.Machine.execTaskMessageRx src tag body s
  | .fragmentTaskSubmit core id => Sys2Proof.Machine.execFragmentTaskSubmit core id s
  | .gatherStart core => Sys2Proof.Machine.execGatherStart core s
  | .gatherComplete core id => Sys2Proof.Machine.execGatherComplete core id s
  | .lookupStart core => Sys2Proof.Machine.execLookupStart core s
  | .lookupComplete core id => Sys2Proof.Machine.execLookupComplete core id s
  | .sendStart core => Sys2Proof.Machine.execSendStart core s
  | .runaheadDiscard core => Sys2Proof.Machine.execRunaheadDiscard core s
  | .remoteGatherTimeout tag => Sys2Proof.Machine.execRemoteGatherTimeout tag s
  | .chainStart core => Sys2Proof.Machine.execChainStart core s
  | .chainComplete core => Sys2Proof.Machine.execChainComplete core s
  | .matrixStart core => Sys2Proof.Machine.execMatrixStart core s
  | .drainComplete core => Sys2Proof.Machine.execDrainComplete core s
  | .matrixComplete core id => Sys2Proof.Machine.execMatrixComplete core id s
  | .hbmRead addr len wide err task => Sys2Proof.Machine.execHbmRead addr len wide err task s
  | .hbmWrite addr data task => Sys2Proof.Machine.execHbmWrite addr data task s
  | .wcbAgeWriteback chan unit => Sys2Proof.Machine.execWcbAgeWriteback chan unit s
  | .correctedWriteback chan off => Sys2Proof.Machine.execCorrectedWriteback chan off s
  | .memRequestTimeout chan off task => Sys2Proof.Machine.execMemRequestTimeout chan off task s
  | .patrolScrubRead chan err => Sys2Proof.Machine.execPatrolScrubRead chan err s
  | .thermalReadingBringup stack temp => Sys2Proof.Machine.execThermalReadingBringup stack temp s
  | .channelRetrainDone chan kept => Sys2Proof.Machine.execChannelRetrainDone chan kept s
  | .start chan value => Sys2Proof.Machine.execStart chan value s
  | .abort chan => Sys2Proof.Machine.execAbort chan s
  | .clearLost chan => Sys2Proof.Machine.execClearLost chan s
  | .memTestComplete chan failing => Sys2Proof.Machine.execMemTestComplete chan failing s
  | .slotFrameStart => Sys2Proof.Machine.execSlotFrameStart s
  | .markerRx port body => Sys2Proof.Machine.execMarkerRx port body s
  | .markerWindowClose port => Sys2Proof.Machine.execMarkerWindowClose port s
  | .cellRx port raw corr fec => Sys2Proof.Machine.execCellRx port raw corr fec s
  | .portTrained port => Sys2Proof.Machine.execPortTrained port s
  | .trainingTimeout port => Sys2Proof.Machine.execTrainingTimeout port s
  | .gatherReq src tag body => Sys2Proof.Machine.execGatherReq src tag body s
  | .gatherRsp src tag body => Sys2Proof.Machine.execGatherRsp src tag body s
  | .scatterAdd src tag body => Sys2Proof.Machine.execScatterAdd src tag body s
  | .hitchOp src tag body => Sys2Proof.Machine.execHitchOp src tag body s
  | .hitchRsp src tag body => Sys2Proof.Machine.execHitchRsp src tag body s
  | .hitchRspTimeout tag => Sys2Proof.Machine.execHitchRspTimeout tag s
  | .knotArrive src tag body => Sys2Proof.Machine.execKnotArrive src tag body s
  | .knotRelease src tag body => Sys2Proof.Machine.execKnotRelease src tag body s
  | .knotBreak src tag body => Sys2Proof.Machine.execKnotBreak src tag body s
  | .knotNodeArrival barrier node => Sys2Proof.Machine.execKnotNodeArrival barrier node s
  | .knotReleaseArrival barrier node => Sys2Proof.Machine.execKnotReleaseArrival barrier node s
  | .relocBcast src tag body => Sys2Proof.Machine.execRelocBcast src tag body s
  | .relocQuery src tag body => Sys2Proof.Machine.execRelocQuery src tag body s
  | .rowStream src tag body => Sys2Proof.Machine.execRowStream src tag body s
  | .rowStreamAck src tag body => Sys2Proof.Machine.execRowStreamAck src tag body s
  | .returnedRelease hitch => Sys2Proof.Machine.execReturnedRelease hitch s
  | .ticketWithdraw => Sys2Proof.Machine.execTicketWithdraw s
  | .hitClear k hitch => Sys2Proof.Machine.execHitClear k hitch s
  | .barrierDefine k barrier entry => Sys2Proof.Machine.execBarrierDefine k barrier entry s
  | .layerPush => Sys2Proof.Machine.execLayerPush s
  | .ringDrain => Sys2Proof.Machine.execRingDrain s
  | .gradientLayer src tag body => Sys2Proof.Machine.execGradientLayer src tag body s
  | .gradientRows src tag body => Sys2Proof.Machine.execGradientRows src tag body s
  | .gradientDone src tag body => Sys2Proof.Machine.execGradientDone src tag body s
  | .layerStepTimeout layer => Sys2Proof.Machine.execLayerStepTimeout layer s
  | .rowTickTimeout table => Sys2Proof.Machine.execRowTickTimeout table s
  | .stagingRetry => Sys2Proof.Machine.execStagingRetry s
  | .sliceScatter layer => Sys2Proof.Machine.execSliceScatter layer s
  | .rootRefreshDone layer => Sys2Proof.Machine.execRootRefreshDone layer s
  | .sliceData src tag body => Sys2Proof.Machine.execSliceData src tag body s
  | .sliceEnd src tag body => Sys2Proof.Machine.execSliceEnd src tag body s
  | .slicePull src tag body => Sys2Proof.Machine.execSlicePull src tag body s
  | .coreCheck core check => Sys2Proof.Machine.execCoreCheck core check s
  | .coreHeartbeat core => Sys2Proof.Machine.execCoreHeartbeat core s
  | .ctrlCoreFault k cause => Sys2Proof.Machine.execCtrlCoreFault k cause s
  | .dieTimeout die => Sys2Proof.Machine.execDieTimeout die s
  | .dieRestart die => Sys2Proof.Machine.execDieRestart die s
  | .controlStall => Sys2Proof.Machine.execControlStall s
  | .deviceWatchdog => Sys2Proof.Machine.execDeviceWatchdog s
  | .keeperWatchdog => Sys2Proof.Machine.execKeeperWatchdog s
  | .faultReport kind cls action subject reporter ack detail => Sys2Proof.Machine.execFaultReport kind cls action subject reporter ack detail s
  | .unitRecoveryDone unit => Sys2Proof.Machine.execUnitRecoveryDone unit s
  | .fltAck seq => Sys2Proof.Machine.execFltAck seq s
  | .grey source unit => Sys2Proof.Machine.execGrey source unit s
  | .releaseForce source unit => Sys2Proof.Machine.execReleaseForce source unit s
  | .confirm source unit => Sys2Proof.Machine.execConfirm source unit s
  | .requestNotReady req => Sys2Proof.Machine.execRequestNotReady req s
  | .unitBringupReport unit state => Sys2Proof.Machine.execUnitBringupReport unit state s
  | .coreMapAssign die => Sys2Proof.Machine.execCoreMapAssign die s
  | .pwrgoodRise gpio => Sys2Proof.Machine.execPwrgoodRise gpio s
  | .pwrgoodFall => Sys2Proof.Machine.execPwrgoodFall s
  | .perstNAssert cause => Sys2Proof.Machine.execPerstNAssert cause s
  | .perstNDeassert => Sys2Proof.Machine.execPerstNDeassert s
  | .configSpaceLoaded => Sys2Proof.Machine.execConfigSpaceLoaded s
  | .bootRestart value => Sys2Proof.Machine.execBootRestart value s
  | .keeperImagePass slot object => Sys2Proof.Machine.execKeeperImagePass slot object s
  | .configImagePass slot object => Sys2Proof.Machine.execConfigImagePass slot object s
  | .firmwarePass control service => Sys2Proof.Machine.execFirmwarePass control service s
  | .imageRejected slot kind => Sys2Proof.Machine.execImageRejected slot kind s
  | .bootFwReady k => Sys2Proof.Machine.execBootFwReady k s
  | .stagedImageVerified comp pass => Sys2Proof.Machine.execStagedImageVerified comp pass s
  | .keeperRestart staged => Sys2Proof.Machine.execKeeperRestart staged s
  | .nonceExpiry => Sys2Proof.Machine.execNonceExpiry s
  | .unlockExpiry => Sys2Proof.Machine.execUnlockExpiry s
  | .serclkLoss => Sys2Proof.Machine.execSerclkLoss s
  | .clockLoss => Sys2Proof.Machine.execClockLoss s
  | .serclkReturn => Sys2Proof.Machine.execSerclkReturn s
  | .dieOvertemp die temp => Sys2Proof.Machine.execDieOvertemp die temp s
  | .dieCooled die temp => Sys2Proof.Machine.execDieCooled die temp s
  | .thermtrip => Sys2Proof.Machine.execThermtrip s
  | .requestFetch queue => Sys2Proof.Machine.execRequestFetch queue s
  | .rqTail queue value => Sys2Proof.Machine.execRqTail queue value s
  | .cqHead queue value => Sys2Proof.Machine.execCqHead queue value s
  | .tblRegister req => Sys2Proof.Machine.execTblRegister req s
  | .tblOpen req => Sys2Proof.Machine.execTblOpen req s
  | .tblOpenDone req => Sys2Proof.Machine.execTblOpenDone req s
  | .tblWrite req => Sys2Proof.Machine.execTblWrite req s
  | .tblSeal req => Sys2Proof.Machine.execTblSeal req s
  | .tblAbandon req => Sys2Proof.Machine.execTblAbandon req s
  | .tblRetire req => Sys2Proof.Machine.execTblRetire req s
  | .tblFreeze req => Sys2Proof.Machine.execTblFreeze req s
  | .tblReload req => Sys2Proof.Machine.execTblReload req s
  | .plcPin req => Sys2Proof.Machine.execPlcPin req s
  | .plcUnpin req => Sys2Proof.Machine.execPlcUnpin req s
  | .plcHubAdd req => Sys2Proof.Machine.execPlcHubAdd req s
  | .plcHubDrop req => Sys2Proof.Machine.execPlcHubDrop req s
  | .lyrRegister req => Sys2Proof.Machine.execLyrRegister req s
  | .lyrLoad req => Sys2Proof.Machine.execLyrLoad req s
  | .lyrFreeze req => Sys2Proof.Machine.execLyrFreeze req s
  | .lyrRetire req => Sys2Proof.Machine.execLyrRetire req s
  | .lyrParams req => Sys2Proof.Machine.execLyrParams req s
  | .tblRule req => Sys2Proof.Machine.execTblRule req s
  | .pipeRegister req => Sys2Proof.Machine.execPipeRegister req s
  | .pipeUnregister req => Sys2Proof.Machine.execPipeUnregister req s
  | .instantiate req => Sys2Proof.Machine.execInstantiate req s
  | .hostAbort req => Sys2Proof.Machine.execHostAbort req s
  | .finalRecordArrival req => Sys2Proof.Machine.execFinalRecordArrival req s
  | .resultDmaDone req => Sys2Proof.Machine.execResultDmaDone req s
  | .completionGrant req => Sys2Proof.Machine.execCompletionGrant req s
  | .deadline req => Sys2Proof.Machine.execDeadline req s
  | .coalesceTimer queue => Sys2Proof.Machine.execCoalesceTimer queue s
  | .hostTimeout queue req => Sys2Proof.Machine.execHostTimeout queue req s
  | .enable queue => Sys2Proof.Machine.execEnable queue s
  | .disable queue => Sys2Proof.Machine.execDisable queue s
  | .resume queue => Sys2Proof.Machine.execResume queue s
  | .bar2Read off len => Sys2Proof.Machine.execBar2Read off len s
  | .bar2Write off data => Sys2Proof.Machine.execBar2Write off data s
  | .registerWrite source addr len value => Sys2Proof.Machine.execRegisterWrite source addr len value s
  | .ideIntegrityFail => Sys2Proof.Machine.execIdeIntegrityFail s
  | .query body => Sys2Proof.Machine.execQuery body s
  | .keyProg body => Sys2Proof.Machine.execKeyProg body s
  | .kSetGo body => Sys2Proof.Machine.execKSetGo body s
  | .kSetStop body => Sys2Proof.Machine.execKSetStop body s
  | .getVersion body => Sys2Proof.Machine.execGetVersion body s
  | .getCapabilities body => Sys2Proof.Machine.execGetCapabilities body s
  | .negotiateAlgorithms body => Sys2Proof.Machine.execNegotiateAlgorithms body s
  | .getDigests body => Sys2Proof.Machine.execGetDigests body s
  | .getCertificate body => Sys2Proof.Machine.execGetCertificate body s
  | .challenge body => Sys2Proof.Machine.execChallenge body s
  | .getMeasurements body => Sys2Proof.Machine.execGetMeasurements body s
  | .spdmUnsupported body => Sys2Proof.Machine.execSpdmUnsupported body s
  | .directRead off len => Sys2Proof.Machine.execDirectRead off len s
  | .directRdyCmd body => Sys2Proof.Machine.execDirectRdyCmd body s
  | .entdaa addr => Sys2Proof.Machine.execEntdaa addr s
  | .rstdaa => Sys2Proof.Machine.execRstdaa s
  | .setEndpointId body => Sys2Proof.Machine.execSetEndpointId body s
  | .getEndpointId body => Sys2Proof.Machine.execGetEndpointId body s
  | .getEndpointUuid body => Sys2Proof.Machine.execGetEndpointUuid body s
  | .getMctpVersionSupport body => Sys2Proof.Machine.execGetMctpVersionSupport body s
  | .getMessageTypeSupport body => Sys2Proof.Machine.execGetMessageTypeSupport body s
  | .read body => Sys2Proof.Machine.execRead body s
  | .force body => Sys2Proof.Machine.execForce body s
  | .alertMask body => Sys2Proof.Machine.execAlertMask body s
  | .nonce body => Sys2Proof.Machine.execNonce body s
  | .token body => Sys2Proof.Machine.execToken body s
  | .relock body => Sys2Proof.Machine.execRelock body s
  | .gettid body => Sys2Proof.Machine.execGettid body s
  | .getpldmversion body => Sys2Proof.Machine.execGetpldmversion body s
  | .getpldmtypes body => Sys2Proof.Machine.execGetpldmtypes body s
  | .getpldmcommands body => Sys2Proof.Machine.execGetpldmcommands body s
  | .getpdrrepositoryinfo body => Sys2Proof.Machine.execGetpdrrepositoryinfo body s
  | .getpdr body => Sys2Proof.Machine.execGetpdr body s
  | .getsensorreading body => Sys2Proof.Machine.execGetsensorreading body s
  | .getstatesensorreadings body => Sys2Proof.Machine.execGetstatesensorreadings body s
  | .requestupdate body => Sys2Proof.Machine.execRequestupdate body s
  | .updatecomponent body => Sys2Proof.Machine.execUpdatecomponent body s
  | .verifycomplete body => Sys2Proof.Machine.execVerifycomplete body s
  | .activatefirmware body => Sys2Proof.Machine.execActivatefirmware body s
  | .cancelupdatecomponent body => Sys2Proof.Machine.execCancelupdatecomponent body s
  | .cancelupdate body => Sys2Proof.Machine.execCancelupdate body s
  | .configSpaceWrite field value => Sys2Proof.Machine.execConfigSpaceWrite field value s
  | .remapCopyDone chan row => Sys2Proof.Machine.execRemapCopyDone chan row s
  | .tblWriteDone req => Sys2Proof.Machine.execTblWriteDone req s
  | .lyrLoadDone req => Sys2Proof.Machine.execLyrLoadDone req s
  | .componentDataTransfer body => Sys2Proof.Machine.execComponentDataTransfer body s
  | .doeDiscovery body => Sys2Proof.Machine.execDoeDiscovery body s

end Sys2Proof.Machine
end

