-- ==== Sys2Proof/Machine/Step.lean ====
section
/-! DEFINITION. One step of the block: the command at the front of the queue, or time passing on an empty one. -/

namespace Sys2Proof.Machine

/-- The instant that device time does not pass by itself: the next phase of the tick (02 R49). -/
def nextPhase (s : State) : Nat :=
  match s.tsq.phase with
  | .prime => s.tsq.tickStart + 2000
  | .run => settleAt s
  | .settle => applyAt s
  | .apply => s.tsq.tickStart + period s

/-- An empty queue: device time, where its counter runs, moves on by 1 ns, up to the next phase of a running tick (DESIGN CHOICE, log entry 4). -/
def idle (s : State) : State := if s.tsq.running ∧ nextPhase s < s.now + 1 then s else advance s (s.now + 1)

/-- A step: the command at the front of the queue takes effect, with the rest of the queue left waiting; the block idles on an empty queue. -/
def step (s : State) : Host.Outcome State Fault Refusal :=
  match s.pending with
  | [] => .next (idle s)
  | c :: r => exec c { s with pending := r }

/-- The state with the command that a word of the table spells put at the front of its queue; the table gives no row any bits, so no word spells
one. -/
def State.withFetchWord (s : State) (nbits w : Nat) : State :=
  match decodeTableWord nbits w with
  | some c => { s with pending := c :: s.pending }
  | none => s

end Sys2Proof.Machine
end

