-- ==== Sys2Proof/WellFormed.lean ====
section
/-! DEFINITION. Which commands are well formed: those whose operands name a unit, a table or an address that the device has (00 R13, R20; 08 R291;
14 R537; 16 R633; 18 R685), whose tags have 24 bits and whose bodies have the length their rule gives. A strand instruction is well formed in every form, since the
types of its fields hold nothing else (03 R99, R100). -/

namespace Sys2Proof

/-- Whether a number is an index of the readiness map (16 R633). -/
def unitIndex (i : Nat) : Bool :=
  decide (i ≤ 6) || (decide (0x10 ≤ i) && decide (i ≤ 0x23)) || (decide (0x30 ≤ i) && decide (i ≤ 0x3B)) ||
  (decide (0x40 ≤ i) && decide (i ≤ 0x42)) || i == 0x48 || i == 0x49 ||
  (decide (0x100 ≤ i) && decide (i ≤ 0x1CF)) || (decide (0x200 ≤ i) && decide (i ≤ 0x30F))

/-- Whether a pattern of byte errors lies within a codeword of 72 bytes (12 R452). -/
def byteErrors (err : List (Nat × Nat)) : Bool := err.all fun e => decide (e.1 < 72) && decide (e.2 < 256)

/-- Whether a command is well formed. -/
def Instr.wf (i : Instr) : Bool :=
  match i with
  | .tickStart => true
  | .firstTickStart => true
  | .runBegin => true
  | .settlePoint => true
  | .applyPoint _ _ => true
  | .copyStage _ => true
  | .bulkCutOff => true
  | .releaseLateEntry => true
  | .summaryPlanRx src tag body => decide (src < 1024) && decide (tag < 16777216) && decide (body.length ≤ 65536)
  | .summaryVetoRx src tag body => decide (src < 1024) && decide (tag < 16777216) && decide (body.length ≤ 65536)
  | .summaryOfferRx src tag body => decide (src < 1024) && decide (tag < 16777216) && decide (body.length ≤ 65536)
  | .summaryAcceptRx src tag body => decide (src < 1024) && decide (tag < 16777216) && decide (body.length ≤ 65536)
  | .ptpMessageRx port body => decide (port < 16) && decide (body.length ≤ 65536)
  | .ptpSyncTx port => decide (port < 16)
  | .ptpPdelayReqTx port => decide (port < 16)
  | .ptpAnnounceTx port => decide (port < 16)
  | .announceReceiptTimeout port => decide (port < 16)
  | .syncLoss => true
  | .holdoverLimit => true
  | .ptmRequest => true
  | .ptmResponse _ _ _ _ => true
  | .tickInWord _ => true
  | .tickInEdge => true
  | .tickOutWord => true
  | .taskDispatch lcore => decide (lcore < 256)
  | .strandWaitEnd _ => true
  | .strandReleaseSeen _ => true
  | .strandTimeout _ => true
  | .illegal _ _ => true
  | .add _ _ _ _ _ => true
  | .sub _ _ _ _ _ => true
  | .mul _ _ _ _ _ => true
  | .mulhu _ _ _ _ _ => true
  | .mulhs _ _ _ _ _ => true
  | .divu _ _ _ _ _ => true
  | .divs _ _ _ _ _ => true
  | .remu _ _ _ _ _ => true
  | .rems _ _ _ _ _ => true
  | .and _ _ _ _ _ => true
  | .or _ _ _ _ _ => true
  | .xor _ _ _ _ _ => true
  | .andn _ _ _ _ _ => true
  | .shl _ _ _ _ _ => true
  | .shru _ _ _ _ _ => true
  | .shrs _ _ _ _ _ => true
  | .mins _ _ _ _ _ => true
  | .maxs _ _ _ _ _ => true
  | .minu _ _ _ _ _ => true
  | .maxu _ _ _ _ _ => true
  | .sel _ _ _ _ _ _ => true
  | .madd _ _ _ _ _ _ => true
  | .popc _ _ _ _ => true
  | .clz _ _ _ _ => true
  | .ctz _ _ _ _ => true
  | .addi _ _ _ _ _ => true
  | .muli _ _ _ _ _ => true
  | .andi _ _ _ _ _ => true
  | .ori _ _ _ _ _ => true
  | .xori _ _ _ _ _ => true
  | .shli _ _ _ _ _ => true
  | .shrui _ _ _ _ _ => true
  | .shrsi _ _ _ _ _ => true
  | .fadd _ _ _ _ _ => true
  | .fsub _ _ _ _ _ => true
  | .fmul _ _ _ _ _ => true
  | .ffma _ _ _ _ _ _ => true
  | .fmin _ _ _ _ _ => true
  | .fmax _ _ _ _ _ => true
  | .fcvtsi _ _ _ _ => true
  | .fcvtis _ _ _ _ => true
  | .cmpeq _ _ _ _ _ => true
  | .cmpne _ _ _ _ _ => true
  | .cmplts _ _ _ _ _ => true
  | .cmples _ _ _ _ _ => true
  | .cmpltu _ _ _ _ _ => true
  | .cmpleu _ _ _ _ _ => true
  | .fcmpeq _ _ _ _ _ => true
  | .fcmplt _ _ _ _ _ => true
  | .fcmple _ _ _ _ _ => true
  | .fcmpun _ _ _ _ _ => true
  | .pand _ _ _ _ _ => true
  | .por _ _ _ _ _ => true
  | .pxor _ _ _ _ _ => true
  | .pandn _ _ _ _ _ => true
  | .ld8u _ _ _ _ _ _ => true
  | .ld16u _ _ _ _ _ _ => true
  | .ld32u _ _ _ _ _ _ => true
  | .ld64 _ _ _ _ _ _ => true
  | .ld8s _ _ _ _ _ _ => true
  | .ld16s _ _ _ _ _ _ => true
  | .ld32s _ _ _ _ _ _ => true
  | .st8 _ _ _ _ _ _ => true
  | .st16 _ _ _ _ _ _ => true
  | .st32 _ _ _ _ _ _ => true
  | .st64 _ _ _ _ _ _ => true
  | .aadd32 _ _ _ _ _ => true
  | .aadd64 _ _ _ _ _ => true
  | .aminu64 _ _ _ _ _ => true
  | .amaxu64 _ _ _ _ _ => true
  | .aor64 _ _ _ _ _ => true
  | .aand64 _ _ _ _ _ => true
  | .aswap64 _ _ _ _ _ => true
  | .acas64 _ _ _ _ _ _ => true
  | .afadd32 _ _ _ _ _ => true
  | .br _ _ _ => true
  | .bri _ _ _ => true
  | .call _ _ _ _ => true
  | .calli _ _ _ _ => true
  | .li _ _ _ _ => true
  | .lih _ _ _ _ => true
  | .qgather _ _ _ _ _ => true
  | .qlookup _ _ _ _ _ => true
  | .qchain _ _ _ _ _ => true
  | .qmat _ _ _ _ _ => true
  | .qsend _ _ _ _ _ => true
  | .qwait _ _ _ _ => true
  | .qpoll _ _ _ _ => true
  | .qdrainall _ _ _ => true
  | .harrive _ _ _ _ _ => true
  | .hwait _ _ _ _ _ => true
  | .hrelone _ _ _ _ _ => true
  | .hrelall _ _ _ _ _ => true
  | .hadd _ _ _ _ _ => true
  | .htest _ _ _ _ _ => true
  | .karrive _ _ _ _ _ => true
  | .kwait _ _ _ _ _ => true
  | .nop _ _ => true
  | .mfs _ _ _ _ => true
  | .mts _ _ _ _ => true
  | .mfence _ _ => true
  | .spawn _ _ _ _ => true
  | .tend _ _ _ => true
  | .taskCommitRequest _ => true
  | .commitArbiterGrant die => decide (die < 4)
  | .compHitchSignal => true
  | .schAbort k _ => decide (k < 20)
  | .abortArrival _ => true
  | .delayEntryDue _ => true
  | .delayEntryRoom _ => true
  | .taskMessageRx src tag body => decide (src < 1024) && decide (tag < 16777216) && decide (body.length ≤ 65536)
  | .fragmentTaskSubmit core _ => decide (core < 272)
  | .gatherStart core => decide (core < 272)
  | .gatherComplete core _ => decide (core < 272)
  | .lookupStart core => decide (core < 272)
  | .lookupComplete core _ => decide (core < 272)
  | .sendStart core => decide (core < 272)
  | .runaheadDiscard core => decide (core < 272)
  | .remoteGatherTimeout _ => true
  | .chainStart core => decide (core < 272)
  | .chainComplete core => decide (core < 272)
  | .matrixStart core => decide (core < 272)
  | .drainComplete core => decide (core < 272)
  | .matrixComplete core _ => decide (core < 272)
  | .hbmRead addr _ _ err _ => decide (addr < 281474976710656) && byteErrors err.bytes
  | .hbmWrite addr _ _ => decide (addr < 281474976710656)
  | .wcbAgeWriteback chan unit => decide (chan < 192) && decide (unit.unit < 33554432) && byteErrors unit.err.bytes
  | .correctedWriteback chan off => decide (chan < 192) && decide (off < 2147483648)
  | .memRequestTimeout chan off _ => decide (chan < 192) && decide (off < 2147483648)
  | .patrolScrubRead chan err => decide (chan < 192) && byteErrors err.bytes
  | .thermalReadingBringup stack _ => decide (stack < 12)
  | .channelRetrainDone chan kept => decide (kept.failing < 18446744073709551616) && decide (chan < 192)
  | .start chan _ => decide (chan < 192)
  | .abort chan => decide (chan < 192)
  | .clearLost chan => decide (chan < 192)
  | .memTestComplete chan report =>
    decide (chan < 192) && report.failing.all (fun o => decide (o < 2147483648)) && report.corrected.all (fun c => decide (c.1 < 2147483648))
  | .slotFrameStart => true
  | .markerRx port body => decide (port < 16) && decide (body.length ≤ 65536)
  | .markerWindowClose port => decide (port < 16)
  | .cellRx port _ corr fec => decide (port < 16) && decide (corr < 256) && decide (fec.fresh < 256)
  | .portTrained port => decide (port < 16)
  | .trainingTimeout port => decide (port < 16)
  | .gatherReq src tag body => decide (src < 1024) && decide (tag < 16777216) && decide (body.length ≤ 65536)
  | .gatherRsp src tag body => decide (src < 1024) && decide (tag < 16777216) && decide (body.length ≤ 65536)
  | .scatterAdd src tag body => decide (src < 1024) && decide (tag < 16777216) && decide (body.length ≤ 65536)
  | .hitchOp src tag body => decide (src < 1024) && decide (tag < 16777216) && decide (body.length ≤ 65536)
  | .hitchRsp src tag body => decide (src < 1024) && decide (tag < 16777216) && decide (body.length ≤ 65536)
  | .hitchRspTimeout _ => true
  | .knotArrive src tag body => decide (src < 1024) && decide (tag < 16777216) && decide (body.length ≤ 65536)
  | .knotRelease src tag body => decide (src < 1024) && decide (tag < 16777216) && decide (body.length ≤ 65536)
  | .knotBreak src tag body => decide (src < 1024) && decide (tag < 16777216) && decide (body.length ≤ 65536)
  | .knotNodeArrival barrier _ => decide (barrier < 1024)
  | .knotReleaseArrival barrier _ => decide (barrier < 1024)
  | .relocBcast src tag body => decide (src < 1024) && decide (tag < 16777216) && decide (body.length ≤ 65536)
  | .relocQuery src tag body => decide (src < 1024) && decide (tag < 16777216) && decide (body.length ≤ 65536)
  | .rowStream src tag body => decide (src < 1024) && decide (tag < 16777216) && decide (body.length ≤ 65536)
  | .rowStreamAck src tag body => decide (src < 1024) && decide (tag < 16777216) && decide (body.length ≤ 65536)
  | .returnedRelease hitch => decide (hitch < 65536)
  | .ticketWithdraw => true
  | .hitClear k hitch => decide (k < 20) && decide (hitch < 65536)
  | .barrierDefine k barrier entry => decide (k < 20) && decide (barrier < 1024) && decide (entry.length = 64)
  | .layerPush => true
  | .ringDrain => true
  | .gradientLayer src tag body => decide (src < 1024) && decide (tag < 16777216) && decide (body.length ≤ 65536)
  | .gradientRows src tag body => decide (src < 1024) && decide (tag < 16777216) && decide (body.length ≤ 65536)
  | .gradientDone src tag body => decide (src < 1024) && decide (tag < 16777216) && decide (body.length ≤ 65536)
  | .layerStepTimeout layer => decide (layer < 1024)
  | .rowTickTimeout table => decide (table < 4096)
  | .stagingRetry => true
  | .sliceScatter layer => decide (layer < 1024)
  | .rootRefreshDone layer => decide (layer < 1024)
  | .sliceData src tag body => decide (src < 1024) && decide (tag < 16777216) && decide (body.length ≤ 65536)
  | .sliceEnd src tag body => decide (src < 1024) && decide (tag < 16777216) && decide (body.length ≤ 65536)
  | .slicePull src tag body => decide (src < 1024) && decide (tag < 16777216) && decide (body.length ≤ 65536)
  | .coreCheck core _ => decide (core < 272)
  | .coreHeartbeat core => decide (core < 272)
  | .ctrlCoreFault k _ => decide (k < 20)
  | .dieTimeout die => decide (die < 6)
  | .dieRestart die => decide (die < 6)
  | .controlStall => true
  | .deviceWatchdog => true
  | .keeperWatchdog => true
  | .faultReport _ _ _ _ _ _ _ => true
  | .unitRecoveryDone unit => unitIndex unit
  | .fltAck _ => true
  | .grey source unit => decide (source < 23) && decide (unit < 1024)
  | .releaseForce source unit => decide (source < 23) && decide (unit < 1024)
  | .confirm source unit => decide (source < 23) && decide (unit < 1024)
  | .requestNotReady _ => true
  | .unitBringupReport unit state => decide (state.failing < 18446744073709551616) && unitIndex unit && decide (state.state < 6) &&
    state.units.all (fun o => decide (o < 2147483648))
  | .coreMapAssign die => decide (die < 4)
  | .pwrgoodRise _ => true
  | .pwrgoodFall => true
  | .perstNAssert _ => true
  | .perstNDeassert => true
  | .configSpaceLoaded => true
  | .bootRestart _ => true
  | .keeperImagePass slot _ => decide (slot < 2)
  | .configImagePass slot _ => decide (slot < 2)
  | .firmwarePass _ _ => true
  | .imageRejected slot _ => decide (slot < 2)
  | .bootFwReady k => decide (k < 20)
  | .stagedImageVerified comp _ => comp == 2 || comp == 3
  | .keeperRestart _ => true
  | .nonceExpiry => true
  | .unlockExpiry => true
  | .serclkLoss => true
  | .clockLoss => true
  | .serclkReturn => true
  | .dieOvertemp die _ => decide (die < 6)
  | .dieCooled die _ => decide (die < 6)
  | .thermtrip => true
  | .requestFetch queue => decide (queue < 1024)
  | .rqTail queue _ => decide (queue < 1024)
  | .cqHead queue _ => decide (queue < 1024)
  | .tblRegister _ => true
  | .tblOpen _ => true
  | .tblOpenDone _ => true
  | .tblWrite _ => true
  | .tblSeal _ => true
  | .tblAbandon _ => true
  | .tblRetire _ => true
  | .tblFreeze _ => true
  | .tblReload _ => true
  | .plcPin _ => true
  | .plcUnpin _ => true
  | .plcHubAdd _ => true
  | .plcHubDrop _ => true
  | .lyrRegister _ => true
  | .lyrLoad _ => true
  | .lyrFreeze _ => true
  | .lyrRetire _ => true
  | .lyrParams _ => true
  | .tblRule _ => true
  | .pipeRegister _ => true
  | .pipeUnregister _ => true
  | .instantiate _ => true
  | .hostAbort _ => true
  | .finalRecordArrival _ => true
  | .resultDmaDone _ => true
  | .completionGrant _ => true
  | .deadline _ => true
  | .coalesceTimer queue => decide (queue < 1024)
  | .hostTimeout queue _ => decide (queue < 1024)
  | .enable queue => decide (queue < 1024)
  | .disable queue => decide (queue < 1024)
  | .resume queue => decide (queue < 1024)
  | .bar2Read _ _ => true
  | .bar2Write _ _ => true
  | .registerWrite source addr len _ => decide (source < 23) && decide (addr < 67108864) && (len == 1 || len == 2 || len == 4 || len == 8) && addr % len == 0
  | .ideIntegrityFail => true
  | .query body => decide (body.length ≤ 65536)
  | .keyProg body => decide (body.length ≤ 65536)
  | .kSetGo body => decide (body.length ≤ 65536)
  | .kSetStop body => decide (body.length ≤ 65536)
  | .getVersion body => decide (body.length ≤ 65536)
  | .getCapabilities body => decide (body.length ≤ 65536)
  | .negotiateAlgorithms body => decide (body.length ≤ 65536)
  | .getDigests body => decide (body.length ≤ 65536)
  | .getCertificate body => decide (body.length ≤ 65536)
  | .challenge body => decide (body.length ≤ 65536)
  | .getMeasurements body => decide (body.length ≤ 65536)
  | .spdmUnsupported body => decide (body.length ≤ 65536)
  | .directRead _ _ => true
  | .directRdyCmd body => decide (body.length ≤ 65536)
  | .entdaa addr => decide (addr < 128)
  | .rstdaa => true
  | .setEndpointId body => decide (body.length ≤ 65536)
  | .getEndpointId body => decide (body.length ≤ 65536)
  | .getEndpointUuid body => decide (body.length ≤ 65536)
  | .getMctpVersionSupport body => decide (body.length ≤ 65536)
  | .getMessageTypeSupport body => decide (body.length ≤ 65536)
  | .read body => decide (body.length ≤ 65536)
  | .force body => decide (body.length ≤ 65536)
  | .alertMask body => decide (body.length ≤ 65536)
  | .nonce body => decide (body.length ≤ 65536)
  | .token body => decide (body.length ≤ 65536)
  | .relock body => decide (body.length ≤ 65536)
  | .gettid body => decide (body.length ≤ 65536)
  | .getpldmversion body => decide (body.length ≤ 65536)
  | .getpldmtypes body => decide (body.length ≤ 65536)
  | .getpldmcommands body => decide (body.length ≤ 65536)
  | .getpdrrepositoryinfo body => decide (body.length ≤ 65536)
  | .getpdr body => decide (body.length ≤ 65536)
  | .getsensorreading body => decide (body.length ≤ 65536)
  | .getstatesensorreadings body => decide (body.length ≤ 65536)
  | .requestupdate body => decide (body.length ≤ 65536)
  | .updatecomponent body => decide (body.length ≤ 65536)
  | .verifycomplete body => decide (body.length ≤ 65536)
  | .activatefirmware body => decide (body.length ≤ 65536)
  | .cancelupdatecomponent body => decide (body.length ≤ 65536)
  | .cancelupdate body => decide (body.length ≤ 65536)
  | .configSpaceWrite _ _ => true
  | .remapCopyDone chan row => decide (chan < 192) && decide (row < 2097152)
  | .tblWriteDone _ => true
  | .lyrLoadDone _ => true
  | .componentDataTransfer body => decide (body.length ≤ 65536)
  | .doeDiscovery body => decide (body.length ≤ 65536)

end Sys2Proof
end

