-- ==== Sys2Proof/Safety.lean ====
section
/-! DEFINITION. What holds in every state that commands lead to from reset, and the terms in which the statements speak of a command's effect. -/

namespace Sys2Proof.Machine

/-- Every sparse map of the device is in its canonical form: keys strictly rising, and no entry that says what an unlisted one says anyway. Equal
contents are then equal data, and a register, a byte or a unit is listed at most once. -/
structure Canonical (s : State) : Prop where
  mem : Memory.wf s.mem = true
  csr : mwf csrDefault s.csr = true
  gens : mwf (fun _ => 0) s.gens = true
  hostMem : mwf (fun _ => (0 : Byte)) s.hostMem = true
  rdy : mwf (fun _ => rdyAbsent) s.rdy = true
  harts : mwf (fun _ => hartReset) s.harts = true
  ctrls : mwf (fun _ => ctrlReset) s.ctrls = true
  cores : mwf (fun _ => coreReset) s.cores = true
  chans : mwf (fun _ => chanReset) s.chans = true
  hitches : mwf (fun _ => hitchReset) s.hit.hitches = true
  barriers : mwf (fun _ => barrierReset) s.hit.barriers = true
  ports : mwf (fun _ => portReset) s.hws.ports = true
  tables : mwf (fun _ => tableReset) s.emb.tables = true
  layers : mwf (fun _ => layerReset) s.upd.layers = true
  queues : mwf (fun _ => queueReset) s.pci.queues = true
  ptp : mwf (fun _ => ptpReset) s.tim.ports = true

/-- A run is safe while its states are canonical and every waiting command is well formed. -/
def Safe (s : State) : Prop := Canonical s ∧ s.pending.all Instr.wf = true

/-- Where the tick stands: whether ticks run, the number and the start of the tick in progress, its phase, and the stage of its apply window. -/
abbrev tickClock (s : State) : Bool × Nat × Nat × Phase × Nat := (s.tsq.running, s.tsq.tick, s.tsq.tickStart, s.tsq.phase, s.tsq.stage)

/-! ### Runs -/

/-- A number of steps. -/
def steps : Nat → State → Host.Outcome State Fault Refusal
  | 0, s => .next s
  | n + 1, s =>
    match step s with
    | .next t => steps n t
    | .fault f => .fault f
    | .refused r => .refused r

/-- Commands one after another, each with the later ones left waiting. -/
def execAll : List Instr → State → Host.Outcome State Fault Refusal
  | [], s => .next s
  | c :: r, s =>
    match exec c { s with pending := r } with
    | .next t => execAll r t
    | .fault f => .fault f
    | .refused r => .refused r

/-! ### Instructions -/

/-- The state in which an instruction of a hart acts: a strand has taken its turn, and its core has counted the issue (03 R92, R94, R98, R137). -/
def issued (s : State) : Hart → State
  | .ctrl _ => s
  | .strand c n => takeTurn s c.val n.val

/-- A hart fetches an instruction: a strand's word can be read, and it spells the instruction (03 R99-R102, R126); a control core is not GREY, and its
instruction is the one its command names. -/
def Fetches (s : State) (c : Instr) : Hart → Prop
  | .ctrl k => rdyState s (idxCtrl k) ≠ .grey
  | .strand p n =>
    let a := (hart s (.strand p n)).pc.toNat
    reachable (issued s (.strand p n)) a = true ∧ readCause (issued s (.strand p n)) a 8 = none ∧ decodeStrand (.strand p n) (readNat s a 8) = c

/-- An instruction takes effect: its hart is READY and fetches it, and its guard holds (03 R94, R95). -/
structure Runs (s : State) (c : Instr) (h : Hart) (g : Guard) : Prop where
  ready : (hart s h).st = .ready
  fetch : Fetches s c h
  guard : guardOn s h g = true

/-- Nothing has changed but the hart's own registers, predicates, flags, pc and latches, beside the counting of the issue: no byte of memory, no
other register of the device, no other hart. -/
def OnlyHart (s t : State) (h : Hart) : Prop := t = { issued s h with harts := t.harts } ∧ ∀ k, k ≠ h → hart t k = hart s k

/-- A value has gone to rd and the pc past the instruction; g0 discards it. Nothing else has changed. -/
structure Retired (s t : State) (h : Hart) (rd : Reg) (v : Word) : Prop where
  only : OnlyHart s t h
  rest : hart t h = { hart s h with pc := (hart s h).pc + 8, regs := (hart t h).regs }
  value : reg t h rd = if rd.val = 0 then 0 else v
  others : ∀ r, r ≠ rd → reg t h r = reg s h r

/-- The same with flags ORed into FFLAGS. -/
structure RetiredF (s t : State) (h : Hart) (rd : Reg) (v : Word) (flags : Nat) : Prop where
  only : OnlyHart s t h
  rest : hart t h = { hart s h with pc := (hart s h).pc + 8, regs := (hart t h).regs, fflags := (hart s h).fflags ||| BitVec.ofNat 5 flags }
  value : reg t h rd = if rd.val = 0 then 0 else v
  others : ∀ r, r ≠ rd → reg t h r = reg s h r

/-- A truth value has gone to a predicate and the pc past the instruction; p0 discards it. Nothing else has changed. -/
structure Predicated (s t : State) (h : Hart) (pd : PredReg) (v : Bool) : Prop where
  only : OnlyHart s t h
  rest : hart t h = { hart s h with pc := (hart s h).pc + 8, preds := (hart t h).preds }
  value : pred t h pd = if pd.val = 0 then true else v
  others : ∀ p, p ≠ pd → pred t h p = pred s h p

end Sys2Proof.Machine
end

