-- ==== Sys2Proof/Certificates/Slice0/Obligations.lean ====
section
/-! DEFINITION. The statements for the provers, and the tables of results they speak of. -/

open Sys2Proof Sys2Proof.Machine

/-! ### The block -/

/-- A step takes the command at the front of the queue and is that command's execution with the rest of the queue left waiting. -/
def Obligations.FrontCommandRuns : Prop :=
  ∀ (c : Instr) (s : State), step { s with pending := c :: s.pending } = exec c s

/-- On an empty queue the block idles (DESIGN CHOICE, log entry 4): device time moves on by 1 ns, unless its counter does not run or the next
phase of a running tick has come, and no register, byte of memory, hart or queue changes. -/
def Obligations.IdleStepPassesTime : Prop :=
  ∀ s : State, s.pending = [] → ∃ t, step s = .next t ∧
    t.now = (if timeRuns s = true ∧ (s.tsq.running = true → s.now + 1 ≤ nextPhase s) then s.now + 1 else s.now) ∧
    t.pending = [] ∧ t.csr = s.csr ∧ t.mem = s.mem ∧ t.harts = s.harts ∧ t.tsq = s.tsq ∧ t.hit = s.hit ∧ t.chans = s.chans ∧ t.flt = s.flt

/-- Every step keeps a safe state safe: every map of the device stays in its canonical form and every waiting command well formed. -/
def Obligations.StepKeepsSafe : Prop :=
  ∀ s t : State, Safe s → step s = .next t → Safe t

/-- The queue is served first in, first out: as many steps as commands wait run each of them once, in order, and leave the queue empty. -/
def Obligations.QueueRunsInOrder : Prop :=
  ∀ s : State, Canonical s → ∃ t, steps s.pending.length s = .next t ∧ t.pending = [] ∧ execAll s.pending s = .next t ∧ Canonical t

/-- What reset leaves: the state is safe, no command waits, power is not good, no tick runs, the plan buffers are EMPTY, every unit of the readiness map is
ABSENT, every strand IDLE, and the registers read the values of their Reset columns (00 R10): among them the next task id and BOOT_STATUS, and every hitch is clear. -/
def Obligations.ResetValues : Prop :=
  Safe State.reset ∧ State.reset.pending = [] ∧ State.reset.boot.pwrgood = false ∧ State.reset.tsq.running = false ∧ State.reset.tsq.plan = .empty ∧
  (∀ i, rdyState State.reset i = .absent) ∧ (∀ h, (hart State.reset h).st = .idle) ∧ (∀ a, rget State.reset a = (csrDefault a).toNat) ∧
  (∀ h, hitchGet State.reset h = ⟨0, false, 0, 0, []⟩) ∧ rget State.reset regSchTaskId = 1 ∧ rget State.reset regBootStatus = 0

/-! ### Instructions of strands and control cores -/

/-- Count of ones of a word. -/
def Sys2Proof.Machine.onesOf (x : Word) : Nat := (List.range 64).countP fun i => x.getLsbD i
/-- Number of zero bits above the highest one. -/
def Sys2Proof.Machine.leadingZeros (x : Word) : Nat := ((List.range 64).reverse.takeWhile fun i => !x.getLsbD i).length
/-- Number of zero bits below the lowest one. -/
def Sys2Proof.Machine.trailingZeros (x : Word) : Nat := ((List.range 64).takeWhile fun i => !x.getLsbD i).length

/-- What each integer instruction writes to rd, from the registers before it (03 R101-R103). -/
def Sys2Proof.Machine.intResult (s : State) : Instr → Option (Hart × Guard × Reg × Word)
  | .add h g rd a b => some (h, g, rd, reg s h a + reg s h b)
  | .sub h g rd a b => some (h, g, rd, reg s h a - reg s h b)
  | .mul h g rd a b => some (h, g, rd, reg s h a * reg s h b)
  | .mulhu h g rd a b => some (h, g, rd, BitVec.ofNat 64 ((reg s h a).toNat * (reg s h b).toNat / 2 ^ 64))
  | .mulhs h g rd a b => some (h, g, rd, BitVec.ofInt 64 ((reg s h a).toInt * (reg s h b).toInt / 2 ^ 64))
  | .divu h g rd a b => some (h, g, rd, if reg s h b = 0 then BitVec.allOnes 64 else reg s h a / reg s h b)
  | .remu h g rd a b => some (h, g, rd, if reg s h b = 0 then reg s h a else reg s h a % reg s h b)
  | .divs h g rd a b => some (h, g, rd, if reg s h b = 0 then -1 else BitVec.ofInt 64 ((reg s h a).toInt.tdiv (reg s h b).toInt))
  | .rems h g rd a b => some (h, g, rd, if reg s h b = 0 then reg s h a
      else reg s h a - reg s h b * BitVec.ofInt 64 ((reg s h a).toInt.tdiv (reg s h b).toInt))
  | .and h g rd a b => some (h, g, rd, reg s h a &&& reg s h b)
  | .or h g rd a b => some (h, g, rd, reg s h a ||| reg s h b)
  | .xor h g rd a b => some (h, g, rd, reg s h a ^^^ reg s h b)
  | .andn h g rd a b => some (h, g, rd, reg s h a &&& ~~~reg s h b)
  | .shl h g rd a b => some (h, g, rd, reg s h a <<< ((reg s h b).extractLsb' 0 6).toNat)
  | .shru h g rd a b => some (h, g, rd, reg s h a >>> ((reg s h b).extractLsb' 0 6).toNat)
  | .shrs h g rd a b => some (h, g, rd, (reg s h a).sshiftRight ((reg s h b).extractLsb' 0 6).toNat)
  | .mins h g rd a b => some (h, g, rd, if (reg s h a).toInt ≤ (reg s h b).toInt then reg s h a else reg s h b)
  | .maxs h g rd a b => some (h, g, rd, if (reg s h a).toInt ≤ (reg s h b).toInt then reg s h b else reg s h a)
  | .minu h g rd a b => some (h, g, rd, if reg s h a ≤ reg s h b then reg s h a else reg s h b)
  | .maxu h g rd a b => some (h, g, rd, if reg s h a ≤ reg s h b then reg s h b else reg s h a)
  | .sel h g rd a b p => some (h, g, rd, if pred s h p then reg s h a else reg s h b)
  | .madd h g rd a b c => some (h, g, rd, reg s h a * reg s h b + reg s h c)
  | .popc h g rd a => some (h, g, rd, BitVec.ofNat 64 (onesOf (reg s h a)))
  | .clz h g rd a => some (h, g, rd, BitVec.ofNat 64 (leadingZeros (reg s h a)))
  | .ctz h g rd a => some (h, g, rd, BitVec.ofNat 64 (trailingZeros (reg s h a)))
  | .addi h g rd a i => some (h, g, rd, reg s h a + i.signExtend 64)
  | .muli h g rd a i => some (h, g, rd, reg s h a * i.signExtend 64)
  | .andi h g rd a i => some (h, g, rd, reg s h a &&& i.zeroExtend 64)
  | .ori h g rd a i => some (h, g, rd, reg s h a ||| i.zeroExtend 64)
  | .xori h g rd a i => some (h, g, rd, reg s h a ^^^ i.zeroExtend 64)
  | .shli h g rd a i => some (h, g, rd, reg s h a <<< (i.toNat % 64))
  | .shrui h g rd a i => some (h, g, rd, reg s h a >>> (i.toNat % 64))
  | .shrsi h g rd a i => some (h, g, rd, (reg s h a).sshiftRight (i.toNat % 64))
  | .li h g rd i => some (h, g, rd, i.zeroExtend 64)
  | .lih h g rd i => some (h, g, rd, i ++ (reg s h rd).extractLsb' 0 40)
  | _ => none

/-- Integer arithmetic never faults: an integer instruction that takes effect writes its result to rd and moves on, with the results of 03 R103
for a zero divisor and the signed overflow, and changes nothing else. -/
def Obligations.IntegerArithmetic : Prop :=
  ∀ (s : State) (c : Instr) (h : Hart) (g : Guard) (rd : Reg) (v : Word), Canonical s → intResult s c = some (h, g, rd, v) → Runs s c h g →
    ∃ t, exec c s = .next t ∧ Retired s t h rd v

/-- The truth value each compare and predicate instruction writes, from the state before it (03 R100-R102; 05 R195; 07 R276). -/
def Sys2Proof.Machine.predResult (s : State) : Instr → Option (Hart × Guard × PredReg × Bool)
  | .cmpeq h g p a y => some (h, g, p, decide (reg s h a = operand s h y))
  | .cmpne h g p a y => some (h, g, p, decide (reg s h a ≠ operand s h y))
  | .cmplts h g p a y => some (h, g, p, decide ((reg s h a).toInt < (operand s h y).toInt))
  | .cmples h g p a y => some (h, g, p, decide ((reg s h a).toInt ≤ (operand s h y).toInt))
  | .cmpltu h g p a y => some (h, g, p, decide ((reg s h a).toNat < (operand s h y).toNat))
  | .cmpleu h g p a y => some (h, g, p, decide ((reg s h a).toNat ≤ (operand s h y).toNat))
  | .fcmpeq h g p a y => some (h, g, p, (unF (reg s h a).toNat).eqv (unF (operandF s h y)))
  | .fcmplt h g p a y => some (h, g, p, (unF (reg s h a).toNat).lt (unF (operandF s h y)))
  | .fcmple h g p a y => some (h, g, p, (unF (reg s h a).toNat).lt (unF (operandF s h y)) || (unF (reg s h a).toNat).eqv (unF (operandF s h y)))
  | .fcmpun h g p a y => some (h, g, p, (unF (reg s h a).toNat).isNan || (unF (operandF s h y)).isNan)
  | .pand h g p a b => some (h, g, p, pred s h a && pred s h b)
  | .por h g p a b => some (h, g, p, pred s h a || pred s h b)
  | .pxor h g p a b => some (h, g, p, xor (pred s h a) (pred s h b))
  | .pandn h g p a b => some (h, g, p, pred s h a && !pred s h b)
  | _ => none

/-- A compare or predicate instruction writes its predicate alone; p0 discards it. -/
def Obligations.ComparesAndPredicates : Prop :=
  ∀ (s : State) (c : Instr) (h : Hart) (g : Guard) (p : PredReg) (v : Bool), Canonical s → predResult s c = some (h, g, p, v) → Runs s c h g →
    ∃ t, exec c s = .next t ∧ Predicated s t h p v

/-- What each FP32 instruction writes to rd, and the flags it raises (03 R102, R104; 05 R195; 07 R269-R278). -/
def Sys2Proof.Machine.fpResult (s : State) : Instr → Option (Hart × Guard × Reg × Word × Nat)
  | .fadd h g rd a b => fp32 h g rd (finishF (exAdd (unF (reg s h a).toNat) (unF (reg s h b).toNat)))
  | .fsub h g rd a b => fp32 h g rd (finishF (exAdd (unF (reg s h a).toNat) (unF (reg s h b).toNat).negate))
  | .fmul h g rd a b => fp32 h g rd (finishF (exMul (unF (reg s h a).toNat) (unF (reg s h b).toNat)))
  | .ffma h g rd a b c => fp32 h g rd (fmaF (reg s h a).toNat (reg s h b).toNat (reg s h c).toNat)
  | .fmin h g rd a b => fp32 h g rd (minF (reg s h a).toNat (reg s h b).toNat, 0)
  | .fmax h g rd a b => fp32 h g rd (maxF (reg s h a).toNat (reg s h b).toNat, 0)
  | .fcvtsi h g rd a => fp32 h g rd (roundF (ofInt (reg s h a).toInt))
  | .fcvtis h g rd a => let r := toInt 64 (unF (reg s h a).toNat); some (h, g, rd, BitVec.ofInt 64 r.1, r.2)
  | _ => none
where
  /-- A pattern in bits 31..0 with bits 63..32 zero. -/
  fp32 (h : Hart) (g : Guard) (rd : Reg) (r : Nat × Nat) : Option (Hart × Guard × Reg × Word × Nat) :=
    some (h, g, rd, (BitVec.ofNat 32 r.1).zeroExtend 64, r.2)

/-- An FP32 instruction writes its rounded result to rd and ORs its flags into FFLAGS. Every NaN that an FP32 instruction writes is the canonical one: with a NaN among its operands the result is 0x7FC00000 (07 R275). -/
def Obligations.FloatingPoint : Prop :=
  (∀ (s : State) (c : Instr) (h : Hart) (g : Guard) (rd : Reg) (v : Word) (f : Nat), Canonical s → fpResult s c = some (h, g, rd, v, f) → Runs s c h g →
    ∃ t, exec c s = .next t ∧ RetiredF s t h rd v f) ∧
  ∀ a b : Nat, ((unF a).isNan = true ∨ (unF b).isNan = true) →
    (addF a b).1 = 0x7FC00000 ∧ (subF a b).1 = 0x7FC00000 ∧ (mulF a b).1 = 0x7FC00000 ∧ minF a b = 0x7FC00000 ∧ maxF a b = 0x7FC00000 ∧
    ∀ c, (fmaF a b c).1 = 0x7FC00000 ∧ (fmaF c a b).1 = 0x7FC00000

/-- The branches and calls: BR and CALL go to PC + 8 × IMM32, BRI and CALLI to an aligned address of this device, CALL and CALLI write the
address of the next instruction to rd; an address that is no multiple of 8 faults MISALIGN and one that is none of this device's ADDR. No predicate, flag, byte of memory or other register changes (03 R102, R115). -/
def Obligations.BranchesAndCalls : Prop :=
  ∀ (s : State) (h : Hart) (g : Guard) (rd rs1 : Reg) (imm : BitVec 32) (a : Nat), Canonical s →
    let x := reg s h rs1
    let target := (hart s h).pc + BitVec.ofInt 48 (8 * imm.toInt)
    let link := BitVec.ofNat 64 (((hart s h).pc.toNat + 8) % 2 ^ 48)
    (Runs s (.br h g imm) h g → ∃ t, exec (.br h g imm) s = .next t ∧ OnlyHart s t h ∧ hart t h = { hart s h with pc := target }) ∧
    (Runs s (.call h g rd imm) h g → ∃ t, exec (.call h g rd imm) s = .next t ∧ OnlyHart s t h ∧ hart t h = { (hart s h).setReg rd link with pc := target }) ∧
    (x.toNat % 8 = 0 → deviceAddr (issued s h) x.toNat = some a →
      (Runs s (.bri h g rs1) h g → ∃ t, exec (.bri h g rs1) s = .next t ∧ OnlyHart s t h ∧ hart t h = { hart s h with pc := BitVec.ofNat 48 a }) ∧
      (Runs s (.calli h g rd rs1) h g → ∃ t, exec (.calli h g rd rs1) s = .next t ∧ OnlyHart s t h ∧ hart t h = { (hart s h).setReg rd link with pc := BitVec.ofNat 48 a })) ∧
    (x.toNat % 8 ≠ 0 →
      (Runs s (.bri h g rs1) h g → exec (.bri h g rs1) s = .next (demandFault (issued s h) h 2 x.toNat)) ∧
      (Runs s (.calli h g rd rs1) h g → exec (.calli h g rd rs1) s = .next (demandFault (issued s h) h 2 x.toNat))) ∧
    (x.toNat % 8 = 0 → deviceAddr (issued s h) x.toNat = none →
      (Runs s (.bri h g rs1) h g → exec (.bri h g rs1) s = .next (demandFault (issued s h) h 3 x.toNat)) ∧
      (Runs s (.calli h g rd rs1) h g → exec (.calli h g rd rs1) s = .next (demandFault (issued s h) h 3 x.toNat)))

/-- An instruction and its hart and guard; none for a command that is no instruction. -/
def Sys2Proof.Machine.instrOf : Instr → Option (Hart × Guard)
  | .illegal h g => some (h, g)
  | .add h g _ _ _ => some (h, g)
  | .sub h g _ _ _ => some (h, g)
  | .mul h g _ _ _ => some (h, g)
  | .mulhu h g _ _ _ => some (h, g)
  | .mulhs h g _ _ _ => some (h, g)
  | .divu h g _ _ _ => some (h, g)
  | .divs h g _ _ _ => some (h, g)
  | .remu h g _ _ _ => some (h, g)
  | .rems h g _ _ _ => some (h, g)
  | .and h g _ _ _ => some (h, g)
  | .or h g _ _ _ => some (h, g)
  | .xor h g _ _ _ => some (h, g)
  | .andn h g _ _ _ => some (h, g)
  | .shl h g _ _ _ => some (h, g)
  | .shru h g _ _ _ => some (h, g)
  | .shrs h g _ _ _ => some (h, g)
  | .mins h g _ _ _ => some (h, g)
  | .maxs h g _ _ _ => some (h, g)
  | .minu h g _ _ _ => some (h, g)
  | .maxu h g _ _ _ => some (h, g)
  | .sel h g _ _ _ _ => some (h, g)
  | .madd h g _ _ _ _ => some (h, g)
  | .popc h g _ _ => some (h, g)
  | .clz h g _ _ => some (h, g)
  | .ctz h g _ _ => some (h, g)
  | .addi h g _ _ _ => some (h, g)
  | .muli h g _ _ _ => some (h, g)
  | .andi h g _ _ _ => some (h, g)
  | .ori h g _ _ _ => some (h, g)
  | .xori h g _ _ _ => some (h, g)
  | .shli h g _ _ _ => some (h, g)
  | .shrui h g _ _ _ => some (h, g)
  | .shrsi h g _ _ _ => some (h, g)
  | .fadd h g _ _ _ => some (h, g)
  | .fsub h g _ _ _ => some (h, g)
  | .fmul h g _ _ _ => some (h, g)
  | .ffma h g _ _ _ _ => some (h, g)
  | .fmin h g _ _ _ => some (h, g)
  | .fmax h g _ _ _ => some (h, g)
  | .fcvtsi h g _ _ => some (h, g)
  | .fcvtis h g _ _ => some (h, g)
  | .cmpeq h g _ _ _ => some (h, g)
  | .cmpne h g _ _ _ => some (h, g)
  | .cmplts h g _ _ _ => some (h, g)
  | .cmples h g _ _ _ => some (h, g)
  | .cmpltu h g _ _ _ => some (h, g)
  | .cmpleu h g _ _ _ => some (h, g)
  | .fcmpeq h g _ _ _ => some (h, g)
  | .fcmplt h g _ _ _ => some (h, g)
  | .fcmple h g _ _ _ => some (h, g)
  | .fcmpun h g _ _ _ => some (h, g)
  | .pand h g _ _ _ => some (h, g)
  | .por h g _ _ _ => some (h, g)
  | .pxor h g _ _ _ => some (h, g)
  | .pandn h g _ _ _ => some (h, g)
  | .ld8u h g _ _ _ _ => some (h, g)
  | .ld16u h g _ _ _ _ => some (h, g)
  | .ld32u h g _ _ _ _ => some (h, g)
  | .ld64 h g _ _ _ _ => some (h, g)
  | .ld8s h g _ _ _ _ => some (h, g)
  | .ld16s h g _ _ _ _ => some (h, g)
  | .ld32s h g _ _ _ _ => some (h, g)
  | .st8 h g _ _ _ _ => some (h, g)
  | .st16 h g _ _ _ _ => some (h, g)
  | .st32 h g _ _ _ _ => some (h, g)
  | .st64 h g _ _ _ _ => some (h, g)
  | .aadd32 h g _ _ _ => some (h, g)
  | .aadd64 h g _ _ _ => some (h, g)
  | .aminu64 h g _ _ _ => some (h, g)
  | .amaxu64 h g _ _ _ => some (h, g)
  | .aor64 h g _ _ _ => some (h, g)
  | .aand64 h g _ _ _ => some (h, g)
  | .aswap64 h g _ _ _ => some (h, g)
  | .acas64 h g _ _ _ _ => some (h, g)
  | .afadd32 h g _ _ _ => some (h, g)
  | .br h g _ => some (h, g)
  | .bri h g _ => some (h, g)
  | .call h g _ _ => some (h, g)
  | .calli h g _ _ => some (h, g)
  | .li h g _ _ => some (h, g)
  | .lih h g _ _ => some (h, g)
  | .qgather h g _ _ _ => some (h, g)
  | .qlookup h g _ _ _ => some (h, g)
  | .qchain h g _ _ _ => some (h, g)
  | .qmat h g _ _ _ => some (h, g)
  | .qsend h g _ _ _ => some (h, g)
  | .qwait h g _ _ => some (h, g)
  | .qpoll h g _ _ => some (h, g)
  | .qdrainall h g _ => some (h, g)
  | .harrive h g _ _ _ => some (h, g)
  | .hwait h g _ _ _ => some (h, g)
  | .hrelone h g _ _ _ => some (h, g)
  | .hrelall h g _ _ _ => some (h, g)
  | .hadd h g _ _ _ => some (h, g)
  | .htest h g _ _ _ => some (h, g)
  | .karrive h g _ _ _ => some (h, g)
  | .kwait h g _ _ _ => some (h, g)
  | .nop h g => some (h, g)
  | .mfs h g _ _ => some (h, g)
  | .mts h g _ _ => some (h, g)
  | .mfence h g => some (h, g)
  | .spawn h g _ _ => some (h, g)
  | .tend h g _ => some (h, g)
  | _ => none

/-- The word of every strand instruction, with all its operands, reads back as that instruction, and a word of class 0xB to 0xF as ILLEGAL (03 R99-R102).
A guard that evaluates to 0 turns its instruction off: it changes no register, memory or queue state, raises no fault and does not block; the pc passes
it. With PRED 0 and PNEG 0 the guard never does. A hart that is not READY issues nothing, and a strand whose word at its pc spells another instruction than
the one a command names is left as it is. -/
def Obligations.GuardedOff : Prop :=
  (∀ (i : Instr) (h : Hart) (w : Nat), encodeStrand i = some (h, w) → w < 2 ^ 64 ∧ decodeStrand h w = i ∧ instrOf i = some (h, guardAt w)) ∧
  (∀ (h : Hart) (w : Nat), 0xB * 2 ^ 60 ≤ w → w < 2 ^ 64 → decodeStrand h w = .illegal h (guardAt w)) ∧
  ∀ (s : State) (c : Instr) (h : Hart) (g : Guard), Canonical s → instrOf c = some (h, g) →
    ((hart s h).st ≠ .ready → exec c s = .next s) ∧
    (∀ p n, h = .strand p n → reachable s (hart s h).pc.toNat = true → readCause s (hart s h).pc.toNat 8 = none →
      decodeStrand h (readNat s (hart s h).pc.toNat 8) ≠ c → exec c s = .next s) ∧
    ((hart s h).st = .ready → Fetches s c h → guardOn s h g = false →
      ∃ t, exec c s = .next t ∧ OnlyHart s t h ∧ hart t h = { hart s h with pc := (hart s h).pc + 8 }) ∧
    guardOn s h ⟨false, 0⟩ = true

/-! ### Loads, stores and atomics -/

/-- A load: its hart, guard, destination, base register, SPACE, offset, size in bytes and the extension of what it reads (03 R102, R116). -/
def Sys2Proof.Machine.loadOf : Instr → Option (Hart × Guard × Reg × Reg × Bool × BitVec 32 × Nat × (Nat → Word))
  | .ld8u h g rd a sp i => some (h, g, rd, a, sp, i, 1, BitVec.ofNat 64)
  | .ld16u h g rd a sp i => some (h, g, rd, a, sp, i, 2, BitVec.ofNat 64)
  | .ld32u h g rd a sp i => some (h, g, rd, a, sp, i, 4, BitVec.ofNat 64)
  | .ld64 h g rd a sp i => some (h, g, rd, a, sp, i, 8, BitVec.ofNat 64)
  | .ld8s h g rd a sp i => some (h, g, rd, a, sp, i, 1, fun n => (BitVec.ofNat 8 n).signExtend 64)
  | .ld16s h g rd a sp i => some (h, g, rd, a, sp, i, 2, fun n => (BitVec.ofNat 16 n).signExtend 64)
  | .ld32s h g rd a sp i => some (h, g, rd, a, sp, i, 4, fun n => (BitVec.ofNat 32 n).signExtend 64)
  | _ => none

/-- The address value of a load or store: the base register plus the sign-extended offset, modulo 2^64. -/
def Sys2Proof.Machine.addrOfAccess (s : State) (h : Hart) (a : Reg) (i : BitVec 32) : Nat := (reg s h a + i.signExtend 64).toNat

/-- A load from device memory writes the little-endian value at its address, extended, to rd and changes nothing else; it needs a naturally
aligned address of this device that memory backs and that reads without error, and otherwise ends with the lowest cause that holds. -/
def Obligations.Loads : Prop :=
  ∀ (s : State) (c : Instr) (h : Hart) (g : Guard) (rd a : Reg) (i : BitVec 32) (n : Nat) (ext : Nat → Word),
    Canonical s → loadOf c = some (h, g, rd, a, false, i, n, ext) → Runs s c h g →
    let s' := issued s h
    let w := addrOfAccess s h a i
    (∀ d, w % n = 0 → deviceAddr s' w = some d → reachable s' d = true → readCause s' d n = none →
      ∃ t, exec c s = .next t ∧ Retired s t h rd (ext (readNat s d n))) ∧
    (w % n ≠ 0 → exec c s = .next (demandFault s' h 2 w)) ∧
    (w % n = 0 → deviceAddr s' w = none → exec c s = .next (demandFault s' h 3 w)) ∧
    (∀ d, w % n = 0 → deviceAddr s' w = some d → reachable s' d = false → exec c s = .next (demandFault s' h 3 w)) ∧
    (∀ d k, w % n = 0 → deviceAddr s' w = some d → reachable s' d = true → readCause s' d n = some k →
      exec c s = .next (demandFault (if k = 5 then badRead s' d n else s') h k w))

/-- A store: its hart, guard, data register, base register, SPACE, offset and size in bytes. -/
def Sys2Proof.Machine.storeOf : Instr → Option (Hart × Guard × Reg × Reg × Bool × BitVec 32 × Nat)
  | .st8 h g rd a sp i => some (h, g, rd, a, sp, i, 1)
  | .st16 h g rd a sp i => some (h, g, rd, a, sp, i, 2)
  | .st32 h g rd a sp i => some (h, g, rd, a, sp, i, 4)
  | .st64 h g rd a sp i => some (h, g, rd, a, sp, i, 8)
  | _ => none

/-- Memory after a store of `n` bytes of a value at an address: those bytes hold the value's low bytes in order, every other byte is as before. -/
def Sys2Proof.Machine.Stored (s t : State) (d n v : Nat) : Prop :=
  ∀ b, byteAt t b = if d ≤ b ∧ b < d + n then BitVec.ofNat 8 (v / 256 ^ (b - d)) else byteAt s b

/-- What a store or atomic leaves as it was beside memory: every other hart, the clock, the tick, tasks, hitches, tables and units. -/
def Sys2Proof.Machine.OnlyMemory (s t : State) (h : Hart) : Prop :=
  (∀ k, k ≠ h → hart t k = hart s k) ∧ t.now = s.now ∧ t.tsq = s.tsq ∧ t.sch = s.sch ∧ t.hit = s.hit ∧ t.emb = s.emb ∧ t.plc = s.plc ∧
    t.hws = s.hws ∧ t.upd = s.upd ∧ t.hostMem = s.hostMem ∧ t.ctrls = s.ctrls ∧ t.pending = s.pending

/-- A store to device memory writes the low bytes of its data register at its address and nothing else of memory; a write that falls to a LOST
channel is dropped, and one to a part of a unit that reads uncorrectable waits outside memory until the unit is written whole. No register, predicate or flag changes. It needs a naturally aligned address of this device that memory backs outside a
protected page, and otherwise ends with the lowest cause that holds. -/
def Obligations.Stores : Prop :=
  ∀ (s : State) (c : Instr) (h : Hart) (g : Guard) (rd a : Reg) (i : BitVec 32) (n : Nat),
    Canonical s → storeOf c = some (h, g, rd, a, false, i, n) → Runs s c h g →
    let s' := issued s h
    let w := addrOfAccess s h a i
    (∀ d, w % n = 0 → deviceAddr s' w = some d → reachable s' d = true → protectedAt s' d n = false →
      ∃ t, exec c s = .next t ∧ hart t h = { hart s h with pc := (hart s h).pc + 8 } ∧ OnlyMemory s t h ∧
        (chanLost s' d = false → unitBad s' d n = false → Stored s t d n (reg s h rd).toNat) ∧ (∀ b, b / 64 ≠ d / 64 → byteAt t b = byteAt s b) ∧
        (chanLost s' d = true → ∀ b, byteAt t b = byteAt s b)) ∧
    (w % n ≠ 0 → exec c s = .next (demandFault s' h 2 w)) ∧
    (w % n = 0 → deviceAddr s' w = none → exec c s = .next (demandFault s' h 3 w)) ∧
    (∀ d, w % n = 0 → deviceAddr s' w = some d → reachable s' d = false → exec c s = .next (demandFault s' h 3 w)) ∧
    (∀ d, w % n = 0 → deviceAddr s' w = some d → reachable s' d = true → protectedAt s' d n = true → exec c s = .next (demandFault s' h 4 w))

/-- An atomic: its hart, guard, destination, address register, size, and the value it writes for the old one, if it writes one (03 R102, R104). -/
def Sys2Proof.Machine.atomicOf (s : State) : Instr → Option (Hart × Guard × Reg × Reg × Nat × (Nat → Option Nat) × (Nat → Nat))
  | .aadd32 h g rd a b => some (h, g, rd, a, 4, fun o => some ((o + (reg s h b).toNat) % 2 ^ 32), fun _ => 0)
  | .aadd64 h g rd a b => some (h, g, rd, a, 8, fun o => some ((o + (reg s h b).toNat) % 2 ^ 64), fun _ => 0)
  | .aminu64 h g rd a b => some (h, g, rd, a, 8, fun o => some (min o (reg s h b).toNat), fun _ => 0)
  | .amaxu64 h g rd a b => some (h, g, rd, a, 8, fun o => some (max o (reg s h b).toNat), fun _ => 0)
  | .aor64 h g rd a b => some (h, g, rd, a, 8, fun o => some (BitVec.ofNat 64 o ||| reg s h b).toNat, fun _ => 0)
  | .aand64 h g rd a b => some (h, g, rd, a, 8, fun o => some (BitVec.ofNat 64 o &&& reg s h b).toNat, fun _ => 0)
  | .aswap64 h g rd a b => some (h, g, rd, a, 8, fun _ => some (reg s h b).toNat, fun _ => 0)
  | .acas64 h g rd a b c => some (h, g, rd, a, 8, fun o => if o = (reg s h b).toNat then some (reg s h c).toNat else none, fun _ => 0)
  | .afadd32 h g rd a b => some (h, g, rd, a, 4, fun o => some (addF o ((reg s h b).toNat % 2 ^ 32)).1, fun o => (addF o ((reg s h b).toNat % 2 ^ 32)).2)
  | _ => none

/-- An atomic returns the old value at its address in rd and writes the new one there in the same step; ACAS64 writes only where the old value
equals its operand. It reaches HBM and scratchpads alone, at a naturally aligned address of this
device that memory backs outside a protected page and that reads without error, and otherwise ends with the lowest cause that holds. -/
def Obligations.Atomics : Prop :=
  ∀ (s : State) (c : Instr) (h : Hart) (g : Guard) (rd a : Reg) (n : Nat) (new : Nat → Option Nat) (fl : Nat → Nat),
    Canonical s → atomicOf s c = some (h, g, rd, a, n, new, fl) → Runs s c h g →
    let s' := issued s h
    let w := (reg s h a).toNat
    (∀ d, w % n = 0 → deviceAddr s' w = some d → reachable s' d = true → space d ≠ .slow → protectedAt s' d n = false → readCause s' d n = none →
      ∃ t, exec c s = .next t ∧ OnlyMemory s t h ∧
        hart t h = { (hart s h).setReg rd (BitVec.ofNat 64 (readNat s d n)) with
                     pc := (hart s h).pc + 8, fflags := (hart s h).fflags ||| BitVec.ofNat 5 (fl (readNat s d n)) } ∧
        (∀ v, new (readNat s d n) = some v → Stored s t d n v) ∧ (new (readNat s d n) = none → ∀ b, byteAt t b = byteAt s b)) ∧
    (w % n ≠ 0 → exec c s = .next (demandFault s' h 2 w)) ∧
    (w % n = 0 → deviceAddr s' w = none → exec c s = .next (demandFault s' h 3 w)) ∧
    (∀ d, w % n = 0 → deviceAddr s' w = some d →
      ((space d = .slow ∨ reachable s' d = false) → exec c s = .next (demandFault s' h 3 w)) ∧
      (space d ≠ .slow → reachable s' d = true → protectedAt s' d n = true → exec c s = .next (demandFault s' h 4 w)) ∧
      ∀ k, space d ≠ .slow → reachable s' d = true → protectedAt s' d n = false → readCause s' d n = some k →
        exec c s = .next (demandFault (if k = 5 then badRead s' d n else s') h k w))

/-- Control space belongs to control cores: a strand's load or store with SPACE 1 is ILLEGAL; a control core reads back from its local memory
what it stores there, reads and writes the device's registers as a source of its own, reads the plan buffers, stores into NEXT, faults PROTECT on a
store into ACTIVE and ADDR outside every range (03 R129, R131). -/
def Obligations.ControlSpace : Prop :=
  let outside := fun w : Nat => (0x4000000 ≤ w ∧ w < 0x10000000) ∨ (0x10800000 ≤ w ∧ w < 0x20000000) ∨ 0x20100000 ≤ w
  (∀ (s : State) (c : Instr) (h : Hart) (g : Guard) (rd a : Reg) (i : BitVec 32) (n : Nat) (ext : Nat → Word),
    Canonical s → loadOf c = some (h, g, rd, a, true, i, n, ext) → Runs s c h g →
    let w := addrOfAccess s h a i
    (∀ p k, h = .strand p k → exec c s = .next (illegal (issued s h) h)) ∧
    (∀ k, h = .ctrl k → w % n ≠ 0 → exec c s = .next (demandFault s h 2 w)) ∧
    (∀ k, h = .ctrl k → w % n = 0 →
      (∀ o, w = 0x10000000 + o → o < 0x400000 → ∃ t, exec c s = .next t ∧ Retired s t h rd (ext (planNat s.tsq.planActive o n))) ∧
      (∀ o, w = 0x10400000 + o → o < 0x400000 → ∃ t, exec c s = .next t ∧ Retired s t h rd (ext (planNat s.tsq.planNext o n))) ∧
      (∀ o, w = 0x20000000 + o → o < 0x100000 → ∃ t, exec c s = .next t ∧ Retired s t h rd (ext (planNat (ctrlGet s k.val).localMem o n))) ∧
      (w < 0x4000000 → exec c s = .next (retire { s with freeCtr := s.freeCtr + 2 } h rd (ext (leNat (barRead s (srcCtrl + k.val) w n))))) ∧
      (outside w → exec c s = .next (demandFault s h 3 w)))) ∧
  ∀ (s : State) (c : Instr) (h : Hart) (g : Guard) (rd a : Reg) (i : BitVec 32) (n : Nat),
    Canonical s → storeOf c = some (h, g, rd, a, true, i, n) → Runs s c h g →
    let w := addrOfAccess s h a i
    let bytes := natLe n (reg s h rd).toNat
    (∀ p k, h = .strand p k → exec c s = .next (illegal (issued s h) h)) ∧
    (∀ k, h = .ctrl k → w % n ≠ 0 → exec c s = .next (demandFault s h 2 w)) ∧
    (∀ k, h = .ctrl k → w % n = 0 →
      (∀ o, w = 0x20000000 + o → o < 0x100000 →
        ∃ t, exec c s = .next t ∧ hart t h = { hart s h with pc := (hart s h).pc + 8 } ∧ t = { s with harts := t.harts, ctrls := t.ctrls } ∧
          (ctrlGet t k.val).localMem = bufPut (ctrlGet s k.val).localMem o bytes) ∧
      (∀ o, w = 0x10400000 + o → o < 0x400000 →
        ∃ t, exec c s = .next t ∧ hart t h = { hart s h with pc := (hart s h).pc + 8 } ∧ t.tsq.planNext = bufPut s.tsq.planNext o bytes ∧
          t.tsq.plan = (if planSealed (bufPut s.tsq.planNext o bytes) then .sealed else .building)) ∧
      (0x10000000 ≤ w → w < 0x10400000 → exec c s = .next (demandFault s h 4 w)) ∧
      (w < 0x4000000 → exec c s = .next (nextPc (regWrite s (srcCtrl + k.val) w n (reg s h rd).toNat) h)) ∧
      (outside w → exec c s = .next (demandFault s h 3 w)))

/-! ### Special registers, fences, ILLEGAL -/

/-- NOP and MFENCE only move the pc on; MFS writes the special register named to rd (CYCLES as log entry 17 counts it, a DESIGN CHOICE), MTS writes FFLAGS alone from bits 4..0 and is ILLEGAL for any
other index, as MFS is for an index not listed (03 R102, R114, R118). -/
def Obligations.SpecialRegisters : Prop :=
  ∀ (s : State) (h : Hart) (g : Guard) (rd a : Reg) (x : BitVec 12), Canonical s →
    (Runs s (.nop h g) h g → ∃ t, exec (.nop h g) s = .next t ∧ OnlyHart s t h ∧ hart t h = { hart s h with pc := (hart s h).pc + 8 }) ∧
    (Runs s (.mfence h g) h g → ∃ t, exec (.mfence h g) s = .next t ∧ OnlyHart s t h ∧ hart t h = { hart s h with pc := (hart s h).pc + 8 }) ∧
    (Runs s (.mfs h g rd 0x006) h g → ∃ t, exec (.mfs h g rd 0x006) s = .next t ∧ Retired s t h rd (BitVec.ofNat 64 s.boot.dev)) ∧
    (Runs s (.mfs h g rd 0x007) h g → ∃ t, exec (.mfs h g rd 0x007) s = .next t ∧ Retired s t h rd (BitVec.ofNat 64 s.tsq.tick)) ∧
    (Runs s (.mfs h g rd 0x008) h g → ∃ t, exec (.mfs h g rd 0x008) s = .next t ∧ Retired s t h rd (BitVec.ofNat 64 s.now)) ∧
    (Runs s (.mfs h g rd 0x00A) h g → ∃ t, exec (.mfs h g rd 0x00A) s = .next t ∧ Retired s t h rd (BitVec.ofNat 64 (applyAt s))) ∧
    (Runs s (.mfs h g rd 0x020) h g → ∃ t, exec (.mfs h g rd 0x020) s = .next t ∧ Retired s t h rd ((hart s h).fflags.zeroExtend 64)) ∧
    (∀ p n, h = .strand p n →
      (Runs s (.mfs h g rd 0x000) h g → ∃ t, exec (.mfs h g rd 0x000) s = .next t ∧ Retired s t h rd (BitVec.ofNat 64 (hart s h).task)) ∧
      (Runs s (.mfs h g rd 0x003) h g → ∃ t, exec (.mfs h g rd 0x003) s = .next t ∧ Retired s t h rd (BitVec.ofNat 64 n.val)) ∧
      (Runs s (.mfs h g rd 0x005) h g → ∃ t, exec (.mfs h g rd 0x005) s = .next t ∧ Retired s t h rd (BitVec.ofNat 64 p.val)) ∧
      (Runs s (.mfs h g rd 0x009) h g → ∃ t, exec (.mfs h g rd 0x009) s = .next t ∧ Retired s t h rd (BitVec.ofNat 64 ((s.now - (hart s h).startAt) * 3 / 5))) ∧
      (Runs s (.mfs h g rd 0x00B) h g → ∃ t, exec (.mfs h g rd 0x00B) s = .next t ∧ Retired s t h rd (BitVec.ofNat 64 (0x10000000000 + p.val * 0x800000))) ∧
      ∀ k, taskGet s (hart s h).task = some k →
        (Runs s (.mfs h g rd 0x001) h g → ∃ t, exec (.mfs h g rd 0x001) s = .next t ∧ Retired s t h rd (BitVec.ofNat 64 k.desc.flow)) ∧
        (Runs s (.mfs h g rd 0x002) h g → ∃ t, exec (.mfs h g rd 0x002) s = .next t ∧ Retired s t h rd (BitVec.ofNat 64 k.desc.prio)) ∧
        (Runs s (.mfs h g rd 0x004) h g → ∃ t, exec (.mfs h g rd 0x004) s = .next t ∧ Retired s t h rd (BitVec.ofNat 64 k.lcore)) ∧
        ∀ i : Nat, i < 4 →
          let low := BitVec.ofNat 12 (0x010 + 2 * i)
          let high := BitVec.ofNat 12 (0x011 + 2 * i)
          (Runs s (.mfs h g rd low) h g → ∃ t, exec (.mfs h g rd low) s = .next t ∧ Retired s t h rd (BitVec.ofNat 64 (regionBounds (k.desc.regions.getD i 0)).1)) ∧
          (Runs s (.mfs h g rd high) h g → ∃ t, exec (.mfs h g rd high) s = .next t ∧ Retired s t h rd (BitVec.ofNat 64 (regionBounds (k.desc.regions.getD i 0)).2))) ∧
    (∀ k, h = .ctrl k → ∀ y : BitVec 12, y ∈ [0x000, 0x001, 0x002, 0x003, 0x004, 0x005, 0x009, 0x00B, 0x010, 0x017] →
      Runs s (.mfs h g rd y) h g → ∃ t, exec (.mfs h g rd y) s = .next t ∧ Retired s t h rd 0) ∧
    (Runs s (.mts h g a 0x020) h g → ∃ t, exec (.mts h g a 0x020) s = .next t ∧ OnlyHart s t h ∧
      hart t h = { hart s h with pc := (hart s h).pc + 8, fflags := (reg s h a).truncate 5 }) ∧
    (x ≠ 0x020 → Runs s (.mts h g a x) h g → exec (.mts h g a x) s = .next (illegal (issued s h) h)) ∧
    ((0x00C ≤ x ∧ x ≤ 0x00F) ∨ (0x018 ≤ x ∧ x ≤ 0x01F) ∨ 0x021 ≤ x → Runs s (.mfs h g rd x) h g → exec (.mfs h g rd x) s = .next (illegal (issued s h) h))

/-! ### Commands of the engines (class 0x8) -/

/-- An instruction that issues a command: its hart, guard, destination, address and dependency registers, the command's kind and the size of its
descriptor in bytes (03 R102, R106). -/
def Sys2Proof.Machine.queueOf : Instr → Option (Hart × Guard × Reg × Reg × Reg × CmdKind × Nat)
  | .qgather h g rd a b => some (h, g, rd, a, b, .gather, 64)
  | .qlookup h g rd a b => some (h, g, rd, a, b, .lookup, 64)
  | .qchain h g rd a b => some (h, g, rd, a, b, .chain, 256)
  | .qmat h g rd a b => some (h, g, rd, a, b, .mat, 64)
  | .qsend h g rd a b => some (h, g, rd, a, b, .send, 64)
  | _ => none

/-- A command issue copies the descriptor at scratchpad offset x into the core's queue under the next id, which goes to rd; ids run from 1 to
65,535. A dependency that is not outstanding at the issue is satisfied at once. A misaligned offset faults MISALIGN, one outside the scratchpad ADDR; with 256 commands in the queue the strand waits for room; a control
core has no engines (03 R102, R106, R107, R129). -/
def Obligations.CommandIssue : Prop :=
  ∀ (s : State) (c : Instr) (h : Hart) (g : Guard) (rd a b : Reg) (kind : CmdKind) (size : Nat),
    Canonical s → queueOf c = some (h, g, rd, a, b, kind, size) → Runs s c h g →
    let s' := issued s h
    let x := (reg s h a).toNat
    (∀ k, h = .ctrl k → exec c s = .next (illegal s h)) ∧
    (∀ p n, h = .strand p n →
      (x % size ≠ 0 → exec c s = .next (demandFault s' h 2 x)) ∧
      (x % size = 0 → 0x400000 ≤ x → exec c s = .next (demandFault s' h 3 x)) ∧
      (x % size = 0 → x < 0x400000 → 256 ≤ (coreGet s p.val).cmds.length →
        ∃ t, exec c s = .next t ∧ OnlyHart s t h ∧ (hart t h).st = .wait ∧ (hart t h).wait = .queueRoom ∧ (hart t h).pc = (hart s h).pc) ∧
      (x % size = 0 → x < 0x400000 → (coreGet s p.val).cmds.length < 256 →
        let id := (coreGet s p.val).nextId
        ∃ t, exec c s = .next t ∧ t = { s' with harts := t.harts, cores := t.cores } ∧ (∀ k, k ≠ h → hart t k = hart s k) ∧
          hart t h = { (hart s h).setReg rd (BitVec.ofNat 64 id) with
                       pc := (hart s h).pc + 8, deadline := 0, drain := (hart s h).drain ++ [(id, none)] } ∧
          (coreGet t p.val).nextId = (if id = 65535 then 1 else id + 1) ∧
          (coreGet t p.val).cmds = (coreGet s p.val).cmds ++
            [⟨id, kind, readBytes s (spBase p.val + x) size, if ∃ d ∈ (coreGet s p.val).cmds, d.id = (reg s h b).toNat then (reg s h b).toNat else 0,
              (hart s h).task, n.val, false, 0, [], 0, 0, [], [], [], false, []⟩]))

/-- QWAIT and QPOLL name their command by x[15:0], with x[63:16] zero. While x names an outstanding command QWAIT holds the strand in WAIT for it and
QPOLL returns 0; when it does not and its place holds x, QWAIT returns the recorded status at once and QPOLL 1; otherwise QWAIT returns STALE_ID and
QPOLL 1. Nothing faults. QDRAINALL waits while a command issued since the last one runs, and else returns the first status that is not 0 (03 R102,
R108). -/
def Obligations.CommandWaits : Prop :=
  ∀ (s : State) (p : Fin 272) (n : Fin 64) (g : Guard) (rd a : Reg), Canonical s →
    let h := Hart.strand p n
    let x := (reg s h a).toNat
    let live := 1 ≤ x ∧ x < 65536 ∧ ∃ c ∈ (coreGet s p.val).cmds, c.id = x
    (live → Runs s (.qwait h g rd a) h g → ∃ t, exec (.qwait h g rd a) s = .next t ∧ OnlyHart s t h ∧
      hart t h = { hart s h with st := .wait, wait := .command x, deadline := waitDeadline (issued s h) }) ∧
    (live → Runs s (.qpoll h g rd a) h g → ∃ t, exec (.qpoll h g rd a) s = .next t ∧ Retired s t h rd 0) ∧
    (∀ st, ¬live → x ≠ 0 → pfind (coreGet s p.val).places (x % 4096) = some (x, st) →
      Runs s (.qwait h g rd a) h g → ∃ t, exec (.qwait h g rd a) s = .next t ∧ Retired s t h rd (BitVec.ofNat 64 st)) ∧
    (¬live → (x = 0 ∨ ∀ st, pfind (coreGet s p.val).places (x % 4096) ≠ some (x, st)) →
      Runs s (.qwait h g rd a) h g → ∃ t, exec (.qwait h g rd a) s = .next t ∧ Retired s t h rd 0xFF) ∧
    (¬live → Runs s (.qpoll h g rd a) h g → ∃ t, exec (.qpoll h g rd a) s = .next t ∧ Retired s t h rd 1) ∧
    ((∃ d ∈ (hart s h).drain, d.2 = none) → Runs s (.qdrainall h g rd) h g → ∃ t, exec (.qdrainall h g rd) s = .next t ∧ OnlyHart s t h ∧
      hart t h = { hart s h with st := .wait, wait := .drain, deadline := waitDeadline (issued s h) }) ∧
    ((∀ d ∈ (hart s h).drain, d.2 ≠ none) → Runs s (.qdrainall h g rd) h g → ∃ t, exec (.qdrainall h g rd) s = .next t ∧ OnlyHart s t h ∧
      hart t h = { (hart s h).setReg rd (BitVec.ofNat 64 ((((hart s h).drain.filterMap (·.2)).find? (· ≠ 0)).getD 0)) with
                   pc := (hart s h).pc + 8, drain := [] })

/-! ### Tasks -/

/-- SPAWN: a descriptor the scheduler refuses gives status 1 and leaves the tasks as they are; one that is due at once and finds room gives status 0
and a READY task under the next task id, one that is due later and finds room a DELAYED one; one that finds its ready list full holds the strand in WAIT (03 R102, R105; 10 R384-R387, R396). -/
def Obligations.SpawnsTasks : Prop :=
  ∀ (s : State) (p : Fin 272) (n : Fin 64) (g : Guard) (rd a : Reg), Canonical s →
    let h := Hart.strand p n
    let s' := issued s h
    let x := (reg s h a).toNat
    let b := readBytes s (spBase p.val + x) 128
    let d := readDesc b
    let id := rget s' regSchTaskId
    let l := (target s' d id none false).1
    let later := s.now < dueAt s' (s.tsq.tick + d.delayTicks) d.dueOff ∧ (0 < d.delayTicks ∨ 0 < d.dueOff)
    (x % 128 ≠ 0 → Runs s (.spawn h g rd a) h g → exec (.spawn h g rd a) s = .next (demandFault s' h 2 x)) ∧
    (x % 128 = 0 → 0x400000 ≤ x → Runs s (.spawn h g rd a) h g → exec (.spawn h g rd a) s = .next (demandFault s' h 3 x)) ∧
    (x % 128 = 0 → x < 0x400000 → badDesc s' b true = true →
      Runs s (.spawn h g rd a) h g → ∃ t, exec (.spawn h g rd a) s = .next t ∧ reg t h rd = (if rd.val = 0 then 0 else 1) ∧ (hart t h).pc = (hart s h).pc + 8 ∧ t.sch = s.sch ∧
        t.mem = s.mem) ∧
    (x % 128 = 0 → x < 0x400000 → badDesc s' b true = false → later → delayLen s (dieOf s' l) < 65536 →
      Runs s (.spawn h g rd a) h g → ∃ t y, exec (.spawn h g rd a) s = .next t ∧ reg t h rd = 0 ∧ (hart t h).pc = (hart s h).pc + 8 ∧ t.mem = s.mem ∧
        taskGet t id = some y ∧ y.state = .delayed ∧ y.desc = d ∧ y.attempt = 1 ∧ y.dueTick = s.tsq.tick + d.delayTicks ∧ y.stamp = s.now ∧ y.die = dieOf s' l) ∧
    (x % 128 = 0 → x < 0x400000 → badDesc s' b true = false → ¬later →
      (listLen s l d.prio < 1024 →
        Runs s (.spawn h g rd a) h g → ∃ t y, exec (.spawn h g rd a) s = .next t ∧ reg t h rd = 0 ∧ (hart t h).pc = (hart s h).pc + 8 ∧ t.mem = s.mem ∧
          taskGet t id = some y ∧ y.state = .ready ∧ y.desc = d ∧ y.attempt = 1 ∧ y.lcore = l ∧ y.stamp = s.now ∧ y.gated = false) ∧
      (1024 ≤ listLen s l d.prio →
        Runs s (.spawn h g rd a) h g → ∃ t, exec (.spawn h g rd a) s = .next t ∧ (hart t h).st = .wait ∧ (hart t h).wait = .listRoom x ∧ (hart t h).pc = (hart s h).pc ∧
          t.sch.tasks = s.sch.tasks ∧ t.mem = s.mem))

/-- TEND takes the result word from x[31:0] and holds the strand, with no wait deadline, until the task's commands are complete; then its OK outcome
goes to the commit arbiter and the strand is IDLE. An end that falls at the apply point is LATE instead. A control core may run neither TEND nor SPAWN (03 R96, R102, R129; 10 R397).
ILLEGAL ends the strand's task: its attempt is ended ABORTED with cause ILLEGAL and waits at the commit arbiter behind what waits there, and
the strand is IDLE. On a control core the thread stops (03 R97, R102, R126; 15 R584). -/
def Obligations.TaskEnds : Prop :=
  (∀ (s : State) (h : Hart) (g : Guard) (rd a : Reg) (x : Task), Canonical s →
    (∀ p n, h = .strand p n → Runs s (.tend h g a) h g → taskGet s (hart s h).task = some x →
      ∃ t, exec (.tend h g a) s = .next t ∧
        hart t h = { hart s h with st := .wait, wait := .ending, deadline := 0 } ∧
        taskGet t (hart s h).task = some { x with state := .ending, result := (reg s h a).toNat % 2 ^ 32 } ∧ t.mem = s.mem) ∧
    (∀ k, h = .ctrl k → (Runs s (.tend h g a) h g → exec (.tend h g a) s = .next (illegal s h)) ∧
      (Runs s (.spawn h g rd a) h g → exec (.spawn h g rd a) s = .next (illegal s h))) ∧
    (∀ p n, h = .strand p n → (hart s h).wait = .ending → (∀ c ∈ (coreGet s p.val).cmds, c.task ≠ (hart s h).task) →
      taskGet s (hart s h).task = some x → x.state = .ending → x.pcore = p.val → x.strand = n.val →
      ∃ t, exec (.taskCommitRequest h) s = .next t ∧ (hart t h).st = .idle ∧
        taskGet t (hart s h).task = some { x with state := .ended, endAt := s.now, status := if atApply s then 2 else 0, cause := 0,
                                                  result := if atApply s then 0 else x.result } ∧
        t.sch.arb = s.sch.arb ++ [.final (hart s h).task])) ∧
  ∀ (s : State) (h : Hart) (g : Guard), Canonical s → Runs s (.illegal h g) h g →
    (∀ p n x, h = .strand p n → taskGet s (hart s h).task = some x → x.state = .running → x.pcore = p.val → x.strand = n.val →
      ∃ t, exec (.illegal h g) s = .next t ∧ (hart t h).st = .idle ∧ (hart t h).task = 0 ∧
        taskGet t (hart s h).task = some { x with state := .ended, endAt := s.now, status := if atApply s then 2 else 3,
                                                  cause := if atApply s then 0 else 1, result := 0 } ∧
        t.sch.arb = s.sch.arb ++ [.final (hart s h).task]) ∧
    (∀ k, h = .ctrl k → ∃ t, exec (.illegal h g) s = .next t ∧ (hart t h).st = .idle ∧ t.mem = s.mem ∧ t.sch = s.sch)

/-- TASK_DISPATCH starts the chosen task on the lowest-numbered IDLE strand of the logical core, with its arguments in g1-g8 and every other
register, predicate and flag 0, its latches clear and its count of elapsed cycles at 0 (03 R91; 10 R393). -/
def Obligations.DispatchStartsTasks : Prop :=
  ∀ (s : State) (l p n id : Nat) (x : Task), Canonical s → n < 64 → physOf s l = some p → mayStart s = true → rdyState s (idxCore p) = .ready →
    greyAt s (idxCore p) = false → idleStrand s p = some n → (chooseOwn s l = some (id, x) ∨ (chooseOwn s l = none ∧ chooseSteal s l = some (id, x))) →
    ∃ t, exec (.taskDispatch l) s = .next t ∧ t.mem = s.mem ∧
      taskGet t id = some { x with state := .running, lcore := l, pcore := p, die := p / 68, strand := n, started := true, inRerun := false,
                                   startAt := s.now, mismatches := 0, result := 0 } ∧
      (hartAt t (64 * p + n)).st = .ready ∧ (hartAt t (64 * p + n)).task = id ∧ (hartAt t (64 * p + n)).pc = BitVec.ofNat 48 x.desc.entry ∧
      (hartAt t (64 * p + n)).preds = 0 ∧ (hartAt t (64 * p + n)).fflags = 0 ∧ (hartAt t (64 * p + n)).hLatch = none ∧
      (hartAt t (64 * p + n)).kLatch = none ∧ (∀ h, hartNo h = 64 * p + n → special t h 0x009 = some 0) ∧
      (∀ i : Reg, (hartAt t (64 * p + n)).regs[i] =
        if 1 ≤ i.val ∧ i.val ≤ 8 then BitVec.ofNat 64 (x.desc.args.getD (i.val - 1) 0) else 0) ∧
      ∀ m, m ≠ 64 * p + n → hartAt t m = hartAt s m

/-- The commit point: the first outcome at a die's arbiter is granted. An ended attempt is re-run where its cause, its RERUN bit and its run limit
allow it; otherwise its final record is written to COMP_ADDR, its completion signal falls due and the task is gone. A control core's abort waits at
the arbiter, or is rejected at once for an id never given out; one that is decided while the task has no outcome ends it ABORTED with cause
ABORT, and one that finds the task gone is answered ALREADY_DONE.
A completion signal is an HADD of +1 (10 R398-R404, R415, R416). -/
def Obligations.CommitPoint : Prop :=
  ∀ (s : State) (die k id : Nat) (x : Task), Canonical s →
    (s.sch.arb.find? (arbDie s die) = some (.final id) → taskGet s id = some x → x.state = .ended →
      ∃ t, exec (.commitArbiterGrant die) s = .next t ∧ t.sch.arb = s.sch.arb.erase (.final id) ∧
        (willRerun s x = true → taskGet t id = some { x with state := .rerun } ∧ t.mem = s.mem) ∧
        (willRerun s x = false → t.sch.tasks = pdel s.sch.tasks id ∧
          t.mem = (if x.desc.compAddr = 0 then s else putBytes s x.desc.compAddr (finalRecord id x x.status x.cause x.result)).mem ∧
          t.sch.comp = s.sch.comp ++ (if x.desc.compHitch = 0 then [] else [x.desc.compHitch]))) ∧
    (s.boot.pwrgood = true → k < 20 → bit (rget s (regSchAbortRes k)) 31 = false → id < rget s regSchTaskId →
      exec (.schAbort k id) s = .next { rset s (regSchAbortRes k) (2 ^ 31 + rget s (regSchAbortRes k) % 4) with sch := { s.sch with arb := s.sch.arb ++ [.abort id (.ctrl k)] } }) ∧
    (s.boot.pwrgood = true → k < 20 → bit (rget s (regSchAbortRes k)) 31 = false → rget s regSchTaskId ≤ id →
      exec (.schAbort k id) s = .next (rset s (regSchAbortRes k) 3)) ∧
    (∀ b, s.sch.arb.find? (isAbortOf id) = some (.abort id b) → s.sch.arb.contains (.final id) = false → taskGet s id = some x →
      x.state = .ready →
      ∃ t, exec (.abortArrival id) s = .next t ∧ t.sch.tasks = pdel s.sch.tasks id ∧ t.sch.arb = s.sch.arb.erase (.abort id b) ∧
        t.mem = (if x.desc.compAddr = 0 then s else putBytes s x.desc.compAddr (finalRecord id x 3 0xB 0)).mem) ∧
    (∀ b, s.sch.arb.find? (isAbortOf id) = some (.abort id b) → taskGet s id = none →
      ∃ t, exec (.abortArrival id) s = .next t ∧ t.sch.arb = (if (s.sch.arb.takeWhile fun y => !isAbortOf id y).contains (.final id)
          then s.sch.arb.erase (.final id) else s.sch.arb).erase (.abort id b) ∧ t.mem = s.mem ∧
        ∀ j, b = .ctrl j → rget t (regSchAbortRes j) = 2) ∧
    (∀ b r, s.sch.comp = b :: r →
      ∃ t, exec .compHitchSignal s = .next t ∧ t.sch.comp = r ∧ t.mem = s.mem ∧
        (hitchGet t b).count = (if (hitchGet s b).count + 1 < 2 ^ 32 then (hitchGet s b).count + 1 else (hitchGet s b).count))

/-- Delayed entries, late releases and remote submissions: the first entry in key order whose due instant has come and whose ready list has room
moves to it, with its stamp; a released descriptor enters as room frees, past one whose own list is full; a TASK message is submitted and refused by the scheduler's rules (10 R386, R389-R391). -/
def Obligations.DelayedAndReleased : Prop :=
  ∀ (s : State) (id : Nat) (x : Task) (src tag : Nat) (body : List Byte), Canonical s →
    let l := (target s x.desc id none false).1
    (taskGet s id = some x → dueNow s x = true → firstDue s id x = true → mayStart s = true → listLen s l x.desc.prio < 1024 →
      (∃ t y, exec (.delayEntryDue id) s = .next t ∧ taskGet t id = some y ∧ y.state = .ready ∧ y.lcore = l ∧ y.stamp = s.now ∧ y.desc = x.desc ∧
        t.mem = s.mem) ∧
      (∃ t y, exec (.delayEntryRoom id) s = .next t ∧ taskGet t id = some y ∧ y.state = .ready ∧ y.lcore = l ∧ y.stamp = s.now ∧ y.desc = x.desc ∧
        t.mem = s.mem)) ∧
    (∀ r rest, mayStart s = true → s.sch.releases = r :: rest →
      let b := readBytes s r.addr 128
      let d := readDesc b
      let n := rget s regSchTaskId
      let core := (target s d n r.core false).1
      badDesc s b false = false → listLen s core d.prio < 1024 →
      ∃ t y, exec .releaseLateEntry s = .next t ∧ t.sch.releases = rest ∧ taskGet t n = some y ∧ y.state = .ready ∧ y.lcore = core ∧
        y.req = r.req ∧ y.desc = d ∧ y.gated = false ∧ t.mem = s.mem) ∧
    (∀ r q rest, mayStart s = true → s.sch.releases = r :: q :: rest →
      let n := rget s regSchTaskId
      let c := readBytes s r.addr 128
      let b := readBytes s q.addr 128
      badDesc s c false = false → 1024 ≤ listLen s (target s (readDesc c) n r.core false).1 (readDesc c).prio → badDesc s b false = false →
      listLen s (target s (readDesc b) n q.core false).1 (readDesc b).prio < 1024 →
      ∃ t y, exec .releaseLateEntry s = .next t ∧ t.sch.releases = r :: rest ∧ taskGet t n = some y ∧ y.state = .ready ∧ y.req = q.req ∧
        y.desc = readDesc b ∧ t.mem = s.mem) ∧
    (let b := body.take 128
     let d := readDesc b
     let n := rget s regSchTaskId
     let core := (target s d n none false).1
     s.boot.pwrgood = true → badDesc s b true = false → d.delayTicks = 0 → d.dueOff = 0 → listLen s core d.prio < 1024 →
      ∃ t y, exec (.taskMessageRx src tag body) s = .next t ∧ taskGet t n = some y ∧ y.state = .ready ∧ y.lcore = core ∧ y.desc = d ∧
        y.req = fld body 128 8 ∧ t.mem = s.mem)

/-! ### Hitches and barriers (11) -/

/-- The result word of a hitch instruction: COUNT in [63:32], SENSE in [16], STATUS in [7:0] (11 R420). -/
def Sys2Proof.Machine.resultWord (x : Hitch) (status : Nat) : Word :=
  BitVec.ofNat 64 (x.count % 2 ^ 32 * 2 ^ 32 + (if x.sense then 2 ^ 16 else 0) + status)

/-- What a hitch instruction leaves when it answers at once: the hitch, the result word in rd and the pc moved on. -/
def Sys2Proof.Machine.HitchDone (t : State) (s : State) (h : Hart) (rd : Reg) (id : Nat) (x : Hitch) (status : Nat) : Prop :=
  hitchGet t id = x ∧ reg t h rd = (if rd.val = 0 then 0 else resultWord x status) ∧ (hart t h).st = .ready ∧ (hart t h).pc = (hart s h).pc + 8 ∧
    t.mem = s.mem ∧ ∀ j, j ≠ id → hitchGet t j = hitchGet s j

/-- The operations on a hitch of this device that the caller may use (11 R418-R426): HADD, HTEST, HRELONE and HRELALL. -/
def Obligations.HitchOperations : Prop :=
  ∀ (s : State) (h : Hart) (g : Guard) (rd a b : Reg), Canonical s →
    let id := (reg s h a).toNat
    let y := (reg s h b).toNat
    let x := hitchGet s id
    0 < id → id < 65536 → (∀ p n, h = .strand p n → 0x1000 ≤ id) →
    (∀ r : Nat, (r : Int) = x.count + (BitVec.ofNat 32 y).toInt → r < 2 ^ 32 →
      Runs s (.hadd h g rd a b) h g → ∃ t, exec (.hadd h g rd a b) s = .next t ∧ HitchDone t s h rd id { x with count := r } 0) ∧
    (x.count < 2 ^ 32 → x.count + (BitVec.ofNat 32 y).toInt < 0 ∨ 2 ^ 32 ≤ x.count + (BitVec.ofNat 32 y).toInt →
      Runs s (.hadd h g rd a b) h g → ∃ t, exec (.hadd h g rd a b) s = .next t ∧ HitchDone t s h rd id x 3 ∧ bit (rget t regHitEvents) 0 = true) ∧
    (Runs s (.htest h g rd a b) h g → ∃ t, exec (.htest h g rd a b) s = .next t ∧ HitchDone t s h rd id x (if y % 2 ^ 32 ≤ x.count then 0 else 2)) ∧
    (y = 0 → x.queue = [] → x.credits < 65535 →
      Runs s (.hrelone h g rd a b) h g → ∃ t, exec (.hrelone h g rd a b) s = .next t ∧ HitchDone t s h rd id { x with credits := x.credits + 1 } 9) ∧
    (y = 0 → x.queue = [] → 65535 ≤ x.credits →
      Runs s (.hrelone h g rd a b) h g → ∃ t, exec (.hrelone h g rd a b) s = .next t ∧ HitchDone t s h rd id x 3 ∧ bit (rget t regHitEvents) 0 = true) ∧
    (∀ w r, y = 0 → x.queue = w :: r →
      Runs s (.hrelone h g rd a b) h g → ∃ t, exec (.hrelone h g rd a b) s = .next t ∧ HitchDone t s h rd id { x with queue := r } 0) ∧
    (y = 0 → Runs s (.hrelall h g rd a b) h g → ∃ t, exec (.hrelall h g rd a b) s = .next t ∧ HitchDone t s h rd id { x with queue := [] } 0)

/-- Arriving at a hitch and waiting on it: the arrival that completes the round resets COUNT, flips SENSE and releases every waiter; another takes
the next ticket. HWAIT TAKE takes a credit or a ticket and SPINs; a caller that holds an earlier ticket gives it up first (R758). HELD looks at the
latched ticket, and answers again for one already taken (DEDUCED, log entry 14) (11 R422, R425). -/
def Obligations.HitchWaits : Prop :=
  ∀ (s : State) (h : Hart) (g : Guard) (rd a b : Reg), Canonical s →
    let id := (reg s h a).toNat
    let y := (reg s h b).toNat
    let x := hitchGet s id
    let free := ∀ l, (hart s h).hLatch = some l → l.st ≠ .queued ∧ l.st ≠ .relOne
    0 < id → id < 65536 → (∀ p n, h = .strand p n → 0x1000 ≤ id) →
    (max 1 (y % 2 ^ 32) ≤ x.count + 1 →
      Runs s (.harrive h g rd a b) h g → ∃ t, exec (.harrive h g rd a b) s = .next t ∧ HitchDone t s h rd id { x with count := 0, sense := !x.sense, queue := [] } 1) ∧
    (x.count + 1 < max 1 (y % 2 ^ 32) → free →
      Runs s (.harrive h g rd a b) h g → ∃ t, exec (.harrive h g rd a b) s = .next t ∧
        HitchDone t s h rd id { x with count := x.count + 1, nextTicket := (x.nextTicket + 1) % 2 ^ 32, queue := x.queue ++ [(hartNo h, x.nextTicket)] } 0 ∧
        (hart t h).hLatch = some ⟨id, x.nextTicket, .queued⟩) ∧
    (y = 0 → 0 < x.credits →
      Runs s (.hwait h g rd a b) h g → ∃ t, exec (.hwait h g rd a b) s = .next t ∧ HitchDone t s h rd id { x with credits := x.credits - 1 } 0) ∧
    (y = 0 → x.credits = 0 → free →
      Runs s (.hwait h g rd a b) h g → ∃ t, exec (.hwait h g rd a b) s = .next t ∧ (hart t h).st = .spin ∧ (hart t h).pc = (hart s h).pc ∧
        (hart t h).hLatch = some ⟨id, x.nextTicket, .queued⟩ ∧ (hitchGet t id).queue = x.queue ++ [(hartNo h, x.nextTicket)]) ∧
    (∀ l, (hart s h).hLatch = some l → (l.st = .queued ∨ l.st = .relOne) →
      ∀ c, (c = .harrive h g rd a b ∧ x.count + 1 < max 1 (y % 2 ^ 32) ∨ c = .hwait h g rd a b ∧ y = 0 ∧ x.credits = 0) →
        let left := fun q : Hitch => if l.st = .queued then q.queue.filter fun e => e.2 ≠ l.ticket else q.queue
        Runs s c h g → ∃ t, exec c s = .next t ∧ (hart t h).hLatch = some ⟨id, x.nextTicket, .queued⟩ ∧ t.mem = s.mem ∧
          (hitchGet t id).queue = (if l.hitch = id then left x else x.queue) ++ [(hartNo h, x.nextTicket)] ∧
          (l.hitch ≠ id → (hitchGet t l.hitch).queue = left (hitchGet s l.hitch)) ∧
          t.hit.returned = s.hit.returned ++ (if l.st = .relOne then [l.hitch] else [])) ∧
    (∀ l, y = 1 → (hart s h).hLatch = some l → l.hitch = id →
      (l.st = .queued → Runs s (.hwait h g rd a b) h g → ∃ t, exec (.hwait h g rd a b) s = .next t ∧ (hart t h).st = .spin ∧ (hart t h).pc = (hart s h).pc ∧ hitchGet t id = x) ∧
      (l.st = .relOne ∨ l.st = .relAll ∨ l.st = .taken → Runs s (.hwait h g rd a b) h g → ∃ t, exec (.hwait h g rd a b) s = .next t ∧ HitchDone t s h rd id x 0) ∧
      (l.st = .broken → Runs s (.hwait h g rd a b) h g → ∃ t, exec (.hwait h g rd a b) s = .next t ∧ HitchDone t s h rd id x 8)) ∧
    (y = 1 → (∀ l, (hart s h).hLatch = some l → l.hitch ≠ id) → Runs s (.hwait h g rd a b) h g → ∃ t, exec (.hwait h g rd a b) s = .next t ∧ HitchDone t s h rd id x 6)

/-- A target with a reserved field, a DEV without REMOTE, id 0 or an id below 0x1000 that a strand names is REFUSED, and so is a y that its operation
does not allow: nothing but the count of refusals changes (11 R418, R419, R421, R422). With REMOTE naming another device the operation travels there and the strand waits for the answer, HARRIVE
and HWAIT are REFUSED (11 R427). -/
def Obligations.HitchTargets : Prop :=
  ∀ (s : State) (h : Hart) (g : Guard) (rd a b : Reg) (c : Instr), Canonical s →
    let x := reg s h a
    c ∈ [.hadd h g rd a b, .htest h g rd a b, .hrelone h g rd a b, .hrelall h g rd a b, .harrive h g rd a b, .hwait h g rd a b] →
    (x.toNat / 2 ^ 27 ≠ 0 ∨ (x.getLsbD 26 = false ∧ x.toNat / 2 ^ 16 % 2 ^ 10 ≠ 0) ∨ x.toNat % 2 ^ 16 = 0 ∨
        ((∃ p n, h = .strand p n) ∧ x.toNat % 2 ^ 16 < 0x1000) ∨
        ((c = .hrelone h g rd a b ∨ c = .hrelall h g rd a b) ∧ reg s h b ≠ 0) ∨ (c = .hwait h g rd a b ∧ 1 < (reg s h b).toNat) →
      Runs s c h g → ∃ t, exec c s = .next t ∧ t.hit = s.hit ∧ t.mem = s.mem ∧ (hart t h).pc = (hart s h).pc + 8 ∧ (rd.val ≠ 0 → (reg t h rd).toNat % 256 = 4)) ∧
    (x.toNat / 2 ^ 27 = 0 → x.getLsbD 26 = true → x.toNat / 2 ^ 16 % 2 ^ 10 ≠ s.boot.dev → x.toNat % 2 ^ 16 ≠ 0 →
        ((∃ p n, h = .strand p n) → 0x1000 ≤ x.toNat % 2 ^ 16) →
      (c = .harrive h g rd a b ∨ c = .hwait h g rd a b →
        Runs s c h g → ∃ t, exec c s = .next t ∧ t.hit = s.hit ∧ (hart t h).pc = (hart s h).pc + 8 ∧ (rd.val ≠ 0 → (reg t h rd).toNat % 256 = 4)) ∧
      (c = .hadd h g rd a b ∨ c = .htest h g rd a b ∨ ((c = .hrelone h g rd a b ∨ c = .hrelall h g rd a b) ∧ reg s h b = 0) →
        Runs s c h g → ∃ t tag, exec c s = .next t ∧ t.hit = s.hit ∧ (hart t h).st = .wait ∧ (hart t h).wait = .remote tag rd ∧ (hart t h).pc = (hart s h).pc))

/-- What reaches the hitch root beside instructions: a departing waiter's ticket that is still queued is withdrawn, one already released returns
its release, which is applied as a fresh HRELONE; a control core clears a hitch, releasing its waiters with BROKEN (11 R424, R428). -/
def Obligations.HitchRoot : Prop :=
  ∀ (s : State) (k id : Nat), Canonical s →
    (∀ w r, s.hit.withdrawals = w :: r → w.st = .queued →
      ∃ t, exec .ticketWithdraw s = .next t ∧ t.hit.withdrawals = r ∧
        hitchGet t w.hitch = { hitchGet s w.hitch with queue := (hitchGet s w.hitch).queue.filter fun e => e.2 ≠ w.ticket } ∧
        (∀ j, j ≠ w.hitch → hitchGet t j = hitchGet s j) ∧ t.harts = s.harts) ∧
    (∀ w r, s.hit.withdrawals = w :: r → w.st = .relOne →
      ∃ t, exec .ticketWithdraw s = .next t ∧ t.hit.withdrawals = r ∧ t.hit.returned = s.hit.returned ++ [w.hitch] ∧ t.hit.hitches = s.hit.hitches) ∧
    (id ∈ s.hit.returned →
      ∃ t, exec (.returnedRelease id) s = .next t ∧ t.hit.returned = s.hit.returned.erase id ∧
        ((hitchGet s id).queue = [] → (hitchGet s id).credits < 65535 →
          hitchGet t id = { hitchGet s id with credits := (hitchGet s id).credits + 1 }) ∧
        (∀ w r, (hitchGet s id).queue = w :: r → hitchGet t id = { hitchGet s id with queue := r })) ∧
    (k < 20 → 0 < id → id < 65536 →
      ∃ t, exec (.hitClear k id) s = .next t ∧ hitchGet t id = ⟨0, false, 0, 0, []⟩ ∧ (∀ j, j ≠ id → hitchGet t j = hitchGet s j) ∧
        id ∉ t.hit.returned ∧ (∀ w ∈ t.hit.withdrawals, w.hitch = id → w.st = .broken) ∧ t.mem = s.mem)

/-- KARRIVE and KWAIT (11 R430, R434, R435, R438): both complete whatever their operands. An arrival for the caller's current round, or an early one for the next, is counted at the caller's node
and latched; one two rounds ahead returns RETRY; KWAIT returns once the latched round is released and SPINs until then. A barrier number that does
not exist, a y that is not 0, and for a strand a barrier of control firmware (0-63) is REFUSED; a caller that does not participate gets BAD_BARRIER, a
broken barrier BROKEN, a KWAIT without an arrival NOT_HELD. -/
def Obligations.BarrierArrivals : Prop :=
  ∀ (s : State) (h : Hart) (g : Guard) (rd a b : Reg), Canonical s →
    let n := (reg s h a).toNat
    let y := (reg s h b).toNat
    let node := (barGet s n).node (arriveAt h).1
    let i := (arriveAt h).2
    let named := n < 1024 ∧ y = 0 ∧ (isStrand h = true → 64 ≤ n)
    (¬named → ∀ c ∈ [Instr.karrive h g rd a b, .kwait h g rd a b],
      Runs s c h g → ∃ t, exec c s = .next t ∧ t.hit = s.hit ∧ reg t h rd = (if rd.val = 0 then 0 else 4) ∧ (hart t h).pc = (hart s h).pc + 8) ∧
    (named → participates s h n = false → ∀ c ∈ [Instr.karrive h g rd a b, .kwait h g rd a b],
      Runs s c h g → ∃ t, exec c s = .next t ∧ t.hit = s.hit ∧ (rd.val ≠ 0 → (reg t h rd).toNat % 256 = 7) ∧ (hart t h).pc = (hart s h).pc + 8) ∧
    (named → participates s h n = true → (barGet s n).broken = true → ∀ c ∈ [Instr.karrive h g rd a b, .kwait h g rd a b],
      Runs s c h g → ∃ t, exec c s = .next t ∧ t.hit = s.hit ∧ (rd.val ≠ 0 → (reg t h rd).toNat % 256 = 8) ∧ (hart t h).pc = (hart s h).pc + 8) ∧
    (named → participates s h n = true → (barGet s n).broken = false →
      (bit (node.arr node.cur) i = false →
        Runs s (.karrive h g rd a b) h g → ∃ t, exec (.karrive h g rd a b) s = .next t ∧ (hart t h).kLatch = some (n, node.round % 4) ∧ (hart t h).pc = (hart s h).pc + 8 ∧
          reg t h rd = (if rd.val = 0 then 0 else BitVec.ofNat 64 (node.round % 4 * 2 ^ 16)) ∧
          barGet t n = (barGet s n).putNode (arriveAt h).1
            ((node.setArr node.cur (orBit (node.arr node.cur) i)).setCount node.cur (node.count node.cur + 1))) ∧
      (bit (node.arr node.cur) i = true → bit (node.arr !node.cur) i = false →
        Runs s (.karrive h g rd a b) h g → ∃ t, exec (.karrive h g rd a b) s = .next t ∧ (hart t h).kLatch = some (n, (node.round + 1) % 4) ∧ (hart t h).pc = (hart s h).pc + 8 ∧
          reg t h rd = (if rd.val = 0 then 0 else BitVec.ofNat 64 ((node.round + 1) % 4 * 2 ^ 16)) ∧
          barGet t n = (barGet s n).putNode (arriveAt h).1
            ((node.setArr (!node.cur) (orBit (node.arr !node.cur) i)).setCount (!node.cur) (node.count (!node.cur) + 1))) ∧
      (bit (node.arr node.cur) i = true → bit (node.arr !node.cur) i = true →
        Runs s (.karrive h g rd a b) h g → ∃ t, exec (.karrive h g rd a b) s = .next t ∧ t.hit = s.hit ∧ (rd.val ≠ 0 → (reg t h rd).toNat % 256 = 5)) ∧
      (∀ r, (hart s h).kLatch = some (n, r) → (node.round + 4 - r) % 4 = 1 →
        Runs s (.kwait h g rd a b) h g → ∃ t, exec (.kwait h g rd a b) s = .next t ∧ t.hit = s.hit ∧ (hart t h).pc = (hart s h).pc + 8 ∧
          reg t h rd = (if rd.val = 0 then 0 else BitVec.ofNat 64 (r % 4 * 2 ^ 16))) ∧
      (∀ r, (hart s h).kLatch = some (n, r) → (node.round + 4 - r) % 4 ≠ 1 →
        Runs s (.kwait h g rd a b) h g → ∃ t, exec (.kwait h g rd a b) s = .next t ∧ t.hit = s.hit ∧ (hart t h).st = .spin ∧ (hart t h).wait = .barrier rd ∧
          (hart t h).pc = (hart s h).pc) ∧
      ((∀ r, (hart s h).kLatch ≠ some (n, r)) →
        Runs s (.kwait h g rd a b) h g → ∃ t, exec (.kwait h g rd a b) s = .next t ∧ t.hit = s.hit ∧ (rd.val ≠ 0 → (reg t h rd).toNat % 256 = 6)))

/-- The knot tree above the callers: an arrival that does not complete its node is counted there; one that does goes on to the parent node; a release
that reaches a caller's node clears its counter and mask, flips CUR and raises ROUND. A definition written by a control core waits for the switch
stage (11 R431, R433, R434). -/
def Obligations.KnotTree : Prop :=
  ∀ (s : State) (b n k : Nat) (sense : Bool) (entry : List Byte), Canonical s →
    (s.hit.arrivals.find? (fun a => a.1 == b && a.2.1 == n) = some (b, n, sense) → (barGet s b).broken = false → (barGet s b).def_.defined = true →
      n ≠ 500 →
      let node := (barGet s b).node n
      let rest := dropFirst (fun a : Nat × Nat × Bool => a.1 == b && a.2.1 == n) s.hit.arrivals
      ∃ t, exec (.knotNodeArrival b n) s = .next t ∧ barGet t b = (barGet s b).putNode n (node.setCount sense (node.count sense + 1)) ∧
        t.hit.arrivals = (if node.count sense + 1 = knotTarget (barGet s b) n then rest ++ [(b, knotParent n, sense)] else rest) ∧
        t.harts = s.harts ∧ t.mem = s.mem) ∧
    (s.hit.releases.find? (fun a => a.1 == b && a.2.1 == n) = some (b, n, sense) → (barGet s b).broken = false →
      let node := (barGet s b).node n
      ∃ t, exec (.knotReleaseArrival b n) s = .next t ∧
        barGet t b = (barGet s b).putNode n { (node.setCount node.cur 0).setArr node.cur 0 with cur := !node.cur, round := (node.round + 1) % 4 } ∧
        t.harts = s.harts ∧ t.mem = s.mem) ∧
    (s.boot.pwrgood = true → k < 20 → b < 1024 → entry.length = 64 →
      ∃ t, exec (.barrierDefine k b entry) s = .next t ∧ barGet t b = { barGet s b with pendingDef := some (readDef entry) } ∧
        (∀ j, j ≠ b → barGet t j = barGet s j) ∧ t.mem = s.mem)

/-- The waits of strands end: a condition that holds makes a strand in WAIT READY with its pc unchanged, a release seen at a turn answers the
instruction that SPINs, a turn that sees none is only counted, and a deadline that passes before the apply point ends the task with STRAND_TIMEOUT, or
stops a control core; at the apply point the cut-off wins (03 R96-R98; 11 R422, R435). -/
def Obligations.WaitsEnd : Prop :=
  ∀ (s : State) (h : Hart) (rd : Reg), Canonical s →
    ((hart s h).st = .wait → waitOver s h = true →
      ∃ t, exec (.strandWaitEnd h) s = .next t ∧ (hart t h).st = .ready ∧ (hart t h).wait = .nothing ∧ (hart t h).pc = (hart s h).pc ∧
        (hart t h).regs = (hart s h).regs ∧ (∀ k, k ≠ h → hart t k = hart s k) ∧ t = { s with harts := t.harts }) ∧
    (∀ l, (hart s h).st = .spin → (hart s h).wait = .hitch rd → (hart s h).hLatch = some l → (l.st = .relOne ∨ l.st = .relAll) →
      ∃ t, exec (.strandReleaseSeen h) s = .next t ∧ (hart t h).st = .ready ∧ (hart t h).pc = (hart s h).pc + 8 ∧
        reg t h rd = (if rd.val = 0 then 0 else resultWord (hitchGet s (l.hitch % 65536)) 0) ∧ t = { issued s h with harts := t.harts }) ∧
    (∀ l, (hart s h).st = .spin → (hart s h).wait = .hitch rd → (hart s h).hLatch = some l → l.st = .queued →
      exec (.strandReleaseSeen h) s = .next (issued s h)) ∧
    (∀ b r, (hart s h).st = .spin → (hart s h).wait = .barrier rd → (hart s h).kLatch = some (b, r) → (barGet s b).broken = false →
      (((barGet s b).node (arriveAt h).1).round + 4 - r) % 4 = 1 →
      ∃ t, exec (.strandReleaseSeen h) s = .next t ∧ (hart t h).st = .ready ∧ (hart t h).pc = (hart s h).pc + 8 ∧
        reg t h rd = (if rd.val = 0 then 0 else BitVec.ofNat 64 (r % 4 * 2 ^ 16)) ∧ t = { issued s h with harts := t.harts }) ∧
    (((hart s h).st = .wait ∨ (hart s h).st = .spin) → (hart s h).deadline ≠ 0 →
      let s' := advance s (hart s h).deadline
      (s.tsq.running = true → applyAt s ≤ (hart s h).deadline → exec (.strandTimeout h) s = .next s') ∧
      ((s.tsq.running = true → (hart s h).deadline < applyAt s) →
        (∀ p n, h = .strand p n → exec (.strandTimeout h) s = .next (endTask s' (hart s h).task 3 7 0 (hart s h).pc.toNat)) ∧
        ∀ k, h = .ctrl k → exec (.strandTimeout h) s = .next (ctrlFault s' k.val 7)))

/-! ### Ticks, summaries and device time (02) -/

/-- The commands that move the tick: its phases and stages, and what takes power or the whole device down: a register write may be the restart. -/
def Sys2Proof.Machine.movesTick : Instr → Bool
  | .tickStart | .firstTickStart | .runBegin | .settlePoint | .applyPoint _ _ | .copyStage _ | .bulkCutOff => true
  | .pwrgoodRise _ | .pwrgoodFall | .bootRestart _ | .thermtrip | .registerWrite _ _ _ _ => true
  | _ => false

/-- The tick moves by its own phases alone: whatever else is commanded, of a strand, a port, a host or a fault, leaves the tick's number, its start,
its phase and its stage, and no command leaves its place in the queue of the others (R47, R49, R59). -/
def Obligations.OnlyPhasesMoveTheTick : Prop :=
  ∀ (c : Instr) (s : State), Canonical s → ∃ t, exec c s = .next t ∧ t.pending = s.pending ∧ (movesTick c = false → tickClock t = tickClock s)

/-- The phases of a tick follow in order: Prime to RUN at T+0 + 2 µs, RUN to the settle phase, to the apply window, its copy stage and its switch
stage, and from there to the next tick, or to the one a REBASE chose, which starts at its t(n). The first tick starts at t(n) too (R47, R49, R59,
R67, R71). A phase that is not due changes nothing (log entry 2). -/
def Obligations.TickPhases : Prop :=
  ∀ (s : State) (temps : List (Nat × Nat)) (reach : Nat), Canonical s →
    (∀ n, firstTick s = some n →
      ∃ t, exec .firstTickStart s = .next t ∧ tickClock t = (true, n, tickAt s n, .prime, 0)) ∧
    (firstTick s = none → exec .firstTickStart s = .next s) ∧
    (s.tsq.running = true →
      let at_ := fun (p : Phase) (k : Nat) => (true, s.tsq.tick, s.tsq.tickStart, p, k)
      (s.tsq.phase = .prime → exec .runBegin s = .next (tsqMap (advance s (s.tsq.tickStart + 2000)) fun t => { t with phase := .run }) ∧
        (timeRuns s = true → (advance s (s.tsq.tickStart + 2000)).now = max s.now (s.tsq.tickStart + 2000))) ∧
      (s.tsq.phase = .run → ∃ t, exec .settlePoint s = .next t ∧ tickClock t = at_ .settle s.tsq.stage) ∧
      (s.tsq.phase = .settle → ∃ t, exec (.applyPoint temps reach) s = .next t ∧ tickClock t = at_ .apply 1) ∧
      (s.tsq.phase = .apply →
        (s.tsq.stage = 1 → ∃ t, exec (.copyStage reach) s = .next t ∧ tickClock t = at_ .apply 2) ∧
        (s.tsq.stage ≠ 1 → exec (.copyStage reach) s = .next s) ∧
        (s.tsq.stage ≠ 3 → ∃ t, exec .bulkCutOff s = .next t ∧ tickClock t = at_ .apply 3 ∧ t.tsq.todo = [] ∧ t.tsq.copies = []) ∧
        (s.tsq.stage = 3 →
          let n := s.tsq.rebase.getD (s.tsq.tick + 1)
          exec .bulkCutOff s = .next s ∧
          ∃ t, exec .tickStart s = .next t ∧ tickClock t = (true, n, tickAt s n, .prime, 0))) ∧
      (s.tsq.phase ≠ .prime → exec .runBegin s = .next s) ∧ (s.tsq.phase ≠ .run → exec .settlePoint s = .next s) ∧
      (s.tsq.phase ≠ .settle → exec (.applyPoint temps reach) s = .next s) ∧ (s.tsq.phase ≠ .apply → exec .tickStart s = .next s))

/-- What one measurement of a source does (R68, R69), its times in quarters of a ns (R73): a source that SRC_ORDER does not name changes nothing; from
UNSET, FREE or ADRIFT, or ahead in SRC_ORDER of the source in use, it is taken up, AHEAD where device time is more than 1 ms ahead of it and ACQUIRING
else, and device time steps forward only before ticks start; one behind the source in use is noted and changes nothing else. Of the source in use: in LOCKED the fourth
measurement off by more than 25 ns in a row loses the lock; in ACQUIRING the sixteenth within 10 ns gains it; in AHEAD one within 1 ms leads to
ACQUIRING, and in HOLDOVER any. -/
def Obligations.Measurements : Prop :=
  ∀ (s : State) (src : Nat) (x at_ : Int), Canonical s →
    let q := (x - at_).natAbs
    let off := (x - at_).tdiv 4
    let t := measure s src x at_
    let first := s.tim.state = .unset ∨ s.tim.state = .free ∨ s.tim.state = .adrift
    (srcRank s src = 3 → t = s) ∧
    (srcRank s src ≠ 3 →
      ((first ∨ (s.tim.source ≠ src ∧ srcRank s src < srcRank s s.tim.source)) →
        t.tim.source = src ∧ t.tim.lastMeas = some ((x / 4).toNat, (at_ / 4).toNat + (t.now - s.now)) ∧
        (off < -1000000 → t.tim.state = .ahead ∧ t.tim.rate = -100000 ∧ t.now = s.now) ∧
        (-1000000 ≤ off → t.tim.state = .acquiring ∧ t.tim.good = 0 ∧ t.tim.rate.natAbs ≤ 100000 ∧
          t.now = if s.tsq.running = true ∨ off ≤ 0 then s.now else s.now + off.toNat)) ∧
      (¬first → s.tim.source ≠ src → srcRank s s.tim.source ≤ srcRank s src → t = { s with tim := { s.tim with heard := pput s.tim.heard src s.now } }) ∧
      (s.tim.source = src →
        (s.tim.state = .locked → q ≤ 100 → t.tim.state = .locked ∧ t.tim.bad = 0) ∧
        (s.tim.state = .locked → 100 < q → s.tim.bad + 1 < 4 → t.tim.state = .locked ∧ t.tim.bad = s.tim.bad + 1) ∧
        (s.tim.state = .locked → 100 < q → 4 ≤ s.tim.bad + 1 → t.tim.state = .acquiring ∧ t.tim.good = 0) ∧
        (s.tim.state = .acquiring → q ≤ 40 → 16 ≤ s.tim.good + 1 → t.tim.state = .locked ∧ t.tim.usableAt = s.now) ∧
        (s.tim.state = .acquiring → q ≤ 40 → s.tim.good + 1 < 16 → t.tim.state = .acquiring ∧ t.tim.good = s.tim.good + 1) ∧
        (s.tim.state = .acquiring → 40 < q → t.tim.state = .acquiring ∧ t.tim.good = 0) ∧
        (s.tim.state = .holdover → t.tim.state = .acquiring) ∧
        (s.tim.state = .ahead → q ≤ 4000000 → t.tim.state = .acquiring) ∧
        (s.tim.state = .ahead → 4000000 < q → t.tim.state = .ahead))) ∧
    t.mem = s.mem ∧ t.harts = s.harts ∧ t.tsq = s.tsq ∧ t.hit = s.hit

/-- The events of the time unit's sources: a lost source leads to HOLDOVER with the last rate held, the limit of the error estimate to FREE where
FREE_OK is 1 and no source answers; a PTM dialogue, and an edge of TICK_IN after its word, are measurements; TICK_OUT carries the number of the next
tick (R69, R75-R77). -/
def Obligations.TimeSources : Prop :=
  ∀ (s : State) (w port t1 t2 t3 t4 : Nat), Canonical s →
    ((s.tim.state = .locked ∨ s.tim.state = .acquiring) → s.tim.grandmaster = false →
      ∃ t, exec .syncLoss s = .next t ∧ t.tim.state = .holdover ∧ t.tim.good = 0 ∧ t.tim.bad = 0 ∧ t.tim.rate = s.tim.rate ∧ t.tim.errEst ≤ 255 ∧
        bit (rget t regTimEvents) 2 = true ∧ (timeRuns s = true → t.now = max s.now (s.tim.lastMeasAt + 3 * syncInterval s)) ∧ t.mem = s.mem ∧ t.harts = s.harts) ∧
    (s.tim.state = .holdover → (srcOrder s).find? (fun x => x != s.tim.source && answers s x) = none → freeOk s = true →
      ∃ t, exec .holdoverLimit s = .next t ∧ t.tim.state = .free ∧ t.tim.source = 0 ∧ t.tim.usableAt = s.now ∧ t.flt = s.flt ∧ t.mem = s.mem) ∧
    (s.tim.state = .holdover → (srcOrder s).find? (fun x => x != s.tim.source && answers s x) = none → freeOk s = false →
      ∃ t, exec .holdoverLimit s = .next t ∧ t.tim.state = .adrift ∧ t.tim.source = 0 ∧ t.mem = s.mem ∧ t.harts = s.harts) ∧
    (∀ x, s.tim.state = .holdover → (srcOrder s).find? (fun x => x != s.tim.source && answers s x) = some x →
      ∃ t, exec .holdoverLimit s = .next t ∧ t.tim.state = .acquiring ∧ t.tim.source = x ∧ t.flt = s.flt ∧ t.mem = s.mem) ∧
    (srcRank s 2 ≠ 3 → s.pci.linkUp = true → srcRank s 2 ≤ srcRank s s.tim.source →
      exec .ptmRequest s = .next { s with tim := { s.tim with ptmPending := true } }) ∧
    (s.tim.ptmPending = true →
      exec (.ptmResponse t1 t2 t3 t4) s = .next (measure { s with tim := { s.tim with ptmPending := false } } 2
        (4 * (t4 + (((t2 : Int) - t1) + ((t3 : Int) - t4)) / 2)) (4 * t4))) ∧
    (s.tim.ptmPending = false → exec (.ptmResponse t1 t2 t3 t4) s = .next s) ∧
    (s.boot.pwrgood = true → w < 2 ^ 64 → exec (.tickInWord w) s = .next { s with tim := { s.tim with tickInWord := some w } }) ∧
    (s.boot.pwrgood = true → s.tim.tickInWord = some w →
      exec .tickInEdge s = .next (measure { s with tim := { s.tim with tickInWord := none, missedEdges := 0 } } 3 (4 * tickAt s w) (4 * s.now))) ∧
    (s.boot.pwrgood = true → s.tim.tickInWord = none → exec .tickInEdge s = .next { s with tim := { s.tim with missedEdges := s.tim.missedEdges + 1 } }) ∧
    (tickOutEn s = true → s.tsq.running = true →
      ∃ t, exec .tickOutWord s = .next t ∧ t.tim = { s.tim with tickOutWord := some ((s.tsq.tick + 1) % 2 ^ 64) } ∧
        (timeRuns s = true → t.now = max s.now (s.tsq.tickStart + 1000)) ∧ t.csr = s.csr ∧ t.mem = s.mem) ∧
    (port < 16 →
      ∃ t, exec (.announceReceiptTimeout port) s = .next t ∧ (ptpGet t port).announce = none ∧
        (∀ p, p ≠ port → ptpGet t p = ptpGet s p) ∧ t.mem = s.mem)

/-- How many cells wait at a port. -/
def Sys2Proof.Machine.queued (s : State) (p : Nat) : Nat := (portGet s p).queue.length

/-- PTP at a port (R73, R74): a Sync is held with its arrival, a Follow_Up that matches it is one measurement of the source, a Pdelay_Req is answered,
the answers of the port's own request give its peer delay, and an Announce of another clock counts from the second within four announce intervals on,
with one more step; what a port sends itself counts its sequence number on, and its request is timestamped as its cell leaves (13 R512). Device time counts whole ns, and a hardware timestamp the quarters within
one (DESIGN CHOICE, log entry 50). -/
def Obligations.PtpMessages : Prop :=
  ∀ (s : State) (port : Nat) (body : List Byte), Canonical s → port < 16 →
    let p := ptpGet s port
    let seq := beFld body 30 2
    let drawn := { s with freeCtr := s.freeCtr + 1 }
    (s.boot.pwrgood = true → beFld body 4 1 = 0 →
      (ptpType body = 0 → ∃ q, q / 4 = s.now ∧
        exec (.ptpMessageRx port body) s = .next (ptpPut drawn port { p with syncAt := some (seq, q, ptpCorrection body) })) ∧
      (∀ at_ corr d, ptpType body = 8 → p.syncAt = some (seq, at_, corr) → p.peerDelay = some d → s.tim.ptpPort = port → s.tim.grandmaster = false →
        (bestAnnounce s).isSome = true →
        exec (.ptpMessageRx port body) s =
          .next (measure (ptpPut s port { p with syncAt := none }) 1 (ptpStamp body 34 + corr + ptpCorrection body + d) at_)) ∧
      (ptpType body = 2 → ∃ t, exec (.ptpMessageRx port body) s = .next t ∧
        t.tim = (ptpPut s port { p with reqCorr := sint 64 (beFld body 8 8) }).tim ∧ t.csr = s.csr ∧ t.mem = s.mem ∧
        queued s port < queued t port) ∧
      (ptpType body = 3 → p.reqAt.isSome = true → seq = p.reqSeq → ∃ q, q / 4 = s.now ∧
        exec (.ptpMessageRx port body) s = .next (ptpPut drawn port { p with respAt := some (ptpStamp body 34 - ptpCorrection body, q) })) ∧
      (∀ a1 a2 a4, ptpType body = 0xA → p.reqAt = some a1 → p.respAt = some (a2, a4) → seq = p.reqSeq →
        let d : Int := (((a4 : Int) - a1) - (ptpStamp body 34 + ptpCorrection body - a2)) / 2
        ∃ t, exec (.ptpMessageRx port body) s = .next t ∧ ptpGet t port = { p with peerDelay := some d, reqAt := none, respAt := none } ∧
          rget t (regHwsPdelay port) = uint 32 d ∧ t.mem = s.mem) ∧
      (ptpType body = 0xB → beFld body 53 8 ≠ clockId →
        let sender := beFld body 20 8
        ∃ t, exec (.ptpMessageRx port body) s = .next t ∧ pfind (ptpGet t port).foreign sender = some s.now ∧ t.mem = s.mem ∧
          (pfind p.foreign sender = none → (ptpGet t port).announce = p.announce) ∧
          (∀ at_, pfind p.foreign sender = some at_ → s.now ≤ at_ + 4000000000 → beFld body 61 2 < 254 → p.announce = none →
            (ptpGet t port).heardAt = s.now ∧ ∃ a, (ptpGet t port).announce = some a ∧ a.identity = beFld body 53 8 ∧
              a.priority1 = beFld body 47 1 ∧ a.steps = beFld body 61 2 + 1 ∧ a.sender = sender))) ∧
    (beFld body 4 1 ≠ 0 → exec (.ptpMessageRx port body) s = .next s) ∧
    (ptpMaster s port = true →
      ∃ t, exec (.ptpSyncTx port) s = .next t ∧ t.tim = (ptpPut s port { p with txSeq := (p.txSeq + 1) % 65536 }).tim ∧ t.csr = s.csr ∧ t.mem = s.mem ∧
        queued s port < queued t port) ∧
    (ptpMaster s port = true →
      ∃ t, exec (.ptpAnnounceTx port) s = .next t ∧ t.tim = (ptpPut s port { p with txSeq := (p.txSeq + 1) % 65536 }).tim ∧ t.csr = s.csr ∧ t.mem = s.mem ∧
        queued s port < queued t port) ∧
    (rdyState s (idxPort port) = .ready →
      ∃ t, exec (.ptpPdelayReqTx port) s = .next t ∧ t.csr = s.csr ∧ t.mem = s.mem ∧ queued s port < queued t port ∧
        t.tim = (ptpPut s port { p with reqSeq := (p.reqSeq + 1) % 65536, reqAt := none, respAt := none }).tim) ∧
    (∀ at_ pos, ptpType body = 2 → seq = p.reqSeq → ∃ q, q / 4 = at_ + pos ∧ ptpSent s port at_ pos body = ptpPut drawn port { p with reqAt := some q }) ∧
    (s.boot.pwrgood = false → exec (.ptpMessageRx port body) s = .next s)

/-- The summaries of other devices: a PLAN summary that names no broken barrier is kept with its tick and items; a veto for this tick skips every
common item of the plan in force that it lists and that the sender takes part in, and one for another tick changes no plan (R54, R63). An offer of
entries for another device is not accepted, and what a destination accepted is left for control firmware to plan (R358).
The check of the next plan at the apply point: a sealed plan whose header names this device, the next tick and the partition is taken; without
one the plan buffer reads HELD and TSQ_EVENTS.PLAN_MISS is set (R57, R62, R65). -/
def Obligations.PlansAndSummaries : Prop :=
  (∀ (s : State) (src tag : Nat) (body : List Byte), Canonical s → s.boot.pwrgood = true →
    (fld body 4 2 = 0 →
      ∃ t, exec (.summaryPlanRx src tag body) s = .next t ∧ t.tsq = { s.tsq with summaries := s.tsq.summaries ++ [⟨src, fld body 8 8, summaryItems body⟩] } ∧
        t.mem = s.mem ∧ t.harts = s.harts ∧ t.hit = s.hit) ∧
    (fld body 8 8 ≠ s.tsq.tick → ∃ t, exec (.summaryVetoRx src tag body) s = .next t ∧ t.tsq = s.tsq ∧ t.mem = s.mem ∧ t.harts = s.harts) ∧
    (fld body 8 8 = s.tsq.tick →
      let s' := noteCfg (takeMsg s src tag 8) src (fld body 0x10 8)
      ∃ t, exec (.summaryVetoRx src tag body) s = .next t ∧ t.mem = s.mem ∧ t.harts = s.harts ∧
        (∀ k ∈ ownCommon s', k.2.2.contains src = true → (summaryItems body).any (sameItem k.2.1) = true → k.1 ∈ t.tsq.skip) ∧
        ∀ j ∈ s.tsq.skip, j ∈ t.tsq.skip) ∧
    (∃ t es, exec (.summaryOfferRx src tag body) s = .next t ∧ t.emb.planned = s.emb.planned ++ es ∧ es.length ≤ (summaryItems body).length ∧
      t.mem = s.mem ∧ t.harts = s.harts ∧
      ((∀ i ∈ summaryItems body, itemKind i ≠ 6 ∧ fld i 6 2 ≠ s.boot.dev) → es = [])) ∧
    ∃ t, exec (.summaryAcceptRx src tag body) s = .next t ∧ t.emb.planned = s.emb.planned ++ summaryItems body ∧ t.tsq = s.tsq ∧ t.mem = s.mem ∧
      t.harts = s.harts) ∧
  ∀ s : State, Canonical s →
    (planSealed s.tsq.planNext = true → headerOk s s.tsq.planNext s.tsq.tick = true →
      checkPlan s = tsqMap s fun t => { t with take := some s.tsq.planNext }) ∧
    (planSealed s.tsq.planNext = false →
      (checkPlan s).tsq.take = none ∧ (checkPlan s).tsq.plan = .held ∧ (checkPlan s).tsq.holdTicks = min 65535 (s.tsq.holdTicks + 1) ∧
      (checkPlan s).mem = s.mem ∧ (checkPlan s).harts = s.harts ∧ tickClock (checkPlan s) = tickClock s)
/-! ### The engines of a core (03 R102-R113; 04 to 06) -/

/-- What starting a command leaves: it runs from now on as `f` says, no other command, hart or byte of memory changes. -/
def Sys2Proof.Machine.Started (t s : State) (core : Nat) (c : Cmd) (f : Cmd → Cmd) : Prop :=
  (coreGet t core).cmds = (coreGet s core).cmds.map (fun x => if x.id = c.id then { f x with running := true, startAt := s.now } else x) ∧
    t.harts = s.harts ∧ t.mem = s.mem ∧ t.sch = s.sch ∧ t.hit = s.hit

/-- What the completion of a command leaves: it is gone from its core's queue, its place holds its id and its status, and the strand that issued it
has the status in its drain list while its task runs. -/
def Sys2Proof.Machine.Completed (t s : State) (core : Nat) (c : Cmd) (status : Nat) : Prop :=
  (∀ x ∈ (coreGet t core).cmds, x.id ≠ c.id) ∧ pfind (coreGet t core).places (c.id % 4096) = some (c.id, status) ∧
    ((hartAt s (64 * core + c.hart)).task = c.task → (c.id, none) ∉ (hartAt t (64 * core + c.hart)).drain) ∧
    (∀ n, n ≠ 64 * core + c.hart → hartAt t n = hartAt s n)

/-- Starting a gather or a look-up: a bad descriptor answers status 2 and a table that can't be read status 3, without a write; another starts with
the writes and counts its evaluation gives and the fragment tasks of the hubs it splits, and an error of its own reads ends the task (03 R109, R110; 04 R154, R157, R166, R175). -/
def Obligations.GatherEngineStarts : Prop :=
  ∀ (s : State) (core : Nat) (c : Cmd), Canonical s → core < 272 →
    (startable? s core .gather = none → exec (.gatherStart core) s = .next s) ∧
    (startable? s core .lookup = none → exec (.lookupStart core) s = .next s) ∧
    (startable? s core .gather = some c →
      (badGather s core c.desc = true → ∃ t, exec (.gatherStart core) s = .next t ∧ Started t s core c fun x => { x with status := 2 }) ∧
      (badGather s core c.desc = false → fld c.desc 0 1 ≠ 1 → readable s (fld c.desc 6 2) = false →
        ∃ t, exec (.gatherStart core) s = .next t ∧ Started t s core c fun x => { x with status := 3 }) ∧
      (badGather s core c.desc = false → (fld c.desc 0 1 = 1 ∨ readable s (fld c.desc 6 2) = true) →
        let o := evalGather s core c
        (o.cause = none →
          ∃ t, exec (.gatherStart core) s = .next t ∧ Started t s core c fun x => { x with
            writes := o.writes, counts := o.counts, frags := x.frags ++ o.frags
            got := x.got ++ o.splits.map fun e => (splitKey e.1, natLe 8 e.2) }) ∧
        ∀ k a, o.cause = some (k, a) → exec (.gatherStart core) s = .next (failCmd s core c o k a))) ∧
    (startable? s core .lookup = some c →
      (badLookup s core c.desc = true → ∃ t, exec (.lookupStart core) s = .next t ∧ Started t s core c fun x => { x with status := 2 }) ∧
      (badLookup s core c.desc = false → badTable s c.desc = true →
        ∃ t, exec (.lookupStart core) s = .next t ∧ Started t s core c fun x => { x with status := 3 }) ∧
      (badLookup s core c.desc = false → badTable s c.desc = false → fld c.desc 0 1 = 3 →
        ∃ t, exec (.lookupStart core) s = .next t ∧ Started t s core c fun x => { x with status := 0 }) ∧
      (badLookup s core c.desc = false → badTable s c.desc = false → fld c.desc 0 1 ≠ 3 →
        let o := evalLookup s core c
        (o.cause = none → ∃ t, exec (.lookupStart core) s = .next t ∧ Started t s core c fun x => { x with writes := o.writes, counts := o.counts }) ∧
        ∀ k a, o.cause = some (k, a) → exec (.lookupStart core) s = .next (failCmd s core c o k a)))

/-- A running gather or look-up that awaits no answer: a refused one answers its status and writes nothing; another lands exactly the writes of its
evaluation and answers by its status words. What the walk finds only now to ask for is asked, and a hub to split is handed out, first; a task's second
mismatch of data fetched ahead that the walk consumes ends it STALE. Fragment tasks are submitted in order until a list is full, and data fetched ahead is dropped after 16 µs (03 R110; 04 R157, R166, R169, R171,
R173, R175). -/
def Obligations.GatherEngineCompletes : Prop :=
  ∀ (s : State) (core id : Nat) (c : Cmd), Canonical s → core < 272 → c.id = id → cmdGet s core id = some c → c.running = true →
    (c.kind = .gather → awaiting s core id = false → c.frags = [] →
      (c.status ≠ 0 → ∃ t, exec (.gatherComplete core id) s = .next t ∧ Completed t s core c c.status ∧ t.mem = s.mem) ∧
      (c.status = 0 →
        let o := evalGather s core c
        let m := aheadStale s core id o.spans
        (o.cause = none → o.needs ≠ [] → exec (.gatherComplete core id) s = .next (sendNeeds s core id (sampleOf c.desc) o.needs)) ∧
        (o.cause = none → o.needs = [] → o.splits ≠ [] → exec (.gatherComplete core id) s = .next (keepSplits s core c o)) ∧
        (∀ x, (o.cause ≠ none ∨ (o.needs = [] ∧ o.splits = [])) → m ≠ 0 → 2 ≤ x.mismatches + m → atApply s = false → taskGet s c.task = some x →
          x.state = .running → x.pcore = core → x.strand = c.hart →
          ∃ t, exec (.gatherComplete core id) s = .next t ∧ taskGet t c.task = some { x with
            state := .ended, endAt := s.now, status := 4, cause := 0, result := 0, mismatches := x.mismatches + m }) ∧
        (o.cause = none → o.needs = [] → o.splits = [] → m = 0 →
          ∃ t, exec (.gatherComplete core id) s = .next t ∧ t.mem = (landWrites s o.writes).mem ∧
            Completed t s core c (partialStatus (fun v => v == 0 || v == 1 || v == 3) o.stats)) ∧
        ∀ k a, o.cause = some (k, a) → m = 0 → exec (.gatherComplete core id) s = .next (failCmd (dropAhead s core id) core c o k a))) ∧
    (c.kind = .gather → (awaiting s core id = true ∨ c.frags ≠ []) → exec (.gatherComplete core id) s = .next s) ∧
    (c.kind = .lookup → awaiting s core id = false →
      (c.status ≠ 0 → ∃ t, exec (.lookupComplete core id) s = .next t ∧ Completed t s core c c.status ∧ t.mem = s.mem) ∧
      (c.status = 0 → fld c.desc 0 1 ≠ 3 →
        let o := evalLookup s core c
        (o.cause = none → o.needs = [] →
          ∃ t, exec (.lookupComplete core id) s = .next t ∧ t.mem = (landWrites s o.writes).mem ∧
            Completed t s core c (partialStatus lookupGood o.stats)) ∧
        ∀ k a, o.cause = some (k, a) → exec (.lookupComplete core id) s = .next (failCmd s core c o k a))) ∧
    (c.kind = .lookup → awaiting s core id = true → exec (.lookupComplete core id) s = .next s) ∧
    (∃ t, exec (.fragmentTaskSubmit core id) s = .next t ∧
      let r := submitFrags (match taskGet s c.task with | some x => x.req | none => 0) c.frags s
      t.sch = r.2.sch ∧ t.mem = s.mem ∧ ∀ x ∈ (coreGet t core).cmds, x.id = id → x.frags = r.1) ∧
    (∀ a, minBy (fun a : RunAhead => a.at_) (coreGet s core).ahead = some a →
      ∃ t, exec (.runaheadDiscard core) s = .next t ∧ (timeRuns s = true → t.now = max s.now (a.at_ + 16000)) ∧ t.mem = s.mem ∧ t.harts = s.harts ∧
        coreGet t core = { coreGet s core with ahead := (coreGet s core).ahead.filter fun x => decide (t.now < x.at_ + 16000) })

/-- A send command: a bad descriptor answers status 2; a scatter-add to this device is applied and answers 0, a task is submitted here and answers 0
or 7; a message with no route answers 6; one with credits is handed over whole and answers 0; one without waits (03 R113; 13 R511). -/
def Obligations.SendCommands : Prop :=
  ∀ (s : State) (core : Nat) (c : Cmd), Canonical s → core < 272 →
    (startable? s core .send = none → exec (.sendStart core) s = .next s) ∧
    (startable? s core .send = some c →
      let kind := (sendBody s core c).1
      let body := (sendBody s core c).2
      let dst := fld c.desc 2 2
      (badSend c.desc = true → ∃ t, exec (.sendStart core) s = .next t ∧ Completed t s core c 2 ∧ t.mem = s.mem ∧ t.hws = s.hws) ∧
      (badSend c.desc = false → dst = s.boot.dev → kind = 3 →
        ∃ t, exec (.sendStart core) s = .next t ∧ t.mem = (scatterAdd s dst body).mem ∧ pfind (coreGet t core).places (c.id % 4096) = some (c.id, 0)) ∧
      (badSend c.desc = false → dst = s.boot.dev → kind ≠ 3 →
        let r := submit s (body.take 128) (fld body 128 8) true
        (r.1 ≤ 1 → ∃ t, exec (.sendStart core) s = .next t ∧ t.sch = r.2.sch ∧ t.mem = s.mem ∧ Completed t s core c (7 * r.1)) ∧
        (1 < r.1 → exec (.sendStart core) s = .next r.2)) ∧
      (badSend c.desc = false → dst ≠ s.boot.dev →
        (routePort s dst false = none → ∃ t, exec (.sendStart core) s = .next t ∧ Completed t s core c 6 ∧ t.mem = s.mem ∧ bit (rget t regHwsEvents) 2 = true) ∧
        ∀ p b, routePort s dst false = some (p, b) →
          (creditRoom s p (vcOf kind body) (cellParts body.length body).length = true →
            ∃ t, exec (.sendStart core) s = .next t ∧ Completed t s core c 0 ∧ t.mem = s.mem ∧ t.sch = s.sch ∧ t.hws = (post s kind dst body).hws) ∧
          (creditRoom s p (vcOf kind body) (cellParts body.length body).length = false → exec (.sendStart core) s = .next s)))

/-- The vector engine runs one chain at a time: a bad descriptor answers status 2; another runs with the writes, the flags and the counts of its
evaluation, and lands them all when it completes, where nothing was stored to its inputs meanwhile, with a report whose last word is its elapsed core
cycles (05 R186, R197, R211, R218-R225; DESIGN CHOICE for the count of elapsed cycles, log entry 17). -/
def Obligations.VectorChains : Prop :=
  ∀ (s : State) (core : Nat) (c : Cmd), Canonical s → core < 272 →
    (runningOf s core isChain = [] → nextCmd s core isChain = none → exec (.chainStart core) s = .next s) ∧
    (runningOf s core isChain ≠ [] → exec (.chainStart core) s = .next s) ∧
    (runningOf s core isChain = [] → nextCmd s core isChain = some c →
      (badVec c.desc = true → ∃ t, exec (.chainStart core) s = .next t ∧ Started t s core c fun x => { x with status := 2 }) ∧
      (badVec c.desc = false →
        let o := evalVec s s (spBase core) c.desc
        ∃ t, exec (.chainStart core) s = .next t ∧ Started t s core c fun x => { x with
          flags := o.flags
          old := inputCells s (spBase core) c.desc
          writes := o.writes ++ writesAt (spBase core + fld x.desc 0x34 4) (natLe 4 o.flags ++ natLe 4 (min o.range (2 ^ 32 - 1)) ++ natLe 4 o.rows)
          counts := [(regCorVecChains core, 1), (regCorVecTiles core, o.tiles), (regCorVecRange core, o.range), (regCorVecRows core, o.badRows)] })) ∧
    (runningOf s core isChain = [] → exec (.chainComplete core) s = .next s) ∧
    (∀ r, runningOf s core isChain = c :: r →
      (c.status ≠ 0 → ∃ t, exec (.chainComplete core) s = .next t ∧ Completed t s core c c.status ∧ t.mem = s.mem) ∧
      (c.status = 0 → ∃ t, exec (.chainComplete core) s = .next t ∧ pfind (coreGet t core).places (c.id % 4096) = some (c.id, 0)) ∧
      (c.status = 0 → storedUnits s c = [] →
        ∃ t, exec (.chainComplete core) s = .next t ∧ pfind (coreGet t core).places (c.id % 4096) = some (c.id, 0) ∧
          t.mem = (landWrites s (c.writes ++ writesAt (spBase core + fld c.desc 0x34 4 + 12) (natLe 4 (min ((s.now - c.startAt) * 3 / 5) (2 ^ 32 - 1))))).mem))

/-- The matrix engine: it takes the next command once none waits to swap; a bad one answers 2, one of a strand that does not own the open set 4 and
one that needs more partial slots than the set has 5; one that reads the output of the drain in progress, or would spill during it, waits, and a started
one makes its products. A refused command answers its status, one that does not drain
answers 0 and lands its report, and the end of a drain completes the draining command (06 R237, R241-R243, R248, R254).
The end of a drain: the draining command completes with its writes, the shadow set is empty again, and where no command waits to swap the engine
holds no drain (06 R241, R243). -/
def Obligations.MatrixCommands : Prop :=
  (∀ (s : State) (core id : Nat) (c : Cmd), Canonical s → core < 272 → swapWaiting s core = none →
    let m := (coreGet s core).mat
    (nextCmd s core isMat = none → exec (.matrixStart core) s = .next s) ∧
    (m.draining = none → exec (.drainComplete core) s = .next s) ∧
    (nextCmd s core isMat = some c →
      (badMat m c.hart c.desc = true → ∃ t, exec (.matrixStart core) s = .next t ∧ Started t s core c fun x => { x with status := 2 }) ∧
      (badMat m c.hart c.desc = false → m.open_ = true → m.owner ≠ c.hart →
        ∃ t, exec (.matrixStart core) s = .next t ∧ Started t s core c fun x => { x with status := 4 }) ∧
      (badMat m c.hart c.desc = false → (m.open_ = false ∨ m.owner = c.hart) →
        let opening := mMma c.desc && (!m.open_ || mStart c.desc)
        let plan := planOf c.desc (if opening then 0 else m.terms) (if opening then 0 else m.passes)
        let slots := if opening then fld c.desc 0x3C 1 else m.partSlots
        (slots < (if opening then 0 else m.splits) + splitsOf plan →
          ∃ t, exec (.matrixStart core) s = .next t ∧ Started t s core c fun x => { x with status := 5 }) ∧
        ((if opening then 0 else m.splits) + splitsOf plan ≤ slots → matHeld m c.desc (splitsOf plan) = false →
          exec (.matrixStart core) s = .next (settleSwap (makeProducts s core c opening plan) core)) ∧
        ((if opening then 0 else m.splits) + splitsOf plan ≤ slots → matHeld m c.desc (splitsOf plan) = true →
          exec (.matrixStart core) s = .next s))) ∧
    (c.id = id → cmdGet s core id = some c → c.kind = .mat → c.running = true →
      (c.status ≠ 0 → ∃ t, exec (.matrixComplete core id) s = .next t ∧ Completed t s core c c.status ∧ t.mem = s.mem) ∧
      (c.status = 0 → mDrains c.desc = true → exec (.matrixComplete core id) s = .next s) ∧
      (c.status = 0 → mDrains c.desc = false → fld c.desc 0x38 4 = 0xFFFFFFFF →
        ∃ t, exec (.matrixComplete core id) s = .next t ∧ t.mem = (landWrites s c.writes).mem ∧
          pfind (coreGet t core).places (c.id % 4096) = some (c.id, 0)))) ∧
  ∀ (s : State) (core id : Nat) (c : Cmd), Canonical s → core < 272 → (coreGet s core).mat.draining = some id → cmdGet s core id = some c →
    fld c.desc 0x38 4 = 0xFFFFFFFF →
    (∀ x ∈ (coreGet s core).cmds, x.id ≠ id → isMat x.kind = false ∨ x.running = false ∨ mDrains x.desc = false ∨ x.draining = true ∨ x.status ≠ 0) →
      ∃ t, exec (.drainComplete core) s = .next t ∧ t.mem = (landWrites s c.writes).mem ∧ (coreGet t core).mat.draining = none ∧
        (coreGet t core).mat.shadow = [] ∧ pfind (coreGet t core).places (id % 4096) = some (id, 0)

/-! ### Memory channels (12) -/

/-- The bytes a unit of a channel holds, and its codeword as a controller reads it under byte errors: those bytes and their check bytes (12 R461,
R462). -/
def Sys2Proof.Machine.heldUnit (s : State) (c u : Nat) : List Nat := (readBytes s (addrOf s c (64 * u)) 64).map (·.toNat)
/-- The unit decodes, with `n` bytes corrected, to what it holds. -/
def Sys2Proof.Machine.DecodesTo (s : State) (c u : Nat) (err : List (Nat × Nat)) (n : Nat) : Prop :=
  rsDecode (addErrors (heldUnit s c u ++ rsCheck (heldUnit s c u)) err) = some (heldUnit s c u, n)

/-- Reads and writes of the memory by its controllers: a read whose codeword decodes without a corrected byte changes no byte and no channel, and a
corrected one no byte; a write to units that read correctly is visible at once, byte for byte, and raises the generation of every page it touches; an
entry that ages changes no byte where its unit decodes (12 R453, R454, R461-R463, R470, R471, R473). -/
def Obligations.MemoryControllers : Prop :=
  ∀ (s : State) (addr len inner ch unit off stack temp row : Nat) (err : List (Nat × Nat)) (data : List Byte), Canonical s →
    (space addr = .hbm → 0 < len → addr % 64 + len ≤ 64 → spareAt s addr len = false → (∀ e ∈ err, e.1 < 72) →
      let c := (chanOf s addr).1
      let u := (chanOf s addr).2 / 64
      (chanGet s c).bad.contains u = false →
      (DecodesTo s c u err 0 →
        exec (.hbmRead addr len true ⟨err, 0⟩ 0) s = .next s ∧
        (narrowSpan addr len = true → ∃ t, exec (.hbmRead addr len false ⟨err, 0⟩ 0) s = .next t ∧ t.mem = s.mem ∧ t.harts = s.harts ∧ t.chans = s.chans ∧ t.flt = s.flt ∧ t.csr = s.csr)) ∧
      (∀ n, DecodesTo s c u err n → ∃ t, exec (.hbmRead addr len true ⟨err, inner⟩ 0) s = .next t ∧ t.mem = s.mem ∧ t.harts = s.harts)) ∧
    (s.boot.pwrgood = true → space addr = .hbm → spareAt s addr data.length = false →
      (∀ a, addr ≤ a → a < addr + data.length → unitBad s a 1 = false) →
      ∃ t, exec (.hbmWrite addr data 0) s = .next t ∧ t.harts = s.harts ∧ t.cores = s.cores ∧ t.hit = s.hit ∧
        (∀ a, byteAt t a = if addr ≤ a ∧ a < addr + data.length then data.getD (a - addr) 0 else byteAt s a) ∧
        ∀ p ∈ pagesOf addr data.length, data ≠ [] → mget (fun _ => 0) t.gens p = (mget (fun _ => 0) s.gens p + 1) % 65536) ∧
    exec (.correctedWriteback ch off) s = .next s ∧
    (ch < 192 →
      (∀ e, (chanGet s ch).wcb.find? (fun e => e.unit == unit) = some e →
        (e.mask = fullMask ∨ (chanGet s ch).bad.contains unit = true ∨ ∃ n, DecodesTo s ch unit err n) →
        ∃ t, exec (.wcbAgeWriteback ch ⟨unit, ⟨err, inner⟩⟩) s = .next t ∧ t.mem = s.mem ∧ (timeRuns s = true → t.now = max s.now (e.at_ + 2000)) ∧
          (chanGet t ch).wcb = (chanGet s ch).wcb.filter fun x => x.unit ≠ unit) ∧
      (s.boot.pwrgood = true → (taskGet s 0 = none ∨ atApply s = false) → ∃ t, exec (.memRequestTimeout ch off 0) s = .next t ∧ t.mem = s.mem ∧ (chanGet t ch).timeouts = (chanGet s ch).timeouts + 1) ∧
      (let u := (chanGet s ch).scrubPos / 64
       s.boot.pwrgood = true → (chanGet s ch).bad.contains u = false → DecodesTo s ch u [] 0 →
        let pos := ((chanGet s ch).scrubPos + 64) % 2 ^ 31
        ∃ t, exec (.patrolScrubRead ch ⟨[], 0⟩) s = .next t ∧ t.mem = s.mem ∧
          chanGet t ch = { chanGet s ch with scrubPos := pos, rowCorr := if pos = 0 then [] else (chanGet s ch).rowCorr }) ∧
      (exec (.remapCopyDone ch row) s = .next (chanPut s ch { chanGet s ch with
        remap := (chanGet s ch).remap.map fun e => if e.row = row then { e with active := true } else e }))) ∧
    (s.boot.pwrgood = true → stack < 12 → s.tsq.running = false →
      let r := if temp < 256 then temp else 103
      ∃ t, exec (.thermalReadingBringup stack temp) s = .next t ∧ t.mem = s.mem ∧
        (∀ c, c / 16 = stack → (chanGet t c).temp = r ∧ (chanGet t c).refresh2x = decide (85 < r) ∧
          (chanGet t c).cap = capOf (chanGet s c).cap r) ∧
        ∀ c, c / 16 ≠ stack → chanGet t c = chanGet s c)

/-- The tests and the recovery of a channel: a retraining repairs one failing lane of a group and FENCES a channel with more, and leaves its contents
to be verified, or LOST; START takes PATTERN and MODE and starts a test that the channel's state allows, ABORT stops it with
result 4 at a unit it has reached, CLEAR_LOST fills a LOST channel with zeros once its record is acknowledged, and the end of the fill leaves every byte of the channel 0 and
every other as it was (12 R465, R472-R476, R482, R483; DESIGN CHOICE for a reserved PATTERN, log entry 62). -/
def Obligations.ChannelTests : Prop :=
  ∀ (s : State) (ch value failing : Nat), Canonical s → ch < 192 →
    let x := chanGet s ch
    let allowed := modeAllowed s ch (bits value 3 2) = true ∧ x.testRun = none ∧ (bits value 3 2 = 2 → bits value 7 4 < 4)
    (rdyState s (idxChan ch) = .grey → (x.thermal = false ∨ x.worn = true) → x.lost = false →
      ((laneRepair failing).2 = true → ∀ b, ∃ t, exec (.channelRetrainDone ch ⟨b, failing⟩) s = .next t ∧ rdyState t (idxChan ch) = .fenced ∧ t.mem = s.mem) ∧
      ((laneRepair failing).2 = false →
        (∃ t, exec (.channelRetrainDone ch ⟨true, failing⟩) s = .next t ∧ t.mem = s.mem ∧ (∀ c, c ≠ ch → chanGet t c = chanGet s c) ∧
          chanGet t ch = { x with
            silent := false, worn := false, lanes := (laneRepair failing).1
            testRun := if x.thermal = true ∧ 92 ≤ x.temp then x.testRun else some ⟨1, 0, false, true⟩ }) ∧
        ∃ t, exec (.channelRetrainDone ch ⟨false, failing⟩) s = .next t ∧ (chanGet t ch).lost = true ∧ t.mem = s.mem ∧ t.harts = s.harts)) ∧
    ((allowed →
      ∃ t, exec (.start ch value) s = .next t ∧ fget t (regMemChCtl ch) 7 2 = bits value 7 2 ∧ t.mem = s.mem ∧
        chanGet t ch = { x with testRun := some ⟨bits value 3 2, bits value 7 4, false, false⟩ }) ∧
     (¬allowed → ∃ t, exec (.start ch value) s = .next t ∧ t.chans = s.chans ∧ t.mem = s.mem ∧ fget t (regMemChCtl ch) 7 2 = bits value 7 2)) ∧
    (x.testRun = none → exec (.abort ch) s = .next s) ∧
    (∀ r, x.testRun = some r → ∃ t, exec (.abort ch) s = .next t ∧ (chanGet t ch).testRun = none ∧ (chanGet t ch).result = 4 ∧
      (chanGet t ch).position % 64 = 0 ∧ (chanGet t ch).position < 2 ^ 31 ∧ (chanGet t ch).fails ≤ (chanGet t ch).position / 64 ∧
      (r.mode ≠ 2 → t.mem = s.mem ∧ ∀ c, c ≠ ch → chanGet t c = chanGet s c)) ∧
    (x.lost = false → exec (.clearLost ch) s = .next s) ∧
    (x.lost = true → clearing x = false →
      exec (.clearLost ch) s = .next (chanPut s ch (if ackPending s x.lostSeq = true then { x with clearHeld := true }
        else { x with clearHeld := false, testRun := some ⟨2, 0, true, false⟩ }))) ∧
    (∀ r, x.testRun = some r →
      (r.clear = false → r.recovery = false → r.mode = 1 →
        exec (.memTestComplete ch ⟨[], []⟩) s = .next (chanPut s ch { x with
          testRun := none, result := if rdyState s (idxChan ch) = .fenced then 3 else 1, fails := 0, position := 2 ^ 31 - 64 })) ∧
      (r.clear = true →
        ∃ t, exec (.memTestComplete ch ⟨[], []⟩) s = .next t ∧ (chanGet t ch).lost = false ∧ (chanGet t ch).testRun = none ∧
          (chanGet t ch).result = (if rdyState s (idxChan ch) = .fenced then 3 else 1) ∧
          ∀ a, byteAt t a = if space a = .hbm ∧ (chanOf s a).1 = ch then 0 else byteAt s a))

/-! ### Ports and messages (13) -/

/-- The hawser link at a port: a slot frame begins on every port at its instant; a marker that comes in the window of its frame names the peer and is
noted; the window closes when it is due, and a frame whose marker is missing is counted;
a cell that the FEC can't correct, or whose CRC is wrong, is dropped and counted; one that is ahead of its turn is held, of an undefined kind too, which
is counted besides; a trained port is TESTING
with fresh sequences and credits; and a port that hasn't trained in 1 s begins again (13 R488, R490-R493, R519). -/
def Obligations.LinkLayer : Prop :=
  ∀ (s : State) (p corr : Nat) (raw : List Byte) (fec : FecReport), Canonical s → p < 16 →
    let x := portGet s p
    let live := rdyState s (idxPort p) = .testing ∨ rdyState s (idxPort p) = .ready ∨ rdyState s (idxPort p) = .grey
    (s.tsq.running = false → exec .slotFrameStart s = .next s) ∧
    (s.tsq.running = true →
      let first := s.tsq.tickStart + 2000
      let due := if s.now ≤ first then 0 else (s.now - first + 1999) / 2000
      let k := if s.hws.frameActive = true then max due (s.hws.frameNo + 1) else due
      if s.tsq.tickStart + period s ≤ first + 2000 * k then exec .slotFrameStart s = .next s
      else ∃ t, exec .slotFrameStart s = .next t ∧ t.hws.frameActive = true ∧ t.hws.frameNo = k ∧ t.mem = s.mem ∧ t.harts = s.harts) ∧
    (x.windows = [] → exec (.markerWindowClose p) s = .next s) ∧
    (∀ n k later, x.windows = (n, k) :: later → live →
      let due := markerDue s p n k + 1000
      let x' := { x with windows := later, seen := x.seen.filter fun f => decide (n < f.1 ∨ (f.1 = n ∧ k < f.2)) }
      (x.seen.contains (n, k) = true → ∃ t, exec (.markerWindowClose p) s = .next t ∧ portGet t p = { x' with missRun := 0 } ∧ t.csr = s.csr ∧
        t.mem = s.mem ∧ (timeRuns s = true → t.now = max s.now due)) ∧
      (x.seen.contains (n, k) = false → (rdyState s (idxPort p) ≠ .ready ∨ x.missRun + 1 < 4) →
        ∃ t, exec (.markerWindowClose p) s = .next t ∧ portGet t p = { x' with missRun := min 4 (x.missRun + 1), goodRun := 0 } ∧ t.mem = s.mem ∧
          rget t (regHwsMissed p) = rget (bump1 s (regHwsMissed p)) (regHwsMissed p) ∧ (timeRuns s = true → t.now = max s.now due))) ∧
    (¬live → exec (.cellRx p raw corr fec) s = .next s ∧ exec (.markerRx p raw) s = .next s) ∧
    (rdyState s (idxPort p) = .ready → (takeAcks x raw).1 = false → bit (fld raw 0xA 1) 0 = false →
      inWindow s p (fld raw 0 8) (fld raw 8 2) = true → x.seen.contains (fld raw 0 8, fld raw 8 2) = false →
      ∃ t, exec (.markerRx p raw) s = .next t ∧ portGet t p = { (takeAcks x raw).2 with seen := x.seen ++ [(fld raw 0 8, fld raw 8 2)] } ∧
        rget t (regHwsRxCells p) = rget (bump1 s (regHwsRxCells p)) (regHwsRxCells p) ∧
        bit (rget t (regHwsPortState p)) 22 = true ∧ fget t (regHwsPortState p) 17 8 = fld raw 0x3E 2 % 1024 ∧ t.mem = s.mem ∧ t.harts = s.harts) ∧
    (live →
      let read := bump (bump s (regHwsFecCorr p) corr) (regHwsFecUncorr p) fec.fresh
      ((fec.bad = true ∨ cellGood raw = false) → exec (.cellRx p raw corr fec) s = .next (bump1 read (regHwsCrcErr p))) ∧
      (fec.bad = false → cellGood raw = true →
        let c := parseCell raw
        let d := (c.seq + 65536 - x.rxNext) % 65536
        let counted := if kindDefined c.kind = true then bump1 read (regHwsRxCells p) else bump1 (bump1 read (regHwsRxCells p)) (regHwsCrcErr p)
        (c.kind = 0 → exec (.cellRx p raw corr fec) s = .next counted) ∧
        (c.kind = 0x0F → c.cls ≠ 3 → exec (.cellRx p raw corr fec) s = .next (receiveMarker counted p c.payload)) ∧
        (c.kind ≠ 0 → c.kind ≠ 0x0F → c.cls ≠ 3 → 0 < d → (x.held.any (fun y => y.seq == c.seq)) = false → d < 32768 →
          exec (.cellRx p raw corr fec) s = .next (portPut counted p { x with held := x.held ++ [c] })) ∧
        (c.kind ≠ 0 → c.kind ≠ 0x0F → c.cls ≠ 3 → 32768 ≤ d → exec (.cellRx p raw corr fec) s = .next counted))) ∧
    (rdyState s (idxPort p) = .training →
      (s.elec.serclk = true → ∃ t, exec (.portTrained p) s = .next t ∧ rdyState t (idxPort p) = .testing ∧ t.mem = s.mem ∧
        portGet t p = { portReset with demand := x.demand, snapA := x.snapA, snapB := x.snapB, trainAt := x.trainAt }) ∧
      ∃ t, exec (.trainingTimeout p) s = .next t ∧ (timeRuns s = true → t.now = max s.now (x.trainAt + 1000000000)) ∧ portGet t p = { x with trainAt := t.now } ∧
        t.csr = s.csr ∧ t.mem = s.mem)

/-- Messages of other devices that read or add: a gather request of an apply window waits for T+0; a part of an answer stream that does not end it is
kept; an answer nobody asked for is dropped and counted; and a scatter-add adds each binary32 number to its word or, where its span is bad, nothing (13
R507-R511). -/
def Obligations.GatherMessages : Prop :=
  ∀ (s : State) (src tag : Nat) (body : List Byte), Canonical s → s.boot.pwrgood = true →
    (inApply s = true → ∃ t, exec (.gatherReq src tag body) s = .next t ∧ t.mem = s.mem ∧ t.csr = s.csr ∧ t.harts = s.harts ∧
      t.hws.deferredReqs = s.hws.deferredReqs ++ [⟨src, tag, 0x01, false, body, []⟩]) ∧
    (inApply s = false → exec (.gatherReq src tag body) s = .next (serveRequest (takeMsg s src tag 0x01) body) ∧
      (devGrey s = true → (serveRequest (takeMsg s src tag 0x01) body).mem = s.mem ∧ (serveRequest (takeMsg s src tag 0x01) body).plc = s.plc)) ∧
    (s.hws.remotes.find? (fun r => r.tag == fld body 0 3 && r.hart.isNone) = none →
      ∃ t, exec (.gatherRsp src tag body) s = .next t ∧ t.mem = s.mem ∧ t.harts = s.harts ∧ t.cores = s.cores ∧ t.hws.remotes = s.hws.remotes ∧
        bit (rget t regHwsEvents) 1 = true) ∧
    (∀ r, s.hws.remotes.find? (fun r => r.tag == fld body 0 3 && r.hart.isNone) = some r → fld body 6 1 ≠ 1 → bit (fld body 7 1) 0 = false →
      r.lastPart = none →
      ∃ t, exec (.gatherRsp src tag body) s = .next t ∧ t.mem = s.mem ∧ t.harts = s.harts ∧ t.cores = s.cores ∧ t.csr = s.csr ∧
        t.hws.remotes = s.hws.remotes.map fun x => if x.tag = fld body 0 3 then { r with parts := pput r.parts (fld body 8 2) (body.drop 16) } else x) ∧
    (s.hws.remotes.find? (fun r => r.tag == tag && r.hart.isNone) = none → exec (.remoteGatherTimeout tag) s = .next s) ∧
    (∀ r, s.hws.remotes.find? (fun r => r.tag == tag && r.hart.isNone) = some r → r.core ≠ embOwner → r.core ≠ serveOwner →
      r.items.length ≠ 3 → (r.core < 272 → atApply (advance s r.deadline) = false) →
      ∃ t, exec (.remoteGatherTimeout tag) s = .next t ∧ (timeRuns s = true → t.now = max s.now r.deadline) ∧ t.mem = s.mem ∧ t.harts = s.harts ∧
        ∀ x ∈ (coreGet t r.core).cmds, x.id = r.cmd → (r.items.getD 0 0, greyBytes r) ∈ x.got) ∧
    (let addr := fld body 0 6
     let count := fld body 6 2
     (saBad s addr count (fld body 8 2) body = true → ∃ t, exec (.scatterAdd src tag body) s = .next t ∧ t.mem = s.mem ∧ t.hit = s.hit ∧ t.harts = s.harts) ∧
     (saBad s addr count (fld body 8 2) body = false → fld body 8 2 = 0 → (∀ a, chanLost s a = false) →
      (∀ a, addr ≤ a → a < addr + 4 * count → unitBad s a 1 = false) →
      ∃ t, exec (.scatterAdd src tag body) s = .next t ∧ t.hit = s.hit ∧ t.harts = s.harts ∧
        (∀ i, i < count → readNat t (addr + 4 * i) 4 = (addF (readNat s (addr + 4 * i) 4) (fld body (16 + 4 * i) 4)).1 % 2 ^ 32) ∧
        ∀ a, a < addr ∨ addr + 4 * count ≤ a → byteAt t a = byteAt s a))

/-- Messages of other devices about hitches and barriers: an operation is applied to the hitch and answered, or answered REFUSED or GREY without an
effect; the answer, or the time-out, releases the waiting caller with its result word; a release goes down to the nodes of the cores that take part,
and arrivals, releases and breaks of a barrier that is not this device's are ignored (11 R427, R436, R438; 13 R516, R517). -/
def Obligations.HitchMessages : Prop :=
  ∀ (s : State) (src tag : Nat) (body : List Byte), Canonical s → s.boot.pwrgood = true →
    let h := fld body 2 2
    let y := fld body 4 4
    let x := hitchGet s h
    let own := 0x1000 ≤ h ∨ (h ≠ 0 ∧ bit (fld body 1 1) 0 = true)
    (greyAt s 0x36 = true ∨ h = 0 ∨ (h < 0x1000 ∧ bit (fld body 1 1) 0 = false) ∨ fld body 0 1 < 2 ∨ 5 ≤ fld body 0 1 ∨
        ((fld body 0 1 = 2 ∨ fld body 0 1 = 3) ∧ y ≠ 0) →
      ∃ t, exec (.hitchOp src tag body) s = .next t ∧ (∀ j, hitchGet t j = hitchGet s j) ∧ t.harts = s.harts ∧ t.mem = s.mem) ∧
    (greyAt s 0x36 = false → own → fld body 0 1 = 4 →
      ∀ r : Nat, (r : Int) = x.count + (BitVec.ofNat 32 y).toInt → r < 2 ^ 32 →
        ∃ t, exec (.hitchOp src tag body) s = .next t ∧ hitchGet t h = { x with count := r } ∧ (∀ j, j ≠ h → hitchGet t j = hitchGet s j) ∧ t.mem = s.mem) ∧
    (greyAt s 0x36 = false → own → fld body 0 1 = 2 → y = 0 → x.queue = [] → x.credits < 65535 →
      ∃ t, exec (.hitchOp src tag body) s = .next t ∧ hitchGet t h = { x with credits := x.credits + 1 } ∧ t.harts = s.harts ∧ t.mem = s.mem) ∧
    (∀ w r, greyAt s 0x36 = false → own → fld body 0 1 = 2 → y = 0 → x.queue = w :: r →
      ∃ t, exec (.hitchOp src tag body) s = .next t ∧ hitchGet t h = { x with queue := r } ∧ t.mem = s.mem) ∧
    (greyAt s 0x36 = false → own → fld body 0 1 = 3 → y = 0 →
        ∃ t, exec (.hitchOp src tag body) s = .next t ∧ hitchGet t h = { x with queue := [] } ∧ t.mem = s.mem) ∧
    (∀ r n, s.hws.remotes.find? (fun r => r.tag == fld body 0 3 && r.hart.isSome) = some r → r.hart = some n → n < 17428 → awaits s n (fld body 0 3) = true →
      ∃ t, exec (.hitchRsp src tag body) s = .next t ∧ (hart t (hartOf n)).st = .ready ∧ (hart t (hartOf n)).pc = (hart s (hartOf n)).pc + 8 ∧
        reg t (hartOf n) r.rd = (if r.rd.val = 0 then 0
          else BitVec.ofNat 64 (fld body 8 4 * 2 ^ 32 + fld body 5 1 % 2 * 2 ^ 16 + fld body 4 1)) ∧
        (∀ k, k ≠ hartOf n → hart t k = hart s k) ∧ t.mem = s.mem) ∧
    (s.hws.remotes.find? (fun r => r.tag == fld body 0 3 && r.hart.isSome) = none →
      ∃ t, exec (.hitchRsp src tag body) s = .next t ∧ t.harts = s.harts ∧ t.mem = s.mem ∧ bit (rget t regHwsEvents) 1 = true) ∧
    (∀ r n, s.hws.remotes.find? (fun r => r.tag == tag && r.hart.isSome) = some r → r.hart = some n → n < 17428 → awaits s n tag = true →
      (n < 17408 → atApply (advance s r.deadline) = false) →
      ∃ t, exec (.hitchRspTimeout tag) s = .next t ∧ (hart t (hartOf n)).st = .ready ∧ (hart t (hartOf n)).pc = (hart s (hartOf n)).pc + 8 ∧
        reg t (hartOf n) r.rd = (if r.rd.val = 0 then 0 else 0xA) ∧ (timeRuns s = true → t.now = max s.now r.deadline) ∧ t.mem = s.mem) ∧
    (let b := fld body 0 2 % 1024
     knotOpen s b = false →
      (∃ t, exec (.knotArrive src tag body) s = .next t ∧ t.hit = s.hit ∧ t.mem = s.mem ∧ t.harts = s.harts) ∧
      (∃ t, exec (.knotRelease src tag body) s = .next t ∧ t.hit = s.hit ∧ t.mem = s.mem ∧ t.harts = s.harts) ∧
      ∃ t, exec (.knotBreak src tag body) s = .next t ∧ t.hit = s.hit ∧ t.mem = s.mem ∧ t.harts = s.harts) ∧
    (let b := fld body 0 2 % 1024
     knotOpen s b = true → (barGet s b).broken = false → (barGet s b).def_.defined = true →
      (∃ t, exec (.knotBreak src tag body) s = .next t ∧ (barGet t b).broken = true ∧ (barGet t b).brokenTick = fld body 8 8 ∧
        (∀ a ∈ t.hit.arrivals, a.1 ≠ b) ∧ t.mem = s.mem) ∧
      (∃ t, exec (.knotRelease src tag body) s = .next t ∧ t.harts = s.harts ∧ t.mem = s.mem ∧
        (∀ c ∈ (barGet s b).pcores, (b, c, bit (fld body 3 1) 0) ∈ t.hit.releases) ∧
        ∀ k, k < 20 → bit (barGet s b).def_.ctrl k = true → (b, 600 + k, bit (fld body 3 1) 0) ∈ t.hit.releases) ∧
      (let node := (barGet s b).node 500
       let sense := bit (fld body 3 1) 0
       node.count sense + 1 < knotTarget (barGet s b) 500 →
        ∃ t, exec (.knotArrive src tag body) s = .next t ∧ barGet t b = (barGet s b).putNode 500 (node.setCount sense (node.count sense + 1)) ∧
          t.harts = s.harts ∧ t.mem = s.mem))

/-! ### Moved rows and the Rugon die (09; 13 R515, R518; 14) -/

/-- Directory broadcasts and row streams: the first part of a new broadcast is kept until the others come; one that was received already, or rows that
no MIGRATE accepted, change nothing; a row of an accepted one is written in its place and counts on the budget, and none into a grey channel; one that says
it has expired ends its gap; a query of what isn't kept is answered so; an acknowledgement in the window marks the rows of its message copied, one
after the cut-off nothing (01 R40; 09 R355, R358; 13 R515, R518). -/
def Obligations.RelocationMessages : Prop :=
  ∀ (s : State) (src tag : Nat) (body : List Byte), Canonical s → s.boot.pwrgood = true →
    let seq := fld body 0 4
    (bit (fld body 0x14 1) 0 = true → s.plc.gaps.contains (src, seq) = true →
      ∃ t, exec (.relocBcast src tag body) s = .next t ∧ t.plc = { s.plc with gaps := s.plc.gaps.filter (· ≠ (src, seq)) } ∧
        bit (rget t regPlcEvents) 4 = true ∧ t.mem = s.mem ∧ t.harts = s.harts) ∧
    (s.plc.gaps.contains (src, seq) = false → bit (fld body 0x14 1) 0 = true → exec (.relocBcast src tag body) s = .next (takeMsg s src tag 9)) ∧
    (∀ l, s.plc.gaps.contains (src, seq) = false → bit (fld body 0x14 1) 0 = false → pfind s.plc.lastSeq src = some l →
      ((seq + 2 ^ 32 - l) % 2 ^ 32 = 0 ∨ 2 ^ 31 ≤ (seq + 2 ^ 32 - l) % 2 ^ 32) → (s.plc.rx.any fun b => b.src == src && b.seq == seq) = false →
      exec (.relocBcast src tag body) s = .next (takeMsg s src tag 9)) ∧
    (s.plc.gaps.contains (src, seq) = false → bit (fld body 0x14 1) 0 = false → pfind s.plc.lastSeq src = none →
      (s.plc.rx.any fun b => b.src == src && b.seq == seq) = false → 2 ≤ fld body 6 2 →
      ∃ t b, exec (.relocBcast src tag body) s = .next t ∧ t.plc = { s.plc with lastSeq := pput s.plc.lastSeq src seq, rx := s.plc.rx ++ [b] } ∧
        b.src = src ∧ b.seq = seq ∧ b.tick = fld body 8 8 ∧ b.parts = fld body 6 2 ∧ b.got = [fld body 4 2] ∧ b.entries.length = fld body 0x10 4 ∧
        t.mem = s.mem ∧ t.harts = s.harts) ∧
    (∃ t, exec (.relocQuery src tag body) s = .next t ∧ t.plc = s.plc ∧ t.mem = s.mem ∧ t.harts = s.harts) ∧
    (s.plc.sent.find? (fun b => b.seq == seq) = none →
      exec (.relocQuery src tag body) s = .next (post (takeMsg s src tag 0x0A) 9 src (bcastBytes ⟨s.boot.dev, seq, s.tsq.tick, 1, [], [], 0⟩ 0 [] true))) ∧
    (let mine := fun a : Accepted => a.src == src && a.table == fld body 0xC 2 && a.row == fld body 0x10 5 && decide (a.tick ≤ s.tsq.tick)
     (s.plc.accepted.find? mine = none ∨ inApply s = false ∨ fld body 0 8 ≠ s.tsq.tick → exec (.rowStream src tag body) s = .next (takeMsg s src tag 0xC)) ∧
     ∀ a, s.plc.accepted.find? mine = some a → inApply s = true → fld body 0 8 = s.tsq.tick →
      (((windowItems s).find? fun k => k.2 == a.item).any fun k => s.tsq.skip.contains k.1) = false →
      ((a.refused = true ∨ greyAt s (idxChan (fld a.item 0xD 1)) = true) →
        ∃ t, exec (.rowStream src tag body) s = .next t ∧ t.mem = s.mem ∧ t.plc.budget = s.plc.budget ∧ t.harts = s.harts) ∧
      (a.refused = false → greyAt s (idxChan (fld a.item 0xD 1)) = false → a.cut = false → fld body 0xE 2 = 1 → 0 < a.stride →
        s.plc.budget + a.stride ≤ migBudget s → fld a.item 0xE 1 ≠ 3 →
        let rec_ := (body.drop 32).take (8 + a.stride)
        let x := fld rec_ 0 5
        a.row ≤ x → x < a.row + a.count → a.taken.contains x = false →
        ∃ t, exec (.rowStream src tag body) s = .next t ∧ t.plc.budget = s.plc.budget + a.stride ∧ t.harts = s.harts ∧
          t.mem = (memWrite s (a.base + (x - a.row) * a.stride) (rec_.drop 8)).mem ∧
          ∀ y ∈ t.plc.accepted, y.item = a.item → x ∈ y.got)) ∧
    (inApply s = false ∨ s.tsq.stage = 3 ∨ fld body 0 8 ≠ s.tsq.tick → exec (.rowStreamAck src tag body) s = .next (takeMsg s src tag 0xC)) ∧
    (inApply s = true → s.tsq.stage ≠ 3 → fld body 0 8 = s.tsq.tick →
      let hit := (s.plc.copied.filter fun c => c.item == fld body 8 4 && c.msgSeq == fld body 0x18 4 && c.dev == src).take (fld body 0x1C 4)
      ∃ t, exec (.rowStreamAck src tag body) s = .next t ∧ t.mem = s.mem ∧ t.csr = s.csr ∧ t.harts = s.harts ∧
        t.plc = { s.plc with copied := s.plc.copied.map fun c => if hit.contains c then { c with acked := true } else c })

/-- Gradients and slices (14 R542-R557): a message with a bad header is refused whole and counted; one to a frozen layer is discarded and counted; a
slice that is of another version than the next one is dropped and counted; the end of a background refresh leaves the new roots to await the next
step; without a running tick or a working Rugon die nothing is pushed, drained or closed.
The oldest open step of a layer closes once, and the next that has not closed is the oldest open one; a frozen layer makes no version, one with a number
that isn't finite none either, nor one whose master or state can't be read, which is to be rebuilt by an OWNER item that names this device; another
makes the version that counts its steps (14 R544, R550, R558, R561). -/
def Obligations.UpdateMessages : Prop :=
  (∀ (s : State) (src tag layer table : Nat) (body : List Byte), Canonical s → s.boot.pwrgood = true →
    let id := fld body 2 2
    let l := layerGet s id
    (fld body 0 1 ≠ 1 →
      ∃ t, exec (.gradientLayer src tag body) s = .next t ∧ t.upd = s.upd ∧ t.mem = s.mem ∧ t.emb = s.emb ∧ bit (rget t regUpdEvents) 6 = true ∧
        rget t regUpdBadGrad = rget (bump1 s regUpdBadGrad) regUpdBadGrad) ∧
    (id < 1024 → l.state ≠ 0 → l.owner = s.boot.dev → fld body 0 1 = 1 → fld body 1 1 = l.gfmt → 0 < fld body 6 2 →
      fld body 6 2 ≤ gradLimit (fld body 1 1) → zeroAt body 0x18 8 = true → body.length = 32 + (if fld body 1 1 = 0 then 4 else 2) * fld body 6 2 →
      inSlice l (devCount s) src (fld body 0x10 8) (fld body 6 2) = true → verAfter (fld body 4 2) l.curVer = false →
      verAfter l.resetVer (fld body 4 2) = false →
      exec (.gradientLayer src tag body) s = .next (contribLayer (takeMsg s src tag 0xD) id (fld body 8 8) (fld body 0x10 8)
        (gradValues (fld body 1 1) (fld body 6 2) (body.drop 32))) ∧
      (l.frozen = true →
        (contribLayer (takeMsg s src tag 0xD) id (fld body 8 8) (fld body 0x10 8) (gradValues (fld body 1 1) (fld body 6 2) (body.drop 32))).upd.stepAccs =
          s.upd.stepAccs)) ∧
    (fld body 0 1 ≠ 2 → ∃ t, exec (.gradientRows src tag body) s = .next t ∧ t.upd = s.upd ∧ t.mem = s.mem ∧ t.emb = s.emb ∧
      bit (rget t regUpdEvents) 6 = true) ∧
    (let tb := tableGet s id
     let rec_ := (body.drop 32).take (8 + 4 * tb.width)
     id < 4096 → tb.state ≠ 0 → fld body 0 1 = 2 → fld body 1 1 = 0 → fld body 6 2 = 1 → zeroAt body 0x10 16 = true →
      body.length = 32 + (8 + 4 * tb.width) → verAfter (fld body 4 2) tb.curVer = false → fld rec_ 5 3 = 0 → fld rec_ 0 5 < tb.rows →
      (hashHome s tb id (fld rec_ 0 5)).1 = s.boot.dev →
      exec (.gradientRows src tag body) s = .next (contribRow (takeMsg s src tag 0xD) id (fld body 8 8) (fld body 4 2) (fld rec_ 0 5)
        (gradValues 0 tb.width (rec_.drop 8))) ∧
      (tableFrozen s id = true → (contribRow (takeMsg s src tag 0xD) id (fld body 8 8) (fld body 4 2) (fld rec_ 0 5)
        (gradValues 0 tb.width (rec_.drop 8))).upd.rowAccs = s.upd.rowAccs)) ∧
    (fld body 0 1 = 3 → fld body 1 1 ≤ 1 → zeroAt body 6 2 = true → zeroAt body 0x10 16 = true →
      (∀ k, id < 1024 → l.state ≠ 0 → l.owner = s.boot.dev → stepClosed l (fld body 8 8) = false → (stepAcc s id (fld body 8 8)).done.contains src = false →
        stepAt l s.tsq.tick = some k → fld body 8 8 ≤ k → verAfter (fld body 4 2) l.curVer = false → verAfter l.resetVer (fld body 4 2) = false →
        exec (.gradientDone src tag body) s = .next (doneLayer (takeMsg s src tag 0xD) id (fld body 8 8) src)) ∧
      (id < 4096 → l.state = 0 → (tableGet s id).state ≠ 0 → verAfter (fld body 4 2) (tableGet s id).curVer = false →
        exec (.gradientDone src tag body) s = .next (doneRows (takeMsg s src tag 0xD) id (fld body 8 8) src)) ∧
      (id < 1024 → l.state ≠ 0 → l.owner = s.boot.dev → stepClosed l (fld body 8 8) = true → (tableGet s id).state = 0 →
        verAfter (fld body 4 2) l.curVer = false → verAfter l.resetVer (fld body 4 2) = false →
        exec (.gradientDone src tag body) s = .next (takeMsg s src tag 0xD))) ∧
    (fld body 0 1 ≠ 3 → ∃ t, exec (.gradientDone src tag body) s = .next t ∧ t.upd = s.upd ∧ t.mem = s.mem ∧ t.emb = s.emb ∧
      bit (rget t regUpdEvents) 6 = true) ∧
    (s.tsq.running = false ∨ rugonUp s = false →
      exec .layerPush s = .next s ∧ exec .ringDrain s = .next s ∧ exec (.layerStepTimeout layer) s = .next s ∧ exec (.rowTickTimeout table) s = .next s) ∧
    (∀ j x k, s.tsq.running = true → rugonUp s = true → s.upd.layers = [(j, x)] → stepAt x s.tsq.tick = some (k + 1) → x.state ≠ 0 → x.pushed ≤ k →
      exec .layerPush s = .next (pushLayer s j k)) ∧
    (∀ j x, s.tsq.running = true → rugonUp s = true → s.tsq.tick ≠ 0 → s.upd.tblRules = [(j, x)] → x.rule ≠ [] → x.drained < s.tsq.tick →
      exec .ringDrain s = .next (drainRing s j (s.tsq.tick - 1))) ∧
    (∀ h, inApply s = false → rugonUp s = true → s.upd.heldRows = [h] → staged (tableGet s h.table) h.row = false →
      stagedUpdates (tableGet s h.table) < (tableGet s h.table).stageRows →
      ∃ t, exec .stagingRetry s = .next t ∧ t.upd = { s.upd with heldRows := [] } ∧ t.mem = s.mem ∧ t.csr = s.csr ∧
        tableGet t h.table = { tableGet s h.table with fifo := (tableGet s h.table).fifo ++ [⟨h.row, h.ver, h.data, false, true⟩] }) ∧
    (s.tsq.running = true → rugonUp s = true → (layerGet s layer).state ≠ 0 → (layerGet s layer).owner = s.boot.dev →
      let due := (layerGet s layer).startTick + ((layerGet s layer).nextStep + 2) * (layerGet s layer).stepTicks - 1
      (s.tsq.tick < due → exec (.layerStepTimeout layer) s = .next s) ∧
      (due ≤ s.tsq.tick → exec (.layerStepTimeout layer) s =
        .next (closeReady 8 layer (closeStep (advance s (tickAt s due + period s - applyLen s - settleLen s)) layer)))) ∧
    (s.tsq.running = true → rugonUp s = true → s.tsq.tick ≠ 0 → (tableGet s table).state ≠ 0 → openTick s table < s.tsq.tick →
      exec (.rowTickTimeout table) s = .next (closeRows (advance s (settleAt s)) table (s.tsq.tick - 1))) ∧
    ((inApply s = true ∨ rugonUp s = false ∨ s.upd.heldRows = []) → exec .stagingRetry s = .next s) ∧
    ((layerGet s layer).heldScatter = none → exec (.sliceScatter layer) s = .next s) ∧
    (∀ v, (layerGet s layer).heldScatter = some v → (layerGet s layer).owner = s.boot.dev → (layerGet s layer).next = 0 → (layerGet s layer).state ≠ 0 →
      rugonUp s = true → exec (.sliceScatter layer) s = .next (scatter s layer v)) ∧
    ((layerGet s layer).refresh = none → exec (.rootRefreshDone layer) s = .next s) ∧
    (∀ bs, (layerGet s layer).refresh = some bs →
      let x := layerGet s layer
      let rs := ((blockShapes x.rows x.cols).zip bs).map fun b => blockRoots x.rule b.1.2.1 b.1.2.2.2 b.2
      ∃ t, exec (.rootRefreshDone layer) s = .next t ∧ layerGet t layer = { x with refresh := none, fresh := rs, fallback := rs.any Option.isNone } ∧
        t.mem = s.mem ∧ t.emb = { s.emb with greys := t.emb.greys }) ∧
    (sliceLayer s body 1 = none ∨ src ≠ l.owner → exec (.sliceData src tag body) s = .next (takeMsg s src tag 0xE)) ∧
    (sliceLayer s body 1 = some (id, l) → src = l.owner → inSlice l (devCount s) s.boot.dev (fld body 8 8) (fld body 6 2) = true → l.next = 3 →
      exec (.sliceData src tag body) s = .next (bump1 (takeMsg s src tag 0xE) regUpdSliceDrop)) ∧
    (sliceLayer s body 1 = some (id, l) → src = l.owner → inSlice l (devCount s) s.boot.dev (fld body 8 8) (fld body 6 2) = true → l.next ≠ 3 →
      exec (.sliceData src tag body) s =
        .next (takeSlice (takeMsg s src tag 0xE) id (fld body 4 2) (fld body 8 8) (fld body 6 2) (fld body 0x10 4) (body.drop 32))) ∧
    (sliceLayer s body 2 = none ∨ src ≠ l.owner → exec (.sliceEnd src tag body) s = .next (takeMsg s src tag 0xE)) ∧
    (sliceLayer s body 2 = some (id, l) → src = l.owner →
      exec (.sliceEnd src tag body) s = .next (takeEnd (takeMsg s src tag 0xE) id (fld body 4 2) (fld body 8 8) (fld body 0x10 4))) ∧
    (sliceLayer s body 3 = none ∨ l.owner ≠ s.boot.dev → exec (.slicePull src tag body) s = .next (takeMsg s src tag 0xE)) ∧
    (sliceLayer s body 3 = some (id, l) → l.owner = s.boot.dev → inSlice l (devCount s) src (fld body 8 8) (fld body 6 2) = true →
      ∃ t, exec (.slicePull src tag body) s = .next t ∧ t.mem = s.mem ∧ t.csr = s.csr ∧
        layerGet t id = putMaster l (fld body 8 8) (sliceValues l (fld body 0x10 4) (fld body 6 2) (body.drop 32)))) ∧
  ∀ (s : State) (id : Nat), Canonical s →
    let l := layerGet s id
    let t := closeStep s id
    let unread := s.upd.slowBad.any (layerUnit s id)
    (layerGet t id).nextStep = (markClosed l l.nextStep).nextStep ∧ (∀ j, j ≠ id → layerGet t j = layerGet s j) ∧ t.harts = s.harts ∧
      (∀ b ∈ t.upd.stepAccs, ¬(b.layer = id ∧ b.step = l.nextStep)) ∧
      (l.frozen = true → (layerGet t id).heldScatter = l.heldScatter ∧ (layerGet t id).steps = l.steps ∧ t.csr = s.csr) ∧
      (l.frozen = false → unread = true → layerItem id 5 l ∈ t.emb.planned ∧ (layerGet t id).heldScatter = l.heldScatter ∧
        (layerGet t id).steps = l.steps ∧ t.csr = s.csr) ∧
      (l.frozen = false → unread = false → (stepAcc s id l.nextStep).acc.all (fun e => finF e.2) = true →
        (layerGet t id).steps = min (2 ^ 32 - 1) (l.steps + 1) ∧ (layerGet t id).heldScatter = some ((layerGet t id).steps % 65536))

/-! ### Faults and readiness (01 R39-R42; 15; 16 R630-R637) -/

/-- No task is in flight and no barrier is defined: nothing else ends with a unit. -/
def Sys2Proof.Machine.Quiet (s : State) : Prop := s.sch.tasks = [] ∧ s.hit.barriers = []

/-- Faults of cores, control cores, dies and the device (15 R576-R591): a failed self-check, and the last heartbeat that may be missed, fence the core
at once, an error corrected only counts, and queue a FENCE item for its number; a control core that faults stops and restarts at the next T+0, and is fenced at the third fault in 1,000
ticks; a die whose tokens stop enters GREY, and a released one restarts; hold ticks restart the control cores and then take the device into GREY. -/
def Obligations.UnitFaults : Prop :=
  ∀ (s : State) (core check k cause die : Nat), Canonical s → Quiet s → core < 272 → k < 20 → die < 6 → die ≠ 4 →
    let item := match logicalOf s core with
      | some l => [(⟨0, l, core, 0xFFFF⟩ : FenceItem)]
      | none => []
    ((rdyState s (idxCore core) = .absent ∨ rdyState s (idxCore core) = .fenced) → exec (.coreCheck core check) s = .next s) ∧
    (rdyState s (idxCore core) ≠ .absent → rdyState s (idxCore core) ≠ .fenced →
      exec (.coreCheck core 0) s = .next (corePut s core { coreGet s core with corrections := (coreGet s core).corrections + 1 }) ∧
      (check ≠ 0 → ∃ t, exec (.coreCheck core check) s = .next t ∧ rdyState t (idxCore core) = .fenced ∧ t.tsq.fences = s.tsq.fences ++ item ∧
        t.mem = s.mem)) ∧
    (s.tsq.running = true → rdyState s (idxCore core) = .ready → greyAt s (idxCore core) = false → heartbeatLost s core = true →
      ∃ t, exec (.coreHeartbeat core) s = .next t ∧ rdyState t (idxCore core) = .fenced ∧ t.tsq.fences = s.tsq.fences ++ item ∧ t.mem = s.mem) ∧
    (rdyState s (idxCtrl k) ≠ .absent → rdyState s (idxCtrl k) ≠ .fenced →
      let recent := ((ctrlGet s k).faultTicks.filter fun t => decide (s.tsq.tick < t + 1000)).length
      ∃ t, exec (.ctrlCoreFault k cause) s = .next t ∧ hartAt t (17408 + k) = hartReset ∧ t.mem = s.mem ∧
        (recent < 2 → (ctrlGet t k).restart = 1 ∧ rdyState t (idxCtrl k) = rdyState s (idxCtrl k)) ∧
        (2 ≤ recent → rdyState t (idxCtrl k) = .fenced)) ∧
    (rdyState s (idxDie die) = .ready →
      ∃ t, exec (.dieTimeout die) s = .next t ∧ rdyState t (idxDie die) = .grey ∧ (rdyGet t (idxDie die)).ownFault = true ∧ t.mem = s.mem) ∧
    (rdyState s (idxDie die) = .grey → (rdyGet s (idxDie die)).forced = false → (rdyGet s (idxDie die)).released = false →
      (rdyGet s (idxDie die)).recovered = false → s.elec.overtemp.contains die = false →
      ∃ t, exec (.dieRestart die) s = .next t ∧ rdyState t (idxDie die) = .grey ∧ (rdyGet t (idxDie die)).released = true ∧ t.mem = s.mem) ∧
    (s.elec.overtemp.contains die = true → exec (.dieRestart die) s = .next s) ∧
    (inApply s = true → s.tsq.holdTicks = stallTicks s →
      ∃ t, exec .controlStall s = .next t ∧ t.mem = s.mem ∧
        ∀ j, j < 20 → (ctrlGet t j).restart = if rdyState s (idxCtrl j) = .fenced then (ctrlGet s j).restart else 1) ∧
    (inApply s = true → s.tsq.holdTicks ≠ stallTicks s → exec .controlStall s = .next s) ∧
    (inApply s = true → devTicks s ≤ s.tsq.holdTicks → rdyState s 0 ≠ .grey → rdyState s 0 ≠ .fenced →
      ∃ t, exec .deviceWatchdog s = .next t ∧ rdyState t 0 = .grey ∧ (rdyGet t 0).ownFault = true ∧ t.mem = s.mem) ∧
    (inApply s = true → s.tsq.holdTicks < devTicks s → exec .deviceWatchdog s = .next s)

/-- Fault records (15 R595-R603, R611): before the aggregator has become READY a report is held; after it the first report of a pair in a tick opens a record
under the next SEQ, in its place of the ring; and an acknowledgement takes a pending record off the list, with the next one that waits after it. -/
def Obligations.FaultRecords : Prop :=
  ∀ (s : State) (kind cls action subject reporter detail seq : Nat), Canonical s → s.boot.pwrgood = true →
    kind < 2 ^ 16 → cls < 256 → action < 256 → subject < 2 ^ 64 → reporter < 2 ^ 64 →
    (rdyState s 0x39 ≠ .ready → rdyState s 0x39 ≠ .grey →
      ∃ t r, exec (.faultReport kind cls action subject reporter false detail) s = .next t ∧ t = { s with flt := { s.flt with held := s.flt.held ++ [r] } } ∧
        r.kind = kind ∧ r.subject = subject ∧ r.action = action ∧ r.reporter = reporter) ∧
    (∀ c, (rdyState s 0x39 = .ready ∨ rdyState s 0x39 = .grey) → kindClass kind = some c → (s.flt.opens.find? fun e => e.1 == subject && e.2.1 == kind) = none →
      s.flt.opens.length < 1024 →
      let n := rget s regFltHead
      ∃ t r, exec (.faultReport kind cls action subject reporter false detail) s = .next t ∧ pfind t.flt.ring (n % 4096) = some r ∧ r.seq = n ∧
        r.kind = kind ∧ r.cls = c ∧ r.subject = subject ∧ r.action = action ∧ r.witness = 1 ∧ rget t regFltHead = (n + 1) % 2 ^ 64 ∧
        t.flt.opens = s.flt.opens ++ [(subject, kind, n)] ∧ t.flt.pendAck = s.flt.pendAck ∧
        t.mem = s.mem ∧ t.harts = s.harts ∧ t.tsq = s.tsq ∧ t.hit = s.hit ∧ t.sch = s.sch) ∧
    (s.flt.pendAck.contains seq = false → exec (.fltAck seq) s = .next s) ∧
    (s.flt.pendAck.contains seq = true → (∀ c ∈ s.chans, c.2.clearHeld = false) →
      exec (.fltAck seq) s = .next { s with flt := { s.flt with
        pendAck := s.flt.pendAck.filter (· ≠ seq) ++ s.flt.overAck.take 1, overAck := s.flt.overAck.drop 1 } })

/-- Units entering and leaving GREY (01 R39-R42; 12 R465, R475; 15 R570-R572; 16 R630-R632, R635): management alone, while it does not restart, forces a
unit and withdraws the force, the keeper alone confirms an exit, only after a whole tick and of a unit whose firmware is verified, every other command is REFUSED and changes nothing;
bring-up takes a channel through its states, repairs its lanes and leaves its bytes 0 as it becomes READY;
and the cores of a die that has settled get its logical numbers in ascending order where no record says else. -/
def Obligations.ReadinessCommands : Prop :=
  ∀ (s : State) (source unit die req failing : Nat) (units : List Nat), Canonical s →
    let e := rdyGet s unit
    let refused : Host.Outcome State Fault Refusal := .next { s with boot := { s.boot with rdyRes := pput s.boot.rdyRes source 2 } }
    (s.boot.pwrgood = true →
    (source ≠ 1 ∨ s.keep.restarting = true ∨ forcible unit = false ∨ e.state = .absent → exec (.grey source unit) s = refused) ∧
    (source ≠ 1 ∨ s.keep.restarting = true ∨ idxValid unit = false ∨ e.forced = false → exec (.releaseForce source unit) s = refused) ∧
    (source ≠ 2 ∨ idxValid unit = false ∨ s.keep.restarting = true ∨ e.recovered = false ∨ e.forced = true ∨ e.state ≠ .grey ∨
      s.now < e.recAt + period s ∨ measuredFirmware s unit = false → exec (.confirm source unit) s = refused) ∧
    (Quiet s → s.keep.restarting = false → forcible unit = true → e.state ≠ .absent → e.state ≠ .fenced →
      ∃ t, exec (.grey 1 unit) s = .next t ∧ rdyState t unit = .grey ∧ (rdyGet t unit).forced = true ∧ pfind t.boot.rdyRes 1 = some 1 ∧ t.mem = s.mem) ∧
    (idxValid unit = true → s.keep.restarting = false → e.forced = true →
      ∃ t, exec (.releaseForce 1 unit) s = .next t ∧ (rdyGet t unit).forced = false ∧ rdyState t unit = e.state ∧ pfind t.boot.rdyRes 1 = some 1 ∧ t.mem = s.mem) ∧
    (idxValid unit = true → s.keep.restarting = false → ¬(unit = 0 ∧ s.keep.lifecycle = 3) → e.recovered = true → e.forced = false → e.state = .grey →
      e.recAt + period s ≤ s.now → measuredFirmware s unit = true →
      exec (.confirm 2 unit) s = .next (rdyPut { s with boot := { s.boot with rdyRes := pput s.boot.rdyRes 2 1 } } unit { e with confirmed := true }))) ∧
    (s.boot.pwrgood = false → exec (.grey source unit) s = .next s ∧ exec (.releaseForce source unit) s = .next s ∧ exec (.confirm source unit) s = .next s) ∧
    (idxValid unit = true → 0x1C0 ≤ unit → e.state = .grey → e.recovered = false → e.forced = false →
      exec (.unitRecoveryDone unit) s = .next (rdyPut s unit { e with recovered := true, recAt := s.now, released := false, ownFault := false })) ∧
    (unit < 0x1C0 ∨ e.state ≠ .grey ∨ e.forced = true → exec (.unitRecoveryDone unit) s = .next s) ∧
    (0x100 ≤ unit → unit < 0x1C0 → s.boot.pwrgood = true → 4 ≤ stage s → stage s ≠ 15 → e.state ≠ .grey → e.state ≠ .fenced → e.state ≠ .ready →
      (∃ t, exec (.unitBringupReport unit ⟨1, failing, units⟩) s = .next t ∧ rdyState t unit = .training ∧ t.mem = s.mem) ∧
      (∃ t, exec (.unitBringupReport unit ⟨2, failing, units⟩) s = .next t ∧ rdyState t unit = (if (laneRepair failing).2 = true then .fenced else .testing) ∧
        (chanGet t (unit - 0x100)).lanes = (laneRepair failing).1 ∧ t.mem = s.mem) ∧
      (∃ t, exec (.unitBringupReport unit ⟨3, failing, units⟩) s = .next t ∧ rdyState t unit = .ready ∧
        ∀ a, byteAt t a = if space a = .hbm ∧ (chanOf s a).1 = unit - 0x100 then 0 else byteAt s a) ∧
      ∃ t, exec (.unitBringupReport unit ⟨4, failing, units⟩) s = .next t ∧ rdyState t unit = .fenced ∧ t.mem = s.mem) ∧
    (((e.state = .grey ∧ ¬(1 ≤ unit ∧ unit ≤ 6)) ∨ e.state = .fenced ∨ e.state = .ready) → ∀ st, exec (.unitBringupReport unit ⟨st, failing, units⟩) s = .next s) ∧
    (die < 4 → 4 ≤ stage s → stage s ≠ 15 → ((List.range 68).all fun c => settled (rdyState s (idxCore (68 * die + c)))) = true →
      (s.boot.coreMap.any fun m => m.1 / 64 == die) = false → recordedCores s = none →
      exec (.coreMapAssign die) s = .next { s with boot := { s.boot with
        coreMap := ((List.range 64).map (64 * die + ·)).zip (freeCores s die) |>.foldl (fun m x => pput m x.1 x.2) s.boot.coreMap, coreRecordDirty := true } }) ∧
    (∀ r l, die < 4 → 4 ≤ stage s → stage s ≠ 15 → ((List.range 68).all fun c => settled (rdyState s (idxCore (68 * die + c)))) = true →
      (s.boot.coreMap.any fun m => m.1 / 64 == die) = false → recordedCores s = some r → l / 64 = die →
      let core := fun (m : Nat) => r.getD m 0xFFFF
      core l / 68 = die → rdyState s (idxCore (core l)) = .ready → logicalOf s (core l) = none → (∀ m, m ≠ l → m / 64 = die → core m ≠ core l) →
      ∃ t, exec (.coreMapAssign die) s = .next t ∧ physOf t l = some (core l)) ∧
    (reqGet s req = none → exec (.requestNotReady req) s = .next s) ∧
    (∀ r, reqGet s req = some r → r.stage = .waitUnits → reqOp r ≠ 0x33 → unitsSettled s (reqOp r) = false →
      exec (.requestNotReady req) s = .next (completeReq (advance s (r.fetchAt + fget s regRdyWait 15 0 * 1000000)) req r 6 0))

/-! ### Start-up, the keeper and power (16; 17; 20) -/

/-- Power and the host's resets (16 R615-R617, R648; 18 R704; 20 R752): a cold start samples GPIO0-3 and forgets memory, registers and harts, but not
what fuses and flash hold; a fall of power and a thermal trip of a module that is on do the same without power; a restart needs KEY and GO; a reset of the host interface
leaves the device, and empties the queues and the requests.
Clocks and heat (20 R746-R752): without SERCLK the time unit holds its rate, and after 100 ms the device is GREY; its return lets ports train; a die
at 110 °C enters GREY and is kept so until it has cooled. -/
def Obligations.PowerClocksAndHeat : Prop :=
  (∀ (s : State) (gpio value cause : Nat), Canonical s →
    let off := fun (t : State) => t.mem = [] ∧ t.csr = [] ∧ t.harts = [] ∧ t.rdy = [] ∧ t.tsq.running = false ∧ t.sch.tasks = [] ∧ t.hit.hitches = [] ∧
      t.pending = s.pending ∧ t.hostMem = s.hostMem ∧ t.keep.rootHash = s.keep.rootHash ∧ t.keep.svnFloor = s.keep.svnFloor ∧
      t.keep.lifecycle = s.keep.lifecycle ∧ t.boot.flash = s.boot.flash ∧ t.keep.unlockScope = 0
    (s.boot.pwrgood = false → s.elec.thermtrip = false → (∀ d ∈ s.elec.dieTemp, d.2 ≤ 100) →
      ∃ t, exec (.pwrgoodRise gpio) s = .next t ∧ off t ∧ t.boot.pwrgood = true ∧ t.boot.gpio = gpio % 16) ∧
    (s.boot.pwrgood = true ∨ s.elec.thermtrip = true → exec (.pwrgoodRise gpio) s = .next s) ∧
    (∃ t, exec .pwrgoodFall s = .next t ∧ off t ∧ t.boot.pwrgood = false ∧ t.chans = [] ∧ t.elec.thermtrip = false) ∧
    (s.boot.pwrgood = true → ∃ t, exec .thermtrip s = .next t ∧ off t ∧ t.boot.pwrgood = false ∧ t.elec.thermtrip = true) ∧
    (s.boot.pwrgood = false → exec .thermtrip s = .next s) ∧
    (bits value 31 16 = 0xB007 → bit value 0 = true → s.boot.pwrgood = true →
      ∃ t, exec (.bootRestart value) s = .next t ∧ off t ∧ t.boot.pwrgood = true) ∧
    (bits value 31 16 ≠ 0xB007 ∨ bit value 0 = false ∨ s.boot.pwrgood = false → exec (.bootRestart value) s = .next s) ∧
    (s.boot.pwrgood = true → cause ≠ 0 →
      ∃ t, exec (.perstNAssert cause) s = .next t ∧ t.pci.queues = [] ∧ t.pci.requests = [] ∧ bit (rget t regPciEvents) 4 = true ∧
        tickClock t = tickClock s ∧ (cause = 2 → t.pci.linkUp = false)) ∧
    (s.boot.pwrgood = true →
      ∃ t, exec (.perstNAssert 0) s = .next t ∧ t.pci.queues = [] ∧ t.pci.requests = [] ∧ t.boot.perst = false ∧ t.pci.linkUp = false ∧
        tickClock t = tickClock s) ∧
    exec .perstNDeassert s = .next { s with boot := { s.boot with perst := true } } ∧
    (s.boot.pwrgood = true → s.boot.perst = true →
      ∃ t, exec .configSpaceLoaded s = .next t ∧ t.pci.linkUp = true ∧ 1 ≤ t.pci.linkMode % 8 ∧ t.mem = s.mem ∧ t.harts = s.harts ∧
        (rdyState s 0x3A ≠ .grey → rdyState s 0x3A ≠ .fenced → rdyState t 0x3A = .ready))) ∧
  ∀ (s : State) (die temp : Nat), Canonical s → s.boot.pwrgood = true →
    (s.elec.serclk = true →
      ∃ t, exec .serclkLoss s = .next t ∧ t.elec.serclk = false ∧ t.elec.serclkAt = s.now ∧ (t.tim.state = .unset ∨ t.tim.state = .holdover)) ∧
    (s.elec.serclk = false → exec .serclkLoss s = .next s) ∧
    (s.elec.serclk = true → exec .clockLoss s = .next s ∧ exec .serclkReturn s = .next s) ∧
    (Quiet s → s.elec.serclk = false → rdyState s 0 ≠ .fenced →
      ∃ t, exec .clockLoss s = .next t ∧ rdyState t 0 = .grey ∧ (rdyGet t 0).ownFault = true ∧ (timeRuns s = true → t.now = max s.now (s.elec.serclkAt + 100000000)) ∧ t.mem = s.mem) ∧
    (s.elec.serclk = false →
      ∃ t, exec .serclkReturn s = .next t ∧ t.elec = { s.elec with serclk := true } ∧ t.mem = s.mem ∧
        (rdyState s 0 = .grey → (rdyGet s 0).reason = 0xC0 → (rdyGet s 0).forced = false → (rdyGet t 0).recovered = true)) ∧
    (Quiet s → die < 6 → 110 ≤ temp → rdyState s (if die = 4 then 0 else idxDie die) ≠ .fenced →
      ∃ t, exec (.dieOvertemp die temp) s = .next t ∧ rdyState t (if die = 4 then 0 else idxDie die) = .grey ∧
        t.elec.overtemp.contains die = true ∧ pfind t.elec.dieTemp die = some temp ∧ t.mem = s.mem) ∧
    (temp < 110 → exec (.dieOvertemp die temp) s = .next s) ∧
    (die < 6 → temp < 100 → s.elec.overtemp.contains die = false →
      exec (.dieCooled die temp) s = .next { s with elec := { s.elec with dieTemp := pput s.elec.dieTemp die temp, overtemp := s.elec.overtemp.filter (· ≠ die) } }) ∧
    (die < 6 → temp < 100 → s.elec.overtemp.contains die = true →
      ∃ t, exec (.dieCooled die temp) s = .next t ∧ t.elec.overtemp = s.elec.overtemp.filter (· ≠ die) ∧ pfind t.elec.dieTemp die = some temp ∧ t.mem = s.mem)

/-- The stages of start-up (16 R620-R630; 17 R657): the keeper image, the configuration image and the two firmware objects of the slot the ROM tries
pass in turn, if they are what the flash holds there and their form, digest and key are good, the configuration image once the fault aggregator has
been brought up; each extends its measurement register, and the units are READY, TESTING or TRAINING after them; a rejected object sends the ROM to the
other slot, and the second one halts start-up in stage 15. -/
def Obligations.StartUpStages : Prop :=
  ∀ (s : State) (slot kind k : Nat) (object control service : List Byte), Canonical s → s.boot.pwrgood = true → slot = bootSlot s →
    let extended := fun (t : State) (n : Nat) (o : List Byte) => mrGet t n = shake256 (mrGet s n ++ (imageOf o).meas)
    let good := fun (n area : Nat) (o : List Byte) => inFlash s slot area o = true ∧ objectAccepted s n o = true
    (stage s = 0 → good 1 0 object →
      ∃ t, exec (.keeperImagePass slot object) s = .next t ∧ stage t = 1 ∧ rdyState t 0x40 = .ready ∧ extended t 0 object ∧
        pfind t.boot.flash (4 * slot) = some object ∧ t.mem = s.mem ∧ t.harts = s.harts) ∧
    (stage s ≠ 0 ∨ ¬good 1 0 object → exec (.keeperImagePass slot object) s = .next s) ∧
    (stage s = 1 → settled (rdyState s 0x39) = true → good 4 3 object → configOk (objectBody object) = true →
      ∃ t, exec (.configImagePass slot object) s = .next t ∧ stage t = 2 ∧ extended t 1 object ∧ t.boot.configLoaded = true ∧
        t.boot.dev = fld (sectionOf (objectBody object) 1) 0 2 ∧ t.boot.devs = fld (sectionOf (objectBody object) 1) 2 2 ∧ t.mem = s.mem) ∧
    (stage s = 2 → good 2 1 control → good 3 2 service →
      ∃ t, exec (.firmwarePass control service) s = .next t ∧ stage t = 4 ∧ rdyState t 0x41 = .ready ∧ rdyState t 0x42 = .ready ∧
        extended t 2 control ∧ extended t 3 service ∧ t.mem = s.mem ∧
        (∀ c, c < 192 → rdyState s (idxChan c) = .absent → rdyState t (idxChan c) = .training) ∧
        (∀ c, c < 272 → rdyState s (idxCore c) = .absent → rdyState t (idxCore c) = .training) ∧
        ∀ c, c < 20 → rdyState s (idxCtrl c) = .absent → rdyState t (idxCtrl c) = .testing) ∧
    (stage s = 0 → ∃ t, exec (.imageRejected slot 0) s = .next t ∧ stage t = 15 ∧ fget t regBootStatus 7 0 = 4) ∧
    (stage s = 0 → s.boot.tried = [] →
      ∃ t, exec (.imageRejected slot 1) s = .next t ∧ stage t = 0 ∧ t.boot.tried = [8 * slot + 1] ∧ t.mem = s.mem) ∧
    (∀ a, stage s = 0 → s.boot.tried = [a] → ∃ t, exec (.imageRejected slot 1) s = .next t ∧ stage t = 15 ∧ t.mem = s.mem) ∧
    (k < 20 → rdyState s (idxCtrl k) = .ready →
      ∃ t, exec (.bootFwReady k) s = .next t ∧ bit (rget t regBootFwReady) 0 = true ∧ t.boot = s.boot ∧ t.rdy = s.rdy ∧ t.mem = s.mem) ∧
    (kind = 5 → exec (.imageRejected slot kind) s = .next s)

/-- The keeper (15 R593; 17 R657-R673): its watchdog marks it restarting, and its restart ends the nonce, the SPDM connection and an unlock; a staged
object that passes is READY and one that fails is dropped; nonces and unlocks end at their time. -/
def Obligations.KeeperEvents : Prop :=
  ∀ (s : State) (comp : Nat) (staged pass : Bool), Canonical s →
    (s.boot.pwrgood = true → 3 ≤ stage s → stage s ≠ 15 → s.keep.restarting = false →
      ∃ t, exec .keeperWatchdog s = .next t ∧ t.keep = { s.keep with restarting := true, restartCause := 1 } ∧ t.mem = s.mem ∧
        rget t regFltKeeperRestart = rget (bump1 s regFltKeeperRestart) regFltKeeperRestart) ∧
    (s.keep.restarting = true → exec .keeperWatchdog s = .next s) ∧
    (s.keep.restarting = false → exec (.keeperRestart staged) s = .next s) ∧
    (s.keep.restarting = true →
      ∃ t, exec (.keeperRestart staged) s = .next t ∧ t.keep.restarting = false ∧ t.keep.nonce = none ∧ t.keep.spdmStage = 0 ∧ t.keep.spdmVca = [] ∧
        t.keep.unlockScope ≠ 1 ∧ t.keep.unlockScope ≠ 2 ∧ t.mem = s.mem ∧ t.harts = s.harts ∧ tickClock t = tickClock s) ∧
    (∀ f, (comp = 2 ∨ comp = 3) → rdyState s (stagedIdx comp) = .testing → s.keep.restarting = false → pfind s.keep.staged comp = some f →
      (objectAccepted s comp f.bytes = true →
        ∃ t, exec (.stagedImageVerified comp true) s = .next t ∧ rdyState t (stagedIdx comp) = .ready ∧ t.keep = s.keep ∧ t.mem = s.mem) ∧
      ∃ t, exec (.stagedImageVerified comp false) s = .next t ∧ rdyState t (stagedIdx comp) = .absent ∧ t.keep.staged = pdel s.keep.staged comp ∧
        t.mem = s.mem) ∧
    (rdyState s (stagedIdx comp) ≠ .testing → exec (.stagedImageVerified comp pass) s = .next s) ∧
    (s.keep.nonce = none → exec .nonceExpiry s = .next s) ∧
    (∀ v at_, s.keep.nonce = some (v, at_) →
      ∃ t, exec .nonceExpiry s = .next t ∧ t.keep = { s.keep with nonce := none } ∧ (timeRuns s = true → t.now = max s.now (at_ + nonceLife)) ∧ t.mem = s.mem) ∧
    (s.keep.unlockScope = 1 ∨ s.keep.unlockScope = 2 →
      ∃ t, exec .unlockExpiry s = .next t ∧ t.keep.unlockScope = 0 ∧ (timeRuns s = true → t.now = max s.now s.keep.unlockUntil) ∧ t.mem = s.mem) ∧
    (s.keep.unlockScope ≠ 1 → s.keep.unlockScope ≠ 2 → exec .unlockExpiry s = .next s)

/-! ### Host requests (08; 09; 14; 18) -/

/-- The command that starts each operation of the host: the request, the operation's number, and what its entry must obey beside the fields that every
entry shares (08; 09; 14; 18 R691). -/
def Sys2Proof.Machine.opRules : Instr → Option (Nat × Nat × (Request → Bool))
  | .tblRegister req => some (req, 1, fun r => decide (reqParam r 1 < 2 ^ 28) && restZero r 3)
  | .tblOpen req => some (req, 2, fun r => restZero r 1)
  | .tblWrite req => some (req, 3, fun r => restZero r 2)
  | .tblSeal req => some (req, 4, fun r => restZero r 2)
  | .tblAbandon req => some (req, 5, fun r => restZero r 0)
  | .tblRetire req => some (req, 6, fun r => restZero r 1)
  | .tblFreeze req => some (req, 7, fun r => restZero r 1)
  | .tblReload req => some (req, 8, fun r => restZero r 2)
  | .plcPin req => some (req, 0x10, fun r => decide (reqParam r 2 < 2 ^ 25) && restZero r 3)
  | .plcUnpin req => some (req, 0x11, fun r => restZero r 2)
  | .plcHubAdd req => some (req, 0x12, fun r => reqId r == 0 && restZero r 1)
  | .plcHubDrop req => some (req, 0x13, fun r => reqId r == 0 && restZero r 1)
  | .lyrRegister req => some (req, 0x20, fun r => decide (reqParam r 1 < 2 ^ 48) && zeroAt r.entry 0x11 1 && bit (reqParam r 1) 7 == false && restZero r 4)
  | .lyrLoad req => some (req, 0x21, fun r => restZero r 2)
  | .lyrFreeze req => some (req, 0x22, fun r => restZero r 1)
  | .lyrRetire req => some (req, 0x23, fun r => restZero r 0)
  | .lyrParams req => some (req, 0x24, fun r => restZero r 1)
  | .tblRule req => some (req, 0x25, fun r => restZero r 1)
  | .pipeRegister req => some (req, 0x30, fun r => decide (reqParam r 3 < 2 ^ 17) && restZero r 4)
  | .pipeUnregister req => some (req, 0x31, fun r => restZero r 0)
  | .instantiate req => some (req, 0x32, fun r => decide (reqParam r 1 < 2 ^ 32))
  | _ => none

/-- Whether one of the units an operation needs is out of service: FENCED, or GREY itself or inside a unit that is. -/
def Sys2Proof.Machine.unitOut (s : State) (op : Nat) : Bool := (unitsFor op).any fun i => greyAt s i || rdyState s i == .fenced

/-- A request whose operation starts now with a well-formed entry. -/
def Sys2Proof.Machine.Begins (s : State) (c : Instr) (req : Nat) (r : Request) : Prop :=
  ∃ op good, opRules c = some (req, op, good) ∧ reqGet s req = some r ∧ reqOp r = op ∧ mayBegin s req r = true ∧ unitsSettled s op = true ∧
    (readsAtStart op = true → dmaOn s = true) ∧ unitOut s op = false ∧ fld r.entry 1 1 < 4 ∧ zeroAt r.entry 6 2 = true ∧ good r = true

/-- Every operation begins in its turn and not before its units have settled, nor without DMA where it reads a buffer of the host; with a unit it needs GREY or FENCED it completes GREY, and with an entry
that breaks its format BAD_ENTRY with cause 7, and has no effect beside its completion (16 R636; 18 R680, R688, R691). -/
def Obligations.RequestsBegin : Prop :=
  ∀ (s : State) (c : Instr) (req op : Nat) (good : Request → Bool), Canonical s → opRules c = some (req, op, good) →
    (reqGet s req = none → exec c s = .next s) ∧
    ∀ r, reqGet s req = some r →
      let turn := mayBegin s req r = true ∧ unitsSettled s op = true ∧ (readsAtStart op = true → dmaOn s = true)
      (reqOp r ≠ op ∨ ¬turn → exec c s = .next s) ∧
      (reqOp r = op → turn → unitOut s op = true → exec c s = .next (completeReq s req r 1 0)) ∧
      (reqOp r = op → turn → unitOut s op = false →
        (4 ≤ fld r.entry 1 1 ∨ zeroAt r.entry 6 2 = false ∨ good r = false) → exec c s = .next (completeReq s req r 5 7)) ∧
      ∀ st cause, (completeReq s req r st cause).mem = s.mem ∧ (completeReq s req r st cause).emb = s.emb ∧
        (completeReq s req r st cause).plc = s.plc ∧ (completeReq s req r st cause).upd = s.upd ∧ (completeReq s req r st cause).sch = s.sch

/-- The operations on tables and placement (08 R297-R304, R326; 09 R370, R371): each changes the table's next slot, or asks control firmware for a
plan item, exactly as its rule says; a wrong state of the table is refused with BAD_ENTRY and cause 8. -/
def Obligations.TableRequests : Prop :=
  ∀ (s : State) (req : Nat) (r : Request), Canonical s →
    let id := reqId r
    let x := tableGet s id
    let v := reqParam r 0
    let refused := completeReq s req r 5 8
    (Begins s (.tblRegister req) req r → (4096 ≤ id ∨ x.state ≠ 0) → exec (.tblRegister req) s = .next refused) ∧
    (Begins s (.tblRegister req) req r → id < 4096 → x.state = 0 → (s.emb.ranges.any fun e => e.1 == id) = false →
      let w := reqParam r 1
      let cls := bits w 19 16
      classAllows s cls (bits w 23 20) (bits w 15 0) v (reqParam r 2) (bit w 24) (bit w 25) (bit w 27) = true →
      let stageRows := if bit w 24 = false ∧ bit w 27 = false then 0 else if reqParam r 2 = 0 then classStage s cls else reqParam r 2
      let shape := v * 2 ^ 24 + (bits w 15 0 - 1) * 2 ^ 12 + cls * 2 ^ 8 + bits w 23 20 * 2 ^ 4 + b2n (bit w 27) * 8 + b2n (bit w 26) * 4 +
        b2n (bit w 25) * 2 + b2n (bit w 24)
      exec (.tblRegister req) s = .next (match acceptTable s id (shapeTable s shape stageRows) with
        | some t => completeReq t req r 0 0
        | none => refused)) ∧
    (Begins s (.tblOpen req) req r → id < 4096 → x.state ≠ 0 → x.next = 0 → v ≤ 1 → (v = 1 → x.state = 2) →
      exec (.tblOpen req) s = .next (reqPut (tablePut s id { x with next := 1, fill := some req, nextVer := 0, retiring := false }) req
        { r with stage := .running })) ∧
    (Begins s (.tblOpen req) req r → x.next ≠ 0 → exec (.tblOpen req) s = .next refused) ∧
    (reqGet s req = some r → reqOp r = 2 → r.stage = .running → (v = 1 → s.tsq.phase = .run) →
      ∃ t, exec (.tblOpenDone req) s = .next t ∧ reqGet t req = some { r with stage := .arbiter, rows := [] } ∧
        (x.fill ≠ some req → t.mem = s.mem ∧ t.emb = s.emb) ∧ (x.fill = some req → (tableGet t id).fill = none)) ∧
    (Begins s (.tblWrite req) req r → x.next ≠ 1 → exec (.tblWrite req) s = .next refused) ∧
    (Begins s (.tblWrite req) req r → id < 4096 → x.state ≠ 0 → x.next = 1 →
      let recs := hostRecords s v x.stride (reqParam r 1)
      let places := recs.map fun e => if e.1 < x.rows then slotPlace s x id (1 - x.slot) e.1 else none
      exec (.tblWrite req) s = .next (if places.contains none = true then refused else reqPut s req
        { r with stage := .running, rows := (places.zip recs).filterMap fun e => e.1.map fun a => (a, e.2.2) })) ∧
    (reqGet s req = some r → reqOp r = 3 → r.stage = .running → dmaOn s = true →
      ∃ t, exec (.tblWriteDone req) s = .next t ∧ t.mem = (r.rows.foldl (fun s w => memWrite s w.1 w.2) s).mem ∧
        reqGet t req = some { r with stage := .arbiter, rows := [] }) ∧
    (Begins s (.tblSeal req) req r → id < 4096 → x.state ≠ 0 → x.next = 1 → v < 65536 → (x.state = 1 ∨ verAfter v x.curVer = true) →
      ∃ t, exec (.tblSeal req) s = .next t ∧ tableGet t id = { x with next := 2, nextVer := v, wantTick := reqParam r 1 } ∧
        t.emb.planned = s.emb.planned ++ [tableItem id 0 v (shapeOf x)] ∧ (∀ j, j ≠ id → tableGet t j = tableGet s j) ∧ t.mem = s.mem) ∧
    (Begins s (.tblSeal req) req r → (x.next ≠ 1 ∨ 65536 ≤ v) → exec (.tblSeal req) s = .next refused) ∧
    (Begins s (.tblAbandon req) req r → id < 4096 → x.state ≠ 0 → x.retiring = false → (x.next = 1 ∨ x.next = 2) →
      ∃ t, exec (.tblAbandon req) s = .next t ∧ tableGet t id = { x with next := 0, nextVer := 0, wantTick := 0 } ∧
        (∀ j, j ≠ id → tableGet t j = tableGet s j) ∧ t.mem = s.mem) ∧
    (Begins s (.tblRetire req) req r → id < 4096 → (x.state = 1 ∨ x.state = 2) → x.next = 0 →
      ∃ t, exec (.tblRetire req) s = .next t ∧ tableGet t id = { x with next := 2, retiring := true, wantTick := v } ∧
        t.emb.planned = s.emb.planned ++ [tableItem id 1 0 (shapeOf x)] ∧ t.mem = s.mem) ∧
    (Begins s (.tblFreeze req) req r → id < 4096 → x.state ≠ 0 → x.train = true → v ≤ 1 →
      ∃ t, exec (.tblFreeze req) s = .next t ∧ t.emb = { s.emb with planned := s.emb.planned ++ [tableItem id (if v = 1 then 3 else 4) 0 (shapeOf x)] } ∧
        t.mem = s.mem) ∧
    (Begins s (.tblReload req) req r → id < 4096 → x.state ≠ 0 →
      ((hostRecords s v x.stride (reqParam r 1)).any fun e => rowMark s id e.1 != some true) = true → exec (.tblReload req) s = .next refused) ∧
    (Begins s (.tblReload req) req r → id < 4096 → x.state ≠ 0 → reqParam r 1 = 0 →
      ∃ t, exec (.tblReload req) s = .next t ∧ reqGet t req = some { r with stage := .running, rows := [] } ∧ t.mem = s.mem ∧ t.emb = s.emb) ∧
    (Begins s (.plcUnpin req) req r → id < 4096 → x.state = 2 → 0 < reqParam r 1 → reqParam r 1 ≤ 65536 → v + reqParam r 1 ≤ x.rows →
      ∃ t, exec (.plcUnpin req) s = .next t ∧ t.plc = { s.plc with pinReqs := s.plc.pinReqs ++ [(id, v, reqParam r 1, unpinDev, 0, false)] } ∧ t.mem = s.mem) ∧
    (Begins s (.plcPin req) req r → id < 4096 → x.state = 2 → 0 < reqParam r 1 → reqParam r 1 ≤ 65536 → v + reqParam r 1 ≤ x.rows →
      let dev := bits (reqParam r 2) 15 0
      let ch := bits (reqParam r 2) 23 16
      (dev = 0xFFFF ∨ dev < max 1 s.boot.devs) → (ch = 0xFF ∨ ch < 192) → pinMoves s id x v (reqParam r 1) dev = false →
      pinEntries s id v (reqParam r 1) ≤ 1048576 →
      ∃ t, exec (.plcPin req) s = .next t ∧ t.mem = s.mem ∧
        t.plc = { s.plc with pinReqs := s.plc.pinReqs ++ [(id, v, reqParam r 1, dev, ch, bit (reqParam r 2) 24)] }) ∧
    (∀ a, Begins s (.plcHubAdd req) req r → ownAddr s v = some a → (s.plc.hubs.any fun h => h.1 == a) = false → s.plc.hubAdd.contains a = false →
      s.plc.hubs.length + s.plc.hubAdd.length < 65536 → hubOk s a = true →
      ∃ t, exec (.plcHubAdd req) s = .next t ∧ t.plc = { s.plc with hubAdd := s.plc.hubAdd ++ [a] } ∧ t.mem = s.mem) ∧
    (∀ a, Begins s (.plcHubDrop req) req r → ownAddr s v = some a → (s.plc.hubs.any fun h => h.1 == a) = true → s.plc.hubDrop.contains a = false →
      ∃ t, exec (.plcHubDrop req) s = .next t ∧ t.plc = { s.plc with hubDrop := s.plc.hubDrop ++ [a] } ∧ t.mem = s.mem) ∧
    (Begins s (.plcHubAdd req) req r → ownAddr s v = none → exec (.plcHubAdd req) s = .next refused)

/-- The operations on layers and pipelines (14 R537-R549; 18 R692-R694): a layer's registration reserves its memory and asks for a plan item; a load
starts the layer again from the host's master; new parameters wait for the next step, and are refused where the slow tier lacks room for the
state they need; a pipeline's registration and removal wait for the switch stage;
an instantiation submits its root task, or waits and blocks its queue while the list is full. -/
def Obligations.LayerAndPipelineRequests : Prop :=
  ∀ (s : State) (req : Nat) (r : Request), Canonical s →
    let id := reqId r
    let x := layerGet s id
    let v := reqParam r 0
    let refused := completeReq s req r 5 8
    (Begins s (.lyrRegister req) req r → (1024 ≤ id ∨ x.state ≠ 0) → exec (.lyrRegister req) s = .next refused) ∧
    (∀ a0 a s1 s2, Begins s (.lyrRegister req) req r →
      let w := reqParam r 1
      let b := hostBytes s (reqParam r 3) 64
      let l : Layer := { layerReset with
        rows := bits v 31 0, cols := bits v 63 32, fmt := bits w 3 0, slicing := bits w 5 4, gfmt := bits w 6 6
        stepTicks := bits w 31 16, pushHitch := bits w 47 32, startTick := reqParam r 2, owner := newOwner s id }
      id < 1024 → x.state = 0 → (s.upd.ranges.any fun e => e.1 == 16384 + id) = false → 0 < l.rows → l.rows ≤ 65536 → 0 < l.cols → l.cols ≤ 65536 →
      l.rows * l.cols ≤ 2 ^ 26 → l.fmt ≤ 4 → l.slicing ≤ 2 → 0 < l.stepTicks → 0x1000 ≤ l.pushHitch → ruleOk false b = true →
      layerTake s (8192 + id) (layerSlow l.rows l.cols b) = some (a0, s1) →
      rangeHigh s1 (16384 + id) (layerBuffers l (devCount s1)) = some (a, s2) →
      ∃ t, exec (.lyrRegister req) s = .next t ∧ layerGet t id = { layerReset with base := a, nextRule := some b } ∧
        t.emb.planned = s2.emb.planned ++ [layerItem id 2 l]) ∧
    (Begins s (.lyrLoad req) req r → id < 1024 → x.state ≠ 0 → v < 65536 →
      exec (.lyrLoad req) s = .next (if x.owner = s.boot.dev then reqPut s req { r with stage := .running } else askGrant s req r)) ∧
    (reqGet s req = some r → reqOp r = 0x21 → r.stage = .running → dmaOn s = true → rugonUp s = true → x.state ≠ 0 →
      ∃ t, exec (.lyrLoadDone req) s = .next t ∧ reqGet t req = some { r with stage := .arbiter, rows := [] } ∧ t.mem = s.mem ∧
        (layerGet t id).steps = 0 ∧ (layerGet t id).resetVer = v ∧ (layerGet t id).heldScatter = some v ∧
        (layerGet t id).master = (List.range (x.rows * x.cols)).map (fun i => leNat (hostBytes s (reqParam r 1 + 4 * i) 4)) ∧
        (layerGet t id).st1 = List.replicate (x.rows * x.cols) 0 ∧ (∀ j, j ≠ id → layerGet t j = layerGet s j)) ∧
    (Begins s (.lyrFreeze req) req r → id < 1024 → x.state ≠ 0 → v ≤ 1 →
      ∃ t, exec (.lyrFreeze req) s = .next t ∧ t.emb = { s.emb with planned := s.emb.planned ++ [layerItem id (if v = 1 then 3 else 4) x] } ∧
        t.upd = s.upd ∧ t.mem = s.mem) ∧
    (Begins s (.lyrRetire req) req r → id < 1024 → x.state ≠ 0 →
      ∃ t, exec (.lyrRetire req) s = .next t ∧ t.emb = { s.emb with planned := s.emb.planned ++ [layerItem id 1 x] } ∧ t.upd = s.upd ∧ t.mem = s.mem) ∧
    (Begins s (.lyrRetire req) req r → x.state = 0 → exec (.lyrRetire req) s = .next refused) ∧
    (Begins s (.lyrParams req) req r → id < 1024 → x.state ≠ 0 → ruleOk false (hostBytes s v 64) = true →
      growLayer s id x (hostBytes s v 64) = none → exec (.lyrParams req) s = .next refused) ∧
    (∀ s1, Begins s (.lyrParams req) req r → id < 1024 → x.state ≠ 0 → ruleOk false (hostBytes s v 64) = true →
      growLayer s id x (hostBytes s v 64) = some s1 →
      ∃ t, exec (.lyrParams req) s = .next t ∧ layerGet t id = { x with nextRule := some (hostBytes s v 64) } ∧
        (∀ j, j ≠ id → layerGet t j = layerGet s j) ∧ t.emb = s.emb ∧ t.mem = s.mem) ∧
    (∀ a s1, Begins s (.tblRule req) req r → id < 4096 → (tableGet s id).state ≠ 0 → (tableGet s id).train = true →
      let b := hostBytes s v 64
      ruleOk true b = true → rangeHigh (rangeFree s (65536 + id)) (65536 + id) (ringBytes (tableGet s id) (rbRecs b)) = some (a, s1) →
      ∃ t, exec (.tblRule req) s = .next t ∧ tblRuleGet t id = { tblRuleGet s id with nextRule := some (b.take 0x34 ++ natLe 6 a ++ b.drop 0x3A) } ∧
        t.mem = s.mem) ∧
    (Begins s (.tblRule req) req r → (tableGet s id).state = 0 → exec (.tblRule req) s = .next refused) ∧
    (let p : Pipeline := ⟨v, bits (reqParam r 1) 31 0, reqParam r 2, bits (reqParam r 1) 63 32, bits (reqParam r 3) 15 0, bit (reqParam r 3) 16,
       false, false, req, 0⟩
     let n := p.pages * 4096
     let tried := { s with pci := { s.pci with pipes := s.pci.pipes ++ [(id, { p with active := true })] } }
     Begins s (.pipeRegister req) req r → 0 < id → id < 4096 → pipeGet s id = none → p.code % 4096 = 0 → 0 < p.pages → p.pages ≤ 65536 →
       hbmRange s p.code n = true → p.template % 128 = 0 → p.code ≤ p.template → p.template + 128 ≤ p.code + n → p.resultBytes ≤ 2 ^ 20 →
       p.resultBytes % 64 = 0 → 0 < p.deadline → (∀ e ∈ s.pci.pipes, apart p.code n e.2.code (e.2.pages * 4096) = true) →
       inCurrentSlot s p.code n = false → badDesc tried (readBytes s p.template 128) false = false →
       exec (.pipeRegister req) s = .next (reqPut { s with pci := { s.pci with pipes := pput s.pci.pipes id p } } req { r with stage := .running })) ∧
    (Begins s (.pipeRegister req) req r → (id = 0 ∨ (pipeGet s id).isSome = true) → exec (.pipeRegister req) s = .next refused) ∧
    (∀ p, Begins s (.pipeUnregister req) req r → pipeGet s id = some p → p.active = true → p.unregistering = false →
      exec (.pipeUnregister req) s = .next (reqPut
        { s with pci := { s.pci with pipes := pput s.pci.pipes id { p with unregistering := true, unregReq := req } } } req { r with stage := .running })) ∧
    (Begins s (.pipeUnregister req) req r → pipeGet s id = none → exec (.pipeUnregister req) s = .next refused) ∧
    (Begins s (.instantiate req) req r → pipeGet s id = none → exec (.instantiate req) s = .next refused) ∧
    (∀ p, Begins s (.instantiate req) req r → pipeGet s id = some p → p.active = true → p.unregistering = false → reqParam r 1 ≤ p.resultBytes →
      let a := submit s (rootDesc s req r p) req false
      (a.1 = 0 → ∃ t, exec (.instantiate req) s = .next t ∧ t.sch = a.2.sch ∧
        reqGet t req = some { r with stage := .running, rootWaits := false } ∧ t.mem = s.mem) ∧
      (2 ≤ a.1 → ∃ t, exec (.instantiate req) s = .next t ∧ queueBlocked t r.queue = true ∧ reqGet t req = some { r with rootWaits := true } ∧ t.mem = s.mem) ∧
      (a.1 = 1 → ∃ t, exec (.instantiate req) s = .next t ∧ t.sch.tasks = s.sch.tasks ∧ t.mem = s.mem))

/-- Queues and completions (18 R686-R703, R711): TAIL and HEAD take values inside the ring and TAIL reports one outside it; ENABLE, DISABLE and RESUME
move a pair between its states; a fetched entry gets the next REQ_ID; the first final record decides a request and a later one is only counted; result
bytes go to the host; an abort is refused where it names no request, and loses against a request that has asked for its completion; a granted request
leaves, and its entry is written while the interface may. -/
def Obligations.QueuesAndCompletions : Prop :=
  ∀ (s : State) (q v req : Nat) (r : Request), Canonical s → q < 1024 →
    let x := queueGet s q
    let lg := fget s (regPciQCfg q) 31 27
    let us := fget s (regPciQCfg q) 15 8
    (s.boot.pwrgood = true →
    (v < 2 ^ 32 → v < queueSize s q → exec (.rqTail q v) s = .next (queuePut s q { x with tail := v })) ∧
    (v < 2 ^ 32 → queueSize s q ≤ v → ∃ t, exec (.rqTail q v) s = .next t ∧ queueGet t q = x ∧ bit (rget t regPciEvents) 0 = true ∧ t.mem = s.mem) ∧
    (v < 2 ^ 32 → exec (.cqHead q v) s = .next (if queueSize s q ≤ v then s else queuePut s q { x with cqHead := v })) ∧
    (exec (.enable q) s = .next (if x.state = 0 ∧ 4 ≤ lg ∧ lg ≤ 16 ∧ fget s (regPciQCfg q) 26 16 ≤ 2031 then queuePut s q { queueReset with state := 1 } else s))) ∧
    (s.boot.pwrgood = false → exec (.rqTail q v) s = .next s ∧ exec (.cqHead q v) s = .next s ∧ exec (.enable q) s = .next s) ∧
    (exec (.disable q) s = .next (if x.state = 1 ∨ x.state = 2 then queuePut s q { x with state := if x.outstanding = 0 then 0 else 3 } else s)) ∧
    (exec (.resume q) s = .next (if x.state = 2 then queuePut s q { x with state := 1 } else s)) ∧
    (us = 0 ∨ x.unsignalled = 0 → exec (.coalesceTimer q) s = .next s) ∧
    (us ≠ 0 → x.unsignalled ≠ 0 →
      ∃ t, exec (.coalesceTimer q) s = .next t ∧ queueGet t q = { x with unsignalled := 0, firstAt := 0 } ∧ (timeRuns s = true → t.now = max s.now (x.firstAt + us * 1000)) ∧
        t.pci.signals = (if dmaOn s = true then s.pci.signals ++ [fget s (regPciQCfg q) 26 16] else s.pci.signals) ∧ t.mem = s.mem) ∧
    (x.state ≠ 1 ∨ x.head = x.tail ∨ queueBlocked s q = true ∨ dmaOn s = false → exec (.requestFetch q) s = .next s) ∧
    (x.state = 1 → x.head ≠ x.tail → x.outstanding + cqUnread s q < queueSize s q - 1 → queueBlocked s q = false → dmaOn s = true →
      let entry := hostBytes s (rget s (regPciQRqbase q) + 64 * x.head) 64
      let id := rget s regPciReqId
      fld entry 0 1 ≠ 0x32 → knownOp (fld entry 0 1) = true →
      ∃ t, exec (.requestFetch q) s = .next t ∧ rget t regPciReqId = (id + 1) % 2 ^ 64 ∧
        queueGet t q = { x with
          head := (x.head + 1) % max 1 (queueSize s q), outstanding := x.outstanding + 1, last := pput x.last x.head (fld entry 2 2, id) } ∧
        reqGet t id = some ⟨q, x.head, entry, .waitUnits, s.now, s.tsq.tick, 0, fld entry 4 2, none, none, 0, 0, 0, 0, 0, 0, [], false, false, none, false⟩ ∧
        t.mem = s.mem) ∧
    (x.state = 1 → ∃ t, exec (.hostTimeout q 0) s = .next t ∧ queueGet t q = { x with state := 2 } ∧ t.mem = s.mem) ∧
    (x.state ≠ 1 → exec (.hostTimeout q 0) s = .next s) ∧
    (reqGet s req = none → exec (.finalRecordArrival req) s = .next s ∧ exec (.resultDmaDone req) s = .next s ∧ exec (.completionGrant req) s = .next s ∧
      exec (.deadline req) s = .next s ∧ exec (.hostAbort req) s = .next s ∧ (req ≠ 0 → exec (.hostTimeout q req) s = .next s)) ∧
    (reqGet s req = some r →
      let b := readBytes s (recAddr s r) 32
      (req ≠ 0 → abortable r = true → readsHost (reqOp r) = true → r.stage = .waitUnits →
        ∃ t, exec (.hostTimeout q req) s = .next t ∧ reqGet t req = some { r with stage := .arbiter, status := 3, cause := 5, rows := [] } ∧ t.mem = s.mem) ∧
      (r.recSlot.isSome = true → fld b 8 8 = req → r.stage = .running → r.final = none →
        let st := fld b 0x14 1
        let r' := { r with final := some b, taskStatus := st, taskCause := fld b 0x15 1, result := fld b 0x10 4 }
        exec (.finalRecordArrival req) s = .next (reqPut s req (if r.aborted = true then r'
          else if st = 0 ∧ 0 < reqParam r 1 then { r' with stage := .dma }
          else if st = 0 then { r' with stage := .arbiter }
          else { r' with stage := .arbiter, status := if st ≤ 2 then st else 3, cause := 1 }))) ∧
      (r.recSlot.isSome = true → fld b 8 8 = req → r.stage = .arbiter → r.final.isSome = true →
        exec (.finalRecordArrival req) s = .next (bump1 s regPciExtraFinal)) ∧
      (r.stage = .dma → dmaOn s = true → unitBad s (resAddr s r) (reqParam r 1) = false →
        exec (.resultDmaDone req) s = .next (reqPut (hostWrite s (reqParam r 0) (readBytes s (resAddr s r) (reqParam r 1))) req
          { r with stage := .arbiter, length := reqParam r 1 })) ∧
      (r.stage ≠ .dma ∨ dmaOn s = false → exec (.resultDmaDone req) s = .next s) ∧
      (r.stage = .arbiter → recordDue s req r = false → exec (.completionGrant req) s = .next (commitReq s req r) ∧
        (r.silent = false → dmaOn s = false → reqGet (commitReq s req r) req =
          some { r with stage := .due, commitTick := s.tsq.tick % 2 ^ 48, recSlot := none, resSlot := none } ∧
          (queueGet (commitReq s req r) r.queue).outstanding = (queueGet s r.queue).outstanding - 1) ∧
        (r.silent = true → reqGet (commitReq s req r) req = none)) ∧
      (r.stage ≠ .arbiter ∨ recordDue s req r = true → exec (.completionGrant req) s = .next s) ∧
      (∀ p, reqOp r = 0x32 → pipeGet s (reqId r) = some p → r.final = none → abortable r = true → s.tsq.running = true →
        (s.tsq.tick < r.fetchTick + p.deadline → exec (.deadline req) s = .next s) ∧
        (r.fetchTick + p.deadline ≤ s.tsq.tick →
          exec (.deadline req) s = .next (abortReq (if s.tsq.tick = r.fetchTick + p.deadline then advance s (applyAt s) else s) req r 3))) ∧
      (reqOp r = 0x33 → r.stage = .waitUnits →
        let n := reqParam r 0
        (fld r.entry 1 1 = 2 ∨ fld r.entry 1 1 = 0) → zeroAt r.entry 6 2 = true → n < 2 ^ 32 → restZero r 1 = true →
        let y := queueGet s (reqId r)
        let named := if reqId r < 1024 ∧ (y.state = 1 ∨ y.state = 2) then pfind y.last (bits n 15 0) else none
        (named = none → exec (.hostAbort req) s = .next (completeReq s req r 5 8)) ∧
        (∀ cid id, named = some (cid, id) → cid ≠ bits n 31 16 → exec (.hostAbort req) s = .next (completeReq s req r 5 8)) ∧
        (∀ id, named = some (bits n 31 16, id) → reqGet s id = none →
          exec (.hostAbort req) s = .next (completeReq (bump1 s regPciAbortLost) req r 4 0)) ∧
        (∀ id u, named = some (bits n 31 16, id) → reqGet s id = some u → id ≠ req → abortable u = true →
          exec (.hostAbort req) s = .next (completeReq (abortReq s id u 2) req r 0 0))))

/-! ### BAR0, BAR2 and configuration space (00 R6-R9; 18 R680-R682, R706) -/

/-- Writes to BAR0 (00 R6-R9, R22): one that is not aligned, or to a word where nothing is defined, changes nothing; in a register without an action
of its own each bit follows its access code: RW takes the value, W1C is cleared and W1S set by a one, any other keeps its value; a statistics counter
is cleared whole. MEM registers take writes of control cores only (12); management and the keeper reach no register of another plane (01 R38, R39; 19
R722); the host reaches only the blocks that HALTED keeps (16 R628); and a write to RDY_CMD is the command it spells.
BAR2 and configuration space (18 R680-R682, R706): a read answers the device's bytes, Unsupported Request where nothing is backed and Completer Abort
on an uncorrectable unit; a write changes exactly its bytes where their units read well (elsewhere a part waits with its unit), or is dropped and reported where nothing is backed or
the page is protected; the host sets the power state, Bus Master Enable and the size of the window; without power, or before the configuration space
is loaded, nothing comes through the endpoint. -/
def Obligations.RegistersAndWindow : Prop :=
  (∀ (s : State) (src a v i : Nat) (r : RegDesc), Canonical s → v < 2 ^ 32 →
    (s.boot.pwrgood = false ∨ 23 ≤ src ∨ 2 ^ 26 ≤ a ∨ a % 4 ≠ 0 → exec (.registerWrite src a 4 v) s = .next s) ∧
    (haltedOff s src a = true → exec (.registerWrite src a 4 v) s = .next s) ∧
    (src = 1 ∨ src = 2 → a ≠ regRdyCmd → (a = regFltAlertMask → src = 2) → exec (.registerWrite src a 4 v) s = .next s) ∧
    (findReg regWindows a = none → ¬(0xA00000 ≤ a ∧ a < 0xA10000) → exec (.registerWrite src a 4 v) s = .next s) ∧
    (s.boot.pwrgood = true → src < 23 → a < 2 ^ 26 → a % 4 = 0 → ¬(0xA00000 ≤ a ∧ a < 0xA10000) → findReg regWindows a = some (r, a, false) →
      mayWrite s src a = true → haltedOff s src a = false → a ≠ regBootFwReady → trigger (rset s a (coded r (rget s a) v (2 ^ 32 - 1))) src a v = none →
      ∃ t, exec (.registerWrite src a 4 v) s = .next t ∧ t.mem = s.mem ∧ t.harts = s.harts ∧ (∀ b, b ≠ a → rget t b = rget s b) ∧
        (r.sat = false → i < 32 →
          bit (rget t a) i = (((if bit r.rw i then bit v i else bit (rget s a) i) && !(bit v i && bit r.w1c i)) || (bit v i && bit r.w1s i))) ∧
        (r.sat = false → 32 ≤ i → i < 64 → bit (rget t a) i = bit (rget s a) i) ∧
        (r.sat = true → rget t a = if Nat.land v r.w1c % 2 ^ 32 = 0 then rget s a else 0)) ∧
    (a < 192 → src < 3 → exec (.registerWrite src (regMemChCtl a) 4 v) s = .next s) ∧
    (s.boot.pwrgood = true → i < 1024 → exec (.registerWrite 1 regRdyCmd 4 (1 * 2 ^ 28 + i)) s = exec (.grey 1 i) s ∧
      exec (.registerWrite 1 regRdyCmd 4 (2 * 2 ^ 28 + i)) s = exec (.releaseForce 1 i) s ∧
      exec (.registerWrite 2 regRdyCmd 4 (3 * 2 ^ 28 + i)) s = exec (.confirm 2 i) s) ∧
    (s.boot.pwrgood = true → exec (.registerWrite 0 regBootRestart 4 (0xB007 * 2 ^ 16 + 1)) s = exec (.bootRestart (0xB007 * 2 ^ 16 + 1)) s)) ∧
  ∀ (s : State) (off len f v : Nat) (data : List Byte), Canonical s →
    let a := bar2Base s + off
    let inside := off + len ≤ 2 ^ s.pci.bar2Log2 ∧ allReach s a len = true
    let open_ := s.boot.pwrgood = true ∧ s.pci.linkUp = true
    (open_ → ¬inside → exec (.bar2Read off len) s = .next { s with pci := { s.pci with readData := [], readStatus := 2 } }) ∧
    (open_ → inside → unitBad s a len = false →
      exec (.bar2Read off len) s = .next { s with pci := { s.pci with readData := readBytes s a len, readStatus := 0 } }) ∧
    (open_ → inside → unitBad s a len = true → ∃ t, exec (.bar2Read off len) s = .next t ∧ t.pci.readStatus = 1 ∧ t.pci.readData = [] ∧ t.mem = s.mem) ∧
    (¬open_ → exec (.bar2Read off len) s = .next s ∧ exec (.bar2Write off data) s = .next s ∧ exec (.configSpaceWrite f v) s = .next s) ∧
    (open_ → 0 < data.length → a % 4096 + data.length ≤ 4096 → off + data.length ≤ 2 ^ s.pci.bar2Log2 → allReach s a data.length = true →
      (protectedAt s a data.length = false →
        ∃ t, exec (.bar2Write off data) s = .next t ∧ t.harts = s.harts ∧ t.cores = s.cores ∧ t.hit = s.hit ∧
          (∀ b, b / 64 < a / 64 ∨ (a + data.length - 1) / 64 < b / 64 → byteAt t b = byteAt s b) ∧
          (unitBad s a data.length = false →
            ∀ b, byteAt t b = if a ≤ b ∧ b < a + data.length then data.getD (b - a) 0 else byteAt s b)) ∧
      (protectedAt s a data.length = true →
        ∃ t, exec (.bar2Write off data) s = .next t ∧ t.mem = s.mem ∧ t.harts = s.harts ∧ bit (rget t regPciEvents) 2 = true)) ∧
    (open_ → v = 3 → exec (.configSpaceWrite 0 v) s = .next { s with pci := { s.pci with d3hot := true } }) ∧
    (open_ → v = 0 → exec (.configSpaceWrite 1 v) s = .next { s with pci := { s.pci with bme := false } }) ∧
    (open_ → v = 1 → ∃ t, exec (.configSpaceWrite 1 v) s = .next t ∧ t.pci.bme = true ∧ t.mem = s.mem ∧ t.harts = s.harts) ∧
    (open_ → 30 ≤ v → v ≤ 39 → exec (.configSpaceWrite 2 v) s = .next { s with pci := { s.pci with bar2Log2 := v } }) ∧
    (v < 30 ∨ 39 < v ∨ 3 ≤ f → f ≠ 0 → f ≠ 1 → exec (.configSpaceWrite f v) s = .next s)

/-! ### Attestation and management (17 R656-R673; 18 R663-R668; 19) -/

/-- A completion of a management message: its code and data, and nothing else of the device changed. -/
def Sys2Proof.Machine.Answered (t s : State) (code : Nat) (b : List Byte) : Prop :=
  t = { s with freeCtr := t.freeCtr, mgmt := { s.mgmt with completion := code, answer := b } }

/-- The readiness command that a management code stands for: 1 GREY, 2 RELEASE_FORCE (16 R635). -/
def Sys2Proof.Machine.rdyOf (code unit : Nat) : Instr := if code = 1 then .grey 1 unit else .releaseForce 1 unit

/-- When a readiness command of management is DONE: no restart of the keeper, and GREY names a unit that is present and may be forced, RELEASE_FORCE one
that is forced (01 R42; 16 R635). -/
def Sys2Proof.Machine.RdyDone (s : State) (code unit : Nat) : Prop :=
  s.keep.restarting = false ∧ ((code = 1 ∧ forcible unit = true ∧ rdyState s unit ≠ .absent) ∨
    (code = 2 ∧ idxValid unit = true ∧ (rdyGet s unit).forced = true))

/-- The commands that the service cores answer while MCTP is served, but for those of the MCTP control type and of a firmware update. -/
def Sys2Proof.Machine.ServiceOf (body : List Byte) (c : Instr) : Prop :=
  c = .read body ∨ c = .force body ∨ c = .alertMask body ∨ c = .nonce body ∨ c = .token body ∨ c = .relock body ∨ c = .gettid body ∨
    c = .getpldmversion body ∨ c = .getpldmtypes body ∨ c = .getpldmcommands body ∨ c = .getpdrrepositoryinfo body ∨ c = .getpdr body ∨
    c = .getsensorreading body ∨ c = .getstatesensorreadings body
/-- The commands that are answered in HALTED too. -/
def Sys2Proof.Machine.HaltedOf (body : List Byte) (c : Instr) : Prop :=
  c = .setEndpointId body ∨ c = .getEndpointId body ∨ c = .getEndpointUuid body ∨ c = .getMctpVersionSupport body ∨
    c = .getMessageTypeSupport body ∨ c = .requestupdate body ∨ c = .updatecomponent body ∨ c = .componentDataTransfer body ∨
    c = .verifycomplete body ∨ c = .activatefirmware body ∨ c = .cancelupdatecomponent body ∨ c = .cancelupdate body
/-- The SPDM requests that need a stage of the connection, with the stage. -/
def Sys2Proof.Machine.SpdmOf (body : List Byte) (c : Instr) (k : Nat) : Prop :=
  (c = .getCapabilities body ∧ k = 1) ∨ (c = .negotiateAlgorithms body ∧ k = 2) ∨ (c = .getDigests body ∧ k = 3) ∨
    (c = .getCertificate body ∧ k = 3) ∨ (c = .challenge body ∧ k = 3) ∨ (c = .getMeasurements body ∧ k = 3)

/-- Management over I3C, MCTP and PLDM (19): a command that is not served changes nothing; reads change no register and read 0 outside management's
blocks; a readiness command is RDY_CMD as management, DONE or REFUSED by its conditions; an endpoint ID in range is taken; a nonce lasts until it is used or expires; a token that doesn't
verify changes nothing but its event; an update session takes one component at a time, in pieces, and ends with an activation or a cancel. -/
def Obligations.ManagementCommands : Prop :=
  ∀ (s : State) (a n : Nat) (body : List Byte), Canonical s →
    (mctpUp s false = false → ∀ c, ServiceOf body c →
      (s.keep.restarting = true → 4 ≤ stage s → stage s ≠ 15 → c ≠ .nonce body ∧ c ≠ .token body ∧ c ≠ .relock body) → exec c s = .next s) ∧
    (s.keep.restarting = true → 4 ≤ stage s → stage s ≠ 15 → ∀ c ∈ [Instr.nonce body, .token body, .relock body],
      ∃ t, exec c s = .next t ∧ Answered t s 2 []) ∧
    (mctpUp s true = false → ∀ c, HaltedOf body c → exec c s = .next s) ∧
    (s.boot.pwrgood = true →
      (a < 2 ^ 32 → ∃ t, exec (.directRead a n) s = .next t ∧ t.mgmt.completion = 0 ∧ t.mgmt.answer = mgmtBytes s a (4 * (n / 4)) ∧
        t.mgmt.offset = (a + 4 * (n / 4)) % 2 ^ 32 ∧ t.csr = s.csr ∧ t.mem = s.mem) ∧
      (RdyDone s (fld body 0 1) (fld body 1 2) →
        ∃ u, exec (rdyOf (fld body 0 1) (fld body 1 2)) s = .next u ∧
          exec (.directRdyCmd body) s = .next { u with mgmt := { u.mgmt with completion := 0, answer := [1] } }) ∧
      (¬RdyDone s (fld body 0 1) (fld body 1 2) → ∃ t, exec (.directRdyCmd body) s = .next t ∧ t.mgmt.completion = 0 ∧ t.mgmt.answer = [2] ∧
        t.rdy = s.rdy ∧ t.csr = s.csr ∧ t.mem = s.mem) ∧
      exec (.entdaa a) s = .next { s with mgmt := { s.mgmt with i3cMode := true, dynAddr := a % 128, answer := provisionalId s } }) ∧
    exec .rstdaa s = .next { s with mgmt := { s.mgmt with i3cMode := false, dynAddr := 0 } } ∧
    (mctpUp s true = true →
      (let e := fld body 1 1
       (fld body 0 1 % 4 < 2 → 0 < e → e < 0xFF → ∃ t, exec (.setEndpointId body) s = .next t ∧ t.mgmt.eid = e ∧ t.mgmt.completion = 0 ∧ t.csr = s.csr) ∧
       (2 ≤ fld body 0 1 % 4 ∨ e = 0 ∨ e = 0xFF → ∃ t, exec (.setEndpointId body) s = .next t ∧ Answered t s 2 [])) ∧
      (∃ t, exec (.getEndpointId body) s = .next t ∧ Answered t s 0 (natLe 1 s.mgmt.eid ++ [0, 0])) ∧
      (∃ t, exec (.getEndpointUuid body) s = .next t ∧ Answered t s 0 ((List.range 16).map Config.uuid)) ∧
      (fld body 0 1 = 0 ∨ fld body 0 1 = 0xFF → ∃ t, exec (.getMctpVersionSupport body) s = .next t ∧ Answered t s 0 [1, 0xF1, 0xF3, 0xFF, 0x00]) ∧
      (∃ t b, exec (.getMessageTypeSupport body) s = .next t ∧ Answered t s 0 b ∧ b.length = 1 + msgTypes.length)) ∧
    (mctpUp s false = true →
      (let o := fld body 0 4
       let k := fld body 4 1
       (k < 4 ∨ 48 < k ∨ k % 4 ≠ 0 → ∃ t, exec (.read body) s = .next t ∧ Answered t s 1 []) ∧
       (4 ≤ k → k ≤ 48 → k % 4 = 0 → ∃ t, exec (.read body) s = .next t ∧
         Answered t s (b2n ((List.range k).any fun i => !mgmtReach (o + i))) (mgmtBytes s o k))) ∧
      (RdyDone s (fld body 0 1) (fld body 1 2) →
        ∃ u, exec (rdyOf (fld body 0 1) (fld body 1 2)) s = .next u ∧
          exec (.force body) s = .next { u with mgmt := { u.mgmt with completion := 0, answer := [1] } }) ∧
      (¬RdyDone s (fld body 0 1) (fld body 1 2) → ∃ t, exec (.force body) s = .next t ∧ t.mgmt.completion = 1 ∧ t.mgmt.answer = [2] ∧
        t.rdy = s.rdy ∧ t.csr = s.csr ∧ t.mem = s.mem) ∧
      (∃ t, exec (.alertMask body) s = .next t ∧ fget t regFltAlertMask 12 0 = fld body 0 2 % 2 ^ 13 ∧ t.mem = s.mem ∧ t.harts = s.harts) ∧
      ((∃ t k, exec (.nonce body) s = .next t ∧ t.keep = { s.keep with nonce := some (k, s.now) } ∧ t.mgmt.completion = 0 ∧
          t.mgmt.answer = randomBytes k 32 ∧ t.csr = s.csr) ∧
        (tokenOk s body = false → ∃ t, exec (.token body) s = .next t ∧ t.keep = s.keep ∧ t.mgmt.completion = 1 ∧ bit (rget t regKeepEvents) 3 = true ∧
          t.mem = s.mem) ∧
        (tokenOk s body = true → fld body 6 1 = 1 ∨ fld body 6 1 = 2 →
          ∃ t, exec (.token body) s = .next t ∧ t.keep.nonce = none ∧ t.keep.unlockScope = fld body 6 1 ∧
            t.keep.unlockUntil = s.now + fld body 0x30 2 * 60000000000 ∧ t.keep.lifecycle = s.keep.lifecycle ∧ t.mgmt.completion = 0) ∧
        (s.keep.unlockScope = 1 ∨ s.keep.unlockScope = 2 → ∃ t, exec (.relock body) s = .next t ∧ t.keep.unlockScope = 0 ∧ t.mgmt.completion = 0)) ∧
      (∃ t, exec (.gettid body) s = .next t ∧ Answered t s 0 [Config.tid]) ∧
      (∀ v, pldmVersion (fld body 5 1) = some v →
        ∃ t, exec (.getpldmversion body) s = .next t ∧ Answered t s 0 ([0, 0, 0, 0, 5] ++ v ++ natLe 4 (crc32 v))) ∧
      (pldmVersion (fld body 5 1) = none → ∃ t, exec (.getpldmversion body) s = .next t ∧ Answered t s 0x83 []) ∧
      (∃ t, exec (.getpldmtypes body) s = .next t ∧ Answered t s 0 (natLe 8 0x25)) ∧
      (∀ l, pldmCommands (fld body 0 1) = some l → ∃ t, exec (.getpldmcommands body) s = .next t ∧
        Answered t s 0 (natLe 32 ((l.map (2 ^ ·)).foldl (· + ·) 0))) ∧
      (∃ t, exec (.getpdrrepositoryinfo body) s = .next t ∧ t.mgmt.completion = 0 ∧ t.csr = s.csr ∧ t.mem = s.mem) ∧
      (31 < fld body 0 4 → ∃ t, exec (.getpdr body) s = .next t ∧ Answered t s 0x82 []) ∧
      (fld body 0 4 ≤ 31 → ∃ t, exec (.getpdr body) s = .next t ∧ t.mgmt.completion = 0 ∧ t.csr = s.csr ∧ t.mem = s.mem) ∧
      (sensorOf (fld body 0 2) = none → ∃ t, exec (.getsensorreading body) s = .next t ∧ Answered t s 0x80 []) ∧
      (∀ x, sensorOf (fld body 0 2) = some x → ∃ t, exec (.getsensorreading body) s = .next t ∧ t.mgmt.completion = 0 ∧ t.mem = s.mem ∧ t.harts = s.harts) ∧
      (fld body 0 2 < 100 ∨ 107 < fld body 0 2 → ∃ t, exec (.getstatesensorreadings body) s = .next t ∧ Answered t s 0x80 []) ∧
      (100 ≤ fld body 0 2 → fld body 0 2 ≤ 107 → ∃ t, exec (.getstatesensorreadings body) s = .next t ∧ t.mgmt.completion = 0 ∧ t.mem = s.mem)) ∧
    (mctpUp s true = true →
      (s.mgmt.session = true → ∃ t, exec (.requestupdate body) s = .next t ∧ Answered t s 0x81 []) ∧
      (s.mgmt.session = false → 32 ≤ fld body 0 4 →
        ∃ t, exec (.requestupdate body) s = .next t ∧ t.mgmt.session = true ∧ t.mgmt.transfer = none ∧ t.mgmt.verified = [] ∧ t.mgmt.completion = 0) ∧
      (s.mgmt.session = false → ∀ c ∈ [Instr.updatecomponent body, .activatefirmware body, .cancelupdatecomponent body, .cancelupdate body],
        ∃ t, exec c s = .next t ∧ Answered t s 0x80 []) ∧
      (s.mgmt.session = true → fld body 2 2 = 1 → fld body 0 2 = 0x000A → 0 < fld body 9 4 → fld body 9 4 ≤ compLimit 1 → stage s ≠ 15 →
        s.keep.named.contains 2 = false →
        ∃ t, exec (.updatecomponent body) s = .next t ∧ t.mgmt.transfer = some ⟨1, fld body 9 4, []⟩ ∧ t.mgmt.completion = 0 ∧ t.boot = s.boot) ∧
      (s.mgmt.transfer = none → ∀ c ∈ [Instr.componentDataTransfer body, .verifycomplete body], ∃ t, exec c s = .next t ∧ Answered t s 0x80 []) ∧
      (∀ x, s.mgmt.transfer = some x → x.bytes.length + body.length < x.size → 32 ≤ body.length → body.length ≤ 4096 →
        ∃ t, exec (.componentDataTransfer body) s = .next t ∧ t.mgmt.transfer = some { x with bytes := x.bytes ++ body } ∧ t.mgmt.completion = 0 ∧
          t.keep = s.keep ∧ t.boot = s.boot) ∧
      (∀ x, s.mgmt.transfer = some x → verifies s x = true →
        ∃ t, exec (.verifycomplete body) s = .next t ∧ t.mgmt.verified = s.mgmt.verified ++ [x.comp] ∧ t.mgmt.transfer = none ∧ t.mgmt.answer = [0]) ∧
      (∀ x, s.mgmt.transfer = some x → verifies s x = false → ∃ t, exec (.verifycomplete body) s = .next t ∧ Answered t s 0 [1]) ∧
      (s.mgmt.session = true → ∃ t, exec (.activatefirmware body) s = .next t ∧ t.mgmt.session = false ∧ t.mgmt.completion = 0 ∧
        (s.mgmt.verified.contains 3 = true → t.keep.restarting = true ∧ t.keep.restartCause = 2)) ∧
      (s.mgmt.session = true → ∃ t, exec (.cancelupdatecomponent body) s = .next t ∧ t.mgmt.transfer = none ∧ t.mgmt.session = true) ∧
      (s.mgmt.session = true → ∃ t, exec (.cancelupdate body) s = .next t ∧ t.mgmt.session = false ∧ t.mgmt.transfer = none ∧ t.keep = s.keep))

/-- Attestation and link encryption (17 R656, R663-R668): before a keeper has passed nothing is answered (16 R628), and
during a keeper restart SPDM answers Busy; GET_VERSION starts the connection afresh, any other
request needs version 1.3 and its stage; a certificate that doesn't fit, and RMA, end a challenge Unspecified; a key is programmed only by a message of
its form, and an integrity failure takes every key away. -/
def Obligations.Attestation : Prop :=
  ∀ (s : State) (body : List Byte), Canonical s →
    let reply := fun (o : Host.Outcome State Fault Refusal) (b : List Byte) => o = .next { s with keep := { s.keep with lastResponse := b } }
    (rdyState s 0x40 ≠ .ready →
      (∀ c k, SpdmOf body c k → exec c s = .next s) ∧
        ∀ c ∈ [Instr.getVersion body, .spdmUnsupported body, .doeDiscovery body, .query body, .keyProg body, .kSetGo body, .kSetStop body],
          exec c s = .next s) ∧
    (rdyState s 0x40 = .ready → s.keep.restarting = true →
      reply (exec (.getVersion body) s) (spdmError 3 0) ∧ reply (exec (.spdmUnsupported body) s) (spdmError 3 0) ∧
      (∀ c k, SpdmOf body c k → reply (exec c s) (spdmError 3 0)) ∧ exec (.query body) s = .next s ∧ exec (.keyProg body) s = .next s ∧
      exec (.kSetGo body) s = .next s ∧ exec (.kSetStop body) s = .next s) ∧
    (rdyState s 0x40 = .ready → s.keep.restarting = false →
      (∃ t, exec (.getVersion body) s = .next t ∧ t.keep.spdmStage = 1 ∧ t.keep.lastResponse = [0x10, 0x04, 0, 0, 0, 1, 0x00, 0x13] ∧
        t.keep.spdmCert = [] ∧ t.keep.spdmMeas = [] ∧ t.mem = s.mem) ∧
      (fld body 0 1 ≠ 0x13 → ∀ c k, SpdmOf body c k → reply (exec c s) (spdmError 0x41 0)) ∧
      (fld body 0 1 = 0x13 → ∀ c k, SpdmOf body c k → s.keep.spdmStage < k → reply (exec c s) (spdmError 4 0)) ∧
      reply (exec (.spdmUnsupported body) s) (spdmError 7 (fld body 1 1)) ∧
      (fld body 0 1 = 0x13 → 1 ≤ s.keep.spdmStage → 20 ≤ body.length →
        ∃ t, exec (.getCapabilities body) s = .next t ∧ t.keep.spdmStage = max 2 s.keep.spdmStage ∧ t.keep.spdmSize = fld body 12 4) ∧
      (fld body 0 1 = 0x13 → 2 ≤ s.keep.spdmStage → (extLists body).1.contains extAsym = true → (extLists body).2.contains extHash = true →
        ∃ t, exec (.negotiateAlgorithms body) s = .next t ∧ t.keep.spdmStage = 3) ∧
      (fld body 0 1 = 0x13 → 3 ≤ s.keep.spdmStage →
        (∃ t, exec (.getDigests body) s = .next t ∧ t.keep.lastResponse = spdmFit s ([0x13, 0x01, 1, 1] ++ shake256 (certChain s)) ∧
          t.keep.spdmStage = s.keep.spdmStage) ∧
        (s.keep.certOk = false → reply (exec (.getCertificate body) s) (spdmError 5 0)) ∧
        (s.keep.certOk = false ∨ s.keep.lifecycle = 3 → reply (exec (.challenge body) s) (spdmError 5 0)) ∧
        (s.keep.certOk = true → s.keep.lifecycle ≠ 3 → body.length ≠ 44 → reply (exec (.challenge body) s) (spdmError 1 0)) ∧
        (s.keep.certOk = true → fld body 2 1 % 16 = 0 → fld body 4 2 < (certChain s).length →
          let k := min (fld body 6 2) ((certChain s).length - fld body 4 2)
          ∃ t, exec (.getCertificate body) s = .next t ∧ t.keep.lastResponse = spdmFit s ([0x13, 0x02, 0, 0] ++ natLe 2 k ++
            natLe 2 ((certChain s).length - fld body 4 2 - k) ++ ((certChain s).drop (fld body 4 2)).take k)) ∧
        (s.keep.certOk = true → s.keep.lifecycle ≠ 3 → body.length = 44 → fld body 2 1 % 16 = 0 → fld body 3 1 = 0 →
          ∃ t n sig, exec (.challenge body) s = .next t ∧ t.keep.spdmCert = [] ∧ t.keep.spdmMeas = [] ∧ sig.length = 4627 ∧ t.mem = s.mem ∧
            t.keep.lastResponse = spdmFit s ([0x13, 0x03, 0, 1] ++ shake256 (certChain s) ++ randomBytes n 32 ++ natLe 2 0 ++
              (body.drop 36).take 8 ++ sig)) ∧
        (bit (fld body 2 1) 0 = false → body.length ≠ 12 → reply (exec (.getMeasurements body) s) (spdmError 1 0)) ∧
        (bit (fld body 2 1) 0 = false → body.length = 12 → 1 ≤ fld body 3 1 → fld body 3 1 ≤ 10 →
          let b := measBlock s (fld body 3 1)
          ∃ t n, exec (.getMeasurements body) s = .next t ∧ t.keep.spdmCert = s.keep.spdmCert ∧ t.mem = s.mem ∧
            t.keep.lastResponse = spdmFit s ([0x13, 0x60, 0, 0] ++ natLe 1 1 ++ natLe 3 b.length ++ b ++ randomBytes n 32 ++ natLe 2 0 ++
              (body.drop 4).take 8))) ∧
      (∃ t, exec (.query body) s = .next t ∧ t.keep.ide = s.keep.ide ∧ t.keep.lastResponse.take 3 = [0, 1, 0]) ∧
      (ideForm body 48 = 0 →
        ∃ t, exec (.keyProg body) s = .next t ∧
          t.keep.ide = { s.keep.ide with keys := pput s.keep.ide.keys (8 * (ideKey body).1 + (ideKey body).2) (body.drop 8), insecure := false }) ∧
      (ideForm body 48 ≠ 0 → ∃ t, exec (.keyProg body) s = .next t ∧ t.keep.ide = s.keep.ide) ∧
      (∀ key, ideForm body 8 = 0 → pfind s.keep.ide.keys (8 * (ideKey body).1 + (ideKey body).2) = some key → (ideKey body).1 = 0 →
        ∃ t, exec (.kSetGo body) s = .next t ∧ bit t.keep.ide.run0 (ideKey body).2 = true ∧ bit t.keep.ide.run1 (ideKey body).2 = false ∧
          t.keep.ide.keys = s.keep.ide.keys) ∧
      (ideForm body 8 = 0 → (ideKey body).1 = 0 →
        ∃ t, exec (.kSetStop body) s = .next t ∧ bit t.keep.ide.run0 (ideKey body).2 = false ∧ t.keep.ide.run1 = s.keep.ide.run1 ∧
          t.keep.ide.keys = pdel s.keep.ide.keys (8 * (ideKey body).1 + (ideKey body).2)) ∧
      (ideForm body 8 ≠ 0 → ∃ t, exec (.kSetStop body) s = .next t ∧ t.keep.ide = s.keep.ide)) ∧
    (s.boot.pwrgood = true → ∃ t, exec .ideIntegrityFail s = .next t ∧ t.keep.ide.insecure = true ∧ t.keep.ide.keys = [] ∧ t.keep.ide.run0 = 0 ∧ t.keep.ide.run1 = 0 ∧
      bit (rget t regKeepEvents) 4 = true ∧ t.mem = s.mem) ∧
    (rdyState s 0x40 = .ready → fld body 0 1 = 0 → reply (exec (.doeDiscovery body) s) [0x01, 0x00, 0x00, 0x01]) ∧
    (rdyState s 0x40 = .ready → fld body 0 1 = 1 → reply (exec (.doeDiscovery body) s) [0x01, 0x00, 0x01, 0x00])
end

