-- ==== Sys2Proof/Laws/Exec.lean ====
section
/-! SUPPORT. What each arm of `exec` calls, and what a step does with the command at the front. -/

namespace Sys2Proof.Machine

variable (s : State)

@[simp] theorem exec_tickStart : exec (.tickStart) s = execTickStart s := rfl
@[simp] theorem exec_firstTickStart : exec (.firstTickStart) s = execFirstTickStart s := rfl
@[simp] theorem exec_runBegin : exec (.runBegin) s = execRunBegin s := rfl
@[simp] theorem exec_settlePoint : exec (.settlePoint) s = execSettlePoint s := rfl
@[simp] theorem exec_applyPoint (temps : List (Nat × Nat)) (reach : Nat) : exec (.applyPoint temps reach) s = execApplyPoint temps reach s := rfl
@[simp] theorem exec_copyStage (reach : Nat) : exec (.copyStage reach) s = execCopyStage reach s := rfl
@[simp] theorem exec_bulkCutOff : exec (.bulkCutOff) s = execBulkCutOff s := rfl
@[simp] theorem exec_releaseLateEntry : exec (.releaseLateEntry) s = execReleaseLateEntry s := rfl
@[simp] theorem exec_summaryPlanRx (src tag : Nat) (body : List Byte) : exec (.summaryPlanRx src tag body) s = execSummaryPlanRx src tag body s := rfl
@[simp] theorem exec_summaryVetoRx (src tag : Nat) (body : List Byte) : exec (.summaryVetoRx src tag body) s = execSummaryVetoRx src tag body s := rfl
@[simp] theorem exec_summaryOfferRx (src tag : Nat) (body : List Byte) : exec (.summaryOfferRx src tag body) s = execSummaryOfferRx src tag body s := rfl
@[simp] theorem exec_summaryAcceptRx (src tag : Nat) (body : List Byte) : exec (.summaryAcceptRx src tag body) s = execSummaryAcceptRx src tag body s := rfl
@[simp] theorem exec_ptpMessageRx (port : Nat) (body : List Byte) : exec (.ptpMessageRx port body) s = execPtpMessageRx port body s := rfl
@[simp] theorem exec_ptpSyncTx (port : Nat) : exec (.ptpSyncTx port) s = execPtpSyncTx port s := rfl
@[simp] theorem exec_ptpPdelayReqTx (port : Nat) : exec (.ptpPdelayReqTx port) s = execPtpPdelayReqTx port s := rfl
@[simp] theorem exec_ptpAnnounceTx (port : Nat) : exec (.ptpAnnounceTx port) s = execPtpAnnounceTx port s := rfl
@[simp] theorem exec_announceReceiptTimeout (port : Nat) : exec (.announceReceiptTimeout port) s = execAnnounceReceiptTimeout port s := rfl
@[simp] theorem exec_syncLoss : exec (.syncLoss) s = execSyncLoss s := rfl
@[simp] theorem exec_holdoverLimit : exec (.holdoverLimit) s = execHoldoverLimit s := rfl
@[simp] theorem exec_ptmRequest : exec (.ptmRequest) s = execPtmRequest s := rfl
@[simp] theorem exec_ptmResponse (t1 t2 t3 t4 : Nat) : exec (.ptmResponse t1 t2 t3 t4) s = execPtmResponse t1 t2 t3 t4 s := rfl
@[simp] theorem exec_tickInWord (word : Nat) : exec (.tickInWord word) s = execTickInWord word s := rfl
@[simp] theorem exec_tickInEdge : exec (.tickInEdge) s = execTickInEdge s := rfl
@[simp] theorem exec_tickOutWord : exec (.tickOutWord) s = execTickOutWord s := rfl
@[simp] theorem exec_taskDispatch (lcore : Nat) : exec (.taskDispatch lcore) s = execTaskDispatch lcore s := rfl
@[simp] theorem exec_strandWaitEnd (h : Hart) : exec (.strandWaitEnd h) s = execStrandWaitEnd h s := rfl
@[simp] theorem exec_strandReleaseSeen (h : Hart) : exec (.strandReleaseSeen h) s = execStrandReleaseSeen h s := rfl
@[simp] theorem exec_strandTimeout (h : Hart) : exec (.strandTimeout h) s = execStrandTimeout h s := rfl
@[simp] theorem exec_illegal (h : Hart) (g : Guard) : exec (.illegal h g) s = execIllegal h g s := rfl
@[simp] theorem exec_add (h : Hart) (g : Guard) (rd rs1 rs2 : Reg) : exec (.add h g rd rs1 rs2) s = execAdd h g rd rs1 rs2 s := rfl
@[simp] theorem exec_sub (h : Hart) (g : Guard) (rd rs1 rs2 : Reg) : exec (.sub h g rd rs1 rs2) s = execSub h g rd rs1 rs2 s := rfl
@[simp] theorem exec_mul (h : Hart) (g : Guard) (rd rs1 rs2 : Reg) : exec (.mul h g rd rs1 rs2) s = execMul h g rd rs1 rs2 s := rfl
@[simp] theorem exec_mulhu (h : Hart) (g : Guard) (rd rs1 rs2 : Reg) : exec (.mulhu h g rd rs1 rs2) s = execMulhu h g rd rs1 rs2 s := rfl
@[simp] theorem exec_mulhs (h : Hart) (g : Guard) (rd rs1 rs2 : Reg) : exec (.mulhs h g rd rs1 rs2) s = execMulhs h g rd rs1 rs2 s := rfl
@[simp] theorem exec_divu (h : Hart) (g : Guard) (rd rs1 rs2 : Reg) : exec (.divu h g rd rs1 rs2) s = execDivu h g rd rs1 rs2 s := rfl
@[simp] theorem exec_divs (h : Hart) (g : Guard) (rd rs1 rs2 : Reg) : exec (.divs h g rd rs1 rs2) s = execDivs h g rd rs1 rs2 s := rfl
@[simp] theorem exec_remu (h : Hart) (g : Guard) (rd rs1 rs2 : Reg) : exec (.remu h g rd rs1 rs2) s = execRemu h g rd rs1 rs2 s := rfl
@[simp] theorem exec_rems (h : Hart) (g : Guard) (rd rs1 rs2 : Reg) : exec (.rems h g rd rs1 rs2) s = execRems h g rd rs1 rs2 s := rfl
@[simp] theorem exec_and (h : Hart) (g : Guard) (rd rs1 rs2 : Reg) : exec (.and h g rd rs1 rs2) s = execAnd h g rd rs1 rs2 s := rfl
@[simp] theorem exec_or (h : Hart) (g : Guard) (rd rs1 rs2 : Reg) : exec (.or h g rd rs1 rs2) s = execOr h g rd rs1 rs2 s := rfl
@[simp] theorem exec_xor (h : Hart) (g : Guard) (rd rs1 rs2 : Reg) : exec (.xor h g rd rs1 rs2) s = execXor h g rd rs1 rs2 s := rfl
@[simp] theorem exec_andn (h : Hart) (g : Guard) (rd rs1 rs2 : Reg) : exec (.andn h g rd rs1 rs2) s = execAndn h g rd rs1 rs2 s := rfl
@[simp] theorem exec_shl (h : Hart) (g : Guard) (rd rs1 rs2 : Reg) : exec (.shl h g rd rs1 rs2) s = execShl h g rd rs1 rs2 s := rfl
@[simp] theorem exec_shru (h : Hart) (g : Guard) (rd rs1 rs2 : Reg) : exec (.shru h g rd rs1 rs2) s = execShru h g rd rs1 rs2 s := rfl
@[simp] theorem exec_shrs (h : Hart) (g : Guard) (rd rs1 rs2 : Reg) : exec (.shrs h g rd rs1 rs2) s = execShrs h g rd rs1 rs2 s := rfl
@[simp] theorem exec_mins (h : Hart) (g : Guard) (rd rs1 rs2 : Reg) : exec (.mins h g rd rs1 rs2) s = execMins h g rd rs1 rs2 s := rfl
@[simp] theorem exec_maxs (h : Hart) (g : Guard) (rd rs1 rs2 : Reg) : exec (.maxs h g rd rs1 rs2) s = execMaxs h g rd rs1 rs2 s := rfl
@[simp] theorem exec_minu (h : Hart) (g : Guard) (rd rs1 rs2 : Reg) : exec (.minu h g rd rs1 rs2) s = execMinu h g rd rs1 rs2 s := rfl
@[simp] theorem exec_maxu (h : Hart) (g : Guard) (rd rs1 rs2 : Reg) : exec (.maxu h g rd rs1 rs2) s = execMaxu h g rd rs1 rs2 s := rfl
@[simp] theorem exec_sel (h : Hart) (g : Guard) (rd rs1 rs2 : Reg) (ps : PredReg) : exec (.sel h g rd rs1 rs2 ps) s = execSel h g rd rs1 rs2 ps s := rfl
@[simp] theorem exec_madd (h : Hart) (g : Guard) (rd rs1 rs2 rs3 : Reg) : exec (.madd h g rd rs1 rs2 rs3) s = execMadd h g rd rs1 rs2 rs3 s := rfl
@[simp] theorem exec_popc (h : Hart) (g : Guard) (rd rs1 : Reg) : exec (.popc h g rd rs1) s = execPopc h g rd rs1 s := rfl
@[simp] theorem exec_clz (h : Hart) (g : Guard) (rd rs1 : Reg) : exec (.clz h g rd rs1) s = execClz h g rd rs1 s := rfl
@[simp] theorem exec_ctz (h : Hart) (g : Guard) (rd rs1 : Reg) : exec (.ctz h g rd rs1) s = execCtz h g rd rs1 s := rfl
@[simp] theorem exec_addi (h : Hart) (g : Guard) (rd rs1 : Reg) (imm : BitVec 32) : exec (.addi h g rd rs1 imm) s = execAddi h g rd rs1 imm s := rfl
@[simp] theorem exec_muli (h : Hart) (g : Guard) (rd rs1 : Reg) (imm : BitVec 32) : exec (.muli h g rd rs1 imm) s = execMuli h g rd rs1 imm s := rfl
@[simp] theorem exec_andi (h : Hart) (g : Guard) (rd rs1 : Reg) (imm : BitVec 32) : exec (.andi h g rd rs1 imm) s = execAndi h g rd rs1 imm s := rfl
@[simp] theorem exec_ori (h : Hart) (g : Guard) (rd rs1 : Reg) (imm : BitVec 32) : exec (.ori h g rd rs1 imm) s = execOri h g rd rs1 imm s := rfl
@[simp] theorem exec_xori (h : Hart) (g : Guard) (rd rs1 : Reg) (imm : BitVec 32) : exec (.xori h g rd rs1 imm) s = execXori h g rd rs1 imm s := rfl
@[simp] theorem exec_shli (h : Hart) (g : Guard) (rd rs1 : Reg) (imm : BitVec 32) : exec (.shli h g rd rs1 imm) s = execShli h g rd rs1 imm s := rfl
@[simp] theorem exec_shrui (h : Hart) (g : Guard) (rd rs1 : Reg) (imm : BitVec 32) : exec (.shrui h g rd rs1 imm) s = execShrui h g rd rs1 imm s := rfl
@[simp] theorem exec_shrsi (h : Hart) (g : Guard) (rd rs1 : Reg) (imm : BitVec 32) : exec (.shrsi h g rd rs1 imm) s = execShrsi h g rd rs1 imm s := rfl
@[simp] theorem exec_fadd (h : Hart) (g : Guard) (rd rs1 rs2 : Reg) : exec (.fadd h g rd rs1 rs2) s = execFadd h g rd rs1 rs2 s := rfl
@[simp] theorem exec_fsub (h : Hart) (g : Guard) (rd rs1 rs2 : Reg) : exec (.fsub h g rd rs1 rs2) s = execFsub h g rd rs1 rs2 s := rfl
@[simp] theorem exec_fmul (h : Hart) (g : Guard) (rd rs1 rs2 : Reg) : exec (.fmul h g rd rs1 rs2) s = execFmul h g rd rs1 rs2 s := rfl
@[simp] theorem exec_ffma (h : Hart) (g : Guard) (rd rs1 rs2 rs3 : Reg) : exec (.ffma h g rd rs1 rs2 rs3) s = execFfma h g rd rs1 rs2 rs3 s := rfl
@[simp] theorem exec_fmin (h : Hart) (g : Guard) (rd rs1 rs2 : Reg) : exec (.fmin h g rd rs1 rs2) s = execFmin h g rd rs1 rs2 s := rfl
@[simp] theorem exec_fmax (h : Hart) (g : Guard) (rd rs1 rs2 : Reg) : exec (.fmax h g rd rs1 rs2) s = execFmax h g rd rs1 rs2 s := rfl
@[simp] theorem exec_fcvtsi (h : Hart) (g : Guard) (rd rs1 : Reg) : exec (.fcvtsi h g rd rs1) s = execFcvtsi h g rd rs1 s := rfl
@[simp] theorem exec_fcvtis (h : Hart) (g : Guard) (rd rs1 : Reg) : exec (.fcvtis h g rd rs1) s = execFcvtis h g rd rs1 s := rfl
@[simp] theorem exec_cmpeq (h : Hart) (g : Guard) (pd : PredReg) (rs1 : Reg) (y : Operand) : exec (.cmpeq h g pd rs1 y) s = execCmpeq h g pd rs1 y s := rfl
@[simp] theorem exec_cmpne (h : Hart) (g : Guard) (pd : PredReg) (rs1 : Reg) (y : Operand) : exec (.cmpne h g pd rs1 y) s = execCmpne h g pd rs1 y s := rfl
@[simp] theorem exec_cmplts (h : Hart) (g : Guard) (pd : PredReg) (rs1 : Reg) (y : Operand) : exec (.cmplts h g pd rs1 y) s = execCmplts h g pd rs1 y s := rfl
@[simp] theorem exec_cmples (h : Hart) (g : Guard) (pd : PredReg) (rs1 : Reg) (y : Operand) : exec (.cmples h g pd rs1 y) s = execCmples h g pd rs1 y s := rfl
@[simp] theorem exec_cmpltu (h : Hart) (g : Guard) (pd : PredReg) (rs1 : Reg) (y : Operand) : exec (.cmpltu h g pd rs1 y) s = execCmpltu h g pd rs1 y s := rfl
@[simp] theorem exec_cmpleu (h : Hart) (g : Guard) (pd : PredReg) (rs1 : Reg) (y : Operand) : exec (.cmpleu h g pd rs1 y) s = execCmpleu h g pd rs1 y s := rfl
@[simp] theorem exec_fcmpeq (h : Hart) (g : Guard) (pd : PredReg) (rs1 : Reg) (y : Operand) : exec (.fcmpeq h g pd rs1 y) s = execFcmpeq h g pd rs1 y s := rfl
@[simp] theorem exec_fcmplt (h : Hart) (g : Guard) (pd : PredReg) (rs1 : Reg) (y : Operand) : exec (.fcmplt h g pd rs1 y) s = execFcmplt h g pd rs1 y s := rfl
@[simp] theorem exec_fcmple (h : Hart) (g : Guard) (pd : PredReg) (rs1 : Reg) (y : Operand) : exec (.fcmple h g pd rs1 y) s = execFcmple h g pd rs1 y s := rfl
@[simp] theorem exec_fcmpun (h : Hart) (g : Guard) (pd : PredReg) (rs1 : Reg) (y : Operand) : exec (.fcmpun h g pd rs1 y) s = execFcmpun h g pd rs1 y s := rfl
@[simp] theorem exec_pand (h : Hart) (g : Guard) (pd pa pb : PredReg) : exec (.pand h g pd pa pb) s = execPand h g pd pa pb s := rfl
@[simp] theorem exec_por (h : Hart) (g : Guard) (pd pa pb : PredReg) : exec (.por h g pd pa pb) s = execPor h g pd pa pb s := rfl
@[simp] theorem exec_pxor (h : Hart) (g : Guard) (pd pa pb : PredReg) : exec (.pxor h g pd pa pb) s = execPxor h g pd pa pb s := rfl
@[simp] theorem exec_pandn (h : Hart) (g : Guard) (pd pa pb : PredReg) : exec (.pandn h g pd pa pb) s = execPandn h g pd pa pb s := rfl
@[simp] theorem exec_ld8u (h : Hart) (g : Guard) (rd rs1 : Reg) (space : Bool) (imm : BitVec 32) : exec (.ld8u h g rd rs1 space imm) s = execLd8u h g rd rs1 space imm s := rfl
@[simp] theorem exec_ld16u (h : Hart) (g : Guard) (rd rs1 : Reg) (space : Bool) (imm : BitVec 32) : exec (.ld16u h g rd rs1 space imm) s = execLd16u h g rd rs1 space imm s := rfl
@[simp] theorem exec_ld32u (h : Hart) (g : Guard) (rd rs1 : Reg) (space : Bool) (imm : BitVec 32) : exec (.ld32u h g rd rs1 space imm) s = execLd32u h g rd rs1 space imm s := rfl
@[simp] theorem exec_ld64 (h : Hart) (g : Guard) (rd rs1 : Reg) (space : Bool) (imm : BitVec 32) : exec (.ld64 h g rd rs1 space imm) s = execLd64 h g rd rs1 space imm s := rfl
@[simp] theorem exec_ld8s (h : Hart) (g : Guard) (rd rs1 : Reg) (space : Bool) (imm : BitVec 32) : exec (.ld8s h g rd rs1 space imm) s = execLd8s h g rd rs1 space imm s := rfl
@[simp] theorem exec_ld16s (h : Hart) (g : Guard) (rd rs1 : Reg) (space : Bool) (imm : BitVec 32) : exec (.ld16s h g rd rs1 space imm) s = execLd16s h g rd rs1 space imm s := rfl
@[simp] theorem exec_ld32s (h : Hart) (g : Guard) (rd rs1 : Reg) (space : Bool) (imm : BitVec 32) : exec (.ld32s h g rd rs1 space imm) s = execLd32s h g rd rs1 space imm s := rfl
@[simp] theorem exec_st8 (h : Hart) (g : Guard) (rd rs1 : Reg) (space : Bool) (imm : BitVec 32) : exec (.st8 h g rd rs1 space imm) s = execSt8 h g rd rs1 space imm s := rfl
@[simp] theorem exec_st16 (h : Hart) (g : Guard) (rd rs1 : Reg) (space : Bool) (imm : BitVec 32) : exec (.st16 h g rd rs1 space imm) s = execSt16 h g rd rs1 space imm s := rfl
@[simp] theorem exec_st32 (h : Hart) (g : Guard) (rd rs1 : Reg) (space : Bool) (imm : BitVec 32) : exec (.st32 h g rd rs1 space imm) s = execSt32 h g rd rs1 space imm s := rfl
@[simp] theorem exec_st64 (h : Hart) (g : Guard) (rd rs1 : Reg) (space : Bool) (imm : BitVec 32) : exec (.st64 h g rd rs1 space imm) s = execSt64 h g rd rs1 space imm s := rfl
@[simp] theorem exec_aadd32 (h : Hart) (g : Guard) (rd rs1 rs2 : Reg) : exec (.aadd32 h g rd rs1 rs2) s = execAadd32 h g rd rs1 rs2 s := rfl
@[simp] theorem exec_aadd64 (h : Hart) (g : Guard) (rd rs1 rs2 : Reg) : exec (.aadd64 h g rd rs1 rs2) s = execAadd64 h g rd rs1 rs2 s := rfl
@[simp] theorem exec_aminu64 (h : Hart) (g : Guard) (rd rs1 rs2 : Reg) : exec (.aminu64 h g rd rs1 rs2) s = execAminu64 h g rd rs1 rs2 s := rfl
@[simp] theorem exec_amaxu64 (h : Hart) (g : Guard) (rd rs1 rs2 : Reg) : exec (.amaxu64 h g rd rs1 rs2) s = execAmaxu64 h g rd rs1 rs2 s := rfl
@[simp] theorem exec_aor64 (h : Hart) (g : Guard) (rd rs1 rs2 : Reg) : exec (.aor64 h g rd rs1 rs2) s = execAor64 h g rd rs1 rs2 s := rfl
@[simp] theorem exec_aand64 (h : Hart) (g : Guard) (rd rs1 rs2 : Reg) : exec (.aand64 h g rd rs1 rs2) s = execAand64 h g rd rs1 rs2 s := rfl
@[simp] theorem exec_aswap64 (h : Hart) (g : Guard) (rd rs1 rs2 : Reg) : exec (.aswap64 h g rd rs1 rs2) s = execAswap64 h g rd rs1 rs2 s := rfl
@[simp] theorem exec_acas64 (h : Hart) (g : Guard) (rd rs1 rs2 rs3 : Reg) : exec (.acas64 h g rd rs1 rs2 rs3) s = execAcas64 h g rd rs1 rs2 rs3 s := rfl
@[simp] theorem exec_afadd32 (h : Hart) (g : Guard) (rd rs1 rs2 : Reg) : exec (.afadd32 h g rd rs1 rs2) s = execAfadd32 h g rd rs1 rs2 s := rfl
@[simp] theorem exec_br (h : Hart) (g : Guard) (imm : BitVec 32) : exec (.br h g imm) s = execBr h g imm s := rfl
@[simp] theorem exec_bri (h : Hart) (g : Guard) (rs1 : Reg) : exec (.bri h g rs1) s = execBri h g rs1 s := rfl
@[simp] theorem exec_call (h : Hart) (g : Guard) (rd : Reg) (imm : BitVec 32) : exec (.call h g rd imm) s = execCall h g rd imm s := rfl
@[simp] theorem exec_calli (h : Hart) (g : Guard) (rd rs1 : Reg) : exec (.calli h g rd rs1) s = execCalli h g rd rs1 s := rfl
@[simp] theorem exec_li (h : Hart) (g : Guard) (rd : Reg) (imm : BitVec 40) : exec (.li h g rd imm) s = execLi h g rd imm s := rfl
@[simp] theorem exec_lih (h : Hart) (g : Guard) (rd : Reg) (imm : BitVec 24) : exec (.lih h g rd imm) s = execLih h g rd imm s := rfl
@[simp] theorem exec_qgather (h : Hart) (g : Guard) (rd rs1 rs2 : Reg) : exec (.qgather h g rd rs1 rs2) s = execQgather h g rd rs1 rs2 s := rfl
@[simp] theorem exec_qlookup (h : Hart) (g : Guard) (rd rs1 rs2 : Reg) : exec (.qlookup h g rd rs1 rs2) s = execQlookup h g rd rs1 rs2 s := rfl
@[simp] theorem exec_qchain (h : Hart) (g : Guard) (rd rs1 rs2 : Reg) : exec (.qchain h g rd rs1 rs2) s = execQchain h g rd rs1 rs2 s := rfl
@[simp] theorem exec_qmat (h : Hart) (g : Guard) (rd rs1 rs2 : Reg) : exec (.qmat h g rd rs1 rs2) s = execQmat h g rd rs1 rs2 s := rfl
@[simp] theorem exec_qsend (h : Hart) (g : Guard) (rd rs1 rs2 : Reg) : exec (.qsend h g rd rs1 rs2) s = execQsend h g rd rs1 rs2 s := rfl
@[simp] theorem exec_qwait (h : Hart) (g : Guard) (rd rs1 : Reg) : exec (.qwait h g rd rs1) s = execQwait h g rd rs1 s := rfl
@[simp] theorem exec_qpoll (h : Hart) (g : Guard) (rd rs1 : Reg) : exec (.qpoll h g rd rs1) s = execQpoll h g rd rs1 s := rfl
@[simp] theorem exec_qdrainall (h : Hart) (g : Guard) (rd : Reg) : exec (.qdrainall h g rd) s = execQdrainall h g rd s := rfl
@[simp] theorem exec_harrive (h : Hart) (g : Guard) (rd rs1 rs2 : Reg) : exec (.harrive h g rd rs1 rs2) s = execHarrive h g rd rs1 rs2 s := rfl
@[simp] theorem exec_hwait (h : Hart) (g : Guard) (rd rs1 rs2 : Reg) : exec (.hwait h g rd rs1 rs2) s = execHwait h g rd rs1 rs2 s := rfl
@[simp] theorem exec_hrelone (h : Hart) (g : Guard) (rd rs1 rs2 : Reg) : exec (.hrelone h g rd rs1 rs2) s = execHrelone h g rd rs1 rs2 s := rfl
@[simp] theorem exec_hrelall (h : Hart) (g : Guard) (rd rs1 rs2 : Reg) : exec (.hrelall h g rd rs1 rs2) s = execHrelall h g rd rs1 rs2 s := rfl
@[simp] theorem exec_hadd (h : Hart) (g : Guard) (rd rs1 rs2 : Reg) : exec (.hadd h g rd rs1 rs2) s = execHadd h g rd rs1 rs2 s := rfl
@[simp] theorem exec_htest (h : Hart) (g : Guard) (rd rs1 rs2 : Reg) : exec (.htest h g rd rs1 rs2) s = execHtest h g rd rs1 rs2 s := rfl
@[simp] theorem exec_karrive (h : Hart) (g : Guard) (rd rs1 rs2 : Reg) : exec (.karrive h g rd rs1 rs2) s = execKarrive h g rd rs1 rs2 s := rfl
@[simp] theorem exec_kwait (h : Hart) (g : Guard) (rd rs1 rs2 : Reg) : exec (.kwait h g rd rs1 rs2) s = execKwait h g rd rs1 rs2 s := rfl
@[simp] theorem exec_nop (h : Hart) (g : Guard) : exec (.nop h g) s = execNop h g s := rfl
@[simp] theorem exec_mfs (h : Hart) (g : Guard) (rd : Reg) (idx : BitVec 12) : exec (.mfs h g rd idx) s = execMfs h g rd idx s := rfl
@[simp] theorem exec_mts (h : Hart) (g : Guard) (rs1 : Reg) (idx : BitVec 12) : exec (.mts h g rs1 idx) s = execMts h g rs1 idx s := rfl
@[simp] theorem exec_mfence (h : Hart) (g : Guard) : exec (.mfence h g) s = execMfence h g s := rfl
@[simp] theorem exec_spawn (h : Hart) (g : Guard) (rd rs1 : Reg) : exec (.spawn h g rd rs1) s = execSpawn h g rd rs1 s := rfl
@[simp] theorem exec_tend (h : Hart) (g : Guard) (rs1 : Reg) : exec (.tend h g rs1) s = execTend h g rs1 s := rfl
@[simp] theorem exec_taskCommitRequest (h : Hart) : exec (.taskCommitRequest h) s = execTaskCommitRequest h s := rfl
@[simp] theorem exec_commitArbiterGrant (die : Nat) : exec (.commitArbiterGrant die) s = execCommitArbiterGrant die s := rfl
@[simp] theorem exec_compHitchSignal : exec (.compHitchSignal) s = execCompHitchSignal s := rfl
@[simp] theorem exec_schAbort (k : Nat) (task : Nat) : exec (.schAbort k task) s = execSchAbort k task s := rfl
@[simp] theorem exec_abortArrival (task : Nat) : exec (.abortArrival task) s = execAbortArrival task s := rfl
@[simp] theorem exec_delayEntryDue (task : Nat) : exec (.delayEntryDue task) s = execDelayEntryDue task s := rfl
@[simp] theorem exec_delayEntryRoom (task : Nat) : exec (.delayEntryRoom task) s = execDelayEntryRoom task s := rfl
@[simp] theorem exec_taskMessageRx (src tag : Nat) (body : List Byte) : exec (.taskMessageRx src tag body) s = execTaskMessageRx src tag body s := rfl
@[simp] theorem exec_fragmentTaskSubmit (core id : Nat) : exec (.fragmentTaskSubmit core id) s = execFragmentTaskSubmit core id s := rfl
@[simp] theorem exec_gatherStart (core : Nat) : exec (.gatherStart core) s = execGatherStart core s := rfl
@[simp] theorem exec_gatherComplete (core id : Nat) : exec (.gatherComplete core id) s = execGatherComplete core id s := rfl
@[simp] theorem exec_lookupStart (core : Nat) : exec (.lookupStart core) s = execLookupStart core s := rfl
@[simp] theorem exec_lookupComplete (core id : Nat) : exec (.lookupComplete core id) s = execLookupComplete core id s := rfl
@[simp] theorem exec_sendStart (core : Nat) : exec (.sendStart core) s = execSendStart core s := rfl
@[simp] theorem exec_runaheadDiscard (core : Nat) : exec (.runaheadDiscard core) s = execRunaheadDiscard core s := rfl
@[simp] theorem exec_remoteGatherTimeout (tag : Nat) : exec (.remoteGatherTimeout tag) s = execRemoteGatherTimeout tag s := rfl
@[simp] theorem exec_chainStart (core : Nat) : exec (.chainStart core) s = execChainStart core s := rfl
@[simp] theorem exec_chainComplete (core : Nat) : exec (.chainComplete core) s = execChainComplete core s := rfl
@[simp] theorem exec_matrixStart (core : Nat) : exec (.matrixStart core) s = execMatrixStart core s := rfl
@[simp] theorem exec_drainComplete (core : Nat) : exec (.drainComplete core) s = execDrainComplete core s := rfl
@[simp] theorem exec_matrixComplete (core id : Nat) : exec (.matrixComplete core id) s = execMatrixComplete core id s := rfl
@[simp] theorem exec_hbmRead (addr len : Nat) (wide : Bool) (err : ReadErrors) (task : Nat) : exec (.hbmRead addr len wide err task) s = execHbmRead addr len wide err task s := rfl
@[simp] theorem exec_hbmWrite (addr : Nat) (data : List Byte) (task : Nat) : exec (.hbmWrite addr data task) s = execHbmWrite addr data task s := rfl
@[simp] theorem exec_wcbAgeWriteback (chan : Nat) (unit : UnitRead) : exec (.wcbAgeWriteback chan unit) s = execWcbAgeWriteback chan unit s := rfl
@[simp] theorem exec_correctedWriteback (chan off : Nat) : exec (.correctedWriteback chan off) s = execCorrectedWriteback chan off s := rfl
@[simp] theorem exec_memRequestTimeout (chan off task : Nat) : exec (.memRequestTimeout chan off task) s = execMemRequestTimeout chan off task s := rfl
@[simp] theorem exec_patrolScrubRead (chan : Nat) (err : ReadErrors) : exec (.patrolScrubRead chan err) s = execPatrolScrubRead chan err s := rfl
@[simp] theorem exec_thermalReadingBringup (stack temp : Nat) : exec (.thermalReadingBringup stack temp) s = execThermalReadingBringup stack temp s := rfl
@[simp] theorem exec_channelRetrainDone (chan : Nat) (kept : RetrainReport) : exec (.channelRetrainDone chan kept) s = execChannelRetrainDone chan kept s := rfl
@[simp] theorem exec_start (chan value : Nat) : exec (.start chan value) s = execStart chan value s := rfl
@[simp] theorem exec_abort (chan : Nat) : exec (.abort chan) s = execAbort chan s := rfl
@[simp] theorem exec_clearLost (chan : Nat) : exec (.clearLost chan) s = execClearLost chan s := rfl
@[simp] theorem exec_memTestComplete (chan : Nat) (failing : TestReport) : exec (.memTestComplete chan failing) s = execMemTestComplete chan failing s := rfl
@[simp] theorem exec_slotFrameStart : exec (.slotFrameStart) s = execSlotFrameStart s := rfl
@[simp] theorem exec_markerRx (port : Nat) (body : List Byte) : exec (.markerRx port body) s = execMarkerRx port body s := rfl
@[simp] theorem exec_markerWindowClose (port : Nat) : exec (.markerWindowClose port) s = execMarkerWindowClose port s := rfl
@[simp] theorem exec_cellRx (port : Nat) (raw : List Byte) (corr : Nat) (fec : FecReport) : exec (.cellRx port raw corr fec) s = execCellRx port raw corr fec s := rfl
@[simp] theorem exec_portTrained (port : Nat) : exec (.portTrained port) s = execPortTrained port s := rfl
@[simp] theorem exec_trainingTimeout (port : Nat) : exec (.trainingTimeout port) s = execTrainingTimeout port s := rfl
@[simp] theorem exec_gatherReq (src tag : Nat) (body : List Byte) : exec (.gatherReq src tag body) s = execGatherReq src tag body s := rfl
@[simp] theorem exec_gatherRsp (src tag : Nat) (body : List Byte) : exec (.gatherRsp src tag body) s = execGatherRsp src tag body s := rfl
@[simp] theorem exec_scatterAdd (src tag : Nat) (body : List Byte) : exec (.scatterAdd src tag body) s = execScatterAdd src tag body s := rfl
@[simp] theorem exec_hitchOp (src tag : Nat) (body : List Byte) : exec (.hitchOp src tag body) s = execHitchOp src tag body s := rfl
@[simp] theorem exec_hitchRsp (src tag : Nat) (body : List Byte) : exec (.hitchRsp src tag body) s = execHitchRsp src tag body s := rfl
@[simp] theorem exec_hitchRspTimeout (tag : Nat) : exec (.hitchRspTimeout tag) s = execHitchRspTimeout tag s := rfl
@[simp] theorem exec_knotArrive (src tag : Nat) (body : List Byte) : exec (.knotArrive src tag body) s = execKnotArrive src tag body s := rfl
@[simp] theorem exec_knotRelease (src tag : Nat) (body : List Byte) : exec (.knotRelease src tag body) s = execKnotRelease src tag body s := rfl
@[simp] theorem exec_knotBreak (src tag : Nat) (body : List Byte) : exec (.knotBreak src tag body) s = execKnotBreak src tag body s := rfl
@[simp] theorem exec_knotNodeArrival (barrier node : Nat) : exec (.knotNodeArrival barrier node) s = execKnotNodeArrival barrier node s := rfl
@[simp] theorem exec_knotReleaseArrival (barrier node : Nat) : exec (.knotReleaseArrival barrier node) s = execKnotReleaseArrival barrier node s := rfl
@[simp] theorem exec_relocBcast (src tag : Nat) (body : List Byte) : exec (.relocBcast src tag body) s = execRelocBcast src tag body s := rfl
@[simp] theorem exec_relocQuery (src tag : Nat) (body : List Byte) : exec (.relocQuery src tag body) s = execRelocQuery src tag body s := rfl
@[simp] theorem exec_rowStream (src tag : Nat) (body : List Byte) : exec (.rowStream src tag body) s = execRowStream src tag body s := rfl
@[simp] theorem exec_rowStreamAck (src tag : Nat) (body : List Byte) : exec (.rowStreamAck src tag body) s = execRowStreamAck src tag body s := rfl
@[simp] theorem exec_returnedRelease (hitch : Nat) : exec (.returnedRelease hitch) s = execReturnedRelease hitch s := rfl
@[simp] theorem exec_ticketWithdraw : exec (.ticketWithdraw) s = execTicketWithdraw s := rfl
@[simp] theorem exec_hitClear (k hitch : Nat) : exec (.hitClear k hitch) s = execHitClear k hitch s := rfl
@[simp] theorem exec_barrierDefine (k barrier : Nat) (entry : List Byte) : exec (.barrierDefine k barrier entry) s = execBarrierDefine k barrier entry s := rfl
@[simp] theorem exec_layerPush : exec (.layerPush) s = execLayerPush s := rfl
@[simp] theorem exec_ringDrain : exec (.ringDrain) s = execRingDrain s := rfl
@[simp] theorem exec_gradientLayer (src tag : Nat) (body : List Byte) : exec (.gradientLayer src tag body) s = execGradientLayer src tag body s := rfl
@[simp] theorem exec_gradientRows (src tag : Nat) (body : List Byte) : exec (.gradientRows src tag body) s = execGradientRows src tag body s := rfl
@[simp] theorem exec_gradientDone (src tag : Nat) (body : List Byte) : exec (.gradientDone src tag body) s = execGradientDone src tag body s := rfl
@[simp] theorem exec_layerStepTimeout (layer : Nat) : exec (.layerStepTimeout layer) s = execLayerStepTimeout layer s := rfl
@[simp] theorem exec_rowTickTimeout (table : Nat) : exec (.rowTickTimeout table) s = execRowTickTimeout table s := rfl
@[simp] theorem exec_stagingRetry : exec (.stagingRetry) s = execStagingRetry s := rfl
@[simp] theorem exec_sliceScatter (layer : Nat) : exec (.sliceScatter layer) s = execSliceScatter layer s := rfl
@[simp] theorem exec_rootRefreshDone (layer : Nat) : exec (.rootRefreshDone layer) s = execRootRefreshDone layer s := rfl
@[simp] theorem exec_sliceData (src tag : Nat) (body : List Byte) : exec (.sliceData src tag body) s = execSliceData src tag body s := rfl
@[simp] theorem exec_sliceEnd (src tag : Nat) (body : List Byte) : exec (.sliceEnd src tag body) s = execSliceEnd src tag body s := rfl
@[simp] theorem exec_slicePull (src tag : Nat) (body : List Byte) : exec (.slicePull src tag body) s = execSlicePull src tag body s := rfl
@[simp] theorem exec_coreCheck (core check : Nat) : exec (.coreCheck core check) s = execCoreCheck core check s := rfl
@[simp] theorem exec_coreHeartbeat (core : Nat) : exec (.coreHeartbeat core) s = execCoreHeartbeat core s := rfl
@[simp] theorem exec_ctrlCoreFault (k cause : Nat) : exec (.ctrlCoreFault k cause) s = execCtrlCoreFault k cause s := rfl
@[simp] theorem exec_dieTimeout (die : Nat) : exec (.dieTimeout die) s = execDieTimeout die s := rfl
@[simp] theorem exec_dieRestart (die : Nat) : exec (.dieRestart die) s = execDieRestart die s := rfl
@[simp] theorem exec_controlStall : exec (.controlStall) s = execControlStall s := rfl
@[simp] theorem exec_deviceWatchdog : exec (.deviceWatchdog) s = execDeviceWatchdog s := rfl
@[simp] theorem exec_keeperWatchdog : exec (.keeperWatchdog) s = execKeeperWatchdog s := rfl
@[simp] theorem exec_faultReport (kind cls action subject reporter : Nat) (ack : Bool) (detail : Nat) : exec (.faultReport kind cls action subject reporter ack detail) s = execFaultReport kind cls action subject reporter ack detail s := rfl
@[simp] theorem exec_unitRecoveryDone (unit : Nat) : exec (.unitRecoveryDone unit) s = execUnitRecoveryDone unit s := rfl
@[simp] theorem exec_fltAck (seq : Nat) : exec (.fltAck seq) s = execFltAck seq s := rfl
@[simp] theorem exec_grey (source unit : Nat) : exec (.grey source unit) s = execGrey source unit s := rfl
@[simp] theorem exec_releaseForce (source unit : Nat) : exec (.releaseForce source unit) s = execReleaseForce source unit s := rfl
@[simp] theorem exec_confirm (source unit : Nat) : exec (.confirm source unit) s = execConfirm source unit s := rfl
@[simp] theorem exec_requestNotReady (req : Nat) : exec (.requestNotReady req) s = execRequestNotReady req s := rfl
@[simp] theorem exec_unitBringupReport (unit : Nat) (state : UnitReport) : exec (.unitBringupReport unit state) s = execUnitBringupReport unit state s := rfl
@[simp] theorem exec_coreMapAssign (die : Nat) : exec (.coreMapAssign die) s = execCoreMapAssign die s := rfl
@[simp] theorem exec_pwrgoodRise (gpio : Nat) : exec (.pwrgoodRise gpio) s = execPwrgoodRise gpio s := rfl
@[simp] theorem exec_pwrgoodFall : exec (.pwrgoodFall) s = execPwrgoodFall s := rfl
@[simp] theorem exec_perstNAssert (cause : Nat) : exec (.perstNAssert cause) s = execPerstNAssert cause s := rfl
@[simp] theorem exec_perstNDeassert : exec (.perstNDeassert) s = execPerstNDeassert s := rfl
@[simp] theorem exec_configSpaceLoaded : exec (.configSpaceLoaded) s = execConfigSpaceLoaded s := rfl
@[simp] theorem exec_bootRestart (value : Nat) : exec (.bootRestart value) s = execBootRestart value s := rfl
@[simp] theorem exec_keeperImagePass (slot : Nat) (object : List Byte) : exec (.keeperImagePass slot object) s = execKeeperImagePass slot object s := rfl
@[simp] theorem exec_configImagePass (slot : Nat) (object : List Byte) : exec (.configImagePass slot object) s = execConfigImagePass slot object s := rfl
@[simp] theorem exec_firmwarePass (control service : List Byte) : exec (.firmwarePass control service) s = execFirmwarePass control service s := rfl
@[simp] theorem exec_imageRejected (slot kind : Nat) : exec (.imageRejected slot kind) s = execImageRejected slot kind s := rfl
@[simp] theorem exec_bootFwReady (k : Nat) : exec (.bootFwReady k) s = execBootFwReady k s := rfl
@[simp] theorem exec_stagedImageVerified (comp : Nat) (pass : Bool) : exec (.stagedImageVerified comp pass) s = execStagedImageVerified comp pass s := rfl
@[simp] theorem exec_keeperRestart (staged : Bool) : exec (.keeperRestart staged) s = execKeeperRestart staged s := rfl
@[simp] theorem exec_nonceExpiry : exec (.nonceExpiry) s = execNonceExpiry s := rfl
@[simp] theorem exec_unlockExpiry : exec (.unlockExpiry) s = execUnlockExpiry s := rfl
@[simp] theorem exec_serclkLoss : exec (.serclkLoss) s = execSerclkLoss s := rfl
@[simp] theorem exec_clockLoss : exec (.clockLoss) s = execClockLoss s := rfl
@[simp] theorem exec_serclkReturn : exec (.serclkReturn) s = execSerclkReturn s := rfl
@[simp] theorem exec_dieOvertemp (die temp : Nat) : exec (.dieOvertemp die temp) s = execDieOvertemp die temp s := rfl
@[simp] theorem exec_dieCooled (die temp : Nat) : exec (.dieCooled die temp) s = execDieCooled die temp s := rfl
@[simp] theorem exec_thermtrip : exec (.thermtrip) s = execThermtrip s := rfl
@[simp] theorem exec_requestFetch (queue : Nat) : exec (.requestFetch queue) s = execRequestFetch queue s := rfl
@[simp] theorem exec_rqTail (queue : Nat) (value : Nat) : exec (.rqTail queue value) s = execRqTail queue value s := rfl
@[simp] theorem exec_cqHead (queue : Nat) (value : Nat) : exec (.cqHead queue value) s = execCqHead queue value s := rfl
@[simp] theorem exec_tblRegister (req : Nat) : exec (.tblRegister req) s = execTblRegister req s := rfl
@[simp] theorem exec_tblOpen (req : Nat) : exec (.tblOpen req) s = execTblOpen req s := rfl
@[simp] theorem exec_tblOpenDone (req : Nat) : exec (.tblOpenDone req) s = execTblOpenDone req s := rfl
@[simp] theorem exec_tblWrite (req : Nat) : exec (.tblWrite req) s = execTblWrite req s := rfl
@[simp] theorem exec_tblSeal (req : Nat) : exec (.tblSeal req) s = execTblSeal req s := rfl
@[simp] theorem exec_tblAbandon (req : Nat) : exec (.tblAbandon req) s = execTblAbandon req s := rfl
@[simp] theorem exec_tblRetire (req : Nat) : exec (.tblRetire req) s = execTblRetire req s := rfl
@[simp] theorem exec_tblFreeze (req : Nat) : exec (.tblFreeze req) s = execTblFreeze req s := rfl
@[simp] theorem exec_tblReload (req : Nat) : exec (.tblReload req) s = execTblReload req s := rfl
@[simp] theorem exec_plcPin (req : Nat) : exec (.plcPin req) s = execPlcPin req s := rfl
@[simp] theorem exec_plcUnpin (req : Nat) : exec (.plcUnpin req) s = execPlcUnpin req s := rfl
@[simp] theorem exec_plcHubAdd (req : Nat) : exec (.plcHubAdd req) s = execPlcHubAdd req s := rfl
@[simp] theorem exec_plcHubDrop (req : Nat) : exec (.plcHubDrop req) s = execPlcHubDrop req s := rfl
@[simp] theorem exec_lyrRegister (req : Nat) : exec (.lyrRegister req) s = execLyrRegister req s := rfl
@[simp] theorem exec_lyrLoad (req : Nat) : exec (.lyrLoad req) s = execLyrLoad req s := rfl
@[simp] theorem exec_lyrFreeze (req : Nat) : exec (.lyrFreeze req) s = execLyrFreeze req s := rfl
@[simp] theorem exec_lyrRetire (req : Nat) : exec (.lyrRetire req) s = execLyrRetire req s := rfl
@[simp] theorem exec_lyrParams (req : Nat) : exec (.lyrParams req) s = execLyrParams req s := rfl
@[simp] theorem exec_tblRule (req : Nat) : exec (.tblRule req) s = execTblRule req s := rfl
@[simp] theorem exec_pipeRegister (req : Nat) : exec (.pipeRegister req) s = execPipeRegister req s := rfl
@[simp] theorem exec_pipeUnregister (req : Nat) : exec (.pipeUnregister req) s = execPipeUnregister req s := rfl
@[simp] theorem exec_instantiate (req : Nat) : exec (.instantiate req) s = execInstantiate req s := rfl
@[simp] theorem exec_hostAbort (req : Nat) : exec (.hostAbort req) s = execHostAbort req s := rfl
@[simp] theorem exec_finalRecordArrival (req : Nat) : exec (.finalRecordArrival req) s = execFinalRecordArrival req s := rfl
@[simp] theorem exec_resultDmaDone (req : Nat) : exec (.resultDmaDone req) s = execResultDmaDone req s := rfl
@[simp] theorem exec_completionGrant (req : Nat) : exec (.completionGrant req) s = execCompletionGrant req s := rfl
@[simp] theorem exec_deadline (req : Nat) : exec (.deadline req) s = execDeadline req s := rfl
@[simp] theorem exec_coalesceTimer (queue : Nat) : exec (.coalesceTimer queue) s = execCoalesceTimer queue s := rfl
@[simp] theorem exec_hostTimeout (queue req : Nat) : exec (.hostTimeout queue req) s = execHostTimeout queue req s := rfl
@[simp] theorem exec_enable (queue : Nat) : exec (.enable queue) s = execEnable queue s := rfl
@[simp] theorem exec_disable (queue : Nat) : exec (.disable queue) s = execDisable queue s := rfl
@[simp] theorem exec_resume (queue : Nat) : exec (.resume queue) s = execResume queue s := rfl
@[simp] theorem exec_bar2Read (off len : Nat) : exec (.bar2Read off len) s = execBar2Read off len s := rfl
@[simp] theorem exec_bar2Write (off : Nat) (data : List Byte) : exec (.bar2Write off data) s = execBar2Write off data s := rfl
@[simp] theorem exec_registerWrite (source addr len value : Nat) : exec (.registerWrite source addr len value) s = execRegisterWrite source addr len value s := rfl
@[simp] theorem exec_ideIntegrityFail : exec (.ideIntegrityFail) s = execIdeIntegrityFail s := rfl
@[simp] theorem exec_query (body : List Byte) : exec (.query body) s = execQuery body s := rfl
@[simp] theorem exec_keyProg (body : List Byte) : exec (.keyProg body) s = execKeyProg body s := rfl
@[simp] theorem exec_kSetGo (body : List Byte) : exec (.kSetGo body) s = execKSetGo body s := rfl
@[simp] theorem exec_kSetStop (body : List Byte) : exec (.kSetStop body) s = execKSetStop body s := rfl
@[simp] theorem exec_getVersion (body : List Byte) : exec (.getVersion body) s = execGetVersion body s := rfl
@[simp] theorem exec_getCapabilities (body : List Byte) : exec (.getCapabilities body) s = execGetCapabilities body s := rfl
@[simp] theorem exec_negotiateAlgorithms (body : List Byte) : exec (.negotiateAlgorithms body) s = execNegotiateAlgorithms body s := rfl
@[simp] theorem exec_getDigests (body : List Byte) : exec (.getDigests body) s = execGetDigests body s := rfl
@[simp] theorem exec_getCertificate (body : List Byte) : exec (.getCertificate body) s = execGetCertificate body s := rfl
@[simp] theorem exec_challenge (body : List Byte) : exec (.challenge body) s = execChallenge body s := rfl
@[simp] theorem exec_getMeasurements (body : List Byte) : exec (.getMeasurements body) s = execGetMeasurements body s := rfl
@[simp] theorem exec_spdmUnsupported (body : List Byte) : exec (.spdmUnsupported body) s = execSpdmUnsupported body s := rfl
@[simp] theorem exec_directRead (off len : Nat) : exec (.directRead off len) s = execDirectRead off len s := rfl
@[simp] theorem exec_directRdyCmd (body : List Byte) : exec (.directRdyCmd body) s = execDirectRdyCmd body s := rfl
@[simp] theorem exec_entdaa (addr : Nat) : exec (.entdaa addr) s = execEntdaa addr s := rfl
@[simp] theorem exec_rstdaa : exec (.rstdaa) s = execRstdaa s := rfl
@[simp] theorem exec_setEndpointId (body : List Byte) : exec (.setEndpointId body) s = execSetEndpointId body s := rfl
@[simp] theorem exec_getEndpointId (body : List Byte) : exec (.getEndpointId body) s = execGetEndpointId body s := rfl
@[simp] theorem exec_getEndpointUuid (body : List Byte) : exec (.getEndpointUuid body) s = execGetEndpointUuid body s := rfl
@[simp] theorem exec_getMctpVersionSupport (body : List Byte) : exec (.getMctpVersionSupport body) s = execGetMctpVersionSupport body s := rfl
@[simp] theorem exec_getMessageTypeSupport (body : List Byte) : exec (.getMessageTypeSupport body) s = execGetMessageTypeSupport body s := rfl
@[simp] theorem exec_read (body : List Byte) : exec (.read body) s = execRead body s := rfl
@[simp] theorem exec_force (body : List Byte) : exec (.force body) s = execForce body s := rfl
@[simp] theorem exec_alertMask (body : List Byte) : exec (.alertMask body) s = execAlertMask body s := rfl
@[simp] theorem exec_nonce (body : List Byte) : exec (.nonce body) s = execNonce body s := rfl
@[simp] theorem exec_token (body : List Byte) : exec (.token body) s = execToken body s := rfl
@[simp] theorem exec_relock (body : List Byte) : exec (.relock body) s = execRelock body s := rfl
@[simp] theorem exec_gettid (body : List Byte) : exec (.gettid body) s = execGettid body s := rfl
@[simp] theorem exec_getpldmversion (body : List Byte) : exec (.getpldmversion body) s = execGetpldmversion body s := rfl
@[simp] theorem exec_getpldmtypes (body : List Byte) : exec (.getpldmtypes body) s = execGetpldmtypes body s := rfl
@[simp] theorem exec_getpldmcommands (body : List Byte) : exec (.getpldmcommands body) s = execGetpldmcommands body s := rfl
@[simp] theorem exec_getpdrrepositoryinfo (body : List Byte) : exec (.getpdrrepositoryinfo body) s = execGetpdrrepositoryinfo body s := rfl
@[simp] theorem exec_getpdr (body : List Byte) : exec (.getpdr body) s = execGetpdr body s := rfl
@[simp] theorem exec_getsensorreading (body : List Byte) : exec (.getsensorreading body) s = execGetsensorreading body s := rfl
@[simp] theorem exec_getstatesensorreadings (body : List Byte) : exec (.getstatesensorreadings body) s = execGetstatesensorreadings body s := rfl
@[simp] theorem exec_requestupdate (body : List Byte) : exec (.requestupdate body) s = execRequestupdate body s := rfl
@[simp] theorem exec_updatecomponent (body : List Byte) : exec (.updatecomponent body) s = execUpdatecomponent body s := rfl
@[simp] theorem exec_verifycomplete (body : List Byte) : exec (.verifycomplete body) s = execVerifycomplete body s := rfl
@[simp] theorem exec_activatefirmware (body : List Byte) : exec (.activatefirmware body) s = execActivatefirmware body s := rfl
@[simp] theorem exec_cancelupdatecomponent (body : List Byte) : exec (.cancelupdatecomponent body) s = execCancelupdatecomponent body s := rfl
@[simp] theorem exec_cancelupdate (body : List Byte) : exec (.cancelupdate body) s = execCancelupdate body s := rfl
@[simp] theorem exec_configSpaceWrite (field value : Nat) : exec (.configSpaceWrite field value) s = execConfigSpaceWrite field value s := rfl
@[simp] theorem exec_remapCopyDone (chan row : Nat) : exec (.remapCopyDone chan row) s = execRemapCopyDone chan row s := rfl
@[simp] theorem exec_tblWriteDone (req : Nat) : exec (.tblWriteDone req) s = execTblWriteDone req s := rfl
@[simp] theorem exec_lyrLoadDone (req : Nat) : exec (.lyrLoadDone req) s = execLyrLoadDone req s := rfl
@[simp] theorem exec_componentDataTransfer (body : List Byte) : exec (.componentDataTransfer body) s = execComponentDataTransfer body s := rfl
@[simp] theorem exec_doeDiscovery (body : List Byte) : exec (.doeDiscovery body) s = execDoeDiscovery body s := rfl

/-- A step takes the command at the front of the queue. -/
theorem step_front {s : State} {c : Instr} {r : List Instr} (h : s.pending = c :: r) : step s = exec c { s with pending := r } := by
  unfold step
  rw [h]

/-- A step on an empty queue idles. -/
theorem step_idle {s : State} (h : s.pending = []) : step s = .next (idle s) := by
  unfold step
  rw [h]

end Sys2Proof.Machine
end

