-- ==== Sys2Proof/Laws/Maps.lean ====
section
/-! SUPPORT. The laws of sparse maps: reading after setting, and the canonical form. -/

namespace Sys2Proof.Machine

variable {α : Type}

/-- A key below every key of a canonical map reads its default. -/
theorem mget_below [DecidableEq α] {d : Nat → α} {m : List (Nat × α)} {lo k : Nat} (h : mwfFrom d lo m = true) (hk : k < lo) : mget d m k = d k := by
  induction m generalizing lo with
  | nil => rfl
  | cons e r ih =>
    obtain ⟨j, w⟩ := e
    simp only [mwfFrom, Bool.and_eq_true, decide_eq_true_eq] at h
    have hne : k ≠ j := by omega
    simp only [mget, hne, if_false]
    exact ih h.2 (by omega)

/-- Read after set at the same key. -/
theorem mget_mset_self [DecidableEq α] {d : Nat → α} {m : List (Nat × α)} (h : mwf d m = true) (k : Nat) (v : α) : mget d (mset d m k v) k = v := by
  unfold mwf at h
  generalize 0 = lo at h
  induction m generalizing lo with
  | nil => by_cases hv : v = d k <;> simp [mset, mget, hv]
  | cons e r ih =>
    obtain ⟨j, w⟩ := e
    simp only [mwfFrom, Bool.and_eq_true, decide_eq_true_eq] at h
    unfold mset
    split
    · split
      · have hne : k ≠ j := by omega
        simp only [mget, hne, if_false, *]
        exact mget_below h.2 (by omega)
      · simp [mget]
    · split
      · split
        · rename_i h1 h2 h3
          subst h2
          rw [mget_below h.2 (by omega), h3]
        · rename_i h2 _
          simp [mget, h2]
      · rename_i h1 h2
        simp only [mget, h2, if_false]
        exact ih _ h.2

/-- Setting one key leaves every other key as it was. -/
theorem mget_mset_ne [DecidableEq α] {d : Nat → α} {m : List (Nat × α)} {k j : Nat} (v : α) (h : j ≠ k) : mget d (mset d m k v) j = mget d m j := by
  induction m with
  | nil => by_cases hv : v = d k <;> simp [mset, mget, hv, h]
  | cons e r ih =>
    obtain ⟨i, w⟩ := e
    unfold mset
    split
    · split
      · rfl
      · simp [mget, h]
    · split
      · rename_i h2
        subst h2
        split <;> simp [mget, h]
      · simp only [mget, ih]

/-- Setting a key at or above a bound keeps the canonical form from that bound on. -/
theorem mwfFrom_mset [DecidableEq α] {d : Nat → α} {m : List (Nat × α)} {lo k : Nat} (v : α) (h : mwfFrom d lo m = true) (hk : lo ≤ k) :
    mwfFrom d lo (mset d m k v) = true := by
  induction m generalizing lo with
  | nil =>
    unfold mset
    split <;> simp_all [mwfFrom]
  | cons e r ih =>
    obtain ⟨j, w⟩ := e
    simp only [mwfFrom, Bool.and_eq_true, decide_eq_true_eq] at h
    obtain ⟨⟨h1, h2⟩, h3⟩ := h
    have weaken : ∀ {lo lo' : Nat} {l : List (Nat × α)}, lo' ≤ lo → mwfFrom d lo l = true → mwfFrom d lo' l = true := by
      intro lo lo' l hl hw
      cases l with
      | nil => rfl
      | cons x y => simp only [mwfFrom, Bool.and_eq_true, decide_eq_true_eq] at hw ⊢; exact ⟨⟨by omega, hw.1.2⟩, hw.2⟩
    unfold mset
    split
    · split
      · simp_all [mwfFrom]
      · rename_i h4 h5
        simp only [mwfFrom, Bool.and_eq_true, decide_eq_true_eq]
        exact ⟨⟨hk, h5⟩, ⟨⟨by omega, h2⟩, h3⟩⟩
    · split
      · split
        · exact weaken (by omega) h3
        · rename_i h4 h5 h6
          subst h5
          simp only [mwfFrom, Bool.and_eq_true, decide_eq_true_eq]
          exact ⟨⟨hk, h6⟩, h3⟩
      · simp only [mwfFrom, Bool.and_eq_true, decide_eq_true_eq]
        exact ⟨⟨h1, h2⟩, ih h3 (by omega)⟩

/-- Setting a key keeps the canonical form. -/
theorem mwf_mset [DecidableEq α] {d : Nat → α} {m : List (Nat × α)} (k : Nat) (v : α) (h : mwf d m = true) : mwf d (mset d m k v) = true :=
  mwfFrom_mset v h (Nat.zero_le k)

/-- The canonical form from a bound holds from every lower bound. -/
theorem mwfFrom_mono [DecidableEq α] {d : Nat → α} {m : List (Nat × α)} {lo lo' : Nat} (hl : lo' ≤ lo) (h : mwfFrom d lo m = true) :
    mwfFrom d lo' m = true := by
  cases m with
  | nil => rfl
  | cons x y => simp only [mwfFrom, Bool.and_eq_true, decide_eq_true_eq] at h ⊢; exact ⟨⟨by omega, h.1.2⟩, h.2⟩

/-- Changing values in place and dropping entries, among them all that became defaults, keeps the canonical form. -/
theorem mwf_map_filter [DecidableEq α] {d : Nat → α} {m : List (Nat × α)} (f : Nat × α → α) (p : Nat × α → Bool)
    (hp : ∀ e, p e = true → e.2 ≠ d e.1) (h : mwf d m = true) : mwf d ((m.map fun e => (e.1, f e)).filter p) = true := by
  unfold mwf at h ⊢
  generalize 0 = lo at h ⊢
  induction m generalizing lo with
  | nil => rfl
  | cons e r ih =>
    obtain ⟨j, w⟩ := e
    simp only [mwfFrom, Bool.and_eq_true, decide_eq_true_eq] at h
    rw [List.map_cons, List.filter_cons]
    split
    · rename_i hq
      simp only [mwfFrom, Bool.and_eq_true, decide_eq_true_eq]
      exact ⟨⟨h.1.1, hp _ hq⟩, ih _ h.2⟩
    · exact mwfFrom_mono (by omega) (ih _ h.2)

/-- Dropping entries keeps the canonical form. -/
theorem mwf_filter [DecidableEq α] {d : Nat → α} {m : List (Nat × α)} (p : Nat × α → Bool) (h : mwf d m = true) : mwf d (m.filter p) = true := by
  unfold mwf at h ⊢
  generalize 0 = lo at h ⊢
  induction m generalizing lo with
  | nil => rfl
  | cons e r ih =>
    obtain ⟨j, w⟩ := e
    simp only [mwfFrom, Bool.and_eq_true, decide_eq_true_eq] at h
    rw [List.filter_cons]
    split
    · simp only [mwfFrom, Bool.and_eq_true, decide_eq_true_eq]
      exact ⟨h.1, ih _ h.2⟩
    · exact mwfFrom_mono (by omega) (ih _ h.2)

/-- The empty map is canonical. -/
@[simp] theorem mwf_nil [DecidableEq α] {d : Nat → α} : mwf d [] = true := rfl

/-- Put then find at the same key. -/
@[simp] theorem pfind_pput_self (m : List (Nat × α)) (k : Nat) (v : α) : pfind (pput m k v) k = some v := by
  induction m with
  | nil => simp [pput, pfind]
  | cons e r ih =>
    obtain ⟨j, w⟩ := e
    unfold pput
    split
    · simp [pfind]
    · split
      · simp [pfind]
      · rename_i h1 h2
        simp [pfind, h2, ih]

/-- Putting one key leaves every other key as it was. -/
theorem pfind_pput_ne {m : List (Nat × α)} {k j : Nat} (v : α) (h : j ≠ k) : pfind (pput m k v) j = pfind m j := by
  induction m with
  | nil => simp [pput, pfind, h]
  | cons e r ih =>
    obtain ⟨i, w⟩ := e
    unfold pput
    split
    · simp [pfind, h]
    · split
      · rename_i h2
        subst h2
        simp [pfind, h]
      · simp only [pfind, ih]

end Sys2Proof.Machine
end

