-- ==== Sys2Proof/Laws/Kept.lean ====
section
/-! SUPPORT. What every operation keeps: the queue of waiting commands, where the tick stands, and the canonical form of every map (`Kept`). One lemma per operation, by
the shape of its definition. -/

namespace Sys2Proof.Machine

/-- What an operation is held to: the queue of waiting commands, and where the tick stands. -/
structure Aim where
  queue : List Instr
  clock : Bool × Nat × Nat × Phase × Nat

/-- A state whose queue and tick are those of `Q` and whose maps are canonical. -/
structure Kept (Q : Aim) (s : State) : Prop where
  queue : s.pending = Q.queue
  clock : tickClock s = Q.clock
  canon : Canonical s

/-- An outcome that keeps the queue and the canonical form, and may move the tick. -/
structure KeptQ (L : List Instr) (o : Host.Outcome State Fault Refusal) : Prop where
  out : ∃ t C, o = .next t ∧ Kept ⟨L, C⟩ t

/-- An outcome that is a next state with `Kept`. -/
structure KeptO (Q : Aim) (o : Host.Outcome State Fault Refusal) : Prop where
  out : ∃ t, o = .next t ∧ Kept Q t
/-- `Kept` of the state in a pair. -/
structure KeptR {α : Type} (Q : Aim) (p : α × State) : Prop where
  out : Kept Q p.2
/-- `Kept` of the state in a triple. -/
structure KeptT {α β : Type} (Q : Aim) (p : α × β × State) : Prop where
  out : Kept Q p.2.2
/-- `Kept` of the state in a quadruple. -/
structure KeptU {α β γ : Type} (Q : Aim) (p : α × β × γ × State) : Prop where
  out : Kept Q p.2.2.2
/-- `Kept` of the state that leads a pair. -/
structure KeptL {α : Type} (Q : Aim) (p : State × α) : Prop where
  out : Kept Q p.1
/-- `Kept` of the state there may be. -/
structure KeptOS (Q : Aim) (o : Option State) : Prop where
  out : ∀ t, o = some t → Kept Q t
/-- `Kept` of the state in the pair there may be. -/
structure KeptOR {α : Type} (Q : Aim) (o : Option (α × State)) : Prop where
  out : ∀ a t, o = some (a, t) → Kept Q t
/-- `Kept` of a state or an error. -/
structure KeptE {ε : Type} (Q : Aim) (o : Except ε State) : Prop where
  out : ∀ t, o = .ok t → Kept Q t

variable {Q : Aim} {s t : State} {α β γ ε : Type}

theorem kept_cut {x : State} {P : Prop} (h1 : Kept Q x) (h2 : Kept Q x → P) : P := h2 h1
/-- A record update that leaves every map alone. -/
theorem kept_mk {a1 a2 a6 a9 a12 a15 a16 a18 a19 t1 t2 t3 t4 t5 t6 t7 t8 t9 t10 t11 t12 t13 t14 t15 t16 t17 t18 b1 b2 b3 b4 c1 c2 c3 c4 c5 c6 d1 d2 d3 d4 d5 d6 d7
    d8 d9 d10 d11 d12 d13 d14 d15 e1 e2 e3 e4 e5 e6 e7 e8 e9 f1 f2 f3 f4 f5 f6 f7 f8 f9 f10 f11 f12 r1 r2 r3 r4 r5 r6
    r7 r8 r9 r10 r11 r12 r13 r14 r15 r16 r17 r18} (h : Kept Q s) :
    Kept Q ⟨s.pending, a1, a2, s.csr, s.mem, s.gens, s.hostMem, s.rdy, a6,
      ⟨s.tsq.running, r1, s.tsq.tick, s.tsq.tickStart, s.tsq.phase, r2, r3, r4, r5, r6, r7, s.tsq.stage, r8, r9, r10, r11, r12, r13, r14, r15, r16, r17, r18⟩,
      ⟨t1, t2, t3, t4, t5, t6, t7, t8, t9, t10, t11, s.tim.ports, t12, t13, t14, t15, t16, t17, t18⟩, s.harts, s.ctrls, s.cores, a9,
      ⟨s.hit.hitches, b1, b2, s.hit.barriers, b3, b4⟩, s.chans, ⟨s.emb.tables, c1, c2, c3, c4, c5, c6⟩, a12,
      ⟨s.hws.ports, d1, d2, d3, d4, d5, d6, d7, d8, d9, d10, d11, d12, d13, d14, d15⟩, ⟨s.upd.layers, e1, e2, e3, e4, e5, e6, e7, e8, e9⟩, a15, a16,
      ⟨s.pci.queues, f1, f2, f3, f4, f5, f6, f7, f8, f9, f10, f11, f12⟩, a18, a19⟩ :=
  ⟨h.queue, h.clock, { h.canon with }⟩
theorem kept_ite {c : Prop} [Decidable c] {a b : State} (ha : Kept Q a) (hb : Kept Q b) : Kept Q (if c then a else b) := by split <;> assumption
theorem kept_iteO {c : Prop} [Decidable c] {a b : Host.Outcome State Fault Refusal} (ha : KeptO Q a) (hb : KeptO Q b) :
    KeptO Q (if c then a else b) := by split <;> assumption
theorem kept_iteR {c : Prop} [Decidable c] {a b : α × State} (ha : KeptR Q a) (hb : KeptR Q b) : KeptR Q (if c then a else b) := by
  split <;> assumption
/-- A change of the tick sequencer that leaves alone where the tick stands. -/
theorem kept_tsqMap {f : TsqUnit → TsqUnit} (h : Kept Q s)
    (hf : ((f s.tsq).running, (f s.tsq).tick, (f s.tsq).tickStart, (f s.tsq).phase, (f s.tsq).stage) = (s.tsq.running, s.tsq.tick, s.tsq.tickStart, s.tsq.phase, s.tsq.stage)) :
    Kept Q (tsqMap s f) :=
  ⟨h.queue, hf.trans h.clock, { h.canon with }⟩
/-- A change of the tick sequencer that moves the tick. -/
theorem kept_tsqTo {f : TsqUnit → TsqUnit} (h : Kept Q s) : Kept ⟨Q.queue, tickClock (tsqMap s f)⟩ (tsqMap s f) := ⟨h.queue, rfl, { h.canon with }⟩
theorem keptO_keptQ {o : Host.Outcome State Fault Refusal} (h : KeptO Q o) : KeptQ Q.queue o := by
  obtain ⟨t, e, k⟩ := h.out
  exact ⟨⟨t, _, e, k⟩⟩
theorem keptQ_to {L : List Instr} {C} (h : Kept ⟨L, C⟩ s) : KeptQ L (.next s) := ⟨⟨s, C, rfl, h⟩⟩
theorem keptQ_next (h : Kept Q s) : KeptQ Q.queue (.next s) := ⟨⟨s, _, rfl, h⟩⟩
theorem kept_next (h : Kept Q s) : KeptO Q (.next s) := ⟨⟨s, rfl, h⟩⟩
theorem kept_pair {a : α} (h : Kept Q s) : KeptR Q (a, s) := ⟨h⟩
theorem kept_triple {a : α} {b : β} (h : Kept Q s) : KeptT Q (a, b, s) := ⟨h⟩
theorem kept_quad {a : α} {b : β} {c : γ} (h : Kept Q s) : KeptU Q (a, b, c, s) := ⟨h⟩
theorem kept_left {a : α} (h : Kept Q s) : KeptL Q (s, a) := ⟨h⟩
theorem kept_some (h : Kept Q s) : KeptOS Q (some s) := ⟨fun t e => by cases e; exact h⟩
theorem kept_none : KeptOS Q none := ⟨fun t e => by cases e⟩
theorem kept_somePair {a : α} (h : Kept Q s) : KeptOR Q (some (a, s)) := ⟨fun _ _ e => by cases e; exact h⟩
theorem kept_nonePair : KeptOR Q (none : Option (α × State)) := ⟨fun _ _ e => by cases e⟩
theorem kept_iteOR {c : Prop} [Decidable c] {a b : Option (α × State)} (ha : KeptOR Q a) (hb : KeptOR Q b) :
    KeptOR Q (if c then a else b) := by split <;> assumption
theorem kept_iteT {c : Prop} [Decidable c] {a b : α × β × State} (ha : KeptT Q a) (hb : KeptT Q b) : KeptT Q (if c then a else b) := by
  split <;> assumption
theorem kept_optMap {o : Option β} {f : β → α × State} (h : ∀ x, o = some x → KeptR Q (f x)) : KeptOR Q (o.map f) := by
  cases o with
  | none => exact kept_nonePair
  | some x => exact ⟨fun a t e => by
      have := (h x rfl).out
      simp only [Option.map_some, Option.some.injEq] at e
      rw [e] at this; exact this⟩
theorem kept_ok (h : Kept Q s) : KeptE Q (.ok s : Except ε State) := ⟨fun t e => by cases e; exact h⟩
theorem kept_error {e : ε} : KeptE Q (.error e : Except ε State) := ⟨fun t e => by cases e⟩
theorem kept_snd {p : α × State} (h : KeptR Q p) : Kept Q p.2 := h.out
theorem kept_trd {p : α × β × State} (h : KeptT Q p) : Kept Q p.2.2 := h.out
theorem kept_fth {p : α × β × γ × State} (h : KeptU Q p) : Kept Q p.2.2.2 := h.out
theorem kept_fst {p : State × α} (h : KeptL Q p) : Kept Q p.1 := h.out
theorem kept_ofR {p : α × State} {a : α} (h : KeptR Q p) (e : p = (a, t)) : Kept Q t := by subst e; exact h.out
theorem kept_ofT {p : α × β × State} {a : α} {b : β} (h : KeptT Q p) (e : p = (a, b, t)) : Kept Q t := by subst e; exact h.out
theorem kept_ofU {p : α × β × γ × State} {a : α} {b : β} {c : γ} (h : KeptU Q p) (e : p = (a, b, c, t)) : Kept Q t := by subst e; exact h.out
theorem kept_ofL {p : State × α} {a : α} (h : KeptL Q p) (e : p = (t, a)) : Kept Q t := by subst e; exact h.out
theorem kept_ofOS {p : Option State} (h : KeptOS Q p) (e : p = some t) : Kept Q t := h.out t e
theorem kept_ofOR {p : Option (α × State)} {a : α} (h : KeptOR Q p) (e : p = some (a, t)) : Kept Q t := h.out a t e
theorem kept_ofE {p : Except ε State} (h : KeptE Q p) (e : p = .ok t) : Kept Q t := h.out t e
theorem kept_foldl {l : List α} {f : State → α → State} (h : Kept Q s) (hf : ∀ s x, Kept Q s → Kept Q (f s x)) : Kept Q (l.foldl f s) := by
  induction l generalizing s with
  | nil => exact h
  | cons x r ih => exact ih (hf _ _ h)
theorem kept_foldlR {l : List β} {f : α × State → β → α × State} {p : α × State} (h : KeptR Q p) (hf : ∀ p x, KeptR Q p → KeptR Q (f p x)) :
    KeptR Q (l.foldl f p) := by
  induction l generalizing p with
  | nil => exact h
  | cons x r ih => exact ih (hf _ _ h)

/-! ### The setters of the maps -/

theorem kept_rset {a v : Nat} (h : Kept Q s) : Kept Q (rset s a v) := ⟨h.queue, h.clock, { h.canon with csr := mwf_mset _ _ h.canon.csr }⟩
theorem kept_rdyPut {i : Nat} {e : RdyEntry} (h : Kept Q s) : Kept Q (rdyPut s i e) := ⟨h.queue, h.clock, { h.canon with rdy := mwf_mset _ _ h.canon.rdy }⟩
theorem kept_hartSet {n : Nat} {x : HartSt} (h : Kept Q s) : Kept Q (hartSet s n x) := ⟨h.queue, h.clock, { h.canon with harts := mwf_mset _ _ h.canon.harts }⟩
theorem kept_ctrlPut {n : Nat} {x : CtrlSt} (h : Kept Q s) : Kept Q (ctrlPut s n x) := ⟨h.queue, h.clock, { h.canon with ctrls := mwf_mset _ _ h.canon.ctrls }⟩
theorem kept_corePut {n : Nat} {x : CoreSt} (h : Kept Q s) : Kept Q (corePut s n x) := ⟨h.queue, h.clock, { h.canon with cores := mwf_mset _ _ h.canon.cores }⟩
theorem kept_chanPut {n : Nat} {x : Chan} (h : Kept Q s) : Kept Q (chanPut s n x) := ⟨h.queue, h.clock, { h.canon with chans := mwf_mset _ _ h.canon.chans }⟩
theorem kept_raiseGen {p : Nat} (h : Kept Q s) : Kept Q (raiseGen s p) := ⟨h.queue, h.clock, { h.canon with gens := mwf_mset _ _ h.canon.gens }⟩
theorem kept_hitchPut {n : Nat} {x : Hitch} (h : Kept Q s) : Kept Q (hitchPut s n x) :=
  ⟨h.queue, h.clock, { h.canon with hitches := mwf_mset _ _ h.canon.hitches }⟩
theorem kept_barPut {b : Nat} {x : Barrier} (h : Kept Q s) : Kept Q (barPut s b x) :=
  ⟨h.queue, h.clock, { h.canon with barriers := mwf_mset _ _ h.canon.barriers }⟩
theorem kept_portPut {p : Nat} {t : Port} (h : Kept Q s) : Kept Q (portPut s p t) :=
  ⟨h.queue, h.clock, { h.canon with ports := mwf_mset _ _ h.canon.ports }⟩
theorem kept_tablePut {t : Nat} {x : Table} (h : Kept Q s) : Kept Q (tablePut s t x) :=
  ⟨h.queue, h.clock, { h.canon with tables := mwf_mset _ _ h.canon.tables }⟩
theorem kept_layerPut {l : Nat} {x : Layer} (h : Kept Q s) : Kept Q (layerPut s l x) :=
  ⟨h.queue, h.clock, { h.canon with layers := mwf_mset _ _ h.canon.layers }⟩
theorem kept_queuePut {q : Nat} {x : QueuePair} (h : Kept Q s) : Kept Q (queuePut s q x) :=
  ⟨h.queue, h.clock, { h.canon with queues := mwf_mset _ _ h.canon.queues }⟩
theorem kept_ptpPut {p : Nat} {t : PtpPort} (h : Kept Q s) : Kept Q (ptpPut s p t) :=
  ⟨h.queue, h.clock, { h.canon with ptp := mwf_mset _ _ h.canon.ptp }⟩
/-- A change of the host interface that leaves its queue pairs alone. -/
theorem kept_pciMap {f : PciUnit → PciUnit} (h : Kept Q s) (hf : (f s.pci).queues = s.pci.queues) : Kept Q (pciMap s f) :=
  ⟨h.queue, h.clock, { h.canon with queues := by show mwf _ (f s.pci).queues = true; rw [hf]; exact h.canon.queues }⟩
/-- A change of the time unit that leaves its PTP ports alone. -/
theorem kept_timMap {f : TimUnit → TimUnit} (h : Kept Q s) (hf : (f s.tim).ports = s.tim.ports) : Kept Q (timMap s f) :=
  ⟨h.queue, h.clock, { h.canon with ptp := by show mwf _ (f s.tim).ports = true; rw [hf]; exact h.canon.ptp }⟩
/-- A change of the Rugon die that leaves its layers alone. -/
theorem kept_updMap {f : UpdUnit → UpdUnit} (h : Kept Q s) (hf : (f s.upd).layers = s.upd.layers) : Kept Q (updMap s f) :=
  ⟨h.queue, h.clock, { h.canon with layers := by show mwf _ (f s.upd).layers = true; rw [hf]; exact h.canon.layers }⟩
theorem kept_putBytes {a : Nat} {l : List Byte} (h : Kept Q s) : Kept Q (putBytes s a l) := by
  induction l generalizing s a with
  | nil => exact h
  | cons b r ih => exact ih ⟨h.queue, h.clock, { h.canon with mem := mwf_mset _ _ h.canon.mem }⟩
theorem kept_hostWrite {a : Nat} {l : List Byte} (h : Kept Q s) : Kept Q (hostWrite s a l) := by
  induction l generalizing s a with
  | nil => exact h
  | cons b r ih => exact ih ⟨h.queue, h.clock, { h.canon with hostMem := mwf_mset _ _ h.canon.hostMem }⟩

/-! ### Time -/

/-- Time passing touches the clock and the tick's counts of the scheduler alone (02 R48; 10 R408). -/
theorem advance_only (s : State) (t : Nat) :
    advance s t = { s with now := (advance s t).now, sch := (advance s t).sch } := by
  unfold advance
  split
  · rfl
  · extract_lets n ls s1
    have : s1 = { s with sch := s1.sch } := by
      show (if _ then _ else _) = _
      split
      · rename_i h1
        show s = { s with sch := s1.sch }
        have : s1 = s := if_pos h1
        rw [this]
      · rename_i h1
        have e : s1 = ls.foldl _ s := if_neg h1
        rw [e]
        have hf : ∀ (l : List Nat) (x : State) (f : State → Nat → State), (∀ x a, f x a = { x with sch := (f x a).sch }) →
            l.foldl f x = { x with sch := (l.foldl f x).sch } := by
          intro l
          induction l with
          | nil => intro x f _; rfl
          | cons a r ih =>
            intro x f hx
            rw [List.foldl_cons, ih _ _ hx, hx x a]
        exact hf _ _ _ fun x a => rfl
    rw [this]

end Sys2Proof.Machine
end

