-- ==== Sys2Proof/Laws/KeptOps.lean ====
section
/-! SUPPORT. What the operations of Ops keep (`Kept`). -/

namespace Sys2Proof.Machine

set_option linter.all false

variable {Q : Aim}

theorem kept_fset {s : State} {a hi lo v : Nat} (h_s : Kept Q s) : Kept Q (fset s a hi lo v) := by
  unfold fset; repeat' first | with_reducible assumption | with_reducible first | apply kept_rset

theorem kept_event {s : State} {a b : Nat} (h_s : Kept Q s) : Kept Q (event s a b) := by
  unfold event; repeat' first | with_reducible assumption | with_reducible first | apply kept_rset

theorem kept_bump {s : State} {a n : Nat} (h_s : Kept Q s) : Kept Q (bump s a n) := by
  unfold bump; repeat' first | with_reducible assumption | (extract_lets -underBinder +onlyGivenNames x; refine kept_cut (Q := Q) (x := x) ?_ ?_; subst x; rotate_left; intro hx; clear_value x) | extract_lets -underBinder +onlyGivenNames x | with_reducible first | apply kept_ite | apply kept_rset | apply kept_event | split

theorem kept_bump1 {s : State} {a : Nat} (h_s : Kept Q s) : Kept Q (bump1 s a) := by
  unfold bump1; repeat' first | with_reducible assumption | with_reducible first | apply kept_bump

theorem kept_resetRegs {s : State} {lo hi : Nat} {keep : Nat → Bool} (h_s : Kept Q s) : Kept Q (resetRegs s lo hi keep) :=
  ⟨h_s.queue, h_s.clock, { h_s.canon with csr := mwf_filter _ h_s.canon.csr }⟩


theorem kept_draw {s : State} (h_s : Kept Q s) : KeptR Q (draw s) := by
  unfold draw; repeat' first | with_reducible assumption | exact kept_mk (by with_reducible assumption) | with_reducible apply kept_pair

theorem kept_drawN {s : State} {k : Nat} (h_s : Kept Q s) : KeptR Q (drawN s k) := by
  unfold drawN; repeat' first | with_reducible assumption | exact kept_mk (by with_reducible assumption) | with_reducible apply kept_pair

theorem kept_powered {s : State} {o : Out} (h_s : Kept Q s) (h_o : KeptO Q o) : KeptO Q (powered s o) := kept_iteO h_o (kept_next h_s)


theorem kept_signal {s : State} {v : Nat} (h_s : Kept Q s) : Kept Q (signal s v) := by
  unfold signal; repeat' first | with_reducible assumption | with_reducible first | apply kept_ite | exact kept_mk (by with_reducible assumption) | split

theorem kept_rdyEvent {s : State} {b : Nat} (h_s : Kept Q s) : Kept Q (rdyEvent s b) := by
  unfold rdyEvent; repeat' first | with_reducible assumption | with_reducible first | apply kept_signal | apply kept_event

theorem kept_classSeen {s : State} {c : Nat} (h_s : Kept Q s) : Kept Q (classSeen s c) := by
  unfold classSeen; repeat' first | with_reducible assumption | (extract_lets -underBinder +onlyGivenNames x; refine kept_cut (Q := Q) (x := x) ?_ ?_; subst x; rotate_left; intro hx; clear_value x) | extract_lets -underBinder +onlyGivenNames x | with_reducible first | apply kept_ite | apply kept_event | apply kept_signal | (with_reducible apply kept_mk; first | with_reducible assumption | with_reducible first | apply kept_event | apply kept_signal) | split

theorem kept_unrecover {s : State} {i : Nat} (h_s : Kept Q s) : Kept Q (unrecover s i) := by
  unfold unrecover; repeat' first | with_reducible assumption | (intro y; beta_reduce) | (extract_lets -underBinder +onlyGivenNames x; refine kept_cut (Q := Q) (x := x) ?_ ?_; subst x; rotate_left; intro hx; clear_value x) | extract_lets -underBinder +onlyGivenNames x | with_reducible first | apply kept_ite | apply kept_foldl | apply kept_rdyPut | (with_reducible apply kept_mk; first | with_reducible assumption | with_reducible first | apply kept_rdyPut) | split

theorem kept_viewGrey {s : State} {key : Nat} (h_s : Kept Q s) : Kept Q (viewGrey s key) := by
  unfold viewGrey; repeat' first | with_reducible assumption | (intro y; beta_reduce) | exact kept_mk (by with_reducible assumption)

theorem kept_viewRecovered {s : State} {key : Nat} (h_s : Kept Q s) : Kept Q (viewRecovered s key) := by
  unfold viewRecovered; repeat' first | with_reducible assumption | (intro y; beta_reduce) | with_reducible first | apply kept_ite | exact kept_mk (by with_reducible assumption) | split

theorem kept_unrecoverView {s : State} {subject : Nat} (h_s : Kept Q s) : Kept Q (unrecoverView s subject) := by
  unfold unrecoverView; repeat' first | with_reducible assumption | split | with_reducible first | apply kept_ite | (intro y; beta_reduce) | (extract_lets -underBinder +onlyGivenNames x; refine kept_cut (Q := Q) (x := x) ?_ ?_; subst x; rotate_left; intro hx; clear_value x) | extract_lets -underBinder +onlyGivenNames x | exact kept_mk (by with_reducible assumption)

theorem kept_addRecord {s : State} {r : FaultRec} (h_s : Kept Q s) : KeptR Q (addRecord s r) := by
  unfold addRecord; repeat' first | with_reducible assumption | (extract_lets -underBinder +onlyGivenNames x; refine kept_cut (Q := Q) (x := x) ?_ ?_; subst x; rotate_left; intro hx; clear_value x) | extract_lets -underBinder +onlyGivenNames x | with_reducible first | apply kept_ite | apply kept_iteR | apply kept_rset | apply kept_classSeen | (with_reducible apply kept_mk; first | with_reducible assumption | with_reducible first | apply kept_rset | apply kept_classSeen) | split | with_reducible apply kept_pair

theorem kept_witness {s : State} {n : Nat} (h_s : Kept Q s) : Kept Q (witness s n) := by
  unfold witness; repeat' first | with_reducible assumption | (extract_lets -underBinder +onlyGivenNames x; refine kept_cut (Q := Q) (x := x) ?_ ?_; subst x; rotate_left; intro hx; clear_value x) | extract_lets -underBinder +onlyGivenNames x | with_reducible first | apply kept_ite | exact kept_mk (by with_reducible assumption) | split

theorem kept_joinOverflow {s : State} {c : Nat} {r : FaultRec} {counted : Bool} (h_s : Kept Q s) : KeptR Q (joinOverflow s c r counted) := by
  unfold joinOverflow; repeat' first | with_reducible assumption | (intro y; beta_reduce) | (extract_lets -underBinder +onlyGivenNames x; refine kept_cut (Q := Q) (x := x) ?_ ?_; subst x; rotate_left; intro hx; clear_value x) | extract_lets -underBinder +onlyGivenNames x | with_reducible first | apply kept_ite | apply kept_iteR | apply kept_bump1 | apply kept_witness | apply kept_addRecord | (with_reducible apply kept_mk; first | with_reducible assumption | refine kept_ofR ?_ (by assumption) | with_reducible first | apply kept_bump1 | apply kept_witness) | split | with_reducible apply kept_pair | refine kept_ofR ?_ (by assumption) | (apply kept_snd; with_reducible first | apply kept_addRecord)

theorem kept_file {s : State} {r : FaultRec} (h_s : Kept Q s) : KeptR Q (file s r) := by
  unfold file; repeat' first | with_reducible assumption | (intro y; beta_reduce) | (extract_lets -underBinder +onlyGivenNames x; refine kept_cut (Q := Q) (x := x) ?_ ?_; subst x; rotate_left; intro hx; clear_value x) | extract_lets -underBinder +onlyGivenNames x | with_reducible first | apply kept_ite | apply kept_iteR | apply kept_bump1 | apply kept_unrecover | apply kept_unrecoverView | apply kept_joinOverflow | apply kept_witness | apply kept_addRecord | (with_reducible apply kept_mk; first | with_reducible assumption | refine kept_ofR ?_ (by assumption) | with_reducible first | apply kept_bump1 | apply kept_unrecover | apply kept_unrecoverView | apply kept_witness) | split | with_reducible apply kept_pair | refine kept_ofR ?_ (by assumption) | (apply kept_snd; with_reducible first | apply kept_joinOverflow | apply kept_addRecord)

theorem kept_reportFull {s : State} {kind cls action subject reporter : Nat} {ack : Bool} {detail : Nat} (h_s : Kept Q s) : KeptR Q (reportFull s kind cls action subject reporter ack detail) := by
  unfold reportFull; repeat' first | with_reducible assumption | with_reducible first | apply kept_ite | apply kept_iteR | apply kept_file | split | with_reducible apply kept_pair | refine kept_ofR ?_ (by assumption) | (apply kept_snd; with_reducible first | apply kept_file)

theorem kept_report {s : State} {kind action subject detail : Nat} (h_s : Kept Q s) : Kept Q (report s kind action subject detail) := by
  unfold report; repeat' first | with_reducible assumption | with_reducible first | apply kept_reportFull | refine kept_ofR ?_ (by assumption) | apply kept_snd | (apply kept_snd; with_reducible first | apply kept_reportFull)

theorem kept_setUnit {s : State} {i : Nat} {st : UnitState} {reason : Nat} (h_s : Kept Q s) : Kept Q (setUnit s i st reason) := by
  unfold setUnit; repeat' first | with_reducible assumption | (extract_lets -underBinder +onlyGivenNames x; refine kept_cut (Q := Q) (x := x) ?_ ?_; subst x; rotate_left; intro hx; clear_value x) | extract_lets -underBinder +onlyGivenNames x | with_reducible first | apply kept_ite | apply kept_rdyPut | apply kept_rdyEvent | (with_reducible apply kept_mk; first | with_reducible assumption | with_reducible first | apply kept_rdyPut | apply kept_rdyEvent) | split

theorem kept_setRecovered {s : State} {i : Nat} (h_s : Kept Q s) : Kept Q (setRecovered s i) := by
  unfold setRecovered; repeat' first | with_reducible assumption | (extract_lets -underBinder +onlyGivenNames x; refine kept_cut (Q := Q) (x := x) ?_ ?_; subst x; rotate_left; intro hx; clear_value x) | extract_lets -underBinder +onlyGivenNames x | with_reducible first | apply kept_ite | apply kept_rdyPut | (with_reducible apply kept_mk; first | with_reducible assumption | with_reducible first | apply kept_rdyPut) | split

theorem kept_chanErr {s : State} {c kind nbytes off : Nat} (h_s : Kept Q s) : Kept Q (chanErr s c kind nbytes off) := by
  unfold chanErr; repeat' first | with_reducible assumption | with_reducible first | apply kept_rset

theorem kept_takeEntry {s : State} {c u : Nat} (h_s : Kept Q s) : Kept Q (takeEntry s c u) := by
  unfold takeEntry; repeat' first | with_reducible assumption | (intro y; beta_reduce) | (extract_lets -underBinder +onlyGivenNames x; refine kept_cut (Q := Q) (x := x) ?_ ?_; subst x; rotate_left; intro hx; clear_value x) | extract_lets -underBinder +onlyGivenNames x | with_reducible first | apply kept_chanPut | (with_reducible apply kept_mk; first | with_reducible assumption | with_reducible first | apply kept_chanPut)

theorem kept_dropWrite {s : State} {c u : Nat} (h_s : Kept Q s) : Kept Q (dropWrite s c u) := by
  unfold dropWrite; repeat' first | with_reducible assumption | (extract_lets -underBinder +onlyGivenNames x; refine kept_cut (Q := Q) (x := x) ?_ ?_; subst x; rotate_left; intro hx; clear_value x) | extract_lets -underBinder +onlyGivenNames x | with_reducible first | apply kept_bump1 | apply kept_chanErr | apply kept_report

theorem kept_writeBack {s : State} {c : Nat} {e : WcbEntry} (h_s : Kept Q s) : Kept Q (writeBack s c e) := by
  unfold writeBack; repeat' first | with_reducible assumption | (extract_lets -underBinder +onlyGivenNames x; refine kept_cut (Q := Q) (x := x) ?_ ?_; subst x; rotate_left; intro hx; clear_value x) | extract_lets -underBinder +onlyGivenNames x | with_reducible first | apply kept_ite | apply kept_takeEntry | apply kept_chanPut | apply kept_bump1 | apply kept_dropWrite | apply kept_event | split

theorem kept_combine {s : State} {c u mask : Nat} {held : List Host.Cell} (h_s : Kept Q s) : Kept Q (combine s c u mask held) := by
  unfold combine; repeat' first | with_reducible assumption | (intro y; beta_reduce) | (extract_lets -underBinder +onlyGivenNames x; refine kept_cut (Q := Q) (x := x) ?_ ?_; subst x; rotate_left; intro hx; clear_value x) | extract_lets -underBinder +onlyGivenNames x | with_reducible first | apply kept_ite | apply kept_chanPut | apply kept_writeBack | (with_reducible apply kept_mk; first | with_reducible assumption | with_reducible first | apply kept_chanPut | apply kept_writeBack) | split

theorem kept_putCells {s : State} {cs : List Host.Cell} (h_s : Kept Q s) : Kept Q (putCells s cs) := by
  unfold putCells; repeat' first | with_reducible assumption | (intro y; beta_reduce) | with_reducible first | apply kept_foldl | apply kept_putBytes

theorem kept_writePart {s : State} {a : Nat} {l : List Byte} (h_s : Kept Q s) : Kept Q (writePart s a l) := by
  unfold writePart
  extract_lets p mask
  refine kept_ite (kept_putBytes (kept_combine h_s)) ?_
  exact kept_ite (kept_putBytes (kept_putCells (kept_combine h_s))) (kept_combine h_s)


theorem kept_memWrite {s : State} {a : Nat} {l : List Byte} (h_s : Kept Q s) : Kept Q (memWrite s a l) := by
  unfold memWrite; repeat' first | with_reducible assumption | (intro y; beta_reduce) | (extract_lets -underBinder +onlyGivenNames x; refine kept_cut (Q := Q) (x := x) ?_ ?_; subst x; rotate_left; intro hx; clear_value x) | extract_lets -underBinder +onlyGivenNames x | with_reducible first | apply kept_ite | split | with_reducible first | apply kept_foldl | apply kept_writePart | apply kept_raiseGen | apply kept_putBytes

theorem kept_taskWrite {s : State} {a : Nat} {l : List Byte} (h_s : Kept Q s) : Kept Q (taskWrite s a l) := by
  unfold taskWrite; repeat' first | with_reducible assumption | (intro y; beta_reduce) | (extract_lets -underBinder +onlyGivenNames x; refine kept_cut (Q := Q) (x := x) ?_ ?_; subst x; rotate_left; intro hx; clear_value x) | extract_lets -underBinder +onlyGivenNames x | with_reducible first | apply kept_ite | split | with_reducible first | apply kept_foldl | apply kept_chanErr | apply kept_bump1 | apply kept_memWrite

theorem kept_telPut {s : State} {l : Nat} {t : TelCore} (h_s : Kept Q s) : Kept Q (telPut s l t) := by
  unfold telPut; repeat' first | with_reducible assumption | (intro y; beta_reduce) | exact kept_mk (by with_reducible assumption)

theorem kept_advance {s : State} {t : Nat} (h_s : Kept Q s) : Kept Q (advance s t) := by
  unfold advance; repeat' first | with_reducible assumption | (intro y; beta_reduce) | (extract_lets -underBinder +onlyGivenNames x; refine kept_cut (Q := Q) (x := x) ?_ ?_; subst x; rotate_left; intro hx; clear_value x) | extract_lets -underBinder +onlyGivenNames x | with_reducible first | apply kept_ite | apply kept_foldl | apply kept_telPut | (with_reducible apply kept_mk; first | with_reducible assumption | with_reducible first | apply kept_telPut) | split

theorem kept_noteDepth {s : State} {l : Nat} (h_s : Kept Q s) : Kept Q (noteDepth s l) := by
  unfold noteDepth; repeat' first | with_reducible assumption | (intro y; beta_reduce) | (extract_lets -underBinder +onlyGivenNames x; refine kept_cut (Q := Q) (x := x) ?_ ?_; subst x; rotate_left; intro hx; clear_value x) | extract_lets -underBinder +onlyGivenNames x | with_reducible first | apply kept_foldl | apply kept_telPut | (with_reducible apply kept_mk; first | with_reducible assumption | with_reducible first | apply kept_telPut)

end Sys2Proof.Machine
end

