-- ==== Sys2Proof/Laws/KeptOperands.lean ====
section
/-! SUPPORT. What the operations of Operands keep (`Kept`). -/

namespace Sys2Proof.Machine

set_option linter.all false

variable {Q : Aim}

theorem kept_putHart {s : State} {h : Hart} {t : HartSt} (h_s : Kept Q s) : Kept Q (putHart s h t) := by
  unfold putHart; repeat' first | with_reducible assumption | with_reducible first | apply kept_hartSet

theorem kept_setReg {s : State} {h : Hart} {r : Reg} {v : Word} (h_s : Kept Q s) : Kept Q (setReg s h r v) := by
  unfold setReg; repeat' first | with_reducible assumption | with_reducible first | apply kept_putHart

theorem kept_setPred {s : State} {h : Hart} {p : PredReg} {v : Bool} (h_s : Kept Q s) : Kept Q (setPred s h p v) := by
  unfold setPred; repeat' first | with_reducible assumption | (extract_lets -underBinder +onlyGivenNames x; refine kept_cut (Q := Q) (x := x) ?_ ?_; subst x; rotate_left; intro hx; clear_value x) | extract_lets -underBinder +onlyGivenNames x | with_reducible first | apply kept_ite | apply kept_putHart | (with_reducible apply kept_mk; first | with_reducible assumption | with_reducible first | apply kept_putHart) | split

theorem kept_nextPc {s : State} {h : Hart} (h_s : Kept Q s) : Kept Q (nextPc s h) := by
  unfold nextPc; repeat' first | with_reducible assumption | (extract_lets -underBinder +onlyGivenNames x; refine kept_cut (Q := Q) (x := x) ?_ ?_; subst x; rotate_left; intro hx; clear_value x) | extract_lets -underBinder +onlyGivenNames x | with_reducible first | apply kept_putHart | (with_reducible apply kept_mk; first | with_reducible assumption | with_reducible first | apply kept_putHart)

theorem kept_setPc {s : State} {h : Hart} {a : BitVec 48} (h_s : Kept Q s) : Kept Q (setPc s h a) := by
  unfold setPc; repeat' first | with_reducible assumption | (extract_lets -underBinder +onlyGivenNames x; refine kept_cut (Q := Q) (x := x) ?_ ?_; subst x; rotate_left; intro hx; clear_value x) | extract_lets -underBinder +onlyGivenNames x | with_reducible first | apply kept_putHart | (with_reducible apply kept_mk; first | with_reducible assumption | with_reducible first | apply kept_putHart)

theorem kept_orFflags {s : State} {h : Hart} {f : Nat} (h_s : Kept Q s) : Kept Q (orFflags s h f) := by
  unfold orFflags; repeat' first | with_reducible assumption | (extract_lets -underBinder +onlyGivenNames x; refine kept_cut (Q := Q) (x := x) ?_ ?_; subst x; rotate_left; intro hx; clear_value x) | extract_lets -underBinder +onlyGivenNames x | with_reducible first | apply kept_putHart | (with_reducible apply kept_mk; first | with_reducible assumption | with_reducible first | apply kept_putHart)

end Sys2Proof.Machine
end

