-- ==== Sys2Proof/Laws/KeptFabric.lean ====
section
/-! SUPPORT. What the operations of Fabric keep (`Kept`). -/

namespace Sys2Proof.Machine

set_option linter.all false

variable {Q : Aim}

theorem kept_queueCells {s : State} {p : Nat} {cs : List Cell} (h_s : Kept Q s) : Kept Q (queueCells s p cs) := by
  unfold queueCells; repeat' first | with_reducible assumption | (extract_lets -underBinder +onlyGivenNames x; refine kept_cut (Q := Q) (x := x) ?_ ?_; subst x; rotate_left; intro hx; clear_value x) | extract_lets -underBinder +onlyGivenNames x | with_reducible first | apply kept_portPut | (with_reducible apply kept_mk; first | with_reducible assumption | with_reducible first | apply kept_portPut)

theorem kept_returnCredit {s : State} {p pool : Nat} (h_s : Kept Q s) : Kept Q (returnCredit s p pool) := by
  unfold returnCredit; repeat' first | with_reducible assumption | (intro y; beta_reduce) | (extract_lets -underBinder +onlyGivenNames x; refine kept_cut (Q := Q) (x := x) ?_ ?_; subst x; rotate_left; intro hx; clear_value x) | extract_lets -underBinder +onlyGivenNames x | with_reducible first | apply kept_portPut | (with_reducible apply kept_mk; first | with_reducible assumption | with_reducible first | apply kept_portPut)

theorem kept_returnVia {s : State} {c : Cell} (h_s : Kept Q s) : Kept Q (returnVia s c) := by
  unfold returnVia; repeat' first | with_reducible assumption | with_reducible first | apply kept_returnCredit | split

theorem kept_dropMessage {s : State} {src tag : Nat} {more : Bool} (h_s : Kept Q s) : Kept Q (dropMessage s src tag more) := by
  unfold dropMessage; repeat' first | with_reducible assumption | (intro y; beta_reduce) | (extract_lets -underBinder +onlyGivenNames x; refine kept_cut (Q := Q) (x := x) ?_ ?_; subst x; rotate_left; intro hx; clear_value x) | extract_lets -underBinder +onlyGivenNames x | with_reducible first | apply kept_ite | apply kept_foldl | apply kept_returnVia | apply kept_portPut | (with_reducible apply kept_mk; first | with_reducible assumption | with_reducible first | apply kept_returnVia | apply kept_portPut) | split

theorem kept_noRoute {s : State} (h_s : Kept Q s) : Kept Q (noRoute s) := by
  unfold noRoute; repeat' first | with_reducible assumption | with_reducible first | apply kept_event | apply kept_bump1

theorem kept_newTag {s : State} (h_s : Kept Q s) : KeptR Q (newTag s) := by
  unfold newTag; repeat' first | with_reducible assumption | exact kept_mk (by with_reducible assumption) | with_reducible apply kept_pair

theorem kept_sendTagged {s : State} {kind dst tag : Nat} {alt : Bool} {body : List Byte} (h_s : Kept Q s) : KeptR Q (sendTagged s kind dst tag alt body) := by
  unfold sendTagged; repeat' first | with_reducible assumption | with_reducible first | apply kept_queueCells | apply kept_noRoute | split | with_reducible apply kept_pair

theorem kept_sendMsg {s : State} {kind dst : Nat} {body : List Byte} (h_s : Kept Q s) : KeptT Q (sendMsg s kind dst body) := by
  unfold sendMsg; repeat' first | with_reducible assumption | (extract_lets -underBinder +onlyGivenNames x; refine kept_cut (Q := Q) (x := x) ?_ ?_; subst x; rotate_left; intro hx; clear_value x) | extract_lets -underBinder +onlyGivenNames x | with_reducible first | apply kept_newTag | apply kept_sendTagged | split | with_reducible apply kept_triple | refine kept_ofR ?_ (by assumption) | (apply kept_snd; with_reducible first | apply kept_newTag | apply kept_sendTagged)

theorem kept_post {s : State} {kind dst : Nat} {body : List Byte} (h_s : Kept Q s) : Kept Q (post s kind dst body) := by
  unfold post; repeat' first | with_reducible assumption | with_reducible first | apply kept_sendMsg | refine kept_ofT ?_ (by assumption) | apply kept_trd | apply kept_snd | (apply kept_trd; with_reducible first | apply kept_sendMsg)

theorem kept_postBoth {s : State} {kind dst : Nat} {body : List Byte} (h_s : Kept Q s) : Kept Q (postBoth s kind dst body) := by
  unfold postBoth; repeat' first | with_reducible assumption | (extract_lets -underBinder +onlyGivenNames x; refine kept_cut (Q := Q) (x := x) ?_ ?_; subst x; rotate_left; intro hx; clear_value x) | extract_lets -underBinder +onlyGivenNames x | with_reducible first | apply kept_newTag | apply kept_sendTagged | split | refine kept_ofR ?_ (by assumption) | apply kept_snd | (apply kept_snd; with_reducible first | apply kept_newTag | apply kept_sendTagged)

theorem kept_postPort {s : State} {kind p : Nat} {body : List Byte} (h_s : Kept Q s) : Kept Q (postPort s kind p body) := by
  unfold postPort; repeat' first | with_reducible assumption | (extract_lets -underBinder +onlyGivenNames x; refine kept_cut (Q := Q) (x := x) ?_ ?_; subst x; rotate_left; intro hx; clear_value x) | extract_lets -underBinder +onlyGivenNames x | with_reducible first | apply kept_newTag | apply kept_queueCells | split | refine kept_ofR ?_ (by assumption) | (apply kept_snd; with_reducible first | apply kept_newTag)

theorem kept_takeMsg {s : State} {src tag kind : Nat} (h_s : Kept Q s) : Kept Q (takeMsg s src tag kind) := by
  unfold takeMsg; repeat' first | with_reducible assumption | (intro y; beta_reduce) | (extract_lets -underBinder +onlyGivenNames x; refine kept_cut (Q := Q) (x := x) ?_ ?_; subst x; rotate_left; intro hx; clear_value x) | extract_lets -underBinder +onlyGivenNames x | with_reducible first | apply kept_foldl | apply kept_returnCredit | (with_reducible apply kept_mk; first | with_reducible assumption | with_reducible first | apply kept_returnCredit) | split

end Sys2Proof.Machine
end

