-- ==== Sys2Proof/Laws/KeptHitch.lean ====
section
/-! SUPPORT. What the operations of Hitch keep (`Kept`). -/

namespace Sys2Proof.Machine

set_option linter.all false

variable {Q : Aim}

theorem kept_markTicket {s : State} {h : Nat} {w : Nat × Nat} {st : LatchState} (h_s : Kept Q s) : Kept Q (markTicket s h w st) := by
  unfold markTicket; repeat' first | with_reducible assumption | (intro y; beta_reduce) | (extract_lets -underBinder +onlyGivenNames x; refine kept_cut (Q := Q) (x := x) ?_ ?_; subst x; rotate_left; intro hx; clear_value x) | extract_lets -underBinder +onlyGivenNames x | with_reducible first | apply kept_ite | apply kept_hartSet | (with_reducible apply kept_mk; first | with_reducible assumption | with_reducible first | apply kept_hartSet) | split

theorem kept_hitOp {s : State} (h_s : Kept Q s) : Kept Q (hitOp s) := by
  unfold hitOp; repeat' first | with_reducible assumption | with_reducible first | apply kept_bump1

theorem kept_hitOverflow {s : State} (h_s : Kept Q s) : Kept Q (hitOverflow s) := by
  unfold hitOverflow; repeat' first | with_reducible assumption | with_reducible first | apply kept_event | apply kept_bump1

theorem kept_opRelOne {s : State} {h : Nat} (h_s : Kept Q s) : KeptR Q (opRelOne s h) := by
  unfold opRelOne; repeat' first | with_reducible assumption | (extract_lets -underBinder +onlyGivenNames x; refine kept_cut (Q := Q) (x := x) ?_ ?_; subst x; rotate_left; intro hx; clear_value x) | extract_lets -underBinder +onlyGivenNames x | with_reducible first | apply kept_ite | apply kept_iteR | apply kept_hitOp | apply kept_markTicket | apply kept_hitchPut | apply kept_hitOverflow | (with_reducible apply kept_mk; first | with_reducible assumption | with_reducible first | apply kept_hitOp | apply kept_markTicket | apply kept_hitchPut | apply kept_hitOverflow) | split | with_reducible apply kept_pair

theorem kept_opRelAll {s : State} {h : Nat} (h_s : Kept Q s) : KeptR Q (opRelAll s h) := by
  unfold opRelAll; repeat' first | with_reducible assumption | (intro y; beta_reduce) | (extract_lets -underBinder +onlyGivenNames x; refine kept_cut (Q := Q) (x := x) ?_ ?_; subst x; rotate_left; intro hx; clear_value x) | extract_lets -underBinder +onlyGivenNames x | with_reducible first | apply kept_foldl | apply kept_hitOp | apply kept_markTicket | apply kept_hitchPut | (with_reducible apply kept_mk; first | with_reducible assumption | with_reducible first | apply kept_hitOp | apply kept_markTicket | apply kept_hitchPut) | with_reducible apply kept_pair

theorem kept_opAdd {s : State} {h y : Nat} (h_s : Kept Q s) : KeptR Q (opAdd s h y) := by
  unfold opAdd; repeat' first | with_reducible assumption | (extract_lets -underBinder +onlyGivenNames x; refine kept_cut (Q := Q) (x := x) ?_ ?_; subst x; rotate_left; intro hx; clear_value x) | extract_lets -underBinder +onlyGivenNames x | with_reducible first | apply kept_ite | apply kept_iteR | apply kept_hitOverflow | apply kept_hitOp | apply kept_hitchPut | (with_reducible apply kept_mk; first | with_reducible assumption | with_reducible first | apply kept_hitOverflow | apply kept_hitOp | apply kept_hitchPut) | split | with_reducible apply kept_pair

theorem kept_opTest {s : State} {h y : Nat} (h_s : Kept Q s) : KeptR Q (opTest s h y) := by
  unfold opTest; repeat' first | with_reducible assumption | with_reducible first | apply kept_ite | apply kept_iteR | apply kept_hitOp | split | with_reducible apply kept_pair

theorem kept_departLatch {s : State} {slot : Nat} (h_s : Kept Q s) : Kept Q (departLatch s slot) := by
  unfold departLatch; repeat' first | with_reducible assumption | (extract_lets -underBinder +onlyGivenNames x; refine kept_cut (Q := Q) (x := x) ?_ ?_; subst x; rotate_left; intro hx; clear_value x) | extract_lets -underBinder +onlyGivenNames x | with_reducible first | apply kept_ite | apply kept_hartSet | (with_reducible apply kept_mk; first | with_reducible assumption | with_reducible first | apply kept_hartSet) | split

theorem kept_withdraw {s : State} {w : Withdrawal} (h_s : Kept Q s) : Kept Q (withdraw s w) := by
  unfold withdraw; repeat' first | with_reducible assumption | (intro y; beta_reduce) | (extract_lets -underBinder +onlyGivenNames x; refine kept_cut (Q := Q) (x := x) ?_ ?_; subst x; rotate_left; intro hx; clear_value x) | extract_lets -underBinder +onlyGivenNames x | with_reducible first | apply kept_ite | apply kept_bump1 | apply kept_hitchPut | apply kept_event | (with_reducible apply kept_mk; first | with_reducible assumption | with_reducible first | apply kept_bump1 | apply kept_hitchPut | apply kept_event) | split

theorem kept_giveUpTicket {s : State} {slot : Nat} (h_s : Kept Q s) : Kept Q (giveUpTicket s slot) := by
  unfold giveUpTicket; repeat' first | with_reducible assumption | with_reducible first | apply kept_withdraw | split

theorem kept_takeTicket {s : State} {h slot : Nat} (h_s : Kept Q s) : Kept Q (takeTicket s h slot) := by
  unfold takeTicket; repeat' first | with_reducible assumption | (extract_lets -underBinder +onlyGivenNames x; refine kept_cut (Q := Q) (x := x) ?_ ?_; subst x; rotate_left; intro hx; clear_value x) | extract_lets -underBinder +onlyGivenNames x | with_reducible first | apply kept_giveUpTicket | apply kept_hitchPut | apply kept_hartSet | (with_reducible apply kept_mk; first | with_reducible assumption | with_reducible first | apply kept_giveUpTicket | apply kept_hitchPut | apply kept_hartSet)

theorem kept_opArrive {s : State} {h slot y : Nat} (h_s : Kept Q s) : KeptR Q (opArrive s h slot y) := by
  unfold opArrive; repeat' first | with_reducible assumption | (intro y; beta_reduce) | (extract_lets -underBinder +onlyGivenNames x; refine kept_cut (Q := Q) (x := x) ?_ ?_; subst x; rotate_left; intro hx; clear_value x) | extract_lets -underBinder +onlyGivenNames x | with_reducible first | apply kept_ite | apply kept_iteR | apply kept_foldl | apply kept_hitchPut | apply kept_hitOp | apply kept_markTicket | apply kept_takeTicket | (with_reducible apply kept_mk; first | with_reducible assumption | with_reducible first | apply kept_hitchPut | apply kept_hitOp | apply kept_markTicket | apply kept_takeTicket) | split | with_reducible apply kept_pair

theorem kept_signalHitch {s : State} {h : Nat} (h_s : Kept Q s) : KeptR Q (signalHitch s h) := by
  unfold signalHitch; repeat' first | with_reducible assumption | with_reducible first | apply kept_opAdd | with_reducible apply kept_pair | refine kept_ofR ?_ (by assumption) | (apply kept_snd; with_reducible first | apply kept_opAdd)

theorem kept_withdrawFirst {s : State} (h_s : Kept Q s) : Kept Q (withdrawFirst s) := by
  unfold withdrawFirst; repeat' first | with_reducible assumption | with_reducible first | apply kept_withdraw | (with_reducible apply kept_mk; first | with_reducible assumption | with_reducible first | apply kept_withdraw) | split

theorem kept_execTicketWithdraw {s : State} (h_s : Kept Q s) : KeptO Q (execTicketWithdraw s) := by
  unfold execTicketWithdraw; repeat' first | with_reducible assumption | with_reducible first | apply kept_next | apply kept_withdrawFirst

theorem kept_execReturnedRelease {hitch : Nat} {s : State} (h_s : Kept Q s) : KeptO Q (execReturnedRelease hitch s) := by
  unfold execReturnedRelease; repeat' first | with_reducible assumption | with_reducible first | apply kept_ite | apply kept_iteO | apply kept_next | apply kept_opRelOne | (with_reducible apply kept_mk; first | with_reducible assumption | refine kept_ofR ?_ (by assumption)) | split | refine kept_ofR ?_ (by assumption) | apply kept_snd | (apply kept_snd; with_reducible first | apply kept_opRelOne)

theorem kept_keepRelease {s : State} {h : Nat} (h_s : Kept Q s) : Kept Q (keepRelease s h) := by
  unfold keepRelease; repeat' first | with_reducible assumption | (intro y; beta_reduce) | (extract_lets -underBinder +onlyGivenNames x; refine kept_cut (Q := Q) (x := x) ?_ ?_; subst x; rotate_left; intro hx; clear_value x) | extract_lets -underBinder +onlyGivenNames x | with_reducible first | apply kept_ite | apply kept_foldl | apply kept_hartSet | (with_reducible apply kept_mk; first | with_reducible assumption | with_reducible first | apply kept_hartSet) | split

theorem kept_execHitClear {k hitch : Nat} {s : State} (h_s : Kept Q s) : KeptO Q (execHitClear k hitch s) := by
  unfold execHitClear; repeat' first | with_reducible assumption | (intro y; beta_reduce) | (extract_lets -underBinder +onlyGivenNames x; refine kept_cut (Q := Q) (x := x) ?_ ?_; subst x; rotate_left; intro hx; clear_value x) | extract_lets -underBinder +onlyGivenNames x | with_reducible first | apply kept_ite | apply kept_iteO | apply kept_next | apply kept_foldl | apply kept_markTicket | apply kept_hitchPut | apply kept_keepRelease | (with_reducible apply kept_mk; first | with_reducible assumption | with_reducible first | apply kept_markTicket | apply kept_hitchPut | apply kept_keepRelease) | split

theorem kept_sendArrival {s : State} {b n : Nat} {sense : Bool} (h_s : Kept Q s) : Kept Q (sendArrival s b n sense) := by
  unfold sendArrival; repeat' first | with_reducible assumption | exact kept_mk (by with_reducible assumption)

theorem kept_releaseRoot {s : State} {b : Nat} {sense : Bool} (h_s : Kept Q s) : Kept Q (releaseRoot s b sense) := by
  unfold releaseRoot; repeat' first | with_reducible assumption | (intro y; beta_reduce) | (extract_lets -underBinder +onlyGivenNames x; refine kept_cut (Q := Q) (x := x) ?_ ?_; subst x; rotate_left; intro hx; clear_value x) | extract_lets -underBinder +onlyGivenNames x | with_reducible first | apply kept_ite | apply kept_foldl | apply kept_barPut | apply kept_postPort | (with_reducible apply kept_mk; first | with_reducible assumption | with_reducible first | apply kept_barPut | apply kept_postPort) | split

theorem kept_nodeArrival {s : State} {b n : Nat} {sense : Bool} (h_s : Kept Q s) : Kept Q (nodeArrival s b n sense) := by
  unfold nodeArrival; repeat' first | with_reducible assumption | (extract_lets -underBinder +onlyGivenNames x; refine kept_cut (Q := Q) (x := x) ?_ ?_; subst x; rotate_left; intro hx; clear_value x) | extract_lets -underBinder +onlyGivenNames x | with_reducible first | apply kept_ite | apply kept_barPut | apply kept_sendArrival | apply kept_releaseRoot | apply kept_postPort | split

theorem kept_execKnotNodeArrival {barrier node : Nat} {s : State} (h_s : Kept Q s) : KeptO Q (execKnotNodeArrival barrier node s) := by
  unfold execKnotNodeArrival; repeat' first | with_reducible assumption | (intro y; beta_reduce) | with_reducible first | apply kept_next | apply kept_nodeArrival | (with_reducible apply kept_mk; first | with_reducible assumption | with_reducible first | apply kept_nodeArrival) | split

theorem kept_execKnotReleaseArrival {barrier node : Nat} {s : State} (h_s : Kept Q s) : KeptO Q (execKnotReleaseArrival barrier node s) := by
  unfold execKnotReleaseArrival; repeat' first | with_reducible assumption | (intro y; beta_reduce) | (extract_lets -underBinder +onlyGivenNames x; refine kept_cut (Q := Q) (x := x) ?_ ?_; subst x; rotate_left; intro hx; clear_value x) | extract_lets -underBinder +onlyGivenNames x | with_reducible first | apply kept_ite | apply kept_iteO | apply kept_next | apply kept_barPut | (with_reducible apply kept_mk; first | with_reducible assumption | with_reducible first | apply kept_barPut) | split

theorem kept_breakBarrier {s : State} {b unit tick : Nat} {fromPort : Option Nat} (h_s : Kept Q s) : Kept Q (breakBarrier s b unit tick fromPort) := by
  unfold breakBarrier; repeat' first | with_reducible assumption | (intro y; beta_reduce) | (extract_lets -underBinder +onlyGivenNames x; refine kept_cut (Q := Q) (x := x) ?_ ?_; subst x; rotate_left; intro hx; clear_value x) | extract_lets -underBinder +onlyGivenNames x | with_reducible first | apply kept_ite | apply kept_foldl | apply kept_barPut | apply kept_event | apply kept_bump1 | apply kept_report | apply kept_postPort | (with_reducible apply kept_mk; first | with_reducible assumption | with_reducible first | apply kept_barPut | apply kept_event | apply kept_bump1 | apply kept_report | apply kept_postPort) | split

theorem kept_breakWhere {s : State} {p : Barrier → Bool} {unit : Nat} (h_s : Kept Q s) : Kept Q (breakWhere s p unit) := by
  unfold breakWhere; repeat' first | with_reducible assumption | (intro y; beta_reduce) | with_reducible first | apply kept_foldl | apply kept_breakBarrier | apply h_p

theorem kept_resetBarrier {s : State} {b : Nat} (h_s : Kept Q s) : Kept Q (resetBarrier s b) := by
  unfold resetBarrier; repeat' first | with_reducible assumption | (intro y; beta_reduce) | (extract_lets -underBinder +onlyGivenNames x; refine kept_cut (Q := Q) (x := x) ?_ ?_; subst x; rotate_left; intro hx; clear_value x) | extract_lets -underBinder +onlyGivenNames x | with_reducible first | apply kept_ite | apply kept_foldl | apply kept_barPut | apply kept_hartSet | (with_reducible apply kept_mk; first | with_reducible assumption | with_reducible first | apply kept_barPut | apply kept_hartSet) | split

theorem kept_remapBarriers {s : State} (h_s : Kept Q s) : Kept Q (remapBarriers s) := by
  unfold remapBarriers; repeat' first | with_reducible assumption | (intro y; beta_reduce) | (extract_lets -underBinder +onlyGivenNames x; refine kept_cut (Q := Q) (x := x) ?_ ?_; subst x; rotate_left; intro hx; clear_value x) | extract_lets -underBinder +onlyGivenNames x | with_reducible first | apply kept_ite | apply kept_foldl | apply kept_barPut | (with_reducible apply kept_mk; first | with_reducible assumption | with_reducible first | apply kept_barPut) | split

theorem kept_barrierSwitch {s : State} (h_s : Kept Q s) : Kept Q (barrierSwitch s) := by
  unfold barrierSwitch; repeat' first | with_reducible assumption | (intro y; beta_reduce) | (extract_lets -underBinder +onlyGivenNames x; refine kept_cut (Q := Q) (x := x) ?_ ?_; subst x; rotate_left; intro hx; clear_value x) | extract_lets -underBinder +onlyGivenNames x | with_reducible first | apply kept_ite | apply kept_foldl | apply kept_resetBarrier | apply kept_barPut | (with_reducible apply kept_mk; first | with_reducible assumption | with_reducible first | apply kept_resetBarrier | apply kept_barPut) | split

theorem kept_execBarrierDefine {k barrier : Nat} {entry : List Byte} {s : State} (h_s : Kept Q s) : KeptO Q (execBarrierDefine k barrier entry s) := by
  unfold execBarrierDefine; repeat' first | with_reducible assumption | with_reducible first | apply kept_ite | apply kept_iteO | apply kept_next | apply kept_powered | apply kept_barPut | (with_reducible apply kept_mk; first | with_reducible assumption | with_reducible first | apply kept_barPut) | split

theorem kept_execKnotArrive {src tag : Nat} {body : List Byte} {s : State} (h_s : Kept Q s) : KeptO Q (execKnotArrive src tag body s) := by
  unfold execKnotArrive; repeat' first | with_reducible assumption | (extract_lets -underBinder +onlyGivenNames x; refine kept_cut (Q := Q) (x := x) ?_ ?_; subst x; rotate_left; intro hx; clear_value x) | extract_lets -underBinder +onlyGivenNames x | with_reducible first | apply kept_ite | apply kept_iteO | apply kept_next | apply kept_takeMsg | apply kept_nodeArrival | split

theorem kept_execKnotRelease {src tag : Nat} {body : List Byte} {s : State} (h_s : Kept Q s) : KeptO Q (execKnotRelease src tag body s) := by
  unfold execKnotRelease; repeat' first | with_reducible assumption | (extract_lets -underBinder +onlyGivenNames x; refine kept_cut (Q := Q) (x := x) ?_ ?_; subst x; rotate_left; intro hx; clear_value x) | extract_lets -underBinder +onlyGivenNames x | with_reducible first | apply kept_ite | apply kept_iteO | apply kept_next | apply kept_takeMsg | apply kept_releaseRoot | split

theorem kept_execKnotBreak {src tag : Nat} {body : List Byte} {s : State} (h_s : Kept Q s) : KeptO Q (execKnotBreak src tag body s) := by
  unfold execKnotBreak; repeat' first | with_reducible assumption | (extract_lets -underBinder +onlyGivenNames x; refine kept_cut (Q := Q) (x := x) ?_ ?_; subst x; rotate_left; intro hx; clear_value x) | extract_lets -underBinder +onlyGivenNames x | with_reducible first | apply kept_ite | apply kept_iteO | apply kept_next | apply kept_takeMsg | apply kept_breakBarrier | split

end Sys2Proof.Machine
end

