-- ==== Sys2Proof/Laws/KeptRepair.lean ====
section
/-! SUPPORT. What the operations of Repair keep (`Kept`). -/

namespace Sys2Proof.Machine

set_option linter.all false

variable {Q : Aim}

theorem kept_greyUnit {s : State} {i kind : Nat} (h_s : Kept Q s) : Kept Q (greyUnit s i kind) := by
  unfold greyUnit; repeat' first | with_reducible assumption | (extract_lets -underBinder +onlyGivenNames x; refine kept_cut (Q := Q) (x := x) ?_ ?_; subst x; rotate_left; intro hx; clear_value x) | extract_lets -underBinder +onlyGivenNames x | with_reducible first | apply kept_setUnit | apply kept_rdyPut | (with_reducible apply kept_mk; first | with_reducible assumption | with_reducible first | apply kept_setUnit | apply kept_rdyPut)

theorem kept_greyChan {s : State} {c why : Nat} (h_s : Kept Q s) : Kept Q (greyChan s c why) := by
  unfold greyChan; repeat' first | with_reducible assumption | (extract_lets -underBinder +onlyGivenNames x; refine kept_cut (Q := Q) (x := x) ?_ ?_; subst x; rotate_left; intro hx; clear_value x) | extract_lets -underBinder +onlyGivenNames x | with_reducible first | apply kept_ite | apply kept_event | apply kept_rdyPut | apply kept_greyUnit | apply kept_chanPut | apply kept_report | (with_reducible apply kept_mk; first | with_reducible assumption | with_reducible first | apply kept_event | apply kept_rdyPut | apply kept_greyUnit | apply kept_chanPut | apply kept_report) | split

theorem kept_fenceGroup {s : State} {c g : Nat} (h_s : Kept Q s) : Kept Q (fenceGroup s c g) := by
  unfold fenceGroup
  extract_lets -underBinder +onlyGivenNames x
  clear_value x
  apply kept_ite h_s
  extract_lets -underBinder +onlyGivenNames y z inter
  have hy : Kept Q y := kept_chanPut h_s
  have hz : Kept Q z := kept_event hy
  clear_value z inter
  exact kept_snd (kept_reportFull hz)


theorem kept_useSpare {s : State} {c r uses : Nat} (h_s : Kept Q s) : Kept Q (useSpare s c r uses) := by
  unfold useSpare; repeat' first | with_reducible assumption | (intro y; beta_reduce) | (extract_lets -underBinder +onlyGivenNames x; refine kept_cut (Q := Q) (x := x) ?_ ?_; subst x; rotate_left; intro hx; clear_value x) | extract_lets -underBinder +onlyGivenNames x | with_reducible first | apply kept_ite | apply kept_chanPut | (with_reducible apply kept_mk; first | with_reducible assumption | with_reducible first | apply kept_chanPut) | split

theorem kept_rowFailed {s : State} {c r : Nat} (h_s : Kept Q s) : Kept Q (rowFailed s c r) := by
  unfold rowFailed; repeat' first | with_reducible assumption | (intro y; beta_reduce) | (extract_lets -underBinder +onlyGivenNames x; refine kept_cut (Q := Q) (x := x) ?_ ?_; subst x; rotate_left; intro hx; clear_value x) | extract_lets -underBinder +onlyGivenNames x | with_reducible first | apply kept_ite | apply kept_fenceGroup | apply kept_event | apply kept_useSpare | apply kept_report | split

theorem kept_corrected {s : State} {c u n : Nat} (h_s : Kept Q s) : Kept Q (corrected s c u n) := by
  unfold corrected; repeat' first | with_reducible assumption | (intro y; beta_reduce) | (extract_lets -underBinder +onlyGivenNames x; refine kept_cut (Q := Q) (x := x) ?_ ?_; subst x; rotate_left; intro hx; clear_value x) | extract_lets -underBinder +onlyGivenNames x | with_reducible first | apply kept_ite | apply kept_chanErr | apply kept_bump1 | apply kept_report | apply kept_chanPut | apply kept_rowFailed | apply kept_greyChan | (with_reducible apply kept_mk; first | with_reducible assumption | with_reducible first | apply kept_chanErr | apply kept_bump1 | apply kept_report | apply kept_chanPut | apply kept_rowFailed | apply kept_greyChan) | split

theorem kept_uncorrected {s : State} {c u : Nat} {rec : Bool} (h_s : Kept Q s) : Kept Q (uncorrected s c u rec) := by
  unfold uncorrected; repeat' first | with_reducible assumption | (extract_lets -underBinder +onlyGivenNames x; refine kept_cut (Q := Q) (x := x) ?_ ?_; subst x; rotate_left; intro hx; clear_value x) | extract_lets -underBinder +onlyGivenNames x | with_reducible first | apply kept_ite | apply kept_event | apply kept_chanErr | apply kept_bump1 | apply kept_report | apply kept_rowFailed | apply kept_chanPut | (with_reducible apply kept_mk; first | with_reducible assumption | with_reducible first | apply kept_event | apply kept_chanErr | apply kept_bump1 | apply kept_report | apply kept_rowFailed | apply kept_chanPut) | split

theorem kept_decodeUnit {s : State} {c u : Nat} {err : List (Nat × Nat)} {rec : Bool} (h_s : Kept Q s) : KeptR Q (decodeUnit s c u err rec) := by
  unfold decodeUnit; repeat' first | with_reducible assumption | (intro y; beta_reduce) | (extract_lets -underBinder +onlyGivenNames x; refine kept_cut (Q := Q) (x := x) ?_ ?_; subst x; rotate_left; intro hx; clear_value x) | extract_lets -underBinder +onlyGivenNames x | with_reducible first | apply kept_ite | apply kept_iteR | apply kept_uncorrected | apply kept_putBytes | apply kept_corrected | split | with_reducible apply kept_pair

theorem kept_innerReports {s : State} {c n : Nat} (h_s : Kept Q s) : Kept Q (innerReports s c n) := by
  unfold innerReports; repeat' first | with_reducible assumption | with_reducible first | apply kept_bump

theorem kept_badRead {s : State} {a n : Nat} (h_s : Kept Q s) : Kept Q (badRead s a n) := by
  unfold badRead; repeat' first | with_reducible assumption | (intro y; beta_reduce) | with_reducible first | apply kept_foldl | apply kept_uncorrected

theorem kept_badFirst {s : State} {a : Nat} (h_s : Kept Q s) : Kept Q (badFirst s a) := by
  unfold badFirst; repeat' first | with_reducible assumption | (intro y; beta_reduce) | with_reducible first | apply kept_foldl | apply kept_uncorrected

end Sys2Proof.Machine
end

