-- ==== Sys2Proof/Laws/KeptBarrel.lean ====
section
/-! SUPPORT. What the operations of Barrel keep (`Kept`). -/

namespace Sys2Proof.Machine

set_option linter.all false

variable {Q : Aim}

theorem kept_cmdMod {s : State} {p id : Nat} {f : Cmd → Cmd} (h_s : Kept Q s) : Kept Q (cmdMod s p id f) := by
  unfold cmdMod; repeat' first | with_reducible assumption | (intro y; beta_reduce) | (extract_lets -underBinder +onlyGivenNames x; refine kept_cut (Q := Q) (x := x) ?_ ?_; subst x; rotate_left; intro hx; clear_value x) | extract_lets -underBinder +onlyGivenNames x | with_reducible first | apply kept_ite | apply kept_corePut | apply h_f | (with_reducible apply kept_mk; first | with_reducible assumption | with_reducible first | apply kept_corePut) | split | assumption

theorem kept_landWrites {s : State} {w : List Host.Cell} (h_s : Kept Q s) : Kept Q (landWrites s w) := by
  unfold landWrites; repeat' first | with_reducible assumption | (intro y; beta_reduce) | with_reducible first | apply kept_foldl | apply kept_memWrite

theorem kept_addCounts {s : State} {cs : List (Nat × Nat)} (h_s : Kept Q s) : Kept Q (addCounts s cs) := by
  unfold addCounts; repeat' first | with_reducible assumption | (intro y; beta_reduce) | with_reducible first | apply kept_foldl | apply kept_bump

theorem kept_complete {s : State} {p : Nat} {c : Cmd} {status : Nat} (h_s : Kept Q s) : Kept Q (complete s p c status) := by
  unfold complete; repeat' first | with_reducible assumption | (intro y; beta_reduce) | (extract_lets -underBinder +onlyGivenNames x; refine kept_cut (Q := Q) (x := x) ?_ ?_; subst x; rotate_left; intro hx; clear_value x) | extract_lets -underBinder +onlyGivenNames x | with_reducible first | apply kept_ite | apply kept_corePut | apply kept_hartSet | (with_reducible apply kept_mk; first | with_reducible assumption | with_reducible first | apply kept_corePut | apply kept_hartSet) | split | assumption

theorem kept_orStrandFlags {s : State} {p : Nat} {c : Cmd} {f : Nat} (h_s : Kept Q s) : Kept Q (orStrandFlags s p c f) := by
  unfold orStrandFlags; repeat' first | with_reducible assumption | (extract_lets -underBinder +onlyGivenNames x; refine kept_cut (Q := Q) (x := x) ?_ ?_; subst x; rotate_left; intro hx; clear_value x) | extract_lets -underBinder +onlyGivenNames x | with_reducible first | apply kept_ite | apply kept_hartSet | (with_reducible apply kept_mk; first | with_reducible assumption | with_reducible first | apply kept_hartSet) | split

theorem kept_cancelWrites {s : State} {w : List Host.Cell} (h_s : Kept Q s) : Kept Q (cancelWrites s w) := by
  unfold cancelWrites; repeat' first | with_reducible assumption | (intro y; beta_reduce) | (extract_lets -underBinder +onlyGivenNames x; refine kept_cut (Q := Q) (x := x) ?_ ?_; subst x; rotate_left; intro hx; clear_value x) | extract_lets -underBinder +onlyGivenNames x | with_reducible first | apply kept_ite | apply kept_foldl | apply kept_draw | apply kept_landWrites | split | refine kept_ofR ?_ (by assumption) | (apply kept_snd; with_reducible first | apply kept_draw)

theorem kept_cancelOne {s : State} {p : Nat} {c : Cmd} (h_s : Kept Q s) : Kept Q (cancelOne s p c) := by
  unfold cancelOne; repeat' first | with_reducible assumption | (intro y; beta_reduce) | (extract_lets -underBinder +onlyGivenNames x; refine kept_cut (Q := Q) (x := x) ?_ ?_; subst x; rotate_left; intro hx; clear_value x) | extract_lets -underBinder +onlyGivenNames x | with_reducible first | apply kept_ite | apply kept_foldl | apply kept_cancelWrites | apply kept_draw | apply kept_bump | split | refine kept_ofR ?_ (by assumption) | (apply kept_snd; with_reducible first | apply kept_draw)

theorem kept_cancelCmds {s : State} {p task : Nat} (h_s : Kept Q s) : Kept Q (cancelCmds s p task) := by
  unfold cancelCmds; repeat' first | with_reducible assumption | (intro y; beta_reduce) | (extract_lets -underBinder +onlyGivenNames x; refine kept_cut (Q := Q) (x := x) ?_ ?_; subst x; rotate_left; intro hx; clear_value x) | extract_lets -underBinder +onlyGivenNames x | with_reducible first | apply kept_foldl | apply kept_corePut | apply kept_cancelOne | (with_reducible apply kept_mk; first | with_reducible assumption | with_reducible first | apply kept_corePut | apply kept_cancelOne) | assumption

theorem kept_matEnd {s : State} {p strand : Nat} {gone : List Nat} {tend : Bool} (h_s : Kept Q s) : Kept Q (matEnd s p strand gone tend) := by
  unfold matEnd; repeat' first | with_reducible assumption | (extract_lets -underBinder +onlyGivenNames x; refine kept_cut (Q := Q) (x := x) ?_ ?_; subst x; rotate_left; intro hx; clear_value x) | extract_lets -underBinder +onlyGivenNames x | with_reducible first | apply kept_ite | apply kept_corePut | (with_reducible apply kept_mk; first | with_reducible assumption | with_reducible first | apply kept_corePut) | split | assumption

theorem kept_taskPut {s : State} {id : Nat} {t : Task} (h_s : Kept Q s) : Kept Q (taskPut s id t) := by
  unfold taskPut; repeat' first | with_reducible assumption | exact kept_mk (by with_reducible assumption) | assumption

theorem kept_faultSteps {s : State} {p strand task status cause addr : Nat} (h_s : Kept Q s) : Kept Q (faultSteps s p strand task status cause addr) := by
  unfold faultSteps; repeat' first | with_reducible assumption | (extract_lets -underBinder +onlyGivenNames x; refine kept_cut (Q := Q) (x := x) ?_ ?_; subst x; rotate_left; intro hx; clear_value x) | extract_lets -underBinder +onlyGivenNames x | with_reducible first | apply kept_ite | apply kept_bump1 | apply kept_rset | apply kept_event | apply kept_report | split

theorem kept_endTask {s : State} {id status cause result addr : Nat} (h_s : Kept Q s) : Kept Q (endTask s id status cause result addr) := by
  unfold endTask; repeat' first | with_reducible assumption | (intro y; beta_reduce) | (extract_lets -underBinder +onlyGivenNames x; refine kept_cut (Q := Q) (x := x) ?_ ?_; subst x; rotate_left; intro hx; clear_value x) | extract_lets -underBinder +onlyGivenNames x | with_reducible first | apply kept_ite | apply kept_cancelCmds | apply kept_matEnd | apply kept_departLatch | apply kept_hartSet | apply kept_taskPut | apply kept_bump1 | apply kept_telPut | apply kept_faultSteps | (with_reducible apply kept_mk; first | with_reducible assumption | with_reducible first | apply kept_cancelCmds | apply kept_matEnd | apply kept_departLatch | apply kept_hartSet | apply kept_taskPut | apply kept_bump1 | apply kept_telPut | apply kept_faultSteps) | split | assumption

theorem kept_endOwn {s : State} {id status cause result addr : Nat} (h_s : Kept Q s) : Kept Q (endOwn s id status cause result addr) := by
  unfold endOwn; repeat' first | with_reducible assumption | with_reducible first | apply kept_ite | apply kept_endTask | split | assumption

theorem kept_ctrlFault {s : State} {k cause : Nat} (h_s : Kept Q s) : Kept Q (ctrlFault s k cause) := by
  unfold ctrlFault; repeat' first | with_reducible assumption | (intro y; beta_reduce) | (extract_lets -underBinder +onlyGivenNames x; refine kept_cut (Q := Q) (x := x) ?_ ?_; subst x; rotate_left; intro hx; clear_value x) | extract_lets -underBinder +onlyGivenNames x | with_reducible first | apply kept_ite | apply kept_departLatch | apply kept_hartSet | apply kept_report | apply kept_ctrlPut | apply kept_bump1 | apply kept_setUnit | apply kept_breakWhere | (with_reducible apply kept_mk; first | with_reducible assumption | with_reducible first | apply kept_departLatch | apply kept_hartSet | apply kept_report | apply kept_ctrlPut | apply kept_bump1 | apply kept_setUnit | apply kept_breakWhere) | split

theorem kept_demandFault {s : State} {h : Hart} {cause addr : Nat} (h_s : Kept Q s) : Kept Q (demandFault s h cause addr) := by
  unfold demandFault; repeat' first | with_reducible assumption | with_reducible first | apply kept_endOwn | apply kept_ctrlFault | split

theorem kept_illegal {s : State} {h : Hart} (h_s : Kept Q s) : Kept Q (illegal s h) := by
  unfold illegal; repeat' first | with_reducible assumption | with_reducible first | apply kept_demandFault

theorem kept_enterWait {s : State} {h : Hart} {st : StrandState} {w : WaitFor} (h_s : Kept Q s) : Kept Q (enterWait s h st w) := by
  unfold enterWait; repeat' first | with_reducible assumption | (extract_lets -underBinder +onlyGivenNames x; refine kept_cut (Q := Q) (x := x) ?_ ?_; subst x; rotate_left; intro hx; clear_value x) | extract_lets -underBinder +onlyGivenNames x | with_reducible first | apply kept_putHart | (with_reducible apply kept_mk; first | with_reducible assumption | with_reducible first | apply kept_putHart)

theorem kept_ready {s : State} {h : Hart} (h_s : Kept Q s) : Kept Q (ready s h) := by
  unfold ready; repeat' first | with_reducible assumption | (extract_lets -underBinder +onlyGivenNames x; refine kept_cut (Q := Q) (x := x) ?_ ?_; subst x; rotate_left; intro hx; clear_value x) | extract_lets -underBinder +onlyGivenNames x | with_reducible first | apply kept_putHart | (with_reducible apply kept_mk; first | with_reducible assumption | with_reducible first | apply kept_putHart)

theorem kept_takeTurn {s : State} {core n : Nat} (h_s : Kept Q s) : Kept Q (takeTurn s core n) := by
  unfold takeTurn; repeat' first | with_reducible assumption | (extract_lets -underBinder +onlyGivenNames x; refine kept_cut (Q := Q) (x := x) ?_ ?_; subst x; rotate_left; intro hx; clear_value x) | extract_lets -underBinder +onlyGivenNames x | with_reducible first | apply kept_bump | apply kept_corePut | (with_reducible apply kept_mk; first | with_reducible assumption | with_reducible first | apply kept_bump | apply kept_corePut)

theorem kept_spelled {c : Instr} {h : Hart} {s : State} {o : Out} (h_s : Kept Q s) (h_o : KeptO Q o) : KeptO Q (spelled c h s o) := by
  cases h with
  | ctrl k => exact h_o
  | strand p n => exact kept_iteO (kept_next h_s) h_o


theorem kept_issue {s : State} {h : Hart} {g : Guard} {f : State → State} (h_s : Kept Q s) (h_f : ∀ x0, Kept Q x0 → Kept Q (f x0)) : KeptO Q (issue s h g f) := by
  unfold issue; repeat' first | with_reducible assumption | (intro y; beta_reduce) | (extract_lets -underBinder +onlyGivenNames x; refine kept_cut (Q := Q) (x := x) ?_ ?_; subst x; rotate_left; intro hx; clear_value x) | extract_lets -underBinder +onlyGivenNames x | with_reducible first | apply kept_ite | apply kept_iteO | apply kept_next | apply kept_nextPc | apply kept_takeTurn | apply kept_demandFault | apply kept_badRead | apply h_f | split

theorem kept_retire {s : State} {h : Hart} {rd : Reg} {v : Word} (h_s : Kept Q s) : Kept Q (retire s h rd v) := by
  unfold retire; repeat' first | with_reducible assumption | with_reducible first | apply kept_nextPc | apply kept_setReg

theorem kept_compute {s : State} {h : Hart} {g : Guard} {rd : Reg} {f : State → Word} (h_s : Kept Q s) : KeptO Q (compute s h g rd f) := by
  unfold compute; repeat' first | with_reducible assumption | (intro y; beta_reduce) | with_reducible first | apply kept_next | apply kept_issue | apply kept_retire | apply h_f

theorem kept_execIllegal {h : Hart} {g : Guard} {s : State} (h_s : Kept Q s) : KeptO Q (execIllegal h g s) := by
  unfold execIllegal; repeat' first | with_reducible assumption | (intro y; beta_reduce) | with_reducible first | apply kept_next | apply kept_spelled | apply kept_issue | apply kept_illegal

theorem kept_strandOnly {s : State} {h : Hart} {f : Nat → State → State} (h_s : Kept Q s) (h_f : ∀ x0 x1, Kept Q x1 → Kept Q (f x0 x1)) : Kept Q (strandOnly s h f) := by
  unfold strandOnly; repeat' first | with_reducible assumption | (intro y; beta_reduce) | with_reducible first | apply kept_illegal | apply h_f | split

end Sys2Proof.Machine
end

