-- ==== Sys2Proof/Laws/State.lean ====
section
/-! SUPPORT. What each update of the state leaves alone, field by field, and what it reads back. -/

namespace Sys2Proof.Machine

variable (s : State)

/-! ### rset -/

@[simp] theorem rset_pending (a v : Nat) : (rset s a v).pending = s.pending := rfl
@[simp] theorem rset_freeCtr (a v : Nat) : (rset s a v).freeCtr = s.freeCtr := rfl
@[simp] theorem rset_now (a v : Nat) : (rset s a v).now = s.now := rfl
@[simp] theorem rset_mem (a v : Nat) : (rset s a v).mem = s.mem := rfl
@[simp] theorem rset_gens (a v : Nat) : (rset s a v).gens = s.gens := rfl
@[simp] theorem rset_hostMem (a v : Nat) : (rset s a v).hostMem = s.hostMem := rfl
@[simp] theorem rset_rdy (a v : Nat) : (rset s a v).rdy = s.rdy := rfl
@[simp] theorem rset_flt (a v : Nat) : (rset s a v).flt = s.flt := rfl
@[simp] theorem rset_tsq (a v : Nat) : (rset s a v).tsq = s.tsq := rfl
@[simp] theorem rset_tim (a v : Nat) : (rset s a v).tim = s.tim := rfl
@[simp] theorem rset_harts (a v : Nat) : (rset s a v).harts = s.harts := rfl
@[simp] theorem rset_ctrls (a v : Nat) : (rset s a v).ctrls = s.ctrls := rfl
@[simp] theorem rset_cores (a v : Nat) : (rset s a v).cores = s.cores := rfl
@[simp] theorem rset_sch (a v : Nat) : (rset s a v).sch = s.sch := rfl
@[simp] theorem rset_hit (a v : Nat) : (rset s a v).hit = s.hit := rfl
@[simp] theorem rset_chans (a v : Nat) : (rset s a v).chans = s.chans := rfl
@[simp] theorem rset_emb (a v : Nat) : (rset s a v).emb = s.emb := rfl
@[simp] theorem rset_plc (a v : Nat) : (rset s a v).plc = s.plc := rfl
@[simp] theorem rset_hws (a v : Nat) : (rset s a v).hws = s.hws := rfl
@[simp] theorem rset_upd (a v : Nat) : (rset s a v).upd = s.upd := rfl
@[simp] theorem rset_boot (a v : Nat) : (rset s a v).boot = s.boot := rfl
@[simp] theorem rset_keep (a v : Nat) : (rset s a v).keep = s.keep := rfl
@[simp] theorem rset_pci (a v : Nat) : (rset s a v).pci = s.pci := rfl
@[simp] theorem rset_mgmt (a v : Nat) : (rset s a v).mgmt = s.mgmt := rfl
@[simp] theorem rset_elec (a v : Nat) : (rset s a v).elec = s.elec := rfl

/-! ### event -/

@[simp] theorem event_pending (a b : Nat) : (event s a b).pending = s.pending := rfl
@[simp] theorem event_freeCtr (a b : Nat) : (event s a b).freeCtr = s.freeCtr := rfl
@[simp] theorem event_now (a b : Nat) : (event s a b).now = s.now := rfl
@[simp] theorem event_mem (a b : Nat) : (event s a b).mem = s.mem := rfl
@[simp] theorem event_gens (a b : Nat) : (event s a b).gens = s.gens := rfl
@[simp] theorem event_hostMem (a b : Nat) : (event s a b).hostMem = s.hostMem := rfl
@[simp] theorem event_rdy (a b : Nat) : (event s a b).rdy = s.rdy := rfl
@[simp] theorem event_flt (a b : Nat) : (event s a b).flt = s.flt := rfl
@[simp] theorem event_tsq (a b : Nat) : (event s a b).tsq = s.tsq := rfl
@[simp] theorem event_tim (a b : Nat) : (event s a b).tim = s.tim := rfl
@[simp] theorem event_harts (a b : Nat) : (event s a b).harts = s.harts := rfl
@[simp] theorem event_ctrls (a b : Nat) : (event s a b).ctrls = s.ctrls := rfl
@[simp] theorem event_cores (a b : Nat) : (event s a b).cores = s.cores := rfl
@[simp] theorem event_sch (a b : Nat) : (event s a b).sch = s.sch := rfl
@[simp] theorem event_hit (a b : Nat) : (event s a b).hit = s.hit := rfl
@[simp] theorem event_chans (a b : Nat) : (event s a b).chans = s.chans := rfl
@[simp] theorem event_emb (a b : Nat) : (event s a b).emb = s.emb := rfl
@[simp] theorem event_plc (a b : Nat) : (event s a b).plc = s.plc := rfl
@[simp] theorem event_hws (a b : Nat) : (event s a b).hws = s.hws := rfl
@[simp] theorem event_upd (a b : Nat) : (event s a b).upd = s.upd := rfl
@[simp] theorem event_boot (a b : Nat) : (event s a b).boot = s.boot := rfl
@[simp] theorem event_keep (a b : Nat) : (event s a b).keep = s.keep := rfl
@[simp] theorem event_pci (a b : Nat) : (event s a b).pci = s.pci := rfl
@[simp] theorem event_mgmt (a b : Nat) : (event s a b).mgmt = s.mgmt := rfl
@[simp] theorem event_elec (a b : Nat) : (event s a b).elec = s.elec := rfl

/-! ### fset -/

@[simp] theorem fset_pending (a hi lo v : Nat) : (fset s a hi lo v).pending = s.pending := rfl
@[simp] theorem fset_freeCtr (a hi lo v : Nat) : (fset s a hi lo v).freeCtr = s.freeCtr := rfl
@[simp] theorem fset_now (a hi lo v : Nat) : (fset s a hi lo v).now = s.now := rfl
@[simp] theorem fset_mem (a hi lo v : Nat) : (fset s a hi lo v).mem = s.mem := rfl
@[simp] theorem fset_gens (a hi lo v : Nat) : (fset s a hi lo v).gens = s.gens := rfl
@[simp] theorem fset_hostMem (a hi lo v : Nat) : (fset s a hi lo v).hostMem = s.hostMem := rfl
@[simp] theorem fset_rdy (a hi lo v : Nat) : (fset s a hi lo v).rdy = s.rdy := rfl
@[simp] theorem fset_flt (a hi lo v : Nat) : (fset s a hi lo v).flt = s.flt := rfl
@[simp] theorem fset_tsq (a hi lo v : Nat) : (fset s a hi lo v).tsq = s.tsq := rfl
@[simp] theorem fset_tim (a hi lo v : Nat) : (fset s a hi lo v).tim = s.tim := rfl
@[simp] theorem fset_harts (a hi lo v : Nat) : (fset s a hi lo v).harts = s.harts := rfl
@[simp] theorem fset_ctrls (a hi lo v : Nat) : (fset s a hi lo v).ctrls = s.ctrls := rfl
@[simp] theorem fset_cores (a hi lo v : Nat) : (fset s a hi lo v).cores = s.cores := rfl
@[simp] theorem fset_sch (a hi lo v : Nat) : (fset s a hi lo v).sch = s.sch := rfl
@[simp] theorem fset_hit (a hi lo v : Nat) : (fset s a hi lo v).hit = s.hit := rfl
@[simp] theorem fset_chans (a hi lo v : Nat) : (fset s a hi lo v).chans = s.chans := rfl
@[simp] theorem fset_emb (a hi lo v : Nat) : (fset s a hi lo v).emb = s.emb := rfl
@[simp] theorem fset_plc (a hi lo v : Nat) : (fset s a hi lo v).plc = s.plc := rfl
@[simp] theorem fset_hws (a hi lo v : Nat) : (fset s a hi lo v).hws = s.hws := rfl
@[simp] theorem fset_upd (a hi lo v : Nat) : (fset s a hi lo v).upd = s.upd := rfl
@[simp] theorem fset_boot (a hi lo v : Nat) : (fset s a hi lo v).boot = s.boot := rfl
@[simp] theorem fset_keep (a hi lo v : Nat) : (fset s a hi lo v).keep = s.keep := rfl
@[simp] theorem fset_pci (a hi lo v : Nat) : (fset s a hi lo v).pci = s.pci := rfl
@[simp] theorem fset_mgmt (a hi lo v : Nat) : (fset s a hi lo v).mgmt = s.mgmt := rfl
@[simp] theorem fset_elec (a hi lo v : Nat) : (fset s a hi lo v).elec = s.elec := rfl

/-! ### rdyPut -/

@[simp] theorem rdyPut_pending (i : Nat) (e : RdyEntry) : (rdyPut s i e).pending = s.pending := rfl
@[simp] theorem rdyPut_freeCtr (i : Nat) (e : RdyEntry) : (rdyPut s i e).freeCtr = s.freeCtr := rfl
@[simp] theorem rdyPut_now (i : Nat) (e : RdyEntry) : (rdyPut s i e).now = s.now := rfl
@[simp] theorem rdyPut_csr (i : Nat) (e : RdyEntry) : (rdyPut s i e).csr = s.csr := rfl
@[simp] theorem rdyPut_mem (i : Nat) (e : RdyEntry) : (rdyPut s i e).mem = s.mem := rfl
@[simp] theorem rdyPut_gens (i : Nat) (e : RdyEntry) : (rdyPut s i e).gens = s.gens := rfl
@[simp] theorem rdyPut_hostMem (i : Nat) (e : RdyEntry) : (rdyPut s i e).hostMem = s.hostMem := rfl
@[simp] theorem rdyPut_flt (i : Nat) (e : RdyEntry) : (rdyPut s i e).flt = s.flt := rfl
@[simp] theorem rdyPut_tsq (i : Nat) (e : RdyEntry) : (rdyPut s i e).tsq = s.tsq := rfl
@[simp] theorem rdyPut_tim (i : Nat) (e : RdyEntry) : (rdyPut s i e).tim = s.tim := rfl
@[simp] theorem rdyPut_harts (i : Nat) (e : RdyEntry) : (rdyPut s i e).harts = s.harts := rfl
@[simp] theorem rdyPut_ctrls (i : Nat) (e : RdyEntry) : (rdyPut s i e).ctrls = s.ctrls := rfl
@[simp] theorem rdyPut_cores (i : Nat) (e : RdyEntry) : (rdyPut s i e).cores = s.cores := rfl
@[simp] theorem rdyPut_sch (i : Nat) (e : RdyEntry) : (rdyPut s i e).sch = s.sch := rfl
@[simp] theorem rdyPut_hit (i : Nat) (e : RdyEntry) : (rdyPut s i e).hit = s.hit := rfl
@[simp] theorem rdyPut_chans (i : Nat) (e : RdyEntry) : (rdyPut s i e).chans = s.chans := rfl
@[simp] theorem rdyPut_emb (i : Nat) (e : RdyEntry) : (rdyPut s i e).emb = s.emb := rfl
@[simp] theorem rdyPut_plc (i : Nat) (e : RdyEntry) : (rdyPut s i e).plc = s.plc := rfl
@[simp] theorem rdyPut_hws (i : Nat) (e : RdyEntry) : (rdyPut s i e).hws = s.hws := rfl
@[simp] theorem rdyPut_upd (i : Nat) (e : RdyEntry) : (rdyPut s i e).upd = s.upd := rfl
@[simp] theorem rdyPut_boot (i : Nat) (e : RdyEntry) : (rdyPut s i e).boot = s.boot := rfl
@[simp] theorem rdyPut_keep (i : Nat) (e : RdyEntry) : (rdyPut s i e).keep = s.keep := rfl
@[simp] theorem rdyPut_pci (i : Nat) (e : RdyEntry) : (rdyPut s i e).pci = s.pci := rfl
@[simp] theorem rdyPut_mgmt (i : Nat) (e : RdyEntry) : (rdyPut s i e).mgmt = s.mgmt := rfl
@[simp] theorem rdyPut_elec (i : Nat) (e : RdyEntry) : (rdyPut s i e).elec = s.elec := rfl

/-! ### chanPut -/

@[simp] theorem chanPut_pending (c : Nat) (x : Chan) : (chanPut s c x).pending = s.pending := rfl
@[simp] theorem chanPut_freeCtr (c : Nat) (x : Chan) : (chanPut s c x).freeCtr = s.freeCtr := rfl
@[simp] theorem chanPut_now (c : Nat) (x : Chan) : (chanPut s c x).now = s.now := rfl
@[simp] theorem chanPut_csr (c : Nat) (x : Chan) : (chanPut s c x).csr = s.csr := rfl
@[simp] theorem chanPut_mem (c : Nat) (x : Chan) : (chanPut s c x).mem = s.mem := rfl
@[simp] theorem chanPut_gens (c : Nat) (x : Chan) : (chanPut s c x).gens = s.gens := rfl
@[simp] theorem chanPut_hostMem (c : Nat) (x : Chan) : (chanPut s c x).hostMem = s.hostMem := rfl
@[simp] theorem chanPut_rdy (c : Nat) (x : Chan) : (chanPut s c x).rdy = s.rdy := rfl
@[simp] theorem chanPut_flt (c : Nat) (x : Chan) : (chanPut s c x).flt = s.flt := rfl
@[simp] theorem chanPut_tsq (c : Nat) (x : Chan) : (chanPut s c x).tsq = s.tsq := rfl
@[simp] theorem chanPut_tim (c : Nat) (x : Chan) : (chanPut s c x).tim = s.tim := rfl
@[simp] theorem chanPut_harts (c : Nat) (x : Chan) : (chanPut s c x).harts = s.harts := rfl
@[simp] theorem chanPut_ctrls (c : Nat) (x : Chan) : (chanPut s c x).ctrls = s.ctrls := rfl
@[simp] theorem chanPut_cores (c : Nat) (x : Chan) : (chanPut s c x).cores = s.cores := rfl
@[simp] theorem chanPut_sch (c : Nat) (x : Chan) : (chanPut s c x).sch = s.sch := rfl
@[simp] theorem chanPut_hit (c : Nat) (x : Chan) : (chanPut s c x).hit = s.hit := rfl
@[simp] theorem chanPut_emb (c : Nat) (x : Chan) : (chanPut s c x).emb = s.emb := rfl
@[simp] theorem chanPut_plc (c : Nat) (x : Chan) : (chanPut s c x).plc = s.plc := rfl
@[simp] theorem chanPut_hws (c : Nat) (x : Chan) : (chanPut s c x).hws = s.hws := rfl
@[simp] theorem chanPut_upd (c : Nat) (x : Chan) : (chanPut s c x).upd = s.upd := rfl
@[simp] theorem chanPut_boot (c : Nat) (x : Chan) : (chanPut s c x).boot = s.boot := rfl
@[simp] theorem chanPut_keep (c : Nat) (x : Chan) : (chanPut s c x).keep = s.keep := rfl
@[simp] theorem chanPut_pci (c : Nat) (x : Chan) : (chanPut s c x).pci = s.pci := rfl
@[simp] theorem chanPut_mgmt (c : Nat) (x : Chan) : (chanPut s c x).mgmt = s.mgmt := rfl
@[simp] theorem chanPut_elec (c : Nat) (x : Chan) : (chanPut s c x).elec = s.elec := rfl

/-! ### hartSet -/

@[simp] theorem hartSet_pending (n : Nat) (t : HartSt) : (hartSet s n t).pending = s.pending := rfl
@[simp] theorem hartSet_freeCtr (n : Nat) (t : HartSt) : (hartSet s n t).freeCtr = s.freeCtr := rfl
@[simp] theorem hartSet_now (n : Nat) (t : HartSt) : (hartSet s n t).now = s.now := rfl
@[simp] theorem hartSet_csr (n : Nat) (t : HartSt) : (hartSet s n t).csr = s.csr := rfl
@[simp] theorem hartSet_mem (n : Nat) (t : HartSt) : (hartSet s n t).mem = s.mem := rfl
@[simp] theorem hartSet_gens (n : Nat) (t : HartSt) : (hartSet s n t).gens = s.gens := rfl
@[simp] theorem hartSet_hostMem (n : Nat) (t : HartSt) : (hartSet s n t).hostMem = s.hostMem := rfl
@[simp] theorem hartSet_rdy (n : Nat) (t : HartSt) : (hartSet s n t).rdy = s.rdy := rfl
@[simp] theorem hartSet_flt (n : Nat) (t : HartSt) : (hartSet s n t).flt = s.flt := rfl
@[simp] theorem hartSet_tsq (n : Nat) (t : HartSt) : (hartSet s n t).tsq = s.tsq := rfl
@[simp] theorem hartSet_tim (n : Nat) (t : HartSt) : (hartSet s n t).tim = s.tim := rfl
@[simp] theorem hartSet_ctrls (n : Nat) (t : HartSt) : (hartSet s n t).ctrls = s.ctrls := rfl
@[simp] theorem hartSet_cores (n : Nat) (t : HartSt) : (hartSet s n t).cores = s.cores := rfl
@[simp] theorem hartSet_sch (n : Nat) (t : HartSt) : (hartSet s n t).sch = s.sch := rfl
@[simp] theorem hartSet_hit (n : Nat) (t : HartSt) : (hartSet s n t).hit = s.hit := rfl
@[simp] theorem hartSet_chans (n : Nat) (t : HartSt) : (hartSet s n t).chans = s.chans := rfl
@[simp] theorem hartSet_emb (n : Nat) (t : HartSt) : (hartSet s n t).emb = s.emb := rfl
@[simp] theorem hartSet_plc (n : Nat) (t : HartSt) : (hartSet s n t).plc = s.plc := rfl
@[simp] theorem hartSet_hws (n : Nat) (t : HartSt) : (hartSet s n t).hws = s.hws := rfl
@[simp] theorem hartSet_upd (n : Nat) (t : HartSt) : (hartSet s n t).upd = s.upd := rfl
@[simp] theorem hartSet_boot (n : Nat) (t : HartSt) : (hartSet s n t).boot = s.boot := rfl
@[simp] theorem hartSet_keep (n : Nat) (t : HartSt) : (hartSet s n t).keep = s.keep := rfl
@[simp] theorem hartSet_pci (n : Nat) (t : HartSt) : (hartSet s n t).pci = s.pci := rfl
@[simp] theorem hartSet_mgmt (n : Nat) (t : HartSt) : (hartSet s n t).mgmt = s.mgmt := rfl
@[simp] theorem hartSet_elec (n : Nat) (t : HartSt) : (hartSet s n t).elec = s.elec := rfl

/-! ### putHart -/

@[simp] theorem putHart_pending (h : Hart) (t : HartSt) : (putHart s h t).pending = s.pending := rfl
@[simp] theorem putHart_freeCtr (h : Hart) (t : HartSt) : (putHart s h t).freeCtr = s.freeCtr := rfl
@[simp] theorem putHart_now (h : Hart) (t : HartSt) : (putHart s h t).now = s.now := rfl
@[simp] theorem putHart_csr (h : Hart) (t : HartSt) : (putHart s h t).csr = s.csr := rfl
@[simp] theorem putHart_mem (h : Hart) (t : HartSt) : (putHart s h t).mem = s.mem := rfl
@[simp] theorem putHart_gens (h : Hart) (t : HartSt) : (putHart s h t).gens = s.gens := rfl
@[simp] theorem putHart_hostMem (h : Hart) (t : HartSt) : (putHart s h t).hostMem = s.hostMem := rfl
@[simp] theorem putHart_rdy (h : Hart) (t : HartSt) : (putHart s h t).rdy = s.rdy := rfl
@[simp] theorem putHart_flt (h : Hart) (t : HartSt) : (putHart s h t).flt = s.flt := rfl
@[simp] theorem putHart_tsq (h : Hart) (t : HartSt) : (putHart s h t).tsq = s.tsq := rfl
@[simp] theorem putHart_tim (h : Hart) (t : HartSt) : (putHart s h t).tim = s.tim := rfl
@[simp] theorem putHart_ctrls (h : Hart) (t : HartSt) : (putHart s h t).ctrls = s.ctrls := rfl
@[simp] theorem putHart_cores (h : Hart) (t : HartSt) : (putHart s h t).cores = s.cores := rfl
@[simp] theorem putHart_sch (h : Hart) (t : HartSt) : (putHart s h t).sch = s.sch := rfl
@[simp] theorem putHart_hit (h : Hart) (t : HartSt) : (putHart s h t).hit = s.hit := rfl
@[simp] theorem putHart_chans (h : Hart) (t : HartSt) : (putHart s h t).chans = s.chans := rfl
@[simp] theorem putHart_emb (h : Hart) (t : HartSt) : (putHart s h t).emb = s.emb := rfl
@[simp] theorem putHart_plc (h : Hart) (t : HartSt) : (putHart s h t).plc = s.plc := rfl
@[simp] theorem putHart_hws (h : Hart) (t : HartSt) : (putHart s h t).hws = s.hws := rfl
@[simp] theorem putHart_upd (h : Hart) (t : HartSt) : (putHart s h t).upd = s.upd := rfl
@[simp] theorem putHart_boot (h : Hart) (t : HartSt) : (putHart s h t).boot = s.boot := rfl
@[simp] theorem putHart_keep (h : Hart) (t : HartSt) : (putHart s h t).keep = s.keep := rfl
@[simp] theorem putHart_pci (h : Hart) (t : HartSt) : (putHart s h t).pci = s.pci := rfl
@[simp] theorem putHart_mgmt (h : Hart) (t : HartSt) : (putHart s h t).mgmt = s.mgmt := rfl
@[simp] theorem putHart_elec (h : Hart) (t : HartSt) : (putHart s h t).elec = s.elec := rfl

/-! ### setReg -/

@[simp] theorem setReg_pending (h : Hart) (r : Reg) (v : Word) : (setReg s h r v).pending = s.pending := rfl
@[simp] theorem setReg_freeCtr (h : Hart) (r : Reg) (v : Word) : (setReg s h r v).freeCtr = s.freeCtr := rfl
@[simp] theorem setReg_now (h : Hart) (r : Reg) (v : Word) : (setReg s h r v).now = s.now := rfl
@[simp] theorem setReg_csr (h : Hart) (r : Reg) (v : Word) : (setReg s h r v).csr = s.csr := rfl
@[simp] theorem setReg_mem (h : Hart) (r : Reg) (v : Word) : (setReg s h r v).mem = s.mem := rfl
@[simp] theorem setReg_gens (h : Hart) (r : Reg) (v : Word) : (setReg s h r v).gens = s.gens := rfl
@[simp] theorem setReg_hostMem (h : Hart) (r : Reg) (v : Word) : (setReg s h r v).hostMem = s.hostMem := rfl
@[simp] theorem setReg_rdy (h : Hart) (r : Reg) (v : Word) : (setReg s h r v).rdy = s.rdy := rfl
@[simp] theorem setReg_flt (h : Hart) (r : Reg) (v : Word) : (setReg s h r v).flt = s.flt := rfl
@[simp] theorem setReg_tsq (h : Hart) (r : Reg) (v : Word) : (setReg s h r v).tsq = s.tsq := rfl
@[simp] theorem setReg_tim (h : Hart) (r : Reg) (v : Word) : (setReg s h r v).tim = s.tim := rfl
@[simp] theorem setReg_ctrls (h : Hart) (r : Reg) (v : Word) : (setReg s h r v).ctrls = s.ctrls := rfl
@[simp] theorem setReg_cores (h : Hart) (r : Reg) (v : Word) : (setReg s h r v).cores = s.cores := rfl
@[simp] theorem setReg_sch (h : Hart) (r : Reg) (v : Word) : (setReg s h r v).sch = s.sch := rfl
@[simp] theorem setReg_hit (h : Hart) (r : Reg) (v : Word) : (setReg s h r v).hit = s.hit := rfl
@[simp] theorem setReg_chans (h : Hart) (r : Reg) (v : Word) : (setReg s h r v).chans = s.chans := rfl
@[simp] theorem setReg_emb (h : Hart) (r : Reg) (v : Word) : (setReg s h r v).emb = s.emb := rfl
@[simp] theorem setReg_plc (h : Hart) (r : Reg) (v : Word) : (setReg s h r v).plc = s.plc := rfl
@[simp] theorem setReg_hws (h : Hart) (r : Reg) (v : Word) : (setReg s h r v).hws = s.hws := rfl
@[simp] theorem setReg_upd (h : Hart) (r : Reg) (v : Word) : (setReg s h r v).upd = s.upd := rfl
@[simp] theorem setReg_boot (h : Hart) (r : Reg) (v : Word) : (setReg s h r v).boot = s.boot := rfl
@[simp] theorem setReg_keep (h : Hart) (r : Reg) (v : Word) : (setReg s h r v).keep = s.keep := rfl
@[simp] theorem setReg_pci (h : Hart) (r : Reg) (v : Word) : (setReg s h r v).pci = s.pci := rfl
@[simp] theorem setReg_mgmt (h : Hart) (r : Reg) (v : Word) : (setReg s h r v).mgmt = s.mgmt := rfl
@[simp] theorem setReg_elec (h : Hart) (r : Reg) (v : Word) : (setReg s h r v).elec = s.elec := rfl

/-! ### nextPc -/

@[simp] theorem nextPc_pending (h : Hart) : (nextPc s h).pending = s.pending := rfl
@[simp] theorem nextPc_freeCtr (h : Hart) : (nextPc s h).freeCtr = s.freeCtr := rfl
@[simp] theorem nextPc_now (h : Hart) : (nextPc s h).now = s.now := rfl
@[simp] theorem nextPc_csr (h : Hart) : (nextPc s h).csr = s.csr := rfl
@[simp] theorem nextPc_mem (h : Hart) : (nextPc s h).mem = s.mem := rfl
@[simp] theorem nextPc_gens (h : Hart) : (nextPc s h).gens = s.gens := rfl
@[simp] theorem nextPc_hostMem (h : Hart) : (nextPc s h).hostMem = s.hostMem := rfl
@[simp] theorem nextPc_rdy (h : Hart) : (nextPc s h).rdy = s.rdy := rfl
@[simp] theorem nextPc_flt (h : Hart) : (nextPc s h).flt = s.flt := rfl
@[simp] theorem nextPc_tsq (h : Hart) : (nextPc s h).tsq = s.tsq := rfl
@[simp] theorem nextPc_tim (h : Hart) : (nextPc s h).tim = s.tim := rfl
@[simp] theorem nextPc_ctrls (h : Hart) : (nextPc s h).ctrls = s.ctrls := rfl
@[simp] theorem nextPc_cores (h : Hart) : (nextPc s h).cores = s.cores := rfl
@[simp] theorem nextPc_sch (h : Hart) : (nextPc s h).sch = s.sch := rfl
@[simp] theorem nextPc_hit (h : Hart) : (nextPc s h).hit = s.hit := rfl
@[simp] theorem nextPc_chans (h : Hart) : (nextPc s h).chans = s.chans := rfl
@[simp] theorem nextPc_emb (h : Hart) : (nextPc s h).emb = s.emb := rfl
@[simp] theorem nextPc_plc (h : Hart) : (nextPc s h).plc = s.plc := rfl
@[simp] theorem nextPc_hws (h : Hart) : (nextPc s h).hws = s.hws := rfl
@[simp] theorem nextPc_upd (h : Hart) : (nextPc s h).upd = s.upd := rfl
@[simp] theorem nextPc_boot (h : Hart) : (nextPc s h).boot = s.boot := rfl
@[simp] theorem nextPc_keep (h : Hart) : (nextPc s h).keep = s.keep := rfl
@[simp] theorem nextPc_pci (h : Hart) : (nextPc s h).pci = s.pci := rfl
@[simp] theorem nextPc_mgmt (h : Hart) : (nextPc s h).mgmt = s.mgmt := rfl
@[simp] theorem nextPc_elec (h : Hart) : (nextPc s h).elec = s.elec := rfl

/-! ### setPc -/

@[simp] theorem setPc_pending (h : Hart) (a : BitVec 48) : (setPc s h a).pending = s.pending := rfl
@[simp] theorem setPc_freeCtr (h : Hart) (a : BitVec 48) : (setPc s h a).freeCtr = s.freeCtr := rfl
@[simp] theorem setPc_now (h : Hart) (a : BitVec 48) : (setPc s h a).now = s.now := rfl
@[simp] theorem setPc_csr (h : Hart) (a : BitVec 48) : (setPc s h a).csr = s.csr := rfl
@[simp] theorem setPc_mem (h : Hart) (a : BitVec 48) : (setPc s h a).mem = s.mem := rfl
@[simp] theorem setPc_gens (h : Hart) (a : BitVec 48) : (setPc s h a).gens = s.gens := rfl
@[simp] theorem setPc_hostMem (h : Hart) (a : BitVec 48) : (setPc s h a).hostMem = s.hostMem := rfl
@[simp] theorem setPc_rdy (h : Hart) (a : BitVec 48) : (setPc s h a).rdy = s.rdy := rfl
@[simp] theorem setPc_flt (h : Hart) (a : BitVec 48) : (setPc s h a).flt = s.flt := rfl
@[simp] theorem setPc_tsq (h : Hart) (a : BitVec 48) : (setPc s h a).tsq = s.tsq := rfl
@[simp] theorem setPc_tim (h : Hart) (a : BitVec 48) : (setPc s h a).tim = s.tim := rfl
@[simp] theorem setPc_ctrls (h : Hart) (a : BitVec 48) : (setPc s h a).ctrls = s.ctrls := rfl
@[simp] theorem setPc_cores (h : Hart) (a : BitVec 48) : (setPc s h a).cores = s.cores := rfl
@[simp] theorem setPc_sch (h : Hart) (a : BitVec 48) : (setPc s h a).sch = s.sch := rfl
@[simp] theorem setPc_hit (h : Hart) (a : BitVec 48) : (setPc s h a).hit = s.hit := rfl
@[simp] theorem setPc_chans (h : Hart) (a : BitVec 48) : (setPc s h a).chans = s.chans := rfl
@[simp] theorem setPc_emb (h : Hart) (a : BitVec 48) : (setPc s h a).emb = s.emb := rfl
@[simp] theorem setPc_plc (h : Hart) (a : BitVec 48) : (setPc s h a).plc = s.plc := rfl
@[simp] theorem setPc_hws (h : Hart) (a : BitVec 48) : (setPc s h a).hws = s.hws := rfl
@[simp] theorem setPc_upd (h : Hart) (a : BitVec 48) : (setPc s h a).upd = s.upd := rfl
@[simp] theorem setPc_boot (h : Hart) (a : BitVec 48) : (setPc s h a).boot = s.boot := rfl
@[simp] theorem setPc_keep (h : Hart) (a : BitVec 48) : (setPc s h a).keep = s.keep := rfl
@[simp] theorem setPc_pci (h : Hart) (a : BitVec 48) : (setPc s h a).pci = s.pci := rfl
@[simp] theorem setPc_mgmt (h : Hart) (a : BitVec 48) : (setPc s h a).mgmt = s.mgmt := rfl
@[simp] theorem setPc_elec (h : Hart) (a : BitVec 48) : (setPc s h a).elec = s.elec := rfl

/-! ### orFflags -/

@[simp] theorem orFflags_pending (h : Hart) (f : Nat) : (orFflags s h f).pending = s.pending := rfl
@[simp] theorem orFflags_freeCtr (h : Hart) (f : Nat) : (orFflags s h f).freeCtr = s.freeCtr := rfl
@[simp] theorem orFflags_now (h : Hart) (f : Nat) : (orFflags s h f).now = s.now := rfl
@[simp] theorem orFflags_csr (h : Hart) (f : Nat) : (orFflags s h f).csr = s.csr := rfl
@[simp] theorem orFflags_mem (h : Hart) (f : Nat) : (orFflags s h f).mem = s.mem := rfl
@[simp] theorem orFflags_gens (h : Hart) (f : Nat) : (orFflags s h f).gens = s.gens := rfl
@[simp] theorem orFflags_hostMem (h : Hart) (f : Nat) : (orFflags s h f).hostMem = s.hostMem := rfl
@[simp] theorem orFflags_rdy (h : Hart) (f : Nat) : (orFflags s h f).rdy = s.rdy := rfl
@[simp] theorem orFflags_flt (h : Hart) (f : Nat) : (orFflags s h f).flt = s.flt := rfl
@[simp] theorem orFflags_tsq (h : Hart) (f : Nat) : (orFflags s h f).tsq = s.tsq := rfl
@[simp] theorem orFflags_tim (h : Hart) (f : Nat) : (orFflags s h f).tim = s.tim := rfl
@[simp] theorem orFflags_ctrls (h : Hart) (f : Nat) : (orFflags s h f).ctrls = s.ctrls := rfl
@[simp] theorem orFflags_cores (h : Hart) (f : Nat) : (orFflags s h f).cores = s.cores := rfl
@[simp] theorem orFflags_sch (h : Hart) (f : Nat) : (orFflags s h f).sch = s.sch := rfl
@[simp] theorem orFflags_hit (h : Hart) (f : Nat) : (orFflags s h f).hit = s.hit := rfl
@[simp] theorem orFflags_chans (h : Hart) (f : Nat) : (orFflags s h f).chans = s.chans := rfl
@[simp] theorem orFflags_emb (h : Hart) (f : Nat) : (orFflags s h f).emb = s.emb := rfl
@[simp] theorem orFflags_plc (h : Hart) (f : Nat) : (orFflags s h f).plc = s.plc := rfl
@[simp] theorem orFflags_hws (h : Hart) (f : Nat) : (orFflags s h f).hws = s.hws := rfl
@[simp] theorem orFflags_upd (h : Hart) (f : Nat) : (orFflags s h f).upd = s.upd := rfl
@[simp] theorem orFflags_boot (h : Hart) (f : Nat) : (orFflags s h f).boot = s.boot := rfl
@[simp] theorem orFflags_keep (h : Hart) (f : Nat) : (orFflags s h f).keep = s.keep := rfl
@[simp] theorem orFflags_pci (h : Hart) (f : Nat) : (orFflags s h f).pci = s.pci := rfl
@[simp] theorem orFflags_mgmt (h : Hart) (f : Nat) : (orFflags s h f).mgmt = s.mgmt := rfl
@[simp] theorem orFflags_elec (h : Hart) (f : Nat) : (orFflags s h f).elec = s.elec := rfl

/-! ### retire -/

@[simp] theorem retire_pending (h : Hart) (rd : Reg) (v : Word) : (retire s h rd v).pending = s.pending := rfl
@[simp] theorem retire_freeCtr (h : Hart) (rd : Reg) (v : Word) : (retire s h rd v).freeCtr = s.freeCtr := rfl
@[simp] theorem retire_now (h : Hart) (rd : Reg) (v : Word) : (retire s h rd v).now = s.now := rfl
@[simp] theorem retire_csr (h : Hart) (rd : Reg) (v : Word) : (retire s h rd v).csr = s.csr := rfl
@[simp] theorem retire_mem (h : Hart) (rd : Reg) (v : Word) : (retire s h rd v).mem = s.mem := rfl
@[simp] theorem retire_gens (h : Hart) (rd : Reg) (v : Word) : (retire s h rd v).gens = s.gens := rfl
@[simp] theorem retire_hostMem (h : Hart) (rd : Reg) (v : Word) : (retire s h rd v).hostMem = s.hostMem := rfl
@[simp] theorem retire_rdy (h : Hart) (rd : Reg) (v : Word) : (retire s h rd v).rdy = s.rdy := rfl
@[simp] theorem retire_flt (h : Hart) (rd : Reg) (v : Word) : (retire s h rd v).flt = s.flt := rfl
@[simp] theorem retire_tsq (h : Hart) (rd : Reg) (v : Word) : (retire s h rd v).tsq = s.tsq := rfl
@[simp] theorem retire_tim (h : Hart) (rd : Reg) (v : Word) : (retire s h rd v).tim = s.tim := rfl
@[simp] theorem retire_ctrls (h : Hart) (rd : Reg) (v : Word) : (retire s h rd v).ctrls = s.ctrls := rfl
@[simp] theorem retire_cores (h : Hart) (rd : Reg) (v : Word) : (retire s h rd v).cores = s.cores := rfl
@[simp] theorem retire_sch (h : Hart) (rd : Reg) (v : Word) : (retire s h rd v).sch = s.sch := rfl
@[simp] theorem retire_hit (h : Hart) (rd : Reg) (v : Word) : (retire s h rd v).hit = s.hit := rfl
@[simp] theorem retire_chans (h : Hart) (rd : Reg) (v : Word) : (retire s h rd v).chans = s.chans := rfl
@[simp] theorem retire_emb (h : Hart) (rd : Reg) (v : Word) : (retire s h rd v).emb = s.emb := rfl
@[simp] theorem retire_plc (h : Hart) (rd : Reg) (v : Word) : (retire s h rd v).plc = s.plc := rfl
@[simp] theorem retire_hws (h : Hart) (rd : Reg) (v : Word) : (retire s h rd v).hws = s.hws := rfl
@[simp] theorem retire_upd (h : Hart) (rd : Reg) (v : Word) : (retire s h rd v).upd = s.upd := rfl
@[simp] theorem retire_boot (h : Hart) (rd : Reg) (v : Word) : (retire s h rd v).boot = s.boot := rfl
@[simp] theorem retire_keep (h : Hart) (rd : Reg) (v : Word) : (retire s h rd v).keep = s.keep := rfl
@[simp] theorem retire_pci (h : Hart) (rd : Reg) (v : Word) : (retire s h rd v).pci = s.pci := rfl
@[simp] theorem retire_mgmt (h : Hart) (rd : Reg) (v : Word) : (retire s h rd v).mgmt = s.mgmt := rfl
@[simp] theorem retire_elec (h : Hart) (rd : Reg) (v : Word) : (retire s h rd v).elec = s.elec := rfl

/-! ### corePut -/

@[simp] theorem corePut_pending (p : Nat) (c : CoreSt) : (corePut s p c).pending = s.pending := rfl
@[simp] theorem corePut_freeCtr (p : Nat) (c : CoreSt) : (corePut s p c).freeCtr = s.freeCtr := rfl
@[simp] theorem corePut_now (p : Nat) (c : CoreSt) : (corePut s p c).now = s.now := rfl
@[simp] theorem corePut_csr (p : Nat) (c : CoreSt) : (corePut s p c).csr = s.csr := rfl
@[simp] theorem corePut_mem (p : Nat) (c : CoreSt) : (corePut s p c).mem = s.mem := rfl
@[simp] theorem corePut_gens (p : Nat) (c : CoreSt) : (corePut s p c).gens = s.gens := rfl
@[simp] theorem corePut_hostMem (p : Nat) (c : CoreSt) : (corePut s p c).hostMem = s.hostMem := rfl
@[simp] theorem corePut_rdy (p : Nat) (c : CoreSt) : (corePut s p c).rdy = s.rdy := rfl
@[simp] theorem corePut_flt (p : Nat) (c : CoreSt) : (corePut s p c).flt = s.flt := rfl
@[simp] theorem corePut_tsq (p : Nat) (c : CoreSt) : (corePut s p c).tsq = s.tsq := rfl
@[simp] theorem corePut_tim (p : Nat) (c : CoreSt) : (corePut s p c).tim = s.tim := rfl
@[simp] theorem corePut_harts (p : Nat) (c : CoreSt) : (corePut s p c).harts = s.harts := rfl
@[simp] theorem corePut_ctrls (p : Nat) (c : CoreSt) : (corePut s p c).ctrls = s.ctrls := rfl
@[simp] theorem corePut_sch (p : Nat) (c : CoreSt) : (corePut s p c).sch = s.sch := rfl
@[simp] theorem corePut_hit (p : Nat) (c : CoreSt) : (corePut s p c).hit = s.hit := rfl
@[simp] theorem corePut_chans (p : Nat) (c : CoreSt) : (corePut s p c).chans = s.chans := rfl
@[simp] theorem corePut_emb (p : Nat) (c : CoreSt) : (corePut s p c).emb = s.emb := rfl
@[simp] theorem corePut_plc (p : Nat) (c : CoreSt) : (corePut s p c).plc = s.plc := rfl
@[simp] theorem corePut_hws (p : Nat) (c : CoreSt) : (corePut s p c).hws = s.hws := rfl
@[simp] theorem corePut_upd (p : Nat) (c : CoreSt) : (corePut s p c).upd = s.upd := rfl
@[simp] theorem corePut_boot (p : Nat) (c : CoreSt) : (corePut s p c).boot = s.boot := rfl
@[simp] theorem corePut_keep (p : Nat) (c : CoreSt) : (corePut s p c).keep = s.keep := rfl
@[simp] theorem corePut_pci (p : Nat) (c : CoreSt) : (corePut s p c).pci = s.pci := rfl
@[simp] theorem corePut_mgmt (p : Nat) (c : CoreSt) : (corePut s p c).mgmt = s.mgmt := rfl
@[simp] theorem corePut_elec (p : Nat) (c : CoreSt) : (corePut s p c).elec = s.elec := rfl

/-! ### ctrlPut -/

@[simp] theorem ctrlPut_pending (k : Nat) (c : CtrlSt) : (ctrlPut s k c).pending = s.pending := rfl
@[simp] theorem ctrlPut_freeCtr (k : Nat) (c : CtrlSt) : (ctrlPut s k c).freeCtr = s.freeCtr := rfl
@[simp] theorem ctrlPut_now (k : Nat) (c : CtrlSt) : (ctrlPut s k c).now = s.now := rfl
@[simp] theorem ctrlPut_csr (k : Nat) (c : CtrlSt) : (ctrlPut s k c).csr = s.csr := rfl
@[simp] theorem ctrlPut_mem (k : Nat) (c : CtrlSt) : (ctrlPut s k c).mem = s.mem := rfl
@[simp] theorem ctrlPut_gens (k : Nat) (c : CtrlSt) : (ctrlPut s k c).gens = s.gens := rfl
@[simp] theorem ctrlPut_hostMem (k : Nat) (c : CtrlSt) : (ctrlPut s k c).hostMem = s.hostMem := rfl
@[simp] theorem ctrlPut_rdy (k : Nat) (c : CtrlSt) : (ctrlPut s k c).rdy = s.rdy := rfl
@[simp] theorem ctrlPut_flt (k : Nat) (c : CtrlSt) : (ctrlPut s k c).flt = s.flt := rfl
@[simp] theorem ctrlPut_tsq (k : Nat) (c : CtrlSt) : (ctrlPut s k c).tsq = s.tsq := rfl
@[simp] theorem ctrlPut_tim (k : Nat) (c : CtrlSt) : (ctrlPut s k c).tim = s.tim := rfl
@[simp] theorem ctrlPut_harts (k : Nat) (c : CtrlSt) : (ctrlPut s k c).harts = s.harts := rfl
@[simp] theorem ctrlPut_cores (k : Nat) (c : CtrlSt) : (ctrlPut s k c).cores = s.cores := rfl
@[simp] theorem ctrlPut_sch (k : Nat) (c : CtrlSt) : (ctrlPut s k c).sch = s.sch := rfl
@[simp] theorem ctrlPut_hit (k : Nat) (c : CtrlSt) : (ctrlPut s k c).hit = s.hit := rfl
@[simp] theorem ctrlPut_chans (k : Nat) (c : CtrlSt) : (ctrlPut s k c).chans = s.chans := rfl
@[simp] theorem ctrlPut_emb (k : Nat) (c : CtrlSt) : (ctrlPut s k c).emb = s.emb := rfl
@[simp] theorem ctrlPut_plc (k : Nat) (c : CtrlSt) : (ctrlPut s k c).plc = s.plc := rfl
@[simp] theorem ctrlPut_hws (k : Nat) (c : CtrlSt) : (ctrlPut s k c).hws = s.hws := rfl
@[simp] theorem ctrlPut_upd (k : Nat) (c : CtrlSt) : (ctrlPut s k c).upd = s.upd := rfl
@[simp] theorem ctrlPut_boot (k : Nat) (c : CtrlSt) : (ctrlPut s k c).boot = s.boot := rfl
@[simp] theorem ctrlPut_keep (k : Nat) (c : CtrlSt) : (ctrlPut s k c).keep = s.keep := rfl
@[simp] theorem ctrlPut_pci (k : Nat) (c : CtrlSt) : (ctrlPut s k c).pci = s.pci := rfl
@[simp] theorem ctrlPut_mgmt (k : Nat) (c : CtrlSt) : (ctrlPut s k c).mgmt = s.mgmt := rfl
@[simp] theorem ctrlPut_elec (k : Nat) (c : CtrlSt) : (ctrlPut s k c).elec = s.elec := rfl

/-! ### taskPut -/

@[simp] theorem taskPut_pending (id : Nat) (t : Task) : (taskPut s id t).pending = s.pending := rfl
@[simp] theorem taskPut_freeCtr (id : Nat) (t : Task) : (taskPut s id t).freeCtr = s.freeCtr := rfl
@[simp] theorem taskPut_now (id : Nat) (t : Task) : (taskPut s id t).now = s.now := rfl
@[simp] theorem taskPut_csr (id : Nat) (t : Task) : (taskPut s id t).csr = s.csr := rfl
@[simp] theorem taskPut_mem (id : Nat) (t : Task) : (taskPut s id t).mem = s.mem := rfl
@[simp] theorem taskPut_gens (id : Nat) (t : Task) : (taskPut s id t).gens = s.gens := rfl
@[simp] theorem taskPut_hostMem (id : Nat) (t : Task) : (taskPut s id t).hostMem = s.hostMem := rfl
@[simp] theorem taskPut_rdy (id : Nat) (t : Task) : (taskPut s id t).rdy = s.rdy := rfl
@[simp] theorem taskPut_flt (id : Nat) (t : Task) : (taskPut s id t).flt = s.flt := rfl
@[simp] theorem taskPut_tsq (id : Nat) (t : Task) : (taskPut s id t).tsq = s.tsq := rfl
@[simp] theorem taskPut_tim (id : Nat) (t : Task) : (taskPut s id t).tim = s.tim := rfl
@[simp] theorem taskPut_harts (id : Nat) (t : Task) : (taskPut s id t).harts = s.harts := rfl
@[simp] theorem taskPut_ctrls (id : Nat) (t : Task) : (taskPut s id t).ctrls = s.ctrls := rfl
@[simp] theorem taskPut_cores (id : Nat) (t : Task) : (taskPut s id t).cores = s.cores := rfl
@[simp] theorem taskPut_hit (id : Nat) (t : Task) : (taskPut s id t).hit = s.hit := rfl
@[simp] theorem taskPut_chans (id : Nat) (t : Task) : (taskPut s id t).chans = s.chans := rfl
@[simp] theorem taskPut_emb (id : Nat) (t : Task) : (taskPut s id t).emb = s.emb := rfl
@[simp] theorem taskPut_plc (id : Nat) (t : Task) : (taskPut s id t).plc = s.plc := rfl
@[simp] theorem taskPut_hws (id : Nat) (t : Task) : (taskPut s id t).hws = s.hws := rfl
@[simp] theorem taskPut_upd (id : Nat) (t : Task) : (taskPut s id t).upd = s.upd := rfl
@[simp] theorem taskPut_boot (id : Nat) (t : Task) : (taskPut s id t).boot = s.boot := rfl
@[simp] theorem taskPut_keep (id : Nat) (t : Task) : (taskPut s id t).keep = s.keep := rfl
@[simp] theorem taskPut_pci (id : Nat) (t : Task) : (taskPut s id t).pci = s.pci := rfl
@[simp] theorem taskPut_mgmt (id : Nat) (t : Task) : (taskPut s id t).mgmt = s.mgmt := rfl
@[simp] theorem taskPut_elec (id : Nat) (t : Task) : (taskPut s id t).elec = s.elec := rfl

/-! ### plcMap -/

@[simp] theorem plcMap_pending (f : PlcUnit → PlcUnit) : (plcMap s f).pending = s.pending := rfl
@[simp] theorem plcMap_freeCtr (f : PlcUnit → PlcUnit) : (plcMap s f).freeCtr = s.freeCtr := rfl
@[simp] theorem plcMap_now (f : PlcUnit → PlcUnit) : (plcMap s f).now = s.now := rfl
@[simp] theorem plcMap_csr (f : PlcUnit → PlcUnit) : (plcMap s f).csr = s.csr := rfl
@[simp] theorem plcMap_mem (f : PlcUnit → PlcUnit) : (plcMap s f).mem = s.mem := rfl
@[simp] theorem plcMap_gens (f : PlcUnit → PlcUnit) : (plcMap s f).gens = s.gens := rfl
@[simp] theorem plcMap_hostMem (f : PlcUnit → PlcUnit) : (plcMap s f).hostMem = s.hostMem := rfl
@[simp] theorem plcMap_rdy (f : PlcUnit → PlcUnit) : (plcMap s f).rdy = s.rdy := rfl
@[simp] theorem plcMap_flt (f : PlcUnit → PlcUnit) : (plcMap s f).flt = s.flt := rfl
@[simp] theorem plcMap_tsq (f : PlcUnit → PlcUnit) : (plcMap s f).tsq = s.tsq := rfl
@[simp] theorem plcMap_tim (f : PlcUnit → PlcUnit) : (plcMap s f).tim = s.tim := rfl
@[simp] theorem plcMap_harts (f : PlcUnit → PlcUnit) : (plcMap s f).harts = s.harts := rfl
@[simp] theorem plcMap_ctrls (f : PlcUnit → PlcUnit) : (plcMap s f).ctrls = s.ctrls := rfl
@[simp] theorem plcMap_cores (f : PlcUnit → PlcUnit) : (plcMap s f).cores = s.cores := rfl
@[simp] theorem plcMap_sch (f : PlcUnit → PlcUnit) : (plcMap s f).sch = s.sch := rfl
@[simp] theorem plcMap_hit (f : PlcUnit → PlcUnit) : (plcMap s f).hit = s.hit := rfl
@[simp] theorem plcMap_chans (f : PlcUnit → PlcUnit) : (plcMap s f).chans = s.chans := rfl
@[simp] theorem plcMap_emb (f : PlcUnit → PlcUnit) : (plcMap s f).emb = s.emb := rfl
@[simp] theorem plcMap_hws (f : PlcUnit → PlcUnit) : (plcMap s f).hws = s.hws := rfl
@[simp] theorem plcMap_upd (f : PlcUnit → PlcUnit) : (plcMap s f).upd = s.upd := rfl
@[simp] theorem plcMap_boot (f : PlcUnit → PlcUnit) : (plcMap s f).boot = s.boot := rfl
@[simp] theorem plcMap_keep (f : PlcUnit → PlcUnit) : (plcMap s f).keep = s.keep := rfl
@[simp] theorem plcMap_pci (f : PlcUnit → PlcUnit) : (plcMap s f).pci = s.pci := rfl
@[simp] theorem plcMap_mgmt (f : PlcUnit → PlcUnit) : (plcMap s f).mgmt = s.mgmt := rfl
@[simp] theorem plcMap_elec (f : PlcUnit → PlcUnit) : (plcMap s f).elec = s.elec := rfl

/-! ### mgmtMap -/

@[simp] theorem mgmtMap_pending (f : MgmtUnit → MgmtUnit) : (mgmtMap s f).pending = s.pending := rfl
@[simp] theorem mgmtMap_freeCtr (f : MgmtUnit → MgmtUnit) : (mgmtMap s f).freeCtr = s.freeCtr := rfl
@[simp] theorem mgmtMap_now (f : MgmtUnit → MgmtUnit) : (mgmtMap s f).now = s.now := rfl
@[simp] theorem mgmtMap_csr (f : MgmtUnit → MgmtUnit) : (mgmtMap s f).csr = s.csr := rfl
@[simp] theorem mgmtMap_mem (f : MgmtUnit → MgmtUnit) : (mgmtMap s f).mem = s.mem := rfl
@[simp] theorem mgmtMap_gens (f : MgmtUnit → MgmtUnit) : (mgmtMap s f).gens = s.gens := rfl
@[simp] theorem mgmtMap_hostMem (f : MgmtUnit → MgmtUnit) : (mgmtMap s f).hostMem = s.hostMem := rfl
@[simp] theorem mgmtMap_rdy (f : MgmtUnit → MgmtUnit) : (mgmtMap s f).rdy = s.rdy := rfl
@[simp] theorem mgmtMap_flt (f : MgmtUnit → MgmtUnit) : (mgmtMap s f).flt = s.flt := rfl
@[simp] theorem mgmtMap_tsq (f : MgmtUnit → MgmtUnit) : (mgmtMap s f).tsq = s.tsq := rfl
@[simp] theorem mgmtMap_tim (f : MgmtUnit → MgmtUnit) : (mgmtMap s f).tim = s.tim := rfl
@[simp] theorem mgmtMap_harts (f : MgmtUnit → MgmtUnit) : (mgmtMap s f).harts = s.harts := rfl
@[simp] theorem mgmtMap_ctrls (f : MgmtUnit → MgmtUnit) : (mgmtMap s f).ctrls = s.ctrls := rfl
@[simp] theorem mgmtMap_cores (f : MgmtUnit → MgmtUnit) : (mgmtMap s f).cores = s.cores := rfl
@[simp] theorem mgmtMap_sch (f : MgmtUnit → MgmtUnit) : (mgmtMap s f).sch = s.sch := rfl
@[simp] theorem mgmtMap_hit (f : MgmtUnit → MgmtUnit) : (mgmtMap s f).hit = s.hit := rfl
@[simp] theorem mgmtMap_chans (f : MgmtUnit → MgmtUnit) : (mgmtMap s f).chans = s.chans := rfl
@[simp] theorem mgmtMap_emb (f : MgmtUnit → MgmtUnit) : (mgmtMap s f).emb = s.emb := rfl
@[simp] theorem mgmtMap_plc (f : MgmtUnit → MgmtUnit) : (mgmtMap s f).plc = s.plc := rfl
@[simp] theorem mgmtMap_hws (f : MgmtUnit → MgmtUnit) : (mgmtMap s f).hws = s.hws := rfl
@[simp] theorem mgmtMap_upd (f : MgmtUnit → MgmtUnit) : (mgmtMap s f).upd = s.upd := rfl
@[simp] theorem mgmtMap_boot (f : MgmtUnit → MgmtUnit) : (mgmtMap s f).boot = s.boot := rfl
@[simp] theorem mgmtMap_keep (f : MgmtUnit → MgmtUnit) : (mgmtMap s f).keep = s.keep := rfl
@[simp] theorem mgmtMap_pci (f : MgmtUnit → MgmtUnit) : (mgmtMap s f).pci = s.pci := rfl
@[simp] theorem mgmtMap_elec (f : MgmtUnit → MgmtUnit) : (mgmtMap s f).elec = s.elec := rfl

/-! ### pciMap -/

@[simp] theorem pciMap_pending (f : PciUnit → PciUnit) : (pciMap s f).pending = s.pending := rfl
@[simp] theorem pciMap_freeCtr (f : PciUnit → PciUnit) : (pciMap s f).freeCtr = s.freeCtr := rfl
@[simp] theorem pciMap_now (f : PciUnit → PciUnit) : (pciMap s f).now = s.now := rfl
@[simp] theorem pciMap_csr (f : PciUnit → PciUnit) : (pciMap s f).csr = s.csr := rfl
@[simp] theorem pciMap_mem (f : PciUnit → PciUnit) : (pciMap s f).mem = s.mem := rfl
@[simp] theorem pciMap_gens (f : PciUnit → PciUnit) : (pciMap s f).gens = s.gens := rfl
@[simp] theorem pciMap_hostMem (f : PciUnit → PciUnit) : (pciMap s f).hostMem = s.hostMem := rfl
@[simp] theorem pciMap_rdy (f : PciUnit → PciUnit) : (pciMap s f).rdy = s.rdy := rfl
@[simp] theorem pciMap_flt (f : PciUnit → PciUnit) : (pciMap s f).flt = s.flt := rfl
@[simp] theorem pciMap_tsq (f : PciUnit → PciUnit) : (pciMap s f).tsq = s.tsq := rfl
@[simp] theorem pciMap_tim (f : PciUnit → PciUnit) : (pciMap s f).tim = s.tim := rfl
@[simp] theorem pciMap_harts (f : PciUnit → PciUnit) : (pciMap s f).harts = s.harts := rfl
@[simp] theorem pciMap_ctrls (f : PciUnit → PciUnit) : (pciMap s f).ctrls = s.ctrls := rfl
@[simp] theorem pciMap_cores (f : PciUnit → PciUnit) : (pciMap s f).cores = s.cores := rfl
@[simp] theorem pciMap_sch (f : PciUnit → PciUnit) : (pciMap s f).sch = s.sch := rfl
@[simp] theorem pciMap_hit (f : PciUnit → PciUnit) : (pciMap s f).hit = s.hit := rfl
@[simp] theorem pciMap_chans (f : PciUnit → PciUnit) : (pciMap s f).chans = s.chans := rfl
@[simp] theorem pciMap_emb (f : PciUnit → PciUnit) : (pciMap s f).emb = s.emb := rfl
@[simp] theorem pciMap_plc (f : PciUnit → PciUnit) : (pciMap s f).plc = s.plc := rfl
@[simp] theorem pciMap_hws (f : PciUnit → PciUnit) : (pciMap s f).hws = s.hws := rfl
@[simp] theorem pciMap_upd (f : PciUnit → PciUnit) : (pciMap s f).upd = s.upd := rfl
@[simp] theorem pciMap_boot (f : PciUnit → PciUnit) : (pciMap s f).boot = s.boot := rfl
@[simp] theorem pciMap_keep (f : PciUnit → PciUnit) : (pciMap s f).keep = s.keep := rfl
@[simp] theorem pciMap_mgmt (f : PciUnit → PciUnit) : (pciMap s f).mgmt = s.mgmt := rfl
@[simp] theorem pciMap_elec (f : PciUnit → PciUnit) : (pciMap s f).elec = s.elec := rfl

/-! ### reqPut -/

@[simp] theorem reqPut_pending (id : Nat) (r : Request) : (reqPut s id r).pending = s.pending := rfl
@[simp] theorem reqPut_freeCtr (id : Nat) (r : Request) : (reqPut s id r).freeCtr = s.freeCtr := rfl
@[simp] theorem reqPut_now (id : Nat) (r : Request) : (reqPut s id r).now = s.now := rfl
@[simp] theorem reqPut_csr (id : Nat) (r : Request) : (reqPut s id r).csr = s.csr := rfl
@[simp] theorem reqPut_mem (id : Nat) (r : Request) : (reqPut s id r).mem = s.mem := rfl
@[simp] theorem reqPut_gens (id : Nat) (r : Request) : (reqPut s id r).gens = s.gens := rfl
@[simp] theorem reqPut_hostMem (id : Nat) (r : Request) : (reqPut s id r).hostMem = s.hostMem := rfl
@[simp] theorem reqPut_rdy (id : Nat) (r : Request) : (reqPut s id r).rdy = s.rdy := rfl
@[simp] theorem reqPut_flt (id : Nat) (r : Request) : (reqPut s id r).flt = s.flt := rfl
@[simp] theorem reqPut_tsq (id : Nat) (r : Request) : (reqPut s id r).tsq = s.tsq := rfl
@[simp] theorem reqPut_tim (id : Nat) (r : Request) : (reqPut s id r).tim = s.tim := rfl
@[simp] theorem reqPut_harts (id : Nat) (r : Request) : (reqPut s id r).harts = s.harts := rfl
@[simp] theorem reqPut_ctrls (id : Nat) (r : Request) : (reqPut s id r).ctrls = s.ctrls := rfl
@[simp] theorem reqPut_cores (id : Nat) (r : Request) : (reqPut s id r).cores = s.cores := rfl
@[simp] theorem reqPut_sch (id : Nat) (r : Request) : (reqPut s id r).sch = s.sch := rfl
@[simp] theorem reqPut_hit (id : Nat) (r : Request) : (reqPut s id r).hit = s.hit := rfl
@[simp] theorem reqPut_chans (id : Nat) (r : Request) : (reqPut s id r).chans = s.chans := rfl
@[simp] theorem reqPut_emb (id : Nat) (r : Request) : (reqPut s id r).emb = s.emb := rfl
@[simp] theorem reqPut_plc (id : Nat) (r : Request) : (reqPut s id r).plc = s.plc := rfl
@[simp] theorem reqPut_hws (id : Nat) (r : Request) : (reqPut s id r).hws = s.hws := rfl
@[simp] theorem reqPut_upd (id : Nat) (r : Request) : (reqPut s id r).upd = s.upd := rfl
@[simp] theorem reqPut_boot (id : Nat) (r : Request) : (reqPut s id r).boot = s.boot := rfl
@[simp] theorem reqPut_keep (id : Nat) (r : Request) : (reqPut s id r).keep = s.keep := rfl
@[simp] theorem reqPut_mgmt (id : Nat) (r : Request) : (reqPut s id r).mgmt = s.mgmt := rfl
@[simp] theorem reqPut_elec (id : Nat) (r : Request) : (reqPut s id r).elec = s.elec := rfl

/-! ### tsqMap -/

@[simp] theorem tsqMap_pending (f : TsqUnit → TsqUnit) : (tsqMap s f).pending = s.pending := rfl
@[simp] theorem tsqMap_freeCtr (f : TsqUnit → TsqUnit) : (tsqMap s f).freeCtr = s.freeCtr := rfl
@[simp] theorem tsqMap_now (f : TsqUnit → TsqUnit) : (tsqMap s f).now = s.now := rfl
@[simp] theorem tsqMap_csr (f : TsqUnit → TsqUnit) : (tsqMap s f).csr = s.csr := rfl
@[simp] theorem tsqMap_mem (f : TsqUnit → TsqUnit) : (tsqMap s f).mem = s.mem := rfl
@[simp] theorem tsqMap_gens (f : TsqUnit → TsqUnit) : (tsqMap s f).gens = s.gens := rfl
@[simp] theorem tsqMap_hostMem (f : TsqUnit → TsqUnit) : (tsqMap s f).hostMem = s.hostMem := rfl
@[simp] theorem tsqMap_rdy (f : TsqUnit → TsqUnit) : (tsqMap s f).rdy = s.rdy := rfl
@[simp] theorem tsqMap_flt (f : TsqUnit → TsqUnit) : (tsqMap s f).flt = s.flt := rfl
@[simp] theorem tsqMap_tim (f : TsqUnit → TsqUnit) : (tsqMap s f).tim = s.tim := rfl
@[simp] theorem tsqMap_harts (f : TsqUnit → TsqUnit) : (tsqMap s f).harts = s.harts := rfl
@[simp] theorem tsqMap_ctrls (f : TsqUnit → TsqUnit) : (tsqMap s f).ctrls = s.ctrls := rfl
@[simp] theorem tsqMap_cores (f : TsqUnit → TsqUnit) : (tsqMap s f).cores = s.cores := rfl
@[simp] theorem tsqMap_sch (f : TsqUnit → TsqUnit) : (tsqMap s f).sch = s.sch := rfl
@[simp] theorem tsqMap_hit (f : TsqUnit → TsqUnit) : (tsqMap s f).hit = s.hit := rfl
@[simp] theorem tsqMap_chans (f : TsqUnit → TsqUnit) : (tsqMap s f).chans = s.chans := rfl
@[simp] theorem tsqMap_emb (f : TsqUnit → TsqUnit) : (tsqMap s f).emb = s.emb := rfl
@[simp] theorem tsqMap_plc (f : TsqUnit → TsqUnit) : (tsqMap s f).plc = s.plc := rfl
@[simp] theorem tsqMap_hws (f : TsqUnit → TsqUnit) : (tsqMap s f).hws = s.hws := rfl
@[simp] theorem tsqMap_upd (f : TsqUnit → TsqUnit) : (tsqMap s f).upd = s.upd := rfl
@[simp] theorem tsqMap_boot (f : TsqUnit → TsqUnit) : (tsqMap s f).boot = s.boot := rfl
@[simp] theorem tsqMap_keep (f : TsqUnit → TsqUnit) : (tsqMap s f).keep = s.keep := rfl
@[simp] theorem tsqMap_pci (f : TsqUnit → TsqUnit) : (tsqMap s f).pci = s.pci := rfl
@[simp] theorem tsqMap_mgmt (f : TsqUnit → TsqUnit) : (tsqMap s f).mgmt = s.mgmt := rfl
@[simp] theorem tsqMap_elec (f : TsqUnit → TsqUnit) : (tsqMap s f).elec = s.elec := rfl

/-! ### timMap -/

@[simp] theorem timMap_pending (f : TimUnit → TimUnit) : (timMap s f).pending = s.pending := rfl
@[simp] theorem timMap_freeCtr (f : TimUnit → TimUnit) : (timMap s f).freeCtr = s.freeCtr := rfl
@[simp] theorem timMap_now (f : TimUnit → TimUnit) : (timMap s f).now = s.now := rfl
@[simp] theorem timMap_csr (f : TimUnit → TimUnit) : (timMap s f).csr = s.csr := rfl
@[simp] theorem timMap_mem (f : TimUnit → TimUnit) : (timMap s f).mem = s.mem := rfl
@[simp] theorem timMap_gens (f : TimUnit → TimUnit) : (timMap s f).gens = s.gens := rfl
@[simp] theorem timMap_hostMem (f : TimUnit → TimUnit) : (timMap s f).hostMem = s.hostMem := rfl
@[simp] theorem timMap_rdy (f : TimUnit → TimUnit) : (timMap s f).rdy = s.rdy := rfl
@[simp] theorem timMap_flt (f : TimUnit → TimUnit) : (timMap s f).flt = s.flt := rfl
@[simp] theorem timMap_tsq (f : TimUnit → TimUnit) : (timMap s f).tsq = s.tsq := rfl
@[simp] theorem timMap_harts (f : TimUnit → TimUnit) : (timMap s f).harts = s.harts := rfl
@[simp] theorem timMap_ctrls (f : TimUnit → TimUnit) : (timMap s f).ctrls = s.ctrls := rfl
@[simp] theorem timMap_cores (f : TimUnit → TimUnit) : (timMap s f).cores = s.cores := rfl
@[simp] theorem timMap_sch (f : TimUnit → TimUnit) : (timMap s f).sch = s.sch := rfl
@[simp] theorem timMap_hit (f : TimUnit → TimUnit) : (timMap s f).hit = s.hit := rfl
@[simp] theorem timMap_chans (f : TimUnit → TimUnit) : (timMap s f).chans = s.chans := rfl
@[simp] theorem timMap_emb (f : TimUnit → TimUnit) : (timMap s f).emb = s.emb := rfl
@[simp] theorem timMap_plc (f : TimUnit → TimUnit) : (timMap s f).plc = s.plc := rfl
@[simp] theorem timMap_hws (f : TimUnit → TimUnit) : (timMap s f).hws = s.hws := rfl
@[simp] theorem timMap_upd (f : TimUnit → TimUnit) : (timMap s f).upd = s.upd := rfl
@[simp] theorem timMap_boot (f : TimUnit → TimUnit) : (timMap s f).boot = s.boot := rfl
@[simp] theorem timMap_keep (f : TimUnit → TimUnit) : (timMap s f).keep = s.keep := rfl
@[simp] theorem timMap_pci (f : TimUnit → TimUnit) : (timMap s f).pci = s.pci := rfl
@[simp] theorem timMap_mgmt (f : TimUnit → TimUnit) : (timMap s f).mgmt = s.mgmt := rfl
@[simp] theorem timMap_elec (f : TimUnit → TimUnit) : (timMap s f).elec = s.elec := rfl

/-! ### ptpPut -/

@[simp] theorem ptpPut_pending (p : Nat) (t : PtpPort) : (ptpPut s p t).pending = s.pending := rfl
@[simp] theorem ptpPut_freeCtr (p : Nat) (t : PtpPort) : (ptpPut s p t).freeCtr = s.freeCtr := rfl
@[simp] theorem ptpPut_now (p : Nat) (t : PtpPort) : (ptpPut s p t).now = s.now := rfl
@[simp] theorem ptpPut_csr (p : Nat) (t : PtpPort) : (ptpPut s p t).csr = s.csr := rfl
@[simp] theorem ptpPut_mem (p : Nat) (t : PtpPort) : (ptpPut s p t).mem = s.mem := rfl
@[simp] theorem ptpPut_gens (p : Nat) (t : PtpPort) : (ptpPut s p t).gens = s.gens := rfl
@[simp] theorem ptpPut_hostMem (p : Nat) (t : PtpPort) : (ptpPut s p t).hostMem = s.hostMem := rfl
@[simp] theorem ptpPut_rdy (p : Nat) (t : PtpPort) : (ptpPut s p t).rdy = s.rdy := rfl
@[simp] theorem ptpPut_flt (p : Nat) (t : PtpPort) : (ptpPut s p t).flt = s.flt := rfl
@[simp] theorem ptpPut_tsq (p : Nat) (t : PtpPort) : (ptpPut s p t).tsq = s.tsq := rfl
@[simp] theorem ptpPut_harts (p : Nat) (t : PtpPort) : (ptpPut s p t).harts = s.harts := rfl
@[simp] theorem ptpPut_ctrls (p : Nat) (t : PtpPort) : (ptpPut s p t).ctrls = s.ctrls := rfl
@[simp] theorem ptpPut_cores (p : Nat) (t : PtpPort) : (ptpPut s p t).cores = s.cores := rfl
@[simp] theorem ptpPut_sch (p : Nat) (t : PtpPort) : (ptpPut s p t).sch = s.sch := rfl
@[simp] theorem ptpPut_hit (p : Nat) (t : PtpPort) : (ptpPut s p t).hit = s.hit := rfl
@[simp] theorem ptpPut_chans (p : Nat) (t : PtpPort) : (ptpPut s p t).chans = s.chans := rfl
@[simp] theorem ptpPut_emb (p : Nat) (t : PtpPort) : (ptpPut s p t).emb = s.emb := rfl
@[simp] theorem ptpPut_plc (p : Nat) (t : PtpPort) : (ptpPut s p t).plc = s.plc := rfl
@[simp] theorem ptpPut_hws (p : Nat) (t : PtpPort) : (ptpPut s p t).hws = s.hws := rfl
@[simp] theorem ptpPut_upd (p : Nat) (t : PtpPort) : (ptpPut s p t).upd = s.upd := rfl
@[simp] theorem ptpPut_boot (p : Nat) (t : PtpPort) : (ptpPut s p t).boot = s.boot := rfl
@[simp] theorem ptpPut_keep (p : Nat) (t : PtpPort) : (ptpPut s p t).keep = s.keep := rfl
@[simp] theorem ptpPut_pci (p : Nat) (t : PtpPort) : (ptpPut s p t).pci = s.pci := rfl
@[simp] theorem ptpPut_mgmt (p : Nat) (t : PtpPort) : (ptpPut s p t).mgmt = s.mgmt := rfl
@[simp] theorem ptpPut_elec (p : Nat) (t : PtpPort) : (ptpPut s p t).elec = s.elec := rfl

/-! ### updMap -/

@[simp] theorem updMap_pending (f : UpdUnit → UpdUnit) : (updMap s f).pending = s.pending := rfl
@[simp] theorem updMap_freeCtr (f : UpdUnit → UpdUnit) : (updMap s f).freeCtr = s.freeCtr := rfl
@[simp] theorem updMap_now (f : UpdUnit → UpdUnit) : (updMap s f).now = s.now := rfl
@[simp] theorem updMap_csr (f : UpdUnit → UpdUnit) : (updMap s f).csr = s.csr := rfl
@[simp] theorem updMap_mem (f : UpdUnit → UpdUnit) : (updMap s f).mem = s.mem := rfl
@[simp] theorem updMap_gens (f : UpdUnit → UpdUnit) : (updMap s f).gens = s.gens := rfl
@[simp] theorem updMap_hostMem (f : UpdUnit → UpdUnit) : (updMap s f).hostMem = s.hostMem := rfl
@[simp] theorem updMap_rdy (f : UpdUnit → UpdUnit) : (updMap s f).rdy = s.rdy := rfl
@[simp] theorem updMap_flt (f : UpdUnit → UpdUnit) : (updMap s f).flt = s.flt := rfl
@[simp] theorem updMap_tsq (f : UpdUnit → UpdUnit) : (updMap s f).tsq = s.tsq := rfl
@[simp] theorem updMap_tim (f : UpdUnit → UpdUnit) : (updMap s f).tim = s.tim := rfl
@[simp] theorem updMap_harts (f : UpdUnit → UpdUnit) : (updMap s f).harts = s.harts := rfl
@[simp] theorem updMap_ctrls (f : UpdUnit → UpdUnit) : (updMap s f).ctrls = s.ctrls := rfl
@[simp] theorem updMap_cores (f : UpdUnit → UpdUnit) : (updMap s f).cores = s.cores := rfl
@[simp] theorem updMap_sch (f : UpdUnit → UpdUnit) : (updMap s f).sch = s.sch := rfl
@[simp] theorem updMap_hit (f : UpdUnit → UpdUnit) : (updMap s f).hit = s.hit := rfl
@[simp] theorem updMap_chans (f : UpdUnit → UpdUnit) : (updMap s f).chans = s.chans := rfl
@[simp] theorem updMap_emb (f : UpdUnit → UpdUnit) : (updMap s f).emb = s.emb := rfl
@[simp] theorem updMap_plc (f : UpdUnit → UpdUnit) : (updMap s f).plc = s.plc := rfl
@[simp] theorem updMap_hws (f : UpdUnit → UpdUnit) : (updMap s f).hws = s.hws := rfl
@[simp] theorem updMap_boot (f : UpdUnit → UpdUnit) : (updMap s f).boot = s.boot := rfl
@[simp] theorem updMap_keep (f : UpdUnit → UpdUnit) : (updMap s f).keep = s.keep := rfl
@[simp] theorem updMap_pci (f : UpdUnit → UpdUnit) : (updMap s f).pci = s.pci := rfl
@[simp] theorem updMap_mgmt (f : UpdUnit → UpdUnit) : (updMap s f).mgmt = s.mgmt := rfl
@[simp] theorem updMap_elec (f : UpdUnit → UpdUnit) : (updMap s f).elec = s.elec := rfl

/-! ### layerPut -/

@[simp] theorem layerPut_pending (l : Nat) (x : Layer) : (layerPut s l x).pending = s.pending := rfl
@[simp] theorem layerPut_freeCtr (l : Nat) (x : Layer) : (layerPut s l x).freeCtr = s.freeCtr := rfl
@[simp] theorem layerPut_now (l : Nat) (x : Layer) : (layerPut s l x).now = s.now := rfl
@[simp] theorem layerPut_csr (l : Nat) (x : Layer) : (layerPut s l x).csr = s.csr := rfl
@[simp] theorem layerPut_mem (l : Nat) (x : Layer) : (layerPut s l x).mem = s.mem := rfl
@[simp] theorem layerPut_gens (l : Nat) (x : Layer) : (layerPut s l x).gens = s.gens := rfl
@[simp] theorem layerPut_hostMem (l : Nat) (x : Layer) : (layerPut s l x).hostMem = s.hostMem := rfl
@[simp] theorem layerPut_rdy (l : Nat) (x : Layer) : (layerPut s l x).rdy = s.rdy := rfl
@[simp] theorem layerPut_flt (l : Nat) (x : Layer) : (layerPut s l x).flt = s.flt := rfl
@[simp] theorem layerPut_tsq (l : Nat) (x : Layer) : (layerPut s l x).tsq = s.tsq := rfl
@[simp] theorem layerPut_tim (l : Nat) (x : Layer) : (layerPut s l x).tim = s.tim := rfl
@[simp] theorem layerPut_harts (l : Nat) (x : Layer) : (layerPut s l x).harts = s.harts := rfl
@[simp] theorem layerPut_ctrls (l : Nat) (x : Layer) : (layerPut s l x).ctrls = s.ctrls := rfl
@[simp] theorem layerPut_cores (l : Nat) (x : Layer) : (layerPut s l x).cores = s.cores := rfl
@[simp] theorem layerPut_sch (l : Nat) (x : Layer) : (layerPut s l x).sch = s.sch := rfl
@[simp] theorem layerPut_hit (l : Nat) (x : Layer) : (layerPut s l x).hit = s.hit := rfl
@[simp] theorem layerPut_chans (l : Nat) (x : Layer) : (layerPut s l x).chans = s.chans := rfl
@[simp] theorem layerPut_emb (l : Nat) (x : Layer) : (layerPut s l x).emb = s.emb := rfl
@[simp] theorem layerPut_plc (l : Nat) (x : Layer) : (layerPut s l x).plc = s.plc := rfl
@[simp] theorem layerPut_hws (l : Nat) (x : Layer) : (layerPut s l x).hws = s.hws := rfl
@[simp] theorem layerPut_boot (l : Nat) (x : Layer) : (layerPut s l x).boot = s.boot := rfl
@[simp] theorem layerPut_keep (l : Nat) (x : Layer) : (layerPut s l x).keep = s.keep := rfl
@[simp] theorem layerPut_pci (l : Nat) (x : Layer) : (layerPut s l x).pci = s.pci := rfl
@[simp] theorem layerPut_mgmt (l : Nat) (x : Layer) : (layerPut s l x).mgmt = s.mgmt := rfl
@[simp] theorem layerPut_elec (l : Nat) (x : Layer) : (layerPut s l x).elec = s.elec := rfl

/-! ### keepMap -/

@[simp] theorem keepMap_pending (f : KeepUnit → KeepUnit) : (keepMap s f).pending = s.pending := rfl
@[simp] theorem keepMap_freeCtr (f : KeepUnit → KeepUnit) : (keepMap s f).freeCtr = s.freeCtr := rfl
@[simp] theorem keepMap_now (f : KeepUnit → KeepUnit) : (keepMap s f).now = s.now := rfl
@[simp] theorem keepMap_csr (f : KeepUnit → KeepUnit) : (keepMap s f).csr = s.csr := rfl
@[simp] theorem keepMap_mem (f : KeepUnit → KeepUnit) : (keepMap s f).mem = s.mem := rfl
@[simp] theorem keepMap_gens (f : KeepUnit → KeepUnit) : (keepMap s f).gens = s.gens := rfl
@[simp] theorem keepMap_hostMem (f : KeepUnit → KeepUnit) : (keepMap s f).hostMem = s.hostMem := rfl
@[simp] theorem keepMap_rdy (f : KeepUnit → KeepUnit) : (keepMap s f).rdy = s.rdy := rfl
@[simp] theorem keepMap_flt (f : KeepUnit → KeepUnit) : (keepMap s f).flt = s.flt := rfl
@[simp] theorem keepMap_tsq (f : KeepUnit → KeepUnit) : (keepMap s f).tsq = s.tsq := rfl
@[simp] theorem keepMap_tim (f : KeepUnit → KeepUnit) : (keepMap s f).tim = s.tim := rfl
@[simp] theorem keepMap_harts (f : KeepUnit → KeepUnit) : (keepMap s f).harts = s.harts := rfl
@[simp] theorem keepMap_ctrls (f : KeepUnit → KeepUnit) : (keepMap s f).ctrls = s.ctrls := rfl
@[simp] theorem keepMap_cores (f : KeepUnit → KeepUnit) : (keepMap s f).cores = s.cores := rfl
@[simp] theorem keepMap_sch (f : KeepUnit → KeepUnit) : (keepMap s f).sch = s.sch := rfl
@[simp] theorem keepMap_hit (f : KeepUnit → KeepUnit) : (keepMap s f).hit = s.hit := rfl
@[simp] theorem keepMap_chans (f : KeepUnit → KeepUnit) : (keepMap s f).chans = s.chans := rfl
@[simp] theorem keepMap_emb (f : KeepUnit → KeepUnit) : (keepMap s f).emb = s.emb := rfl
@[simp] theorem keepMap_plc (f : KeepUnit → KeepUnit) : (keepMap s f).plc = s.plc := rfl
@[simp] theorem keepMap_hws (f : KeepUnit → KeepUnit) : (keepMap s f).hws = s.hws := rfl
@[simp] theorem keepMap_upd (f : KeepUnit → KeepUnit) : (keepMap s f).upd = s.upd := rfl
@[simp] theorem keepMap_boot (f : KeepUnit → KeepUnit) : (keepMap s f).boot = s.boot := rfl
@[simp] theorem keepMap_pci (f : KeepUnit → KeepUnit) : (keepMap s f).pci = s.pci := rfl
@[simp] theorem keepMap_mgmt (f : KeepUnit → KeepUnit) : (keepMap s f).mgmt = s.mgmt := rfl
@[simp] theorem keepMap_elec (f : KeepUnit → KeepUnit) : (keepMap s f).elec = s.elec := rfl

/-! ### bootMap -/

@[simp] theorem bootMap_pending (f : BootUnit → BootUnit) : (bootMap s f).pending = s.pending := rfl
@[simp] theorem bootMap_freeCtr (f : BootUnit → BootUnit) : (bootMap s f).freeCtr = s.freeCtr := rfl
@[simp] theorem bootMap_now (f : BootUnit → BootUnit) : (bootMap s f).now = s.now := rfl
@[simp] theorem bootMap_csr (f : BootUnit → BootUnit) : (bootMap s f).csr = s.csr := rfl
@[simp] theorem bootMap_mem (f : BootUnit → BootUnit) : (bootMap s f).mem = s.mem := rfl
@[simp] theorem bootMap_gens (f : BootUnit → BootUnit) : (bootMap s f).gens = s.gens := rfl
@[simp] theorem bootMap_hostMem (f : BootUnit → BootUnit) : (bootMap s f).hostMem = s.hostMem := rfl
@[simp] theorem bootMap_rdy (f : BootUnit → BootUnit) : (bootMap s f).rdy = s.rdy := rfl
@[simp] theorem bootMap_flt (f : BootUnit → BootUnit) : (bootMap s f).flt = s.flt := rfl
@[simp] theorem bootMap_tsq (f : BootUnit → BootUnit) : (bootMap s f).tsq = s.tsq := rfl
@[simp] theorem bootMap_tim (f : BootUnit → BootUnit) : (bootMap s f).tim = s.tim := rfl
@[simp] theorem bootMap_harts (f : BootUnit → BootUnit) : (bootMap s f).harts = s.harts := rfl
@[simp] theorem bootMap_ctrls (f : BootUnit → BootUnit) : (bootMap s f).ctrls = s.ctrls := rfl
@[simp] theorem bootMap_cores (f : BootUnit → BootUnit) : (bootMap s f).cores = s.cores := rfl
@[simp] theorem bootMap_sch (f : BootUnit → BootUnit) : (bootMap s f).sch = s.sch := rfl
@[simp] theorem bootMap_hit (f : BootUnit → BootUnit) : (bootMap s f).hit = s.hit := rfl
@[simp] theorem bootMap_chans (f : BootUnit → BootUnit) : (bootMap s f).chans = s.chans := rfl
@[simp] theorem bootMap_emb (f : BootUnit → BootUnit) : (bootMap s f).emb = s.emb := rfl
@[simp] theorem bootMap_plc (f : BootUnit → BootUnit) : (bootMap s f).plc = s.plc := rfl
@[simp] theorem bootMap_hws (f : BootUnit → BootUnit) : (bootMap s f).hws = s.hws := rfl
@[simp] theorem bootMap_upd (f : BootUnit → BootUnit) : (bootMap s f).upd = s.upd := rfl
@[simp] theorem bootMap_keep (f : BootUnit → BootUnit) : (bootMap s f).keep = s.keep := rfl
@[simp] theorem bootMap_pci (f : BootUnit → BootUnit) : (bootMap s f).pci = s.pci := rfl
@[simp] theorem bootMap_mgmt (f : BootUnit → BootUnit) : (bootMap s f).mgmt = s.mgmt := rfl
@[simp] theorem bootMap_elec (f : BootUnit → BootUnit) : (bootMap s f).elec = s.elec := rfl

/-! ### elecMap -/

@[simp] theorem elecMap_pending (f : ElecUnit → ElecUnit) : (elecMap s f).pending = s.pending := rfl
@[simp] theorem elecMap_freeCtr (f : ElecUnit → ElecUnit) : (elecMap s f).freeCtr = s.freeCtr := rfl
@[simp] theorem elecMap_now (f : ElecUnit → ElecUnit) : (elecMap s f).now = s.now := rfl
@[simp] theorem elecMap_csr (f : ElecUnit → ElecUnit) : (elecMap s f).csr = s.csr := rfl
@[simp] theorem elecMap_mem (f : ElecUnit → ElecUnit) : (elecMap s f).mem = s.mem := rfl
@[simp] theorem elecMap_gens (f : ElecUnit → ElecUnit) : (elecMap s f).gens = s.gens := rfl
@[simp] theorem elecMap_hostMem (f : ElecUnit → ElecUnit) : (elecMap s f).hostMem = s.hostMem := rfl
@[simp] theorem elecMap_rdy (f : ElecUnit → ElecUnit) : (elecMap s f).rdy = s.rdy := rfl
@[simp] theorem elecMap_flt (f : ElecUnit → ElecUnit) : (elecMap s f).flt = s.flt := rfl
@[simp] theorem elecMap_tsq (f : ElecUnit → ElecUnit) : (elecMap s f).tsq = s.tsq := rfl
@[simp] theorem elecMap_tim (f : ElecUnit → ElecUnit) : (elecMap s f).tim = s.tim := rfl
@[simp] theorem elecMap_harts (f : ElecUnit → ElecUnit) : (elecMap s f).harts = s.harts := rfl
@[simp] theorem elecMap_ctrls (f : ElecUnit → ElecUnit) : (elecMap s f).ctrls = s.ctrls := rfl
@[simp] theorem elecMap_cores (f : ElecUnit → ElecUnit) : (elecMap s f).cores = s.cores := rfl
@[simp] theorem elecMap_sch (f : ElecUnit → ElecUnit) : (elecMap s f).sch = s.sch := rfl
@[simp] theorem elecMap_hit (f : ElecUnit → ElecUnit) : (elecMap s f).hit = s.hit := rfl
@[simp] theorem elecMap_chans (f : ElecUnit → ElecUnit) : (elecMap s f).chans = s.chans := rfl
@[simp] theorem elecMap_emb (f : ElecUnit → ElecUnit) : (elecMap s f).emb = s.emb := rfl
@[simp] theorem elecMap_plc (f : ElecUnit → ElecUnit) : (elecMap s f).plc = s.plc := rfl
@[simp] theorem elecMap_hws (f : ElecUnit → ElecUnit) : (elecMap s f).hws = s.hws := rfl
@[simp] theorem elecMap_upd (f : ElecUnit → ElecUnit) : (elecMap s f).upd = s.upd := rfl
@[simp] theorem elecMap_boot (f : ElecUnit → ElecUnit) : (elecMap s f).boot = s.boot := rfl
@[simp] theorem elecMap_keep (f : ElecUnit → ElecUnit) : (elecMap s f).keep = s.keep := rfl
@[simp] theorem elecMap_pci (f : ElecUnit → ElecUnit) : (elecMap s f).pci = s.pci := rfl
@[simp] theorem elecMap_mgmt (f : ElecUnit → ElecUnit) : (elecMap s f).mgmt = s.mgmt := rfl

/-! ### planLater -/

@[simp] theorem planLater_pending (l : List (List Byte)) : (planLater s l).pending = s.pending := rfl
@[simp] theorem planLater_freeCtr (l : List (List Byte)) : (planLater s l).freeCtr = s.freeCtr := rfl
@[simp] theorem planLater_now (l : List (List Byte)) : (planLater s l).now = s.now := rfl
@[simp] theorem planLater_csr (l : List (List Byte)) : (planLater s l).csr = s.csr := rfl
@[simp] theorem planLater_mem (l : List (List Byte)) : (planLater s l).mem = s.mem := rfl
@[simp] theorem planLater_gens (l : List (List Byte)) : (planLater s l).gens = s.gens := rfl
@[simp] theorem planLater_hostMem (l : List (List Byte)) : (planLater s l).hostMem = s.hostMem := rfl
@[simp] theorem planLater_rdy (l : List (List Byte)) : (planLater s l).rdy = s.rdy := rfl
@[simp] theorem planLater_flt (l : List (List Byte)) : (planLater s l).flt = s.flt := rfl
@[simp] theorem planLater_tsq (l : List (List Byte)) : (planLater s l).tsq = s.tsq := rfl
@[simp] theorem planLater_tim (l : List (List Byte)) : (planLater s l).tim = s.tim := rfl
@[simp] theorem planLater_harts (l : List (List Byte)) : (planLater s l).harts = s.harts := rfl
@[simp] theorem planLater_ctrls (l : List (List Byte)) : (planLater s l).ctrls = s.ctrls := rfl
@[simp] theorem planLater_cores (l : List (List Byte)) : (planLater s l).cores = s.cores := rfl
@[simp] theorem planLater_sch (l : List (List Byte)) : (planLater s l).sch = s.sch := rfl
@[simp] theorem planLater_hit (l : List (List Byte)) : (planLater s l).hit = s.hit := rfl
@[simp] theorem planLater_chans (l : List (List Byte)) : (planLater s l).chans = s.chans := rfl
@[simp] theorem planLater_plc (l : List (List Byte)) : (planLater s l).plc = s.plc := rfl
@[simp] theorem planLater_hws (l : List (List Byte)) : (planLater s l).hws = s.hws := rfl
@[simp] theorem planLater_upd (l : List (List Byte)) : (planLater s l).upd = s.upd := rfl
@[simp] theorem planLater_boot (l : List (List Byte)) : (planLater s l).boot = s.boot := rfl
@[simp] theorem planLater_keep (l : List (List Byte)) : (planLater s l).keep = s.keep := rfl
@[simp] theorem planLater_pci (l : List (List Byte)) : (planLater s l).pci = s.pci := rfl
@[simp] theorem planLater_mgmt (l : List (List Byte)) : (planLater s l).mgmt = s.mgmt := rfl
@[simp] theorem planLater_elec (l : List (List Byte)) : (planLater s l).elec = s.elec := rfl

/-! ### raiseGen -/

@[simp] theorem raiseGen_pending (p : Nat) : (raiseGen s p).pending = s.pending := rfl
@[simp] theorem raiseGen_freeCtr (p : Nat) : (raiseGen s p).freeCtr = s.freeCtr := rfl
@[simp] theorem raiseGen_now (p : Nat) : (raiseGen s p).now = s.now := rfl
@[simp] theorem raiseGen_csr (p : Nat) : (raiseGen s p).csr = s.csr := rfl
@[simp] theorem raiseGen_mem (p : Nat) : (raiseGen s p).mem = s.mem := rfl
@[simp] theorem raiseGen_hostMem (p : Nat) : (raiseGen s p).hostMem = s.hostMem := rfl
@[simp] theorem raiseGen_rdy (p : Nat) : (raiseGen s p).rdy = s.rdy := rfl
@[simp] theorem raiseGen_flt (p : Nat) : (raiseGen s p).flt = s.flt := rfl
@[simp] theorem raiseGen_tsq (p : Nat) : (raiseGen s p).tsq = s.tsq := rfl
@[simp] theorem raiseGen_tim (p : Nat) : (raiseGen s p).tim = s.tim := rfl
@[simp] theorem raiseGen_harts (p : Nat) : (raiseGen s p).harts = s.harts := rfl
@[simp] theorem raiseGen_ctrls (p : Nat) : (raiseGen s p).ctrls = s.ctrls := rfl
@[simp] theorem raiseGen_cores (p : Nat) : (raiseGen s p).cores = s.cores := rfl
@[simp] theorem raiseGen_sch (p : Nat) : (raiseGen s p).sch = s.sch := rfl
@[simp] theorem raiseGen_hit (p : Nat) : (raiseGen s p).hit = s.hit := rfl
@[simp] theorem raiseGen_chans (p : Nat) : (raiseGen s p).chans = s.chans := rfl
@[simp] theorem raiseGen_emb (p : Nat) : (raiseGen s p).emb = s.emb := rfl
@[simp] theorem raiseGen_plc (p : Nat) : (raiseGen s p).plc = s.plc := rfl
@[simp] theorem raiseGen_hws (p : Nat) : (raiseGen s p).hws = s.hws := rfl
@[simp] theorem raiseGen_upd (p : Nat) : (raiseGen s p).upd = s.upd := rfl
@[simp] theorem raiseGen_boot (p : Nat) : (raiseGen s p).boot = s.boot := rfl
@[simp] theorem raiseGen_keep (p : Nat) : (raiseGen s p).keep = s.keep := rfl
@[simp] theorem raiseGen_pci (p : Nat) : (raiseGen s p).pci = s.pci := rfl
@[simp] theorem raiseGen_mgmt (p : Nat) : (raiseGen s p).mgmt = s.mgmt := rfl
@[simp] theorem raiseGen_elec (p : Nat) : (raiseGen s p).elec = s.elec := rfl

/-! ### portPut -/

@[simp] theorem portPut_pending (p : Nat) (t : Port) : (portPut s p t).pending = s.pending := rfl
@[simp] theorem portPut_freeCtr (p : Nat) (t : Port) : (portPut s p t).freeCtr = s.freeCtr := rfl
@[simp] theorem portPut_now (p : Nat) (t : Port) : (portPut s p t).now = s.now := rfl
@[simp] theorem portPut_csr (p : Nat) (t : Port) : (portPut s p t).csr = s.csr := rfl
@[simp] theorem portPut_mem (p : Nat) (t : Port) : (portPut s p t).mem = s.mem := rfl
@[simp] theorem portPut_gens (p : Nat) (t : Port) : (portPut s p t).gens = s.gens := rfl
@[simp] theorem portPut_hostMem (p : Nat) (t : Port) : (portPut s p t).hostMem = s.hostMem := rfl
@[simp] theorem portPut_rdy (p : Nat) (t : Port) : (portPut s p t).rdy = s.rdy := rfl
@[simp] theorem portPut_flt (p : Nat) (t : Port) : (portPut s p t).flt = s.flt := rfl
@[simp] theorem portPut_tsq (p : Nat) (t : Port) : (portPut s p t).tsq = s.tsq := rfl
@[simp] theorem portPut_tim (p : Nat) (t : Port) : (portPut s p t).tim = s.tim := rfl
@[simp] theorem portPut_harts (p : Nat) (t : Port) : (portPut s p t).harts = s.harts := rfl
@[simp] theorem portPut_ctrls (p : Nat) (t : Port) : (portPut s p t).ctrls = s.ctrls := rfl
@[simp] theorem portPut_cores (p : Nat) (t : Port) : (portPut s p t).cores = s.cores := rfl
@[simp] theorem portPut_sch (p : Nat) (t : Port) : (portPut s p t).sch = s.sch := rfl
@[simp] theorem portPut_hit (p : Nat) (t : Port) : (portPut s p t).hit = s.hit := rfl
@[simp] theorem portPut_chans (p : Nat) (t : Port) : (portPut s p t).chans = s.chans := rfl
@[simp] theorem portPut_emb (p : Nat) (t : Port) : (portPut s p t).emb = s.emb := rfl
@[simp] theorem portPut_plc (p : Nat) (t : Port) : (portPut s p t).plc = s.plc := rfl
@[simp] theorem portPut_upd (p : Nat) (t : Port) : (portPut s p t).upd = s.upd := rfl
@[simp] theorem portPut_boot (p : Nat) (t : Port) : (portPut s p t).boot = s.boot := rfl
@[simp] theorem portPut_keep (p : Nat) (t : Port) : (portPut s p t).keep = s.keep := rfl
@[simp] theorem portPut_pci (p : Nat) (t : Port) : (portPut s p t).pci = s.pci := rfl
@[simp] theorem portPut_mgmt (p : Nat) (t : Port) : (portPut s p t).mgmt = s.mgmt := rfl
@[simp] theorem portPut_elec (p : Nat) (t : Port) : (portPut s p t).elec = s.elec := rfl

/-! ### tablePut -/

@[simp] theorem tablePut_pending (id : Nat) (t : Table) : (tablePut s id t).pending = s.pending := rfl
@[simp] theorem tablePut_freeCtr (id : Nat) (t : Table) : (tablePut s id t).freeCtr = s.freeCtr := rfl
@[simp] theorem tablePut_now (id : Nat) (t : Table) : (tablePut s id t).now = s.now := rfl
@[simp] theorem tablePut_csr (id : Nat) (t : Table) : (tablePut s id t).csr = s.csr := rfl
@[simp] theorem tablePut_mem (id : Nat) (t : Table) : (tablePut s id t).mem = s.mem := rfl
@[simp] theorem tablePut_gens (id : Nat) (t : Table) : (tablePut s id t).gens = s.gens := rfl
@[simp] theorem tablePut_hostMem (id : Nat) (t : Table) : (tablePut s id t).hostMem = s.hostMem := rfl
@[simp] theorem tablePut_rdy (id : Nat) (t : Table) : (tablePut s id t).rdy = s.rdy := rfl
@[simp] theorem tablePut_flt (id : Nat) (t : Table) : (tablePut s id t).flt = s.flt := rfl
@[simp] theorem tablePut_tsq (id : Nat) (t : Table) : (tablePut s id t).tsq = s.tsq := rfl
@[simp] theorem tablePut_tim (id : Nat) (t : Table) : (tablePut s id t).tim = s.tim := rfl
@[simp] theorem tablePut_harts (id : Nat) (t : Table) : (tablePut s id t).harts = s.harts := rfl
@[simp] theorem tablePut_ctrls (id : Nat) (t : Table) : (tablePut s id t).ctrls = s.ctrls := rfl
@[simp] theorem tablePut_cores (id : Nat) (t : Table) : (tablePut s id t).cores = s.cores := rfl
@[simp] theorem tablePut_sch (id : Nat) (t : Table) : (tablePut s id t).sch = s.sch := rfl
@[simp] theorem tablePut_hit (id : Nat) (t : Table) : (tablePut s id t).hit = s.hit := rfl
@[simp] theorem tablePut_chans (id : Nat) (t : Table) : (tablePut s id t).chans = s.chans := rfl
@[simp] theorem tablePut_plc (id : Nat) (t : Table) : (tablePut s id t).plc = s.plc := rfl
@[simp] theorem tablePut_hws (id : Nat) (t : Table) : (tablePut s id t).hws = s.hws := rfl
@[simp] theorem tablePut_upd (id : Nat) (t : Table) : (tablePut s id t).upd = s.upd := rfl
@[simp] theorem tablePut_boot (id : Nat) (t : Table) : (tablePut s id t).boot = s.boot := rfl
@[simp] theorem tablePut_keep (id : Nat) (t : Table) : (tablePut s id t).keep = s.keep := rfl
@[simp] theorem tablePut_pci (id : Nat) (t : Table) : (tablePut s id t).pci = s.pci := rfl
@[simp] theorem tablePut_mgmt (id : Nat) (t : Table) : (tablePut s id t).mgmt = s.mgmt := rfl
@[simp] theorem tablePut_elec (id : Nat) (t : Table) : (tablePut s id t).elec = s.elec := rfl

/-! ### hitchPut -/

@[simp] theorem hitchPut_pending (h : Nat) (x : Hitch) : (hitchPut s h x).pending = s.pending := rfl
@[simp] theorem hitchPut_freeCtr (h : Nat) (x : Hitch) : (hitchPut s h x).freeCtr = s.freeCtr := rfl
@[simp] theorem hitchPut_now (h : Nat) (x : Hitch) : (hitchPut s h x).now = s.now := rfl
@[simp] theorem hitchPut_csr (h : Nat) (x : Hitch) : (hitchPut s h x).csr = s.csr := rfl
@[simp] theorem hitchPut_mem (h : Nat) (x : Hitch) : (hitchPut s h x).mem = s.mem := rfl
@[simp] theorem hitchPut_gens (h : Nat) (x : Hitch) : (hitchPut s h x).gens = s.gens := rfl
@[simp] theorem hitchPut_hostMem (h : Nat) (x : Hitch) : (hitchPut s h x).hostMem = s.hostMem := rfl
@[simp] theorem hitchPut_rdy (h : Nat) (x : Hitch) : (hitchPut s h x).rdy = s.rdy := rfl
@[simp] theorem hitchPut_flt (h : Nat) (x : Hitch) : (hitchPut s h x).flt = s.flt := rfl
@[simp] theorem hitchPut_tsq (h : Nat) (x : Hitch) : (hitchPut s h x).tsq = s.tsq := rfl
@[simp] theorem hitchPut_tim (h : Nat) (x : Hitch) : (hitchPut s h x).tim = s.tim := rfl
@[simp] theorem hitchPut_harts (h : Nat) (x : Hitch) : (hitchPut s h x).harts = s.harts := rfl
@[simp] theorem hitchPut_ctrls (h : Nat) (x : Hitch) : (hitchPut s h x).ctrls = s.ctrls := rfl
@[simp] theorem hitchPut_cores (h : Nat) (x : Hitch) : (hitchPut s h x).cores = s.cores := rfl
@[simp] theorem hitchPut_sch (h : Nat) (x : Hitch) : (hitchPut s h x).sch = s.sch := rfl
@[simp] theorem hitchPut_chans (h : Nat) (x : Hitch) : (hitchPut s h x).chans = s.chans := rfl
@[simp] theorem hitchPut_emb (h : Nat) (x : Hitch) : (hitchPut s h x).emb = s.emb := rfl
@[simp] theorem hitchPut_plc (h : Nat) (x : Hitch) : (hitchPut s h x).plc = s.plc := rfl
@[simp] theorem hitchPut_hws (h : Nat) (x : Hitch) : (hitchPut s h x).hws = s.hws := rfl
@[simp] theorem hitchPut_upd (h : Nat) (x : Hitch) : (hitchPut s h x).upd = s.upd := rfl
@[simp] theorem hitchPut_boot (h : Nat) (x : Hitch) : (hitchPut s h x).boot = s.boot := rfl
@[simp] theorem hitchPut_keep (h : Nat) (x : Hitch) : (hitchPut s h x).keep = s.keep := rfl
@[simp] theorem hitchPut_pci (h : Nat) (x : Hitch) : (hitchPut s h x).pci = s.pci := rfl
@[simp] theorem hitchPut_mgmt (h : Nat) (x : Hitch) : (hitchPut s h x).mgmt = s.mgmt := rfl
@[simp] theorem hitchPut_elec (h : Nat) (x : Hitch) : (hitchPut s h x).elec = s.elec := rfl

/-! ### barPut -/

@[simp] theorem barPut_pending (b : Nat) (x : Barrier) : (barPut s b x).pending = s.pending := rfl
@[simp] theorem barPut_freeCtr (b : Nat) (x : Barrier) : (barPut s b x).freeCtr = s.freeCtr := rfl
@[simp] theorem barPut_now (b : Nat) (x : Barrier) : (barPut s b x).now = s.now := rfl
@[simp] theorem barPut_csr (b : Nat) (x : Barrier) : (barPut s b x).csr = s.csr := rfl
@[simp] theorem barPut_mem (b : Nat) (x : Barrier) : (barPut s b x).mem = s.mem := rfl
@[simp] theorem barPut_gens (b : Nat) (x : Barrier) : (barPut s b x).gens = s.gens := rfl
@[simp] theorem barPut_hostMem (b : Nat) (x : Barrier) : (barPut s b x).hostMem = s.hostMem := rfl
@[simp] theorem barPut_rdy (b : Nat) (x : Barrier) : (barPut s b x).rdy = s.rdy := rfl
@[simp] theorem barPut_flt (b : Nat) (x : Barrier) : (barPut s b x).flt = s.flt := rfl
@[simp] theorem barPut_tsq (b : Nat) (x : Barrier) : (barPut s b x).tsq = s.tsq := rfl
@[simp] theorem barPut_tim (b : Nat) (x : Barrier) : (barPut s b x).tim = s.tim := rfl
@[simp] theorem barPut_harts (b : Nat) (x : Barrier) : (barPut s b x).harts = s.harts := rfl
@[simp] theorem barPut_ctrls (b : Nat) (x : Barrier) : (barPut s b x).ctrls = s.ctrls := rfl
@[simp] theorem barPut_cores (b : Nat) (x : Barrier) : (barPut s b x).cores = s.cores := rfl
@[simp] theorem barPut_sch (b : Nat) (x : Barrier) : (barPut s b x).sch = s.sch := rfl
@[simp] theorem barPut_chans (b : Nat) (x : Barrier) : (barPut s b x).chans = s.chans := rfl
@[simp] theorem barPut_emb (b : Nat) (x : Barrier) : (barPut s b x).emb = s.emb := rfl
@[simp] theorem barPut_plc (b : Nat) (x : Barrier) : (barPut s b x).plc = s.plc := rfl
@[simp] theorem barPut_hws (b : Nat) (x : Barrier) : (barPut s b x).hws = s.hws := rfl
@[simp] theorem barPut_upd (b : Nat) (x : Barrier) : (barPut s b x).upd = s.upd := rfl
@[simp] theorem barPut_boot (b : Nat) (x : Barrier) : (barPut s b x).boot = s.boot := rfl
@[simp] theorem barPut_keep (b : Nat) (x : Barrier) : (barPut s b x).keep = s.keep := rfl
@[simp] theorem barPut_pci (b : Nat) (x : Barrier) : (barPut s b x).pci = s.pci := rfl
@[simp] theorem barPut_mgmt (b : Nat) (x : Barrier) : (barPut s b x).mgmt = s.mgmt := rfl
@[simp] theorem barPut_elec (b : Nat) (x : Barrier) : (barPut s b x).elec = s.elec := rfl

/-! ### queuePut -/

@[simp] theorem queuePut_pending (q : Nat) (x : QueuePair) : (queuePut s q x).pending = s.pending := rfl
@[simp] theorem queuePut_freeCtr (q : Nat) (x : QueuePair) : (queuePut s q x).freeCtr = s.freeCtr := rfl
@[simp] theorem queuePut_now (q : Nat) (x : QueuePair) : (queuePut s q x).now = s.now := rfl
@[simp] theorem queuePut_csr (q : Nat) (x : QueuePair) : (queuePut s q x).csr = s.csr := rfl
@[simp] theorem queuePut_mem (q : Nat) (x : QueuePair) : (queuePut s q x).mem = s.mem := rfl
@[simp] theorem queuePut_gens (q : Nat) (x : QueuePair) : (queuePut s q x).gens = s.gens := rfl
@[simp] theorem queuePut_hostMem (q : Nat) (x : QueuePair) : (queuePut s q x).hostMem = s.hostMem := rfl
@[simp] theorem queuePut_rdy (q : Nat) (x : QueuePair) : (queuePut s q x).rdy = s.rdy := rfl
@[simp] theorem queuePut_flt (q : Nat) (x : QueuePair) : (queuePut s q x).flt = s.flt := rfl
@[simp] theorem queuePut_tsq (q : Nat) (x : QueuePair) : (queuePut s q x).tsq = s.tsq := rfl
@[simp] theorem queuePut_tim (q : Nat) (x : QueuePair) : (queuePut s q x).tim = s.tim := rfl
@[simp] theorem queuePut_harts (q : Nat) (x : QueuePair) : (queuePut s q x).harts = s.harts := rfl
@[simp] theorem queuePut_ctrls (q : Nat) (x : QueuePair) : (queuePut s q x).ctrls = s.ctrls := rfl
@[simp] theorem queuePut_cores (q : Nat) (x : QueuePair) : (queuePut s q x).cores = s.cores := rfl
@[simp] theorem queuePut_sch (q : Nat) (x : QueuePair) : (queuePut s q x).sch = s.sch := rfl
@[simp] theorem queuePut_hit (q : Nat) (x : QueuePair) : (queuePut s q x).hit = s.hit := rfl
@[simp] theorem queuePut_chans (q : Nat) (x : QueuePair) : (queuePut s q x).chans = s.chans := rfl
@[simp] theorem queuePut_emb (q : Nat) (x : QueuePair) : (queuePut s q x).emb = s.emb := rfl
@[simp] theorem queuePut_plc (q : Nat) (x : QueuePair) : (queuePut s q x).plc = s.plc := rfl
@[simp] theorem queuePut_hws (q : Nat) (x : QueuePair) : (queuePut s q x).hws = s.hws := rfl
@[simp] theorem queuePut_upd (q : Nat) (x : QueuePair) : (queuePut s q x).upd = s.upd := rfl
@[simp] theorem queuePut_boot (q : Nat) (x : QueuePair) : (queuePut s q x).boot = s.boot := rfl
@[simp] theorem queuePut_keep (q : Nat) (x : QueuePair) : (queuePut s q x).keep = s.keep := rfl
@[simp] theorem queuePut_mgmt (q : Nat) (x : QueuePair) : (queuePut s q x).mgmt = s.mgmt := rfl
@[simp] theorem queuePut_elec (q : Nat) (x : QueuePair) : (queuePut s q x).elec = s.elec := rfl

/-! ### Reading back -/

variable {s}

theorem rget_rset_self (h : Canonical s) (a v : Nat) : rget (rset s a v) a = v % 2 ^ 64 := by
  unfold rget rset
  simp [mget_mset_self h.csr]

theorem rget_rset_ne {a b : Nat} (v : Nat) (h : b ≠ a) : rget (rset s a v) b = rget s b := by
  unfold rget rset
  rw [mget_mset_ne _ h]

theorem rdyGet_rdyPut_self (h : Canonical s) (i : Nat) (e : RdyEntry) : rdyGet (rdyPut s i e) i = e := mget_mset_self h.rdy i e

theorem rdyGet_rdyPut_ne {i j : Nat} (e : RdyEntry) (h : j ≠ i) : rdyGet (rdyPut s i e) j = rdyGet s j := mget_mset_ne e h

theorem hartAt_hartSet_self (h : Canonical s) (n : Nat) (t : HartSt) : hartAt (hartSet s n t) n = t := mget_mset_self h.harts n t

theorem hartAt_hartSet_ne {n m : Nat} (t : HartSt) (h : m ≠ n) : hartAt (hartSet s n t) m = hartAt s m := mget_mset_ne t h

theorem hart_putHart_self (h : Canonical s) (k : Hart) (t : HartSt) : hart (putHart s k t) k = t := hartAt_hartSet_self h _ t

/-- Two harts have one number only where they are one. -/
theorem hartNo_inj {h k : Hart} (e : hartNo h = hartNo k) : h = k := by
  cases h <;> cases k <;> simp only [hartNo] at e
  · rename_i c n d m
    congr 1 <;> apply Fin.ext <;> omega
  · rename_i c n k; omega
  · rename_i k c n; omega
  · rename_i k j
    congr 1
    apply Fin.ext
    omega

theorem hart_putHart_ne {h k : Hart} (t : HartSt) (e : k ≠ h) : hart (putHart s h t) k = hart s k :=
  hartAt_hartSet_ne t fun x => e (hartNo_inj x)

theorem coreGet_corePut_self (h : Canonical s) (p : Nat) (c : CoreSt) : coreGet (corePut s p c) p = c := mget_mset_self h.cores p c

theorem chanGet_chanPut_self (h : Canonical s) (c : Nat) (x : Chan) : chanGet (chanPut s c x) c = x := mget_mset_self h.chans c x

theorem taskGet_taskPut_self (id : Nat) (t : Task) : taskGet (taskPut s id t) id = some t := pfind_pput_self _ id t

theorem reqGet_reqPut_self (id : Nat) (r : Request) : reqGet (reqPut s id r) id = some r := pfind_pput_self _ id r

end Sys2Proof.Machine
end

