-- ==== Sys2Proof/Laws/Shared.lean ====
section
/-! SUPPORT. All that the shared operations on counters, fault records, time and memory can do. -/

namespace Sys2Proof.Machine

variable {s t u : State}

/-! ### Counters -/

/-- Adding to a counter touches registers alone. -/
theorem bump_only (s : State) (a n : Nat) : bump s a n = { s with csr := (bump s a n).csr } := by
  unfold bump
  dsimp only
  generalize (if regWide a = true then 63 else 31) = top
  by_cases h1 : n = 0 ∨ bit (rget s a) top = true
  · simp only [if_pos h1]
  · by_cases h2 : rget s a + n < 2 ^ top - 1
    · simp only [if_neg h1, if_pos h2]
      rfl
    · simp only [if_neg h1, if_neg h2]
      cases corWindow a <;> rfl

theorem bump1_only (s : State) (a : Nat) : bump1 s a = { s with csr := (bump1 s a).csr } := bump_only s a 1

@[simp] theorem bump_pending (s : State) (a n : Nat) : (bump s a n).pending = s.pending := by rw [bump_only]
@[simp] theorem bump_now (s : State) (a n : Nat) : (bump s a n).now = s.now := by rw [bump_only]
@[simp] theorem bump_freeCtr (s : State) (a n : Nat) : (bump s a n).freeCtr = s.freeCtr := by rw [bump_only]
@[simp] theorem bump_mem (s : State) (a n : Nat) : (bump s a n).mem = s.mem := by rw [bump_only]
@[simp] theorem bump_gens (s : State) (a n : Nat) : (bump s a n).gens = s.gens := by rw [bump_only]
@[simp] theorem bump_hostMem (s : State) (a n : Nat) : (bump s a n).hostMem = s.hostMem := by rw [bump_only]
@[simp] theorem bump_rdy (s : State) (a n : Nat) : (bump s a n).rdy = s.rdy := by rw [bump_only]
@[simp] theorem bump_flt (s : State) (a n : Nat) : (bump s a n).flt = s.flt := by rw [bump_only]
@[simp] theorem bump_tsq (s : State) (a n : Nat) : (bump s a n).tsq = s.tsq := by rw [bump_only]
@[simp] theorem bump_tim (s : State) (a n : Nat) : (bump s a n).tim = s.tim := by rw [bump_only]
@[simp] theorem bump_harts (s : State) (a n : Nat) : (bump s a n).harts = s.harts := by rw [bump_only]
@[simp] theorem bump_ctrls (s : State) (a n : Nat) : (bump s a n).ctrls = s.ctrls := by rw [bump_only]
@[simp] theorem bump_cores (s : State) (a n : Nat) : (bump s a n).cores = s.cores := by rw [bump_only]
@[simp] theorem bump_sch (s : State) (a n : Nat) : (bump s a n).sch = s.sch := by rw [bump_only]
@[simp] theorem bump_hit (s : State) (a n : Nat) : (bump s a n).hit = s.hit := by rw [bump_only]
@[simp] theorem bump_chans (s : State) (a n : Nat) : (bump s a n).chans = s.chans := by rw [bump_only]
@[simp] theorem bump_emb (s : State) (a n : Nat) : (bump s a n).emb = s.emb := by rw [bump_only]
@[simp] theorem bump_plc (s : State) (a n : Nat) : (bump s a n).plc = s.plc := by rw [bump_only]
@[simp] theorem bump_hws (s : State) (a n : Nat) : (bump s a n).hws = s.hws := by rw [bump_only]
@[simp] theorem bump_upd (s : State) (a n : Nat) : (bump s a n).upd = s.upd := by rw [bump_only]
@[simp] theorem bump_boot (s : State) (a n : Nat) : (bump s a n).boot = s.boot := by rw [bump_only]
@[simp] theorem bump_keep (s : State) (a n : Nat) : (bump s a n).keep = s.keep := by rw [bump_only]
@[simp] theorem bump_pci (s : State) (a n : Nat) : (bump s a n).pci = s.pci := by rw [bump_only]
@[simp] theorem bump_mgmt (s : State) (a n : Nat) : (bump s a n).mgmt = s.mgmt := by rw [bump_only]
@[simp] theorem bump_elec (s : State) (a n : Nat) : (bump s a n).elec = s.elec := by rw [bump_only]


/-! ### Fault records -/

/-- What a report may change: registers, readiness, the aggregator, interrupts, and the tick's count of records. -/
def ReportSide (s t : State) : Prop := t = { s with csr := t.csr, rdy := t.rdy, flt := t.flt, pci := t.pci, mgmt := t.mgmt }

/-- Nothing done is a report's side. -/
theorem ReportSide.refl (s : State) : ReportSide s s := rfl

/-- One report's side after another. -/
theorem ReportSide.trans (h : ReportSide s t) (k : ReportSide t u) : ReportSide s u := by
  unfold ReportSide at *
  rw [k, h]

/-- A register written is a report's side. -/
theorem rset_side (s : State) (a v : Nat) : ReportSide s (rset s a v) := rfl

/-- An event bit set is a report's side. -/
theorem event_side (s : State) (a b : Nat) : ReportSide s (event s a b) := rfl

/-- A counter raised is a report's side. -/
theorem bump_side (s : State) (a n : Nat) : ReportSide s (bump s a n) := by
  unfold ReportSide
  conv_lhs => rw [bump_only]
  simp

/-- An interrupt is a report's side. -/
theorem signal_side (s : State) (v : Nat) : ReportSide s (signal s v) := by
  unfold signal
  split <;> rfl

/-- The first record of a class is a report's side. -/
theorem classSeen_side (s : State) (c : Nat) : ReportSide s (classSeen s c) := by
  unfold classSeen
  split
  · exact .refl s
  · extract_lets f s1
    have h1 : ReportSide s s1 := rfl
    split
    · exact h1.trans (signal_side _ _)
    · exact h1

/-- Folding operations that are a report's side is one. -/
theorem foldl_side {α : Type} {f : State → α → State} (hf : ∀ s a, ReportSide s (f s a)) (l : List α) (s : State) : ReportSide s (l.foldl f s) := by
  induction l generalizing s with
  | nil => exact .refl s
  | cons a r ih => exact .trans (hf s a) (ih _)

/-- Clearing RECOVERED is a report's side. -/
theorem unrecover_side (s : State) (i : Nat) : ReportSide s (unrecover s i) := by
  unfold unrecover
  apply foldl_side
  intro s a
  dsimp only
  split <;> rfl

/-- A new record is a report's side. -/
theorem addRecord_side (s : State) (r : FaultRec) : ReportSide s (addRecord s r).2 := by
  unfold addRecord
  extract_lets n s1 r1 f m s2 s3
  have h1 : ReportSide s s2 := rfl
  have h3 : ReportSide s s3 := h1.trans (classSeen_side _ _)
  split
  · split
    · exact h3.trans rfl
    · exact h3.trans rfl
  · exact h3

/-- A witness counted is a report's side. -/
theorem witness_side (s : State) (n : Nat) : ReportSide s (witness s n) := by
  unfold witness
  split
  · split <;> rfl
  · rfl

/-- A report that joins an overflow record is a report's side. -/
theorem joinOverflow_side (s : State) (c : Nat) (r : FaultRec) (b : Bool) : ReportSide s (joinOverflow s c r b).2 := by
  unfold joinOverflow
  extract_lets s1
  have h1 : ReportSide s s1 := by
    show ReportSide s (if b then _ else _)
    split
    · exact bump_side _ _ _
    · exact .refl s
  split
  · exact h1.trans (witness_side _ _)
  · dsimp only
    exact (h1.trans (addRecord_side s1 _)).trans rfl

/-- Whether a subject is a table or a layer (15 R604). -/
def viewSubject (subject : Nat) : Prop := subject / 2 ^ 60 = 7 ∨ subject / 2 ^ 60 = 8

/-- The code of a unit that is neither. -/
theorem unitCode_notView (s : State) (ty idx : Nat) (h : ty ≠ 7 ∧ ty ≠ 8) : ¬viewSubject (unitCode s ty idx) := by
  unfold viewSubject unitCode
  omega

/-- A report about a unit leaves what waits in tables and layers alone. -/
theorem unrecoverView_unit (s : State) (h : ¬viewSubject subject) : unrecoverView s subject = s := by
  unfold unrecoverView
  rw [if_neg (fun e => h (.inl e)), if_neg (fun e => h (.inr e))]

/-- A report about a table or layer touches its wait for a switch alone. -/
theorem unrecoverView_only (s : State) (subject : Nat) :
    unrecoverView s subject = { s with emb := { s.emb with greys := (unrecoverView s subject).emb.greys } } := by
  unfold unrecoverView
  generalize (if subject / 2 ^ 60 = 7 then some (subject % 2 ^ 32) else if subject / 2 ^ 60 = 8 then some (4096 + subject % 2 ^ 32) else none) = key
  cases key with
  | none => rfl
  | some k =>
    dsimp only
    split <;> rfl

/-- What a report about a table or layer may change beside a report's side: what waits there for its next switch (15 R572). -/
def ViewSide (s t : State) : Prop := ReportSide { s with emb := { s.emb with greys := t.emb.greys } } t

/-- Filing a report about a unit touches registers, readiness, the aggregator, interrupts and the tick's count of records alone (15 R599-R603). -/
theorem file_side (s : State) (r : FaultRec) (h : ¬viewSubject r.subject) : ReportSide s (file s r).2 := by
  unfold file
  split
  · rfl
  · extract_lets s1 s2
    have h1 : ReportSide s s1 := bump_side _ _ _
    have h2 : ReportSide s s2 := by
      show ReportSide s (match codeRdy _ _ with | some _ => _ | none => _)
      split
      · exact h1.trans (unrecover_side _ _)
      · rw [unrecoverView_unit _ h]
        exact h1
    clear_value s2
    split
    · exact h2.trans (joinOverflow_side _ _ _ _)
    · split
      · exact h2.trans (witness_side _ _)
      · split
        · exact h2.trans (joinOverflow_side _ _ _ _)
        · dsimp only
          exact (h2.trans (addRecord_side s2 _)).trans rfl

/-- One report's side after what waits in a view has changed. -/
theorem ViewSide.trans (h : ViewSide s t) (k : ReportSide t u) : ViewSide s u := by
  unfold ViewSide ReportSide at *
  have e : u.emb.greys = t.emb.greys := by rw [k]
  rw [k, h]

/-- A report's side is one where nothing waits for a switch. -/
theorem ReportSide.view (h : ReportSide s t) : ViewSide s t := by
  unfold ViewSide ReportSide at *
  rw [h]

/-- Filing a report, whatever it names. -/
theorem file_view (s : State) (r : FaultRec) : ViewSide s (file s r).2 := by
  unfold file
  split
  · rfl
  · extract_lets s1 s2
    have h1 : ReportSide s s1 := bump_side _ _ _
    have h2 : ViewSide s s2 := by
      show ViewSide s (match codeRdy _ _ with | some _ => _ | none => _)
      split
      · exact (h1.trans (unrecover_side _ _)).view
      · unfold ViewSide ReportSide at *
        rw [unrecoverView_only, h1]
    clear_value s2
    split
    · exact h2.trans (joinOverflow_side _ _ _ _)
    · split
      · exact h2.trans (witness_side _ _)
      · split
        · exact h2.trans (joinOverflow_side _ _ _ _)
        · dsimp only
          exact (h2.trans (addRecord_side s2 _)).trans rfl

/-- A report about a unit. -/
theorem reportFull_side (s : State) (kind cls action subject reporter : Nat) (ack : Bool) (detail : Nat) (h : ¬viewSubject subject) :
    ReportSide s (reportFull s kind cls action subject reporter ack detail).2 := file_side _ _ h

/-- A report, whatever it names. -/
theorem reportFull_view (s : State) (kind cls action subject reporter : Nat) (ack : Bool) (detail : Nat) :
    ViewSide s (reportFull s kind cls action subject reporter ack detail).2 := file_view _ _

/-- A report about a unit. -/
theorem report_side (s : State) (kind action subject detail : Nat) (h : ¬viewSubject subject) : ReportSide s (report s kind action subject detail) :=
  reportFull_side _ _ _ _ _ _ _ _ h

/-- What a unit's change of state may change: registers, readiness, interrupts, and whether everything has settled once. -/
def UnitSide (s t : State) : Prop := t = { s with csr := t.csr, rdy := t.rdy, pci := t.pci, boot := t.boot }

/-- One change after another. -/
theorem UnitSide.trans (h : UnitSide s t) (k : UnitSide t u) : UnitSide s u := by
  unfold UnitSide at *
  rw [k, h]

/-- An event of the readiness map is its side. -/
theorem rdyEvent_side (s : State) (b : Nat) : UnitSide s (rdyEvent s b) := by
  unfold rdyEvent signal
  split <;> rfl

/-- All that a unit's change of state touches (16 R634, R642). -/
theorem setUnit_side (s : State) (i : Nat) (st : UnitState) (reason : Nat) : UnitSide s (setUnit s i st reason) := by
  unfold setUnit
  extract_lets e keep s1 s2
  split
  · rfl
  · have h1 : UnitSide s s1 := rfl
    have h2 : UnitSide s s2 := by
      show UnitSide s (if _ then _ else _)
      split
      · exact h1.trans (rdyEvent_side _ _)
      · exact h1
    split
    · exact (h2.trans (t := s2) (u := { s2 with boot := { s2.boot with settledOnce := true } }) rfl).trans (rdyEvent_side _ _)
    · exact h2

/-! ### Memory (12 R453; 04 R170) -/

/-- Reading a byte after writing bytes: the byte written, and every other byte as before. -/
theorem byteAt_putBytes (h : Memory.wf s.mem = true) (a : Nat) (l : List Byte) (b : Nat) :
    byteAt (putBytes s a l) b = if hb : a ≤ b ∧ b < a + l.length then l[b - a] else byteAt s b := by
  induction l generalizing s a with
  | nil =>
    have : ¬(a ≤ b ∧ b < a + ([] : List Byte).length) := by simp
    rw [dif_neg this]
    rfl
  | cons x r ih =>
    have h' : Memory.wf ({ s with mem := mset (fun _ => (0 : Byte)) s.mem a x } : State).mem = true := mwf_mset a x h
    show byteAt (putBytes { s with mem := mset (fun _ => (0 : Byte)) s.mem a x } (a + 1) r) b = _
    rw [ih h']
    by_cases e : b = a
    · subst e
      rw [dif_neg (by omega), dif_pos (by simp)]
      simpa [byteAt] using mget_mset_self h b x
    · by_cases hb : a + 1 ≤ b ∧ b < a + 1 + r.length
      · rw [dif_pos hb, dif_pos (by simp only [List.length_cons]; omega)]
        obtain ⟨k, rfl⟩ : ∃ k, b = a + 1 + k := ⟨b - (a + 1), by omega⟩
        simp [show a + 1 + k - a = k + 1 by omega]
      · rw [dif_neg hb, dif_neg (by simp only [List.length_cons]; omega)]
        simp [byteAt, mget_mset_ne _ e]

/-- Writing bytes touches memory alone. -/
theorem putBytes_only (s : State) (a : Nat) (l : List Byte) : putBytes s a l = { s with mem := (putBytes s a l).mem } := by
  induction l generalizing s a with
  | nil => rfl
  | cons x r ih => exact (ih { s with mem := mset (fun _ => (0 : Byte)) s.mem a x } (a + 1))

/-- Every operation of memory keeps its canonical form. -/
theorem putBytes_wf (h : Memory.wf s.mem = true) (a : Nat) (l : List Byte) : Memory.wf (putBytes s a l).mem = true := by
  induction l generalizing s a with
  | nil => exact h
  | cons x r ih => exact ih (s := { s with mem := mset (fun _ => (0 : Byte)) s.mem a x }) (mwf_mset a x h) (a + 1)

/-- What a channel's controller may change as it takes a write: its own state, and what a report changes. -/
def ChanSide (s t : State) : Prop := t = { s with csr := t.csr, rdy := t.rdy, flt := t.flt, pci := t.pci, mgmt := t.mgmt, chans := t.chans }

theorem ReportSide.chan (h : ReportSide s t) : ChanSide s t := by
  unfold ReportSide at h
  unfold ChanSide
  rw [h]

theorem ChanSide.refl (s : State) : ChanSide s s := rfl

theorem ChanSide.trans (h : ChanSide s t) (k : ChanSide t u) : ChanSide s u := by
  unfold ChanSide at *
  rw [k, h]

theorem chanPut_side (s : State) (c : Nat) (x : Chan) : ChanSide s (chanPut s c x) := rfl

/-- A dropped write is a report's side. -/
theorem dropWrite_side (s : State) (c u : Nat) : ReportSide s (dropWrite s c u) :=
  ((bump_side s _ 1).trans (rset_side _ _ _)).trans (report_side _ _ _ _ _ (unitCode_notView _ _ _ (by decide)))

/-- A write-back is a controller's side. -/
theorem writeBack_side (s : State) (c : Nat) (e : WcbEntry) : ChanSide s (writeBack s c e) := by
  unfold writeBack
  extract_lets s1 ch s2
  have h1 : ChanSide s s1 := chanPut_side _ _ _
  have h2 : ChanSide s s2 := h1.trans (bump_side _ _ _).chan
  split
  · exact h1.trans (chanPut_side _ _ _)
  · split
    · exact h2.trans (((bump_side s2 _ 1).trans (event_side _ _ _)).trans (dropWrite_side _ _ _)).chan
    · exact h2

/-- Taking a write into the write-combining buffer is a controller's side. -/
theorem combine_side (s : State) (c u mask : Nat) (held : List Host.Cell) : ChanSide s (combine s c u mask held) := by
  unfold combine
  extract_lets ch s1 ch1
  split
  · exact chanPut_side _ _ _
  · split
    · extract_lets m
      split <;> exact chanPut_side _ _ _
    · have h1 : ChanSide s s1 := by
        show ChanSide s (if _ then _ else _)
        split
        · exact .refl s
        · split
          · exact writeBack_side _ _ _
          · exact .refl s
      exact h1.trans (chanPut_side _ _ _)

/-- What a write may change: memory, page generations, and a controller's side. -/
def MemSide (s t : State) : Prop :=
  t = { s with csr := t.csr, rdy := t.rdy, flt := t.flt, pci := t.pci, mgmt := t.mgmt, chans := t.chans, mem := t.mem, gens := t.gens }

theorem ChanSide.memory (h : ChanSide s t) : MemSide s t := by
  unfold ChanSide at h
  unfold MemSide
  rw [h]

theorem MemSide.refl (s : State) : MemSide s s := rfl

theorem MemSide.trans (h : MemSide s t) (k : MemSide t u) : MemSide s u := by
  unfold MemSide at *
  rw [k, h]

/-- Raising page generations touches them alone. -/
theorem raiseGens_only (l : List Nat) (s : State) : l.foldl raiseGen s = { s with gens := (l.foldl raiseGen s).gens } := by
  induction l generalizing s with
  | nil => rfl
  | cons a r ih => exact ih (raiseGen s a)

/-- A controller's side leaves memory as it was. -/
theorem ChanSide.mem_eq (h : ChanSide s t) : t.mem = s.mem := by
  unfold ChanSide at h
  rw [h]

/-- Writing bytes is a write's side. -/
theorem putBytes_side (s : State) (a : Nat) (l : List Byte) : MemSide s (putBytes s a l) := by
  unfold MemSide
  rw [putBytes_only]

/-- Raising page generations is a write's side. -/
theorem raiseGens_side (p : List Nat) (x : State) : MemSide x (p.foldl raiseGen x) := by
  unfold MemSide
  rw [raiseGens_only]

/-- Raising page generations leaves memory as it was. -/
theorem raiseGens_mem (p : List Nat) (x : State) : (p.foldl raiseGen x).mem = x.mem := by rw [raiseGens_only]

/-- The page generations of a write, on top of what it did before. -/
theorem pages_side (h : MemSide s t) (e : Bool) (p : List Nat) :
    MemSide s (if e then t else p.foldl raiseGen t) ∧ (if e then t else p.foldl raiseGen t).mem = t.mem := by
  cases e
  · exact ⟨h.trans (raiseGens_side p t), raiseGens_mem p t⟩
  · exact ⟨h, rfl⟩

/-- Bytes put each at its own address are a write's side. -/
theorem putCells_side (s : State) (l : List Host.Cell) : MemSide s (putCells s l) := by
  unfold putCells
  induction l generalizing s with
  | nil => exact .refl s
  | cons x r ih => exact (putBytes_side s x.1 [x.2]).trans (ih _)

/-- Bytes put each at its own address keep the canonical form. -/
theorem putCells_wf (h : Memory.wf s.mem = true) (l : List Host.Cell) : Memory.wf (putCells s l).mem = true := by
  unfold putCells
  induction l generalizing s with
  | nil => exact h
  | cons x r ih => exact ih (putBytes_wf h x.1 [x.2])

/-- All that a write to a part of one unit touches (12 R453-R455). -/
theorem writePart_side (s : State) (a : Nat) (l : List Byte) : MemSide s (writePart s a l) := by
  unfold writePart
  extract_lets p mask old had whole s1
  split
  · exact (combine_side _ _ _ _ _).memory.trans (putBytes_side _ _ _)
  · have h1 : MemSide s s1 := (combine_side _ _ _ _ _).memory
    split
    · exact (h1.trans (putCells_side _ _)).trans (putBytes_side _ _ _)
    · exact h1

/-- Taking a write into the write-combining buffer keeps memory's canonical form. -/
theorem combine_wf (h : Memory.wf s.mem = true) (c u mask : Nat) (held : List Host.Cell) : Memory.wf (combine s c u mask held).mem = true := by
  rw [(combine_side s c u mask held).mem_eq]
  exact h

/-- What a write to a part of a unit does with the controller's answer keeps memory's canonical form. -/
theorem partKept (x y : State) (hx : Memory.wf x.mem = true) (hy : Memory.wf y.mem = true) (good whole : Bool) (cs : List Host.Cell) (a : Nat) (l : List Byte) :
    Memory.wf (if good then putBytes x a l else if whole then putBytes (putCells y cs) a l else y).mem = true := by
  cases good
  · cases whole
    · exact hy
    · exact putBytes_wf (putCells_wf hy cs) a l
  · exact putBytes_wf hx a l

/-- A write to a part of one unit keeps memory's canonical form. -/
theorem writePart_wf (h : Memory.wf s.mem = true) (a : Nat) (l : List Byte) : Memory.wf (writePart s a l).mem = true := by
  unfold writePart
  exact partKept _ _ (combine_wf h _ _ _ _) (combine_wf h _ _ _ _) _ _ _ _ _

/-- The parts of one write keep what each part keeps. -/
theorem foldParts {P : State → Prop} {f : State → Nat × Nat → State} (hf : ∀ s p, P s → P (f s p)) (l : List (Nat × Nat)) (s : State) (h : P s) :
    P (l.foldl f s) := by
  induction l generalizing s with
  | nil => exact h
  | cons p r ih => exact ih _ (hf s p h)

/-- All that an accepted write touches (12 R453, R454; 04 R170). -/
theorem memWrite_side (s : State) (a : Nat) (l : List Byte) : MemSide s (memWrite s a l) := by
  unfold memWrite
  cases space a with
  | hbm =>
    have h : MemSide s ((unitParts (l.length + 1) a l.length).foldl (fun s p => writePart s p.1 ((l.drop (p.1 - a)).take p.2)) s) :=
      foldParts (P := MemSide s) (fun t p k => k.trans (writePart_side t _ _)) _ s (.refl s)
    exact (pages_side h l.isEmpty _).1
  | slow => exact (pages_side (putBytes_side s a l) l.isEmpty _).1
  | scratch c => exact putBytes_side s a l
  | hole => exact putBytes_side s a l

/-- An accepted write keeps memory's canonical form. -/
theorem memWrite_wf (h : Memory.wf s.mem = true) (a : Nat) (l : List Byte) : Memory.wf (memWrite s a l).mem = true := by
  unfold memWrite
  cases space a with
  | hbm =>
    have k := foldParts (P := fun t => Memory.wf t.mem = true) (f := fun s p => writePart s p.1 ((l.drop (p.1 - a)).take p.2))
      (fun t p k => writePart_wf k _ _) (unitParts (l.length + 1) a l.length) s h
    exact ((pages_side (MemSide.refl _) l.isEmpty _).2).symm ▸ k
  | slow => exact ((pages_side (MemSide.refl _) l.isEmpty _).2).symm ▸ putBytes_wf h a l
  | scratch c => exact putBytes_wf h a l
  | hole => exact putBytes_wf h a l

/-- What bytes written leave in memory rests on memory alone. -/
theorem putBytes_mem (h : t.mem = s.mem) (a : Nat) (l : List Byte) : (putBytes t a l).mem = (putBytes s a l).mem := by
  induction l generalizing s t a with
  | nil => exact h
  | cons x r ih =>
    refine ih (s := { s with mem := mset (fun _ => (0 : Byte)) s.mem a x }) (t := { t with mem := mset (fun _ => (0 : Byte)) t.mem a x }) ?_ (a + 1)
    show mset _ t.mem a x = mset _ s.mem a x
    rw [h]

/-- A write that lies in one unit has one part. -/
theorem unitParts_one (f a n : Nat) (h0 : n ≠ 0) (h : a % 64 + n ≤ 64) : unitParts (f + 1) a n = [(a, n)] := by
  have e : min n (64 - a % 64) = n := by omega
  show (if n = 0 then [] else (a, min n (64 - a % 64)) :: unitParts f (a + min n (64 - a % 64)) (n - min n (64 - a % 64))) = _
  rw [if_neg h0, e, Nat.sub_self]
  cases f <;> rfl

/-- A write to a part of a unit that reads correctly lays its bytes in memory. -/
theorem writePart_mem (s : State) (a : Nat) (l : List Byte) (h : unitBad s a 1 = false) : (writePart s a l).mem = (putBytes s a l).mem := by
  unfold writePart
  extract_lets p mask old had whole s1
  rw [if_pos (by rw [h]; rfl)]
  exact putBytes_mem (combine_side _ _ _ _ _).mem_eq a l

/-- A write that lies in one unit: memory holds the bytes, unless that unit reads uncorrectable (12 R453-R455). -/
theorem memWrite_mem (s : State) (a : Nat) (l : List Byte) (h1 : a % 64 + l.length ≤ 64) (h2 : unitBad s a 1 = false) :
    (memWrite s a l).mem = (putBytes s a l).mem := by
  unfold memWrite
  cases space a with
  | hbm =>
    cases l with
    | nil => rfl
    | cons x r =>
      rw [unitParts_one _ _ _ (by simp) h1, ← writePart_mem s a (x :: r) h2]
      refine (pages_side (MemSide.refl _) (x :: r).isEmpty (pagesOf a (x :: r).length)).2.trans ?_
      rw [List.foldl_cons, List.foldl_nil, Nat.sub_self, List.drop_zero, List.take_length]
  | slow => exact (pages_side (MemSide.refl _) l.isEmpty (pagesOf a l.length)).2
  | scratch c => rfl
  | hole => rfl

/-- Reading a byte after an accepted write that lies in one unit. -/
theorem byteAt_memWrite (h : Memory.wf s.mem = true) (a : Nat) (l : List Byte) (b : Nat) (h1 : a % 64 + l.length ≤ 64) (h2 : unitBad s a 1 = false) :
    byteAt (memWrite s a l) b = if hb : a ≤ b ∧ b < a + l.length then l[b - a] else byteAt s b := by
  have e : byteAt (memWrite s a l) b = byteAt (putBytes s a l) b := by
    unfold byteAt
    rw [memWrite_mem s a l h1 h2]
  rw [e, byteAt_putBytes h]

/-- The bytes written read back. -/
theorem readBytes_memWrite (h : Memory.wf s.mem = true) (a : Nat) (l : List Byte) (h1 : a % 64 + l.length ≤ 64) (h2 : unitBad s a 1 = false) :
    readBytes (memWrite s a l) a l.length = l := by
  have go : ∀ (k : Nat) (t : State), (∀ i (hi : i < l.length), byteAt t (a + i) = l[i]) → k ≤ l.length →
      readBytes t (a + k) (l.length - k) = l.drop k := by
    intro k t ht hk
    induction hn : l.length - k generalizing k with
    | zero =>
      rw [List.drop_eq_nil_of_le (by omega)]
      rfl
    | succ n ih =>
      have hk' : k < l.length := by omega
      rw [List.drop_eq_getElem_cons hk']
      show byteAt t (a + k) :: readBytes t (a + k + 1) n = _
      rw [ht k hk', Nat.add_assoc, ih (k + 1) (by omega) (by omega)]
  have := go 0 (memWrite s a l) (fun i hi => by
    rw [byteAt_memWrite h a l _ h1 h2, dif_pos (by omega)]
    simp) (Nat.zero_le _)
  simpa using this

end Sys2Proof.Machine
end

