-- ==== Sys2Proof/Laws/Issue.lean ====
section
/-! SUPPORT. What the issue of an instruction and its retirement can do. -/

namespace Sys2Proof.Machine

variable {s t : State} {c : Instr} {h : Hart} {g : Guard} {rd : Reg} {v : Word}

/-! ### Issue -/

/-- Counting an issue leaves every hart as it was. -/
@[simp] theorem issued_harts (s : State) (h : Hart) : (issued s h).harts = s.harts := by
  cases h
  · simp [issued, takeTurn, corePut]
  · rfl

@[simp] theorem issued_mem (s : State) (h : Hart) : (issued s h).mem = s.mem := by
  cases h
  · simp [issued, takeTurn, corePut]
  · rfl

/-- Counting an issue keeps the state canonical. -/
theorem issued_canonical (hc : Canonical s) (h : Hart) : Canonical (issued s h) := by
  cases h with
  | strand c n => exact (kept_takeTurn (Q := ⟨s.pending, tickClock s⟩) ⟨rfl, rfl, hc⟩).canon
  | ctrl k => exact hc

@[simp] theorem hart_issued (s : State) (h k : Hart) : hart (issued s h) k = hart s k := by
  simp [hart, hartAt]

@[simp] theorem reg_issued (s : State) (h k : Hart) (r : Reg) : reg (issued s h) k r = reg s k r := by
  simp [reg]

@[simp] theorem pred_issued (s : State) (h k : Hart) (p : PredReg) : pred (issued s h) k p = pred s k p := by
  simp [pred]

@[simp] theorem operand_issued (s : State) (h k : Hart) (y : Operand) : operand (issued s h) k y = operand s k y := by
  cases y <;> simp [operand]

@[simp] theorem operandF_issued (s : State) (h k : Hart) (y : Operand) : operandF (issued s h) k y = operandF s k y := by
  cases y <;> simp [operandF]

@[simp] theorem guardOn_issued (s : State) (h k : Hart) (g : Guard) : guardOn (issued s h) k g = guardOn s k g := by
  simp [guardOn]

/-- The command of an instruction that its hart fetches takes place. -/
theorem spelled_fetches (o : Out) (hf : Fetches s c h) : spelled c h s o = o := by
  cases h with
  | ctrl k => rfl
  | strand p n => simp [spelled, hf.2.2]

/-- A strand whose word spells another instruction is left as it is. -/
theorem spelled_other {p : Fin 272} {n : Fin 64} (o : Out) (h1 : reachable s (hart s (.strand p n)).pc.toNat = true)
    (h2 : readCause s (hart s (.strand p n)).pc.toNat 8 = none)
    (h3 : decodeStrand (.strand p n) (readNat s (hart s (.strand p n)).pc.toNat 8) ≠ c) : spelled c (.strand p n) s o = .next s := by
  simp [spelled, h1, h2, h3]

/-- An instruction whose hart is READY, whose word can be fetched and whose guard holds has its effect. -/
theorem issue_runs (f : State → State) (hr : Runs s c h g) : issue s h g f = .next (f (issued s h)) := by
  obtain ⟨h1, h2, h3⟩ := hr
  cases h with
  | ctrl k => simp [Fetches] at h2; simp [issue, issued, h1, h2, h3]
  | strand c n =>
    obtain ⟨h4, h5, -⟩ := h2
    have h6 := guardOn_issued s (.strand c n) (.strand c n) g
    simp only [issued] at h4 h5 h6
    simp [issue, issued, h1, h4, h5, h6, h3]

/-- A guarded-off instruction only moves the program counter on (03 R95). -/
theorem issue_off (f : State → State) (h1 : (hart s h).st = .ready) (h2 : Fetches s c h) (h3 : guardOn s h g = false) :
    issue s h g f = .next (nextPc (issued s h) h) := by
  cases h with
  | ctrl k => simp [Fetches] at h2; simp [issue, issued, h1, h2, h3]
  | strand c n =>
    obtain ⟨h4, h5, -⟩ := h2
    have h6 := guardOn_issued s (.strand c n) (.strand c n) g
    simp only [issued] at h4 h5 h6
    simp [issue, issued, h1, h4, h5, h6, h3]

/-- A hart that is not READY issues nothing. -/
theorem issue_not_ready (f : State → State) (h1 : (hart s h).st ≠ .ready) : issue s h g f = .next s := by
  simp [issue, h1]

/-! ### Retirement -/

/-- One write of a hart leaves all but harts as it was. -/
theorem putHart_only (s : State) (h : Hart) (t : HartSt) : putHart s h t = { s with harts := (putHart s h t).harts } := rfl

/-- The register written reads back; g0 reads 0. -/
theorem setReg_get (t : HartSt) (r q : Reg) (v : Word) :
    (if q.val = 0 then 0 else (t.setReg r v).regs[q]) = if q.val = 0 then 0 else if q = r then v else t.regs[q] := by
  unfold HartSt.setReg
  by_cases hq : q.val = 0
  · simp [hq]
  · by_cases hr : r.val = 0
    · have : q ≠ r := fun e => hq (e ▸ hr)
      simp [hq, hr, this]
    · simp only [hq, hr, if_false]
      by_cases e : q = r
      · subst e; simp
      · have : q.val ≠ r.val := fun x => e (Fin.ext x)
        simp only [e, if_false]
        exact Vector.getElem_set_ne _ _ (Ne.symm this)

/-- The program counter moved on. -/
theorem hart_nextPc (hc : Canonical s) : hart (nextPc s h) h = { hart s h with pc := (hart s h).pc + 8 } := hart_putHart_self hc _ _
/-- Putting a hart keeps the state canonical. -/
theorem canon_putHart (hc : Canonical s) (h : Hart) (t : HartSt) : Canonical (putHart s h t) :=
  (kept_putHart (Q := ⟨s.pending, tickClock s⟩) ⟨rfl, rfl, hc⟩).canon
/-- A register written. -/
theorem hart_setReg (hc : Canonical s) : hart (setReg s h rd v) h = (hart s h).setReg rd v := hart_putHart_self hc _ _

/-- Writing a register touches registers alone. -/
theorem setReg_rest (t : HartSt) (r : Reg) (v : Word) : t.setReg r v = { t with regs := (t.setReg r v).regs } := by
  unfold HartSt.setReg; split <;> rfl

/-- What retirement leaves of the hart. -/
theorem retire_hart (hc : Canonical s) : hart (retire s h rd v) h = { (hart s h).setReg rd v with pc := (hart s h).pc + 8 } := by
  have h1 : Canonical (setReg s h rd v) := canon_putHart hc _ _
  unfold retire
  rw [hart_nextPc h1, hart_setReg hc]
  unfold HartSt.setReg
  split <;> rfl

/-- Retirement leaves every other hart as it was. -/
theorem retire_other {k : Hart} (e : k ≠ h) : hart (retire s h rd v) k = hart s k := by
  unfold retire nextPc setReg
  rw [hart_putHart_ne _ e, hart_putHart_ne _ e]

/-- Retirement touches harts alone. -/
theorem retire_only : retire s h rd v = { s with harts := (retire s h rd v).harts } := rfl

/-- All that retirement does. -/
theorem retire_retired (hc : Canonical s) : Retired s (retire (issued s h) h rd v) h rd v := by
  have hi := issued_canonical hc h
  have e : hart (retire (issued s h) h rd v) h = { (hart s h).setReg rd v with pc := (hart s h).pc + 8 } := by
    rw [retire_hart hi, hart_issued]
  refine ⟨⟨rfl, fun k hk => ?_⟩, ?_, ?_, fun r hr => ?_⟩
  · rw [retire_other hk, hart_issued]
  · rw [e, setReg_rest]
  · unfold reg
    rw [e]
    have := setReg_get (hart s h) rd rd v
    simpa using this
  · unfold reg
    rw [e]
    have := setReg_get (hart s h) rd r v
    simp only [hr, if_false] at this
    exact this

/-- All that an instruction that only computes a register does. -/
theorem compute_retired (f : State → Word) (hc : Canonical s) (hr : Runs s c h g) (hf : f (issued s h) = v) :
    ∃ t, compute s h g rd f = .next t ∧ Retired s t h rd v := by
  refine ⟨_, issue_runs _ hr, ?_⟩
  rw [hf]
  exact retire_retired hc

/-- Writing a predicate touches predicates alone. -/
theorem hart_setPred (hc : Canonical s) (p : PredReg) (b : Bool) :
    hart (setPred s h p b) h = { hart s h with preds := (hart (setPred s h p b) h).preds } := by
  unfold setPred
  split
  · rfl
  · rw [hart_putHart_self hc]

/-- Writing a predicate leaves every other hart as it was. -/
theorem setPred_other {k : Hart} (p : PredReg) (b : Bool) (e : k ≠ h) : hart (setPred s h p b) k = hart s k := by
  unfold setPred
  split
  · rfl
  · rw [hart_putHart_ne _ e]

/-- Writing a predicate touches harts alone. -/
theorem setPred_only (p : PredReg) (b : Bool) : setPred s h p b = { s with harts := (setPred s h p b).harts } := by
  unfold setPred
  split <;> rfl

/-- Writing a predicate keeps the state canonical. -/
theorem setPred_canonical (hc : Canonical s) (p : PredReg) (b : Bool) : Canonical (setPred s h p b) := by
  unfold setPred
  split
  · exact hc
  · exact canon_putHart hc _ _

/-- The predicate written reads back, p0 reads 1, and the others read as before. -/
theorem pred_setPred (hc : Canonical s) (p q : PredReg) (b : Bool) :
    pred (setPred s h p b) h q = if q.val = 0 then true else if q = p then b else pred s h q := by
  unfold pred setPred
  by_cases hq : q.val = 0
  · simp [hq]
  · by_cases hp : p.val = 0
    · have : q ≠ p := fun e => hq (e ▸ hp)
      simp [hq, hp, this]
    · rw [if_neg hp, hart_putHart_self hc]
      generalize (hart s h).preds = w
      revert w
      have hq2 := q.isLt
      have hp2 := p.isLt
      cases b <;> by_cases e : q = p
      · subst e
        intro w
        simp [hq]
      · have : q.val ≠ p.val := fun x => e (Fin.ext x)
        intro w
        have hd : (decide (q < p) || !decide (q.val - p.val = 0)) = true := by
          by_cases hl : q < p
          · simp [hl]
          · have := Fin.le_def.mp (Fin.not_lt.mp hl)
            simp [hl]
            omega
        simp [hq, e, hq2, hd]
      · subst e
        intro w
        simp [hq]
      · have : q.val ≠ p.val := fun x => e (Fin.ext x)
        intro w
        have hd : (!decide (q < p) && decide (q.val - p.val = 0)) = false := by
          by_cases hl : q < p
          · simp [hl]
          · have := Fin.le_def.mp (Fin.not_lt.mp hl)
            simp [hl]
            omega
        simp [hq, e, hq2, hd]

end Sys2Proof.Machine
end

