-- ==== Sys2Proof/Laws/KeptAlu.lean ====
section
/-! SUPPORT. What the operations of Alu keep (`Kept`). -/

namespace Sys2Proof.Machine

set_option linter.all false

variable {Q : Aim}

theorem kept_alu2 {h : Hart} {g : Guard} {rd rs1 rs2 : Reg} {s : State} {f : Word → Word → Word} (h_s : Kept Q s) : KeptO Q (alu2 h g rd rs1 rs2 s f) := by
  unfold alu2; repeat' first | with_reducible assumption | (intro y; beta_reduce) | with_reducible first | apply kept_next | apply kept_compute | apply h_f

theorem kept_alu1i {h : Hart} {g : Guard} {rd rs1 : Reg} {i : Word} {s : State} {f : Word → Word → Word} (h_s : Kept Q s) : KeptO Q (alu1i h g rd rs1 i s f) := by
  unfold alu1i; repeat' first | with_reducible assumption | (intro y; beta_reduce) | with_reducible first | apply kept_next | apply kept_compute | apply h_f

theorem kept_compare {h : Hart} {g : Guard} {pd : PredReg} {rs1 : Reg} {y : Operand} {s : State} {f : Word → Word → Bool} (h_s : Kept Q s) : KeptO Q (compare h g pd rs1 y s f) := by
  unfold compare; repeat' first | with_reducible assumption | (intro y; beta_reduce) | with_reducible first | apply kept_next | apply kept_issue | apply kept_nextPc | apply kept_setPred | apply h_f

theorem kept_combinePreds {h : Hart} {g : Guard} {pd pa pb : PredReg} {s : State} {f : Bool → Bool → Bool} (h_s : Kept Q s) : KeptO Q (combinePreds h g pd pa pb s f) := by
  unfold combinePreds; repeat' first | with_reducible assumption | (intro y; beta_reduce) | with_reducible first | apply kept_next | apply kept_issue | apply kept_nextPc | apply kept_setPred | apply h_f

theorem kept_execAdd {h : Hart} {g : Guard} {rd rs1 rs2 : Reg} {s : State} (h_s : Kept Q s) : KeptO Q (execAdd h g rd rs1 rs2 s) := by
  unfold execAdd; repeat' first | with_reducible assumption | (intro y; beta_reduce) | with_reducible first | apply kept_next | apply kept_spelled | apply kept_alu2

theorem kept_execSub {h : Hart} {g : Guard} {rd rs1 rs2 : Reg} {s : State} (h_s : Kept Q s) : KeptO Q (execSub h g rd rs1 rs2 s) := by
  unfold execSub; repeat' first | with_reducible assumption | (intro y; beta_reduce) | with_reducible first | apply kept_next | apply kept_spelled | apply kept_alu2

theorem kept_execMul {h : Hart} {g : Guard} {rd rs1 rs2 : Reg} {s : State} (h_s : Kept Q s) : KeptO Q (execMul h g rd rs1 rs2 s) := by
  unfold execMul; repeat' first | with_reducible assumption | (intro y; beta_reduce) | with_reducible first | apply kept_next | apply kept_spelled | apply kept_alu2

theorem kept_execMulhu {h : Hart} {g : Guard} {rd rs1 rs2 : Reg} {s : State} (h_s : Kept Q s) : KeptO Q (execMulhu h g rd rs1 rs2 s) := by
  unfold execMulhu; repeat' first | with_reducible assumption | with_reducible first | apply kept_next | apply kept_spelled | apply kept_alu2

theorem kept_execMulhs {h : Hart} {g : Guard} {rd rs1 rs2 : Reg} {s : State} (h_s : Kept Q s) : KeptO Q (execMulhs h g rd rs1 rs2 s) := by
  unfold execMulhs; repeat' first | with_reducible assumption | with_reducible first | apply kept_next | apply kept_spelled | apply kept_alu2

theorem kept_execDivu {h : Hart} {g : Guard} {rd rs1 rs2 : Reg} {s : State} (h_s : Kept Q s) : KeptO Q (execDivu h g rd rs1 rs2 s) := by
  unfold execDivu; repeat' first | with_reducible assumption | with_reducible first | apply kept_next | apply kept_spelled | apply kept_alu2

theorem kept_execDivs {h : Hart} {g : Guard} {rd rs1 rs2 : Reg} {s : State} (h_s : Kept Q s) : KeptO Q (execDivs h g rd rs1 rs2 s) := by
  unfold execDivs; repeat' first | with_reducible assumption | with_reducible first | apply kept_next | apply kept_spelled | apply kept_alu2

theorem kept_execRemu {h : Hart} {g : Guard} {rd rs1 rs2 : Reg} {s : State} (h_s : Kept Q s) : KeptO Q (execRemu h g rd rs1 rs2 s) := by
  unfold execRemu; repeat' first | with_reducible assumption | with_reducible first | apply kept_next | apply kept_spelled | apply kept_alu2

theorem kept_execRems {h : Hart} {g : Guard} {rd rs1 rs2 : Reg} {s : State} (h_s : Kept Q s) : KeptO Q (execRems h g rd rs1 rs2 s) := by
  unfold execRems; repeat' first | with_reducible assumption | with_reducible first | apply kept_next | apply kept_spelled | apply kept_alu2

theorem kept_execAnd {h : Hart} {g : Guard} {rd rs1 rs2 : Reg} {s : State} (h_s : Kept Q s) : KeptO Q (execAnd h g rd rs1 rs2 s) := by
  unfold execAnd; repeat' first | with_reducible assumption | (intro y; beta_reduce) | with_reducible first | apply kept_next | apply kept_spelled | apply kept_alu2

theorem kept_execOr {h : Hart} {g : Guard} {rd rs1 rs2 : Reg} {s : State} (h_s : Kept Q s) : KeptO Q (execOr h g rd rs1 rs2 s) := by
  unfold execOr; repeat' first | with_reducible assumption | (intro y; beta_reduce) | with_reducible first | apply kept_next | apply kept_spelled | apply kept_alu2

theorem kept_execXor {h : Hart} {g : Guard} {rd rs1 rs2 : Reg} {s : State} (h_s : Kept Q s) : KeptO Q (execXor h g rd rs1 rs2 s) := by
  unfold execXor; repeat' first | with_reducible assumption | (intro y; beta_reduce) | with_reducible first | apply kept_next | apply kept_spelled | apply kept_alu2

theorem kept_execAndn {h : Hart} {g : Guard} {rd rs1 rs2 : Reg} {s : State} (h_s : Kept Q s) : KeptO Q (execAndn h g rd rs1 rs2 s) := by
  unfold execAndn; repeat' first | with_reducible assumption | (intro y; beta_reduce) | with_reducible first | apply kept_next | apply kept_spelled | apply kept_alu2

theorem kept_execShl {h : Hart} {g : Guard} {rd rs1 rs2 : Reg} {s : State} (h_s : Kept Q s) : KeptO Q (execShl h g rd rs1 rs2 s) := by
  unfold execShl; repeat' first | with_reducible assumption | (intro y; beta_reduce) | with_reducible first | apply kept_next | apply kept_spelled | apply kept_alu2

theorem kept_execShru {h : Hart} {g : Guard} {rd rs1 rs2 : Reg} {s : State} (h_s : Kept Q s) : KeptO Q (execShru h g rd rs1 rs2 s) := by
  unfold execShru; repeat' first | with_reducible assumption | (intro y; beta_reduce) | with_reducible first | apply kept_next | apply kept_spelled | apply kept_alu2

theorem kept_execShrs {h : Hart} {g : Guard} {rd rs1 rs2 : Reg} {s : State} (h_s : Kept Q s) : KeptO Q (execShrs h g rd rs1 rs2 s) := by
  unfold execShrs; repeat' first | with_reducible assumption | (intro y; beta_reduce) | with_reducible first | apply kept_next | apply kept_spelled | apply kept_alu2

theorem kept_execMins {h : Hart} {g : Guard} {rd rs1 rs2 : Reg} {s : State} (h_s : Kept Q s) : KeptO Q (execMins h g rd rs1 rs2 s) := by
  unfold execMins; repeat' first | with_reducible assumption | (intro y; beta_reduce) | with_reducible first | apply kept_ite | apply kept_iteO | apply kept_next | apply kept_spelled | apply kept_alu2 | split

theorem kept_execMaxs {h : Hart} {g : Guard} {rd rs1 rs2 : Reg} {s : State} (h_s : Kept Q s) : KeptO Q (execMaxs h g rd rs1 rs2 s) := by
  unfold execMaxs; repeat' first | with_reducible assumption | (intro y; beta_reduce) | with_reducible first | apply kept_ite | apply kept_iteO | apply kept_next | apply kept_spelled | apply kept_alu2 | split

theorem kept_execMinu {h : Hart} {g : Guard} {rd rs1 rs2 : Reg} {s : State} (h_s : Kept Q s) : KeptO Q (execMinu h g rd rs1 rs2 s) := by
  unfold execMinu; repeat' first | with_reducible assumption | (intro y; beta_reduce) | with_reducible first | apply kept_ite | apply kept_iteO | apply kept_next | apply kept_spelled | apply kept_alu2 | split

theorem kept_execMaxu {h : Hart} {g : Guard} {rd rs1 rs2 : Reg} {s : State} (h_s : Kept Q s) : KeptO Q (execMaxu h g rd rs1 rs2 s) := by
  unfold execMaxu; repeat' first | with_reducible assumption | (intro y; beta_reduce) | with_reducible first | apply kept_ite | apply kept_iteO | apply kept_next | apply kept_spelled | apply kept_alu2 | split

theorem kept_execSel {h : Hart} {g : Guard} {rd rs1 rs2 : Reg} {ps : PredReg} {s : State} (h_s : Kept Q s) : KeptO Q (execSel h g rd rs1 rs2 ps s) := by
  unfold execSel; repeat' first | with_reducible assumption | (intro y; beta_reduce) | with_reducible first | apply kept_ite | apply kept_iteO | apply kept_next | apply kept_spelled | apply kept_compute | split

theorem kept_execMadd {h : Hart} {g : Guard} {rd rs1 rs2 rs3 : Reg} {s : State} (h_s : Kept Q s) : KeptO Q (execMadd h g rd rs1 rs2 rs3 s) := by
  unfold execMadd; repeat' first | with_reducible assumption | (intro y; beta_reduce) | with_reducible first | apply kept_next | apply kept_spelled | apply kept_compute

theorem kept_execPopc {h : Hart} {g : Guard} {rd rs1 : Reg} {s : State} (h_s : Kept Q s) : KeptO Q (execPopc h g rd rs1 s) := by
  unfold execPopc; repeat' first | with_reducible assumption | (intro y; beta_reduce) | with_reducible first | apply kept_next | apply kept_spelled | apply kept_compute

theorem kept_execClz {h : Hart} {g : Guard} {rd rs1 : Reg} {s : State} (h_s : Kept Q s) : KeptO Q (execClz h g rd rs1 s) := by
  unfold execClz; repeat' first | with_reducible assumption | (intro y; beta_reduce) | with_reducible first | apply kept_next | apply kept_spelled | apply kept_compute

theorem kept_execCtz {h : Hart} {g : Guard} {rd rs1 : Reg} {s : State} (h_s : Kept Q s) : KeptO Q (execCtz h g rd rs1 s) := by
  unfold execCtz; repeat' first | with_reducible assumption | (intro y; beta_reduce) | with_reducible first | apply kept_next | apply kept_spelled | apply kept_compute

theorem kept_execAddi {h : Hart} {g : Guard} {rd rs1 : Reg} {imm : BitVec 32} {s : State} (h_s : Kept Q s) : KeptO Q (execAddi h g rd rs1 imm s) := by
  unfold execAddi; repeat' first | with_reducible assumption | (intro y; beta_reduce) | with_reducible first | apply kept_next | apply kept_spelled | apply kept_alu1i

theorem kept_execMuli {h : Hart} {g : Guard} {rd rs1 : Reg} {imm : BitVec 32} {s : State} (h_s : Kept Q s) : KeptO Q (execMuli h g rd rs1 imm s) := by
  unfold execMuli; repeat' first | with_reducible assumption | (intro y; beta_reduce) | with_reducible first | apply kept_next | apply kept_spelled | apply kept_alu1i

theorem kept_execAndi {h : Hart} {g : Guard} {rd rs1 : Reg} {imm : BitVec 32} {s : State} (h_s : Kept Q s) : KeptO Q (execAndi h g rd rs1 imm s) := by
  unfold execAndi; repeat' first | with_reducible assumption | (intro y; beta_reduce) | with_reducible first | apply kept_next | apply kept_spelled | apply kept_alu1i

theorem kept_execOri {h : Hart} {g : Guard} {rd rs1 : Reg} {imm : BitVec 32} {s : State} (h_s : Kept Q s) : KeptO Q (execOri h g rd rs1 imm s) := by
  unfold execOri; repeat' first | with_reducible assumption | (intro y; beta_reduce) | with_reducible first | apply kept_next | apply kept_spelled | apply kept_alu1i

theorem kept_execXori {h : Hart} {g : Guard} {rd rs1 : Reg} {imm : BitVec 32} {s : State} (h_s : Kept Q s) : KeptO Q (execXori h g rd rs1 imm s) := by
  unfold execXori; repeat' first | with_reducible assumption | (intro y; beta_reduce) | with_reducible first | apply kept_next | apply kept_spelled | apply kept_alu1i

theorem kept_execShli {h : Hart} {g : Guard} {rd rs1 : Reg} {imm : BitVec 32} {s : State} (h_s : Kept Q s) : KeptO Q (execShli h g rd rs1 imm s) := by
  unfold execShli; repeat' first | with_reducible assumption | (intro y; beta_reduce) | with_reducible first | apply kept_next | apply kept_spelled | apply kept_alu1i

theorem kept_execShrui {h : Hart} {g : Guard} {rd rs1 : Reg} {imm : BitVec 32} {s : State} (h_s : Kept Q s) : KeptO Q (execShrui h g rd rs1 imm s) := by
  unfold execShrui; repeat' first | with_reducible assumption | (intro y; beta_reduce) | with_reducible first | apply kept_next | apply kept_spelled | apply kept_alu1i

theorem kept_execShrsi {h : Hart} {g : Guard} {rd rs1 : Reg} {imm : BitVec 32} {s : State} (h_s : Kept Q s) : KeptO Q (execShrsi h g rd rs1 imm s) := by
  unfold execShrsi; repeat' first | with_reducible assumption | (intro y; beta_reduce) | with_reducible first | apply kept_next | apply kept_spelled | apply kept_alu1i

theorem kept_execCmpeq {h : Hart} {g : Guard} {pd : PredReg} {rs1 : Reg} {y : Operand} {s : State} (h_s : Kept Q s) : KeptO Q (execCmpeq h g pd rs1 y s) := by
  unfold execCmpeq; repeat' first | with_reducible assumption | (intro y; beta_reduce) | with_reducible first | apply kept_next | apply kept_spelled | apply kept_compare

theorem kept_execCmpne {h : Hart} {g : Guard} {pd : PredReg} {rs1 : Reg} {y : Operand} {s : State} (h_s : Kept Q s) : KeptO Q (execCmpne h g pd rs1 y s) := by
  unfold execCmpne; repeat' first | with_reducible assumption | (intro y; beta_reduce) | with_reducible first | apply kept_next | apply kept_spelled | apply kept_compare

theorem kept_execCmplts {h : Hart} {g : Guard} {pd : PredReg} {rs1 : Reg} {y : Operand} {s : State} (h_s : Kept Q s) : KeptO Q (execCmplts h g pd rs1 y s) := by
  unfold execCmplts; repeat' first | with_reducible assumption | (intro y; beta_reduce) | with_reducible first | apply kept_next | apply kept_spelled | apply kept_compare

theorem kept_execCmples {h : Hart} {g : Guard} {pd : PredReg} {rs1 : Reg} {y : Operand} {s : State} (h_s : Kept Q s) : KeptO Q (execCmples h g pd rs1 y s) := by
  unfold execCmples; repeat' first | with_reducible assumption | (intro y; beta_reduce) | with_reducible first | apply kept_next | apply kept_spelled | apply kept_compare

theorem kept_execCmpltu {h : Hart} {g : Guard} {pd : PredReg} {rs1 : Reg} {y : Operand} {s : State} (h_s : Kept Q s) : KeptO Q (execCmpltu h g pd rs1 y s) := by
  unfold execCmpltu; repeat' first | with_reducible assumption | (intro y; beta_reduce) | with_reducible first | apply kept_next | apply kept_spelled | apply kept_compare

theorem kept_execCmpleu {h : Hart} {g : Guard} {pd : PredReg} {rs1 : Reg} {y : Operand} {s : State} (h_s : Kept Q s) : KeptO Q (execCmpleu h g pd rs1 y s) := by
  unfold execCmpleu; repeat' first | with_reducible assumption | (intro y; beta_reduce) | with_reducible first | apply kept_next | apply kept_spelled | apply kept_compare

theorem kept_execPand {h : Hart} {g : Guard} {pd pa pb : PredReg} {s : State} (h_s : Kept Q s) : KeptO Q (execPand h g pd pa pb s) := by
  unfold execPand; repeat' first | with_reducible assumption | (intro y; beta_reduce) | with_reducible first | apply kept_next | apply kept_spelled | apply kept_combinePreds

theorem kept_execPor {h : Hart} {g : Guard} {pd pa pb : PredReg} {s : State} (h_s : Kept Q s) : KeptO Q (execPor h g pd pa pb s) := by
  unfold execPor; repeat' first | with_reducible assumption | (intro y; beta_reduce) | with_reducible first | apply kept_next | apply kept_spelled | apply kept_combinePreds

theorem kept_execPxor {h : Hart} {g : Guard} {pd pa pb : PredReg} {s : State} (h_s : Kept Q s) : KeptO Q (execPxor h g pd pa pb s) := by
  unfold execPxor; repeat' first | with_reducible assumption | (intro y; beta_reduce) | with_reducible first | apply kept_next | apply kept_spelled | apply kept_combinePreds

theorem kept_execPandn {h : Hart} {g : Guard} {pd pa pb : PredReg} {s : State} (h_s : Kept Q s) : KeptO Q (execPandn h g pd pa pb s) := by
  unfold execPandn; repeat' first | with_reducible assumption | (intro y; beta_reduce) | with_reducible first | apply kept_next | apply kept_spelled | apply kept_combinePreds

theorem kept_execLi {h : Hart} {g : Guard} {rd : Reg} {imm : BitVec 40} {s : State} (h_s : Kept Q s) : KeptO Q (execLi h g rd imm s) := by
  unfold execLi; repeat' first | with_reducible assumption | (intro y; beta_reduce) | with_reducible first | apply kept_next | apply kept_spelled | apply kept_compute

theorem kept_execLih {h : Hart} {g : Guard} {rd : Reg} {imm : BitVec 24} {s : State} (h_s : Kept Q s) : KeptO Q (execLih h g rd imm s) := by
  unfold execLih; repeat' first | with_reducible assumption | (intro y; beta_reduce) | with_reducible first | apply kept_next | apply kept_spelled | apply kept_compute

end Sys2Proof.Machine
end

