-- ==== Sys2Proof/Laws/KeptRows.lean ====
section
/-! SUPPORT. What the operations of Rows keep (`Kept`). -/

namespace Sys2Proof.Machine

set_option linter.all false

variable {Q : Aim}

theorem kept_dirMap {s : State} {f : List DirEntry → List DirEntry} (h_s : Kept Q s) : Kept Q (dirMap s f) := by
  unfold dirMap; repeat' first | with_reducible assumption | (intro y; beta_reduce) | with_reducible first | apply h_f | exact kept_mk (by with_reducible assumption)

theorem kept_dirPut {s : State} {e : DirEntry} (h_s : Kept Q s) : Kept Q (dirPut s e) := by
  unfold dirPut; repeat' first | with_reducible assumption | (intro y; beta_reduce) | with_reducible first | apply kept_dirMap

theorem kept_dirDrop {s : State} {t x kind : Nat} (h_s : Kept Q s) : Kept Q (dirDrop s t x kind) := by
  unfold dirDrop; repeat' first | with_reducible assumption | (intro y; beta_reduce) | with_reducible first | apply kept_dirMap

theorem kept_storeDir {s : State} (h_s : Kept Q s) : Kept Q (storeDir s) := by
  unfold storeDir; repeat' first | with_reducible assumption | (intro y; beta_reduce) | (extract_lets -underBinder +onlyGivenNames x; refine kept_cut (Q := Q) (x := x) ?_ ?_; subst x; rotate_left; intro hx; clear_value x) | extract_lets -underBinder +onlyGivenNames x | with_reducible first | apply kept_ite | apply kept_foldl | apply kept_memWrite | (with_reducible apply kept_mk; first | with_reducible assumption | with_reducible first | apply kept_memWrite) | split | apply kept_snd

theorem kept_pickForCore {s : State} {core : Nat} {copies : List Nat} {primary : Nat} (h_s : Kept Q s) : KeptR Q (pickForCore s core copies primary) := by
  unfold pickForCore; repeat' first | with_reducible assumption | (intro y; beta_reduce) | (extract_lets -underBinder +onlyGivenNames x; refine kept_cut (Q := Q) (x := x) ?_ ?_; subst x; rotate_left; intro hx; clear_value x) | extract_lets -underBinder +onlyGivenNames x | with_reducible first | apply kept_corePut | (with_reducible apply kept_mk; first | with_reducible assumption | with_reducible first | apply kept_corePut) | split | with_reducible apply kept_pair | apply kept_fst

theorem kept_resolveRow {s : State} {core id x : Nat} (h_s : Kept Q s) : KeptR Q (resolveRow s core id x) := by
  unfold resolveRow; repeat' first | with_reducible assumption | (extract_lets -underBinder +onlyGivenNames x; refine kept_cut (Q := Q) (x := x) ?_ ?_; subst x; rotate_left; intro hx; clear_value x) | extract_lets -underBinder +onlyGivenNames x | with_reducible first | apply kept_pickForCore | split | with_reducible apply kept_pair | refine kept_ofR ?_ (by assumption) | (apply kept_snd; with_reducible first | apply kept_pickForCore) | assumption

theorem kept_serveAddr {s : State} {id x a : Nat} (h_s : Kept Q s) : KeptR Q (serveAddr s id x a) := by
  unfold serveAddr; repeat' first | with_reducible assumption | exact kept_mk (by with_reducible assumption) | split | with_reducible apply kept_pair | assumption

theorem kept_countSectors {s : State} {c n : Nat} (h_s : Kept Q s) : Kept Q (countSectors s c n) := by
  unfold countSectors; repeat' first | with_reducible assumption | (intro y; beta_reduce) | (extract_lets -underBinder +onlyGivenNames x; refine kept_cut (Q := Q) (x := x) ?_ ?_; subst x; rotate_left; intro hx; clear_value x) | extract_lets -underBinder +onlyGivenNames x | with_reducible first | apply kept_ite | exact kept_mk (by with_reducible assumption) | split

theorem kept_readDir {s : State} {die id x : Nat} (h_s : Kept Q s) : Kept Q (readDir s die id x) := by
  unfold readDir; repeat' first | with_reducible assumption | (intro y; beta_reduce) | (extract_lets -underBinder +onlyGivenNames x; refine kept_cut (Q := Q) (x := x) ?_ ?_; subst x; rotate_left; intro hx; clear_value x) | extract_lets -underBinder +onlyGivenNames x | with_reducible first | apply kept_ite | apply kept_countSectors | apply kept_draw | split | refine kept_ofR ?_ (by assumption) | apply kept_fst | (apply kept_snd; with_reducible first | apply kept_draw) | assumption

theorem kept_countRow {s : State} {a id x : Nat} {remote : Bool} (h_s : Kept Q s) : Kept Q (countRow s a id x remote) := by
  unfold countRow; repeat' first | with_reducible assumption | (intro y; beta_reduce) | (extract_lets -underBinder +onlyGivenNames x; refine kept_cut (Q := Q) (x := x) ?_ ?_; subst x; rotate_left; intro hx; clear_value x) | extract_lets -underBinder +onlyGivenNames x | with_reducible first | apply kept_ite | apply kept_foldl | exact kept_mk (by with_reducible assumption) | split | apply kept_fst | assumption

theorem kept_countRowRead {s : State} {a id x : Nat} {remote : Bool} (h_s : Kept Q s) : Kept Q (countRowRead s a id x remote) := by
  unfold countRowRead; repeat' first | with_reducible assumption | with_reducible first | apply kept_countRow | apply kept_countSectors | apply kept_fst | assumption

theorem kept_countRowWrite {s : State} {a id : Nat} (h_s : Kept Q s) : Kept Q (countRowWrite s a id) := by
  unfold countRowWrite; repeat' first | with_reducible assumption | (intro y; beta_reduce) | (extract_lets -underBinder +onlyGivenNames x; refine kept_cut (Q := Q) (x := x) ?_ ?_; subst x; rotate_left; intro hx; clear_value x) | extract_lets -underBinder +onlyGivenNames x | with_reducible first | apply kept_ite | exact kept_mk (by with_reducible assumption) | split | apply kept_fst | assumption

theorem kept_setMark {s : State} {t x : Nat} {v : Option Bool} (h_s : Kept Q s) : Kept Q (setMark s t x v) := by
  unfold setMark; repeat' first | with_reducible assumption | (intro y; beta_reduce) | (extract_lets -underBinder +onlyGivenNames x; refine kept_cut (Q := Q) (x := x) ?_ ?_; subst x; rotate_left; intro hx; clear_value x) | extract_lets -underBinder +onlyGivenNames x | exact kept_mk (by with_reducible assumption) | split

theorem kept_rowLost {s : State} {t x : Nat} (h_s : Kept Q s) : Kept Q (rowLost s t x) := by
  unfold rowLost; repeat' first | with_reducible assumption | (extract_lets -underBinder +onlyGivenNames x; refine kept_cut (Q := Q) (x := x) ?_ ?_; subst x; rotate_left; intro hx; clear_value x) | extract_lets -underBinder +onlyGivenNames x | with_reducible first | apply kept_event | apply kept_bump1 | apply kept_setMark | apply kept_reportFull | refine kept_ofR ?_ (by assumption) | apply kept_snd | (apply kept_snd; with_reducible first | apply kept_reportFull)

theorem kept_stageFull {s : State} (h_s : Kept Q s) : Kept Q (stageFull s) := by
  unfold stageFull; repeat' first | with_reducible assumption | (extract_lets -underBinder +onlyGivenNames x; refine kept_cut (Q := Q) (x := x) ?_ ?_; subst x; rotate_left; intro hx; clear_value x) | extract_lets -underBinder +onlyGivenNames x | with_reducible first | apply kept_ite | apply kept_event | apply kept_bump1 | (with_reducible apply kept_mk; first | with_reducible assumption | with_reducible first | apply kept_event | apply kept_bump1) | split

theorem kept_stageRow {s : State} {id x ver : Nat} {data : List Byte} (h_s : Kept Q s) : KeptR Q (stageRow s id x ver data) := by
  unfold stageRow; repeat' first | with_reducible assumption | (intro y; beta_reduce) | (extract_lets -underBinder +onlyGivenNames x; refine kept_cut (Q := Q) (x := x) ?_ ?_; subst x; rotate_left; intro hx; clear_value x) | extract_lets -underBinder +onlyGivenNames x | with_reducible first | apply kept_ite | apply kept_iteR | apply kept_tablePut | (with_reducible apply kept_mk; first | with_reducible assumption | with_reducible first | apply kept_tablePut) | split | with_reducible apply kept_pair | assumption

theorem kept_stageRestore {s : State} {id x : Nat} {data : List Byte} {reload : Bool} (h_s : Kept Q s) : Kept Q (stageRestore s id x data reload) := by
  unfold stageRestore; repeat' first | with_reducible assumption | (intro y; beta_reduce) | (extract_lets -underBinder +onlyGivenNames x; refine kept_cut (Q := Q) (x := x) ?_ ?_; subst x; rotate_left; intro hx; clear_value x) | extract_lets -underBinder +onlyGivenNames x | with_reducible first | apply kept_ite | apply kept_tablePut | (with_reducible apply kept_mk; first | with_reducible assumption | with_reducible first | apply kept_tablePut) | split | assumption

theorem kept_askPeer {k : Nat} {s : State} {id x dev : Nat} (h_s : Kept Q s) : Kept Q (askPeer k s id x dev) := by
  induction k generalizing s dev with
  | zero => exact kept_rowLost h_s
  | succ k ih =>
    unfold askPeer
    split
    rename_i e
    have h1 := kept_ofR (kept_newTag h_s) e
    split
    rename_i e
    have h2 := kept_ofR (kept_sendTagged h1) e
    apply kept_ite
    · exact kept_mk h2
    · split
      · exact ih h2
      · exact kept_rowLost h2


theorem kept_restoreRow {s : State} {id x : Nat} (h_s : Kept Q s) : Kept Q (restoreRow s id x) := by
  unfold restoreRow
  extract_lets t
  split
  rename_i master _ _ _ _
  clear_value master
  split
  · exact kept_stageRestore h_s
  · split
    · exact kept_stageRestore h_s
    · split
      · exact kept_stageRestore h_s
      · split
        · exact kept_askPeer h_s
        · exact kept_rowLost h_s


theorem kept_markRow {s : State} {id x : Nat} (h_s : Kept Q s) : Kept Q (markRow s id x) := by
  unfold markRow; repeat' first | with_reducible assumption | (extract_lets -underBinder +onlyGivenNames x; refine kept_cut (Q := Q) (x := x) ?_ ?_; subst x; rotate_left; intro hx; clear_value x) | extract_lets -underBinder +onlyGivenNames x | with_reducible first | apply kept_ite | apply kept_viewGrey | apply kept_event | apply kept_tablePut | apply kept_report | apply kept_restoreRow | apply kept_setMark | (with_reducible apply kept_mk; first | with_reducible assumption | with_reducible first | apply kept_viewGrey | apply kept_event | apply kept_tablePut | apply kept_report | apply kept_restoreRow | apply kept_setMark) | split | assumption

theorem kept_retryRestores {s : State} (h_s : Kept Q s) : Kept Q (retryRestores s) := by
  unfold retryRestores; repeat' first | with_reducible assumption | (intro y; beta_reduce) | (extract_lets -underBinder +onlyGivenNames x; refine kept_cut (Q := Q) (x := x) ?_ ?_; subst x; rotate_left; intro hx; clear_value x) | extract_lets -underBinder +onlyGivenNames x | with_reducible first | apply kept_ite | apply kept_foldl | apply kept_restoreRow | split

theorem kept_commitWrite {s : State} {a : Nat} {l : List Byte} {id x : Nat} (h_s : Kept Q s) : Kept Q (commitWrite s a l id x) := by
  unfold commitWrite; repeat' first | with_reducible assumption | (intro y; beta_reduce) | (extract_lets -underBinder +onlyGivenNames x; refine kept_cut (Q := Q) (x := x) ?_ ?_; subst x; rotate_left; intro hx; clear_value x) | extract_lets -underBinder +onlyGivenNames x | with_reducible first | apply kept_ite | apply kept_foldl | apply kept_memWrite | apply kept_markRow | split | assumption

theorem kept_restoreChan {s : State} {c : Nat} (h_s : Kept Q s) : Kept Q (restoreChan s c) := by
  unfold restoreChan; repeat' first | with_reducible assumption | (intro y; beta_reduce) | with_reducible first | apply kept_foldl | apply kept_markRow

end Sys2Proof.Machine
end

