-- ==== Sys2Proof/Laws/KeptDram.lean ====
section
/-! SUPPORT. What the operations of Dram keep (`Kept`). -/

namespace Sys2Proof.Machine

set_option linter.all false

variable {Q : Aim}

theorem kept_readUnits {s : State} {a n : Nat} {err : List (Nat × Nat)} (h_s : Kept Q s) : Kept Q (readUnits s a n err) := by
  unfold readUnits
  apply kept_foldl h_s
  intro y p hy
  have h1 := fun c u e => (kept_decodeUnit (c := c) (u := u) (err := e) (rec := true) hy).out
  exact kept_ite (kept_foldl (h1 _ _ _) fun _ _ h => kept_markRow h) (h1 _ _ _)


theorem kept_execHbmRead {addr len : Nat} {wide : Bool} {err : ReadErrors} {task : Nat} {s : State} (h_s : Kept Q s) : KeptO Q (execHbmRead addr len wide err task s) := by
  unfold execHbmRead; repeat' first | with_reducible assumption | split | with_reducible first | apply kept_ite | apply kept_iteO | (intro y; beta_reduce) | (extract_lets -underBinder +onlyGivenNames x; refine kept_cut (Q := Q) (x := x) ?_ ?_; subst x; rotate_left; intro hx; clear_value x) | extract_lets -underBinder +onlyGivenNames x | with_reducible first | apply kept_next | apply kept_endOwn | apply kept_countSectors | apply kept_countRow | apply kept_readUnits | apply kept_innerReports | apply kept_fst

theorem kept_execHbmWrite {addr : Nat} {data : List Byte} {task : Nat} {s : State} (h_s : Kept Q s) : KeptO Q (execHbmWrite addr data task s) := by
  unfold execHbmWrite; repeat' first | with_reducible assumption | with_reducible first | apply kept_ite | apply kept_iteO | apply kept_next | apply kept_endOwn | apply kept_memWrite | apply kept_taskWrite | split

theorem kept_execWcbAgeWriteback {chan : Nat} {unit : UnitRead} {s : State} (h_s : Kept Q s) : KeptO Q (execWcbAgeWriteback chan unit s) := by
  unfold execWcbAgeWriteback; repeat' first | with_reducible assumption | (extract_lets -underBinder +onlyGivenNames x; refine kept_cut (Q := Q) (x := x) ?_ ?_; subst x; rotate_left; intro hx; clear_value x) | extract_lets -underBinder +onlyGivenNames x | with_reducible first | apply kept_ite | apply kept_iteO | apply kept_next | apply kept_advance | apply kept_writeBack | apply kept_decodeUnit | apply kept_innerReports | apply kept_dropWrite | apply kept_bump1 | apply kept_takeEntry | split | refine kept_ofR ?_ (by assumption) | (apply kept_snd; with_reducible first | apply kept_decodeUnit)

theorem kept_flushWcb {s : State} {c : Nat} (h_s : Kept Q s) : Kept Q (flushWcb s c) := by
  unfold flushWcb; repeat' first | with_reducible assumption | (intro y; beta_reduce) | with_reducible first | apply kept_foldl | apply kept_writeBack

theorem kept_execCorrectedWriteback {_chan _off : Nat} {s : State} (h_s : Kept Q s) : KeptO Q (execCorrectedWriteback _chan _off s) := by
  unfold execCorrectedWriteback; repeat' first | with_reducible assumption | with_reducible first | apply kept_next

theorem kept_execMemRequestTimeout {chan off task : Nat} {s : State} (h_s : Kept Q s) : KeptO Q (execMemRequestTimeout chan off task s) := by
  unfold execMemRequestTimeout; repeat' first | with_reducible assumption | (extract_lets -underBinder +onlyGivenNames x; refine kept_cut (Q := Q) (x := x) ?_ ?_; subst x; rotate_left; intro hx; clear_value x) | extract_lets -underBinder +onlyGivenNames x | with_reducible first | apply kept_ite | apply kept_iteO | apply kept_next | apply kept_powered | apply kept_endOwn | apply kept_event | apply kept_chanErr | apply kept_bump1 | apply kept_report | apply kept_chanPut | apply kept_greyChan | (with_reducible apply kept_mk; first | with_reducible assumption | with_reducible first | apply kept_endOwn | apply kept_event | apply kept_chanErr | apply kept_bump1 | apply kept_report | apply kept_chanPut | apply kept_greyChan) | split

theorem kept_execPatrolScrubRead {chan : Nat} {err : ReadErrors} {s : State} (h_s : Kept Q s) : KeptO Q (execPatrolScrubRead chan err s) := by
  unfold execPatrolScrubRead; repeat' first | with_reducible assumption | (intro y; beta_reduce) | (extract_lets -underBinder +onlyGivenNames x; refine kept_cut (Q := Q) (x := x) ?_ ?_; subst x; rotate_left; intro hx; clear_value x) | extract_lets -underBinder +onlyGivenNames x | with_reducible first | apply kept_ite | apply kept_iteO | apply kept_next | apply kept_foldl | apply kept_powered | apply kept_innerReports | apply kept_chanPut | apply kept_decodeUnit | apply kept_markRow | apply kept_bump1 | (with_reducible apply kept_mk; first | with_reducible assumption | refine kept_ofR ?_ (by assumption) | with_reducible first | apply kept_innerReports | apply kept_chanPut | apply kept_markRow | apply kept_bump1) | split | refine kept_ofR ?_ (by assumption) | (apply kept_snd; with_reducible first | apply kept_decodeUnit)

theorem kept_verifyPass {s : State} {c : Nat} (h_s : Kept Q s) : Kept Q (verifyPass s c) := by
  unfold verifyPass; repeat' first | with_reducible assumption | (extract_lets -underBinder +onlyGivenNames x; refine kept_cut (Q := Q) (x := x) ?_ ?_; subst x; rotate_left; intro hx; clear_value x) | extract_lets -underBinder +onlyGivenNames x | with_reducible first | apply kept_chanPut | (with_reducible apply kept_mk; first | with_reducible assumption | with_reducible first | apply kept_chanPut)

theorem kept_readThermal {s : State} {stack temp : Nat} (h_s : Kept Q s) : Kept Q (readThermal s stack temp) := by
  unfold readThermal; repeat' first | with_reducible assumption | (intro y; beta_reduce) | (extract_lets -underBinder +onlyGivenNames x; refine kept_cut (Q := Q) (x := x) ?_ ?_; subst x; rotate_left; intro hx; clear_value x) | extract_lets -underBinder +onlyGivenNames x | with_reducible first | apply kept_ite | apply kept_foldl | apply kept_chanPut | (with_reducible apply kept_mk; first | with_reducible assumption | with_reducible first | apply kept_chanPut) | split

theorem kept_actThermal {s : State} {stack : Nat} (h_s : Kept Q s) : Kept Q (actThermal s stack) := by
  unfold actThermal; repeat' first | with_reducible assumption | (intro y; beta_reduce) | (extract_lets -underBinder +onlyGivenNames x; refine kept_cut (Q := Q) (x := x) ?_ ?_; subst x; rotate_left; intro hx; clear_value x) | extract_lets -underBinder +onlyGivenNames x | with_reducible first | apply kept_ite | apply kept_foldl | apply kept_report | apply kept_event | apply kept_chanPut | apply kept_greyChan | apply kept_verifyPass | (with_reducible apply kept_mk; first | with_reducible assumption | with_reducible first | apply kept_report | apply kept_event | apply kept_chanPut | apply kept_greyChan | apply kept_verifyPass) | split

theorem kept_execThermalReadingBringup {stack temp : Nat} {s : State} (h_s : Kept Q s) : KeptO Q (execThermalReadingBringup stack temp s) := by
  unfold execThermalReadingBringup; repeat' first | with_reducible assumption | with_reducible first | apply kept_ite | apply kept_iteO | apply kept_next | apply kept_powered | apply kept_actThermal | apply kept_readThermal | split

theorem kept_execChannelRetrainDone {chan : Nat} {kept : RetrainReport} {s : State} (h_s : Kept Q s) : KeptO Q (execChannelRetrainDone chan kept s) := by
  unfold execChannelRetrainDone; repeat' first | with_reducible assumption | (extract_lets -underBinder +onlyGivenNames x; refine kept_cut (Q := Q) (x := x) ?_ ?_; subst x; rotate_left; intro hx; clear_value x) | extract_lets -underBinder +onlyGivenNames x | with_reducible first | apply kept_ite | apply kept_iteO | apply kept_next | apply kept_chanPut | apply kept_setUnit | apply kept_verifyPass | apply kept_event | apply kept_reportFull | apply kept_restoreChan | (with_reducible apply kept_mk; first | with_reducible assumption | refine kept_ofR ?_ (by assumption) | with_reducible first | apply kept_chanPut | apply kept_setUnit | apply kept_verifyPass | apply kept_event | apply kept_restoreChan) | split | refine kept_ofR ?_ (by assumption) | (apply kept_snd; with_reducible first | apply kept_reportFull)

theorem kept_execStart {chan value : Nat} {s : State} (h_s : Kept Q s) : KeptO Q (execStart chan value s) := by
  unfold execStart; repeat' first | with_reducible assumption | (extract_lets -underBinder +onlyGivenNames x; refine kept_cut (Q := Q) (x := x) ?_ ?_; subst x; rotate_left; intro hx; clear_value x) | extract_lets -underBinder +onlyGivenNames x | with_reducible first | apply kept_ite | apply kept_iteO | apply kept_next | apply kept_fset | apply kept_chanPut | (with_reducible apply kept_mk; first | with_reducible assumption | with_reducible first | apply kept_fset | apply kept_chanPut) | split

theorem kept_startClear {s : State} {c : Nat} (h_s : Kept Q s) : Kept Q (startClear s c) := by
  unfold startClear; repeat' first | with_reducible assumption | (extract_lets -underBinder +onlyGivenNames x; refine kept_cut (Q := Q) (x := x) ?_ ?_; subst x; rotate_left; intro hx; clear_value x) | extract_lets -underBinder +onlyGivenNames x | with_reducible first | apply kept_chanPut | (with_reducible apply kept_mk; first | with_reducible assumption | with_reducible first | apply kept_chanPut)

theorem kept_execClearLost {chan : Nat} {s : State} (h_s : Kept Q s) : KeptO Q (execClearLost chan s) := by
  unfold execClearLost; repeat' first | with_reducible assumption | (extract_lets -underBinder +onlyGivenNames x; refine kept_cut (Q := Q) (x := x) ?_ ?_; subst x; rotate_left; intro hx; clear_value x) | extract_lets -underBinder +onlyGivenNames x | with_reducible first | apply kept_ite | apply kept_iteO | apply kept_next | apply kept_chanPut | apply kept_startClear | (with_reducible apply kept_mk; first | with_reducible assumption | with_reducible first | apply kept_chanPut | apply kept_startClear) | split

theorem kept_zeroChan {s : State} {c : Nat} (h_s : Kept Q s) : Kept Q (zeroChan s c) := by
  unfold zeroChan
  exact kept_chanPut (kept_foldl ⟨h_s.queue, h_s.clock, { h_s.canon with mem := mwf_filter _ h_s.canon.mem }⟩ fun _ _ h => kept_raiseGen h)


theorem kept_fillPattern {s : State} {c pattern n : Nat} (h_s : Kept Q s) : Kept Q (fillPattern s c pattern n) := by
  unfold fillPattern; repeat' first | with_reducible assumption | (intro y; beta_reduce) | (extract_lets -underBinder +onlyGivenNames x; refine kept_cut (Q := Q) (x := x) ?_ ?_; subst x; rotate_left; intro hx; clear_value x) | extract_lets -underBinder +onlyGivenNames x | with_reducible first | apply kept_ite | apply kept_foldl | apply kept_raiseGen | apply kept_chanPut | apply kept_putBytes | (with_reducible apply kept_mk; first | with_reducible assumption | with_reducible first | apply kept_raiseGen | apply kept_chanPut | apply kept_putBytes) | split

theorem kept_execAbort {chan : Nat} {s : State} (h_s : Kept Q s) : KeptO Q (execAbort chan s) := by
  unfold execAbort; repeat' first | with_reducible assumption | (extract_lets -underBinder +onlyGivenNames x; refine kept_cut (Q := Q) (x := x) ?_ ?_; subst x; rotate_left; intro hx; clear_value x) | extract_lets -underBinder +onlyGivenNames x | with_reducible first | apply kept_ite | apply kept_iteO | apply kept_next | apply kept_drawN | apply kept_fillPattern | apply kept_chanPut | (with_reducible apply kept_mk; first | with_reducible assumption | refine kept_ofR ?_ (by assumption) | with_reducible first | apply kept_fillPattern | apply kept_chanPut) | split | refine kept_ofR ?_ (by assumption) | (apply kept_snd; with_reducible first | apply kept_drawN)

theorem kept_testFindings {s : State} {c mode : Nat} {r : TestReport} (h_s : Kept Q s) : Kept Q (testFindings s c mode r) := by
  unfold testFindings; repeat' first | with_reducible assumption | (intro y; beta_reduce) | (extract_lets -underBinder +onlyGivenNames x; refine kept_cut (Q := Q) (x := x) ?_ ?_; subst x; rotate_left; intro hx; clear_value x) | extract_lets -underBinder +onlyGivenNames x | with_reducible first | apply kept_ite | apply kept_foldl | apply kept_corrected | apply kept_uncorrected | apply kept_rowFailed | split

theorem kept_testOver {s : State} {c fails : Nat} (h_s : Kept Q s) : Kept Q (testOver s c fails) := by
  unfold testOver; repeat' first | with_reducible assumption | (extract_lets -underBinder +onlyGivenNames x; refine kept_cut (Q := Q) (x := x) ?_ ?_; subst x; rotate_left; intro hx; clear_value x) | extract_lets -underBinder +onlyGivenNames x | with_reducible first | apply kept_ite | apply kept_chanPut | (with_reducible apply kept_mk; first | with_reducible assumption | with_reducible first | apply kept_chanPut) | split

theorem kept_execMemTestComplete {chan : Nat} {failing : TestReport} {s : State} (h_s : Kept Q s) : KeptO Q (execMemTestComplete chan failing s) := by
  unfold execMemTestComplete; repeat' first | with_reducible assumption | (intro y; beta_reduce) | (extract_lets -underBinder +onlyGivenNames x; refine kept_cut (Q := Q) (x := x) ?_ ?_; subst x; rotate_left; intro hx; clear_value x) | extract_lets -underBinder +onlyGivenNames x | with_reducible first | apply kept_ite | apply kept_iteO | apply kept_next | apply kept_testOver | apply kept_testFindings | apply kept_zeroChan | apply kept_setRecovered | apply kept_chanPut | apply kept_verifyPass | apply kept_fillPattern | (with_reducible apply kept_mk; first | with_reducible assumption | with_reducible first | apply kept_testOver | apply kept_testFindings | apply kept_zeroChan | apply kept_setRecovered | apply kept_chanPut | apply kept_verifyPass | apply kept_fillPattern) | split

theorem kept_execRemapCopyDone {chan row : Nat} {s : State} (h_s : Kept Q s) : KeptO Q (execRemapCopyDone chan row s) := by
  unfold execRemapCopyDone; repeat' first | with_reducible assumption | (intro y; beta_reduce) | (extract_lets -underBinder +onlyGivenNames x; refine kept_cut (Q := Q) (x := x) ?_ ?_; subst x; rotate_left; intro hx; clear_value x) | extract_lets -underBinder +onlyGivenNames x | with_reducible first | apply kept_ite | apply kept_iteO | apply kept_next | apply kept_chanPut | (with_reducible apply kept_mk; first | with_reducible assumption | with_reducible first | apply kept_chanPut) | split

end Sys2Proof.Machine
end

