-- ==== Sys2Proof/Laws/KeptSched.lean ====
section
/-! SUPPORT. What the operations of Sched keep (`Kept`). -/

namespace Sys2Proof.Machine

set_option linter.all false

variable {Q : Aim}

theorem kept_prefLost {s : State} {lost : Bool} (h_s : Kept Q s) : Kept Q (prefLost s lost) := by
  unfold prefLost; repeat' first | with_reducible assumption | with_reducible first | apply kept_ite | apply kept_event | apply kept_bump1 | split

theorem kept_enterList {s : State} {id : Nat} {t : Task} {l : Nat} {gated : Bool} (h_s : Kept Q s) : Kept Q (enterList s id t l gated) := by
  unfold enterList; repeat' first | with_reducible assumption | (extract_lets -underBinder +onlyGivenNames x; refine kept_cut (Q := Q) (x := x) ?_ ?_; subst x; rotate_left; intro hx; clear_value x) | extract_lets -underBinder +onlyGivenNames x | with_reducible first | apply kept_ite | apply kept_noteDepth | apply kept_taskPut | (with_reducible apply kept_mk; first | with_reducible assumption | with_reducible first | apply kept_noteDepth | apply kept_taskPut) | split | assumption

theorem kept_submit {s : State} {b : List Byte} {req : Nat} {inner : Bool} (h_s : Kept Q s) : KeptR Q (submit s b req inner) := by
  unfold submit; repeat' first | with_reducible assumption | (intro y; beta_reduce) | (extract_lets -underBinder +onlyGivenNames x; refine kept_cut (Q := Q) (x := x) ?_ ?_; subst x; rotate_left; intro hx; clear_value x) | extract_lets -underBinder +onlyGivenNames x | with_reducible first | apply kept_ite | apply kept_iteR | apply kept_event | apply kept_bump1 | apply kept_rset | apply kept_taskPut | apply kept_enterList | apply kept_prefLost | (with_reducible apply kept_mk; first | with_reducible assumption | with_reducible first | apply kept_event | apply kept_bump1 | apply kept_rset | apply kept_taskPut | apply kept_enterList | apply kept_prefLost) | split | with_reducible apply kept_pair | assumption

theorem kept_startTask {s : State} {id : Nat} {t : Task} {l p n : Nat} (h_s : Kept Q s) : Kept Q (startTask s id t l p n) := by
  unfold startTask; repeat' first | with_reducible assumption | (intro y; beta_reduce) | (extract_lets -underBinder +onlyGivenNames x; refine kept_cut (Q := Q) (x := x) ?_ ?_; subst x; rotate_left; intro hx; clear_value x) | extract_lets -underBinder +onlyGivenNames x | with_reducible first | apply kept_ite | apply kept_telPut | apply kept_bump1 | apply kept_taskPut | apply kept_hartSet | (with_reducible apply kept_mk; first | with_reducible assumption | with_reducible first | apply kept_telPut | apply kept_bump1 | apply kept_taskPut | apply kept_hartSet) | split | assumption

theorem kept_execTaskDispatch {lcore : Nat} {s : State} (h_s : Kept Q s) : KeptO Q (execTaskDispatch lcore s) := by
  unfold execTaskDispatch; repeat' first | with_reducible assumption | with_reducible first | apply kept_ite | apply kept_iteO | apply kept_next | apply kept_startTask | split | assumption

theorem kept_moveDelayed {s : State} {id : Nat} {t : Task} (h_s : Kept Q s) : Kept Q (moveDelayed s id t) := by
  unfold moveDelayed; repeat' first | with_reducible assumption | (extract_lets -underBinder +onlyGivenNames x; refine kept_cut (Q := Q) (x := x) ?_ ?_; subst x; rotate_left; intro hx; clear_value x) | extract_lets -underBinder +onlyGivenNames x | with_reducible first | apply kept_ite | apply kept_event | apply kept_enterList | apply kept_prefLost | apply kept_taskPut | (with_reducible apply kept_mk; first | with_reducible assumption | with_reducible first | apply kept_event | apply kept_enterList | apply kept_prefLost | apply kept_taskPut) | split | assumption

theorem kept_execDelayEntryDue {task : Nat} {s : State} (h_s : Kept Q s) : KeptO Q (execDelayEntryDue task s) := by
  unfold execDelayEntryDue; repeat' first | with_reducible assumption | (extract_lets -underBinder +onlyGivenNames x; refine kept_cut (Q := Q) (x := x) ?_ ?_; subst x; rotate_left; intro hx; clear_value x) | extract_lets -underBinder +onlyGivenNames x | with_reducible first | apply kept_ite | apply kept_iteO | apply kept_next | apply kept_advance | apply kept_moveDelayed | split

theorem kept_execDelayEntryRoom {task : Nat} {s : State} (h_s : Kept Q s) : KeptO Q (execDelayEntryRoom task s) := by
  unfold execDelayEntryRoom; repeat' first | with_reducible assumption | with_reducible first | apply kept_ite | apply kept_iteO | apply kept_next | apply kept_moveDelayed | split

theorem kept_delayedAtStart {s : State} (h_s : Kept Q s) : Kept Q (delayedAtStart s) := by
  unfold delayedAtStart; repeat' first | with_reducible assumption | (intro y; beta_reduce) | with_reducible first | apply kept_foldl | apply kept_moveDelayed

theorem kept_finishTask {s : State} {id : Nat} {t : Task} {status cause result : Nat} (h_s : Kept Q s) : Kept Q (finishTask s id t status cause result) := by
  unfold finishTask; repeat' first | with_reducible assumption | (extract_lets -underBinder +onlyGivenNames x; refine kept_cut (Q := Q) (x := x) ?_ ?_; subst x; rotate_left; intro hx; clear_value x) | extract_lets -underBinder +onlyGivenNames x | with_reducible first | apply kept_ite | apply kept_memWrite | (with_reducible apply kept_mk; first | with_reducible assumption | with_reducible first | apply kept_memWrite) | split | assumption

theorem kept_grantFinal {s : State} {id : Nat} (h_s : Kept Q s) : Kept Q (grantFinal s id) := by
  unfold grantFinal; repeat' first | with_reducible assumption | (extract_lets -underBinder +onlyGivenNames x; refine kept_cut (Q := Q) (x := x) ?_ ?_; subst x; rotate_left; intro hx; clear_value x) | extract_lets -underBinder +onlyGivenNames x | with_reducible first | apply kept_ite | apply kept_bump1 | apply kept_telPut | apply kept_taskPut | apply kept_finishTask | (with_reducible apply kept_mk; first | with_reducible assumption | with_reducible first | apply kept_bump1 | apply kept_telPut | apply kept_taskPut | apply kept_finishTask) | split | assumption

theorem kept_abortResult {s : State} {b : Aborter} {res : Nat} (h_s : Kept Q s) : Kept Q (abortResult s b res) := by
  unfold abortResult; repeat' first | with_reducible assumption | with_reducible first | apply kept_rset | split

theorem kept_stopStrand {s : State} {id : Nat} {t : Task} (h_s : Kept Q s) : Kept Q (stopStrand s id t) := by
  unfold stopStrand; repeat' first | with_reducible assumption | (intro y; beta_reduce) | (extract_lets -underBinder +onlyGivenNames x; refine kept_cut (Q := Q) (x := x) ?_ ?_; subst x; rotate_left; intro hx; clear_value x) | extract_lets -underBinder +onlyGivenNames x | with_reducible first | apply kept_matEnd | apply kept_cancelCmds | apply kept_hartSet | apply kept_departLatch | apply kept_bump1 | apply kept_telPut | (with_reducible apply kept_mk; first | with_reducible assumption | with_reducible first | apply kept_matEnd | apply kept_cancelCmds | apply kept_hartSet | apply kept_departLatch | apply kept_bump1 | apply kept_telPut) | assumption

theorem kept_decideAbort {s : State} {id : Nat} {b : Aborter} (h_s : Kept Q s) : Kept Q (decideAbort s id b) := by
  unfold decideAbort; repeat' first | with_reducible assumption | (extract_lets -underBinder +onlyGivenNames x; refine kept_cut (Q := Q) (x := x) ?_ ?_; subst x; rotate_left; intro hx; clear_value x) | extract_lets -underBinder +onlyGivenNames x | with_reducible first | apply kept_ite | apply kept_abortResult | apply kept_bump1 | apply kept_stopStrand | apply kept_report | apply kept_finishTask | (with_reducible apply kept_mk; first | with_reducible assumption | with_reducible first | apply kept_abortResult | apply kept_bump1 | apply kept_stopStrand | apply kept_report | apply kept_finishTask) | split | assumption

theorem kept_decide1 {s : State} {r : ArbReq} (h_s : Kept Q s) : Kept Q (decide1 s r) := by
  unfold decide1; repeat' first | with_reducible assumption | with_reducible first | apply kept_grantFinal | apply kept_decideAbort | split

theorem kept_execCommitArbiterGrant {die : Nat} {s : State} (h_s : Kept Q s) : KeptO Q (execCommitArbiterGrant die s) := by
  unfold execCommitArbiterGrant; repeat' first | with_reducible assumption | with_reducible first | apply kept_next | apply kept_decide1 | (with_reducible apply kept_mk; first | with_reducible assumption | with_reducible first | apply kept_decide1) | split

theorem kept_grantAll {s : State} (h_s : Kept Q s) : Kept Q (grantAll s) := by
  unfold grantAll; repeat' first | with_reducible assumption | (extract_lets -underBinder +onlyGivenNames x; refine kept_cut (Q := Q) (x := x) ?_ ?_; subst x; rotate_left; intro hx; clear_value x) | extract_lets -underBinder +onlyGivenNames x | with_reducible first | apply kept_foldl | apply kept_decide1 | (with_reducible apply kept_mk; first | with_reducible assumption | with_reducible first | apply kept_decide1)

theorem kept_execCompHitchSignal {s : State} (h_s : Kept Q s) : KeptO Q (execCompHitchSignal s) := by
  unfold execCompHitchSignal; repeat' first | with_reducible assumption | (extract_lets -underBinder +onlyGivenNames x; refine kept_cut (Q := Q) (x := x) ?_ ?_; subst x; rotate_left; intro hx; clear_value x) | extract_lets -underBinder +onlyGivenNames x | with_reducible first | apply kept_ite | apply kept_iteO | apply kept_next | apply kept_signalHitch | apply kept_event | apply kept_bump1 | (with_reducible apply kept_mk; first | with_reducible assumption | refine kept_ofR ?_ (by assumption) | with_reducible first | apply kept_event | apply kept_bump1) | split | refine kept_ofR ?_ (by assumption) | (apply kept_snd; with_reducible first | apply kept_signalHitch)

theorem kept_execSchAbort {k task : Nat} {s : State} (h_s : Kept Q s) : KeptO Q (execSchAbort k task s) := by
  unfold execSchAbort; repeat' first | with_reducible assumption | with_reducible first | apply kept_ite | apply kept_iteO | apply kept_next | apply kept_powered | apply kept_rset | (with_reducible apply kept_mk; first | with_reducible assumption | with_reducible first | apply kept_rset) | split

theorem kept_execAbortArrival {task : Nat} {s : State} (h_s : Kept Q s) : KeptO Q (execAbortArrival task s) := by
  unfold execAbortArrival; repeat' first | with_reducible assumption | (intro y; beta_reduce) | (extract_lets -underBinder +onlyGivenNames x; refine kept_cut (Q := Q) (x := x) ?_ ?_; subst x; rotate_left; intro hx; clear_value x) | extract_lets -underBinder +onlyGivenNames x | with_reducible first | apply kept_ite | apply kept_iteO | apply kept_next | apply kept_grantFinal | apply kept_decide1 | (with_reducible apply kept_mk; first | with_reducible assumption | with_reducible first | apply kept_grantFinal | apply kept_decide1) | split

theorem kept_abortTasks {s : State} {req : Nat} (h_s : Kept Q s) : Kept Q (abortTasks s req) := by
  unfold abortTasks; repeat' first | with_reducible assumption | (intro y; beta_reduce) | (extract_lets -underBinder +onlyGivenNames x; refine kept_cut (Q := Q) (x := x) ?_ ?_; subst x; rotate_left; intro hx; clear_value x) | extract_lets -underBinder +onlyGivenNames x | exact kept_mk (by with_reducible assumption)

theorem kept_execTaskCommitRequest {h : Hart} {s : State} (h_s : Kept Q s) : KeptO Q (execTaskCommitRequest h s) := by
  unfold execTaskCommitRequest; repeat' first | with_reducible assumption | (intro y; beta_reduce) | (extract_lets -underBinder +onlyGivenNames x; refine kept_cut (Q := Q) (x := x) ?_ ?_; subst x; rotate_left; intro hx; clear_value x) | extract_lets -underBinder +onlyGivenNames x | with_reducible first | apply kept_ite | apply kept_iteO | apply kept_next | apply kept_endOwn | split

theorem kept_execStrandWaitEnd {h : Hart} {s : State} (h_s : Kept Q s) : KeptO Q (execStrandWaitEnd h s) := by
  unfold execStrandWaitEnd; repeat' first | with_reducible assumption | (extract_lets -underBinder +onlyGivenNames x; refine kept_cut (Q := Q) (x := x) ?_ ?_; subst x; rotate_left; intro hx; clear_value x) | extract_lets -underBinder +onlyGivenNames x | with_reducible first | apply kept_ite | apply kept_iteO | apply kept_next | apply kept_putHart | (with_reducible apply kept_mk; first | with_reducible assumption | with_reducible first | apply kept_putHart) | split

theorem kept_execStrandTimeout {h : Hart} {s : State} (h_s : Kept Q s) : KeptO Q (execStrandTimeout h s) := by
  unfold execStrandTimeout; repeat' first | with_reducible assumption | (extract_lets -underBinder +onlyGivenNames x; refine kept_cut (Q := Q) (x := x) ?_ ?_; subst x; rotate_left; intro hx; clear_value x) | extract_lets -underBinder +onlyGivenNames x | with_reducible first | apply kept_ite | apply kept_iteO | apply kept_next | apply kept_advance | apply kept_endTask | apply kept_ctrlFault | split

theorem kept_enterRelease {s : State} {r : Release} {gated : Bool} (h_s : Kept Q s) : KeptR Q (enterRelease s r gated) := by
  unfold enterRelease; repeat' first | with_reducible assumption | (extract_lets -underBinder +onlyGivenNames x; refine kept_cut (Q := Q) (x := x) ?_ ?_; subst x; rotate_left; intro hx; clear_value x) | extract_lets -underBinder +onlyGivenNames x | with_reducible first | apply kept_ite | apply kept_iteR | apply kept_event | apply kept_bump1 | apply kept_rset | apply kept_enterList | apply kept_prefLost | (with_reducible apply kept_mk; first | with_reducible assumption | with_reducible first | apply kept_event | apply kept_bump1 | apply kept_rset | apply kept_enterList | apply kept_prefLost) | split | with_reducible apply kept_pair | assumption

theorem kept_enterReleases {gated : Bool} {l : List Release} {s : State} (h_s : Kept Q s) : KeptR Q (enterReleases gated l s) := by
  induction l generalizing s with
  | nil => exact kept_pair h_s
  | cons r rest ih =>
    unfold enterReleases
    split
    rename_i t e
    have ht := kept_ofR (kept_enterRelease h_s) e
    split
    rename_i u e'
    exact kept_pair (kept_ofR (ih ht) e')


theorem kept_enterLate {l : List Release} {s : State} (h_s : Kept Q s) : KeptR Q (enterLate l s) := by
  induction l generalizing s with
  | nil => exact kept_pair h_s
  | cons r rest ih =>
    unfold enterLate
    split
    rename_i t e
    have ht := kept_ofR (kept_enterRelease h_s) e
    split
    · exact kept_pair ht
    · split
      rename_i u e'
      exact kept_pair (kept_ofR (ih ht) e')


theorem kept_keepReleases {p : List Release × State} (h_p : KeptR Q p) : Kept Q (keepReleases p) := by
  unfold keepReleases
  exact kept_mk h_p.out


theorem kept_execReleaseLateEntry {s : State} (h_s : Kept Q s) : KeptO Q (execReleaseLateEntry s) := by
  unfold execReleaseLateEntry; repeat' first | with_reducible assumption | with_reducible first | apply kept_ite | apply kept_iteO | apply kept_next | apply kept_keepReleases | apply kept_enterLate | split | refine kept_ofR ?_ (by assumption) | (apply kept_snd; with_reducible first | apply kept_enterLate)

theorem kept_openGates {s : State} (h_s : Kept Q s) : Kept Q (openGates s) := by
  unfold openGates; repeat' first | with_reducible assumption | (intro y; beta_reduce) | exact kept_mk (by with_reducible assumption)

theorem kept_dropReleases {s : State} (h_s : Kept Q s) : Kept Q (dropReleases s) := by
  unfold dropReleases; repeat' first | with_reducible assumption | (extract_lets -underBinder +onlyGivenNames x; refine kept_cut (Q := Q) (x := x) ?_ ?_; subst x; rotate_left; intro hx; clear_value x) | extract_lets -underBinder +onlyGivenNames x | with_reducible first | apply kept_ite | apply kept_event | apply kept_bump | (with_reducible apply kept_mk; first | with_reducible assumption | with_reducible first | apply kept_event | apply kept_bump) | split

theorem kept_placeReruns {s : State} (h_s : Kept Q s) : Kept Q (placeReruns s) := by
  unfold placeReruns; repeat' first | with_reducible assumption | (intro y; beta_reduce) | (extract_lets -underBinder +onlyGivenNames x; refine kept_cut (Q := Q) (x := x) ?_ ?_; subst x; rotate_left; intro hx; clear_value x) | extract_lets -underBinder +onlyGivenNames x | with_reducible first | apply kept_ite | apply kept_foldl | apply kept_noteDepth | apply kept_taskPut | (with_reducible apply kept_mk; first | with_reducible assumption | with_reducible first | apply kept_noteDepth | apply kept_taskPut) | split | apply kept_fst | assumption

theorem kept_outerEnd {s : State} {id : Nat} {t : Task} {cause : Nat} (h_s : Kept Q s) : Kept Q (outerEnd s id t cause) := by
  unfold outerEnd; repeat' first | with_reducible assumption | (extract_lets -underBinder +onlyGivenNames x; refine kept_cut (Q := Q) (x := x) ?_ ?_; subst x; rotate_left; intro hx; clear_value x) | extract_lets -underBinder +onlyGivenNames x | with_reducible first | apply kept_telPut | apply kept_taskPut | apply kept_rset | apply kept_report | (with_reducible apply kept_mk; first | with_reducible assumption | with_reducible first | apply kept_telPut | apply kept_taskPut | apply kept_rset | apply kept_report) | assumption

theorem kept_endGrey {s : State} {p : Task → Bool} {cause : Nat} (h_s : Kept Q s) : Kept Q (endGrey s p cause) := by
  unfold endGrey; repeat' first | with_reducible assumption | (intro y; beta_reduce) | (extract_lets -underBinder +onlyGivenNames x; refine kept_cut (Q := Q) (x := x) ?_ ?_; subst x; rotate_left; intro hx; clear_value x) | extract_lets -underBinder +onlyGivenNames x | with_reducible first | apply kept_foldl | apply kept_outerEnd | apply kept_endTask | apply h_p

theorem kept_rehome {s : State} (h_s : Kept Q s) : Kept Q (rehome s) := by
  unfold rehome; repeat' first | with_reducible assumption | (intro y; beta_reduce) | (extract_lets -underBinder +onlyGivenNames x; refine kept_cut (Q := Q) (x := x) ?_ ?_; subst x; rotate_left; intro hx; clear_value x) | extract_lets -underBinder +onlyGivenNames x | with_reducible first | apply kept_foldl | apply kept_noteDepth | apply kept_taskPut | apply kept_prefLost | (with_reducible apply kept_mk; first | with_reducible assumption | with_reducible first | apply kept_noteDepth | apply kept_taskPut | apply kept_prefLost) | split

theorem kept_execTaskMessageRx {src tag : Nat} {body : List Byte} {s : State} (h_s : Kept Q s) : KeptO Q (execTaskMessageRx src tag body s) := by
  unfold execTaskMessageRx; repeat' first | with_reducible assumption | (extract_lets -underBinder +onlyGivenNames x; refine kept_cut (Q := Q) (x := x) ?_ ?_; subst x; rotate_left; intro hx; clear_value x) | extract_lets -underBinder +onlyGivenNames x | with_reducible first | apply kept_ite | apply kept_iteO | apply kept_next | apply kept_powered | apply kept_submit | apply kept_report | apply kept_takeMsg | split | refine kept_ofR ?_ (by assumption) | (apply kept_snd; with_reducible first | apply kept_submit)

end Sys2Proof.Machine
end

