-- ==== Sys2Proof/Laws/KeptQueue.lean ====
section
/-! SUPPORT. What the operations of Queue keep (`Kept`). -/

namespace Sys2Proof.Machine

set_option linter.all false

variable {Q : Aim}

theorem kept_accepted {s : State} {h : Hart} (h_s : Kept Q s) : Kept Q (accepted s h) := by
  unfold accepted; repeat' first | with_reducible assumption | (extract_lets -underBinder +onlyGivenNames x; refine kept_cut (Q := Q) (x := x) ?_ ?_; subst x; rotate_left; intro hx; clear_value x) | extract_lets -underBinder +onlyGivenNames x | with_reducible first | apply kept_putHart | (with_reducible apply kept_mk; first | with_reducible assumption | with_reducible first | apply kept_putHart)

theorem kept_waitRoom {s : State} {h : Hart} {w : WaitFor} (h_s : Kept Q s) : Kept Q (waitRoom s h w) := by
  unfold waitRoom; repeat' first | with_reducible assumption | (extract_lets -underBinder +onlyGivenNames x; refine kept_cut (Q := Q) (x := x) ?_ ?_; subst x; rotate_left; intro hx; clear_value x) | extract_lets -underBinder +onlyGivenNames x | with_reducible first | apply kept_ite | apply kept_putHart | (with_reducible apply kept_mk; first | with_reducible assumption | with_reducible first | apply kept_putHart) | split

theorem kept_issueCmd {s : State} {h : Hart} {k : CmdKind} {size : Nat} {rd rs1 rs2 : Reg} (h_s : Kept Q s) : Kept Q (issueCmd s h k size rd rs1 rs2) := by
  unfold issueCmd; repeat' first | with_reducible assumption | (intro y; beta_reduce) | (extract_lets -underBinder +onlyGivenNames x; refine kept_cut (Q := Q) (x := x) ?_ ?_; subst x; rotate_left; intro hx; clear_value x) | extract_lets -underBinder +onlyGivenNames x | with_reducible first | apply kept_ite | apply kept_strandOnly | apply kept_demandFault | apply kept_waitRoom | apply kept_corePut | apply kept_putHart | apply kept_retire | apply kept_accepted | (with_reducible apply kept_mk; first | with_reducible assumption | with_reducible first | apply kept_strandOnly | apply kept_demandFault | apply kept_waitRoom | apply kept_corePut | apply kept_putHart | apply kept_retire | apply kept_accepted) | split | assumption

theorem kept_execQgather {h : Hart} {g : Guard} {rd rs1 rs2 : Reg} {s : State} (h_s : Kept Q s) : KeptO Q (execQgather h g rd rs1 rs2 s) := by
  unfold execQgather; repeat' first | with_reducible assumption | (intro y; beta_reduce) | with_reducible first | apply kept_next | apply kept_spelled | apply kept_issue | apply kept_issueCmd

theorem kept_execQlookup {h : Hart} {g : Guard} {rd rs1 rs2 : Reg} {s : State} (h_s : Kept Q s) : KeptO Q (execQlookup h g rd rs1 rs2 s) := by
  unfold execQlookup; repeat' first | with_reducible assumption | (intro y; beta_reduce) | with_reducible first | apply kept_next | apply kept_spelled | apply kept_issue | apply kept_issueCmd

theorem kept_execQchain {h : Hart} {g : Guard} {rd rs1 rs2 : Reg} {s : State} (h_s : Kept Q s) : KeptO Q (execQchain h g rd rs1 rs2 s) := by
  unfold execQchain; repeat' first | with_reducible assumption | (intro y; beta_reduce) | with_reducible first | apply kept_next | apply kept_spelled | apply kept_issue | apply kept_issueCmd

theorem kept_execQmat {h : Hart} {g : Guard} {rd rs1 rs2 : Reg} {s : State} (h_s : Kept Q s) : KeptO Q (execQmat h g rd rs1 rs2 s) := by
  unfold execQmat; repeat' first | with_reducible assumption | (intro y; beta_reduce) | with_reducible first | apply kept_next | apply kept_spelled | apply kept_issue | apply kept_issueCmd

theorem kept_execQsend {h : Hart} {g : Guard} {rd rs1 rs2 : Reg} {s : State} (h_s : Kept Q s) : KeptO Q (execQsend h g rd rs1 rs2 s) := by
  unfold execQsend; repeat' first | with_reducible assumption | (intro y; beta_reduce) | with_reducible first | apply kept_next | apply kept_spelled | apply kept_issue | apply kept_issueCmd

theorem kept_execQwait {h : Hart} {g : Guard} {rd rs1 : Reg} {s : State} (h_s : Kept Q s) : KeptO Q (execQwait h g rd rs1 s) := by
  unfold execQwait; repeat' first | with_reducible assumption | (intro y; beta_reduce) | (extract_lets -underBinder +onlyGivenNames x; refine kept_cut (Q := Q) (x := x) ?_ ?_; subst x; rotate_left; intro hx; clear_value x) | extract_lets -underBinder +onlyGivenNames x | with_reducible first | apply kept_ite | apply kept_iteO | apply kept_next | apply kept_spelled | apply kept_issue | apply kept_strandOnly | apply kept_enterWait | apply kept_retire | split

theorem kept_execQpoll {h : Hart} {g : Guard} {rd rs1 : Reg} {s : State} (h_s : Kept Q s) : KeptO Q (execQpoll h g rd rs1 s) := by
  unfold execQpoll; repeat' first | with_reducible assumption | (intro y; beta_reduce) | with_reducible first | apply kept_ite | apply kept_iteO | apply kept_next | apply kept_spelled | apply kept_issue | apply kept_strandOnly | apply kept_retire | split

theorem kept_execQdrainall {h : Hart} {g : Guard} {rd : Reg} {s : State} (h_s : Kept Q s) : KeptO Q (execQdrainall h g rd s) := by
  unfold execQdrainall; repeat' first | with_reducible assumption | (intro y; beta_reduce) | (extract_lets -underBinder +onlyGivenNames x; refine kept_cut (Q := Q) (x := x) ?_ ?_; subst x; rotate_left; intro hx; clear_value x) | extract_lets -underBinder +onlyGivenNames x | with_reducible first | apply kept_ite | apply kept_iteO | apply kept_next | apply kept_spelled | apply kept_issue | apply kept_strandOnly | apply kept_enterWait | apply kept_retire | apply kept_putHart | (with_reducible apply kept_mk; first | with_reducible assumption | with_reducible first | apply kept_strandOnly | apply kept_enterWait | apply kept_retire | apply kept_putHart) | split

end Sys2Proof.Machine
end

