-- ==== Sys2Proof/Laws/KeptSync.lean ====
section
/-! SUPPORT. What the operations of Sync keep (`Kept`). -/

namespace Sys2Proof.Machine

set_option linter.all false

variable {Q : Aim}

theorem kept_refuse {s : State} {h : Hart} {rd : Reg} {x : Nat} (h_s : Kept Q s) : Kept Q (refuse s h rd x) := by
  unfold refuse; repeat' first | with_reducible assumption | with_reducible first | apply kept_retire | apply kept_bump1

theorem kept_remoteOp {s : State} {h : Hart} {op dev x y : Nat} {rd : Reg} (h_s : Kept Q s) : Kept Q (remoteOp s h op dev x y rd) := by
  unfold remoteOp; repeat' first | with_reducible assumption | (extract_lets -underBinder +onlyGivenNames x; refine kept_cut (Q := Q) (x := x) ?_ ?_; subst x; rotate_left; intro hx; clear_value x) | extract_lets -underBinder +onlyGivenNames x | split | with_reducible first | apply kept_sendMsg | apply kept_enterWait | (with_reducible apply kept_mk; first | with_reducible assumption | refine kept_ofT ?_ (by assumption) | with_reducible first | apply kept_enterWait) | refine kept_ofT ?_ (by assumption) | (apply kept_trd; with_reducible first | apply kept_sendMsg)

theorem kept_hitchOpIns {s : State} {h : Hart} {g : Guard} {op : Nat} {rd rs1 rs2 : Reg} {ok : Nat → Bool} {apply : State → Nat → Nat → Nat × State} (h_s : Kept Q s) (h_apply : ∀ x0 x1 x2, Kept Q x0 → KeptR Q (apply x0 x1 x2)) : KeptO Q (hitchOpIns s h g op rd rs1 rs2 ok apply) := by
  unfold hitchOpIns; repeat' first | with_reducible assumption | (intro y; beta_reduce) | (extract_lets -underBinder +onlyGivenNames x; refine kept_cut (Q := Q) (x := x) ?_ ?_; subst x; rotate_left; intro hx; clear_value x) | extract_lets -underBinder +onlyGivenNames x | with_reducible first | apply kept_ite | apply kept_iteO | apply kept_next | apply kept_issue | apply kept_refuse | apply kept_remoteOp | apply kept_retire | apply h_ok | apply h_apply | split | refine kept_ofR ?_ (by assumption) | (apply kept_snd; with_reducible first | apply h_apply)

theorem kept_execHrelone {h : Hart} {g : Guard} {rd rs1 rs2 : Reg} {s : State} (h_s : Kept Q s) : KeptO Q (execHrelone h g rd rs1 rs2 s) := by
  unfold execHrelone; repeat' first | with_reducible assumption | (intro y; beta_reduce) | with_reducible first | apply kept_next | apply kept_spelled | apply kept_hitchOpIns | apply kept_opRelOne | refine kept_ofR ?_ (by assumption) | (apply kept_snd; with_reducible first | apply kept_opRelOne)

theorem kept_execHrelall {h : Hart} {g : Guard} {rd rs1 rs2 : Reg} {s : State} (h_s : Kept Q s) : KeptO Q (execHrelall h g rd rs1 rs2 s) := by
  unfold execHrelall; repeat' first | with_reducible assumption | (intro y; beta_reduce) | with_reducible first | apply kept_next | apply kept_spelled | apply kept_hitchOpIns | apply kept_opRelAll | refine kept_ofR ?_ (by assumption) | (apply kept_snd; with_reducible first | apply kept_opRelAll)

theorem kept_execHadd {h : Hart} {g : Guard} {rd rs1 rs2 : Reg} {s : State} (h_s : Kept Q s) : KeptO Q (execHadd h g rd rs1 rs2 s) := by
  unfold execHadd; repeat' first | with_reducible assumption | (intro y; beta_reduce) | with_reducible first | apply kept_next | apply kept_spelled | apply kept_hitchOpIns | apply kept_opAdd | refine kept_ofR ?_ (by assumption) | (apply kept_snd; with_reducible first | apply kept_opAdd)

theorem kept_execHtest {h : Hart} {g : Guard} {rd rs1 rs2 : Reg} {s : State} (h_s : Kept Q s) : KeptO Q (execHtest h g rd rs1 rs2 s) := by
  unfold execHtest; repeat' first | with_reducible assumption | (intro y; beta_reduce) | with_reducible first | apply kept_next | apply kept_spelled | apply kept_hitchOpIns | apply kept_opTest | refine kept_ofR ?_ (by assumption) | (apply kept_snd; with_reducible first | apply kept_opTest)

theorem kept_execHarrive {h : Hart} {g : Guard} {rd rs1 rs2 : Reg} {s : State} (h_s : Kept Q s) : KeptO Q (execHarrive h g rd rs1 rs2 s) := by
  unfold execHarrive; repeat' first | with_reducible assumption | (intro y; beta_reduce) | (extract_lets -underBinder +onlyGivenNames x; refine kept_cut (Q := Q) (x := x) ?_ ?_; subst x; rotate_left; intro hx; clear_value x) | extract_lets -underBinder +onlyGivenNames x | with_reducible first | apply kept_ite | apply kept_iteO | apply kept_next | apply kept_spelled | apply kept_issue | apply kept_refuse | apply kept_opArrive | apply kept_retire | split | refine kept_ofR ?_ (by assumption) | (apply kept_snd; with_reducible first | apply kept_opArrive)

theorem kept_execHwait {h : Hart} {g : Guard} {rd rs1 rs2 : Reg} {s : State} (h_s : Kept Q s) : KeptO Q (execHwait h g rd rs1 rs2 s) := by
  unfold execHwait; repeat' first | with_reducible assumption | (intro y; beta_reduce) | (extract_lets -underBinder +onlyGivenNames x; refine kept_cut (Q := Q) (x := x) ?_ ?_; subst x; rotate_left; intro hx; clear_value x) | extract_lets -underBinder +onlyGivenNames x | with_reducible first | apply kept_ite | apply kept_iteO | apply kept_next | apply kept_spelled | apply kept_issue | apply kept_refuse | apply kept_hitOp | apply kept_hitchPut | apply kept_retire | apply kept_enterWait | apply kept_takeTicket | apply kept_putHart | (with_reducible apply kept_mk; first | with_reducible assumption | with_reducible first | apply kept_refuse | apply kept_hitOp | apply kept_hitchPut | apply kept_retire | apply kept_enterWait | apply kept_takeTicket | apply kept_putHart) | split | assumption

theorem kept_knotAnswer {s : State} {h : Hart} {rd : Reg} {b st : Nat} (h_s : Kept Q s) : Kept Q (knotAnswer s h rd b st) := by
  unfold knotAnswer; repeat' first | with_reducible assumption | (extract_lets -underBinder +onlyGivenNames x; refine kept_cut (Q := Q) (x := x) ?_ ?_; subst x; rotate_left; intro hx; clear_value x) | extract_lets -underBinder +onlyGivenNames x | with_reducible first | apply kept_ite | apply kept_bump1 | apply kept_retire | split

theorem kept_arriveNode {s : State} {b n i : Nat} {sense : Bool} (h_s : Kept Q s) : Kept Q (arriveNode s b n i sense) := by
  unfold arriveNode; repeat' first | with_reducible assumption | (extract_lets -underBinder +onlyGivenNames x; refine kept_cut (Q := Q) (x := x) ?_ ?_; subst x; rotate_left; intro hx; clear_value x) | extract_lets -underBinder +onlyGivenNames x | with_reducible first | apply kept_ite | apply kept_barPut | apply kept_sendArrival | split

theorem kept_execKarrive {h : Hart} {g : Guard} {rd rs1 rs2 : Reg} {s : State} (h_s : Kept Q s) : KeptO Q (execKarrive h g rd rs1 rs2 s) := by
  unfold execKarrive; repeat' first | with_reducible assumption | (intro y; beta_reduce) | (extract_lets -underBinder +onlyGivenNames x; refine kept_cut (Q := Q) (x := x) ?_ ?_; subst x; rotate_left; intro hx; clear_value x) | extract_lets -underBinder +onlyGivenNames x | with_reducible first | apply kept_ite | apply kept_iteO | apply kept_next | apply kept_spelled | apply kept_issue | apply kept_knotAnswer | apply kept_arriveNode | apply kept_retire | apply kept_putHart | apply kept_event | apply kept_bump1 | (with_reducible apply kept_mk; first | with_reducible assumption | with_reducible first | apply kept_knotAnswer | apply kept_arriveNode | apply kept_retire | apply kept_putHart | apply kept_event | apply kept_bump1) | split

theorem kept_execKwait {h : Hart} {g : Guard} {rd rs1 rs2 : Reg} {s : State} (h_s : Kept Q s) : KeptO Q (execKwait h g rd rs1 rs2 s) := by
  unfold execKwait; repeat' first | with_reducible assumption | (intro y; beta_reduce) | (extract_lets -underBinder +onlyGivenNames x; refine kept_cut (Q := Q) (x := x) ?_ ?_; subst x; rotate_left; intro hx; clear_value x) | extract_lets -underBinder +onlyGivenNames x | with_reducible first | apply kept_ite | apply kept_iteO | apply kept_next | apply kept_spelled | apply kept_issue | apply kept_knotAnswer | apply kept_retire | apply kept_enterWait | split

theorem kept_answer {s : State} {h : Hart} {rd : Reg} {v : Word} (h_s : Kept Q s) : Kept Q (answer s h rd v) := by
  unfold answer; repeat' first | with_reducible assumption | (extract_lets -underBinder +onlyGivenNames x; refine kept_cut (Q := Q) (x := x) ?_ ?_; subst x; rotate_left; intro hx; clear_value x) | extract_lets -underBinder +onlyGivenNames x | with_reducible first | apply kept_putHart | (with_reducible apply kept_mk; first | with_reducible assumption | with_reducible first | apply kept_putHart)

theorem kept_spinTurn {s : State} {h : Hart} (h_s : Kept Q s) : Kept Q (spinTurn s h) := by
  unfold spinTurn; repeat' first | with_reducible assumption | with_reducible first | apply kept_takeTurn | split

theorem kept_execStrandReleaseSeen {h : Hart} {s : State} (h_s : Kept Q s) : KeptO Q (execStrandReleaseSeen h s) := by
  unfold execStrandReleaseSeen; repeat' first | with_reducible assumption | (extract_lets -underBinder +onlyGivenNames x; refine kept_cut (Q := Q) (x := x) ?_ ?_; subst x; rotate_left; intro hx; clear_value x) | extract_lets -underBinder +onlyGivenNames x | with_reducible first | apply kept_ite | apply kept_iteO | apply kept_next | apply kept_spinTurn | apply kept_putHart | apply kept_answer | (with_reducible apply kept_mk; first | with_reducible assumption | with_reducible first | apply kept_spinTurn | apply kept_putHart | apply kept_answer) | split

theorem kept_applyRemote {s : State} {op flags hitch y : Nat} (h_s : Kept Q s) : KeptR Q (applyRemote s op flags hitch y) := by
  unfold applyRemote; repeat' first | with_reducible assumption | with_reducible first | apply kept_ite | apply kept_iteR | apply kept_opRelOne | apply kept_opRelAll | apply kept_opAdd | apply kept_opTest | split | with_reducible apply kept_pair | refine kept_ofR ?_ (by assumption) | (apply kept_snd; with_reducible first | apply kept_opRelOne | apply kept_opRelAll | apply kept_opAdd | apply kept_opTest)

theorem kept_execHitchOp {src tag : Nat} {body : List Byte} {s : State} (h_s : Kept Q s) : KeptO Q (execHitchOp src tag body s) := by
  unfold execHitchOp; repeat' first | with_reducible assumption | (extract_lets -underBinder +onlyGivenNames x; refine kept_cut (Q := Q) (x := x) ?_ ?_; subst x; rotate_left; intro hx; clear_value x) | extract_lets -underBinder +onlyGivenNames x | with_reducible first | apply kept_next | apply kept_powered | apply kept_takeMsg | apply kept_applyRemote | apply kept_post | split | refine kept_ofR ?_ (by assumption) | (apply kept_snd; with_reducible first | apply kept_applyRemote)

theorem kept_lateRsp {s : State} (h_s : Kept Q s) : Kept Q (lateRsp s) := by
  unfold lateRsp; repeat' first | with_reducible assumption | with_reducible first | apply kept_event | apply kept_bump1

theorem kept_dropRemote {s : State} {tag : Nat} (h_s : Kept Q s) : Kept Q (dropRemote s tag) := by
  unfold dropRemote; repeat' first | with_reducible assumption | (intro y; beta_reduce) | exact kept_mk (by with_reducible assumption)

theorem kept_execHitchRsp {src tag : Nat} {body : List Byte} {s : State} (h_s : Kept Q s) : KeptO Q (execHitchRsp src tag body s) := by
  unfold execHitchRsp; repeat' first | with_reducible assumption | (intro y; beta_reduce) | (extract_lets -underBinder +onlyGivenNames x; refine kept_cut (Q := Q) (x := x) ?_ ?_; subst x; rotate_left; intro hx; clear_value x) | extract_lets -underBinder +onlyGivenNames x | with_reducible first | apply kept_ite | apply kept_iteO | apply kept_next | apply kept_powered | apply kept_takeMsg | apply kept_lateRsp | apply kept_dropRemote | apply kept_bump1 | apply kept_answer | split

theorem kept_remoteTimedOut {s : State} {r : Remote} {reporter : Nat} (h_s : Kept Q s) : Kept Q (remoteTimedOut s r reporter) := by
  unfold remoteTimedOut; repeat' first | with_reducible assumption | (extract_lets -underBinder +onlyGivenNames x; refine kept_cut (Q := Q) (x := x) ?_ ?_; subst x; rotate_left; intro hx; clear_value x) | extract_lets -underBinder +onlyGivenNames x | with_reducible first | apply kept_event | apply kept_bump1 | apply kept_reportFull | refine kept_ofR ?_ (by assumption) | apply kept_snd | (apply kept_snd; with_reducible first | apply kept_reportFull)

theorem kept_execHitchRspTimeout {tag : Nat} {s : State} (h_s : Kept Q s) : KeptO Q (execHitchRspTimeout tag s) := by
  unfold execHitchRspTimeout; repeat' first | with_reducible assumption | (intro y; beta_reduce) | (extract_lets -underBinder +onlyGivenNames x; refine kept_cut (Q := Q) (x := x) ?_ ?_; subst x; rotate_left; intro hx; clear_value x) | extract_lets -underBinder +onlyGivenNames x | with_reducible first | apply kept_ite | apply kept_iteO | apply kept_next | apply kept_dropRemote | apply kept_advance | apply kept_answer | apply kept_remoteTimedOut | split

end Sys2Proof.Machine
end

