-- ==== Sys2Proof/Laws/KeptGather.lean ====
section
/-! SUPPORT. What the operations of Gather keep (`Kept`). -/

namespace Sys2Proof.Machine

set_option linter.all false

variable {Q : Aim}

theorem kept_keepSplits {s : State} {p : Nat} {c : Cmd} {o : GOut} (h_s : Kept Q s) : Kept Q (keepSplits s p c o) := by
  unfold keepSplits; repeat' first | with_reducible assumption | (intro y; beta_reduce) | (extract_lets -underBinder +onlyGivenNames x; refine kept_cut (Q := Q) (x := x) ?_ ?_; subst x; rotate_left; intro hx; clear_value x) | extract_lets -underBinder +onlyGivenNames x | with_reducible first | apply kept_cmdMod | apply kept_bump | (with_reducible apply kept_mk; first | with_reducible assumption | with_reducible first | apply kept_cmdMod | apply kept_bump) | assumption

theorem kept_countSpans {s : State} {spans : List (Nat × Nat)} (h_s : Kept Q s) : Kept Q (countSpans s spans) := by
  unfold countSpans; repeat' first | with_reducible assumption | (intro y; beta_reduce) | with_reducible first | apply kept_ite | apply kept_foldl | apply kept_countSectors | split | apply kept_fst

theorem kept_sendNeeds {s : State} {p id : Nat} {q : Nat → Sample} {needs : List Need} (h_s : Kept Q s) : Kept Q (sendNeeds s p id q needs) := by
  unfold sendNeeds; repeat' first | with_reducible assumption | (intro y; beta_reduce) | (extract_lets -underBinder +onlyGivenNames x; refine kept_cut (Q := Q) (x := x) ?_ ?_; subst x; rotate_left; intro hx; clear_value x) | extract_lets -underBinder +onlyGivenNames x | with_reducible first | apply kept_ite | apply kept_foldl | apply kept_newTag | apply kept_sendTagged | apply h_q | (with_reducible apply kept_mk; first | with_reducible assumption | refine kept_ofR ?_ (by assumption)) | split | refine kept_ofR ?_ (by assumption) | (apply kept_snd; with_reducible first | apply kept_newTag | apply kept_sendTagged) | assumption

theorem kept_failCmd {s : State} {p : Nat} {c : Cmd} {o : GOut} {k a : Nat} (h_s : Kept Q s) : Kept Q (failCmd s p c o k a) := by
  unfold failCmd; repeat' first | with_reducible assumption | (intro y; beta_reduce) | (extract_lets -underBinder +onlyGivenNames x; refine kept_cut (Q := Q) (x := x) ?_ ?_; subst x; rotate_left; intro hx; clear_value x) | extract_lets -underBinder +onlyGivenNames x | with_reducible first | apply kept_ite | apply kept_foldl | apply kept_cmdMod | apply kept_endOwn | apply kept_markRow | apply kept_badFirst | (with_reducible apply kept_mk; first | with_reducible assumption | with_reducible first | apply kept_cmdMod | apply kept_endOwn | apply kept_markRow | apply kept_badFirst) | split | assumption

theorem kept_dropAhead {s : State} {p id : Nat} (h_s : Kept Q s) : Kept Q (dropAhead s p id) := by
  unfold dropAhead; repeat' first | with_reducible assumption | (intro y; beta_reduce) | (extract_lets -underBinder +onlyGivenNames x; refine kept_cut (Q := Q) (x := x) ?_ ?_; subst x; rotate_left; intro hx; clear_value x) | extract_lets -underBinder +onlyGivenNames x | with_reducible first | apply kept_corePut | (with_reducible apply kept_mk; first | with_reducible assumption | with_reducible first | apply kept_corePut) | assumption

theorem kept_execRunaheadDiscard {core : Nat} {s : State} (h_s : Kept Q s) : KeptO Q (execRunaheadDiscard core s) := by
  unfold execRunaheadDiscard; repeat' first | with_reducible assumption | (intro y; beta_reduce) | (extract_lets -underBinder +onlyGivenNames x; refine kept_cut (Q := Q) (x := x) ?_ ?_; subst x; rotate_left; intro hx; clear_value x) | extract_lets -underBinder +onlyGivenNames x | with_reducible first | apply kept_next | apply kept_advance | apply kept_corePut | (with_reducible apply kept_mk; first | with_reducible assumption | with_reducible first | apply kept_advance | apply kept_corePut) | split

theorem kept_startRefused {s : State} {p : Nat} {c : Cmd} {status : Nat} (h_s : Kept Q s) : Kept Q (startRefused s p c status) := by
  unfold startRefused; repeat' first | with_reducible assumption | (intro y; beta_reduce) | with_reducible first | apply kept_cmdMod | (with_reducible apply kept_mk; first | with_reducible assumption | with_reducible first | apply kept_cmdMod) | assumption

theorem kept_execGatherStart {core : Nat} {s : State} (h_s : Kept Q s) : KeptO Q (execGatherStart core s) := by
  unfold execGatherStart; repeat' first | with_reducible assumption | (intro y; beta_reduce) | (extract_lets -underBinder +onlyGivenNames x; refine kept_cut (Q := Q) (x := x) ?_ ?_; subst x; rotate_left; intro hx; clear_value x) | extract_lets -underBinder +onlyGivenNames x | with_reducible first | apply kept_ite | apply kept_iteO | apply kept_next | apply kept_startRefused | apply kept_failCmd | apply kept_cmdMod | apply kept_keepSplits | apply kept_corePut | apply kept_sendNeeds | (with_reducible apply kept_mk; first | with_reducible assumption | with_reducible first | apply kept_startRefused | apply kept_failCmd | apply kept_cmdMod | apply kept_keepSplits | apply kept_corePut | apply kept_sendNeeds) | split | assumption

theorem kept_landOut {s : State} {p : Nat} {c : Cmd} {o : GOut} {status : Nat} (h_s : Kept Q s) : Kept Q (landOut s p c o status) := by
  unfold landOut; repeat' first | with_reducible assumption | (intro y; beta_reduce) | (extract_lets -underBinder +onlyGivenNames x; refine kept_cut (Q := Q) (x := x) ?_ ?_; subst x; rotate_left; intro hx; clear_value x) | extract_lets -underBinder +onlyGivenNames x | with_reducible first | apply kept_foldl | apply kept_addCounts | apply kept_landWrites | apply kept_countSpans | apply kept_readDir | apply kept_countRowRead | apply kept_complete | apply kept_dropAhead | apply kept_corePut | (with_reducible apply kept_mk; first | with_reducible assumption | with_reducible first | apply kept_addCounts | apply kept_landWrites | apply kept_countSpans | apply kept_readDir | apply kept_countRowRead | apply kept_complete | apply kept_dropAhead | apply kept_corePut) | assumption

theorem kept_execGatherComplete {core id : Nat} {s : State} (h_s : Kept Q s) : KeptO Q (execGatherComplete core id s) := by
  unfold execGatherComplete; repeat' first | with_reducible assumption | with_reducible first | apply kept_ite | apply kept_iteO | (intro y; beta_reduce) | (extract_lets -underBinder +onlyGivenNames x; refine kept_cut (Q := Q) (x := x) ?_ ?_; subst x; rotate_left; intro hx; clear_value x) | extract_lets -underBinder +onlyGivenNames x | with_reducible first | apply kept_next | apply kept_complete | apply kept_sendNeeds | apply kept_keepSplits | apply kept_bump1 | apply kept_taskPut | apply kept_endOwn | apply kept_failCmd | apply kept_dropAhead | apply kept_landOut | split | (with_reducible apply kept_mk; first | with_reducible assumption | with_reducible first | apply kept_complete | apply kept_sendNeeds | apply kept_keepSplits | apply kept_bump1 | apply kept_taskPut | apply kept_endOwn | apply kept_failCmd | apply kept_dropAhead | apply kept_landOut) | assumption

theorem kept_submitFrags {req : Nat} {l : List (List Byte)} {s : State} (h_s : Kept Q s) : KeptR Q (submitFrags req l s) := by
  induction l generalizing s with
  | nil => exact ⟨h_s⟩
  | cons b r ih =>
    unfold submitFrags
    split
    rename_i t e
    have ht := kept_ofR (kept_submit h_s) e
    exact kept_iteR (kept_pair ht) (ih ht)


theorem kept_execFragmentTaskSubmit {core id : Nat} {s : State} (h_s : Kept Q s) : KeptO Q (execFragmentTaskSubmit core id s) := by
  unfold execFragmentTaskSubmit; repeat' first | with_reducible assumption | (intro y; beta_reduce) | (extract_lets -underBinder +onlyGivenNames x; refine kept_cut (Q := Q) (x := x) ?_ ?_; subst x; rotate_left; intro hx; clear_value x) | extract_lets -underBinder +onlyGivenNames x | with_reducible first | apply kept_ite | apply kept_iteO | apply kept_next | apply kept_submitFrags | apply kept_cmdMod | (with_reducible apply kept_mk; first | with_reducible assumption | refine kept_ofR ?_ (by assumption) | with_reducible first | apply kept_cmdMod) | split | refine kept_ofR ?_ (by assumption) | (apply kept_snd; with_reducible first | apply kept_submitFrags) | assumption

theorem kept_answerGrey {s : State} {orig tag count : Nat} (h_s : Kept Q s) : Kept Q (answerGrey s orig tag count) := by
  unfold answerGrey; repeat' first | with_reducible assumption | with_reducible first | apply kept_post

theorem kept_answerStream {s : State} {orig tag count : Nat} {stream : List Byte} (h_s : Kept Q s) : Kept Q (answerStream s orig tag count stream) := by
  unfold answerStream; repeat' first | with_reducible assumption | (intro y; beta_reduce) | with_reducible first | apply kept_foldl | apply kept_post

theorem kept_continueServe {s : State} {v : Serve} (h_s : Kept Q s) : Kept Q (continueServe s v) := by
  unfold continueServe; repeat' first | with_reducible assumption | (intro y; beta_reduce) | (extract_lets -underBinder +onlyGivenNames x; refine kept_cut (Q := Q) (x := x) ?_ ?_; subst x; rotate_left; intro hx; clear_value x) | extract_lets -underBinder +onlyGivenNames x | with_reducible first | apply kept_ite | apply kept_addCounts | apply kept_answerStream | apply kept_countSpans | apply kept_sendNeeds | (with_reducible apply kept_mk; first | with_reducible assumption | with_reducible first | apply kept_addCounts | apply kept_answerStream | apply kept_countSpans | apply kept_sendNeeds) | split | assumption

theorem kept_beginServe {s : State} {b : List Byte} (h_s : Kept Q s) : Kept Q (beginServe s b) := by
  unfold beginServe; repeat' first | with_reducible assumption | (extract_lets -underBinder +onlyGivenNames x; refine kept_cut (Q := Q) (x := x) ?_ ?_; subst x; rotate_left; intro hx; clear_value x) | extract_lets -underBinder +onlyGivenNames x | with_reducible first | apply kept_draw | apply kept_continueServe | split | refine kept_ofR ?_ (by assumption) | (apply kept_snd; with_reducible first | apply kept_draw)

theorem kept_serveRow {s : State} {id x : Nat} (h_s : Kept Q s) : KeptR Q (serveRow s id x) := by
  unfold serveRow; repeat' first | with_reducible assumption | (intro y; beta_reduce) | (extract_lets -underBinder +onlyGivenNames x; refine kept_cut (Q := Q) (x := x) ?_ ?_; subst x; rotate_left; intro hx; clear_value x) | extract_lets -underBinder +onlyGivenNames x | with_reducible first | apply kept_ite | apply kept_iteR | apply kept_draw | apply kept_readDir | apply kept_serveAddr | apply kept_countRowRead | apply kept_markRow | apply kept_badRead | split | with_reducible apply kept_pair | refine kept_ofR ?_ (by assumption) | (apply kept_snd; with_reducible first | apply kept_draw | apply kept_serveAddr) | assumption

theorem kept_serveRequest {s : State} {b : List Byte} (h_s : Kept Q s) : Kept Q (serveRequest s b) := by
  unfold serveRequest
  extract_lets -underBinder +onlyGivenNames op id count fwd orig tag xs
  clear_value op id count fwd orig tag xs
  have hr : ∀ (t : State), Kept Q t → ∀ l : List Nat, KeptR Q (l.foldl (fun (acc : List Byte × State) x =>
          if (forwardOf acc.2 id x).isSome then (acc.1 ++ natLe 4 (2 ^ 28), acc.2)
          else let (r, s) := serveRow acc.2 id x; (acc.1 ++ r, s)) ([], t)) := by
    intro t ht l
    apply kept_foldlR (kept_pair ht)
    intro p x hp
    beta_reduce
    split
    · exact ⟨hp.out⟩
    · split
      rename_i e
      exact ⟨kept_ofR (kept_serveRow hp.out) e⟩
  apply kept_ite
  · exact kept_answerGrey h_s
  · apply kept_ite
    · exact kept_beginServe h_s
    · extract_lets -underBinder s1
      have h1 : Kept Q s1 := kept_ite (kept_event (kept_bump1 h_s)) h_s
      clear_value s1
      split
      · exact kept_post (kept_bump1 h1)
      · split
        rename_i e
        exact kept_answerStream (kept_ofR (hr _ h1 _) e)


theorem kept_execGatherReq {src tag : Nat} {body : List Byte} {s : State} (h_s : Kept Q s) : KeptO Q (execGatherReq src tag body s) := by
  unfold execGatherReq; repeat' first | with_reducible assumption | (extract_lets -underBinder +onlyGivenNames x; refine kept_cut (Q := Q) (x := x) ?_ ?_; subst x; rotate_left; intro hx; clear_value x) | extract_lets -underBinder +onlyGivenNames x | with_reducible first | apply kept_ite | apply kept_iteO | apply kept_next | apply kept_powered | apply kept_takeMsg | apply kept_serveRequest | (with_reducible apply kept_mk; first | with_reducible assumption | with_reducible first | apply kept_takeMsg | apply kept_serveRequest) | split

theorem kept_serveDeferred {s : State} (h_s : Kept Q s) : Kept Q (serveDeferred s) := by
  unfold serveDeferred; repeat' first | with_reducible assumption | (intro y; beta_reduce) | with_reducible first | apply kept_foldl | apply kept_serveRequest | (with_reducible apply kept_mk; first | with_reducible assumption | with_reducible first | apply kept_serveRequest)

end Sys2Proof.Machine
end

