-- ==== Sys2Proof/Laws/KeptLookup.lean ====
section
/-! SUPPORT. What the operations of Lookup keep (`Kept`). -/

namespace Sys2Proof.Machine

set_option linter.all false

variable {Q : Aim}

theorem kept_stageId {s : State} {p : Nat} {d : List Byte} {w i : Nat} (h_s : Kept Q s) : KeptR Q (stageId s p d w i) := by
  unfold stageId; repeat' first | with_reducible assumption | (extract_lets -underBinder +onlyGivenNames x; refine kept_cut (Q := Q) (x := x) ?_ ?_; subst x; rotate_left; intro hx; clear_value x) | extract_lets -underBinder +onlyGivenNames x | with_reducible first | apply kept_ite | apply kept_iteR | apply kept_stageRow | apply kept_stageFull | split | with_reducible apply kept_pair | refine kept_ofR ?_ (by assumption) | (apply kept_snd; with_reducible first | apply kept_stageRow) | assumption

theorem kept_stageIds {s : State} {p : Nat} {d : List Byte} (h_s : Kept Q s) : KeptR Q (stageIds s p d) := by
  unfold stageIds
  apply kept_foldlR (kept_pair h_s)
  intro a x ha
  beta_reduce
  split
  rename_i e
  exact ⟨kept_ofR (kept_stageId ha.out) e⟩


theorem kept_execLookupStart {core : Nat} {s : State} (h_s : Kept Q s) : KeptO Q (execLookupStart core s) := by
  unfold execLookupStart; repeat' first | with_reducible assumption | (intro y; beta_reduce) | (extract_lets -underBinder +onlyGivenNames x; refine kept_cut (Q := Q) (x := x) ?_ ?_; subst x; rotate_left; intro hx; clear_value x) | extract_lets -underBinder +onlyGivenNames x | with_reducible first | apply kept_ite | apply kept_iteO | apply kept_next | apply kept_startRefused | apply kept_failCmd | apply kept_cmdMod | apply kept_sendNeeds | (with_reducible apply kept_mk; first | with_reducible assumption | with_reducible first | apply kept_startRefused | apply kept_failCmd | apply kept_cmdMod | apply kept_sendNeeds) | split | assumption

theorem kept_execLookupComplete {core id : Nat} {s : State} (h_s : Kept Q s) : KeptO Q (execLookupComplete core id s) := by
  unfold execLookupComplete; repeat' first | with_reducible assumption | (extract_lets -underBinder +onlyGivenNames x; refine kept_cut (Q := Q) (x := x) ?_ ?_; subst x; rotate_left; intro hx; clear_value x) | extract_lets -underBinder +onlyGivenNames x | with_reducible first | apply kept_ite | apply kept_iteO | apply kept_next | apply kept_complete | apply kept_stageIds | apply kept_landWrites | apply kept_failCmd | apply kept_sendNeeds | apply kept_landOut | split | refine kept_ofR ?_ (by assumption) | (apply kept_snd; with_reducible first | apply kept_stageIds) | assumption

theorem kept_scatterAdd {s : State} {src : Nat} {body : List Byte} (h_s : Kept Q s) : Kept Q (scatterAdd s src body) := by
  unfold scatterAdd; repeat' first | with_reducible assumption | (intro y; beta_reduce) | (extract_lets -underBinder +onlyGivenNames x; refine kept_cut (Q := Q) (x := x) ?_ ?_; subst x; rotate_left; intro hx; clear_value x) | extract_lets -underBinder +onlyGivenNames x | with_reducible first | apply kept_ite | apply kept_foldl | apply kept_event | apply kept_bump1 | apply kept_report | apply kept_taskWrite | apply kept_signalHitch | split | refine kept_ofR ?_ (by assumption) | apply kept_snd | apply kept_fst | (apply kept_snd; with_reducible first | apply kept_signalHitch)

theorem kept_execScatterAdd {src tag : Nat} {body : List Byte} {s : State} (h_s : Kept Q s) : KeptO Q (execScatterAdd src tag body s) := by
  unfold execScatterAdd; repeat' first | with_reducible assumption | with_reducible first | apply kept_next | apply kept_powered | apply kept_scatterAdd | apply kept_takeMsg

theorem kept_execSendStart {core : Nat} {s : State} (h_s : Kept Q s) : KeptO Q (execSendStart core s) := by
  unfold execSendStart; repeat' first | with_reducible assumption | (extract_lets -underBinder +onlyGivenNames x; refine kept_cut (Q := Q) (x := x) ?_ ?_; subst x; rotate_left; intro hx; clear_value x) | extract_lets -underBinder +onlyGivenNames x | with_reducible first | apply kept_ite | apply kept_iteO | apply kept_next | apply kept_complete | apply kept_scatterAdd | apply kept_submit | apply kept_noRoute | apply kept_post | split | refine kept_ofR ?_ (by assumption) | (apply kept_snd; with_reducible first | apply kept_submit)

theorem kept_foresee {s : State} {p id : Nat} (h_s : Kept Q s) : Kept Q (foresee s p id) := by
  unfold foresee; repeat' first | with_reducible assumption | (intro y; beta_reduce) | (extract_lets -underBinder +onlyGivenNames x; refine kept_cut (Q := Q) (x := x) ?_ ?_; subst x; rotate_left; intro hx; clear_value x) | extract_lets -underBinder +onlyGivenNames x | with_reducible first | apply kept_ite | apply kept_cmdMod | (with_reducible apply kept_mk; first | with_reducible assumption | with_reducible first | apply kept_cmdMod) | split | assumption

theorem kept_giveItem {s : State} {r : Remote} {b : List Byte} (h_s : Kept Q s) : Kept Q (giveItem s r b) := by
  unfold giveItem; repeat' first | with_reducible assumption | (intro y; beta_reduce) | (extract_lets -underBinder +onlyGivenNames x; refine kept_cut (Q := Q) (x := x) ?_ ?_; subst x; rotate_left; intro hx; clear_value x) | extract_lets -underBinder +onlyGivenNames x | with_reducible first | apply kept_ite | apply kept_foresee | apply kept_cmdMod | apply kept_serveRow | apply kept_sendNeeds | (with_reducible apply kept_mk; first | with_reducible assumption | refine kept_ofR ?_ (by assumption) | with_reducible first | apply kept_foresee | apply kept_cmdMod | apply kept_sendNeeds) | split | refine kept_ofR ?_ (by assumption) | (apply kept_snd; with_reducible first | apply kept_serveRow) | assumption

theorem kept_giveRestore {s : State} {r : Remote} {b : List Byte} (h_s : Kept Q s) : Kept Q (giveRestore s r b) := by
  unfold giveRestore
  extract_lets id x t
  refine kept_ite h_s (kept_ite (kept_stageRestore h_s) ?_)
  split
  · exact kept_ite (kept_rowLost h_s) (kept_askPeer h_s)
  · exact kept_rowLost h_s


theorem kept_giveServe {s : State} {r : Remote} {b : List Byte} (h_s : Kept Q s) : Kept Q (giveServe s r b) := by
  unfold giveServe; repeat' first | with_reducible assumption | (intro y; beta_reduce) | (extract_lets -underBinder +onlyGivenNames x; refine kept_cut (Q := Q) (x := x) ?_ ?_; subst x; rotate_left; intro hx; clear_value x) | extract_lets -underBinder +onlyGivenNames x | with_reducible first | apply kept_ite | apply kept_continueServe | (with_reducible apply kept_mk; first | with_reducible assumption | with_reducible first | apply kept_continueServe) | split | assumption

theorem kept_deliverAnswer {s : State} {r : Remote} {b : List Byte} (h_s : Kept Q s) : Kept Q (deliverAnswer s r b) := by
  unfold deliverAnswer; repeat' first | with_reducible assumption | (extract_lets -underBinder +onlyGivenNames x; refine kept_cut (Q := Q) (x := x) ?_ ?_; subst x; rotate_left; intro hx; clear_value x) | extract_lets -underBinder +onlyGivenNames x | with_reducible first | apply kept_ite | apply kept_dropRemote | apply kept_giveRestore | apply kept_giveServe | apply kept_giveItem | split

theorem kept_execGatherRsp {src tag : Nat} {body : List Byte} {s : State} (h_s : Kept Q s) : KeptO Q (execGatherRsp src tag body s) := by
  unfold execGatherRsp; repeat' first | with_reducible assumption | (intro y; beta_reduce) | (extract_lets -underBinder +onlyGivenNames x; refine kept_cut (Q := Q) (x := x) ?_ ?_; subst x; rotate_left; intro hx; clear_value x) | extract_lets -underBinder +onlyGivenNames x | with_reducible first | apply kept_ite | apply kept_iteO | apply kept_next | apply kept_powered | apply kept_takeMsg | apply kept_lateRsp | apply kept_reportFull | apply kept_deliverAnswer | (with_reducible apply kept_mk; first | with_reducible assumption | refine kept_ofR ?_ (by assumption) | with_reducible first | apply kept_takeMsg | apply kept_lateRsp | apply kept_deliverAnswer) | split | refine kept_ofR ?_ (by assumption) | apply kept_snd | (apply kept_snd; with_reducible first | apply kept_reportFull)

theorem kept_execRemoteGatherTimeout {tag : Nat} {s : State} (h_s : Kept Q s) : KeptO Q (execRemoteGatherTimeout tag s) := by
  unfold execRemoteGatherTimeout; repeat' first | with_reducible assumption | (intro y; beta_reduce) | (extract_lets -underBinder +onlyGivenNames x; refine kept_cut (Q := Q) (x := x) ?_ ?_; subst x; rotate_left; intro hx; clear_value x) | extract_lets -underBinder +onlyGivenNames x | with_reducible first | apply kept_ite | apply kept_iteO | apply kept_next | apply kept_advance | apply kept_dropRemote | apply kept_deliverAnswer | apply kept_remoteTimedOut | split

end Sys2Proof.Machine
end

