-- ==== Sys2Proof/Laws/KeptVector.lean ====
section
/-! SUPPORT. What the operations of Vector keep (`Kept`). -/

namespace Sys2Proof.Machine

set_option linter.all false

variable {Q : Aim}

theorem kept_sweepView {s : State} {base : Nat} {c : Cmd} {units : List Nat} {sweep : Nat} (h_s : Kept Q s) : Kept Q (sweepView s base c units sweep) := by
  unfold sweepView
  extract_lets perm
  refine kept_foldl h_s fun v e h => ?_
  refine kept_ite ⟨h.queue, h.clock, { h.canon with mem := ?_ }⟩ h
  have : ∀ (l m : List Host.Cell), mwf (fun _ => (0 : Byte)) m = true → mwf (fun _ => (0 : Byte)) (l.foldl (fun m b => mset (fun _ => (0 : Byte)) m b.1 b.2) m) = true := by
    intro l
    induction l with
    | nil => exact fun _ h => h
    | cons x r ih => exact fun m h => ih _ (mwf_mset _ _ h)
  exact this _ _ h.canon.mem


theorem kept_execChainStart {core : Nat} {s : State} (h_s : Kept Q s) : KeptO Q (execChainStart core s) := by
  unfold execChainStart; repeat' first | with_reducible assumption | (intro y; beta_reduce) | (extract_lets -underBinder +onlyGivenNames x; refine kept_cut (Q := Q) (x := x) ?_ ?_; subst x; rotate_left; intro hx; clear_value x) | extract_lets -underBinder +onlyGivenNames x | with_reducible first | apply kept_ite | apply kept_iteO | apply kept_next | apply kept_startRefused | apply kept_cmdMod | (with_reducible apply kept_mk; first | with_reducible assumption | with_reducible first | apply kept_startRefused | apply kept_cmdMod) | split | assumption

theorem kept_execChainComplete {core : Nat} {s : State} (h_s : Kept Q s) : KeptO Q (execChainComplete core s) := by
  unfold execChainComplete; repeat' first | with_reducible assumption | (extract_lets -underBinder +onlyGivenNames x; refine kept_cut (Q := Q) (x := x) ?_ ?_; subst x; rotate_left; intro hx; clear_value x) | extract_lets -underBinder +onlyGivenNames x | with_reducible first | apply kept_ite | apply kept_iteO | apply kept_next | apply kept_complete | apply kept_bump1 | apply kept_sweepView | apply kept_addCounts | apply kept_landWrites | apply kept_rset | apply kept_orStrandFlags | (with_reducible apply kept_mk; first | with_reducible assumption | with_reducible first | apply kept_complete | apply kept_bump1 | apply kept_sweepView | apply kept_addCounts | apply kept_landWrites | apply kept_rset | apply kept_orStrandFlags) | split

end Sys2Proof.Machine
end

