-- ==== Sys2Proof/Laws/KeptMatrix.lean ====
section
/-! SUPPORT. What the operations of Matrix keep (`Kept`). -/

namespace Sys2Proof.Machine

set_option linter.all false

variable {Q : Aim}

theorem kept_matPut {s : State} {p : Nat} {m : MatSt} (h_s : Kept Q s) : Kept Q (matPut s p m) := by
  unfold matPut; repeat' first | with_reducible assumption | with_reducible first | apply kept_corePut | (with_reducible apply kept_mk; first | with_reducible assumption | with_reducible first | apply kept_corePut)

theorem kept_fillDrain {s : State} {p : Nat} {m : MatSt} {id : Nat} (h_s : Kept Q s) : Kept Q (fillDrain s p m id) := by
  unfold fillDrain; repeat' first | with_reducible assumption | (intro y; beta_reduce) | (extract_lets -underBinder +onlyGivenNames x; refine kept_cut (Q := Q) (x := x) ?_ ?_; subst x; rotate_left; intro hx; clear_value x) | extract_lets -underBinder +onlyGivenNames x | with_reducible first | apply kept_cmdMod | (with_reducible apply kept_mk; first | with_reducible assumption | with_reducible first | apply kept_cmdMod) | split | assumption

theorem kept_swapSets {s : State} {p : Nat} {c : Cmd} (h_s : Kept Q s) : Kept Q (swapSets s p c) := by
  unfold swapSets; repeat' first | with_reducible assumption | (extract_lets -underBinder +onlyGivenNames x; refine kept_cut (Q := Q) (x := x) ?_ ?_; subst x; rotate_left; intro hx; clear_value x) | extract_lets -underBinder +onlyGivenNames x | with_reducible first | apply kept_ite | apply kept_fillDrain | apply kept_matPut | (with_reducible apply kept_mk; first | with_reducible assumption | with_reducible first | apply kept_fillDrain | apply kept_matPut) | split | assumption

theorem kept_spoilParts {s : State} {a n : Nat} (h_s : Kept Q s) : Kept Q (spoilParts s a n) := by
  unfold spoilParts; repeat' first | with_reducible assumption | (extract_lets -underBinder +onlyGivenNames x; refine kept_cut (Q := Q) (x := x) ?_ ?_; subst x; rotate_left; intro hx; clear_value x) | extract_lets -underBinder +onlyGivenNames x | with_reducible first | apply kept_ite | apply kept_matPut | apply kept_fillDrain | (with_reducible apply kept_mk; first | with_reducible assumption | with_reducible first | apply kept_matPut | apply kept_fillDrain) | split | assumption

theorem kept_settleSwap {s : State} {p : Nat} (h_s : Kept Q s) : Kept Q (settleSwap s p) := by
  unfold settleSwap; repeat' first | with_reducible assumption | with_reducible first | apply kept_ite | apply kept_swapSets | split

theorem kept_makeProducts {s : State} {p : Nat} {c : Cmd} {opening : Bool} {plan : List (Bool × Nat × Nat)} (h_s : Kept Q s) : Kept Q (makeProducts s p c opening plan) := by
  unfold makeProducts; repeat' first | with_reducible assumption | (intro y; beta_reduce) | (extract_lets -underBinder +onlyGivenNames x; refine kept_cut (Q := Q) (x := x) ?_ ?_; subst x; rotate_left; intro hx; clear_value x) | extract_lets -underBinder +onlyGivenNames x | with_reducible first | apply kept_ite | apply kept_foldl | apply kept_matPut | apply kept_landWrites | apply kept_cmdMod | (with_reducible apply kept_mk; first | with_reducible assumption | with_reducible first | apply kept_matPut | apply kept_landWrites | apply kept_cmdMod) | split | assumption

theorem kept_execMatrixStart {core : Nat} {s : State} (h_s : Kept Q s) : KeptO Q (execMatrixStart core s) := by
  unfold execMatrixStart; repeat' first | with_reducible assumption | (extract_lets -underBinder +onlyGivenNames x; refine kept_cut (Q := Q) (x := x) ?_ ?_; subst x; rotate_left; intro hx; clear_value x) | extract_lets -underBinder +onlyGivenNames x | with_reducible first | apply kept_ite | apply kept_iteO | apply kept_next | apply kept_settleSwap | apply kept_startRefused | apply kept_makeProducts | split

theorem kept_matDone {s : State} {p : Nat} {c : Cmd} (h_s : Kept Q s) : Kept Q (matDone s p c) := by
  unfold matDone; repeat' first | with_reducible assumption | (extract_lets -underBinder +onlyGivenNames x; refine kept_cut (Q := Q) (x := x) ?_ ?_; subst x; rotate_left; intro hx; clear_value x) | extract_lets -underBinder +onlyGivenNames x | with_reducible first | apply kept_ite | apply kept_addCounts | apply kept_landWrites | apply kept_rset | apply kept_complete | apply kept_orStrandFlags | split

theorem kept_execMatrixComplete {core id : Nat} {s : State} (h_s : Kept Q s) : KeptO Q (execMatrixComplete core id s) := by
  unfold execMatrixComplete; repeat' first | with_reducible assumption | with_reducible first | apply kept_ite | apply kept_iteO | apply kept_next | apply kept_complete | apply kept_bump1 | apply kept_matDone | split | assumption

theorem kept_execDrainComplete {core : Nat} {s : State} (h_s : Kept Q s) : KeptO Q (execDrainComplete core s) := by
  unfold execDrainComplete; repeat' first | with_reducible assumption | (extract_lets -underBinder +onlyGivenNames x; refine kept_cut (Q := Q) (x := x) ?_ ?_; subst x; rotate_left; intro hx; clear_value x) | extract_lets -underBinder +onlyGivenNames x | with_reducible first | apply kept_next | apply kept_settleSwap | apply kept_matDone | apply kept_matPut | (with_reducible apply kept_mk; first | with_reducible assumption | with_reducible first | apply kept_settleSwap | apply kept_matDone | apply kept_matPut) | split | assumption

end Sys2Proof.Machine
end

