-- ==== Sys2Proof/Laws/KeptItems.lean ====
section
/-! SUPPORT. What the operations of Items keep (`Kept`). -/

namespace Sys2Proof.Machine

set_option linter.all false

variable {Q : Aim}

theorem kept_skipItem {s : State} {k : Nat × List Byte} (h_s : Kept Q s) : Kept Q (skipItem s k) := by
  unfold skipItem; repeat' first | with_reducible assumption | with_reducible first | apply kept_event | apply kept_report

theorem kept_skipGrey {s : State} {k : Nat × List Byte} {unit : Nat} (h_s : Kept Q s) : Kept Q (skipGrey s k unit) := by
  unfold skipGrey; repeat' first | with_reducible assumption | with_reducible first | apply kept_report

theorem kept_noteCfg {s : State} {src cfg : Nat} (h_s : Kept Q s) : Kept Q (noteCfg s src cfg) := by
  unfold noteCfg; repeat' first | with_reducible assumption | (extract_lets -underBinder +onlyGivenNames x; refine kept_cut (Q := Q) (x := x) ?_ ?_; subst x; rotate_left; intro hx; clear_value x) | extract_lets -underBinder +onlyGivenNames x | with_reducible first | apply kept_ite | apply kept_event | apply kept_report | (with_reducible apply kept_mk; first | with_reducible assumption | with_reducible first | apply kept_event | apply kept_report) | split

theorem kept_sendSummaries {s : State} (h_s : Kept Q s) : Kept Q (sendSummaries s) := by
  unfold sendSummaries; repeat' first | with_reducible assumption | (intro y; beta_reduce) | (extract_lets -underBinder +onlyGivenNames x; refine kept_cut (Q := Q) (x := x) ?_ ?_; subst x; rotate_left; intro hx; clear_value x) | extract_lets -underBinder +onlyGivenNames x | with_reducible first | apply kept_ite | apply kept_foldl | apply kept_post | split

end Sys2Proof.Machine
end

