-- ==== Sys2Proof/Laws/KeptTime.lean ====
section
/-! SUPPORT. What the operations of Time keep (`Kept`). -/

namespace Sys2Proof.Machine

set_option linter.all false

variable {Q : Aim}

theorem kept_servo {s : State} (h_s : Kept Q s) : KeptR Q (servo s) := by
  unfold servo; repeat' first | with_reducible assumption | (extract_lets -underBinder +onlyGivenNames x; refine kept_cut (Q := Q) (x := x) ?_ ?_; subst x; rotate_left; intro hx; clear_value x) | extract_lets -underBinder +onlyGivenNames x | with_reducible first | apply kept_ite | apply kept_iteR | apply kept_draw | split | with_reducible apply kept_pair | refine kept_ofR ?_ (by assumption) | (apply kept_snd; with_reducible first | apply kept_draw)

theorem kept_estimate {s : State} (h_s : Kept Q s) : Kept Q (estimate s) := by
  unfold estimate; repeat' first | with_reducible assumption | (intro y; beta_reduce) | (extract_lets -underBinder +onlyGivenNames x; refine kept_cut (Q := Q) (x := x) ?_ ?_; subst x; rotate_left; intro hx; clear_value x) | extract_lets -underBinder +onlyGivenNames x | with_reducible first | apply kept_draw | apply kept_timMap | (with_reducible apply kept_mk; first | with_reducible assumption | refine kept_ofR ?_ (by assumption) | with_reducible first | apply kept_timMap) | split | refine kept_ofR ?_ (by assumption) | (apply kept_snd; with_reducible first | apply kept_draw) | with_reducible rfl

theorem kept_setSource {s : State} {src : Nat} (h_s : Kept Q s) : Kept Q (setSource s src) := by
  unfold setSource; repeat' first | with_reducible assumption | (intro y; beta_reduce) | with_reducible first | apply kept_ite | apply kept_event | apply kept_timMap | (with_reducible apply kept_mk; first | with_reducible assumption | with_reducible first | apply kept_event | apply kept_timMap) | split | with_reducible rfl

theorem kept_takeUp {s : State} {src : Nat} {off : Int} (h_s : Kept Q s) : Kept Q (takeUp s src off) := by
  unfold takeUp; repeat' first | with_reducible assumption | (intro y; beta_reduce) | (extract_lets -underBinder +onlyGivenNames x; refine kept_cut (Q := Q) (x := x) ?_ ?_; subst x; rotate_left; intro hx; clear_value x) | extract_lets -underBinder +onlyGivenNames x | with_reducible first | apply kept_ite | apply kept_setSource | apply kept_event | apply kept_timMap | apply kept_servo | (with_reducible apply kept_mk; first | with_reducible assumption | refine kept_ofR ?_ (by assumption) | with_reducible first | apply kept_setSource | apply kept_event | apply kept_timMap) | split | refine kept_ofR ?_ (by assumption) | (apply kept_snd; with_reducible first | apply kept_servo) | with_reducible rfl

theorem kept_measured {s : State} {off : Int} (h_s : Kept Q s) : Kept Q (measured s off) := by
  unfold measured; repeat' first | with_reducible assumption | (intro y; beta_reduce) | (extract_lets -underBinder +onlyGivenNames x; refine kept_cut (Q := Q) (x := x) ?_ ?_; subst x; rotate_left; intro hx; clear_value x) | extract_lets -underBinder +onlyGivenNames x | with_reducible first | apply kept_ite | apply kept_servo | apply kept_estimate | apply kept_timMap | apply kept_event | apply kept_report | (with_reducible apply kept_mk; first | with_reducible assumption | refine kept_ofR ?_ (by assumption) | with_reducible first | apply kept_estimate | apply kept_timMap | apply kept_event | apply kept_report) | split | refine kept_ofR ?_ (by assumption) | (apply kept_snd; with_reducible first | apply kept_servo) | with_reducible rfl

theorem kept_measure {s : State} {src : Nat} {src_ at_ : Int} (h_s : Kept Q s) : Kept Q (measure s src src_ at_) := by
  unfold measure; repeat' first | with_reducible assumption | (intro y; beta_reduce) | (extract_lets -underBinder +onlyGivenNames x; refine kept_cut (Q := Q) (x := x) ?_ ?_; subst x; rotate_left; intro hx; clear_value x) | extract_lets -underBinder +onlyGivenNames x | with_reducible first | apply kept_ite | apply kept_timMap | apply kept_takeUp | apply kept_measured | (with_reducible apply kept_mk; first | with_reducible assumption | with_reducible first | apply kept_timMap | apply kept_takeUp | apply kept_measured) | split | with_reducible rfl

theorem kept_execSyncLoss {s : State} (h_s : Kept Q s) : KeptO Q (execSyncLoss s) := by
  unfold execSyncLoss; repeat' first | with_reducible assumption | (intro y; beta_reduce) | (extract_lets -underBinder +onlyGivenNames x; refine kept_cut (Q := Q) (x := x) ?_ ?_; subst x; rotate_left; intro hx; clear_value x) | extract_lets -underBinder +onlyGivenNames x | with_reducible first | apply kept_ite | apply kept_iteO | apply kept_next | apply kept_advance | apply kept_estimate | apply kept_event | apply kept_timMap | (with_reducible apply kept_mk; first | with_reducible assumption | with_reducible first | apply kept_advance | apply kept_estimate | apply kept_event | apply kept_timMap) | split | with_reducible rfl

theorem kept_execHoldoverLimit {s : State} (h_s : Kept Q s) : KeptO Q (execHoldoverLimit s) := by
  unfold execHoldoverLimit; repeat' first | with_reducible assumption | (intro y; beta_reduce) | (extract_lets -underBinder +onlyGivenNames x; refine kept_cut (Q := Q) (x := x) ?_ ?_; subst x; rotate_left; intro hx; clear_value x) | extract_lets -underBinder +onlyGivenNames x | with_reducible first | apply kept_ite | apply kept_iteO | apply kept_next | apply kept_timMap | apply kept_setSource | apply kept_event | apply kept_report | (with_reducible apply kept_mk; first | with_reducible assumption | with_reducible first | apply kept_timMap | apply kept_setSource | apply kept_event | apply kept_report) | split | with_reducible rfl

theorem kept_stampNow {s : State} (h_s : Kept Q s) : KeptR Q (stampNow s) := by
  unfold stampNow; repeat' first | with_reducible assumption | (extract_lets -underBinder +onlyGivenNames x; refine kept_cut (Q := Q) (x := x) ?_ ?_; subst x; rotate_left; intro hx; clear_value x) | extract_lets -underBinder +onlyGivenNames x | with_reducible first | apply kept_draw | split | with_reducible apply kept_pair | refine kept_ofR ?_ (by assumption) | (apply kept_snd; with_reducible first | apply kept_draw)

theorem kept_bmca {s : State} (h_s : Kept Q s) : Kept Q (bmca s) := by
  unfold bmca; repeat' first | with_reducible assumption | (intro y; beta_reduce) | (extract_lets -underBinder +onlyGivenNames x; refine kept_cut (Q := Q) (x := x) ?_ ?_; subst x; rotate_left; intro hx; clear_value x) | extract_lets -underBinder +onlyGivenNames x | with_reducible first | apply kept_ite | apply kept_timMap | apply kept_setSource | (with_reducible apply kept_mk; first | with_reducible assumption | with_reducible first | apply kept_timMap | apply kept_setSource) | split | with_reducible rfl

theorem kept_ptpPortDown {s : State} {p : Nat} (h_s : Kept Q s) : Kept Q (ptpPortDown s p) := by
  unfold ptpPortDown
  exact kept_bmca ⟨h_s.queue, h_s.clock, { h_s.canon with ptp := mwf_filter _ h_s.canon.ptp }⟩


theorem kept_ptpSend {s : State} {p : Nat} {b : List Byte} (h_s : Kept Q s) : Kept Q (ptpSend s p b) := by
  unfold ptpSend; repeat' first | with_reducible assumption | with_reducible first | apply kept_postPort

theorem kept_execPtpMessageRx {port : Nat} {body : List Byte} {s : State} (h_s : Kept Q s) : KeptO Q (execPtpMessageRx port body s) := by
  unfold execPtpMessageRx; repeat' first | with_reducible assumption | (extract_lets -underBinder +onlyGivenNames x; refine kept_cut (Q := Q) (x := x) ?_ ?_; subst x; rotate_left; intro hx; clear_value x) | extract_lets -underBinder +onlyGivenNames x | with_reducible first | apply kept_ite | apply kept_iteO | apply kept_next | apply kept_powered | apply kept_stampNow | apply kept_ptpPut | apply kept_measure | apply kept_ptpSend | apply kept_rset | apply kept_bmca | (with_reducible apply kept_mk; first | with_reducible assumption | refine kept_ofR ?_ (by assumption) | with_reducible first | apply kept_ptpPut | apply kept_measure | apply kept_ptpSend | apply kept_rset | apply kept_bmca) | split | refine kept_ofR ?_ (by assumption) | (apply kept_snd; with_reducible first | apply kept_stampNow)

theorem kept_ptpSent {s : State} {p at_ pos : Nat} {b : List Byte} (h_s : Kept Q s) : Kept Q (ptpSent s p at_ pos b) := by
  unfold ptpSent; repeat' first | with_reducible assumption | (extract_lets -underBinder +onlyGivenNames x; refine kept_cut (Q := Q) (x := x) ?_ ?_; subst x; rotate_left; intro hx; clear_value x) | extract_lets -underBinder +onlyGivenNames x | with_reducible first | apply kept_ite | apply kept_draw | apply kept_ptpSend | apply kept_ptpPut | (with_reducible apply kept_mk; first | with_reducible assumption | refine kept_ofR ?_ (by assumption) | with_reducible first | apply kept_ptpSend | apply kept_ptpPut) | split | refine kept_ofR ?_ (by assumption) | (apply kept_snd; with_reducible first | apply kept_draw)

theorem kept_execPtpSyncTx {port : Nat} {s : State} (h_s : Kept Q s) : KeptO Q (execPtpSyncTx port s) := by
  unfold execPtpSyncTx; repeat' first | with_reducible assumption | (extract_lets -underBinder +onlyGivenNames x; refine kept_cut (Q := Q) (x := x) ?_ ?_; subst x; rotate_left; intro hx; clear_value x) | extract_lets -underBinder +onlyGivenNames x | with_reducible first | apply kept_ite | apply kept_iteO | apply kept_next | apply kept_ptpPut | apply kept_ptpSend | (with_reducible apply kept_mk; first | with_reducible assumption | with_reducible first | apply kept_ptpPut | apply kept_ptpSend) | split

theorem kept_execPtpPdelayReqTx {port : Nat} {s : State} (h_s : Kept Q s) : KeptO Q (execPtpPdelayReqTx port s) := by
  unfold execPtpPdelayReqTx; repeat' first | with_reducible assumption | (extract_lets -underBinder +onlyGivenNames x; refine kept_cut (Q := Q) (x := x) ?_ ?_; subst x; rotate_left; intro hx; clear_value x) | extract_lets -underBinder +onlyGivenNames x | with_reducible first | apply kept_ite | apply kept_iteO | apply kept_next | apply kept_ptpPut | apply kept_ptpSend | (with_reducible apply kept_mk; first | with_reducible assumption | with_reducible first | apply kept_ptpPut | apply kept_ptpSend) | split

theorem kept_execPtpAnnounceTx {port : Nat} {s : State} (h_s : Kept Q s) : KeptO Q (execPtpAnnounceTx port s) := by
  unfold execPtpAnnounceTx; repeat' first | with_reducible assumption | (extract_lets -underBinder +onlyGivenNames x; refine kept_cut (Q := Q) (x := x) ?_ ?_; subst x; rotate_left; intro hx; clear_value x) | extract_lets -underBinder +onlyGivenNames x | with_reducible first | apply kept_ite | apply kept_iteO | apply kept_next | apply kept_ptpPut | apply kept_ptpSend | (with_reducible apply kept_mk; first | with_reducible assumption | with_reducible first | apply kept_ptpPut | apply kept_ptpSend) | split

theorem kept_execAnnounceReceiptTimeout {port : Nat} {s : State} (h_s : Kept Q s) : KeptO Q (execAnnounceReceiptTimeout port s) := by
  unfold execAnnounceReceiptTimeout; repeat' first | with_reducible assumption | (extract_lets -underBinder +onlyGivenNames x; refine kept_cut (Q := Q) (x := x) ?_ ?_; subst x; rotate_left; intro hx; clear_value x) | extract_lets -underBinder +onlyGivenNames x | with_reducible first | apply kept_ite | apply kept_iteO | apply kept_next | apply kept_advance | apply kept_bmca | apply kept_ptpPut | (with_reducible apply kept_mk; first | with_reducible assumption | with_reducible first | apply kept_advance | apply kept_bmca | apply kept_ptpPut) | split

theorem kept_execPtmRequest {s : State} (h_s : Kept Q s) : KeptO Q (execPtmRequest s) := by
  unfold execPtmRequest; repeat' first | with_reducible assumption | (intro y; beta_reduce) | with_reducible first | apply kept_ite | apply kept_iteO | apply kept_next | apply kept_timMap | (with_reducible apply kept_mk; first | with_reducible assumption | with_reducible first | apply kept_timMap) | split | with_reducible rfl

theorem kept_execPtmResponse {t1 t2 t3 t4 : Nat} {s : State} (h_s : Kept Q s) : KeptO Q (execPtmResponse t1 t2 t3 t4 s) := by
  unfold execPtmResponse; repeat' first | with_reducible assumption | (intro y; beta_reduce) | (extract_lets -underBinder +onlyGivenNames x; refine kept_cut (Q := Q) (x := x) ?_ ?_; subst x; rotate_left; intro hx; clear_value x) | extract_lets -underBinder +onlyGivenNames x | with_reducible first | apply kept_ite | apply kept_iteO | apply kept_next | apply kept_timMap | apply kept_measure | (with_reducible apply kept_mk; first | with_reducible assumption | with_reducible first | apply kept_timMap | apply kept_measure) | split | with_reducible rfl

theorem kept_execTickInWord {word : Nat} {s : State} (h_s : Kept Q s) : KeptO Q (execTickInWord word s) := by
  unfold execTickInWord; repeat' first | with_reducible assumption | (intro y; beta_reduce) | with_reducible first | apply kept_next | apply kept_powered | apply kept_timMap | (with_reducible apply kept_mk; first | with_reducible assumption | with_reducible first | apply kept_timMap) | with_reducible rfl

theorem kept_execTickInEdge {s : State} (h_s : Kept Q s) : KeptO Q (execTickInEdge s) := by
  unfold execTickInEdge; repeat' first | with_reducible assumption | (intro y; beta_reduce) | with_reducible first | apply kept_next | apply kept_powered | apply kept_timMap | apply kept_measure | (with_reducible apply kept_mk; first | with_reducible assumption | with_reducible first | apply kept_timMap | apply kept_measure) | split | with_reducible rfl

theorem kept_tickOutEdge {s : State} (h_s : Kept Q s) : Kept Q (tickOutEdge s) := by
  unfold tickOutEdge; repeat' first | with_reducible assumption | (intro y; beta_reduce) | with_reducible first | apply kept_ite | apply kept_timMap | (with_reducible apply kept_mk; first | with_reducible assumption | with_reducible first | apply kept_timMap) | split | with_reducible rfl

theorem kept_execTickOutWord {s : State} (h_s : Kept Q s) : KeptO Q (execTickOutWord s) := by
  unfold execTickOutWord; repeat' first | with_reducible assumption | (intro y; beta_reduce) | (extract_lets -underBinder +onlyGivenNames x; refine kept_cut (Q := Q) (x := x) ?_ ?_; subst x; rotate_left; intro hx; clear_value x) | extract_lets -underBinder +onlyGivenNames x | with_reducible first | apply kept_ite | apply kept_iteO | apply kept_next | apply kept_advance | apply kept_timMap | (with_reducible apply kept_mk; first | with_reducible assumption | with_reducible first | apply kept_advance | apply kept_timMap) | split | with_reducible rfl

end Sys2Proof.Machine
end

