-- ==== Sys2Proof/Laws/KeptLink.lean ====
section
/-! SUPPORT. What the operations of Link keep (`Kept`). -/

namespace Sys2Proof.Machine

set_option linter.all false

variable {Q : Aim}

theorem kept_moveCells {s : State} {cs : List Cell} (h_s : Kept Q s) : Kept Q (moveCells s cs) := by
  unfold moveCells; repeat' first | with_reducible assumption | (intro y; beta_reduce) | with_reducible first | apply kept_foldl | apply kept_queueCells | apply kept_dropMessage | apply kept_returnVia | apply kept_noRoute | (with_reducible apply kept_mk; first | with_reducible assumption | with_reducible first | apply kept_queueCells | apply kept_dropMessage | apply kept_returnVia | apply kept_noRoute) | split

theorem kept_rerouteQueue {s : State} {p : Nat} (h_s : Kept Q s) : Kept Q (rerouteQueue s p) := by
  unfold rerouteQueue; repeat' first | with_reducible assumption | (intro y; beta_reduce) | (extract_lets -underBinder +onlyGivenNames x; refine kept_cut (Q := Q) (x := x) ?_ ?_; subst x; rotate_left; intro hx; clear_value x) | extract_lets -underBinder +onlyGivenNames x | with_reducible first | apply kept_ite | apply kept_foldl | apply kept_portPut | apply kept_moveCells | (with_reducible apply kept_mk; first | with_reducible assumption | with_reducible first | apply kept_portPut | apply kept_moveCells) | split

theorem kept_linkDown {s : State} {p : Nat} (h_s : Kept Q s) : Kept Q (linkDown s p) := by
  unfold linkDown; repeat' first | with_reducible assumption | (intro y; beta_reduce) | (extract_lets -underBinder +onlyGivenNames x; refine kept_cut (Q := Q) (x := x) ?_ ?_; subst x; rotate_left; intro hx; clear_value x) | extract_lets -underBinder +onlyGivenNames x | with_reducible first | apply kept_ite | apply kept_foldl | apply kept_event | apply kept_bump1 | apply kept_report | apply kept_setUnit | apply kept_fset | apply kept_portPut | apply kept_moveCells | apply kept_breakWhere | apply kept_ptpPortDown | (with_reducible apply kept_mk; first | with_reducible assumption | with_reducible first | apply kept_event | apply kept_bump1 | apply kept_report | apply kept_setUnit | apply kept_fset | apply kept_portPut | apply kept_moveCells | apply kept_breakWhere | apply kept_ptpPortDown) | split

theorem kept_sendFrame {k at_ n : Nat} {s : State} {p : Nat} (h_s : Kept Q s) : Kept Q (sendFrame k at_ n s p) := by
  unfold sendFrame; repeat' first | with_reducible assumption | (intro y; beta_reduce) | (extract_lets -underBinder +onlyGivenNames x; refine kept_cut (Q := Q) (x := x) ?_ ?_; subst x; rotate_left; intro hx; clear_value x) | extract_lets -underBinder +onlyGivenNames x | with_reducible first | apply kept_ite | apply kept_foldl | apply kept_rerouteQueue | apply kept_portPut | apply kept_bump | apply kept_returnVia | apply kept_ptpSent | (with_reducible apply kept_mk; first | with_reducible assumption | with_reducible first | apply kept_rerouteQueue | apply kept_portPut | apply kept_bump | apply kept_returnVia | apply kept_ptpSent) | split

theorem kept_execSlotFrameStart {s : State} (h_s : Kept Q s) : KeptO Q (execSlotFrameStart s) := by
  unfold execSlotFrameStart; repeat' first | with_reducible assumption | (intro y; beta_reduce) | (extract_lets -underBinder +onlyGivenNames x; refine kept_cut (Q := Q) (x := x) ?_ ?_; subst x; rotate_left; intro hx; clear_value x) | extract_lets -underBinder +onlyGivenNames x | with_reducible first | apply kept_ite | apply kept_iteO | apply kept_next | apply kept_foldl | apply kept_advance | apply kept_sendSummaries | apply kept_sendFrame | (with_reducible apply kept_mk; first | with_reducible assumption | with_reducible first | apply kept_advance | apply kept_sendSummaries | apply kept_sendFrame) | split

theorem kept_measureDelay {s : State} {p : Nat} (h_s : Kept Q s) : Kept Q (measureDelay s p) := by
  unfold measureDelay; repeat' first | with_reducible assumption | (extract_lets -underBinder +onlyGivenNames x; refine kept_cut (Q := Q) (x := x) ?_ ?_; subst x; rotate_left; intro hx; clear_value x) | extract_lets -underBinder +onlyGivenNames x | with_reducible first | apply kept_ite | apply kept_draw | apply kept_rset | apply kept_ptpPut | (with_reducible apply kept_mk; first | with_reducible assumption | refine kept_ofR ?_ (by assumption) | with_reducible first | apply kept_rset | apply kept_ptpPut) | split | refine kept_ofR ?_ (by assumption) | (apply kept_snd; with_reducible first | apply kept_draw)

theorem kept_checkMarker {s : State} {p : Nat} {b : List Byte} {done : State → State} (h_s : Kept Q s) (h_done : ∀ x0, Kept Q x0 → Kept Q (done x0)) : Kept Q (checkMarker s p b done) := by
  unfold checkMarker; repeat' first | with_reducible assumption | (intro y; beta_reduce) | (extract_lets -underBinder +onlyGivenNames x; refine kept_cut (Q := Q) (x := x) ?_ ?_; subst x; rotate_left; intro hx; clear_value x) | extract_lets -underBinder +onlyGivenNames x | with_reducible first | apply kept_ite | apply kept_portPut | apply kept_report | apply kept_event | apply h_done | (with_reducible apply kept_mk; first | with_reducible assumption | with_reducible first | apply kept_portPut | apply kept_report | apply kept_event) | split

theorem kept_portReady {s : State} {p : Nat} (h_s : Kept Q s) : Kept Q (portReady s p) := by
  unfold portReady; repeat' first | with_reducible assumption | (extract_lets -underBinder +onlyGivenNames x; refine kept_cut (Q := Q) (x := x) ?_ ?_; subst x; rotate_left; intro hx; clear_value x) | extract_lets -underBinder +onlyGivenNames x | with_reducible first | apply kept_portPut | apply kept_bmca | apply kept_event | apply kept_setUnit | (with_reducible apply kept_mk; first | with_reducible assumption | with_reducible first | apply kept_portPut | apply kept_bmca | apply kept_event | apply kept_setUnit)

theorem kept_testMarker {s : State} {p : Nat} {b : List Byte} (h_s : Kept Q s) : Kept Q (testMarker s p b) := by
  unfold testMarker; repeat' first | with_reducible assumption | (intro y; beta_reduce) | with_reducible first | apply kept_checkMarker | apply kept_portReady | apply kept_measureDelay

theorem kept_receiveMarker {s : State} {p : Nat} {b : List Byte} (h_s : Kept Q s) : Kept Q (receiveMarker s p b) := by
  unfold receiveMarker; repeat' first | with_reducible assumption | (intro y; beta_reduce) | (extract_lets -underBinder +onlyGivenNames x; refine kept_cut (Q := Q) (x := x) ?_ ?_; subst x; rotate_left; intro hx; clear_value x) | extract_lets -underBinder +onlyGivenNames x | with_reducible first | apply kept_ite | apply kept_rset | apply kept_breakWhere | apply kept_rerouteQueue | apply kept_event | apply kept_portPut | apply kept_testMarker | apply kept_checkMarker | apply kept_setRecovered | apply kept_linkDown | (with_reducible apply kept_mk; first | with_reducible assumption | with_reducible first | apply kept_rset | apply kept_breakWhere | apply kept_rerouteQueue | apply kept_event | apply kept_portPut | apply kept_testMarker | apply kept_checkMarker | apply kept_setRecovered | apply kept_linkDown) | split

theorem kept_execMarkerRx {port : Nat} {body : List Byte} {s : State} (h_s : Kept Q s) : KeptO Q (execMarkerRx port body s) := by
  unfold execMarkerRx; repeat' first | with_reducible assumption | with_reducible first | apply kept_ite | apply kept_iteO | apply kept_next | apply kept_receiveMarker | apply kept_bump1 | split

theorem kept_execMarkerWindowClose {port : Nat} {s : State} (h_s : Kept Q s) : KeptO Q (execMarkerWindowClose port s) := by
  unfold execMarkerWindowClose; repeat' first | with_reducible assumption | (intro y; beta_reduce) | (extract_lets -underBinder +onlyGivenNames x; refine kept_cut (Q := Q) (x := x) ?_ ?_; subst x; rotate_left; intro hx; clear_value x) | extract_lets -underBinder +onlyGivenNames x | with_reducible first | apply kept_ite | apply kept_iteO | apply kept_next | apply kept_advance | apply kept_portPut | apply kept_bump1 | apply kept_linkDown | (with_reducible apply kept_mk; first | with_reducible assumption | with_reducible first | apply kept_advance | apply kept_portPut | apply kept_bump1 | apply kept_linkDown) | split

theorem kept_freeCell {s : State} {p : Nat} {c : Cell} {vc : Nat} (h_s : Kept Q s) : Kept Q (freeCell s p c vc) := by
  unfold freeCell; repeat' first | with_reducible assumption | with_reducible first | apply kept_ite | apply kept_returnCredit | split

theorem kept_cellVc {s : State} {c : Cell} (h_s : Kept Q s) : KeptR Q (cellVc s c) := by
  unfold cellVc; repeat' first | with_reducible assumption | (extract_lets -underBinder +onlyGivenNames x; refine kept_cut (Q := Q) (x := x) ?_ ?_; subst x; rotate_left; intro hx; clear_value x) | extract_lets -underBinder +onlyGivenNames x | with_reducible first | apply kept_ite | apply kept_iteR | exact kept_mk (by with_reducible assumption) | split | with_reducible apply kept_pair

theorem kept_endDropped {s : State} {c : Cell} (h_s : Kept Q s) : Kept Q (endDropped s c) := by
  unfold endDropped; repeat' first | with_reducible assumption | with_reducible first | apply kept_ite | exact kept_mk (by with_reducible assumption) | split

theorem kept_transit {s : State} {p : Nat} {c : Cell} (h_s : Kept Q s) : Kept Q (transit s p c) := by
  unfold transit; repeat' first | with_reducible assumption | (extract_lets -underBinder +onlyGivenNames x; refine kept_cut (Q := Q) (x := x) ?_ ?_; subst x; rotate_left; intro hx; clear_value x) | extract_lets -underBinder +onlyGivenNames x | with_reducible first | apply kept_ite | apply kept_cellVc | apply kept_freeCell | apply kept_endDropped | apply kept_dropMessage | apply kept_event | apply kept_bump1 | apply kept_queueCells | apply kept_noRoute | (with_reducible apply kept_mk; first | with_reducible assumption | refine kept_ofR ?_ (by assumption) | with_reducible first | apply kept_freeCell | apply kept_endDropped | apply kept_dropMessage | apply kept_event | apply kept_bump1 | apply kept_queueCells | apply kept_noRoute) | split | refine kept_ofR ?_ (by assumption) | (apply kept_snd; with_reducible first | apply kept_cellVc)

theorem kept_freeOwed {s : State} {owed : List (Nat × Nat)} (h_s : Kept Q s) : Kept Q (freeOwed s owed) := by
  unfold freeOwed; repeat' first | with_reducible assumption | (intro y; beta_reduce) | with_reducible first | apply kept_foldl | apply kept_returnCredit

theorem kept_completeMsg {s : State} {m : Reasm} (h_s : Kept Q s) : Kept Q (completeMsg s m) := by
  unfold completeMsg; repeat' first | with_reducible assumption | (intro y; beta_reduce) | with_reducible first | apply kept_ite | apply kept_freeOwed | apply kept_bump1 | (with_reducible apply kept_mk; first | with_reducible assumption | with_reducible first | apply kept_freeOwed | apply kept_bump1) | split

theorem kept_assemble {s : State} {p : Nat} {c : Cell} (h_s : Kept Q s) : Kept Q (assemble s p c) := by
  unfold assemble; repeat' first | with_reducible assumption | (intro y; beta_reduce) | (extract_lets -underBinder +onlyGivenNames x; refine kept_cut (Q := Q) (x := x) ?_ ?_; subst x; rotate_left; intro hx; clear_value x) | extract_lets -underBinder +onlyGivenNames x | with_reducible first | apply kept_ite | apply kept_cellVc | apply kept_freeOwed | apply kept_completeMsg | (with_reducible apply kept_mk; first | with_reducible assumption | refine kept_ofR ?_ (by assumption) | with_reducible first | apply kept_freeOwed | apply kept_completeMsg) | split | refine kept_ofR ?_ (by assumption) | (apply kept_snd; with_reducible first | apply kept_cellVc)

theorem kept_deliverCell {p : Nat} {s : State} {c : Cell} (h_s : Kept Q s) : Kept Q (deliverCell p s c) := by
  unfold deliverCell; repeat' first | with_reducible assumption | with_reducible first | apply kept_ite | apply kept_assemble | apply kept_transit | split

theorem kept_drainHeld {p n : Nat} {s : State} (h_s : Kept Q s) : Kept Q (drainHeld p n s) := by
  induction n generalizing s with
  | zero => exact h_s
  | succ n ih =>
    unfold drainHeld
    extract_lets -underBinder t
    clear_value t
    split
    · exact h_s
    · exact ih (kept_deliverCell (kept_portPut h_s))


theorem kept_takeNumbered {s : State} {p : Nat} {c : Cell} (h_s : Kept Q s) : Kept Q (takeNumbered s p c) := by
  unfold takeNumbered; repeat' first | with_reducible assumption | (intro y; beta_reduce) | (extract_lets -underBinder +onlyGivenNames x; refine kept_cut (Q := Q) (x := x) ?_ ?_; subst x; rotate_left; intro hx; clear_value x) | extract_lets -underBinder +onlyGivenNames x | with_reducible first | apply kept_ite | apply kept_drainHeld | apply kept_deliverCell | apply kept_portPut | (with_reducible apply kept_mk; first | with_reducible assumption | with_reducible first | apply kept_drainHeld | apply kept_deliverCell | apply kept_portPut) | split

theorem kept_execCellRx {port : Nat} {raw : List Byte} {corr : Nat} {fec : FecReport} {s : State} (h_s : Kept Q s) : KeptO Q (execCellRx port raw corr fec s) := by
  unfold execCellRx; repeat' first | with_reducible assumption | (extract_lets -underBinder +onlyGivenNames x; refine kept_cut (Q := Q) (x := x) ?_ ?_; subst x; rotate_left; intro hx; clear_value x) | extract_lets -underBinder +onlyGivenNames x | with_reducible first | apply kept_ite | apply kept_iteO | apply kept_next | apply kept_bump | apply kept_bump1 | apply kept_receiveMarker | apply kept_takeNumbered | split

theorem kept_execPortTrained {port : Nat} {s : State} (h_s : Kept Q s) : KeptO Q (execPortTrained port s) := by
  unfold execPortTrained; repeat' first | with_reducible assumption | (extract_lets -underBinder +onlyGivenNames x; refine kept_cut (Q := Q) (x := x) ?_ ?_; subst x; rotate_left; intro hx; clear_value x) | extract_lets -underBinder +onlyGivenNames x | with_reducible first | apply kept_ite | apply kept_iteO | apply kept_next | apply kept_portPut | apply kept_setUnit | (with_reducible apply kept_mk; first | with_reducible assumption | with_reducible first | apply kept_portPut | apply kept_setUnit) | split

theorem kept_execTrainingTimeout {port : Nat} {s : State} (h_s : Kept Q s) : KeptO Q (execTrainingTimeout port s) := by
  unfold execTrainingTimeout; repeat' first | with_reducible assumption | (extract_lets -underBinder +onlyGivenNames x; refine kept_cut (Q := Q) (x := x) ?_ ?_; subst x; rotate_left; intro hx; clear_value x) | extract_lets -underBinder +onlyGivenNames x | with_reducible first | apply kept_ite | apply kept_iteO | apply kept_next | apply kept_advance | apply kept_portPut | (with_reducible apply kept_mk; first | with_reducible assumption | with_reducible first | apply kept_advance | apply kept_portPut) | split

end Sys2Proof.Machine
end

