-- ==== Sys2Proof/Laws/KeptPlace.lean ====
section
/-! SUPPORT. What the operations of Place keep (`Kept`). -/

namespace Sys2Proof.Machine

set_option linter.all false

variable {Q : Aim}

theorem kept_plcMap {s : State} {f : PlcUnit → PlcUnit} (h_s : Kept Q s) : Kept Q (plcMap s f) := by
  unfold plcMap; repeat' first | with_reducible assumption | (intro y; beta_reduce) | with_reducible first | apply h_f | exact kept_mk (by with_reducible assumption)

theorem kept_mgmtMap {s : State} {f : MgmtUnit → MgmtUnit} (h_s : Kept Q s) : Kept Q (mgmtMap s f) := by
  unfold mgmtMap; repeat' first | with_reducible assumption | (intro y; beta_reduce) | with_reducible first | apply h_f | exact kept_mk (by with_reducible assumption)

theorem kept_poolPut {s : State} {a n : Nat} (h_s : Kept Q s) : Kept Q (poolPut s a n) := by
  unfold poolPut; repeat' first | with_reducible assumption | (intro y; beta_reduce) | with_reducible first | apply kept_plcMap | (with_reducible apply kept_mk; first | with_reducible assumption | with_reducible first | apply kept_plcMap)

theorem kept_poolTake {s : State} {c : Nat} {repl : Bool} {n al : Nat} (h_s : Kept Q s) : KeptOR Q (poolTake s c repl n al) :=
  kept_optMap fun _ _ => kept_pair (kept_poolPut h_s)


theorem kept_poolFree {s : State} {a : Nat} (h_s : Kept Q s) : Kept Q (poolFree s a) := by
  unfold poolFree; repeat' first | with_reducible assumption | (intro y; beta_reduce) | with_reducible first | apply kept_plcMap | (with_reducible apply kept_mk; first | with_reducible assumption | with_reducible first | apply kept_plcMap)

theorem kept_eventIfRose {was s : State} {reg ev : Nat} (h_was : Kept Q was) (h_s : Kept Q s) : Kept Q (eventIfRose was s reg ev) := by
  unfold eventIfRose; repeat' first | with_reducible assumption | with_reducible first | apply kept_ite | apply kept_event | split

theorem kept_conflict {s : State} (h_s : Kept Q s) : Kept Q (conflict s) := by
  unfold conflict; repeat' first | with_reducible assumption | with_reducible first | apply kept_eventIfRose | apply kept_bump1

theorem kept_budgetCut {s : State} (h_s : Kept Q s) : Kept Q (budgetCut s) := by
  unfold budgetCut; repeat' first | with_reducible assumption | with_reducible first | apply kept_eventIfRose | apply kept_bump1

theorem kept_spend {s : State} {n : Nat} (h_s : Kept Q s) : Kept Q (spend s n) := by
  unfold spend; repeat' first | with_reducible assumption | (intro y; beta_reduce) | with_reducible first | apply kept_mgmtMap | apply kept_plcMap | apply kept_bump | (with_reducible apply kept_mk; first | with_reducible assumption | with_reducible first | apply kept_mgmtMap | apply kept_plcMap | apply kept_bump)

theorem kept_dirFull {s : State} (h_s : Kept Q s) : Kept Q (dirFull s) := by
  unfold dirFull; repeat' first | with_reducible assumption | with_reducible first | apply kept_event

theorem kept_noteCopy {s : State} {c : Copied} (h_s : Kept Q s) : Kept Q (noteCopy s c) := by
  unfold noteCopy; repeat' first | with_reducible assumption | (intro y; beta_reduce) | with_reducible first | apply kept_plcMap | (with_reducible apply kept_mk; first | with_reducible assumption | with_reducible first | apply kept_plcMap)

theorem kept_localPlace {s : State} {i : List Byte} {id x old : Nat} (h_s : Kept Q s) : KeptOR Q (localPlace s i id x old) := by
  unfold localPlace; repeat' first | with_reducible assumption | (extract_lets -underBinder +onlyGivenNames x; refine kept_cut (Q := Q) (x := x) ?_ ?_; subst x; rotate_left; intro hx; clear_value x) | extract_lets -underBinder +onlyGivenNames x | with_reducible first | apply kept_ite | apply kept_somePair | apply kept_nonePair | apply kept_poolTake | split | refine kept_ofOR ?_ (by assumption) | apply kept_fst | assumption

theorem kept_copyRow {k : Nat × List Byte} {s : State} {x : Nat} (h_s : Kept Q s) : KeptR Q (copyRow k s x) := by
  unfold copyRow; repeat' first | with_reducible assumption | (extract_lets -underBinder +onlyGivenNames x; refine kept_cut (Q := Q) (x := x) ?_ ?_; subst x; rotate_left; intro hx; clear_value x) | extract_lets -underBinder +onlyGivenNames x | with_reducible first | apply kept_ite | apply kept_iteR | apply kept_conflict | apply kept_localPlace | apply kept_markRow | apply kept_badRead | apply kept_countRowWrite | apply kept_memWrite | apply kept_noteCopy | apply kept_spend | split | with_reducible apply kept_pair | refine kept_ofOR ?_ (by assumption) | assumption

theorem kept_streamRow {k : Nat × List Byte} {s : State} {x : Nat} (h_s : Kept Q s) : KeptR Q (streamRow k s x) := by
  unfold streamRow; repeat' first | with_reducible assumption | (intro y; beta_reduce) | (extract_lets -underBinder +onlyGivenNames x; refine kept_cut (Q := Q) (x := x) ?_ ?_; subst x; rotate_left; intro hx; clear_value x) | extract_lets -underBinder +onlyGivenNames x | with_reducible first | apply kept_ite | apply kept_iteR | apply kept_conflict | apply kept_markRow | apply kept_badRead | apply kept_noteCopy | apply kept_spend | split | with_reducible apply kept_pair | assumption

theorem kept_copyFragment {k : Nat × List Byte} {s : State} (h_s : Kept Q s) : KeptR Q (copyFragment k s) := by
  unfold copyFragment
  extract_lets -underBinder i root f
  clear_value i root f
  split
  · exact ⟨h_s⟩
  · split
    · exact ⟨h_s⟩
    · refine kept_iteR ⟨kept_conflict h_s⟩ (kept_iteR ⟨h_s⟩ (kept_iteR ⟨kept_badRead h_s⟩ ?_))
      extract_lets home place
      have hp : KeptOR Q place := by
        subst place
        apply kept_iteOR
        · exact kept_optMap fun _ _ => ⟨h_s⟩
        · exact kept_iteOR kept_nonePair (kept_poolTake h_s)
      clear_value place home
      split
      · exact ⟨h_s⟩
      · extract_lets -underBinder y
        have hy : Kept Q y := kept_memWrite (kept_ofOR hp rfl)
        apply kept_pair
        apply kept_plcMap
        exact kept_spend hy


theorem kept_takeReplicas {i : List Byte} {n primary : Nat} {l : List Nat} {s : State} (h_s : Kept Q s) : KeptOR Q (takeReplicas i n primary l s) := by
  induction l generalizing s with
  | nil => exact kept_somePair h_s
  | cons st r ih =>
    unfold takeReplicas
    extract_lets ch
    clear_value ch
    apply kept_iteOR
    · exact kept_optMap fun x e => ⟨(ih h_s).out _ x.2 e⟩
    · split
      · exact kept_nonePair
      · have ht := kept_ofOR (kept_poolTake h_s) (by assumption)
        exact kept_optMap fun x e => ⟨(ih ht).out _ x.2 e⟩


theorem kept_copyReplicas {k : Nat × List Byte} {s : State} (h_s : Kept Q s) : KeptR Q (copyReplicas k s) := by
  unfold copyReplicas
  extract_lets -underBinder +onlyGivenNames i id x t
  clear_value i id x t
  split
  rename_i dev old _
  extract_lets -underBinder stack named made pinned
  clear_value stack named made pinned
  refine kept_iteR ⟨h_s⟩ (kept_iteR ⟨kept_conflict h_s⟩ (kept_iteR ⟨h_s⟩ (kept_iteR ⟨h_s⟩ (kept_iteR ⟨h_s⟩ ?_))))
  have hb : ∀ c r s', ((takeReplicas i t.stride old (List.range 12) s).bind fun r =>
      (poolTake r.2 (chanOf s old).1 true 128 128).map fun q => (r.1, q.1, q.2)) = some (c, r, s') → Kept Q s' := by
    intro c r s' e
    simp only [Option.bind_eq_some_iff, Option.map_eq_some_iff] at e
    obtain ⟨⟨c1, s1⟩, e1, ⟨q, s2⟩, e2, e3⟩ := e
    cases e3
    exact kept_ofOR (kept_poolTake (kept_ofOR (kept_takeReplicas h_s) e1)) e2
  split
  · exact ⟨h_s⟩
  · have ht := hb _ _ _ (by assumption)
    apply kept_iteR
    · exact ⟨kept_markRow (kept_badRead h_s)⟩
    · refine ⟨kept_noteCopy (kept_spend (kept_foldl ht ?_))⟩
      intro y z hy
      exact kept_ite hy (kept_countRowWrite (kept_memWrite hy))


theorem kept_copyRows {one : State → Nat → Moved × State} {l : List Nat} {reach : Nat} {s : State}
    (h_one : ∀ s x, Kept Q s → KeptR Q (one s x)) (h_s : Kept Q s) : KeptT Q (copyRows one l reach s) := by
  induction l generalizing s reach with
  | nil => exact ⟨h_s⟩
  | cons x r ih =>
    cases reach with
    | zero => exact ⟨h_s⟩
    | succ n =>
      unfold copyRows
      split <;> rename_i e <;> have ht := kept_ofR (h_one _ _ h_s) e
      · exact ih ht
      · exact ih ht
      · exact ⟨kept_budgetCut ht⟩


theorem kept_streamItem {s : State} {k : Nat × List Byte} (h_s : Kept Q s) : Kept Q (streamItem s k) := by
  unfold streamItem; repeat' first | with_reducible assumption | (intro y; beta_reduce) | (extract_lets -underBinder +onlyGivenNames x; refine kept_cut (Q := Q) (x := x) ?_ ?_; subst x; rotate_left; intro hx; clear_value x) | extract_lets -underBinder +onlyGivenNames x | with_reducible first | apply kept_foldl | apply kept_post

theorem kept_noteMig {s : State} {i : List Byte} (h_s : Kept Q s) : Kept Q (noteMig s i) := by
  unfold noteMig; repeat' first | with_reducible assumption | (intro y; beta_reduce) | (extract_lets -underBinder +onlyGivenNames x; refine kept_cut (Q := Q) (x := x) ?_ ?_; subst x; rotate_left; intro hx; clear_value x) | extract_lets -underBinder +onlyGivenNames x | with_reducible first | apply kept_ite | apply kept_mgmtMap | apply kept_event | (with_reducible apply kept_mk; first | with_reducible assumption | with_reducible first | apply kept_mgmtMap | apply kept_event) | split

theorem kept_migrateItem {k : Nat × List Byte} {reach : Nat} {s : State} (h_s : Kept Q s) : KeptT Q (migrateItem k reach s) := by
  unfold migrateItem
  extract_lets -underBinder +onlyGivenNames i
  clear_value i
  refine kept_iteT ⟨kept_skipItem h_s⟩ (kept_iteT ⟨h_s⟩ ?_)
  split
  · exact ⟨kept_skipGrey (kept_plcMap h_s)⟩
  · extract_lets -underBinder +onlyGivenNames rows t
    have ht : Kept Q t := kept_noteMig h_s
    clear_value rows t
    apply kept_iteT
    · apply kept_iteT
      · split
        have := kept_ofT (kept_copyRows (fun _ _ h => kept_streamRow h) ht) (by assumption)
        exact ⟨kept_streamItem this⟩
      · exact kept_iteT ⟨ht⟩ (kept_copyRows (fun _ _ h => kept_copyRow h) ht)
    · extract_lets -underBinder r
      have hr : KeptR Q r := kept_iteR (kept_copyFragment ht) (kept_copyReplicas ht)
      clear_value r
      apply kept_iteT ⟨ht⟩
      split
      · exact ⟨kept_budgetCut hr.out⟩
      · exact ⟨hr.out⟩
      · exact ⟨hr.out⟩


theorem kept_relocPut {s : State} {id x dev a : Nat} (h_s : Kept Q s) : KeptR Q (relocPut s id x dev a) := by
  unfold relocPut; repeat' first | with_reducible assumption | (extract_lets -underBinder +onlyGivenNames x; refine kept_cut (Q := Q) (x := x) ?_ ?_; subst x; rotate_left; intro hx; clear_value x) | extract_lets -underBinder +onlyGivenNames x | with_reducible first | apply kept_ite | apply kept_iteR | apply kept_dirDrop | apply kept_dirPut | split | with_reducible apply kept_pair | assumption

theorem kept_switchRow {s : State} {c : Copied} (h_s : Kept Q s) : Kept Q (switchRow s c) := by
  unfold switchRow; repeat' first | with_reducible assumption | (extract_lets -underBinder +onlyGivenNames x; refine kept_cut (Q := Q) (x := x) ?_ ?_; subst x; rotate_left; intro hx; clear_value x) | extract_lets -underBinder +onlyGivenNames x | with_reducible first | apply kept_ite | apply kept_relocPut | apply kept_poolFree | apply kept_dirFull | apply kept_dirDrop | apply kept_dirPut | apply kept_bump1 | split | refine kept_ofR ?_ (by assumption) | (apply kept_snd; with_reducible first | apply kept_relocPut)

theorem kept_hubRefresh {s : State} {a : Nat} (h_s : Kept Q s) : Kept Q (hubRefresh s a) := by
  unfold hubRefresh; repeat' first | with_reducible assumption | (intro y; beta_reduce) | (extract_lets -underBinder +onlyGivenNames x; refine kept_cut (Q := Q) (x := x) ?_ ?_; subst x; rotate_left; intro hx; clear_value x) | extract_lets -underBinder +onlyGivenNames x | with_reducible first | apply kept_ite | apply kept_plcMap | (with_reducible apply kept_mk; first | with_reducible assumption | with_reducible first | apply kept_plcMap) | split

theorem kept_switchFragment {s : State} {c : Copied} (h_s : Kept Q s) : Kept Q (switchFragment s c) := by
  unfold switchFragment; repeat' first | with_reducible assumption | (intro y; beta_reduce) | (extract_lets -underBinder +onlyGivenNames x; refine kept_cut (Q := Q) (x := x) ?_ ?_; subst x; rotate_left; intro hx; clear_value x) | extract_lets -underBinder +onlyGivenNames x | with_reducible first | apply kept_ite | apply kept_poolFree | apply kept_memWrite | apply kept_plcMap | apply kept_bump1 | apply kept_hubRefresh | (with_reducible apply kept_mk; first | with_reducible assumption | with_reducible first | apply kept_poolFree | apply kept_memWrite | apply kept_plcMap | apply kept_bump1 | apply kept_hubRefresh) | split

theorem kept_switchReplicas {s : State} {c : Copied} (h_s : Kept Q s) : Kept Q (switchReplicas s c) := by
  unfold switchReplicas; repeat' first | with_reducible assumption | (intro y; beta_reduce) | (extract_lets -underBinder +onlyGivenNames x; refine kept_cut (Q := Q) (x := x) ?_ ?_; subst x; rotate_left; intro hx; clear_value x) | extract_lets -underBinder +onlyGivenNames x | with_reducible first | apply kept_ite | apply kept_foldl | apply kept_poolFree | apply kept_dirFull | apply kept_memWrite | apply kept_dirPut | apply kept_mgmtMap | apply kept_bump1 | (with_reducible apply kept_mk; first | with_reducible assumption | with_reducible first | apply kept_poolFree | apply kept_dirFull | apply kept_memWrite | apply kept_dirPut | apply kept_mgmtMap | apply kept_bump1) | split

theorem kept_dropReplicas {s : State} {id x : Nat} (h_s : Kept Q s) : Kept Q (dropReplicas s id x) := by
  unfold dropReplicas; repeat' first | with_reducible assumption | (intro y; beta_reduce) | (extract_lets -underBinder +onlyGivenNames x; refine kept_cut (Q := Q) (x := x) ?_ ?_; subst x; rotate_left; intro hx; clear_value x) | extract_lets -underBinder +onlyGivenNames x | with_reducible first | apply kept_foldl | apply kept_plcMap | apply kept_dirDrop | apply kept_mgmtMap | apply kept_poolFree | (with_reducible apply kept_mk; first | with_reducible assumption | with_reducible first | apply kept_plcMap | apply kept_dirDrop | apply kept_mgmtMap | apply kept_poolFree) | split | assumption

theorem kept_doneCopy {s : State} {c : Copied} (h_s : Kept Q s) : Kept Q (doneCopy s c) := by
  unfold doneCopy; repeat' first | with_reducible assumption | (intro y; beta_reduce) | with_reducible first | apply kept_plcMap | (with_reducible apply kept_mk; first | with_reducible assumption | with_reducible first | apply kept_plcMap)

theorem kept_acceptedMod {s : State} {a : Accepted} {f : Accepted → Accepted} (h_s : Kept Q s) : Kept Q (acceptedMod s a f) := by
  unfold acceptedMod; repeat' first | with_reducible assumption | (intro y; beta_reduce) | with_reducible first | apply kept_ite | apply kept_plcMap | apply kept_accepted | apply h_f | (with_reducible apply kept_mk; first | with_reducible assumption | with_reducible first | apply kept_plcMap | apply kept_accepted) | split

theorem kept_pinPut {s : State} {id x : Nat} (h_s : Kept Q s) : Kept Q (pinPut s id x) := by
  unfold pinPut; repeat' first | with_reducible assumption | with_reducible first | apply kept_ite | apply kept_dirPut | split | assumption

theorem kept_switchAccepted {s : State} {a : Accepted} {b : Bcast} (h_s : Kept Q s) : Kept Q (switchAccepted s a b) := by
  unfold switchAccepted; repeat' first | with_reducible assumption | (intro y; beta_reduce) | (extract_lets -underBinder +onlyGivenNames x; refine kept_cut (Q := Q) (x := x) ?_ ?_; subst x; rotate_left; intro hx; clear_value x) | extract_lets -underBinder +onlyGivenNames x | with_reducible first | apply kept_ite | apply kept_foldl | apply kept_relocPut | apply kept_pinPut | apply kept_bump1 | apply kept_dirDrop | apply kept_dirFull | apply kept_acceptedMod | (with_reducible apply kept_mk; first | with_reducible assumption | refine kept_ofR ?_ (by assumption) | with_reducible first | apply kept_pinPut | apply kept_bump1 | apply kept_dirDrop | apply kept_dirFull | apply kept_acceptedMod) | split | refine kept_ofR ?_ (by assumption) | (apply kept_snd; with_reducible first | apply kept_relocPut)

theorem kept_freeAccepted {s : State} {a : Accepted} (h_s : Kept Q s) : Kept Q (freeAccepted s a) := by
  unfold freeAccepted; repeat' first | with_reducible assumption | (intro y; beta_reduce) | (extract_lets -underBinder +onlyGivenNames x; refine kept_cut (Q := Q) (x := x) ?_ ?_; subst x; rotate_left; intro hx; clear_value x) | extract_lets -underBinder +onlyGivenNames x | with_reducible first | apply kept_ite | apply kept_foldl | apply kept_poolFree | apply kept_plcMap | apply kept_accepted | (with_reducible apply kept_mk; first | with_reducible assumption | with_reducible first | apply kept_poolFree | apply kept_plcMap | apply kept_accepted) | split

theorem kept_closeAccepted {s : State} {next : List (List Byte)} (h_s : Kept Q s) : Kept Q (closeAccepted s next) := by
  unfold closeAccepted; repeat' first | with_reducible assumption | (intro y; beta_reduce) | (extract_lets -underBinder +onlyGivenNames x; refine kept_cut (Q := Q) (x := x) ?_ ?_; subst x; rotate_left; intro hx; clear_value x) | extract_lets -underBinder +onlyGivenNames x | with_reducible first | apply kept_ite | apply kept_foldl | apply kept_freeAccepted | apply kept_acceptedMod | apply kept_plcMap | apply kept_accepted | (with_reducible apply kept_mk; first | with_reducible assumption | with_reducible first | apply kept_freeAccepted | apply kept_acceptedMod | apply kept_plcMap | apply kept_accepted) | split

theorem kept_dirSwitchItem {s : State} {k : Nat × List Byte} (h_s : Kept Q s) : Kept Q (dirSwitchItem s k) := by
  unfold dirSwitchItem; repeat' first | with_reducible assumption | (intro y; beta_reduce) | (extract_lets -underBinder +onlyGivenNames x; refine kept_cut (Q := Q) (x := x) ?_ ?_; subst x; rotate_left; intro hx; clear_value x) | extract_lets -underBinder +onlyGivenNames x | with_reducible first | apply kept_ite | apply kept_foldl | apply kept_skipItem | apply kept_skipGrey | apply kept_switchAccepted | apply kept_switchRow | apply kept_doneCopy | apply kept_switchFragment | apply kept_switchReplicas | apply kept_conflict | apply kept_dropReplicas | apply kept_plcMap | apply kept_memWrite | (with_reducible apply kept_mk; first | with_reducible assumption | with_reducible first | apply kept_skipItem | apply kept_skipGrey | apply kept_switchAccepted | apply kept_switchRow | apply kept_doneCopy | apply kept_switchFragment | apply kept_switchReplicas | apply kept_conflict | apply kept_dropReplicas | apply kept_plcMap | apply kept_memWrite) | split

theorem kept_decayForwards {s : State} (h_s : Kept Q s) : Kept Q (decayForwards s) := by
  unfold decayForwards; repeat' first | with_reducible assumption | (intro y; beta_reduce) | with_reducible first | apply kept_ite | apply kept_dirMap | (with_reducible apply kept_mk; first | with_reducible assumption | with_reducible first | apply kept_dirMap) | split

theorem kept_dropCopies {s : State} (h_s : Kept Q s) : Kept Q (dropCopies s) := by
  unfold dropCopies; repeat' first | with_reducible assumption | (intro y; beta_reduce) | (extract_lets -underBinder +onlyGivenNames x; refine kept_cut (Q := Q) (x := x) ?_ ?_; subst x; rotate_left; intro hx; clear_value x) | extract_lets -underBinder +onlyGivenNames x | with_reducible first | apply kept_ite | apply kept_foldl | apply kept_poolFree | apply kept_plcMap | (with_reducible apply kept_mk; first | with_reducible assumption | with_reducible first | apply kept_poolFree | apply kept_plcMap) | split

theorem kept_sendBcast {s : State} {b : Bcast} {dev : Nat} {both : Bool} (h_s : Kept Q s) : Kept Q (sendBcast s b dev both) := by
  unfold sendBcast; repeat' first | with_reducible assumption | (intro y; beta_reduce) | (extract_lets -underBinder +onlyGivenNames x; refine kept_cut (Q := Q) (x := x) ?_ ?_; subst x; rotate_left; intro hx; clear_value x) | extract_lets -underBinder +onlyGivenNames x | with_reducible first | apply kept_ite | apply kept_foldl | apply kept_postBoth | apply kept_post | split

theorem kept_broadcast {s : State} (h_s : Kept Q s) : Kept Q (broadcast s) := by
  unfold broadcast; repeat' first | with_reducible assumption | (intro y; beta_reduce) | (extract_lets -underBinder +onlyGivenNames x; refine kept_cut (Q := Q) (x := x) ?_ ?_; subst x; rotate_left; intro hx; clear_value x) | extract_lets -underBinder +onlyGivenNames x | with_reducible first | apply kept_ite | apply kept_foldl | apply kept_plcMap | apply kept_sendBcast | (with_reducible apply kept_mk; first | with_reducible assumption | with_reducible first | apply kept_plcMap | apply kept_sendBcast) | split

theorem kept_settleAccepted {s : State} {b : Bcast} (h_s : Kept Q s) : Kept Q (settleAccepted s b) := by
  unfold settleAccepted; repeat' first | with_reducible assumption | (intro y; beta_reduce) | (extract_lets -underBinder +onlyGivenNames x; refine kept_cut (Q := Q) (x := x) ?_ ?_; subst x; rotate_left; intro hx; clear_value x) | extract_lets -underBinder +onlyGivenNames x | with_reducible first | apply kept_ite | apply kept_foldl | apply kept_switchAccepted | apply kept_freeAccepted | split

theorem kept_installBcast {s : State} {b : Bcast} (h_s : Kept Q s) : Kept Q (installBcast s b) := by
  unfold installBcast; repeat' first | with_reducible assumption | (intro y; beta_reduce) | with_reducible first | apply kept_ite | apply kept_foldl | apply kept_relocPut | apply kept_settleAccepted | split | refine kept_ofR ?_ (by assumption) | apply kept_snd | (apply kept_snd; with_reducible first | apply kept_relocPut)

theorem kept_installBcasts {s : State} (h_s : Kept Q s) : Kept Q (installBcasts s) := by
  unfold installBcasts; repeat' first | with_reducible assumption | (intro y; beta_reduce) | (extract_lets -underBinder +onlyGivenNames x; refine kept_cut (Q := Q) (x := x) ?_ ?_; subst x; rotate_left; intro hx; clear_value x) | extract_lets -underBinder +onlyGivenNames x | with_reducible first | apply kept_foldl | apply kept_installBcast | apply kept_plcMap | (with_reducible apply kept_mk; first | with_reducible assumption | with_reducible first | apply kept_installBcast | apply kept_plcMap)

theorem kept_execRelocBcast {src tag : Nat} {body : List Byte} {s : State} (h_s : Kept Q s) : KeptO Q (execRelocBcast src tag body s) := by
  unfold execRelocBcast; repeat' first | with_reducible assumption | (intro y; beta_reduce) | (extract_lets -underBinder +onlyGivenNames x; refine kept_cut (Q := Q) (x := x) ?_ ?_; subst x; rotate_left; intro hx; clear_value x) | extract_lets -underBinder +onlyGivenNames x | with_reducible first | apply kept_ite | apply kept_iteO | apply kept_next | apply kept_powered | apply kept_takeMsg | apply kept_event | apply kept_plcMap | apply kept_settleAccepted | (with_reducible apply kept_mk; first | with_reducible assumption | with_reducible first | apply kept_takeMsg | apply kept_event | apply kept_plcMap | apply kept_settleAccepted) | split

theorem kept_askGaps {s : State} (h_s : Kept Q s) : Kept Q (askGaps s) := by
  unfold askGaps; repeat' first | with_reducible assumption | (intro y; beta_reduce) | (extract_lets -underBinder +onlyGivenNames x; refine kept_cut (Q := Q) (x := x) ?_ ?_; subst x; rotate_left; intro hx; clear_value x) | extract_lets -underBinder +onlyGivenNames x | with_reducible first | apply kept_foldl | apply kept_plcMap | apply kept_post | (with_reducible apply kept_mk; first | with_reducible assumption | with_reducible first | apply kept_plcMap | apply kept_post)

theorem kept_execRelocQuery {src tag : Nat} {body : List Byte} {s : State} (h_s : Kept Q s) : KeptO Q (execRelocQuery src tag body s) := by
  unfold execRelocQuery; repeat' first | with_reducible assumption | (intro y; beta_reduce) | (extract_lets -underBinder +onlyGivenNames x; refine kept_cut (Q := Q) (x := x) ?_ ?_; subst x; rotate_left; intro hx; clear_value x) | extract_lets -underBinder +onlyGivenNames x | with_reducible first | apply kept_next | apply kept_powered | apply kept_takeMsg | apply kept_sendBcast | apply kept_post | split

theorem kept_takeRows {s : State} {a : Accepted} {recs : List (List Byte)} (h_s : Kept Q s) : KeptR Q (takeRows s a recs) := by
  unfold takeRows; repeat' first | with_reducible assumption | (intro y; beta_reduce) | (extract_lets -underBinder +onlyGivenNames x; refine kept_cut (Q := Q) (x := x) ?_ ?_; subst x; rotate_left; intro hx; clear_value x) | extract_lets -underBinder +onlyGivenNames x | with_reducible first | apply kept_ite | apply kept_iteR | apply kept_foldl | apply kept_countRowWrite | apply kept_memWrite | apply kept_spend | apply kept_budgetCut | apply kept_acceptedMod | (with_reducible apply kept_mk; first | with_reducible assumption | with_reducible first | apply kept_countRowWrite | apply kept_memWrite | apply kept_spend | apply kept_budgetCut | apply kept_acceptedMod) | split | with_reducible apply kept_pair

theorem kept_execRowStream {src tag : Nat} {body : List Byte} {s : State} (h_s : Kept Q s) : KeptO Q (execRowStream src tag body s) := by
  unfold execRowStream; repeat' first | with_reducible assumption | (intro y; beta_reduce) | (extract_lets -underBinder +onlyGivenNames x; refine kept_cut (Q := Q) (x := x) ?_ ?_; subst x; rotate_left; intro hx; clear_value x) | extract_lets -underBinder +onlyGivenNames x | with_reducible first | apply kept_ite | apply kept_iteO | apply kept_next | apply kept_takeMsg | apply kept_skipGrey | apply kept_acceptedMod | apply kept_takeRows | apply kept_post | (with_reducible apply kept_mk; first | with_reducible assumption | refine kept_ofR ?_ (by assumption) | with_reducible first | apply kept_takeMsg | apply kept_skipGrey | apply kept_acceptedMod | apply kept_post) | split | refine kept_ofR ?_ (by assumption) | (apply kept_snd; with_reducible first | apply kept_takeRows) | assumption

theorem kept_execRowStreamAck {src tag : Nat} {body : List Byte} {s : State} (h_s : Kept Q s) : KeptO Q (execRowStreamAck src tag body s) := by
  unfold execRowStreamAck; repeat' first | with_reducible assumption | (intro y; beta_reduce) | (extract_lets -underBinder +onlyGivenNames x; refine kept_cut (Q := Q) (x := x) ?_ ?_; subst x; rotate_left; intro hx; clear_value x) | extract_lets -underBinder +onlyGivenNames x | with_reducible first | apply kept_ite | apply kept_iteO | apply kept_next | apply kept_takeMsg | apply kept_plcMap | (with_reducible apply kept_mk; first | with_reducible assumption | with_reducible first | apply kept_takeMsg | apply kept_plcMap) | split

theorem kept_acceptOne {s : State} {src tick : Nat} {i : List Byte} (h_s : Kept Q s) : KeptOR Q (acceptOne s src tick i) := by
  unfold acceptOne
  extract_lets -underBinder +onlyGivenNames id t n
  clear_value id t n
  refine kept_iteOR kept_nonePair ?_
  extract_lets -underBinder +onlyGivenNames place
  have hp : KeptOR Q place := kept_iteOR (kept_somePair h_s) (kept_optMap fun _ _ => kept_pair (kept_foldl h_s fun _ _ h => kept_poolPut h))
  clear_value place
  split
  · exact kept_nonePair
  · exact kept_somePair (kept_plcMap (kept_ofOR hp rfl))


theorem kept_acceptAll {src tick : Nat} {l : List (List Byte × Nat)} {acc : List (Nat × List Byte)} {s : State} (h_s : Kept Q s) :
    KeptR Q (acceptAll src tick l acc s) := by
  induction l generalizing s acc with
  | nil => exact ⟨h_s⟩
  | cons e r ih =>
    obtain ⟨i, pos⟩ := e
    unfold acceptAll
    apply kept_iteR
    · split
      · exact kept_iteR (ih h_s) (ih h_s)
      · exact ih h_s
    · split
      · exact ih (kept_ofOR (kept_acceptOne h_s) (by assumption))
      · exact ih h_s


theorem kept_planLater {s : State} {items : List (List Byte)} (h_s : Kept Q s) : Kept Q (planLater s items) := by
  unfold planLater; repeat' first | with_reducible assumption | exact kept_mk (by with_reducible assumption)

theorem kept_execSummaryOfferRx {src tag : Nat} {body : List Byte} {s : State} (h_s : Kept Q s) : KeptO Q (execSummaryOfferRx src tag body s) := by
  unfold execSummaryOfferRx; repeat' first | with_reducible assumption | (extract_lets -underBinder +onlyGivenNames x; refine kept_cut (Q := Q) (x := x) ?_ ?_; subst x; rotate_left; intro hx; clear_value x) | extract_lets -underBinder +onlyGivenNames x | with_reducible first | apply kept_next | apply kept_powered | apply kept_noteCfg | apply kept_takeMsg | apply kept_acceptAll | apply kept_planLater | apply kept_post | split | refine kept_ofR ?_ (by assumption) | (apply kept_snd; with_reducible first | apply kept_acceptAll)

theorem kept_execSummaryAcceptRx {src tag : Nat} {body : List Byte} {s : State} (h_s : Kept Q s) : KeptO Q (execSummaryAcceptRx src tag body s) := by
  unfold execSummaryAcceptRx; repeat' first | with_reducible assumption | with_reducible first | apply kept_next | apply kept_powered | apply kept_planLater | apply kept_noteCfg | apply kept_takeMsg

theorem kept_freeOffers {s : State} (h_s : Kept Q s) : Kept Q (freeOffers s) := by
  unfold freeOffers; repeat' first | with_reducible assumption | (intro y; beta_reduce) | (extract_lets -underBinder +onlyGivenNames x; refine kept_cut (Q := Q) (x := x) ?_ ?_; subst x; rotate_left; intro hx; clear_value x) | extract_lets -underBinder +onlyGivenNames x | with_reducible first | apply kept_foldl | apply kept_freeAccepted

theorem kept_planPin {s : State} {id first count dev ch : Nat} (h_s : Kept Q s) : Kept Q (planPin s id first count dev ch) := by
  unfold planPin; repeat' first | with_reducible assumption | (intro y; beta_reduce) | (extract_lets -underBinder +onlyGivenNames x; refine kept_cut (Q := Q) (x := x) ?_ ?_; subst x; rotate_left; intro hx; clear_value x) | extract_lets -underBinder +onlyGivenNames x | with_reducible first | apply kept_planLater | assumption

theorem kept_planHome {s : State} {a : Nat} (h_s : Kept Q s) : Kept Q (planHome s a) := by
  unfold planHome; repeat' first | with_reducible assumption | (intro y; beta_reduce) | (extract_lets -underBinder +onlyGivenNames x; refine kept_cut (Q := Q) (x := x) ?_ ?_; subst x; rotate_left; intro hx; clear_value x) | extract_lets -underBinder +onlyGivenNames x | with_reducible first | apply kept_planLater | apply kept_fst

theorem kept_pinSwitch {s : State} {r : Nat × Nat × Nat × Nat × Nat × Bool} (h_s : Kept Q s) : Kept Q (pinSwitch s r) := by
  unfold pinSwitch; repeat' first | with_reducible assumption | (intro y; beta_reduce) | (extract_lets -underBinder +onlyGivenNames x; refine kept_cut (Q := Q) (x := x) ?_ ?_; subst x; rotate_left; intro hx; clear_value x) | extract_lets -underBinder +onlyGivenNames x | with_reducible first | apply kept_ite | apply kept_foldl | apply kept_dirDrop | apply kept_plcMap | apply kept_pinPut | apply kept_planPin | (with_reducible apply kept_mk; first | with_reducible assumption | with_reducible first | apply kept_dirDrop | apply kept_plcMap | apply kept_pinPut | apply kept_planPin) | split | apply kept_fst | assumption

theorem kept_placementSwitch {s : State} (h_s : Kept Q s) : Kept Q (placementSwitch s) := by
  unfold placementSwitch; repeat' first | with_reducible assumption | (intro y; beta_reduce) | (extract_lets -underBinder +onlyGivenNames x; refine kept_cut (Q := Q) (x := x) ?_ ?_; subst x; rotate_left; intro hx; clear_value x) | extract_lets -underBinder +onlyGivenNames x | with_reducible first | apply kept_foldl | apply kept_plcMap | apply kept_pinSwitch | (with_reducible apply kept_mk; first | with_reducible assumption | with_reducible first | apply kept_plcMap | apply kept_pinSwitch)

theorem kept_occupancy {s : State} (h_s : Kept Q s) : KeptR Q (occupancy s) := by
  unfold occupancy; repeat' first | with_reducible assumption | (extract_lets -underBinder +onlyGivenNames x; refine kept_cut (Q := Q) (x := x) ?_ ?_; subst x; rotate_left; intro hx; clear_value x) | extract_lets -underBinder +onlyGivenNames x | with_reducible first | apply kept_draw | split | with_reducible apply kept_pair | refine kept_ofR ?_ (by assumption) | (apply kept_snd; with_reducible first | apply kept_draw)

theorem kept_snapshot {s : State} (h_s : Kept Q s) : Kept Q (snapshot s) := by
  unfold snapshot
  extract_lets -underBinder +onlyGivenNames busy
  clear_value busy
  split
  rename_i e
  refine kept_rset (kept_plcMap (kept_ofR (kept_foldlR ⟨h_s⟩ ?_) e))
  intro p x hp
  beta_reduce
  split
  rename_i e
  exact ⟨kept_ofR (kept_occupancy hp.out) e⟩


theorem kept_demandSnapshots {s : State} (h_s : Kept Q s) : Kept Q (demandSnapshots s) := by
  unfold demandSnapshots; repeat' first | with_reducible assumption | (intro y; beta_reduce) | (extract_lets -underBinder +onlyGivenNames x; refine kept_cut (Q := Q) (x := x) ?_ ?_; subst x; rotate_left; intro hx; clear_value x) | extract_lets -underBinder +onlyGivenNames x | with_reducible first | apply kept_ite | apply kept_foldl | apply kept_portPut | apply kept_rset | (with_reducible apply kept_mk; first | with_reducible assumption | with_reducible first | apply kept_portPut | apply kept_rset) | split

theorem kept_countBacklog {s : State} (h_s : Kept Q s) : Kept Q (countBacklog s) := by
  unfold countBacklog; repeat' first | with_reducible assumption | (intro y; beta_reduce) | (extract_lets -underBinder +onlyGivenNames x; refine kept_cut (Q := Q) (x := x) ?_ ?_; subst x; rotate_left; intro hx; clear_value x) | extract_lets -underBinder +onlyGivenNames x | with_reducible first | apply kept_ite | apply kept_foldl | apply kept_portPut | split

end Sys2Proof.Machine
end

