-- ==== Sys2Proof/Laws/KeptUpdate.lean ====
section
/-! SUPPORT. What the operations of Update keep (`Kept`). -/

namespace Sys2Proof.Machine

set_option linter.all false

variable {Q : Aim}

theorem kept_raiseFrozen {s : State} {unit detail : Nat} (h_s : Kept Q s) : Kept Q (raiseFrozen s unit detail) := by
  unfold raiseFrozen; repeat' first | with_reducible assumption | with_reducible first | apply kept_report | apply kept_event

theorem kept_nonFinite {s : State} {unit detail : Nat} (h_s : Kept Q s) : Kept Q (nonFinite s unit detail) := by
  unfold nonFinite; repeat' first | with_reducible assumption | with_reducible first | apply kept_report | apply kept_event | apply kept_bump1

theorem kept_badGrad {s : State} (h_s : Kept Q s) : Kept Q (badGrad s) := by
  unfold badGrad; repeat' first | with_reducible assumption | with_reducible first | apply kept_event | apply kept_bump1

theorem kept_lateGrad {s : State} (h_s : Kept Q s) : Kept Q (lateGrad s) := by
  unfold lateGrad; repeat' first | with_reducible assumption | with_reducible first | apply kept_event | apply kept_bump1

theorem kept_putElems {s : State} {l : Layer} {buf k i : Nat} {b : List Byte} (h_s : Kept Q s) : Kept Q (putElems s l buf k i b) := by
  induction k generalizing s i b with
  | zero => exact h_s
  | succ k ih =>
    unfold putElems
    apply kept_ite h_s
    split
    exact ih (kept_memWrite h_s)


theorem kept_restartNext {s : State} {id ver scale : Nat} (h_s : Kept Q s) : Kept Q (restartNext s id ver scale) := by
  unfold restartNext; repeat' first | with_reducible assumption | (extract_lets -underBinder +onlyGivenNames x; refine kept_cut (Q := Q) (x := x) ?_ ?_; subst x; rotate_left; intro hx; clear_value x) | extract_lets -underBinder +onlyGivenNames x | with_reducible first | apply kept_layerPut | apply kept_memWrite | (with_reducible apply kept_mk; first | with_reducible assumption | with_reducible first | apply kept_layerPut | apply kept_memWrite) | assumption

theorem kept_completeNext {s : State} {id : Nat} (h_s : Kept Q s) : Kept Q (completeNext s id) := by
  unfold completeNext; repeat' first | with_reducible assumption | (intro y; beta_reduce) | (extract_lets -underBinder +onlyGivenNames x; refine kept_cut (Q := Q) (x := x) ?_ ?_; subst x; rotate_left; intro hx; clear_value x) | extract_lets -underBinder +onlyGivenNames x | with_reducible first | apply kept_ite | apply kept_foldl | apply kept_layerPut | (with_reducible apply kept_mk; first | with_reducible assumption | with_reducible first | apply kept_layerPut) | split | assumption

theorem kept_takeSlice {s : State} {id ver off count scale : Nat} {data : List Byte} (h_s : Kept Q s) : Kept Q (takeSlice s id ver off count scale data) := by
  unfold takeSlice; repeat' first | with_reducible assumption | (intro y; beta_reduce) | (extract_lets -underBinder +onlyGivenNames x; refine kept_cut (Q := Q) (x := x) ?_ ?_; subst x; rotate_left; intro hx; clear_value x) | extract_lets -underBinder +onlyGivenNames x | with_reducible first | apply kept_ite | apply kept_bump1 | apply kept_restartNext | apply kept_putElems | apply kept_layerPut | apply kept_completeNext | (with_reducible apply kept_mk; first | with_reducible assumption | with_reducible first | apply kept_bump1 | apply kept_restartNext | apply kept_putElems | apply kept_layerPut | apply kept_completeNext) | split | assumption

theorem kept_takeEnd {s : State} {id ver total scale : Nat} (h_s : Kept Q s) : Kept Q (takeEnd s id ver total scale) := by
  unfold takeEnd; repeat' first | with_reducible assumption | (extract_lets -underBinder +onlyGivenNames x; refine kept_cut (Q := Q) (x := x) ?_ ?_; subst x; rotate_left; intro hx; clear_value x) | extract_lets -underBinder +onlyGivenNames x | with_reducible first | apply kept_ite | apply kept_restartNext | apply kept_completeNext | apply kept_layerPut | (with_reducible apply kept_mk; first | with_reducible assumption | with_reducible first | apply kept_restartNext | apply kept_completeNext | apply kept_layerPut) | split | assumption

theorem kept_scatter {s : State} {id ver : Nat} (h_s : Kept Q s) : Kept Q (scatter s id ver) := by
  unfold scatter; repeat' first | with_reducible assumption | (intro y; beta_reduce) | (extract_lets -underBinder +onlyGivenNames x; refine kept_cut (Q := Q) (x := x) ?_ ?_; subst x; rotate_left; intro hx; clear_value x) | extract_lets -underBinder +onlyGivenNames x | with_reducible first | apply kept_foldl | apply kept_post | apply kept_takeSlice | apply kept_takeEnd | apply kept_layerPut | (with_reducible apply kept_mk; first | with_reducible assumption | with_reducible first | apply kept_post | apply kept_takeSlice | apply kept_takeEnd | apply kept_layerPut) | assumption

theorem kept_execSliceScatter {layer : Nat} {s : State} (h_s : Kept Q s) : KeptO Q (execSliceScatter layer s) := by
  unfold execSliceScatter; repeat' first | with_reducible assumption | (extract_lets -underBinder +onlyGivenNames x; refine kept_cut (Q := Q) (x := x) ?_ ?_; subst x; rotate_left; intro hx; clear_value x) | extract_lets -underBinder +onlyGivenNames x | with_reducible first | apply kept_ite | apply kept_iteO | apply kept_next | apply kept_scatter | split

theorem kept_execSliceData {src tag : Nat} {body : List Byte} {s : State} (h_s : Kept Q s) : KeptO Q (execSliceData src tag body s) := by
  unfold execSliceData; repeat' first | with_reducible assumption | (extract_lets -underBinder +onlyGivenNames x; refine kept_cut (Q := Q) (x := x) ?_ ?_; subst x; rotate_left; intro hx; clear_value x) | extract_lets -underBinder +onlyGivenNames x | with_reducible first | apply kept_ite | apply kept_iteO | apply kept_next | apply kept_takeMsg | apply kept_takeSlice | split | assumption

theorem kept_execSliceEnd {src tag : Nat} {body : List Byte} {s : State} (h_s : Kept Q s) : KeptO Q (execSliceEnd src tag body s) := by
  unfold execSliceEnd; repeat' first | with_reducible assumption | (extract_lets -underBinder +onlyGivenNames x; refine kept_cut (Q := Q) (x := x) ?_ ?_; subst x; rotate_left; intro hx; clear_value x) | extract_lets -underBinder +onlyGivenNames x | with_reducible first | apply kept_ite | apply kept_iteO | apply kept_next | apply kept_takeMsg | apply kept_takeEnd | split | assumption

theorem kept_execSlicePull {src tag : Nat} {body : List Byte} {s : State} (h_s : Kept Q s) : KeptO Q (execSlicePull src tag body s) := by
  unfold execSlicePull; repeat' first | with_reducible assumption | (extract_lets -underBinder +onlyGivenNames x; refine kept_cut (Q := Q) (x := x) ?_ ?_; subst x; rotate_left; intro hx; clear_value x) | extract_lets -underBinder +onlyGivenNames x | with_reducible first | apply kept_ite | apply kept_iteO | apply kept_next | apply kept_takeMsg | apply kept_layerPut | split | assumption

theorem kept_changeOwner {s : State} {id owner : Nat} (h_s : Kept Q s) : Kept Q (changeOwner s id owner) := by
  unfold changeOwner; repeat' first | with_reducible assumption | (intro y; beta_reduce) | (extract_lets -underBinder +onlyGivenNames x; refine kept_cut (Q := Q) (x := x) ?_ ?_; subst x; rotate_left; intro hx; clear_value x) | extract_lets -underBinder +onlyGivenNames x | with_reducible first | apply kept_ite | apply kept_foldl | apply kept_updMap | apply kept_layerPut | apply kept_post | (with_reducible apply kept_mk; first | with_reducible assumption | with_reducible first | apply kept_updMap | apply kept_layerPut | apply kept_post) | split | with_reducible rfl | assumption

theorem kept_putStepAcc {s : State} {a : StepAcc} (h_s : Kept Q s) : Kept Q (putStepAcc s a) := by
  unfold putStepAcc; repeat' first | with_reducible assumption | (intro y; beta_reduce) | with_reducible first | apply kept_updMap | (with_reducible apply kept_mk; first | with_reducible assumption | with_reducible first | apply kept_updMap) | with_reducible rfl

theorem kept_execRootRefreshDone {layer : Nat} {s : State} (h_s : Kept Q s) : KeptO Q (execRootRefreshDone layer s) := by
  unfold execRootRefreshDone; repeat' first | with_reducible assumption | (intro y; beta_reduce) | (extract_lets -underBinder +onlyGivenNames x; refine kept_cut (Q := Q) (x := x) ?_ ?_; subst x; rotate_left; intro hx; clear_value x) | extract_lets -underBinder +onlyGivenNames x | with_reducible first | apply kept_next | apply kept_foldl | apply kept_layerPut | apply kept_report | apply kept_event | apply kept_bump1 | (with_reducible apply kept_mk; first | with_reducible assumption | with_reducible first | apply kept_layerPut | apply kept_report | apply kept_event | apply kept_bump1) | split

theorem kept_closeAt {s : State} {id step : Nat} (h_s : Kept Q s) : Kept Q (closeAt s id step) := by
  unfold closeAt; repeat' first | with_reducible assumption | (intro y; beta_reduce) | (extract_lets -underBinder +onlyGivenNames x; refine kept_cut (Q := Q) (x := x) ?_ ?_; subst x; rotate_left; intro hx; clear_value x) | extract_lets -underBinder +onlyGivenNames x | with_reducible first | apply kept_ite | apply kept_step | apply kept_updMap | apply kept_layerPut | apply kept_planLater | apply kept_nonFinite | apply kept_bump1 | (with_reducible apply kept_mk; first | with_reducible assumption | with_reducible first | apply kept_updMap | apply kept_layerPut | apply kept_planLater | apply kept_nonFinite | apply kept_bump1) | split | with_reducible rfl | assumption

theorem kept_closeStep {s : State} {id : Nat} (h_s : Kept Q s) : Kept Q (closeStep s id) := by
  unfold closeStep; repeat' first | with_reducible assumption | with_reducible first | apply kept_closeAt | assumption

theorem kept_closeReady {k id : Nat} {s : State} (h_s : Kept Q s) : Kept Q (closeReady k id s) := by
  induction k generalizing s with
  | zero => exact h_s
  | succ k ih =>
    unfold closeReady
    exact kept_ite (ih (kept_closeStep h_s)) h_s


theorem kept_contribLayer {s : State} {id step off : Nat} {vals : List Nat} (h_s : Kept Q s) : Kept Q (contribLayer s id step off vals) := by
  unfold contribLayer; repeat' first | with_reducible assumption | (intro y; beta_reduce) | (extract_lets -underBinder +onlyGivenNames x; refine kept_cut (Q := Q) (x := x) ?_ ?_; subst x; rotate_left; intro hx; clear_value x) | extract_lets -underBinder +onlyGivenNames x | with_reducible first | apply kept_ite | apply kept_foldl | apply kept_bump1 | apply kept_raiseFrozen | apply kept_layerPut | apply kept_step | apply kept_lateGrad | apply kept_putStepAcc | (with_reducible apply kept_mk; first | with_reducible assumption | with_reducible first | apply kept_bump1 | apply kept_raiseFrozen | apply kept_layerPut | apply kept_lateGrad | apply kept_putStepAcc) | split | assumption

theorem kept_doneLayer {s : State} {id step dev : Nat} (h_s : Kept Q s) : Kept Q (doneLayer s id step dev) := by
  unfold doneLayer; repeat' first | with_reducible assumption | (extract_lets -underBinder +onlyGivenNames x; refine kept_cut (Q := Q) (x := x) ?_ ?_; subst x; rotate_left; intro hx; clear_value x) | extract_lets -underBinder +onlyGivenNames x | with_reducible first | apply kept_ite | apply kept_step | apply kept_putStepAcc | apply kept_closeAt | (with_reducible apply kept_mk; first | with_reducible assumption | with_reducible first | apply kept_putStepAcc | apply kept_closeAt) | split | assumption

theorem kept_pushLayer {s : State} {id step : Nat} (h_s : Kept Q s) : Kept Q (pushLayer s id step) := by
  unfold pushLayer; repeat' first | with_reducible assumption | (intro y; beta_reduce) | (extract_lets -underBinder +onlyGivenNames x; refine kept_cut (Q := Q) (x := x) ?_ ?_; subst x; rotate_left; intro hx; clear_value x) | extract_lets -underBinder +onlyGivenNames x | with_reducible first | apply kept_ite | apply kept_foldl | apply kept_step | apply kept_memWrite | apply kept_layerPut | apply kept_contribLayer | apply kept_post | apply kept_doneLayer | apply kept_signalHitch | (with_reducible apply kept_mk; first | with_reducible assumption | refine kept_ofR ?_ (by assumption) | with_reducible first | apply kept_memWrite | apply kept_layerPut | apply kept_contribLayer | apply kept_post | apply kept_doneLayer) | split | refine kept_ofR ?_ (by assumption) | apply kept_snd | (apply kept_snd; with_reducible first | apply kept_signalHitch) | assumption

theorem kept_execLayerPush {s : State} (h_s : Kept Q s) : KeptO Q (execLayerPush s) := by
  unfold execLayerPush; repeat' first | with_reducible assumption | (intro y; beta_reduce) | (extract_lets -underBinder +onlyGivenNames x; refine kept_cut (Q := Q) (x := x) ?_ ?_; subst x; rotate_left; intro hx; clear_value x) | extract_lets -underBinder +onlyGivenNames x | with_reducible first | apply kept_ite | apply kept_iteO | apply kept_next | apply kept_foldl | apply kept_pushLayer | split

theorem kept_execGradientLayer {src tag : Nat} {body : List Byte} {s : State} (h_s : Kept Q s) : KeptO Q (execGradientLayer src tag body s) := by
  unfold execGradientLayer; repeat' first | with_reducible assumption | (extract_lets -underBinder +onlyGivenNames x; refine kept_cut (Q := Q) (x := x) ?_ ?_; subst x; rotate_left; intro hx; clear_value x) | extract_lets -underBinder +onlyGivenNames x | with_reducible first | apply kept_ite | apply kept_iteO | apply kept_next | apply kept_powered | apply kept_takeMsg | apply kept_badGrad | apply kept_contribLayer | split | assumption

theorem kept_execLayerStepTimeout {layer : Nat} {s : State} (h_s : Kept Q s) : KeptO Q (execLayerStepTimeout layer s) := by
  unfold execLayerStepTimeout; repeat' first | with_reducible assumption | (extract_lets -underBinder +onlyGivenNames x; refine kept_cut (Q := Q) (x := x) ?_ ?_; subst x; rotate_left; intro hx; clear_value x) | extract_lets -underBinder +onlyGivenNames x | with_reducible first | apply kept_ite | apply kept_iteO | apply kept_next | apply kept_advance | apply kept_closeReady | apply kept_closeStep | split

theorem kept_tblRulePut {s : State} {t : Nat} {r : TblRule} (h_s : Kept Q s) : Kept Q (tblRulePut s t r) := by
  unfold tblRulePut; repeat' first | with_reducible assumption | (intro y; beta_reduce) | with_reducible first | apply kept_updMap | (with_reducible apply kept_mk; first | with_reducible assumption | with_reducible first | apply kept_updMap) | with_reducible rfl

theorem kept_holdRow {s : State} {h : HeldRow} (h_s : Kept Q s) : Kept Q (holdRow s h) := by
  unfold holdRow; repeat' first | with_reducible assumption | (intro y; beta_reduce) | (extract_lets -underBinder +onlyGivenNames x; refine kept_cut (Q := Q) (x := x) ?_ ?_; subst x; rotate_left; intro hx; clear_value x) | extract_lets -underBinder +onlyGivenNames x | with_reducible first | apply kept_ite | apply kept_updMap | (with_reducible apply kept_mk; first | with_reducible assumption | with_reducible first | apply kept_updMap) | split | with_reducible rfl

theorem kept_stageOrHold {s : State} {h : HeldRow} (h_s : Kept Q s) : Kept Q (stageOrHold s h) := by
  unfold stageOrHold; repeat' first | with_reducible assumption | (intro y; beta_reduce) | with_reducible first | apply kept_ite | apply kept_holdRow | apply kept_stageRow | apply kept_stageFull | split | refine kept_ofR ?_ (by assumption) | (apply kept_snd; with_reducible first | apply kept_stageRow)

theorem kept_execStagingRetry {s : State} (h_s : Kept Q s) : KeptO Q (execStagingRetry s) := by
  unfold execStagingRetry; repeat' first | with_reducible assumption | (intro y; beta_reduce) | (extract_lets -underBinder +onlyGivenNames x; refine kept_cut (Q := Q) (x := x) ?_ ?_; subst x; rotate_left; intro hx; clear_value x) | extract_lets -underBinder +onlyGivenNames x | with_reducible first | apply kept_ite | apply kept_iteO | apply kept_next | apply kept_foldl | apply kept_stageRow | apply kept_holdRow | apply kept_stageFull | apply kept_updMap | (with_reducible apply kept_mk; first | with_reducible assumption | refine kept_ofR ?_ (by assumption) | with_reducible first | apply kept_holdRow | apply kept_stageFull | apply kept_updMap) | split | refine kept_ofR ?_ (by assumption) | (apply kept_snd; with_reducible first | apply kept_stageRow) | with_reducible rfl

theorem kept_putMasterRow {s : State} {id x : Nat} {m : RowMaster} (h_s : Kept Q s) : Kept Q (putMasterRow s id x m) := by
  unfold putMasterRow; repeat' first | with_reducible assumption | (intro y; beta_reduce) | (extract_lets -underBinder +onlyGivenNames x; refine kept_cut (Q := Q) (x := x) ?_ ?_; subst x; rotate_left; intro hx; clear_value x) | extract_lets -underBinder +onlyGivenNames x | with_reducible first | apply kept_updMap | apply kept_memWrite | (with_reducible apply kept_mk; first | with_reducible assumption | with_reducible first | apply kept_updMap | apply kept_memWrite) | split | with_reducible rfl | assumption

theorem kept_discardRows {s : State} {id tick n : Nat} (h_s : Kept Q s) : Kept Q (discardRows s id tick n) := by
  unfold discardRows; repeat' first | with_reducible assumption | (extract_lets -underBinder +onlyGivenNames x; refine kept_cut (Q := Q) (x := x) ?_ ?_; subst x; rotate_left; intro hx; clear_value x) | extract_lets -underBinder +onlyGivenNames x | with_reducible first | apply kept_ite | apply kept_bump | apply kept_raiseFrozen | apply kept_tblRulePut | (with_reducible apply kept_mk; first | with_reducible assumption | with_reducible first | apply kept_bump | apply kept_raiseFrozen | apply kept_tblRulePut) | split | assumption

theorem kept_applyRow {s : State} {id x : Nat} {g : List Nat} (h_s : Kept Q s) : Kept Q (applyRow s id x g) := by
  unfold applyRow; repeat' first | with_reducible assumption | (intro y; beta_reduce) | (extract_lets -underBinder +onlyGivenNames x; refine kept_cut (Q := Q) (x := x) ?_ ?_; subst x; rotate_left; intro hx; clear_value x) | extract_lets -underBinder +onlyGivenNames x | with_reducible first | apply kept_ite | apply kept_nonFinite | apply kept_markRow | apply kept_badRead | apply kept_putMasterRow | apply kept_bump1 | apply kept_event | apply kept_stageOrHold | (with_reducible apply kept_mk; first | with_reducible assumption | with_reducible first | apply kept_nonFinite | apply kept_markRow | apply kept_badRead | apply kept_putMasterRow | apply kept_bump1 | apply kept_event | apply kept_stageOrHold) | split | apply kept_fst | assumption

theorem kept_closeRows {s : State} {id tick : Nat} (h_s : Kept Q s) : Kept Q (closeRows s id tick) := by
  unfold closeRows; repeat' first | with_reducible assumption | (intro y; beta_reduce) | (extract_lets -underBinder +onlyGivenNames x; refine kept_cut (Q := Q) (x := x) ?_ ?_; subst x; rotate_left; intro hx; clear_value x) | extract_lets -underBinder +onlyGivenNames x | with_reducible first | apply kept_ite | apply kept_foldl | apply kept_updMap | apply kept_discardRows | apply kept_applyRow | (with_reducible apply kept_mk; first | with_reducible assumption | with_reducible first | apply kept_updMap | apply kept_discardRows | apply kept_applyRow) | split | with_reducible rfl | assumption

theorem kept_contribRow {s : State} {id tick ver x : Nat} {g : List Nat} (h_s : Kept Q s) : Kept Q (contribRow s id tick ver x g) := by
  unfold contribRow; repeat' first | with_reducible assumption | (intro y; beta_reduce) | (extract_lets -underBinder +onlyGivenNames x; refine kept_cut (Q := Q) (x := x) ?_ ?_; subst x; rotate_left; intro hx; clear_value x) | extract_lets -underBinder +onlyGivenNames x | with_reducible first | apply kept_ite | apply kept_foldl | apply kept_discardRows | apply kept_mgmtMap | apply kept_event | apply kept_bump1 | apply kept_lateGrad | apply kept_updMap | (with_reducible apply kept_mk; first | with_reducible assumption | with_reducible first | apply kept_discardRows | apply kept_mgmtMap | apply kept_event | apply kept_bump1 | apply kept_lateGrad | apply kept_updMap) | split | with_reducible rfl | assumption

theorem kept_doneRows {s : State} {id tick dev : Nat} (h_s : Kept Q s) : Kept Q (doneRows s id tick dev) := by
  unfold doneRows; repeat' first | with_reducible assumption | (intro y; beta_reduce) | (extract_lets -underBinder +onlyGivenNames x; refine kept_cut (Q := Q) (x := x) ?_ ?_; subst x; rotate_left; intro hx; clear_value x) | extract_lets -underBinder +onlyGivenNames x | with_reducible first | apply kept_ite | apply kept_updMap | apply kept_closeRows | (with_reducible apply kept_mk; first | with_reducible assumption | with_reducible first | apply kept_updMap | apply kept_closeRows) | split | with_reducible rfl | assumption

theorem kept_drainRing {s : State} {id tick : Nat} (h_s : Kept Q s) : Kept Q (drainRing s id tick) := by
  unfold drainRing; repeat' first | with_reducible assumption | (intro y; beta_reduce) | (extract_lets -underBinder +onlyGivenNames x; refine kept_cut (Q := Q) (x := x) ?_ ?_; subst x; rotate_left; intro hx; clear_value x) | extract_lets -underBinder +onlyGivenNames x | with_reducible first | apply kept_ite | apply kept_foldl | apply kept_memWrite | apply kept_event | apply kept_bump | apply kept_tblRulePut | apply kept_contribRow | apply kept_post | apply kept_doneRows | apply kept_signalHitch | (with_reducible apply kept_mk; first | with_reducible assumption | refine kept_ofR ?_ (by assumption) | with_reducible first | apply kept_memWrite | apply kept_event | apply kept_bump | apply kept_tblRulePut | apply kept_contribRow | apply kept_post | apply kept_doneRows) | split | refine kept_ofR ?_ (by assumption) | apply kept_snd | apply kept_fst | (apply kept_snd; with_reducible first | apply kept_signalHitch) | assumption

theorem kept_execRingDrain {s : State} (h_s : Kept Q s) : KeptO Q (execRingDrain s) := by
  unfold execRingDrain; repeat' first | with_reducible assumption | (intro y; beta_reduce) | (extract_lets -underBinder +onlyGivenNames x; refine kept_cut (Q := Q) (x := x) ?_ ?_; subst x; rotate_left; intro hx; clear_value x) | extract_lets -underBinder +onlyGivenNames x | with_reducible first | apply kept_ite | apply kept_iteO | apply kept_next | apply kept_foldl | apply kept_drainRing | split

theorem kept_execGradientRows {src tag : Nat} {body : List Byte} {s : State} (h_s : Kept Q s) : KeptO Q (execGradientRows src tag body s) := by
  unfold execGradientRows; repeat' first | with_reducible assumption | (intro y; beta_reduce) | (extract_lets -underBinder +onlyGivenNames x; refine kept_cut (Q := Q) (x := x) ?_ ?_; subst x; rotate_left; intro hx; clear_value x) | extract_lets -underBinder +onlyGivenNames x | with_reducible first | apply kept_ite | apply kept_iteO | apply kept_next | apply kept_foldl | apply kept_powered | apply kept_takeMsg | apply kept_badGrad | apply kept_contribRow | split | apply kept_fst | assumption

theorem kept_execGradientDone {src tag : Nat} {body : List Byte} {s : State} (h_s : Kept Q s) : KeptO Q (execGradientDone src tag body s) := by
  unfold execGradientDone; repeat' first | with_reducible assumption | (extract_lets -underBinder +onlyGivenNames x; refine kept_cut (Q := Q) (x := x) ?_ ?_; subst x; rotate_left; intro hx; clear_value x) | extract_lets -underBinder +onlyGivenNames x | with_reducible first | apply kept_ite | apply kept_iteO | apply kept_next | apply kept_powered | apply kept_takeMsg | apply kept_step | apply kept_badGrad | apply kept_doneLayer | apply kept_doneRows | split | assumption

theorem kept_execRowTickTimeout {table : Nat} {s : State} (h_s : Kept Q s) : KeptO Q (execRowTickTimeout table s) := by
  unfold execRowTickTimeout; repeat' first | with_reducible assumption | with_reducible first | apply kept_ite | apply kept_iteO | apply kept_next | apply kept_closeRows | apply kept_advance | split

theorem kept_rangeFree {s : State} {key : Nat} (h_s : Kept Q s) : Kept Q (rangeFree s key) := by
  unfold rangeFree; repeat' first | with_reducible assumption | (intro y; beta_reduce) | with_reducible first | apply kept_updMap | (with_reducible apply kept_mk; first | with_reducible assumption | with_reducible first | apply kept_updMap) | with_reducible rfl

theorem kept_layerVersion {s : State} {i : List Byte} (h_s : Kept Q s) : Kept Q (layerVersion s i) := by
  unfold layerVersion; repeat' first | with_reducible assumption | (intro y; beta_reduce) | (extract_lets -underBinder +onlyGivenNames x; refine kept_cut (Q := Q) (x := x) ?_ ?_; subst x; rotate_left; intro hx; clear_value x) | extract_lets -underBinder +onlyGivenNames x | with_reducible first | apply kept_ite | apply kept_layerPut | apply kept_viewRecovered | apply kept_rangeFree | apply kept_updMap | apply kept_step | apply kept_changeOwner | (with_reducible apply kept_mk; first | with_reducible assumption | with_reducible first | apply kept_layerPut | apply kept_viewRecovered | apply kept_rangeFree | apply kept_updMap | apply kept_changeOwner) | split | with_reducible rfl | assumption

end Sys2Proof.Machine
end

