-- ==== Sys2Proof/Laws/KeptKeeper.lean ====
section
/-! SUPPORT. What the operations of Keeper keep (`Kept`). -/

namespace Sys2Proof.Machine

set_option linter.all false

variable {Q : Aim}

theorem kept_keepMap {s : State} {f : KeepUnit → KeepUnit} (h_s : Kept Q s) : Kept Q (keepMap s f) := by
  unfold keepMap; repeat' first | with_reducible assumption | (intro y; beta_reduce) | with_reducible first | apply h_f | exact kept_mk (by with_reducible assumption)

theorem kept_bootMap {s : State} {f : BootUnit → BootUnit} (h_s : Kept Q s) : Kept Q (bootMap s f) := by
  unfold bootMap; repeat' first | with_reducible assumption | (intro y; beta_reduce) | with_reducible first | apply h_f | exact kept_mk (by with_reducible assumption)

theorem kept_mrExtend {s : State} {n : Nat} {v : List Byte} (h_s : Kept Q s) : Kept Q (mrExtend s n v) := by
  unfold mrExtend; repeat' first | with_reducible assumption | (intro y; beta_reduce) | with_reducible first | apply kept_keepMap | (with_reducible apply kept_mk; first | with_reducible assumption | with_reducible first | apply kept_keepMap)

theorem kept_debugEvent {s : State} {scope ev : Nat} (h_s : Kept Q s) : Kept Q (debugEvent s scope ev) := by
  unfold debugEvent; repeat' first | with_reducible assumption | with_reducible first | apply kept_mrExtend

theorem kept_relock {s : State} (h_s : Kept Q s) : Kept Q (relock s) := by
  unfold relock; repeat' first | with_reducible assumption | (intro y; beta_reduce) | with_reducible first | apply kept_ite | apply kept_debugEvent | apply kept_keepMap | (with_reducible apply kept_mk; first | with_reducible assumption | with_reducible first | apply kept_debugEvent | apply kept_keepMap) | split

theorem kept_putInForce {s : State} {kind : Nat} {f : FwImage} (h_s : Kept Q s) : Kept Q (putInForce s kind f) := by
  unfold putInForce; repeat' first | with_reducible assumption | (intro y; beta_reduce) | (extract_lets -underBinder +onlyGivenNames x; refine kept_cut (Q := Q) (x := x) ?_ ?_; subst x; rotate_left; intro hx; clear_value x) | extract_lets -underBinder +onlyGivenNames x | with_reducible first | apply kept_ite | apply kept_keepMap | (with_reducible apply kept_mk; first | with_reducible assumption | with_reducible first | apply kept_keepMap) | split

theorem kept_keeperStart {s : State} (h_s : Kept Q s) : Kept Q (keeperStart s) := by
  unfold keeperStart; repeat' first | with_reducible assumption | (intro y; beta_reduce) | (extract_lets -underBinder +onlyGivenNames x; refine kept_cut (Q := Q) (x := x) ?_ ?_; subst x; rotate_left; intro hx; clear_value x) | extract_lets -underBinder +onlyGivenNames x | with_reducible first | apply kept_keepMap | (with_reducible apply kept_mk; first | with_reducible assumption | with_reducible first | apply kept_keepMap)

theorem kept_fwSwitch {s : State} {i : List Byte} (h_s : Kept Q s) : Kept Q (fwSwitch s i) := by
  unfold fwSwitch
  extract_lets -underBinder +onlyGivenNames kind
  clear_value kind
  split
  · apply kept_ite _ (kept_event h_s)
    extract_lets -underBinder +onlyGivenNames old a b c d
    have hd : Kept Q d := kept_setUnit (kept_mrExtend (kept_keepMap (kept_putInForce h_s)))
    clear_value d
    apply kept_ite _ (kept_keepMap hd)
    refine ⟨hd.queue, hd.clock, { hd.canon with ctrls := ?_ }⟩
    have : ∀ (l : List Nat) (m : List (Nat × CtrlSt)), mwf (fun _ => ctrlReset) m = true →
        mwf (fun _ => ctrlReset) (l.foldl (fun m c =>
          if rdyState d (idxCtrl c) == .fenced then m
          else mset (fun _ => ctrlReset) m c { mget (fun _ => ctrlReset) m c with
            restart := if (mget (fun _ => ctrlReset) m c).restart = 0 then 3 else (mget (fun _ => ctrlReset) m c).restart }) m) = true := by
      intro l
      induction l with
      | nil => exact fun _ h => h
      | cons x r ih =>
        intro m h
        rw [List.foldl_cons]
        apply ih
        split
        · exact h
        · exact mwf_mset _ _ h
    exact this _ _ hd.canon.ctrls
  · exact kept_event h_s


theorem kept_discardStaged {s : State} (h_s : Kept Q s) : Kept Q (discardStaged s) := by
  unfold discardStaged; repeat' first | with_reducible assumption | (intro y; beta_reduce) | with_reducible first | apply kept_ite | apply kept_foldl | apply kept_setUnit | apply kept_keepMap | (with_reducible apply kept_mk; first | with_reducible assumption | with_reducible first | apply kept_setUnit | apply kept_keepMap) | split

end Sys2Proof.Machine
end

