-- ==== Sys2Proof/Laws/KeptRequests.lean ====
section
/-! SUPPORT. What the operations of Requests keep (`Kept`). -/

namespace Sys2Proof.Machine

set_option linter.all false

variable {Q : Aim}

theorem kept_reqPut {s : State} {id : Nat} {r : Request} (h_s : Kept Q s) : Kept Q (reqPut s id r) := by
  unfold reqPut; repeat' first | with_reducible assumption | (intro y; beta_reduce) | with_reducible first | apply kept_pciMap | (with_reducible apply kept_mk; first | with_reducible assumption | with_reducible first | apply kept_pciMap) | with_reducible rfl | assumption

theorem kept_signalQueue {s : State} {q : Nat} (h_s : Kept Q s) : Kept Q (signalQueue s q) := by
  unfold signalQueue; repeat' first | with_reducible assumption | (extract_lets -underBinder +onlyGivenNames x; refine kept_cut (Q := Q) (x := x) ?_ ?_; subst x; rotate_left; intro hx; clear_value x) | extract_lets -underBinder +onlyGivenNames x | with_reducible first | apply kept_signal | apply kept_queuePut | (with_reducible apply kept_mk; first | with_reducible assumption | with_reducible first | apply kept_signal | apply kept_queuePut)

theorem kept_writeEntry {s : State} {id : Nat} {r : Request} (h_s : Kept Q s) : Kept Q (writeEntry s id r) := by
  unfold writeEntry; repeat' first | with_reducible assumption | (extract_lets -underBinder +onlyGivenNames x; refine kept_cut (Q := Q) (x := x) ?_ ?_; subst x; rotate_left; intro hx; clear_value x) | extract_lets -underBinder +onlyGivenNames x | with_reducible first | apply kept_ite | apply kept_hostWrite | apply kept_queuePut | apply kept_signalQueue | (with_reducible apply kept_mk; first | with_reducible assumption | with_reducible first | apply kept_hostWrite | apply kept_queuePut | apply kept_signalQueue) | split | assumption

theorem kept_freeReq {s : State} {r : Request} (h_s : Kept Q s) : Kept Q (freeReq s r) := by
  unfold freeReq; repeat' first | with_reducible assumption | (intro y; beta_reduce) | (extract_lets -underBinder +onlyGivenNames x; refine kept_cut (Q := Q) (x := x) ?_ ?_; subst x; rotate_left; intro hx; clear_value x) | extract_lets -underBinder +onlyGivenNames x | with_reducible first | apply kept_ite | apply kept_pciMap | apply kept_queuePut | (with_reducible apply kept_mk; first | with_reducible assumption | with_reducible first | apply kept_pciMap | apply kept_queuePut) | split | with_reducible rfl

theorem kept_dropReq {s : State} {id : Nat} (h_s : Kept Q s) : Kept Q (dropReq s id) := by
  unfold dropReq; repeat' first | with_reducible assumption | (intro y; beta_reduce) | with_reducible first | apply kept_pciMap | (with_reducible apply kept_mk; first | with_reducible assumption | with_reducible first | apply kept_pciMap) | with_reducible rfl | assumption

theorem kept_commitReq {s : State} {id : Nat} {r : Request} (h_s : Kept Q s) : Kept Q (commitReq s id r) := by
  unfold commitReq; repeat' first | with_reducible assumption | (extract_lets -underBinder +onlyGivenNames x; refine kept_cut (Q := Q) (x := x) ?_ ?_; subst x; rotate_left; intro hx; clear_value x) | extract_lets -underBinder +onlyGivenNames x | with_reducible first | apply kept_ite | apply kept_bump1 | apply kept_rdyEvent | apply kept_freeReq | apply kept_dropReq | apply kept_writeEntry | apply kept_reqPut | (with_reducible apply kept_mk; first | with_reducible assumption | with_reducible first | apply kept_bump1 | apply kept_rdyEvent | apply kept_freeReq | apply kept_dropReq | apply kept_writeEntry | apply kept_reqPut) | split | assumption

theorem kept_completeReq {s : State} {id : Nat} {r : Request} {status cause : Nat} (h_s : Kept Q s) : Kept Q (completeReq s id r status cause) := by
  unfold completeReq; repeat' first | with_reducible assumption | with_reducible first | apply kept_commitReq | (with_reducible apply kept_mk; first | with_reducible assumption | with_reducible first | apply kept_commitReq) | assumption

theorem kept_writeDue {s : State} (h_s : Kept Q s) : Kept Q (writeDue s) := by
  unfold writeDue; repeat' first | with_reducible assumption | (intro y; beta_reduce) | with_reducible first | apply kept_ite | apply kept_foldl | apply kept_writeEntry | apply kept_dropReq | split

theorem kept_copyBytes {s : State} {a n : Nat} (h_s : Kept Q s) : KeptR Q (copyBytes s a n) := by
  unfold copyBytes; repeat' first | with_reducible assumption | (intro y; beta_reduce) | (extract_lets -underBinder +onlyGivenNames x; refine kept_cut (Q := Q) (x := x) ?_ ?_; subst x; rotate_left; intro hx; clear_value x) | extract_lets -underBinder +onlyGivenNames x | with_reducible first | apply kept_ite | apply kept_iteR | apply kept_drawN | apply kept_badRead | split | with_reducible apply kept_pair | refine kept_ofR ?_ (by assumption) | (apply kept_snd; with_reducible first | apply kept_drawN)

theorem kept_fillSlot {s : State} {id mode : Nat} {pick : Option Nat} (h_s : Kept Q s) : Kept Q (fillSlot s id mode pick) := by
  unfold fillSlot; repeat' first | with_reducible assumption | (intro y; beta_reduce) | (extract_lets -underBinder +onlyGivenNames x; refine kept_cut (Q := Q) (x := x) ?_ ?_; subst x; rotate_left; intro hx; clear_value x) | extract_lets -underBinder +onlyGivenNames x | with_reducible first | apply kept_ite | apply kept_foldl | apply kept_copyBytes | apply kept_memWrite | split | refine kept_ofR ?_ (by assumption) | (apply kept_snd; with_reducible first | apply kept_copyBytes) | assumption

theorem kept_stopWork {s : State} {id : Nat} {r : Request} (h_s : Kept Q s) : Kept Q (stopWork s id r) := by
  unfold stopWork; repeat' first | with_reducible assumption | (intro y; beta_reduce) | (extract_lets -underBinder +onlyGivenNames x; refine kept_cut (Q := Q) (x := x) ?_ ?_; subst x; rotate_left; intro hx; clear_value x) | extract_lets -underBinder +onlyGivenNames x | with_reducible first | apply kept_ite | apply kept_foldl | apply kept_drawN | apply kept_fillSlot | apply kept_tablePut | apply kept_draw | apply kept_memWrite | apply kept_pciMap | apply kept_abortTasks | (with_reducible apply kept_mk; first | with_reducible assumption | refine kept_ofR ?_ (by assumption) | with_reducible first | apply kept_fillSlot | apply kept_tablePut | apply kept_memWrite | apply kept_pciMap | apply kept_abortTasks) | split | refine kept_ofR ?_ (by assumption) | (apply kept_snd; with_reducible first | apply kept_drawN | apply kept_draw) | with_reducible rfl | assumption

theorem kept_stopDma {s : State} {r : Request} (h_s : Kept Q s) : KeptR Q (stopDma s r) := by
  unfold stopDma; repeat' first | with_reducible assumption | (extract_lets -underBinder +onlyGivenNames x; refine kept_cut (Q := Q) (x := x) ?_ ?_; subst x; rotate_left; intro hx; clear_value x) | extract_lets -underBinder +onlyGivenNames x | with_reducible first | apply kept_iteR | apply kept_drawN | apply kept_hostWrite | split | with_reducible apply kept_pair | refine kept_ofR ?_ (by assumption) | (apply kept_snd; with_reducible first | apply kept_drawN)

theorem kept_abortReq {s : State} {id : Nat} {r : Request} {cause : Nat} (h_s : Kept Q s) : Kept Q (abortReq s id r cause) := by
  unfold abortReq; repeat' first | with_reducible assumption | (extract_lets -underBinder +onlyGivenNames x; refine kept_cut (Q := Q) (x := x) ?_ ?_; subst x; rotate_left; intro hx; clear_value x) | extract_lets -underBinder +onlyGivenNames x | with_reducible first | apply kept_ite | apply kept_bump1 | apply kept_event | apply kept_reqPut | apply kept_stopWork | apply kept_stopDma | (with_reducible apply kept_mk; first | with_reducible assumption | with_reducible first | apply kept_bump1 | apply kept_event | apply kept_reqPut | apply kept_stopWork) | split | refine kept_ofR ?_ (by assumption) | (apply kept_snd; with_reducible first | apply kept_stopDma) | assumption

end Sys2Proof.Machine
end

