-- ==== Sys2Proof/Laws/KeptFaults.lean ====
section
/-! SUPPORT. What the operations of Faults keep (`Kept`). -/

namespace Sys2Proof.Machine

set_option linter.all false

variable {Q : Aim}

theorem kept_skipNamed {s : State} {i : Nat} (h_s : Kept Q s) : Kept Q (skipNamed s i) := by
  unfold skipNamed; repeat' first | with_reducible assumption | (intro y; beta_reduce) | (extract_lets -underBinder +onlyGivenNames x; refine kept_cut (Q := Q) (x := x) ?_ ?_; subst x; rotate_left; intro hx; clear_value x) | extract_lets -underBinder +onlyGivenNames x | with_reducible first | apply kept_ite | apply kept_foldl | apply kept_skipGrey | (with_reducible apply kept_mk; first | with_reducible assumption | with_reducible first | apply kept_skipGrey) | split

theorem kept_greyEffects {s : State} {i : Nat} (h_s : Kept Q s) : Kept Q (greyEffects s i) := by
  unfold greyEffects; repeat' first | with_reducible assumption | (intro y; beta_reduce) | (extract_lets -underBinder +onlyGivenNames x; refine kept_cut (Q := Q) (x := x) ?_ ?_; subst x; rotate_left; intro hx; clear_value x) | extract_lets -underBinder +onlyGivenNames x | with_reducible first | apply kept_ite | apply kept_skipNamed | apply kept_breakWhere | apply kept_endGrey | apply kept_report | (with_reducible apply kept_mk; first | with_reducible assumption | with_reducible first | apply kept_skipNamed | apply kept_breakWhere | apply kept_endGrey | apply kept_report) | split

theorem kept_toGrey {s : State} {i kind : Nat} {own : Bool} (h_s : Kept Q s) : Kept Q (toGrey s i kind own) := by
  unfold toGrey; repeat' first | with_reducible assumption | (extract_lets -underBinder +onlyGivenNames x; refine kept_cut (Q := Q) (x := x) ?_ ?_; subst x; rotate_left; intro hx; clear_value x) | extract_lets -underBinder +onlyGivenNames x | with_reducible first | apply kept_ite | apply kept_greyEffects | apply kept_setUnit | apply kept_rdyPut | (with_reducible apply kept_mk; first | with_reducible assumption | with_reducible first | apply kept_greyEffects | apply kept_setUnit | apply kept_rdyPut) | split

theorem kept_fenceCore {s : State} {p kind : Nat} (h_s : Kept Q s) : Kept Q (fenceCore s p kind) := by
  unfold fenceCore; repeat' first | with_reducible assumption | (intro y; beta_reduce) | (extract_lets -underBinder +onlyGivenNames x; refine kept_cut (Q := Q) (x := x) ?_ ?_; subst x; rotate_left; intro hx; clear_value x) | extract_lets -underBinder +onlyGivenNames x | with_reducible first | apply kept_ite | apply kept_bump1 | apply kept_setUnit | apply kept_breakWhere | apply kept_endGrey | apply kept_telPut | (with_reducible apply kept_mk; first | with_reducible assumption | with_reducible first | apply kept_bump1 | apply kept_setUnit | apply kept_breakWhere | apply kept_endGrey | apply kept_telPut) | split

theorem kept_queueFence {s : State} {p : Nat} (h_s : Kept Q s) : Kept Q (queueFence s p) := by
  unfold queueFence; repeat' first | with_reducible assumption | exact kept_mk (by with_reducible assumption) | split

theorem kept_rewriteCores {s : State} {l : Nat} (h_s : Kept Q s) : Kept Q (rewriteCores s l) := by
  unfold rewriteCores; repeat' first | with_reducible assumption | (intro y; beta_reduce) | (extract_lets -underBinder +onlyGivenNames x; refine kept_cut (Q := Q) (x := x) ?_ ?_; subst x; rotate_left; intro hx; clear_value x) | extract_lets -underBinder +onlyGivenNames x | with_reducible first | apply kept_ite | apply kept_foldl | apply kept_plcMap | apply kept_memWrite | (with_reducible apply kept_mk; first | with_reducible assumption | with_reducible first | apply kept_plcMap | apply kept_memWrite) | split

theorem kept_renumber {s : State} {l p : Nat} {spare : Option Nat} (h_s : Kept Q s) : Kept Q (renumber s l p spare) := by
  unfold renumber; repeat' first | with_reducible assumption | (extract_lets -underBinder +onlyGivenNames x; refine kept_cut (Q := Q) (x := x) ?_ ?_; subst x; rotate_left; intro hx; clear_value x) | extract_lets -underBinder +onlyGivenNames x | with_reducible first | apply kept_report | apply kept_remapBarriers | apply kept_rehome | apply kept_rewriteCores | (with_reducible apply kept_mk; first | with_reducible assumption | with_reducible first | apply kept_report | apply kept_remapBarriers | apply kept_rehome | apply kept_rewriteCores) | split

theorem kept_runFence {s : State} {f : FenceItem} (h_s : Kept Q s) : Kept Q (runFence s f) := by
  unfold runFence; repeat' first | with_reducible assumption | with_reducible first | apply kept_ite | apply kept_renumber | split

theorem kept_fenceItem {s : State} {k : Nat × List Byte} (h_s : Kept Q s) : Kept Q (fenceItem s k) := by
  unfold fenceItem; repeat' first | with_reducible assumption | (extract_lets -underBinder +onlyGivenNames x; refine kept_cut (Q := Q) (x := x) ?_ ?_; subst x; rotate_left; intro hx; clear_value x) | extract_lets -underBinder +onlyGivenNames x | with_reducible first | apply kept_ite | apply kept_skipItem | apply kept_fenceCore | apply kept_skipGrey | apply kept_renumber | split

theorem kept_execCoreCheck {core check : Nat} {s : State} (h_s : Kept Q s) : KeptO Q (execCoreCheck core check s) := by
  unfold execCoreCheck; repeat' first | with_reducible assumption | (extract_lets -underBinder +onlyGivenNames x; refine kept_cut (Q := Q) (x := x) ?_ ?_; subst x; rotate_left; intro hx; clear_value x) | extract_lets -underBinder +onlyGivenNames x | with_reducible first | apply kept_ite | apply kept_iteO | apply kept_next | apply kept_corePut | apply kept_report | apply kept_queueFence | apply kept_fenceCore | (with_reducible apply kept_mk; first | with_reducible assumption | with_reducible first | apply kept_corePut | apply kept_report | apply kept_queueFence | apply kept_fenceCore) | split

theorem kept_heartbeatFence {s : State} {core : Nat} (h_s : Kept Q s) : Kept Q (heartbeatFence s core) := by
  unfold heartbeatFence; repeat' first | with_reducible assumption | (extract_lets -underBinder +onlyGivenNames x; refine kept_cut (Q := Q) (x := x) ?_ ?_; subst x; rotate_left; intro hx; clear_value x) | extract_lets -underBinder +onlyGivenNames x | with_reducible first | apply kept_reportFull | apply kept_queueFence | apply kept_fenceCore | refine kept_ofR ?_ (by assumption) | (apply kept_snd; with_reducible first | apply kept_reportFull)

theorem kept_execCoreHeartbeat {core : Nat} {s : State} (h_s : Kept Q s) : KeptO Q (execCoreHeartbeat core s) := by
  unfold execCoreHeartbeat; repeat' first | with_reducible assumption | with_reducible first | apply kept_ite | apply kept_iteO | apply kept_next | apply kept_heartbeatFence | split

theorem kept_sendHeartbeats {s : State} (h_s : Kept Q s) : Kept Q (sendHeartbeats s) := by
  unfold sendHeartbeats; repeat' first | with_reducible assumption | (intro y; beta_reduce) | (extract_lets -underBinder +onlyGivenNames x; refine kept_cut (Q := Q) (x := x) ?_ ?_; subst x; rotate_left; intro hx; clear_value x) | extract_lets -underBinder +onlyGivenNames x | with_reducible first | apply kept_ite | apply kept_foldl | apply kept_corePut | (with_reducible apply kept_mk; first | with_reducible assumption | with_reducible first | apply kept_corePut) | split

theorem kept_countHeartbeats {s : State} (h_s : Kept Q s) : Kept Q (countHeartbeats s) := by
  unfold countHeartbeats; repeat' first | with_reducible assumption | (intro y; beta_reduce) | (extract_lets -underBinder +onlyGivenNames x; refine kept_cut (Q := Q) (x := x) ?_ ?_; subst x; rotate_left; intro hx; clear_value x) | extract_lets -underBinder +onlyGivenNames x | with_reducible first | apply kept_ite | apply kept_foldl | apply kept_corePut | apply kept_heartbeatFence | (with_reducible apply kept_mk; first | with_reducible assumption | with_reducible first | apply kept_corePut | apply kept_heartbeatFence) | split

theorem kept_execCtrlCoreFault {k cause : Nat} {s : State} (h_s : Kept Q s) : KeptO Q (execCtrlCoreFault k cause s) := by
  unfold execCtrlCoreFault; repeat' first | with_reducible assumption | (extract_lets -underBinder +onlyGivenNames x; refine kept_cut (Q := Q) (x := x) ?_ ?_; subst x; rotate_left; intro hx; clear_value x) | extract_lets -underBinder +onlyGivenNames x | with_reducible first | apply kept_ite | apply kept_iteO | apply kept_next | apply kept_ctrlFault | split

theorem kept_restartCtrls {s : State} (h_s : Kept Q s) : Kept Q (restartCtrls s) := by
  unfold restartCtrls; repeat' first | with_reducible assumption | (intro y; beta_reduce) | (extract_lets -underBinder +onlyGivenNames x; refine kept_cut (Q := Q) (x := x) ?_ ?_; subst x; rotate_left; intro hx; clear_value x) | extract_lets -underBinder +onlyGivenNames x | with_reducible first | apply kept_ite | apply kept_foldl | apply kept_hartSet | apply kept_departLatch | apply kept_ctrlPut | apply kept_bump1 | (with_reducible apply kept_mk; first | with_reducible assumption | with_reducible first | apply kept_hartSet | apply kept_departLatch | apply kept_ctrlPut | apply kept_bump1) | split

theorem kept_restartAll {s : State} {how : Nat} (h_s : Kept Q s) : Kept Q (restartAll s how) := by
  unfold restartAll; repeat' first | with_reducible assumption | (intro y; beta_reduce) | with_reducible first | apply kept_ite | apply kept_foldl | apply kept_ctrlPut | (with_reducible apply kept_mk; first | with_reducible assumption | with_reducible first | apply kept_ctrlPut) | split

theorem kept_execControlStall {s : State} (h_s : Kept Q s) : KeptO Q (execControlStall s) := by
  unfold execControlStall; repeat' first | with_reducible assumption | with_reducible first | apply kept_ite | apply kept_iteO | apply kept_next | apply kept_restartAll | apply kept_report | split

theorem kept_execDeviceWatchdog {s : State} (h_s : Kept Q s) : KeptO Q (execDeviceWatchdog s) := by
  unfold execDeviceWatchdog; repeat' first | with_reducible assumption | (extract_lets -underBinder +onlyGivenNames x; refine kept_cut (Q := Q) (x := x) ?_ ?_; subst x; rotate_left; intro hx; clear_value x) | extract_lets -underBinder +onlyGivenNames x | with_reducible first | apply kept_ite | apply kept_iteO | apply kept_next | apply kept_report | apply kept_restartAll | apply kept_toGrey | split

theorem kept_execDieTimeout {die : Nat} {s : State} (h_s : Kept Q s) : KeptO Q (execDieTimeout die s) := by
  unfold execDieTimeout; repeat' first | with_reducible assumption | (extract_lets -underBinder +onlyGivenNames x; refine kept_cut (Q := Q) (x := x) ?_ ?_; subst x; rotate_left; intro hx; clear_value x) | extract_lets -underBinder +onlyGivenNames x | with_reducible first | apply kept_ite | apply kept_iteO | apply kept_next | apply kept_report | apply kept_toGrey | split

theorem kept_resetDieRegs {s : State} {die : Nat} (h_s : Kept Q s) : Kept Q (resetDieRegs s die) := by
  unfold resetDieRegs; repeat' first | with_reducible assumption | (intro y; beta_reduce) | (extract_lets -underBinder +onlyGivenNames x; refine kept_cut (Q := Q) (x := x) ?_ ?_; subst x; rotate_left; intro hx; clear_value x) | extract_lets -underBinder +onlyGivenNames x | with_reducible first | apply kept_ite | apply kept_foldl | apply kept_resetRegs | apply kept_chanPut | (with_reducible apply kept_mk; first | with_reducible assumption | with_reducible first | apply kept_resetRegs | apply kept_chanPut) | split

theorem kept_restartDie {die : Nat} {s : State} (h_s : Kept Q s) : Kept Q (restartDie die s) := by
  unfold restartDie; repeat' first | with_reducible assumption | (intro y; beta_reduce) | (extract_lets -underBinder +onlyGivenNames x; refine kept_cut (Q := Q) (x := x) ?_ ?_; subst x; rotate_left; intro hx; clear_value x) | extract_lets -underBinder +onlyGivenNames x | with_reducible first | apply kept_ite | apply kept_foldl | apply kept_resetDieRegs | apply kept_bump1 | apply kept_rdyPut | apply kept_setUnit | apply kept_corePut | apply kept_ctrlPut | apply kept_hartSet | apply kept_departLatch | apply kept_chanPut | apply kept_greyUnit | (with_reducible apply kept_mk; first | with_reducible assumption | with_reducible first | apply kept_resetDieRegs | apply kept_bump1 | apply kept_rdyPut | apply kept_setUnit | apply kept_corePut | apply kept_ctrlPut | apply kept_hartSet | apply kept_departLatch | apply kept_chanPut | apply kept_greyUnit) | split

theorem kept_execDieRestart {die : Nat} {s : State} (h_s : Kept Q s) : KeptO Q (execDieRestart die s) := by
  unfold execDieRestart; repeat' first | with_reducible assumption | (extract_lets -underBinder +onlyGivenNames x; refine kept_cut (Q := Q) (x := x) ?_ ?_; subst x; rotate_left; intro hx; clear_value x) | extract_lets -underBinder +onlyGivenNames x | with_reducible first | apply kept_ite | apply kept_iteO | apply kept_next | apply kept_restartDie | split

theorem kept_diesRecover {s : State} (h_s : Kept Q s) : Kept Q (diesRecover s) := by
  unfold diesRecover; repeat' first | with_reducible assumption | (intro y; beta_reduce) | (extract_lets -underBinder +onlyGivenNames x; refine kept_cut (Q := Q) (x := x) ?_ ?_; subst x; rotate_left; intro hx; clear_value x) | extract_lets -underBinder +onlyGivenNames x | with_reducible first | apply kept_ite | apply kept_foldl | apply kept_setRecovered | split

theorem kept_takeOver {s : State} (h_s : Kept Q s) : Kept Q (takeOver s) := by
  unfold takeOver; repeat' first | with_reducible assumption | (intro y; beta_reduce) | (extract_lets -underBinder +onlyGivenNames x; refine kept_cut (Q := Q) (x := x) ?_ ?_; subst x; rotate_left; intro hx; clear_value x) | extract_lets -underBinder +onlyGivenNames x | with_reducible first | apply kept_ite | apply kept_foldl | apply kept_report | apply kept_abortReq | apply kept_taskPut | apply kept_noteDepth | apply kept_prefLost | (with_reducible apply kept_mk; first | with_reducible assumption | with_reducible first | apply kept_report | apply kept_abortReq | apply kept_taskPut | apply kept_noteDepth | apply kept_prefLost) | split | assumption

theorem kept_execFaultReport {kind cls action subject reporter : Nat} {ack : Bool} {detail : Nat} {s : State} (h_s : Kept Q s) : KeptO Q (execFaultReport kind cls action subject reporter ack detail s) := by
  unfold execFaultReport; repeat' first | with_reducible assumption | with_reducible first | apply kept_ite | apply kept_iteO | apply kept_next | apply kept_reportFull | split | refine kept_ofR ?_ (by assumption) | apply kept_snd | (apply kept_snd; with_reducible first | apply kept_reportFull)

theorem kept_execUnitRecoveryDone {unit : Nat} {s : State} (h_s : Kept Q s) : KeptO Q (execUnitRecoveryDone unit s) := by
  unfold execUnitRecoveryDone; repeat' first | with_reducible assumption | with_reducible first | apply kept_ite | apply kept_iteO | apply kept_next | apply kept_setRecovered | split

theorem kept_execFltAck {seq : Nat} {s : State} (h_s : Kept Q s) : KeptO Q (execFltAck seq s) := by
  unfold execFltAck; repeat' first | with_reducible assumption | (intro y; beta_reduce) | (extract_lets -underBinder +onlyGivenNames x; refine kept_cut (Q := Q) (x := x) ?_ ?_; subst x; rotate_left; intro hx; clear_value x) | extract_lets -underBinder +onlyGivenNames x | with_reducible first | apply kept_ite | apply kept_iteO | apply kept_next | apply kept_foldl | apply kept_startClear | (with_reducible apply kept_mk; first | with_reducible assumption | with_reducible first | apply kept_startClear) | split

theorem kept_rdyResult {s : State} {source : Nat} {ok : Bool} (h_s : Kept Q s) : Kept Q (rdyResult s source ok) := by
  unfold rdyResult; repeat' first | with_reducible assumption | with_reducible first | apply kept_ite | exact kept_mk (by with_reducible assumption) | split

theorem kept_execGrey {source unit : Nat} {s : State} (h_s : Kept Q s) : KeptO Q (execGrey source unit s) := by
  unfold execGrey; repeat' first | with_reducible assumption | (extract_lets -underBinder +onlyGivenNames x; refine kept_cut (Q := Q) (x := x) ?_ ?_; subst x; rotate_left; intro hx; clear_value x) | extract_lets -underBinder +onlyGivenNames x | with_reducible first | apply kept_ite | apply kept_iteO | apply kept_next | apply kept_powered | apply kept_rdyResult | apply kept_report | apply kept_rdyPut | apply kept_toGrey | (with_reducible apply kept_mk; first | with_reducible assumption | with_reducible first | apply kept_rdyResult | apply kept_report | apply kept_rdyPut | apply kept_toGrey) | split

theorem kept_beginRecovery {s : State} {i : Nat} (h_s : Kept Q s) : Kept Q (beginRecovery s i) := by
  unfold beginRecovery; repeat' first | with_reducible assumption | (extract_lets -underBinder +onlyGivenNames x; refine kept_cut (Q := Q) (x := x) ?_ ?_; subst x; rotate_left; intro hx; clear_value x) | extract_lets -underBinder +onlyGivenNames x | with_reducible first | apply kept_ite | apply kept_verifyPass | apply kept_rdyPut | (with_reducible apply kept_mk; first | with_reducible assumption | with_reducible first | apply kept_verifyPass | apply kept_rdyPut) | split

theorem kept_execReleaseForce {source unit : Nat} {s : State} (h_s : Kept Q s) : KeptO Q (execReleaseForce source unit s) := by
  unfold execReleaseForce; repeat' first | with_reducible assumption | (extract_lets -underBinder +onlyGivenNames x; refine kept_cut (Q := Q) (x := x) ?_ ?_; subst x; rotate_left; intro hx; clear_value x) | extract_lets -underBinder +onlyGivenNames x | with_reducible first | apply kept_ite | apply kept_iteO | apply kept_next | apply kept_powered | apply kept_rdyResult | apply kept_report | apply kept_relock | apply kept_rdyPut | apply kept_beginRecovery | (with_reducible apply kept_mk; first | with_reducible assumption | with_reducible first | apply kept_rdyResult | apply kept_report | apply kept_relock | apply kept_rdyPut | apply kept_beginRecovery) | split

theorem kept_execConfirm {source unit : Nat} {s : State} (h_s : Kept Q s) : KeptO Q (execConfirm source unit s) := by
  unfold execConfirm; repeat' first | with_reducible assumption | (extract_lets -underBinder +onlyGivenNames x; refine kept_cut (Q := Q) (x := x) ?_ ?_; subst x; rotate_left; intro hx; clear_value x) | extract_lets -underBinder +onlyGivenNames x | with_reducible first | apply kept_ite | apply kept_iteO | apply kept_next | apply kept_powered | apply kept_rdyResult | apply kept_rdyPut | (with_reducible apply kept_mk; first | with_reducible assumption | with_reducible first | apply kept_rdyResult | apply kept_rdyPut) | split

theorem kept_releasedRecover {s : State} (h_s : Kept Q s) : Kept Q (releasedRecover s) := by
  unfold releasedRecover; repeat' first | with_reducible assumption | (intro y; beta_reduce) | with_reducible first | apply kept_foldl | apply kept_setRecovered

theorem kept_greyExit {s : State} (h_s : Kept Q s) : Kept Q (greyExit s) := by
  unfold greyExit; repeat' first | with_reducible assumption | (intro y; beta_reduce) | (extract_lets -underBinder +onlyGivenNames x; refine kept_cut (Q := Q) (x := x) ?_ ?_; subst x; rotate_left; intro hx; clear_value x) | extract_lets -underBinder +onlyGivenNames x | with_reducible first | apply kept_ite | apply kept_foldl | apply kept_rdyEvent | apply kept_portReady | apply kept_setUnit | apply kept_rdyPut | apply kept_corePut | apply kept_report | (with_reducible apply kept_mk; first | with_reducible assumption | with_reducible first | apply kept_rdyEvent | apply kept_portReady | apply kept_setUnit | apply kept_rdyPut | apply kept_corePut | apply kept_report) | split

theorem kept_finalRecords {s : State} (h_s : Kept Q s) : Kept Q (finalRecords s) := by
  unfold finalRecords; repeat' first | with_reducible assumption | (intro y; beta_reduce) | (extract_lets -underBinder +onlyGivenNames x; refine kept_cut (Q := Q) (x := x) ?_ ?_; subst x; rotate_left; intro hx; clear_value x) | extract_lets -underBinder +onlyGivenNames x | with_reducible first | apply kept_ite | apply kept_foldl | exact kept_mk (by with_reducible assumption) | split

theorem kept_vetoGrey {s : State} {i : List Byte} (h_s : Kept Q s) : Kept Q (vetoGrey s i) := by
  unfold vetoGrey; repeat' first | with_reducible assumption | (intro y; beta_reduce) | (extract_lets -underBinder +onlyGivenNames x; refine kept_cut (Q := Q) (x := x) ?_ ?_; subst x; rotate_left; intro hx; clear_value x) | extract_lets -underBinder +onlyGivenNames x | with_reducible first | apply kept_ite | apply kept_report | apply kept_viewGrey | apply kept_tablePut | apply kept_layerPut | apply kept_greyUnit | (with_reducible apply kept_mk; first | with_reducible assumption | with_reducible first | apply kept_report | apply kept_viewGrey | apply kept_tablePut | apply kept_layerPut | apply kept_greyUnit) | split

theorem kept_vetoRecover {s : State} (h_s : Kept Q s) : Kept Q (vetoRecover s) := by
  unfold vetoRecover; repeat' first | with_reducible assumption | (intro y; beta_reduce) | with_reducible first | apply kept_foldl | apply kept_setRecovered

end Sys2Proof.Machine
end

