-- ==== Sys2Proof/Laws/KeptCommit.lean ====
section
/-! SUPPORT. What the operations of Commit keep (`Kept`). -/

namespace Sys2Proof.Machine

set_option linter.all false

variable {Q : Aim}

theorem kept_commitCut {s : State} (h_s : Kept Q s) : Kept Q (commitCut s) := by
  unfold commitCut; repeat' first | with_reducible assumption | (intro y; beta_reduce) | with_reducible first | apply kept_mgmtMap | apply kept_event | apply kept_bump1 | (with_reducible apply kept_mk; first | with_reducible assumption | with_reducible first | apply kept_mgmtMap | apply kept_event | apply kept_bump1)

theorem kept_commitEntry {s : State} {id : Nat} {e : StageEntry} (h_s : Kept Q s) : Kept Q (commitEntry s id e) := by
  unfold commitEntry; repeat' first | with_reducible assumption | (intro y; beta_reduce) | (extract_lets -underBinder +onlyGivenNames x; refine kept_cut (Q := Q) (x := x) ?_ ?_; subst x; rotate_left; intro hx; clear_value x) | extract_lets -underBinder +onlyGivenNames x | with_reducible first | apply kept_ite | apply kept_foldl | apply kept_tablePut | apply kept_countRowWrite | apply kept_commitWrite | apply kept_bump1 | apply kept_setMark | apply kept_mgmtMap | (with_reducible apply kept_mk; first | with_reducible assumption | with_reducible first | apply kept_tablePut | apply kept_countRowWrite | apply kept_commitWrite | apply kept_bump1 | apply kept_setMark | apply kept_mgmtMap) | split | assumption

theorem kept_commitRows {id n reach : Nat} {s : State} (h_s : Kept Q s) : KeptU Q (commitRows id n reach s) := by
  induction n generalizing s reach with
  | zero => exact ⟨h_s⟩
  | succ n ih =>
    unfold commitRows
    split
    · exact ⟨h_s⟩
    · split
      · exact ⟨kept_commitCut h_s⟩
      · split
        · exact ⟨h_s⟩
        · exact ih (kept_commitEntry h_s)


theorem kept_commitItem {s : State} {reach : Nat} {k : Nat × List Byte} (h_s : Kept Q s) : KeptT Q (commitItem s reach k) := by
  unfold commitItem; repeat' first | with_reducible assumption | (intro y; beta_reduce) | (extract_lets -underBinder +onlyGivenNames x; refine kept_cut (Q := Q) (x := x) ?_ ?_; subst x; rotate_left; intro hx; clear_value x) | extract_lets -underBinder +onlyGivenNames x | with_reducible first | apply kept_ite | apply kept_skipItem | apply kept_commitRows | apply kept_commitCut | apply kept_commitEntry | split | with_reducible apply kept_triple | refine kept_ofU ?_ (by assumption) | (apply kept_fth; with_reducible first | apply kept_commitRows) | assumption

theorem kept_commitStage {reach : Nat} {l : List (Nat × List Byte)} {s : State} (h_s : Kept Q s) : KeptL Q (commitStage reach l s) := by
  induction l generalizing s reach with
  | nil => exact ⟨h_s⟩
  | cons k r ih =>
    unfold commitStage
    split
    rename_i e
    have ht := kept_ofT (kept_commitItem h_s) e
    split
    rename_i e
    exact ⟨kept_ofL (ih ht) e⟩


theorem kept_reserveTable {s : State} {id : Nat} {t : Table} (h_s : Kept Q s) : KeptOR Q (reserveTable s id t) := by
  unfold reserveTable
  exact kept_optMap fun _ _ => ⟨kept_mk h_s⟩


theorem kept_releaseTable {s : State} {id : Nat} (h_s : Kept Q s) : Kept Q (releaseTable s id) := by
  unfold releaseTable; repeat' first | with_reducible assumption | (intro y; beta_reduce) | exact kept_mk (by with_reducible assumption) | assumption

theorem kept_rangeTake {s : State} {key lo hi n : Nat} (h_s : Kept Q s) : KeptOR Q (rangeTake s key lo hi n) := by
  unfold rangeTake
  exact kept_iteOR (kept_somePair h_s) (kept_optMap fun _ _ => kept_pair (kept_updMap h_s rfl))


theorem kept_layerTake {s : State} {key n : Nat} (h_s : Kept Q s) : KeptOR Q (layerTake s key n) := by
  unfold layerTake; repeat' first | with_reducible assumption | with_reducible first | apply kept_somePair | apply kept_nonePair | apply kept_rangeTake | refine kept_ofOR ?_ (by assumption)

theorem kept_dropTableDir {s : State} {id : Nat} (h_s : Kept Q s) : Kept Q (dropTableDir s id) := by
  unfold dropTableDir; repeat' first | with_reducible assumption | (intro y; beta_reduce) | (extract_lets -underBinder +onlyGivenNames x; refine kept_cut (Q := Q) (x := x) ?_ ?_; subst x; rotate_left; intro hx; clear_value x) | extract_lets -underBinder +onlyGivenNames x | with_reducible first | apply kept_ite | apply kept_foldl | apply kept_poolFree | apply kept_dirMap | apply kept_plcMap | (with_reducible apply kept_mk; first | with_reducible assumption | with_reducible first | apply kept_poolFree | apply kept_dirMap | apply kept_plcMap) | split | assumption

theorem kept_discard {s : State} {n : Nat} (h_s : Kept Q s) : Kept Q (discard s n) := by
  unfold discard; repeat' first | with_reducible assumption | (intro y; beta_reduce) | with_reducible first | apply kept_ite | apply kept_mgmtMap | apply kept_event | apply kept_bump | (with_reducible apply kept_mk; first | with_reducible assumption | with_reducible first | apply kept_mgmtMap | apply kept_event | apply kept_bump) | split

theorem kept_settleFifo {s : State} {id ver : Nat} (h_s : Kept Q s) : Kept Q (settleFifo s id ver) := by
  unfold settleFifo; repeat' first | with_reducible assumption | (intro y; beta_reduce) | (extract_lets -underBinder +onlyGivenNames x; refine kept_cut (Q := Q) (x := x) ?_ ?_; subst x; rotate_left; intro hx; clear_value x) | extract_lets -underBinder +onlyGivenNames x | with_reducible first | apply kept_ite | apply kept_foldl | apply kept_bump | apply kept_tablePut | apply kept_updMap | apply kept_putMasterRow | apply kept_discard | (with_reducible apply kept_mk; first | with_reducible assumption | with_reducible first | apply kept_bump | apply kept_tablePut | apply kept_updMap | apply kept_putMasterRow | apply kept_discard) | split | with_reducible rfl | assumption

theorem kept_clearMarks {s : State} {id : Nat} (h_s : Kept Q s) : Kept Q (clearMarks s id) := by
  unfold clearMarks; repeat' first | with_reducible assumption | (intro y; beta_reduce) | exact kept_mk (by with_reducible assumption) | assumption

theorem kept_switchTable {s : State} {id ver : Nat} (h_s : Kept Q s) : Kept Q (switchTable s id ver) := by
  unfold switchTable; repeat' first | with_reducible assumption | (extract_lets -underBinder +onlyGivenNames x; refine kept_cut (Q := Q) (x := x) ?_ ?_; subst x; rotate_left; intro hx; clear_value x) | extract_lets -underBinder +onlyGivenNames x | with_reducible first | apply kept_ite | apply kept_viewRecovered | apply kept_clearMarks | apply kept_dropTableDir | apply kept_settleFifo | apply kept_tablePut | (with_reducible apply kept_mk; first | with_reducible assumption | with_reducible first | apply kept_viewRecovered | apply kept_clearMarks | apply kept_dropTableDir | apply kept_settleFifo | apply kept_tablePut) | split | assumption

theorem kept_retireTable {s : State} {id : Nat} (h_s : Kept Q s) : Kept Q (retireTable s id) := by
  unfold retireTable; repeat' first | with_reducible assumption | (intro y; beta_reduce) | (extract_lets -underBinder +onlyGivenNames x; refine kept_cut (Q := Q) (x := x) ?_ ?_; subst x; rotate_left; intro hx; clear_value x) | extract_lets -underBinder +onlyGivenNames x | with_reducible first | apply kept_foldl | apply kept_discard | apply kept_releaseTable | apply kept_clearMarks | apply kept_dropTableDir | apply kept_rangeFree | apply kept_updMap | apply kept_tablePut | (with_reducible apply kept_mk; first | with_reducible assumption | with_reducible first | apply kept_discard | apply kept_releaseTable | apply kept_clearMarks | apply kept_dropTableDir | apply kept_rangeFree | apply kept_updMap | apply kept_tablePut) | with_reducible rfl | assumption

theorem kept_placeTable {s : State} {id : Nat} {t : Table} {o : Nat} (h_s : Kept Q s) : Kept Q (placeTable s id t o) := by
  unfold placeTable; repeat' first | with_reducible assumption | with_reducible first | apply kept_tablePut | (with_reducible apply kept_mk; first | with_reducible assumption | with_reducible first | apply kept_tablePut) | assumption

theorem kept_reserveNew {s : State} {id : Nat} {t : Table} (h_s : Kept Q s) : Kept Q (reserveNew s id t) := by
  unfold reserveNew; repeat' first | with_reducible assumption | with_reducible first | apply kept_reserveTable | apply kept_placeTable | split | refine kept_ofOR ?_ (by assumption) | assumption

theorem kept_registerTable {s : State} {id shape : Nat} (h_s : Kept Q s) : Kept Q (registerTable s id shape) := by
  unfold registerTable; repeat' first | with_reducible assumption | (intro y; beta_reduce) | (extract_lets -underBinder +onlyGivenNames x; refine kept_cut (Q := Q) (x := x) ?_ ?_; subst x; rotate_left; intro hx; clear_value x) | extract_lets -underBinder +onlyGivenNames x | with_reducible first | apply kept_ite | apply kept_placeTable | apply kept_reserveNew | (with_reducible apply kept_mk; first | with_reducible assumption | with_reducible first | apply kept_placeTable | apply kept_reserveNew) | split | assumption

theorem kept_tableVersion {s : State} {i : List Byte} (h_s : Kept Q s) : Kept Q (tableVersion s i) := by
  unfold tableVersion; repeat' first | with_reducible assumption | (extract_lets -underBinder +onlyGivenNames x; refine kept_cut (Q := Q) (x := x) ?_ ?_; subst x; rotate_left; intro hx; clear_value x) | extract_lets -underBinder +onlyGivenNames x | with_reducible first | apply kept_ite | apply kept_event | apply kept_switchTable | apply kept_retireTable | apply kept_registerTable | apply kept_tablePut | (with_reducible apply kept_mk; first | with_reducible assumption | with_reducible first | apply kept_event | apply kept_switchTable | apply kept_retireTable | apply kept_registerTable | apply kept_tablePut) | split | assumption

theorem kept_versionItem {s : State} {k : Nat × List Byte} (h_s : Kept Q s) : Kept Q (versionItem s k) := by
  unfold versionItem; repeat' first | with_reducible assumption | with_reducible first | apply kept_ite | apply kept_skipItem | apply kept_tableVersion | apply kept_layerVersion | split

theorem kept_markSwitching {s : State} {i : List Byte} {on : Bool} (h_s : Kept Q s) : Kept Q (markSwitching s i on) := by
  unfold markSwitching; repeat' first | with_reducible assumption | (extract_lets -underBinder +onlyGivenNames x; refine kept_cut (Q := Q) (x := x) ?_ ?_; subst x; rotate_left; intro hx; clear_value x) | extract_lets -underBinder +onlyGivenNames x | with_reducible first | apply kept_ite | apply kept_tablePut | apply kept_layerPut | (with_reducible apply kept_mk; first | with_reducible assumption | with_reducible first | apply kept_tablePut | apply kept_layerPut) | split | assumption

theorem kept_viewExit {s : State} (h_s : Kept Q s) : Kept Q (viewExit s) := by
  unfold viewExit; repeat' first | with_reducible assumption | (intro y; beta_reduce) | (extract_lets -underBinder +onlyGivenNames x; refine kept_cut (Q := Q) (x := x) ?_ ?_; subst x; rotate_left; intro hx; clear_value x) | extract_lets -underBinder +onlyGivenNames x | with_reducible first | apply kept_ite | apply kept_foldl | apply kept_report | apply kept_tablePut | apply kept_layerPut | (with_reducible apply kept_mk; first | with_reducible assumption | with_reducible first | apply kept_report | apply kept_tablePut | apply kept_layerPut) | split

theorem kept_ruleSwitch {s : State} (h_s : Kept Q s) : Kept Q (ruleSwitch s) := by
  unfold ruleSwitch; repeat' first | with_reducible assumption | (intro y; beta_reduce) | (extract_lets -underBinder +onlyGivenNames x; refine kept_cut (Q := Q) (x := x) ?_ ?_; subst x; rotate_left; intro hx; clear_value x) | extract_lets -underBinder +onlyGivenNames x | with_reducible first | apply kept_ite | apply kept_foldl | apply kept_rangeFree | apply kept_updMap | apply kept_tblRulePut | (with_reducible apply kept_mk; first | with_reducible assumption | with_reducible first | apply kept_rangeFree | apply kept_updMap | apply kept_tblRulePut) | split | with_reducible rfl

theorem kept_installRoutes {s : State} {a : Nat} (h_s : Kept Q s) : Kept Q (installRoutes s a) := by
  unfold installRoutes; repeat' first | with_reducible assumption | (intro y; beta_reduce) | with_reducible first | apply kept_foldl | exact kept_mk (by with_reducible assumption)

theorem kept_installGrants {s : State} {n : Nat} {k : Nat × List Byte} (h_s : Kept Q s) : Kept Q (installGrants s n k) := by
  unfold installGrants; repeat' first | with_reducible assumption | (intro y; beta_reduce) | (extract_lets -underBinder +onlyGivenNames x; refine kept_cut (Q := Q) (x := x) ?_ ?_; subst x; rotate_left; intro hx; clear_value x) | extract_lets -underBinder +onlyGivenNames x | with_reducible first | apply kept_ite | apply kept_skipItem | apply kept_installRoutes | apply kept_event | apply kept_bump | apply kept_rset | (with_reducible apply kept_mk; first | with_reducible assumption | with_reducible first | apply kept_skipItem | apply kept_installRoutes | apply kept_event | apply kept_bump | apply kept_rset) | split

end Sys2Proof.Machine
end

