-- ==== Sys2Proof/Laws/KeptHostIf.lean ====
section
/-! SUPPORT. What the operations of HostIf keep (`Kept`). -/

namespace Sys2Proof.Machine

set_option linter.all false

variable {Q : Aim}

theorem kept_execRqTail {queue value : Nat} {s : State} (h_s : Kept Q s) : KeptO Q (execRqTail queue value s) := by
  unfold execRqTail; repeat' first | with_reducible assumption | with_reducible first | apply kept_ite | apply kept_iteO | apply kept_next | apply kept_powered | apply kept_event | apply kept_queuePut | (with_reducible apply kept_mk; first | with_reducible assumption | with_reducible first | apply kept_event | apply kept_queuePut) | split

theorem kept_execCqHead {queue value : Nat} {s : State} (h_s : Kept Q s) : KeptO Q (execCqHead queue value s) := by
  unfold execCqHead; repeat' first | with_reducible assumption | with_reducible first | apply kept_ite | apply kept_iteO | apply kept_next | apply kept_powered | apply kept_queuePut | (with_reducible apply kept_mk; first | with_reducible assumption | with_reducible first | apply kept_queuePut) | split

theorem kept_execEnable {queue : Nat} {s : State} (h_s : Kept Q s) : KeptO Q (execEnable queue s) := by
  unfold execEnable; repeat' first | with_reducible assumption | (extract_lets -underBinder +onlyGivenNames x; refine kept_cut (Q := Q) (x := x) ?_ ?_; subst x; rotate_left; intro hx; clear_value x) | extract_lets -underBinder +onlyGivenNames x | with_reducible first | apply kept_ite | apply kept_iteO | apply kept_next | apply kept_powered | apply kept_queuePut | (with_reducible apply kept_mk; first | with_reducible assumption | with_reducible first | apply kept_queuePut) | split

theorem kept_execDisable {queue : Nat} {s : State} (h_s : Kept Q s) : KeptO Q (execDisable queue s) := by
  unfold execDisable; repeat' first | with_reducible assumption | (extract_lets -underBinder +onlyGivenNames x; refine kept_cut (Q := Q) (x := x) ?_ ?_; subst x; rotate_left; intro hx; clear_value x) | extract_lets -underBinder +onlyGivenNames x | with_reducible first | apply kept_ite | apply kept_iteO | apply kept_next | apply kept_queuePut | (with_reducible apply kept_mk; first | with_reducible assumption | with_reducible first | apply kept_queuePut) | split

theorem kept_execResume {queue : Nat} {s : State} (h_s : Kept Q s) : KeptO Q (execResume queue s) := by
  unfold execResume; repeat' first | with_reducible assumption | (extract_lets -underBinder +onlyGivenNames x; refine kept_cut (Q := Q) (x := x) ?_ ?_; subst x; rotate_left; intro hx; clear_value x) | extract_lets -underBinder +onlyGivenNames x | with_reducible first | apply kept_ite | apply kept_iteO | apply kept_next | apply kept_queuePut | (with_reducible apply kept_mk; first | with_reducible assumption | with_reducible first | apply kept_queuePut) | split

theorem kept_execCoalesceTimer {queue : Nat} {s : State} (h_s : Kept Q s) : KeptO Q (execCoalesceTimer queue s) := by
  unfold execCoalesceTimer; repeat' first | with_reducible assumption | (extract_lets -underBinder +onlyGivenNames x; refine kept_cut (Q := Q) (x := x) ?_ ?_; subst x; rotate_left; intro hx; clear_value x) | extract_lets -underBinder +onlyGivenNames x | with_reducible first | apply kept_ite | apply kept_iteO | apply kept_next | apply kept_signalQueue | apply kept_advance | split

theorem kept_fetchEntry {s : State} {q : Nat} {entry : List Byte} {rec res : Option Nat} {len : Nat} (h_s : Kept Q s) : Kept Q (fetchEntry s q entry rec res len) := by
  unfold fetchEntry; repeat' first | with_reducible assumption | (intro y; beta_reduce) | (extract_lets -underBinder +onlyGivenNames x; refine kept_cut (Q := Q) (x := x) ?_ ?_; subst x; rotate_left; intro hx; clear_value x) | extract_lets -underBinder +onlyGivenNames x | with_reducible first | apply kept_ite | apply kept_bump1 | apply kept_rset | apply kept_queuePut | apply kept_pciMap | apply kept_reqPut | apply kept_completeReq | (with_reducible apply kept_mk; first | with_reducible assumption | with_reducible first | apply kept_bump1 | apply kept_rset | apply kept_queuePut | apply kept_pciMap | apply kept_reqPut | apply kept_completeReq) | split | with_reducible rfl | assumption

theorem kept_execRequestFetch {queue : Nat} {s : State} (h_s : Kept Q s) : KeptO Q (execRequestFetch queue s) := by
  unfold execRequestFetch; repeat' first | with_reducible assumption | (intro y; beta_reduce) | (extract_lets -underBinder +onlyGivenNames x; refine kept_cut (Q := Q) (x := x) ?_ ?_; subst x; rotate_left; intro hx; clear_value x) | extract_lets -underBinder +onlyGivenNames x | with_reducible first | apply kept_ite | apply kept_iteO | apply kept_next | apply kept_fetchEntry | split

theorem kept_runOp {s : State} {id op : Nat} {good : Request → Bool} {f : Request → State} (h_s : Kept Q s) (h_f : ∀ x0, Kept Q (f x0)) : KeptO Q (runOp s id op good f) := by
  unfold runOp; repeat' first | with_reducible assumption | (intro y; beta_reduce) | with_reducible first | apply kept_ite | apply kept_iteO | apply kept_next | apply kept_completeReq | apply h_good | apply h_f | split | assumption

theorem kept_refuseReq {s : State} {id : Nat} {r : Request} (h_s : Kept Q s) : Kept Q (refuseReq s id r) := by
  unfold refuseReq; repeat' first | with_reducible assumption | with_reducible first | apply kept_completeReq | assumption

theorem kept_acceptReq {s : State} {id : Nat} {r : Request} (h_s : Kept Q s) : Kept Q (acceptReq s id r) := by
  unfold acceptReq; repeat' first | with_reducible assumption | with_reducible first | apply kept_completeReq | assumption

theorem kept_askGrant {s : State} {id : Nat} {r : Request} (h_s : Kept Q s) : Kept Q (askGrant s id r) := by
  unfold askGrant; repeat' first | with_reducible assumption | with_reducible first | apply kept_reqPut | (with_reducible apply kept_mk; first | with_reducible assumption | with_reducible first | apply kept_reqPut) | assumption

theorem kept_acceptRest {s : State} {id : Nat} {t : Table} (h_s : Kept Q s) : KeptOS Q (acceptRest s id t) := by
  unfold acceptRest
  extract_lets -underBinder n
  clear_value n
  split
  · exact kept_none
  · split
    · exact kept_none
    · exact kept_some (kept_planLater (kept_tablePut (kept_ofOR (kept_rangeTake h_s) (by assumption))))


theorem kept_acceptTable {s : State} {id : Nat} {t : Table} (h_s : Kept Q s) : KeptOS Q (acceptTable s id t) := by
  unfold acceptTable
  split
  · exact kept_none
  · exact kept_acceptRest (kept_ofOR (kept_reserveTable h_s) (by assumption))


theorem kept_execTblRegister {req : Nat} {s : State} (h_s : Kept Q s) : KeptO Q (execTblRegister req s) := by
  unfold execTblRegister; repeat' first | with_reducible assumption | (intro y; beta_reduce) | (extract_lets -underBinder +onlyGivenNames x; refine kept_cut (Q := Q) (x := x) ?_ ?_; subst x; rotate_left; intro hx; clear_value x) | extract_lets -underBinder +onlyGivenNames x | with_reducible first | apply kept_ite | apply kept_iteO | apply kept_next | apply kept_runOp | apply kept_refuseReq | apply kept_acceptTable | apply kept_acceptReq | split | refine kept_ofOS ?_ (by assumption) | assumption

theorem kept_execTblOpen {req : Nat} {s : State} (h_s : Kept Q s) : KeptO Q (execTblOpen req s) := by
  unfold execTblOpen; repeat' first | with_reducible assumption | (intro y; beta_reduce) | (extract_lets -underBinder +onlyGivenNames x; refine kept_cut (Q := Q) (x := x) ?_ ?_; subst x; rotate_left; intro hx; clear_value x) | extract_lets -underBinder +onlyGivenNames x | with_reducible first | apply kept_ite | apply kept_iteO | apply kept_next | apply kept_runOp | apply kept_refuseReq | apply kept_reqPut | apply kept_tablePut | (with_reducible apply kept_mk; first | with_reducible assumption | with_reducible first | apply kept_refuseReq | apply kept_reqPut | apply kept_tablePut) | split | assumption

theorem kept_execTblOpenDone {req : Nat} {s : State} (h_s : Kept Q s) : KeptO Q (execTblOpenDone req s) := by
  unfold execTblOpenDone; repeat' first | with_reducible assumption | (extract_lets -underBinder +onlyGivenNames x; refine kept_cut (Q := Q) (x := x) ?_ ?_; subst x; rotate_left; intro hx; clear_value x) | extract_lets -underBinder +onlyGivenNames x | with_reducible first | apply kept_ite | apply kept_iteO | apply kept_next | apply kept_fillSlot | apply kept_tablePut | apply kept_askGrant | (with_reducible apply kept_mk; first | with_reducible assumption | with_reducible first | apply kept_fillSlot | apply kept_tablePut | apply kept_askGrant) | split

theorem kept_execTblWrite {req : Nat} {s : State} (h_s : Kept Q s) : KeptO Q (execTblWrite req s) := by
  unfold execTblWrite; repeat' first | with_reducible assumption | (intro y; beta_reduce) | (extract_lets -underBinder +onlyGivenNames x; refine kept_cut (Q := Q) (x := x) ?_ ?_; subst x; rotate_left; intro hx; clear_value x) | extract_lets -underBinder +onlyGivenNames x | with_reducible first | apply kept_ite | apply kept_iteO | apply kept_next | apply kept_runOp | apply kept_refuseReq | apply kept_reqPut | (with_reducible apply kept_mk; first | with_reducible assumption | with_reducible first | apply kept_refuseReq | apply kept_reqPut) | split | assumption

theorem kept_execTblWriteDone {req : Nat} {s : State} (h_s : Kept Q s) : KeptO Q (execTblWriteDone req s) := by
  unfold execTblWriteDone; repeat' first | with_reducible assumption | (intro y; beta_reduce) | with_reducible first | apply kept_ite | apply kept_iteO | apply kept_next | apply kept_foldl | apply kept_askGrant | apply kept_memWrite | split

theorem kept_execTblSeal {req : Nat} {s : State} (h_s : Kept Q s) : KeptO Q (execTblSeal req s) := by
  unfold execTblSeal; repeat' first | with_reducible assumption | (intro y; beta_reduce) | (extract_lets -underBinder +onlyGivenNames x; refine kept_cut (Q := Q) (x := x) ?_ ?_; subst x; rotate_left; intro hx; clear_value x) | extract_lets -underBinder +onlyGivenNames x | with_reducible first | apply kept_ite | apply kept_iteO | apply kept_next | apply kept_runOp | apply kept_refuseReq | apply kept_tablePut | apply kept_acceptReq | apply kept_planLater | (with_reducible apply kept_mk; first | with_reducible assumption | with_reducible first | apply kept_refuseReq | apply kept_tablePut | apply kept_acceptReq | apply kept_planLater) | split | assumption

theorem kept_unplan {s : State} {id action : Nat} (h_s : Kept Q s) : Kept Q (unplan s id action) := by
  unfold unplan; repeat' first | with_reducible assumption | (intro y; beta_reduce) | exact kept_mk (by with_reducible assumption) | assumption

theorem kept_execTblAbandon {req : Nat} {s : State} (h_s : Kept Q s) : KeptO Q (execTblAbandon req s) := by
  unfold execTblAbandon; repeat' first | with_reducible assumption | (intro y; beta_reduce) | (extract_lets -underBinder +onlyGivenNames x; refine kept_cut (Q := Q) (x := x) ?_ ?_; subst x; rotate_left; intro hx; clear_value x) | extract_lets -underBinder +onlyGivenNames x | with_reducible first | apply kept_ite | apply kept_iteO | apply kept_next | apply kept_runOp | apply kept_refuseReq | apply kept_acceptReq | apply kept_unplan | apply kept_tablePut | (with_reducible apply kept_mk; first | with_reducible assumption | with_reducible first | apply kept_refuseReq | apply kept_acceptReq | apply kept_unplan | apply kept_tablePut) | split | assumption

theorem kept_execTblRetire {req : Nat} {s : State} (h_s : Kept Q s) : KeptO Q (execTblRetire req s) := by
  unfold execTblRetire; repeat' first | with_reducible assumption | (intro y; beta_reduce) | (extract_lets -underBinder +onlyGivenNames x; refine kept_cut (Q := Q) (x := x) ?_ ?_; subst x; rotate_left; intro hx; clear_value x) | extract_lets -underBinder +onlyGivenNames x | with_reducible first | apply kept_ite | apply kept_iteO | apply kept_next | apply kept_runOp | apply kept_refuseReq | apply kept_tablePut | apply kept_acceptReq | apply kept_planLater | (with_reducible apply kept_mk; first | with_reducible assumption | with_reducible first | apply kept_refuseReq | apply kept_tablePut | apply kept_acceptReq | apply kept_planLater) | split | assumption

theorem kept_execTblFreeze {req : Nat} {s : State} (h_s : Kept Q s) : KeptO Q (execTblFreeze req s) := by
  unfold execTblFreeze; repeat' first | with_reducible assumption | (intro y; beta_reduce) | (extract_lets -underBinder +onlyGivenNames x; refine kept_cut (Q := Q) (x := x) ?_ ?_; subst x; rotate_left; intro hx; clear_value x) | extract_lets -underBinder +onlyGivenNames x | with_reducible first | apply kept_ite | apply kept_iteO | apply kept_next | apply kept_runOp | apply kept_refuseReq | apply kept_acceptReq | apply kept_planLater | split | assumption

theorem kept_stageReload {s : State} {id : Nat} {rows : List (Nat × List Byte)} {again : Bool} (h_s : Kept Q s) : Kept Q (stageReload s id rows again) := by
  unfold stageReload; repeat' first | with_reducible assumption | (intro y; beta_reduce) | with_reducible first | apply kept_ite | apply kept_foldl | apply kept_stageRestore | split | assumption

theorem kept_execTblReload {req : Nat} {s : State} (h_s : Kept Q s) : KeptO Q (execTblReload req s) := by
  unfold execTblReload; repeat' first | with_reducible assumption | (intro y; beta_reduce) | (extract_lets -underBinder +onlyGivenNames x; refine kept_cut (Q := Q) (x := x) ?_ ?_; subst x; rotate_left; intro hx; clear_value x) | extract_lets -underBinder +onlyGivenNames x | with_reducible first | apply kept_ite | apply kept_iteO | apply kept_next | apply kept_runOp | apply kept_refuseReq | apply kept_updMap | apply kept_reqPut | apply kept_stageReload | (with_reducible apply kept_mk; first | with_reducible assumption | with_reducible first | apply kept_refuseReq | apply kept_updMap | apply kept_reqPut | apply kept_stageReload) | split | with_reducible rfl | assumption

theorem kept_reloadsOn {s : State} (h_s : Kept Q s) : Kept Q (reloadsOn s) := by
  unfold reloadsOn; repeat' first | with_reducible assumption | (intro y; beta_reduce) | (extract_lets -underBinder +onlyGivenNames x; refine kept_cut (Q := Q) (x := x) ?_ ?_; subst x; rotate_left; intro hx; clear_value x) | extract_lets -underBinder +onlyGivenNames x | with_reducible first | apply kept_ite | apply kept_foldl | apply kept_askGrant | apply kept_reqPut | apply kept_stageReload | (with_reducible apply kept_mk; first | with_reducible assumption | with_reducible first | apply kept_askGrant | apply kept_reqPut | apply kept_stageReload) | split | assumption

theorem kept_execPlcPin {req : Nat} {s : State} (h_s : Kept Q s) : KeptO Q (execPlcPin req s) := by
  unfold execPlcPin; repeat' first | with_reducible assumption | (intro y; beta_reduce) | (extract_lets -underBinder +onlyGivenNames x; refine kept_cut (Q := Q) (x := x) ?_ ?_; subst x; rotate_left; intro hx; clear_value x) | extract_lets -underBinder +onlyGivenNames x | with_reducible first | apply kept_ite | apply kept_iteO | apply kept_next | apply kept_runOp | apply kept_refuseReq | apply kept_acceptReq | apply kept_plcMap | (with_reducible apply kept_mk; first | with_reducible assumption | with_reducible first | apply kept_refuseReq | apply kept_acceptReq | apply kept_plcMap) | split | assumption

theorem kept_execPlcUnpin {req : Nat} {s : State} (h_s : Kept Q s) : KeptO Q (execPlcUnpin req s) := by
  unfold execPlcUnpin; repeat' first | with_reducible assumption | (intro y; beta_reduce) | (extract_lets -underBinder +onlyGivenNames x; refine kept_cut (Q := Q) (x := x) ?_ ?_; subst x; rotate_left; intro hx; clear_value x) | extract_lets -underBinder +onlyGivenNames x | with_reducible first | apply kept_ite | apply kept_iteO | apply kept_next | apply kept_runOp | apply kept_refuseReq | apply kept_acceptReq | apply kept_plcMap | (with_reducible apply kept_mk; first | with_reducible assumption | with_reducible first | apply kept_refuseReq | apply kept_acceptReq | apply kept_plcMap) | split | assumption

theorem kept_execPlcHubAdd {req : Nat} {s : State} (h_s : Kept Q s) : KeptO Q (execPlcHubAdd req s) := by
  unfold execPlcHubAdd; repeat' first | with_reducible assumption | (intro y; beta_reduce) | with_reducible first | apply kept_ite | apply kept_iteO | apply kept_next | apply kept_runOp | apply kept_refuseReq | apply kept_acceptReq | apply kept_plcMap | (with_reducible apply kept_mk; first | with_reducible assumption | with_reducible first | apply kept_refuseReq | apply kept_acceptReq | apply kept_plcMap) | split

theorem kept_execPlcHubDrop {req : Nat} {s : State} (h_s : Kept Q s) : KeptO Q (execPlcHubDrop req s) := by
  unfold execPlcHubDrop; repeat' first | with_reducible assumption | (intro y; beta_reduce) | with_reducible first | apply kept_ite | apply kept_iteO | apply kept_next | apply kept_runOp | apply kept_refuseReq | apply kept_acceptReq | apply kept_planHome | apply kept_plcMap | (with_reducible apply kept_mk; first | with_reducible assumption | with_reducible first | apply kept_refuseReq | apply kept_acceptReq | apply kept_planHome | apply kept_plcMap) | split

theorem kept_rangeHigh {s : State} {key n : Nat} (h_s : Kept Q s) : KeptOR Q (rangeHigh s key n) := by
  unfold rangeHigh
  extract_lets -underBinder m hi taken ok
  clear_value ok hi taken m
  exact kept_optMap fun _ _ => kept_pair (kept_updMap h_s rfl)


theorem kept_execLyrRegister {req : Nat} {s : State} (h_s : Kept Q s) : KeptO Q (execLyrRegister req s) := by
  unfold execLyrRegister; repeat' first | with_reducible assumption | (intro y; beta_reduce) | (extract_lets -underBinder +onlyGivenNames x; refine kept_cut (Q := Q) (x := x) ?_ ?_; subst x; rotate_left; intro hx; clear_value x) | extract_lets -underBinder +onlyGivenNames x | with_reducible first | apply kept_ite | apply kept_iteO | apply kept_next | apply kept_runOp | apply kept_refuseReq | apply kept_layerTake | apply kept_rangeHigh | apply kept_rangeFree | apply kept_acceptReq | apply kept_planLater | apply kept_layerPut | (with_reducible apply kept_mk; first | with_reducible assumption | refine kept_ofOR ?_ (by assumption) | with_reducible first | apply kept_refuseReq | apply kept_rangeFree | apply kept_acceptReq | apply kept_planLater | apply kept_layerPut) | split | refine kept_ofOR ?_ (by assumption) | assumption

theorem kept_execLyrLoad {req : Nat} {s : State} (h_s : Kept Q s) : KeptO Q (execLyrLoad req s) := by
  unfold execLyrLoad; repeat' first | with_reducible assumption | (intro y; beta_reduce) | (extract_lets -underBinder +onlyGivenNames x; refine kept_cut (Q := Q) (x := x) ?_ ?_; subst x; rotate_left; intro hx; clear_value x) | extract_lets -underBinder +onlyGivenNames x | with_reducible first | apply kept_ite | apply kept_iteO | apply kept_next | apply kept_runOp | apply kept_refuseReq | apply kept_askGrant | apply kept_reqPut | (with_reducible apply kept_mk; first | with_reducible assumption | with_reducible first | apply kept_refuseReq | apply kept_askGrant | apply kept_reqPut) | split

theorem kept_execLyrLoadDone {req : Nat} {s : State} (h_s : Kept Q s) : KeptO Q (execLyrLoadDone req s) := by
  unfold execLyrLoadDone; repeat' first | with_reducible assumption | (intro y; beta_reduce) | (extract_lets -underBinder +onlyGivenNames x; refine kept_cut (Q := Q) (x := x) ?_ ?_; subst x; rotate_left; intro hx; clear_value x) | extract_lets -underBinder +onlyGivenNames x | with_reducible first | apply kept_ite | apply kept_iteO | apply kept_next | apply kept_askGrant | apply kept_layerPut | (with_reducible apply kept_mk; first | with_reducible assumption | with_reducible first | apply kept_askGrant | apply kept_layerPut) | split | assumption

theorem kept_execLyrFreeze {req : Nat} {s : State} (h_s : Kept Q s) : KeptO Q (execLyrFreeze req s) := by
  unfold execLyrFreeze; repeat' first | with_reducible assumption | (intro y; beta_reduce) | (extract_lets -underBinder +onlyGivenNames x; refine kept_cut (Q := Q) (x := x) ?_ ?_; subst x; rotate_left; intro hx; clear_value x) | extract_lets -underBinder +onlyGivenNames x | with_reducible first | apply kept_ite | apply kept_iteO | apply kept_next | apply kept_runOp | apply kept_refuseReq | apply kept_acceptReq | apply kept_planLater | split

theorem kept_execLyrRetire {req : Nat} {s : State} (h_s : Kept Q s) : KeptO Q (execLyrRetire req s) := by
  unfold execLyrRetire; repeat' first | with_reducible assumption | (intro y; beta_reduce) | (extract_lets -underBinder +onlyGivenNames x; refine kept_cut (Q := Q) (x := x) ?_ ?_; subst x; rotate_left; intro hx; clear_value x) | extract_lets -underBinder +onlyGivenNames x | with_reducible first | apply kept_ite | apply kept_iteO | apply kept_next | apply kept_runOp | apply kept_refuseReq | apply kept_acceptReq | apply kept_planLater | split

theorem kept_growLayer {s : State} {id : Nat} {l : Layer} {b : List Byte} (h_s : Kept Q s) : KeptOS Q (growLayer s id l b) := by
  constructor
  intro t e
  unfold growLayer at e
  simp only [Option.map_eq_some_iff] at e
  obtain ⟨⟨a, t'⟩, e1, e2⟩ := e
  cases e2
  exact kept_ofOR (kept_layerTake h_s) e1


theorem kept_execLyrParams {req : Nat} {s : State} (h_s : Kept Q s) : KeptO Q (execLyrParams req s) := by
  unfold execLyrParams; repeat' first | with_reducible assumption | (intro y; beta_reduce) | (extract_lets -underBinder +onlyGivenNames x; refine kept_cut (Q := Q) (x := x) ?_ ?_; subst x; rotate_left; intro hx; clear_value x) | extract_lets -underBinder +onlyGivenNames x | with_reducible first | apply kept_ite | apply kept_iteO | apply kept_next | apply kept_runOp | apply kept_refuseReq | apply kept_growLayer | apply kept_acceptReq | apply kept_layerPut | (with_reducible apply kept_mk; first | with_reducible assumption | refine kept_ofOS ?_ (by assumption) | with_reducible first | apply kept_refuseReq | apply kept_acceptReq | apply kept_layerPut) | split | refine kept_ofOS ?_ (by assumption)

theorem kept_execTblRule {req : Nat} {s : State} (h_s : Kept Q s) : KeptO Q (execTblRule req s) := by
  unfold execTblRule; repeat' first | with_reducible assumption | (intro y; beta_reduce) | (extract_lets -underBinder +onlyGivenNames x; refine kept_cut (Q := Q) (x := x) ?_ ?_; subst x; rotate_left; intro hx; clear_value x) | extract_lets -underBinder +onlyGivenNames x | with_reducible first | apply kept_ite | apply kept_iteO | apply kept_next | apply kept_runOp | apply kept_refuseReq | apply kept_rangeFree | apply kept_rangeHigh | apply kept_acceptReq | apply kept_tblRulePut | (with_reducible apply kept_mk; first | with_reducible assumption | refine kept_ofOR ?_ (by assumption) | with_reducible first | apply kept_refuseReq | apply kept_rangeFree | apply kept_acceptReq | apply kept_tblRulePut) | split | refine kept_ofOR ?_ (by assumption) | assumption

theorem kept_execPipeRegister {req : Nat} {s : State} (h_s : Kept Q s) : KeptO Q (execPipeRegister req s) := by
  unfold execPipeRegister; repeat' first | with_reducible assumption | (intro y; beta_reduce) | (extract_lets -underBinder +onlyGivenNames x; refine kept_cut (Q := Q) (x := x) ?_ ?_; subst x; rotate_left; intro hx; clear_value x) | extract_lets -underBinder +onlyGivenNames x | with_reducible first | apply kept_ite | apply kept_iteO | apply kept_next | apply kept_runOp | apply kept_pciMap | apply kept_refuseReq | apply kept_reqPut | (with_reducible apply kept_mk; first | with_reducible assumption | with_reducible first | apply kept_pciMap | apply kept_refuseReq | apply kept_reqPut) | split | with_reducible rfl | assumption

theorem kept_execPipeUnregister {req : Nat} {s : State} (h_s : Kept Q s) : KeptO Q (execPipeUnregister req s) := by
  unfold execPipeUnregister; repeat' first | with_reducible assumption | (intro y; beta_reduce) | with_reducible first | apply kept_ite | apply kept_iteO | apply kept_next | apply kept_runOp | apply kept_refuseReq | apply kept_reqPut | apply kept_pciMap | (with_reducible apply kept_mk; first | with_reducible assumption | with_reducible first | apply kept_refuseReq | apply kept_reqPut | apply kept_pciMap) | split | with_reducible rfl

theorem kept_pipelineSwitch {s : State} (h_s : Kept Q s) : Kept Q (pipelineSwitch s) := by
  unfold pipelineSwitch
  apply kept_foldl h_s
  intro s e hs
  beta_reduce
  have hd : ∀ s id, Kept Q s → Kept Q (match reqGet s id with
      | some r => askGrant s id r
      | none => s) := by
    intro s id h
    split
    · exact kept_askGrant h
    · exact h
  exact kept_ite (hd _ _ (kept_pciMap hs rfl)) (kept_ite (hd _ _ (kept_pciMap hs rfl)) hs)


theorem kept_execInstantiate {req : Nat} {s : State} (h_s : Kept Q s) : KeptO Q (execInstantiate req s) := by
  unfold execInstantiate; repeat' first | with_reducible assumption | (intro y; beta_reduce) | (extract_lets -underBinder +onlyGivenNames x; refine kept_cut (Q := Q) (x := x) ?_ ?_; subst x; rotate_left; intro hx; clear_value x) | extract_lets -underBinder +onlyGivenNames x | with_reducible first | apply kept_ite | apply kept_iteO | apply kept_next | apply kept_runOp | apply kept_refuseReq | apply kept_submit | apply kept_reqPut | (with_reducible apply kept_mk; first | with_reducible assumption | refine kept_ofR ?_ (by assumption) | with_reducible first | apply kept_refuseReq | apply kept_reqPut) | split | refine kept_ofR ?_ (by assumption) | (apply kept_snd; with_reducible first | apply kept_submit)

theorem kept_execFinalRecordArrival {req : Nat} {s : State} (h_s : Kept Q s) : KeptO Q (execFinalRecordArrival req s) := by
  unfold execFinalRecordArrival; repeat' first | with_reducible assumption | (extract_lets -underBinder +onlyGivenNames x; refine kept_cut (Q := Q) (x := x) ?_ ?_; subst x; rotate_left; intro hx; clear_value x) | extract_lets -underBinder +onlyGivenNames x | with_reducible first | apply kept_ite | apply kept_iteO | apply kept_next | apply kept_bump1 | apply kept_reqPut | (with_reducible apply kept_mk; first | with_reducible assumption | with_reducible first | apply kept_bump1 | apply kept_reqPut) | split

theorem kept_execResultDmaDone {req : Nat} {s : State} (h_s : Kept Q s) : KeptO Q (execResultDmaDone req s) := by
  unfold execResultDmaDone; repeat' first | with_reducible assumption | (extract_lets -underBinder +onlyGivenNames x; refine kept_cut (Q := Q) (x := x) ?_ ?_; subst x; rotate_left; intro hx; clear_value x) | extract_lets -underBinder +onlyGivenNames x | with_reducible first | apply kept_ite | apply kept_iteO | apply kept_next | apply kept_reqPut | apply kept_badRead | apply kept_hostWrite | (with_reducible apply kept_mk; first | with_reducible assumption | with_reducible first | apply kept_reqPut | apply kept_badRead | apply kept_hostWrite) | split | (apply kept_snd; apply kept_stopDma) | apply kept_badRead | assumption

theorem kept_execCompletionGrant {req : Nat} {s : State} (h_s : Kept Q s) : KeptO Q (execCompletionGrant req s) := by
  unfold execCompletionGrant; repeat' first | with_reducible assumption | with_reducible first | apply kept_ite | apply kept_iteO | apply kept_next | apply kept_commitReq | split

theorem kept_execDeadline {req : Nat} {s : State} (h_s : Kept Q s) : KeptO Q (execDeadline req s) := by
  unfold execDeadline; repeat' first | with_reducible assumption | (extract_lets -underBinder +onlyGivenNames x; refine kept_cut (Q := Q) (x := x) ?_ ?_; subst x; rotate_left; intro hx; clear_value x) | extract_lets -underBinder +onlyGivenNames x | with_reducible first | apply kept_ite | apply kept_iteO | apply kept_next | apply kept_abortReq | apply kept_advance | split

theorem kept_execHostAbort {req : Nat} {s : State} (h_s : Kept Q s) : KeptO Q (execHostAbort req s) := by
  unfold execHostAbort; repeat' first | with_reducible assumption | (extract_lets -underBinder +onlyGivenNames x; refine kept_cut (Q := Q) (x := x) ?_ ?_; subst x; rotate_left; intro hx; clear_value x) | extract_lets -underBinder +onlyGivenNames x | with_reducible first | apply kept_ite | apply kept_iteO | apply kept_next | apply kept_completeReq | apply kept_refuseReq | apply kept_acceptReq | apply kept_abortReq | apply kept_bump1 | split | assumption

theorem kept_execRequestNotReady {req : Nat} {s : State} (h_s : Kept Q s) : KeptO Q (execRequestNotReady req s) := by
  unfold execRequestNotReady; repeat' first | with_reducible assumption | with_reducible first | apply kept_ite | apply kept_iteO | apply kept_next | apply kept_completeReq | apply kept_advance | split

theorem kept_execHostTimeout {queue req : Nat} {s : State} (h_s : Kept Q s) : KeptO Q (execHostTimeout queue req s) := by
  unfold execHostTimeout; repeat' first | with_reducible assumption | (extract_lets -underBinder +onlyGivenNames x; refine kept_cut (Q := Q) (x := x) ?_ ?_; subst x; rotate_left; intro hx; clear_value x) | extract_lets -underBinder +onlyGivenNames x | with_reducible first | apply kept_ite | apply kept_iteO | apply kept_next | apply kept_event | apply kept_bump1 | apply kept_queuePut | apply kept_report | apply kept_stopWork | apply kept_reqPut | (with_reducible apply kept_mk; first | with_reducible assumption | with_reducible first | apply kept_event | apply kept_bump1 | apply kept_queuePut | apply kept_report | apply kept_stopWork | apply kept_reqPut) | split

theorem kept_execBar2Read {off len : Nat} {s : State} (h_s : Kept Q s) : KeptO Q (execBar2Read off len s) := by
  unfold execBar2Read; repeat' first | with_reducible assumption | (intro y; beta_reduce) | (extract_lets -underBinder +onlyGivenNames x; refine kept_cut (Q := Q) (x := x) ?_ ?_; subst x; rotate_left; intro hx; clear_value x) | extract_lets -underBinder +onlyGivenNames x | with_reducible first | apply kept_ite | apply kept_iteO | split | with_reducible first | apply kept_next | apply kept_powered | apply kept_pciMap | apply kept_badRead | (with_reducible apply kept_mk; first | with_reducible assumption | with_reducible first | apply kept_pciMap | apply kept_badRead) | with_reducible rfl

theorem kept_execBar2Write {off : Nat} {data : List Byte} {s : State} (h_s : Kept Q s) : KeptO Q (execBar2Write off data s) := by
  unfold execBar2Write; repeat' first | with_reducible assumption | (intro y; beta_reduce) | with_reducible first | apply kept_ite | apply kept_iteO | apply kept_next | apply kept_foldl | apply kept_event | apply kept_bump1 | apply kept_memWrite | split

theorem kept_pciCsrReset {s : State} (h_s : Kept Q s) : Kept Q (pciCsrReset s) :=
  ⟨h_s.queue, h_s.clock, { h_s.canon with csr := mwf_filter _ h_s.canon.csr }⟩


theorem kept_hostReset {s : State} (h_s : Kept Q s) : Kept Q (hostReset s) := by
  unfold hostReset
  extract_lets s1 s2
  have h1 : Kept Q s1 := by
    apply kept_foldl h_s
    intro s e hs
    beta_reduce
    split
    · exact kept_ite (kept_abortReq hs) hs
    · exact hs
  exact kept_event (kept_pciCsrReset ⟨h1.queue, h1.clock, { h1.canon with queues := mwf_nil }⟩)


theorem kept_execConfigSpaceWrite {field value : Nat} {s : State} (h_s : Kept Q s) : KeptO Q (execConfigSpaceWrite field value s) := by
  unfold execConfigSpaceWrite; repeat' first | with_reducible assumption | (intro y; beta_reduce) | with_reducible first | apply kept_ite | apply kept_iteO | apply kept_next | apply kept_writeDue | apply kept_pciMap | (with_reducible apply kept_mk; first | with_reducible assumption | with_reducible first | apply kept_writeDue | apply kept_pciMap) | split | with_reducible rfl

end Sys2Proof.Machine
end

