-- ==== Sys2Proof/Laws/KeptBoot.lean ====
section
/-! SUPPORT. What the operations of Boot keep (`Kept`). -/

namespace Sys2Proof.Machine

set_option linter.all false

variable {Q : Aim}

theorem kept_offState {s : State} {remap : Bool} (h_s : Kept Q s) : Kept ⟨Q.queue, (false, 0, 0, .prime, 0)⟩ (offState s remap) := by
  unfold offState
  refine ⟨h_s.queue, rfl, ⟨rfl, rfl, rfl, h_s.canon.hostMem, rfl, rfl, rfl, rfl, ?_, rfl, rfl, rfl, rfl, rfl, rfl, rfl⟩⟩
  dsimp only
  split
  · refine mwf_map_filter (fun c => { chanReset with
          remap := c.2.remap.filter fun e => !Config.rowFused c.1 e.row, sparesUsed := c.2.sparesUsed }) (fun c => decide (c.2 ≠ chanReset))
      ?_ h_s.canon.chans
    exact fun _ h => of_decide_eq_true h
  · rfl


theorem kept_setStage {s : State} {n : Nat} (h_s : Kept Q s) : Kept Q (setStage s n) := by
  unfold setStage; repeat' first | with_reducible assumption | with_reducible first | apply kept_fset

theorem kept_execPwrgoodRise {gpio : Nat} {s : State} (h_s : Kept Q s) : KeptQ Q.queue (execPwrgoodRise gpio s) := by
  unfold execPwrgoodRise; split
  · exact keptQ_next h_s
  · exact keptQ_to (kept_bootMap (kept_offState h_s))


theorem kept_execPwrgoodFall {s : State} (h_s : Kept Q s) : KeptQ Q.queue (execPwrgoodFall s) := by
  exact keptQ_to (kept_mk (kept_bootMap (kept_offState h_s)))


theorem kept_execBootRestart {value : Nat} {s : State} (h_s : Kept Q s) : KeptQ Q.queue (execBootRestart value s) := by
  unfold execBootRestart; split
  · exact keptQ_next h_s
  · exact keptQ_to (kept_offState h_s)


theorem kept_execPerstNAssert {cause : Nat} {s : State} (h_s : Kept Q s) : KeptO Q (execPerstNAssert cause s) := by
  unfold execPerstNAssert; repeat' first | with_reducible assumption | (intro y; beta_reduce) | (extract_lets -underBinder +onlyGivenNames x; refine kept_cut (Q := Q) (x := x) ?_ ?_; subst x; rotate_left; intro hx; clear_value x) | extract_lets -underBinder +onlyGivenNames x | with_reducible first | apply kept_ite | apply kept_iteO | apply kept_next | apply kept_bootMap | apply kept_hostReset | apply kept_pciMap | apply kept_setUnit | (with_reducible apply kept_mk; first | with_reducible assumption | with_reducible first | apply kept_bootMap | apply kept_hostReset | apply kept_pciMap | apply kept_setUnit) | split | with_reducible rfl

theorem kept_execPerstNDeassert {s : State} (h_s : Kept Q s) : KeptO Q (execPerstNDeassert s) := by
  unfold execPerstNDeassert; repeat' first | with_reducible assumption | (intro y; beta_reduce) | with_reducible first | apply kept_next | apply kept_bootMap | (with_reducible apply kept_mk; first | with_reducible assumption | with_reducible first | apply kept_bootMap)

theorem kept_execConfigSpaceLoaded {s : State} (h_s : Kept Q s) : KeptO Q (execConfigSpaceLoaded s) := by
  unfold execConfigSpaceLoaded; repeat' first | with_reducible assumption | (intro y; beta_reduce) | (extract_lets -underBinder +onlyGivenNames x; refine kept_cut (Q := Q) (x := x) ?_ ?_; subst x; rotate_left; intro hx; clear_value x) | extract_lets -underBinder +onlyGivenNames x | with_reducible first | apply kept_ite | apply kept_iteO | apply kept_next | apply kept_drawN | apply kept_pciMap | apply kept_setUnit | (with_reducible apply kept_mk; first | with_reducible assumption | refine kept_ofR ?_ (by assumption) | with_reducible first | apply kept_pciMap | apply kept_setUnit) | split | refine kept_ofR ?_ (by assumption) | (apply kept_snd; with_reducible first | apply kept_drawN) | with_reducible rfl

theorem kept_loadConfig {s : State} {o : List Byte} (h_s : Kept Q s) : Kept Q (loadConfig s o) := by
  unfold loadConfig; repeat' first | with_reducible assumption | (intro y; beta_reduce) | (extract_lets -underBinder +onlyGivenNames x; refine kept_cut (Q := Q) (x := x) ?_ ?_; subst x; rotate_left; intro hx; clear_value x) | extract_lets -underBinder +onlyGivenNames x | with_reducible first | apply kept_foldl | apply kept_rset | apply kept_bootMap | (with_reducible apply kept_mk; first | with_reducible assumption | with_reducible first | apply kept_rset | apply kept_bootMap)

theorem kept_putFlash {s : State} {slot area : Nat} {o : List Byte} (h_s : Kept Q s) : Kept Q (putFlash s slot area o) := by
  unfold putFlash; repeat' first | with_reducible assumption | (intro y; beta_reduce) | with_reducible first | apply kept_bootMap | (with_reducible apply kept_mk; first | with_reducible assumption | with_reducible first | apply kept_bootMap)

theorem kept_execKeeperImagePass {slot : Nat} {object : List Byte} {s : State} (h_s : Kept Q s) : KeptO Q (execKeeperImagePass slot object s) := by
  unfold execKeeperImagePass; repeat' first | with_reducible assumption | (extract_lets -underBinder +onlyGivenNames x; refine kept_cut (Q := Q) (x := x) ?_ ?_; subst x; rotate_left; intro hx; clear_value x) | extract_lets -underBinder +onlyGivenNames x | with_reducible first | apply kept_ite | apply kept_iteO | apply kept_next | apply kept_keeperStart | apply kept_mrExtend | apply kept_putInForce | apply kept_putFlash | apply kept_fset | apply kept_setStage | apply kept_setUnit | split

theorem kept_execConfigImagePass {slot : Nat} {object : List Byte} {s : State} (h_s : Kept Q s) : KeptO Q (execConfigImagePass slot object s) := by
  unfold execConfigImagePass; repeat' first | with_reducible assumption | (extract_lets -underBinder +onlyGivenNames x; refine kept_cut (Q := Q) (x := x) ?_ ?_; subst x; rotate_left; intro hx; clear_value x) | extract_lets -underBinder +onlyGivenNames x | with_reducible first | apply kept_ite | apply kept_iteO | apply kept_next | apply kept_mrExtend | apply kept_putInForce | apply kept_putFlash | apply kept_setStage | apply kept_loadConfig | apply kept_debugEvent | split

theorem kept_execFirmwarePass {control service : List Byte} {s : State} (h_s : Kept Q s) : KeptO Q (execFirmwarePass control service s) := by
  unfold execFirmwarePass; repeat' first | with_reducible assumption | (intro y; beta_reduce) | (extract_lets -underBinder +onlyGivenNames x; refine kept_cut (Q := Q) (x := x) ?_ ?_; subst x; rotate_left; intro hx; clear_value x) | extract_lets -underBinder +onlyGivenNames x | with_reducible first | apply kept_ite | apply kept_iteO | apply kept_next | apply kept_foldl | apply kept_mrExtend | apply kept_putInForce | apply kept_putFlash | apply kept_setStage | apply kept_setUnit | apply kept_portPut | (with_reducible apply kept_mk; first | with_reducible assumption | with_reducible first | apply kept_mrExtend | apply kept_putInForce | apply kept_putFlash | apply kept_setStage | apply kept_setUnit | apply kept_portPut) | split

theorem kept_rejectImage {s : State} {kind slot : Nat} (h_s : Kept Q s) : Kept Q (rejectImage s kind slot) := by
  unfold rejectImage; repeat' first | with_reducible assumption | with_reducible first | apply kept_report

theorem kept_execImageRejected {slot kind : Nat} {s : State} (h_s : Kept Q s) : KeptO Q (execImageRejected slot kind s) := by
  unfold execImageRejected; repeat' first | with_reducible assumption | (intro y; beta_reduce) | (extract_lets -underBinder +onlyGivenNames x; refine kept_cut (Q := Q) (x := x) ?_ ?_; subst x; rotate_left; intro hx; clear_value x) | extract_lets -underBinder +onlyGivenNames x | with_reducible first | apply kept_ite | apply kept_iteO | apply kept_next | apply kept_foldl | apply kept_fset | apply kept_setStage | apply kept_rejectImage | apply kept_bootMap | (with_reducible apply kept_mk; first | with_reducible assumption | with_reducible first | apply kept_fset | apply kept_setStage | apply kept_rejectImage | apply kept_bootMap) | split

theorem kept_execBootFwReady {k : Nat} {s : State} (h_s : Kept Q s) : KeptO Q (execBootFwReady k s) := by
  unfold execBootFwReady; repeat' first | with_reducible assumption | with_reducible first | apply kept_ite | apply kept_iteO | apply kept_next | apply kept_event | split

theorem kept_flushHeld {s : State} (h_s : Kept Q s) : Kept Q (flushHeld s) := by
  unfold flushHeld; repeat' first | with_reducible assumption | (intro y; beta_reduce) | (extract_lets -underBinder +onlyGivenNames x; refine kept_cut (Q := Q) (x := x) ?_ ?_; subst x; rotate_left; intro hx; clear_value x) | extract_lets -underBinder +onlyGivenNames x | with_reducible first | apply kept_foldl | apply kept_file | (with_reducible apply kept_mk; first | with_reducible assumption | refine kept_ofR ?_ (by assumption)) | refine kept_ofR ?_ (by assumption) | apply kept_snd | (apply kept_snd; with_reducible first | apply kept_file)

theorem kept_timeReady {s : State} (h_s : Kept Q s) : Kept Q (timeReady s) := by
  unfold timeReady; repeat' first | with_reducible assumption | (intro y; beta_reduce) | with_reducible first | apply kept_ite | apply kept_timMap | (with_reducible apply kept_mk; first | with_reducible assumption | with_reducible first | apply kept_timMap) | split | with_reducible rfl

theorem kept_nowReady {s : State} {i : Nat} (h_s : Kept Q s) : Kept Q (nowReady s i) := by
  unfold nowReady; repeat' first | with_reducible assumption | (extract_lets -underBinder +onlyGivenNames x; refine kept_cut (Q := Q) (x := x) ?_ ?_; subst x; rotate_left; intro hx; clear_value x) | extract_lets -underBinder +onlyGivenNames x | with_reducible first | apply kept_ite | apply kept_flushHeld | apply kept_timeReady | apply kept_ctrlPut | apply kept_hartSet | (with_reducible apply kept_mk; first | with_reducible assumption | with_reducible first | apply kept_flushHeld | apply kept_timeReady | apply kept_ctrlPut | apply kept_hartSet) | split

theorem kept_bringupFenced {s : State} {i check : Nat} (h_s : Kept Q s) : Kept Q (bringupFenced s i check) := by
  unfold bringupFenced; repeat' first | with_reducible assumption | (extract_lets -underBinder +onlyGivenNames x; refine kept_cut (Q := Q) (x := x) ?_ ?_; subst x; rotate_left; intro hx; clear_value x) | extract_lets -underBinder +onlyGivenNames x | with_reducible first | apply kept_ite | apply kept_fenceCore | apply kept_report | apply kept_queueFence | apply kept_bump1 | apply kept_setUnit | split

theorem kept_execUnitBringupReport {unit : Nat} {state : UnitReport} {s : State} (h_s : Kept Q s) : KeptO Q (execUnitBringupReport unit state s) := by
  unfold execUnitBringupReport; repeat' first | with_reducible assumption | (extract_lets -underBinder +onlyGivenNames x; refine kept_cut (Q := Q) (x := x) ?_ ?_; subst x; rotate_left; intro hx; clear_value x) | extract_lets -underBinder +onlyGivenNames x | with_reducible first | apply kept_ite | apply kept_iteO | apply kept_next | apply kept_setUnit | apply kept_chanPut | apply kept_diesRecover | apply kept_bringupFenced | apply kept_zeroChan | apply kept_testOver | apply kept_testFindings | apply kept_nowReady | (with_reducible apply kept_mk; first | with_reducible assumption | with_reducible first | apply kept_setUnit | apply kept_chanPut | apply kept_diesRecover | apply kept_bringupFenced | apply kept_zeroChan | apply kept_testOver | apply kept_testFindings | apply kept_nowReady) | split

theorem kept_holdNumber {s : State} {l p : Nat} (h_s : Kept Q s) : Kept Q (holdNumber s l p) := by
  unfold holdNumber; repeat' first | with_reducible assumption | (intro y; beta_reduce) | with_reducible first | apply kept_bootMap | (with_reducible apply kept_mk; first | with_reducible assumption | with_reducible first | apply kept_bootMap)

theorem kept_execCoreMapAssign {die : Nat} {s : State} (h_s : Kept Q s) : KeptO Q (execCoreMapAssign die s) := by
  unfold execCoreMapAssign; repeat' first | with_reducible assumption | (intro y; beta_reduce) | (extract_lets -underBinder +onlyGivenNames x; refine kept_cut (Q := Q) (x := x) ?_ ?_; subst x; rotate_left; intro hx; clear_value x) | extract_lets -underBinder +onlyGivenNames x | with_reducible first | apply kept_ite | apply kept_iteO | apply kept_next | apply kept_foldl | apply kept_bootMap | apply kept_holdNumber | apply kept_report | (with_reducible apply kept_mk; first | with_reducible assumption | with_reducible first | apply kept_bootMap | apply kept_holdNumber | apply kept_report) | split

theorem kept_execKeeperWatchdog {s : State} (h_s : Kept Q s) : KeptO Q (execKeeperWatchdog s) := by
  unfold execKeeperWatchdog; repeat' first | with_reducible assumption | (intro y; beta_reduce) | with_reducible first | apply kept_ite | apply kept_iteO | apply kept_next | apply kept_bump1 | apply kept_keepMap | (with_reducible apply kept_mk; first | with_reducible assumption | with_reducible first | apply kept_bump1 | apply kept_keepMap) | split

theorem kept_keeperEnds {s : State} (h_s : Kept Q s) : Kept Q (keeperEnds s) := by
  unfold keeperEnds; repeat' first | with_reducible assumption | (intro y; beta_reduce) | (extract_lets -underBinder +onlyGivenNames x; refine kept_cut (Q := Q) (x := x) ?_ ?_; subst x; rotate_left; intro hx; clear_value x) | extract_lets -underBinder +onlyGivenNames x | with_reducible first | apply kept_discardStaged | apply kept_relock | apply kept_keepMap | (with_reducible apply kept_mk; first | with_reducible assumption | with_reducible first | apply kept_discardStaged | apply kept_relock | apply kept_keepMap)

theorem kept_execKeeperRestart {staged : Bool} {s : State} (h_s : Kept Q s) : KeptO Q (execKeeperRestart staged s) := by
  unfold execKeeperRestart; repeat' first | with_reducible assumption | (intro y; beta_reduce) | (extract_lets -underBinder +onlyGivenNames x; refine kept_cut (Q := Q) (x := x) ?_ ?_; subst x; rotate_left; intro hx; clear_value x) | (extract_lets -underBinder +onlyGivenNames x; clear_value x) | with_reducible first | apply kept_ite | apply kept_iteO | apply kept_next | apply kept_putInForce | apply kept_event | apply kept_rejectImage | apply kept_mrExtend | apply kept_keepMap | apply kept_keeperStart | apply kept_report | apply kept_keeperEnds | (with_reducible apply kept_mk; first | with_reducible assumption | with_reducible first | apply kept_putInForce | apply kept_event | apply kept_rejectImage | apply kept_mrExtend | apply kept_keepMap | apply kept_keeperStart | apply kept_report | apply kept_keeperEnds) | split

theorem kept_execStagedImageVerified {comp : Nat} {pass : Bool} {s : State} (h_s : Kept Q s) : KeptO Q (execStagedImageVerified comp pass s) := by
  unfold execStagedImageVerified; repeat' first | with_reducible assumption | (intro y; beta_reduce) | (extract_lets -underBinder +onlyGivenNames x; refine kept_cut (Q := Q) (x := x) ?_ ?_; subst x; rotate_left; intro hx; clear_value x) | extract_lets -underBinder +onlyGivenNames x | with_reducible first | apply kept_ite | apply kept_iteO | apply kept_next | apply kept_setUnit | apply kept_keepMap | apply kept_rejectImage | apply kept_event | (with_reducible apply kept_mk; first | with_reducible assumption | with_reducible first | apply kept_setUnit | apply kept_keepMap | apply kept_rejectImage | apply kept_event) | split

end Sys2Proof.Machine
end

