-- ==== Sys2Proof/Laws/KeptAttest.lean ====
section
/-! SUPPORT. What the operations of Attest keep (`Kept`). -/

namespace Sys2Proof.Machine

set_option linter.all false

variable {Q : Aim}

theorem kept_respond {s : State} {b : List Byte} (h_s : Kept Q s) : KeptO Q (respond s b) := by
  unfold respond; repeat' first | with_reducible assumption | (intro y; beta_reduce) | with_reducible first | apply kept_next | apply kept_keepMap | (with_reducible apply kept_mk; first | with_reducible assumption | with_reducible first | apply kept_keepMap)

theorem kept_ideMap {s : State} {f : IdeState → IdeState} (h_s : Kept Q s) : Kept Q (ideMap s f) := by
  unfold ideMap; repeat' first | with_reducible assumption | (intro y; beta_reduce) | with_reducible first | apply kept_keepMap | apply h_f | (with_reducible apply kept_mk; first | with_reducible assumption | with_reducible first | apply kept_keepMap)

theorem kept_execQuery {body : List Byte} {s : State} (h_s : Kept Q s) : KeptO Q (execQuery body s) := by
  unfold execQuery; repeat' first | with_reducible assumption | (intro y; beta_reduce) | (extract_lets -underBinder +onlyGivenNames x; refine kept_cut (Q := Q) (x := x) ?_ ?_; subst x; rotate_left; intro hx; clear_value x) | extract_lets -underBinder +onlyGivenNames x | with_reducible first | apply kept_ite | apply kept_iteO | apply kept_next | apply kept_drawN | apply kept_respond | split | refine kept_ofR ?_ (by assumption) | (apply kept_snd; with_reducible first | apply kept_drawN)

theorem kept_execKeyProg {body : List Byte} {s : State} (h_s : Kept Q s) : KeptO Q (execKeyProg body s) := by
  unfold execKeyProg; repeat' first | with_reducible assumption | (intro y; beta_reduce) | (extract_lets -underBinder +onlyGivenNames x; refine kept_cut (Q := Q) (x := x) ?_ ?_; subst x; rotate_left; intro hx; clear_value x) | extract_lets -underBinder +onlyGivenNames x | with_reducible first | apply kept_ite | apply kept_iteO | apply kept_next | apply kept_ideMap | apply kept_respond | (with_reducible apply kept_mk; first | with_reducible assumption | with_reducible first | apply kept_ideMap) | split

theorem kept_goStop {s : State} {b : List Byte} (h_s : Kept Q s) : KeptO Q (goStop s b) := by
  unfold goStop; repeat' first | with_reducible assumption | with_reducible first | apply kept_next | apply kept_respond

theorem kept_execKSetGo {body : List Byte} {s : State} (h_s : Kept Q s) : KeptO Q (execKSetGo body s) := by
  unfold execKSetGo; repeat' first | with_reducible assumption | (intro y; beta_reduce) | (extract_lets -underBinder +onlyGivenNames x; refine kept_cut (Q := Q) (x := x) ?_ ?_; subst x; rotate_left; intro hx; clear_value x) | extract_lets -underBinder +onlyGivenNames x | with_reducible first | apply kept_ite | apply kept_iteO | apply kept_next | apply kept_goStop | apply kept_ideMap | (with_reducible apply kept_mk; first | with_reducible assumption | with_reducible first | apply kept_ideMap) | split

theorem kept_execKSetStop {body : List Byte} {s : State} (h_s : Kept Q s) : KeptO Q (execKSetStop body s) := by
  unfold execKSetStop; repeat' first | with_reducible assumption | (intro y; beta_reduce) | (extract_lets -underBinder +onlyGivenNames x; refine kept_cut (Q := Q) (x := x) ?_ ?_; subst x; rotate_left; intro hx; clear_value x) | extract_lets -underBinder +onlyGivenNames x | with_reducible first | apply kept_ite | apply kept_iteO | apply kept_next | apply kept_goStop | apply kept_ideMap | (with_reducible apply kept_mk; first | with_reducible assumption | with_reducible first | apply kept_ideMap) | split

theorem kept_execIdeIntegrityFail {s : State} (h_s : Kept Q s) : KeptO Q (execIdeIntegrityFail s) := by
  unfold execIdeIntegrityFail; repeat' first | with_reducible assumption | (intro y; beta_reduce) | with_reducible first | apply kept_next | apply kept_powered | apply kept_event | apply kept_ideMap | (with_reducible apply kept_mk; first | with_reducible assumption | with_reducible first | apply kept_event | apply kept_ideMap)

theorem kept_spdmAnswer {s : State} {f : State → Out} (h_s : Kept Q s) (h_f : ∀ x0, Kept Q x0 → KeptO Q (f x0)) : KeptO Q (spdmAnswer s f) := by
  unfold spdmAnswer; repeat' first | with_reducible assumption | (intro y; beta_reduce) | with_reducible first | apply kept_ite | apply kept_iteO | apply kept_next | apply kept_respond | apply h_f | split

theorem kept_serveSpdm {s : State} {stage : Nat} {body : List Byte} {f : State → Out} (h_s : Kept Q s) (h_f : ∀ x0, Kept Q x0 → KeptO Q (f x0)) : KeptO Q (serveSpdm s stage body f) := by
  unfold serveSpdm; repeat' first | with_reducible assumption | (intro y; beta_reduce) | with_reducible first | apply kept_ite | apply kept_iteO | apply kept_next | apply kept_spdmAnswer | apply kept_respond | apply h_f | split

theorem kept_execGetVersion {body : List Byte} {s : State} (h_s : Kept Q s) : KeptO Q (execGetVersion body s) := by
  unfold execGetVersion; repeat' first | with_reducible assumption | (intro y; beta_reduce) | (extract_lets -underBinder +onlyGivenNames x; refine kept_cut (Q := Q) (x := x) ?_ ?_; subst x; rotate_left; intro hx; clear_value x) | extract_lets -underBinder +onlyGivenNames x | with_reducible first | apply kept_next | apply kept_spdmAnswer | apply kept_respond | apply kept_keepMap | (with_reducible apply kept_mk; first | with_reducible assumption | with_reducible first | apply kept_keepMap)

theorem kept_execGetCapabilities {body : List Byte} {s : State} (h_s : Kept Q s) : KeptO Q (execGetCapabilities body s) := by
  unfold execGetCapabilities; repeat' first | with_reducible assumption | (intro y; beta_reduce) | (extract_lets -underBinder +onlyGivenNames x; refine kept_cut (Q := Q) (x := x) ?_ ?_; subst x; rotate_left; intro hx; clear_value x) | extract_lets -underBinder +onlyGivenNames x | with_reducible first | apply kept_ite | apply kept_iteO | apply kept_next | apply kept_serveSpdm | apply kept_respond | apply kept_keepMap | (with_reducible apply kept_mk; first | with_reducible assumption | with_reducible first | apply kept_keepMap) | split

theorem kept_execNegotiateAlgorithms {body : List Byte} {s : State} (h_s : Kept Q s) : KeptO Q (execNegotiateAlgorithms body s) := by
  unfold execNegotiateAlgorithms; repeat' first | with_reducible assumption | (intro y; beta_reduce) | (extract_lets -underBinder +onlyGivenNames x; refine kept_cut (Q := Q) (x := x) ?_ ?_; subst x; rotate_left; intro hx; clear_value x) | extract_lets -underBinder +onlyGivenNames x | with_reducible first | apply kept_ite | apply kept_iteO | apply kept_next | apply kept_serveSpdm | apply kept_respond | apply kept_keepMap | (with_reducible apply kept_mk; first | with_reducible assumption | with_reducible first | apply kept_keepMap) | split

theorem kept_execGetDigests {body : List Byte} {s : State} (h_s : Kept Q s) : KeptO Q (execGetDigests body s) := by
  unfold execGetDigests; repeat' first | with_reducible assumption | (intro y; beta_reduce) | (extract_lets -underBinder +onlyGivenNames x; refine kept_cut (Q := Q) (x := x) ?_ ?_; subst x; rotate_left; intro hx; clear_value x) | extract_lets -underBinder +onlyGivenNames x | with_reducible first | apply kept_next | apply kept_serveSpdm | apply kept_respond | apply kept_keepMap | (with_reducible apply kept_mk; first | with_reducible assumption | with_reducible first | apply kept_keepMap)

theorem kept_execGetCertificate {body : List Byte} {s : State} (h_s : Kept Q s) : KeptO Q (execGetCertificate body s) := by
  unfold execGetCertificate; repeat' first | with_reducible assumption | (intro y; beta_reduce) | (extract_lets -underBinder +onlyGivenNames x; refine kept_cut (Q := Q) (x := x) ?_ ?_; subst x; rotate_left; intro hx; clear_value x) | extract_lets -underBinder +onlyGivenNames x | with_reducible first | apply kept_ite | apply kept_iteO | apply kept_next | apply kept_serveSpdm | apply kept_respond | apply kept_keepMap | (with_reducible apply kept_mk; first | with_reducible assumption | with_reducible first | apply kept_keepMap) | split

theorem kept_spdmSign {s : State} {context : String} {transcript : List Byte} (h_s : Kept Q s) : KeptR Q (spdmSign s context transcript) := by
  unfold spdmSign; repeat' first | with_reducible assumption | (extract_lets -underBinder +onlyGivenNames x; refine kept_cut (Q := Q) (x := x) ?_ ?_; subst x; rotate_left; intro hx; clear_value x) | extract_lets -underBinder +onlyGivenNames x | with_reducible first | apply kept_draw | split | with_reducible apply kept_pair | refine kept_ofR ?_ (by assumption) | (apply kept_snd; with_reducible first | apply kept_draw)

theorem kept_execChallenge {body : List Byte} {s : State} (h_s : Kept Q s) : KeptO Q (execChallenge body s) := by
  unfold execChallenge; repeat' first | with_reducible assumption | (intro y; beta_reduce) | (extract_lets -underBinder +onlyGivenNames x; refine kept_cut (Q := Q) (x := x) ?_ ?_; subst x; rotate_left; intro hx; clear_value x) | extract_lets -underBinder +onlyGivenNames x | with_reducible first | apply kept_ite | apply kept_iteO | apply kept_next | apply kept_serveSpdm | apply kept_respond | apply kept_draw | apply kept_spdmSign | apply kept_keepMap | (with_reducible apply kept_mk; first | with_reducible assumption | refine kept_ofR ?_ (by assumption) | with_reducible first | apply kept_keepMap) | split | refine kept_ofR ?_ (by assumption) | (apply kept_snd; with_reducible first | apply kept_draw | apply kept_spdmSign)

theorem kept_execGetMeasurements {body : List Byte} {s : State} (h_s : Kept Q s) : KeptO Q (execGetMeasurements body s) := by
  unfold execGetMeasurements; repeat' first | with_reducible assumption | (intro y; beta_reduce) | (extract_lets -underBinder +onlyGivenNames x; refine kept_cut (Q := Q) (x := x) ?_ ?_; subst x; rotate_left; intro hx; clear_value x) | extract_lets -underBinder +onlyGivenNames x | with_reducible first | apply kept_ite | apply kept_iteO | apply kept_next | apply kept_serveSpdm | apply kept_respond | apply kept_draw | apply kept_keepMap | apply kept_spdmSign | (with_reducible apply kept_mk; first | with_reducible assumption | refine kept_ofR ?_ (by assumption) | with_reducible first | apply kept_keepMap) | split | refine kept_ofR ?_ (by assumption) | (apply kept_snd; with_reducible first | apply kept_draw | apply kept_spdmSign)

theorem kept_execSpdmUnsupported {body : List Byte} {s : State} (h_s : Kept Q s) : KeptO Q (execSpdmUnsupported body s) := by
  unfold execSpdmUnsupported; repeat' first | with_reducible assumption | (intro y; beta_reduce) | with_reducible first | apply kept_next | apply kept_spdmAnswer | apply kept_respond

theorem kept_execDoeDiscovery {body : List Byte} {s : State} (h_s : Kept Q s) : KeptO Q (execDoeDiscovery body s) := by
  unfold execDoeDiscovery; repeat' first | with_reducible assumption | with_reducible first | apply kept_ite | apply kept_iteO | apply kept_next | apply kept_respond | split

theorem kept_mgmtAnswer {s : State} {code : Nat} {b : List Byte} (h_s : Kept Q s) : KeptO Q (mgmtAnswer s code b) := by
  unfold mgmtAnswer; repeat' first | with_reducible assumption | with_reducible first | apply kept_next | apply kept_answer | (with_reducible apply kept_mk; first | with_reducible assumption | with_reducible first | apply kept_answer)

theorem kept_execNonceExpiry {s : State} (h_s : Kept Q s) : KeptO Q (execNonceExpiry s) := by
  unfold execNonceExpiry; repeat' first | with_reducible assumption | (intro y; beta_reduce) | with_reducible first | apply kept_next | apply kept_keepMap | apply kept_advance | (with_reducible apply kept_mk; first | with_reducible assumption | with_reducible first | apply kept_keepMap | apply kept_advance) | split

theorem kept_execUnlockExpiry {s : State} (h_s : Kept Q s) : KeptO Q (execUnlockExpiry s) := by
  unfold execUnlockExpiry; repeat' first | with_reducible assumption | with_reducible first | apply kept_ite | apply kept_iteO | apply kept_next | apply kept_relock | apply kept_advance | split

theorem kept_keeperCommand {s : State} {f : State → Out} (h_s : Kept Q s) (h_f : ∀ x0, Kept Q x0 → KeptO Q (f x0)) : KeptO Q (keeperCommand s f) := by
  unfold keeperCommand; repeat' first | with_reducible assumption | (intro y; beta_reduce) | with_reducible first | apply kept_ite | apply kept_iteO | apply kept_next | apply kept_mgmtAnswer | apply h_f | split

theorem kept_execNonce {_body : List Byte} {s : State} (h_s : Kept Q s) : KeptO Q (execNonce _body s) := by
  unfold execNonce; repeat' first | with_reducible assumption | (intro y; beta_reduce) | (extract_lets -underBinder +onlyGivenNames x; refine kept_cut (Q := Q) (x := x) ?_ ?_; subst x; rotate_left; intro hx; clear_value x) | extract_lets -underBinder +onlyGivenNames x | with_reducible first | apply kept_next | apply kept_keeperCommand | apply kept_draw | apply kept_mgmtAnswer | apply kept_keepMap | (with_reducible apply kept_mk; first | with_reducible assumption | refine kept_ofR ?_ (by assumption) | with_reducible first | apply kept_keepMap) | split | refine kept_ofR ?_ (by assumption) | (apply kept_snd; with_reducible first | apply kept_draw)

theorem kept_execRelock {_body : List Byte} {s : State} (h_s : Kept Q s) : KeptO Q (execRelock _body s) := by
  unfold execRelock; repeat' first | with_reducible assumption | (intro y; beta_reduce) | with_reducible first | apply kept_next | apply kept_keeperCommand | apply kept_mgmtAnswer | apply kept_relock

theorem kept_tokenActs {s : State} {scope minutes : Nat} (h_s : Kept Q s) : Kept Q (tokenActs s scope minutes) := by
  unfold tokenActs; repeat' first | with_reducible assumption | (intro y; beta_reduce) | with_reducible first | apply kept_ite | apply kept_event | apply kept_debugEvent | apply kept_keepMap | (with_reducible apply kept_mk; first | with_reducible assumption | with_reducible first | apply kept_event | apply kept_debugEvent | apply kept_keepMap) | split

theorem kept_execToken {body : List Byte} {s : State} (h_s : Kept Q s) : KeptO Q (execToken body s) := by
  unfold execToken; repeat' first | with_reducible assumption | (intro y; beta_reduce) | with_reducible first | apply kept_ite | apply kept_iteO | apply kept_next | apply kept_keeperCommand | apply kept_mgmtAnswer | apply kept_event | apply kept_tokenActs | apply kept_keepMap | (with_reducible apply kept_mk; first | with_reducible assumption | with_reducible first | apply kept_event | apply kept_tokenActs | apply kept_keepMap) | split

end Sys2Proof.Machine
end

