-- ==== Sys2Proof/Laws/KeptBranch.lean ====
section
/-! SUPPORT. What the operations of Branch keep (`Kept`). -/

namespace Sys2Proof.Machine

set_option linter.all false

variable {Q : Aim}

theorem kept_jumpReg {s : State} {h : Hart} {x : Word} {link : State → State} (h_s : Kept Q s) (h_link : ∀ x0, Kept Q x0 → Kept Q (link x0)) : Kept Q (jumpReg s h x link) := by
  unfold jumpReg; repeat' first | with_reducible assumption | (intro y; beta_reduce) | with_reducible first | apply kept_ite | apply kept_demandFault | apply kept_setPc | apply h_link | split

theorem kept_execBr {h : Hart} {g : Guard} {imm : BitVec 32} {s : State} (h_s : Kept Q s) : KeptO Q (execBr h g imm s) := by
  unfold execBr; repeat' first | with_reducible assumption | (intro y; beta_reduce) | with_reducible first | apply kept_next | apply kept_spelled | apply kept_issue | apply kept_setPc

theorem kept_execBri {h : Hart} {g : Guard} {rs1 : Reg} {s : State} (h_s : Kept Q s) : KeptO Q (execBri h g rs1 s) := by
  unfold execBri
  refine kept_spelled h_s (kept_issue h_s ?_)
  intro y hy
  exact kept_jumpReg hy fun _ hz => hz


theorem kept_execCall {h : Hart} {g : Guard} {rd : Reg} {imm : BitVec 32} {s : State} (h_s : Kept Q s) : KeptO Q (execCall h g rd imm s) := by
  unfold execCall; repeat' first | with_reducible assumption | (intro y; beta_reduce) | with_reducible first | apply kept_next | apply kept_spelled | apply kept_issue | apply kept_setPc | apply kept_setReg

theorem kept_execCalli {h : Hart} {g : Guard} {rd rs1 : Reg} {s : State} (h_s : Kept Q s) : KeptO Q (execCalli h g rd rs1 s) := by
  unfold execCalli; repeat' first | with_reducible assumption | (intro y; beta_reduce) | with_reducible first | apply kept_next | apply kept_spelled | apply kept_issue | apply kept_jumpReg | apply kept_setReg

end Sys2Proof.Machine
end

