-- ==== Sys2Proof/Laws/KeptElec.lean ====
section
/-! SUPPORT. What the operations of Elec keep (`Kept`). -/

namespace Sys2Proof.Machine

set_option linter.all false

variable {Q : Aim}

theorem kept_elecMap {s : State} {f : ElecUnit → ElecUnit} (h_s : Kept Q s) : Kept Q (elecMap s f) := by
  unfold elecMap; repeat' first | with_reducible assumption | (intro y; beta_reduce) | with_reducible first | apply h_f | exact kept_mk (by with_reducible assumption)

theorem kept_portDown {s : State} {p : Nat} (h_s : Kept Q s) : Kept Q (portDown s p) := by
  unfold portDown; repeat' first | with_reducible assumption | with_reducible first | apply kept_ite | apply kept_linkDown | apply kept_portPut | apply kept_fset | apply kept_setUnit | apply kept_ptpPortDown | (with_reducible apply kept_mk; first | with_reducible assumption | with_reducible first | apply kept_linkDown | apply kept_portPut | apply kept_fset | apply kept_setUnit) | split

theorem kept_execSerclkLoss {s : State} (h_s : Kept Q s) : KeptO Q (execSerclkLoss s) := by
  unfold execSerclkLoss; repeat' first | with_reducible assumption | (intro y; beta_reduce) | (extract_lets -underBinder +onlyGivenNames x; refine kept_cut (Q := Q) (x := x) ?_ ?_; subst x; rotate_left; intro hx; clear_value x) | extract_lets -underBinder +onlyGivenNames x | with_reducible first | apply kept_ite | apply kept_iteO | apply kept_next | apply kept_foldl | apply kept_elecMap | apply kept_portDown | apply kept_estimate | apply kept_event | apply kept_timMap | (with_reducible apply kept_mk; first | with_reducible assumption | with_reducible first | apply kept_elecMap | apply kept_portDown | apply kept_estimate | apply kept_event | apply kept_timMap) | split | with_reducible rfl

theorem kept_execClockLoss {s : State} (h_s : Kept Q s) : KeptO Q (execClockLoss s) := by
  unfold execClockLoss; repeat' first | with_reducible assumption | (extract_lets -underBinder +onlyGivenNames x; refine kept_cut (Q := Q) (x := x) ?_ ?_; subst x; rotate_left; intro hx; clear_value x) | extract_lets -underBinder +onlyGivenNames x | with_reducible first | apply kept_ite | apply kept_iteO | apply kept_next | apply kept_advance | apply kept_toGrey | apply kept_report | split

theorem kept_execSerclkReturn {s : State} (h_s : Kept Q s) : KeptO Q (execSerclkReturn s) := by
  unfold execSerclkReturn; repeat' first | with_reducible assumption | (intro y; beta_reduce) | (extract_lets -underBinder +onlyGivenNames x; refine kept_cut (Q := Q) (x := x) ?_ ?_; subst x; rotate_left; intro hx; clear_value x) | extract_lets -underBinder +onlyGivenNames x | with_reducible first | apply kept_ite | apply kept_iteO | apply kept_next | apply kept_foldl | apply kept_elecMap | apply kept_portPut | apply kept_setRecovered | (with_reducible apply kept_mk; first | with_reducible assumption | with_reducible first | apply kept_elecMap | apply kept_portPut | apply kept_setRecovered) | split

theorem kept_execDieOvertemp {die temp : Nat} {s : State} (h_s : Kept Q s) : KeptO Q (execDieOvertemp die temp s) := by
  unfold execDieOvertemp; repeat' first | with_reducible assumption | (intro y; beta_reduce) | (extract_lets -underBinder +onlyGivenNames x; refine kept_cut (Q := Q) (x := x) ?_ ?_; subst x; rotate_left; intro hx; clear_value x) | extract_lets -underBinder +onlyGivenNames x | with_reducible first | apply kept_ite | apply kept_iteO | apply kept_next | apply kept_elecMap | apply kept_report | apply kept_toGrey | (with_reducible apply kept_mk; first | with_reducible assumption | with_reducible first | apply kept_elecMap | apply kept_report | apply kept_toGrey) | split

theorem kept_execDieCooled {die temp : Nat} {s : State} (h_s : Kept Q s) : KeptO Q (execDieCooled die temp s) := by
  unfold execDieCooled; repeat' first | with_reducible assumption | (intro y; beta_reduce) | (extract_lets -underBinder +onlyGivenNames x; refine kept_cut (Q := Q) (x := x) ?_ ?_; subst x; rotate_left; intro hx; clear_value x) | extract_lets -underBinder +onlyGivenNames x | with_reducible first | apply kept_ite | apply kept_iteO | apply kept_next | apply kept_elecMap | apply kept_setRecovered | apply kept_restartDie | (with_reducible apply kept_mk; first | with_reducible assumption | with_reducible first | apply kept_elecMap | apply kept_setRecovered | apply kept_restartDie) | split

theorem kept_execThermtrip {s : State} (h_s : Kept Q s) : KeptQ Q.queue (execThermtrip s) := by
  unfold execThermtrip; split
  · exact keptQ_next h_s
  · exact keptQ_to (kept_elecMap (kept_bootMap (kept_offState h_s)))


end Sys2Proof.Machine
end

