-- ==== Sys2Proof/Laws/KeptFpu.lean ====
section
/-! SUPPORT. What the operations of Fpu keep (`Kept`). -/

namespace Sys2Proof.Machine

set_option linter.all false

variable {Q : Aim}

theorem kept_fpu {h : Hart} {g : Guard} {rd : Reg} {s : State} {f : State → Nat × Nat} (h_s : Kept Q s) : KeptO Q (fpu h g rd s f) := by
  unfold fpu; repeat' first | with_reducible assumption | (intro y; beta_reduce) | (extract_lets -underBinder +onlyGivenNames x; refine kept_cut (Q := Q) (x := x) ?_ ?_; subst x; rotate_left; intro hx; clear_value x) | extract_lets -underBinder +onlyGivenNames x | with_reducible first | apply kept_next | apply kept_issue | apply kept_retire | apply kept_orFflags | apply h_f

theorem kept_fcompare {h : Hart} {g : Guard} {pd : PredReg} {rs1 : Reg} {y : Operand} {s : State} {f : Fp → Fp → Bool} (h_s : Kept Q s) : KeptO Q (fcompare h g pd rs1 y s f) := by
  unfold fcompare; repeat' first | with_reducible assumption | (intro y; beta_reduce) | with_reducible first | apply kept_next | apply kept_issue | apply kept_nextPc | apply kept_setPred | apply h_f

theorem kept_execFadd {h : Hart} {g : Guard} {rd rs1 rs2 : Reg} {s : State} (h_s : Kept Q s) : KeptO Q (execFadd h g rd rs1 rs2 s) := by
  unfold execFadd; repeat' first | with_reducible assumption | (intro y; beta_reduce) | with_reducible first | apply kept_next | apply kept_spelled | apply kept_fpu

theorem kept_execFsub {h : Hart} {g : Guard} {rd rs1 rs2 : Reg} {s : State} (h_s : Kept Q s) : KeptO Q (execFsub h g rd rs1 rs2 s) := by
  unfold execFsub; repeat' first | with_reducible assumption | (intro y; beta_reduce) | with_reducible first | apply kept_next | apply kept_spelled | apply kept_fpu

theorem kept_execFmul {h : Hart} {g : Guard} {rd rs1 rs2 : Reg} {s : State} (h_s : Kept Q s) : KeptO Q (execFmul h g rd rs1 rs2 s) := by
  unfold execFmul; repeat' first | with_reducible assumption | (intro y; beta_reduce) | with_reducible first | apply kept_next | apply kept_spelled | apply kept_fpu

theorem kept_execFfma {h : Hart} {g : Guard} {rd rs1 rs2 rs3 : Reg} {s : State} (h_s : Kept Q s) : KeptO Q (execFfma h g rd rs1 rs2 rs3 s) := by
  unfold execFfma; repeat' first | with_reducible assumption | (intro y; beta_reduce) | with_reducible first | apply kept_next | apply kept_spelled | apply kept_fpu

theorem kept_execFmin {h : Hart} {g : Guard} {rd rs1 rs2 : Reg} {s : State} (h_s : Kept Q s) : KeptO Q (execFmin h g rd rs1 rs2 s) := by
  unfold execFmin; repeat' first | with_reducible assumption | (intro y; beta_reduce) | with_reducible first | apply kept_next | apply kept_spelled | apply kept_fpu

theorem kept_execFmax {h : Hart} {g : Guard} {rd rs1 rs2 : Reg} {s : State} (h_s : Kept Q s) : KeptO Q (execFmax h g rd rs1 rs2 s) := by
  unfold execFmax; repeat' first | with_reducible assumption | (intro y; beta_reduce) | with_reducible first | apply kept_next | apply kept_spelled | apply kept_fpu

theorem kept_execFcvtsi {h : Hart} {g : Guard} {rd rs1 : Reg} {s : State} (h_s : Kept Q s) : KeptO Q (execFcvtsi h g rd rs1 s) := by
  unfold execFcvtsi; repeat' first | with_reducible assumption | (intro y; beta_reduce) | with_reducible first | apply kept_next | apply kept_spelled | apply kept_fpu

theorem kept_execFcvtis {h : Hart} {g : Guard} {rd rs1 : Reg} {s : State} (h_s : Kept Q s) : KeptO Q (execFcvtis h g rd rs1 s) := by
  unfold execFcvtis; repeat' first | with_reducible assumption | (intro y; beta_reduce) | (extract_lets -underBinder +onlyGivenNames x; refine kept_cut (Q := Q) (x := x) ?_ ?_; subst x; rotate_left; intro hx; clear_value x) | extract_lets -underBinder +onlyGivenNames x | with_reducible first | apply kept_next | apply kept_spelled | apply kept_issue | apply kept_retire | apply kept_orFflags

theorem kept_execFcmpeq {h : Hart} {g : Guard} {pd : PredReg} {rs1 : Reg} {y : Operand} {s : State} (h_s : Kept Q s) : KeptO Q (execFcmpeq h g pd rs1 y s) := by
  unfold execFcmpeq; repeat' first | with_reducible assumption | (intro y; beta_reduce) | with_reducible first | apply kept_next | apply kept_spelled | apply kept_fcompare

theorem kept_execFcmplt {h : Hart} {g : Guard} {pd : PredReg} {rs1 : Reg} {y : Operand} {s : State} (h_s : Kept Q s) : KeptO Q (execFcmplt h g pd rs1 y s) := by
  unfold execFcmplt; repeat' first | with_reducible assumption | (intro y; beta_reduce) | with_reducible first | apply kept_next | apply kept_spelled | apply kept_fcompare

theorem kept_execFcmple {h : Hart} {g : Guard} {pd : PredReg} {rs1 : Reg} {y : Operand} {s : State} (h_s : Kept Q s) : KeptO Q (execFcmple h g pd rs1 y s) := by
  unfold execFcmple; repeat' first | with_reducible assumption | (intro y; beta_reduce) | with_reducible first | apply kept_next | apply kept_spelled | apply kept_fcompare

theorem kept_execFcmpun {h : Hart} {g : Guard} {pd : PredReg} {rs1 : Reg} {y : Operand} {s : State} (h_s : Kept Q s) : KeptO Q (execFcmpun h g pd rs1 y s) := by
  unfold execFcmpun; repeat' first | with_reducible assumption | (intro y; beta_reduce) | with_reducible first | apply kept_next | apply kept_spelled | apply kept_fcompare

end Sys2Proof.Machine
end

