-- ==== Sys2Proof/Laws/KeptRegWrite.lean ====
section
/-! SUPPORT. What the operations of RegWrite keep (`Kept`). -/

namespace Sys2Proof.Machine

set_option linter.all false

variable {Q : Aim}

theorem kept_after {o : Out} {s : State} (h_o : KeptO Q o) : Kept Q (after o s) := by
  obtain ⟨t, rfl, ht⟩ := h_o.out
  exact ht


theorem kept_writeRdyCmd {s : State} {src v : Nat} (h_s : Kept Q s) : Kept Q (writeRdyCmd s src v) := by
  unfold writeRdyCmd; repeat' first | with_reducible assumption | with_reducible first | apply kept_after | apply kept_execGrey | apply kept_execReleaseForce | apply kept_execConfirm | apply kept_rdyResult | split

theorem kept_writeChCtl {s : State} {c v : Nat} (h_s : Kept Q s) : Kept Q (writeChCtl s c v) := by
  unfold writeChCtl; repeat' first | with_reducible assumption | (extract_lets -underBinder +onlyGivenNames x; refine kept_cut (Q := Q) (x := x) ?_ ?_; subst x; rotate_left; intro hx; clear_value x) | extract_lets -underBinder +onlyGivenNames x | with_reducible first | apply kept_ite | apply kept_after | apply kept_execAbort | apply kept_execClearLost | apply kept_execStart | split

theorem kept_writeQCtl {s : State} {q v : Nat} (h_s : Kept Q s) : Kept Q (writeQCtl s q v) := by
  unfold writeQCtl; repeat' first | with_reducible assumption | (extract_lets -underBinder +onlyGivenNames x; refine kept_cut (Q := Q) (x := x) ?_ ?_; subst x; rotate_left; intro hx; clear_value x) | extract_lets -underBinder +onlyGivenNames x | with_reducible first | apply kept_ite | apply kept_after | apply kept_execEnable | apply kept_execDisable | apply kept_execResume | split

theorem kept_triggerPlanes {s : State} {src a v : Nat} (hs : src ≠ 0) (h_s : Kept Q s) : KeptOS Q (triggerPlanes s src a v) := by
  unfold triggerPlanes
  rw [if_neg hs]
  repeat' first | with_reducible assumption | rw [if_neg hs] | with_reducible first | apply kept_ite | apply kept_some | apply kept_none | apply kept_writeRdyCmd | apply kept_after | apply kept_execFltAck | apply kept_execHitClear | apply kept_execBootFwReady | split

/-- What the host writes may restart the device. -/
structure KeptA (L : List Instr) (s : State) : Prop where
  out : ∃ C, Kept ⟨L, C⟩ s
theorem keptA_of {L : List Instr} {C} {s : State} (h : Kept ⟨L, C⟩ s) : KeptA L s := ⟨⟨C, h⟩⟩
theorem keptA_triggerPlanes {s t : State} {src a v : Nat} (h_s : Kept Q s) (e : triggerPlanes s src a v = some t) : KeptA Q.queue t := by
  rcases Decidable.em (src = 0) with h0 | h0
  · unfold triggerPlanes at e
    subst h0
    split at e
    · cases e; exact keptA_of (kept_writeRdyCmd h_s)
    split at e
    · cases e; exact keptA_of (C := Q.clock) (kept_ite (kept_after (kept_execFltAck h_s)) h_s)
    split at e
    · cases e; exact keptA_of (C := Q.clock) (kept_ite (kept_after (kept_execHitClear h_s)) h_s)
    split at e
    · cases e; exact keptA_of (C := Q.clock) (kept_ite (kept_after (kept_execBootFwReady h_s)) h_s)
    split at e
    · cases e
      rw [if_pos rfl]
      obtain ⟨t, C, e, h⟩ := (kept_execBootRestart (value := v) h_s).out
      rw [e]
      exact keptA_of h
    · cases e
  · exact keptA_of ((kept_triggerPlanes h0 h_s).out t e)


theorem kept_trigger {s : State} {src a v : Nat} (hs : src ≠ 0) (h_s : Kept Q s) : KeptOS Q (trigger s src a v) := by
  unfold trigger; repeat' first | with_reducible assumption | with_reducible first | apply kept_ite | apply kept_some | apply kept_none | apply kept_triggerPlanes | apply kept_after | apply kept_execSchAbort | apply kept_writeQCtl | apply kept_writeChCtl | split | refine kept_ofOS ?_ (by assumption) | exact hs
theorem keptA_trigger {s t : State} {src a v : Nat} (h_s : Kept Q s) (e : trigger s src a v = some t) : KeptA Q.queue t := by
  unfold trigger at e
  split at e
  · cases e; rename_i u hu; exact keptA_triggerPlanes h_s hu
  split at e
  · cases e; exact keptA_of (C := Q.clock) (kept_ite (kept_after (kept_execSchAbort h_s)) h_s)
  split at e
  · cases e; exact keptA_of (kept_writeQCtl h_s)
  split at e
  · cases e; exact keptA_of (C := Q.clock) (kept_ite (kept_writeChCtl h_s) h_s)
  · cases e


theorem kept_writeReg {s : State} {src : Nat} {r : RegDesc} {a v m : Nat} (hs : src ≠ 0) (h_s : Kept Q s) : Kept Q (writeReg s src r a v m) := by
  unfold writeReg; repeat' first | with_reducible assumption | (extract_lets -underBinder +onlyGivenNames x; refine kept_cut (Q := Q) (x := x) ?_ ?_; subst x; rotate_left; intro hx; clear_value x) | extract_lets -underBinder +onlyGivenNames x | with_reducible first | apply kept_ite | apply kept_rset | apply kept_trigger | split | refine kept_ofOS ?_ (by assumption) | exact hs
theorem keptA_writeReg {L : List Instr} {s : State} {src : Nat} {r : RegDesc} {a v m : Nat} (h : KeptA L s) : KeptA L (writeReg s src r a v m) := by
  obtain ⟨C, h⟩ := h.out
  unfold writeReg
  extract_lets x
  have hx : Kept ⟨L, C⟩ x := kept_ite (kept_rset h) h
  clear_value x
  split
  · exact keptA_of hx
  split
  · rename_i t e; exact keptA_trigger hx e
  · exact keptA_of hx


theorem kept_writeWord {s : State} {src w v m : Nat} (hs : src ≠ 0) (h_s : Kept Q s) : Kept Q (writeWord s src w v m) := by
  unfold writeWord; repeat' first | with_reducible assumption | (extract_lets -underBinder +onlyGivenNames x; refine kept_cut (Q := Q) (x := x) ?_ ?_; subst x; rotate_left; intro hx; clear_value x) | extract_lets -underBinder +onlyGivenNames x | with_reducible first | apply kept_ite | apply kept_writeReg | split | exact hs
theorem keptA_writeWord {L : List Instr} {s : State} {src w v m : Nat} (h : KeptA L s) : KeptA L (writeWord s src w v m) := by
  unfold writeWord
  split
  · exact keptA_writeReg h
  · exact h


theorem kept_writeDefs {s : State} {src a n v : Nat} (h_s : Kept Q s) : Kept Q (writeDefs s src a n v) := by
  unfold writeDefs; repeat' first | with_reducible assumption | (extract_lets -underBinder +onlyGivenNames x; refine kept_cut (Q := Q) (x := x) ?_ ?_; subst x; rotate_left; intro hx; clear_value x) | extract_lets -underBinder +onlyGivenNames x | with_reducible first | apply kept_ite | apply kept_after | apply kept_execBarrierDefine | split

theorem kept_regWrite {s : State} {src a n v : Nat} (hs : src ≠ 0) (h_s : Kept Q s) : Kept Q (regWrite s src a n v) := by
  unfold regWrite; repeat' first | with_reducible assumption | with_reducible first | apply kept_ite | apply kept_writeDefs | apply kept_writeWord | apply kept_writeReg | split | exact hs
theorem keptA_regWrite {L : List Instr} {s : State} {src a n v : Nat} (h : KeptA L s) : KeptA L (regWrite s src a n v) := by
  obtain ⟨C, k⟩ := h.out
  unfold regWrite
  split
  · exact h
  split
  · exact keptA_of (kept_writeDefs k)
  split
  · exact keptA_writeWord h
  split
  · split
    · exact keptA_writeReg h
    · exact keptA_writeWord (keptA_writeWord h)
  · exact keptA_writeWord h


theorem kept_execRegisterWrite {source addr len value : Nat} {s : State} (h_s : Kept Q s) :
    KeptQ Q.queue (execRegisterWrite source addr len value s) := by
  unfold execRegisterWrite
  split
  · obtain ⟨C, h⟩ := (keptA_regWrite (src := source) (a := addr) (n := len) (v := value) (keptA_of (L := Q.queue) (C := Q.clock) h_s)).out
    exact keptQ_to h
  · exact keptQ_next h_s


end Sys2Proof.Machine
end

