-- ==== Sys2Proof/Laws/KeptLoadStore.lean ====
section
/-! SUPPORT. What the operations of LoadStore keep (`Kept`). -/

namespace Sys2Proof.Machine

set_option linter.all false

variable {Q : Aim}

theorem kept_failAccess {s : State} {h : Hart} {w n k : Nat} (h_s : Kept Q s) : Kept Q (failAccess s h w n k) := by
  unfold failAccess; repeat' first | with_reducible assumption | with_reducible first | apply kept_ite | apply kept_demandFault | apply kept_badRead | split

theorem kept_ctlRead {s : State} {k w n : Nat} (h_s : Kept Q s) : KeptOR Q (ctlRead s k w n) := by
  unfold ctlRead; repeat' first | with_reducible assumption | with_reducible first | apply kept_somePair | apply kept_nonePair | exact kept_mk (by with_reducible assumption) | split

theorem kept_storeNext {s : State} {o : Nat} {l : List Byte} (h_s : Kept Q s) : Kept Q (storeNext s o l) := by
  unfold storeNext; repeat' first | with_reducible assumption | (intro y; beta_reduce) | (extract_lets -underBinder +onlyGivenNames x; refine kept_cut (Q := Q) (x := x) ?_ ?_; subst x; rotate_left; intro hx; clear_value x) | extract_lets -underBinder +onlyGivenNames x | with_reducible first | apply kept_ite | apply kept_foldl | apply kept_markSwitching | apply kept_keepMap | (with_reducible apply kept_mk; first | with_reducible assumption | with_reducible first | apply kept_markSwitching | apply kept_keepMap) | split

theorem kept_ctlWrite {s : State} {k w n v : Nat} (h_s : Kept Q s) : KeptE Q (ctlWrite s k w n v) := by
  unfold ctlWrite; repeat' first | with_reducible assumption | (extract_lets -underBinder +onlyGivenNames x; refine kept_cut (Q := Q) (x := x) ?_ ?_; subst x; rotate_left; intro hx; clear_value x) | extract_lets -underBinder +onlyGivenNames x | with_reducible first | apply kept_ok | apply kept_error | apply kept_regWrite | apply kept_storeNext | apply kept_ctrlPut | (with_reducible apply kept_mk; first | with_reducible assumption | with_reducible first | apply kept_regWrite | apply kept_storeNext | apply kept_ctrlPut) | split | exact Nat.ne_of_gt (by simp [srcCtrl])


theorem kept_loadDevice {h : Hart} {rd : Reg} {w n : Nat} {ext : Nat → Word} {s : State} (h_s : Kept Q s) : Kept Q (loadDevice h rd w n ext s) := by
  unfold loadDevice; repeat' first | with_reducible assumption | (intro y; beta_reduce) | with_reducible first | apply kept_failAccess | apply kept_retire | apply h_ext | split

theorem kept_loadControl {h : Hart} {rd : Reg} {w n : Nat} {ext : Nat → Word} {s : State} (h_s : Kept Q s) : Kept Q (loadControl h rd w n ext s) := by
  unfold loadControl; repeat' first | with_reducible assumption | (intro y; beta_reduce) | with_reducible first | apply kept_ite | apply kept_illegal | apply kept_demandFault | apply kept_ctlRead | apply kept_retire | apply h_ext | split | refine kept_ofOR ?_ (by assumption)

theorem kept_load {h : Hart} {g : Guard} {rd rs1 : Reg} {space : Bool} {imm : BitVec 32} {s : State} {n : Nat} {ext : Nat → Word} (h_s : Kept Q s) : KeptO Q (load h g rd rs1 space imm s n ext) := by
  unfold load; repeat' first | with_reducible assumption | (intro y; beta_reduce) | (extract_lets -underBinder +onlyGivenNames x; refine kept_cut (Q := Q) (x := x) ?_ ?_; subst x; rotate_left; intro hx; clear_value x) | extract_lets -underBinder +onlyGivenNames x | with_reducible first | apply kept_ite | apply kept_iteO | apply kept_next | apply kept_issue | apply kept_loadControl | apply kept_loadDevice | apply h_ext | split

theorem kept_execLd8u {h : Hart} {g : Guard} {rd rs1 : Reg} {space : Bool} {imm : BitVec 32} {s : State} (h_s : Kept Q s) : KeptO Q (execLd8u h g rd rs1 space imm s) := by
  unfold execLd8u; repeat' first | with_reducible assumption | with_reducible first | apply kept_next | apply kept_spelled | apply kept_load

theorem kept_execLd16u {h : Hart} {g : Guard} {rd rs1 : Reg} {space : Bool} {imm : BitVec 32} {s : State} (h_s : Kept Q s) : KeptO Q (execLd16u h g rd rs1 space imm s) := by
  unfold execLd16u; repeat' first | with_reducible assumption | with_reducible first | apply kept_next | apply kept_spelled | apply kept_load

theorem kept_execLd32u {h : Hart} {g : Guard} {rd rs1 : Reg} {space : Bool} {imm : BitVec 32} {s : State} (h_s : Kept Q s) : KeptO Q (execLd32u h g rd rs1 space imm s) := by
  unfold execLd32u; repeat' first | with_reducible assumption | with_reducible first | apply kept_next | apply kept_spelled | apply kept_load

theorem kept_execLd64 {h : Hart} {g : Guard} {rd rs1 : Reg} {space : Bool} {imm : BitVec 32} {s : State} (h_s : Kept Q s) : KeptO Q (execLd64 h g rd rs1 space imm s) := by
  unfold execLd64; repeat' first | with_reducible assumption | with_reducible first | apply kept_next | apply kept_spelled | apply kept_load

theorem kept_execLd8s {h : Hart} {g : Guard} {rd rs1 : Reg} {space : Bool} {imm : BitVec 32} {s : State} (h_s : Kept Q s) : KeptO Q (execLd8s h g rd rs1 space imm s) := by
  unfold execLd8s; repeat' first | with_reducible assumption | with_reducible first | apply kept_next | apply kept_spelled | apply kept_load

theorem kept_execLd16s {h : Hart} {g : Guard} {rd rs1 : Reg} {space : Bool} {imm : BitVec 32} {s : State} (h_s : Kept Q s) : KeptO Q (execLd16s h g rd rs1 space imm s) := by
  unfold execLd16s; repeat' first | with_reducible assumption | with_reducible first | apply kept_next | apply kept_spelled | apply kept_load

theorem kept_execLd32s {h : Hart} {g : Guard} {rd rs1 : Reg} {space : Bool} {imm : BitVec 32} {s : State} (h_s : Kept Q s) : KeptO Q (execLd32s h g rd rs1 space imm s) := by
  unfold execLd32s; repeat' first | with_reducible assumption | with_reducible first | apply kept_next | apply kept_spelled | apply kept_load

theorem kept_strandWrite {s : State} {a : Nat} {l : List Byte} (h_s : Kept Q s) : Kept Q (strandWrite s a l) := by
  unfold strandWrite; repeat' first | with_reducible assumption | with_reducible first | apply kept_taskWrite | apply kept_spoilParts

theorem kept_storeDevice {h : Hart} {w n : Nat} {v : Word} {s : State} (h_s : Kept Q s) : Kept Q (storeDevice h w n v s) := by
  unfold storeDevice; repeat' first | with_reducible assumption | with_reducible first | apply kept_failAccess | apply kept_nextPc | apply kept_strandWrite | split

theorem kept_storeControl {h : Hart} {w n : Nat} {v : Word} {s : State} (h_s : Kept Q s) : Kept Q (storeControl h w n v s) := by
  unfold storeControl; repeat' first | with_reducible assumption | with_reducible first | apply kept_ite | apply kept_illegal | apply kept_demandFault | apply kept_ctlWrite | apply kept_nextPc | split | refine kept_ofE ?_ (by assumption)

theorem kept_store {h : Hart} {g : Guard} {rd rs1 : Reg} {space : Bool} {imm : BitVec 32} {s : State} {n : Nat} (h_s : Kept Q s) : KeptO Q (store h g rd rs1 space imm s n) := by
  unfold store; repeat' first | with_reducible assumption | (intro y; beta_reduce) | (extract_lets -underBinder +onlyGivenNames x; refine kept_cut (Q := Q) (x := x) ?_ ?_; subst x; rotate_left; intro hx; clear_value x) | extract_lets -underBinder +onlyGivenNames x | with_reducible first | apply kept_ite | apply kept_iteO | apply kept_next | apply kept_issue | apply kept_storeControl | apply kept_storeDevice | split

theorem kept_execSt8 {h : Hart} {g : Guard} {rd rs1 : Reg} {space : Bool} {imm : BitVec 32} {s : State} (h_s : Kept Q s) : KeptO Q (execSt8 h g rd rs1 space imm s) := by
  unfold execSt8; repeat' first | with_reducible assumption | with_reducible first | apply kept_next | apply kept_spelled | apply kept_store

theorem kept_execSt16 {h : Hart} {g : Guard} {rd rs1 : Reg} {space : Bool} {imm : BitVec 32} {s : State} (h_s : Kept Q s) : KeptO Q (execSt16 h g rd rs1 space imm s) := by
  unfold execSt16; repeat' first | with_reducible assumption | with_reducible first | apply kept_next | apply kept_spelled | apply kept_store

theorem kept_execSt32 {h : Hart} {g : Guard} {rd rs1 : Reg} {space : Bool} {imm : BitVec 32} {s : State} (h_s : Kept Q s) : KeptO Q (execSt32 h g rd rs1 space imm s) := by
  unfold execSt32; repeat' first | with_reducible assumption | with_reducible first | apply kept_next | apply kept_spelled | apply kept_store

theorem kept_execSt64 {h : Hart} {g : Guard} {rd rs1 : Reg} {space : Bool} {imm : BitVec 32} {s : State} (h_s : Kept Q s) : KeptO Q (execSt64 h g rd rs1 space imm s) := by
  unfold execSt64; repeat' first | with_reducible assumption | with_reducible first | apply kept_next | apply kept_spelled | apply kept_store

theorem kept_atomicAt {h : Hart} {rd : Reg} {w n : Nat} {f : AtomicFn} {s : State} (h_s : Kept Q s) : Kept Q (atomicAt h rd w n f s) := by
  unfold atomicAt; repeat' first | with_reducible assumption | (extract_lets -underBinder +onlyGivenNames x; refine kept_cut (Q := Q) (x := x) ?_ ?_; subst x; rotate_left; intro hx; clear_value x) | extract_lets -underBinder +onlyGivenNames x | with_reducible first | apply kept_failAccess | apply kept_strandWrite | apply kept_retire | apply kept_orFflags | split

theorem kept_atomic {h : Hart} {g : Guard} {rd rs1 : Reg} {s : State} {n : Nat} {f : State → AtomicFn} (h_s : Kept Q s) : KeptO Q (atomic h g rd rs1 s n f) := by
  unfold atomic; repeat' first | with_reducible assumption | (intro y; beta_reduce) | with_reducible first | apply kept_next | apply kept_issue | apply kept_atomicAt | apply h_f

theorem kept_execAadd32 {h : Hart} {g : Guard} {rd rs1 rs2 : Reg} {s : State} (h_s : Kept Q s) : KeptO Q (execAadd32 h g rd rs1 rs2 s) := by
  unfold execAadd32; repeat' first | with_reducible assumption | (intro y; beta_reduce) | with_reducible first | apply kept_next | apply kept_spelled | apply kept_atomic

theorem kept_execAadd64 {h : Hart} {g : Guard} {rd rs1 rs2 : Reg} {s : State} (h_s : Kept Q s) : KeptO Q (execAadd64 h g rd rs1 rs2 s) := by
  unfold execAadd64; repeat' first | with_reducible assumption | (intro y; beta_reduce) | with_reducible first | apply kept_next | apply kept_spelled | apply kept_atomic

theorem kept_execAminu64 {h : Hart} {g : Guard} {rd rs1 rs2 : Reg} {s : State} (h_s : Kept Q s) : KeptO Q (execAminu64 h g rd rs1 rs2 s) := by
  unfold execAminu64; repeat' first | with_reducible assumption | (intro y; beta_reduce) | with_reducible first | apply kept_next | apply kept_spelled | apply kept_atomic

theorem kept_execAmaxu64 {h : Hart} {g : Guard} {rd rs1 rs2 : Reg} {s : State} (h_s : Kept Q s) : KeptO Q (execAmaxu64 h g rd rs1 rs2 s) := by
  unfold execAmaxu64; repeat' first | with_reducible assumption | (intro y; beta_reduce) | with_reducible first | apply kept_next | apply kept_spelled | apply kept_atomic

theorem kept_execAor64 {h : Hart} {g : Guard} {rd rs1 rs2 : Reg} {s : State} (h_s : Kept Q s) : KeptO Q (execAor64 h g rd rs1 rs2 s) := by
  unfold execAor64; repeat' first | with_reducible assumption | (intro y; beta_reduce) | with_reducible first | apply kept_next | apply kept_spelled | apply kept_atomic

theorem kept_execAand64 {h : Hart} {g : Guard} {rd rs1 rs2 : Reg} {s : State} (h_s : Kept Q s) : KeptO Q (execAand64 h g rd rs1 rs2 s) := by
  unfold execAand64; repeat' first | with_reducible assumption | (intro y; beta_reduce) | with_reducible first | apply kept_next | apply kept_spelled | apply kept_atomic

theorem kept_execAswap64 {h : Hart} {g : Guard} {rd rs1 rs2 : Reg} {s : State} (h_s : Kept Q s) : KeptO Q (execAswap64 h g rd rs1 rs2 s) := by
  unfold execAswap64; repeat' first | with_reducible assumption | (intro y; beta_reduce) | with_reducible first | apply kept_next | apply kept_spelled | apply kept_atomic

theorem kept_execAcas64 {h : Hart} {g : Guard} {rd rs1 rs2 rs3 : Reg} {s : State} (h_s : Kept Q s) : KeptO Q (execAcas64 h g rd rs1 rs2 rs3 s) := by
  unfold execAcas64; repeat' first | with_reducible assumption | (intro y; beta_reduce) | with_reducible first | apply kept_ite | apply kept_iteO | apply kept_next | apply kept_spelled | apply kept_atomic | split

theorem kept_execAfadd32 {h : Hart} {g : Guard} {rd rs1 rs2 : Reg} {s : State} (h_s : Kept Q s) : KeptO Q (execAfadd32 h g rd rs1 rs2 s) := by
  unfold execAfadd32; repeat' first | with_reducible assumption | (intro y; beta_reduce) | (extract_lets -underBinder +onlyGivenNames x; refine kept_cut (Q := Q) (x := x) ?_ ?_; subst x; rotate_left; intro hx; clear_value x) | extract_lets -underBinder +onlyGivenNames x | with_reducible first | apply kept_next | apply kept_spelled | apply kept_atomic

end Sys2Proof.Machine
end

