-- ==== Sys2Proof/Laws/KeptMgmt.lean ====
section
/-! SUPPORT. What the operations of Mgmt keep (`Kept`). -/

namespace Sys2Proof.Machine

set_option linter.all false

variable {Q : Aim}

theorem kept_execEntdaa {addr : Nat} {s : State} (h_s : Kept Q s) : KeptO Q (execEntdaa addr s) := by
  unfold execEntdaa; repeat' first | with_reducible assumption | (intro y; beta_reduce) | with_reducible first | apply kept_ite | apply kept_iteO | apply kept_next | apply kept_mgmtMap | (with_reducible apply kept_mk; first | with_reducible assumption | with_reducible first | apply kept_mgmtMap) | split

theorem kept_execRstdaa {s : State} (h_s : Kept Q s) : KeptO Q (execRstdaa s) := by
  unfold execRstdaa; repeat' first | with_reducible assumption | (intro y; beta_reduce) | with_reducible first | apply kept_next | apply kept_mgmtMap | (with_reducible apply kept_mk; first | with_reducible assumption | with_reducible first | apply kept_mgmtMap)

theorem kept_mctpControl {s : State} {f : State → Out} (h_s : Kept Q s) (h_f : ∀ x0, Kept Q x0 → KeptO Q (f x0)) : KeptO Q (mctpControl s f) := by
  unfold mctpControl; repeat' first | with_reducible assumption | (intro y; beta_reduce) | with_reducible first | apply kept_ite | apply kept_iteO | apply kept_next | apply h_f | split

theorem kept_execSetEndpointId {body : List Byte} {s : State} (h_s : Kept Q s) : KeptO Q (execSetEndpointId body s) := by
  unfold execSetEndpointId; repeat' first | with_reducible assumption | (intro y; beta_reduce) | (extract_lets -underBinder +onlyGivenNames x; refine kept_cut (Q := Q) (x := x) ?_ ?_; subst x; rotate_left; intro hx; clear_value x) | extract_lets -underBinder +onlyGivenNames x | with_reducible first | apply kept_ite | apply kept_iteO | apply kept_next | apply kept_mctpControl | apply kept_mgmtAnswer | apply kept_mgmtMap | (with_reducible apply kept_mk; first | with_reducible assumption | with_reducible first | apply kept_mgmtMap) | split

theorem kept_execGetEndpointId {_body : List Byte} {s : State} (h_s : Kept Q s) : KeptO Q (execGetEndpointId _body s) := by
  unfold execGetEndpointId; repeat' first | with_reducible assumption | (intro y; beta_reduce) | with_reducible first | apply kept_next | apply kept_mctpControl | apply kept_mgmtAnswer

theorem kept_execGetEndpointUuid {_body : List Byte} {s : State} (h_s : Kept Q s) : KeptO Q (execGetEndpointUuid _body s) := by
  unfold execGetEndpointUuid; repeat' first | with_reducible assumption | (intro y; beta_reduce) | with_reducible first | apply kept_next | apply kept_mctpControl | apply kept_mgmtAnswer

theorem kept_freeBytes {s : State} {k : Nat} (h_s : Kept Q s) : KeptR Q (freeBytes s k) := by
  unfold freeBytes; repeat' first | with_reducible assumption | (intro y; beta_reduce) | (extract_lets -underBinder +onlyGivenNames x; refine kept_cut (Q := Q) (x := x) ?_ ?_; subst x; rotate_left; intro hx; clear_value x) | extract_lets -underBinder +onlyGivenNames x | with_reducible first | apply kept_drawN | split | with_reducible apply kept_pair | refine kept_ofR ?_ (by assumption) | (apply kept_snd; with_reducible first | apply kept_drawN)

theorem kept_execGetMctpVersionSupport {body : List Byte} {s : State} (h_s : Kept Q s) : KeptO Q (execGetMctpVersionSupport body s) := by
  unfold execGetMctpVersionSupport; repeat' first | with_reducible assumption | (intro y; beta_reduce) | (extract_lets -underBinder +onlyGivenNames x; refine kept_cut (Q := Q) (x := x) ?_ ?_; subst x; rotate_left; intro hx; clear_value x) | extract_lets -underBinder +onlyGivenNames x | with_reducible first | apply kept_ite | apply kept_iteO | apply kept_next | apply kept_mctpControl | apply kept_mgmtAnswer | apply kept_freeBytes | split | refine kept_ofR ?_ (by assumption) | (apply kept_snd; with_reducible first | apply kept_freeBytes)

theorem kept_execGetMessageTypeSupport {_body : List Byte} {s : State} (h_s : Kept Q s) : KeptO Q (execGetMessageTypeSupport _body s) := by
  unfold execGetMessageTypeSupport; repeat' first | with_reducible assumption | (intro y; beta_reduce) | with_reducible first | apply kept_next | apply kept_mctpControl | apply kept_mgmtAnswer

theorem kept_execDirectRead {off len : Nat} {s : State} (h_s : Kept Q s) : KeptO Q (execDirectRead off len s) := by
  unfold execDirectRead; repeat' first | with_reducible assumption | (intro y; beta_reduce) | (extract_lets -underBinder +onlyGivenNames x; refine kept_cut (Q := Q) (x := x) ?_ ?_; subst x; rotate_left; intro hx; clear_value x) | extract_lets -underBinder +onlyGivenNames x | with_reducible first | apply kept_ite | apply kept_iteO | apply kept_next | apply kept_mgmtAnswer | apply kept_mgmtMap | apply kept_drawN | (with_reducible apply kept_mk; first | with_reducible assumption | refine kept_ofR ?_ (by assumption) | with_reducible first | apply kept_mgmtMap) | split | refine kept_ofR ?_ (by assumption) | apply kept_snd | (apply kept_snd; with_reducible first | apply kept_drawN)

theorem kept_mgmtRdy {s : State} {cmd unit : Nat} (h_s : Kept Q s) : Kept Q (mgmtRdy s cmd unit) := by
  unfold mgmtRdy
  extract_lets -underBinder r
  have hr : KeptO Q r := by
    subst r
    split
    · exact kept_execGrey h_s
    · exact kept_execReleaseForce h_s
    · exact kept_next (kept_rdyResult h_s)
  clear_value r
  obtain ⟨t, rfl, ht⟩ := hr.out
  exact ht


theorem kept_execDirectRdyCmd {body : List Byte} {s : State} (h_s : Kept Q s) : KeptO Q (execDirectRdyCmd body s) := by
  unfold execDirectRdyCmd; repeat' first | with_reducible assumption | (extract_lets -underBinder +onlyGivenNames x; refine kept_cut (Q := Q) (x := x) ?_ ?_; subst x; rotate_left; intro hx; clear_value x) | extract_lets -underBinder +onlyGivenNames x | with_reducible first | apply kept_ite | apply kept_iteO | apply kept_next | apply kept_mgmtRdy | apply kept_mgmtAnswer | split

theorem kept_execRead {body : List Byte} {s : State} (h_s : Kept Q s) : KeptO Q (execRead body s) := by
  unfold execRead; repeat' first | with_reducible assumption | (intro y; beta_reduce) | (extract_lets -underBinder +onlyGivenNames x; refine kept_cut (Q := Q) (x := x) ?_ ?_; subst x; rotate_left; intro hx; clear_value x) | extract_lets -underBinder +onlyGivenNames x | with_reducible first | apply kept_ite | apply kept_iteO | apply kept_next | apply kept_mgmtAnswer | apply kept_drawN | split | refine kept_ofR ?_ (by assumption) | apply kept_snd | (apply kept_snd; with_reducible first | apply kept_drawN)

theorem kept_execForce {body : List Byte} {s : State} (h_s : Kept Q s) : KeptO Q (execForce body s) := by
  unfold execForce; repeat' first | with_reducible assumption | (extract_lets -underBinder +onlyGivenNames x; refine kept_cut (Q := Q) (x := x) ?_ ?_; subst x; rotate_left; intro hx; clear_value x) | extract_lets -underBinder +onlyGivenNames x | with_reducible first | apply kept_ite | apply kept_iteO | apply kept_next | apply kept_mgmtRdy | apply kept_mgmtAnswer | split

theorem kept_execAlertMask {body : List Byte} {s : State} (h_s : Kept Q s) : KeptO Q (execAlertMask body s) := by
  unfold execAlertMask; repeat' first | with_reducible assumption | with_reducible first | apply kept_ite | apply kept_iteO | apply kept_next | apply kept_mgmtAnswer | apply kept_fset | split

theorem kept_sampleSensors {s : State} (h_s : Kept Q s) : Kept Q (sampleSensors s) := by
  unfold sampleSensors; repeat' first | with_reducible assumption | (intro y; beta_reduce) | (extract_lets -underBinder +onlyGivenNames x; refine kept_cut (Q := Q) (x := x) ?_ ?_; subst x; rotate_left; intro hx; clear_value x) | extract_lets -underBinder +onlyGivenNames x | with_reducible first | apply kept_drawN | apply kept_mgmtMap | (with_reducible apply kept_mk; first | with_reducible assumption | refine kept_ofR ?_ (by assumption) | with_reducible first | apply kept_mgmtMap) | split | refine kept_ofR ?_ (by assumption) | (apply kept_snd; with_reducible first | apply kept_drawN)

theorem kept_sensorsNow {s : State} (h_s : Kept Q s) : Kept Q (sensorsNow s) := by
  unfold sensorsNow; repeat' first | with_reducible assumption | with_reducible first | apply kept_ite | apply kept_sampleSensors | split

theorem kept_pldm {s : State} {f : State → Out} (h_s : Kept Q s) (h_f : ∀ x0, Kept Q x0 → KeptO Q (f x0)) : KeptO Q (pldm s f) := by
  unfold pldm; repeat' first | with_reducible assumption | (intro y; beta_reduce) | with_reducible first | apply kept_ite | apply kept_iteO | apply kept_next | apply h_f | split

theorem kept_execGettid {_body : List Byte} {s : State} (h_s : Kept Q s) : KeptO Q (execGettid _body s) := by
  unfold execGettid; repeat' first | with_reducible assumption | (intro y; beta_reduce) | with_reducible first | apply kept_next | apply kept_pldm | apply kept_mgmtAnswer

theorem kept_execGetpldmversion {body : List Byte} {s : State} (h_s : Kept Q s) : KeptO Q (execGetpldmversion body s) := by
  unfold execGetpldmversion; repeat' first | with_reducible assumption | (intro y; beta_reduce) | with_reducible first | apply kept_next | apply kept_pldm | apply kept_mgmtAnswer | split

theorem kept_execGetpldmtypes {_body : List Byte} {s : State} (h_s : Kept Q s) : KeptO Q (execGetpldmtypes _body s) := by
  unfold execGetpldmtypes; repeat' first | with_reducible assumption | (intro y; beta_reduce) | with_reducible first | apply kept_next | apply kept_pldm | apply kept_mgmtAnswer

theorem kept_execGetpldmcommands {body : List Byte} {s : State} (h_s : Kept Q s) : KeptO Q (execGetpldmcommands body s) := by
  unfold execGetpldmcommands; repeat' first | with_reducible assumption | (intro y; beta_reduce) | with_reducible first | apply kept_next | apply kept_foldl | apply kept_pldm | apply kept_mgmtAnswer | split

theorem kept_numericPdr {s : State} {i : Nat} {x : Sensor} (h_s : Kept Q s) : KeptR Q (numericPdr s i x) := by
  unfold numericPdr; repeat' first | with_reducible assumption | (intro y; beta_reduce) | (extract_lets -underBinder +onlyGivenNames x; refine kept_cut (Q := Q) (x := x) ?_ ?_; subst x; rotate_left; intro hx; clear_value x) | extract_lets -underBinder +onlyGivenNames x | with_reducible first | apply kept_ite | apply kept_iteR | apply kept_freeBytes | split | with_reducible apply kept_pair | refine kept_ofR ?_ (by assumption) | (apply kept_snd; with_reducible first | apply kept_freeBytes)

theorem kept_statePdr {s : State} {i : Nat} (h_s : Kept Q s) : KeptR Q (statePdr s i) := by
  unfold statePdr; repeat' first | with_reducible assumption | (extract_lets -underBinder +onlyGivenNames x; refine kept_cut (Q := Q) (x := x) ?_ ?_; subst x; rotate_left; intro hx; clear_value x) | extract_lets -underBinder +onlyGivenNames x | with_reducible first | apply kept_ite | apply kept_iteR | apply kept_freeBytes | split | with_reducible apply kept_pair | refine kept_ofR ?_ (by assumption) | (apply kept_snd; with_reducible first | apply kept_freeBytes)

theorem kept_pdrOf {s : State} {h : Nat} (h_s : Kept Q s) : KeptR Q (pdrOf s h) := by
  unfold pdrOf
  extract_lets -underBinder i
  clear_value i
  split
  rename_i e
  apply kept_pair
  split at e
  · split at e
    rename_i e2
    cases e
    exact kept_ofR (kept_numericPdr h_s) e2
  · split at e
    rename_i e2
    cases e
    exact kept_ofR (kept_statePdr h_s) e2


theorem kept_execGetpdrrepositoryinfo {_body : List Byte} {s : State} (h_s : Kept Q s) : KeptO Q (execGetpdrrepositoryinfo _body s) := by
  unfold execGetpdrrepositoryinfo; repeat' first | with_reducible assumption | (intro y; beta_reduce) | (extract_lets -underBinder +onlyGivenNames x; refine kept_cut (Q := Q) (x := x) ?_ ?_; subst x; rotate_left; intro hx; clear_value x) | extract_lets -underBinder +onlyGivenNames x | with_reducible first | apply kept_next | apply kept_foldl | apply kept_pldm | apply kept_freeBytes | apply kept_pdrOf | apply kept_mgmtAnswer | split | refine kept_ofR ?_ (by assumption) | apply kept_fst | (apply kept_snd; with_reducible first | apply kept_freeBytes | apply kept_pdrOf)

theorem kept_execGetpdr {body : List Byte} {s : State} (h_s : Kept Q s) : KeptO Q (execGetpdr body s) := by
  unfold execGetpdr; repeat' first | with_reducible assumption | (intro y; beta_reduce) | (extract_lets -underBinder +onlyGivenNames x; refine kept_cut (Q := Q) (x := x) ?_ ?_; subst x; rotate_left; intro hx; clear_value x) | extract_lets -underBinder +onlyGivenNames x | with_reducible first | apply kept_ite | apply kept_iteO | apply kept_next | apply kept_pldm | apply kept_mgmtAnswer | apply kept_pdrOf | split | refine kept_ofR ?_ (by assumption) | (apply kept_snd; with_reducible first | apply kept_pdrOf)

theorem kept_execGetsensorreading {body : List Byte} {s : State} (h_s : Kept Q s) : KeptO Q (execGetsensorreading body s) := by
  unfold execGetsensorreading; repeat' first | with_reducible assumption | (intro y; beta_reduce) | (extract_lets -underBinder +onlyGivenNames x; refine kept_cut (Q := Q) (x := x) ?_ ?_; subst x; rotate_left; intro hx; clear_value x) | extract_lets -underBinder +onlyGivenNames x | with_reducible first | apply kept_ite | apply kept_iteO | apply kept_next | apply kept_pldm | apply kept_mgmtAnswer | apply kept_sensorsNow | apply kept_freeBytes | split | refine kept_ofR ?_ (by assumption) | (apply kept_snd; with_reducible first | apply kept_freeBytes)

theorem kept_execGetstatesensorreadings {body : List Byte} {s : State} (h_s : Kept Q s) : KeptO Q (execGetstatesensorreadings body s) := by
  unfold execGetstatesensorreadings; repeat' first | with_reducible assumption | (intro y; beta_reduce) | (extract_lets -underBinder +onlyGivenNames x; refine kept_cut (Q := Q) (x := x) ?_ ?_; subst x; rotate_left; intro hx; clear_value x) | extract_lets -underBinder +onlyGivenNames x | with_reducible first | apply kept_ite | apply kept_iteO | apply kept_next | apply kept_pldm | apply kept_mgmtAnswer | apply kept_sensorsNow | apply kept_freeBytes | split | refine kept_ofR ?_ (by assumption) | (apply kept_snd; with_reducible first | apply kept_freeBytes)

theorem kept_pldmFw {s : State} {f : State → Out} (h_s : Kept Q s) (h_f : ∀ x0, Kept Q x0 → KeptO Q (f x0)) : KeptO Q (pldmFw s f) := by
  unfold pldmFw; repeat' first | with_reducible assumption | (intro y; beta_reduce) | with_reducible first | apply kept_ite | apply kept_iteO | apply kept_next | apply h_f | split

theorem kept_execRequestupdate {body : List Byte} {s : State} (h_s : Kept Q s) : KeptO Q (execRequestupdate body s) := by
  unfold execRequestupdate; repeat' first | with_reducible assumption | (intro y; beta_reduce) | with_reducible first | apply kept_ite | apply kept_iteO | apply kept_next | apply kept_pldmFw | apply kept_mgmtAnswer | apply kept_mgmtMap | (with_reducible apply kept_mk; first | with_reducible assumption | with_reducible first | apply kept_mgmtMap) | split

theorem kept_execUpdatecomponent {body : List Byte} {s : State} (h_s : Kept Q s) : KeptO Q (execUpdatecomponent body s) := by
  unfold execUpdatecomponent; repeat' first | with_reducible assumption | (intro y; beta_reduce) | (extract_lets -underBinder +onlyGivenNames x; refine kept_cut (Q := Q) (x := x) ?_ ?_; subst x; rotate_left; intro hx; clear_value x) | extract_lets -underBinder +onlyGivenNames x | with_reducible first | apply kept_ite | apply kept_iteO | apply kept_next | apply kept_foldl | apply kept_pldmFw | apply kept_refuse | apply kept_mgmtAnswer | apply kept_putFlash | apply kept_mgmtMap | (with_reducible apply kept_mk; first | with_reducible assumption | with_reducible first | apply kept_refuse | apply kept_putFlash | apply kept_mgmtMap) | split

theorem kept_componentDone {s : State} {t : Transfer} (h_s : Kept Q s) : Kept Q (componentDone s t) := by
  unfold componentDone; repeat' first | with_reducible assumption | (intro y; beta_reduce) | (extract_lets -underBinder +onlyGivenNames x; refine kept_cut (Q := Q) (x := x) ?_ ?_; subst x; rotate_left; intro hx; clear_value x) | extract_lets -underBinder +onlyGivenNames x | with_reducible first | apply kept_ite | apply kept_foldl | apply kept_putFlash | apply kept_keepMap | apply kept_setUnit | (with_reducible apply kept_mk; first | with_reducible assumption | with_reducible first | apply kept_putFlash | apply kept_keepMap | apply kept_setUnit) | split

theorem kept_execComponentDataTransfer {body : List Byte} {s : State} (h_s : Kept Q s) : KeptO Q (execComponentDataTransfer body s) := by
  unfold execComponentDataTransfer; repeat' first | with_reducible assumption | (intro y; beta_reduce) | (extract_lets -underBinder +onlyGivenNames x; refine kept_cut (Q := Q) (x := x) ?_ ?_; subst x; rotate_left; intro hx; clear_value x) | extract_lets -underBinder +onlyGivenNames x | with_reducible first | apply kept_ite | apply kept_iteO | apply kept_next | apply kept_pldmFw | apply kept_mgmtAnswer | apply kept_mgmtMap | apply kept_componentDone | (with_reducible apply kept_mk; first | with_reducible assumption | with_reducible first | apply kept_mgmtMap | apply kept_componentDone) | split

theorem kept_execVerifycomplete {_body : List Byte} {s : State} (h_s : Kept Q s) : KeptO Q (execVerifycomplete _body s) := by
  unfold execVerifycomplete; repeat' first | with_reducible assumption | (intro y; beta_reduce) | with_reducible first | apply kept_ite | apply kept_iteO | apply kept_next | apply kept_pldmFw | apply kept_mgmtAnswer | apply kept_mgmtMap | (with_reducible apply kept_mk; first | with_reducible assumption | with_reducible first | apply kept_mgmtMap) | split

theorem kept_activateSlot {s : State} {k : Nat} (h_s : Kept Q s) : Kept Q (activateSlot s k) := by
  unfold activateSlot; repeat' first | with_reducible assumption | (intro y; beta_reduce) | (extract_lets -underBinder +onlyGivenNames x; refine kept_cut (Q := Q) (x := x) ?_ ?_; subst x; rotate_left; intro hx; clear_value x) | extract_lets -underBinder +onlyGivenNames x | with_reducible first | apply kept_ite | apply kept_bootMap | (with_reducible apply kept_mk; first | with_reducible assumption | with_reducible first | apply kept_bootMap) | split

theorem kept_execActivatefirmware {_body : List Byte} {s : State} (h_s : Kept Q s) : KeptO Q (execActivatefirmware _body s) := by
  unfold execActivatefirmware; repeat' first | with_reducible assumption | (intro y; beta_reduce) | (extract_lets -underBinder +onlyGivenNames x; refine kept_cut (Q := Q) (x := x) ?_ ?_; subst x; rotate_left; intro hx; clear_value x) | extract_lets -underBinder +onlyGivenNames x | with_reducible first | apply kept_ite | apply kept_iteO | apply kept_next | apply kept_foldl | apply kept_pldmFw | apply kept_mgmtAnswer | apply kept_activateSlot | apply kept_mgmtMap | apply kept_keepMap | apply kept_freeBytes | (with_reducible apply kept_mk; first | with_reducible assumption | refine kept_ofR ?_ (by assumption) | with_reducible first | apply kept_activateSlot | apply kept_mgmtMap | apply kept_keepMap) | split | refine kept_ofR ?_ (by assumption) | (apply kept_snd; with_reducible first | apply kept_freeBytes)

theorem kept_execCancelupdatecomponent {_body : List Byte} {s : State} (h_s : Kept Q s) : KeptO Q (execCancelupdatecomponent _body s) := by
  unfold execCancelupdatecomponent; repeat' first | with_reducible assumption | (intro y; beta_reduce) | with_reducible first | apply kept_ite | apply kept_iteO | apply kept_next | apply kept_pldmFw | apply kept_mgmtAnswer | apply kept_mgmtMap | (with_reducible apply kept_mk; first | with_reducible assumption | with_reducible first | apply kept_mgmtMap) | split

theorem kept_execCancelupdate {_body : List Byte} {s : State} (h_s : Kept Q s) : KeptO Q (execCancelupdate _body s) := by
  unfold execCancelupdate; repeat' first | with_reducible assumption | (intro y; beta_reduce) | with_reducible first | apply kept_ite | apply kept_iteO | apply kept_next | apply kept_pldmFw | apply kept_mgmtAnswer | apply kept_mgmtMap | (with_reducible apply kept_mk; first | with_reducible assumption | with_reducible first | apply kept_mgmtMap) | split

end Sys2Proof.Machine
end

