-- ==== Sys2Proof/Laws/KeptTelemetry.lean ====
section
/-! SUPPORT. What the operations of Telemetry keep (`Kept`). -/

namespace Sys2Proof.Machine

set_option linter.all false

variable {Q : Aim}

theorem kept_writeCoreRing {s : State} (h_s : Kept Q s) : Kept Q (writeCoreRing s) := by
  unfold writeCoreRing; repeat' first | with_reducible assumption | (intro y; beta_reduce) | (extract_lets -underBinder +onlyGivenNames x; refine kept_cut (Q := Q) (x := x) ?_ ?_; subst x; rotate_left; intro hx; clear_value x) | extract_lets -underBinder +onlyGivenNames x | with_reducible first | apply kept_foldl | apply kept_mgmtMap | (with_reducible apply kept_mk; first | with_reducible assumption | with_reducible first | apply kept_mgmtMap)

theorem kept_writeDevRing {s : State} (h_s : Kept Q s) : Kept Q (writeDevRing s) := by
  unfold writeDevRing; repeat' first | with_reducible assumption | (intro y; beta_reduce) | (extract_lets -underBinder +onlyGivenNames x; refine kept_cut (Q := Q) (x := x) ?_ ?_; subst x; rotate_left; intro hx; clear_value x) | extract_lets -underBinder +onlyGivenNames x | with_reducible first | apply kept_foldl | apply kept_rset | apply kept_mgmtMap | (with_reducible apply kept_mk; first | with_reducible assumption | with_reducible first | apply kept_rset | apply kept_mgmtMap)

end Sys2Proof.Machine
end

