-- ==== Sys2Proof/Laws/KeptSummary.lean ====
section
/-! SUPPORT. What the operations of Summary keep (`Kept`). -/

namespace Sys2Proof.Machine

set_option linter.all false

variable {Q : Aim}

theorem kept_skipCommon {s : State} {k : Nat × List Byte} {dev : Nat} (h_s : Kept Q s) : Kept Q (skipCommon s k dev) := by
  unfold skipCommon; repeat' first | with_reducible assumption | (intro y; beta_reduce) | (extract_lets -underBinder +onlyGivenNames x; refine kept_cut (Q := Q) (x := x) ?_ ?_; subst x; rotate_left; intro hx; clear_value x) | extract_lets -underBinder +onlyGivenNames x | with_reducible first | apply kept_ite | apply kept_markSwitching | apply kept_tsqMap | apply kept_report | apply kept_event | (with_reducible apply kept_mk; first | with_reducible assumption | with_reducible first | apply kept_markSwitching | apply kept_tsqMap | apply kept_report | apply kept_event) | split | with_reducible rfl

theorem kept_sendVeto {s : State} {dev : Nat} {entries : List (List Byte)} (h_s : Kept Q s) : Kept Q (sendVeto s dev entries) := by
  unfold sendVeto; repeat' first | with_reducible assumption | (intro y; beta_reduce) | (extract_lets -underBinder +onlyGivenNames x; refine kept_cut (Q := Q) (x := x) ?_ ?_; subst x; rotate_left; intro hx; clear_value x) | extract_lets -underBinder +onlyGivenNames x | with_reducible first | apply kept_foldl | apply kept_newTag | apply kept_sendTagged | apply kept_tsqMap | (with_reducible apply kept_mk; first | with_reducible assumption | refine kept_ofR ?_ (by assumption) | with_reducible first | apply kept_tsqMap) | split | refine kept_ofR ?_ (by assumption) | (apply kept_snd; with_reducible first | apply kept_newTag | apply kept_sendTagged) | with_reducible rfl

theorem kept_sendVetoes {s : State} (h_s : Kept Q s) : Kept Q (sendVetoes s) := by
  unfold sendVetoes; repeat' first | with_reducible assumption | (intro y; beta_reduce) | (extract_lets -underBinder +onlyGivenNames x; refine kept_cut (Q := Q) (x := x) ?_ ?_; subst x; rotate_left; intro hx; clear_value x) | extract_lets -underBinder +onlyGivenNames x | with_reducible first | apply kept_foldl | apply kept_skipCommon | apply kept_tsqMap | apply kept_sendVeto | (with_reducible apply kept_mk; first | with_reducible assumption | with_reducible first | apply kept_skipCommon | apply kept_tsqMap | apply kept_sendVeto) | split | with_reducible rfl

theorem kept_greyVetoes {s : State} (h_s : Kept Q s) : Kept Q (greyVetoes s) := by
  unfold greyVetoes; repeat' first | with_reducible assumption | (intro y; beta_reduce) | (extract_lets -underBinder +onlyGivenNames x; refine kept_cut (Q := Q) (x := x) ?_ ?_; subst x; rotate_left; intro hx; clear_value x) | extract_lets -underBinder +onlyGivenNames x | with_reducible first | apply kept_ite | apply kept_foldl | apply kept_event | apply kept_vetoGrey | split

theorem kept_execSummaryPlanRx {src tag : Nat} {body : List Byte} {s : State} (h_s : Kept Q s) : KeptO Q (execSummaryPlanRx src tag body s) := by
  unfold execSummaryPlanRx; repeat' first | with_reducible assumption | (intro y; beta_reduce) | (extract_lets -underBinder +onlyGivenNames x; refine kept_cut (Q := Q) (x := x) ?_ ?_; subst x; rotate_left; intro hx; clear_value x) | extract_lets -underBinder +onlyGivenNames x | with_reducible first | apply kept_ite | apply kept_iteO | apply kept_next | apply kept_foldl | apply kept_powered | apply kept_noteCfg | apply kept_takeMsg | apply kept_tsqMap | apply kept_breakBarrier | (with_reducible apply kept_mk; first | with_reducible assumption | with_reducible first | apply kept_noteCfg | apply kept_takeMsg | apply kept_tsqMap | apply kept_breakBarrier) | split | with_reducible rfl

theorem kept_execSummaryVetoRx {src tag : Nat} {body : List Byte} {s : State} (h_s : Kept Q s) : KeptO Q (execSummaryVetoRx src tag body s) := by
  unfold execSummaryVetoRx; repeat' first | with_reducible assumption | (intro y; beta_reduce) | (extract_lets -underBinder +onlyGivenNames x; refine kept_cut (Q := Q) (x := x) ?_ ?_; subst x; rotate_left; intro hx; clear_value x) | extract_lets -underBinder +onlyGivenNames x | with_reducible first | apply kept_ite | apply kept_iteO | apply kept_next | apply kept_foldl | apply kept_powered | apply kept_noteCfg | apply kept_takeMsg | apply kept_skipCommon | split

end Sys2Proof.Machine
end

