-- ==== Sys2Proof/Laws/KeptSystem.lean ====
section
/-! SUPPORT. What the operations of System keep (`Kept`). -/

namespace Sys2Proof.Machine

set_option linter.all false

variable {Q : Aim}

theorem kept_execNop {h : Hart} {g : Guard} {s : State} (h_s : Kept Q s) : KeptO Q (execNop h g s) := by
  unfold execNop; repeat' first | with_reducible assumption | (intro y; beta_reduce) | with_reducible first | apply kept_next | apply kept_spelled | apply kept_issue | apply kept_nextPc

theorem kept_execMfence {h : Hart} {g : Guard} {s : State} (h_s : Kept Q s) : KeptO Q (execMfence h g s) := by
  unfold execMfence; repeat' first | with_reducible assumption | (intro y; beta_reduce) | with_reducible first | apply kept_next | apply kept_spelled | apply kept_issue | apply kept_nextPc

theorem kept_execMfs {h : Hart} {g : Guard} {rd : Reg} {idx : BitVec 12} {s : State} (h_s : Kept Q s) : KeptO Q (execMfs h g rd idx s) := by
  unfold execMfs; repeat' first | with_reducible assumption | (intro y; beta_reduce) | with_reducible first | apply kept_next | apply kept_spelled | apply kept_issue | apply kept_retire | apply kept_illegal | split

theorem kept_execMts {h : Hart} {g : Guard} {rs1 : Reg} {idx : BitVec 12} {s : State} (h_s : Kept Q s) : KeptO Q (execMts h g rs1 idx s) := by
  unfold execMts; repeat' first | with_reducible assumption | (intro y; beta_reduce) | (extract_lets -underBinder +onlyGivenNames x; refine kept_cut (Q := Q) (x := x) ?_ ?_; subst x; rotate_left; intro hx; clear_value x) | extract_lets -underBinder +onlyGivenNames x | with_reducible first | apply kept_ite | apply kept_iteO | apply kept_next | apply kept_spelled | apply kept_issue | apply kept_nextPc | apply kept_putHart | apply kept_illegal | (with_reducible apply kept_mk; first | with_reducible assumption | with_reducible first | apply kept_nextPc | apply kept_putHart | apply kept_illegal) | split

theorem kept_execSpawn {h : Hart} {g : Guard} {rd rs1 : Reg} {s : State} (h_s : Kept Q s) : KeptO Q (execSpawn h g rd rs1 s) := by
  unfold execSpawn; repeat' first | with_reducible assumption | (intro y; beta_reduce) | (extract_lets -underBinder +onlyGivenNames x; refine kept_cut (Q := Q) (x := x) ?_ ?_; subst x; rotate_left; intro hx; clear_value x) | extract_lets -underBinder +onlyGivenNames x | with_reducible first | apply kept_ite | apply kept_iteO | apply kept_next | apply kept_spelled | apply kept_issue | apply kept_strandOnly | apply kept_demandFault | apply kept_submit | apply kept_telPut | apply kept_waitRoom | apply kept_retire | apply kept_accepted | (with_reducible apply kept_mk; first | with_reducible assumption | refine kept_ofR ?_ (by assumption) | with_reducible first | apply kept_strandOnly | apply kept_demandFault | apply kept_telPut | apply kept_waitRoom | apply kept_retire | apply kept_accepted) | split | refine kept_ofR ?_ (by assumption) | (apply kept_snd; with_reducible first | apply kept_submit)

theorem kept_execTend {h : Hart} {g : Guard} {rs1 : Reg} {s : State} (h_s : Kept Q s) : KeptO Q (execTend h g rs1 s) := by
  unfold execTend; repeat' first | with_reducible assumption | (intro y; beta_reduce) | (extract_lets -underBinder +onlyGivenNames x; refine kept_cut (Q := Q) (x := x) ?_ ?_; subst x; rotate_left; intro hx; clear_value x) | extract_lets -underBinder +onlyGivenNames x | with_reducible first | apply kept_next | apply kept_spelled | apply kept_issue | apply kept_strandOnly | apply kept_taskPut | apply kept_putHart | (with_reducible apply kept_mk; first | with_reducible assumption | with_reducible first | apply kept_strandOnly | apply kept_taskPut | apply kept_putHart) | split | assumption

end Sys2Proof.Machine
end

