-- ==== Sys2Proof/Laws/KeptTick.lean ====
section
/-! SUPPORT. What the operations of Tick keep (`Kept`). -/

namespace Sys2Proof.Machine

set_option linter.all false

variable {Q : Aim}

theorem kept_notePeak {s : State} {p : Nat} (h_s : Kept Q s) : Kept Q (notePeak s p) := by
  unfold notePeak; repeat' first | with_reducible assumption | (extract_lets -underBinder +onlyGivenNames x; refine kept_cut (Q := Q) (x := x) ?_ ?_; subst x; rotate_left; intro hx; clear_value x) | extract_lets -underBinder +onlyGivenNames x | with_reducible first | apply kept_ite | apply kept_draw | apply kept_corePut | (with_reducible apply kept_mk; first | with_reducible assumption | refine kept_ofR ?_ (by assumption) | with_reducible first | apply kept_corePut) | split | refine kept_ofR ?_ (by assumption) | (apply kept_snd; with_reducible first | apply kept_draw)

theorem kept_clearTick {s : State} (h_s : Kept Q s) : Kept Q (clearTick s) := by
  unfold clearTick
  apply kept_mgmtMap
  refine kept_updMap (kept_foldl (kept_foldl ?_ fun _ _ h => kept_noteDepth h) fun _ _ h => kept_notePeak h) rfl
  exact ⟨h_s.queue, h_s.clock, { h_s.canon with
    chans := mwf_map_filter (fun c => { c.2 with timeouts := 0, corrTick := 0 }) (fun c => decide (c.2 ≠ chanReset))
      (fun _ h => of_decide_eq_true h) h_s.canon.chans }⟩


theorem kept_serviceTick {s : State} (h_s : Kept Q s) : Kept Q (serviceTick s) := by
  unfold serviceTick; repeat' first | with_reducible assumption | (intro y; beta_reduce) | with_reducible first | apply kept_mgmtMap | apply kept_keepMap | (with_reducible apply kept_mk; first | with_reducible assumption | with_reducible first | apply kept_mgmtMap | apply kept_keepMap) | split

theorem kept_tickPins {s : State} (h_s : Kept Q s) : Kept Q (tickPins s) := by
  unfold tickPins; repeat' first | with_reducible assumption | (intro y; beta_reduce) | (extract_lets -underBinder +onlyGivenNames x; refine kept_cut (Q := Q) (x := x) ?_ ?_; subst x; rotate_left; intro hx; clear_value x) | extract_lets -underBinder +onlyGivenNames x | with_reducible first | apply kept_ite | apply kept_elecMap | apply kept_tickOutEdge | apply kept_mgmtMap | (with_reducible apply kept_mk; first | with_reducible assumption | with_reducible first | apply kept_elecMap | apply kept_tickOutEdge | apply kept_mgmtMap) | split

theorem kept_beginTick {n : Nat} {s : State} (h_s : Kept Q s) :
    Kept ⟨Q.queue, (s.tsq.running, n, tickAt s n, .prime, 0)⟩ (beginTick n s) := by
  unfold beginTick
  extract_lets -underBinder +onlyGivenNames s1 s2
  have h2 : Kept ⟨Q.queue, (s.tsq.running, n, tickAt s n, .prime, 0)⟩ s2 := by
    have h1 : Kept ⟨Q.queue, tickClock s2⟩ s2 := kept_tsqTo (kept_clearTick (kept_advance h_s))
    have e1 : (clearTick s1).tsq.running = s.tsq.running :=
      congrArg (·.1) ((kept_clearTick (kept_advance (t := tickAt s n) h_s)).clock.trans h_s.clock.symm)
    have e2 : tickAt s1 n = tickAt s n := by show tickAt (advance s (tickAt s n)) n = _; rw [advance_only]; rfl
    have e : tickClock s2 = (s.tsq.running, n, tickAt s n, .prime, 0) := by rw [← e1, ← e2]; rfl
    rw [← e]; exact h1
  clear_value s2
  clear s1
  generalize (s.tsq.running, n, tickAt s n, Phase.prime, 0) = C at h2 ⊢
  clear h_s
  generalize (⟨Q.queue, C⟩ : Aim) = Q at h2 ⊢
  repeat' first | with_reducible assumption | (intro y; beta_reduce) | (extract_lets -underBinder +onlyGivenNames x; refine kept_cut (Q := Q) (x := x) ?_ ?_; subst x; rotate_left; intro hx; clear_value x) | extract_lets -underBinder +onlyGivenNames x | with_reducible first | apply kept_ite | apply kept_foldl | apply kept_advance | apply kept_tsqMap | apply kept_clearTick | apply kept_tickPins | apply kept_serviceTick | apply kept_restartCtrls | apply kept_actThermal | apply kept_openGates | apply kept_placeReruns | apply kept_takeOver | apply kept_delayedAtStart | apply kept_askGaps | apply kept_serveDeferred | (with_reducible apply kept_mk; first | with_reducible assumption | with_reducible first | apply kept_advance | apply kept_tsqMap | apply kept_clearTick | apply kept_tickPins | apply kept_serviceTick | apply kept_restartCtrls | apply kept_actThermal | apply kept_openGates | apply kept_placeReruns | apply kept_takeOver | apply kept_delayedAtStart | apply kept_askGaps | apply kept_serveDeferred) | split


theorem kept_jumpTo {s : State} {m : Nat} (h_s : Kept Q s) : Kept Q (jumpTo s m) := by
  unfold jumpTo; repeat' first | with_reducible assumption | (intro y; beta_reduce) | (extract_lets -underBinder +onlyGivenNames x; refine kept_cut (Q := Q) (x := x) ?_ ?_; subst x; rotate_left; intro hx; clear_value x) | extract_lets -underBinder +onlyGivenNames x | with_reducible first | apply kept_timMap | (with_reducible apply kept_mk; first | with_reducible assumption | with_reducible first | apply kept_timMap) | with_reducible rfl

theorem kept_execTickStart {s : State} (h_s : Kept Q s) : KeptQ Q.queue (execTickStart s) := by
  unfold execTickStart; split
  · exact keptQ_next h_s
  · split
    · exact keptQ_to (kept_beginTick (kept_jumpTo h_s))
    · exact keptQ_to (kept_beginTick h_s)


theorem kept_raiseFloors {s : State} (h_s : Kept Q s) : Kept Q (raiseFloors s) := by
  unfold raiseFloors; repeat' first | with_reducible assumption | (intro y; beta_reduce) | (extract_lets -underBinder +onlyGivenNames x; refine kept_cut (Q := Q) (x := x) ?_ ?_; subst x; rotate_left; intro hx; clear_value x) | extract_lets -underBinder +onlyGivenNames x | with_reducible first | apply kept_foldl | apply kept_keepMap | (with_reducible apply kept_mk; first | with_reducible assumption | with_reducible first | apply kept_keepMap) | split

theorem kept_execFirstTickStart {s : State} (h_s : Kept Q s) : KeptQ Q.queue (execFirstTickStart s) := by
  unfold execFirstTickStart; split
  · exact keptQ_next h_s
  · rename_i n _
    extract_lets plan s1 s2
    have h : Kept ⟨Q.queue, tickClock s2⟩ s2 := kept_tsqTo (kept_raiseFloors (kept_setStage (kept_rset h_s)))
    have k := kept_beginTick (n := n) h
    exact keptQ_to k


theorem kept_execRunBegin {s : State} (h_s : Kept Q s) : KeptQ Q.queue (execRunBegin s) := by
  unfold execRunBegin; split
  · exact keptQ_next h_s
  · exact keptQ_to (kept_tsqTo (kept_advance h_s))


theorem kept_sampleStrands {s : State} (h_s : Kept Q s) : Kept Q (sampleStrands s) := by
  unfold sampleStrands; repeat' first | with_reducible assumption | (intro y; beta_reduce) | (extract_lets -underBinder +onlyGivenNames x; refine kept_cut (Q := Q) (x := x) ?_ ?_; subst x; rotate_left; intro hx; clear_value x) | extract_lets -underBinder +onlyGivenNames x | with_reducible first | apply kept_foldl | apply kept_rset

theorem kept_execSettlePoint {s : State} (h_s : Kept Q s) : KeptQ Q.queue (execSettlePoint s) := by
  unfold execSettlePoint; split
  · exact keptQ_next h_s
  · exact keptQ_to (kept_sampleStrands (kept_countBacklog (kept_sendHeartbeats (kept_sendVetoes (kept_dropReleases (kept_tsqTo (kept_advance h_s)))))))


theorem kept_cutOff {s : State} (h_s : Kept Q s) : Kept Q (cutOff s) := by
  unfold cutOff; repeat' first | with_reducible assumption | (intro y; beta_reduce) | with_reducible first | apply kept_foldl | apply kept_grantAll | apply kept_endTask

theorem kept_checkPlan {s : State} (h_s : Kept Q s) : Kept Q (checkPlan s) := by
  unfold checkPlan; repeat' first | with_reducible assumption | (intro y; beta_reduce) | (extract_lets -underBinder +onlyGivenNames x; refine kept_cut (Q := Q) (x := x) ?_ ?_; subst x; rotate_left; intro hx; clear_value x) | extract_lets -underBinder +onlyGivenNames x | with_reducible first | apply kept_ite | apply kept_foldl | apply kept_tsqMap | apply kept_event | apply kept_bump1 | apply kept_markSwitching | apply kept_report | apply kept_keepMap | (with_reducible apply kept_mk; first | with_reducible assumption | with_reducible first | apply kept_tsqMap | apply kept_event | apply kept_bump1 | apply kept_markSwitching | apply kept_report | apply kept_keepMap) | split | with_reducible rfl

theorem kept_readReleases {s : State} (h_s : Kept Q s) : Kept Q (readReleases s) := by
  unfold readReleases; repeat' first | with_reducible assumption | with_reducible first | apply kept_ite | (intro y; beta_reduce) | (extract_lets -underBinder +onlyGivenNames x; refine kept_cut (Q := Q) (x := x) ?_ ?_; subst x; rotate_left; intro hx; clear_value x) | extract_lets -underBinder +onlyGivenNames x | (apply kept_snd; with_reducible first | apply kept_enterReleases) | with_reducible first | apply kept_foldl | apply kept_skipItem | apply kept_skipGrey | apply kept_keepReleases | apply kept_enterReleases | split | refine kept_ofR ?_ (by assumption) | (with_reducible apply kept_mk; first | with_reducible assumption | refine kept_ofR ?_ (by assumption) | with_reducible first | apply kept_skipItem | apply kept_skipGrey | apply kept_keepReleases)

theorem kept_readStacks {temps : List (Nat × Nat)} {s : State} (h_s : Kept Q s) : Kept Q (readStacks temps s) := by
  unfold readStacks; repeat' first | with_reducible assumption | (intro y; beta_reduce) | with_reducible first | apply kept_foldl | apply kept_readThermal

theorem kept_execApplyPoint {temps : List (Nat × Nat)} {reach : Nat} {s : State} (h_s : Kept Q s) :
    KeptQ Q.queue (execApplyPoint temps reach s) := by
  unfold execApplyPoint; split
  · exact keptQ_next h_s
  · extract_lets -underBinder +onlyGivenNames s1 s2 s3
    have h1 : Kept ⟨Q.queue, tickClock s1⟩ s1 := kept_tsqTo (kept_advance h_s)
    have h2 : Kept ⟨Q.queue, tickClock s1⟩ s2 := kept_greyVetoes (kept_checkPlan (kept_cutOff (kept_countHeartbeats h1)))
    have h3 : Kept ⟨Q.queue, tickClock s1⟩ s3 :=
      kept_demandSnapshots (kept_snapshot (kept_readStacks (kept_freeOffers (kept_foldl h2 fun _ _ h => kept_flushWcb h))))
    have hq : Q.queue = (⟨Q.queue, tickClock s1⟩ : Aim).queue := rfl
    rw [hq]
    generalize (⟨Q.queue, tickClock s1⟩ : Aim) = R at h3 ⊢
    clear_value s3
    clear h_s hq h1 h2 s2 s1
    have h4 := (kept_commitStage (reach := reach) (l := stageItems s3 fun k => k == 3 || k == 4) h3).out
    generalize commitStage reach _ s3 = r at h4 ⊢
    obtain ⟨s4, left⟩ := r
    exact keptQ_next (kept_diesRecover (kept_releasedRecover (kept_retryRestores (kept_sampleSensors (kept_readReleases (kept_reloadsOn (kept_tsqMap h4 rfl)))))))


theorem kept_copyStage {l : List (Nat × List Byte)} {reach : Nat} {s : State} (h_s : Kept Q s) : KeptL Q (copyStage l reach s) := by
  induction l generalizing s reach with
  | nil => exact ⟨h_s⟩
  | cons k r ih =>
    unfold copyStage
    split
    rename_i e
    have ht := kept_ofT (kept_migrateItem h_s) e
    split
    rename_i e
    exact ⟨kept_ofL (ih ht) e⟩


theorem kept_execCopyStage {reach : Nat} {s : State} (h_s : Kept Q s) : KeptQ Q.queue (execCopyStage reach s) := by
  unfold execCopyStage; split
  · exact keptQ_next h_s
  · exact keptQ_to (kept_tsqTo (kept_fst (kept_copyStage h_s)))


theorem kept_countDeferred {s : State} (h_s : Kept Q s) : Kept Q (countDeferred s) := by
  unfold countDeferred; repeat' first | with_reducible assumption | (intro y; beta_reduce) | (extract_lets -underBinder +onlyGivenNames x; refine kept_cut (Q := Q) (x := x) ?_ ?_; subst x; rotate_left; intro hx; clear_value x) | extract_lets -underBinder +onlyGivenNames x | with_reducible first | apply kept_ite | apply kept_event | apply kept_bump | apply kept_mgmtMap | apply kept_draw | apply kept_rset | (with_reducible apply kept_mk; first | with_reducible assumption | refine kept_ofR ?_ (by assumption) | with_reducible first | apply kept_event | apply kept_bump | apply kept_mgmtMap | apply kept_rset) | split | refine kept_ofR ?_ (by assumption) | (apply kept_snd; with_reducible first | apply kept_draw)

theorem kept_rebaseItem {s : State} (h_s : Kept Q s) : Kept Q (rebaseItem s) := by
  unfold rebaseItem; repeat' first | with_reducible assumption | (intro y; beta_reduce) | (extract_lets -underBinder +onlyGivenNames x; refine kept_cut (Q := Q) (x := x) ?_ ?_; subst x; rotate_left; intro hx; clear_value x) | extract_lets -underBinder +onlyGivenNames x | with_reducible first | apply kept_ite | apply kept_event | apply kept_tsqMap | apply kept_report | (with_reducible apply kept_mk; first | with_reducible assumption | with_reducible first | apply kept_event | apply kept_tsqMap | apply kept_report) | split | with_reducible rfl

theorem kept_switchItem {s : State} {k : Nat × List Byte} (h_s : Kept Q s) : Kept Q (switchItem s k) := by
  unfold switchItem; repeat' first | with_reducible assumption | with_reducible first | apply kept_ite | apply kept_dirSwitchItem | apply kept_versionItem | apply kept_fenceItem | apply kept_fwSwitch | apply kept_skipItem | apply kept_rebaseItem | split

theorem kept_switchItems {s : State} (h_s : Kept Q s) : Kept Q (switchItems s) := by
  unfold switchItems; repeat' first | with_reducible assumption | (intro y; beta_reduce) | (extract_lets -underBinder +onlyGivenNames x; refine kept_cut (Q := Q) (x := x) ?_ ?_; subst x; rotate_left; intro hx; clear_value x) | extract_lets -underBinder +onlyGivenNames x | with_reducible first | apply kept_ite | apply kept_foldl | apply kept_switchItem | apply kept_runFence | apply kept_tsqMap | (with_reducible apply kept_mk; first | with_reducible assumption | with_reducible first | apply kept_switchItem | apply kept_runFence | apply kept_tsqMap) | split | with_reducible rfl

theorem kept_handOver {s : State} (h_s : Kept Q s) : Kept Q (handOver s) := by
  unfold handOver; repeat' first | with_reducible assumption | (intro y; beta_reduce) | (extract_lets -underBinder +onlyGivenNames x; refine kept_cut (Q := Q) (x := x) ?_ ?_; subst x; rotate_left; intro hx; clear_value x) | extract_lets -underBinder +onlyGivenNames x | with_reducible first | apply kept_ite | apply kept_foldl | apply kept_installGrants | apply kept_setRecovered | apply kept_keepMap | apply kept_tsqMap | (with_reducible apply kept_mk; first | with_reducible assumption | with_reducible first | apply kept_installGrants | apply kept_setRecovered | apply kept_keepMap | apply kept_tsqMap) | split | with_reducible rfl

theorem kept_excludeGroups {s : State} (h_s : Kept Q s) : Kept Q (excludeGroups s) := by
  unfold excludeGroups; repeat' first | with_reducible assumption | (intro y; beta_reduce) | (extract_lets -underBinder +onlyGivenNames x; refine kept_cut (Q := Q) (x := x) ?_ ?_; subst x; rotate_left; intro hx; clear_value x) | extract_lets -underBinder +onlyGivenNames x | with_reducible first | apply kept_ite | apply kept_foldl | apply kept_event | apply kept_chanPut | (with_reducible apply kept_mk; first | with_reducible assumption | with_reducible first | apply kept_event | apply kept_chanPut) | split

theorem kept_openPorts {s : State} (h_s : Kept Q s) : Kept Q (openPorts s) := by
  unfold openPorts; repeat' first | with_reducible assumption | (intro y; beta_reduce) | with_reducible first | apply kept_ite | apply kept_foldl | apply kept_portPut | (with_reducible apply kept_mk; first | with_reducible assumption | with_reducible first | apply kept_portPut) | split

theorem kept_writeCoreMap {s : State} (h_s : Kept Q s) : Kept Q (writeCoreMap s) := by
  unfold writeCoreMap; repeat' first | with_reducible assumption | (intro y; beta_reduce) | with_reducible first | apply kept_ite | apply kept_bootMap | (with_reducible apply kept_mk; first | with_reducible assumption | with_reducible first | apply kept_bootMap) | split

theorem kept_switchStage {s : State} (h_s : Kept Q s) : Kept Q (switchStage s) := by
  unfold switchStage; repeat' first | with_reducible assumption | (extract_lets -underBinder +onlyGivenNames x; refine kept_cut (Q := Q) (x := x) ?_ ?_; subst x; rotate_left; intro hx; clear_value x) | extract_lets -underBinder +onlyGivenNames x | with_reducible first | apply kept_ite | apply kept_switchItems | apply kept_decayForwards | apply kept_pipelineSwitch | apply kept_ruleSwitch | apply kept_placementSwitch | apply kept_installBcasts | apply kept_storeDir | apply kept_dropCopies | apply kept_rehome | apply kept_viewExit | apply kept_greyExit | apply kept_barrierSwitch | apply kept_handOver | apply kept_vetoRecover | apply kept_writeCoreMap | apply kept_openPorts | apply kept_excludeGroups | apply kept_finalRecords | apply kept_writeDevRing | apply kept_writeCoreRing | split

/-- The last part of the bulk cut-off. -/
theorem kept_cutOffEnd {s : State} {next : List (List Byte)} (h_s : Kept Q s) :
    Kept Q (closeAccepted (tsqMap s fun t => { t with deferredItems := next, todo := [], copies := [] }) next) :=
  kept_closeAccepted (kept_tsqMap h_s rfl)
theorem kept_execBulkCutOff {s : State} (h_s : Kept Q s) : KeptQ Q.queue (execBulkCutOff s) := by
  unfold execBulkCutOff; split
  · exact keptQ_next h_s
  · generalize ht : tsqMap (advance s (cutAt s)) (fun t => { t with stage := 3, copies := t.copies.filter fun k => !arrivalsDone s k.2 }) = t
    have h0 : Kept ⟨Q.queue, tickClock t⟩ t := by rw [← ht]; exact kept_tsqTo (kept_advance h_s)
    clear ht
    exact keptQ_to (kept_cutOffEnd (kept_switchStage (kept_broadcast (kept_countDeferred h0))))


end Sys2Proof.Machine
end

