-- ==== Sys2Proof/Laws/Words.lean ====
section
/-! SUPPORT. The fields that the word of a strand instruction reads back: CLASS, OP and guard for every form, whatever its low 50 bits hold. -/

namespace Sys2Proof

/-- The head of a word is whole: class, operation and guard read back, and the word has 64 bits (03 R99). -/
theorem headBits_fields (cls op : Nat) (g : Guard) (b : Nat) (hc : cls < 16) (ho : op < 64) (hb : b < 2 ^ 50) :
    (headBits cls op g + b) / 2 ^ 60 % 16 = cls ∧ (headBits cls op g + b) / 2 ^ 54 % 64 = op ∧ guardAt (headBits cls op g + b) = g ∧
      headBits cls op g + b < 2 ^ 64 := by
  obtain ⟨n, p⟩ := g
  have := p.isLt
  simp only [headBits, guardAt, bitAt, predAt, Guard.mk.injEq, Fin.ext_iff]
  have hn : bitOf n ≤ 1 := by cases n <;> decide
  refine ⟨by omega, by omega, ⟨?_, by omega⟩, by omega⟩
  cases n
  · simp only [show bitOf false = 0 from rfl]
    exact beq_false_of_ne (by omega)
  · simp only [show bitOf true = 1 from rfl]
    exact beq_iff_eq.mpr (by omega)

/-- The head leaves the low 50 bits to the form's own fields. -/
theorem headBits_low (cls op : Nat) (g : Guard) : headBits cls op g % 2 ^ 50 = 0 := by
  unfold headBits
  omega

end Sys2Proof
end

