-- ==== Sys2Proof/Tests/Slice0.lean ====
section
/-! SUPPORT. Tests of the model: ill-formed commands are refused by WellFormed, words written out from the spec's encodings decode to their
instructions, single steps give the results the spec states, and every statement's hypotheses are met by a concrete state, clause by clause. -/

open Sys2Proof Sys2Proof.Machine

namespace Sys2Proof.Tests

set_option Elab.async false

/-! ### States -/

/-- What each clause of Canonical computes. -/
def canonicalParts (s : State) : List Bool :=
  [Memory.wf s.mem, mwf csrDefault s.csr, mwf (fun _ => 0) s.gens, mwf (fun _ => (0 : Byte)) s.hostMem, mwf (fun _ => rdyAbsent) s.rdy,
    mwf (fun _ => hartReset) s.harts, mwf (fun _ => ctrlReset) s.ctrls, mwf (fun _ => coreReset) s.cores, mwf (fun _ => chanReset) s.chans,
    mwf (fun _ => hitchReset) s.hit.hitches, mwf (fun _ => barrierReset) s.hit.barriers, mwf (fun _ => portReset) s.hws.ports,
    mwf (fun _ => tableReset) s.emb.tables, mwf (fun _ => layerReset) s.upd.layers, mwf (fun _ => queueReset) s.pci.queues,
    mwf (fun _ => ptpReset) s.tim.ports]

/-- Whether a state is canonical, as something to compute. -/
def canonicalB (s : State) : Bool := (canonicalParts s).all id

theorem canonical_of {s : State} (h : canonicalB s = true) : Canonical s := by
  have part : ∀ b ∈ canonicalParts s, b = true := List.all_eq_true.1 h
  constructor <;> exact part _ (by simp only [canonicalParts, List.mem_cons, true_or, or_true])

/-- A state with the word of a strand's instruction where that strand's program counter stands. -/
def spelling (c : Instr) (s : State) : State :=
  match encodeStrand c with
  | some (.strand p n, w) => { s with mem := (putBytes s (hart s (.strand p n)).pc.toNat (natLe 8 w)).mem }
  | _ => s

/-- Whether a strand's instruction takes effect, as something to compute. -/
def runsB (s : State) (c : Instr) (p : Fin 272) (n : Fin 64) (g : Guard) : Bool :=
  let h := Hart.strand p n
  let a := (hart s h).pc.toNat
  decide ((hart s h).st = .ready) && (reachable (issued s h) a && decide (readCause (issued s h) a 8 = none) && decide (decodeStrand h (readNat s a 8) = c)) &&
    guardOn s h g

theorem runs_of {s : State} {c : Instr} {p : Fin 272} {n : Fin 64} {g : Guard} (h : runsB s c p n g = true) : Runs s c (.strand p n) g := by
  simp only [runsB, Bool.and_eq_true, decide_eq_true_eq] at h
  exact ⟨h.1.1, ⟨h.1.2.1.1, h.1.2.1.2, h.1.2.2⟩, h.2⟩

theorem runs_ctrl {s : State} {c : Instr} {k : Fin 20} {g : Guard} (h1 : (hart s (.ctrl k)).st = .ready ∧ rdyState s (idxCtrl k) ≠ .grey)
    (h2 : guardOn s (.ctrl k) g = true) : Runs s c (.ctrl k) g :=
  ⟨h1.1, h1.2, h2⟩

/-- The state a command answers. -/
def after (o : Host.Outcome State Fault Refusal) : State :=
  match o with
  | .next t => t
  | _ => State.reset

/-- Strand 0 of core 0, and the guard that always holds. -/
abbrev h0 : Hart := .strand 0 0
/-- Control core 0. -/
abbrev c0 : Hart := .ctrl 0
abbrev always : Guard := ⟨false, 0⟩

/-- A strand that runs task 7 with values in g1 and g2. -/
def strandWith (x y : Word) : HartSt := { hartReset with st := .ready, task := 7, pc := 0x1000, regs := (hartReset.regs.set 1 x).set 2 y }

/-- A device in tick 5, 3 µs after its start, with the units these tests use READY and strand 0 running. -/
def base : State :=
  let s := { State.reset with
    boot := { State.reset.boot with pwrgood := true, perst := true }
    rdy := [0, 1, 2, 3, 4, 5, 6, 0x10, 0x30, 0x31, 0x32, 0x33, 0x34, 0x35, 0x36, 0x37, 0x38, 0x39, 0x3A, 0x3B, 0x40, 0x41, 0x42, 0x100, 0x1C0, 0x1C3, 0x200].map
      fun i => (i, { rdyAbsent with state := .ready })
    harts := [(0, strandWith 5 0xFFFFFFFFFFFFFFFF)] }
  let s := fset s regBootStatus 15 12 4
  let s := fset (fset (fset s regTsqCfg 13 0 100) regTsqCfg 25 14 20) regTsqCfg 37 26 5
  let s := fset (fset s regPlcCfg 31 20 4) regMemCfg 63 52 1024
  { s with tsq := { s.tsq with running := true, tick := 5, tickStart := tickAt s 5, phase := .run }, now := tickAt s 5 + 3000 }

/-- The same with other values in g1 and g2. -/
def withRegs (x y : Word) : State := { base with harts := [(0, strandWith x y)] }
/-- The same device with control core 0 running. -/
def ctrlWith (x y : Word) : State := { base with harts := [(17408, strandWith x y)] }

/-- Whether an outcome is a next state. -/
def answers (o : Host.Outcome State Fault Refusal) : Bool :=
  match o with
  | .next _ => true
  | _ => false

theorem next_after {o : Host.Outcome State Fault Refusal} (h : answers o = true) : o = .next (after o) := by
  cases o with
  | next t => rfl
  | fault f => cases h
  | refused r => cases h

/-- A waiting command of task 7 from strand 0. -/
def cmdOf (id : Nat) (kind : CmdKind) (desc : List Byte) : Cmd := ⟨id, kind, desc, 0, 7, 0, false, 0, [], 0, 0, [], [], [], false, []⟩
/-- The same command running. -/
def runCmd (c : Cmd) : Cmd := { c with running := true }
/-- A state with commands in core 0's queue. -/
def withCmds (s : State) (cs : List Cmd) : State := { s with cores := [(0, { coreReset with cmds := cs })] }

/-! ### Ill-formed commands are refused (00 R13, R20; 08 R291; 12 R448, R452; 13 R489; 16 R633; 18 R685) -/

theorem test_wf_units : (Instr.grey 23 0).wf = false ∧ (Instr.grey 0 1024).wf = false ∧ (Instr.unitRecoveryDone 7).wf = false ∧
    (Instr.unitBringupReport 0x100 ⟨6, 0, []⟩).wf = false ∧ (Instr.coreCheck 272 0).wf = false ∧ (Instr.coreHeartbeat 272).wf = false ∧ (Instr.ctrlCoreFault 20 0).wf = false ∧
    (Instr.dieTimeout 6).wf = false ∧ (Instr.coreMapAssign 4).wf = false ∧ (Instr.taskDispatch 256).wf = false ∧ (Instr.commitArbiterGrant 4).wf = false ∧
    (Instr.schAbort 20 0).wf = false ∧ (Instr.bootFwReady 20).wf = false ∧ (Instr.gatherStart 272).wf = false := by decide

theorem test_wf_messages : (Instr.gatherReq 1024 0 []).wf = false ∧ (Instr.gatherReq 0 16777216 []).wf = false ∧
    (Instr.gatherReq 0 16777215 []).wf = true ∧ (Instr.ptpMessageRx 16 []).wf = false ∧ (Instr.markerRx 16 []).wf = false ∧
    (Instr.cellRx 0 [] 256 ⟨false, 0⟩).wf = false ∧ (Instr.portTrained 16).wf = false := by decide

theorem test_wf_bodies : ∀ b : List Byte, 65536 < b.length → (Instr.relocBcast 0 0 b).wf = false ∧ (Instr.force b).wf = false := by
  intro b h
  have e : decide (b.length ≤ 65536) = false := decide_eq_false (Nat.not_le.mpr h)
  exact ⟨show (decide (0 < 1024) && decide (0 < 16777216) && decide (b.length ≤ 65536)) = false by rw [e]; rfl, e⟩

theorem test_wf_memory : (Instr.hbmRead 281474976710656 8 true ⟨[], 0⟩ 0).wf = false ∧ (Instr.hbmRead 0 8 true ⟨[(72, 1)], 0⟩ 0).wf = false ∧
    (Instr.hbmRead 0 8 true ⟨[(71, 256)], 0⟩ 0).wf = false ∧ (Instr.hbmRead 0 8 true ⟨[(71, 255)], 0⟩ 0).wf = true ∧ (Instr.patrolScrubRead 192 ⟨[], 0⟩).wf = false ∧
    (Instr.remapCopyDone 0 2097152).wf = false ∧ (Instr.thermalReadingBringup 12 0).wf = false ∧ (Instr.wcbAgeWriteback 0 ⟨33554432, ⟨[], 0⟩⟩).wf = false ∧
    (Instr.correctedWriteback 0 2147483648).wf = false ∧ (Instr.start 192 0).wf = false := by decide

theorem test_wf_host : (Instr.registerWrite 0 2 4 0).wf = false ∧ (Instr.registerWrite 0 4 3 0).wf = false ∧ (Instr.registerWrite 23 4 4 0).wf = false ∧
    (Instr.registerWrite 0 67108864 4 0).wf = false ∧ (Instr.registerWrite 0 4 4 0).wf = true ∧ (Instr.enable 1024).wf = false ∧
    (Instr.layerStepTimeout 1024).wf = false ∧ (Instr.rowTickTimeout 4096).wf = false ∧ (Instr.hitClear 0 65536).wf = false ∧
    (Instr.barrierDefine 0 1024 []).wf = false ∧ (Instr.barrierDefine 0 0 []).wf = false ∧ (Instr.knotNodeArrival 1024 0).wf = false ∧
    (Instr.keeperImagePass 2 []).wf = false ∧ (Instr.stagedImageVerified 1 true).wf = false ∧ (Instr.entdaa 128).wf = false ∧ (Instr.add h0 always 4 1 2).wf = true := by
  decide

/-! ### Instruction words (03 R99-R102)

Each word is written from the tables of R99, R100 and R102: CLASS, OP, PNEG, PRED, RD, RS1, then the fields of the form. -/

/-- The spec's own word: ADDI g5, g3, −16 guarded by p2. -/
theorem test_word_addi : decodeStrand h0 0x1008A300FFFFFFF0 = .addi h0 ⟨false, 2⟩ 5 3 0xFFFFFFF0 := by decide +kernel

theorem test_words_integer :
    decodeStrand h0 0b0000_000000_0_000_00100_00001_00010_00000_000_000000000000000000000000000 = .add h0 always 4 1 2 ∧
    decodeStrand h0 0b0000_010100_0_000_00100_00001_00010_00000_011_000000000000000000000000000 = .sel h0 always 4 1 2 3 ∧
    decodeStrand h0 0b0000_010101_0_000_00100_00001_00010_00011_000_000000000000000000000000000 = .madd h0 always 4 1 2 3 := by decide +kernel

theorem test_words_compare :
    decodeStrand h0 0b0010_000011_0_000_00110_00001_00010_00011_000_000000000000000000000000000 = .ffma h0 always 6 1 2 3 ∧
    decodeStrand h0 0b0011_000010_0_000_00_011_00001_1_00000_00_11111111111111111111111111111111 = .cmplts h0 always 3 1 (.imm 0xFFFFFFFF) ∧
    decodeStrand h0 0b0011_010000_0_000_00_001_00010_0_00011_00_00000000000000000000000000000000 = .pand h0 always 1 2 3 := by decide +kernel

theorem test_words_memory :
    decodeStrand h0 0b0100_000110_0_000_00100_00001_1_0000000_11111111111111111111111111111100 = .ld32s h0 always 4 1 true 0xFFFFFFFC ∧
    decodeStrand h0 0b0100_001011_0_000_00100_00001_0_0000000_00000000000000000000000000001000 = .st64 h0 always 4 1 false 8 ∧
    decodeStrand h0 0b0101_000111_0_000_00100_00001_00010_00011_000000000000000000000000000000 = .acas64 h0 always 4 1 2 3 := by decide +kernel

theorem test_words_control :
    decodeStrand h0 0b0110_000000_1_010_00000_00000_00000000_11111111111111111111111111111111 = .br h0 ⟨true, 2⟩ 0xFFFFFFFF ∧
    decodeStrand h0 0b0111_000000_0_000_00111_00000_0001001000110100010101100111100010011010 = .li h0 always 7 0x123456789A ∧
    decodeStrand h0 0b1000_000011_0_000_00100_00001_00010_00000000000000000000000000000000000 = .qmat h0 always 4 1 2 ∧
    decodeStrand h0 0b1001_001000_0_000_00100_00001_00010_00000000000000000000000000000000000 = .karrive h0 always 4 1 2 ∧
    decodeStrand h0 0b1010_000001_0_000_00100_00000_0000000000000000000000000000_000000010011 = .mfs h0 always 4 0x013 := by decide +kernel

/-- A class, an operation or a reserved field that the table does not give is ILLEGAL (R101, R102). -/
theorem test_words_illegal :
    decodeStrand h0 0b1011_000000_0_000_00000_00000_0000000000000000000000000000000000000000 = .illegal h0 always ∧
    decodeStrand h0 0b0000_011001_0_000_00100_00001_00010_00000_000_000000000000000000000000000 = .illegal h0 always ∧
    decodeStrand h0 0b0000_000000_0_000_00100_00001_00010_00000_000_000000000000000000000000001 = .illegal h0 always ∧
    decodeStrand h0 0b0011_000010_0_000_00_011_00001_0_00010_00_00000000000000000000000000000001 = .illegal h0 always ∧
    decodeStrand h0 0b0011_000010_0_000_01_011_00001_0_00010_00_00000000000000000000000000000000 = .illegal h0 always := by decide +kernel

/-! ### Single steps and worked values of the spec -/

/-- g4 after an instruction of strand 0. -/
def g4 (c : Instr) (s : State) : Word := reg (after (exec c (spelling c s))) h0 4

/-- R103's own example: −7 by 2. -/
theorem test_divs : g4 (.divs h0 always 4 1 2) (withRegs 0xFFFFFFFFFFFFFFF9 2) = 0xFFFFFFFFFFFFFFFD := by decide +kernel
theorem test_rems : g4 (.rems h0 always 4 1 2) (withRegs 0xFFFFFFFFFFFFFFF9 2) = 0xFFFFFFFFFFFFFFFF := by decide +kernel
theorem test_add_wraps : g4 (.add h0 always 4 1 2) base = 4 := by decide +kernel
theorem test_addi_sign_extends : g4 (.addi h0 always 4 1 0xFFFFFFF0) base = 0xFFFFFFFFFFFFFFF5 := by decide +kernel
theorem test_ori_zero_extends : g4 (.ori h0 always 4 1 0xFFFFFFF0) base = 0xFFFFFFF5 := by decide +kernel
theorem test_shl_low_six_bits : g4 (.shl h0 always 4 1 2) (withRegs 5 65) = 10 := by decide +kernel
theorem test_mulhs : g4 (.mulhs h0 always 4 1 2) base = 0xFFFFFFFFFFFFFFFF := by decide +kernel
theorem test_clz_of_zero : g4 (.clz h0 always 4 1) (withRegs 0 0) = 64 := by decide +kernel
theorem test_g0_discards : reg (after (exec (.add h0 always 0 1 2) (spelling (.add h0 always 0 1 2) base))) h0 0 = 0 := by decide +kernel
theorem test_fadd : g4 (.fadd h0 always 4 1 2) (withRegs 0xFFFFFFFF3F800000 0x40000000) = 0x40400000 := by decide +kernel

/-- A strand's word that spells another instruction than the command names lets nothing happen (03 R99-R102). -/
theorem test_spelled : let s := spelling (.add h0 always 4 1 2) base
    after (exec (.sub h0 always 4 1 2) s) = s ∧ after (exec (.add h0 always 4 1 2) s) ≠ s := by decide +kernel

/-- The lid's sensor, number 22, shows warning above 75 °C and critical above 80 °C (19 R727; 20 R753). -/
theorem test_lid : let x : Sensor := ⟨2, 0, 1, some 75, some 80, none, none⟩
    sensorOf 22 = some x ∧ [75, 76, 80, 81].map (sensorState 22 x) = [1, 8, 8, 9] := by decide +kernel

/-- The narrowing of 0.3 to E4M3 (07, worked example): to nearest even, and stochastic on either side of 0x9999A000. -/
theorem test_narrow : roundTo fmtE4m3 none (unF 0x3E99999A) = (0x2A, 1) ∧ (roundTo fmtE4m3 (some 0x99999FFF) (unF 0x3E99999A)).1 = 0x2A ∧
    (roundTo fmtE4m3 (some 0x9999A000) (unF 0x3E99999A)).1 = 0x29 := by decide +kernel

/-- The list of six edges (04, worked decode) at 0x8000. -/
def sixEdges : State :=
  putBytes base 0x8000 ([6, 0, 0, 0, 0, 4, 0, 0, 1, 0, 0, 0, 0x80, 0x3D, 0, 0, 0, 0, 0, 0, 0x50, 0, 0, 0] ++ List.replicate 8 0 ++ [0x30] ++ List.replicate 15 0 ++
    [0x40, 0x42, 0x0F, 0, 0, 6, 0x0E, 0] ++ List.replicate 8 0 ++ [0x90, 3, 0, 0x29, 1, 0x44, 0x10, 1, 3, 0x50, 0x9E, 0xF5, 0x29, 1, 0, 0] ++
    [0x10, 0x20, 8, 0x40, 0x7F, 0xFC])

/-- The ids and the weights a sample of that list gives. -/
def sixSample (sampler slots : Nat) : List (Nat × Nat) :=
  match walkList sixEdges 1000 0x8000 ⟨sampler, slots, 0, 0, 0, true, false, false⟩ [] with
  | .ok r => r.edges.map fun e => (e.1, e.2.1)
  | .error _ => []

theorem test_list_decode : (sixSample 0 6).map (·.1) = [1000000, 1000003, 1000003, 1000300, 1070000, 5000000000] := by decide +kernel
theorem test_list_topk : sixSample 4 2 = [(1070000, 0x40FE0000), (1000300, 0x40800000)] := by decide +kernel

/-- The place of 0x12345678 (12, worked example). -/
theorem test_row_place : chanOf base 0x12345678 = (147, 1590648) ∧ rowPlace (1590648 / 1024) = (1, 2, 3, 0, 16) := by decide +kernel

/-- Four wrong bytes are corrected, and five are seen (12 R462). -/
theorem test_codeword : let w := (List.range 64) ++ rsCheck (List.range 64)
    rsDecode (addErrors w [(0, 1), (31, 128), (64, 7), (71, 255)]) = some (List.range 64, 4) ∧
      rsDecode (addErrors w [(0, 1), (1, 2), (2, 3), (3, 4), (4, 5)]) ≠ some (List.range 64, 0) := by decide +kernel

/-- The figures of table 212 (09 R341): 120 INT8 codes, 2,000,000,000 rows, 64 devices. -/
theorem test_table_212 : let s := { base with boot := { base.boot with devs := 64 } }
    let t := shapeTable s (2000000000 * 2 ^ 24 + 119 * 2 ^ 12 + 5) 0
    t.stride = 128 ∧ segRows s t = 162761 ∧ t.slotBytes = 4000014336 := by decide +kernel

/-- The 129th command of the split accumulation (06, worked example): the full chain splits before its first pass. -/
theorem test_split : ((passPlan 200 8192 0 (2 ^ 20) 16384).map (·.1)).take 2 = [true, false] ∧ (passPlan 200 8192 0 0 0).length = 128 ∧
    (passPlan 200 8192 0 0 0).all (fun p => !p.1) = true := by decide +kernel

/-- A version that wraps (08, worked example). -/
theorem test_version : verAfter 1 0xFFFE = true ∧ verAfter 0xFFFE 1 = false := by decide +kernel

/-! ### The hypotheses of every statement are met

One theorem for each statement that has hypotheses: concrete states and operands that meet them, clause by clause. -/

theorem witness_IdleStepPassesTime : base.pending = [] ∧ timeRuns base = true ∧ base.now + 1 ≤ nextPhase base := by decide +kernel

theorem witness_StepKeepsSafe : let s := { base with pending := [.tickStart, .add h0 always 4 1 2] }
    Safe s ∧ step s = .next (after (step s)) :=
  ⟨⟨canonical_of (by decide +kernel), by decide +kernel⟩, next_after (by decide +kernel)⟩

theorem witness_QueueRunsInOrder : Canonical { base with pending := [.add h0 always 4 1 2, .nop h0 always] } := canonical_of (by decide +kernel)

theorem witness_IntegerArithmetic : let c := Instr.add h0 always 4 1 2
    let s := spelling c base
    Canonical s ∧ intResult s c = some (h0, always, 4, 4) ∧ Runs s c h0 always :=
  ⟨canonical_of (by decide +kernel), by decide +kernel, runs_of (by decide +kernel)⟩

theorem witness_ComparesAndPredicates : let c := Instr.pand h0 always 0 0 1
    let s := spelling c base
    Canonical s ∧ predResult s c = some (h0, always, 0, false) ∧ Runs s c h0 always :=
  ⟨canonical_of (by decide +kernel), by decide +kernel, runs_of (by decide +kernel)⟩

theorem witness_FloatingPoint : let c := Instr.fadd h0 always 4 1 2
    let s := spelling c (withRegs 0x3F800000 0x40000000)
    Canonical s ∧ fpResult s c = some (h0, always, 4, 0x40400000, 0) ∧ Runs s c h0 always ∧ (unF 0xFFC00001).isNan = true :=
  ⟨canonical_of (by decide +kernel), by decide +kernel, runs_of (by decide +kernel), by decide +kernel⟩

theorem witness_BranchesAndCalls : ∀ c ∈ [Instr.br h0 always 1, .call h0 always 4 1, .bri h0 always 1, .calli h0 always 4 1],
    let s := spelling c (withRegs 0xFFFFFFFFFFF8 0xFFFFFFFFFFF9)
    canonicalB s = true ∧ runsB s c 0 0 always = true ∧ (reg s h0 1).toNat % 8 = 0 ∧ deviceAddr (issued s h0) (reg s h0 1).toNat = some 0xFFFFFFFFFFF8 ∧
      (reg s h0 2).toNat % 8 ≠ 0 ∧
    let s := spelling c (withRegs 0x8000000000000000 0)
    canonicalB s = true ∧ runsB s c 0 0 always = true ∧ (reg s h0 1).toNat % 8 = 0 ∧ deviceAddr (issued s h0) (reg s h0 1).toNat = none :=
  by decide +kernel

/-- A state whose unit at 0x2000 reads uncorrectable. -/
def badUnit (s : State) : State := { s with chans := [((chanOf base 0x2000).1, { chanReset with bad := [(chanOf base 0x2000).2 / 64] })] }

theorem witness_GuardedOff : let c := Instr.add h0 ⟨true, 0⟩ 4 1 2
    let s := spelling c base
    instrOf c = some (h0, ⟨true, 0⟩) ∧ guardOn s h0 ⟨true, 0⟩ = false ∧ (hart s h0).st = .ready ∧ Fetches s c h0 ∧
    decodeStrand h0 (readNat base (hart base h0).pc.toNat 8) ≠ c ∧ reachable base (hart base h0).pc.toNat = true ∧
    readCause base (hart base h0).pc.toNat 8 = none ∧ (hart base (.strand 0 1)).st ≠ .ready ∧ encodeStrand (.add h0 always 4 1 2) = some (h0, 0x0000811000000000) :=
  ⟨by decide +kernel, by decide +kernel, by decide +kernel, ⟨by decide +kernel, by decide +kernel, by decide +kernel⟩, by decide +kernel, by decide +kernel, by decide +kernel, by decide +kernel, by decide +kernel⟩

/-- Strand 0 about to load from g1. -/
def loading (x : Word) : State := spelling (.ld64 h0 always 4 1 false 0) (withRegs x 0)

theorem witness_Loads : Canonical (loading 0x2000) ∧
    loadOf (.ld64 h0 always 4 1 false 0) = some (h0, always, 4, 1, false, 0, 8, BitVec.ofNat 64) ∧ Runs (loading 0x2000) (.ld64 h0 always 4 1 false 0) h0 always ∧
    (let s := issued (loading 0x2000) h0
     addrOfAccess (loading 0x2000) h0 1 0 = 0x2000 ∧ deviceAddr s 0x2000 = some 0x2000 ∧ reachable s 0x2000 = true ∧ readCause s 0x2000 8 = none) ∧
    addrOfAccess (loading 0x2000) h0 1 1 % 8 = 1 ∧
    (Runs (loading (BitVec.ofNat 64 (2 ^ 63))) (.ld64 h0 always 4 1 false 0) h0 always ∧
      deviceAddr (issued (loading (BitVec.ofNat 64 (2 ^ 63))) h0) (addrOfAccess (loading (BitVec.ofNat 64 (2 ^ 63))) h0 1 0) = none) ∧
    (Runs (loading 0xFFFFFFFFFFF8) (.ld64 h0 always 4 1 false 0) h0 always ∧ reachable (issued (loading 0xFFFFFFFFFFF8) h0) 0xFFFFFFFFFFF8 = false) ∧
    (Runs (badUnit (loading 0x2000)) (.ld64 h0 always 4 1 false 0) h0 always ∧ canonicalB (badUnit (loading 0x2000)) = true ∧
      readCause (issued (badUnit (loading 0x2000)) h0) 0x2000 8 = some 5) :=
  ⟨canonical_of (by decide +kernel), rfl, runs_of (by decide +kernel), by decide +kernel, by decide +kernel,
    ⟨runs_of (by decide +kernel), by decide +kernel⟩, ⟨runs_of (by decide +kernel), by decide +kernel⟩,
    ⟨runs_of (by decide +kernel), by decide +kernel, by decide +kernel⟩⟩

/-- A state with pages 0x3000 registered as code, hence protected. -/
def withCode (x y : Word) : State :=
  { withRegs x y with pci := { base.pci with pipes := [(1, ⟨0x3000, 4, 0x3000, 0, 1, false, true, false, 0, 0⟩)] }, boot := { base.boot with coreMap := [(0, 0)] } }

/-- The same with strand 0 about to store g2 at g1. -/
def storing (x y : Word) : State := spelling (.st32 h0 always 2 1 false 0) (withCode x y)

theorem witness_Stores : Canonical (storing 0x2000 7) ∧ storeOf (.st32 h0 always 2 1 false 0) = some (h0, always, 2, 1, false, 0, 4) ∧
    Runs (storing 0x2000 7) (.st32 h0 always 2 1 false 0) h0 always ∧
    (let s := issued (storing 0x2000 7) h0
     addrOfAccess (storing 0x2000 7) h0 1 0 = 0x2000 ∧ deviceAddr s 0x2000 = some 0x2000 ∧ reachable s 0x2000 = true ∧
      protectedAt s 0x2000 4 = false ∧ chanLost s 0x2000 = false ∧ unitBad s 0x2000 4 = false) ∧
    (let s := issued { storing 0x2000 7 with chans := [((chanOf base 0x2000).1, { chanReset with lost := true })] } h0
     chanLost s 0x2000 = true ∧ protectedAt s 0x2000 4 = false) ∧
    addrOfAccess (storing 0x2000 7) h0 1 2 % 4 = 2 ∧
    (Runs (storing (BitVec.ofNat 64 (2 ^ 63)) 0) (.st32 h0 always 2 1 false 0) h0 always ∧ deviceAddr (issued (storing (BitVec.ofNat 64 (2 ^ 63)) 0) h0) (2 ^ 63) = none) ∧
    (Runs (storing 0x3000 0) (.st32 h0 always 2 1 false 0) h0 always ∧ protectedAt (issued (storing 0x3000 0) h0) 0x3000 4 = true ∧
      reachable (issued (storing 0x3000 0) h0) 0x3000 = true) ∧
    (Runs (storing 0xFFFFFFFFFFFC 0) (.st32 h0 always 2 1 false 0) h0 always ∧ reachable (issued (storing 0xFFFFFFFFFFFC 0) h0) 0xFFFFFFFFFFFC = false) :=
  ⟨canonical_of (by decide +kernel), rfl, runs_of (by decide +kernel), by decide +kernel, by decide +kernel, by decide +kernel,
    ⟨runs_of (by decide +kernel), by decide +kernel⟩, ⟨runs_of (by decide +kernel), by decide +kernel⟩, ⟨runs_of (by decide +kernel), by decide +kernel⟩⟩

/-- Strand 0 about to compare and swap at g1. -/
def swapping (x : Word) : State := spelling (.acas64 h0 always 4 1 2 3) (withRegs x 7)

theorem witness_Atomics : Canonical (swapping 0x2000) ∧
    (atomicOf (swapping 0x2000) (.acas64 h0 always 4 1 2 3)).map (fun e => (e.1, e.2.1, e.2.2.1, e.2.2.2.1, e.2.2.2.2.1)) = some (h0, always, 4, 1, 8) ∧
    Runs (swapping 0x2000) (.acas64 h0 always 4 1 2 3) h0 always ∧
    (let s := issued (swapping 0x2000) h0
     deviceAddr s 0x2000 = some 0x2000 ∧ reachable s 0x2000 = true ∧ space 0x2000 ≠ .slow ∧ protectedAt s 0x2000 8 = false ∧
      readCause s 0x2000 8 = none) ∧
    (∀ e ∈ [(2 ^ 63, none), (0xFFFFFFFFFFF8, some false), (0x3000, some true)], let s := spelling (.acas64 h0 always 4 1 2 3) (withCode (BitVec.ofNat 64 e.1) 7)
     canonicalB s = true ∧ runsB s (.acas64 h0 always 4 1 2 3) 0 0 always = true ∧
      (deviceAddr (issued s h0) e.1).map (reachable (issued s h0)) = e.2 ∧ protectedAt (issued s h0) 0x3000 8 = true) ∧
    (canonicalB (badUnit (swapping 0x2000)) = true ∧ runsB (badUnit (swapping 0x2000)) (.acas64 h0 always 4 1 2 3) 0 0 always = true ∧
      readCause (issued (badUnit (swapping 0x2000)) h0) 0x2000 8 = some 5) ∧
    (Runs (swapping 0x2004) (.acas64 h0 always 4 1 2 3) h0 always ∧ (reg (swapping 0x2004) h0 1).toNat % 8 ≠ 0) ∧
    (Runs (swapping (BitVec.ofNat 64 slowBase)) (.acas64 h0 always 4 1 2 3) h0 always ∧ deviceAddr (issued (swapping (BitVec.ofNat 64 slowBase)) h0) slowBase = some slowBase ∧
      space slowBase = .slow ∧ slowBase % 8 = 0) :=
  ⟨canonical_of (by decide +kernel), by decide +kernel, runs_of (by decide +kernel), by decide +kernel, by decide +kernel, by decide +kernel,
    ⟨runs_of (by decide +kernel), by decide +kernel⟩, ⟨runs_of (by decide +kernel), by decide +kernel⟩⟩

theorem witness_ControlSpace : (let c := Instr.ld64 h0 always 4 1 true 0
     Canonical (spelling c base) ∧ Runs (spelling c base) c h0 always) ∧ Canonical (ctrlWith 0x103FFFF8 0) ∧
    loadOf (.ld64 c0 always 4 1 true 0) = some (c0, always, 4, 1, true, 0, 8, BitVec.ofNat 64) ∧
    (∀ w ∈ [0x10000000, 0x103FFFF8, 0x10400000, 0x107FFFF8, 0x20000000, 0x200FFFF8, 0x30000000, 0x20000001, 0, 0x3FFFFF8,
        0x4000000, 0x10800000, 0x1FFFFFF8, 0x20100000],
      (hart (ctrlWith (BitVec.ofNat 64 w) 0) c0).st = .ready ∧ guardOn (ctrlWith (BitVec.ofNat 64 w) 0) c0 always = true ∧
        addrOfAccess (ctrlWith (BitVec.ofNat 64 w) 0) c0 1 0 = w) :=
  ⟨⟨canonical_of (by decide +kernel), runs_of (by decide +kernel)⟩, canonical_of (by decide +kernel), rfl, by decide +kernel⟩

theorem witness_SpecialRegisters : (∀ c ∈ [Instr.mfs h0 always 4 0x013, .mts h0 always 1 0x020], canonicalB (spelling c base) = true ∧ runsB (spelling c base) c 0 0 always = true) ∧
    (∀ x ∈ [0x001, 0x010, 0x017], let c := Instr.mfs h0 always 4 x
      let s := spelling c { base with sch := { base.sch with tasks := [(7, newTask (readDesc (natLe 6 0x3000 ++ List.replicate 122 0)) 0)] } }
      canonicalB s = true ∧ runsB s c 0 0 always = true ∧ (taskGet s (hart s h0).task).isSome = true) ∧
    Canonical (ctrlWith 5 6) ∧ Runs (ctrlWith 5 6) (.mfs c0 always 4 0x013) c0 always ∧
    ∀ x ∈ [0x00C, 0x00F, 0x018, 0x01F, 0x021, 0xFFF], (x : BitVec 12) ≠ 0x020 ∧ ((0x00C ≤ x ∧ x ≤ 0x00F) ∨ (0x018 ≤ x ∧ x ≤ 0x01F) ∨ 0x021 ≤ x) :=
  ⟨by decide +kernel, by decide +kernel, canonical_of (by decide +kernel), runs_ctrl (by decide +kernel) (by decide +kernel),
    by decide +kernel⟩

/-- Strand 0 about to issue from scratchpad offset x, with some commands in the queue. -/
def issuing (x : Word) (cs : List Cmd) : State := spelling (.qchain h0 always 4 1 2) (withCmds (withRegs x 3) cs)

theorem witness_CommandIssue : queueOf (.qchain h0 always 4 1 2) = some (h0, always, 4, 1, 2, .chain, 256) ∧
    Canonical (issuing 0x100 [cmdOf 3 .mat []]) ∧ Runs (issuing 0x100 [cmdOf 3 .mat []]) (.qchain h0 always 4 1 2) h0 always ∧
    (let s := issuing 0x100 [cmdOf 3 .mat []]
     (reg s h0 1).toNat % 256 = 0 ∧ (coreGet s 0).cmds.length < 256 ∧ ∃ d ∈ (coreGet s 0).cmds, d.id = (reg s h0 2).toNat) ∧
    (Canonical (issuing 0x80 [cmdOf 3 .mat []]) ∧ Runs (issuing 0x80 [cmdOf 3 .mat []]) (.qchain h0 always 4 1 2) h0 always ∧ (reg (issuing 0x80 [cmdOf 3 .mat []]) h0 1).toNat % 256 ≠ 0) ∧
    (Canonical (issuing 0x400000 [cmdOf 3 .mat []]) ∧ Runs (issuing 0x400000 [cmdOf 3 .mat []]) (.qchain h0 always 4 1 2) h0 always ∧ 0x400000 ≤ (reg (issuing 0x400000 [cmdOf 3 .mat []]) h0 1).toNat) ∧
    (let s := issuing 0x3FFF00 (List.replicate 256 (cmdOf 3 .mat []))
     Canonical s ∧ Runs s (.qchain h0 always 4 1 2) h0 always ∧ 256 ≤ (coreGet s 0).cmds.length ∧ (reg s h0 1).toNat < 0x400000) ∧ Runs (ctrlWith 0 0) (.qchain c0 always 4 1 2) c0 always :=
  ⟨rfl, canonical_of (by decide +kernel), runs_of (by decide +kernel), by decide +kernel,
    ⟨canonical_of (by decide +kernel), runs_of (by decide +kernel), by decide +kernel⟩,
    ⟨canonical_of (by decide +kernel), runs_of (by decide +kernel), by decide +kernel⟩,
    ⟨canonical_of (by decide +kernel), runs_of (by decide +kernel), by decide +kernel⟩, runs_ctrl (by decide +kernel) (by decide +kernel)⟩

/-- Strand 0 about to run an instruction, with a waiting command 0x100, the place of command 5 holding status 3, and a drain list. -/
def waiting (c : Instr) (x : Word) (drain : List (Nat × Option Nat)) : State :=
  spelling c { base with
    cores := [(0, { coreReset with cmds := [cmdOf 0x100 .gather []], places := [(5, 5, 3)] })], harts := [(0, { strandWith x 0 with drain := drain })] }

theorem witness_CommandWaits :
    (∀ c ∈ [Instr.qwait h0 always 4 1, .qpoll h0 always 4 1],
      (let s := waiting c 0x100 []
       canonicalB s = true ∧ runsB s c 0 0 always = true ∧ ∃ d ∈ (coreGet s 0).cmds, d.id = 0x100) ∧
      ∀ x ∈ [0, 5, 6], let s := waiting c (BitVec.ofNat 64 x) []
        canonicalB s = true ∧ runsB s c 0 0 always = true ∧ (∀ d ∈ (coreGet s 0).cmds, d.id ≠ x) ∧
          pfind (coreGet s 0).places (x % 4096) = if x = 5 then some (5, 3) else none) ∧
    (∀ l ∈ [[(1, none)], [(1, some 0), (2, some 4)]], let c := Instr.qdrainall h0 always 4
      let s := waiting c 0 l
      canonicalB s = true ∧ runsB s c 0 0 always = true ∧ (hart s h0).drain = l) := by decide +kernel

/-- A task descriptor with an entry point, a completion address and a completion hitch (10 R382). -/
def descOf (entry comp hitch : Nat) : List Byte :=
  natLe 6 entry ++ natLe 2 0xFFFF ++ natLe 3 0 ++ natLe 1 0 ++ natLe 4 0 ++ natLe 3 0 ++ natLe 1 4 ++ natLe 2 hitch ++ natLe 2 0 ++ natLe 6 comp ++
    List.replicate 98 0
/-- Task 7 in a state. -/
def taskIn (st : TaskState) (d : List Byte) : Task := { newTask (readDesc d) 0 with state := st }
/-- A device with code registered at 0x3000 and bytes in core 0's scratchpad. -/
def spawning (x : Word) (d : List Byte) : State :=
  spelling (.spawn h0 always 4 1) { withCode x 0 with mem := (putBytes base (spBase 0 + 0x100) d).mem }

/-- The core a SPAWN of the descriptor at scratchpad offset 0x100 targets. -/
def spawnCore (s : State) : Nat :=
  (target (issued s h0) (readDesc (readBytes s (spBase 0 + 0x100) 128)) (rget (issued s h0) regSchTaskId) none false).1

theorem witness_SpawnsTasks :
    (let s := spawning 0x100 (descOf 0x3000 0 0)
     canonicalB s = true ∧ runsB s (.spawn h0 always 4 1) 0 0 always = true ∧ badDesc (issued s h0) (readBytes s (spBase 0 + 0x100) 128) true = false ∧
       (reg s h0 1).toNat < 0x400000 ∧ (readDesc (readBytes s (spBase 0 + 0x100) 128)).delayTicks = 0 ∧
       (readDesc (readBytes s (spBase 0 + 0x100) 128)).dueOff = 0 ∧ (readDesc (readBytes s (spBase 0 + 0x100) 128)).prio = 0 ∧
       listLen s (spawnCore s) 0 < 1024) ∧
    (let s := { spawning 0x100 (descOf 0x3000 0 0) with sch := { base.sch with tasks := (List.range 1024).map fun i =>
        (i + 1, { taskIn .ready (descOf 0x3000 0 0) with lcore := spawnCore (spawning 0x100 (descOf 0x3000 0 0)) }) } }
     canonicalB s = true ∧ runsB s (.spawn h0 always 4 1) 0 0 always = true ∧ 1024 ≤ listLen s (spawnCore s) 0) ∧
    (let d := natLe 6 0x3000 ++ natLe 2 0xFFFF ++ natLe 4 0 ++ natLe 4 1 ++ natLe 3 0 ++ natLe 1 4 ++ List.replicate 108 0
     let s := spawning 0x100 d
     let i := issued s h0
     canonicalB s = true ∧ runsB s (.spawn h0 always 4 1) 0 0 always = true ∧ badDesc i (readBytes s (spBase 0 + 0x100) 128) true = false ∧
       (readDesc d).delayTicks = 1 ∧ s.now < dueAt i (s.tsq.tick + 1) 0 ∧ delayLen s (dieOf i (spawnCore s)) < 65536) ∧
    (let s := spawning 0x100 (descOf 0x8000 0 0)
     canonicalB s = true ∧ runsB s (.spawn h0 always 4 1) 0 0 always = true ∧ badDesc (issued s h0) (readBytes s (spBase 0 + 0x100) 128) true = true) ∧
    runsB (spawning 0x101 (descOf 0x3000 0 0)) (.spawn h0 always 4 1) 0 0 always = true ∧ runsB (spawning 0x400000 (descOf 0x3000 0 0)) (.spawn h0 always 4 1) 0 0 always = true := by
  decide +kernel

/-- The device with one task, number 7. -/
def withTask (x : Task) : State := { withCode 5 6 with sch := { base.sch with tasks := [(7, x)] } }

theorem witness_TaskEnds :
    (∀ c ∈ [Instr.tend h0 always 1, .illegal h0 always], let x := taskIn .running (descOf 0x3000 0 0)
      let t := spelling c (withTask x)
      let s := if c = .illegal h0 always then { t with mem := (putBytes t 0x1000 (natLe 8 (0xB * 2 ^ 60))).mem } else t
      canonicalB s = true ∧ runsB s c 0 0 always = true ∧ taskGet s (hart s h0).task = some x ∧ x.state = .running ∧ x.pcore = 0 ∧ x.strand = 0) ∧
    (let s := { withTask (taskIn .ending (descOf 0x3000 0 0)) with harts := [(0, { strandWith 5 6 with st := .wait, wait := .ending })] }
     Canonical s ∧ (hart s h0).wait = .ending ∧ (∀ c ∈ (coreGet s 0).cmds, c.task ≠ (hart s h0).task) ∧
       (taskGet s (hart s h0).task).map (·.state) = some .ending) ∧
    ∀ c ∈ [Instr.tend c0 always 1, .spawn c0 always 4 1, .illegal c0 always], Runs (ctrlWith 5 6) c c0 always :=
  ⟨by decide +kernel, ⟨canonical_of (by decide +kernel), by decide +kernel⟩, fun _ _ => runs_ctrl (by decide +kernel) (by decide +kernel)⟩

theorem witness_DispatchStartsTasks : let s := { withTask (taskIn .ready (descOf 0x3000 0 0)) with harts := [] }
    Canonical s ∧ physOf s 0 = some 0 ∧ mayStart s = true ∧ rdyState s (idxCore 0) = .ready ∧ greyAt s (idxCore 0) = false ∧ idleStrand s 0 = some 0 ∧
      chooseOwn s 0 = some (7, taskIn .ready (descOf 0x3000 0 0)) :=
  ⟨canonical_of (by decide +kernel), by decide +kernel⟩

/-- Task 7 at its commit arbiter. -/
def arbitrated (x : Task) (a : List ArbReq) : State :=
  { rset (withTask x) regSchTaskId 9 with sch := { base.sch with tasks := [(7, x)], arb := a, comp := [0x1000] } }

theorem witness_CommitPoint :
    (let x := { taskIn .ended (descOf 0x3000 0x8000 0x1000) with status := 0 }
     Canonical (arbitrated x [.final 7]) ∧ (arbitrated x [.final 7]).sch.arb.find? (arbDie (arbitrated x [.final 7]) 0) = some (.final 7) ∧
       willRerun (arbitrated x [.final 7]) x = false ∧ (arbitrated x [.final 7]).sch.comp = [0x1000]) ∧
    (let x := { taskIn .ended (natLe 11 0x3000 ++ natLe 1 8 ++ List.replicate 7 0 ++ natLe 1 4 ++ List.replicate 108 0) with status := 3, cause := 5 }
     willRerun (arbitrated x [.final 7]) x = true) ∧
    (let x := taskIn .ready (descOf 0x3000 0x8000 0x1000)
     let s := arbitrated x [.abort 7 (.ctrl 3)]
     Canonical s ∧ s.sch.arb.find? (isAbortOf 7) = some (.abort 7 (.ctrl 3)) ∧ s.sch.arb.contains (.final 7) = false ∧ taskGet s 7 = some x ∧
       bit (rget s (regSchAbortRes 3)) 31 = false ∧ 7 < rget s regSchTaskId ∧ rget s regSchTaskId ≤ 9 ∧
       taskGet { s with sch := { s.sch with tasks := [] } } 7 = none) :=
  ⟨⟨canonical_of (by decide +kernel), by decide +kernel⟩, by decide +kernel, ⟨canonical_of (by decide +kernel), by decide +kernel⟩⟩

theorem witness_DelayedAndReleased :
    (let x := { taskIn .delayed (descOf 0x3000 0 0) with dueTick := 5 }
     Canonical (withTask x) ∧ taskGet (withTask x) 7 = some x ∧ dueNow (withTask x) x = true ∧ firstDue (withTask x) 7 x = true ∧
       mayStart (withTask x) = true ∧ listLen (withTask x) (target (withTask x) x.desc 7 none false).1 x.desc.prio < 1024) ∧
    (let s := { spawning 0 (descOf 0x3000 0 0) with sch := { base.sch with releases := [⟨spBase 0 + 0x100, 0x55, none, none⟩] } }
     Canonical s ∧ mayStart s = true ∧ badDesc s (readBytes s (spBase 0 + 0x100) 128) false = false ∧ listLen s 0 0 < 1024) ∧
    (let s := { spawning 0 (descOf 0x3000 0 0) with
       boot := { base.boot with coreMap := [(0, 0), (1, 1)] }
       sch := { base.sch with
         releases := [⟨spBase 0 + 0x100, 0x55, some 0, none⟩, ⟨spBase 0 + 0x100, 0x56, some 1, none⟩]
         tasks := (List.range 1024).map fun i => (i + 1, { taskIn .ready (descOf 0x3000 0 0) with lcore := 0 }) } }
     Canonical s ∧ mayStart s = true ∧ 1024 ≤ listLen s (target s (readDesc (descOf 0x3000 0 0)) 1 (some 0) false).1 0 ∧
       listLen s (target s (readDesc (descOf 0x3000 0 0)) 1 (some 1) false).1 0 < 1024) ∧
    badDesc (withCode 0 0) ((descOf 0x3000 0 0 ++ natLe 8 9).take 128) true = false :=
  ⟨⟨canonical_of (by decide +kernel), by decide +kernel⟩, ⟨canonical_of (by decide +kernel), by decide +kernel⟩,
    ⟨canonical_of (by decide +kernel), by decide +kernel⟩, by decide +kernel⟩

/-- Strand 0 about to run an instruction, with a hitch under id 0x1000, values and a latch. -/
def hitching (c : Instr) (x y : Word) (q : Hitch) (l : Option HLatch) : State :=
  spelling c { base with harts := [(0, { strandWith x y with hLatch := l })], hit := { base.hit with hitches := [(0x1000, q)] } }

theorem witness_HitchOperations :
    (∀ y ∈ [0xFFFFFFFE, 0xFFFFFFFD], let c := Instr.hadd h0 always 4 1 2
      let s := hitching c 0x1000 (BitVec.ofNat 64 y) ⟨2, true, 0, 5, [(3, 4), (0, 2)]⟩ none
      canonicalB s = true ∧ runsB s c 0 0 always = true ∧ (reg s h0 1).toNat = 0x1000 ∧
        (hitchGet s 0x1000).count + (BitVec.ofNat 32 (reg s h0 2).toNat).toInt = (y : Int) - 0xFFFFFFFE) ∧
    (∀ q ∈ [(⟨0, true, 65534, 5, []⟩ : Hitch), ⟨0, true, 65535, 5, []⟩, ⟨0, true, 0, 5, [(3, 4)]⟩],
      ∀ c ∈ [Instr.htest h0 always 4 1 2, .hrelone h0 always 4 1 2, .hrelall h0 always 4 1 2], let s := hitching c 0x1000 0 q none
      canonicalB s = true ∧ runsB s c 0 0 always = true ∧ (reg s h0 1).toNat = 0x1000 ∧ (reg s h0 2).toNat = 0 ∧ hitchGet s 0x1000 = q) := by
  decide +kernel

theorem witness_HitchWaits :
    (∀ y ∈ [3, 4], let c := Instr.harrive h0 always 4 1 2
      let s := hitching c 0x1000 (BitVec.ofNat 64 y) ⟨2, true, 0, 5, [(3, 4)]⟩ none
      canonicalB s = true ∧ runsB s c 0 0 always = true ∧ decide (max 1 ((reg s h0 2).toNat % 2 ^ 32) ≤ (hitchGet s 0x1000).count + 1) = decide (y = 3) ∧
        (hart s h0).hLatch = none) ∧
    (∀ l ∈ [none, some ⟨0x1000, 4, .queued⟩, some ⟨0x1000, 4, .taken⟩, some ⟨0x1000, 4, .relOne⟩, some ⟨0x1000, 4, .broken⟩, some ⟨0x1001, 4, .queued⟩],
      ∀ e ∈ [(0, 1), (0, 0), (1, 0)], let c := Instr.hwait h0 always 4 1 2
      let s := hitching c 0x1000 (BitVec.ofNat 64 e.1) ⟨2, true, e.2, 5, [(0, 4)]⟩ l
      canonicalB s = true ∧ runsB s c 0 0 always = true ∧ (reg s h0 1).toNat = 0x1000 ∧ (hart s h0).hLatch = l ∧ (hitchGet s 0x1000).credits = e.2) ∧
    (∀ l ∈ [(⟨0x1000, 4, .queued⟩ : HLatch), ⟨0x1001, 4, .relOne⟩], let c := Instr.harrive h0 always 4 1 2
      let s := hitching c 0x1000 4 ⟨2, true, 0, 5, [(0, 4)]⟩ (some l)
      canonicalB s = true ∧ runsB s c 0 0 always = true ∧ (hitchGet s 0x1000).count + 1 < max 1 ((reg s h0 2).toNat % 2 ^ 32) ∧ (hart s h0).hLatch = some l) := by
  decide +kernel

theorem witness_HitchTargets :
    (∀ x ∈ [0x8001000, 0x3FF1000, 0, 0x10000, 0xFFF], let c := Instr.hrelall h0 always 4 1 2
      let s := hitching c (BitVec.ofNat 64 x) 0 ⟨2, true, 0, 5, []⟩ none
      canonicalB s = true ∧ runsB s c 0 0 always = true ∧
        ((reg s h0 1).toNat / 2 ^ 27 ≠ 0 ∨ ((reg s h0 1).getLsbD 26 = false ∧ (reg s h0 1).toNat / 2 ^ 16 % 2 ^ 10 ≠ 0) ∨ (reg s h0 1).toNat % 2 ^ 16 = 0 ∨
          (reg s h0 1).toNat % 2 ^ 16 < 0x1000)) ∧
    (∀ c ∈ [Instr.hrelone h0 always 4 1 2, .hrelall h0 always 4 1 2, .hwait h0 always 4 1 2], let s := hitching c 0x1000 2 ⟨2, true, 0, 5, []⟩ none
     canonicalB s = true ∧ runsB s c 0 0 always = true ∧ reg s h0 2 ≠ 0 ∧ 1 < (reg s h0 2).toNat) ∧
    (∀ c ∈ [Instr.hrelall h0 always 4 1 2, .harrive h0 always 4 1 2], let s := hitching c 0x4021000 0 ⟨2, true, 0, 5, []⟩ none
     canonicalB s = true ∧ runsB s c 0 0 always = true ∧ (reg s h0 1).toNat / 2 ^ 27 = 0 ∧ (reg s h0 1).getLsbD 26 = true ∧
       (reg s h0 1).toNat / 2 ^ 16 % 2 ^ 10 ≠ s.boot.dev ∧ 0x1000 ≤ (reg s h0 1).toNat % 2 ^ 16 ∧ reg s h0 2 = 0) := by decide +kernel

theorem witness_HitchRoot :
    (∀ st ∈ [LatchState.queued, .relOne], let s := { base with hit := { base.hit with
        hitches := [(0x1000, ⟨2, true, 0, 5, [(0, 4), (3, 2)]⟩)], withdrawals := [⟨0x1000, 4, 0, st⟩], returned := [0x1000] } }
      canonicalB s = true ∧ 0x1000 ∈ s.hit.returned) ∧
    (let s := { base with hit := { base.hit with hitches := [(0x1000, ⟨2, true, 65534, 5, []⟩)], returned := [0x1000] } }
     Canonical s ∧ (hitchGet s 0x1000).queue = [] ∧ (hitchGet s 0x1000).credits < 65535) :=
  ⟨by decide +kernel, ⟨canonical_of (by decide +kernel), by decide +kernel⟩⟩

/-- Barrier 64 over strands 0 and 1 of core 0 and control core 0, its core node in a state. -/
def barred (x y : Word) (node : KnotNode) (broken : Bool) (l : Option (Nat × Nat)) : State :=
  { base with
    harts := [(0, { strandWith x y with kLatch := l })]
    hit := { base.hit with barriers := [(64, { barrierReset with def_ := ⟨true, 2, false, 1, 0, 0, 0, 1⟩, pcores := [0], nodes := [(0, node)], broken := broken })] } }

theorem witness_BarrierArrivals :
    (∀ c ∈ [Instr.karrive h0 always 4 1 2, .kwait h0 always 4 1 2],
      (∀ e ∈ [(1024, 0), (64, 1), (63, 0)], let s := spelling c (barred (BitVec.ofNat 64 e.1) (BitVec.ofNat 64 e.2) ⟨1, 0, false, 3, 1, 0⟩ false none)
        canonicalB s = true ∧ runsB s c 0 0 always = true ∧
          ¬((reg s h0 1).toNat < 1024 ∧ (reg s h0 2).toNat = 0 ∧ (isStrand h0 = true → 64 ≤ (reg s h0 1).toNat))) ∧
      (let s := spelling c (barred 65 0 ⟨1, 0, false, 3, 1, 0⟩ false none)
       canonicalB s = true ∧ runsB s c 0 0 always = true ∧ participates s h0 65 = false) ∧
      (let s := spelling c (barred 64 0 ⟨1, 0, false, 3, 1, 0⟩ true none)
       canonicalB s = true ∧ runsB s c 0 0 always = true ∧ participates s h0 64 = true ∧ (barGet s 64).broken = true) ∧
      ∀ n ∈ [(⟨1, 0, false, 3, 2, 0⟩ : KnotNode), ⟨1, 0, false, 3, 1, 0⟩, ⟨1, 1, false, 3, 1, 1⟩], ∀ l ∈ [none, some (64, 2), some (64, 3)],
        let s := spelling c (barred 64 0 n false l)
        canonicalB s = true ∧ runsB s c 0 0 always = true ∧ participates s h0 64 = true ∧ (barGet s 64).broken = false ∧ (hart s h0).kLatch = l ∧
          (barGet s 64).node (arriveAt h0).1 = n ∧ (arriveAt h0).2 = 0) ∧
    (3 + 4 - 2) % 4 = 1 ∧ (3 + 4 - 3) % 4 ≠ 1 := by decide +kernel

theorem witness_KnotTree : let s := { barred 0 0 ⟨1, 0, false, 3, 1, 0⟩ false none with hit := { (barred 0 0 ⟨1, 0, false, 3, 1, 0⟩ false none).hit with
      arrivals := [(64, 300, false)], releases := [(64, 0, false)] } }
    Canonical s ∧ s.hit.arrivals.find? (fun a => a.1 == 64 && a.2.1 == 300) = some (64, 300, false) ∧ (barGet s 64).broken = false ∧
      (barGet s 64).def_.defined = true ∧ s.hit.releases.find? (fun a => a.1 == 64 && a.2.1 == 0) = some (64, 0, false) ∧
      (List.replicate 64 (1 : Byte)).length = 64 :=
  ⟨canonical_of (by decide +kernel), by decide +kernel⟩

theorem witness_WaitsEnd :
    (let s := { base with harts := [(0, { strandWith 0 0 with st := .wait, wait := .queueRoom })] }
     Canonical s ∧ (hart s h0).st = .wait ∧ waitOver s h0 = true) ∧
    (∀ st ∈ [LatchState.relOne, .relAll, .queued],
      let s := { base with harts := [(0, { strandWith 0 0 with st := .spin, wait := .hitch 4, hLatch := some ⟨0x1000, 4, st⟩ })] }
      canonicalB s = true ∧ (hart s h0).st = .spin ∧ (hart s h0).wait = .hitch 4) ∧
    (let s := { barred 64 0 ⟨1, 0, false, 3, 1, 0⟩ false (some (64, 2)) with harts := [(0, { strandWith 0 0 with st := .spin, wait := .barrier 4, kLatch := some (64, 2) })] }
     Canonical s ∧ (hart s h0).wait = .barrier 4 ∧ (barGet s 64).broken = false ∧ (((barGet s 64).node (arriveAt h0).1).round + 4 - 2) % 4 = 1) ∧
    (∀ d ∈ [applyAt base - 1, applyAt base], let s := { base with harts := [(0, { strandWith 0 0 with st := .wait, wait := .listRoom 0x100, deadline := d })] }
      canonicalB s = true ∧ (hart s h0).deadline ≠ 0 ∧ s.tsq.running = true) :=
  ⟨⟨canonical_of (by decide +kernel), by decide +kernel⟩, by decide +kernel, ⟨canonical_of (by decide +kernel), by decide +kernel⟩, by decide +kernel⟩

/-- A device whose time unit is in a state with a source; SRC_ORDER prefers TICK_IN, PTM, PTP. -/
def timed (st : TimState) (src : Nat) : State :=
  { fset base regTimCfg 5 0 0x1B with tim := { base.tim with state := st, source := src, ptpPort := 3, bad := 3, good := 15, lastMeasAt := 100 } }

theorem witness_OnlyPhasesMoveTheTick : Canonical base ∧ movesTick (.add h0 always 4 1 2) = false ∧ movesTick .tickStart = true :=
  ⟨canonical_of (by decide +kernel), by decide +kernel⟩

/-- A device in a phase and a stage of tick 5. -/
def inPhase (p : Phase) (stage : Nat) : State := { base with tsq := { base.tsq with phase := p, stage := stage } }
/-- A device whose first tick is due. -/
def beforeTicks : State :=
  { base with tsq := { base.tsq with running := false, readyAt := some 100 }, tim := { base.tim with state := .locked, usableAt := 5 } }

theorem witness_TickPhases :
    (∀ p ∈ [Phase.prime, .run, .settle, .apply], ∀ k ∈ [0, 1, 2, 3], let s := inPhase p k
      canonicalB s = true ∧ s.tsq.running = true ∧ s.tsq.phase = p ∧ s.tsq.stage = k) ∧ timeRuns base = true ∧
    (canonicalB beforeTicks = true ∧ (firstTick beforeTicks).isSome = true ∧ firstTick base = none) := by decide +kernel

theorem witness_Measurements :
    (∀ st ∈ [TimState.unset, .free, .adrift, .locked, .acquiring, .holdover, .ahead], ∀ src ∈ [0, 1, 2, 3], let s := timed st src
      canonicalB s = true ∧ s.tim.state = st ∧ s.tim.source = src) ∧
    srcRank (timed .locked 2) 0 = 3 ∧ srcRank (timed .locked 2) 3 < srcRank (timed .locked 2) 2 ∧
      srcRank (timed .locked 2) 2 < srcRank (timed .locked 2) 1 ∧ srcRank (timed .locked 2) 1 ≠ 3 ∧
    ¬((100 : Int) - 0).natAbs > 100 ∧ ((101 : Int) - 0).natAbs > 100 ∧ ((0 : Int) - 40).natAbs ≤ 40 ∧ ((0 : Int) - 41).natAbs > 40 ∧
    ((-4000000 : Int) - 0).tdiv 4 = -1000000 ∧ ((-4000004 : Int) - 0).tdiv 4 < -1000000 ∧
    (timed .locked 2).tim.bad + 1 = 4 ∧ (timed .acquiring 2).tim.good + 1 = 16 := by decide +kernel

theorem witness_TimeSources :
    (∀ st ∈ [TimState.locked, .acquiring], (timed st 2).tim.grandmaster = false ∧ canonicalB (timed st 2) = true ∧ timeRuns (timed st 2) = true) ∧
    (∀ ok ∈ [0, 1], let s := { (fset (timed .holdover 2) regTimCfg 6 6 ok) with pci := { base.pci with linkUp := false } }
      canonicalB s = true ∧ s.tim.state = .holdover ∧ (srcOrder s).find? (fun x => x != s.tim.source && Machine.answers s x) = none ∧
        freeOk s = decide (ok = 1)) ∧
    (let s := { timed .holdover 1 with pci := { base.pci with linkUp := true }, tim := { (timed .holdover 1).tim with heard := [(2, base.now)] } }
     canonicalB s = true ∧ s.tim.state = .holdover ∧ (srcOrder s).find? (fun x => x != s.tim.source && Machine.answers s x) = some 2) ∧
    (let s := { timed .holdover 3 with pci := { base.pci with linkUp := true } }
     canonicalB s = true ∧ srcRank s 2 ≠ 3 ∧ s.pci.linkUp = true ∧ srcRank s 2 ≤ srcRank (timed .holdover 1) 1) ∧
    (let s := { timed .holdover 2 with tim := { (timed .holdover 2).tim with ptmPending := true, tickInWord := some 7 } }
     canonicalB s = true ∧ s.tim.ptmPending = true ∧ s.tim.tickInWord = some 7) ∧
    ((timed .locked 2).tim.ptmPending = false ∧ (timed .locked 2).tim.tickInWord = none ∧ (2 ^ 64 - 1 < 2 ^ 64)) ∧
    (let s := fset (timed .locked 2) regTimCfg 63 0 (2 ^ 64 - 1)
     canonicalB s = true ∧ tickOutEn s = true ∧ s.tsq.running = true ∧ timeRuns s = true) := by decide +kernel

/-- The body of a PTP message of a type, with sequence number 0 and domain 0. -/
def ptpBody (ty : Nat) : List Byte := natLe 1 (0x10 + ty) ++ natLe 1 0x12 ++ natLe 2 0 ++ List.replicate 100 0
/-- A device that is slave on port 3 with that port's PTP state. -/
def slaved (p : PtpPort) : State := { timed .acquiring 1 with tim := { (timed .acquiring 1).tim with ports := [(3, p)], grandmaster := false } }

theorem witness_PtpMessages :
    (canonicalB (slaved { ptpReset with reqSeq := 1 }) = true ∧ beFld (ptpBody 0) 4 1 = 0 ∧ ptpType (ptpBody 0) = 0 ∧ ptpType (ptpBody 2) = 2 ∧
      (ptpGet (slaved ptpReset) 3).reqSeq = beFld (ptpBody 2) 30 2) ∧
    (let s := slaved { ptpReset with syncAt := some (0, 55, 0), peerDelay := some 7, announce := some ⟨1, 2, 3, 4, 5, 6, 1, 0⟩, heardAt := base.now }
     canonicalB s = true ∧ ptpType (ptpBody 8) = 8 ∧ (ptpGet s 3).syncAt = some (beFld (ptpBody 8) 30 2, 55, 0) ∧ (ptpGet s 3).peerDelay = some 7 ∧
       s.tim.ptpPort = 3 ∧ s.tim.grandmaster = false ∧ (bestAnnounce s).isSome = true) ∧
    (let s := slaved { ptpReset with reqAt := some 4, respAt := some (3, 4) }
     canonicalB s = true ∧ ptpType (ptpBody 3) = 3 ∧ ptpType (ptpBody 0xA) = 0xA ∧ (ptpGet s 3).reqAt = some 4 ∧ (ptpGet s 3).respAt = some (3, 4) ∧
       (ptpGet s 3).reqSeq = beFld (ptpBody 3) 30 2) ∧
    (let s := slaved { ptpReset with foreign := [(0, base.now)] }
     canonicalB s = true ∧ ptpType (ptpBody 0xB) = 0xB ∧ beFld (ptpBody 0xB) 20 8 = 0 ∧ pfind (ptpGet s 3).foreign 0 = some s.now ∧
       beFld (ptpBody 0xB) 61 2 < 254 ∧ (ptpGet s 3).announce = none) ∧
    beFld (natLe 4 0x1200 ++ [1]) 4 1 ≠ 0 ∧
    (let s := { slaved { ptpReset with reqSeq := 1 } with tim := { (slaved { ptpReset with reqSeq := 1 }).tim with grandmaster := true } }
     canonicalB s = true ∧ ptpMaster s 3 = true ∧ rdyState s (idxPort 3) = .ready) := by decide +kernel

/-- A summary body for a tick that names 64 bytes of items. -/
def summaryOf (tick : Nat) : List Byte := natLe 1 1 ++ natLe 1 0 ++ natLe 2 1 ++ natLe 4 0 ++ natLe 8 tick ++ List.replicate 64 3

theorem witness_PlansAndSummaries : canonicalB base = true ∧ fld (summaryOf 5) 8 8 = base.tsq.tick ∧ fld (summaryOf 6) 8 8 ≠ base.tsq.tick ∧
    fld (natLe 16 0) 4 2 = 0 ∧ planSealed base.tsq.planNext = false := by decide +kernel

/-! #### The engines of a core -/

/-- A state whose core 0 holds one command of strand 0's task, table 0 SERVING and readable, and device 3 behind port 0. -/
def engine (c : Cmd) : State :=
  { withCmds base [c] with
    harts := [(0, { hartReset with task := 7, drain := [(1, none)] })]
    emb := { base.emb with tables := [(0, { tableReset with state := 2, width := 4, stride := 32, rows := 1000, taskStage := true, stageRows := 8 })] }
    hws := { base.hws with routes := [(3, 2 ^ 63)] } }

/-- A gather of one input in a mode, and a look-up of one bag in a mode, of table 0. -/
def gatherDesc (mode : Byte) : List Byte :=
  [mode, 0, 0, 0] ++ natLe 2 1 ++ natLe 2 0 ++ natLe 4 1 ++ natLe 4 0x100 ++ natLe 4 0x200 ++ natLe 4 0x300 ++ natLe 4 0x400 ++ natLe 8 0 ++ natLe 2 32 ++
    List.replicate 26 0
def lookupDesc (mode : Byte) : List Byte :=
  [mode, 0, 0, 0] ++ natLe 4 0 ++ natLe 4 1 ++ natLe 4 0 ++ natLe 4 0x100 ++ natLe 8 0 ++ natLe 4 0x200 ++ natLe 2 32 ++ natLe 2 0 ++ natLe 4 0x300 ++
    List.replicate 24 0
/-- A send of a kind from scratchpad offset 0x100 to a device: one word for 0x3000, or a task. -/
def sendDesc (kind : Byte) (dst : Nat) : List Byte :=
  [kind, 0] ++ natLe 2 dst ++ natLe 2 1 ++ natLe 2 0 ++ natLe 8 (if kind = 1 then 0x3000 else 0) ++ natLe 4 0x100 ++ List.replicate 44 0

def gatherCmd (mode : Byte) : Cmd := cmdOf 1 .gather (gatherDesc mode)
def lookupCmd (mode : Byte) : Cmd := cmdOf 1 .lookup (lookupDesc mode)
def sendCmd (mode : Byte) (dst : Nat) : Cmd := cmdOf 1 .send (sendDesc mode dst)

/-- The same with every channel LOST. -/
def lostAll (s : State) : State := { s with chans := (List.range 192).map fun c => (c, { chanReset with lost := true }) }

theorem witness_GatherEngineStarts :
    (startable? base 0 .gather = none ∧ startable? base 0 .lookup = none) ∧
    (let c := cmdOf 1 .gather (List.replicate 64 0)
     canonicalB (engine c) = true ∧ startable? (engine c) 0 .gather = some c ∧ badGather (engine c) 0 c.desc = true) ∧
    (let s := { engine (gatherCmd 2) with emb := base.emb }
     canonicalB s = true ∧ startable? s 0 .gather = some (gatherCmd 2) ∧ badGather s 0 (gatherDesc 2) = false ∧ fld (gatherDesc 2) 0 1 ≠ 1 ∧
       readable s (fld (gatherDesc 2) 6 2) = false) ∧
    (∀ m ∈ [1, 2], let c := gatherCmd m
      canonicalB (engine c) = true ∧ startable? (engine c) 0 .gather = some c ∧ badGather (engine c) 0 c.desc = false ∧
        readable (engine c) (fld c.desc 6 2) = true ∧ (evalGather (engine c) 0 c).cause = none) ∧
    (let c := cmdOf 1 .lookup []
     canonicalB (engine c) = true ∧ startable? (engine c) 0 .lookup = some c ∧ badLookup (engine c) 0 c.desc = true) ∧
    (let s := { engine (lookupCmd 1) with emb := base.emb }
     canonicalB s = true ∧ startable? s 0 .lookup = some (lookupCmd 1) ∧ badLookup s 0 (lookupDesc 1) = false ∧ badTable s (lookupDesc 1) = true) ∧
    (∀ m ∈ [1, 3], let c := lookupCmd m
      canonicalB (engine c) = true ∧ startable? (engine c) 0 .lookup = some c ∧ badLookup (engine c) 0 c.desc = false ∧
        badTable (engine c) c.desc = false ∧ fld c.desc 0 1 = m.toNat) ∧
    (evalLookup (engine (lookupCmd 1)) 0 (lookupCmd 1)).cause = none ∧
    (canonicalB (lostAll (engine (gatherCmd 2))) = true ∧ startable? (lostAll (engine (gatherCmd 2))) 0 .gather = some (gatherCmd 2) ∧
      (evalGather (lostAll (engine (gatherCmd 2))) 0 (gatherCmd 2)).cause.isSome = true ∧
      startable? (lostAll (engine (lookupCmd 1))) 0 .lookup = some (lookupCmd 1) ∧
      (evalLookup (lostAll (engine (lookupCmd 1))) 0 (lookupCmd 1)).cause.isSome = true) := by decide +kernel

/-- A split gather of vertex 0, whose list is a hub of two fragments: its template at scratchpad offset 0x500, index at 0x5000, root at 0x6000. -/
def hubDesc : List Byte :=
  [1, 0, 4, 0] ++ natLe 2 1 ++ natLe 2 0 ++ natLe 4 1 ++ natLe 4 0x100 ++ natLe 4 0x200 ++ natLe 4 0 ++ natLe 4 0x400 ++ natLe 4 0 ++ natLe 4 0x500 ++
    natLe 4 0 ++ natLe 6 0x5000 ++ natLe 5 1 ++ List.replicate 13 0
def hubCmd : Cmd := runCmd (cmdOf 1 .gather hubDesc)
def withHub (c : Cmd) : State :=
  let s := putBytes base (spBase 0 + 0x500) (descOf 0x3000 0 0)
  let s := putBytes s 0x5000 (natLe 8 0x6000)
  let s := putBytes s 0x6000 (natLe 5 200 ++ [0x20, 0, 0] ++ natLe 4 2)
  { engine c with mem := s.mem, pci := (withCode 0 0).pci, boot := (withCode 0 0).boot }

/-- A chain of four sums of streams A and B. -/
def sumChain : List Byte :=
  [0, 1, 0, 0, 0, 0, 0, 0] ++ natLe 4 4 ++ natLe 4 0 ++ natLe 4 0x1000 ++ natLe 4 0x2000 ++ natLe 8 0 ++ natLe 4 0x3000 ++ natLe 4 0 ++
    [0x10, 0, 0, 0] ++ natLe 4 0 ++ natLe 4 0xFFFFFFFF ++ natLe 4 0x4000 ++ List.replicate 8 0 ++ [2, 1, 2, 0] ++ List.replicate 188 0
/-- A product of 4 x 4 tiles over K = 4 that drains or not. -/
def matDesc (flags : Byte) (slots : Byte) : List Byte :=
  [1, flags, 3, 3] ++ natLe 4 4 ++ natLe 4 0x10000 ++ natLe 4 32 ++ natLe 4 0x20000 ++ natLe 4 32 ++ natLe 4 0 ++ natLe 4 0 ++ natLe 4 0x30000 ++
    natLe 2 32 ++ natLe 2 0 ++ natLe 8 0 ++ natLe 4 0 ++ natLe 4 0x40000 ++ natLe 4 0xFFFFFFFF ++ [slots, 0, 0, 0]

/-- A gather of the neighbours of vertex 0, whose list of six edges lies at 0x8000. -/
def listDesc : List Byte :=
  [1, 0, 0, 0] ++ natLe 2 1 ++ natLe 2 0 ++ natLe 4 1 ++ natLe 4 0x100 ++ natLe 4 0x200 ++ natLe 4 0 ++ natLe 4 0x400 ++ natLe 8 0 ++
    natLe 4 0 ++ natLe 6 0x5000 ++ natLe 5 1 ++ List.replicate 13 0
def listCmd : Cmd := runCmd (cmdOf 1 .gather listDesc)
def withList : State := { engine listCmd with mem := (putBytes sixEdges 0x5000 (natLe 8 0x8000)).mem }

theorem witness_GatherEngineCompletes :
    (let c := runCmd { gatherCmd 2 with status := 3 }
     canonicalB (engine c) = true ∧ cmdGet (engine c) 0 1 = some c ∧ c.running = true ∧ c.kind = .gather ∧ awaiting (engine c) 0 1 = false ∧
       c.frags = [] ∧ c.status ≠ 0) ∧
    (let c := listCmd
     let s := { withList with
       cores := [(0, { coreReset with cmds := [c], ahead := [⟨7, 1, 5, [(0x5000, [(5, 1)]), (0x8000, [(8, 1)]), (0x9000, [(9, 1)])]⟩] })]
       sch := { base.sch with tasks := [(7, { taskIn .running (descOf 0x3000 0 0) with pcore := 0, strand := 0 })] } }
     let o := evalGather s 0 c
     canonicalB s = true ∧ cmdGet s 0 1 = some c ∧ c.status = 0 ∧ atApply s = false ∧ o.needs = [] ∧ o.splits = [] ∧
       (taskGet s 7).map (fun x => (x.state, x.pcore, x.strand)) = some (.running, 0, 0) ∧ aheadStale s 0 1 o.spans = 2) ∧
    (canonicalB (withHub hubCmd) = true ∧ cmdGet (withHub hubCmd) 0 1 = some hubCmd ∧
      (let o := evalGather (withHub hubCmd) 0 hubCmd
       o.cause = none ∧ o.needs = [] ∧ o.splits ≠ [])) ∧
    (let c := runCmd (gatherCmd 2)
     let o := evalGather (engine c) 0 c
     canonicalB (engine c) = true ∧ cmdGet (engine c) 0 1 = some c ∧ aheadStale (engine c) 0 1 o.spans = 0 ∧ o.cause = none ∧ o.needs = [] ∧ o.splits = []) ∧
    (let c := runCmd (gatherCmd 2)
     canonicalB (lostAll (engine c)) = true ∧ cmdGet (lostAll (engine c)) 0 1 = some c ∧
       (evalGather (lostAll (engine c)) 0 c).cause.isSome = true) ∧
    (let c := runCmd { gatherCmd 2 with frags := [descOf 0x3000 0 0] }
     canonicalB (engine c) = true ∧ cmdGet (engine c) 0 1 = some c ∧ c.frags ≠ []) ∧
    (∀ n ∈ [0, 3], let c := runCmd { lookupCmd 1 with status := n }
      canonicalB (engine c) = true ∧ cmdGet (engine c) 0 1 = some c ∧ awaiting (engine c) 0 1 = false ∧ c.status = n ∧ fld c.desc 0 1 ≠ 3) ∧
    (let c := runCmd (lookupCmd 1)
     let o := evalLookup (engine c) 0 c
     o.cause = none ∧ o.needs = [] ∧ (evalLookup (lostAll (engine c)) 0 c).cause.isSome = true) ∧
    (let s := { engine (runCmd (lookupCmd 1)) with hws := { base.hws with remotes := [⟨3, 2, 900000, 0, 1, none, 0, [7], [], none, false⟩] } }
     canonicalB s = true ∧ awaiting s 0 1 = true) ∧
    minBy (fun a : RunAhead => a.at_) (coreGet { base with cores := [(0, { coreReset with ahead := [⟨7, 1, 5, []⟩] })] } 0).ahead = some ⟨7, 1, 5, []⟩ ∧
    timeRuns base = true := by decide +kernel

/-- A send of a task by strand 0, its descriptor in the scratchpad. -/
def sending (c : Cmd) (d : List Byte) : State := { engine c with mem := (spawning 0 d).mem, pci := (spawning 0 d).pci, boot := (spawning 0 d).boot }

theorem witness_SendCommands :
    startable? base 0 .send = none ∧
    (let c := cmdOf 1 .send []
     canonicalB (engine c) = true ∧ startable? (engine c) 0 .send = some c ∧ badSend c.desc = true) ∧
    (let c := sendCmd 1 0
     canonicalB (engine c) = true ∧ startable? (engine c) 0 .send = some c ∧ badSend c.desc = false ∧ fld c.desc 2 2 = (engine c).boot.dev ∧
       (sendBody (engine c) 0 c).1 = 3) ∧
    (let c := sendCmd 2 0
     ∀ e ∈ [(0x3000, 0), (0x8000, 1)], let s := sending c (descOf e.1 0 0)
       canonicalB s = true ∧ startable? s 0 .send = some c ∧ badSend c.desc = false ∧ fld c.desc 2 2 = s.boot.dev ∧ (sendBody s 0 c).1 ≠ 3 ∧
         (submit s ((sendBody s 0 c).2.take 128) (fld (sendBody s 0 c).2 128 8) true).1 = e.2) ∧
    (let c := sendCmd 2 0
     let s := { sending c (descOf 0x3000 0 0) with sch := { base.sch with tasks := (List.range 1024).map fun i =>
        (i + 1, { taskIn .ready (descOf 0x3000 0 0) with lcore := spawnCore (spawning 0x100 (descOf 0x3000 0 0)) }) } }
     canonicalB s = true ∧ startable? s 0 .send = some c ∧ 1 < (submit s ((sendBody s 0 c).2.take 128) (fld (sendBody s 0 c).2 128 8) true).1) ∧
    (∀ e ∈ [(3, some (0, false)), (4, none)], let c := sendCmd 1 e.1
      canonicalB (engine c) = true ∧ startable? (engine c) 0 .send = some c ∧ badSend c.desc = false ∧ fld c.desc 2 2 ≠ (engine c).boot.dev ∧
        routePort (engine c) e.1 false = e.2) ∧
    (∀ n ∈ [0, 512], let c := sendCmd 1 3
      let s := { engine c with hws := { (engine c).hws with ports := if n = 0 then [(0, { portReset with credits := (List.range 24).map fun v => (v, 0) })] else [] } }
      canonicalB s = true ∧ startable? s 0 .send = some c ∧ routePort s 3 false = some (0, false) ∧
        creditRoom s 0 (vcOf (sendBody s 0 c).1 (sendBody s 0 c).2) (cellParts (sendBody s 0 c).2.length (sendBody s 0 c).2).length = decide (n = 512)) := by
  decide +kernel

theorem witness_VectorChains :
    (canonicalB base = true ∧ runningOf base 0 isChain = [] ∧ nextCmd base 0 isChain = none) ∧
    (∀ d ∈ [[2], sumChain], let c := cmdOf 1 .chain d
      canonicalB (engine c) = true ∧ runningOf (engine c) 0 isChain = [] ∧ nextCmd (engine c) 0 isChain = some c ∧ badVec d = decide (d = [2])) ∧
    (∀ n ∈ [0, 2], let c := runCmd { cmdOf 1 .chain sumChain with status := n, old := inputCells base (spBase 0) sumChain }
      canonicalB (engine c) = true ∧ runningOf (engine c) 0 isChain = [c] ∧ c.status = n ∧ storedUnits (engine c) c = []) := by decide +kernel

/-- A core with a matrix engine and a waiting command. -/
def matrix (m : MatSt) (c : Cmd) : State := { engine c with cores := [(0, { coreReset with mat := m, cmds := [c] })] }
def matReset : MatSt := (coreGet base 0).mat

theorem witness_MatrixCommands :
    (canonicalB base = true ∧ swapWaiting base 0 = none ∧ nextCmd base 0 isMat = none ∧ matReset.draining = none) ∧
    (let c := cmdOf 1 .mat (matDesc 0x80 0)
     canonicalB (matrix matReset c) = true ∧ swapWaiting (matrix matReset c) 0 = none ∧ nextCmd (matrix matReset c) 0 isMat = some c ∧
       badMat matReset c.hart c.desc = true) ∧
    (∀ e ∈ [(1, 0, 0), (0, 0, 0), (0, 2 ^ 20, 0)], let c := cmdOf 1 .mat (matDesc 0 0)
      let m := { matReset with open_ := true, owner := e.1, openM := 3, openN := 3, terms := e.2.1 }
      canonicalB (matrix m c) = true ∧ nextCmd (matrix m c) 0 isMat = some c ∧ badMat m c.hart c.desc = false ∧ m.open_ = true ∧
        decide (m.owner ≠ c.hart) = decide (e.1 = 1) ∧ mMma c.desc = true ∧ mStart c.desc = false ∧
        m.splits + splitsOf (planOf c.desc m.terms m.passes) = (if e.2.1 = 0 then 0 else 1) ∧ m.partSlots = 0) ∧
    (let c := cmdOf 1 .mat (matDesc 1 0)
     let m := { matReset with draining := some 5, drainDesc := [2, 0, 3, 3] ++ List.replicate 28 0 ++ natLe 4 0x10000 ++ natLe 2 32 ++ List.replicate 26 0 }
     canonicalB (matrix m c) = true ∧ swapWaiting (matrix m c) 0 = none ∧ nextCmd (matrix m c) 0 isMat = some c ∧ badMat m c.hart c.desc = false ∧
       matHeld m c.desc 0 = true ∧ matHeld matReset c.desc 0 = false) ∧
    (∀ e ∈ [(0, 3), (0, 0), (2, 0)], let c := runCmd { cmdOf 1 .mat (matDesc (BitVec.ofNat 8 e.1) 0) with status := e.2 }
      canonicalB (matrix matReset c) = true ∧ cmdGet (matrix matReset c) 0 1 = some c ∧ c.kind = .mat ∧ c.status = e.2 ∧
        mDrains c.desc = decide (e.1 = 2) ∧ fld c.desc 0x38 4 = 0xFFFFFFFF) ∧
    (let c := { runCmd (cmdOf 1 .mat (matDesc 2 0)) with draining := true }
     let s := matrix { matReset with draining := some 1 } c
     canonicalB s = true ∧ (coreGet s 0).mat.draining = some 1 ∧ cmdGet s 0 1 = some c ∧
       ∀ x ∈ (coreGet s 0).cmds, x.id ≠ 1 → isMat x.kind = false ∨ x.running = false ∨ mDrains x.desc = false ∨ x.draining = true ∨ x.status ≠ 0) := by
  decide +kernel

/-! #### Memory, ports and messages -/

/-- Channel 0 in a state. -/
def chan (x : Chan) : State := { base with chans := [(0, x)] }
/-- A unit in a state of readiness. -/
def inState (i : Nat) (u : UnitState) (s : State) : State := rdyPut s i { rdyAbsent with state := u }

theorem witness_MemoryControllers :
    (canonicalB base = true ∧ space 0 = .hbm ∧ inSpare base 0 = false ∧ (chanGet base (chanOf base 0).1).bad.contains ((chanOf base 0).2 / 64) = false) ∧
    DecodesTo base 0 0 [] 0 ∧ DecodesTo base 0 0 [(0, 1), (71, 255)] 2 ∧
    (space 0x5BFFFFFFFF = .hbm ∧ pagesOf 0xFFF 2 = [0, 1]) ∧
    (let s := chan { chanReset with wcb := [⟨5, 1, 100, []⟩], scrubPos := 2 ^ 31 - 64, remap := [⟨1, 2, 3, 3, false⟩] }
     canonicalB s = true ∧ ((chanGet s 0).wcb.find? (fun e => e.unit == 5)).isSome = true ∧ timeRuns s = true ∧
       (chanGet s 0).bad.contains ((chanGet s 0).scrubPos / 64) = false) ∧
    (let s := { base with tsq := { base.tsq with running := false } }
     canonicalB s = true ∧ s.tsq.running = false) :=
  ⟨by decide +kernel, show _ = _ from by decide +kernel, show _ = _ from by decide +kernel, by decide +kernel, by decide +kernel, by decide +kernel⟩

theorem witness_ChannelTests :
    (∀ e ∈ [(true, 0), (false, 0), (false, 1), (false, 3)], let s := inState 0x100 .grey (chan { chanReset with thermal := e.1, worn := true })
      canonicalB s = true ∧ rdyState s (idxChan 0) = .grey ∧ (chanGet s 0).worn = true ∧ (chanGet s 0).lost = false ∧
        (laneRepair e.2).2 = decide (e.2 = 3)) ∧
    (modeAllowed base 0 (bits 4 3 2) = true ∧ (chanGet base 0).testRun = none ∧ bits 4 3 2 ≠ 2) ∧
    (modeAllowed base 0 (bits 0 3 2) = false ∧ canonicalB base = true) ∧
    (∀ e ∈ [(0, 0x38), (0, 0x48)], let s := inState 0x100 .testing base
      canonicalB s = true ∧ modeAllowed s 0 (bits e.2 3 2) = true ∧ bits e.2 3 2 = 2 ∧ decide (bits e.2 7 4 < 4) = decide (e.2 = 0x38)) ∧
    (∀ r ∈ [none, some (⟨1, 0, false, false⟩ : ChanTest), some ⟨2, 0, true, false⟩], ∀ l ∈ [true, false], ∀ q ∈ [0, 5],
      let s := { chan { chanReset with lost := l, lostSeq := 5, testRun := r } with flt := { base.flt with pendAck := [q] } }
      canonicalB s = true ∧ (chanGet s 0).lost = l ∧ (chanGet s 0).testRun = r ∧ ackPending s 5 = decide (q = 5) ∧
        clearing (chanGet s 0) = (r == some ⟨2, 0, true, false⟩)) := by decide +kernel

/-- A 200-byte cell of a kind with a sequence number and a payload, its CRC right. -/
def cellOf (kind seq : Nat) (pay : List Byte) : List Byte :=
  let b := natLe 1 kind ++ natLe 1 0xC0 ++ natLe 6 0 ++ natLe 2 seq ++ natLe 1 pay.length ++ natLe 1 0 ++ pay
  let b := b ++ List.replicate (0xC4 - b.length) 0
  b ++ natLe 4 (crc32 b)
/-- A marker of tick 5, frame 0. -/
def markerOf : List Byte := natLe 8 5 ++ natLe 2 0 ++ natLe 174 0
/-- Port 0 in a state with its link's, in frame 0. -/
def link (u : UnitState) (p : Port) : State :=
  { inState 0x1C0 u base with hws := { base.hws with frameActive := true, frameNo := 0, ports := [(0, p)] } }

theorem witness_LinkLayer :
    (∀ n ∈ [false, true], let s := { base with tsq := { base.tsq with running := n } }
      canonicalB s = true ∧ s.tsq.running = n) ∧
    (let s := { base with hws := { base.hws with frameActive := true, frameNo := 5000 } }
     base.tsq.tickStart + period base ≤ base.tsq.tickStart + 2000 + 2000 + 2000 * 5001 ∧ canonicalB s = true) ∧
    (∀ u ∈ [UnitState.testing, .ready, .grey], ∀ p ∈ [({ portReset with windows := [(5, 0)], seen := [(5, 0)] } : Port), { portReset with missRun := 2, windows := [(5, 0)] },
        { portReset with missRun := 3, windows := [(5, 0), (5, 1)] }],
      let s := link u p
      canonicalB s = true ∧ rdyState s (idxPort 0) = u ∧ portGet s 0 = p) ∧
    rdyState (link .training { portReset with trainAt := 50 }) (idxPort 0) = .training ∧ canonicalB (link .training { portReset with trainAt := 50 }) = true ∧
    (let s := link .ready { portReset with missRun := 2 }
     (portGet s 0).seen = [] ∧ kindDefined 1 = true ∧ kindDefined 0x1F = false ∧ (takeAcks (portGet s 0) markerOf).1 = false ∧ bit (fld markerOf 0xA 1) 0 = false ∧ fld markerOf 0 8 = s.tsq.tick ∧
       fld markerOf 8 2 = s.hws.frameNo ∧ inWindow s 0 (fld markerOf 0 8) (fld markerOf 8 2) = true) ∧
    (cellGood (cellOf 0 0 []) = true ∧ cellGood (cellOf 0xF 0 markerOf) = true ∧ cellGood (cellOf 1 5 [1, 2]) = true ∧ cellGood (cellOf 1 40000 []) = true ∧
      cellGood [] = false) ∧
    ((parseCell (cellOf 0 0 [])).kind = 0 ∧ (parseCell (cellOf 0xF 0 markerOf)).kind = 0xF ∧ (parseCell (cellOf 1 5 [])).cls ≠ 3 ∧
      (parseCell (cellOf 1 5 [])).seq = 5 ∧ (parseCell (cellOf 1 32768 [])).seq = 32768 ∧ (parseCell (cellOf 1 32767 [])).seq = 32767 ∧ portReset.rxNext = 0) ∧
    (let s := { link .training { portReset with trainAt := 50 } with elec := { base.elec with serclk := true } }
     canonicalB s = true ∧ s.elec.serclk = true ∧ timeRuns s = true) := by decide +kernel

/-- A scatter-add of 1.0 and 2.0 to words at 0x3000. -/
def addTwo : List Byte := natLe 6 0x3000 ++ natLe 2 2 ++ natLe 8 0 ++ natLe 4 0x3F800000 ++ natLe 4 0x40000000
/-- A device whose core 0 awaits the answer under tag 3 for its command 1. -/
def awaitsGather : State :=
  { engine (runCmd (gatherCmd 1)) with hws := { base.hws with remotes := [⟨3, 2, 520000, 0, 1, none, 0, [7], [], none, false⟩] } }

theorem witness_GatherMessages :
    (canonicalB (inPhase .apply 1) = true ∧ inApply (inPhase .apply 1) = true ∧ inApply base = false) ∧
    (canonicalB (inState 0 .grey base) = true ∧ devGrey (inState 0 .grey base) = true ∧ inApply (inState 0 .grey base) = false) ∧
    (canonicalB base = true ∧ base.hws.remotes = []) ∧
    (let body := natLe 3 3 ++ natLe 13 0 ++ [1, 2, 3, 4]
     canonicalB awaitsGather = true ∧ (awaitsGather.hws.remotes.find? (fun r => r.tag == fld body 0 3 && r.hart.isNone)).isSome = true ∧ fld body 6 1 ≠ 1 ∧
       bit (fld body 7 1) 0 = false ∧ (awaitsGather.hws.remotes.map (·.lastPart)) = [none] ∧ timeRuns awaitsGather = true ∧
       awaitsGather.hws.remotes.all (fun r => r.core != embOwner && r.core != serveOwner && r.items.length != 3 && !atApply (advance awaitsGather r.deadline)) = true) ∧
    (saBad base (fld addTwo 0 6) (fld addTwo 6 2) (fld addTwo 8 2) addTwo = false ∧ fld addTwo 8 2 = 0 ∧ saBad base 2 2 0 addTwo = true) ∧
    ∀ a, chanLost base a = false :=
  ⟨by decide +kernel, by decide +kernel, by decide +kernel, by decide +kernel, by decide +kernel, fun a => by
    unfold chanLost; split <;> rfl⟩

/-- A HITCH_OP body: its operation, flags, hitch and value. -/
def hitchOpBody (op fl h y : Nat) : List Byte := natLe 1 op ++ natLe 1 fl ++ natLe 2 h ++ natLe 4 y
/-- Strand 0 waits for the answer under tag 3. -/
def awaitsHitch (rd : Reg) : State :=
  { base with
    harts := [(0, { strandWith 0 0 with st := .wait, wait := .remote 3 rd })]
    hws := { base.hws with remotes := [⟨3, 2, 520000, 0, 1, some 0, rd, [7], [], none, false⟩] } }
/-- Barrier 3 over two devices. -/
def crossed (cross : Bool) : State :=
  { base with hit := { base.hit with
    barriers := [(3, { barrierReset with def_ := ⟨true, 2, cross, 5, 0, 0, 0, 1⟩, pcores := [0, 4, 270] })], arrivals := [(3, 400, true)] } }

theorem witness_HitchMessages :
    (∀ b ∈ [hitchOpBody 2 0 0 0, hitchOpBody 2 0 0xFFF 0, hitchOpBody 1 0 0x1000 0, hitchOpBody 5 0 0x1000 0, hitchOpBody 3 0 0x1000 1],
      fld b 2 2 = 0 ∨ (fld b 2 2 < 0x1000 ∧ bit (fld b 1 1) 0 = false) ∨ fld b 0 1 < 2 ∨ 5 ≤ fld b 0 1 ∨
        ((fld b 0 1 = 2 ∨ fld b 0 1 = 3) ∧ fld b 4 4 ≠ 0)) ∧
    (canonicalB base = true ∧ greyAt base 0x36 = false ∧ ∀ i ∈ [0, 0x36], canonicalB (inState i .grey base) = true ∧ greyAt (inState i .grey base) 0x36 = true) ∧
    (∀ v ∈ [0, 1, 0xFFFFFFFE], let s := hitching (.nop h0 always) 0 0 ⟨2, false, 1, 0, []⟩ none
      let b := hitchOpBody 4 0 0x1000 v
      canonicalB s = true ∧ 0x1000 ≤ fld b 2 2 ∧ fld b 0 1 = 4 ∧ 0 ≤ ((hitchGet s 0x1000).count : Int) + (BitVec.ofNat 32 v).toInt) ∧
    (let s := hitching (.nop h0 always) 0 0 ⟨2, false, 0, 5, [(0, 4)]⟩ none
     canonicalB s = true ∧ (hitchGet s 0x1000).queue = [(0, 4)]) ∧
    (let b := hitchOpBody 2 1 0xFFF 0
     fld b 2 2 = 0xFFF ∧ bit (fld b 1 1) 0 = true ∧ fld b 0 1 = 2 ∧ fld b 4 4 = 0) ∧
    (∀ op ∈ [2, 3], let b := hitchOpBody op 0 0x1000 0
      fld b 0 1 = op ∧ fld b 4 4 = 0 ∧ (hitchGet base 0x1000).queue = [] ∧ (hitchGet base 0x1000).credits < 65535) ∧
    (∀ rd ∈ [(0 : Reg), 4], let b := natLe 4 3 ++ natLe 1 2 ++ natLe 1 1 ++ natLe 2 0 ++ natLe 4 9 ++ natLe 4 0
      canonicalB (awaitsHitch rd) = true ∧ ((awaitsHitch rd).hws.remotes.find? (fun r => r.tag == fld b 0 3 && r.hart.isSome)).isSome = true ∧
        awaits (awaitsHitch rd) 0 3 = true ∧ timeRuns (awaitsHitch rd) = true ∧
        ∀ r ∈ (awaitsHitch rd).hws.remotes, atApply (advance (awaitsHitch rd) r.deadline) = false) ∧
    base.hws.remotes = [] ∧
    (∀ x ∈ [true, false], canonicalB (crossed x) = true ∧ knotOpen (crossed x) 3 = x ∧ (barGet (crossed x) 3).broken = false ∧
      (barGet (crossed x) 3).def_.defined = true) ∧
    ((barGet (crossed true) 3).node 500).count true + 1 < knotTarget (barGet (crossed true) 3) 500 := by decide +kernel

/-! #### Moved rows and the Rugon die -/

/-- A RELOC_BCAST body: its SEQ, its parts, its tick, its count and its flags. -/
def bcastBody (seq parts tick count fl : Nat) : List Byte :=
  natLe 4 seq ++ natLe 2 0 ++ natLe 2 parts ++ natLe 8 tick ++ natLe 4 count ++ natLe 1 fl ++ natLe 11 0 ++ natLe 32 5
/-- A ROW_STREAM body for row 103 of table 3 in tick 5. -/
def streamBody (tick : Nat) : List Byte :=
  natLe 8 tick ++ natLe 4 7 ++ natLe 2 3 ++ natLe 2 1 ++ natLe 5 100 ++ natLe 3 0 ++ natLe 4 11 ++ natLe 4 1 ++ natLe 8 103 ++ List.replicate 32 9
/-- A MIGRATE this device accepted for rows 100 to 109 of table 3, to channel 0, and a row it has sent itself. -/
def accepting (item : List Byte) (refused : Bool) (stage : Nat) : State :=
  { inPhase .apply stage with
    plc := { base.plc with
      accepted := [⟨2, 5, 3, 100, 10, 0x4000, 32, item, [], [], false, refused, false, none⟩]
      copied := [⟨7, 1, 3, 100, 0, 0, 2, [], false, 0, 32, 0, false, 11⟩] }
    emb := { base.emb with tables := [(3, { tableReset with state := 2, stride := 32, rows := 1000 })] } }
def toChan0 : List Byte := List.replicate 32 1 |>.set 13 0

theorem witness_RelocationMessages :
    (let s := { base with plc := { base.plc with gaps := [(2, 9)] } }
     canonicalB s = true ∧ s.plc.gaps.contains (2, fld (bcastBody 9 3 5 0 1) 0 4) = true ∧ bit (fld (bcastBody 9 3 5 0 1) 0x14 1) 0 = true) ∧
    (canonicalB base = true ∧ base.plc.gaps.contains (2, 9) = false ∧ bit (fld (bcastBody 9 3 5 2 0) 0x14 1) 0 = false ∧
      pfind base.plc.lastSeq 2 = none ∧ (base.plc.rx.any fun b => b.src == 2 && b.seq == 9) = false ∧ fld (bcastBody 9 2 5 2 0) 6 2 = 2) ∧
    (∀ q ∈ [9, 8, 9 - 2 ^ 31 + 2 ^ 32], let s := { base with plc := { base.plc with lastSeq := [(2, 9)] } }
      canonicalB s = true ∧ pfind s.plc.lastSeq 2 = some 9 ∧ ((q + 2 ^ 32 - 9) % 2 ^ 32 = 0 ∨ 2 ^ 31 ≤ (q + 2 ^ 32 - 9) % 2 ^ 32)) ∧
    base.plc.sent.find? (fun b => b.seq == 9) = none ∧ base.plc.accepted = [] ∧ inApply base = false ∧
    (∀ e ∈ [(false, false), (true, false), (false, true)], let s := accepting toChan0 e.1 1
      let s := if e.2 then inState 0x100 .grey s else s
      let mine := fun a : Accepted => a.src == 2 && a.table == fld (streamBody 5) 0xC 2 && a.row == fld (streamBody 5) 0x10 5 && decide (a.tick ≤ s.tsq.tick)
      canonicalB s = true ∧ (s.plc.accepted.find? mine).isSome = true ∧ inApply s = true ∧ fld (streamBody 5) 0 8 = s.tsq.tick ∧
        (((windowItems s).find? fun k => k.2 == toChan0).any fun k => s.tsq.skip.contains k.1) = false ∧
        greyAt s (idxChan (fld toChan0 0xD 1)) = e.2) ∧
    (fld (streamBody 5) 0xE 2 = 1 ∧ (accepting toChan0 false 1).plc.budget + 32 ≤ migBudget (accepting toChan0 false 1) ∧ fld toChan0 0xE 1 ≠ 3 ∧
      fld (((streamBody 5).drop 32).take 40) 0 5 = 103) ∧
    ((accepting toChan0 false 3).tsq.stage = 3 ∧ (accepting toChan0 false 1).tsq.stage ≠ 3 ∧ fld (streamBody 6) 0 8 ≠ base.tsq.tick) := by decide +kernel

/-- A live layer of 4 x 4 weights of one tick a step. -/
def layerOf : Layer :=
  { layerReset with
    state := 2, owner := 0, rows := 4, cols := 4, stepTicks := 1, startTick := 0, curVer := 3, pushed := 4, nextStep := 4, pushHitch := 0x1000
    base := 0x8000000000 }
/-- A device that owns layer 2. -/
def owning (l : Layer) : State := { base with upd := { base.upd with layers := [(2, l)] } }
/-- A device with training table 2, one row update that waits for room, and its rule. -/
def trains : State :=
  { base with
    emb := { base.emb with tables := [(2, { tableReset with state := 2, width := 2, stride := 32, rows := 1000, train := true, curVer := 3, stageRows := 8 })] }
    upd := { base.upd with heldRows := [⟨2, 7, 4, [1, 2]⟩], tblRules := [(2, ⟨List.replicate 64 1, none, 0x8000000000, 2, false⟩)] } }
/-- A gradient message of version 3: op, count, step and offset. -/
def gradBody (op ver n step off : Nat) : List Byte :=
  natLe 1 op ++ natLe 1 0 ++ natLe 2 2 ++ natLe 2 ver ++ natLe 2 n ++ natLe 8 step ++ natLe 8 off ++ natLe 8 0
/-- A slice message of version 4 of layer 2. -/
def sliceBody (form n off : Nat) : List Byte :=
  natLe 1 form ++ natLe 1 0 ++ natLe 2 2 ++ natLe 2 4 ++ natLe 2 n ++ natLe 8 off ++ natLe 4 0x3F800000 ++ natLe 12 0 ++
    (if form = 2 then [] else natLe 4 1 ++ natLe 4 2)

theorem witness_UpdateMessages :
    (canonicalB base = true ∧ fld (gradBody 7 3 2 4 0) 0 1 = 7) ∧
    (∀ fr ∈ [false, true], ∀ off ∈ [0, 14], let s := owning { layerOf with frozen := fr }
      let b := gradBody 1 3 2 4 off ++ natLe 4 0x3F800000 ++ natLe 4 0x40000000
      let l := layerGet s 2
      canonicalB s = true ∧ fld b 2 2 = 2 ∧ l.state ≠ 0 ∧ l.owner = s.boot.dev ∧ fld b 0 1 = 1 ∧ fld b 1 1 = l.gfmt ∧ 0 < fld b 6 2 ∧
        fld b 6 2 ≤ gradLimit (fld b 1 1) ∧ zeroAt b 0x18 8 = true ∧ b.length = 32 + 4 * fld b 6 2 ∧
        inSlice l (devCount s) 0 (fld b 0x10 8) (fld b 6 2) = true ∧ verAfter (fld b 4 2) l.curVer = false ∧ verAfter l.resetVer (fld b 4 2) = false) ∧
    (let b := gradBody 2 3 1 4 0 ++ natLe 8 5 ++ natLe 4 0x3F800000 ++ natLe 4 0x40000000
     let tb := tableGet trains 2
     let rec_ := (b.drop 32).take (8 + 4 * tb.width)
     canonicalB trains = true ∧ tb.state ≠ 0 ∧ fld b 0 1 = 2 ∧ fld b 1 1 = 0 ∧ fld b 6 2 = 1 ∧ zeroAt b 0x10 16 = true ∧ b.length = 32 + (8 + 4 * tb.width) ∧
       verAfter (fld b 4 2) tb.curVer = false ∧ fld rec_ 5 3 = 0 ∧ fld rec_ 0 5 < tb.rows ∧ (hashHome trains tb 2 (fld rec_ 0 5)).1 = trains.boot.dev) ∧
    (let b := gradBody 3 3 0 4 0
     fld b 0 1 = 3 ∧ fld b 1 1 ≤ 1 ∧ zeroAt b 6 2 = true ∧ zeroAt b 0x10 16 = true ∧
       (let s := owning layerOf
        stepClosed (layerGet s 2) (fld b 8 8) = false ∧ stepClosed (layerGet s 2) 3 = true ∧ (tableGet s 2).state = 0 ∧ (stepAcc s 2 (fld b 8 8)).done.contains 0 = false ∧ stepAt (layerGet s 2) s.tsq.tick = some 5 ∧
          fld b 8 8 ≤ 5 ∧ verAfter (fld b 4 2) (layerGet s 2).curVer = false ∧ verAfter (layerGet s 2).resetVer (fld b 4 2) = false) ∧
       ((layerGet trains 2).state = 0 ∧ (tableGet trains 2).state ≠ 0 ∧ verAfter (fld b 4 2) (tableGet trains 2).curVer = false)) ∧
    (rugonUp base = true ∧ rugonUp (inState (idxDie 5) .grey base) = false ∧
      canonicalB (inState (idxDie 5) .grey base) = true) ∧
    (let s := owning layerOf
     (let t := { s with upd := { s.upd with ranges := [(8192 + 2, slowBase, 4096)], slowBad := [slowBase / 64] } }
      canonicalB t = true ∧ t.upd.slowBad.any (layerUnit t 2) = true ∧ s.upd.slowBad.any (layerUnit s 2) = false) ∧
     s.tsq.running = true ∧ s.upd.layers = [(2, layerOf)] ∧ stepAt layerOf s.tsq.tick = some (4 + 1) ∧ layerOf.state ≠ 0 ∧ layerOf.pushed ≤ 4) ∧
    (trains.tsq.tick ≠ 0 ∧ trains.upd.tblRules.map (fun e => (e.1, e.2.rule != [], decide (e.2.drained < 5))) = [(2, true, true)] ∧ inApply trains = false ∧
      trains.upd.heldRows = [⟨2, 7, 4, [1, 2]⟩] ∧ staged (tableGet trains 2) 7 = false ∧ stagedUpdates (tableGet trains 2) < (tableGet trains 2).stageRows ∧
      openTick trains 2 < trains.tsq.tick) ∧
    (∀ e ∈ [(4, false), (5, true), (6, true)], let s := { owning layerOf with tsq := { base.tsq with tick := e.1 } }
      canonicalB s = true ∧ (layerGet s 2).state ≠ 0 ∧ (layerGet s 2).owner = s.boot.dev ∧
        decide ((layerGet s 2).startTick + ((layerGet s 2).nextStep + 2) * (layerGet s 2).stepTicks - 1 ≤ s.tsq.tick) = e.2) ∧
    (inApply (inPhase .apply 1) = true ∧ base.upd.heldRows = [] ∧ (layerGet base 2).heldScatter = none ∧ (layerGet base 2).refresh = none) ∧
    (let s := owning { layerOf with heldScatter := some 4, refresh := some [⟨[], [], none, none⟩] }
     canonicalB s = true ∧ (layerGet s 2).heldScatter = some 4 ∧ (layerGet s 2).next = 0 ∧ (layerGet s 2).refresh = some [⟨[], [], none, none⟩]) ∧
    (∀ n ∈ [1, 3], let s := owning { layerOf with next := n, nextVer := 4 }
      canonicalB s = true ∧ sliceLayer s (sliceBody 1 2 0) 1 = some (2, layerGet s 2) ∧ (layerGet s 2).owner = 0 ∧
        inSlice (layerGet s 2) (devCount s) 0 (fld (sliceBody 1 2 0) 8 8) (fld (sliceBody 1 2 0) 6 2) = true ∧ (layerGet s 2).next = n ∧
        sliceLayer s (sliceBody 2 16 0) 2 = some (2, layerGet s 2) ∧ sliceLayer s (sliceBody 3 2 0) 3 = some (2, layerGet s 2)) ∧
    (sliceLayer base (sliceBody 1 2 0) 1 = none ∧ sliceLayer base (sliceBody 2 16 0) 2 = none ∧ sliceLayer base (sliceBody 3 2 0) 3 = none) ∧
    (stepAcc (owning layerOf) 2 4).acc.all (fun e => finF e.2) = true :=
  ⟨by decide +kernel, by decide +kernel, by decide +kernel, by decide +kernel, by decide +kernel, by decide +kernel, by decide +kernel, by decide +kernel,
    by decide +kernel, by decide +kernel, by decide +kernel, by decide +kernel, by decide +kernel⟩

/-! #### Faults, readiness and start-up -/

/-- The head of an object of a kind with `n` bytes of content, up to its digest. -/
def objectHead (kind n : Nat) : List Byte :=
  natLe 4 0x4643584D ++ natLe 2 1 ++ natLe 1 kind ++ natLe 1 0 ++ natLe 4 (4096 + n + 2592 + 4627) ++ natLe 4 0 ++ natLe 8 0 ++ natLe 4 4096 ++ natLe 4 n ++
    natLe 4 (4096 + n) ++ natLe 4 (4096 + n + 2592) ++ List.replicate 8 0
/-- An object of a kind with its content, at the offsets and lengths of the container, under the key of zeros. -/
def objectOf (kind : Nat) (content : List Byte) : List Byte :=
  objectHead kind content.length ++ (shake256 content ++ (List.replicate 3984 0 ++ content ++ List.replicate (2592 + 4627) 0))
theorem take_between (p d r : List Byte) (hp : p.length = 0x30) (hd : d.length = 64) : ((p ++ (d ++ r)).drop 0x30).take 64 = d := by
  rw [← hp, List.drop_left, ← hd, List.take_left]
/-- The digest in an object's header is that of its content. -/
theorem objectOf_digest (kind : Nat) (content : List Byte) : ((objectOf kind content).drop 0x30).take 64 = shake256 content :=
  take_between (objectHead kind content.length) (shake256 content) _ rfl rfl
/-- A device at a stage of start-up whose one root key is the key of zeros. -/
def atStage (k : Nat) : State :=
  let s := fset base regBootStatus 15 12 k
  { s with keep := { s.keep with rootHash := [(0, shake256 (List.replicate 2592 0))] } }
theorem rootSlot_zero {s : State} {key : List Byte} (h1 : bit s.keep.revoked 0 = false) (h2 : pfind s.keep.rootHash 0 = some (shake256 key)) :
    rootSlot s key = some 0 := by
  unfold rootSlot
  rw [show List.range 4 = [0, 1, 2, 3] from rfl, List.find?_cons_of_pos]
  simp [h1, h2]

/-- An object of good form under that key, found where the flash holds nothing else, is one the ROM or the keeper runs. -/
theorem objectOf_good {s : State} {n area kind : Nat} {content : List Byte} (hf : s.boot.flash = []) (hr : s.keep.revoked = 0)
    (hk : s.keep.rootHash = [(0, shake256 (List.replicate 2592 0))]) (form : objectForm s n (objectOf kind content) = true)
    (body : objectBody (objectOf kind content) = content)
    (key : ((objectOf kind content).drop (fld (objectOf kind content) 0x20 4)).take 2592 = List.replicate 2592 0) :
    inFlash s 0 area (objectOf kind content) = true ∧ objectAccepted s n (objectOf kind content) = true := by
  refine ⟨by rw [inFlash, hf]; rfl, ?_⟩
  rw [objectAccepted, form, objectOf_digest, body, key, rootSlot_zero (by rw [hr]; rfl) (by rw [hk]; rfl), beq_self_eq_true]
  rfl

/-- The config content of nine sections, each setting in its range. -/
def configSections : List (List Byte) :=
  [natLe 2 3 ++ natLe 2 4 ++ natLe 12 0 ++ natLe 4 1 ++ natLe 60 0, natLe 8 (100 + 20 * 2 ^ 14 + 10 * 2 ^ 26), natLe 8 0,
    natLe 8 (4 * 2 ^ 18 + 2 * 2 ^ 12 + 3 * 2 ^ 8 + 2 * 2 ^ 4) ++ natLe 8 20 ++ natLe 8 1, natLe 8 (64 * 2 ^ 52 + 2 ^ 32 + 2 ^ 24) ++ natLe 8 (2 ^ 20),
    natLe 8 (2 ^ 57 + 2 ^ 50 + 2 ^ 43 + 2 ^ 20) ++ natLe 8 0 ++ natLe 8 (16 * 2 ^ 16), natLe 8 (2 ^ 8), List.replicate 256 0, natLe 8 (2 ^ 8)]
def configBytes : List Byte :=
  let r := configSections.zipIdx.foldl (fun (acc : List Byte × List Byte × Nat) e =>
    let d := e.1 ++ List.replicate (sectionLen (e.2 + 1) - e.1.length) 0
    (acc.1 ++ natLe 2 (e.2 + 1) ++ natLe 2 0 ++ natLe 4 acc.2.2 ++ natLe 4 d.length ++ natLe 4 0, acc.2.1 ++ d, acc.2.2 + d.length)) ([], [], 160)
  natLe 2 9 ++ natLe 14 0 ++ r.1 ++ r.2.1

theorem witness_StartUpStages :
    (canonicalB (atStage 0) = true ∧ (atStage 0).boot.pwrgood = true ∧ bootSlot (atStage 0) = 0 ∧ stage (atStage 0) = 0 ∧
      objectAccepted (atStage 0) 1 [] = false ∧ (atStage 0).boot.tried = []) ∧
    (∀ a, inFlash (atStage 0) 0 a (objectOf 1 [1, 2, 3]) = true ∧ objectAccepted (atStage 0) 1 (objectOf 1 [1, 2, 3]) = true) ∧
    (canonicalB (atStage 1) = true ∧ bootSlot (atStage 1) = 0 ∧ stage (atStage 1) = 1 ∧ settled (rdyState (atStage 1) 0x39) = true ∧ configOk (objectBody (objectOf 4 configBytes)) = true) ∧
    (∀ a, inFlash (atStage 1) 0 a (objectOf 4 configBytes) = true ∧ objectAccepted (atStage 1) 4 (objectOf 4 configBytes) = true) ∧
    (let s := { atStage 2 with rdy := [] }
     (canonicalB s = true ∧ bootSlot s = 0 ∧ stage s = 2 ∧
       rdyState s (idxChan 191) = .absent ∧ rdyState s (idxCore 271) = .absent ∧ rdyState s (idxCtrl 19) = .absent) ∧
     ∀ a, (inFlash s 0 a (objectOf 2 [1]) = true ∧ objectAccepted s 2 (objectOf 2 [1]) = true) ∧
       inFlash s 0 a (objectOf 3 [1]) = true ∧ objectAccepted s 3 (objectOf 3 [1]) = true) ∧
    (let s := { atStage 0 with boot := { (atStage 0).boot with tried := [9] } }
     canonicalB s = true ∧ stage s = 0 ∧ s.boot.tried = [9]) ∧
    (let s := inState (idxCtrl 19) .ready base
     canonicalB s = true ∧ rdyState s (idxCtrl 19) = .ready ∧ bootSlot s = 0) :=
  ⟨by decide +kernel, fun _ => objectOf_good rfl rfl rfl (by decide +kernel) (by decide +kernel) (by decide +kernel), by decide +kernel,
    fun _ => objectOf_good rfl rfl rfl (by decide +kernel) (by decide +kernel) (by decide +kernel),
    ⟨by decide +kernel, fun _ => ⟨objectOf_good rfl rfl rfl (by decide +kernel) (by decide +kernel) (by decide +kernel),
      objectOf_good rfl rfl rfl (by decide +kernel) (by decide +kernel) (by decide +kernel)⟩⟩, by decide +kernel, by decide +kernel⟩

/-- A device whose die 0 has its logical cores. -/
def mapped : State := { base with boot := { base.boot with coreMap := (List.range 64).map fun i => (i, i) } }

theorem witness_UnitFaults :
    (canonicalB mapped = true ∧ Quiet mapped ∧ logicalOf mapped 3 = some 3 ∧ logicalOf base 3 = none) ∧
    (∀ u ∈ [UnitState.absent, .fenced, .training, .ready], let s := inState (idxCore 3) u mapped
      canonicalB s = true ∧ rdyState s (idxCore 3) = u ∧ s.tsq.running = true ∧ greyAt s (idxCore 3) = false) ∧
    (let s := { fset (inState (idxCore 3) .ready mapped) regFltTimeouts 7 4 4 with cores := [(3, { coreReset with hbMissed := 4 })] }
     canonicalB s = true ∧ rdyState s (idxCore 3) = .ready ∧ greyAt s (idxCore 3) = false ∧ heartbeatLost s 3 = true) ∧
    (∀ l ∈ [[], [5], [5, 5], [5, 5, 5]], let s := { inState (idxCtrl 2) .ready mapped with ctrls := if l = [] then [] else [(2, ⟨[], l, 0, []⟩)] }
      canonicalB s = true ∧ rdyState s (idxCtrl 2) = .ready ∧ ((ctrlGet s 2).faultTicks.filter fun t => decide (s.tsq.tick < t + 1000)).length = l.length) ∧
    (∀ u ∈ [UnitState.ready, .grey], ∀ h ∈ [[], [2]], let s := { inState (idxDie 2) u mapped with elec := { base.elec with overtemp := h } }
      canonicalB s = true ∧ rdyState s (idxDie 2) = u ∧ (rdyGet s (idxDie 2)).forced = false ∧ (rdyGet s (idxDie 2)).released = false ∧
        (rdyGet s (idxDie 2)).recovered = false ∧ s.elec.overtemp.contains 2 = decide (h = [2])) ∧
    (∀ n ∈ [3, 4, 9, 10], let s := fset (fset { mapped with tsq := { base.tsq with phase := .apply, holdTicks := n } } regFltTimeouts 17 12 4) regFltTimeouts 23 18 10
      canonicalB s = true ∧ inApply s = true ∧ s.tsq.holdTicks = n ∧ rdyState s 0 = .ready ∧ stallTicks s = 4 ∧ devTicks s = 10) :=
  ⟨⟨by decide +kernel, ⟨rfl, rfl⟩, by decide +kernel⟩, by decide +kernel, by decide +kernel, by decide +kernel, by decide +kernel, by decide +kernel⟩

theorem witness_FaultRecords :
    (canonicalB (inState 0x39 .testing base) = true ∧ rdyState (inState 0x39 .testing base) 0x39 = .testing ∧ rdyState base 0x39 = .ready ∧
      rdyState (inState 0x39 .grey base) 0x39 = .grey) ∧
    ((kindClass 0x10).isSome = true ∧ (base.flt.opens.find? fun e => e.1 == 4 && e.2.1 == 0x10) = none ∧ base.flt.opens.length < 1024) ∧
    (let s := { base with flt := { base.flt with pendAck := [6, 8], overAck := [9] } }
     canonicalB s = true ∧ s.flt.pendAck.contains 6 = true ∧ s.flt.pendAck.contains 7 = false ∧ s.chans = []) := by decide +kernel

/-- Unit 0x1C3, a port, with its entry of the readiness table. -/
def entry (i : Nat) (e : RdyEntry) : State := { rdyPut mapped i e with now := 900000 }

/-- A CRC-32 has 32 bits. -/
theorem crc32_lt (l : List Byte) : crc32 l < 2 ^ 32 := by
  have bitLt : ∀ c, c < 2 ^ 32 → crcBit c < 2 ^ 32 := fun c h => by
    unfold crcBit; split
    · exact Nat.xor_lt_two_pow (by omega) (by decide)
    · omega
  have byteLt : ∀ c b, c < 2 ^ 32 → crcByte c b < 2 ^ 32 := fun c b h => by
    unfold crcByte
    have hx : Nat.xor c b.toNat < 2 ^ 32 := Nat.xor_lt_two_pow h (by have := b.isLt; omega)
    exact bitLt _ (bitLt _ (bitLt _ (bitLt _ (bitLt _ (bitLt _ (bitLt _ (bitLt _ hx)))))))
  have foldLt : ∀ (l : List Byte) c, c < 2 ^ 32 → l.foldl crcByte c < 2 ^ 32 := fun l => by
    induction l with
    | nil => exact fun _ h => h
    | cons b r ih => exact fun c h => ih _ (byteLt c b h)
  exact Nat.xor_lt_two_pow (foldLt l _ (by decide)) (by decide)

theorem leNat_natLe {c : Nat} (h : c < 2 ^ 32) : leNat (natLe 4 c) = c := by
  simp only [natLe, leNat, BitVec.toNat_ofNat]; omega

/-- A record whose own CRC follows its 512 bytes is valid. -/
theorem recordedCores_valid {s : State} {b : List Byte} (hb : b.length = 512) (h : s.boot.coreRecord = b ++ natLe 4 (crc32 b)) :
    recordedCores s = some ((List.range 256).map fun l => fld b (2 * l) 2) := by
  have field : ∀ l, l < 256 → fld (b ++ natLe 4 (crc32 b)) (2 * l) 2 = fld b (2 * l) 2 := fun l hl => by
    unfold fld
    rw [List.drop_append_of_le_length (by omega), List.take_append_of_le_length (by rw [List.length_drop]; omega)]
  have tail : fld (b ++ natLe 4 (crc32 b)) 512 4 = crc32 b := by
    unfold fld
    rw [← hb, List.drop_left]
    exact leNat_natLe (crc32_lt b)
  have body : (b ++ natLe 4 (crc32 b)).take 512 = b := by rw [← hb, List.take_left]
  rw [recordedCores, h]
  simp only [tail, body, List.length_append, hb]
  rw [if_pos ⟨by rfl, trivial⟩]
  exact congrArg some (List.map_congr_left fun l hl => field l (List.mem_range.mp hl))

/-- A device with a valid record in which number 63 has core 67, and no other number has one. -/
def recordOf67 : State :=
  { base with
    rdy := (List.range 68).map fun c => (idxCore c, { rdyAbsent with state := .ready })
    boot := { base.boot with coreRecord := coreRecordBytes { base with boot := { base.boot with coreMap := [(63, 67)] } } } }

theorem witness_ReadinessCommands :
    (canonicalB mapped = true ∧ mapped.keep.restarting = false ∧ forcible 0x103 = true ∧ forcible 0x40 = false ∧ (rdyGet mapped 0x103).state = .absent ∧
      idxValid 0xFFFF = false ∧ idxValid 0x1C3 = true ∧ Quiet mapped) ∧
    (∀ u ∈ [UnitState.ready, .grey, .training, .testing], let s := inState 0x100 u mapped
      canonicalB s = true ∧ forcible 0x100 = true ∧ (rdyGet s 0x100).state = u) ∧
    (∀ b ∈ [false, true], let s := entry 0x1C3 { rdyAbsent with state := .grey, forced := b }
      canonicalB s = true ∧ (rdyGet s 0x1C3).state = .grey ∧ (rdyGet s 0x1C3).recovered = false ∧ (rdyGet s 0x1C3).forced = b) ∧
    (∀ at_ ∈ [900000 - period base, 900000 - period base + 1], let s := entry 0x1C3 { rdyAbsent with state := .grey, recovered := true, recAt := at_ }
      canonicalB s = true ∧ (rdyGet s 0x1C3).recovered = true ∧ (rdyGet s 0x1C3).forced = false ∧ period base ≤ 900000 ∧
        decide ((rdyGet s 0x1C3).recAt + period s ≤ s.now) = decide (at_ = 900000 - period base) ∧ measuredFirmware s 0x1C3 = true) ∧
    measuredFirmware { base with ctrls := [(0, { ctrlReset with image := [1] })] } 0x10 = false ∧
    (∀ u ∈ [UnitState.absent, .training, .testing, .grey, .fenced, .ready], let s := inState 0x1BF u mapped
      canonicalB s = true ∧ s.boot.pwrgood = true ∧ 4 ≤ stage s ∧ stage s ≠ 15 ∧ (rdyGet s 0x1BF).state = u) ∧
    ((laneRepair 0).2 = false ∧ (laneRepair 3).2 = true) ∧
    (let s := { base with rdy := (List.range 68).map fun c => (idxCore c, { rdyAbsent with state := .fenced }) }
     canonicalB s = true ∧ ((List.range 68).all fun c => settled (rdyState s (idxCore (68 * 0 + c)))) = true ∧
       (s.boot.coreMap.any fun m => m.1 / 64 == 0) = false ∧ recordedCores s = none) ∧
    (let s := recordOf67
     canonicalB s = true ∧ ((List.range 68).all fun c => settled (rdyState s (idxCore (68 * 0 + c)))) = true ∧
       (s.boot.coreMap.any fun m => m.1 / 64 == 0) = false ∧ rdyState s (idxCore 67) = .ready ∧ logicalOf s 67 = none) ∧
    ((recordedCores recordOf67).map (fun r => (List.range 64).map fun l => r.getD l 0xFFFF) = some (List.replicate 63 0xFFFF ++ [67])) ∧
    (reqGet base 5 = none) ∧
    (let s := { base with rdy := [], pci := { base.pci with requests := [(5, ⟨0, 0, natLe 8 1, .waitUnits, 0, 0, 0, 0, none, none, 0, 0, 0, 0, 0, 0, [], false, false, none, false⟩)] } }
     canonicalB s = true ∧ (reqGet s 5).map (fun r => (r.stage, reqOp r == 0x33, unitsSettled s (reqOp r))) = some (.waitUnits, false, false)) :=
  ⟨⟨by decide +kernel, by decide +kernel, by decide +kernel, by decide +kernel, by decide +kernel, by decide +kernel, by decide +kernel, ⟨rfl, rfl⟩⟩,
    by decide +kernel, by decide +kernel, by decide +kernel, by decide +kernel, by decide +kernel, by decide +kernel, by decide +kernel, by decide +kernel,
    by rw [recordedCores_valid (s := recordOf67) (by decide +kernel) rfl]; decide +kernel, by decide +kernel⟩

theorem witness_PowerClocksAndHeat :
    (∀ p ∈ [false, true], ∀ t ∈ [false, true], let s := { base with boot := { base.boot with pwrgood := p, perst := true }, elec := { base.elec with thermtrip := t } }
      canonicalB s = true ∧ s.boot.pwrgood = p ∧ s.elec.thermtrip = t ∧ s.elec.dieTemp = []) ∧
    (bits 0xB0070001 31 16 = 0xB007 ∧ bit 0xB0070001 0 = true ∧ bit 0xB0070000 0 = false ∧ bits 0xB0080001 31 16 ≠ 0xB007) ∧
    rdyState base 0x3A = .ready ∧
    (∀ c ∈ [true, false], let s := { base with elec := { base.elec with serclk := c, serclkAt := 50 } }
      canonicalB s = true ∧ s.elec.serclk = c ∧ rdyState s 0 = .ready ∧ timeRuns s = true) ∧
    (let s := rdyPut { base with elec := { base.elec with serclk := false, serclkAt := 50, overtemp := [5] } } 0 { rdyAbsent with state := .grey, reason := 0xC0 }
     canonicalB s = true ∧ rdyState s 0 = .grey ∧ (rdyGet s 0).reason = 0xC0 ∧ (rdyGet s 0).forced = false ∧ s.elec.overtemp.contains 5 = true ∧
       s.elec.overtemp.contains 4 = false) ∧
    Quiet base ∧ (∀ d ∈ [0, 1, 2, 3, 4, 5], rdyState base (if d = 4 then 0 else idxDie d) ≠ .fenced) :=
  ⟨by decide +kernel, by decide +kernel, by decide +kernel, by decide +kernel, by decide +kernel, ⟨rfl, rfl⟩, by decide +kernel⟩

theorem witness_KeeperEvents :
    (canonicalB base = true ∧ base.boot.pwrgood = true ∧ 3 ≤ stage base ∧ stage base ≠ 15 ∧ base.keep.restarting = false ∧ base.keep.nonce = none ∧
      base.keep.unlockScope ≠ 1 ∧ base.keep.unlockScope ≠ 2 ∧ rdyState base (stagedIdx 2) ≠ .testing ∧ timeRuns base = true) ∧
    (let s := { base with keep := { base.keep with restarting := true, restartCause := 1, unlockScope := 1 } }
     canonicalB s = true ∧ s.keep.restarting = true) ∧
    (∀ c ∈ [2, 3], let f : FwImage := ⟨1, [], 1, objectOf c [1]⟩
      let s := { inState (stagedIdx c) .testing base with keep := { base.keep with rootHash := (atStage 4).keep.rootHash, staged := [(c, f)], nonce := some (3, 100), unlockScope := c - 1 } }
      canonicalB s = true ∧ rdyState s (stagedIdx c) = .testing ∧ s.keep.restarting = false ∧ s.keep.staged.map (·.1) = [c] ∧
        s.keep.nonce = some (3, 100) ∧ s.keep.unlockScope = c - 1) ∧
    (let s := { inState (stagedIdx 2) .testing base with keep := { base.keep with rootHash := (atStage 4).keep.rootHash } }
     objectAccepted s 2 (objectOf 2 [1]) = true) ∧
    (let s := { inState (stagedIdx 3) .testing base with keep := { base.keep with rootHash := (atStage 4).keep.rootHash } }
     objectAccepted s 3 (objectOf 3 [1]) = true) ∧
    ∀ f : FwImage, pfind [(2, f)] 2 = some f ∧ pfind [(3, f)] 3 = some f :=
  ⟨by decide +kernel, by decide +kernel, by decide +kernel,
    (objectOf_good (area := 1) rfl rfl rfl (by decide +kernel) (by decide +kernel) (by decide +kernel)).2,
    (objectOf_good (area := 1) rfl rfl rfl (by decide +kernel) (by decide +kernel) (by decide +kernel)).2, fun _ => ⟨rfl, rfl⟩⟩

/-! #### Requests of the host -/

/-- Whether a request's operation starts now, as something to compute. -/
def beginsB (s : State) (c : Instr) (req : Nat) (r : Request) : Bool :=
  match opRules c with
  | some (q, op, good) => decide (q = req ∧ reqGet s req = some r ∧ reqOp r = op ∧ mayBegin s req r = true ∧ unitsSettled s op = true ∧
      (readsAtStart op = true → dmaOn s = true) ∧ unitOut s op = false ∧ fld r.entry 1 1 < 4 ∧ zeroAt r.entry 6 2 = true ∧ good r = true)
  | none => false

theorem begins_of {s : State} {c : Instr} {req : Nat} {r : Request} (h : beginsB s c req r = true) : Begins s c req r := by
  unfold beginsB at h
  split at h
  · rename_i q op good e
    obtain ⟨rfl, rest⟩ := of_decide_eq_true h
    exact ⟨op, good, e, rest⟩
  · cases h

/-- An entry of an operation: flags 0, CID 3, an id and its parameters. -/
def entryOf (op id : Nat) (p : List Nat) : List Byte :=
  (natLe 1 op ++ natLe 1 0 ++ natLe 2 3 ++ natLe 2 id ++ natLe 2 0 ++ p.flatMap (natLe 8) ++ List.replicate 56 0).take 64
/-- A request with an entry, in a stage. -/
def requestOf (e : List Byte) (st : ReqStage) : Request := ⟨0, 0, e, st, 0, 5, 0, 0, none, none, 0, 0, 0, 0, 0, 0, [], false, false, none, false⟩
/-- Request 5 in a state, with bytes in the host's memory. -/
def asking (s : State) (r : Request) (host : List (Nat × Byte)) : State :=
  { s with pci := { s.pci with bme := true, requests := [(5, r)] }, hostMem := host, emb := { s.emb with classes := [(1, ⟨64, 1000, 7, 16⟩)] } }
/-- Table 9: SERVING and training. -/
def servingTable : Table :=
  { tableReset with
    state := 2, cls := 1, code := 1, width := 32, stride := 32, rows := 100, curVer := 3, slotBytes := 4096, base0 := 0x2000, base1 := 0x4000, train := true }
def tabled (t : Table) : State := { base with emb := { base.emb with tables := [(9, t)] } }
/-- Two row records in the host's memory at 0x100: rows 2 and 3. -/
def hostRows : List (Nat × Byte) := [(0x100, 2), (0x108, 0xAA), (0x128, 3), (0x130, 0xBB)]

theorem witness_RequestsBegin :
    (canonicalB base = true ∧ reqGet base 5 = none) ∧
    (let s := asking (tabled servingTable) (requestOf (entryOf 2 9 [1]) .waitUnits) []
     canonicalB s = true ∧ (reqGet s 5).map (fun r => (reqOp r, mayBegin s 5 r, unitsSettled s 2, unitOut s 2)) = some (2, true, true, false)) ∧
    (let s := { asking (tabled servingTable) (requestOf (entryOf 3 9 [1]) .waitUnits) [] with pci := { (asking base (requestOf (entryOf 3 9 [1]) .waitUnits) []).pci with d3hot := true } }
     canonicalB s = true ∧ (reqGet s 5).map (fun r => (reqOp r, mayBegin s 5 r, unitsSettled s 3)) = some (3, true, true) ∧ readsAtStart 3 = true ∧ dmaOn s = false) ∧
    (let s := asking (tabled servingTable) (requestOf (entryOf 2 9 [1]) .running) []
     canonicalB s = true ∧ (reqGet s 5).map (fun r => mayBegin s 5 r) = some false) ∧
    (let s := { asking (tabled servingTable) (requestOf (entryOf 2 9 [1]) .waitUnits) [] with
       rdy := base.rdy.map fun e => if (unitsFor 2).contains e.1 then (e.1, { rdyAbsent with state := .grey }) else e }
     canonicalB s = true ∧ unitsSettled s 2 = true ∧ unitOut s 2 = true) ∧
    (fld (entryOf 2 9 [1]) 1 1 < 4 ∧ zeroAt (entryOf 2 9 [1]) 6 2 = true ∧ 4 ≤ fld (natLe 1 2 ++ natLe 1 4) 1 1 ∧
      restZero (requestOf (entryOf 2 9 [1, 2]) .waitUnits) 1 = false) := by decide +kernel

/-- A table's request with a first parameter, in a table state. -/
def tblAsk (t : Option Table) (op : Nat) (p : List Nat) (st : ReqStage) : State :=
  asking (match t with | some t => tabled t | none => base) (requestOf (entryOf op 9 p) st) hostRows

theorem witness_TableRequests_1 :
    (∀ t ∈ [none, some servingTable], let s := tblAsk t 1 [100, 32 + 0x110000, 0] .waitUnits
      let r := requestOf (entryOf 1 9 [100, 32 + 0x110000, 0]) .waitUnits
      let w := reqParam r 1
      canonicalB s = true ∧ beginsB s (.tblRegister 5) 5 r = true ∧ reqId r < 4096 ∧ (s.emb.ranges.any fun e => e.1 == 9) = false ∧
        decide ((tableGet s 9).state = 0) = t.isNone ∧
        classAllows s (bits w 19 16) (bits w 23 20) (bits w 15 0) (reqParam r 0) (reqParam r 2) (bit w 24) (bit w 25) (bit w 27) = true) ∧
    (∀ n ∈ [0, 2], let s := tblAsk (some { servingTable with next := n }) 2 [1] .waitUnits
      canonicalB s = true ∧ beginsB s (.tblOpen 5) 5 (requestOf (entryOf 2 9 [1]) .waitUnits) = true ∧ (tableGet s 9).next = n ∧ (tableGet s 9).state = 2) ∧
    (∀ f ∈ [none, some 5], let s := tblAsk (some { servingTable with next := 1, fill := f }) 2 [1] .running
      canonicalB s = true ∧ (reqGet s 5).isSome = true ∧ (tableGet s 9).fill = f ∧ s.tsq.phase = .run) ∧
    (∀ n ∈ [0, 1], let s := tblAsk (some { servingTable with next := n }) 3 [0x100, 2] .waitUnits
      canonicalB s = true ∧ beginsB s (.tblWrite 5) 5 (requestOf (entryOf 3 9 [0x100, 2]) .waitUnits) = true ∧ (tableGet s 9).next = n) ∧
    (let s := tblAsk (some { servingTable with next := 1 }) 3 [0x100, 2] .running
     canonicalB s = true ∧ (reqGet s 5).map (fun r => (reqOp r, r.stage)) = some (3, .running) ∧ dmaOn s = true) ∧
    (∀ n ∈ [0, 1], ∀ v ∈ [7, 65535, 65536], let s := tblAsk (some { servingTable with next := n }) 4 [v, 20] .waitUnits
      canonicalB s = true ∧ beginsB s (.tblSeal 5) 5 (requestOf (entryOf 4 9 [v, 20]) .waitUnits) = true ∧ (tableGet s 9).next = n ∧ verAfter 7 3 = true) ∧
    (∀ n ∈ [1, 2], let s := tblAsk (some { servingTable with next := n }) 5 [] .waitUnits
      canonicalB s = true ∧ beginsB s (.tblAbandon 5) 5 (requestOf (entryOf 5 9 []) .waitUnits) = true ∧ (tableGet s 9).retiring = false ∧
        (tableGet s 9).next = n) ∧
    (∀ n ∈ [1, 2], let s := tblAsk (some { servingTable with state := n }) 6 [33] .waitUnits
      canonicalB s = true ∧ beginsB s (.tblRetire 5) 5 (requestOf (entryOf 6 9 [33]) .waitUnits) = true ∧ (tableGet s 9).state = n ∧ (tableGet s 9).next = 0) ∧
    (∀ v ∈ [0, 1], let s := tblAsk (some servingTable) 7 [v] .waitUnits
      canonicalB s = true ∧ beginsB s (.tblFreeze 5) 5 (requestOf (entryOf 7 9 [v]) .waitUnits) = true ∧ (tableGet s 9).train = true) ∧
    (∀ n ∈ [0, 2], let s := tblAsk (some servingTable) 8 [0x100, n] .waitUnits
      canonicalB s = true ∧ beginsB s (.tblReload 5) 5 (requestOf (entryOf 8 9 [0x100, n]) .waitUnits) = true ∧
        ((hostRecords s 0x100 32 n).any fun e => rowMark s 9 e.1 != some true) = decide (n = 2)) :=
  ⟨by decide +kernel, by decide +kernel, by decide +kernel, by decide +kernel, by decide +kernel, by decide +kernel, by decide +kernel, by decide +kernel,
    by decide +kernel, by decide +kernel⟩

/-- A hub root of two fragments of device 1 at 0x5000, edges 0 to 99 and 100 to 199. -/
def rootBytes : List Byte :=
  natLe 5 200 ++ [0x20, 0, 0] ++ natLe 4 2 ++ List.replicate 20 0 ++
    natLe 8 (2 ^ 54 + 0x6000) ++ natLe 6 0 ++ natLe 2 0xFFFF ++ List.replicate 16 0 ++
    natLe 8 (2 ^ 54 + 0x7000) ++ natLe 6 100 ++ natLe 2 0xFFFF ++ List.replicate 16 0

theorem witness_TableRequests_2 :
    (let r := requestOf (entryOf 0x11 9 [95, 5]) .waitUnits
     let s := asking (tabled servingTable) r []
     canonicalB s = true ∧ beginsB s (.plcUnpin 5) 5 r = true ∧ (tableGet s 9).state = 2 ∧ reqParam r 0 + reqParam r 1 = (tableGet s 9).rows) ∧
    (∀ p ∈ [0x1FFFFFF, 0x1FF0000, 0xBF0000], let r := requestOf (entryOf 0x10 9 [95, 5, p]) .waitUnits
      let s := asking (tabled servingTable) r []
      let dev := bits (reqParam r 2) 15 0
      let ch := bits (reqParam r 2) 23 16
      canonicalB s = true ∧ beginsB s (.plcPin 5) 5 r = true ∧ (dev = 0xFFFF ∨ dev < max 1 s.boot.devs) ∧ (ch = 0xFF ∨ ch < 192) ∧
        pinMoves s 9 (tableGet s 9) 95 5 dev = false ∧ pinEntries s 9 95 5 ≤ 1048576) ∧
    (let r := requestOf (entryOf 0x12 0 [0x5000]) .waitUnits
     let s := fset (putBytes (asking base r []) 0x5000 rootBytes) (regCorGatCfg 0) 26 16 16
     canonicalB s = true ∧ beginsB s (.plcHubAdd 5) 5 r = true ∧ ownAddr s (reqParam r 0) = some 0x5000 ∧ s.plc.hubs = [] ∧ s.plc.hubAdd = [] ∧
       hubOk s 0x5000 = true) ∧
    (let r := requestOf (entryOf 0x13 0 [0x5000]) .waitUnits
     let s := { asking base r [] with plc := { base.plc with hubs := [(0x5000, [5])] } }
     canonicalB s = true ∧ beginsB s (.plcHubDrop 5) 5 r = true ∧ ownAddr s (reqParam r 0) = some 0x5000 ∧ (s.plc.hubs.any fun h => h.1 == 0x5000) = true ∧
       s.plc.hubDrop = []) ∧
    (let r := requestOf (entryOf 0x12 0 [2 ^ 54]) .waitUnits
     canonicalB (asking base r []) = true ∧ beginsB (asking base r []) (.plcHubAdd 5) 5 r = true ∧ ownAddr (asking base r []) (reqParam r 0) = none) :=
  ⟨by decide +kernel, by decide +kernel, by decide +kernel, by decide +kernel, by decide +kernel⟩

/-- Layer 9 and training table 9, and the host's rule block at 0x100. -/
def layered (l : Layer) : State := { tabled servingTable with upd := { base.upd with layers := [(9, l)] } }
def hostBlock (b : List Byte) : List (Nat × Byte) := (b.mapIdx fun i x => (0x100 + i, x)).filter fun e => e.2 ≠ 0
/-- A layer's rule block, and a table's one of 16 ring records. -/
def ruleBlock : List Byte := [1] ++ List.replicate 63 0
def ringBlock : List Byte := [5] ++ List.replicate 0x2F 0 ++ natLe 4 16 ++ List.replicate 6 0 ++ natLe 2 0x1000 ++ List.replicate 4 0
def smallLayer : Layer := { layerReset with state := 2, owner := 0, rows := 2, cols := 2, stepTicks := 1, pushHitch := 0x1000, base := 0x8000000000 }
/-- Pipeline 9, active. -/
def pipe9 : Pipeline := ⟨0x200000, 2, 0x200000, 64, 10, true, true, false, 5, 0⟩
def piped (s : State) : State := { s with pci := { s.pci with pipes := [(9, pipe9)] }, mem := [(0x200002, 0x20)] }

theorem witness_LayerAndPipelineRequests :
    (let r := requestOf (entryOf 0x20 9 [4 + 4 * 2 ^ 32, 2 ^ 16 + 0x1000 * 2 ^ 32, 40, 0x100]) .waitUnits
     let s := asking base r (hostBlock ruleBlock)
     let s' := asking (layered smallLayer) r (hostBlock ruleBlock)
     let l : Layer := { layerReset with rows := 4, cols := 4, stepTicks := 1, pushHitch := 0x1000, startTick := 40, owner := newOwner s 9 }
     canonicalB s = true ∧ beginsB s (.lyrRegister 5) 5 r = true ∧ (layerGet s 9).state = 0 ∧ (s.upd.ranges.any fun e => e.1 == 16384 + 9) = false ∧
       ruleOk false (hostBytes s (reqParam r 3) 64) = true ∧ bits (reqParam r 0) 31 0 = 4 ∧ bits (reqParam r 0) 63 32 = 4 ∧
       ((layerTake s (8192 + 9) (layerSlow 4 4 ruleBlock)).bind fun e =>
         rangeHigh e.2 (16384 + 9) (layerBuffers l (devCount e.2))).isSome = true ∧
       canonicalB s' = true ∧ beginsB s' (.lyrRegister 5) 5 r = true ∧ (layerGet s' 9).state ≠ 0) ∧
    (∀ o ∈ [0, 1], let r := requestOf (entryOf 0x21 9 [44, 0x100]) .waitUnits
      let s := asking (layered { smallLayer with owner := o }) r hostRows
      canonicalB s = true ∧ beginsB s (.lyrLoad 5) 5 r = true ∧ (layerGet s 9).state ≠ 0 ∧ reqParam r 0 < 65536 ∧ decide ((layerGet s 9).owner = s.boot.dev) = decide (o = 0)) ∧
    (let r := requestOf (entryOf 0x21 9 [44, 0x100]) .running
     let s := asking (layered smallLayer) r hostRows
     canonicalB s = true ∧ reqGet s 5 = some r ∧ reqOp r = 0x21 ∧ dmaOn s = true ∧ rugonUp s = true ∧ (layerGet s 9).state ≠ 0) ∧
    (∀ v ∈ [0, 1], let r := requestOf (entryOf 0x22 9 [v]) .waitUnits
      let s := asking (layered smallLayer) r []
      canonicalB s = true ∧ beginsB s (.lyrFreeze 5) 5 r = true) ∧
    (∀ l ∈ [true, false], let r := requestOf (entryOf 0x23 9 []) .waitUnits
      let s := asking (if l then layered smallLayer else base) r []
      canonicalB s = true ∧ beginsB s (.lyrRetire 5) 5 r = true ∧ decide ((layerGet s 9).state ≠ 0) = l) ∧
    (let r := requestOf (entryOf 0x24 9 [0x100]) .waitUnits
     let s := asking (layered smallLayer) r (hostBlock ruleBlock)
     canonicalB s = true ∧ beginsB s (.lyrParams 5) 5 r = true ∧ ruleOk false (hostBytes s 0x100 64) = true ∧ (growLayer s 9 (layerGet s 9) (hostBytes s 0x100 64)).isSome = true ∧
       growLayer { s with upd := { s.upd with ranges := [(3, slowBase, slowEnd - slowBase)] } } 9 (layerGet s 9) (hostBytes s 0x100 64) = none) ∧
    (∀ t ∈ [true, false], let r := requestOf (entryOf 0x25 9 [0x100]) .waitUnits
      let s := asking (if t then layered smallLayer else base) r (hostBlock ringBlock)
      canonicalB s = true ∧ beginsB s (.tblRule 5) 5 r = true ∧ decide ((tableGet s 9).state ≠ 0) = t ∧ ruleOk true (hostBytes s 0x100 64) = true ∧
        (rangeHigh (rangeFree s (65536 + 9)) (65536 + 9) (ringBytes (tableGet s 9) (rbRecs (hostBytes s 0x100 64)))).isSome = true) ∧
    (let r := requestOf (entryOf 0x30 9 [0x200000, 2 + 64 * 2 ^ 32, 0x200000, 10]) .waitUnits
     let s := { asking base r [] with mem := [(0x200002, 0x20)] }
     let p : Pipeline := ⟨0x200000, 2, 0x200000, 64, 10, false, false, false, 5, 0⟩
     canonicalB s = true ∧ beginsB s (.pipeRegister 5) 5 r = true ∧ pipeGet s 9 = none ∧ hbmRange s 0x200000 8192 = true ∧ s.pci.pipes = [] ∧
       inCurrentSlot s 0x200000 8192 = false ∧
       badDesc { s with pci := { s.pci with pipes := [(9, { p with active := true })] } } (readBytes s 0x200000 128) false = false ∧
       beginsB (piped s) (.pipeRegister 5) 5 r = true ∧ (pipeGet (piped s) 9).isSome = true) ∧
    (∀ e ∈ [true, false], let r := requestOf (entryOf 0x31 9 []) .waitUnits
      let s := asking (if e then piped base else base) r []
      canonicalB s = true ∧ beginsB s (.pipeUnregister 5) 5 r = true ∧ pipeGet s 9 = if e then some pipe9 else none) ∧
    (∀ e ∈ [true, false], let r := { requestOf (entryOf 0x32 9 [0x900, 64, 1, 2, 3]) .waitUnits with recSlot := some 0, resSlot := some 0 }
      let s := asking (if e then piped base else base) r []
      canonicalB s = true ∧ beginsB s (.instantiate 5) 5 r = true ∧ (pipeGet s 9 = if e then some pipe9 else none) ∧ reqParam r 1 ≤ pipe9.resultBytes) ∧
    (∀ e ∈ [(0x20, 0), (0, 1)], let r := { requestOf (entryOf 0x32 9 [0x900, 64, 1, 2, 3]) .waitUnits with recSlot := some 0, resSlot := some 0 }
      let s := asking { piped base with mem := if e.1 = 0 then [] else [(0x200002, 0x20)] } r []
      canonicalB s = true ∧ (submit s (rootDesc s 5 r pipe9) 5 false).1 = e.2) ∧
    (let r := { requestOf (entryOf 0x32 9 [0x900, 64, 1, 2, 3]) .waitUnits with recSlot := some 0, resSlot := some 0 }
     let s := { asking (piped base) r [] with sch := { base.sch with
       tasks := (List.range 1024).map fun i => (i + 1, { newTask (readDesc (rootDesc (asking (piped base) r []) 5 r pipe9)) 0 with
         state := .ready, lcore := (target base (readDesc (rootDesc (asking (piped base) r []) 5 r pipe9)) (rget base regSchTaskId) none false).1 }) } }
     canonicalB s = true ∧ (submit s (rootDesc s 5 r pipe9) 5 false).1 = 2) :=
  ⟨by decide +kernel, by decide +kernel, by decide +kernel, by decide +kernel, by decide +kernel, by decide +kernel, by decide +kernel, by decide +kernel,
    by decide +kernel, by decide +kernel, by decide +kernel, by decide +kernel⟩

/-- Queue pair 2 of 16 entries with an MSI vector and a coalescing time, in a state. -/
def paired (x : QueuePair) : State :=
  { fset (fset (fset base (regPciQCfg 2) 31 27 4) (regPciQCfg 2) 26 16 7) (regPciQCfg 2) 15 8 3 with pci := { base.pci with bme := true, queues := [(2, x)] } }
def withReq (s : State) (r : Request) : State := { s with pci := { s.pci with requests := [(5, r)] } }
/-- A pair with two entries to fetch. -/
def twoWait : QueuePair := { queueReset with state := 1, tail := 3, head := 1 }
/-- A request of pair 2. -/
def asked (e : List Byte) (st : ReqStage) : Request := { requestOf e st with queue := 2 }
/-- An instantiation of pipeline 9 that asks for 8 result bytes, with its slots. -/
def inst (st : ReqStage) : Request := { asked (entryOf 0x32 9 [0x700, 8]) st with recSlot := some 0, resSlot := some 0 }
/-- A device whose record slot holds that request's final record with a status, in a tick. -/
def recorded (status : Byte) (tick : Nat) : State :=
  let s := paired twoWait
  { s with
    mem := [(recAddr base (inst .running) + 8, 5), (recAddr base (inst .running) + 0x10, 0x44)] ++ if status = 0 then [] else [(recAddr base (inst .running) + 0x14, status)]
    pci := { s.pci with pipes := [(9, pipe9)] }
    tsq := { base.tsq with tick := tick, tickStart := tickAt base tick } }

theorem witness_QueuesAndCompletions :
    (∀ x ∈ [0, 1, 2, 3], let s := paired { queueReset with state := x, tail := 1 }
      canonicalB s = true ∧ (queueGet s 2).state = x ∧ queueSize s 2 = 16 ∧ fget s (regPciQCfg 2) 31 27 = 4 ∧ fget s (regPciQCfg 2) 15 8 = 3) ∧
    (∀ u ∈ [0, 2], let s := paired { twoWait with unsignalled := u, firstAt := 5 }
      canonicalB s = true ∧ (queueGet s 2).unsignalled = u ∧ timeRuns s = true) ∧
    (let s := { paired twoWait with hostMem := [(64, 0x11), (66, 9), (68, 8)] }
     let x := queueGet s 2
     canonicalB s = true ∧ x.state = 1 ∧ x.head ≠ x.tail ∧ x.outstanding + cqUnread s 2 < queueSize s 2 - 1 ∧ queueBlocked s 2 = false ∧ dmaOn s = true ∧
       fld (hostBytes s (rget s (regPciQRqbase 2) + 64 * x.head) 64) 0 1 = 0x11 ∧ knownOp 0x11 = true) ∧
    (canonicalB base = true ∧ reqGet base 5 = none ∧ dmaOn { base with pci := { base.pci with bme := false } } = false) ∧
    (let r := asked (entryOf 3 9 [0x100, 2]) .waitUnits
     canonicalB (withReq (paired twoWait) r) = true ∧ abortable r = true ∧ readsHost (reqOp r) = true) ∧
    (∀ st ∈ [0, 2], let s := withReq (recorded st 5) (inst .running)
      let b := readBytes s (recAddr s (inst .running)) 32
      canonicalB s = true ∧ reqGet s 5 = some (inst .running) ∧ fld b 8 8 = 5 ∧ fld b 0x14 1 = st.toNat) ∧
    (let r := { inst .arbiter with final := some [1] }
     canonicalB (withReq (recorded 0 5) r) = true ∧ r.final.isSome = true ∧ recordDue (withReq (recorded 0 5) r) 5 r = false) ∧
    (let s := withReq (recorded 0 5) (inst .dma)
     canonicalB s = true ∧ dmaOn s = true ∧ unitBad s (resAddr s (inst .dma)) 8 = false ∧ reqParam (inst .dma) 1 = 8) ∧
    (let r := { inst .arbiter with aborted := true }
     let s := { withReq (recorded 0 5) r with sch := { base.sch with tasks := [(1, { newTask { readDesc [] with compAddr := recAddr base r } 5 with state := .running })] } }
     canonicalB s = true ∧ recordDue s 5 r = true) ∧
    (∀ b ∈ [true, false], let r := { inst .arbiter with silent := b }
      let s := withReq { recorded 0 5 with pci := { (recorded 0 5).pci with bme := b } } r
      canonicalB s = true ∧ recordDue s 5 r = false ∧ dmaOn s = b) ∧
    (∀ t ∈ [14, 15, 16], let s := withReq (recorded 0 t) (inst .running)
      canonicalB s = true ∧ reqOp (inst .running) = 0x32 ∧ pipeGet s 9 = some pipe9 ∧ abortable (inst .running) = true ∧ s.tsq.running = true ∧
        decide (s.tsq.tick < (inst .running).fetchTick + pipe9.deadline) = decide (t = 14)) ∧
    (∀ l ∈ [[], [(4, (2, 4))], [(4, (3, 4))]], let r := { asked (entryOf 0x33 2 [4 + 3 * 2 ^ 16]) .waitUnits with entry := (entryOf 0x33 2 [4 + 3 * 2 ^ 16]).set 1 2 }
      let s := withReq (paired { twoWait with last := l }) r
      canonicalB s = true ∧ reqOp r = 0x33 ∧ fld r.entry 1 1 = 2 ∧ zeroAt r.entry 6 2 = true ∧ reqParam r 0 < 2 ^ 32 ∧ restZero r 1 = true ∧
        pfind (queueGet s (reqId r)).last (bits (reqParam r 0) 15 0) = (if l = [] then none else some ((l.getD 0 (0, (0, 0))).2)) ∧ reqGet s 4 = none) ∧
    (let r := { asked (entryOf 0x33 2 [4 + 3 * 2 ^ 16]) .waitUnits with entry := (entryOf 0x33 2 [4 + 3 * 2 ^ 16]).set 1 2 }
     let s := { paired { twoWait with last := [(4, (3, 4))] } with pci := { (paired { twoWait with last := [(4, (3, 4))] }).pci with requests := [(4, inst .running), (5, r)] } }
     canonicalB s = true ∧ reqGet s 4 = some (inst .running) ∧ reqGet s 5 = some r ∧ abortable (inst .running) = true) :=
  ⟨by decide +kernel, by decide +kernel, by decide +kernel, by decide +kernel, by decide +kernel, by decide +kernel, by decide +kernel, by decide +kernel,
    by decide +kernel, by decide +kernel, by decide +kernel, by decide +kernel, by decide +kernel⟩

theorem witness_RegistersAndWindow :
    (∀ p ∈ [false, true], let s := { base with boot := { base.boot with pwrgood := p } }
      canonicalB s = true ∧ s.boot.pwrgood = p) ∧
    (let s := fset base regBootStatus 15 12 15
     canonicalB s = true ∧ haltedOff s 0 (regHwsCrcErr 0) = true ∧ haltedOff base 0 (regHwsCrcErr 0) = false) ∧
    (findReg regWindows 0x4 = none) ∧
    (∀ e ∈ [(regPciQRqbase 2, false), (regHwsCrcErr 0, true)],
      (findReg regWindows e.1).map (fun x => (x.2, x.1.sat)) = some ((e.1, false), e.2) ∧ mayWrite base 0 e.1 = true ∧ haltedOff base 0 e.1 = false ∧
        e.1 < 2 ^ 26 ∧ e.1 % 4 = 0 ∧ e.1 ≠ regBootFwReady ∧
        ((findReg regWindows e.1).bind fun x => trigger (rset base e.1 (coded x.1 (rget base e.1) 0xFFFFFFFF (2 ^ 32 - 1))) 0 e.1 0xFFFFFFFF).isNone = true) ∧
    (let s := { base with pci := { base.pci with bar2Log2 := 30, linkUp := true } }
     canonicalB s = true ∧ (2 ^ 30 - 8) + 8 ≤ 2 ^ s.pci.bar2Log2 ∧ allReach s (bar2Base s + (2 ^ 30 - 8)) 8 = true ∧ unitBad s (bar2Base s + (2 ^ 30 - 8)) 8 = false ∧
       protectedAt s (bar2Base s + (2 ^ 30 - 8)) 8 = false ∧ (bar2Base s + (2 ^ 30 - 8)) % 4096 + 8 ≤ 4096 ∧ ¬(2 ^ 30 - 7 + 8 ≤ 2 ^ s.pci.bar2Log2)) ∧
    (∀ l ∈ [false, true], let s := { base with pci := { base.pci with linkUp := l } }
      canonicalB s = true ∧ s.boot.pwrgood = true ∧ s.pci.linkUp = l) ∧
    (let s := { base with pci := { base.pci with bar2Log2 := 30, linkUp := true }, chans := [((chanOf base 0).1, { chanReset with bad := [(chanOf base 0).2 / 64] })] }
     canonicalB s = true ∧ allReach s (bar2Base s) 8 = true ∧ unitBad s (bar2Base s) 8 = true) ∧
    (let s := { withCode 0 0 with pci := { (withCode 0 0).pci with bar2Log2 := 30, linkUp := true } }
     canonicalB s = true ∧ protectedAt s (bar2Base s + 0x3000) 8 = true ∧ allReach s (bar2Base s + 0x3000) 8 = true) :=
  ⟨by decide +kernel, by decide +kernel, by decide +kernel, by decide +kernel, by decide +kernel, by decide +kernel, by decide +kernel, by decide +kernel⟩

/-! #### Management and attestation -/

/-- A device whose management answers, with an update session, a transfer and verified components. -/
def managed (session : Bool) (x : Option Transfer) : State := { base with mgmt := { base.mgmt with session := session, transfer := x } }

theorem witness_ManagementCommands :
    (∀ e ∈ [(3, 0, false), (4, 0, false), (4, 1, true), (14, 1, true), (15, 1, false)], let s := { atStage e.1 with keep := { base.keep with restarting := decide (e.2.1 = 1) } }
      canonicalB s = true ∧ mctpUp s false = (e.1 == 4 && e.2.1 == 0) ∧ mctpUp s true = ((e.1 == 4 && e.2.1 == 0) || e.1 == 15) ∧
        decide (s.keep.restarting = true ∧ 4 ≤ stage s ∧ stage s ≠ 15) = e.2.2) ∧
    (base.boot.pwrgood = true ∧ mctpUp base true = true ∧ mctpUp base false = true) ∧
    (RdyDone (inState 0x103 .ready base) (fld [1, 3, 1] 0 1) (fld [1, 3, 1] 1 2) ∧ ¬RdyDone base (fld [1, 3, 1] 0 1) (fld [1, 3, 1] 1 2) ∧
      RdyDone (entry 0x103 { rdyAbsent with state := .grey, forced := true }) (fld [2, 3, 1] 0 1) (fld [2, 3, 1] 1 2)) ∧
    (∀ k ∈ [0, 4, 48, 52, 5], decide (fld (natLe 4 0x200000 ++ natLe 1 k) 4 1 < 4 ∨ 48 < fld (natLe 4 0x200000 ++ natLe 1 k) 4 1 ∨
      fld (natLe 4 0x200000 ++ natLe 1 k) 4 1 % 4 ≠ 0) = decide (k ≠ 4 ∧ k ≠ 48)) ∧
    (∀ e ∈ [1, 254], fld (natLe 1 0 ++ natLe 1 e) 0 1 % 4 < 2 ∧ 0 < fld (natLe 1 0 ++ natLe 1 e) 1 1 ∧ fld (natLe 1 0 ++ natLe 1 e) 1 1 < 0xFF) ∧
    (∀ u ∈ [1, 2], let s := { base with keep := { base.keep with unlockScope := u } }
      canonicalB s = true ∧ s.keep.unlockScope = u) ∧
    ((pldmVersion (fld [0, 0, 0, 0, 0, 0] 5 1)).isSome = true ∧ (pldmVersion (fld [0, 0, 0, 0, 0, 2] 5 1)).isSome = true ∧
      (pldmVersion (fld [0, 0, 0, 0, 0, 5] 5 1)).isSome = true ∧ pldmVersion (fld [0, 0, 0, 0, 0, 1] 5 1) = none) ∧
    ((pldmCommands (fld [5] 0 1)).isSome = true ∧ (sensorOf (fld (natLe 2 23) 0 2)).isSome = true ∧ sensorOf (fld (natLe 2 24) 0 2) = none ∧
      fld (natLe 2 100) 0 2 = 100 ∧ fld (natLe 2 107) 0 2 = 107 ∧ fld (natLe 4 31) 0 4 = 31 ∧ fld (natLe 4 32) 0 4 = 32) ∧
    (∀ b ∈ [false, true], canonicalB (managed b none) = true ∧ (managed b none).mgmt.session = b ∧ (managed b none).mgmt.transfer = none) ∧
    (∀ n ∈ [1, compLimit 1], let b := natLe 2 0x000A ++ natLe 2 1 ++ natLe 5 0 ++ natLe 4 n
      fld b 2 2 = 1 ∧ fld b 0 2 = 0x000A ∧ 0 < fld b 9 4 ∧ fld b 9 4 ≤ compLimit 1 ∧ stage base ≠ 15 ∧ base.keep.named.contains 2 = false) ∧
    (let s := managed true (some ⟨1, 100, List.replicate 60 0⟩)
     canonicalB s = true ∧ (List.replicate 60 (0 : Byte)).length + 39 < 100) ∧
    (∀ u ∈ [UnitState.ready, .testing], let s := inState (stagedIdx 2) u (managed true (some ⟨1, 2, [0, 0]⟩))
      canonicalB s = true ∧ verifies s ⟨1, 2, [0, 0]⟩ = decide (u = .ready)) ∧
    (let s := { managed true none with mgmt := { (managed true none).mgmt with verified := [3] } }
     canonicalB s = true ∧ s.mgmt.verified.contains 3 = true) :=
  ⟨by decide +kernel, by decide +kernel, by unfold RdyDone; decide +kernel, by decide +kernel, by decide +kernel, by decide +kernel, by decide +kernel,
    by decide +kernel, by decide +kernel, by decide +kernel, by decide +kernel, by decide +kernel, by decide +kernel⟩

/-- A token of scope 1 for one minute, of a device whose identity is erased, with the nonce of draw 0 and a root key of zeros. -/
def tokenBody : List Byte :=
  natLe 4 0x544B4C4A ++ natLe 2 1 ++ natLe 2 1 ++ natLe 8 0 ++ randomBytes 0 32 ++ natLe 2 1 ++ List.replicate 14 0 ++ List.replicate 2592 0 ++
    List.replicate 4627 0
def unlocking : State :=
  let s := rset base regKeepDebugPolicy 0x101
  { s with keep := { s.keep with udsErased := true, nonce := some (0, base.now), rootHash := [(0, shake256 (List.replicate 2592 0))] } }

/-- The token's other conditions hold; the signature's verdict is a free value. -/
theorem witness_token (h : Config.verify ((tokenBody.drop 0x40).take 2592) (tokenBody.take 0xA60) (tokenBody.drop 0xA60) = true) :
    tokenOk unlocking tokenBody = true ∧ fld tokenBody 6 1 = 1 := by
  have e1 : (tokenBody.drop 0x10).take 32 = randomBytes 0 32 := rfl
  have k : (tokenBody.drop 0x40).take 2592 = List.replicate 2592 0 := by decide +kernel
  have e2 : rootSlot unlocking ((tokenBody.drop 0x40).take 2592) = some 0 :=
    rootSlot_zero (by decide +kernel) (by rw [k]; rfl)
  have e3 : fld tokenBody 6 1 = 1 := by decide +kernel
  have e4 : deviceId unlocking = 0 := by unfold deviceId; rfl
  have e5 : (tokenBody.length == 7283 && fld tokenBody 0 4 == 0x544B4C4A && fld tokenBody 4 2 == 1 && zeroAt tokenBody 7 1 &&
    fld tokenBody 8 8 == 0 && zeroAt tokenBody 0x32 14) = true := by decide +kernel
  have e6 : unlocking.keep.nonce = some (0, base.now) := rfl
  have e7 : decide (unlocking.now < base.now + nonceLife) = true := by decide +kernel
  have e8 : scopeOk unlocking 1 (fld tokenBody 0x30 2) = true := by decide +kernel
  refine ⟨?_, e3⟩
  unfold tokenOk
  simp only [e3, e4, e5, e6, e1, e2, e7, e8, h, beq_self_eq_true, Bool.and_true, show decide (1 < 4) = true from rfl, Bool.true_or]

theorem witness_Attestation :
    (∀ u ∈ [UnitState.training, .ready], ∀ r ∈ [false, true], let s := { inState 0x40 u base with keep := { base.keep with restarting := r } }
      canonicalB s = true ∧ rdyState s 0x40 = u ∧ s.keep.restarting = r) ∧
    (∀ k ∈ [0, 1, 2, 3], ∀ ok ∈ [false, true], ∀ l ∈ [2, 3], let s := { base with keep := { base.keep with spdmStage := k, certOk := ok, lifecycle := l } }
      canonicalB s = true ∧ s.keep.spdmStage = k ∧ s.keep.certOk = ok ∧ s.keep.lifecycle = l ∧ rdyState s 0x40 = .ready ∧ s.keep.restarting = false) ∧
    (let b : List Byte := 0x13 :: List.replicate 19 0
     fld b 0 1 = 0x13 ∧ b.length = 20 ∧ fld (0x12 :: b) 0 1 ≠ 0x13) ∧
    (let b : List Byte := [0x13, 0xE3] ++ List.replicate 26 0 ++ [1, 1, 0, 0] ++ extAsym ++ extHash
     (extLists b).1.contains extAsym = true ∧ (extLists b).2.contains extHash = true) ∧
    (let b : List Byte := [0x13, 0x83] ++ List.replicate 42 0
     b.length = 44 ∧ fld b 2 1 % 16 = 0 ∧ fld b 3 1 = 0 ∧ fld b 4 2 = 0) ∧
    (∀ i ∈ [1, 10], let b : List Byte := [0x13, 0xE0, 0, i] ++ List.replicate 8 0
      bit (fld b 2 1) 0 = false ∧ b.length = 12 ∧ fld b 3 1 = i.toNat) ∧
    (ideForm (List.replicate 48 0) 48 = 0 ∧ ideForm [] 48 ≠ 0 ∧ ideForm (List.replicate 8 0) 8 = 0 ∧ ideForm [] 8 ≠ 0 ∧
      (ideKey (List.replicate 8 0)).1 = 0 ∧
      (let s := { base with keep := { base.keep with ide := { base.keep.ide with keys := [(0, [1])] } } }
       canonicalB s = true ∧ (pfind s.keep.ide.keys (8 * (ideKey (List.replicate 8 0)).1 + (ideKey (List.replicate 8 0)).2)) = some [1])) ∧
    (fld [0] 0 1 = 0 ∧ fld [1] 0 1 = 1) ∧ ∀ s : State, 0 < (certChain s).length :=
  ⟨by decide +kernel, by decide +kernel, by decide +kernel, by decide +kernel, by decide +kernel, by decide +kernel, by decide +kernel, by decide +kernel,
    fun s => by simp [certChain, natLe]⟩

end Sys2Proof.Tests
end

section
/-! SUPPORT. What every command and every step keeps. -/

namespace Sys2Proof.Machine

variable {Q : Aim} {s t : State} {c : Instr}

/-- A command that doesn't move the tick keeps where the tick stands, the queue, and every map's canonical form: one lemma for each row of `exec`. -/
theorem kept_exec (h : Kept Q s) (hc : movesTick c = false) : KeptO Q (exec c s) := by
  cases c with
  | releaseLateEntry => exact kept_execReleaseLateEntry h | summaryPlanRx => exact kept_execSummaryPlanRx h
  | summaryVetoRx => exact kept_execSummaryVetoRx h | summaryOfferRx => exact kept_execSummaryOfferRx h
  | summaryAcceptRx => exact kept_execSummaryAcceptRx h | ptpMessageRx => exact kept_execPtpMessageRx h | ptpSyncTx => exact kept_execPtpSyncTx h
  | ptpPdelayReqTx => exact kept_execPtpPdelayReqTx h | ptpAnnounceTx => exact kept_execPtpAnnounceTx h
  | announceReceiptTimeout => exact kept_execAnnounceReceiptTimeout h | syncLoss => exact kept_execSyncLoss h
  | holdoverLimit => exact kept_execHoldoverLimit h | ptmRequest => exact kept_execPtmRequest h | ptmResponse => exact kept_execPtmResponse h
  | tickInWord => exact kept_execTickInWord h | tickInEdge => exact kept_execTickInEdge h | tickOutWord => exact kept_execTickOutWord h
  | taskDispatch => exact kept_execTaskDispatch h | strandWaitEnd => exact kept_execStrandWaitEnd h
  | strandReleaseSeen => exact kept_execStrandReleaseSeen h | strandTimeout => exact kept_execStrandTimeout h | illegal => exact kept_execIllegal h
  | add => exact kept_execAdd h | sub => exact kept_execSub h | mul => exact kept_execMul h | mulhu => exact kept_execMulhu h
  | mulhs => exact kept_execMulhs h | divu => exact kept_execDivu h | divs => exact kept_execDivs h | remu => exact kept_execRemu h
  | rems => exact kept_execRems h | and => exact kept_execAnd h | or => exact kept_execOr h | xor => exact kept_execXor h
  | andn => exact kept_execAndn h | shl => exact kept_execShl h | shru => exact kept_execShru h | shrs => exact kept_execShrs h
  | mins => exact kept_execMins h | maxs => exact kept_execMaxs h | minu => exact kept_execMinu h | maxu => exact kept_execMaxu h
  | sel => exact kept_execSel h | madd => exact kept_execMadd h | popc => exact kept_execPopc h | clz => exact kept_execClz h
  | ctz => exact kept_execCtz h | addi => exact kept_execAddi h | muli => exact kept_execMuli h | andi => exact kept_execAndi h
  | ori => exact kept_execOri h | xori => exact kept_execXori h | shli => exact kept_execShli h | shrui => exact kept_execShrui h
  | shrsi => exact kept_execShrsi h | fadd => exact kept_execFadd h | fsub => exact kept_execFsub h | fmul => exact kept_execFmul h
  | ffma => exact kept_execFfma h | fmin => exact kept_execFmin h | fmax => exact kept_execFmax h | fcvtsi => exact kept_execFcvtsi h
  | fcvtis => exact kept_execFcvtis h | cmpeq => exact kept_execCmpeq h | cmpne => exact kept_execCmpne h | cmplts => exact kept_execCmplts h
  | cmples => exact kept_execCmples h | cmpltu => exact kept_execCmpltu h | cmpleu => exact kept_execCmpleu h | fcmpeq => exact kept_execFcmpeq h
  | fcmplt => exact kept_execFcmplt h | fcmple => exact kept_execFcmple h | fcmpun => exact kept_execFcmpun h | pand => exact kept_execPand h
  | por => exact kept_execPor h | pxor => exact kept_execPxor h | pandn => exact kept_execPandn h | ld8u => exact kept_execLd8u h
  | ld16u => exact kept_execLd16u h | ld32u => exact kept_execLd32u h | ld64 => exact kept_execLd64 h | ld8s => exact kept_execLd8s h
  | ld16s => exact kept_execLd16s h | ld32s => exact kept_execLd32s h | st8 => exact kept_execSt8 h | st16 => exact kept_execSt16 h
  | st32 => exact kept_execSt32 h | st64 => exact kept_execSt64 h | aadd32 => exact kept_execAadd32 h | aadd64 => exact kept_execAadd64 h
  | aminu64 => exact kept_execAminu64 h | amaxu64 => exact kept_execAmaxu64 h | aor64 => exact kept_execAor64 h | aand64 => exact kept_execAand64 h
  | aswap64 => exact kept_execAswap64 h | acas64 => exact kept_execAcas64 h | afadd32 => exact kept_execAfadd32 h | br => exact kept_execBr h
  | bri => exact kept_execBri h | call => exact kept_execCall h | calli => exact kept_execCalli h | li => exact kept_execLi h
  | lih => exact kept_execLih h | qgather => exact kept_execQgather h | qlookup => exact kept_execQlookup h | qchain => exact kept_execQchain h
  | qmat => exact kept_execQmat h | qsend => exact kept_execQsend h | qwait => exact kept_execQwait h | qpoll => exact kept_execQpoll h
  | qdrainall => exact kept_execQdrainall h | harrive => exact kept_execHarrive h | hwait => exact kept_execHwait h
  | hrelone => exact kept_execHrelone h | hrelall => exact kept_execHrelall h | hadd => exact kept_execHadd h | htest => exact kept_execHtest h
  | karrive => exact kept_execKarrive h | kwait => exact kept_execKwait h | nop => exact kept_execNop h | mfs => exact kept_execMfs h
  | mts => exact kept_execMts h | mfence => exact kept_execMfence h | spawn => exact kept_execSpawn h | tend => exact kept_execTend h
  | taskCommitRequest => exact kept_execTaskCommitRequest h | commitArbiterGrant => exact kept_execCommitArbiterGrant h
  | compHitchSignal => exact kept_execCompHitchSignal h | schAbort => exact kept_execSchAbort h | abortArrival => exact kept_execAbortArrival h
  | delayEntryDue => exact kept_execDelayEntryDue h | delayEntryRoom => exact kept_execDelayEntryRoom h
  | taskMessageRx => exact kept_execTaskMessageRx h | fragmentTaskSubmit => exact kept_execFragmentTaskSubmit h
  | gatherStart => exact kept_execGatherStart h | gatherComplete => exact kept_execGatherComplete h | lookupStart => exact kept_execLookupStart h
  | lookupComplete => exact kept_execLookupComplete h | sendStart => exact kept_execSendStart h | runaheadDiscard => exact kept_execRunaheadDiscard h
  | remoteGatherTimeout => exact kept_execRemoteGatherTimeout h | chainStart => exact kept_execChainStart h
  | chainComplete => exact kept_execChainComplete h | matrixStart => exact kept_execMatrixStart h | drainComplete => exact kept_execDrainComplete h
  | matrixComplete => exact kept_execMatrixComplete h | hbmRead => exact kept_execHbmRead h | hbmWrite => exact kept_execHbmWrite h
  | wcbAgeWriteback => exact kept_execWcbAgeWriteback h | correctedWriteback n o => exact kept_execCorrectedWriteback (_chan := n) (_off := o) h
  | memRequestTimeout => exact kept_execMemRequestTimeout h | patrolScrubRead => rw [exec_patrolScrubRead]; exact kept_execPatrolScrubRead h
  | thermalReadingBringup => exact kept_execThermalReadingBringup h | channelRetrainDone => exact kept_execChannelRetrainDone h
  | start => exact kept_execStart h | abort => exact kept_execAbort h | clearLost => exact kept_execClearLost h
  | memTestComplete => exact kept_execMemTestComplete h | slotFrameStart => exact kept_execSlotFrameStart h | markerRx => exact kept_execMarkerRx h
  | markerWindowClose => exact kept_execMarkerWindowClose h | cellRx => exact kept_execCellRx h | portTrained => exact kept_execPortTrained h
  | trainingTimeout => exact kept_execTrainingTimeout h | gatherReq => exact kept_execGatherReq h | gatherRsp => exact kept_execGatherRsp h
  | scatterAdd => exact kept_execScatterAdd h | hitchOp => exact kept_execHitchOp h | hitchRsp => exact kept_execHitchRsp h
  | hitchRspTimeout => exact kept_execHitchRspTimeout h | knotArrive => exact kept_execKnotArrive h | knotRelease => exact kept_execKnotRelease h
  | knotBreak => exact kept_execKnotBreak h | knotNodeArrival => exact kept_execKnotNodeArrival h
  | knotReleaseArrival => exact kept_execKnotReleaseArrival h | relocBcast => exact kept_execRelocBcast h | relocQuery => exact kept_execRelocQuery h
  | rowStream => exact kept_execRowStream h | rowStreamAck => exact kept_execRowStreamAck h | returnedRelease => exact kept_execReturnedRelease h
  | ticketWithdraw => exact kept_execTicketWithdraw h | hitClear => exact kept_execHitClear h | barrierDefine => exact kept_execBarrierDefine h
  | layerPush => exact kept_execLayerPush h | ringDrain => exact kept_execRingDrain h | gradientLayer => exact kept_execGradientLayer h
  | gradientRows => exact kept_execGradientRows h | gradientDone => exact kept_execGradientDone h
  | layerStepTimeout => exact kept_execLayerStepTimeout h | rowTickTimeout => exact kept_execRowTickTimeout h
  | stagingRetry => exact kept_execStagingRetry h | sliceScatter => exact kept_execSliceScatter h
  | rootRefreshDone => exact kept_execRootRefreshDone h | sliceData => exact kept_execSliceData h | sliceEnd => exact kept_execSliceEnd h
  | slicePull => exact kept_execSlicePull h | coreCheck => exact kept_execCoreCheck h | coreHeartbeat => exact kept_execCoreHeartbeat h
  | ctrlCoreFault => exact kept_execCtrlCoreFault h | dieTimeout => exact kept_execDieTimeout h | dieRestart => exact kept_execDieRestart h
  | controlStall => exact kept_execControlStall h | deviceWatchdog => exact kept_execDeviceWatchdog h
  | keeperWatchdog => exact kept_execKeeperWatchdog h | faultReport => exact kept_execFaultReport h
  | unitRecoveryDone => exact kept_execUnitRecoveryDone h | fltAck => exact kept_execFltAck h | grey => exact kept_execGrey h
  | releaseForce => exact kept_execReleaseForce h | confirm => exact kept_execConfirm h | requestNotReady => exact kept_execRequestNotReady h
  | unitBringupReport => exact kept_execUnitBringupReport h | coreMapAssign => exact kept_execCoreMapAssign h
  | perstNAssert => exact kept_execPerstNAssert h | perstNDeassert => exact kept_execPerstNDeassert h
  | configSpaceLoaded => exact kept_execConfigSpaceLoaded h | keeperImagePass => exact kept_execKeeperImagePass h
  | configImagePass => exact kept_execConfigImagePass h | firmwarePass => exact kept_execFirmwarePass h
  | imageRejected => exact kept_execImageRejected h | bootFwReady => exact kept_execBootFwReady h
  | stagedImageVerified => exact kept_execStagedImageVerified h | keeperRestart => exact kept_execKeeperRestart h
  | nonceExpiry => exact kept_execNonceExpiry h | unlockExpiry => exact kept_execUnlockExpiry h | serclkLoss => exact kept_execSerclkLoss h
  | clockLoss => exact kept_execClockLoss h | serclkReturn => exact kept_execSerclkReturn h | dieOvertemp => exact kept_execDieOvertemp h
  | dieCooled => exact kept_execDieCooled h | requestFetch => exact kept_execRequestFetch h | rqTail => exact kept_execRqTail h
  | cqHead => exact kept_execCqHead h | tblRegister => exact kept_execTblRegister h | tblOpen => exact kept_execTblOpen h
  | tblOpenDone => exact kept_execTblOpenDone h | tblWrite => exact kept_execTblWrite h | tblSeal => exact kept_execTblSeal h
  | tblAbandon => exact kept_execTblAbandon h | tblRetire => exact kept_execTblRetire h | tblFreeze => exact kept_execTblFreeze h
  | tblReload => exact kept_execTblReload h | plcPin => exact kept_execPlcPin h | plcUnpin => exact kept_execPlcUnpin h
  | plcHubAdd => exact kept_execPlcHubAdd h | plcHubDrop => exact kept_execPlcHubDrop h | lyrRegister => exact kept_execLyrRegister h
  | lyrLoad => exact kept_execLyrLoad h | lyrFreeze => exact kept_execLyrFreeze h | lyrRetire => exact kept_execLyrRetire h
  | lyrParams => exact kept_execLyrParams h | tblRule => exact kept_execTblRule h | pipeRegister => exact kept_execPipeRegister h
  | pipeUnregister => exact kept_execPipeUnregister h | instantiate => exact kept_execInstantiate h | hostAbort => exact kept_execHostAbort h
  | finalRecordArrival => exact kept_execFinalRecordArrival h | resultDmaDone => exact kept_execResultDmaDone h
  | completionGrant => exact kept_execCompletionGrant h | deadline => exact kept_execDeadline h | coalesceTimer => exact kept_execCoalesceTimer h
  | hostTimeout => exact kept_execHostTimeout h | enable => exact kept_execEnable h | disable => exact kept_execDisable h
  | resume => exact kept_execResume h | bar2Read => exact kept_execBar2Read h | bar2Write => exact kept_execBar2Write h
  | ideIntegrityFail => exact kept_execIdeIntegrityFail h | query => exact kept_execQuery h | keyProg => exact kept_execKeyProg h
  | kSetGo => exact kept_execKSetGo h | kSetStop => exact kept_execKSetStop h | getVersion => exact kept_execGetVersion h
  | getCapabilities => exact kept_execGetCapabilities h | negotiateAlgorithms => exact kept_execNegotiateAlgorithms h
  | getDigests => exact kept_execGetDigests h | getCertificate => exact kept_execGetCertificate h | challenge => exact kept_execChallenge h
  | getMeasurements => exact kept_execGetMeasurements h | spdmUnsupported => exact kept_execSpdmUnsupported h
  | directRead => exact kept_execDirectRead h | directRdyCmd => exact kept_execDirectRdyCmd h | entdaa => exact kept_execEntdaa h
  | rstdaa => exact kept_execRstdaa h | setEndpointId => exact kept_execSetEndpointId h
  | getEndpointId b => exact kept_execGetEndpointId (_body := b) h | getEndpointUuid b => exact kept_execGetEndpointUuid (_body := b) h
  | getMctpVersionSupport => exact kept_execGetMctpVersionSupport h | getMessageTypeSupport b => exact kept_execGetMessageTypeSupport (_body := b) h
  | read => exact kept_execRead h | force => exact kept_execForce h | alertMask => exact kept_execAlertMask h
  | nonce b => exact kept_execNonce (_body := b) h | token => exact kept_execToken h | relock b => exact kept_execRelock (_body := b) h
  | gettid b => exact kept_execGettid (_body := b) h | getpldmversion => exact kept_execGetpldmversion h
  | getpldmtypes b => exact kept_execGetpldmtypes (_body := b) h | getpldmcommands => exact kept_execGetpldmcommands h
  | getpdrrepositoryinfo b => exact kept_execGetpdrrepositoryinfo (_body := b) h | getpdr => exact kept_execGetpdr h
  | getsensorreading => exact kept_execGetsensorreading h | getstatesensorreadings => exact kept_execGetstatesensorreadings h
  | requestupdate => exact kept_execRequestupdate h | updatecomponent => exact kept_execUpdatecomponent h
  | verifycomplete b => exact kept_execVerifycomplete (_body := b) h | activatefirmware b => exact kept_execActivatefirmware (_body := b) h
  | cancelupdatecomponent b => exact kept_execCancelupdatecomponent (_body := b) h | cancelupdate b => exact kept_execCancelupdate (_body := b) h
  | configSpaceWrite => exact kept_execConfigSpaceWrite h | remapCopyDone => exact kept_execRemapCopyDone h
  | tblWriteDone => exact kept_execTblWriteDone h | lyrLoadDone => exact kept_execLyrLoadDone h
  | componentDataTransfer => exact kept_execComponentDataTransfer h | doeDiscovery => exact kept_execDoeDiscovery h
  | _ => cases hc

/-- Every command answers a next state, keeps the queue and every map's canonical form. -/
theorem keptQ_exec (h : Kept Q s) : KeptQ Q.queue (exec c s) := by
  cases hc : movesTick c
  case false => exact keptO_keptQ (kept_exec h hc)
  case true =>
    cases c with
    | tickStart => exact kept_execTickStart h | firstTickStart => exact kept_execFirstTickStart h | runBegin => exact kept_execRunBegin h
    | settlePoint => exact kept_execSettlePoint h | applyPoint => exact kept_execApplyPoint h | copyStage => exact kept_execCopyStage h
    | bulkCutOff => exact kept_execBulkCutOff h | pwrgoodRise => exact kept_execPwrgoodRise h | pwrgoodFall => exact kept_execPwrgoodFall h
    | bootRestart => exact kept_execBootRestart h | thermtrip => exact kept_execThermtrip h | registerWrite => exact kept_execRegisterWrite h
    | _ => cases hc

/-- An idle step passes time alone. -/
theorem kept_idle (h : Kept Q s) : Kept Q (idle s) := by
  unfold idle
  exact kept_ite h (kept_advance h)

/-- A canonical state keeps its own queue and tick. -/
theorem kept_self (h : Canonical s) : Kept ⟨s.pending, tickClock s⟩ s := ⟨rfl, rfl, h⟩

/-- A step takes the front of the queue away, and keeps every map's canonical form. -/
theorem step_keeps (h : Canonical s) (e : step s = .next t) : Canonical t ∧ t.pending = s.pending.tail := by
  cases hp : s.pending with
  | nil =>
    rw [step_idle hp] at e
    cases e
    have k := kept_idle (kept_self h)
    exact ⟨k.canon, k.queue.trans hp⟩
  | cons c r =>
    rw [step_front hp] at e
    have h' : Canonical { s with pending := r } := { h with }
    obtain ⟨u, C, e', k⟩ := (keptQ_exec (c := c) (kept_self h')).out
    cases e.symm.trans e'
    exact ⟨k.canon, k.queue⟩

/-- Settles O3: a step keeps the canonical form and leaves waiting only commands that waited before it. -/
theorem stepKeepsSafe : Obligations.StepKeepsSafe := by
  unfold Obligations.StepKeepsSafe
  intro s t ⟨hcanon, hwf⟩ e
  obtain ⟨k, hq⟩ := step_keeps hcanon e
  refine ⟨k, ?_⟩
  rw [List.all_eq_true] at hwf ⊢
  rw [hq]
  exact fun c hc => hwf c (List.mem_of_mem_tail hc)

end Sys2Proof.Machine
end

section
/-! SUPPORT. What the state after reset reads as. -/

namespace Sys2Proof.Machine

/-- Nothing is listed in a map after reset. -/
theorem canonical_reset : Canonical State.reset where
  mem := mwf_nil
  csr := mwf_nil
  gens := mwf_nil
  hostMem := mwf_nil
  rdy := mwf_nil
  harts := mwf_nil
  ctrls := mwf_nil
  cores := mwf_nil
  chans := mwf_nil
  hitches := mwf_nil
  barriers := mwf_nil
  ports := mwf_nil
  tables := mwf_nil
  layers := mwf_nil
  queues := mwf_nil
  ptp := mwf_nil

/-- The state after reset is safe. -/
theorem safe_reset : Safe State.reset := ⟨canonical_reset, rfl⟩

/-- A register reads its Reset column (00 R10). -/
@[simp] theorem rget_reset (a : Nat) : rget State.reset a = (csrDefault a).toNat := rfl
/-- A unit of the readiness map is ABSENT. -/
@[simp] theorem rdyState_reset (i : Nat) : rdyState State.reset i = .absent := rfl
/-- A strand or control core is as its own reset leaves it. -/
@[simp] theorem hartAt_reset (n : Nat) : hartAt State.reset n = hartReset := rfl
/-- A hitch is clear. -/
@[simp] theorem hitchGet_reset (h : Nat) : hitchGet State.reset h = hitchReset := rfl

/-- The next task id is 1 after reset (10). -/
theorem csrDefault_schTaskId : csrDefault regSchTaskId = 1 := by decide
/-- BOOT_STATUS is 0 after reset (16 R643). -/
theorem csrDefault_bootStatus : csrDefault regBootStatus = 0 := by decide

/-- Settles O5: every map of the reset state is empty, so each unit, strand, register and hitch reads its default. -/
theorem resetValues : Obligations.ResetValues := by
  unfold Obligations.ResetValues
  refine ⟨safe_reset, rfl, rfl, rfl, rfl, rdyState_reset, fun h => ?_, rget_reset, hitchGet_reset, ?_, ?_⟩
  · rw [hart, hartAt_reset]
    rfl
  · rw [rget_reset, csrDefault_schTaskId]
    rfl
  · rw [rget_reset, csrDefault_bootStatus]
    rfl

end Sys2Proof.Machine
end

section
/-! SUPPORT. Registers a report or a counter leaves alone, and what a write of any length leaves in memory (12 R453-R455; 15 R599-R603). -/

namespace Sys2Proof.Machine

variable {s t u : State}

/-! ### Registers that counters and reports leave alone -/

/-- A counter outside the windows of the cores changes its own register alone (00 R21). -/
theorem rget_bump_ne {a b : Nat} (n : Nat) (h : b ≠ a) (hc : corWindow a = none) : rget (bump s a n) b = rget s b := by
  unfold bump
  extract_lets top v
  split
  · rfl
  · split
    · exact rget_rset_ne _ h
    · simp only [hc]
      exact rget_rset_ne _ h

/-- Whether a register lies outside the block of the fault aggregator (15). -/
def OutsideFlt (a : Nat) : Prop := a < 0x300000 ∨ 0x340000 ≤ a

/-- The first record of a class in a tick sets FLT_PENDING alone (15 R602). -/
theorem rget_classSeen {a : Nat} (c : Nat) (h : OutsideFlt a) : rget (classSeen s c) a = rget s a := by
  have hne : a ≠ regFltPending := by unfold OutsideFlt at h; unfold regFltPending; omega
  have signal_csr : ∀ (x : State) v, (signal x v).csr = x.csr := fun x v => by unfold signal; split <;> rfl
  unfold classSeen
  split
  · rfl
  · extract_lets f s1
    have h1 : rget s1 a = rget s a := rget_rset_ne _ hne
    split
    · rw [rget, signal_csr]
      exact h1
    · exact h1

/-- A new record changes FLT_HEAD and FLT_PENDING alone (15 R595, R602). -/
theorem rget_addRecord {a : Nat} (r : FaultRec) (h : OutsideFlt a) : rget (addRecord s r).2 a = rget s a := by
  have hne : a ≠ regFltHead := by unfold OutsideFlt at h; unfold regFltHead; omega
  unfold addRecord
  extract_lets n s1 r1 f m s2 s3
  have h3 : rget s3 a = rget s a := (rget_classSeen _ h).trans (rget_rset_ne _ hne)
  split
  · split <;> exact h3
  · exact h3

/-- A witness counted changes no register (15 R600). -/
theorem witness_csr (n : Nat) : (witness s n).csr = s.csr := by
  unfold witness
  split
  · split <;> rfl
  · rfl

/-- A report that joins an overflow record changes registers of the aggregator alone (15 R599, R601). -/
theorem rget_joinOverflow {a : Nat} (c : Nat) (r : FaultRec) (b : Bool) (h : OutsideFlt a) : rget (joinOverflow s c r b).2 a = rget s a := by
  have hne : a ≠ regFltOverflow := by unfold OutsideFlt at h; unfold regFltOverflow; omega
  unfold joinOverflow
  extract_lets s1
  have h1 : rget s1 a = rget s a := by
    show rget (if b then _ else _) a = _
    split
    · exact rget_bump_ne 1 hne (by decide)
    · rfl
  split
  · rw [rget, witness_csr]
    exact h1
  · exact (rget_addRecord _ h).trans h1

/-- RECOVERED cleared changes no register (15 R572). -/
theorem unrecover_csr (i : Nat) : (unrecover s i).csr = s.csr := by
  unfold unrecover
  refine List.foldlRecOn _ _ (motive := fun x : State => x.csr = s.csr) rfl fun x hx j _ => ?_
  dsimp only
  split <;> exact hx

/-- A report changes registers of the fault aggregator alone (15 R599-R603). -/
theorem rget_report {a : Nat} (kind action subject detail : Nat) (h : OutsideFlt a) :
    rget (report s kind action subject detail) a = rget s a := by
  have hne : a ≠ regFltReports := by unfold OutsideFlt at h; unfold regFltReports; omega
  show rget (file s _).2 a = _
  unfold file
  split
  · rfl
  · extract_lets s1 s2
    have h1 : rget s1 a = rget s a := rget_bump_ne 1 hne (by decide)
    have h2 : rget s2 a = rget s a := by
      refine Eq.trans (congrArg (fun m => (mget csrDefault m a).toNat) ?_) h1
      show (match codeRdy _ _ with | some _ => _ | none => _ : State).csr = _
      split
      · exact unrecover_csr _
      · rw [unrecoverView_only]
    clear_value s2
    split
    · exact (rget_joinOverflow _ _ _ h).trans h2
    · split
      · rw [rget, witness_csr]
        exact h2
      · split
        · exact (rget_joinOverflow _ _ _ h).trans h2
        · exact (rget_addRecord _ h).trans h2

/-! ### Units that read badly -/

/-- The units under `n` bytes at an HBM address all read well (12 R464). -/
theorem unitBad_hbm {a n : Nat} (ha : space a = .hbm) : unitBad s a n = false ↔ ∀ k < n / 64 + 2, a / 64 * 64 + 64 * k < a + n →
    (chanOf s (a / 64 * 64 + 64 * k)).2 / 64 ∉ (chanGet s (chanOf s (a / 64 * 64 + 64 * k)).1).bad := by
  unfold unitBad
  split
  · rw [List.any_eq_false]
    constructor
    · intro h k hk hb hm
      refine h k (List.mem_range.2 hk) (Bool.and_eq_true_iff.2 ⟨decide_eq_true hb, ?_⟩)
      split
      rename_i c o e
      rw [e] at hm
      exact List.contains_iff_mem.2 hm
    · intro h k hk hb
      obtain ⟨h1, h2⟩ := Bool.and_eq_true_iff.1 hb
      split at h2
      rename_i c o e
      refine h k (List.mem_range.1 hk) (of_decide_eq_true h1) ?_
      rw [e]
      exact List.contains_iff_mem.1 h2
  · contradiction

/-- Outside the HBM no unit reads badly (12 R464). -/
theorem unitBad_other {a n : Nat} (ha : space a ≠ .hbm) : unitBad s a n = false := by
  unfold unitBad
  split
  · contradiction
  · rfl

/-- No unit reads badly afterwards that read well before: MEM_CFG, and with it the place of every address, stands, and the units that a channel's
controller holds for bad were so before. -/
structure NoNewBad (s t : State) : Prop where
  cfg : rget t regMemCfg = rget s regMemCfg
  bad : ∀ c, (chanGet t c).bad ⊆ (chanGet s c).bad

namespace NoNewBad

theorem refl (s : State) : NoNewBad s s := ⟨rfl, fun _ => List.Subset.refl _⟩

theorem trans (h : NoNewBad s t) (k : NoNewBad t u) : NoNewBad s u := ⟨k.cfg.trans h.cfg, fun c => List.Subset.trans (k.bad c) (h.bad c)⟩

/-- What leaves the channels alone makes no unit bad. -/
theorem of_chans (hcfg : rget t regMemCfg = rget s regMemCfg) (h : t.chans = s.chans) : NoNewBad s t :=
  ⟨hcfg, fun c => by unfold chanGet; rw [h]; exact List.Subset.refl _⟩

/-- A channel's controller put back with no unit bad that was good. -/
theorem chanPut (h : Canonical s) {c : Nat} {x : Chan} (hx : x.bad ⊆ (chanGet s c).bad) : NoNewBad s (chanPut s c x) where
  cfg := rfl
  bad := fun d => by
    by_cases e : d = c
    · subst e
      rw [chanGet_chanPut_self h]
      exact hx
    · unfold chanGet Machine.chanPut
      rw [mget_mset_ne _ e]
      exact List.Subset.refl _

/-- An address names the same channel and offset. -/
theorem chanOf_eq (h : NoNewBad s t) (a : Nat) : chanOf t a = chanOf s a := by
  unfold chanOf interleaved localBytes fget
  rw [h.cfg]

/-- Units that read well go on doing so. -/
theorem unitBad_false (h : NoNewBad s t) {a n : Nat} (hs : unitBad s a n = false) : unitBad t a n = false := by
  by_cases ha : space a = .hbm
  · rw [unitBad_hbm ha] at hs ⊢
    intro k hk hlt hm
    rw [h.chanOf_eq] at hm
    exact hs k hk hlt (h.bad _ hm)
  · exact unitBad_other ha

end NoNewBad

/-- The registers of a channel's window that its controller writes are other than MEM_CFG, and lie in no window of a core. -/
theorem memCh_apart {c : Nat} (hc : c < 192) (o : Nat) (ho : o < 0x1000) :
    regMemCfg ≠ 0x1400000 + o + 0x1000 * c ∧ corWindow (0x1400000 + o + 0x1000 * c) = none := by
  unfold regMemCfg corWindow
  exact ⟨by omega, if_neg (by omega)⟩

/-- A counter of a channel's window. -/
theorem noNewBad_bumpCh {c : Nat} (hc : c < 192) (o : Nat) (ho : o < 0x1000) (n : Nat) : NoNewBad s (bump s (0x1400000 + o + 0x1000 * c) n) :=
  .of_chans (rget_bump_ne n (memCh_apart hc o ho).1 (memCh_apart hc o ho).2) (bump_chans _ _ _)

/-- A register of a channel's window written. -/
theorem noNewBad_rsetCh {c : Nat} (hc : c < 192) (o : Nat) (ho : o < 0x1000) (v : Nat) : NoNewBad s (rset s (0x1400000 + o + 0x1000 * c) v) :=
  .of_chans (rget_rset_ne v (memCh_apart hc o ho).1) rfl

/-- A report about a unit makes no unit bad. -/
theorem noNewBad_report (kind action subject detail : Nat) (h : ¬viewSubject subject) : NoNewBad s (report s kind action subject detail) := by
  refine .of_chans (rget_report _ _ _ _ (.inr (by decide))) ?_
  rw [report_side s kind action subject detail h]

/-- A dropped write-back makes no unit bad (12 R455). -/
theorem noNewBad_dropWrite {c : Nat} (hc : c < 192) (u : Nat) : NoNewBad s (dropWrite s c u) :=
  ((noNewBad_bumpCh hc 0x30 (by decide) 1).trans (noNewBad_rsetCh hc 0x08 (by decide) _)).trans
    (noNewBad_report _ _ _ _ (unitCode_notView _ _ _ (by decide)))

/-- A whole-unit write clears bad units alone. -/
theorem cureUnit_bad (ch : Chan) (u : Nat) : (cureUnit ch u).bad ⊆ ch.bad := List.filter_subset_self _

/-- A write-back makes no unit bad (12 R454, R455). -/
theorem noNewBad_writeBack (h : Canonical s) {c : Nat} (hc : c < 192) (e : WcbEntry) : NoNewBad s (writeBack s c e) := by
  have h1 : NoNewBad s (takeEntry s c e.unit) := .chanPut h (List.Subset.refl _)
  have k1 : Canonical (takeEntry s c e.unit) := (kept_takeEntry (kept_self h)).canon
  unfold writeBack
  extract_lets s1 ch s2
  have h2 : NoNewBad s s2 := h1.trans (noNewBad_bumpCh hc 0x34 (by decide) 1)
  split
  · exact h1.trans (.chanPut k1 (cureUnit_bad _ _))
  · split
    · exact h2.trans (((noNewBad_bumpCh hc 0x24 (by decide) 1).trans (noNewBad_rsetCh hc 0x50 (by decide) _)).trans (noNewBad_dropWrite hc _))
    · exact h2

/-- Taking a write into the write-combining buffer makes no unit bad (12 R453, R454). -/
theorem noNewBad_combine (h : Canonical s) {c : Nat} (hc : c < 192) (u mask : Nat) (held : List Host.Cell) :
    NoNewBad s (combine s c u mask held) := by
  unfold combine
  extract_lets ch s1 ch1
  split
  · exact .chanPut h (cureUnit_bad _ _)
  · split
    · extract_lets m
      split
      · exact .chanPut h (cureUnit_bad _ _)
      · exact .chanPut h (List.Subset.refl _)
    · have h1 : NoNewBad s s1 ∧ Canonical s1 := by
        show NoNewBad s (if _ then _ else _) ∧ Canonical (if _ then _ else _)
        split
        · exact ⟨.refl s, h⟩
        · split
          · exact ⟨noNewBad_writeBack h hc _, (kept_writeBack (kept_self h)).canon⟩
          · exact ⟨.refl s, h⟩
      exact h1.1.trans (.chanPut h1.2 (List.Subset.refl _))

/-- The HBM is one range from address 0 on (00 R13). -/
theorem space_hbm_iff (a : Nat) : space a = .hbm ↔ a < 0x6000000000 := by
  unfold space
  constructor
  · intro h
    by_contra hn
    rw [if_neg hn] at h
    split at h
    · cases h
    · split at h
      · split at h <;> cases h
      · cases h
  · exact fun h => if_pos h

/-- An HBM address names one of the 192 channels (12 R448, R449). -/
theorem chanOf_lt (s : State) {a : Nat} (ha : space a = .hbm) : (chanOf s a).1 < 192 := by
  have hlt : a < 0x6000000000 := (space_hbm_iff a).1 ha
  unfold chanOf
  extract_lets i
  split
  · have hx : Nat.xor (a / 256 % 192 % 64) (a / 256 / 192 % 64) < 2 ^ 6 :=
      Nat.xor_lt_two_pow (Nat.mod_lt _ (by decide)) (Nat.mod_lt _ (by decide))
    have : a / 256 % 192 < 192 := Nat.mod_lt _ (by decide)
    show 64 * (a / 256 % 192 / 64) + Nat.xor (a / 256 % 192 % 64) (a / 256 / 192 % 64) < 192
    omega
  · rename_i hi
    replace hi : ¬a < 192 * (2 ^ 31 - localBytes s) := hi
    have hw : 0 < localBytes s := by omega
    exact (Nat.div_lt_iff_lt_mul hw).2 (show a - 192 * (2 ^ 31 - localBytes s) < _ by omega)

/-- Bytes put leave the channels' controllers. -/
theorem putBytes_chans (a : Nat) (l : List Byte) : (putBytes s a l).chans = s.chans := by rw [putBytes_only]
/-- Bytes put leave the registers. -/
theorem putBytes_csr (a : Nat) (l : List Byte) : (putBytes s a l).csr = s.csr := by rw [putBytes_only]

/-- Bytes put into memory make no unit bad. -/
theorem noNewBad_putBytes (a : Nat) (l : List Byte) : NoNewBad s (putBytes s a l) :=
  .of_chans (by unfold rget; rw [putBytes_csr]) (putBytes_chans a l)

/-- A write to a part of a unit that reads well. -/
theorem writePart_well {a : Nat} (l : List Byte) (hg : unitBad s a 1 = false) :
    writePart s a l = putBytes (combine s (chanOf s a).1 ((chanOf s a).2 / 64) (maskOf ((chanOf s a).2 % 64) l.length) []) a l := by
  unfold writePart
  extract_lets p mask old had whole s1
  exact if_pos (by rw [hg]; rfl)
/-- A write to a unit that reads well makes no unit bad. -/
theorem noNewBad_writePart (h : Canonical s) {a : Nat} (ha : space a = .hbm) (l : List Byte) (hg : unitBad s a 1 = false) :
    NoNewBad s (writePart s a l) := by
  rw [writePart_well l hg]
  exact (noNewBad_combine h (chanOf_lt s ha) _ _ _).trans (noNewBad_putBytes a l)

/-! ### What a write leaves in memory -/

/-- A byte outside the bytes put is as before. -/
theorem byteAt_putBytes_out (h : Memory.wf s.mem = true) {a b : Nat} {l : List Byte} (hb : b < a ∨ a + l.length ≤ b) :
    byteAt (putBytes s a l) b = byteAt s b := by
  rw [byteAt_putBytes h, dif_neg (by omega)]

/-- Bytes put each at its own address leave every other one as it was. -/
theorem byteAt_putCells_out (h : Memory.wf s.mem = true) {b : Nat} {cs : List Host.Cell} (hb : ∀ e ∈ cs, e.1 ≠ b) :
    byteAt (putCells s cs) b = byteAt s b := by
  unfold putCells
  induction cs generalizing s with
  | nil => rfl
  | cons e r ih =>
    have hne : e.1 ≠ b := hb e List.mem_cons_self
    rw [List.foldl_cons, ih (putBytes_wf h _ _) fun x hx => hb x (List.mem_cons_of_mem _ hx),
      byteAt_putBytes_out h (by rw [List.length_singleton]; omega)]

/-- A byte is read from memory alone. -/
theorem byteAt_congr (h : t.mem = s.mem) (b : Nat) : byteAt t b = byteAt s b := by
  unfold byteAt
  rw [h]

/-- A write to a part of one unit changes no byte of another (12 R453-R455). -/
theorem byteAt_writePart_out (h : Memory.wf s.mem = true) {a b : Nat} {l : List Byte} (hl : a % 64 + l.length ≤ 64) (hb : b / 64 ≠ a / 64) :
    byteAt (writePart s a l) b = byteAt s b := by
  have combine_byteAt : ∀ {c u mask held}, byteAt (combine s c u mask held) b = byteAt s b := fun {c u mask held} =>
    byteAt_congr (combine_side s c u mask held).mem_eq b
  have hout : b < a ∨ a + l.length ≤ b := by omega
  unfold writePart
  extract_lets p mask old had whole s1
  split
  · exact (byteAt_putBytes_out (combine_wf h _ _ _ _) hout).trans combine_byteAt
  · split
    · have hcells : ∀ e ∈ had.filter (fun x => x.1 / 64 == a / 64), e.1 ≠ b := by
        rintro e he rfl
        exact hb (beq_iff_eq.1 (List.mem_filter.1 he).2)
      have h1 : Memory.wf s1.mem = true := combine_wf h _ _ _ _
      rw [byteAt_putBytes_out (putCells_wf h1 _) hout, byteAt_putCells_out h1 hcells]
      exact combine_byteAt
    · exact combine_byteAt

/-- The parts of a write lie one after another in its range, each in one unit. -/
theorem unitParts_mem {f a n : Nat} {p : Nat × Nat} (hp : p ∈ unitParts f a n) :
    a ≤ p.1 ∧ p.1 + p.2 ≤ a + n ∧ 0 < p.2 ∧ p.1 % 64 + p.2 ≤ 64 := by
  induction f generalizing a n with
  | zero => cases hp
  | succ f ih =>
    unfold unitParts at hp
    split at hp
    · cases hp
    · extract_lets k at hp
      have hk : k = min n (64 - a % 64) := rfl
      rcases List.mem_cons.1 hp with rfl | hr
      · dsimp only
        omega
      · have := ih hr
        omega

/-- A write changes no byte of a unit it has no part in (12 R453). -/
theorem byteAt_memWrite_out (h : Memory.wf s.mem = true) {a b : Nat} {l : List Byte} (hb : b / 64 < a / 64 ∨ (a + l.length - 1) / 64 < b / 64) :
    byteAt (memWrite s a l) b = byteAt s b := by
  have hout : b < a ∨ a + l.length ≤ b := by omega
  unfold memWrite
  cases space a with
  | hbm =>
    rw [byteAt_congr (pages_side (MemSide.refl _) l.isEmpty _).2]
    refine (List.foldlRecOn (motive := fun t : State => Memory.wf t.mem = true ∧ byteAt t b = byteAt s b) _ _ ⟨h, rfl⟩ ?_).2
    rintro t ⟨ht, e⟩ p hp
    have hmem := unitParts_mem hp
    refine ⟨writePart_wf ht _ _, (byteAt_writePart_out ht ?_ (by omega)).trans e⟩
    rw [List.length_take]
    omega
  | slow =>
    rw [byteAt_congr (pages_side (MemSide.refl _) l.isEmpty _).2]
    exact byteAt_putBytes_out h hout
  | scratch c => exact byteAt_putBytes_out h hout
  | hole => exact byteAt_putBytes_out h hout

/-- Where all the units of a range read well, so does the unit of each of its bytes. -/
theorem unitBad_byte {a n b : Nat} (h : unitBad s a n = false) (hs : space a = .hbm) (hb : a ≤ b ∧ b < a + n) : unitBad s b 1 = false := by
  by_cases hsb : space b = .hbm
  · rw [unitBad_hbm hs] at h
    rw [unitBad_hbm hsb]
    intro k _ hlt
    have e : b / 64 * 64 + 64 * k = a / 64 * 64 + 64 * (b / 64 - a / 64) := by omega
    rw [e]
    exact h (b / 64 - a / 64) (by omega) (by omega)
  · exact unitBad_other hsb

/-- The parts of a write to units that read well lay their bytes in memory, one after another (12 R453). -/
theorem byteAt_foldParts {l : List Byte} {base : Nat} (f a n : Nat) (hf : n ≤ f) (h : Canonical s) (hl : base ≤ a ∧ a + n = base + l.length)
    (hg : ∀ b, a ≤ b → b < a + n → space b = .hbm ∧ unitBad s b 1 = false) (b : Nat) :
    byteAt ((unitParts f a n).foldl (fun s p => writePart s p.1 ((l.drop (p.1 - base)).take p.2)) s) b =
      if a ≤ b ∧ b < a + n then l.getD (b - base) 0 else byteAt s b := by
  induction f generalizing s a n with
  | zero => rw [if_neg (by omega)]; rfl
  | succ f ih =>
    unfold unitParts
    split
    · rw [if_neg (by omega)]; rfl
    · extract_lets k
      have hk : k = min n (64 - a % 64) := rfl
      clear_value k
      obtain ⟨ha, hga⟩ := hg a (by omega) (by omega)
      have hlen : ((l.drop (a - base)).take k).length = k := by
        rw [List.length_take, List.length_drop]
        omega
      rw [List.foldl_cons]
      rw [ih (a + k) (n - k) (by omega) (kept_writePart (kept_self h)).canon (by omega) fun b h1 h2 =>
        ⟨(hg b (by omega) (by omega)).1, (noNewBad_writePart h ha _ hga).unitBad_false (hg b (by omega) (by omega)).2⟩]
      rw [byteAt_congr (writePart_mem s a _ hga), byteAt_putBytes h.mem]
      by_cases h1 : a + k ≤ b ∧ b < a + k + (n - k)
      · rw [if_pos h1, if_pos (by omega)]
      · rw [if_neg h1]
        by_cases h2 : a ≤ b ∧ b < a + k
        · rw [dif_pos (by rw [hlen]; exact h2), if_pos (by omega), List.getElem_take, List.getElem_drop, List.getD_eq_getElem _ _ (by omega)]
          congr 1
          omega
        · rw [dif_neg (by rw [hlen]; exact h2), if_neg (by omega)]

/-- Reading a byte after a write that lies in one space and whose units read well: the byte written, and every other byte as before (12 R453). -/
theorem byteAt_memWrite_well (h : Canonical s) {a : Nat} {l : List Byte} (hin : space a = .hbm → a + l.length ≤ 0x6000000000)
    (hg : unitBad s a l.length = false) (b : Nat) :
    byteAt (memWrite s a l) b = if a ≤ b ∧ b < a + l.length then l.getD (b - a) 0 else byteAt s b := by
  have hput : byteAt (putBytes s a l) b = if a ≤ b ∧ b < a + l.length then l.getD (b - a) 0 else byteAt s b := by
    rw [byteAt_putBytes h.mem]
    split
    · rw [List.getD_eq_getElem]
    · rfl
  unfold memWrite
  cases hs : space a with
  | hbm =>
    rw [byteAt_congr (pages_side (MemSide.refl _) l.isEmpty _).2]
    refine byteAt_foldParts (l.length + 1) a l.length (by omega) h ⟨Nat.le_refl a, rfl⟩ (fun b h1 h2 => ?_) b
    exact ⟨(space_hbm_iff b).2 (by have := hin hs; omega), unitBad_byte hg hs ⟨h1, h2⟩⟩
  | slow =>
    rw [byteAt_congr (pages_side (MemSide.refl _) l.isEmpty _).2]
    exact hput
  | scratch c => exact hput
  | hole => exact hput

end Sys2Proof.Machine
end

section
/-! SUPPORT. What the access codes of a register let a write do, and who writes which register (00 R5-R9, R22; 01 R37-R39; 12; 16 R628, R635). -/

namespace Sys2Proof.Machine

variable {s t : State}

/-! ### Bits -/

/-- A bit of a number is the test of it. -/
theorem bit_eq_testBit (n i : Nat) : bit n i = n.testBit i := by
  unfold bit
  rw [Nat.testBit_eq_decide_div_mod_eq, beq_eq_decide]

/-- The bits of a number of 64 bits. -/
theorem getLsbD_ofNat_bit {n i : Nat} (hi : i < 64) : (BitVec.ofNat 64 n).getLsbD i = bit n i := by
  rw [BitVec.getLsbD_ofNat, bit_eq_testBit, decide_eq_true hi, Bool.true_and]

/-- The mask of a 32-bit write. -/
theorem bit_mask32 (i : Nat) : bit (2 ^ 32 - 1) i = decide (i < 32) := by
  rw [bit_eq_testBit, Nat.testBit_two_pow_sub_one]

/-- Setting a bit of a word sets it. -/
theorem bit_orBit_self {n b : Nat} (hn : n < 2 ^ 64) (hb : b < 64) : bit (orBit n b % 2 ^ 64) b = true := by
  unfold orBit
  split
  · rename_i h
    rw [Nat.mod_eq_of_lt hn]
    exact h
  · rename_i h
    rw [bit_eq_testBit] at h ⊢
    rw [Nat.testBit_mod_two_pow, decide_eq_true hb, Bool.true_and, Nat.add_comm, Nat.testBit_two_pow_add_eq]
    simpa using h

/-- A register holds 64 bits. -/
theorem rget_lt (s : State) (a : Nat) : rget s a < 2 ^ 64 := BitVec.isLt _

/-- An event sets its bit. -/
theorem bit_event_self (h : Canonical s) {a b : Nat} (hb : b < 64) : bit (rget (event s a b) a) b = true := by
  unfold event
  rw [rget_rset_self h]
  exact bit_orBit_self (rget_lt s a) hb

/-- Setting a key of a canonical map to what it reads changes nothing. -/
theorem mset_mget_self {α : Type} [DecidableEq α] {d : Nat → α} {m : List (Nat × α)} (h : mwf d m = true) (k : Nat) :
    mset d m k (mget d m k) = m := by
  unfold mwf at h
  generalize 0 = lo at h
  induction m generalizing lo with
  | nil => exact if_pos rfl
  | cons e r ih =>
    obtain ⟨j, w⟩ := e
    simp only [mwfFrom, Bool.and_eq_true, decide_eq_true_eq] at h
    obtain ⟨⟨_, hw⟩, hr⟩ := h
    unfold mset mget
    by_cases hk : k = j
    · subst hk
      simp [hw]
    · simp only [if_neg hk]
      split
      · rw [mget_below hr (by omega), if_pos rfl]
      · rw [ih _ hr]

/-- Writing what a register holds changes nothing. -/
theorem rset_rget_self (h : Canonical s) (a : Nat) : rset s a (rget s a) = s := by
  unfold rset rget
  rw [BitVec.ofNat_toNat, BitVec.setWidth_eq, mset_mget_self h.csr]

/-! ### Access codes (00 R7, R8, R22) -/

/-- A register without writable, W1C or W1S fields keeps its value. -/
theorem coded_inert {r : RegDesc} (hs : r.sat = false) (hrw : r.rw = 0) (hc : r.w1c = 0) (h1 : r.w1s = 0) {old v m : Nat} (ho : old < 2 ^ 64) :
    coded r old v m = old := by
  have hkeep : ∀ o x k : BitVec 64, (o &&& ~~~(0#64 &&& k) ||| x &&& (0#64 &&& k)) &&& ~~~(x &&& 0#64) ||| x &&& 0#64 = o := by
    intro o x k
    rw [BitVec.zero_and, BitVec.and_zero, BitVec.not_zero, BitVec.and_allOnes, BitVec.or_zero, BitVec.and_allOnes, BitVec.or_zero]
  unfold coded
  rw [hs, hrw, hc, h1]
  exact (congrArg BitVec.toNat (hkeep _ _ _)).trans (Nat.mod_eq_of_lt ho)

/-- What a value coded holds is a word's. -/
theorem coded_lt {r : RegDesc} {old v m : Nat} (ho : old < 2 ^ 64) : coded r old v m < 2 ^ 64 := by
  unfold coded
  extract_lets o x rw
  split
  · split
    · exact ho
    · decide
  · exact BitVec.isLt _

/-- Each bit of a register follows its access code where the mask of the write has it, and else keeps its value. -/
theorem bit_coded {r : RegDesc} (hs : r.sat = false) {old v m i : Nat} (h64 : i < 64) :
    bit (coded r old v m) i = if bit m i then
      ((if bit r.rw i then bit v i else bit old i) && !(bit v i && bit r.w1c i)) || (bit v i && bit r.w1s i) else bit old i := by
  unfold coded
  rw [bit_eq_testBit, hs]
  simp only [Bool.false_eq_true, if_false, BitVec.testBit_toNat, BitVec.getLsbD_or, BitVec.getLsbD_and, BitVec.getLsbD_not, getLsbD_ofNat_bit h64,
    h64, decide_true, Bool.true_and]
  cases bit m i <;> cases bit r.rw i <;> simp

/-- A one in the SAT bit clears a statistics counter whole; else it keeps its value (00 R22). -/
theorem coded_sat {r : RegDesc} (hs : r.sat = true) {old v : Nat} (hv : v < 2 ^ 32) :
    coded r old v (2 ^ 32 - 1) = if Nat.land v r.w1c % 2 ^ 32 = 0 then old else 0 := by
  have hx : BitVec.ofNat 64 v &&& BitVec.ofNat 64 (2 ^ 32 - 1) = BitVec.ofNat 64 v := by
    rw [← BitVec.ofNat_and, Nat.and_two_pow_sub_one_eq_mod, Nat.mod_eq_of_lt hv]
  have hle : Nat.land v r.w1c ≤ v := Nat.and_le_left
  have hzero : BitVec.ofNat 64 (v &&& r.w1c) = 0 ↔ Nat.land v r.w1c % 2 ^ 32 = 0 := by
    rw [← BitVec.toNat_inj, BitVec.toNat_ofNat, Nat.mod_eq_of_lt (show v &&& r.w1c < 2 ^ 64 from lt_of_le_of_lt hle (by omega)),
      Nat.mod_eq_of_lt (show Nat.land v r.w1c < 2 ^ 32 by omega)]
    rfl
  unfold coded
  rw [hs, if_pos rfl, hx, ← BitVec.ofNat_and]
  exact if_congr hzero rfl rfl

/-! ### Where a register lies (00 R6, R20) -/

/-- The register of a window at an offset: itself, or the high half of a 64-bit one. -/
theorem findDesc_off {l : List RegDesc} {o : Nat} {r : RegDesc} {hi : Bool} (h : findDesc l o = some (r, hi)) :
    o = r.off ∧ hi = false ∨ o = r.off + 4 ∧ hi = true := by
  induction l with
  | nil => cases h
  | cons x xs ih =>
    unfold findDesc at h
    split at h
    · cases h
      exact .inl ⟨‹_›, rfl⟩
    · split at h
      · rename_i hw
        cases h
        exact .inr ⟨by simpa using And.right (Bool.and_eq_true_iff.1 hw), rfl⟩
      · exact ih h

/-- An address names a register by its own address, or by that of its high half. -/
theorem findReg_own {ws : List RegWindow} {a own : Nat} {r : RegDesc} {hi : Bool} (h : findReg ws a = some (r, own, hi)) :
    own = a ∧ hi = false ∨ own + 4 = a ∧ hi = true := by
  induction ws with
  | nil => cases h
  | cons w ws ih =>
    unfold findReg at h
    split at h
    · rename_i hw
      dsimp only at h
      split at h
      · rename_i x y e
        cases h
        have hle : (a - w.base) % w.stride ≤ a - w.base := Nat.mod_le _ _
        rcases findDesc_off e with ⟨ho, rfl⟩ | ⟨ho, rfl⟩
        · exact .inl ⟨by omega, rfl⟩
        · exact .inr ⟨by omega, rfl⟩
      · cases h
    · exact ih h

/-- RDY_CMD has a word of its own, whose fields no code lets a write change (16 R638). -/
theorem findReg_rdyCmd : findReg regWindows regRdyCmd = some (⟨0, false, 0, 0, 0, 0, false⟩, regRdyCmd, false) := by decide
/-- BOOT_RESTART has a word of its own, whose fields no code lets a write change (16 R648). -/
theorem findReg_bootRestart : findReg regWindows regBootRestart = some (⟨0x28, false, 0, 0, 0, 0, false⟩, regBootRestart, false) := by decide

/-- RDY_CMD and FLT_ALERT_MASK have 32 bits: no other address writes them. -/
theorem findReg_narrow {a own : Nat} {r : RegDesc} {hi : Bool} (h : findReg regWindows a = some (r, own, hi))
    (hown : own = regRdyCmd ∨ own = regFltAlertMask) : a = own := by
  rcases findReg_own h with ⟨e, _⟩ | ⟨e, hhi⟩
  · exact e.symm
  · subst e hhi
    rcases hown with rfl | rfl
    · rw [show findReg regWindows (regRdyCmd + 4) = some (⟨0x4, false, 0, 0, 0, 0, false⟩, regRdyCmd + 4, false) by decide] at h
      cases h
    · rw [show findReg regWindows (regFltAlertMask + 4) = none by decide] at h
      cases h

/-! ### Writes to BAR0 -/

/-- What commands answer next is what a write that stands for them leaves. -/
theorem next_after {Q : Aim} {o : Out} (h : KeptO Q o) (s : State) : .next (after o s) = o := by
  obtain ⟨t, rfl, _⟩ := h.out
  rfl

/-- A write without power, from no source, beyond BAR0 or not aligned changes nothing (00 R6; log 54). -/
theorem registerWrite_dropped {src a v : Nat} (h : s.boot.pwrgood = false ∨ 23 ≤ src ∨ 2 ^ 26 ≤ a ∨ a % 4 ≠ 0) :
    exec (.registerWrite src a 4 v) s = .next s := by
  have hn : ¬(s.boot.pwrgood = true ∧ src < 23 ∧ aligned a 4 = true ∧ a < 2 ^ 26) := by
    rintro ⟨hp, hs, ha, hlt⟩
    have h4 : a % 4 = 0 := by simpa [aligned] using ha
    rcases h with h | h | h | h
    · rw [h] at hp
      cases hp
    all_goals omega
  rw [exec_registerWrite]
  unfold execRegisterWrite
  rw [if_neg hn]

/-- An aligned write of 4 bytes writes one word, where the host may reach it and no barrier is defined there. -/
theorem registerWrite_word {src a v : Nat} (hp : s.boot.pwrgood = true) (hs : src < 23) (hlt : a < 2 ^ 26) (h4 : a % 4 = 0) (hv : v < 2 ^ 32)
    (hh : haltedOff s src a = false) (hd : ¬(0xA00000 ≤ a ∧ a < 0xA10000)) :
    exec (.registerWrite src a 4 v) s = .next (writeWord s src a v (2 ^ 32 - 1)) := by
  have ha : aligned a 4 = true := by simp [aligned, h4]
  rw [exec_registerWrite]
  unfold execRegisterWrite regWrite
  rw [if_pos ⟨hp, hs, ha, hlt⟩, hh, if_neg Bool.false_ne_true, if_neg hd, if_pos (by decide), h4, Nat.div_mul_cancel (Nat.dvd_of_mod_eq_zero h4),
    Nat.mod_eq_of_lt (show v < 256 ^ 4 by omega), Nat.pow_zero, Nat.mul_one, Nat.mul_one]
  rfl

/-- A write where HALTED keeps the host out changes nothing (16 R628). -/
theorem regWrite_halted {src a n v : Nat} (h : haltedOff s src a = true) : regWrite s src a n v = s := by
  unfold regWrite
  rw [if_pos h]

/-- The definitions of barriers take no write but of a control core (11 R430, R431). -/
theorem writeDefs_plane {src a n v : Nat} (h : src < srcCtrl) : writeDefs s src a n v = s := by
  unfold writeDefs
  rw [if_pos h]

/-- An aligned write changes nothing where the write to its word doesn't, and a control core alone may define barriers. -/
theorem registerWrite_idle {src a v : Nat} (hv : v < 2 ^ 32) (hw : writeWord s src a v (2 ^ 32 - 1) = s)
    (hd : 0xA00000 ≤ a ∧ a < 0xA10000 → src < srcCtrl) : exec (.registerWrite src a 4 v) s = .next s := by
  by_cases hx : s.boot.pwrgood = false ∨ 23 ≤ src ∨ 2 ^ 26 ≤ a ∨ a % 4 ≠ 0
  · exact registerWrite_dropped hx
  obtain ⟨hp, hs, hlt, h4⟩ : s.boot.pwrgood = true ∧ src < 23 ∧ a < 2 ^ 26 ∧ a % 4 = 0 := by
    simpa only [not_or, Bool.not_eq_false, not_le, ne_eq, not_not] using hx
  by_cases hdef : 0xA00000 ≤ a ∧ a < 0xA10000
  · rw [exec_registerWrite]
    unfold execRegisterWrite regWrite
    rw [if_pos hdef, writeDefs_plane (hd hdef), ite_self, ite_self]
  cases hh : haltedOff s src a with
  | true =>
    rw [exec_registerWrite]
    unfold execRegisterWrite
    rw [regWrite_halted hh, ite_self]
  | false => rw [registerWrite_word hp hs hlt h4 hv hh hdef, hw]

/-- A word with no register takes nothing (00 R9). -/
theorem writeWord_none {src a v m : Nat} (h : findReg regWindows a = none) : writeWord s src a v m = s := by
  unfold writeWord
  rw [h]

/-- A word at a register's own address is written to its low half. -/
theorem writeWord_low {src a own v m : Nat} {r : RegDesc} (h : findReg regWindows a = some (r, own, false)) :
    writeWord s src a v m = writeReg s src r own v m := by
  unfold writeWord
  rw [h]
  simp only [Bool.false_eq_true, if_false, Nat.mul_one]

/-- A word is left as it is where the register it belongs to is. -/
theorem writeWord_idle {src a v m : Nat} (h : ∀ r own hi v m, findReg regWindows a = some (r, own, hi) → writeReg s src r own v m = s) :
    writeWord s src a v m = s := by
  unfold writeWord
  split
  · exact h _ _ _ _ _ ‹_›
  · rfl

/-- A write by a source that may not write leaves the register, and may act all the same. -/
theorem writeReg_barred {src a v m : Nat} {r : RegDesc} (hm : mayWrite s src a = false) :
    writeReg s src r a v m = if (src = 1 ∨ src = 2) ∧ a ≠ regRdyCmd then s else (trigger s src a (Nat.land v m)).getD s := by
  unfold writeReg
  extract_lets x
  have hx : x = s := if_neg fun h => Bool.false_ne_true (hm.symm.trans h.1)
  rw [hx]
  cases trigger s src a (Nat.land v m) <;> rfl

/-- A write by a source that may write follows the register's codes, and then acts. -/
theorem writeReg_allowed {src a v m : Nat} {r : RegDesc} (hm : mayWrite s src a = true) (ha : a ≠ regBootFwReady) :
    writeReg s src r a v m = if (src = 1 ∨ src = 2) ∧ a ≠ regRdyCmd then rset s a (coded r (rget s a) v m)
      else (trigger (rset s a (coded r (rget s a) v m)) src a (Nat.land v m)).getD (rset s a (coded r (rget s a) v m)) := by
  unfold writeReg
  extract_lets x
  have hx : x = rset s a (coded r (rget s a) v m) := if_pos ⟨hm, ha⟩
  rw [hx]
  cases trigger (rset s a (coded r (rget s a) v m)) src a (Nat.land v m) <;> rfl

/-- Management and the keeper reach no register but RDY_CMD, and management FLT_ALERT_MASK (01 R38, R39; 19 R722). -/
theorem writeReg_plane {src a v m : Nat} {r : RegDesc} (hs : src = 1 ∨ src = 2) (ha : a ≠ regRdyCmd) (hf : a = regFltAlertMask → src = 2) :
    writeReg s src r a v m = s := by
  have hmay : mayWrite s src a = false := by
    unfold mayWrite
    rw [if_pos hs, beq_false_of_ne ha, Bool.false_or, Bool.and_eq_false_iff]
    by_cases e : a = regFltAlertMask
    · exact .inr (by rw [hf e]; rfl)
    · exact .inl (beq_false_of_ne e)
  rw [writeReg_barred hmay, if_pos ⟨hs, ha⟩]

/-- A register of the channels' windows has no action but MEM_CH_CTL's, which control cores alone take (12 R482). -/
theorem trigger_mem {src a v : Nat} (hs : src < srcCtrl) (ha : 0x1400000 ≤ a ∧ a < 0x1800000) :
    trigger s src a v = some s ∨ trigger s src a v = none := by
  have hplanes : triggerPlanes s src a v = none := by
    unfold triggerPlanes regRdyCmd regFltAck regHitClear regBootFwReady regBootRestart
    rw [if_neg (by omega), if_neg (by omega), if_neg (by omega), if_neg (by omega), if_neg (by omega)]
  have habort : windowIdx a 0x400100 0x10 20 0 = none := if_neg (by omega)
  have hqueue : windowIdx a 0x10000 0x20 1024 0x14 = none := if_neg (by omega)
  unfold trigger
  rw [hplanes, habort, hqueue]
  dsimp only
  split
  · rw [if_neg (by omega)]
    exact .inl rfl
  · exact .inr rfl

/-- MEM registers take writes of control cores only (12). -/
theorem writeReg_mem {src a v m : Nat} {r : RegDesc} (hs : src < srcCtrl) (ha : 0x1400000 ≤ a ∧ a < 0x1800000) : writeReg s src r a v m = s := by
  have hmay : mayWrite s src a = false := by
    unfold mayWrite regRdyCmd regFltAlertMask
    rw [if_pos ha]
    split
    · rw [beq_false_of_ne (by omega), beq_false_of_ne (by omega)]
      rfl
    · exact decide_eq_false (by omega)
  rw [writeReg_barred hmay]
  split
  · rfl
  · rcases trigger_mem (s := s) (v := Nat.land v m) hs ha with e | e <;> rw [e] <;> rfl

/-- The mask of a 32-bit write takes a value of 32 bits whole. -/
theorem land_mask32 {v : Nat} (hv : v < 2 ^ 32) : Nat.land v (2 ^ 32 - 1) = v :=
  (Nat.and_two_pow_sub_one_eq_mod v 32).trans (Nat.mod_eq_of_lt hv)

/-- A write to a register without action changes it alone, as its codes let it. -/
theorem writeReg_codes {src a v : Nat} {r : RegDesc} (hv : v < 2 ^ 32) (hm : mayWrite s src a = true) (ha : a ≠ regBootFwReady)
    (ht : trigger (rset s a (coded r (rget s a) v (2 ^ 32 - 1))) src a v = none) :
    writeReg s src r a v (2 ^ 32 - 1) = rset s a (coded r (rget s a) v (2 ^ 32 - 1)) := by
  rw [writeReg_allowed hm ha, land_mask32 hv, ht, Option.getD_none, ite_self]

/-- A write to a register whose fields no code lets change is its action. -/
theorem writeReg_action {src a v : Nat} {off : Nat} {wide : Bool} {reset : Nat} (h : Canonical s) (hv : v < 2 ^ 32)
    (hs : ¬((src = 1 ∨ src = 2) ∧ a ≠ regRdyCmd)) (ht : trigger s src a v = some t) :
    writeReg s src ⟨off, wide, reset, 0, 0, 0, false⟩ a v (2 ^ 32 - 1) = t := by
  have hkeep : rset s a (coded ⟨off, wide, reset, 0, 0, 0, false⟩ (rget s a) v (2 ^ 32 - 1)) = s := by
    rw [coded_inert rfl rfl rfl rfl (rget_lt s a), rset_rget_self h]
  unfold writeReg
  rw [hkeep, ite_self, if_neg hs, land_mask32 hv, ht]

/-- A write to RDY_CMD by management or the keeper is the command it spells (16 R635, R638). -/
theorem registerWrite_rdyCmd {src v : Nat} (h : Canonical s) (hp : s.boot.pwrgood = true) (hs : src = 1 ∨ src = 2) (hv : v < 2 ^ 32) :
    exec (.registerWrite src regRdyCmd 4 v) s = .next (writeRdyCmd s src v) := by
  have hhalt : haltedOff s src regRdyCmd = false := by
    unfold haltedOff
    rw [beq_false_of_ne (by omega)]
    rfl
  have ht : trigger s src regRdyCmd v = some (writeRdyCmd s src v) := rfl
  rw [registerWrite_word hp (by omega) (by decide) (by decide) hv hhalt (by decide)]
  rw [writeWord_low findReg_rdyCmd]
  exact congrArg _ (writeReg_action h hv (by simp) ht)

/-- The host's write to BOOT_RESTART is the restart (16 R648). -/
theorem registerWrite_bootRestart {v : Nat} (h : Canonical s) (hp : s.boot.pwrgood = true) (hv : v < 2 ^ 32) :
    exec (.registerWrite 0 regBootRestart 4 v) s = .next (after (execBootRestart v s) s) := by
  have hhalt : haltedOff s 0 regBootRestart = false := by
    unfold haltedOff
    rw [show haltedBlock regBootRestart = true by decide, Bool.not_true, Bool.and_false]
  have ht : trigger s 0 regBootRestart v = some (after (execBootRestart v s) s) := rfl
  rw [registerWrite_word hp (by decide) (by decide) (by decide) hv hhalt (by decide)]
  rw [writeWord_low findReg_bootRestart]
  exact congrArg _ (writeReg_action h hv (by simp) ht)

end Sys2Proof.Machine
end

section
/-! SUPPORT. The BAR2 window and configuration space (12 R464; 18 R680-R682, R706). -/

namespace Sys2Proof.Machine

variable {s t : State}

/-! ### Reads of uncorrectable units -/

/-- An error noted in LAST_ERR is a controller's side (12 R479). -/
theorem chanErr_side (s : State) (c kind nbytes off : Nat) : ChanSide s (chanErr s c kind nbytes off) := (rset_side _ _ _).chan

/-- A spare taken is a controller's side (12 R466). -/
theorem useSpare_side (s : State) (c r uses : Nat) : ChanSide s (useSpare s c r uses) := chanPut_side _ _ _

/-- A group fenced is a controller's side (12 R467). -/
theorem fenceGroup_side (s : State) (c g : Nat) : ChanSide s (fenceGroup s c g) := by
  unfold fenceGroup
  extract_lets ch s1 s2 inter
  split
  · exact .refl s
  · have h1 : ChanSide s s1 := chanPut_side _ _ _
    have h2 : ChanSide s s2 := h1.trans (event_side _ _ _).chan
    exact h2.trans (reportFull_side _ _ _ _ _ _ _ _ (unitCode_notView _ _ _ (by decide))).chan

/-- A row's failure is a controller's side (12 R466, R467). -/
theorem rowFailed_side (s : State) (c r : Nat) : ChanSide s (rowFailed s c r) := by
  unfold rowFailed
  extract_lets ch uses free g s1
  split
  · exact fenceGroup_side _ _ _
  · split
    · have h1 : ChanSide s s1 := (useSpare_side _ _ _ _).trans (event_side _ _ _).chan
      exact h1.trans (report_side _ _ _ _ _ (unitCode_notView _ _ _ (by decide))).chan
    · exact (fenceGroup_side _ _ _).trans (useSpare_side _ _ _ _)

/-- An uncorrectable read is a controller's side (12 R464, R466). -/
theorem uncorrected_side (s : State) (c u : Nat) (rec : Bool) : ChanSide s (uncorrected s c u rec) := by
  unfold uncorrected
  extract_lets s1 s2 ch
  have h1 : ChanSide s s1 := ((bump_side s _ 1).chan.trans (chanErr_side _ _ _ _ _)).trans (event_side _ _ _).chan
  have h2 : ChanSide s s2 := by
    show ChanSide s (if rec then _ else _)
    split
    · exact h1.trans (report_side _ _ _ _ _ (unitCode_notView _ _ _ (by decide))).chan
    · exact h1
  split
  · exact h2
  · exact (h2.trans (chanPut_side _ _ _)).trans (rowFailed_side _ _ _)

/-- A read that meets uncorrectable units is a controller's side (12 R464). -/
theorem badRead_side (s : State) (a n : Nat) : ChanSide s (badRead s a n) := by
  unfold badRead
  exact List.foldlRecOn (motive := ChanSide s) _ _ (.refl s) fun t ht u _ => ht.trans (uncorrected_side t u.1 u.2 true)

/-! ### The window -/

/-- Whether the endpoint answers: power is good and the configuration space is loaded (16 R615, R616). -/
def EndpointUp (s : State) : Prop := s.boot.pwrgood = true ∧ s.pci.linkUp = true

/-- The test by which the endpoint's commands ask whether it is in reset. -/
theorem endpointDown_iff : (!s.boot.pwrgood) = true ∨ (!s.pci.linkUp) = true ↔ ¬EndpointUp s := by
  unfold EndpointUp
  rw [Bool.not_eq_true', Bool.not_eq_true', not_and_or, Bool.not_eq_true, Bool.not_eq_true]

/-- An endpoint that is up answers. -/
theorem EndpointUp.notDown (h : EndpointUp s) : ¬((!s.boot.pwrgood) = true ∨ (!s.pci.linkUp) = true) := endpointDown_iff.not_left.2 h

/-- Nothing comes through an endpoint in reset (16 R615, R616). -/
theorem endpoint_down (h : ¬EndpointUp s) (off len f v : Nat) (data : List Byte) :
    exec (.bar2Read off len) s = .next s ∧ exec (.bar2Write off data) s = .next s ∧ exec (.configSpaceWrite f v) s = .next s :=
  ⟨if_pos (endpointDown_iff.2 h), if_pos (endpointDown_iff.2 h), if_pos (endpointDown_iff.2 h)⟩

/-- Whether a range of BAR2 lies in the window and names memory that is backed (R682, R706). -/
def InWindow (s : State) (off len : Nat) : Prop := off + len ≤ 2 ^ s.pci.bar2Log2 ∧ allReach s (bar2Base s + off) len = true

/-- The test by which BAR2_READ asks whether a range is not backed. -/
theorem notInWindow_iff {off len : Nat} :
    2 ^ s.pci.bar2Log2 < off + len ∨ (!allReach s (bar2Base s + off) len) = true ↔ ¬InWindow s off len := by
  unfold InWindow
  rw [Bool.not_eq_true', not_and_or, Bool.not_eq_true, not_le]

/-- A read outside the window, or of what is not backed, answers Unsupported Request (R682). -/
theorem bar2Read_outside (hup : EndpointUp s) {off len : Nat} (h : ¬InWindow s off len) :
    exec (.bar2Read off len) s = .next { s with pci := { s.pci with readData := [], readStatus := 2 } } := by
  rw [exec_bar2Read]
  unfold execBar2Read
  extract_lets a
  rw [if_neg hup.notDown, if_pos (notInWindow_iff.2 h)]
  rfl

/-- A read whose units all read well answers the device's bytes (R682). -/
theorem bar2Read_well (hup : EndpointUp s) {off len : Nat} (h : InWindow s off len) (hg : unitBad s (bar2Base s + off) len = false) :
    exec (.bar2Read off len) s = .next { s with pci := { s.pci with readData := readBytes s (bar2Base s + off) len, readStatus := 0 } } := by
  rw [exec_bar2Read]
  unfold execBar2Read
  extract_lets a
  rw [if_neg hup.notDown, if_neg (notInWindow_iff.not_left.2 h), if_neg (by rw [hg]; exact Bool.false_ne_true)]
  rfl

/-- A read that meets an uncorrectable unit answers Completer Abort (12 R464; R682). -/
theorem bar2Read_bad (hup : EndpointUp s) {off len : Nat} (h : InWindow s off len) (hb : unitBad s (bar2Base s + off) len = true) :
    exec (.bar2Read off len) s = .next (pciMap (badRead s (bar2Base s + off) len) fun p => { p with readData := [], readStatus := 1 }) := by
  rw [exec_bar2Read]
  unfold execBar2Read
  extract_lets a
  rw [if_neg hup.notDown, if_neg (notInWindow_iff.not_left.2 h), if_pos hb]

/-- A write within one page has one part. -/
theorem pageParts_one {f a : Nat} {l : List Byte} (h0 : 0 < l.length) (h : a % 4096 + l.length ≤ 4096) : pageParts (f + 1) a l = [(a, l)] := by
  have hne : l.isEmpty = false := by
    cases l with
    | nil => cases h0
    | cons x r => rfl
  unfold pageParts
  extract_lets k
  have hk : l.length ≤ k := by show l.length ≤ 4096 - a % 4096; omega
  rw [hne, if_neg Bool.false_ne_true, List.take_of_length_le hk, List.drop_of_length_le hk]
  cases f <;> rfl

/-- A write within one page of the window: dropped and reported where the page is protected, else an accepted write (R682). -/
theorem bar2Write_page (hup : EndpointUp s) {off : Nat} {data : List Byte} (h0 : 0 < data.length)
    (hpage : (bar2Base s + off) % 4096 + data.length ≤ 4096) (hin : InWindow s off data.length) :
    exec (.bar2Write off data) s = .next (if protectedAt s (bar2Base s + off) data.length = true
      then event (bump1 s regPciBar2Drop) regPciEvents 2 else memWrite s (bar2Base s + off) data) := by
  have hout : ¬(2 ^ s.pci.bar2Log2 < bar2Base s + off - bar2Base s + data.length ∨ (!allReach s (bar2Base s + off) data.length) = true) := by
    rw [Nat.add_sub_cancel_left]
    exact notInWindow_iff.not_left.2 hin
  rw [exec_bar2Write]
  unfold execBar2Write
  rw [if_neg hup.notDown, pageParts_one h0 hpage, List.foldl_cons, List.foldl_nil]
  simp only [← or_assoc, or_iff_right hout]

/-! ### Configuration space -/

/-- What the host interface does to write its entries: host memory and its own state, its power state and Bus Master Enable left alone. -/
structure HostSide (s t : State) : Prop where
  only : t = { s with hostMem := t.hostMem, pci := t.pci }
  power : t.pci.d3hot = s.pci.d3hot ∧ t.pci.bme = s.pci.bme

namespace HostSide

theorem refl (s : State) : HostSide s s := ⟨rfl, rfl, rfl⟩

theorem trans {u : State} (h : HostSide s t) (k : HostSide t u) : HostSide s u :=
  ⟨by rw [k.only, h.only], k.power.1.trans h.power.1, k.power.2.trans h.power.2⟩

end HostSide

/-- Host memory written is the host interface's side. -/
theorem hostWrite_side (s : State) (a : Nat) (l : List Byte) : HostSide s (hostWrite s a l) := by
  induction l generalizing s a with
  | nil => exact .refl s
  | cons x r ih =>
    have h1 : HostSide s { s with hostMem := mset (fun _ => (0 : Byte)) s.hostMem a x } := ⟨rfl, rfl, rfl⟩
    exact h1.trans (ih _ (a + 1))

/-- An interrupt is the host interface's side (18 R683). -/
theorem signal_hostSide (s : State) (v : Nat) : HostSide s (signal s v) := by
  unfold signal
  split
  · exact .refl s
  · exact ⟨rfl, rfl, rfl⟩

/-- A queue pair put back is the host interface's side. -/
theorem queuePut_hostSide (s : State) (q : Nat) (x : QueuePair) : HostSide s (queuePut s q x) := ⟨rfl, rfl, rfl⟩

/-- A request that leaves is the host interface's side. -/
theorem dropReq_hostSide (s : State) (id : Nat) : HostSide s (dropReq s id) := ⟨rfl, rfl, rfl⟩

/-- A completion entry written is the host interface's side (18 R689, R700). -/
theorem writeEntry_side (s : State) (id : Nat) (r : Request) : HostSide s (writeEntry s id r) := by
  unfold writeEntry
  extract_lets q x ok e s1 last noIrq n s2 cnt us
  have h2 : HostSide s s2 := (hostWrite_side _ _ _).trans (queuePut_hostSide _ _ _)
  split
  · exact h2
  · split
    · exact (h2.trans (queuePut_hostSide _ _ _)).trans (signal_hostSide _ _)
    · exact h2

/-- Writing the entries that are due is the host interface's side (R680). -/
theorem writeDue_side (s : State) : HostSide s (writeDue s) := by
  unfold writeDue
  split
  · exact .refl s
  · exact List.foldlRecOn (motive := HostSide s) _ _ (.refl s) fun t ht e _ => (ht.trans (dropReq_hostSide _ _)).trans (writeEntry_side _ _ _)

/-- With DMA off no entry is written (R680). -/
theorem writeDue_off (h : dmaOn s = false) : writeDue s = s := by
  unfold writeDue
  rw [h]
  rfl

end Sys2Proof.Machine
end

section
/-! SUPPORT. Writes to BAR0 and accesses to BAR2 as a whole. -/

namespace Sys2Proof.Machine

variable {s : State}

/-! ### Registers -/

/-- A write to a register without an action of its own changes it alone, as its codes let it (00 R7, R8). -/
theorem registerWrite_codes {src a v : Nat} {r : RegDesc} (hv : v < 2 ^ 32) (hp : s.boot.pwrgood = true) (hs : src < 23) (hlt : a < 2 ^ 26)
    (h4 : a % 4 = 0) (hd : ¬(0xA00000 ≤ a ∧ a < 0xA10000)) (hr : findReg regWindows a = some (r, a, false)) (hm : mayWrite s src a = true)
    (hh : haltedOff s src a = false) (hf : a ≠ regBootFwReady) (ht : trigger (rset s a (coded r (rget s a) v (2 ^ 32 - 1))) src a v = none) :
    exec (.registerWrite src a 4 v) s = .next (rset s a (coded r (rget s a) v (2 ^ 32 - 1))) := by
  rw [registerWrite_word hp hs hlt h4 hv hh hd, writeWord_low hr, writeReg_codes hv hm hf ht]

/-- The register then reads what its codes left. -/
theorem rget_codes (h : Canonical s) (r : RegDesc) (a v m : Nat) :
    rget (rset s a (coded r (rget s a) v m)) a = coded r (rget s a) v m := by
  rw [rget_rset_self h, Nat.mod_eq_of_lt (coded_lt (rget_lt s a))]

/-- A write HALTED keeps from the host changes nothing (16 R628). -/
theorem registerWrite_halted {src a v : Nat} (h : haltedOff s src a = true) : exec (.registerWrite src a 4 v) s = .next s := by
  rw [exec_registerWrite]
  unfold execRegisterWrite
  rw [regWrite_halted h, ite_self]

/-- A write of management or the keeper to a register of another plane changes nothing (01 R38, R39; 19 R722). -/
theorem registerWrite_plane {src a v : Nat} (hv : v < 2 ^ 32) (hs : src = 1 ∨ src = 2) (ha : a ≠ regRdyCmd) (hf : a = regFltAlertMask → src = 2) :
    exec (.registerWrite src a 4 v) s = .next s := by
  refine registerWrite_idle hv (writeWord_idle fun r own hi v m hr => writeReg_plane hs ?_ ?_) fun _ => by unfold srcCtrl; omega
  · exact fun e => ha ((findReg_narrow hr (.inl e)).trans e)
  · exact fun e => hf ((findReg_narrow hr (.inr e)).trans e)

/-- A write to MEM_CH_CTL by any but a control core changes nothing (12). -/
theorem registerWrite_chCtl {src c v : Nat} (hv : v < 2 ^ 32) (hc : c < 192) (hs : src < 3) :
    exec (.registerWrite src (regMemChCtl c) 4 v) s = .next s := by
  refine registerWrite_idle hv (writeWord_idle fun r own hi v m hr => writeReg_mem hs ?_) fun _ => hs
  have hown := findReg_own hr
  unfold regMemChCtl at hown
  omega

/-- The command and the unit that a value of RDY_CMD names (16 R638). -/
theorem bits_rdyCmd {k i : Nat} (hk : k < 16) (hi : i < 1024) : bits (k * 2 ^ 28 + i) 31 28 = k ∧ bits (k * 2 ^ 28 + i) 9 0 = i := by
  unfold bits
  omega

/-- Each readiness command that RDY_CMD spells (16 R635, R638). -/
theorem next_writeRdyCmd (h : Canonical s) {i : Nat} (hi : i < 1024) (src : Nat) :
    .next (writeRdyCmd s src (1 * 2 ^ 28 + i)) = exec (.grey src i) s ∧
      .next (writeRdyCmd s src (2 * 2 ^ 28 + i)) = exec (.releaseForce src i) s ∧
      .next (writeRdyCmd s src (3 * 2 ^ 28 + i)) = exec (.confirm src i) s := by
  unfold writeRdyCmd
  rw [(bits_rdyCmd (by decide) hi).1, (bits_rdyCmd (by decide) hi).1, (bits_rdyCmd (by decide) hi).1, (bits_rdyCmd (by decide) hi).2,
    (bits_rdyCmd (by decide) hi).2, (bits_rdyCmd (by decide) hi).2]
  exact ⟨next_after (kept_execGrey (kept_self h)) s, next_after (kept_execReleaseForce (kept_self h)) s,
    next_after (kept_execConfirm (kept_self h)) s⟩

/-- The restart that BOOT_RESTART asks for (16 R648). -/
theorem next_bootRestart (h : Canonical s) (v : Nat) : .next (after (execBootRestart v s) s) = exec (.bootRestart v) s := by
  obtain ⟨t, C, e, _⟩ := (kept_execBootRestart (value := v) (kept_self h)).out
  rw [exec_bootRestart, e]
  rfl

/-! ### BAR2 and configuration space -/

/-- A write within one page of the window to a page that isn't protected: no byte of a unit beyond it changes, and where its units read well exactly
its bytes do (12 R453; 18 R682). -/
theorem bar2Write_open (h : Canonical s) (hup : EndpointUp s) {off : Nat} {data : List Byte} (h0 : 0 < data.length)
    (hpage : (bar2Base s + off) % 4096 + data.length ≤ 4096) (hin : InWindow s off data.length)
    (hprot : protectedAt s (bar2Base s + off) data.length = false) :
    ∃ t, exec (.bar2Write off data) s = .next t ∧ t.harts = s.harts ∧ t.cores = s.cores ∧ t.hit = s.hit ∧
      (∀ b, b / 64 < (bar2Base s + off) / 64 ∨ (bar2Base s + off + data.length - 1) / 64 < b / 64 → byteAt t b = byteAt s b) ∧
      (unitBad s (bar2Base s + off) data.length = false →
        ∀ b, byteAt t b =
          if bar2Base s + off ≤ b ∧ b < bar2Base s + off + data.length then data.getD (b - (bar2Base s + off)) 0 else byteAt s b) := by
  have hside := memWrite_side s (bar2Base s + off) data
  unfold MemSide at hside
  refine ⟨memWrite s (bar2Base s + off) data, ?_, ?_, ?_, ?_, fun b hb => byteAt_memWrite_out h.mem hb, byteAt_memWrite_well h fun hs => ?_⟩
  · rw [bar2Write_page hup h0 hpage hin, hprot, if_neg Bool.false_ne_true]
  · rw [hside]
  · rw [hside]
  · rw [hside]
  · have := (space_hbm_iff _).1 hs
    omega

/-- A write to a protected page is dropped and reported (R682). -/
theorem bar2Write_protected (h : Canonical s) (hup : EndpointUp s) {off : Nat} {data : List Byte} (h0 : 0 < data.length)
    (hpage : (bar2Base s + off) % 4096 + data.length ≤ 4096) (hin : InWindow s off data.length)
    (hprot : protectedAt s (bar2Base s + off) data.length = true) :
    ∃ t, exec (.bar2Write off data) s = .next t ∧ t.mem = s.mem ∧ t.harts = s.harts ∧ bit (rget t regPciEvents) 2 = true := by
  have hbump : Canonical (bump1 s regPciBar2Drop) := (kept_bump1 (kept_self h)).canon
  refine ⟨_, bar2Write_page hup h0 hpage hin, ?_⟩
  rw [if_pos hprot]
  exact ⟨bump_mem s _ 1, bump_harts s _ 1, bit_event_self hbump (by decide)⟩

/-- D3hot is the host's to set, and nothing is written there (R680). -/
theorem configSpaceWrite_d3hot (hup : EndpointUp s) :
    exec (.configSpaceWrite 0 3) s = .next { s with pci := { s.pci with d3hot := true } } :=
  (if_neg hup.notDown).trans (congrArg Host.Outcome.next (writeDue_off (s := { s with pci := { s.pci with d3hot := true } }) rfl))

/-- With Bus Master Enable taken away nothing is written (R680). -/
theorem configSpaceWrite_bmeOff (hup : EndpointUp s) :
    exec (.configSpaceWrite 1 0) s = .next { s with pci := { s.pci with bme := false } } :=
  (if_neg hup.notDown).trans (congrArg Host.Outcome.next (writeDue_off (s := { s with pci := { s.pci with bme := false } }) (Bool.and_false _)))

/-- With Bus Master Enable given, entries that are due may go out; no byte of the device's memory and no hart changes (R680). -/
theorem configSpaceWrite_bmeOn (hup : EndpointUp s) :
    ∃ t, exec (.configSpaceWrite 1 1) s = .next t ∧ t.pci.bme = true ∧ t.mem = s.mem ∧ t.harts = s.harts := by
  have hside := writeDue_side (pciMap s fun p => { p with bme := true })
  refine ⟨writeDue (pciMap s fun p => { p with bme := true }), if_neg hup.notDown, hside.power.2, ?_, ?_⟩
  · rw [hside.only]
    rfl
  · rw [hside.only]
    rfl

/-- The size of the window is the host's to set (R680, R682). -/
theorem configSpaceWrite_size (hup : EndpointUp s) {v : Nat} (h : 30 ≤ v ∧ v ≤ 39) :
    exec (.configSpaceWrite 2 v) s = .next { s with pci := { s.pci with bar2Log2 := v } } :=
  (if_neg hup.notDown).trans (if_pos h)

/-- No other size is taken, and no other field (R680, R682). -/
theorem configSpaceWrite_other {f v : Nat} (h : v < 30 ∨ 39 < v ∨ 3 ≤ f) (h0 : f ≠ 0) (h1 : f ≠ 1) :
    exec (.configSpaceWrite f v) s = .next s := by
  rw [exec_configSpaceWrite]
  unfold execConfigSpaceWrite
  split
  · rfl
  · match f with
    | 0 => exact absurd rfl h0
    | 1 => exact absurd rfl h1
    | 2 => exact if_neg (by omega)
    | _ + 3 => rfl

/-- Settles O58: what each access code lets a write do, who writes which register, and what comes through BAR2 and configuration space. -/
theorem registersAndWindow : Obligations.RegistersAndWindow := by
  unfold Obligations.RegistersAndWindow
  refine ⟨fun s src a v i r h hv => ⟨registerWrite_dropped, registerWrite_halted, registerWrite_plane hv, ?undefined, ?codes,
    registerWrite_chCtl hv, ?rdyCmd, ?bootRestart⟩, fun s off len f v data h => ?window⟩
  case undefined => exact fun hr hd => registerWrite_idle hv (writeWord_none hr) fun hin => absurd hin hd
  case codes =>
    intro hp hs hlt h4 hd hr hm hh hf ht
    refine ⟨_, registerWrite_codes hv hp hs hlt h4 hd hr hm hh hf ht, rfl, rfl, fun b hb => rget_rset_ne _ hb, ?_, ?_, ?_⟩
    · intro hsat hi
      rw [rget_codes h, bit_coded hsat (by omega), bit_mask32, decide_eq_true hi, if_pos rfl]
    · intro hsat hi h64
      rw [rget_codes h, bit_coded hsat h64, bit_mask32, decide_eq_false (by omega), if_neg Bool.false_ne_true]
    · intro hsat
      rw [rget_codes h, coded_sat hsat hv]
  case rdyCmd =>
    intro hp hi
    rw [registerWrite_rdyCmd h hp (.inl rfl) (by omega), registerWrite_rdyCmd h hp (.inl rfl) (by omega),
      registerWrite_rdyCmd h hp (.inr rfl) (by omega)]
    exact ⟨(next_writeRdyCmd h hi 1).1, (next_writeRdyCmd h hi 1).2.1, (next_writeRdyCmd h hi 2).2.2⟩
  case bootRestart =>
    intro hp
    rw [registerWrite_bootRestart h hp (by decide), next_bootRestart h]
  case window =>
    intro a inside open_
    refine ⟨fun hup hout => bar2Read_outside hup hout, fun hup hin hg => bar2Read_well hup hin hg, ?bad, fun hn => endpoint_down hn off len f v data,
      ?write, ?d3hot, ?bmeOff, ?bmeOn, fun hup h1 h2 => configSpaceWrite_size hup ⟨h1, h2⟩, configSpaceWrite_other⟩
    case bad => exact fun hup hin hb => ⟨_, bar2Read_bad hup hin hb, rfl, rfl, (badRead_side s a len).mem_eq⟩
    case write =>
      intro hup h0 hpage hoff hreach
      exact ⟨fun hn => bar2Write_open h hup h0 hpage ⟨hoff, hreach⟩ hn, fun hp => bar2Write_protected h hup h0 hpage ⟨hoff, hreach⟩ hp⟩
    case d3hot =>
      rintro hup rfl
      exact configSpaceWrite_d3hot hup
    case bmeOff =>
      rintro hup rfl
      exact configSpaceWrite_bmeOff hup
    case bmeOn =>
      rintro hup rfl
      exact configSpaceWrite_bmeOn hup

end Sys2Proof.Machine
end

section
/-! SUPPORT. What reports, changes of state and recoveries leave of the readiness map (15 R571, R572, R599-R603; 16 R634). -/

namespace Sys2Proof.Machine

variable {s t u : State}

/-! ### Reports -/

/-- Filing a report is a run of the aggregator's own operations: what each of them keeps, the report keeps (15 R599-R603). -/
theorem file_keeps {P : State → Prop} (r : FaultRec) (hs : P s) (hflt : ∀ {x f}, P x → P { x with flt := f })
    (hcount : ∀ {x}, P x → P (bump1 x regFltReports)) (hovf : ∀ {x}, P x → P (bump1 x regFltOverflow))
    (hunit : ∀ {x i}, P x → P (unrecover x i)) (hview : ∀ {x v}, P x → P (unrecoverView x v))
    (hadd : ∀ {x q}, P x → P (addRecord x q).2) (hwit : ∀ {x n}, P x → P (witness x n)) : P (file s r).2 := by
  have hjoin : ∀ {x : State} {c : Nat} {q : FaultRec} {b : Bool}, P x → P (joinOverflow x c q b).2 := by
    intro x c q b hx
    unfold joinOverflow
    extract_lets x1
    have h1 : P x1 := by
      show P (if b then _ else _)
      split
      · exact hovf hx
      · exact hx
    split
    · exact hwit h1
    · exact hflt (hadd h1)
  unfold file
  split
  · exact hflt hs
  · extract_lets s1 s2
    have h2 : P s2 := by
      show P (match codeRdy _ _ with | some _ => _ | none => _)
      split
      · exact hunit (hcount hs)
      · exact hview (hcount hs)
    clear_value s2
    split
    · exact hjoin h2
    · split
      · exact hwit h2
      · split
        · exact hjoin h2
        · exact hflt (hadd h2)

/-- A new record leaves the readiness map alone (15 R595, R602). -/
theorem addRecord_rdy (r : FaultRec) : (addRecord s r).2.rdy = s.rdy := by
  have hclass : ∀ (x : State) c, (classSeen x c).rdy = x.rdy := fun x c => by
    unfold classSeen signal
    split
    · rfl
    · dsimp only
      split
      · split <;> rfl
      · rfl
  unfold addRecord
  dsimp only
  split
  · split <;> exact hclass _ _
  · exact hclass _ _

/-- A witness counted leaves the readiness map alone (15 R600). -/
theorem witness_rdy (n : Nat) : (witness s n).rdy = s.rdy := by
  unfold witness
  split
  · split <;> rfl
  · rfl

/-- Every report leaves MEM_CFG, and with it the place of every address (12 R448). -/
theorem rget_memCfg_reportFull (kind cls action subject reporter : Nat) (ack : Bool) (detail : Nat) :
    rget (reportFull s kind cls action subject reporter ack detail).2 regMemCfg = rget s regMemCfg := by
  have hout : OutsideFlt regMemCfg := .inr (by decide)
  have hcsr : ∀ {x y : State}, y.csr = x.csr → rget y regMemCfg = rget x regMemCfg := fun e => by unfold rget; rw [e]
  exact file_keeps (P := fun x => rget x regMemCfg = rget s regMemCfg) _ rfl (fun h => h)
    (fun h => (rget_bump_ne 1 (by decide) (by decide)).trans h) (fun h => (rget_bump_ne 1 (by decide) (by decide)).trans h)
    (fun h => (hcsr (unrecover_csr _)).trans h) (fun h => (hcsr (by rw [unrecoverView_only])).trans h)
    (fun h => (rget_addRecord _ hout).trans h) (fun h => (hcsr (witness_csr _)).trans h)

/-! ### Units that stand as they did -/

/-- The state of an entry that has been put. -/
theorem rdyState_rdyPut_self (h : Canonical s) (i : Nat) (e : RdyEntry) : rdyState (rdyPut s i e) i = e.state :=
  congrArg RdyEntry.state (rdyGet_rdyPut_self h i e)

/-- Whether an entry that has been put is forced. -/
theorem forced_rdyPut_self (h : Canonical s) (i : Nat) (e : RdyEntry) : (rdyGet (rdyPut s i e) i).forced = e.forced :=
  congrArg RdyEntry.forced (rdyGet_rdyPut_self h i e)

/-- Every unit has the state it had and is forced where it was; what else its entry holds may have changed. -/
structure SameUnits (s t : State) : Prop where
  canon : Canonical t
  state : ∀ i, rdyState t i = rdyState s i
  forced : ∀ i, (rdyGet t i).forced = (rdyGet s i).forced

namespace SameUnits

theorem refl (h : Canonical s) : SameUnits s s := ⟨h, fun _ => rfl, fun _ => rfl⟩

theorem trans (h : SameUnits s t) (k : SameUnits t u) : SameUnits s u :=
  ⟨k.canon, fun i => (k.state i).trans (h.state i), fun i => (k.forced i).trans (h.forced i)⟩

/-- What leaves the readiness map alone leaves every unit as it stood. -/
theorem of_rdy (h : SameUnits s t) (hc : Canonical u) (e : u.rdy = t.rdy) : SameUnits s u :=
  h.trans ⟨hc, fun i => by unfold rdyState rdyGet; rw [e], fun i => by unfold rdyGet; rw [e]⟩

/-- An entry put with the state and the force it had. -/
theorem rdyPut (h : SameUnits s t) {i : Nat} {e : RdyEntry} (hs : e.state = rdyState t i) (hf : e.forced = (rdyGet t i).forced) :
    SameUnits s (rdyPut t i e) := by
  refine h.trans ⟨(kept_rdyPut (kept_self h.canon)).canon, fun j => ?_, fun j => ?_⟩
  · by_cases hj : j = i
    · subst hj
      exact (rdyState_rdyPut_self h.canon _ _).trans hs
    · unfold rdyState
      rw [rdyGet_rdyPut_ne _ hj]
  · by_cases hj : j = i
    · subst hj
      exact (forced_rdyPut_self h.canon _ _).trans hf
    · rw [rdyGet_rdyPut_ne _ hj]

/-- RECOVERED cleared (15 R572). -/
theorem unrecover (h : SameUnits s t) (i : Nat) : SameUnits s (unrecover t i) := by
  unfold Machine.unrecover
  refine List.foldlRecOn _ _ (motive := SameUnits s) h fun x hx j _ => ?_
  dsimp only
  split
  · exact hx.rdyPut rfl rfl
  · exact hx

/-- A report (15 R599-R603). -/
theorem reportFull (h : SameUnits s t) (kind cls action subject reporter : Nat) (ack : Bool) (detail : Nat) :
    SameUnits s (reportFull t kind cls action subject reporter ack detail).2 :=
  file_keeps (P := SameUnits s) _ h (fun h => h.of_rdy { h.canon with } rfl)
    (fun h => h.of_rdy (kept_bump1 (kept_self h.canon)).canon (bump_rdy _ _ _))
    (fun h => h.of_rdy (kept_bump1 (kept_self h.canon)).canon (bump_rdy _ _ _))
    (fun h => h.unrecover _) (fun h => h.of_rdy (kept_unrecoverView (kept_self h.canon)).canon (by rw [unrecoverView_only]))
    (fun h => h.of_rdy (kept_addRecord (kept_self h.canon)).out.canon (addRecord_rdy _))
    (fun h => h.of_rdy (kept_witness (kept_self h.canon)).canon (witness_rdy _))

/-- A report whose reporter is its subject. -/
theorem report (h : SameUnits s t) (kind action subject detail : Nat) : SameUnits s (report t kind action subject detail) :=
  h.reportFull _ _ _ _ _ _ _

/-- A recovery that completes (15 R571). -/
theorem setRecovered (h : SameUnits s t) (i : Nat) : SameUnits s (setRecovered t i) := by
  unfold Machine.setRecovered
  dsimp only
  split
  · exact h.rdyPut rfl rfl
  · exact h

/-- The dies whose restart has been awaited long enough (15 R588). -/
theorem diesRecover (h : SameUnits s t) : SameUnits s (diesRecover t) := by
  unfold Machine.diesRecover
  refine List.foldlRecOn _ _ (motive := SameUnits s) h fun x hx d _ => ?_
  dsimp only
  split
  · exact hx.setRecovered _
  · exact hx

end SameUnits

/-- Recoveries touch the readiness map alone, which is a report's side (15 R588). -/
theorem diesRecover_side (s : State) : ReportSide s (diesRecover s) := by
  unfold diesRecover
  refine foldl_side (fun x d => ?_) _ _
  unfold setRecovered
  dsimp only
  split
  · split <;> rfl
  · rfl

/-! ### Changes of state -/

/-- A unit given a state has it, and its entry is forced where it was (16 R634). -/
theorem setUnit_entry (h : Canonical s) (i : Nat) (st : UnitState) (reason : Nat) :
    rdyState (setUnit s i st reason) i = st ∧ (rdyGet (setUnit s i st reason) i).forced = (rdyGet s i).forced := by
  have hput : ∀ {x : State} {e : RdyEntry}, x.rdy = (rdyPut s i e).rdy → e.state = st → e.forced = (rdyGet s i).forced →
      rdyState x i = st ∧ (rdyGet x i).forced = (rdyGet s i).forced := by
    intro x e hx hst hf
    have hget : rdyGet x i = e := by
      unfold rdyGet
      rw [hx]
      exact rdyGet_rdyPut_self h i e
    unfold rdyState
    rw [hget]
    exact ⟨hst, hf⟩
  have hevent : ∀ (x : State) b, (rdyEvent x b).rdy = x.rdy := fun x b => by unfold rdyEvent signal; split <;> rfl
  unfold setUnit
  extract_lets e keep s1 s2
  split
  · exact hput rfl ‹_› rfl
  · have h2 : s2.rdy = s1.rdy := by
      show (if _ then _ else _ : State).rdy = _
      split
      · exact hevent _ _
      · rfl
    split
    · exact hput ((hevent _ _).trans h2) rfl rfl
    · exact hput h2 rfl rfl

/-- The code of a readiness entry names no table and no layer (15 R597). -/
theorem rdyCode_notView (s : State) (i : Nat) : ¬viewSubject (rdyCode s i) := by
  unfold rdyCode
  split_ifs <;> exact unitCode_notView _ _ _ (by decide)

end Sys2Proof.Machine
end

section
/-! SUPPORT. Entering GREY with no task and no barrier about, and the commands of RDY_CMD (01 R39-R42; 15 R569-R572; 16 R635). -/

namespace Sys2Proof.Machine

variable {s t : State}

/-! ### Entering GREY -/

/-- With no task no attempt ends (10 R407). -/
theorem endGrey_quiet (h : s.sch.tasks = []) (p : Task → Bool) (cause : Nat) : endGrey s p cause = s := by
  unfold endGrey
  simp [h]

/-- With no barrier none breaks (11 R438). -/
theorem breakWhere_quiet (h : s.hit.barriers = []) (p : Barrier → Bool) (unit : Nat) : breakWhere s p unit = s := by
  unfold breakWhere
  simp [h]

/-- Nothing but records has come of it: units stand as they did, no byte of memory has changed, and there is still no task and no barrier. -/
structure QuietSince (s t : State) : Prop where
  units : SameUnits s t
  mem : t.mem = s.mem
  quiet : Quiet t

namespace QuietSince

theorem refl (h : Canonical s) (hq : Quiet s) : QuietSince s s := ⟨.refl h, rfl, hq⟩

/-- A report about a unit. -/
theorem report (h : QuietSince s t) (kind action : Nat) {subject : Nat} (detail : Nat) (hv : ¬viewSubject subject) :
    QuietSince s (report t kind action subject detail) := by
  have hside := report_side t kind action subject detail hv
  refine ⟨h.units.report _ _ _ _, ?_, ?_⟩
  · rw [hside]
    exact h.mem
  · rw [hside]
    exact h.quiet

/-- The tasks that wait behind a gate and the descriptors that are held may go. -/
theorem sched (h : QuietSince s t) {x : SchUnit} (hx : x.tasks = []) : QuietSince s { t with sch := x } :=
  ⟨h.units.of_rdy { h.units.canon with } rfl, h.mem, hx, h.quiet.2⟩

/-- The items of the next plan that name a unit are skipped (01 R40; 02 R66). -/
theorem skipNamed (h : QuietSince s t) (i : Nat) : QuietSince s (skipNamed t i) := by
  unfold Machine.skipNamed
  split
  · exact h
  · refine List.foldlRecOn _ _ (motive := QuietSince s) h fun x hx k _ => ?_
    split
    · exact hx
    · dsimp only
      split
      · exact hx
      · split
        · exact hx
        · exact (hx.sched (by simp [hx.quiet.1])).report _ _ _ (unitCode_notView _ _ _ (by decide))

/-- What follows a unit's entry into GREY (15 R569, R586). -/
theorem greyEffects (h : QuietSince s t) (i : Nat) : QuietSince s (greyEffects t i) := by
  have hk := h.skipNamed i
  unfold Machine.greyEffects
  simp only [endGrey_quiet hk.quiet.1, breakWhere_quiet hk.quiet.2]
  split_ifs
  · exact hk
  · exact hk.sched hk.quiet.1
  · exact hk.sched hk.quiet.1
  · exact hk
  · exact hk
  · exact hk.report _ _ _ (rdyCode_notView _ _)
  · exact hk
  · exact hk

end QuietSince

/-- A unit that is not FENCED enters GREY, and is forced where it was (15 R569, R570). -/
theorem toGrey_quiet (h : Canonical s) (hq : Quiet s) {i : Nat} (kind : Nat) (hf : rdyState s i ≠ .fenced) :
    rdyState (toGrey s i kind false) i = .grey ∧ (rdyGet (toGrey s i kind false) i).forced = (rdyGet s i).forced ∧
      (toGrey s i kind false).mem = s.mem := by
  have hside := setUnit_side s i .grey kind
  obtain ⟨hstate, hforced⟩ := setUnit_entry h i .grey kind
  have hset : QuietSince (setUnit s i .grey kind) (greyEffects (setUnit s i .grey kind) i) :=
    (QuietSince.refl (kept_setUnit (kept_self h)).canon (by rw [hside]; exact hq)).greyEffects i
  unfold toGrey
  dsimp only
  rw [if_neg (by simpa using hf), if_neg Bool.false_ne_true]
  split
  · exact ⟨eq_of_beq ‹_›, rfl, rfl⟩
  · refine ⟨(hset.units.state i).trans hstate, (hset.units.forced i).trans hforced, hset.mem.trans ?_⟩
    rw [hside]

/-! ### GREY -/

/-- A command in a row that holds without power does nothing (16 R615). -/
theorem powered_off (h : s.boot.pwrgood = false) (o : Out) : powered s o = .next s := if_neg (by simp [h])

/-- With power a command has its effect (16 R615). -/
theorem powered_on (h : s.boot.pwrgood = true) (o : Out) : powered s o = o := if_pos h

/-- GREY is REFUSED to any but management, while it restarts, and for a unit that can't be forced (01 R39, R42; 16 R635). -/
theorem grey_refused (hp : s.boot.pwrgood = true) {source unit : Nat}
    (h : source ≠ 1 ∨ s.keep.restarting = true ∨ forcible unit = false ∨ (rdyGet s unit).state = .absent) :
    exec (.grey source unit) s = .next (rdyResult s source false) := by
  rw [exec_grey]
  unfold execGrey
  rw [powered_on hp]
  exact if_pos (by simpa [rdyState] using h)

/-- Management forces a unit into GREY (01 R39; 15 R570; 16 R635). -/
theorem grey_done (h : Canonical s) (hp : s.boot.pwrgood = true) (hq : Quiet s) (hr : s.keep.restarting = false) {unit : Nat}
    (hu : forcible unit = true) (ha : (rdyGet s unit).state ≠ .absent) (hf : (rdyGet s unit).state ≠ .fenced) :
    ∃ t, exec (.grey 1 unit) s = .next t ∧ rdyState t unit = .grey ∧ (rdyGet t unit).forced = true ∧ pfind t.boot.rdyRes 1 = some 1 ∧
      t.mem = s.mem := by
  rw [exec_grey]
  unfold execGrey
  rw [powered_on hp, if_neg (by simpa [rdyState, hr, hu] using ha)]
  extract_lets s1 e s2
  have h1 : QuietSince s s1 := (QuietSince.refl h hq).report _ _ _ (rdyCode_notView _ _)
  clear_value s1
  have hc : Canonical s2 := (kept_rdyPut (kept_self h1.units.canon)).canon
  have hstate : rdyState s2 unit = rdyState s1 unit := rdyState_rdyPut_self h1.units.canon _ _
  have hforce : (rdyGet s2 unit).forced = true := forced_rdyPut_self h1.units.canon _ _
  have hmem : s2.mem = s.mem := h1.mem
  have hquiet : Quiet s2 := h1.quiet
  clear_value s2
  obtain ⟨hgrey, hforced, hmem2⟩ := toGrey_quiet hc hquiet 0x91 (by rw [hstate, h1.units.state]; exact hf)
  exact ⟨_, rfl, hgrey, hforced.trans hforce, pfind_pput_self _ _ _, hmem2.trans hmem⟩

/-! ### RELEASE_FORCE -/

/-- RELEASE_FORCE is REFUSED to any but management, while it restarts, and for a unit that isn't forced (01 R42; 16 R635). -/
theorem releaseForce_refused (hp : s.boot.pwrgood = true) {source unit : Nat}
    (h : source ≠ 1 ∨ s.keep.restarting = true ∨ idxValid unit = false ∨ (rdyGet s unit).forced = false) :
    exec (.releaseForce source unit) s = .next (rdyResult s source false) := by
  rw [exec_releaseForce]
  unfold execReleaseForce
  rw [powered_on hp]
  exact if_pos (by simpa using h)

/-- An unlock that ends changes the keeper alone (17 R673). -/
theorem relock_only (s : State) : relock s = { s with keep := (relock s).keep } := by
  unfold relock
  split <;> rfl

/-- The recovery that begins as a force is withdrawn changes no unit's state, no force and no byte of memory (15 R570). -/
theorem beginRecovery_same (h : Canonical s) (i : Nat) : SameUnits s (beginRecovery s i) ∧ (beginRecovery s i).mem = s.mem := by
  have h0 : SameUnits s s := .refl h
  unfold beginRecovery
  dsimp only
  split_ifs
  · exact ⟨h0, rfl⟩
  · exact ⟨h0.of_rdy (kept_verifyPass (kept_self h)).canon rfl, rfl⟩
  · exact ⟨h0, rfl⟩
  · exact ⟨h0.rdyPut rfl rfl, rfl⟩

/-- Management withdraws its force: the unit keeps its state until its exit is confirmed (15 R570; 16 R635). -/
theorem releaseForce_done (h : Canonical s) (hp : s.boot.pwrgood = true) (hr : s.keep.restarting = false) {unit : Nat}
    (hu : idxValid unit = true) (hf : (rdyGet s unit).forced = true) :
    ∃ t, exec (.releaseForce 1 unit) s = .next t ∧ (rdyGet t unit).forced = false ∧ rdyState t unit = rdyState s unit ∧
      pfind t.boot.rdyRes 1 = some 1 ∧ t.mem = s.mem := by
  rw [exec_releaseForce]
  unfold execReleaseForce
  rw [powered_on hp, if_neg (by simp [hr, hu, hf])]
  extract_lets s1 s2 e s3
  have h1 : SameUnits s s1 ∧ s1.mem = s.mem :=
    ⟨(SameUnits.refl h).report _ _ _ _, by unfold s1; rw [report_side s 0x91 0 _ 0 (rdyCode_notView _ _)]⟩
  clear_value s1
  have h2 : SameUnits s s2 ∧ s2.mem = s.mem := by
    show SameUnits s (if _ then _ else _) ∧ (if _ then _ else _ : State).mem = _
    split
    · exact ⟨h1.1.of_rdy (kept_relock (kept_self h1.1.canon)).canon (by rw [relock_only]), by rw [relock_only]; exact h1.2⟩
    · exact h1
  clear_value s2
  have hc : Canonical s3 := (kept_rdyPut (kept_self h2.1.canon)).canon
  have hstate : rdyState s3 unit = rdyState s unit := (rdyState_rdyPut_self h2.1.canon _ _).trans (h2.1.state unit)
  have hforce : (rdyGet s3 unit).forced = false := forced_rdyPut_self h2.1.canon _ _
  have hmem : s3.mem = s.mem := h2.2
  clear_value s3
  obtain ⟨hsame, hmem3⟩ := beginRecovery_same hc unit
  exact ⟨_, rfl, (hsame.forced unit).trans hforce, (hsame.state unit).trans hstate, pfind_pput_self _ _ _, hmem3.trans hmem⟩

/-! ### CONFIRM and the end of a recovery -/

/-- CONFIRM is REFUSED to any but the keeper, while management restarts, before a whole tick has passed since the recovery, and of firmware that isn't the
one verified (01 R41; 15 R572; 16 R635). -/
theorem confirm_refused (hp : s.boot.pwrgood = true) {source unit : Nat}
    (h : source ≠ 2 ∨ idxValid unit = false ∨ s.keep.restarting = true ∨ (rdyGet s unit).recovered = false ∨ (rdyGet s unit).forced = true ∨
      (rdyGet s unit).state ≠ .grey ∨ s.now < (rdyGet s unit).recAt + period s ∨ measuredFirmware s unit = false) :
    exec (.confirm source unit) s = .next (rdyResult s source false) := by
  rw [exec_confirm]
  unfold execConfirm
  rw [powered_on hp]
  refine if_pos ?_
  rcases h with h | h | h | h | h | h | h | h <;> simp [h]

/-- The keeper confirms the exit of a unit that has been RECOVERED for a whole tick (15 R572; 16 R635). -/
theorem confirm_done (hp : s.boot.pwrgood = true) {unit : Nat} (hu : idxValid unit = true) (hr : s.keep.restarting = false)
    (hrma : ¬(unit = 0 ∧ s.keep.lifecycle = 3)) (hrec : (rdyGet s unit).recovered = true) (hf : (rdyGet s unit).forced = false)
    (hg : (rdyGet s unit).state = .grey) (ht : (rdyGet s unit).recAt + period s ≤ s.now) (hm : measuredFirmware s unit = true) :
    exec (.confirm 2 unit) s = .next (rdyResult (rdyPut s unit { rdyGet s unit with confirmed := true }) 2 true) := by
  rw [exec_confirm]
  unfold execConfirm
  rw [powered_on hp]
  refine if_neg ?_
  simp [hu, hr, hrma, hrec, hf, hg, ht, hm]

/-- The recovery of a core or a port completes (15 R570, R571). -/
theorem unitRecoveryDone_recovers {unit : Nat} (hu : idxValid unit = true) (hlo : 0x1C0 ≤ unit) (hg : (rdyGet s unit).state = .grey)
    (hr : (rdyGet s unit).recovered = false) (hf : (rdyGet s unit).forced = false) :
    exec (.unitRecoveryDone unit) s =
      .next (rdyPut s unit { rdyGet s unit with recovered := true, recAt := s.now, released := false, ownFault := false }) := by
  rw [exec_unitRecoveryDone]
  unfold execUnitRecoveryDone setRecovered
  simp [hu, Nat.not_lt.2 hlo, hg, hr, hf]

/-- A unit with a recovery of its own, one that isn't GREY and a forced one have none to complete (15 R570). -/
theorem unitRecoveryDone_idle {unit : Nat} (h : unit < 0x1C0 ∨ (rdyGet s unit).state ≠ .grey ∨ (rdyGet s unit).forced = true) :
    exec (.unitRecoveryDone unit) s = .next s := by
  rw [exec_unitRecoveryDone]
  unfold execUnitRecoveryDone setRecovered
  split
  · rfl
  · rename_i hn
    have hlo : ¬unit < 0x1C0 := fun e => hn (.inr e)
    refine congrArg Host.Outcome.next (if_neg ?_)
    rcases h with h | h | h
    · exact absurd h hlo
    · simp [h]
    · simp [h]

end Sys2Proof.Machine
end

section
/-! SUPPORT. Bring-up of a channel: its reports, and the bytes it leaves as it becomes READY (12 R465-R467, R475; 16 R630, R632). -/

namespace Sys2Proof.Machine

variable {s t : State}

/-! ### A channel written to 0 -/

/-- Dropping keys from a sparse map: a key that stays reads as before, one that is dropped reads its default. -/
theorem mget_filter_key {α : Type} (d : Nat → α) (p : Nat → Bool) (m : List (Nat × α)) (k : Nat) :
    mget d (m.filter fun e => p e.1) k = if p k then mget d m k else d k := by
  induction m with
  | nil => simp [mget]
  | cons e r ih =>
    obtain ⟨j, v⟩ := e
    rw [List.filter_cons]
    by_cases hk : k = j
    · subst hk
      by_cases hp : p k = true
      · simp [hp, mget]
      · simp [hp, ih]
    · by_cases hp : p j = true
      · simp only [hp, if_true, mget, if_neg hk, ih]
      · simp only [hp, Bool.false_eq_true, if_false, mget, if_neg hk, ih]

/-- Whether an address lies in a channel (12 R448). -/
def inChannel (s : State) (c a : Nat) : Bool := space a == .hbm && (chanOf s a).1 == c

/-- It lies in the HBM, at that channel. -/
theorem inChannel_iff {c a : Nat} : inChannel s c a = true ↔ space a = .hbm ∧ (chanOf s a).1 = c := by simp [inChannel]

/-- A channel written to 0 keeps the bytes of memory that lie elsewhere. -/
theorem zeroChan_mem (s : State) (c : Nat) : (zeroChan s c).mem = s.mem.filter fun b => !inChannel s c b.1 := by
  unfold zeroChan
  dsimp only
  rw [raiseGens_only]
  rfl

/-- Of a channel written to 0 every byte reads 0, and every other byte as before (12 R474, R475). -/
theorem byteAt_zeroChan (s : State) (c a : Nat) :
    byteAt (zeroChan s c) a = if space a = .hbm ∧ (chanOf s a).1 = c then 0 else byteAt s a := by
  unfold byteAt
  rw [zeroChan_mem, mget_filter_key _ fun b => !inChannel s c b]
  by_cases hm : inChannel s c a = true
  · rw [if_pos (inChannel_iff.1 hm), hm]
    rfl
  · rw [if_neg (mt inChannel_iff.2 hm), eq_false_of_ne_true hm]
    rfl

/-! ### What a DESTRUCTIVE test found -/

/-- A channel's event leaves MEM_CFG (12 R448). -/
theorem rget_memCfg_event {c : Nat} (hc : c < 192) (b : Nat) : rget (event s (regMemChEvents c) b) regMemCfg = rget s regMemCfg :=
  rget_rset_ne _ (memCh_apart hc 0x50 (by decide)).1

/-- A group fenced leaves MEM_CFG (12 R467). -/
theorem rget_memCfg_fenceGroup {c : Nat} (hc : c < 192) (g : Nat) : rget (fenceGroup s c g) regMemCfg = rget s regMemCfg := by
  unfold fenceGroup
  dsimp only
  split
  · rfl
  · exact (rget_memCfg_reportFull _ _ _ _ _ _ _).trans (rget_memCfg_event hc 3)

/-- A row's failure leaves MEM_CFG (12 R466, R467). -/
theorem rget_memCfg_rowFailed {c : Nat} (hc : c < 192) (r : Nat) : rget (rowFailed s c r) regMemCfg = rget s regMemCfg := by
  unfold rowFailed
  extract_lets ch uses free g s1
  split
  · exact rget_memCfg_fenceGroup hc _
  · split
    · exact (rget_memCfg_reportFull _ _ _ _ _ _ _).trans (rget_memCfg_event hc 2)
    · exact rget_memCfg_fenceGroup hc _

/-- The findings of a DESTRUCTIVE test are a controller's side, and leave MEM_CFG (12 R466, R475). -/
theorem testFindings_destructive {c : Nat} (hc : c < 192) (r : TestReport) :
    ChanSide s (testFindings s c 2 r) ∧ rget (testFindings s c 2 r) regMemCfg = rget s regMemCfg := by
  unfold testFindings
  refine List.foldlRecOn _ _ (motive := fun x => ChanSide s x ∧ rget x regMemCfg = rget s regMemCfg) ⟨.refl s, rfl⟩ fun x hx o _ => ?_
  exact ⟨hx.1.trans (rowFailed_side _ _ _), (rget_memCfg_rowFailed hc _).trans hx.2⟩

/-- The place of an address rests on MEM_CFG alone (12 R448). -/
theorem chanOf_congr (h : rget t regMemCfg = rget s regMemCfg) (a : Nat) : chanOf t a = chanOf s a := by
  unfold chanOf interleaved localBytes fget
  rw [h]

/-- A channel that has run DESTRUCTIVE and has written every unit to 0 (16 R632). -/
def cleared (s : State) (c : Nat) (units : List Nat) : State :=
  zeroChan (testOver (testFindings s c 2 ⟨units, []⟩) c units.length) c

/-- It is canonical. -/
theorem cleared_canonical (h : Canonical s) (c : Nat) (units : List Nat) : Canonical (cleared s c units) :=
  (kept_zeroChan (kept_testOver (kept_testFindings (kept_self h)))).canon

/-- Its bytes are 0, whatever its test found, and every other byte is as it was. -/
theorem byteAt_cleared {c : Nat} (hc : c < 192) (units : List Nat) (a : Nat) :
    byteAt (cleared s c units) a = if space a = .hbm ∧ (chanOf s a).1 = c then 0 else byteAt s a := by
  obtain ⟨hside, hcfg⟩ := testFindings_destructive (s := s) hc ⟨units, []⟩
  have hplace : chanOf (testOver (testFindings s c 2 ⟨units, []⟩) c units.length) a = chanOf s a := chanOf_congr hcfg a
  have hbyte : byteAt (testOver (testFindings s c 2 ⟨units, []⟩) c units.length) a = byteAt s a :=
    byteAt_congr (t := testOver (testFindings s c 2 ⟨units, []⟩) c units.length) hside.mem_eq a
  unfold cleared
  rw [byteAt_zeroChan, hplace, hbyte]

/-! ### UNIT_BRINGUP_REPORT -/

/-- A channel that has trained, with its failing lanes repaired (12 R465). -/
def laneRepaired (s : State) (c failing : Nat) : State := chanPut s c { chanGet s c with lanes := (laneRepair failing).1 }

/-- LANES shows the repair (12 R478). -/
theorem lanes_laneRepaired (h : Canonical s) (c failing : Nat) (e : t.chans = (laneRepaired s c failing).chans) :
    (chanGet t c).lanes = (laneRepair failing).1 := by
  have hget : chanGet t c = chanGet (laneRepaired s c failing) c := by
    unfold chanGet
    rw [e]
  rw [hget]
  exact congrArg Chan.lanes (chanGet_chanPut_self h c _)

/-- A channel's entry that still takes reports: power is good, the boot chain brings units up, and the entry has not settled (16 R629, R630). -/
structure BringingUp (s : State) (unit : Nat) : Prop where
  lo : 0x100 ≤ unit
  hi : unit < 0x1C0
  power : s.boot.pwrgood = true
  boot : 4 ≤ stage s
  notHalted : stage s ≠ 15
  notGrey : (rdyGet s unit).state ≠ .grey
  notFenced : (rdyGet s unit).state ≠ .fenced
  notReady : (rdyGet s unit).state ≠ .ready

/-- What each report of a channel in bring-up does (12 R465, R475; 16 R630, R632). -/
theorem exec_bringup_channel {unit : Nat} (h : BringingUp s unit) (failing : Nat) (units : List Nat) :
    exec (.unitBringupReport unit ⟨1, failing, units⟩) s = .next (setUnit s unit .training 0) ∧
    exec (.unitBringupReport unit ⟨2, failing, units⟩) s = .next
      (if (laneRepair failing).2 = true then diesRecover (setUnit (laneRepaired s (unit - 0x100) failing) unit .fenced 0)
       else setUnit (laneRepaired s (unit - 0x100) failing) unit .testing 0) ∧
    exec (.unitBringupReport unit ⟨3, failing, units⟩) s = .next (diesRecover (setUnit (cleared s (unit - 0x100) units) unit .ready 0)) ∧
    exec (.unitBringupReport unit ⟨4, failing, units⟩) s = .next (diesRecover (setUnit s unit .fenced 0)) := by
  obtain ⟨hlo, hhi, hp, h4, h15, hg, hf, hr⟩ := h
  have hvalid : idxValid unit = true := by unfold idxValid; simp; omega
  have hchan : channelOf unit = some (unit - 0x100) := if_pos ⟨hlo, hhi⟩
  have hready : ∀ x, nowReady x unit = x := fun x => by
    unfold nowReady
    rw [if_neg (by omega), if_neg (by omega), if_neg (by omega), if_neg (by omega)]
  have hfence : ∀ x check, bringupFenced x unit check = setUnit x unit .fenced 0 := fun x check => by
    unfold bringupFenced
    rw [if_neg (by omega), if_neg (by omega)]
  have hpass : ∀ r, ¬((!s.boot.pwrgood) = true ∨ (!idxValid unit) = true ∨ unit = 0x48 ∨ unit = 0x49 ∨ unit = 0x3A ∨ stage s = 15 ∨
      (stage s < 4 ∧ ¬(unit = 0x39 ∧ 1 ≤ stage s)) ∨
      (rdyState s unit = .grey ∧ ¬(idxDie 0 ≤ unit ∧ unit ≤ idxDie 5 ∧ r = 4 ∧ (rdyGet s unit).released = true)) ∨
      rdyState s unit = .fenced ∨ rdyState s unit = .ready ∨
      ((0x1C0 ≤ unit ∧ unit ≤ 0x1CF) ∧ (r = 2 ∨ r = 3 ∨ rdyState s unit = .absent)) ∨
      (unit = 0x31 ∧ r = 3 ∧ fget s regBootFwReady 0 0 = 0)) := by
    intro r
    unfold rdyState
    simp only [hp, hvalid, hg, hf, hr, h15, false_and, false_or, Bool.not_true, Bool.false_eq_true]
    omega
  refine ⟨if_neg (hpass 1), ?_, ?_, ?_⟩
  · refine (if_neg (hpass 2)).trans ?_
    simp only [hchan, hfence]
    rfl
  · refine (if_neg (hpass 3)).trans ?_
    simp only [hchan, hready]
    rfl
  · refine (if_neg (hpass 4)).trans ?_
    simp only [hfence]

/-- A unit's change of state, and the dies that recover with it: the unit has its state, and memory and the channels' controllers are as they were. -/
theorem diesRecover_setUnit (h : Canonical s) (i : Nat) (st : UnitState) (reason : Nat) :
    rdyState (diesRecover (setUnit s i st reason)) i = st ∧ (diesRecover (setUnit s i st reason)).mem = s.mem ∧
      (diesRecover (setUnit s i st reason)).chans = s.chans := by
  have hsame : SameUnits (setUnit s i st reason) (diesRecover (setUnit s i st reason)) :=
    (SameUnits.refl (kept_setUnit (kept_self h)).canon).diesRecover
  refine ⟨(hsame.state i).trans (setUnit_entry h i st reason).1, ?_, ?_⟩
  · rw [diesRecover_side, setUnit_side]
  · rw [diesRecover_side, setUnit_side]

/-- A channel reports that it trains. -/
theorem bringup_training (h : Canonical s) {unit : Nat} (hb : BringingUp s unit) (failing : Nat) (units : List Nat) :
    ∃ t, exec (.unitBringupReport unit ⟨1, failing, units⟩) s = .next t ∧ rdyState t unit = .training ∧ t.mem = s.mem :=
  ⟨_, (exec_bringup_channel hb failing units).1, (setUnit_entry h _ _ _).1, by rw [setUnit_side]⟩

/-- A channel has trained: its lanes are repaired, and it is FENCED where a group is past repair (12 R465). -/
theorem bringup_trained (h : Canonical s) {unit : Nat} (hb : BringingUp s unit) (failing : Nat) (units : List Nat) :
    ∃ t, exec (.unitBringupReport unit ⟨2, failing, units⟩) s = .next t ∧
      rdyState t unit = (if (laneRepair failing).2 = true then .fenced else .testing) ∧
      (chanGet t (unit - 0x100)).lanes = (laneRepair failing).1 ∧ t.mem = s.mem := by
  refine ⟨_, (exec_bringup_channel hb failing units).2.1, ?_⟩
  have hx : Canonical (laneRepaired s (unit - 0x100) failing) := (kept_chanPut (kept_self h)).canon
  split
  · obtain ⟨hstate, hmem, hchans⟩ := diesRecover_setUnit hx unit .fenced 0
    exact ⟨hstate, lanes_laneRepaired h _ _ hchans, hmem⟩
  · exact ⟨(setUnit_entry hx _ _ _).1, lanes_laneRepaired h _ _ (by rw [setUnit_side]), by rw [setUnit_side]; rfl⟩

/-- A channel becomes READY with its bytes 0 (12 R475; 16 R632). -/
theorem bringup_ready (h : Canonical s) {unit : Nat} (hb : BringingUp s unit) (failing : Nat) (units : List Nat) :
    ∃ t, exec (.unitBringupReport unit ⟨3, failing, units⟩) s = .next t ∧ rdyState t unit = .ready ∧
      ∀ a, byteAt t a = if space a = .hbm ∧ (chanOf s a).1 = unit - 0x100 then 0 else byteAt s a := by
  obtain ⟨hstate, hmem, -⟩ := diesRecover_setUnit (cleared_canonical h (unit - 0x100) units) unit .ready 0
  have hc : unit - 0x100 < 192 := by
    have := hb.hi
    omega
  exact ⟨_, (exec_bringup_channel hb failing units).2.2.1, hstate, fun a => (byteAt_congr hmem a).trans (byteAt_cleared hc units a)⟩

/-- A channel that cannot pass is FENCED (16 R630). -/
theorem bringup_fenced (h : Canonical s) {unit : Nat} (hb : BringingUp s unit) (failing : Nat) (units : List Nat) :
    ∃ t, exec (.unitBringupReport unit ⟨4, failing, units⟩) s = .next t ∧ rdyState t unit = .fenced ∧ t.mem = s.mem := by
  obtain ⟨hstate, hmem, -⟩ := diesRecover_setUnit h unit .fenced 0
  exact ⟨_, (exec_bringup_channel hb failing units).2.2.2, hstate, hmem⟩

/-- A unit that has settled brings itself up no more, but for a GREY die whose restart fails (15 R589; 16 R629). -/
theorem bringup_settled {unit : Nat}
    (h : ((rdyGet s unit).state = .grey ∧ ¬(1 ≤ unit ∧ unit ≤ 6)) ∨ (rdyGet s unit).state = .fenced ∨ (rdyGet s unit).state = .ready)
    (r : UnitReport) : exec (.unitBringupReport unit r) s = .next s := by
  refine if_pos ?_
  unfold rdyState
  rcases h with ⟨hg, hn⟩ | hf | hr
  · have hdie : ¬(idxDie 0 ≤ unit ∧ unit ≤ idxDie 5 ∧ r.state = 4 ∧ (rdyGet s unit).released = true) := fun hd => hn ⟨hd.1, hd.2.1⟩
    simp only [hg, hdie, not_false_eq_true, true_and, true_or, or_true]
  · simp only [hf, true_or, or_true]
  · simp only [hr, true_or, or_true]

end Sys2Proof.Machine
end

section
/-! SUPPORT. The logical numbers of a die's cores, and the readiness commands as a whole (01 R29; 16 R631, R637). -/

namespace Sys2Proof.Machine

variable {s t : State}

/-! ### Numbers and cores -/

/-- What a partial map holds after one entry has been put. -/
theorem mem_pput {α : Type} {m : List (Nat × α)} {k : Nat} {v : α} {e : Nat × α} (h : e ∈ pput m k v) : e = (k, v) ∨ e ∈ m := by
  induction m with
  | nil => exact .inl (List.mem_singleton.1 h)
  | cons x r ih =>
    obtain ⟨j, w⟩ := x
    unfold pput at h
    split at h
    · exact List.mem_cons.1 h
    · split at h
      · exact (List.mem_cons.1 h).imp_right (List.mem_cons_of_mem _)
      · rcases List.mem_cons.1 h with h | h
        · exact .inr (h ▸ List.mem_cons_self)
        · exact (ih h).imp_right (List.mem_cons_of_mem _)

/-- A core holds no number where the map names it nowhere. -/
theorem logicalOf_eq_none {p : Nat} : logicalOf s p = none ↔ ∀ e ∈ s.boot.coreMap, e.2 ≠ p := by
  unfold logicalOf
  simp

/-- A number given to another core leaves a core without one as it was. -/
theorem logicalOf_holdNumber_ne {l p q : Nat} (hq : q ≠ p) (h : logicalOf s p = none) : logicalOf (holdNumber s l q) p = none := by
  rw [logicalOf_eq_none] at h ⊢
  intro e he
  rcases mem_pput he with rfl | he
  · exact hq
  · exact h e he

/-- The number a core has been given. -/
theorem physOf_holdNumber_self (l p : Nat) : physOf (holdNumber s l p) l = some p := pfind_pput_self _ _ _

/-- Another number given. -/
theorem physOf_holdNumber_ne {l m : Nat} (q : Nat) (h : l ≠ m) : physOf (holdNumber s m q) l = physOf s l := pfind_pput_ne _ h

/-- Numbers given in turn change the core map alone. -/
theorem holdNumbers_eq (l : List (Nat × Nat)) (s : State) :
    l.foldl (fun s e => holdNumber s e.1 e.2) s =
      { s with boot := { s.boot with coreMap := l.foldl (fun m x => pput m x.1 x.2) s.boot.coreMap } } := by
  induction l generalizing s with
  | nil => rfl
  | cons e r ih => exact ih (holdNumber s e.1 e.2)

/-! ### CORE_MAP_ASSIGN -/

/-- A die that assigns its numbers now: the boot chain is past stage 3, its cores have settled, and it has given none (16 R631). -/
structure Assigning (s : State) (die : Nat) : Prop where
  lt : die < 4
  boot : 4 ≤ stage s
  notHalted : stage s ≠ 15
  settled : ((List.range 68).all fun c => settled (rdyState s (idxCore (68 * die + c)))) = true
  unassigned : (s.boot.coreMap.any fun m => m.1 / 64 == die) = false

/-- The command is not held back. -/
theorem Assigning.notHeldBack (h : Assigning s die) :
    ¬(4 ≤ die ∨ stage s < 4 ∨ stage s = 15 ∨ (!(List.range 68).all fun c => Machine.settled (rdyState s (idxCore (68 * die + c)))) = true ∨
      (s.boot.coreMap.any fun e => e.1 / 64 == die) = true) := by
  obtain ⟨hlt, h4, h15, hs, hn⟩ := h
  rw [hs, hn]
  simp
  omega

/-- Without a core map record numbers go to the cores that are READY in ascending order (16 R631). -/
theorem coreMapAssign_ascending {die : Nat} (h : Assigning s die) (hr : recordedCores s = none) :
    exec (.coreMapAssign die) s = .next { s with boot := { s.boot with
      coreMap := ((List.range 64).map (64 * die + ·)).zip (freeCores s die) |>.foldl (fun m x => pput m x.1 x.2) s.boot.coreMap
      coreRecordDirty := true } } := by
  have hr' : ∀ m, recordedCores { s with boot := { s.boot with coreMap := m } } = none := fun _ => hr
  rw [exec_coreMapAssign]
  unfold execCoreMapAssign
  rw [if_neg h.notHeldBack]
  simp only [hr, holdNumbers_eq, bootMap, hr', Bool.or_true]

/-- The logical numbers of a die (01 R29). -/
def dieNumbers (die : Nat) : List Nat := (List.range 64).map (64 * die + ·)

/-- They are the 64 from 64 times the die on. -/
theorem mem_dieNumbers {die m : Nat} : m ∈ dieNumbers die ↔ m / 64 = die := by
  unfold dieNumbers
  simp only [List.mem_map, List.mem_range]
  exact ⟨fun ⟨k, hk, e⟩ => by omega, fun e => ⟨m % 64, by omega, by omega⟩⟩

/-- A recorded core takes its number where it lies in its die, is READY and holds none (16 R631). -/
def takeRecorded (r : List Nat) (die : Nat) (s : State) (l : Nat) : State :=
  if r.getD l 0xFFFF / 68 = die ∧ rdyState s (idxCore (r.getD l 0xFFFF)) = .ready ∧ (logicalOf s (r.getD l 0xFFFF)).isNone then
    holdNumber s l (r.getD l 0xFFFF) else s

/-- A number without a core takes the lowest that is free, or is recorded as held by none (16 R631). -/
def takeFree (die : Nat) (s : State) (l : Nat) : State :=
  if (physOf s l).isSome then s
  else match freeCores s die with
    | p :: _ => holdNumber s l p
    | [] => report s 0x13 6 (unitCode s 1 die) l

/-- With a core map record its cores take their numbers first, and the free ones those that are left (16 R631). -/
theorem coreMapAssign_recorded {die : Nat} {r : List Nat} (h : Assigning s die) (hr : recordedCores s = some r) :
    ∃ t, exec (.coreMapAssign die) s = .next t ∧
      ∀ l, physOf t l = physOf ((dieNumbers die).foldl (takeFree die) ((dieNumbers die).foldl (takeRecorded r die) s)) l := by
  rw [exec_coreMapAssign]
  unfold execCoreMapAssign dieNumbers
  rw [if_neg h.notHeldBack]
  generalize (List.range 64).map (64 * die + ·) = ls
  simp only [hr]
  exact ⟨_, rfl, fun _ => rfl⟩

/-- A number that has its recorded core keeps it as other recorded cores take theirs. -/
theorem physOf_takeRecorded {r : List Nat} {die l m : Nat} (h : physOf s l = some (r.getD l 0xFFFF)) :
    physOf (takeRecorded r die s m) l = some (r.getD l 0xFFFF) := by
  unfold takeRecorded
  split
  · by_cases e : l = m
    · subst e
      exact physOf_holdNumber_self _ _
    · rw [physOf_holdNumber_ne _ e, h]
  · exact h

/-- A number that has its core keeps it as the free cores are given numbers. -/
theorem physOf_takeFree {die l m p : Nat} (h : physOf s l = some p) : physOf (takeFree die s m) l = some p := by
  unfold takeFree
  split
  · exact h
  · rename_i hm
    have hne : l ≠ m := fun e => hm (by rw [← e, h]; rfl)
    split
    · rw [physOf_holdNumber_ne _ hne, h]
    · unfold physOf
      rw [report_side _ _ _ _ _ (unitCode_notView _ _ _ (by decide))]
      exact h

/-- Readiness is no matter of numbers. -/
theorem takeRecorded_rdy (r : List Nat) (die m : Nat) : (takeRecorded r die s m).rdy = s.rdy := by
  unfold takeRecorded
  split <;> rfl

/-- A core that is READY on its die, holds no number and is recorded for one alone takes it (16 R631). -/
theorem physOf_recorded {r : List Nat} {die l : Nat} {ls : List Nat} (hl : l ∈ ls) (hdie : r.getD l 0xFFFF / 68 = die)
    (hready : rdyState s (idxCore (r.getD l 0xFFFF)) = .ready) (hnone : logicalOf s (r.getD l 0xFFFF) = none)
    (hone : ∀ m ∈ ls, m ≠ l → r.getD m 0xFFFF ≠ r.getD l 0xFFFF) :
    physOf (ls.foldl (takeRecorded r die) s) l = some (r.getD l 0xFFFF) := by
  induction ls generalizing s with
  | nil => cases hl
  | cons m ms ih =>
    rw [List.foldl_cons]
    by_cases e : m = l
    · subst e
      have htake : takeRecorded r die s m = holdNumber s m (r.getD m 0xFFFF) := if_pos ⟨hdie, hready, by rw [hnone]; rfl⟩
      rw [htake]
      exact List.foldlRecOn _ _ (motive := fun x => physOf x m = some (r.getD m 0xFFFF)) (physOf_holdNumber_self _ _)
        fun x hx k _ => physOf_takeRecorded hx
    · refine ih ((List.mem_cons.1 hl).resolve_left (Ne.symm e)) ?_ ?_ fun k hk => hone k (List.mem_cons_of_mem _ hk)
      · unfold rdyState rdyGet
        rw [takeRecorded_rdy]
        exact hready
      · unfold takeRecorded
        split
        · exact logicalOf_holdNumber_ne (hone m List.mem_cons_self e) hnone
        · exact hnone

/-- A core that the record names for one number of its die has that number once the die has assigned (16 R631). -/
theorem coreMapAssign_takes {die l : Nat} {r : List Nat} (h : Assigning s die) (hr : recordedCores s = some r) (hl : l / 64 = die)
    (hdie : r.getD l 0xFFFF / 68 = die) (hready : rdyState s (idxCore (r.getD l 0xFFFF)) = .ready)
    (hnone : logicalOf s (r.getD l 0xFFFF) = none) (hone : ∀ m, m ≠ l → m / 64 = die → r.getD m 0xFFFF ≠ r.getD l 0xFFFF) :
    ∃ t, exec (.coreMapAssign die) s = .next t ∧ physOf t l = some (r.getD l 0xFFFF) := by
  have hfirst : physOf ((dieNumbers die).foldl (takeRecorded r die) s) l = some (r.getD l 0xFFFF) :=
    physOf_recorded (mem_dieNumbers.2 hl) hdie hready hnone fun m hm hne => hone m hne (mem_dieNumbers.1 hm)
  obtain ⟨t, ht, hphys⟩ := coreMapAssign_recorded h hr
  refine ⟨t, ht, (hphys l).trans ?_⟩
  exact List.foldlRecOn _ _ (motive := fun x => physOf x l = some (r.getD l 0xFFFF)) hfirst fun x hx k _ => physOf_takeFree hx

/-! ### REQUEST_NOT_READY -/

/-- No request, nothing to end (16 R637). -/
theorem requestNotReady_none {req : Nat} (h : reqGet s req = none) : exec (.requestNotReady req) s = .next s := by
  rw [exec_requestNotReady]
  unfold execRequestNotReady
  rw [h]

/-- A request whose units have not settled when its wait is over completes NOT_READY (16 R637). -/
theorem requestNotReady_completes {req : Nat} {r : Request} (h : reqGet s req = some r) (hst : r.stage = .waitUnits) (hop : reqOp r ≠ 0x33)
    (hu : unitsSettled s (reqOp r) = false) :
    exec (.requestNotReady req) s = .next (completeReq (advance s (r.fetchAt + fget s regRdyWait 15 0 * 1000000)) req r 6 0) := by
  rw [exec_requestNotReady]
  unfold execRequestNotReady
  rw [h]
  exact if_neg (by simp [hst, hop, hu])

/-- Settles O50: each command of RDY_CMD, what a channel's bring-up does, and which core gets which number, through the rules above. -/
theorem readinessCommands : Obligations.ReadinessCommands := by
  unfold Obligations.ReadinessCommands
  intro s source unit die req failing units h e refused
  refine ⟨fun hp => ⟨grey_refused hp, releaseForce_refused hp, confirm_refused hp, fun hq hr hu ha hf => grey_done h hp hq hr hu ha hf,
      fun hu hr hf => releaseForce_done h hp hr hu hf, fun hu hr hrma hrec hf hg ht hm => confirm_done hp hu hr hrma hrec hf hg ht hm⟩,
    fun hp => ⟨powered_off hp _, powered_off hp _, powered_off hp _⟩, fun hu hlo hg hr hf => unitRecoveryDone_recovers hu hlo hg hr hf,
    unitRecoveryDone_idle, ?bringup, fun hs st => bringup_settled hs _, ?ascending, ?recorded, requestNotReady_none,
    fun r hr hst hop hu => requestNotReady_completes hr hst hop hu⟩
  case bringup =>
    intro hlo hhi hp h4 h15 hg hf hr
    have hb : BringingUp s unit := ⟨hlo, hhi, hp, h4, h15, hg, hf, hr⟩
    exact ⟨bringup_training h hb failing units, bringup_trained h hb failing units, bringup_ready h hb failing units,
      bringup_fenced h hb failing units⟩
  case ascending => exact fun hd h4 h15 hs hn hr => coreMapAssign_ascending ⟨hd, h4, h15, hs, hn⟩ hr
  case recorded =>
    intro r l hd h4 h15 hs hn hr hl core hdie hready hnone hone
    exact coreMapAssign_takes ⟨hd, h4, h15, hs, hn⟩ hr hl hdie hready hnone fun m hne hm => hone m hne hm

end Sys2Proof.Machine
end

section
/-! SUPPORT. Device time as it moves on, and where each phase of a tick leaves the tick (02 R46-R49, R59, R67, R71). -/

namespace Sys2Proof.Machine

variable {s : State} {L : List Instr}

/-! ### Device time (02 R46, R48) -/

/-- Device time moved on to an instant stands at that instant, where it lies ahead and the counter runs. -/
@[simp] theorem advance_now (s : State) (t : Nat) : (advance s t).now = laterOf s t := by
  unfold advance laterOf
  split
  · rename_i h
    rcases h with h | h
    · rw [Nat.max_eq_left h, ite_self]
    · rw [if_neg (by simpa using h)]
  · rename_i h
    rw [not_or, Bool.not_eq_true', Bool.not_eq_false] at h
    rw [if_pos h.2, Nat.max_eq_right (by omega)]

@[simp] theorem advance_csr (s : State) (t : Nat) : (advance s t).csr = s.csr := by rw [advance_only]
@[simp] theorem advance_mem (s : State) (t : Nat) : (advance s t).mem = s.mem := by rw [advance_only]
@[simp] theorem advance_harts (s : State) (t : Nat) : (advance s t).harts = s.harts := by rw [advance_only]
@[simp] theorem advance_tsq (s : State) (t : Nat) : (advance s t).tsq = s.tsq := by rw [advance_only]
@[simp] theorem advance_tim (s : State) (t : Nat) : (advance s t).tim = s.tim := by rw [advance_only]

/-- Where the counter runs, device time is the later of the present and the instant. -/
theorem laterOf_running (h : timeRuns s = true) (t : Nat) : laterOf s t = max s.now t := if_pos h

/-- An idle step touches device time and the scheduler's telemetry alone (log entry 4). -/
theorem idle_only (s : State) : idle s = { s with now := (idle s).now, sch := (idle s).sch } := by
  unfold idle
  split
  · rfl
  · exact advance_only s _

/-- An idle step lets 1 ns pass, unless the counter stands or the next phase of a running tick has come (log entry 4). -/
theorem idle_now (s : State) :
    (idle s).now = if timeRuns s = true ∧ (s.tsq.running = true → s.now + 1 ≤ nextPhase s) then s.now + 1 else s.now := by
  unfold idle
  split
  · rename_i h
    exact (if_neg fun hc => absurd (hc.2 h.1) (by omega)).symm
  · rename_i h
    have hphase : s.tsq.running = true → s.now + 1 ≤ nextPhase s := fun hr => not_lt.1 fun hlt => h ⟨hr, hlt⟩
    rw [advance_now]
    by_cases hr : timeRuns s = true
    · rw [laterOf_running hr, if_pos ⟨hr, hphase⟩]
      exact Nat.max_eq_right (Nat.le_succ _)
    · rw [if_neg fun hc => hr hc.1]
      exact if_neg hr

/-- Settles O2: an idle step is the passing of 1 ns, which touches device time and the scheduler's telemetry alone. -/
theorem idleStepPassesTime : Obligations.IdleStepPassesTime := by
  unfold Obligations.IdleStepPassesTime
  intro s hp
  refine ⟨idle s, step_idle hp, idle_now s, ?_⟩
  rw [idle_only]
  exact ⟨hp, rfl, rfl, rfl, rfl, rfl, rfl, rfl⟩

/-! ### Commands that are no phase -/

/-- Settles O30: no command moves the queue, and one that is no phase keeps where the tick stands (`kept_exec`, row by row). -/
theorem onlyPhasesMoveTheTick : Obligations.OnlyPhasesMoveTheTick := by
  unfold Obligations.OnlyPhasesMoveTheTick
  intro c s h
  obtain ⟨t, _, e, k⟩ := (keptQ_exec (c := c) (kept_self h)).out
  refine ⟨t, e, k.queue, fun hc => ?_⟩
  obtain ⟨u, e', k'⟩ := (kept_exec (kept_self h) hc).out
  cases e.symm.trans e'
  exact k'.clock

/-! ### Moving the tick -/

/-- An outcome held to a place of the tick stands there. -/
theorem clock_of_kept {C : Bool × Nat × Nat × Phase × Nat} {o : Out} (h : KeptO ⟨L, C⟩ o) : ∃ t, o = .next t ∧ tickClock t = C := by
  obtain ⟨t, e, k⟩ := h.out
  exact ⟨t, e, k.clock⟩

/-- A phase or stage of a running tick begins as device time comes to its instant. -/
theorem kept_phase (h : Canonical s) (hr : s.tsq.running = true) (t : Nat) {f : TsqUnit → TsqUnit} {p : Phase} {k : Nat}
    (hf : tickClock (tsqMap s f) = (s.tsq.running, s.tsq.tick, s.tsq.tickStart, p, k)) :
    Kept ⟨s.pending, (true, s.tsq.tick, s.tsq.tickStart, p, k)⟩ (tsqMap (advance s t) f) := by
  have e : tickClock (tsqMap (advance s t) f) = (true, s.tsq.tick, s.tsq.tickStart, p, k) := by
    rw [← hr, ← hf]
    unfold tickClock tsqMap
    rw [advance_tsq]
  rw [← e]
  exact kept_tsqTo (kept_advance (kept_self h))

/-- A change of the sequencer that moves the stage alone. -/
theorem kept_tsqStage {r : Bool} {n a : Nat} {p : Phase} {j k : Nat} {f : TsqUnit → TsqUnit} (h : Kept ⟨L, (r, n, a, p, j)⟩ s)
    (hf : tickClock (tsqMap s f) = (s.tsq.running, s.tsq.tick, s.tsq.tickStart, s.tsq.phase, k)) :
    Kept ⟨L, (r, n, a, p, k)⟩ (tsqMap s f) := by
  have e : tickClock (tsqMap s f) = (r, n, a, p, k) := by
    have hc := h.clock
    simp only [Prod.mk.injEq] at hc
    obtain ⟨hr, hn, ha, hp, _⟩ := hc
    rw [hf, hr, hn, ha, hp]
  rw [← e]
  exact kept_tsqTo h

/-- The start of a tick depends on TSQ_CFG alone (02 R47). -/
theorem tickAt_congr {t : State} (h : rget t regTsqCfg = rget s regTsqCfg) (n : Nat) : tickAt t n = tickAt s n := by
  unfold tickAt phaseNs period fget
  rw [h]

/-- The floors raised at the first tick leave the registers. -/
theorem raiseFloors_csr (s : State) : (raiseFloors s).csr = s.csr :=
  List.foldlRecOn _ _ (motive := fun x : State => x.csr = s.csr) rfl fun _ hx _ _ => hx

/-! ### The start of a tick (02 R47, R67, R71) -/

/-- The first tick starts at its own t(n) (02 R67). -/
theorem kept_firstTick {n : Nat} (h : Canonical s) (hn : firstTick s = some n) :
    KeptO ⟨s.pending, (true, n, tickAt s n, .prime, 0)⟩ (exec .firstTickStart s) := by
  rw [exec_firstTickStart]
  unfold execFirstTickStart
  split
  · rename_i e
    cases e.symm.trans hn
  rename_i m e
  cases e.symm.trans hn
  extract_lets plan s1 s2
  have k2 : Kept ⟨s.pending, tickClock s2⟩ s2 := kept_tsqTo (kept_raiseFloors (kept_setStage (kept_rset (kept_self h))))
  have hcfg : rget s2 regTsqCfg = rget s regTsqCfg := by
    calc rget s2 regTsqCfg = rget (setStage (rset s regBootTick0 n) 5) regTsqCfg := by
          unfold rget
          exact congrArg (fun m => (mget csrDefault m regTsqCfg).toNat) (raiseFloors_csr _)
      _ = rget (rset s regBootTick0 n) regTsqCfg := rget_rset_ne _ (by decide)
      _ = rget s regTsqCfg := rget_rset_ne _ (by decide)
  rw [← tickAt_congr hcfg]
  exact kept_next (kept_beginTick k2)

/-- Before a first tick is due the command changes nothing (02 R67; log entry 2). -/
theorem firstTick_none (hn : firstTick s = none) : exec .firstTickStart s = .next s := by
  rw [exec_firstTickStart]
  unfold execFirstTickStart
  rw [hn]

/-- The apply window of a running tick. -/
theorem inApply_of (hr : s.tsq.running = true) (hp : s.tsq.phase = .apply) : inApply s = true := by
  unfold inApply
  rw [hr, hp]
  rfl

/-- Outside the apply window there is none. -/
theorem inApply_not (hp : s.tsq.phase ≠ .apply) : inApply s = false := by
  unfold inApply
  rw [beq_false_of_ne hp, Bool.and_false]

/-- After the switch stage the next tick starts, or the one a REBASE chose, at its t(n) (02 R47, R49, R71). -/
theorem kept_tickStart (h : Canonical s) (hr : s.tsq.running = true) (hp : s.tsq.phase = .apply) (hs : s.tsq.stage = 3) :
    KeptO ⟨s.pending, (true, s.tsq.rebase.getD (s.tsq.tick + 1), tickAt s (s.tsq.rebase.getD (s.tsq.tick + 1)), .prime, 0)⟩
      (exec .tickStart s) := by
  rw [exec_tickStart]
  unfold execTickStart
  rw [if_neg (by simp [inApply_of hr hp, hs]), ← hr]
  cases s.tsq.rebase with
  | none => exact kept_next (kept_beginTick (kept_self h))
  | some m => exact kept_next (kept_beginTick (kept_jumpTo (kept_self h)))

/-- No tick starts outside the apply window (log entry 2). -/
theorem tickStart_early (hp : s.tsq.phase ≠ .apply) : exec .tickStart s = .next s := by
  rw [exec_tickStart]
  exact if_pos (.inl (by rw [inApply_not hp]; rfl))

/-! ### The phases of a tick (02 R49, R59) -/

/-- Prime ends 2 µs after T+0 (02 R49). -/
theorem runBegin_due (hr : s.tsq.running = true) (hp : s.tsq.phase = .prime) :
    exec .runBegin s = .next (tsqMap (advance s (s.tsq.tickStart + 2000)) fun t => { t with phase := .run }) := by
  rw [exec_runBegin]
  exact if_neg (by simp [hr, hp])

/-- Outside Prime RUN does not begin (log entry 2). -/
theorem runBegin_early (hp : s.tsq.phase ≠ .prime) : exec .runBegin s = .next s := by
  rw [exec_runBegin]
  exact if_pos (.inr hp)

/-- RUN ends at the settle point (02 R49, R51). -/
theorem kept_settlePoint (h : Canonical s) (hr : s.tsq.running = true) (hp : s.tsq.phase = .run) :
    KeptO ⟨s.pending, (true, s.tsq.tick, s.tsq.tickStart, .settle, s.tsq.stage)⟩ (exec .settlePoint s) := by
  rw [exec_settlePoint]
  unfold execSettlePoint
  rw [if_neg (by simp [hr, hp])]
  exact kept_next (kept_sampleStrands (kept_countBacklog (kept_sendHeartbeats (kept_sendVetoes (kept_dropReleases (kept_phase h hr _ rfl))))))

/-- Outside RUN nothing settles (log entry 2). -/
theorem settlePoint_early (hp : s.tsq.phase ≠ .run) : exec .settlePoint s = .next s := by
  rw [exec_settlePoint]
  exact if_pos (.inr hp)

/-- The settle phase ends at the apply point, where the apply window begins with its commit stage (02 R49, R52). -/
theorem kept_applyPoint (h : Canonical s) (hr : s.tsq.running = true) (hp : s.tsq.phase = .settle) (temps : List (Nat × Nat)) (reach : Nat) :
    KeptO ⟨s.pending, (true, s.tsq.tick, s.tsq.tickStart, .apply, 1)⟩ (exec (.applyPoint temps reach) s) := by
  rw [exec_applyPoint]
  unfold execApplyPoint
  rw [if_neg (by simp [hr, hp])]
  extract_lets -underBinder s1 s2 s3
  have k1 : Kept ⟨s.pending, (true, s.tsq.tick, s.tsq.tickStart, .apply, 1)⟩ s1 := kept_phase h hr _ rfl
  have k2 := kept_greyVetoes (kept_checkPlan (kept_cutOff (kept_countHeartbeats k1)))
  have k3 : Kept _ s3 := kept_demandSnapshots (kept_snapshot (kept_readStacks (kept_freeOffers (kept_foldl k2 fun _ _ k => kept_flushWcb k))))
  have k4 := kept_commitStage (reach := reach) (l := stageItems s3 fun k => k == 3 || k == 4) k3
  generalize commitStage reach _ s3 = r at k4 ⊢
  obtain ⟨s4, left⟩ := r
  exact kept_next (kept_diesRecover (kept_releasedRecover (kept_retryRestores (kept_sampleSensors (kept_readReleases (kept_reloadsOn
    (kept_tsqMap k4.out rfl)))))))

/-- Outside the settle phase no apply point comes (log entry 2). -/
theorem applyPoint_early (hp : s.tsq.phase ≠ .settle) (temps : List (Nat × Nat)) (reach : Nat) : exec (.applyPoint temps reach) s = .next s := by
  rw [exec_applyPoint]
  exact if_pos (.inr hp)

/-- The copy stage follows the commit stage (02 R59). -/
theorem kept_copyStageDue (h : Canonical s) (hr : s.tsq.running = true) (hp : s.tsq.phase = .apply) (hs : s.tsq.stage = 1) (reach : Nat) :
    KeptO ⟨s.pending, (true, s.tsq.tick, s.tsq.tickStart, .apply, 2)⟩ (exec (.copyStage reach) s) := by
  have k : Kept ⟨s.pending, (true, s.tsq.tick, s.tsq.tickStart, .apply, 1)⟩ s := by
    rw [← hr, ← hp, ← hs]
    exact kept_self h
  rw [exec_copyStage]
  unfold execCopyStage
  rw [if_neg (by simp [inApply_of hr hp, hs])]
  exact kept_next (kept_tsqStage (kept_fst (kept_copyStage k)) rfl)

/-- Once the copy stage has begun, or before the commit stage, none begins (log entry 2). -/
theorem copyStage_early (hs : s.tsq.stage ≠ 1) (reach : Nat) : exec (.copyStage reach) s = .next s := by
  rw [exec_copyStage]
  exact if_pos (.inr hs)

/-- Closing accepted offers leaves the tick sequencer (09 R358). -/
theorem closeAccepted_tsq (s : State) (next : List (List Byte)) : (closeAccepted s next).tsq = s.tsq := by
  have hfree : ∀ (x : State) (a : Accepted), (freeAccepted x a).tsq = x.tsq := fun x a => by
    unfold freeAccepted
    rw [plcMap_tsq]
    split
    · rfl
    · exact List.foldlRecOn _ _ (motive := fun y : State => y.tsq = x.tsq) rfl fun _ hy _ _ => hy
  unfold closeAccepted
  rw [plcMap_tsq]
  refine List.foldlRecOn _ _ (motive := fun x : State => x.tsq = s.tsq) rfl fun x hx a _ => ?_
  split
  · exact (hfree _ _).trans hx
  · exact hx

/-- The bulk cut-off ends the bulk stages, from whichever of them, and the switch stage leaves nothing of them (02 R59-R61). -/
theorem bulkCutOff_due (h : Canonical s) (hr : s.tsq.running = true) (hp : s.tsq.phase = .apply) (hs : s.tsq.stage ≠ 3) :
    ∃ t, exec .bulkCutOff s = .next t ∧ tickClock t = (true, s.tsq.tick, s.tsq.tickStart, .apply, 3) ∧ t.tsq.todo = [] ∧ t.tsq.copies = [] := by
  rw [exec_bulkCutOff]
  unfold execBulkCutOff
  rw [if_neg (by simp [inApply_of hr hp, hs])]
  have k1 := kept_phase (f := fun t => { t with stage := 3, copies := t.copies.filter fun k => !arrivalsDone s k.2 }) (p := .apply) (k := 3)
    h hr (cutAt s) (by rw [← hp]; rfl)
  generalize tsqMap (advance s (cutAt s)) _ = s1 at k1 ⊢
  exact ⟨_, rfl, (kept_cutOffEnd (kept_switchStage (kept_broadcast (kept_countDeferred k1)))).clock,
    congrArg TsqUnit.todo (closeAccepted_tsq _ _), congrArg TsqUnit.copies (closeAccepted_tsq _ _)⟩

/-- After the switch stage no cut-off comes (log entry 2). -/
theorem bulkCutOff_late (hs : s.tsq.stage = 3) : exec .bulkCutOff s = .next s := by
  rw [exec_bulkCutOff]
  exact if_pos (.inr hs)

/-- Settles O31: each phase by its own rule above, from the first tick on to the start of the next. -/
theorem tickPhases : Obligations.TickPhases := by
  unfold Obligations.TickPhases
  intro s temps reach h
  refine ⟨fun n hn => clock_of_kept (kept_firstTick h hn), firstTick_none, fun hr => ⟨fun hp => ⟨runBegin_due hr hp, fun ht => ?_⟩,
    fun hp => clock_of_kept (kept_settlePoint h hr hp), fun hp => clock_of_kept (kept_applyPoint h hr hp temps reach),
    fun hp => ⟨fun hs => clock_of_kept (kept_copyStageDue h hr hp hs reach), fun hs => copyStage_early hs reach,
      fun hs => bulkCutOff_due h hr hp hs, fun hs => ⟨bulkCutOff_late hs, clock_of_kept (kept_tickStart h hr hp hs)⟩⟩,
    runBegin_early, settlePoint_early, fun hp => applyPoint_early hp temps reach, tickStart_early⟩⟩
  rw [advance_now, laterOf_running ht]

end Sys2Proof.Machine
end

section
/-! SUPPORT. The time unit's sources: what each of its operations touches, and what each of its events does (02 R68, R69, R72, R75-R77). -/

namespace Sys2Proof.Machine

variable {s : State}

/-! ### What the operations touch -/

/-- A report touches registers, readiness, the aggregator, interrupts, the tick's count of records and what waits for a switch alone (15 R599-R603). -/
theorem report_only (s : State) (kind action subject detail : Nat) :
    report s kind action subject detail =
      { s with csr := (report s kind action subject detail).csr, rdy := (report s kind action subject detail).rdy
               flt := (report s kind action subject detail).flt, pci := (report s kind action subject detail).pci
               mgmt := (report s kind action subject detail).mgmt
               emb := { s.emb with greys := (report s kind action subject detail).emb.greys } } :=
  reportFull_view s kind 0 action subject subject false detail

@[simp] theorem report_mem (s : State) (k a u d : Nat) : (report s k a u d).mem = s.mem := by rw [report_only]
@[simp] theorem report_harts (s : State) (k a u d : Nat) : (report s k a u d).harts = s.harts := by rw [report_only]
@[simp] theorem report_tsq (s : State) (k a u d : Nat) : (report s k a u d).tsq = s.tsq := by rw [report_only]
@[simp] theorem report_tim (s : State) (k a u d : Nat) : (report s k a u d).tim = s.tim := by rw [report_only]

/-- The error estimate comes to a free value of at most 255 (02 R87). -/
theorem estimate_eq (s : State) :
    estimate s = { s with freeCtr := s.freeCtr + 1, tim := { s.tim with errEst := min 255 (Config.freeNat s.freeCtr) } } := rfl

/-- A change of source touches registers and the time unit alone (02 R68, R89). -/
theorem setSource_only (s : State) (src : Nat) : setSource s src = { s with csr := (setSource s src).csr, tim := (setSource s src).tim } := by
  unfold setSource
  split <;> rfl

@[simp] theorem setSource_mem (s : State) (src : Nat) : (setSource s src).mem = s.mem := by rw [setSource_only]
@[simp] theorem setSource_harts (s : State) (src : Nat) : (setSource s src).harts = s.harts := by rw [setSource_only]
@[simp] theorem setSource_flt (s : State) (src : Nat) : (setSource s src).flt = s.flt := by rw [setSource_only]

/-- The source in use after a change of source. -/
@[simp] theorem setSource_source (s : State) (src : Nat) : (setSource s src).tim.source = src := by
  unfold setSource
  split
  · assumption
  · rfl

/-- A change of source leaves the PTP ports. -/
@[simp] theorem setSource_ports (s : State) (src : Nat) : (setSource s src).tim.ports = s.tim.ports := by
  unfold setSource
  split <;> rfl

/-- The BMCA touches registers and the time unit alone (02 R73). -/
theorem bmca_only (s : State) : bmca s = { s with csr := (bmca s).csr, tim := (bmca s).tim } := by
  unfold bmca
  extract_lets master live use
  split
  · split
    · rw [setSource_only]
      rfl
    · rfl
  · split <;> rfl

@[simp] theorem bmca_mem (s : State) : (bmca s).mem = s.mem := by rw [bmca_only]

/-- The BMCA leaves the ports' own state. -/
@[simp] theorem bmca_ports (s : State) : (bmca s).tim.ports = s.tim.ports := by
  unfold bmca
  extract_lets master live use
  split
  · split
    · exact setSource_ports s 1
    · rfl
  · split <;> rfl

/-- The state of a PTP port is read from the ports alone. -/
theorem ptpGet_congr {t : State} (h : t.tim.ports = s.tim.ports) (p : Nat) : ptpGet t p = ptpGet s p := by
  unfold ptpGet
  rw [h]

/-- A PTP port put reads back. -/
theorem ptpGet_ptpPut_self (h : Canonical s) (p : Nat) (x : PtpPort) : ptpGet (ptpPut s p x) p = x := mget_mset_self h.ptp p x

/-- A PTP port put leaves the others. -/
theorem ptpGet_ptpPut_ne {p q : Nat} (x : PtpPort) (h : q ≠ p) : ptpGet (ptpPut s p x) q = ptpGet s q := mget_mset_ne x h

/-! ### Loss of a source, and the end of HOLDOVER (02 R69, R72) -/

/-- A lost source leads to HOLDOVER three sync intervals after its last measurement, with the last rate held (02 R69). -/
theorem syncLoss_holds (h : Canonical s) (hst : s.tim.state = .locked ∨ s.tim.state = .acquiring) (hg : s.tim.grandmaster = false) :
    ∃ t, exec .syncLoss s = .next t ∧ t.tim.state = .holdover ∧ t.tim.good = 0 ∧ t.tim.bad = 0 ∧ t.tim.rate = s.tim.rate ∧ t.tim.errEst ≤ 255 ∧
      bit (rget t regTimEvents) 2 = true ∧ (timeRuns s = true → t.now = max s.now (s.tim.lastMeasAt + 3 * syncInterval s)) ∧ t.mem = s.mem ∧
      t.harts = s.harts := by
  have hdue : ¬((s.tim.state ≠ .locked ∧ s.tim.state ≠ .acquiring) ∨ s.tim.grandmaster = true) := by
    rcases hst with hst | hst <;> simp [hst, hg]
  have k : Canonical (timMap (advance s (s.tim.lastMeasAt + 3 * syncInterval s)) fun t => { t with state := .holdover, good := 0, bad := 0 }) :=
    (kept_timMap (kept_advance (kept_self h)) rfl).canon
  refine ⟨_, (exec_syncLoss ..).trans (if_neg hdue), ?_⟩
  rw [estimate_eq]
  refine ⟨rfl, rfl, rfl, ?_, min_le_left _ _, bit_event_self k (by decide),
    fun ht => (advance_now s _).trans (laterOf_running ht _), advance_mem s _, advance_harts s _⟩
  show (advance s _).tim.rate = _
  rw [advance_tim]

/-- The error estimate as it passes HOLD_LIMIT_NS (02 R69, R87). -/
def pastLimit (s : State) : State := timMap s fun t => { t with errEst := max t.errEst (min 255 (holdLimit s + 1)) }

/-- The source that takes over at the limit: the first other one of SRC_ORDER that answers (02 R69). -/
abbrev takesOver (s : State) : Option Nat := (srcOrder s).find? fun x => x != s.tim.source && answers s x

/-- At the limit the next source that answers takes over (02 R69). -/
theorem holdoverLimit_source {x : Nat} (hst : s.tim.state = .holdover) (hx : takesOver s = some x) :
    exec .holdoverLimit s = .next (timMap (setSource (pastLimit s) x) fun t => { t with state := .acquiring, good := 0, bad := 0 }) := by
  rw [exec_holdoverLimit]
  refine (if_neg (not_not.2 hst)).trans ?_
  extract_lets s1
  split
  · rename_i y hy
    cases hx.symm.trans hy
    rfl
  · rename_i hy
    cases hx.symm.trans hy

/-- At the limit the time unit runs FREE from this instant on, where FREE_OK allows it and no source answers (02 R69). -/
theorem holdoverLimit_free (hst : s.tim.state = .holdover) (hx : takesOver s = none) (hf : freeOk s = true) :
    exec .holdoverLimit s = .next (timMap (setSource (pastLimit s) 0) fun t => { t with state := .free, usableAt := s.now }) := by
  rw [exec_holdoverLimit]
  refine (if_neg (not_not.2 hst)).trans ?_
  extract_lets s1
  split
  · rename_i y hy
    cases hx.symm.trans hy
  · exact if_pos hf

/-- A time unit that has no source and may not run FREE (02 R69, R72). -/
def goneAdrift (s : State) : State := event (timMap (setSource (pastLimit s) 0) fun t => { t with state := .adrift }) regTimEvents 3

/-- At the limit the time unit is ADRIFT, and says so, where FREE_OK is 0 and no source answers (02 R69, R72). -/
theorem holdoverLimit_adrift (hst : s.tim.state = .holdover) (hx : takesOver s = none) (hf : freeOk s = false) :
    exec .holdoverLimit s = .next (report (goneAdrift s) 0x40 0 (unitCode (goneAdrift s) 10 0) (goneAdrift s).tim.errEst) := by
  rw [exec_holdoverLimit]
  refine (if_neg (not_not.2 hst)).trans ?_
  extract_lets s1
  split
  · rename_i y hy
    cases hx.symm.trans hy
  · exact if_neg (Bool.not_eq_true _ ▸ hf)

/-! ### PTM, TICK_IN and TICK_OUT (02 R75-R77) -/

/-- A PTM request goes out while no better source of SRC_ORDER is in use (02 R68, R75). -/
theorem ptmRequest_sent (hn : srcRank s 2 ≠ 3) (hl : s.pci.linkUp = true) (hr : srcRank s 2 ≤ srcRank s s.tim.source) :
    exec .ptmRequest s = .next { s with tim := { s.tim with ptmPending := true } } := by
  rw [exec_ptmRequest]
  exact if_neg (by simp [hn, hl, not_lt.2 hr])

/-- A PTM dialogue that was asked for is one measurement of PTM, half way between request and response (02 R75). -/
theorem ptmResponse_measures (hp : s.tim.ptmPending = true) (t1 t2 t3 t4 : Nat) :
    exec (.ptmResponse t1 t2 t3 t4) s = .next (measure { s with tim := { s.tim with ptmPending := false } } 2
      (4 * (t4 + (((t2 : Int) - t1) + ((t3 : Int) - t4)) / 2)) (4 * t4)) := by
  rw [exec_ptmResponse]
  exact if_neg (by simp [hp])

/-- A PTM response that nothing asked for changes nothing (02 R75). -/
theorem ptmResponse_unasked (hp : s.tim.ptmPending = false) (t1 t2 t3 t4 : Nat) : exec (.ptmResponse t1 t2 t3 t4) s = .next s := by
  rw [exec_ptmResponse]
  exact if_pos (by simp [hp])

/-- A word of TICK_IN is held for the edge it announces (02 R76). -/
theorem tickInWord_held {w : Nat} (hp : s.boot.pwrgood = true) (hw : w < 2 ^ 64) :
    exec (.tickInWord w) s = .next { s with tim := { s.tim with tickInWord := some w } } := by
  rw [exec_tickInWord]
  refine (if_pos hp).trans ?_
  rw [Nat.mod_eq_of_lt hw]
  rfl

/-- An edge of TICK_IN is one measurement of the tick its word named (02 R76). -/
theorem tickInEdge_measures {w : Nat} (hp : s.boot.pwrgood = true) (hw : s.tim.tickInWord = some w) :
    exec .tickInEdge s =
      .next (measure { s with tim := { s.tim with tickInWord := none, missedEdges := 0 } } 3 (4 * tickAt s w) (4 * s.now)) := by
  rw [exec_tickInEdge]
  refine (if_pos hp).trans ?_
  rw [hw]
  rfl

/-- An edge of TICK_IN without a word is a missed one (02 R77). -/
theorem tickInEdge_missed (hp : s.boot.pwrgood = true) (hw : s.tim.tickInWord = none) :
    exec .tickInEdge s = .next { s with tim := { s.tim with missedEdges := s.tim.missedEdges + 1 } } := by
  rw [exec_tickInEdge]
  refine (if_pos hp).trans ?_
  rw [hw]
  rfl

/-- TICK_OUT carries the number of the next tick 1 µs after the edge (02 R76). -/
theorem tickOutWord_due (he : tickOutEn s = true) (hr : s.tsq.running = true) :
    ∃ t, exec .tickOutWord s = .next t ∧ t.tim = { s.tim with tickOutWord := some ((s.tsq.tick + 1) % 2 ^ 64) } ∧
      (timeRuns s = true → t.now = max s.now (s.tsq.tickStart + 1000)) ∧ t.csr = s.csr ∧ t.mem = s.mem := by
  refine ⟨_, (exec_tickOutWord ..).trans (if_neg (by simp [he, hr])), ?_, fun ht => ?_, advance_csr _ _, advance_mem _ _⟩
  · simp only [timMap, advance_tim, advance_tsq]
  · rw [timMap_now, advance_now, laterOf_running ht]

/-! ### An Announce that stays away (02 R73) -/

/-- A port that heard no Announce for three announce intervals forgets the one it had, and no other port does. -/
theorem announceTimeout_forgets (h : Canonical s) {port : Nat} (hp : port < 16) :
    ∃ t, exec (.announceReceiptTimeout port) s = .next t ∧ (ptpGet t port).announce = none ∧ (∀ p, p ≠ port → ptpGet t p = ptpGet s p) ∧
      t.mem = s.mem := by
  refine ⟨_, (exec_announceReceiptTimeout ..).trans (if_neg (not_le.2 hp)), ?_, fun p hne => ?_, ?_⟩
  · rw [ptpGet_congr (bmca_ports _), ptpGet_ptpPut_self (kept_advance (kept_self h)).canon]
  · rw [ptpGet_congr (bmca_ports _), ptpGet_ptpPut_ne _ hne, ptpGet_congr (congrArg TimUnit.ports (advance_tim _ _))]
  · rw [bmca_mem, ptpPut_mem, advance_mem]

/-- Settles O33: each event of the time unit's sources by its own rule above. -/
theorem timeSources : Obligations.TimeSources := by
  unfold Obligations.TimeSources
  intro s w port t1 t2 t3 t4 h
  refine ⟨syncLoss_holds h,
    fun hst hx hf => ⟨_, holdoverLimit_free hst hx hf, rfl, setSource_source _ 0, rfl, setSource_flt _ 0, setSource_mem _ 0⟩,
    fun hst hx hf => ⟨_, holdoverLimit_adrift hst hx hf, ?adrift⟩,
    fun x hst hx => ⟨_, holdoverLimit_source hst hx, rfl, setSource_source _ x, setSource_flt _ x, setSource_mem _ x⟩, ptmRequest_sent,
    fun hp => ptmResponse_measures hp t1 t2 t3 t4, fun hp => ptmResponse_unasked hp t1 t2 t3 t4, tickInWord_held, tickInEdge_measures,
    tickInEdge_missed, tickOutWord_due, announceTimeout_forgets h⟩
  case adrift =>
    rw [report_tim, report_mem, report_harts]
    exact ⟨rfl, setSource_source _ 0, setSource_mem _ 0, setSource_harts _ 0⟩

end Sys2Proof.Machine
end

section
/-! SUPPORT. PTP at a port: what its messages leave, and what a port sends (02 R73, R74; 13 R512). -/

namespace Sys2Proof.Machine

variable {s : State} {port : Nat} {body : List Byte}

/-! ### Sending by a port (13 R487, R512) -/

/-- A message has one cell at least (13 R487). -/
theorem cellsOf_ne_nil (s : State) (kind dst tag : Nat) (alt : Bool) (l : List Byte) : cellsOf s kind dst tag alt l ≠ [] := by
  have hparts : ∀ n, cellParts n l ≠ [] := fun n => by
    cases n with
    | zero => exact List.cons_ne_nil _ _
    | succ n =>
      unfold cellParts
      split <;> exact List.cons_ne_nil _ _
  intro h
  exact hparts l.length (by simpa [cellsOf] using h)

/-- A PTP message sent waits at its port. -/
theorem queued_ptpSend (h : Canonical s) (p : Nat) (b : List Byte) : queued s p < queued (ptpSend s p b) p := by
  have hne := cellsOf_ne_nil (newTag s).2 0x07 (fget (newTag s).2 (regHwsPortState p) 17 8) (newTag s).1 false b
  have hlen : queued (ptpSend s p b) p =
      ((portGet s p).queue ++ cellsOf (newTag s).2 0x07 (fget (newTag s).2 (regHwsPortState p) 17 8) (newTag s).1 false b).length :=
    congrArg (fun x : Port => x.queue.length) (mget_mset_self h.ports p _)
  have hpos := List.length_pos_iff.2 hne
  rw [hlen, List.length_append]
  unfold queued
  omega

/-- A hardware timestamp is device time and two free bits below the ns (02 R73). -/
theorem stamp_div (t n : Nat) : (4 * t + Config.freeNat n % 4) / 4 = t := by omega

/-! ### Messages that come (02 R73) -/

section received
variable (hpow : s.boot.pwrgood = true) (hport : port < 16) (hdom : beFld body 4 1 = 0)
include hpow hport hdom

/-- A Sync is held with its arrival (02 R73). -/
theorem sync_held (ht : ptpType body = 0) : ∃ q, q / 4 = s.now ∧ exec (.ptpMessageRx port body) s =
    .next (ptpPut { s with freeCtr := s.freeCtr + 1 } port { ptpGet s port with syncAt := some (beFld body 30 2, q, ptpCorrection body) }) := by
  refine ⟨_, stamp_div s.now s.freeCtr, ?_⟩
  rw [exec_ptpMessageRx]
  unfold execPtpMessageRx
  simp [powered, hpow, not_le.2 hport, hdom, ht, stampNow, draw]

/-- A Follow_Up that matches the Sync held, at the port toward the grandmaster, is one measurement of PTP (02 R73). -/
theorem followUp_measures {at_ : Nat} {corr d : Int} (ht : ptpType body = 8)
    (hsync : (ptpGet s port).syncAt = some (beFld body 30 2, at_, corr)) (hdelay : (ptpGet s port).peerDelay = some d)
    (htoward : s.tim.ptpPort = port) (hg : s.tim.grandmaster = false) (hbest : (bestAnnounce s).isSome = true) :
    exec (.ptpMessageRx port body) s =
      .next (measure (ptpPut s port { ptpGet s port with syncAt := none }) 1 (ptpStamp body 34 + corr + ptpCorrection body + d) at_) := by
  rw [exec_ptpMessageRx]
  unfold execPtpMessageRx
  simp [powered, hpow, not_le.2 hport, hdom, ht, hsync, hdelay, htoward, hg, hbest]

/-- A Pdelay_Req is answered by its port, and its correction kept for the Pdelay_Resp_Follow_Up (02 R73). -/
theorem pdelayReq_answered (ht : ptpType body = 2) : ∃ b, exec (.ptpMessageRx port body) s =
    .next (ptpSend (ptpPut { s with freeCtr := s.freeCtr + 1 } port { ptpGet s port with reqCorr := sint 64 (beFld body 8 8) }) port b) := by
  rw [exec_ptpMessageRx]
  unfold execPtpMessageRx
  simp only [powered, hpow, not_le.2 hport, hdom, ht, stampNow, draw, ne_eq, not_true_eq_false, or_self, if_true, if_false]
  exact ⟨_, rfl⟩

/-- A Pdelay_Resp to the port's own request is held with its arrival (02 R73). -/
theorem pdelayResp_held (ht : ptpType body = 3) (hreq : (ptpGet s port).reqAt.isSome = true) (hseq : beFld body 30 2 = (ptpGet s port).reqSeq) :
    ∃ q, q / 4 = s.now ∧ exec (.ptpMessageRx port body) s =
      .next (ptpPut { s with freeCtr := s.freeCtr + 1 } port { ptpGet s port with respAt := some (ptpStamp body 34 - ptpCorrection body, q) }) := by
  refine ⟨_, stamp_div s.now s.freeCtr, ?_⟩
  rw [exec_ptpMessageRx]
  unfold execPtpMessageRx
  simp [powered, hpow, not_le.2 hport, hdom, ht, stampNow, draw, hreq, hseq]

/-- The Pdelay_Resp_Follow_Up ends the dialogue: the peer delay is half of the round trip without the neighbour's stay (02 R73). -/
theorem pdelayFollowUp_measures {a1 a4 : Nat} {a2 : Int} (ht : ptpType body = 0xA) (hreq : (ptpGet s port).reqAt = some a1)
    (hresp : (ptpGet s port).respAt = some (a2, a4)) (hseq : beFld body 30 2 = (ptpGet s port).reqSeq) :
    let d : Int := (((a4 : Int) - a1) - (ptpStamp body 34 + ptpCorrection body - a2)) / 2
    exec (.ptpMessageRx port body) s =
      .next (rset (ptpPut s port { ptpGet s port with peerDelay := some d, reqAt := none, respAt := none }) (regHwsPdelay port) (uint 32 d)) := by
  rw [exec_ptpMessageRx]
  unfold execPtpMessageRx
  simp [powered, hpow, not_le.2 hport, hdom, ht, hreq, hresp, hseq]

/-- The data set that an Announce carries, one step further on (02 R73). -/
def announceOf (body : List Byte) : Announce :=
  ⟨beFld body 47 1, beFld body 48 1, beFld body 49 1, beFld body 50 2, beFld body 52 1, beFld body 53 8, beFld body 61 2 + 1, beFld body 20 8⟩

/-- An Announce of another clock is heard, and the BMCA chooses (02 R73). -/
theorem announce_heard (ht : ptpType body = 0xB) (hid : beFld body 53 8 ≠ clockId) :
    exec (.ptpMessageRx port body) s = .next (bmca (ptpPut s port (heard s (ptpGet s port) (announceOf body)))) := by
  rw [exec_ptpMessageRx]
  unfold execPtpMessageRx
  simp [powered, hpow, not_le.2 hport, hdom, ht, hid, announceOf]

end received

/-- A message of another domain changes nothing (02 R73). -/
theorem ptpMessageRx_otherDomain (hdom : beFld body 4 1 ≠ 0) : exec (.ptpMessageRx port body) s = .next s := by
  rw [exec_ptpMessageRx]
  unfold execPtpMessageRx powered
  rw [if_pos (Or.inr hdom : 16 ≤ port ∨ beFld body 4 1 ≠ 0), ite_self]

/-- Without power no message is taken (20 R746). -/
theorem ptpMessageRx_off (hp : s.boot.pwrgood = false) : exec (.ptpMessageRx port body) s = .next s := by
  rw [exec_ptpMessageRx]
  exact if_neg (by simp [hp])

/-! ### Announces of foreign masters (02 R73) -/

/-- A foreign master is noted with the time of its last Announce. -/
theorem heard_foreign (s : State) (t : PtpPort) (a : Announce) : (heard s t a).foreign = pput t.foreign a.sender s.now := by
  unfold heard
  extract_lets known t1 better
  split
  · rfl
  · split <;> rfl

/-- The first Announce of a foreign master does not count yet. -/
theorem heard_first {t : PtpPort} {a : Announce} (h : pfind t.foreign a.sender = none) : (heard s t a).announce = t.announce := by
  unfold heard
  simp [h]

/-- The second Announce within four announce intervals counts, where the port has none. -/
theorem heard_second {t : PtpPort} {a : Announce} {at_ : Nat} (h : pfind t.foreign a.sender = some at_) (hnow : s.now ≤ at_ + 4000000000)
    (hsteps : a.steps < 255) (hnone : t.announce = none) : (heard s t a).announce = some a ∧ (heard s t a).heardAt = s.now := by
  unfold heard
  simp [h, hnow, not_le.2 hsteps, hnone]

/-! ### Messages a port sends (02 R73; 13 R512) -/

/-- A Sync goes out and counts the port's sequence number on (02 R73). -/
theorem syncTx_sent (hport : port < 16) (hm : ptpMaster s port = true) : ∃ b, exec (.ptpSyncTx port) s =
    .next (ptpSend (ptpPut s port { ptpGet s port with txSeq := ((ptpGet s port).txSeq + 1) % 65536 }) port b) :=
  ⟨_, (exec_ptpSyncTx ..).trans (if_neg (by simp [hport, hm]))⟩

/-- An Announce goes out and counts the port's sequence number on (02 R73). -/
theorem announceTx_sent (hport : port < 16) (hm : ptpMaster s port = true) : ∃ b, exec (.ptpAnnounceTx port) s =
    .next (ptpSend (ptpPut s port { ptpGet s port with txSeq := ((ptpGet s port).txSeq + 1) % 65536 }) port b) :=
  ⟨_, (exec_ptpAnnounceTx ..).trans (if_neg (by simp [hport, hm]))⟩

/-- A Pdelay_Req goes out under the next sequence number, and what the last one brought is forgotten (02 R73). -/
theorem pdelayReqTx_sent (hport : port < 16) (hr : rdyState s (idxPort port) = .ready) : ∃ b, exec (.ptpPdelayReqTx port) s =
    .next (ptpSend (ptpPut s port { ptpGet s port with reqSeq := ((ptpGet s port).reqSeq + 1) % 65536, reqAt := none, respAt := none }) port b) :=
  ⟨_, (exec_ptpPdelayReqTx ..).trans (if_neg (by simp [hport, hr]))⟩

/-- The port's own Pdelay_Req is timestamped as its cell leaves (02 R73; 13 R512). -/
theorem ptpSent_pdelayReq {at_ pos : Nat} (ht : ptpType body = 2) (hseq : beFld body 30 2 = (ptpGet s port).reqSeq) :
    ∃ q, q / 4 = at_ + pos ∧
      ptpSent s port at_ pos body = ptpPut { s with freeCtr := s.freeCtr + 1 } port { ptpGet s port with reqAt := some q } := by
  refine ⟨_, stamp_div (at_ + pos) s.freeCtr, ?_⟩
  unfold ptpSent
  simp [ht, hseq, draw]

/-- What a message sent after a change of the port's own state leaves: that change, and a cell that waits. -/
theorem sent_leaves (h : Canonical s) {o : Out} {x : PtpPort} (ho : ∃ b, o = .next (ptpSend (ptpPut s port x) port b)) :
    ∃ t, o = .next t ∧ t.tim = (ptpPut s port x).tim ∧ t.csr = s.csr ∧ t.mem = s.mem ∧ queued s port < queued t port := by
  obtain ⟨b, ho⟩ := ho
  exact ⟨_, ho, rfl, rfl, rfl, queued_ptpSend (kept_ptpPut (kept_self h)).canon port b⟩

/-- Settles O34: each message that comes, and each that a port sends, by its own rule above. -/
theorem ptpMessages : Obligations.PtpMessages := by
  unfold Obligations.PtpMessages
  intro s port body h hport p seq drawn
  refine ⟨fun hpow hdom => ⟨sync_held hpow hport hdom, fun _ _ _ ht hsync hd hp hg hb => followUp_measures hpow hport hdom ht hsync hd hp hg hb,
      fun ht => ?request, pdelayResp_held hpow hport hdom, fun a1 a2 a4 ht hreq hresp hseq => ?peerDelay, fun ht hid => ?announce⟩,
    ptpMessageRx_otherDomain, fun hm => sent_leaves h (syncTx_sent hport hm), fun hm => sent_leaves h (announceTx_sent hport hm),
    fun hr => ?pdelayReq, fun _ _ ht hseq => ptpSent_pdelayReq ht hseq, ptpMessageRx_off⟩
  case request =>
    exact sent_leaves (s := drawn) { h with } (pdelayReq_answered hpow hport hdom ht)
  case peerDelay =>
    refine ⟨_, pdelayFollowUp_measures hpow hport hdom ht hreq hresp hseq, ptpGet_ptpPut_self h port _, ?_, rfl⟩
    rw [rget_rset_self (kept_ptpPut (kept_self h)).canon]
    exact Nat.mod_eq_of_lt (by unfold uint; omega)
  case announce =>
    have hget : ptpGet (bmca (ptpPut s port (heard s p (announceOf body)))) port = heard s p (announceOf body) :=
      (ptpGet_congr (bmca_ports _) port).trans (ptpGet_ptpPut_self h port _)
    refine ⟨_, announce_heard hpow hport hdom ht hid, ?_, (bmca_mem _).trans (ptpPut_mem ..), fun hf => ?_, fun at_ hf hnow hsteps hnone => ?_⟩ <;>
      rw [hget]
    · rw [heard_foreign]
      exact pfind_pput_self _ _ _
    · exact heard_first hf
    · obtain ⟨ha, hat⟩ := heard_second (s := s) (a := announceOf body) hf hnow (Nat.add_lt_add_right hsteps 1) hnone
      exact ⟨hat, _, ha, rfl, rfl, rfl, rfl⟩
  case pdelayReq =>
    obtain ⟨t, e, htim, hcsr, hmem, hq⟩ := sent_leaves h (pdelayReqTx_sent hport hr)
    exact ⟨t, e, hcsr, hmem, hq, htim⟩

end Sys2Proof.Machine
end

section
/-! SUPPORT. Summaries of other devices, and the check of the next plan (02 R54, R57, R62, R63, R65; 09 R358; 13 R514). -/

namespace Sys2Proof.Machine

variable {s t : State}

/-! ### Taking a summary (02 R54; 13 R503, R514) -/

/-- Taking a delivered message touches the message layer alone (13 R503). -/
theorem takeMsg_only (s : State) (src tag kind : Nat) : takeMsg s src tag kind = { s with hws := (takeMsg s src tag kind).hws } := by
  unfold takeMsg
  split
  · rfl
  · exact List.foldlRecOn _ _ (motive := fun x : State => x = { s with hws := x.hws }) rfl fun x hx o _ => by
      rw [hx]
      rfl

/-- What a summary's arrival leaves: its message is taken, and a TSQ_CFG that differs is noted (02 R54). -/
def summaryTaken (s : State) (src tag : Nat) (body : List Byte) : State := noteCfg (takeMsg s src tag 0x08) src (fld body 0x10 8)

/-- A TSQ_CFG that differs is noted in the message layer, a register and a report (02 R54). -/
theorem noteCfg_only (s : State) (src cfg : Nat) :
    noteCfg s src cfg = { s with csr := (noteCfg s src cfg).csr, rdy := (noteCfg s src cfg).rdy, flt := (noteCfg s src cfg).flt
                                 pci := (noteCfg s src cfg).pci, mgmt := (noteCfg s src cfg).mgmt, hws := (noteCfg s src cfg).hws
                                 emb := { s.emb with greys := (noteCfg s src cfg).emb.greys } } := by
  unfold noteCfg
  split
  · rfl
  · extract_lets s1
    rw [report_only]
    rfl

section taken
variable (s) (src tag : Nat) (body : List Byte)

@[simp] theorem summaryTaken_tsq : (summaryTaken s src tag body).tsq = s.tsq := by rw [summaryTaken, noteCfg_only, takeMsg_only]
@[simp] theorem summaryTaken_mem : (summaryTaken s src tag body).mem = s.mem := by rw [summaryTaken, noteCfg_only, takeMsg_only]
@[simp] theorem summaryTaken_harts : (summaryTaken s src tag body).harts = s.harts := by rw [summaryTaken, noteCfg_only, takeMsg_only]
@[simp] theorem summaryTaken_hit : (summaryTaken s src tag body).hit = s.hit := by rw [summaryTaken, noteCfg_only, takeMsg_only]
@[simp] theorem summaryTaken_boot : (summaryTaken s src tag body).boot = s.boot := by rw [summaryTaken, noteCfg_only, takeMsg_only]
@[simp] theorem summaryTaken_planned : (summaryTaken s src tag body).emb.planned = s.emb.planned := by
  rw [summaryTaken, noteCfg_only, takeMsg_only]

end taken

/-! ### PLAN summaries and vetoes (02 R54, R63) -/

/-- A PLAN summary that names no broken barrier is kept with its tick and its items (02 R54, R63). -/
theorem summaryPlan_kept {src tag : Nat} {body : List Byte} (hp : s.boot.pwrgood = true) (hb : fld body 4 2 = 0) :
    exec (.summaryPlanRx src tag body) s = .next (tsqMap (summaryTaken s src tag body) fun t =>
      { t with summaries := t.summaries ++ [⟨src, fld body 8 8, summaryItems body⟩] }) := by
  rw [exec_summaryPlanRx]
  unfold execSummaryPlanRx
  rw [powered, if_pos hp, hb]
  rfl

/-- A mark of a plan's VERSION item touches tables and layers alone (08 R302; 14 R557). -/
theorem markSwitching_only (s : State) (i : List Byte) (on : Bool) :
    markSwitching s i on = { s with emb := (markSwitching s i on).emb, upd := (markSwitching s i on).upd } := by
  unfold markSwitching
  extract_lets id t named l
  split
  · rfl
  · split
    · split
      · rfl
      · split <;> rfl
    · split
      · split
        · rfl
        · split <;> rfl
      · rfl

/-- What a skipped common item may change: the skipped items, to which none is lost, and no byte of memory and no hart (02 R63). -/
structure SkipSide (s t : State) : Prop where
  mem : t.mem = s.mem
  harts : t.harts = s.harts
  skip : s.tsq.skip ⊆ t.tsq.skip

theorem SkipSide.refl (s : State) : SkipSide s s := ⟨rfl, rfl, List.Subset.refl _⟩

theorem SkipSide.trans {u : State} (h : SkipSide s t) (k : SkipSide t u) : SkipSide s u :=
  ⟨k.mem.trans h.mem, k.harts.trans h.harts, List.Subset.trans h.skip k.skip⟩

/-- A common item is skipped, and stays so (02 R63). -/
theorem skipCommon_skips (s : State) (k : Nat × List Byte) (dev : Nat) : SkipSide s (skipCommon s k dev) ∧ k.1 ∈ (skipCommon s k dev).tsq.skip := by
  unfold skipCommon
  split
  · rename_i h
    exact ⟨.refl s, List.contains_iff_mem.1 h⟩
  · extract_lets s1
    have e1 : s1 = { tsqMap s (fun t => { t with skip := t.skip ++ [k.1] }) with emb := s1.emb, upd := s1.upd } := markSwitching_only _ _ _
    have hskip : (report (event s1 regTsqEvents 2) 0x34 7 (devCode dev) (itemKind k.2)).tsq.skip = s.tsq.skip ++ [k.1] := by
      rw [report_tsq, event_tsq, e1]
      rfl
    refine ⟨⟨?_, ?_, ?_⟩, ?_⟩
    · rw [report_mem, event_mem, e1]
      rfl
    · rw [report_harts, event_harts, e1]
      rfl
    · rw [hskip]
      exact List.subset_append_left _ _
    · rw [hskip]
      exact List.mem_append_right _ (List.mem_singleton.2 rfl)

/-- Each of the common items that a veto lists is skipped (02 R63). -/
theorem skipCommon_fold (src : Nat) (l : List (Nat × List Byte × List Nat)) (s : State) :
    let t := l.foldl (fun s k => skipCommon s (k.1, k.2.1) src) s
    SkipSide s t ∧ ∀ k ∈ l, k.1 ∈ t.tsq.skip := by
  induction l generalizing s with
  | nil => exact ⟨.refl s, fun _ hk => absurd hk List.not_mem_nil⟩
  | cons k r ih =>
    obtain ⟨hside, hmem⟩ := skipCommon_skips s (k.1, k.2.1) src
    obtain ⟨hrest, hlater⟩ := ih (skipCommon s (k.1, k.2.1) src)
    exact ⟨hside.trans hrest, List.forall_mem_cons.2 ⟨hrest.skip hmem, hlater⟩⟩

/-- A veto for another tick changes no plan (02 R63). -/
theorem summaryVeto_other {src tag : Nat} {body : List Byte} (hp : s.boot.pwrgood = true) (ht : fld body 8 8 ≠ s.tsq.tick) :
    exec (.summaryVetoRx src tag body) s = .next (summaryTaken s src tag body) := by
  rw [exec_summaryVetoRx]
  unfold execSummaryVetoRx
  rw [powered, if_pos hp]
  exact if_pos (by rw [← summaryTaken, summaryTaken_tsq]; exact ht)

/-- A veto for this tick skips the common items that it lists and its sender takes part in (02 R63). -/
theorem summaryVeto_now {src tag : Nat} {body : List Byte} (hp : s.boot.pwrgood = true) (ht : fld body 8 8 = s.tsq.tick) :
    let s' := summaryTaken s src tag body
    ∃ t, exec (.summaryVetoRx src tag body) s = .next t ∧ SkipSide s' t ∧
      ∀ k ∈ ownCommon s', k.2.2.contains src = true → (summaryItems body).any (sameItem k.2.1) = true → k.1 ∈ t.tsq.skip := by
  intro s'
  obtain ⟨hside, hskip⟩ :=
    skipCommon_fold src ((ownCommon s').filter fun k => k.2.2.contains src && (summaryItems body).any (sameItem k.2.1)) s'
  refine ⟨_, ?_, hside, fun k hk hsrc hit => hskip k (List.mem_filter.2 ⟨hk, Bool.and_eq_true_iff.2 ⟨hsrc, hit⟩⟩)⟩
  rw [exec_summaryVetoRx]
  unfold execSummaryVetoRx
  rw [powered, if_pos hp]
  exact if_neg (by rw [← summaryTaken, summaryTaken_tsq]; exact not_not.2 ht)

/-! ### Offers (09 R358; 13 R514) -/

/-- Pool space taken row by row touches the placement unit alone (09 R344). -/
theorem poolPuts_only (l : List Nat) (f g : Nat → Nat) (s : State) :
    l.foldl (fun s j => poolPut s (f j) (g j)) s = { s with plc := (l.foldl (fun s j => poolPut s (f j) (g j)) s).plc } :=
  List.foldlRecOn _ _ (motive := fun x : State => x = { s with plc := x.plc }) rfl fun x hx j _ => by
    rw [hx]
    rfl

/-- An offer accepted is noted in the placement unit alone (09 R358). -/
theorem acceptOne_only {src tick : Nat} {i item : List Byte} (h : acceptOne s src tick i = some (item, t)) : t = { s with plc := t.plc } := by
  unfold acceptOne at h
  extract_lets id tb n given place at h
  split at h
  · cases h
  · have hplace : ∀ a x, place = some (a, x) → x = { s with plc := x.plc } := by
      intro a x e
      change (if _ then _ else _) = _ at e
      split at e
      · cases e
        rfl
      · obtain ⟨b, _, e⟩ := Option.map_eq_some_iff.1 e
        cases e
        exact poolPuts_only _ _ _ s
    clear_value place
    split at h
    · cases h
    · rename_i a x
      cases h
      rw [hplace a x rfl]
      rfl

/-- An offer for another device is not accepted (09 R358). -/
theorem acceptOne_refused {src tick : Nat} {i : List Byte} (h : fld i 6 2 ≠ s.boot.dev) : acceptOne s src tick i = none :=
  if_pos (.inr (.inr (.inl h)))

/-- What accepting entries may do: at most `n` are accepted, and the placement unit alone notes them (09 R358). -/
def AcceptSide (s : State) (n : Nat) (r : List (Nat × List Byte) × State) : Prop := r.2 = { s with plc := r.2.plc } ∧ r.1.length ≤ n

/-- The entries of an offer are accepted one by one: at most as many as there are (13 R514). -/
theorem acceptAll_side (src tick : Nat) (l : List (List Byte × Nat)) (acc : List (Nat × List Byte)) (s : State) :
    AcceptSide s (acc.length + l.length) (acceptAll src tick l acc s) := by
  induction l generalizing acc s with
  | nil => exact ⟨rfl, Nat.le_refl _⟩
  | cons e r ih =>
    obtain ⟨i, pos⟩ := e
    have skip : AcceptSide s (acc.length + (r.length + 1)) (acceptAll src tick r acc s) := ⟨(ih acc s).1, Nat.le_succ_of_le (ih acc s).2⟩
    have take : ∀ x u, AcceptSide u (acc.length + (r.length + 1)) (acceptAll src tick r (acc ++ [x]) u) := fun x u => by
      have k := ih (acc ++ [x]) u
      rwa [List.length_append, Nat.add_assoc, Nat.add_comm [x].length] at k
    unfold acceptAll
    split
    · split
      · split
        · exact take _ s
        · exact skip
      · exact skip
    · split
      · rename_i item u e
        obtain ⟨hu, hl⟩ := take (pos, item) u
        refine ⟨?_, hl⟩
        rw [hu, acceptOne_only e]
      · exact skip

/-- An offer of entries for other devices accepts none (09 R358). -/
theorem acceptAll_refused {src tick : Nat} {l : List (List Byte × Nat)} (acc : List (Nat × List Byte))
    (h : ∀ e ∈ l, itemKind e.1 ≠ 6 ∧ fld e.1 6 2 ≠ s.boot.dev) : acceptAll src tick l acc s = (acc, s) := by
  induction l with
  | nil => rfl
  | cons e r ih =>
    obtain ⟨hkind, hdev⟩ := h e List.mem_cons_self
    unfold acceptAll
    rw [if_neg hkind, acceptOne_refused hdev]
    exact ih fun x hx => h x (List.mem_cons_of_mem _ hx)

/-- A message posted touches registers and the message layer alone (13 R506). -/
theorem post_only (s : State) (kind dst : Nat) (b : List Byte) :
    post s kind dst b = { s with csr := (post s kind dst b).csr, hws := (post s kind dst b).hws } := by
  unfold post sendMsg newTag sendTagged
  dsimp only
  split
  · rfl
  · unfold noRoute
    rw [bump1_only]
    rfl

@[simp] theorem post_mem (s : State) (k d : Nat) (b : List Byte) : (post s k d b).mem = s.mem := by rw [post_only]
@[simp] theorem post_harts (s : State) (k d : Nat) (b : List Byte) : (post s k d b).harts = s.harts := by rw [post_only]
@[simp] theorem post_emb (s : State) (k d : Nat) (b : List Byte) : (post s k d b).emb = s.emb := by rw [post_only]

/-- The entries of an offer that this device accepts, with their positions, and the state that has noted them. -/
def offerTaken (s : State) (src tag : Nat) (body : List Byte) : List (Nat × List Byte) × State :=
  acceptAll src (fld body 8 8) (summaryItems body).zipIdx [] (summaryTaken s src tag body)

/-- An offer is answered with what is accepted of it, and that is for control firmware to plan (09 R358; log entry 29). -/
theorem summaryOffer_answered {src tag : Nat} {body : List Byte} (hp : s.boot.pwrgood = true) :
    let r := offerTaken s src tag body
    let es := r.1.map (·.2)
    exec (.summaryOfferRx src tag body) s = .next (planLater (post r.2 0x08 src (summaryBytes r.2 4 (fld body 8 8) es [])) es) := by
  rw [exec_summaryOfferRx]
  unfold execSummaryOfferRx
  rw [powered, if_pos hp]
  rfl

/-- What an offer leaves: the entries accepted are planned, at most as many as it holds, and none of one for other devices (09 R358). -/
theorem summaryOffer_leaves {src tag : Nat} {body : List Byte} (hp : s.boot.pwrgood = true) :
    ∃ t es, exec (.summaryOfferRx src tag body) s = .next t ∧ t.emb.planned = s.emb.planned ++ es ∧ es.length ≤ (summaryItems body).length ∧
      t.mem = s.mem ∧ t.harts = s.harts ∧ ((∀ i ∈ summaryItems body, itemKind i ≠ 6 ∧ fld i 6 2 ≠ s.boot.dev) → es = []) := by
  obtain ⟨hside, hlen⟩ := acceptAll_side src (fld body 8 8) (summaryItems body).zipIdx [] (summaryTaken s src tag body)
  rw [← offerTaken] at hside hlen
  refine ⟨_, (offerTaken s src tag body).1.map (·.2), summaryOffer_answered hp, ?_, ?_, ?_, ?_, fun hother => ?_⟩
  · show (post _ _ _ _).emb.planned ++ _ = _
    rw [post_emb, congrArg State.emb hside, summaryTaken_planned]
  · rw [List.length_map]
    simpa using hlen
  · exact (post_mem ..).trans ((congrArg State.mem hside).trans (summaryTaken_mem ..))
  · exact (post_harts ..).trans ((congrArg State.harts hside).trans (summaryTaken_harts ..))
  · have hnone : offerTaken s src tag body = ([], summaryTaken s src tag body) :=
      acceptAll_refused [] fun e he => by
        rw [summaryTaken_boot]
        exact hother _ (List.fst_mem_of_mem_zipIdx he)
    rw [hnone]
    rfl

/-- What a destination accepted is for control firmware to plan (09 R358; log entry 29). -/
theorem summaryAccept_planned {src tag : Nat} {body : List Byte} (hp : s.boot.pwrgood = true) :
    exec (.summaryAcceptRx src tag body) s = .next (planLater (summaryTaken s src tag body) (summaryItems body)) := by
  rw [exec_summaryAcceptRx]
  exact if_pos hp

/-! ### The check of the next plan (02 R57, R62, R65) -/

/-- A sealed plan whose header passes is taken (02 R57, R62). -/
theorem checkPlan_takes (hs : planSealed s.tsq.planNext = true) (hh : headerOk s s.tsq.planNext s.tsq.tick = true) :
    checkPlan s = tsqMap s fun t => { t with take := some s.tsq.planNext } := by
  unfold checkPlan
  exact if_pos (Bool.and_eq_true_iff.2 ⟨hs, hh⟩)

/-- Without a sealed plan the next tick is held: PLAN_MISS is set and counted, and a report says so (02 R57, R65). -/
theorem checkPlan_holds (hs : planSealed s.tsq.planNext = false) : ∃ u d, checkPlan s =
    report (keepMap (tsqMap (bump1 (event s regTsqEvents 0) regTsqPlanMissCnt) fun t =>
      { t with take := none, plan := .held, holdTicks := min 65535 (t.holdTicks + 1) }) fun k => { k with named := [] }) 0x30 0 u d := by
  unfold checkPlan
  simp only [hs, Bool.false_and, Bool.false_eq_true, if_false]
  exact ⟨_, _, rfl⟩

/-- What the check leaves where there is no sealed plan (02 R57, R65). -/
theorem checkPlan_held (h : Canonical s) (hs : planSealed s.tsq.planNext = false) :
    (checkPlan s).tsq.take = none ∧ (checkPlan s).tsq.plan = .held ∧ (checkPlan s).tsq.holdTicks = min 65535 (s.tsq.holdTicks + 1) ∧
      (checkPlan s).mem = s.mem ∧ (checkPlan s).harts = s.harts ∧ tickClock (checkPlan s) = tickClock s := by
  obtain ⟨u, d, e⟩ := checkPlan_holds hs
  have htsq : (checkPlan s).tsq = { s.tsq with take := none, plan := .held, holdTicks := min 65535 (s.tsq.holdTicks + 1) } := by
    rw [e, report_tsq, keepMap_tsq, tsqMap, bump1_only]
    rfl
  have hmem : (checkPlan s).mem = s.mem := by
    rw [e, report_mem, bump1_only]
    rfl
  have hharts : (checkPlan s).harts = s.harts := by
    rw [e, report_harts, bump1_only]
    rfl
  exact ⟨congrArg TsqUnit.take htsq, congrArg TsqUnit.plan htsq, congrArg TsqUnit.holdTicks htsq, hmem, hharts,
    (kept_checkPlan (kept_self h)).clock⟩

/-- Settles O35: each summary by what it leaves, and the two ends of the check of the next plan. -/
theorem plansAndSummaries : Obligations.PlansAndSummaries := by
  unfold Obligations.PlansAndSummaries
  refine ⟨fun s src tag body h hp => ⟨fun hb => ⟨_, summaryPlan_kept hp hb, ?plan⟩, fun ht => ⟨_, summaryVeto_other hp ht, ?other⟩, fun ht => ?now,
    summaryOffer_leaves hp, ⟨_, summaryAccept_planned hp, ?accept⟩⟩, fun s h => ⟨checkPlan_takes, checkPlan_held h⟩⟩
  case plan =>
    refine ⟨?_, summaryTaken_mem .., summaryTaken_harts .., summaryTaken_hit ..⟩
    rw [tsqMap, summaryTaken_tsq]
  case other => exact ⟨summaryTaken_tsq .., summaryTaken_mem .., summaryTaken_harts ..⟩
  case now =>
    obtain ⟨t, e, hside, hlisted⟩ := summaryVeto_now (src := src) (tag := tag) hp ht
    refine ⟨t, e, hside.mem.trans (summaryTaken_mem ..), hside.harts.trans (summaryTaken_harts ..), hlisted, fun j hj => hside.skip ?_⟩
    rw [summaryTaken_tsq]
    exact hj
  case accept =>
    exact ⟨congrArg (· ++ summaryItems body) (summaryTaken_planned ..), summaryTaken_tsq .., summaryTaken_mem .., summaryTaken_harts ..⟩

end Sys2Proof.Machine
end

section
/-! SUPPORT. The words of strand instructions and what reads them back, and the guard that every instruction is issued under (03 R95, R99-R102). -/

namespace Sys2Proof.Machine

variable {s t : State} {c : Instr} {h : Hart} {g : Guard}

/-! ### Fields of a word (03 R99, R100) -/

/-- The instruction of a word whose CLASS and OP are read already. -/
def decodeAt (h : Hart) (cls op w : Nat) : Instr :=
  match cls with
  | 0 => class0 h op w
  | 1 => class1 h op w
  | 2 => class2 h op w
  | 3 => class3 h op w
  | 4 => class4 h op w
  | 5 => class5 h op w
  | 6 => class6 h op w
  | 7 => class7 h op w
  | 8 => class8 h op w
  | 9 => class9 h op w
  | 10 => classA h op w
  | _ => .illegal h (guardAt w)

theorem decodeStrand_eq (h : Hart) (w : Nat) : decodeStrand h w = decodeAt h (w / 2 ^ 60 % 16) (w / 2 ^ 54 % 64) w := rfl

/-- Everything below the head of a word: bits [49:0]. -/
def Headed (w cls op : Nat) (g : Guard) : Prop := ∃ rest, w = headBits cls op g + rest ∧ rest < 2 ^ 50 ∧ cls < 16 ∧ op < 64

theorem bitOf_lt (b : Bool) : bitOf b < 2 := by cases b <;> decide
theorem bitOf_eq (b : Bool) : (bitOf b == 1) = b := by cases b <;> rfl

/-- A word with its head lies within 64 bits and reads as that class, operation and guard. -/
theorem Headed.reads {w cls op : Nat} (hw : Headed w cls op g) (h : Hart) :
    w < 2 ^ 64 ∧ decodeStrand h w = decodeAt h cls op w ∧ guardAt w = g := by
  obtain ⟨rest, rfl, hr, hc, ho⟩ := hw
  have hn := bitOf_lt g.neg
  have hp := g.pred.isLt
  rw [decodeStrand_eq]
  unfold headBits guardAt bitAt predAt
  refine ⟨by omega, ?_, ?_⟩
  · congr 1 <;> omega
  · have hneg : (cls * 2 ^ 60 + op * 2 ^ 54 + bitOf g.neg * 2 ^ 53 + g.pred.val * 2 ^ 50 + rest) / 2 ^ 53 % 2 = bitOf g.neg := by omega
    have hpred : (cls * 2 ^ 60 + op * 2 ^ 54 + bitOf g.neg * 2 ^ 53 + g.pred.val * 2 ^ 50 + rest) / 2 ^ 50 % 8 = g.pred.val := by omega
    simp only [hneg, hpred, bitOf_eq]

theorem regAt_eq {w lo : Nat} {r : Reg} (e : w / 2 ^ lo % 32 = r.val) : regAt w lo = r := Fin.ext e
theorem predAt_eq {w lo : Nat} {p : PredReg} (e : w / 2 ^ lo % 8 = p.val) : predAt w lo = p := Fin.ext e

/-- The head of a word begins at bit 50. -/
theorem headBits_mul (cls op : Nat) (g : Guard) : ∃ k, headBits cls op g = 2 ^ 50 * k ∧ k % 16 = 8 * bitOf g.neg + g.pred.val := by
  refine ⟨1024 * cls + 16 * op + (8 * bitOf g.neg + g.pred.val), ?_, ?_⟩
  · unfold headBits
    omega
  · have := bitOf_lt g.neg
    have := g.pred.isLt
    omega

/-- The guard of a word lies above bit 50. -/
theorem guardAt_head {cls op rest : Nat} (hr : rest < 2 ^ 50) : guardAt (headBits cls op g + rest) = g := by
  obtain ⟨k, e, hk⟩ := headBits_mul cls op g
  have hn := bitOf_lt g.neg
  have hp := g.pred.isLt
  have hneg : (2 ^ 50 * k + rest) / 2 ^ 53 % 2 = bitOf g.neg := by omega
  have hpred : (2 ^ 50 * k + rest) / 2 ^ 50 % 8 = g.pred.val := by omega
  rw [e]
  unfold guardAt bitAt predAt
  simp only [hneg, hpred, bitOf_eq]

/-- A field of a word that ends below bit 50 is a field of what lies below the head. -/
theorem field_head {cls op rest lo m : Nat} (hm : 2 ^ 50 % (2 ^ lo * m) = 0) :
    (headBits cls op g + rest) / 2 ^ lo % m = rest / 2 ^ lo % m := by
  obtain ⟨k, e, -⟩ := headBits_mul cls op g
  obtain ⟨d, hd⟩ := Nat.dvd_of_mod_eq_zero hm
  rw [e, hd, show 2 ^ lo * m * d * k + rest = rest + 2 ^ lo * (m * (d * k)) by ring, Nat.add_mul_div_left _ _ (Nat.two_pow_pos lo), Nat.add_mul_mod_self_left]

theorem low_head {cls op rest m : Nat} (hm : 2 ^ 50 % m = 0) : (headBits cls op g + rest) % m = rest % m := by
  have := field_head (cls := cls) (op := op) (g := g) (rest := rest) (lo := 0) (m := m) (by simpa using hm)
  simpa using this

section words
variable {cls op : Nat} {rd rs1 rs2 rs3 : Reg} {ps pd pa pb : PredReg} {imm : BitVec 32} {y : Operand} {sp : Bool}

/-! ### Forms R, A, Q and S -/

theorem headed_wordR (hc : cls < 16) (ho : op < 64) : Headed (wordR cls op g rd rs1 rs2 rs3 ps) cls op g := ⟨_, rfl, by omega, hc, ho⟩

@[simp] theorem guardAt_wordR : guardAt (wordR cls op g rd rs1 rs2 rs3 ps) = g := guardAt_head (by omega)
@[simp] theorem rd_wordR : regAt (wordR cls op g rd rs1 rs2 rs3 ps) 45 = rd := regAt_eq ((field_head (by decide)).trans (by omega))
@[simp] theorem rs1_wordR : regAt (wordR cls op g rd rs1 rs2 rs3 ps) 40 = rs1 := regAt_eq ((field_head (by decide)).trans (by omega))
@[simp] theorem rs2_wordR : regAt (wordR cls op g rd rs1 rs2 rs3 ps) 35 = rs2 := regAt_eq ((field_head (by decide)).trans (by omega))
@[simp] theorem rs3_wordR : regAt (wordR cls op g rd rs1 rs2 rs3 ps) 30 = rs3 := regAt_eq ((field_head (by decide)).trans (by omega))
@[simp] theorem ps_wordR : predAt (wordR cls op g rd rs1 rs2 rs3 ps) 27 = ps := predAt_eq ((field_head (by decide)).trans (by omega))
@[simp] theorem formR_wordR : formR (wordR cls op g rd rs1 rs2 rs3 ps) = true := beq_iff_eq.2 ((low_head (by decide)).trans (by omega))
@[simp] theorem formA_wordR : formA (wordR cls op g rd rs1 rs2 rs3 0) = true := beq_iff_eq.2 ((low_head (by decide)).trans (by simp; omega))
@[simp] theorem formQ_wordR : formQ (wordR cls op g rd rs1 rs2 0 0) = true := beq_iff_eq.2 ((low_head (by decide)).trans (by simp; omega))

/-! ### Forms I and B -/

theorem headed_wordI (hc : cls < 16) (ho : op < 64) : Headed (wordI cls op g rd rs1 imm) cls op g := ⟨_, rfl, by omega, hc, ho⟩

@[simp] theorem guardAt_wordI : guardAt (wordI cls op g rd rs1 imm) = g := guardAt_head (by omega)
@[simp] theorem rd_wordI : regAt (wordI cls op g rd rs1 imm) 45 = rd := regAt_eq ((field_head (by decide)).trans (by omega))
@[simp] theorem rs1_wordI : regAt (wordI cls op g rd rs1 imm) 40 = rs1 := regAt_eq ((field_head (by decide)).trans (by omega))
@[simp] theorem imm_wordI : BitVec.ofNat 32 (wordI cls op g rd rs1 imm) = imm :=
  BitVec.eq_of_toNat_eq ((BitVec.toNat_ofNat _ _).trans ((low_head (by decide)).trans (by omega)))
@[simp] theorem formI_wordI : formI (wordI cls op g rd rs1 imm) = true := beq_iff_eq.2 ((field_head (by decide)).trans (by omega))
@[simp] theorem formB_wordI : formB (wordI cls op g rd rs1 imm) = true := formI_wordI
@[simp] theorem formB0_wordI : formB0 (wordI cls op g rd rs1 0#32) = true :=
  beq_iff_eq.2 ((low_head (by decide)).trans (by simp; omega))

/-! ### Form C -/

theorem operandBits_lt (y : Operand) : operandBits y < 2 ^ 40 := by
  cases y <;> unfold operandBits <;> dsimp only <;> omega

theorem headed_wordC (hc : cls < 16) (ho : op < 64) : Headed (wordC cls op g pd rs1 y) cls op g :=
  ⟨_, rfl, by have := operandBits_lt y; omega, hc, ho⟩

@[simp] theorem guardAt_wordC : guardAt (wordC cls op g pd rs1 y) = g := guardAt_head (by have := operandBits_lt y; omega)
@[simp] theorem pd_wordC : predAt (wordC cls op g pd rs1 y) 45 = pd :=
  predAt_eq ((field_head (by decide)).trans (by have := operandBits_lt y; omega))
@[simp] theorem rs1_wordC : regAt (wordC cls op g pd rs1 y) 40 = rs1 :=
  regAt_eq ((field_head (by decide)).trans (by have := operandBits_lt y; omega))

/-- IMMSEL tells the two operands of form C apart. -/
theorem immsel_wordC : bitAt (wordC cls op g pd rs1 y) 39 = (match y with | .reg _ => false | .imm _ => true) := by
  have e : wordC cls op g pd rs1 y / 2 ^ 39 % 2 = operandBits y / 2 ^ 39 % 2 := (field_head (by decide)).trans (by omega)
  unfold bitAt
  rw [e]
  cases y with
  | reg r => exact beq_eq_false_iff_ne.2 (by unfold operandBits; dsimp only; omega)
  | imm v => exact beq_iff_eq.2 (by unfold operandBits; dsimp only; omega)

@[simp] theorem operandAt_wordC : operandAt (wordC cls op g pd rs1 y) = y := by
  unfold operandAt
  rw [immsel_wordC]
  cases y with
  | reg r => exact congrArg Operand.reg (regAt_eq ((field_head (by decide)).trans (by unfold operandBits; dsimp only; omega)))
  | imm v =>
    refine congrArg Operand.imm (BitVec.eq_of_toNat_eq ((BitVec.toNat_ofNat _ _).trans ((low_head (by decide)).trans ?_)))
    unfold operandBits
    dsimp only
    omega

@[simp] theorem formC_wordC : formC (wordC cls op g pd rs1 y) = true := by
  have h48 : wordC cls op g pd rs1 y / 2 ^ 48 % 4 = 0 := (field_head (by decide)).trans (by have := operandBits_lt y; omega)
  have h32 : wordC cls op g pd rs1 y / 2 ^ 32 % 4 = 0 := (field_head (by decide)).trans (by cases y <;> unfold operandBits <;> dsimp only <;> omega)
  unfold formC
  rw [h48, h32, immsel_wordC]
  cases y with
  | reg r =>
    have h0 : wordC cls op g pd rs1 (.reg r) % 2 ^ 32 = 0 := (low_head (by decide)).trans (by unfold operandBits; dsimp only; omega)
    rw [h0]
    rfl
  | imm v =>
    have h34 : wordC cls op g pd rs1 (.imm v) / 2 ^ 34 % 32 = 0 := (field_head (by decide)).trans (by unfold operandBits; dsimp only; omega)
    rw [h34]
    rfl

/-! ### Form C of the predicate operations -/

theorem headed_wordP (hc : cls < 16) (ho : op < 64) : Headed (wordP cls op g pd pa pb) cls op g := ⟨_, rfl, by omega, hc, ho⟩

@[simp] theorem guardAt_wordP : guardAt (wordP cls op g pd pa pb) = g := guardAt_head (by omega)
@[simp] theorem pd_wordP : predAt (wordP cls op g pd pa pb) 45 = pd := predAt_eq ((field_head (by decide)).trans (by omega))
@[simp] theorem pa_wordP : predAt (wordP cls op g pd pa pb) 40 = pa := predAt_eq ((field_head (by decide)).trans (by omega))
@[simp] theorem pb_wordP : predAt (wordP cls op g pd pa pb) 34 = pb := predAt_eq ((field_head (by decide)).trans (by omega))
@[simp] theorem formP_wordP : formP (wordP cls op g pd pa pb) = true := by
  have h48 : wordP cls op g pd pa pb / 2 ^ 48 % 4 = 0 := (field_head (by decide)).trans (by omega)
  have h43 : wordP cls op g pd pa pb / 2 ^ 43 % 4 = 0 := (field_head (by decide)).trans (by omega)
  have h39 : wordP cls op g pd pa pb / 2 ^ 39 % 2 = 0 := (field_head (by decide)).trans (by omega)
  have h37 : wordP cls op g pd pa pb / 2 ^ 37 % 4 = 0 := (field_head (by decide)).trans (by omega)
  have h32 : wordP cls op g pd pa pb / 2 ^ 32 % 4 = 0 := (field_head (by decide)).trans (by omega)
  have h0 : wordP cls op g pd pa pb % 2 ^ 32 = 0 := (low_head (by decide)).trans (by omega)
  unfold formP formC bitAt
  rw [h48, h43, h39, h37, h32, h0]
  rfl

/-! ### Form M -/

theorem headed_wordM (hc : cls < 16) (ho : op < 64) : Headed (wordM cls op g rd rs1 sp imm) cls op g :=
  ⟨_, rfl, by have := bitOf_lt sp; omega, hc, ho⟩

@[simp] theorem guardAt_wordM : guardAt (wordM cls op g rd rs1 sp imm) = g := guardAt_head (by have := bitOf_lt sp; omega)
@[simp] theorem rd_wordM : regAt (wordM cls op g rd rs1 sp imm) 45 = rd :=
  regAt_eq ((field_head (by decide)).trans (by have := bitOf_lt sp; omega))
@[simp] theorem rs1_wordM : regAt (wordM cls op g rd rs1 sp imm) 40 = rs1 :=
  regAt_eq ((field_head (by decide)).trans (by have := bitOf_lt sp; omega))
@[simp] theorem space_wordM : bitAt (wordM cls op g rd rs1 sp imm) 39 = sp := by
  have e : wordM cls op g rd rs1 sp imm / 2 ^ 39 % 2 = bitOf sp := (field_head (by decide)).trans (by have := bitOf_lt sp; omega)
  unfold bitAt
  rw [e, bitOf_eq]
@[simp] theorem imm_wordM : BitVec.ofNat 32 (wordM cls op g rd rs1 sp imm) = imm :=
  BitVec.eq_of_toNat_eq ((BitVec.toNat_ofNat _ _).trans ((low_head (by decide)).trans (by omega)))
@[simp] theorem formM_wordM : formM (wordM cls op g rd rs1 sp imm) = true :=
  beq_iff_eq.2 ((field_head (by decide)).trans (by have := bitOf_lt sp; omega))

/-! ### Forms L and Y -/

theorem headed_wordL {n : Nat} (hn : n < 2 ^ 40) (hc : cls < 16) (ho : op < 64) : Headed (wordL cls op g rd n) cls op g := ⟨_, rfl, by omega, hc, ho⟩

@[simp] theorem guardAt_wordL {m : Nat} (hm : m ≤ 40) (v : BitVec m) : guardAt (wordL cls op g rd v.toNat) = g :=
  guardAt_head (by have := Nat.pow_le_pow_right (n := 2) (by decide) hm; omega)
@[simp] theorem rd_wordL {m : Nat} (hm : m ≤ 40) (v : BitVec m) : regAt (wordL cls op g rd v.toNat) 45 = rd :=
  regAt_eq ((field_head (by decide)).trans (by have := Nat.pow_le_pow_right (n := 2) (by decide) hm; omega))
@[simp] theorem imm_wordL {m : Nat} (hm : 2 ^ 45 % 2 ^ m = 0) (v : BitVec m) : BitVec.ofNat m (wordL cls op g rd v.toNat) = v := by
  have hd := Nat.dvd_of_mod_eq_zero hm
  refine BitVec.eq_of_toNat_eq ((BitVec.toNat_ofNat _ _).trans ((low_head (Nat.mod_eq_zero_of_dvd (hd.trans ⟨2 ^ 5, by decide⟩))).trans ?_))
  rw [Nat.add_mod, Nat.mod_eq_zero_of_dvd (hd.mul_left _), Nat.zero_add, Nat.mod_mod, Nat.mod_eq_of_lt v.isLt]
@[simp] theorem formL_wordL {m : Nat} (hm : m ≤ 40) (v : BitVec m) : formL (wordL cls op g rd v.toNat) = true :=
  beq_iff_eq.2 ((field_head (by decide)).trans (by have := Nat.pow_le_pow_right (n := 2) (by decide) hm; omega))
@[simp] theorem formL24_wordL (v : BitVec 24) : formL24 (wordL cls op g rd v.toNat) = true := by
  have e : wordL cls op g rd v.toNat / 2 ^ 24 % 2 ^ 16 = 0 := (field_head (by decide)).trans (by omega)
  rw [formL24, formL_wordL (by decide), e]
  rfl

theorem headed_wordY {v : BitVec 12} (hc : cls < 16) (ho : op < 64) : Headed (wordY cls op g rd rs1 v) cls op g := ⟨_, rfl, by omega, hc, ho⟩

@[simp] theorem guardAt_wordY {v : BitVec 12} : guardAt (wordY cls op g rd rs1 v) = g := guardAt_head (by omega)
@[simp] theorem rd_wordY {v : BitVec 12} : regAt (wordY cls op g rd rs1 v) 45 = rd := regAt_eq ((field_head (by decide)).trans (by omega))
@[simp] theorem rs1_wordY {v : BitVec 12} : regAt (wordY cls op g rd rs1 v) 40 = rs1 := regAt_eq ((field_head (by decide)).trans (by omega))
@[simp] theorem imm_wordY {v : BitVec 12} : BitVec.ofNat 12 (wordY cls op g rd rs1 v) = v :=
  BitVec.eq_of_toNat_eq ((BitVec.toNat_ofNat _ _).trans ((low_head (by decide)).trans (by omega)))
@[simp] theorem formY_wordY {v : BitVec 12} : formY (wordY cls op g rd rs1 v) = true := beq_iff_eq.2 ((field_head (by decide)).trans (by omega))

end words

/-! ### Reading back (03 R99-R102) -/

/-- A word stands for an instruction: it has 64 bits, and the hart that fetches it reads that instruction, under that guard. -/
def Spells (h : Hart) (w : Nat) (i : Instr) : Prop := w < 2 ^ 64 ∧ decodeStrand h w = i ∧ instrOf i = some (h, guardAt w)

/-- A word with its head spells what its class and operation make of its fields. -/
theorem Headed.spells {w cls op : Nat} {i : Instr} (hw : Headed w cls op g) (hd : decodeAt h cls op w = i) (hi : instrOf i = some (h, g)) : Spells h w i := by
  obtain ⟨hlt, hdec, hg⟩ := hw.reads h
  exact ⟨hlt, hdec.trans hd, by rw [hi, hg]⟩

/-- The word of each instruction spells it, form by form. -/
theorem encodeStrand_spells {i : Instr} {w : Nat} (e : encodeStrand i = some (h, w)) : Spells h w i := by
  cases i with
  | add | sub | mul | mulhu | mulhs | divu | divs | remu | rems | and | or | xor | andn | shl | shru | shrs | mins | maxs | minu | maxu | sel 
  | madd | popc | clz | ctz | fadd | fsub | fmul | ffma | fmin | fmax | fcvtsi | fcvtis | aadd32 | aadd64 | aminu64 | amaxu64 | aor64 | aand64 
  | aswap64 | acas64 | afadd32 | qgather | qlookup | qchain | qmat | qsend | qwait | qpoll | qdrainall | harrive | hwait | hrelone | hrelall | hadd 
  | htest | karrive | kwait =>
    cases e
    exact (headed_wordR (by decide) (by decide)).spells (by simp [decodeAt, legal, class0, class2, class5, class8, class9]) rfl
  | addi | muli | andi | ori | xori | shli | shrui | shrsi | br | bri | call | calli =>
    cases e
    exact (headed_wordI (by decide) (by decide)).spells (by simp [decodeAt, legal, class1, class6]) rfl
  | cmpeq | cmpne | cmplts | cmples | cmpltu | cmpleu | fcmpeq | fcmplt | fcmple | fcmpun =>
    cases e
    exact (headed_wordC (by decide) (by decide)).spells (by simp [decodeAt, legal, class3]) rfl
  | pand | por | pxor | pandn =>
    cases e
    exact (headed_wordP (by decide) (by decide)).spells (by simp [decodeAt, legal, class3]) rfl
  | ld8u | ld16u | ld32u | ld64 | ld8s | ld16s | ld32s | st8 | st16 | st32 | st64 =>
    cases e
    exact (headed_wordM (by decide) (by decide)).spells (by simp [decodeAt, legal, class4]) rfl
  | li | lih =>
    cases e
    exact (headed_wordL (by omega) (by decide) (by decide)).spells (by simp [decodeAt, legal, class7]) rfl
  | nop | mfs | mts | mfence | spawn | tend =>
    cases e
    exact (headed_wordY (by decide) (by decide)).spells (by simp [decodeAt, legal, classA]) rfl
  | _ => cases e

/-- The classes 0xB to 0xF raise ILLEGAL (03 R102). -/
theorem decodeStrand_illegal {w : Nat} (hlo : 0xB * 2 ^ 60 ≤ w) (hhi : w < 2 ^ 64) : decodeStrand h w = .illegal h (guardAt w) := by
  have hc : 11 ≤ w / 2 ^ 60 % 16 := by omega
  rw [decodeStrand_eq]
  generalize w / 2 ^ 60 % 16 = cls at hc
  obtain ⟨k, rfl⟩ : ∃ k, cls = k + 11 := ⟨cls - 11, by omega⟩
  rfl

/-! ### The issue of any instruction (03 R94, R95) -/

/-- Every instruction is held to the word at its hart's pc and then issued under its guard. -/
theorem exec_instr (s : State) (e : instrOf c = some (h, g)) : ∃ f : State → State, exec c s = spelled c h s (issue s h g f) := by
  cases c with
  | add | sub | mul | mulhu | mulhs | divu | divs | remu | rems | and | or | xor | andn | shl | shru | shrs | mins | maxs | minu | maxu | addi 
  | muli | andi | ori | xori | shli | shrui | shrsi =>
    cases e
    exact ⟨_, (rfl : _ = spelled _ h s (compute s h g _ _))⟩
  | illegal | sel | madd | popc | clz | ctz | fadd | fsub | fmul | ffma | fmin | fmax | fcvtsi | fcvtis | aadd32 | aadd64 | aminu64 | amaxu64 
  | aor64 | aand64 | aswap64 | acas64 | afadd32 | qgather | qlookup | qchain | qmat | qsend | qwait | qpoll | qdrainall | harrive | hwait | hrelone 
  | hrelall | hadd | htest | karrive | kwait | br | bri | call | calli | cmpeq | cmpne | cmplts | cmples | cmpltu | cmpleu | fcmpeq | fcmplt 
  | fcmple | fcmpun | pand | por | pxor | pandn | ld8u | ld16u | ld32u | ld64 | ld8s | ld16s | ld32s | st8 | st16 | st32 | st64 | li | lih | nop 
  | mfs | mts | mfence | spawn | tend =>
    cases e
    exact ⟨_, rfl⟩
  | _ => cases e

/-- Nothing that holds an instruction to its word changes a command that does nothing. -/
theorem spelled_idle (c : Instr) (h : Hart) (s : State) : spelled c h s (.next s) = .next s := by
  cases h with
  | ctrl k => rfl
  | strand p n => exact ite_self _

/-- The pc of a hart moved on and nothing else. -/
theorem nextPc_onlyHart (hc : Canonical s) : OnlyHart s (nextPc (issued s h) h) h ∧ hart (nextPc (issued s h) h) h = { hart s h with pc := (hart s h).pc + 8 } := by
  refine ⟨⟨rfl, fun k hk => ?_⟩, ?_⟩
  · rw [nextPc, hart_putHart_ne _ hk, hart_issued]
  · rw [hart_nextPc (issued_canonical hc h), hart_issued]

/-- Settles O10: a word of each form reads back field by field, and every instruction passes the same gate before it acts. -/
theorem guardedOff : Obligations.GuardedOff := by
  unfold Obligations.GuardedOff
  refine ⟨fun i h w e => encodeStrand_spells e, fun h w => decodeStrand_illegal, fun s c h g hc hi => ?_⟩
  obtain ⟨f, hf⟩ := exec_instr s hi
  rw [hf]
  refine ⟨fun hn => ?notReady, fun p n hh h1 h2 h3 => ?other, fun hr hfetch hg => ?off, ?always⟩
  case notReady => rw [issue_not_ready f hn, spelled_idle]
  case other =>
    subst hh
    exact spelled_other _ h1 h2 h3
  case off => exact ⟨_, (spelled_fetches _ hfetch).trans (issue_off f hr hfetch hg), nextPc_onlyHart hc⟩
  case always => rfl

end Sys2Proof.Machine
end

section
/-! SUPPORT. What the integer, compare and predicate instructions compute, and what that writes (03 R100-R103). -/

namespace Sys2Proof.Machine

variable {s t : State} {c : Instr} {h : Hart} {g : Guard} {rd : Reg} {v : Word}

/-! ### Counting bits (03 R102) -/

theorem popcount_eq (n v : Nat) : popcount n v = (List.range n).countP fun i => v.testBit i := by
  induction n generalizing v with
  | zero => rfl
  | succ n ih =>
    rw [List.range_succ_eq_map, List.countP_cons, List.countP_map, popcount, ih, Nat.add_comm]
    congr 1
    · exact congrArg₂ List.countP (funext fun i => (Nat.testBit_succ v i).symm) rfl
    · rcases Nat.mod_two_eq_zero_or_one v with e | e <;> simp [Nat.testBit_zero, e]

theorem trailing_eq (n v : Nat) : trailing n v = ((List.range n).takeWhile fun i => !v.testBit i).length := by
  induction n generalizing v with
  | zero => rfl
  | succ n ih =>
    rw [List.range_succ_eq_map, List.takeWhile_cons, trailing, ih]
    rcases Nat.mod_two_eq_zero_or_one v with e | e
    · simp [Nat.testBit_zero, e, List.takeWhile_map, Function.comp_def, Nat.testBit_succ, Nat.add_comm]
    · simp [Nat.testBit_zero, e]

theorem bitLen_le {n v : Nat} (hv : v < 2 ^ n) : bitLen v ≤ n := by
  unfold bitLen
  split
  · exact Nat.zero_le n
  · exact (Nat.log2_lt (by assumption)).2 hv

theorem bitLen_top {n v : Nat} (hlo : 2 ^ n ≤ v) (hhi : v < 2 ^ (n + 1)) : bitLen v = n + 1 := by
  have h0 : v ≠ 0 := by have := Nat.two_pow_pos n; omega
  have h1 := (Nat.le_log2 h0).2 hlo
  have h2 := (Nat.log2_lt h0).2 hhi
  rw [bitLen, if_neg h0]
  omega

theorem leading_eq {n v : Nat} (hv : v < 2 ^ n) : n - bitLen v = ((List.range n).reverse.takeWhile fun i => !v.testBit i).length := by
  induction n with
  | zero => simp
  | succ n ih =>
    rw [List.range_succ, List.reverse_append, List.reverse_singleton, List.singleton_append, List.takeWhile_cons]
    by_cases hlt : v < 2 ^ n
    · rw [Nat.testBit_lt_two_pow hlt]
      have := bitLen_le hlt
      simp only [Bool.not_false, if_true, List.length_cons, ← ih hlt]
      omega
    · have htop : v.testBit n = true := Nat.testBit_of_two_pow_le_and_two_pow_add_one_gt (by omega) hv
      rw [htop, bitLen_top (by omega) hv]
      simp

/-! ### Each computation as the statement gives it (03 R101-R103) -/

theorem divU_eq (x y : Word) : divU x y = if y = 0 then BitVec.allOnes 64 else x / y := rfl

theorem remS_eq (x y : Word) : remS x y = if y = 0 then x else x - y * BitVec.ofInt 64 (x.toInt.tdiv y.toInt) := by
  unfold remS
  split
  · rfl
  · rw [Int.tmod_def, Int.sub_eq_add_neg, BitVec.ofInt_add, BitVec.ofInt_neg, BitVec.ofInt_mul, BitVec.ofInt_toInt, BitVec.ofInt_toInt,
      BitVec.sub_eq_add_neg]

theorem shiftOf_eq (y : Word) : shiftOf y = (y.extractLsb' 0 6).toNat := by
  simp [shiftOf]

theorem shiftOf_simm (i : BitVec 32) : shiftOf (simm i) = i.toNat % 64 := by
  unfold shiftOf simm
  rw [BitVec.toNat_signExtend, BitVec.toNat_setWidth]
  split <;> omega

/-- What the signed order of two words chooses does not rest on how a tie is broken. -/
theorem ite_slt_eq {α : Type} (x y : Word) {a b : α} (hab : x = y → a = b) : (if x.slt y then a else b) = if x.toInt ≤ y.toInt then a else b := by
  by_cases hlt : x.toInt < y.toInt
  · rw [if_pos (BitVec.slt_iff_toInt_lt.2 hlt), if_pos hlt.le]
  · rw [if_neg (fun e => hlt (BitVec.slt_iff_toInt_lt.1 e))]
    split
    · exact (hab (BitVec.eq_of_toInt_eq (by omega))).symm
    · rfl

/-- The same for the unsigned order. -/
theorem ite_ult_eq {α : Type} (x y : Word) {a b : α} (hab : x = y → a = b) : (if x.ult y then a else b) = if x ≤ y then a else b := by
  by_cases hlt : x < y
  · rw [if_pos (BitVec.ult_iff_lt.2 hlt), if_pos (BitVec.le_of_lt hlt)]
  · rw [if_neg (fun e => hlt (BitVec.ult_iff_lt.1 e))]
    split
    · exact (hab (BitVec.le_antisymm (by assumption) (BitVec.not_lt.1 hlt))).symm
    · rfl

theorem onesOf_eq (x : Word) : popcount 64 x.toNat = onesOf x := popcount_eq 64 x.toNat
theorem leadingZeros_eq (x : Word) : leading x.toNat = leadingZeros x := leading_eq x.isLt
theorem trailingZeros_eq (x : Word) : trailing 64 x.toNat = trailingZeros x := trailing_eq 64 x.toNat

/-! ### Integer instructions -/

/-- An integer instruction only computes a register, with the result the statement gives. -/
theorem intResult_compute (e : intResult s c = some (h, g, rd, v)) :
    ∃ f, exec c s = spelled c h s (compute s h g rd f) ∧ f (issued s h) = v := by
  cases c with
  | add | sub | mul | mulhu | mulhs | divu | remu | divs | and | or | xor | andn | sel | madd | addi | muli | andi | ori | xori | li | lih =>
    cases e
    exact ⟨_, rfl, by simp only [reg_issued, pred_issued, mulHighU, mulHighS, divU_eq, remU, divS, simm, zimm]⟩
  | rems =>
    cases e
    exact ⟨_, rfl, by simp only [reg_issued, remS_eq]⟩
  | shl | shru | shrs =>
    cases e
    exact ⟨_, rfl, by simp only [reg_issued, shiftOf_eq]⟩
  | shli | shrui | shrsi =>
    cases e
    exact ⟨_, rfl, by simp only [reg_issued, shiftOf_simm]⟩
  | mins =>
    cases e
    exact ⟨_, rfl, by simp only [reg_issued]; exact ite_slt_eq _ _ id⟩
  | maxs =>
    cases e
    exact ⟨_, rfl, by simp only [reg_issued]; exact ite_slt_eq _ _ Eq.symm⟩
  | minu =>
    cases e
    exact ⟨_, rfl, by simp only [reg_issued]; exact ite_ult_eq _ _ id⟩
  | maxu =>
    cases e
    exact ⟨_, rfl, by simp only [reg_issued]; exact ite_ult_eq _ _ Eq.symm⟩
  | popc | clz | ctz =>
    cases e
    exact ⟨_, rfl, by simp only [reg_issued, onesOf_eq, leadingZeros_eq, trailingZeros_eq]⟩
  | _ => cases e

/-- Settles O6: each integer instruction computes its result, and one that computes a register retires it. -/
theorem integerArithmetic : Obligations.IntegerArithmetic := by
  unfold Obligations.IntegerArithmetic
  intro s c h g rd v hc e hr
  obtain ⟨f, hf, hv⟩ := intResult_compute e
  rw [hf, spelled_fetches _ hr.fetch]
  exact compute_retired f hc hr hv

/-! ### Compares and predicate instructions -/

/-- All that writing a predicate and moving on does. -/
theorem setPred_predicated (hc : Canonical s) (p : PredReg) (b : Bool) : Predicated s (nextPc (setPred (issued s h) h p b) h) h p b := by
  have hi := issued_canonical hc h
  have hp := setPred_canonical hi p b (h := h)
  have e : hart (nextPc (setPred (issued s h) h p b) h) h = { hart (setPred (issued s h) h p b) h with pc := (hart s h).pc + 8 } := by
    rw [hart_nextPc hp, hart_setPred hi, hart_issued]
  have epred : ∀ q, pred (nextPc (setPred (issued s h) h p b) h) h q = pred (setPred (issued s h) h p b) h q := fun q => by
    rw [pred, pred, e]
  refine ⟨⟨?_, fun k hk => ?_⟩, ?_, ?_, fun q hq => ?_⟩
  · unfold nextPc putHart hartSet
    rw [setPred_only]
  · rw [nextPc, hart_putHart_ne _ hk, setPred_other _ _ hk, hart_issued]
  · rw [e, hart_setPred hi, hart_issued]
  · rw [epred, pred_setPred hi, if_pos (Eq.refl p)]
  · rw [epred, pred_setPred hi, if_neg hq, pred_issued]
    unfold pred
    split
    · simp [*]
    · rfl

/-- An FP32 pattern is the low 32 bits of a register (03 R104). -/
@[simp] theorem unF_fp (w : Word) : unF (fp w) = unF w.toNat := by
  unfold unF fp
  rw [Nat.mod_mod]

/-- A compare or predicate instruction writes the truth value the statement gives, and moves on. -/
theorem predResult_issue {p : PredReg} {b : Bool} (e : predResult s c = some (h, g, p, b)) :
    ∃ f : State → Bool, exec c s = spelled c h s (issue s h g fun s => nextPc (setPred s h p (f s)) h) ∧ f (issued s h) = b := by
  cases c with
  | cmpne =>
    cases e
    exact ⟨_, rfl, by simp only [reg_issued, operand_issued]; exact (decide_not).symm⟩
  | cmpeq | cmplts | cmples | cmpltu | cmpleu =>
    cases e
    exact ⟨_, rfl, by simp only [reg_issued, operand_issued]; rfl⟩
  | fcmpeq | fcmplt | fcmple | fcmpun =>
    cases e
    exact ⟨_, rfl, by simp only [reg_issued, operandF_issued, unF_fp]⟩
  | pand | por | pxor | pandn =>
    cases e
    exact ⟨_, rfl, by simp only [pred_issued]⟩
  | _ => cases e

/-- Settles O7: each compare and predicate instruction writes its truth value to one predicate. -/
theorem comparesAndPredicates : Obligations.ComparesAndPredicates := by
  unfold Obligations.ComparesAndPredicates
  intro s c h g p b hc e hr
  obtain ⟨f, hf, hb⟩ := predResult_issue e
  refine ⟨_, hf.trans ((spelled_fetches _ hr.fetch).trans (issue_runs _ hr)), ?_⟩
  rw [hb]
  exact setPred_predicated hc p b

/-! ### FP32 instructions (03 R104; 07 R275) -/

/-- Flags raised keep the state canonical. -/
theorem orFflags_canonical (hc : Canonical s) (f : Nat) : Canonical (orFflags s h f) := canon_putHart hc _ _

/-- All that retirement with flags does. -/
theorem retire_retiredF (hc : Canonical s) (f : Nat) : RetiredF s (retire (orFflags (issued s h) h f) h rd v) h rd v f := by
  have hi := issued_canonical hc h
  have hflags : hart (orFflags (issued s h) h f) h = { hart s h with fflags := (hart s h).fflags ||| BitVec.ofNat 5 f } := by
    unfold orFflags
    rw [hart_putHart_self hi, hart_issued]
  have e : hart (retire (orFflags (issued s h) h f) h rd v) h =
      { (hart s h).setReg rd v with pc := (hart s h).pc + 8, fflags := (hart s h).fflags ||| BitVec.ofNat 5 f } := by
    rw [retire_hart (orFflags_canonical hi f), hflags]
    unfold HartSt.setReg
    split <;> rfl
  have ereg : ∀ q, reg (retire (orFflags (issued s h) h f) h rd v) h q = if q.val = 0 then 0 else ((hart s h).setReg rd v).regs[q] := fun q => by
    rw [reg, e]
  refine ⟨⟨rfl, fun k hk => ?_⟩, ?_, ?_, fun r hr => ?_⟩
  · rw [retire_other hk, orFflags, hart_putHart_ne _ hk, hart_issued]
  · rw [e, setReg_rest]
  · rw [ereg, setReg_get, if_pos (Eq.refl rd)]
  · rw [ereg, setReg_get, if_neg hr, reg]

/-- The result of an FP32 instruction as a register holds it: the pattern in bits 31..0. -/
theorem fpWord_eq (n : Nat) : BitVec.ofNat 64 (n % 2 ^ 32) = (BitVec.ofNat 32 n).zeroExtend 64 :=
  BitVec.eq_of_toNat_eq (by simp)

theorem bit31_fp (w : Word) : bit (fp w) 31 = bit w.toNat 31 := by
  unfold bit fp
  congr 1
  omega

theorem ltZ_fp (x y : Word) : ltZ (fp x) (fp y) = ltZ x.toNat y.toNat := by
  unfold ltZ
  rw [unF_fp, unF_fp, bit31_fp, bit31_fp]

theorem fp_mod (w : Word) : fp w % 2 ^ 32 = w.toNat % 2 ^ 32 := Nat.mod_mod _ _

theorem minF_fp (x y : Word) : minF (fp x) (fp y) = minF x.toNat y.toNat := by
  unfold minF
  rw [unF_fp, unF_fp, ltZ_fp, fp_mod, fp_mod]

theorem maxF_fp (x y : Word) : maxF (fp x) (fp y) = maxF x.toNat y.toNat := by
  unfold maxF
  rw [unF_fp, unF_fp, ltZ_fp, fp_mod, fp_mod]

theorem fmaF_fp (x y z : Word) : fmaF (fp x) (fp y) (fp z) = fmaF x.toNat y.toNat z.toNat := by
  unfold fmaF
  rw [unF_fp, unF_fp, unF_fp]

/-- An FP32 instruction retires the result the statement gives, with its flags. -/
theorem fpResult_issue {f : Nat} (e : fpResult s c = some (h, g, rd, v, f)) :
    ∃ r : State → Word × Nat, exec c s = spelled c h s (issue s h g fun s => retire (orFflags s h (r s).2) h rd (r s).1) ∧ r (issued s h) = (v, f) := by
  have pattern {r : Nat × Nat} {h' g' rd'} (e : fpResult.fp32 h' g' rd' r = some (h, g, rd, v, f)) :
      h' = h ∧ g' = g ∧ rd' = rd ∧ (BitVec.ofNat 64 (r.1 % 2 ^ 32), r.2) = (v, f) := by
    cases e
    exact ⟨rfl, rfl, rfl, by rw [fpWord_eq]⟩
  cases c with
  | fadd | fsub | fmul | ffma | fmin | fmax | fcvtsi =>
    obtain ⟨rfl, rfl, rfl, er⟩ := pattern e
    refine ⟨fun s => (BitVec.ofNat 64 (_ % 2 ^ 32), _), rfl, ?_⟩
    rw [← er]
    simp only [reg_issued, addF, subF, mulF, unF_fp, fmaF_fp, minF_fp, maxF_fp]
  | fcvtis =>
    cases e
    exact ⟨fun s => (BitVec.ofInt 64 _, _), rfl, by simp only [reg_issued, unF_fp]⟩
  | _ => cases e

theorem isNan_iff {a : Fp} : a.isNan = true ↔ a = .nan := by cases a <;> simp [Fp.isNan]

/-- A NaN in a sum makes it NaN, without the invalid flag (07 R274, R275). -/
theorem exAdd_nan {a b : Fp} (hn : a.isNan = true ∨ b.isNan = true) : exAdd a b = (.nan, 0) := by
  rw [isNan_iff, isNan_iff] at hn
  rcases hn with rfl | rfl
  · rfl
  · cases a <;> rfl

/-- The same of a product. -/
theorem exMul_nan {a b : Fp} (hn : a.isNan = true ∨ b.isNan = true) : exMul a b = (.nan, 0) := by
  rw [isNan_iff, isNan_iff] at hn
  rcases hn with rfl | rfl
  · rfl
  · cases a <;> rfl

theorem negate_isNan (a : Fp) : a.negate.isNan = a.isNan := by cases a <;> rfl

/-- A NaN rounds to the canonical one (07 R275). -/
theorem finishF_nan (f : Nat) : (finishF (.nan, f)).1 = 0x7FC00000 := rfl

/-- A NaN operand makes every sum, product and choice the canonical NaN. -/
theorem nan_operands {a b : Nat} (hn : (unF a).isNan = true ∨ (unF b).isNan = true) :
    (addF a b).1 = 0x7FC00000 ∧ (subF a b).1 = 0x7FC00000 ∧ (mulF a b).1 = 0x7FC00000 ∧ minF a b = 0x7FC00000 ∧ maxF a b = 0x7FC00000 := by
  have hor : ((unF a).isNan || (unF b).isNan) = true := Bool.or_eq_true_iff.2 hn
  refine ⟨?_, ?_, ?_, if_pos hor, if_pos hor⟩
  · rw [addF, exAdd_nan hn, finishF_nan]
  · rw [subF, exAdd_nan (hn.imp_right (negate_isNan _).trans), finishF_nan]
  · rw [mulF, exMul_nan hn, finishF_nan]

/-- So does a NaN among the three operands of a multiply-add. -/
theorem fmaF_nan {a b c : Nat} (hn : (unF a).isNan = true ∨ (unF b).isNan = true ∨ (unF c).isNan = true) : (fmaF a b c).1 = 0x7FC00000 := by
  unfold fmaF
  extract_lets x y
  split
  · rfl
  · rename_i hz
    have hx : x = (.nan, 0) := exMul_nan (or_assoc.2 hn |>.resolve_right hz)
    have hy : y = (.nan, 0) := exAdd_nan (.inl (by rw [hx]; rfl))
    rw [hy]
    exact finishF_nan _

/-- Settles O8: each FP32 instruction retires its result with its flags, and a NaN operand gives the canonical NaN. -/
theorem floatingPoint : Obligations.FloatingPoint := by
  unfold Obligations.FloatingPoint
  refine ⟨fun s c h g rd v f hc e hr => ?_, fun a b hn => ?_⟩
  · obtain ⟨r, hf, hv⟩ := fpResult_issue e
    refine ⟨_, hf.trans ((spelled_fetches _ hr.fetch).trans (issue_runs _ hr)), ?_⟩
    rw [hv]
    exact retire_retiredF hc f
  · obtain ⟨hadd, hsub, hmul, hmin, hmax⟩ := nan_operands hn
    exact ⟨hadd, hsub, hmul, hmin, hmax, fun c => ⟨fmaF_nan (or_assoc.1 (.inl hn)), fmaF_nan (.inr hn)⟩⟩

end Sys2Proof.Machine
end

section
/-! SUPPORT. What an instruction does that moves its own hart alone: branches, calls, special registers and waits (03 R96, R102, R108, R114, R118). -/

namespace Sys2Proof.Machine

variable {s t u : State} {c : Instr} {h k : Hart} {g : Guard} {rd rs : Reg} {v : Word}

/-! ### The state an instruction acts in -/

theorem issued_strand (s : State) (p : Fin 272) (n : Fin 64) : issued s (.strand p n) =
    bump (corePut s p.val { coreGet s p.val with lastStrand := n.val }) (regCorIssueCnt p.val) (1 + spinTurns s p.val n.val) := rfl

/-- Counting an issue changes a core's last strand and its registers alone. -/
theorem issued_only (s : State) (h : Hart) : issued s h = { s with cores := (issued s h).cores, csr := (issued s h).csr } := by
  cases h with
  | ctrl k => rfl
  | strand p n =>
    rw [issued_strand, bump_only]
    rfl

@[simp] theorem issued_pending (s : State) (h : Hart) : (issued s h).pending = s.pending := by rw [issued_only]
@[simp] theorem issued_freeCtr (s : State) (h : Hart) : (issued s h).freeCtr = s.freeCtr := by rw [issued_only]
@[simp] theorem issued_now (s : State) (h : Hart) : (issued s h).now = s.now := by rw [issued_only]
@[simp] theorem issued_gens (s : State) (h : Hart) : (issued s h).gens = s.gens := by rw [issued_only]
@[simp] theorem issued_hostMem (s : State) (h : Hart) : (issued s h).hostMem = s.hostMem := by rw [issued_only]
@[simp] theorem issued_rdy (s : State) (h : Hart) : (issued s h).rdy = s.rdy := by rw [issued_only]
@[simp] theorem issued_tsq (s : State) (h : Hart) : (issued s h).tsq = s.tsq := by rw [issued_only]
@[simp] theorem issued_ctrls (s : State) (h : Hart) : (issued s h).ctrls = s.ctrls := by rw [issued_only]
@[simp] theorem issued_sch (s : State) (h : Hart) : (issued s h).sch = s.sch := by rw [issued_only]
@[simp] theorem issued_hit (s : State) (h : Hart) : (issued s h).hit = s.hit := by rw [issued_only]
@[simp] theorem issued_chans (s : State) (h : Hart) : (issued s h).chans = s.chans := by rw [issued_only]
@[simp] theorem issued_emb (s : State) (h : Hart) : (issued s h).emb = s.emb := by rw [issued_only]
@[simp] theorem issued_plc (s : State) (h : Hart) : (issued s h).plc = s.plc := by rw [issued_only]
@[simp] theorem issued_hws (s : State) (h : Hart) : (issued s h).hws = s.hws := by rw [issued_only]
@[simp] theorem issued_upd (s : State) (h : Hart) : (issued s h).upd = s.upd := by rw [issued_only]
@[simp] theorem issued_boot (s : State) (h : Hart) : (issued s h).boot = s.boot := by rw [issued_only]
@[simp] theorem issued_keep (s : State) (h : Hart) : (issued s h).keep = s.keep := by rw [issued_only]

@[simp] theorem taskGet_issued (s : State) (h : Hart) (id : Nat) : taskGet (issued s h) id = taskGet s id := by simp [taskGet]
@[simp] theorem hitchGet_issued (s : State) (h : Hart) (x : Nat) : hitchGet (issued s h) x = hitchGet s x := by simp [hitchGet]
@[simp] theorem barGet_issued (s : State) (h : Hart) (x : Nat) : barGet (issued s h) x = barGet s x := by simp [barGet]
@[simp] theorem ctrlGet_issued (s : State) (h : Hart) (x : Nat) : ctrlGet (issued s h) x = ctrlGet s x := by simp [ctrlGet]

/-- Counting an issue changes registers of the core's own window alone. -/
theorem rget_issued {a : Nat} (ha : a < 0x2000000) (s : State) (h : Hart) : rget (issued s h) a = rget s a := by
  cases h with
  | ctrl k => rfl
  | strand p n =>
    rw [issued_strand]
    generalize spinTurns s p.val n.val = m
    unfold bump
    extract_lets k top v
    have hwin : corWindow (regCorIssueCnt p.val) = some p.val := by
      have := p.isLt
      unfold corWindow regCorIssueCnt
      rw [if_pos (by omega)]
      congr 1
      omega
    have hne : a ≠ regCorIssueCnt p.val := by unfold regCorIssueCnt; omega
    have hne' : a ≠ regCorEvents p.val := by unfold regCorEvents; omega
    split
    · rfl
    · split
      · exact rget_rset_ne _ hne
      · simp only [hwin, event]
        rw [rget_rset_ne _ hne', rget_rset_ne _ hne]
        rfl

/-- A strand's issue changes of its core's state the strand issued last alone. -/
theorem coreGet_issued (hc : Canonical s) (p : Fin 272) (n : Fin 64) :
    coreGet (issued s (.strand p n)) p.val = { coreGet s p.val with lastStrand := n.val } := by
  have e : coreGet (issued s (.strand p n)) p.val = coreGet (corePut s p.val { coreGet s p.val with lastStrand := n.val }) p.val := by
    rw [issued_strand, bump_only]
    rfl
  rw [e, coreGet_corePut_self hc]

/-! ### A change to one hart -/

theorem OnlyHart.issued (s : State) (h : Hart) : OnlyHart s (issued s h) h := ⟨rfl, fun k _ => hart_issued s h k⟩

/-- Whatever the hart itself becomes, nothing else has changed. -/
theorem OnlyHart.put (ht : OnlyHart s t h) (y : HartSt) : OnlyHart s (putHart t h y) h := by
  obtain ⟨e, hk⟩ := ht
  exact ⟨congrArg (fun u => { u with harts := (putHart t h y).harts }) e, fun k hne => (hart_putHart_ne y hne).trans (hk k hne)⟩

/-- A hart put once in the state of its issue. -/
theorem putHart_issued (hc : Canonical s) (y : HartSt) : OnlyHart s (putHart (issued s h) h y) h ∧ hart (putHart (issued s h) h y) h = y :=
  ⟨(OnlyHart.issued s h).put y, hart_putHart_self (issued_canonical hc h) h y⟩

theorem hart_setPc (hc : Canonical s) (a : BitVec 48) : hart (setPc s h a) h = { hart s h with pc := a } := hart_putHart_self hc _ _

/-- What an instruction that runs leaves behind. -/
theorem exec_runs {f : State → State} (hf : exec c s = spelled c h s (issue s h g f)) (hr : Runs s c h g) : exec c s = .next (f (issued s h)) :=
  hf.trans ((spelled_fetches _ hr.fetch).trans (issue_runs f hr))

/-! ### Branches and calls -/

theorem relTarget_eq (pc : BitVec 48) (imm : BitVec 32) : relTarget pc imm = pc + BitVec.ofInt 48 (8 * imm.toInt) := by
  rw [relTarget, BitVec.ofInt_mul, BitVec.mul_comm]
  rfl

theorem linkOf_eq (s : State) (h : Hart) : linkOf s h = BitVec.ofNat 64 (((hart s h).pc.toNat + 8) % 2 ^ 48) :=
  BitVec.eq_of_toNat_eq (by simp [linkOf])

theorem setReg_canonical (hc : Canonical s) : Canonical (setReg s h rd v) := canon_putHart hc _ _

/-- A branch moves the pc of its hart. -/
theorem setPc_issued (hc : Canonical s) (b : BitVec 48) :
    OnlyHart s (setPc (issued s h) h b) h ∧ hart (setPc (issued s h) h b) h = { hart s h with pc := b } := by
  rw [← hart_issued s h h]
  exact putHart_issued hc _

/-- A call writes its link, then moves the pc. -/
theorem setPc_setReg_issued (hc : Canonical s) (v : Word) (b : BitVec 48) :
    OnlyHart s (setPc (setReg (issued s h) h rd v) h b) h ∧
      hart (setPc (setReg (issued s h) h rd v) h b) h = { (hart s h).setReg rd v with pc := b } := by
  have hi := issued_canonical hc h
  refine ⟨((OnlyHart.issued s h).put _).put _, ?_⟩
  rw [hart_setPc (setReg_canonical hi) b, hart_setReg hi, hart_issued]

section jumps
variable {x : Word} {link : State → State}

theorem jumpReg_taken {a : Nat} (hal : x.toNat % 8 = 0) (hd : deviceAddr s x.toNat = some a) :
    jumpReg s h x link = setPc (link s) h (BitVec.ofNat 48 a) := by
  rw [jumpReg, if_neg (not_not.2 hal), hd]

theorem jumpReg_misaligned (hal : x.toNat % 8 ≠ 0) : jumpReg s h x link = demandFault s h 2 x.toNat := if_pos hal

theorem jumpReg_foreign (hal : x.toNat % 8 = 0) (hd : deviceAddr s x.toNat = none) : jumpReg s h x link = demandFault s h 3 x.toNat := by
  rw [jumpReg, if_neg (not_not.2 hal), hd]

end jumps

/-- Settles O9: a jump sets the pc of its hart and a call its link, and a bad target is a demand fault. -/
theorem branchesAndCalls : Obligations.BranchesAndCalls := by
  unfold Obligations.BranchesAndCalls
  intro s h g rd rs1 imm a hc x target link
  have hx : reg (issued s h) h rs1 = x := reg_issued s h h rs1
  have hlink : linkOf (issued s h) h = link := by rw [linkOf_eq, hart_issued]
  have htarget : relTarget (hart (issued s h) h).pc imm = target := by rw [relTarget_eq, hart_issued]
  have bri (hr : Runs s (.bri h g rs1) h g) : exec (.bri h g rs1) s = .next (jumpReg (issued s h) h x id) := by rw [exec_runs rfl hr, hx]
  have calli (hr : Runs s (.calli h g rd rs1) h g) :
      exec (.calli h g rd rs1) s = .next (jumpReg (issued s h) h x fun s => setReg s h rd (linkOf s h)) := by rw [exec_runs rfl hr, hx]
  refine ⟨fun hr => ⟨_, exec_runs rfl hr, ?_⟩, fun hr => ⟨_, exec_runs rfl hr, ?_⟩, fun hal hd => ⟨fun hr => ?_, fun hr => ?_⟩,
    fun hal => ⟨fun hr => ?_, fun hr => ?_⟩, fun hal hd => ⟨fun hr => ?_, fun hr => ?_⟩⟩
  · rw [htarget]
    exact setPc_issued hc _
  · rw [htarget, hlink]
    exact setPc_setReg_issued hc _ _
  · exact ⟨_, (bri hr).trans (congrArg _ (jumpReg_taken hal hd)), setPc_issued hc _⟩
  · refine ⟨_, (calli hr).trans (congrArg _ (jumpReg_taken hal hd)), ?_⟩
    rw [hlink]
    exact setPc_setReg_issued hc _ _
  · rw [bri hr, jumpReg_misaligned hal]
  · rw [calli hr, jumpReg_misaligned hal]
  · rw [bri hr, jumpReg_foreign hal hd]
  · rw [calli hr, jumpReg_foreign hal hd]

/-! ### Special registers and fences -/

@[simp] theorem applyAt_issued (s : State) (h : Hart) : applyAt (issued s h) = applyAt s := by
  simp only [applyAt, applyLen, period, fget, issued_tsq, rget_issued (show regTsqCfg < 0x2000000 by decide)]

@[simp] theorem special_issued (s : State) (h : Hart) (i : Nat) : special (issued s h) h i = special s h i := by
  simp only [special, hart_issued, taskGet_issued, issued_boot, issued_tsq, issued_now, applyAt_issued]

/-- MFS of an index that is listed. -/
theorem mfs_listed (hc : Canonical s) {x : BitVec 12} (hv : special s h x.toNat = some v) (hr : Runs s (.mfs h g rd x) h g) :
    ∃ t, exec (.mfs h g rd x) s = .next t ∧ Retired s t h rd v := by
  refine ⟨_, (exec_runs rfl hr).trans ?_, retire_retired hc⟩
  rw [special_issued, hv]

/-- MFS of an index that is not. -/
theorem mfs_unlisted {x : BitVec 12} (hv : special s h x.toNat = none) (hr : Runs s (.mfs h g rd x) h g) :
    exec (.mfs h g rd x) s = .next (illegal (issued s h) h) := by
  rw [exec_runs rfl hr, special_issued, hv]

/-- The indices of 03 R114 are all that is listed. -/
theorem special_none {i : Nat} (hi : (0x00C ≤ i ∧ i ≤ 0x00F) ∨ (0x018 ≤ i ∧ i ≤ 0x01F) ∨ 0x021 ≤ i) : special s h i = none := by
  have hn : ¬(0x010 ≤ i ∧ i ≤ 0x017) := by omega
  simp only [special]
  split
  case h_14 => exact if_neg hn
  all_goals omega

/-- On a control core what describes a task, a strand or a compute core reads 0 (03 R114). -/
theorem special_ctrl (s : State) (k : Fin 20) {y : BitVec 12}
    (hy : y ∈ [0x000#12, 0x001, 0x002, 0x003, 0x004, 0x005, 0x009, 0x00B, 0x010, 0x017]) : special s (.ctrl k) y.toNat = some 0 := by
  simp only [List.mem_cons, List.not_mem_nil, or_false] at hy
  rcases hy with rfl | rfl | rfl | rfl | rfl | rfl | rfl | rfl | rfl | rfl
  all_goals cases e : taskGet s (hart s (.ctrl k)).task <;> simp [special, e]

section strand
variable {p : Fin 272} {n : Fin 64} {x : Task}

/-- The entries of a strand's task (03 R114). -/
theorem special_task (hx : taskGet s (hart s (.strand p n)).task = some x) :
    special s (.strand p n) 0x001 = some (BitVec.ofNat 64 x.desc.flow) ∧ special s (.strand p n) 0x002 = some (BitVec.ofNat 64 x.desc.prio) ∧
      special s (.strand p n) 0x004 = some (BitVec.ofNat 64 x.lcore) := by
  simp [special, hx]

/-- The bounds of the four regions of a strand's task: the low one at the even index. -/
theorem special_region (hx : taskGet s (hart s (.strand p n)).task = some x) {i : Nat} (hi : i < 4) :
    special s (.strand p n) (BitVec.ofNat 12 (0x010 + 2 * i)).toNat = some (BitVec.ofNat 64 (regionBounds (x.desc.regions.getD i 0)).1) ∧
      special s (.strand p n) (BitVec.ofNat 12 (0x011 + 2 * i)).toNat = some (BitVec.ofNat 64 (regionBounds (x.desc.regions.getD i 0)).2) := by
  simp only [special, hx]
  match i, hi with
  | 0, _ | 1, _ | 2, _ | 3, _ => exact ⟨rfl, rfl⟩

theorem special_strand (s : State) (p : Fin 272) (n : Fin 64) : special s (.strand p n) 0x003 = some (BitVec.ofNat 64 n.val) := by
  have e : hartNo (.strand p n) % 64 = n.val := by simp only [hartNo]; omega
  simp [special, e]

end strand

/-- MTS of FFLAGS (03 R114). -/
theorem mts_fflags (hc : Canonical s) (v : BitVec 5) :
    OnlyHart s (nextPc (putHart (issued s h) h { hart (issued s h) h with fflags := v }) h) h ∧
      hart (nextPc (putHart (issued s h) h { hart (issued s h) h with fflags := v }) h) h =
        { hart s h with pc := (hart s h).pc + 8, fflags := v } := by
  have hi := issued_canonical hc h
  refine ⟨((OnlyHart.issued s h).put _).put _, ?_⟩
  rw [hart_nextPc (canon_putHart hi h _), hart_putHart_self hi, hart_issued]

/-- Settles O15: MFS and MTS follow the table of special registers, and a fence moves the pc alone. -/
theorem specialRegisters : Obligations.SpecialRegisters := by
  unfold Obligations.SpecialRegisters
  intro s h g rd a x hc
  refine ⟨fun hr => ⟨_, exec_runs rfl hr, nextPc_onlyHart hc⟩, fun hr => ⟨_, exec_runs rfl hr, nextPc_onlyHart hc⟩,
    mfs_listed hc rfl, mfs_listed hc rfl, mfs_listed hc rfl, mfs_listed hc rfl, mfs_listed hc rfl, ?strand, ?ctrl, ?fflags, ?other, ?unlisted⟩
  case strand =>
    rintro p n rfl
    refine ⟨mfs_listed hc rfl, mfs_listed hc (special_strand s p n), mfs_listed hc rfl, mfs_listed hc rfl, mfs_listed hc rfl, fun k hk => ?_⟩
    obtain ⟨hflow, hprio, hcore⟩ := special_task hk
    refine ⟨mfs_listed hc hflow, mfs_listed hc hprio, mfs_listed hc hcore, fun i hi => ?_⟩
    obtain ⟨hlow, hhigh⟩ := special_region hk hi
    exact ⟨mfs_listed hc hlow, mfs_listed hc hhigh⟩
  case ctrl =>
    rintro k rfl y hy
    exact mfs_listed hc (special_ctrl s k hy)
  case fflags =>
    intro hr
    refine ⟨_, exec_runs rfl hr, ?_⟩
    rw [if_pos (by decide), reg_issued]
    exact mts_fflags hc _
  case other =>
    intro hx hr
    rw [exec_runs rfl hr, if_neg fun e : x.toNat = 0x020 => hx (BitVec.eq_of_toNat_eq e)]
  case unlisted =>
    intro hx
    simp only [BitVec.le_def] at hx
    exact mfs_unlisted (special_none hx)

end Sys2Proof.Machine
end

section
/-! SUPPORT. Commands issued to the engines and the waits of strands: what holds a strand, and what ends its wait (03 R96-R98, R106-R108). -/

namespace Sys2Proof.Machine

variable {s t u : State} {c : Instr} {h k : Hart} {g : Guard} {rd rs : Reg} {v : Word} {p : Fin 272} {n : Fin 64}

/-! ### Retirement of a hart whose state was put before -/

/-- A result retired over whatever the hart's state was put to. -/
theorem retire_putHart (hc : Canonical s) (y : HartSt) :
    OnlyHart s (retire (putHart (issued s h) h y) h rd v) h ∧
      hart (retire (putHart (issued s h) h y) h rd v) h = { y.setReg rd v with pc := y.pc + 8 } := by
  have hi := issued_canonical hc h
  refine ⟨(((OnlyHart.issued s h).put _).put _).put _, ?_⟩
  rw [retire_hart (canon_putHart hi h y), hart_putHart_self hi]

/-- What a register write leaves of the other fields of a hart. -/
@[simp] theorem setReg_pc (y : HartSt) : (y.setReg rd v).pc = y.pc := by rw [setReg_rest]
@[simp] theorem setReg_st (y : HartSt) : (y.setReg rd v).st = y.st := by rw [setReg_rest]
@[simp] theorem setReg_drain (y : HartSt) : (y.setReg rd v).drain = y.drain := by rw [setReg_rest]

/-- A strand enters WAIT in the state of its issue. -/
theorem enterWait_issued (hc : Canonical s) (st : StrandState) (w : WaitFor) : OnlyHart s (enterWait (issued s h) h st w) h ∧
    hart (enterWait (issued s h) h st w) h = { hart s h with st := st, wait := w, deadline := waitDeadline (issued s h) } := by
  have := putHart_issued (h := h) hc { hart (issued s h) h with st := st, wait := w, deadline := waitDeadline (issued s h) }
  rw [hart_issued] at this
  unfold enterWait
  rw [hart_issued]
  exact this

/-! ### Waiting for commands (03 R108) -/

/-- A register names an outstanding command: its low half is the command's id, and the rest is 0. -/
theorem namesOutstanding_iff (hc : Canonical s) {x : Nat} :
    namesOutstanding (issued s (.strand p n)) p.val x = true ↔ 1 ≤ x ∧ x < 65536 ∧ ∃ c ∈ (coreGet s p.val).cmds, c.id = x := by
  simp [namesOutstanding, outstanding, coreGet_issued hc, and_assoc]

theorem placeStatus_holds {q x st : Nat} (hx : x ≠ 0) (hp : pfind (coreGet s q).places (x % 4096) = some (x, st)) : placeStatus s q x = st := by
  simp [placeStatus, hp, hx]

theorem placeStatus_stale {q x : Nat} (hx : x = 0 ∨ ∀ st, pfind (coreGet s q).places (x % 4096) ≠ some (x, st)) : placeStatus s q x = 0xFF := by
  unfold placeStatus
  split
  · rename_i id st e
    refine if_neg fun ⟨h0, hid⟩ => hx.elim h0 fun hn => hn st ?_
    rw [e, hid]
  · rfl

/-- QDRAINALL looks for the first status that is not 0. -/
theorem firstStatus_eq (l : List (Nat × Option Nat)) : firstStatus l = ((l.filterMap (·.2)).find? (· ≠ 0)).getD 0 := by
  induction l with
  | nil => rfl
  | cons d l ih =>
    obtain ⟨i, st⟩ := d
    match st with
    | none => simpa [firstStatus] using ih
    | some 0 => simpa [firstStatus] using ih
    | some (k + 1) => simp [firstStatus]

/-- Settles O17: each wait looks at the queue and the places of its core, or at the commands its strand drains. -/
theorem commandWaits : Obligations.CommandWaits := by
  unfold Obligations.CommandWaits
  intro s p n g rd a hc h x live
  have hx : (reg (issued s h) h a).toNat = x := by rw [reg_issued]
  have hlive : namesOutstanding (issued s h) p.val x = true ↔ live := namesOutstanding_iff hc
  have hplaces : (coreGet (issued s h) p.val).places = (coreGet s p.val).places := by rw [coreGet_issued hc]
  have qwait (hr : Runs s (.qwait h g rd a) h g) : exec (.qwait h g rd a) s = .next
      (if namesOutstanding (issued s h) p.val x = true then enterWait (issued s h) h .wait (.command x)
        else retire (issued s h) h rd (BitVec.ofNat 64 (placeStatus (issued s h) p.val x))) := by rw [exec_runs rfl hr, ← hx]; rfl
  have qpoll (hr : Runs s (.qpoll h g rd a) h g) : exec (.qpoll h g rd a) s = .next
      (retire (issued s h) h rd (if namesOutstanding (issued s h) p.val x = true then 0 else 1)) := by rw [exec_runs rfl hr, ← hx]; rfl
  have qdrain (hr : Runs s (.qdrainall h g rd) h g) : exec (.qdrainall h g rd) s = .next
      (if ((hart s h).drain.any fun d => d.2.isNone) = true then enterWait (issued s h) h .wait .drain
        else retire (putHart (issued s h) h { hart s h with drain := [] }) h rd (BitVec.ofNat 64 (firstStatus (hart s h).drain))) := by
    rw [exec_runs rfl hr, ← hart_issued s h h]; rfl
  have hdrain : ((hart s h).drain.any fun d => d.2.isNone) = true ↔ ∃ d ∈ (hart s h).drain, d.2 = none := by simp
  refine ⟨fun hl hr => ?_, fun hl hr => ?_, fun st hl h0 hp hr => ?_, fun hl hp hr => ?_, fun hl hr => ?_, fun hd hr => ?_, fun hd hr => ?_⟩
  · rw [qwait hr, if_pos (hlive.2 hl)]
    exact ⟨_, rfl, enterWait_issued hc _ _⟩
  · rw [qpoll hr, if_pos (hlive.2 hl)]
    exact ⟨_, rfl, retire_retired hc⟩
  · rw [qwait hr, if_neg (hlive.not.2 hl), placeStatus_holds h0 (by rw [hplaces, hp])]
    exact ⟨_, rfl, retire_retired hc⟩
  · rw [qwait hr, if_neg (hlive.not.2 hl), placeStatus_stale (by rwa [hplaces])]
    exact ⟨_, rfl, retire_retired hc⟩
  · rw [qpoll hr, if_neg (hlive.not.2 hl)]
    exact ⟨_, rfl, retire_retired hc⟩
  · rw [qdrain hr, if_pos (hdrain.2 hd)]
    exact ⟨_, rfl, enterWait_issued hc _ _⟩
  · rw [qdrain hr, if_neg (hdrain.not.2 fun ⟨d, hm, e⟩ => hd d hm e), firstStatus_eq]
    obtain ⟨honly, hput⟩ := retire_putHart (rd := rd) (v := BitVec.ofNat 64 ((((hart s h).drain.filterMap (·.2)).find? (· ≠ 0)).getD 0)) hc
      { hart s h with drain := [] }
    refine ⟨_, rfl, honly, hput.trans ?_⟩
    unfold HartSt.setReg
    split <;> rfl

/-! ### The end of a wait (03 R96-R98; 11 R422, R435) -/

/-- What an answer leaves of a hart in SPIN. -/
theorem hart_answer (hc : Canonical s) : hart (answer s h rd v) h =
    { (hart s h).setReg rd v with st := .ready, wait := .nothing, deadline := 0, pc := (hart s h).pc + 8 } := hart_putHart_self hc _ _

theorem reg_answer (hc : Canonical s) : reg (answer s h rd v) h rd = if rd.val = 0 then 0 else v := by
  have := setReg_get (hart s h) rd rd v
  rw [if_pos (Eq.refl rd)] at this
  rw [reg, hart_answer hc]
  exact this

/-- A result word as the hitches give it (11 R420). -/
theorem wordFor_zero (s : State) (x : Nat) : wordFor s x 0 = resultWord (hitchGet s (x % 65536)) 0 := by
  unfold wordFor hitchWord resultWord b2n
  split <;> simp

/-- The turn of a caller in SPIN is the one every instruction takes. -/
theorem spinTurn_eq (s : State) (h : Hart) : spinTurn s h = issued s h := by cases h <;> rfl

/-- The state that a caller in SPIN leaves for READY. -/
theorem answer_ready (hu : OnlyHart s u h) (hcu : Canonical u) (hpc : (hart u h).pc = (hart s h).pc) :
    (hart (answer u h rd v) h).st = .ready ∧ (hart (answer u h rd v) h).pc = (hart s h).pc + 8 ∧
      reg (answer u h rd v) h rd = (if rd.val = 0 then 0 else v) ∧ answer u h rd v = { issued s h with harts := (answer u h rd v).harts } := by
  rw [hart_answer hcu, reg_answer hcu, hpc]
  exact ⟨rfl, rfl, rfl, (hu.put _).1⟩

/-- A deadline stands before or after the apply point whether or not device time has moved on to it. -/
theorem applyAt_advance (s : State) (x : Nat) : applyAt (advance s x) = applyAt s := by
  simp only [applyAt, applyLen, period, fget, rget, advance_tsq, advance_csr]

/-- Settles O29: a wait ends by its condition, at a turn of its own, or at its deadline. -/
theorem waitsEnd : Obligations.WaitsEnd := by
  unfold Obligations.WaitsEnd
  intro s h rd hc
  have hi := issued_canonical hc h
  refine ⟨fun hst hover => ?ends, fun l hst hw hl hrel => ?released, fun l hst hw hl hq => ?queued, fun b r hst hw hk hb hround => ?barrier,
    fun hst hd => ?deadline⟩
  case ends =>
    refine ⟨_, if_neg (by simp [hst, hover]), ?_⟩
    refine ⟨?_, ?_, ?_, ?_, fun k hk => hart_putHart_ne _ hk, rfl⟩
    all_goals rw [hart_putHart_self hc]
  case released =>
    have e : exec (.strandReleaseSeen h) s =
        .next (answer (putHart (issued s h) h { hart s h with hLatch := some { l with st := .taken } }) h rd (wordFor (issued s h) l.hitch 0)) := by
      rw [exec_strandReleaseSeen, execStrandReleaseSeen]
      rcases hrel with hrel | hrel <;> simp [hst, hw, hl, hrel, spinTurn_eq]
    rw [e, wordFor_zero, hitchGet_issued]
    have hy : hart (putHart (issued s h) h { hart s h with hLatch := some { l with st := .taken } }) h = _ := hart_putHart_self hi _ _
    exact ⟨_, rfl, answer_ready ((OnlyHart.issued s h).put _) (canon_putHart hi _ _) (by rw [hy])⟩
  case queued =>
    rw [exec_strandReleaseSeen, execStrandReleaseSeen]
    simp [hst, hw, hl, hq, spinTurn_eq]
  case barrier =>
    have e : exec (.strandReleaseSeen h) s = .next (answer (issued s h) h rd (knotWord r 0)) := by
      rw [exec_strandReleaseSeen, execStrandReleaseSeen]
      simp [hst, hw, hk, hb, spinTurn_eq, roundOver, latchedRound, hround]
    rw [e, knotWord, Nat.add_zero]
    exact ⟨_, rfl, answer_ready (OnlyHart.issued s h) hi (by rw [hart_issued])⟩
  case deadline =>
    intro s'
    have hin : ¬(((hart s h).st ≠ .wait ∧ (hart s h).st ≠ .spin) ∨ (hart s h).deadline = 0) := by
      rcases hst with hst | hst <;> simp [hst, hd]
    have htick : s'.tsq.running = s.tsq.running := by rw [advance_tsq]
    have hap : applyAt s' = applyAt s := applyAt_advance s _
    have cut (hrun : s.tsq.running = true) (hle : applyAt s ≤ (hart s h).deadline) : exec (.strandTimeout h) s = .next s' := by
      rw [exec_strandTimeout, execStrandTimeout]
      exact (if_neg hin).trans (if_pos ⟨htick.trans hrun, hap.trans_le hle⟩)
    refine ⟨cut, fun hlt => ⟨?_, ?_⟩⟩
    all_goals
      have hlate : ¬(s'.tsq.running = true ∧ applyAt s' ≤ (hart s h).deadline) := fun ⟨hrun, hle⟩ =>
        absurd (hlt (htick.symm.trans hrun)) (Nat.not_lt.2 (hap ▸ hle))
      rw [exec_strandTimeout, execStrandTimeout]
    · rintro p n rfl
      exact (if_neg hin).trans (if_neg hlate)
    · rintro k rfl
      exact (if_neg hin).trans (if_neg hlate)

/-! ### Issuing a command (03 R106, R107) -/

/-- What memory holds rests on its bytes alone. -/
theorem readBytes_congr (e : t.mem = s.mem) (a n : Nat) : readBytes t a n = readBytes s a n := by
  induction n generalizing a with
  | zero => rfl
  | succ n ih => rw [readBytes, readBytes, ih, byteAt_congr e]

theorem readNat_congr (e : t.mem = s.mem) (a n : Nat) : readNat t a n = readNat s a n := congrArg leNat (readBytes_congr e a n)

@[simp] theorem readBytes_issued (s : State) (h : Hart) (a n : Nat) : readBytes (issued s h) a n = readBytes s a n := readBytes_congr (issued_mem s h) a n
@[simp] theorem readNat_issued (s : State) (h : Hart) (a n : Nat) : readNat (issued s h) a n = readNat s a n := readNat_congr (issued_mem s h) a n

theorem accepted_canonical (hc : Canonical s) : Canonical (accepted s h) := canon_putHart hc _ _

theorem hart_accepted (hc : Canonical s) : hart (accepted s h) h = { hart s h with deadline := 0 } := hart_putHart_self hc _ _

theorem corePut_canonical (hc : Canonical s) (p : Nat) (x : CoreSt) : Canonical (corePut s p x) :=
  (kept_corePut (Q := ⟨s.pending, tickClock s⟩) ⟨rfl, rfl, hc⟩).canon

/-- The command that an issue puts into the queue of its core. -/
def newCmd (s : State) (h : Hart) (kind : CmdKind) (size p x dep : Nat) : Cmd :=
  ⟨(coreGet s p).nextId, kind, readBytes s (spBase p + x) size, if outstanding s p dep then dep else 0, (hart s h).task, hartNo h % 64, false, 0, [],
    0, 0, [], [], [], false, []⟩

section issueCmd
variable {kind : CmdKind} {size x y : Nat}

/-- An offset that is no multiple of the descriptor's size. -/
theorem issueCmd_misaligned {rs1 rs2 : Reg} (hal : (reg s (.strand p n) rs1).toNat % size ≠ 0) :
    issueCmd s (.strand p n) kind size rd rs1 rs2 = demandFault s (.strand p n) 2 (reg s (.strand p n) rs1).toNat := if_pos hal

/-- An offset outside the scratchpad. -/
theorem issueCmd_outside {rs1 rs2 : Reg} (hal : (reg s (.strand p n) rs1).toNat % size = 0) (hx : 0x400000 ≤ (reg s (.strand p n) rs1).toNat) :
    issueCmd s (.strand p n) kind size rd rs1 rs2 = demandFault s (.strand p n) 3 (reg s (.strand p n) rs1).toNat :=
  (if_neg (not_not.2 hal)).trans (if_pos hx)

/-- A full queue. -/
theorem issueCmd_full {rs1 rs2 : Reg} (hal : (reg s (.strand p n) rs1).toNat % size = 0) (hx : (reg s (.strand p n) rs1).toNat < 0x400000)
    (hq : 256 ≤ (coreGet s p.val).cmds.length) : issueCmd s (.strand p n) kind size rd rs1 rs2 = waitRoom s (.strand p n) .queueRoom :=
  (if_neg (not_not.2 hal)).trans ((if_neg (Nat.not_le.2 hx)).trans (if_pos hq))

/-- A core with one more command in its queue. -/
def queuedCore (s : State) (p : Nat) (cmd : Cmd) : State :=
  corePut s p { coreGet s p with nextId := idAfter (coreGet s p).nextId, cmds := (coreGet s p).cmds ++ [cmd] }

/-- The state after a command is queued: its core has one more, the strand drains one more, and rd holds the id. -/
def queuedState (s : State) (h : Hart) (p : Nat) (rd : Reg) (cmd : Cmd) : State :=
  retire (accepted (putHart (queuedCore s p cmd) h { hart s h with drain := (hart s h).drain ++ [((coreGet s p).nextId, none)] }) h) h rd
    (BitVec.ofNat 64 (coreGet s p).nextId)

/-- A descriptor that finds room. -/
theorem issueCmd_queued {rs1 rs2 : Reg} (hal : (reg s (.strand p n) rs1).toNat % size = 0) (hx : (reg s (.strand p n) rs1).toNat < 0x400000)
    (hq : (coreGet s p.val).cmds.length < 256) : issueCmd s (.strand p n) kind size rd rs1 rs2 =
      queuedState s (.strand p n) p.val rd (newCmd s (.strand p n) kind size p.val (reg s (.strand p n) rs1).toNat (reg s (.strand p n) rs2).toNat) :=
  (if_neg (not_not.2 hal)).trans ((if_neg (Nat.not_le.2 hx)).trans (if_neg (Nat.not_le.2 hq)))

end issueCmd

/-- A hart put where harts and cores alone have changed. -/
theorem putHart_harts_cores (e : u = { s with harts := u.harts, cores := u.cores }) (y : HartSt) :
    putHart u h y = { s with harts := (putHart u h y).harts, cores := (putHart u h y).cores } :=
  congrArg (fun w => { w with harts := (putHart u h y).harts }) e

theorem queuedState_only (s : State) (h : Hart) (p : Nat) (rd : Reg) (cmd : Cmd) : queuedState s h p rd cmd =
    { s with harts := (queuedState s h p rd cmd).harts, cores := (queuedState s h p rd cmd).cores } :=
  putHart_harts_cores (putHart_harts_cores (putHart_harts_cores (putHart_harts_cores (u := queuedCore s p cmd) rfl _) _) _) _

/-- What queueing a command leaves of the strand's state and of its core. -/
theorem queuedState_spec (hc : Canonical s) (cmd : Cmd) :
    hart (queuedState s h p.val rd cmd) h = { (hart s h).setReg rd (BitVec.ofNat 64 (coreGet s p.val).nextId) with
        pc := (hart s h).pc + 8, deadline := 0, drain := (hart s h).drain ++ [((coreGet s p.val).nextId, none)] } ∧
      (∀ k, k ≠ h → hart (queuedState s h p.val rd cmd) k = hart s k) ∧
      coreGet (queuedState s h p.val rd cmd) p.val =
        { coreGet s p.val with nextId := idAfter (coreGet s p.val).nextId, cmds := (coreGet s p.val).cmds ++ [cmd] } := by
  have h1 : Canonical (queuedCore s p.val cmd) := corePut_canonical hc _ _
  have hcore : coreGet (queuedState s h p.val rd cmd) p.val = coreGet (queuedCore s p.val cmd) p.val := by
    simp only [coreGet, queuedState, accepted, retire_cores, putHart_cores]
  refine ⟨?_, fun k hk => ?_, hcore.trans (coreGet_corePut_self hc _ _)⟩
  all_goals unfold queuedState
  · rw [retire_hart (accepted_canonical (canon_putHart h1 h _)), hart_accepted (canon_putHart h1 h _), hart_putHart_self h1]
    unfold HartSt.setReg
    split <;> rfl
  · rw [retire_other hk, accepted, hart_putHart_ne _ hk, hart_putHart_ne _ hk]
    rfl

/-- Every instruction that issues a command does so in one way. -/
theorem queueOf_issue {a b : Reg} {kind : CmdKind} {size : Nat} (e : queueOf c = some (h, g, rd, a, b, kind, size)) :
    exec c s = spelled c h s (issue s h g fun s => issueCmd s h kind size rd a b) := by
  cases c with
  | qgather | qlookup | qchain | qmat | qsend => cases e; rfl
  | _ => cases e

/-- Settles O16: a strand's command enters its core's queue, or finds it full, or has a bad offset. -/
theorem commandIssue : Obligations.CommandIssue := by
  unfold Obligations.CommandIssue
  intro s c h g rd a b kind size hc e hr s' x
  have hexec : exec c s = .next (issueCmd s' h kind size rd a b) := exec_runs (queueOf_issue e) hr
  have hx : (reg s' h a).toNat = x := by rw [reg_issued]
  rw [hexec]
  refine ⟨?_, ?_⟩
  · rintro k rfl
    rfl
  · rintro p n rfl
    have hcore : coreGet s' p.val = { coreGet s p.val with lastStrand := n.val } := coreGet_issued hc p n
    have hlen : (coreGet s' p.val).cmds = (coreGet s p.val).cmds := by rw [hcore]
    refine ⟨fun hal => ?_, fun hal hout => ?_, fun hal hin hq => ?_, fun hal hin hq => ?_⟩
    · rw [issueCmd_misaligned (by rwa [hx]), hx]
    · rw [issueCmd_outside (by rwa [hx]) (by rwa [hx]), hx]
    · rw [issueCmd_full (by rwa [hx]) (by rwa [hx]) (by rwa [hlen])]
      have hy : hart (waitRoom s' (.strand p n) .queueRoom) (.strand p n) = _ := hart_putHart_self (issued_canonical hc _) _ _
      refine ⟨_, rfl, (OnlyHart.issued _ _).put _, ?_⟩
      rw [hy]
      refine ⟨rfl, rfl, ?_⟩
      show (hart s' (.strand p n)).pc = _
      rw [hart_issued]
    · intro id
      rw [issueCmd_queued (by rwa [hx]) (by rwa [hx]) (by rwa [hlen])]
      obtain ⟨hself, hother, hput⟩ := queuedState_spec (h := .strand p n) (p := p) (rd := rd) (issued_canonical hc (.strand p n))
        (newCmd s' (.strand p n) kind size p.val (reg s' (.strand p n) a).toNat (reg s' (.strand p n) b).toNat)
      have hid : (coreGet s' p.val).nextId = id := by rw [hcore]
      refine ⟨_, rfl, queuedState_only s' _ _ _ _, fun k hk => (hother k hk).trans (hart_issued s _ k), ?_, ?_, ?_⟩
      · rw [hself, hart_issued, hid]
      · rw [hput, hid]
        rfl
      · rw [hput]
        simp [newCmd, outstanding, hcore, id, x, hartNo, s']

end Sys2Proof.Machine
end

section
/-! SUPPORT. Loads of device memory: what an access reaches, the lowest cause that ends it, and the extension of what it reads (03 R102, R115-R117, R126). -/

namespace Sys2Proof.Machine

variable {s t u : State} {c : Instr} {h k : Hart} {g : Guard} {rd rs : Reg} {v : Word} {p : Fin 272} {n : Fin 64}

/-! ### The cause that ends an access (03 R126) -/

section cause
variable {w len d cause : Nat} {kind : Access}

theorem accessCause_misaligned (hal : w % len ≠ 0) : accessCause s w len kind = some 2 := if_pos hal

theorem accessCause_foreign (hal : w % len = 0) (hd : deviceAddr s w = none) : accessCause s w len kind = some 3 := by
  rw [accessCause, if_neg (not_not.2 hal), hd]

theorem accessCause_unreached (hal : w % len = 0) (hd : deviceAddr s w = some d) (hm : mayReach s d kind = false) :
    accessCause s w len kind = some 3 := by
  rw [accessCause, if_neg (not_not.2 hal), hd]
  exact if_pos (by rw [hm]; rfl)

/-- What is left to hold of an access that reaches its address: a protected page, and then what it reads. -/
theorem accessCause_reached (hal : w % len = 0) (hd : deviceAddr s w = some d) (hm : mayReach s d kind = true) :
    accessCause s w len kind =
      if kind ≠ .load ∧ protectedAt s d len = true then some 4 else if kind = .store then none else readCause s d len := by
  rw [accessCause, if_neg (not_not.2 hal), hd]
  exact if_neg (by rw [hm]; exact Bool.false_ne_true)

theorem mayReach_load (s : State) (d : Nat) : mayReach s d .load = reachable s d := by simp [mayReach]
theorem mayReach_store (s : State) (d : Nat) : mayReach s d .store = reachable s d := by simp [mayReach]
theorem mayReach_atomic (s : State) (d : Nat) : mayReach s d .atomic = (reachable s d && !(space d == .slow)) := by simp [mayReach]

theorem reached_eq (hd : deviceAddr s w = some d) : reached s w = d := by rw [reached, hd]; rfl

/-- A cause other than MEM_UNCORR counts nothing at a channel. -/
theorem failAccess_uncounted (hk : cause ≠ 5) : failAccess s h w len cause = demandFault s h cause w := by rw [failAccess, if_neg hk]

theorem failAccess_read (hd : deviceAddr s w = some d) :
    failAccess s h w len cause = demandFault (if cause = 5 then badRead s d len else s) h cause w := by rw [failAccess, reached_eq hd]

end cause

/-! ### Loads -/

/-- A load that a cause ends. -/
theorem loadDevice_fails {w len cause : Nat} {ext : Nat → Word} (hk : accessCause s w len .load = some cause) :
    loadDevice h rd w len ext s = failAccess s h w len cause := by rw [loadDevice, hk]

/-- A load that nothing ends. -/
theorem loadDevice_reads {w len d : Nat} {ext : Nat → Word} (hk : accessCause s w len .load = none) (hd : deviceAddr s w = some d) :
    loadDevice h rd w len ext s = retire s h rd (ext (readNat s d len)) := by rw [loadDevice, hk, reached_eq hd]

/-- The sign extension of a loaded value. -/
theorem sext_eq (b : Nat) (hb : 0 < b) : sext b = fun v => (BitVec.ofNat b v).signExtend 64 := by
  funext v
  unfold sext sint BitVec.signExtend
  congr 1
  obtain ⟨m, rfl⟩ : ∃ m, b = m + 1 := ⟨b - 1, by omega⟩
  rw [BitVec.toInt_eq_toNat_cond, BitVec.toNat_ofNat, Nat.add_sub_cancel]
  have hp : 2 ^ (m + 1) = 2 * 2 ^ m := by rw [Nat.pow_succ, Nat.mul_comm]
  extract_lets x
  by_cases hx : x < 2 ^ m
  · rw [if_pos hx, if_pos (by omega)]
  · rw [if_neg hx, if_neg (by omega)]
    push_cast
    rfl

/-- Every load does so in one way, with its own size and extension. -/
theorem loadOf_issue {a : Reg} {sp : Bool} {i : BitVec 32} {len : Nat} {ext : Nat → Word} (e : loadOf c = some (h, g, rd, a, sp, i, len, ext)) :
    exec c s = spelled c h s (issue s h g fun s =>
      if sp then loadControl h rd (addrOfAccess s h a i) len ext s else loadDevice h rd (addrOfAccess s h a i) len ext s) := by
  cases c with
  | ld8u | ld16u | ld32u | ld64 => cases e; rfl
  | ld8s => cases e; rw [← sext_eq 8 (by decide)]; rfl
  | ld16s => cases e; rw [← sext_eq 16 (by decide)]; rfl
  | ld32s => cases e; rw [← sext_eq 32 (by decide)]; rfl
  | _ => cases e

@[simp] theorem addrOfAccess_issued (s : State) (h : Hart) (a : Reg) (i : BitVec 32) : addrOfAccess (issued s h) h a i = addrOfAccess s h a i := by
  rw [addrOfAccess, reg_issued]
  rfl

/-- Settles O11: a load ends with its lowest cause, and without one it retires what it reads. -/
theorem loads : Obligations.Loads := by
  unfold Obligations.Loads
  intro s c h g rd a i n ext hc e hr s' w
  have hexec : exec c s = .next (loadDevice h rd w n ext s') := by
    rw [exec_runs (loadOf_issue e) hr, addrOfAccess_issued]
    rfl
  have hread (d : Nat) (hal : w % n = 0) (hd : deviceAddr s' w = some d) (hm : reachable s' d = true) :
      accessCause s' w n .load = readCause s' d n :=
    (accessCause_reached hal hd (by rwa [mayReach_load])).trans ((if_neg (by simp)).trans (if_neg (by simp)))
  rw [hexec]
  refine ⟨fun d hal hd hm hn => ?_, fun hal => ?_, fun hal hd => ?_, fun d hal hd hm => ?_, fun d k hal hd hm hk => ?_⟩
  · rw [loadDevice_reads ((hread d hal hd hm).trans hn) hd, readNat_issued]
    exact ⟨_, rfl, retire_retired hc⟩
  · rw [loadDevice_fails (accessCause_misaligned hal), failAccess_uncounted (by decide)]
  · rw [loadDevice_fails (accessCause_foreign hal hd), failAccess_uncounted (by decide)]
  · rw [loadDevice_fails (accessCause_unreached hal hd (by rwa [mayReach_load])), failAccess_uncounted (by decide)]
  · rw [loadDevice_fails ((hread d hal hd hm).trans hk), failAccess_read hd]

end Sys2Proof.Machine
end

section
/-! SUPPORT. Stores and atomics: what one write of a strand changes, and what an atomic makes of the old value (03 R102, R104, R116, R117; 12 R453, R474). -/

namespace Sys2Proof.Machine

variable {s t u : State} {c : Instr} {h k : Hart} {g : Guard} {rd rs : Reg} {v : Word} {p : Fin 272} {n : Fin 64}

/-! ### Little-endian numbers (00 R4) -/

@[simp] theorem natLe_length (n v : Nat) : (natLe n v).length = n := by
  induction n generalizing v with
  | zero => rfl
  | succ n ih => exact congrArg (· + 1) (ih _)

theorem natLe_getD {n i : Nat} (v : Nat) (hi : i < n) : (natLe n v).getD i 0 = BitVec.ofNat 8 (v / 256 ^ i) := by
  induction n generalizing v i with
  | zero => omega
  | succ n ih =>
    cases i with
    | zero => simp [natLe]
    | succ i =>
      rw [natLe, List.getD_cons_succ, ih _ (by omega), Nat.div_div_eq_div_mul, Nat.pow_succ']

@[simp] theorem readBytes_length (s : State) (a n : Nat) : (readBytes s a n).length = n := by
  induction n generalizing a with
  | zero => rfl
  | succ n ih => exact congrArg (· + 1) (ih _)

theorem leNat_lt (l : List Byte) : leNat l < 256 ^ l.length := by
  induction l with
  | nil => decide
  | cons b l ih =>
    have := b.isLt
    rw [leNat, List.length_cons, Nat.pow_succ]
    omega

theorem readNat_lt (s : State) (a n : Nat) : readNat s a n < 256 ^ n := by
  have := leNat_lt (readBytes s a n)
  rwa [readBytes_length] at this

/-! ### An aligned access lies in one unit (12 R448, R453) -/

/-- The sizes of 03 R116. -/
def AccessSize (n : Nat) : Prop := n = 1 ∨ n = 2 ∨ n = 4 ∨ n = 8

section aligned
variable {w d len : Nat}

/-- An aligned address value names an aligned address of this device. -/
theorem deviceAddr_aligned (hn : AccessSize len) (hal : w % len = 0) (hd : deviceAddr s w = some d) : d % len = 0 := by
  have hcases : d = w ∨ d = w % 2 ^ 48 := by
    unfold deviceAddr at hd
    split at hd
    · exact .inl (Option.some.inj hd).symm
    · split at hd
      · exact .inr (Option.some.inj hd).symm
      · cases hd
  rcases hn with rfl | rfl | rfl | rfl <;> omega

/-- Aligned bytes lie in one 64-byte unit, and those of the HBM below its end. -/
theorem aligned_unit (hn : AccessSize len) (hal : d % len = 0) : d % 64 + len ≤ 64 ∧ (space d = .hbm → d + len ≤ 0x6000000000) := by
  rw [space_hbm_iff]
  rcases hn with rfl | rfl | rfl | rfl <;> omega

theorem AccessSize.pos (hn : AccessSize len) : len ≠ 0 := by rcases hn with rfl | rfl | rfl | rfl <;> decide

/-- The channel of an HBM address. -/
theorem chanOf_fst (s : State) (a : Nat) : (chanOf s a).1 =
    if a < interleaved s then 64 * (a / 256 % 192 / 64) + Nat.xor (a / 256 % 192 % 64) (a / 256 / 192 % 64) else (a - interleaved s) / localBytes s :=
  apply_ite Prod.fst _ _ _

/-- The interleave and the local windows go by whole blocks of 256 bytes (12 R448). -/
theorem chanOf_block (s : State) (a : Nat) : (chanOf s (a / 256 * 256)).1 = (chanOf s a).1 := by
  obtain ⟨w, hw⟩ : ∃ w, localBytes s = 256 * w := ⟨fget s regMemCfg 63 52 * 2 ^ 12, by unfold localBytes; omega⟩
  obtain ⟨i, hi⟩ : ∃ i, interleaved s = 256 * i := ⟨192 * (2 ^ 23 - w), by unfold interleaved; rw [hw]; omega⟩
  rw [chanOf_fst, chanOf_fst, hw, hi, Nat.mul_div_cancel _ (by decide : 0 < 256)]
  by_cases hlt : a < 256 * i
  · rw [if_pos hlt, if_pos (by omega)]
  · rw [if_neg hlt, if_neg (by omega), ← Nat.div_div_eq_div_mul, ← Nat.div_div_eq_div_mul]
    congr 1
    omega

/-- The channels under a block, as a read asks for them. -/
def chansUnder (s : State) (a n : Nat) : List Nat :=
  ((List.range ((a % 256 + n + 255) / 256)).map fun k => (chanOf s (a / 256 * 256 + 256 * k)).1).eraseDups

theorem readCause_hbm {a n : Nat} (ha : space a = .hbm) : readCause s a n =
    if (chansUnder s a n).any (fun c => (chanGet s c).lost) then some 5
    else if (chansUnder s a n).any (fun c => greyAt s (idxChan c)) then some 0xD
    else if unitBad s a n then some 5 else none := by
  rw [readCause, ha]
  rfl

/-- What a read that ends with no cause says of the channel and the units under it (12 R464, R474). -/
theorem readCause_none (hn : len ≠ 0) (hr : readCause s d len = none) : chanLost s d = false ∧ unitBad s d len = false := by
  by_cases hsp : space d = .hbm
  · rw [readCause_hbm hsp] at hr
    have hmem : (chanOf s d).1 ∈ chansUnder s d len :=
      List.mem_eraseDups.2 (List.mem_map.2 ⟨0, List.mem_range.2 (by omega), by rw [Nat.mul_zero, Nat.add_zero, chanOf_block]⟩)
    split_ifs at hr with hlost hgrey hbad
    refine ⟨?_, Bool.eq_false_iff.2 hbad⟩
    unfold chanLost
    rw [hsp]
    exact Bool.eq_false_iff.2 fun e => hlost (List.any_eq_true.2 ⟨_, hmem, e⟩)
  · refine ⟨?_, unitBad_other hsp⟩
    unfold chanLost
    split
    · contradiction
    · rfl

end aligned

/-! ### One write of a strand (03 R117; 06 R251; 12 R453, R474) -/

/-- What a write of a strand may change: a write's side, and what the matrix engines' drains hold. -/
def StoreSide (s t : State) : Prop :=
  t = { s with csr := t.csr, rdy := t.rdy, flt := t.flt, pci := t.pci, mgmt := t.mgmt, chans := t.chans, mem := t.mem, gens := t.gens,
               cores := t.cores, freeCtr := t.freeCtr }

/-- What a spoilt drain may change: the engines' own state, and the free values drawn. -/
def EngineSide (s t : State) : Prop := t = { s with cores := t.cores, freeCtr := t.freeCtr }

theorem EngineSide.refl (s : State) : EngineSide s s := rfl

theorem fillDrain_side (s : State) (p : Nat) (m : MatSt) (id : Nat) : EngineSide s (fillDrain s p m id) := rfl

theorem EngineSide.trans (h : EngineSide s t) (k : EngineSide t u) : EngineSide s u := by
  unfold EngineSide at *
  rw [k, h]

theorem spoilParts_side (s : State) (a n : Nat) : EngineSide s (spoilParts s a n) := by
  unfold spoilParts
  split
  · extract_lets m area s1
    have h1 : EngineSide s s1 := by
      show EngineSide s (if _ then _ else _)
      split
      · rfl
      · rfl
    split
    · exact h1
    · split
      · exact h1.trans ((fillDrain_side s1 _ _ _).trans rfl)
      · exact h1
  · rfl

theorem EngineSide.store (h : EngineSide s t) : StoreSide s t := by
  unfold EngineSide at h
  unfold StoreSide
  rw [h]

theorem MemSide.store (h : MemSide s t) : StoreSide s t := by
  unfold MemSide at h
  unfold StoreSide
  rw [h]

theorem StoreSide.trans (h : StoreSide s t) (k : StoreSide t u) : StoreSide s u := by
  unfold StoreSide at *
  rw [k, h]

theorem StoreSide.harts (h : StoreSide s t) : t.harts = s.harts := by rw [h]

/-- A write dropped at a channel is counted and noted there. -/
def droppedAt (s : State) (place : Nat × Nat) : State := chanErr (bump1 s (regMemChDropped place.1)) place.1 4 0 (place.2 / 64 * 64)

theorem droppedAt_side (s : State) (place : Nat × Nat) : ChanSide s (droppedAt s place) := ((bump_side s _ 1).trans (rset_side _ _ _)).chan

/-- A write that lies in one unit is dropped whole or taken whole (12 R474). -/
theorem taskWrite_unit {a : Nat} {l : List Byte} (h0 : l.length ≠ 0) (hl : a % 64 + l.length ≤ 64) :
    taskWrite s a l = if chanLost s a then droppedAt s (chanOf s a) else memWrite s a l := by
  unfold taskWrite
  rw [unitParts_one _ _ _ h0 hl]
  show (if (List.any [(a, l.length)] fun p => chanLost s p.1) = true then List.foldl _ s [(a, l.length)] else memWrite s a l) = _
  rw [List.any_cons, List.any_nil, Bool.or_false, List.foldl_cons, List.foldl_nil]
  split
  · show (match chanOf s a with | (c, o) => chanErr (bump1 s (regMemChDropped c)) c 4 0 (o / 64 * 64)) = _
    cases chanOf s a
    rfl
  · rfl

theorem taskWrite_side {a : Nat} {l : List Byte} (h0 : l.length ≠ 0) (hl : a % 64 + l.length ≤ 64) : MemSide s (taskWrite s a l) := by
  rw [taskWrite_unit h0 hl]
  split
  · exact (droppedAt_side s _).memory
  · exact memWrite_side s a l

/-- A strand's write changes nothing beside memory and what takes the write. -/
theorem strandWrite_side {a : Nat} {l : List Byte} (h0 : l.length ≠ 0) (hl : a % 64 + l.length ≤ 64) : StoreSide s (strandWrite s a l) :=
  (spoilParts_side s a l.length).store.trans (taskWrite_side h0 hl).store

theorem strandWrite_canonical (hc : Canonical s) (a : Nat) (l : List Byte) : Canonical (strandWrite s a l) :=
  (kept_strandWrite (kept_self hc)).canon

/-- A spoilt drain changes nothing of memory or its channels. -/
theorem EngineSide.memory (h : EngineSide s t) (a n : Nat) :
    t.mem = s.mem ∧ chanLost t a = chanLost s a ∧ unitBad t a n = unitBad s a n := by
  have hmem : t.mem = s.mem := by rw [h]
  have hget : chanGet t = chanGet s := by rw [h]; rfl
  have hcfg : rget t regMemCfg = rget s regMemCfg := by rw [h]; rfl
  have hplace : chanOf t = chanOf s := funext (chanOf_congr hcfg)
  refine ⟨hmem, ?_, ?_⟩
  · rw [chanLost, hget, hplace]
    rfl
  · rw [unitBad, hget, hplace]
    rfl

section written
variable {a : Nat} {l : List Byte}

/-- What a strand writes to a channel that has lost its contents leaves memory as it was (12 R474). -/
theorem byteAt_strandWrite_lost (h0 : l.length ≠ 0) (hl : a % 64 + l.length ≤ 64) (hlost : chanLost s a = true) (b : Nat) :
    byteAt (strandWrite s a l) b = byteAt s b := by
  obtain ⟨hm, hch, -⟩ := (spoilParts_side s a l.length).memory a 1
  rw [strandWrite, taskWrite_unit h0 hl, if_pos (hch.trans hlost)]
  exact byteAt_congr ((droppedAt_side _ _).mem_eq.trans hm) b

/-- What a strand writes changes no byte of another unit (12 R453). -/
theorem byteAt_strandWrite_out (hc : Canonical s) (h0 : l.length ≠ 0) (hl : a % 64 + l.length ≤ 64) {b : Nat} (hb : b / 64 ≠ a / 64) :
    byteAt (strandWrite s a l) b = byteAt s b := by
  by_cases hlost : chanLost s a = true
  · exact byteAt_strandWrite_lost h0 hl hlost b
  · obtain ⟨hm, hch, -⟩ := (spoilParts_side s a l.length).memory a 1
    rw [strandWrite, taskWrite_unit h0 hl, if_neg (by rwa [hch]), byteAt_memWrite_out (by rw [hm]; exact hc.mem) (by omega), byteAt_congr hm]

/-- What a strand writes to a unit that reads well holds the bytes written, and every other byte is as before (12 R453). -/
theorem stored_strandWrite (hc : Canonical s) {len x : Nat} (hn : AccessSize len) (hal : a % len = 0) (hlost : chanLost s a = false)
    (hg : unitBad s a len = false) : Stored s (strandWrite s a (natLe len x)) a len x := by
  obtain ⟨hl, hin⟩ := aligned_unit hn hal
  have hlen := natLe_length len x
  intro b
  obtain ⟨hm, hch, hbad⟩ := (spoilParts_side s a (natLe len x).length).memory a len
  have hk : Canonical (spoilParts s a (natLe len x).length) := (kept_spoilParts (kept_self hc)).canon
  rw [strandWrite, taskWrite_unit (by rw [hlen]; exact hn.pos) (by rwa [hlen]), if_neg (by rw [hch, hlost]; exact Bool.false_ne_true),
    byteAt_memWrite_well hk (by simpa only [hlen] using hin) ((congrArg (unitBad _ a) hlen).trans (hbad.trans hg)), byteAt_congr hm, hlen]
  by_cases hb : a ≤ b ∧ b < a + len
  · rw [if_pos hb, if_pos hb, natLe_getD x (by omega)]
  · rw [if_neg hb, if_neg hb]

end written

/-! ### Beside memory -/

theorem onlyMemory_issued (s : State) (h : Hart) : OnlyMemory s (issued s h) h := by
  refine ⟨fun k _ => hart_issued s h k, ?_⟩
  simp only [issued_now, issued_tsq, issued_sch, issued_hit, issued_emb, issued_plc, issued_hws, issued_upd, issued_hostMem, issued_ctrls,
    issued_pending, and_self]

/-- A strand's write keeps what a store leaves as it was. -/
theorem OnlyMemory.write (ht : OnlyMemory s t h) (hu : StoreSide t u) : OnlyMemory s u h := by
  obtain ⟨hk, hrest⟩ := ht
  refine ⟨fun k hne => ?_, ?_⟩
  · rw [← hk k hne, hart, hart, hartAt, hartAt, hu.harts]
  · rw [hu]
    exact hrest

/-- So does whatever becomes of the hart itself. -/
theorem OnlyMemory.put (ht : OnlyMemory s t h) (y : HartSt) : OnlyMemory s (putHart t h y) h := by
  obtain ⟨hk, hrest⟩ := ht
  exact ⟨fun k hne => (hart_putHart_ne y hne).trans (hk k hne), hrest⟩

/-! ### Stores -/

/-- Every store does so in one way, with its own size. -/
theorem storeOf_issue {a : Reg} {sp : Bool} {i : BitVec 32} {len : Nat} (e : storeOf c = some (h, g, rd, a, sp, i, len)) :
    exec c s = spelled c h s (issue s h g fun s =>
      if sp then storeControl h (addrOfAccess s h a i) len (reg s h rd) s else storeDevice h (addrOfAccess s h a i) len (reg s h rd) s) ∧
    AccessSize len := by
  cases c with
  | st8 | st16 | st32 | st64 => cases e; exact ⟨rfl, by simp [AccessSize]⟩
  | _ => cases e

/-- A store that a cause ends. -/
theorem storeDevice_fails {w len cause : Nat} (hk : accessCause s w len .store = some cause) :
    storeDevice h w len v s = failAccess s h w len cause := by rw [storeDevice, hk]

/-- A store that nothing ends. -/
theorem storeDevice_writes {w len d : Nat} (hk : accessCause s w len .store = none) (hd : deviceAddr s w = some d) :
    storeDevice h w len v s = nextPc (strandWrite s d (natLe len v.toNat)) h := by rw [storeDevice, hk, reached_eq hd]

/-- Settles O12: a store ends with its lowest cause, and without one its bytes are one write of the strand. -/
theorem stores : Obligations.Stores := by
  unfold Obligations.Stores
  intro s c h g rd a i n hc e hr s' w
  obtain ⟨hissue, hn⟩ := storeOf_issue (s := s) e
  have hi : Canonical s' := issued_canonical hc h
  have hexec : exec c s = .next (storeDevice h w n (reg s h rd) s') := by
    rw [exec_runs hissue hr, addrOfAccess_issued, reg_issued]
    rfl
  have hcause (d : Nat) (hal : w % n = 0) (hd : deviceAddr s' w = some d) (hm : reachable s' d = true) :
      accessCause s' w n .store = if protectedAt s' d n = true then some 4 else none := by
    rw [accessCause_reached hal hd (by rwa [mayReach_store])]
    simp
  have hbyte (b : Nat) : byteAt s' b = byteAt s b := byteAt_congr (issued_mem s h) b
  rw [hexec]
  refine ⟨fun d hal hd hm hp => ?_, fun hal => ?_, fun hal hd => ?_, fun d hal hd hm => ?_, fun d hal hd hm hp => ?_⟩
  · rw [storeDevice_writes ((hcause d hal hd hm).trans (if_neg (by rw [hp]; exact Bool.false_ne_true))) hd]
    have hda := deviceAddr_aligned hn hal hd
    obtain ⟨hl, -⟩ := aligned_unit hn hda
    have hlen := natLe_length n (reg s h rd).toNat
    have h0 : (natLe n (reg s h rd).toNat).length ≠ 0 := by rw [hlen]; exact hn.pos
    have hone : d % 64 + (natLe n (reg s h rd).toNat).length ≤ 64 := by rw [hlen]; exact hl
    have hside := strandWrite_side (s := s') h0 hone
    refine ⟨_, rfl, ?_, ((onlyMemory_issued s h).write hside).put _, fun hlost hg b => ?_, fun b hb => ?_, fun hlost b => ?_⟩
    · rw [hart_nextPc (strandWrite_canonical hi d _), ← hart_issued s h h, hart, hartAt, hside.harts]
      rfl
    · rw [← hbyte b]
      exact stored_strandWrite hi hn hda hlost hg b
    · rw [← hbyte b]
      exact byteAt_strandWrite_out hi h0 hone hb
    · rw [← hbyte b]
      exact byteAt_strandWrite_lost h0 hone hlost b
  · rw [storeDevice_fails (accessCause_misaligned hal), failAccess_uncounted (by decide)]
  · rw [storeDevice_fails (accessCause_foreign hal hd), failAccess_uncounted (by decide)]
  · rw [storeDevice_fails (accessCause_unreached hal hd (by rwa [mayReach_store])), failAccess_uncounted (by decide)]
  · rw [storeDevice_fails ((hcause d hal hd hm).trans (if_pos hp)), failAccess_uncounted (by decide)]

/-! ### Atomics -/

/-- What an atomic is, and what it makes of the old value (03 R102, R104). -/
theorem atomicOf_issue {a : Reg} {len : Nat} {new : Nat → Option Nat} {fl : Nat → Nat} (e : atomicOf s c = some (h, g, rd, a, len, new, fl)) :
    ∃ f : State → AtomicFn, exec c s = spelled c h s (issue s h g fun s => atomicAt h rd (reg s h a).toNat len (f s) s) ∧
      (∀ o < 256 ^ len, f (issued s h) o = (new o, fl o)) ∧ AccessSize len := by
  cases c with
  | aadd32 | aadd64 | aminu64 | amaxu64 | aswap64 | acas64 | afadd32 =>
    cases e
    exact ⟨_, rfl, fun o _ => by simp only [regNat, reg_issued], by simp [AccessSize]⟩
  | aor64 h g rd a b =>
    cases e
    refine ⟨_, rfl, fun o ho => ?_, by simp [AccessSize]⟩
    simp only [regNat, reg_issued]
    rw [BitVec.toNat_or, BitVec.toNat_ofNat, Nat.mod_eq_of_lt (show o < 2 ^ 64 from ho)]
    rfl
  | aand64 h g rd a b =>
    cases e
    refine ⟨_, rfl, fun o ho => ?_, by simp [AccessSize]⟩
    simp only [regNat, reg_issued]
    rw [BitVec.toNat_and, BitVec.toNat_ofNat, Nat.mod_eq_of_lt (show o < 2 ^ 64 from ho)]
    rfl
  | _ => cases e

section atomic
variable {w len d cause old : Nat} {f : AtomicFn}

/-- An atomic that a cause ends. -/
theorem atomicAt_fails (hk : accessCause s w len .atomic = some cause) : atomicAt h rd w len f s = failAccess s h w len cause := by
  rw [atomicAt, hk]

/-- The state after an atomic's write, where it writes. -/
def atomicWritten (s : State) (d len : Nat) : Option Nat → State
  | some v => strandWrite s d (natLe len v)
  | none => s

/-- An atomic that nothing ends. -/
theorem atomicAt_writes (hk : accessCause s w len .atomic = none) (hd : deviceAddr s w = some d) : atomicAt h rd w len f s =
    retire (orFflags (atomicWritten s d len (f (readNat s d len)).1) h (f (readNat s d len)).2) h rd (BitVec.ofNat 64 (readNat s d len)) := by
  rw [atomicAt, hk, reached_eq hd]
  dsimp only
  cases (f (readNat s d len)).1 with
  | some v => rfl
  | none => rfl

theorem atomicWritten_canonical (hc : Canonical s) (d len : Nat) (o : Option Nat) : Canonical (atomicWritten s d len o) := by
  cases o with
  | some v => exact strandWrite_canonical hc d _
  | none => exact hc

theorem atomicWritten_side (hn : AccessSize len) (hal : d % len = 0) (o : Option Nat) : StoreSide s (atomicWritten s d len o) := by
  cases o with
  | some v =>
    have hlen := natLe_length len v
    exact strandWrite_side (by rw [hlen]; exact hn.pos) (by rw [hlen]; exact (aligned_unit hn hal).1)
  | none => rfl

end atomic

/-- A result retired with flags. -/
theorem hart_retire_orFflags (hc : Canonical s) (f : Nat) : hart (retire (orFflags s h f) h rd v) h =
    { (hart s h).setReg rd v with pc := (hart s h).pc + 8, fflags := (hart s h).fflags ||| BitVec.ofNat 5 f } := by
  rw [retire_hart (orFflags_canonical hc f), orFflags, hart_putHart_self hc]
  unfold HartSt.setReg
  split <;> rfl

/-- A result retired with flags leaves memory as it was. -/
theorem byteAt_retire_orFflags (f b : Nat) : byteAt (retire (orFflags s h f) h rd v) b = byteAt s b := byteAt_congr rfl b

/-- Settles O13: an atomic ends with its lowest cause, and without one it reads, writes once and retires the old value. -/
theorem atomics : Obligations.Atomics := by
  unfold Obligations.Atomics
  intro s c h g rd a n new fl hc e hr s' w
  obtain ⟨f, hissue, hf, hn⟩ := atomicOf_issue e
  have hi : Canonical s' := issued_canonical hc h
  have hexec : exec c s = .next (atomicAt h rd w n (f s') s') := by
    rw [exec_runs hissue hr, reg_issued]
  have hcause (d : Nat) (hal : w % n = 0) (hd : deviceAddr s' w = some d) (hm : reachable s' d = true) (hsp : space d ≠ .slow) :
      accessCause s' w n .atomic = if protectedAt s' d n = true then some 4 else readCause s' d n := by
    rw [accessCause_reached hal hd (by rw [mayReach_atomic, hm]; simpa using hsp)]
    simp
  have hbyte (b : Nat) : byteAt s' b = byteAt s b := byteAt_congr (issued_mem s h) b
  rw [hexec]
  refine ⟨fun d hal hd hm hsp hp hread => ?_, fun hal => ?_, fun hal hd => ?_, fun d hal hd => ⟨fun hout => ?_, fun hsp hm hp => ?_,
    fun k hsp hm hp hread => ?_⟩⟩
  · have hp' : ¬protectedAt s' d n = true := by rw [hp]; exact Bool.false_ne_true
    have hda := deviceAddr_aligned hn hal hd
    obtain ⟨hlost, hg⟩ := readCause_none hn.pos hread
    have hold : f s' (readNat s' d n) = (new (readNat s d n), fl (readNat s d n)) := by
      rw [hf _ (readNat_lt s' d n), readNat_issued]
    rw [atomicAt_writes (((hcause d hal hd hm hsp).trans (if_neg hp')).trans hread) hd, hold, readNat_issued]
    have hside : StoreSide s' (atomicWritten s' d n (new (readNat s d n))) := atomicWritten_side hn hda _
    have hsame : hart (atomicWritten s' d n (new (readNat s d n))) h = hart s h := by
      rw [← hart_issued s h h, hart, hart, hartAt, hartAt, hside.harts]
    refine ⟨_, rfl, (((onlyMemory_issued s h).write hside).put _).put _ |>.put _, ?_, fun v hv b => ?_, fun hnone b => ?_⟩
    · rw [hart_retire_orFflags (atomicWritten_canonical hi d n _), hsame]
    · rw [byteAt_retire_orFflags, hv, ← hbyte b]
      exact stored_strandWrite hi hn hda hlost hg b
    · rw [byteAt_retire_orFflags, hnone, ← hbyte b]
      rfl
  · rw [atomicAt_fails (accessCause_misaligned hal), failAccess_uncounted (by decide)]
  · rw [atomicAt_fails (accessCause_foreign hal hd), failAccess_uncounted (by decide)]
  · have hm : mayReach s' d .atomic = false := by
      rw [mayReach_atomic]
      rcases hout with hsp | hm
      · simp [hsp]
      · simp [hm]
    rw [atomicAt_fails (accessCause_unreached hal hd hm), failAccess_uncounted (by decide)]
  · rw [atomicAt_fails ((hcause d hal hd hm hsp).trans (if_pos hp)), failAccess_uncounted (by decide)]
  · have hp' : ¬protectedAt s' d n = true := by rw [hp]; exact Bool.false_ne_true
    rw [atomicAt_fails (((hcause d hal hd hm hsp).trans (if_neg hp')).trans hread), failAccess_read hd]

end Sys2Proof.Machine
end

section
/-! SUPPORT. Control space: what an address of a control core names, and its loads and stores there (03 R129, R131). -/

namespace Sys2Proof.Machine

variable {s t u : State} {c : Instr} {h : Hart} {k : Fin 20} {g : Guard} {rd rs : Reg} {v : Word} {w o len : Nat} {ext : Nat → Word}

/-- A control core counts no issue. -/
theorem issued_ctrl (s : State) (k : Fin 20) : issued s (.ctrl k) = s := rfl

/-! ### The ranges (03 R131) -/

theorem ctlRange_regs (hw : w < 0x4000000) : ctlRange w = .regs w := if_pos hw

theorem ctlRange_active (ho : o < 0x400000) : ctlRange (0x10000000 + o) = .active o := by
  rw [ctlRange, if_neg (by omega), if_pos (by omega), Nat.add_sub_cancel_left]

theorem ctlRange_next (ho : o < 0x400000) : ctlRange (0x10400000 + o) = .next o := by
  rw [ctlRange, if_neg (by omega), if_neg (by omega), if_pos (by omega), Nat.add_sub_cancel_left]

theorem ctlRange_mine (ho : o < 0x100000) : ctlRange (0x20000000 + o) = .mine o := by
  rw [ctlRange, if_neg (by omega), if_neg (by omega), if_neg (by omega), if_pos (by omega), Nat.add_sub_cancel_left]

theorem ctlRange_nowhere (hw : (0x4000000 ≤ w ∧ w < 0x10000000) ∨ (0x10800000 ≤ w ∧ w < 0x20000000) ∨ 0x20100000 ≤ w) : ctlRange w = .nowhere := by
  rw [ctlRange, if_neg (by omega), if_neg (by omega), if_neg (by omega), if_neg (by omega)]

/-! ### Loads from control space -/

theorem loadControl_misaligned (hal : w % len ≠ 0) : loadControl (.ctrl k) rd w len ext s = demandFault s (.ctrl k) 2 w := if_pos hal

/-- A load that the control space answers. -/
theorem loadControl_reads {x : Nat} (hal : w % len = 0) (hr : ctlRead s k.val w len = some (x, t)) :
    loadControl (.ctrl k) rd w len ext s = retire t (.ctrl k) rd (ext x) := by
  rw [loadControl, if_neg (not_not.2 hal), hr]

theorem loadControl_nowhere (hal : w % len = 0) (hw : ctlRange w = .nowhere) :
    loadControl (.ctrl k) rd w len ext s = demandFault s (.ctrl k) 3 w := by
  rw [loadControl, if_neg (not_not.2 hal), ctlRead, hw]

/-! ### Stores to control space -/

theorem storeControl_misaligned (hal : w % len ≠ 0) : storeControl (.ctrl k) w len v s = demandFault s (.ctrl k) 2 w := if_pos hal

/-- A store that the control space takes. -/
theorem storeControl_takes (hal : w % len = 0) (hr : ctlWrite s k.val w len v.toNat = .ok t) :
    storeControl (.ctrl k) w len v s = nextPc t (.ctrl k) := by
  rw [storeControl, if_neg (not_not.2 hal), hr]

/-- A store that it refuses. -/
theorem storeControl_refuses {cause : Nat} (hal : w % len = 0) (hr : ctlWrite s k.val w len v.toNat = .error cause) :
    storeControl (.ctrl k) w len v s = demandFault s (.ctrl k) cause w := by
  rw [storeControl, if_neg (not_not.2 hal), hr]

/-- The marks of a plan's VERSION items touch no hart. -/
theorem marks_harts (l : List (Nat × List Byte)) (on : Bool) (s : State) : (l.foldl (fun s k => markSwitching s k.2 on) s).harts = s.harts :=
  List.foldlRecOn l _ (motive := fun t : State => t.harts = s.harts) rfl fun t e x _ => by rw [markSwitching_only]; exact e

theorem storeNext_harts (s : State) (o : Nat) (l : List Byte) : (storeNext s o l).harts = s.harts := by
  simp only [storeNext]
  split
  · rfl
  · split
    · split
      · simp only [keepMap_harts, marks_harts]
      · simp only [keepMap_harts, marks_harts]
    · split
      · simp only [keepMap_harts, marks_harts]
      · rfl

/-- A store into NEXT puts its bytes, and seals the plan where its CRC matches (02 R57). -/
theorem storeNext_tsq (s : State) (o : Nat) (l : List Byte) : (storeNext s o l).tsq.planNext = bufPut s.tsq.planNext o l ∧
    (storeNext s o l).tsq.plan = if planSealed (bufPut s.tsq.planNext o l) then .sealed else .building := by
  simp only [storeNext]
  split
  · simp only [and_self]
  · by_cases hs : planSealed (bufPut s.tsq.planNext o l) = true
    · simp only [if_pos hs, and_self]
    · simp only [if_neg hs, and_self]

/-- A pc moved on over a state whose harts are as before. -/
theorem hart_nextPc_harts (hc : Canonical t) (e : t.harts = s.harts) : hart (nextPc t h) h = { hart s h with pc := (hart s h).pc + 8 } := by
  have hh : hart t h = hart s h := by rw [hart, hart, hartAt, hartAt, e]
  rw [hart_nextPc hc, hh]

theorem ctrlPut_canonical (hc : Canonical s) (k : Nat) (x : CtrlSt) : Canonical (ctrlPut s k x) := (kept_ctrlPut (kept_self hc)).canon

theorem ctrlGet_ctrlPut_self (hc : Canonical s) (k : Nat) (x : CtrlSt) : ctrlGet (ctrlPut s k x) k = x := mget_mset_self hc.ctrls k x

/-- Settles O14: control space is a control core's alone, and each of its ranges answers in its own way. -/
theorem controlSpace : Obligations.ControlSpace := by
  unfold Obligations.ControlSpace
  intro outside
  refine ⟨?loads, ?stores⟩
  case loads =>
    intro s c h g rd a i n ext hc e hr w
    have hexec : exec c s = .next (loadControl h rd w n ext (issued s h)) := by
      rw [exec_runs (loadOf_issue e) hr, addrOfAccess_issued]
      rfl
    rw [hexec]
    refine ⟨?_, ?_, ?_⟩
    · rintro p k rfl
      rfl
    · rintro k rfl hal
      exact congrArg _ (loadControl_misaligned hal)
    · rintro k rfl hal
      rw [issued_ctrl]
      have reads {x : Nat} (hx : ctlRead s k.val w n = some (x, s)) :
          ∃ t, (.next (loadControl (.ctrl k) rd w n ext s) : Out) = .next t ∧ Retired s t (.ctrl k) rd (ext x) :=
        ⟨_, congrArg _ (loadControl_reads hal hx), retire_retired (h := .ctrl k) hc⟩
      refine ⟨fun o hw ho => reads ?_, fun o hw ho => reads ?_, fun o hw ho => reads ?_, fun hw => ?_, fun hw => ?_⟩
      · rw [hw, ctlRead, ctlRange_active ho]
      · rw [hw, ctlRead, ctlRange_next ho]
      · rw [hw, ctlRead, ctlRange_mine ho]
      · exact congrArg _ (loadControl_reads hal (by rw [ctlRead, ctlRange_regs hw]))
      · exact congrArg _ (loadControl_nowhere hal (ctlRange_nowhere hw))
  case stores =>
    intro s c h g rd a i n hc e hr w bytes
    have hexec : exec c s = .next (storeControl h w n (reg s h rd) (issued s h)) := by
      rw [exec_runs (storeOf_issue e).1 hr, addrOfAccess_issued, reg_issued]
      rfl
    rw [hexec]
    refine ⟨?_, ?_, ?_⟩
    · rintro p k rfl
      rfl
    · rintro k rfl hal
      exact congrArg _ (storeControl_misaligned hal)
    · rintro k rfl hal
      rw [issued_ctrl]
      refine ⟨fun o hw ho => ?mine, fun o hw ho => ?next, fun hlo hhi => ?active, fun hw => ?regs, fun hw => ?nowhere⟩
      case mine =>
        have hok : ctlWrite s k.val w n (reg s (.ctrl k) rd).toNat =
            .ok (ctrlPut s k.val { ctrlGet s k.val with localMem := bufPut (ctrlGet s k.val).localMem o bytes }) := by
          rw [hw, ctlWrite, ctlRange_mine ho]
        refine ⟨_, congrArg _ (storeControl_takes hal hok), hart_nextPc_harts (ctrlPut_canonical hc _ _) rfl, rfl, ?_⟩
        have := ctrlGet_ctrlPut_self hc k.val { ctrlGet s k.val with localMem := bufPut (ctrlGet s k.val).localMem o bytes }
        exact congrArg CtrlSt.localMem this
      case next =>
        have hok : ctlWrite s k.val w n (reg s (.ctrl k) rd).toNat = .ok (storeNext s o bytes) := by
          rw [hw, ctlWrite, ctlRange_next ho]
        exact ⟨_, congrArg _ (storeControl_takes hal hok), hart_nextPc_harts (kept_storeNext (kept_self hc)).canon (storeNext_harts s o bytes),
          storeNext_tsq s o bytes⟩
      case active =>
        have ha : ctlRange w = .active (w - 0x10000000) := by
          conv_lhs => rw [show w = 0x10000000 + (w - 0x10000000) by omega]
          exact ctlRange_active (by omega)
        exact congrArg _ (storeControl_refuses hal (by rw [ctlWrite, ha]))
      case regs => exact congrArg _ (storeControl_takes hal (by rw [ctlWrite, ctlRange_regs hw]))
      case nowhere => exact congrArg _ (storeControl_refuses hal (by rw [ctlWrite, ctlRange_nowhere hw]))

end Sys2Proof.Machine
end

section
/-! SUPPORT. Submitting, starting and ending tasks: what the scheduler answers a strand, what a dispatched strand holds, and how an attempt ends
(03 R91, R97, R102, R105; 10 R384-R397). -/

namespace Sys2Proof.Machine

variable {s t u : State} {c : Instr} {h k : Hart} {g : Guard} {rd rs : Reg} {v : Word} {p : Fin 272} {n : Fin 64}

/-! ### What the scheduler answers (10 R384-R392) -/

/-- A task is due later than now (10 R390). -/
def DueLater (s : State) (d : TaskDesc) : Prop := s.now < dueAt s (s.tsq.tick + d.delayTicks) d.dueOff ∧ (0 < d.delayTicks ∨ 0 < d.dueOff)

/-- The target of a task that is submitted now. -/
def targetNow (s : State) (d : TaskDesc) : Nat × Bool := target s d (rget s regSchTaskId) none false

/-- An acceptance counted: the next task id, and the counter. -/
def acceptTask (s : State) : State := bump1 (rset s regSchTaskId (rget s regSchTaskId + 1)) regSchAccepted

@[simp] theorem acceptTask_mem (s : State) : (acceptTask s).mem = s.mem := by simp [acceptTask, bump1]
@[simp] theorem acceptTask_harts (s : State) : (acceptTask s).harts = s.harts := by simp [acceptTask, bump1]
@[simp] theorem acceptTask_now (s : State) : (acceptTask s).now = s.now := by simp [acceptTask, bump1]
@[simp] theorem acceptTask_tsq (s : State) : (acceptTask s).tsq = s.tsq := by simp [acceptTask, bump1]

/-- One more entry numbered in the order of the lists. -/
def nextEntry (s : State) : State := { s with sch := { s.sch with entrySeq := s.sch.entrySeq + 1 } }

/-- A task on its die's delay list. -/
def delayedTask (s : State) (d : TaskDesc) (req die : Nat) : Task :=
  { newTask d req with state := .delayed, die := die, seq := s.sch.entrySeq, stamp := s.now, dueTick := s.tsq.tick + d.delayTicks }

section answers
variable {b : List Byte} {req : Nat} {inner : Bool}

theorem submit_refused (hb : badDesc s b inner = true) : submit s b req inner = (1, event (bump1 s regSchBadTask) regSchEvents 2) := if_pos hb

theorem submit_full (hb : badDesc s b inner = false) (hd : ¬DueLater s (readDesc b))
    (hl : 1024 ≤ listLen s (targetNow s (readDesc b)).1 (readDesc b).prio) : submit s b req inner = (2, event s regSchEvents 0) :=
  (if_neg (by rw [hb]; exact Bool.false_ne_true)).trans ((if_neg hd).trans (if_pos hl))

/-- A task as it enters a ready list (10 R392). -/
def listedTask (s : State) (x : Task) (l : Nat) (gated : Bool) : Task :=
  { x with state := .ready, lcore := l, die := dieOf s l, stamp := s.now, seq := s.sch.entrySeq + 1, gated := gated
           waitFrom := if mayStart s then s.now else max s.now (s.tsq.tickStart + period s) }

/-- What entering a ready list changes: the task, and its core's telemetry. -/
theorem enterList_spec (s : State) (id : Nat) (x : Task) (l : Nat) (gated : Bool) :
    taskGet (enterList s id x l gated) id = some (listedTask s x l gated) ∧ (enterList s id x l gated).mem = s.mem ∧
      (enterList s id x l gated).harts = s.harts :=
  ⟨pfind_pput_self _ id _, rfl, rfl⟩

/-- An accepted task whose preferred core is held by none is counted, and nothing else. -/
theorem prefLost_acceptTask_spec (s : State) (lost : Bool) : (prefLost (acceptTask s) lost).mem = s.mem ∧
    (prefLost (acceptTask s) lost).harts = s.harts ∧ (prefLost (acceptTask s) lost).now = s.now := by
  cases lost <;> simp [prefLost, bump1]

/-- A task that is due later goes on its die's delay list. -/
theorem submit_delayed (hb : badDesc s b inner = false) (hd : DueLater s (readDesc b))
    (hl : delayLen s (dieOf s (targetNow s (readDesc b)).1) < 65536) :
    ∃ t y, submit s b req inner = (0, t) ∧ t.mem = s.mem ∧ t.harts = s.harts ∧ taskGet t (rget s regSchTaskId) = some y ∧
      y.state = .delayed ∧ y.desc = readDesc b ∧ y.attempt = 1 ∧ y.dueTick = s.tsq.tick + (readDesc b).delayTicks ∧ y.stamp = s.now ∧
      y.die = dieOf s (targetNow s (readDesc b)).1 := by
  have hsub : submit s b req inner = (0, taskPut (acceptTask (nextEntry s)) (rget s regSchTaskId)
      (delayedTask (acceptTask (nextEntry s)) (readDesc b) req (dieOf s (targetNow s (readDesc b)).1))) :=
    (if_neg (by rw [hb]; exact Bool.false_ne_true)).trans ((if_pos hd).trans (if_neg (Nat.not_le.2 hl)))
  refine ⟨_, _, hsub, acceptTask_mem (nextEntry s), acceptTask_harts (nextEntry s), taskGet_taskPut_self _ _, rfl, rfl, rfl, ?_,
    acceptTask_now (nextEntry s), rfl⟩
  exact congrArg (fun q => q.tick + (readDesc b).delayTicks) (acceptTask_tsq (nextEntry s))

/-- A task that is due enters the ready list of its target. -/
theorem submit_ready (hb : badDesc s b inner = false) (hd : ¬DueLater s (readDesc b))
    (hl : listLen s (targetNow s (readDesc b)).1 (readDesc b).prio < 1024) :
    ∃ t y, submit s b req inner = (0, t) ∧ t.mem = s.mem ∧ t.harts = s.harts ∧ taskGet t (rget s regSchTaskId) = some y ∧
      y.state = .ready ∧ y.desc = readDesc b ∧ y.attempt = 1 ∧ y.lcore = (targetNow s (readDesc b)).1 ∧ y.stamp = s.now ∧ y.gated = false := by
  obtain ⟨hget, hmem, hharts⟩ := enterList_spec (prefLost (acceptTask s) (targetNow s (readDesc b)).2) (rget s regSchTaskId)
    { newTask (readDesc b) req with preferLost := (targetNow s (readDesc b)).2 } (targetNow s (readDesc b)).1 false
  obtain ⟨hmem', hharts', hnow⟩ := prefLost_acceptTask_spec s (targetNow s (readDesc b)).2
  have hsub : submit s b req inner = (0, enterList (prefLost (acceptTask s) (targetNow s (readDesc b)).2) (rget s regSchTaskId)
      { newTask (readDesc b) req with preferLost := (targetNow s (readDesc b)).2 } (targetNow s (readDesc b)).1 false) :=
    (if_neg (by rw [hb]; exact Bool.false_ne_true)).trans ((if_neg hd).trans (if_neg (Nat.not_le.2 hl)))
  exact ⟨_, _, hsub, hmem.trans hmem', hharts.trans hharts', hget, rfl, rfl, rfl, rfl, hnow, rfl⟩

end answers

@[simp] theorem listLen_issued (s : State) (h : Hart) (l prio : Nat) : listLen (issued s h) l prio = listLen s l prio := by
  rw [listLen, issued_sch]
  rfl

@[simp] theorem delayLen_issued (s : State) (h : Hart) (d : Nat) : delayLen (issued s h) d = delayLen s d := by
  rw [delayLen, issued_sch]
  rfl

theorem dueLater_issued (s : State) (h : Hart) (d : TaskDesc) : DueLater (issued s h) d ↔
    s.now < dueAt (issued s h) (s.tsq.tick + d.delayTicks) d.dueOff ∧ (0 < d.delayTicks ∨ 0 < d.dueOff) := by
  rw [DueLater, issued_now, issued_tsq]

/-! ### SPAWN (03 R102, R105) -/

/-- A result retired as its instruction is accepted. -/
theorem retire_accepted_spec (hc : Canonical u) (e : u.harts = (issued s h).harts) :
    reg (retire (accepted u h) h rd v) h rd = (if rd.val = 0 then 0 else v) ∧ (hart (retire (accepted u h) h rd v) h).pc = (hart s h).pc + 8 := by
  have hh : hart u h = hart s h := by rw [← hart_issued s h h, hart, hart, hartAt, hartAt, e]
  have hput : hart (retire (accepted u h) h rd v) h = { { hart s h with deadline := 0 }.setReg rd v with pc := (hart s h).pc + 8 } := by
    rw [retire_hart (accepted_canonical hc), hart_accepted hc, hh]
  have hget := setReg_get { hart s h with deadline := 0 } rd rd v
  rw [if_pos (Eq.refl rd)] at hget
  refine ⟨?_, by rw [hput]⟩
  rw [reg, hput]
  exact hget

/-- What SPAWN makes of the scheduler's answer: a full list holds the strand, and every other answer goes to rd. -/
def spawnAnswer (h : Hart) (rd : Reg) (x : Nat) (r : Nat × State) : State :=
  if r.1 = 2 ∨ r.1 = 3 then
    waitRoom (if (hart r.2 h).deadline ≠ 0 then r.2
      else match taskGet r.2 (hart r.2 h).task with
        | some k => let c := telGet r.2 k.lcore; telPut r.2 k.lcore { c with spawnWaits := c.spawnWaits + 1 }
        | none => r.2) h (.listRoom x)
  else retire (accepted r.2 h) h rd (BitVec.ofNat 64 r.1)

section spawn
variable {a : Reg}

/-- The offset SPAWN takes its descriptor from. -/
def spawnOffset (s : State) (p : Fin 272) (n : Fin 64) (a : Reg) : Nat := (reg s (.strand p n) a).toNat

theorem spawn_misaligned (hr : Runs s (.spawn (.strand p n) g rd a) (.strand p n) g) (hal : spawnOffset s p n a % 128 ≠ 0) :
    exec (.spawn (.strand p n) g rd a) s = .next (demandFault (issued s (.strand p n)) (.strand p n) 2 (spawnOffset s p n a)) := by
  rw [exec_runs rfl hr, spawnOffset, ← reg_issued s (.strand p n) (.strand p n) a]
  exact congrArg _ (if_pos (by rwa [reg_issued]))

theorem spawn_outside (hr : Runs s (.spawn (.strand p n) g rd a) (.strand p n) g) (hal : spawnOffset s p n a % 128 = 0)
    (hx : 0x400000 ≤ spawnOffset s p n a) :
    exec (.spawn (.strand p n) g rd a) s = .next (demandFault (issued s (.strand p n)) (.strand p n) 3 (spawnOffset s p n a)) := by
  rw [spawnOffset, ← reg_issued s (.strand p n) (.strand p n) a] at *
  rw [exec_runs rfl hr]
  exact congrArg _ ((if_neg (not_not.2 hal)).trans (if_pos hx))

/-- A descriptor in the scratchpad goes to the scheduler, for the request of the spawning task. -/
theorem spawn_submits (hr : Runs s (.spawn (.strand p n) g rd a) (.strand p n) g) (hal : spawnOffset s p n a % 128 = 0)
    (hx : spawnOffset s p n a < 0x400000) : ∃ req, exec (.spawn (.strand p n) g rd a) s = .next (spawnAnswer (.strand p n) rd (spawnOffset s p n a)
      (submit (issued s (.strand p n)) (readBytes s (spBase p.val + spawnOffset s p n a) 128) req true)) := by
  rw [spawnOffset, ← reg_issued s (.strand p n) (.strand p n) a, ← readBytes_issued s (.strand p n)] at *
  rw [exec_runs rfl hr]
  refine ⟨match taskGet (issued s (.strand p n)) (hart (issued s (.strand p n)) (.strand p n)).task with | some k => k.req | none => 0,
    congrArg _ ((if_neg (not_not.2 hal)).trans ((if_neg (Nat.not_le.2 hx)).trans ?_))⟩
  dsimp only
  generalize submit _ _ _ _ = r
  obtain ⟨st, u⟩ := r
  rfl

end spawn

/-- A strand that waits for room keeps its pc. -/
theorem waitRoom_spec (hc : Canonical u) (e : u.harts = (issued s h).harts) (w : WaitFor) :
    (hart (waitRoom u h w) h).st = .wait ∧ (hart (waitRoom u h w) h).wait = w ∧ (hart (waitRoom u h w) h).pc = (hart s h).pc := by
  have hh : hart u h = hart s h := by rw [← hart_issued s h h, hart, hart, hartAt, hartAt, e]
  have hput : hart (waitRoom u h w) h = _ := hart_putHart_self hc _ _
  rw [hput, hh]
  exact ⟨rfl, rfl, rfl⟩

/-- An answer that is neither a full list goes to rd. -/
theorem spawnAnswer_retires {x st : Nat} (h2 : st ≠ 2) (h3 : st ≠ 3) :
    spawnAnswer h rd x (st, u) = retire (accepted u h) h rd (BitVec.ofNat 64 st) := if_neg (by simp [h2, h3])

/-- A full ready list holds the strand, and the wait is counted at its core (10 R396, R408). -/
theorem spawnAnswer_full (x : Nat) : ∃ tel, spawnAnswer h rd x (2, u) = waitRoom { u with sch := { u.sch with tel := tel } } h (.listRoom x) := by
  unfold spawnAnswer
  rw [if_pos (.inl rfl)]
  dsimp only
  split
  · exact ⟨u.sch.tel, rfl⟩
  · split
    · exact ⟨_, rfl⟩
    · exact ⟨u.sch.tel, rfl⟩

/-- An accepted task leaves status 0 in rd, and the tasks as the scheduler left them. -/
theorem spawnAnswer_accepted (hc : Canonical u) (e : u.harts = (issued s h).harts) (x : Nat) :
    reg (spawnAnswer h rd x (0, u)) h rd = 0 ∧ (hart (spawnAnswer h rd x (0, u)) h).pc = (hart s h).pc + 8 ∧
      (spawnAnswer h rd x (0, u)).mem = u.mem ∧ ∀ id, taskGet (spawnAnswer h rd x (0, u)) id = taskGet u id := by
  rw [spawnAnswer_retires (by decide) (by decide)]
  obtain ⟨hreg, hpc⟩ := retire_accepted_spec (rd := rd) (v := BitVec.ofNat 64 0) hc e
  exact ⟨hreg.trans (ite_self _), hpc, rfl, fun id => rfl⟩

/-- The scheduler's own state is no map whose form is canonical. -/
theorem sch_canonical (hc : Canonical s) (q : SchUnit) : Canonical { s with sch := q } := { hc with }

/-- Settles O18: what SPAWN leaves is the scheduler's answer, case by case, as rd or as a wait for room. -/
theorem spawnsTasks : Obligations.SpawnsTasks := by
  unfold Obligations.SpawnsTasks
  intro s p n g rd a hc h s' x b d id l later
  have hi : Canonical s' := issued_canonical hc h
  have hsubmit {req st : Nat} {t : State} (hsub : submit s' b req true = (st, t)) : Canonical t := by
    have hk : Canonical (submit s' b req true).2 := (kept_submit (kept_self hi)).out.canon
    rwa [hsub] at hk
  have hlater : DueLater s' d ↔ later := dueLater_issued s h d
  refine ⟨fun hal hr => spawn_misaligned hr hal, fun hal hout hr => spawn_outside hr hal hout, fun hal hin hb hr => ?refused,
    fun hal hin hb hd hl hr => ?delayed, fun hal hin hb hd => ⟨fun hl hr => ?ready, fun hl hr => ?full⟩⟩
  all_goals
    obtain ⟨req, hexec⟩ : ∃ req, exec (.spawn h g rd a) s = .next (spawnAnswer h rd x (submit s' b req true)) := spawn_submits hr hal hin
  case refused =>
    have hsub : submit s' b req true = _ := submit_refused hb
    obtain ⟨hreg, hpc⟩ := retire_accepted_spec (s := s) (h := h) (rd := rd) (v := BitVec.ofNat 64 1) (hsubmit hsub) (by simp [bump1, s'])
    rw [hexec, hsub, spawnAnswer_retires (by decide) (by decide)]
    refine ⟨_, rfl, hreg, hpc, ?_, ?_⟩
    · simp [bump1, accepted, s']
    · simp [bump1, accepted, s']
  case delayed =>
    obtain ⟨t, y, hsub, hmem, hharts, hget, hstate, hdesc, hatt, hdue, hstamp, hdie⟩ :=
      submit_delayed (req := req) hb (hlater.2 hd) (by rwa [delayLen_issued])
    obtain ⟨hreg, hpc, hm, htask⟩ := spawnAnswer_accepted (s := s) (rd := rd) (hsubmit hsub) hharts x
    have htick : s'.tsq.tick = s.tsq.tick := by rw [issued_tsq]
    rw [hexec, hsub]
    exact ⟨_, y, rfl, hreg, hpc, (hm.trans hmem).trans (issued_mem s h), (htask id).trans hget, hstate, hdesc, hatt, htick ▸ hdue,
      hstamp.trans (issued_now s h), hdie⟩
  case ready =>
    obtain ⟨t, y, hsub, hmem, hharts, hget, hstate, hdesc, hatt, hcore, hstamp, hgated⟩ :=
      submit_ready (req := req) hb (hlater.not.2 hd) (by rwa [listLen_issued])
    obtain ⟨hreg, hpc, hm, htask⟩ := spawnAnswer_accepted (s := s) (rd := rd) (hsubmit hsub) hharts x
    rw [hexec, hsub]
    exact ⟨_, y, rfl, hreg, hpc, (hm.trans hmem).trans (issued_mem s h), (htask id).trans hget, hstate, hdesc, hatt, hcore,
      hstamp.trans (issued_now s h), hgated⟩
  case full =>
    have hsub : submit s' b req true = _ := submit_full hb (hlater.not.2 hd) (by rwa [listLen_issued])
    obtain ⟨tel, hwait⟩ := spawnAnswer_full (h := h) (rd := rd) (u := event s' regSchEvents 0) x
    obtain ⟨hst, hw, hpc⟩ := waitRoom_spec (s := s) (h := h) (sch_canonical (hsubmit hsub) { (event s' regSchEvents 0).sch with tel := tel })
      rfl (.listRoom x)
    have htasks : (issued s h).sch.tasks = s.sch.tasks := by rw [issued_sch]
    rw [hexec, hsub, hwait]
    exact ⟨_, rfl, hst, hw, hpc, htasks, issued_mem s h⟩

end Sys2Proof.Machine
end

section
/-! SUPPORT. What a fault and the end of an attempt leave as they were (03 R97, R111, R126; 10 R397; 15 R584). -/

namespace Sys2Proof.Machine

variable {s t u : State} {c : Instr} {h : Hart} {g : Guard} {rd a : Reg} {v : Word} {p : Fin 272} {n : Fin 64}

/-! ### Harts, tasks and device time -/

/-- Harts, tasks and device time are as before. -/
structure TasksKept (s t : State) : Prop where
  harts : t.harts = s.harts
  sch : t.sch = s.sch
  now : t.now = s.now

theorem TasksKept.refl (s : State) : TasksKept s s := ⟨rfl, rfl, rfl⟩

theorem TasksKept.trans (h : TasksKept s t) (k : TasksKept t u) : TasksKept s u :=
  ⟨k.harts.trans h.harts, k.sch.trans h.sch, k.now.trans h.now⟩

theorem TasksKept.foldl {α : Type} (l : List α) {f : State → α → State} (hf : ∀ s x, TasksKept s (f s x)) (s : State) : TasksKept s (l.foldl f s) :=
  List.foldlRecOn l f (motive := TasksKept s) (.refl s) fun t ht x _ => ht.trans (hf t x)

theorem StoreSide.tasks (h : StoreSide s t) : TasksKept s t := by
  rw [h]
  exact ⟨rfl, rfl, rfl⟩

theorem ReportSide.tasks (h : ReportSide s t) : TasksKept s t := h.chan.memory.store.tasks

theorem report_tasks (s : State) (k a u d : Nat) : TasksKept s (report s k a u d) := by
  rw [report_only]
  exact ⟨rfl, rfl, rfl⟩

theorem landWrites_tasks (s : State) (w : List Host.Cell) : TasksKept s (landWrites s w) :=
  .foldl w (fun s b => (memWrite_side s b.1 [b.2]).store.tasks) s

theorem drawn_tasks (s : State) (k : Nat) : TasksKept s { s with freeCtr := k } := ⟨rfl, rfl, rfl⟩

/-! ### Cancelled commands (03 R111) -/

theorem cancelWrites_tasks (s : State) (w : List Host.Cell) : TasksKept s (cancelWrites s w) := by
  refine .foldl _ (fun s b => ?_) s
  dsimp only [draw]
  split
  · exact (drawn_tasks s _).trans (landWrites_tasks _ _)
  · exact drawn_tasks s _

theorem cancelOne_tasks (s : State) (p : Nat) (c : Cmd) : TasksKept s (cancelOne s p c) := by
  unfold cancelOne
  extract_lets s1 s2
  have h1 : TasksKept s s1 := cancelWrites_tasks _ _
  have h2 : TasksKept s s2 := by
    show TasksKept s (if _ then _ else _)
    split
    · exact h1
    · split
      · exact (h1.trans (drawn_tasks s1 _)).trans (cancelWrites_tasks _ _)
      · exact h1
  refine h2.trans (.foldl _ (fun s k => ?_) s2)
  exact (drawn_tasks s _).trans (bump_side _ _ _).tasks

theorem cancelCmds_tasks (s : State) (p task : Nat) : TasksKept s (cancelCmds s p task) := by
  unfold cancelCmds
  extract_lets k gone s1 net s2
  exact (⟨rfl, rfl, rfl⟩ : TasksKept s s2).trans (.foldl gone (fun s c => cancelOne_tasks s p c) s2)

theorem matEnd_tasks (s : State) (p strand : Nat) (gone : List Nat) (tend : Bool) : TasksKept s (matEnd s p strand gone tend) := ⟨rfl, rfl, rfl⟩

/-- A departing waiter changes its own latch and the withdrawals alone. -/
theorem departLatch_spec (s : State) (slot : Nat) :
    (departLatch s slot).sch = s.sch ∧ (departLatch s slot).now = s.now ∧ (departLatch s slot).mem = s.mem := by
  unfold departLatch
  extract_lets k s1
  have h1 : s1.sch = s.sch ∧ s1.now = s.now ∧ s1.mem = s.mem := by
    show (if _ then _ else _ : State).sch = _ ∧ (if _ then _ else _ : State).now = _ ∧ (if _ then _ else _ : State).mem = _
    split
    · exact ⟨rfl, rfl, rfl⟩
    · exact ⟨rfl, rfl, rfl⟩
  split
  · exact h1
  · exact h1

theorem faultSteps_tasks (s : State) (p strand task status cause addr : Nat) : TasksKept s (faultSteps s p strand task status cause addr) := by
  unfold faultSteps
  extract_lets s1 s2 s3 s4
  have h3 : TasksKept s s3 := ((bump_side s _ 1).trans ((rset_side _ _ _).trans (event_side _ _ _))).tasks
  have h4 : TasksKept s s4 := by
    show TasksKept s (if _ then _ else _)
    split
    · split
      · exact h3.trans (event_side _ _ _).tasks
      · exact h3
    · exact .refl s
  split
  · exact h4
  · exact h4.trans (report_tasks _ _ _ _ _)

/-! ### The end of an attempt (10 R397) -/

section attempt
variable {id status cause result addr : Nat} {x : Task}

/-- The strand of an attempt that ends: its commands cancelled, its accumulation dropped, its waiter departed, IDLE. -/
def freedStrand (s : State) (id : Nat) (x : Task) (tend : Bool) : State :=
  hartSet (departLatch (matEnd (cancelCmds s x.pcore id) x.pcore x.strand (((coreGet s x.pcore).cmds.filter fun c => c.task == id).map (·.id)) tend)
    (64 * x.pcore + x.strand)) (64 * x.pcore + x.strand) hartReset

/-- A task whose attempt has ended. -/
def endedTask (x : Task) (now status cause result : Nat) : Task :=
  { x with state := .ended, endAt := now, status := status, cause := cause, result := result }

/-- The counters of an end: its core's, its logical core's, and the late ones. -/
def countEnd (s : State) (x : Task) (status : Nat) : State :=
  let s := bump1 s (regCorTaskCnt x.pcore)
  let c := telGet s x.lcore
  let s := telPut s x.lcore { c with ended := c.ended + 1, late := c.late + b2n (status == 2) }
  if status = 2 then bump1 s regSchLate else s

/-- An attempt that ends, part by part. -/
theorem endTask_eq (hx : taskGet s id = some x) (hst : x.state = .running ∨ x.state = .ending) : ∃ w,
    w = faultSteps (countEnd (taskPut (freedStrand s id x (status == 0)) id (endedTask x (freedStrand s id x (status == 0)).now status cause result))
      x status) x.pcore x.strand id status cause addr ∧
    endTask s id status cause result addr = { w with sch := { w.sch with arb := w.sch.arb ++ [.final id] } } := by
  refine ⟨_, rfl, ?_⟩
  have hlive : ¬(x.state ≠ .running ∧ x.state ≠ .ending) := by
    rcases hst with hst | hst <;> simp [hst]
  unfold endTask
  rw [hx]
  exact if_neg hlive

theorem freedStrand_spec (hc : Canonical s) (tend : Bool) : hartAt (freedStrand s id x tend) (64 * x.pcore + x.strand) = hartReset ∧
    (freedStrand s id x tend).sch = s.sch ∧ (freedStrand s id x tend).now = s.now := by
  have hk := kept_departLatch (slot := 64 * x.pcore + x.strand) (kept_matEnd (p := x.pcore) (strand := x.strand)
    (gone := ((coreGet s x.pcore).cmds.filter fun c => c.task == id).map (·.id)) (tend := tend)
    (kept_cancelCmds (p := x.pcore) (task := id) (kept_self hc)))
  have hcancel := (cancelCmds_tasks s x.pcore id).trans (matEnd_tasks _ x.pcore x.strand
    (((coreGet s x.pcore).cmds.filter fun c => c.task == id).map (·.id)) tend)
  obtain ⟨hsch, hnow, -⟩ := departLatch_spec (matEnd (cancelCmds s x.pcore id) x.pcore x.strand
    (((coreGet s x.pcore).cmds.filter fun c => c.task == id).map (·.id)) tend) (64 * x.pcore + x.strand)
  exact ⟨hartAt_hartSet_self hk.canon _ _, hsch.trans hcancel.sch, hnow.trans hcancel.now⟩

theorem countEnd_spec (s : State) (x : Task) (status : Nat) : (countEnd s x status).harts = s.harts ∧
    (countEnd s x status).sch.tasks = s.sch.tasks ∧ (countEnd s x status).sch.arb = s.sch.arb := by
  unfold countEnd
  extract_lets s1 c s2
  have h1 : s1.harts = s.harts ∧ s1.sch = s.sch := ⟨bump_harts s _ 1, bump_sch s _ 1⟩
  have h2 : s2.harts = s.harts ∧ s2.sch.tasks = s.sch.tasks ∧ s2.sch.arb = s.sch.arb :=
    ⟨h1.1, (congrArg SchUnit.tasks h1.2 : s1.sch.tasks = _), (congrArg SchUnit.arb h1.2 : s1.sch.arb = _)⟩
  split
  · rw [bump1, bump_harts, bump_sch]
    exact h2
  · exact h2

/-- What the end of an attempt leaves of its strand, its task and the commit arbiter. -/
theorem endTask_spec (hc : Canonical s) (hx : taskGet s id = some x) (hst : x.state = .running ∨ x.state = .ending) :
    hartAt (endTask s id status cause result addr) (64 * x.pcore + x.strand) = hartReset ∧
      taskGet (endTask s id status cause result addr) id = some (endedTask x s.now status cause result) ∧
      (endTask s id status cause result addr).sch.arb = s.sch.arb ++ [.final id] := by
  obtain ⟨w, hw, he⟩ := endTask_eq (status := status) (cause := cause) (result := result) (addr := addr) hx hst
  obtain ⟨hhart, hsch, hnow⟩ := freedStrand_spec (id := id) (x := x) hc (status == 0)
  obtain ⟨hh, htasks, harb⟩ := countEnd_spec (taskPut (freedStrand s id x (status == 0)) id
    (endedTask x (freedStrand s id x (status == 0)).now status cause result)) x status
  have hf := faultSteps_tasks (countEnd (taskPut (freedStrand s id x (status == 0)) id
    (endedTask x (freedStrand s id x (status == 0)).now status cause result)) x status) x.pcore x.strand id status cause addr
  rw [← hw] at hf
  rw [he]
  refine ⟨?_, ?_, ?_⟩
  · rw [← hhart]
    exact congrArg (fun m => mget (fun _ => hartReset) m (64 * x.pcore + x.strand)) (hf.harts.trans hh)
  · have ht : taskGet w id = taskGet (taskPut (freedStrand s id x (status == 0)) id
        (endedTask x (freedStrand s id x (status == 0)).now status cause result)) id := by
      rw [taskGet, taskGet, hf.sch, htasks]
    rw [← hnow]
    exact ht.trans (taskGet_taskPut_self _ _)
  · show w.sch.arb ++ [.final id] = _
    rw [hf.sch, harb]
    exact congrArg (fun q => SchUnit.arb q ++ [.final id]) hsch

/-- An end that arises from the task itself, before the apply point or at it (03 R97). -/
theorem endOwn_spec (hc : Canonical s) (hx : taskGet s id = some x) (hst : x.state = .running ∨ x.state = .ending) :
    hartAt (endOwn s id status cause result addr) (64 * x.pcore + x.strand) = hartReset ∧
      taskGet (endOwn s id status cause result addr) id = some (endedTask x s.now (if atApply s then 2 else status) (if atApply s then 0 else cause)
        (if atApply s then 0 else result)) ∧
      (endOwn s id status cause result addr).sch.arb = s.sch.arb ++ [.final id] := by
  unfold endOwn
  split
  · exact endTask_spec hc hx hst
  · exact endTask_spec hc hx hst

end attempt

/-! ### A control core's fault (15 R584) -/

/-- Harts, tasks and memory are as before. -/
structure FaultKept (s t : State) : Prop where
  harts : t.harts = s.harts
  sch : t.sch = s.sch
  mem : t.mem = s.mem

theorem FaultKept.trans (h : FaultKept s t) (k : FaultKept t u) : FaultKept s u :=
  ⟨k.harts.trans h.harts, k.sch.trans h.sch, k.mem.trans h.mem⟩

theorem FaultKept.foldl {α : Type} (l : List α) {f : State → α → State} (hf : ∀ s x, FaultKept s (f s x)) (s : State) : FaultKept s (l.foldl f s) :=
  List.foldlRecOn l f (motive := FaultKept s) ⟨rfl, rfl, rfl⟩ fun t ht x _ => ht.trans (hf t x)

theorem ReportSide.fault (h : ReportSide s t) : FaultKept s t := by
  rw [h]
  exact ⟨rfl, rfl, rfl⟩

theorem UnitSide.fault (h : UnitSide s t) : FaultKept s t := by
  rw [h]
  exact ⟨rfl, rfl, rfl⟩

theorem report_fault (s : State) (k a u d : Nat) : FaultKept s (report s k a u d) := by
  rw [report_only]
  exact ⟨rfl, rfl, rfl⟩

theorem postPort_fault (s : State) (kind p : Nat) (body : List Byte) : FaultKept s (postPort s kind p body) := ⟨rfl, rfl, rfl⟩

theorem breakBarrier_fault (s : State) (b unit tick : Nat) (port : Option Nat) : FaultKept s (breakBarrier s b unit tick port) := by
  unfold breakBarrier
  extract_lets x s1 near s2 s3 s4
  have h2 : FaultKept s s2 := ⟨rfl, rfl, rfl⟩
  have h3 : FaultKept s s3 := h2.trans ((bump_side s2 _ 1).trans (event_side _ _ _)).fault
  have h4 : FaultKept s s4 := h3.trans (report_fault _ _ _ _ _)
  split
  · exact ⟨rfl, rfl, rfl⟩
  · refine h4.trans (.foldl _ (fun s p => ?_) s4)
    split
    · exact ⟨rfl, rfl, rfl⟩
    · exact postPort_fault _ _ _ _

theorem breakWhere_fault (s : State) (f : Barrier → Bool) (unit : Nat) : FaultKept s (breakWhere s f unit) :=
  .foldl _ (fun t (e : Nat × Barrier) => breakBarrier_fault t e.1 unit t.tsq.tick none) s

/-- A control core that faults stops; nothing else runs otherwise, and no task and no byte of memory changes. -/
theorem ctrlFault_spec (hc : Canonical s) (k : Fin 20) (cause : Nat) : hart (ctrlFault s k.val cause) (.ctrl k) = hartReset ∧
    (ctrlFault s k.val cause).sch = s.sch ∧ (ctrlFault s k.val cause).mem = s.mem := by
  have hdep : Canonical (departLatch s (17408 + k.val)) := (kept_departLatch (kept_self hc)).canon
  have hself := hartAt_hartSet_self hdep (17408 + k.val) hartReset
  obtain ⟨hsch, -, hmem⟩ := departLatch_spec s (17408 + k.val)
  suffices hk : FaultKept (hartSet (departLatch s (17408 + k.val)) (17408 + k.val) hartReset) (ctrlFault s k.val cause) by
    refine ⟨?_, hk.sch.trans hsch, hk.mem.trans hmem⟩
    rw [← hself]
    exact congrArg (fun m => mget (fun _ => hartReset) m (17408 + k.val)) hk.harts
  unfold ctrlFault
  extract_lets n pc s1 s2 s3 c ft s4 s5 s6
  have h3 : FaultKept s2 s3 := report_fault _ _ _ _ _
  have h4 : FaultKept s2 s4 := h3.trans ⟨rfl, rfl, rfl⟩
  have h5 : FaultKept s2 s5 := (h4.trans (setUnit_side s4 _ _ _).fault).trans (bump_side _ _ 1).fault
  have h6 : FaultKept s2 s6 := h5.trans (report_fault _ _ _ _ _)
  split
  · exact h3.trans ⟨rfl, rfl, rfl⟩
  · exact h6.trans (breakWhere_fault _ _ _)

/-! ### TEND, ILLEGAL and the request to commit (03 R96, R102; 10 R397) -/

@[simp] theorem atApply_issued (s : State) (h : Hart) : atApply (issued s h) = atApply s := by
  simp only [atApply, inApply, issued_tsq, issued_now, applyAt_issued]

theorem illegal_exec (hr : Runs s (.illegal h g) h g) : exec (.illegal h g) s = .next (illegal (issued s h) h) :=
  exec_runs (f := fun s => illegal s h) rfl hr

/-- TEND marks the task ENDING with its result, and holds the strand without a deadline. -/
theorem tend_holds {x : Task} (hc : Canonical s) (hr : Runs s (.tend (.strand p n) g a) (.strand p n) g)
    (hx : taskGet s (hart s (.strand p n)).task = some x) : ∃ t, exec (.tend (.strand p n) g a) s = .next t ∧
      hart t (.strand p n) = { hart s (.strand p n) with st := .wait, wait := .ending, deadline := 0 } ∧
      taskGet t (hart s (.strand p n)).task = some { x with state := .ending, result := (reg s (.strand p n) a).toNat % 2 ^ 32 } ∧ t.mem = s.mem := by
  have hk := kept_taskPut (id := (hart s (.strand p n)).task) (t := { x with state := .ending, result := (reg s (.strand p n) a).toNat % 2 ^ 32 })
    (kept_self (issued_canonical hc (.strand p n)))
  have hexec : exec (.tend (.strand p n) g a) s = .next (putHart (taskPut (issued s (.strand p n)) (hart s (.strand p n)).task
      { x with state := .ending, result := (reg s (.strand p n) a).toNat % 2 ^ 32 }) (.strand p n)
      { hart (issued s (.strand p n)) (.strand p n) with st := .wait, wait := .ending, deadline := 0 }) := by
    rw [exec_runs rfl hr, ← hart_issued s (.strand p n) (.strand p n), ← reg_issued s (.strand p n) (.strand p n)]
    rw [← taskGet_issued s (.strand p n), ← hart_issued s (.strand p n) (.strand p n)] at hx
    rw [strandOnly]
    dsimp only
    rw [hx]
    rfl
  refine ⟨_, hexec, ?_, ?_, ?_⟩
  · rw [hart_putHart_self hk.canon, hart_issued]
  · rw [taskGet, putHart_sch]
    exact taskGet_taskPut_self _ _
  · rw [putHart_mem]
    exact issued_mem s _

/-- Settles O19: the end of an attempt, whoever asks for it, ends at one place. -/
theorem taskEnds : Obligations.TaskEnds := by
  unfold Obligations.TaskEnds
  refine ⟨fun s h g rd a x hc => ⟨?tend, ?ctrl, ?commit⟩, fun s h g hc hr => ⟨?illegal, ?stops⟩⟩
  case tend =>
    rintro p n rfl hr hx
    exact tend_holds hc hr hx
  case ctrl =>
    have htend (hr : Runs s (.tend h g a) h g) := exec_runs (c := .tend h g a) rfl hr
    have hspawn (hr : Runs s (.spawn h g rd a) h g) := exec_runs (c := .spawn h g rd a) rfl hr
    rintro k rfl
    exact ⟨fun hr => htend hr, fun hr => hspawn hr⟩
  case commit =>
    rintro p n rfl hw hcmds hx hst hp hn
    have hnone : (coreGet s p.val).cmds.any (fun y => y.task == (hart s (.strand p n)).task) = false := by
      simpa using hcmds
    have hexec : exec (.taskCommitRequest (.strand p n)) s = .next (endOwn s (hart s (.strand p n)).task 0 0 x.result 0) := by
      rw [exec_taskCommitRequest, execTaskCommitRequest, if_neg (by simp [hw, hnone]), hx]
    obtain ⟨hhart, htask, harb⟩ := endOwn_spec (status := 0) (cause := 0) (result := x.result) (addr := 0) hc hx (.inr hst)
    rw [hp, hn] at hhart
    refine ⟨_, hexec, congrArg HartSt.st hhart, ?_, harb⟩
    rw [htask, ite_self]
    rfl
  case illegal =>
    rintro p n x rfl hx hst hp hn
    have hi := issued_canonical hc (.strand p n)
    have hexec : exec (.illegal (.strand p n) g) s = .next (endOwn (issued s (.strand p n)) (hart s (.strand p n)).task 3 1 0
        (hart s (.strand p n)).pc.toNat) := by
      rw [illegal_exec hr, illegal, hart_issued, demandFault, hart_issued]
    obtain ⟨hhart, htask, harb⟩ := endOwn_spec (status := 3) (cause := 1) (result := 0) (addr := (hart s (.strand p n)).pc.toNat) hi
      ((taskGet_issued s (.strand p n) _).trans hx) (.inl hst)
    rw [hp, hn] at hhart
    refine ⟨_, hexec, congrArg HartSt.st hhart, congrArg HartSt.task hhart, ?_, ?_⟩
    · rw [htask, ite_self, atApply_issued, issued_now]
      rfl
    · rw [harb, issued_sch]
  case stops =>
    rintro k rfl
    obtain ⟨hhart, hsch, hmem⟩ := ctrlFault_spec hc k 1
    exact ⟨_, illegal_exec hr, congrArg HartSt.st hhart, hmem, hsch⟩

/-! ### Dispatch (03 R91) -/

/-- What a strand holds as its task starts. -/
def startedHart (s : State) (id : Nat) (x : Task) : HartSt :=
  { hartReset with
    st := .ready, task := id, pc := BitVec.ofNat 48 x.desc.entry
    regs := Vector.ofFn fun i : Reg => if i.val = 0 ∨ 8 < i.val then 0 else BitVec.ofNat 64 (x.desc.args.getD (i.val - 1) 0)
    startAt := s.now }

/-- A task as it starts on a strand. -/
def startedTask (s : State) (x : Task) (l p n : Nat) : Task :=
  { x with state := .running, lcore := l, pcore := p, die := coreDie p, strand := n, started := true, inRerun := false, startAt := s.now
           mismatches := 0, result := 0 }

/-- A dispatch counted at the core that takes the task. -/
def dispatchCounted (s : State) (x : Task) (l : Nat) : State :=
  let s := if x.lcore = l then s
    else let c := telGet s l; telPut s l { c with stolen := c.stolen + 1 }
  let c := telGet s l
  bump1 (telPut s l { c with dispatched := c.dispatched + 1, waitSum := c.waitSum + (s.now - x.waitFrom) }) regSchDispatched

/-- The state in which a chosen task has left its list. -/
def dispatchTaken (s : State) (id : Nat) (x : Task) (l p n : Nat) : State :=
  let s := taskPut (dispatchCounted s x l) id (startedTask (dispatchCounted s x l) x l p n)
  if x.desc.flow = 0 then s else { s with sch := { s.sch with flowLast := pput s.sch.flowLast x.desc.flow l } }

theorem startTask_eq (s : State) (id : Nat) (x : Task) (l p n : Nat) :
    startTask s id x l p n = hartSet (dispatchTaken s id x l p n) (64 * p + n) (startedHart (dispatchTaken s id x l p n) id x) := rfl

theorem dispatchCounted_spec (hc : Canonical s) (x : Task) (l : Nat) : Canonical (dispatchCounted s x l) ∧
    (dispatchCounted s x l).harts = s.harts ∧ (dispatchCounted s x l).mem = s.mem ∧ (dispatchCounted s x l).now = s.now := by
  unfold dispatchCounted
  extract_lets c0 s1 c
  have h1 : Canonical s1 ∧ s1.harts = s.harts ∧ s1.mem = s.mem ∧ s1.now = s.now := by
    show Canonical (if _ then _ else _) ∧ (if _ then _ else _ : State).harts = _ ∧ (if _ then _ else _ : State).mem = _ ∧
      (if _ then _ else _ : State).now = _
    split
    · exact ⟨hc, rfl, rfl, rfl⟩
    · exact ⟨(kept_telPut (kept_self hc)).canon, rfl, rfl, rfl⟩
  obtain ⟨hk, hh, hm, hn⟩ := h1
  exact ⟨(kept_bump1 (kept_telPut (kept_self hk))).canon, (bump_harts _ _ 1).trans hh, (bump_mem _ _ 1).trans hm, (bump_now _ _ 1).trans hn⟩

theorem dispatchTaken_spec (hc : Canonical s) (id : Nat) (x : Task) (l p n : Nat) : Canonical (dispatchTaken s id x l p n) ∧
    (dispatchTaken s id x l p n).harts = s.harts ∧ (dispatchTaken s id x l p n).mem = s.mem ∧ (dispatchTaken s id x l p n).now = s.now ∧
      taskGet (dispatchTaken s id x l p n) id = some (startedTask s x l p n) := by
  obtain ⟨hk, hh, hm, hn⟩ := dispatchCounted_spec hc x l
  have hput := (kept_taskPut (id := id) (t := startedTask (dispatchCounted s x l) x l p n) (kept_self hk)).canon
  have htask : startedTask (dispatchCounted s x l) x l p n = startedTask s x l p n := by rw [startedTask, hn]; rfl
  unfold dispatchTaken
  extract_lets s1
  have h1 : Canonical s1 ∧ s1.harts = s.harts ∧ s1.mem = s.mem ∧ s1.now = s.now ∧ taskGet s1 id = some (startedTask s x l p n) :=
    ⟨hput, hh, hm, hn, (taskGet_taskPut_self _ _).trans (congrArg some htask)⟩
  split
  · exact h1
  · obtain ⟨hk1, hrest⟩ := h1
    exact ⟨sch_canonical hk1 _, hrest⟩

/-- A start leaves memory and every other strand as they were. -/
theorem startTask_spec (hc : Canonical s) (id : Nat) (x : Task) (l p n : Nat) :
    hartAt (startTask s id x l p n) (64 * p + n) = startedHart s id x ∧ (∀ m, m ≠ 64 * p + n → hartAt (startTask s id x l p n) m = hartAt s m) ∧
      taskGet (startTask s id x l p n) id = some (startedTask s x l p n) ∧ (startTask s id x l p n).mem = s.mem ∧
      (startTask s id x l p n).now = s.now := by
  obtain ⟨hk, hh, hm, hn, htask⟩ := dispatchTaken_spec hc id x l p n
  have hsame : startedHart (dispatchTaken s id x l p n) id x = startedHart s id x := by rw [startedHart, hn]; rfl
  rw [startTask_eq, hsame]
  refine ⟨hartAt_hartSet_self hk _ _, fun m hne => ?_, htask, hm, hn⟩
  rw [hartAt_hartSet_ne _ hne, hartAt, hartAt, hh]

/-- The registers of a strand whose task starts: its arguments in g1-g8, and 0 elsewhere. -/
theorem startedHart_regs (s : State) (id : Nat) (x : Task) (i : Reg) : (startedHart s id x).regs[i] =
    if 1 ≤ i.val ∧ i.val ≤ 8 then BitVec.ofNat 64 (x.desc.args.getD (i.val - 1) 0) else 0 := by
  have e : (startedHart s id x).regs[i] = if i.val = 0 ∨ 8 < i.val then 0 else BitVec.ofNat 64 (x.desc.args.getD (i.val - 1) 0) := by
    simp [startedHart]
  rw [e]
  by_cases hi : 1 ≤ i.val ∧ i.val ≤ 8
  · rw [if_pos hi, if_neg (by omega)]
  · rw [if_neg hi, if_pos (by omega)]

/-- The count of elapsed cycles of a strand that starts now is 0 (03 R114). -/
theorem special_cycles_zero (hstart : (hart s h).startAt = s.now) : special s h 0x009 = some 0 := by
  have hz : (s.now - (hart s h).startAt) * 3 / 5 = 0 := by rw [hstart, Nat.sub_self]
  cases h with
  | ctrl k => rfl
  | strand p n => exact congrArg (fun x => some (BitVec.ofNat 64 x)) hz

/-- Settles O20: the chosen task starts on a strand that holds nothing but its arguments. -/
theorem dispatchStartsTasks : Obligations.DispatchStartsTasks := by
  unfold Obligations.DispatchStartsTasks
  intro s l p n id x hc hn hp hmay hrdy hgrey hidle hchosen
  have hexec : exec (.taskDispatch l) s = .next (startTask s id x l p n) := by
    rw [exec_taskDispatch, execTaskDispatch, hp]
    dsimp only
    rw [if_neg (by simp [hmay, hrdy, hgrey]), hidle]
    rcases hchosen with hown | ⟨hown, hsteal⟩
    · simp only [hown]
    · simp only [hown, hsteal]
  obtain ⟨hhart, hother, htask, hmem, hnow⟩ := startTask_spec hc id x l p n
  refine ⟨_, hexec, hmem, htask, ?_⟩
  rw [hhart]
  refine ⟨rfl, rfl, rfl, rfl, rfl, rfl, rfl, fun h hh => special_cycles_zero ?_, startedHart_regs s id x, hother⟩
  rw [hart, hh, hhart, hnow]
  rfl

end Sys2Proof.Machine
end

section
/-! SUPPORT. What the commands of a core's engines change as they start and complete (03 R102, R107-R113). -/

namespace Sys2Proof.Machine

variable {s t u : State} {core : Nat} {c : Cmd} {f : Cmd → Cmd}

/-! ### Counts, messages and free values -/

/-- What counting, posting and drawing may change: registers, the message layer, placement's counts and the free values drawn. -/
def CountSide (s t : State) : Prop := t = { s with csr := t.csr, hws := t.hws, plc := t.plc, freeCtr := t.freeCtr }

theorem CountSide.refl (s : State) : CountSide s s := rfl

theorem CountSide.trans (h : CountSide s t) (k : CountSide t u) : CountSide s u := by
  unfold CountSide at *
  rw [k, h]

theorem CountSide.foldl {α : Type} (l : List α) {g : State → α → State} (hg : ∀ s x, CountSide s (g s x)) (s : State) : CountSide s (l.foldl g s) :=
  List.foldlRecOn l g (motive := CountSide s) (.refl s) fun t ht x _ => ht.trans (hg t x)

theorem CountSide.harts (h : CountSide s t) : t.harts = s.harts := by rw [h]
theorem CountSide.mem (h : CountSide s t) : t.mem = s.mem := by rw [h]
theorem CountSide.sch (h : CountSide s t) : t.sch = s.sch := by rw [h]
theorem CountSide.hit (h : CountSide s t) : t.hit = s.hit := by rw [h]

theorem CountSide.coreGet (h : CountSide s t) (p : Nat) : coreGet t p = coreGet s p := by rw [h]; rfl

theorem bump_count (s : State) (a n : Nat) : CountSide s (bump s a n) := by
  unfold CountSide
  conv_lhs => rw [bump_only]
  simp

theorem noRoute_count (s : State) : CountSide s (noRoute s) := (bump_count s _ 1).trans rfl

theorem post_count (s : State) (kind dst : Nat) (b : List Byte) : CountSide s (post s kind dst b) := by
  unfold CountSide
  conv_lhs => rw [post_only]
  rw [post_only]

theorem sendTagged_count (s : State) (kind dst tag : Nat) (alt : Bool) (b : List Byte) : CountSide s (sendTagged s kind dst tag alt b).2 := by
  unfold sendTagged
  split
  · rfl
  · exact noRoute_count s

/-- Requests sent to other devices go through the message layer alone (13 R507). -/
theorem sendNeeds_count (s : State) (p id : Nat) (q : Nat → Sample) (needs : List Need) : CountSide s (sendNeeds s p id q needs) := by
  refine .foldl needs (fun s n => ?_) s
  dsimp only [newTag]
  split
  · rfl
  · refine (CountSide.trans ?_ (sendTagged_count _ 0x01 n.dev _ false _)).trans rfl
    rfl

theorem countSectors_count (s : State) (c n : Nat) : CountSide s (countSectors s c n) := by
  unfold countSectors
  split <;> rfl

theorem countSpans_count (s : State) (spans : List (Nat × Nat)) : CountSide s (countSpans s spans) := by
  refine .foldl _ (fun s u => ?_) s
  split
  · exact countSectors_count _ _ _
  · rfl

theorem countRow_count (s : State) (a id x : Nat) (remote : Bool) : CountSide s (countRow s a id x remote) := by
  unfold countRow
  split <;> rfl

theorem countRowRead_count (s : State) (a id x : Nat) (remote : Bool) : CountSide s (countRowRead s a id x remote) :=
  (countSectors_count _ _ _).trans (countRow_count _ _ _ _ _)

theorem readDir_count (s : State) (die id x : Nat) : CountSide s (readDir s die id x) := by
  unfold readDir
  dsimp only [draw]
  split
  · exact countSectors_count _ _ _
  · split
    · rfl
    · split
      · exact CountSide.trans (t := { s with freeCtr := s.freeCtr + 1 + 1 }) rfl (countSectors_count _ _ _)
      · rfl

theorem addCounts_count (s : State) (l : List (Nat × Nat)) : CountSide s (addCounts s l) := .foldl l (fun s c => bump_count s c.1 c.2) s

/-! ### The commands of a core (03 R102, R107-R110) -/

/-- A changed command stands in its place in its core's queue. -/
theorem cmds_cmdMod (hc : Canonical s) (p id : Nat) (f : Cmd → Cmd) :
    (coreGet (cmdMod s p id f) p).cmds = (coreGet s p).cmds.map fun x => if x.id = id then f x else x := by
  rw [cmdMod, coreGet_corePut_self hc]

/-- Two changes of one command are one, where the first keeps its id. -/
theorem map_change_twice (l : List Cmd) (id : Nat) {f g : Cmd → Cmd} (hf : ∀ x, (f x).id = x.id) :
    (l.map fun x => if x.id = id then f x else x).map (fun x => if x.id = id then g x else x) = l.map fun x => if x.id = id then g (f x) else x := by
  rw [List.map_map]
  refine List.map_congr_left fun x _ => ?_
  by_cases hx : x.id = id
  · simp [hx, hf]
  · simp [hx]

/-- A command that starts as `f` says. -/
theorem cmdMod_started (hc : Canonical s) (core : Nat) (c : Cmd) (f : Cmd → Cmd) :
    Started (cmdMod s core c.id fun x => { f x with running := true, startAt := s.now }) s core c f :=
  ⟨cmds_cmdMod hc _ _ _, rfl, rfl, rfl, rfl⟩

theorem Started.count (h : Started t s core c f) (k : CountSide t u) : Started u s core c f := by
  obtain ⟨hcmds, hharts, hmem, hsch, hhit⟩ := h
  exact ⟨by rw [k.coreGet, hcmds], k.harts.trans hharts, k.mem.trans hmem, k.sch.trans hsch, k.hit.trans hhit⟩

/-- A command that starts with its status decided. -/
theorem startRefused_started (hc : Canonical s) (core : Nat) (c : Cmd) (st : Nat) :
    Started (startRefused s core c st) s core c fun x => { x with status := st } :=
  cmdMod_started hc core c fun x => { x with status := st }

/-- A core whose command has completed with a status. -/
def completedCore (k : CoreSt) (c : Cmd) (st : Nat) : CoreSt :=
  { k with cmds := k.cmds.filter (fun x => x.id ≠ c.id), places := pput k.places (c.id % 4096) (c.id, st) }

/-- A completion, part by part. -/
theorem complete_eq (s : State) (core : Nat) (c : Cmd) (st : Nat) : complete s core c st =
    (if (hartAt s (64 * core + c.hart)).task = c.task then
      hartSet (corePut s core (completedCore (coreGet s core) c st)) (64 * core + c.hart) { hartAt s (64 * core + c.hart) with
        drain := (hartAt s (64 * core + c.hart)).drain.map fun d => if d.1 = c.id ∧ d.2 = none then (d.1, some st) else d }
    else corePut s core (completedCore (coreGet s core) c st)) := rfl

theorem coreGet_complete (hc : Canonical s) (core : Nat) (c : Cmd) (st : Nat) :
    coreGet (complete s core c st) core = completedCore (coreGet s core) c st := by
  rw [complete_eq]
  split
  · exact coreGet_corePut_self hc _ _
  · exact coreGet_corePut_self hc _ _

/-- The status of a completed command stands in its place. -/
theorem complete_place (hc : Canonical s) (core : Nat) (c : Cmd) (st : Nat) :
    pfind (coreGet (complete s core c st) core).places (c.id % 4096) = some (c.id, st) := by
  rw [coreGet_complete hc]
  exact pfind_pput_self _ _ _

/-- A drain list in which a command's status has come holds that command without one no more. -/
theorem drain_answered (l : List (Nat × Option Nat)) (id st : Nat) :
    (id, none) ∉ l.map fun d => if d.1 = id ∧ d.2 = none then (d.1, some st) else d := by
  intro hmem
  obtain ⟨d, -, hd⟩ := List.mem_map.1 hmem
  by_cases h : d.1 = id ∧ d.2 = none
  · simp [h] at hd
  · rw [if_neg h] at hd
    exact h (by simp [hd])

/-- A command that completes, in a state whose harts are those it had. -/
theorem complete_completed (hc : Canonical t) (hh : t.harts = s.harts) (core : Nat) (c : Cmd) (st : Nat) :
    Completed (complete t core c st) s core c st := by
  have hat (n : Nat) : hartAt t n = hartAt s n := by rw [hartAt, hartAt, hh]
  refine ⟨fun x hx => ?gone, complete_place hc core c st, fun htask => ?drain, fun n hn => ?others⟩
  case gone =>
    rw [coreGet_complete hc] at hx
    simpa using (List.mem_filter.1 hx).2
  case drain =>
    have hk : Canonical (corePut t core (completedCore (coreGet t core) c st)) := (kept_corePut (kept_self hc)).canon
    rw [complete_eq, if_pos (by rwa [hat]), hartAt_hartSet_self hk]
    exact drain_answered _ _ _
  case others =>
    rw [← hat, complete_eq]
    split
    · exact hartAt_hartSet_ne _ hn
    · rfl

@[simp] theorem complete_mem (s : State) (p : Nat) (c : Cmd) (st : Nat) : (complete s p c st).mem = s.mem := by
  rw [complete_eq]
  split <;> rfl

@[simp] theorem complete_sch (s : State) (p : Nat) (c : Cmd) (st : Nat) : (complete s p c st).sch = s.sch := by
  rw [complete_eq]
  split <;> rfl

@[simp] theorem complete_hws (s : State) (p : Nat) (c : Cmd) (st : Nat) : (complete s p c st).hws = s.hws := by
  rw [complete_eq]
  split <;> rfl

@[simp] theorem rget_complete (s : State) (p : Nat) (c : Cmd) (st a : Nat) : rget (complete s p c st) a = rget s a := by
  rw [complete_eq]
  split <;> rfl

/-! ### Gathers and look-ups start (03 R109, R110; 04 R154, R157, R173) -/

/-- A gather as its evaluation leaves it: what it will write and count, the fragment tasks of its hubs, and the outcomes of those hubs. -/
def gatherEvaluated (o : GOut) (x : Cmd) : Cmd :=
  { x with writes := o.writes, counts := o.counts, frags := x.frags ++ o.frags, got := x.got ++ o.splits.map fun e => (splitKey e.1, natLe 8 e.2) }

/-- A gather that starts, before it fetches ahead and asks other devices. -/
def gatherRunning (s : State) (core : Nat) (c : Cmd) (o : GOut) : State :=
  keepSplits (cmdMod s core c.id fun x => { x with running := true, startAt := s.now, writes := o.writes, counts := o.counts }) core c o

theorem gatherRunning_canonical (hc : Canonical s) (core : Nat) (c : Cmd) (o : GOut) : Canonical (gatherRunning s core c o) :=
  (kept_keepSplits (kept_cmdMod (kept_self hc))).canon

theorem gatherRunning_started (hc : Canonical s) (core : Nat) (c : Cmd) (o : GOut) :
    Started (gatherRunning s core c o) s core c (gatherEvaluated o) := by
  refine Started.count (t := cmdMod (cmdMod s core c.id _) core c.id _) ⟨?_, rfl, rfl, rfl, rfl⟩ ((bump_count _ _ _).trans (bump_count _ _ _))
  have hk : Canonical (cmdMod s core c.id fun x => { x with running := true, startAt := s.now, writes := o.writes, counts := o.counts }) :=
    (kept_cmdMod (kept_self hc)).canon
  rw [cmds_cmdMod hk, cmds_cmdMod hc]
  exact map_change_twice _ _ fun x => rfl

/-- What is fetched ahead is held beside the commands. -/
theorem ahead_started (hc : Canonical t) (h : Started t s core c f) (a : List RunAhead) :
    Started (corePut t core { coreGet t core with ahead := a }) s core c f := by
  obtain ⟨hcmds, hharts, hmem, hsch, hhit⟩ := h
  refine ⟨?_, hharts, hmem, hsch, hhit⟩
  rw [coreGet_corePut_self hc]
  exact hcmds

/-- A gather that has started, with what it fetched ahead and what it asks other devices for. -/
def gatherAsks (s : State) (core : Nat) (c : Cmd) (o : GOut) : State :=
  let t := gatherRunning s core c o
  let g := aheadData t core c
  sendNeeds (if g.isEmpty then t else corePut t core { coreGet t core with ahead := (coreGet t core).ahead ++ [⟨c.task, c.id, t.now, g⟩] })
    core c.id (sampleOf c.desc) o.needs

theorem gatherAsks_started (hc : Canonical s) (core : Nat) (c : Cmd) (o : GOut) :
    Started (gatherAsks s core c o) s core c (gatherEvaluated o) := by
  refine Started.count ?_ (sendNeeds_count _ _ _ _ _)
  split
  · exact gatherRunning_started hc core c o
  · exact ahead_started (gatherRunning_canonical hc core c o) (gatherRunning_started hc core c o) _

/-- A look-up that has started, with what it asks other devices for. -/
def lookupAsks (s : State) (core : Nat) (c : Cmd) (o : GOut) : State :=
  sendNeeds (cmdMod s core c.id fun x => { x with running := true, startAt := s.now, writes := o.writes, counts := o.counts })
    core c.id (sampleOf c.desc) o.needs

theorem lookupAsks_started (hc : Canonical s) (core : Nat) (c : Cmd) (o : GOut) :
    Started (lookupAsks s core c o) s core c fun x => { x with writes := o.writes, counts := o.counts } :=
  (cmdMod_started hc core c fun x => { x with writes := o.writes, counts := o.counts }).count (sendNeeds_count _ _ _ _ _)

theorem gatherStart_reads (hst : startable? s core .gather = some c) (hb : badGather s core c.desc = false)
    (hr : fld c.desc 0 1 = 1 ∨ readable s (fld c.desc 6 2) = true) :
    execGatherStart core s = (match (evalGather s core c).cause with
      | some (k, a) => .next (failCmd s core c (evalGather s core c) k a)
      | none => .next (gatherAsks s core c (evalGather s core c))) := by
  have hgood : ¬(fld c.desc 0 1 ≠ 1 ∧ (!readable s (fld c.desc 6 2)) = true) := by
    rintro ⟨hm, hn⟩
    rcases hr with hr | hr
    · exact hm hr
    · simp [hr] at hn
  rw [execGatherStart, hst]
  exact (if_neg (by simp [hb])).trans (if_neg hgood)

theorem lookupStart_reads (hst : startable? s core .lookup = some c) (hb : badLookup s core c.desc = false) (ht : badTable s c.desc = false)
    (hm : fld c.desc 0 1 ≠ 3) : execLookupStart core s = (match (evalLookup s core c).cause with
      | some (k, a) => .next (failCmd s core c (evalLookup s core c) k a)
      | none => .next (lookupAsks s core c (evalLookup s core c))) := by
  rw [execLookupStart, hst]
  exact (if_neg (by simp [hb])).trans ((if_neg (by simp [ht])).trans (if_neg hm))

/-- Settles O36: a start refuses, fails, or marks its command with what its evaluation gives. -/
theorem gatherEngineStarts : Obligations.GatherEngineStarts := by
  unfold Obligations.GatherEngineStarts
  intro s core c hc _
  refine ⟨fun hst => ?_, fun hst => ?_, fun hst => ⟨fun hb => ?_, fun hb hm ht => ?_, fun hb hr => ?gather⟩,
    fun hst => ⟨fun hb => ?_, fun hb ht => ?_, fun hb ht hm => ?_, fun hb ht hm => ?lookup⟩⟩
  case gather =>
    rw [exec_gatherStart, gatherStart_reads hst hb hr]
    refine ⟨fun ho => ⟨_, by rw [ho], gatherAsks_started hc core c _⟩, fun k a ho => by rw [ho]⟩
  case lookup =>
    rw [exec_lookupStart, lookupStart_reads hst hb ht hm]
    refine ⟨fun ho => ⟨_, by rw [ho], lookupAsks_started hc core c _⟩, fun k a ho => by rw [ho]⟩
  · rw [exec_gatherStart, execGatherStart, hst]
  · rw [exec_lookupStart, execLookupStart, hst]
  · refine ⟨_, ?_, startRefused_started hc core c 2⟩
    rw [exec_gatherStart, execGatherStart, hst]
    exact if_pos hb
  · refine ⟨_, ?_, startRefused_started hc core c 3⟩
    rw [exec_gatherStart, execGatherStart, hst]
    exact (if_neg (by simp [hb])).trans (if_pos ⟨hm, by simp [ht]⟩)
  · refine ⟨_, ?_, startRefused_started hc core c 2⟩
    rw [exec_lookupStart, execLookupStart, hst]
    exact if_pos hb
  · refine ⟨_, ?_, startRefused_started hc core c 3⟩
    rw [exec_lookupStart, execLookupStart, hst]
    exact (if_neg (by simp [hb])).trans (if_pos ht)
  · refine ⟨_, ?_, startRefused_started hc core c 0⟩
    rw [exec_lookupStart, execLookupStart, hst]
    exact (if_neg (by simp [hb])).trans ((if_neg (by simp [ht])).trans (if_pos hm))

end Sys2Proof.Machine
end

section
/-! SUPPORT. How the gather engine's running commands end: what lands, what is asked for, and what a send hands over (03 R110, R113; 04 R157-R175;
13 R511). -/

namespace Sys2Proof.Machine

variable {s t : State} {core : Nat} {c : Cmd}

/-! ### Submitting for the engines (10 R384-R392) -/

/-- A submission changes no hart and no byte of memory, whatever the scheduler answers. -/
theorem submit_kept (s : State) (b : List Byte) (req : Nat) (inner : Bool) :
    (submit s b req inner).2.harts = s.harts ∧ (submit s b req inner).2.mem = s.mem := by
  cases hb : badDesc s b inner with
  | true =>
    rw [submit_refused hb]
    exact ⟨bump_harts s _ 1, bump_mem s _ 1⟩
  | false =>
    by_cases hd : DueLater s (readDesc b)
    · by_cases hl : delayLen s (dieOf s (targetNow s (readDesc b)).1) < 65536
      · obtain ⟨t, y, hsub, hmem, hharts, -⟩ := submit_delayed (req := req) hb hd hl
        rw [hsub]
        exact ⟨hharts, hmem⟩
      · have hsub : submit s b req inner = (3, event s regSchEvents 1) :=
          (if_neg (by rw [hb]; exact Bool.false_ne_true)).trans ((if_pos hd).trans (if_pos (Nat.not_lt.1 hl)))
        rw [hsub]
        exact ⟨rfl, rfl⟩
    · by_cases hl : listLen s (targetNow s (readDesc b)).1 (readDesc b).prio < 1024
      · obtain ⟨t, y, hsub, hmem, hharts, -⟩ := submit_ready (req := req) hb hd hl
        rw [hsub]
        exact ⟨hharts, hmem⟩
      · rw [submit_full hb hd (Nat.not_lt.1 hl)]
        exact ⟨rfl, rfl⟩

theorem submitFrags_mem (req : Nat) (l : List (List Byte)) (s : State) : (submitFrags req l s).2.mem = s.mem := by
  induction l generalizing s with
  | nil => rfl
  | cons b r ih =>
    rw [submitFrags]
    dsimp only
    split
    · exact (submit_kept s b req true).2
    · exact (ih _).trans (submit_kept s b req true).2

/-! ### Send commands (03 R113; 13 R511) -/

/-- The scheduler's answer to a task that a send submits here. -/
def sentTask (s : State) (body : List Byte) : Nat × State := submit s (body.take 128) (fld body 128 8) true

/-- What a good send does with the message it makes. -/
theorem sendStart_good {kind : Nat} {body : List Byte} (hst : startable? s core .send = some c) (hb : badSend c.desc = false)
    (hbody : sendBody s core c = (kind, body)) : exec (.sendStart core) s =
      (if fld c.desc 2 2 = s.boot.dev then
        if kind = 3 then .next (complete (scatterAdd s (fld c.desc 2 2) body) core c 0)
        else if (sentTask s body).1 = 0 then .next (complete (sentTask s body).2 core c 0)
        else if (sentTask s body).1 = 1 then .next (complete (sentTask s body).2 core c 7)
        else .next (sentTask s body).2
      else match routePort s (fld c.desc 2 2) false with
        | none => .next (complete (noRoute s) core c 6)
        | some (p, _) =>
          if creditRoom s p (vcOf kind body) (cellParts body.length body).length then .next (complete (post s kind (fld c.desc 2 2) body) core c 0)
          else .next s) := by
  rw [exec_sendStart, execSendStart, hst]
  refine (if_neg (by simp [hb])).trans ?_
  rw [hbody]
  rfl

/-- A task submitted here answers 0, or 7 where the scheduler refuses it. -/
theorem sentTask_completed (hc : Canonical s) (core : Nat) (c : Cmd) (body : List Byte) (hle : (sentTask s body).1 ≤ 1) :
    ∃ t, (if (sentTask s body).1 = 0 then .next (complete (sentTask s body).2 core c 0)
        else if (sentTask s body).1 = 1 then .next (complete (sentTask s body).2 core c 7) else .next (sentTask s body).2 : Out) = .next t ∧
      t.sch = (sentTask s body).2.sch ∧ t.mem = s.mem ∧ Completed t s core c (7 * (sentTask s body).1) := by
  obtain ⟨hharts, hmem⟩ := submit_kept s (body.take 128) (fld body 128 8) true
  have hk : Canonical (sentTask s body).2 := (kept_submit (kept_self hc)).out.canon
  obtain h0 | h1 : (sentTask s body).1 = 0 ∨ (sentTask s body).1 = 1 := by omega
  · rw [if_pos h0, h0]
    exact ⟨_, rfl, complete_sch _ _ _ _, (complete_mem _ _ _ _).trans hmem, complete_completed hk hharts core c 0⟩
  · rw [if_neg (by omega), if_pos h1, h1]
    exact ⟨_, rfl, complete_sch _ _ _ _, (complete_mem _ _ _ _).trans hmem, complete_completed hk hharts core c 7⟩

/-- A send without a route completes NO_ROUTE, and the device's event says so. -/
theorem noRoute_completed (hc : Canonical s) (core : Nat) (c : Cmd) :
    Completed (complete (noRoute s) core c 6) s core c 6 ∧ (complete (noRoute s) core c 6).mem = s.mem ∧
      bit (rget (complete (noRoute s) core c 6) regHwsEvents) 2 = true := by
  refine ⟨complete_completed (kept_noRoute (kept_self hc)).canon (noRoute_count s).harts core c 6, ?_, ?_⟩
  · rw [complete_mem, (noRoute_count s).mem]
  · rw [rget_complete]
    exact bit_event_self (kept_bump1 (kept_self hc)).canon (by decide)

/-- Settles O38: each outcome of a send completes its command in the state its message leaves, or leaves it waiting. -/
theorem sendCommands : Obligations.SendCommands := by
  unfold Obligations.SendCommands
  intro s core c hc _
  generalize hbody : sendBody s core c = m
  obtain ⟨kind, body⟩ := m
  dsimp only
  refine ⟨fun hst => ?_, fun hst => ⟨fun hb => ?bad, fun hb hd hk => ?scatter, fun hb hd hk => ?task, fun hb hd => ⟨fun hp => ?unrouted,
    fun p b hp => ⟨fun hroom => ?handed, fun hroom => ?waits⟩⟩⟩⟩
  · rw [exec_sendStart, execSendStart, hst]
  case bad =>
    refine ⟨_, ?_, complete_completed hc rfl core c 2, complete_mem _ _ _ _, complete_hws _ _ _ _⟩
    rw [exec_sendStart, execSendStart, hst]
    exact if_pos hb
  case scatter =>
    rw [sendStart_good hst hb hbody, if_pos hd, if_pos hk]
    exact ⟨_, rfl, complete_mem _ _ _ _, complete_place (kept_scatterAdd (kept_self hc)).canon core c 0⟩
  case task =>
    rw [sendStart_good hst hb hbody, if_pos hd, if_neg hk]
    refine ⟨fun hle => sentTask_completed hc core c body hle, fun hlt => ?_⟩
    exact (if_neg (Nat.ne_of_gt (Nat.lt_trans Nat.zero_lt_one hlt))).trans (if_neg (Nat.ne_of_gt hlt))
  case unrouted =>
    rw [sendStart_good hst hb hbody, if_neg hd, hp]
    exact ⟨_, rfl, noRoute_completed hc core c⟩
  case handed =>
    rw [sendStart_good hst hb hbody, if_neg hd, hp]
    have hpost := post_count s kind (fld c.desc 2 2) body
    refine ⟨_, if_pos hroom, complete_completed (kept_post (kept_self hc)).canon hpost.harts core c 0, ?_, ?_, complete_hws _ _ _ _⟩
    · rw [complete_mem, hpost.mem]
    · rw [complete_sch, hpost.sch]
  case waits =>
    rw [sendStart_good hst hb hbody, if_neg hd, hp]
    exact if_neg (by simp [hroom])

/-! ### An evaluation lands (03 R110; 04 R157) -/

/-- Counts, row reads and list reads of an evaluation that has landed. -/
def landCounted (s : State) (p : Nat) (o : GOut) : State :=
  countSpans (o.reads.foldl (fun s r => readDir (countRowRead s r.1 r.2.1 r.2.2 false) (coreDie p) r.2.1 r.2.2)
    (addCounts (landWrites s o.writes) o.counts)) o.spans

theorem landCounted_count (s : State) (p : Nat) (o : GOut) : CountSide (landWrites s o.writes) (landCounted s p o) :=
  (addCounts_count _ _).trans ((CountSide.foldl _ (fun _ _ => (countRowRead_count _ _ _ _ _).trans (readDir_count _ _ _ _)) _).trans
    (countSpans_count _ _))

/-- What landing leaves: the writes of the evaluation and nothing else of memory, and the completed command. -/
theorem landOut_spec (hc : Canonical s) (core : Nat) (c : Cmd) (o : GOut) (st : Nat) :
    (landOut s core c o st).mem = (landWrites s o.writes).mem ∧ Completed (landOut s core c o st) s core c st := by
  have hcount := landCounted_count s core o
  have hk : Canonical (landCounted s core o) :=
    (kept_countSpans (kept_foldl (kept_addCounts (kept_landWrites (kept_self hc))) fun t x ht => kept_readDir (kept_countRowRead ht))).canon
  have hdrop : Canonical (dropAhead (corePut (landCounted s core o) core { coreGet (landCounted s core o) core with
      replN := (coreGet (landCounted s core o) core).replN + o.repl }) core c.id) := (kept_dropAhead (kept_corePut (kept_self hk))).canon
  refine ⟨(complete_mem _ _ _ _).trans hcount.mem, complete_completed hdrop ?_ core c st⟩
  exact hcount.harts.trans (landWrites_tasks s o.writes).harts

/-! ### Data fetched ahead (04 R168-R171) -/

/-- A counter of a core's window moves no register below the cores' windows. -/
theorem rget_bump_core {a b : Nat} (n : Nat) (ha : a < 0x2000000) (hb : 0x2000000 ≤ b) (hb' : b < 0x2000000 + 0x10000 * 272) :
    rget (bump s b n) a = rget s a := by
  have hwin : corWindow b = some ((b - 0x2000000) / 0x10000) := if_pos ⟨hb, hb'⟩
  have hevents : a ≠ regCorEvents ((b - 0x2000000) / 0x10000) := by unfold regCorEvents; omega
  unfold bump
  extract_lets top v
  split
  · rfl
  · split
    · exact rget_rset_ne _ (by omega)
    · simp only [hwin, event]
      rw [rget_rset_ne _ hevents, rget_rset_ne _ (by omega)]

/-- A counter of a core's window does not move the apply point. -/
theorem atApply_bump_core {b : Nat} (n : Nat) (hb : 0x2000000 ≤ b) (hb' : b < 0x2000000 + 0x10000 * 272) : atApply (bump s b n) = atApply s := by
  have hcfg : rget (bump s b n) regTsqCfg = rget s regTsqCfg := rget_bump_core n (by decide) hb hb'
  have hat : applyAt (bump s b n) = applyAt s := by simp only [applyAt, applyLen, period, fget, bump_tsq, hcfg]
  simp only [atApply, inApply, bump_tsq, bump_now, hat]

/-- The mismatches a task has met. -/
def mismatchesOf (s : State) (task : Nat) : Nat :=
  match taskGet s task with
  | some t => t.mismatches
  | none => 0

/-- A gather's mismatches noted: its task's first is counted and fetched again, and all of them stand in its task (04 R171). -/
def mismatchNoted (s : State) (core : Nat) (c : Cmd) (m : Nat) : State :=
  let u := if mismatchesOf s c.task = 0 ∧ m ≠ 0 then bump1 s (regCorGatRefetch core) else s
  match taskGet s c.task with
  | some t => if m = 0 then u else taskPut u c.task { t with mismatches := mismatchesOf s c.task + m }
  | none => u

theorem mismatchNoted_zero (s : State) (core : Nat) (c : Cmd) : mismatchNoted s core c 0 = s := by
  unfold mismatchNoted
  rw [if_neg fun h => h.2 rfl]
  cases taskGet s c.task <;> rfl

/-- What a mismatch noted before the apply point leaves. -/
theorem mismatchNoted_spec {x : Task} {m : Nat} (hc : Canonical s) (hcore : core < 272) (hx : taskGet s c.task = some x) (hm : m ≠ 0) :
    Canonical (mismatchNoted s core c m) ∧ (mismatchNoted s core c m).now = s.now ∧ atApply (mismatchNoted s core c m) = atApply s ∧
      taskGet (mismatchNoted s core c m) c.task = some { x with mismatches := x.mismatches + m } := by
  have hbefore : mismatchesOf s c.task = x.mismatches := by rw [mismatchesOf, hx]
  unfold mismatchNoted
  rw [hbefore, hx]
  extract_lets u
  have hu : Canonical u ∧ u.now = s.now ∧ atApply u = atApply s := by
    show Canonical (if _ then _ else _) ∧ (if _ then _ else _ : State).now = _ ∧ atApply (if _ then _ else _) = _
    split
    · exact ⟨(kept_bump1 (kept_self hc)).canon, bump_now s _ 1,
        atApply_bump_core 1 (by unfold regCorGatRefetch; omega) (by unfold regCorGatRefetch; omega)⟩
    · exact ⟨hc, rfl, rfl⟩
  obtain ⟨hk, hnow, happly⟩ := hu
  dsimp only
  rw [if_neg hm]
  exact ⟨(kept_taskPut (kept_self hk)).canon, hnow, happly, taskGet_taskPut_self _ _⟩

/-! ### A gather completes (04 R156, R157, R171) -/

/-- How a gather ends that has nothing left to ask and nothing to hand out. -/
def gatherEnds (s : State) (core : Nat) (c : Cmd) : Out :=
  let o := evalGather s core c
  let m := aheadStale s core c.id o.spans
  let t := mismatchNoted s core c m
  if m ≠ 0 ∧ 2 ≤ mismatchesOf s c.task + m then .next (endOwn (if atApply t then t else bump1 t (regCorGatStale core)) c.task 4 0 0 0)
  else
    match o.cause with
    | some (k, a) => .next (failCmd (dropAhead t core c.id) core c o k a)
    | none => .next (landOut t core c o (partialStatus (fun v => v == 0 || v == 1 || v == 3) o.stats))

/-- A running gather that awaits nothing: it answers, asks, hands out, or ends. -/
theorem gatherComplete_ready (hget : cmdGet s core c.id = some c) (hrun : c.running = true) (hkind : c.kind = .gather)
    (haw : awaiting s core c.id = false) (hfrags : c.frags = []) : exec (.gatherComplete core c.id) s =
      (if c.status ≠ 0 then .next (complete s core c c.status)
      else if (evalGather s core c).cause.isNone && !(evalGather s core c).needs.isEmpty then
        .next (sendNeeds s core c.id (sampleOf c.desc) (evalGather s core c).needs)
      else if (evalGather s core c).cause.isNone && !(evalGather s core c).splits.isEmpty then .next (keepSplits s core c (evalGather s core c))
      else gatherEnds s core c) := by
  rw [exec_gatherComplete, execGatherComplete, hget]
  exact if_neg (by simp [hkind, hrun, haw, hfrags])

theorem gatherComplete_waits (hget : cmdGet s core c.id = some c) (h : awaiting s core c.id = true ∨ c.frags ≠ []) :
    exec (.gatherComplete core c.id) s = .next s := by
  rw [exec_gatherComplete, execGatherComplete, hget]
  refine if_pos ?_
  rcases h with h | h
  · simp [h]
  · simp [h]

theorem gatherEnds_fresh (h : aheadStale s core c.id (evalGather s core c).spans = 0) : gatherEnds s core c =
    (match (evalGather s core c).cause with
    | some (k, a) => .next (failCmd (dropAhead s core c.id) core c (evalGather s core c) k a)
    | none => .next (landOut s core c (evalGather s core c) (partialStatus (fun v => v == 0 || v == 1 || v == 3) (evalGather s core c).stats))) := by
  unfold gatherEnds
  dsimp only
  rw [h, mismatchNoted_zero]
  exact if_neg fun hm => hm.1 rfl

/-- A task's second mismatch ends it STALE. -/
theorem gatherEnds_stale {x : Task} (hc : Canonical s) (hcore : core < 272) (hm : aheadStale s core c.id (evalGather s core c).spans ≠ 0)
    (htwo : 2 ≤ x.mismatches + aheadStale s core c.id (evalGather s core c).spans) (happly : atApply s = false) (hx : taskGet s c.task = some x)
    (hst : x.state = .running) : ∃ t, gatherEnds s core c = .next t ∧ taskGet t c.task = some { x with
      state := .ended, endAt := s.now, status := 4, cause := 0, result := 0
      mismatches := x.mismatches + aheadStale s core c.id (evalGather s core c).spans } := by
  have hbefore : mismatchesOf s c.task = x.mismatches := by rw [mismatchesOf, hx]
  have hend : gatherEnds s core c = .next (endOwn (if atApply (mismatchNoted s core c (aheadStale s core c.id (evalGather s core c).spans)) then
      mismatchNoted s core c (aheadStale s core c.id (evalGather s core c).spans) else
      bump1 (mismatchNoted s core c (aheadStale s core c.id (evalGather s core c).spans)) (regCorGatStale core)) c.task 4 0 0 0) :=
    if_pos ⟨hm, by rwa [hbefore]⟩
  generalize aheadStale s core c.id (evalGather s core c).spans = m at *
  obtain ⟨hk, hnow, hap, htask⟩ := mismatchNoted_spec (c := c) hc hcore hx hm
  rw [happly] at hap
  rw [if_neg (by simp [hap])] at hend
  have hcount : atApply (bump1 (mismatchNoted s core c m) (regCorGatStale core)) = false :=
    (atApply_bump_core 1 (by unfold regCorGatStale; omega) (by unfold regCorGatStale; omega)).trans hap
  have hget : taskGet (bump1 (mismatchNoted s core c m) (regCorGatStale core)) c.task = some { x with mismatches := x.mismatches + m } := by
    rw [← htask, taskGet, taskGet, bump1, bump_sch]
  obtain ⟨-, hended, -⟩ := endOwn_spec (status := 4) (cause := 0) (result := 0) (addr := 0) (kept_bump1 (a := regCorGatStale core) (kept_self hk)).canon
    hget (.inl hst)
  refine ⟨_, hend, hended.trans ?_⟩
  rw [hcount, bump1, bump_now, hnow]
  rfl

/-! ### A look-up completes (03 R110; 08 R309, R310) -/

/-- A running look-up that awaits nothing answers the status it has. -/
theorem lookupComplete_refused (hget : cmdGet s core c.id = some c) (hrun : c.running = true) (hkind : c.kind = .lookup)
    (haw : awaiting s core c.id = false) (hst : c.status ≠ 0) : exec (.lookupComplete core c.id) s = .next (complete s core c c.status) := by
  rw [exec_lookupComplete, execLookupComplete, hget]
  exact (if_neg (by simp [hkind, hrun, haw])).trans (if_pos hst)

theorem lookupComplete_ready (hget : cmdGet s core c.id = some c) (hrun : c.running = true) (hkind : c.kind = .lookup)
    (haw : awaiting s core c.id = false) (hst : c.status = 0) (hm : fld c.desc 0 1 ≠ 3) : exec (.lookupComplete core c.id) s =
      (match (evalLookup s core c).cause with
      | some (k, a) => .next (failCmd s core c (evalLookup s core c) k a)
      | none =>
        if !(evalLookup s core c).needs.isEmpty then .next (sendNeeds s core c.id (sampleOf c.desc) (evalLookup s core c).needs)
        else .next (landOut s core c (evalLookup s core c) (partialStatus lookupGood (evalLookup s core c).stats))) := by
  rw [exec_lookupComplete, execLookupComplete, hget]
  exact (if_neg (by simp [hkind, hrun, haw])).trans ((if_neg (not_not.2 hst)).trans (if_neg hm))

theorem lookupComplete_waits (hget : cmdGet s core c.id = some c) (h : awaiting s core c.id = true) :
    exec (.lookupComplete core c.id) s = .next s := by
  rw [exec_lookupComplete, execLookupComplete, hget]
  exact if_pos (by simp [h])

/-! ### Fragment tasks and the 16 µs of run-ahead (04 R169, R173) -/

/-- The request a command's task runs for. -/
def requestOf (s : State) (c : Cmd) : Nat :=
  match taskGet s c.task with
  | some t => t.req
  | none => 0

theorem fragmentTaskSubmit_submits (hc : Canonical s) (hget : cmdGet s core c.id = some c) (hrun : c.running = true) :
    ∃ t, exec (.fragmentTaskSubmit core c.id) s = .next t ∧ t.sch = (submitFrags (requestOf s c) c.frags s).2.sch ∧ t.mem = s.mem ∧
      ∀ x ∈ (coreGet t core).cmds, x.id = c.id → x.frags = (submitFrags (requestOf s c) c.frags s).1 := by
  have hk : Canonical (submitFrags (requestOf s c) c.frags s).2 := (kept_submitFrags (kept_self hc)).out.canon
  refine ⟨cmdMod (submitFrags (requestOf s c) c.frags s).2 core c.id fun x => { x with frags := (submitFrags (requestOf s c) c.frags s).1 },
    ?_, rfl, submitFrags_mem _ _ _, fun x hx hid => ?_⟩
  · rw [exec_fragmentTaskSubmit, execFragmentTaskSubmit, hget]
    exact if_neg (by simp [hrun])
  · rw [cmds_cmdMod hk] at hx
    obtain ⟨y, -, rfl⟩ := List.mem_map.1 hx
    by_cases hy : y.id = c.id
    · rw [if_pos hy]
    · rw [if_neg hy] at hid
      exact absurd hid hy

theorem runaheadDiscard_discards (hc : Canonical s) {a : RunAhead} (ha : minBy (fun a : RunAhead => a.at_) (coreGet s core).ahead = some a) :
    ∃ t, exec (.runaheadDiscard core) s = .next t ∧ (timeRuns s = true → t.now = max s.now (a.at_ + 16000)) ∧ t.mem = s.mem ∧
      t.harts = s.harts ∧ coreGet t core = { coreGet s core with ahead := (coreGet s core).ahead.filter fun x => decide (t.now < x.at_ + 16000) } := by
  have hk : Canonical (advance s (a.at_ + 16000)) := (kept_advance (kept_self hc)).canon
  have hcore : coreGet (advance s (a.at_ + 16000)) core = coreGet s core := by rw [advance_only]; rfl
  refine ⟨corePut (advance s (a.at_ + 16000)) core { coreGet s core with
    ahead := (coreGet s core).ahead.filter fun x => decide ((advance s (a.at_ + 16000)).now < x.at_ + 16000) }, ?_, fun hr => ?_,
    advance_mem s _, advance_harts s _, coreGet_corePut_self hk _ _⟩
  · rw [exec_runaheadDiscard, execRunaheadDiscard, ha, ← hcore]
  · exact (advance_now s _).trans (laterOf_running hr _)

/-- Settles O37: a command that awaits nothing answers its status, lands its evaluation, or ends its task. -/
theorem gatherEngineCompletes : Obligations.GatherEngineCompletes := by
  unfold Obligations.GatherEngineCompletes
  rintro s core _ c hc hcore rfl hget hrun
  refine ⟨fun hkind haw hfrags => ?gather, fun _ h => gatherComplete_waits hget h, fun hkind haw => ⟨fun hst => ?_, fun hst hm => ?lookup⟩,
    fun _ h => lookupComplete_waits hget h, ?frags, fun a ha => runaheadDiscard_discards hc ha⟩
  case gather =>
    rw [gatherComplete_ready hget hrun hkind haw hfrags]
    refine ⟨fun hst => ⟨_, if_pos hst, complete_completed hc rfl core c _, complete_mem _ _ _ _⟩, fun hst => ?_⟩
    rw [if_neg (not_not.2 hst)]
    refine ⟨fun ho hn => if_pos (by simp [ho, hn]), fun ho hn hs => ?splits, fun x hdone hm htwo hap hx hrunning _ _ => ?stale,
      fun ho hn hs hm => ?lands, fun k a ho hm => ?fails⟩
    case splits => exact (if_neg (by simp [hn])).trans (if_pos (by simp [ho, hs]))
    case stale =>
      have hneeds : ((evalGather s core c).cause.isNone && !(evalGather s core c).needs.isEmpty) ≠ true := by
        rcases hdone with h | ⟨h, -⟩ <;> simp [h]
      have hsplits : ((evalGather s core c).cause.isNone && !(evalGather s core c).splits.isEmpty) ≠ true := by
        rcases hdone with h | ⟨-, h⟩ <;> simp [h]
      rw [if_neg hneeds, if_neg hsplits]
      exact gatherEnds_stale hc hcore hm htwo hap hx hrunning
    case lands =>
      rw [if_neg (by simp [hn]), if_neg (by simp [hs]), gatherEnds_fresh hm, ho]
      exact ⟨_, rfl, landOut_spec hc core c _ _⟩
    case fails => rw [if_neg (by simp [ho]), if_neg (by simp [ho]), gatherEnds_fresh hm, ho]
  case lookup =>
    rw [lookupComplete_ready hget hrun hkind haw hst hm]
    refine ⟨fun ho hn => ?_, fun k a ho => by rw [ho]⟩
    rw [ho]
    exact ⟨_, if_neg (by simp [hn]), landOut_spec hc core c _ _⟩
  case frags => exact fragmentTaskSubmit_submits hc hget hrun
  · exact ⟨_, lookupComplete_refused hget hrun hkind haw hst, complete_completed hc rfl core c _, complete_mem _ _ _ _⟩

end Sys2Proof.Machine
end

section
/-! SUPPORT. The vector engine: a good chain starts with its evaluation, and a running one lands its writes as it completes (05 R186, R197, R211,
R218-R225). -/

namespace Sys2Proof.Machine

variable {s : State} {core : Nat} {c : Cmd}

/-! ### Flags of a completed command (05 R219; 06 R255) -/

@[simp] theorem orStrandFlags_mem (s : State) (p : Nat) (c : Cmd) (f : Nat) : (orStrandFlags s p c f).mem = s.mem := by
  unfold orStrandFlags
  dsimp only
  split <;> rfl

/-! ### A chain starts (05 R186, R197) -/

/-- A chain's command with its evaluation at its start and the bytes that its own inputs hold then. -/
def chainEvaluated (s : State) (core : Nat) (o : VOut) (x : Cmd) : Cmd :=
  chainWork core o { x with old := inputCells s (spBase core) x.desc }

/-- With no chain running, a good one starts with the writes, the flags and the counts of its evaluation. -/
theorem chainStart_started (hc : Canonical s) (hidle : runningOf s core isChain = []) (hn : nextCmd s core isChain = some c)
    (hb : badVec c.desc = false) : ∃ t, exec (.chainStart core) s = .next t ∧
      Started t s core c (chainEvaluated s core (evalVec s s (spBase core) c.desc)) := by
  refine ⟨_, ?_, cmdMod_started hc core c _⟩
  rw [exec_chainStart, execChainStart, hidle, hn]
  refine (if_neg (by simp)).trans ?_
  exact if_neg (by simp [hb])

/-! ### A chain completes (05 R211, R218-R225) -/

/-- A chain as it completes: one whose inputs were stored to is evaluated anew, each stored unit old or new (05 R211). -/
def chainSettled (s : State) (core : Nat) (c : Cmd) : Cmd :=
  let units := storedUnits s c
  if units.isEmpty then c
  else chainWork core (evalVec (sweepView s (spBase core) c units 0) (sweepView s (spBase core) c units 1) (spBase core) c.desc) c

/-- The free values that choose old or new for each stored unit, drawn. -/
def chainDrawn (s : State) (c : Cmd) : State :=
  let units := storedUnits s c
  if units.isEmpty then s else { s with freeCtr := s.freeCtr + 2 * units.length }

/-- The bytes a chain lands: its writes, then its elapsed core cycles as the last word of its report (05 R218). -/
def chainCells (t : State) (core : Nat) (c : Cmd) : List Host.Cell :=
  c.writes ++ writesAt (spBase core + fld c.desc 0x34 4 + 12) (natLe 4 (cyclesSince t c.startAt))

/-- A chain's writes landed, its counts added and its flags raised; it still stands in its queue (05 R218-R225). -/
def chainLanded (t : State) (core : Nat) (c : Cmd) : State :=
  let u := addCounts (landWrites t (chainCells t core c)) c.counts
  orStrandFlags (rset u (regCorVecFlags core) (orf (rget u (regCorVecFlags core)) c.flags)) core c c.flags

theorem chainSettled_id (s : State) (core : Nat) (c : Cmd) : (chainSettled s core c).id = c.id := by
  unfold chainSettled
  dsimp only
  split <;> rfl

theorem chainSettled_fresh (h : storedUnits s c = []) : chainSettled s core c = c := by
  rw [chainSettled, h]
  rfl

theorem chainDrawn_fresh (h : storedUnits s c = []) : chainDrawn s c = s := by
  rw [chainDrawn, h]
  rfl

/-- Drawing free values writes no map of the device. -/
theorem chainDrawn_canonical (hc : Canonical s) (c : Cmd) : Canonical (chainDrawn s c) := by
  unfold chainDrawn
  dsimp only
  split
  · exact hc
  · exact { hc with }

theorem chainLanded_canonical (hc : Canonical s) (core : Nat) (c : Cmd) : Canonical (chainLanded s core c) :=
  (kept_orStrandFlags (kept_rset (kept_addCounts (kept_landWrites (kept_self hc))))).canon

theorem chainLanded_mem (s : State) (core : Nat) (c : Cmd) : (chainLanded s core c).mem = (landWrites s (chainCells s core c)).mem :=
  (orStrandFlags_mem _ _ _ _).trans (addCounts_count _ _).mem

theorem chainComplete_refused {r : List Cmd} (h : runningOf s core isChain = c :: r) (hst : c.status ≠ 0) :
    exec (.chainComplete core) s = .next (complete (bump1 s (regCorVecBaddesc core)) core c c.status) := by
  rw [exec_chainComplete, execChainComplete, h]
  exact if_pos hst

theorem chainComplete_lands {r : List Cmd} (h : runningOf s core isChain = c :: r) (hst : c.status = 0) : exec (.chainComplete core) s =
    .next (complete (chainLanded (chainDrawn s c) core (chainSettled s core c)) core (chainSettled s core c) 0) := by
  rw [exec_chainComplete, execChainComplete, h]
  exact if_neg (not_not.2 hst)

/-- A completed chain's place holds status 0. -/
theorem chainComplete_place (hc : Canonical s) (core : Nat) (c : Cmd) :
    pfind (coreGet (complete (chainLanded (chainDrawn s c) core (chainSettled s core c)) core (chainSettled s core c) 0) core).places
      (c.id % 4096) = some (c.id, 0) := by
  rw [← chainSettled_id s core c]
  exact complete_place (chainLanded_canonical (chainDrawn_canonical hc c) core _) core _ 0

/-- The oldest running chain completes: a refused one answers its status and writes nothing; another answers 0 and, where nothing was stored to its
inputs meanwhile, lands the writes of its start and its elapsed core cycles (05 R186, R218-R225). -/
theorem chainComplete_completes {r : List Cmd} (hc : Canonical s) (h : runningOf s core isChain = c :: r) :
    (c.status ≠ 0 → ∃ t, exec (.chainComplete core) s = .next t ∧ Completed t s core c c.status ∧ t.mem = s.mem) ∧
    (c.status = 0 → ∃ t, exec (.chainComplete core) s = .next t ∧ pfind (coreGet t core).places (c.id % 4096) = some (c.id, 0) ∧
      (storedUnits s c = [] → t.mem = (landWrites s (chainCells s core c)).mem)) := by
  refine ⟨fun hst => ?refused, fun hst => ⟨_, chainComplete_lands h hst, chainComplete_place hc core c, fun hfresh => ?fresh⟩⟩
  case refused =>
    have hcount : CountSide s (bump1 s (regCorVecBaddesc core)) := bump_count s _ 1
    exact ⟨_, chainComplete_refused h hst, complete_completed (kept_bump1 (kept_self hc)).canon hcount.harts core c _,
      (complete_mem _ _ _ _).trans hcount.mem⟩
  case fresh => rw [complete_mem, chainLanded_mem, chainSettled_fresh hfresh, chainDrawn_fresh hfresh]

/-! ### Two waiting chains of one id -/

/-- A chain that adds two streams of four words, at scratchpad offsets 0x1000 and 0x2000. -/
def pairSum : List Byte :=
  natLe 8 0x100 ++ natLe 8 4 ++ natLe 4 0x1000 ++ natLe 4 0x2000 ++ natLe 8 0 ++ natLe 8 0x3000 ++ natLe 8 0x10 ++ natLe 4 0xFFFFFFFF ++
    natLe 12 0x4000 ++ natLe 192 0x20102

/-- A waiting chain of id 1. -/
def waitingChain (d : List Byte) : Cmd := ⟨1, .chain, d, 0, 7, 0, false, 0, [], 0, 0, [], [], [], false, []⟩

/-- A device at reset but for two chains of one id that wait at core 0, the second without input streams. -/
def twinChains : State := corePut State.reset 0 { coreReset with cmds := [waitingChain pairSum, waitingChain []] }

theorem twinChains_canonical : Canonical twinChains := (kept_corePut (kept_self canonical_reset)).canon

theorem twinChains_cmds : (coreGet twinChains 0).cmds = [waitingChain pairSum, waitingChain []] := by
  rw [twinChains, coreGet_corePut_self canonical_reset]

theorem twinChains_start : runningOf twinChains 0 isChain = [] ∧ nextCmd twinChains 0 isChain = some (waitingChain pairSum) ∧
    badVec (waitingChain pairSum).desc = false := by decide +kernel

theorem twinChains_inputs : inputCells twinChains (spBase 0) pairSum ≠ inputCells twinChains (spBase 0) [] := by decide +kernel

/-- Refutes O39: of two waiting chains of one id, which a canonical state may hold, a start gives each the bytes of its own inputs, and the statement
gives both those of the first's. -/
theorem not_vectorChains : ¬ Obligations.VectorChains := by
  unfold Obligations.VectorChains
  intro h
  obtain ⟨hidle, hnext, hgood⟩ := twinChains_start
  obtain ⟨-, -, hstart, -, -⟩ := h twinChains 0 (waitingChain pairSum) twinChains_canonical (by decide)
  obtain ⟨t, ht, hstated, -⟩ := (hstart hidle hnext).2 hgood
  obtain ⟨u, hu, hstarted, -⟩ := chainStart_started twinChains_canonical hidle hnext hgood
  obtain rfl : t = u := by simpa using ht.symm.trans hu
  have hcmds := hstated.symm.trans hstarted
  rw [twinChains_cmds] at hcmds
  obtain ⟨-, hrest⟩ := List.cons.inj hcmds
  obtain ⟨hsecond, -⟩ := List.cons.inj hrest
  exact twinChains_inputs (congrArg Cmd.old hsecond)

end Sys2Proof.Machine
end

section
/-! SUPPORT. The matrix engine: how its next command starts, what a completed one lands, and the end of a drain (06 R237, R241-R243, R248, R254,
R255). -/

namespace Sys2Proof.Machine

variable {s : State} {core : Nat} {c : Cmd}

/-! ### Commands that wait to swap (06 R241) -/

/-- No command waits to swap where each one of the core is another engine's, has not started, does not drain, drains already or is refused. -/
theorem swapWaiting_eq_none_iff : swapWaiting s core = none ↔ ∀ x ∈ (coreGet s core).cmds,
    isMat x.kind = false ∨ x.running = false ∨ mDrains x.desc = false ∨ x.draining = true ∨ x.status ≠ 0 := by
  rw [swapWaiting, runningOf, List.find?_eq_none]
  simp only [List.mem_filter, Bool.and_eq_true, Bool.not_eq_true', beq_iff_eq, and_imp]
  refine forall₂_congr fun x _ => ?_
  simp only [← Bool.not_eq_true]
  tauto

theorem settleSwap_unneeded (h : swapWaiting s core = none) : settleSwap s core = s := by
  rw [settleSwap, h]
  exact ite_self s

/-! ### A command starts (06 R237, R242, R248) -/

/-- What becomes of a good command that finds the set free or its own: refused for want of partial slots, held by the drain in progress, or its
products made (06 R242, R248, R250). -/
def takeGoodMat (s : State) (core : Nat) (c : Cmd) : Out :=
  let m := (coreGet s core).mat
  let opening := mMma c.desc && (!m.open_ || mStart c.desc)
  let plan := planOf c.desc (if opening then 0 else m.terms) (if opening then 0 else m.passes)
  if (if opening then fld c.desc 0x3C 1 else m.partSlots) < (if opening then 0 else m.splits) + splitsOf plan then .next (startRefused s core c 5)
  else if matHeld m c.desc (splitsOf plan) then .next s
  else .next (settleSwap (makeProducts s core c opening plan) core)

theorem matrixStart_none (hw : swapWaiting s core = none) (hn : nextCmd s core isMat = none) : exec (.matrixStart core) s = .next s := by
  rw [exec_matrixStart, execMatrixStart, settleSwap_unneeded hw, hw, hn]
  rfl

/-- Once none waits to swap, the next command is refused as bad, refused as another strand's, or taken as a good one. -/
theorem matrixStart_next (hw : swapWaiting s core = none) (hn : nextCmd s core isMat = some c) : exec (.matrixStart core) s =
    (if badMat (coreGet s core).mat c.hart c.desc then .next (startRefused s core c 2)
    else if (coreGet s core).mat.open_ ∧ (coreGet s core).mat.owner ≠ c.hart then .next (startRefused s core c 4)
    else takeGoodMat s core c) := by
  rw [exec_matrixStart, execMatrixStart, settleSwap_unneeded hw, hw, hn]
  rfl

theorem matrixStart_good (hw : swapWaiting s core = none) (hn : nextCmd s core isMat = some c)
    (hb : badMat (coreGet s core).mat c.hart c.desc = false) (ho : (coreGet s core).mat.open_ = false ∨ (coreGet s core).mat.owner = c.hart) :
    exec (.matrixStart core) s = takeGoodMat s core c := by
  have howner : ¬((coreGet s core).mat.open_ = true ∧ (coreGet s core).mat.owner ≠ c.hart) := by
    rintro ⟨hopen, hne⟩
    rcases ho with h | h
    · simp [h] at hopen
    · exact hne h
  rw [matrixStart_next hw hn, if_neg (by simp [hb]), if_neg howner]

/-! ### A command completes (06 R237, R243, R254, R255) -/

/-- The bytes a completed matrix command lands: its writes, then its elapsed cycles where it asks for a report (06 R254). -/
def matCells (s : State) (core : Nat) (c : Cmd) : List Host.Cell :=
  c.writes ++ (if fld c.desc 0x38 4 = 0xFFFFFFFF then [] else writesAt (spBase core + fld c.desc 0x38 4 + 12) (natLe 4 (cyclesSince s c.startAt)))

/-- A matrix command's bytes landed, its counts added and its flags raised; it still stands in its queue (06 R254, R255). -/
def matLanded (s : State) (core : Nat) (c : Cmd) : State :=
  let t := addCounts (landWrites s (matCells s core c)) c.counts
  orStrandFlags (rset t (regCorMatFlags core) (orf (rget t (regCorMatFlags core)) (Nat.land c.flags 0x17))) core c c.flags

theorem matDone_eq (s : State) (core : Nat) (c : Cmd) : matDone s core c = complete (matLanded s core c) core c 0 := rfl

theorem matCells_unreported (h : fld c.desc 0x38 4 = 0xFFFFFFFF) : matCells s core c = c.writes := by
  rw [matCells, if_pos h, List.append_nil]

theorem landWrites_cores (s : State) (w : List Host.Cell) : (landWrites s w).cores = s.cores := by
  refine List.foldlRecOn w (motive := fun t : State => t.cores = s.cores) _ rfl fun t ht b _ => ?_
  rw [memWrite_side t b.1 [b.2], ht]

theorem orStrandFlags_cores (s : State) (core : Nat) (c : Cmd) (f : Nat) : (orStrandFlags s core c f).cores = s.cores := by
  unfold orStrandFlags
  dsimp only
  split <;> rfl

theorem coreGet_matLanded (s : State) (core : Nat) (c : Cmd) (p : Nat) : coreGet (matLanded s core c) p = coreGet s p := by
  have hcores : (matLanded s core c).cores = s.cores := by
    rw [matLanded, orStrandFlags_cores, rset_cores, addCounts_count (landWrites s (matCells s core c)) c.counts]
    exact landWrites_cores s _
  rw [coreGet, coreGet, hcores]

theorem matLanded_canonical (hc : Canonical s) (core : Nat) (c : Cmd) : Canonical (matLanded s core c) :=
  (kept_orStrandFlags (kept_rset (kept_addCounts (kept_landWrites (kept_self hc))))).canon

theorem matDone_mem (s : State) (core : Nat) (c : Cmd) : (matDone s core c).mem = (landWrites s (matCells s core c)).mem := by
  rw [matDone_eq, complete_mem, matLanded, orStrandFlags_mem, rset_mem, (addCounts_count _ _).mem]

/-- Of its own core, a command that is done changes the queue, which it leaves, and its place, which holds status 0. -/
theorem coreGet_matDone (hc : Canonical s) (core : Nat) (c : Cmd) : coreGet (matDone s core c) core = completedCore (coreGet s core) c 0 := by
  rw [matDone_eq, coreGet_complete (matLanded_canonical hc core c), coreGet_matLanded]

theorem matDone_place (hc : Canonical s) (core : Nat) (c : Cmd) :
    pfind (coreGet (matDone s core c) core).places (c.id % 4096) = some (c.id, 0) :=
  complete_place (matLanded_canonical hc core c) core c 0

/-- What a running matrix command does as it completes: a refused one answers, one that drains is left to its drain, another is done. -/
theorem matrixComplete_running (hget : cmdGet s core c.id = some c) (hkind : c.kind = .mat) (hrun : c.running = true) :
    exec (.matrixComplete core c.id) s =
      (if c.status ≠ 0 then .next (complete (bump1 s (regMatRefused core c.status)) core c c.status)
      else if mDrains c.desc then .next s
      else .next (matDone s core c)) := by
  rw [exec_matrixComplete, execMatrixComplete, hget]
  exact if_neg (by simp [hkind, hrun])

/-! ### A drain ends (06 R238, R241, R243) -/

/-- The engine with its drain over: the shadow set is empty and no command drains. -/
def drainOver (s : State) (core : Nat) : State :=
  matPut s core { (coreGet s core).mat with shadow := [], draining := none, drainSlots := 0 }

theorem coreGet_drainOver (hc : Canonical s) (core : Nat) : coreGet (drainOver s core) core =
    { coreGet s core with mat := { (coreGet s core).mat with shadow := [], draining := none, drainSlots := 0 } } := by
  rw [drainOver, matPut, coreGet_corePut_self hc]

theorem drainComplete_idle (hw : swapWaiting s core = none) (hd : (coreGet s core).mat.draining = none) :
    exec (.drainComplete core) s = .next s := by
  rw [exec_drainComplete, execDrainComplete, hd, settleSwap_unneeded hw]

theorem drainComplete_draining {id : Nat} (hd : (coreGet s core).mat.draining = some id) (hget : cmdGet s core id = some c) :
    exec (.drainComplete core) s = .next (settleSwap (drainOver (matDone s core c) core) core) := by
  rw [exec_drainComplete, execDrainComplete, hd]
  dsimp only
  rw [hget]
  rfl

/-- The core as a drain leaves it: its command completed with status 0, and its engine with the drain over. -/
theorem coreGet_drained (hc : Canonical s) (core : Nat) (c : Cmd) : coreGet (drainOver (matDone s core c) core) core =
    { completedCore (coreGet s core) c 0 with mat := { (coreGet s core).mat with shadow := [], draining := none, drainSlots := 0 } } := by
  have hk : Canonical (matDone s core c) := (kept_matDone (kept_self hc)).canon
  rw [coreGet_drainOver hk, coreGet_matDone hc]
  rfl

/-- Where no other command waits to swap, none does once the draining one is done. -/
theorem swapWaiting_drained (hc : Canonical s) (hothers : ∀ x ∈ (coreGet s core).cmds, x.id ≠ c.id →
      isMat x.kind = false ∨ x.running = false ∨ mDrains x.desc = false ∨ x.draining = true ∨ x.status ≠ 0) :
    swapWaiting (drainOver (matDone s core c) core) core = none := by
  refine swapWaiting_eq_none_iff.2 fun x hx => ?_
  rw [coreGet_drained hc] at hx
  obtain ⟨hmem, hid⟩ := List.mem_filter.1 hx
  exact hothers x hmem (by simpa using hid)

/-- Settles O40: each refusal, start, completion and end of a drain leaves the state its case of the engine's operation names. -/
theorem matrixCommands : Obligations.MatrixCommands := by
  unfold Obligations.MatrixCommands
  refine ⟨fun s core id c hc _ hw => ⟨matrixStart_none hw, drainComplete_idle hw, fun hn => ⟨fun hb => ?bad, fun hb hopen howner => ?busy,
    fun hb ho => ?good⟩, ?completes⟩, fun s core id c hc _ hd hget hrep hothers => ?drain⟩
  case bad => exact ⟨_, (matrixStart_next hw hn).trans (if_pos hb), startRefused_started hc core c 2⟩
  case busy =>
    exact ⟨_, (matrixStart_next hw hn).trans ((if_neg (by simp [hb])).trans (if_pos ⟨hopen, howner⟩)), startRefused_started hc core c 4⟩
  case good =>
    rw [matrixStart_good hw hn hb ho]
    refine ⟨fun hfull => ⟨_, if_pos hfull, startRefused_started hc core c 5⟩, fun hfits hheld => ?_, fun hfits hheld => ?_⟩
    · exact (if_neg (Nat.not_lt.2 hfits)).trans (if_neg (Bool.eq_false_iff.1 hheld))
    · exact (if_neg (Nat.not_lt.2 hfits)).trans (if_pos hheld)
  case completes =>
    rintro rfl hget hkind hrun
    rw [matrixComplete_running hget hkind hrun]
    refine ⟨fun hst => ?_, fun hst hdr => ?_, fun hst hdr hrep => ?_⟩
    · have hcount : CountSide s (bump1 s (regMatRefused core c.status)) := bump_count s _ 1
      exact ⟨_, if_pos hst, complete_completed (kept_bump1 (kept_self hc)).canon hcount.harts core c _, (complete_mem _ _ _ _).trans hcount.mem⟩
    · exact (if_neg (not_not.2 hst)).trans (if_pos hdr)
    · refine ⟨_, (if_neg (not_not.2 hst)).trans (if_neg (Bool.eq_false_iff.1 hdr)), ?_, matDone_place hc core c⟩
      rw [matDone_mem, matCells_unreported hrep]
  case drain =>
    obtain rfl : c.id = id := by simpa using List.find?_some hget
    rw [drainComplete_draining hd hget, settleSwap_unneeded (swapWaiting_drained hc hothers)]
    have hcore := coreGet_drained hc core c
    refine ⟨_, rfl, (matDone_mem s core c).trans (by rw [matCells_unreported hrep]), ?_, ?_, ?_⟩
    · rw [hcore]
    · rw [hcore]
    · rw [hcore]
      exact pfind_pput_self _ _ _

end Sys2Proof.Machine
end

section
/-! SUPPORT. Requests of the host on tables and placement: what completing one may change, and what each does as it begins (08 R297-R304, R326;
09 R365, R370, R371; 18 R688-R691, R700). -/

namespace Sys2Proof.Machine

variable {s t u : State} {req : Nat} {r : Request} {c : Instr}

/-! ### Beginning and completing (18 R688, R691, R698) -/

/-- A request that begins does what its operation says (R688, R691). -/
theorem Begins.runs (hb : Begins s c req r) {op : Nat} {good : Request → Bool} {f : Request → State} (hrule : opRules c = some (req, op, good)) :
    runOp s req op good f = .next (f r) := by
  obtain ⟨op', good', hrule', hget, hop, hturn, hsettled, hdma, hup, hflags, hzero, hgood⟩ := hb
  obtain ⟨rfl, rfl⟩ : op' = op ∧ good' = good := by simpa using hrule'.symm.trans hrule
  have hready : ¬(reqOp r ≠ op' ∨ (!mayBegin s req r) = true ∨ (!unitsSettled s op') = true ∨
      (readsAtStart op' = true ∧ (!dmaOn s) = true)) := by
    rintro (h | h | h | ⟨h, h'⟩)
    · exact h hop
    · simp [hturn] at h
    · simp [hsettled] at h
    · simp [hdma h] at h'
  have hform : ¬(decide (4 ≤ fld r.entry 1 1) || !zeroAt r.entry 6 2 || !good' r) = true := by
    simp [hzero, hgood, hflags]
  unfold runOp
  rw [hget]
  exact (if_neg hready).trans ((if_neg (Bool.eq_false_iff.1 hup)).trans (if_neg hform))

/-- What a completion may change: registers, host memory and the host interface. -/
def CompletionSide (s t : State) : Prop := t = { s with csr := t.csr, hostMem := t.hostMem, pci := t.pci }

theorem CompletionSide.trans (h : CompletionSide s t) (k : CompletionSide t u) : CompletionSide s u := by
  unfold CompletionSide at *
  rw [k, h]

theorem HostSide.completion (h : HostSide s t) : CompletionSide s t := by
  unfold CompletionSide
  rw [h.only]

theorem bump_completion (s : State) (a n : Nat) : CompletionSide s (bump s a n) := by
  unfold CompletionSide
  conv_lhs => rw [bump_only]
  simp

theorem rdyEvent_completion (s : State) (b : Nat) : CompletionSide s (rdyEvent s b) :=
  CompletionSide.trans (t := event s regRdyEvents b) rfl (signal_hostSide _ _).completion

theorem freeReq_hostSide (s : State) (r : Request) : HostSide s (freeReq s r) := ⟨rfl, rfl, rfl⟩

/-- A commit counts what it refused, frees the request's slots, and writes its entry or leaves it due (R680, R698). -/
theorem commitReq_side (s : State) (id : Nat) (r : Request) : CompletionSide s (commitReq s id r) := by
  unfold commitReq
  extract_lets s1 s2 s3 r'
  have h1 : CompletionSide s s1 := by
    show CompletionSide s (if _ then _ else _)
    split
    · exact bump_completion _ _ _
    · rfl
  have h2 : CompletionSide s s2 := by
    show CompletionSide s (if _ then _ else _)
    split
    · exact (h1.trans (bump_completion _ _ _)).trans (rdyEvent_completion _ _)
    · exact h1
  have h3 : CompletionSide s s3 := h2.trans (freeReq_hostSide _ _).completion
  split
  · exact h3.trans rfl
  · split
    · exact h3.trans ((dropReq_hostSide _ _).trans (writeEntry_side _ _ _)).completion
    · exact h3.trans rfl

theorem completeReq_side (s : State) (id : Nat) (r : Request) (st cause : Nat) : CompletionSide s (completeReq s id r st cause) :=
  commitReq_side _ _ _

@[simp] theorem acceptReq_mem (s : State) (id : Nat) (r : Request) : (acceptReq s id r).mem = s.mem := by
  rw [acceptReq, completeReq_side]

@[simp] theorem acceptReq_emb (s : State) (id : Nat) (r : Request) : (acceptReq s id r).emb = s.emb := by
  rw [acceptReq, completeReq_side]

@[simp] theorem acceptReq_plc (s : State) (id : Nat) (r : Request) : (acceptReq s id r).plc = s.plc := by
  rw [acceptReq, completeReq_side]

@[simp] theorem tableGet_acceptReq (s : State) (id : Nat) (r : Request) (j : Nat) : tableGet (acceptReq s id r) j = tableGet s j := by
  rw [tableGet, acceptReq_emb, tableGet]

/-! ### The registry -/

theorem tableGet_tablePut_self (hc : Canonical s) (id : Nat) (x : Table) : tableGet (tablePut s id x) id = x := mget_mset_self hc.tables id x

theorem tableGet_tablePut_ne {id j : Nat} (x : Table) (h : j ≠ id) : tableGet (tablePut s id x) j = tableGet s j := mget_mset_ne x h

@[simp] theorem tableGet_planLater (s : State) (items : List (List Byte)) (j : Nat) : tableGet (planLater s items) j = tableGet s j := rfl

@[simp] theorem tableGet_unplan (s : State) (id action j : Nat) : tableGet (unplan s id action) j = tableGet s j := rfl

@[simp] theorem tableGet_askGrant (s : State) (id : Nat) (r : Request) (j : Nat) : tableGet (askGrant s id r) j = tableGet s j := rfl

/-! ### Registration (08 R296, R297) -/

theorem tblRegister_refused (hb : Begins s (.tblRegister req) req r) (h : 4096 ≤ reqId r ∨ (tableGet s (reqId r)).state ≠ 0) :
    exec (.tblRegister req) s = .next (refuseReq s req r) :=
  (hb.runs rfl).trans (congrArg _ (if_pos (h.imp_right .inl)))

/-- The shape that a registration's parameters name (08 R303). -/
def askedShape (r : Request) : Nat :=
  let w := reqParam r 1
  reqParam r 0 * 2 ^ 24 + (bits w 15 0 - 1) * 2 ^ 12 + bits w 19 16 * 2 ^ 8 + bits w 23 20 * 2 ^ 4 + b2n (bit w 27) * 8 + b2n (bit w 26) * 4 +
    b2n (bit w 25) * 2 + b2n (bit w 24)

/-- The rows of staging that a registration asks for: its class's where it names none, and none for a table without TRAIN and TASK_STAGE (08 R297). -/
def askedStage (s : State) (r : Request) : Nat :=
  let w := reqParam r 1
  if bit w 24 = false ∧ bit w 27 = false then 0 else if reqParam r 2 = 0 then classStage s (bits w 19 16) else reqParam r 2

theorem tblRegister_allowed (hb : Begins s (.tblRegister req) req r) (hid : reqId r < 4096) (hfree : (tableGet s (reqId r)).state = 0)
    (hspace : (s.emb.ranges.any fun e => e.1 == reqId r) = false)
    (hok : classAllows s (bits (reqParam r 1) 19 16) (bits (reqParam r 1) 23 20) (bits (reqParam r 1) 15 0) (reqParam r 0) (reqParam r 2)
      (bit (reqParam r 1) 24) (bit (reqParam r 1) 25) (bit (reqParam r 1) 27) = true) :
    exec (.tblRegister req) s = .next (match acceptTable s (reqId r) (shapeTable s (askedShape r) (askedStage s r)) with
      | some t => completeReq t req r 0 0
      | none => completeReq s req r 5 8) := by
  have hstage : (if (!bit (reqParam r 1) 24 && !bit (reqParam r 1) 27) = true then 0
      else if reqParam r 2 = 0 then classStage s (bits (reqParam r 1) 19 16) else reqParam r 2) = askedStage s r := by
    simp [askedStage]
  refine (hb.runs rfl).trans (congrArg _ ((if_neg ?_).trans ?_))
  · rintro (h | h | h | h)
    · omega
    · exact h hfree
    · simp [hspace] at h
    · simp [hok] at h
  · rw [hstage]
    rfl

/-! ### Filling the next slot (08 R297, R298, R300, R301) -/

theorem tblOpen_refused (hb : Begins s (.tblOpen req) req r) (h : (tableGet s (reqId r)).next ≠ 0) :
    exec (.tblOpen req) s = .next (refuseReq s req r) :=
  (hb.runs rfl).trans (congrArg _ (if_pos (.inr (.inr (.inl h)))))

theorem tblOpen_opens (hb : Begins s (.tblOpen req) req r) (hid : reqId r < 4096) (hst : (tableGet s (reqId r)).state ≠ 0)
    (hnext : (tableGet s (reqId r)).next = 0) (hmode : reqParam r 0 ≤ 1) (hcopy : reqParam r 0 = 1 → (tableGet s (reqId r)).state = 2) :
    exec (.tblOpen req) s = .next (reqPut (tablePut s (reqId r)
      { tableGet s (reqId r) with next := 1, fill := some req, nextVer := 0, retiring := false }) req { r with stage := .running }) :=
  (hb.runs rfl).trans (congrArg _ (if_neg (by omega)))

/-- The fill that has begun is done, and the request asks for its completion (08 R298, R301). -/
theorem tblOpenDone_asks (hc : Canonical s) (hget : reqGet s req = some r) (hop : reqOp r = 2) (hrun : r.stage = .running)
    (hphase : reqParam r 0 = 1 → s.tsq.phase = .run) :
    ∃ t, exec (.tblOpenDone req) s = .next t ∧ reqGet t req = some { r with stage := .arbiter, rows := [] } ∧
      ((tableGet s (reqId r)).fill ≠ some req → t.mem = s.mem ∧ t.emb = s.emb) ∧
      ((tableGet s (reqId r)).fill = some req → (tableGet t (reqId r)).fill = none) := by
  have hgo : ¬(reqOp r ≠ 2 ∨ r.stage ≠ .running ∨ (reqParam r 0 = 1 ∧ s.tsq.phase ≠ .run)) := by
    rintro (h | h | ⟨h, h'⟩)
    · exact h hop
    · exact h hrun
    · exact h' (hphase h)
  rw [exec_tblOpenDone, execTblOpenDone, hget]
  dsimp only
  rw [if_neg hgo]
  refine ⟨_, rfl, reqGet_reqPut_self _ _, fun hfill => ?_, fun hfill => ?_⟩
  · rw [if_neg hfill, if_neg hfill]
    exact ⟨rfl, rfl⟩
  · rw [if_pos hfill, if_pos hfill]
    have hk : Canonical (fillSlot s (reqId r) (reqParam r 0) none) := (kept_fillSlot (kept_self hc)).canon
    rw [tableGet_askGrant, tableGet_tablePut_self hk]

theorem tblWrite_refused (hb : Begins s (.tblWrite req) req r) (h : (tableGet s (reqId r)).next ≠ 1) :
    exec (.tblWrite req) s = .next (refuseReq s req r) :=
  (hb.runs rfl).trans (congrArg _ (if_pos (.inr (.inr h))))

/-- The places that the records of a TBL_WRITE go to in this device's part of the next slot (08 R300). -/
def writePlaces (s : State) (r : Request) : List (Option Nat) :=
  let x := tableGet s (reqId r)
  (hostRecords s (reqParam r 0) x.stride (reqParam r 1)).map fun e => if e.1 < x.rows then slotPlace s x (reqId r) (1 - x.slot) e.1 else none

theorem tblWrite_placed (hb : Begins s (.tblWrite req) req r) (hid : reqId r < 4096) (hst : (tableGet s (reqId r)).state ≠ 0)
    (hnext : (tableGet s (reqId r)).next = 1) :
    exec (.tblWrite req) s = .next (if (writePlaces s r).contains none = true then completeReq s req r 5 8 else reqPut s req
      { r with
        stage := .running
        rows := ((writePlaces s r).zip (hostRecords s (reqParam r 0) (tableGet s (reqId r)).stride (reqParam r 1))).filterMap fun e =>
          e.1.map fun a => (a, e.2.2) }) :=
  (hb.runs rfl).trans (congrArg _ (if_neg (by omega)))

theorem tblWriteDone_asks (hget : reqGet s req = some r) (hop : reqOp r = 3) (hrun : r.stage = .running) (hdma : dmaOn s = true) :
    exec (.tblWriteDone req) s = .next (askGrant (r.rows.foldl (fun s w => memWrite s w.1 w.2) s) req r) := by
  rw [exec_tblWriteDone, execTblWriteDone, hget]
  exact if_neg (by simp [hop, hrun, hdma])

/-! ### Sealing, abandoning, retiring and freezing (08 R297, R299, R302, R304) -/

theorem tblSeal_refused (hb : Begins s (.tblSeal req) req r) (h : (tableGet s (reqId r)).next ≠ 1 ∨ 65536 ≤ reqParam r 0) :
    exec (.tblSeal req) s = .next (refuseReq s req r) :=
  (hb.runs rfl).trans (congrArg _ (if_pos (.inr (.inr (h.imp_right .inl)))))

theorem tblSeal_seals (hb : Begins s (.tblSeal req) req r) (hid : reqId r < 4096) (hst : (tableGet s (reqId r)).state ≠ 0)
    (hnext : (tableGet s (reqId r)).next = 1) (hver : reqParam r 0 < 65536)
    (hnew : (tableGet s (reqId r)).state = 1 ∨ verAfter (reqParam r 0) (tableGet s (reqId r)).curVer = true) :
    exec (.tblSeal req) s = .next (acceptReq (planLater
      (tablePut s (reqId r) { tableGet s (reqId r) with next := 2, nextVer := reqParam r 0, wantTick := reqParam r 1 })
      [tableItem (reqId r) 0 (reqParam r 0) (shapeOf (tableGet s (reqId r)))]) req r) :=
  (hb.runs rfl).trans (congrArg _ (if_neg (by
    rintro (h | h | h | h | ⟨h, h'⟩)
    · omega
    · exact hst h
    · exact h hnext
    · omega
    · simp [hnew.resolve_left h] at h')))

theorem tblAbandon_abandons (hb : Begins s (.tblAbandon req) req r) (hid : reqId r < 4096) (hst : (tableGet s (reqId r)).state ≠ 0)
    (hret : (tableGet s (reqId r)).retiring = false) (hnext : (tableGet s (reqId r)).next = 1 ∨ (tableGet s (reqId r)).next = 2) :
    exec (.tblAbandon req) s = .next (acceptReq (unplan
      (tablePut s (reqId r) { tableGet s (reqId r) with next := 0, nextVer := 0, wantTick := 0 }) (reqId r) 0) req r) :=
  (hb.runs rfl).trans (congrArg _ (if_neg (by simp only [hret, Bool.false_eq_true, false_or]; omega)))

theorem tblRetire_retires (hb : Begins s (.tblRetire req) req r) (hid : reqId r < 4096)
    (hst : (tableGet s (reqId r)).state = 1 ∨ (tableGet s (reqId r)).state = 2) (hnext : (tableGet s (reqId r)).next = 0) :
    exec (.tblRetire req) s = .next (acceptReq (planLater
      (tablePut s (reqId r) { tableGet s (reqId r) with next := 2, retiring := true, wantTick := reqParam r 0 })
      [tableItem (reqId r) 1 0 (shapeOf (tableGet s (reqId r)))]) req r) :=
  (hb.runs rfl).trans (congrArg _ (if_neg (by omega)))

theorem tblFreeze_asks (hb : Begins s (.tblFreeze req) req r) (hid : reqId r < 4096) (hst : (tableGet s (reqId r)).state ≠ 0)
    (htrain : (tableGet s (reqId r)).train = true) (hv : reqParam r 0 ≤ 1) :
    exec (.tblFreeze req) s = .next (acceptReq (planLater s
      [tableItem (reqId r) (if reqParam r 0 = 1 then 3 else 4) 0 (shapeOf (tableGet s (reqId r)))]) req r) :=
  (hb.runs rfl).trans (congrArg _ (if_neg (by simp only [htrain, Bool.not_true, Bool.false_eq_true, false_or]; omega)))

/-! ### Reloading lost rows (08 R326) -/

theorem tblReload_refused (hb : Begins s (.tblReload req) req r) (hid : reqId r < 4096) (hst : (tableGet s (reqId r)).state ≠ 0)
    (hkept : ((hostRecords s (reqParam r 0) (tableGet s (reqId r)).stride (reqParam r 1)).any fun e =>
      rowMark s (reqId r) e.1 != some true) = true) :
    exec (.tblReload req) s = .next (refuseReq s req r) :=
  (hb.runs rfl).trans (congrArg _ ((if_neg (by omega)).trans (if_pos hkept)))

/-- A reload of no rows drops no master and stages nothing. -/
theorem tblReload_empty (hb : Begins s (.tblReload req) req r) (hid : reqId r < 4096) (hst : (tableGet s (reqId r)).state ≠ 0)
    (hnone : reqParam r 1 = 0) :
    ∃ t, exec (.tblReload req) s = .next t ∧ reqGet t req = some { r with stage := .running, rows := [] } ∧ t.mem = s.mem ∧ t.emb = s.emb := by
  have hrecs : hostRecords s (reqParam r 0) (tableGet s (reqId r)).stride (reqParam r 1) = [] := by rw [hnone, hostRecords]
  refine ⟨_, (hb.runs rfl).trans (congrArg _ (if_neg (by omega))), ?_⟩
  dsimp only
  rw [hrecs]
  exact ⟨reqGet_reqPut_self _ _, rfl, rfl⟩

/-! ### Placement (09 R365, R370, R371) -/

/-- The rows that a pin or an unpinning names are rows of a serving table (09 R371). -/
structure PinRows (s : State) (r : Request) : Prop where
  id : reqId r < 4096
  serving : (tableGet s (reqId r)).state = 2
  some : 0 < reqParam r 1
  most : reqParam r 1 ≤ 65536
  inside : reqParam r 0 + reqParam r 1 ≤ (tableGet s (reqId r)).rows

theorem plcUnpin_asks (hb : Begins s (.plcUnpin req) req r) (h : PinRows s r) :
    exec (.plcUnpin req) s = .next (acceptReq
      (plcMap s fun p => { p with pinReqs := p.pinReqs ++ [(reqId r, reqParam r 0, reqParam r 1, unpinDev, 0, false)] }) req r) :=
  have ⟨hid, hst, hsome, hmost, hin⟩ := h
  (hb.runs rfl).trans (congrArg _ (if_neg (by omega)))

theorem plcPin_asks (hb : Begins s (.plcPin req) req r) (h : PinRows s r)
    (hdev : bits (reqParam r 2) 15 0 = 0xFFFF ∨ bits (reqParam r 2) 15 0 < max 1 s.boot.devs)
    (hch : bits (reqParam r 2) 23 16 = 0xFF ∨ bits (reqParam r 2) 23 16 < 192)
    (hstay : pinMoves s (reqId r) (tableGet s (reqId r)) (reqParam r 0) (reqParam r 1) (bits (reqParam r 2) 15 0) = false)
    (hroom : pinEntries s (reqId r) (reqParam r 0) (reqParam r 1) ≤ 1048576) :
    exec (.plcPin req) s = .next (acceptReq (plcMap s fun p => { p with
      pinReqs := p.pinReqs ++ [(reqId r, reqParam r 0, reqParam r 1, bits (reqParam r 2) 15 0, bits (reqParam r 2) 23 16,
        bit (reqParam r 2) 24)] }) req r) :=
  have ⟨hid, hst, hsome, hmost, hin⟩ := h
  (hb.runs rfl).trans (congrArg _ (if_neg (by simp only [hstay, Bool.false_eq_true, false_or]; omega)))

theorem plcHubAdd_refused (hb : Begins s (.plcHubAdd req) req r) (h : ownAddr s (reqParam r 0) = none) :
    exec (.plcHubAdd req) s = .next (refuseReq s req r) := by
  refine (hb.runs rfl).trans (congrArg _ ?_)
  rw [h]

theorem plcHubAdd_asks {a : Nat} (hb : Begins s (.plcHubAdd req) req r) (ha : ownAddr s (reqParam r 0) = some a)
    (hnew : (s.plc.hubs.any fun h => h.1 == a) = false) (hwait : s.plc.hubAdd.contains a = false)
    (hroom : s.plc.hubs.length + s.plc.hubAdd.length < 65536) (hok : hubOk s a = true) :
    exec (.plcHubAdd req) s = .next (acceptReq (plcMap s fun p => { p with hubAdd := p.hubAdd ++ [a] }) req r) := by
  refine (hb.runs rfl).trans (congrArg _ ?_)
  rw [ha]
  exact if_neg (by simp only [hnew, hwait, hok, Bool.not_true, Bool.false_eq_true, false_or, or_false]; omega)

theorem plcHubDrop_asks {a : Nat} (hb : Begins s (.plcHubDrop req) req r) (ha : ownAddr s (reqParam r 0) = some a)
    (hhub : (s.plc.hubs.any fun h => h.1 == a) = true) (hwait : s.plc.hubDrop.contains a = false) :
    exec (.plcHubDrop req) s = .next (acceptReq (planHome (plcMap s fun p => { p with hubDrop := p.hubDrop ++ [a] }) a) req r) := by
  refine (hb.runs rfl).trans (congrArg _ ?_)
  rw [ha]
  exact if_neg (by rw [hhub, hwait]; simp)

/-- Settles O55: each operation on tables and placement, as it begins or its data is done, is refused or changes what its lemma above says. -/
theorem tableRequests : Obligations.TableRequests := by
  unfold Obligations.TableRequests
  intro s req r hc
  refine ⟨tblRegister_refused, tblRegister_allowed, tblOpen_opens, tblOpen_refused, tblOpenDone_asks hc, tblWrite_refused, tblWrite_placed,
    fun hget hop hrun hdma => ⟨_, tblWriteDone_asks hget hop hrun hdma, rfl, reqGet_reqPut_self _ _⟩, ?sealing, tblSeal_refused, ?abandon, ?retire,
    ?freeze, tblReload_refused, tblReload_empty, ?unpin, ?pin, ?hubAdd, ?hubDrop, plcHubAdd_refused⟩
  case sealing =>
    intro hb hid hst hnext hver hnew
    exact ⟨_, tblSeal_seals hb hid hst hnext hver hnew, by simp [tableGet_tablePut_self hc], by rw [acceptReq_emb]; rfl,
      fun j hj => by simp [tableGet_tablePut_ne _ hj], by rw [acceptReq_mem]; rfl⟩
  case abandon =>
    intro hb hid hst hret hnext
    exact ⟨_, tblAbandon_abandons hb hid hst hret hnext, by simp [tableGet_tablePut_self hc],
      fun j hj => by simp [tableGet_tablePut_ne _ hj], by rw [acceptReq_mem]; rfl⟩
  case retire =>
    intro hb hid hst hnext
    exact ⟨_, tblRetire_retires hb hid hst hnext, by simp [tableGet_tablePut_self hc], by rw [acceptReq_emb]; rfl,
      by rw [acceptReq_mem]; rfl⟩
  case freeze =>
    intro hb hid hst htrain hv
    exact ⟨_, tblFreeze_asks hb hid hst htrain hv, by rw [acceptReq_emb]; rfl, by rw [acceptReq_mem]; rfl⟩
  case unpin =>
    intro hb hid hst hsome hmost hin
    exact ⟨_, plcUnpin_asks hb ⟨hid, hst, hsome, hmost, hin⟩, by rw [acceptReq_plc]; rfl, by rw [acceptReq_mem]; rfl⟩
  case pin =>
    intro hb hid hst hsome hmost hin dev ch hdev hch hstay hroom
    exact ⟨_, plcPin_asks hb ⟨hid, hst, hsome, hmost, hin⟩ hdev hch hstay hroom, by rw [acceptReq_mem]; rfl, by rw [acceptReq_plc]; rfl⟩
  case hubAdd =>
    intro a hb ha hnew hwait hroom hok
    exact ⟨_, plcHubAdd_asks hb ha hnew hwait hroom hok, by rw [acceptReq_plc]; rfl, by rw [acceptReq_mem]; rfl⟩
  case hubDrop =>
    intro a hb ha hhub hwait
    exact ⟨_, plcHubDrop_asks hb ha hhub hwait, by rw [acceptReq_plc]; rfl, by rw [acceptReq_mem]; rfl⟩

end Sys2Proof.Machine
end

section
/-! SUPPORT. Gradient messages: what a refused one leaves, and where a good one goes (14 R543, R544, R547, R561). -/

namespace Sys2Proof.Machine

variable {s t u : State} {src tag kind : Nat} {body : List Byte}

/-! ### A message taken (13 R503) -/

@[simp] theorem takeMsg_mem (s : State) (src tag kind : Nat) : (takeMsg s src tag kind).mem = s.mem := by rw [takeMsg_only]
@[simp] theorem takeMsg_csr (s : State) (src tag kind : Nat) : (takeMsg s src tag kind).csr = s.csr := by rw [takeMsg_only]
@[simp] theorem takeMsg_tsq (s : State) (src tag kind : Nat) : (takeMsg s src tag kind).tsq = s.tsq := by rw [takeMsg_only]
@[simp] theorem takeMsg_emb (s : State) (src tag kind : Nat) : (takeMsg s src tag kind).emb = s.emb := by rw [takeMsg_only]
@[simp] theorem takeMsg_upd (s : State) (src tag kind : Nat) : (takeMsg s src tag kind).upd = s.upd := by rw [takeMsg_only]
@[simp] theorem takeMsg_boot (s : State) (src tag kind : Nat) : (takeMsg s src tag kind).boot = s.boot := by rw [takeMsg_only]

theorem takeMsg_canonical (hc : Canonical s) : Canonical (takeMsg s src tag kind) := (kept_takeMsg (kept_self hc)).canon

/-- Layers are read from the Rugon die alone. -/
theorem layerGet_congr (h : t.upd = s.upd) (id : Nat) : layerGet t id = layerGet s id := by rw [layerGet, h, layerGet]

@[simp] theorem layerGet_takeMsg (id : Nat) : layerGet (takeMsg s src tag kind) id = layerGet s id := layerGet_congr (takeMsg_upd ..) id

@[simp] theorem tableGet_takeMsg (id : Nat) : tableGet (takeMsg s src tag kind) id = tableGet s id := by rw [tableGet, takeMsg_emb, tableGet]

@[simp] theorem devCount_takeMsg : devCount (takeMsg s src tag kind) = devCount s := by rw [devCount, takeMsg_boot, devCount]

@[simp] theorem hashHome_takeMsg (x : Table) (id row : Nat) : hashHome (takeMsg s src tag kind) x id row = hashHome s x id row := by
  rw [takeMsg_only]
  rfl

@[simp] theorem stepAcc_takeMsg (id step : Nat) : stepAcc (takeMsg s src tag kind) id step = stepAcc s id step := by
  rw [stepAcc, takeMsg_upd, stepAcc]

@[simp] theorem tableFrozen_takeMsg (id : Nat) : tableFrozen (takeMsg s src tag kind) id = tableFrozen s id := by
  rw [takeMsg_only]
  rfl

theorem layerGet_layerPut_self (hc : Canonical s) (id : Nat) (x : Layer) : layerGet (layerPut s id x) id = x := mget_mset_self hc.layers id x

theorem layerGet_layerPut_ne {id j : Nat} (x : Layer) (h : j ≠ id) : layerGet (layerPut s id x) j = layerGet s j := mget_mset_ne x h

/-! ### A refused message (14 R543) -/

/-- What adding to a counter leaves of the registers rests on the registers alone. -/
theorem bump_csr_congr (h : t.csr = s.csr) (a n : Nat) : (bump t a n).csr = (bump s a n).csr := by
  have hget : ∀ c, rget t c = rget s c := fun c => by rw [rget, h, rget]
  have hset : ∀ v, (rset t a v).csr = (rset s a v).csr := fun v => by rw [rset, h, rset]
  have hevent : ∀ v c, (event (rset t a v) c 2).csr = (event (rset s a v) c 2).csr := fun v c => by simp only [event, rset, rget, h]
  unfold bump
  simp only [hget]
  generalize (if regWide a = true then 63 else 31) = top
  split
  · exact h
  · split
    · exact hset _
    · cases corWindow a with
      | none => exact hset _
      | some i => exact hevent _ _

/-- A refused gradient is counted and raises its event, and changes nothing else that the Rugon die, memory or the tables hold. -/
theorem badGrad_counts (hc : Canonical s) : let t := badGrad (takeMsg s src tag 0x0D)
    t.upd = s.upd ∧ t.mem = s.mem ∧ t.emb = s.emb ∧ bit (rget t regUpdEvents) 6 = true ∧
      rget t regUpdBadGrad = rget (bump1 s regUpdBadGrad) regUpdBadGrad := by
  have hbumped : Canonical (bump1 (takeMsg s src tag 0x0D) regUpdBadGrad) := (kept_bump1 (kept_takeMsg (kept_self hc))).canon
  refine ⟨?_, ?_, ?_, bit_event_self hbumped (by decide), ?_⟩
  · simp [badGrad, bump1]
  · simp [badGrad, bump1]
  · simp [badGrad, bump1]
  · rw [badGrad, event, rget_rset_ne _ (by decide), rget, bump1, bump_csr_congr (takeMsg_csr ..)]
    rfl

/-! ### Gradients of layers (14 R543, R544, R561) -/

theorem gradientLayer_form (hon : s.boot.pwrgood = true) (h : fld body 0 1 ≠ 1) :
    exec (.gradientLayer src tag body) s = .next (badGrad (takeMsg s src tag 0x0D)) :=
  (if_pos hon).trans (if_pos (.inr (.inr (.inr (.inl h)))))

/-- What a LAYER message must obey: the layer is one this device owns, its format and length are the layer's, its elements lie in the sender's slice,
and its version is neither ahead of the layer nor from before its owner changed (R543). -/
structure GoodLayerGradient (s : State) (src : Nat) (body : List Byte) (l : Layer) : Prop where
  id : fld body 2 2 < 1024
  known : l.state ≠ 0
  owned : l.owner = s.boot.dev
  form : fld body 0 1 = 1
  format : fld body 1 1 = l.gfmt
  some : 0 < fld body 6 2
  most : fld body 6 2 ≤ gradLimit (fld body 1 1)
  zero : zeroAt body 0x18 8 = true
  length : body.length = 32 + (if fld body 1 1 = 0 then 4 else 2) * fld body 6 2
  inside : inSlice l (devCount s) src (fld body 0x10 8) (fld body 6 2) = true
  notAhead : verAfter (fld body 4 2) l.curVer = false
  notOld : verAfter l.resetVer (fld body 4 2) = false

theorem gradientLayer_good (hon : s.boot.pwrgood = true) (h : GoodLayerGradient s src body (layerGet s (fld body 2 2))) :
    exec (.gradientLayer src tag body) s = .next (contribLayer (takeMsg s src tag 0x0D) (fld body 2 2) (fld body 8 8) (fld body 0x10 8)
      (gradValues (fld body 1 1) (fld body 6 2) (body.drop 32))) := by
  refine (if_pos hon).trans (if_neg ?_)
  rw [layerGet_takeMsg, takeMsg_boot, devCount_takeMsg]
  rintro (hid | hst | how | hform | hfmt | hnone | hmany | hzero | hlen | hout | hahead | hold)
  · exact absurd h.id (by omega)
  · exact h.known hst
  · exact how h.owned
  · exact hform h.form
  · exact hfmt h.format
  · exact absurd h.some (by omega)
  · exact absurd h.most (by omega)
  · simp [h.zero] at hzero
  · exact hlen h.length
  · simp [h.inside] at hout
  · simp [h.notAhead] at hahead
  · simp [h.notOld] at hold

@[simp] theorem raiseFrozen_upd (s : State) (unit detail : Nat) : (raiseFrozen s unit detail).upd = s.upd := by
  rw [raiseFrozen, report_only]
  rfl

/-- A contribution to a frozen layer joins no step (R561). -/
theorem contribLayer_frozen {id : Nat} (h : (layerGet s id).frozen = true) (step off : Nat) (vals : List Nat) :
    (contribLayer s id step off vals).upd.stepAccs = s.upd.stepAccs := by
  have hcount : (bump1 s regUpdFrozenDiscard).upd = s.upd := bump_upd s _ 1
  unfold contribLayer
  extract_lets l
  rw [if_pos h]
  split
  · rw [hcount]
  · rw [raiseFrozen_upd]
    show (bump1 s regUpdFrozenDiscard).upd.stepAccs = _
    rw [hcount]

/-! ### Gradients of rows (14 R543, R547, R561) -/

theorem gradientRows_form (hon : s.boot.pwrgood = true) (h : fld body 0 1 ≠ 2) :
    exec (.gradientRows src tag body) s = .next (badGrad (takeMsg s src tag 0x0D)) :=
  (if_pos hon).trans (if_pos (.inr (.inr (.inl h))))

/-- What a ROWS message of one record must obey (R543). -/
structure GoodRowGradient (s : State) (body rec_ : List Byte) (tb : Table) : Prop where
  id : fld body 2 2 < 4096
  known : tb.state ≠ 0
  form : fld body 0 1 = 2
  format : fld body 1 1 = 0
  one : fld body 6 2 = 1
  zero : zeroAt body 0x10 16 = true
  length : body.length = 32 + (8 + 4 * tb.width)
  notAhead : verAfter (fld body 4 2) tb.curVer = false
  recordZero : fld rec_ 5 3 = 0
  row : fld rec_ 0 5 < tb.rows
  home : (hashHome s tb (fld body 2 2) (fld rec_ 0 5)).1 = s.boot.dev

theorem gradientRows_one (hon : s.boot.pwrgood = true) {rec_ : List Byte}
    (hrec : rec_ = (body.drop 32).take (8 + 4 * (tableGet s (fld body 2 2)).width)) (h : GoodRowGradient s body rec_ (tableGet s (fld body 2 2))) :
    exec (.gradientRows src tag body) s = .next (contribRow (takeMsg s src tag 0x0D) (fld body 2 2) (fld body 8 8) (fld body 4 2) (fld rec_ 0 5)
      (gradValues 0 (tableGet s (fld body 2 2)).width (rec_.drop 8))) := by
  refine (if_pos hon).trans ?_
  simp only [h.one, List.range_one, List.map_cons, List.map_nil, Nat.zero_mul, Nat.add_zero, Nat.one_mul, tableGet_takeMsg, ← hrec, takeMsg_boot,
    hashHome_takeMsg, List.any_cons, List.any_nil]
  refine if_neg ?_
  rintro (hid | hst | hform | hfmt | hzero | hlen | hahead | hbad)
  · exact absurd h.id (by omega)
  · exact h.known hst
  · exact hform h.form
  · exact hfmt h.format
  · simp [h.zero] at hzero
  · exact hlen h.length
  · simp [h.notAhead] at hahead
  · simp [h.recordZero, Nat.not_le.2 h.row, h.home] at hbad

/-- Records discarded are counted, and raise UPD_FROZEN once per tick: they join no row (R561). -/
theorem discardRows_rowAccs (s : State) (id tick n : Nat) : (discardRows s id tick n).upd.rowAccs = s.upd.rowAccs := by
  unfold discardRows
  split
  · rfl
  · extract_lets s1 r
    have hcount : s1.upd = s.upd := bump_upd s _ n
    split
    · rw [hcount]
    · rw [raiseFrozen_upd]
      show s1.upd.rowAccs = _
      rw [hcount]

/-- A contribution to a table that takes no updates joins no row (R561). -/
theorem contribRow_frozen {id : Nat} (h : tableFrozen s id = true) (tick ver x : Nat) (g : List Nat) :
    (contribRow s id tick ver x g).upd.rowAccs = s.upd.rowAccs := by
  unfold contribRow
  rw [if_pos h]
  exact discardRows_rowAccs _ _ _ _

/-! ### DONE (14 R544, R547; log 38) -/

/-- The part of a DONE that its form asks for (R543). -/
def DoneForm (body : List Byte) : Prop := fld body 0 1 = 3 ∧ fld body 1 1 ≤ 1 ∧ zeroAt body 6 2 = true ∧ zeroAt body 0x10 16 = true

theorem DoneForm.notBad (h : DoneForm body) :
    ¬(fld body 0 1 ≠ 3 ∨ 1 < fld body 1 1 ∨ (!zeroAt body 6 2) = true ∨ (!zeroAt body 0x10 16) = true) := by
  obtain ⟨hform, hfmt, hzero, hrest⟩ := h
  simp [hform, hzero, hrest, Nat.not_lt.2 hfmt]

theorem gradientDone_form (hon : s.boot.pwrgood = true) (h : fld body 0 1 ≠ 3) :
    exec (.gradientDone src tag body) s = .next (badGrad (takeMsg s src tag 0x0D)) :=
  (if_pos hon).trans (if_pos (.inl h))

/-- A layer that this device owns, and a version of it that is neither ahead nor from before its owner changed (R543). -/
structure OwnedLayer (s : State) (id ver : Nat) : Prop where
  bounded : id < 1024
  known : (layerGet s id).state ≠ 0
  owned : (layerGet s id).owner = s.boot.dev
  notAhead : verAfter ver (layerGet s id).curVer = false
  notOld : verAfter (layerGet s id).resetVer ver = false

/-- A DONE for an open step that has begun, from a device that has sent none, is the layer's. -/
theorem gradientDone_layer {k : Nat} (hon : s.boot.pwrgood = true) (hform : DoneForm body) (hl : OwnedLayer s (fld body 2 2) (fld body 4 2))
    (hopen : stepClosed (layerGet s (fld body 2 2)) (fld body 8 8) = false)
    (hnew : (stepAcc s (fld body 2 2) (fld body 8 8)).done.contains src = false)
    (hstep : stepAt (layerGet s (fld body 2 2)) s.tsq.tick = some k) (hbegun : fld body 8 8 ≤ k) :
    exec (.gradientDone src tag body) s = .next (doneLayer (takeMsg s src tag 0x0D) (fld body 2 2) (fld body 8 8) src) := by
  obtain ⟨hid, hst, how, hahead, hold⟩ := hl
  refine ((if_pos hon).trans (if_neg hform.notBad)).trans ((if_pos ?_).trans (if_neg ?_))
  · simpa [hid, hst, how, hopen, hstep, hbegun] using hnew
  · simp [hid, hst, how, hahead, hold]

/-- A DONE where no layer has the id is the table's. -/
theorem gradientDone_rows (hon : s.boot.pwrgood = true) (hform : DoneForm body) (hid : fld body 2 2 < 4096)
    (hfree : (layerGet s (fld body 2 2)).state = 0) (hst : (tableGet s (fld body 2 2)).state ≠ 0)
    (hahead : verAfter (fld body 4 2) (tableGet s (fld body 2 2)).curVer = false) :
    exec (.gradientDone src tag body) s = .next (doneRows (takeMsg s src tag 0x0D) (fld body 2 2) (fld body 8 8) src) := by
  refine ((if_pos hon).trans (if_neg hform.notBad)).trans ((if_neg ?_).trans ((if_pos ?_).trans (if_neg ?_)))
  · simp [hfree]
  · simp [hid, hst, hfree]
  · simp [hid, hst, hahead]

/-- A DONE of a closed step, where no table has the id, changes nothing. -/
theorem gradientDone_closed (hon : s.boot.pwrgood = true) (hform : DoneForm body) (hl : OwnedLayer s (fld body 2 2) (fld body 4 2))
    (hclosed : stepClosed (layerGet s (fld body 2 2)) (fld body 8 8) = true) (htable : (tableGet s (fld body 2 2)).state = 0) :
    exec (.gradientDone src tag body) s = .next (takeMsg s src tag 0x0D) := by
  obtain ⟨hid, hst, how, hahead, hold⟩ := hl
  refine ((if_pos hon).trans (if_neg hform.notBad)).trans ((if_neg ?_).trans ((if_neg ?_).trans (if_neg ?_)))
  · simp [hclosed]
  · simp [htable]
  · simp [hid, hst, how, hahead, hold]

end Sys2Proof.Machine
end

section
/-! SUPPORT. What the Rugon die does in its turn: pushes, drains, time-outs, staging again, and the slices of a layer (14 R542, R544, R546, R547,
R554-R558; 08 R316). -/

namespace Sys2Proof.Machine

variable {s t u : State} {src tag layer table : Nat} {body : List Byte}

/-! ### Without ticks or the Rugon die (14 R542-R547; 15 R587) -/

theorem layerPush_stopped (h : s.tsq.running = false ∨ rugonUp s = false) : exec .layerPush s = .next s :=
  if_pos (by simpa using h)

theorem ringDrain_stopped (h : s.tsq.running = false ∨ rugonUp s = false) : exec .ringDrain s = .next s :=
  if_pos (by rcases h with h | h <;> simp [h])

theorem layerStepTimeout_stopped (h : s.tsq.running = false ∨ rugonUp s = false) (layer : Nat) : exec (.layerStepTimeout layer) s = .next s :=
  if_pos (by rcases h with h | h <;> simp [h])

theorem rowTickTimeout_stopped (h : s.tsq.running = false ∨ rugonUp s = false) (table : Nat) : exec (.rowTickTimeout table) s = .next s :=
  if_pos (by rcases h with h | h <;> simp [h])

/-! ### Pushes and drains (14 R542, R546) -/

/-- The one layer there is pushes the step that has ended. -/
theorem layerPush_one {j k : Nat} {x : Layer} (hrun : s.tsq.running = true) (hup : rugonUp s = true) (hone : s.upd.layers = [(j, x)])
    (hstep : stepAt x s.tsq.tick = some (k + 1)) (hst : x.state ≠ 0) (hpushed : x.pushed ≤ k) :
    exec .layerPush s = .next (pushLayer s j k) := by
  have hget : layerGet s j = x := by rw [layerGet, hone, mget, if_pos rfl]
  refine (if_neg (by simp [hrun, hup])).trans ?_
  rw [hone, List.foldl_cons, List.foldl_nil]
  dsimp only
  rw [hget, hstep]
  exact congrArg _ (if_pos ⟨hst, hpushed⟩)

/-- The one table with a rule drains its ring of the tick before. -/
theorem ringDrain_one {j : Nat} {x : TblRule} (hrun : s.tsq.running = true) (hup : rugonUp s = true) (htick : s.tsq.tick ≠ 0)
    (hone : s.upd.tblRules = [(j, x)]) (hrule : x.rule ≠ []) (hdue : x.drained < s.tsq.tick) :
    exec .ringDrain s = .next (drainRing s j (s.tsq.tick - 1)) := by
  have hget : tblRuleGet s j = x := by rw [tblRuleGet, hone, pfind, if_pos rfl, Option.getD_some]
  refine (if_neg (by simp [hrun, hup, htick])).trans ?_
  rw [hone, List.foldl_cons, List.foldl_nil]
  dsimp only
  rw [hget]
  exact congrArg _ (if_neg (by simp [hrule, hdue]))

/-! ### Time-outs (14 R544, R547) -/

/-- The tick at whose settle point the owner closes the oldest open step of a layer (R544). -/
def stepDue (l : Layer) : Nat := l.startTick + (l.nextStep + 2) * l.stepTicks - 1

theorem layerStepTimeout_runs (hrun : s.tsq.running = true) (hup : rugonUp s = true) (hst : (layerGet s layer).state ≠ 0)
    (how : (layerGet s layer).owner = s.boot.dev) :
    exec (.layerStepTimeout layer) s = if s.tsq.tick < stepDue (layerGet s layer) then .next s else .next (closeReady 8 layer (closeStep
      (advance s (tickAt s (stepDue (layerGet s layer)) + period s - applyLen s - settleLen s)) layer)) :=
  if_neg (by simp [hrun, hup, hst, how])

theorem rowTickTimeout_closes (hrun : s.tsq.running = true) (hup : rugonUp s = true) (htick : s.tsq.tick ≠ 0) (hst : (tableGet s table).state ≠ 0)
    (hopen : openTick s table < s.tsq.tick) :
    exec (.rowTickTimeout table) s = .next (closeRows (advance s (settleAt s)) table (s.tsq.tick - 1)) :=
  if_neg (by simp [hrun, hup, htick, hst, hopen])

/-! ### Staging again (08 R316) -/

theorem stagingRetry_waits (h : inApply s = true ∨ rugonUp s = false) : exec .stagingRetry s = .next s :=
  if_pos (by rcases h with h | h <;> simp [h])

/-- The Rugon die with no row held. -/
def unheld (s : State) : State := updMap s fun u => { u with heldRows := [] }

theorem unheld_canonical (hc : Canonical s) : Canonical (unheld s) := (kept_updMap (kept_self hc) rfl).canon

/-- Where no row is held, none is staged. -/
theorem stagingRetry_none (h : s.upd.heldRows = []) : exec .stagingRetry s = .next s := by
  have hnone : unheld s = s := by rw [unheld, updMap, ← h]
  rw [exec_stagingRetry, execStagingRetry]
  split
  · rfl
  · dsimp only
    rw [h]
    exact congrArg _ hnone

/-- An update of a row that has no entry joins the FIFO where there is room (08 R314). -/
theorem stageRow_joins {id x : Nat} (hnew : staged (tableGet s id) x = false) (hroom : stagedUpdates (tableGet s id) < (tableGet s id).stageRows)
    (ver : Nat) (data : List Byte) : stageRow s id x ver data =
      (true, tablePut s id { tableGet s id with fifo := (tableGet s id).fifo ++ [⟨x, ver, data, false, true⟩] }) :=
  (if_neg (Bool.eq_false_iff.1 hnew)).trans (if_pos hroom)

/-- The one row held is staged, where its table's FIFO has room and no entry for it. -/
theorem stagingRetry_one {h : HeldRow} (hrun : inApply s = false) (hup : rugonUp s = true) (hone : s.upd.heldRows = [h])
    (hnew : staged (tableGet s h.table) h.row = false) (hroom : stagedUpdates (tableGet s h.table) < (tableGet s h.table).stageRows) :
    exec .stagingRetry s = .next (tablePut (unheld s) h.table
      { tableGet s h.table with fifo := (tableGet s h.table).fifo ++ [⟨h.row, h.ver, h.data, false, true⟩] }) := by
  have hjoin := stageRow_joins (s := unheld s) hnew hroom h.ver h.data
  rw [unheld] at hjoin
  refine (if_neg (by simp [hrun, hup])).trans ?_
  rw [hone, List.foldl_cons, List.foldl_nil, hjoin]
  rfl

/-! ### Slices (14 R554-R558) -/

theorem sliceScatter_none (h : (layerGet s layer).heldScatter = none) : exec (.sliceScatter layer) s = .next s := by
  rw [exec_sliceScatter, execSliceScatter, h]

theorem sliceScatter_ready {v : Nat} (h : (layerGet s layer).heldScatter = some v) (how : (layerGet s layer).owner = s.boot.dev)
    (hnext : (layerGet s layer).next = 0) (hst : (layerGet s layer).state ≠ 0) (hup : rugonUp s = true) :
    exec (.sliceScatter layer) s = .next (scatter s layer v) := by
  rw [exec_sliceScatter, execSliceScatter, h]
  exact if_pos ⟨how, hnext, hst, hup⟩

/-- A good header names the layer of its id (R556). -/
theorem sliceLayer_eq {form : Nat} {e : Nat × Layer} (h : sliceLayer s body form = some e) : e = (fld body 2 2, layerGet s (fld body 2 2)) := by
  unfold sliceLayer at h
  extract_lets id l n at h
  split at h
  · exact (Option.some.inj h).symm
  · cases h

@[simp] theorem sliceLayer_takeMsg (kind form : Nat) : sliceLayer (takeMsg s src tag kind) body form = sliceLayer s body form := by
  rw [takeMsg_only]
  rfl

theorem sliceData_ignored (h : sliceLayer s body 1 = none ∨ src ≠ (layerGet s (fld body 2 2)).owner) :
    exec (.sliceData src tag body) s = .next (takeMsg s src tag 0x0E) := by
  rw [exec_sliceData, execSliceData, sliceLayer_takeMsg]
  cases hl : sliceLayer s body 1 with
  | none => rfl
  | some e =>
    obtain rfl := sliceLayer_eq hl
    exact if_neg fun hsrc => h.resolve_left (by simp [hl]) hsrc.1

theorem sliceData_taken (hl : sliceLayer s body 1 = some (fld body 2 2, layerGet s (fld body 2 2))) (hsrc : src = (layerGet s (fld body 2 2)).owner)
    (hin : inSlice (layerGet s (fld body 2 2)) (devCount s) s.boot.dev (fld body 8 8) (fld body 6 2) = true) :
    exec (.sliceData src tag body) s = .next (takeSlice (takeMsg s src tag 0x0E) (fld body 2 2) (fld body 4 2) (fld body 8 8) (fld body 6 2)
      (fld body 0x10 4) (body.drop 32)) := by
  rw [exec_sliceData, execSliceData, sliceLayer_takeMsg, hl]
  exact if_pos ⟨hsrc, by rw [devCount_takeMsg, takeMsg_boot]; exact hin⟩

/-- While the next buffer switches, a slice is dropped and counted (R557). -/
theorem takeSlice_switching {id : Nat} (h : (layerGet s id).next = 3) (ver off count scale : Nat) (data : List Byte) :
    takeSlice s id ver off count scale data = bump1 s regUpdSliceDrop := if_pos (.inl h)

theorem sliceEnd_ignored (h : sliceLayer s body 2 = none ∨ src ≠ (layerGet s (fld body 2 2)).owner) :
    exec (.sliceEnd src tag body) s = .next (takeMsg s src tag 0x0E) := by
  rw [exec_sliceEnd, execSliceEnd, sliceLayer_takeMsg]
  cases hl : sliceLayer s body 2 with
  | none => rfl
  | some e =>
    obtain rfl := sliceLayer_eq hl
    exact if_neg (h.resolve_left (by simp [hl]))

theorem sliceEnd_taken (hl : sliceLayer s body 2 = some (fld body 2 2, layerGet s (fld body 2 2))) (hsrc : src = (layerGet s (fld body 2 2)).owner) :
    exec (.sliceEnd src tag body) s = .next (takeEnd (takeMsg s src tag 0x0E) (fld body 2 2) (fld body 4 2) (fld body 8 8) (fld body 0x10 4)) := by
  rw [exec_sliceEnd, execSliceEnd, sliceLayer_takeMsg, hl]
  exact if_pos hsrc

theorem slicePull_ignored (h : sliceLayer s body 3 = none ∨ (layerGet s (fld body 2 2)).owner ≠ s.boot.dev) :
    exec (.slicePull src tag body) s = .next (takeMsg s src tag 0x0E) := by
  rw [exec_slicePull, execSlicePull, sliceLayer_takeMsg]
  cases hl : sliceLayer s body 3 with
  | none => rfl
  | some e =>
    obtain rfl := sliceLayer_eq hl
    exact if_neg fun how => h.resolve_left (by simp [hl]) (how.1.trans (by rw [takeMsg_boot]))

theorem slicePull_taken (hl : sliceLayer s body 3 = some (fld body 2 2, layerGet s (fld body 2 2)))
    (how : (layerGet s (fld body 2 2)).owner = s.boot.dev)
    (hin : inSlice (layerGet s (fld body 2 2)) (devCount s) src (fld body 8 8) (fld body 6 2) = true) :
    exec (.slicePull src tag body) s = .next (layerPut (takeMsg s src tag 0x0E) (fld body 2 2) (putMaster (layerGet s (fld body 2 2)) (fld body 8 8)
      (sliceValues (layerGet s (fld body 2 2)) (fld body 0x10 4) (fld body 6 2) (body.drop 32)))) := by
  rw [exec_slicePull, execSlicePull, sliceLayer_takeMsg, hl]
  exact if_pos ⟨how.trans (by rw [takeMsg_boot]), by rw [devCount_takeMsg]; exact hin⟩

end Sys2Proof.Machine
end

section
/-! SUPPORT. The end of a refresh of a layer's roots, and the closing of its steps (14 R544, R550-R553, R558, R561, R562). -/

namespace Sys2Proof.Machine

variable {s t u : State} {id : Nat}

/-! ### The end of a refresh (14 R552, R553) -/

theorem ViewSide.andThen (h : ViewSide s t) (k : ViewSide t u) : ViewSide s u := by
  unfold ViewSide ReportSide at *
  rw [k, h]

theorem report_view (s : State) (kind action subject detail : Nat) : ViewSide s (report s kind action subject detail) :=
  reportFull_view _ _ _ _ _ _ _ _

theorem ViewSide.upd (h : ViewSide s t) : t.upd = s.upd := by rw [h]
theorem ViewSide.mem (h : ViewSide s t) : t.mem = s.mem := by rw [h]
theorem ViewSide.emb (h : ViewSide s t) : t.emb = { s.emb with greys := t.emb.greys } := congrArg State.emb h

theorem rootRefreshDone_none {layer : Nat} (h : (layerGet s layer).refresh = none) : exec (.rootRefreshDone layer) s = .next s := by
  rw [exec_rootRefreshDone, execRootRefreshDone, h]

/-- The roots that a refresh of a layer ends with, block by block. -/
def refreshedRoots (x : Layer) (bs : List BlockSt) : List (Option (List Nat × List Nat)) :=
  ((blockShapes x.rows x.cols).zip bs).map fun b => blockRoots x.rule b.1.2.1 b.1.2.2.2 b.2

/-- A layer whose new roots await its next step, and which has fallen back where a factor failed. -/
def refreshed (x : Layer) (bs : List BlockSt) : Layer :=
  { x with refresh := none, fresh := refreshedRoots x bs, fallback := (refreshedRoots x bs).any Option.isNone }

/-- Some of a list's places fail a test exactly where some of its entries do. -/
theorem filter_zipIdx_nonempty {α : Type} (l : List α) (p : α → Bool) : (!(l.zipIdx.filter fun r => p r.1).isEmpty) = l.any p := by
  rw [Bool.eq_iff_iff]
  simp only [Bool.not_eq_true', List.isEmpty_eq_false_iff_exists_mem, List.mem_filter, List.any_eq_true, Prod.exists]
  constructor
  · rintro ⟨a, i, hmem, ha⟩
    exact ⟨a, List.fst_mem_of_mem_zipIdx hmem, ha⟩
  · rintro ⟨a, hmem, ha⟩
    obtain ⟨i, hi, rfl⟩ := List.getElem_of_mem hmem
    exact ⟨l[i], i, by simp [List.mk_mem_zipIdx_iff_getElem?, hi], ha⟩

/-- The new roots await the next step, and each factor that failed is counted and reported. -/
theorem rootRefreshDone_refreshes {layer : Nat} {bs : List BlockSt} (h : (layerGet s layer).refresh = some bs) :
    ∃ t, exec (.rootRefreshDone layer) s = .next t ∧ ViewSide (layerPut s layer (refreshed (layerGet s layer) bs)) t := by
  rw [exec_rootRefreshDone, execRootRefreshDone, h]
  dsimp only
  rw [filter_zipIdx_nonempty]
  refine ⟨_, rfl, List.foldlRecOn (motive := ViewSide _) _ _ (ReportSide.refl _).view fun x hx r _ => hx.andThen ?_⟩
  exact ((bump_side x _ 1).trans (event_side _ _ _)).view.andThen (report_view _ _ _ _ _)

/-! ### A layer at the end of a step (14 R540, R544, R550-R553) -/

/-- What a step that ends leaves of a layer beside its count of steps, its master and its states: the rule that waited, the next open step, and the
scatter that waits. -/
def stepEnded (l : Layer) (step : Nat) : Layer := useRule { markClosed l step with frozenOnce := false }

theorem markClosed_keeps (l : Layer) (step : Nat) : (markClosed l step).heldScatter = l.heldScatter ∧ (markClosed l step).steps = l.steps := by
  unfold markClosed
  split <;> exact ⟨rfl, rfl⟩

theorem useRule_keeps (l : Layer) : (useRule l).nextStep = l.nextStep ∧ (useRule l).heldScatter = l.heldScatter ∧ (useRule l).steps = l.steps := by
  unfold useRule
  split
  · exact ⟨rfl, rfl, rfl⟩
  · dsimp only
    split <;> exact ⟨rfl, rfl, rfl⟩

theorem stepEnded_nextStep (l : Layer) (step : Nat) : (stepEnded l step).nextStep = (markClosed l step).nextStep := (useRule_keeps _).1
theorem stepEnded_heldScatter (l : Layer) (step : Nat) : (stepEnded l step).heldScatter = l.heldScatter :=
  (useRule_keeps _).2.1.trans (markClosed_keeps l step).1
theorem stepEnded_steps (l : Layer) (step : Nat) : (stepEnded l step).steps = l.steps := (useRule_keeps _).2.2.trans (markClosed_keeps l step).2

theorem layerStep_nextStep (l : Layer) (t : Nat) (g : List Nat) : (layerStep l t g).nextStep = l.nextStep := by
  unfold layerStep
  dsimp only
  split <;> rfl

theorem takeRoots_nextStep (l : Layer) : (takeRoots l).nextStep = l.nextStep := rfl

theorem startRefresh_keeps (l : Layer) : (startRefresh l).nextStep = l.nextStep ∧ (startRefresh l).steps = l.steps := by
  unfold startRefresh
  split <;> exact ⟨rfl, rfl⟩

/-- The count of a layer's steps once another has been made. -/
def nextCount (l : Layer) : Nat := min (2 ^ 32 - 1) (l.steps + 1)

/-- A layer whose rule has run on the sum of a step, with the version that waits to be scattered. -/
def stepped (l : Layer) (a : StepAcc) (step : Nat) : Layer :=
  let g := (List.range (l.rows * l.cols)).map (mget (fun _ => 0) a.acc)
  { startRefresh { layerStep (takeRoots (stepEnded l step)) (nextCount l) g with steps := nextCount l } with
    heldScatter := some (nextCount l % 65536) }

theorem stepped_nextStep (l : Layer) (a : StepAcc) (step : Nat) : (stepped l a step).nextStep = (markClosed l step).nextStep := by
  unfold stepped
  dsimp only
  rw [(startRefresh_keeps _).1]
  dsimp only
  rw [layerStep_nextStep, takeRoots_nextStep, stepEnded_nextStep]

theorem stepped_steps (l : Layer) (a : StepAcc) (step : Nat) : (stepped l a step).steps = nextCount l := by
  unfold stepped
  dsimp only
  rw [(startRefresh_keeps _).2]

/-! ### The closing of a step (14 R544, R558, R561, R562) -/

/-- A step's accumulator is no longer kept. -/
def withoutStep (s : State) (id step : Nat) : State :=
  updMap s fun u => { u with stepAccs := u.stepAccs.filter fun b => !(b.layer == id && b.step == step) }

theorem withoutStep_canonical (hc : Canonical s) (id step : Nat) : Canonical (withoutStep s id step) := (kept_updMap (kept_self hc) rfl).canon

/-- Whether a part of a layer's master or state can't be read. -/
def layerUnread (s : State) (id : Nat) : Bool := s.upd.slowBad.any (layerUnit s id)

variable {step : Nat}

theorem closeAt_frozen (h : (layerGet s id).frozen = true) :
    closeAt s id step = layerPut (withoutStep s id step) id (stepEnded (layerGet s id) step) := if_pos h

theorem closeAt_unread (h : (layerGet s id).frozen = false) (hbad : layerUnread s id = true) :
    closeAt s id step = planLater (layerPut (withoutStep s id step) id (stepEnded (layerGet s id) step)) [layerItem id 5 (layerGet s id)] :=
  (if_neg (Bool.eq_false_iff.1 h)).trans (if_pos hbad)

theorem closeAt_nonFinite (h : (layerGet s id).frozen = false) (hgood : layerUnread s id = false)
    (hnan : ((stepAcc s id step).acc.any fun e => !finF e.2) = true) :
    closeAt s id step = nonFinite (layerPut (withoutStep s id step) id (stepEnded (layerGet s id) step)) (unitCode (withoutStep s id step) 8 id)
      (stepAcc s id step).step :=
  (if_neg (Bool.eq_false_iff.1 h)).trans ((if_neg (Bool.eq_false_iff.1 hgood)).trans (if_pos hnan))

theorem closeAt_steps (h : (layerGet s id).frozen = false) (hgood : layerUnread s id = false)
    (hfin : ((stepAcc s id step).acc.any fun e => !finF e.2) = false) :
    closeAt s id step = bump1 (layerPut (withoutStep s id step) id (stepped (layerGet s id) (stepAcc s id step) step)) regUpdLayerSteps :=
  (if_neg (Bool.eq_false_iff.1 h)).trans ((if_neg (Bool.eq_false_iff.1 hgood)).trans (if_neg (Bool.eq_false_iff.1 hfin)))

/-- Whatever a step comes to, closing it leaves the Rugon die with its layer put back, without the step's accumulator, and no hart changed. -/
structure Closes (s t : State) (id step : Nat) (x : Layer) : Prop where
  upd : t.upd = (layerPut (withoutStep s id step) id x).upd
  harts : t.harts = s.harts

theorem nonFinite_side (s : State) (unit detail : Nat) : ViewSide s (nonFinite s unit detail) :=
  ((bump_side s _ 1).trans (event_side _ _ _)).view.andThen (report_view _ _ _ _ _)

theorem ViewSide.harts (h : ViewSide s t) : t.harts = s.harts := by rw [h]

/-- Closing a step puts a layer whose oldest open step is the first that has not closed. -/
theorem closeAt_closes (s : State) (id step : Nat) : ∃ x, Closes s (closeAt s id step) id step x ∧
    x.nextStep = (markClosed (layerGet s id) step).nextStep := by
  cases h : (layerGet s id).frozen with
  | true => exact ⟨_, ⟨by rw [closeAt_frozen h], by rw [closeAt_frozen h]; rfl⟩, stepEnded_nextStep _ _⟩
  | false =>
    cases hbad : layerUnread s id with
    | true => exact ⟨_, ⟨by rw [closeAt_unread h hbad]; rfl, by rw [closeAt_unread h hbad]; rfl⟩, stepEnded_nextStep _ _⟩
    | false =>
      cases hnan : (stepAcc s id step).acc.any fun e => !finF e.2 with
      | true =>
        rw [closeAt_nonFinite h hbad hnan]
        exact ⟨_, ⟨(nonFinite_side _ _ _).upd, (nonFinite_side _ _ _).harts⟩, stepEnded_nextStep _ _⟩
      | false =>
        rw [closeAt_steps h hbad hnan]
        exact ⟨_, ⟨bump_upd _ _ 1, bump_harts _ _ 1⟩, stepped_nextStep _ _ _⟩

theorem Closes.layer (hc : Canonical s) {x : Layer} (h : Closes s t id step x) : layerGet t id = x :=
  (layerGet_congr h.upd id).trans (layerGet_layerPut_self (withoutStep_canonical hc id step) id x)

theorem Closes.others {x : Layer} (h : Closes s t id step x) {j : Nat} (hj : j ≠ id) : layerGet t j = layerGet s j :=
  (layerGet_congr h.upd j).trans (layerGet_layerPut_ne x hj)

theorem Closes.accs {x : Layer} (h : Closes s t id step x) : ∀ b ∈ t.upd.stepAccs, ¬(b.layer = id ∧ b.step = step) := by
  rw [h.upd]
  rintro b hb ⟨hlayer, hstep⟩
  have hkept := (List.mem_filter.1 hb).2
  simp [hlayer, hstep] at hkept

end Sys2Proof.Machine
end

section
/-! SUPPORT. Gradients, slices, pushes, drains and the closing of a step as a whole. -/

namespace Sys2Proof.Machine

/-- The closing of a layer's oldest open step (14 R544, R550, R558, R561). -/
theorem closeStep_closes {s : State} (hc : Canonical s) (id : Nat) :
    let l := layerGet s id
    let t := closeStep s id
    let unread := s.upd.slowBad.any (layerUnit s id)
    (layerGet t id).nextStep = (markClosed l l.nextStep).nextStep ∧ (∀ j, j ≠ id → layerGet t j = layerGet s j) ∧ t.harts = s.harts ∧
      (∀ b ∈ t.upd.stepAccs, ¬(b.layer = id ∧ b.step = l.nextStep)) ∧
      (l.frozen = true → (layerGet t id).heldScatter = l.heldScatter ∧ (layerGet t id).steps = l.steps ∧ t.csr = s.csr) ∧
      (l.frozen = false → unread = true → layerItem id 5 l ∈ t.emb.planned ∧ (layerGet t id).heldScatter = l.heldScatter ∧
        (layerGet t id).steps = l.steps ∧ t.csr = s.csr) ∧
      (l.frozen = false → unread = false → (stepAcc s id l.nextStep).acc.all (fun e => finF e.2) = true →
        (layerGet t id).steps = min (2 ^ 32 - 1) (l.steps + 1) ∧ (layerGet t id).heldScatter = some ((layerGet t id).steps % 65536)) := by
  intro l t unread
  have hself := fun x => layerGet_layerPut_self (withoutStep_canonical hc id l.nextStep) id x
  obtain ⟨x, hx, hnext⟩ := closeAt_closes s id l.nextStep
  refine ⟨(congrArg Layer.nextStep (hx.layer hc)).trans hnext, fun j hj => hx.others hj, hx.harts, hx.accs, fun hfrozen => ?_, fun hopen hbad => ?_,
    fun hopen hgood hfin => ?_⟩
  · have ht : t = layerPut (withoutStep s id l.nextStep) id (stepEnded l l.nextStep) := closeAt_frozen hfrozen
    have hl : layerGet t id = stepEnded l l.nextStep := by rw [ht, hself]
    rw [hl, ht]
    exact ⟨stepEnded_heldScatter l l.nextStep, stepEnded_steps l l.nextStep, rfl⟩
  · have ht : t = planLater (layerPut (withoutStep s id l.nextStep) id (stepEnded l l.nextStep)) [layerItem id 5 l] := closeAt_unread hopen hbad
    have hl : layerGet t id = stepEnded l l.nextStep := by rw [ht]; exact hself _
    rw [hl, ht]
    exact ⟨List.mem_append_right _ (List.mem_singleton_self _), stepEnded_heldScatter l l.nextStep, stepEnded_steps l l.nextStep, rfl⟩
  · have hnone : ((stepAcc s id l.nextStep).acc.any fun e => !finF e.2) = false := by simpa using hfin
    have ht : t = bump1 (layerPut (withoutStep s id l.nextStep) id (stepped l (stepAcc s id l.nextStep) l.nextStep)) regUpdLayerSteps :=
      closeAt_steps hopen hgood hnone
    have hl : layerGet t id = stepped l (stepAcc s id l.nextStep) l.nextStep := by rw [ht]; exact (layerGet_congr (bump_upd _ _ 1) id).trans (hself _)
    rw [hl, stepped_steps]
    exact ⟨rfl, rfl⟩

/-- Settles O47: each message and each command of the Rugon die does what its lemma says, and a step closes as `closeStep_closes` has it. -/
theorem updateMessages : Obligations.UpdateMessages := by
  unfold Obligations.UpdateMessages
  refine ⟨fun s src tag layer table body hc hon => ?_, fun s id hc => closeStep_closes hc id⟩
  intro id l
  refine ⟨?badLayer, ?goodLayer, ?badRows, ?goodRows, fun hform hfmt hzero hrest => ⟨?doneLayer, ?doneRows, ?doneClosed⟩, ?badDone,
    fun h => ⟨layerPush_stopped h, ringDrain_stopped h, layerStepTimeout_stopped h layer, rowTickTimeout_stopped h table⟩,
    fun j x k => layerPush_one, fun j x => ringDrain_one, ?staged, ?stepTimeout, rowTickTimeout_closes, ?retry, sliceScatter_none,
    fun v => sliceScatter_ready, rootRefreshDone_none, ?roots, sliceData_ignored, ?switching, ?taken, sliceEnd_ignored, sliceEnd_taken,
    slicePull_ignored, ?pull⟩
  case badLayer => exact fun h => ⟨_, gradientLayer_form hon h, badGrad_counts hc⟩
  case badRows =>
    intro h
    obtain ⟨hupd, hmem, hemb, hevent, -⟩ := badGrad_counts hc (src := src) (tag := tag)
    exact ⟨_, gradientRows_form hon h, hupd, hmem, hemb, hevent⟩
  case badDone =>
    intro h
    obtain ⟨hupd, hmem, hemb, hevent, -⟩ := badGrad_counts hc (src := src) (tag := tag)
    exact ⟨_, gradientDone_form hon h, hupd, hmem, hemb, hevent⟩
  case goodLayer =>
    intro hid hst how hform hfmt hsome hmost hzero hlen hin hahead hold
    refine ⟨gradientLayer_good hon ⟨hid, hst, how, hform, hfmt, hsome, hmost, hzero, hlen, hin, hahead, hold⟩, fun hfrozen => ?_⟩
    rw [contribLayer_frozen (by rw [layerGet_takeMsg]; exact hfrozen), takeMsg_upd]
  case goodRows =>
    intro tb rec_ hid hst hform hfmt hone hzero hlen hahead hrec hrow hhome
    refine ⟨gradientRows_one hon rfl ⟨hid, hst, hform, hfmt, hone, hzero, hlen, hahead, hrec, hrow, hhome⟩, fun hfrozen => ?_⟩
    rw [contribRow_frozen (by rw [tableFrozen_takeMsg]; exact hfrozen), takeMsg_upd]
  case doneLayer =>
    intro k hid hst how hopen hnew hstep hbegun hahead hold
    exact gradientDone_layer hon ⟨hform, hfmt, hzero, hrest⟩ ⟨hid, hst, how, hahead, hold⟩ hopen hnew hstep hbegun
  case doneRows => exact gradientDone_rows hon ⟨hform, hfmt, hzero, hrest⟩
  case doneClosed =>
    intro hid hst how hclosed htable hahead hold
    exact gradientDone_closed hon ⟨hform, hfmt, hzero, hrest⟩ ⟨hid, hst, how, hahead, hold⟩ hclosed htable
  case staged =>
    intro h hrun hup hone hnew hroom
    exact ⟨_, stagingRetry_one hrun hup hone hnew hroom, rfl, rfl, rfl, tableGet_tablePut_self (unheld_canonical hc) _ _⟩
  case stepTimeout =>
    intro hrun hup hst how
    have hruns := layerStepTimeout_runs hrun hup hst how
    exact ⟨fun h => hruns.trans (if_pos h), fun h => hruns.trans (if_neg (Nat.not_lt.2 h))⟩
  case retry =>
    rintro (h | h | h)
    · exact stagingRetry_waits (.inl h)
    · exact stagingRetry_waits (.inr h)
    · exact stagingRetry_none h
  case roots =>
    intro bs h
    obtain ⟨t, hnext, hside⟩ := rootRefreshDone_refreshes h
    exact ⟨t, hnext, (layerGet_congr hside.upd layer).trans (layerGet_layerPut_self hc layer _), hside.mem, hside.emb⟩
  case switching =>
    intro hl hsrc hin hnext
    rw [sliceData_taken hl hsrc hin, takeSlice_switching (by rw [layerGet_takeMsg]; exact hnext)]
  case taken => exact fun hl hsrc hin _ => sliceData_taken hl hsrc hin
  case pull =>
    intro hl how hin
    exact ⟨_, slicePull_taken hl how hin, by simp, by simp, layerGet_layerPut_self (takeMsg_canonical hc) _ _⟩

end Sys2Proof.Machine
end

section
/-! SUPPORT. What a write leaves in memory rests on: the bytes, the channels' controllers, the place of each address, and the time (12 R448, R453-R455). -/

namespace Sys2Proof.Machine

variable {s t u : State}

/-- Two states with the same bytes, the same controllers, the same place of every address and the same time: a write leaves the same bytes in both. -/
structure SameMemory (s t : State) : Prop where
  mem : t.mem = s.mem
  chans : t.chans = s.chans
  now : t.now = s.now
  cfg : rget t regMemCfg = rget s regMemCfg

/-- Adding to a counter leaves MEM_CFG, whatever event it raises (00 R21; 12 R448). -/
theorem rget_memCfg_bump {a : Nat} (h : regMemCfg ≠ a) (n : Nat) : rget (bump s a n) regMemCfg = rget s regMemCfg := by
  unfold bump
  extract_lets top v s1
  have hset : ∀ w, rget (rset s a w) regMemCfg = rget s regMemCfg := fun w => rget_rset_ne w h
  split
  · rfl
  · split
    · exact hset _
    · cases corWindow a with
      | none => exact hset _
      | some i => exact (rget_rset_ne _ (by unfold regMemCfg regCorEvents; omega)).trans (hset _)

/-- A buffer with room for an entry: a full one writes its oldest entry back (12 R454). -/
def roomMade (s : State) (c : Nat) (l : List WcbEntry) : State :=
  if l.length < 64 then s else match l with
    | e :: _ => writeBack s c e
    | [] => s

/-- A new entry in a buffer notes the time (12 R453). -/
def entryJoined (s : State) (c u mask : Nat) (held : List Host.Cell) : State :=
  chanPut s c { chanGet s c with wcb := (chanGet s c).wcb ++ [⟨u, mask, s.now, held⟩] }

/-- A partial write of a unit without an entry makes room and joins the buffer. -/
theorem combine_joins {c u mask : Nat} {held : List Host.Cell} (hpart : mask ≠ fullMask) (hfind : wcbOf s c u = none) :
    combine s c u mask held = entryJoined (roomMade s c (chanGet s c).wcb) c u mask held := by
  unfold wcbOf at hfind
  unfold combine
  rw [if_neg hpart, hfind]
  rfl

namespace SameMemory

theorem refl (s : State) : SameMemory s s := ⟨rfl, rfl, rfl, rfl⟩

theorem symm (h : SameMemory s t) : SameMemory t s := ⟨h.mem.symm, h.chans.symm, h.now.symm, h.cfg.symm⟩

theorem trans (h : SameMemory s t) (k : SameMemory t u) : SameMemory s u :=
  ⟨k.mem.trans h.mem, k.chans.trans h.chans, k.now.trans h.now, k.cfg.trans h.cfg⟩

theorem chanGet_eq (h : SameMemory s t) (c : Nat) : chanGet t c = chanGet s c := by rw [chanGet, h.chans, chanGet]

theorem wcbOf_eq (h : SameMemory s t) (c u : Nat) : wcbOf t c u = wcbOf s c u := by rw [wcbOf, h.chanGet_eq, wcbOf]

theorem chanOf_eq (h : SameMemory s t) (a : Nat) : chanOf t a = chanOf s a := chanOf_congr h.cfg a

theorem noNewBad (h : SameMemory s t) : NoNewBad s t := .of_chans h.cfg h.chans

theorem unitBad_eq (h : SameMemory s t) (a n : Nat) : unitBad t a n = unitBad s a n := by
  have hgood : unitBad t a n = false ↔ unitBad s a n = false := ⟨h.symm.noNewBad.unitBad_false, h.noNewBad.unitBad_false⟩
  exact Bool.eq_iff_iff.2 (not_iff_not.1 (by simpa using hgood))

/-! ### What leaves all four as they were -/

theorem bump {a : Nat} (h : regMemCfg ≠ a) (n : Nat) : SameMemory s (bump s a n) :=
  ⟨bump_mem .., bump_chans .., bump_now .., rget_memCfg_bump h n⟩

theorem rset {a : Nat} (h : regMemCfg ≠ a) (v : Nat) : SameMemory s (rset s a v) := ⟨rfl, rfl, rfl, rget_rset_ne v h⟩

theorem report (s : State) (kind action subject detail : Nat) : SameMemory s (report s kind action subject detail) where
  mem := report_mem ..
  chans := by rw [report_only]
  now := by rw [report_only]
  cfg := rget_memCfg_reportFull ..

/-- No register that a channel's controller writes is MEM_CFG. -/
theorem memCfg_ne_ch {o : Nat} (h0 : 0 < o) (h : o < 0x1000) (c : Nat) : regMemCfg ≠ 0x1400000 + o + 0x1000 * c := by
  unfold regMemCfg
  omega

/-- A dropped write is counted and recorded alone (12 R455). -/
theorem dropWrite (s : State) (c u : Nat) : SameMemory s (dropWrite s c u) :=
  ((bump (memCfg_ne_ch (o := 0x30) (by decide) (by decide) c) 1).trans
    (rset (memCfg_ne_ch (o := 0x08) (by decide) (by decide) c) _)).trans (report ..)

/-! ### What changes all four alike -/

theorem chanPut (h : SameMemory s t) (c : Nat) (x : Chan) : SameMemory (chanPut s c x) (chanPut t c x) :=
  ⟨h.mem, congrArg (mset _ · c x) h.chans, h.now, h.cfg⟩

theorem takeEntry (h : SameMemory s t) (c u : Nat) : SameMemory (takeEntry s c u) (takeEntry t c u) := by
  unfold Machine.takeEntry
  rw [h.chanGet_eq]
  exact h.chanPut c _

/-- A partial write-back takes the entry out of the buffer, and counts what it does (12 R454, R455). -/
theorem writeBack_partial {c : Nat} {e : WcbEntry} (he : e.mask ≠ fullMask) : SameMemory (Machine.takeEntry s c e.unit) (writeBack s c e) := by
  have hrmw : ∀ x : State, SameMemory x (bump1 x (regMemChRmw c)) := fun _ => bump (memCfg_ne_ch (o := 0x34) (by decide) (by decide) c) 1
  have huncorr : ∀ x : State, SameMemory x (event (bump1 x (regMemChUncorr c)) (regMemChEvents c) 0) := fun _ =>
    (bump (memCfg_ne_ch (o := 0x24) (by decide) (by decide) c) 1).trans (rset (memCfg_ne_ch (o := 0x50) (by decide) (by decide) c) _)
  unfold Machine.writeBack
  rw [if_neg he]
  dsimp only
  split
  · exact (hrmw _).trans ((huncorr _).trans (dropWrite ..))
  · exact hrmw _

theorem writeBack (h : SameMemory s t) (c : Nat) (e : WcbEntry) : SameMemory (writeBack s c e) (writeBack t c e) := by
  have htake := h.takeEntry c e.unit
  by_cases he : e.mask = fullMask
  · unfold Machine.writeBack
    rw [if_pos he, if_pos he, htake.chanGet_eq]
    exact htake.chanPut c _
  · exact (writeBack_partial he).symm.trans (htake.trans (writeBack_partial he))

theorem roomMade (h : SameMemory s t) (c : Nat) (l : List WcbEntry) : SameMemory (roomMade s c l) (roomMade t c l) := by
  unfold Machine.roomMade
  split
  · exact h
  · cases l with
    | nil => exact h
    | cons e r => exact h.writeBack c e

theorem entryJoined (h : SameMemory s t) (c u mask : Nat) (held : List Host.Cell) :
    SameMemory (entryJoined s c u mask held) (entryJoined t c u mask held) := by
  unfold Machine.entryJoined
  rw [h.chanGet_eq, h.now]
  exact h.chanPut c _

theorem combine (h : SameMemory s t) (c u mask : Nat) (held : List Host.Cell) : SameMemory (combine s c u mask held) (combine t c u mask held) := by
  by_cases hfull : mask = fullMask
  · unfold Machine.combine
    rw [h.chanGet_eq, if_pos hfull, if_pos hfull]
    exact h.chanPut c _
  · cases hfind : wcbOf s c u with
    | none =>
      have hfind' : wcbOf t c u = none := by rw [h.wcbOf_eq, hfind]
      rw [combine_joins hfull hfind, combine_joins hfull hfind', h.chanGet_eq]
      exact (h.roomMade c _).entryJoined c u mask held
    | some e =>
      unfold wcbOf at hfind
      unfold Machine.combine
      rw [h.chanGet_eq, if_neg hfull, if_neg hfull, hfind]
      dsimp only
      split <;> exact h.chanPut c _

/-- One change after another, the same in both. -/
theorem foldl {α : Type} {f : State → α → State} (hf : ∀ {s t} x, SameMemory s t → SameMemory (f s x) (f t x)) (h : SameMemory s t) (l : List α) :
    SameMemory (l.foldl f s) (l.foldl f t) := by
  induction l generalizing s t with
  | nil => exact h
  | cons x r ih => exact ih (hf x h)

theorem putBytes (h : SameMemory s t) (a : Nat) (l : List Byte) : SameMemory (putBytes s a l) (putBytes t a l) where
  mem := putBytes_mem h.mem a l
  chans := by rw [putBytes_chans, putBytes_chans, h.chans]
  now := by rw [putBytes_only t, putBytes_only s]; exact h.now
  cfg := by simp only [rget, putBytes_csr]; exact h.cfg

theorem putCells (h : SameMemory s t) (cs : List Host.Cell) : SameMemory (putCells s cs) (putCells t cs) :=
  foldl (fun x k => k.putBytes x.1 [x.2]) h cs

theorem writePart (h : SameMemory s t) (a : Nat) (l : List Byte) : SameMemory (writePart s a l) (writePart t a l) := by
  unfold Machine.writePart
  simp only [h.chanOf_eq, h.unitBad_eq, h.wcbOf_eq]
  split
  · exact (h.combine ..).putBytes a l
  · split
    · exact ((h.combine ..).putCells _).putBytes a l
    · exact h.combine ..

/-- An accepted write leaves the same bytes in both (12 R453-R455). -/
theorem memWrite_mem (h : SameMemory s t) (a : Nat) (l : List Byte) : (memWrite t a l).mem = (memWrite s a l).mem := by
  have hpages : ∀ x : State, (if l.isEmpty then x else (pagesOf a l.length).foldl raiseGen x).mem = x.mem := fun x =>
    (pages_side (.refl x) l.isEmpty _).2
  unfold memWrite
  cases space a with
  | hbm => exact (hpages _).trans ((foldl (fun p k => k.writePart p.1 _) h _).mem.trans (hpages _).symm)
  | slow => exact (hpages _).trans ((h.putBytes a l).mem.trans (hpages _).symm)
  | scratch c => exact (h.putBytes a l).mem
  | hole => exact (h.putBytes a l).mem

end SameMemory

end Sys2Proof.Machine
end

section
/-! SUPPORT. Relocation broadcasts, queries, row streams and their acknowledgements (09 R355, R358, R359; 13 R515, R518; 01 R40). -/

namespace Sys2Proof.Machine

variable {s t u : State} {src tag kind : Nat} {body : List Byte}

/-! ### Messages taken and posted (13 R503, R506) -/

@[simp] theorem takeMsg_plc (s : State) (src tag kind : Nat) : (takeMsg s src tag kind).plc = s.plc := by rw [takeMsg_only]
@[simp] theorem takeMsg_harts (s : State) (src tag kind : Nat) : (takeMsg s src tag kind).harts = s.harts := by rw [takeMsg_only]

@[simp] theorem inApply_takeMsg : inApply (takeMsg s src tag kind) = inApply s := by rw [inApply, takeMsg_tsq, inApply]

@[simp] theorem windowItems_takeMsg : windowItems (takeMsg s src tag kind) = windowItems s := by rw [windowItems, takeMsg_tsq, windowItems]

@[simp] theorem greyAt_takeMsg (i : Nat) : greyAt (takeMsg s src tag kind) i = greyAt s i := by
  rw [takeMsg_only]
  rfl

@[simp] theorem migBudget_takeMsg : migBudget (takeMsg s src tag kind) = migBudget s := by rw [migBudget, fget, rget, takeMsg_csr]; rfl

@[simp] theorem post_plc (s : State) (k d : Nat) (b : List Byte) : (post s k d b).plc = s.plc := by rw [post_only]
@[simp] theorem report_plc (s : State) (k a u d : Nat) : (report s k a u d).plc = s.plc := by rw [report_only]

/-! ### Broadcasts (09 R359; 13 R515) -/

/-- A broadcast that says it has expired ends the gap that was asked for. -/
theorem relocBcast_expired (hon : s.boot.pwrgood = true) (hexp : bit (fld body 0x14 1) 0 = true)
    (hgap : s.plc.gaps.contains (src, fld body 0 4) = true) :
    exec (.relocBcast src tag body) s = .next (event (plcMap (takeMsg s src tag 9) fun p =>
      { p with gaps := p.gaps.filter (· ≠ (src, fld body 0 4)) }) regPlcEvents 4) :=
  (if_pos hon).trans ((if_pos hexp).trans (if_pos (by rw [takeMsg_plc]; exact hgap)))

/-- One that nobody asked for again, and that says it has expired, changes nothing. -/
theorem relocBcast_expired_unasked (hon : s.boot.pwrgood = true) (hgap : s.plc.gaps.contains (src, fld body 0 4) = false)
    (hexp : bit (fld body 0x14 1) 0 = true) : exec (.relocBcast src tag body) s = .next (takeMsg s src tag 9) :=
  (if_pos hon).trans ((if_pos hexp).trans (if_neg (by rw [takeMsg_plc, hgap]; decide)))

/-- One no newer than the last of its source, neither asked for again nor begun, changes nothing. -/
theorem relocBcast_received {l : Nat} (hon : s.boot.pwrgood = true) (hgap : s.plc.gaps.contains (src, fld body 0 4) = false)
    (hexp : bit (fld body 0x14 1) 0 = false) (hlast : pfind s.plc.lastSeq src = some l)
    (hold : (fld body 0 4 + 2 ^ 32 - l) % 2 ^ 32 = 0 ∨ 2 ^ 31 ≤ (fld body 0 4 + 2 ^ 32 - l) % 2 ^ 32)
    (hopen : (s.plc.rx.any fun b => b.src == src && b.seq == fld body 0 4) = false) :
    exec (.relocBcast src tag body) s = .next (takeMsg s src tag 9) := by
  have hnewer : ¬(0 < (fld body 0 4 + 2 ^ 32 - l) % 2 ^ 32 ∧ (fld body 0 4 + 2 ^ 32 - l) % 2 ^ 32 < 2 ^ 31) := by omega
  refine (if_pos hon).trans ((if_neg (by rw [hexp]; decide)).trans (if_pos ?_))
  rw [takeMsg_plc, hlast, hgap, hopen]
  simp only [decide_eq_false hnewer]
  rfl

/-- The entries that a part of a broadcast lists. -/
def bcastEntries (body : List Byte) : List (Nat × Nat × Nat × Nat) :=
  (List.range (fld body 0x10 4)).map fun i =>
    let o := 32 + 16 * i
    (fld body (o + 6) 2 % 4096, fld body o 5, fld body (o + 8) 6, fld body (o + 14) 2 % 1024)

/-- A broadcast of which one part has come. -/
def begunBcast (s : State) (src : Nat) (body : List Byte) : Bcast :=
  ⟨src, fld body 0 4, fld body 8 8, fld body 6 2, [fld body 4 2], bcastEntries body, if inApply s then s.tsq.tick else s.tsq.tick - 1⟩

/-- One part of several is not the whole. -/
theorem begunBcast_part (h : 2 ≤ fld body 6 2) : bcastWhole (begunBcast s src body) = false := by
  refine List.all_eq_false.2 ?_
  by_cases h0 : fld body 4 2 = 0
  · exact ⟨1, List.mem_range.2 h, by simp [begunBcast, h0]⟩
  · exact ⟨0, List.mem_range.2 (Nat.zero_lt_of_lt h), by simp [begunBcast, Ne.symm h0]⟩

/-- The first part of the first broadcast of a source is kept until the others come. -/
theorem relocBcast_begins (hon : s.boot.pwrgood = true) (hexp : bit (fld body 0x14 1) 0 = false) (hlast : pfind s.plc.lastSeq src = none)
    (hopen : (s.plc.rx.any fun b => b.src == src && b.seq == fld body 0 4) = false) (hparts : 2 ≤ fld body 6 2) :
    exec (.relocBcast src tag body) s = .next (plcMap (takeMsg s src tag 9) fun p =>
      { p with lastSeq := pput p.lastSeq src (fld body 0 4), rx := p.rx ++ [begunBcast s src body] }) := by
  have hfind : (s.plc.rx ++ [begunBcast s src body]).find? (fun b => b.src == src && b.seq == fld body 0 4) = some (begunBcast s src body) := by
    rw [List.find?_append, List.find?_eq_none.2 (by simpa using hopen), Option.none_or]
    exact List.find?_cons_of_pos (by simp [begunBcast])
  refine (if_pos hon).trans ((if_neg (by rw [hexp]; decide)).trans ((if_neg ?_).trans ?_))
  · simp [hlast]
  · simp only [takeMsg_plc, inApply_takeMsg, takeMsg_tsq, hlast, hopen, plcMap]
    rw [← bcastEntries, ← begunBcast]
    simp only [Bool.false_eq_true, if_false, if_true, hfind, begunBcast_part hparts, Bool.not_false, List.filter_nil, List.append_nil]

/-! ### Queries (13 R515) -/

/-- A broadcast sent again touches registers and the message layer alone (13 R506). -/
theorem sendBcast_only (s : State) (b : Bcast) (dev : Nat) :
    sendBcast s b dev false = { s with csr := (sendBcast s b dev false).csr, hws := (sendBcast s b dev false).hws } :=
  List.foldlRecOn _ _ (motive := fun x : State => x = { s with csr := x.csr, hws := x.hws }) rfl fun x hx p _ => by
    rw [if_neg Bool.false_ne_true, post_only, hx]

/-- A query of what isn't kept is answered so. -/
theorem relocQuery_expired (hon : s.boot.pwrgood = true) (hsent : s.plc.sent.find? (fun b => b.seq == fld body 0 4) = none) :
    exec (.relocQuery src tag body) s = .next (post (takeMsg s src tag 0x0A) 9 src
      (bcastBytes ⟨s.boot.dev, fld body 0 4, s.tsq.tick, 1, [], [], 0⟩ 0 [] true)) := by
  rw [exec_relocQuery, execRelocQuery, powered_on hon]
  dsimp only
  rw [takeMsg_plc, hsent, takeMsg_boot, takeMsg_tsq]

/-- A query changes nothing of the directory, memory or the strands. -/
theorem relocQuery_leaves (hon : s.boot.pwrgood = true) :
    ∃ t, exec (.relocQuery src tag body) s = .next t ∧ t.plc = s.plc ∧ t.mem = s.mem ∧ t.harts = s.harts := by
  cases hsent : s.plc.sent.find? (fun b => b.seq == fld body 0 4) with
  | none => exact ⟨_, relocQuery_expired hon hsent, by simp, by simp, by simp⟩
  | some b =>
    refine ⟨sendBcast (takeMsg s src tag 0x0A) b src false, ?_, ?_, ?_, ?_⟩
    · rw [exec_relocQuery, execRelocQuery, powered_on hon]
      dsimp only
      rw [takeMsg_plc, hsent]
    · rw [sendBcast_only, takeMsg_plc]
    · rw [sendBcast_only, takeMsg_mem]
    · rw [sendBcast_only, takeMsg_harts]

/-! ### Row streams (13 R518; 09 R355, R358) -/

/-- Whether a message's rows are of an accepted MIGRATE. -/
def streamOf (s : State) (src : Nat) (body : List Byte) (a : Accepted) : Bool :=
  a.src == src && a.table == fld body 0xC 2 && a.row == fld body 0x10 5 && decide (a.tick ≤ s.tsq.tick)

/-- The item of the window that an accepted MIGRATE is, with its index. -/
def acceptedItem (s : State) (a : Accepted) : Option (Nat × List Byte) := (windowItems s).find? fun k => k.2 == a.item

/-- The rows of a message that an accepted MIGRATE takes in. -/
def streamRows (body : List Byte) (a : Accepted) : List (List Byte) :=
  ((List.range (fld body 0xE 2)).map fun i => (body.drop (32 + (8 + a.stride) * i)).take (8 + a.stride)).filter fun r =>
    decide (a.row ≤ fld r 0 5 ∧ fld r 0 5 < a.row + a.count) && !a.taken.contains (fld r 0 5)

/-- What a device does with the rows of an accepted MIGRATE: how many it takes, and the state it leaves. -/
def streamTaken (s : State) (body : List Byte) (a : Accepted) : Nat × State :=
  let u := idxChan (fld a.item 0xD 1)
  if a.refused then (0, s)
  else if greyAt s u then
    (0, skipGrey (acceptedMod s a fun x => { x with refused := true }) ((acceptedItem s a).getD (0, a.item)) (rdyCode s u))
  else takeRows s a (streamRows body a)

/-- The acknowledgement of a message, of whose rows `n` were taken. -/
def streamAck (body : List Byte) (a : Accepted) (n : Nat) : List Byte :=
  body.take 0xE ++ natLe 2 0 ++ natLe 5 a.row ++ natLe 1 1 ++ natLe 2 0 ++ natLe 4 (fld body 0x18 4) ++ natLe 4 n

/-- Rows of no accepted MIGRATE, or outside their window, change nothing. -/
theorem rowStream_ignored (h : s.plc.accepted.find? (streamOf s src body) = none ∨ inApply s = false ∨ fld body 0 8 ≠ s.tsq.tick) :
    exec (.rowStream src tag body) s = .next (takeMsg s src tag 0xC) := by
  rw [exec_rowStream, execRowStream, takeMsg_plc, takeMsg_tsq]
  show (match s.plc.accepted.find? (streamOf s src body) with | none => _ | some a => _) = _
  cases hfind : s.plc.accepted.find? (streamOf s src body) with
  | none => rfl
  | some a =>
    refine if_pos ?_
    rcases h with h | h | h
    · simp [hfind] at h
    · simp [h]
    · simp [h]

/-- Rows of an accepted MIGRATE, in its window, are taken and acknowledged. -/
theorem rowStream_answers {a : Accepted} (hfind : s.plc.accepted.find? (streamOf s src body) = some a) (hwin : inApply s = true)
    (htick : fld body 0 8 = s.tsq.tick) (hskip : ((acceptedItem s a).any fun k => s.tsq.skip.contains k.1) = false) :
    let r := streamTaken (takeMsg s src tag 0xC) body a
    exec (.rowStream src tag body) s = .next (post r.2 0xC src (streamAck body a r.1)) := by
  intro r
  rw [exec_rowStream, execRowStream, takeMsg_plc, takeMsg_tsq]
  show (match s.plc.accepted.find? (streamOf s src body) with | none => _ | some a => _) = _
  rw [hfind]
  refine (if_neg ?_).trans rfl
  rw [inApply_takeMsg, windowItems_takeMsg, hwin, htick]
  rw [acceptedItem] at hskip
  rw [hskip]
  simp

/-- A refused MIGRATE takes no row, and one into a grey channel is skipped (01 R40). -/
theorem streamTaken_none {a : Accepted} (h : a.refused = true ∨ greyAt s (idxChan (fld a.item 0xD 1)) = true) :
    (streamTaken s body a).2.mem = s.mem ∧ (streamTaken s body a).2.plc.budget = s.plc.budget ∧ (streamTaken s body a).2.harts = s.harts := by
  unfold streamTaken
  dsimp only
  split
  · exact ⟨rfl, rfl, rfl⟩
  · rename_i hopen
    rw [if_pos (h.resolve_left hopen)]
    simp [skipGrey, acceptedMod, plcMap]

/-- A row of an accepted MIGRATE, as the message carries it, with room on the budget for it (R355). -/
structure TakesRow (s : State) (body : List Byte) (a : Accepted) (r : List Byte) : Prop where
  accepted : a.refused = false
  ready : greyAt s (idxChan (fld a.item 0xD 1)) = false
  uncut : a.cut = false
  one : fld body 0xE 2 = 1
  stride : 0 < a.stride
  room : s.plc.budget + a.stride ≤ migBudget s
  record : r = (body.drop 32).take (8 + a.stride)
  low : a.row ≤ fld r 0 5
  high : fld r 0 5 < a.row + a.count
  fresh : a.taken.contains (fld r 0 5) = false

/-- A row that has been received counts as such. -/
def rowReceived (x : Nat) (a : Accepted) : Accepted :=
  { a with got := a.got ++ [x].filter fun y => !a.got.contains y, fresh := true }

theorem mem_rowReceived_got (x : Nat) (a : Accepted) : x ∈ (rowReceived x a).got := by
  by_cases h : x ∈ a.got <;> simp [rowReceived, h]

/-- A row is written in its place, on the budget, and counts as received (09 R355; 13 R518). -/
def rowTaken (s : State) (a : Accepted) (r : List Byte) : State :=
  let at_ := acceptedAt s a (fld r 0 5)
  acceptedMod (countRowWrite (memWrite (spend s a.stride) at_ (r.drop 8)) at_ a.table) a (rowReceived (fld r 0 5))

/-- The one row of a message. -/
theorem streamRows_one {r : List Byte} {a : Accepted} (h : TakesRow s body a r) : streamRows body a = [r] := by
  rw [streamRows, h.one, List.range_one, List.map_singleton, Nat.mul_zero, Nat.add_zero, ← h.record]
  exact List.filter_cons_of_pos (by rw [decide_eq_true ⟨h.low, h.high⟩, h.fresh]; rfl)

/-- The budget lets one row through. -/
theorem takeRows_one {r : List Byte} {a : Accepted} (hstride : 0 < a.stride) (hcut : a.cut = false)
    (hroom : s.plc.budget + a.stride ≤ migBudget s) : takeRows s a [r] = (1, rowTaken s a r) := by
  have hone : 1 ≤ (migBudget s - s.plc.budget) / max 1 a.stride := by
    rw [Nat.max_eq_right hstride]
    exact (Nat.one_le_div_iff hstride).2 (by omega)
  have htake : [r].take ((migBudget s - s.plc.budget) / max 1 a.stride) = [r] := List.take_of_length_le hone
  unfold takeRows
  simp only [hcut, Bool.false_eq_true, if_false, htake, Nat.lt_irrefl, decide_false, Bool.and_false, List.map_singleton, List.isEmpty_cons,
    Bool.not_false, Bool.or_true]
  rfl

theorem streamTaken_one {r : List Byte} {a : Accepted} (h : TakesRow s body a r) : streamTaken s body a = (1, rowTaken s a r) := by
  unfold streamTaken
  rw [streamRows_one h, takeRows_one h.stride h.uncut h.room]
  exact (if_neg (by simp [h.accepted])).trans (if_neg (by simp [h.ready]))

/-- A MIGRATE other than HOME puts each row at its place from the base (13 R518). -/
theorem acceptedAt_base {a : Accepted} (h : fld a.item 0xE 1 ≠ 3) (s : State) (x : Nat) : acceptedAt s a x = a.base + (x - a.row) * a.stride := if_neg h

/-- Counting a row's write touches the load counts alone (09 R347). -/
theorem countRowWrite_only (s : State) (a id : Nat) : countRowWrite s a id =
    { s with plc := { s.plc with chanCounts := (countRowWrite s a id).plc.chanCounts, tableCounts := (countRowWrite s a id).plc.tableCounts } } := by
  unfold countRowWrite
  split <;> rfl

/-- What counts on the budget leaves memory and its controllers. -/
theorem spend_memory (s : State) (n : Nat) : SameMemory s (spend s n) := (SameMemory.bump (a := regPlcMigBytes) (by decide) n).trans ⟨rfl, rfl, rfl, rfl⟩

theorem spend_budget (s : State) (n : Nat) : (spend s n).plc.budget = s.plc.budget + n := congrArg (PlcUnit.budget · + n) (bump_plc ..)

theorem spend_harts (s : State) (n : Nat) : (spend s n).harts = s.harts := bump_harts ..

@[simp] theorem memWrite_plc (s : State) (a : Nat) (l : List Byte) : (memWrite s a l).plc = s.plc := by rw [memWrite_side]
@[simp] theorem memWrite_harts (s : State) (a : Nat) (l : List Byte) : (memWrite s a l).harts = s.harts := by rw [memWrite_side]

/-- A message taken leaves memory and its controllers. -/
theorem takeMsg_memory (s : State) (src tag kind : Nat) : SameMemory s (takeMsg s src tag kind) := by
  rw [takeMsg_only]
  exact ⟨rfl, rfl, rfl, rfl⟩

theorem rowTaken_budget (a : Accepted) (r : List Byte) : (rowTaken s a r).plc.budget = s.plc.budget + a.stride := by
  show (countRowWrite _ _ _).plc.budget = _
  rw [countRowWrite_only]
  exact (congrArg PlcUnit.budget (memWrite_plc ..)).trans (spend_budget ..)

theorem rowTaken_harts (a : Accepted) (r : List Byte) : (rowTaken s a r).harts = s.harts := by
  show (countRowWrite _ _ _).harts = _
  rw [countRowWrite_only]
  exact (memWrite_harts ..).trans (spend_harts ..)

theorem rowTaken_mem {a : Accepted} (h : fld a.item 0xE 1 ≠ 3) (r : List Byte) :
    (rowTaken s a r).mem = (memWrite s (a.base + (fld r 0 5 - a.row) * a.stride) (r.drop 8)).mem := by
  show (countRowWrite _ _ _).mem = _
  rw [countRowWrite_only, acceptedAt_base h]
  exact (spend_memory s a.stride).memWrite_mem _ _

/-- The accepted MIGRATE has the row afterwards. -/
theorem rowTaken_got (a : Accepted) (r : List Byte) : ∀ y ∈ (rowTaken s a r).plc.accepted, y.item = a.item → fld r 0 5 ∈ y.got := by
  intro y hy hitem
  obtain ⟨z, -, rfl⟩ := List.mem_map.1 hy
  split at hitem
  · rename_i hz
    rw [if_pos hz]
    exact mem_rowReceived_got _ z
  · contradiction

/-! ### Acknowledgements (13 R518) -/

/-- The rows of a message that an acknowledgement names. -/
def ackedRows (s : State) (src : Nat) (body : List Byte) : List Copied :=
  (s.plc.copied.filter fun c => c.item == fld body 8 4 && c.msgSeq == fld body 0x18 4 && c.dev == src).take (fld body 0x1C 4)

/-- An acknowledgement outside its window, or after the bulk cut-off, changes nothing. -/
theorem rowStreamAck_late (h : inApply s = false ∨ s.tsq.stage = 3 ∨ fld body 0 8 ≠ s.tsq.tick) :
    exec (.rowStreamAck src tag body) s = .next (takeMsg s src tag 0xC) := by
  refine if_pos ?_
  rw [inApply_takeMsg, takeMsg_tsq]
  rcases h with h | h | h <;> simp [h]

/-- An acknowledgement in its window marks the rows it names. -/
theorem rowStreamAck_marks (hwin : inApply s = true) (hstage : s.tsq.stage ≠ 3) (htick : fld body 0 8 = s.tsq.tick) :
    exec (.rowStreamAck src tag body) s = .next (plcMap (takeMsg s src tag 0xC) fun p =>
      { p with copied := p.copied.map fun c => if (ackedRows s src body).contains c then { c with acked := true } else c }) := by
  refine (if_neg ?_).trans ?_
  · rw [inApply_takeMsg, takeMsg_tsq]
    simp [hwin, hstage, htick]
  · rw [takeMsg_plc]
    rfl

/-- Settles O46: each message by its own rule above; a row of an accepted MIGRATE is taken as `rowTaken` has it. -/
theorem relocationMessages : Obligations.RelocationMessages := by
  unfold Obligations.RelocationMessages
  intro s src tag body hc hon seq
  refine ⟨?expired, relocBcast_expired_unasked hon, fun l => relocBcast_received hon, ?begins, relocQuery_leaves hon, relocQuery_expired hon,
    ⟨rowStream_ignored, ?rows⟩, rowStreamAck_late, ?marks⟩
  case expired =>
    intro hexp hgap
    exact ⟨_, relocBcast_expired hon hexp hgap, by simp [plcMap, seq],
      bit_event_self (kept_plcMap (kept_takeMsg (kept_self hc))).canon (by decide), takeMsg_mem .., takeMsg_harts ..⟩
  case begins =>
    intro _ hexp hlast hopen hparts
    exact ⟨_, begunBcast s src body, relocBcast_begins hon hexp hlast hopen hparts, by simp [plcMap, seq], rfl, rfl, rfl, rfl, rfl,
      by simp [begunBcast, bcastEntries], takeMsg_mem .., takeMsg_harts ..⟩
  case rows =>
    intro a hfind hwin htick hskip
    have hanswer := rowStream_answers (tag := tag) hfind hwin htick hskip
    refine ⟨?_, ?_⟩
    · intro hnone
      obtain ⟨hmem, hbudget, hharts⟩ := streamTaken_none (s := takeMsg s src tag 0xC) (body := body) (a := a) (by rw [greyAt_takeMsg]; exact hnone)
      exact ⟨_, hanswer, by rw [post_mem, hmem, takeMsg_mem], by rw [post_plc, hbudget, takeMsg_plc], by rw [post_harts, hharts, takeMsg_harts]⟩
    · intro hacc hready hcut hone hstride hroom hform rec_ x hlow hhigh hfresh
      have htaken : streamTaken (takeMsg s src tag 0xC) body a = (1, rowTaken (takeMsg s src tag 0xC) a rec_) :=
        streamTaken_one ⟨hacc, by rw [greyAt_takeMsg]; exact hready, hcut, hone, hstride, by rw [takeMsg_plc, migBudget_takeMsg]; exact hroom, rfl,
          hlow, hhigh, hfresh⟩
      rw [htaken] at hanswer
      refine ⟨_, hanswer, ?_, ?_, ?_, ?_⟩
      · rw [post_plc, rowTaken_budget, takeMsg_plc]
      · rw [post_harts, rowTaken_harts, takeMsg_harts]
      · rw [post_mem, rowTaken_mem hform]
        exact (takeMsg_memory s src tag 0xC).memWrite_mem _ _
      · rw [post_plc]
        exact rowTaken_got a rec_
  case marks =>
    intro hwin hstage htick
    exact ⟨_, rowStreamAck_marks hwin hstage htick, takeMsg_mem .., takeMsg_csr .., takeMsg_harts .., by simp [plcMap, ackedRows]⟩

end Sys2Proof.Machine
end

section
/-! SUPPORT. The commit arbiter's grant of a final record, and a record whose unit of memory reads uncorrectable (10 R398, R399; 12 R453-R455). -/

namespace Sys2Proof.Machine

variable {s : State} {id : Nat} {x : Task}

/-! ### Writes that wait for the rest of their unit (12 R453-R455) -/

/-- The bytes of a unit that a write-combining entry and a write of a part make up together. -/
def gatheredMask (s : State) (a n : Nat) : Nat :=
  Nat.lor (((wcbOf s (chanOf s a).1 ((chanOf s a).2 / 64)).map (·.mask)).getD 0) (maskOf ((chanOf s a).2 % 64) n)

/-- A write to a part of an uncorrectable unit leaves memory as it was until the unit is written whole. -/
theorem writePart_waits_mem {a : Nat} {l : List Byte} (hbad : unitBad s a 1 = true) (hpart : gatheredMask s a l.length ≠ fullMask) :
    (writePart s a l).mem = s.mem := by
  have hpart' : ¬(gatheredMask s a l.length == fullMask) = true := by simpa using hpart
  refine (congrArg State.mem (if_neg (by simp [hbad]))).trans ((congrArg State.mem (if_neg hpart')).trans ?_)
  exact (combine_side _ _ _ _ _).mem_eq

/-- An accepted write that lies in such a unit waits likewise. -/
theorem memWrite_waits_mem {a : Nat} {l : List Byte} (hs : space a = .hbm) (hin : a % 64 + l.length ≤ 64) (hbad : unitBad s a 1 = true)
    (hpart : gatheredMask s a l.length ≠ fullMask) : (memWrite s a l).mem = s.mem := by
  unfold memWrite
  rw [hs]
  refine (pages_side (.refl _) l.isEmpty _).2.trans ?_
  cases l with
  | nil => rfl
  | cons b r =>
    rw [unitParts_one _ _ _ (by simp) hin, List.foldl_cons, List.foldl_nil, Nat.sub_self, List.drop_zero, List.take_length]
    exact writePart_waits_mem hbad hpart

/-! ### The grant of a final record (10 R398, R399) -/

/-- A request has left the arbiter. -/
def arbTaken (s : State) (r : ArbReq) : State := { s with sch := { s.sch with arb := s.sch.arb.erase r } }

theorem arbTaken_memory (s : State) (r : ArbReq) : SameMemory s (arbTaken s r) := ⟨rfl, rfl, rfl, rfl⟩

/-- The grant of an outcome that is not re-run finishes its task. -/
theorem commitArbiterGrant_finishes {die : Nat} (hfind : s.sch.arb.find? (arbDie s die) = some (.final id)) (hx : taskGet s id = some x)
    (hst : x.state = .ended) (hno : willRerun s x = false) :
    exec (.commitArbiterGrant die) s = .next (finishTask (arbTaken s (.final id)) id x x.status x.cause x.result) := by
  have hx' : taskGet (arbTaken s (.final id)) id = some x := hx
  have hno' : willRerun (arbTaken s (.final id)) x = false := hno
  have hgrant : grantFinal (arbTaken s (.final id)) id = finishTask (arbTaken s (.final id)) id x x.status x.cause x.result := by
    unfold grantFinal
    rw [hx']
    exact (if_neg (not_not.2 hst)).trans (if_neg (by rw [hno']; exact Bool.false_ne_true))
  rw [exec_commitArbiterGrant, execCommitArbiterGrant, hfind, ← hgrant]
  rfl

/-- A finished task with an address for its record leaves in memory what the write of the record leaves. -/
theorem finishTask_mem (ha : x.desc.compAddr ≠ 0) (status cause result : Nat) :
    (finishTask s id x status cause result).mem = (memWrite s x.desc.compAddr (finalRecord id x status cause result)).mem := by
  unfold finishTask
  rw [if_neg ha]

/-! ### A record to an uncorrectable unit -/

/-- A task whose attempt has ended OK, and whose record goes to the second unit of HBM, the second of channel 0. -/
def recordedTask : Task := { newTask { readDesc (List.replicate 128 0) with compAddr := 0x40 } 0 with state := .ended }

theorem recordedTask_addr : recordedTask.desc.compAddr = 0x40 := rfl

/-- A device at reset but for that task at its arbiter, with that unit uncorrectable. -/
def badRecordUnit : State :=
  { chanPut State.reset 0 { chanReset with bad := [1] } with sch := { State.reset.sch with tasks := [(7, recordedTask)], arb := [.final 7] } }

theorem badRecordUnit_canonical : Canonical badRecordUnit := sch_canonical (kept_chanPut (kept_self canonical_reset)).canon _

/-- The task's outcome is the arbiter's first, and is not re-run. -/
theorem badRecordUnit_grants : badRecordUnit.sch.arb.find? (arbDie badRecordUnit 0) = some (.final 7) ∧
    taskGet badRecordUnit 7 = some recordedTask ∧ willRerun badRecordUnit recordedTask = false := by decide +kernel

/-- The record is half of a unit that reads uncorrectable and for whose other half nothing waits. -/
theorem badRecordUnit_waits : unitBad badRecordUnit 0x40 1 = true ∧ gatheredMask badRecordUnit 0x40 32 ≠ fullMask := by decide +kernel

/-- The record of that task. -/
def waitingRecord : List Byte := finalRecord 7 recordedTask recordedTask.status recordedTask.cause recordedTask.result

theorem waitingRecord_length : waitingRecord.length = 32 := by decide +kernel

/-- The record names its task, so that its bytes would not leave memory as it was. -/
theorem badRecordUnit_changed : (putBytes badRecordUnit 0x40 waitingRecord).mem ≠ badRecordUnit.mem := by decide +kernel

/-- The write of the record leaves memory as it was. -/
theorem badRecordUnit_unchanged : (memWrite badRecordUnit 0x40 waitingRecord).mem = badRecordUnit.mem := by
  obtain ⟨hbad, hpart⟩ := badRecordUnit_waits
  exact memWrite_waits_mem (by decide) (by rw [waitingRecord_length]; decide) hbad (by rwa [waitingRecord_length])

/-- Refutes O21: a final record that goes to an uncorrectable unit of HBM is half a unit, and waits in the write-combining buffer for the other half
(12 R455), where the statement has its bytes in memory at the grant. -/
theorem not_commitPoint : ¬ Obligations.CommitPoint := by
  unfold Obligations.CommitPoint
  intro h
  obtain ⟨hfind, hx, hno⟩ := badRecordUnit_grants
  obtain ⟨hclause, -⟩ := h badRecordUnit 0 0 7 recordedTask badRecordUnit_canonical
  obtain ⟨t, ht, -, -, hfinal⟩ := hclause hfind hx rfl
  obtain ⟨-, hstated, -⟩ := hfinal hno
  obtain rfl : t = _ := Host.Outcome.next.inj (ht.symm.trans (commitArbiterGrant_finishes hfind hx rfl hno))
  have haddr : recordedTask.desc.compAddr ≠ 0 := by decide
  rw [finishTask_mem haddr, if_neg haddr, recordedTask_addr, (arbTaken_memory _ _).memWrite_mem] at hstated
  exact badRecordUnit_changed (hstated.symm.trans badRecordUnit_unchanged)

end Sys2Proof.Machine
end

section
/-! SUPPORT. How delayed entries, released descriptors and remote submissions enter ready lists (10 R386-R391; 13 R503). -/

namespace Sys2Proof.Machine

variable {s t u : State} {id : Nat} {x y : Task} {l : Nat} {gated inner : Bool} {d : TaskDesc} {req : Nat} {b : List Byte} {r : Release}

/-! ### A task in a ready list (10 R392) -/

/-- State t holds a task with descriptor d that entered the ready list of core l in state s, and memory is as it was in s. -/
structure Lists (s t : State) (id : Nat) (d : TaskDesc) (req l : Nat) (gated : Bool) (y : Task) : Prop where
  get : taskGet t id = some y
  state : y.state = .ready
  lcore : y.lcore = l
  stamp : y.stamp = s.now
  desc : y.desc = d
  req : y.req = req
  gated : y.gated = gated
  mem : t.mem = s.mem

namespace Lists

/-- What lies outside the scheduler and memory does not matter for it. -/
theorem after (h : Lists s t id d req l gated y) (hsch : taskGet u id = taskGet t id) (hmem : u.mem = t.mem) : Lists s u id d req l gated y :=
  { h with get := hsch.trans h.get, mem := hmem.trans h.mem }

/-- Nor does what came before, at the same time and with the same memory. -/
theorem before (h : Lists s t id d req l gated y) (hnow : s.now = u.now) (hmem : s.mem = u.mem) : Lists u t id d req l gated y :=
  { h with stamp := h.stamp.trans hnow, mem := h.mem.trans hmem }

end Lists

@[simp] theorem prefLost_mem (s : State) (lost : Bool) : (prefLost s lost).mem = s.mem := by cases lost <;> simp [prefLost, bump1]
@[simp] theorem prefLost_now (s : State) (lost : Bool) : (prefLost s lost).now = s.now := by cases lost <;> simp [prefLost, bump1]

/-- A task enters the ready list of its target, as from every source; a PREF_CORE that no core holds is counted (10 R387). -/
def enterTarget (s : State) (id : Nat) (x : Task) (q : Nat × Bool) (gated : Bool) : State :=
  enterList (prefLost s q.2) id { x with preferLost := q.2 } q.1 gated

/-- It is listed there. -/
theorem enterTarget_lists (s : State) (id : Nat) (x : Task) (q : Nat × Bool) (gated : Bool) :
    ∃ y, Lists s (enterTarget s id x q gated) id x.desc x.req q.1 gated y := by
  obtain ⟨hget, hmem, -⟩ := enterList_spec (prefLost s q.2) id { x with preferLost := q.2 } q.1 gated
  exact ⟨_, hget, rfl, rfl, prefLost_now s q.2, rfl, rfl, rfl, hmem.trans (prefLost_mem s q.2)⟩

/-! ### Delayed entries (10 R387, R390, R391) -/

/-- Device time does not go back (02 R46). -/
theorem advance_past {n : Nat} (h : n ≤ s.now) : advance s n = s := if_pos (.inl h)

/-- A delayed entry whose ready list has room is listed at the core that is its target now. -/
theorem moveDelayed_lists (hl : listLen s (target s x.desc id none false).1 x.desc.prio < 1024) :
    ∃ y, Lists s (moveDelayed s id x) id x.desc x.req (target s x.desc id none false).1 false y := by
  generalize hq : target s x.desc id none false = q at hl
  obtain ⟨y, hy⟩ := enterTarget_lists s id x q false
  have hmove : moveDelayed s id x = taskPut (enterTarget s id x q false) id
      { y with waitFrom := max x.stamp (tickAt (enterTarget s id x q false) (startTick (enterTarget s id x q false) x)) } := by
    unfold moveDelayed
    rw [hq]
    refine (if_neg (Nat.not_le.2 hl)).trans ?_
    dsimp only
    rw [← enterTarget, hy.get]
  rw [hmove]
  exact ⟨_, { hy with get := taskGet_taskPut_self _ _ }⟩

/-- An entry that may leave the delay list is on it, and its due instant has come. -/
theorem dueNow_past (h : dueNow s x = true) : x.state = .delayed ∧ dueAt s x.dueTick x.desc.dueOff ≤ s.now := by
  unfold dueNow at h
  obtain ⟨hcome, -⟩ := Bool.and_eq_true_iff.1 h
  simpa using hcome

/-- An entry that is due, and comes first, moves at its due instant and as room frees alike. -/
theorem delayEntry_moves (hx : taskGet s id = some x) (hdue : dueNow s x = true) (hfirst : firstDue s id x = true) (hstart : mayStart s = true) :
    exec (.delayEntryDue id) s = .next (moveDelayed s id x) ∧ exec (.delayEntryRoom id) s = .next (moveDelayed s id x) := by
  have hgate : (mayStart s && dueNow s x && firstDue s id x) = true := by simp [hstart, hdue, hfirst]
  obtain ⟨hst, hpast⟩ := dueNow_past hdue
  constructor
  · rw [exec_delayEntryDue, execDelayEntryDue, hx]
    refine (if_neg (not_not.2 hst)).trans ?_
    rw [advance_past hpast]
    exact congrArg _ (if_pos hgate)
  · rw [exec_delayEntryRoom, execDelayEntryRoom, hx]
    exact congrArg _ (if_pos hgate)

/-! ### Descriptors are judged by few registers (10 R384) -/

/-- Which pages are protected rests on where local windows and the keeper store lie, and on five units. -/
theorem pageProtected_congr (hoff : ∀ n, localOff t n = localOff s n) (hkeep : keepStore t = keepStore s) (hemb : t.emb = s.emb)
    (hpci : t.pci = s.pci) (hplc : t.plc = s.plc) (hupd : t.upd = s.upd) (hboot : t.boot = s.boot) (n : Nat) :
    pageProtected t n = pageProtected s n := by
  unfold pageProtected
  extract_lets a
  rw [hoff, hkeep, hemb, hpci, hplc, hupd, hboot]

/-- The check of a descriptor reads no register but the configuration of ticks and of memory. -/
theorem badDesc_event {a k : Nat} (ht : regTsqCfg ≠ a) (hm : regMemCfg ≠ a) : badDesc (event s a k) b inner = badDesc s b inner := by
  have hperiod : period (event s a k) = period s := by simp only [period, fget, event, rget_rset_ne _ ht]
  have hlocal : localBytes (event s a k) = localBytes s := by simp only [localBytes, fget, event, rget_rset_ne _ hm]
  have hinter : interleaved (event s a k) = interleaved s := by rw [interleaved, hlocal, interleaved]
  have hreach (n : Nat) : reachable (event s a k) n = reachable s n := by
    unfold reachable inSpare
    rw [hlocal, hinter]
  have hoff (n : Nat) : localOff (event s a k) n = localOff s n := by
    unfold localOff
    rw [hlocal, hinter]
  have hkeep : keepStore (event s a k) = keepStore s := by
    unfold keepStore
    rw [hinter]
  have hprot (n : Nat) : pageProtected (event s a k) n = pageProtected s n := pageProtected_congr hoff hkeep rfl rfl rfl rfl rfl n
  have hcomp (n : Nat) : compOk (event s a k) n = compOk s n := by
    unfold compOk
    rw [hreach, hprot]
  have hcode (n : Nat) : inCode (event s a k) n = inCode s n := rfl
  unfold badDesc
  extract_lets d
  rw [hcode, hperiod, hcomp]

/-! ### Released descriptors (10 R389) -/

/-- The target of a released descriptor. -/
def releaseTarget (s : State) (r : Release) : Nat × Bool :=
  target s (readDesc (readBytes s r.addr 128)) (rget s regSchTaskId) r.core false

/-- Entries of the list that a released descriptor would join. -/
def releaseDepth (s : State) (r : Release) : Nat := listLen s (releaseTarget s r).1 (readDesc (readBytes s r.addr 128)).prio

/-- A released descriptor whose list is full stays, and a source is noted to wait. -/
theorem enterRelease_full (hb : badDesc s (readBytes s r.addr 128) false = false) (hl : 1024 ≤ releaseDepth s r) :
    enterRelease s r gated = (false, event s regSchEvents 0) :=
  (if_neg (by rw [hb]; exact Bool.false_ne_true)).trans (if_pos hl)

/-- One whose list has room is listed at its target under the next task id. -/
theorem enterRelease_lists (hb : badDesc s (readBytes s r.addr 128) false = false) (hl : releaseDepth s r < 1024) :
    ∃ t y, enterRelease s r gated = (true, t) ∧
      Lists s t (rget s regSchTaskId) (readDesc (readBytes s r.addr 128)) r.req (releaseTarget s r).1 gated y := by
  obtain ⟨y, hy⟩ := enterTarget_lists (if gated then acceptTask s else bump1 (acceptTask s) regSchLateRelease) (rget s regSchTaskId)
    { newTask (readDesc (readBytes s r.addr 128)) r.req with item := r.item } (releaseTarget s r) gated
  refine ⟨_, y, (if_neg (by rw [hb]; exact Bool.false_ne_true)).trans (if_neg (Nat.not_le.2 hl)), hy.before ?_ ?_⟩
  · cases gated <;> simp [bump1]
  · cases gated <;> simp [bump1]

theorem enterLate_entered {rest : List Release} (h : enterRelease s r false = (true, t)) : enterLate (r :: rest) s = (rest, t) := by
  rw [enterLate, h]
  rfl

theorem enterLate_passed {rest : List Release} (h : enterRelease s r false = (false, t)) :
    enterLate (r :: rest) s = (r :: (enterLate rest t).1, (enterLate rest t).2) := by
  rw [enterLate, h]
  rfl

/-- That a source waits changes nothing that decides on a released descriptor. -/
theorem release_event (q : Release) : badDesc (event s regSchEvents 0) (readBytes (event s regSchEvents 0) q.addr 128) false =
      badDesc s (readBytes s q.addr 128) false ∧ rget (event s regSchEvents 0) regSchTaskId = rget s regSchTaskId ∧
    releaseTarget (event s regSchEvents 0) q = releaseTarget s q ∧ releaseDepth (event s regSchEvents 0) q = releaseDepth s q := by
  have hread : readBytes (event s regSchEvents 0) q.addr 128 = readBytes s q.addr 128 := readBytes_congr rfl _ _
  have hid : rget (event s regSchEvents 0) regSchTaskId = rget s regSchTaskId := rget_rset_ne _ (by decide)
  have htarget : releaseTarget (event s regSchEvents 0) q = releaseTarget s q := by
    rw [releaseTarget, hread, hid]
    rfl
  refine ⟨by rw [hread, badDesc_event (by decide) (by decide)], hid, htarget, ?_⟩
  rw [releaseDepth, htarget, hread]
  rfl

/-- The first of the late releases that can enter leaves the others in their order. -/
theorem releaseLateEntry_enters {left : List Release} (hstart : mayStart s = true) (h : enterLate s.sch.releases s = (left, t)) :
    exec .releaseLateEntry s = .next (keepReleases (left, t)) := by
  rw [exec_releaseLateEntry, execReleaseLateEntry, if_pos hstart, h]

/-! ### Remote submissions (10 R386; 13 R503) -/

/-- A task that is due now and whose list has room is listed at its target under the next task id. -/
theorem submit_lists (hb : badDesc s b inner = false) (hd : ¬DueLater s (readDesc b))
    (hl : listLen s (targetNow s (readDesc b)).1 (readDesc b).prio < 1024) : ∃ t y, submit s b req inner = (0, t) ∧
      Lists s t (rget s regSchTaskId) (readDesc b) req (targetNow s (readDesc b)).1 false y := by
  obtain ⟨y, hy⟩ := enterTarget_lists (acceptTask s) (rget s regSchTaskId) (newTask (readDesc b) req) (targetNow s (readDesc b)) false
  exact ⟨_, y, (if_neg (by rw [hb]; exact Bool.false_ne_true)).trans ((if_neg hd).trans (if_neg (Nat.not_le.2 hl))),
    hy.before (acceptTask_now s) (acceptTask_mem s)⟩

/-- A TASK message whose task is accepted is taken. -/
theorem taskMessageRx_accepted {src tag : Nat} {body : List Byte} (hon : s.boot.pwrgood = true)
    (hsub : submit s (body.take 128) (fld body 128 8) true = (0, t)) : exec (.taskMessageRx src tag body) s = .next (takeMsg t src tag 0x0B) := by
  rw [exec_taskMessageRx, execTaskMessageRx, powered_on hon, hsub]
  rfl

/-- Settles O22: an entry that is due moves, a release enters past one whose list is full, and a message's task is submitted, each by its rule above. -/
theorem delayedAndReleased : Obligations.DelayedAndReleased := by
  unfold Obligations.DelayedAndReleased
  intro s id x src tag body _ l
  refine ⟨fun hx hdue hfirst hstart hl => ?delayed, fun r rest hstart hrel hb hl => ?late,
    fun r q rest hstart hrel hbr hfull hb hl => ?passing, fun hon hb hticks hoff hl => ?message⟩
  case delayed =>
    obtain ⟨hexec, hroom⟩ := delayEntry_moves hx hdue hfirst hstart
    obtain ⟨y, hy⟩ := moveDelayed_lists hl
    exact ⟨⟨_, y, hexec, hy.get, hy.state, hy.lcore, hy.stamp, hy.desc, hy.mem⟩, _, y, hroom, hy.get, hy.state, hy.lcore, hy.stamp, hy.desc, hy.mem⟩
  case late =>
    obtain ⟨t, y, henter, hy⟩ := enterRelease_lists (gated := false) hb hl
    have hexec := releaseLateEntry_enters hstart ((congrArg (enterLate · s) hrel).trans (enterLate_entered henter))
    exact ⟨_, y, hexec, rfl, hy.get, hy.state, hy.lcore, hy.req, hy.desc, hy.gated, hy.mem⟩
  case passing =>
    obtain ⟨hbad, hid, -, hdepth⟩ := release_event (s := s) q
    obtain ⟨t, y, henter, hy⟩ := enterRelease_lists (gated := false) (hbad.trans hb) (lt_of_eq_of_lt hdepth hl)
    rw [hid] at hy
    have hlate : enterLate (r :: q :: rest) s = (r :: rest, t) := by
      rw [enterLate_passed (enterRelease_full hbr hfull), enterLate_entered henter]
    have hexec := releaseLateEntry_enters hstart ((congrArg (enterLate · s) hrel).trans hlate)
    exact ⟨_, y, hexec, rfl, hy.get, hy.state, hy.req, hy.desc.trans (congrArg readDesc (readBytes_congr rfl _ _)), hy.mem⟩
  case message =>
    have hdue : ¬DueLater s (readDesc (body.take 128)) := fun ⟨_, hlater⟩ => by omega
    obtain ⟨t, y, hsub, hy⟩ := submit_lists (req := fld body 128 8) hb hdue hl
    have htaken := hy.after (u := takeMsg t src tag 0x0B) (by rw [takeMsg_only]; rfl) (takeMsg_mem ..)
    exact ⟨_, y, taskMessageRx_accepted hon hsub, htaken.get, htaken.state, htaken.lcore, htaken.desc, htaken.req, htaken.mem⟩

end Sys2Proof.Machine
end

section
/-! SUPPORT. What each operation of the hitch root makes of a hitch, and what the notices of a release leave of the harts (11 R417-R428, R440, R758). -/

namespace Sys2Proof.Machine

variable {s t u : State} {h : Hart} {id slot y st : Nat} {x : Hitch} {w : Nat × Nat} {rd : Reg} {v : Word}

/-! ### Hitches and harts -/

/-- Hitches are read from the hitch root alone. -/
theorem hitchGet_congr (e : t.hit.hitches = s.hit.hitches) (j : Nat) : hitchGet t j = hitchGet s j := by rw [hitchGet, e, hitchGet]

theorem hitchGet_hitchPut_self (hc : Canonical s) (id : Nat) (x : Hitch) : hitchGet (hitchPut s id x) id = x := mget_mset_self hc.hitches id x

theorem hitchGet_hitchPut_ne {j : Nat} (x : Hitch) (hj : j ≠ id) : hitchGet (hitchPut s id x) j = hitchGet s j := mget_mset_ne x hj

theorem hitchPut_canonical (hc : Canonical s) (id : Nat) (x : Hitch) : Canonical (hitchPut s id x) := (kept_hitchPut (kept_self hc)).canon

theorem hartAt_congr (e : t.harts = s.harts) (n : Nat) : hartAt t n = hartAt s n := by rw [hartAt, e, hartAt]

theorem hart_congr (e : t.harts = s.harts) (k : Hart) : hart t k = hart s k := hartAt_congr e _

theorem bump1_canonical (hc : Canonical s) (a : Nat) : Canonical (bump1 s a) := (kept_bump1 (kept_self hc)).canon

theorem event_canonical (hc : Canonical s) (a b : Nat) : Canonical (event s a b) := (kept_event (kept_self hc)).canon

/-- Of every hart the hitch latch alone has changed. -/
def OnlyLatches (s t : State) : Prop := ∀ n, hartAt t n = { hartAt s n with hLatch := (hartAt t n).hLatch }

theorem OnlyLatches.of_harts (e : t.harts = s.harts) : OnlyLatches s t := fun n => by rw [hartAt_congr e]

theorem OnlyLatches.trans (h1 : OnlyLatches s t) (h2 : OnlyLatches t u) : OnlyLatches s u := fun n => by rw [h2 n, h1 n]

theorem OnlyLatches.hart (h1 : OnlyLatches s t) (k : Hart) : hart t k = { hart s k with hLatch := (hart t k).hLatch } := h1 _

/-- A hart's latch set. -/
theorem hartSet_latches (hc : Canonical s) (n : Nat) (l : Option HLatch) : OnlyLatches s (hartSet s n { hartAt s n with hLatch := l }) := fun m => by
  by_cases hm : m = n
  · rw [hm, hartAt_hartSet_self hc]
  · rw [hartAt_hartSet_ne _ hm]

/-! ### Notices of a release (11 R424, R440) -/

/-- Notices have reached waiters: the latches of harts and the tickets on their way back have changed, and nothing else. -/
structure Noticed (s t : State) : Prop where
  canon : Canonical t
  rest : t = { s with harts := t.harts, hit := { s.hit with withdrawals := t.hit.withdrawals } }
  latches : OnlyLatches s t

theorem Noticed.refl (hc : Canonical s) : Noticed s s := ⟨hc, rfl, .of_harts rfl⟩

theorem Noticed.trans (h1 : Noticed s t) (h2 : Noticed t u) : Noticed s u := by
  refine ⟨h2.canon, ?_, h1.latches.trans h2.latches⟩
  have e := h2.rest
  rw [h1.rest] at e
  exact e

theorem Noticed.foldl {α : Type} (hc : Canonical s) (l : List α) {f : State → α → State} (hf : ∀ s a, Canonical s → Noticed s (f s a)) :
    Noticed s (l.foldl f s) :=
  List.foldlRecOn l f (motive := Noticed s) (.refl hc) fun t ht a _ => ht.trans (hf t a ht.canon)

theorem Noticed.mem (n : Noticed s t) : t.mem = s.mem := by rw [n.rest]
theorem Noticed.csr (n : Noticed s t) : t.csr = s.csr := by rw [n.rest]
theorem Noticed.hitches (n : Noticed s t) : t.hit.hitches = s.hit.hitches := by rw [n.rest]
theorem Noticed.returned (n : Noticed s t) : t.hit.returned = s.hit.returned := by rw [n.rest]

/-- A hart's latch set is a notice. -/
theorem hartSet_noticed (hc : Canonical s) (n : Nat) (l : Option HLatch) : Noticed s (hartSet s n { hartAt s n with hLatch := l }) :=
  ⟨(kept_hartSet (kept_self hc)).canon, rfl, hartSet_latches hc n l⟩

/-- A ticket taken out of the queue reaches its waiter's latch, or its withdrawal on the way. -/
theorem markTicket_noticed (hc : Canonical s) (id : Nat) (w : Nat × Nat) (l : LatchState) : Noticed s (markTicket s id w l) := by
  obtain ⟨slot, tk⟩ := w
  unfold markTicket
  dsimp only
  split
  · exact ⟨(kept_mk (kept_self hc)).canon, rfl, .of_harts rfl⟩
  · split
    · split
      · exact hartSet_noticed hc _ _
      · exact .refl hc
    · exact .refl hc

theorem markTickets_noticed (hc : Canonical s) (q : List (Nat × Nat)) (id : Nat) (l : LatchState) :
    Noticed s (q.foldl (fun s w => markTicket s id w l) s) := .foldl hc q fun _ w hs => markTicket_noticed hs id w l

/-- A release kept by its waiter as its hitch is cleared is a notice (11 R428). -/
theorem keepRelease_noticed (hc : Canonical s) (id : Nat) : Noticed s (keepRelease s id) := by
  refine .foldl hc s.harts fun t e ht => ?_
  dsimp only
  split
  · split
    · exact hartSet_noticed ht _ _
    · exact .refl ht
  · exact .refl ht

/-! ### What a hitch becomes -/

/-- A hitch has become `x`: no other hitch, no byte of memory and no returned release has changed, and of the harts their latches alone. -/
structure Becomes (s t : State) (id : Nat) (x : Hitch) : Prop where
  canon : Canonical t
  self : hitchGet t id = x
  others : ∀ j, j ≠ id → hitchGet t j = hitchGet s j
  latches : OnlyLatches s t
  mem : t.mem = s.mem
  returned : t.hit.returned = s.hit.returned

theorem Becomes.refl (hc : Canonical s) (hx : hitchGet s id = x) : Becomes s s id x := ⟨hc, hx, fun _ _ => rfl, .of_harts rfl, rfl, rfl⟩

theorem Becomes.put (hc : Canonical s) (id : Nat) (x : Hitch) : Becomes s (hitchPut s id x) id x :=
  ⟨hitchPut_canonical hc id x, hitchGet_hitchPut_self hc id x, fun _ hj => hitchGet_hitchPut_ne x hj, .of_harts rfl, rfl, rfl⟩

theorem Becomes.notice (b : Becomes s t id x) (n : Noticed t u) : Becomes s u id x :=
  ⟨n.canon, (hitchGet_congr n.hitches id).trans b.self, fun j hj => (hitchGet_congr n.hitches j).trans (b.others j hj), b.latches.trans n.latches,
    n.mem.trans b.mem, n.returned.trans b.returned⟩

theorem Becomes.count (b : Becomes s t id x) (n : CountSide t u) (hu : Canonical u) : Becomes s u id x :=
  have hh : u.hit.hitches = t.hit.hitches := congrArg HitUnit.hitches n.hit
  ⟨hu, (hitchGet_congr hh id).trans b.self, fun j hj => (hitchGet_congr hh j).trans (b.others j hj), b.latches.trans (.of_harts n.harts),
    n.mem.trans b.mem, (congrArg HitUnit.returned n.hit).trans b.returned⟩

/-- Counting an operation leaves the harts alone. -/
theorem hitOp_harts (s : State) : (hitOp s).harts = s.harts := bump_harts _ _ _

/-- An applied operation is counted (11 R443). -/
theorem Becomes.hitOp (b : Becomes s t id x) : Becomes s (hitOp t) id x := b.count (bump_count _ _ _) (bump1_canonical b.canon _)

theorem hitOverflow_becomes (hc : Canonical s) (hx : hitchGet s id = x) : Becomes s (hitOverflow s) id x :=
  (Becomes.refl hc hx).count ((bump_count s _ _).trans rfl) (event_canonical (bump1_canonical hc _) _ _)

/-- A refusal with OVERFLOW raises its event (11 R426). -/
theorem hitOverflow_event (hc : Canonical s) : bit (rget (hitOverflow s) regHitEvents) 0 = true := bit_event_self (bump1_canonical hc _) (by decide)

/-! ### The operations (11 R422, R425, R426) -/

/-- An operation answers a status and makes a hitch `x`. -/
structure Answers (s : State) (p : Nat × State) (id st : Nat) (x : Hitch) : Prop where
  status : p.1 = st
  becomes : Becomes s p.2 id x

theorem opRelOne_waiter {r : List (Nat × Nat)} (hc : Canonical s) (hx : hitchGet s id = x) (hq : x.queue = w :: r) :
    Answers s (opRelOne s id) id 0 { x with queue := r } := by
  have e : opRelOne s id = (0, hitOp (markTicket (hitchPut s id { x with queue := r }) id w .relOne)) := by simp [opRelOne, hx, hq]
  rw [e]
  exact ⟨rfl, ((Becomes.put hc id _).notice (markTicket_noticed (hitchPut_canonical hc _ _) _ _ _)).hitOp⟩

theorem opRelOne_credit_eq (hx : hitchGet s id = x) (hq : x.queue = []) (hcr : x.credits < 65535) :
    opRelOne s id = (9, hitOp (hitchPut s id { x with credits := x.credits + 1 })) := by simp [opRelOne, hx, hq, Nat.not_le.2 hcr]

theorem opRelOne_credit (hc : Canonical s) (hx : hitchGet s id = x) (hq : x.queue = []) (hcr : x.credits < 65535) :
    Answers s (opRelOne s id) id 9 { x with credits := x.credits + 1 } := by
  rw [opRelOne_credit_eq hx hq hcr]
  exact ⟨rfl, (Becomes.put hc id _).hitOp⟩

theorem opRelOne_full_eq (hx : hitchGet s id = x) (hq : x.queue = []) (hcr : 65535 ≤ x.credits) : opRelOne s id = (3, hitOverflow s) := by
  simp [opRelOne, hx, hq, hcr]

theorem opRelAll_clears (hc : Canonical s) (hx : hitchGet s id = x) : Answers s (opRelAll s id) id 0 { x with queue := [] } := by
  rw [← hx]
  exact ⟨rfl, ((Becomes.put hc id _).notice (markTickets_noticed (hitchPut_canonical hc _ _) _ _ _)).hitOp⟩

/-- A signed 32-bit operand (00 R25). -/
theorem sint_toInt (y : Nat) : sint 32 y = (BitVec.ofNat 32 y).toInt := by
  rw [BitVec.toInt_eq_toNat_cond, BitVec.toNat_ofNat, sint]
  split <;> split <;> omega

theorem opAdd_sum {r : Nat} (hc : Canonical s) (hx : hitchGet s id = x) (hr : (r : Int) = x.count + (BitVec.ofNat 32 y).toInt) (hlt : r < 2 ^ 32) :
    Answers s (opAdd s id y) id 0 { x with count := r } := by
  have e : opAdd s id y = (0, hitOp (hitchPut s id { x with count := r })) := by
    unfold opAdd
    dsimp only
    rw [hx, sint_toInt, ← hr, if_neg (by omega), Int.toNat_natCast]
  rw [e]
  exact ⟨rfl, (Becomes.put hc id _).hitOp⟩

theorem opAdd_overflow_eq (hx : hitchGet s id = x)
    (hr : x.count + (BitVec.ofNat 32 y).toInt < 0 ∨ 2 ^ 32 ≤ x.count + (BitVec.ofNat 32 y).toInt) : opAdd s id y = (3, hitOverflow s) := by
  unfold opAdd
  rw [hx, sint_toInt]
  exact if_pos hr

theorem overflow_answers (hc : Canonical s) (hx : hitchGet s id = x) {p : Nat × State} (e : p = (3, hitOverflow s)) : Answers s p id 3 x := by
  rw [e]
  exact ⟨rfl, hitOverflow_becomes hc hx⟩

theorem opTest_answers (hc : Canonical s) (hx : hitchGet s id = x) : Answers s (opTest s id y) id (if y % 2 ^ 32 ≤ x.count then 0 else 2) x := by
  rw [← hx]
  exact ⟨rfl, (Becomes.refl hc rfl).hitOp⟩

/-- The arrival that completes the round (11 R422). -/
theorem opArrive_completes (hc : Canonical s) (hx : hitchGet s id = x) (hn : max 1 (y % 2 ^ 32) ≤ x.count + 1) :
    Answers s (opArrive s id slot y) id 1 { x with count := 0, sense := !x.sense, queue := [] } := by
  have e : opArrive s id slot y = (1, hitOp (x.queue.foldl (fun s w => markTicket s id w .relAll)
      (hitchPut s id { x with count := 0, sense := !x.sense, queue := [] }))) := by
    unfold opArrive
    rw [hx]
    exact if_pos hn
  rw [e]
  exact ⟨rfl, ((Becomes.put hc id _).notice (markTickets_noticed (hitchPut_canonical hc _ _) _ _ _)).hitOp⟩

/-- Another arrival is counted and takes a ticket (11 R422). -/
theorem opArrive_waits (hx : hitchGet s id = x) (hn : x.count + 1 < max 1 (y % 2 ^ 32)) :
    opArrive s id slot y = (0, hitOp (takeTicket (hitchPut s id { x with count := x.count + 1 }) id slot)) := by
  unfold opArrive
  rw [hx]
  exact if_neg (Nat.not_le.2 hn)

end Sys2Proof.Machine
end

section
/-! SUPPORT. The hitch instructions: operations on a hitch of this device, targets that are refused, and operations of another device (11 R418-R427, R758). -/

namespace Sys2Proof.Machine

variable {s t u : State} {c : Instr} {h : Hart} {g : Guard} {rd a b : Reg} {v : Word} {id st : Nat} {x : Hitch} {op : Nat} {ok : Nat → Bool}
  {act : State → Nat → Nat → Nat × State}

/-! ### Retiring and waiting -/

theorem retire_pc (hc : Canonical s) : (hart (retire s h rd v) h).pc = (hart s h).pc + 8 := by rw [retire_hart hc]

theorem retire_st (hc : Canonical s) : (hart (retire s h rd v) h).st = (hart s h).st := by rw [retire_hart hc]; exact setReg_st _

theorem retire_hLatch (hc : Canonical s) : (hart (retire s h rd v) h).hLatch = (hart s h).hLatch := by rw [retire_hart hc, setReg_rest]

theorem retire_kLatch (hc : Canonical s) : (hart (retire s h rd v) h).kLatch = (hart s h).kLatch := by rw [retire_hart hc, setReg_rest]

theorem reg_retire (hc : Canonical s) : reg (retire s h rd v) h rd = if rd.val = 0 then 0 else v := by
  have := setReg_get (hart s h) rd rd v
  rw [if_pos (Eq.refl rd)] at this
  rw [reg, retire_hart hc]
  exact this

theorem hart_enterWait (hc : Canonical s) (w : StrandState) (f : WaitFor) :
    hart (enterWait s h w f) h = { hart s h with st := w, wait := f, deadline := waitDeadline s } := hart_putHart_self hc _ _

/-! ### Result words (11 R420) -/

theorem wordFor_resultWord (hid : id < 65536) (hst : st < 256) : wordFor s id st = resultWord (hitchGet s id) st := by
  unfold wordFor hitchWord resultWord b2n
  rw [Nat.mod_eq_of_lt hid, Nat.mod_eq_of_lt hst]
  split <;> simp

theorem wordFor_status (hst : st < 256) (y : Nat) : (wordFor s y st).toNat % 256 = st := by
  unfold wordFor hitchWord
  rw [BitVec.toNat_ofNat]
  omega

/-! ### Targets (11 R418, R419) -/

/-- A target names a hitch of this device that its caller may use. -/
structure LocalTarget (h : Hart) (id : Nat) : Prop where
  pos : 0 < id
  lt : id < 65536
  strand : ∀ p n, h = .strand p n → 0x1000 ≤ id

theorem bit_reg (y : Word) (i : Nat) : bit y.toNat i = y.getLsbD i := by rw [bit_eq_testBit]; rfl

theorem badTarget_eq (y : Word) :
    badTarget y.toNat = true ↔ y.toNat / 2 ^ 27 ≠ 0 ∨ y.getLsbD 26 = false ∧ y.toNat / 2 ^ 16 % 2 ^ 10 ≠ 0 := by
  have hlt := y.isLt
  have hbits : bits y.toNat 63 27 = y.toNat / 2 ^ 27 := Nat.mod_eq_of_lt (by omega)
  have hdev : bits y.toNat 25 16 = y.toNat / 2 ^ 16 % 2 ^ 10 := rfl
  rw [badTarget, hbits, hdev, bit_reg, Bool.or_eq_true, Bool.and_eq_true, decide_eq_true_iff, decide_eq_true_iff, Bool.not_eq_true']

theorem mayUse_eq (y : Nat) : mayUse h y = true ↔ y % 65536 ≠ 0 ∧ ((∃ p n, h = .strand p n) → 0x1000 ≤ y % 65536) := by
  cases h <;> simp [mayUse]

@[simp] theorem targetDev_issued (s : State) (h : Hart) (y : Nat) : targetDev (issued s h) y = targetDev s y := by
  rw [targetDev, issued_boot, targetDev]

theorem targetDev_none (hrem : bit y 26 = false) : targetDev s y = none := if_neg (by simp [hrem])

theorem targetDev_other {y : Word} (hrem : y.getLsbD 26 = true) (hdev : y.toNat / 2 ^ 16 % 2 ^ 10 ≠ s.boot.dev) :
    targetDev s y.toNat = some (y.toNat / 2 ^ 16 % 2 ^ 10) := if_pos ⟨(bit_reg y 26).trans hrem, hdev⟩

theorem LocalTarget.good (l : LocalTarget h id) : badTarget id = false ∧ mayUse h id = true ∧ targetDev s id = none ∧ id % 65536 = id := by
  obtain ⟨hpos, hlt, hstrand⟩ := l
  have hmod : id % 65536 = id := Nat.mod_eq_of_lt hlt
  have hbit : bit id 26 = false := by rw [bit, Nat.div_eq_of_lt (by omega)]; rfl
  have hhigh : bits id 63 27 = 0 := by rw [bits, Nat.div_eq_of_lt (by omega), Nat.zero_mod]
  have hdev : bits id 25 16 = 0 := by rw [bits, Nat.div_eq_of_lt (by omega), Nat.zero_mod]
  refine ⟨?_, (mayUse_eq id).2 ⟨by omega, fun ⟨p, n, e⟩ => by have := hstrand p n e; omega⟩, targetDev_none hbit, hmod⟩
  simp [badTarget, hhigh, hdev]

/-! ### Operations on a hitch of this device -/

/-- An operation that has answered retires with its result word (11 R420). -/
theorem hitchDone_retire (hready : (hart s h).st = .ready) (hid : id < 65536) (hst : st < 256) (hb : Becomes (issued s h) u id x) :
    HitchDone (retire u h rd (wordFor u id st)) s h rd id x st := by
  have hhart := hb.latches.hart h
  rw [hart_issued] at hhart
  refine ⟨hb.self, ?_, ?_, ?_, hb.mem.trans (issued_mem s h), fun j hj => (hb.others j hj).trans (hitchGet_issued s h j)⟩
  · rw [reg_retire hb.canon, wordFor_resultWord hid hst, hb.self]
  · rw [retire_st hb.canon, hhart]
    exact hready
  · rw [retire_pc hb.canon, hhart]

/-- HADD, HTEST, HRELONE and HRELALL on a hitch of this device (11 R422). -/
theorem hitchOp_local (hf : exec c s = spelled c h s (hitchOpIns s h g op rd a b ok act)) (hr : Runs s c h g)
    (hl : LocalTarget h (reg s h a).toNat) (hok : ok (reg s h b).toNat = true)
    (hans : Answers (issued s h) (act (issued s h) (reg s h a).toNat (reg s h b).toNat) (reg s h a).toNat st x) (hst : st < 256) :
    ∃ t, exec c s = .next t ∧ HitchDone t s h rd (reg s h a).toNat x st ∧
      t.csr = (act (issued s h) (reg s h a).toNat (reg s h b).toNat).2.csr := by
  obtain ⟨hgood, huse, hdev, hmod⟩ := hl.good (s := issued s h)
  refine ⟨_, (exec_runs hf hr).trans ?_, hitchDone_retire hr.ready hl.lt hst hans.becomes, rfl⟩
  dsimp only
  rw [reg_issued, reg_issued, hgood, huse, hok, hdev, hmod, hans.status]
  rfl

/-- HRELONE on a hitch of this device. -/
theorem hrelone_local (hr : Runs s (.hrelone h g rd a b) h g) (hl : LocalTarget h (reg s h a).toNat) (hy : (reg s h b).toNat = 0)
    (hans : Answers (issued s h) (opRelOne (issued s h) (reg s h a).toNat) (reg s h a).toNat st x) (hst : st < 256) :
    ∃ t, exec (.hrelone h g rd a b) s = .next t ∧ HitchDone t s h rd (reg s h a).toNat x st ∧
      t.csr = (opRelOne (issued s h) (reg s h a).toNat).2.csr :=
  hitchOp_local (ok := (· == 0)) (act := fun s x _ => opRelOne s x) rfl hr hl (beq_iff_eq.2 hy) hans hst

/-- Settles O23: an operation on a local hitch answers with its result word, as the hitch root applies it. -/
theorem hitchOperations : Obligations.HitchOperations := by
  unfold Obligations.HitchOperations
  intro s h g rd a b hc id y x hpos hlt hstrand
  have hi := issued_canonical hc h
  have hx : hitchGet (issued s h) id = x := hitchGet_issued s h id
  have hl : LocalTarget h id := ⟨hpos, hlt, hstrand⟩
  refine ⟨fun r hsum hr32 hr => ?hadd, fun _ hout hr => ?haddOverflow, fun hr => ?htest, fun hy hq hcr hr => ?credit, fun hy hq hcr hr => ?full,
    fun w r hy hq hr => ?waiter, fun hy hr => ?hrelall⟩
  case hadd =>
    obtain ⟨t, hexec, hdone, -⟩ := hitchOp_local (act := opAdd) rfl hr hl rfl (opAdd_sum hi hx hsum hr32) (by decide)
    exact ⟨t, hexec, hdone⟩
  case haddOverflow =>
    have e : opAdd (issued s h) id y = (3, hitOverflow (issued s h)) := opAdd_overflow_eq hx hout
    obtain ⟨t, hexec, hdone, hcsr⟩ := hitchOp_local (act := opAdd) rfl hr hl rfl (overflow_answers hi hx e) (by decide)
    refine ⟨t, hexec, hdone, ?_⟩
    rw [rget, hcsr, e]
    exact hitOverflow_event hi
  case htest =>
    obtain ⟨t, hexec, hdone, -⟩ := hitchOp_local (act := opTest) rfl hr hl rfl (opTest_answers hi hx) (by split <;> decide)
    exact ⟨t, hexec, hdone⟩
  case credit =>
    obtain ⟨t, hexec, hdone, -⟩ := hrelone_local hr hl hy (opRelOne_credit hi hx hq hcr) (by decide)
    exact ⟨t, hexec, hdone⟩
  case full =>
    have e : opRelOne (issued s h) id = (3, hitOverflow (issued s h)) := opRelOne_full_eq hx hq hcr
    obtain ⟨t, hexec, hdone, hcsr⟩ := hrelone_local hr hl hy (overflow_answers hi hx e) (by decide)
    refine ⟨t, hexec, hdone, ?_⟩
    rw [rget, hcsr, e]
    exact hitOverflow_event hi
  case waiter =>
    obtain ⟨t, hexec, hdone, -⟩ := hrelone_local hr hl hy (opRelOne_waiter hi hx hq) (by decide)
    exact ⟨t, hexec, hdone⟩
  case hrelall =>
    obtain ⟨t, hexec, hdone, -⟩ := hitchOp_local (ok := (· == 0)) (act := fun s x _ => opRelAll s x) rfl hr hl (beq_iff_eq.2 hy)
      (opRelAll_clears hi hx) (by decide)
    exact ⟨t, hexec, hdone⟩

/-! ### Refused targets, and targets on another device (11 R418, R419, R427) -/

theorem hitchOp_refused (hf : exec c s = spelled c h s (hitchOpIns s h g op rd a b ok act)) (hr : Runs s c h g)
    (hbad : badTarget (reg s h a).toNat = true ∨ mayUse h (reg s h a).toNat = false ∨ ok (reg s h b).toNat = false) :
    exec c s = .next (refuse (issued s h) h rd (reg s h a).toNat) := by
  refine (exec_runs hf hr).trans ?_
  dsimp only
  rw [reg_issued, reg_issued]
  exact congrArg Host.Outcome.next (if_pos (by rcases hbad with e | e | e <;> simp [e]))

theorem harrive_refused (hr : Runs s (.harrive h g rd a b) h g)
    (hbad : badTarget (reg s h a).toNat = true ∨ mayUse h (reg s h a).toNat = false ∨ (targetDev s (reg s h a).toNat).isSome = true) :
    exec (.harrive h g rd a b) s = .next (refuse (issued s h) h rd (reg s h a).toNat) := by
  refine (exec_runs rfl hr).trans ?_
  dsimp only
  rw [reg_issued, targetDev_issued]
  exact congrArg Host.Outcome.next (if_pos (by rcases hbad with e | e | e <;> simp [e]))

theorem hwait_refused (hr : Runs s (.hwait h g rd a b) h g)
    (hbad : badTarget (reg s h a).toNat = true ∨ mayUse h (reg s h a).toNat = false ∨ (targetDev s (reg s h a).toNat).isSome = true ∨
      1 < (reg s h b).toNat) :
    exec (.hwait h g rd a b) s = .next (refuse (issued s h) h rd (reg s h a).toNat) := by
  refine (exec_runs rfl hr).trans ?_
  dsimp only
  rw [reg_issued, reg_issued, targetDev_issued]
  exact congrArg Host.Outcome.next (if_pos (by rcases hbad with e | e | e | e <;> simp [e]))

/-- A refusal is counted and answered, and changes nothing else (11 R419, R444). -/
theorem refuse_spec (hc : Canonical s) (y : Nat) : let t := refuse (issued s h) h rd y
    t.hit = s.hit ∧ t.mem = s.mem ∧ (hart t h).pc = (hart s h).pc + 8 ∧ (rd.val ≠ 0 → (reg t h rd).toNat % 256 = 4) := by
  have hb : Canonical (bump1 (issued s h) regHitRefused) := bump1_canonical (issued_canonical hc h) _
  have hn : CountSide (issued s h) (bump1 (issued s h) regHitRefused) := bump_count _ _ _
  refine ⟨hn.hit.trans (issued_hit s h), hn.mem.trans (issued_mem s h), ?_, fun h0 => ?_⟩
  · rw [refuse, retire_pc hb, hart_congr hn.harts, hart_issued]
  · rw [refuse, reg_retire hb, if_neg h0]
    exact wordFor_status (by decide) _

theorem hitchOp_remote (hf : exec c s = spelled c h s (hitchOpIns s h g op rd a b ok act)) (hr : Runs s c h g) {d : Nat}
    (hgood : badTarget (reg s h a).toNat = false) (huse : mayUse h (reg s h a).toNat = true) (hok : ok (reg s h b).toNat = true)
    (hd : targetDev s (reg s h a).toNat = some d) :
    exec c s = .next (remoteOp (issued s h) h op d (reg s h a).toNat (reg s h b).toNat rd) := by
  refine (exec_runs hf hr).trans ?_
  dsimp only
  rw [reg_issued, reg_issued, hgood, huse, hok, targetDev_issued, hd]
  rfl

/-- An operation sent to another device leaves this one's hitches alone, and its caller waits for the answer (11 R427). -/
theorem remoteOp_waits (hc : Canonical s) (d y z : Nat) : let t := remoteOp (issued s h) h op d y z rd
    t.hit = s.hit ∧ (hart t h).st = .wait ∧ (∃ tag, (hart t h).wait = .remote tag rd) ∧ (hart t h).pc = (hart s h).pc := by
  have hi := issued_canonical hc h
  obtain ⟨u, tag, hu, hn, e⟩ : ∃ u tag, Canonical u ∧ CountSide (issued s h) u ∧
      remoteOp (issued s h) h op d y z rd = enterWait u h .wait (.remote tag rd) := by
    refine ⟨_, _, ?_, ?_, rfl⟩
    · exact (kept_mk (kept_post (kept_self hi))).canon
    · exact (post_count (issued s h) 0x04 d (hitchOpBytes h op (y % 65536) z)).trans rfl
  rw [e]
  dsimp only
  rw [hart_enterWait hu, hart_congr hn.harts, hart_issued]
  exact ⟨hn.hit.trans (issued_hit s h), rfl, ⟨tag, rfl⟩, rfl⟩

/-- Settles O25: each refused target or operand is answered REFUSED, and one on another device sends the operation there. -/
theorem hitchTargets : Obligations.HitchTargets := by
  unfold Obligations.HitchTargets
  intro s h g rd a b c hc y hmem
  simp only [List.mem_cons, List.not_mem_nil, or_false] at hmem
  refine ⟨fun hbad hr => ?refused, fun hhigh hrem hdev hid hstrand => ⟨fun hcc hr => ?refusedRemote, fun hcc hr => ?sent⟩⟩
  case refused =>
    suffices e : exec c s = .next (refuse (issued s h) h rd y.toNat) from ⟨_, e, refuse_spec hc _⟩
    have hbad : (badTarget y.toNat = true ∨ mayUse h y.toNat = false) ∨
        ((c = .hrelone h g rd a b ∨ c = .hrelall h g rd a b) ∧ reg s h b ≠ 0) ∨ (c = .hwait h g rd a b ∧ 1 < (reg s h b).toNat) := by
      rcases hbad with e | e | e | ⟨e, e'⟩ | e
      · exact .inl (.inl ((badTarget_eq y).2 (.inl e)))
      · exact .inl (.inl ((badTarget_eq y).2 (.inr e)))
      · exact .inl (.inr (Bool.eq_false_iff.2 fun m => ((mayUse_eq _).1 m).1 e))
      · exact .inl (.inr (Bool.eq_false_iff.2 fun m => absurd (((mayUse_eq _).1 m).2 e) (Nat.not_le.2 e')))
      · exact .inr e
    have hzero : reg s h b ≠ 0 → ((reg s h b).toNat == 0) = false := fun h0 => beq_eq_false_iff_ne.2 fun e => h0 (BitVec.eq_of_toNat_eq e)
    rcases hmem with rfl | rfl | rfl | rfl | rfl | rfl
    · exact hitchOp_refused rfl hr (hbad.elim (·.imp_right .inl) (by simp))
    · exact hitchOp_refused rfl hr (hbad.elim (·.imp_right .inl) (by simp))
    · exact hitchOp_refused rfl hr (hbad.elim (·.imp_right .inl) fun k => .inr (.inr (hzero (by simpa using k))))
    · exact hitchOp_refused rfl hr (hbad.elim (·.imp_right .inl) fun k => .inr (.inr (hzero (by simpa using k))))
    · exact harrive_refused hr (hbad.elim (·.imp_right .inl) (by simp))
    · exact hwait_refused hr (hbad.elim (·.imp_right .inl) fun k => .inr (.inr (.inr (by simpa using k))))
  case refusedRemote =>
    have hsome : (targetDev s y.toNat).isSome = true := by rw [targetDev_other hrem hdev]; rfl
    suffices e : exec c s = .next (refuse (issued s h) h rd y.toNat) by
      obtain ⟨hhit, -, hpc, hst⟩ := refuse_spec (rd := rd) hc y.toNat
      exact ⟨_, e, hhit, hpc, hst⟩
    rcases hcc with rfl | rfl
    · exact harrive_refused hr (.inr (.inr hsome))
    · exact hwait_refused hr (.inr (.inr (.inl hsome)))
  case sent =>
    have hgood : badTarget y.toNat = false := Bool.eq_false_iff.2 fun e => ((badTarget_eq y).1 e).elim (· hhigh) fun k =>
      absurd (hrem.symm.trans k.1) (by decide)
    have huse : mayUse h y.toNat = true := (mayUse_eq _).2 ⟨hid, hstrand⟩
    have hd := targetDev_other hrem hdev
    suffices e : ∃ op, exec c s = .next (remoteOp (issued s h) h op (y.toNat / 2 ^ 16 % 2 ^ 10) y.toNat (reg s h b).toNat rd) by
      obtain ⟨op, e⟩ := e
      obtain ⟨hhit, hst, ⟨tag, hw⟩, hpc⟩ :=
        remoteOp_waits (op := op) (rd := rd) hc (y.toNat / 2 ^ 16 % 2 ^ 10) y.toNat (reg s h b).toNat
      exact ⟨_, tag, e, hhit, hst, hw, hpc⟩
    rcases hcc with rfl | rfl | ⟨rfl | rfl, h0⟩
    · exact ⟨4, hitchOp_remote rfl hr hgood huse rfl hd⟩
    · exact ⟨5, hitchOp_remote rfl hr hgood huse rfl hd⟩
    · exact ⟨2, hitchOp_remote rfl hr hgood huse (by rw [h0]; rfl) hd⟩
    · exact ⟨3, hitchOp_remote rfl hr hgood huse (by rw [h0]; rfl) hd⟩

end Sys2Proof.Machine
end

section
/-! SUPPORT. Arriving at a hitch and waiting on it: who takes a ticket, and what becomes of an earlier one (11 R422, R424, R425, R758). -/

namespace Sys2Proof.Machine

variable {s t u : State} {h : Hart} {g : Guard} {rd a b : Reg} {id slot y st : Nat} {x z : Hitch} {l : HLatch}

/-! ### Tickets given up (11 R424, R758) -/

theorem Becomes.trans (b1 : Becomes s t id x) (b2 : Becomes t u id z) : Becomes s u id z :=
  ⟨b2.canon, b2.self, fun j hj => (b2.others j hj).trans (b1.others j hj), b1.latches.trans b2.latches, b2.mem.trans b1.mem,
    b2.returned.trans b1.returned⟩

/-- A queued ticket that comes back is removed. -/
theorem withdraw_queued {w : Withdrawal} (hst : w.st = .queued) : withdraw s w =
    bump1 (hitchPut s w.hitch { hitchGet s w.hitch with queue := (hitchGet s w.hitch).queue.filter fun e => e.2 ≠ w.ticket }) regHitAbandoned :=
  if_pos hst

/-- A released one returns its release. -/
theorem withdraw_relOne {w : Withdrawal} (hst : w.st = .relOne) : withdraw s w =
    { event (bump1 s regHitReturned) regHitEvents 3 with hit := { s.hit with returned := s.hit.returned ++ [w.hitch] } } := by
  simp [withdraw, hst, bump1]

/-- One of a release of all, or of a clear, is counted alone. -/
theorem withdraw_other {w : Withdrawal} (hq : w.st ≠ .queued) (hone : w.st ≠ .relOne) :
    withdraw s w = event (bump1 s regHitReturned) regHitEvents 3 := (if_neg hq).trans (if_neg hone)

/-- The hitch root takes a ticket back without a hart. -/
theorem withdraw_harts (s : State) (w : Withdrawal) : (withdraw s w).harts = s.harts ∧ (withdraw s w).mem = s.mem := by
  by_cases hq : w.st = .queued
  · rw [withdraw_queued hq]
    exact ⟨bump_harts .., bump_mem ..⟩
  · by_cases hone : w.st = .relOne
    · rw [withdraw_relOne hone]
      exact ⟨bump_harts .., bump_mem ..⟩
    · rw [withdraw_other hq hone]
      exact ⟨bump_harts .., bump_mem ..⟩

theorem ticketOwed_owing {k : HartSt} (hl : k.hLatch = some l) (ho : l.st = .queued ∨ l.st = .relOne) :
    ticketOwed slot k = some ⟨l.hitch, l.ticket, slot, l.st⟩ := by
  rcases ho with ho | ho <;> simp [ticketOwed, hl, ho]

theorem ticketOwed_st {k : HartSt} {w : Withdrawal} (hw : ticketOwed slot k = some w) : ∃ l, k.hLatch = some l ∧ w.st = l.st := by
  unfold ticketOwed at hw
  split at hw
  · rename_i l hl
    split at hw
    · exact ⟨l, hl, (congrArg Withdrawal.st (Option.some.inj hw)).symm⟩
    · cases hw
  · cases hw

/-- A caller that holds neither a queued ticket nor a release of its own. -/
def Unladen (k : HartSt) : Prop := ∀ l, k.hLatch = some l → l.st ≠ .queued ∧ l.st ≠ .relOne

/-- Such a caller gives up nothing. -/
theorem giveUpTicket_unladen (hfree : Unladen (hartAt s slot)) : CountSide s (giveUpTicket s slot) := by
  unfold giveUpTicket
  split
  · rename_i w hw
    obtain ⟨l, hl, hst⟩ := ticketOwed_st hw
    obtain ⟨hq, hone⟩ := hfree l hl
    rw [withdraw_other (hst ▸ hq) (hst ▸ hone)]
    exact (bump_count _ _ _).trans rfl
  · exact .refl s

/-- The queue of a hitch without the ticket of a latch that is queued. -/
def queueWithout (l : HLatch) (q : Hitch) : List (Nat × Nat) := if l.st = .queued then q.queue.filter fun e => e.2 ≠ l.ticket else q.queue

/-- Another caller's queued ticket leaves its queue, and its release is returned. -/
theorem giveUpTicket_owing (hc : Canonical s) (hl : (hartAt s slot).hLatch = some l) (ho : l.st = .queued ∨ l.st = .relOne) :
    (∀ j, hitchGet (giveUpTicket s slot) j = if j = l.hitch then { hitchGet s j with queue := queueWithout l (hitchGet s j) } else hitchGet s j) ∧
      (giveUpTicket s slot).hit.returned = s.hit.returned ++ (if l.st = .relOne then [l.hitch] else []) := by
  have e : giveUpTicket s slot = withdraw s ⟨l.hitch, l.ticket, slot, l.st⟩ := by rw [giveUpTicket, ticketOwed_owing hl ho]
  rw [e]
  rcases ho with ho | ho
  · rw [withdraw_queued ho]
    have hbump := bump_hit
      (hitchPut s l.hitch { hitchGet s l.hitch with queue := (hitchGet s l.hitch).queue.filter fun e => e.2 ≠ l.ticket }) regHitAbandoned 1
    refine ⟨fun j => (hitchGet_congr (congrArg HitUnit.hitches hbump) j).trans ?_, (congrArg HitUnit.returned hbump).trans (by simp [ho, hitchPut])⟩
    by_cases hj : j = l.hitch
    · rw [if_pos hj, hj, hitchGet_hitchPut_self hc, queueWithout, if_pos ho]
    · rw [if_neg hj, hitchGet_hitchPut_ne _ hj]
  · rw [withdraw_relOne ho]
    refine ⟨fun j => ?_, by simp [ho]⟩
    have hq : queueWithout l (hitchGet s j) = (hitchGet s j).queue := if_neg (by simp [ho])
    rw [hq]
    exact (ite_self _).symm

theorem giveUpTicket_keeps (s : State) (slot : Nat) : (giveUpTicket s slot).harts = s.harts ∧ (giveUpTicket s slot).mem = s.mem := by
  unfold giveUpTicket
  split
  · exact withdraw_harts _ _
  · exact ⟨rfl, rfl⟩

/-! ### Tickets taken (11 R422) -/

/-- A hitch whose next ticket has been taken from a hart. -/
def Hitch.enqueue (x : Hitch) (slot : Nat) : Hitch := { x with nextTicket := (x.nextTicket + 1) % 2 ^ 32, queue := x.queue ++ [(slot, x.nextTicket)] }

theorem takeTicket_becomes (hc : Canonical s) (hx : hitchGet (giveUpTicket s slot) id = x) :
    Becomes (giveUpTicket s slot) (takeTicket s id slot) id (x.enqueue slot) ∧
      (hartAt (takeTicket s id slot) slot).hLatch = some ⟨id, x.nextTicket, .queued⟩ := by
  have hg : Canonical (giveUpTicket s slot) := (kept_giveUpTicket (kept_self hc)).canon
  subst hx
  refine ⟨(Becomes.put hg id _).notice (hartSet_noticed (hitchPut_canonical hg _ _) slot _), ?_⟩
  exact congrArg HartSt.hLatch (hartAt_hartSet_self (hitchPut_canonical hg _ _) slot _)

/-- A caller that has nothing to give up takes the next ticket. -/
theorem takeTicket_unladen (hc : Canonical s) (hx : hitchGet s id = x) (hfree : Unladen (hartAt s slot)) :
    Becomes s (takeTicket s id slot) id (x.enqueue slot) ∧ (hartAt (takeTicket s id slot) slot).hLatch = some ⟨id, x.nextTicket, .queued⟩ := by
  have hn := giveUpTicket_unladen hfree
  have hb := (Becomes.refl hc hx).count hn (kept_giveUpTicket (kept_self hc)).canon
  obtain ⟨hbecomes, hlatch⟩ := takeTicket_becomes hc hb.self
  exact ⟨hb.trans hbecomes, hlatch⟩

/-- The same for an arrival that does not complete its round. -/
theorem opArrive_ticket (hc : Canonical s) (hx : hitchGet s id = x) (hn : x.count + 1 < max 1 (y % 2 ^ 32)) (hfree : Unladen (hartAt s slot)) :
    Answers s (opArrive s id slot y) id 0 (Hitch.enqueue { x with count := x.count + 1 } slot) ∧
      (hartAt (opArrive s id slot y).2 slot).hLatch = some ⟨id, x.nextTicket, .queued⟩ := by
  have hput : Becomes s (hitchPut s id { x with count := x.count + 1 }) id { x with count := x.count + 1 } := .put hc id _
  obtain ⟨hb, hlatch⟩ := takeTicket_unladen hput.canon hput.self hfree
  rw [opArrive_waits hx hn, hartAt_congr (hitOp_harts _)]
  exact ⟨⟨rfl, (hput.trans hb).hitOp⟩, hlatch⟩

/-- What taking a ticket leaves where the caller held an earlier one, queued or released (11 R758). -/
structure GaveUp (s t : State) (id slot : Nat) (x : Hitch) (l : HLatch) : Prop where
  canon : Canonical t
  latch : (hartAt t slot).hLatch = some ⟨id, x.nextTicket, .queued⟩
  mem : t.mem = s.mem
  queue : (hitchGet t id).queue = (if l.hitch = id then queueWithout l x else x.queue) ++ [(slot, x.nextTicket)]
  left : l.hitch ≠ id → (hitchGet t l.hitch).queue = queueWithout l (hitchGet s l.hitch)
  returned : t.hit.returned = s.hit.returned ++ (if l.st = .relOne then [l.hitch] else [])

theorem takeTicket_gaveUp (hc : Canonical s) (hx : hitchGet s id = x) (hl : (hartAt s slot).hLatch = some l) (ho : l.st = .queued ∨ l.st = .relOne) :
    GaveUp s (takeTicket s id slot) id slot x l := by
  obtain ⟨hget, hret⟩ := giveUpTicket_owing hc hl ho
  obtain ⟨hb, hlatch⟩ := takeTicket_becomes hc (hget id)
  have hnext : (if id = l.hitch then { hitchGet s id with queue := queueWithout l (hitchGet s id) } else hitchGet s id).nextTicket = x.nextTicket := by
    rw [← hx]
    split <;> rfl
  refine ⟨hb.canon, by rw [hlatch, hnext], hb.mem.trans (giveUpTicket_keeps s slot).2, ?_, fun hne => ?_, hb.returned.trans hret⟩
  · rw [hb.self, Hitch.enqueue]
    dsimp only
    rw [hnext, hx]
    by_cases e : l.hitch = id
    · rw [if_pos e, if_pos e.symm]
    · rw [if_neg e, if_neg (Ne.symm e)]
  · rw [hb.others _ hne, hget, if_pos rfl]

/-- The same where the operation first made of the hitch `z`, whose tickets stand as they did. -/
theorem GaveUp.after (hb : Becomes s t id z) (hq : z.queue = x.queue) (hn : z.nextTicket = x.nextTicket) (k : GaveUp t u id slot z l) :
    GaveUp s u id slot x l := by
  have hw : queueWithout l z = queueWithout l x := by rw [queueWithout, hq, queueWithout]
  exact ⟨k.canon, hn ▸ k.latch, k.mem.trans hb.mem, by rw [k.queue, hw, hq, hn],
    fun hne => by rw [k.left hne, hb.others _ hne], by rw [k.returned, hb.returned]⟩

theorem GaveUp.count (k : GaveUp s t id slot x l) (n : CountSide t u) (hu : Canonical u) : GaveUp s u id slot x l := by
  have hget := hitchGet_congr (congrArg HitUnit.hitches n.hit)
  exact ⟨hu, by rw [hartAt_congr n.harts, k.latch], n.mem.trans k.mem, by rw [hget, k.queue], fun hne => by rw [hget, k.left hne],
    (congrArg HitUnit.returned n.hit).trans k.returned⟩

theorem GaveUp.hitOp (k : GaveUp s t id slot x l) : GaveUp s (hitOp t) id slot x l := k.count (bump_count _ _ _) (bump1_canonical k.canon _)

/-! ### HARRIVE and HWAIT on a hitch of this device -/

theorem harrive_local (hr : Runs s (.harrive h g rd a b) h g) (hl : LocalTarget h (reg s h a).toNat) :
    let p := opArrive (issued s h) (reg s h a).toNat (hartNo h) (reg s h b).toNat
    exec (.harrive h g rd a b) s = .next (retire p.2 h rd (wordFor p.2 (reg s h a).toNat p.1)) := by
  obtain ⟨hgood, huse, hdev, hmod⟩ := hl.good (s := issued s h)
  refine (exec_runs rfl hr).trans ?_
  dsimp only
  rw [reg_issued, reg_issued, hgood, huse, hdev, hmod]
  rfl

/-- HWAIT TAKE takes a credit, where there is one. -/
theorem hwait_credit (hr : Runs s (.hwait h g rd a b) h g) (hl : LocalTarget h (reg s h a).toNat) (hy : (reg s h b).toNat = 0)
    (hcr : 0 < (hitchGet s (reg s h a).toNat).credits) :
    let k := hitchGet s (reg s h a).toNat
    let t := hitOp (hitchPut (issued s h) (reg s h a).toNat { k with credits := k.credits - 1 })
    exec (.hwait h g rd a b) s = .next (retire t h rd (wordFor t (reg s h a).toNat 0)) := by
  obtain ⟨hgood, huse, hdev, hmod⟩ := hl.good (s := issued s h)
  refine (exec_runs rfl hr).trans ?_
  dsimp only
  rw [reg_issued, reg_issued, hgood, huse, hdev, hmod, hy, hitchGet_issued]
  simp [hcr]

/-- HWAIT TAKE takes a ticket otherwise. -/
theorem hwait_ticket (hr : Runs s (.hwait h g rd a b) h g) (hl : LocalTarget h (reg s h a).toNat) (hy : (reg s h b).toNat = 0)
    (hcr : (hitchGet s (reg s h a).toNat).credits = 0) : exec (.hwait h g rd a b) s =
      .next (enterWait (hitOp (takeTicket (issued s h) (reg s h a).toNat (hartNo h))) h .spin (.hitch rd)) := by
  obtain ⟨hgood, huse, hdev, hmod⟩ := hl.good (s := issued s h)
  refine (exec_runs rfl hr).trans ?_
  dsimp only
  rw [reg_issued, reg_issued, hgood, huse, hdev, hmod, hy, hitchGet_issued]
  simp [hcr]

/-- What HWAIT HELD makes of the latch of its caller. -/
def heldState (s : State) (h : Hart) (rd : Reg) (id : Nat) : State :=
  match (hart s h).hLatch with
  | some l =>
    if l.hitch ≠ id then retire (issued s h) h rd (wordFor (issued s h) id 6)
    else (match l.st with
      | .queued => enterWait (issued s h) h .spin (.hitch rd)
      | .broken => retire (issued s h) h rd (wordFor (issued s h) id 8)
      | _ => retire (putHart (issued s h) h { hart s h with hLatch := some { l with st := .taken } }) h rd
          (wordFor (issued s h) id 0))
  | none => retire (issued s h) h rd (wordFor (issued s h) id 6)

theorem hwait_held (hr : Runs s (.hwait h g rd a b) h g) (hl : LocalTarget h (reg s h a).toNat) (hy : (reg s h b).toNat = 1) :
    exec (.hwait h g rd a b) s = .next (heldState s h rd (reg s h a).toNat) := by
  obtain ⟨hgood, huse, hdev, hmod⟩ := hl.good (s := issued s h)
  refine (exec_runs rfl hr).trans ?_
  dsimp only
  rw [reg_issued, reg_issued, hgood, huse, hdev, hmod, hy, hart_issued]
  rfl

theorem heldState_other (hl : ∀ l, (hart s h).hLatch = some l → l.hitch ≠ id) :
    heldState s h rd id = retire (issued s h) h rd (wordFor (issued s h) id 6) := by
  unfold heldState
  split
  · rename_i l e
    exact if_pos (hl l e)
  · rfl

theorem heldState_queued (hl : (hart s h).hLatch = some l) (hid : l.hitch = id) (hst : l.st = .queued) :
    heldState s h rd id = enterWait (issued s h) h .spin (.hitch rd) := by simp [heldState, hl, hid, hst]

theorem heldState_broken (hl : (hart s h).hLatch = some l) (hid : l.hitch = id) (hst : l.st = .broken) :
    heldState s h rd id = retire (issued s h) h rd (wordFor (issued s h) id 8) := by simp [heldState, hl, hid, hst]

/-- A release is taken, and one already taken answers again (log 14). -/
theorem heldState_released (hi : Canonical (issued s h)) (hl : (hart s h).hLatch = some l) (hid : l.hitch = id)
    (hst : l.st = .relOne ∨ l.st = .relAll ∨ l.st = .taken) :
    ∃ u, Noticed (issued s h) u ∧ heldState s h rd id = retire u h rd (wordFor u id 0) := by
  have hn := hartSet_noticed hi (hartNo h) (some { l with st := .taken })
  rw [show hartAt (issued s h) (hartNo h) = hart s h from hart_issued s h h] at hn
  refine ⟨_, hn, ?_⟩
  rcases hst with hst | hst | hst <;> simp [heldState, hl, hid, hst] <;> rfl

/-- Settles O24: an arrival completes the round or takes a ticket, TAKE a credit or a ticket, and HELD reads the latch. -/
theorem hitchWaits : Obligations.HitchWaits := by
  unfold Obligations.HitchWaits
  intro s h g rd a b hc id y x free hpos hlt hstrand
  have hi := issued_canonical hc h
  have hx : hitchGet (issued s h) id = x := hitchGet_issued s h id
  have hl : LocalTarget h id := ⟨hpos, hlt, hstrand⟩
  have hlatch : hartAt (issued s h) (hartNo h) = hart s h := hart_issued s h h
  have hunladen (hfree : free) : Unladen (hartAt (issued s h) (hartNo h)) := by rw [Unladen, hlatch]; exact hfree
  have hv : Becomes (issued s h) (hitchPut (issued s h) id { x with count := x.count + 1 }) id { x with count := x.count + 1 } := .put hi id _
  refine ⟨fun hn hr => ?completes, fun hn hfree hr => ?arrives, fun hy hcr hr => ?credit, fun hy hcr hfree hr => ?ticket,
    ?gaveUp, fun l hy hown hid => ⟨fun hst hr => ?queued, fun hst hr => ?released, fun hst hr => ?broken⟩,
    fun hy hother hr => ?notHeld⟩
  case completes =>
    have hans : Answers (issued s h) (opArrive (issued s h) id (hartNo h) y) id 1 _ := opArrive_completes hi hx hn
    refine ⟨_, harrive_local hr hl, ?_⟩
    rw [hans.status]
    exact hitchDone_retire hr.ready hlt (by decide) hans.becomes
  case arrives =>
    obtain ⟨hans, ht⟩ := opArrive_ticket hi hx hn (hunladen hfree)
    refine ⟨_, harrive_local hr hl, ?_⟩
    rw [hans.status]
    exact ⟨hitchDone_retire hr.ready hlt (by decide) hans.becomes, (retire_hLatch hans.becomes.canon).trans ht⟩
  case credit =>
    exact ⟨_, hwait_credit hr hl hy hcr, hitchDone_retire hr.ready hlt (by decide) (Becomes.put hi id _).hitOp⟩
  case ticket =>
    obtain ⟨hb, ht⟩ := takeTicket_unladen hi hx (hunladen hfree)
    have hput := hart_enterWait (h := h) hb.hitOp.canon .spin (.hitch rd)
    rw [hart_congr (hitOp_harts _)] at hput
    refine ⟨_, hwait_ticket hr hl hy hcr, by rw [hput], ?_, ?_, congrArg Hitch.queue hb.hitOp.self⟩
    · rw [hput, hb.latches.hart h, hart_issued]
    · rw [hput]
      exact ht
  case gaveUp =>
    intro l hown ho c hcase left hr
    suffices e : ∃ t u, exec c s = .next t ∧ GaveUp (issued s h) u id (hartNo h) x l ∧ (hart t h).hLatch = (hart u h).hLatch ∧
        t.mem = u.mem ∧ t.hit = u.hit by
      obtain ⟨t, u, hexec, k, htl, htm, hth⟩ := e
      have hget := hitchGet_congr (congrArg HitUnit.hitches hth)
      refine ⟨t, hexec, htl.trans k.latch, htm.trans (k.mem.trans (issued_mem s h)), ?_, fun hne => ?_, ?_⟩
      · rw [hget, k.queue]
        rfl
      · rw [hget, k.left hne, hitchGet_issued]
        rfl
      · rw [hth, k.returned, issued_hit]
    rcases hcase with ⟨rfl, hn⟩ | ⟨rfl, hy, hcr⟩
    · have k : GaveUp (issued s h) _ id (hartNo h) x l := (GaveUp.after (x := x) hv rfl rfl (takeTicket_gaveUp hv.canon hv.self (hlatch ▸ hown) ho)).hitOp
      refine ⟨_, _, harrive_local hr hl, k, ?_⟩
      rw [opArrive_waits hx hn]
      exact ⟨retire_hLatch k.canon, rfl, rfl⟩
    · have k : GaveUp (issued s h) _ id (hartNo h) x l := (takeTicket_gaveUp hi hx (hlatch ▸ hown) ho).hitOp
      refine ⟨_, _, hwait_ticket hr hl hy hcr, k, ?_, rfl, rfl⟩
      rw [hart_enterWait k.canon]
  case queued =>
    refine ⟨_, (hwait_held hr hl hy).trans (congrArg _ (heldState_queued hown hid hst)), ?_, ?_, hx⟩
    all_goals rw [hart_enterWait hi, hart_issued]
  case released =>
    obtain ⟨u, hn, e⟩ := heldState_released (rd := rd) hi hown hid hst
    exact ⟨_, (hwait_held hr hl hy).trans (congrArg _ e), hitchDone_retire hr.ready hlt (by decide) ((Becomes.refl hi hx).notice hn)⟩
  case broken =>
    exact ⟨_, (hwait_held hr hl hy).trans (congrArg _ (heldState_broken hown hid hst)),
      hitchDone_retire hr.ready hlt (by decide) (.refl hi hx)⟩
  case notHeld =>
    exact ⟨_, (hwait_held hr hl hy).trans (congrArg _ (heldState_other hother)), hitchDone_retire hr.ready hlt (by decide) (.refl hi hx)⟩

end Sys2Proof.Machine
end

section
/-! SUPPORT. What reaches the hitch root beside instructions: tickets withdrawn, releases returned, and a hitch cleared (11 R424, R428). -/

namespace Sys2Proof.Machine

variable {s t u : State} {id k : Nat} {x : Hitch}

/-- Whatever it finds, an HRELONE returns no release. -/
theorem opRelOne_returned (hc : Canonical s) (id : Nat) : (opRelOne s id).2.hit.returned = s.hit.returned := by
  rcases hq : (hitchGet s id).queue with _ | ⟨w, r⟩
  · by_cases hcr : 65535 ≤ (hitchGet s id).credits
    · rw [opRelOne_full_eq rfl hq hcr]
      exact (hitOverflow_becomes hc rfl).returned (id := id)
    · exact (opRelOne_credit hc rfl hq (Nat.not_le.1 hcr)).becomes.returned
  · exact (opRelOne_waiter hc rfl hq).becomes.returned

/-- Tickets and returned releases are no part of any map. -/
theorem withReturned_canonical (hc : Canonical s) (w : List Withdrawal) (r : List Nat) :
    Canonical { s with hit := { s.hit with withdrawals := w, returned := r } } := (kept_mk (kept_self hc)).canon

theorem withdrawFirst_cons {w : Withdrawal} {r : List Withdrawal} (hw : s.hit.withdrawals = w :: r) :
    withdrawFirst s = withdraw { s with hit := { s.hit with withdrawals := r } } w := by rw [withdrawFirst, hw]

/-- The hitch cleared, its waiters told, and a release that its waiter has already seen kept (11 R428). -/
def clearedHitch (s : State) (id : Nat) : State :=
  keepRelease ((hitchGet s id).queue.foldl (fun s w => markTicket s id w .broken) (hitchPut s id hitchReset)) id

theorem clearedHitch_becomes (hc : Canonical s) (id : Nat) : Becomes s (clearedHitch s id) id hitchReset :=
  have hmarked := markTickets_noticed (hitchPut_canonical hc id hitchReset) (hitchGet s id).queue id .broken
  ((Becomes.put hc id hitchReset).notice hmarked).notice (keepRelease_noticed hmarked.canon id)

/-- HIT_CLEAR also drops the hitch's releases that are being returned, and tells the tickets on their way back. -/
theorem hitClear_form (hk : k < 20) (hpos : 0 < id) (hlt : id < 65536) : exec (.hitClear k id) s =
    .next { clearedHitch s id with hit := { (clearedHitch s id).hit with
      returned := (clearedHitch s id).hit.returned.filter (· ≠ id)
      withdrawals := (clearedHitch s id).hit.withdrawals.map fun w => if w.hitch = id then { w with st := .broken } else w } } := by
  rw [exec_hitClear, execHitClear, Nat.mod_eq_of_lt hlt]
  exact if_neg (by omega)

/-- Settles O26: a ticket comes back, a returned release is applied as an HRELONE, and a cleared hitch is as at reset. -/
theorem hitchRoot : Obligations.HitchRoot := by
  unfold Obligations.HitchRoot
  intro s k id hc
  refine ⟨fun w r hw hst => ?queued, fun w r hw hst => ?released, fun hmem => ?returned, fun hk hpos hlt => ?cleared⟩
  case queued =>
    have hs := withReturned_canonical hc r s.hit.returned
    have hb := (Becomes.put hs w.hitch
      { hitchGet s w.hitch with queue := (hitchGet s w.hitch).queue.filter fun e => e.2 ≠ w.ticket }).count (bump_count _ regHitAbandoned 1)
      (bump1_canonical (hitchPut_canonical hs _ _) _)
    refine ⟨_, congrArg Host.Outcome.next ((withdrawFirst_cons hw).trans (withdraw_queued hst)), ?_, hb.self, hb.others, bump_harts _ _ _⟩
    exact congrArg HitUnit.withdrawals (bump_hit _ _ _)
  case released => exact ⟨_, congrArg Host.Outcome.next ((withdrawFirst_cons hw).trans (withdraw_relOne hst)), rfl, rfl, rfl⟩
  case returned =>
    have hs := withReturned_canonical hc s.hit.withdrawals (s.hit.returned.erase id)
    exact ⟨_, if_pos (List.contains_iff_mem.2 hmem), opRelOne_returned hs id, fun hq hcr => (opRelOne_credit hs rfl hq hcr).becomes.self,
      fun w r hq => (opRelOne_waiter hs rfl hq).becomes.self⟩
  case cleared =>
    have hb := clearedHitch_becomes hc id
    refine ⟨_, hitClear_form hk hpos hlt, hb.self, hb.others, by simp, fun w hw hid => ?_, hb.mem⟩
    obtain ⟨v, -, rfl⟩ := List.mem_map.1 hw
    by_cases e : v.hitch = id
    · rw [if_pos e]
    · rw [if_neg e] at hid
      exact absurd hid e

end Sys2Proof.Machine
end

section
/-! SUPPORT. The knot tree: arrivals of callers, their waits, and what passes between the nodes (11 R429-R438). -/

namespace Sys2Proof.Machine

variable {s t u : State} {c : Instr} {h : Hart} {g : Guard} {rd a b : Reg} {n y st : Nat} {sense : Bool} {x : Barrier}

/-! ### Barriers -/

/-- Barriers are read from the knot tree alone. -/
theorem barGet_congr (e : t.hit.barriers = s.hit.barriers) (j : Nat) : barGet t j = barGet s j := by rw [barGet, e, barGet]

theorem barGet_barPut_self (hc : Canonical s) (n : Nat) (x : Barrier) : barGet (barPut s n x) n = x := mget_mset_self hc.barriers n x

theorem barGet_barPut_ne {j : Nat} (x : Barrier) (hj : j ≠ n) : barGet (barPut s n x) j = barGet s j := mget_mset_ne x hj

/-! ### Answers without an arrival (11 R420, R430, R435, R438) -/

theorem knotWord_zero (r : Nat) : knotWord r 0 = BitVec.ofNat 64 (r % 4 * 2 ^ 16) := by rw [knotWord, Nat.add_zero]

theorem knotWord_refused : knotWord 0 4 = 4 := by simp [knotWord]

theorem knotWord_status (hst : st < 256) (r : Nat) : (knotWord r st).toNat % 256 = st := by
  unfold knotWord
  rw [BitVec.toNat_ofNat]
  omega

@[simp] theorem participates_issued (s : State) (h k : Hart) (n : Nat) : participates (issued s h) k n = participates s k n := by
  simp [participates]

@[simp] theorem knotCheck_issued (s : State) (h k : Hart) (n y : Nat) : knotCheck (issued s h) k n y = knotCheck s k n y := by simp [knotCheck]

@[simp] theorem roundOver_issued (s : State) (h k : Hart) (n : Nat) : roundOver (issued s h) k n = roundOver s k n := by
  simp [roundOver, latchedRound]

/-- A barrier that the caller may name, with no operand (11 R430). -/
def NamesBarrier (h : Hart) (n y : Nat) : Prop := n < 1024 ∧ y = 0 ∧ (isStrand h = true → 64 ≤ n)

theorem knotCheck_refused (hn : ¬NamesBarrier h n y) : knotCheck s h n y = some 4 := by
  refine if_pos (by_contra fun e => hn ?_)
  rw [not_or, not_or, not_and] at e
  obtain ⟨hlt, hy, hfirm⟩ := e
  exact ⟨by omega, by omega, fun hs => Nat.not_lt.1 (hfirm hs)⟩

theorem knotCheck_named (hn : NamesBarrier h n y) :
    knotCheck s h n y = if !participates s h n then some 7 else if (barGet s n).broken then some 8 else none := by
  obtain ⟨hlt, hy, hfirm⟩ := hn
  refine if_neg fun e => ?_
  rcases e with e | e | ⟨hs, e⟩
  · omega
  · exact e hy
  · have := hfirm hs
    omega

/-- A check that fails answers KARRIVE and KWAIT alike. -/
theorem knot_answered (hm : c ∈ [Instr.karrive h g rd a b, .kwait h g rd a b]) (hr : Runs s c h g)
    (hst : knotCheck s h (reg s h a).toNat (reg s h b).toNat = some st) :
    exec c s = .next (knotAnswer (issued s h) h rd (reg s h a).toNat st) := by
  simp only [List.mem_cons, List.not_mem_nil, or_false] at hm
  rcases hm with rfl | rfl
  all_goals
    refine (exec_runs rfl hr).trans ?_
    dsimp only
    rw [reg_issued, reg_issued, knotCheck_issued, hst]

/-- What retiring over a state that has counted something leaves. -/
theorem retire_counted (hn : CountSide (issued s h) u) (hu : Canonical u) (v : Word) : let t := retire u h rd v
    t.hit = s.hit ∧ reg t h rd = (if rd.val = 0 then 0 else v) ∧ (hart t h).pc = (hart s h).pc + 8 :=
  ⟨hn.hit.trans (issued_hit s h), reg_retire hu, by rw [retire_pc hu, hart_congr hn.harts, hart_issued]⟩

/-- An answer leaves the knot tree alone. -/
theorem knotAnswer_spec (hc : Canonical s) (n st : Nat) : ∃ r, let t := knotAnswer (issued s h) h rd n st
    t.hit = s.hit ∧ reg t h rd = (if rd.val = 0 then 0 else knotWord (if st = 4 then 0 else r) st) ∧ (hart t h).pc = (hart s h).pc + 8 := by
  have hi := issued_canonical hc h
  unfold knotAnswer
  by_cases e : st = 4
  · simp only [e, if_true]
    exact ⟨0, retire_counted (bump_count _ _ _) (bump1_canonical hi _) _⟩
  · simp only [e, if_false]
    exact ⟨_, retire_counted (.refl _) hi _⟩

/-- The status in the word of an answer. -/
theorem reg_status {v : Word} (hreg : reg t h rd = if rd.val = 0 then 0 else v) (hv : v.toNat % 256 = st) (h0 : rd.val ≠ 0) :
    (reg t h rd).toNat % 256 = st := by rw [hreg, if_neg h0, hv]

/-- A failed check, answered. -/
theorem knot_refuses (hc : Canonical s) (hm : c ∈ [Instr.karrive h g rd a b, .kwait h g rd a b]) (hr : Runs s c h g)
    (hst : knotCheck s h (reg s h a).toNat (reg s h b).toNat = some st) (hlt : st < 256) :
    ∃ t, exec c s = .next t ∧ t.hit = s.hit ∧ (rd.val ≠ 0 → (reg t h rd).toNat % 256 = st) ∧ (hart t h).pc = (hart s h).pc + 8 := by
  obtain ⟨r, hhit, hreg, hpc⟩ := knotAnswer_spec (h := h) (rd := rd) hc (reg s h a).toNat st
  exact ⟨_, knot_answered hm hr hst, hhit, reg_status hreg (knotWord_status hlt _), hpc⟩

/-! ### KARRIVE (11 R434) -/

/-- A caller's arrival at its node, its round latched and its word written. -/
def arrived (s : State) (h : Hart) (rd : Reg) (n : Nat) (sense : Bool) (round : Nat) : State :=
  let u := arriveNode s n (arriveAt h).1 (arriveAt h).2 sense
  retire (putHart u h { hart u h with kLatch := some (n, round % 4) }) h rd (knotWord round 0)

theorem karrive_passes (hr : Runs s (.karrive h g rd a b) h g) (hcheck : knotCheck s h (reg s h a).toNat (reg s h b).toNat = none) :
    let n := (reg s h a).toNat
    let k := (barGet s n).node (arriveAt h).1
    let retried := event (bump1 (issued s h) regHitRetry) regHitEvents 1
    exec (.karrive h g rd a b) s = .next
      (if !bit (k.arr k.cur) (arriveAt h).2 then arrived (issued s h) h rd n k.cur k.round
        else if !bit (k.arr !k.cur) (arriveAt h).2 then arrived (issued s h) h rd n (!k.cur) (k.round + 1)
        else retire retried h rd (knotWord (latchedRound retried h n) 5)) := by
  refine (exec_runs rfl hr).trans ?_
  dsimp only
  rw [reg_issued, reg_issued, knotCheck_issued, hcheck, ← barGet_issued s h]
  rfl

/-- One arrival counted in a node, under the sense it carries, with its caller in the mask. -/
def KnotNode.counted (k : KnotNode) (sense : Bool) (i : Nat) : KnotNode :=
  (k.setArr sense (orBit (k.arr sense) i)).setCount sense (k.count sense + 1)

/-- An arrival at a node touches the knot tree alone. -/
theorem arriveNode_spec (hc : Canonical s) (n m i : Nat) (sense : Bool) : let t := arriveNode s n m i sense
    barGet t n = (barGet s n).putNode m (((barGet s n).node m).counted sense i) ∧ t.harts = s.harts := by
  unfold arriveNode
  dsimp only
  split
  · exact ⟨barGet_barPut_self hc n _, rfl⟩
  · exact ⟨barGet_barPut_self hc n _, rfl⟩

theorem arrived_spec (hc : Canonical s) (n : Nat) (sense : Bool) (round : Nat) : let t := arrived (issued s h) h rd n sense round
    (hart t h).kLatch = some (n, round % 4) ∧ (hart t h).pc = (hart s h).pc + 8 ∧
      reg t h rd = (if rd.val = 0 then 0 else BitVec.ofNat 64 (round % 4 * 2 ^ 16)) ∧
      barGet t n = (barGet s n).putNode (arriveAt h).1 (((barGet s n).node (arriveAt h).1).counted sense (arriveAt h).2) := by
  have hi := issued_canonical hc h
  obtain ⟨hbar, hharts⟩ := arriveNode_spec hi n (arriveAt h).1 (arriveAt h).2 sense
  have hu : Canonical (arriveNode (issued s h) n (arriveAt h).1 (arriveAt h).2 sense) := (kept_arriveNode (kept_self hi)).canon
  have hp := canon_putHart hu h { hart (arriveNode (issued s h) n (arriveAt h).1 (arriveAt h).2 sense) h with kLatch := some (n, round % 4) }
  rw [barGet_issued] at hbar
  refine ⟨?_, ?_, ?_, (barGet_congr (by rfl) n).trans hbar⟩
  · rw [arrived, retire_kLatch hp, hart_putHart_self hu]
  · rw [arrived, retire_pc hp, hart_putHart_self hu, hart_congr hharts, hart_issued]
  · rw [arrived, reg_retire hp, knotWord_zero]

/-! ### KWAIT (11 R435) -/

theorem kwait_passes (hr : Runs s (.kwait h g rd a b) h g) (hcheck : knotCheck s h (reg s h a).toNat (reg s h b).toNat = none)
    {r : Nat} (hl : (hart s h).kLatch = some ((reg s h a).toNat, r)) : exec (.kwait h g rd a b) s = .next
      (if roundOver s h (reg s h a).toNat then retire (issued s h) h rd (knotWord r 0) else enterWait (issued s h) h .spin (.barrier rd)) := by
  refine (exec_runs rfl hr).trans ?_
  dsimp only
  rw [reg_issued, reg_issued, knotCheck_issued, hcheck, hart_issued, hl, roundOver_issued]
  simp

/-- A KWAIT without an arrival at its barrier. -/
theorem kwait_notHeld (hr : Runs s (.kwait h g rd a b) h g) (hcheck : knotCheck s h (reg s h a).toNat (reg s h b).toNat = none)
    (hl : ∀ r, (hart s h).kLatch ≠ some ((reg s h a).toNat, r)) :
    exec (.kwait h g rd a b) s = .next (knotAnswer (issued s h) h rd (reg s h a).toNat 6) := by
  refine (exec_runs rfl hr).trans ?_
  dsimp only
  rw [reg_issued, reg_issued, knotCheck_issued, hcheck, hart_issued]
  rcases e : (hart s h).kLatch with _ | ⟨m, r⟩
  · rfl
  · exact congrArg Host.Outcome.next (if_pos fun hm : m = (reg s h a).toNat => hl r (hm ▸ e))

/-- The round a caller waits for is over where its node's is the next. -/
theorem roundOver_iff {r : Nat} (hl : (hart s h).kLatch = some (n, r)) :
    roundOver s h n = true ↔ (((barGet s n).node (arriveAt h).1).round + 4 - r) % 4 = 1 := by simp [roundOver, latchedRound, hl]

/-- Settles O27: each arrival is refused, counted or told to retry by its masks, and each wait answers by the latched round. -/
theorem barrierArrivals : Obligations.BarrierArrivals := by
  unfold Obligations.BarrierArrivals
  intro s h g rd a b hc n y node i named
  have hi := issued_canonical hc h
  refine ⟨fun hn c hm hr => ?refused, fun hn hp c hm hr => ?absent, fun hn hp hbr c hm hr => ?broken, fun hn hp hbr => ?acts⟩
  case refused =>
    obtain ⟨r, hhit, hreg, hpc⟩ := knotAnswer_spec (h := h) (rd := rd) hc n 4
    rw [if_pos rfl, knotWord_refused] at hreg
    exact ⟨_, knot_answered hm hr (knotCheck_refused hn), hhit, hreg, hpc⟩
  case absent => exact knot_refuses hc hm hr ((knotCheck_named hn).trans (by simp [hp])) (by decide)
  case broken => exact knot_refuses hc hm hr ((knotCheck_named hn).trans (by simp [hp, hbr])) (by decide)
  case acts =>
    have hcheck : knotCheck s h n y = none := (knotCheck_named hn).trans (by simp [hp, hbr])
    refine ⟨fun hcur hr => ?current, fun hcur hnext hr => ?early, fun hcur hnext hr => ?retry, fun r hl hround hr => ?ended,
      fun r hl hround hr => ?spins, fun hl hr => ?notHeld⟩
    case current =>
      refine ⟨_, (karrive_passes hr hcheck).trans (congrArg Host.Outcome.next (if_pos ?_)), arrived_spec hc n node.cur node.round⟩
      rw [hcur]
      rfl
    case early =>
      refine ⟨_, (karrive_passes hr hcheck).trans (congrArg Host.Outcome.next ((if_neg ?_).trans (if_pos ?_))),
        arrived_spec hc n (!node.cur) (node.round + 1)⟩
      · rw [hcur]
        decide
      · rw [hnext]
        rfl
    case retry =>
      have hn : CountSide (issued s h) (event (bump1 (issued s h) regHitRetry) regHitEvents 1) := (bump_count _ _ _).trans rfl
      obtain ⟨hhit, hreg, -⟩ := retire_counted (rd := rd) hn (event_canonical (bump1_canonical hi _) _ _) (knotWord _ 5)
      refine ⟨_, (karrive_passes hr hcheck).trans (congrArg Host.Outcome.next ((if_neg ?_).trans (if_neg ?_))), hhit,
        reg_status hreg (knotWord_status (by decide) _)⟩
      · rw [hcur]
        decide
      · rw [hnext]
        decide
    case ended =>
      obtain ⟨hhit, hreg, hpc⟩ := retire_counted (rd := rd) (.refl _) hi (knotWord r 0)
      exact ⟨_, (kwait_passes hr hcheck hl).trans (congrArg Host.Outcome.next (if_pos ((roundOver_iff hl).2 hround))), hhit, hpc,
        hreg.trans (by rw [knotWord_zero])⟩
    case spins =>
      refine ⟨_, (kwait_passes hr hcheck hl).trans (congrArg Host.Outcome.next (if_neg ((roundOver_iff hl).not.2 hround))), issued_hit s h, ?_⟩
      rw [hart_enterWait hi, hart_issued]
      exact ⟨rfl, rfl, rfl⟩
    case notHeld =>
      obtain ⟨r, hhit, hreg, -⟩ := knotAnswer_spec (h := h) (rd := rd) hc n 6
      exact ⟨_, kwait_notHeld hr hcheck hl, hhit, reg_status hreg (knotWord_status (by decide) _)⟩

/-! ### Nodes above the callers (11 R431, R433, R434) -/

/-- An arrival that does not complete its node is counted there. -/
theorem nodeArrival_counted {m : Nat} (hbr : (barGet s n).broken = false) (hdef : (barGet s n).def_.defined = true)
    (hne : ((barGet s n).node m).count sense + 1 ≠ knotTarget (barGet s n) m) : nodeArrival s n m sense =
      barPut s n ((barGet s n).putNode m (((barGet s n).node m).setCount sense (((barGet s n).node m).count sense + 1))) := by
  simp [nodeArrival, hbr, hdef, hne]

/-- One that does goes on to the parent. -/
theorem nodeArrival_forwarded {m : Nat} (hbr : (barGet s n).broken = false) (hdef : (barGet s n).def_.defined = true) (hm : m ≠ 500)
    (he : ((barGet s n).node m).count sense + 1 = knotTarget (barGet s n) m) : nodeArrival s n m sense =
      sendArrival (barPut s n ((barGet s n).putNode m (((barGet s n).node m).setCount sense (((barGet s n).node m).count sense + 1)))) n m sense := by
  simp [nodeArrival, hbr, hdef, hm, he]

/-- Settles O28: an arrival is counted at its node or forwarded, a release turns its node over, and a definition waits. -/
theorem knotTree : Obligations.KnotTree := by
  unfold Obligations.KnotTree
  intro s b n k sense entry hc
  refine ⟨fun hfind hbr hdef hm => ?arrival, fun hfind hbr => ?release, fun hon hk hb hlen => ?definition⟩
  case arrival =>
    intro node rest
    have hexec : exec (.knotNodeArrival b n) s = .next (nodeArrival { s with hit := { s.hit with arrivals := rest } } b n sense) := by
      rw [exec_knotNodeArrival, execKnotNodeArrival, hfind]
    have hs : Canonical { s with hit := { s.hit with arrivals := rest } } := (kept_mk (kept_self hc)).canon
    by_cases he : node.count sense + 1 = knotTarget (barGet s b) n
    · refine ⟨_, hexec.trans (congrArg Host.Outcome.next (nodeArrival_forwarded hbr hdef hm he)), barGet_barPut_self hs b _, ?_, rfl, rfl⟩
      rw [if_pos he]
      rfl
    · refine ⟨_, hexec.trans (congrArg Host.Outcome.next (nodeArrival_counted hbr hdef he)), barGet_barPut_self hs b _, ?_, rfl, rfl⟩
      rw [if_neg he]
      rfl
  case release =>
    intro node
    have hs : Canonical { s with hit := { s.hit with releases := dropFirst (fun a => a.1 == b && a.2.1 == n) s.hit.releases } } :=
      (kept_mk (kept_self hc)).canon
    refine ⟨_, ?_, barGet_barPut_self hs b _, rfl, rfl⟩
    rw [exec_knotReleaseArrival, execKnotReleaseArrival, hfind]
    exact if_neg (Bool.eq_false_iff.1 hbr)
  case definition =>
    have hin : ¬(20 ≤ k ∨ 1024 ≤ b ∨ entry.length ≠ 64) := by omega
    exact ⟨_, (powered_on hon _).trans (if_neg hin), barGet_barPut_self hc b _, fun j hj => barGet_barPut_ne _ hj, rfl⟩

end Sys2Proof.Machine
end

section
/-! SUPPORT. Messages of other devices about hitches and barriers (11 R427, R436, R438; 13 R510, R516, R517). -/

namespace Sys2Proof.Machine

variable {s t u : State} {src tag kind : Nat} {body : List Byte} {k : Hart} {rd : Reg} {v : Word} {n id op flags y st : Nat} {x : Hitch} {sense : Bool}

/-! ### Messages taken and posted -/

@[simp] theorem takeMsg_hit (s : State) (src tag kind : Nat) : (takeMsg s src tag kind).hit = s.hit := by rw [takeMsg_only]

theorem takeMsg_count (s : State) (src tag kind : Nat) : CountSide s (takeMsg s src tag kind) := by
  rw [takeMsg_only]
  rfl

/-- Taking a message leaves the requests to other devices waiting. -/
theorem takeMsg_remotes (s : State) (src tag kind : Nat) : (takeMsg s src tag kind).hws.remotes = s.hws.remotes := by
  unfold takeMsg
  split
  · rfl
  · exact List.foldlRecOn _ _ (motive := fun t : State => t.hws.remotes = s.hws.remotes) rfl fun t ht _ _ => ht

theorem hitchGet_takeMsg (j : Nat) : hitchGet (takeMsg s src tag kind) j = hitchGet s j := hitchGet_congr (congrArg HitUnit.hitches (takeMsg_hit ..)) j

theorem barGet_takeMsg (j : Nat) : barGet (takeMsg s src tag kind) j = barGet s j := barGet_congr (congrArg HitUnit.barriers (takeMsg_hit ..)) j

theorem knotOpen_takeMsg (j : Nat) : knotOpen (takeMsg s src tag kind) j = knotOpen s j := by rw [knotOpen, barGet_takeMsg, knotOpen]

theorem postPort_count (s : State) (kind p : Nat) (b : List Byte) : CountSide s (postPort s kind p b) := rfl

theorem awaits_congr (e : t.harts = s.harts) (n tag : Nat) : awaits t n tag = awaits s n tag := by rw [awaits, hartAt_congr e, awaits]

/-! ### HITCH_OP (11 R427; 13 R516) -/

/-- An operation that is refused, finds the root GREY or only looks changes nothing but its count. -/
theorem applyRemote_count
    (h : greyAt s 0x36 = true ∨ id = 0 ∨ (id < 0x1000 ∧ bit flags 0 = false) ∨ op < 2 ∨ 5 ≤ op ∨ ((op = 2 ∨ op = 3) ∧ y ≠ 0)) :
    CountSide s (applyRemote s op flags id y).2 := by
  unfold applyRemote
  split
  · exact .refl s
  · rename_i hgrey
    split
    · exact .refl s
    · rename_i hallow
      have hop : op < 2 ∨ 5 ≤ op := by
        rcases h with e | e | ⟨e, e'⟩ | e | e | e
        · exact absurd e hgrey
        · exact absurd (.inl e) hallow
        · exact absurd (.inr (.inl ⟨e, by simp [e']⟩)) hallow
        · exact .inl e
        · exact .inr e
        · exact absurd (.inr (.inr e)) hallow
      split
      · omega
      · omega
      · omega
      · exact bump_count _ _ _
      · exact .refl s

/-- An operation on a hitch that its sender may use is applied as an instruction's. -/
theorem applyRemote_applies (hgrey : greyAt s 0x36 = false) (hown : 0x1000 ≤ id ∨ id ≠ 0 ∧ bit flags 0 = true) :
    (y = 0 → applyRemote s 2 flags id y = opRelOne s id) ∧ (y = 0 → applyRemote s 3 flags id y = opRelAll s id) ∧
      applyRemote s 4 flags id y = opAdd s id y := by
  have hid : ¬(id = 0 ∨ (id < 0x1000 ∧ (!bit flags 0) = true)) := by
    rintro (e | ⟨e, hb⟩)
    · omega
    · rcases hown with e' | ⟨-, e'⟩
      · omega
      · simp [e'] at hb
  have hg : ¬greyAt s 0x36 = true := by rw [hgrey]; decide
  refine ⟨fun h0 => ?_, fun h0 => ?_, ?_⟩
  · exact (if_neg hg).trans (if_neg fun e => (or_assoc.2 e).elim hid fun k => k.2 h0)
  · exact (if_neg hg).trans (if_neg fun e => (or_assoc.2 e).elim hid fun k => k.2 h0)
  · exact (if_neg hg).trans (if_neg fun e => (or_assoc.2 e).elim hid fun k => by omega)

/-- HITCH_OP is applied, and answered. -/
theorem hitchOp_answered (hon : s.boot.pwrgood = true) : ∃ b, exec (.hitchOp src tag body) s =
    .next (post (applyRemote (takeMsg s src tag 0x04) (fld body 0 1) (fld body 1 1) (fld body 2 2) (fld body 4 4)).2 0x05 src b) :=
  ⟨_, powered_on hon _⟩

/-- What an operation that is applied leaves. -/
theorem hitchOp_applied (hon : s.boot.pwrgood = true) {p : Nat × State}
    (happ : applyRemote (takeMsg s src tag 0x04) (fld body 0 1) (fld body 1 1) (fld body 2 2) (fld body 4 4) = p)
    (hans : Answers (takeMsg s src tag 0x04) p (fld body 2 2) st x) : ∃ t, exec (.hitchOp src tag body) s = .next t ∧
      hitchGet t (fld body 2 2) = x ∧ (∀ j, j ≠ fld body 2 2 → hitchGet t j = hitchGet s j) ∧ t.mem = s.mem ∧ t.harts = p.2.harts := by
  obtain ⟨b, hexec⟩ := hitchOp_answered (src := src) (tag := tag) (body := body) hon
  rw [happ] at hexec
  have hn := post_count p.2 0x05 src b
  have hget := hitchGet_congr (congrArg HitUnit.hitches hn.hit)
  refine ⟨_, hexec, (hget _).trans hans.becomes.self, fun j hj => ?_, ?_, hn.harts⟩
  · rw [hget, hans.becomes.others j hj, hitchGet_takeMsg]
  · rw [hn.mem, hans.becomes.mem, takeMsg_mem]

/-! ### HITCH_RSP and its time-out (13 R510, R516) -/

/-- What an answer leaves over a state whose harts are as before. -/
theorem answer_of_harts (hu : Canonical u) (e : u.harts = s.harts) : let t := answer u k rd v
    (hart t k).st = .ready ∧ (hart t k).pc = (hart s k).pc + 8 ∧ reg t k rd = (if rd.val = 0 then 0 else v) ∧
      ∀ j, j ≠ k → hart t j = hart s j := by
  dsimp only
  rw [hart_answer hu, reg_answer hu, hart_congr e]
  exact ⟨rfl, rfl, rfl, fun j hj => (hart_putHart_ne _ hj).trans (hart_congr e j)⟩

/-- A response taken and its request dropped. -/
def responseTaken (s : State) (src tag : Nat) (body : List Byte) : State := dropRemote (takeMsg s src tag 0x05) (fld body 0 3)

theorem responseTaken_count (s : State) (src tag : Nat) (body : List Byte) : CountSide s (responseTaken s src tag body) :=
  (takeMsg_count s src tag 0x05).trans rfl

theorem responseTaken_canonical (hc : Canonical s) (src tag : Nat) (body : List Byte) : Canonical (responseTaken s src tag body) :=
  (kept_dropRemote (kept_takeMsg (kept_self hc))).canon

/-- The answer that a hart waits for; one of REFUSED is counted here too. -/
theorem hitchRsp_answers {r : Remote} (hc : Canonical s) (hon : s.boot.pwrgood = true)
    (hfind : s.hws.remotes.find? (fun r => r.tag == fld body 0 3 && r.hart.isSome) = some r) (hn : r.hart = some n)
    (haw : awaits s n (fld body 0 3) = true) : ∃ u, Canonical u ∧ CountSide s u ∧ exec (.hitchRsp src tag body) s =
      .next (answer u (hartOf n) r.rd (BitVec.ofNat 64 (fld body 8 4 * 2 ^ 32 + fld body 5 1 % 2 * 2 ^ 16 + fld body 4 1))) := by
  have hside := responseTaken_count s src tag body
  have hdrop := responseTaken_canonical hc src tag body
  have hno : ¬(!awaits (responseTaken s src tag body) n (fld body 0 3)) = true := by simp [awaits_congr hside.harts, haw]
  refine ⟨if fld body 4 1 = 4 then bump1 (responseTaken s src tag body) regHitRefused else responseTaken s src tag body, ?_, ?_, ?_⟩
  · split
    · exact bump1_canonical hdrop _
    · exact hdrop
  · split
    · exact hside.trans (bump_count _ _ _)
    · exact hside
  · rw [exec_hitchRsp, execHitchRsp, powered_on hon]
    dsimp only
    rw [takeMsg_remotes, hfind]
    simp only [hn, Option.getD_some]
    exact if_neg hno

/-- An answer that nobody asked for is late. -/
theorem hitchRsp_late (hon : s.boot.pwrgood = true)
    (hfind : s.hws.remotes.find? (fun r => r.tag == fld body 0 3 && r.hart.isSome) = none) :
    exec (.hitchRsp src tag body) s = .next (lateRsp (takeMsg s src tag 0x05)) := by
  rw [exec_hitchRsp, execHitchRsp, powered_on hon]
  dsimp only
  rw [takeMsg_remotes, hfind]

/-- A time-out is counted and reported, and no hart, byte of memory or time moves by that. -/
theorem remoteTimedOut_keeps (s : State) (r : Remote) (reporter : Nat) : let t := remoteTimedOut s r reporter
    t.harts = s.harts ∧ t.mem = s.mem ∧ t.now = s.now := by
  unfold remoteTimedOut
  extract_lets s1 t
  have h1 : CountSide s s1 := (bump_count _ _ _).trans rfl
  have h2 : ViewSide s1 t := reportFull_view _ _ _ _ _ _ _ _
  have hnow : s1.now = s.now := by rw [h1]
  rw [h2]
  exact ⟨h1.harts, h1.mem, hnow⟩

/-- The time of a request has come and it is dropped. -/
def requestExpired (s : State) (r : Remote) (tag : Nat) : State := dropRemote (advance s r.deadline) tag

/-- A caller whose answer does not come in time is answered GREY (13 R516). -/
theorem hitchRspTimeout_answers {r : Remote} (hfind : s.hws.remotes.find? (fun r => r.tag == tag && r.hart.isSome) = some r)
    (hn : r.hart = some n) (haw : awaits s n tag = true) (hap : n < 17408 → atApply (advance s r.deadline) = false) :
    exec (.hitchRspTimeout tag) s =
      .next (answer (remoteTimedOut (requestExpired s r tag) r (hartUnit (requestExpired s r tag) n)) (hartOf n) r.rd 0xA) := by
  have haw' : awaits (requestExpired s r tag) n tag = true := (awaits_congr (advance_harts s r.deadline) n tag).trans haw
  have hwaits : ¬((!awaits (requestExpired s r tag) n tag) = true ∨ n < 17408 ∧ atApply (requestExpired s r tag) = true) := by
    rintro (e | ⟨hlt, e⟩)
    · simp [haw'] at e
    · exact Bool.eq_false_iff.1 (hap hlt) e
  rw [exec_hitchRspTimeout, execHitchRspTimeout, hfind]
  simp only [hn, Option.getD_some]
  exact if_neg hwaits

/-! ### KNOT messages (11 R433, R434, R436, R438; 13 R517) -/

section knot
variable {b unit tick : Nat} {port : Option Nat}

/-- A release from the device root sets off for every caller's node, and moves no hart and no byte of memory. -/
theorem releaseRoot_spec (s : State) (b : Nat) (sense : Bool) : let t := releaseRoot s b sense
    t.harts = s.harts ∧ t.mem = s.mem ∧ (∀ c ∈ (barGet s b).pcores, (b, c, sense) ∈ t.hit.releases) ∧
      ∀ k, k < 20 → bit (barGet s b).def_.ctrl k = true → (b, 600 + k, sense) ∈ t.hit.releases := by
  unfold releaseRoot
  extract_lets x upper y leaves s1 near s2 t
  obtain ⟨hcores, hdef⟩ : y.pcores = x.pcores ∧ y.def_ = x.def_ :=
    List.foldlRecOn upper _ (motive := fun z : Barrier => z.pcores = x.pcores ∧ z.def_ = x.def_) ⟨rfl, rfl⟩ fun z hz m _ => by
      split
      · exact hz
      · exact hz
  clear_value y
  have hleaf : ∀ c ∈ leaves, (b, c, sense) ∈ s2.hit.releases := fun c hc => List.mem_append_right _ (List.mem_map_of_mem hc)
  have hsend (t : State) (ht : CountSide s2 t) : t.harts = s.harts ∧ t.mem = s.mem ∧ (∀ c ∈ x.pcores, (b, c, sense) ∈ t.hit.releases) ∧
      ∀ k, k < 20 → bit x.def_.ctrl k = true → (b, 600 + k, sense) ∈ t.hit.releases := by
    rw [ht.hit]
    refine ⟨ht.harts, ht.mem, fun c hc => hleaf c (List.mem_append_left _ (hcores ▸ hc)), fun k hk hb => hleaf _ (List.mem_append_right _ ?_)⟩
    exact List.mem_map_of_mem (List.mem_filter.2 ⟨List.mem_range.2 hk, by rw [hdef]; exact hb⟩)
  refine hsend t ?_
  dsimp only [t]
  split
  · exact .foldl _ (fun t p => postPort_count t _ _ _) s2
  · exact .refl s2

@[simp] theorem report_hit (s : State) (k a u d : Nat) : (report s k a u d).hit = s.hit := by rw [report_only]

/-- A barrier that breaks: it is marked, and what is on its way in it is lost (11 R438). -/
theorem breakBarrier_hit (hbr : (barGet s b).broken = false) (hdef : (barGet s b).def_.defined = true) :
    (breakBarrier s b unit tick port).hit.barriers = (barPut s b { barGet s b with broken := true, brokenTick := tick }).hit.barriers ∧
      (breakBarrier s b unit tick port).hit.arrivals = s.hit.arrivals.filter (fun a => a.1 ≠ b) := by
  unfold breakBarrier
  extract_lets x s1 near s2 s3 s4
  have h4 : s4.hit = s2.hit := (report_hit _ _ _ _ _).trans (bump_hit _ _ _)
  rw [if_neg (by simp [x, hbr, hdef])]
  have hsent := CountSide.foldl (treePorts s4 x.def_) (g := fun s p => if port = some p then s else postPort s 0x06 p (knotBytes b 3 false tick))
    (fun t p => by split; exacts [.refl t, postPort_count _ _ _ _]) s4
  rw [hsent.hit, h4]
  exact ⟨rfl, rfl⟩

/-- A message about a barrier that is not open here is taken and ignored. -/
theorem knotMessage_ignored (hopen : knotOpen s (fld body 0 2 % 1024) = false) :
    exec (.knotArrive src tag body) s = .next (takeMsg s src tag 0x06) ∧ exec (.knotRelease src tag body) s = .next (takeMsg s src tag 0x06) ∧
      exec (.knotBreak src tag body) s = .next (takeMsg s src tag 0x06) := by
  have h : knotOpen (takeMsg s src tag 0x06) (fld body 0 2 % 1024) = false := (knotOpen_takeMsg _).trans hopen
  refine ⟨if_neg ?_, if_neg ?_, if_neg ?_⟩
  · simp [h]
  · simp [h]
  · simp [h]

end knot

/-- Settles O45: an operation is applied or refused, its answer or time-out releases the caller, and KNOT messages act where the barrier is open. -/
theorem hitchMessages : Obligations.HitchMessages := by
  unfold Obligations.HitchMessages
  intro s src tag body hc hon h y x own
  have ht : Canonical (takeMsg s src tag 0x04) := takeMsg_canonical hc
  have hx : hitchGet (takeMsg s src tag 0x04) h = x := hitchGet_takeMsg h
  have applies (hg : greyAt s 0x36 = false) (ho : own) := applyRemote_applies (s := takeMsg s src tag 0x04) (y := y) ((greyAt_takeMsg 0x36).trans hg) ho
  refine ⟨fun hbad => ?refused, fun hg ho hop r hsum hr => ?hadd, fun hg ho hop hy hq hcr => ?credit, fun w r hg ho hop hy hq => ?waiter,
    fun hg ho hop hy => ?hrelall, fun r n hfind hn _ haw => ?answered, fun hfind => ?late, fun r n hfind hn _ haw hap => ?timeout, ?closed, ?opened⟩
  case refused =>
    obtain ⟨b, hexec⟩ := hitchOp_answered (src := src) (tag := tag) (body := body) hon
    have hn : CountSide s _ := ((takeMsg_count s src tag 0x04).trans
      (applyRemote_count (hbad.imp_left ((greyAt_takeMsg 0x36).trans ·)))).trans (post_count _ 0x05 src b)
    exact ⟨_, hexec, hitchGet_congr (congrArg HitUnit.hitches hn.hit), hn.harts, hn.mem⟩
  case hadd =>
    obtain ⟨-, -, happ⟩ := applies hg ho
    obtain ⟨t, hexec, hself, hothers, hmem, -⟩ := hitchOp_applied hon ((congrArg (applyRemote _ · _ _ _) hop).trans happ)
      (opAdd_sum ht hx hsum hr)
    exact ⟨t, hexec, hself, hothers, hmem⟩
  case credit =>
    obtain ⟨happ, -, -⟩ := applies hg ho
    obtain ⟨t, hexec, hself, -, hmem, hharts⟩ := hitchOp_applied hon ((congrArg (applyRemote _ · _ _ _) hop).trans (happ hy))
      (opRelOne_credit ht hx hq hcr)
    refine ⟨t, hexec, hself, hharts.trans ?_, hmem⟩
    rw [opRelOne_credit_eq hx hq hcr, hitOp_harts]
    exact takeMsg_harts ..
  case waiter =>
    obtain ⟨happ, -, -⟩ := applies hg ho
    obtain ⟨t, hexec, hself, -, hmem, -⟩ := hitchOp_applied hon ((congrArg (applyRemote _ · _ _ _) hop).trans (happ hy))
      (opRelOne_waiter ht hx hq)
    exact ⟨t, hexec, hself, hmem⟩
  case hrelall =>
    obtain ⟨-, happ, -⟩ := applies hg ho
    obtain ⟨t, hexec, hself, -, hmem, -⟩ := hitchOp_applied hon ((congrArg (applyRemote _ · _ _ _) hop).trans (happ hy))
      (opRelAll_clears ht hx)
    exact ⟨t, hexec, hself, hmem⟩
  case answered =>
    obtain ⟨u, hu, hside, hexec⟩ := hitchRsp_answers (src := src) (tag := tag) hc hon hfind hn haw
    obtain ⟨hst, hpc, hreg, hothers⟩ := answer_of_harts (k := hartOf n) (rd := r.rd) hu hside.harts
    exact ⟨_, hexec, hst, hpc, hreg, hothers, hside.mem⟩
  case late =>
    have hn : CountSide s (lateRsp (takeMsg s src tag 0x05)) := ((takeMsg_count s src tag 0x05).trans (bump_count _ _ 1)).trans rfl
    exact ⟨_, hitchRsp_late hon hfind, hn.harts, hn.mem, bit_event_self (bump1_canonical (takeMsg_canonical hc) _) (by decide)⟩
  case timeout =>
    have hdrop : Kept _ (requestExpired s r tag) := kept_dropRemote (kept_advance (kept_self hc))
    obtain ⟨hharts, hmem, hnow⟩ := remoteTimedOut_keeps (requestExpired s r tag) r (hartUnit (requestExpired s r tag) n)
    obtain ⟨hst, hpc, hreg, -⟩ := answer_of_harts (k := hartOf n) (rd := r.rd) (v := 0xA) (kept_remoteTimedOut hdrop).canon
      (hharts.trans (advance_harts s r.deadline))
    refine ⟨_, hitchRspTimeout_answers hfind hn haw hap, hst, hpc, hreg, fun hruns => ?_, hmem.trans (advance_mem s r.deadline)⟩
    exact hnow.trans ((advance_now s r.deadline).trans (if_pos hruns))
  case closed =>
    intro b hopen
    obtain ⟨harrive, hrelease, hbreak⟩ := knotMessage_ignored (src := src) (tag := tag) hopen
    have hn := takeMsg_count s src tag 0x06
    exact ⟨⟨_, harrive, hn.hit, hn.mem, hn.harts⟩, ⟨_, hrelease, hn.hit, hn.mem, hn.harts⟩, _, hbreak, hn.hit, hn.mem, hn.harts⟩
  case opened =>
    intro b hopen hbr hdef
    have hn := takeMsg_count s src tag 0x06
    have htaken : Canonical (takeMsg s src tag 0x06) := takeMsg_canonical hc
    have hbar : barGet (takeMsg s src tag 0x06) b = barGet s b := barGet_takeMsg b
    have hopen' : knotOpen (takeMsg s src tag 0x06) b = true := (knotOpen_takeMsg b).trans hopen
    refine ⟨?breaks, ?releases, ?arrives⟩
    case breaks =>
      obtain ⟨hbars, harrs⟩ := breakBarrier_hit (s := takeMsg s src tag 0x06) (b := b) (unit := devCode src) (tick := fld body 8 8)
        (port := portToward (takeMsg s src tag 0x06) (barGet (takeMsg s src tag 0x06) b).def_ src) (by rw [hbar, hbr]) (by rw [hbar, hdef])
      have hput := (barGet_congr hbars b).trans (barGet_barPut_self htaken b _)
      refine ⟨_, if_pos hopen', ?_, ?_, fun a ha => ?_, (breakBarrier_fault _ _ _ _ _).mem.trans hn.mem⟩
      · rw [hput]
      · rw [hput]
      · rw [harrs] at ha
        simpa using (List.mem_filter.1 ha).2
    case releases =>
      obtain ⟨hharts, hmem, hcores, hctrls⟩ := releaseRoot_spec (takeMsg s src tag 0x06) b (bit (fld body 3 1) 0)
      rw [hbar] at hcores hctrls
      have hexec : exec (.knotRelease src tag body) s = .next (releaseRoot (takeMsg s src tag 0x06) b (bit (fld body 3 1) 0)) := by
        rw [exec_knotRelease, execKnotRelease]
        exact if_pos (by rw [hopen', hbar, hbr]; rfl)
      exact ⟨_, hexec, hharts.trans hn.harts, hmem.trans hn.mem, hcores, hctrls⟩
    case arrives =>
      intro node sense hlt
      have hcount := nodeArrival_counted (s := takeMsg s src tag 0x06) (n := b) (sense := sense) (m := 500) (by rw [hbar, hbr]) (by rw [hbar, hdef])
        (by rw [hbar]; exact Nat.ne_of_lt hlt)
      rw [hbar] at hcount
      have hexec : exec (.knotArrive src tag body) s = .next (nodeArrival (takeMsg s src tag 0x06) b 500 sense) := if_pos hopen'
      rw [hexec, hcount]
      exact ⟨_, rfl, barGet_barPut_self htaken b _, hn.harts, hn.mem⟩

end Sys2Proof.Machine
end

section
/-! SUPPORT. What a controller's answer to what it reads leaves as it was: bytes, harts, time, and the writes that wait in its buffers (12 R453,
R461-R467, R472). -/

namespace Sys2Proof.Machine

variable {s t u : State} {c n : Nat}

/-! ### What a controller may change -/

/-- What a controller may change as it acts on what it has read: its own state, what a report changes, and what a change of its unit's state does. -/
def ControllerSide (s t : State) : Prop :=
  t = { s with csr := t.csr, rdy := t.rdy, flt := t.flt, pci := t.pci, mgmt := t.mgmt, boot := t.boot, chans := t.chans }

theorem ChanSide.controller (h : ChanSide s t) : ControllerSide s t := by
  unfold ChanSide at h
  unfold ControllerSide
  rw [h]

theorem UnitSide.controller (h : UnitSide s t) : ControllerSide s t := by
  unfold UnitSide at h
  unfold ControllerSide
  rw [h]

namespace ControllerSide

theorem refl (s : State) : ControllerSide s s := rfl

theorem trans (h : ControllerSide s t) (k : ControllerSide t u) : ControllerSide s u := by
  unfold ControllerSide at *
  rw [k, h]

theorem mem (h : ControllerSide s t) : t.mem = s.mem := by rw [h]
theorem harts (h : ControllerSide s t) : t.harts = s.harts := by rw [h]
theorem now (h : ControllerSide s t) : t.now = s.now := by rw [h]

end ControllerSide

/-! ### Channels -/

/-- A channel's controller is read from the controllers alone. -/
theorem chanGet_congr (e : t.chans = s.chans) (d : Nat) : chanGet t d = chanGet s d := by
  unfold chanGet
  rw [e]

/-- A controller put leaves the others. -/
theorem chanGet_chanPut_ne {d : Nat} (x : Chan) (h : d ≠ c) : chanGet (chanPut s c x) d = chanGet s d := mget_mset_ne x h

@[simp] theorem report_chans (s : State) (k a u d : Nat) : (report s k a u d).chans = s.chans := by rw [report_only]

@[simp] theorem advance_chans (s : State) (t : Nat) : (advance s t).chans = s.chans := by rw [advance_only]

/-- A unit's change of state leaves the controllers. -/
@[simp] theorem setUnit_chans (s : State) (i : Nat) (st : UnitState) (r : Nat) : (setUnit s i st r).chans = s.chans := by rw [setUnit_side]

/-- A channel that goes GREY notes why (15 R599). -/
def greyed (x : Chan) (why : Nat) : Chan :=
  { x with thermal := x.thermal || why == 1, worn := x.worn || why != 1, silent := x.silent || why == 2 }

/-- A unit that enters grey for a fault of its own is a controller's side. -/
theorem greyUnit_side (s : State) (i kind : Nat) : ControllerSide s (greyUnit s i kind) :=
  (setUnit_side s i .grey kind).controller.trans rfl

/-- A channel going GREY leaves every controller but its own, which notes the reason unless the channel is FENCED (12 R472). -/
theorem greyChan_chans (s : State) (c why : Nat) :
    (greyChan s c why).chans = if rdyState s (idxChan c) = .fenced then s.chans else (chanPut s c (greyed (chanGet s c) why)).chans := by
  unfold greyChan
  extract_lets st x s1 entry s2 s3
  have h1 : s1.chans = s.chans := by
    show (if _ then _ else _ : State).chans = _
    split <;> rfl
  have h2 : s2.chans = s.chans := by
    show (if _ then _ else _ : State).chans = _
    split
    · exact h1
    · exact (setUnit_chans s1 _ _ _).trans h1
  have h3 : s3.chans = (chanPut s c (greyed (chanGet s c) why)).chans := congrArg (mset _ · c _) h2
  by_cases hf : rdyState s (idxChan c) = .fenced
  · rw [if_pos hf]
    exact congrArg State.chans (if_pos (beq_iff_eq.2 hf))
  · rw [if_neg (mt beq_iff_eq.1 hf), if_neg hf]
    split
    · exact h3
    · exact (report_chans s3 _ _ _ _).trans h3

/-- Another channel's controller stands. -/
theorem chanGet_greyChan_ne {d : Nat} (why : Nat) (h : d ≠ c) : chanGet (greyChan s c why) d = chanGet s d := by
  have hchans := greyChan_chans s c why
  split at hchans
  · exact chanGet_congr hchans d
  · rw [chanGet_congr hchans, chanGet_chanPut_ne _ h]

/-- What a controller holds beside the reasons of its GREY is as it was (12 R472). -/
theorem greyChan_keeps {β : Type} (h : Canonical s) {f : Chan → β} {why : Nat} (hf : ∀ x, f (greyed x why) = f x) (c d : Nat) :
    f (chanGet (greyChan s c why) d) = f (chanGet s d) := by
  by_cases e : d = c
  · subst e
    have hchans := greyChan_chans s d why
    split at hchans
    · rw [chanGet_congr hchans]
    · rw [chanGet_congr hchans, chanGet_chanPut_self h, hf]
  · rw [chanGet_greyChan_ne why e]

/-- A channel going GREY is a controller's side (12 R472; 15 R599). -/
theorem greyChan_side (s : State) (c why : Nat) : ControllerSide s (greyChan s c why) := by
  unfold greyChan
  extract_lets st x s1 entry s2 s3
  have h1 : ControllerSide s s1 := by
    show ControllerSide s (if _ then _ else _)
    split <;> rfl
  have h2 : ControllerSide s s2 := by
    show ControllerSide s (if _ then _ else _)
    split
    · exact h1.trans rfl
    · exact h1.trans (greyUnit_side s1 _ _)
  have h3 : ControllerSide s s3 := h2.trans (chanPut_side s2 _ _).controller
  split
  · exact .refl s
  · split
    · exact h3
    · exact h3.trans (report_side _ _ _ _ _ (unitCode_notView _ _ _ (by decide))).chan.controller

/-! ### Corrected reads (12 R463, R466) -/

/-- What a controller leaves as it deals with a unit that it could correct: all but a controller's side, and the entries of every write-combining
buffer. -/
structure Repaired (s t : State) : Prop where
  canon : Canonical t
  side : ControllerSide s t
  wcb : ∀ d, (chanGet t d).wcb = (chanGet s d).wcb

namespace Repaired

theorem refl (h : Canonical s) : Repaired s s := ⟨h, .refl s, fun _ => rfl⟩

/-- What leaves the controllers alone leaves their buffers. -/
theorem kept (h : Repaired s t) (hc : Canonical u) (hs : ControllerSide t u) (e : u.chans = t.chans) : Repaired s u :=
  ⟨hc, h.side.trans hs, fun d => (congrArg Chan.wcb (chanGet_congr e d)).trans (h.wcb d)⟩

/-- A controller put back with the entries it had. -/
theorem chanPut (h : Repaired s t) {x : Chan} (hx : x.wcb = (chanGet t c).wcb) : Repaired s (chanPut t c x) where
  canon := (kept_chanPut (kept_self h.canon)).canon
  side := h.side.trans (chanPut_side t c x).controller
  wcb := fun d => by
    by_cases e : d = c
    · subst e
      rw [chanGet_chanPut_self h.canon]
      exact hx.trans (h.wcb d)
    · rw [chanGet_chanPut_ne x e]
      exact h.wcb d

theorem bump (h : Repaired s t) (a n : Nat) : Repaired s (bump t a n) :=
  h.kept (kept_bump (kept_self h.canon)).canon (bump_side t a n).chan.controller (bump_chans t a n)

theorem event (h : Repaired s t) (a b : Nat) : Repaired s (event t a b) :=
  h.kept (kept_event (kept_self h.canon)).canon (event_side t a b).chan.controller rfl

theorem report (h : Repaired s t) (kind action ty idx detail : Nat) (hty : ty ≠ 7 ∧ ty ≠ 8) :
    Repaired s (report t kind action (unitCode t ty idx) detail) :=
  h.kept (kept_report (kept_self h.canon)).canon (report_side _ _ _ _ _ (unitCode_notView _ _ _ hty)).chan.controller (report_chans ..)

theorem fenceGroup (h : Repaired s t) (c g : Nat) : Repaired s (fenceGroup t c g) := by
  unfold Machine.fenceGroup
  extract_lets x t1 t2 inter
  have h1 : Repaired s t1 := h.chanPut rfl
  have h2 : Repaired s t2 := h1.event _ _
  split
  · exact h
  · have hside := reportFull_side t2 0x55 3 6 (unitCode t2 5 (c * 2048 + g)) (unitCode t2 4 c) inter (if inter then groupSpan g else 0)
      (unitCode_notView _ _ _ (by decide))
    exact h2.kept (kept_snd (kept_reportFull (kept_self h2.canon))).canon hside.chan.controller (by rw [hside])

theorem useSpare (h : Repaired s t) (c r uses : Nat) : Repaired s (useSpare t c r uses) := h.chanPut rfl

theorem rowFailed (h : Repaired s t) (c r : Nat) : Repaired s (rowFailed t c r) := by
  unfold Machine.rowFailed
  extract_lets x uses free g t1
  split
  · exact h.fenceGroup c g
  · split
    · exact ((h.useSpare c r (uses + 1)).event _ 2).report _ _ _ _ _ (by decide)
    · exact (h.fenceGroup c g).useSpare c r 3

theorem greyChan (h : Repaired s t) (c why : Nat) : Repaired s (greyChan t c why) where
  canon := (kept_greyChan (kept_self h.canon)).canon
  side := h.side.trans (greyChan_side t c why)
  wcb := fun d => (greyChan_keeps h.canon (f := Chan.wcb) (fun _ => rfl) c d).trans (h.wcb d)

/-- A corrected read is counted and recorded, and may fail its row or put its channel GREY (12 R463, R465, R466). -/
theorem corrected (h : Repaired s t) (c u n : Nat) : Repaired s (corrected t c u n) := by
  unfold Machine.corrected
  extract_lets t1 t2 x r k lim fails t3 t4
  have h1 : Repaired s t1 := (h.bump _ 1).kept (kept_chanErr (kept_self (h.bump _ 1).canon)).canon (rset_side _ _ _).chan.controller rfl
  have h3 : Repaired s t3 := (h1.report _ _ _ _ _ (by decide)).chanPut rfl
  have h4 : Repaired s t4 := by
    show Repaired s (if fails then _ else _)
    split
    · exact h3.rowFailed c r
    · exact h3
  split
  · exact h4.greyChan c 3
  · exact h4

end Repaired

end Sys2Proof.Machine
end

section
/-! SUPPORT. Reads by a channel's controller of units that decode (12 R448, R452, R453, R461-R463, R473; 09 R347). -/

namespace Sys2Proof.Machine

variable {s t : State} {a c u n len : Nat} {err : List (Nat × Nat)}

/-! ### Places of units (12 R448) -/

/-- The place of a channel-local offset rests on MEM_CFG alone. -/
theorem addrOf_congr (h : rget t regMemCfg = rget s regMemCfg) (c o : Nat) : addrOf t c o = addrOf s c o := by
  unfold addrOf interleaved localBytes fget
  rw [h]

/-- The offset of an HBM address in its channel. -/
theorem chanOf_snd (s : State) (a : Nat) : (chanOf s a).2 =
    if a < interleaved s then a / 256 / 192 * 256 + a % 256 else 2 ^ 31 - localBytes s + (a - interleaved s) % localBytes s :=
  apply_ite Prod.snd _ _ _

/-- A unit begins where its bytes lie: in the same channel, at the same unit. -/
theorem chanOf_unit (s : State) (a : Nat) : (chanOf s (a / 64 * 64)).1 = (chanOf s a).1 ∧
    (chanOf s (a / 64 * 64)).2 / 64 = (chanOf s a).2 / 64 := by
  constructor
  · rw [← chanOf_block s (a / 64 * 64), ← chanOf_block s a]
    congr 3
    omega
  · obtain ⟨w, hw⟩ : ∃ w, localBytes s = 64 * w := ⟨fget s regMemCfg 63 52 * 2 ^ 14, by unfold localBytes; omega⟩
    obtain ⟨i, hi⟩ : ∃ i, interleaved s = 64 * i := ⟨192 * (2 ^ 25 - w), by unfold interleaved; rw [hw]; omega⟩
    rw [chanOf_snd, chanOf_snd, hw, hi]
    by_cases hlt : a < 64 * i
    · rw [if_pos hlt, if_pos (by omega)]
      omega
    · have hbase : (2 ^ 31 - 64 * w : Nat) = 64 * (2 ^ 25 - w) := by omega
      rw [if_neg hlt, if_neg (by omega), hbase, Nat.mul_add_div (by decide), Nat.mul_add_div (by decide), Nat.mod_mul_right_div_self,
        Nat.mod_mul_right_div_self]
      congr 2
      omega

/-! ### Decoding (12 R461-R463) -/

/-- Whether a unit decodes rests on memory and on MEM_CFG. -/
theorem DecodesTo.congr (h : DecodesTo s c u err n) (hmem : t.mem = s.mem) (hcfg : rget t regMemCfg = rget s regMemCfg) : DecodesTo t c u err n := by
  have e : heldUnit t c u = heldUnit s c u := by
    unfold heldUnit
    rw [addrOf_congr hcfg, readBytes_congr hmem]
  unfold DecodesTo at *
  rw [e]
  exact h

/-- The bytes of a unit delivered as they are held: those that wait in the buffer stand in memory too. -/
theorem delivered_held (mask : Nat) (l : List Nat) : (l.zipIdx.map fun (b, j) => if bit mask j then l.getD j 0 else b) = l := by
  refine List.ext_getElem (by simp) fun k hk hl => ?_
  simp [hl]

/-- A unit that decodes to what it holds changes no byte; one that needed no correction changes nothing. -/
theorem decodeUnit_held (hb : (chanGet s c).bad.contains u = false) (hd : DecodesTo s c u err n) (rec : Bool) :
    decodeUnit s c u err rec = (false, if n = 0 then s else corrected s c u n) := by
  unfold DecodesTo heldUnit at hd
  unfold decodeUnit
  dsimp only
  rw [if_neg (by rw [hb]; decide), hd]
  dsimp only
  rw [if_pos (delivered_held _ _)]

/-- The byte errors of a read within one unit are all that unit's. -/
theorem errors_own (herr : ∀ e ∈ err, e.1 < 72) : ((err.filter fun e => e.1 / 72 == 0).map fun e => (e.1 % 72, e.2)) = err := by
  rw [List.filter_eq_self.2 fun e he => beq_iff_eq.2 (Nat.div_eq_of_lt (herr e he))]
  refine (List.map_congr_left (g := id) fun e he => ?_).trans (List.map_id err)
  rw [Nat.mod_eq_of_lt (herr e he)]
  rfl

/-- A span of bytes under one unit of a channel, read with byte errors of that unit alone, where the unit is not known to be bad. -/
structure UnitSpan (s : State) (a len : Nat) (err : List (Nat × Nat)) : Prop where
  pos : 0 < len
  fits : a % 64 + len ≤ 64
  errors : ∀ e ∈ err, e.1 < 72
  good : (chanGet s (chanOf s a).1).bad.contains ((chanOf s a).2 / 64) = false

/-- A read of bytes under a unit that decodes, in any state with the same bytes, controllers and places (12 R452, R461-R463). -/
theorem readUnits_held (h : UnitSpan s a len err) (hd : DecodesTo s (chanOf s a).1 ((chanOf s a).2 / 64) err n) (hmem : t.mem = s.mem)
    (hch : t.chans = s.chans) (hcfg : rget t regMemCfg = rget s regMemCfg) :
    readUnits t a len err = if n = 0 then t else corrected t (chanOf s a).1 ((chanOf s a).2 / 64) n := by
  obtain ⟨hchan, hunit⟩ := chanOf_unit s a
  have hgood : (chanGet t (chanOf s a).1).bad.contains ((chanOf s a).2 / 64) = false := by
    rw [chanGet_congr hch]
    exact h.good
  have hdec := decodeUnit_held hgood (hd.congr hmem hcfg) true
  rw [← hchan, ← hunit, ← errors_own h.errors, ← chanOf_congr hcfg] at hdec
  unfold readUnits
  rw [unitParts_one _ _ _ (by have := h.pos; omega) h.fits]
  simp only [List.zipIdx_cons, List.zipIdx_nil, List.foldl_cons, List.foldl_nil, hdec, Bool.false_eq_true, if_false]
  rw [chanOf_congr hcfg, hchan, hunit]

/-! ### HBM_READ (12 R452, R460-R466; 09 R347) -/

/-- The row that a narrow read starts is counted, where it starts one (09 R347). -/
def startCounted (s : State) (a : Nat) : Option (Nat × Nat) → State
  | some r => countRow s a r.1 r.2 false
  | none => s

/-- A narrow read counts its sectors, and a row's where it starts one. -/
def narrowCounted (s : State) (a len : Nat) : State :=
  let counted := countSectors s (chanOf s a).1 (len / 32)
  startCounted counted a ((rowsAt counted a len).find? fun r => rowHere counted r.1 r.2 == some a)

/-- It changes placement's counts and no register. -/
theorem narrowCounted_side (s : State) (a len : Nat) : CountSide s (narrowCounted s a len) ∧ (narrowCounted s a len).csr = s.csr := by
  have hsec : (countSectors s (chanOf s a).1 (len / 32)).csr = s.csr := by
    unfold countSectors
    split <;> rfl
  have hstart : ∀ (x : State) (o : Option (Nat × Nat)), CountSide x (startCounted x a o) ∧ (startCounted x a o).csr = x.csr := fun x o => by
    cases o with
    | none => exact ⟨.refl x, rfl⟩
    | some r =>
      refine ⟨countRow_count x a r.1 r.2 false, ?_⟩
      show (countRow x a r.1 r.2 false).csr = x.csr
      unfold countRow
      split <;> rfl
  exact ⟨(countSectors_count _ _ _).trans (hstart _ _).1, (hstart _ _).2.trans hsec⟩

/-- A read for no task, of a span outside the spare groups: its counts, the inner code's reports, and the units under it. -/
theorem hbmRead_other {wide : Bool} (ha : space a = .hbm) (hl : 0 < len) (hn : wide = true ∨ narrowSpan a len = true) (hs : spareAt s a len = false)
    (e : ReadErrors) : exec (.hbmRead a len wide e 0) s =
      .next (readUnits (innerReports (if wide then s else narrowCounted s a len) (chanOf s a).1 e.inner) a len e.bytes) := by
  have hgo : ¬(space a ≠ .hbm ∨ len = 0 ∨ (!(wide || narrowSpan a len)) = true) := by
    rw [Bool.not_eq_true', Bool.or_eq_false_iff]
    rintro (h | h | ⟨h1, h2⟩)
    · exact h ha
    · omega
    · rcases hn with hn | hn
      · exact Bool.false_ne_true (h1.symm.trans hn)
      · exact Bool.false_ne_true (h2.symm.trans hn)
  rw [exec_hbmRead, execHbmRead, if_neg hgo, if_neg (show ¬spareAt s a len = true by rw [hs]; exact Bool.false_ne_true)]
  dsimp only
  rw [if_pos rfl]
  unfold narrowCounted
  dsimp only
  generalize List.find? _ _ = found
  cases found <;> rfl

/-- No reports of the inner code change nothing. -/
theorem innerReports_none (s : State) (c : Nat) : innerReports s c 0 = s := by
  unfold innerReports bump
  exact if_pos (.inl rfl)

/-- The inner code's reports are a counter of the channel: they change no byte, no controller and no place of an address (12 R461). -/
theorem innerReports_memory (s : State) (c k : Nat) : SameMemory s (innerReports s c k) :=
  SameMemory.bump (SameMemory.memCfg_ne_ch (o := 0x28) (by decide) (by decide) c) k

end Sys2Proof.Machine
end

section
/-! SUPPORT. A write of any length to HBM units that read well (12 R453-R455; 04 R170). -/

namespace Sys2Proof.Machine

variable {s t : State} {a b n p : Nat} {l : List Byte}

/-! ### Bytes -/

/-- Bytes put one list after another. -/
theorem putBytes_append (s : State) (a : Nat) (l m : List Byte) : putBytes s a (l ++ m) = putBytes (putBytes s a l) (a + l.length) m := by
  induction l generalizing s a with
  | nil => rfl
  | cons x r ih =>
    show putBytes { s with mem := mset _ s.mem a x } (a + 1) (r ++ m) = _
    rw [ih, List.length_cons, Nat.add_assoc, Nat.add_comm 1]
    rfl

/-- A unit that reads well still does once a part at or below it that reads well has been written; beyond the HBM no unit reads badly. -/
theorem unitBad_writePart (h : Canonical s) (hab : a ≤ b) (l : List Byte) (ha : unitBad s a 1 = false) (hb : unitBad s b 1 = false) :
    unitBad (writePart s a l) b 1 = false := by
  by_cases hsp : space b = .hbm
  · rw [space_hbm_iff] at hsp
    exact (noNewBad_writePart h ((space_hbm_iff a).2 (by omega)) l ha).unitBad_false hb
  · exact unitBad_other hsp

/-- The parts of a write, one for each unit (12 R453). -/
def writeParts (s : State) (a : Nat) (l : List Byte) : State :=
  (unitParts (l.length + 1) a l.length).foldl (fun s p => writePart s p.1 ((l.drop (p.1 - a)).take p.2)) s

/-- From any place on, the parts of a write to units that read well lay the rest of its bytes in memory. -/
theorem foldParts_mem {f base : Nat} (h : Canonical s) (hf : n ≤ f) (hl : base ≤ a ∧ a + n = base + l.length)
    (hg : ∀ b, a ≤ b → b < a + n → unitBad s b 1 = false) :
    ((unitParts f a n).foldl (fun s p => writePart s p.1 ((l.drop (p.1 - base)).take p.2)) s).mem = (putBytes s a (l.drop (a - base))).mem := by
  have hdone : ∀ a', base + l.length ≤ a' → l.drop (a' - base) = [] := fun a' _ => List.drop_eq_nil_of_le (by omega)
  induction f generalizing s a n with
  | zero =>
    rw [hdone a (by omega)]
    rfl
  | succ f ih =>
    unfold unitParts
    split
    · rw [hdone a (by omega)]
      rfl
    · extract_lets k
      have hk : k = min n (64 - a % 64) := rfl
      clear_value k
      have hga := hg a (by omega) (by omega)
      have hlen : ((l.drop (a - base)).take k).length = k := by
        rw [List.length_take, List.length_drop]
        omega
      have hsplit : l.drop (a - base) = (l.drop (a - base)).take k ++ l.drop (a + k - base) := by
        rw [show a + k - base = a - base + k by omega, ← List.drop_drop, List.take_append_drop]
      rw [List.foldl_cons, ih (kept_writePart (kept_self h)).canon (by omega) (by omega) fun b h1 h2 =>
        unitBad_writePart h (by omega) _ hga (hg b (by omega) (by omega))]
      rw [putBytes_mem (writePart_mem s a _ hga)]
      conv_rhs => rw [hsplit, putBytes_append, hlen]

/-- Of a write to units that read well memory holds the bytes (12 R453). -/
theorem writeParts_mem (h : Canonical s) (hg : ∀ b, a ≤ b → b < a + l.length → unitBad s b 1 = false) :
    (writeParts s a l).mem = (putBytes s a l).mem := by
  have := foldParts_mem (f := l.length + 1) h (Nat.le_succ _) ⟨Nat.le_refl a, rfl⟩ hg
  rwa [Nat.sub_self, List.drop_zero] at this

/-! ### Generations (04 R170) -/

/-- What becomes of a part raises no generation, whether its unit reads well, is now written whole, or waits. -/
theorem partGens {x y : State} (hx : x.gens = s.gens) (hy : y.gens = s.gens) (good whole : Bool) (cs : List Host.Cell) (a : Nat) (l : List Byte) :
    (if good then putBytes x a l else if whole then putBytes (putCells y cs) a l else y).gens = s.gens := by
  have hput : ∀ (z : State) b m, (putBytes z b m).gens = z.gens := fun z b m => by rw [putBytes_only]
  have hcells : (putCells y cs).gens = y.gens :=
    List.foldlRecOn cs _ (motive := fun z : State => z.gens = y.gens) rfl fun z hz e _ => (hput z e.1 [e.2]).trans hz
  cases good
  · cases whole
    · exact hy
    · exact (hput _ _ _).trans (hcells.trans hy)
  · exact (hput _ _ _).trans hx

/-- Parts written raise no generation: the write does, once for each page. -/
theorem writePart_gens (s : State) (a : Nat) (l : List Byte) : (writePart s a l).gens = s.gens := by
  have hcombine : ∀ c u mask held, (combine s c u mask held).gens = s.gens := fun c u mask held => by rw [combine_side]
  unfold writePart
  exact partGens (hcombine _ _ _ _) (hcombine _ _ _ _) _ _ _ _ _

theorem writeParts_gens (s : State) (a : Nat) (l : List Byte) : (writeParts s a l).gens = s.gens :=
  List.foldlRecOn _ _ (motive := fun x : State => x.gens = s.gens) rfl fun x hx _ _ => (writePart_gens x _ _).trans hx

/-- The generation of a page not among those raised. -/
theorem gens_raiseGens_out {q : List Nat} (hp : p ∉ q) : mget (fun _ => 0) (q.foldl raiseGen s).gens p = mget (fun _ => 0) s.gens p := by
  refine List.foldlRecOn q raiseGen (motive := fun x : State => mget (fun _ => 0) x.gens p = mget (fun _ => 0) s.gens p) rfl fun x hx y hy => ?_
  exact (mget_mset_ne _ fun e => hp (by rwa [e])).trans hx

/-- The generation of a page raised once. -/
theorem gens_raiseGens_in {q : List Nat} (h : mwf (fun _ => 0) s.gens = true) (hnd : q.Nodup) (hp : p ∈ q) :
    mget (fun _ => 0) (q.foldl raiseGen s).gens p = (mget (fun _ => 0) s.gens p + 1) % 65536 := by
  induction q generalizing s with
  | nil => cases hp
  | cons x r ih =>
    obtain ⟨hx, hr⟩ := List.nodup_cons.1 hnd
    rw [List.foldl_cons]
    rcases List.mem_cons.1 hp with rfl | hpr
    · exact (gens_raiseGens_out hx).trans (mget_mset_self h _ _)
    · have hne : p ≠ x := fun e => hx (e ▸ hpr)
      rw [ih (mwf_mset _ _ h) hr hpr]
      exact congrArg (fun g => (g + 1) % 65536) (mget_mset_ne _ hne)

/-- The pages under a span are named once each. -/
theorem pagesOf_nodup (a n : Nat) : (pagesOf a n).Nodup := List.Nodup.map (fun _ _ e => Nat.add_left_cancel e) List.nodup_range

/-! ### HBM_WRITE (12 R450, R453) -/

/-- A write to the HBM that writes something: its parts, and then the pages under it. -/
theorem memWrite_hbm (ha : space a = .hbm) (hl : l ≠ []) : memWrite s a l = (pagesOf a l.length).foldl raiseGen (writeParts s a l) := by
  unfold memWrite
  rw [ha]
  dsimp only
  rw [if_neg (by simpa using hl)]
  rfl

/-- A write for no task outside the spare groups is accepted; one of nothing changes nothing. -/
theorem hbmWrite_other (hp : s.boot.pwrgood = true) (ha : space a = .hbm) (hs : spareAt s a l.length = false) :
    exec (.hbmWrite a l 0) s = .next (if l = [] then s else memWrite s a l) := by
  rw [exec_hbmWrite, execHbmWrite]
  by_cases hl : l = []
  · rw [if_pos (.inr (.inr (by simpa using hl))), if_pos hl]
  · rw [if_neg (by simp [hp, ha, hl]), if_neg hl, hs]
    rfl

/-- A write to units that read well is visible at once, byte for byte, and raises the generation of every page it touches (12 R453; 04 R170). -/
theorem hbmWrite_visible (h : Canonical s) (hp : s.boot.pwrgood = true) (ha : space a = .hbm) (hs : spareAt s a l.length = false)
    (hg : ∀ b, a ≤ b → b < a + l.length → unitBad s b 1 = false) :
    ∃ t, exec (.hbmWrite a l 0) s = .next t ∧ t.harts = s.harts ∧ t.cores = s.cores ∧ t.hit = s.hit ∧
      (∀ b, byteAt t b = if a ≤ b ∧ b < a + l.length then l.getD (b - a) 0 else byteAt s b) ∧
      ∀ p ∈ pagesOf a l.length, l ≠ [] → mget (fun _ => 0) t.gens p = (mget (fun _ => 0) s.gens p + 1) % 65536 := by
  refine ⟨_, hbmWrite_other hp ha hs, ?_⟩
  by_cases hl : l = []
  · subst hl
    exact ⟨rfl, rfl, rfl, fun b => (if_neg (by simp)).symm, fun _ _ h => absurd rfl h⟩
  · rw [if_neg hl]
    have hside := memWrite_side s a l
    refine ⟨by rw [hside], by rw [hside], by rw [hside], fun b => ?_, fun p hpage _ => ?_⟩
    · have hmem : (memWrite s a l).mem = (putBytes s a l).mem := by
        rw [memWrite_hbm ha hl, raiseGens_mem]
        exact writeParts_mem h hg
      rw [byteAt_congr hmem, byteAt_putBytes h.mem]
      split
      · rw [List.getD_eq_getElem]
      · rfl
    · have hgens := writeParts_gens s a l
      rw [memWrite_hbm ha hl, gens_raiseGens_in (by rw [hgens]; exact h.gens) (pagesOf_nodup _ _) hpage, hgens]

end Sys2Proof.Machine
end

section
/-! SUPPORT. Entries that age, time-outs, the patrol scrub, spares in place and a stack's temperature before the first tick (12 R454, R460, R466,
R470-R473). -/

namespace Sys2Proof.Machine

variable {s t : State} {c u n : Nat} {e : WcbEntry} {err : List (Nat × Nat)}

/-! ### WCB_AGE_WRITEBACK (12 R454, R455) -/

/-- A write-back takes the entries of its unit out of the buffer and leaves the others. -/
theorem wcb_writeBack (h : Canonical s) (c : Nat) (e : WcbEntry) :
    (chanGet (writeBack s c e) c).wcb = (chanGet s c).wcb.filter fun x => x.unit ≠ e.unit := by
  have htaken : Canonical (takeEntry s c e.unit) := (kept_takeEntry (kept_self h)).canon
  have hget : (chanGet (takeEntry s c e.unit) c).wcb = (chanGet s c).wcb.filter fun x => x.unit ≠ e.unit :=
    congrArg Chan.wcb (chanGet_chanPut_self h c _)
  by_cases hfull : e.mask = fullMask
  · unfold writeBack
    dsimp only
    rw [if_pos hfull, chanGet_chanPut_self htaken]
    exact hget
  · rw [(SameMemory.writeBack_partial hfull).chanGet_eq]
    exact hget

/-- The entry of a unit is that unit's. -/
theorem wcbOf_unit (h : wcbOf s c u = some e) : e.unit = u := by
  have := List.find?_some (p := fun x : WcbEntry => x.unit == u) h
  exact beq_iff_eq.1 this

/-- An entry that ages, whole, or of a unit that is known to be bad or that decodes: it is written back once the read is dealt with. -/
theorem wcbAge_writesBack (h : Canonical s) (hfind : wcbOf s c u = some e) (inner : Nat)
    (hread : e.mask = fullMask ∨ (chanGet s c).bad.contains u = true ∨ ∃ n, DecodesTo s c u err n) :
    ∃ v, exec (.wcbAgeWriteback c ⟨u, ⟨err, inner⟩⟩) s = .next (writeBack v c e) ∧ Repaired (advance s (e.at_ + 2000)) v := by
  have hunit : e.unit = u := wcbOf_unit hfind
  have hadv : Repaired (advance s (e.at_ + 2000)) (advance s (e.at_ + 2000)) := .refl (kept_advance (kept_self h)).canon
  have hget : chanGet (advance s (e.at_ + 2000)) c = chanGet s c := chanGet_congr (advance_chans _ _) c
  rw [exec_wcbAgeWriteback, execWcbAgeWriteback]
  dsimp only
  rw [hfind]
  dsimp only
  rw [hget, hunit]
  by_cases hskip : e.mask = fullMask ∨ (chanGet s c).bad.contains u = true
  · exact ⟨_, if_pos hskip, hadv⟩
  · rw [if_neg hskip]
    have hgood : (chanGet s c).bad.contains u = false := Bool.eq_false_iff.2 fun hb => hskip (.inr hb)
    obtain ⟨n, hd⟩ : ∃ n, DecodesTo s c u err n := by
      rcases hread with hf | hb | hd
      · exact absurd (.inl hf) hskip
      · exact absurd (.inr hb) hskip
      · exact hd
    have hinner := innerReports_memory (advance s (e.at_ + 2000)) c inner
    have hrep : Repaired (advance s (e.at_ + 2000)) (innerReports (advance s (e.at_ + 2000)) c inner) := hadv.bump _ _
    rw [decodeUnit_held (n := n) (by rw [hinner.chanGet_eq, hget]; exact hgood)
      (hd.congr (hinner.mem.trans (advance_mem _ _)) (hinner.cfg.trans (by unfold rget; rw [advance_csr])))]
    refine ⟨_, rfl, ?_⟩
    split
    · exact hrep
    · exact hrep.corrected c u n

/-- An entry that ages changes no byte where its unit decodes, and leaves its buffer (12 R454). -/
theorem wcbAge_keeps (h : Canonical s) (hfind : wcbOf s c u = some e) (inner : Nat)
    (hread : e.mask = fullMask ∨ (chanGet s c).bad.contains u = true ∨ ∃ n, DecodesTo s c u err n) :
    ∃ t, exec (.wcbAgeWriteback c ⟨u, ⟨err, inner⟩⟩) s = .next t ∧ t.mem = s.mem ∧
      (timeRuns s = true → t.now = max s.now (e.at_ + 2000)) ∧
      (chanGet t c).wcb = (chanGet s c).wcb.filter fun x => x.unit ≠ u := by
  obtain ⟨v, hexec, hv⟩ := wcbAge_writesBack h hfind inner hread
  have hside : ControllerSide (advance s (e.at_ + 2000)) (writeBack v c e) := hv.side.trans (writeBack_side v c e).controller
  refine ⟨_, hexec, hside.mem.trans (advance_mem _ _), fun hruns => ?_, ?_⟩
  · rw [hside.now, advance_now, laterOf_running hruns]
  · have hunit : e.unit = u := wcbOf_unit hfind
    rw [wcb_writeBack hv.canon, hv.wcb, chanGet_congr (advance_chans _ _), hunit]

/-! ### MEM_REQUEST_TIMEOUT (12 R460) -/

/-- A time-out as it is noted and reported. -/
def timeoutNoted (s : State) (c off : Nat) : State :=
  let noted := event (chanErr (bump1 s (regMemChTimeout c)) c 3 0 (off / 64 * 64)) (regMemChEvents c) 1
  report noted 0x52 1 (unitCode noted 4 c) (off / 64 * 64)

theorem timeoutNoted_side (s : State) (c off : Nat) : ReportSide s (timeoutNoted s c off) :=
  (((bump_side s (regMemChTimeout c) 1).trans (rset_side _ _ _)).trans (event_side _ _ _)).trans
    (report_side _ _ _ _ _ (unitCode_notView _ _ _ (by decide)))

theorem timeoutNoted_canonical (h : Canonical s) (c off : Nat) : Canonical (timeoutNoted s c off) :=
  (kept_report (kept_event (kept_chanErr (kept_bump1 (kept_self h))))).canon

/-- A time-out counted on its channel. -/
def timedOut (s : State) (c off : Nat) : State :=
  chanPut (timeoutNoted s c off) c { chanGet (timeoutNoted s c off) c with timeouts := (chanGet (timeoutNoted s c off) c).timeouts + 1 }

/-- The count of a channel's time-outs rises by one. -/
theorem timeouts_timedOut (h : Canonical s) (c off : Nat) : (chanGet (timedOut s c off) c).timeouts = (chanGet s c).timeouts + 1 := by
  have hchans : (timeoutNoted s c off).chans = s.chans := by rw [timeoutNoted_side]
  unfold timedOut
  rw [chanGet_chanPut_self (timeoutNoted_canonical h c off), chanGet_congr hchans]

/-- A write's time-out is counted on its channel, and changes no byte. -/
theorem memRequestTimeout_counts (h : Canonical s) (hc : c < 192) (hp : s.boot.pwrgood = true) (hlate : taskGet s 0 = none ∨ atApply s = false)
    (off : Nat) : ∃ t, exec (.memRequestTimeout c off 0) s = .next t ∧ t.mem = s.mem ∧ (chanGet t c).timeouts = (chanGet s c).timeouts + 1 := by
  have hside : ControllerSide s (timedOut s c off) := (timeoutNoted_side s c off).chan.controller.trans (chanPut_side _ _ _).controller
  have hcanon : Canonical (timedOut s c off) := (kept_chanPut (kept_self (timeoutNoted_canonical h c off))).canon
  have hnot : ¬((taskGet s 0).isSome = true ∧ atApply s = true) := by
    rintro ⟨hs, ha⟩
    rcases hlate with hn | hn
    · rw [hn] at hs
      cases hs
    · exact Bool.false_ne_true (hn.symm.trans ha)
  have hexec : exec (.memRequestTimeout c off 0) s = .next
      (if 8 ≤ (chanGet (timeoutNoted s c off) c).timeouts + 1 then greyChan (timedOut s c off) c 2 else timedOut s c off) := by
    rw [exec_memRequestTimeout, execMemRequestTimeout, powered, if_pos hp, if_neg (by omega), if_neg hnot]
    rfl
  refine ⟨_, hexec, ?_⟩
  split
  · exact ⟨(greyChan_side _ c 2).mem.trans hside.mem,
      (greyChan_keeps hcanon (f := Chan.timeouts) (fun _ => rfl) c c).trans (timeouts_timedOut h c off)⟩
  · exact ⟨hside.mem, timeouts_timedOut h c off⟩

/-! ### PATROL_SCRUB_READ and REMAP_COPY_DONE (12 R466, R473) -/

/-- The scrub as it has moved on to the next unit. -/
def scrubMoved (s : State) (c : Nat) : State := chanPut s c { chanGet s c with scrubPos := ((chanGet s c).scrubPos + 64) % 2 ^ 31 }

/-- The scrub of a unit that needs no correction moves on to the next unit; at the end of a pass the rows' counts restart. -/
theorem patrolScrubRead_moves (h : Canonical s) (hc : c < 192) (hp : s.boot.pwrgood = true)
    (hgood : (chanGet s c).bad.contains ((chanGet s c).scrubPos / 64) = false) (hd : DecodesTo s c ((chanGet s c).scrubPos / 64) [] 0) :
    ∃ t, exec (.patrolScrubRead c ⟨[], 0⟩) s = .next t ∧ t.mem = s.mem ∧ chanGet t c = { chanGet s c with
      scrubPos := ((chanGet s c).scrubPos + 64) % 2 ^ 31
      rowCorr := if ((chanGet s c).scrubPos + 64) % 2 ^ 31 = 0 then [] else (chanGet s c).rowCorr } := by
  have hself : chanGet (scrubMoved s c) c = _ := chanGet_chanPut_self h c _
  have hmoved : Canonical (scrubMoved s c) := (kept_chanPut (kept_self h)).canon
  have hread := decodeUnit_held (s := scrubMoved s c) (u := (chanGet s c).scrubPos / 64) (n := 0)
    (by rw [hself]; exact hgood) (hd.congr rfl rfl) (rowsAt (scrubMoved s c) (addrOf s c (chanGet s c).scrubPos) 64).isEmpty
  have hexec : exec (.patrolScrubRead c ⟨[], 0⟩) s = if ((chanGet s c).scrubPos + 64) % 2 ^ 31 ≠ 0 then .next (scrubMoved s c)
      else .next (bump1 (chanPut (scrubMoved s c) c { chanGet (scrubMoved s c) c with rowCorr := [] }) (regMemChScrub c)) := by
    rw [exec_patrolScrubRead, execPatrolScrubRead, powered, if_pos hp, if_neg (by omega)]
    unfold scrubMoved at hread ⊢
    simp only [innerReports_none, hread, Bool.false_eq_true, if_false, if_true]
  rw [hexec]
  split
  · exact ⟨_, rfl, rfl, hself⟩
  · have hbump : (bump1 (chanPut (scrubMoved s c) c { chanGet (scrubMoved s c) c with rowCorr := [] }) (regMemChScrub c)).chans = _ :=
      bump_chans _ _ 1
    refine ⟨_, rfl, bump_mem .., ?_⟩
    rw [chanGet_congr hbump, chanGet_chanPut_self hmoved, hself, if_pos (not_not.1 ‹_›)]

/-- A copy into a spare that is done makes its entry active. -/
theorem remapCopyDone_activates (s : State) (hc : c < 192) (row : Nat) : exec (.remapCopyDone c row) s = .next (chanPut s c { chanGet s c with
    remap := (chanGet s c).remap.map fun e => if e.row = row then { e with active := true } else e }) := by
  rw [exec_remapCopyDone, execRemapCopyDone]
  exact if_neg (by omega)

/-! ### The channels of a stack (12 R470-R472) -/

/-- What a pass over channels of a stack does: no byte changes, each of them becomes as `R` says, and no other channel changes. -/
structure StackPass (R : Chan → Chan → Prop) (stack : Nat) (l : List Nat) (s t : State) : Prop where
  canon : Canonical t
  mem : t.mem = s.mem
  own : ∀ m ∈ l, R (chanGet s (16 * stack + m)) (chanGet t (16 * stack + m))
  other : ∀ c, (∀ m ∈ l, c ≠ 16 * stack + m) → chanGet t c = chanGet s c

/-- A pass made channel by channel. -/
theorem StackPass.foldl {R : Chan → Chan → Prop} {stack : Nat} {f : State → Nat → State}
    (hf : ∀ s m, Canonical s → StackPass R stack [m] s (f s m)) (h : Canonical s) {l : List Nat} (hnd : l.Nodup) :
    StackPass R stack l s (l.foldl f s) := by
  induction l generalizing s with
  | nil => exact ⟨h, rfl, fun m hm => absurd hm List.not_mem_nil, fun _ _ => rfl⟩
  | cons x r ih =>
    obtain ⟨hx, hr⟩ := List.nodup_cons.1 hnd
    have hfirst := hf s x h
    have hrest := ih hfirst.canon hr
    refine ⟨hrest.canon, hrest.mem.trans hfirst.mem, fun m hm => ?_, fun c hc => ?_⟩
    · rcases List.mem_cons.1 hm with rfl | hmr
      · have hout : chanGet (r.foldl f (f s m)) (16 * stack + m) = chanGet (f s m) (16 * stack + m) :=
          hrest.other _ fun k hk e => hx (by rwa [Nat.add_left_cancel e])
        rw [List.foldl_cons, hout]
        exact hfirst.own m List.mem_cons_self
      · have hin : chanGet (f s x) (16 * stack + m) = chanGet s (16 * stack + m) :=
          hfirst.other _ fun k hk e => hx (by rwa [← List.mem_singleton.1 hk, ← Nat.add_left_cancel e])
        rw [← hin]
        exact hrest.own m hmr
    · exact (hrest.other c fun m hm => hc m (List.mem_cons_of_mem _ hm)).trans
        (hfirst.other c fun m hm => by rw [List.mem_singleton.1 hm]; exact hc x List.mem_cons_self)

/-- One channel changed, and no byte. -/
theorem StackPass.one {R : Chan → Chan → Prop} {stack m : Nat} (hc : Canonical t) (hmem : t.mem = s.mem)
    (hown : R (chanGet s (16 * stack + m)) (chanGet t (16 * stack + m))) (hother : ∀ c, c ≠ 16 * stack + m → chanGet t c = chanGet s c) :
    StackPass R stack [m] s t :=
  ⟨hc, hmem, fun k hk => by rw [List.mem_singleton.1 hk]; exact hown, fun c h => hother c (h m List.mem_cons_self)⟩

/-- A pass after what changes no byte and no controller. -/
theorem StackPass.after {R : Chan → Chan → Prop} {stack : Nat} {l : List Nat} {v : State} (hmem : v.mem = s.mem) (hch : v.chans = s.chans)
    (h : StackPass R stack l v t) : StackPass R stack l s t where
  canon := h.canon
  mem := h.mem.trans hmem
  own := fun m hm => by
    rw [← chanGet_congr hch]
    exact h.own m hm
  other := fun c hc => (h.other c hc).trans (chanGet_congr hch c)

/-- A channel as a reading of its stack leaves it (12 R470, R471). -/
def readChan (x : Chan) (temp : Nat) : Chan :=
  { x with temp := temp, refresh2x := decide (85 < temp), nextCap := capOf x.cap temp, nextGrey := decide (103 ≤ temp) }

/-- The temperature a reading counts as: one that failed counts as 103 °C (12 R470; log entry 62). -/
def readingOf (temp : Nat) : Nat := if temp < 256 then temp else 103

/-- A reading is noted on each channel of its stack. -/
theorem readThermal_pass (h : Canonical s) (stack temp : Nat) :
    StackPass (fun x y => y = readChan x (readingOf temp)) stack (List.range 16) s (readThermal s stack temp) := by
  unfold readThermal
  refine .foldl (fun v m hv => ?_) h List.nodup_range
  exact .one (kept_chanPut (kept_self hv)).canon rfl (chanGet_chanPut_self hv _ _) fun d hd => chanGet_chanPut_ne _ hd

/-- A channel takes the cap that its reading calls for; its temperature and its refresh stand. -/
structure CapTaken (x y : Chan) : Prop where
  cap : y.cap = x.nextCap
  temp : y.temp = x.temp
  refresh : y.refresh2x = x.refresh2x

/-- The action of a reading on each channel of its stack (12 R471, R472). -/
theorem actThermal_pass (h : Canonical s) (stack : Nat) : StackPass CapTaken stack (List.range 16) s (actThermal s stack) := by
  unfold actThermal
  extract_lets c0 s1
  have h1 : Canonical s1 ∧ s1.mem = s.mem ∧ s1.chans = s.chans := by
    show Canonical (if _ then _ else _) ∧ (if _ then _ else _ : State).mem = _ ∧ (if _ then _ else _ : State).chans = _
    split
    · exact ⟨h, rfl, rfl⟩
    · exact ⟨(kept_report (kept_self h)).canon, report_mem .., report_chans ..⟩
  obtain ⟨hc1, hm1, hch1⟩ := h1
  clear_value s1
  refine .after hm1 hch1 (.foldl (fun v m hv => ?_) hc1 List.nodup_range)
  extract_lets c x v1 v2
  have hv1 : Canonical v1 ∧ v1.mem = v.mem ∧ v1.chans = v.chans := by
    show Canonical (if _ then _ else _) ∧ (if _ then _ else _ : State).mem = _ ∧ (if _ then _ else _ : State).chans = _
    split
    · exact ⟨hv, rfl, rfl⟩
    · exact ⟨(kept_event (kept_self hv)).canon, rfl, rfl⟩
  obtain ⟨hcv1, hmv1, hchv1⟩ := hv1
  have hv2 : Canonical v2 := (kept_chanPut (kept_self hcv1)).canon
  have hself : chanGet v2 c = { x with cap := x.nextCap, nextGrey := false } := chanGet_chanPut_self hcv1 c _
  have hother : ∀ d, d ≠ c → chanGet v2 d = chanGet v d := fun d hd => (chanGet_chanPut_ne _ hd).trans (chanGet_congr hchv1 d)
  have htaken : CapTaken (chanGet v c) (chanGet v2 c) := by
    rw [hself]
    exact ⟨rfl, rfl, rfl⟩
  split
  · refine .one (kept_greyChan (kept_self hv2)).canon ((greyChan_side v2 c 1).mem.trans hmv1) ?_ fun d hd =>
      (chanGet_greyChan_ne 1 hd).trans (hother d hd)
    exact ⟨(greyChan_keeps hv2 (f := Chan.cap) (fun _ => rfl) c c).trans htaken.cap,
      (greyChan_keeps hv2 (f := Chan.temp) (fun _ => rfl) c c).trans htaken.temp,
      (greyChan_keeps hv2 (f := Chan.refresh2x) (fun _ => rfl) c c).trans htaken.refresh⟩
  · split
    · refine .one (kept_verifyPass (kept_self hv2)).canon hmv1 ?_ fun d hd => (chanGet_chanPut_ne _ hd).trans (hother d hd)
      have hver : chanGet (verifyPass v2 c) c = { chanGet v2 c with testRun := some ⟨1, 0, false, true⟩ } := chanGet_chanPut_self hv2 c _
      show CapTaken (chanGet v c) (chanGet (verifyPass v2 c) c)
      rw [hver]
      exact ⟨htaken.cap, htaken.temp, htaken.refresh⟩
    · exact .one hv2 hmv1 htaken hother

/-- Before the first tick a reading acts at once, on the sixteen channels of its stack and on no other (12 R470, R471). -/
theorem thermalReadingBringup_acts (h : Canonical s) {stack : Nat} (hp : s.boot.pwrgood = true) (hst : stack < 12) (hrun : s.tsq.running = false)
    (temp : Nat) : ∃ t, exec (.thermalReadingBringup stack temp) s = .next t ∧ t.mem = s.mem ∧
      (∀ c, c / 16 = stack → (chanGet t c).temp = readingOf temp ∧ (chanGet t c).refresh2x = decide (85 < readingOf temp) ∧
        (chanGet t c).cap = capOf (chanGet s c).cap (readingOf temp)) ∧
      ∀ c, c / 16 ≠ stack → chanGet t c = chanGet s c := by
  have hexec : exec (.thermalReadingBringup stack temp) s = .next (actThermal (readThermal s stack temp) stack) := by
    rw [exec_thermalReadingBringup, execThermalReadingBringup, powered, if_pos hp, if_neg (by simp [hrun]; omega)]
  have hread := readThermal_pass h stack temp
  have hact := actThermal_pass hread.canon stack
  refine ⟨_, hexec, hact.mem.trans hread.mem, fun c hc => ?_, fun c hc => ?_⟩
  · obtain ⟨m, hm, rfl⟩ : ∃ m, m ∈ List.range 16 ∧ 16 * stack + m = c := ⟨c % 16, List.mem_range.2 (by omega), by omega⟩
    obtain ⟨hcap, htemp, hrefresh⟩ := hact.own m hm
    rw [hread.own m hm] at hcap htemp hrefresh
    exact ⟨htemp, hrefresh, hcap⟩
  · have hout : ∀ m ∈ List.range 16, c ≠ 16 * stack + m := fun m hm e => hc (by have := List.mem_range.1 hm; omega)
    exact (hact.other c hout).trans (hread.other c hout)

end Sys2Proof.Machine
end

section
/-! SUPPORT. The memory controllers as a whole (12). -/

namespace Sys2Proof.Machine

/-- Settles O41: what each command of a controller changes, by the rules of decoding, of writing and of a stack's channels. -/
theorem memoryControllers : Obligations.MemoryControllers := by
  unfold Obligations.MemoryControllers
  intro s addr len inner ch unit off stack temp row err data h
  refine ⟨?reads, ?writes, rfl, ?channel, fun hp hst hrun => thermalReadingBringup_acts h hp hst hrun temp⟩
  case reads =>
    intro ha hl hfit hsp herr
    dsimp only
    intro hgood
    have hspan : UnitSpan s addr len err := ⟨hl, hfit, herr, hgood⟩
    refine ⟨fun hd => ⟨?_, fun hn => ?_⟩, fun n hd => ?_⟩
    · rw [hbmRead_other ha hl (.inl rfl) hsp, innerReports_none, if_pos rfl, readUnits_held hspan hd rfl rfl rfl, if_pos rfl]
    · obtain ⟨hside, hcsr⟩ := narrowCounted_side s addr len
      have hchans : (narrowCounted s addr len).chans = s.chans := by rw [hside]
      have hcfg : rget (narrowCounted s addr len) regMemCfg = rget s regMemCfg := by rw [rget, hcsr, rget]
      refine ⟨narrowCounted s addr len, ?_, hside.mem, hside.harts, hchans, by rw [hside], hcsr⟩
      rw [hbmRead_other ha hl (.inr hn) hsp, innerReports_none, if_neg Bool.false_ne_true, readUnits_held hspan hd hside.mem hchans hcfg, if_pos rfl]
    · have hrep := innerReports_memory s (chanOf s addr).1 inner
      have hexec := hbmRead_other (wide := true) ha hl (.inl rfl) hsp ⟨err, inner⟩
      rw [if_pos rfl, readUnits_held hspan hd hrep.mem hrep.chans hrep.cfg] at hexec
      have hinner : Repaired s (innerReports s (chanOf s addr).1 inner) := (Repaired.refl h).bump _ _
      refine ⟨_, hexec, ?_⟩
      split
      · exact ⟨hinner.side.mem, hinner.side.harts⟩
      · have hside := (hinner.corrected (chanOf s addr).1 ((chanOf s addr).2 / 64) n).side
        exact ⟨hside.mem, hside.harts⟩
  case writes => exact fun hp ha hsp hgood => hbmWrite_visible h hp ha hsp hgood
  case channel =>
    intro hc
    exact ⟨fun e hfind hread => wcbAge_keeps h hfind inner hread, fun hp hlate => memRequestTimeout_counts h hc hp hlate off,
      fun hp hgood hd => patrolScrubRead_moves h hc hp hgood hd, remapCopyDone_activates s hc row⟩

end Sys2Proof.Machine
end

section
/-! SUPPORT. Retraining, lost channels and tests (12 R465, R472-R476, R482, R483). -/

namespace Sys2Proof.Machine

variable {s t u : State} {c n v failing : Nat} {r : ChanTest}

/-! ### The restore of what a channel held (12 R474; 08 R324) -/

/-- What a restore may change: what a report does, the registry's marks and staging, and the message layer. -/
def RestoreSide (s t : State) : Prop :=
  t = { s with csr := t.csr, rdy := t.rdy, flt := t.flt, pci := t.pci, mgmt := t.mgmt, emb := t.emb, hws := t.hws, plc := t.plc,
               freeCtr := t.freeCtr }

theorem CountSide.restore (h : CountSide s t) : RestoreSide s t := by
  unfold CountSide at h
  unfold RestoreSide
  rw [h]

theorem ViewSide.restore (h : ViewSide s t) : RestoreSide s t := by
  unfold ViewSide ReportSide at h
  unfold RestoreSide
  rw [h]

namespace RestoreSide

theorem refl (s : State) : RestoreSide s s := rfl

theorem trans (h : RestoreSide s t) (k : RestoreSide t u) : RestoreSide s u := by
  unfold RestoreSide at *
  rw [k, h]

theorem mem (h : RestoreSide s t) : t.mem = s.mem := by rw [h]
theorem harts (h : RestoreSide s t) : t.harts = s.harts := by rw [h]
theorem chans (h : RestoreSide s t) : t.chans = s.chans := by rw [h]

end RestoreSide

/-- A row that no source holds. -/
theorem rowLost_restore (s : State) (id x : Nat) : RestoreSide s (rowLost s id x) := by
  unfold rowLost
  extract_lets s1
  have h1 : RestoreSide s s1 := (RestoreSide.trans (t := setMark s id x (some true)) rfl (bump_count _ _ 1).restore).trans rfl
  exact h1.trans (reportFull_view s1 0x71 0 1 _ _ true x).restore

/-- A row staged. -/
theorem stageRestore_restore (s : State) (id x : Nat) (data : List Byte) (reload : Bool) : RestoreSide s (stageRestore s id x data reload) := by
  unfold stageRestore
  extract_lets t old had e s1
  split
  · exact .refl s
  · split <;> rfl

/-- Peers asked one after another. -/
theorem askPeer_restore (k : Nat) (s : State) (id x dev : Nat) : RestoreSide s (askPeer k s id x dev) := by
  induction k generalizing s dev with
  | zero => exact rowLost_restore s id x
  | succ k ih =>
    unfold askPeer
    dsimp only [newTag]
    have hsent : ∀ tag, RestoreSide s (sendTagged { s with hws := { s.hws with tagNext := tag } } 0x01 dev s.hws.tagNext false
        (rowRequest { s with hws := { s.hws with tagNext := tag } } id x s.hws.tagNext)).2 := fun tag =>
      RestoreSide.trans (t := { s with hws := { s.hws with tagNext := tag } }) rfl (sendTagged_count _ _ _ _ _ _).restore
    split
    · exact (hsent _).trans rfl
    · split
      · exact (hsent _).trans (ih _ _)
      · exact (hsent _).trans (rowLost_restore _ _ _)

/-- The first source of a row. -/
theorem restoreRow_restore (s : State) (id x : Nat) : RestoreSide s (restoreRow s id x) := by
  unfold restoreRow
  extract_lets t
  split
  rename_i master _ _ _ _
  clear_value master
  cases master with
  | some m => exact stageRestore_restore _ _ _ _ _
  | none =>
    dsimp only
    split
    · exact stageRestore_restore _ _ _ _ _
    · split
      · exact stageRestore_restore _ _ _ _ _
      · split
        · exact askPeer_restore _ _ _ _ _
        · exact rowLost_restore _ _ _

/-- A row marked. -/
theorem markRow_restore (s : State) (id x : Nat) : RestoreSide s (markRow s id x) := by
  unfold markRow
  split
  · exact .refl s
  · split
    · extract_lets t s1
      split
      · exact .refl s
      · have h1 : RestoreSide s s1 := rfl
        exact h1.trans (reportFull_view s1 0x70 0 3 _ _ false _).restore
    · exact RestoreSide.trans (t := setMark s id x (some false)) rfl (restoreRow_restore _ _ _)

/-- The rows of a channel marked and restored: no byte, no hart and no controller changes. -/
theorem restoreChan_restore (s : State) (c : Nat) : RestoreSide s (restoreChan s c) :=
  List.foldlRecOn _ _ (motive := RestoreSide s) (.refl s) fun t ht x _ => ht.trans (markRow_restore t x.1 x.2)

/-! ### CHANNEL_RETRAIN_DONE (12 R465, R472, R474) -/

/-- A channel that a retraining acts on: GREY for time-outs or corrections, its contents not lost. -/
structure Retraining (s : State) (c : Nat) : Prop where
  lt : c < 192
  grey : rdyState s (idxChan c) = .grey
  cause : (chanGet s c).thermal = false ∨ (chanGet s c).worn = true
  held : (chanGet s c).lost = false

/-- A channel that has been retrained, with its lanes repaired. -/
def retrained (s : State) (c failing : Nat) : State :=
  chanPut s c { chanGet s c with silent := false, worn := false, lanes := (laneRepair failing).1 }

/-- A retrained channel whose contents are lost, as it is recorded (12 R474). -/
def lossRecorded (s : State) (c : Nat) : Nat × State :=
  let noted := event s (regMemChEvents c) 5
  reportFull noted 0x57 4 3 (unitCode noted 4 c) (unitCode noted 4 c) true 0

theorem lossRecorded_side (s : State) (c : Nat) : ReportSide s (lossRecorded s c).2 :=
  ReportSide.trans (t := event s (regMemChEvents c) 5) rfl (reportFull_side _ _ _ _ _ _ _ _ (unitCode_notView _ _ _ (by decide)))

/-- A channel whose contents are lost is restored under its record. -/
def lostRestored (s : State) (c : Nat) : State :=
  restoreChan (chanPut (lossRecorded s c).2 c { chanGet (lossRecorded s c).2 c with
    lost := true, lostSeq := (lossRecorded s c).1, refreshKept := false }) c

/-- What a retraining does: FENCED with a group past repair; else a pass over the contents, or their loss. -/
theorem channelRetrainDone_eq (h : Retraining s c) (kept : Bool) (failing : Nat) : exec (.channelRetrainDone c ⟨kept, failing⟩) s = .next
    (if (laneRepair failing).2 = true then setUnit (retrained s c failing) (idxChan c) .fenced 0
     else if kept = true then
       (if (chanGet s c).thermal = true ∧ 92 ≤ (chanGet s c).temp then retrained s c failing else verifyPass (retrained s c failing) c)
     else lostRestored (retrained s c failing) c) := by
  have hgo : ¬(192 ≤ c ∨ rdyState s (idxChan c) ≠ .grey ∨ ((chanGet s c).thermal = true ∧ (!(chanGet s c).worn) = true) ∨
      (chanGet s c).lost = true) := by
    have hlt := h.lt
    rcases h.cause with hc | hc <;> simp [h.grey, h.held, hc] <;> omega
  rw [exec_channelRetrainDone, execChannelRetrainDone]
  dsimp only
  rw [if_neg hgo]
  split
  · rfl
  · split <;> rfl

/-- A group past repair FENCES the channel. -/
theorem channelRetrainDone_fences (hc : Canonical s) (h : Retraining s c) (hpast : (laneRepair failing).2 = true) (kept : Bool) :
    ∃ t, exec (.channelRetrainDone c ⟨kept, failing⟩) s = .next t ∧ rdyState t (idxChan c) = .fenced ∧ t.mem = s.mem := by
  rw [channelRetrainDone_eq h, if_pos hpast]
  exact ⟨_, rfl, (setUnit_entry (kept_chanPut (kept_self hc)).canon _ _ _).1, by rw [setUnit_side]; rfl⟩

/-- With its contents kept the channel verifies them, unless it is still hot. -/
theorem channelRetrainDone_keeps (hc : Canonical s) (h : Retraining s c) (hpast : (laneRepair failing).2 = false) :
    ∃ t, exec (.channelRetrainDone c ⟨true, failing⟩) s = .next t ∧ t.mem = s.mem ∧ (∀ d, d ≠ c → chanGet t d = chanGet s d) ∧
      chanGet t c = { chanGet s c with
        silent := false, worn := false, lanes := (laneRepair failing).1
        testRun := if (chanGet s c).thermal = true ∧ 92 ≤ (chanGet s c).temp then (chanGet s c).testRun else some ⟨1, 0, false, true⟩ } := by
  have hself := chanGet_chanPut_self hc c { chanGet s c with silent := false, worn := false, lanes := (laneRepair failing).1 }
  rw [channelRetrainDone_eq h, if_neg (by rw [hpast]; decide), if_pos rfl]
  refine ⟨_, rfl, ?_⟩
  split
  · exact ⟨rfl, fun d hd => chanGet_chanPut_ne _ hd, hself⟩
  · refine ⟨rfl, fun d hd => (chanGet_chanPut_ne _ hd).trans (chanGet_chanPut_ne _ hd), ?_⟩
    exact (chanGet_chanPut_self (kept_chanPut (kept_self hc)).canon c _).trans
      (congrArg (fun x : Chan => { x with testRun := some ⟨1, 0, false, true⟩ }) hself)

/-- Without them the channel is LOST, and its rows are restored. -/
theorem channelRetrainDone_loses (hc : Canonical s) (h : Retraining s c) (hpast : (laneRepair failing).2 = false) :
    ∃ t, exec (.channelRetrainDone c ⟨false, failing⟩) s = .next t ∧ (chanGet t c).lost = true ∧ t.mem = s.mem ∧ t.harts = s.harts := by
  rw [channelRetrainDone_eq h, if_neg (by rw [hpast]; decide), if_neg (by decide)]
  have hcanon : Canonical (lossRecorded (retrained s c failing) c).2 := (kept_snd (kept_reportFull (kept_event (kept_chanPut (kept_self hc))))).canon
  have hside := lossRecorded_side (retrained s c failing) c
  have hrestore : RestoreSide _ (lostRestored (retrained s c failing) c) := restoreChan_restore _ c
  refine ⟨_, rfl, ?_, hrestore.mem.trans ?_, hrestore.harts.trans ?_⟩
  · rw [chanGet_congr hrestore.chans, chanGet_chanPut_self hcanon]
  · exact hside.chan.controller.mem
  · exact hside.chan.controller.harts

/-! ### START and ABORT (12 R475, R476, R482, R483) -/

/-- A field of MEM_CH_CTL takes what is written to it (12 R482). -/
theorem fget_patternMode (h : Canonical s) (a v : Nat) : fget (fset s a 7 2 v) a 7 2 = v % 2 ^ 6 := by
  have hlt := rget_lt s a
  unfold fget fset
  rw [rget_rset_self h]
  unfold setBits bits
  omega

/-- Whether a test of a written value may start (12 R475, R476). -/
def StartAllowed (s : State) (c v : Nat) : Prop :=
  modeAllowed s c (bits v 3 2) = true ∧ (chanGet s c).testRun = none ∧ (bits v 3 2 = 2 → bits v 7 4 < 4)

/-- The check that START makes refuses just the tests that may not start. -/
theorem startCheck_iff (s : State) (c v : Nat) : (!modeAllowed s c (bits v 3 2) || (chanGet s c).testRun.isSome ||
    (bits v 3 2 == 2 && decide (4 ≤ bits v 7 4))) = true ↔ ¬StartAllowed s c v := by
  unfold StartAllowed
  cases modeAllowed s c (bits v 3 2) <;> cases (chanGet s c).testRun <;> simp

/-- MEM_CH_CTL with the PATTERN and MODE of a START. -/
def controlTaken (s : State) (c v : Nat) : State := fset s (regMemChCtl c) 7 2 (bits v 7 2)

theorem fget_controlTaken (h : Canonical s) (c v : Nat) : fget (controlTaken s c v) (regMemChCtl c) 7 2 = bits v 7 2 :=
  (fget_patternMode h _ _).trans (Nat.mod_mod _ _)

/-- START of a test that may start. -/
theorem start_begins (hc : c < 192) (ha : StartAllowed s c v) : exec (.start c v) s =
    .next (chanPut (controlTaken s c v) c { chanGet s c with testRun := some ⟨bits v 3 2, bits v 7 4, false, false⟩ }) := by
  rw [exec_start, execStart, if_neg (by omega)]
  exact if_neg (mt (startCheck_iff s c v).1 (not_not.2 ha))

/-- START of a test that may not start takes PATTERN and MODE alone. -/
theorem start_refused (hc : c < 192) (ha : ¬StartAllowed s c v) : exec (.start c v) s = .next (controlTaken s c v) := by
  rw [exec_start, execStart, if_neg (by omega)]
  exact if_pos ((startCheck_iff s c v).2 ha)

/-- ABORT of no test. -/
theorem abort_idle (h : (chanGet s c).testRun = none) : exec (.abort c) s = .next s := by
  rw [exec_abort, execAbort, h]

/-- The state that ABORT stops a test in: a DESTRUCTIVE one leaves its pattern in a free number of units (12 R475). -/
def testStopped (s : State) (c : Nat) (r : ChanTest) : State :=
  let drawn := (drawN s 4).2
  if r.mode = 2 then fillPattern drawn c (if r.clear then Config.freeNat (s.freeCtr + 2) % 4 else r.pattern)
    (Config.freeNat s.freeCtr % (chanUnits + 1))
  else drawn

/-- The unit that ABORT stops a test at, one of the channel's (12 R483). -/
def stoppedAt (s : State) (r : ChanTest) : Nat :=
  if r.mode = 2 ∧ Config.freeNat s.freeCtr % (chanUnits + 1) < chanUnits then Config.freeNat s.freeCtr % (chanUnits + 1)
  else Config.freeNat (s.freeCtr + 1) % chanUnits

theorem stoppedAt_lt (s : State) (r : ChanTest) : stoppedAt s r < chanUnits := by
  unfold stoppedAt
  split
  · exact And.right ‹_›
  · exact Nat.mod_lt _ (by decide)

/-- ABORT stops the test with result 4 at a unit it has reached, and nothing but a DESTRUCTIVE test has written. -/
theorem abort_stops (h : Canonical s) (hc : c < 192) (hr : (chanGet s c).testRun = some r) : ∃ t, exec (.abort c) s = .next t ∧
    (chanGet t c).testRun = none ∧ (chanGet t c).result = 4 ∧ (chanGet t c).position % 64 = 0 ∧ (chanGet t c).position < 2 ^ 31 ∧
    (chanGet t c).fails ≤ (chanGet t c).position / 64 ∧ (r.mode ≠ 2 → t.mem = s.mem ∧ ∀ d, d ≠ c → chanGet t d = chanGet s d) := by
  have hexec : exec (.abort c) s = .next (chanPut (testStopped s c r) c { chanGet (testStopped s c r) c with
      testRun := none, result := 4, position := 64 * stoppedAt s r, fails := Config.freeNat (s.freeCtr + 3) % (stoppedAt s r + 1) }) := by
    rw [exec_abort, execAbort, hr]
    dsimp only
    rw [if_neg (by omega)]
    rfl
  have hcanon : Canonical (testStopped s c r) := by
    have hdrawn : Canonical (drawN s 4).2 := (kept_snd (kept_drawN (kept_self h))).canon
    unfold testStopped
    split
    · exact (kept_fillPattern (kept_self hdrawn)).canon
    · exact hdrawn
  have hat : stoppedAt s r < 2 ^ 25 := stoppedAt_lt s r
  have hfails : Config.freeNat (s.freeCtr + 3) % (stoppedAt s r + 1) < stoppedAt s r + 1 := Nat.mod_lt _ (Nat.succ_pos _)
  refine ⟨_, hexec, ?_⟩
  rw [chanGet_chanPut_self hcanon]
  refine ⟨rfl, rfl, Nat.mul_mod_right _ _, by dsimp only; omega, by dsimp only; omega, fun hm => ?_⟩
  have hdrawn : testStopped s c r = (drawN s 4).2 := if_neg hm
  rw [hdrawn]
  exact ⟨rfl, fun d hd => chanGet_chanPut_ne _ hd⟩

/-! ### CLEAR_LOST and MEM_TEST_COMPLETE (12 R474, R475, R483) -/

/-- CLEAR_LOST of a channel whose contents stand. -/
theorem clearLost_kept (h : (chanGet s c).lost = false) : exec (.clearLost c) s = .next s := by
  rw [exec_clearLost, execClearLost]
  exact if_pos (.inr (.inl (by rw [h]; rfl)))

/-- CLEAR_LOST of a LOST channel fills it with zeros once its record is acknowledged. -/
theorem clearLost_fills (hc : c < 192) (hl : (chanGet s c).lost = true) (hf : clearing (chanGet s c) = false) :
    exec (.clearLost c) s = .next (chanPut s c (if ackPending s (chanGet s c).lostSeq = true then { chanGet s c with clearHeld := true }
      else { chanGet s c with clearHeld := false, testRun := some ⟨2, 0, true, false⟩ })) := by
  rw [exec_clearLost, execClearLost]
  dsimp only
  rw [if_neg (by simp [hl, hf]; omega)]
  split <;> rfl

/-- What a test that has failed nowhere finds. -/
theorem testFindings_none (s : State) (c mode : Nat) : testFindings s c mode ⟨[], []⟩ = s := ite_self s

/-- A test's end with no failure. -/
def testPassed (s : State) (c : Nat) : State :=
  chanPut s c { chanGet s c with
    testRun := none, result := if rdyState s (idxChan c) = .fenced then 3 else 1, fails := 0, position := 2 ^ 31 - 64 }

theorem testOver_passed (s : State) (c : Nat) : testOver s c 0 = testPassed s c := by
  unfold testOver testPassed
  simp only [beq_iff_eq, if_true]

/-- READ_VERIFY that passes, and is no recovery, leaves its result alone. -/
theorem memTestComplete_verified (hr : (chanGet s c).testRun = some r) (hclear : r.clear = false) (hrec : r.recovery = false) (hmode : r.mode = 1) :
    exec (.memTestComplete c ⟨[], []⟩) s = .next (testPassed s c) := by
  rw [exec_memTestComplete, execMemTestComplete, hr]
  simp only [testFindings_none, List.length_nil, testOver_passed, hclear, hrec, hmode]
  rfl

/-- Recovery noted changes the readiness map alone (15 R571). -/
theorem setRecovered_only (s : State) (i : Nat) : setRecovered s i = { s with rdy := (setRecovered s i).rdy } := by
  unfold setRecovered
  dsimp only
  split <;> rfl

/-- A channel written to 0 holds no entry and no bad unit; the rest of its controller stands (12 R474). -/
theorem chanGet_zeroChan_self (h : Canonical s) (c : Nat) : chanGet (zeroChan s c) c = { chanGet s c with
    wcb := [], bad := [], remap := (chanGet s c).remap.map fun e => { e with raw := 0 } } := by
  have hchans : (zeroChan s c).chans = (chanPut s c { chanGet s c with
      wcb := [], bad := [], remap := (chanGet s c).remap.map fun e => { e with raw := 0 } }).chans := by
    unfold zeroChan
    dsimp only
    rw [raiseGens_only]
    rfl
  rw [chanGet_congr hchans, chanGet_chanPut_self h]

/-- A channel that is LOST no more. -/
def foundAgain (s : State) (c : Nat) : State := chanPut s c { chanGet s c with lost := false }

/-- The end of the fill leaves the channel no longer LOST, and its bytes 0. -/
theorem memTestComplete_cleared (h : Canonical s) (hr : (chanGet s c).testRun = some r) (hclear : r.clear = true) :
    ∃ t, exec (.memTestComplete c ⟨[], []⟩) s = .next t ∧ (chanGet t c).lost = false ∧ (chanGet t c).testRun = none ∧
      (chanGet t c).result = (if rdyState s (idxChan c) = .fenced then 3 else 1) ∧
      ∀ a, byteAt t a = if space a = .hbm ∧ (chanOf s a).1 = c then 0 else byteAt s a := by
  have hpassed : Canonical (testPassed s c) := (kept_chanPut (kept_self h)).canon
  have hzero : Canonical (zeroChan (testPassed s c) c) := (kept_zeroChan (kept_self hpassed)).canon
  have hexec : exec (.memTestComplete c ⟨[], []⟩) s = .next (setRecovered (foundAgain (zeroChan (testPassed s c) c) c) (idxChan c)) := by
    rw [exec_memTestComplete, execMemTestComplete, hr]
    simp only [testFindings_none, List.length_nil, testOver_passed, hclear]
    rfl
  have hmap := setRecovered_only (foundAgain (zeroChan (testPassed s c) c) c) (idxChan c)
  have hself : chanGet (setRecovered (foundAgain (zeroChan (testPassed s c) c) c) (idxChan c)) c =
      { chanGet (testPassed s c) c with
        wcb := [], bad := [], remap := (chanGet (testPassed s c) c).remap.map fun e => { e with raw := 0 }, lost := false } := by
    rw [hmap]
    refine (chanGet_chanPut_self hzero c _).trans ?_
    rw [chanGet_zeroChan_self hpassed]
  have hend : chanGet (testPassed s c) c = _ := chanGet_chanPut_self h c _
  refine ⟨_, hexec, ?_⟩
  rw [hself, hend]
  refine ⟨rfl, rfl, rfl, fun a => ?_⟩
  have hmem : (setRecovered (foundAgain (zeroChan (testPassed s c) c) c) (idxChan c)).mem = (zeroChan (testPassed s c) c).mem := by rw [hmap]; rfl
  rw [byteAt_congr hmem, byteAt_zeroChan]
  rfl

/-- Settles O42: what each command of a channel's recovery and of its tests changes. -/
theorem channelTests : Obligations.ChannelTests := by
  unfold Obligations.ChannelTests
  intro s c v failing h hc
  dsimp only
  refine ⟨?retrain, ⟨?starts, ?refuses⟩, abort_idle, fun r hr => abort_stops h hc hr, clearLost_kept, clearLost_fills hc, fun r hr =>
    ⟨memTestComplete_verified hr, memTestComplete_cleared h hr⟩⟩
  case retrain =>
    intro hgrey hcause hheld
    have hret : Retraining s c := ⟨hc, hgrey, hcause, hheld⟩
    exact ⟨channelRetrainDone_fences h hret, fun hpast => ⟨channelRetrainDone_keeps h hret hpast, channelRetrainDone_loses h hret hpast⟩⟩
  case starts =>
    have htaken : Canonical (controlTaken s c v) := (kept_fset (kept_self h)).canon
    exact fun hallowed => ⟨_, start_begins hc hallowed, fget_controlTaken h c v, rfl, chanGet_chanPut_self htaken c _⟩
  case refuses => exact fun hrefused => ⟨_, start_refused hc hrefused, rfl, rfl, fget_controlTaken h c v⟩

end Sys2Proof.Machine
end

section
/-! SUPPORT. The queue: a step at its front, and the run of it whole. -/

namespace Sys2Proof.Machine

variable {s t : State}

/-- Settles O1: the front of the queue is taken away, and the command there executes. -/
theorem frontCommandRuns : Obligations.FrontCommandRuns := by
  unfold Obligations.FrontCommandRuns
  intro c s
  exact step_front rfl

/-- A step on a waiting command answers a next state with the rest of the queue, every map canonical, and is that command's execution. -/
theorem step_takes_front {c : Instr} {r : List Instr} (h : Canonical s) (hp : s.pending = c :: r) :
    ∃ u, step s = .next u ∧ exec c { s with pending := r } = .next u ∧ Canonical u ∧ u.pending = r := by
  have h' : Canonical { s with pending := r } := { h with }
  obtain ⟨u, C, he, hk⟩ := (keptQ_exec (c := c) (kept_self h')).out
  exact ⟨u, (step_front hp).trans he, he, hk.canon, hk.queue⟩

/-- A queue of any length runs to its end, a step for each command and in their order. -/
theorem queue_runs (q : List Instr) (h : Canonical s) (hp : s.pending = q) :
    ∃ t, steps q.length s = .next t ∧ t.pending = [] ∧ execAll q s = .next t ∧ Canonical t := by
  induction q generalizing s with
  | nil => exact ⟨s, rfl, hp, rfl, h⟩
  | cons c r ih =>
    obtain ⟨u, hstep, hexec, hcanon, hrest⟩ := step_takes_front h hp
    obtain ⟨t, hsteps, hdone, hall, hend⟩ := ih hcanon hrest
    refine ⟨t, ?_, hdone, ?_, hend⟩
    · rw [List.length_cons, steps, hstep]
      exact hsteps
    · rw [execAll, hexec]
      exact hall

/-- Settles O4, by induction on the queue. -/
theorem queueRunsInOrder : Obligations.QueueRunsInOrder := by
  unfold Obligations.QueueRunsInOrder
  exact fun s h => queue_runs s.pending h rfl

end Sys2Proof.Machine
end

section
/-! SUPPORT. When a host operation begins (16 R636; 18 R680, R688, R691). -/

namespace Sys2Proof.Machine

variable {s : State} {c : Instr} {req op : Nat} {good : Request → Bool} {f : Request → State} {r : Request}

/-- Every operation of a request starts by one and the same rule (R688, R691). -/
theorem exec_of_opRules (h : opRules c = some (req, op, good)) : ∃ f, exec c s = runOp s req op good f := by
  unfold opRules at h
  split at h
  all_goals cases h
  all_goals exact ⟨_, rfl⟩

/-- A request may start: it is its turn, its units have settled, and DMA is on where it reads a buffer (R636, R680, R688). -/
def HasTurn (s : State) (req op : Nat) (r : Request) : Prop :=
  mayBegin s req r = true ∧ unitsSettled s op = true ∧ (readsAtStart op = true → dmaOn s = true)

/-- A request without its turn is the first branch of the starting rule. -/
theorem hasTurn_iff : ¬(reqOp r ≠ op ∨ (!mayBegin s req r) = true ∨ (!unitsSettled s op) = true ∨
    (readsAtStart op = true ∧ (!dmaOn s) = true)) ↔ reqOp r = op ∧ HasTurn s req op r := by
  simp [HasTurn]

theorem runOp_none (hr : reqGet s req = none) : runOp s req op good f = .next s := by
  unfold runOp
  rw [hr]

theorem runOp_waits (hr : reqGet s req = some r) (h : reqOp r ≠ op ∨ ¬HasTurn s req op r) : runOp s req op good f = .next s := by
  have hwaits := not_iff_not.2 (hasTurn_iff (s := s) (req := req) (op := op) (r := r))
  unfold runOp
  rw [hr]
  exact if_pos (not_not.1 (hwaits.2 (not_and_or.2 h)))

/-- A request with its turn is refused by a unit that is out, then by a broken entry, and else does its operation (R636, R691). -/
theorem runOp_begins (hr : reqGet s req = some r) (hop : reqOp r = op) (ht : HasTurn s req op r) :
    runOp s req op good f = if unitOut s op = true then .next (completeReq s req r 1 0)
      else if decide (4 ≤ fld r.entry 1 1) || !zeroAt r.entry 6 2 || !good r then .next (completeReq s req r 5 7) else .next (f r) := by
  unfold runOp
  rw [hr]
  exact if_neg (hasTurn_iff.2 ⟨hop, ht⟩)

/-- Settles O54: every operation goes through the one starting rule, whose branches are the refusals. -/
theorem requestsBegin : Obligations.RequestsBegin := by
  unfold Obligations.RequestsBegin
  intro s c req op good _ hrule
  obtain ⟨f, hexec⟩ := exec_of_opRules (s := s) hrule
  rw [hexec]
  refine ⟨runOp_none, fun r hr => ⟨runOp_waits hr, ?grey, ?broken, fun st cause => ?kept⟩⟩
  case grey =>
    intro hop ht hout
    rw [runOp_begins hr hop ht, if_pos hout]
  case broken =>
    intro hop ht hout hbad
    rw [runOp_begins hr hop ht, if_neg (Bool.eq_false_iff.1 hout), if_pos]
    rcases hbad with h | h | h <;> simp [h]
  case kept => rw [completeReq_side]; exact ⟨rfl, rfl, rfl, rfl, rfl⟩

end Sys2Proof.Machine
end

section
/-! SUPPORT. Completing a request that the list holds twice (18 R698). -/

namespace Sys2Proof.Machine

/-- A silent request that has asked for its completion. -/
def silentRequest : Request := ⟨0, 0, [], .arbiter, 0, 0, 0, 0, none, none, 0, 0, 0, 0, 0, 0, [], false, true, none, false⟩

/-- A device at reset but for two entries of one REQ_ID in its list of requests. -/
def twinRequests : State := pciMap State.reset fun p => { p with requests := [(5, silentRequest), (5, silentRequest)] }

theorem twinRequests_canonical : Canonical twinRequests := { canonical_reset with }

/-- Its request is silent, has asked for its completion, and waits for no record. -/
theorem twinRequests_asks : reqGet twinRequests 5 = some silentRequest ∧ recordDue twinRequests 5 silentRequest = false := by decide +kernel

/-- The commit takes the first of the two away, and the second is found. -/
theorem twinRequests_stays : reqGet (commitReq twinRequests 5 silentRequest) 5 = some silentRequest := by decide +kernel

/-- Refutes O57: a canonical state may hold two requests of one id, as no map of `Canonical` is the list of requests; the commit of a silent one
takes one away, and the statement has no request of that id left. -/
theorem not_queuesAndCompletions : ¬ Obligations.QueuesAndCompletions := by
  unfold Obligations.QueuesAndCompletions
  intro h
  obtain ⟨hreq, hdue⟩ := twinRequests_asks
  obtain ⟨-, -, -, -, -, -, -, -, -, -, -, hclauses⟩ := h twinRequests 0 0 5 silentRequest twinRequests_canonical (by decide)
  obtain ⟨-, -, -, -, -, hgrant, -⟩ := hclauses hreq
  obtain ⟨-, -, hgone⟩ := hgrant rfl hdue
  cases twinRequests_stays.symm.trans (hgone rfl)

end Sys2Proof.Machine
end

section
/-! SUPPORT. Fault reports open records, and acknowledgements close them (15 R595-R603, R611). -/

namespace Sys2Proof.Machine

variable {s t : State}

/-! ### The first report of a pair (15 R595, R600-R602) -/

/-- What the aggregator has counted as it takes a report: the report itself, and what it names RECOVERED no more (15 R572, R601). -/
def reportCounted (s : State) (subject : Nat) : State :=
  match codeRdy (bump1 s regFltReports) subject with
  | some i => unrecover (bump1 s regFltReports) i
  | none => unrecoverView (bump1 s regFltReports) subject

theorem reportCounted_canonical (h : Canonical s) (subject : Nat) : Canonical (reportCounted s subject) := by
  have k := kept_bump1 (a := regFltReports) (kept_self h)
  unfold reportCounted
  split
  · exact (kept_unrecover k).canon
  · exact (kept_unrecoverView k).canon

/-- What it names leaves the aggregator's lists and the registers as they are. -/
theorem reportCounted_flt (s : State) (subject : Nat) : (reportCounted s subject).flt = s.flt := by
  unfold reportCounted
  split
  · unfold unrecover
    refine List.foldlRecOn _ _ (motive := fun x : State => x.flt = s.flt) (bump_flt _ _ _) fun x hx j _ => ?_
    dsimp only
    split <;> exact hx
  · rw [unrecoverView_only]
    exact bump_flt _ _ _

theorem reportCounted_csr (s : State) (subject : Nat) : (reportCounted s subject).csr = (bump1 s regFltReports).csr := by
  unfold reportCounted
  split
  · exact unrecover_csr _
  · rw [unrecoverView_only]

/-- The next SEQ is not a counter's. -/
theorem reportCounted_head (s : State) (subject : Nat) : rget (reportCounted s subject) regFltHead = rget s regFltHead := by
  rw [rget, reportCounted_csr]
  exact rget_bump_ne 1 (by decide) (by decide)

/-- The first record of a class in a tick leaves the ring and the lists of records as they are, and FLT_HEAD too (15 R602). -/
theorem classSeen_lists (s : State) (c : Nat) : (classSeen s c).flt.ring = s.flt.ring ∧ (classSeen s c).flt.opens = s.flt.opens ∧
    (classSeen s c).flt.pendAck = s.flt.pendAck ∧ rget (classSeen s c) regFltHead = rget s regFltHead := by
  have hhead : ∀ (x : State) b, rget (event x regFltPending b) regFltHead = rget x regFltHead := fun x b => rget_rset_ne _ (by decide)
  unfold classSeen
  split
  · exact ⟨rfl, rfl, rfl, rfl⟩
  · extract_lets f s1
    have h1 : rget s1 regFltHead = rget s regFltHead := hhead _ _
    split
    · rw [rget, (signal_hostSide _ _).only]
      exact ⟨rfl, rfl, rfl, h1⟩
    · exact ⟨rfl, rfl, rfl, h1⟩

/-- A record that asks for no acknowledgement: the next SEQ names it, in its place of the ring, and FLT_HEAD moves on (15 R595). -/
theorem addRecord_opens (h : Canonical s) {r : FaultRec} (hack : r.ackReq = false) :
    (addRecord s r).1 = rget s regFltHead ∧
    pfind (addRecord s r).2.flt.ring (rget s regFltHead % 4096) = some { r with seq := rget s regFltHead } ∧
    (addRecord s r).2.flt.opens = s.flt.opens ∧ (addRecord s r).2.flt.pendAck = s.flt.pendAck ∧
    rget (addRecord s r).2 regFltHead = (rget s regFltHead + 1) % 2 ^ 64 := by
  unfold addRecord
  extract_lets n s1 r1 f m s2 s3
  obtain ⟨hring, hopens, hpend, hhead⟩ := classSeen_lists s2 r1.cls
  rw [if_neg (by rw [show r1.ackReq = false from hack]; exact Bool.false_ne_true)]
  refine ⟨rfl, ?_, hopens, hpend, hhead.trans (rget_rset_self h _ _)⟩
  show pfind (classSeen s2 r1.cls).flt.ring _ = _
  rw [hring]
  exact pfind_pput_self _ _ _

/-- Whether the aggregator writes records: it is up, or GREY since (log 41). -/
def writesRecords (s : State) : Prop := rdyState s 0x39 = .ready ∨ rdyState s 0x39 = .grey

/-- The record that the first report of a pair opens. -/
def opened (s : State) (r : FaultRec) (c : Nat) : Nat × State := addRecord (reportCounted s r.subject) { r with cls := c, witness := 1 }

/-- The first report of a pair in a tick opens a record of its kind's class (15 R600). -/
theorem file_opens {r : FaultRec} {c : Nat} (hup : writesRecords s) (hkind : kindClass r.kind = some c)
    (hfirst : (s.flt.opens.find? fun e => e.1 == r.subject && e.2.1 == r.kind) = none) (hroom : s.flt.opens.length < 1024) :
    file s r = ((opened s r c).1, { (opened s r c).2 with
      flt := { (opened s r c).2.flt with opens := (opened s r c).2.flt.opens ++ [(r.subject, r.kind, (opened s r c).1)] } }) := by
  have hfirst' := hfirst
  rw [← reportCounted_flt s r.subject] at hfirst' hroom
  have hunheld : ¬(rdyState s 0x39 ≠ .ready ∧ rdyState s 0x39 ≠ .grey) := by
    rintro ⟨hr, hg⟩
    exact hup.elim hr hg
  unfold file
  rw [if_neg hunheld]
  show (match kindClass r.kind with
    | none => joinOverflow (reportCounted s r.subject) _ r false
    | some c => match (reportCounted s r.subject).flt.opens.find? _ with
      | some (_, _, n) => (n, witness (reportCounted s r.subject) n)
      | none => if (reportCounted s r.subject).flt.opens.length ≥ 1024 then joinOverflow (reportCounted s r.subject) c r true else _) = _
  rw [hkind]
  dsimp only
  rw [hfirst']
  exact if_neg (Nat.not_le.2 hroom)

/-! ### The instructions -/

/-- A report touches no memory, hart, tick, hitch or task. -/
theorem ViewSide.memory_and_tasks (h : ViewSide s t) : t.mem = s.mem ∧ t.harts = s.harts ∧ t.tsq = s.tsq ∧ t.hit = s.hit ∧ t.sch = s.sch := by
  unfold ViewSide ReportSide at h
  rw [h]
  exact ⟨rfl, rfl, rfl, rfl, rfl⟩

/-- A report as its command gives it. -/
def commandRecord (s : State) (kind cls action subject reporter detail : Nat) : FaultRec :=
  ⟨0, if s.tsq.running then s.tsq.tick else 0, if s.tsq.running then (s.now - s.tsq.tickStart) % 2 ^ 32 else 0,
    kind, cls, action, subject, reporter, 1, false, false, false, false, detail % 2 ^ 160⟩

/-- With power, a report whose fields fit is filed as it is given. -/
theorem faultReport_files {kind cls action subject reporter detail : Nat} (hp : s.boot.pwrgood = true) (hk : kind < 2 ^ 16) (hc : cls < 256)
    (ha : action < 256) (hs : subject < 2 ^ 64) (hr : reporter < 2 ^ 64) : exec (.faultReport kind cls action subject reporter false detail) s =
      .next (file s (commandRecord s kind cls action subject reporter detail)).2 := by
  rw [exec_faultReport, execFaultReport, Nat.mod_eq_of_lt hk, Nat.mod_eq_of_lt hc, Nat.mod_eq_of_lt ha, Nat.mod_eq_of_lt hs,
    Nat.mod_eq_of_lt hr, hp]
  rfl

/-- An acknowledgement on which no channel's clearing waits takes the record off the list alone (15 R603). -/
theorem fltAck_takes {seq : Nat} (hpend : s.flt.pendAck.contains seq = true) (hchans : ∀ c ∈ s.chans, c.2.clearHeld = false) :
    exec (.fltAck seq) s = .next { s with flt := { s.flt with
      pendAck := s.flt.pendAck.filter (· ≠ seq) ++ s.flt.overAck.take 1, overAck := s.flt.overAck.drop 1 } } := by
  have hnone : (s.chans.filter fun c => c.2.clearHeld && c.2.lost && c.2.lostSeq == seq) = [] :=
    List.filter_eq_nil_iff.2 fun c hc => by simp [hchans c hc]
  rw [exec_fltAck, execFltAck, hpend]
  exact congrArg (fun l => Host.Outcome.next (List.foldl (fun s (c : Nat × Chan) => startClear s c.1) _ l)) hnone

/-- Settles O49: a report is held or opens a record, and an acknowledgement takes one off. -/
theorem faultRecords : Obligations.FaultRecords := by
  unfold Obligations.FaultRecords
  intro s kind cls action subject reporter detail seq h hp hk hcl ha hs hr
  have hfiles := faultReport_files (detail := detail) hp hk hcl ha hs hr
  refine ⟨fun hready hgrey => ?held, fun c hup hkind hfirst hroom => ?opens, fun hno => ?unasked, fltAck_takes⟩
  case held =>
    refine ⟨_, { commandRecord s kind cls action subject reporter detail with tick := 0, offNs := 0 }, hfiles, ?_⟩
    rw [file, if_pos ⟨hready, hgrey⟩]
    exact ⟨rfl, rfl, rfl, rfl, rfl⟩
  case opens =>
    have hopens := file_opens (r := commandRecord s kind cls action subject reporter detail) hup hkind hfirst hroom
    have hrec := addRecord_opens (reportCounted_canonical h subject)
      (r := { commandRecord s kind cls action subject reporter detail with cls := c, witness := 1 }) rfl
    rw [reportCounted_head, reportCounted_flt] at hrec
    obtain ⟨hseq, hring, hlist, hpend, hhead⟩ := hrec
    have hkept := (file_view s (commandRecord s kind cls action subject reporter detail)).memory_and_tasks
    rw [hopens] at hkept
    refine ⟨_, { commandRecord s kind cls action subject reporter detail with cls := c, witness := 1, seq := rget s regFltHead }, hfiles, ?_⟩
    rw [hopens]
    refine ⟨hring, rfl, rfl, rfl, rfl, rfl, rfl, hhead, ?_, hpend, hkept⟩
    exact congrArg₂ (fun l n => l ++ [(subject, kind, n)]) hlist hseq
  case unasked =>
    rw [exec_fltAck, execFltAck, hno]
    rfl

end Sys2Proof.Machine
end

section
/-! SUPPORT. The keeper's watchdog, its restart, staged objects, and what ends at its time (15 R593; 17 R657-R673). -/

namespace Sys2Proof.Machine

variable {s t u : State}

/-! ### What the keeper's work may change -/

/-- The keeper's work leaves memory, harts, tasks and the tick as they are. -/
def KeeperSide (s t : State) : Prop :=
  t = { s with csr := t.csr, rdy := t.rdy, flt := t.flt, pci := t.pci, boot := t.boot, keep := t.keep, mgmt := t.mgmt }

theorem KeeperSide.trans (h : KeeperSide s t) (k : KeeperSide t u) : KeeperSide s u := by
  unfold KeeperSide at *
  rw [k, h]

theorem KeeperSide.mem (h : KeeperSide s t) : t.mem = s.mem := by rw [h]
theorem KeeperSide.harts (h : KeeperSide s t) : t.harts = s.harts := by rw [h]
theorem KeeperSide.tsq (h : KeeperSide s t) : t.tsq = s.tsq := by rw [h]

theorem ReportSide.keeper (h : ReportSide s t) : KeeperSide s t := by
  unfold ReportSide at h
  unfold KeeperSide
  rw [h]

theorem UnitSide.keeper (h : UnitSide s t) : KeeperSide s t := by
  unfold UnitSide at h
  unfold KeeperSide
  rw [h]

theorem keepMap_side (s : State) (f : KeepUnit → KeepUnit) : KeeperSide s (keepMap s f) := rfl

theorem mrExtend_side (s : State) (n : Nat) (v : List Byte) : KeeperSide s (mrExtend s n v) := rfl

theorem putInForce_side (s : State) (kind : Nat) (f : FwImage) : KeeperSide s (putInForce s kind f) := rfl

theorem keeperStart_side (s : State) : KeeperSide s (keeperStart s) := rfl

theorem relock_side (s : State) : KeeperSide s (relock s) := by
  rw [relock_only]
  rfl

/-- A rejection is a report about the keeper (17 R658). -/
theorem rejectImage_side (s : State) (kind slot : Nat) : ReportSide s (rejectImage s kind slot) :=
  report_side _ _ _ _ _ (unitCode_notView _ _ _ (by decide))

theorem ReportSide.keep (h : ReportSide s t) : t.keep = s.keep := by rw [h]

theorem setUnit_keep (i : Nat) (st : UnitState) (reason : Nat) : (setUnit s i st reason).keep = s.keep := by rw [setUnit_side]

/-! ### A staged object that is not READY (17 R662) -/

/-- A staged object dropped: its entry is ABSENT. -/
def dropStaged (s : State) (k : Nat) : State :=
  setUnit (keepMap s fun x => { x with staged := pdel x.staged k, named := x.named.filter (· ≠ k) }) (stagedIdx k) .absent 0

theorem dropStaged_side (s : State) (k : Nat) : KeeperSide s (dropStaged s k) := (keepMap_side s _).trans (setUnit_side _ _ _ _).keeper

/-- Dropping what is staged leaves an unlock's scope. -/
theorem discardStaged_side (s : State) : KeeperSide s (discardStaged s) ∧ (discardStaged s).keep.unlockScope = s.keep.unlockScope := by
  refine List.foldlRecOn [2, 3] _ (motive := fun x => KeeperSide s x ∧ x.keep.unlockScope = s.keep.unlockScope) ⟨rfl, rfl⟩ fun x hx k _ => ?_
  split
  · exact hx
  · refine ⟨hx.1.trans (dropStaged_side x k), ?_⟩
    rw [setUnit_keep]
    exact hx.2

/-! ### A restart (15 R593; 17 R662) -/

/-- Relocked, no OBSERVE or BOUNDARY unlock stands (17 R673). -/
theorem relock_scope (s : State) : (relock s).keep.unlockScope ≠ 1 ∧ (relock s).keep.unlockScope ≠ 2 := by
  unfold relock
  split
  · exact ⟨nofun, nofun⟩
  · rename_i h
    exact not_or.1 h

/-- The unlock, the nonce and the SPDM connection have ended, and no restart is under way (01 R43; 17 R671, R673). -/
structure KeeperEnded (k : KeepUnit) : Prop where
  restarting : k.restarting = false
  nonce : k.nonce = none
  spdmStage : k.spdmStage = 0
  spdmVca : k.spdmVca = []
  observe : k.unlockScope ≠ 1
  boundary : k.unlockScope ≠ 2

/-- The nonce, the SPDM connection and the update session end. -/
def connectionEnded (s : State) : State :=
  let s := keepMap s fun k => { k with
    nonce := none, spdmStage := 0, spdmSize := 0, spdmVca := [], spdmCert := [], spdmMeas := [], restarting := false, restartCause := 0 }
  { s with mgmt := { s.mgmt with session := false, transfer := none, verified := [] } }

theorem keeperEnds_eq (s : State) : keeperEnds s = connectionEnded (discardStaged (relock s)) := rfl

theorem connectionEnded_side (s : State) : KeeperSide s (connectionEnded s) := rfl

theorem keeperEnds_ended (s : State) : KeeperEnded (keeperEnds s).keep := by
  rw [keeperEnds_eq]
  have hscope : (connectionEnded (discardStaged (relock s))).keep.unlockScope = _ := (discardStaged_side (relock s)).2
  obtain ⟨hobserve, hboundary⟩ := relock_scope s
  exact ⟨rfl, rfl, rfl, rfl, by rwa [hscope], by rwa [hscope]⟩

theorem keeperEnds_side (s : State) : KeeperSide s (keeperEnds s) :=
  ((relock_side s).trans (discardStaged_side (relock s)).1).trans (connectionEnded_side _)

/-- The staged keeper that a restart for an image starts, if it passes (17 R657). -/
def restartImage (s : State) (staged : Bool) : Option FwImage :=
  match (pfind s.keep.staged 1).map (·.bytes) with
  | some o => if staged && s.keep.restartCause == 2 && objectAccepted s 1 o then some (imageOf o) else none
  | none => none

/-- The ROM puts the staged keeper in force, or rejects it (17 R657, R662). -/
def imageChosen (s : State) (staged : Bool) : State :=
  match restartImage s staged with
  | some f => putInForce s 1 f
  | none => if s.keep.restartCause = 2 then event (rejectImage s 1 2) regKeepEvents 0 else s

/-- The keeper in force is measured (17 R657). -/
def keeperMeasured (s : State) : State :=
  match pfind s.keep.images 1 with
  | some f => mrExtend s 0 f.meas
  | none => s

/-- A staged object taken off the keeper's list. -/
def unstaged (s : State) (comp : Nat) : State := keepMap s fun k => { k with staged := pdel k.staged comp }

theorem unstaged_side (s : State) (comp : Nat) : KeeperSide s (unstaged s comp) := rfl

/-- The keeper that a restart starts. -/
def restarted (s : State) (staged : Bool) : State := unstaged (keeperStart (keeperMeasured (imageChosen s staged))) 1

theorem keeperRestart_restarts (staged : Bool) (h : s.keep.restarting = true) : exec (.keeperRestart staged) s =
    .next (report (keeperEnds (restarted s staged)) 0x90 0 (unitCode (restarted s staged) 11 0) s.keep.restartCause) := by
  have hgo : ¬(!s.keep.restarting) = true := by
    rw [h]
    exact Bool.false_ne_true
  rw [exec_keeperRestart]
  unfold execKeeperRestart
  rw [if_neg hgo]
  rfl

theorem imageChosen_side (s : State) (staged : Bool) : KeeperSide s (imageChosen s staged) := by
  unfold imageChosen
  split
  · exact putInForce_side _ _ _
  · split
    · exact ((rejectImage_side s 1 2).trans (event_side _ _ _)).keeper
    · rfl

theorem keeperMeasured_side (s : State) : KeeperSide s (keeperMeasured s) := by
  unfold keeperMeasured
  split
  · exact mrExtend_side _ _ _
  · rfl

theorem restarted_side (s : State) (staged : Bool) : KeeperSide s (restarted s staged) :=
  (((imageChosen_side s staged).trans (keeperMeasured_side _)).trans (keeperStart_side _)).trans (unstaged_side _ 1)

/-- A restarting keeper restarts: what it ends has ended, and nothing but the keeper's own has changed. -/
theorem keeperRestart_ends (staged : Bool) (h : s.keep.restarting = true) :
    ∃ t, exec (.keeperRestart staged) s = .next t ∧ KeeperEnded t.keep ∧ KeeperSide s t := by
  have hreport := report_side (keeperEnds (restarted s staged)) 0x90 0 (unitCode (restarted s staged) 11 0) s.keep.restartCause
    (unitCode_notView _ _ _ (by decide))
  refine ⟨_, keeperRestart_restarts staged h, ?_, ((restarted_side s staged).trans (keeperEnds_side _)).trans hreport.keeper⟩
  rw [hreport.keep]
  exact keeperEnds_ended _

/-! ### The watchdog (15 R593) -/

/-- The watchdog's mark. -/
def watchdogMark (s : State) : State := keepMap s fun k => { k with restarting := true, restartCause := 1 }

/-- What counting one leaves of the registers rests on the registers alone. -/
theorem bump1_csr_congr (h : t.csr = s.csr) (a : Nat) : (bump1 t a).csr = (bump1 s a).csr := bump_csr_congr h a 1

/-- A keeper that was up and does not restart yet is marked as restarting, and the restart is counted. -/
theorem keeperWatchdog_marks (hp : s.boot.pwrgood = true) (h3 : 3 ≤ stage s) (h15 : stage s ≠ 15) (hr : s.keep.restarting = false) :
    exec .keeperWatchdog s = .next (bump1 (watchdogMark s) regFltKeeperRestart) := by
  have hgo : ¬((!s.boot.pwrgood) = true ∨ stage s < 3 ∨ stage s = 15 ∨ s.keep.restarting = true) := by
    rw [hp, hr]
    rintro (h | h | h | h)
    · cases h
    · exact absurd h3 (Nat.not_le.2 h)
    · exact h15 h
    · cases h
  rw [exec_keeperWatchdog]
  exact if_neg hgo

theorem keeperWatchdog_restarting (hr : s.keep.restarting = true) : exec .keeperWatchdog s = .next s := by
  rw [exec_keeperWatchdog, execKeeperWatchdog, if_pos (.inr (.inr (.inr hr)))]

/-! ### Staged objects (17 R658) -/

/-- A control or service object is staged and being checked, and the keeper does not restart. -/
structure StagedTesting (s : State) (comp : Nat) (f : FwImage) : Prop where
  kind : comp = 2 ∨ comp = 3
  testing : rdyState s (stagedIdx comp) = .testing
  up : s.keep.restarting = false
  staged : pfind s.keep.staged comp = some f

/-- The check of a staged object ends as it should, or the object is dropped. -/
theorem stagedImageVerified_ends {comp : Nat} {f : FwImage} (h : StagedTesting s comp f) (pass : Bool) : exec (.stagedImageVerified comp pass) s =
    if (pass && objectAccepted s comp f.bytes) = true then .next (setUnit s (stagedIdx comp) .ready 0)
    else .next (rejectImage (event (setUnit (unstaged s comp) (stagedIdx comp) .absent 0) regKeepEvents 0) comp 2) := by
  obtain ⟨hkind, htesting, hup, hstaged⟩ := h
  have hgo : ¬((comp ≠ 2 ∧ comp ≠ 3) ∨ rdyState s (stagedIdx comp) ≠ .testing ∨ s.keep.restarting = true) := by
    rw [hup]
    rintro (⟨h2, h3⟩ | h | h)
    · exact hkind.elim h2 h3
    · exact h htesting
    · cases h
  rw [exec_stagedImageVerified, execStagedImageVerified, if_neg hgo, hstaged]
  rfl

/-- A rejected object's entry is ABSENT, and the keeper holds it no more. -/
theorem stagedImageVerified_rejects (hc : Canonical s) {comp : Nat} {f : FwImage} (h : StagedTesting s comp f) :
    ∃ t, exec (.stagedImageVerified comp false) s = .next t ∧ rdyState t (stagedIdx comp) = .absent ∧ t.keep.staged = pdel s.keep.staged comp ∧
      t.mem = s.mem := by
  have habsent := (setUnit_entry (s := unstaged s comp) { hc with } (stagedIdx comp) .absent 0).1
  have hcanon : Canonical (event (setUnit (unstaged s comp) (stagedIdx comp) .absent 0) regKeepEvents 0) :=
    (kept_event (kept_setUnit (kept_keepMap (kept_self hc)))).canon
  have hreport : ReportSide (setUnit (unstaged s comp) (stagedIdx comp) .absent 0) _ := (event_side _ regKeepEvents 0).trans (rejectImage_side _ comp 2)
  refine ⟨_, (stagedImageVerified_ends h false).trans (if_neg Bool.false_ne_true), ?_, ?_, ?_⟩
  · exact (((SameUnits.refl hcanon).report _ _ _ _).state _).trans habsent
  · rw [hreport.keep, setUnit_keep]
    rfl
  · exact (((keepMap_side s _).trans (setUnit_side _ _ _ _).keeper).trans hreport.keeper).mem

theorem stagedImageVerified_passes (hc : Canonical s) {comp : Nat} {f : FwImage} (h : StagedTesting s comp f) (hgood : objectAccepted s comp f.bytes = true) :
    ∃ t, exec (.stagedImageVerified comp true) s = .next t ∧ rdyState t (stagedIdx comp) = .ready ∧ t.keep = s.keep ∧ t.mem = s.mem :=
  ⟨_, (stagedImageVerified_ends h true).trans (if_pos hgood), (setUnit_entry hc _ _ _).1, setUnit_keep _ _ _, (setUnit_side s _ _ _).keeper.mem⟩

/-! ### Nonces and unlocks (17 R671, R673) -/

@[simp] theorem advance_keep (s : State) (e : Nat) : (advance s e).keep = s.keep := by rw [advance_only]

/-- A nonce that ends at an instant. -/
def nonceEnded (s : State) (e : Nat) : State := keepMap (advance s e) fun k => { k with nonce := none }

theorem nonceEnded_spec (s : State) (e : Nat) : (nonceEnded s e).keep = { s.keep with nonce := none } ∧
    (timeRuns s = true → (nonceEnded s e).now = max s.now e) ∧ (nonceEnded s e).mem = s.mem := by
  refine ⟨?_, fun hruns => (advance_now s e).trans (laterOf_running hruns e), advance_mem s e⟩
  show ({ (advance s e).keep with nonce := none } : KeepUnit) = _
  rw [advance_keep]

/-- An OBSERVE or BOUNDARY unlock that ends at an instant. -/
theorem relocked_spec (h : s.keep.unlockScope = 1 ∨ s.keep.unlockScope = 2) (e : Nat) : (relock (advance s e)).keep.unlockScope = 0 ∧
    (timeRuns s = true → (relock (advance s e)).now = max s.now e) ∧ (relock (advance s e)).mem = s.mem := by
  refine ⟨?_, fun hruns => ?_, ?_⟩
  · rw [relock, if_pos (by rwa [advance_keep])]
    rfl
  · rw [relock_only]
    exact (advance_now s e).trans (laterOf_running hruns e)
  · rw [relock_only]
    exact advance_mem s e

/-- Settles O53: the keeper's watchdog and restart, staged objects, and the ends of nonces and unlocks. -/
theorem keeperEvents : Obligations.KeeperEvents := by
  unfold Obligations.KeeperEvents
  intro s comp staged pass hc
  refine ⟨fun hp h3 h15 hr => ?watchdog, keeperWatchdog_restarting, fun hr => ?idle, fun hr => ?restart, fun f hkind htesting hup hstaged => ?staged,
    fun hno => ?untested, fun hno => ?noNonce, fun v at_ hnonce => ?nonce, fun hscope => ?unlock, fun h1 h2 => ?locked⟩
  case watchdog =>
    refine ⟨_, keeperWatchdog_marks hp h3 h15 hr, bump_keep _ _ _, bump_mem _ _ _, ?_⟩
    rw [rget, bump1_csr_congr (t := watchdogMark s) (s := s) rfl, rget]
  case idle => rw [exec_keeperRestart, execKeeperRestart, hr]; rfl
  case restart =>
    obtain ⟨t, ht, hended, hside⟩ := keeperRestart_ends staged hr
    exact ⟨t, ht, hended.restarting, hended.nonce, hended.spdmStage, hended.spdmVca, hended.observe, hended.boundary, hside.mem, hside.harts,
      congrArg (fun q : TsqUnit => (q.running, q.tick, q.tickStart, q.phase, q.stage)) hside.tsq⟩
  case staged =>
    have h : StagedTesting s comp f := ⟨hkind, htesting, hup, hstaged⟩
    exact ⟨stagedImageVerified_passes hc h, stagedImageVerified_rejects hc h⟩
  case untested => rw [exec_stagedImageVerified, execStagedImageVerified, if_pos (.inr (.inl hno))]
  case noNonce => rw [exec_nonceExpiry, execNonceExpiry, hno]
  case nonce =>
    rw [exec_nonceExpiry, execNonceExpiry, hnonce]
    exact ⟨_, rfl, nonceEnded_spec s _⟩
  case unlock =>
    rw [exec_unlockExpiry, execUnlockExpiry, if_pos hscope]
    exact ⟨_, rfl, relocked_spec hscope _⟩
  case locked => rw [exec_unlockExpiry, execUnlockExpiry, if_neg (not_or.2 ⟨h1, h2⟩)]

end Sys2Proof.Machine
end

section
/-! SUPPORT. SPDM, DOE discovery and IDE keys (17 R656, R663-R668). -/

namespace Sys2Proof.Machine

variable {s t : State} {body : List Byte} {c : Instr} {k : Nat}

/-! ### Who is answered (16 R628; 17 R663) -/

/-- An SPDM request: one that needs a stage of the connection, or one that needs none. -/
def SpdmRequest (body : List Byte) (c : Instr) : Prop := c = .getVersion body ∨ c = .spdmUnsupported body ∨ ∃ k, SpdmOf body c k

theorem spdmAnswer_silent (h : rdyState s 0x40 ≠ .ready) (f : State → Out) : spdmAnswer s f = .next s := if_pos h

theorem spdmAnswer_busy (h : rdyState s 0x40 = .ready) (hr : s.keep.restarting = true) (f : State → Out) :
    spdmAnswer s f = respond s (spdmError 3 0) :=
  (if_neg (not_not.2 h)).trans (if_pos hr)

theorem spdmAnswer_up (h : rdyState s 0x40 = .ready) (hr : s.keep.restarting = false) (f : State → Out) : spdmAnswer s f = f s :=
  (if_neg (not_not.2 h)).trans (if_neg (by rw [hr]; exact Bool.false_ne_true))

theorem serveSpdm_version (h : rdyState s 0x40 = .ready) (hr : s.keep.restarting = false) (hv : fld body 0 1 ≠ 0x13) (f : State → Out) :
    serveSpdm s k body f = respond s (spdmError 0x41 0) :=
  (spdmAnswer_up h hr _).trans (if_pos hv)

theorem serveSpdm_early (h : rdyState s 0x40 = .ready) (hr : s.keep.restarting = false) (hv : fld body 0 1 = 0x13) (hk : s.keep.spdmStage < k)
    (f : State → Out) : serveSpdm s k body f = respond s (spdmError 4 0) :=
  (spdmAnswer_up h hr _).trans ((if_neg (not_not.2 hv)).trans (if_pos hk))

/-- The connection has reached a stage, and a request of version 1.3 comes to a keeper that answers (R663). -/
structure Connected (s : State) (body : List Byte) (k : Nat) : Prop where
  ready : rdyState s 0x40 = .ready
  up : s.keep.restarting = false
  version : fld body 0 1 = 0x13
  stage : k ≤ s.keep.spdmStage

theorem Connected.serves (h : Connected s body k) (f : State → Out) : serveSpdm s k body f = f s :=
  (spdmAnswer_up h.ready h.up _).trans ((if_neg (not_not.2 h.version)).trans (if_neg (Nat.not_lt.2 h.stage)))

/-- Each SPDM request that needs a stage is served by one rule (R663). -/
theorem exec_spdmOf (h : SpdmOf body c k) : ∃ f, ∀ s, exec c s = serveSpdm s k body f := by
  rcases h with ⟨rfl, rfl⟩ | ⟨rfl, rfl⟩ | ⟨rfl, rfl⟩ | ⟨rfl, rfl⟩ | ⟨rfl, rfl⟩ | ⟨rfl, rfl⟩ <;> exact ⟨_, fun _ => rfl⟩

/-- Every SPDM request goes through the one rule of who is answered (R663). -/
theorem exec_spdmRequest (h : SpdmRequest body c) : ∃ f, ∀ s, exec c s = spdmAnswer s f := by
  rcases h with rfl | rfl | ⟨k, h⟩
  · exact ⟨_, fun _ => rfl⟩
  · exact ⟨_, fun _ => rfl⟩
  · obtain ⟨f, hexec⟩ := exec_spdmOf h
    exact ⟨_, hexec⟩

theorem spdmRequest_silent (h : SpdmRequest body c) (hdown : rdyState s 0x40 ≠ .ready) : exec c s = .next s := by
  obtain ⟨f, hexec⟩ := exec_spdmRequest h
  exact (hexec s).trans (spdmAnswer_silent hdown f)

theorem spdmRequest_busy (h : SpdmRequest body c) (hready : rdyState s 0x40 = .ready) (hr : s.keep.restarting = true) :
    exec c s = respond s (spdmError 3 0) := by
  obtain ⟨f, hexec⟩ := exec_spdmRequest h
  exact (hexec s).trans (spdmAnswer_busy hready hr f)

theorem spdmUnsupported_answers (hready : rdyState s 0x40 = .ready) (hr : s.keep.restarting = false) :
    exec (.spdmUnsupported body) s = respond s (spdmError 7 (fld body 1 1)) := by
  rw [exec_spdmUnsupported, execSpdmUnsupported, spdmAnswer_up hready hr]

/-- Without a keeper that answers, no key message is taken (16 R628; R668). -/
theorem ideMessage_dropped (h : keeperUp s = false) : ∀ c ∈ [Instr.query body, .keyProg body, .kSetGo body, .kSetStop body], exec c s = .next s := by
  have hdown : (!keeperUp s) = true := by rw [h]; rfl
  simp only [List.forall_mem_cons, exec_query, execQuery, exec_keyProg, execKeyProg, exec_kSetGo, execKSetGo, exec_kSetStop, execKSetStop,
    if_pos hdown, true_and]
  exact List.forall_mem_nil _

theorem keeperUp_of (h : rdyState s 0x40 = .ready) (hr : s.keep.restarting = false) : keeperUp s = true := by
  rw [keeperUp, h, hr]
  rfl

/-! ### The connection (17 R663-R666) -/

theorem getVersion_starts (h : rdyState s 0x40 = .ready) (hr : s.keep.restarting = false) :
    ∃ t, exec (.getVersion body) s = .next t ∧ t.keep.spdmStage = 1 ∧ t.keep.lastResponse = [0x10, 0x04, 0, 0, 0, 1, 0x00, 0x13] ∧
      t.keep.spdmCert = [] ∧ t.keep.spdmMeas = [] ∧ t.mem = s.mem := by
  rw [exec_getVersion, execGetVersion, spdmAnswer_up h hr]
  exact ⟨_, rfl, rfl, rfl, rfl, rfl, rfl⟩

theorem getCapabilities_sizes (h : Connected s body 1) (hlen : 20 ≤ body.length) :
    ∃ t, exec (.getCapabilities body) s = .next t ∧ t.keep.spdmStage = max 2 s.keep.spdmStage ∧ t.keep.spdmSize = fld body 12 4 := by
  rw [exec_getCapabilities, execGetCapabilities, h.serves, if_neg (Nat.not_lt.2 hlen)]
  exact ⟨_, rfl, rfl, rfl⟩

theorem negotiateAlgorithms_agrees (h : Connected s body 2) (hasym : (extLists body).1.contains extAsym = true)
    (hhash : (extLists body).2.contains extHash = true) :
    ∃ t, exec (.negotiateAlgorithms body) s = .next t ∧ t.keep.spdmStage = 3 := by
  have hboth : ¬((!(extLists body).1.contains extAsym) = true ∨ (!(extLists body).2.contains extHash) = true) := by
    rw [hasym, hhash]
    exact not_or.2 ⟨Bool.false_ne_true, Bool.false_ne_true⟩
  rw [exec_negotiateAlgorithms, execNegotiateAlgorithms]
  exact ⟨_, (h.serves _).trans (if_neg hboth), rfl⟩

theorem getDigests_answers (h : Connected s body 3) : ∃ t, exec (.getDigests body) s = .next t ∧
    t.keep.lastResponse = spdmFit s ([0x13, 0x01, 1, 1] ++ shake256 (certChain s)) ∧ t.keep.spdmStage = s.keep.spdmStage := by
  rw [exec_getDigests, execGetDigests, h.serves]
  exact ⟨_, rfl, rfl, rfl⟩

theorem getCertificate_unfit (h : Connected s body 3) (hcert : s.keep.certOk = false) :
    exec (.getCertificate body) s = respond s (spdmError 5 0) := by
  rw [exec_getCertificate, execGetCertificate, h.serves]
  exact if_pos (by rw [hcert]; rfl)

/-- The bytes of the chain that a request gets (R666). -/
def chainPart (s : State) (body : List Byte) : Nat := min (fld body 6 2) ((certChain s).length - fld body 4 2)

theorem getCertificate_answers (h : Connected s body 3) (hcert : s.keep.certOk = true) (hslot : fld body 2 1 % 16 = 0)
    (hoff : fld body 4 2 < (certChain s).length) : ∃ t, exec (.getCertificate body) s = .next t ∧
      t.keep.lastResponse = spdmFit s ([0x13, 0x02, 0, 0] ++ natLe 2 (chainPart s body) ++
        natLe 2 ((certChain s).length - fld body 4 2 - chainPart s body) ++ ((certChain s).drop (fld body 4 2)).take (chainPart s body)) := by
  have hgood : ¬(!s.keep.certOk) = true := by rw [hcert]; exact Bool.false_ne_true
  have hin : ¬(fld body 2 1 % 16 ≠ 0 ∨ (certChain s).length ≤ fld body 4 2) := not_or.2 ⟨not_not.2 hslot, Nat.not_le.2 hoff⟩
  rw [exec_getCertificate, execGetCertificate, h.serves, if_neg hgood, if_neg hin]
  exact ⟨_, rfl, rfl⟩

/-! ### Challenges and measurements (17 R656, R666, R667) -/

theorem challenge_unspecified (h : Connected s body 3) (hbad : s.keep.certOk = false ∨ s.keep.lifecycle = 3) :
    exec (.challenge body) s = respond s (spdmError 5 0) := by
  rw [exec_challenge, execChallenge, h.serves]
  exact if_pos (hbad.imp_left fun hc => by rw [hc]; rfl)

/-- A challenge may be answered: the certificate fits, and the life cycle is not RMA. -/
theorem challenge_allowed (hcert : s.keep.certOk = true) (hlife : s.keep.lifecycle ≠ 3) : ¬((!s.keep.certOk) = true ∨ s.keep.lifecycle = 3) := by
  rw [hcert]
  exact not_or.2 ⟨Bool.false_ne_true, hlife⟩

theorem challenge_misformed (h : Connected s body 3) (hcert : s.keep.certOk = true) (hlife : s.keep.lifecycle ≠ 3) (hlen : body.length ≠ 44) :
    exec (.challenge body) s = respond s (spdmError 1 0) := by
  rw [exec_challenge, execChallenge, h.serves, if_neg (challenge_allowed hcert hlife)]
  exact if_pos (.inl hlen)

/-- A state that has drawn random numbers. -/
def drawnOn (s : State) (n : Nat) : State := { s with freeCtr := n }

theorem spdmFit_drawn (s : State) (n : Nat) (b : List Byte) : spdmFit (drawnOn s n) b = spdmFit s b := rfl

theorem measBlock_drawn (s : State) (n i : Nat) : measBlock (drawnOn s n) i = measBlock s i := rfl

/-- A signature has the length of ML-DSA-87's, and draws one random number (R666). -/
theorem spdmSign_spec (s : State) (context : String) (transcript : List Byte) :
    (spdmSign s context transcript).1.length = 4627 ∧ (spdmSign s context transcript).2 = drawnOn s (s.freeCtr + 1) := by
  unfold spdmSign
  dsimp only [draw]
  exact ⟨by rw [List.length_map, List.length_range], rfl⟩

/-- The answer to a challenge that asks for no measurements, without its signature. -/
def challengeAuth (s : State) (body : List Byte) : List Byte :=
  [0x13, 0x03, 0, 1] ++ shake256 (certChain s) ++ randomBytes s.freeCtr 32 ++ natLe 2 0 ++ (body.drop 36).take 8

/-- The signature under that answer. -/
def challengeSigned (s : State) (body : List Byte) : List Byte × State :=
  spdmSign (drawnOn s (s.freeCtr + 1)) "responder-challenge_auth signing" (s.keep.spdmVca ++ s.keep.spdmCert ++ body ++ challengeAuth s body)

theorem challengeSigned_spec (s : State) (body : List Byte) :
    (challengeSigned s body).1.length = 4627 ∧ (challengeSigned s body).2 = drawnOn s (s.freeCtr + 2) := spdmSign_spec _ _ _

/-- A transcript that has been signed starts afresh. -/
def transcriptsCleared (s : State) : State := keepMap s fun k => { k with spdmCert := [], spdmMeas := [] }

theorem challenge_signs (h : Connected s body 3) (hcert : s.keep.certOk = true) (hlife : s.keep.lifecycle ≠ 3) (hlen : body.length = 44)
    (hslot : fld body 2 1 % 16 = 0) (hsum : fld body 3 1 = 0) : exec (.challenge body) s =
      respond (transcriptsCleared (drawnOn s (s.freeCtr + 2))) (spdmFit s (challengeAuth s body ++ (challengeSigned s body).1)) := by
  rw [← spdmFit_drawn s (s.freeCtr + 2), ← (challengeSigned_spec s body).2]
  have hform : ¬(body.length ≠ 44 ∨ fld body 2 1 % 16 ≠ 0 ∨ (!((0 : Nat) == 0 || (0 : Nat) == 1 || (0 : Nat) == 0xFF)) = true) :=
    not_or.2 ⟨not_not.2 hlen, not_or.2 ⟨not_not.2 hslot, Bool.false_ne_true⟩⟩
  rw [exec_challenge, execChallenge, h.serves, if_neg (challenge_allowed hcert hlife), hsum, if_neg hform]
  unfold challengeSigned challengeAuth
  simp only [if_true, List.append_nil]
  rfl

theorem measBlocks_one {i : Nat} (h1 : 1 ≤ i) (h10 : i ≤ 10) : measBlocks i = [i] := by
  rw [measBlocks, if_neg (by omega), if_pos ⟨h1, h10⟩]

theorem getMeasurements_misformed (h : Connected s body 3) (hsign : bit (fld body 2 1) 0 = false) (hlen : body.length ≠ 12) :
    exec (.getMeasurements body) s = respond s (spdmError 1 0) := by
  rw [exec_getMeasurements, execGetMeasurements, h.serves, hsign]
  exact if_pos (.inl hlen)

/-- One block asked for without a signature: the answer, with the number of the draw. -/
def oneBlock (s : State) (body : List Byte) (i : Nat) : List Byte :=
  [0x13, 0x60, 0, 0] ++ natLe 1 1 ++ natLe 3 (measBlock s i).length ++ measBlock s i ++ randomBytes s.freeCtr 32 ++ natLe 2 0 ++ (body.drop 4).take 8

theorem getMeasurements_answers (h : Connected s body 3) (hsign : bit (fld body 2 1) 0 = false) (hlen : body.length = 12)
    (h1 : 1 ≤ fld body 3 1) (h10 : fld body 3 1 ≤ 10) :
    ∃ t, exec (.getMeasurements body) s = .next t ∧ t.keep.spdmCert = s.keep.spdmCert ∧ t.mem = s.mem ∧
      t.keep.lastResponse = spdmFit s (oneBlock s body (fld body 3 1)) := by
  rw [exec_getMeasurements, execGetMeasurements, h.serves]
  dsimp only
  rw [hsign, measBlocks_one h1 h10]
  generalize fld body 3 1 = i at *
  have hop : i ≠ 0 := by omega
  have hform : ¬(body.length ≠ (if false = true then 45 else 12) ∨ (false = true ∧ fld body 36 1 % 16 ≠ 0) ∨ (i ≠ 0 ∧ ([i] : List Nat).isEmpty = true)) := by
    rintro (h | ⟨h, _⟩ | ⟨_, h⟩)
    · exact h hlen
    · cases h
    · cases h
  rw [if_neg hform, if_neg hop, List.flatMap_singleton]
  refine ⟨_, rfl, rfl, rfl, ?_⟩
  have hhead : ([0x13, 0x60] ++ natLe 1 0 ++ [0] : List Byte) = [0x13, 0x60, 0, 0] := by decide
  rw [hhead]
  show spdmFit (drawnOn s (s.freeCtr + 1)) ([0x13, 0x60, 0, 0] ++ natLe 1 1 ++ natLe 3 (measBlock (drawnOn s (s.freeCtr + 1)) i).length ++
    measBlock (drawnOn s (s.freeCtr + 1)) i ++ randomBytes s.freeCtr 32 ++ natLe 2 0 ++ (body.drop 4).take 8) = _
  rw [spdmFit_drawn, measBlock_drawn]
  rfl

/-! ### IDE keys (17 R668) -/

theorem query_answers (h : keeperUp s = true) : ∃ t, exec (.query body) s = .next t ∧ t.keep.ide = s.keep.ide ∧ t.keep.lastResponse.take 3 = [0, 1, 0] := by
  rw [exec_query, execQuery, h]
  exact ⟨_, rfl, rfl, rfl⟩

/-- The place of the key that a message names. -/
def keyPlace (body : List Byte) : Nat := 8 * (ideKey body).1 + (ideKey body).2

theorem keyProg_programs (h : keeperUp s = true) (hform : ideForm body 48 = 0) : ∃ t, exec (.keyProg body) s = .next t ∧
    t.keep.ide = { s.keep.ide with keys := pput s.keep.ide.keys (keyPlace body) (body.drop 8), insecure := false } := by
  rw [exec_keyProg, execKeyProg, h, hform]
  exact ⟨_, rfl, rfl⟩

theorem keyProg_misformed (h : keeperUp s = true) (hform : ideForm body 48 ≠ 0) : ∃ t, exec (.keyProg body) s = .next t ∧ t.keep.ide = s.keep.ide := by
  have hup : ¬(!keeperUp s) = true := by rw [h]; exact Bool.false_ne_true
  rw [exec_keyProg, execKeyProg, if_neg hup]
  dsimp only
  rw [if_pos hform]
  exact ⟨_, rfl, rfl⟩

/-- A bit set in a mask is set. -/
theorem bit_orBit (m i : Nat) : bit (orBit m i) i = true := by
  unfold orBit
  split
  · assumption
  · rename_i h
    rw [bit_eq_testBit] at h ⊢
    rw [Nat.add_comm, Nat.testBit_two_pow_add_eq]
    simpa using h

/-- A bit taken off a mask is clear. -/
theorem bit_cleared (m i : Nat) : bit (if bit m i = true then m - 2 ^ i else m) i = false := by
  split
  · rename_i h
    rw [bit_eq_testBit] at h ⊢
    have hge : 2 ^ i ≤ m := Nat.ge_two_pow_of_testBit h
    have hsplit := Nat.testBit_two_pow_add_eq (m - 2 ^ i) i
    rw [Nat.add_sub_cancel' hge, h] at hsplit
    simpa using hsplit.symm
  · exact Bool.eq_false_iff.2 ‹_›

theorem kSetGo_goes {key : List Byte} (h : keeperUp s = true) (hform : ideForm body 8 = 0) (hkey : pfind s.keep.ide.keys (keyPlace body) = some key)
    (hset : (ideKey body).1 = 0) : ∃ t, exec (.kSetGo body) s = .next t ∧ bit t.keep.ide.run0 (ideKey body).2 = true ∧
      bit t.keep.ide.run1 (ideKey body).2 = false ∧ t.keep.ide.keys = s.keep.ide.keys := by
  have hup : ¬(!keeperUp s) = true := by rw [h]; exact Bool.false_ne_true
  have hgo : ideForm body 8 = 0 ∧ (pfind s.keep.ide.keys (8 * (ideKey body).1 + (ideKey body).2)).isSome = true :=
    ⟨hform, by rw [show pfind s.keep.ide.keys (8 * (ideKey body).1 + (ideKey body).2) = some key from hkey]; rfl⟩
  rw [exec_kSetGo, execKSetGo, if_neg hup]
  dsimp only
  rw [decide_eq_true hgo, hset]
  exact ⟨_, rfl, bit_orBit _ _, bit_cleared _ _, rfl⟩

theorem kSetStop_stops (h : keeperUp s = true) (hform : ideForm body 8 = 0) (hset : (ideKey body).1 = 0) :
    ∃ t, exec (.kSetStop body) s = .next t ∧ bit t.keep.ide.run0 (ideKey body).2 = false ∧ t.keep.ide.run1 = s.keep.ide.run1 ∧
      t.keep.ide.keys = pdel s.keep.ide.keys (keyPlace body) := by
  have hup : ¬(!keeperUp s) = true := by rw [h]; exact Bool.false_ne_true
  rw [exec_kSetStop, execKSetStop, if_neg hup, keyPlace]
  dsimp only
  rw [if_neg (not_not.2 hform), hset]
  exact ⟨_, rfl, bit_cleared _ _, rfl, rfl⟩

theorem kSetStop_misformed (h : keeperUp s = true) (hform : ideForm body 8 ≠ 0) : ∃ t, exec (.kSetStop body) s = .next t ∧ t.keep.ide = s.keep.ide := by
  have hup : ¬(!keeperUp s) = true := by rw [h]; exact Bool.false_ne_true
  rw [exec_kSetStop, execKSetStop, if_neg hup]
  dsimp only
  rw [if_pos hform]
  exact ⟨_, rfl, rfl⟩

theorem ideIntegrityFail_insecure (hc : Canonical s) (hp : s.boot.pwrgood = true) : ∃ t, exec .ideIntegrityFail s = .next t ∧
    t.keep.ide.insecure = true ∧ t.keep.ide.keys = [] ∧ t.keep.ide.run0 = 0 ∧ t.keep.ide.run1 = 0 ∧ bit (rget t regKeepEvents) 4 = true ∧ t.mem = s.mem := by
  rw [exec_ideIntegrityFail, execIdeIntegrityFail, powered_on hp]
  exact ⟨_, rfl, rfl, rfl, rfl, rfl, bit_event_self (kept_keepMap (kept_self hc)).canon (by decide), rfl⟩

/-! ### Discovery, and the whole (17 R663) -/

theorem doeDiscovery_silent (h : rdyState s 0x40 ≠ .ready) : exec (.doeDiscovery body) s = .next s := if_pos h

theorem doeDiscovery_itself (h : rdyState s 0x40 = .ready) (h0 : fld body 0 1 = 0) :
    exec (.doeDiscovery body) s = respond s [0x01, 0x00, 0x00, 0x01] := by
  rw [exec_doeDiscovery, execDoeDiscovery, if_neg (not_not.2 h), h0]
  rfl

theorem doeDiscovery_cma (h : rdyState s 0x40 = .ready) (h1 : fld body 0 1 = 1) :
    exec (.doeDiscovery body) s = respond s [0x01, 0x00, 0x01, 0x00] := by
  rw [exec_doeDiscovery, execDoeDiscovery, if_neg (not_not.2 h), h1]
  rfl

/-- Settles O60: who is answered, and each request of a connection and of the IDE stream. -/
theorem attestation : Obligations.Attestation := by
  unfold Obligations.Attestation
  intro s body hc
  dsimp only
  have hversion : SpdmRequest body (.getVersion body) := .inl rfl
  have hother : SpdmRequest body (.spdmUnsupported body) := .inr (.inl rfl)
  have hstaged : ∀ c k, SpdmOf body c k → SpdmRequest body c := fun c k hof => .inr (.inr ⟨k, hof⟩)
  refine ⟨fun hdown => ⟨fun c k hof => spdmRequest_silent (hstaged c k hof) hdown, ?dropped⟩,
    fun hready hr => ⟨spdmRequest_busy hversion hready hr, spdmRequest_busy hother hready hr, fun c k hof => spdmRequest_busy (hstaged c k hof) hready hr, ?keys⟩,
    fun hready hr => ?up, ideIntegrityFail_insecure hc, doeDiscovery_itself, doeDiscovery_cma⟩
  case dropped =>
    have hkeeper : keeperUp s = false := by simp [keeperUp, hdown]
    have hide := ideMessage_dropped (body := body) hkeeper
    simp only [List.forall_mem_cons] at hide ⊢
    obtain ⟨hquery, hprog, hgo, hstop, hnil⟩ := hide
    exact ⟨spdmRequest_silent hversion hdown, spdmRequest_silent hother hdown, doeDiscovery_silent hdown, hquery, hprog, hgo, hstop, hnil⟩
  case keys =>
    have hide := ideMessage_dropped (s := s) (body := body) (by simp [keeperUp, hr])
    simp only [List.forall_mem_cons] at hide
    obtain ⟨hquery, hprog, hgo, hstop, -⟩ := hide
    exact ⟨hquery, hprog, hgo, hstop⟩
  case up =>
    have hup := keeperUp_of hready hr
    refine ⟨getVersion_starts hready hr, fun hv c k hof => ?version, fun hv c k hof hk => ?early, spdmUnsupported_answers hready hr,
      fun hv hk hlen => getCapabilities_sizes ⟨hready, hr, hv, hk⟩ hlen, fun hv hk => negotiateAlgorithms_agrees ⟨hready, hr, hv, hk⟩,
      fun hv hk => ?connected, query_answers hup, keyProg_programs hup, keyProg_misformed hup, fun key hform hkey hset => kSetGo_goes hup hform hkey hset,
      kSetStop_stops hup, kSetStop_misformed hup⟩
    case version =>
      obtain ⟨f, hexec⟩ := exec_spdmOf hof
      exact (hexec s).trans (serveSpdm_version hready hr hv f)
    case early =>
      obtain ⟨f, hexec⟩ := exec_spdmOf hof
      exact (hexec s).trans (serveSpdm_early hready hr hv hk f)
    case connected =>
      have h : Connected s body 3 := ⟨hready, hr, hv, hk⟩
      refine ⟨getDigests_answers h, getCertificate_unfit h, challenge_unspecified h, challenge_misformed h, getCertificate_answers h,
        fun hcert hlife hlen hslot hsum => ?signed, getMeasurements_misformed h, fun hsign hlen h1 h10 => ?block⟩
      case signed =>
        exact ⟨_, s.freeCtr, (challengeSigned s body).1, challenge_signs h hcert hlife hlen hslot hsum, rfl, rfl, (challengeSigned_spec s body).1, rfl, rfl⟩
      case block =>
        obtain ⟨t, ht, hcertLog, hmem, hlast⟩ := getMeasurements_answers h hsign hlen h1 h10
        exact ⟨t, s.freeCtr, ht, hcertLog, hmem, hlast⟩

end Sys2Proof.Machine
end

section
/-! SUPPORT. The fields of a register as bits: what a field reads after it, or another one of its register, has been set (00 R10). -/

namespace Sys2Proof.Machine

variable {s : State} {n v hi lo i : Nat}

/-- The bits of a field. -/
theorem testBit_bits (n hi lo i : Nat) : (bits n hi lo).testBit i = (decide (i < hi + 1 - lo) && n.testBit (lo + i)) := by
  rw [bits, Nat.testBit_mod_two_pow, Nat.testBit_div_two_pow, Nat.add_comm lo i]

/-- The bits of a number one field of which has been set. -/
theorem testBit_setBits (h : lo ≤ hi + 1) :
    (setBits n hi lo v).testBit i = if lo ≤ i ∧ i ≤ hi then v.testBit (i - lo) else n.testBit i := by
  have hfield : v % 2 ^ (hi + 1 - lo) < 2 ^ (hi + 1 - lo) := Nat.mod_lt _ (Nat.two_pow_pos _)
  have hlow : n % 2 ^ lo < 2 ^ lo := Nat.mod_lt _ (Nat.two_pow_pos _)
  have htop : 2 ^ (hi + 1) = 2 ^ (hi + 1 - lo) * 2 ^ lo := by rw [← Nat.pow_add, Nat.sub_add_cancel h]
  have hsplit : setBits n hi lo v = 2 ^ lo * (2 ^ (hi + 1 - lo) * (n / 2 ^ (hi + 1)) + v % 2 ^ (hi + 1 - lo)) + n % 2 ^ lo := by
    rw [setBits]
    conv_lhs => rw [Nat.mul_comm (n / 2 ^ (hi + 1)) (2 ^ (hi + 1))]
    conv_lhs => rw [show 2 ^ (hi + 1) * (n / 2 ^ (hi + 1)) = 2 ^ lo * (2 ^ (hi + 1 - lo) * (n / 2 ^ (hi + 1))) by
      rw [← Nat.mul_assoc, Nat.mul_comm (2 ^ lo), ← htop]]
    rw [Nat.mul_add, Nat.mul_comm (v % 2 ^ (hi + 1 - lo))]
  rw [hsplit, Nat.testBit_two_pow_mul_add _ hlow]
  by_cases hlo : i < lo
  · rw [if_pos hlo, if_neg (by omega), Nat.testBit_mod_two_pow, decide_eq_true hlo, Bool.true_and]
  · rw [if_neg hlo, Nat.testBit_two_pow_mul_add _ hfield]
    by_cases hhi : i - lo < hi + 1 - lo
    · rw [if_pos hhi, if_pos (by omega), Nat.testBit_mod_two_pow, decide_eq_true hhi, Bool.true_and]
    · rw [if_neg hhi, if_neg (by omega), Nat.testBit_div_two_pow]
      congr 1
      omega

/-- A field that has been set reads what was set. -/
theorem fget_fset_self (h : Canonical s) (a v : Nat) (hlo : lo ≤ hi + 1) (hhi : hi < 64) :
    fget (fset s a hi lo v) a hi lo = v % 2 ^ (hi + 1 - lo) := by
  refine Nat.eq_of_testBit_eq fun i => ?_
  rw [fget, fset, rget_rset_self h, testBit_bits, Nat.testBit_mod_two_pow, Nat.testBit_mod_two_pow, testBit_setBits hlo]
  by_cases hi' : i < hi + 1 - lo
  · rw [if_pos (by omega), decide_eq_true (show lo + i < 64 by omega), Bool.true_and, Nat.add_sub_cancel_left]
  · rw [decide_eq_false hi', Bool.false_and, Bool.false_and]

/-- A field apart from one that has been set reads as before. -/
theorem fget_fset_apart (h : Canonical s) (a v : Nat) {hi' lo' : Nat} (hlo : lo ≤ hi + 1) (hapart : hi < lo' ∨ hi' < lo) :
    fget (fset s a hi lo v) a hi' lo' = fget s a hi' lo' := by
  refine Nat.eq_of_testBit_eq fun i => ?_
  rw [fget, fget, fset, rget_rset_self h, testBit_bits, testBit_bits, Nat.testBit_mod_two_pow, testBit_setBits hlo]
  by_cases hi'' : i < hi' + 1 - lo'
  · rw [if_neg (by omega)]
    by_cases hword : lo' + i < 64
    · rw [decide_eq_true hword, Bool.true_and]
    · rw [Nat.testBit_eq_false_of_lt (i := lo' + i) (Nat.lt_of_lt_of_le (rget_lt s a) (Nat.pow_le_pow_right (by decide) (by omega))), Bool.and_false]
  · rw [decide_eq_false hi'', Bool.false_and, Bool.false_and]

end Sys2Proof.Machine
end

section
/-! SUPPORT. Management: I3C, MCTP, the keeper's commands, PLDM monitoring and firmware update (17 R671-R673; 19 R716-R731). -/

namespace Sys2Proof.Machine

variable {s t : State} {body : List Byte} {c : Instr}

/-! ### Which commands are served (19 R719) -/

theorem mctpUp_power {halted : Bool} (h : mctpUp s halted = true) : s.boot.pwrgood = true := by
  unfold mctpUp at h
  split at h
  · cases h
  · rename_i hp
    simpa using hp

theorem pldm_up (h : mctpUp s false = true) (f : State → Out) : pldm s f = f s := if_pos h
theorem mctpControl_up (h : mctpUp s true = true) (f : State → Out) : mctpControl s f = f s := if_pos h
theorem pldmFw_up (h : mctpUp s true = true) (f : State → Out) : pldmFw s f = f s := if_pos h

/-- The keeper restarts while the service cores are up: its commands complete BUSY (19 R721). -/
def KeeperBusy (s : State) : Prop := s.keep.restarting = true ∧ 4 ≤ stage s ∧ stage s ≠ 15

theorem keeperCommand_busy (h : KeeperBusy s) (f : State → Out) : keeperCommand s f = mgmtAnswer s 2 [] := if_pos h

theorem keeperCommand_down (h : ¬KeeperBusy s) (hdown : mctpUp s false = false) (f : State → Out) : keeperCommand s f = .next s :=
  (if_neg h).trans (if_pos (by rw [hdown]; rfl))

/-- While MCTP is served, the keeper does not restart, unless in HALTED. -/
theorem keeperCommand_up (hup : mctpUp s false = true) (f : State → Out) : keeperCommand s f = f s := by
  have hbusy : ¬KeeperBusy s := by
    rintro ⟨hr, -, h15⟩
    unfold mctpUp at hup
    rw [if_neg h15, hr, Bool.not_true, Bool.and_false, ite_self] at hup
    cases hup
  exact (if_neg hbusy).trans (if_neg (by rw [hup]; exact Bool.false_ne_true))

/-- A keeper command is served by the keeper's rule. -/
theorem exec_keeperCommand (h : c ∈ [Instr.nonce body, .token body, .relock body]) : ∃ f, ∀ s, exec c s = keeperCommand s f := by
  simp only [List.mem_cons, List.not_mem_nil, or_false] at h
  rcases h with rfl | rfl | rfl <;> exact ⟨_, fun _ => rfl⟩

/-- The other commands of the service cores change nothing while these do not answer. -/
theorem service_down (h : ServiceOf body c) (hno : c ∉ [Instr.nonce body, .token body, .relock body]) (hdown : mctpUp s false = false) :
    exec c s = .next s := by
  have hserved : (!mctpUp s false) = true := by rw [hdown]; rfl
  simp only [List.mem_cons, List.not_mem_nil, or_false, not_or] at hno
  obtain ⟨hnonce, htoken, hrelock⟩ := hno
  rcases h with rfl | rfl | rfl | rfl | rfl | rfl | rfl | rfl | rfl | rfl | rfl | rfl | rfl | rfl
  case inr.inr.inr.inl => exact absurd rfl hnonce
  case inr.inr.inr.inr.inl => exact absurd rfl htoken
  case inr.inr.inr.inr.inr.inl => exact absurd rfl hrelock
  case inl => exact if_pos hserved
  case inr.inl => exact if_pos hserved
  case inr.inr.inl => exact if_pos hserved
  all_goals exact if_neg (by rw [hdown]; exact Bool.false_ne_true)

theorem halted_down (h : HaltedOf body c) (hdown : mctpUp s true = false) : exec c s = .next s := by
  rcases h with rfl | rfl | rfl | rfl | rfl | rfl | rfl | rfl | rfl | rfl | rfl | rfl
  all_goals exact if_neg (by rw [hdown]; exact Bool.false_ne_true)

/-- A command that is not served changes nothing; one of the keeper's is BUSY while it restarts, and is dropped else. -/
theorem serviceOf_down (h : ServiceOf body c) (hdown : mctpUp s false = false)
    (hbusy : s.keep.restarting = true → 4 ≤ stage s → stage s ≠ 15 → c ≠ .nonce body ∧ c ≠ .token body ∧ c ≠ .relock body) : exec c s = .next s := by
  by_cases hkeeper : c ∈ [Instr.nonce body, .token body, .relock body]
  · obtain ⟨f, hexec⟩ := exec_keeperCommand hkeeper
    refine (hexec s).trans (keeperCommand_down ?_ hdown f)
    rintro ⟨hr, h4, h15⟩
    obtain ⟨hnonce, htoken, hrelock⟩ := hbusy hr h4 h15
    simp only [List.mem_cons, List.not_mem_nil, or_false] at hkeeper
    exact hkeeper.elim hnonce fun hk => hk.elim htoken hrelock
  · exact service_down h hkeeper hdown

/-! ### Readiness commands of management (16 R635; 19 R720, R721) -/

/-- What a readiness command of management answers is what its code's command does. -/
theorem mgmtRdy_of {code unit : Nat} {u : State} (hcode : code = 1 ∨ code = 2) (h : exec (rdyOf code unit) s = .next u) : mgmtRdy s code unit = u := by
  rcases hcode with rfl | rfl
  · have hgrey : execGrey 1 unit s = .next u := h
    show (match execGrey 1 unit s with | .next t => t | _ => s) = u
    rw [hgrey]
  · have hrelease : execReleaseForce 1 unit s = .next u := h
    show (match execReleaseForce 1 unit s with | .next t => t | _ => s) = u
    rw [hrelease]

theorem mgmtResult_rdyResult (s : State) (ok : Bool) : mgmtResult (rdyResult s 1 ok) = if ok then 1 else 2 := by
  rw [mgmtResult, rdyResult, pfind_pput_self]
  rfl

theorem grey_completes {unit : Nat} (hp : s.boot.pwrgood = true) (hr : s.keep.restarting = false) (hforce : forcible unit = true)
    (hpresent : rdyState s unit ≠ .absent) : ∃ v, exec (.grey 1 unit) s = .next (rdyResult v 1 true) := by
  rw [exec_grey, execGrey, powered_on hp, if_neg (by simp [hr, hforce, hpresent])]
  exact ⟨_, rfl⟩

theorem releaseForce_completes {unit : Nat} (hp : s.boot.pwrgood = true) (hr : s.keep.restarting = false) (hvalid : idxValid unit = true)
    (hforced : (rdyGet s unit).forced = true) : ∃ v, exec (.releaseForce 1 unit) s = .next (rdyResult v 1 true) := by
  rw [exec_releaseForce, execReleaseForce, powered_on hp, if_neg (by simp [hr, hvalid, hforced])]
  exact ⟨_, rfl⟩

/-- A readiness command whose conditions hold is DONE (R635). -/
theorem mgmtRdy_done {code unit : Nat} (hp : s.boot.pwrgood = true) (h : RdyDone s code unit) :
    ∃ u, exec (rdyOf code unit) s = .next u ∧ mgmtRdy s code unit = u ∧ mgmtResult u = 1 := by
  have hcode : code = 1 ∨ code = 2 := h.2.imp And.left And.left
  have hdone : ∃ v, exec (rdyOf code unit) s = .next (rdyResult v 1 true) := by
    obtain ⟨hr, ⟨rfl, hforce, hpresent⟩ | ⟨rfl, hvalid, hforced⟩⟩ := h
    · exact grey_completes hp hr hforce hpresent
    · exact releaseForce_completes hp hr hvalid hforced
  obtain ⟨v, hv⟩ := hdone
  exact ⟨_, hv, mgmtRdy_of hcode hv, mgmtResult_rdyResult v true⟩

/-- Every other one is REFUSED, and changes nothing but its result (R635). -/
theorem mgmtRdy_refused {code unit : Nat} (hp : s.boot.pwrgood = true) (h : ¬RdyDone s code unit) : mgmtRdy s code unit = rdyResult s 1 false := by
  by_cases h1 : code = 1
  · subst h1
    refine mgmtRdy_of (.inl rfl) (grey_refused hp (.inr ?_))
    by_contra hno
    simp only [not_or, Bool.not_eq_true, Bool.not_eq_false] at hno
    exact h ⟨hno.1, .inl ⟨rfl, hno.2⟩⟩
  · by_cases h2 : code = 2
    · subst h2
      refine mgmtRdy_of (.inr rfl) (releaseForce_refused hp (.inr ?_))
      by_contra hno
      simp only [not_or, Bool.not_eq_true, Bool.not_eq_false] at hno
      exact h ⟨hno.1, .inr ⟨rfl, hno.2⟩⟩
    · unfold mgmtRdy
      split
      · exact absurd rfl h1
      · exact absurd rfl h2
      · rfl

theorem directRdyCmd_runs (hp : s.boot.pwrgood = true) : exec (.directRdyCmd body) s =
    mgmtAnswer (mgmtRdy s (fld body 0 1) (fld body 1 2)) 0 (natLe 1 (mgmtResult (mgmtRdy s (fld body 0 1) (fld body 1 2)))) := by
  rw [exec_directRdyCmd, execDirectRdyCmd, hp]
  rfl

theorem force_runs (hup : mctpUp s false = true) : exec (.force body) s =
    mgmtAnswer (mgmtRdy s (fld body 0 1) (fld body 1 2)) (if mgmtResult (mgmtRdy s (fld body 0 1) (fld body 1 2)) = 1 then 0 else 1)
      (natLe 1 (mgmtResult (mgmtRdy s (fld body 0 1) (fld body 1 2)))) := by
  rw [exec_force, execForce, hup]
  rfl

/-! ### I3C and MCTP control (19 R716-R720) -/

theorem directRead_answers {a n : Nat} (hp : s.boot.pwrgood = true) (ha : a < 2 ^ 32) : ∃ t, exec (.directRead a n) s = .next t ∧ t.mgmt.completion = 0 ∧
    t.mgmt.answer = mgmtBytes s a (4 * (n / 4)) ∧ t.mgmt.offset = (a + 4 * (n / 4)) % 2 ^ 32 ∧ t.csr = s.csr ∧ t.mem = s.mem := by
  rw [exec_directRead, execDirectRead, hp, Nat.mod_eq_of_lt ha]
  exact ⟨_, rfl, rfl, rfl, rfl, rfl, rfl⟩

theorem setEndpointId_takes (hup : mctpUp s true = true) (hop : fld body 0 1 % 4 < 2) (h0 : 0 < fld body 1 1) (hff : fld body 1 1 < 0xFF) :
    ∃ t, exec (.setEndpointId body) s = .next t ∧ t.mgmt.eid = fld body 1 1 ∧ t.mgmt.completion = 0 ∧ t.csr = s.csr := by
  rw [exec_setEndpointId, execSetEndpointId, mctpControl_up hup]
  dsimp only
  rw [if_neg (by omega)]
  exact ⟨_, rfl, rfl, rfl, rfl⟩

theorem setEndpointId_refuses (hup : mctpUp s true = true) (h : 2 ≤ fld body 0 1 % 4 ∨ fld body 1 1 = 0 ∨ fld body 1 1 = 0xFF) :
    ∃ t, exec (.setEndpointId body) s = .next t ∧ Answered t s 2 [] := by
  rw [exec_setEndpointId, execSetEndpointId, mctpControl_up hup]
  dsimp only
  rw [if_pos h]
  exact ⟨_, rfl, rfl⟩

theorem getMctpVersionSupport_answers (hup : mctpUp s true = true) (h : fld body 0 1 = 0 ∨ fld body 0 1 = 0xFF) :
    ∃ t, exec (.getMctpVersionSupport body) s = .next t ∧ Answered t s 0 [1, 0xF1, 0xF3, 0xFF, 0x00] := by
  rw [exec_getMctpVersionSupport, execGetMctpVersionSupport, mctpControl_up hup]
  dsimp only
  rw [if_pos h.symm]
  exact ⟨_, rfl, rfl⟩

theorem getEndpointId_answers (hup : mctpUp s true = true) : ∃ t, exec (.getEndpointId body) s = .next t ∧ Answered t s 0 (natLe 1 s.mgmt.eid ++ [0, 0]) := by
  rw [exec_getEndpointId, execGetEndpointId, mctpControl_up hup]
  exact ⟨_, rfl, rfl⟩

theorem getEndpointUuid_answers (hup : mctpUp s true = true) :
    ∃ t, exec (.getEndpointUuid body) s = .next t ∧ Answered t s 0 ((List.range 16).map Config.uuid) := by
  rw [exec_getEndpointUuid, execGetEndpointUuid, mctpControl_up hup]
  exact ⟨_, rfl, rfl⟩

theorem getMessageTypeSupport_answers (hup : mctpUp s true = true) :
    ∃ t b, exec (.getMessageTypeSupport body) s = .next t ∧ Answered t s 0 b ∧ b.length = 1 + msgTypes.length := by
  rw [exec_getMessageTypeSupport, execGetMessageTypeSupport, mctpControl_up hup]
  exact ⟨_, _, rfl, rfl, rfl⟩

/-! ### Birosh messages (19 R721, R722) -/

theorem read_refuses (hup : mctpUp s false = true) (h : fld body 4 1 < 4 ∨ 48 < fld body 4 1 ∨ fld body 4 1 % 4 ≠ 0) :
    ∃ t, exec (.read body) s = .next t ∧ Answered t s 1 [] := by
  rw [exec_read, execRead, hup]
  exact ⟨_, if_pos h, rfl⟩

theorem read_answers (hup : mctpUp s false = true) (h4 : 4 ≤ fld body 4 1) (h48 : fld body 4 1 ≤ 48) (hwords : fld body 4 1 % 4 = 0) :
    ∃ t, exec (.read body) s = .next t ∧ Answered t s (b2n ((List.range (fld body 4 1)).any fun i => !mgmtReach (fld body 0 4 + i)))
      (mgmtBytes s (fld body 0 4) (fld body 4 1)) := by
  have hlength : ¬(fld body 4 1 < 4 ∨ 48 < fld body 4 1 ∨ fld body 4 1 % 4 ≠ 0) := by omega
  rw [exec_read, execRead, hup]
  exact ⟨_, if_neg hlength, rfl⟩

theorem alertMask_sets (hc : Canonical s) (hup : mctpUp s false = true) :
    ∃ t, exec (.alertMask body) s = .next t ∧ fget t regFltAlertMask 12 0 = fld body 0 2 % 2 ^ 13 ∧ t.mem = s.mem ∧ t.harts = s.harts := by
  rw [exec_alertMask, execAlertMask, hup]
  exact ⟨_, rfl, fget_fset_self hc regFltAlertMask _ (by decide) (by decide), rfl, rfl⟩

/-! ### The keeper's commands (17 R671-R673) -/

theorem nonce_answers (hup : mctpUp s false = true) : ∃ t k, exec (.nonce body) s = .next t ∧ t.keep = { s.keep with nonce := some (k, s.now) } ∧
    t.mgmt.completion = 0 ∧ t.mgmt.answer = randomBytes k 32 ∧ t.csr = s.csr := by
  rw [exec_nonce, execNonce, keeperCommand_up hup]
  exact ⟨_, s.freeCtr, rfl, rfl, rfl, rfl, rfl⟩

theorem token_refused (hc : Canonical s) (hup : mctpUp s false = true) (h : tokenOk s body = false) : ∃ t, exec (.token body) s = .next t ∧
    t.keep = s.keep ∧ t.mgmt.completion = 1 ∧ bit (rget t regKeepEvents) 3 = true ∧ t.mem = s.mem := by
  rw [exec_token, execToken, keeperCommand_up hup, h]
  exact ⟨_, rfl, rfl, rfl, bit_event_self hc (by decide), rfl⟩

/-- An unlock opens its scope until its minutes have passed (R673). -/
theorem tokenActs_unlocks {scope : Nat} (h : scope = 1 ∨ scope = 2) (minutes : Nat) : (tokenActs s scope minutes).keep.nonce = s.keep.nonce ∧
    (tokenActs s scope minutes).keep.unlockScope = scope ∧ (tokenActs s scope minutes).keep.unlockUntil = s.now + minutes * 60000000000 ∧
    (tokenActs s scope minutes).keep.lifecycle = s.keep.lifecycle := by
  unfold tokenActs
  rw [if_neg (by omega), if_neg (by omega)]
  exact ⟨rfl, rfl, rfl, rfl⟩

/-- A token used up, as the keeper acts on it. -/
def nonceUsed (s : State) : State := keepMap s fun k => { k with nonce := none }

theorem token_unlocks (hup : mctpUp s false = true) (h : tokenOk s body = true) (hscope : fld body 6 1 = 1 ∨ fld body 6 1 = 2) :
    ∃ t, exec (.token body) s = .next t ∧ t.keep.nonce = none ∧ t.keep.unlockScope = fld body 6 1 ∧
      t.keep.unlockUntil = s.now + fld body 0x30 2 * 60000000000 ∧ t.keep.lifecycle = s.keep.lifecycle ∧ t.mgmt.completion = 0 := by
  obtain ⟨hnonce, hopen, huntil, hlife⟩ := tokenActs_unlocks (s := nonceUsed s) hscope (fld body 0x30 2)
  rw [exec_token, execToken, keeperCommand_up hup, h]
  exact ⟨_, rfl, hnonce, hopen, huntil, hlife, rfl⟩

theorem relock_ends (hup : mctpUp s false = true) (h : s.keep.unlockScope = 1 ∨ s.keep.unlockScope = 2) :
    ∃ t, exec (.relock body) s = .next t ∧ t.keep.unlockScope = 0 ∧ t.mgmt.completion = 0 := by
  rw [exec_relock, execRelock, keeperCommand_up hup, relock, if_pos h]
  exact ⟨_, rfl, rfl, rfl⟩

/-! ### PLDM monitoring (19 R726, R727) -/

theorem gettid_answers (hup : mctpUp s false = true) : ∃ t, exec (.gettid body) s = .next t ∧ Answered t s 0 [Config.tid] := by
  rw [exec_gettid, execGettid, pldm_up hup]
  exact ⟨_, rfl, rfl⟩

theorem getpldmtypes_answers (hup : mctpUp s false = true) : ∃ t, exec (.getpldmtypes body) s = .next t ∧ Answered t s 0 (natLe 8 0x25) := by
  rw [exec_getpldmtypes, execGetpldmtypes, pldm_up hup]
  exact ⟨_, rfl, rfl⟩

theorem getpldmversion_answers (hup : mctpUp s false = true) {v : List Byte} (h : pldmVersion (fld body 5 1) = some v) :
    ∃ t, exec (.getpldmversion body) s = .next t ∧ Answered t s 0 ([0, 0, 0, 0, 5] ++ v ++ natLe 4 (crc32 v)) := by
  rw [exec_getpldmversion, execGetpldmversion, pldm_up hup, h]
  exact ⟨_, rfl, rfl⟩

theorem getpldmversion_unknown (hup : mctpUp s false = true) (h : pldmVersion (fld body 5 1) = none) :
    ∃ t, exec (.getpldmversion body) s = .next t ∧ Answered t s 0x83 [] := by
  rw [exec_getpldmversion, execGetpldmversion, pldm_up hup, h]
  exact ⟨_, rfl, rfl⟩

theorem getpldmcommands_answers (hup : mctpUp s false = true) {l : List Nat} (h : pldmCommands (fld body 0 1) = some l) :
    ∃ t, exec (.getpldmcommands body) s = .next t ∧ Answered t s 0 (natLe 32 ((l.map (2 ^ ·)).foldl (· + ·) 0)) := by
  rw [exec_getpldmcommands, execGetpldmcommands, pldm_up hup, h]
  exact ⟨_, rfl, rfl⟩

theorem getpdrrepositoryinfo_answers (hup : mctpUp s false = true) :
    ∃ t, exec (.getpdrrepositoryinfo body) s = .next t ∧ t.mgmt.completion = 0 ∧ t.csr = s.csr ∧ t.mem = s.mem := by
  rw [exec_getpdrrepositoryinfo, execGetpdrrepositoryinfo, pldm_up hup]
  exact ⟨_, rfl, rfl, rfl, rfl⟩

/-- A record draws free bytes alone. -/
theorem pdrOf_kept (s : State) (h : Nat) : (pdrOf s h).2.csr = s.csr ∧ (pdrOf s h).2.mem = s.mem := by
  unfold pdrOf
  dsimp only
  split <;> exact ⟨rfl, rfl⟩

theorem getpdr_none (hup : mctpUp s false = true) (h : 31 < fld body 0 4) : ∃ t, exec (.getpdr body) s = .next t ∧ Answered t s 0x82 [] := by
  rw [exec_getpdr, execGetpdr, pldm_up hup]
  dsimp only
  rw [if_neg (show ¬fld body 0 4 = 0 by omega), if_pos h]
  exact ⟨_, rfl, rfl⟩

theorem getpdr_answers (hup : mctpUp s false = true) (h : fld body 0 4 ≤ 31) :
    ∃ t, exec (.getpdr body) s = .next t ∧ t.mgmt.completion = 0 ∧ t.csr = s.csr ∧ t.mem = s.mem := by
  rw [exec_getpdr, execGetpdr, pldm_up hup]
  dsimp only
  rw [if_neg (show ¬31 < (if fld body 0 4 = 0 then 1 else fld body 0 4) by split <;> omega)]
  exact ⟨_, rfl, rfl, pdrOf_kept s _⟩

/-- Sampling the sensors reads the device and changes management's copy alone. -/
theorem sensorsNow_kept (s : State) : (sensorsNow s).mem = s.mem ∧ (sensorsNow s).harts = s.harts := by
  unfold sensorsNow
  split <;> exact ⟨rfl, rfl⟩

theorem getsensorreading_none (hup : mctpUp s false = true) (h : sensorOf (fld body 0 2) = none) :
    ∃ t, exec (.getsensorreading body) s = .next t ∧ Answered t s 0x80 [] := by
  rw [exec_getsensorreading, execGetsensorreading, pldm_up hup]
  dsimp only
  rw [h]
  exact ⟨_, rfl, rfl⟩

theorem getsensorreading_answers (hup : mctpUp s false = true) {x : Sensor} (h : sensorOf (fld body 0 2) = some x) :
    ∃ t, exec (.getsensorreading body) s = .next t ∧ t.mgmt.completion = 0 ∧ t.mem = s.mem ∧ t.harts = s.harts := by
  rw [exec_getsensorreading, execGetsensorreading, pldm_up hup]
  dsimp only
  rw [h]
  exact ⟨_, rfl, rfl, sensorsNow_kept s⟩

theorem getstatesensorreadings_none (hup : mctpUp s false = true) (h : fld body 0 2 < 100 ∨ 107 < fld body 0 2) :
    ∃ t, exec (.getstatesensorreadings body) s = .next t ∧ Answered t s 0x80 [] := by
  rw [exec_getstatesensorreadings, execGetstatesensorreadings, pldm_up hup]
  exact ⟨_, if_pos h, rfl⟩

theorem getstatesensorreadings_answers (hup : mctpUp s false = true) (h100 : 100 ≤ fld body 0 2) (h107 : fld body 0 2 ≤ 107) :
    ∃ t, exec (.getstatesensorreadings body) s = .next t ∧ t.mgmt.completion = 0 ∧ t.mem = s.mem := by
  rw [exec_getstatesensorreadings, execGetstatesensorreadings, pldm_up hup]
  exact ⟨_, if_neg (by omega), rfl, (sensorsNow_kept s).1⟩

/-! ### Firmware update (19 R728-R731) -/

theorem requestupdate_busy (hup : mctpUp s true = true) (hs : s.mgmt.session = true) :
    ∃ t, exec (.requestupdate body) s = .next t ∧ Answered t s 0x81 [] := by
  rw [exec_requestupdate, execRequestupdate, pldmFw_up hup, if_pos hs]
  exact ⟨_, rfl, rfl⟩

theorem requestupdate_opens (hup : mctpUp s true = true) (hs : s.mgmt.session = false) (h : 32 ≤ fld body 0 4) :
    ∃ t, exec (.requestupdate body) s = .next t ∧ t.mgmt.session = true ∧ t.mgmt.transfer = none ∧ t.mgmt.verified = [] ∧ t.mgmt.completion = 0 := by
  rw [exec_requestupdate, execRequestupdate, pldmFw_up hup, hs, if_neg Bool.false_ne_true, if_neg (Nat.not_lt.2 h)]
  exact ⟨_, rfl, rfl, rfl, rfl, rfl⟩

theorem update_unopened (hup : mctpUp s true = true) (hs : s.mgmt.session = false) :
    ∀ c ∈ [Instr.updatecomponent body, .activatefirmware body, .cancelupdatecomponent body, .cancelupdate body],
      ∃ t, exec c s = .next t ∧ Answered t s 0x80 [] := by
  have hclosed : (!s.mgmt.session) = true := by rw [hs]; rfl
  simp only [List.forall_mem_cons]
  rw [exec_updatecomponent, execUpdatecomponent, exec_activatefirmware, execActivatefirmware, exec_cancelupdatecomponent, execCancelupdatecomponent,
    exec_cancelupdate, execCancelupdate, pldmFw_up hup, pldmFw_up hup, pldmFw_up hup, pldmFw_up hup]
  exact ⟨⟨_, if_pos hclosed, rfl⟩, ⟨_, if_pos hclosed, rfl⟩, ⟨_, if_pos hclosed, rfl⟩, ⟨_, if_pos hclosed, rfl⟩, List.forall_mem_nil _⟩

/-- A CONTROL component within its limit begins its transfer, while no sealed plan names the staged object (R728, R730, R731). -/
theorem updatecomponent_begins (hup : mctpUp s true = true) (hs : s.mgmt.session = true) (hcomp : fld body 2 2 = 1) (hclass : fld body 0 2 = 0x000A)
    (h0 : 0 < fld body 9 4) (hlimit : fld body 9 4 ≤ compLimit 1) (h15 : stage s ≠ 15) (hnamed : s.keep.named.contains 2 = false) :
    ∃ t, exec (.updatecomponent body) s = .next t ∧ t.mgmt.transfer = some ⟨1, fld body 9 4, []⟩ ∧ t.mgmt.completion = 0 ∧ t.boot = s.boot := by
  have hopen : ¬(!s.mgmt.session) = true := by rw [hs]; exact Bool.false_ne_true
  have hfits : ¬(((compKind 1).isNone = true ∧ (compSlot 1).isNone = true) ∨ (0x000A : Nat) ≠ 0x000A ∨ fld body 9 4 = 0 ∨ compLimit 1 < fld body 9 4 ∨
      (stage s = 15 ∧ (compSlot 1).isNone = true) ∨ compSlot 1 = some (fget s regBootStatus 10 10)) := by
    rintro (⟨h, -⟩ | h | h | h | ⟨h, -⟩ | h)
    · cases h
    · exact h rfl
    · omega
    · omega
    · exact h15 h
    · cases h
  have hfree : ¬s.keep.named.contains ((compKind 1).getD 0) = true := Bool.eq_false_iff.1 hnamed
  rw [exec_updatecomponent, execUpdatecomponent, pldmFw_up hup]
  dsimp only
  rw [if_neg hopen, hcomp, hclass, if_neg hfits, if_neg hfree]
  exact ⟨_, rfl, rfl, rfl, rfl⟩

theorem update_untransferred (hup : mctpUp s true = true) (h : s.mgmt.transfer = none) :
    ∀ c ∈ [Instr.componentDataTransfer body, .verifycomplete body], ∃ t, exec c s = .next t ∧ Answered t s 0x80 [] := by
  simp only [List.forall_mem_cons, exec_componentDataTransfer, execComponentDataTransfer, exec_verifycomplete, execVerifycomplete, pldmFw_up hup, h]
  exact ⟨⟨_, rfl, rfl⟩, ⟨_, rfl, rfl⟩, List.forall_mem_nil _⟩

/-- A piece that is not the last is appended (R728). -/
theorem componentDataTransfer_appends (hup : mctpUp s true = true) {x : Transfer} (hx : s.mgmt.transfer = some x)
    (hroom : x.bytes.length + body.length < x.size) (h32 : 32 ≤ body.length) (h4096 : body.length ≤ 4096) :
    ∃ t, exec (.componentDataTransfer body) s = .next t ∧ t.mgmt.transfer = some { x with bytes := x.bytes ++ body } ∧ t.mgmt.completion = 0 ∧
      t.keep = s.keep ∧ t.boot = s.boot := by
  have hlast : ¬(x.bytes ++ body).length = x.size := by rw [List.length_append]; omega
  rw [exec_componentDataTransfer, execComponentDataTransfer, pldmFw_up hup, hx]
  dsimp only
  rw [if_neg (by omega), if_neg (by omega), List.take_of_length_le (show body.length ≤ x.size - x.bytes.length by omega), if_neg hlast]
  exact ⟨_, rfl, rfl, rfl, rfl, rfl⟩

theorem verifycomplete_succeeds (hup : mctpUp s true = true) {x : Transfer} (hx : s.mgmt.transfer = some x) (h : verifies s x = true) :
    ∃ t, exec (.verifycomplete body) s = .next t ∧ t.mgmt.verified = s.mgmt.verified ++ [x.comp] ∧ t.mgmt.transfer = none ∧ t.mgmt.answer = [0] := by
  rw [exec_verifycomplete, execVerifycomplete, pldmFw_up hup, hx]
  exact ⟨_, if_pos h, rfl, rfl, rfl⟩

theorem verifycomplete_fails (hup : mctpUp s true = true) {x : Transfer} (hx : s.mgmt.transfer = some x) (h : verifies s x = false) :
    ∃ t, exec (.verifycomplete body) s = .next t ∧ Answered t s 0 [1] := by
  rw [exec_verifycomplete, execVerifycomplete, pldmFw_up hup, hx]
  exact ⟨_, if_neg (Bool.eq_false_iff.1 h), rfl⟩

theorem activatefirmware_ends (hup : mctpUp s true = true) (hs : s.mgmt.session = true) : ∃ t, exec (.activatefirmware body) s = .next t ∧
    t.mgmt.session = false ∧ t.mgmt.completion = 0 ∧ (s.mgmt.verified.contains 3 = true → t.keep.restarting = true ∧ t.keep.restartCause = 2) := by
  have hopen : ¬(!s.mgmt.session) = true := by rw [hs]; exact Bool.false_ne_true
  rw [exec_activatefirmware, execActivatefirmware, pldmFw_up hup, if_neg hopen]
  dsimp only
  refine ⟨_, rfl, ?_, rfl, fun hkeeper => ?_⟩
  · show (State.mgmt (if _ then _ else _)).session = false
    split <;> rfl
  · rw [if_pos hkeeper]
    exact ⟨rfl, rfl⟩

theorem cancelupdatecomponent_ends (hup : mctpUp s true = true) (hs : s.mgmt.session = true) :
    ∃ t, exec (.cancelupdatecomponent body) s = .next t ∧ t.mgmt.transfer = none ∧ t.mgmt.session = true := by
  have hopen : ¬(!s.mgmt.session) = true := by rw [hs]; exact Bool.false_ne_true
  rw [exec_cancelupdatecomponent, execCancelupdatecomponent, pldmFw_up hup, if_neg hopen]
  exact ⟨_, rfl, rfl, hs⟩

theorem cancelupdate_ends (hup : mctpUp s true = true) (hs : s.mgmt.session = true) :
    ∃ t, exec (.cancelupdate body) s = .next t ∧ t.mgmt.session = false ∧ t.mgmt.transfer = none ∧ t.keep = s.keep := by
  have hopen : ¬(!s.mgmt.session) = true := by rw [hs]; exact Bool.false_ne_true
  rw [exec_cancelupdate, execCancelupdate, pldmFw_up hup, if_neg hopen]
  exact ⟨_, rfl, rfl, rfl, rfl⟩

/-! ### The whole -/

theorem force_done (hup : mctpUp s false = true) (h : RdyDone s (fld body 0 1) (fld body 1 2)) :
    ∃ u, exec (rdyOf (fld body 0 1) (fld body 1 2)) s = .next u ∧
      exec (.force body) s = .next { u with mgmt := { u.mgmt with completion := 0, answer := [1] } } := by
  obtain ⟨u, hu, hrdy, hres⟩ := mgmtRdy_done (mctpUp_power hup) h
  refine ⟨u, hu, ?_⟩
  rw [force_runs hup, hrdy, hres]
  rfl

theorem force_refused (hup : mctpUp s false = true) (h : ¬RdyDone s (fld body 0 1) (fld body 1 2)) : ∃ t, exec (.force body) s = .next t ∧
    t.mgmt.completion = 1 ∧ t.mgmt.answer = [2] ∧ t.rdy = s.rdy ∧ t.csr = s.csr ∧ t.mem = s.mem := by
  rw [force_runs hup, mgmtRdy_refused (mctpUp_power hup) h, mgmtResult_rdyResult]
  exact ⟨_, rfl, rfl, rfl, rfl, rfl, rfl⟩

theorem directRdyCmd_done (hp : s.boot.pwrgood = true) (h : RdyDone s (fld body 0 1) (fld body 1 2)) :
    ∃ u, exec (rdyOf (fld body 0 1) (fld body 1 2)) s = .next u ∧
      exec (.directRdyCmd body) s = .next { u with mgmt := { u.mgmt with completion := 0, answer := [1] } } := by
  obtain ⟨u, hu, hrdy, hres⟩ := mgmtRdy_done hp h
  refine ⟨u, hu, ?_⟩
  rw [directRdyCmd_runs hp, hrdy, hres]
  rfl

theorem directRdyCmd_refused (hp : s.boot.pwrgood = true) (h : ¬RdyDone s (fld body 0 1) (fld body 1 2)) : ∃ t, exec (.directRdyCmd body) s = .next t ∧
    t.mgmt.completion = 0 ∧ t.mgmt.answer = [2] ∧ t.rdy = s.rdy ∧ t.csr = s.csr ∧ t.mem = s.mem := by
  rw [directRdyCmd_runs hp, mgmtRdy_refused hp h, mgmtResult_rdyResult]
  exact ⟨_, rfl, rfl, rfl, rfl, rfl, rfl⟩

theorem entdaa_takes (hp : s.boot.pwrgood = true) (a : Nat) :
    exec (.entdaa a) s = .next { s with mgmt := { s.mgmt with i3cMode := true, dynAddr := a % 128, answer := provisionalId s } } := by
  rw [exec_entdaa, execEntdaa, hp]
  rfl

/-- Settles O59: which commands are served, and what each of them answers and changes. -/
theorem managementCommands : Obligations.ManagementCommands := by
  unfold Obligations.ManagementCommands
  intro s a n body hc
  dsimp only
  refine ⟨fun hdown c hof => serviceOf_down hof hdown, fun hr h4 h15 c hof => ?busy, fun hdown c hof => halted_down hof hdown,
    fun hp => ⟨directRead_answers hp, directRdyCmd_done hp, directRdyCmd_refused hp, entdaa_takes hp a⟩, rfl, fun hup => ?control, fun hup => ?served,
    fun hup => ?update⟩
  case busy =>
    obtain ⟨f, hexec⟩ := exec_keeperCommand hof
    exact ⟨_, (hexec s).trans (keeperCommand_busy ⟨hr, h4, h15⟩ f), rfl⟩
  case control =>
    exact ⟨⟨setEndpointId_takes hup, setEndpointId_refuses hup⟩, getEndpointId_answers hup, getEndpointUuid_answers hup,
      getMctpVersionSupport_answers hup, getMessageTypeSupport_answers hup⟩
  case served =>
    exact ⟨⟨read_refuses hup, read_answers hup⟩, force_done hup, force_refused hup, alertMask_sets hc hup,
      ⟨nonce_answers hup, token_refused hc hup, token_unlocks hup, relock_ends hup⟩, gettid_answers hup,
      fun v => getpldmversion_answers hup, getpldmversion_unknown hup, getpldmtypes_answers hup, fun l => getpldmcommands_answers hup,
      getpdrrepositoryinfo_answers hup, getpdr_none hup, getpdr_answers hup, getsensorreading_none hup, fun x => getsensorreading_answers hup,
      getstatesensorreadings_none hup, getstatesensorreadings_answers hup⟩
  case update =>
    exact ⟨requestupdate_busy hup, requestupdate_opens hup, update_unopened hup, updatecomponent_begins hup,
      update_untransferred hup, fun x => componentDataTransfer_appends hup, fun x => verifycomplete_succeeds hup, fun x => verifycomplete_fails hup,
      activatefirmware_ends hup, cancelupdatecomponent_ends hup, cancelupdate_ends hup⟩

end Sys2Proof.Machine
end

section
/-! SUPPORT. What a unit's change of state leaves alone: every other unit, every register but RDY_EVENTS, and the host interface but for its
signals (16 R634, R642); and the same for a list of units. -/

namespace Sys2Proof.Machine

variable {s t u : State} {i j : Nat} {st : UnitState}

/-! ### One unit -/

/-- Units may have moved: nothing else has, but for RDY_EVENTS, signals to the host, and whether everything has settled once. -/
structure UnitsMoved (s t : State) : Prop where
  side : UnitSide s t
  regs : ∀ a, a ≠ regRdyEvents → rget t a = rget s a
  boot : t.boot = { s.boot with settledOnce := t.boot.settledOnce }
  pci : t.pci = { s.pci with signals := t.pci.signals }

theorem UnitsMoved.refl (s : State) : UnitsMoved s s := ⟨rfl, fun _ _ => rfl, rfl, rfl⟩

theorem UnitsMoved.trans (h : UnitsMoved s t) (k : UnitsMoved t u) : UnitsMoved s u :=
  ⟨h.side.trans k.side, fun a ha => (k.regs a ha).trans (h.regs a ha), by rw [k.boot, h.boot], by rw [k.pci, h.pci]⟩

theorem UnitsMoved.mem (h : UnitsMoved s t) : t.mem = s.mem := by rw [h.side]
theorem UnitsMoved.harts (h : UnitsMoved s t) : t.harts = s.harts := by rw [h.side]
theorem UnitsMoved.keep (h : UnitsMoved s t) : t.keep = s.keep := by rw [h.side]
theorem UnitsMoved.elec (h : UnitsMoved s t) : t.elec = s.elec := by rw [h.side]

/-- A signal to the host adds to its list, or is not sent. -/
theorem signal_pci (s : State) (v : Nat) : (signal s v).pci = { s.pci with signals := (signal s v).pci.signals } := by
  unfold signal
  split <;> rfl

theorem rdyEvent_moved (s : State) (b : Nat) : UnitsMoved s (rdyEvent s b) where
  side := rdyEvent_side s b
  regs a ha := by
    have hevent : rget (event s regRdyEvents b) a = rget s a := rget_rset_ne _ ha
    rw [rdyEvent, rget, (signal_hostSide _ _).only]
    exact hevent
  boot := by rw [rdyEvent, (signal_hostSide _ _).only]; rfl
  pci := signal_pci (event s regRdyEvents b) 2045

theorem rdyEvent_rdy (s : State) (b : Nat) : (rdyEvent s b).rdy = s.rdy := by
  rw [rdyEvent, (signal_hostSide _ _).only]
  rfl

/-- A unit given a state: its entry is put, and what follows are events. -/
theorem setUnit_moved (s : State) (i : Nat) (st : UnitState) (r : Nat) :
    UnitsMoved s (setUnit s i st r) ∧ ∀ j, j ≠ i → rdyGet (setUnit s i st r) j = rdyGet s j := by
  have hput : ∀ e, UnitsMoved s (rdyPut s i e) := fun e => ⟨rfl, fun _ _ => rfl, rfl, rfl⟩
  have hother : ∀ {x : State} {e}, x.rdy = (rdyPut s i e).rdy → ∀ j, j ≠ i → rdyGet x j = rdyGet s j := by
    intro x e hx j hj
    rw [rdyGet, hx]
    exact rdyGet_rdyPut_ne e hj
  unfold setUnit
  extract_lets e keep s1 s2
  split
  · exact ⟨hput _, hother rfl⟩
  · have h2 : UnitsMoved s s2 ∧ s2.rdy = s1.rdy := by
      show UnitsMoved s (if _ then _ else _) ∧ (if _ then _ else _ : State).rdy = _
      split
      · exact ⟨(hput _).trans (rdyEvent_moved _ _), rdyEvent_rdy _ _⟩
      · exact ⟨hput _, rfl⟩
    obtain ⟨hmoved, hrdy⟩ := h2
    split
    · have hsettled : UnitsMoved s2 { s2 with boot := { s2.boot with settledOnce := true } } := ⟨rfl, fun _ _ => rfl, rfl, rfl⟩
      exact ⟨(hmoved.trans hsettled).trans (rdyEvent_moved _ _), hother ((rdyEvent_rdy _ _).trans hrdy)⟩
    · exact ⟨hmoved, hother hrdy⟩

theorem rdyState_setUnit_ne (h : j ≠ i) (st : UnitState) (r : Nat) : rdyState (setUnit s i st r) j = rdyState s j :=
  congrArg RdyEntry.state ((setUnit_moved s i st r).2 j h)

theorem rdyState_setUnit_self (h : Canonical s) (i : Nat) (st : UnitState) (r : Nat) : rdyState (setUnit s i st r) i = st :=
  (setUnit_entry h i st r).1

theorem setUnit_canonical (h : Canonical s) (i : Nat) (st : UnitState) (r : Nat) : Canonical (setUnit s i st r) := (kept_setUnit (kept_self h)).canon

/-! ### A list of units -/

/-- An absent unit begins its bring-up (16 R630). -/
def beginUnit (st : UnitState) (s : State) (i : Nat) : State := if rdyState s i == .absent then setUnit s i st 0 else s

theorem beginUnit_moved (st : UnitState) (s : State) (i : Nat) : UnitsMoved s (beginUnit st s i) := by
  unfold beginUnit
  split
  · exact (setUnit_moved _ _ _ _).1
  · exact .refl s

theorem beginUnit_canonical (h : Canonical s) (st : UnitState) (i : Nat) : Canonical (beginUnit st s i) := by
  unfold beginUnit
  split
  · exact setUnit_canonical h _ _ _
  · exact h

theorem rdyState_beginUnit (h : Canonical s) (st : UnitState) (i j : Nat) :
    rdyState (beginUnit st s i) j = if rdyState s j = .absent ∧ j = i then st else rdyState s j := by
  unfold beginUnit
  by_cases hj : j = i
  · subst hj
    by_cases ha : rdyState s j = .absent
    · rw [if_pos (beq_iff_eq.2 ha), if_pos ⟨ha, rfl⟩, rdyState_setUnit_self h]
    · rw [if_neg (mt beq_iff_eq.1 ha), if_neg fun e => ha e.1]
  · have hstands : ¬(rdyState s j = .absent ∧ j = i) := fun e => hj e.2
    rw [if_neg hstands]
    split
    · exact rdyState_setUnit_ne hj _ _
    · rfl

theorem beginUnits_canonical (h : Canonical s) (st : UnitState) (l : List Nat) : Canonical (l.foldl (beginUnit st) s) :=
  List.foldlRecOn l _ (motive := Canonical) h fun _ hx i _ => beginUnit_canonical hx st i

theorem beginUnits_moved (st : UnitState) (l : List Nat) (s : State) : UnitsMoved s (l.foldl (beginUnit st) s) :=
  List.foldlRecOn l _ (motive := UnitsMoved s) (.refl s) fun x hx i _ => hx.trans (beginUnit_moved st x i)

/-- The absent units of a list have begun, and no other unit has moved. -/
theorem rdyState_beginUnits (h : Canonical s) (st : UnitState) (l : List Nat) (j : Nat) :
    rdyState (l.foldl (beginUnit st) s) j = if rdyState s j = .absent ∧ j ∈ l then st else rdyState s j := by
  induction l generalizing s with
  | nil => simp
  | cons i r ih =>
    rw [List.foldl_cons, ih (beginUnit_canonical h st i), rdyState_beginUnit h]
    by_cases ha : rdyState s j = .absent
    · by_cases hj : j = i
      · subst hj
        simp [ha]
      · simp [ha, hj]
    · simp [ha]

end Sys2Proof.Machine
end

section
/-! SUPPORT. The stages of start-up and the rejection of an image (16 R620-R630; 17 R657). -/

namespace Sys2Proof.Machine

variable {s t u : State} {slot : Nat} {object control service : List Byte}

/-! ### STAGE and the measurement registers -/

theorem stage_setStage (h : Canonical s) {n : Nat} (hn : n < 16) : stage (setStage s n) = n :=
  (fget_fset_self h regBootStatus n (by decide) (by decide)).trans (Nat.mod_eq_of_lt hn)

theorem mrGet_mrExtend_self (s : State) (n : Nat) (v : List Byte) : mrGet (mrExtend s n v) n = shake256 (mrGet s n ++ v) := by
  show (pfind (pput s.keep.mrs n _) n).getD _ = _
  rw [pfind_pput_self]
  rfl

theorem mrGet_mrExtend_ne {n m : Nat} (h : m ≠ n) (v : List Byte) : mrGet (mrExtend s n v) m = mrGet s m :=
  congrArg (fun x => Option.getD x (List.replicate 64 0)) (pfind_pput_ne _ h)

theorem mrGet_congr (h : t.keep = s.keep) (n : Nat) : mrGet t n = mrGet s n := by
  rw [mrGet, h, mrGet]

@[simp] theorem setStage_boot (s : State) (n : Nat) : (setStage s n).boot = s.boot := rfl
@[simp] theorem setStage_rdy (s : State) (n : Nat) : (setStage s n).rdy = s.rdy := rfl
@[simp] theorem setStage_mem (s : State) (n : Nat) : (setStage s n).mem = s.mem := rfl
@[simp] theorem mrGet_fset (s : State) (a hi lo v n : Nat) : mrGet (fset s a hi lo v) n = mrGet s n := rfl
@[simp] theorem mrGet_setStage (s : State) (k n : Nat) : mrGet (setStage s k) n = mrGet s n := rfl
@[simp] theorem mrGet_keeperStart (s : State) (n : Nat) : mrGet (keeperStart s) n = mrGet s n := rfl

/-- A start-up event extends MR4 alone (17 R657). -/
theorem mrGet_debugEvent_ne {n : Nat} (h : n ≠ 4) (scope ev : Nat) : mrGet (debugEvent s scope ev) n = mrGet s n := mrGet_mrExtend_ne h _

/-- An object of the flash that comes into force and is measured in its register (17 R657). -/
def imageMeasured (s : State) (slot area kind n : Nat) (object : List Byte) : State :=
  mrExtend (putInForce (putFlash s slot area object) kind (imageOf object)) n (imageOf object).meas

theorem imageMeasured_canonical (h : Canonical s) (slot area kind n : Nat) (object : List Byte) : Canonical (imageMeasured s slot area kind n object) := { h with }

theorem imageMeasured_kept (s : State) (slot area kind n : Nat) (object : List Byte) : (imageMeasured s slot area kind n object).mem = s.mem ∧
    (imageMeasured s slot area kind n object).harts = s.harts ∧ (imageMeasured s slot area kind n object).rdy = s.rdy := ⟨rfl, rfl, rfl⟩

/-- The object is kept under its slot and area. -/
theorem imageMeasured_boot (s : State) (slot area kind n : Nat) (object : List Byte) :
    (imageMeasured s slot area kind n object).boot = { s.boot with flash := pput s.boot.flash (4 * slot + area) object } := rfl

@[simp] theorem keeperStart_mem (s : State) : (keeperStart s).mem = s.mem := rfl
@[simp] theorem keeperStart_harts (s : State) : (keeperStart s).harts = s.harts := rfl
@[simp] theorem keeperStart_boot (s : State) : (keeperStart s).boot = s.boot := rfl
@[simp] theorem debugEvent_mem (s : State) (scope ev : Nat) : (debugEvent s scope ev).mem = s.mem := rfl

theorem mrGet_imageMeasured_self (s : State) (slot area kind n : Nat) (object : List Byte) :
    mrGet (imageMeasured s slot area kind n object) n = shake256 (mrGet s n ++ (imageOf object).meas) := mrGet_mrExtend_self _ _ _

theorem mrGet_imageMeasured_ne {n m : Nat} (h : m ≠ n) (s : State) (slot area kind : Nat) (object : List Byte) :
    mrGet (imageMeasured s slot area kind n object) m = mrGet s m := mrGet_mrExtend_ne h _

/-! ### The keeper image (16 R621, R628) -/

/-- An object is what the flash holds in its area, and passes but for its signature (16 R621, R623). -/
def GoodImage (s : State) (slot kind area : Nat) (object : List Byte) : Prop := inFlash s slot area object = true ∧ objectAccepted s kind object = true

theorem keeperImagePass_dropped (h : stage s ≠ 0 ∨ ¬GoodImage s slot 1 0 object) : exec (.keeperImagePass slot object) s = .next s := by
  rw [exec_keeperImagePass, execKeeperImagePass]
  refine if_pos ?_
  rcases h with h | h
  · exact .inr (.inl h)
  · rcases not_and_or.1 h with h | h
    · exact .inr (.inr (.inr (.inl (by simpa using h))))
    · exact .inr (.inr (.inr (.inr (by simpa using h))))

/-- The keeper that has passed, before its unit is READY. -/
def keeperStarted (s : State) (slot : Nat) (object : List Byte) : State :=
  let s := keeperStart (imageMeasured s slot 0 1 0 object)
  fset (fset s regBootStatus 10 10 slot) regBootStatus 9 9 (b2n (slot != activeSlot s))

theorem keeperStarted_canonical (h : Canonical s) (slot : Nat) (object : List Byte) : Canonical (keeperStarted s slot object) :=
  (kept_fset (kept_fset (kept_keeperStart (kept_self (imageMeasured_canonical h _ _ _ _ _))))).canon

theorem keeperStarted_kept (s : State) (slot : Nat) (object : List Byte) : (keeperStarted s slot object).mem = s.mem ∧
    (keeperStarted s slot object).harts = s.harts ∧ pfind (keeperStarted s slot object).boot.flash (4 * slot) = some object := by
  obtain ⟨hmem, hharts, -⟩ := imageMeasured_kept s slot 0 1 0 object
  unfold keeperStarted
  rw [fset_mem, fset_mem, keeperStart_mem, fset_harts, fset_harts, keeperStart_harts, fset_boot, fset_boot, keeperStart_boot, imageMeasured_boot]
  exact ⟨hmem, hharts, pfind_pput_self _ _ _⟩

theorem mrGet_keeperStarted (s : State) (slot : Nat) (object : List Byte) :
    mrGet (keeperStarted s slot object) 0 = shake256 (mrGet s 0 ++ (imageOf object).meas) := by
  unfold keeperStarted
  rw [mrGet_fset, mrGet_fset, mrGet_keeperStart, mrGet_imageMeasured_self]

theorem keeperImagePass_starts (hp : s.boot.pwrgood = true) (hslot : slot = bootSlot s) (h0 : stage s = 0) (hgood : GoodImage s slot 1 0 object) :
    exec (.keeperImagePass slot object) s = .next (setStage (setUnit (keeperStarted s slot object) 0x40 .ready 0) 1) := by
  obtain ⟨hflash, haccepted⟩ := hgood
  have hgo : ¬((!s.boot.pwrgood) = true ∨ stage s ≠ 0 ∨ slot ≠ bootSlot s ∨ (!inFlash s slot 0 object) = true ∨ (!objectAccepted s 1 object) = true) := by
    simp [hp, h0, hflash, haccepted, ← hslot]
  rw [exec_keeperImagePass, execKeeperImagePass, if_neg hgo]
  rfl

theorem keeperImagePass_passes (h : Canonical s) (hp : s.boot.pwrgood = true) (hslot : slot = bootSlot s) (h0 : stage s = 0)
    (hgood : GoodImage s slot 1 0 object) : ∃ t, exec (.keeperImagePass slot object) s = .next t ∧ stage t = 1 ∧ rdyState t 0x40 = .ready ∧
      mrGet t 0 = shake256 (mrGet s 0 ++ (imageOf object).meas) ∧ pfind t.boot.flash (4 * slot) = some object ∧ t.mem = s.mem ∧ t.harts = s.harts := by
  have hc := keeperStarted_canonical h slot object
  obtain ⟨hmoved, -⟩ := setUnit_moved (keeperStarted s slot object) 0x40 .ready 0
  obtain ⟨hmem, hharts, hflash⟩ := keeperStarted_kept s slot object
  refine ⟨_, keeperImagePass_starts hp hslot h0 hgood, stage_setStage (setUnit_canonical hc _ _ _) (by decide), rdyState_setUnit_self hc _ _ _, ?_, ?_,
    hmoved.mem.trans hmem, hmoved.harts.trans hharts⟩
  · rw [mrGet_setStage, mrGet_congr hmoved.keep, mrGet_keeperStarted]
  · have hboot := hmoved.boot
    exact (congrArg (fun b : BootUnit => pfind b.flash (4 * slot)) hboot).trans hflash

/-! ### The configuration image (16 R624-R626) -/

/-- Registers written in turn touch registers alone. -/
theorem foldl_rset_only {α : Type} (f g : α → Nat) (l : List α) (s : State) :
    l.foldl (fun s x => rset s (f x) (g x)) s = { s with csr := (l.foldl (fun s x => rset s (f x) (g x)) s).csr } :=
  List.foldlRecOn l _ (motive := fun x : State => x = { s with csr := x.csr }) rfl fun x hx a _ => by
    rw [hx]
    rfl

/-- What loading the configuration leaves alone. -/
theorem loadConfig_kept (s : State) (o : List Byte) : (loadConfig s o).keep = s.keep ∧ (loadConfig s o).mem = s.mem ∧
    (loadConfig s o).boot = { s.boot with
      configLoaded := true, dev := fld (sectionOf (objectBody o) 1) 0 2, devs := fld (sectionOf (objectBody o) 1) 2 2 } := by
  unfold loadConfig bootMap
  dsimp only
  rw [foldl_rset_only (fun c => regCorGatCfg c), foldl_rset_only (fun p => regHwsPortCfg p), foldl_rset_only (fun x : Nat × Nat => x.1)]
  exact ⟨rfl, rfl, rfl⟩

/-- The device once its configuration image has passed and its values have been loaded. -/
def configured (s : State) (slot : Nat) (object : List Byte) : State := loadConfig (debugEvent (imageMeasured s slot 3 4 1 object) 0 0) object

theorem configImagePass_loads (hp : s.boot.pwrgood = true) (hslot : slot = bootSlot s) (h1 : stage s = 1) (hsettled : settled (rdyState s 0x39) = true)
    (hgood : GoodImage s slot 4 3 object) (hok : configOk (objectBody object) = true) :
    exec (.configImagePass slot object) s = .next (setStage (configured s slot object) 2) := by
  obtain ⟨hflash, haccepted⟩ := hgood
  have hgo : ¬(stage s ≠ 1 ∨ (!s.boot.pwrgood) = true ∨ (!settled (rdyState s 0x39)) = true ∨ slot ≠ bootSlot s ∨ (!inFlash s slot 3 object) = true ∨
      (!objectAccepted s 4 object) = true ∨ (!configOk (objectBody object)) = true) := by
    simp [hp, h1, hsettled, hflash, haccepted, hok, ← hslot]
  rw [exec_configImagePass, execConfigImagePass, if_neg hgo]
  rfl

theorem configImagePass_passes (h : Canonical s) (hp : s.boot.pwrgood = true) (hslot : slot = bootSlot s) (h1 : stage s = 1)
    (hsettled : settled (rdyState s 0x39) = true) (hgood : GoodImage s slot 4 3 object) (hok : configOk (objectBody object) = true) :
    ∃ t, exec (.configImagePass slot object) s = .next t ∧ stage t = 2 ∧ mrGet t 1 = shake256 (mrGet s 1 ++ (imageOf object).meas) ∧
      t.boot.configLoaded = true ∧ t.boot.dev = fld (sectionOf (objectBody object) 1) 0 2 ∧
      t.boot.devs = fld (sectionOf (objectBody object) 1) 2 2 ∧ t.mem = s.mem := by
  have hc : Canonical (configured s slot object) := (kept_loadConfig (kept_debugEvent (kept_self (imageMeasured_canonical h _ _ _ _ _)))).canon
  obtain ⟨hkeep, hmem, hboot⟩ := loadConfig_kept (debugEvent (imageMeasured s slot 3 4 1 object) 0 0) object
  refine ⟨_, configImagePass_loads hp hslot h1 hsettled hgood hok, stage_setStage hc (by decide), ?_, ?_⟩
  · rw [mrGet_setStage, configured, mrGet_congr hkeep, mrGet_debugEvent_ne (by decide), mrGet_imageMeasured_self]
  · rw [setStage_boot, setStage_mem, configured, hboot, hmem, debugEvent_mem, (imageMeasured_kept s slot 3 4 1 object).1]
    exact ⟨rfl, rfl, rfl, rfl⟩

/-! ### The firmware (16 R628-R630) -/

/-- Control and service firmware measured and in force, in stage 4. -/
def firmwareRuns (s : State) (control service : List Byte) : State :=
  setStage (imageMeasured (imageMeasured s (bootSlot s) 1 2 2 control) (bootSlot s) 2 3 3 service) 4

theorem firmwareRuns_canonical (h : Canonical s) (control service : List Byte) : Canonical (firmwareRuns s control service) :=
  (kept_setStage (kept_self (imageMeasured_canonical (imageMeasured_canonical h _ _ _ _ _) _ _ _ _ _))).canon

theorem firmwareRuns_kept (s : State) (control service : List Byte) : (firmwareRuns s control service).mem = s.mem ∧
    (firmwareRuns s control service).rdy = s.rdy := by
  obtain ⟨hmem, -, hrdy⟩ := imageMeasured_kept s (bootSlot s) 1 2 2 control
  obtain ⟨hmem', -, hrdy'⟩ := imageMeasured_kept (imageMeasured s (bootSlot s) 1 2 2 control) (bootSlot s) 2 3 3 service
  rw [firmwareRuns, setStage_mem, setStage_rdy]
  exact ⟨hmem'.trans hmem, hrdy'.trans hrdy⟩

/-- The control and service units READY. -/
def firmwareReady (s : State) : State := setUnit (setUnit s 0x41 .ready 0) 0x42 .ready 0

/-- The units that train after the firmware has passed. -/
def trainingUnits : List Nat := [6, 0x3B] ++ (List.range 192).map idxChan ++ (List.range 272).map idxCore
/-- The units that are tested. -/
def testingUnits : List Nat := (List.range 20).map idxCtrl ++ (List.range 9).map (0x30 + ·)

/-- The units of the package at the beginning of their bring-up (16 R630). -/
def unitsBegun (s : State) : State := testingUnits.foldl (beginUnit .testing) (trainingUnits.foldl (beginUnit .training) s)

/-- An enabled port begins its training. -/
def trainPort (s : State) (p : Nat) : State :=
  if fget s (regHwsPortCfg p) 0 0 = 0 then s else setUnit (portPut s p { portGet s p with trainAt := s.now }) (idxPort p) .training 0

theorem firmwarePass_runs (hslot : slot = bootSlot s) (h2 : stage s = 2) (hcontrol : GoodImage s slot 2 1 control)
    (hservice : GoodImage s slot 3 2 service) : exec (.firmwarePass control service) s =
      .next ((List.range 16).foldl trainPort (unitsBegun (firmwareReady (firmwareRuns s control service)))) := by
  subst hslot
  obtain ⟨hcflash, hcaccepted⟩ := hcontrol
  obtain ⟨hsflash, hsaccepted⟩ := hservice
  have hgo : ¬(stage s ≠ 2 ∨ (!inFlash s (bootSlot s) 1 control) = true ∨ (!inFlash s (bootSlot s) 2 service) = true ∨
      (!objectAccepted s 2 control) = true ∨ (!objectAccepted s 3 service) = true) := by
    simp [h2, hcflash, hcaccepted, hsflash, hsaccepted]
  rw [exec_firmwarePass, execFirmwarePass, if_neg hgo]
  rfl

/-- A port's training leaves the measurements, memory, STAGE and every unit that is no port. -/
theorem trainPort_kept (h : Canonical s) (p : Nat) : Canonical (trainPort s p) ∧ (trainPort s p).keep = s.keep ∧ (trainPort s p).mem = s.mem ∧
    stage (trainPort s p) = stage s ∧ ∀ i, i < idxPort 0 ∨ idxPort 16 ≤ i → p < 16 → rdyState (trainPort s p) i = rdyState s i := by
  unfold trainPort
  split
  · exact ⟨h, rfl, rfl, rfl, fun _ _ _ => rfl⟩
  · have hc : Canonical (portPut s p { portGet s p with trainAt := s.now }) := (kept_portPut (kept_self h)).canon
    obtain ⟨hmoved, -⟩ := setUnit_moved (portPut s p { portGet s p with trainAt := s.now }) (idxPort p) .training 0
    refine ⟨setUnit_canonical hc _ _ _, hmoved.keep, hmoved.mem, ?_, fun i hi hp => ?_⟩
    · exact congrArg (bits · 15 12) (hmoved.regs regBootStatus (by decide))
    · exact rdyState_setUnit_ne (by unfold idxPort at *; omega) _ _

/-- All ports' training. -/
theorem trainPorts_kept (h : Canonical s) : ((List.range 16).foldl trainPort s).keep = s.keep ∧ ((List.range 16).foldl trainPort s).mem = s.mem ∧
    stage ((List.range 16).foldl trainPort s) = stage s ∧
    ∀ i, i < idxPort 0 ∨ idxPort 16 ≤ i → rdyState ((List.range 16).foldl trainPort s) i = rdyState s i := by
  refine (List.foldlRecOn (List.range 16) _ (motive := fun x => Canonical x ∧ x.keep = s.keep ∧ x.mem = s.mem ∧ stage x = stage s ∧
    ∀ i, i < idxPort 0 ∨ idxPort 16 ≤ i → rdyState x i = rdyState s i) ⟨h, rfl, rfl, rfl, fun _ _ => rfl⟩ fun x hx p hp => ?_).2
  obtain ⟨hc, hkeep, hmem, hstage, hunits⟩ := hx
  obtain ⟨hc', hkeep', hmem', hstage', hunits'⟩ := trainPort_kept hc p
  exact ⟨hc', hkeep'.trans hkeep, hmem'.trans hmem, hstage'.trans hstage, fun i hi => (hunits' i hi (List.mem_range.1 hp)).trans (hunits i hi)⟩

theorem firmwareReady_moved (s : State) : UnitsMoved s (firmwareReady s) := (setUnit_moved s _ _ _).1.trans (setUnit_moved _ _ _ _).1

theorem firmwareReady_canonical (h : Canonical s) : Canonical (firmwareReady s) := setUnit_canonical (setUnit_canonical h _ _ _) _ _ _

theorem unitsBegun_moved (s : State) : UnitsMoved s (unitsBegun s) := (beginUnits_moved _ _ _).trans (beginUnits_moved _ _ _)

theorem unitsBegun_canonical (h : Canonical s) : Canonical (unitsBegun s) := beginUnits_canonical (beginUnits_canonical h _ _) _ _

/-- A unit that was not absent does not begin again. -/
theorem rdyState_unitsBegun_present (h : Canonical s) {i : Nat} (hi : rdyState s i ≠ .absent) : rdyState (unitsBegun s) i = rdyState s i := by
  have htraining : rdyState (trainingUnits.foldl (beginUnit .training) s) i = rdyState s i := by
    rw [rdyState_beginUnits h, if_neg fun e => hi e.1]
  rw [unitsBegun, rdyState_beginUnits (beginUnits_canonical h _ _), if_neg (by rw [htraining]; exact fun e => hi e.1), htraining]

theorem rdyState_unitsBegun_training (h : Canonical s) {i : Nat} (hi : rdyState s i = .absent) (hl : i ∈ trainingUnits) :
    rdyState (unitsBegun s) i = .training := by
  have htraining : rdyState (trainingUnits.foldl (beginUnit .training) s) i = .training := by
    rw [rdyState_beginUnits h, if_pos ⟨hi, hl⟩]
  rw [unitsBegun, rdyState_beginUnits (beginUnits_canonical h _ _), if_neg (by rw [htraining]; exact nofun), htraining]

theorem rdyState_unitsBegun_testing (h : Canonical s) {i : Nat} (hi : rdyState s i = .absent) (hno : i ∉ trainingUnits) (hl : i ∈ testingUnits) :
    rdyState (unitsBegun s) i = .testing := by
  have htraining : rdyState (trainingUnits.foldl (beginUnit .training) s) i = .absent := by
    rw [rdyState_beginUnits h, if_neg fun e => hno e.2, hi]
  rw [unitsBegun, rdyState_beginUnits (beginUnits_canonical h _ _), if_pos ⟨htraining, hl⟩]

theorem idxChan_training {c : Nat} (hc : c < 192) : idxChan c ∈ trainingUnits :=
  List.mem_append_left _ (List.mem_append_right _ (List.mem_map_of_mem (List.mem_range.2 hc)))

theorem idxCore_training {c : Nat} (hc : c < 272) : idxCore c ∈ trainingUnits := List.mem_append_right _ (List.mem_map_of_mem (List.mem_range.2 hc))

theorem idxCtrl_testing {c : Nat} (hc : c < 20) : idxCtrl c ∈ testingUnits := List.mem_append_left _ (List.mem_map_of_mem (List.mem_range.2 hc))

theorem idxCtrl_notTraining {c : Nat} (hc : c < 20) : idxCtrl c ∉ trainingUnits := by
  intro h
  simp only [trainingUnits, idxCtrl, idxChan, idxCore, List.mem_append, List.mem_cons, List.not_mem_nil, or_false, List.mem_map, List.mem_range] at h
  rcases h with ((h | h) | ⟨x, _, h⟩) | ⟨x, _, h⟩ <;> omega

/-- What the passing of the firmware leaves. -/
structure FirmwarePassed (s t : State) (control service : List Byte) : Prop where
  fourth : stage t = 4
  controlUnit : rdyState t 0x41 = .ready
  serviceUnit : rdyState t 0x42 = .ready
  mr2 : mrGet t 2 = shake256 (mrGet s 2 ++ (imageOf control).meas)
  mr3 : mrGet t 3 = shake256 (mrGet s 3 ++ (imageOf service).meas)
  mem : t.mem = s.mem
  chans : ∀ c, c < 192 → rdyState s (idxChan c) = .absent → rdyState t (idxChan c) = .training
  cores : ∀ c, c < 272 → rdyState s (idxCore c) = .absent → rdyState t (idxCore c) = .training
  ctrls : ∀ c, c < 20 → rdyState s (idxCtrl c) = .absent → rdyState t (idxCtrl c) = .testing

theorem firmwarePassed (h : Canonical s) (control service : List Byte) :
    FirmwarePassed s ((List.range 16).foldl trainPort (unitsBegun (firmwareReady (firmwareRuns s control service)))) control service := by
  have hruns := firmwareRuns_canonical h control service
  have hready := firmwareReady_canonical hruns
  have hmoved := (firmwareReady_moved (firmwareRuns s control service)).trans (unitsBegun_moved _)
  obtain ⟨hkeep, hmem, hstage, hunits⟩ := trainPorts_kept (unitsBegun_canonical hready)
  have hmr : ∀ n, mrGet ((List.range 16).foldl trainPort (unitsBegun (firmwareReady (firmwareRuns s control service)))) n =
      mrGet (firmwareRuns s control service) n := mrGet_congr (hkeep.trans hmoved.keep)
  have hservice : rdyState (firmwareReady (firmwareRuns s control service)) 0x42 = .ready := rdyState_setUnit_self (setUnit_canonical hruns _ _ _) _ _ _
  have hcontrol : rdyState (firmwareReady (firmwareRuns s control service)) 0x41 = .ready :=
    (rdyState_setUnit_ne (by decide) _ _).trans (rdyState_setUnit_self hruns _ _ _)
  obtain ⟨hrunsMem, hrunsRdy⟩ := firmwareRuns_kept s control service
  have hothers : ∀ i, i ≠ 0x41 → i ≠ 0x42 → rdyState (firmwareReady (firmwareRuns s control service)) i = rdyState s i := fun i h1 h2 =>
    by
    rw [firmwareReady, rdyState_setUnit_ne h2, rdyState_setUnit_ne h1, rdyState, rdyGet, hrunsRdy, rdyState, rdyGet]
  have hports : ∀ i, (i < 0x1C0 ∨ 0x1D0 ≤ i) → i < idxPort 0 ∨ idxPort 16 ≤ i := fun i hi => by unfold idxPort; omega
  constructor
  case fourth =>
    have hbegun : stage (unitsBegun (firmwareReady (firmwareRuns s control service))) = stage (firmwareRuns s control service) :=
      congrArg (bits · 15 12) (hmoved.regs regBootStatus (by decide))
    exact (hstage.trans hbegun).trans (stage_setStage (imageMeasured_canonical (imageMeasured_canonical h _ _ _ _ _) _ _ _ _ _) (by decide))
  case controlUnit =>
    rw [hunits _ (hports _ (by decide)), rdyState_unitsBegun_present hready (by rw [hcontrol]; exact nofun), hcontrol]
  case serviceUnit =>
    rw [hunits _ (hports _ (by decide)), rdyState_unitsBegun_present hready (by rw [hservice]; exact nofun), hservice]
  case mr2 => rw [hmr, firmwareRuns, mrGet_setStage, mrGet_imageMeasured_ne (by decide), mrGet_imageMeasured_self]
  case mr3 => rw [hmr, firmwareRuns, mrGet_setStage, mrGet_imageMeasured_self, mrGet_imageMeasured_ne (by decide)]
  case mem => exact (hmem.trans hmoved.mem).trans hrunsMem
  case chans =>
    intro c hc ha
    have hindex : idxChan c = 0x100 + c := rfl
    rw [hunits _ (hports _ (by omega))]
    exact rdyState_unitsBegun_training hready ((hothers _ (by omega) (by omega)).trans ha) (idxChan_training hc)
  case cores =>
    intro c hc ha
    have hindex : idxCore c = 0x200 + c := rfl
    rw [hunits _ (hports _ (by omega))]
    exact rdyState_unitsBegun_training hready ((hothers _ (by omega) (by omega)).trans ha) (idxCore_training hc)
  case ctrls =>
    intro c hc ha
    have hindex : idxCtrl c = 0x10 + c := rfl
    rw [hunits _ (hports _ (by omega))]
    exact rdyState_unitsBegun_testing hready ((hothers _ (by omega) (by omega)).trans ha) (idxCtrl_notTraining hc) (idxCtrl_testing hc)

/-! ### Rejections (16 R621, R628) -/

theorem imageRejected_flash (h : Canonical s) (hp : s.boot.pwrgood = true) (hslot : slot = bootSlot s) (h0 : stage s = 0) :
    ∃ t, exec (.imageRejected slot 0) s = .next t ∧ stage t = 15 ∧ fget t regBootStatus 7 0 = 4 := by
  have hset : Canonical (setStage s 15) := (kept_setStage (kept_self h)).canon
  have hexec : exec (.imageRejected slot 0) s = .next (fset (setStage s 15) regBootStatus 7 0 4) := by
    rw [exec_imageRejected, execImageRejected]
    dsimp only
    rw [if_neg (by simp [hp, h0, ← hslot]), if_pos rfl]
  exact ⟨_, hexec, (fget_fset_apart hset _ _ (by decide) (by decide)).trans (stage_setStage h (by decide)), fget_fset_self hset _ _ (by decide) (by decide)⟩

/-- A rejected keeper image is noted among those that have been tried. -/
def keeperTried (s : State) (slot : Nat) : State := bootMap s fun b => { b with tried := b.tried ++ [8 * slot + 1] }

theorem imageRejected_keeper (hp : s.boot.pwrgood = true) (hslot : slot = bootSlot s) (h0 : stage s = 0) : exec (.imageRejected slot 1) s =
    if (keeperTried s slot).boot.tried.length < 2 then .next (setStage (keeperTried s slot) 0)
    else .next (fset (setStage (keeperTried s slot) 15) regBootStatus 7 0 (((keeperTried s slot).boot.tried.map (· % 8)).foldl max 0)) := by
  rw [exec_imageRejected, execImageRejected]
  dsimp only
  rw [if_neg (by simp [hp, h0, ← hslot])]
  rfl

theorem imageRejected_other (h : Canonical s) (hp : s.boot.pwrgood = true) (hslot : slot = bootSlot s) (h0 : stage s = 0) (hfirst : s.boot.tried = []) :
    ∃ t, exec (.imageRejected slot 1) s = .next t ∧ stage t = 0 ∧ t.boot.tried = [8 * slot + 1] ∧ t.mem = s.mem := by
  have htried : (keeperTried s slot).boot.tried = [8 * slot + 1] := congrArg (· ++ [8 * slot + 1]) hfirst
  have hc : Canonical (keeperTried s slot) := (kept_bootMap (kept_self h)).canon
  refine ⟨_, (imageRejected_keeper hp hslot h0).trans (if_pos (by rw [htried]; exact Nat.one_lt_two)), stage_setStage hc (by decide), htried, rfl⟩

theorem imageRejected_halts (h : Canonical s) (hp : s.boot.pwrgood = true) (hslot : slot = bootSlot s) (h0 : stage s = 0) {a : Nat}
    (hsecond : s.boot.tried = [a]) : ∃ t, exec (.imageRejected slot 1) s = .next t ∧ stage t = 15 ∧ t.mem = s.mem := by
  have htried : (keeperTried s slot).boot.tried = [a, 8 * slot + 1] := congrArg (· ++ [8 * slot + 1]) hsecond
  have hc : Canonical (keeperTried s slot) := (kept_bootMap (kept_self h)).canon
  have hset : Canonical (setStage (keeperTried s slot) 15) := (kept_setStage (kept_self hc)).canon
  refine ⟨_, (imageRejected_keeper hp hslot h0).trans (if_neg (by rw [htried]; exact Nat.lt_irrefl 2)), ?_, rfl⟩
  exact (fget_fset_apart hset _ _ (by decide) (by decide)).trans (stage_setStage hc (by decide))

theorem imageRejected_unknown (s : State) (slot : Nat) : exec (.imageRejected slot 5) s = .next s := by
  rw [exec_imageRejected, execImageRejected]
  dsimp only
  exact if_pos (.inr (.inl (by simp)))

theorem bootFwReady_sets {k : Nat} (hk : k < 20) (hready : rdyState s (idxCtrl k) = .ready) :
    exec (.bootFwReady k) s = .next (event s regBootFwReady 0) := by
  rw [exec_bootFwReady, execBootFwReady, if_neg (not_or.2 ⟨Nat.not_le.2 hk, not_not.2 hready⟩)]

/-- Settles O52: each stage of start-up, and what the rejection of an image does. -/
theorem startUpStages : Obligations.StartUpStages := by
  unfold Obligations.StartUpStages
  intro s slot kind k object control service h hp hslot
  dsimp only
  refine ⟨keeperImagePass_passes h hp hslot, keeperImagePass_dropped, configImagePass_passes h hp hslot, fun h2 hcontrol hservice => ?firmware,
    imageRejected_flash h hp hslot, imageRejected_other h hp hslot, fun a h0 => imageRejected_halts h hp hslot h0, fun hk hready => ?ready, fun h5 => ?unknown⟩
  case firmware =>
    have hpassed := firmwarePassed h control service
    exact ⟨_, firmwarePass_runs hslot h2 hcontrol hservice, hpassed.fourth, hpassed.controlUnit, hpassed.serviceUnit, hpassed.mr2, hpassed.mr3, hpassed.mem,
      hpassed.chans, hpassed.cores, hpassed.ctrls⟩
  case ready => exact ⟨_, bootFwReady_sets hk hready, bit_event_self h (by decide), rfl, rfl, rfl⟩
  case unknown => rw [h5]; exact imageRejected_unknown s slot

end Sys2Proof.Machine
end

section
/-! SUPPORT. Requests of the host on layers and pipelines (14 R537-R549; 18 R692-R694). -/

namespace Sys2Proof.Machine

variable {s t u : State} {req : Nat} {r : Request} {p : Pipeline}

/-! ### What a completion and a plan item leave -/

@[simp] theorem acceptReq_upd (s : State) (id : Nat) (r : Request) : (acceptReq s id r).upd = s.upd := by
  rw [acceptReq, completeReq_side]

@[simp] theorem layerGet_acceptReq (s : State) (id : Nat) (r : Request) (j : Nat) : layerGet (acceptReq s id r) j = layerGet s j :=
  layerGet_congr (acceptReq_upd _ _ _) j

@[simp] theorem layerGet_planLater (s : State) (items : List (List Byte)) (j : Nat) : layerGet (planLater s items) j = layerGet s j := rfl

@[simp] theorem layerGet_askGrant (s : State) (id : Nat) (r : Request) (j : Nat) : layerGet (askGrant s id r) j = layerGet s j := rfl

@[simp] theorem tblRuleGet_acceptReq (s : State) (id : Nat) (r : Request) (j : Nat) : tblRuleGet (acceptReq s id r) j = tblRuleGet s j := by
  rw [tblRuleGet, acceptReq_upd, tblRuleGet]

theorem tblRuleGet_tblRulePut_self (s : State) (id : Nat) (x : TblRule) : tblRuleGet (tblRulePut s id x) id = x := by
  show (pfind (pput s.upd.tblRules id x) id).getD _ = x
  rw [pfind_pput_self]
  rfl

/-! ### Reserved ranges (14 R536, R540) -/

/-- Memory has been reserved: the device's list of ranges has grown, and nothing else has changed. -/
def Reserved (s t : State) : Prop := t = { s with upd := { s.upd with ranges := t.upd.ranges } }

theorem Reserved.trans (h : Reserved s t) (k : Reserved t u) : Reserved s u := by
  unfold Reserved at *
  rw [k, h]

theorem Reserved.mem (h : Reserved s t) : t.mem = s.mem := by rw [h]
theorem Reserved.emb (h : Reserved s t) : t.emb = s.emb := by rw [h]
theorem Reserved.layerGet (h : Reserved s t) (j : Nat) : layerGet t j = layerGet s j := by
  rw [h]
  rfl

theorem Reserved.canonical (h : Reserved s t) (hc : Canonical s) : Canonical t := by
  rw [h]
  exact { hc with }

theorem rangeTake_reserved {key lo hi n a : Nat} (h : rangeTake s key lo hi n = some (a, t)) : Reserved s t := by
  unfold rangeTake at h
  split at h
  · cases h
    rfl
  · obtain ⟨b, -, hb⟩ := Option.map_eq_some_iff.1 h
    cases hb
    rfl

theorem layerTake_reserved {key n a : Nat} (h : layerTake s key n = some (a, t)) : Reserved s t := rangeTake_reserved h

theorem rangeHigh_reserved {key n a : Nat} (h : rangeHigh s key n = some (a, t)) : Reserved s t := by
  unfold rangeHigh at h
  obtain ⟨b, -, hb⟩ := Option.map_eq_some_iff.1 h
  cases hb
  rfl

theorem rangeFree_reserved (s : State) (key : Nat) : Reserved s (rangeFree s key) := rfl

theorem growLayer_reserved {id : Nat} {l : Layer} {b : List Byte} (h : growLayer s id l b = some t) : Reserved s t := by
  obtain ⟨⟨a, u⟩, hu, rfl⟩ := Option.map_eq_some_iff.1 h
  exact layerTake_reserved hu

/-! ### Layers (14 R537-R540) -/

/-- The layer that a registration asks for. -/
def askedLayer (s : State) (r : Request) : Layer :=
  let w := reqParam r 1
  { layerReset with
    rows := bits (reqParam r 0) 31 0, cols := bits (reqParam r 0) 63 32, fmt := bits w 3 0, slicing := bits w 5 4, gfmt := bits w 6 6
    stepTicks := bits w 31 16, pushHitch := bits w 47 32, startTick := reqParam r 2, owner := newOwner s (reqId r) }

/-- The layer that a registration leaves until control firmware has planned it: its buffers, and the rule that serves first. -/
def newLayer (a : Nat) (b : List Byte) : Layer := { layerReset with base := a, nextRule := some b }

theorem lyrRegister_refused (hb : Begins s (.lyrRegister req) req r) (h : 1024 ≤ reqId r ∨ (layerGet s (reqId r)).state ≠ 0) :
    exec (.lyrRegister req) s = .next (refuseReq s req r) :=
  (hb.runs rfl).trans (congrArg _ (if_pos (h.imp_right .inl)))

/-- A layer that may be registered: it is new, its shape, format and step are in range, and its rule block is good (14 R537, R540, R549). -/
structure LayerAllowed (s : State) (r : Request) : Prop where
  id : reqId r < 1024
  new : (layerGet s (reqId r)).state = 0
  space : (s.upd.ranges.any fun e => e.1 == 16384 + reqId r) = false
  someRows : 0 < (askedLayer s r).rows
  mostRows : (askedLayer s r).rows ≤ 65536
  someCols : 0 < (askedLayer s r).cols
  mostCols : (askedLayer s r).cols ≤ 65536
  size : (askedLayer s r).rows * (askedLayer s r).cols ≤ 2 ^ 26
  format : (askedLayer s r).fmt ≤ 4
  slicing : (askedLayer s r).slicing ≤ 2
  step : 0 < (askedLayer s r).stepTicks
  hitch : 0x1000 ≤ (askedLayer s r).pushHitch
  rule : ruleOk false (hostBytes s (reqParam r 3) 64) = true

theorem lyrRegister_registers {a0 a : Nat} {s1 s2 : State} (hb : Begins s (.lyrRegister req) req r) (h : LayerAllowed s r)
    (hslow : layerTake s (8192 + reqId r) (layerSlow (askedLayer s r).rows (askedLayer s r).cols (hostBytes s (reqParam r 3) 64)) = some (a0, s1))
    (hhigh : rangeHigh s1 (16384 + reqId r) (layerBuffers (askedLayer s r) (devCount s1)) = some (a, s2)) :
    exec (.lyrRegister req) s = .next (acceptReq (planLater (layerPut s2 (reqId r) (newLayer a (hostBytes s (reqParam r 3) 64)))
      [layerItem (reqId r) 2 (askedLayer s r)]) req r) := by
  obtain ⟨hid, hnew, hspace, hrows, hrows', hcols, hcols', hsize, hfmt, hslice, hstep, hhitch, hrule⟩ := h
  have hgo : ¬(1024 ≤ reqId r ∨ (layerGet s (reqId r)).state ≠ 0 ∨ (s.upd.ranges.any fun e => e.1 == 16384 + reqId r) = true ∨
      (askedLayer s r).rows = 0 ∨ 65536 < (askedLayer s r).rows ∨ (askedLayer s r).cols = 0 ∨ 65536 < (askedLayer s r).cols ∨
      2 ^ 26 < (askedLayer s r).rows * (askedLayer s r).cols ∨ 4 < (askedLayer s r).fmt ∨ 2 < (askedLayer s r).slicing ∨
      (askedLayer s r).stepTicks = 0 ∨ (askedLayer s r).pushHitch < 0x1000 ∨ (!ruleOk false (hostBytes s (reqParam r 3) 64)) = true) := by
    rw [hrule, hspace]
    simp only [Bool.not_true, Bool.false_eq_true, false_or, or_false]
    omega
  refine (hb.runs rfl).trans (congrArg _ ((if_neg hgo).trans ?_))
  have hslow' : layerTake s (8192 + reqId r) (layerSlow (bits (reqParam r 0) 31 0) (bits (reqParam r 0) 63 32) (hostBytes s (reqParam r 3) 64)) =
    some (a0, s1) := hslow
  dsimp only
  rw [hslow']
  dsimp only
  unfold askedLayer at hhigh
  rw [hhigh]
  rfl

theorem lyrLoad_loads (hb : Begins s (.lyrLoad req) req r) (hid : reqId r < 1024) (hst : (layerGet s (reqId r)).state ≠ 0) (hver : reqParam r 0 < 65536) :
    exec (.lyrLoad req) s = .next (if (layerGet s (reqId r)).owner = s.boot.dev then reqPut s req { r with stage := .running } else askGrant s req r) := by
  refine (hb.runs rfl).trans (congrArg _ ((if_neg ?_).trans (ite_not _ _ _)))
  rintro (h | h | h)
  · omega
  · exact hst h
  · omega

/-- A layer that starts again from a master of the host's (14 R540). -/
def loadedLayer (s : State) (r : Request) (l : Layer) : Layer :=
  { l with
    master := (List.range (l.rows * l.cols)).map fun i => leNat (hostBytes s (reqParam r 1 + 4 * i) 4)
    st1 := List.replicate (l.rows * l.cols) 0, st2 := List.replicate (l.rows * l.cols) 0, blocks := freshBlocks l, refresh := none, fresh := []
    steps := 0, resetVer := reqParam r 0, heldScatter := some (reqParam r 0) }

theorem lyrLoadDone_starts (hget : reqGet s req = some r) (hop : reqOp r = 0x21) (hrun : r.stage = .running) (hdma : dmaOn s = true)
    (hrugon : rugonUp s = true) (hst : (layerGet s (reqId r)).state ≠ 0) : exec (.lyrLoadDone req) s =
      .next (askGrant (layerPut s (reqId r) (loadedLayer s r (layerGet s (reqId r)))) req r) := by
  have hgo : ¬(reqOp r ≠ 0x21 ∨ r.stage ≠ .running ∨ (!dmaOn s) = true ∨ (!rugonUp s) = true ∨ (layerGet s (reqId r)).state = 0) := by
    simp [hop, hrun, hdma, hrugon, hst]
  rw [exec_lyrLoadDone, execLyrLoadDone, hget]
  exact if_neg hgo

theorem lyrFreeze_asks (hb : Begins s (.lyrFreeze req) req r) (hid : reqId r < 1024) (hst : (layerGet s (reqId r)).state ≠ 0) (hv : reqParam r 0 ≤ 1) :
    exec (.lyrFreeze req) s = .next (acceptReq (planLater s
      [layerItem (reqId r) (if reqParam r 0 = 1 then 3 else 4) (layerGet s (reqId r))]) req r) :=
  (hb.runs rfl).trans (congrArg _ (if_neg (by omega)))

theorem lyrRetire_asks (hb : Begins s (.lyrRetire req) req r) (hid : reqId r < 1024) (hst : (layerGet s (reqId r)).state ≠ 0) :
    exec (.lyrRetire req) s = .next (acceptReq (planLater s [layerItem (reqId r) 1 (layerGet s (reqId r))]) req r) :=
  (hb.runs rfl).trans (congrArg _ (if_neg (by omega)))

theorem lyrRetire_refused (hb : Begins s (.lyrRetire req) req r) (hst : (layerGet s (reqId r)).state = 0) :
    exec (.lyrRetire req) s = .next (refuseReq s req r) :=
  (hb.runs rfl).trans (congrArg _ (if_pos (.inr hst)))

/-- New parameters name a layer, and a good rule block (14 R540, R549). -/
structure ParamsAllowed (s : State) (r : Request) : Prop where
  id : reqId r < 1024
  held : (layerGet s (reqId r)).state ≠ 0
  rule : ruleOk false (hostBytes s (reqParam r 0) 64) = true

theorem ParamsAllowed.goes (h : ParamsAllowed s r) :
    ¬(1024 ≤ reqId r ∨ (layerGet s (reqId r)).state = 0 ∨ (!ruleOk false (hostBytes s (reqParam r 0) 64)) = true) := by
  rw [h.rule]
  rintro (h' | h' | h')
  · exact absurd h.id (Nat.not_lt.2 h')
  · exact h.held h'
  · cases h'

theorem lyrParams_refused (hb : Begins s (.lyrParams req) req r) (h : ParamsAllowed s r)
    (hgrow : growLayer s (reqId r) (layerGet s (reqId r)) (hostBytes s (reqParam r 0) 64) = none) :
    exec (.lyrParams req) s = .next (refuseReq s req r) := by
  refine (hb.runs rfl).trans (congrArg _ ((if_neg h.goes).trans ?_))
  rw [hgrow]

theorem lyrParams_takes (hb : Begins s (.lyrParams req) req r) (h : ParamsAllowed s r)
    (hgrow : growLayer s (reqId r) (layerGet s (reqId r)) (hostBytes s (reqParam r 0) 64) = some t) : exec (.lyrParams req) s =
      .next (acceptReq (layerPut t (reqId r) { layerGet s (reqId r) with nextRule := some (hostBytes s (reqParam r 0) 64) }) req r) := by
  refine (hb.runs rfl).trans (congrArg _ ((if_neg h.goes).trans ?_))
  rw [hgrow]

theorem tblRule_refused (hb : Begins s (.tblRule req) req r) (hst : (tableGet s (reqId r)).state = 0) :
    exec (.tblRule req) s = .next (refuseReq s req r) :=
  (hb.runs rfl).trans (congrArg _ (if_pos (.inr (.inl hst))))

/-- The rule block of a table with the address of its rings. -/
def ringedRule (b : List Byte) (a : Nat) : List Byte := b.take 0x34 ++ natLe 6 a ++ b.drop 0x3A

theorem tblRule_takes {a : Nat} {s1 : State} (hb : Begins s (.tblRule req) req r) (hid : reqId r < 4096) (hst : (tableGet s (reqId r)).state ≠ 0)
    (htrain : (tableGet s (reqId r)).train = true) (hrule : ruleOk true (hostBytes s (reqParam r 0) 64) = true)
    (hroom : rangeHigh (rangeFree s (65536 + reqId r)) (65536 + reqId r)
      (ringBytes (tableGet s (reqId r)) (rbRecs (hostBytes s (reqParam r 0) 64))) = some (a, s1)) : exec (.tblRule req) s =
      .next (acceptReq (tblRulePut s1 (reqId r) { tblRuleGet s (reqId r) with
        nextRule := some (ringedRule (hostBytes s (reqParam r 0) 64) a) }) req r) := by
  have hgo : ¬(4096 ≤ reqId r ∨ (tableGet s (reqId r)).state = 0 ∨ (!(tableGet s (reqId r)).train) = true ∨
      (!ruleOk true (hostBytes s (reqParam r 0) 64)) = true) := by
    rw [hrule, htrain]
    rintro (h | h | h | h)
    · omega
    · exact hst h
    · cases h
    · cases h
  refine (hb.runs rfl).trans (congrArg _ ((if_neg hgo).trans ?_))
  dsimp only
  rw [hroom]
  rfl

/-! ### Pipelines (18 R692, R693) -/

/-- The pipeline that a registration asks for. -/
def askedPipe (r : Request) (req : Nat) : Pipeline :=
  ⟨reqParam r 0, bits (reqParam r 1) 31 0, reqParam r 2, bits (reqParam r 1) 63 32, bits (reqParam r 3) 15 0, bit (reqParam r 3) 16, false, false, req, 0⟩

/-- The device with a pipeline in its list, as its template is checked. -/
def pipeTried (s : State) (id : Nat) (p : Pipeline) : State := { s with pci := { s.pci with pipes := s.pci.pipes ++ [(id, { p with active := true })] } }

/-- A pipeline that may be registered (18 R692). -/
structure PipeAllowed (s : State) (id : Nat) (p : Pipeline) : Prop where
  named : 0 < id
  most : id < 4096
  new : pipeGet s id = none
  code : p.code % 4096 = 0
  somePages : 0 < p.pages
  mostPages : p.pages ≤ 65536
  range : hbmRange s p.code (p.pages * 4096) = true
  template : p.template % 128 = 0
  above : p.code ≤ p.template
  inside : p.template + 128 ≤ p.code + p.pages * 4096
  result : p.resultBytes ≤ 2 ^ 20
  units : p.resultBytes % 64 = 0
  deadline : 0 < p.deadline
  apart : ∀ e ∈ s.pci.pipes, Machine.apart p.code (p.pages * 4096) e.2.code (e.2.pages * 4096) = true
  slot : inCurrentSlot s p.code (p.pages * 4096) = false
  desc : badDesc (pipeTried s id p) (readBytes s p.template 128) false = false

theorem pipeRegister_waits (hb : Begins s (.pipeRegister req) req r) (h : PipeAllowed s (reqId r) (askedPipe r req)) :
    exec (.pipeRegister req) s = .next (reqPut { s with pci := { s.pci with pipes := pput s.pci.pipes (reqId r) (askedPipe r req) } } req
      { r with stage := .running }) := by
  obtain ⟨hid, hmost, hnew, hcode, hpages, hpages', hrange, htemplate, habove, hinside, hresult, hunits, hdeadline, hapart, hslot, hdesc⟩ := h
  have hclash : (s.pci.pipes.any fun e => !apart (askedPipe r req).code ((askedPipe r req).pages * 4096) e.2.code (e.2.pages * 4096)) = false := by
    rw [List.any_eq_false]
    intro e he
    rw [hapart e he]
    exact Bool.false_ne_true
  refine (hb.runs rfl).trans (congrArg _ (if_neg ?_))
  rintro (h | h | h | h | h | h | h | h | h | h | h | h | h | h | h | h)
  · omega
  · omega
  · rw [hnew] at h
    cases h
  · exact h hcode
  · exact absurd h (Nat.ne_of_gt hpages)
  · exact absurd hpages' (Nat.not_le.2 h)
  · exact Bool.false_ne_true ((congrArg not hrange).symm.trans h)
  · exact h htemplate
  · exact absurd habove (Nat.not_le.2 h)
  · exact absurd hinside (Nat.not_le.2 h)
  · exact absurd hresult (Nat.not_le.2 h)
  · exact h hunits
  · exact absurd h (Nat.ne_of_gt hdeadline)
  · exact Bool.false_ne_true (hclash.symm.trans h)
  · exact Bool.false_ne_true (hslot.symm.trans h)
  · exact Bool.false_ne_true (hdesc.symm.trans h)

theorem pipeRegister_refused (hb : Begins s (.pipeRegister req) req r) (h : reqId r = 0 ∨ (pipeGet s (reqId r)).isSome = true) :
    exec (.pipeRegister req) s = .next (refuseReq s req r) :=
  (hb.runs rfl).trans (congrArg _ (if_pos (h.imp_right fun hk => .inr (.inl hk))))

theorem pipeUnregister_waits (hb : Begins s (.pipeUnregister req) req r) (hp : pipeGet s (reqId r) = some p) (hactive : p.active = true)
    (hstays : p.unregistering = false) : exec (.pipeUnregister req) s = .next (reqPut
      { s with pci := { s.pci with pipes := pput s.pci.pipes (reqId r) { p with unregistering := true, unregReq := req } } } req
      { r with stage := .running }) := by
  refine (hb.runs rfl).trans (congrArg _ ?_)
  rw [hp]
  exact if_neg (by simp [hactive, hstays])

theorem pipeUnregister_refused (hb : Begins s (.pipeUnregister req) req r) (hp : pipeGet s (reqId r) = none) :
    exec (.pipeUnregister req) s = .next (refuseReq s req r) := by
  refine (hb.runs rfl).trans (congrArg _ ?_)
  rw [hp]

/-! ### Instantiation (18 R694; 10 R396) -/

theorem instantiate_refused (hb : Begins s (.instantiate req) req r) (hp : pipeGet s (reqId r) = none) :
    exec (.instantiate req) s = .next (refuseReq s req r) := by
  refine (hb.runs rfl).trans (congrArg _ ?_)
  rw [hp]

/-- What a request does with the scheduler's answer to its root task. -/
def rootAnswered (a : Nat × State) (req : Nat) (r : Request) : State :=
  if a.1 = 0 then reqPut a.2 req { r with rootWaits := decide (2 ≤ a.1), stage := .running }
  else if a.1 = 1 then refuseReq a.2 req { r with rootWaits := decide (2 ≤ a.1) } else reqPut a.2 req { r with rootWaits := decide (2 ≤ a.1) }

theorem rootAnswered_accepted {a : Nat × State} (h : a.1 = 0) :
    rootAnswered a req r = reqPut a.2 req { r with rootWaits := false, stage := .running } := by
  rw [rootAnswered, if_pos h, h]
  rfl

theorem rootAnswered_bad {a : Nat × State} (h : a.1 = 1) : rootAnswered a req r = refuseReq a.2 req { r with rootWaits := false } := by
  rw [rootAnswered, if_neg (by omega), if_pos h, h]
  rfl

theorem rootAnswered_full {a : Nat × State} (h : 2 ≤ a.1) : rootAnswered a req r = reqPut a.2 req { r with rootWaits := true } := by
  rw [rootAnswered, if_neg (by omega), if_neg (by omega), decide_eq_true h]

/-- A request on a pipeline that takes it submits its root task, and goes by the scheduler's answer. -/
theorem instantiate_submits (hb : Begins s (.instantiate req) req r) (hp : pipeGet s (reqId r) = some p) (hactive : p.active = true)
    (hstays : p.unregistering = false) (hroom : reqParam r 1 ≤ p.resultBytes) :
    exec (.instantiate req) s = .next (rootAnswered (submit s (rootDesc s req r p) req false) req r) := by
  have hgo : ¬((!p.active) = true ∨ p.unregistering = true ∨ p.resultBytes < reqParam r 1) := by
    simp [hactive, hstays, hroom]
  refine (hb.runs rfl).trans (congrArg _ ?_)
  rw [hp]
  refine (if_neg hgo).trans ?_
  generalize submit s (rootDesc s req r p) req false = a
  rfl

/-- The scheduler answers 1 only for a bad descriptor, and no task comes of it (10 R396). -/
theorem submit_bad {b : List Byte} {inner : Bool} (h : (submit s b req inner).1 = 1) : (submit s b req inner).2.sch = s.sch := by
  cases hb : badDesc s b inner with
  | true =>
    rw [submit_refused hb]
    exact bump_sch s _ 1
  | false =>
    by_cases hd : DueLater s (readDesc b)
    · by_cases hl : delayLen s (dieOf s (targetNow s (readDesc b)).1) < 65536
      · obtain ⟨t, y, hsub, -⟩ := submit_delayed (req := req) hb hd hl
        rw [hsub] at h
        cases h
      · have hsub : submit s b req inner = (3, event s regSchEvents 1) :=
          (if_neg (by rw [hb]; exact Bool.false_ne_true)).trans ((if_pos hd).trans (if_pos (Nat.not_lt.1 hl)))
        rw [hsub] at h
        cases h
    · by_cases hl : listLen s (targetNow s (readDesc b)).1 (readDesc b).prio < 1024
      · obtain ⟨t, y, hsub, -⟩ := submit_ready (req := req) hb hd hl
        rw [hsub] at h
        cases h
      · rw [submit_full hb hd (Nat.not_lt.1 hl)] at h
        cases h

/-- What has been put in a map is in it. -/
theorem self_mem_pput {α : Type} (m : List (Nat × α)) (k : Nat) (v : α) : (k, v) ∈ pput m k v := by
  induction m with
  | nil => exact List.mem_singleton_self _
  | cons e m ih =>
    unfold pput
    split
    · exact List.mem_cons_self
    · split
      · exact List.mem_cons_self
      · exact List.mem_cons_of_mem _ ih

/-- A request that waits for room in the task list blocks its queue. -/
theorem queueBlocked_waiting (hst : r.stage = .waitUnits) : queueBlocked (reqPut s req { r with rootWaits := true }) r.queue = true := by
  refine List.any_eq_true.2 ⟨(req, { r with rootWaits := true }), self_mem_pput _ _ _, ?_⟩
  simp [hst]

theorem Begins.waits {c : Instr} (hb : Begins s c req r) : r.stage = .waitUnits := by
  obtain ⟨-, -, -, -, -, hturn, -⟩ := hb
  unfold mayBegin at hturn
  exact beq_iff_eq.1 (Bool.and_eq_true_iff.1 hturn).1

/-- Settles O56: each operation on layers and pipelines, as it begins or its data has come. -/
theorem layerAndPipelineRequests : Obligations.LayerAndPipelineRequests := by
  unfold Obligations.LayerAndPipelineRequests
  intro s req r hc
  refine ⟨lyrRegister_refused, ?register, lyrLoad_loads, ?load, ?freeze, ?retire, lyrRetire_refused, ?unfit, ?params, ?rule, tblRule_refused, ?pipe,
    pipeRegister_refused, fun p => pipeUnregister_waits, pipeUnregister_refused, instantiate_refused, ?root⟩
  case register =>
    intro a0 a s1 s2 hb w b l hid hnew hspace hrows hrows' hcols hcols' hsize hfmt hslice hstep hhitch hrule hslow hhigh
    have hallowed : LayerAllowed s r := ⟨hid, hnew, hspace, hrows, hrows', hcols, hcols', hsize, hfmt, hslice, hstep, hhitch, hrule⟩
    have hkept : Canonical s2 := (rangeHigh_reserved hhigh).canonical ((layerTake_reserved hslow).canonical hc)
    refine ⟨_, lyrRegister_registers hb hallowed hslow hhigh, ?_, ?_⟩
    · rw [layerGet_acceptReq, layerGet_planLater, layerGet_layerPut_self hkept]
      rfl
    · rw [acceptReq_emb]
      rfl
  case load =>
    intro hget hop hrun hdma hrugon hst
    refine ⟨_, lyrLoadDone_starts hget hop hrun hdma hrugon hst, reqGet_reqPut_self _ _, rfl, ?_⟩
    rw [layerGet_askGrant, layerGet_layerPut_self hc]
    exact ⟨rfl, rfl, rfl, rfl, rfl, fun j hj => layerGet_layerPut_ne _ hj⟩
  case freeze =>
    intro hb hid hst hv
    exact ⟨_, lyrFreeze_asks hb hid hst hv, by rw [acceptReq_emb]; rfl, by rw [acceptReq_upd]; rfl, by rw [acceptReq_mem]; rfl⟩
  case retire =>
    intro hb hid hst
    exact ⟨_, lyrRetire_asks hb hid hst, by rw [acceptReq_emb]; rfl, by rw [acceptReq_upd]; rfl, by rw [acceptReq_mem]; rfl⟩
  case unfit =>
    intro hb hid hst hrule hgrow
    exact lyrParams_refused hb ⟨hid, hst, hrule⟩ hgrow
  case params =>
    intro s1 hb hid hst hrule hgrow
    have hres := growLayer_reserved hgrow
    refine ⟨_, lyrParams_takes hb ⟨hid, hst, hrule⟩ hgrow, ?_, fun j hj => ?_, ?_, ?_⟩
    · rw [layerGet_acceptReq, layerGet_layerPut_self (hres.canonical hc)]
    · rw [layerGet_acceptReq, layerGet_layerPut_ne _ hj, hres.layerGet]
    · exact (acceptReq_emb _ _ _).trans hres.emb
    · exact (acceptReq_mem _ _ _).trans hres.mem
  case rule =>
    intro a s1 hb hid hst htrain b hrule hroom
    refine ⟨_, tblRule_takes hb hid hst htrain hrule hroom, ?_, ?_⟩
    · rw [tblRuleGet_acceptReq, tblRuleGet_tblRulePut_self]
      rfl
    · exact (acceptReq_mem _ _ _).trans ((rangeFree_reserved s _).trans (rangeHigh_reserved hroom)).mem
  case pipe =>
    intro p n tried hb hid hmost hnew hcode hpages hpages' hrange htemplate habove hinside hresult hunits hdeadline hapart hslot hdesc
    exact pipeRegister_waits hb ⟨hid, hmost, hnew, hcode, hpages, hpages', hrange, htemplate, habove, hinside, hresult, hunits, hdeadline, hapart, hslot, hdesc⟩
  case root =>
    intro p hb hp hactive hstays hroom a
    have hmem : a.2.mem = s.mem := (submit_kept s (rootDesc s req r p) req false).2
    have hbad : a.1 = 1 → a.2.sch = s.sch := submit_bad
    have hexec : exec (.instantiate req) s = .next (rootAnswered a req r) := instantiate_submits hb hp hactive hstays hroom
    clear_value a
    refine ⟨fun h0 => ?_, fun h2 => ?_, fun h1 => ?_⟩
    · exact ⟨_, hexec.trans (congrArg _ (rootAnswered_accepted h0)), rfl, reqGet_reqPut_self _ _, hmem⟩
    · exact ⟨_, hexec.trans (congrArg _ (rootAnswered_full h2)), queueBlocked_waiting hb.waits, reqGet_reqPut_self _ _, hmem⟩
    · refine ⟨_, hexec.trans (congrArg _ (rootAnswered_bad h1)), ?_, ?_⟩
      · rw [refuseReq, completeReq_side]
        exact congrArg SchUnit.tasks (hbad h1)
      · rw [refuseReq, completeReq_side]
        exact hmem

end Sys2Proof.Machine
end

section
/-! SUPPORT. O48: faults of cores, control cores, dies and the device (15 R576-R591). -/

namespace Sys2Proof.Machine

variable {s t u : State} {p k die : Nat}

/-! ### Cores (15 R576-R578) -/

/-- A core that is fenced is FENCED, and what FENCE items wait, what number it holds and memory are as they were. -/
structure Fenced (s t : State) (p : Nat) : Prop where
  state : rdyState t (idxCore p) = .fenced
  tsq : t.tsq = s.tsq
  coreMap : t.boot.coreMap = s.boot.coreMap
  mem : t.mem = s.mem

theorem fenceCore_fenced (h : Canonical s) (hq : Quiet s) (hf : rdyState s (idxCore p) ≠ .fenced) (kind : Nat) : Fenced s (fenceCore s p kind) p := by
  obtain ⟨htasks, hbarriers⟩ := hq
  have hmoved := (setUnit_moved s (idxCore p) .fenced kind).1
  have hstate := rdyState_setUnit_self h (idxCore p) .fenced kind
  unfold fenceCore
  rw [if_neg (mt beq_iff_eq.1 hf)]
  extract_lets s1 s2
  have hside : ReportSide (setUnit s (idxCore p) .fenced kind) s1 := bump_side _ _ 1
  have h2 : s2 = s1 := by
    have ht : s1.sch.tasks = [] := by rw [hside, hmoved.side]; exact htasks
    have hb : s1.hit.barriers = [] := by rw [hside, hmoved.side]; exact hbarriers
    exact (breakWhere_quiet (by rw [endGrey_quiet ht]; exact hb) _ _).trans (endGrey_quiet ht _ _)
  have h1 : Fenced s s1 p := by
    refine ⟨?_, ?_, ?_, ?_⟩
    · rw [← hstate]
      exact congrArg (fun m => RdyEntry.state (mget (fun _ => rdyAbsent) m (idxCore p))) (bump_rdy _ _ 1)
    · rw [hside, hmoved.side]
    · rw [hside, hmoved.boot]
    · rw [hside, hmoved.mem]
  clear_value s2
  subst h2
  split
  · exact ⟨h1.state, h1.tsq, h1.coreMap, h1.mem⟩
  · exact h1

/-- The FENCE item that a core fenced by the device itself queues (15 R578). -/
def fenceItems (s : State) (p : Nat) : List FenceItem :=
  match logicalOf s p with
  | some l => [⟨0, l, p, 0xFFFF⟩]
  | none => []

theorem queueFence_fences (s : State) (p : Nat) : (queueFence s p).tsq.fences = s.tsq.fences ++ fenceItems s p ∧
    (queueFence s p).rdy = s.rdy ∧ (queueFence s p).mem = s.mem := by
  cases hl : logicalOf s p with
  | some l =>
    simp only [queueFence, fenceItems, hl]
    exact ⟨trivial, trivial, trivial⟩
  | none =>
    simp only [queueFence, fenceItems, hl, List.append_nil]
    exact ⟨trivial, trivial, trivial⟩

/-- A core fenced after a report is FENCED, and its FENCE item queued. -/
theorem fenced_after_report (h : SameUnits s u) (hq : Quiet s) (hside : ReportSide s u) (hf : rdyState s (idxCore p) ≠ .fenced) (kind : Nat) :
    rdyState (queueFence (fenceCore u p kind) p) (idxCore p) = .fenced ∧
      (queueFence (fenceCore u p kind) p).tsq.fences = s.tsq.fences ++ fenceItems s p ∧ (queueFence (fenceCore u p kind) p).mem = s.mem := by
  have hquiet : Quiet u := by rw [hside]; exact hq
  obtain ⟨hstate, htsq, hmap, hmem⟩ := fenceCore_fenced h.canon hquiet (by rw [h.state]; exact hf) kind
  obtain ⟨hfences, hrdy, hmem'⟩ := queueFence_fences (fenceCore u p kind) p
  have hutsq : u.tsq = s.tsq := by rw [hside]
  have humap : u.boot.coreMap = s.boot.coreMap := by rw [hside]
  have humem : u.mem = s.mem := by rw [hside]
  refine ⟨?_, ?_, hmem'.trans (hmem.trans humem)⟩
  · rw [rdyState, rdyGet, hrdy]
    exact hstate
  · rw [hfences, htsq, hutsq, fenceItems, logicalOf, hmap, humap]
    rfl

theorem coreCheck_skips (h : rdyState s (idxCore p) = .absent ∨ rdyState s (idxCore p) = .fenced) (check : Nat) :
    exec (.coreCheck p check) s = .next s := by
  rw [exec_coreCheck]
  refine if_pos (.inr ?_)
  rcases h with h | h
  · exact .inl (beq_iff_eq.2 h)
  · exact .inr (beq_iff_eq.2 h)

section core
variable (hp : p < 272) (ha : rdyState s (idxCore p) ≠ .absent) (hf : rdyState s (idxCore p) ≠ .fenced)
include hp ha hf

theorem coreCheck_takes : ¬(272 ≤ p ∨ (rdyState s (idxCore p) == .absent) = true ∨ (rdyState s (idxCore p) == .fenced) = true) := by
  rintro (h | h | h)
  · omega
  · exact ha (beq_iff_eq.1 h)
  · exact hf (beq_iff_eq.1 h)

theorem coreCheck_corrected : exec (.coreCheck p 0) s =
    .next (corePut s p { coreGet s p with corrections := (coreGet s p).corrections + 1 }) :=
  (if_neg (coreCheck_takes hp ha hf)).trans (if_pos rfl)

theorem coreCheck_fences (h : Canonical s) (hq : Quiet s) {check : Nat} (hcheck : check ≠ 0) :
    ∃ t, exec (.coreCheck p check) s = .next t ∧ rdyState t (idxCore p) = .fenced ∧ t.tsq.fences = s.tsq.fences ++ fenceItems s p ∧ t.mem = s.mem :=
  ⟨_, (if_neg (coreCheck_takes hp ha hf)).trans (if_neg hcheck),
    fenced_after_report ((SameUnits.refl h).report _ _ _ _) hq (report_side _ _ _ _ _ (unitCode_notView _ _ _ (by decide))) hf _⟩

end core

theorem coreHeartbeat_fences (h : Canonical s) (hq : Quiet s) (hp : p < 272) (hrun : s.tsq.running = true) (hready : rdyState s (idxCore p) = .ready)
    (hgrey : greyAt s (idxCore p) = false) (hlost : heartbeatLost s p = true) :
    ∃ t, exec (.coreHeartbeat p) s = .next t ∧ rdyState t (idxCore p) = .fenced ∧ t.tsq.fences = s.tsq.fences ++ fenceItems s p ∧ t.mem = s.mem := by
  refine ⟨_, if_neg ?_, fenced_after_report ((SameUnits.refl h).reportFull _ _ _ _ _ _ _) hq
    (reportFull_side _ _ _ _ _ _ _ _ (unitCode_notView _ _ _ (by decide))) (by rw [hready]; decide) _⟩
  rintro (h' | h' | h' | h' | h')
  · omega
  · rw [hrun] at h'; cases h'
  · exact h' hready
  · rw [hgrey] at h'; cases h'
  · rw [hlost] at h'; cases h'

/-! ### Control cores (15 R584, R590) -/

/-- A waiter that departs and is reset leaves all but its hart and the withdrawals alone. -/
theorem departed_only (s : State) (slot : Nat) (h : HartSt) : hartSet (departLatch s slot) slot h =
    { s with harts := (hartSet (departLatch s slot) slot h).harts
             hit := { s.hit with withdrawals := (hartSet (departLatch s slot) slot h).hit.withdrawals } } := by
  unfold departLatch hartSet
  dsimp only
  split <;> split <;> rfl

/-- A control core that faults, as the report of its fault has been filed. -/
def ctrlStopped (s : State) (k cause : Nat) : State :=
  report (hartSet (departLatch s (17408 + k)) (17408 + k) hartReset) 0x14 4 (unitCode s 3 k) (cause % 256 + 256 * (hartAt s (17408 + k)).pc.toNat)

/-- The ticks of its faults that count (15 R584). -/
def recentFaults (s : State) (k : Nat) : List Nat := (ctrlGet s k).faultTicks.filter fun t => decide (s.tsq.tick < t + 1000)

/-- What a stopped control core leaves as it was. -/
structure CtrlStopped (s t : State) (k : Nat) : Prop where
  units : SameUnits s t
  quiet : Quiet t
  hart : hartAt t (17408 + k) = hartReset
  ctrls : t.ctrls = s.ctrls
  tick : t.tsq = s.tsq
  mem : t.mem = s.mem

theorem ctrlStopped_spec (h : Canonical s) (hq : Quiet s) (k cause : Nat) : CtrlStopped s (ctrlStopped s k cause) k := by
  unfold ctrlStopped
  have hc : Canonical (hartSet (departLatch s (17408 + k)) (17408 + k) hartReset) := (kept_hartSet (kept_departLatch (kept_self h))).canon
  have hhart : hartAt (hartSet (departLatch s (17408 + k)) (17408 + k) hartReset) (17408 + k) = hartReset :=
    hartAt_hartSet_self (kept_departLatch (kept_self h)).canon _ _
  have hrest := departed_only s (17408 + k) hartReset
  generalize hartSet (departLatch s (17408 + k)) (17408 + k) hartReset = x at *
  have hside := report_side x 0x14 4 (unitCode s 3 k) (cause % 256 + 256 * (hartAt s (17408 + k)).pc.toNat) (unitCode_notView _ _ _ (by decide))
  have hunits : SameUnits s x := (SameUnits.refl h).of_rdy hc (by rw [hrest])
  have hharts : (report x 0x14 4 (unitCode s 3 k) (cause % 256 + 256 * (hartAt s (17408 + k)).pc.toNat)).harts = x.harts := by rw [hside]
  refine ⟨hunits.report _ _ _ _, ?_, ?_, ?_, ?_, ?_⟩
  · rw [hside, hrest]; exact hq
  · rw [hartAt, hharts]; exact hhart
  · rw [hside, hrest]
  · rw [hside, hrest]
  · rw [hside, hrest]

/-- A control core that is fenced is FENCED; harts and memory are as they were. -/
theorem setUnit_fault (h : Canonical s) (i reason : Nat) : rdyState (bump1 (setUnit s i .fenced reason) regFltFenced) i = .fenced ∧
    FaultKept s (bump1 (setUnit s i .fenced reason) regFltFenced) := by
  refine ⟨?_, (setUnit_side s i _ _).fault.trans (bump_side _ _ 1).fault⟩
  rw [rdyState, rdyGet, bump1, bump_rdy]
  exact rdyState_setUnit_self h _ _ _

/-- A control core that faults stops; it restarts at the next T+0, or is FENCED at the third fault in 1,000 ticks (15 R584). -/
theorem ctrlFault_outcome (hc : Canonical s) (hq : Quiet s) (k cause : Nat) : hartAt (ctrlFault s k cause) (17408 + k) = hartReset ∧
    (ctrlFault s k cause).mem = s.mem ∧
    ((recentFaults s k).length < 2 → (ctrlGet (ctrlFault s k cause) k).restart = 1 ∧ rdyState (ctrlFault s k cause) (idxCtrl k) = rdyState s (idxCtrl k)) ∧
    (2 ≤ (recentFaults s k).length → rdyState (ctrlFault s k cause) (idxCtrl k) = .fenced) := by
  have hstop := ctrlStopped_spec hc hq k cause
  unfold ctrlFault
  extract_lets n pc s1 s2 s3 c ft s4 s5 s6
  have h3 : s3 = ctrlStopped s k cause := by
    have hcode : unitCode s2 3 k = unitCode s 3 k := by
      rw [show s2 = _ from departed_only s (17408 + k) hartReset]
      rfl
    show report s2 _ _ (unitCode s2 3 k) _ = _
    rw [hcode]
    rfl
  rw [← h3] at hstop
  clear_value s3
  obtain ⟨hunits, hquiet, hhart, hctrls, htick, hmem⟩ := hstop
  have hft : ft = recentFaults s k ++ [s.tsq.tick] := by
    show (ctrlGet s3 k).faultTicks.filter (fun t => decide (s3.tsq.tick < t + 1000)) ++ [s3.tsq.tick] = _
    rw [htick, ctrlGet, hctrls]
    rfl
  have hlen : ft.length = (recentFaults s k).length + 1 := by rw [hft, List.length_append, List.length_singleton]
  clear_value ft
  by_cases hfew : ft.length < 3
  · rw [if_pos hfew]
    refine ⟨hhart, hmem, fun _ => ⟨?_, hunits.state _⟩, fun _ => by omega⟩
    rw [ctrlGet_ctrlPut_self hunits.canon]
  · rw [if_neg hfew]
    have h4 : Canonical s4 := ctrlPut_canonical hunits.canon _ _
    obtain ⟨hstate, hkept⟩ := setUnit_fault h4 (idxCtrl k) 0x15
    have hbarriers : s6.hit.barriers = [] := by
      have h6 : ReportSide s5 s6 := report_side _ _ _ _ _ (unitCode_notView _ _ _ (by decide))
      have h5 : UnitSide s4 (setUnit s4 (idxCtrl k) .fenced 0x15) := setUnit_side _ _ _ _
      have h5' : ReportSide (setUnit s4 (idxCtrl k) .fenced 0x15) s5 := bump_side _ _ 1
      rw [h6, h5', h5]
      exact hquiet.2
    rw [breakWhere_quiet hbarriers]
    have h6 : FaultKept s4 s6 := hkept.trans (report_fault _ _ _ _ _)
    have hfenced : rdyState s6 (idxCtrl k) = .fenced :=
      (((SameUnits.refl (kept_bump1 (kept_setUnit (kept_self h4))).canon).report _ _ _ _).state _).trans hstate
    refine ⟨?_, h6.mem.trans hmem, fun _ => by omega, fun _ => hfenced⟩
    rw [hartAt, h6.harts]
    exact hhart

theorem ctrlCoreFault_faults (hk : k < 20) (ha : rdyState s (idxCtrl k) ≠ .absent) (hf : rdyState s (idxCtrl k) ≠ .fenced) (cause : Nat) :
    exec (.ctrlCoreFault k cause) s = .next (ctrlFault s k cause) := by
  refine if_neg ?_
  rintro (h | h | h)
  · omega
  · exact ha (beq_iff_eq.1 h)
  · exact hf (beq_iff_eq.1 h)

/-- One control core asked to restart at the next T+0. -/
def restartOne (how : Nat) (s : State) (k : Nat) : State :=
  if rdyState s (idxCtrl k) == .fenced then s else ctrlPut s k { ctrlGet s k with restart := how }

theorem restartOne_keeps (how : Nat) (s : State) (k : Nat) : (restartOne how s k).rdy = s.rdy ∧ (restartOne how s k).mem = s.mem := by
  unfold restartOne
  split
  · exact ⟨rfl, rfl⟩
  · exact ⟨rfl, rfl⟩

theorem restartOnes_keep (how : Nat) (l : List Nat) (s : State) : (l.foldl (restartOne how) s).rdy = s.rdy ∧ (l.foldl (restartOne how) s).mem = s.mem :=
  List.foldlRecOn l _ (motive := fun t => t.rdy = s.rdy ∧ t.mem = s.mem) ⟨rfl, rfl⟩ fun x hx k _ =>
    ⟨(restartOne_keeps how x k).1.trans hx.1, (restartOne_keeps how x k).2.trans hx.2⟩

theorem restartOne_canonical (h : Canonical s) (how k : Nat) : Canonical (restartOne how s k) := by
  unfold restartOne
  split
  · exact h
  · exact ctrlPut_canonical h _ _

theorem restart_restartOne (h : Canonical s) (how k j : Nat) : (ctrlGet (restartOne how s k) j).restart =
    if j = k ∧ rdyState s (idxCtrl j) ≠ .fenced then how else (ctrlGet s j).restart := by
  unfold restartOne
  by_cases hj : j = k
  · subst hj
    by_cases hf : rdyState s (idxCtrl j) = .fenced
    · have hstays : ¬(j = j ∧ rdyState s (idxCtrl j) ≠ .fenced) := fun e => e.2 hf
      rw [if_pos (beq_iff_eq.2 hf), if_neg hstays]
    · rw [if_neg (mt beq_iff_eq.1 hf), if_pos ⟨rfl, hf⟩, ctrlGet_ctrlPut_self h]
  · have hstays : ¬(j = k ∧ rdyState s (idxCtrl j) ≠ .fenced) := fun e => hj e.1
    rw [if_neg hstays]
    split
    · rfl
    · exact congrArg CtrlSt.restart (mget_mset_ne _ hj)

/-- The control cores of a list that are not FENCED restart, and the others keep what they were asked. -/
theorem restart_restartOnes (h : Canonical s) (how : Nat) (l : List Nat) (j : Nat) : (ctrlGet (l.foldl (restartOne how) s) j).restart =
    if j ∈ l ∧ rdyState s (idxCtrl j) ≠ .fenced then how else (ctrlGet s j).restart := by
  induction l generalizing s with
  | nil => simp
  | cons k r ih =>
    have hsame : rdyState (restartOne how s k) (idxCtrl j) = rdyState s (idxCtrl j) := by
      rw [rdyState, rdyGet, (restartOne_keeps how s k).1]
      rfl
    rw [List.foldl_cons, ih (restartOne_canonical h how k), hsame, restart_restartOne h]
    by_cases hf : rdyState s (idxCtrl j) = .fenced
    · simp [hf]
    · by_cases hk : j = k
      · subst hk
        simp [hf]
      · simp [hf, hk]

theorem restartAll_eq (s : State) (how : Nat) : restartAll s how = (List.range 20).foldl (restartOne how) s := rfl

theorem controlStall_restarts (h : Canonical s) (happly : inApply s = true) (hhold : s.tsq.holdTicks = stallTicks s) :
    ∃ t, exec .controlStall s = .next t ∧ t.mem = s.mem ∧
      ∀ j, j < 20 → (ctrlGet t j).restart = if rdyState s (idxCtrl j) = .fenced then (ctrlGet s j).restart else 1 := by
  refine ⟨_, if_neg ?_, ?_, fun j hj => ?_⟩
  · rw [happly]
    rintro (h' | h')
    · cases h'
    · exact h' hhold
  · have hside := report_side s 0x31 4 (unitCode s 10 1) s.tsq.holdTicks (unitCode_notView _ _ _ (by decide))
    rw [restartAll_eq, (restartOnes_keep _ _ _).2, hside]
  · have hunits := (SameUnits.refl h).report 0x31 4 (unitCode s 10 1) s.tsq.holdTicks
    have hside := report_side s 0x31 4 (unitCode s 10 1) s.tsq.holdTicks (unitCode_notView _ _ _ (by decide))
    have hctrls : ctrlGet (report s 0x31 4 (unitCode s 10 1) s.tsq.holdTicks) j = ctrlGet s j := by
      have hc : (report s 0x31 4 (unitCode s 10 1) s.tsq.holdTicks).ctrls = s.ctrls := by rw [hside]
      rw [ctrlGet, hc]
      rfl
    rw [restartAll_eq, restart_restartOnes hunits.canon, hunits.state, hctrls]
    by_cases hf : rdyState s (idxCtrl j) = .fenced
    · rw [if_pos hf, if_neg fun h => h.2 hf]
    · rw [if_neg hf, if_pos ⟨List.mem_range.2 hj, hf⟩]

theorem controlStall_waits (hhold : s.tsq.holdTicks ≠ stallTicks s) : exec .controlStall s = .next s := if_pos (.inr hhold)

/-! ### Dies and the device (15 R585, R588, R591) -/

/-- A unit has entered GREY, if it was not GREY before (15 R569). -/
def entered (s : State) (i kind : Nat) : State := if rdyState s i == .grey then s else greyEffects (setUnit s i .grey kind) i

/-- A unit that is not FENCED enters GREY for a fault of its own (15 R569). -/
theorem toGrey_own (h : Canonical s) (hq : Quiet s) {i : Nat} (kind : Nat) (hf : rdyState s i ≠ .fenced) :
    rdyState (toGrey s i kind true) i = .grey ∧ (rdyGet (toGrey s i kind true) i).ownFault = true ∧ (toGrey s i kind true).mem = s.mem := by
  obtain ⟨hgrey, -, hmem⟩ := toGrey_quiet h hq kind hf
  have hcanon : Canonical (toGrey s i kind false) := (kept_toGrey (kept_self h)).canon
  have hforced : toGrey s i kind false = entered s i kind := (if_neg (mt beq_iff_eq.1 hf)).trans (if_neg Bool.false_ne_true)
  have hput : toGrey s i kind true = rdyPut (entered s i kind) i { rdyGet (entered s i kind) i with
      reason := if (rdyGet (entered s i kind) i).ownFault then (rdyGet (entered s i kind) i).reason else kind
      ownFault := true, recovered := false, confirmed := false, recAt := 0 } := (if_neg (mt beq_iff_eq.1 hf)).trans (if_pos rfl)
  rw [hforced] at hgrey hmem hcanon
  rw [hput]
  generalize entered s i kind = x at *
  exact ⟨(rdyState_rdyPut_self hcanon _ _).trans hgrey, congrArg RdyEntry.ownFault (rdyGet_rdyPut_self hcanon _ _), hmem⟩

theorem dieTimeout_greys (h : Canonical s) (hq : Quiet s) (hdie : die < 6) (hio : die ≠ 4) (hready : rdyState s (idxDie die) = .ready) :
    ∃ t, exec (.dieTimeout die) s = .next t ∧ rdyState t (idxDie die) = .grey ∧ (rdyGet t (idxDie die)).ownFault = true ∧ t.mem = s.mem := by
  have hreport := (QuietSince.refl h hq).report 0x20 3 (dieTicks s) (unitCode_notView s 1 die (by decide))
  obtain ⟨hgrey, hown, hmem⟩ := toGrey_own hreport.units.canon hreport.quiet 0x20 (i := idxDie die) (by rw [hreport.units.state, hready]; decide)
  refine ⟨_, if_neg ?_, hgrey, hown, hmem.trans hreport.mem⟩
  rintro (h' | h' | h')
  · omega
  · exact hio h'
  · exact h' hready

/-- A unit's entry, memory and the platform are as they were. -/
structure EntryKept (i : Nat) (s t : State) : Prop where
  entry : rdyGet t i = rdyGet s i
  mem : t.mem = s.mem
  elec : t.elec = s.elec

theorem EntryKept.refl (i : Nat) (s : State) : EntryKept i s s := ⟨rfl, rfl, rfl⟩
theorem EntryKept.trans {i : Nat} (h : EntryKept i s t) (k : EntryKept i t u) : EntryKept i s u := ⟨k.entry.trans h.entry, k.mem.trans h.mem, k.elec.trans h.elec⟩

theorem EntryKept.of_rdy {i : Nat} (h : t.rdy = s.rdy) (hm : t.mem = s.mem) (he : t.elec = s.elec) : EntryKept i s t :=
  ⟨by rw [rdyGet, h]; rfl, hm, he⟩

theorem EntryKept.foldl {α : Type} {i : Nat} (l : List α) {f : State → α → State} (hf : ∀ x, ∀ a ∈ l, EntryKept i x (f x a)) (s : State) :
    EntryKept i s (l.foldl f s) :=
  List.foldlRecOn l f (motive := EntryKept i s) (.refl i s) fun x hx a ha => hx.trans (hf x a ha)

theorem EntryKept.setUnit {i j : Nat} (hj : i ≠ j) (s : State) (st : UnitState) (reason : Nat) : EntryKept i s (setUnit s j st reason) :=
  ⟨(setUnit_moved s j st reason).2 i hj, (setUnit_moved s j st reason).1.mem, (setUnit_moved s j st reason).1.elec⟩

theorem EntryKept.rdyPut {i j : Nat} (hj : i ≠ j) (s : State) (e : RdyEntry) : EntryKept i s (rdyPut s j e) := ⟨rdyGet_rdyPut_ne e hj, rfl, rfl⟩

theorem EntryKept.greyUnit {i j : Nat} (hj : i ≠ j) (s : State) (reason : Nat) : EntryKept i s (greyUnit s j reason) :=
  (EntryKept.setUnit hj s .grey reason).trans (.rdyPut hj _ _)

theorem resetDieRegs_kept (i : Nat) (s : State) (die : Nat) : EntryKept i s (resetDieRegs s die) := by
  unfold resetDieRegs
  extract_lets s1 s2
  split
  · exact ⟨rfl, rfl, rfl⟩
  · refine (EntryKept.of_rdy rfl rfl rfl : EntryKept i s s2).trans (.foldl (List.range 48) (fun x c _ => ?_) s2)
    exact .of_rdy rfl rfl rfl

/-- A GREY die whose restart has been released (15 R588). -/
def dieReleased (s : State) (die : Nat) : State := rdyPut s (idxDie die) { rdyGet s (idxDie die) with released := true }

/-- A die that restarts is released, and stays GREY until what it awaits has come (15 R588). -/
theorem restartDie_kept (s : State) (hdie : die < 6) :
    EntryKept (idxDie die) (dieReleased s die) (restartDie die s) := by
  have hcore : ∀ p, idxDie die ≠ idxCore p := fun p => by unfold idxDie idxCore; omega
  have hctrl : ∀ k, idxDie die ≠ idxCtrl k := fun k => by unfold idxDie idxCtrl; omega
  have hchan : ∀ c, idxDie die ≠ idxChan c := fun c => by unfold idxDie idxChan; omega
  have hslow : idxDie die ≠ 0x3B := by unfold idxDie; omega
  unfold restartDie
  extract_lets e s1 s2 s3
  have h1 : EntryKept (idxDie die) (dieReleased s die) s1 := by
    exact (EntryKept.of_rdy (bump_rdy _ _ 1) (bump_mem _ _ 1) (bump_elec _ _ 1)).trans (resetDieRegs_kept _ _ die)
  have h2 : EntryKept (idxDie die) s1 s2 := .foldl _ (fun x c _ => by
    dsimp only
    split
    · exact .refl _ _
    · exact (EntryKept.setUnit (hcore _) x .training 0).trans (.of_rdy rfl rfl rfl)) s1
  have h3 : EntryKept (idxDie die) s2 s3 := .foldl _ (fun x j _ => by
    dsimp only
    split
    · exact .refl _ _
    · refine (EntryKept.setUnit (hctrl (4 * die + j)) x .testing 0).trans ?_
      rw [ctrlPut, departed_only]
      exact .of_rdy rfl rfl rfl) s2
  clear_value s1 s2 s3
  split
  · exact h1.trans (.setUnit hslow _ _ _)
  · refine ((h1.trans h2).trans h3).trans (.foldl _ (fun x c _ => ?_) s3)
    dsimp only
    split
    · exact .refl _ _
    · split
      · exact .trans (.rdyPut (hchan _) _ _) (.of_rdy rfl rfl rfl)
      · exact .greyUnit (hchan _) _ _

theorem dieRestart_restarts (h : Canonical s) (hdie : die < 6) (hio : die ≠ 4) (hgrey : rdyState s (idxDie die) = .grey)
    (hforced : (rdyGet s (idxDie die)).forced = false) (hreleased : (rdyGet s (idxDie die)).released = false)
    (hrecovered : (rdyGet s (idxDie die)).recovered = false) (hcool : s.elec.overtemp.contains die = false) :
    ∃ t, exec (.dieRestart die) s = .next t ∧ rdyState t (idxDie die) = .grey ∧ (rdyGet t (idxDie die)).released = true ∧ t.mem = s.mem := by
  obtain ⟨hentry, hmem, -⟩ := restartDie_kept s hdie
  rw [dieReleased, rdyGet_rdyPut_self h] at hentry
  refine ⟨_, if_neg ?_, (congrArg RdyEntry.state hentry).trans hgrey, congrArg RdyEntry.released hentry, hmem⟩
  rw [hforced, hreleased, hrecovered, hcool]
  rintro (h' | h' | h' | h' | h' | h' | h')
  · omega
  · exact hio h'
  · exact h' hgrey
  all_goals cases h'

theorem dieRestart_hot (hhot : s.elec.overtemp.contains die = true) : exec (.dieRestart die) s = .next s :=
  if_pos (by simp only [hhot, or_true])

theorem deviceWatchdog_greys (h : Canonical s) (hq : Quiet s) (happly : inApply s = true) (hhold : devTicks s ≤ s.tsq.holdTicks)
    (hgrey : rdyState s 0 ≠ .grey) (hfenced : rdyState s 0 ≠ .fenced) :
    ∃ t, exec .deviceWatchdog s = .next t ∧ rdyState t 0 = .grey ∧ (rdyGet t 0).ownFault = true ∧ t.mem = s.mem := by
  have hreport := (QuietSince.refl h hq).report 0x32 3 s.tsq.holdTicks (unitCode_notView s 0 0 (by decide))
  obtain ⟨hentered, hown, hmem⟩ := toGrey_own hreport.units.canon hreport.quiet 0x32 (i := 0) (by rw [hreport.units.state]; exact hfenced)
  have hgo : ¬((!inApply s) = true ∨ s.tsq.holdTicks < devTicks s ∨ (devGrey s = true ∧ (rdyGet s 0).ownFault = true)) := by
    rw [happly]
    rintro (h' | h' | h')
    · cases h'
    · omega
    · exact hgrey (beq_iff_eq.1 h'.1)
  obtain ⟨hrdy, hmem'⟩ := restartOnes_keep 2 (List.range 20) (toGrey (report s 0x32 3 (unitCode s 0 0) s.tsq.holdTicks) 0 0x32 true)
  refine ⟨_, if_neg hgo, ?_, ?_, ?_⟩
  · rw [restartAll_eq, rdyState, rdyGet, hrdy]
    exact hentered
  · rw [restartAll_eq, rdyGet, hrdy]
    exact hown
  · rw [restartAll_eq, hmem']
    exact hmem.trans hreport.mem

theorem deviceWatchdog_waits (hhold : s.tsq.holdTicks < devTicks s) : exec .deviceWatchdog s = .next s := if_pos (.inr (.inl hhold))

/-- Settles O48: each fault by the shared rules of reports, fencing and entering GREY, with no task and no barrier about. -/
theorem unitFaults : Obligations.UnitFaults := by
  unfold Obligations.UnitFaults
  intro s core check k cause die hc hq hcore hk hdie hio item
  have hitem : item = fenceItems s core := rfl
  rw [hitem]
  refine ⟨fun h => coreCheck_skips h check, fun ha hf => ⟨coreCheck_corrected hcore ha hf, coreCheck_fences hcore ha hf hc hq⟩,
    coreHeartbeat_fences hc hq hcore, fun ha hf => ?_, dieTimeout_greys hc hq hdie hio, dieRestart_restarts hc hdie hio, dieRestart_hot,
    controlStall_restarts hc, fun _ => controlStall_waits, deviceWatchdog_greys hc hq, fun _ => deviceWatchdog_waits⟩
  obtain ⟨hhart, hmem, hfew, hthird⟩ := ctrlFault_outcome hc hq k cause
  exact ⟨_, ctrlCoreFault_faults hk ha hf cause, hhart, hmem, hfew, hthird⟩

end Sys2Proof.Machine
end

section
/-! SUPPORT. O43: slot frames, markers, cells and training at a hawser port (13 R488-R493, R519). -/

namespace Sys2Proof.Machine

variable {s t u : State} {p : Nat}

theorem portGet_portPut_self (h : Canonical s) (p : Nat) (x : Port) : portGet (portPut s p x) p = x := mget_mset_self h.ports p x

theorem portGet_congr (h : t.hws = s.hws) (p : Nat) : portGet t p = portGet s p := by rw [portGet, portGet, h]

/-! ### Sending frames (13 R490-R499) -/

/-- Memory, harts, device time, the platform and the slot frame in progress are as they were. -/
structure FrameKept (s t : State) : Prop where
  mem : t.mem = s.mem
  harts : t.harts = s.harts
  now : t.now = s.now
  elec : t.elec = s.elec
  active : t.hws.frameActive = s.hws.frameActive
  no : t.hws.frameNo = s.hws.frameNo

namespace FrameKept

theorem refl (s : State) : FrameKept s s := ⟨rfl, rfl, rfl, rfl, rfl, rfl⟩

theorem trans (h : FrameKept s t) (k : FrameKept t u) : FrameKept s u :=
  ⟨k.mem.trans h.mem, k.harts.trans h.harts, k.now.trans h.now, k.elec.trans h.elec, k.active.trans h.active, k.no.trans h.no⟩

theorem foldl {α : Type} (l : List α) {f : State → α → State} (hf : ∀ x a, FrameKept x (f x a)) (s : State) : FrameKept s (l.foldl f s) :=
  List.foldlRecOn l f (motive := FrameKept s) (.refl s) fun x hx a _ => hx.trans (hf x a)

theorem portPut (s : State) (p : Nat) (x : Port) : FrameKept s (portPut s p x) := ⟨rfl, rfl, rfl, rfl, rfl, rfl⟩

theorem queueCells (s : State) (p : Nat) (cs : List Cell) : FrameKept s (queueCells s p cs) := .portPut _ _ _

theorem bump (s : State) (a n : Nat) : FrameKept s (bump s a n) :=
  ⟨bump_mem s a n, bump_harts s a n, bump_now s a n, bump_elec s a n, congrArg HwsUnit.frameActive (bump_hws s a n), congrArg HwsUnit.frameNo (bump_hws s a n)⟩

theorem noRoute (s : State) : FrameKept s (noRoute s) := (FrameKept.bump s _ 1).trans ⟨rfl, rfl, rfl, rfl, rfl, rfl⟩

theorem returnVia (s : State) (c : Cell) : FrameKept s (returnVia s c) := by
  unfold Machine.returnVia
  split
  · exact .portPut _ _ _
  · exact .refl s

theorem dropMessage (s : State) (src tag : Nat) (more : Bool) : FrameKept s (dropMessage s src tag more) := by
  unfold Machine.dropMessage
  extract_lets own s1
  have h1 : FrameKept s s1 := by
    refine .foldl (List.range 16) (fun x p => ?_) s
    dsimp only
    split
    · exact (FrameKept.portPut x p _).trans (.foldl _ returnVia _)
    · exact .refl x
  clear_value s1
  split
  · exact h1.trans ⟨rfl, rfl, rfl, rfl, rfl, rfl⟩
  · exact h1

theorem moveCells (s : State) (cs : List Cell) : FrameKept s (moveCells s cs) := by
  unfold Machine.moveCells
  split
  · exact .refl s
  · split
    · exact .queueCells _ _ _
    · exact ((FrameKept.noRoute s).trans (.foldl _ returnVia _)).trans (.dropMessage _ _ _ _)

theorem rerouteQueue (s : State) (p : Nat) : FrameKept s (rerouteQueue s p) := by
  unfold Machine.rerouteQueue
  extract_lets x go s1
  split
  · exact .refl s
  · exact (FrameKept.portPut s p _).trans (.foldl _ (fun y m => moveCells y _) s1)

theorem sendTagged (s : State) (kind dst tag : Nat) (alt : Bool) (b : List Byte) : FrameKept s (sendTagged s kind dst tag alt b).2 := by
  unfold Machine.sendTagged
  split
  · exact .queueCells _ _ _
  · exact .noRoute _

theorem newTag (s : State) : FrameKept s (newTag s).2 := ⟨rfl, rfl, rfl, rfl, rfl, rfl⟩

theorem post (s : State) (kind dst : Nat) (b : List Byte) : FrameKept s (post s kind dst b) :=
  (FrameKept.newTag s).trans (.sendTagged _ _ _ _ _ _)

theorem sendSummaries (s : State) : FrameKept s (sendSummaries s) := by
  unfold Machine.sendSummaries
  refine .foldl _ (fun x _ => ?_) s
  exact .foldl _ (fun y _ => post y _ _ _) x

theorem postPort (s : State) (kind p : Nat) (b : List Byte) : FrameKept s (postPort s kind p b) :=
  (FrameKept.newTag s).trans (.queueCells _ _ _)

theorem ptpSend (s : State) (p : Nat) (b : List Byte) : FrameKept s (ptpSend s p b) := postPort s 7 p b

theorem ptpSent (s : State) (p at_ pos : Nat) (b : List Byte) : FrameKept s (ptpSent s p at_ pos b) := by
  have hdraw : FrameKept s (draw s).2 := ⟨rfl, rfl, rfl, rfl, rfl, rfl⟩
  unfold Machine.ptpSent
  dsimp only
  split
  · exact hdraw.trans (.ptpSend _ _ _)
  · split
    · exact hdraw.trans ⟨rfl, rfl, rfl, rfl, rfl, rfl⟩
    · exact hdraw
  · exact hdraw.trans (.ptpSend _ _ _)
  · exact hdraw

theorem sendFrame (k at_ n : Nat) (s : State) (p : Nat) : FrameKept s (sendFrame k at_ n s p) := by
  unfold Machine.sendFrame
  extract_lets st s1 x fc locked m mark grants x1 f sent x2 x3 x4 s2 count s3 s4 s5 s6 s7
  have h1 : FrameKept s s1 := by
    show FrameKept s (if _ then _ else _)
    split
    · exact .refl s
    · exact .rerouteQueue s p
  have h2 : FrameKept s1 s2 := .portPut s1 p x4
  have h6 : FrameKept s2 s6 := (((FrameKept.bump s2 _ _).trans (.bump s3 _ _)).trans (.bump s4 _ _)).trans (.bump s5 _ _)
  have h7 : FrameKept s6 s7 := by
    refine .foldl sent (fun y c => ?_) s6
    split
    · exact .refl y
    · exact .returnVia y _
  clear_value s7
  split
  · exact h1.trans (.portPut _ _ _)
  · refine ((h1.trans h2).trans (h6.trans h7)).trans (.foldl sent (fun y c => ?_) s7)
    split
    · exact .ptpSent _ _ _ _ _
    · exact .refl y

end FrameKept

/-- The number of the slot frame that begins next (13 R490). -/
def nextFrame (s : State) : Nat :=
  let due := if s.now ≤ s.tsq.tickStart + 2000 then 0 else (s.now - (s.tsq.tickStart + 2000) + 1999) / 2000
  if s.hws.frameActive then max due (s.hws.frameNo + 1) else due

theorem slotFrameStart_ends (hrun : s.tsq.running = true)
    (hend : s.tsq.tickStart + period s ≤ s.tsq.tickStart + 2000 + 2000 * nextFrame s) : exec .slotFrameStart s = .next s :=
  (if_neg (by simp [hrun])).trans (if_pos hend)

/-- The device as the slot frame that begins next has its number, and the summaries have gone out (13 R490, R514). -/
def frameBegun (s : State) : State :=
  let s' := advance s (s.tsq.tickStart + 2000 + 2000 * nextFrame s)
  let s' := if s'.hws.frameActive then s' else sendSummaries s'
  { s' with hws := { s'.hws with
    frameActive := true, frameNo := nextFrame s, frameCount := s'.hws.frameCount + 1
    delivered := s'.hws.delivered.filter fun d => decide (s'.hws.frameCount + 1 ≤ d.2.2 + 16) } }

theorem frameBegun_spec (s : State) : (frameBegun s).hws.frameActive = true ∧ (frameBegun s).hws.frameNo = nextFrame s ∧
    (frameBegun s).mem = s.mem ∧ (frameBegun s).harts = s.harts := by
  unfold frameBegun
  extract_lets s1 s2
  have h1 : s1.mem = s.mem ∧ s1.harts = s.harts := ⟨advance_mem s _, advance_harts s _⟩
  have h2 : s2.mem = s.mem ∧ s2.harts = s.harts := by
    show (if _ then _ else _ : State).mem = _ ∧ (if _ then _ else _ : State).harts = _
    split
    · exact h1
    · exact ⟨(FrameKept.sendSummaries s1).mem.trans h1.1, (FrameKept.sendSummaries s1).harts.trans h1.2⟩
  exact ⟨rfl, rfl, h2⟩

/-- The next slot frame begins on every port. -/
def framesSent (s : State) : State :=
  (List.range 16).foldl (sendFrame (nextFrame s) (s.tsq.tickStart + 2000 + 2000 * nextFrame s)
    (min 2000 (s.tsq.tickStart + period s - (s.tsq.tickStart + 2000 + 2000 * nextFrame s)))) (frameBegun s)

theorem slotFrameStart_begins (hrun : s.tsq.running = true)
    (hend : ¬s.tsq.tickStart + period s ≤ s.tsq.tickStart + 2000 + 2000 * nextFrame s) : exec .slotFrameStart s = .next (framesSent s) :=
  (if_neg (by simp [hrun])).trans (if_neg hend)

theorem framesSent_spec (s : State) : (framesSent s).hws.frameActive = true ∧ (framesSent s).hws.frameNo = nextFrame s ∧
    (framesSent s).mem = s.mem ∧ (framesSent s).harts = s.harts := by
  obtain ⟨hactive, hno, hmem, hharts⟩ := frameBegun_spec s
  have hk : FrameKept (frameBegun s) (framesSent s) := .foldl _ (FrameKept.sendFrame _ _ _) _
  exact ⟨hk.active.trans hactive, hk.no.trans hno, hk.mem.trans hmem, hk.harts.trans hharts⟩

/-! ### Marker windows (13 R493, R519) -/

/-- A port that takes in what its link brings is trained (13 R519). -/
theorem portTakes_iff (hp : p < 16) : portTakes s p = true ↔
    rdyState s (idxPort p) = .testing ∨ rdyState s (idxPort p) = .ready ∨ rdyState s (idxPort p) = .grey := by
  unfold portTakes
  simp only [hp, decide_true, Bool.true_and, Bool.or_eq_true, beq_iff_eq, or_assoc]

theorem markerWindowClose_none (h : (portGet s p).windows = []) : exec (.markerWindowClose p) s = .next s := by
  rw [exec_markerWindowClose, execMarkerWindowClose, h]

/-- A port whose window of a frame closes. -/
def windowClosed (x : Port) (n k : Nat) (later : List (Nat × Nat)) : Port :=
  { x with windows := later, seen := x.seen.filter fun f => decide (n < f.1 ∨ (f.1 = n ∧ k < f.2)) }

theorem portGet_advance (s : State) (at_ p : Nat) : portGet (advance s at_) p = portGet s p := portGet_congr (by rw [advance_only]) p

theorem portGet_bump (s : State) (a n p : Nat) : portGet (bump s a n) p = portGet s p := portGet_congr (bump_hws s a n) p

section window
variable {n k : Nat} {later : List (Nat × Nat)} (hw : (portGet s p).windows = (n, k) :: later) (htakes : portTakes s p = true)
include hw htakes

theorem markerWindowClose_seen (hseen : (portGet s p).seen.contains (n, k) = true) : exec (.markerWindowClose p) s =
    .next (portPut (advance s (markerDue s p n k + 1000)) p { windowClosed (portGet s p) n k later with missRun := 0 }) := by
  rw [exec_markerWindowClose, execMarkerWindowClose, hw]
  refine (if_neg (by simp [htakes])).trans ?_
  dsimp only
  rw [portGet_advance]
  exact if_pos hseen

theorem markerWindowClose_missing (hseen : (portGet s p).seen.contains (n, k) = false)
    (hstays : rdyState s (idxPort p) ≠ .ready ∨ (portGet s p).missRun + 1 < 4) : exec (.markerWindowClose p) s =
    .next (portPut (bump1 (advance s (markerDue s p n k + 1000)) (regHwsMissed p)) p
      { windowClosed (portGet s p) n k later with missRun := min 4 ((portGet s p).missRun + 1), goodRun := 0 }) := by
  have hrdy : ∀ x, rdyState (portPut (bump1 (advance s (markerDue s p n k + 1000)) (regHwsMissed p)) p x) (idxPort p) = rdyState s (idxPort p) := by
    intro x
    rw [rdyState, rdyGet, portPut_rdy, bump1, bump_rdy, advance_only]
    rfl
  rw [exec_markerWindowClose, execMarkerWindowClose, hw]
  refine (if_neg (by simp [htakes])).trans ?_
  dsimp only
  rw [portGet_advance, hrdy, if_neg (by rw [hseen]; exact Bool.false_ne_true)]
  refine congrArg _ (if_neg ?_)
  rw [Bool.and_eq_true, beq_iff_eq, decide_eq_true_iff]
  rintro ⟨hready, hmiss⟩
  rcases hstays with h | h
  · exact h hready
  · omega

end window

/-! ### Markers (13 R492, R493, R519) -/

/-- HWS_PORT_STATE as a marker leaves it: marked, with what the marker names of the peer. -/
def markedState (v : Nat) (b : List Byte) : Nat :=
  setBits (setBits (setBits (setBits (setBits v 22 22 1) 21 18 (fld b 0x3E 2 / 1024)) 17 8 (fld b 0x3E 2))
    5 5 (b2n (bit (fld b 0xA 1) 0))) 4 4 (b2n (bit (fld b 0xA 1) 1))

theorem bit_markedState (v : Nat) (b : List Byte) : bit (markedState v b % 2 ^ 64) 22 = true := by
  rw [bit_eq_testBit, Nat.testBit_mod_two_pow, markedState]
  simp [testBit_setBits]

theorem bits_markedState (v : Nat) (b : List Byte) : bits (markedState v b % 2 ^ 64) 17 8 = fld b 0x3E 2 % 1024 := by
  refine Nat.eq_of_testBit_eq fun i => ?_
  rw [testBit_bits, Nat.testBit_mod_two_pow, show (1024 : Nat) = 2 ^ 10 from rfl, Nat.testBit_mod_two_pow, markedState]
  by_cases hi : i < 10
  · simp only [testBit_setBits, Nat.reduceAdd, Nat.reduceLeDiff]
    rw [if_neg (by omega), if_neg (by omega), if_pos (by omega)]
    simp [hi, show 8 + i < 64 by omega]
  · simp [hi]

/-- Credits and acknowledgements leave what markers have been seen alone. -/
theorem takeAcks_seen (x : Port) (b : List Byte) : (takeAcks x b).2.seen = x.seen := by
  unfold takeAcks
  dsimp only
  refine List.foldlRecOn (motive := fun y : Port => y.seen = x.seen) _ _ rfl fun y hy i _ => ?_
  exact hy

/-- The device as a marker's word of the peer stands in HWS_PORT_STATE, and the vetoes it acknowledges are noted. -/
def marked (s : State) (p : Nat) (b : List Byte) (acked : List Nat) : State :=
  { rset s (regHwsPortState p) (markedState (rget s (regHwsPortState p)) b) with tsq := { s.tsq with vetoAcked := acked } }

/-- A port that has noted a marker. -/
def markerNoted (x : Port) (b : List Byte) : Port := { (takeAcks x b).2 with seen := x.seen ++ [(fld b 0 8, fld b 8 2)] }

theorem inWindow_marked (b : List Byte) (acked : List Nat) (n k : Nat) : inWindow (marked s p b acked) p n k = inWindow s p n k := by
  have hreg : ∀ a, a ≠ regHwsPortState p → rget (marked s p b acked) a = rget s a := fun a ha => rget_rset_ne _ ha
  have hne1 : regTsqCfg ≠ regHwsPortState p := by unfold regTsqCfg regHwsPortState; omega
  have hne2 : regHwsPdelay p ≠ regHwsPortState p := by unfold regHwsPdelay regHwsPortState; omega
  have hdue : markerDue (marked s p b acked) p n k = markerDue s p n k := by
    unfold markerDue tickAt phaseNs period fget
    rw [hreg _ hne1, hreg _ hne2]
  rw [inWindow, hdue]
  rfl

/-- A good marker at a READY port whose peer is not grey, in the window of its frame, is noted. -/
theorem receiveMarker_noted (hp : p < 16) (hready : rdyState s (idxPort p) = .ready) {b : List Byte} (hacks : (takeAcks (portGet s p) b).1 = false)
    (hgrey : bit (fld b 0xA 1) 0 = false) (hin : inWindow s p (fld b 0 8) (fld b 8 2) = true)
    (hseen : (portGet s p).seen.contains (fld b 0 8, fld b 8 2) = false) :
    ∃ acked, receiveMarker s p b = portPut (marked s p b acked) p (markerNoted (portGet s p) b) := by
  have hnoted := takeAcks_seen (portGet s p) b
  unfold receiveMarker
  extract_lets st peer grey was v s1 s2 done s3 s4 of_
  have h2 : s2 = s1 := if_neg (by simp [grey, hgrey])
  have h4 : s4 = marked s p b (s2.tsq.vetoAcked ++ done) := by
    unfold s4 s3
    rw [h2]
    rfl
  have hst : st = .ready := hready
  refine ⟨s2.tsq.vetoAcked ++ done, ?_⟩
  clear_value s4 st
  subst h4 hst
  rw [show portGet (marked s p b (s2.tsq.vetoAcked ++ done)) p = portGet s p from rfl]
  refine (if_neg ?_).trans ?_
  · rintro (h | h)
    · omega
    · cases h
  unfold markerNoted
  generalize takeAcks (portGet s p) b = a at *
  obtain ⟨bad, t⟩ := a
  dsimp only at hacks hnoted ⊢
  subst hacks
  rw [inWindow_marked, hin, hnoted, hseen]
  rfl

/-- Arrivals counted leave the window of a frame's marker where it was. -/
theorem inWindow_counted (hp : p < 16) (n k : Nat) : inWindow (bump1 s (regHwsRxCells p)) p n k = inWindow s p n k := by
  have hcor : corWindow (regHwsRxCells p) = none := by
    refine if_neg ?_
    unfold regHwsRxCells
    omega
  have hne1 : regTsqCfg ≠ regHwsRxCells p := by unfold regTsqCfg regHwsRxCells; omega
  have hne2 : regHwsPdelay p ≠ regHwsRxCells p := by unfold regHwsPdelay regHwsRxCells; omega
  have hdue : markerDue (bump1 s (regHwsRxCells p)) p n k = markerDue s p n k := by
    unfold markerDue tickAt phaseNs period fget
    rw [bump1, rget_bump_ne _ hne1 hcor, rget_bump_ne _ hne2 hcor]
  rw [inWindow, hdue, bump1, bump_now]
  rfl

theorem markerRx_noted (h : Canonical s) (hp : p < 16) (hready : rdyState s (idxPort p) = .ready) {raw : List Byte}
    (hacks : (takeAcks (portGet s p) raw).1 = false) (hgrey : bit (fld raw 0xA 1) 0 = false)
    (hin : inWindow s p (fld raw 0 8) (fld raw 8 2) = true) (hseen : (portGet s p).seen.contains (fld raw 0 8, fld raw 8 2) = false) :
    ∃ t, exec (.markerRx p raw) s = .next t ∧
      portGet t p = { (takeAcks (portGet s p) raw).2 with seen := (portGet s p).seen ++ [(fld raw 0 8, fld raw 8 2)] } ∧
      rget t (regHwsRxCells p) = rget (bump1 s (regHwsRxCells p)) (regHwsRxCells p) ∧
      bit (rget t (regHwsPortState p)) 22 = true ∧ fget t (regHwsPortState p) 17 8 = fld raw 0x3E 2 % 1024 ∧ t.mem = s.mem ∧ t.harts = s.harts := by
  have hc : Canonical (bump1 s (regHwsRxCells p)) := (kept_bump1 (kept_self h)).canon
  have hport : portGet (bump1 s (regHwsRxCells p)) p = portGet s p := portGet_bump s _ 1 p
  have hstate : rdyState (bump1 s (regHwsRxCells p)) (idxPort p) = .ready := by
    rw [rdyState, rdyGet, bump1, bump_rdy]
    exact hready
  obtain ⟨acked, hnoted⟩ := receiveMarker_noted hp hstate (by rw [hport]; exact hacks) hgrey ((inWindow_counted hp _ _).trans hin) (by rw [hport]; exact hseen)
  have hexec : exec (.markerRx p raw) s = .next (receiveMarker (bump1 s (regHwsRxCells p)) p raw) :=
    congrArg _ (if_pos ((portTakes_iff hp).2 (.inr (.inl hready))))
  rw [hexec, hnoted, hport]
  have hmarked : Canonical (marked (bump1 s (regHwsRxCells p)) p raw acked) := { (kept_rset (kept_self hc)).canon with }
  have hreg : rget (portPut (marked (bump1 s (regHwsRxCells p)) p raw acked) p (markerNoted (portGet s p) raw)) (regHwsPortState p) =
      markedState (rget (bump1 s (regHwsRxCells p)) (regHwsPortState p)) raw % 2 ^ 64 := rget_rset_self hc _ _
  refine ⟨_, rfl, portGet_portPut_self hmarked _ _, ?_, ?_, ?_, bump_mem s _ 1, bump_harts s _ 1⟩
  · exact rget_rset_ne _ (by unfold regHwsRxCells regHwsPortState; omega)
  · rw [hreg]
    exact bit_markedState _ _
  · rw [fget, hreg]
    exact bits_markedState _ _

/-! ### Cells (13 R488, R496) -/

/-- What the FEC has corrected and could not correct is counted (13 R526, R527). -/
def fecCounted (s : State) (p corr : Nat) (fec : FecReport) : State := bump (bump s (regHwsFecCorr p) corr) (regHwsFecUncorr p) fec.fresh

/-- A good cell is counted, and one of an undefined kind besides (13 R496). -/
def cellCounted (s : State) (p corr : Nat) (fec : FecReport) (kind : Nat) : State :=
  if kindDefined kind = true then bump1 (fecCounted s p corr fec) (regHwsRxCells p)
  else bump1 (bump1 (fecCounted s p corr fec) (regHwsRxCells p)) (regHwsCrcErr p)

theorem portGet_cellCounted (corr : Nat) (fec : FecReport) (kind : Nat) : portGet (cellCounted s p corr fec kind) p = portGet s p := by
  unfold cellCounted fecCounted bump1
  split <;> simp only [portGet_bump]

/-- A counted cell in the port of a live link: idle, and of the class that takes no SEQ, a marker, or numbered. -/
def cellTaken (s : State) (p : Nat) (c : Cell) : State :=
  if c.kind = 0 ∨ c.cls = 3 then s else if c.kind = 0x0F then receiveMarker s p c.payload else takeNumbered s p c

section cell
variable (htakes : portTakes s p = true) {raw : List Byte} {corr : Nat} {fec : FecReport}
include htakes

theorem cellRx_bad (h : fec.bad = true ∨ cellGood raw = false) : exec (.cellRx p raw corr fec) s =
    .next (bump1 (fecCounted s p corr fec) (regHwsCrcErr p)) :=
  (if_neg (by simp [htakes])).trans (if_pos (by simpa using h))

theorem cellRx_good (hfec : fec.bad = false) (hgood : cellGood raw = true) : exec (.cellRx p raw corr fec) s =
    .next (cellTaken (cellCounted s p corr fec (parseCell raw).kind) p (parseCell raw)) := by
  refine (if_neg (by simp [htakes])).trans ((if_neg (by simp [hfec, hgood])).trans ?_)
  by_cases h0 : (parseCell raw).kind = 0 ∨ (parseCell raw).cls = 3
  · exact (if_pos h0).trans (congrArg _ (if_pos h0).symm)
  · by_cases hm : (parseCell raw).kind = 0x0F
    · exact ((if_neg h0).trans (if_pos hm)).trans (congrArg _ ((if_neg h0).trans (if_pos hm)).symm)
    · exact ((if_neg h0).trans (if_neg hm)).trans (congrArg _ ((if_neg h0).trans (if_neg hm)).symm)

end cell

theorem takeNumbered_ahead {c : Cell} (hahead : 0 < (c.seq + 65536 - (portGet s p).rxNext) % 65536)
    (hnew : ((portGet s p).held.any fun y => y.seq == c.seq) = false) (hnear : (c.seq + 65536 - (portGet s p).rxNext) % 65536 < 32768) :
    takeNumbered s p c = portPut s p { portGet s p with held := (portGet s p).held ++ [c] } :=
  (if_neg (by omega)).trans (if_neg (by
    rw [hnew]
    rintro (h | h)
    · omega
    · cases h))

theorem takeNumbered_past {c : Cell} (hpast : 32768 ≤ (c.seq + 65536 - (portGet s p).rxNext) % 65536) : takeNumbered s p c = s :=
  (if_neg (by omega)).trans (if_pos (.inl hpast))

/-! ### Training (13 R519) -/

theorem portTrained_tests (h : Canonical s) (hp : p < 16) (htrain : rdyState s (idxPort p) = .training) (hclock : s.elec.serclk = true) :
    ∃ t, exec (.portTrained p) s = .next t ∧ rdyState t (idxPort p) = .testing ∧ t.mem = s.mem ∧
      portGet t p = { portReset with demand := (portGet s p).demand, snapA := (portGet s p).snapA, snapB := (portGet s p).snapB, trainAt := (portGet s p).trainAt } := by
  refine ⟨_, if_neg ?_, rdyState_setUnit_self (kept_portPut (kept_self h)).canon _ _ _, (setUnit_moved _ _ _ _).1.mem, ?_⟩
  · rw [hclock]
    rintro (h' | h' | h')
    · omega
    · exact h' htrain
    · cases h'
  · refine (portGet_congr ?_ p).trans (portGet_portPut_self h p _)
    rw [(setUnit_moved _ _ _ _).1.side]

/-- A port whose training begins again at an instant. -/
def trainsFrom (s : State) (p at_ : Nat) : State := portPut (advance s at_) p { portGet (advance s at_) p with trainAt := (advance s at_).now }

theorem trainsFrom_spec (h : Canonical s) (p at_ : Nat) : (timeRuns s = true → (trainsFrom s p at_).now = max s.now at_) ∧
    portGet (trainsFrom s p at_) p = { portGet s p with trainAt := (trainsFrom s p at_).now } ∧ (trainsFrom s p at_).csr = s.csr ∧
    (trainsFrom s p at_).mem = s.mem := by
  have hport := portGet_advance s at_ p
  refine ⟨fun hrun => (advance_now s at_).trans (laterOf_running hrun at_), ?_, advance_csr s at_, advance_mem s at_⟩
  rw [← hport]
  exact portGet_portPut_self (kept_advance (kept_self h)).canon p _

theorem trainingTimeout_again (hp : p < 16) (htrain : rdyState s (idxPort p) = .training) :
    exec (.trainingTimeout p) s = .next (trainsFrom s p ((portGet s p).trainAt + 1000000000)) := by
  refine if_neg ?_
  rintro (h | h)
  · omega
  · exact h htrain

/-- Settles O43: each row by the rules of frames, markers, cells and training above. -/
theorem linkLayer : Obligations.LinkLayer := by
  unfold Obligations.LinkLayer
  intro s p corr raw fec hc hp x live
  have hlive : live ↔ portTakes s p = true := (portTakes_iff hp).symm
  refine ⟨fun hrun => if_pos (by simp [hrun]), ?frame, markerWindowClose_none, ?window, ?down, ?marker, ?cell, ?training⟩
  case frame =>
    intro hrun first due k
    split
    · exact slotFrameStart_ends hrun ‹_›
    · exact ⟨_, slotFrameStart_begins hrun ‹_›, framesSent_spec s⟩
  case window =>
    intro n k later hw hl due x'
    have htakes := hlive.1 hl
    refine ⟨fun hseen => ⟨_, markerWindowClose_seen hw htakes hseen, ?_, advance_csr s _, advance_mem s _, fun hrun => ?_⟩,
      fun hseen hstays => ⟨_, markerWindowClose_missing hw htakes hseen hstays, ?_, ?_, ?_, fun hrun => ?_⟩⟩
    · exact portGet_portPut_self (kept_advance (kept_self hc)).canon p _
    · exact (advance_now s _).trans (laterOf_running hrun _)
    · exact portGet_portPut_self (kept_bump1 (kept_advance (kept_self hc))).canon p _
    · rw [portPut_mem, bump1, bump_mem, advance_mem]
    · rw [rget, portPut_csr, bump1_csr_congr (advance_csr s _), rget]
    · rw [portPut_now, bump1, bump_now, advance_now, laterOf_running hrun]
  case down =>
    intro hl
    have hoff : portTakes s p ≠ true := fun h => hl (hlive.2 h)
    exact ⟨if_pos (by simpa using hoff), congrArg _ (if_neg hoff)⟩
  case marker => exact fun hready hacks hgrey hin hseen => markerRx_noted hc hp hready hacks hgrey hin hseen
  case cell =>
    intro hl read
    have htakes := hlive.1 hl
    refine ⟨cellRx_bad htakes, fun hfec hgood => ?_⟩
    intro c d counted
    have hexec : exec (.cellRx p raw corr fec) s = .next (cellTaken counted p c) := cellRx_good htakes hfec hgood
    have hport : portGet counted p = x := portGet_cellCounted corr fec c.kind
    clear_value counted
    rw [hexec]
    refine ⟨fun h0 => congrArg _ (if_pos (.inl h0)), fun hm h3 => congrArg _ ((if_neg (by omega)).trans (if_pos hm)), ?_, ?_⟩
    · intro h0 hm h3 hahead hnew hnear
      rw [cellTaken, if_neg (by omega), if_neg hm, takeNumbered_ahead (by rw [hport]; exact hahead) (by rw [hport]; exact hnew) (by rw [hport]; exact hnear),
        hport]
    · intro h0 hm h3 hpast
      rw [cellTaken, if_neg (by omega), if_neg hm, takeNumbered_past (by rw [hport]; exact hpast)]
  case training => exact fun htrain => ⟨portTrained_tests hc hp htrain, _, trainingTimeout_again hp htrain, trainsFrom_spec hc p _⟩

end Sys2Proof.Machine
end

section
/-! SUPPORT. Words laid one after another in memory that reads well, and the channels that keep their contents (12 R453, R472; 13 R511). -/

namespace Sys2Proof.Machine

variable {s t u : State} {a c : Nat} {l : List Byte}

/-! ### Little-endian numbers (00 R4) -/

theorem leNat_natLe_mod (n v : Nat) : leNat (natLe n v) = v % 256 ^ n := by
  induction n generalizing v with
  | zero => exact (Nat.mod_one v).symm
  | succ n ih =>
    rw [natLe, leNat, ih, Nat.pow_succ', Nat.mod_mul]
    simp

theorem readBytes_ext {n : Nat} (h : ∀ i, i < n → byteAt t (a + i) = byteAt s (a + i)) : readBytes t a n = readBytes s a n := by
  induction n generalizing a with
  | zero => rfl
  | succ n ih =>
    have hfirst : byteAt t a = byteAt s a := h 0 (by omega)
    rw [readBytes, readBytes, hfirst, ih fun i hi => ?_]
    rw [Nat.add_assoc, Nat.add_comm 1]
    exact h (i + 1) (by omega)

theorem readBytes_eq_of_getD {n : Nat} {l : List Byte} (hl : l.length = n) (h : ∀ i, i < n → byteAt t (a + i) = l.getD i 0) : readBytes t a n = l := by
  induction n generalizing a l with
  | zero => exact (List.length_eq_zero_iff.1 hl).symm
  | succ n ih =>
    cases l with
    | nil => cases hl
    | cons b r =>
      have hfirst : byteAt t a = b := h 0 (by omega)
      rw [readBytes, hfirst, ih (by simpa using hl) fun i hi => ?_]
      rw [Nat.add_assoc, Nat.add_comm 1]
      exact h (i + 1) (by omega)

/-! ### Channels that keep their contents (12 R453-R455, R472) -/

/-- Every channel that is LOST was so before, and the other way about. -/
def LostKept (s t : State) : Prop := ∀ c, (chanGet t c).lost = (chanGet s c).lost

namespace LostKept

theorem refl (s : State) : LostKept s s := fun _ => rfl

theorem trans (h : LostKept s t) (k : LostKept t u) : LostKept s u := fun c => (k c).trans (h c)

theorem of_chans (h : t.chans = s.chans) : LostKept s t := fun c => by rw [chanGet, h, chanGet]

theorem chanPut (h : Canonical s) {x : Chan} (hx : x.lost = (chanGet s c).lost) : LostKept s (chanPut s c x) := by
  intro d
  by_cases hd : d = c
  · subst hd
    rw [chanGet_chanPut_self h]
    exact hx
  · exact congrArg Chan.lost (mget_mset_ne x hd)

theorem writeBack (h : Canonical s) (e : WcbEntry) : LostKept s (writeBack s c e) := by
  have h1 : LostKept s (takeEntry s c e.unit) := .chanPut h rfl
  have k1 : Canonical (takeEntry s c e.unit) := (kept_takeEntry (kept_self h)).canon
  unfold Machine.writeBack
  extract_lets s1 ch s2
  have h2 : LostKept s s2 := h1.trans (.of_chans (bump_chans _ _ 1))
  split
  · exact h1.trans (.chanPut k1 rfl)
  · split
    · refine h2.trans (.of_chans ?_)
      rw [dropWrite, report_side _ _ _ _ _ (unitCode_notView _ _ _ (by decide))]
      exact (bump_chans _ _ 1).trans (bump_chans _ _ 1)
    · exact h2

theorem combine (h : Canonical s) (c u mask : Nat) (held : List Host.Cell) : LostKept s (combine s c u mask held) := by
  unfold Machine.combine
  extract_lets ch s1 ch1
  split
  · exact .chanPut h rfl
  · split
    · extract_lets m
      split
      · exact .chanPut h rfl
      · exact .chanPut h rfl
    · have h1 : LostKept s s1 ∧ Canonical s1 := by
        show LostKept s (if _ then _ else _) ∧ Canonical (if _ then _ else _)
        split
        · exact ⟨.refl s, h⟩
        · split
          · exact ⟨.writeBack h _, (kept_writeBack (kept_self h)).canon⟩
          · exact ⟨.refl s, h⟩
      exact h1.1.trans (.chanPut h1.2 rfl)

end LostKept

/-- Memory's controllers stand as they did, as far as they decide what is taken and what reads well: no unit reads badly that read well, and no
channel has lost its contents. -/
structure WellKept (s t : State) : Prop where
  bad : NoNewBad s t
  lost : LostKept s t

namespace WellKept

theorem refl (s : State) : WellKept s s := ⟨.refl s, .refl s⟩

theorem trans (h : WellKept s t) (k : WellKept t u) : WellKept s u := ⟨h.bad.trans k.bad, h.lost.trans k.lost⟩

theorem chanLost_eq (h : WellKept s t) (a : Nat) : chanLost t a = chanLost s a := by
  unfold chanLost
  rw [h.bad.chanOf_eq]
  split
  · exact h.lost _
  · rfl

theorem raiseGens (s : State) (l : List Nat) : WellKept s (l.foldl raiseGen s) :=
  List.foldlRecOn l raiseGen (motive := WellKept s) (.refl s) fun _ hx _ _ => hx.trans ⟨.of_chans rfl rfl, .of_chans rfl⟩

theorem putBytes (s : State) (a : Nat) (l : List Byte) : WellKept s (putBytes s a l) := ⟨noNewBad_putBytes a l, .of_chans (putBytes_chans a l)⟩

/-- A write that lies in one unit that reads well. -/
theorem memWrite (h : Canonical s) (h0 : l ≠ []) (hl : a % 64 + l.length ≤ 64) (hg : unitBad s a 1 = false) : WellKept s (memWrite s a l) := by
  have hlen : l.length ≠ 0 := mt List.length_eq_zero_iff.1 h0
  by_cases hs : space a = .hbm
  · have hpart : writeParts s a l = writePart s a l := by
      rw [writeParts, unitParts_one _ _ _ hlen hl, List.foldl_cons, List.foldl_nil, Nat.sub_self, List.drop_zero, List.take_length]
    rw [memWrite_hbm hs h0, hpart]
    refine WellKept.trans ⟨noNewBad_writePart h hs l hg, ?_⟩ (.raiseGens _ _)
    rw [writePart_well l hg]
    exact (LostKept.combine h _ _ _ _).trans (.of_chans (putBytes_chans a l))
  · unfold Machine.memWrite
    split
    · exact absurd ‹_› hs
    · dsimp only
      split
      · exact .putBytes s a l
      · exact (WellKept.putBytes s a l).trans (.raiseGens _ _)
    · exact .putBytes s a l

end WellKept

/-- Bytes that lie in one unit read badly exactly where their first one does. -/
theorem unitBad_one {n : Nat} (hl : a % 64 + n ≤ 64) (hg : unitBad s a 1 = false) : unitBad s a n = false := by
  by_cases hs : space a = .hbm
  · rw [unitBad_hbm hs] at hg ⊢
    intro k _ hlt
    obtain rfl : k = 0 := by omega
    exact hg 0 (by omega) (by omega)
  · exact unitBad_other hs

/-- A word of a task, aligned, in a channel that keeps its contents and a unit that reads well, is stored. -/
theorem taskWrite_word (h : Canonical s) (hal : a % 4 = 0) (hlost : chanLost s a = false) (hg : unitBad s a 1 = false) (v : Nat) :
    WellKept s (taskWrite s a (natLe 4 v)) ∧ Stored s (taskWrite s a (natLe 4 v)) a 4 v := by
  obtain ⟨hl, hin⟩ := aligned_unit (.inr (.inr (.inl rfl)) : AccessSize 4) hal
  have hlen := natLe_length 4 v
  have h0 : natLe 4 v ≠ [] := fun e => by rw [e] at hlen; cases hlen
  rw [taskWrite_unit (by rw [hlen]; decide) (by rw [hlen]; exact hl), if_neg (by rw [hlost]; exact Bool.false_ne_true)]
  refine ⟨.memWrite h h0 (by rw [hlen]; exact hl) hg, fun b => ?_⟩
  rw [byteAt_memWrite_well h (by rw [hlen]; exact hin) (by rw [hlen]; exact unitBad_one hl hg), hlen]
  by_cases hb : a ≤ b ∧ b < a + 4
  · rw [if_pos hb, if_pos hb, natLe_getD v (by omega)]
  · rw [if_neg hb, if_neg hb]

theorem readNat_stored {n v : Nat} (h : Stored s t a n v) : readNat t a n = v % 256 ^ n := by
  rw [readNat, readBytes_eq_of_getD (natLe_length n v) fun i hi => ?_, leNat_natLe_mod]
  rw [h, if_pos (by omega), natLe_getD v hi, Nat.add_sub_cancel_left]

theorem readNat_apart {n v b m : Nat} (h : Stored s t a n v) (hb : b + m ≤ a ∨ a + n ≤ b) : readNat t b m = readNat s b m :=
  congrArg leNat (readBytes_ext fun i hi => by rw [h, if_neg (by omega)])

end Sys2Proof.Machine
end

section
/-! SUPPORT. O44: gather requests and answers of other devices, and scatter-adds (13 R507-R511). -/

namespace Sys2Proof.Machine

variable {s t u : State} {src tag addr count : Nat} {body : List Byte} {r : Remote}

/-! ### Scatter-adds (13 R511) -/

/-- One number added to its word. -/
def addWord (addr : Nat) (body : List Byte) (s : State) (i : Nat) : State :=
  taskWrite s (addr + 4 * i) (natLe 4 (addF (readNat s (addr + 4 * i) 4) (fld body (16 + 4 * i) 4)).1)

/-- What the first words of a scatter-add leave: those words hold their sums, and every other byte, hitch and hart is as before. -/
structure WordsAdded (s t : State) (addr : Nat) (body : List Byte) (n : Nat) : Prop where
  canon : Canonical t
  well : WellKept s t
  hit : t.hit = s.hit
  harts : t.harts = s.harts
  sums : ∀ i, i < n → readNat t (addr + 4 * i) 4 = (addF (readNat s (addr + 4 * i) 4) (fld body (16 + 4 * i) 4)).1 % 2 ^ 32
  rest : ∀ b, b < addr ∨ addr + 4 * n ≤ b → byteAt t b = byteAt s b

theorem WordsAdded.readNat_next {n : Nat} (h : WordsAdded s t addr body n) : readNat t (addr + 4 * n) 4 = readNat s (addr + 4 * n) 4 :=
  congrArg leNat (readBytes_ext fun _ _ => h.rest _ (by omega))

theorem WordsAdded.next {n : Nat} (h : WordsAdded s t addr body n) (hal : addr % 4 = 0) (hlost : chanLost s (addr + 4 * n) = false)
    (hg : unitBad s (addr + 4 * n) 1 = false) : WordsAdded s (addWord addr body t n) addr body (n + 1) := by
  obtain ⟨hwell, hstored⟩ := taskWrite_word h.canon (a := addr + 4 * n) (by omega) ((h.well.chanLost_eq _).trans hlost) (h.well.bad.unitBad_false hg)
    (addF (readNat t (addr + 4 * n) 4) (fld body (16 + 4 * n) 4)).1
  have hside : MemSide t (addWord addr body t n) := taskWrite_side (by rw [natLe_length]; decide) (by rw [natLe_length]; omega)
  refine ⟨(kept_taskWrite (kept_self h.canon)).canon, h.well.trans hwell, ?_, ?_, fun i hi => ?_, fun b hb => ?_⟩
  · rw [hside]
    exact h.hit
  · rw [hside]
    exact h.harts
  · by_cases hn : i = n
    · subst hn
      refine (readNat_stored hstored).trans ?_
      rw [h.readNat_next]
      rfl
    · exact (readNat_apart hstored (by omega)).trans (h.sums i (by omega))
  · exact (hstored b).trans ((if_neg (by omega)).trans (h.rest b (by omega)))

theorem wordsAdded (h : Canonical s) (hal : addr % 4 = 0) (hlost : ∀ a, chanLost s a = false)
    (hg : ∀ a, addr ≤ a → a < addr + 4 * count → unitBad s a 1 = false) :
    WordsAdded s ((List.range count).foldl (addWord addr body) s) addr body count := by
  induction count with
  | zero => exact ⟨h, .refl s, rfl, rfl, fun i hi => absurd hi (Nat.not_lt_zero i), fun _ _ => rfl⟩
  | succ n ih =>
    rw [List.range_succ, List.foldl_append, List.foldl_cons, List.foldl_nil]
    exact (ih fun a h1 h2 => hg a h1 (by omega)).next hal (hlost _) (hg _ (by omega) (by omega))

theorem devCode_notView (d : Nat) : ¬viewSubject (devCode d) := by
  unfold viewSubject devCode
  omega

theorem scatterAdd_refused (h : saBad s (fld body 0 6) (fld body 6 2) (fld body 8 2) body = true) : ReportSide s (scatterAdd s src body) := by
  unfold scatterAdd
  extract_lets a n hitch s1 s2
  refine (congrArg (ReportSide s) (if_pos h)).mpr ?_
  exact ((bump_side s _ 1).trans (event_side _ _ _)).trans (report_side _ _ _ _ _ (devCode_notView _))

theorem scatterAdd_adds (h : saBad s (fld body 0 6) (fld body 6 2) (fld body 8 2) body = false) (hhitch : fld body 8 2 = 0) :
    scatterAdd s src body = (List.range (fld body 6 2)).foldl (addWord (fld body 0 6) body) s :=
  (if_neg (by rw [h]; exact Bool.false_ne_true)).trans (if_pos hhitch)

theorem saBad_aligned {hitch : Nat} (h : saBad s addr count hitch body = false) : addr % 4 = 0 := by
  by_contra hal
  have hbad : saBad s addr count hitch body = true := by
    unfold saBad
    rw [bne_iff_ne.2 hal]
    simp only [Bool.true_or]
  rw [hbad] at h
  cases h

/-- Whether a scatter-add is refused rests on no message (13 R511). -/
theorem saBad_takeMsg (kind hitch : Nat) : saBad (takeMsg s src tag kind) addr count hitch body = saBad s addr count hitch body := by
  rw [takeMsg_only]
  generalize (takeMsg s src tag kind).hws = x
  have hlocal : localBytes { s with hws := x } = localBytes s := rfl
  have hinter : interleaved { s with hws := x } = interleaved s := by rw [interleaved, hlocal, interleaved]
  have hword (a : Nat) : saWord { s with hws := x } a = saWord s a := by
    unfold saWord reachable inSpare
    rw [hlocal, hinter]
  have hoff (a : Nat) : localOff { s with hws := x } a = localOff s a := by
    unfold localOff
    rw [hlocal, hinter]
  have hkeep : keepStore { s with hws := x } = keepStore s := by
    unfold keepStore
    rw [hinter]
  have hprot (a n : Nat) : protectedAt { s with hws := x } a n = protectedAt s a n := by
    unfold protectedAt
    rw [funext (pageProtected_congr hoff hkeep rfl rfl rfl rfl rfl)]
  unfold saBad
  rw [hword, hword, hprot, funext fun i => congrArg not (hword (addr + 4 * i))]

/-! ### Requests (13 R507, R508) -/

theorem takeMsg_deferred (s : State) (src tag kind : Nat) : (takeMsg s src tag kind).hws.deferredReqs = s.hws.deferredReqs := by
  unfold takeMsg
  split
  · rfl
  · exact List.foldlRecOn _ _ (motive := fun t : State => t.hws.deferredReqs = s.hws.deferredReqs) rfl fun t ht _ _ => ht

theorem gatherReq_waits (hp : s.boot.pwrgood = true) (hwin : inApply s = true) : exec (.gatherReq src tag body) s =
    .next { takeMsg s src tag 0x01 with hws := { (takeMsg s src tag 0x01).hws with
      deferredReqs := (takeMsg s src tag 0x01).hws.deferredReqs ++ [⟨src, tag, 0x01, false, body, []⟩] } } :=
  (powered_on hp _).trans (if_pos (inApply_takeMsg.trans hwin))

theorem gatherReq_served (hp : s.boot.pwrgood = true) (hwin : inApply s = false) :
    exec (.gatherReq src tag body) s = .next (serveRequest (takeMsg s src tag 0x01) body) :=
  (powered_on hp _).trans (if_neg (by rw [inApply_takeMsg, hwin]; exact Bool.false_ne_true))

/-- A GREY device answers a request GREY as a whole (13 R508). -/
theorem serveRequest_grey (h : devGrey s = true) : serveRequest s body =
    answerGrey s (fld body 0x16 2 % 1024) (fld body 0x18 4 % 2 ^ 24) (fld body 6 2) := if_pos (.inl h)

/-! ### Answers (13 R508, R510) -/

/-- The request of this device that an answer under a TAG is for. -/
def askedFor (s : State) (tag : Nat) : Option Remote := s.hws.remotes.find? fun r => r.tag == tag && r.hart.isNone

theorem askedFor_takeMsg (kind o : Nat) : askedFor (takeMsg s src tag kind) o = askedFor s o := by rw [askedFor, takeMsg_remotes, askedFor]

/-- A request with one more part of its answer. -/
def partKeptIn (r : Remote) (body : List Byte) : Remote := { r with parts := pput r.parts (fld body 8 2) (body.drop 16) }

/-- The device with a request changed in its place. -/
def remoteChanged (s : State) (tag : Nat) (r : Remote) : State :=
  { s with hws := { s.hws with remotes := s.hws.remotes.map fun x => if x.tag = tag then r else x } }

theorem gatherRsp_unasked (hp : s.boot.pwrgood = true) (h : askedFor s (fld body 0 3) = none) :
    exec (.gatherRsp src tag body) s = .next (lateRsp (takeMsg s src tag 0x02)) := by
  have hnone : (takeMsg s src tag 0x02).hws.remotes.find? (fun r => r.tag == fld body 0 3 && r.hart.isNone) = none :=
    (askedFor_takeMsg 0x02 _).trans h
  rw [exec_gatherRsp, execGatherRsp, powered_on hp]
  dsimp only
  rw [hnone]

theorem gatherRsp_part (hp : s.boot.pwrgood = true) (h : askedFor s (fld body 0 3) = some r) (hgood : fld body 6 1 ≠ 1)
    (hmore : bit (fld body 7 1) 0 = false) (hopen : r.lastPart = none) :
    exec (.gatherRsp src tag body) s = .next (remoteChanged (takeMsg s src tag 0x02) (fld body 0 3) (partKeptIn r body)) := by
  have hsome : (takeMsg s src tag 0x02).hws.remotes.find? (fun r => r.tag == fld body 0 3 && r.hart.isNone) = some r :=
    (askedFor_takeMsg 0x02 _).trans h
  rw [exec_gatherRsp, execGatherRsp, powered_on hp]
  dsimp only
  rw [hsome]
  dsimp only
  rw [if_neg hgood, hmore, hopen]
  refine (if_neg ?_).trans ?_
  · rintro ⟨⟩
  · rw [remoteChanged, partKeptIn, hopen]
    rfl

theorem lateRsp_side (s : State) : ReportSide s (lateRsp s) := (bump_side s _ 1).trans (event_side _ _ _)

/-! ### Time-outs (13 R510) -/

/-- A request that has timed out has been counted, recorded and forgotten (13 R510). -/
def askGivenUp (s : State) (r : Remote) : State := dropRemote (remoteTimedOut (advance s r.deadline) r (askerUnit (advance s r.deadline) r)) r.tag

/-- What a request's time-out leaves as it was. -/
structure AskGivenUp (s t : State) (at_ : Nat) : Prop where
  canon : Canonical t
  now : timeRuns s = true → t.now = max s.now at_
  mem : t.mem = s.mem
  harts : t.harts = s.harts

theorem askGivenUp_spec (h : Canonical s) (r : Remote) : AskGivenUp s (askGivenUp s r) r.deadline := by
  have hside : ReportSide (advance s r.deadline) (remoteTimedOut (advance s r.deadline) r (askerUnit (advance s r.deadline) r)) :=
    ((bump_side _ _ 1).trans (event_side _ _ _)).trans (reportFull_side _ _ _ _ _ _ _ _ (devCode_notView _))
  have hcanon : Canonical (askGivenUp s r) := (kept_dropRemote (kept_remoteTimedOut (kept_advance (kept_self h)))).canon
  refine ⟨hcanon, fun hrun => ?_, ?_, ?_⟩
  · rw [askGivenUp, dropRemote, hside]
    exact (advance_now s _).trans (laterOf_running hrun _)
  · rw [askGivenUp, dropRemote, hside]
    exact advance_mem s _
  · rw [askGivenUp, dropRemote, hside]
    exact advance_harts s _

/-- An answer kept by its command, and what the command would write with it (03 R111). -/
def answerKept (s : State) (r : Remote) (b : List Byte) : State :=
  foresee (cmdMod s r.core r.cmd fun c => { c with got := c.got ++ [(r.items.getD 0 0, b)] }) r.core r.cmd

theorem giveItem_keeps {b : List Byte} (h : r.items.length ≠ 3) : giveItem s r b = answerKept s r b := by
  unfold giveItem
  extract_lets id x t keep
  exact if_neg fun hg => h hg.2.1

theorem remoteGatherTimeout_keeps (h : askedFor s tag = some r) (hemb : r.core ≠ embOwner) (hserve : r.core ≠ serveOwner) (hitems : r.items.length ≠ 3)
    (happly : r.core < 272 → atApply (advance s r.deadline) = false) :
    exec (.remoteGatherTimeout tag) s = .next (answerKept (askGivenUp s r) r (greyBytes r)) := by
  have hsome : s.hws.remotes.find? (fun r => r.tag == tag && r.hart.isNone) = some r := h
  rw [exec_remoteGatherTimeout, execRemoteGatherTimeout, hsome]
  refine (if_neg ?_).trans (congrArg _ ((if_neg hemb).trans ((if_neg hserve).trans (giveItem_keeps hitems))))
  rintro ⟨hc, ha⟩
  rw [happly hc] at ha
  cases ha

/-- What a command would write touches that command alone, and of it no answer. -/
theorem foresee_spec (h : Canonical s) (p id : Nat) : (foresee s p id).now = s.now ∧ (foresee s p id).mem = s.mem ∧ (foresee s p id).harts = s.harts ∧
    ∀ {a : Nat × List Byte}, (∀ x ∈ (coreGet s p).cmds, x.id = id → a ∈ x.got) → ∀ x ∈ (coreGet (foresee s p id) p).cmds, x.id = id → a ∈ x.got := by
  unfold foresee
  split
  · exact ⟨rfl, rfl, rfl, fun ha => ha⟩
  · refine ⟨rfl, rfl, rfl, fun ha x hx hid => ?_⟩
    rw [cmds_cmdMod h] at hx
    obtain ⟨y, hy, rfl⟩ := List.mem_map.1 hx
    by_cases hy' : y.id = id
    · rw [if_pos hy']
      exact ha y hy hy'
    · rw [if_neg hy'] at hid
      exact absurd hid hy'

theorem answerKept_spec (h : Canonical s) (r : Remote) (b : List Byte) : (answerKept s r b).now = s.now ∧ (answerKept s r b).mem = s.mem ∧
    (answerKept s r b).harts = s.harts ∧ ∀ x ∈ (coreGet (answerKept s r b) r.core).cmds, x.id = r.cmd → (r.items.getD 0 0, b) ∈ x.got := by
  have hc : Canonical (cmdMod s r.core r.cmd fun c => { c with got := c.got ++ [(r.items.getD 0 0, b)] }) := (kept_cmdMod (kept_self h)).canon
  obtain ⟨hnow, hmem, hharts, hgot⟩ := foresee_spec hc r.core r.cmd
  refine ⟨hnow, hmem, hharts, hgot fun x hx hid => ?_⟩
  rw [cmds_cmdMod h] at hx
  obtain ⟨y, hy, rfl⟩ := List.mem_map.1 hx
  split
  · exact List.mem_append_right _ (List.mem_singleton_self _)
  · rw [if_neg ‹_›] at hid
    exact absurd hid ‹_›

/-- Settles O44: each message by what it leaves, and scatter-adds word by word. -/
theorem gatherMessages : Obligations.GatherMessages := by
  unfold Obligations.GatherMessages
  intro s src tag body hc hp
  refine ⟨fun hwin => ?waits, fun hwin => ?served, fun hnone => ?unasked, fun r hsome hgood hmore hopen => ?part, fun hnone => ?none,
    fun r hsome hemb hserve hitems happly => ?timeout, ?scatter⟩
  case waits =>
    refine ⟨_, gatherReq_waits hp hwin, ?_, ?_, ?_, congrArg (· ++ _) (takeMsg_deferred ..)⟩
    · rw [takeMsg_only]
    · rw [takeMsg_only]
    · rw [takeMsg_only]
  case served =>
    refine ⟨gatherReq_served hp hwin, fun hgrey => ?_⟩
    have hgrey' : devGrey (takeMsg s src tag 0x01) = true := by
      rw [takeMsg_only]
      exact hgrey
    rw [serveRequest_grey hgrey', answerGrey]
    refine ⟨(post_mem ..).trans ?_, (post_plc ..).trans (takeMsg_plc ..)⟩
    rw [takeMsg_only]
  case unasked =>
    have hside := lateRsp_side (takeMsg s src tag 0x02)
    refine ⟨_, gatherRsp_unasked hp hnone, ?_, ?_, ?_, ?_, bit_event_self (kept_bump1 (kept_takeMsg (kept_self hc))).canon (by decide)⟩
    · rw [hside, takeMsg_only]
    · rw [hside, takeMsg_only]
    · rw [hside, takeMsg_only]
    · rw [hside]
      exact takeMsg_remotes ..
  case part =>
    refine ⟨_, gatherRsp_part hp hsome hgood hmore hopen, ?_, ?_, ?_, ?_, ?_⟩
    · rw [remoteChanged, takeMsg_only]
    · rw [remoteChanged, takeMsg_only]
    · rw [remoteChanged, takeMsg_only]
    · rw [remoteChanged, takeMsg_only]
    · rw [remoteChanged, takeMsg_remotes]
      rfl
  case none =>
    rw [exec_remoteGatherTimeout, execRemoteGatherTimeout, hnone]
  case timeout =>
    obtain ⟨hcanon, hnow, hmem, hharts⟩ := askGivenUp_spec hc r
    obtain ⟨hnow', hmem', hharts', hgot⟩ := answerKept_spec hcanon r (greyBytes r)
    exact ⟨_, remoteGatherTimeout_keeps hsome hemb hserve hitems happly, fun hrun => hnow'.trans (hnow hrun), hmem'.trans hmem, hharts'.trans hharts, hgot⟩
  case scatter =>
    intro addr count
    have hexec : exec (.scatterAdd src tag body) s = .next (scatterAdd (takeMsg s src tag 0x03) src body) := powered_on hp _
    have hsame := takeMsg_memory s src tag 0x03
    have hbad' : ∀ b, saBad s addr count (fld body 8 2) body = b → saBad (takeMsg s src tag 0x03) (fld body 0 6) (fld body 6 2) (fld body 8 2) body = b :=
      fun b h => (saBad_takeMsg 0x03 _).trans h
    refine ⟨fun hbad => ?_, fun hgood hhitch hlost hunits => ?_⟩
    · have hside := scatterAdd_refused (src := src) (hbad' _ hbad)
      refine ⟨_, hexec, ?_, ?_, ?_⟩
      · rw [hside, takeMsg_only]
      · rw [hside, takeMsg_only]
      · rw [hside, takeMsg_only]
    · have hc' : Canonical (takeMsg s src tag 0x03) := takeMsg_canonical hc
      have hwell : WellKept s (takeMsg s src tag 0x03) := ⟨hsame.noNewBad, .of_chans hsame.chans⟩
      have hadded := wordsAdded (addr := addr) (count := count) (body := body) hc' (saBad_aligned hgood) (fun a => (hwell.chanLost_eq a).trans (hlost a))
        fun a h1 h2 => hwell.bad.unitBad_false (hunits a h1 h2)
      refine ⟨_, hexec.trans (congrArg _ (scatterAdd_adds (hbad' _ hgood) hhitch)), hadded.hit.trans (takeMsg_hit ..), hadded.harts.trans (takeMsg_harts ..),
        fun i hi => ?_, fun a ha => ?_⟩
      · rw [← readNat_congr hsame.mem]
        exact hadded.sums i hi
      · exact (hadded.rest a ha).trans (byteAt_congr hsame.mem a)

end Sys2Proof.Machine
end

section
/-! SUPPORT. O51: power, restart and the host's resets, clocks and heat (16 R615-R617, R648; 18 R704; 20 R746-R752). -/

namespace Sys2Proof.Machine

variable {s t u : State} {p : Nat}

/-! ### What a link that goes down leaves as it was (13 R519, R520) -/

namespace FrameKept

theorem report (s : State) (kind action subject detail : Nat) : FrameKept s (report s kind action subject detail) := by
  rw [report_only]
  exact ⟨rfl, rfl, rfl, rfl, rfl, rfl⟩

theorem setUnit (s : State) (i : Nat) (st : UnitState) (reason : Nat) : FrameKept s (setUnit s i st reason) := by
  have hside := (setUnit_moved s i st reason).1.side
  refine ⟨?_, ?_, ?_, ?_, ?_, ?_⟩
  all_goals rw [hside]

theorem event (s : State) (a b : Nat) : FrameKept s (event s a b) := ⟨rfl, rfl, rfl, rfl, rfl, rfl⟩

theorem fset (s : State) (a hi lo v : Nat) : FrameKept s (fset s a hi lo v) := ⟨rfl, rfl, rfl, rfl, rfl, rfl⟩

theorem grants (s : State) (g : List (Nat × Nat)) : FrameKept s { s with hws := { s.hws with grants := g } } := ⟨rfl, rfl, rfl, rfl, rfl, rfl⟩

theorem sched (s : State) (x : SchUnit) : FrameKept s { s with sch := x } := ⟨rfl, rfl, rfl, rfl, rfl, rfl⟩

theorem skipGrey (s : State) (k : Nat × List Byte) (unit : Nat) : FrameKept s (skipGrey s k unit) := .report s _ _ _ _

theorem bmca (s : State) : FrameKept s (bmca s) := by
  rw [bmca_only]
  exact ⟨rfl, rfl, rfl, rfl, rfl, rfl⟩

theorem ptpPortDown (s : State) (p : Nat) : FrameKept s (ptpPortDown s p) :=
  FrameKept.trans (t := timMap s fun u => { u with ports := u.ports.filter fun e => e.1 != p }) ⟨rfl, rfl, rfl, rfl, rfl, rfl⟩ (.bmca _)

theorem breakBarrier (s : State) (b unit tick : Nat) (port : Option Nat) : FrameKept s (breakBarrier s b unit tick port) := by
  unfold Machine.breakBarrier
  extract_lets x s1 near s2 s3 s4
  have h2 : FrameKept s s2 := ⟨rfl, rfl, rfl, rfl, rfl, rfl⟩
  have h3 : FrameKept s2 s3 := (FrameKept.bump s2 _ 1).trans (.event _ _ _)
  have h4 : FrameKept s3 s4 := .report s3 _ _ _ _
  clear_value s4
  split
  · exact .refl s
  · refine ((h2.trans h3).trans h4).trans (.foldl _ (fun y q => ?_) s4)
    split
    · exact .refl y
    · exact .postPort y _ _ _

theorem breakWhere (s : State) (f : Barrier → Bool) (unit : Nat) : FrameKept s (breakWhere s f unit) :=
  .foldl _ (fun x (e : Nat × Barrier) => .breakBarrier x e.1 unit x.tsq.tick none) s

theorem linkDown (s : State) (p : Nat) : FrameKept s (linkDown s p) := by
  unfold Machine.linkDown
  extract_lets x s1 s2 s3 s4 empty s5 unit s6 kept queue lost s7 s8
  have h1 : FrameKept s s1 := (FrameKept.bump s _ 1).trans (.event _ _ _)
  have h3 : FrameKept s1 s3 := (FrameKept.report s1 _ _ _ _).trans (.setUnit s2 _ _ _)
  have h6 : FrameKept s3 s6 := ((FrameKept.fset s3 _ _ _ _).trans (.portPut s4 p _)).trans (.grants s5 _)
  have h7 : FrameKept s6 s7 := by
    refine .foldl _ (fun y m => ?_) s6
    dsimp only
    split
    · exact .moveCells y _
    · exact .moveCells y _
  have h8 : FrameKept s7 s8 := .breakWhere s7 _ _
  exact (((h1.trans h3).trans h6).trans (h7.trans h8)).trans (.ptpPortDown s8 p)

theorem portDown (s : State) (p : Nat) : FrameKept s (portDown s p) := by
  unfold Machine.portDown
  split
  · exact .linkDown s p
  · split
    · exact ((FrameKept.setUnit s _ _ _).trans (.fset _ _ _ _ _)).trans (.portPut _ _ _)
    · split
      · exact .ptpPortDown s p
      · exact .refl s

end FrameKept

/-! ### What entering GREY leaves as it was, with no task and no barrier about (15 R569) -/

theorem skipNamed_kept (s : State) (i : Nat) : FrameKept s (skipNamed s i) := by
  unfold skipNamed
  split
  · exact .refl s
  · refine .foldl _ (fun x k => ?_) s
    split
    · exact .refl x
    · dsimp only
      split
      · exact .refl x
      · split
        · exact .refl x
        · exact (FrameKept.sched x _).trans (.skipGrey _ _ _)

theorem greyEffects_kept (h : Canonical s) (hq : Quiet s) (i : Nat) : FrameKept s (greyEffects s i) := by
  obtain ⟨htasks, hbarriers⟩ := ((QuietSince.refl h hq).skipNamed i).quiet
  have hk := skipNamed_kept s i
  unfold greyEffects
  simp only [endGrey_quiet htasks, breakWhere_quiet hbarriers]
  split_ifs
  · exact hk
  · exact hk.trans (.sched _ _)
  · exact hk.trans (.sched _ _)
  · exact hk
  · exact hk
  · exact hk.trans (.report _ _ _ _ _)
  · exact hk
  · exact hk

theorem toGrey_kept (h : Canonical s) (hq : Quiet s) (i kind : Nat) : FrameKept s (toGrey s i kind true) := by
  have hset := FrameKept.setUnit s i .grey kind
  have hquiet : Quiet (setUnit s i .grey kind) := by
    rw [(setUnit_moved s i .grey kind).1.side]
    exact hq
  unfold toGrey
  extract_lets st s1 e
  have h1 : FrameKept s s1 := by
    show FrameKept s (if _ then _ else _)
    split
    · exact .refl s
    · exact hset.trans (greyEffects_kept (setUnit_canonical h _ _ _) hquiet i)
  clear_value s1
  split
  · exact .refl s
  · rw [if_pos rfl]
    exact h1.trans ⟨rfl, rfl, rfl, rfl, rfl, rfl⟩

/-! ### Power and restart (16 R615-R617, R648; 20 R752) -/

/-- The device with every unit in reset: what fuses, flash and the host hold is as it was, and all else forgotten (16 R615, R617). -/
def Off (s t : State) : Prop :=
  t.mem = [] ∧ t.csr = [] ∧ t.harts = [] ∧ t.rdy = [] ∧ t.tsq.running = false ∧ t.sch.tasks = [] ∧ t.hit.hitches = [] ∧
    t.pending = s.pending ∧ t.hostMem = s.hostMem ∧ t.keep.rootHash = s.keep.rootHash ∧ t.keep.svnFloor = s.keep.svnFloor ∧
    t.keep.lifecycle = s.keep.lifecycle ∧ t.boot.flash = s.boot.flash ∧ t.keep.unlockScope = 0

theorem offState_off (s : State) (remap : Bool) : Off s (offState s remap) := ⟨rfl, rfl, rfl, rfl, rfl, rfl, rfl, rfl, rfl, rfl, rfl, rfl, rfl, rfl⟩

/-- What is forgotten is so with the pins, power and the flash as they are. -/
theorem Off.of_pins (h : Off s t) (hflash : u.boot.flash = t.boot.flash) (hrest : u = { t with boot := u.boot, elec := u.elec }) : Off s u := by
  unfold Off
  rw [hflash, hrest]
  exact h

theorem pwrgoodRise_waits {gpio : Nat} (h : s.boot.pwrgood = true ∨ s.elec.thermtrip = true) : exec (.pwrgoodRise gpio) s = .next s := by
  refine if_pos ?_
  rcases h with h | h
  · exact .inl h
  · exact .inr (.inl h)

theorem pwrgoodRise_starts {gpio : Nat} (hoff : s.boot.pwrgood = false) (htrip : s.elec.thermtrip = false) (hcool : ∀ d ∈ s.elec.dieTemp, d.2 ≤ 100) :
    exec (.pwrgoodRise gpio) s = .next (bootMap (offState s false) fun b => { b with pwrgood := true, gpio := gpio % 16 }) := by
  have htemps : s.elec.dieTemp.any (fun d => decide (100 < d.2)) = false := by
    rw [List.any_eq_false]
    intro d hd
    have := hcool d hd
    simpa using this
  refine if_neg ?_
  rw [hoff, htrip, htemps]
  decide

theorem bootRestart_restarts {value : Nat} (hkey : bits value 31 16 = 0xB007) (hgo : bit value 0 = true) (hon : s.boot.pwrgood = true) :
    exec (.bootRestart value) s = .next (offState s true) := by
  refine if_neg ?_
  rw [hkey, hgo, hon]
  decide

theorem bootRestart_ignored {value : Nat} (h : bits value 31 16 ≠ 0xB007 ∨ bit value 0 = false ∨ s.boot.pwrgood = false) :
    exec (.bootRestart value) s = .next s := by
  refine if_pos ?_
  rcases h with h | h | h
  · exact .inl h
  · exact .inr (.inl (by rw [h]; rfl))
  · exact .inr (.inr (by rw [h]; rfl))

/-! ### The reset of the host interface (16 R616; 18 R704) -/

/-- Every request that an abort can still win against has been aborted. -/
def abortedAll (s : State) : State :=
  s.pci.requests.foldl (fun s e => match reqGet s e.1 with
    | some r => if abortable r then abortReq s e.1 { r with silent := true } 2 else s
    | none => s) s

theorem abortedAll_kept (h : Canonical s) : Kept ⟨s.pending, tickClock s⟩ (abortedAll s) := by
  refine kept_foldl (kept_self h) fun x e hx => ?_
  split
  · exact kept_ite (kept_abortReq hx) hx
  · exact hx

/-- The host interface with no queue and no request. -/
def hostEmptied (s : State) : State :=
  pciMap s fun p => { p with queues := [], requests := [], recSlots := [], pool := [], d3hot := false, bme := false, bar2Log2 := 39 }

/-- A reset of the host interface empties its queues and requests, is noted, and leaves the tick as it stood. -/
structure HostWasReset (s t : State) : Prop where
  canon : Canonical t
  queues : t.pci.queues = []
  requests : t.pci.requests = []
  noted : bit (rget t regPciEvents) 4 = true
  clock : tickClock t = tickClock s

theorem hostReset_resets (h : Canonical s) : HostWasReset s (hostReset s) := by
  have hkept : Kept ⟨s.pending, tickClock s⟩ (hostReset s) := kept_hostReset (kept_self h)
  have hx : Canonical (hostEmptied (abortedAll s)) := { (abortedAll_kept h).canon with queues := mwf_nil }
  have hempty : Canonical (pciCsrReset (hostEmptied (abortedAll s))) := (kept_pciCsrReset (kept_self hx)).canon
  exact ⟨hkept.canon, rfl, rfl, bit_event_self hempty (by decide), hkept.clock⟩

theorem HostWasReset.linkDown (h : HostWasReset s t) : HostWasReset s (pciMap t fun p => { p with linkUp := false, linkMode := 0 }) :=
  ⟨(kept_pciMap (kept_self h.canon) rfl).canon, h.queues, h.requests, h.noted, h.clock⟩

theorem perstNAssert_reset {cause : Nat} (h : Canonical s) (hon : s.boot.pwrgood = true) (hcause : cause ≠ 0) :
    ∃ t, exec (.perstNAssert cause) s = .next t ∧ HostWasReset s t ∧ (cause = 2 → t.pci.linkUp = false) := by
  have hr := hostReset_resets h
  have hexec : exec (.perstNAssert cause) s = .next (if cause = 0 ∨ cause = 2 then pciMap (hostReset s) fun p => { p with linkUp := false, linkMode := 0 }
      else hostReset s) := (if_neg (by simp [hon])).trans (if_pos hcause)
  refine ⟨_, hexec, ?_, fun h2 => ?_⟩
  · split
    · exact hr.linkDown
    · exact hr
  · rw [if_pos (.inr h2)]
    rfl

/-- PERST_N low: the link is down, and the endpoint's link trains again if it was up. -/
def perstLow (s : State) : State := bootMap (pciMap s fun p => { p with linkUp := false, linkMode := 0 }) fun b => { b with perst := false }

theorem perstNAssert_low (h : Canonical s) (hon : s.boot.pwrgood = true) :
    ∃ t, exec (.perstNAssert 0) s = .next t ∧ t.pci.queues = [] ∧ t.pci.requests = [] ∧ t.boot.perst = false ∧ t.pci.linkUp = false ∧
      tickClock t = tickClock s := by
  obtain ⟨hcanon, hqueues, hrequests, -, hclock⟩ := hostReset_resets h
  have hlow : Canonical (perstLow (hostReset s)) := (kept_bootMap (kept_pciMap (kept_self hcanon) rfl)).canon
  have hexec : exec (.perstNAssert 0) s = .next (if rdyState (perstLow (hostReset s)) 0x3A == .ready then setUnit (perstLow (hostReset s)) 0x3A .training 0
      else perstLow (hostReset s)) := (if_neg (by simp [hon])).trans (if_neg (by simp))
  have hlowclock : tickClock (perstLow (hostReset s)) = tickClock s := hclock
  have hlowqueues : (perstLow (hostReset s)).pci.queues = [] := hqueues
  have hlowrequests : (perstLow (hostReset s)).pci.requests = [] := hrequests
  have hperst : (perstLow (hostReset s)).boot.perst = false := rfl
  have hlink : (perstLow (hostReset s)).pci.linkUp = false := rfl
  generalize perstLow (hostReset s) = x at *
  refine ⟨_, hexec, ?_⟩
  split
  · have hmoved := (setUnit_moved x 0x3A .training 0).1
    refine ⟨?_, ?_, ?_, ?_, ?_⟩
    · rw [hmoved.pci]
      exact hlowqueues
    · rw [hmoved.pci]
      exact hlowrequests
    · rw [hmoved.boot]
      exact hperst
    · rw [hmoved.pci]
      exact hlink
    · exact (kept_setUnit (kept_self hlow)).clock.trans hlowclock
  · exact ⟨hlowqueues, hlowrequests, hperst, hlink, hlowclock⟩

/-- The link up in a mode. -/
def linkedAt (s : State) (mode : Nat) : State := pciMap (drawN s 3).2 fun p => { p with linkUp := true, linkMode := mode }

theorem configSpaceLoaded_links (hon : s.boot.pwrgood = true) (hperst : s.boot.perst = true) : ∃ mode, 1 ≤ mode % 8 ∧ exec .configSpaceLoaded s =
    .next (if rdyState (linkedAt s mode) 0x3A == .grey ∨ rdyState (linkedAt s mode) 0x3A == .fenced then linkedAt s mode
      else setUnit (linkedAt s mode) 0x3A .ready 0) := by
  refine ⟨_, ?_, if_neg (by simp [hon, hperst])⟩
  omega

theorem configSpaceLoaded_ready (h : Canonical s) (hon : s.boot.pwrgood = true) (hperst : s.boot.perst = true) :
    ∃ t, exec .configSpaceLoaded s = .next t ∧ t.pci.linkUp = true ∧ 1 ≤ t.pci.linkMode % 8 ∧ t.mem = s.mem ∧ t.harts = s.harts ∧
      (rdyState s 0x3A ≠ .grey → rdyState s 0x3A ≠ .fenced → rdyState t 0x3A = .ready) := by
  obtain ⟨mode, hmode, hexec⟩ := configSpaceLoaded_links hon hperst
  have hlinked : Canonical (linkedAt s mode) := { h with }
  have hstate : rdyState (linkedAt s mode) 0x3A = rdyState s 0x3A := rfl
  have hup : (linkedAt s mode).pci.linkUp = true ∧ (linkedAt s mode).pci.linkMode = mode := ⟨rfl, rfl⟩
  have hmem : (linkedAt s mode).mem = s.mem ∧ (linkedAt s mode).harts = s.harts := ⟨rfl, rfl⟩
  generalize linkedAt s mode = x at *
  refine ⟨_, hexec, ?_⟩
  split
  · rename_i hstays
    refine ⟨hup.1, by rw [hup.2]; exact hmode, hmem.1, hmem.2, fun hg hf => ?_⟩
    rw [hstate, beq_iff_eq, beq_iff_eq] at hstays
    exact absurd hstays (not_or.2 ⟨hg, hf⟩)
  · have hmoved := (setUnit_moved x 0x3A .ready 0).1
    refine ⟨?_, ?_, hmoved.mem.trans hmem.1, hmoved.harts.trans hmem.2, fun _ _ => rdyState_setUnit_self hlinked _ _ _⟩
    · rw [hmoved.pci]
      exact hup.1
    · rw [hmoved.pci]
      show 1 ≤ x.pci.linkMode % 8
      rw [hup.2]
      exact hmode

/-! ### The reference clock (20 R746, R747) -/

/-- The device without SERCLK, its ports down. -/
def serclkLost (s : State) : State := (List.range 16).foldl portDown (elecMap s fun e => { e with serclk := false, serclkAt := s.now })

theorem serclkLost_elec (s : State) : (serclkLost s).elec = { s.elec with serclk := false, serclkAt := s.now } :=
  (FrameKept.foldl _ FrameKept.portDown _).elec

theorem serclkLoss_holds (hon : s.boot.pwrgood = true) (hclk : s.elec.serclk = true) :
    ∃ t, exec .serclkLoss s = .next t ∧ t.elec.serclk = false ∧ t.elec.serclkAt = s.now ∧ (t.tim.state = .unset ∨ t.tim.state = .holdover) := by
  rw [exec_serclkLoss, execSerclkLoss, if_neg (by simp [hon, hclk])]
  extract_lets s1 s2
  have helec : s2.elec = { s.elec with serclk := false, serclkAt := s.now } := serclkLost_elec s
  clear_value s2
  by_cases hst : s2.tim.state = .unset ∨ s2.tim.state = .holdover
  · rw [if_pos hst]
    exact ⟨_, rfl, by rw [helec], by rw [helec], hst⟩
  · rw [if_neg hst]
    exact ⟨_, rfl, congrArg ElecUnit.serclk helec, congrArg ElecUnit.serclkAt helec, .inr rfl⟩

/-- As time passes tasks stand as they did. -/
theorem advance_tasks (s : State) (at_ : Nat) : (advance s at_).sch.tasks = s.sch.tasks := by
  unfold advance
  split
  · rfl
  · extract_lets n ls s1
    show (if _ then _ else _ : State).sch.tasks = _
    split
    · rfl
    · exact List.foldlRecOn ls _ (motive := fun x : State => x.sch.tasks = s.sch.tasks) rfl fun x hx l _ => hx

/-- The device has waited for its clock until an instant, and enters GREY. -/
def clockGreyed (s : State) (at_ : Nat) : State := toGrey (report (advance s at_) 0xC0 3 (unitCode (advance s at_) 0 0) 1) 0 0xC0 true

theorem clockGreyed_spec (h : Canonical s) (hq : Quiet s) (hf : rdyState s 0 ≠ .fenced) (at_ : Nat) : rdyState (clockGreyed s at_) 0 = .grey ∧
    (rdyGet (clockGreyed s at_) 0).ownFault = true ∧ (timeRuns s = true → (clockGreyed s at_).now = max s.now at_) ∧ (clockGreyed s at_).mem = s.mem := by
  have hrdy : rdyState (advance s at_) 0 = rdyState s 0 := by
    rw [advance_only]
    rfl
  have hquiet : Quiet (advance s at_) := by
    refine ⟨(advance_tasks s at_).trans hq.1, ?_⟩
    rw [advance_only]
    exact hq.2
  have hc : Canonical (advance s at_) := (kept_advance (kept_self h)).canon
  have hreport := (QuietSince.refl hc hquiet).report 0xC0 3 1 (unitCode_notView (advance s at_) 0 0 (by decide))
  obtain ⟨hgrey, hown, -⟩ := toGrey_own hreport.units.canon hreport.quiet 0xC0 (i := 0) (by rw [hreport.units.state, hrdy]; exact hf)
  have hkept := (FrameKept.report (advance s at_) 0xC0 3 (unitCode (advance s at_) 0 0) 1).trans (toGrey_kept hreport.units.canon hreport.quiet 0 0xC0)
  exact ⟨hgrey, hown, fun hrun => hkept.now.trans ((advance_now s at_).trans (laterOf_running hrun at_)), hkept.mem.trans (advance_mem s at_)⟩

theorem clockLoss_greys (hon : s.boot.pwrgood = true) (hclk : s.elec.serclk = false) :
    exec .clockLoss s = .next (clockGreyed s (s.elec.serclkAt + 100000000)) := if_neg (by simp [hon, hclk])

/-- A port that trains counts its second from now on. -/
def trainsNow (s : State) (p : Nat) : State :=
  if rdyState s (idxPort p) == .training then portPut s p { portGet s p with trainAt := s.now } else s

theorem trainsNow_only (s : State) (p : Nat) : (trainsNow s p).rdy = s.rdy ∧ (trainsNow s p).elec = s.elec ∧ (trainsNow s p).mem = s.mem := by
  unfold trainsNow
  split
  · exact ⟨rfl, rfl, rfl⟩
  · exact ⟨rfl, rfl, rfl⟩

theorem trainsNow_all (l : List Nat) (s : State) :
    (l.foldl trainsNow s).rdy = s.rdy ∧ (l.foldl trainsNow s).elec = s.elec ∧ (l.foldl trainsNow s).mem = s.mem :=
  List.foldlRecOn l trainsNow (motive := fun t => t.rdy = s.rdy ∧ t.elec = s.elec ∧ t.mem = s.mem) ⟨rfl, rfl, rfl⟩ fun x hx p _ =>
    have hone := trainsNow_only x p
    ⟨hone.1.trans hx.1, hone.2.1.trans hx.2.1, hone.2.2.trans hx.2.2⟩

theorem trainsNow_canonical (h : Canonical s) (l : List Nat) : Canonical (l.foldl trainsNow s) :=
  List.foldlRecOn l trainsNow (motive := Canonical) h fun _ hx _ _ => (kept_ite (kept_portPut (kept_self hx)) (kept_self hx)).canon

/-- A recovery that completes sets RECOVERED, where the unit is GREY and not held so by force (15 R571). -/
theorem setRecovered_recovers (h : Canonical s) {i : Nat} (hgrey : rdyState s i = .grey) (hforced : (rdyGet s i).forced = false) :
    (rdyGet (setRecovered s i) i).recovered = true := by
  unfold setRecovered
  dsimp only
  split
  · rw [rdyGet_rdyPut_self h]
  · rename_i hstays
    have hgrey' : ((rdyGet s i).state == .grey) = true := beq_iff_eq.2 hgrey
    rw [hgrey', hforced] at hstays
    simpa using hstays

theorem serclkReturn_returns (h : Canonical s) (hon : s.boot.pwrgood = true) (hclk : s.elec.serclk = false) :
    ∃ t, exec .serclkReturn s = .next t ∧ t.elec = { s.elec with serclk := true } ∧ t.mem = s.mem ∧
      (rdyState s 0 = .grey → (rdyGet s 0).reason = 0xC0 → (rdyGet s 0).forced = false → (rdyGet t 0).recovered = true) := by
  rw [exec_serclkReturn, execSerclkReturn, if_neg (by simp [hon, hclk])]
  extract_lets s1 s2
  have hall : s2.rdy = s1.rdy ∧ s2.elec = s1.elec ∧ s2.mem = s1.mem := trainsNow_all (List.range 16) s1
  have hc : Canonical s2 := trainsNow_canonical (s := s1) (kept_elecMap (kept_self h)).canon (List.range 16)
  clear_value s2
  obtain ⟨hrdy, helec, hmem⟩ := hall
  have hget : rdyGet s2 0 = rdyGet s 0 := by
    rw [rdyGet, hrdy]
    rfl
  by_cases hreason : (rdyGet s2 0).reason = 0xC0
  · rw [if_pos hreason]
    refine ⟨_, rfl, ?_, ?_, fun hgrey _ hforced => setRecovered_recovers hc (by rw [rdyState, hget]; exact hgrey) (by rw [hget]; exact hforced)⟩
    · rw [setRecovered_only]
      exact helec
    · rw [setRecovered_only]
      exact hmem
  · rw [if_neg hreason]
    exact ⟨_, rfl, helec, hmem, fun _ hr _ => absurd ((congrArg RdyEntry.reason hget).trans hr) hreason⟩

/-! ### Heat (20 R747, R751) -/

/-- A die's temperature noted, and that it was too hot. -/
def dieHot (s : State) (die temp : Nat) : State :=
  elecMap s fun e => { e with dieTemp := pput e.dieTemp die temp, overtemp := if e.overtemp.contains die then e.overtemp else e.overtemp ++ [die] }

theorem dieHot_contains (s : State) (die temp : Nat) : (dieHot s die temp).elec.overtemp.contains die = true := by
  show (if s.elec.overtemp.contains die then s.elec.overtemp else s.elec.overtemp ++ [die]).contains die = true
  split
  · assumption
  · simp

theorem dieOvertemp_greys (h : Canonical s) (hon : s.boot.pwrgood = true) (hq : Quiet s) {die temp : Nat} (hdie : die < 6) (htemp : 110 ≤ temp)
    (hf : rdyState s (if die = 4 then 0 else idxDie die) ≠ .fenced) :
    ∃ t, exec (.dieOvertemp die temp) s = .next t ∧ rdyState t (if die = 4 then 0 else idxDie die) = .grey ∧
      t.elec.overtemp.contains die = true ∧ pfind t.elec.dieTemp die = some temp ∧ t.mem = s.mem := by
  generalize hunit : (if die = 4 then 0 else idxDie die) = i at *
  have hexec : exec (.dieOvertemp die temp) s =
      .next (toGrey (report (dieHot s die temp) 0xC1 3 (unitCode (dieHot s die temp) 1 die) temp) i 0xC1 true) := by
    rw [← hunit]
    refine if_neg ?_
    rw [hon]
    rintro (h' | h' | h')
    · omega
    · omega
    · cases h'
  have hc : Canonical (dieHot s die temp) := (kept_elecMap (kept_self h)).canon
  have hreport := (QuietSince.refl hc hq).report 0xC1 3 temp (unitCode_notView (dieHot s die temp) 1 die (by decide))
  obtain ⟨hgrey, -, -⟩ := toGrey_own hreport.units.canon hreport.quiet 0xC1 (i := i) (by rw [hreport.units.state]; exact hf)
  have hkept := (FrameKept.report (dieHot s die temp) 0xC1 3 (unitCode (dieHot s die temp) 1 die) temp).trans
    (toGrey_kept hreport.units.canon hreport.quiet i 0xC1)
  refine ⟨_, hexec, hgrey, ?_, ?_, hkept.mem⟩
  · rw [hkept.elec]
    exact dieHot_contains s die temp
  · rw [hkept.elec]
    exact pfind_pput_self _ _ _

theorem dieOvertemp_cool {die temp : Nat} (htemp : temp < 110) : exec (.dieOvertemp die temp) s = .next s := if_pos (.inr (.inl htemp))

/-- A die's temperature noted, and that it is too hot no more. -/
def dieCool (s : State) (die temp : Nat) : State :=
  elecMap s fun e => { e with dieTemp := pput e.dieTemp die temp, overtemp := e.overtemp.filter (· ≠ die) }

theorem dieCooled_notes {die temp : Nat} (hdie : die < 6) (htemp : temp < 100) (hhot : s.elec.overtemp.contains die = false) :
    exec (.dieCooled die temp) s = .next (dieCool s die temp) := (if_neg (by omega)).trans (if_pos (by rw [hhot]; rfl))

theorem dieCooled_recovers {die temp : Nat} (hdie : die < 6) (htemp : temp < 100) (hhot : s.elec.overtemp.contains die = true) :
    ∃ t, exec (.dieCooled die temp) s = .next t ∧ t.elec = (dieCool s die temp).elec ∧ t.mem = s.mem := by
  have hexec : exec (.dieCooled die temp) s = if die = 4 then .next (setRecovered (dieCool s die temp) 0)
      else .next (if (rdyGet (dieCool s die temp) (idxDie die)).state == .grey && !(rdyGet (dieCool s die temp) (idxDie die)).forced &&
        !(rdyGet (dieCool s die temp) (idxDie die)).released && !(rdyGet (dieCool s die temp) (idxDie die)).recovered
        then restartDie die (dieCool s die temp) else dieCool s die temp) :=
    (if_neg (by omega)).trans (if_neg (by rw [hhot]; exact Bool.false_ne_true))
  have hmem : (dieCool s die temp).mem = s.mem := rfl
  generalize dieCool s die temp = x at *
  rw [hexec]
  split
  · refine ⟨_, rfl, ?_, ?_⟩
    · rw [setRecovered_only]
    · rw [setRecovered_only]
      exact hmem
  · refine ⟨_, rfl, ?_⟩
    split
    · exact ⟨(restartDie_kept x hdie).elec, (restartDie_kept x hdie).mem.trans hmem⟩
    · exact ⟨rfl, hmem⟩

/-- Settles O51: each row of power, the host's resets, the reference clock and heat by its own lemma. -/
theorem powerClocksAndHeat : Obligations.PowerClocksAndHeat := by
  unfold Obligations.PowerClocksAndHeat
  refine ⟨fun s gpio value cause hc => ?_, fun s die temp hc hon => ?_⟩
  · intro off
    refine ⟨fun hoff htrip hcool => ?_, pwrgoodRise_waits, ?_, fun hon => ?_, fun hoff => ?_, fun hkey hgo hon => ?_, bootRestart_ignored, fun hon hcause => ?_,
      perstNAssert_low hc, rfl, configSpaceLoaded_ready hc⟩
    · exact ⟨_, pwrgoodRise_starts hoff htrip hcool, (offState_off s false).of_pins rfl rfl, rfl, rfl⟩
    · exact ⟨_, rfl, (offState_off s false).of_pins rfl rfl, rfl, rfl, rfl⟩
    · exact ⟨_, if_neg (by simp [hon]), (offState_off s false).of_pins rfl rfl, rfl, rfl⟩
    · exact if_pos (by simp [hoff])
    · exact ⟨_, bootRestart_restarts hkey hgo hon, offState_off s true, hon⟩
    · obtain ⟨t, hexec, hreset, hlink⟩ := perstNAssert_reset hc hon hcause
      exact ⟨t, hexec, hreset.queues, hreset.requests, hreset.noted, hreset.clock, hlink⟩
  · refine ⟨serclkLoss_holds hon, fun hclk => if_pos (by simp [hclk]), fun hclk => ⟨if_pos (.inl hclk), if_pos (.inl hclk)⟩, fun hq hclk hf => ?_,
      serclkReturn_returns hc hon, fun hq hdie htemp hf => dieOvertemp_greys hc hon hq hdie htemp hf, dieOvertemp_cool, dieCooled_notes, fun hdie htemp hhot => ?_⟩
    · exact ⟨_, clockLoss_greys hon hclk, clockGreyed_spec hc hq hf _⟩
    · obtain ⟨t, hexec, helec, hmem⟩ := dieCooled_recovers hdie htemp hhot
      refine ⟨t, hexec, ?_, ?_, hmem⟩
      · rw [helec]
        rfl
      · rw [helec]
        exact pfind_pput_self _ _ _

end Sys2Proof.Machine
end
